-- ==== Sys2Proof/Word.lean ====
section
/-! DEFINITION. The word types of the model (R6: little-endian, bit 0 least significant). -/

namespace Sys2Proof

/-- One byte. -/
abbrev Byte := BitVec 8

/-- One register: every register of the package is 64 bits wide (R46, R150, R188, R204, R224, R244, R265). -/
abbrev Word64 := BitVec 64

/-- One command of a stream: 64 bytes, little-endian (R47). -/
abbrev Cmd := BitVec 512

/-- One flit of a port: 256 bytes, byte 0 in bits 7:0 (R245). -/
abbrev Flit := BitVec 2048

/-- A sparse table keyed by number, in one canonical form: keys strictly rising, no entry equal to the default. -/
abbrev Tbl (α : Type) := List (Nat × α)

end Sys2Proof
end

