-- ==== Sys2Proof/Params.lean ====
section
/-! DEFINITION. What the commands carry beside numbers: structured operands, as the spec lays out the bytes they stand
for, and what the surroundings measure or answer. -/

namespace Sys2Proof.Machine

/-- Symbols in error that the reads of a command meet, by granule (address / 64); an unlisted granule reads well (R184). -/
abbrev Syms := Tbl Nat

/-- What the host answers to a read of the channel (R197, R355): the completion is good, and the bytes (of a bounce record: its
32-byte header, its ciphertext and its 16-byte tag). -/
structure HostData where
  ok : Bool
  bytes : List Byte
deriving DecidableEq, Repr

/-- The answer to a debug challenge (R357): the public key, the message its signature is over, and whether it verifies. -/
structure DebugSig where
  pub : List Byte
  msg : List Byte
  ok : Bool
deriving DecidableEq, Repr

/-- What a crossing's calibration measures (R208): the phase and setup margin in sixteenths of a receiver cycle, and the
least latency in receiver cycles that the margin allows. -/
structure Cal where
  phase : Nat
  margin : Nat
  lat : Nat
deriving DecidableEq, Repr

/-- What equalisation finds (R227, R235): whether the lane order is straight or reversed, and for each lane bit lock,
inversion, precoding and a clean receive direction. -/
structure Lanes where
  orderOk : Bool
  reversed : Bool
  locked : Nat
  inverted : Nat
  precode : Nat
  clean : Nat
deriving DecidableEq, Repr

/-! ## Control messages (R367, Table 19-3) -/

/-- A control entry as its function sends it: the function (0 the PF, p + 1 the VF of partition p), the CTRL_SQ it stands on, VERSION,
OP, HANDLE, TAG, ADDR, LEN and the 36 bytes of ARGS. An OP other than the row's own is one that Table 19-4 does not list. -/
structure Ctl where
  fn : Nat
  sq : Nat
  version : Nat
  op : Nat
  handle : Nat
  tag : Nat
  addr : Nat
  len : Nat
  args : List Byte
deriving DecidableEq, Repr

/-- A ring of RING_SETUP (R365, R367): its number, role, LOG2N, offset and vector, and for a CTRL_SQ the CTRL_CQ paired with it. -/
structure RingSpec where
  k : Nat
  role : Nat
  log2n : Nat
  off : Nat
  vector : Nat
  pair : Nat
deriving DecidableEq, Repr

/-! ## Plan images (R151 to R153). The header and the section table are the image's bytes; the spec gives no byte layout
for most records, so they stand by fields. -/

/-- An entry of the section table (R152) and the bytes its records take. -/
structure ImgSect where
  version : Nat
  typ : Nat
  rsv : Nat
  count : Nat
  off : Nat
  size : Nat
deriving DecidableEq, Repr

/-- A STREAMS record: node index, logical core, offset of the stream in the image and its command count. -/
structure ImgStream where
  node : Nat
  core : Nat
  off : Nat
  count : Nat
deriving DecidableEq, Repr

/-- A REGIONS record: node index, region index, tier (0 HBM, 1 cellar), size, and the offset of its initial contents in the image
(none: zero-fill). -/
structure ImgRegion where
  node : Nat
  idx : Nat
  tier : Nat
  size : Nat
  init : Option Nat
deriving DecidableEq, Repr

/-- A RELOCS record (Table 7-6); `rsv` gathers its reserved bits. -/
structure ImgReloc where
  core : Nat
  kind : Nat
  region : Nat
  cmd : Nat
  node : Nat
  rsv : Nat
deriving DecidableEq, Repr

/-- A PARAMS record: node index, logical core and its 64 slot codes (Table 7-7). -/
structure ImgParam where
  node : Nat
  core : Nat
  codes : List Nat
deriving DecidableEq, Repr

/-- A THRESHOLDS record: kind (0 on-chip, 1 system), number, start context, member logical cores as (node index, logical
core), and its tree. -/
structure ImgThr where
  kind : Nat
  num : Nat
  start : Bool
  members : List (Nat × Nat)
  tree : Nat
deriving DecidableEq, Repr

/-- A FANLIGHTS record: node index, tree ID, port mask, parent port (63: root), levels, dateline mask and logical cores. -/
structure ImgFan where
  node : Nat
  tree : Nat
  ports : Nat
  parent : Nat
  levels : Nat
  dl : Nat
  cores : List Nat
deriving DecidableEq, Repr

/-- A ROUTES record: node index, the plan node index routed to, planned port and dateline bit. -/
structure ImgRoute where
  node : Nat
  dest : Nat
  port : Nat
  dateline : Bool
deriving DecidableEq, Repr

/-- A RINGS record (R366). -/
structure ImgRing where
  version : Nat
  role : Nat
  log2n : Nat
  ent64 : Nat
  node : Nat
  region : Nat
  off : Nat
deriving DecidableEq, Repr

/-- An OUTPUTS record (Table 14-2); `rsv` gathers its reserved bits. -/
structure ImgOut where
  version : Nat
  role : Nat
  node : Nat
  region : Nat
  off : Nat
  len : Nat
  rsv : Nat
deriving DecidableEq, Repr

/-- A WEIGHTS record (Table 15-1); `rsv` gathers its reserved bits. -/
structure ImgWeight where
  version : Nat
  kind : Nat
  node : Nat
  region : Nat
  shard : Nat
  off : Nat
  len : Nat
  object : Nat
  expect : Nat
  rsv : Nat
deriving DecidableEq, Repr

/-- A plan image: the bytes its signature covers, up to the SIG section, and what the spec gives no byte layout for: the sizes of
the sections, by entry of the section table, and the records of STREAMS, REGIONS, PARAMS, THRESHOLDS, FANLIGHTS, ROUTES and RINGS; the
200 bytes of the SIG record (Table 18-2), and whether its signature verifies under its own PUBKEY (R349). -/
structure Image where
  signed : List Byte
  sizes : List Nat
  streams : List ImgStream
  regions : List ImgRegion
  params : List ImgParam
  thresholds : List ImgThr
  fans : List ImgFan
  routes : List ImgRoute
  rings : List ImgRing
  sig : List Byte
  sigOk : Bool
deriving DecidableEq, Repr

/-- What the host-side loader and Ranuat choose for a load (R156 to R158, R165): the node index, the node map, the rename
map of trees and of system contexts, FIRST_STEP, where Ranuat places each stream, each core's parameter pages and each
region of the node (none: nowhere), the ring numbers and the route entry indices it assigns, the plan's route set, the
HBM addresses of context areas for plans it evicts, the code the other nodes answer (0: resident there), and the symbol errors that
the reads of an eviction meet (R166). -/
structure Placing where
  node : Nat
  nodeMap : List Nat
  trees : List (Nat × Nat)
  ctxs : List (Nat × Nat)
  firstStep : Nat
  streams : List Nat
  pages : List Nat
  regions : List Nat
  rings : List Nat
  routes : List Nat
  set : Nat
  areas : List Nat
  others : Nat
  sym : Syms
deriving DecidableEq, Repr

/-! ## Start-up (R379 to R387) -/

/-- The port record of a port in the node section (R383). -/
structure PortRec where
  cls : Nat
  medium : Nat
  lengthM : Nat
  expNode : Nat
  expPort : Nat
  commonKib : Nat
deriving DecidableEq, Repr

/-- The node section of a configuration copy (R383) by fields: the spec gives it no byte layout. `bytes`: the section as it
stands in the NOR, which the leaf hash covers; `rsv`: a reserved bit of it is set; `slots`: the node of each board slot;
`base`: base entries as (member table, index, word); `mgmt`: management routes as (EID, port); `eth`: the MAC and IP
addresses. -/
structure NodeSect where
  bytes : List Byte
  rsv : Bool
  node : Nat
  slot : Nat
  slots : List (Option Nat)
  ports : List PortRec
  upport : Nat
  bkport : Nat
  depth : Nat
  ptpEn : Bool
  base : List (Bool × Nat × Nat)
  mgmt : List (Nat × Nat)
  cellarCh : Nat
  cellarGib : Nat
  limitW : Nat
  eth : List Nat
deriving DecidableEq, Repr

/-- A configuration copy of the NOR: whether its read fails, its 64-byte header (Table 20-2), the system section (Table 20-3,
fields in order without gaps), the node section, the leaf proof (index and sibling hashes), and of its signature record
the SHA-384 of PUBKEY and whether its form is good and the signature verifies (R380). -/
structure NorCopy where
  readErr : Bool
  head : List Byte
  sys : List Byte
  node : NodeSect
  index : Nat
  proof : List Nat
  signer : Nat
  sigOk : Bool
deriving DecidableEq, Repr

/-- The fuses of a package: its fused-off panes, the SHA-384 digests of the firmware and the configuration key (0: unfused),
MIN_SVN, SEC_DEVID, the unique device secret (48 bytes) and the DeviceID certificate (R351). -/
structure Fuses where
  fused : Nat
  fwKey : Nat
  cfgKey : Nat
  minSvn : Nat
  devid : Nat
  uds : List Byte
  cert : List Byte
deriving DecidableEq, Repr

/-- What a start finds: whether main power was cycled, whether the always-on rail was lost, whether the fuses and the NOR
read well, the fuses, the two copies, the calibration of each pane, hinge and stack crossing (in, out), and whether the
memories train; the temperature of the coldest die in °C (R428); and, when PWRFAIL_N acts during the start, the stage in which it
does and whether the counter write of stage 4 has been made by then (R389). -/
structure StartIn where
  cold : Bool
  aoLoss : Bool
  fuseOk : Bool
  norOk : Bool
  fuses : Fuses
  copyA : NorCopy
  copyB : NorCopy
  paneCals : List (Cal × Cal)
  hingeCals : List (Cal × Cal)
  stackCals : List (Cal × Cal)
  memOk : Bool
  dieC : Int
  cut : Option (Nat × Bool)
deriving DecidableEq, Repr

/-! ## The host side -/

/-- A write or a read by the host of a function's window (R364): BAR, offset, the bytes written (none: a read) and the
length read; `ide`: it came on the selective stream bound to the function's partition (R354). -/
structure Tlp where
  fn : Nat
  bar : Nat
  off : Nat
  data : Option (List Byte)
  len : Nat
  ide : Bool
deriving DecidableEq, Repr

/-- A request on I3C or SMBus (R375): MCTP control that sets or gets the endpoint ID, PLDM base discovery, a PLDM sensor
reading (0 power, 1 to 4 the dies, 5 to 12 the stacks, 13 to 25 the rails, 26 to 57 the panes, 58 tamper; the numbering is
the model's), another PLDM type, or an MCTP packet for endpoint `eid`. -/
inductive MgmtReq where
  | setEid (eid : Nat)
  | getEid
  | discovery
  | sensor (k : Nat)
  | otherType
  | packet (eid : Nat) (body : List Byte)
deriving DecidableEq, Repr

/-- What the owners of PART_CREATE set (R343): panes, ports, ring BASE, COUNT and POOL_MIB, the MEM_PHBM and MEM_PCEL words,
DMA channels, request and customer ranges (a RQT_PART word), and queue pairs as (jamb, pair). -/
structure Owners where
  panes : Nat
  ports : Nat
  ringBase : Nat
  ringCount : Nat
  poolMib : Nat
  hbm : Nat
  cel : Nat
  chans : List Nat
  rqt : Nat
  qps : List (Nat × Nat)
deriving DecidableEq, Repr

/-- The PTP messages the time master acts on (R222). -/
inductive PtpKind where
  | sync
  | followUp
  | delayResp
deriving DecidableEq, Repr

/-- A PTP message: Ethernet port, transport (0 UDP/IPv4, 1 UDP/IPv6, 2 IEEE 802.3), domain, kind, whether a Sync is of a two-step
master, sequence number, the time it carries and the phase of its receipt within the tick (1/256 ns). -/
structure PtpMsg where
  port : Nat
  transport : Nat
  domain : Nat
  kind : PtpKind
  twoStep : Bool
  seq : Nat
  ts : Nat
  phase : Nat
deriving DecidableEq, Repr

end Sys2Proof.Machine
end

