-- ==== Sys2Proof/Syntax.lean ====
section
/-! DEFINITION. The commands of the block: one constructor per row of spec/opcode_table.json, with the row's rule. The table
gives no bits and no operand fields: the operands are what the rule says the command names or carries, and what the
surroundings measure or answer (log entry 7).

Names: `core` 0 to 255, `eng` an engine code of Table 2-1, `seq` a sequence number, `p` a partition, `q` a port or a pane,
`jamb` 0 or 1, `c` a DMA channel, `j` a descriptor in flight, `h` a control message, `v` a register value, `sym` the symbol
errors that memory reads meet, `who` an SPDM requester, `k` and `r` a plan and its weight record, times in ns. -/

namespace Sys2Proof

open Sys2Proof.Machine

inductive Instr where
  /-- NOP (R70). -/
  | nop (core eng : Nat)
  /-- LD_COPY (R71). -/
  | ldCopy (core : Nat)
  /-- LD_PGATHER (R110). -/
  | ldPgather (core : Nat)
  /-- ST_COPY (R72). -/
  | stCopy (core : Nat)
  /-- SD_DATA (R73). -/
  | sdData (core : Nat)
  /-- SD_LATCH (R77). -/
  | sdLatch (core : Nat)
  /-- SD_ARRIVE (R78). -/
  | sdArrive (core : Nat)
  /-- BEAT_END (R79). -/
  | beatEnd (core : Nat)
  /-- STEP_END (R79). -/
  | stepEnd (core : Nat)
  /-- LATCH_RESET (R80). -/
  | latchReset (core : Nat)
  /-- PEEP_EMIT (R81). -/
  | peepEmit (core : Nat)
  /-- MM_WLOAD (R89). -/
  | mmWload (core : Nat)
  /-- MM_STREAM (R90). -/
  | mmStream (core : Nat)
  /-- MM_DRAIN (R92). -/
  | mmDrain (core : Nat)
  /-- VE_BINARY (R101). -/
  | veBinary (core : Nat)
  /-- VE_UNARY (R102). -/
  | veUnary (core : Nat)
  /-- VE_RREDUCE (R104). -/
  | veRreduce (core : Nat)
  /-- VE_OREDUCE (R106). -/
  | veOreduce (core : Nat)
  /-- VE_CMP (R107). -/
  | veCmp (core : Nat)
  /-- VE_TOPK (R108). -/
  | veTopk (core : Nat)
  /-- VE_TRANSPOSE (R109). -/
  | veTranspose (core : Nat)
  /-- DISPATCH_COMMAND (R23). -/
  | dispatchCommand (core : Nat)
  /-- STREAM_BLOCK_FETCH (R22). -/
  | streamBlockFetch (core : Nat) (sym : Syms)
  /-- COMMAND_COMPLETE (R60). -/
  | commandComplete (core eng lost : Nat)
  /-- LOAD_PIECE_ARRIVE (R71). -/
  | loadPieceArrive (core seq piece : Nat) (sym : Syms)
  /-- STORE_ACK (R72). -/
  | storeAck (core seq : Nat)
  /-- GRANULE_TAKEN (R42). -/
  | granuleTaken (core : Nat)
  /-- BEAT_OPEN (R37). -/
  | beatOpen (p refWait : Nat) (losses : List (Nat × Nat))
  /-- HOLD_TIMEOUT (R40). -/
  | holdTimeout (p : Nat)
  /-- STEP_COMPLETE (R67). -/
  | stepComplete (p refWait : Nat) (losses : List (Nat × Nat))
  /-- STORE_DRAIN_LOST (R44). -/
  | storeDrainLost (core : Nat)
  /-- DATA_ARRIVE (R74). -/
  | dataArrive (losses : List (Nat × Nat))
  /-- LATCH_WRITE_ARRIVE (R138). -/
  | latchWriteArrive
  /-- THRESHOLD_ARRIVE (R140). -/
  | thresholdArrive
  /-- ARRIVE_TOKEN (R144). -/
  | arriveToken
  /-- COMPLETE_TOKEN (R145). -/
  | completeToken
  /-- START_ARRIVE (R146). -/
  | startArrive (p : Nat) (sym : Syms) (areas : List Nat) (cals : List (Nat × Nat × Cal × Cal))
  /-- STEP_START (R147). -/
  | stepStart (p : Nat)
  /-- LOAD_PLAN (R155). -/
  | loadPlan (h : Ctl) (g : Image) (x : Placing)
  /-- UNLOAD_PLAN (R368). -/
  | unloadPlan (h : Ctl)
  /-- STEP (R369). -/
  | step (h : Ctl) (areas : List Nat) (sym : Syms)
  /-- PARTITION_INFO (R344). -/
  | partitionInfo (h : Ctl)
  /-- PEEP_ENABLE (R372). -/
  | peepEnable (h : Ctl) (id mask : Nat) (on : Bool)
  /-- RING_SETUP (R365). -/
  | ringSetup (h : Ctl) (xs : List RingSpec)
  /-- PIN (R371). -/
  | pin (h : Ctl) (part : Nat) (on : Bool)
  /-- LOG_FLUSH (R373). -/
  | logFlush (h : Ctl)
  /-- FW_UPDATE (R374). -/
  | fwUpdate (h : Ctl) (sigOk good : Bool)
  /-- UPDATE_DRAIN_TIMEOUT (R374). -/
  | updateDrainTimeout
  /-- HANDOVER_TIMEOUT (R374). -/
  | handoverTimeout
  /-- MEM_ACCESS (R179). -/
  | memAccess (g : Nat) (wr : Bool) (off : Nat) (data : List Byte) (sym : Nat)
  /-- HBM_REFRESH (R181). -/
  | hbmRefresh (h : Nat)
  /-- CELLAR_REFRESH (R181). -/
  | cellarRefresh (c : Nat)
  /-- PATROL_SCRUB (R186). -/
  | patrolScrub (sym : Nat)
  /-- SKEW_WINDOW (R176). -/
  | skewWindow
  /-- HBM_TEMP_REPORT (R183). -/
  | hbmTempReport (stack temp : Nat)
  /-- MEM_PHBM_WRITE (R172). -/
  | memPhbmWrite (p : Nat) (v : Word64)
  /-- MEM_PCEL_WRITE (R173). -/
  | memPcelWrite (p : Nat) (v : Word64)
  /-- MEM_REQUEST (R248). -/
  | memRequest (sym : Syms)
  /-- MEM_RESPONSE (R248). -/
  | memResponse
  /-- DMA_DOORBELL (R192). -/
  | dmaDoorbell (jamb c : Nat) (v : Word64)
  /-- DESCRIPTOR_FETCH (R193). -/
  | descriptorFetch (jamb c : Nat) (sym : Syms)
  /-- DMA_PIECE (R199). -/
  | dmaPiece (jamb c j : Nat) (sym : Syms) (host : HostData)
  /-- DESCRIPTOR_COMPLETE (R201). -/
  | descriptorComplete (jamb c : Nat) (sym : Syms) (hostOk : Bool)
  /-- DMA_TIMEOUT (R197). -/
  | dmaTimeout (jamb c j : Nat)
  /-- DMA_STOP (R203). -/
  | dmaStop (jamb c : Nat) (v : Word64)
  /-- DMA_RESUME (R193). -/
  | dmaResume (jamb c : Nat) (v : Word64)
  /-- PANE_FREQ_REQUEST (R211). -/
  | paneFreqRequest (q : Nat) (v : Word64)
  /-- PANE_FREQ_CHANGE (R212). -/
  | paneFreqChange (q : Nat)
  /-- CROSSING_DRIFT (R210). -/
  | crossingDrift (kind i : Nat) (inbound : Bool)
  /-- REFCLK_LOSS (R205). -/
  | refclkLoss
  /-- TIME_STEP (R221). -/
  | timeStep (v : Word64)
  /-- BEACON_SYNC_SEND (R218). -/
  | beaconSyncSend (q : Nat)
  /-- SYNC (R218). -/
  | sync (q : Nat)
  /-- DELAY_REQ (R218). -/
  | delayReq (q : Nat)
  /-- DELAY_RESP (R218). -/
  | delayResp (q : Nat)
  /-- BEACON_EXCHANGE_FAIL (R220). -/
  | beaconExchangeFail
  /-- TIMEBASE_STEP (R221). -/
  | timebaseStep
  /-- PTP_MESSAGE (R222). -/
  | ptpMessage (m : PtpMsg)
  /-- RETRAIN (R234). -/
  | retrain (q : Nat) (v : Word64)
  /-- SLEEP (R241). -/
  | sleep (q : Nat) (v : Word64)
  /-- WAKE (R242). -/
  | wake (q : Nat) (v : Word64)
  /-- OFF (R243). -/
  | off (q : Nat) (v : Word64)
  /-- PARTNER_SIGNAL (R234). -/
  | partnerSignal (q silence : Nat) (powered : Bool)
  /-- EQUALISE (R235). -/
  | equalise (q : Nat) (l : Lanes)
  /-- ALIGN_DONE (R234). -/
  | alignDone (q : Nat) (cin cout : Cal)
  /-- TRAINING_STAGE_TIMEOUT (R234). -/
  | trainingStageTimeout (q : Nat)
  /-- TRAINING_FRAME (R238). -/
  | trainingFrame (q seq ack : Nat) (b : List Byte)
  /-- LANE_FAIL (R239). -/
  | laneFail (q lost : Nat) (hits : Tbl Nat)
  /-- SLEEP_TIMEOUT (R241). -/
  | sleepTimeout (q : Nat)
  /-- PARTNER_WAKE (R242). -/
  | partnerWake (q : Nat)
  /-- RELOCK (R242). -/
  | relock (q : Nat) (ok : Bool)
  /-- FLIT_RECEIVE (R250). -/
  | flitReceive (q corr uncorr : Nat) (bad : Bool) (phase : Nat) (f : Flit)
  /-- GOING_AWAY (R263). -/
  | goingAway (q : Nat) (body : List Byte)
  /-- ACK_TIMEOUT (R252). -/
  | ackTimeout (q : Nat)
  /-- NAK_TIMEOUT (R251). -/
  | nakTimeout (q : Nat)
  /-- BSF_SEND (R255). -/
  | bsfSend (q : Nat)
  /-- CREDIT_TIMEOUT (R255). -/
  | creditTimeout (q : Nat)
  /-- HOLD_TIME_EXPIRY (R261). -/
  | holdTimeExpiry (q : Nat)
  /-- LINK_LOST (R397). -/
  | linkLost (p : Nat)
  /-- ROUTE_LOOKUP (R266). -/
  | routeLookup (ties : Nat)
  /-- RTE_ENTRY_WRITE (R268). -/
  | rteEntryWrite (mbr : Bool) (i : Nat) (v : Word64)
  /-- FAN_ENTRY_WRITE (R284). -/
  | fanEntryWrite (t w : Nat) (v : Word64)
  /-- RTE_PSET_WRITE (R282). -/
  | rtePsetWrite (p : Nat) (v : Word64)
  /-- INPUT_DIGEST (R293). -/
  | inputDigest (p : Nat) (sym : Syms)
  /-- WEIGHT_LOAD (R305). -/
  | weightLoad (h : Ctl) (sym : Syms)
  /-- ADAPTER_LOAD (R312). -/
  | adapterLoad (h : Ctl) (id rank len expect : Nat) (e : List Byte)
  /-- QP_CONNECT (R305). -/
  | qpConnect (h : Ctl) (jamb qp : Nat) (ok : Bool)
  /-- RDMA_READ_RESPONSE (R307). -/
  | rdmaReadResponse (jamb qp : Nat) (ecn : Bool) (data : List Byte) (sym : Syms)
  /-- RDMA_RETRY_EXHAUSTED (R307). -/
  | rdmaRetryExhausted (jamb qp : Nat)
  /-- CHAIN_POLL (R308). -/
  | chainPoll (k r : Nat) (sym : Syms)
  /-- CHAIN_WORD_WRITE (R308). -/
  | chainWordWrite (k r : Nat) (sym : Syms)
  /-- CHAIN_BREAK (R310). -/
  | chainBreak (k r : Nat)
  /-- SUCC_LOST (R310). -/
  | succLost (k r : Nat)
  /-- CHAIN_REPAIR_TIMEOUT (R310). -/
  | chainRepairTimeout (k r : Nat)
  /-- SERVE_CONFIG (R315). -/
  | serveConfig (h : Ctl)
  /-- SAMPLER_CONFIG (R330). -/
  | samplerConfig (h : Ctl)
  /-- CUSTOMER_SET (R317). -/
  | customerSet (h : Ctl) (id : Nat)
  /-- PRIO_SET (R319). -/
  | prioSet (h : Ctl)
  /-- REQ_QUERY (R322). -/
  | reqQuery (h : Ctl) (tag : Nat)
  /-- SUBMIT (R320). -/
  | submit (k : Nat)
  /-- CANCEL (R327). -/
  | cancel (k : Nat)
  /-- SERVING_BOUNDARY (R327). -/
  | servingBoundary (p : Nat) (redo : Bool) (areas : List Nat)
  /-- SPILL (R324). -/
  | spill (p ent : Nat)
  /-- SAMPLE_ROW (R336). -/
  | sampleRow (p lane : Nat) (sym : Syms)
  /-- PART_CREATE (R343). -/
  | partCreate (h : Ctl) (p : Nat) (o : Owners)
  /-- CREATE (R343). -/
  | create (p : Nat)
  /-- PART_TEARDOWN (R348). -/
  | partTeardown (h : Ctl) (p : Nat)
  /-- TEARDOWN (R348). -/
  | teardown (p : Nat)
  /-- SET_PLAN_KEY (R350). -/
  | setPlanKey (who p digest : Nat)
  /-- SET_HOST_MODE (R354). -/
  | setHostMode (p mode : Nat)
  /-- IDE_KM (R354). -/
  | ideKm (p : Nat)
  /-- GET_VERSION (R352). -/
  | getVersion (who : Nat)
  /-- GET_CAPABILITIES (R352). -/
  | getCapabilities (who : Nat)
  /-- NEGOTIATE_ALGORITHMS (R352). -/
  | negotiateAlgorithms (who offer : Nat)
  /-- GET_DIGESTS (R352). -/
  | getDigests (who : Nat)
  /-- GET_CERTIFICATE (R352). -/
  | getCertificate (who n : Nat)
  /-- CHALLENGE (R352). -/
  | challenge (who : Nat)
  /-- GET_MEASUREMENTS (R353). -/
  | getMeasurements (who sess index nonce : Nat)
  /-- KEY_EXCHANGE (R352). -/
  | keyExchange (who : Nat)
  /-- FINISH (R352). -/
  | finish (who id : Nat) (ok : Bool)
  /-- KEY_UPDATE (R356). -/
  | keyUpdate (who id : Nat)
  /-- HEARTBEAT (R352). -/
  | heartbeat (who id : Nat)
  /-- END_SESSION (R352). -/
  | endSession (who id : Nat)
  /-- DEBUG_NONCE (R357). -/
  | debugNonce
  /-- DEBUG_UNLOCK (R358). -/
  | debugUnlock (nonce level : Nat) (g : DebugSig)
  /-- TAMPER_ALARM (R359). -/
  | tamperAlarm (cause sensor : Nat)
  /-- TAMPER_CLEAR (R361). -/
  | tamperClear (v : Word64) (trip : Bool)
  /-- CTL_DOORBELL (R366). -/
  | ctlDoorbell (fn : Nat) (v : Word64) (at' : Nat) (recs : List HostData)
  /-- FWLOAD (R370). -/
  | fwload (v : Word64) (sigOk : Bool)
  /-- POWER_LOOP (R371). -/
  | powerLoop (avg : Nat) (ps : List Nat) (rails : List (Nat × Nat))
  /-- THERMAL_LOOP (R371). -/
  | thermalLoop (dies hbm : List Nat) (ps : List Nat)
  /-- PEEPHOLE_DELIVER (R372). -/
  | peepholeDeliver (core : Nat)
  /-- LOG_COPY (R373). -/
  | logCopy
  /-- MGMT_PACKET (R375). -/
  | mgmtPacket
  /-- UART_RX_CHAR (R377). -/
  | uartRxChar (v : BitVec 160)
  /-- RESET (R387). -/
  | reset (x : StartIn)
  /-- RANUAT_TIMEOUT (R387). -/
  | ranuatTimeout
  /-- RESET_ASSERT (R418). -/
  | resetAssert
  /-- PWRFAIL (R389). -/
  | pwrfail
  /-- ABORT_RECEIVE (R398). -/
  | abortReceive
  /-- QUIET_END (R399). -/
  | quietEnd (p : Nat) (replay : Bool)
  /-- STEP_REPLAY (R394). -/
  | stepReplay (p : Nat)
  /-- LOCKSTEP_TEST (R405). -/
  | lockstepTest (ok : Bool)
  /-- LOCKSTEP_MISMATCH (R406). -/
  | lockstepMismatch (parity : Bool)
  /-- CONTROL_COMPLEX_RESET (R407). -/
  | controlComplexReset
  /-- RS_DOORBELL (R410). -/
  | rsDoorbell (jamb p : Nat) (v : Word64)
  /-- ENCODE (R411). -/
  | encode (jamb p : Nat) (sym : Syms)
  /-- REBUILD (R411). -/
  | rebuild (jamb p : Nat) (sym : Syms)
  /-- RS_JOB_COMPLETE (R411). -/
  | rsJobComplete (jamb p : Nat)
  /-- DROOP (R421). -/
  | droop (q : Nat)
  /-- OVERCURRENT (R421). -/
  | overcurrent (leaf : Nat)
  /-- THERMAL (R421). -/
  | thermal
  /-- PROCHOT (R421). -/
  | prochot (low : Bool)
  /-- EMERG_CLEAR (R421). -/
  | emergClear (q : Nat)
  /-- THERMAL_TRIP (R423). -/
  | thermalTrip
  /-- STANDBY_ENTRY (R425). -/
  | standbyEntry (idle : Nat) (drained : Bool)
  /-- SLEEP_ENTRY (R425). -/
  | sleepEntry (drained : Bool)
  /-- RUN_RETURN (R426). -/
  | runReturn (d0 : Bool) (cals : List (Cal × Cal))
  /-- RAIL_OUT5 (R416). -/
  | railOut5 (k mv da : Nat)
  /-- RAIL_UNDERVOLT (R418). -/
  | railUndervolt (k : Nat)
  /-- REGISTER_WRITE (R7). -/
  | registerWrite (a : Nat) (v : Word64) (ok : Bool)
  /-- PANE_RESTART (R212). -/
  | paneRestart (q ns : Nat) (cin cout : Cal)
  /-- DEGRADE_REALIGN (R240). -/
  | degradeRealign (q : Nat)
  /-- FLIT_SLOT (R259). -/
  | flitSlot (q phase : Nat)
  /-- INBOUND_TLP (R364). -/
  | inboundTlp (t : Tlp) (at' : Nat) (recs : List HostData) (sigOk : Bool) (sym : Syms)
  /-- INBOUND_PACKET (R307). -/
  | inboundPacket (jamb kind : Nat)
  /-- PLDM_REQUEST (R375). -/
  | pldmRequest (r : MgmtReq) (cals : List (Cal × Cal))
  /-- PTP_LOST (R222). -/
  | ptpLost
  /-- ENTROPY_FAIL (R343). -/
  | entropyFail
deriving DecidableEq, Repr

end Sys2Proof
end

