-- ==== Sys2Proof/Machine/Bits.lean ====
section
/-! DEFINITION. Bit fields, sign extension and byte order (R6). -/

namespace Sys2Proof.Machine

/-- Bits `lo + w - 1 : lo` of `v`. -/
def bitsOf (v lo w : Nat) : Nat := v / 2 ^ lo % 2 ^ w

/-- `v` with bits `lo + w - 1 : lo` replaced by `x`. -/
def setBits (v lo w x : Nat) : Nat :=
  v % 2 ^ lo + 2 ^ lo * (x % 2 ^ w + 2 ^ w * (v / 2 ^ (lo + w)))

/-- Bit `i` of `v`. -/
def bitAt (v i : Nat) : Bool := v / 2 ^ i % 2 == 1

/-- The signed value of a `w`-bit field. -/
def signed (w x : Nat) : Int := if bitAt x (w - 1) then (x : Int) - 2 ^ w else x

/-- The `w`-bit two's-complement code of `z`. -/
def unsigned (w : Nat) (z : Int) : Nat := (z % (2 ^ w : Int)).toNat

/-- The little-endian number of a list of bytes. -/
def leNat : List Byte → Nat
  | [] => 0
  | b :: t => b.toNat + 256 * leNat t

/-- The `n` little-endian bytes of `v`. -/
def leBytes : Nat → Nat → List Byte
  | 0, _ => []
  | n + 1, v => BitVec.ofNat 8 v :: leBytes n (v / 256)

/-- Bytes `lo` to `lo + n - 1` of a list, as a little-endian number. -/
def leAt (bs : List Byte) (lo n : Nat) : Nat := leNat ((bs.drop lo).take n)

/-- `n` bytes of a list from offset `lo`. -/
def slice (bs : List Byte) (lo n : Nat) : List Byte := (bs.drop lo).take n

/-- A list of exactly `n` bytes: cut, or filled with zeros. -/
def padTo (n : Nat) (bs : List Byte) : List Byte := bs.take n ++ List.replicate (n - bs.length) 0

/-- Saturating addition at `2 ^ w - 1`. -/
def satAdd (w a b : Nat) : Nat := min (2 ^ w - 1) (a + b)

/-- `n` rounded up to a multiple of `m`. -/
def roundUp (n m : Nat) : Nat := (n + m - 1) / m * m

/-- One bit as a number. -/
def bit (b : Bool) : Nat := if b then 1 else 0

/-- The positions of the one bits of `v` below `n`, ascending. -/
def onesOf (v n : Nat) : List Nat := (List.range n).filter (bitAt v)

end Sys2Proof.Machine
end

