-- ==== Sys2Proof/Machine/Sha384.lean ====
section
/-! DEFINITION. SHA-384, the hash the spec names for every digest (FIPS 180-4; the spec gives no text of it: PRESUMED, log entry
24). The constants are computed, not listed: fraction bits of the cube and square roots of the primes. The working variables are
the list `a` to `h` of numbers below 2 ^ 64. -/

namespace Sys2Proof.Machine

/-- Set bits `n - 1 : 0` of `r`, highest first, while its `k`-th power stays at most `m`. -/
def rootGo (k m : Nat) : Nat → Nat → Nat
  | 0, r => r
  | n + 1, r => rootGo k m n (if (r + 2 ^ n) ^ k ≤ m then r + 2 ^ n else r)

/-- The first 64 fraction bits of the `k`-th root of a number below 512. -/
def rootFrac (k p : Nat) : Nat := rootGo k (p * 2 ^ (64 * k)) 69 0 % 2 ^ 64

/-- The 80 primes below 410. -/
def shaPrimes : List Nat :=
  (List.range 410).filter (fun n => decide (2 ≤ n) && [2, 3, 5, 7, 11, 13, 17, 19].all (fun d => n == d || n % d != 0))

/-- A number of 64 bits rotated right by each of the amounts, and shifted right by `c` (not when 0), xored together. -/
def shaMix (rots : List Nat) (c x : Nat) : Nat :=
  rots.foldl (fun a n => a ^^^ (x * (2 ^ 64 + 1) / 2 ^ n % 2 ^ 64)) (if c = 0 then 0 else x / 2 ^ c)

/-- One round: `k` is the round's prime, `w` its word of the message schedule. -/
def shaRound (v : List Nat) (k w : Nat) : List Nat :=
  let (a, b, c) := (v.getD 0 0, v.getD 1 0, v.getD 2 0)
  let (e, f, g) := (v.getD 4 0, v.getD 5 0, v.getD 6 0)
  let t := v.getD 7 0 + shaMix [14, 18, 41] 0 e + (g ^^^ (e &&& (f ^^^ g))) + rootFrac 3 k + w
  let u := shaMix [28, 34, 39] 0 a + ((a &&& b) ||| (c &&& (a ||| b)))
  (t + u) % 2 ^ 64 :: v.take 3 ++ (v.getD 3 0 + t) % 2 ^ 64 :: (v.drop 4).take 3

/-- The rounds of one block over a window of the schedule, its oldest word first. -/
def shaRounds : List Nat → List Nat → List Nat → List Nat
  | v, [], _ => v
  | v, k :: ks, win =>
    let w := win.getD 0 0
    let next := shaMix [19, 61] 6 (win.getD 14 0) + win.getD 9 0 + shaMix [1, 8] 7 (win.getD 1 0) + w
    shaRounds (shaRound v k w) ks (win.drop 1 ++ [next % 2 ^ 64])

/-- A big-endian number. -/
def beNat (bs : List Byte) : Nat := leNat bs.reverse

/-- The `n` big-endian bytes of a number. -/
def beBytes (n v : Nat) : List Byte := (leBytes n v).reverse

/-- Take the next `n` blocks of 128 bytes into the hash value. -/
def shaBlocks : List Nat → List Byte → Nat → List Nat
  | v, _, 0 => v
  | v, bs, n + 1 =>
    let win := (List.range 16).map (fun i => beNat (slice bs (8 * i) 8))
    shaBlocks (List.zipWith (fun x y => (x + y) % 2 ^ 64) v (shaRounds v shaPrimes win)) (bs.drop 128) n

/-- The padded message: a one bit, zeros, and the bit length in 16 bytes. -/
def shaPad (bs : List Byte) : List Byte :=
  bs ++ [0x80] ++ List.replicate ((239 - bs.length % 128) % 128) 0 ++ beBytes 16 (8 * bs.length)

/-- SHA-384: 48 bytes. The hash value starts at the square roots of the ninth to sixteenth primes. -/
def sha384 (bs : List Byte) : List Byte :=
  let p := shaPad bs
  ((shaBlocks (((shaPrimes.drop 8).take 8).map (rootFrac 2)) p (p.length / 128)).take 6).flatMap (beBytes 8)

/-- SHA-384 as a little-endian number of 48 bytes. -/
def sha384n (bs : List Byte) : Nat := leNat (sha384 bs)

end Sys2Proof.Machine
end

