-- ==== Sys2Proof/Machine/Crc.lean ====
section
/-! DEFINITION. The CRC-32 of IEEE 802.3 (R245): polynomial 0x04C11DB7, initial value all ones, result complemented,
each byte taken from its least significant bit (the reflected form of that standard). -/

namespace Sys2Proof.Machine

/-- `n` bit steps of the reflected polynomial. -/
def crcBits : Nat → Nat → Nat
  | 0, c => c
  | n + 1, c => crcBits n (if c % 2 = 1 then (c / 2) ^^^ 0xEDB88320 else c / 2)

/-- One byte. -/
def crcByte (c : Nat) (b : Byte) : Nat := crcBits 8 (c ^^^ b.toNat)

/-- The CRC-32 of a list of bytes. -/
def crc32 (bs : List Byte) : Nat := (bs.foldl crcByte 0xFFFFFFFF) ^^^ 0xFFFFFFFF

end Sys2Proof.Machine
end

