-- ==== Sys2Proof/Config.lean ====
section
/-! DEFINITION. What an implementation fixes and the values the spec leaves open: opaque constants with no body, so a
statement about a free value holds for every value of it. -/

namespace Sys2Proof

/-- The choice left open by the accuracy bounds of Table 4-10 (R99): for a sub-operation and an input, which of the codes
within the bound is the result, counted from the lowest (modulo their number). -/
opaque Config.ulpChoice : Nat → BitVec 32 → Nat

/-- A byte the machine leaves open (a read under another key, R178): the free counter selects it. -/
opaque Config.freeByte : Nat → Byte

/-- A 64-bit number the machine leaves open (random bits, firmware choices): the free counter selects it. -/
opaque Config.freeWord : Nat → Word64

/-- The rate the servo sets after an offset (R219), before the clamp of R215. -/
opaque Config.servoRate : Nat → Int

/-- The public point of a P-384 private key (R351): X then Y. The spec names the curve and gives no text of it. -/
opaque Config.p384Pub : List Byte → List Byte

/-- The HKDF label of the private key of a layer of Table 18-3 (0 DeviceID, 1 alias), which the spec does not state. -/
opaque Config.keyLabel : Nat → List Byte

/-- A certificate over its content, under a private key (Table 18-3): its layout is the standards' and its signature random. -/
opaque Config.certify : List Byte → List Byte → List Byte

/-- How many entries the log buffer holds (R373), less one: the spec gives its place in SRAM and not its size. -/
opaque Config.logSlots : Nat

/-- The body of a handover block or boundary checkpoint (R374, R407), whose layout the spec does not give: of the free counter and the
timebase. -/
opaque Config.handBody : Nat → Nat → List Byte

/-- The SHA-384 of the Terostor debug key (R357): fixed by the part, its value not in the spec. -/
opaque Config.debugKey : Nat

/-- The SHA-384 of the boot ROM (Table 18-4, index 1): fixed by the part, its value not in the spec. -/
opaque Config.bootRom : Nat

end Sys2Proof
end

