-- ==== Sys2Proof/Machine/Flags.lean ====
section
/-! DEFINITION. The exception flags of MATRIX and VECTOR (R128, Table 5-6) as a mask, in the order of CORE_AFLAGS. -/

namespace Sys2Proof.Machine

/-- NV: an operation on non-NaN inputs gives NaN, or an input has no representation in the output. -/
def flagNV : Nat := 1
/-- DZ: division of a finite non-zero value by zero, or LOG, RSQRT, RECIP of zero. -/
def flagDZ : Nat := 2
/-- OF: the rounded magnitude exceeds the largest finite value, or an infinity enters an MX block. -/
def flagOF : Nat := 4
/-- UF: a non-zero exact result below the smallest normal is rounded inexactly. -/
def flagUF : Nat := 8
/-- NX: the value differs from the exact result. -/
def flagNX : Nat := 16
/-- SA: a value was replaced by the largest finite value of its format. -/
def flagSA : Nat := 32

/-- A result with the flags its computation raised. -/
structure Flagged where
  val : Nat
  fl : Nat
deriving DecidableEq, Repr

/-- The union of two flag masks. -/
def orf (a b : Nat) : Nat := a ||| b

end Sys2Proof.Machine
end

