-- ==== Sys2Proof/Machine/Float.lean ====
section
/-! DEFINITION. Number formats and arithmetic (05_arithmetic.md): exact decoding, one rounding, special values. -/

namespace Sys2Proof.Machine

/-- A floating-point format: exponent and mantissa bits, bias, and the largest finite code without sign (Table 5-1). -/
structure FFmt where
  e : Nat
  m : Nat
  bias : Nat
  maxCode : Nat
  hasInf : Bool
  nanCode : Nat
deriving DecidableEq, Repr

def fp32 : FFmt := ⟨8, 23, 127, 0x7F7FFFFF, true, 0x7FC00000⟩
def bf16 : FFmt := ⟨8, 7, 127, 0x7F7F, true, 0x7FC0⟩
def fp16 : FFmt := ⟨5, 10, 15, 0x7BFF, true, 0x7E00⟩
def e4m3 : FFmt := ⟨4, 3, 7, 0x7E, false, 0x7F⟩
def e5m2 : FFmt := ⟨5, 2, 15, 0x7B, true, 0x7F⟩
def e2m3 : FFmt := ⟨2, 3, 1, 0x1F, false, 0⟩
def e3m2 : FFmt := ⟨3, 2, 3, 0x1F, false, 0⟩
def e2m1 : FFmt := ⟨2, 1, 1, 0x7, false, 0⟩

/-- The bits of a code without its sign. -/
def FFmt.bits (F : FFmt) : Nat := F.e + F.m

/-- The exponent of the smallest normal. -/
def FFmt.emin (F : FFmt) : Int := 1 - (F.bias : Int)

/-- A decoded value: NaN, an infinity, or (-1)^neg * m * 2^e. -/
inductive Num where
  | nan
  | inf (neg : Bool)
  | fin (neg : Bool) (m : Nat) (e : Int)
deriving DecidableEq, Repr

/-- Decoding an element (R112); subnormals are kept. -/
def FFmt.decode (F : FFmt) (c : Nat) : Num :=
  let neg := bitAt c F.bits
  let E := bitsOf c F.m F.e
  let m := bitsOf c 0 F.m
  let mag := bitsOf c 0 F.bits
  if F.hasInf && E == 2 ^ F.e - 1 then
    if m = 0 then .inf neg else .nan
  else if !F.hasInf && F.nanCode ≠ 0 && mag == F.nanCode then .nan
  else if E = 0 then .fin neg m (F.emin - F.m)
  else .fin neg (2 ^ F.m + m) ((E : Int) - F.bias - F.m)

/-- Rounding modes: nearest-even, toward zero, stochastic with its 24-bit draw. -/
inductive Rnd where
  | rne
  | rtz
  | stoch (r : Nat)
deriving DecidableEq, Repr

/-- Shift by a signed amount (right shifts drop bits). -/
def shl (m : Nat) (k : Int) : Nat := if 0 ≤ k then m * 2 ^ k.toNat else m / 2 ^ (-k).toNat

/-- The rounded number of quanta of `m * 2^e` (plus less than one unit when `sticky`) at quantum `2^qe`, and whether
it differs from the exact value (R121). -/
def roundQuanta (m : Nat) (e : Int) (sticky : Bool) (qe : Int) (rnd : Rnd) : Nat × Bool :=
  if qe ≤ e then
    let lo := m * 2 ^ (e - qe).toNat
    match rnd with
    | .rne => (lo, sticky)
    | .rtz => (lo, sticky)
    | .stoch _ => (lo, sticky)
  else
    let sh := (qe - e).toNat
    let lo := m / 2 ^ sh
    let rem := m % 2 ^ sh
    let inexact := rem ≠ 0 || sticky
    let half := 2 ^ (sh - 1)
    match rnd with
    | .rne =>
      let up := half < rem || (rem == half && (sticky || lo % 2 == 1))
      (if up then lo + 1 else lo, inexact)
    | .rtz => (lo, inexact)
    | .stoch r => (if r < 2 ^ 24 * rem / 2 ^ sh then lo + 1 else lo, inexact)

/-- The floor of the binary logarithm of a non-zero number. -/
def log2 (m : Nat) : Nat := Nat.log2 m

/-- Sign bit of a format. -/
def FFmt.sign (F : FFmt) (neg : Bool) : Nat := if neg then 2 ^ F.bits else 0

/-- The infinity of a format that has one. -/
def FFmt.infCode (F : FFmt) : Nat := (2 ^ F.e - 1) * 2 ^ F.m

/-- A magnitude lies above the largest finite value of a format (R123 compares before any rounding). -/
def FFmt.above (F : FFmt) (m : Nat) (e : Int) : Bool :=
  match F.decode F.maxCode with
  | .fin _ k x => decide (k * 2 ^ (x - min e x).toNat < m * 2 ^ (e - min e x).toNat)
  | _ => false

/-- Conversion of a non-zero finite magnitude (R121, R122, the overflow columns of Table 5-4). -/
def FFmt.roundFin (F : FFmt) (neg : Bool) (m : Nat) (e : Int) (sticky : Bool) (rnd : Rnd) (sat : Bool) : Flagged :=
  let l : Int := (log2 m : Int) + e
  let qe : Int := max l F.emin - F.m
  let (v, inx) := roundQuanta m e sticky qe rnd
  let tiny := decide (l < F.emin)
  let code : Nat := if v < 2 ^ F.m then v else (qe + F.m - F.emin + 1).toNat * 2 ^ F.m + (v - 2 ^ F.m)
  if F.maxCode < code then
    let toMax := F.sign neg + F.maxCode
    if rnd == .rtz then ⟨toMax, orf flagOF (orf flagSA flagNX)⟩
    else if sat then ⟨toMax, orf flagOF (orf flagSA flagNX)⟩
    else if F.hasInf then ⟨F.sign neg + F.infCode, orf flagOF flagNX⟩
    else ⟨F.nanCode, orf flagOF flagNX⟩
  else
    ⟨F.sign neg + code, if inx then (if tiny then orf flagUF flagNX else flagNX) else 0⟩

/-- The conversion of R121 with the special values of Table 5-4. -/
def FFmt.convert (F : FFmt) (x : Num) (rnd : Rnd) (sat : Bool) : Flagged :=
  match x with
  | .nan => ⟨F.nanCode, 0⟩
  | .inf neg =>
    if F.hasInf then ⟨F.sign neg + F.infCode, 0⟩
    else if sat then ⟨F.sign neg + F.maxCode, flagSA⟩
    else ⟨F.nanCode, flagNV⟩
  | .fin neg m e => if m = 0 then ⟨F.sign neg, 0⟩ else F.roundFin neg m e false rnd sat

/-- An FP32 result rounded once to nearest-even (R99, R118). -/
def toFp32 (x : Num) : Flagged := fp32.convert x .rne false

/-- Exact sum of two finite values; an exact zero is +0.0 unless both are -0.0 (R118). -/
def finAdd (n1 : Bool) (m1 : Nat) (e1 : Int) (n2 : Bool) (m2 : Nat) (e2 : Int) : Num :=
  let e := min e1 e2
  let a : Int := (if n1 then -1 else 1) * ((m1 * 2 ^ (e1 - e).toNat : Nat) : Int)
  let b : Int := (if n2 then -1 else 1) * ((m2 * 2 ^ (e2 - e).toNat : Nat) : Int)
  let z := a + b
  if z = 0 then .fin (n1 && n2 && m1 == 0 && m2 == 0) 0 e else .fin (decide (z < 0)) z.natAbs e

/-- Exact sum and its NV flag (Table 5-5). -/
def numAdd (x y : Num) : Num × Nat :=
  match x, y with
  | .nan, _ => (.nan, 0)
  | _, .nan => (.nan, 0)
  | .inf a, .inf b => if a = b then (.inf a, 0) else (.nan, flagNV)
  | .inf a, _ => (.inf a, 0)
  | _, .inf b => (.inf b, 0)
  | .fin n1 m1 e1, .fin n2 m2 e2 => (finAdd n1 m1 e1 n2 m2 e2, 0)

/-- The negated value. -/
def Num.neg : Num → Num
  | .nan => .nan
  | .inf n => .inf (!n)
  | .fin n m e => .fin (!n) m e

/-- Exact product and its NV flag. -/
def numMul (x y : Num) : Num × Nat :=
  match x, y with
  | .nan, _ => (.nan, 0)
  | _, .nan => (.nan, 0)
  | .inf a, .inf b => (.inf (a != b), 0)
  | .inf a, .fin n m _ => if m = 0 then (.nan, flagNV) else (.inf (a != n), 0)
  | .fin n m _, .inf b => if m = 0 then (.nan, flagNV) else (.inf (n != b), 0)
  | .fin n1 m1 e1, .fin n2 m2 e2 => (.fin (n1 != n2) (m1 * m2) (e1 + e2), 0)

/-- FP32 rounding of an exact value with the flags of the exact operation. -/
def roundWith (r : Num × Nat) : Flagged :=
  let f := toFp32 r.1
  ⟨f.val, orf r.2 f.fl⟩

/-- FP32 addition, subtraction and multiplication, rounded once. -/
def fadd (a b : Nat) : Flagged := roundWith (numAdd (fp32.decode a) (fp32.decode b))
def fsub (a b : Nat) : Flagged := roundWith (numAdd (fp32.decode a) (fp32.decode b).neg)
def fmul (a b : Nat) : Flagged := roundWith (numMul (fp32.decode a) (fp32.decode b))

/-- FP32 division, correctly rounded (Table 5-5). -/
def fdiv (a b : Nat) : Flagged :=
  match fp32.decode a, fp32.decode b with
  | .nan, _ => ⟨fp32.nanCode, 0⟩
  | _, .nan => ⟨fp32.nanCode, 0⟩
  | .inf _, .inf _ => ⟨fp32.nanCode, flagNV⟩
  | .inf n, .fin k _ _ => ⟨fp32.sign (n != k) + fp32.infCode, 0⟩
  | .fin n _ _, .inf k => ⟨fp32.sign (n != k), 0⟩
  | .fin n m1 e1, .fin k m2 e2 =>
    if m2 = 0 then (if m1 = 0 then ⟨fp32.nanCode, flagNV⟩ else ⟨fp32.sign (n != k) + fp32.infCode, flagDZ⟩)
    else if m1 = 0 then ⟨fp32.sign (n != k), 0⟩
    else
      fp32.roundFin (n != k) (m1 * 2 ^ 64 / m2) (e1 - e2 - 64) (decide (m1 * 2 ^ 64 % m2 ≠ 0)) .rne false

/-- Integer square root, bit by bit from bit `n - 1`. -/
def isqrtGo (m : Nat) : Nat → Nat → Nat
  | 0, r => r
  | n + 1, r => if (r + 2 ^ n) * (r + 2 ^ n) ≤ m then isqrtGo m n (r + 2 ^ n) else isqrtGo m n r

/-- The floor of the square root of a number below `2 ^ 128`. -/
def isqrt (m : Nat) : Nat := isqrtGo m 64 0

/-- FP32 square root, correctly rounded (Table 5-5). -/
def fsqrt (a : Nat) : Flagged :=
  match fp32.decode a with
  | .nan => ⟨fp32.nanCode, 0⟩
  | .inf n => if n then ⟨fp32.nanCode, flagNV⟩ else ⟨fp32.infCode, 0⟩
  | .fin n m e =>
    if m = 0 then ⟨fp32.sign n, 0⟩
    else if n then ⟨fp32.nanCode, flagNV⟩
    else
      let (m', e') := if e % 2 = 0 then (m * 2 ^ 64, e - 64) else (m * 2 ^ 65, e - 65)
      let r := isqrt m'
      fp32.roundFin false r (e' / 2) (decide (r * r ≠ m')) .rne false

/-- A total order key of a non-NaN FP32 code: -0.0 ranks below +0.0 (Table 5-5). -/
def fkey (a : Nat) : Int :=
  let mag : Int := (bitsOf a 0 31 : Nat)
  if bitAt a 31 then -mag - 1 else mag

/-- An FP32 code is a NaN. -/
def isNan (a : Nat) : Bool := decide (0x7F800000 < bitsOf a 0 31)

/-- MAX and MIN: a NaN in either operand gives the canonical NaN (R101). -/
def fmax (a b : Nat) : Nat := if isNan a || isNan b then fp32.nanCode else if fkey a < fkey b then b else a
def fmin (a b : Nat) : Nat := if isNan a || isNan b then fp32.nanCode else if fkey b < fkey a then b else a

/-- Comparison as numbers: -0.0 equals +0.0; false on a NaN. -/
def flt (a b : Nat) : Bool :=
  let z := fun (x : Nat) => if bitsOf x 0 31 = 0 then 0 else x
  !isNan a && !isNan b && decide (fkey (z a) < fkey (z b))
def feq (a b : Nat) : Bool :=
  let z := fun (x : Nat) => if bitsOf x 0 31 = 0 then 0 else x
  !isNan a && !isNan b && decide (fkey (z a) = fkey (z b))

/-- The stochastic-rounding generator (R126): one of its four rounds, and the 24-bit draw. -/
def srgRound (ck : Nat × Nat) : Nat × Nat :=
  let c := ck.1 ^^^ ck.2
  let c := c * 0x9E3779B97F4A7C15 % 2 ^ 64
  let c := c ^^^ (c / 2 ^ 31)
  (c, (ck.2 + 0xD1B54A32D192ED03) % 2 ^ 64)

def srg (seed tid idx : Nat) : Nat :=
  let r := srgRound (srgRound (srgRound (srgRound (tid * 2 ^ 32 ||| idx, seed))))
  r.1 / 2 ^ 40

/-! ## Integers (R113, R124) -/

/-- The exact value of a two's-complement code. -/
def intNum (w c : Nat) (scaleExp : Int) : Num :=
  let z := signed w c
  .fin (decide (z < 0)) z.natAbs scaleExp

/-- FP32 to INT32 (R122, R124). -/
def toInt32 (x : Num) (rnd : Rnd) : Flagged :=
  match x with
  | .nan => ⟨0, flagNV⟩
  | .inf n => ⟨if n then 0x80000000 else 0x7FFFFFFF, flagNV⟩
  | .fin n m e =>
    let (v, inx) := roundQuanta m e false 0 rnd
    let lim := if n then 2 ^ 31 else 2 ^ 31 - 1
    if lim < v then ⟨if n then 0x80000000 else 0x7FFFFFFF, orf flagNV (orf flagSA flagNX)⟩
    else ⟨unsigned 32 (if n then -(v : Int) else (v : Int)), if inx then flagNX else 0⟩

/-! ## Exact sums of products (R115 to R118) -/

/-- An exact number `z * 2^e`. -/
structure Exact where
  z : Int
  e : Int
deriving DecidableEq, Repr

def Exact.add (a b : Exact) : Exact :=
  if a.z = 0 then b else if b.z = 0 then a
  else
    let e := min a.e b.e
    ⟨a.z * 2 ^ (a.e - e).toNat + b.z * 2 ^ (b.e - e).toNat, e⟩

def Exact.mul (a b : Exact) : Exact := ⟨a.z * b.z, a.e + b.e⟩

/-- The exact value of a finite number. -/
def Num.exact : Num → Exact
  | .fin n m e => ⟨if n then -(m : Int) else (m : Int), e⟩
  | _ => ⟨0, 0⟩

/-- An exact value as a number; zero is +0.0 (R118). -/
def Exact.num (x : Exact) : Num := if x.z = 0 then .fin false 0 0 else .fin (decide (x.z < 0)) x.z.natAbs x.e

/-- The position of the leading one of a non-zero exact value. -/
def Exact.msb (x : Exact) : Int := (log2 x.z.natAbs : Int) + x.e

/-- Truncation toward zero to a multiple of `2^q`. -/
def Exact.trunc (x : Exact) (q : Int) : Exact :=
  if q ≤ x.e then x
  else
    let sh := (q - x.e).toNat
    let m := x.z.natAbs / 2 ^ sh
    ⟨if x.z < 0 then -(m : Int) else (m : Int), q⟩

/-- One product of a segment: special values first (R117), exact otherwise. -/
def products (ws as : List Num) : List (Num × Nat) := (ws.zip as).map fun p => numMul p.1 p.2

/-- A segment result (R115 to R118): the products, the exact scale product, and whether the truncation of R116
applies (BF16 and FP16). -/
def segment (ps : List (Num × Nat)) (scale : Exact) (wide : Bool) : Flagged :=
  let nv := ps.foldl (fun a p => orf a p.2) 0
  if ps.any (fun p => p.1 == .nan) then ⟨fp32.nanCode, nv⟩
  else
    let pinf := ps.any (fun p => p.1 == .inf false)
    let ninf := ps.any (fun p => p.1 == .inf true)
    if pinf && ninf then ⟨fp32.nanCode, orf nv flagNV⟩
    else if pinf then ⟨fp32.infCode, nv⟩
    else if ninf then ⟨fp32.sign true + fp32.infCode, nv⟩
    else
      let xs := ps.map (fun p => p.1.exact)
      let S := xs.foldl Exact.add ⟨0, 0⟩
      if wide then
        let nz := xs.filter (fun x => x.z ≠ 0)
        match nz with
        | [] => ⟨0, nv⟩
        | x :: t =>
          let emax := t.foldl (fun a y => max a y.msb) x.msb
          let T := S.trunc (emax - 80)
          let nx := if S.add ⟨-T.z, T.e⟩ = ⟨0, (S.add ⟨-T.z, T.e⟩).e⟩ then 0 else flagNX
          let r := toFp32 T.num
          ⟨r.val, orf nv (orf nx r.fl)⟩
      else
        let r := toFp32 (S.mul scale).num
        ⟨r.val, orf nv r.fl⟩

end Sys2Proof.Machine
end

