-- ==== Sys2Proof/Machine/Operands.lean ====
section
/-! DEFINITION. The command word (03, 04): header fields, formats, descriptors, shapes, extents, and the checks that
depend only on a command's bytes and its plan (R433, R434 items 1 to 12). -/

namespace Sys2Proof.Machine

/-! ## Fault codes (Tables 2-5, 3-6, 4-3) -/

def fcRSV_ENGINE : Nat := 0x01
def fcRSV_OPCODE : Nat := 0x02
def fcRSV_BIT : Nat := 0x03
def fcMEM_RANGE : Nat := 0x04
def fcMEM_UNCORR : Nat := 0x05
def fcSTREAM_FETCH : Nat := 0x06
def fcABORTED : Nat := 0x07
def fcSTORE_DRAIN_LOST : Nat := 0x08
def fcSTREAM_END : Nat := 0x09
def fcSPAD_RANGE : Nat := 0x20
def fcSHAPE_ZERO : Nat := 0x21
def fcALIGN : Nat := 0x22
def fcFORMAT : Nat := 0x23
def fcLATCH_RANGE : Nat := 0x24
def fcSIG_REMOTE : Nat := 0x25
def fcNODE_RANGE : Nat := 0x26
def fcTREE_UNSET : Nat := 0x27
def fcCTX_RANGE : Nat := 0x28
def fcFMT_PAIR : Nat := 0x40
def fcBLOCK_SHAPE : Nat := 0x41
def fcK_MISMATCH : Nat := 0x42
def fcNO_WEIGHTS : Nat := 0x43
def fcACC_RANGE : Nat := 0x44
def fcSPAN_LIMIT : Nat := 0x45
def fcSHAPE_LIMIT : Nat := 0x46
def fcVOP : Nat := 0x47
def fcORED_TAG : Nat := 0x48
def fcORED_MISSING : Nat := 0x49
def fcTOPK_LIMIT : Nat := 0x4A
def fcPAGE_INVALID : Nat := 0x4B

/-! ## The header (Table 3-1) -/

/-- Bits `lo + w - 1 : lo` of a command. -/
def cbits (c : Cmd) (lo w : Nat) : Nat := bitsOf c.toNat lo w

/-- `n` bytes of a command from byte `k`, as a number. -/
def cbytes (c : Cmd) (k n : Nat) : Nat := cbits c (8 * k) (8 * n)

def hOpcode (c : Cmd) : Nat := cbits c 0 8
def hEngine (c : Cmd) : Nat := cbits c 8 3
def hFormat (c : Cmd) : Nat := cbits c 11 5
def hPsel (c : Cmd) : Nat := cbits c 16 4
def hPpol (c : Cmd) : Nat := cbits c 20 1
def hPen (c : Cmd) : Nat := cbits c 21 1
def hVar (c : Cmd) : Nat := cbits c 22 1
def hBend (c : Cmd) : Nat := cbits c 23 1
def hW0 (c : Cmd) : Nat × Nat := (cbits c 24 6, cbits c 32 16)
def hW1 (c : Cmd) : Nat × Nat := (cbits c 48 6, cbits c 56 16)
def hS0 (c : Cmd) : Nat × Nat := (cbits c 72 6, cbits c 80 8)
def hS1 (c : Cmd) : Nat × Nat := (cbits c 88 6, cbits c 96 8)
def hS0r (c : Cmd) : Bool := cbits c 104 1 == 1
def hS1r (c : Cmd) : Bool := cbits c 105 1 == 1
def hAck (c : Cmd) : Nat := cbits c 106 1
def hMod (c : Cmd) : Nat := cbits c 112 16

/-- The WAIT clauses in use (R59) and the local and remote SIGNAL clauses in use (R60), as (latch, count). -/
def waits (c : Cmd) : List (Nat × Nat) := [hW0 c, hW1 c].filter (fun w => w.2 != 0)
def localSignals (c : Cmd) : List (Nat × Nat) :=
  (if hS0r c then [] else [hS0 c].filter (fun w => w.2 != 0)) ++
  (if hS1r c then [] else [hS1 c].filter (fun w => w.2 != 0))
def remoteSignals (c : Cmd) : List (Nat × Nat) :=
  (if hS0r c then [hS0 c].filter (fun w => w.2 != 0) else []) ++
  (if hS1r c then [hS1 c].filter (fun w => w.2 != 0) else [])

/-- The operations of the streams (Tables 3-7 and 4-2). -/
inductive Op where
  | nop | ldCopy | ldPgather | mmWload | mmStream | mmDrain | veBinary | veUnary | veRreduce | veOreduce | veCmp
  | veTopk | veTranspose | stCopy | sdData | sdLatch | sdArrive | beatEnd | stepEnd | latchReset | peepEmit
deriving DecidableEq, Repr

/-- The operation of an ENGINE and OPCODE pair (R49, R69, R84). -/
def opOf (eng opc : Nat) : Option Op :=
  if opc = 0 ∧ eng ≤ 5 then some .nop
  else match eng, opc with
  | 0, 1 => some .ldCopy
  | 0, 2 => some .ldPgather
  | 1, 1 => some .mmWload
  | 1, 2 => some .mmStream
  | 1, 3 => some .mmDrain
  | 2, 1 => some .veBinary
  | 2, 2 => some .veUnary
  | 2, 3 => some .veRreduce
  | 2, 4 => some .veOreduce
  | 2, 5 => some .veCmp
  | 2, 6 => some .veTopk
  | 2, 7 => some .veTranspose
  | 3, 1 => some .stCopy
  | 4, 1 => some .sdData
  | 4, 2 => some .sdLatch
  | 4, 3 => some .sdArrive
  | 5, 1 => some .beatEnd
  | 5, 2 => some .stepEnd
  | 5, 3 => some .latchReset
  | 5, 4 => some .peepEmit
  | _, _ => none

/-- The formats an operation accepts (Table 3-2 codes). -/
def Op.formats : Op → List Nat
  | .ldCopy => [4]
  | .stCopy => [4]
  | .ldPgather => [5]
  | .mmWload => [2]
  | .mmStream => [2]
  | .mmDrain => [2]
  | .veBinary => [3, 2]
  | .veUnary => [2]
  | .veRreduce => [2]
  | .veOreduce => [2]
  | .veCmp => [2, 1]
  | .veTopk => [2]
  | .veTranspose => [2]
  | .sdData => [6]
  | .sdLatch => [7]
  | _ => [0]

/-- A command ends its beat (R66). -/
def endsBeat (c : Cmd) : Bool :=
  hBend c == 1 || opOf (hEngine c) (hOpcode c) == some .beatEnd || opOf (hEngine c) (hOpcode c) == some .stepEnd

/-- The header checks in the order of R433: 0, or the first failing code. -/
def headerCheck (c : Cmd) : Nat :=
  if 6 ≤ hEngine c then fcRSV_ENGINE
  else match opOf (hEngine c) (hOpcode c) with
  | none => fcRSV_OPCODE
  | some op =>
    if ¬ op.formats.contains (hFormat c) then fcFORMAT
    else if cbits c 107 5 ≠ 0 ∨ cbits c 94 2 ≠ 0 ∨ cbits c 78 2 ≠ 0 ∨ cbits c 54 2 ≠ 0 ∨ cbits c 30 2 ≠ 0 then fcRSV_BIT
    else if [Op.sdArrive, .latchReset, .beatEnd, .stepEnd].contains op ∧ cbits c 16 6 ≠ 0 then fcRSV_BIT
    else if (waits c ++ localSignals c ++ remoteSignals c).any (fun w => decide (48 ≤ w.1)) then fcLATCH_RANGE
    else if remoteSignals c ≠ [] ∧ op ≠ .sdData ∧ op ≠ .sdLatch then fcSIG_REMOTE
    else 0

/-! ## Shape and descriptors (R51, R52) -/

/-- Four sizes. -/
structure Shape where
  d0 : Nat
  d1 : Nat
  d2 : Nat
  d3 : Nat
deriving DecidableEq, Repr

def shapeOf (c : Cmd) : Shape := ⟨cbytes c 16 2, cbytes c 18 2, cbytes c 20 2, cbytes c 22 2⟩

/-- An operand: base, three signed strides, and its reserved bits. -/
structure Desc where
  base : Nat
  s1 : Int
  s2 : Int
  s3 : Int
  rsv : Nat
deriving DecidableEq, Repr

/-- Scratchpad descriptor at byte `k` (Table 3-3). -/
def spadDesc (c : Cmd) (k : Nat) : Desc :=
  ⟨cbits c (8 * k) 23, signed 24 (cbits c (8 * k + 32) 24), signed 24 (cbits c (8 * k + 56) 24),
   signed 24 (cbits c (8 * k + 80) 24), cbits c (8 * k + 23) 9⟩

/-- Memory descriptor at byte `k` (Table 3-4). -/
def memDesc (c : Cmd) (k : Nat) : Desc :=
  ⟨cbits c (8 * k) 48, signed 24 (cbits c (8 * k + 48) 24), signed 24 (cbits c (8 * k + 72) 24),
   signed 24 (cbits c (8 * k + 96) 24), 0⟩

/-- Lowest and highest byte of an operand whose rows hold `len` bytes (R53). -/
def Desc.extent (d : Desc) (base : Nat) (sh : Shape) (len : Nat) : Int × Int :=
  let t1 := d.s1 * (sh.d1 - 1 : Int)
  let t2 := d.s2 * (sh.d2 - 1 : Int)
  let t3 := d.s3 * (sh.d3 - 1 : Int)
  ((base : Int) + min 0 t1 + min 0 t2 + min 0 t3, (base : Int) + len - 1 + max 0 t1 + max 0 t2 + max 0 t3)

/-- An operand's extent leaves the scratchpad (R53). -/
def spadOut (d : Desc) (sh : Shape) (len : Nat) : Bool :=
  let (lo, hi) := d.extent d.base sh len
  decide (lo < 0) || decide (0x5FFFFF < hi)

/-- The rows (i1, i2, i3) of a shape in walk order. -/
def Shape.rows (sh : Shape) : List (Nat × Nat × Nat) :=
  (List.range sh.d3).flatMap fun i3 => (List.range sh.d2).flatMap fun i2 => (List.range sh.d1).map fun i1 => (i1, i2, i3)

/-- The byte address of the start of a row. -/
def Desc.row (d : Desc) (base : Nat) (r : Nat × Nat × Nat) : Int :=
  (base : Int) + r.1 * d.s1 + r.2.1 * d.s2 + r.2.2 * d.s3

/-- Elements of a shape. -/
def Shape.count (sh : Shape) : Nat := sh.d0 * sh.d1 * sh.d2 * sh.d3

/-! ## Element formats (R82, Table 4-1) -/

/-- Bits of an element. -/
def fmtBits (f : Nat) : Nat :=
  match f with
  | 0 => 32
  | 1 => 16
  | 2 => 16
  | 8 => 6
  | 9 => 6
  | 10 => 4
  | 12 => 32
  | _ => 8

/-- Bytes of `n` elements. -/
def fmtLen (f n : Nat) : Nat := n * fmtBits f / 8

def isMx (f : Nat) : Bool := decide (6 ≤ f) && decide (f ≤ 11)
/-- Formats 0x3 to 0x5, which take a per-tensor scale (R87). -/
def isPerTensor (f : Nat) : Bool := decide (3 ≤ f) && decide (f ≤ 5)
/-- Formats MATRIX reads as weights and activations. -/
def isMatrixIn (f : Nat) : Bool := decide (1 ≤ f) && decide (f ≤ 11)
/-- Formats MM_DRAIN writes (R92). -/
def isDrainOut (f : Nat) : Bool := decide (f ≤ 4) || (decide (6 ≤ f) && decide (f ≤ 10))
/-- Formats VECTOR reads and writes (R101). -/
def isVecIn (f : Nat) : Bool := decide (f ≤ 5)
def isVecOut (f : Nat) : Bool := decide (f ≤ 4)

/-- The weight and activation pairs of Table 4-5. -/
def pairOk (w a : Nat) : Bool :=
  ((w == 3 || w == 4) && (a == 3 || a == 4)) || (w == 5 && a == 5) || (w == 11 && a == 11) ||
  (decide (6 ≤ w) && decide (w ≤ 10) && decide (6 ≤ a) && decide (a ≤ 10)) || (w == 1 && a == 1) || (w == 2 && a == 2)

/-- The largest K of a tile of one format (R89, Table 4-5). -/
def kMax (f : Nat) : Nat := if f = 10 then 256 else 128

/-- Decoding an element of a format as an exact number, without its scale (R112, R113). -/
def decodeElem (f c : Nat) : Num :=
  match f with
  | 0 => fp32.decode c
  | 1 => bf16.decode c
  | 2 => fp16.decode c
  | 3 => e4m3.decode c
  | 4 => e5m2.decode c
  | 5 => intNum 8 c 0
  | 6 => e4m3.decode c
  | 7 => e5m2.decode c
  | 8 => e2m3.decode c
  | 9 => e3m2.decode c
  | 10 => e2m1.decode c
  | 11 => intNum 8 c (-6)
  | _ => intNum 32 c 0

/-- The floating-point format of an output code (R121). -/
def outFmt (f : Nat) : FFmt :=
  match f with
  | 0 => fp32
  | 1 => bf16
  | 2 => fp16
  | 3 => e4m3
  | 4 => e5m2
  | 6 => e4m3
  | 7 => e5m2
  | 8 => e2m3
  | 9 => e3m2
  | _ => e2m1

/-- The exponent of the largest finite element of an MX format (R123). -/
def emaxOf (f : Nat) : Int :=
  match f with
  | 6 => 8
  | 7 => 15
  | 8 => 2
  | 9 => 4
  | _ => 2

/-- Element `i` of a row of bytes (R83: packed formats). -/
def elemAt (f : Nat) (row : List Byte) (i : Nat) : Nat :=
  match f with
  | 8 => bitsOf (leAt row (i / 4 * 3) 3) (6 * (i % 4)) 6
  | 9 => bitsOf (leAt row (i / 4 * 3) 3) (6 * (i % 4)) 6
  | 10 => bitsOf (leAt row (i / 2) 1) (4 * (i % 2)) 4
  | _ => leAt row (i * (fmtBits f / 8)) (fmtBits f / 8)

/-- The bytes of a row of element codes. -/
def packRow (f : Nat) (codes : List Nat) : List Byte :=
  leBytes (fmtLen f codes.length) ((codes.foldr (fun c a => c + 2 ^ fmtBits f * a) 0))

/-- A positive, finite, normal FP32 scale (R87). -/
def scaleOk (c : Nat) : Bool := decide (0x00800000 ≤ c) && decide (c ≤ 0x7F7FFFFF)

/-! ## MODIFIER (Tables 3-5, 4-4, 4-9) -/

def mBoard (c : Cmd) : Bool := bitAt (hMod c) 15
def mSlot (c : Cmd) : Nat := bitsOf (hMod c) 11 4
def mPshift (c : Cmd) : Nat := bitsOf (hMod c) 7 4
def mPadd (c : Cmd) : Bool := bitAt (hMod c) 6
def mPidx (c : Cmd) : Nat := bitsOf (hMod c) 0 6
def mmFmt (c : Cmd) : Nat := bitsOf (hMod c) 0 4
def mmRnd (c : Cmd) : Nat := bitsOf (hMod c) 4 2
def mmSat (c : Cmd) : Bool := bitAt (hMod c) 6
def veOfmt (c : Cmd) : Nat := bitsOf (hMod c) 12 4
def veIfmt (c : Cmd) : Nat := bitsOf (hMod c) 8 4
def veRnd (c : Cmd) : Nat := bitsOf (hMod c) 6 2
def veSat (c : Cmd) : Bool := bitAt (hMod c) 5
def veBcast (c : Cmd) : Bool := bitAt (hMod c) 4
def veVop (c : Cmd) : Nat := bitsOf (hMod c) 0 4

/-! ## Destination block (Table 3-9) -/

def dbNode (b : Nat) : Nat := bitsOf b 0 20
def dbFan (b : Nat) : Bool := bitAt b 20
def dbTree (b : Nat) : Nat := bitsOf b 24 12
def dbCore (b : Nat) : Nat := bitsOf b 40 8
def dbRsv (b : Nat) : Bool :=
  bitsOf b 48 16 != 0 || bitsOf b 36 4 != 0 || bitsOf b 21 3 != 0 ||
  (if dbFan b then dbCore b != 0 || dbNode b != 0 else dbTree b != 0)

/-! ## Operand checks on a command's own bytes (R434 items 1 to 12) -/

/-- Item 1: a reserved bit of the operand area, MODIFIER or ACK. -/
def rsvBit (op : Op) (c : Cmd) : Bool :=
  let z := fun k n => cbytes c k n != 0
  let m := hMod c
  let ack := hAck c != 0
  match op with
  | .nop => ack || m != 0 || z 16 48
  | .ldCopy => ack || (!mBoard c && mSlot c != 0) || (spadDesc c 39).rsv != 0 || z 52 12
  | .stCopy => (!mBoard c && mSlot c != 0) || (spadDesc c 39).rsv != 0 || z 52 12
  | .ldPgather =>
    ack || mBoard c || mSlot c != 0 || (memDesc c 24).s2 != 0 || (memDesc c 24).s3 != 0 || (spadDesc c 39).rsv != 0 ||
    cbits c (8 * 52 + 23) 9 != 0 || cbits c (8 * 56 + 6) 2 != 0 || z 57 1 || z 62 2
  | .sdData => ack || m != 0 || (spadDesc c 24).rsv != 0 || (spadDesc c 37).rsv != 0 || dbRsv (cbytes c 50 8) || z 58 6
  | .sdLatch => ack || m != 0 || dbRsv (cbytes c 16 8) || z 24 40
  | .sdArrive => ack || m != 0 || cbits c (128 + 24) 40 != 0 || cbits c (128 + 14) 2 != 0 || cbits c (128 + 6) 2 != 0 || z 24 40
  | .beatEnd => ack || m != 0 || z 16 48
  | .stepEnd => ack || m != 0 || z 16 48
  | .latchReset => ack || m != 0 || z 22 2 || z 24 40
  | .peepEmit => ack || m != 0 || cbits c (128 + 10) 6 != 0 || z 18 6 || z 40 24
  | .mmWload =>
    ack || bitsOf m 4 12 != 0 || (spadDesc c 24).rsv != 0 ||
    (if isMx (mmFmt c) then (spadDesc c 37).rsv != 0 else z 37 13) ||
    (if isPerTensor (mmFmt c) then z 54 10 else z 50 14)
  | .mmStream =>
    ack || bitsOf m 4 12 != 0 || (spadDesc c 24).rsv != 0 ||
    (if isMx (mmFmt c) then (spadDesc c 37).rsv != 0 else z 37 13) ||
    bitsOf (cbytes c 50 2) 12 4 != 0 || bitsOf (cbytes c 52 2) 13 3 != 0 ||
    (!isPerTensor (mmFmt c) && z 54 4) || z 58 6
  | .mmDrain =>
    ack || bitsOf m 7 9 != 0 || (spadDesc c 24).rsv != 0 ||
    (if isMx (mmFmt c) then (spadDesc c 37).rsv != 0 else z 37 13) ||
    bitsOf (cbytes c 50 2) 12 4 != 0 || (mmRnd c != 2 && z 56 6) || z 62 2
  | .veBinary =>
    ack || (spadDesc c 24).rsv != 0 || (spadDesc c 37).rsv != 0 ||
    (if hFormat c = 3 then (spadDesc c 50).rsv != 0 || z 63 1 else veBcast c || z 54 10)
  | .veUnary =>
    ack || (spadDesc c 24).rsv != 0 || (spadDesc c 37).rsv != 0 || veBcast c || (veRnd c != 2 && z 54 6) || z 60 4
  | .veRreduce => ack || (spadDesc c 24).rsv != 0 || (spadDesc c 37).rsv != 0 || veBcast c || z 50 14
  | .veOreduce =>
    ack || (spadDesc c 24).rsv != 0 || (spadDesc c 37).rsv != 0 || veBcast c || cbits c (8 * 50 + 23) 9 != 0 ||
    cbits c (8 * 57 + 5) 3 != 0 || z 61 3
  | .veCmp =>
    ack || (spadDesc c 24).rsv != 0 || veOfmt c != 0 || veRnd c != 0 || veSat c ||
    (if hFormat c = 2 then (spadDesc c 37).rsv != 0 || cbits c (8 * 50 + 5) 3 != 0 || z 51 13
     else veBcast c || cbits c (8 * 41 + 5) 3 != 0 || z 42 22)
  | .veTopk =>
    ack || (spadDesc c 24).rsv != 0 || (spadDesc c 37).rsv != 0 || veBcast c || veVop c != 0 ||
    bitsOf (cbytes c 50 2) 11 5 != 0 || z 56 8
  | .veTranspose =>
    ack || (spadDesc c 24).rsv != 0 || (spadDesc c 37).rsv != 0 || veBcast c || veVop c != 0 || veRnd c != 0 ||
    veSat c || z 50 14

/-- The operation carries a shape (formats S to SR). -/
def Op.shaped (op : Op) (c : Cmd) : Bool := decide (1 ≤ hFormat c) && decide (hFormat c ≤ 6) && op != .nop

/-- Item 3: element formats. -/
def fmtBad (op : Op) (c : Cmd) : Bool :=
  let i := veIfmt c
  let o := veOfmt c
  match op with
  | .mmWload => !isMatrixIn (mmFmt c)
  | .mmStream => !isMatrixIn (mmFmt c)
  | .mmDrain => !isDrainOut (mmFmt c)
  | .veBinary => !(isVecIn i && isVecOut o)
  | .veUnary => if veVop c = 0 then !((isVecIn i || i == 12) && (isVecOut o || o == 12)) else !(isVecIn i && isVecOut o)
  | .veRreduce => !(isVecIn i && (if veVop c = 4 then o == 12 else isVecOut o))
  | .veOreduce => !(i == 0 && o == 0)
  | .veCmp => !isVecIn i
  | .veTopk => !(decide (i ≤ 2) && o == 0)
  | .veTranspose => !(i == o && (isVecIn i || i == 12))
  | _ => false

/-- Item 4: sub-operation, rounding and scale values. -/
def vopBad (op : Op) (c : Cmd) : Bool :=
  let lim := fun n => decide (n ≤ veVop c) || veRnd c == 3 || (veRnd c == 2 && op != .veUnary)
  match op with
  | .mmWload => isPerTensor (mmFmt c) && !scaleOk (cbytes c 50 4)
  | .mmStream => isPerTensor (mmFmt c) && !scaleOk (cbytes c 54 4)
  | .mmDrain => mmRnd c == 3 || bitsOf (cbytes c 52 4) 23 8 == 255 || bitsOf (cbytes c 52 4) 0 31 == 0
  | .veBinary => lim 6
  | .veUnary => lim 13 || (veRnd c == 2 && veOfmt c == 12)
  | .veRreduce => lim 5
  | .veOreduce => lim 2
  | .veCmp => lim 6
  | .veTopk => lim 1
  | .veTranspose => lim 1
  | _ => false

/-- Item 5: block shapes (R83, R89, Table 4-3). -/
def blockBad (op : Op) (c : Cmd) : Bool :=
  let k := (shapeOf c).d0
  match op with
  | .mmWload => k % 32 != 0 || decide (kMax (mmFmt c) < k)
  | .mmStream => k % 32 != 0 || decide (kMax (mmFmt c) < k)
  | .mmDrain => isMx (mmFmt c) && k % 32 != 0
  | _ => false

/-- The fields of VE_OREDUCE (R106) and VE_TOPK (R108). -/
def orTags (c : Cmd) : Nat := cbits c (8 * 50) 23
def orS (c : Cmd) : Nat := cbytes c 54 3
def orLevel (c : Cmd) : Nat := cbits c (8 * 57) 5
def orIndex (c : Cmd) : Nat := cbytes c 58 3
def tkK (c : Cmd) : Nat := bitsOf (cbytes c 50 2) 0 11

/-- The fields of LD_PGATHER (R110). -/
def pgPt (c : Cmd) : Nat := cbits c (8 * 52) 23
def pgShift (c : Cmd) : Nat := cbits c (8 * 56) 6
def pgTokens (c : Cmd) : Nat := cbytes c 58 4

/-- Item 6: SHAPE_LIMIT. -/
def limitBad (op : Op) (c : Cmd) : Bool :=
  let sh := shapeOf c
  match op with
  | .mmWload => decide (128 < sh.d1) || sh.d2 != 1 || sh.d3 != 1
  | .mmDrain => decide (128 < sh.d0)
  | .veOreduce => sh.d2 != 1 || sh.d3 != 1 || orS c == 0
  | .ldPgather =>
    decide (128 < sh.d1) || sh.d3 != 1 || decide (pgShift c < 12) || decide (30 < pgShift c) ||
    decide (sh.d1 * sh.d2 < pgTokens c)
  | _ => false

def misaligned (n : Nat) (l : List Int) : Bool := l.any (fun x => x % (n : Int) != 0)

/-- Each row of an operand lies inside one 256-byte line (R89). -/
def rowsInLine (d : Desc) (sh : Shape) (len : Nat) : Bool :=
  sh.rows.all (fun r => decide ((d.row d.base r) % 256 + len ≤ 256))

/-- Item 7: ALIGN. -/
def alignBad (op : Op) (c : Cmd) : Bool :=
  let sh := shapeOf c
  let a := spadDesc c 24
  let b := spadDesc c 37
  match op with
  | .ldCopy | .stCopy =>
    let m := memDesc c 24
    let d := spadDesc c 39
    misaligned 64 [sh.d0, d.base, d.s1, d.s2, d.s3, m.s1, m.s2, m.s3] || (!mPadd c && m.base % 64 != 0)
  | .ldPgather =>
    let m := memDesc c 24
    let d := spadDesc c 39
    misaligned 64 [sh.d0, d.base, d.s1, d.s2, d.s3, m.s1] || (!mPadd c && m.base % 64 != 0) || pgPt c % 4 != 0
  | .sdData => misaligned 64 [sh.d0, a.base, a.s1, a.s2, a.s3, b.base, b.s1, b.s2, b.s3]
  | .mmWload | .mmStream =>
    misaligned 16 [a.base, a.s1, a.s2, a.s3] || (isMx (mmFmt c) && misaligned 16 [b.base, b.s1, b.s2, b.s3]) ||
    !rowsInLine a sh (fmtLen (mmFmt c) sh.d0)
  | .mmDrain =>
    misaligned 16 [a.base, a.s1, a.s2, a.s3] || (isMx (mmFmt c) && misaligned 16 [b.base, b.s1, b.s2, b.s3])
  | _ => false

/-- Item 8: SPAD_RANGE. -/
def rangeBad (op : Op) (c : Cmd) : Bool :=
  let sh := shapeOf c
  let a := spadDesc c 24
  let b := spadDesc c 37
  let row1 := { sh with d0 := 1 }
  match op with
  | .ldCopy | .stCopy => spadOut (spadDesc c 39) sh sh.d0
  | .ldPgather =>
    spadOut (spadDesc c 39) sh sh.d0 ||
    (let need := 4 * ((pgTokens c + sh.d1 - 1) / sh.d1); need != 0 && decide (0x5FFFFF < pgPt c + need - 1))
  | .sdData => spadOut a sh sh.d0 || spadOut b sh sh.d0
  | .mmWload | .mmStream | .mmDrain =>
    spadOut a sh (fmtLen (mmFmt c) sh.d0) || (isMx (mmFmt c) && spadOut b sh (sh.d0 / 32))
  | .veBinary =>
    let o := fmtLen (veOfmt c) sh.d0
    let i := fmtLen (veIfmt c) sh.d0
    if hFormat c = 3 then
      spadOut a sh i || (if veBcast c then spadOut b row1 (fmtLen (veIfmt c) 1) else spadOut b sh i) ||
      spadOut (spadDesc c 50) sh o
    else spadOut a sh i || spadOut b sh o
  | .veUnary => spadOut a sh (fmtLen (veIfmt c) sh.d0) || spadOut b sh (fmtLen (veOfmt c) sh.d0)
  | .veRreduce => spadOut a sh (fmtLen (veIfmt c) sh.d0) || spadOut b row1 (fmtLen (veOfmt c) 1)
  | .veOreduce =>
    spadOut a sh (4 * sh.d0) || spadOut b ⟨sh.d0, 1, 1, 1⟩ (4 * sh.d0) || decide (0x5FFFFF < orTags c + 4 * sh.d1 - 1)
  | .veCmp =>
    let i := fmtLen (veIfmt c) sh.d0
    spadOut a sh i ||
    (hFormat c == 2 && (if veBcast c then spadOut b row1 (fmtLen (veIfmt c) 1) else spadOut b sh i))
  | .veTopk => spadOut a sh (fmtLen (veIfmt c) sh.d0) || spadOut b { sh with d0 := tkK c } (8 * tkK c)
  | .veTranspose =>
    spadOut a sh (fmtLen (veIfmt c) sh.d0) || spadOut b ⟨sh.d1, sh.d0, sh.d2, sh.d3⟩ (fmtLen (veIfmt c) sh.d1)
  | _ => false

/-- Accumulator fields of MM_STREAM and MM_DRAIN (Table 4-4). -/
def accRow (c : Cmd) : Nat := bitsOf (cbytes c 50 2) 0 12
def segOf (c : Cmd) : Nat := bitsOf (cbytes c 52 2) 0 12
def contOf (c : Cmd) : Bool := bitAt (cbytes c 52 2) 12

/-- Item 9: ACC_RANGE, then SPAN_LIMIT. -/
def accCheck (op : Op) (c : Cmd) : Nat :=
  let sh := shapeOf c
  let m := sh.d1 * sh.d2 * sh.d3
  match op with
  | .mmStream => if 4096 < accRow c + m then fcACC_RANGE else if 4096 < segOf c + sh.d0 / 32 then fcSPAN_LIMIT else 0
  | .mmDrain => if 4096 < accRow c + m then fcACC_RANGE else 0
  | _ => 0

/-- The ceiling of the binary logarithm of a non-zero number. -/
def clog2 (n : Nat) : Nat := if n ≤ 1 then 0 else log2 (n - 1) + 1

/-- A node of the canonical tree over `S` leaves is empty or above the root (R105, R106). -/
def nodeBad (S l j : Nat) : Bool := decide (S ≤ j * 2 ^ l) || decide (clog2 S < l)

/-- What the checks of item 12 need from the plan and the package. -/
structure CheckEnv where
  nodes : Nat
  trees : List Nat
deriving DecidableEq, Repr

/-- The operand checks on the command's own bytes, in the order of R434: 0, or the first failing code. -/
def operandCheck (env : CheckEnv) (op : Op) (c : Cmd) : Nat :=
  if rsvBit op c then fcRSV_BIT
  else if op.shaped c && ((shapeOf c).d0 == 0 || (shapeOf c).d1 == 0 || (shapeOf c).d2 == 0 || (shapeOf c).d3 == 0) then
    fcSHAPE_ZERO
  else if fmtBad op c then fcFMT_PAIR
  else if vopBad op c then fcVOP
  else if blockBad op c then fcBLOCK_SHAPE
  else if limitBad op c then fcSHAPE_LIMIT
  else if op == .veTopk && (tkK c == 0 || decide (1024 < tkK c) || decide ((shapeOf c).d0 < tkK c)) then fcTOPK_LIMIT
  else if alignBad op c then fcALIGN
  else if rangeBad op c then fcSPAD_RANGE
  else if accCheck op c ≠ 0 then accCheck op c
  else if op == .veOreduce && nodeBad (orS c) (orLevel c) (orIndex c) then fcORED_TAG
  else match op with
  | .sdArrive =>
    let w := cbytes c 16 8
    if !bitAt w 5 && decide (7 < bitsOf w 0 5) then fcCTX_RANGE
    else if bitsOf w 16 8 ≠ 0 ∧ 48 ≤ bitsOf w 8 6 then fcLATCH_RANGE
    else 0
  | .sdData | .sdLatch =>
    let b := if op == .sdData then cbytes c 50 8 else cbytes c 16 8
    if dbFan b then (if env.trees.contains (dbTree b) then 0 else fcTREE_UNSET)
    else if env.nodes ≤ dbNode b then fcNODE_RANGE else 0
  | _ => 0

end Sys2Proof.Machine
end

