-- ==== Sys2Proof/Machine/Crypto.lean ====
section
/-! DEFINITION. The standard ciphers that the spec names and gives no text of (PRESUMED, log entry 25): HMAC and HKDF with SHA-384
(RFC 2104, RFC 5869; R351, R356) and AES-256-GCM (FIPS 197, SP 800-38D; R355). -/

namespace Sys2Proof.Machine

/-! ## HMAC and HKDF -/

/-- HMAC-SHA-384 under a key of at most 128 bytes. -/
def hmac (key msg : List Byte) : List Byte :=
  let k := padTo 128 key
  sha384 (k.map (· ^^^ 0x5C) ++ sha384 (k.map (· ^^^ 0x36) ++ msg))

/-- HKDF-Expand of at most 48 bytes. -/
def hkdfExpand (prk info : List Byte) (n : Nat) : List Byte := (hmac prk (info ++ [1])).take n

/-- HKDF of at most 48 bytes, with no salt. -/
def hkdf (ikm info : List Byte) (n : Nat) : List Byte := hkdfExpand (hmac [] ikm) info n

/-- The bytes of an ASCII label. -/
def ascii (s : String) : List Byte := s.toList.map (fun c => BitVec.ofNat 8 c.toNat)

/-! ## AES-256. A block is its 16 bytes in order, as numbers. -/

/-- The substitution table, entry `x` in bits 8x + 7 : 8x. -/
def sboxWord : Nat :=
  0x16bb54b00f2d99416842e6bf0d89a18cdf2855cee9871e9b948ed9691198f8e19e1dc186b95735610ef6034866b53e708a8bbd4b1f74dde8c6b4a61c2e2578ba * 2 ^ 1536 +
  0x08ae7a65eaf4566ca94ed58d6d37c8e779e4959162acd3c25c2406490a3a32e0db0b5ede14b8ee4688902a22dc4f816073195d643d7ea7c41744975fec130ccd * 2 ^ 1024 +
  0xd2f3ff1021dab6bcf5389d928f40a351a89f3c507f02f94585334d43fbaaefd0cf584c4a39becb6a5bb1fc20ed00d153842fe329b3d63b52a05a6e1b1a2c8309 * 2 ^ 512 +
  0x75b227ebe28012079a059618c323c7041531d871f1e5a534ccf73f362693fdb7c072a49cafa2d4adf04759fa7dc982ca76abd7fe2b670130c56f6bf27b777c63

def sbox (x : Nat) : Nat := sboxWord / 2 ^ (8 * x) % 256

/-- Doubling in GF(2^8). -/
def xtime (x : Nat) : Nat := if 128 ≤ x then (2 * x) ^^^ 0x11B else 2 * x

/-- One column of MixColumns. -/
def mixCol (a b c d : Nat) : Nat := xtime a ^^^ xtime b ^^^ b ^^^ c ^^^ d

/-- Bytes xored. -/
def xors (a b : List Nat) : List Nat := List.zipWith (· ^^^ ·) a b

/-- SubBytes and ShiftRows. -/
def subShift (v : List Nat) : List Nat := (List.range 16).map (fun i => sbox (v.getD ((i + 4 * (i % 4)) % 16) 0))

/-- MixColumns. -/
def mixCols (v : List Nat) : List Nat :=
  (List.range 16).map (fun i =>
    let x := fun k => v.getD (i / 4 * 4 + (i + k) % 4) 0
    mixCol (x 0) (x 1) (x 2) (x 3))

/-- `n` more words of the key schedule after word `i - 1`; `w` holds the last eight, oldest first. -/
def keyWords : Nat → Nat → Nat → List (List Nat) → List (List Nat)
  | 0, _, _, _ => []
  | n + 1, i, rcon, w =>
    let last := w.getD 7 []
    let t := if i % 8 = 0 then
        ((last.drop 1 ++ last.take 1).map sbox).zipIdx.map (fun x => if x.2 = 0 then x.1 ^^^ rcon else x.1)
      else if i % 8 = 4 then last.map sbox
      else last
    let new := xors (w.getD 0 []) t
    new :: keyWords n (i + 1) (if i % 8 = 0 then xtime rcon else rcon) (w.drop 1 ++ [new])

/-- The round keys of a 32-byte key: 60 words of four bytes. -/
def keySchedule (key : List Byte) : List (List Nat) :=
  let w := (List.range 8).map (fun i => (slice key (4 * i) 4).map BitVec.toNat)
  w ++ keyWords 52 8 1 w

/-- Rounds 1 on, with the last one without MixColumns; the words of their keys remain. -/
def aesRounds : Nat → List (List Nat) → List Nat → List Nat
  | 0, ks, v => xors (subShift v) (ks.take 4).flatten
  | n + 1, ks, v => aesRounds n (ks.drop 4) (xors (mixCols (subShift v)) (ks.take 4).flatten)

/-- One block under a key schedule. -/
def aesBlock (ks : List (List Nat)) (v : List Nat) : List Nat := aesRounds 13 (ks.drop 4) (xors v (ks.take 4).flatten)

/-! ## GCM -/

/-- `y`, its bits `n - 1 : 0` taken from the highest, times `h` in GF(2^128): the sum so far is `z`. -/
def ghashMul (y : Nat) : Nat → Nat → Nat → Nat
  | 0, _, z => z
  | n + 1, h, z => ghashMul y n (if h % 2 = 1 then (h / 2) ^^^ (0xE1 * 2 ^ 120) else h / 2) (if bitAt y n then z ^^^ h else z)

/-- GHASH of `n` blocks of 16 bytes. -/
def ghash (h : Nat) : Nat → List Byte → Nat → Nat
  | 0, _, x => x
  | n + 1, bs, x => ghash h n (bs.drop 16) (ghashMul (x ^^^ beNat (padTo 16 bs)) 128 h 0)

/-- Bytes filled with zeros to whole blocks. -/
def blocks16 (bs : List Byte) : List Byte := padTo (roundUp bs.length 16) bs

/-- The block of counter `c` under a 12-byte IV. -/
def ctrBlock (ks : List (List Nat)) (iv : List Byte) (c : Nat) : List Byte :=
  (aesBlock ks ((iv ++ beBytes 4 c).map BitVec.toNat)).map (BitVec.ofNat 8)

/-- `n` blocks of text, or of ciphertext, from counter `c` on. -/
def ctrCrypt (ks : List (List Nat)) (iv : List Byte) : Nat → Nat → List Byte → List Byte
  | 0, _, _ => []
  | n + 1, c, bs => List.zipWith (· ^^^ ·) (bs.take 16) (ctrBlock ks iv c) ++ ctrCrypt ks iv n (c + 1) (bs.drop 16)

/-- The text, or the ciphertext, of a whole message: counter 1 is the tag's. -/
def gcmText (key iv bs : List Byte) : List Byte := ctrCrypt (keySchedule key) iv (roundUp bs.length 16 / 16) 2 bs

/-- The tag of a ciphertext with its additional data. -/
def gcmTag (key iv aad ct : List Byte) : List Byte :=
  let ks := keySchedule key
  let h := beNat ((aesBlock ks (List.replicate 16 0)).map (BitVec.ofNat 8))
  let m := blocks16 aad ++ blocks16 ct ++ beBytes 8 (8 * aad.length) ++ beBytes 8 (8 * ct.length)
  beBytes 16 (ghash h (m.length / 16) m 0 ^^^ beNat (ctrBlock ks iv 1))

/-- The ciphertext of a message and its tag. -/
def gcmSeal (key iv aad bs : List Byte) : List Byte :=
  let ct := gcmText key iv bs
  ct ++ gcmTag key iv aad ct

/-- The message of a ciphertext whose tag verifies. -/
def gcmOpen (key iv aad ct tag : List Byte) : Option (List Byte) :=
  if key.length = 32 ∧ tag = gcmTag key iv aad ct then some (gcmText key iv ct) else none

end Sys2Proof.Machine
end

