-- ==== Sys2Proof/Machine/Tbl.lean ====
section
/-! DEFINITION. Reading and writing a sparse table. A write keeps the canonical form; both are total on any list. -/

namespace Sys2Proof.Machine

/-- The entry at key `k`; an unlisted key reads the default `d`. -/
def tget {α : Type} (d : α) : Tbl α → Nat → α
  | [], _ => d
  | (i, v) :: t, k => if i = k then v else tget d t k

/-- The table without key `k`. -/
def terase {α : Type} : Tbl α → Nat → Tbl α
  | [], _ => []
  | (i, v) :: t, k => if i = k then terase t k else (i, v) :: terase t k

/-- The entry put before the first larger key. -/
def tins {α : Type} : Tbl α → Nat → α → Tbl α
  | [], k, v => [(k, v)]
  | (i, w) :: t, k, v => if k < i then (k, v) :: (i, w) :: t else (i, w) :: tins t k v

/-- Write: the default is stored by removing the entry. -/
def tset {α : Type} [DecidableEq α] (d : α) (t : Tbl α) (k : Nat) (v : α) : Tbl α :=
  if v = d then terase t k else tins (terase t k) k v

/-- Canonical form: keys strictly rising and no entry equal to the default. -/
def twf {α : Type} [DecidableEq α] (d : α) : Tbl α → Bool
  | [] => true
  | [(_, v)] => decide (v ≠ d)
  | (i, v) :: (j, w) :: t => decide (v ≠ d) && decide (i < j) && twf d ((j, w) :: t)

/-- The same form for a default that may depend on the key. -/
def Canon {α : Type} (d : Nat → α) (t : Tbl α) : Prop := t.Pairwise (fun a b => a.1 < b.1) ∧ ∀ e ∈ t, e.2 ≠ d e.1

/-- Replace an entry by a function of its present value. -/
def tmod {α : Type} [DecidableEq α] (d : α) (t : Tbl α) (k : Nat) (f : α → α) : Tbl α :=
  tset d t k (f (tget d t k))

end Sys2Proof.Machine
end

