-- ==== Sys2Proof/Machine/Regs.lean ====
section
/-! DEFINITION. Every register of the spec under its own name, its fields with their bits, access codes and reset
values (the register tables of spec/), its address and its index. A register that exists once per core, partition,
port and so on is one name with an index; a register with two indices (latch words of a core, mask words of a
context, channels of a jamb) counts them as outer * inner_count + inner. -/

namespace Sys2Proof.Machine

/-- The registers of the package. -/
inductive Reg where
  | CORE_ID
  | CORE_STATUS
  | CORE_FAULT
  | CORE_DRAIN
  | CORE_CONFLICT
  | CORE_STBUF
  | DISP_STREAM_BASE
  | DISP_STREAM_LEN
  | DISP_STATUS
  | DISP_QOCC
  | CORE_AFLAGS
  | LATCH_VALUE
  | LATCH_OVF
  | BEAT_WDOG
  | BEAT_STATUS
  | BEAT_HOLD
  | BEAT_OPENED
  | LATCH_START
  | LATCH_START_T
  | LATCH_TCTX
  | LATCH_SCTX
  | LATCH_TMASK
  | LATCH_SMASK
  | LATCH_TSTAT
  | LATCH_SSTAT
  | DISP_PARAM
  | MEM_SALT
  | MEM_CTRL
  | MEM_STATUS
  | MEM_SKEW
  | MEM_ECC
  | MEM_ERR
  | MEM_ERR_ADDR
  | MEM_SCRUB
  | MEM_PHBM
  | MEM_PCEL
  | MEM_REFSTALL
  | DMA_CTRL
  | DMA_POOL
  | DMA_ACTIVE
  | DMA_CHCFG
  | DMA_RING
  | DMA_TAIL
  | DMA_HEAD
  | DMA_CHSTAT
  | DMA_CHCTRL
  | PANE_FREQ
  | PANE_XLAT
  | PANE_HXLAT
  | PANE_SXLAT
  | PANE_STOP
  | TIME_NOW
  | TIME_CTRL
  | TIME_STATUS
  | TIME_OFFSET
  | TIME_RATE
  | TIME_STEP
  | TIME_WAKE
  | TIME_PTP
  | PORT_CFG
  | PORT_CTRL
  | PORT_STATUS
  | PORT_NEIGH
  | PORT_PCDIG
  | PORT_LANES
  | PORT_FEC
  | PORT_TRAIN
  | VCB_ALLOC
  | VCB_CAP
  | VCB_OCC0
  | VCB_OCC1
  | VCB_FLOW
  | VCB_TXSEQ
  | VCB_RXSEQ
  | VCB_REPLAY
  | VCB_HOLD
  | VCB_ERR
  | VCB_POOL
  | RTE_GRP
  | RTE_MBR
  | RTE_SELF
  | RTE_STATUS
  | RTE_MISS
  | RTE_ADAPT
  | RTE_SLOT
  | RTE_PSET
  | FAN_CFG
  | FAN_DL
  | FAN_CMASK
  | FAN_STATUS
  | CTL_VAR
  | CTL_VARC
  | CTL_VARP
  | CTL_CDIG
  | CTL_PCDIG
  | DMA_WLCTRL
  | DMA_WLSTAT
  | DMA_WLBYTES
  | DMA_WLNET
  | RQT_PART
  | RQT_SERVE
  | RQT_PSTAT
  | RQT_PAGES
  | RQT_STEP
  | RQT_COUNT
  | RQT_PRIO
  | SMP_STATUS
  | SMP_ERR
  | SMP_TIME
  | SMP_PCAND
  | SMP_PSHAPE
  | SMP_PSET
  | SMP_PHIST
  | SEC_STATUS
  | SEC_TAMPER
  | SEC_TTIME
  | SEC_TCLR
  | SEC_DEBUG
  | SEC_DEVID
  | SEC_PCTL
  | SEC_PPANE
  | SEC_PPORT
  | SEC_PRING
  | SEC_PKEYID
  | SEC_PBBSTAT
  | CTL_DOORBELL
  | CTL_STATUS
  | CTL_FWLOAD
  | CTL_FWSTAT
  | CTL_LOCKSTEP
  | CTL_PIN
  | CTL_LOG
  | CTL_PEEPDROP
  | CTL_UART
  | CTL_UARTSTAT
  | CTL_PEEPEN
  | BOOT_STATUS
  | BOOT_CFGSEL
  | BOOT_ATTEMPT
  | BOOT_READY_TB
  | CTL_ABORTCFG
  | CTL_MLOCK
  | CTL_LSTEST
  | CTL_ABORT
  | DMA_RSCFG
  | DMA_RSTAIL
  | DMA_RSHEAD
  | DMA_RSSTAT
  | PWR_CTRL
  | PWR_STATUS
  | PWR_LIMIT
  | PWR_MEAS
  | PWR_EMERG
  | PWR_TEMP0
  | PWR_TEMP1
  | PWR_RAIL
  | PORT_XLAT
  | CTL_FEAT0
  | CTL_FEAT1
  | CTL_FEAT2
  | CTL_FEAT3
  | CTL_FEAT4
deriving DecidableEq, Repr

/-- Access codes of Table 0-5 (R7). -/
inductive Access where
  | RO | RW | W1C | W1S | WO
deriving DecidableEq, Repr

/-- One field: bits `lo + w - 1 : lo` of a register. -/
structure Fld where
  reg : Reg
  lo : Nat
  w : Nat
  acc : Access
  reset : Nat
deriving DecidableEq, Repr

/-! CORE_ID: R46, Table 2-8. -/
def F.CORE_ID_LOGICAL : Fld := ⟨.CORE_ID, 32, 16, .RO, 0⟩
def F.CORE_ID_FUSED : Fld := ⟨.CORE_ID, 21, 1, .RO, 0⟩
def F.CORE_ID_BOUND : Fld := ⟨.CORE_ID, 20, 1, .RO, 0⟩
def F.CORE_ID_PARTITION : Fld := ⟨.CORE_ID, 16, 4, .RO, 0⟩
def F.CORE_ID_LEAF : Fld := ⟨.CORE_ID, 13, 1, .RO, 0⟩
def F.CORE_ID_PANE : Fld := ⟨.CORE_ID, 8, 5, .RO, 0⟩
def F.CORE_ID_CORE : Fld := ⟨.CORE_ID, 0, 8, .RO, 0⟩

/-! CORE_STATUS: R46, Table 2-9. -/
def F.CORE_STATUS_BEAT : Fld := ⟨.CORE_STATUS, 16, 32, .RO, 0⟩
def F.CORE_STATUS_RUNNING : Fld := ⟨.CORE_STATUS, 13, 1, .RO, 0⟩
def F.CORE_STATUS_FAULTED : Fld := ⟨.CORE_STATUS, 12, 1, .RO, 0⟩
def F.CORE_STATUS_HOLD : Fld := ⟨.CORE_STATUS, 11, 1, .RO, 0⟩
def F.CORE_STATUS_IDLE : Fld := ⟨.CORE_STATUS, 6, 5, .RO, 0⟩
def F.CORE_STATUS_DISP_SHUT : Fld := ⟨.CORE_STATUS, 5, 1, .RO, 0⟩
def F.CORE_STATUS_SHUTTERED : Fld := ⟨.CORE_STATUS, 0, 5, .RO, 0⟩

/-! CORE_FAULT: R46, Table 2-10. -/
def F.CORE_FAULT_SEQ : Fld := ⟨.CORE_FAULT, 32, 32, .RO, 0⟩
def F.CORE_FAULT_OVERFLOW : Fld := ⟨.CORE_FAULT, 17, 1, .W1C, 0⟩
def F.CORE_FAULT_VALID : Fld := ⟨.CORE_FAULT, 16, 1, .W1C, 0⟩
def F.CORE_FAULT_ENGINE : Fld := ⟨.CORE_FAULT, 8, 3, .RO, 0⟩
def F.CORE_FAULT_CODE : Fld := ⟨.CORE_FAULT, 0, 8, .RO, 0⟩

/-! CORE_DRAIN: R46, Table 2-11. -/
def F.CORE_DRAIN_LAST_SEQ : Fld := ⟨.CORE_DRAIN, 32, 32, .RO, 0⟩
def F.CORE_DRAIN_DISCARDED : Fld := ⟨.CORE_DRAIN, 16, 16, .RO, 0⟩
def F.CORE_DRAIN_DRAINED : Fld := ⟨.CORE_DRAIN, 0, 16, .RO, 0⟩

/-! CORE_CONFLICT: R46, Table 2-12. -/
def F.CORE_CONFLICT_LOST_STEP : Fld := ⟨.CORE_CONFLICT, 32, 32, .RO, 0⟩
def F.CORE_CONFLICT_LOST_BEAT : Fld := ⟨.CORE_CONFLICT, 0, 32, .RO, 0⟩

/-! CORE_STBUF: R46, Table 2-13. -/
def F.CORE_STBUF_OCC : Fld := ⟨.CORE_STBUF, 0, 8, .RO, 0⟩

/-! DISP_STREAM_BASE: R46, Table 2-14. -/
def F.DISP_STREAM_BASE_BASE : Fld := ⟨.DISP_STREAM_BASE, 12, 36, .RW, 0⟩

/-! DISP_STREAM_LEN: R46, Table 2-15. -/
def F.DISP_STREAM_LEN_COMMANDS : Fld := ⟨.DISP_STREAM_LEN, 0, 32, .RW, 0⟩

/-! DISP_STATUS: R46, Table 2-16. -/
def F.DISP_STATUS_FETCH_STALL : Fld := ⟨.DISP_STATUS, 51, 1, .RO, 0⟩
def F.DISP_STATUS_FULL_STALL : Fld := ⟨.DISP_STATUS, 50, 1, .RO, 0⟩
def F.DISP_STATUS_AHEAD : Fld := ⟨.DISP_STATUS, 48, 2, .RO, 0⟩
def F.DISP_STATUS_BUF : Fld := ⟨.DISP_STATUS, 32, 11, .RO, 0⟩
def F.DISP_STATUS_SEQ : Fld := ⟨.DISP_STATUS, 0, 32, .RO, 0⟩

/-! DISP_QOCC: R46, Table 2-17. -/
def F.DISP_QOCC_SEND : Fld := ⟨.DISP_QOCC, 32, 7, .RO, 0⟩
def F.DISP_QOCC_STORE : Fld := ⟨.DISP_QOCC, 24, 7, .RO, 0⟩
def F.DISP_QOCC_VECTOR : Fld := ⟨.DISP_QOCC, 16, 7, .RO, 0⟩
def F.DISP_QOCC_MATRIX : Fld := ⟨.DISP_QOCC, 8, 7, .RO, 0⟩
def F.DISP_QOCC_LOAD : Fld := ⟨.DISP_QOCC, 0, 7, .RO, 0⟩

/-! CORE_AFLAGS: R129, Table 5-7. -/
def F.CORE_AFLAGS_V_SA : Fld := ⟨.CORE_AFLAGS, 13, 1, .W1C, 0⟩
def F.CORE_AFLAGS_V_NX : Fld := ⟨.CORE_AFLAGS, 12, 1, .W1C, 0⟩
def F.CORE_AFLAGS_V_UF : Fld := ⟨.CORE_AFLAGS, 11, 1, .W1C, 0⟩
def F.CORE_AFLAGS_V_OF : Fld := ⟨.CORE_AFLAGS, 10, 1, .W1C, 0⟩
def F.CORE_AFLAGS_V_DZ : Fld := ⟨.CORE_AFLAGS, 9, 1, .W1C, 0⟩
def F.CORE_AFLAGS_V_NV : Fld := ⟨.CORE_AFLAGS, 8, 1, .W1C, 0⟩
def F.CORE_AFLAGS_M_SA : Fld := ⟨.CORE_AFLAGS, 5, 1, .W1C, 0⟩
def F.CORE_AFLAGS_M_NX : Fld := ⟨.CORE_AFLAGS, 4, 1, .W1C, 0⟩
def F.CORE_AFLAGS_M_UF : Fld := ⟨.CORE_AFLAGS, 3, 1, .W1C, 0⟩
def F.CORE_AFLAGS_M_OF : Fld := ⟨.CORE_AFLAGS, 2, 1, .W1C, 0⟩
def F.CORE_AFLAGS_M_NV : Fld := ⟨.CORE_AFLAGS, 0, 1, .W1C, 0⟩

/-! LATCH_VALUE: R150, Table 6-7. -/
def F.LATCH_VALUE_VAL3 : Fld := ⟨.LATCH_VALUE, 48, 16, .RW, 0⟩
def F.LATCH_VALUE_VAL2 : Fld := ⟨.LATCH_VALUE, 32, 16, .RW, 0⟩
def F.LATCH_VALUE_VAL1 : Fld := ⟨.LATCH_VALUE, 16, 16, .RW, 0⟩
def F.LATCH_VALUE_VAL0 : Fld := ⟨.LATCH_VALUE, 0, 16, .RW, 0⟩

/-! LATCH_OVF: R150, Table 6-8. -/
def F.LATCH_OVF_OVF : Fld := ⟨.LATCH_OVF, 0, 48, .W1C, 0⟩

/-! BEAT_WDOG: R150, Table 6-9. -/
def F.BEAT_WDOG_LIMIT_US : Fld := ⟨.BEAT_WDOG, 0, 20, .RW, 10000⟩

/-! BEAT_STATUS: R150, Table 6-10. -/
def F.BEAT_STATUS_BEAT : Fld := ⟨.BEAT_STATUS, 16, 32, .RO, 0⟩
def F.BEAT_STATUS_WDOG_FIRED : Fld := ⟨.BEAT_STATUS, 3, 1, .W1C, 0⟩
def F.BEAT_STATUS_FINAL_WAIT : Fld := ⟨.BEAT_STATUS, 2, 1, .RO, 0⟩
def F.BEAT_STATUS_HOLD : Fld := ⟨.BEAT_STATUS, 1, 1, .RO, 0⟩
def F.BEAT_STATUS_RUNNING : Fld := ⟨.BEAT_STATUS, 0, 1, .RO, 0⟩

/-! BEAT_HOLD: R150, Table 6-11. -/
def F.BEAT_HOLD_HOLDS : Fld := ⟨.BEAT_HOLD, 48, 16, .RO, 0⟩
def F.BEAT_HOLD_HOLD_NS : Fld := ⟨.BEAT_HOLD, 0, 48, .RO, 0⟩

/-! BEAT_OPENED: R150, Table 6-12. -/
def F.BEAT_OPENED_TB : Fld := ⟨.BEAT_OPENED, 0, 64, .RO, 0⟩

/-! LATCH_START: R150, Table 6-13. -/
def F.LATCH_START_MARGIN_NS : Fld := ⟨.LATCH_START, 32, 32, .RW, 20000⟩
def F.LATCH_START_UNLOCKED : Fld := ⟨.LATCH_START, 4, 1, .W1C, 0⟩
def F.LATCH_START_LATE : Fld := ⟨.LATCH_START, 3, 1, .W1C, 0⟩
def F.LATCH_START_WAITING : Fld := ⟨.LATCH_START, 2, 1, .RO, 0⟩
def F.LATCH_START_NO_CTX : Fld := ⟨.LATCH_START, 1, 1, .W1C, 0⟩
def F.LATCH_START_ARRIVE : Fld := ⟨.LATCH_START, 0, 1, .WO, 0⟩

/-! LATCH_START_T: R150, Table 6-14. -/
def F.LATCH_START_T_T : Fld := ⟨.LATCH_START_T, 0, 64, .RO, 0⟩

/-! LATCH_TCTX: R150, Table 6-15. -/
def F.LATCH_TCTX_GEN : Fld := ⟨.LATCH_TCTX, 32, 16, .RO, 0⟩
def F.LATCH_TCTX_OWNER : Fld := ⟨.LATCH_TCTX, 16, 4, .RW, 0⟩
def F.LATCH_TCTX_EN : Fld := ⟨.LATCH_TCTX, 0, 1, .RW, 0⟩

/-! LATCH_SCTX: R150, Table 6-16. -/
def F.LATCH_SCTX_GEN : Fld := ⟨.LATCH_SCTX, 48, 16, .RO, 0⟩
def F.LATCH_SCTX_TREE : Fld := ⟨.LATCH_SCTX, 24, 12, .RW, 0⟩
def F.LATCH_SCTX_ROOT : Fld := ⟨.LATCH_SCTX, 23, 1, .RO, 0⟩
def F.LATCH_SCTX_OWNER : Fld := ⟨.LATCH_SCTX, 16, 4, .RW, 0⟩
def F.LATCH_SCTX_LEVELS : Fld := ⟨.LATCH_SCTX, 8, 8, .RO, 0⟩
def F.LATCH_SCTX_START : Fld := ⟨.LATCH_SCTX, 1, 1, .RW, 0⟩
def F.LATCH_SCTX_EN : Fld := ⟨.LATCH_SCTX, 0, 1, .RW, 0⟩

/-! LATCH_TMASK: R150, Table 6-17. -/
def F.LATCH_TMASK_MASK : Fld := ⟨.LATCH_TMASK, 0, 64, .RW, 0⟩

/-! LATCH_SMASK: R150, Table 6-17. -/
def F.LATCH_SMASK_MASK : Fld := ⟨.LATCH_SMASK, 0, 64, .RW, 0⟩

/-! LATCH_TSTAT: R150, Table 6-18. -/
def F.LATCH_TSTAT_ERR_CORE : Fld := ⟨.LATCH_TSTAT, 40, 8, .RO, 0⟩
def F.LATCH_TSTAT_ERR : Fld := ⟨.LATCH_TSTAT, 32, 8, .RO, 0⟩
def F.LATCH_TSTAT_OVERFLOW : Fld := ⟨.LATCH_TSTAT, 17, 1, .W1C, 0⟩
def F.LATCH_TSTAT_ERR_VALID : Fld := ⟨.LATCH_TSTAT, 16, 1, .W1C, 0⟩
def F.LATCH_TSTAT_ARRIVED : Fld := ⟨.LATCH_TSTAT, 0, 9, .RO, 0⟩

/-! LATCH_SSTAT: R150, Table 6-19. -/
def F.LATCH_SSTAT_ERR_NODE : Fld := ⟨.LATCH_SSTAT, 44, 20, .RO, 0⟩
def F.LATCH_SSTAT_ERR : Fld := ⟨.LATCH_SSTAT, 32, 8, .RO, 0⟩
def F.LATCH_SSTAT_OVERFLOW : Fld := ⟨.LATCH_SSTAT, 17, 1, .W1C, 0⟩
def F.LATCH_SSTAT_ERR_VALID : Fld := ⟨.LATCH_SSTAT, 16, 1, .W1C, 0⟩
def F.LATCH_SSTAT_ARRIVED : Fld := ⟨.LATCH_SSTAT, 0, 9, .RO, 0⟩

/-! DISP_PARAM: R161, Table 7-8. -/
def F.DISP_PARAM_BASE : Fld := ⟨.DISP_PARAM, 9, 39, .RW, 0⟩
def F.DISP_PARAM_PAGE : Fld := ⟨.DISP_PARAM, 0, 1, .RW, 0⟩

/-! MEM_SALT: R188, Table 8-4. -/
def F.MEM_SALT_SALT : Fld := ⟨.MEM_SALT, 0, 32, .RO, 0⟩

/-! MEM_CTRL: R188, Table 8-5. -/
def F.MEM_CTRL_SCRUB_H : Fld := ⟨.MEM_CTRL, 16, 8, .RW, 24⟩
def F.MEM_CTRL_SKEW_RATIO : Fld := ⟨.MEM_CTRL, 8, 8, .RW, 4⟩
def F.MEM_CTRL_SKEW_EN : Fld := ⟨.MEM_CTRL, 0, 1, .RW, 1⟩

/-! MEM_STATUS: R188, Table 8-6. -/
def F.MEM_STATUS_HOT : Fld := ⟨.MEM_STATUS, 8, 8, .RO, 0⟩
def F.MEM_STATUS_CELLAR_MAP : Fld := ⟨.MEM_STATUS, 0, 2, .RO, 0⟩

/-! MEM_SKEW: R188, Table 8-7. -/
def F.MEM_SKEW_WINDOWS : Fld := ⟨.MEM_SKEW, 48, 16, .RO, 0⟩
def F.MEM_SKEW_CHANNEL : Fld := ⟨.MEM_SKEW, 40, 8, .RO, 0⟩
def F.MEM_SKEW_PARTITION : Fld := ⟨.MEM_SKEW, 36, 4, .RO, 0⟩
def F.MEM_SKEW_TIER : Fld := ⟨.MEM_SKEW, 32, 1, .RO, 0⟩
def F.MEM_SKEW_RATIO_X16 : Fld := ⟨.MEM_SKEW, 16, 16, .RO, 0⟩
def F.MEM_SKEW_ADVISORY : Fld := ⟨.MEM_SKEW, 0, 1, .W1C, 0⟩

/-! MEM_ECC: R188, Table 8-8. -/
def F.MEM_ECC_HBM_CE : Fld := ⟨.MEM_ECC, 32, 32, .RW, 0⟩
def F.MEM_ECC_CEL_CE : Fld := ⟨.MEM_ECC, 0, 32, .RW, 0⟩

/-! MEM_ERR: R188, Table 8-9. -/
def F.MEM_ERR_CHANNEL : Fld := ⟨.MEM_ERR, 48, 8, .RO, 0⟩
def F.MEM_ERR_PARTITION : Fld := ⟨.MEM_ERR, 44, 4, .RO, 0⟩
def F.MEM_ERR_TIER : Fld := ⟨.MEM_ERR, 40, 1, .RO, 0⟩
def F.MEM_ERR_CAUSE : Fld := ⟨.MEM_ERR, 32, 8, .RO, 0⟩
def F.MEM_ERR_OVERFLOW : Fld := ⟨.MEM_ERR, 1, 1, .W1C, 0⟩
def F.MEM_ERR_VALID : Fld := ⟨.MEM_ERR, 0, 1, .W1C, 0⟩

/-! MEM_ERR_ADDR: R188, Table 8-10. -/
def F.MEM_ERR_ADDR_ADDR : Fld := ⟨.MEM_ERR_ADDR, 0, 48, .RO, 0⟩

/-! MEM_SCRUB: R188, Table 8-11. -/
def F.MEM_SCRUB_PASSES : Fld := ⟨.MEM_SCRUB, 32, 32, .RO, 0⟩
def F.MEM_SCRUB_HELD : Fld := ⟨.MEM_SCRUB, 0, 1, .RO, 0⟩

/-! MEM_PHBM: R188, Table 8-12. -/
def F.MEM_PHBM_EN : Fld := ⟨.MEM_PHBM, 16, 1, .RW, 0⟩
def F.MEM_PHBM_LOG2C : Fld := ⟨.MEM_PHBM, 8, 4, .RW, 0⟩
def F.MEM_PHBM_FIRST : Fld := ⟨.MEM_PHBM, 0, 8, .RW, 0⟩

/-! MEM_PCEL: R188, Table 8-13. -/
def F.MEM_PCEL_EN : Fld := ⟨.MEM_PCEL, 16, 1, .RW, 0⟩
def F.MEM_PCEL_LOG2C : Fld := ⟨.MEM_PCEL, 8, 3, .RW, 0⟩
def F.MEM_PCEL_FIRST : Fld := ⟨.MEM_PCEL, 0, 4, .RW, 0⟩

/-! MEM_REFSTALL: R188, Table 8-14. -/
def F.MEM_REFSTALL_NS : Fld := ⟨.MEM_REFSTALL, 0, 64, .RO, 0⟩

/-! DMA_CTRL: R204, Table 9-7. -/
def F.DMA_CTRL_TIMEOUT_US : Fld := ⟨.DMA_CTRL, 0, 32, .RW, 1000⟩

/-! DMA_POOL: R204, Table 9-8. -/
def F.DMA_POOL_USED_KIB : Fld := ⟨.DMA_POOL, 32, 16, .RO, 0⟩
def F.DMA_POOL_FLOOR_KIB : Fld := ⟨.DMA_POOL, 0, 8, .RW, 32⟩

/-! DMA_ACTIVE: R204, Table 9-9. -/
def F.DMA_ACTIVE_BUSY : Fld := ⟨.DMA_ACTIVE, 0, 32, .RO, 0⟩

/-! DMA_CHCFG: R204, Table 9-10. -/
def F.DMA_CHCFG_POOL_MAX_KIB : Fld := ⟨.DMA_CHCFG, 16, 16, .RW, 512⟩
def F.DMA_CHCFG_WEIGHT : Fld := ⟨.DMA_CHCFG, 12, 4, .RW, 1⟩
def F.DMA_CHCFG_OWNER : Fld := ⟨.DMA_CHCFG, 8, 4, .RW, 0⟩
def F.DMA_CHCFG_NODE_EN : Fld := ⟨.DMA_CHCFG, 3, 1, .RW, 0⟩
def F.DMA_CHCFG_BOARD_EN : Fld := ⟨.DMA_CHCFG, 2, 1, .RW, 0⟩
def F.DMA_CHCFG_HOST_EN : Fld := ⟨.DMA_CHCFG, 1, 1, .RW, 0⟩
def F.DMA_CHCFG_EN : Fld := ⟨.DMA_CHCFG, 0, 1, .RW, 0⟩

/-! DMA_RING: R204, Table 9-11. -/
def F.DMA_RING_BASE : Fld := ⟨.DMA_RING, 10, 38, .RW, 0⟩
def F.DMA_RING_LOG2N : Fld := ⟨.DMA_RING, 0, 5, .RW, 4⟩

/-! DMA_TAIL: R204, Table 9-12. -/
def F.DMA_TAIL_TAIL : Fld := ⟨.DMA_TAIL, 0, 16, .RW, 0⟩

/-! DMA_HEAD: R204, Table 9-13. -/
def F.DMA_HEAD_HEAD : Fld := ⟨.DMA_HEAD, 0, 16, .RO, 0⟩

/-! DMA_CHSTAT: R204, Table 9-14. -/
def F.DMA_CHSTAT_DONE : Fld := ⟨.DMA_CHSTAT, 32, 32, .RO, 0⟩
def F.DMA_CHSTAT_BAD : Fld := ⟨.DMA_CHSTAT, 16, 16, .RO, 0⟩
def F.DMA_CHSTAT_FETCH_ERR : Fld := ⟨.DMA_CHSTAT, 3, 1, .W1C, 0⟩
def F.DMA_CHSTAT_STOPPED : Fld := ⟨.DMA_CHSTAT, 2, 1, .RO, 0⟩
def F.DMA_CHSTAT_WB_ERR : Fld := ⟨.DMA_CHSTAT, 1, 1, .W1C, 0⟩
def F.DMA_CHSTAT_BUSY : Fld := ⟨.DMA_CHSTAT, 0, 1, .RO, 0⟩

/-! DMA_CHCTRL: R204, Table 9-15. -/
def F.DMA_CHCTRL_RESUME : Fld := ⟨.DMA_CHCTRL, 1, 1, .WO, 0⟩
def F.DMA_CHCTRL_STOP : Fld := ⟨.DMA_CHCTRL, 0, 1, .WO, 0⟩

/-! PANE_FREQ: R224, Table 10-7. -/
def F.PANE_FREQ_CHANGES : Fld := ⟨.PANE_FREQ, 48, 16, .RO, 0⟩
def F.PANE_FREQ_EMERGS : Fld := ⟨.PANE_FREQ, 32, 16, .RO, 0⟩
def F.PANE_FREQ_STATE : Fld := ⟨.PANE_FREQ, 10, 2, .RO, 0⟩
def F.PANE_FREQ_EMERG : Fld := ⟨.PANE_FREQ, 9, 1, .RO, 0⟩
def F.PANE_FREQ_PENDING : Fld := ⟨.PANE_FREQ, 8, 1, .RO, 0⟩
def F.PANE_FREQ_REQ : Fld := ⟨.PANE_FREQ, 4, 2, .RW, 0⟩
def F.PANE_FREQ_CUR : Fld := ⟨.PANE_FREQ, 0, 2, .RO, 0⟩

/-! PANE_XLAT: R224, Table 10-8. -/
def F.PANE_XLAT_IN_CALFAIL : Fld := ⟨.PANE_XLAT, 63, 1, .RO, 0⟩
def F.PANE_XLAT_IN_DRIFT : Fld := ⟨.PANE_XLAT, 62, 1, .W1C, 0⟩
def F.PANE_XLAT_IN_PHASE : Fld := ⟨.PANE_XLAT, 48, 4, .RO, 0⟩
def F.PANE_XLAT_IN_MARGIN : Fld := ⟨.PANE_XLAT, 40, 8, .RO, 0⟩
def F.PANE_XLAT_IN_LAT : Fld := ⟨.PANE_XLAT, 32, 8, .RO, 0⟩
def F.PANE_XLAT_OUT_CALFAIL : Fld := ⟨.PANE_XLAT, 31, 1, .RO, 0⟩
def F.PANE_XLAT_OUT_DRIFT : Fld := ⟨.PANE_XLAT, 30, 1, .W1C, 0⟩
def F.PANE_XLAT_OUT_PHASE : Fld := ⟨.PANE_XLAT, 16, 4, .RO, 0⟩
def F.PANE_XLAT_OUT_MARGIN : Fld := ⟨.PANE_XLAT, 8, 8, .RO, 0⟩
def F.PANE_XLAT_OUT_LAT : Fld := ⟨.PANE_XLAT, 0, 8, .RO, 0⟩

/-! PANE_HXLAT: R224, Table 10-8. -/
def F.PANE_HXLAT_IN_CALFAIL : Fld := ⟨.PANE_HXLAT, 63, 1, .RO, 0⟩
def F.PANE_HXLAT_IN_DRIFT : Fld := ⟨.PANE_HXLAT, 62, 1, .W1C, 0⟩
def F.PANE_HXLAT_IN_PHASE : Fld := ⟨.PANE_HXLAT, 48, 4, .RO, 0⟩
def F.PANE_HXLAT_IN_MARGIN : Fld := ⟨.PANE_HXLAT, 40, 8, .RO, 0⟩
def F.PANE_HXLAT_IN_LAT : Fld := ⟨.PANE_HXLAT, 32, 8, .RO, 0⟩
def F.PANE_HXLAT_OUT_CALFAIL : Fld := ⟨.PANE_HXLAT, 31, 1, .RO, 0⟩
def F.PANE_HXLAT_OUT_DRIFT : Fld := ⟨.PANE_HXLAT, 30, 1, .W1C, 0⟩
def F.PANE_HXLAT_OUT_PHASE : Fld := ⟨.PANE_HXLAT, 16, 4, .RO, 0⟩
def F.PANE_HXLAT_OUT_MARGIN : Fld := ⟨.PANE_HXLAT, 8, 8, .RO, 0⟩
def F.PANE_HXLAT_OUT_LAT : Fld := ⟨.PANE_HXLAT, 0, 8, .RO, 0⟩

/-! PANE_SXLAT: R224, Table 10-8. -/
def F.PANE_SXLAT_IN_CALFAIL : Fld := ⟨.PANE_SXLAT, 63, 1, .RO, 0⟩
def F.PANE_SXLAT_IN_DRIFT : Fld := ⟨.PANE_SXLAT, 62, 1, .W1C, 0⟩
def F.PANE_SXLAT_IN_PHASE : Fld := ⟨.PANE_SXLAT, 48, 4, .RO, 0⟩
def F.PANE_SXLAT_IN_MARGIN : Fld := ⟨.PANE_SXLAT, 40, 8, .RO, 0⟩
def F.PANE_SXLAT_IN_LAT : Fld := ⟨.PANE_SXLAT, 32, 8, .RO, 0⟩
def F.PANE_SXLAT_OUT_CALFAIL : Fld := ⟨.PANE_SXLAT, 31, 1, .RO, 0⟩
def F.PANE_SXLAT_OUT_DRIFT : Fld := ⟨.PANE_SXLAT, 30, 1, .W1C, 0⟩
def F.PANE_SXLAT_OUT_PHASE : Fld := ⟨.PANE_SXLAT, 16, 4, .RO, 0⟩
def F.PANE_SXLAT_OUT_MARGIN : Fld := ⟨.PANE_SXLAT, 8, 8, .RO, 0⟩
def F.PANE_SXLAT_OUT_LAT : Fld := ⟨.PANE_SXLAT, 0, 8, .RO, 0⟩

/-! PANE_STOP: R224, Table 10-9. -/
def F.PANE_STOP_MAX_NS : Fld := ⟨.PANE_STOP, 32, 32, .RO, 0⟩
def F.PANE_STOP_LAST_NS : Fld := ⟨.PANE_STOP, 0, 32, .RO, 0⟩

/-! TIME_NOW: R225, Table 10-11. -/
def F.TIME_NOW_NS : Fld := ⟨.TIME_NOW, 0, 64, .RO, 0⟩

/-! TIME_CTRL: R225, Table 10-12. -/
def F.TIME_CTRL_PTP_DOMAIN : Fld := ⟨.TIME_CTRL, 32, 8, .RO, 0⟩
def F.TIME_CTRL_BKPORT : Fld := ⟨.TIME_CTRL, 18, 6, .RO, 0⟩
def F.TIME_CTRL_UPPORT : Fld := ⟨.TIME_CTRL, 12, 6, .RO, 0⟩
def F.TIME_CTRL_PTP_EN : Fld := ⟨.TIME_CTRL, 1, 1, .RO, 0⟩
def F.TIME_CTRL_MASTER : Fld := ⟨.TIME_CTRL, 0, 1, .RO, 0⟩

/-! TIME_STATUS: R225, Table 10-13. -/
def F.TIME_STATUS_MISSED : Fld := ⟨.TIME_STATUS, 32, 16, .RO, 0⟩
def F.TIME_STATUS_DEPTH : Fld := ⟨.TIME_STATUS, 8, 4, .RO, 0⟩
def F.TIME_STATUS_LEFT : Fld := ⟨.TIME_STATUS, 7, 1, .RO, 0⟩
def F.TIME_STATUS_HOLDOVER : Fld := ⟨.TIME_STATUS, 6, 1, .RO, 0⟩
def F.TIME_STATUS_ON_BACKUP : Fld := ⟨.TIME_STATUS, 5, 1, .RO, 0⟩
def F.TIME_STATUS_PTP_LOCKED : Fld := ⟨.TIME_STATUS, 4, 1, .RO, 0⟩
def F.TIME_STATUS_STEPPED : Fld := ⟨.TIME_STATUS, 3, 1, .W1C, 0⟩
def F.TIME_STATUS_LOCKED : Fld := ⟨.TIME_STATUS, 0, 1, .RO, 0⟩

/-! TIME_OFFSET: R225, Table 10-14. -/
def F.TIME_OFFSET_OFF : Fld := ⟨.TIME_OFFSET, 0, 64, .RO, 0⟩

/-! TIME_RATE: R225, Table 10-15. -/
def F.TIME_RATE_PPB : Fld := ⟨.TIME_RATE, 0, 32, .RW, 0⟩

/-! TIME_STEP: R225, Table 10-16. -/
def F.TIME_STEP_DELTA : Fld := ⟨.TIME_STEP, 0, 64, .WO, 0⟩

/-! TIME_WAKE: R225, Table 10-17. -/
def F.TIME_WAKE_DRIFT_NS : Fld := ⟨.TIME_WAKE, 32, 32, .RO, 0⟩
def F.TIME_WAKE_PORT : Fld := ⟨.TIME_WAKE, 10, 6, .RO, 0⟩
def F.TIME_WAKE_OUTCOME : Fld := ⟨.TIME_WAKE, 8, 2, .RO, 0⟩
def F.TIME_WAKE_VALID : Fld := ⟨.TIME_WAKE, 0, 1, .W1C, 0⟩

/-! TIME_PTP: R225, Table 10-18. -/
def F.TIME_PTP_OFFSET_NS : Fld := ⟨.TIME_PTP, 0, 64, .RW, 0⟩

/-! PORT_CFG: R244, Table 11-9. -/
def F.PORT_CFG_EXP_NODE : Fld := ⟨.PORT_CFG, 44, 20, .RO, 0⟩
def F.PORT_CFG_EXP_PORT : Fld := ⟨.PORT_CFG, 38, 6, .RO, 0⟩
def F.PORT_CFG_LENGTH_M : Fld := ⟨.PORT_CFG, 24, 12, .RO, 0⟩
def F.PORT_CFG_H_64K : Fld := ⟨.PORT_CFG, 16, 8, .RO, 0⟩
def F.PORT_CFG_MEDIUM : Fld := ⟨.PORT_CFG, 4, 4, .RO, 0⟩
def F.PORT_CFG_CLASS : Fld := ⟨.PORT_CFG, 0, 2, .RO, 0⟩

/-! PORT_CTRL: R244, Table 11-10. -/
def F.PORT_CTRL_OFF : Fld := ⟨.PORT_CTRL, 3, 1, .WO, 0⟩
def F.PORT_CTRL_SLEEP : Fld := ⟨.PORT_CTRL, 2, 1, .WO, 0⟩
def F.PORT_CTRL_WAKE : Fld := ⟨.PORT_CTRL, 1, 1, .WO, 0⟩
def F.PORT_CTRL_RETRAIN : Fld := ⟨.PORT_CTRL, 0, 1, .WO, 0⟩

/-! PORT_STATUS: R244, Table 11-11. -/
def F.PORT_STATUS_CAUSE : Fld := ⟨.PORT_STATUS, 32, 8, .RO, 0⟩
def F.PORT_STATUS_VMAJOR : Fld := ⟨.PORT_STATUS, 20, 4, .RO, 0⟩
def F.PORT_STATUS_VMINOR : Fld := ⟨.PORT_STATUS, 16, 4, .RO, 0⟩
def F.PORT_STATUS_WIDTH : Fld := ⟨.PORT_STATUS, 8, 8, .RO, 0⟩
def F.PORT_STATUS_SLEEP_REFUSED : Fld := ⟨.PORT_STATUS, 7, 1, .W1C, 0⟩
def F.PORT_STATUS_CDIGEST_BAD : Fld := ⟨.PORT_STATUS, 6, 1, .RO, 0⟩
def F.PORT_STATUS_NEIGH_BAD : Fld := ⟨.PORT_STATUS, 5, 1, .RO, 0⟩
def F.PORT_STATUS_STATE : Fld := ⟨.PORT_STATUS, 0, 4, .RO, 1⟩

/-! PORT_NEIGH: R244, Table 11-13. -/
def F.PORT_NEIGH_NODE : Fld := ⟨.PORT_NEIGH, 44, 20, .RO, 0⟩
def F.PORT_NEIGH_PORT : Fld := ⟨.PORT_NEIGH, 38, 6, .RO, 0⟩
def F.PORT_NEIGH_H_64K : Fld := ⟨.PORT_NEIGH, 30, 8, .RO, 0⟩

/-! PORT_PCDIG: R244, Table 11-14. -/
def F.PORT_PCDIG_CDIGEST : Fld := ⟨.PORT_PCDIG, 0, 64, .RO, 0⟩

/-! PORT_LANES: R244, Table 11-15. -/
def F.PORT_LANES_REVERSED : Fld := ⟨.PORT_LANES, 33, 1, .RO, 0⟩
def F.PORT_LANES_INVERTED : Fld := ⟨.PORT_LANES, 24, 8, .RO, 0⟩
def F.PORT_LANES_FAILED : Fld := ⟨.PORT_LANES, 16, 8, .RO, 0⟩
def F.PORT_LANES_LOCKED : Fld := ⟨.PORT_LANES, 8, 8, .RO, 0⟩
def F.PORT_LANES_PRECODE : Fld := ⟨.PORT_LANES, 0, 8, .RO, 0⟩

/-! PORT_FEC: R244, Table 11-16. -/
def F.PORT_FEC_CORRECTED : Fld := ⟨.PORT_FEC, 32, 32, .RW, 0⟩
def F.PORT_FEC_UNCORR : Fld := ⟨.PORT_FEC, 0, 32, .RW, 0⟩

/-! PORT_TRAIN: R244, Table 11-17. -/
def F.PORT_TRAIN_TRAINS : Fld := ⟨.PORT_TRAIN, 48, 16, .RO, 0⟩
def F.PORT_TRAIN_DEGRADES : Fld := ⟨.PORT_TRAIN, 40, 8, .RO, 0⟩
def F.PORT_TRAIN_BAD_FRAMES : Fld := ⟨.PORT_TRAIN, 32, 8, .RO, 0⟩
def F.PORT_TRAIN_LAST_NS : Fld := ⟨.PORT_TRAIN, 0, 32, .RO, 0⟩

/-! VCB_ALLOC: R265, Table 12-9. -/
def F.VCB_ALLOC_TOTAL_KIB : Fld := ⟨.VCB_ALLOC, 16, 16, .RO, 0⟩
def F.VCB_ALLOC_COMMON_KIB : Fld := ⟨.VCB_ALLOC, 0, 16, .RO, 0⟩

/-! VCB_CAP: R265, Table 12-10. -/
def F.VCB_CAP_CAP4_KIB : Fld := ⟨.VCB_CAP, 48, 16, .RW, 0⟩
def F.VCB_CAP_CAP3_KIB : Fld := ⟨.VCB_CAP, 32, 16, .RW, 0⟩
def F.VCB_CAP_CAP1_KIB : Fld := ⟨.VCB_CAP, 16, 16, .RW, 0⟩
def F.VCB_CAP_CAP0_KIB : Fld := ⟨.VCB_CAP, 0, 16, .RW, 0⟩

/-! VCB_OCC0: R265, Table 12-11. -/
def F.VCB_OCC0_VC3_KIB : Fld := ⟨.VCB_OCC0, 48, 16, .RO, 0⟩
def F.VCB_OCC0_VC2_KIB : Fld := ⟨.VCB_OCC0, 32, 16, .RO, 0⟩
def F.VCB_OCC0_VC1_KIB : Fld := ⟨.VCB_OCC0, 16, 16, .RO, 0⟩
def F.VCB_OCC0_VC0_KIB : Fld := ⟨.VCB_OCC0, 0, 16, .RO, 0⟩

/-! VCB_OCC1: R265, Table 12-12. -/
def F.VCB_OCC1_REPLAY_KIB : Fld := ⟨.VCB_OCC1, 48, 16, .RO, 0⟩
def F.VCB_OCC1_VC5_KIB : Fld := ⟨.VCB_OCC1, 16, 16, .RO, 0⟩
def F.VCB_OCC1_VC4_KIB : Fld := ⟨.VCB_OCC1, 0, 16, .RO, 0⟩

/-! VCB_FLOW: R265, Table 12-13. -/
def F.VCB_FLOW_OFF_EVENTS : Fld := ⟨.VCB_FLOW, 32, 32, .RO, 0⟩
def F.VCB_FLOW_RX_OFF : Fld := ⟨.VCB_FLOW, 8, 6, .RO, 0⟩
def F.VCB_FLOW_TX_OFF : Fld := ⟨.VCB_FLOW, 0, 6, .RO, 0⟩

/-! VCB_TXSEQ: R265, Table 12-14. -/
def F.VCB_TXSEQ_OLDEST : Fld := ⟨.VCB_TXSEQ, 24, 24, .RO, 0⟩
def F.VCB_TXSEQ_NEXT_SEND : Fld := ⟨.VCB_TXSEQ, 0, 24, .RO, 0⟩

/-! VCB_RXSEQ: R265, Table 12-15. -/
def F.VCB_RXSEQ_LAST_ACK : Fld := ⟨.VCB_RXSEQ, 24, 24, .RO, 0⟩
def F.VCB_RXSEQ_NEXT_EXP : Fld := ⟨.VCB_RXSEQ, 0, 24, .RO, 0⟩

/-! VCB_REPLAY: R265, Table 12-16. -/
def F.VCB_REPLAY_REPLAYS : Fld := ⟨.VCB_REPLAY, 32, 32, .RO, 0⟩
def F.VCB_REPLAY_NAKS_SENT : Fld := ⟨.VCB_REPLAY, 16, 16, .RO, 0⟩
def F.VCB_REPLAY_RUN : Fld := ⟨.VCB_REPLAY, 0, 5, .RO, 0⟩

/-! VCB_HOLD: R265, Table 12-17. -/
def F.VCB_HOLD_DISCARDS : Fld := ⟨.VCB_HOLD, 48, 16, .RO, 0⟩
def F.VCB_HOLD_HOLDING : Fld := ⟨.VCB_HOLD, 16, 1, .RO, 0⟩
def F.VCB_HOLD_HOLD_US : Fld := ⟨.VCB_HOLD, 0, 9, .RW, 200⟩

/-! VCB_ERR: R265, Table 12-18. -/
def F.VCB_ERR_CRC_BAD : Fld := ⟨.VCB_ERR, 48, 16, .RW, 0⟩
def F.VCB_ERR_BAD_ACK : Fld := ⟨.VCB_ERR, 32, 16, .RW, 0⟩
def F.VCB_ERR_MALFORMED : Fld := ⟨.VCB_ERR, 16, 16, .RW, 0⟩
def F.VCB_ERR_PKT_DROPPED : Fld := ⟨.VCB_ERR, 0, 16, .RW, 0⟩

/-! VCB_POOL: R265, Table 12-19. -/
def F.VCB_POOL_HIGH_KIB : Fld := ⟨.VCB_POOL, 32, 16, .RO, 0⟩
def F.VCB_POOL_USED_KIB : Fld := ⟨.VCB_POOL, 16, 16, .RO, 0⟩
def F.VCB_POOL_ALLOC_KIB : Fld := ⟨.VCB_POOL, 0, 16, .RO, 0⟩

/-! RTE_GRP: R268, Table 13-1. -/
def F.RTE_GRP_VALID : Fld := ⟨.RTE_GRP, 63, 1, .RW, 0⟩
def F.RTE_GRP_OWNER : Fld := ⟨.RTE_GRP, 59, 4, .RW, 0⟩
def F.RTE_GRP_SET : Fld := ⟨.RTE_GRP, 55, 4, .RW, 0⟩
def F.RTE_GRP_KEY : Fld := ⟨.RTE_GRP, 42, 13, .RW, 0⟩
def F.RTE_GRP_PLANNED : Fld := ⟨.RTE_GRP, 36, 6, .RW, 0⟩
def F.RTE_GRP_DATELINE : Fld := ⟨.RTE_GRP, 35, 1, .RW, 0⟩
def F.RTE_GRP_NCAND : Fld := ⟨.RTE_GRP, 32, 3, .RW, 0⟩
def F.RTE_GRP_CAND3 : Fld := ⟨.RTE_GRP, 26, 6, .RW, 0⟩
def F.RTE_GRP_CAND2 : Fld := ⟨.RTE_GRP, 20, 6, .RW, 0⟩
def F.RTE_GRP_CAND1 : Fld := ⟨.RTE_GRP, 14, 6, .RW, 0⟩
def F.RTE_GRP_CAND0 : Fld := ⟨.RTE_GRP, 8, 6, .RW, 0⟩
def F.RTE_GRP_PTR : Fld := ⟨.RTE_GRP, 0, 2, .RO, 0⟩

/-! RTE_MBR: R268, Table 13-1. -/
def F.RTE_MBR_VALID : Fld := ⟨.RTE_MBR, 63, 1, .RW, 0⟩
def F.RTE_MBR_OWNER : Fld := ⟨.RTE_MBR, 59, 4, .RW, 0⟩
def F.RTE_MBR_SET : Fld := ⟨.RTE_MBR, 55, 4, .RW, 0⟩
def F.RTE_MBR_KEY : Fld := ⟨.RTE_MBR, 42, 13, .RW, 0⟩
def F.RTE_MBR_PLANNED : Fld := ⟨.RTE_MBR, 36, 6, .RW, 0⟩
def F.RTE_MBR_DATELINE : Fld := ⟨.RTE_MBR, 35, 1, .RW, 0⟩
def F.RTE_MBR_NCAND : Fld := ⟨.RTE_MBR, 32, 3, .RW, 0⟩
def F.RTE_MBR_CAND3 : Fld := ⟨.RTE_MBR, 26, 6, .RW, 0⟩
def F.RTE_MBR_CAND2 : Fld := ⟨.RTE_MBR, 20, 6, .RW, 0⟩
def F.RTE_MBR_CAND1 : Fld := ⟨.RTE_MBR, 14, 6, .RW, 0⟩
def F.RTE_MBR_CAND0 : Fld := ⟨.RTE_MBR, 8, 6, .RW, 0⟩
def F.RTE_MBR_PTR : Fld := ⟨.RTE_MBR, 0, 2, .RO, 0⟩

/-! RTE_SELF: R283, Table 13-4. -/
def F.RTE_SELF_SLOT : Fld := ⟨.RTE_SELF, 32, 4, .RO, 0⟩
def F.RTE_SELF_NODE : Fld := ⟨.RTE_SELF, 0, 20, .RO, 0⟩

/-! RTE_STATUS: R283, Table 13-5. -/
def F.RTE_STATUS_MISSES : Fld := ⟨.RTE_STATUS, 32, 32, .RO, 0⟩
def F.RTE_STATUS_FAN_REJECT : Fld := ⟨.RTE_STATUS, 1, 1, .W1C, 0⟩
def F.RTE_STATUS_REJECT : Fld := ⟨.RTE_STATUS, 0, 1, .W1C, 0⟩

/-! RTE_MISS: R283, Table 13-6. -/
def F.RTE_MISS_NODE : Fld := ⟨.RTE_MISS, 44, 20, .RO, 0⟩
def F.RTE_MISS_PARTITION : Fld := ⟨.RTE_MISS, 40, 4, .RO, 0⟩
def F.RTE_MISS_TREE : Fld := ⟨.RTE_MISS, 24, 12, .RO, 0⟩
def F.RTE_MISS_FAN : Fld := ⟨.RTE_MISS, 23, 1, .RO, 0⟩
def F.RTE_MISS_VC : Fld := ⟨.RTE_MISS, 20, 3, .RO, 0⟩
def F.RTE_MISS_OVERFLOW : Fld := ⟨.RTE_MISS, 1, 1, .W1C, 0⟩
def F.RTE_MISS_VALID : Fld := ⟨.RTE_MISS, 0, 1, .W1C, 0⟩

/-! RTE_ADAPT: R283, Table 13-7. -/
def F.RTE_ADAPT_PICKS : Fld := ⟨.RTE_ADAPT, 0, 64, .RO, 0⟩

/-! RTE_SLOT: R283, Table 13-8. -/
def F.RTE_SLOT_VALID : Fld := ⟨.RTE_SLOT, 63, 1, .RO, 0⟩
def F.RTE_SLOT_NODE : Fld := ⟨.RTE_SLOT, 0, 20, .RO, 0⟩

/-! RTE_PSET: R283, Table 13-9. -/
def F.RTE_PSET_SET : Fld := ⟨.RTE_PSET, 0, 4, .RW, 0⟩

/-! FAN_CFG: R284, Table 13-10. -/
def F.FAN_CFG_VALID : Fld := ⟨.FAN_CFG, 63, 1, .RW, 0⟩
def F.FAN_CFG_OWNER : Fld := ⟨.FAN_CFG, 59, 4, .RW, 0⟩
def F.FAN_CFG_PARENT : Fld := ⟨.FAN_CFG, 53, 6, .RW, 0⟩
def F.FAN_CFG_LEVELS : Fld := ⟨.FAN_CFG, 49, 4, .RW, 0⟩
def F.FAN_CFG_PORTS : Fld := ⟨.FAN_CFG, 0, 36, .RW, 0⟩

/-! FAN_DL: R284, Table 13-11. -/
def F.FAN_DL_DLMASK : Fld := ⟨.FAN_DL, 0, 36, .RW, 0⟩

/-! FAN_CMASK: R284, Table 13-12. -/
def F.FAN_CMASK_MASK : Fld := ⟨.FAN_CMASK, 0, 64, .RW, 0⟩

/-! FAN_STATUS: R284, Table 13-13. -/
def F.FAN_STATUS_COPIES : Fld := ⟨.FAN_STATUS, 32, 32, .RO, 0⟩
def F.FAN_STATUS_BRANCH_STALLS : Fld := ⟨.FAN_STATUS, 16, 16, .RO, 0⟩

/-! CTL_VAR: R299, Table 14-6. -/
def F.CTL_VAR_COUNT : Fld := ⟨.CTL_VAR, 0, 64, .RO, 0⟩

/-! CTL_VARC: R299, Table 14-6. -/
def F.CTL_VARC_COUNT : Fld := ⟨.CTL_VARC, 0, 64, .RO, 0⟩

/-! CTL_VARP: R299, Table 14-6. -/
def F.CTL_VARP_COUNT : Fld := ⟨.CTL_VARP, 0, 64, .RO, 0⟩

/-! CTL_CDIG: R299, Table 14-7. -/
def F.CTL_CDIG_DIGEST : Fld := ⟨.CTL_CDIG, 0, 64, .RO, 0⟩

/-! CTL_PCDIG: R299, Table 14-7. -/
def F.CTL_PCDIG_DIGEST : Fld := ⟨.CTL_PCDIG, 0, 64, .RO, 0⟩

/-! DMA_WLCTRL: R314, Table 15-8. -/
def F.DMA_WLCTRL_REPAIR_MS : Fld := ⟨.DMA_WLCTRL, 32, 16, .RW, 1000⟩
def F.DMA_WLCTRL_STALL_US : Fld := ⟨.DMA_WLCTRL, 0, 32, .RW, 2000⟩

/-! DMA_WLSTAT: R314, Table 15-9. -/
def F.DMA_WLSTAT_QP_ERRS : Fld := ⟨.DMA_WLSTAT, 48, 16, .RO, 0⟩
def F.DMA_WLSTAT_BREAKS : Fld := ⟨.DMA_WLSTAT, 32, 16, .RO, 0⟩
def F.DMA_WLSTAT_DIGEST_FAILS : Fld := ⟨.DMA_WLSTAT, 16, 16, .RO, 0⟩
def F.DMA_WLSTAT_ACTIVE : Fld := ⟨.DMA_WLSTAT, 0, 16, .RO, 0⟩

/-! DMA_WLBYTES: R314, Table 15-10. -/
def F.DMA_WLBYTES_BYTES : Fld := ⟨.DMA_WLBYTES, 0, 64, .RO, 0⟩

/-! DMA_WLNET: R314, Table 15-11. -/
def F.DMA_WLNET_DROPPED : Fld := ⟨.DMA_WLNET, 32, 32, .RO, 0⟩
def F.DMA_WLNET_CNP_SENT : Fld := ⟨.DMA_WLNET, 0, 32, .RO, 0⟩

/-! RQT_PART: R329, Table 16-12. -/
def F.RQT_PART_CUST_COUNT : Fld := ⟨.RQT_PART, 45, 13, .RW, 0⟩
def F.RQT_PART_CUST_BASE : Fld := ⟨.RQT_PART, 33, 12, .RW, 0⟩
def F.RQT_PART_ENT_COUNT : Fld := ⟨.RQT_PART, 16, 17, .RW, 0⟩
def F.RQT_PART_ENT_BASE : Fld := ⟨.RQT_PART, 0, 16, .RW, 0⟩

/-! RQT_SERVE: R329, Table 16-13. -/
def F.RQT_SERVE_STEP : Fld := ⟨.RQT_SERVE, 32, 32, .RO, 0⟩
def F.RQT_SERVE_CFG_ERR : Fld := ⟨.RQT_SERVE, 8, 8, .RO, 0⟩
def F.RQT_SERVE_COMPOSER : Fld := ⟨.RQT_SERVE, 1, 1, .RO, 0⟩
def F.RQT_SERVE_OPEN : Fld := ⟨.RQT_SERVE, 0, 1, .RO, 0⟩

/-! RQT_PSTAT: R329, Table 16-14. -/
def F.RQT_PSTAT_QUEUED : Fld := ⟨.RQT_PSTAT, 48, 16, .RO, 0⟩
def F.RQT_PSTAT_ACTIVE : Fld := ⟨.RQT_PSTAT, 32, 16, .RO, 0⟩
def F.RQT_PSTAT_PAUSED : Fld := ⟨.RQT_PSTAT, 16, 16, .RO, 0⟩
def F.RQT_PSTAT_SPILLED : Fld := ⟨.RQT_PSTAT, 0, 16, .RO, 0⟩

/-! RQT_PAGES: R329, Table 16-15. -/
def F.RQT_PAGES_HBM_FREE : Fld := ⟨.RQT_PAGES, 40, 24, .RO, 0⟩
def F.RQT_PAGES_CEL_FREE : Fld := ⟨.RQT_PAGES, 16, 24, .RO, 0⟩

/-! RQT_STEP: R329, Table 16-16. -/
def F.RQT_STEP_ACTUAL_NS : Fld := ⟨.RQT_STEP, 32, 32, .RO, 0⟩
def F.RQT_STEP_PRED_NS : Fld := ⟨.RQT_STEP, 0, 32, .RO, 0⟩

/-! RQT_COUNT: R329, Table 16-17. -/
def F.RQT_COUNT_EVICTED : Fld := ⟨.RQT_COUNT, 48, 16, .RO, 0⟩
def F.RQT_COUNT_CANCELLED : Fld := ⟨.RQT_COUNT, 32, 16, .RO, 0⟩
def F.RQT_COUNT_BUCKET_DEFER : Fld := ⟨.RQT_COUNT, 16, 16, .RO, 0⟩
def F.RQT_COUNT_RING_DEFER : Fld := ⟨.RQT_COUNT, 0, 16, .RO, 0⟩

/-! RQT_PRIO: R329, Table 16-18. -/
def F.RQT_PRIO_MISSES : Fld := ⟨.RQT_PRIO, 32, 32, .RO, 0⟩
def F.RQT_PRIO_TARGET_US : Fld := ⟨.RQT_PRIO, 0, 24, .RW, 0⟩

/-! SMP_STATUS: R340, Table 17-5. -/
def F.SMP_STATUS_ROWS : Fld := ⟨.SMP_STATUS, 2, 62, .RO, 0⟩
def F.SMP_STATUS_BUSY1 : Fld := ⟨.SMP_STATUS, 1, 1, .RO, 0⟩
def F.SMP_STATUS_BUSY0 : Fld := ⟨.SMP_STATUS, 0, 1, .RO, 0⟩

/-! SMP_ERR: R340, Table 17-6. -/
def F.SMP_ERR_READ : Fld := ⟨.SMP_ERR, 48, 16, .RW, 0⟩
def F.SMP_ERR_BAD_SET : Fld := ⟨.SMP_ERR, 32, 16, .RW, 0⟩
def F.SMP_ERR_DEGENERATE : Fld := ⟨.SMP_ERR, 16, 16, .RW, 0⟩
def F.SMP_ERR_BAD_CAND : Fld := ⟨.SMP_ERR, 0, 16, .RW, 0⟩

/-! SMP_TIME: R340, Table 17-7. -/
def F.SMP_TIME_LAST1_NS : Fld := ⟨.SMP_TIME, 32, 32, .RO, 0⟩
def F.SMP_TIME_LAST0_NS : Fld := ⟨.SMP_TIME, 0, 32, .RO, 0⟩

/-! SMP_PCAND: R340, Table 17-8. -/
def F.SMP_PCAND_VALID : Fld := ⟨.SMP_PCAND, 63, 1, .RW, 0⟩
def F.SMP_PCAND_BASE : Fld := ⟨.SMP_PCAND, 6, 42, .RW, 0⟩

/-! SMP_PSHAPE: R340, Table 17-9. -/
def F.SMP_PSHAPE_VOCAB : Fld := ⟨.SMP_PSHAPE, 39, 21, .RW, 0⟩
def F.SMP_PSHAPE_SHARDS : Fld := ⟨.SMP_PSHAPE, 28, 11, .RW, 0⟩
def F.SMP_PSHAPE_KM : Fld := ⟨.SMP_PSHAPE, 17, 11, .RW, 0⟩
def F.SMP_PSHAPE_K : Fld := ⟨.SMP_PSHAPE, 6, 11, .RW, 0⟩

/-! SMP_PSET: R340, Table 17-10. -/
def F.SMP_PSET_COUNT : Fld := ⟨.SMP_PSET, 51, 13, .RW, 0⟩
def F.SMP_PSET_BASE : Fld := ⟨.SMP_PSET, 6, 42, .RW, 0⟩

/-! SMP_PHIST: R340, Table 17-11. -/
def F.SMP_PHIST_BASE : Fld := ⟨.SMP_PHIST, 14, 34, .RW, 0⟩

/-! SEC_STATUS: R363, Table 18-10. -/
def F.SEC_STATUS_ACTIVE : Fld := ⟨.SEC_STATUS, 8, 8, .RO, 0⟩
def F.SEC_STATUS_AO_LOSS : Fld := ⟨.SEC_STATUS, 4, 1, .RO, 0⟩
def F.SEC_STATUS_KEYOP : Fld := ⟨.SEC_STATUS, 3, 1, .RO, 0⟩
def F.SEC_STATUS_DRBG_FAIL : Fld := ⟨.SEC_STATUS, 2, 1, .RO, 0⟩
def F.SEC_STATUS_TAMPERED : Fld := ⟨.SEC_STATUS, 0, 1, .RO, 0⟩

/-! SEC_TAMPER: R363, Table 18-11. -/
def F.SEC_TAMPER_COUNT : Fld := ⟨.SEC_TAMPER, 48, 16, .RO, 0⟩
def F.SEC_TAMPER_CAUSE : Fld := ⟨.SEC_TAMPER, 32, 8, .RO, 0⟩
def F.SEC_TAMPER_SENSOR : Fld := ⟨.SEC_TAMPER, 24, 8, .RO, 0⟩
def F.SEC_TAMPER_PHASE : Fld := ⟨.SEC_TAMPER, 16, 2, .RO, 0⟩

/-! SEC_TTIME: R363, Table 18-12. -/
def F.SEC_TTIME_TB : Fld := ⟨.SEC_TTIME, 0, 64, .RO, 0⟩

/-! SEC_TCLR: R363, Table 18-13. -/
def F.SEC_TCLR_NONCE : Fld := ⟨.SEC_TCLR, 0, 64, .WO, 0⟩

/-! SEC_DEBUG: R363, Table 18-14. -/
def F.SEC_DEBUG_FAILS : Fld := ⟨.SEC_DEBUG, 8, 8, .RO, 0⟩
def F.SEC_DEBUG_LEVEL : Fld := ⟨.SEC_DEBUG, 0, 2, .RO, 0⟩

/-! SEC_DEVID: R363, Table 18-15. -/
def F.SEC_DEVID_DIGEST : Fld := ⟨.SEC_DEVID, 0, 64, .RO, 0⟩

/-! SEC_PCTL: R363, Table 18-16. -/
def F.SEC_PCTL_ERR : Fld := ⟨.SEC_PCTL, 32, 8, .RO, 0⟩
def F.SEC_PCTL_HMODE : Fld := ⟨.SEC_PCTL, 10, 2, .RO, 0⟩
def F.SEC_PCTL_SESSION : Fld := ⟨.SEC_PCTL, 9, 1, .RO, 0⟩
def F.SEC_PCTL_OPKEYS : Fld := ⟨.SEC_PCTL, 8, 1, .RO, 0⟩
def F.SEC_PCTL_TEARDOWN : Fld := ⟨.SEC_PCTL, 3, 1, .WO, 0⟩
def F.SEC_PCTL_CREATE : Fld := ⟨.SEC_PCTL, 2, 1, .WO, 0⟩
def F.SEC_PCTL_STATE : Fld := ⟨.SEC_PCTL, 0, 2, .RO, 0⟩

/-! SEC_PPANE: R363, Table 18-17. -/
def F.SEC_PPANE_PANES : Fld := ⟨.SEC_PPANE, 0, 32, .RW, 0⟩

/-! SEC_PPORT: R363, Table 18-18. -/
def F.SEC_PPORT_PORTS : Fld := ⟨.SEC_PPORT, 0, 36, .RW, 0⟩

/-! SEC_PRING: R363, Table 18-19. -/
def F.SEC_PRING_POOL_MIB : Fld := ⟨.SEC_PRING, 48, 16, .RW, 0⟩
def F.SEC_PRING_COUNT : Fld := ⟨.SEC_PRING, 17, 17, .RW, 0⟩
def F.SEC_PRING_BASE : Fld := ⟨.SEC_PRING, 0, 16, .RW, 0⟩

/-! SEC_PKEYID: R363, Table 18-20. -/
def F.SEC_PKEYID_KEYID : Fld := ⟨.SEC_PKEYID, 0, 64, .RO, 0⟩

/-! SEC_PBBSTAT: R363, Table 18-21. -/
def F.SEC_PBBSTAT_RECORDS : Fld := ⟨.SEC_PBBSTAT, 32, 32, .RO, 0⟩
def F.SEC_PBBSTAT_TAG_FAIL : Fld := ⟨.SEC_PBBSTAT, 16, 16, .RO, 0⟩
def F.SEC_PBBSTAT_SEQ_FAIL : Fld := ⟨.SEC_PBBSTAT, 0, 16, .RO, 0⟩

/-! CTL_DOORBELL: R378, Table 19-9. -/
def F.CTL_DOORBELL_CQ : Fld := ⟨.CTL_DOORBELL, 63, 1, .WO, 0⟩
def F.CTL_DOORBELL_RING : Fld := ⟨.CTL_DOORBELL, 32, 16, .WO, 0⟩
def F.CTL_DOORBELL_VALUE : Fld := ⟨.CTL_DOORBELL, 0, 32, .WO, 0⟩

/-! CTL_STATUS: R378, Table 19-10. -/
def F.CTL_STATUS_SVN : Fld := ⟨.CTL_STATUS, 32, 32, .RO, 0⟩
def F.CTL_STATUS_DB_IGNORED : Fld := ⟨.CTL_STATUS, 16, 16, .RO, 0⟩
def F.CTL_STATUS_UPDATING : Fld := ⟨.CTL_STATUS, 2, 1, .RO, 0⟩
def F.CTL_STATUS_SLOT : Fld := ⟨.CTL_STATUS, 1, 1, .RO, 0⟩
def F.CTL_STATUS_READY : Fld := ⟨.CTL_STATUS, 0, 1, .RO, 0⟩

/-! CTL_FWLOAD: R378, Table 19-11. -/
def F.CTL_FWLOAD_LEN : Fld := ⟨.CTL_FWLOAD, 32, 21, .RW, 0⟩
def F.CTL_FWLOAD_GO : Fld := ⟨.CTL_FWLOAD, 0, 1, .WO, 0⟩

/-! CTL_FWSTAT: R378, Table 19-12. -/
def F.CTL_FWSTAT_MIN_SVN : Fld := ⟨.CTL_FWSTAT, 32, 32, .RO, 0⟩
def F.CTL_FWSTAT_RESULT : Fld := ⟨.CTL_FWSTAT, 8, 8, .RO, 0⟩
def F.CTL_FWSTAT_REFUSED : Fld := ⟨.CTL_FWSTAT, 0, 8, .RO, 0⟩

/-! CTL_LOCKSTEP: R378, Table 19-13. -/
def F.CTL_LOCKSTEP_RESETS : Fld := ⟨.CTL_LOCKSTEP, 32, 32, .RO, 0⟩
def F.CTL_LOCKSTEP_DELAY_PARITY : Fld := ⟨.CTL_LOCKSTEP, 2, 1, .W1C, 0⟩
def F.CTL_LOCKSTEP_UNVERIFIED : Fld := ⟨.CTL_LOCKSTEP, 1, 1, .RO, 0⟩
def F.CTL_LOCKSTEP_MISMATCH : Fld := ⟨.CTL_LOCKSTEP, 0, 1, .W1C, 0⟩

/-! CTL_PIN: R378, Table 19-14. -/
def F.CTL_PIN_LOST : Fld := ⟨.CTL_PIN, 16, 16, .W1C, 0⟩
def F.CTL_PIN_PINNED : Fld := ⟨.CTL_PIN, 0, 16, .RW, 0⟩

/-! CTL_LOG: R378, Table 19-15. -/
def F.CTL_LOG_DROPPED : Fld := ⟨.CTL_LOG, 32, 32, .RO, 0⟩
def F.CTL_LOG_WRITTEN : Fld := ⟨.CTL_LOG, 0, 32, .RO, 0⟩

/-! CTL_PEEPDROP: R378, Table 19-16. -/
def F.CTL_PEEPDROP_RING : Fld := ⟨.CTL_PEEPDROP, 32, 32, .RO, 0⟩
def F.CTL_PEEPDROP_QUEUE : Fld := ⟨.CTL_PEEPDROP, 0, 32, .RO, 0⟩

/-! CTL_UART: R378, Table 19-17. -/
def F.CTL_UART_DIV : Fld := ⟨.CTL_UART, 8, 24, .RW, 138889⟩
def F.CTL_UART_RX_EN : Fld := ⟨.CTL_UART, 1, 1, .RW, 1⟩
def F.CTL_UART_TX_EN : Fld := ⟨.CTL_UART, 0, 1, .RW, 1⟩

/-! CTL_UARTSTAT: R378, Table 19-18. -/
def F.CTL_UARTSTAT_FRAMING : Fld := ⟨.CTL_UARTSTAT, 48, 16, .RO, 0⟩
def F.CTL_UARTSTAT_OVERRUN : Fld := ⟨.CTL_UARTSTAT, 32, 16, .RO, 0⟩
def F.CTL_UARTSTAT_RXLEVEL : Fld := ⟨.CTL_UARTSTAT, 8, 8, .RO, 0⟩
def F.CTL_UARTSTAT_TXLEVEL : Fld := ⟨.CTL_UARTSTAT, 0, 8, .RO, 0⟩

/-! CTL_PEEPEN: R378, Table 19-19. -/
def F.CTL_PEEPEN_EN3 : Fld := ⟨.CTL_PEEPEN, 48, 16, .RW, 0⟩
def F.CTL_PEEPEN_EN2 : Fld := ⟨.CTL_PEEPEN, 32, 16, .RW, 0⟩
def F.CTL_PEEPEN_EN1 : Fld := ⟨.CTL_PEEPEN, 16, 16, .RW, 0⟩
def F.CTL_PEEPEN_EN0 : Fld := ⟨.CTL_PEEPEN, 0, 16, .RW, 0⟩

/-! BOOT_STATUS: R391, Table 20-10. -/
def F.BOOT_STATUS_REASON : Fld := ⟨.BOOT_STATUS, 40, 8, .RO, 0⟩
def F.BOOT_STATUS_CTR_RESET : Fld := ⟨.BOOT_STATUS, 11, 1, .RO, 0⟩
def F.BOOT_STATUS_CELLAR_POP : Fld := ⟨.BOOT_STATUS, 10, 1, .RO, 0⟩
def F.BOOT_STATUS_FALLBACK : Fld := ⟨.BOOT_STATUS, 9, 1, .RO, 0⟩
def F.BOOT_STATUS_PWRFAIL : Fld := ⟨.BOOT_STATUS, 8, 1, .RO, 0⟩
def F.BOOT_STATUS_COMPLETE : Fld := ⟨.BOOT_STATUS, 7, 1, .RO, 0⟩
def F.BOOT_STATUS_VESTIBULE : Fld := ⟨.BOOT_STATUS, 6, 1, .RO, 0⟩
def F.BOOT_STATUS_FAILED : Fld := ⟨.BOOT_STATUS, 5, 1, .RO, 0⟩
def F.BOOT_STATUS_STAGE : Fld := ⟨.BOOT_STATUS, 0, 4, .RO, 0⟩

/-! BOOT_CFGSEL: R391, Table 20-11. -/
def F.BOOT_CFGSEL_SEQ : Fld := ⟨.BOOT_CFGSEL, 16, 48, .RO, 0⟩
def F.BOOT_CFGSEL_B_RESULT : Fld := ⟨.BOOT_CFGSEL, 12, 4, .RO, 0⟩
def F.BOOT_CFGSEL_A_RESULT : Fld := ⟨.BOOT_CFGSEL, 8, 4, .RO, 0⟩
def F.BOOT_CFGSEL_COPY : Fld := ⟨.BOOT_CFGSEL, 0, 1, .RO, 0⟩

/-! BOOT_ATTEMPT: R391, Table 20-12. -/
def F.BOOT_ATTEMPT_REC_SEQ : Fld := ⟨.BOOT_ATTEMPT, 32, 32, .RO, 0⟩
def F.BOOT_ATTEMPT_ATTEMPTS : Fld := ⟨.BOOT_ATTEMPT, 0, 8, .RO, 0⟩

/-! BOOT_READY_TB: R391, Table 20-13. -/
def F.BOOT_READY_TB_TB : Fld := ⟨.BOOT_READY_TB, 0, 64, .RO, 0⟩

/-! CTL_ABORTCFG: R414, Table 21-10. -/
def F.CTL_ABORTCFG_LINK_LIMIT_US : Fld := ⟨.CTL_ABORTCFG, 32, 16, .RW, 400⟩
def F.CTL_ABORTCFG_QUIET_US : Fld := ⟨.CTL_ABORTCFG, 0, 16, .RW, 20⟩

/-! CTL_MLOCK: R414, Table 21-11. -/
def F.CTL_MLOCK_BUSY : Fld := ⟨.CTL_MLOCK, 32, 32, .RO, 0⟩
def F.CTL_MLOCK_QUEUED : Fld := ⟨.CTL_MLOCK, 16, 16, .RO, 0⟩
def F.CTL_MLOCK_ACTIVE : Fld := ⟨.CTL_MLOCK, 0, 7, .RO, 0⟩

/-! CTL_LSTEST: R414, Table 21-12. -/
def F.CTL_LSTEST_TESTS : Fld := ⟨.CTL_LSTEST, 32, 32, .RO, 0⟩
def F.CTL_LSTEST_COMP_FAIL : Fld := ⟨.CTL_LSTEST, 1, 1, .W1C, 0⟩

/-! CTL_ABORT: R414, Table 21-13. -/
def F.CTL_ABORT_NODE : Fld := ⟨.CTL_ABORT, 44, 20, .RO, 0⟩
def F.CTL_ABORT_CAUSE : Fld := ⟨.CTL_ABORT, 36, 8, .RO, 0⟩
def F.CTL_ABORT_DETAIL : Fld := ⟨.CTL_ABORT, 28, 8, .RO, 0⟩
def F.CTL_ABORT_COUNT : Fld := ⟨.CTL_ABORT, 12, 16, .RO, 0⟩
def F.CTL_ABORT_QUIET : Fld := ⟨.CTL_ABORT, 2, 1, .RO, 0⟩
def F.CTL_ABORT_LATE : Fld := ⟨.CTL_ABORT, 1, 1, .W1C, 0⟩
def F.CTL_ABORT_VALID : Fld := ⟨.CTL_ABORT, 0, 1, .W1C, 0⟩

/-! DMA_RSCFG: R414, Table 21-14. -/
def F.DMA_RSCFG_EN : Fld := ⟨.DMA_RSCFG, 63, 1, .RW, 0⟩
def F.DMA_RSCFG_BASE : Fld := ⟨.DMA_RSCFG, 10, 38, .RW, 0⟩
def F.DMA_RSCFG_LOG2N : Fld := ⟨.DMA_RSCFG, 0, 5, .RW, 4⟩

/-! DMA_RSTAIL: R414, Table 21-15. -/
def F.DMA_RSTAIL_INDEX : Fld := ⟨.DMA_RSTAIL, 0, 16, .RW, 0⟩

/-! DMA_RSHEAD: R414, Table 21-15. -/
def F.DMA_RSHEAD_INDEX : Fld := ⟨.DMA_RSHEAD, 0, 16, .RO, 0⟩

/-! DMA_RSSTAT: R414, Table 21-16. -/
def F.DMA_RSSTAT_DONE : Fld := ⟨.DMA_RSSTAT, 32, 32, .RO, 0⟩
def F.DMA_RSSTAT_BAD : Fld := ⟨.DMA_RSSTAT, 16, 16, .RO, 0⟩
def F.DMA_RSSTAT_FETCH_ERR : Fld := ⟨.DMA_RSSTAT, 1, 1, .W1C, 0⟩
def F.DMA_RSSTAT_BUSY : Fld := ⟨.DMA_RSSTAT, 0, 1, .RO, 0⟩

/-! PWR_CTRL: R432, Table 22-9. -/
def F.PWR_CTRL_STBY_EN : Fld := ⟨.PWR_CTRL, 32, 1, .RW, 1⟩
def F.PWR_CTRL_IDLE_US : Fld := ⟨.PWR_CTRL, 0, 32, .RW, 1000⟩

/-! PWR_STATUS: R432, Table 22-10. -/
def F.PWR_STATUS_REFUSALS : Fld := ⟨.PWR_STATUS, 48, 16, .RO, 0⟩
def F.PWR_STATUS_REFUSE : Fld := ⟨.PWR_STATUS, 40, 8, .RO, 0⟩
def F.PWR_STATUS_LIMIT_CLAMPED : Fld := ⟨.PWR_STATUS, 5, 1, .RO, 0⟩
def F.PWR_STATUS_THERMTRIP : Fld := ⟨.PWR_STATUS, 4, 1, .RO, 0⟩
def F.PWR_STATUS_PROCHOT : Fld := ⟨.PWR_STATUS, 3, 1, .RO, 0⟩
def F.PWR_STATUS_STATE : Fld := ⟨.PWR_STATUS, 0, 2, .RO, 0⟩

/-! PWR_LIMIT: R432, Table 22-11. -/
def F.PWR_LIMIT_LIMIT_W : Fld := ⟨.PWR_LIMIT, 0, 11, .RO, 0⟩

/-! PWR_MEAS: R432, Table 22-12. -/
def F.PWR_MEAS_PEAK_MW : Fld := ⟨.PWR_MEAS, 32, 32, .RO, 0⟩
def F.PWR_MEAS_AVG_MW : Fld := ⟨.PWR_MEAS, 0, 32, .RO, 0⟩

/-! PWR_EMERG: R432, Table 22-13. -/
def F.PWR_EMERG_PROCHOT : Fld := ⟨.PWR_EMERG, 48, 16, .RO, 0⟩
def F.PWR_EMERG_THERMAL : Fld := ⟨.PWR_EMERG, 32, 16, .RO, 0⟩
def F.PWR_EMERG_OVERCURRENT : Fld := ⟨.PWR_EMERG, 16, 16, .RO, 0⟩
def F.PWR_EMERG_DROOP : Fld := ⟨.PWR_EMERG, 0, 16, .RO, 0⟩

/-! PWR_TEMP0: R432, Table 22-14. -/
def F.PWR_TEMP0_JAMB_W : Fld := ⟨.PWR_TEMP0, 48, 16, .RO, 0⟩
def F.PWR_TEMP0_JAMB_E : Fld := ⟨.PWR_TEMP0, 32, 16, .RO, 0⟩
def F.PWR_TEMP0_LEAF_B : Fld := ⟨.PWR_TEMP0, 16, 16, .RO, 0⟩
def F.PWR_TEMP0_LEAF_A : Fld := ⟨.PWR_TEMP0, 0, 16, .RO, 0⟩

/-! PWR_TEMP1: R432, Table 22-15. -/
def F.PWR_TEMP1_STACK : Fld := ⟨.PWR_TEMP1, 0, 64, .RO, 0⟩

/-! PWR_RAIL: R432, Table 22-16. -/
def F.PWR_RAIL_OUT5 : Fld := ⟨.PWR_RAIL, 32, 1, .W1C, 0⟩
def F.PWR_RAIL_CURR_DA : Fld := ⟨.PWR_RAIL, 16, 16, .RO, 0⟩
def F.PWR_RAIL_VOLT_MV : Fld := ⟨.PWR_RAIL, 0, 16, .RO, 0⟩

/-! PORT_XLAT: R244, Table 10-8. -/
def F.PORT_XLAT_IN_CALFAIL : Fld := ⟨.PORT_XLAT, 63, 1, .RO, 0⟩
def F.PORT_XLAT_IN_DRIFT : Fld := ⟨.PORT_XLAT, 62, 1, .W1C, 0⟩
def F.PORT_XLAT_IN_PHASE : Fld := ⟨.PORT_XLAT, 48, 4, .RO, 0⟩
def F.PORT_XLAT_IN_MARGIN : Fld := ⟨.PORT_XLAT, 40, 8, .RO, 0⟩
def F.PORT_XLAT_IN_LAT : Fld := ⟨.PORT_XLAT, 32, 8, .RO, 0⟩
def F.PORT_XLAT_OUT_CALFAIL : Fld := ⟨.PORT_XLAT, 31, 1, .RO, 0⟩
def F.PORT_XLAT_OUT_DRIFT : Fld := ⟨.PORT_XLAT, 30, 1, .W1C, 0⟩
def F.PORT_XLAT_OUT_PHASE : Fld := ⟨.PORT_XLAT, 16, 4, .RO, 0⟩
def F.PORT_XLAT_OUT_MARGIN : Fld := ⟨.PORT_XLAT, 8, 8, .RO, 0⟩
def F.PORT_XLAT_OUT_LAT : Fld := ⟨.PORT_XLAT, 0, 8, .RO, 0⟩

/-! CTL_FEAT0: Table 7-3. -/
def F.CTL_FEAT0_NODE_BITS : Fld := ⟨.CTL_FEAT0, 48, 8, .RO, 17⟩
def F.CTL_FEAT0_PARTS : Fld := ⟨.CTL_FEAT0, 40, 8, .RO, 16⟩
def F.CTL_FEAT0_REV : Fld := ⟨.CTL_FEAT0, 32, 8, .RO, 16⟩
def F.CTL_FEAT0_GRADE : Fld := ⟨.CTL_FEAT0, 24, 8, .RO, 0⟩
def F.CTL_FEAT0_CORES : Fld := ⟨.CTL_FEAT0, 8, 10, .RO, 0⟩
def F.CTL_FEAT0_LEVEL : Fld := ⟨.CTL_FEAT0, 0, 8, .RO, 1⟩

/-! CTL_FEAT1: Table 7-3. -/
def F.CTL_FEAT1_ACC_ROWS : Fld := ⟨.CTL_FEAT1, 48, 16, .RO, 4096⟩
def F.CTL_FEAT1_QDEPTH : Fld := ⟨.CTL_FEAT1, 40, 8, .RO, 64⟩
def F.CTL_FEAT1_LATCHES : Fld := ⟨.CTL_FEAT1, 32, 8, .RO, 48⟩
def F.CTL_FEAT1_PARAMS : Fld := ⟨.CTL_FEAT1, 24, 8, .RO, 64⟩
def F.CTL_FEAT1_PREDS : Fld := ⟨.CTL_FEAT1, 16, 8, .RO, 16⟩
def F.CTL_FEAT1_SPAD_KIB : Fld := ⟨.CTL_FEAT1, 0, 16, .RO, 6144⟩

/-! CTL_FEAT2: Table 7-4. -/
def F.CTL_FEAT2_TREES : Fld := ⟨.CTL_FEAT2, 48, 16, .RO, 4096⟩
def F.CTL_FEAT2_RTE_GROUP : Fld := ⟨.CTL_FEAT2, 32, 16, .RO, 4096⟩
def F.CTL_FEAT2_RTE_MEMBER : Fld := ⟨.CTL_FEAT2, 24, 8, .RO, 128⟩
def F.CTL_FEAT2_PORTS : Fld := ⟨.CTL_FEAT2, 16, 8, .RO, 36⟩
def F.CTL_FEAT2_SCTX : Fld := ⟨.CTL_FEAT2, 8, 8, .RO, 32⟩
def F.CTL_FEAT2_TCTX : Fld := ⟨.CTL_FEAT2, 0, 8, .RO, 8⟩

/-! CTL_FEAT3: Table 7-4. -/
def F.CTL_FEAT3_PANE_FUSED : Fld := ⟨.CTL_FEAT3, 32, 32, .RO, 0⟩
def F.CTL_FEAT3_CELLAR_CH : Fld := ⟨.CTL_FEAT3, 24, 8, .RO, 0⟩
def F.CTL_FEAT3_HBM_STACKS : Fld := ⟨.CTL_FEAT3, 16, 8, .RO, 8⟩
def F.CTL_FEAT3_HBM_CH : Fld := ⟨.CTL_FEAT3, 0, 16, .RO, 256⟩

/-! CTL_FEAT4: Table 7-4. -/
def F.CTL_FEAT4_RINGS : Fld := ⟨.CTL_FEAT4, 32, 32, .RO, 65536⟩
def F.CTL_FEAT4_CELLAR_GIB : Fld := ⟨.CTL_FEAT4, 16, 16, .RO, 0⟩
def F.CTL_FEAT4_HBM_GB : Fld := ⟨.CTL_FEAT4, 0, 16, .RO, 384⟩

/-- The fields of a register; bits in no field are reserved (RSV: read 0, writes ignored). -/
def Reg.fields : Reg → List Fld
  | .CORE_ID => [F.CORE_ID_LOGICAL, F.CORE_ID_FUSED, F.CORE_ID_BOUND, F.CORE_ID_PARTITION, F.CORE_ID_LEAF, F.CORE_ID_PANE, F.CORE_ID_CORE]
  | .CORE_STATUS => [F.CORE_STATUS_BEAT, F.CORE_STATUS_RUNNING, F.CORE_STATUS_FAULTED, F.CORE_STATUS_HOLD, F.CORE_STATUS_IDLE, F.CORE_STATUS_DISP_SHUT, F.CORE_STATUS_SHUTTERED]
  | .CORE_FAULT => [F.CORE_FAULT_SEQ, F.CORE_FAULT_OVERFLOW, F.CORE_FAULT_VALID, F.CORE_FAULT_ENGINE, F.CORE_FAULT_CODE]
  | .CORE_DRAIN => [F.CORE_DRAIN_LAST_SEQ, F.CORE_DRAIN_DISCARDED, F.CORE_DRAIN_DRAINED]
  | .CORE_CONFLICT => [F.CORE_CONFLICT_LOST_STEP, F.CORE_CONFLICT_LOST_BEAT]
  | .CORE_STBUF => [F.CORE_STBUF_OCC]
  | .DISP_STREAM_BASE => [F.DISP_STREAM_BASE_BASE]
  | .DISP_STREAM_LEN => [F.DISP_STREAM_LEN_COMMANDS]
  | .DISP_STATUS => [F.DISP_STATUS_FETCH_STALL, F.DISP_STATUS_FULL_STALL, F.DISP_STATUS_AHEAD, F.DISP_STATUS_BUF, F.DISP_STATUS_SEQ]
  | .DISP_QOCC => [F.DISP_QOCC_SEND, F.DISP_QOCC_STORE, F.DISP_QOCC_VECTOR, F.DISP_QOCC_MATRIX, F.DISP_QOCC_LOAD]
  | .CORE_AFLAGS => [F.CORE_AFLAGS_V_SA, F.CORE_AFLAGS_V_NX, F.CORE_AFLAGS_V_UF, F.CORE_AFLAGS_V_OF, F.CORE_AFLAGS_V_DZ, F.CORE_AFLAGS_V_NV, F.CORE_AFLAGS_M_SA, F.CORE_AFLAGS_M_NX, F.CORE_AFLAGS_M_UF, F.CORE_AFLAGS_M_OF, F.CORE_AFLAGS_M_NV]
  | .LATCH_VALUE => [F.LATCH_VALUE_VAL3, F.LATCH_VALUE_VAL2, F.LATCH_VALUE_VAL1, F.LATCH_VALUE_VAL0]
  | .LATCH_OVF => [F.LATCH_OVF_OVF]
  | .BEAT_WDOG => [F.BEAT_WDOG_LIMIT_US]
  | .BEAT_STATUS => [F.BEAT_STATUS_BEAT, F.BEAT_STATUS_WDOG_FIRED, F.BEAT_STATUS_FINAL_WAIT, F.BEAT_STATUS_HOLD, F.BEAT_STATUS_RUNNING]
  | .BEAT_HOLD => [F.BEAT_HOLD_HOLDS, F.BEAT_HOLD_HOLD_NS]
  | .BEAT_OPENED => [F.BEAT_OPENED_TB]
  | .LATCH_START => [F.LATCH_START_MARGIN_NS, F.LATCH_START_UNLOCKED, F.LATCH_START_LATE, F.LATCH_START_WAITING, F.LATCH_START_NO_CTX, F.LATCH_START_ARRIVE]
  | .LATCH_START_T => [F.LATCH_START_T_T]
  | .LATCH_TCTX => [F.LATCH_TCTX_GEN, F.LATCH_TCTX_OWNER, F.LATCH_TCTX_EN]
  | .LATCH_SCTX => [F.LATCH_SCTX_GEN, F.LATCH_SCTX_TREE, F.LATCH_SCTX_ROOT, F.LATCH_SCTX_OWNER, F.LATCH_SCTX_LEVELS, F.LATCH_SCTX_START, F.LATCH_SCTX_EN]
  | .LATCH_TMASK => [F.LATCH_TMASK_MASK]
  | .LATCH_SMASK => [F.LATCH_SMASK_MASK]
  | .LATCH_TSTAT => [F.LATCH_TSTAT_ERR_CORE, F.LATCH_TSTAT_ERR, F.LATCH_TSTAT_OVERFLOW, F.LATCH_TSTAT_ERR_VALID, F.LATCH_TSTAT_ARRIVED]
  | .LATCH_SSTAT => [F.LATCH_SSTAT_ERR_NODE, F.LATCH_SSTAT_ERR, F.LATCH_SSTAT_OVERFLOW, F.LATCH_SSTAT_ERR_VALID, F.LATCH_SSTAT_ARRIVED]
  | .DISP_PARAM => [F.DISP_PARAM_BASE, F.DISP_PARAM_PAGE]
  | .MEM_SALT => [F.MEM_SALT_SALT]
  | .MEM_CTRL => [F.MEM_CTRL_SCRUB_H, F.MEM_CTRL_SKEW_RATIO, F.MEM_CTRL_SKEW_EN]
  | .MEM_STATUS => [F.MEM_STATUS_HOT, F.MEM_STATUS_CELLAR_MAP]
  | .MEM_SKEW => [F.MEM_SKEW_WINDOWS, F.MEM_SKEW_CHANNEL, F.MEM_SKEW_PARTITION, F.MEM_SKEW_TIER, F.MEM_SKEW_RATIO_X16, F.MEM_SKEW_ADVISORY]
  | .MEM_ECC => [F.MEM_ECC_HBM_CE, F.MEM_ECC_CEL_CE]
  | .MEM_ERR => [F.MEM_ERR_CHANNEL, F.MEM_ERR_PARTITION, F.MEM_ERR_TIER, F.MEM_ERR_CAUSE, F.MEM_ERR_OVERFLOW, F.MEM_ERR_VALID]
  | .MEM_ERR_ADDR => [F.MEM_ERR_ADDR_ADDR]
  | .MEM_SCRUB => [F.MEM_SCRUB_PASSES, F.MEM_SCRUB_HELD]
  | .MEM_PHBM => [F.MEM_PHBM_EN, F.MEM_PHBM_LOG2C, F.MEM_PHBM_FIRST]
  | .MEM_PCEL => [F.MEM_PCEL_EN, F.MEM_PCEL_LOG2C, F.MEM_PCEL_FIRST]
  | .MEM_REFSTALL => [F.MEM_REFSTALL_NS]
  | .DMA_CTRL => [F.DMA_CTRL_TIMEOUT_US]
  | .DMA_POOL => [F.DMA_POOL_USED_KIB, F.DMA_POOL_FLOOR_KIB]
  | .DMA_ACTIVE => [F.DMA_ACTIVE_BUSY]
  | .DMA_CHCFG => [F.DMA_CHCFG_POOL_MAX_KIB, F.DMA_CHCFG_WEIGHT, F.DMA_CHCFG_OWNER, F.DMA_CHCFG_NODE_EN, F.DMA_CHCFG_BOARD_EN, F.DMA_CHCFG_HOST_EN, F.DMA_CHCFG_EN]
  | .DMA_RING => [F.DMA_RING_BASE, F.DMA_RING_LOG2N]
  | .DMA_TAIL => [F.DMA_TAIL_TAIL]
  | .DMA_HEAD => [F.DMA_HEAD_HEAD]
  | .DMA_CHSTAT => [F.DMA_CHSTAT_DONE, F.DMA_CHSTAT_BAD, F.DMA_CHSTAT_FETCH_ERR, F.DMA_CHSTAT_STOPPED, F.DMA_CHSTAT_WB_ERR, F.DMA_CHSTAT_BUSY]
  | .DMA_CHCTRL => [F.DMA_CHCTRL_RESUME, F.DMA_CHCTRL_STOP]
  | .PANE_FREQ => [F.PANE_FREQ_CHANGES, F.PANE_FREQ_EMERGS, F.PANE_FREQ_STATE, F.PANE_FREQ_EMERG, F.PANE_FREQ_PENDING, F.PANE_FREQ_REQ, F.PANE_FREQ_CUR]
  | .PANE_XLAT => [F.PANE_XLAT_IN_CALFAIL, F.PANE_XLAT_IN_DRIFT, F.PANE_XLAT_IN_PHASE, F.PANE_XLAT_IN_MARGIN, F.PANE_XLAT_IN_LAT, F.PANE_XLAT_OUT_CALFAIL, F.PANE_XLAT_OUT_DRIFT, F.PANE_XLAT_OUT_PHASE, F.PANE_XLAT_OUT_MARGIN, F.PANE_XLAT_OUT_LAT]
  | .PANE_HXLAT => [F.PANE_HXLAT_IN_CALFAIL, F.PANE_HXLAT_IN_DRIFT, F.PANE_HXLAT_IN_PHASE, F.PANE_HXLAT_IN_MARGIN, F.PANE_HXLAT_IN_LAT, F.PANE_HXLAT_OUT_CALFAIL, F.PANE_HXLAT_OUT_DRIFT, F.PANE_HXLAT_OUT_PHASE, F.PANE_HXLAT_OUT_MARGIN, F.PANE_HXLAT_OUT_LAT]
  | .PANE_SXLAT => [F.PANE_SXLAT_IN_CALFAIL, F.PANE_SXLAT_IN_DRIFT, F.PANE_SXLAT_IN_PHASE, F.PANE_SXLAT_IN_MARGIN, F.PANE_SXLAT_IN_LAT, F.PANE_SXLAT_OUT_CALFAIL, F.PANE_SXLAT_OUT_DRIFT, F.PANE_SXLAT_OUT_PHASE, F.PANE_SXLAT_OUT_MARGIN, F.PANE_SXLAT_OUT_LAT]
  | .PANE_STOP => [F.PANE_STOP_MAX_NS, F.PANE_STOP_LAST_NS]
  | .TIME_NOW => [F.TIME_NOW_NS]
  | .TIME_CTRL => [F.TIME_CTRL_PTP_DOMAIN, F.TIME_CTRL_BKPORT, F.TIME_CTRL_UPPORT, F.TIME_CTRL_PTP_EN, F.TIME_CTRL_MASTER]
  | .TIME_STATUS => [F.TIME_STATUS_MISSED, F.TIME_STATUS_DEPTH, F.TIME_STATUS_LEFT, F.TIME_STATUS_HOLDOVER, F.TIME_STATUS_ON_BACKUP, F.TIME_STATUS_PTP_LOCKED, F.TIME_STATUS_STEPPED, F.TIME_STATUS_LOCKED]
  | .TIME_OFFSET => [F.TIME_OFFSET_OFF]
  | .TIME_RATE => [F.TIME_RATE_PPB]
  | .TIME_STEP => [F.TIME_STEP_DELTA]
  | .TIME_WAKE => [F.TIME_WAKE_DRIFT_NS, F.TIME_WAKE_PORT, F.TIME_WAKE_OUTCOME, F.TIME_WAKE_VALID]
  | .TIME_PTP => [F.TIME_PTP_OFFSET_NS]
  | .PORT_CFG => [F.PORT_CFG_EXP_NODE, F.PORT_CFG_EXP_PORT, F.PORT_CFG_LENGTH_M, F.PORT_CFG_H_64K, F.PORT_CFG_MEDIUM, F.PORT_CFG_CLASS]
  | .PORT_CTRL => [F.PORT_CTRL_OFF, F.PORT_CTRL_SLEEP, F.PORT_CTRL_WAKE, F.PORT_CTRL_RETRAIN]
  | .PORT_STATUS => [F.PORT_STATUS_CAUSE, F.PORT_STATUS_VMAJOR, F.PORT_STATUS_VMINOR, F.PORT_STATUS_WIDTH, F.PORT_STATUS_SLEEP_REFUSED, F.PORT_STATUS_CDIGEST_BAD, F.PORT_STATUS_NEIGH_BAD, F.PORT_STATUS_STATE]
  | .PORT_NEIGH => [F.PORT_NEIGH_NODE, F.PORT_NEIGH_PORT, F.PORT_NEIGH_H_64K]
  | .PORT_PCDIG => [F.PORT_PCDIG_CDIGEST]
  | .PORT_LANES => [F.PORT_LANES_REVERSED, F.PORT_LANES_INVERTED, F.PORT_LANES_FAILED, F.PORT_LANES_LOCKED, F.PORT_LANES_PRECODE]
  | .PORT_FEC => [F.PORT_FEC_CORRECTED, F.PORT_FEC_UNCORR]
  | .PORT_TRAIN => [F.PORT_TRAIN_TRAINS, F.PORT_TRAIN_DEGRADES, F.PORT_TRAIN_BAD_FRAMES, F.PORT_TRAIN_LAST_NS]
  | .VCB_ALLOC => [F.VCB_ALLOC_TOTAL_KIB, F.VCB_ALLOC_COMMON_KIB]
  | .VCB_CAP => [F.VCB_CAP_CAP4_KIB, F.VCB_CAP_CAP3_KIB, F.VCB_CAP_CAP1_KIB, F.VCB_CAP_CAP0_KIB]
  | .VCB_OCC0 => [F.VCB_OCC0_VC3_KIB, F.VCB_OCC0_VC2_KIB, F.VCB_OCC0_VC1_KIB, F.VCB_OCC0_VC0_KIB]
  | .VCB_OCC1 => [F.VCB_OCC1_REPLAY_KIB, F.VCB_OCC1_VC5_KIB, F.VCB_OCC1_VC4_KIB]
  | .VCB_FLOW => [F.VCB_FLOW_OFF_EVENTS, F.VCB_FLOW_RX_OFF, F.VCB_FLOW_TX_OFF]
  | .VCB_TXSEQ => [F.VCB_TXSEQ_OLDEST, F.VCB_TXSEQ_NEXT_SEND]
  | .VCB_RXSEQ => [F.VCB_RXSEQ_LAST_ACK, F.VCB_RXSEQ_NEXT_EXP]
  | .VCB_REPLAY => [F.VCB_REPLAY_REPLAYS, F.VCB_REPLAY_NAKS_SENT, F.VCB_REPLAY_RUN]
  | .VCB_HOLD => [F.VCB_HOLD_DISCARDS, F.VCB_HOLD_HOLDING, F.VCB_HOLD_HOLD_US]
  | .VCB_ERR => [F.VCB_ERR_CRC_BAD, F.VCB_ERR_BAD_ACK, F.VCB_ERR_MALFORMED, F.VCB_ERR_PKT_DROPPED]
  | .VCB_POOL => [F.VCB_POOL_HIGH_KIB, F.VCB_POOL_USED_KIB, F.VCB_POOL_ALLOC_KIB]
  | .RTE_GRP => [F.RTE_GRP_VALID, F.RTE_GRP_OWNER, F.RTE_GRP_SET, F.RTE_GRP_KEY, F.RTE_GRP_PLANNED, F.RTE_GRP_DATELINE, F.RTE_GRP_NCAND, F.RTE_GRP_CAND3, F.RTE_GRP_CAND2, F.RTE_GRP_CAND1, F.RTE_GRP_CAND0, F.RTE_GRP_PTR]
  | .RTE_MBR => [F.RTE_MBR_VALID, F.RTE_MBR_OWNER, F.RTE_MBR_SET, F.RTE_MBR_KEY, F.RTE_MBR_PLANNED, F.RTE_MBR_DATELINE, F.RTE_MBR_NCAND, F.RTE_MBR_CAND3, F.RTE_MBR_CAND2, F.RTE_MBR_CAND1, F.RTE_MBR_CAND0, F.RTE_MBR_PTR]
  | .RTE_SELF => [F.RTE_SELF_SLOT, F.RTE_SELF_NODE]
  | .RTE_STATUS => [F.RTE_STATUS_MISSES, F.RTE_STATUS_FAN_REJECT, F.RTE_STATUS_REJECT]
  | .RTE_MISS => [F.RTE_MISS_NODE, F.RTE_MISS_PARTITION, F.RTE_MISS_TREE, F.RTE_MISS_FAN, F.RTE_MISS_VC, F.RTE_MISS_OVERFLOW, F.RTE_MISS_VALID]
  | .RTE_ADAPT => [F.RTE_ADAPT_PICKS]
  | .RTE_SLOT => [F.RTE_SLOT_VALID, F.RTE_SLOT_NODE]
  | .RTE_PSET => [F.RTE_PSET_SET]
  | .FAN_CFG => [F.FAN_CFG_VALID, F.FAN_CFG_OWNER, F.FAN_CFG_PARENT, F.FAN_CFG_LEVELS, F.FAN_CFG_PORTS]
  | .FAN_DL => [F.FAN_DL_DLMASK]
  | .FAN_CMASK => [F.FAN_CMASK_MASK]
  | .FAN_STATUS => [F.FAN_STATUS_COPIES, F.FAN_STATUS_BRANCH_STALLS]
  | .CTL_VAR => [F.CTL_VAR_COUNT]
  | .CTL_VARC => [F.CTL_VARC_COUNT]
  | .CTL_VARP => [F.CTL_VARP_COUNT]
  | .CTL_CDIG => [F.CTL_CDIG_DIGEST]
  | .CTL_PCDIG => [F.CTL_PCDIG_DIGEST]
  | .DMA_WLCTRL => [F.DMA_WLCTRL_REPAIR_MS, F.DMA_WLCTRL_STALL_US]
  | .DMA_WLSTAT => [F.DMA_WLSTAT_QP_ERRS, F.DMA_WLSTAT_BREAKS, F.DMA_WLSTAT_DIGEST_FAILS, F.DMA_WLSTAT_ACTIVE]
  | .DMA_WLBYTES => [F.DMA_WLBYTES_BYTES]
  | .DMA_WLNET => [F.DMA_WLNET_DROPPED, F.DMA_WLNET_CNP_SENT]
  | .RQT_PART => [F.RQT_PART_CUST_COUNT, F.RQT_PART_CUST_BASE, F.RQT_PART_ENT_COUNT, F.RQT_PART_ENT_BASE]
  | .RQT_SERVE => [F.RQT_SERVE_STEP, F.RQT_SERVE_CFG_ERR, F.RQT_SERVE_COMPOSER, F.RQT_SERVE_OPEN]
  | .RQT_PSTAT => [F.RQT_PSTAT_QUEUED, F.RQT_PSTAT_ACTIVE, F.RQT_PSTAT_PAUSED, F.RQT_PSTAT_SPILLED]
  | .RQT_PAGES => [F.RQT_PAGES_HBM_FREE, F.RQT_PAGES_CEL_FREE]
  | .RQT_STEP => [F.RQT_STEP_ACTUAL_NS, F.RQT_STEP_PRED_NS]
  | .RQT_COUNT => [F.RQT_COUNT_EVICTED, F.RQT_COUNT_CANCELLED, F.RQT_COUNT_BUCKET_DEFER, F.RQT_COUNT_RING_DEFER]
  | .RQT_PRIO => [F.RQT_PRIO_MISSES, F.RQT_PRIO_TARGET_US]
  | .SMP_STATUS => [F.SMP_STATUS_ROWS, F.SMP_STATUS_BUSY1, F.SMP_STATUS_BUSY0]
  | .SMP_ERR => [F.SMP_ERR_READ, F.SMP_ERR_BAD_SET, F.SMP_ERR_DEGENERATE, F.SMP_ERR_BAD_CAND]
  | .SMP_TIME => [F.SMP_TIME_LAST1_NS, F.SMP_TIME_LAST0_NS]
  | .SMP_PCAND => [F.SMP_PCAND_VALID, F.SMP_PCAND_BASE]
  | .SMP_PSHAPE => [F.SMP_PSHAPE_VOCAB, F.SMP_PSHAPE_SHARDS, F.SMP_PSHAPE_KM, F.SMP_PSHAPE_K]
  | .SMP_PSET => [F.SMP_PSET_COUNT, F.SMP_PSET_BASE]
  | .SMP_PHIST => [F.SMP_PHIST_BASE]
  | .SEC_STATUS => [F.SEC_STATUS_ACTIVE, F.SEC_STATUS_AO_LOSS, F.SEC_STATUS_KEYOP, F.SEC_STATUS_DRBG_FAIL, F.SEC_STATUS_TAMPERED]
  | .SEC_TAMPER => [F.SEC_TAMPER_COUNT, F.SEC_TAMPER_CAUSE, F.SEC_TAMPER_SENSOR, F.SEC_TAMPER_PHASE]
  | .SEC_TTIME => [F.SEC_TTIME_TB]
  | .SEC_TCLR => [F.SEC_TCLR_NONCE]
  | .SEC_DEBUG => [F.SEC_DEBUG_FAILS, F.SEC_DEBUG_LEVEL]
  | .SEC_DEVID => [F.SEC_DEVID_DIGEST]
  | .SEC_PCTL => [F.SEC_PCTL_ERR, F.SEC_PCTL_HMODE, F.SEC_PCTL_SESSION, F.SEC_PCTL_OPKEYS, F.SEC_PCTL_TEARDOWN, F.SEC_PCTL_CREATE, F.SEC_PCTL_STATE]
  | .SEC_PPANE => [F.SEC_PPANE_PANES]
  | .SEC_PPORT => [F.SEC_PPORT_PORTS]
  | .SEC_PRING => [F.SEC_PRING_POOL_MIB, F.SEC_PRING_COUNT, F.SEC_PRING_BASE]
  | .SEC_PKEYID => [F.SEC_PKEYID_KEYID]
  | .SEC_PBBSTAT => [F.SEC_PBBSTAT_RECORDS, F.SEC_PBBSTAT_TAG_FAIL, F.SEC_PBBSTAT_SEQ_FAIL]
  | .CTL_DOORBELL => [F.CTL_DOORBELL_CQ, F.CTL_DOORBELL_RING, F.CTL_DOORBELL_VALUE]
  | .CTL_STATUS => [F.CTL_STATUS_SVN, F.CTL_STATUS_DB_IGNORED, F.CTL_STATUS_UPDATING, F.CTL_STATUS_SLOT, F.CTL_STATUS_READY]
  | .CTL_FWLOAD => [F.CTL_FWLOAD_LEN, F.CTL_FWLOAD_GO]
  | .CTL_FWSTAT => [F.CTL_FWSTAT_MIN_SVN, F.CTL_FWSTAT_RESULT, F.CTL_FWSTAT_REFUSED]
  | .CTL_LOCKSTEP => [F.CTL_LOCKSTEP_RESETS, F.CTL_LOCKSTEP_DELAY_PARITY, F.CTL_LOCKSTEP_UNVERIFIED, F.CTL_LOCKSTEP_MISMATCH]
  | .CTL_PIN => [F.CTL_PIN_LOST, F.CTL_PIN_PINNED]
  | .CTL_LOG => [F.CTL_LOG_DROPPED, F.CTL_LOG_WRITTEN]
  | .CTL_PEEPDROP => [F.CTL_PEEPDROP_RING, F.CTL_PEEPDROP_QUEUE]
  | .CTL_UART => [F.CTL_UART_DIV, F.CTL_UART_RX_EN, F.CTL_UART_TX_EN]
  | .CTL_UARTSTAT => [F.CTL_UARTSTAT_FRAMING, F.CTL_UARTSTAT_OVERRUN, F.CTL_UARTSTAT_RXLEVEL, F.CTL_UARTSTAT_TXLEVEL]
  | .CTL_PEEPEN => [F.CTL_PEEPEN_EN3, F.CTL_PEEPEN_EN2, F.CTL_PEEPEN_EN1, F.CTL_PEEPEN_EN0]
  | .BOOT_STATUS => [F.BOOT_STATUS_REASON, F.BOOT_STATUS_CTR_RESET, F.BOOT_STATUS_CELLAR_POP, F.BOOT_STATUS_FALLBACK, F.BOOT_STATUS_PWRFAIL, F.BOOT_STATUS_COMPLETE, F.BOOT_STATUS_VESTIBULE, F.BOOT_STATUS_FAILED, F.BOOT_STATUS_STAGE]
  | .BOOT_CFGSEL => [F.BOOT_CFGSEL_SEQ, F.BOOT_CFGSEL_B_RESULT, F.BOOT_CFGSEL_A_RESULT, F.BOOT_CFGSEL_COPY]
  | .BOOT_ATTEMPT => [F.BOOT_ATTEMPT_REC_SEQ, F.BOOT_ATTEMPT_ATTEMPTS]
  | .BOOT_READY_TB => [F.BOOT_READY_TB_TB]
  | .CTL_ABORTCFG => [F.CTL_ABORTCFG_LINK_LIMIT_US, F.CTL_ABORTCFG_QUIET_US]
  | .CTL_MLOCK => [F.CTL_MLOCK_BUSY, F.CTL_MLOCK_QUEUED, F.CTL_MLOCK_ACTIVE]
  | .CTL_LSTEST => [F.CTL_LSTEST_TESTS, F.CTL_LSTEST_COMP_FAIL]
  | .CTL_ABORT => [F.CTL_ABORT_NODE, F.CTL_ABORT_CAUSE, F.CTL_ABORT_DETAIL, F.CTL_ABORT_COUNT, F.CTL_ABORT_QUIET, F.CTL_ABORT_LATE, F.CTL_ABORT_VALID]
  | .DMA_RSCFG => [F.DMA_RSCFG_EN, F.DMA_RSCFG_BASE, F.DMA_RSCFG_LOG2N]
  | .DMA_RSTAIL => [F.DMA_RSTAIL_INDEX]
  | .DMA_RSHEAD => [F.DMA_RSHEAD_INDEX]
  | .DMA_RSSTAT => [F.DMA_RSSTAT_DONE, F.DMA_RSSTAT_BAD, F.DMA_RSSTAT_FETCH_ERR, F.DMA_RSSTAT_BUSY]
  | .PWR_CTRL => [F.PWR_CTRL_STBY_EN, F.PWR_CTRL_IDLE_US]
  | .PWR_STATUS => [F.PWR_STATUS_REFUSALS, F.PWR_STATUS_REFUSE, F.PWR_STATUS_LIMIT_CLAMPED, F.PWR_STATUS_THERMTRIP, F.PWR_STATUS_PROCHOT, F.PWR_STATUS_STATE]
  | .PWR_LIMIT => [F.PWR_LIMIT_LIMIT_W]
  | .PWR_MEAS => [F.PWR_MEAS_PEAK_MW, F.PWR_MEAS_AVG_MW]
  | .PWR_EMERG => [F.PWR_EMERG_PROCHOT, F.PWR_EMERG_THERMAL, F.PWR_EMERG_OVERCURRENT, F.PWR_EMERG_DROOP]
  | .PWR_TEMP0 => [F.PWR_TEMP0_JAMB_W, F.PWR_TEMP0_JAMB_E, F.PWR_TEMP0_LEAF_B, F.PWR_TEMP0_LEAF_A]
  | .PWR_TEMP1 => [F.PWR_TEMP1_STACK]
  | .PWR_RAIL => [F.PWR_RAIL_OUT5, F.PWR_RAIL_CURR_DA, F.PWR_RAIL_VOLT_MV]
  | .PORT_XLAT => [F.PORT_XLAT_IN_CALFAIL, F.PORT_XLAT_IN_DRIFT, F.PORT_XLAT_IN_PHASE, F.PORT_XLAT_IN_MARGIN, F.PORT_XLAT_IN_LAT, F.PORT_XLAT_OUT_CALFAIL, F.PORT_XLAT_OUT_DRIFT, F.PORT_XLAT_OUT_PHASE, F.PORT_XLAT_OUT_MARGIN, F.PORT_XLAT_OUT_LAT]
  | .CTL_FEAT0 => [F.CTL_FEAT0_NODE_BITS, F.CTL_FEAT0_PARTS, F.CTL_FEAT0_REV, F.CTL_FEAT0_GRADE, F.CTL_FEAT0_CORES, F.CTL_FEAT0_LEVEL]
  | .CTL_FEAT1 => [F.CTL_FEAT1_ACC_ROWS, F.CTL_FEAT1_QDEPTH, F.CTL_FEAT1_LATCHES, F.CTL_FEAT1_PARAMS, F.CTL_FEAT1_PREDS, F.CTL_FEAT1_SPAD_KIB]
  | .CTL_FEAT2 => [F.CTL_FEAT2_TREES, F.CTL_FEAT2_RTE_GROUP, F.CTL_FEAT2_RTE_MEMBER, F.CTL_FEAT2_PORTS, F.CTL_FEAT2_SCTX, F.CTL_FEAT2_TCTX]
  | .CTL_FEAT3 => [F.CTL_FEAT3_PANE_FUSED, F.CTL_FEAT3_CELLAR_CH, F.CTL_FEAT3_HBM_STACKS, F.CTL_FEAT3_HBM_CH]
  | .CTL_FEAT4 => [F.CTL_FEAT4_RINGS, F.CTL_FEAT4_CELLAR_GIB, F.CTL_FEAT4_HBM_GB]

/-- The number a register is stored under. -/
def Reg.code : Reg → Nat
  | .CORE_ID => 0
  | .CORE_STATUS => 1
  | .CORE_FAULT => 2
  | .CORE_DRAIN => 3
  | .CORE_CONFLICT => 4
  | .CORE_STBUF => 5
  | .DISP_STREAM_BASE => 6
  | .DISP_STREAM_LEN => 7
  | .DISP_STATUS => 8
  | .DISP_QOCC => 9
  | .CORE_AFLAGS => 10
  | .LATCH_VALUE => 11
  | .LATCH_OVF => 12
  | .BEAT_WDOG => 13
  | .BEAT_STATUS => 14
  | .BEAT_HOLD => 15
  | .BEAT_OPENED => 16
  | .LATCH_START => 17
  | .LATCH_START_T => 18
  | .LATCH_TCTX => 19
  | .LATCH_SCTX => 20
  | .LATCH_TMASK => 21
  | .LATCH_SMASK => 22
  | .LATCH_TSTAT => 23
  | .LATCH_SSTAT => 24
  | .DISP_PARAM => 25
  | .MEM_SALT => 26
  | .MEM_CTRL => 27
  | .MEM_STATUS => 28
  | .MEM_SKEW => 29
  | .MEM_ECC => 30
  | .MEM_ERR => 31
  | .MEM_ERR_ADDR => 32
  | .MEM_SCRUB => 33
  | .MEM_PHBM => 34
  | .MEM_PCEL => 35
  | .MEM_REFSTALL => 36
  | .DMA_CTRL => 37
  | .DMA_POOL => 38
  | .DMA_ACTIVE => 39
  | .DMA_CHCFG => 40
  | .DMA_RING => 41
  | .DMA_TAIL => 42
  | .DMA_HEAD => 43
  | .DMA_CHSTAT => 44
  | .DMA_CHCTRL => 45
  | .PANE_FREQ => 46
  | .PANE_XLAT => 47
  | .PANE_HXLAT => 48
  | .PANE_SXLAT => 49
  | .PANE_STOP => 50
  | .TIME_NOW => 51
  | .TIME_CTRL => 52
  | .TIME_STATUS => 53
  | .TIME_OFFSET => 54
  | .TIME_RATE => 55
  | .TIME_STEP => 56
  | .TIME_WAKE => 57
  | .TIME_PTP => 58
  | .PORT_CFG => 59
  | .PORT_CTRL => 60
  | .PORT_STATUS => 61
  | .PORT_NEIGH => 62
  | .PORT_PCDIG => 63
  | .PORT_LANES => 64
  | .PORT_FEC => 65
  | .PORT_TRAIN => 66
  | .VCB_ALLOC => 67
  | .VCB_CAP => 68
  | .VCB_OCC0 => 69
  | .VCB_OCC1 => 70
  | .VCB_FLOW => 71
  | .VCB_TXSEQ => 72
  | .VCB_RXSEQ => 73
  | .VCB_REPLAY => 74
  | .VCB_HOLD => 75
  | .VCB_ERR => 76
  | .VCB_POOL => 77
  | .RTE_GRP => 78
  | .RTE_MBR => 79
  | .RTE_SELF => 80
  | .RTE_STATUS => 81
  | .RTE_MISS => 82
  | .RTE_ADAPT => 83
  | .RTE_SLOT => 84
  | .RTE_PSET => 85
  | .FAN_CFG => 86
  | .FAN_DL => 87
  | .FAN_CMASK => 88
  | .FAN_STATUS => 89
  | .CTL_VAR => 90
  | .CTL_VARC => 91
  | .CTL_VARP => 92
  | .CTL_CDIG => 93
  | .CTL_PCDIG => 94
  | .DMA_WLCTRL => 95
  | .DMA_WLSTAT => 96
  | .DMA_WLBYTES => 97
  | .DMA_WLNET => 98
  | .RQT_PART => 99
  | .RQT_SERVE => 100
  | .RQT_PSTAT => 101
  | .RQT_PAGES => 102
  | .RQT_STEP => 103
  | .RQT_COUNT => 104
  | .RQT_PRIO => 105
  | .SMP_STATUS => 106
  | .SMP_ERR => 107
  | .SMP_TIME => 108
  | .SMP_PCAND => 109
  | .SMP_PSHAPE => 110
  | .SMP_PSET => 111
  | .SMP_PHIST => 112
  | .SEC_STATUS => 113
  | .SEC_TAMPER => 114
  | .SEC_TTIME => 115
  | .SEC_TCLR => 116
  | .SEC_DEBUG => 117
  | .SEC_DEVID => 118
  | .SEC_PCTL => 119
  | .SEC_PPANE => 120
  | .SEC_PPORT => 121
  | .SEC_PRING => 122
  | .SEC_PKEYID => 123
  | .SEC_PBBSTAT => 124
  | .CTL_DOORBELL => 125
  | .CTL_STATUS => 126
  | .CTL_FWLOAD => 127
  | .CTL_FWSTAT => 128
  | .CTL_LOCKSTEP => 129
  | .CTL_PIN => 130
  | .CTL_LOG => 131
  | .CTL_PEEPDROP => 132
  | .CTL_UART => 133
  | .CTL_UARTSTAT => 134
  | .CTL_PEEPEN => 135
  | .BOOT_STATUS => 136
  | .BOOT_CFGSEL => 137
  | .BOOT_ATTEMPT => 138
  | .BOOT_READY_TB => 139
  | .CTL_ABORTCFG => 140
  | .CTL_MLOCK => 141
  | .CTL_LSTEST => 142
  | .CTL_ABORT => 143
  | .DMA_RSCFG => 144
  | .DMA_RSTAIL => 145
  | .DMA_RSHEAD => 146
  | .DMA_RSSTAT => 147
  | .PWR_CTRL => 148
  | .PWR_STATUS => 149
  | .PWR_LIMIT => 150
  | .PWR_MEAS => 151
  | .PWR_EMERG => 152
  | .PWR_TEMP0 => 153
  | .PWR_TEMP1 => 154
  | .PWR_RAIL => 155
  | .PORT_XLAT => 156
  | .CTL_FEAT0 => 157
  | .CTL_FEAT1 => 158
  | .CTL_FEAT2 => 159
  | .CTL_FEAT3 => 160
  | .CTL_FEAT4 => 161

/-- The register of a number. -/
def Reg.ofCode : Nat → Reg
  | 0 => .CORE_ID
  | 1 => .CORE_STATUS
  | 2 => .CORE_FAULT
  | 3 => .CORE_DRAIN
  | 4 => .CORE_CONFLICT
  | 5 => .CORE_STBUF
  | 6 => .DISP_STREAM_BASE
  | 7 => .DISP_STREAM_LEN
  | 8 => .DISP_STATUS
  | 9 => .DISP_QOCC
  | 10 => .CORE_AFLAGS
  | 11 => .LATCH_VALUE
  | 12 => .LATCH_OVF
  | 13 => .BEAT_WDOG
  | 14 => .BEAT_STATUS
  | 15 => .BEAT_HOLD
  | 16 => .BEAT_OPENED
  | 17 => .LATCH_START
  | 18 => .LATCH_START_T
  | 19 => .LATCH_TCTX
  | 20 => .LATCH_SCTX
  | 21 => .LATCH_TMASK
  | 22 => .LATCH_SMASK
  | 23 => .LATCH_TSTAT
  | 24 => .LATCH_SSTAT
  | 25 => .DISP_PARAM
  | 26 => .MEM_SALT
  | 27 => .MEM_CTRL
  | 28 => .MEM_STATUS
  | 29 => .MEM_SKEW
  | 30 => .MEM_ECC
  | 31 => .MEM_ERR
  | 32 => .MEM_ERR_ADDR
  | 33 => .MEM_SCRUB
  | 34 => .MEM_PHBM
  | 35 => .MEM_PCEL
  | 36 => .MEM_REFSTALL
  | 37 => .DMA_CTRL
  | 38 => .DMA_POOL
  | 39 => .DMA_ACTIVE
  | 40 => .DMA_CHCFG
  | 41 => .DMA_RING
  | 42 => .DMA_TAIL
  | 43 => .DMA_HEAD
  | 44 => .DMA_CHSTAT
  | 45 => .DMA_CHCTRL
  | 46 => .PANE_FREQ
  | 47 => .PANE_XLAT
  | 48 => .PANE_HXLAT
  | 49 => .PANE_SXLAT
  | 50 => .PANE_STOP
  | 51 => .TIME_NOW
  | 52 => .TIME_CTRL
  | 53 => .TIME_STATUS
  | 54 => .TIME_OFFSET
  | 55 => .TIME_RATE
  | 56 => .TIME_STEP
  | 57 => .TIME_WAKE
  | 58 => .TIME_PTP
  | 59 => .PORT_CFG
  | 60 => .PORT_CTRL
  | 61 => .PORT_STATUS
  | 62 => .PORT_NEIGH
  | 63 => .PORT_PCDIG
  | 64 => .PORT_LANES
  | 65 => .PORT_FEC
  | 66 => .PORT_TRAIN
  | 67 => .VCB_ALLOC
  | 68 => .VCB_CAP
  | 69 => .VCB_OCC0
  | 70 => .VCB_OCC1
  | 71 => .VCB_FLOW
  | 72 => .VCB_TXSEQ
  | 73 => .VCB_RXSEQ
  | 74 => .VCB_REPLAY
  | 75 => .VCB_HOLD
  | 76 => .VCB_ERR
  | 77 => .VCB_POOL
  | 78 => .RTE_GRP
  | 79 => .RTE_MBR
  | 80 => .RTE_SELF
  | 81 => .RTE_STATUS
  | 82 => .RTE_MISS
  | 83 => .RTE_ADAPT
  | 84 => .RTE_SLOT
  | 85 => .RTE_PSET
  | 86 => .FAN_CFG
  | 87 => .FAN_DL
  | 88 => .FAN_CMASK
  | 89 => .FAN_STATUS
  | 90 => .CTL_VAR
  | 91 => .CTL_VARC
  | 92 => .CTL_VARP
  | 93 => .CTL_CDIG
  | 94 => .CTL_PCDIG
  | 95 => .DMA_WLCTRL
  | 96 => .DMA_WLSTAT
  | 97 => .DMA_WLBYTES
  | 98 => .DMA_WLNET
  | 99 => .RQT_PART
  | 100 => .RQT_SERVE
  | 101 => .RQT_PSTAT
  | 102 => .RQT_PAGES
  | 103 => .RQT_STEP
  | 104 => .RQT_COUNT
  | 105 => .RQT_PRIO
  | 106 => .SMP_STATUS
  | 107 => .SMP_ERR
  | 108 => .SMP_TIME
  | 109 => .SMP_PCAND
  | 110 => .SMP_PSHAPE
  | 111 => .SMP_PSET
  | 112 => .SMP_PHIST
  | 113 => .SEC_STATUS
  | 114 => .SEC_TAMPER
  | 115 => .SEC_TTIME
  | 116 => .SEC_TCLR
  | 117 => .SEC_DEBUG
  | 118 => .SEC_DEVID
  | 119 => .SEC_PCTL
  | 120 => .SEC_PPANE
  | 121 => .SEC_PPORT
  | 122 => .SEC_PRING
  | 123 => .SEC_PKEYID
  | 124 => .SEC_PBBSTAT
  | 125 => .CTL_DOORBELL
  | 126 => .CTL_STATUS
  | 127 => .CTL_FWLOAD
  | 128 => .CTL_FWSTAT
  | 129 => .CTL_LOCKSTEP
  | 130 => .CTL_PIN
  | 131 => .CTL_LOG
  | 132 => .CTL_PEEPDROP
  | 133 => .CTL_UART
  | 134 => .CTL_UARTSTAT
  | 135 => .CTL_PEEPEN
  | 136 => .BOOT_STATUS
  | 137 => .BOOT_CFGSEL
  | 138 => .BOOT_ATTEMPT
  | 139 => .BOOT_READY_TB
  | 140 => .CTL_ABORTCFG
  | 141 => .CTL_MLOCK
  | 142 => .CTL_LSTEST
  | 143 => .CTL_ABORT
  | 144 => .DMA_RSCFG
  | 145 => .DMA_RSTAIL
  | 146 => .DMA_RSHEAD
  | 147 => .DMA_RSSTAT
  | 148 => .PWR_CTRL
  | 149 => .PWR_STATUS
  | 150 => .PWR_LIMIT
  | 151 => .PWR_MEAS
  | 152 => .PWR_EMERG
  | 153 => .PWR_TEMP0
  | 154 => .PWR_TEMP1
  | 155 => .PWR_RAIL
  | 156 => .PORT_XLAT
  | 157 => .CTL_FEAT0
  | 158 => .CTL_FEAT1
  | 159 => .CTL_FEAT2
  | 160 => .CTL_FEAT3
  | _ => .CTL_FEAT4

/-- Where the registers lie: base address, outer count and stride, inner count and stride
(R46, R150, R161, R188, R204, R224, R225, R244, R265, R283, R299, R314, R329, R340, R363, R378, R391, R414, R432).
CTL_DOORBELL has no local address: it is reached only from PCIe (R378). -/
structure RegPlace where
  reg : Reg
  base : Nat
  count : Nat
  stride : Nat
  inner : Nat
  istride : Nat
deriving DecidableEq, Repr

/-- The register map. -/
def regMap0 : List RegPlace :=
  [⟨.CORE_ID, 0xFF0001000000, 256, 0x1000, 1, 0x0⟩,
   ⟨.CORE_STATUS, 0xFF0001000008, 256, 0x1000, 1, 0x0⟩,
   ⟨.CORE_FAULT, 0xFF0001000010, 256, 0x1000, 1, 0x0⟩,
   ⟨.CORE_DRAIN, 0xFF0001000018, 256, 0x1000, 1, 0x0⟩,
   ⟨.CORE_CONFLICT, 0xFF0001000020, 256, 0x1000, 1, 0x0⟩,
   ⟨.CORE_STBUF, 0xFF0001000028, 256, 0x1000, 1, 0x0⟩,
   ⟨.DISP_STREAM_BASE, 0xFF0001000040, 256, 0x1000, 1, 0x0⟩,
   ⟨.DISP_STREAM_LEN, 0xFF0001000048, 256, 0x1000, 1, 0x0⟩,
   ⟨.DISP_STATUS, 0xFF0001000050, 256, 0x1000, 1, 0x0⟩,
   ⟨.DISP_QOCC, 0xFF0001000058, 256, 0x1000, 1, 0x0⟩,
   ⟨.CORE_AFLAGS, 0xFF0001000060, 256, 0x1000, 1, 0x0⟩,
   ⟨.LATCH_VALUE, 0xFF0001000100, 256, 0x1000, 12, 0x8⟩,
   ⟨.LATCH_OVF, 0xFF0001000160, 256, 0x1000, 1, 0x0⟩,
   ⟨.BEAT_WDOG, 0xFF0000800000, 16, 0x40, 1, 0x0⟩,
   ⟨.BEAT_STATUS, 0xFF0000800008, 16, 0x40, 1, 0x0⟩,
   ⟨.BEAT_HOLD, 0xFF0000800010, 16, 0x40, 1, 0x0⟩,
   ⟨.BEAT_OPENED, 0xFF0000800018, 16, 0x40, 1, 0x0⟩,
   ⟨.LATCH_START, 0xFF0000800020, 16, 0x40, 1, 0x0⟩,
   ⟨.LATCH_START_T, 0xFF0000800028, 16, 0x40, 1, 0x0⟩,
   ⟨.LATCH_TCTX, 0xFF0000800400, 8, 0x40, 1, 0x0⟩,
   ⟨.LATCH_SCTX, 0xFF0000800800, 32, 0x40, 1, 0x0⟩,
   ⟨.LATCH_TMASK, 0xFF0000800408, 8, 0x40, 4, 0x8⟩,
   ⟨.LATCH_SMASK, 0xFF0000800808, 32, 0x40, 4, 0x8⟩,
   ⟨.LATCH_TSTAT, 0xFF0000800428, 8, 0x40, 1, 0x0⟩]

def regMap1 : List RegPlace :=
  [⟨.LATCH_SSTAT, 0xFF0000800828, 32, 0x40, 1, 0x0⟩,
   ⟨.DISP_PARAM, 0xFF0001000068, 256, 0x1000, 1, 0x0⟩,
   ⟨.MEM_SALT, 0xFF0003000000, 1, 0x0, 1, 0x0⟩,
   ⟨.MEM_CTRL, 0xFF0003000008, 1, 0x0, 1, 0x0⟩,
   ⟨.MEM_STATUS, 0xFF0003000010, 1, 0x0, 1, 0x0⟩,
   ⟨.MEM_SKEW, 0xFF0003000018, 1, 0x0, 1, 0x0⟩,
   ⟨.MEM_ECC, 0xFF0003000020, 1, 0x0, 1, 0x0⟩,
   ⟨.MEM_ERR, 0xFF0003000028, 1, 0x0, 1, 0x0⟩,
   ⟨.MEM_ERR_ADDR, 0xFF0003000030, 1, 0x0, 1, 0x0⟩,
   ⟨.MEM_SCRUB, 0xFF0003000038, 1, 0x0, 1, 0x0⟩,
   ⟨.MEM_PHBM, 0xFF0003000100, 16, 0x10, 1, 0x0⟩,
   ⟨.MEM_PCEL, 0xFF0003000108, 16, 0x10, 1, 0x0⟩,
   ⟨.MEM_REFSTALL, 0xFF0003000200, 16, 0x8, 1, 0x0⟩,
   ⟨.DMA_CTRL, 0xFF0004000000, 2, 0x100000, 1, 0x0⟩,
   ⟨.DMA_POOL, 0xFF0004000008, 2, 0x100000, 1, 0x0⟩,
   ⟨.DMA_ACTIVE, 0xFF0004000010, 2, 0x100000, 1, 0x0⟩,
   ⟨.DMA_CHCFG, 0xFF0004001000, 2, 0x100000, 32, 0x1000⟩,
   ⟨.DMA_RING, 0xFF0004001008, 2, 0x100000, 32, 0x1000⟩,
   ⟨.DMA_TAIL, 0xFF0004001010, 2, 0x100000, 32, 0x1000⟩,
   ⟨.DMA_HEAD, 0xFF0004001018, 2, 0x100000, 32, 0x1000⟩,
   ⟨.DMA_CHSTAT, 0xFF0004001020, 2, 0x100000, 32, 0x1000⟩,
   ⟨.DMA_CHCTRL, 0xFF0004001028, 2, 0x100000, 32, 0x1000⟩,
   ⟨.PANE_FREQ, 0xFF0002000000, 32, 0x40, 1, 0x0⟩,
   ⟨.PANE_XLAT, 0xFF0002000008, 32, 0x40, 1, 0x0⟩]

def regMap2 : List RegPlace :=
  [⟨.PANE_HXLAT, 0xFF0002001000, 6, 0x8, 1, 0x0⟩,
   ⟨.PANE_SXLAT, 0xFF0002001100, 8, 0x8, 1, 0x0⟩,
   ⟨.PANE_STOP, 0xFF0002000010, 32, 0x40, 1, 0x0⟩,
   ⟨.TIME_NOW, 0xFF0002800000, 1, 0x0, 1, 0x0⟩,
   ⟨.TIME_CTRL, 0xFF0002800008, 1, 0x0, 1, 0x0⟩,
   ⟨.TIME_STATUS, 0xFF0002800010, 1, 0x0, 1, 0x0⟩,
   ⟨.TIME_OFFSET, 0xFF0002800018, 1, 0x0, 1, 0x0⟩,
   ⟨.TIME_RATE, 0xFF0002800020, 1, 0x0, 1, 0x0⟩,
   ⟨.TIME_STEP, 0xFF0002800028, 1, 0x0, 1, 0x0⟩,
   ⟨.TIME_WAKE, 0xFF0002800030, 1, 0x0, 1, 0x0⟩,
   ⟨.TIME_PTP, 0xFF0002800038, 1, 0x0, 1, 0x0⟩,
   ⟨.PORT_CFG, 0xFF0005000000, 36, 0x1000, 1, 0x0⟩,
   ⟨.PORT_CTRL, 0xFF0005000008, 36, 0x1000, 1, 0x0⟩,
   ⟨.PORT_STATUS, 0xFF0005000010, 36, 0x1000, 1, 0x0⟩,
   ⟨.PORT_NEIGH, 0xFF0005000018, 36, 0x1000, 1, 0x0⟩,
   ⟨.PORT_PCDIG, 0xFF0005000020, 36, 0x1000, 1, 0x0⟩,
   ⟨.PORT_LANES, 0xFF0005000028, 36, 0x1000, 1, 0x0⟩,
   ⟨.PORT_FEC, 0xFF0005000030, 36, 0x1000, 1, 0x0⟩,
   ⟨.PORT_TRAIN, 0xFF0005000038, 36, 0x1000, 1, 0x0⟩,
   ⟨.VCB_ALLOC, 0xFF0006000000, 36, 0x1000, 1, 0x0⟩,
   ⟨.VCB_CAP, 0xFF0006000008, 36, 0x1000, 1, 0x0⟩,
   ⟨.VCB_OCC0, 0xFF0006000010, 36, 0x1000, 1, 0x0⟩,
   ⟨.VCB_OCC1, 0xFF0006000018, 36, 0x1000, 1, 0x0⟩,
   ⟨.VCB_FLOW, 0xFF0006000020, 36, 0x1000, 1, 0x0⟩]

def regMap3 : List RegPlace :=
  [⟨.VCB_TXSEQ, 0xFF0006000028, 36, 0x1000, 1, 0x0⟩,
   ⟨.VCB_RXSEQ, 0xFF0006000030, 36, 0x1000, 1, 0x0⟩,
   ⟨.VCB_REPLAY, 0xFF0006000038, 36, 0x1000, 1, 0x0⟩,
   ⟨.VCB_HOLD, 0xFF0006000040, 36, 0x1000, 1, 0x0⟩,
   ⟨.VCB_ERR, 0xFF0006000048, 36, 0x1000, 1, 0x0⟩,
   ⟨.VCB_POOL, 0xFF0006400000, 2, 0x1000, 1, 0x0⟩,
   ⟨.RTE_GRP, 0xFF0007010000, 4096, 0x8, 1, 0x0⟩,
   ⟨.RTE_MBR, 0xFF0007020000, 128, 0x8, 1, 0x0⟩,
   ⟨.RTE_SELF, 0xFF0007000000, 1, 0x0, 1, 0x0⟩,
   ⟨.RTE_STATUS, 0xFF0007000008, 1, 0x0, 1, 0x0⟩,
   ⟨.RTE_MISS, 0xFF0007000010, 1, 0x0, 1, 0x0⟩,
   ⟨.RTE_ADAPT, 0xFF0007000018, 1, 0x0, 1, 0x0⟩,
   ⟨.RTE_SLOT, 0xFF0007000080, 16, 0x8, 1, 0x0⟩,
   ⟨.RTE_PSET, 0xFF0007000100, 16, 0x8, 1, 0x0⟩,
   ⟨.FAN_CFG, 0xFF0007800000, 4096, 0x40, 1, 0x0⟩,
   ⟨.FAN_DL, 0xFF0007800008, 4096, 0x40, 1, 0x0⟩,
   ⟨.FAN_CMASK, 0xFF0007800010, 4096, 0x40, 4, 0x8⟩,
   ⟨.FAN_STATUS, 0xFF0007840000, 1, 0x0, 1, 0x0⟩,
   ⟨.CTL_VAR, 0xFF0000000180, 1, 0x0, 1, 0x0⟩,
   ⟨.CTL_VARC, 0xFF0000000188, 12, 0x8, 1, 0x0⟩,
   ⟨.CTL_VARP, 0xFF0000000200, 16, 0x8, 1, 0x0⟩,
   ⟨.CTL_CDIG, 0xFF0000000280, 1, 0x0, 1, 0x0⟩,
   ⟨.CTL_PCDIG, 0xFF0000000300, 16, 0x8, 1, 0x0⟩,
   ⟨.DMA_WLCTRL, 0xFF0004080000, 2, 0x100000, 1, 0x0⟩]

def regMap4 : List RegPlace :=
  [⟨.DMA_WLSTAT, 0xFF0004080008, 2, 0x100000, 1, 0x0⟩,
   ⟨.DMA_WLBYTES, 0xFF0004080010, 2, 0x100000, 1, 0x0⟩,
   ⟨.DMA_WLNET, 0xFF0004080018, 2, 0x100000, 1, 0x0⟩,
   ⟨.RQT_PART, 0xFF0008000000, 16, 0x40, 1, 0x0⟩,
   ⟨.RQT_SERVE, 0xFF0008000008, 16, 0x40, 1, 0x0⟩,
   ⟨.RQT_PSTAT, 0xFF0008000010, 16, 0x40, 1, 0x0⟩,
   ⟨.RQT_PAGES, 0xFF0008000018, 16, 0x40, 1, 0x0⟩,
   ⟨.RQT_STEP, 0xFF0008000020, 16, 0x40, 1, 0x0⟩,
   ⟨.RQT_COUNT, 0xFF0008000028, 16, 0x40, 1, 0x0⟩,
   ⟨.RQT_PRIO, 0xFF0008000400, 16, 0x20, 4, 0x8⟩,
   ⟨.SMP_STATUS, 0xFF0009000000, 1, 0x0, 1, 0x0⟩,
   ⟨.SMP_ERR, 0xFF0009000008, 1, 0x0, 1, 0x0⟩,
   ⟨.SMP_TIME, 0xFF0009000010, 1, 0x0, 1, 0x0⟩,
   ⟨.SMP_PCAND, 0xFF0009000100, 16, 0x20, 1, 0x0⟩,
   ⟨.SMP_PSHAPE, 0xFF0009000108, 16, 0x20, 1, 0x0⟩,
   ⟨.SMP_PSET, 0xFF0009000110, 16, 0x20, 1, 0x0⟩,
   ⟨.SMP_PHIST, 0xFF0009000118, 16, 0x20, 1, 0x0⟩,
   ⟨.SEC_STATUS, 0xFF000A000000, 1, 0x0, 1, 0x0⟩,
   ⟨.SEC_TAMPER, 0xFF000A000008, 1, 0x0, 1, 0x0⟩,
   ⟨.SEC_TTIME, 0xFF000A000010, 1, 0x0, 1, 0x0⟩,
   ⟨.SEC_TCLR, 0xFF000A000018, 1, 0x0, 1, 0x0⟩,
   ⟨.SEC_DEBUG, 0xFF000A000020, 1, 0x0, 1, 0x0⟩,
   ⟨.SEC_DEVID, 0xFF000A000028, 1, 0x0, 1, 0x0⟩,
   ⟨.SEC_PCTL, 0xFF000A000100, 16, 0x40, 1, 0x0⟩]

def regMap5 : List RegPlace :=
  [⟨.SEC_PPANE, 0xFF000A000108, 16, 0x40, 1, 0x0⟩,
   ⟨.SEC_PPORT, 0xFF000A000110, 16, 0x40, 1, 0x0⟩,
   ⟨.SEC_PRING, 0xFF000A000118, 16, 0x40, 1, 0x0⟩,
   ⟨.SEC_PKEYID, 0xFF000A000120, 16, 0x40, 1, 0x0⟩,
   ⟨.SEC_PBBSTAT, 0xFF000A000128, 16, 0x40, 1, 0x0⟩,
   ⟨.CTL_STATUS, 0xFF0000000000, 1, 0x0, 1, 0x0⟩,
   ⟨.CTL_FWLOAD, 0xFF0000000008, 1, 0x0, 1, 0x0⟩,
   ⟨.CTL_FWSTAT, 0xFF0000000010, 1, 0x0, 1, 0x0⟩,
   ⟨.CTL_LOCKSTEP, 0xFF0000000018, 1, 0x0, 1, 0x0⟩,
   ⟨.CTL_PIN, 0xFF0000000020, 1, 0x0, 1, 0x0⟩,
   ⟨.CTL_LOG, 0xFF0000000028, 1, 0x0, 1, 0x0⟩,
   ⟨.CTL_PEEPDROP, 0xFF0000000030, 1, 0x0, 1, 0x0⟩,
   ⟨.CTL_UART, 0xFF0000000038, 1, 0x0, 1, 0x0⟩,
   ⟨.CTL_UARTSTAT, 0xFF0000000040, 1, 0x0, 1, 0x0⟩,
   ⟨.CTL_PEEPEN, 0xFF0000000400, 256, 0x8, 1, 0x0⟩,
   ⟨.BOOT_STATUS, 0xFF0000000C00, 1, 0x0, 1, 0x0⟩,
   ⟨.BOOT_CFGSEL, 0xFF0000000C08, 1, 0x0, 1, 0x0⟩,
   ⟨.BOOT_ATTEMPT, 0xFF0000000C10, 1, 0x0, 1, 0x0⟩,
   ⟨.BOOT_READY_TB, 0xFF0000000C18, 1, 0x0, 1, 0x0⟩,
   ⟨.CTL_ABORTCFG, 0xFF0000000D00, 1, 0x0, 1, 0x0⟩,
   ⟨.CTL_MLOCK, 0xFF0000000D08, 1, 0x0, 1, 0x0⟩,
   ⟨.CTL_LSTEST, 0xFF0000000D10, 1, 0x0, 1, 0x0⟩,
   ⟨.CTL_ABORT, 0xFF0000000D40, 16, 0x8, 1, 0x0⟩,
   ⟨.DMA_RSCFG, 0xFF0004021000, 2, 0x100000, 16, 0x1000⟩]

def regMap6 : List RegPlace :=
  [⟨.DMA_RSTAIL, 0xFF0004021008, 2, 0x100000, 16, 0x1000⟩,
   ⟨.DMA_RSHEAD, 0xFF0004021010, 2, 0x100000, 16, 0x1000⟩,
   ⟨.DMA_RSSTAT, 0xFF0004021018, 2, 0x100000, 16, 0x1000⟩,
   ⟨.PWR_CTRL, 0xFF000B000000, 1, 0x0, 1, 0x0⟩,
   ⟨.PWR_STATUS, 0xFF000B000008, 1, 0x0, 1, 0x0⟩,
   ⟨.PWR_LIMIT, 0xFF000B000010, 1, 0x0, 1, 0x0⟩,
   ⟨.PWR_MEAS, 0xFF000B000018, 1, 0x0, 1, 0x0⟩,
   ⟨.PWR_EMERG, 0xFF000B000020, 1, 0x0, 1, 0x0⟩,
   ⟨.PWR_TEMP0, 0xFF000B000028, 1, 0x0, 1, 0x0⟩,
   ⟨.PWR_TEMP1, 0xFF000B000030, 1, 0x0, 1, 0x0⟩,
   ⟨.PWR_RAIL, 0xFF000B000100, 13, 0x8, 1, 0x0⟩,
   ⟨.PORT_XLAT, 0xFF0005000040, 36, 0x1000, 1, 0x0⟩,
   ⟨.CTL_FEAT0, 0xFF0000000100, 1, 0x0, 1, 0x0⟩,
   ⟨.CTL_FEAT1, 0xFF0000000108, 1, 0x0, 1, 0x0⟩,
   ⟨.CTL_FEAT2, 0xFF0000000110, 1, 0x0, 1, 0x0⟩,
   ⟨.CTL_FEAT3, 0xFF0000000118, 1, 0x0, 1, 0x0⟩,
   ⟨.CTL_FEAT4, 0xFF0000000120, 1, 0x0, 1, 0x0⟩]

def regMap : List RegPlace := regMap0 ++ regMap1 ++ regMap2 ++ regMap3 ++ regMap4 ++ regMap5 ++ regMap6

/-- The address of a register of the map. -/
def RegPlace.addr (p : RegPlace) (i : Nat) : Nat := p.base + i / p.inner * p.stride + i % p.inner * p.istride

/-- The index of the register of `p` at address `a`, if `a` is one of its addresses. -/
def RegPlace.at? (p : RegPlace) (a : Nat) : Option (Reg × Nat) :=
  if a < p.base then none
  else
    let d := a - p.base
    let o := if p.count ≤ 1 then 0 else d / p.stride
    let r := d - o * p.stride
    let j := if p.inner ≤ 1 then 0 else r / p.istride
    if o < p.count ∧ j < p.inner ∧ r = j * p.istride then some (p.reg, o * p.inner + j) else none

/-- The register at a local address (R168: the register space), none where no register lies. -/
def regAt (a : Nat) : Option (Reg × Nat) := regMap.findSome? (RegPlace.at? · a)

/-- The registers of a name: how many indices it has. -/
def Reg.indices (r : Reg) : Nat :=
  match regMap.find? (fun p => p.reg == r) with
  | some p => p.count * p.inner
  | none => 1

/-- The value of register `i` of a name after reset: each field at its reset value; CORE_ID holds the hard numbers
of its core (Table 2-8, R9). -/
def Reg.reset (r : Reg) (i : Nat) : Word64 :=
  let v := r.fields.foldl (fun a f => setBits a f.lo f.w f.reset) 0
  match r with
  | .CORE_ID => BitVec.ofNat 64 (setBits (setBits (setBits v 0 8 i) 8 5 (i / 8)) 13 1 (i / 128))
  | _ => BitVec.ofNat 64 v

/-- The effect of a write of `v` by software on a register holding `old` (R7, R8): RW fields take the value, W1C and
W1S fields clear or set the ones, the rest keeps. -/
def Reg.write (r : Reg) (old v : Nat) : Nat :=
  r.fields.foldl (fun a f =>
    let x := bitsOf v f.lo f.w
    match f.acc with
    | .RW => setBits a f.lo f.w x
    | .W1C => setBits a f.lo f.w (bitsOf old f.lo f.w &&& (2 ^ f.w - 1 - x))
    | .W1S => setBits a f.lo f.w (bitsOf old f.lo f.w ||| x)
    | _ => a) old

end Sys2Proof.Machine
end

