-- ==== Sys2Proof/Machine/State.lean ====
section
/-! DEFINITION. The state of the package as plain data, the reasons a step can stop, and the state after reset. -/

namespace Sys2Proof.Machine

/-! ## Cores (02, 03, 04) -/

/-- One piece of a LOAD: a memory read of `len` bytes, its scratchpad destination, whether another package serves it,
and whether it has arrived. -/
structure Piece where
  src : Nat
  dst : Nat
  len : Nat
  remote : Bool
  arrived : Bool
deriving DecidableEq, Repr

/-- What a store-buffer entry carries: a granule for memory (`board` names the slot of a board address), a granule for
a destination block, or a latch write for a destination block (R72, R73, R77). -/
inductive SbKind where
  | store (dst : Nat) (board : Option Nat) (ack : Bool)
  | data (block addr : Nat)
  | latch (block latch inc : Nat)
deriving DecidableEq, Repr

/-- One granule of the store buffer, tagged with the sequence number of its command (R43). -/
structure SbEntry where
  seq : Nat
  kind : SbKind
  bytes : List Byte
deriving DecidableEq, Repr

/-- Work a STORE or SEND command has still to place in the store buffer: the entry and the scratchpad source. -/
structure Todo where
  kind : SbKind
  src : Nat
  len : Nat
deriving DecidableEq, Repr

/-- A command in an engine queue (R23): `started` and `skipped` as R25, R64; outstanding pieces, granules and
acknowledgements, and the predicate bit a VE_CMP writes when it completes (R107). -/
structure QEntry where
  cmd : Cmd
  seq : Nat
  beat : Nat
  started : Bool
  skipped : Bool
  pieces : List Piece
  todo : List Todo
  acks : Nat
  pred : Option (Nat × Bool)
deriving DecidableEq, Repr

/-- One fetched 4 KiB block of the stream: its index, whether its fetch failed, and its 64 commands (R22). -/
structure Block where
  idx : Nat
  failed : Bool
  cmds : List Cmd
deriving DecidableEq, Repr

/-- A weight tile (R86, R89): format, K, N, the per-tensor scale, element codes and block scales by weight row. -/
structure Tile where
  fmt : Nat
  k : Nat
  n : Nat
  scale : Nat
  rows : List (List Nat)
  scales : List (List Nat)
deriving DecidableEq, Repr

/-- One peephole record (R81). -/
structure PeepRec where
  id : Nat
  core : Nat
  seq : Nat
  beat : Nat
  tb : Nat
  payload : Nat
deriving DecidableEq, Repr

/-- One core. `nextBlock` is the next block of its stream to fetch (R22), `lastTaken` the highest sequence number whose write to
memory the memory took before any stop (R43), `seq` the next sequence number, `beat` the number of beat-ending commands dispatched (so the beat of
the next command), `held` a code-5 command waiting at the dispatcher, `ending` a handled STEP_END not yet complete,
`ended` its completion, `peepDrops` the records dropped since the last delivered one, `stop` the lowest sequence number that no longer starts after a fault or abort (R43). -/
structure Core where
  blocks : List Block
  nextBlock : Nat
  seq : Nat
  beat : Nat
  held : Bool
  ending : Bool
  ended : Bool
  stop : Option Nat
  load : List QEntry
  matrix : List QEntry
  vector : List QEntry
  store : List QEntry
  send : List QEntry
  sb : List SbEntry
  params : Tbl Nat
  preds : Nat
  peep : List PeepRec
  acc : Tbl (Tbl Nat)
  active : Option Tile
  shadow : Option Tile
  lastTaken : Nat
  peepDrops : Nat
deriving DecidableEq, Repr

/-- A core with no step: empty buffers and queues. -/
def Core.init : Core := ⟨[], 0, 0, 0, false, false, false, none, [], [], [], [], [], [], [], 0, [], [], none, none, 0, 0⟩

/-! ## Partitions and thresholds (02, 06, 21) -/

/-- The beat-sequencer context and step state of one partition. `running`: a step is in progress; `plan`: the number of
the plan whose step runs or last ran; `startT`: a start time delivered and not yet reached; `holdSince`: the timebase at
which the present hold began; `unplanned`: an access of R290 since the beat opened; `varBase`: the partition's
variance counter at the start arrival; `causes`: its increments by cause since then (R291, R369); `payload`: the STEP values kept for a replay (R394); `tag`: the TAG of the host's STEP (0: composed for serving); `waitDigest`: the next step is prepared and waits for its input digest (R293); `aborted`: the step was aborted and
its quiet period is running; `lastFailed`: the last step ended by an abort; `prevNo`: the number of the step ended last (R398);
`quietAt`: when the quiet period began; `pendDone`: a STEP_DONE with `status` is due when it ends (R399); `loadWait`: a
LOAD_PLAN waits for the step boundary (R155); `lateT`: the start time fell inside a pane stop (R213); `varLast`: the completion
of a variable command met the last close condition of the beat (R182); `beat0`, `endAt`: when beat 0 opened and when the step ended; `endSeq`:
the number of that end among all step ends of the package; `prevAborted`: the step ended last was aborted here; `late`: its quiet
period runs while the next step has arrived (R398). -/
structure Part where
  running : Bool
  beat : Nat
  plan : Nat
  stepNo : Nat
  attempt : Nat
  arrivedAt : Nat
  startT : Option Nat
  holdSince : Option Nat
  unplanned : Bool
  varBase : Nat
  causes : Tbl Nat
  payload : List Byte
  aborted : Bool
  lastFailed : Bool
  replaying : Bool
  lateT : Bool
  varLast : Bool
  started : Bool
  tag : Nat
  waitDigest : Bool
  prevNo : Option Nat
  quietAt : Nat
  pendDone : Bool
  status : Nat
  loadWait : Bool
  beat0 : Nat
  endAt : Nat
  cq : Option Nat
  late : Bool
  prevAborted : Bool
  endSeq : Nat
deriving DecidableEq, Repr

def Part.init : Part := ⟨false, 0, 0, 0, 0, 0, none, none, false, 0, [], [], false, false, false, false, false, false, 0, false, none, 0, false, 0, false, 0, 0, none, false, false, 0⟩

/-- The quiet period of the partition runs (R399): of its own step, or of the one before it (R398). -/
def Part.quieting (x : Part) : Bool := x.aborted || x.late

/-- One threshold context (R139 to R144): arrivals of each local member, the CLATCH and CINC each arrival carried for
generations not yet complete, the generations each child has reported (by arrival port), the latest arrival timebase of
a generation, the generations this package has aggregated, and the package's own arrival at a start context. -/
structure Ctx where
  counts : Tbl Nat
  carried : Tbl (List (Nat × Nat))
  kids : Tbl Nat
  latest : Tbl Nat
  up : Nat
  pkg : Bool
deriving DecidableEq, Repr

def Ctx.init : Ctx := ⟨[], [], [], [], 0, false⟩

/-- An arrival token on its way from a core to the threshold unit (R78, R141). -/
structure Arrival where
  core : Nat
  sys : Bool
  ctx : Nat
  clatch : Nat
  cinc : Nat
deriving DecidableEq, Repr

/-! ## Memory (08) -/

/-- What a granule holds beside its bytes: the key it was written with (0: never written) and its poison mark. -/
structure Gran where
  key : Nat
  poison : Bool
deriving DecidableEq, Repr

def Gran.init : Gran := ⟨0, false⟩

/-! ## Packets (12, 13) -/

/-- Where a packet entered the package's routers: a core, a DMA channel or other unit of a jamb, or a port. -/
inductive Origin where
  | core (n : Nat)
  | unit
  | port (q : Nat)
deriving DecidableEq, Repr

/-- A packet: the header of Table 12-2 by fields, its payload, where it entered, the partition fixed there (R269), the physical cores it is for, once it is looked up here (R74), and, of a beacon that came on a
port, when its first symbol came (R218, 1/256 ns). -/
structure Packet where
  version : Nat
  ptype : Nat
  flits : Nat
  vc : Nat
  fan : Bool
  dnode : Nat
  snode : Nat
  tree : Nat
  dcore : Nat
  arg : Nat
  len : Nat
  body : List Byte
  src : Origin
  part : Nat
  dest : List Nat
  stamp : Nat
deriving DecidableEq, Repr

/-- A flit waiting at a router or sent on a port: sequence number, VC, FIRST and LAST, body, the partition and type of its packet,
and when it was last sent (R252). -/
structure TxFlit where
  seq : Nat
  vc : Nat
  first : Bool
  last : Bool
  body : List Byte
  part : Nat
  ptype : Nat
  since : Nat
deriving DecidableEq, Repr

/-- One output of a packet at a router: port, the VC it leaves on, the flits its skid buffer has taken and those sent (R280). -/
structure Branch where
  port : Nat
  vc : Nat
  taken : Nat
  sent : Nat
deriving DecidableEq, Repr

/-- A packet on its way through a router (R266, R272, R280): its header with the payload so far, the VC it came on, the flits that
came, how many of them have left the input, whether its head was looked up, its outputs, whether it is also delivered on the
package, when it reached its outputs, the number of the jamb cycle its head came in (equal for heads that tie), the flits
counted as delayed by a full skid buffer, the jamb of the router, whether it came by the hinge, and, when the other jamb's router
sends its flits across, the packet there (its cycle and input). Output 36 + j of a branch is the hinge output of jamb j. -/
structure Worm where
  pkt : Packet
  vcIn : Nat
  flits : List TxFlit
  freed : Nat
  seen : Bool
  outs : List Branch
  here : Bool
  since : Nat
  cycle : Nat
  stalled : Nat
  jamb : Nat
  hinge : Bool
  feed : Option (Nat × Nat)
deriving DecidableEq, Repr

/-- Who waits for the response of a memory request (Table 12-4, TAG); a weight chain waits for the writes of segment
`seg - 1`, or (0) of its chain word; `wr`: a piece of a record that is read again at byte `off` (R392); `serve`: a write of a
composer to another node (R316). -/
inductive Requester where
  | load (core seq piece : Nat)
  | store (core seq : Nat)
  | dma (jamb chan piece : Nat)
  | rs (jamb part piece : Nat)
  | wl (plan rec seg : Nat)
  | wr (plan rec off : Nat)
  | serve (part : Nat)
  | nobody
deriving DecidableEq, Repr

/-- A request of the RS job of partition `p` on a jamb. -/
def Requester.ofRs (r : Requester) (jamb p : Nat) : Bool :=
  match r with
  | .rs j q _ => j == jamb && q == p
  | _ => false

/-! ## Plans (07, 14, 15) -/

/-- A region of a plan placed on this package (R158): index, tier (0 HBM, 1 cellar), base and size. -/
structure Region where
  idx : Nat
  tier : Nat
  base : Nat
  size : Nat
deriving DecidableEq, Repr

/-- An OUTPUTS record of this node (Table 14-2). -/
structure OutBuf where
  role : Nat
  region : Nat
  offset : Nat
  length : Nat
deriving DecidableEq, Repr

/-- A memory key: its number and whether it is revoked (R178, R347). Number 0 is no key. -/
structure MemKey where
  id : Nat
  revoked : Bool
deriving DecidableEq, Repr

def MemKey.init : MemKey := ⟨0, false⟩

/-- A threshold context of a plan on this node (R139): system or on-chip, its number (renamed), its member logical cores
and its tree (renamed). -/
structure ThrRec where
  sys : Bool
  ctx : Nat
  cores : List Nat
  tree : Nat
deriving DecidableEq, Repr

/-- A fanlight tree of a plan on this node (R278): its renamed ID, FAN_CFG and FAN_DL words and the logical cores it
delivers to. -/
structure FanRec where
  tree : Nat
  cfg : Nat
  dl : Nat
  cores : List Nat
deriving DecidableEq, Repr

/-- A SHARD record of a plan on this node (R302 to R310): its `index` among the node's WEIGHTS records, its place and EXPECT; its
`state` (0 EMPTY, 1 LOADING, 2 LOADED, 3 FAILED) and `code` (Table 15-2); the source-map entry it loads by (`kind`, `jamb`,
`start`, `pred`, `succ`, `succAddr`, and the queue pair, remote key and remote address of both sources), `alt`: reading over QP1;
segments present, forwarded and announced, writes not yet acknowledged and when they were sent (of segment j at j + 1, of the chain
word at 0), the segment digests so far; when SEGS last rose, when a break was reported, and a lost successor; the kind of the entry
that last gave it a source, and segments to read again from there (R392). -/
structure WRec where
  index : Nat
  shard : Nat
  region : Nat
  off : Nat
  len : Nat
  expect : Nat
  state : Nat
  code : Nat
  kind : Nat
  jamb : Nat
  start : Nat
  pred : Nat
  succ : Nat
  succAddr : Nat
  qp0 : Nat
  qp1 : Nat
  rkey0 : Nat
  rkey1 : Nat
  raddr0 : Nat
  raddr1 : Nat
  alt : Bool
  present : Nat
  fwd : Nat
  ann : Nat
  acks : Tbl Nat
  sentAt : Tbl Nat
  digs : List Nat
  rose : Nat
  broke : Option Nat
  lost : Bool
  src : Nat
  redo : List Nat
deriving DecidableEq, Repr

/-- An adapter load (R312): what it names, with both sources of its STORAGE entry; its slot, segments present and their digests;
its `state` (0 loading, 1 loaded, RESIDENT at the next boundary, 2 failed, its slot FREE at the next boundary); and its request. -/
structure ALoad where
  id : Nat
  rank : Nat
  len : Nat
  expect : Nat
  jamb : Nat
  qp0 : Nat
  qp1 : Nat
  rkey0 : Nat
  rkey1 : Nat
  raddr0 : Nat
  raddr1 : Nat
  alt : Bool
  slot : Nat
  present : Nat
  digs : List Nat
  state : Nat
  ctl : Ctl
deriving DecidableEq, Repr

/-- The adapter area of a node: region, offset, slot count and SLOT_BYTES (R311). -/
structure AArea where
  region : Nat
  off : Nat
  slots : Nat
  size : Nat
deriving DecidableEq, Repr

/-- An RDMA READ request outstanding on a queue pair (R307): its plan; the record, or (`adapter`) the slot of the adapter load, it
reads for; the segment; the remote key and address it asks for, its bytes, and those that have come. -/
structure RRead where
  plan : Nat
  item : Nat
  adapter : Bool
  seg : Nat
  rkey : Nat
  raddr : Nat
  len : Nat
  got : Nat
deriving DecidableEq, Repr

/-- A queue pair of a jamb (R305, R307): its partition plus one (0: none), whether it is connected, and its outstanding reads, oldest
first. -/
structure Qp where
  owner : Nat
  conn : Bool
  reads : List RRead
deriving DecidableEq, Repr

def Qp.init : Qp := ⟨0, false, []⟩

/-- A resident plan (R156 to R167): its partition and node, its binding (`cores`, physical cores by logical index),
its streams (address and commands), slot codes and parameter pages by logical core, what it holds, and its evicted state
(`ctxBase`: the context area of an evicted plan, `savedLatch`, `savedPage`: its latches and DISP_PARAM.PAGE), its weights (R305) and adapters (R312; `used`: when each slot was last used),
the request of the weight load in progress, and whether it waits for the step to end. -/
structure Plan where
  part : Nat
  digest : Nat
  canonical : Bool
  swappable : Bool
  paneAlign : Bool
  n : Nat
  nodes : Nat
  node : Nat
  seed : Nat
  wdog : Nat
  margin : Nat
  startCtx : Nat
  routeSet : Nat
  nodeMap : List Nat
  cores : List Nat
  streams : List (Nat × Nat)
  slots : List (List Nat)
  pages : List Nat
  regions : List Region
  outputs : List OutBuf
  trees : List (Nat × Nat)
  ctxs : List (Nat × Nat)
  rings : List Nat
  thresholds : List ThrRec
  fans : List FanRec
  routes : List (Bool × Nat × Nat)
  evicted : Bool
  ctxBase : Nat
  savedLatch : List (List Nat)
  savedPage : List Nat
  nextStep : Nat
  weightDigest : Nat
  weightState : Nat
  composer : Bool
  inputDigest : Nat
  provInvalid : Bool
  weights : List WRec
  area : Option AArea
  aloads : List ALoad
  used : Tbl Nat
  wlCtl : Option Ctl
  wlWait : List (Ctl × List Byte)
deriving DecidableEq, Repr

/-- No plan. -/
def Plan.init : Plan :=
  { part := 0, digest := 0, canonical := false, swappable := false, paneAlign := false, n := 0, nodes := 0, node := 0,
    seed := 0, wdog := 0, margin := 0, startCtx := 0, routeSet := 0, nodeMap := [], cores := [], streams := [],
    slots := [], pages := [], regions := [], outputs := [], trees := [], ctxs := [], rings := [], thresholds := [], fans := [], routes := [], evicted := false, ctxBase := 0,
    savedLatch := [], savedPage := [], nextStep := 0, weightDigest := 0, weightState := 0, composer := false,
    inputDigest := 0, provInvalid := false, weights := [], area := none, aloads := [], used := [], wlCtl := none,
    wlWait := [] }

/-- What a partition keeps beside the SEC_ registers: its plan key digest (48 bytes as a number; R350), whether a plan
load has come since CREATE and whether a message has set the host mode (R354), whether IDE keys are set, the session bound to it (its number), whether its teardown
was asked for and waits (R348), and the control message that asked. -/
structure PSec where
  planKey : Option Nat
  loaded : Bool
  modeSet : Bool
  ide : Bool
  session : Option Nat
  tear : Bool
  tearCtl : Option Ctl
deriving DecidableEq, Repr

def PSec.init : PSec := ⟨none, false, false, false, none, false, none⟩

/-! ## Serving (16, 17) -/

/-- A request-table entry (Table 16-6) with what it holds beside it: its pages, its parameter set, its admission order, the
timebase it was last scheduled, its last token, the position up to which it is prefilled again (R395; 0: not), and the page
moves that wait for the next boundary (R324). -/
structure Req where
  state : Nat
  prio : Nat
  customer : Nat
  lane : Nat
  tag : Nat
  adapter : Nat
  promptLen : Nat
  genLimit : Nat
  pos : Nat
  generated : Nat
  pages : List Nat
  prompt : Nat
  cring : Nat
  seed : Nat
  lastTb : Nat
  sparam : Nat
  order : Nat
  lastRun : Nat
  lastTok : Nat
  redo : Nat
  spill : List (Nat × Nat)
deriving DecidableEq, Repr

def Req.init : Req := ⟨0, 0, 0, 0xFFFF, 0, 0, 0, 0, 0, 0, [], 0, 0, 0, 0, 0, 0, 0, 0, 0, []⟩

/-- A customer entry (Table 16-2). -/
structure Cust where
  en : Bool
  maxprio : Nat
  rate : Nat
  burst : Nat
  level : Nat
  adpLo : Nat
  adpHi : Nat
  rem : Nat
  lastTb : Nat
deriving DecidableEq, Repr

def Cust.init : Cust := ⟨false, 0, 0, 0, 0, 0, 0, 0, 0⟩

/-- A row of a composed step (R325): request entry, lane, KIND (1 DECODE, 2 PREFILL), first position, positions, SAMPLE, and
whether its customer was charged. -/
structure Row where
  ent : Nat
  lane : Nat
  kind : Nat
  pos : Nat
  tokens : Nat
  sample : Bool
  charged : Bool
deriving DecidableEq, Repr

/-- A sampler output (R339): lane, request entry, TOKEN, LOGPROB, the index of the matching stop record, and the DEGENERATE and
BAD_SET flags. -/
structure SOut where
  lane : Nat
  ent : Nat
  token : Nat
  logprob : Nat
  stop : Option Nat
  degenerate : Bool
  badSet : Bool
deriving DecidableEq, Repr

/-- The serving state of a partition: its configuration (Table 16-1; [] : none), a configuration and a sampler configuration (with its VALID)
that wait for the next boundary, the rows of the step composed last, the sampler outputs so far, a failed sampler read
(R339), customer and target changes that wait, the admission counter, completion entries that wait for room; whether the boundary of a
failed step that is replayed has run (R328, R394); and writes to other nodes not yet answered, with the batch headers (node, address,
bytes) that follow them (R316). -/
structure Serve where
  cfg : List Byte
  newCfg : Option (List Byte)
  newSmp : Option (Bool × List Byte)
  rows : List Row
  outs : List SOut
  badRead : Bool
  custs : List (Nat × List Byte)
  prios : Option (List Nat)
  order : Nat
  cpl : List (Nat × List Byte)
  failed : Bool
  acks : Nat
  heads : List (Nat × Nat × List Byte)
deriving DecidableEq, Repr

def Serve.init : Serve := ⟨[], none, none, [], [], false, [], none, 0, [], false, 0, []⟩

/-! ## Host rings, replies and the log (19) -/

/-- A ring record (R365): role (Table 19-2; 0: none), function (0 the PF, p + 1 the VF of partition p), byte offset in the
ring area or slice (or the address, for a ring of a plan), LOG2N, MSI-X vector, entry bytes, HEAD and TAIL (of a PLAN_OUT ring: the
entries that have left as records), the plan it belongs to (0: none), where the host wants the next bounce record of the ring (R366), and
for a CTRL_SQ the CTRL_CQ paired with it (R367). -/
structure Ring where
  role : Nat
  fn : Nat
  off : Nat
  log2n : Nat
  vector : Nat
  ent : Nat
  head : Nat
  tail : Nat
  plan : Nat
  bat : Nat
  pair : Nat
deriving DecidableEq, Repr

def Ring.init : Ring := ⟨0, 0, 0, 0, 0, 64, 0, 0, 0, 0, 0⟩

/-- A reply waiting for room on its CTRL_CQ: the one paired with the CTRL_SQ of the request, or (none) the first of its function
(R367, R369). -/
structure Reply where
  fn : Nat
  cq : Option Nat
  bytes : List Byte
deriving DecidableEq, Repr

/-- A log event (Table 19-6). `part` 255 is the package. -/
structure LogEntry where
  sev : Nat
  code : Nat
  part : Nat
  tb : Nat
  args : List Nat
deriving DecidableEq, Repr


/-- A submitted step waiting for its start (R165, R369): partition, plan, host TAG, STEP-slot values, and the attempt it
makes. `again`: the same step is issued again (R394), with its number kept; `cq`: the CTRL_CQ of its reply (R367). -/
structure StepReq where
  part : Nat
  plan : Nat
  tag : Nat
  vals : List Byte
  attempt : Nat
  again : Bool
  cq : Option Nat
deriving DecidableEq, Repr

/-! ## Start-up (20) -/

/-- One POLICY record of the system section (Table 20-3): permitted panes and ports, OPKEYS and EN. -/
structure Policy where
  panes : Nat
  ports : Nat
  opkeys : Bool
  en : Bool
deriving DecidableEq, Repr

/-- What start-up keeps beside the registers: the two counter records of the NOR (R386), the policy and wheels of the
system section (R384), the time master, Ranuat's load timeout, the operator debug key digest, the management routes of
the node section as (EID, port), Ranuat's copy of the base entries as (member table, index, word), the SEQ the counter
counts for, the fused key digests, the SHA-384 of the system section, the MAC and IP addresses, whether the package is held in reset or holds after
PWRFAIL_N, whether it drives THERMTRIP_N, the DSCP of RoCEv2 traffic; CDI_0 in the key engine's locked slot, whether the UDS is locked, and the
DeviceID certificate of the fuses (R351); the ticks until a reset takes effect (R418) and until the ports are held in reset (R388),
with going-away flits in the meantime (R263; none: neither is due); and the rails below 90 % of nominal (R418). -/
structure Boot where
  ctr0 : List Byte
  ctr1 : List Byte
  policy : List Policy
  wheels : List (List Nat)
  master : Nat
  loadS : Nat
  debugKey : Nat
  mgmt : List (Nat × Nat)
  base : List (Bool × Nat × Nat)
  cfgSeq : Nat
  fwKey : Nat
  cfgKey : Nat
  sysHash : Nat
  eth : List Nat
  held : Bool
  quiet : Bool
  thermtrip : Bool
  dscp : Nat
  cdi0 : List Byte
  udsLocked : Bool
  cert : List Byte
  resetIn : Option Nat
  holdIn : Option Nat
  low : List Nat
deriving DecidableEq, Repr

/-- Before the first start: blank counter sectors, held in reset. -/
def Boot.init : Boot := ⟨[], [], [], [], 0, 0, 0, [], [], 0, 0, 0, 0, [], true, false, false, 0, [], false, [], none, none, []⟩

/-! ## DMA and Reed–Solomon engines (09, 21) -/

/-- A descriptor in flight (R194 to R203): its slot, its 64 bytes, its status (0 while it runs) and FAIL_OFF, the walk
offset of its next byte and of its last piece, its phase (0 may issue, 1 awaits a read, 2 awaits a merge read, 3 awaits a
write acknowledgement, 4 awaits its read-back, 5 read back) and the bytes of the piece at hand. -/
structure DmaDesc where
  slot : Nat
  bytes : List Byte
  status : Nat
  fail : Nat
  at' : Nat
  last : Nat
  phase : Nat
  buf : List Byte
deriving DecidableEq, Repr

/-- A DMA channel: its descriptors in ring order, the next slot to fetch, whether the descriptor before the first in
flight ended bad, a stop that waits for a read-back (R203), and what ended its work until RESUME (R193): 0 nothing, 1 a
failed fetch, 2 a failed write-back. -/
structure Chan where
  flight : List DmaDesc
  next : Nat
  prevBad : Bool
  stopping : Bool
  halt : Nat
deriving DecidableEq, Repr

def Chan.init : Chan := ⟨[], 0, false, false, 0⟩

/-- The job of an RS ring (R410, R411): its slot bytes, its operand list as (node, address) by shard, status and
FAIL_OFF, the byte offset within a shard, its phase (0 column to read, 1 reads outstanding, 2 writes outstanding, 3
read-backs outstanding, 4 read back), outstanding responses and the 64-byte shard pieces read. -/
structure RsJob where
  bytes : List Byte
  list : List (Nat × Nat)
  status : Nat
  fail : Nat
  at' : Nat
  phase : Nat
  wait : Nat
  bufs : Tbl (List Byte)
  since : Nat
deriving DecidableEq, Repr

/-- Bounce-buffer counters of a partition (R356): the highest accepted host-to-device SEQ plus one and which of the 64
below it were accepted, records accepted and records written since the keys were derived, and the key of each direction (32 bytes;
empty: none derived). -/
structure Bounce where
  high : Nat
  seen : List Nat
  h2d : Nat
  d2h : Nat
  keyIn : List Byte
  keyOut : List Byte
deriving DecidableEq, Repr

/-- No job. -/
def rsNone : RsJob := ⟨[], [], 0, 0, 0, 0, 0, [], 0⟩

def Bounce.init : Bounce := ⟨0, [], 0, 0, [], []⟩

/-! ## Ports (11, 12) -/

/-- What a port keeps beside its registers. Training (R234 to R238): `fails` attempts in a row, `trainAt` the timebase of
DETECT, `clean` and `pclean` the lanes clean on each side, `width` the choice, the `wake` flag of a training that began in SLEEP,
`got` and `acked` for the stage at hand, `saidReady` when a READY body has gone. `gone`: a going-away frame was received. `heff`:
the effective headroom in KiB (R237). `ask`: 1 SLEEP, 2 OFF requested, with `asked` and `askAt` when the request has gone;
`grant`, `refuse`, `half` and `high` the link flags to send. `store`: the replay store; `replay`: the next sequence number to
resend; `mark`: the highest number sent before the latest replay began; `replayAt` and `replaySeq`: when it began and where;
`nakDue`, `naking`, `nakAt` of the receiver; `since2` and `since5`: slots since a VC2 and a VC5 flit; `last1` and `last4`: the VC
of each pair that went last; `skip`: bit v, the present packet of VC v is discarded up to its LAST flit (R246); `bsfIn`: when a
BSF came; `bsfDue`; `drop`: discarding until UP (R261); `downAt`: when the hold time began; `hold3`: VC0 to VC2 held (Table 10-6);
`going`: REASON of the going-away flits now sent (0: none); `sent`: the flit last sent; `rseq` and `rack`: the SEQ and ACK of the
training flit last received (R262); `leftUp`: when the port last left UP. Time (R218, R223): `exch`, the exchange at hand as
(SEQ, t1, t2, t3) in 1/256 ns; `burst`, exchanges left of a burst; `tbeacon`, beacon bodies to go in training flits. `stageAt`: from
when the bound of the training stage at hand counts (R234); `keep`: the half that the port keeps until training started by RETRAIN (R240; 0: none). -/
structure Port where
  fails : Nat
  trainAt : Nat
  clean : Nat
  pclean : Nat
  width : Nat
  wake : Bool
  got : Nat
  acked : Nat
  saidReady : Bool
  gone : Bool
  heff : Nat
  ask : Nat
  asked : Bool
  askAt : Nat
  grant : Bool
  refuse : Bool
  half : Bool
  high : Bool
  store : List TxFlit
  replay : Option Nat
  mark : Nat
  replayAt : Nat
  replaySeq : Nat
  nakDue : Bool
  naking : Bool
  nakAt : Nat
  since2 : Nat
  since5 : Nat
  last1 : Nat
  last4 : Nat
  skip : Nat
  bsfIn : Nat
  bsfDue : Bool
  drop : Bool
  downAt : Nat
  hold3 : Bool
  going : Nat
  sent : Flit
  rseq : Nat
  rack : Nat
  leftUp : Nat
  exch : Option (Nat × Nat × Nat × Nat)
  burst : Nat
  tbeacon : List (List Byte)
  stageAt : Nat
  keep : Nat
deriving DecidableEq, Repr

def Port.init : Port :=
  { fails := 0, trainAt := 0, clean := 0, pclean := 0, width := 0, wake := false, got := 0, acked := 0, saidReady := false,
    gone := false, heff := 0, ask := 0, asked := false, askAt := 0, grant := false, refuse := false, half := false, high := false,
    store := [], replay := none, mark := 0, replayAt := 0, replaySeq := 0, nakDue := false, naking := false, nakAt := 0,
    since2 := 15, since5 := 63, last1 := 0, last4 := 3, skip := 0, bsfIn := 0, bsfDue := false, drop := false, downAt := 0,
    hold3 := false, going := 0, sent := 0, rseq := 0, rack := 0, leftUp := 0, exch := none, burst := 0, tbeacon := [],
    stageAt := 0, keep := 0 }

/-! ## Time and panes (10) -/

/-- What the timebase keeps beside the TIME_ registers: the fractional accumulator (2^-32 ns), consecutive exchanges
within and beyond 0.5 ns, consecutive failed exchanges on either port, the exchange number sent, whether the last offset was
removed by a step, the offset of a wake outside the beacon tree still to be removed (2^-32 ns, R223), whether PTP has locked once,
the Sync at hand as (sequence, t1 when known, t2) and the Delay_Req sent as (sequence, t1, t2, t3), in 1/256 ns (R222), and, while RATE
slews a wake's offset away, the rate (ppb) that it returns to. -/
structure TimeS where
  frac : Nat
  good : Nat
  bad : Nat
  missed : Nat
  seq : Nat
  stepped : Bool
  adj : Int
  ptpOnce : Bool
  ptpSync : Option (Nat × Option Nat × Nat)
  ptpReq : Option (Nat × Nat × Nat × Nat)
  slew : Option Int
deriving DecidableEq, Repr

def TimeS.init : TimeS := ⟨0, 0, 0, 0, 0, false, 0, false, none, none, none⟩

/-- A pane: the frequency code a change moves it to, an emergency change that follows the one in progress (R213), the
timebase its clock stopped, and whether the change in progress is an emergency change. -/
structure PaneS where
  target : Nat
  follow : Bool
  stopAt : Nat
  emerg : Bool
deriving DecidableEq, Repr

def PaneS.init : PaneS := ⟨0, false, 0, false⟩

/-! ## Firmware, security and power (18, 19, 22) -/

/-- The running Ranuat image: IFACE, SHA-384 of the image, the private alias key derived from CDI_1, and the certificate chain, alias
certificate first (R351, R352, R370). -/
structure Fw where
  iface : Nat
  digest : Nat
  ikey : List Byte
  chain : List Byte
deriving DecidableEq, Repr

def Fw.init : Fw := ⟨0, 0, [], []⟩

/-- A live update in progress (R374): its request, what the new image's header says, its digest, when the drain began, and
whether takeover has begun and when. -/
structure Upd where
  ctl : Ctl
  svn : Nat
  iface : Nat
  digest : Nat
  since : Nat
  taken : Bool
deriving DecidableEq, Repr

/-- An SPDM session (R352): its number, its requester (0 the PF, p + 1 the VF of partition p, 17 MCTP), whether the
handshake is finished, and then its export master secret (R356). -/
structure Sess where
  id : Nat
  who : Nat
  est : Bool
  ems : List Byte
deriving DecidableEq, Repr

/-- An SPDM response: its requester, response code and content. -/
structure SpdmOut where
  who : Nat
  code : Nat
  data : List Byte
deriving DecidableEq, Repr

/-- What clearing an alarm asks for (R361): main power was cycled since the alarm, and the nonce prefixes of the measurement
reports that the host obtained since. -/
structure Tamp where
  cycled : Bool
  reports : List Nat
deriving DecidableEq, Repr

/-- A character of the UART's receive FIFO with its framing-error flag (R376, R377). -/
structure UChar where
  val : Nat
  ferr : Bool
deriving DecidableEq, Repr

/-- What a read of the host gets (R364, R169, R185): the function and the bytes; none: Unsupported Request, with `abort` Completer
Abort, or with `ep` a poisoned completion, whose data means nothing. -/
structure TlpRsp where
  fn : Nat
  data : Option (List Byte)
  abort : Bool
  ep : Bool
deriving DecidableEq, Repr

/-! ## The whole package -/

/-- Why the machine stops. -/
inductive Fault where
  /-- Raised by a command whose operands name a unit the package does not have (core 256, port 36, partition 16 and so
  on). Safe: no hardware event exists there. -/
  | noSuchUnit
deriving DecidableEq, Repr

/-- Why a command is refused. -/
inductive Refusal where
  /-- Raised by a dispatch arm whose command has no meaning yet. Safe: nothing is claimed about it. -/
  | notModelled (mnemonic : String)
deriving DecidableEq, Repr

/-- The state of the package. -/
structure State where
  /-- The commands waiting, first in, first out. -/
  pending : List Instr
  /-- The registers that differ from their reset value, by register code and index. -/
  regs : Tbl (Tbl Word64)
  /-- The bytes of local memory (R168) that differ from `memDefault`. -/
  mem : List Host.Cell
  /-- Key and poison mark per 64-byte granule (R178, R185). -/
  gran : Tbl Gran
  /-- Symbols of each granule's stored code word in error now, of its 72 (R184); a write of the granule makes a new code word. -/
  flaws : Tbl Nat
  /-- The memory key of each partition (R178, R347). -/
  keys : Tbl MemKey
  /-- Bus errors that Ranuat's memory accesses took (R169). -/
  busErrs : Nat
  /-- The present monitor window, in units of 10 ms of the timebase (R176). -/
  skewWin : Nat
  /-- Granules served per channel in the present monitor window (R176): HBM channel h at h, cellar channel c at 256 + c. -/
  served : Tbl Nat
  /-- The cores that differ from `Core.init`. -/
  cores : Tbl Core
  /-- The step state of each partition. -/
  parts : Tbl Part
  /-- On-chip threshold contexts T0 to T7. -/
  tctx : Tbl Ctx
  /-- System threshold contexts S0 to S31. -/
  sctx : Tbl Ctx
  /-- Arrival tokens on their way to the threshold unit. -/
  arrivals : List Arrival
  /-- Packets at the package's routers, in the order in which their head flits came (R266, R272). -/
  rq : List Worm
  /-- Packets delivered on the package and not yet acted on (R267). -/
  inbox : List Packet
  /-- Outstanding memory requests by TAG (Table 12-4). -/
  tags : Tbl Requester
  /-- The next TAG. -/
  nextTag : Nat
  /-- The resident plans, by number. -/
  plans : Tbl Plan
  /-- The next plan number. -/
  nextPlan : Nat
  /-- The model's own counter of free values taken so far. -/
  free : Nat
  /-- The ring records by ring number (R365). -/
  rings : Tbl Ring
  /-- The PF ring area of control-complex SRAM (R365, R370). -/
  sram : Tbl Byte
  /-- Replies waiting for room on their CTRL_CQ. -/
  replies : List Reply
  /-- MSI-X vectors signalled, as (function, vector), oldest first. -/
  msix : List (Nat × Nat)
  /-- The log buffer (R373). -/
  log : List LogEntry
  /-- Events sent up the controller tree (R375, R413), oldest first. -/
  pldm : List LogEntry
  /-- Submitted steps that have not started, oldest first. -/
  steps : List StepReq
  /-- Start-up state beside the BOOT_ registers (R379 to R389). -/
  boot : Boot
  /-- The patrol scrub's next granule, counted over the enabled blocks (R186). -/
  scrubPos : Nat
  /-- When the slice of the scrub that holds a channel began (R186, Table 21-7). -/
  scrubSince : Nat
  /-- The timebase until which a channel is refreshing: HBM channel h at h, cellar channel c at 256 + c (R181). -/
  unavail : Tbl Nat
  /-- Crossings whose margin fell since they were calibrated, as (kind, number): kind 0 panes, 1 hinges, 2 stacks, 3 ports (R210). -/
  drifted : List (Nat × Nat)
  /-- Maintenance locks held, as (activity code of Table 21-7, resource). -/
  locks : List (Nat × Nat)
  /-- DMA channels, jamb * 32 + c. -/
  dma : Tbl Chan
  /-- The job of each RS ring, jamb * 16 + p; unlisted: none (`rsNone`). -/
  rs : Tbl RsJob
  /-- Bounce-buffer counters of each partition. -/
  bounce : Tbl Bounce
  /-- Writes sent to the host, as (PCIe bus address, bytes), oldest first. -/
  hostOut : List (Nat × List Byte)
  /-- Ports 0 to 35. -/
  ports : Tbl Port
  /-- The timebase beside its registers. -/
  time : TimeS
  /-- Panes 0 to 31. -/
  panes : Tbl PaneS
  /-- The security state of each partition beside its registers. -/
  psec : Tbl PSec
  /-- The lockstep pair has stopped since a mismatch or LOCKSTEP_UNVERIFIED (R406), until the control complex resets. -/
  pairDown : Bool
  /-- Queue pairs, jamb * 256 + q. -/
  qps : Tbl Qp
  /-- The serving state of each partition. -/
  serves : Tbl Serve
  /-- The request table (R317). -/
  reqs : Tbl Req
  /-- The customer entries (R317). -/
  custs : Tbl Cust
  /-- The running Ranuat image (R370). -/
  fw : Fw
  /-- The PF firmware window, which fills the inactive image slot (R364, R370, R374). -/
  fwin : Tbl Byte
  /-- The running image slot (R370). -/
  fwrun : Tbl Byte
  /-- The handover block in data SRAM (R374). -/
  hand : List Byte
  /-- The boundary checkpoint in data SRAM, in the format of the handover block (R407). -/
  ckpt : List Byte
  /-- A live update in progress (R374). -/
  upd : Option Upd
  /-- SPDM sessions (R352). -/
  sessions : List Sess
  /-- The next session number. -/
  nextSess : Nat
  /-- Requesters whose SPDM algorithms are negotiated. -/
  algs : List Nat
  /-- SPDM responses sent, oldest first. -/
  spdm : List SpdmOut
  /-- Debug nonces issued and not yet used (R357). -/
  nonces : List Nat
  /-- Debug level 2 was granted and opens when every partition is FREE (R358). -/
  debugWant : Bool
  /-- The conditions under which an alarm clears (R361). -/
  tamp : Tamp
  /-- The UART's receive FIFO (R376). -/
  uartRx : List UChar
  /-- The UART's transmit FIFO (R376); the spec gives nothing that the console writes. -/
  uartTx : List Nat
  /-- Characters the UART has sent, oldest first (R376). -/
  uartOut : List Nat
  /-- Samples of the line that the receiver has not used yet, oldest first (R377). -/
  uartLine : List Bool
  /-- Completions of host reads, oldest first (R364). -/
  tlpOut : List TlpRsp
  /-- MCTP packets delivered to the local endpoint, oldest first (R375). -/
  mctpIn : List (List Byte)
  /-- MCTP and PLDM answers sent on the management buses, oldest first (R375). -/
  mctpOut : List (List Byte)
  /-- Consecutive power-loop periods above the limit with only pinned panes left to lower (R371). -/
  overPeriods : Nat
  /-- Requests for the maintenance lock, in request order, as (code of Table 21-7, what it names): a pane, an RS ring, a partition, or
  for code 6 port + 64 * bit of PORT_CTRL (R408). -/
  lockQ : List (Nat × Nat)
  /-- The MCTP endpoint ID of the package (R375); 0: none assigned. -/
  eid : Nat
  /-- PTP Delay_Req messages sent, as (Ethernet port, transport, sequence, t3 in 1/256 ns), oldest first (R222). -/
  ptpOut : List (Nat × Nat × Nat × Nat)
  /-- A wake event of R426 has come, and the return to RUN is due. -/
  waking : Bool
deriving DecidableEq, Repr

/-- The package right after reset: every register at its reset value (`Reg.reset`), memory with nothing listed, every
queue empty. -/
def State.reset : State :=
  { pending := []
    regs := []
    mem := []
    gran := []
    flaws := []
    keys := []
    busErrs := 0
    skewWin := 0
    served := []
    cores := []
    parts := []
    tctx := []
    sctx := []
    arrivals := []
    rq := []
    inbox := []
    tags := []
    nextTag := 0
    plans := []
    nextPlan := 1
    free := 0
    rings := []
    sram := []
    replies := []
    msix := []
    log := []
    pldm := []
    steps := []
    boot := Boot.init
    scrubPos := 0
    scrubSince := 0
    unavail := []
    drifted := []
    locks := []
    dma := []
    rs := []
    bounce := []
    hostOut := []
    ports := []
    time := TimeS.init
    panes := []
    psec := []
    pairDown := false
    qps := []
    serves := []
    reqs := []
    custs := []
    fw := Fw.init
    fwin := []
    fwrun := []
    hand := []
    ckpt := []
    upd := none
    sessions := []
    nextSess := 1
    algs := []
    spdm := []
    nonces := []
    debugWant := false
    tamp := ⟨false, []⟩
    uartRx := []
    uartTx := []
    uartOut := []
    uartLine := []
    tlpOut := []
    mctpIn := []
    mctpOut := []
    overPeriods := 0
    lockQ := []
    eid := 0
    ptpOut := []
    waking := false }

end Sys2Proof.Machine
end

