-- ==== Sys2Proof/Machine/Ops.lean ====
section
/-! DEFINITION. The named operations over registers, cores, latches, partitions and the variance counter. -/

namespace Sys2Proof.Machine

/-- The outcome of a step of this block. -/
abbrev Out := Host.Outcome State Fault Refusal

/-! ## Registers -/

/-- The stored value of register `i` of a name. -/
def State.rdReg (s : State) (r : Reg) (i : Nat) : Nat :=
  (tget (r.reset i) (tget [] s.regs r.code) i).toNat

/-- Store a register. -/
def State.wrReg (s : State) (r : Reg) (i : Nat) (v : Nat) : State :=
  { s with regs := tset [] s.regs r.code (tset (r.reset i) (tget [] s.regs r.code) i (BitVec.ofNat 64 v)) }

/-- Read a field. -/
def State.getF (s : State) (f : Fld) (i : Nat) : Nat := bitsOf (s.rdReg f.reg i) f.lo f.w

/-- Write a field. -/
def State.setF (s : State) (f : Fld) (i x : Nat) : State :=
  s.wrReg f.reg i (setBits (s.rdReg f.reg i) f.lo f.w x)

/-- A one-bit field as a truth value. -/
def State.flag (s : State) (f : Fld) (i : Nat) : Bool := s.getF f i != 0

/-- The package is in STANDBY or SLEEP and not quiet after a power failure (R424). -/
def State.asleep (s : State) : Bool := s.getF F.PWR_STATUS_STATE 0 != 0 && !s.boot.quiet

/-- An event that returns the package to RUN has come (R426). -/
def State.stir (s : State) : State := if s.asleep then { s with waking := true } else s

/-- In vestibule mode and after a failed start every port is held in reset and unpowered (R388). -/
def State.portsOff (s : State) : Bool := s.flag F.BOOT_STATUS_VESTIBULE 0 || s.flag F.BOOT_STATUS_FAILED 0

/-- Panes, HBM, cellar and Ethernet are held in reset: with the whole package, in vestibule mode, or after a failed start (R388, R418). -/
def State.dark (s : State) : Bool := s.boot.held || s.portsOff

/-- Count in a field that saturates at all ones. -/
def State.addF (s : State) (f : Fld) (i n : Nat) : State := s.setF f i (satAdd f.w (s.getF f i) n)

/-- Several field writes in order. -/
def State.setFs (s : State) (i : Nat) (l : List (Fld × Nat)) : State := l.foldl (fun s p => s.setF p.1 i p.2) s

/-! ## Time, node and free values -/

/-- The timebase (TIME_NOW). -/
def State.now (s : State) : Nat := s.getF F.TIME_NOW_NS 0

/-- The package's node ID. -/
def State.node (s : State) : Nat := s.getF F.RTE_SELF_NODE 0

/-- The next free word. -/
def State.takeFree (s : State) : State × Nat := ({ s with free := s.free + 1 }, (Config.freeWord s.free).toNat)

/-! ## Cores -/

def State.core (s : State) (n : Nat) : Core := tget Core.init s.cores n

def State.setCore (s : State) (n : Nat) (c : Core) : State := { s with cores := tset Core.init s.cores n c }

def State.modCore (s : State) (n : Nat) (f : Core → Core) : State := s.setCore n (f (s.core n))

/-- The queue of an engine code 0 to 4 (Table 2-1). -/
def Core.queue (c : Core) (eng : Nat) : List QEntry :=
  match eng with
  | 0 => c.load
  | 1 => c.matrix
  | 2 => c.vector
  | 3 => c.store
  | _ => c.send

def Core.setQueue (c : Core) (eng : Nat) (q : List QEntry) : Core :=
  match eng with
  | 0 => { c with load := q }
  | 1 => { c with matrix := q }
  | 2 => { c with vector := q }
  | 3 => { c with store := q }
  | _ => { c with send := q }

/-- Every queued command of a core. -/
def Core.entries (c : Core) : List QEntry := c.load ++ c.matrix ++ c.vector ++ c.store ++ c.send

/-- Latch `l` of core `n` (LATCH_VALUE word l / 4, R150). -/
def latchFld (l : Nat) : Fld :=
  match l % 4 with
  | 0 => F.LATCH_VALUE_VAL0
  | 1 => F.LATCH_VALUE_VAL1
  | 2 => F.LATCH_VALUE_VAL2
  | _ => F.LATCH_VALUE_VAL3

def State.latch (s : State) (n l : Nat) : Nat := s.getF (latchFld l) (n * 12 + l / 4)

def State.setLatch (s : State) (n l v : Nat) : State := s.setF (latchFld l) (n * 12 + l / 4) v

/-- An increment lands on a latch: a sum above 65,535 holds 65,535 and sets its LATCH_OVF bit (R133). -/
def State.addLatch (s : State) (n l inc : Nat) : State :=
  let v := s.latch n l + inc
  if 65535 < v then
    (s.setLatch n l 65535).setF F.LATCH_OVF_OVF n (s.getF F.LATCH_OVF_OVF n ||| 2 ^ l)
  else s.setLatch n l v

/-- Set latches of a mask to 0 (R80). -/
def State.clearLatches (s : State) (n mask : Nat) : State :=
  (onesOf mask 48).foldl (fun s l => s.setLatch n l 0) s

/-! ## Plans and partitions -/

def State.part (s : State) (p : Nat) : Part := tget Part.init s.parts p

def State.setPart (s : State) (p : Nat) (x : Part) : State := { s with parts := tset Part.init s.parts p x }

def State.modPart (s : State) (p : Nat) (f : Part → Part) : State := s.setPart p (f (s.part p))

def State.plan (s : State) (k : Nat) : Plan := tget Plan.init s.plans k

def State.setPlan (s : State) (k : Nat) (x : Plan) : State := { s with plans := tset Plan.init s.plans k x }

/-- The partition that owns a core's pane (CORE_ID.PARTITION). -/
def State.partOf (s : State) (n : Nat) : Nat := s.getF F.CORE_ID_PARTITION n

/-- The plan a partition runs or last ran. -/
def State.runPlan (s : State) (p : Nat) : Plan := s.plan (s.part p).plan

/-- The participating cores of a partition: those bound to its running plan (R36). -/
def State.members (s : State) (p : Nat) : List Nat :=
  let q := s.runPlan p
  if q.part = p ∧ ¬ q.evicted then q.cores else []

/-- A step is in progress on core `n` (CORE_STATUS.RUNNING). -/
def State.coreIn (s : State) (n : Nat) : Bool :=
  let p := s.partOf n
  (s.part p).running && (s.members p).contains n

/-- The pane of core `n` has its clock (R212, R213, R425). -/
def State.paneUp (s : State) (n : Nat) : Bool :=
  s.getF F.PANE_FREQ_STATE (n / 8) == 0 && s.getF F.PWR_STATUS_STATE 0 == 0

/-- A step is in progress on core `n` and its clock runs. -/
def State.coreRuns (s : State) (n : Nat) : Bool := s.coreIn n && s.paneUp n

/-- The plan numbers resident in a partition, oldest first. -/
def State.plansOf (s : State) (p : Nat) : List Nat := (s.plans.filter (fun e => e.2.part == p)).map (·.1)

/-- The start context of a partition: the system context it owns with START set (R146). -/
def State.startCtx (s : State) (p : Nat) : Option Nat :=
  (List.range 32).find? (fun c => s.getF F.LATCH_SCTX_OWNER c == p && s.flag F.LATCH_SCTX_START c)

def State.tctxOf (s : State) (c : Nat) : Ctx := tget Ctx.init s.tctx c
def State.sctxOf (s : State) (c : Nat) : Ctx := tget Ctx.init s.sctx c
def State.setTctx (s : State) (c : Nat) (x : Ctx) : State := { s with tctx := tset Ctx.init s.tctx c x }
def State.setSctx (s : State) (c : Nat) (x : Ctx) : State := { s with sctx := tset Ctx.init s.sctx c x }

/-! ## The variance counter (R288, Table 14-1) -/

/-- One event of a cause, charged to a partition. -/
def State.vary (s : State) (cause p : Nat) : State :=
  (((s.addF F.CTL_VAR_COUNT 0 1).addF F.CTL_VARC_COUNT (cause - 1) 1).addF F.CTL_VARP_COUNT p 1).modPart p
    (fun x => { x with causes := tmod 0 x.causes cause (· + 1) })

/-- An access of R290 to the memory or a window of partition `p`: counted once per beat while a step runs. -/
def State.markUnplanned (s : State) (p : Nat) : State :=
  if (s.part p).running then s.modPart p (fun x => { x with unplanned := true }) else s

/-! ## The log buffer (R373, R413) -/

/-- Put an entry in the log buffer; when it is full, the oldest is overwritten and counted (R373). -/
def State.logPush (s : State) (e : LogEntry) : State :=
  if s.log.length ≤ Config.logSlots then { s with log := s.log ++ [e] }
  else { s.addF F.CTL_LOG_DROPPED 0 1 with log := s.log.drop 1 ++ [e] }

/-- Buffer one log event with the timebase; from severity 1 it goes up the controller tree. -/
def State.logNote (s : State) (sev code part : Nat) (args : List Nat) : State :=
  let e : LogEntry := ⟨sev, code, part, s.now, args⟩
  { s.logPush e with pldm := if 1 ≤ sev then s.pldm ++ [e] else s.pldm }

end Sys2Proof.Machine
end

