-- ==== Sys2Proof/Machine/Memory.lean ====
section
/-! DEFINITION. Memory (08): the address map, channel blocks, interleave, granules, ECC, keys and error records. -/

namespace Sys2Proof.Machine

/-- What a byte that nothing has written reads as (DESIGN CHOICE: the spec gives no power-on contents). -/
def memDefault : Byte := 0

/-- Canonical form of memory. -/
def Memory.wf (m : List Host.Cell) : Bool := twf memDefault m

/-- One byte of memory, and its write. -/
def State.byte (s : State) (a : Nat) : Byte := tget memDefault s.mem a
def State.setByte (s : State) (a : Nat) (b : Byte) : State := { s with mem := tset memDefault s.mem a b }

/-- `n` bytes from `a`. -/
def State.bytes (s : State) (a : Nat) : Nat → List Byte
  | 0 => []
  | n + 1 => s.byte a :: s.bytes (a + 1) n

/-- Write bytes from `a` upward. -/
def State.setBytes (s : State) (a : Nat) : List Byte → State
  | [] => s
  | b :: t => (s.setByte a b).setBytes (a + 1) t

/-- A little-endian number of `n` bytes at `a`. -/
def State.num (s : State) (a n : Nat) : Nat := leNat (s.bytes a n)

/-! ## The address map (Table 8-1) -/

def hbmSize : Nat := 384000000000
def hbmChan : Nat := 1500000000
def cellarBase : Nat := 0x008000000000
def cellarEnd : Nat := 0x018000000000
def windowBase : Nat := 0xF00000000000
def windowStride : Nat := 0x800000
def spadSize : Nat := 0x600000
def regBase : Nat := 0xFF0000000000

/-- Scratchpad byte `a` of core `n` (its window address, R168). -/
def spadAddr (n a : Nat) : Nat := windowBase + n * windowStride + a

/-- The populated cellar channels and the capacity of one (R173). -/
def State.cellarChans (s : State) : Nat :=
  match s.getF F.MEM_STATUS_CELLAR_MAP 0 with
  | 1 => 8
  | 2 => 16
  | _ => 0
def State.cellarCap (s : State) : Nat :=
  if s.cellarChans = 0 then 0 else s.getF F.CTL_FEAT4_CELLAR_GIB 0 / s.cellarChans * 2 ^ 30

/-- A core is fused off. -/
def State.fusedOff (s : State) (n : Nat) : Bool := bitAt (s.getF F.CTL_FEAT3_PANE_FUSED 0) (n / 8)

/-- A place of the local address map. -/
inductive Place where
  | hbm
  | cellar
  | window (core off : Nat)
  | register
  | unmapped
deriving DecidableEq, Repr

/-- Where a local address lies (R168, R169). -/
def State.place (s : State) (a : Nat) : Place :=
  if a < hbmSize then .hbm
  else if cellarBase ≤ a ∧ a < cellarBase + s.cellarChans * s.cellarCap then .cellar
  else if windowBase ≤ a ∧ a < windowBase + 256 * windowStride then
    let n := (a - windowBase) / windowStride
    let o := (a - windowBase) % windowStride
    if o < spadSize ∧ ¬ s.fusedOff n then .window n o else .unmapped
  else if regBase ≤ a ∧ a < 2 ^ 48 then .register
  else .unmapped

/-! ## Channel blocks and interleave (R172 to R174) -/

/-- First address and size of the HBM block of `p`, when enabled. -/
def State.hbmBlock (s : State) (p : Nat) : Option (Nat × Nat) :=
  if s.flag F.MEM_PHBM_EN p then
    some (s.getF F.MEM_PHBM_FIRST p * hbmChan, 2 ^ s.getF F.MEM_PHBM_LOG2C p * hbmChan)
  else none

/-- First address and size of the cellar block of `p`, when enabled; only populated channels are mapped (R173). -/
def State.cellarBlock (s : State) (p : Nat) : Option (Nat × Nat) :=
  if s.flag F.MEM_PCEL_EN p then
    let first := s.getF F.MEM_PCEL_FIRST p
    some (cellarBase + first * s.cellarCap, min (2 ^ s.getF F.MEM_PCEL_LOG2C p) (s.cellarChans - first) * s.cellarCap)
  else none

/-- An address lies in a block. -/
def inBlock (b : Option (Nat × Nat)) (a : Nat) : Bool :=
  match b with
  | some (base, size) => decide (base ≤ a) && decide (a < base + size)
  | none => false

/-- An HBM or cellar address belongs to partition `p`. -/
def State.owns (s : State) (p a : Nat) : Bool := inBlock (s.hbmBlock p) a || inBlock (s.cellarBlock p) a

/-- Every byte from `lo` to `hi` belongs to `p` (R57): both ends lie in one block. -/
def State.ownsRange (s : State) (p lo hi : Nat) : Bool :=
  (inBlock (s.hbmBlock p) lo && inBlock (s.hbmBlock p) hi) ||
  (inBlock (s.cellarBlock p) lo && inBlock (s.cellarBlock p) hi)

/-- The partition whose enabled block holds an address. -/
def State.ownerOf (s : State) (a : Nat) : Option Nat := (List.range 16).find? (fun p => s.owns p a)

/-- The XOR of the `k`-bit groups of a 32-bit number. -/
def foldGroups (x k : Nat) : Nat → Nat
  | 0 => 0
  | n + 1 => (x / 2 ^ (n * k) % 2 ^ k) ^^^ foldGroups x k n

/-- Channel within a block of `2^k` channels of offset `o` (R174). -/
def hashChan (salt o k : Nat) : Nat :=
  if k = 0 then 0 else foldGroups (((o / 256) ^^^ salt) % 2 ^ 32) k ((31 + k) / k)

/-- Offset of byte `o` of a block of `2^k` channels within its channel (R174). -/
def chanOffset (o k : Nat) : Nat := if k = 0 then o else o / 256 / 2 ^ k * 256 + o % 256

/-- The byte `o` of a block of `2^k` channels that lies at offset `x` of channel `c` of the block: `hashChan` and `chanOffset`
undone (R174: the mapping is one to one). -/
def unhash (salt c x k : Nat) : Nat :=
  if k = 0 then x
  else
    let top := x / 256 * 2 ^ k
    (top + (c ^^^ hashChan salt (256 * top) k) % 2 ^ k) * 256 + x % 256

/-- The channel (HBM h as h, cellar c as c) and tier of an address of partition `p`. -/
def State.chanOf (s : State) (p a : Nat) : Nat × Nat :=
  let salt := s.getF F.MEM_SALT_SALT 0
  match s.hbmBlock p with
  | some (base, size) =>
    if base ≤ a ∧ a < base + size then
      (s.getF F.MEM_PHBM_FIRST p + hashChan salt (a - base) (s.getF F.MEM_PHBM_LOG2C p), 0)
    else (s.getF F.MEM_PCEL_FIRST p + hashChan salt (a - (cellarBase + s.getF F.MEM_PCEL_FIRST p * s.cellarCap))
            (s.getF F.MEM_PCEL_LOG2C p), 1)
  | none => (s.getF F.MEM_PCEL_FIRST p + hashChan salt (a - (cellarBase + s.getF F.MEM_PCEL_FIRST p * s.cellarCap))
            (s.getF F.MEM_PCEL_LOG2C p), 1)

/-- Where the byte of a mapped address stands: the address of its channel's slice (Table 8-1) and its channel offset (R174). An
address of no enabled block stands for itself. -/
def State.locate (s : State) (a : Nat) : Nat :=
  match s.ownerOf a with
  | none => a
  | some p =>
    let (ch, tier) := s.chanOf p a
    if tier = 0 then ch * hbmChan + chanOffset (a - s.getF F.MEM_PHBM_FIRST p * hbmChan) (s.getF F.MEM_PHBM_LOG2C p)
    else
      let base := cellarBase + s.getF F.MEM_PCEL_FIRST p * s.cellarCap
      cellarBase + ch * s.cellarCap + chanOffset (a - base) (s.getF F.MEM_PCEL_LOG2C p)

/-- The address at which the byte that stands at a place is reached: `State.locate` undone. -/
def State.addressOf (s : State) (x : Nat) : Nat :=
  match s.ownerOf x with
  | none => x
  | some p =>
    let salt := s.getF F.MEM_SALT_SALT 0
    if x < cellarBase then
      let first := s.getF F.MEM_PHBM_FIRST p
      first * hbmChan + unhash salt (x / hbmChan - first) (x % hbmChan) (s.getF F.MEM_PHBM_LOG2C p)
    else
      let first := s.getF F.MEM_PCEL_FIRST p
      let o := x - cellarBase
      cellarBase + first * s.cellarCap + unhash salt (o / s.cellarCap - first) (o % s.cellarCap) (s.getF F.MEM_PCEL_LOG2C p)

/-- Memory keyed anew after the channel blocks of `old` have become those of `s`: every byte, key, poison mark and symbol in error
stays where it stands in its channel (R174). The scrub begins a pass of the new blocks (R186). -/
def State.rekey (s old : State) : State :=
  { s with
    mem := old.mem.foldl (fun m e => tset memDefault m (s.addressOf (old.locate e.1)) e.2) []
    gran := old.gran.foldl (fun m e => tset Gran.init m (s.addressOf (old.locate (64 * e.1)) / 64) e.2) []
    flaws := old.flaws.foldl (fun m e => tset 0 m (s.addressOf (old.locate (64 * e.1)) / 64) e.2) []
    scrubPos := 0 }

/-! ## Error records (R187, Table 8-9) -/

def causeUNCORR_READ : Nat := 1
def causePOISON_READ : Nat := 2
def causeSCRUB_UNCORR : Nat := 3
def causeKEY : Nat := 4
def causePARTIAL_POISON : Nat := 5
def causeUNMAPPED : Nat := 6

/-- Record a memory error: the first while VALID is 0, OVERFLOW otherwise. At an address of no block CHANNEL and PARTITION are 0 and
TIER says on which side of the cellar's base it lies (DESIGN CHOICE, log entry 76). -/
def State.memErrRec (s : State) (cause a : Nat) : State :=
  if s.flag F.MEM_ERR_VALID 0 then s.setF F.MEM_ERR_OVERFLOW 0 1
  else
    let p := (s.ownerOf a).getD 0
    let (ch, tier) := if (s.ownerOf a).isSome then s.chanOf p a else (0, if cellarBase ≤ a then 1 else 0)
    (s.setFs 0 [(F.MEM_ERR_CHANNEL, ch), (F.MEM_ERR_PARTITION, p), (F.MEM_ERR_TIER, tier), (F.MEM_ERR_CAUSE, cause),
      (F.MEM_ERR_VALID, 1)]).setF F.MEM_ERR_ADDR_ADDR 0 (a / 64 * 64)

/-- A memory error is recorded, and each record logged (R187, R413: event 0x0105); a write of the register clears VALID. -/
def State.memErr (s : State) (cause a : Nat) : State :=
  let t := s.memErrRec cause a
  if s.flag F.MEM_ERR_VALID 0 then t
  else t.logNote 2 0x0105 ((s.ownerOf a).getD 255) [t.rdReg .MEM_ERR 0, t.rdReg .MEM_ERR_ADDR 0]

/-! ## Granules (R178 to R185) -/

def State.gran' (s : State) (g : Nat) : Gran := tget Gran.init s.gran g
def State.setGran (s : State) (g : Nat) (x : Gran) : State := { s with gran := tset Gran.init s.gran g x }
/-- The symbols in error of a granule's code word, and errors that came to it by now (`sym`): the larger number (R184). -/
def State.flaw (s : State) (g : Nat) : Nat := tget 0 s.flaws g
def State.setFlaw (s : State) (g k : Nat) : State := { s with flaws := tset 0 s.flaws g k }
def State.errors (s : State) (g sym : Nat) : Nat := max sym (s.flaw g)
/-- Errors come to the granules of a table. -/
def State.addFlaws (s : State) (sym : Syms) : State :=
  { s with flaws := sym.foldl (fun m e => tset 0 m e.1 (max e.2 (tget 0 m e.1))) s.flaws }
def State.key (s : State) (p : Nat) : MemKey := tget MemKey.init s.keys p

/-- One granule served by the channel of an address (R176). -/
def State.serve1 (s : State) (p a : Nat) : State :=
  let (ch, tier) := s.chanOf p a
  { s with served := tmod 0 s.served (ch + 256 * tier) (· + 1) }

/-- The answer of a memory controller. -/
inductive MemRes where
  | ok (bytes : List Byte)
  | refused (cause : Nat)
deriving DecidableEq, Repr

/-- Garbage bytes of a read under another key (R178). -/
def garbage (c : Nat) : Nat → List Byte
  | 0 => []
  | n + 1 => Config.freeByte (c * 64 + n) :: garbage c n

/-- The 64 bytes of a granule as its partition's key decrypts them: free bytes when it was written under another key. -/
def State.plain (s : State) (p g : Nat) : State × List Byte :=
  let x := s.gran' g
  if x.key = 0 ∨ x.key = (s.key p).id then (s, s.bytes (g * 64) 64)
  else ({ s with free := s.free + 1 }, garbage s.free 64)

/-- An uncorrectable granule is recorded under a cause and poisoned (R185). -/
def State.poisonAs (s : State) (cause g : Nat) : State :=
  ((s.memErr cause (g * 64)).setGran g { s.gran' g with poison := true }).setFlaw g 0

/-- A read that corrected `k` symbols counts in its tier (R184). -/
def State.countCorr (s : State) (p g k : Nat) : State :=
  if k = 0 then s else if (s.chanOf p (g * 64)).2 = 0 then s.addF F.MEM_ECC_HBM_CE 0 1 else s.addF F.MEM_ECC_CEL_CE 0 1

/-- One controller read of granule `g`, to which `sym` symbol errors have come (R178, R184, R185). A corrected read writes nothing
back, so its errors stand; the reserved check pattern of a poisoned granule replaces them. -/
def State.readGran (s : State) (g sym : Nat) : State × MemRes :=
  let a := g * 64
  match s.ownerOf a with
  | none => (s.memErr causeUNMAPPED a, .refused causeUNMAPPED)
  | some p =>
    let s := s.serve1 p a
    if (s.key p).revoked then (s.memErr causeKEY a, .refused causeKEY)
    else if (s.gran' g).poison then (s.memErr causePOISON_READ a, .refused causePOISON_READ)
    else if 4 ≤ s.errors g sym then (s.poisonAs causeUNCORR_READ g, .refused causeUNCORR_READ)
    else
      let s := (s.countCorr p g (s.errors g sym)).setFlaw g (s.errors g sym)
      let (s, bs) := s.plain p g
      (s, .ok bs)

/-- One whole-granule write (R179): it is stored under the owner's key and clears the poison (R185). Under a revoked key
it is discarded (R347). -/
def State.writeGran (s : State) (g : Nat) (bs : List Byte) : State × MemRes :=
  let a := g * 64
  match s.ownerOf a with
  | none => (s.memErr causeUNMAPPED a, .refused causeUNMAPPED)
  | some p =>
    let s := s.serve1 p a
    if (s.key p).revoked then (s, .refused causeKEY)
    else (((s.setBytes a (padTo 64 bs)).setGran g ⟨(s.key p).id, false⟩).setFlaw g 0, .ok [])

/-- Replace bytes `off …` of a granule image. -/
def patch (bs : List Byte) (off : Nat) (new : List Byte) : List Byte :=
  bs.take off ++ new ++ bs.drop (off + new.length)

/-- A write of less than a granule: read, correct, merge and write as one access (R180). -/
def State.writePart (s : State) (g off sym : Nat) (new : List Byte) : State × MemRes :=
  if off = 0 ∧ new.length = 64 then s.writeGran g new
  else
    let a := g * 64
    match s.ownerOf a with
    | none => (s.memErr causeUNMAPPED a, .refused causeUNMAPPED)
    | some p =>
      let s := s.serve1 p a
      if (s.key p).revoked then (s, .refused causeKEY)
      else if (s.gran' g).poison ∨ 4 ≤ s.errors g sym then (s.poisonAs causePARTIAL_POISON g, .refused causePARTIAL_POISON)
      else
        let s := s.countCorr p g (s.errors g sym)
        let (s, bs) := s.plain p g
        s.writeGran g (patch bs off new)

/-- Read `n` bytes from `a` granule by granule, each with its symbols in error. The first refusal ends the read. `fuel` bounds
the granules. -/
def State.readMem (s : State) (a n : Nat) (sym : Syms) : Nat → State × MemRes
  | 0 => (s, .ok [])
  | fuel + 1 =>
    if n = 0 then (s, .ok [])
    else
      let off := a % 64
      let k := min n (64 - off)
      match s.readGran (a / 64) (tget 0 sym (a / 64)) with
      | (s, .refused c) => (s, .refused c)
      | (s, .ok bs) =>
        match s.readMem (a + k) (n - k) sym fuel with
        | (s, .refused c) => (s, .refused c)
        | (s, .ok r) => (s, .ok (slice bs off k ++ r))

/-- Write bytes from `a` granule by granule, in ascending order; the first refusal ends the write. -/
def State.writeMem (s : State) (a : Nat) (sym : Syms) (bs : List Byte) : Nat → State × MemRes
  | 0 => (s, .ok [])
  | fuel + 1 =>
    match bs with
    | [] => (s, .ok [])
    | _ :: _ =>
      let off := a % 64
      let k := min bs.length (64 - off)
      match s.writePart (a / 64) off (tget 0 sym (a / 64)) (bs.take k) with
      | (s, .refused c) => (s, .refused c)
      | (s, .ok _) => s.writeMem (a + k) sym (bs.drop k) fuel

/-- Granules that `n` bytes at `a` touch, as fuel for `readMem` and `writeMem`. -/
def granules (n : Nat) : Nat := n / 64 + 2

/-- A read of `n` bytes at `a`, once the errors of `sym` have come. -/
def State.read (s : State) (a n : Nat) (sym : Syms) : State × MemRes := (s.addFlaws sym).readMem a n sym (granules n)

/-- A write of bytes at `a`, once the errors of `sym` have come. -/
def State.write (s : State) (a : Nat) (sym : Syms) (bs : List Byte) : State × MemRes :=
  (s.addFlaws sym).writeMem a sym bs (granules bs.length)

/-- A Ranuat access answered with a refusal of cause UNMAPPED takes a bus error (R169). -/
def State.busError (s : State) (r : MemRes) : State :=
  match r with
  | .refused c => if c = causeUNMAPPED then { s with busErrs := s.busErrs + 1 } else s
  | .ok _ => s

/-- An access of R290 at an address: charged to the partition whose block holds it. -/
def State.markAt (s : State) (a : Nat) : State :=
  match s.ownerOf a with
  | some p => s.markUnplanned p
  | none => s

/-- A write by Ranuat whose refusal is not separately handled (R169, R290). -/
def State.writeQ (s : State) (a : Nat) (bs : List Byte) : State :=
  let (t, r) := (s.markAt a).write a [] bs
  t.busError r

/-- A read by Ranuat (R169, R290). -/
def State.readR (s : State) (a n : Nat) (sym : Syms) : State × MemRes :=
  let (t, r) := (s.markAt a).read a n sym
  (t.busError r, r)

/-! ## Scratchpad (R32: no ECC, not encrypted) -/

def State.spad (s : State) (n a len : Nat) : List Byte := s.bytes (spadAddr n a) len
def State.setSpad (s : State) (n a : Nat) (bs : List Byte) : State := s.setBytes (spadAddr n a) bs

end Sys2Proof.Machine
end

