-- ==== Sys2Proof/Machine/Bounce.lean ====
section
/-! DEFINITION. Bounce records (R354 to R356). -/

namespace Sys2Proof.Machine

/-- The partition moves HOST data as bounce records (R354). -/
def State.bounced (s : State) (p : Nat) : Bool := s.getF F.SEC_PCTL_HMODE p == 2

def State.bounceOf (s : State) (p : Nat) : Bounce := tget Bounce.init s.bounce p
def State.setBounce (s : State) (p : Nat) (b : Bounce) : State := { s with bounce := tset Bounce.init s.bounce p b }

/-- The record header of Table 18-5. -/
def bounceHeader (dir p len seq : Nat) : List Byte :=
  leBytes 1 1 ++ leBytes 1 0 ++ leBytes 1 dir ++ leBytes 1 p ++ leBytes 4 len ++ leBytes 8 seq ++ List.replicate 16 0

/-- SEQ is above the highest accepted, or one of the 64 below it and not yet accepted. -/
def Bounce.fresh (b : Bounce) (seq : Nat) : Bool :=
  decide (b.high ≤ seq) || (decide (b.high ≤ seq + 65) && decide (seq + 1 < b.high) && !b.seen.contains seq)

/-- Accept a SEQ. -/
def Bounce.accept (b : Bounce) (seq : Nat) : Bounce :=
  let high := max b.high (seq + 1)
  { b with high := high, h2d := b.h2d + 1, seen := (seq :: b.seen).filter (fun x => decide (high ≤ x + 65)) }

/-- The initialisation vector of a record (R355): header bytes 2 and 3, two zero bytes, SEQ. -/
def bounceIv (hd : List Byte) : List Byte := slice hd 2 2 ++ [0, 0] ++ slice hd 8 8

/-- A record (R355): header, ciphertext, tag; the header is the additional data. -/
def bounceSeal (key hd bs : List Byte) : List Byte := hd ++ gcmSeal key (bounceIv hd) hd bs

/-- The plaintext of a record of `len` bytes whose tag verifies. -/
def bounceOpen (key : List Byte) (len : Nat) (r : List Byte) : Option (List Byte) :=
  gcmOpen key (bounceIv r) (r.take 32) (slice r 32 len) (r.drop (32 + len))

/-- A host-to-device record of `len` bytes for partition `p`: its plaintext when it is accepted. A header other than the
descriptor's counts in TAG_FAIL, as the additional data it is (DESIGN CHOICE, log entry 36). -/
def State.bounceIn (s : State) (p len : Nat) (h : HostData) : State × Option (List Byte) :=
  let b := s.bounceOf p
  let seq := leAt h.bytes 8 8
  if ¬ h.ok ∨ 2 ^ 40 ≤ b.h2d then (s, none)
  else match if h.bytes.take 32 = bounceHeader 0 p len seq then bounceOpen b.keyIn len h.bytes else none with
    | none => (s.addF F.SEC_PBBSTAT_TAG_FAIL p 1, none)
    | some bs =>
      if ¬ b.fresh seq then (s.addF F.SEC_PBBSTAT_SEQ_FAIL p 1, none)
      else ((s.setBounce p (b.accept seq)).addF F.SEC_PBBSTAT_RECORDS p 1, some bs)

/-- The next device-to-host record of partition `p` (R356): numbered and counted; none without a key or after 2 ^ 40. -/
def State.bounceOut (s : State) (p : Nat) (bs : List Byte) : State × Option (List Byte) :=
  let b := s.bounceOf p
  if 2 ^ 40 ≤ b.d2h ∨ b.keyOut = [] then (s, none)
  else ((s.setBounce p { b with d2h := b.d2h + 1 }).addF F.SEC_PBBSTAT_RECORDS p 1,
    some (bounceSeal b.keyOut (bounceHeader 1 p bs.length b.d2h) bs))

end Sys2Proof.Machine
end

