-- ==== Sys2Proof/Machine/Rings.lean ====
section
/-! DEFINITION. Host rings, control replies and the log (R365 to R369, R373). -/

namespace Sys2Proof.Machine

def State.ring (s : State) (k : Nat) : Ring := tget Ring.init s.rings k
def State.setRing (s : State) (k : Nat) (x : Ring) : State := { s with rings := tset Ring.init s.rings k x }

/-- The ring slice of a partition: the last POOL_MIB MiB of its HBM block (R365). -/
def State.slice (s : State) (p : Nat) : Nat × Nat :=
  let n := s.getF F.SEC_PRING_POOL_MIB p * 2 ^ 20
  match s.hbmBlock p with
  | some (base, size) => (base + size - n, n)
  | none => (0, 0)

/-- Bytes of the PF ring area (R365, R370). -/
def pfArea : Nat := 256 * 1024

/-- Write bytes to the PF ring area. -/
def State.setSram (s : State) (a : Nat) : List Byte → State
  | [] => s
  | b :: t => { s with sram := tset 0 s.sram a b }.setSram (a + 1) t

/-- The address of a ring: an offset of the PF area, or a local address. -/
def State.ringBase (s : State) (r : Ring) : Nat :=
  if r.plan ≠ 0 then r.off else if r.fn = 0 then r.off else (s.slice (r.fn - 1)).1 + r.off

/-- Write into a ring's memory. -/
def State.ringWrite (s : State) (r : Ring) (off : Nat) (bs : List Byte) : State :=
  if r.fn = 0 then s.setSram (r.off + off) bs else s.writeQ (s.ringBase r + off) bs

/-- Rings of a role of a function, by number. -/
def State.ringsOf (s : State) (fn role : Nat) : List Nat :=
  (s.rings.filter (fun e => e.2.fn == fn && e.2.role == role)).map (·.1)

/-- Room on a device-produced ring. -/
def Ring.room (r : Ring) : Nat := 2 ^ r.log2n - (r.tail + 2 ^ 32 - r.head) % 2 ^ 32

/-- In BOUNCE mode an entry of a VF's ring also leaves as a record, where the host wants the next one (R354, R366). -/
def State.ringBounce (s : State) (k : Nat) (bs : List Byte) : State :=
  let r := s.ring k
  let p := r.fn - 1
  if r.fn = 0 ∨ ¬ s.bounced p then s
  else match s.bounceOut p (padTo r.ent bs) with
    | (s, none) => s
    | (s, some rec') =>
      ({ s with hostOut := s.hostOut ++ [(r.bat, rec')] } : State).setRing k { r with bat := r.bat + roundUp (48 + r.ent) 64 }

/-- Write one entry and the new TAIL, then signal the vector (R366). -/
def State.ringPut (s : State) (k : Nat) (bs : List Byte) : State :=
  let s := s.ringBounce k bs
  let r := s.ring k
  let s := s.ringWrite r (64 + r.tail % 2 ^ r.log2n * r.ent) (padTo r.ent bs)
  let t := (r.tail + 1) % 2 ^ 32
  let s := s.ringWrite r 4 (leBytes 4 t)
  { s.setRing k { r with tail := t } with msix := s.msix ++ [(r.fn, r.vector)] }

/-- The lockstep pair writes no ring TAIL after a mismatch or while unverified (R406). -/
def State.pairStopped (s : State) : Bool := s.pairDown

/-- The CTRL_CQ a reply is for. -/
def State.cqOf (s : State) (r : Reply) : Option Nat :=
  match r.cq with
  | some k => if (s.ringsOf r.fn 2).contains k then some k else (s.ringsOf r.fn 2).head?
  | none => (s.ringsOf r.fn 2).head?

/-- Post replies while the CTRL_CQ of each has room; the rest waits. -/
def State.flushReplies (s : State) : List Reply → State
  | [] => s
  | r :: t =>
    match s.cqOf r with
    | some k =>
      if 0 < (s.ring k).room ∧ ¬ s.pairStopped then (s.ringPut k r.bytes).flushReplies t
      else { s with replies := s.replies ++ [r] }.flushReplies t
    | none => { s with replies := s.replies ++ [r] }.flushReplies t

/-- Post a reply after those already waiting (R367, R369). -/
def State.reply (s : State) (fn : Nat) (cq : Option Nat) (bs : List Byte) : State :=
  { s with replies := [] }.flushReplies (s.replies ++ [(⟨fn, cq, padTo 64 bs⟩ : Reply)])

/-- Post whatever waits and now has room. -/
def State.repost (s : State) : State := { s with replies := [] }.flushReplies s.replies

/-- A log entry's bytes (Table 19-6). -/
def LogEntry.bytes (e : LogEntry) : List Byte :=
  padTo 64 (leBytes 1 1 ++ leBytes 1 e.sev ++ leBytes 2 e.code ++ leBytes 1 e.part ++ leBytes 3 0 ++ leBytes 8 e.tb ++
    e.args.flatMap (leBytes 8))

/-- Copy entries to the PF's LOG ring. -/
def State.logPut (s : State) (k : Nat) : List LogEntry → State
  | [] => s
  | e :: t => ((s.ringPut k e.bytes).addF F.CTL_LOG_WRITTEN 0 1).logPut k t

/-- Copy the log buffer to the LOG ring (R373), oldest entries first; what the ring has no room for waits in the buffer. The stopped
lockstep pair writes no ring TAIL (R406). -/
def State.logCopy (s : State) : State :=
  match (s.ringsOf 0 5).head? with
  | some k =>
    if s.pairStopped then s
    else
      let n := (s.ring k).room
      ({ s with log := s.log.drop n }).logPut k (s.log.take n)
  | none => s

/-- Log one event: buffered with the timebase, sent up the controller tree from severity 1 (R413), copied at once at
severity 3 (R373). -/
def State.logEvent (s : State) (sev code part : Nat) (args : List Nat) : State :=
  let s := s.logNote sev code part args
  if sev = 3 then s.logCopy else s

/-- A handover block or a boundary checkpoint (R374): VERSION, IFACE of the image that writes it, length and SHA-384 of the body. -/
def State.handBlock (s : State) : List Byte :=
  let body := Config.handBody s.free s.now
  leBytes 4 1 ++ leBytes 4 s.fw.iface ++ leBytes 4 body.length ++ leBytes 4 0 ++ sha384 body ++ body

/-- Ranuat commits its work of a step boundary: the checkpoint is written before any ring TAIL (R407). -/
def State.commit (s : State) : State := if s.pairStopped then s else { s with ckpt := s.handBlock }

/-- A firmware log entry whose code and severity the spec does not give. -/
def State.logFree (s : State) (part : Nat) (args : List Nat) : State :=
  let (s, v) := s.takeFree
  s.logEvent (v % 4) (v / 4 % 65536) part args

end Sys2Proof.Machine
end

