-- ==== Sys2Proof/Machine/Abort.lean ====
section
/-! DEFINITION. Packets, command faults and aborts: shared operations of many commands (R43, R246, R396, R399). -/

namespace Sys2Proof.Machine

/-! ## Packets (Table 12-2) -/

def ptDATA : Nat := 1
def ptLATCH : Nat := 2
def ptTOKEN : Nat := 3
def ptABORT : Nat := 4
def ptMEM_RD : Nat := 5
def ptMEM_WR : Nat := 6
def ptMEM_RSP : Nat := 7
def ptBEACON : Nat := 8
def ptMGMT : Nat := 9

/-- Flits of a payload (R246). -/
def flitsOf (len : Nat) : Nat := max 1 ((18 + len + 241) / 242)

/-- A packet this package makes: VERSION 1, its own node as SNODE. -/
def State.mkPacket (s : State) (ptype vc dnode dcore arg : Nat) (body : List Byte) (src : Origin) (p : Nat) : Packet :=
  ⟨1, ptype, flitsOf body.length, vc, false, dnode, s.node, 0, dcore, arg, body.length, body, src, p, [], 0⟩

/-- The same on a fanlight tree. -/
def State.mkFan (s : State) (ptype vc tree arg : Nat) (body : List Byte) (src : Origin) (p : Nat) : Packet :=
  ⟨1, ptype, flitsOf body.length, vc, true, 0, s.node, tree, 0, arg, body.length, body, src, p, [], 0⟩

/-- The 18-byte header of Table 12-2. -/
def Packet.header (k : Packet) : List Byte :=
  leBytes 1 k.version ++ leBytes 1 k.ptype ++ leBytes 1 k.flits ++ leBytes 1 (k.vc + 8 * bit k.fan) ++ leBytes 3 k.dnode ++
  leBytes 3 k.snode ++ leBytes 2 k.tree ++ leBytes 1 k.dcore ++ leBytes 3 k.arg ++ leBytes 2 k.len

/-- The flits of a packet (R246). -/
def Packet.cut (k : Packet) : List TxFlit :=
  let bs := k.header ++ k.body
  let n := flitsOf k.len
  (List.range n).map fun i => ⟨0, k.vc, i == 0, i + 1 == n, padTo 242 (bs.drop (242 * i)), k.part, k.ptype, 0⟩

/-- The number of the jamb cycle in which a head flit comes now: above that of every head at the routers. -/
def State.nextCycle (s : State) : Nat := (s.rq.map (·.cycle)).foldl max 0 + 1

/-- Give a packet of a core or unit to the package's routers, whole: it comes by the hinge of the jamb that its lookup names (R266). -/
def State.inject (s : State) (k : Packet) : State :=
  { s with rq := s.rq ++ [⟨k, k.vc, k.cut, 0, false, [], false, 0, s.nextCycle, 0, 0, true, none⟩] }

/-- A planned packet of VC0, VC1, or a VC2 packet other than ABORT: what the quiet period discards (Table 21-4). -/
def Packet.quiet (k : Packet) : Bool := decide (k.vc ≤ 1) || (k.vc == 2 && k.ptype != ptABORT)

/-! ## Command faults (R43, Table 2-5) -/

/-- Record a fault in CORE_FAULT: the first while VALID is 0, OVERFLOW otherwise. FAULTED says that the record is of this
step (Table 2-9). -/
def State.recordFault (s : State) (n seq eng code : Nat) : State :=
  if s.flag F.CORE_FAULT_VALID n then s.setF F.CORE_FAULT_OVERFLOW n 1
  else s.setFs n [(F.CORE_FAULT_SEQ, seq), (F.CORE_FAULT_ENGINE, eng), (F.CORE_FAULT_CODE, code), (F.CORE_FAULT_VALID, 1),
    (F.CORE_STATUS_FAULTED, 1)]

/-- Drop queued commands, tiles and accumulators of a stopped core (Table 21-4, stage 1). -/
def Core.drop (c : Core) : Core :=
  { c with held := false, ending := false, load := [], matrix := [], vector := [], store := [], send := [],
           acc := [], active := none, shadow := none, blocks := [] }

/-- Stage 1 at one bound core: a core with no fault of its own records ABORTED and loses its store buffer (R43, Table
2-6). -/
def State.abortCore (s : State) (n : Nat) : State :=
  let c := s.core n
  match c.stop with
  | some _ => s.setCore n c.drop
  | none =>
    let s := s.recordFault n c.seq 5 fcABORTED
    let s := s.setFs n [(F.CORE_DRAIN_LAST_SEQ, c.lastTaken), (F.CORE_DRAIN_DISCARDED, c.sb.length), (F.CORE_DRAIN_DRAINED, 0)]
    s.setCore n { c.drop with stop := some c.seq, sb := [] }

/-- A partition owns a context. -/
def State.ownsT (s : State) (p c : Nat) : Bool := s.getF F.LATCH_TCTX_OWNER c == p
def State.ownsS (s : State) (p c : Nat) : Bool := s.getF F.LATCH_SCTX_OWNER c == p

/-- Stage 2: every open generation of the partition's contexts is cleared (Table 21-4). -/
def State.clearThresholds (s : State) (p : Nat) : State :=
  let s := (List.range 8).foldl (fun s c => if s.ownsT p c then s.setTctx c Ctx.init else s) s
  let s := (List.range 32).foldl (fun s c => if s.ownsS p c then s.setSctx c Ctx.init else s) s
  { s with arrivals := s.arrivals.filter (fun a => s.partOf a.core != p) }

/-- The hold of a partition ends: its time is added (Table 6-11). -/
def State.endHold (s : State) (p : Nat) : State :=
  match (s.part p).holdSince with
  | none => s
  | some t =>
    (s.setF F.BEAT_HOLD_HOLD_NS p (satAdd 48 (s.getF F.BEAT_HOLD_HOLD_NS p) (s.now - t))).modPart p
      (fun x => { x with holdSince := none })

/-- Lost bank cycles are counted on a core in a step (R34). LOST_BEAT holds its maximum, as the table says of LOST_STEP (DESIGN
CHOICE, log entry 76). -/
def State.countLost (s : State) (n lost : Nat) : State :=
  (s.addF F.CORE_CONFLICT_LOST_BEAT n lost).addF F.CORE_CONFLICT_LOST_STEP n lost

/-- Lost cycles of several cores, as (core, cycles): those of cores in a step count. -/
def State.countLosses (s : State) (l : List (Nat × Nat)) : State :=
  l.foldl (fun s x => if s.coreIn x.1 then s.countLost x.1 x.2 else s) s

/-- The lost cycles of a beat that an abort ends at a core in the step, which no other event has counted: a free value (R34; log
entry 77). -/
def State.loseOpen (s : State) (n : Nat) : State :=
  if s.coreIn n then
    let (s, v) := s.takeFree
    s.countLost n v
  else s

/-- Nothing of the packet has left on any output. -/
def Worm.unsent (w : Worm) : Bool := w.outs.all (fun b => b.sent == 0)

/-- A planned packet of `p` whose head flit still waits at the routers: the quiet period discards it. -/
def Worm.purged (w : Worm) (p : Nat) : Bool := w.pkt.part == p && w.pkt.quiet && w.unsent

/-- Discard what waits of partition `p` (Table 21-4, stage 3): packets at the routers are gone, or lose their outputs while the rest of
their flits comes, and what has landed on the package is dropped. -/
def State.purge (s : State) (p : Nat) : State :=
  let gone := fun (w : Worm) => w.purged p && (w.flits.length == w.pkt.flits || w.flits == [])
  { s with
    rq := (s.rq.filter (fun w => !gone w)).map (fun w => if w.purged p then { w with seen := true, outs := [], here := false } else w)
    inbox := s.inbox.filter (fun k => !(k.part == p && k.quiet)) }

/-- The abort actions at this package, stages 1 and 2, and the start of the quiet period (R399); `status` is what the
STEP_DONE of the attempt will report (R400). -/
def State.abortApply (s : State) (p status : Nat) : State :=
  let s := s.endHold p
  let s := (s.members p).foldl State.loseOpen s
  let s := (s.members p).foldl State.abortCore s
  let s := s.clearThresholds p
  let s := s.setFs p [(F.CTL_ABORT_QUIET, 1), (F.LATCH_START_WAITING, 0)]
  (s.modPart p (fun x =>
    { x with running := false, startT := none, aborted := true, late := false, quietAt := s.now, pendDone := true, status := status })).purge p

/-- The abort of the step that ended last, from stage 3 on (R398): its STEP_DONE stays as posted. -/
def State.lateAbort (s : State) (p : Nat) : State :=
  let s := s.setFs p [(F.CTL_ABORT_LATE, 1), (F.CTL_ABORT_QUIET, 1)]
  (s.modPart p (fun x =>
    { x with prevAborted := true, quietAt := s.now, late := x.late || x.started, aborted := x.aborted || !x.started
             pendDone := x.pendDone && x.started })).purge p

/-- The ABORT body (Table 21-2). -/
def State.abortBody (s : State) (p cause detail : Nat) : List Byte :=
  let c := (s.startCtx p).getD 0
  leBytes 1 1 ++ leBytes 1 cause ++ leBytes 1 detail ++ leBytes 1 0 ++ leBytes 2 (s.getF F.LATCH_SCTX_TREE c) ++
  leBytes 1 c ++ leBytes 1 0 ++ leBytes 8 (s.getF F.CTL_PCDIG_DIGEST p) ++ leBytes 8 s.now ++ leBytes 3 s.node ++
  leBytes 1 0 ++ leBytes 4 (s.part p).stepNo

/-- A partition has a step that an abort can stop: it has arrived at its start context, or runs. -/
def State.stepActive (s : State) (p : Nat) : Bool := (s.part p).started && !(s.part p).aborted

/-- Record an abort in CTL_ABORTp. -/
def State.recordAbort (s : State) (p node cause detail : Nat) : State :=
  s.setFs p [(F.CTL_ABORT_NODE, node), (F.CTL_ABORT_CAUSE, cause), (F.CTL_ABORT_DETAIL, detail), (F.CTL_ABORT_VALID, 1)]

/-- Send one ABORT packet on the tree of the start context (R396). -/
def State.sendAbort (s : State) (p cause detail : Nat) : State :=
  match s.startCtx p with
  | none => s
  | some c => s.inject (s.mkFan ptABORT 2 (s.getF F.LATCH_SCTX_TREE c) 0 (s.abortBody p cause detail) .unit p)

/-- A cause that a package meets in planned traffic, which may be of a step that has ended here and that others still run. -/
def lateCause (cause : Nat) : Bool := decide (4 ≤ cause) && decide (cause ≤ 7)

/-- No step has arrived, and the one that ended last was not aborted here. -/
def State.lateOpen (s : State) (p : Nat) : Bool :=
  !(s.part p).started && !(s.part p).prevAborted && (s.part p).prevNo.isSome

/-- The originator's abort of a partition's step (R396): recorded, sent on the tree, applied here, logged. Without an active step a
cause met in planned traffic aborts the step that ended last (R398: LATE; DEDUCED, log entry 22), and any other has nothing to abort. -/
def State.abortStep (s : State) (p cause detail : Nat) : State :=
  let s := s.addF F.CTL_ABORT_COUNT p 1
  if s.stepActive p then
    let s := s.recordAbort p s.node cause detail
    let s := s.sendAbort p cause detail
    let s := s.abortApply p (cause * 256 + detail)
    s.logEvent 2 0x0100 p [s.rdReg .CTL_ABORT p, (s.part p).stepNo]
  else if lateCause cause && s.lateOpen p then
    let s := ((s.recordAbort p s.node cause detail).sendAbort p cause detail).lateAbort p
    s.logEvent 2 0x0100 p [s.rdReg .CTL_ABORT p, (s.part p).stepNo]
  else s

/-- A command fault of unit `eng` of core `n` at sequence number `seq` (R43). LAST_SEQ is 0 where no granule of the step reached
memory (DESIGN CHOICE, log entry 76: the spec gives no value). -/
def State.coreFault (s : State) (n seq eng code : Nat) : State :=
  let c := s.core n
  let s := s.recordFault n seq eng code
  let keep := c.sb.filter (fun e => e.seq < seq)
  let s := s.setFs n [(F.CORE_DRAIN_LAST_SEQ, c.lastTaken), (F.CORE_DRAIN_DISCARDED, c.sb.length - keep.length),
    (F.CORE_DRAIN_DRAINED, 0)]
  let s := s.setCore n { c with stop := some seq, sb := keep }
  s.abortStep (s.partOf n) 1 code

end Sys2Proof.Machine
end

