-- ==== Sys2Proof/Machine/Engine.lean ====
section
/-! DEFINITION. The engines of a core: which command may start, its checks, predicates, signals, the store buffer, hold,
and completion (R22 to R44, R58 to R67). -/

namespace Sys2Proof.Machine

/-- Every WAIT clause of a command is met (R29). -/
def State.waitsMet (s : State) (n : Nat) (c : Cmd) : Bool := (waits c).all (fun w => decide (w.2 ≤ s.latch n w.1))

/-- A predicated command is skipped (R63). -/
def Core.skips (k : Core) (c : Cmd) : Bool := hPen c == 1 && bit (bitAt k.preds (hPsel c)) != hPpol c

/-- The effect of the SIGNAL clauses that target the issuing core (R60). -/
def State.signal (s : State) (n : Nat) (c : Cmd) : State :=
  (localSignals c).foldl (fun s w => s.addLatch n w.1 w.2) s

/-- The first command of a queue that has not started. -/
def nextEntry (q : List QEntry) : Option QEntry := q.find? (fun e => !e.started)

/-- A command of sequence number `seq` may still start on its core (R43). -/
def Core.live (k : Core) (seq : Nat) : Bool :=
  match k.stop with
  | none => true
  | some t => decide (seq < t)

/-- The head command an engine may start now: the step runs on the core, its beat is open to the engine (R27), commands
of earlier beats of the same engine have completed (R28; not asked of LOAD), VECTOR runs one at a time (R97), and its
WAIT clauses are met. -/
def State.startable (s : State) (n eng : Nat) : Option QEntry :=
  let k := s.core n
  let b := (s.part (s.partOf n)).beat
  match nextEntry (k.queue eng) with
  | none => none
  | some e =>
    if s.coreRuns n && k.live e.seq &&
       (eng != 2 || (k.queue eng).all (fun f => !f.started)) &&
       (if eng = 0 then decide (e.beat ≤ b + 2)
        else decide (e.beat ≤ b) && (k.queue eng).all (fun f => !f.started || decide (e.beat ≤ f.beat))) &&
       s.waitsMet n e.cmd
    then some e else none

/-- The head command an engine may start now, when it is the named operation. -/
def State.startableOp (s : State) (n eng : Nat) (op : Op) : Option QEntry :=
  match s.startable n eng with
  | some e => if opOf (hEngine e.cmd) (hOpcode e.cmd) = some op then some e else none
  | none => none

/-- Replace a queue entry, found by its sequence number. -/
def Core.putEntry (k : Core) (eng : Nat) (e : QEntry) : Core :=
  k.setQueue eng ((k.queue eng).map (fun f => if f.seq = e.seq then e else f))

/-- Mark a queue entry. -/
def State.putEntry (s : State) (n eng : Nat) (e : QEntry) : State := s.modCore n (·.putEntry eng e)

/-- The plan a core is bound to: the plan its partition runs. -/
def State.planOfCore (s : State) (n : Nat) : Plan := s.runPlan (s.partOf n)

/-- The environment of the static checks at run time (R74, R75): the node map and the fanlight entries. -/
def State.checkEnv (s : State) (n : Nat) (c : Cmd) : CheckEnv :=
  let b := if hFormat c = 6 then cbytes c 50 8 else cbytes c 16 8
  ⟨(s.planOfCore n).nodeMap.length,
   if s.flag F.FAN_CFG_VALID (dbTree b) && s.getF F.FAN_CFG_OWNER (dbTree b) == s.partOf n then [dbTree b] else []⟩

/-- Step parameter `k` of a core (R58). -/
def Core.param (k : Core) (i : Nat) : Nat := tget 0 k.params i

/-- The effective address of a memory operand (R55). -/
def Core.effective (k : Core) (c : Cmd) (base : Nat) : Nat :=
  if mPadd c then base + k.param (mPidx c) * 2 ^ mPshift c else base

/-! ## The store buffer (R42, R72, R73) -/

/-- Place granules of one command while the store buffer has room: the bytes are read from scratchpad as they are
placed. -/
def fillSb (s : State) (n seq : Nat) : List Todo → List SbEntry → List SbEntry × List Todo
  | [], sb => (sb, [])
  | t :: ts, sb =>
    if sb.length < 128 then fillSb s n seq ts (sb ++ [⟨seq, t.kind, s.spad n t.src t.len⟩]) else (sb, t :: ts)

/-- One started command of STORE or SEND places what it can. -/
def State.fillEntry (s : State) (n eng : Nat) (e : QEntry) : State :=
  let k := s.core n
  let (sb, rest) := fillSb s n e.seq e.todo k.sb
  s.setCore n ({ k with sb := sb }.putEntry eng { e with todo := rest })

/-- Started commands of STORE and SEND place granules in queue order. Where both engines wait for room, STORE's granules go
first (DESIGN CHOICE, log entry 68: the spec gives no order between the engines). -/
def State.refill (s : State) (n : Nat) : State :=
  let k := s.core n
  let s := (k.store.filter (fun e => e.started && e.todo != [] && k.live e.seq)).foldl (fun s e => s.fillEntry n 3 e) s
  (k.send.filter (fun e => e.started && e.todo != [] && k.live e.seq)).foldl (fun s e => s.fillEntry n 4 e) s

/-- The remote latch writes of a command for its destination block, as work for the store buffer. -/
def latchTodos (c : Cmd) (block : Nat) : List Todo := (remoteSignals c).map (fun w => ⟨.latch block w.1 w.2, 0, 0⟩)

/-! ## Starting a command -/

/-- A skipped command waits, completes, signals and sends its remote latch writes, and nothing else (R64). -/
def State.startSkipped (s : State) (n eng : Nat) (e : QEntry) : State :=
  let op := opOf (hEngine e.cmd) (hOpcode e.cmd)
  let block := if op = some .sdData then cbytes e.cmd 50 8 else cbytes e.cmd 16 8
  let todo := if op = some .sdData ∨ op = some .sdLatch then latchTodos e.cmd block else []
  let e := { e with started := true, skipped := true, todo := todo }
  (s.putEntry n eng e).refill n

/-- What every engine command does at its start (R25, R48, R64, R434): nothing when it is not the head command that may
start; skipped by its predicate; faulted by the first failing check of its own bytes; or run by `body`. -/
def State.runHead (s : State) (n eng : Nat) (op : Op) (body : State → QEntry → Out) : Out :=
  match s.startableOp n eng op with
  | none => .next s
  | some e =>
    if (s.core n).skips e.cmd then .next (s.startSkipped n eng e)
    else
      let f := operandCheck (s.checkEnv n e.cmd) op e.cmd
      if f ≠ 0 then .next (s.coreFault n e.seq eng f) else body s e

/-- Mark the command started with nothing outstanding. -/
def State.markStarted (s : State) (n eng : Nat) (e : QEntry) : State := s.putEntry n eng { e with started := true }

/-! ## Hold (R39) -/

/-- A queued command counts as variable (R38, R72): the flag, every LOAD command but NOP, an acknowledged or board-wide
ST_COPY. -/
def isVariable (c : Cmd) : Bool :=
  hVar c == 1 ||
  match opOf (hEngine c) (hOpcode c) with
  | some .ldCopy => true
  | some .ldPgather => true
  | some .stCopy => hAck c == 1 || mBoard c
  | _ => false

/-- Every participating core has dispatched its marker of beat `b` (R37); a core of a stopped pane counts as not having
dispatched it (R213). -/
def State.markersIn (s : State) (p b : Nat) : Bool := (s.members p).all (fun n => s.paneUp n && decide (b < (s.core n).beat))

/-- A variable command of beat `b` has not completed. -/
def State.varOpen (s : State) (p b : Nat) : Bool :=
  (s.members p).any (fun n => (s.core n).entries.any (fun e => decide (e.beat ≤ b) && isVariable e.cmd))

/-- The partition is in hold (R39). -/
def State.inHold (s : State) (p : Nat) : Bool :=
  let x := s.part p
  x.running && s.markersIn p x.beat && s.varOpen p x.beat

/-- Start or end the hold of a partition after an event of one of its cores (Table 6-11). A hold that ends with every marker in
was ended by the completion of a variable command (R182). -/
def State.updateHold (s : State) (p : Nat) : State :=
  let x := s.part p
  let was := x.holdSince.isSome
  if s.inHold p then
    match x.holdSince with
    | some _ => s
    | none => (s.addF F.BEAT_HOLD_HOLDS p 1).modPart p (fun x => { x with holdSince := some s.now })
  else
    let done := s.markersIn p x.beat
    (s.endHold p).modPart p (fun x => { x with varLast := done && (x.varLast || was) })

/-! ## Completion -/

/-- A STEP_END completes when every command of the core has completed and the store buffer is empty (R24); its SIGNAL
clauses then apply (R79). The command is the last one read. -/
def State.tryStepEnd (s : State) (n : Nat) : State :=
  let k := s.core n
  if k.ending && !k.ended && k.entries.isEmpty && k.sb.isEmpty then
    let sig := match k.blocks.find? (fun b => b.idx == (k.seq - 1) / 64) with
      | some b => b.cmds[(k.seq - 1) % 64]?
      | none => none
    let s := s.setCore n { k with ended := true }
    match sig with
    | some c => s.signal n c
    | none => s
  else s

/-- The started head command of an engine has nothing outstanding: it may complete (R71 to R78). -/
def Core.finished (k : Core) (e : QEntry) : Bool :=
  e.started && e.pieces.all (·.arrived) && e.todo.isEmpty && e.acks == 0 && k.sb.all (fun g => g.seq != e.seq)

/-- Every operand of a command names a core and an engine. -/
def unitOk (n eng : Nat) : Bool := decide (n < 256) && decide (eng ≤ 5)

end Sys2Proof.Machine
end

