-- ==== Sys2Proof/Machine/Load.lean ====
section
/-! DEFINITION. The LOAD engine: LD_COPY (R71), LD_PGATHER (R110, R111) and the arrival of their pieces. -/

namespace Sys2Proof.Machine

/-- Cut one run of `len` bytes at the 256-byte lines of its scratchpad side (a piece, Table 3-7). -/
def cutRun (src dst len : Nat) (remote : Bool) : Nat → List Piece
  | 0 => []
  | fuel + 1 =>
    if len = 0 then []
    else
      let k := min len (256 - dst % 256)
      ⟨src, dst, k, remote, false⟩ :: cutRun (src + k) (dst + k) (len - k) remote fuel

/-- The pieces of one run. -/
def runPieces (src dst len : Nat) (remote : Bool) : List Piece := cutRun src dst len remote (len / 256 + 2)

/-- A board address served by another package (R56): the slot, when it is not this package's own. -/
def State.remoteSlot (s : State) (c : Cmd) : Option Nat :=
  if mBoard c ∧ mSlot c ≠ s.getF F.RTE_SELF_SLOT 0 then some (mSlot c) else none

/-- An access to this address is refused with cause UNMAPPED (R169, R170): nothing is there, no enabled block holds it, or it
lies in the window of a running core. -/
def State.unmapped (s : State) (a : Nat) : Bool :=
  match s.place a with
  | .unmapped => true
  | .hbm => (s.ownerOf a).isNone
  | .cellar => (s.ownerOf a).isNone
  | .window n _ => s.coreIn n
  | .register => false

/-- The addresses at which a range from `lo` may first meet an unmapped byte: its start and the ends of what is mapped. -/
def State.edges (s : State) (lo : Nat) : List Nat :=
  let ends := (List.range 16).flatMap (fun p => [s.hbmBlock p, s.cellarBlock p].filterMap (fun b => b.map (fun x => x.1 + x.2)))
  lo :: (lo / windowStride * windowStride + spadSize) :: ends

/-- Record a refused range (R57, R169): UNMAPPED at its first byte that is unmapped. -/
def State.rangeRefused (s : State) (lo hi : Int) : State :=
  let bad := (s.edges lo.toNat).filter (fun (a : Nat) => decide (lo ≤ (a : Int)) && decide ((a : Int) ≤ hi) && s.unmapped a)
  match bad with
  | [] => s
  | a :: t => s.memErr causeUNMAPPED (t.foldl min a)

/-- The run-time checks of a memory operand (R434 items 15 and 16): 0, or the failing code. For a board address the extent must
stay between local address 0 of the slot (DEDUCED, log entry 68: R57 gives this end for local operands only) and the windows
(R171). -/
def State.memCheck (s : State) (n : Nat) (c : Cmd) (eff : Nat) (lo hi : Int) : Nat :=
  if mPadd c ∧ eff % 64 ≠ 0 then fcALIGN
  else if 2 ^ 48 ≤ eff then fcMEM_RANGE
  else if (s.remoteSlot c).isSome then (if lo < 0 ∨ (windowBase : Int) ≤ hi then fcMEM_RANGE else 0)
  else if lo < 0 ∨ ¬ s.ownsRange (s.partOf n) lo.toNat hi.toNat then fcMEM_RANGE else 0

/-- The 16-byte request block of Table 12-4. -/
def reqBlock (addr part status tag rlen : Nat) : List Byte :=
  leBytes 6 addr ++ leBytes 1 part ++ leBytes 1 status ++ leBytes 2 tag ++ leBytes 2 rlen ++ leBytes 4 0

/-- The node of a board slot (RTE_SLOTn). Its VALID is not looked at (DESIGN CHOICE, log entry 68: no rule says what a command
that names an empty slot does). -/
def State.slotNode (s : State) (k : Nat) : Nat := s.getF F.RTE_SLOT_NODE k

/-- Remember a requester under the next TAG. -/
def State.newTag (s : State) (r : Requester) : State × Nat :=
  ({ s with tags := s.tags ++ [(s.nextTag, r)], nextTag := s.nextTag + 1 }, s.nextTag)

/-- Send the read requests of remote pieces on VC0 (R56, R248, R271). -/
def State.requestPieces (s : State) (n seq slot : Nat) : List Piece → Nat → State
  | [], _ => s
  | p :: t, i =>
    let (s, tag) := s.newTag (.load n seq i)
    let s := s.inject (s.mkPacket ptMEM_RD 0 (s.slotNode slot) 0 0
      (reqBlock p.src (s.partOf n) 0 (tag % 65536) p.len) (.core n) (s.partOf n))
    s.requestPieces n seq slot t (i + 1)

/-- LD_COPY (R71): at its start the run-time checks, then one read per piece. -/
def execLdCopy (core : Nat) (s : State) : Out :=
  if ¬ unitOk core 0 then .fault .noSuchUnit
  else s.runHead core 0 .ldCopy fun s e =>
    let c := e.cmd
    let sh := shapeOf c
    let md := memDesc c 24
    let sd := spadDesc c 39
    let eff := (s.core core).effective c md.base
    let (lo, hi) := md.extent eff sh sh.d0
    let f := s.memCheck core c eff lo hi
    if f ≠ 0 then
      let s := if f = fcMEM_RANGE ∧ (s.remoteSlot c).isNone ∧ eff < 2 ^ 48 then s.rangeRefused lo hi else s
      .next (s.coreFault core e.seq 0 f)
    else
      let remote := s.remoteSlot c
      let ps := sh.rows.flatMap fun r =>
        runPieces (md.row eff r).toNat (sd.row sd.base r).toNat sh.d0 remote.isSome
      let s := s.putEntry core 0 { e with started := true, pieces := ps }
      match remote with
      | some slot => .next (s.requestPieces core e.seq slot ps 0)
      | none => .next s

/-- The page of token `t`, and its row in the page (R110). -/
def State.pageEntry (s : State) (n : Nat) (c : Cmd) (i2 : Nat) : Nat := leNat (s.spad n (pgPt c + 4 * i2) 4)

/-- Tokens of page `i2` that are read. -/
def pageTokens (c : Cmd) (i2 : Nat) : Nat := min (shapeOf c).d1 (pgTokens c - i2 * (shapeOf c).d1)

/-- The base address of a page frame. -/
def State.frame (s : State) (n : Nat) (c : Cmd) (eff i2 : Nat) : Nat :=
  eff + bitsOf (s.pageEntry n c i2) 0 24 * 2 ^ pgShift c

/-- PAGE_INVALID, then MEM_RANGE of the needed pages in ascending order (R111, R434 item 17). Of a page frame the rows that are
read are checked (DEDUCED, log entry 68). -/
def State.pageCheck (s : State) (n : Nat) (c : Cmd) (eff : Nat) : Nat × Option (Int × Int) :=
  let pages := (List.range (shapeOf c).d2).filter (fun i => decide (0 < pageTokens c i))
  if pages.any (fun i => !bitAt (s.pageEntry n c i) 31) then (fcPAGE_INVALID, none)
  else
    let ext := fun i => (memDesc c 24).extent (s.frame n c eff i) ⟨(shapeOf c).d0, pageTokens c i, 1, 1⟩ (shapeOf c).d0
    match pages.find? (fun i => decide ((ext i).1 < 0) || !s.ownsRange (s.partOf n) (ext i).1.toNat (ext i).2.toNat) with
    | some i => (fcMEM_RANGE, some (ext i))
    | none => (0, none)

/-- Write the zero-filled rows of a gather. -/
def State.zeroRows (s : State) (n : Nat) (ps : List Piece) : State :=
  (ps.filter (·.arrived)).foldl (fun s p => s.setSpad n p.dst (List.replicate p.len 0)) s

/-- LD_PGATHER (R110, R111). The zero-filled rows are written at the start, before any piece that is read arrives (DESIGN CHOICE, log
entry 76: the spec gives no order among them). -/
def execLdPgather (core : Nat) (s : State) : Out :=
  if ¬ unitOk core 0 then .fault .noSuchUnit
  else s.runHead core 0 .ldPgather fun s e =>
    let c := e.cmd
    let sh := shapeOf c
    let md := memDesc c 24
    let sd := spadDesc c 39
    let eff := (s.core core).effective c md.base
    if mPadd c ∧ eff % 64 ≠ 0 then .next (s.coreFault core e.seq 0 fcALIGN)
    else if 2 ^ 48 ≤ eff then .next (s.coreFault core e.seq 0 fcMEM_RANGE)
    else
      match s.pageCheck core c eff with
      | (0, _) =>
        let ps := sh.rows.flatMap fun r =>
          let dst := (sd.row sd.base r).toNat
          if r.2.1 * sh.d1 + r.1 < pgTokens c then
            runPieces ((s.frame core c eff r.2.1 : Int) + r.1 * md.s1).toNat dst sh.d0 false
          else (runPieces 0 dst sh.d0 false).map (fun p => { p with arrived := true })
        let s := s.zeroRows core ps
        .next (s.putEntry core 0 { e with started := true, pieces := ps })
      | (f, r) =>
        let s := match r with
          | some (lo, hi) => s.rangeRefused lo hi
          | none => s
        .next (s.coreFault core e.seq 0 f)

/-- Write the bytes of piece `i` but those a later piece has already written (R54). -/
def State.landPiece (s : State) (n : Nat) (ps : List Piece) (i dst : Nat) : List Byte → State
  | [] => s
  | b :: t =>
    let covered := (ps.drop (i + 1)).any (fun q => q.arrived && decide (q.dst ≤ dst) && decide (dst < q.dst + q.len))
    (if covered then s else s.setByte (spadAddr n dst) b).landPiece n ps i (dst + 1) t

/-- The entry and piece a read answers, while it is outstanding. -/
def Core.pieceOf (k : Core) (seq i : Nat) : Option (QEntry × Piece) :=
  match k.load.find? (fun e => e.seq == seq && e.started) with
  | none => none
  | some e =>
    match e.pieces[i]? with
    | some p => if p.arrived then none else some (e, p)
    | none => none

/-- The data of a piece lands in scratchpad. -/
def State.arrivePiece (s : State) (n : Nat) (e : QEntry) (i : Nat) (p : Piece) (bs : List Byte) : State :=
  let s := s.landPiece n e.pieces i p.dst bs
  s.putEntry n 0 { e with pieces := e.pieces.set i { p with arrived := true } }

/-- LOAD_PIECE_ARRIVE (R71): one piece of a started LOAD returns from memory and is written; an error faults the
command (R185). Nothing arrives while the pane is stopped (R213). -/
def execLoadPieceArrive (core seq piece : Nat) (sym : Syms) (s : State) : Out :=
  if ¬ unitOk core 0 then .fault .noSuchUnit
  else
    match (s.core core).pieceOf seq piece with
    | none => .next s
    | some (e, p) =>
      if p.remote ∨ ¬ (s.core core).live seq ∨ ¬ s.paneUp core then .next s
      else
        match s.read p.src p.len sym with
        | (s, .ok bs) => .next (s.arrivePiece core e piece p bs)
        | (s, .refused c) =>
          .next (s.coreFault core seq 0 (if c = causeUNMAPPED then fcMEM_RANGE else fcMEM_UNCORR))

end Sys2Proof.Machine
end

