-- ==== Sys2Proof/Machine/StoreSend.lean ====
section
/-! DEFINITION. The STORE and SEND engines: ST_COPY (R72), SD_DATA (R73), SD_LATCH (R77), SD_ARRIVE (R78), the pane port
that takes granules (R42 to R44) and the acknowledgement of a store (R72). -/

namespace Sys2Proof.Machine

/-- The 64-byte granules of one run. -/
def runTodos (kind : Nat → SbKind) (src len : Nat) : List Todo :=
  (List.range (len / 64)).map (fun i => ⟨kind (64 * i), src + 64 * i, 64⟩)

/-- ST_COPY (R72): at its start the run-time checks, then granules for memory in walk order. A store with BOARD set runs
as acknowledged whatever ACK is. -/
def execStCopy (core : Nat) (s : State) : Out :=
  if ¬ unitOk core 3 then .fault .noSuchUnit
  else s.runHead core 3 .stCopy fun s e =>
    let c := e.cmd
    let sh := shapeOf c
    let md := memDesc c 24
    let sd := spadDesc c 39
    let eff := (s.core core).effective c md.base
    let (lo, hi) := md.extent eff sh sh.d0
    let f := s.memCheck core c eff lo hi
    if f ≠ 0 then
      let s := if f = fcMEM_RANGE ∧ (s.remoteSlot c).isNone ∧ eff < 2 ^ 48 then s.rangeRefused lo hi else s
      .next (s.coreFault core e.seq 3 f)
    else
      let board := s.remoteSlot c
      let ack := hAck c == 1 || mBoard c
      let todo := sh.rows.flatMap fun r =>
        runTodos (fun o => .store ((md.row eff r).toNat + o) board ack) (sd.row sd.base r).toNat sh.d0
      .next ((s.putEntry core 3 { e with started := true, todo := todo }).refill core)

/-- SD_DATA (R73 to R76): the data granules in walk order, then one latch write per used remote SIGNAL clause. -/
def execSdData (core : Nat) (s : State) : Out :=
  if ¬ unitOk core 4 then .fault .noSuchUnit
  else s.runHead core 4 .sdData fun s e =>
    let c := e.cmd
    let sh := shapeOf c
    let a := spadDesc c 24
    let b := spadDesc c 37
    let blk := cbytes c 50 8
    let data := sh.rows.flatMap fun r =>
      runTodos (fun o => .data blk ((b.row b.base r).toNat + o)) (a.row a.base r).toNat sh.d0
    .next ((s.putEntry core 4 { e with started := true, todo := data ++ latchTodos c blk }).refill core)

/-- SD_LATCH (R77): one latch write per used remote SIGNAL clause, and no data. -/
def execSdLatch (core : Nat) (s : State) : Out :=
  if ¬ unitOk core 4 then .fault .noSuchUnit
  else s.runHead core 4 .sdLatch fun s e =>
    .next ((s.putEntry core 4 { e with started := true, todo := latchTodos e.cmd (cbytes e.cmd 16 8) }).refill core)

/-- The SD_ARRIVE operand (Table 3-10) as an arrival of core `n`. -/
def arrivalOf (n : Nat) (c : Cmd) : Arrival :=
  let w := cbytes c 16 8
  ⟨n, bitAt w 5, bitsOf w 0 5, bitsOf w 8 6, bitsOf w 16 8⟩

/-- Arrivals of a core at a context whose generations have not completed: counted and on their way (R141). -/
def State.outstanding (s : State) (a : Arrival) : Nat :=
  let x := if a.sys then s.sctxOf a.ctx else s.tctxOf a.ctx
  let gen := if a.sys then s.getF F.LATCH_SCTX_GEN a.ctx else s.getF F.LATCH_TCTX_GEN a.ctx
  (tget 0 x.counts a.core - gen) +
    (s.arrivals.filter (fun b => b.core == a.core && b.sys == a.sys && b.ctx == a.ctx)).length

/-- SD_ARRIVE (R78, R141): the token leaves the core; the token of a fifth outstanding arrival waits in the engine. -/
def execSdArrive (core : Nat) (s : State) : Out :=
  if ¬ unitOk core 4 then .fault .noSuchUnit
  else s.runHead core 4 .sdArrive fun s e =>
    let a := arrivalOf core e.cmd
    if 4 ≤ s.outstanding a then .next s
    else
      let s := s.markStarted core 4 e
      .next { s with arrivals := s.arrivals ++ [a] }

/-- The packet of a granule for a destination block (R74, R75, R247). -/
def State.blockPacket (s : State) (n blk ptype arg : Nat) (body : List Byte) : Packet :=
  let p := s.partOf n
  if dbFan blk then s.mkFan ptype 0 (dbTree blk) arg body (.core n) p
  else s.mkPacket ptype 0 ((s.planOfCore n).nodeMap.getD (dbNode blk) 0) (dbCore blk) arg body (.core n) p

/-- One more acknowledgement is awaited by a store command. -/
def State.awaitAck (s : State) (n seq : Nat) : State :=
  s.modCore n (fun k => { k with store := k.store.map (fun e => if e.seq = seq then { e with acks := e.acks + 1 } else e) })

/-- One granule reaches its destination: local memory, another package's memory, or the routers. -/
def State.takeGranule (s : State) (n : Nat) (g : SbEntry) : State :=
  match g.kind with
  | .store dst none ack =>
    let s := (s.write dst [] g.bytes).1
    if ack then s.awaitAck n g.seq else s
  | .store dst (some slot) _ =>
    let (s, tag) := s.newTag (.store n g.seq)
    let s := s.awaitAck n g.seq
    s.inject (s.mkPacket ptMEM_WR 0 (s.slotNode slot) 0 0
      (reqBlock dst (s.partOf n) 0 (tag % 65536) 0 ++ g.bytes) (.core n) (s.partOf n))
  | .data blk addr =>
    if (s.part (s.partOf n)).quieting then s else s.inject (s.blockPacket n blk ptDATA addr g.bytes)
  | .latch blk l inc =>
    if (s.part (s.partOf n)).quieting then s else s.inject (s.blockPacket n blk ptLATCH (l + 64 * inc) [])

/-- The granule is memory's: its sequence number counts for CORE_DRAIN.LAST_SEQ. -/
def SbEntry.toMem (g : SbEntry) : Bool :=
  match g.kind with
  | .store _ _ _ => true
  | _ => false

/-- GRANULE_TAKEN (R42, R43): the pane port, while its pane runs (R212), takes the oldest granule whole; a stopped core counts
it in CORE_DRAIN.DRAINED. The freed entry takes the next granule that waits, and a STEP_END may complete (R24). -/
def execGranuleTaken (core : Nat) (s : State) : Out :=
  if ¬ unitOk core 3 then .fault .noSuchUnit
  else
    let k := s.core core
    match k.sb with
    | [] => .next s
    | g :: rest =>
      if ¬ s.paneUp core then .next s
      else
      let last := if g.toMem ∧ k.stop.isNone then max k.lastTaken g.seq else k.lastTaken
      let s := s.setCore core { k with sb := rest, lastTaken := last }
      let s := if k.stop.isSome then s.addF F.CORE_DRAIN_DRAINED core 1 else s
      let s := s.takeGranule core g
      .next ((s.refill core).tryStepEnd core)

/-- STORE_ACK (R72): the acknowledgement of one granule of a locally served store returns. -/
def execStoreAck (core seq : Nat) (s : State) : Out :=
  if ¬ unitOk core 3 then .fault .noSuchUnit
  else
    match (s.core core).store.find? (fun e => e.seq == seq) with
    | none => .next s
    | some e =>
      if e.acks = 0 ∨ ¬ s.paneUp core ∨ (s.remoteSlot e.cmd).isSome then .next s
      else .next (s.putEntry core 3 { e with acks := e.acks - 1 })

/-- STORE_DRAIN_LOST (R44, Table 2-6): 5 µs after an emergency power-down of the core's pane in a step, the remaining
granules are discarded, the loss is recorded and the step fails. The power-down is read as an emergency change of the pane
(PANE_FREQ.EMERG), and the record names the oldest granule's sequence number and engine 3 (DESIGN CHOICE, log entry 68: the
spec names neither). -/
def execStoreDrainLost (core : Nat) (s : State) : Out :=
  if ¬ unitOk core 3 then .fault .noSuchUnit
  else
    let k := s.core core
    if k.sb = [] ∨ ¬ s.coreIn core ∨ ¬ s.flag F.PANE_FREQ_EMERG (core / 8) ∨
      s.now < (tget PaneS.init s.panes (core / 8)).stopAt + 5000 then .next s
    else
      let seq := ((k.sb.head?).map (·.seq)).getD 0
      let s := s.recordFault core seq 3 fcSTORE_DRAIN_LOST
      let s := s.setFs core [(F.CORE_DRAIN_LAST_SEQ, k.lastTaken), (F.CORE_DRAIN_DISCARDED, k.sb.length), (F.CORE_DRAIN_DRAINED, 0)]
      let s := s.setCore core { k with stop := some seq, sb := [] }
      .next (s.abortStep (s.partOf core) 1 fcSTORE_DRAIN_LOST)

end Sys2Proof.Machine
end

