-- ==== Sys2Proof/Machine/Dispatcher.lean ====
section
/-! DEFINITION. The dispatcher (R22 to R28): block fetch, dispatch, the commands it handles itself, NOP, and the
completion of a command. -/

namespace Sys2Proof.Machine

/-- The 64 commands of a 4 KiB block. -/
def parseBlock (bs : List Byte) : Nat → List Cmd
  | 0 => []
  | n + 1 => BitVec.ofNat 512 (leAt bs 0 64) :: parseBlock (bs.drop 64) n

/-- What the dispatcher finds at the next sequence number. -/
inductive NextCmd where
  | absent
  | failed
  | cmd (c : Cmd)
deriving DecidableEq, Repr

/-- The next command of the stream, as the stream buffer holds it. -/
def Core.next (k : Core) : NextCmd :=
  match k.blocks.find? (fun b => b.idx == k.seq / 64) with
  | none => .absent
  | some b =>
    if b.failed then .failed
    else match b.cmds[k.seq % 64]? with
      | some c => .cmd c
      | none => .absent

/-- A core whose dispatcher may fetch: bound to the plan of a step that has arrived or runs, not stopped, and with no
STEP_END handled (R22, R67, R135). -/
def State.mayFetch (s : State) (n : Nat) : Bool :=
  let p := s.partOf n
  let k := s.core n
  s.stepActive p && (s.members p).contains n && k.stop.isNone && !k.ending

/-- The next 4 KiB block of a stream is fetched while the buffer has room for 16 (R22); a block outside the partition, or
refused by memory, is marked failed. -/
def State.fetchBlock (s : State) (core : Nat) (sym : Syms) : State :=
  let k := s.core core
  if ¬ s.mayFetch core ∨ 16 ≤ k.blocks.length ∨ s.getF F.DISP_STREAM_LEN_COMMANDS core ≤ 64 * k.nextBlock then s
  else
    let a := s.getF F.DISP_STREAM_BASE_BASE core * 4096 + 4096 * k.nextBlock
    let add := fun (s : State) (b : Block) =>
      s.setCore core { k with blocks := k.blocks ++ [b], nextBlock := k.nextBlock + 1 }
    if ¬ s.ownsRange (s.partOf core) a (a + 4095) then add (s.rangeRefused a (a + 4095)) ⟨k.nextBlock, true, []⟩
    else
      match s.read a 4096 sym with
      | (s, .ok bs) => add s ⟨k.nextBlock, false, parseBlock bs 64⟩
      | (s, .refused _) => add s ⟨k.nextBlock, true, []⟩

/-- STREAM_BLOCK_FETCH (R22): the next block of core `core`'s stream arrives. -/
def execStreamBlockFetch (core : Nat) (sym : Syms) (s : State) : Out :=
  if ¬ unitOk core 5 then .fault .noSuchUnit else .next (s.fetchBlock core sym)

/-- The dispatcher goes past the command it placed or handled; blocks wholly behind it are freed. -/
def Core.advance (k : Core) (c : Cmd) : Core :=
  let q := k.seq + 1
  { k with
    held := false
    seq := q
    beat := if endsBeat c then k.beat + 1 else k.beat
    blocks := k.blocks.filter (fun b => decide (q / 64 ≤ b.idx)) }

/-- The dispatcher may take a command of the beat it has reached (R27). -/
def State.mayDispatch (s : State) (n : Nat) : Bool :=
  let k := s.core n
  s.coreRuns n && k.stop.isNone && !k.held && !k.ending &&
  decide (k.beat ≤ (s.part (s.partOf n)).beat + 2) && decide (k.seq < s.getF F.DISP_STREAM_LEN_COMMANDS n)

/-- The next command of a core is read, checked and placed in its engine queue, or held for handling when its engine code is 5
(R22, R23, R27). -/
def State.dispatch (s : State) (core : Nat) : State :=
  let k := s.core core
  if ¬ s.mayDispatch core then s
  else match k.next with
    | .absent => s
    | .failed => s.coreFault core k.seq 5 fcSTREAM_FETCH
    | .cmd c =>
      if k.seq + 1 = s.getF F.DISP_STREAM_LEN_COMMANDS core ∧ opOf (hEngine c) (hOpcode c) ≠ some .stepEnd then
        s.coreFault core k.seq 5 fcSTREAM_END
      else if headerCheck c ≠ 0 then s.coreFault core k.seq 5 (headerCheck c)
      else if hEngine c = 5 then s.setCore core { k with held := true }
      else if 64 ≤ (k.queue (hEngine c)).length then s
      else
        let e : QEntry := ⟨c, k.seq, k.beat, false, false, [], [], 0, none⟩
        let k := k.setQueue (hEngine c) (k.queue (hEngine c) ++ [e])
        (s.setCore core (k.advance c)).updateHold (s.partOf core)

/-- DISPATCH_COMMAND (R22, R23, R27): the dispatcher of core `core` takes its next command. -/
def execDispatchCommand (core : Nat) (s : State) : Out :=
  if ¬ unitOk core 5 then .fault .noSuchUnit else .next (s.dispatch core)

/-- The held command of the dispatcher when it is the named operation and may be handled now: WAIT clauses met, and for
LATCH_RESET and STEP_END its beat current (R24). -/
def State.heldOp (s : State) (n : Nat) (op : Op) : Option Cmd :=
  let k := s.core n
  match k.next with
  | .cmd c =>
    if s.coreRuns n && k.stop.isNone && k.held && opOf (hEngine c) (hOpcode c) == some op && s.waitsMet n c &&
       ((op != .latchReset && op != .stepEnd) || k.beat == (s.part (s.partOf n)).beat)
    then some c else none
  | _ => none

/-- What handling a held command does around its own effect `f`: operand checks (R434), the effect unless skipped
(R64), its SIGNAL clauses when `sig`, and the next command. -/
def State.handle (s : State) (n : Nat) (op : Op) (sig : Bool) (f : State → Cmd → State) : State :=
  match s.heldOp n op with
  | none => s
  | some c =>
    let skip := (s.core n).skips c
    let e := if skip then 0 else operandCheck (s.checkEnv n c) op c
    if e ≠ 0 then s.coreFault n (s.core n).seq 5 e
    else
      let s := if skip then s else f s c
      let s := if sig then s.signal n c else s
      (s.modCore n (·.advance c)).updateHold (s.partOf n)

/-- NOP (R70): on engines 0 to 4 the command starts with nothing to do; the dispatcher handles its own. -/
def execNop (core eng : Nat) (s : State) : Out :=
  if ¬ unitOk core eng then .fault .noSuchUnit
  else if eng = 5 then .next (s.handle core .nop true (fun s _ => s))
  else s.runHead core eng .nop fun s e => .next (s.markStarted core eng e)

/-- BEAT_END (R79). -/
def execBeatEnd (core : Nat) (s : State) : Out :=
  if ¬ unitOk core 5 then .fault .noSuchUnit
  else .next (s.handle core .beatEnd true (fun s _ => s))

/-- STEP_END (R24, R67, R79): the marker of the final beat; it completes when every command of the core has completed and
the store buffer is empty, and its SIGNAL clauses apply then. -/
def execStepEnd (core : Nat) (s : State) : Out :=
  if ¬ unitOk core 5 then .fault .noSuchUnit
  else
    match s.heldOp core .stepEnd with
    | none => .next s
    | some c =>
      let e := operandCheck (s.checkEnv core c) .stepEnd c
      if e ≠ 0 then .next (s.coreFault core (s.core core).seq 5 e)
      else
        let s := s.modCore core (fun k => { k with held := false, ending := true, seq := k.seq + 1, beat := k.beat + 1 })
        .next ((s.tryStepEnd core).updateHold (s.partOf core))

/-- A held LATCH_RESET is handled: every latch named in MASK is set to 0; its SIGNAL clauses land one cycle later (R80, R62). -/
def State.resetLatches (s : State) (core : Nat) : State :=
  s.handle core .latchReset true (fun s c => s.clearLatches core (cbits c 128 48))

/-- LATCH_RESET (R80). -/
def execLatchReset (core : Nat) (s : State) : Out :=
  if ¬ unitOk core 5 then .fault .noSuchUnit else .next (s.resetLatches core)

/-- A LATCH_RESET that is the first command of a core's stream is handled as beat 0 opens (R135). -/
def State.openReset (s : State) (n : Nat) : State :=
  match (s.core n).next with
  | .cmd c => if (s.core n).seq = 0 ∧ opOf (hEngine c) (hOpcode c) = some .latchReset then (s.dispatch n).resetLatches n else s
  | _ => s

/-- The enable field of a peephole ID (CTL_PEEPENi, R372). -/
def peepFld (id : Nat) : Fld :=
  match id % 4 with
  | 0 => F.CTL_PEEPEN_EN0
  | 1 => F.CTL_PEEPEN_EN1
  | 2 => F.CTL_PEEPEN_EN2
  | _ => F.CTL_PEEPEN_EN3

/-- A peephole is enabled for a partition; IDs from 768 by bit 0, package-wide (R372). -/
def State.peepOn (s : State) (id p : Nat) : Bool :=
  bitAt (s.getF (peepFld id) (id / 4)) (if 768 ≤ id then 0 else p)

/-- PEEP_EMIT (R81): an enabled peephole queues one record, or drops and counts it when the core's queue holds 8. -/
def execPeepEmit (core : Nat) (s : State) : Out :=
  if ¬ unitOk core 5 then .fault .noSuchUnit
  else .next <| s.handle core .peepEmit true fun s c =>
    let id := cbits c 128 10
    let p := s.partOf core
    let k := s.core core
    if ¬ s.peepOn id p then s
    else if 8 ≤ k.peep.length then (s.addF F.CTL_PEEPDROP_QUEUE 0 1).modCore core (fun k => { k with peepDrops := satAdd 32 k.peepDrops 1 })
    else s.setCore core { k with peep := k.peep ++ [⟨id, core, k.seq, (s.part p).beat, s.now, cbytes c 24 16⟩] }

/-- Write a predicate bit. -/
def setPred (preds i : Nat) (b : Bool) : Nat := setBits preds i 1 (bit b)

/-- COMMAND_COMPLETE (R23, R25, R60): the oldest command of an engine completes when nothing of it is outstanding; its
queue entry is freed, a VE_CMP writes its predicate bit (R107) and its local SIGNAL clauses land. `lost` bank cycles of
the command in the present beat are counted. -/
def execCommandComplete (core eng lost : Nat) (s : State) : Out :=
  if ¬ unitOk core eng ∨ eng = 5 then .fault .noSuchUnit
  else
    let k := s.core core
    match k.queue eng with
    | [] => .next s
    | e :: rest =>
      if ¬ (k.finished e && k.live e.seq && s.coreRuns core) then .next s
      else
        let k := k.setQueue eng rest
        let k := match e.pred with
          | some (i, b) => { k with preds := setPred k.preds i b }
          | none => k
        let s := (s.setCore core k).countLost core lost
        let s := s.signal core e.cmd
        .next ((s.tryStepEnd core).updateHold (s.partOf core))

end Sys2Proof.Machine
end

