-- ==== Sys2Proof/Machine/Start.lean ====
section
/-! DEFINITION. The boot-attempt counter (R386), the STEP_DONE reply (R369), start arrivals and the opening of beat 0
(R146 to R148, R160). -/

namespace Sys2Proof.Machine

/-! ## The boot-attempt counter (R386) -/

/-- A counter record is valid: VERSION 1 and its CRC holds. -/
def ctrOk (r : List Byte) : Bool := r.length == 64 && leAt r 0 1 == 1 && leAt r 60 4 == crc32 (r.take 60)

/-- Sequence comparison over `w` bits: `a` at or after `b` (R249). -/
def seqGe (w a b : Nat) : Bool := decide ((a + 2 ^ w - b) % 2 ^ w < 2 ^ (w - 1))

/-- The counting record, and whether it stands in sector 1. -/
def Boot.counting (b : Boot) : Option (List Byte × Bool) :=
  match ctrOk b.ctr0, ctrOk b.ctr1 with
  | true, true => if seqGe 32 (leAt b.ctr1 4 4) (leAt b.ctr0 4 4) then some (b.ctr1, true) else some (b.ctr0, false)
  | true, false => some (b.ctr0, false)
  | false, true => some (b.ctr1, true)
  | false, false => none

/-- The bytes of a counter record. -/
def ctrRecord (attempts seq cfg tb : Nat) : List Byte :=
  let r := leBytes 1 1 ++ leBytes 1 attempts ++ leBytes 2 0 ++ leBytes 4 seq ++ leBytes 8 cfg ++ leBytes 8 tb ++
    List.replicate 36 0
  r ++ leBytes 4 (crc32 r)

/-- A write of the counter: the sector that does not hold the counting record is erased and programmed. -/
def State.writeCtr (s : State) (attempts : Nat) : State :=
  let (seq, in1) := match s.boot.counting with
    | some (r, one) => ((leAt r 4 4 + 1) % 2 ^ 32, one)
    | none => (1, true)
  let r := ctrRecord attempts seq s.boot.cfgSeq s.now
  let b := if in1 then { s.boot with ctr0 := r } else { s.boot with ctr1 := r }
  ({ s with boot := b }).setFs 0 [(F.BOOT_ATTEMPT_REC_SEQ, seq), (F.BOOT_ATTEMPT_ATTEMPTS, attempts)]

/-- The first completed step of a start writes ATTEMPTS 0 (R386). -/
def State.firstStep (s : State) : State :=
  if s.flag F.BOOT_STATUS_COMPLETE 0 then s else (s.writeCtr 0).setF F.BOOT_STATUS_COMPLETE 0 1

/-! ## STEP_DONE (R369) -/

/-- The OR of CORE_AFLAGS over the participating cores (R129). -/
def State.flagsOr (s : State) (p : Nat) : Nat := (s.members p).foldl (fun a n => orf a (s.rdReg .CORE_AFLAGS n)) 0

/-- The variance increment of the attempt on this package (R291). -/
def State.varInc (s : State) (p : Nat) : Nat := s.getF F.CTL_VARP_COUNT p - (s.part p).varBase

/-- The reply's 64 bytes. -/
def State.stepDoneBytes (s : State) (p status : Nat) (replaying : Bool) : List Byte :=
  let x := s.part p
  leBytes 1 1 ++ leBytes 1 3 ++ leBytes 1 0 ++ leBytes 1 (x.attempt % 4 + 128 * bit replaying) ++ leBytes 4 x.plan ++
  leBytes 8 x.tag ++ List.replicate 12 0 ++ leBytes 2 status ++ leBytes 2 (s.flagsOr p) ++ leBytes 8 x.stepNo ++
  leBytes 4 (min (2 ^ 32 - 1) (s.varInc p)) ++
  (List.range 12).map (fun k => BitVec.ofNat 8 (min 255 (tget 0 x.causes (k + 1)))) ++ leBytes 8 s.now

/-- Post the STEP_DONE of the attempt on the CTRL_CQ of its STEP (R367), after the checkpoint of the step boundary (R407). -/
def State.stepDone (s : State) (p status : Nat) (replaying : Bool) : State :=
  s.commit.reply (p + 1) (s.part p).cq (s.stepDoneBytes p status replaying)

/-! ## Threshold failures (R142) -/

def errNOT_MEMBER : Nat := 1
def errCTX_OWNER : Nat := 2
def errCTX_UNSET : Nat := 3
def errGEN_LIMIT : Nat := 4
def errCONFIG_MISMATCH : Nat := 5
def errTREE_MISMATCH : Nat := 6
def errVERSION : Nat := 7
def errSTEP_MISMATCH : Nat := 8

/-- Record an error of an on-chip context: the first while ERR_VALID is 0, OVERFLOW otherwise. -/
def State.recordT (s : State) (c code core : Nat) : State :=
  if s.flag F.LATCH_TSTAT_ERR_VALID c then s.setF F.LATCH_TSTAT_OVERFLOW c 1
  else s.setFs c [(F.LATCH_TSTAT_ERR_CORE, core), (F.LATCH_TSTAT_ERR, code), (F.LATCH_TSTAT_ERR_VALID, 1)]

/-- Record an error of a system context; CONFIG_MISMATCH is logged (R413). -/
def State.recordS (s : State) (c code node : Nat) : State :=
  let s := if s.flag F.LATCH_SSTAT_ERR_VALID c then s.setF F.LATCH_SSTAT_OVERFLOW c 1
    else s.setFs c [(F.LATCH_SSTAT_ERR_NODE, node), (F.LATCH_SSTAT_ERR, code), (F.LATCH_SSTAT_ERR_VALID, 1)]
  if code = errCONFIG_MISMATCH then s.logEvent 3 0x0108 (s.getF F.LATCH_SCTX_OWNER c) [s.rdReg .LATCH_SSTAT c] else s

/-! ## The start of a step -/

/-- Beat `b` opens on the cores of a partition (R37). -/
def State.openBeat (s : State) (p b : Nat) : State :=
  let s := s.setF F.BEAT_OPENED_TB p s.now
  let s := (s.members p).foldl (fun s n => s.setF F.CORE_CONFLICT_LOST_BEAT n 0) s
  (s.modPart p (fun x => { x with beat := b, unplanned := false, varLast := false })).updateHold p

/-- A participating core at step start (R58, R67, R95, R129): flags and counts cleared, predicates loaded. -/
def State.startCore (s : State) (n : Nat) : State :=
  let s := s.wrReg .CORE_AFLAGS n 0
  let s := (s.wrReg .CORE_CONFLICT n 0).setF F.CORE_STATUS_FAULTED n 0
  s.modCore n (fun k => { k with preds := k.param 63 % 2 ^ 16, acc := [], active := none, shadow := none })

/-- A pane of the partition is changing frequency or stopped (R213). -/
def State.paneStopped (s : State) (p : Nat) : Bool :=
  (onesOf (s.getF F.SEC_PPANE_PANES p) 32).any (fun q => s.getF F.PANE_FREQ_STATE q == 1)

/-- Beat 0 opens on every pane of the partition, with a LATCH_RESET that opens a core's stream (R135, R147, R148). `late`: the start time has passed, or fell inside a pane stop. -/
def State.openBeat0 (s : State) (p : Nat) (late : Bool) : State :=
  let s := if late then (s.setF F.LATCH_START_LATE p 1).vary 2 p else s
  let s := if s.flag F.TIME_STATUS_LOCKED 0 || s.flag F.TIME_CTRL_MASTER 0 then s
    else (s.setF F.LATCH_START_UNLOCKED p 1).vary 3 p
  let s := (s.members p).foldl State.startCore s
  let s := (s.wrReg .BEAT_HOLD p 0).wrReg .MEM_REFSTALL p 0
  let s := s.modPart p (fun x => { x with running := true, startT := none, holdSince := none, beat0 := s.now })
  (s.members p).foldl State.openReset (s.openBeat p 0)

/-- STEP_START (R147, R148, R213): the timebase reaches the start time and every pane of the partition opens beat 0; a
start time that fell inside a pane stop opens beat 0 after the restart, LATE. -/
def execStepStart (p : Nat) (s : State) : Out :=
  if ¬ p < 16 then .fault .noSuchUnit
  else
    match (s.part p).startT with
    | none => .next s
    | some t => if s.now < t ∨ s.paneStopped p then .next s else .next (s.openBeat0 p (s.part p).lateT)

/-! ## Tokens (Table 6-5) -/

/-- The ports of a fanlight tree, and the child ports. -/
def State.treePorts (s : State) (t : Nat) : List Nat := onesOf (s.getF F.FAN_CFG_PORTS t) 36
def State.treeParent (s : State) (t : Nat) : Nat := s.getF F.FAN_CFG_PARENT t
def State.treeKids (s : State) (t : Nat) : List Nat := (s.treePorts t).filter (fun q => q != s.treeParent t)
/-- LATCH_SCTX.ROOT: this package is the root of the context's tree (R278). -/
def State.isRoot (s : State) (t : Nat) : Bool := s.treeParent t == 63

/-- The 32-byte body of a token. -/
def State.tokenBody (s : State) (kind c gen tb : Nat) : List Byte :=
  let p := s.getF F.LATCH_SCTX_OWNER c
  leBytes 1 1 ++ leBytes 1 kind ++ leBytes 1 c ++ leBytes 1 0 ++ leBytes 2 gen ++ leBytes 2 (s.getF F.LATCH_SCTX_TREE c) ++
  leBytes 8 (s.getF F.CTL_PCDIG_DIGEST p) ++ leBytes 8 tb ++ leBytes 4 s.node ++ List.replicate 4 0

/-- Send a token on the context's tree. -/
def State.sendToken (s : State) (kind c gen tb : Nat) : State :=
  s.inject (s.mkFan ptTOKEN 2 (s.getF F.LATCH_SCTX_TREE c) 0 (s.tokenBody kind c gen tb) .unit (s.getF F.LATCH_SCTX_OWNER c))

/-- The member cores of an on-chip or system context. -/
def State.maskT (s : State) (c : Nat) : List Nat :=
  (List.range 4).flatMap (fun j => (onesOf (s.getF F.LATCH_TMASK_MASK (c * 4 + j)) 64).map (· + 64 * j))
def State.maskS (s : State) (c : Nat) : List Nat :=
  (List.range 4).flatMap (fun j => (onesOf (s.getF F.LATCH_SMASK_MASK (c * 4 + j)) 64).map (· + 64 * j))

/-- A latch write of the package itself reaches core `n` (a completed threshold, R140; a DMA channel, R202): it lands, or waits
with the arrivals of a pane that is stopped (R213). -/
def State.latchWrite (s : State) (n l inc : Nat) : State :=
  if inc = 0 then s
  else if s.paneUp n then s.addLatch n l inc
  else { s with inbox := s.inbox ++ [{ s.mkPacket ptLATCH 0 s.node 0 (l + 64 * inc) [] .unit (s.partOf n) with dest := [n] }] }

/-- Each member's CLATCH rises by its CINC, as its oldest arrival carried (R140). -/
def State.raiseMembers (s : State) (x : Ctx) (ms : List Nat) : State × Ctx :=
  ms.foldl (fun (r : State × Ctx) n =>
    match tget [] r.2.carried n with
    | [] => r
    | (l, inc) :: t => (r.1.latchWrite n l inc, { r.2 with carried := tset [] r.2.carried n t })) (s, x)

/-- The start context delivers T (R146, R148): beat 0 opens at once when the timebase already reads T or later; while a pane is
stopped it waits for the restart (R213). -/
def State.deliverT (s : State) (p t : Nat) : State :=
  let s := s.setFs p [(F.LATCH_START_T_T, t), (F.LATCH_START_WAITING, 0)]
  let s := s.modPart p (fun x => { x with startT := some t, lateT := decide (t ≤ s.now) })
  if t ≤ s.now ∧ ¬ s.paneStopped p then s.openBeat0 p true else s

/-- A context is a start context: START is set, or a bound plan of its owner names it, whose step Ranuat has not readied yet
(R146, R156). -/
def State.isStart (s : State) (c : Nat) : Bool :=
  s.flag F.LATCH_SCTX_START c ||
  (s.plansOf (s.getF F.LATCH_SCTX_OWNER c)).any (fun k => !(s.plan k).evicted && (s.plan k).startCtx == c)

/-- A generation of a system context completes on this package (R140, R144). -/
def State.applyS (s : State) (c tb : Nat) : State :=
  let x := s.sctxOf c
  let p := s.getF F.LATCH_SCTX_OWNER c
  if s.isStart c then
    let s := (s.setSctx c Ctx.init).setF F.LATCH_SCTX_GEN c 1
    s.deliverT p tb
  else
    let (s, x) := s.raiseMembers x (s.maskS c)
    let g := s.getF F.LATCH_SCTX_GEN c
    (s.setSctx c { x with latest := terase x.latest g }).setF F.LATCH_SCTX_GEN c (g + 1)

/-- The start margin of a partition. -/
def State.margin (s : State) (p : Nat) : Nat := s.getF F.LATCH_START_MARGIN_NS p

/-- The package aggregates the next generation when every local member has arrived and every child has reported (R144):
the root completes it, another package reports to its parent. It is asked after an arrival and after a child's token, so a
package with an empty mask and no children never reports (DEDUCED, log entry 29: R139 gives it nothing to contribute or relay). -/
def State.aggregate (s : State) (c : Nat) : State :=
  let x := s.sctxOf c
  let t := s.getF F.LATCH_SCTX_TREE c
  let p := s.getF F.LATCH_SCTX_OWNER c
  let start := s.isStart c
  let g := x.up
  let local' := if start then x.pkg && g == 0 else (s.maskS c).all (fun n => decide (g < tget 0 x.counts n))
  let kids := if start then (s.treeKids t).all (fun q => decide (0 < tget 0 x.kids q))
    else (s.treeKids t).all (fun q => decide (g < tget 0 x.kids q))
  if local' && kids then
    let gen := if start then (s.part p).stepNo % 2 ^ 16 else g
    let late := tget 0 x.latest (if start then 0 else g)
    let s := s.setSctx c { x with up := g + 1 }
    if s.isRoot t then
      let tb := if start then late + s.margin p else s.now
      let s := if s.treePorts t = [] then s else s.sendToken 2 c gen tb
      s.applyS c tb
    else s.sendToken 1 c gen late
  else s

/-! ## The start arrival (R146, R160) -/

/-- The address of the parameter page a core's dispatcher reads (R159). -/
def State.pageAddr (s : State) (n page : Nat) : Nat := s.getF F.DISP_PARAM_BASE n * 512 + 256 * page

/-- Step parameters of a 256-byte page. -/
def pageParams (bs : List Byte) : Tbl Nat :=
  (List.range 64).foldl (fun t k => tset 0 t k (leAt bs (4 * k) 4)) []

/-- Every participating core reads its selected page and is made ready to dispatch. The first failing read ends it (R160). -/
def State.readPages (s : State) (sym : Syms) : List Nat → State × Bool
  | [] => (s, true)
  | n :: t =>
    match s.read (s.pageAddr n (s.getF F.DISP_PARAM_PAGE n)) 256 sym with
    | (s, .refused _) => (s, false)
    | (s, .ok bs) =>
      let k := s.core n
      (s.setCore n { Core.init with params := pageParams bs, peep := k.peep, peepDrops := k.peepDrops }).readPages sym t

/-- Every context of the partition but its start context counts from 0 in the step (R140). -/
def State.resetContexts (s : State) (p start : Nat) : State :=
  let s := (List.range 8).foldl (fun s c => if s.ownsT p c then (s.setTctx c Ctx.init).setF F.LATCH_TCTX_GEN c 0 else s) s
  let s := (List.range 32).foldl (fun s c =>
    if s.ownsS p c && c != start then (s.setSctx c Ctx.init).setF F.LATCH_SCTX_GEN c 0 else s) s
  s.setF F.LATCH_SCTX_GEN start 0

/-- The step of the partition takes its number: the plan's next, or the number it keeps when it is issued again (R435). -/
def State.takeNumber (s : State) (p : Nat) : State :=
  let x := s.part p
  if 0 < x.attempt then s
  else
    let q := s.plan x.plan
    (s.setPlan x.plan { q with nextStep := (q.nextStep + 1) % 2 ^ 64 }).modPart p (fun x => { x with stepNo := q.nextStep })

/-- The variance of an attempt counts from here (R291). -/
def Part.counting (x : Part) (now : Nat) : Part := { x with varBase := now, causes := [] }

/-- The step cannot start: its STEP_DONE reports THRESHOLD with CTX_UNSET (R146, R400). -/
def State.noStart (s : State) (p : Nat) : State :=
  let s := (s.takeNumber p).modPart p (·.counting (s.getF F.CTL_VARP_COUNT p))
  (s.stepDone p (0x03 * 256 + errCTX_UNSET) false).modPart p (fun x =>
    { x with lastFailed := true, waitDigest := false, prevNo := some x.stepNo, prevAborted := true, endAt := s.now })

/-- A write of 1 to LATCH_START.ARRIVE (R146): ignored while WAITING or while the partition runs a step; without a usable
start context the step does not start; otherwise the parameter pages and the first block of every stream are read (R135, R160)
and the package's arrival is recorded. -/
def State.arrive (s : State) (p : Nat) (sym : Syms) : State :=
  if s.flag F.LATCH_START_WAITING p || (s.part p).running then s
  else
    match s.startCtx p with
    | none => (s.setF F.LATCH_START_NO_CTX p 1).noStart p
    | some c =>
      if ¬ s.flag F.LATCH_SCTX_EN c then (s.recordS c errCTX_UNSET s.node).noStart p
      else
        let s := s.takeNumber p
        let s := s.modPart p (fun x =>
          { x with
            started := true, aborted := false, arrivedAt := s.now, beat := 0, lateT := false
            waitDigest := false }.counting (s.getF F.CTL_VARP_COUNT p))
        let s := s.resetContexts p c
        match s.readPages sym (s.members p) with
        | (s, false) => s.abortStep p 0x0D 0
        | (s, true) =>
          let s := (s.members p).foldl (fun s n => s.fetchBlock n sym) s
          let s := s.setF F.LATCH_START_WAITING p 1
          let x := s.sctxOf c
          let no := (s.part p).stepNo % 2 ^ 16
          if x.kids.any (fun k => k.2 != no + 1) then (s.recordS c errSTEP_MISMATCH s.node).abortStep p 3 errSTEP_MISMATCH
          else
            let s := s.setSctx c { x with pkg := true, latest := tset 0 x.latest 0 (max s.now (tget 0 x.latest 0)) }
            s.aggregate c

end Sys2Proof.Machine
end

