-- ==== Sys2Proof/Machine/Threshold.lean ====
section
/-! DEFINITION. What arrives at cores and at the threshold unit (R74, R134, R138 to R146): data, latch writes, arrivals
and tokens. -/

namespace Sys2Proof.Machine

/-! ## Data and latch writes -/

/-- The physical cores a packet names where its head is looked up: the cores of its tree but the sender, or the core bound to
DCORE by the plan its partition runs (R74, R278); `none` when DCORE is not bound. -/
def State.targets (s : State) (k : Packet) : Option (List Nat) :=
  if k.fan then
    some (((List.range 4).flatMap (fun j => (onesOf (s.getF F.FAN_CMASK_MASK (k.tree * 4 + j)) 64).map (· + 64 * j))).filter
      (fun n => k.src != .core n))
  else (s.members k.part)[k.dcore]?.map (fun n => [n])

/-- A packet lands at cores: data, or a latch write. -/
def Packet.lands (k : Packet) : Bool := k.ptype == ptDATA || k.ptype == ptLATCH

/-- Take the first packet of a type that may land now: its partition is aborted (it is discarded), or every destination pane runs
and nothing for a core of it waits before it (R33, R76, R213: arrivals land in arrival order at each core). `busy` are the cores
for which a packet waits. -/
def State.takeLand (s : State) (ptype : Nat) (busy : List Nat) : List Packet → Option (Packet × List Packet)
  | [] => none
  | k :: t =>
    let gone := (s.part k.part).quieting
    if k.ptype == ptype && (gone || k.dest.all (fun n => s.paneUp n && !busy.contains n)) then some (k, t)
    else (s.takeLand ptype (if k.lands && !gone then busy ++ k.dest else busy) t).map (fun r => (r.1, k :: r.2))

/-- Take the first packet of the inbox with a property. -/
def takeFirst (f : Packet → Bool) : List Packet → Option (Packet × List Packet)
  | [] => none
  | k :: t => if f k then some (k, t) else (takeFirst f t).map (fun r => (r.1, k :: r.2))

/-- Land a packet at its cores; it is discarded in the quiet period (R399). -/
def State.land (s : State) (k : Packet) (f : State → Nat → State) : State :=
  if (s.part k.part).quieting then s else k.dest.foldl f s

/-- DATA_ARRIVE (R74, R75): the payload is written at the destination address of each destination core; `losses` are the bank
cycles the writes lost at their cores (R33, R34). -/
def execDataArrive (losses : List (Nat × Nat)) (s : State) : Out :=
  match s.takeLand ptDATA [] s.inbox with
  | none => .next s
  | some (k, rest) =>
    let a := k.arg % 2 ^ 23
    let s := { s with inbox := rest }.land k (fun s n => s.setSpad n a (k.body.take (spadSize - a)))
    .next (s.countLosses (losses.filter (fun x => k.dest.contains x.1)))

/-- LATCH_WRITE_ARRIVE (R131 to R134, R138): the increment lands on the named latch of each destination core. -/
def execLatchWriteArrive (s : State) : Out :=
  match s.takeLand ptLATCH [] s.inbox with
  | none => .next s
  | some (k, rest) =>
    let l := bitsOf k.arg 0 6
    let inc := bitsOf k.arg 6 8
    .next ({ s with inbox := rest }.land k (fun s n => if l < 48 then s.addLatch n l inc else s))

/-! ## Arrivals (R140 to R144) -/

/-- One more arrival of a member, with what it carries. -/
def Ctx.count (x : Ctx) (a : Arrival) : Ctx :=
  { x with counts := tmod 0 x.counts a.core (· + 1), carried := tmod [] x.carried a.core (· ++ [(a.clatch, a.cinc)]) }

/-- Complete the oldest generation of an on-chip context when every member has arrived at it. -/
def State.completeT (s : State) (c : Nat) : State :=
  let x := s.tctxOf c
  let g := s.getF F.LATCH_TCTX_GEN c
  let ms := s.maskT c
  if ms ≠ [] ∧ ms.all (fun n => decide (g < tget 0 x.counts n)) then
    let (s, x) := s.raiseMembers x ms
    (s.setTctx c x).setF F.LATCH_TCTX_GEN c (g + 1)
  else s

/-- The check of an arrival, in the order of R142: 0, or the error code. -/
def State.arrivalCheck (s : State) (a : Arrival) : Nat :=
  let p := s.partOf a.core
  if a.sys then
    if ¬ s.flag F.LATCH_SCTX_EN a.ctx then errCTX_UNSET
    else if ¬ s.ownsS p a.ctx then errCTX_OWNER
    else if ¬ (s.maskS a.ctx).contains a.core ∨ s.flag F.LATCH_SCTX_START a.ctx then errNOT_MEMBER
    else if 65535 ≤ tget 0 (s.sctxOf a.ctx).counts a.core then errGEN_LIMIT else 0
  else
    if ¬ s.flag F.LATCH_TCTX_EN a.ctx then errCTX_UNSET
    else if ¬ s.ownsT p a.ctx then errCTX_OWNER
    else if ¬ (s.maskT a.ctx).contains a.core then errNOT_MEMBER
    else if 65535 ≤ tget 0 (s.tctxOf a.ctx).counts a.core then errGEN_LIMIT else 0

/-- THRESHOLD_ARRIVE (R140, R142): the oldest arrival on its way reaches the threshold unit. A failed one is not counted
and aborts the step of the arriving core's partition. -/
def execThresholdArrive (s : State) : Out :=
  match s.arrivals with
  | [] => .next s
  | a :: rest =>
    let s := { s with arrivals := rest }
    let p := s.partOf a.core
    let f := s.arrivalCheck a
    if f ≠ 0 then
      let s := if a.sys then s.recordS a.ctx f s.node else s.recordT a.ctx f a.core
      .next (s.abortStep p 3 f)
    else if a.sys then
      let x := s.sctxOf a.ctx
      let g := tget 0 x.counts a.core
      let x := { x.count a with latest := tset 0 x.latest g (max s.now (tget 0 x.latest g)) }
      .next ((s.setSctx a.ctx x).aggregate a.ctx)
    else .next ((s.setTctx a.ctx ((s.tctxOf a.ctx).count a)).completeT a.ctx)

/-! ## Tokens (R145) -/

/-- Fields of a token body. -/
def tkKind (b : List Byte) : Nat := leAt b 1 1
def tkCtx (b : List Byte) : Nat := leAt b 2 1 % 32
def tkGen (b : List Byte) : Nat := leAt b 4 2
def tkTree (b : List Byte) : Nat := leAt b 6 2 % 4096
def tkTb (b : List Byte) : Nat := leAt b 16 8
def tkNode (b : List Byte) : Nat := leAt b 24 3 % 2 ^ 20

/-- A reserved bit of a token is set. -/
def tkRsv (b : List Byte) : Bool :=
  leAt b 2 1 / 32 != 0 || leAt b 3 1 != 0 || leAt b 6 2 / 4096 != 0 || leAt b 24 3 / 2 ^ 20 != 0 || leAt b 27 5 != 0

/-- The check of a token, in the order of R142: 0, or the error code. A token from outside the tree is known by the port it came
in on (DEDUCED, log entry 29: the body's NODE is only recorded). -/
def State.tokenCheck (s : State) (k : Packet) (child : Bool) : Nat :=
  let b := k.body
  let c := tkCtx b
  let t := s.getF F.LATCH_SCTX_TREE c
  let q := match k.src with
    | .port q => q
    | _ => 64
  let dir := if child then (s.treeKids t).contains q else q == s.treeParent t
  if 1 < leAt b 0 1 then errVERSION
  else if tkRsv b ∨ ¬ s.flag F.LATCH_SCTX_EN c ∨ tkTree b ≠ t ∨ k.tree ≠ t ∨ ¬ dir then errTREE_MISMATCH
  else if leAt b 8 8 ≠ s.getF F.CTL_PCDIG_DIGEST (s.getF F.LATCH_SCTX_OWNER c) then errCONFIG_MISMATCH
  else if child ∧ s.isStart c then
    let x := s.sctxOf c
    let p := s.getF F.LATCH_SCTX_OWNER c
    if x.kids.any (fun v => v.2 != tkGen b + 1) ∨ (x.pkg ∧ tkGen b ≠ (s.part p).stepNo % 2 ^ 16) then errSTEP_MISMATCH else 0
  else 0

/-- A TOKEN packet of one kind: COMPLETE is KIND 2; everything else is taken as a child's token. A reserved KIND of VERSION 1
passes no check and counts nothing (DESIGN CHOICE, log entry 29). -/
def isToken (kind : Nat) (k : Packet) : Bool :=
  k.ptype == ptTOKEN && (if kind = 2 then tkKind k.body == 2 else tkKind k.body != 2)

/-- Act on the first token of a kind: discarded in the quiet period, failed by its first failing check (R142), or taken. -/
def State.onToken (s : State) (kind : Nat) (child : Bool) (f : State → Packet → State) : Out :=
  match takeFirst (isToken kind) s.inbox with
  | none => .next s
  | some (k, rest) =>
    let s := { s with inbox := rest }
    if (s.part k.part).quieting then .next s
    else
      let e := s.tokenCheck k child
      let c := tkCtx k.body
      if e ≠ 0 then .next ((s.recordS c e (tkNode k.body)).abortStep (s.getF F.LATCH_SCTX_OWNER c) 3 e)
      else .next (f s k)

/-- The port a packet arrived on. -/
def Packet.port (k : Packet) : Nat :=
  match k.src with
  | .port q => q
  | _ => 64

/-- ARRIVE_TOKEN (R144 to R146): a child reports a generation. -/
def execArriveToken (s : State) : Out :=
  s.onToken 1 true fun s k =>
    let c := tkCtx k.body
    let x := s.sctxOf c
    if tkKind k.body ≠ 1 then s
    else
    let g := if s.isStart c then 0 else tget 0 x.kids k.port
    let seen := if s.isStart c then tkGen k.body + 1 else g + 1
    let x := { x with kids := tset 0 x.kids k.port seen, latest := tset 0 x.latest g (max (tkTb k.body) (tget 0 x.latest g)) }
    (s.setSctx c x).aggregate c

/-- COMPLETE_TOKEN (R145, R146, R148): the generation completes on this package. -/
def execCompleteToken (s : State) : Out :=
  s.onToken 2 false fun s k => s.applyS (tkCtx k.body) (tkTb k.body)

end Sys2Proof.Machine
end

