-- ==== Sys2Proof/Machine/Beat.lean ====
section
/-! DEFINITION. The beat sequencer (R36 to R40), the end of a step (R67) and its provenance (R292 to R295). -/

namespace Sys2Proof.Machine

/-- A context of the partition holds a generation at which some member has arrived and which has not completed (R143). -/
def State.openGen (s : State) (p : Nat) : Bool :=
  s.arrivals.any (fun a => s.partOf a.core == p) ||
  (List.range 8).any (fun c => s.ownsT p c && s.flag F.LATCH_TCTX_EN c &&
    (s.tctxOf c).counts.any (fun v => decide (s.getF F.LATCH_TCTX_GEN c < v.2))) ||
  (List.range 32).any (fun c => s.ownsS p c && s.flag F.LATCH_SCTX_EN c && !s.flag F.LATCH_SCTX_START c &&
    ((s.sctxOf c).counts.any (fun v => decide (s.getF F.LATCH_SCTX_GEN c < v.2)) ||
     (s.sctxOf c).kids.any (fun v => decide (s.getF F.LATCH_SCTX_GEN c < v.2))))

/-- The current beat is the final one of the step: every participating core has handled its STEP_END (R67). -/
def State.finalBeat (s : State) (p : Nat) : Bool := (s.members p).all (fun n => (s.core n).ending)

/-- What the close of a beat counts (R35, R182, R290): lost cycles (`losses`: those of its cores that no other event counted),
unplanned accesses, and its refresh wait in ns, which is 0 when markers alone decided the close. -/
def State.closeBeat (s : State) (p refWait : Nat) (losses : List (Nat × Nat)) : State :=
  let s := s.countLosses losses
  let lost := (s.members p).any (fun n => s.getF F.CORE_CONFLICT_LOST_BEAT n != 0)
  let s := if lost then s.vary 1 p else s
  let s := if (s.part p).unplanned then s.vary 0x0C p else s
  if (s.part p).varLast then s.addF F.MEM_REFSTALL_NS p refWait else s

/-- BEAT_OPEN (R37): both close conditions of the current beat are met, and the next beat opens. -/
def execBeatOpen (p refWait : Nat) (losses : List (Nat × Nat)) (s : State) : Out :=
  if ¬ p < 16 then .fault .noSuchUnit
  else
    let x := s.part p
    if x.running && s.markersIn p x.beat && !s.varOpen p x.beat && !s.finalBeat p then
      let s := (s.endHold p).closeBeat p refWait losses
      .next (s.openBeat p ((x.beat + 1) % 2 ^ 32))
    else .next s

/-- HOLD_TIMEOUT (R40): the current beat has been open past the watchdog limit, and the step fails. -/
def execHoldTimeout (p : Nat) (s : State) : Out :=
  if ¬ p < 16 then .fault .noSuchUnit
  else if (s.part p).running ∧ s.getF F.BEAT_OPENED_TB p + 1000 * s.getF F.BEAT_WDOG_LIMIT_US p < s.now then
    .next ((s.setF F.BEAT_STATUS_WDOG_FIRED p 1).abortStep p 2 0)
  else .next s

/-! ## Provenance (R294, R295) -/

/-- The provenance message of Table 14-3. -/
def Plan.provMessage (q : Plan) : List Byte :=
  leBytes 1 1 ++ leBytes 1 (bit q.canonical) ++ leBytes 2 0 ++ leBytes 4 q.node ++ leBytes 8 0 ++ leBytes 48 q.digest ++
  leBytes 48 q.weightDigest ++ leBytes 48 q.inputDigest

/-- The base of a region of a plan. -/
def Plan.regionBase (q : Plan) (i : Nat) : Nat := ((q.regions.find? (fun r => r.idx == i)).map (·.base)).getD 0

/-- The record of Table 14-4 for the `i`-th record of the node. -/
def State.provRecord (s : State) (p : Nat) (q : Plan) (i : Nat) : List Byte :=
  let clean := s.varInc p == 0
  let dig := if q.provInvalid then List.replicate 48 0 else sha384 q.provMessage
  leBytes 1 1 ++ leBytes 1 (bit q.canonical + 2 * bit clean + 4 * bit q.provInvalid) ++ leBytes 2 0 ++ leBytes 4 i ++
  leBytes 8 (s.part p).stepNo ++ dig

/-- Write one record for each OUTPUT_PROV buffer of the node, at the first granule boundary after it. -/
def State.writeProv (s : State) (p : Nat) (q : Plan) : State :=
  (q.outputs.zipIdx).foldl (fun s o =>
    if o.1.role = 3 then s.writeQ (roundUp (q.regionBase o.1.region + o.1.offset + o.1.length) 64) (s.provRecord p q o.2)
    else s) s

/-- Ranuat reports the saturated latches of a completed step (R133): one log event per core with a LATCH_OVF bit, whose code and
severity the spec does not give (log entry 68). -/
def State.reportOvf (s : State) (p : Nat) : State :=
  (s.members p).foldl (fun s n =>
    if s.getF F.LATCH_OVF_OVF n = 0 then s else s.logFree p [n, s.getF F.LATCH_OVF_OVF n]) s

/-- The final beat of a step may close, and the step with it (R67, R143). -/
def State.stepOver (s : State) (p : Nat) : Bool :=
  let x := s.part p
  x.running && s.markersIn p x.beat && !s.varOpen p x.beat && s.finalBeat p &&
    (s.members p).all (fun n => (s.core n).ended) && !s.openGen p

/-- The number of the next step end of the package. -/
def State.nextEnd (s : State) : Nat := (s.parts.map (fun e => e.2.endSeq)).foldl max 0 + 1

/-- The final beat closes and the step ends: provenance records are written and the STEP_DONE with STATUS 0 is posted (R295,
R369). -/
def State.completeStep (s : State) (p refWait : Nat) (losses : List (Nat × Nat)) : State :=
  let s := (s.endHold p).closeBeat p refWait losses
  let s := s.writeProv p (s.runPlan p)
  let s := s.firstStep
  let s := (s.stepDone p 0 false).reportOvf p
  s.modPart p (fun x =>
    { x with
      running := false, started := false, lastFailed := false, payload := [], attempt := 0, prevNo := some x.stepNo, endAt := s.now
      endSeq := s.nextEnd, prevAborted := false })

end Sys2Proof.Machine
end

