-- ==== Sys2Proof/Machine/MemEvents.lean ====
section
/-! DEFINITION. What the memory controllers do by themselves and what reaches them (R171 to R187, R248). -/

namespace Sys2Proof.Machine

/-- A channel refreshes at this time: the channel of an address of an enabled block (R181). -/
def State.refreshing (s : State) (a : Nat) : Bool :=
  match s.ownerOf a with
  | none => false
  | some p =>
    let (ch, tier) := s.chanOf p a
    decide (s.now < tget 0 s.unavail (ch + 256 * tier))

/-- An access of Ranuat to a scratchpad window (R170): refused while the core runs a step. -/
def State.windowAccess (s : State) (n a off : Nat) (wr : Bool) (data : List Byte) : State :=
  if s.coreIn n then (s.memErr causeUNMAPPED a).busError (.refused causeUNMAPPED)
  else if wr then s.setSpad n ((a - windowBase) % windowStride + off) data else s

/-- MEM_ACCESS (R169, R170, R178 to R185): Ranuat's access to granule `g` of the local address map: a read, or a write of `data`
at byte `off` of the granule, with `sym` symbols in error. A register is reached by REGISTER_WRITE. It waits while the channel
refreshes (R181) and until RUN, to which it returns the package (R426); memory held in reset answers nothing (R388). -/
def execMemAccess (g : Nat) (wr : Bool) (off : Nat) (data : List Byte) (sym : Nat) (s : State) : Out :=
  if ¬ (g < 2 ^ 42 ∧ off + data.length ≤ 64) then .fault .noSuchUnit
  else
    let a := 64 * g
    if s.dark then .next s
    else if s.refreshing a || s.getF F.PWR_STATUS_STATE 0 != 0 then .next s.stir
    else
      match s.place a with
      | .window n _ => .next (s.windowAccess n a off wr data)
      | .register => .next s
      | _ =>
        let (s, r) := if wr then (s.markAt a).writePart g off sym data else (s.markAt a).readGran g sym
        .next (s.busError r)

/-! ## Refresh (R181, R183) -/

/-- The stack of an HBM channel refreshes at the halved interval. -/
def State.hot (s : State) (h : Nat) : Bool := bitAt (s.getF F.MEM_STATUS_HOT 0) (h / 32)

/-- HBM_REFRESH (R181): at its instants channel `h` is unavailable for 137 ns. -/
def execHbmRefresh (h : Nat) (s : State) : Out :=
  if ¬ h < 256 then .fault .noSuchUnit
  else if s.dark ∨ ((s.now : Int) - 14 * h) % (if s.hot h then 1950 else 3900) ≠ 0 then .next s
  else .next { s with unavail := tset 0 s.unavail h (s.now + 137) }

/-- CELLAR_REFRESH (R181): at its instants cellar channel `c` is unavailable for 180 ns. -/
def execCellarRefresh (c : Nat) (s : State) : Out :=
  if ¬ c < 16 then .fault .noSuchUnit
  else if s.dark ∨ s.cellarChans ≤ c ∨ ((s.now : Int) - 180 * c) % 3000 ≠ 0 then .next s
  else .next { s with unavail := tset 0 s.unavail (256 + c) (s.now + 180) }

/-- HBM_TEMP_REPORT (R183): a stack above 85 °C refreshes at the halved interval until it reports 80 °C or below. The
report stands in PWR_TEMP1. -/
def execHbmTempReport (stack temp : Nat) (s : State) : Out :=
  if ¬ (stack < 8 ∧ temp < 256) then .fault .noSuchUnit
  else
    let h := s.getF F.MEM_STATUS_HOT 0
    let h := if 85 < temp then setBits h stack 1 1 else if temp ≤ 80 then setBits h stack 1 0 else h
    .next ((s.setF F.MEM_STATUS_HOT 0 h).setF F.PWR_TEMP1_STACK 0 (setBits (s.getF F.PWR_TEMP1_STACK 0) (8 * stack) 8 temp))

/-- A block's channels (first, count) and tier. -/
def State.blockChans (s : State) (p : Nat) (tier : Nat) : Option (Nat × Nat) :=
  if tier = 0 then
    if s.flag F.MEM_PHBM_EN p then some (s.getF F.MEM_PHBM_FIRST p, 2 ^ s.getF F.MEM_PHBM_LOG2C p) else none
  else if s.flag F.MEM_PCEL_EN p then some (s.getF F.MEM_PCEL_FIRST p, 2 ^ s.getF F.MEM_PCEL_LOG2C p) else none

/-! ## The order of the patrol scrub (R186) -/

/-- The enabled blocks in scrub order: HBM by partition, then cellar by partition. -/
def State.blocks (s : State) : List (Nat × Nat) :=
  ((List.range 16).filterMap s.hbmBlock) ++ ((List.range 16).filterMap s.cellarBlock)

/-- The granule at a position of the scrub. -/
def scrubGran : List (Nat × Nat) → Nat → Option Nat
  | [], _ => none
  | (base, size) :: t, i => if i < size / 64 then some (base / 64 + i) else scrubGran t (i - size / 64)

/-- An activity holds the maintenance lock on a resource (R408, Table 21-7). -/
def State.locked (s : State) (code res : Nat) : Bool := s.locks.contains (code, res)

/-- The scrub moves on; a full pass is counted. -/
def State.scrubOn (s : State) : State :=
  let n := (s.blocks.map (fun b => b.2 / 64)).sum
  if n ≤ s.scrubPos + 1 then { s with scrubPos := 0 }.setF F.MEM_SCRUB_PASSES 0 ((s.getF F.MEM_SCRUB_PASSES 0 + 1) % 2 ^ 32)
  else { s with scrubPos := s.scrubPos + 1 }

/-- A slice of the scrub holds a channel; it lasts at most 1 ms (Table 21-7). -/
def State.sliceOn (s : State) (c : Nat) : Bool := s.locked 1 c && decide (s.now < s.scrubSince + 1000000)

/-- The channels of the block of a partition in a tier; those of the cellar count from 256. -/
def State.tierChans (s : State) (p tier : Nat) : List Nat :=
  match s.blockChans p tier with
  | some (f, n) => (List.range n).map (fun c => f + c + 256 * tier)
  | none => []

/-! ## Imbalance monitor (R176) -/

/-- Granules one channel serves in 10 ms at pin rate: 64 GB/s for HBM, 76.8 GB/s for the cellar. -/
def windowGran (tier : Nat) : Nat := if tier = 0 then 10000000 else 12000000

/-- The busiest channel of a block with its count, and the count of the block. -/
def State.busiest (s : State) (first n tier : Nat) : Nat × Nat × Nat :=
  (List.range n).foldl (fun (b : Nat × Nat × Nat) i =>
    let v := tget 0 s.served (first + i + 256 * tier)
    (if b.2.1 < v then first + i else b.1, max b.2.1 v, b.2.2 + v)) (first, 0, 0)

/-- The block of `p` in a tier served enough, and its busiest channel served more than the ratio. -/
def State.skewed (s : State) (p tier : Nat) : Option (Nat × Nat) :=
  match s.blockChans p tier with
  | none => none
  | some (first, n) =>
    let (ch, top, sum) := s.busiest first n tier
    if windowGran tier * n ≤ 100 * sum ∧ s.getF F.MEM_CTRL_SKEW_RATIO 0 * sum < top * n then some (ch, 16 * top * n / sum)
    else none

/-- One block above the ratio: its window counts; the first advisory stands in MEM_SKEW, and every block of a window that began
with none recorded is logged (DESIGN CHOICE, log entry 69: the register holds one block). -/
def State.skewHit (s : State) (first : Bool) (p tier ch ratio : Nat) : State :=
  let s := s.addF F.MEM_SKEW_WINDOWS 0 1
  let t := s.setFs 0 [(F.MEM_SKEW_CHANNEL, ch), (F.MEM_SKEW_PARTITION, p), (F.MEM_SKEW_TIER, tier),
    (F.MEM_SKEW_RATIO_X16, min 65535 ratio), (F.MEM_SKEW_ADVISORY, 1)]
  if ¬ first ∨ ¬ s.flag F.MEM_CTRL_SKEW_EN 0 then s
  else (if s.flag F.MEM_SKEW_ADVISORY 0 then s else t).logEvent 1 0x0104 p [t.rdReg .MEM_SKEW 0]

/-- The 10 ms window of the timebase. -/
def State.windowNo (s : State) : Nat := s.now / 10000000

/-- SKEW_WINDOW (R176): the end of a 10 ms window; within a window nothing happens. -/
def execSkewWindow (s : State) : Out :=
  if s.windowNo = s.skewWin then .next s
  else
    let hits : List (Nat × Nat × Nat × Nat) :=
      (List.range 32).filterMap (fun b => (s.skewed (b % 16) (b / 16)).map (fun h => (b % 16, b / 16, h.1, h.2)))
    let first := !s.flag F.MEM_SKEW_ADVISORY 0
    .next (hits.foldl (fun s h => s.skewHit first h.1 h.2.1 h.2.2.1 h.2.2.2) { s with served := [], skewWin := s.windowNo })

/-! ## Channel blocks (R172, R173) -/

/-- Two channel ranges overlap. -/
def overlap (f1 n1 f2 n2 : Nat) : Bool := decide (f1 < f2 + n2) && decide (f2 < f1 + n1)

/-- A new block clashes with another partition's enabled block of the tier. -/
def State.clashes (s : State) (p tier first n : Nat) : Bool :=
  (List.range 16).any (fun q => q != p && match s.blockChans q tier with
    | some (f, m) => overlap first n f m
    | none => false)

/-- A write of MEM_PHBM sets the HBM block of partition `p`, or is ignored (R172). -/
def State.writePhbm (s : State) (p v : Nat) : State :=
  let first := bitsOf v 0 8
  let k := bitsOf v 8 4
  if s.plansOf p ≠ [] ∨ k < 3 ∨ 8 < k ∨ first % 2 ^ k ≠ 0 ∨ s.clashes p 0 first (2 ^ k) then s
  else (s.setFs p [(F.MEM_PHBM_FIRST, first), (F.MEM_PHBM_LOG2C, k), (F.MEM_PHBM_EN, bitsOf v 16 1)]).rekey s

/-- A write of MEM_PCEL sets the cellar block of partition `p`, or is ignored (R173). -/
def State.writePcel (s : State) (p v : Nat) : State :=
  let first := bitsOf v 0 4
  let k := bitsOf v 8 3
  if s.plansOf p ≠ [] ∨ 4 < k ∨ first % 2 ^ k ≠ 0 ∨ s.clashes p 1 first (2 ^ k) then s
  else (s.setFs p [(F.MEM_PCEL_FIRST, first), (F.MEM_PCEL_LOG2C, k), (F.MEM_PCEL_EN, bitsOf v 16 1)]).rekey s

/-- MEM_PHBM_WRITE (R172). -/
def execMemPhbmWrite (p : Nat) (v : Word64) (s : State) : Out :=
  if ¬ p < 16 then .fault .noSuchUnit else .next (s.writePhbm p v.toNat)

/-- MEM_PCEL_WRITE (R173). -/
def execMemPcelWrite (p : Nat) (v : Word64) (s : State) : Out :=
  if ¬ p < 16 then .fault .noSuchUnit else .next (s.writePcel p v.toNat)

/-! ## Requests of other packages (R171, R248) -/

/-- STATUS of a response (Table 12-4). -/
def rspStatus (c : Nat) : Nat := if c = causeUNMAPPED then 1 else if c = causeKEY then 3 else 2

/-- The answer of the serving package: its status and the data of a read. A length outside 64 to 4,064 is answered RANGE (DESIGN
CHOICE, log entry 69: R248 gives such a request no answer). -/
def State.serveReq (s : State) (k : Packet) (sym : Syms) : State × Nat × List Byte :=
  let a := leAt k.body 0 6
  let p := leAt k.body 6 1 % 16
  let n := if k.ptype = ptMEM_RD then leAt k.body 10 2 else k.body.length - 16
  if a % 64 ≠ 0 ∨ n = 0 ∨ n % 64 ≠ 0 ∨ 4064 < n ∨ ¬ s.ownsRange p a (a + n - 1) then (s.rangeRefused a (a + n - 1), 1, [])
  else
    let s := if 3 ≤ k.vc then s.markUnplanned p else s
    if k.ptype = ptMEM_RD then
      match s.read a n sym with
      | (s, .ok bs) => (s, 0, bs)
      | (s, .refused c) => (s, rspStatus c, [])
    else
      match s.write a sym (k.body.drop 16) with
      | (s, .ok _) => (s, 0, [])
      | (s, .refused c) => (s, rspStatus c, [])

/-- MEM_REQUEST (R248, R426): the first waiting MEM_RD or MEM_WR is checked against the issuer's partition and served in
RUN, to which it returns the package; the response leaves on VC4 for a request on VC3, and on VC0 for a planned one. -/
def execMemRequest (sym : Syms) (s : State) : Out :=
  match takeFirst (fun k => k.ptype == ptMEM_RD || k.ptype == ptMEM_WR) s.inbox with
  | none => .next s
  | some (k, rest) =>
    if s.getF F.PWR_STATUS_STATE 0 ≠ 0 then .next s.stir
    else
    let (s, st, data) := { s with inbox := rest }.serveReq k sym
    let vc := if 3 ≤ k.vc then 4 else 0
    .next (s.inject (s.mkPacket ptMEM_RSP vc k.snode 0 0
      (reqBlock (leAt k.body 0 6) (leAt k.body 6 1 % 16) st (leAt k.body 8 2) 0 ++ data) .unit k.part))

end Sys2Proof.Machine
end

