-- ==== Sys2Proof/Machine/Dma.lean ====
section
/-! DEFINITION. The DMA channels (09): rings, descriptors, pieces, completion, stop and resume, and bounce records
(R355, R356). A channel moves the pieces of one descriptor in walk order. -/

namespace Sys2Proof.Machine

/-! ## The descriptor (Table 9-1) -/

def dVersion (b : List Byte) : Nat := leAt b 0 1
def dNotify (b : List Byte) : Bool := bitAt (leAt b 1 1) 0
def dLatchEn (b : List Byte) : Bool := bitAt (leAt b 1 1) 1
def dOrder (b : List Byte) : Bool := bitAt (leAt b 1 1) 2
def dSrcSpace (b : List Byte) : Nat := leAt b 2 1 % 16
def dDstSpace (b : List Byte) : Nat := leAt b 2 1 / 16
def dSrc (b : List Byte) : Nat := leAt b 4 8
def dDst (b : List Byte) : Nat := leAt b 12 8
def dLen (b : List Byte) : Nat := leAt b 20 3
def dLatch (b : List Byte) : Nat := leAt b 23 1 % 64
def dC1 (b : List Byte) : Nat := leAt b 24 2
def dC2 (b : List Byte) : Nat := leAt b 26 2
def dC3 (b : List Byte) : Nat := leAt b 28 2
def dLcore (b : List Byte) : Nat := leAt b 30 1
def dLinc (b : List Byte) : Nat := leAt b 31 1
def dNode (b : List Byte) : Nat := leAt b 56 3 % 2 ^ 20

/-- The signed steps of loops 1 to 3, source or destination. -/
def dSteps (b : List Byte) (dst : Bool) : Int × Int × Int :=
  let o := if dst then 36 else 32
  (signed 32 (leAt b o 4), signed 32 (leAt b (o + 8) 4), signed 32 (leAt b (o + 16) 4))

/-- Bytes of the whole walk. -/
def dTotal (b : List Byte) : Nat := dLen b * dC1 b * dC2 b * dC3 b

/-- The address of walk offset `w` on one side (R195). -/
def dAddr (b : List Byte) (dst : Bool) (w : Nat) : Nat :=
  let r := w / dLen b
  let (s1, s2, s3) := dSteps b dst
  let base : Int := if dst then dDst b else dSrc b
  ((base + (r % dC1 b : Nat) * s1 + (r / dC1 b % dC2 b : Nat) * s2 + (r / (dC1 b * dC2 b) : Nat) * s3 + (w % dLen b : Nat)) %
    (2 ^ 64 : Int)).toNat

/-- The extent of one side, as R53 computes it with one byte per element. -/
def dExtent (b : List Byte) (dst : Bool) : Int × Int :=
  let (s1, s2, s3) := dSteps b dst
  let base : Int := if dst then dDst b else dSrc b
  let t : Int → Nat → Int := fun st c => st * ((c : Int) - 1)
  (base + min 0 (t s1 (dC1 b)) + min 0 (t s2 (dC2 b)) + min 0 (t s3 (dC3 b)),
   base + dLen b - 1 + max 0 (t s1 (dC1 b)) + max 0 (t s2 (dC2 b)) + max 0 (t s3 (dC3 b)))

/-! ## Channels -/

def State.chan (s : State) (i : Nat) : Chan := tget Chan.init s.dma i
def State.setChan (s : State) (i : Nat) (c : Chan) : State := { s with dma := tset Chan.init s.dma i c }

/-- The partition that owns a channel. -/
def State.chanOwner (s : State) (i : Nat) : Nat := s.getF F.DMA_CHCFG_OWNER i

/-- Bytes of the piece at walk offset `w`: within one run and one granule of the destination (R199: a granule that a run covers is
written whole). -/
def pieceLen (b : List Byte) (w : Nat) : Nat := min (dLen b - w % dLen b) (64 - dAddr b true w % 64)

/-- Bytes of the source granules that hold the piece at walk offset `w`. -/
def pieceSpan (b : List Byte) (w : Nat) : Nat := roundUp (dAddr b false w % 64 + pieceLen b w) 64

/-- A descriptor names the HOST space. -/
def dHost (b : List Byte) : Bool := dSrcSpace b == 3 || dDstSpace b == 3

/-- Pool space, in granules, for the response of a descriptor's present access (R191): the whole span of its piece, or one granule
for the read of a merge or of the read-back. -/
def DmaDesc.space (d : DmaDesc) : Nat := if d.phase = 2 ∨ d.phase = 4 then 1 else pieceSpan d.bytes d.at' / 64

/-- Granules of the pool that a channel holds: for each descriptor between a read and the end of its write (R191). -/
def State.pooled (s : State) (i : Nat) : Nat := (((s.chan i).flight.filter (fun d => d.phase != 0)).map DmaDesc.space).sum

/-- BUSY and USED_KIB follow the channel (Tables 9-8, 9-9, 9-14). -/
def State.dmaBusy (s : State) (i : Nat) : State :=
  let busy := (s.chan i).flight != [] || s.getF F.DMA_HEAD_HEAD i != s.getF F.DMA_TAIL_TAIL i
  let s := s.setF F.DMA_CHSTAT_BUSY i (bit busy)
  let s := s.setF F.DMA_ACTIVE_BUSY (i / 32) (setBits (s.getF F.DMA_ACTIVE_BUSY (i / 32)) (i % 32) 1 (bit busy))
  let held := ((List.range 32).map (fun c => s.pooled (i / 32 * 32 + c))).sum
  s.setF F.DMA_POOL_USED_KIB (i / 32) ((64 * held + 1023) / 1024)

/-- A core lies on the panes of partition `p`, which is not FREE; while the core runs a step, of the partition it runs for (R170,
R341). -/
def State.paneOwned (s : State) (p n : Nat) : Bool :=
  s.getF F.SEC_PCTL_STATE p != 0 && bitAt (s.getF F.SEC_PPANE_PANES p) (n / 8) && (!s.coreIn n || s.partOf n == p)

/-- Every byte from `lo` to `hi` lies in `p`'s blocks or in one window of a core of its panes (R189). -/
def State.dmaReach (s : State) (p : Nat) (lo hi : Int) : Bool :=
  decide (0 ≤ lo) && (s.ownsRange p lo.toNat hi.toNat ||
    match s.place lo.toNat, s.place hi.toNat with
    | .window n _, .window m _ => n == m && s.paneOwned p n
    | _, _ => false)

/-- A local read of a channel or engine of partition `p` (R170, R189, R290). -/
def State.dmaRead (s : State) (p a n : Nat) (sym : Syms) : State × MemRes :=
  match s.place a with
  | .window c off =>
    if s.paneOwned p c ∧ off + n ≤ spadSize then
      ((if (s.members p).contains c then s.markUnplanned p else s), .ok (s.spad c off n))
    else (s.rangeRefused a (a + n - 1), .refused causeUNMAPPED)
  | _ =>
    if s.ownsRange p a (a + n - 1) then (s.markUnplanned p).read a n sym
    else (s.rangeRefused a (a + n - 1), .refused causeUNMAPPED)

/-- A local write of a channel or engine of partition `p`. -/
def State.dmaWrite (s : State) (p a : Nat) (sym : Syms) (bs : List Byte) : State × MemRes :=
  match s.place a with
  | .window c off =>
    if s.paneOwned p c ∧ off + bs.length ≤ spadSize then
      (((if (s.members p).contains c then s.markUnplanned p else s)).setSpad c off bs, .ok [])
    else (s.rangeRefused a (a + bs.length - 1), .refused causeUNMAPPED)
  | _ =>
    if s.ownsRange p a (a + bs.length - 1) then (s.markUnplanned p).write a sym bs
    else (s.rangeRefused a (a + bs.length - 1), .refused causeUNMAPPED)

/-! ## Sides of a transfer (R196, Table 9-2) -/

/-- Where one byte of a side lies. -/
inductive Side where
  | here (a : Nat)
  | there (node a : Nat)
  | host (a : Nat)
  | none (a : Nat)
deriving DecidableEq, Repr

/-- A board address of the own slot is served locally, HBM and cellar only (R171, R196). -/
def State.ownBoard (s : State) (a : Nat) : Side :=
  match s.place a with
  | .hbm => .here a
  | .cellar => .here a
  | _ => .none a

/-- The side of walk offset `w`. -/
def State.side (s : State) (b : List Byte) (dst : Bool) (w : Nat) : Side :=
  let a := dAddr b dst w
  match if dst then dDstSpace b else dSrcSpace b with
  | 0 => .here a
  | 1 => if a / 2 ^ 48 = s.getF F.RTE_SELF_SLOT 0 then s.ownBoard (a % 2 ^ 48) else .there (s.slotNode (a / 2 ^ 48)) (a % 2 ^ 48)
  | 2 => .there (dNode b) (a % 2 ^ 48)
  | _ => .host a

/-- The extent of a LOCAL side is refused (R189, R197). -/
def State.outOfReach (s : State) (p : Nat) (b : List Byte) (dst : Bool) : Bool :=
  (if dst then dDstSpace b else dSrcSpace b) == 0 && !s.dmaReach p (dExtent b dst).1 (dExtent b dst).2

/-- The checks of R197, in their order: 0, or the status (R355: a bounced descriptor has one run). -/
def State.descCheck (s : State) (i : Nat) (b : List Byte) : Nat :=
  let p := s.chanOwner i
  let en : Nat → Bool := fun sp => sp == 0 || (sp == 1 && s.flag F.DMA_CHCFG_BOARD_EN i) ||
    (sp == 2 && s.flag F.DMA_CHCFG_NODE_EN i) || (sp == 3 && s.flag F.DMA_CHCFG_HOST_EN i)
  let high : Nat → Nat → Bool := fun sp a => ((sp == 0 || sp == 2) && a / 2 ^ 48 != 0) || (sp == 1 && a / 2 ^ 52 != 0)
  if dVersion b ≠ 1 then 0x10
  else if leAt b 1 1 / 8 ≠ 0 ∨ leAt b 23 1 / 64 ≠ 0 ∨ leAt b 56 3 / 2 ^ 20 ≠ 0 ∨ leAt b 3 1 ≠ 0 ∨ leAt b 59 5 ≠ 0 then 0x11
  else if 3 < dSrcSpace b ∨ 3 < dDstSpace b ∨ (dSrcSpace b ≠ 0 ∧ dDstSpace b ≠ 0) ∨ ¬ en (dSrcSpace b) ∨
    ¬ en (dDstSpace b) ∨ high (dSrcSpace b) (dSrc b) ∨ high (dDstSpace b) (dDst b) then 0x12
  else if dTotal b = 0 ∨ 2 ^ 40 < dTotal b ∨ (dHost b ∧ s.bounced p ∧ ¬ (dC1 b = 1 ∧ dC2 b = 1 ∧ dC3 b = 1)) then 0x13
  else if dLatchEn b ∧ (47 < dLatch b ∨ dLinc b = 0 ∨ ¬ s.paneOwned p (dLcore b)) then 0x14
  else if s.outOfReach p b false ∨ s.outOfReach p b true then 0x15
  else 0

/-- A descriptor refused with RANGE records the refusal of its first such side where R169 does. -/
def State.descRefused (s : State) (i : Nat) (b : List Byte) : State :=
  if s.descCheck i b ≠ 0x15 then s
  else
    let e := dExtent b (!s.outOfReach (s.chanOwner i) b false)
    s.rangeRefused e.1 e.2

/-! ## Doorbell and fetch (R192, R193) -/

/-- DMA_DOORBELL (R192): TAIL of channel `c` of a jamb, unless the value is not below 2^LOG2N; it returns the package
to RUN (R426). -/
def execDmaDoorbell (jamb c : Nat) (v : Word64) (s : State) : Out :=
  if ¬ (jamb < 2 ∧ c < 32) then .fault .noSuchUnit
  else
    let i := jamb * 32 + c
    let t := bitsOf v.toNat 0 16
    if 2 ^ s.getF F.DMA_RING_LOG2N i ≤ t then .next s
    else .next ((s.stir.setF F.DMA_TAIL_TAIL i t).dmaBusy i)

/-- The address of a slot of the channel's ring. -/
def State.slotAddr (s : State) (i slot : Nat) : Nat := s.getF F.DMA_RING_BASE i * 1024 + 64 * slot

/-- The channel fetches nothing (R193, R203). -/
def State.chanStopped (s : State) (i : Nat) : Bool :=
  s.flag F.DMA_CHSTAT_STOPPED i || (s.chan i).stopping || (s.chan i).halt != 0

/-- DESCRIPTOR_FETCH (R193, R197, R202): the channel reads the next slot between HEAD and TAIL and checks it; a failed
fetch sets FETCH_ERR and stops the channel. -/
def execDescriptorFetch (jamb c : Nat) (sym : Syms) (s : State) : Out :=
  if ¬ (jamb < 2 ∧ c < 32) then .fault .noSuchUnit
  else
    let i := jamb * 32 + c
    let k := s.chan i
    if s.getF F.PWR_STATUS_STATE 0 ≠ 0 ∨ ¬ s.flag F.DMA_CHCFG_EN i ∨ s.chanStopped i ∨ k.next = s.getF F.DMA_TAIL_TAIL i then .next s
    else
      match (s.markAt (s.slotAddr i k.next)).read (s.slotAddr i k.next) 64 sym with
      | (s, .refused _) =>
        .next (((s.setChan i { k with halt := 1 }).setF F.DMA_CHSTAT_FETCH_ERR i 1).logFree (s.chanOwner i) [i])
      | (s, .ok b) =>
        let d : DmaDesc := ⟨k.next, b, s.descCheck i b, 0, 0, 0, 0, []⟩
        let n := (k.next + 1) % 2 ^ s.getF F.DMA_RING_LOG2N i
        .next (((s.descRefused i b).setChan i { k with flight := k.flight ++ [d], next := n }).dmaBusy i)

/-! ## Pieces (R199, R200) -/

/-- Replace the `j`-th descriptor in flight. -/
def State.setDesc (s : State) (i j : Nat) (d : DmaDesc) : State :=
  let k := s.chan i
  (s.setChan i { k with flight := k.flight.set j d }).dmaBusy i

/-- Send a request of a channel on VC3. -/
def State.dmaSend (s : State) (i slot ptype node a rlen : Nat) (body : List Byte) : State :=
  let p := s.chanOwner i
  let (s, tag) := s.newTag (.dma (i / 32) (i % 32) slot)
  s.inject (s.mkPacket ptype 3 node 0 0 (reqBlock a p 0 (tag % 65536) rlen ++ body) .unit p)

/-- A piece of `n` bytes has moved; the last one of a remote destination is followed by its read-back (R201). -/
def State.moved (s : State) (i j : Nat) (d : DmaDesc) (n : Nat) : State :=
  let d := { d with at' := d.at' + n, last := d.at', phase := 0, buf := [] }
  if d.at' = dTotal d.bytes then
    match s.side d.bytes true (d.at' - 1) with
    | .there node a => (s.setDesc i j { d with phase := 4 }).dmaSend i d.slot ptMEM_RD node (a / 64 * 64) 64 []
    | _ => s.setDesc i j d
  else s.setDesc i j d

/-- The descriptor ends bad at its present piece (R198). -/
def State.failDesc (s : State) (i j : Nat) (d : DmaDesc) (status : Nat) : State :=
  s.setDesc i j { d with status := status, fail := d.at', phase := 0, buf := [] }

/-- Write the bytes of a piece at its destination. -/
def State.putPiece (s : State) (i j : Nat) (d : DmaDesc) (sym : Syms) (bs : List Byte) (hostOk : Bool) : State :=
  match s.side d.bytes true d.at' with
  | .here a =>
    match s.dmaWrite (s.chanOwner i) a sym bs with
    | (s, .ok _) => s.moved i j d bs.length
    | (s, .refused _) => s.failDesc i j d 0x21
  | .host a =>
    if hostOk then { s with hostOut := s.hostOut ++ [(a, bs)] }.moved i j d bs.length else s.failDesc i j d 0x21
  | .none a => (s.rangeRefused a (a + bs.length - 1)).failDesc i j d 0x21
  | .there node a =>
    if bs.length = 64 then (s.setDesc i j { d with phase := 3, buf := bs }).dmaSend i d.slot ptMEM_WR node a 0 bs
    else (s.setDesc i j { d with phase := 2, buf := bs }).dmaSend i d.slot ptMEM_RD node (a / 64 * 64) 64 []

/-! ## Bounced pieces (R355) -/

/-- The address of the record that holds walk offset `w`. -/
def recordAddr (a w : Nat) : Nat := a + w / 65536 * 65600

/-- Bytes of the record at walk offset `w`. -/
def recordLen (b : List Byte) (w : Nat) : Nat := min 65536 (dTotal b - w)

/-- One whole bounce record of the descriptor at hand. -/
def State.bouncePiece (s : State) (i j : Nat) (d : DmaDesc) (sym : Syms) (h : HostData) : State :=
  let p := s.chanOwner i
  let n := recordLen d.bytes d.at'
  if dSrcSpace d.bytes = 3 then
    match s.bounceIn p n h with
    | (s, none) => s.failDesc i j d 0x20
    | (s, some bs) => s.putPiece i j d sym bs h.ok
  else
    match s.side d.bytes false d.at' with
    | .here a =>
      match s.dmaRead p a n sym with
      | (s, .refused _) => s.failDesc i j d 0x20
      | (s, .ok bs) =>
        if ¬ h.ok then s.failDesc i j d 0x21
        else match s.bounceOut p bs with
          | (s, none) => s.failDesc i j d 0x20
          | (s, some r) => { s with hostOut := s.hostOut ++ [(recordAddr (dDst d.bytes) d.at', r)] }.moved i j d n
    | _ => s.failDesc i j d 0x20

/-- A descriptor moves whole bounce records (R354). -/
def State.byRecord (s : State) (i : Nat) (d : DmaDesc) : Bool := dHost d.bytes && s.bounced (s.chanOwner i)

/-- Bytes a descriptor moves next. -/
def State.nextLen (s : State) (i : Nat) (d : DmaDesc) : Nat :=
  if s.byRecord i d then recordLen d.bytes d.at' else pieceLen d.bytes d.at'

/-- The channel can reserve pool space for the whole of `n` granules more (R191): within its floor, or within its own limit and what
the floors of the other channels of the jamb leave of 4 MiB. A bounce record that is larger than all the channel may hold passes
through what it may hold, alone (DESIGN CHOICE, log entry 34). -/
def State.poolRoom (s : State) (i n : Nat) : Bool :=
  let floor := 16 * s.getF F.DMA_POOL_FLOOR_KIB (i / 32)
  let mine := s.pooled i + min n (max floor (16 * s.getF F.DMA_CHCFG_POOL_MAX_KIB i))
  let others := (((List.range 32).filter (fun c => c != i % 32)).map (fun c => max floor (s.pooled (i / 32 * 32 + c)))).sum
  decide (mine ≤ floor) || (decide (mine ≤ 16 * s.getF F.DMA_CHCFG_POOL_MAX_KIB i) && decide (others + mine ≤ 65536))

/-- A descriptor still has writes to come that may meet a granule of the `n` bytes at `a` of a destination space (R200): its
destination extent meets them. -/
def DmaDesc.mayWrite (d : DmaDesc) (host : Bool) (a n : Nat) : Bool :=
  d.status == 0 && decide (d.at' < dTotal d.bytes) && (dDstSpace d.bytes == 3) == host &&
  (let e := dExtent d.bytes true
   let lo : Int := (a / 64 * 64 : Nat) % 2 ^ 48
   decide (e.1 % 2 ^ 48 - 63 ≤ lo + (roundUp (a % 64 + n) 64 - 64 : Nat)) && decide (lo ≤ e.1 % 2 ^ 48 + (e.2 - e.1)))

/-- Writes to one granule are made in ring order (R200), those of a whole bounce record too. -/
def State.inOrder (s : State) (i j : Nat) (d : DmaDesc) : Bool :=
  !((s.chan i).flight.take j).any (fun e => e.mayWrite (dDstSpace d.bytes == 3) (dAddr d.bytes true d.at') (s.nextLen i d))

/-- The pane of a window that a piece reads or writes has its clock (R213). -/
def State.sideUp (s : State) (b : List Byte) (dst : Bool) (w : Nat) : Bool :=
  match s.side b dst w with
  | .here a => match s.place a with
    | .window n _ => s.paneUp n
    | _ => true
  | _ => true

/-- A descriptor may move its next piece: it passed its checks, its bytes are not all moved, nothing of it is outstanding,
no stop holds the channel but a failed fetch, an ordered one is the oldest and follows a good one (R193, R202, R203), the pool has
room (R191), no earlier write to the granule is to come (R200), no window it reaches is stopped (R213), and the package is in RUN
(R426). -/
def State.mayMove (s : State) (i j : Nat) (d : DmaDesc) : Bool :=
  s.getF F.PWR_STATUS_STATE 0 == 0 && d.status == 0 && decide (d.at' < dTotal d.bytes) && d.phase == 0 &&
  !(s.flag F.DMA_CHSTAT_STOPPED i || (s.chan i).stopping || (s.chan i).halt == 2) &&
  (!dOrder d.bytes || (j == 0 && !(s.chan i).prevBad)) &&
  s.poolRoom i (if s.byRecord i d then roundUp (s.nextLen i d) 64 / 64 else pieceSpan d.bytes d.at' / 64) && s.inOrder i j d && s.sideUp d.bytes false d.at' && s.sideUp d.bytes true d.at'

/-- DMA_PIECE (R199): the next piece of the `j`-th descriptor in flight moves: read and written at once when both sides
are local or host, sent as a request when a side is on another package. `host` is the host's answer. -/
def execDmaPiece (jamb c j : Nat) (sym : Syms) (host : HostData) (s : State) : Out :=
  if ¬ (jamb < 2 ∧ c < 32) then .fault .noSuchUnit
  else
    let i := jamb * 32 + c
    match (s.chan i).flight[j]? with
    | none => .next s
    | some d =>
      if ¬ s.mayMove i j d then .next s
      else if s.byRecord i d then .next (s.bouncePiece i j d sym host)
      else
        let n := pieceLen d.bytes d.at'
        match s.side d.bytes false d.at' with
        | .here a =>
          match s.dmaRead (s.chanOwner i) a n sym with
          | (s, .ok bs) => .next (s.putPiece i j d sym bs host.ok)
          | (s, .refused _) => .next (s.failDesc i j d 0x20)
        | .host _ => if host.ok then .next (s.putPiece i j d sym (padTo n host.bytes) true) else .next (s.failDesc i j d 0x20)
        | .none a => .next ((s.rangeRefused a (a + n - 1)).failDesc i j d 0x20)
        | .there node a =>
          .next ((s.setDesc i j { d with phase := 1 }).dmaSend i d.slot ptMEM_RD node (a / 64 * 64) (pieceSpan d.bytes d.at') [])

/-- A stop marks a descriptor that has nothing outstanding and has not reached its read-back (R203). An ordered one that has not
started waits to learn how the one before it ends (R202). -/
def DmaDesc.stopped (d : DmaDesc) : DmaDesc :=
  if d.status = 0 ∧ d.at' < dTotal d.bytes ∧ d.phase = 0 ∧ ¬ (dOrder d.bytes ∧ d.at' = 0) then { d with status := 0x24, fail := d.at', buf := [] } else d

/-- While a channel stops, a descriptor whose response has come issues nothing more. -/
def State.settle (s : State) (i : Nat) : State :=
  let k := s.chan i
  if k.stopping then (s.setChan i { k with flight := k.flight.map DmaDesc.stopped }).dmaBusy i else s

/-- A response for the descriptor of `slot` (MEM_RESPONSE): a read's data goes on to its write, unless the channel stops. -/
def State.dmaAnswer (s : State) (i slot status : Nat) (data : List Byte) : State :=
  match (s.chan i).flight.findIdx? (fun d => d.slot == slot) with
  | none => s
  | some j =>
    match (s.chan i).flight[j]? with
    | none => s
    | some d =>
      if d.status ≠ 0 then s
      else match d.phase with
        | 1 =>
          if status ≠ 0 then s.failDesc i j d 0x20
          else if (s.chan i).stopping then s.setDesc i j { d with phase := 0 }
          else s.putPiece i j { d with phase := 0 } [] (Sys2Proof.Machine.slice data (dAddr d.bytes false d.at' % 64) (pieceLen d.bytes d.at')) true
        | 2 =>
          if status ≠ 0 then s.failDesc i j d 0x21
          else if (s.chan i).stopping then s.setDesc i j { d with phase := 0 }
          else
            match s.side d.bytes true d.at' with
            | .there node a =>
              (s.setDesc i j { d with phase := 3 }).dmaSend i d.slot ptMEM_WR node (a / 64 * 64) 0 (patch (padTo 64 data) (a % 64) d.buf)
            | _ => s
        | 3 => if status ≠ 0 then s.failDesc i j d 0x21 else s.moved i j d d.buf.length
        | 4 => if status ≠ 0 then s.setDesc i j { d with status := 0x23, fail := d.last, phase := 0 } else s.setDesc i j { d with phase := 5 }
        | _ => s

/-- A response for the descriptor of `slot` (MEM_RESPONSE). -/
def State.dmaRespond (s : State) (i slot status : Nat) (data : List Byte) : State :=
  (s.dmaAnswer i slot status data).settle i

/-! ## Completion (R201, R202) -/

/-- The slot image a completed descriptor writes back (R194). -/
def DmaDesc.image (d : DmaDesc) (status : Nat) : List Byte :=
  d.bytes.take 3 ++ leBytes 1 status ++ slice d.bytes 4 55 ++ leBytes 5 d.fail

/-- Every byte has moved and the read-back can be made now. -/
def State.moveDone (s : State) (d : DmaDesc) : Bool :=
  decide (dTotal d.bytes ≤ d.at') && (d.phase == 5 || (d.phase == 0 && match s.side d.bytes true (d.at' - 1) with
    | .there _ _ => false
    | _ => true))

/-- The read-back of a local or host destination: whether it returned. -/
def State.readBack (s : State) (i : Nat) (d : DmaDesc) (sym : Syms) (hostOk : Bool) : State × Bool :=
  match s.side d.bytes true (d.at' - 1) with
  | .here a =>
    match s.dmaRead (s.chanOwner i) a 1 sym with
    | (s, .ok _) => (s, true)
    | (s, .refused _) => (s, false)
  | .host _ => (s, hostOk)
  | .none _ => (s, false)
  | .there _ _ => (s, true)

/-- The core a descriptor signals is bound to a plan of its partition (R134). -/
def State.bound (s : State) (p n : Nat) : Bool := s.flag F.CORE_ID_BOUND n && s.partOf n == p

/-- The final status of the oldest descriptor: its own failure, SKIPPED behind a bad one (R202), STOPPED when a stop finds an ordered
one not started behind a good one (R203), or what its read-back gives. `none` while it still moves. -/
def State.finalStatus (s : State) (i : Nat) (d : DmaDesc) (sym : Syms) (hostOk : Bool) : State × Option DmaDesc :=
  if d.status ≠ 0 then (s, some d)
  else if dOrder d.bytes ∧ (s.chan i).prevBad then (s, some { d with status := 0x25 })
  else if (s.chan i).stopping ∧ d.phase = 0 ∧ d.at' = 0 then (s, some { d with status := 0x24 })
  else if ¬ s.moveDone d then (s, none)
  else
    match s.readBack i d sym hostOk with
    | (s, false) => (s, some { d with status := 0x23, fail := d.last })
    | (s, true) =>
      (s, some { d with status := if dLatchEn d.bytes ∧
        (¬ s.bound (s.chanOwner i) (dLcore d.bytes) ∨ (s.part (s.chanOwner i)).quieting) then 2 else 1 })

/-- Raise the notification of a channel: the vector is not stated (a free value). -/
def State.notify (s : State) (p : Nat) : State :=
  let (s, v) := s.takeFree
  { s with msix := s.msix ++ [(p + 1, v % 2048)] }

/-- A completed descriptor leaves the ring: latch write, notification, HEAD and counts (R201). -/
def State.retire (s : State) (i : Nat) (d : DmaDesc) : State :=
  let good := d.status ≤ 2
  let s := if d.status = 1 ∧ dLatchEn d.bytes then s.latchWrite (dLcore d.bytes) (dLatch d.bytes) (dLinc d.bytes) else s
  let s := if dNotify d.bytes ∧ good then s.notify (s.chanOwner i) else s
  let s := s.setF F.DMA_HEAD_HEAD i ((s.getF F.DMA_HEAD_HEAD i + 1) % 2 ^ s.getF F.DMA_RING_LOG2N i)
  let s := if good then s.addF F.DMA_CHSTAT_DONE i 1 else s.addF F.DMA_CHSTAT_BAD i 1
  let k := s.chan i
  let rest := k.flight.drop 1
  let s := s.setChan i
    { k with
      flight := rest, prevBad := !good, stopping := k.stopping && rest != []
      next := if k.stopping ∧ rest = [] then s.getF F.DMA_HEAD_HEAD i else k.next }
  let s := if k.stopping ∧ rest = [] then s.setF F.DMA_CHSTAT_STOPPED i 1 else s
  s.dmaBusy i

/-- The write of a slot: refused, or met by an uncorrectable error of its granule, which is recorded and poisoned as that of a read
(DESIGN CHOICE, log entry 34: R193 lets a write-back meet one). -/
def State.writeSlot (s : State) (a : Nat) (bs : List Byte) : State × MemRes :=
  if 4 ≤ s.flaw (a / 64) then (s.poisonAs causeUNCORR_READ (a / 64), .refused causeUNCORR_READ)
  else (s.markAt a).write a [] bs

/-- Write back the oldest descriptor and retire it; a failed write-back stops the channel (R193). -/
def State.writeBack (s : State) (i : Nat) (d : DmaDesc) : State :=
  match s.writeSlot (s.slotAddr i d.slot) (d.image d.status) with
  | (s, .ok _) => s.retire i d
  | (s, .refused _) =>
    let s := s.setDesc i 0 d
    ((s.setChan i { s.chan i with halt := 2 }).setF F.DMA_CHSTAT_WB_ERR i 1).logFree (s.chanOwner i) [i]

/-- DESCRIPTOR_COMPLETE (R201): the oldest descriptor of the channel completes. -/
def execDescriptorComplete (jamb c : Nat) (sym : Syms) (hostOk : Bool) (s : State) : Out :=
  if ¬ (jamb < 2 ∧ c < 32) then .fault .noSuchUnit
  else
    let i := jamb * 32 + c
    match (s.chan i).flight with
    | [] => .next s
    | d :: _ =>
      if (s.chan i).halt = 2 then .next s
      else
        match (s.addFlaws sym).finalStatus i d sym hostOk with
        | (_, none) => .next s
        | (s, some d) => .next (s.writeBack i d)

/-- An access of the descriptor is outstanding: at another package, a host access, or one of a window whose pane is stopped (R213). -/
def State.awaits (s : State) (d : DmaDesc) : Bool :=
  d.status == 0 && ((1 ≤ d.phase && d.phase ≤ 4) || (d.phase == 0 && (dHost d.bytes ||
    (decide (d.at' < dTotal d.bytes) && !(s.sideUp d.bytes false d.at' && s.sideUp d.bytes true d.at')))))

/-- Forget the tags of a descriptor: a late response is dropped. -/
def State.dropTags (s : State) (i slot : Nat) : State :=
  { s with tags := s.tags.filter (fun t => t.2 != .dma (i / 32) (i % 32) slot) }

/-- DMA_TIMEOUT (R197): an outstanding access of the `j`-th descriptor got no response in TIMEOUT_US; in a stop the wait ends and
the descriptor is marked STOPPED (R203). -/
def execDmaTimeout (jamb c j : Nat) (s : State) : Out :=
  if ¬ (jamb < 2 ∧ c < 32) then .fault .noSuchUnit
  else
    let i := jamb * 32 + c
    match (s.chan i).flight[j]? with
    | none => .next s
    | some d =>
      if ¬ s.awaits d then .next s
      else
        let back := dTotal d.bytes ≤ d.at'
        let d := { d with status := if (s.chan i).stopping ∧ ¬ back then 0x24 else 0x22, fail := if back then d.last else d.at', phase := 0, buf := [] }
        .next ((s.setDesc i j d).dropTags i d.slot)

/-! ## Stop and resume (R203, R193) -/

/-- The stop of a channel: nothing new is issued; the responses already asked for are awaited, a descriptor that has reached its
read-back completes and every other ends STOPPED; STOPPED is set once none is in flight. -/
def State.stopChan (s : State) (i : Nat) : State :=
  let k := s.chan i
  if k.flight = [] then
    ((s.setChan i { k with stopping := false, next := s.getF F.DMA_HEAD_HEAD i }).setF F.DMA_CHSTAT_STOPPED i 1).dmaBusy i
  else (s.setChan i { k with stopping := true }).settle i

/-- DMA_STOP (R203): a write of DMA_CHCTRL with STOP and not RESUME. -/
def execDmaStop (jamb c : Nat) (v : Word64) (s : State) : Out :=
  if ¬ (jamb < 2 ∧ c < 32) then .fault .noSuchUnit
  else if v.toNat % 4 ≠ 1 then .next s
  else .next (s.stopChan (jamb * 32 + c))

/-- The resume of a channel: the stops clear, a failed write-back is retried, and fetching goes on from HEAD. -/
def State.resumeChan (s : State) (i : Nat) : State :=
  let s := s.setFs i [(F.DMA_CHSTAT_STOPPED, 0), (F.DMA_CHSTAT_FETCH_ERR, 0), (F.DMA_CHSTAT_WB_ERR, 0)]
  let k := s.chan i
  match k.flight with
  | [] => s.setChan i { k with next := s.getF F.DMA_HEAD_HEAD i, stopping := false, halt := 0 }
  | d :: _ =>
    let s := s.setChan i { k with stopping := false, halt := 0 }
    if k.halt = 2 then s.writeBack i d else s

/-- DMA_RESUME (R193): a write of DMA_CHCTRL with RESUME and not STOP; a package that PWRFAIL_N has made quiet holds (R389). -/
def execDmaResume (jamb c : Nat) (v : Word64) (s : State) : Out :=
  if ¬ (jamb < 2 ∧ c < 32) then .fault .noSuchUnit
  else if v.toNat % 4 ≠ 2 ∨ s.boot.quiet then .next s
  else .next (s.resumeChan (jamb * 32 + c))

end Sys2Proof.Machine
end

