-- ==== Sys2Proof/Machine/Rs.lean ====
section
/-! DEFINITION. The Reed–Solomon engines (R410 to R412), the maintenance lock (R408) and the responses of memory
requests (R248). A job moves one 64-byte column of its shards at a time. -/

namespace Sys2Proof.Machine

/-! ## GF(2^8) with 0x11D and generator 2 -/

def gfX (a : Nat) : Nat := if 128 ≤ a then (2 * a) ^^^ 0x11D else 2 * a

/-- Product, over the bits of `b` from `n` downward. -/
def gfMulN (a b : Nat) : Nat → Nat
  | 0 => 0
  | n + 1 => gfX (gfMulN a (b / 2) n) ^^^ (if bitAt b 0 then a else 0)

def gfMul (a b : Nat) : Nat := gfMulN a b 8

def gfPow (a : Nat) : Nat → Nat
  | 0 => 1
  | n + 1 => gfMul a (gfPow a n)

def gfInv (a : Nat) : Nat := gfPow a 254

/-- One byte position of a shard group: P or Q over the data bytes. -/
def rsP (d : List Nat) : Nat := d.foldl (· ^^^ ·) 0
def rsQ (d : List Nat) : Nat := (d.zipIdx).foldl (fun a x => a ^^^ gfMul (gfPow 2 x.2) x.1) 0

/-- Put the data byte of shard `i`. -/
def putAt (d : List Nat) (i v : Nat) : List Nat := d.set i v

/-- Recover the data bytes: `d` holds 0 at the missing shards `miss`; `p` and `q` are the surviving parity bytes. -/
def rsSolve (d : List Nat) (miss : List Nat) (p q : Option Nat) : List Nat :=
  match miss, p, q with
  | [x], some p, _ => putAt d x (p ^^^ rsP d)
  | [x], none, some q => putAt d x (gfMul (gfInv (gfPow 2 x)) (q ^^^ rsQ d))
  | [x, y], some p, some q =>
    let sx := p ^^^ rsP d
    let t := q ^^^ rsQ d
    let dy := gfMul (gfInv (gfPow 2 x ^^^ gfPow 2 y)) (t ^^^ gfMul (gfPow 2 x) sx)
    putAt (putAt d x (sx ^^^ dy)) y dy
  | _, _, _ => d

/-! ## The job (Table 21-8) -/

def jKind (b : List Byte) : Nat := leAt b 1 1
def jN (b : List Byte) : Nat := leAt b 2 1
def jM (b : List Byte) : Nat := leAt b 3 1
def jNotify (b : List Byte) : Bool := bitAt (leAt b 5 1) 0
def jLatchEn (b : List Byte) : Bool := bitAt (leAt b 5 1) 1
def jLatch (b : List Byte) : Nat := leAt b 6 1 % 64
def jLinc (b : List Byte) : Nat := leAt b 7 1
def jErased (b : List Byte) : Nat := leAt b 8 4
def jLcore (b : List Byte) : Nat := leAt b 12 1
def jLen (b : List Byte) : Nat := leAt b 16 8
def jList (b : List Byte) : Nat := leAt b 24 6

/-- The shards a job writes, and the shards it reads. -/
def jDst (b : List Byte) : List Nat :=
  if jKind b = 1 then (List.range (jM b)).map (· + jN b) else onesOf (jErased b) 32
def jSrc (b : List Byte) : List Nat :=
  if jKind b = 1 then List.range (jN b)
  else ((List.range (jN b + jM b)).filter (fun i => !bitAt (jErased b) i)).take (jN b)

/-- Bytes 64 of each shard written, from those read. -/
def rsColumn (b : List Byte) (bufs : Tbl (List Byte)) (shard : Nat) : List Byte :=
  let n := jN b
  let has := jSrc b
  (List.range 64).map fun k =>
    let at' : Nat → Nat := fun i => ((tget [] bufs i).getD k 0).toNat
    let d := (List.range n).map (fun i => if has.contains i then at' i else 0)
    let miss := (List.range n).filter (fun i => !has.contains i)
    let p := if has.contains n then some (at' n) else none
    let q := if has.contains (n + 1) then some (at' (n + 1)) else none
    let d := rsSolve d miss p q
    BitVec.ofNat 8 (if shard < n then d.getD shard 0 else if shard = n then rsP d else rsQ d)

/-! ## The maintenance lock (R408, Table 21-7) -/

/-- ACTIVE follows the locks held. -/
def State.lockBits (s : State) : State :=
  s.setF F.CTL_MLOCK_ACTIVE 0 ((List.range 7).foldl (fun v c => setBits v c 1 (bit (s.locks.any (fun l => l.1 == c)))) 0)

/-- Take the lock on resources; a slice of the scrub that has lasted 1 ms gives way (R409). -/
def State.takeLocks (s : State) (code : Nat) (rs : List Nat) : State :=
  { s with locks := s.locks.filter (fun (l : Nat × Nat) => l.1 != 1 || s.sliceOn l.2) ++ rs.map (fun r => (code, r)) }.lockBits

def State.dropLocks (s : State) (code : Nat) (rs : List Nat) : State :=
  { s with locks := s.locks.filter (fun l => l.1 != code || !rs.contains l.2) }.lockBits

/-! ## Rings -/

def State.rsJob (s : State) (i : Nat) : RsJob := tget rsNone s.rs i
def State.setJob (s : State) (i : Nat) (j : RsJob) : State := { s with rs := tset rsNone s.rs i j }

def State.rsBusy (s : State) (i : Nat) : State :=
  s.setF F.DMA_RSSTAT_BUSY i (bit (s.rsJob i != rsNone || s.getF F.DMA_RSHEAD_INDEX i != s.getF F.DMA_RSTAIL_INDEX i))

/-- RS_DOORBELL (R410): the tail of the job ring of partition `p` on a jamb; it returns the package to RUN (R426). -/
def execRsDoorbell (jamb p : Nat) (v : Word64) (s : State) : Out :=
  if ¬ (jamb < 2 ∧ p < 16) then .fault .noSuchUnit
  else
    let i := jamb * 16 + p
    let t := bitsOf v.toNat 0 16
    if 2 ^ s.getF F.DMA_RSCFG_LOG2N i ≤ t then .next s else .next ((s.stir.setF F.DMA_RSTAIL_INDEX i t).rsBusy i)

/-- The address of the job slot at HEAD. -/
def State.jobSlot (s : State) (i : Nat) : Nat := s.getF F.DMA_RSCFG_BASE i * 1024 + 64 * s.getF F.DMA_RSHEAD_INDEX i

/-- The operand list: (node, address) and whether reserved bytes are zero, by shard. -/
def rsList (bs : List Byte) (n : Nat) : List (Nat × Nat × Bool) :=
  (List.range n).map fun i =>
    let e := (bs.drop (16 * i)).take 16
    (leAt e 0 3 % 2 ^ 20, leAt e 4 6, decide (leAt e 0 3 / 2 ^ 20 = 0 ∧ leAt e 3 1 = 0 ∧ leAt e 10 6 = 0))

/-- A shard lies on this package. -/
def State.rsLocal (s : State) (e : Nat × Nat) : Bool := e.1 == 0xFFFFF || e.1 == s.node

/-- The checks of a job, as R197 orders them: 0, or the status. -/
def State.jobCheck (s : State) (p : Nat) (b : List Byte) (l : List (Nat × Nat × Bool)) : Nat :=
  let lost := (onesOf (jErased b) 32).length
  if leAt b 0 1 ≠ 1 then 0x10
  else if leAt b 4 1 ≠ 0 ∨ leAt b 5 1 / 4 ≠ 0 ∨ leAt b 6 1 / 64 ≠ 0 ∨ leAt b 13 3 ≠ 0 ∨ leAt b 30 2 ≠ 0 ∨ leAt b 32 5 ≠ 0 ∨
    leAt b 37 27 ≠ 0 ∨ (jKind b ≠ 1 ∧ jKind b ≠ 2) ∨ (jKind b = 1 ∧ jErased b ≠ 0) ∨ l.any (fun e => !e.2.2) then 0x11
  else if jN b = 0 ∨ 30 < jN b ∨ jM b = 0 ∨ 2 < jM b ∨ jLen b = 0 ∨ jLen b % 64 ≠ 0 ∨ 2 ^ 32 < jLen b ∨ jList b % 16 ≠ 0 ∨
    2 ^ (jN b + jM b) ≤ jErased b ∨ l.any (fun e => e.2.1 % 64 != 0) then 0x13
  else if jKind b = 2 ∧ (lost = 0 ∨ jM b < lost) then 0x26
  else if jLatchEn b ∧ (47 < jLatch b ∨ jLinc b = 0 ∨ ¬ s.paneOwned p (jLcore b)) then 0x14
  else if ¬ s.ownsRange p (jList b) (jList b + 16 * (jN b + jM b) - 1) ∨
    l.any (fun e => s.rsLocal (e.1, e.2.1) && !s.ownsRange p e.2.1 (e.2.1 + jLen b - 1)) then 0x15
  else 0

/-- The channels of the blocks a job writes on this package. -/
def State.jobChans (s : State) (p : Nat) (j : RsJob) : List Nat :=
  (List.range 2).flatMap fun tier =>
    if (jDst j.bytes).any (fun i => match j.list[i]? with
        | some e => s.rsLocal e && decide ((s.chanOf p e.2).2 = tier)
        | none => false) then s.tierChans p tier
    else []

/-! ## Requests for the maintenance lock (R408) -/

/-- The panes, channels and ports of a partition as resources: pane q is q, channel c is 100 + c, port q is 1000 + q. -/
def State.partRes (s : State) (p : Nat) : List Nat :=
  onesOf (s.getF F.SEC_PPANE_PANES p) 32 ++ (s.tierChans p 0 ++ s.tierChans p 1).map (· + 100) ++
    (onesOf (s.getF F.SEC_PPORT_PORTS p) 36).map (· + 1000)

/-- The resources of a lock held. -/
def State.lockRes (s : State) (x : Nat × Nat) : List Nat :=
  match x.1 with
  | 0 => [x.2]
  | 1 => [100 + x.2]
  | 2 => [100 + x.2]
  | 5 => s.partRes x.2
  | 6 => [1000 + x.2]
  | _ => []

/-- The resources that a request in the queue names. -/
def State.lockWants (s : State) (x : Nat × Nat) : List Nat :=
  match x.1 with
  | 2 => (s.jobChans (x.2 % 16) (s.rsJob x.2)).map (100 + ·)
  | 6 => [1000 + x.2 % 64]
  | _ => s.lockRes x

/-- A live update or a reset of the control complex claims it alone; pane changes share it. -/
def ctlClash (a b : Nat) : Bool := ((a == 3 || a == 4) && (b == 0 || b == 3 || b == 4)) || (a == 0 && (b == 3 || b == 4))

/-- A lock held, or a request of `ahead`, stands in the way of a request; a slice of the scrub does for 1 ms (Table 21-7). -/
def State.lockBlocked (s : State) (code x : Nat) (ahead : List (Nat × Nat)) : Bool :=
  let want := s.lockWants (code, x)
  let clash := fun (c : Nat) (rs : List Nat) => ctlClash code c || want.any rs.contains
  s.locks.any (fun l => (l.1 != 1 || s.sliceOn l.2) && clash l.1 (s.lockRes l)) || ahead.any (fun l => clash l.1 (s.lockWants l))

/-- A request may take the lock: nothing held and no earlier request stands in its way. -/
def State.mayLock (s : State) (code x : Nat) : Bool := !s.lockBlocked code x (s.lockQ.takeWhile (fun l => l != (code, x)))

/-- The queue of requests; QUEUED follows it (Table 21-11). -/
def State.setLockQ (s : State) (l : List (Nat × Nat)) : State := { s with lockQ := l }.setF F.CTL_MLOCK_QUEUED 0 l.length

/-- A request that must wait joins the queue and is counted, once. -/
def State.askLock (s : State) (code x : Nat) : State :=
  if s.lockQ.contains (code, x) then s else (s.addF F.CTL_MLOCK_BUSY 0 1).setLockQ (s.lockQ ++ [(code, x)])

/-- A request leaves the queue. -/
def State.leaveQ (s : State) (code x : Nat) : State :=
  if s.lockQ.contains (code, x) then s.setLockQ (s.lockQ.filter (fun l => l != (code, x))) else s

/-- A request takes its lock. -/
def State.grantLock (s : State) (code x : Nat) : State :=
  (s.leaveQ code x).takeLocks code (if code = 2 then s.jobChans (x % 16) (s.rsJob x) else [x])

/-- Fetch the job at HEAD (R193); the checks of the slot itself come before the operand list is read (R197). A REBUILD takes the lock of the channels it writes, or waits for it (phase 5). -/
def State.fetchJob (s : State) (i kind : Nat) (sym : Syms) : State :=
  let p := i % 16
  if s.getF F.PWR_STATUS_STATE 0 ≠ 0 ∨ s.rsJob i ≠ rsNone ∨ ¬ s.flag F.DMA_RSCFG_EN i ∨ s.flag F.DMA_RSSTAT_FETCH_ERR i ∨
    s.getF F.DMA_RSHEAD_INDEX i = s.getF F.DMA_RSTAIL_INDEX i then s
  else
    match (s.markAt (s.jobSlot i)).read (s.jobSlot i) 64 sym with
    | (s, .refused _) => (s.setF F.DMA_RSSTAT_FETCH_ERR i 1).logFree p [i]
    | (s', .ok b) =>
      if jKind b ≠ kind ∧ (jKind b = 1 ∨ jKind b = 2) then s
      else
        let s := s'
        let n := jN b + jM b
        let code := s.jobCheck p b []
        let (s, r) := if code ≠ 0x10 ∧ code ≠ 0x11 ∧ s.ownsRange p (jList b) (jList b + 16 * n - 1) ∧ n ≤ 32 then
            s.dmaRead p (jList b) (16 * n) sym
          else (s, .ok [])
        match r with
        | .refused _ => (s.setJob i ⟨b, [], if code ≠ 0 then code else 0x20, 0, 0, 0, 0, [], 0⟩).rsBusy i
        | .ok bs =>
          let l := rsList bs n
          let j : RsJob := ⟨b, l.map (fun e => (e.1, e.2.1)), s.jobCheck p b l, 0, 0, 0, 0, [], 0⟩
          let s := s.setJob i j
          let s := if kind = 2 ∧ j.status = 0 then
              if s.mayLock 2 i then s.grantLock 2 i else (s.askLock 2 i).setJob i { j with phase := 5 }
            else s
          s.rsBusy i

/-! ## Moving a column -/

/-- Send a request of a job on VC3; the wait for an answer is timed from the latest (R198). -/
def State.rsSend (s : State) (i shard ptype node a rlen : Nat) (body : List Byte) : State :=
  let s := s.setJob i { s.rsJob i with wait := (s.rsJob i).wait + 1, since := s.now }
  let (s, tag) := s.newTag (.rs (i / 16) (i % 16) shard)
  s.inject (s.mkPacket ptype 3 node 0 0 (reqBlock a (i % 16) 0 (tag % 65536) rlen ++ body) .unit (i % 16))

def State.failJob (s : State) (i status : Nat) : State :=
  let j := s.rsJob i
  s.setJob i { j with status := status, fail := min j.at' (jLen j.bytes - 64), wait := 0, bufs := [] }

/-- Read the 64-byte pieces of shards: local ones at once, the others by request. -/
def State.rsRead (s : State) (i off : Nat) (sym : Syms) (code : Nat) : List Nat → State
  | [] => s
  | sh :: t =>
    let j := s.rsJob i
    if j.status ≠ 0 then s
    else
      let e := j.list.getD sh (0, 0)
      if s.rsLocal e then
        match s.dmaRead (i % 16) (e.2 + off) 64 sym with
        | (s, .ok bs) => (s.setJob i { j with bufs := tset [] j.bufs sh bs }).rsRead i off sym code t
        | (s, .refused _) => s.failJob i code
      else (s.rsSend i sh ptMEM_RD e.1 (e.2 + off) 64 []).rsRead i off sym code t

/-- Write the 64-byte pieces of the shards a job writes. -/
def State.rsWrite (s : State) (i : Nat) (sym : Syms) : List Nat → State
  | [] => s
  | sh :: t =>
    let j := s.rsJob i
    if j.status ≠ 0 then s
    else
      let e := j.list.getD sh (0, 0)
      let bs := rsColumn j.bytes j.bufs sh
      if s.rsLocal e then
        match s.dmaWrite (i % 16) (e.2 + j.at') sym bs with
        | (s, .ok _) => s.rsWrite i sym t
        | (s, .refused _) => s.failJob i 0x21
      else (s.rsSend i sh ptMEM_WR e.1 (e.2 + j.at') 0 bs).rsWrite i sym t

/-- The job is in a phase with nothing outstanding. -/
def State.rsIn (s : State) (i phase : Nat) : Bool :=
  (s.rsJob i).status == 0 && (s.rsJob i).phase == phase && (s.rsJob i).wait == 0 && s.rsJob i != rsNone

/-- A phase of the job ends. -/
def State.rsPhase (s : State) (i phase : Nat) : State := s.setJob i { s.rsJob i with phase := phase }

/-- A request of the job has had no answer for DMA_CTRL.TIMEOUT_US: the job ends with TIMEOUT and its requests are forgotten (R198). -/
def State.rsTimeout (s : State) (i : Nat) : State :=
  let j := s.rsJob i
  if j.status = 0 ∧ 0 < j.wait ∧ j.since + 1000 * s.getF F.DMA_CTRL_TIMEOUT_US 0 < s.now then
    ({ s with tags := s.tags.filter (fun t => !t.2.ofRs (i / 16) (i % 16)) } : State).failJob i 0x22
  else s

/-- Advance the job as far as its outstanding responses allow, by at most one column. -/
def State.rsRun (s : State) (i : Nat) (sym : Syms) : State :=
  let s := s.rsTimeout i
  let b := (s.rsJob i).bytes
  let s := if s.rsIn i 5 ∧ s.mayLock 2 i then (s.grantLock 2 i).rsPhase i 0 else s
  let s := if s.rsIn i 0 then (s.rsPhase i 1).rsRead i (s.rsJob i).at' sym 0x20 (jSrc b) else s
  let s := if s.rsIn i 1 then (s.rsPhase i 2).rsWrite i sym (jDst b) else s
  let s := if s.rsIn i 2 then
      let j := s.rsJob i
      let s := s.setJob i { j with at' := j.at' + 64, phase := if j.at' + 64 < jLen b then 0 else 3, bufs := [] }
      if s.rsIn i 3 then s.rsRead i (jLen b - 64) sym 0x23 (jDst b) else s
    else s
  if s.rsIn i 3 then s.rsPhase i 4 else s

/-- A response for shard `sh` of the job on ring `i` (MEM_RESPONSE). -/
def State.rsRespond (s : State) (i sh status : Nat) (data : List Byte) : State :=
  let j := s.rsJob i
  if j = rsNone ∨ j.status ≠ 0 then s
  else if status ≠ 0 then s.failJob i (if j.phase = 1 then 0x20 else if j.phase = 2 then 0x21 else 0x23)
  else s.setJob i { j with wait := j.wait - 1, bufs := if j.phase = 1 then tset [] j.bufs sh (padTo 64 data) else j.bufs }

/-- ENCODE (R411): the ring's ENCODE job reads the next column of the data shards and writes the parity shards. -/
def execEncode (jamb p : Nat) (sym : Syms) (s : State) : Out :=
  if ¬ (jamb < 2 ∧ p < 16) then .fault .noSuchUnit
  else
    let i := jamb * 16 + p
    let s := s.fetchJob i 1 sym
    if jKind (s.rsJob i).bytes = 1 then .next (s.rsRun i sym) else .next s

/-- REBUILD (R411, R412): the ring's REBUILD job reconstructs the next column of the erased shards. -/
def execRebuild (jamb p : Nat) (sym : Syms) (s : State) : Out :=
  if ¬ (jamb < 2 ∧ p < 16) then .fault .noSuchUnit
  else
    let i := jamb * 16 + p
    let s := s.fetchJob i 2 sym
    if jKind (s.rsJob i).bytes = 2 then .next (s.rsRun i sym) else .next s

/-- RS_JOB_COMPLETE (R411): the status is written back, the latch write sent, the notification raised and the ring
advances; a bad job is logged. A refused write-back stops the ring. -/
def execRsJobComplete (jamb p : Nat) (s : State) : Out :=
  if ¬ (jamb < 2 ∧ p < 16) then .fault .noSuchUnit
  else
    let i := jamb * 16 + p
    let j := s.rsJob i
    if j = rsNone ∨ (j.status = 0 ∧ j.phase ≠ 4) ∨ s.flag F.DMA_RSSTAT_FETCH_ERR i then .next s
    else
      let st := if j.status ≠ 0 then j.status else if jLatchEn j.bytes ∧ (¬ s.bound p (jLcore j.bytes) ∨ (s.part p).quieting) then 2 else 1
      let img := j.bytes.take 4 ++ leBytes 1 st ++ slice j.bytes 5 27 ++ leBytes 5 j.fail ++ j.bytes.drop 37
      match (s.markAt (s.jobSlot i)).write (s.jobSlot i) [] img with
      | (s, .refused _) => .next ((s.setF F.DMA_RSSTAT_FETCH_ERR i 1).logFree p [i])
      | (s, .ok _) =>
        let s := if st = 1 ∧ jLatchEn j.bytes then s.latchWrite (jLcore j.bytes) (jLatch j.bytes) (jLinc j.bytes) else s
        let s := if jNotify j.bytes ∧ st ≤ 2 then s.notify p else s
        let s := s.setF F.DMA_RSHEAD_INDEX i ((s.getF F.DMA_RSHEAD_INDEX i + 1) % 2 ^ s.getF F.DMA_RSCFG_LOG2N i)
        let s := if jKind j.bytes = 2 ∧ (j.status = 0 ∨ (0x20 ≤ j.status ∧ j.status < 0x26)) then s.dropLocks 2 (s.jobChans p j) else s
        let s := if st ≤ 2 then s.addF F.DMA_RSSTAT_DONE i 1
          else (s.addF F.DMA_RSSTAT_BAD i 1).logEvent 2 0x010C p [jamb, p, st, j.fail]
        .next ((s.setJob i rsNone).rsBusy i)

end Sys2Proof.Machine
end

