-- ==== Sys2Proof/Machine/PortOps.lean ====
section
/-! DEFINITION. Ports: packets as bytes and flits (R245, R246), the queue of a port, replays, discards and the entries to
the port states (R233, R249 to R262). -/

namespace Sys2Proof.Machine

def State.port (s : State) (q : Nat) : Port := tget Port.init s.ports q
def State.setPort (s : State) (q : Nat) (x : Port) : State := { s with ports := tset Port.init s.ports q x }
def State.modPort (s : State) (q : Nat) (f : Port → Port) : State := s.setPort q (f (s.port q))

/-- The state of a port (Table 11-3). -/
def State.pstate (s : State) (q : Nat) : Nat := s.getF F.PORT_STATUS_STATE q

/-- The partition that owns a port (R269, SEC_PPORT): one that is not FREE. -/
def State.portOwner (s : State) (q : Nat) : Option Nat :=
  (List.range 16).find? (fun p => s.getF F.SEC_PCTL_STATE p != 0 && bitAt (s.getF F.SEC_PPORT_PORTS p) q)

/-- A variance event charged to a port's owner; a port without owner counts for the package alone (Table 14-1). -/
def State.varyPort (s : State) (cause q : Nat) : State :=
  match s.portOwner q with
  | some p => s.vary cause p
  | none => (s.addF F.CTL_VAR_COUNT 0 1).addF F.CTL_VARC_COUNT (cause - 1) 1

/-! ## Packets and flits -/

/-- The VCs a type may use (Table 12-3). -/
def vcAllowed (ptype vc : Nat) : Bool :=
  if ptype = ptDATA ∨ ptype = ptLATCH then vc ≤ 1
  else if ptype = ptTOKEN ∨ ptype = ptABORT then vc == 2
  else if ptype = ptMEM_RD ∨ ptype = ptMEM_WR then vc ≤ 1 || vc == 3
  else if ptype = ptMEM_RSP then vc ≤ 1 || vc == 4
  else (ptype == ptBEACON || ptype == ptMGMT) && vc == 5

/-- ARG has no reserved bit set and LATCH carries no payload. -/
def argOk (ptype arg len : Nat) : Bool :=
  if ptype = ptDATA then arg < 2 ^ 23 && len % 64 == 0
  else if ptype = ptLATCH then arg < 2 ^ 14 && len == 0
  else if ptype = ptMGMT then 1 ≤ arg && arg ≤ 8
  else arg == 0

/-- The packet whose head flit has the body `bs` and came on `vc`, with the payload bytes of that flit; `none` when its header is
malformed (R246, R247). -/
def parseHead (bs : List Byte) (vc : Nat) (src : Origin) (p stamp : Nat) : Option Packet :=
  let ptype := leAt bs 1 1
  let fl := leAt bs 2 1
  let rt := leAt bs 3 1
  let dn := leAt bs 4 3
  let sn := leAt bs 7 3
  let tr := leAt bs 10 2
  let ln := leAt bs 16 2
  let fan := bitAt rt 3
  if leAt bs 0 1 ≠ 1 ∨ ¬ vcAllowed ptype vc ∨ 17 < fl ∨ 4096 < ln ∨ fl ≠ flitsOf ln ∨ rt % 8 ≠ vc ∨ 16 ≤ rt ∨
    2 ^ 20 ≤ dn ∨ 2 ^ 20 ≤ sn ∨ 2 ^ 12 ≤ tr ∨ (fan ∧ (dn ≠ 0 ∨ leAt bs 12 1 ≠ 0)) ∨ (¬ fan ∧ tr ≠ 0) ∨
    ¬ argOk ptype (leAt bs 13 3) ln then none
  else some ⟨1, ptype, fl, vc, fan, dn, sn, tr, leAt bs 12 1, leAt bs 13 3, ln, slice bs 18 (min ln 224), src, p, [], stamp⟩

/-! ## Packets at the routers (R266, R272, R280) -/

/-- The input of its router that a packet came by, in the fixed order of R272: the hinge (0) for what a core, a unit or the other
jamb's router sends, or its port. -/
def Worm.input (w : Worm) : Nat :=
  match w.hinge, w.pkt.src with
  | false, .port q => q + 1
  | _, _ => 0

/-- Every flit of the packet has come. -/
def Worm.complete (w : Worm) : Bool := w.flits.length == w.pkt.flits

/-- The packet, whose head has come, still has flits to send at an output. -/
def Worm.wants (w : Worm) (q v : Nat) : Bool :=
  w.flits != [] && w.outs.any (fun b => b.port == q && b.vc == v && decide (b.sent < w.pkt.flits))

/-- Packet `a` takes an output of its router before packet `b` (R272). -/
def Worm.before (a b : Worm) : Bool := decide (a.cycle < b.cycle) || (a.cycle == b.cycle && decide (a.input < b.input))

/-- The packet that holds VC `v` of output `q`: the first to want it, from its FIRST flit to its LAST (R272). -/
def State.holder (s : State) (q v : Nat) : Option Worm :=
  (s.rq.filter (·.wants q v)).foldl (fun o w => match o with
    | none => some w
    | some a => if w.before a then some w else some a) none

/-- Two views of one packet at the routers. -/
def Worm.same (a b : Worm) : Bool := a.cycle == b.cycle && a.input == b.input && a.jamb == b.jamb

/-- A branch takes flit `i` of `n` that came: a fanlight branch into its skid buffer of 4 flits, the one output of any other packet
as it sends it (R280). -/
def Branch.take (b : Branch) (fan : Bool) (i n : Nat) : Branch :=
  if fan then if b.taken = i ∧ i < n ∧ b.taken < b.sent + 4 then { b with taken := i + 1 } else b
  else { b with taken := b.sent }

/-- A flit leaves the input when every branch has taken it (R280); `fuel` bounds the flits of a packet. -/
def Worm.advance (w : Worm) : Nat → Worm
  | 0 => w
  | fuel + 1 =>
    let w := { w with outs := w.outs.map (fun b => b.take w.pkt.fan w.freed w.flits.length) }
    if w.seen && decide (w.freed < w.flits.length) && w.outs.all (fun b => decide (w.freed < b.taken)) then
      { w with freed := w.freed + 1 }.advance fuel
    else w

/-- The next flit of a fanlight packet waits because a skid buffer is full, and was not counted before (Table 13-13). -/
def Worm.stalls (w : Worm) : Bool :=
  w.seen && w.pkt.fan && decide (w.stalled ≤ w.freed) && decide (w.freed < w.flits.length) &&
  w.outs.any (fun b => b.taken == w.freed && b.taken == b.sent + 4)

/-- Every flit of the packet has crossed the hinge, where it crosses one. -/
def Worm.crossed (w : Worm) : Bool := w.outs.all (fun b => decide (b.port < 36) || decide (w.pkt.flits ≤ b.sent))

/-- Nothing is left to do for a packet. -/
def Worm.over (w : Worm) : Bool := w.seen && w.complete && !w.here && w.outs.all (fun b => decide (w.pkt.flits ≤ b.sent))

/-- Flits `fs` that `w` sends across its hinge, up to flit `n`, join their packet at the other jamb, whose head stands there from now
on in jamb cycle `c`. -/
def Worm.cross (w : Worm) (q v n c : Nat) (fs : List TxFlit) (u : Worm) : Worm :=
  if u.same w then { u with outs := u.outs.map (fun b => if b.port = q ∧ b.vc = v then { b with sent := n } else b) }
  else if u.feed = some (w.cycle, w.input) then { u with flits := u.flits ++ fs, cycle := if u.flits = [] then c else u.cycle }
  else u

/-- The packet that holds VC `v` of the hinge output of jamb `j` sends what it has (R266, R272). The hinge input of the other jamb
takes what comes (DESIGN CHOICE, log entry 70). -/
def State.crossHinge (s : State) (j v : Nat) : State :=
  match s.holder (36 + j) v with
  | none => s
  | some w =>
    match w.outs.find? (fun b => b.port == 36 + j && b.vc == v) with
    | none => s
    | some b =>
      let n := if w.pkt.fan then b.taken else w.flits.length
      if n ≤ b.sent then s
      else { s with rq := s.rq.map (w.cross (36 + j) v n s.nextCycle ((w.flits.take n).drop b.sent)) }

/-- Flits move into free skid buffers and across both hinges; `fuel` bounds the flits and packets that move. -/
def State.crossAll (s : State) : Nat → State
  | 0 => s
  | fuel + 1 =>
    let s : State := { s with rq := s.rq.map (fun w => w.advance 18) }
    let t := ((List.range 2).flatMap (fun j => [2, 0, 1, 5, 3, 4].map (fun v => (j, v)))).foldl (fun s x => s.crossHinge x.1 x.2) s
    if t.rq = s.rq then s else t.crossAll fuel

/-- The routers pass on what they can: flits move into free skid buffers and across the hinges, a whole packet for the package is
delivered, and what is done with is gone. -/
def State.moveWorms (s : State) : State :=
  let s := s.crossAll (6 * (s.rq.length + 1))
  let ws := s.rq
  let n := (ws.filter Worm.stalls).length
  let done := fun (w : Worm) => w.seen && w.here && w.complete && w.crossed
  { s.addF F.FAN_STATUS_BRANCH_STALLS 0 n with
    rq := (ws.map (fun w => { w with stalled := if w.stalls then w.freed + 1 else w.stalled, here := w.here && !done w })).filter
      (fun w => !w.over)
    inbox := s.inbox ++ (ws.filter done).map (·.pkt) }

/-! ## Receive space (R256 to R258), in bytes -/

/-- Headroom of a port in bytes before and after CONFIG (R231, R237); H of a rack port, 96 KiB, is no whole number of the
units of H_64K. -/
def State.headroom (s : State) (q : Nat) : Nat :=
  if s.getF F.PORT_CFG_CLASS q = 2 then 98304 else s.getF F.PORT_CFG_H_64K q * 65536
def State.heff (s : State) (q : Nat) : Nat := if (s.port q).heff = 0 then s.headroom q else (s.port q).heff * 1024

/-- Bytes a VC holds in the receive space: flits that came and the router has not passed on (R257). -/
def State.rxHeld (s : State) (q v : Nat) : Nat :=
  256 * ((s.rq.filter (fun w => w.input == q + 1 && w.vcIn == v)).map (fun w => w.flits.length - w.freed)).sum

/-- Bytes at the hinge input of a jamb: flits that came by its hinge and wait for one of its ports. -/
def State.hingeHeld (s : State) (j : Nat) : Nat :=
  256 * ((s.rq.filter (fun w => w.hinge && w.seen && w.jamb == j)).map (fun w => w.flits.length - w.freed)).sum

/-- The floor of a VC (Table 12-5). -/
def State.vcFloor (s : State) (q v : Nat) : Nat :=
  if v = 2 then s.headroom q / 16 + 16384 else if v = 5 then s.headroom q / 64 + 16384 else 16384

/-- The headroom of a VC (R257). -/
def State.vcHead (s : State) (q v : Nat) : Nat :=
  if v = 2 then s.heff q / 16 else if v = 5 then s.heff q / 64 else s.heff q

/-- The cap of a VC in the common area. -/
def State.vcCap (s : State) (q v : Nat) : Nat :=
  1024 * (match v with
    | 0 => s.getF F.VCB_CAP_CAP0_KIB q
    | 1 => s.getF F.VCB_CAP_CAP1_KIB q
    | 3 => s.getF F.VCB_CAP_CAP3_KIB q
    | _ => s.getF F.VCB_CAP_CAP4_KIB q)

/-- The room of a VC (R257). -/
def State.vcRoom (s : State) (q v : Nat) : Nat :=
  let extra := fun w => s.rxHeld q w - s.vcFloor q w
  let own := s.vcFloor q v - s.rxHeld q v
  if v = 2 ∨ v = 5 then own
  else
    let free := 1024 * s.getF F.VCB_ALLOC_COMMON_KIB q - (extra 0 + extra 1 + extra 3 + extra 4)
    own + min free (s.vcCap q v - extra v)

/-- The new OFF bit of a VC. -/
def State.vcOff (s : State) (q v : Nat) : Bool :=
  if s.vcRoom q v ≤ s.vcHead q v then true
  else if s.vcHead q v + 8192 ≤ s.vcRoom q v then false
  else bitAt (s.getF F.VCB_FLOW_TX_OFF q) v

/-- Bytes of the replay store. -/
def Port.storeBytes (x : Port) : Nat := 256 * x.store.length

/-- The pool of a jamb in use, in KiB (R265). -/
def State.poolUsed (s : State) (j : Nat) : Nat :=
  (((List.range 18).map (fun i =>
    ((List.range 6).map (fun v => s.rxHeld (18 * j + i) v)).sum + (s.port (18 * j + i)).storeBytes)).sum + s.hingeHeld j + 1023) / 1024

/-- Pool use of a jamb and its highest value follow. -/
def State.refreshPool (s : State) (j : Nat) : State :=
  s.setFs j [(F.VCB_POOL_USED_KIB, s.poolUsed j), (F.VCB_POOL_HIGH_KIB, max (s.getF F.VCB_POOL_HIGH_KIB j) (s.poolUsed j))]

/-- What a VC and the replay store of a port hold, in KiB (R265). -/
def State.vcKib (s : State) (q v : Nat) : Nat := (s.rxHeld q v + 1023) / 1024
def State.storeKib (s : State) (q : Nat) : Nat := ((s.port q).storeBytes + 1023) / 1024

/-- Occupancies, OFF bits and pool use of a port follow its queues. -/
def State.refreshPort (s : State) (q : Nat) : State :=
  let kib := s.vcKib q
  let old := s.getF F.VCB_FLOW_TX_OFF q
  let off := (List.range 6).foldl (fun a v => setBits a v 1 (bit (s.vcOff q v))) 0
  let rose := ((List.range 6).filter (fun v => bitAt off v && !bitAt old v)).length
  let s := s.setFs q [(F.VCB_OCC0_VC0_KIB, kib 0), (F.VCB_OCC0_VC1_KIB, kib 1), (F.VCB_OCC0_VC2_KIB, kib 2),
    (F.VCB_OCC0_VC3_KIB, kib 3), (F.VCB_OCC1_VC4_KIB, kib 4), (F.VCB_OCC1_VC5_KIB, kib 5),
    (F.VCB_OCC1_REPLAY_KIB, s.storeKib q), (F.VCB_FLOW_TX_OFF, off)]
  (s.addF F.VCB_FLOW_OFF_EVENTS q rose).refreshPool (q / 18)

/-- The routers pass on what they can, and the occupancies of every port whose flits move, and of both pools, follow. -/
def State.passOn (s : State) : State :=
  let qs := ((s.rq.filter (fun w => w.input != 0)).map (fun w => w.input - 1)).dedup
  ((qs.foldl State.refreshPort s.moveWorms).refreshPool 0).refreshPool 1

/-! ## Discards (R261) -/

/-- Abort the step of every partition of a list with cause DISCARD. -/
def State.abortDiscard (s : State) : List Nat → State
  | [] => s
  | p :: t => (s.abortStep p 4 0).abortDiscard t

/-- The partitions with a flit of VC0 to VC2. -/
def planned (fs : List TxFlit) : List Nat := ((fs.filter (fun f => decide (f.vc ≤ 2))).map (·.part)).dedup

/-- Count `n` packets that a port discards: each in both counters (R261). -/
def State.countDropped (s : State) (q n : Nat) : State := (s.addF F.VCB_ERR_PKT_DROPPED q n).addF F.VCB_HOLD_DISCARDS q n

/-- A packet without its outputs at a port. -/
def Worm.cutPort (w : Worm) (q : Nat) : Worm := { w with outs := w.outs.filter (fun b => b.port != q) }

/-- The outputs of a packet at a port that still have flits to send. -/
def Worm.openAt (w : Worm) (q : Nat) : List Branch := w.outs.filter (fun b => b.port == q && decide (b.sent < w.pkt.flits))

/-- The port discards its held traffic: its replay store and every packet whose next hop it is; until it next reaches UP it discards
every packet that reaches the router for it. OLDEST passes every number sent, so RUN is 0 (R253). -/
def State.discardPort (s : State) (q : Nat) : State :=
  let x := s.port q
  let ws := s.rq.filter (fun w => !(w.openAt q).isEmpty)
  let n := (x.store.filter (·.last)).length + (ws.map (fun w => (w.openAt q).length)).sum
  let ps := (planned x.store ++ (ws.filter (fun w => (w.openAt q).any (fun b => decide (b.vc ≤ 2)))).map (·.pkt.part)).dedup
  let s := s.setPort q { x with store := [], replay := none, drop := true }
  let s : State := { s with rq := s.rq.map (·.cutPort q) }
  let s := s.countDropped q n
  let s := (s.setF F.VCB_TXSEQ_OLDEST q (s.getF F.VCB_TXSEQ_NEXT_SEND q)).setF F.VCB_REPLAY_RUN q 0
  let s := s.setF F.VCB_HOLD_HOLDING q 0
  ((s.abortDiscard ps).passOn).refreshPort q

/-! ## Sleep and backup -/

/-- The upstream beacon port now in use (R220). -/
def State.beaconPort (s : State) : Nat :=
  if s.flag F.TIME_STATUS_ON_BACKUP 0 then s.getF F.TIME_CTRL_BKPORT 0 else s.getF F.TIME_CTRL_UPPORT 0

/-- Move to the backup beacon port, when there is one. -/
def State.toBackup (s : State) : State :=
  if s.getF F.TIME_CTRL_BKPORT 0 = 63 then s
  else (s.setF F.TIME_STATUS_ON_BACKUP 0 1).setF F.TIME_STATUS_MISSED 0 0

/-- Change the state of a port, from now; leaving UP is timed (R397), and work that holds the port's lock ends with training or in
SLEEP or OFF (R408). -/
def State.setPstate (s : State) (q st : Nat) : State :=
  let s := if s.pstate q = 8 ∧ st ≠ 8 then s.modPort q (fun x => { x with leftUp := s.now }) else s
  let s := s.modPort q (fun x => { x with stageAt := s.now })
  (if st = 1 ∨ 8 ≤ st ∧ st ≠ 12 then s.dropLocks 6 [q] else s).setF F.PORT_STATUS_STATE q st

/-- A packet waits for the port. -/
def State.queuedFor (s : State) (q : Nat) : Bool := s.rq.any (fun w => !(w.openAt q).isEmpty)

/-- Planned traffic of a partition in a step. -/
def State.plannedNow (s : State) (p vc : Nat) : Bool := vc ≤ 2 && (s.part p).running

/-- Leave SLEEP (R242); a waking port returns the package to RUN (R426). -/
def State.wakePort (s : State) (q : Nat) : State :=
  (s.stir.setPstate q 12).modPort q (fun x =>
    { x with wake := true, trainAt := s.now, got := 0, acked := 0, saidReady := false, tbeacon := [] })

/-- A packet of partition `p` on VC `vc` reaches a port in SLEEP from the router and wakes it (R242). -/
def State.wakeBy (s : State) (q p vc : Nat) : State :=
  if s.pstate q = 11 then (if s.plannedNow p vc then s.varyPort 7 q else s).wakePort q else s

/-- Enter SLEEP (11) or OFF (13) (R241, R243): lanes lose lock; a packet that already waits for the port wakes it from SLEEP. -/
def State.enterSleep (s : State) (q st : Nat) : State :=
  let s := (s.setPstate q st).setFs q [(F.PORT_STATUS_WIDTH, 0), (F.PORT_LANES_LOCKED, 0)]
  let s := s.modPort q (fun x => { x with ask := 0, asked := false, grant := false, refuse := false })
  let s := if s.beaconPort = q ∧ ¬ s.flag F.TIME_STATUS_ON_BACKUP 0 then s.toBackup else s
  match s.rq.find? (fun w => !(w.openAt q).isEmpty) with
  | some w => s.wakeBy q w.pkt.part ((w.openAt q).headD ⟨0, 0, 0, 0⟩).vc
  | none => s

/-! ## Training entries (R234, R235, R260) -/

/-- Enter DOWN: Ranuat logs it; with cause GONE the held traffic is discarded, otherwise the hold time starts. -/
def State.goDown (s : State) (q cause : Nat) : State :=
  let s := (s.setPstate q 1).setFs q [(F.PORT_STATUS_CAUSE, cause), (F.PORT_STATUS_WIDTH, 0), (F.PORT_LANES_LOCKED, 0)]
  let s := s.modPort q (fun x => { x with fails := 0, ask := 0, asked := false, grant := false, refuse := false })
  let s := s.logEvent 2 0x0106 ((s.portOwner q).getD 255) [q, cause]
  if cause = 0x0A then (s.modPort q (fun x => { x with gone := true })).discardPort q
  else (s.setF F.VCB_HOLD_HOLDING q 1).modPort q (fun x => { x with downAt := s.now })

/-- Start an attempt from DETECT; one that ends a wake begins the training that PORT_TRAIN.LAST_NS measures (R242, R244). -/
def State.detect (s : State) (q cause : Nat) : State :=
  let s := s.setPstate q 2
  let s := s.setFs q [(F.PORT_STATUS_WIDTH, 0), (F.PORT_STATUS_NEIGH_BAD, 0), (F.PORT_STATUS_CDIGEST_BAD, 0), (F.PORT_LANES_FAILED, 0),
    (F.PORT_LANES_LOCKED, 0)]
  let s := if cause = 0 then s else s.setF F.PORT_STATUS_CAUSE q cause
  s.modPort q (fun x => { x with got := 0, acked := 0, saidReady := false, tbeacon := [], exch := none, burst := 0,
                                 ask := 0, asked := false, grant := false, refuse := false, half := false,
                                 trainAt := if x.wake then s.now else x.trainAt, wake := false })

/-- Start training (R234). A narrowed port may take 8 lanes again when RETRAIN starts the training on this side, or the partner's
training flits do, whose lane set then decides (R240; DESIGN CHOICE, log entry 71). -/
def State.train (s : State) (q cause : Nat) : State :=
  if s.portsOff then s
  else
    let wide := cause == 0x0B || (cause == 0 && (s.pstate q == 8 || s.pstate q == 9))
    let s := s.addF F.PORT_TRAIN_TRAINS q 1
    (s.modPort q (fun x => { x with fails := 0, wake := false, trainAt := s.now, keep := if wide then 0 else x.keep })).detect q cause

/-- A stage ends the attempt: after 3 failed attempts in a row the port enters DOWN. -/
def State.failAttempt (s : State) (q cause : Nat) : State :=
  let n := (s.port q).fails + 1
  if 3 ≤ n then s.goDown q cause else (s.modPort q (fun x => { x with fails := n })).detect q cause

/-- The port is in a training stage or wakes. -/
def State.training (s : State) (q : Nat) : Bool := (2 ≤ s.pstate q && s.pstate q ≤ 7) || s.pstate q == 12

/-- What a packet finds at an output when it is routed there: a branch to wait in, or none when the port discards until it next
reaches UP, and the packet is counted and its step aborted (R242, R261). -/
def State.openBranch (s : State) (k : Packet) (q v : Nat) : State × List Branch :=
  if (s.port q).drop ∧ ¬ (v = 5 ∧ s.pstate q = 9) then
    let s := s.countDropped q 1
    (if v ≤ 2 then s.abortStep k.part 4 0 else s, [])
  else (s.wakeBy q k.part v, [⟨q, v, 0, 0⟩])

/-- Send a packet of the package one hop on a port (R276). -/
def State.portPut (s : State) (q : Nat) (k : Packet) : State :=
  let (s, bs) := s.openBranch k q k.vc
  if bs.isEmpty then s
  else ({ s with rq := s.rq ++ [⟨k, k.vc, k.cut, 0, true, bs, false, s.now, s.nextCycle, 0, q / 18, true, none⟩] } : State).passOn

/-! ## Replay (R252 to R254) -/

/-- Start a replay from flit `n`, or train when the limit is reached. -/
def State.startReplay (s : State) (q n : Nat) : State :=
  if s.getF F.VCB_REPLAY_RUN q = 16 then if s.pstate q = 8 ∨ s.pstate q = 9 then s.train q 9 else s
  else
    let s := (s.setF F.VCB_REPLAY_RUN q (s.getF F.VCB_REPLAY_RUN q + 1)).addF F.VCB_REPLAY_REPLAYS q 1
    let x := s.port q
    let again := x.store.filter (fun f => seqGe 24 f.seq n)
    let s := s.setPort q { x with replay := some n, mark := s.getF F.VCB_TXSEQ_NEXT_SEND q, replayAt := s.now,
                                  replaySeq := n }
    if again.any (fun f => decide (f.vc ≤ 2)) then s.varyPort 8 q else s

/-- The round trip and the acknowledgement timeout of a port in ns (Table 11-2). -/
def State.rtt (s : State) (q : Nat) : Nat :=
  match s.getF F.PORT_CFG_CLASS q, s.getF F.PORT_CFG_MEDIUM q with
  | 1, _ => 233
  | 2, 0 => 260
  | 2, _ => 460
  | 3, 2 => 230 + 10 * s.getF F.PORT_CFG_LENGTH_M q
  | 3, _ => 710 + 10 * s.getF F.PORT_CFG_LENGTH_M q
  | _, _ => 0
def State.ackTimeout (s : State) (q : Nat) : Nat := if s.getF F.PORT_CFG_CLASS q = 3 then s.rtt q + 2000 else 2000

/-- Free every flit before `a` and move OLDEST (R250, R253); a replay goes on from there, or is over. -/
def State.ackTo (s : State) (q a : Nat) : State :=
  let x := s.port q
  if s.getF F.VCB_TXSEQ_OLDEST q = a then s
  else
    let s := (s.setF F.VCB_TXSEQ_OLDEST q a).setPort q
      { x with store := x.store.filter (fun f => seqGe 24 f.seq a)
               replay := x.replay.bind (fun r =>
                 let m := if seqGe 24 r a then r else a
                 if m = s.getF F.VCB_TXSEQ_NEXT_SEND q then none else some m) }
    if seqGe 24 a x.mark then s.setF F.VCB_REPLAY_RUN q 0 else s

/-- A number lies between OLDEST and NEXT_SEND. -/
def State.inWindow (s : State) (q a : Nat) : Bool :=
  seqGe 24 a (s.getF F.VCB_TXSEQ_OLDEST q) && seqGe 24 (s.getF F.VCB_TXSEQ_NEXT_SEND q) a

/-- Resume from the oldest unacknowledged flit after training or a degrade (R240, R262): a replay whose count and variance are those
of R252 and R254; it neither needs RUN nor resets it (R253; log entry 71). -/
def State.resumeReplay (s : State) (q : Nat) : State :=
  let x := s.port q
  match x.store with
  | [] => s
  | f :: _ =>
    let s := (s.addF F.VCB_REPLAY_REPLAYS q 1).setPort q
      { x with replay := some f.seq, mark := s.getF F.VCB_TXSEQ_NEXT_SEND q, replayAt := s.now, replaySeq := f.seq }
    if x.store.any (fun f => decide (f.vc ≤ 2)) then s.varyPort 8 q else s

/-- The duration of a training that began in DETECT (Table 11-17): a wake is none. -/
def State.lastNs (s : State) (q : Nat) : State :=
  let x := s.port q
  if x.wake then s else s.setF F.PORT_TRAIN_LAST_NS q (min (2 ^ 32 - 1) (s.now - x.trainAt))

/-- Enter UP (R234, R262): the partner's OLDEST and NEXT_EXP are checked against the port's own. -/
def State.enterUp (s : State) (q : Nat) : State :=
  let x := s.port q
  let s := ((s.lastNs q).setPstate q 8).setFs q [(F.PORT_STATUS_WIDTH, x.width), (F.VCB_HOLD_HOLDING, 0)]
  let s := if s.inWindow q x.rack then (s.ackTo q x.rack).resumeReplay q
    else (s.discardPort q).setFs q [(F.VCB_TXSEQ_OLDEST, x.rack), (F.VCB_TXSEQ_NEXT_SEND, x.rack)]
  let next := s.getF F.VCB_RXSEQ_NEXT_EXP q
  let s := if x.rseq ≠ next ∧ seqGe 24 x.rseq next then s.setF F.VCB_RXSEQ_NEXT_EXP q x.rseq else s
  (s.modPort q (fun x => { x with fails := 0, wake := false, got := 0, acked := 0, saidReady := false, tbeacon := [], drop := false,
                                  bsfIn := s.now, naking := false, nakDue := false,
                                  keep := if x.width = 0xFF then 0 else x.width })).refreshPort q

/-- Enter MGMT_ONLY (R237, R261): VC5 alone; the held traffic is discarded and the mismatch reported. -/
def State.enterMgmt (s : State) (q cause : Nat) : State :=
  let s := ((s.lastNs q).setPstate q 9).setF F.PORT_STATUS_CAUSE q cause
  let s := (s.modPort q (fun x => { x with fails := 0, wake := false, bsfIn := s.now })).discardPort q
  s.logEvent 2 0x0107 ((s.portOwner q).getD 255) [q, s.rdReg .PORT_NEIGH q, s.rdReg .PORT_PCDIG q]

end Sys2Proof.Machine
end

