-- ==== Sys2Proof/Machine/Panes.lean ====
section
/-! DEFINITION. Pane frequencies, clock crossings and their calibration (R205 to R214, R421, R422). -/

namespace Sys2Proof.Machine

def State.pane (s : State) (q : Nat) : PaneS := tget PaneS.init s.panes q
def State.setPane (s : State) (q : Nat) (x : PaneS) : State := { s with panes := tset PaneS.init s.panes q x }

/-- The partition that owns a pane (SEC_PPANE): one that is not FREE. -/
def State.paneOwner (s : State) (q : Nat) : Option Nat :=
  (List.range 16).find? (fun p => s.getF F.SEC_PCTL_STATE p != 0 && bitAt (s.getF F.SEC_PPANE_PANES p) q)

/-- The pane's partition is in a step. -/
def State.paneInStep (s : State) (q : Nat) : Bool :=
  match s.paneOwner q with
  | some p => (s.part p).running
  | none => false

/-- No change of the pane is pending, nor waits for the lock. -/
def State.unpend (s : State) (q : Nat) : State := (s.setF F.PANE_FREQ_PENDING q 0).leaveQ 0 q

/-- PENDING: REQ differs from CUR and waits for a step boundary; a pane held by an emergency waits for its triggers. -/
def State.pendPane (s : State) (q : Nat) : State :=
  if s.getF F.PANE_FREQ_REQ q ≠ s.getF F.PANE_FREQ_CUR q ∧ ¬ s.flag F.PANE_FREQ_EMERG q then s.setF F.PANE_FREQ_PENDING q 1 else s.unpend q

/-- A partition is in pinned mode (R371). -/
def State.pinned (s : State) (p : Nat) : Bool := bitAt (s.getF F.CTL_PIN_PINNED 0) p

/-- The pane's partition is in pinned mode. -/
def State.panePinned (s : State) (q : Nat) : Bool :=
  match s.paneOwner q with
  | some p => s.pinned p
  | none => false

/-- Request a frequency of a pane that is not fused off. -/
def State.requestPane (s : State) (q f : Nat) : State :=
  if s.getF F.PANE_FREQ_STATE q = 2 then s else (s.setF F.PANE_FREQ_REQ q f).pendPane q

/-- PANE_FREQ_REQUEST (R211, R213): a write of PANE_FREQ; the request waits for a step boundary. Panes held in reset take none (R388),
and a pane of a pinned partition keeps its frequency (R371). -/
def execPaneFreqRequest (q : Nat) (v : Word64) (s : State) : Out :=
  if ¬ q < 32 then .fault .noSuchUnit
  else if s.dark ∨ s.panePinned q then .next s
  else .next (s.requestPane q (bitsOf v.toNat 4 2))

/-- The clock of a pane stops for a change to frequency `f` (R212). -/
def State.stopPane (s : State) (q f : Nat) (emerg : Bool) : State :=
  let x := s.pane q
  (s.setF F.PANE_FREQ_STATE q 1).setPane q { x with target := f, stopAt := s.now, emerg := emerg, follow := false }

/-- PANE_FREQ_CHANGE (R211, R212, R408, R409): at a step boundary of its partition a pending pane quiesces and stops; while
it may not take the lock it waits in the queue, and PENDING stays set. -/
def execPaneFreqChange (q : Nat) (s : State) : Out :=
  if ¬ q < 32 then .fault .noSuchUnit
  else if s.dark ∨ s.getF F.PANE_FREQ_STATE q ≠ 0 ∨ ¬ s.flag F.PANE_FREQ_PENDING q ∨ s.paneInStep q then .next s
  else
    if ¬ s.mayLock 0 q then .next (s.askLock 0 q)
    else .next (((s.stopPane q (s.getF F.PANE_FREQ_REQ q) false).setF F.PANE_FREQ_PENDING q 0).grantLock 0 q)

/-- One trigger names a pane (R421, R422, R213, R214). -/
def State.emergPane (s : State) (q : Nat) : State :=
  let st := s.getF F.PANE_FREQ_STATE q
  if st = 2 then s
  else if s.getF F.PWR_STATUS_STATE 0 = 1 then
    (s.setFs q [(F.PANE_FREQ_CUR, 3), (F.PANE_FREQ_EMERG, 1)]).unpend q
  else if st = 1 then s.setPane q { s.pane q with follow := true }
  else if st = 3 ∨ s.getF F.PANE_FREQ_CUR q = 3 then (s.setF F.PANE_FREQ_EMERG q 1).unpend q
  else
    let s := ((s.stopPane q 3 true).setF F.PANE_FREQ_EMERG q 1).unpend q
    let s := s.addF F.PANE_FREQ_EMERGS q 1
    match s.paneOwner q with
    | some p => if (s.part p).running then (s.vary 4 p).updateHold p else s
    | none => s

/-! ## Calibration (R208 to R210) -/

/-- Whether a measured offset reaches the target. -/
def calOk (c : Cal) (target : Nat) : Bool := decide (4 ≤ c.margin) && decide (c.lat ≤ target)

/-- The record of one direction of a crossing: CALFAIL, PHASE, MARGIN and LAT fields in order. -/
def State.calibrate (s : State) (i : Nat) (fs : Fld × Fld × Fld × Fld) (c : Cal) (target : Nat) : State :=
  if calOk c target then
    s.setFs i [(fs.1, 0), (fs.2.1, c.phase), (fs.2.2.1, c.margin), (fs.2.2.2, target)]
  else s.setF fs.1 i 1

def fPaneIn : Fld × Fld × Fld × Fld := (F.PANE_XLAT_IN_CALFAIL, F.PANE_XLAT_IN_PHASE, F.PANE_XLAT_IN_MARGIN, F.PANE_XLAT_IN_LAT)
def fPaneOut : Fld × Fld × Fld × Fld := (F.PANE_XLAT_OUT_CALFAIL, F.PANE_XLAT_OUT_PHASE, F.PANE_XLAT_OUT_MARGIN, F.PANE_XLAT_OUT_LAT)
def fHingeIn : Fld × Fld × Fld × Fld := (F.PANE_HXLAT_IN_CALFAIL, F.PANE_HXLAT_IN_PHASE, F.PANE_HXLAT_IN_MARGIN, F.PANE_HXLAT_IN_LAT)
def fHingeOut : Fld × Fld × Fld × Fld := (F.PANE_HXLAT_OUT_CALFAIL, F.PANE_HXLAT_OUT_PHASE, F.PANE_HXLAT_OUT_MARGIN, F.PANE_HXLAT_OUT_LAT)
def fStackIn : Fld × Fld × Fld × Fld := (F.PANE_SXLAT_IN_CALFAIL, F.PANE_SXLAT_IN_PHASE, F.PANE_SXLAT_IN_MARGIN, F.PANE_SXLAT_IN_LAT)
def fStackOut : Fld × Fld × Fld × Fld := (F.PANE_SXLAT_OUT_CALFAIL, F.PANE_SXLAT_OUT_PHASE, F.PANE_SXLAT_OUT_MARGIN, F.PANE_SXLAT_OUT_LAT)
def fPortIn : Fld × Fld × Fld × Fld := (F.PORT_XLAT_IN_CALFAIL, F.PORT_XLAT_IN_PHASE, F.PORT_XLAT_IN_MARGIN, F.PORT_XLAT_IN_LAT)
def fPortOut : Fld × Fld × Fld × Fld := (F.PORT_XLAT_OUT_CALFAIL, F.PORT_XLAT_OUT_PHASE, F.PORT_XLAT_OUT_MARGIN, F.PORT_XLAT_OUT_LAT)

/-- The pane-port-in target at a frequency code (Table 10-2). -/
def paneInTarget (cur : Nat) : Nat := 6 - cur

/-- A start time that the timebase reached while a pane was stopped is late (R213). -/
def State.missedStart (s : State) (p : Nat) : State :=
  match (s.part p).startT with
  | some t => if t ≤ s.now then s.modPart p (fun x => { x with lateT := true }) else s
  | none => s

/-- PANE_RESTART (R208, R209, R212, R213): the stopped pane has relocked after a stop of `ns`. Both crossings calibrate and
the clock restarts at the new frequency, or the pane stays stopped and its partition's step fails. An emergency that
came during the change follows at once. -/
def execPaneRestart (q ns : Nat) (cin cout : Cal) (s : State) : Out :=
  if ¬ q < 32 then .fault .noSuchUnit
  else if s.getF F.PANE_FREQ_STATE q ≠ 1 then .next s
  else
    let x := s.pane q
    let s := s.setFs q [(F.PANE_STOP_LAST_NS, min (2 ^ 32 - 1) ns),
      (F.PANE_STOP_MAX_NS, max (s.getF F.PANE_STOP_MAX_NS q) (min (2 ^ 32 - 1) ns))]
    let s := s.calibrate q fPaneIn cin (paneInTarget x.target)
    let s := s.calibrate q fPaneOut cout 6
    let s := (s.addF F.PANE_FREQ_CHANGES q 1).setF F.PANE_FREQ_CUR q x.target
    let s := if x.emerg then s else s.dropLocks 0 [q]
    let s : State := { s with drifted := s.drifted.filter (fun x => x != (0, q)) }
    if calOk cin (paneInTarget x.target) ∧ calOk cout 6 then
      let s := (s.setF F.PANE_FREQ_STATE q 0).setPane q { x with emerg := false, follow := false }
      let s := if x.follow then s.emergPane q else s.pendPane q
      match s.paneOwner q with
      | some p => .next ((s.missedStart p).updateHold p)
      | none => .next s
    else
      let s := (s.setF F.PANE_FREQ_STATE q 3).unpend q
      let s := s.logFree ((s.paneOwner q).getD 255) [q]
      match s.paneOwner q with
      | some p => .next (s.abortStep p 9 0)
      | none => .next s

/-- Abort the steps of partitions. -/
def State.abortAll (s : State) (cause : Nat) : List Nat → State
  | [] => s
  | p :: t => (s.abortStep p cause 0).abortAll cause t

/-- The partition uses sampler 1, on leaf B: the samplers draw a row of an odd lane for it (R338). -/
def State.usesSampler1 (s : State) (p : Nat) : Bool := (tget Serve.init s.serves p).rows.any (fun r => r.sample && r.lane % 2 == 1)

/-- The partition uses an engine of jamb W: its RS ring there is enabled (R410), or it owns a queue pair of Ethernet 1 (R305, R307). -/
def State.usesJambW (s : State) (p : Nat) : Bool :=
  s.flag F.DMA_RSCFG_EN (16 + p) || s.qps.any (fun e => e.2.owner == p + 1 && decide (256 ≤ e.1))

/-- The dies on which a partition has units or is served (Table 1-1), as jamb E 0, leaf A 1, leaf B 2, jamb W 3: its panes, HBM
and cellar channels, ports, DMA channels, sampler 1, RS ring and queue pairs, and jamb E and leaf A, which hold the control complex, the
PCIe endpoint, the beat sequencer, the threshold unit and sampler 0 that serve every partition. -/
def State.onDie (s : State) (p d : Nat) : Bool :=
  let panes := s.getF F.SEC_PPANE_PANES p
  let ports := s.getF F.SEC_PPORT_PORTS p
  let hbm := match s.blockChans p 0 with
    | some b => b
    | none => (0, 0)
  let cel := match s.blockChans p 1 with
    | some b => b
    | none => (0, 0)
  match d with
  | 0 => true
  | 1 => true
  | 2 => decide (2 ^ 16 ≤ panes) || overlap hbm.1 hbm.2 128 128 || s.usesSampler1 p
  | _ => s.usesJambW p || decide (2 ^ 18 ≤ ports) || overlap cel.1 cel.2 8 8 ||
    (List.range 32).any (fun c => s.flag F.DMA_CHCFG_EN (32 + c) && s.getF F.DMA_CHCFG_OWNER (32 + c) == p)

/-- The hinge of a crossing: 0 hinge E, 1 the leaf hinge, 2 hinge W (R224), each between die `k` and die `k + 1`. -/
def hingeOf (i : Nat) : Nat := if i < 2 then 1 else if i < 4 then 0 else 2

/-- The traffic of a partition crosses a hinge: it has units on both sides (R11, R12: the dies stand in a row). -/
def State.usesHinge (s : State) (p k : Nat) : Bool :=
  (List.range (k + 1)).any (s.onDie p) && (List.range (3 - k)).any (fun d => s.onDie p (k + 1 + d))

/-- The partitions whose traffic uses a crossing (R210): a pane's or a port's owner, those with HBM channels on a stack, and those
with units on both sides of a hinge. -/
def State.usersOf (s : State) (kind i : Nat) : List Nat :=
  match kind with
  | 0 => (s.paneOwner i).toList
  | 1 => (List.range 16).filter (fun p => s.getF F.SEC_PCTL_STATE p != 0 && s.usesHinge p (hingeOf i))
  | 2 => (List.range 16).filter (fun p => match s.blockChans p 0 with
      | some (f, n) => overlap f n (32 * i) 32
      | none => false)
  | _ => (s.portOwner i).toList

/-- The DRIFT field of a crossing. -/
def driftFld (kind : Nat) (inbound : Bool) : Fld :=
  match kind, inbound with
  | 0, true => F.PANE_XLAT_IN_DRIFT
  | 0, false => F.PANE_XLAT_OUT_DRIFT
  | 1, true => F.PANE_HXLAT_IN_DRIFT
  | 1, false => F.PANE_HXLAT_OUT_DRIFT
  | 2, true => F.PANE_SXLAT_IN_DRIFT
  | 2, false => F.PANE_SXLAT_OUT_DRIFT
  | _, true => F.PORT_XLAT_IN_DRIFT
  | _, false => F.PORT_XLAT_OUT_DRIFT

/-- How many crossings of a kind there are: panes, hinge crossings, stacks, ports. -/
def crossings (kind : Nat) : Nat :=
  match kind with
  | 0 => 32
  | 1 => 6
  | 2 => 8
  | 3 => 36
  | _ => 0

/-- A crossing has the direction: the leaf hinge registers use only the OUT half (R224). -/
def hasHalf (kind i : Nat) (inbound : Bool) : Bool := !(kind == 1 && decide (i < 2) && inbound)

/-- CROSSING_DRIFT (R210): the margin of a crossing falls below 2 sixteenths. -/
def execCrossingDrift (kind i : Nat) (inbound : Bool) (s : State) : Out :=
  if ¬ (i < crossings kind ∧ hasHalf kind i inbound = true) then .fault .noSuchUnit
  else
    let s : State := { s with drifted := s.drifted.filter (fun x => x != (kind, i)) ++ [(kind, i)] }
    .next ((s.setF (driftFld kind inbound) i 1).abortAll 9 (s.usersOf kind i))

/-- The record fields and targets of a crossing, inbound and outbound; a target of 0 is a half that is not there (Table 10-2). -/
def State.crossing (s : State) (kind i : Nat) : (Fld × Fld × Fld × Fld) × Nat × (Fld × Fld × Fld × Fld) × Nat :=
  match kind with
  | 0 => (fPaneIn, paneInTarget (s.getF F.PANE_FREQ_CUR i), fPaneOut, 6)
  | 1 => (fHingeIn, if i < 2 then 0 else 24, fHingeOut, if i < 2 then 24 else 20)
  | 2 => (fStackIn, 8, fStackOut, 8)
  | _ => (fPortIn, 8, fPortOut, 8)

/-- Calibrate a crossing again (R208): its halves are recorded, and the drift is over when both reach their targets. -/
def State.calibrateX (s : State) (kind i : Nat) (cin cout : Cal) : State :=
  let x := s.crossing kind i
  let s := if x.2.1 = 0 then s else s.calibrate i x.1 cin x.2.1
  let s := s.calibrate i x.2.2.1 cout x.2.2.2
  if (x.2.1 = 0 ∨ calOk cin x.2.1) ∧ calOk cout x.2.2.2 then
    let s := s.setFs i [(driftFld kind true, 0), (driftFld kind false, 0)]
    { s with drifted := s.drifted.filter (fun y => y != (kind, i)) }
  else s

/-- The drifted crossings of a partition are calibrated again before its next step starts (R210), with what each measures. -/
def State.recalibrate (s : State) (p : Nat) (cals : List (Nat × Nat × Cal × Cal)) : State :=
  cals.foldl (fun s x =>
    if s.drifted.contains (x.1, x.2.1) && (s.usersOf x.1 x.2.1).contains p then s.calibrateX x.1 x.2.1 x.2.2.1 x.2.2.2 else s) s

/-- REFCLK_LOSS (R205): a package fault; every step aborts. -/
def execRefclkLoss (s : State) : Out := .next (s.abortAll 0x0A (List.range 16))

end Sys2Proof.Machine
end

