-- ==== Sys2Proof/Machine/Time.lean ====
section
/-! DEFINITION. The timebase, beacons, PTP and time alignment (R215 to R223). Timestamps are in 1/256 ns. -/

namespace Sys2Proof.Machine

/-! ## The tick (R215) -/

/-- The slew in ppb, clamped. -/
def State.ratePpb (s : State) : Int := max (-200000) (min 200000 (signed 32 (s.getF F.TIME_RATE_PPB 0)))

/-- No partition of the package is in a step. -/
def State.idleSteps (s : State) : Bool := (List.range 16).all (fun p => !(s.part p).running)

/-- What one 500 MHz tick adds at a rate in ppb: 2 × (1 + RATE × 10^-9) ns in units of 2^-32 ns. -/
def tickOf (ppb : Int) : Nat := (2 * (1000000000 + ppb) * 2 ^ 32 / 1000000000).toNat

/-- Write RATE. -/
def State.setRate (s : State) (r : Int) : State := s.setF F.TIME_RATE_PPB 0 (unsigned 32 r)

/-- While a partition is in a step, RATE stands at the limit of 200 ppm that slews the offset of a wake outside the beacon tree away,
and goes back once that is gone or a step can remove it (R221, R223). -/
def State.slewRate (s : State) : State :=
  if s.time.adj ≠ 0 ∧ ¬ s.idleSteps then
    { s.setRate (if 0 < s.time.adj then -200000 else 200000) with
      time := { s.time with slew := some (s.time.slew.getD s.ratePpb) } }
  else match s.time.slew with
    | some r => { s.setRate r with time := { s.time with slew := none } }
    | none => s

/-- What is left of an offset after a tick that takes `d` of it. -/
def offsetLeft (a d : Int) : Int := if a.natAbs ≤ d.natAbs then 0 else a + d

/-- One tick adds to the fractional accumulator, at RATE (R215). -/
def State.timeTick (s : State) : State :=
  let s := s.slewRate
  let n := tickOf s.ratePpb
  let acc := s.time.frac + n
  let adj := match s.time.slew with
    | some r => offsetLeft s.time.adj ((n : Int) - tickOf r)
    | none => s.time.adj
  { s.setF F.TIME_NOW_NS 0 ((s.now + acc / 2 ^ 32) % 2 ^ 64) with time := { s.time with frac := acc % 2 ^ 32, adj := adj } }

/-- A timestamp in 1/256 ns: the count and its phase within the tick (R216). -/
def State.stampAt (s : State) (phase : Nat) : Nat := s.now * 256 + s.time.frac / 2 ^ 24 + phase

/-- Step the timebase by a signed number of nanoseconds. -/
def State.stepTime (s : State) (d : Int) : State :=
  (s.setF F.TIME_NOW_NS 0 ((((s.now : Int) + d) % (2 ^ 64 : Int)).toNat)).setF F.TIME_STATUS_STEPPED 0 1

/-- TIME_STEP (R221): the master steps its timebase while no partition is in a step. -/
def execTimeStep (v : Word64) (s : State) : Out :=
  if s.flag F.TIME_CTRL_MASTER 0 ∧ s.idleSteps then .next (s.stepTime v.toInt) else .next s

/-! ## Beacons (R218, Table 10-5) -/

/-- The package is LOCKED: the master always is (R219). -/
def State.timeLocked (s : State) : Bool := s.flag F.TIME_STATUS_LOCKED 0 || s.flag F.TIME_CTRL_MASTER 0

/-- A beacon body; the send time of SYNC and DELAY_REQ is filled in when the flit goes. -/
def State.beaconBody (s : State) (kind : Nat) (burst : Bool) (seq rx : Nat) : List Byte :=
  leBytes 1 1 ++ leBytes 1 (kind + 4 * bit s.timeLocked + 8 * bit burst) ++ leBytes 2 seq ++ leBytes 8 0 ++
  leBytes 1 0 ++ leBytes 1 (s.getF F.TIME_STATUS_DEPTH 0) ++ leBytes 2 0 ++ leBytes 8 (rx / 256) ++
  leBytes 1 (rx % 256) ++ List.replicate 7 0

/-- The port leads to a parent of this package in the beacon tree (R217). -/
def State.parentPort (s : State) (q : Nat) : Bool :=
  !s.flag F.TIME_CTRL_MASTER 0 && (s.getF F.TIME_CTRL_UPPORT 0 == q || s.getF F.TIME_CTRL_BKPORT 0 == q)

/-- Send a beacon one hop on a port, on VC5; in the time-alignment stage in a training flit (R238). -/
def State.sendBeacon (s : State) (q : Nat) (body : List Byte) : State :=
  if s.pstate q = 7 then s.modPort q (fun x => { x with tbeacon := x.tbeacon ++ [body] })
  else s.portPut q (s.mkPacket ptBEACON 5 (s.getF F.PORT_NEIGH_NODE q) 0 0 body .unit 0)

/-- Beacons pass on a port in UP, MGMT_ONLY or the time-alignment stage. -/
def State.beaconOpen (s : State) (q : Nat) : Bool := s.pstate q == 7 || s.pstate q == 8 || s.pstate q == 9

/-- A burst of exchanges runs on the port (Table 10-6). -/
def State.bursting (s : State) (q : Nat) : Bool := decide (0 < (s.port q).burst)

/-- BEACON_SYNC_SEND (R218): the parent of the edge at port `q` sends SYNC; in the time-alignment stage of an edge outside the tree
both sides do, and the acting one answers (R223). -/
def execBeaconSyncSend (q : Nat) (s : State) : Out :=
  if ¬ q < 36 then .fault .noSuchUnit
  else if ¬ s.beaconOpen q ∨ s.parentPort q then .next s
  else
    let n := (s.time.seq + 1) % 65536
    .next ({ s with time := { s.time with seq := n } }.sendBeacon q (s.beaconBody 0 (s.bursting q) n 0))

def bkKind (b : List Byte) : Nat := leAt b 1 1 % 4
def bkLocked (b : List Byte) : Bool := bitAt (leAt b 1 1) 2
def bkBurst (b : List Byte) : Bool := bitAt (leAt b 1 1) 3
def bkSeq (b : List Byte) : Nat := leAt b 2 2
def bkTs (b : List Byte) : Nat := leAt b 4 8 * 256 + leAt b 12 1
def bkDepth (b : List Byte) : Nat := leAt b 13 1
def bkRx (b : List Byte) : Nat := leAt b 16 8 * 256 + leAt b 24 1
/-- VERSION above 1 or a reserved bit set. -/
def bkBad (b : List Byte) : Bool :=
  1 < leAt b 0 1 || leAt b 1 1 / 16 != 0 || bkKind b == 3 || leAt b 14 2 != 0 || leAt b 25 7 != 0

/-- A failed exchange (R220). -/
def State.missBeacon (s : State) : State :=
  let n := min 65535 (s.getF F.TIME_STATUS_MISSED 0 + 1)
  let s : State := { s.setF F.TIME_STATUS_MISSED 0 n with time := { s.time with missed := s.time.missed + 1 } }
  if n < 3 then s
  else if ¬ s.flag F.TIME_STATUS_ON_BACKUP 0 ∧ s.getF F.TIME_CTRL_BKPORT 0 ≠ 63 then s.toBackup
  else
    let s := s.setF F.TIME_STATUS_HOLDOVER 0 1
    if 4 ≤ n then { s.setF F.TIME_STATUS_LOCKED 0 0 with time := { s.time with good := 0 } } else s

/-- BEACON_EXCHANGE_FAIL (R220): an exchange on the current upstream port fails. -/
def execBeaconExchangeFail (s : State) : Out :=
  if s.flag F.TIME_CTRL_MASTER 0 then .next s else .next s.missBeacon

/-- An exchange on port `q` fails: it counts on the current upstream port (R220). -/
def State.missOn (s : State) (q : Nat) : State :=
  if s.beaconPort = q ∧ ¬ s.flag F.TIME_CTRL_MASTER 0 then s.missBeacon else s

/-- A BEACON packet of a kind on port `q`; the reserved kind 3 stands with SYNC. -/
def isBeacon (q kind : Nat) (k : Packet) : Bool := k.ptype == ptBEACON && k.src == .port q && bkKind k.body % 3 == kind

/-- Take the first beacon of a kind from port `q`; a bad one is discarded and counts as a missed beacon. -/
def State.onBeacon (s : State) (q kind : Nat) (f : State → Packet → State) : Out :=
  match takeFirst (isBeacon q kind) s.inbox with
  | none => .next s
  | some (k, rest) =>
    let s : State := { s with inbox := rest }
    if bkBad k.body then .next (s.missOn q) else .next (f s k)

/-- This package acts for the edge at port `q`: the child of a tree edge; otherwise the side that is not LOCKED, then the
deeper one, then the higher node ID (R223). -/
def State.acts (s : State) (q : Nat) (b : List Byte) : Bool :=
  s.parentPort q ||
  (if s.timeLocked != bkLocked b then !s.timeLocked
   else if s.getF F.TIME_STATUS_DEPTH 0 ≠ bkDepth b then decide (bkDepth b < s.getF F.TIME_STATUS_DEPTH 0)
   else decide (s.getF F.PORT_NEIGH_NODE q < s.node))

/-- SYNC (R218): the child records t1 and t2 and sends DELAY_REQ. A parent's DEPTH that is not this package's less 1 is a failed
exchange (R385). Outside the beacon tree only the time-alignment stage has an exchange, and the acting package answers. -/
def execSync (q : Nat) (s : State) : Out :=
  if ¬ q < 36 then .fault .noSuchUnit
  else s.onBeacon q 0 fun s k =>
    let b := k.body
    if s.parentPort q ∧ bkDepth b + 1 ≠ s.getF F.TIME_STATUS_DEPTH 0 then s.missOn q
    else if s.parentPort q ∨ s.pstate q = 7 ∧ s.acts q b then
      (s.modPort q (fun x => { x with exch := some (bkSeq b, bkTs b, k.stamp, 0) })).sendBeacon q
        (s.beaconBody 1 (s.bursting q) (bkSeq b) 0)
    else s

/-- DELAY_REQ (R218): the parent returns its receipt time t4. In the time-alignment stage its side of the exchange is done. -/
def execDelayReq (q : Nat) (s : State) : Out :=
  if ¬ q < 36 then .fault .noSuchUnit
  else s.onBeacon q 1 fun s k =>
    let s := s.sendBeacon q (s.beaconBody 2 false (bkSeq k.body) k.stamp)
    if s.pstate q = 7 then s.modPort q (fun x => { x with acked := 7 }) else s

/-! ## The servo and LOCKED (R219) -/

/-- LOCKED follows the parent and the run of offsets within ±0.5 ns. -/
def State.lockBy (s : State) (parentLocked : Bool) (off : Int) : State :=
  let near := -128 ≤ off ∧ off ≤ 128
  let good := if near then s.time.good + 1 else 0
  let bad := if near then 0 else s.time.bad + 1
  let s : State := { s with time := { s.time with good := good, bad := bad } }
  if ¬ parentLocked ∨ 2 ≤ bad then s.setF F.TIME_STATUS_LOCKED 0 0
  else if 8 ≤ good then (s.setF F.TIME_STATUS_LOCKED 0 1).setF F.TIME_STATUS_LEFT 0 0 else s

/-- The servo's next rate: a free value, clamped. While an offset is slewed away it is the rate that RATE goes back to. -/
def State.servo (s : State) : State :=
  let r := max (-200000) (min 200000 (Config.servoRate s.free))
  let s : State := { s with free := s.free + 1 }
  if s.time.slew.isSome then { s with time := { s.time with slew := some r } } else s.setRate r

/-! ## Time alignment (R223, Table 10-6) -/

/-- Partitions in a step that spans packages. -/
def State.wideSteps (s : State) : List Nat :=
  (List.range 16).filter (fun p => (s.part p).running && decide (1 < (s.runPlan p).nodes))

/-- Record a wake (TIME_WAKE): `ns` is the signed offset. -/
def State.recordWake (s : State) (q outcome : Nat) (ns : Int) : State :=
  let d := max (-(2 ^ 31 - 1)) (min (2 ^ 31 - 1) ns)
  s.setFs 0 [(F.TIME_WAKE_DRIFT_NS, unsigned 32 d), (F.TIME_WAKE_PORT, q), (F.TIME_WAKE_OUTCOME, outcome), (F.TIME_WAKE_VALID, 1)]

/-- The offset still to be removed on an edge that the servo does not follow (1/256 ns). -/
def State.owe (s : State) (q : Nat) (off : Int) : State :=
  if s.parentPort q ∧ (s.getF F.TIME_CTRL_UPPORT 0 = q ∨ s.beaconPort = q) then { s with time := { s.time with stepped := false } }
  else { s with time := { s.time with adj := off * 2 ^ 24 } }

/-- LOCKED is lost until R219 is met again. -/
def State.unlockTime (s : State) : State :=
  { s.setF F.TIME_STATUS_LOCKED 0 0 with time := { s.time with good := 0 } }

/-- Traffic is admitted: READY may go (R238). -/
def State.openVcs (s : State) (q : Nat) : State := s.modPort q (fun x => { x with acked := 7 })

/-- The outcome of an exchange in the time-alignment stage with offset `off` (1/256 ns), acting package minus partner (Table 10-6):
up to 64 ns traffic is admitted; up to 4 µs a burst of 16 exchanges measures it first, for which the stage has 20 µs more (Table 11-4);
beyond, the package leaves its plans and
VC0 to VC2 stay held. A wake is recorded. -/
def State.align (s : State) (q : Nat) (off : Int) : State :=
  let mag := off.natAbs
  let outcome := if mag ≤ 64 * 256 then 0 else if mag ≤ 4000 * 256 then 1 else 2
  let s := if (s.port q).wake then
      let s := s.recordWake q outcome (off / 256)
      if outcome = 0 then s else s.varyPort 5 q
    else s
  match outcome with
  | 0 => (s.modPort q (fun x => { x with hold3 := false })).openVcs q
  | 1 => (s.unlockTime.owe q off).modPort q (fun x => { x with burst := 16, stageAt := x.stageAt + 20000 })
  | _ =>
    let s := (s.unlockTime.owe q off).setF F.TIME_STATUS_LEFT 0 1
    ((s.modPort q (fun x => { x with hold3 := true })).openVcs q).abortAll 8 s.wideSteps

/-- Ports held for time alignment are released. -/
def State.releaseHolds (s : State) : State := { s with ports := (s.ports.map (fun e => (e.1, { e.2 with hold3 := false }))).filter (fun e => e.2 != Port.init) }

/-- One exchange of a burst is done; after the last the offset is measured and traffic is admitted. -/
def State.burstDone (s : State) (q : Nat) (off : Int) : State :=
  let n := (s.port q).burst - 1
  let s := s.modPort q (fun x => { x with burst := n })
  if n = 0 then (s.owe q off).openVcs q else s

/-- The offset disciplines the timebase (R219, R220). -/
def State.discipline (s : State) (up : Bool) (b : List Byte) (off : Int) : State :=
  let s := s.setF F.TIME_OFFSET_OFF 0 (unsigned 64 off)
  let s := if up then s.setF F.TIME_STATUS_ON_BACKUP 0 0 else s
  let s : State := { s.setFs 0 [(F.TIME_STATUS_MISSED, 0), (F.TIME_STATUS_HOLDOVER, 0)] with
    time := { s.time with missed := 0, stepped := false } }
  let left := s.flag F.TIME_STATUS_LEFT 0
  let s := (s.lockBy (bkLocked b) off).servo
  if left ∧ ¬ s.flag F.TIME_STATUS_LEFT 0 then s.releaseHolds else s

/-- DELAY_RESP (R218 to R221, R223): the child computes its offset from t1, t2, t3 and the t4 returned. On the upstream
port the offset disciplines the timebase; in the time-alignment stage the acting package applies Table 10-6, once, and then runs a
burst to its end. -/
def execDelayResp (q : Nat) (s : State) : Out :=
  if ¬ q < 36 then .fault .noSuchUnit
  else s.onBeacon q 2 fun s k =>
    let b := k.body
    match (s.port q).exch with
    | none => s
    | some (n, t1, t2, t3) =>
      if n ≠ bkSeq b then s
      else
        let off : Int := (((t2 : Int) - t1) - ((bkRx b : Int) - t3)) / 2
        let s := s.modPort q (fun x => { x with exch := none })
        let up := s.getF F.TIME_CTRL_UPPORT 0 == q
        let s := if s.parentPort q ∧ (up = true ∨ s.beaconPort = q) then s.discipline up b off else s
        if s.pstate q ≠ 7 then s
        else if s.bursting q then s.burstDone q off
        else if (s.port q).acked = 7 then s
        else s.align q off

/-- TIMEBASE_STEP (R221): with no partition in a step, a non-master whose measured offset exceeds 64 ns steps its timebase
by it, once; so does a package that owes the offset of a wake outside the tree (R223). -/
def execTimebaseStep (s : State) : Out :=
  let off := signed 64 (s.getF F.TIME_OFFSET_OFF 0)
  if s.flag F.TIME_CTRL_MASTER 0 ∨ ¬ s.idleSteps then .next s
  else if s.time.adj ≠ 0 then
    .next ({ s with time := { s.time with adj := 0 } }.stepTime (-(s.time.adj / 2 ^ 32)))
  else if off.natAbs ≤ 64 * 256 ∨ s.time.stepped then .next s
  else .next ({ s with time := { s.time with stepped := true } }.stepTime (-(off / 256)))

/-! ## System time (R222) -/

/-- The master's end-to-end measurement goes on: with t1 and t2 known it sends Delay_Req at t3 on the same Ethernet port and
transport. -/
def State.ptpAsk (s : State) (m : PtpMsg) (t1 t2 t3 : Nat) : State :=
  { s with
    time := { s.time with ptpSync := none, ptpReq := some (m.seq, t1, t2, t3) }
    ptpOut := s.ptpOut ++ [(m.port, m.transport, m.seq, t3)] }

/-- A measured offset from PTP time (ns): Ranuat records it, steps the timebase at the first lock, and steers RATE. -/
def State.ptpMeasured (s : State) (off : Int) : State :=
  let s : State := { s.setF F.TIME_PTP_OFFSET_NS 0 (unsigned 64 off) with time := { s.time with ptpReq := none } }
  let first := !s.time.ptpOnce && s.idleSteps
  let s := if first then { s with time := { s.time with ptpOnce := true } }.stepTime (-off) else s
  s.servo.setF F.TIME_STATUS_PTP_LOCKED 0 (bit (decide (off.natAbs ≤ 1000)))

/-- PTP_MESSAGE (R222): a PTP message of the configured domain reaches the master on an Ethernet port (0 or 1) over UDP/IPv4,
UDP/IPv6 or IEEE 802.3 (transport 0, 1, 2), stamped by the MAC. Sync of a one-step master carries t1; of a two-step master the
Follow_Up does; Delay_Resp carries t4. An Ethernet port that is held in reset (R388) or unpowered (R424) receives none. -/
def execPtpMessage (m : PtpMsg) (s : State) : Out :=
  if s.dark ∨ s.getF F.PWR_STATUS_STATE 0 = 2 ∨ ¬ s.flag F.TIME_CTRL_MASTER 0 ∨ ¬ s.flag F.TIME_CTRL_PTP_EN 0 ∨ m.domain ≠ s.getF F.TIME_CTRL_PTP_DOMAIN 0 ∨
    2 ≤ m.port ∨ 3 ≤ m.transport then .next s
  else
    let t := s.stampAt m.phase
    match m.kind with
    | .sync =>
      if m.twoStep then .next { s with time := { s.time with ptpSync := some (m.seq, none, t) } }
      else .next (s.ptpAsk m m.ts t t)
    | .followUp =>
      match s.time.ptpSync with
      | some (n, none, t2) => .next (if n = m.seq then s.ptpAsk m m.ts t2 t else s)
      | _ => .next s
    | .delayResp =>
      match s.time.ptpReq with
      | some (n, t1, t2, t3) =>
        if n ≠ m.seq then .next s
        else .next (s.ptpMeasured ((((t2 : Int) - t1) - ((m.ts : Int) - t3)) / 2 / 256))
      | none => .next s

/-- PTP_LOST (R222): PTP_LOCKED clears and RATE is held. -/
def execPtpLost (s : State) : Out :=
  if s.flag F.TIME_CTRL_MASTER 0 then .next (s.setF F.TIME_STATUS_PTP_LOCKED 0 0) else .next s

end Sys2Proof.Machine
end

