-- ==== Sys2Proof/Machine/Training.lean ====
section
/-! DEFINITION. Port training, width, and low power (R233 to R243). -/

namespace Sys2Proof.Machine

/-- A write of PORT_CTRL names exactly one action, bit `b` (R244). -/
def ctrlIs (v : Word64) (b : Nat) : Bool := v.toNat % 16 == 2 ^ b

/-- RETRAIN (bit 0), SLEEP (bit 2) or OFF (bit 3) of a port begins and holds the port's lock until it ends; without the port
state it needs, the write is ignored. -/
def State.portWork (s : State) (q k : Nat) : State :=
  let st := s.pstate q
  if k = 0 then
    if (st = 1 ∨ st = 8 ∨ st = 9) ∧ ¬ (s.port q).gone then (s.train q 0x0B).takeLocks 6 [q] else s
  else if st = 8 ∧ (s.port q).ask = 0 then
    (s.modPort q (fun x => { x with ask := if k = 2 then 1 else 2, asked := false })).takeLocks 6 [q]
  else if k = 3 ∧ st = 11 then s.setPstate q 13
  else s

/-- The port state lets the request begin. -/
def State.portDoes (s : State) (q k : Nat) : Bool :=
  let st := s.pstate q
  if k = 0 then (st == 1 || st == 8 || st == 9) && !(s.port q).gone else (st == 8 && (s.port q).ask == 0) || (k == 3 && st == 11)

/-- The same, unless another activity holds the port or asked for it before: then the request is queued (R408). -/
def State.portAsk (s : State) (q k : Nat) : State :=
  if s.portDoes q k && !s.mayLock 6 (q + 64 * k) then s.askLock 6 (q + 64 * k) else s.portWork q k

/-- Port requests in the queue that nothing stands in the way of any more begin, in request order. -/
def State.runPorts (s : State) : State :=
  s.lockQ.foldl (fun (s : State) (x : Nat × Nat) =>
    if x.1 = 6 ∧ s.mayLock 6 x.2 then (s.leaveQ 6 x.2).portWork (x.2 % 64) (x.2 / 64) else s) s

/-- RETRAIN (R234): a port in DOWN, UP or MGMT_ONLY trains from DETECT; during training the write is ignored. A port that
received a going-away frame waits for a new partner signal. -/
def execRetrain (q : Nat) (v : Word64) (s : State) : Out :=
  if ¬ q < 36 then .fault .noSuchUnit
  else if ctrlIs v 0 then .next (s.portAsk q 0) else .next s

/-- SLEEP (R241): a port in UP asks for SLEEP once every flit it sent is acknowledged. -/
def execSleep (q : Nat) (v : Word64) (s : State) : Out :=
  if ¬ q < 36 then .fault .noSuchUnit
  else if ctrlIs v 2 then .next (s.portAsk q 2) else .next s

/-- OFF (R243): the same handshake, into OFF. -/
def execOff (q : Nat) (v : Word64) (s : State) : Out :=
  if ¬ q < 36 then .fault .noSuchUnit
  else if ctrlIs v 3 then .next (s.portAsk q 3) else .next s

/-- WAKE (R242, R243): leaves SLEEP, trains a port in OFF, and wins over a sleep request that it crosses. -/
def execWake (q : Nat) (v : Word64) (s : State) : Out :=
  if ¬ q < 36 then .fault .noSuchUnit
  else if ¬ ctrlIs v 1 then .next s
  else match s.pstate q with
    | 11 => .next (s.wakePort q)
    | 13 => .next (s.train q 0)
    | 8 => .next ((s.modPort q (fun x => { x with ask := 0, asked := false, grant := false, refuse := false })).dropLocks 6 [q])
    | _ => .next s

/-- PARTNER_SIGNAL (R234, R243): the partner's lanes show a signal (`powered`), or have lost power. A port in DOWN starts training;
after a going-away frame only when the signal follows at least 10 µs of silence. In DETECT the partner's signal ends the stage. A
port in SLEEP whose partner entered OFF removes its lane power too (DESIGN CHOICE, log entry 71: the link fields do not tell the
two apart). -/
def execPartnerSignal (q silence : Nat) (powered : Bool) (s : State) : Out :=
  if ¬ q < 36 then .fault .noSuchUnit
  else if ¬ powered then .next (if s.pstate q = 11 then s.setPstate q 13 else s)
  else match s.pstate q with
    | 1 =>
      if (s.port q).gone ∧ silence < 10000 then .next s
      else .next ((s.modPort q (fun x => { x with gone := false })).train q 0)
    | 2 => .next (s.setPstate q 3)
    | _ => .next s

/-- The width both lane sets allow (R235): all lanes, the low half, or the high half; 0 when neither half is clean. -/
def widthOf (clean : Nat) : Nat :=
  if clean % 256 = 0xFF then 0xFF else if clean % 16 = 0xF then 0x0F else if clean / 16 % 16 = 0xF then 0xF0 else 0

/-- EQUALISE (R227, R235, R240): equalisation ends and the width is chosen; a port that keeps its half offers only that. -/
def execEqualise (q : Nat) (l : Lanes) (s : State) : Out :=
  if ¬ q < 36 then .fault .noSuchUnit
  else if s.pstate q ≠ 3 then .next s
  else if ¬ l.orderOk then .next (s.failAttempt q 2)
  else
    let s := s.setFs q [(F.PORT_LANES_REVERSED, bit l.reversed), (F.PORT_LANES_INVERTED, l.inverted % 256),
      (F.PORT_LANES_LOCKED, l.locked % 256), (F.PORT_LANES_PRECODE, l.precode % 256)]
    let x := s.port q
    let clean := l.clean &&& l.locked &&& (if x.keep = 0 then 0xFF else x.keep)
    if widthOf clean = 0 then .next (s.failAttempt q 3)
    else .next ((s.modPort q (fun x => { x with clean := clean % 256, width := widthOf clean })).setPstate q 4)

/-- ALIGN_DONE (R208, R234): lanes and codewords are aligned and the port's crossings calibrate; a failed calibration ends
training at once. -/
def execAlignDone (q : Nat) (cin cout : Cal) (s : State) : Out :=
  if ¬ q < 36 then .fault .noSuchUnit
  else if s.pstate q ≠ 4 then .next s
  else
    let s := (s.calibrate q fPortIn cin 8).calibrate q fPortOut cout 8
    if calOk cin 8 ∧ calOk cout 8 then
      .next ((s.modPort q (fun x => { x with got := 0, acked := 0, saidReady := false })).setPstate q 5)
    else .next (s.goDown q 0x0D)

/-- The bound of a training stage in ns (Table 11-4). -/
def State.stageBound (s : State) (q : Nat) : Nat :=
  match s.pstate q with
  | 2 => 5000
  | 3 => 170000
  | 4 => 10000
  | _ => s.rtt q + 1000

/-- TRAINING_STAGE_TIMEOUT (R234, Table 11-12): the stage at hand exceeds its bound. -/
def execTrainingStageTimeout (q : Nat) (s : State) : Out :=
  if ¬ q < 36 then .fault .noSuchUnit
  else
    let st := s.pstate q
    if s.now ≤ (s.port q).stageAt + s.stageBound q then .next s
    else if 2 ≤ st ∧ st ≤ 4 then .next (s.failAttempt q 2)
    else if 5 ≤ st ∧ st ≤ 7 then .next (s.failAttempt q 0x0C)
    else .next s

/-! ## Training bodies (R236 to R238, Table 11-5) -/

def tbStage (b : List Byte) : Nat := leAt b 1 1 % 8
def tbAck (b : List Byte) : Bool := bitAt (leAt b 1 1) 3
def tbMask (b : List Byte) : Nat := leAt b 4 1
def tbClass (b : List Byte) : Nat := leAt b 5 1
def tbClean (b : List Byte) : Nat := leAt b 6 1
def tbWidth (b : List Byte) : Nat := leAt b 7 1
def tbNode (b : List Byte) : Nat := leAt b 8 3
def tbPort (b : List Byte) : Nat := leAt b 11 1
def tbH (b : List Byte) : Nat := leAt b 12 2
def tbDigest (b : List Byte) : Nat := leAt b 16 8

/-- VERSION other than 1, an unknown STAGE or a reserved bit set (R238). -/
def tbBad (b : List Byte) : Bool :=
  leAt b 0 1 != 1 || tbStage b == 0 || decide (3 < tbStage b) || leAt b 1 1 / 16 != 0 || tbMask b / 16 != 0 ||
  tbMask b % 2 != 0 || decide (4 ≤ tbClass b) || decide (2 ^ 20 ≤ tbNode b) || decide (64 ≤ tbPort b) || leAt b 14 2 != 0 ||
  leAt b 24 8 != 0

/-- The stage of the body this side sends: VERSION or CONFIG in their states; in TIME the CONFIG body, which tells the partner that
its body has come, until traffic is admitted, and READY from then on (R238). -/
def State.sendStage (s : State) (q : Nat) : Nat :=
  if s.pstate q = 7 then (if (s.port q).acked = 7 then 3 else 2) else s.pstate q - 4

/-- The body this side sends. -/
def State.trainBody (s : State) (q : Nat) : List Byte :=
  let x := s.port q
  let st := s.sendStage q
  let ack := if st = 2 ∧ s.pstate q = 7 then true else x.got == st
  leBytes 1 1 ++ leBytes 1 (st + 8 * bit ack) ++ leBytes 1 1 ++ leBytes 1 0 ++ leBytes 1 2 ++
  leBytes 1 (s.getF F.PORT_CFG_CLASS q) ++ leBytes 1 x.clean ++ leBytes 1 x.width ++ leBytes 3 s.node ++ leBytes 1 q ++
  leBytes 2 (s.getF F.PORT_CFG_H_64K q) ++ leBytes 2 0 ++ leBytes 8 (s.getF F.CTL_CDIG_DIGEST 0) ++ List.replicate 8 0

/-- A stage begins with nothing received or sent in it. -/
def Port.fresh (x : Port) : Port :=
  { x with got := 0, acked := 0, saidReady := false, exch := none, burst := 0, tbeacon := [] }

/-- Move from VERSION to CONFIG, or from CONFIG to TIME or MGMT_ONLY, once both sides have the other's body. -/
def State.nextStage (s : State) (q : Nat) : State :=
  match s.pstate q with
  | 5 => (s.modPort q Port.fresh).setPstate q 6
  | 6 =>
    let s := s.modPort q Port.fresh
    if s.flag F.PORT_STATUS_NEIGH_BAD q then s.enterMgmt q 7
    else if s.flag F.PORT_STATUS_CDIGEST_BAD q then s.enterMgmt q 6
    else s.setPstate q 7
  | _ => s

/-- The VERSION body (R236) and the width check (R235, R238). -/
def State.gotVersion (s : State) (q : Nat) (b : List Byte) : State :=
  let x := s.port q
  if ¬ bitAt (tbMask b) 1 then s.goDown q 4
  else
    let w := widthOf (x.clean &&& tbClean b)
    if w = 0 then s.failAttempt q 3
    else
      let s := s.setFs q [(F.PORT_STATUS_VMAJOR, 1), (F.PORT_STATUS_VMINOR, 0)]
      s.modPort q (fun x => { x with got := 1, pclean := tbClean b, width := w })

/-- A cap of the common area under a new effective headroom (R237, R258): a cap at its default keeps it, another stays between the
headroom and the rest of the area. -/
def capUnder (c old new cap : Nat) : Nat := if cap = c - old then c - new else max new (min (c - new) cap)

/-- The caps of a port follow its effective headroom (KiB). -/
def State.setHeff (s : State) (q h : Nat) : State :=
  let c := s.getF F.VCB_ALLOC_COMMON_KIB q
  let old := s.heff q / 1024
  let fit := fun (f : Fld) => (f, capUnder c old h (s.getF f q))
  (s.setFs q [fit F.VCB_CAP_CAP0_KIB, fit F.VCB_CAP_CAP1_KIB, fit F.VCB_CAP_CAP3_KIB, fit F.VCB_CAP_CAP4_KIB]).modPort q
    (fun x => { x with heff := h })

/-- The CONFIG body (R237): class, neighbour and digest; held traffic of another partner is discarded (R261). -/
def State.gotConfig (s : State) (q : Nat) (b : List Byte) : State :=
  if tbClass b ≠ s.getF F.PORT_CFG_CLASS q then s.goDown q 5
  else if tbWidth b ≠ (s.port q).width then s.failAttempt q 3
  else
    let other := s.getF F.PORT_NEIGH_NODE q ≠ tbNode b ∨ s.getF F.PORT_NEIGH_PORT q ≠ tbPort b
    let held := s.getF F.PORT_NEIGH_H_64K q ≠ 0 ∧ ((s.port q).store ≠ [] ∨ s.queuedFor q)
    let s := if other ∧ held then s.discardPort q else s
    let s := s.setFs q [(F.PORT_NEIGH_NODE, tbNode b), (F.PORT_NEIGH_PORT, tbPort b), (F.PORT_NEIGH_H_64K, tbH b),
      (F.PORT_PCDIG_CDIGEST, tbDigest b)]
    let en := s.getF F.PORT_CFG_EXP_NODE q
    let ep := s.getF F.PORT_CFG_EXP_PORT q
    let neigh := (en ≠ 0xFFFFF ∧ en ≠ tbNode b) ∨ (ep ≠ 63 ∧ ep ≠ tbPort b)
    let dig := tbDigest b ≠ s.getF F.CTL_CDIG_DIGEST 0
    let s := s.setFs q [(F.PORT_STATUS_NEIGH_BAD, bit (decide neigh)), (F.PORT_STATUS_CDIGEST_BAD, bit (decide (¬ neigh ∧ dig)))]
    (s.modPort q (fun x => { x with got := 2 })).setHeff q (min (s.headroom q / 1024) (64 * tbH b))

/-- Both sides are ready (R238): the partner's READY has come, traffic is admitted and this side's READY has gone. -/
def State.goUp (s : State) (q : Nat) : State :=
  let x := s.port q
  if x.got = 3 ∧ x.acked = 7 ∧ x.saidReady then s.enterUp q else s

/-- A training body that a port in training received (R236 to R238). A body of the next stage tells that the partner has this
side's body of the stage at hand. -/
def State.takeBody (s : State) (q : Nat) (b : List Byte) : State :=
  if tbBad b then s.addF F.PORT_TRAIN_BAD_FRAMES q 1
  else
    let s := if s.pstate q < 7 ∧ tbStage b = s.pstate q - 3 ∧ (s.port q).got = s.pstate q - 4 then s.nextStage q else s
    let st := s.pstate q - 4
    if tbStage b ≠ st ∨ ¬ (5 ≤ s.pstate q ∧ s.pstate q ≤ 7) then s
    else
      let s := match st with
        | 1 => s.gotVersion q b
        | 2 => s.gotConfig q b
        | _ => (s.modPort q (fun x => { x with got := 3 })).goUp q
      if s.pstate q - 4 ≠ st ∨ st = 3 then s
      else if tbAck b ∧ (s.port q).got = st then s.nextStage q
      else s

/-- A training frame with the partner's OLDEST and NEXT_EXP (R234, R238, R262): in UP or MGMT_ONLY a good one starts training. -/
def State.takeFrame (s : State) (q seq ack : Nat) (b : List Byte) : State :=
  let s := s.modPort q (fun x => { x with rseq := seq, rack := ack })
  if s.pstate q = 8 ∨ s.pstate q = 9 then if tbBad b then s.addF F.PORT_TRAIN_BAD_FRAMES q 1 else s.train q 0
  else if 5 ≤ s.pstate q ∧ s.pstate q ≤ 7 then s.takeBody q b
  else s

/-- TRAINING_FRAME (R234, R236 to R238, R262): a training frame arrives, with SEQ and ACK of its link fields. -/
def execTrainingFrame (q seq ack : Nat) (b : List Byte) (s : State) : Out :=
  if ¬ (q < 36 ∧ seq < 2 ^ 24 ∧ ack < 2 ^ 24) then .fault .noSuchUnit
  else .next (s.takeFrame q seq ack b)

/-! ## Lanes (R239, R240) -/

/-- The active lanes of a width, in order. -/
def lanesOf (w : Nat) : List Nat := onesOf w 8

/-- The lane of symbol `i` of the stream (R229): round robin over the active lanes. -/
def laneOfSym (w i : Nat) : Nat := (lanesOf w).getD (i % (lanesOf w).length) 0

/-- Corrected symbols of a lane in a window, given per symbol of the stream. -/
def laneHits (w : Nat) (hits : Tbl Nat) (l : Nat) : Nat :=
  ((hits.filter (fun e => laneOfSym w e.1 == l)).map (·.2)).sum

/-- The median of an odd number of counts. -/
def median (xs : List Nat) : Nat :=
  let k := xs.length / 2
  (xs.find? (fun x => decide ((xs.filter (fun y => decide (y < x))).length ≤ k) &&
    decide (k < (xs.filter (fun y => decide (y ≤ x))).length))).getD 0

/-- A lane fails (R239): clock recovery was lost for 1 µs, or in a 10 µs window its corrected symbols exceed 4,096 and 16 times the
median of the other active lanes. -/
def laneFails (w lost : Nat) (hits : Tbl Nat) (l : Nat) : Bool :=
  bitAt lost l || (decide (4096 < laneHits w hits l) &&
    decide (16 * median (((lanesOf w).filter (· != l)).map (laneHits w hits)) < laneHits w hits l))

/-- Narrow to the surviving half: the high half failed when `high`. -/
def State.degrade (s : State) (q : Nat) (high : Bool) (tell : Bool) : State :=
  let w := if high then 0x0F else 0xF0
  let s := ((s.setPstate q 10).addF F.PORT_TRAIN_DEGRADES q 1).setF F.PORT_STATUS_WIDTH q 0
  (s.modPort q (fun x => { x with width := w, half := tell, high := high })).varyPort 6 q

/-- LANE_FAIL (R239, R240): `lost` lanes lose clock recovery, and a window ends with `hits` corrected symbols by symbol of the
stream. An 8-lane port in UP whose other half is clean narrows; otherwise a failed lane starts training. -/
def execLaneFail (q lost : Nat) (hits : Tbl Nat) (s : State) : Out :=
  if ¬ q < 36 then .fault .noSuchUnit
  else if s.pstate q ≠ 8 ∧ s.pstate q ≠ 9 then .next s
  else
    let w := (s.port q).width
    let bad := (lanesOf w).filter (laneFails w lost hits)
    if bad = [] then .next s
    else
      let f := bad.foldl (fun a l => setBits a l 1 1) (s.getF F.PORT_LANES_FAILED q)
      let locked := (onesOf lost 8).foldl (fun a l => setBits a l 1 0) (s.getF F.PORT_LANES_LOCKED q)
      let s := s.setFs q [(F.PORT_LANES_FAILED, f), (F.PORT_LANES_LOCKED, locked)]
      if s.pstate q = 8 ∧ w = 0xFF ∧ f % 16 = 0 then .next (s.degrade q true true)
      else if s.pstate q = 8 ∧ w = 0xFF ∧ f / 16 = 0 then .next (s.degrade q false true)
      else .next (s.train q (if (lanesOf w).all (bitAt lost) then 1 else 0x0E))

/-- DEGRADE_REALIGN (R240): the 4 surviving lanes are realigned; the port is UP again and replays from the oldest
unacknowledged flit. -/
def execDegradeRealign (q : Nat) (s : State) : Out :=
  if ¬ q < 36 then .fault .noSuchUnit
  else if s.pstate q ≠ 10 then .next s
  else
    let x := s.port q
    let s := (s.setPstate q 8).setF F.PORT_STATUS_WIDTH q x.width
    .next ((s.setPort q { x with half := false, bsfIn := s.now }).resumeReplay q)

/-! ## Low power (R241 to R243) -/

/-- SLEEP_TIMEOUT (R241): no answer to a sleep request within 10 µs. -/
def execSleepTimeout (q : Nat) (s : State) : Out :=
  if ¬ q < 36 then .fault .noSuchUnit
  else if s.pstate q ≠ 8 ∨ ¬ (s.port q).asked ∨ s.now < (s.port q).askAt + 10000 then .next s
  else .next (((s.modPort q (fun x => { x with ask := 0, asked := false })).setF F.PORT_STATUS_SLEEP_REFUSED q 1).dropLocks 6 [q])

/-- PARTNER_WAKE (R242, R243): the partner leaves electrical idle. -/
def execPartnerWake (q : Nat) (s : State) : Out :=
  if ¬ q < 36 then .fault .noSuchUnit
  else match s.pstate q with
    | 11 => .next (s.wakePort q)
    | 13 => .next (s.train q 0)
    | _ => .next s

/-- RELOCK (R242): a waking port's lanes relock with the settings they kept and CONFIG follows, or the port trains from
DETECT. -/
def execRelock (q : Nat) (ok : Bool) (s : State) : Out :=
  if ¬ q < 36 then .fault .noSuchUnit
  else if s.pstate q ≠ 12 then .next s
  else if ok then .next (((s.modPort q Port.fresh).setF F.PORT_LANES_LOCKED q (s.port q).width).setPstate q 6)
  else .next ((s.addF F.PORT_TRAIN_TRAINS q 1).detect q 0)

end Sys2Proof.Machine
end

