-- ==== Sys2Proof/Machine/Link.lean ====
section
/-! DEFINITION. The link: flits received and sent, acknowledgement, replay, timeouts and the loss of a port (R245 to R263,
R397). -/

namespace Sys2Proof.Machine

/-! ## Link fields (Table 12-1) -/

/-- The bytes of a flit. -/
def flitBytes (f : Flit) : List Byte := leBytes 256 f.toNat

/-- The CRC of a flit's bytes: over bytes 0–9 and 14–255. -/
def flitCrc (b : List Byte) : Nat := crc32 (b.take 10 ++ b.drop 14)

def fType (b : List Byte) : Nat := leAt b 0 1 % 16
def fVc (b : List Byte) : Nat := leAt b 0 1 / 16 % 8
def fSeq (b : List Byte) : Nat := leAt b 1 3
def fAck (b : List Byte) : Nat := leAt b 4 3
def fBsf (b : List Byte) : Bool := bitAt (leAt b 7 1) 7
def fNak (b : List Byte) : Bool := bitAt (leAt b 7 1) 6
def fOff (b : List Byte) : Nat := leAt b 7 1 % 64
def fFlags (b : List Byte) : Nat := leAt b 8 1
def fFirst (b : List Byte) : Bool := bitAt (leAt b 9 1) 0
def fLast (b : List Byte) : Bool := bitAt (leAt b 9 1) 1

/-- A flit is bad (R245): uncorrected, a failed CRC, a reserved TYPE or VC, or a reserved bit. -/
def flitBad (b : List Byte) (uncorr : Bool) : Bool :=
  uncorr || leAt b 10 4 != flitCrc b || decide (3 < fType b) || decide (5 < fVc b) || bitAt (leAt b 0 1) 7 ||
  decide (32 ≤ fFlags b) || decide (4 ≤ leAt b 9 1)

/-- The link fields and body of a flit this port sends. -/
def makeFlit (type vc seq ack : Nat) (bsf nak : Bool) (off flags : Nat) (first last : Bool) (body : List Byte) : Flit :=
  let hd := leBytes 1 (type + 16 * vc) ++ leBytes 3 seq ++ leBytes 3 ack ++ leBytes 1 (off + 64 * bit nak + 128 * bit bsf) ++
    leBytes 1 flags ++ leBytes 1 (bit first + 2 * bit last)
  let bd := padTo 242 body
  BitVec.ofNat 2048 (leNat (hd ++ leBytes 4 (crc32 (hd ++ bd)) ++ bd))

/-! ## Receiving -/

/-- A receiver asks for the flit it expects (R251). -/
def State.askNak (s : State) (q : Nat) : State :=
  if (s.port q).naking then s else s.modPort q (fun x => { x with nakDue := true, naking := true, nakAt := s.now })

/-- The ACK of a correct flit (R250). -/
def State.takeAck (s : State) (q a : Nat) : State :=
  let s := s.setF F.VCB_RXSEQ_LAST_ACK q a
  if s.inWindow q a then s.ackTo q a else s.addF F.VCB_ERR_BAD_ACK q 1

/-- A NAK of a correct flit (R252): ignored within one round trip of a replay from the same flit. -/
def State.takeNak (s : State) (q n : Nat) : State :=
  let x := s.port q
  if ¬ s.inWindow q n ∨ n = s.getF F.VCB_TXSEQ_NEXT_SEND q ∨
    (x.replaySeq = n ∧ x.replayAt ≠ 0 ∧ s.now < x.replayAt + s.rtt q) then s
  else s.startReplay q n

/-- The sleep flags of a correct flit (R241 to R243). -/
def State.takeSleep (s : State) (q flags : Nat) : State :=
  let x := s.port q
  if bitAt flags 1 ∧ x.asked then s.enterSleep q (if x.ask = 2 then 13 else 11)
  else if bitAt flags 2 ∧ x.asked then
    ((s.modPort q (fun x => { x with ask := 0, asked := false })).setF F.PORT_STATUS_SLEEP_REFUSED q 1).dropLocks 6 [q]
  else if bitAt flags 0 ∧ s.pstate q = 8 then
    if ¬ s.queuedFor q then s.modPort q (fun x => { x with grant := true, refuse := false })
    else s.modPort q (fun x => { x with refuse := true, grant := false })
  else s

/-- The half-failure flags (R240): the partner narrows this port. -/
def State.takeHalf (s : State) (q flags : Nat) : State :=
  if bitAt flags 3 ∧ s.pstate q = 8 ∧ s.getF F.PORT_STATUS_WIDTH q = 0xFF then s.degrade q (bitAt flags 4) false else s

/-- The partition of a packet that arrives on a port (R269): the port's owner. -/
def State.portPart (s : State) (q : Nat) : Nat := (s.portOwner q).getD 0

/-- The packet of VC `v` from port `q` that is still coming, with the rest of the routers' packets around it. -/
def splitOpen (q v : Nat) : List Worm → Option (List Worm × Worm × List Worm)
  | [] => none
  | w :: t =>
    if w.input == q + 1 && w.vcIn == v && !w.complete then some ([], w, t)
    else (splitOpen q v t).map (fun r => (w :: r.1, r.2.1, r.2.2))

/-- A packet of port `q` is malformed (R246): it is counted, and the rest of it is discarded up to its LAST flit. -/
def State.malformed (s : State) (q v : Nat) (last : Bool) : State :=
  (s.addF F.VCB_ERR_MALFORMED q 1).modPort q (fun x => { x with skip := setBits x.skip v 1 (bit (!last)) })

/-- A FIRST flit: its header is read, and its packet enters the routers; a VC5 packet is for the package (R276). -/
def State.headFlit (s : State) (q stamp : Nat) (f : TxFlit) : State :=
  let s := s.modPort q (fun x => { x with skip := setBits x.skip f.vc 1 0 })
  match parseHead f.body f.vc (.port q) f.part stamp with
  | none => s.malformed q f.vc f.last
  | some k =>
    if f.last != (k.flits == 1) then s.malformed q f.vc f.last
    else { s with rq := s.rq ++ [⟨k, f.vc, [f], 0, k.vc == 5, [], k.vc == 5, s.now, s.nextCycle, 0, q / 18, false, none⟩] }

/-- The routers' packets without one that is cut off, on both jambs. -/
def Worm.cutOff (w : Worm) (ws : List Worm) : List Worm := ws.filter (fun u => u.feed != some (w.cycle, w.input))

/-- A flit joins the packet of its VC (R246): FIRST and LAST must agree with the packet's FLITS. -/
def State.joinFlit (s : State) (q stamp : Nat) (f : TxFlit) : State :=
  let s := match f.first, bitAt (s.port q).skip f.vc, splitOpen q f.vc s.rq with
    | true, _, some (a, w, b) => ({ s with rq := w.cutOff (a ++ b) }.addF F.VCB_ERR_MALFORMED q 1).headFlit q stamp f
    | true, _, none => s.headFlit q stamp f
    | false, true, _ => if f.last then s.modPort q (fun x => { x with skip := setBits x.skip f.vc 1 0 }) else s
    | false, false, none => s.malformed q f.vc f.last
    | false, false, some (a, w, b) =>
      if f.last != (w.flits.length + 1 == w.pkt.flits) then { s with rq := w.cutOff (a ++ b) }.malformed q f.vc f.last
      else
        let body := (w.pkt.body ++ f.body).take w.pkt.len
        { s with rq := a ++ { w with flits := w.flits ++ [f], pkt := { w.pkt with body := body } } :: b }
  s.passOn

/-- A correct DATA flit (R250, R251). -/
def State.takeData (s : State) (q stamp : Nat) (b : List Byte) : State :=
  let next := s.getF F.VCB_RXSEQ_NEXT_EXP q
  if fSeq b = next then
    let s := (s.setF F.VCB_RXSEQ_NEXT_EXP q ((next + 1) % 2 ^ 24)).modPort q (fun x => { x with naking := false, nakDue := false })
    if s.pstate q = 9 ∧ fVc b ≠ 5 then s
    else s.joinFlit q stamp ⟨fSeq b, fVc b, fFirst b, fLast b, b.drop 14, s.portPart q, leAt b 15 1, 0⟩
  else if seqGe 24 (fSeq b) next then s.askNak q else s

/-- A going-away body (Table 12-6) of the neighbour (R263): DOWN with cause GONE, and the held traffic is discarded at
once. -/
def State.takeGone (s : State) (q : Nat) (body : List Byte) : State :=
  let reason := leAt body 1 1
  if leAt body 0 1 ≠ 1 ∨ reason = 0 ∨ 2 < reason ∨ leAt body 2 3 ≠ s.getF F.PORT_NEIGH_NODE q ∨ s.pstate q = 0 ∨
    (body.drop 5).any (fun x => x != 0) then s
  else if s.pstate q = 1 ∧ (s.port q).gone then s
  else s.goDown q 0x0A

/-- GOING_AWAY (R263): a correct going-away flit. -/
def execGoingAway (q : Nat) (body : List Byte) (s : State) : Out :=
  if ¬ q < 36 then .fault .noSuchUnit else .next (s.takeGone q (padTo 242 body))

/-- A body of a training flit is the training body of Table 11-5; in TIME one that is not CONFIG or READY with a mask of majors is a
beacon body (R238; log entry 72). -/
def State.isTraining (s : State) (q : Nat) (b : List Byte) : Bool :=
  s.pstate q != 7 || (decide (2 ≤ tbStage b) && decide (tbStage b ≤ 3) && bitAt (tbMask b) 1)

/-- The beacon of a training flit, as the packet it stands for. -/
def State.beaconOf (s : State) (q stamp : Nat) (b : List Byte) : Packet :=
  ⟨1, ptBEACON, 1, 5, false, s.node, s.getF F.PORT_NEIGH_NODE q, 0, 0, 0, 32, b.take 32, .port q, s.portPart q, [], stamp⟩

/-- A correct training flit (R234, R238, R262): it carries OLDEST and NEXT_EXP of the partner. -/
def State.takeTraining (s : State) (q stamp : Nat) (b : List Byte) : State :=
  let body := b.drop 14
  if 5 ≤ s.pstate q ∧ s.pstate q ≤ 7 ∧ ¬ s.isTraining q body then
    { s.modPort q (fun x => { x with rseq := fSeq b, rack := fAck b }) with inbox := s.inbox ++ [s.beaconOf q stamp body] }
  else s.takeFrame q (fSeq b) (fAck b) body

/-- The link fields that every correct flit delivers (R245, R250 to R252, R255): OFF, BSF, ACK and NAK. -/
def State.takeFields (s : State) (q : Nat) (b : List Byte) : State :=
  let s := s.setF F.VCB_FLOW_RX_OFF q (fOff b)
  let s := if fBsf b then s.modPort q (fun x => { x with bsfIn := s.now }) else s
  let s := s.takeAck q (fAck b)
  if fNak b then s.takeNak q (fAck b) else s

/-- FLIT_RECEIVE (R229, R245 to R251): a flit arrives on a port that receives, `phase` (1/256 ns) into a tick. Of the codewords that
end in it `corr` were corrected and `uncorr` not correctable; `bad`: one that ends later, with a byte of this flit, is not
correctable. -/
def execFlitReceive (q corr uncorr : Nat) (bad : Bool) (phase : Nat) (f : Flit) (s : State) : Out :=
  if ¬ q < 36 then .fault .noSuchUnit
  else if ¬ (5 ≤ s.pstate q ∧ s.pstate q ≤ 10) then .next s
  else
    let b := flitBytes f
    let s := (s.addF F.PORT_FEC_CORRECTED q corr).addF F.PORT_FEC_UNCORR q uncorr
    if flitBad b (bad || decide (0 < uncorr)) then .next ((s.addF F.VCB_ERR_CRC_BAD q 1).askNak q)
    else
      let s := s.takeFields q b
      if fType b = 2 then .next (s.takeTraining q (s.stampAt phase) b)
      else if fType b = 3 then .next (s.takeGone q (b.drop 14))
      else if ¬ (8 ≤ s.pstate q ∧ s.pstate q ≤ 10) then .next s
      else
        let s := (s.takeHalf q (fFlags b)).takeSleep q (fFlags b)
        .next ((if fType b = 1 then s.takeData q (s.stampAt phase) b else s).refreshPort q)

/-! ## Sending (R259) -/

/-- The body of a head flit as it leaves on VC `v`: the header's ROUTE VC follows the link-field VC (R271). -/
def routeVc (v : Nat) (f : TxFlit) : List Byte :=
  if f.first then f.body.take 3 ++ leBytes 1 (leAt f.body 3 1 / 8 * 8 + v) ++ f.body.drop 4 else f.body

/-- The next flit of the packet that holds VC `v` of output `q`, when it has come that far (R272, R280). -/
def State.nextFlit (s : State) (q v : Nat) : Option TxFlit :=
  match s.holder q v with
  | none => none
  | some w =>
    match w.outs.find? (fun b => b.port == q && b.vc == v) with
    | none => none
    | some b =>
      if w.pkt.fan ∧ b.taken ≤ b.sent then none
      else (w.flits[b.sent]?).map (fun f => { f with vc := v, body := routeVc v f })

/-- A new flit of VC `v` is ready: there is one, its VC is not off, it fits the window (R249), and the port takes flits from the
router (R241) and holds none for time alignment. -/
def State.ready (s : State) (q v : Nat) : Option TxFlit :=
  let x := s.port q
  match s.nextFlit q v with
  | none => none
  | some f =>
    let of := fun w => 256 * ((x.store.filter (fun g => g.vc == w)).length + 1)
    if bitAt (s.getF F.VCB_FLOW_RX_OFF q) v ∨ s.heff q < x.storeBytes + 256 ∨ (v = 2 ∧ s.heff q / 16 < of 2) ∨
      (v = 5 ∧ s.heff q / 64 < of 5) ∨ (x.hold3 ∧ v ≤ 2) ∨ x.asked ∨ (s.pstate q = 9 ∧ v ≠ 5) then none
    else some f

/-- Choose between the two VCs of a pair: the one that did not go last when both are ready. -/
def pickPair (a b : Option TxFlit) (last va : Nat) : Option TxFlit :=
  match a, b with
  | some x, some y => if last = va then some y else some x
  | some x, none => some x
  | none, y => y

/-- The new flit of this slot. -/
def State.pickFlit (s : State) (q : Nat) : Option TxFlit :=
  let x := s.port q
  match (if 15 ≤ x.since2 then s.ready q 2 else none), (if 63 ≤ x.since5 then s.ready q 5 else none) with
  | some f, _ => some f
  | none, some f => some f
  | none, none =>
    match pickPair (s.ready q 0) (s.ready q 1) x.last1 0 with
    | some f => some f
    | none => pickPair (s.ready q 3) (s.ready q 4) x.last4 3

/-- The flags of byte 8 this port sends. -/
def Port.flags (x : Port) : Nat :=
  bit x.asked + 2 * bit x.grant + 4 * bit x.refuse + 8 * bit x.half + 16 * bit (x.half && x.high)

/-- Put a flit on the lanes: the link fields of this moment, and the one-time bits spent. -/
def State.emit (s : State) (q type vc seq : Nat) (first last : Bool) (body : List Byte) : State :=
  let x := s.port q
  let f := makeFlit type vc seq (s.getF F.VCB_RXSEQ_NEXT_EXP q) x.bsfDue x.nakDue (s.getF F.VCB_FLOW_TX_OFF q) x.flags first last body
  let s := if x.nakDue then s.addF F.VCB_REPLAY_NAKS_SENT q 1 else s
  s.setPort q { x with sent := f, bsfDue := false, nakDue := false, refuse := false }

/-- A VC5 flit that goes while a VC0 or VC1 flit is ready is a variance event (R259). -/
def State.vary5 (s : State) (q : Nat) (f : TxFlit) : State :=
  if f.vc = 5 ∧ ((s.ready q 0).isSome ∨ (s.ready q 1).isSome) then s.varyPort 9 q else s

/-- Send a DATA flit with its number. -/
def State.sendData (s : State) (q : Nat) (f : TxFlit) : State :=
  let s := s.emit q 1 f.vc f.seq f.first f.last f.body
  s.modPort q (fun x =>
    { x with
      store := x.store.map (fun g => if g.seq = f.seq then { g with since := s.now } else g)
      since2 := if f.vc = 2 then 0 else x.since2 + 1
      since5 := if f.vc = 5 then 0 else x.since5 + 1
      last1 := if f.vc ≤ 1 then f.vc else x.last1
      last4 := if f.vc = 3 ∨ f.vc = 4 then f.vc else x.last4 })

/-- A slot without a DATA flit passes for VC2 and VC5. -/
def State.idleSlot (s : State) (q : Nat) : State :=
  (s.emit q 0 0 0 false false []).modPort q (fun x => { x with since2 := x.since2 + 1, since5 := x.since5 + 1 })

/-- The holder of VC `v` of output `q` has sent one more flit. -/
def State.markSent (s : State) (q v : Nat) : State :=
  match s.holder q v with
  | none => s
  | some w =>
    let on := fun (b : Branch) => if b.port = q ∧ b.vc = v then { b with sent := b.sent + 1 } else b
    { s with rq := s.rq.map (fun u => if u.same w then { u with outs := u.outs.map on } else u) }

/-- A beacon's send time is filled in as its first symbol goes (R218): SYNC and DELAY_REQ carry it at bytes 4 to 12 of the body, which
begins at byte `at'`; of DELAY_REQ the port keeps t3. -/
def stampBody (at' ts : Nat) (b : List Byte) : List Byte :=
  if leAt b (at' + 1) 1 % 4 = 2 then b
  else b.take (at' + 4) ++ leBytes 8 (ts / 256) ++ leBytes 1 (ts % 256) ++ b.drop (at' + 13)
def State.keepT3 (s : State) (q at' ts : Nat) (b : List Byte) : State :=
  if leAt b (at' + 1) 1 % 4 = 1 then s.modPort q (fun x => { x with exch := x.exch.map (fun e => (e.1, e.2.1, e.2.2.1, ts)) }) else s

/-- Send a new flit: it takes NEXT_SEND and stays in the replay store. -/
def State.sendNew (s : State) (q phase : Nat) (f : TxFlit) : State :=
  let n := s.getF F.VCB_TXSEQ_NEXT_SEND q
  let ts := s.stampAt phase
  let beacon := f.first && f.ptype == ptBEACON
  let s := s.vary5 q f
  let g := { f with seq := n, body := if beacon then stampBody 18 ts f.body else f.body }
  let s := if beacon then s.keepT3 q 18 ts f.body else s
  let s := (s.markSent q f.vc).modPort q (fun x => { x with store := x.store ++ [g] })
  ((s.setF F.VCB_TXSEQ_NEXT_SEND q ((n + 1) % 2 ^ 24)).sendData q g).passOn

/-- The next flit of a replay in progress. -/
def State.sendReplay (s : State) (q n : Nat) : State :=
  let x := s.port q
  match x.store.find? (fun f => f.seq == n) with
  | none => (s.setPort q { x with replay := none }).idleSlot q
  | some f =>
    let m := (n + 1) % 2 ^ 24
    let s := s.vary5 q f
    (s.modPort q (fun x => { x with replay := if m = s.getF F.VCB_TXSEQ_NEXT_SEND q then none else some m })).sendData q f

/-- A training flit: SEQ is OLDEST, ACK is NEXT_EXP (R262). In TIME it carries a beacon body that waits, or else a training body;
the READY body goes once, and then the port is UP once the partner's has come. -/
def State.sendTraining (s : State) (q phase : Nat) : State :=
  let old := s.getF F.VCB_TXSEQ_OLDEST q
  match s.pstate q, (s.port q).tbeacon with
  | 7, b :: rest =>
    let ts := s.stampAt phase
    ((s.modPort q (fun x => { x with tbeacon := rest })).keepT3 q 0 ts b).emit q 2 0 old false false (stampBody 0 ts b)
  | _, _ =>
    let ready := s.sendStage q == 3
    if ready ∧ (s.port q).saidReady then s.emit q 0 0 0 false false []
    else
      let s := s.emit q 2 0 old false false (s.trainBody q)
      if ready then (s.modPort q (fun x => { x with saidReady := true })).goUp q else s

/-- The going-away body. -/
def State.goneBody (s : State) (reason : Nat) : List Byte := leBytes 1 1 ++ leBytes 1 reason ++ leBytes 3 s.node

/-- FLIT_SLOT (R238, R240, R241, R259, R263): what a port sends at a flit slot, `phase` (1/256 ns) into a tick. In DEGRADE the side
that found the failure marks it on the surviving half. -/
def execFlitSlot (q phase : Nat) (s : State) : Out :=
  if ¬ q < 36 then .fault .noSuchUnit
  else
    let x := s.port q
    let st := s.pstate q
    if (st = 8 ∨ st = 9) ∧ x.going ≠ 0 then .next (s.emit q 3 0 0 false false (s.goneBody x.going))
    else if 5 ≤ st ∧ st ≤ 7 then .next (s.sendTraining q phase)
    else if st = 10 ∧ x.half then .next (s.idleSlot q)
    else if st ≠ 8 ∧ st ≠ 9 then .next s
    else if x.grant then .next ((s.idleSlot q).enterSleep q 11)
    else if x.ask ≠ 0 ∧ ¬ x.asked ∧ x.store = [] then
      .next ((s.modPort q (fun x => { x with asked := true, askAt := s.now })).idleSlot q)
    else
      match x.replay with
      | some n => .next ((s.sendReplay q n).refreshPort q)
      | none =>
        match s.pickFlit q with
        | some f => .next ((s.sendNew q phase f).refreshPort q)
        | none => .next (s.idleSlot q)

/-! ## Timers -/

/-- ACK_TIMEOUT (R252): OLDEST has waited the acknowledgement timeout since it was last sent; in a replay, since that one sent it. -/
def execAckTimeout (q : Nat) (s : State) : Out :=
  if ¬ q < 36 then .fault .noSuchUnit
  else if s.pstate q ≠ 8 ∧ s.pstate q ≠ 9 then .next s
  else match (s.port q).store with
    | [] => .next s
    | f :: _ =>
      if (s.port q).replay.any (seqGe 24 f.seq) ∨ s.now < f.since + s.ackTimeout q then .next s else .next (s.startReplay q f.seq)

/-- NAK_TIMEOUT (R251): the expected flit has not come within the acknowledgement timeout, and NAK goes again. -/
def execNakTimeout (q : Nat) (s : State) : Out :=
  if ¬ q < 36 then .fault .noSuchUnit
  else
    let x := s.port q
    if ¬ x.naking ∨ (s.pstate q ≠ 8 ∧ s.pstate q ≠ 9) ∨ s.now < x.nakAt + s.ackTimeout q then .next s
    else .next (s.setPort q { x with nakDue := true, nakAt := s.now })

/-- BSF_SEND (R255): the next flit the port sends is a buffer-state frame. -/
def execBsfSend (q : Nat) (s : State) : Out :=
  if ¬ q < 36 then .fault .noSuchUnit
  else if s.pstate q = 0 ∨ s.pstate q = 11 ∨ s.pstate q = 13 then .next s
  else .next (s.modPort q (fun x => { x with bsfDue := true }))

/-- CREDIT_TIMEOUT (R255, R234): 16 µs without a buffer-state frame. -/
def execCreditTimeout (q : Nat) (s : State) : Out :=
  if ¬ q < 36 then .fault .noSuchUnit
  else if (s.pstate q ≠ 8 ∧ s.pstate q ≠ 9) ∨ s.now < (s.port q).bsfIn + 16000 then .next s
  else .next (s.train q 8)

/-- HOLD_TIME_EXPIRY (R260, R261): the port hold time ends in DOWN. -/
def execHoldTimeExpiry (q : Nat) (s : State) : Out :=
  if ¬ q < 36 then .fault .noSuchUnit
  else if ¬ s.flag F.VCB_HOLD_HOLDING q ∨ s.pstate q ≠ 1 ∨ s.now < (s.port q).downAt + 1000 * s.getF F.VCB_HOLD_HOLD_US q then .next s
  else .next (s.discardPort q)

/-- How long the oldest planned packet of a partition has waited at a port that is not in UP, if one waits. -/
def State.plannedWait (s : State) (p q : Nat) : Option Nat :=
  if s.pstate q = 8 then none
  else (s.rq.find? (fun w => w.pkt.part == p && (w.openAt q).any (fun b => decide (b.vc ≤ 1)))).map
    (fun w => s.now - max w.since (s.port q).leftUp)

/-- LINK_LOST (R397): the wait of partition `p`'s oldest planned packet at a port not in UP exceeds LINK_LIMIT_US. -/
def execLinkLost (p : Nat) (s : State) : Out :=
  if ¬ p < 16 then .fault .noSuchUnit
  else if (List.range 36).any (fun q => match s.plannedWait p q with
      | some w => decide (1000 * s.getF F.CTL_ABORTCFG_LINK_LIMIT_US 0 < w)
      | none => false) then .next (s.abortStep p 5 0)
  else .next s

end Sys2Proof.Machine
end

