-- ==== Sys2Proof/Machine/Route.lean ====
section
/-! DEFINITION. Routing and fanlights (R266 to R284). -/

namespace Sys2Proof.Machine

/-! ## Route entries (Table 13-1) -/

def eValid (w : Nat) : Bool := bitAt w 63
def eOwner (w : Nat) : Nat := bitsOf w 59 4
def eSet (w : Nat) : Nat := bitsOf w 55 4
def eKey (w : Nat) : Nat := bitsOf w 42 13
def ePlanned (w : Nat) : Nat := bitsOf w 36 6
def eDateline (w : Nat) : Bool := bitAt w 35
def eNcand (w : Nat) : Nat := bitsOf w 32 3
def eCand (w i : Nat) : Nat := bitsOf w (8 + 6 * i) 6
def ePtr (w : Nat) : Nat := w % 4

/-- The table of a name: the written entries by index. -/
def State.table (s : State) (mbr : Bool) : List (Nat × Word64) :=
  tget [] s.regs (if mbr then Reg.RTE_MBR else Reg.RTE_GRP).code

/-- The entry that matches a partition, set and key. -/
def State.findEntry (s : State) (mbr : Bool) (p set key : Nat) : Option (Nat × Nat) :=
  ((s.table mbr).find? (fun e => eValid e.2.toNat && eOwner e.2.toNat == p && eSet e.2.toNat == set && eKey e.2.toNat == key)).map
    (fun e => (e.1, e.2.toNat))

/-- The lookup of a destination (R267): the table and key. -/
def State.tableOf (s : State) (d : Nat) : Bool × Nat := if d / 128 = s.node / 128 then (true, d % 128) else (false, d / 128)

/-- Record a miss (Table 13-6). -/
def State.missRecord (s : State) (k : Packet) : State :=
  let s := s.addF F.RTE_STATUS_MISSES 0 1
  if s.flag F.RTE_MISS_VALID 0 then s.setF F.RTE_MISS_OVERFLOW 0 1
  else s.setFs 0 [(F.RTE_MISS_NODE, if k.fan then 0 else k.dnode), (F.RTE_MISS_PARTITION, k.part),
    (F.RTE_MISS_TREE, if k.fan then k.tree else 0), (F.RTE_MISS_FAN, bit k.fan), (F.RTE_MISS_VC, k.vc), (F.RTE_MISS_VALID, 1)]

/-- A planned or fanlight packet misses: the partition's step aborts (R270, R279). -/
def State.missPlanned (s : State) (k : Packet) : State := (s.missRecord k).abortStep k.part 6 0

/-- A packet looked up: its outputs and whether it is also for the package. -/
structure Routed where
  pkt : Packet
  outs : List Branch
  here : Bool
deriving DecidableEq, Repr

/-- A packet the router discards: the flits that come are dropped. -/
def swallow (k : Packet) : Routed := ⟨k, [], false⟩

/-- A packet for the package (R74, R267): of a DATA or LATCH packet the cores are named now, and one that names none aborts the
step with cause NODE_MAP. -/
def State.local' (s : State) (k : Packet) : State × Routed :=
  if k.lands then
    match s.targets k with
    | some ns => (s, ⟨{ k with dest := ns }, [], true⟩)
    | none => (s.abortStep k.part 7 0, swallow k)
  else (s, ⟨k, [], true⟩)

/-- One output of a packet. -/
def State.oneOut (s : State) (k : Packet) (q v : Nat) : State × Routed :=
  let (s, bs) := s.openBranch k q v
  (s, ⟨k, bs, false⟩)

/-- A port is one of the package's and belongs to partition `p`. -/
def State.ownsPort (s : State) (p q : Nat) : Bool := decide (q < 36) && bitAt (s.getF F.SEC_PPORT_PORTS p) q

/-! ## Adaptive picks (R274) -/

/-- The depth of a candidate port for a VC: the VC3 and VC4 flits that wait for the port. -/
def State.depth (s : State) (q vc : Nat) : Nat :=
  if bitAt (s.getF F.VCB_FLOW_RX_OFF q) vc then 65535
  else (s.rq.map (fun w => ((w.openAt q).filter (fun b => b.vc == 3 || b.vc == 4)).map (fun b => w.flits.length - b.sent) |>.sum)).sum

/-- The index picked among remaining candidates (index, port), and whether it broke a tie. -/
def State.pick (s : State) (vc ptr : Nat) (cs : List (Nat × Nat)) : Option (Nat × Bool) :=
  let ds := cs.map (fun c => (c.1, s.depth c.2 vc))
  match ds.map (·.2) |>.min? with
  | none => none
  | some m =>
    let best := (ds.filter (fun d => d.2 == m)).map (·.1)
    let i := match best.find? (fun i => decide (ptr ≤ i)) with
      | some i => some i
      | none => best.head?
    i.map (fun i => (i, decide (2 ≤ best.length)))

/-- An unplanned packet leaves by one of the candidates of its base entry that its partition owns (R269); with none of them the
entry is no route for it (DESIGN CHOICE, log entry 70). -/
def State.adaptive (s : State) (k : Packet) (mbr : Bool) (i w : Nat) : State × Routed :=
  let all := ((List.range (eNcand w)).map (fun j => (j, eCand w j))).filter (fun c => s.ownsPort k.part c.2)
  let cs := all.filter (fun c => s.pstate c.2 == 8)
  match s.pick k.vc (ePtr w) cs, all with
  | some (j, tie), _ =>
    let s := if 2 ≤ cs.length then (s.vary 0x0B k.part).addF F.RTE_ADAPT_PICKS 0 1 else s
    let s := if tie then s.wrReg (if mbr then .RTE_MBR else .RTE_GRP) i (setBits w 0 2 ((j + 1) % 4)) else s
    s.oneOut k (eCand w j) k.vc
  | none, c :: _ => s.oneOut k c.2 k.vc
  | none, [] => (s.missRecord k, swallow k)

/-! ## Fanlights (R278 to R281) -/

/-- The entry of a tree serves a packet's partition. -/
def State.fanOk (s : State) (k : Packet) : Bool := s.flag F.FAN_CFG_VALID k.tree && s.getF F.FAN_CFG_OWNER k.tree == k.part

/-- One copy leaves by a port of the tree that the packet's partition owns (R269); a VC0 copy on a dateline leaves on VC1. -/
def State.copyTo (s : State) (k : Packet) (q : Nat) : State × List Branch :=
  if ¬ s.ownsPort k.part q then (s, [])
  else
    let vc := if k.vc = 0 ∧ bitAt (s.getF F.FAN_DL_DLMASK k.tree) q then 1 else k.vc
    (s.addF F.FAN_STATUS_COPIES 0 1).openBranch k q vc

/-- The copies of a packet on its tree ports. -/
def State.copies (s : State) (k : Packet) : List Nat → State × List Branch
  | [] => (s, [])
  | q :: t =>
    let (s, a) := s.copyTo k q
    let (s, b) := s.copies k t
    (s, a ++ b)

/-- The port a packet came in on, when it did. -/
def Packet.cameBy (k : Packet) (q : Nat) : Bool := k.src == .port q

/-- A packet entered from a port. -/
def Packet.fromPort (k : Packet) : Bool :=
  match k.src with
  | .port _ => true
  | _ => false

/-- A fanlight packet: an ARRIVE token goes to the parent port, which its partition must own (R269; else it misses, DESIGN CHOICE, log
entry 70), or, from a child, to the threshold unit; every other packet is copied to each tree port but its own and delivered on the package. -/
def State.fanout (s : State) (k : Packet) : State × Routed :=
  if ¬ s.fanOk k then (s.missPlanned k, swallow k)
  else if k.ptype = ptTOKEN ∧ tkKind k.body = 1 then
    if k.fromPort ∨ s.isRoot k.tree then (s, ⟨k, [], true⟩)
    else if ¬ s.ownsPort k.part (s.treeParent k.tree) then (s.missPlanned k, swallow k)
    else s.oneOut k (s.treeParent k.tree) k.vc
  else
    let (s, bs) := s.copies k ((s.treePorts k.tree).filter (fun q => !k.cameBy q))
    let ns := (s.targets k).getD []
    if k.lands then (s, ⟨{ k with dest := ns }, bs, !ns.isEmpty⟩) else (s, ⟨k, bs, k.fromPort⟩)

/-- The lookup of a head flit (R266 to R281): a packet of a partition in its quiet period is discarded (R399); a planned packet
whose entry names a port that its partition does not own misses (R269; DESIGN CHOICE, log entry 70). -/
def State.route (s : State) (k : Packet) : State × Routed :=
  if (s.part k.part).quieting && k.quiet then (s, swallow k)
  else if k.fan then s.fanout k
  else if k.dnode = s.node then s.local' k
  else
    let (mbr, key) := s.tableOf k.dnode
    if k.vc ≤ 2 then
      let set := s.getF F.RTE_PSET_SET k.part
      match if set = 0 then none else s.findEntry mbr k.part set key with
      | none => (s.missPlanned k, swallow k)
      | some (_, w) =>
        if ¬ s.ownsPort k.part (ePlanned w) then (s.missPlanned k, swallow k)
        else s.oneOut k (ePlanned w) (if k.vc = 0 ∧ eDateline w then 1 else k.vc)
    else
      match s.findEntry mbr k.part 0 key with
      | none => (s.missRecord k, swallow k)
      | some (i, w) => s.adaptive k mbr i w

/-- The outputs of a packet at the ports of jamb `j`. -/
def Routed.outsAt (r : Routed) (j : Nat) : List Branch := r.outs.filter (fun b => b.port / 18 == j)

/-- What the lookup makes of head `h` in jamb cycle `cycle` (R266, R278). A packet from a port takes its outputs at its own jamb, and
the hinge output when it goes to a leaf or to the other jamb, whose router then has it by the hinge; a packet of a core or unit goes
straight to the jamb, or to both jambs, of its output ports. -/
def Routed.worms (r : Routed) (h : Worm) (cycle now : Nat) : List Worm :=
  let w := { h with pkt := r.pkt, seen := true, here := r.here, since := now, cycle := cycle }
  if h.input = 0 then
    let j := if r.outsAt 0 = [] then 1 else 0
    let far := r.outsAt (1 - j)
    { w with outs := r.outsAt j, jamb := j } ::
      (if far = [] then [] else [{ w with outs := far, here := false, jamb := 1 - j }])
  else
    let j := h.jamb
    let far := r.outsAt (1 - j)
    let out := if far = [] ∧ ¬ r.here then [] else [(⟨36 + j, h.pkt.vc, 0, 0⟩ : Branch)]
    { w with outs := r.outsAt j ++ out } ::
      (if far = [] then []
       else [{ w with flits := [], freed := 0, outs := far, here := false, cycle := 0, jamb := 1 - j, hinge := true,
                      feed := some (cycle, h.input) }])

/-- Look up the packet of head `h`: it stands in the jamb cycle `cycle` with the outputs found, the discarded ones dropped. -/
def State.lookup (s : State) (cycle : Nat) (h : Worm) : State :=
  let (s, r) := s.route h.pkt
  { s with rq := s.rq.flatMap (fun u => if u.same h ∧ ¬ u.seen then r.worms u cycle s.now else [u]) }

/-- The first `n` heads not yet looked up, one of each input: those that came in one jamb cycle (R272). -/
def sameCycle : List Worm → Nat → List Nat → List Worm
  | [], _, _ => []
  | _, 0, _ => []
  | w :: t, n + 1, ins =>
    if w.seen ∨ ins.contains w.input then sameCycle t (if w.seen then n + 1 else n) ins
    else w :: sameCycle t n (w.input :: ins)

/-- The same-cycle ties at outputs, the hinge outputs among them (R266, R272): each planned packet counts one for every output that a
packet of its cycle takes first. -/
def State.countTies (s : State) (cycle : Nat) : State :=
  let ws := s.rq.filter (fun w => w.cycle == cycle && w.seen)
  let ties := ws.flatMap (fun w => (w.outs.filter (fun b => decide (b.vc ≤ 2) &&
    ws.any (fun u => u.outs.any (fun c => c.port == b.port && c.vc == b.vc) && u.before w))).map (fun _ => w.pkt.part))
  ties.foldl (fun s p => s.vary 0x0A p) s

/-- ROUTE_LOOKUP (R266 to R281): the oldest head flit not yet looked up, and the next `ties` that came with it in its jamb cycle on
other inputs, are looked up and their packets passed on or delivered. -/
def execRouteLookup (ties : Nat) (s : State) : Out :=
  match sameCycle s.rq (ties + 1) [] with
  | [] => .next s
  | w :: t => .next (((w :: t).foldl (fun s h => s.lookup w.cycle h) s).countTies w.cycle).passOn

/-! ## Writes of the tables (R268, R282, R284) -/

/-- An entry keeps every rule of Table 13-1, names no port its owner lacks, and, being valid, is the only one of its OWNER, SET and
KEY. -/
def State.entryOk (s : State) (mbr : Bool) (i w : Nat) : Bool :=
  let p := eOwner w
  (!mbr || eKey w / 128 == 0) &&
  (if eSet w = 0 then
    ePlanned w == 63 && !eDateline w && decide (1 ≤ eNcand w) && decide (eNcand w ≤ 4) &&
    (List.range 4).all (fun j => if j < eNcand w then s.ownsPort p (eCand w j) else eCand w j == 0)
  else eNcand w == 0 && s.ownsPort p (ePlanned w) && (List.range 4).all (fun j => eCand w j == 0)) &&
  !(eValid w && (s.table mbr).any (fun e => e.1 != i && eValid e.2.toNat && eOwner e.2.toNat == p && eSet e.2.toNat == eSet w &&
    eKey e.2.toNat == eKey w))

/-- An entry is a base entry, or a plan entry of the active set, of a partition in a step (R268, R282). -/
def State.entryLive (s : State) (w : Nat) : Bool :=
  eValid w && (eSet w == 0 || eSet w == s.getF F.RTE_PSET_SET (eOwner w)) && (s.part (eOwner w)).running

/-- A write of a route entry; PTR is kept. -/
def State.writeEntry (s : State) (mbr : Bool) (i v : Nat) : State :=
  let r : Reg := if mbr then .RTE_MBR else .RTE_GRP
  let old := s.rdReg r i
  let w := setBits v 0 8 (old % 4)
  if ¬ s.entryOk mbr i w ∨ s.entryLive old ∨ s.entryLive w then s.setF F.RTE_STATUS_REJECT 0 1
  else s.wrReg r i w

/-- RTE_ENTRY_WRITE (R268, R282): a write of entry `i` of the member table or the group table. -/
def execRteEntryWrite (mbr : Bool) (i : Nat) (v : Word64) (s : State) : Out :=
  if ¬ i < (if mbr then 128 else 4096) then .fault .noSuchUnit else .next (s.writeEntry mbr i v.toNat)

/-- The partition is in a step whose plan uses tree `t`. -/
def State.treeInUse (s : State) (p t : Nat) : Bool := (s.part p).running && (s.runPlan p).trees.any (fun x => x.2 == t)

/-- A whole fanlight entry keeps the rules of R284. -/
def State.fanEntryOk (s : State) (cfg dl : Nat) : Bool :=
  let p := bitsOf cfg 59 4
  let ports := bitsOf cfg 0 36
  let parent := bitsOf cfg 53 6
  (onesOf ports 36).all (s.ownsPort p) && (onesOf dl 36).all (s.ownsPort p) && (onesOf dl 36).all (bitAt ports) &&
  (parent == 63 || (s.ownsPort p parent && bitAt ports parent)) && !(bitAt cfg 63 && bitsOf cfg 49 4 == 0)

/-- Core mask bits of cores the owner has. -/
def State.coreMask (s : State) (p j v : Nat) : Nat :=
  (List.range 64).foldl (fun a i => setBits a i 1 (bit (bitAt v i && s.paneOwned p (64 * j + i) && !s.fusedOff (64 * j + i)))) 0

/-- A write of word `w` of the entry of tree `t`: 0 FAN_CFG, 1 FAN_DL, 2 to 5 FAN_CMASK. -/
def State.writeFan (s : State) (t w v : Nat) : State :=
  let cfg := s.rdReg .FAN_CFG t
  let cfg' := if w = 0 then setBits v 36 13 0 else cfg
  let dl := if w = 1 then v % 2 ^ 36 else s.rdReg .FAN_DL t
  if s.treeInUse (bitsOf cfg 59 4) t ∨ ¬ s.fanEntryOk cfg' dl then
    s.setF F.RTE_STATUS_FAN_REJECT 0 1
  else match w with
    | 0 => s.wrReg .FAN_CFG t cfg'
    | 1 => s.wrReg .FAN_DL t dl
    | _ => s.wrReg .FAN_CMASK (t * 4 + (w - 2)) (s.coreMask (bitsOf cfg 59 4) (w - 2) v)

/-- FAN_ENTRY_WRITE (R284). -/
def execFanEntryWrite (t w : Nat) (v : Word64) (s : State) : Out :=
  if ¬ (t < 4096 ∧ w < 6) then .fault .noSuchUnit else .next (s.writeFan t w v.toNat)

/-- RTE_PSET_WRITE (R282): the active plan set of a partition; ignored while it runs a step. -/
def execRtePsetWrite (p : Nat) (v : Word64) (s : State) : Out :=
  if ¬ p < 16 then .fault .noSuchUnit
  else if (s.part p).running then .next s
  else .next (s.setF F.RTE_PSET_SET p (bitsOf v.toNat 0 4))

end Sys2Proof.Machine
end

