-- ==== Sys2Proof/Machine/Faults.lean ====
section
/-! DEFINITION. Faults and recovery (R392 to R409): ABORT reception, the quiet period, replay and the lockstep pair. -/

namespace Sys2Proof.Machine

/-! ## ABORT reception (R398) -/

/-- The partition whose start context an ABORT body names by TREE and CTX. -/
def State.abortTarget (s : State) (b : List Byte) : Option Nat :=
  let c := leAt b 6 1 % 32
  let p := s.getF F.LATCH_SCTX_OWNER c
  if s.startCtx p = some c ∧ s.getF F.LATCH_SCTX_TREE c = leAt b 4 2 % 4096 then some p else none

/-- A reserved bit of an ABORT body is set (Table 21-2). -/
def abortRsv (b : List Byte) : Bool :=
  leAt b 3 1 != 0 || leAt b 4 2 / 4096 != 0 || leAt b 6 1 / 32 != 0 || leAt b 7 1 != 0 || leAt b 24 3 / 2 ^ 20 != 0 ||
  leAt b 27 1 != 0

/-- The current step of a partition has the number an ABORT names. -/
def State.namesCurrent (s : State) (p no : Nat) : Bool := (s.part p).started && (s.part p).stepNo % 2 ^ 32 == no

/-- The most recently ended step has it. -/
def State.namesEnded (s : State) (p no : Nat) : Bool := (s.part p).prevNo.map (· % 2 ^ 32) == some no

/-- The partition whose step a received ABORT concerns, when it passes every check of R398. -/
def State.abortFor (s : State) (k : Packet) : Option Nat :=
  let b := k.body
  if leAt b 0 1 ≠ 1 ∨ abortRsv b then none
  else match s.abortTarget b with
    | none => none
    | some p =>
      let no := leAt b 28 4
      if leAt b 8 8 = s.getF F.CTL_PCDIG_DIGEST p ∧ (s.namesCurrent p no ∨ s.namesEnded p no) then some p else none

/-- The aborted step is issued again: it stands first in the queue of steps, with the values its node kept (R394). -/
def State.issueAgain (s : State) (p attempt : Nat) : State :=
  let x := s.part p
  { s with steps := ⟨p, x.plan, x.tag, x.payload, attempt, true, x.cq⟩ :: s.steps }

/-- ABORT_RECEIVE (R398, R399): the first ABORT packet delivered on the package is counted; one that passes the checks
asks for a replay of the step aborted last, aborts the current step, names the step ended last (LATE, from stage 3 on), or finds its
step aborted. -/
def execAbortReceive (s : State) : Out :=
  match takeFirst (fun k => k.ptype == ptABORT) s.inbox with
  | none => .next s
  | some (k, rest) =>
    let s : State := { s with inbox := rest }
    let b := k.body
    let cause := leAt b 1 1
    let detail := leAt b 2 1
    match s.abortFor k with
    | none => .next (s.addF F.CTL_ABORT_COUNT ((s.abortTarget b).getD k.part) 1)
    | some p =>
      let s := s.addF F.CTL_ABORT_COUNT p 1
      let x := s.part p
      if cause = 0x0E then
        .next (if x.aborted ∨ (¬ x.started ∧ x.prevAborted) then s.issueAgain p (detail % 4) else s)
      else if s.namesCurrent p (leAt b 28 4) then
        if x.aborted then .next s else
        let s := s.recordAbort p (leAt b 24 3 % 2 ^ 20) cause detail
        let s := s.abortApply p (cause * 256 + detail)
        .next (s.logEvent 2 0x0100 p [s.rdReg .CTL_ABORT p, x.stepNo])
      else if x.prevAborted then .next s
      else .next (s.lateAbort p)

/-! ## The quiet period (R399, Table 21-4) -/

/-- The ports that carry planned routes of a partition. -/
def State.planPorts (s : State) (p : Nat) : List Nat :=
  ((s.table false ++ s.table true).filter (fun e =>
    eValid e.2.toNat && eOwner e.2.toNat == p && eSet e.2.toNat != 0)).map (fun e => ePlanned e.2.toNat)

/-- A port keeps the quiet period open: it is HOLDING, or trains (DETECT to TIME). -/
def State.portQuiets (s : State) (q : Nat) : Bool :=
  s.flag F.VCB_HOLD_HOLDING q || (decide (2 ≤ s.pstate q) && decide (s.pstate q ≤ 7))

/-- Stage 4: every latch of the bound cores, and LATCH_OVF, is 0. -/
def State.wipeLatches (s : State) (ns : List Nat) : State :=
  ns.foldl (fun s n => (s.clearLatches n (2 ^ 48 - 1)).setF F.LATCH_OVF_OVF n 0) s

/-- The quiet period of partition `p` is over (R399); the stopped lockstep pair ends none (R406). -/
def State.quietOver (s : State) (p : Nat) : Bool :=
  (s.part p).quieting && !s.pairStopped && decide ((s.part p).quietAt + 1000 * s.getF F.CTL_ABORTCFG_QUIET_US 0 ≤ s.now) && !(s.planPorts p).any s.portQuiets

/-- The quiet period ends (R399, R400): the latches clear, the STEP_DONE of the aborted attempt is posted, with REPLAYING when this
node restores a replay-class item (`replay`, R394), and the partition is ready. A step that is not replayed has ended: the next one
is a first attempt (R435). The quiet period of a step that had ended, with its STEP_DONE posted, leaves the next one alone (R398). -/
def State.endQuiet (s : State) (p : Nat) (replay : Bool) : State :=
  let x := s.part p
  let again := replay && x.pendDone && decide (x.attempt < 3)
  let s := (((s.purge p).passOn).wipeLatches (s.members p)).setF F.CTL_ABORT_QUIET p 0
  if ¬ x.aborted then s.modPart p (fun x => { x with late := false })
  else
    let s := if x.pendDone then s.stepDone p x.status again else s
    s.modPart p (fun x =>
      { x with
        aborted := false, late := false, started := false, running := false, lastFailed := true, replaying := again
        attempt := if x.pendDone ∧ ¬ again then 0 else x.attempt
        prevNo := if x.pendDone then some x.stepNo else x.prevNo, endAt := if x.pendDone then s.now else x.endAt
        prevAborted := true, pendDone := false })

/-- STEP_REPLAY (R392, R394): the replay-class item is restored (no segment of the plan's records still has to be read again); an
ABORT with cause REPLAY goes out over the start context's tree and the step is issued again here. -/
def execStepReplay (p : Nat) (s : State) : Out :=
  if ¬ p < 16 then .fault .noSuchUnit
  else
    let x := s.part p
    if ¬ x.replaying ∨ x.quieting ∨ (s.plan x.plan).weights.any (fun w => w.redo != []) then .next s
    else
      let n := x.attempt + 1
      let s := s.sendAbort p 0x0E n
      let s := s.logEvent 1 0x0101 p [x.stepNo, n]
      .next ((s.issueAgain p n).modPart p (fun x => { x with replaying := false }))

/-! ## The lockstep pair (R404 to R407) -/

/-- LOCKSTEP_UNVERIFIED is raised (R406). -/
def State.unverify (s : State) : State :=
  let s := { s with pairDown := true }.setF F.CTL_LOCKSTEP_UNVERIFIED 0 1
  s.logEvent 3 0x0103 255 [s.rdReg .CTL_LOCKSTEP 0, s.rdReg .CTL_LSTEST 0]

/-- LOCKSTEP_TEST (R405): one self-test of the comparator; `ok`: both rails reported it. -/
def execLockstepTest (ok : Bool) (s : State) : Out :=
  let s := s.addF F.CTL_LSTEST_TESTS 0 1
  if ok then .next s else .next ((s.setF F.CTL_LSTEST_COMP_FAIL 0 1).unverify)

/-- LOCKSTEP_MISMATCH (R405, R406): a real mismatch, or (`parity`) a parity error on a delay register. -/
def execLockstepMismatch (parity : Bool) (s : State) : Out :=
  if parity then .next ((s.setF F.CTL_LOCKSTEP_DELAY_PARITY 0 1).unverify)
  else
    let s := { s with pairDown := true }.setF F.CTL_LOCKSTEP_MISMATCH 0 1
    .next (s.logEvent 3 0x0102 255 [s.rdReg .CTL_LOCKSTEP 0])

end Sys2Proof.Machine
end

