-- ==== Sys2Proof/Machine/Control.lean ====
section
/-! DEFINITION. Control messages (R367, R368): what every control operation shares, and the operations that answer from
the package's own bookkeeping. -/

namespace Sys2Proof.Machine

/-! ## The wrapper (Tables 19-3 and 19-4) -/

def resOK : Nat := 0
def resVERSION : Nat := 1
def resOP : Nat := 2
def resRANGE : Nat := 3
def resBUSY : Nat := 4
def resTAMPERED : Nat := 5
def resRESIDENT : Nat := 6
def resFAILED : Nat := 7

/-- What an operation answers: RESULT, HANDLE and ARGS. -/
structure Answer where
  result : Nat
  handle : Nat
  args : List Byte
deriving DecidableEq, Repr

/-- An answer that keeps HANDLE and has no ARGS. -/
def Ctl.answer (h : Ctl) (result : Nat) : Answer := ⟨result, h.handle, []⟩

/-- The reply's bytes: TAG and OP are echoed. -/
def Ctl.replyBytes (h : Ctl) (op : Nat) (a : Answer) : List Byte :=
  leBytes 1 1 ++ leBytes 1 op ++ leBytes 1 a.result ++ leBytes 1 0 ++ leBytes 4 a.handle ++ leBytes 8 h.tag ++
  leBytes 6 h.addr ++ leBytes 2 0 ++ leBytes 4 h.len ++ padTo 36 a.args

/-- Post the reply of an operation on the CTRL_CQ paired with the CTRL_SQ it came on (R367). -/
def State.answer (s : State) (op : Nat) (h : Ctl) (a : Answer) : State :=
  s.reply h.fn (some (s.ring h.sq).pair) (h.replyBytes op a)

/-- Ranuat takes the entry of the CTRL_SQ the message stands on, when one waits, and writes HEAD (R366). -/
def State.takeEntry (s : State) (h : Ctl) : State :=
  let r := s.ring h.sq
  if r.role ≠ 1 ∨ r.fn ≠ h.fn ∨ r.head = r.tail then s
  else
    let hd := (r.head + 1) % 2 ^ 32
    (s.setRing h.sq { r with head := hd }).ringWrite { r with head := hd } 0 (leBytes 4 hd)

/-- The functions an operation allows (Table 19-4). -/
inductive Fns where
  | pf
  | vf
  | both
deriving DecidableEq, Repr

def Fns.allows (f : Fns) (fn : Nat) : Bool :=
  match f with
  | .pf => fn == 0
  | .vf => fn != 0
  | .both => true

/-- What stops an operation before it acts: BUSY while the pair is stopped (R406), VERSION, OP for one that is not listed or not
allowed on the function (R368), OP_FAILED in vestibule mode (R388), TAMPERED for one that changes tenant state (R360, R368). -/
def State.controlStop (s : State) (op : Nat) (h : Ctl) (fns : Fns) (tenant vestibule : Bool) : Nat :=
  if s.pairStopped then resBUSY
  else if h.version ≠ 1 then resVERSION
  else if h.op ≠ op ∨ ¬ fns.allows h.fn then resOP
  else if s.flag F.BOOT_STATUS_VESTIBULE 0 ∧ ¬ vestibule then resFAILED
  else if tenant ∧ s.flag F.SEC_STATUS_TAMPERED 0 then resTAMPERED
  else 0

/-- Ranuat handles one control message: its entry is taken, and it is answered by its stop, or `f` acts and answers
(`none`: the reply comes later). Nothing answers before Ranuat is ready. -/
def State.control (s : State) (op : Nat) (h : Ctl) (fns : Fns) (tenant vestibule : Bool)
    (f : State → State × Option Answer) : Out :=
  if ¬ h.fn ≤ 16 then .fault .noSuchUnit
  else if ¬ s.flag F.CTL_STATUS_READY 0 then .next s
  else
    let s := s.takeEntry h
    let c := s.controlStop op h fns tenant vestibule
    if c ≠ 0 then .next (s.answer h.op h (h.answer c))
    else
      match f s with
      | (s, some a) => .next (s.answer op h a)
      | (s, none) => .next s

/-- The partition of a function. -/
def Ctl.part (h : Ctl) : Nat := h.fn - 1

/-! ## Payloads (R367) -/

/-- `n` bytes at `a` of the PF ring area. -/
def State.sramBytes (s : State) (a : Nat) : Nat → List Byte
  | 0 => []
  | n + 1 => tget 0 s.sram a :: s.sramBytes (a + 1) n

/-- A range lies in the function's ring slice or in a region of a plan of its partition; for the PF, in its ring area. -/
def State.payloadIn (s : State) (fn a n : Nat) : Bool :=
  if fn = 0 then decide (a + n ≤ pfArea)
  else
    let p := fn - 1
    let sl := s.slice p
    (decide (sl.1 ≤ a) && decide (a + n ≤ sl.1 + sl.2)) ||
    (s.plansOf p).any (fun k => (s.plan k).regions.any (fun r => decide (r.base ≤ a) && decide (a + n ≤ r.base + r.size)))

/-- The payload of a message: ARGS up to 36 bytes, else the bytes at ADDR. -/
def State.payload (s : State) (h : Ctl) : State × Option (List Byte) :=
  if h.len ≤ 36 then (s, some (padTo h.len h.args))
  else if ¬ s.payloadIn h.fn h.addr h.len then (s, none)
  else if h.fn = 0 then (s, some (s.sramBytes h.addr h.len))
  else match (s.markAt h.addr).read h.addr h.len [] with
    | (s, .ok bs) => (s, some bs)
    | (s, .refused _) => (s, none)

/-- Write an operation's record to ADDR; false when ADDR does not allow it. -/
def State.putRecord (s : State) (h : Ctl) (bs : List Byte) : State × Bool :=
  if ¬ s.payloadIn h.fn h.addr bs.length then (s, false)
  else if h.fn = 0 then (s.setSram h.addr bs, true)
  else match (s.markAt h.addr).write h.addr [] bs with
    | (s, .ok _) => (s, true)
    | (s, .refused _) => (s, false)

/-- The plan a message names, when it is resident in the function's partition. -/
def State.handlePlan (s : State) (h : Ctl) : Option Plan :=
  let q := s.plan h.handle
  if h.handle ≠ 0 ∧ (s.plansOf h.part).contains h.handle then some q else none

/-! ## PARTITION_INFO (R344) -/

/-- Cores of the partition's panes that are not fused off. -/
def State.partCores (s : State) (p : Nat) : List Nat :=
  (List.range 256).filter (fun n => s.paneOwned p n && !s.fusedOff n)

/-- Cores bound to a resident plan that is not evicted. -/
def State.boundCores (s : State) (p : Nat) : List Nat :=
  (s.plansOf p).flatMap (fun k => if (s.plan k).evicted then [] else (s.plan k).cores)

/-- Eligible cores, ascending (R156). -/
def State.eligible (s : State) (p : Nat) : List Nat :=
  (s.partCores p).filter (fun n => !(s.boundCores p).contains n)

/-- The share of a partition: eligible cores, HBM block without the slice, cellar block, ports, DMA channels, rings, and the
free on-chip contexts, system contexts, tree IDs and routing entries. The record's layout is the model's: the spec lists
what it holds. -/
def State.shareRecord (s : State) (p : Nat) : List Byte :=
  let hb := (s.hbmBlock p).getD (0, 0)
  let cb := (s.cellarBlock p).getD (0, 0)
  leBytes 2 (s.eligible p).length ++ leBytes 8 hb.1 ++ leBytes 8 (hb.2 - (s.slice p).2) ++ leBytes 8 cb.1 ++ leBytes 8 cb.2 ++
  leBytes 8 (s.getF F.SEC_PPORT_PORTS p) ++
  leBytes 1 ((List.range 64).filter (fun i => s.getF F.DMA_CHCFG_OWNER i == p)).length ++
  leBytes 4 (s.getF F.SEC_PRING_COUNT p) ++
  leBytes 1 ((List.range 8).filter (fun c => !s.flag F.LATCH_TCTX_EN c)).length ++
  leBytes 1 ((List.range 32).filter (fun c => !s.flag F.LATCH_SCTX_EN c)).length ++
  leBytes 2 ((List.range 4096).filter (fun t => !s.flag F.FAN_CFG_VALID t)).length ++
  leBytes 2 (4096 - ((s.table false).filter (fun e => eValid e.2.toNat)).length) ++
  leBytes 1 (128 - ((s.table true).filter (fun e => eValid e.2.toNat)).length)

/-- PARTITION_INFO (R344, Table 19-4): the record of the partition goes to ADDR; the PF names it in ARGS byte 28. -/
def execPartitionInfo (h : Ctl) (s : State) : Out :=
  s.control 4 h .both false true fun s =>
    let p := if h.fn = 0 then leAt h.args 0 1 % 16 else h.part
    match s.putRecord h (s.shareRecord p) with
    | (s, true) => (s, some (h.answer resOK))
    | (s, false) => (s, some (h.answer resRANGE))

/-! ## PEEP_ENABLE (R372) -/

/-- PEEP_ENABLE (R372): bits `mask` of the enable mask of peephole `id` are set or cleared. A VF changes only its own
partition's bit, and no ID of Ranuat's own; the PF other bits only at debug level 1 or above. -/
def execPeepEnable (h : Ctl) (id mask : Nat) (on : Bool) (s : State) : Out :=
  s.control 0x0D h .both true false fun s =>
    let ok := if h.fn = 0 then decide (1 ≤ s.getF F.SEC_DEBUG_LEVEL 0) else mask == 2 ^ h.part && decide (id < 768)
    if ¬ (id < 1024 ∧ mask < 65536 ∧ ok) then (s, some (h.answer resRANGE))
    else
      let old := s.getF (peepFld id) (id / 4)
      let new := if on then old ||| mask else old &&& (65535 - mask)
      (s.setF (peepFld id) (id / 4) new, some (h.answer resOK))

/-! ## RING_SETUP (R365) -/

/-- Entry bytes of a role (Table 19-2). -/
def roleBytes (role : Nat) : Nat := if role = 4 then 32 else 64

/-- A ring number lies in a function's range: rings 0 to 15 the PF's, SEC_PRINGp those of a partition that is not FREE (R341). -/
def State.ringRange (s : State) (fn k : Nat) : Bool :=
  if fn = 0 then decide (k < 16)
  else
    let b := s.getF F.SEC_PRING_BASE (fn - 1)
    s.getF F.SEC_PCTL_STATE (fn - 1) != 0 && decide (16 ≤ k) && decide (k < 65536) && decide (b ≤ k) && decide (k < b + s.getF F.SEC_PRING_COUNT (fn - 1))

/-- Bytes a ring takes. -/
def Ring.size (r : Ring) : Nat := 64 + 2 ^ r.log2n * r.ent

/-- The area of a function's rings. -/
def State.ringArea (s : State) (fn : Nat) : Nat := if fn = 0 then pfArea else (s.slice (fn - 1)).2

/-- A ring of the function fits: role, alignment, size, its area, and no overlap with its other rings. -/
def State.ringFits (s : State) (fn k : Nat) (r : Ring) : Bool :=
  decide (1 ≤ r.role) && decide (r.role ≤ 6) && (r.role != 5 || fn == 0) && decide (4 ≤ r.log2n) && decide (r.log2n ≤ 16) &&
  r.off % 4096 == 0 && decide (r.off + r.size ≤ s.ringArea fn) && decide (r.vector < 2048) &&
  s.rings.all (fun e => e.1 == k || e.2.fn != fn || e.2.plan != 0 ||
    decide (e.2.off + e.2.size ≤ r.off) || decide (r.off + r.size ≤ e.2.off))

/-- The record of a ring as RING_SETUP gives it. -/
def RingSpec.ring (x : RingSpec) (fn : Nat) : Ring := ⟨x.role, fn, x.off, x.log2n, x.vector, roleBytes x.role, 0, 0, 0, 0, x.pair⟩

/-- Set rings up in order; false at the first that lies outside the range or does not fit its area. -/
def State.setRings (s : State) (fn : Nat) : List RingSpec → State × Bool
  | [] => (s, true)
  | x :: t =>
    if ¬ (s.ringRange fn x.k ∧ (s.ring x.k).plan = 0 ∧ s.ringFits fn x.k (x.ring fn)) then (s, false)
    else ((s.setRing x.k (x.ring fn)).ringWrite (x.ring fn) 0 (List.replicate 64 0)).setRings fn t

/-- RING_SETUP (R365, R367): Ranuat records role, LOG2N, offset, vector and pairing of rings of the function's range; their HEAD and
TAIL start at 0. When one would not fit its area, or lies outside the range, all are refused with RANGE. -/
def execRingSetup (h : Ctl) (xs : List RingSpec) (s : State) : Out :=
  s.control 0x0E h .both true true fun s =>
    match s.setRings h.fn xs with
    | (t, true) => (t, some (h.answer resOK))
    | (_, false) => (s, some (h.answer resRANGE))

/-! ## PIN and LOG_FLUSH (R371, R373) -/

/-- The panes of a partition keep the frequencies they hold: no request of theirs waits any more (R371). -/
def State.keepPanes (s : State) (p : Nat) : State :=
  (onesOf (s.getF F.SEC_PPANE_PANES p) 32).foldl (fun (s : State) q =>
    if s.flag F.PANE_FREQ_EMERG q then s else (s.setF F.PANE_FREQ_REQ q (s.getF F.PANE_FREQ_CUR q)).unpend q) s

/-- PIN (R371): pinned mode of a partition on, with the pane frequencies it holds, or off; the PF names the partition. -/
def execPin (h : Ctl) (part : Nat) (on : Bool) (s : State) : Out :=
  s.control 0x0F h .both true false fun s =>
    let p := if h.fn = 0 then part else h.part
    if ¬ p < 16 then (s, some (h.answer resRANGE))
    else
      let old := s.getF F.CTL_PIN_PINNED 0
      ((if on then s.keepPanes p else s).setF F.CTL_PIN_PINNED 0 (setBits old p 1 (bit on)), some (h.answer resOK))

/-- LOG_FLUSH (R373): the log buffer is copied to the LOG ring at once. -/
def execLogFlush (h : Ctl) (s : State) : Out :=
  s.control 0x13 h .pf false true fun s => (s.logCopy, some (h.answer resOK))

end Sys2Proof.Machine
end

