-- ==== Sys2Proof/Machine/PlanImage.lean ====
section
/-! DEFINITION. The checks a plan image meets before any placement: checks 2 to 9 of R436. -/

namespace Sys2Proof.Machine

/-! ## The header (Table 7-1) -/

/-- A little-endian header field. -/
def Image.h (g : Image) (lo n : Nat) : Nat := leAt g.signed lo n

def Image.flags (g : Image) : Nat := g.h 5 1
def Image.n (g : Image) : Nat := g.h 8 4
def Image.nodes (g : Image) : Nat := g.h 12 4
def Image.canonical (g : Image) : Bool := bitAt g.flags 0
def Image.swappable (g : Image) : Bool := bitAt g.flags 1
def Image.paneAlign (g : Image) : Bool := bitAt g.flags 2

/-- A load's result: the code of Table 7-5 with node index, logical core and command index. -/
structure LoadRes where
  code : Nat
  node : Nat
  core : Nat
  cmd : Nat
deriving DecidableEq, Repr

def ldOK : Nat := 0
def ldSIG_BAD : Nat := 1
def ldVERSION : Nat := 2
def ldFEATURE : Nat := 3
def ldSECTION : Nat := 4
def ldHEADER : Nat := 5
def ldTOO_SMALL : Nat := 6
def ldRESOURCE : Nat := 7
def ldMEMORY : Nat := 8
def ldCOMMAND : Nat := 9
def ldRELOC : Nat := 10
def ldPARAMS : Nat := 11
def ldNODE_MAP : Nat := 12
def ldPARTITION : Nat := 13
def ldNO_ROOM : Nat := 14

/-- The first result that is not 0. -/
def firstRes : List LoadRes → LoadRes
  | [] => ⟨0, 0, 0, 0⟩
  | r :: t => if r.code = 0 then firstRes t else r

/-- A code that concerns no single command. -/
def plainRes (c : Nat) : LoadRes := ⟨c, 0, 0, 0⟩

/-- The bytes of a record of a section whose layout the spec gives: RELOCS, RINGS, OUTPUTS, WEIGHTS and SIG; 0 for another. -/
def recBytes (typ : Nat) : Nat :=
  match typ with
  | 0x03 => 16
  | 0x08 => 16
  | 0x09 => 32
  | 0x0A => 96
  | 0x7F => 200
  | _ => 0

/-- Entry `i` of the section table (R152), with the size of its section: COUNT records, or the size given. -/
def Image.entry (g : Image) (i : Nat) : ImgSect :=
  let b := slice g.signed (256 + 16 * i) 16
  let typ := leAt b 1 1
  let count := leAt b 4 4
  let off := leAt b 8 8
  ⟨leAt b 0 1, typ, leAt b 2 2, count, off,
   if recBytes typ = 0 then g.sizes.getD i 0 else recBytes typ * count⟩

/-- The section table at offset 256. -/
def Image.table (g : Image) : List ImgSect := (List.range (g.h 6 2)).map g.entry

/-- The section of a type. -/
def Image.sect (g : Image) (typ : Nat) : Option ImgSect := g.table.find? (fun e => e.typ == typ)

/-- COUNT of a section; 0 without one. -/
def Image.count (g : Image) (typ : Nat) : Nat := ((g.sect typ).map (·.count)).getD 0

/-- The records of a section with a layout, as bytes. -/
def Image.recs (g : Image) (typ : Nat) : List (List Byte) :=
  match g.sect typ with
  | none => []
  | some e => (List.range e.count).map (fun i => slice g.signed (e.off + recBytes typ * i) (recBytes typ))

/-- A RELOCS record from its bytes (Table 7-6). -/
def relocOf (b : List Byte) : ImgReloc :=
  ⟨leAt b 0 2, leAt b 2 1, leAt b 3 1, leAt b 4 4, leAt b 8 4 % 2 ^ 20, leAt b 8 4 / 2 ^ 20 + leAt b 12 4⟩
def Image.relocs (g : Image) : List ImgReloc := (g.recs 0x03).map relocOf

/-- An OUTPUTS record from its bytes (Table 14-2). -/
def outOf (b : List Byte) : ImgOut :=
  ⟨leAt b 0 1, leAt b 1 1, leAt b 4 4 % 2 ^ 20, leAt b 8 1, leAt b 16 8, leAt b 24 8,
   leAt b 2 2 + leAt b 4 4 / 2 ^ 20 + leAt b 9 7⟩
def Image.outputs (g : Image) : List ImgOut := (g.recs 0x09).map outOf

/-- A WEIGHTS record from its bytes (Table 15-1). -/
def weightOf (b : List Byte) : ImgWeight :=
  ⟨leAt b 0 1, leAt b 1 1, leAt b 4 4 % 2 ^ 20, leAt b 8 1, leAt b 12 4, leAt b 16 8, leAt b 24 8, leAt b 32 16, leAt b 48 48,
   leAt b 2 2 + leAt b 4 4 / 2 ^ 20 + leAt b 9 3⟩
def Image.weights (g : Image) : List ImgWeight := (g.recs 0x0A).map weightOf

/-- The commands of a stream: 64 bytes each from its offset (R22). -/
def Image.cmds (g : Image) (r : ImgStream) : List Cmd :=
  (List.range r.count).map (fun i => BitVec.ofNat 512 (leAt g.signed (r.off + 64 * i) 64))

/-- The plan image digest (R152): SHA-384 over the bytes that SIG covers. -/
def Image.digest (g : Image) : Nat := leNat (sha384 g.signed)

/-- Check 4 (R151, R152): NSECT, LENGTH, reserved header bits. -/
def Image.frameBad (g : Image) (len : Nat) : Bool :=
  g.h 6 2 == 0 || decide (64 < g.h 6 2) || decide (g.signed.length < 256 + 16 * g.h 6 2) || g.h 32 8 != len ||
  decide (8 ≤ g.flags) || g.h 43 1 != 0 || g.h 52 4 != 0 || (slice g.signed 80 176).any (· != 0)

/-- A section TYPE of Table 7-2. -/
def typeKnown (t : Nat) : Bool := (decide (1 ≤ t) && decide (t ≤ 10)) || t == 0x7F

/-- Two sections share a byte. -/
def ImgSect.meets (a b : ImgSect) : Bool := decide (a.off < b.off + b.size) && decide (b.off < a.off + a.size)

/-- Check 4 of one entry against those before it. An entry of VERSION 0, and a section that begins inside the header or the
section table, are refused with SECTION as well (DESIGN CHOICE, log entry 76). -/
def sectCode (len tableEnd : Nat) (seen : List ImgSect) (e : ImgSect) : Nat :=
  if 1 < e.version then ldVERSION
  else if e.version = 0 ∨ e.rsv ≠ 0 ∨ ¬ typeKnown e.typ ∨ seen.any (fun x => x.typ == e.typ) ∨ len < e.off + e.size ∨
    e.off < tableEnd ∨ seen.any e.meets then ldSECTION
  else 0

/-- Check 4 entry by entry. -/
def sectCodes (len tableEnd : Nat) : List ImgSect → List ImgSect → Nat
  | _, [] => 0
  | seen, e :: t =>
    if sectCode len tableEnd seen e ≠ 0 then sectCode len tableEnd seen e else sectCodes len tableEnd (seen ++ [e]) t

/-- SIG is the last section of the image, its one record ends at LENGTH, and the required sections are there. -/
def Image.closed (g : Image) (len : Nat) : Bool :=
  [0x01, 0x04, 0x05, 0x7F].all (fun t => g.table.any (fun e => e.typ == t)) &&
  g.table.all (fun e => e.typ != 0x7F || (e.count == 1 && e.off == g.signed.length && e.off + e.size == len && g.table.all (fun x => decide (x.off ≤ e.off))))

def Image.check4 (g : Image) (len : Nat) : Nat :=
  if g.frameBad len then ldSECTION
  else
    let c := sectCodes len (256 + 16 * g.table.length) [] g.table
    if c ≠ 0 then c else if g.closed len then 0 else ldSECTION

/-- The plan key that a SIG record answers to: SHA-384 of its PUBKEY (R349, R350). -/
def Image.signer (g : Image) : Nat := leNat (sha384 (slice g.sig 8 96))

/-- The form of the SIG record is good: VERSION 1, ALG 0x01 and no reserved byte set (R349, Table 18-2). Another VERSION is
SIG_BAD too (DESIGN CHOICE, log entry 76). -/
def Image.sigForm (g : Image) : Bool :=
  g.sig.length == 200 && leAt g.sig 0 1 == 1 && leAt g.sig 1 1 == 1 && leAt g.sig 2 6 == 0

/-- Check 5 (R349): the record is good, the partition's plan key is its signer, and its signature verifies. -/
def State.sigGood (s : State) (p : Nat) (g : Image) : Bool :=
  g.sigForm && (match (tget PSec.init s.psec p).planKey with
    | none => false
    | some k => k == g.signer) && g.sigOk

/-- Check 6 (R151): the other header fields against Table 7-1 and the feature registers. -/
def State.check6 (s : State) (g : Image) : Nat :=
  let bad := g.h 0 1 == 0 || g.h 4 1 == 0 || g.n == 0 || decide (256 < g.n) || decide (s.getF F.CTL_FEAT0_CORES 0 < g.n) ||
    g.nodes == 0 || decide (131072 < g.nodes) || decide (g.h 24 4 < 10) || decide (1000000 < g.h 24 4) ||
    decide (g.h 28 4 < 500) || decide (1000000 < g.h 28 4) || decide (s.getF F.CTL_FEAT1_LATCHES 0 < g.h 40 1) ||
    decide (s.getF F.CTL_FEAT2_TCTX 0 < g.h 41 1) || g.h 42 1 == 0 || decide (s.getF F.CTL_FEAT2_SCTX 0 < g.h 42 1) ||
    decide (s.getF F.CTL_FEAT2_TREES 0 < g.h 44 2) || decide (s.getF F.CTL_FEAT2_RTE_GROUP 0 < g.h 46 2) ||
    decide (s.getF F.CTL_FEAT4_RINGS 0 < g.h 48 4) || decide (s.getF F.CTL_FEAT4_HBM_GB 0 * 10 ^ 9 < g.h 56 8) ||
    decide (s.getF F.CTL_FEAT4_CELLAR_GIB 0 * 2 ^ 30 < g.h 64 8)
  if bad then ldHEADER else 0

/-! ## Records (check 7) -/

/-- The regions of a node. -/
def Image.region? (g : Image) (node idx : Nat) : Option ImgRegion := g.regions.find? (fun r => r.node == node && r.idx == idx)

/-- Bytes `off` to `off + len - 1` lie in a region of the node. -/
def Image.inRegion (g : Image) (node idx off len : Nat) : Bool :=
  match g.region? node idx with
  | some r => decide (off + len ≤ r.size)
  | none => false

/-- A logical core and a node index of the plan. -/
def Image.coreIn (g : Image) (node core : Nat) : Bool := decide (node < g.nodes) && decide (core < g.n)

/-- One record per node and logical core, each within range. -/
def Image.perCore (g : Image) (ks : List (Nat × Nat)) : Bool :=
  ks.all (fun k => g.coreIn k.1 k.2) && decide ks.Nodup && ks.length == g.nodes * g.n

/-- The records of a section are as many as its COUNT says. -/
def Image.counted (g : Image) (typ n : Nat) : Bool := n == g.count typ

/-- STREAMS records: one a node and logical core, on a 4 KiB boundary of the image; a stream of no command is refused (DESIGN CHOICE,
log entry 76). -/
def Image.streamsOk (g : Image) : Bool :=
  g.counted 0x01 g.streams.length && g.perCore (g.streams.map (fun r => (r.node, r.core))) &&
  g.streams.all (fun r => r.off % 4096 == 0 && r.count != 0 && decide (r.off + 64 * r.count ≤ g.signed.length))

def Image.regionsOk (g : Image) : Bool :=
  g.counted 0x02 g.regions.length &&
  g.regions.all (fun r => decide (r.node < g.nodes) && decide (r.idx < 64) && decide (r.tier ≤ 1) &&
    (match r.init with
     | some o => decide (o + r.size ≤ g.signed.length)
     | none => true)) && decide ((g.regions.map (fun r => (r.node, r.idx))).Nodup)

/-- The stream of a logical core. -/
def Image.stream (g : Image) (node core : Nat) : List Cmd :=
  ((g.streams.find? (fun r => r.node == node && r.core == core)).map g.cmds).getD []

/-- BASE of a command (bytes 24 to 29). -/
def cmdBase (c : Cmd) : Nat := cbits c 192 48

/-- A relocation record (R158). -/
def Image.relocOk (g : Image) (r : ImgReloc) : Bool :=
  g.coreIn r.node r.core && r.rsv == 0 && decide (1 ≤ r.kind) && decide (r.kind ≤ 3) &&
  decide (r.cmd < (g.stream r.node r.core).length) &&
  (if r.kind = 1 then
    match g.region? r.node r.region with
    | some x => decide (cmdBase ((g.stream r.node r.core).getD r.cmd 0) < x.size)
    | none => false
  else r.region == 0)

def Image.paramsOk (g : Image) : Bool :=
  g.counted 0x04 g.params.length && g.perCore (g.params.map (fun r => (r.node, r.core))) && g.params.all (fun r => r.codes.length == 64)

def Image.thrOk (g : Image) : Bool :=
  g.counted 0x05 g.thresholds.length && (g.thresholds.filter (·.start)).length == 1 &&
  g.thresholds.all (fun r => decide (r.kind ≤ 1) && decide (r.num < if r.kind = 0 then 8 else 32) && (!r.start || r.kind == 1) &&
    decide (r.tree < 4096) && r.members.all (fun m => g.coreIn m.1 m.2)) &&
  decide ((g.thresholds.map (fun r => (r.kind, r.num))).Nodup)

/-- FANLIGHTS records, against the ranges of Tables 13-10 to 13-12. -/
def Image.fansOk (g : Image) : Bool :=
  g.counted 0x06 g.fans.length &&
  g.fans.all (fun r => decide (r.node < g.nodes) && decide (r.tree < 4096) && decide (r.ports < 2 ^ 36) &&
    decide (r.dl < 2 ^ 36) && decide (r.parent < 64) && decide (1 ≤ r.levels) && decide (r.levels < 16) && r.cores.all (fun n => decide (n < g.n))) &&
  decide ((g.fans.map (fun r => (r.node, r.tree))).Nodup)

def Image.routesOk (g : Image) : Bool :=
  g.counted 0x07 g.routes.length &&
  g.routes.all (fun r => decide (r.node < g.nodes) && decide (r.dest < g.nodes) && decide (r.port < 36))

/-- A RINGS record (R366): its ring lies in its region. -/
def Image.ringsOk (g : Image) : Bool :=
  g.counted 0x08 g.rings.length &&
  g.rings.all (fun r => r.version == 1 && (r.role == 7 || r.role == 8) && decide (4 ≤ r.log2n) && decide (r.log2n ≤ 16) &&
    decide (1 ≤ r.ent64) && decide (r.ent64 ≤ 64) && decide (r.node < g.nodes) && r.off % 4096 == 0 &&
    g.inRegion r.node r.region r.off (64 + 2 ^ r.log2n * (64 * r.ent64)))

/-- An OUTPUTS record (R292): with its provenance record it stays in its region. -/
def Image.outputsOk (g : Image) : Bool :=
  g.outputs.all (fun r => r.version == 1 && decide (1 ≤ r.role) && decide (r.role ≤ 3) && r.rsv == 0 &&
    decide (r.node < g.nodes) && decide (1 ≤ r.len) && decide (r.len ≤ 2 ^ 40) &&
    g.inRegion r.node r.region r.off (if r.role = 3 then roundUp (r.off + r.len) 64 + 64 - r.off else r.len))

/-- Bytes of a WEIGHTS record with its chain word. -/
def ImgWeight.span (r : ImgWeight) : Nat := if r.kind = 1 then roundUp (r.off + r.len) 64 + 64 - r.off else r.len

/-- Two WEIGHTS records of one node share a byte. -/
def ImgWeight.meets (a b : ImgWeight) : Bool :=
  a.node == b.node && a.region == b.region && decide (a.off < b.off + b.span) && decide (b.off < a.off + a.span)

/-- SLOT_BYTES of an adapter area (R311). -/
def ImgWeight.slotBytes (r : ImgWeight) : Nat := (r.len - 65536) / r.shard

/-- A WEIGHTS record alone (R302, R311). -/
def Image.weightOk (g : Image) (r : ImgWeight) : Bool :=
  r.version == 1 && (r.kind == 1 || r.kind == 2) && r.rsv == 0 && decide (r.node < g.nodes) && r.off % 4096 == 0 &&
  decide (1 ≤ r.len) && decide (r.len ≤ 2 ^ 40) && g.inRegion r.node r.region r.off r.span &&
  (r.kind == 1 || (decide (1 ≤ r.shard) && decide (r.shard ≤ 1024) && r.object == 0 && r.expect == 0 &&
    r.len == 65536 + r.shard * r.slotBytes && r.slotBytes % 65536 == 0 && r.slotBytes != 0))

/-- No record meets a later one, and each node has at most one adapter area. -/
def weightsApart : List ImgWeight → Bool
  | [] => true
  | r :: t => t.all (fun x => !r.meets x && !(r.kind == 2 && x.kind == 2 && r.node == x.node)) && weightsApart t

/-- The first relocation record that is bad. -/
def Image.relocRes (g : Image) (bad : ImgReloc → Bool) : LoadRes :=
  match g.relocs.find? bad with
  | some r => ⟨ldRELOC, r.node, r.core, r.cmd⟩
  | none => plainRes 0

/-- Check 7 of a section. -/
def Image.sectionRes (g : Image) (t : Nat) : LoadRes :=
  let sect := fun (ok : Bool) => plainRes (if ok then 0 else ldSECTION)
  match t with
  | 0x01 => sect g.streamsOk
  | 0x02 => sect g.regionsOk
  | 0x03 => g.relocRes (fun r => !g.relocOk r)
  | 0x04 => sect g.paramsOk
  | 0x05 => sect g.thrOk
  | 0x06 => sect g.fansOk
  | 0x07 => sect g.routesOk
  | 0x08 => sect g.ringsOk
  | 0x09 => sect g.outputsOk
  | 0x0A => sect (g.weights.all g.weightOk && weightsApart g.weights)
  | _ => plainRes 0

/-- Check 7, in section-table order. -/
def Image.check7 (g : Image) : LoadRes := firstRes (g.table.map (fun e => g.sectionRes e.typ))

/-- A slot code the loader takes (Table 7-7, check 8). -/
def Image.slotOk (g : Image) (node code : Nat) : Bool :=
  decide (code ≤ 4) || (decide (0x40 ≤ code) && decide (code ≤ 0x7F) && (g.region? node (code - 0x40)).isSome)

/-- Check 8: the first PARAMS record with a code that is reserved or names a missing region. -/
def Image.check8 (g : Image) : LoadRes :=
  match g.params.find? (fun r => !r.codes.all (g.slotOk r.node)) with
  | some r => ⟨ldPARAMS, r.node, r.core, 0⟩
  | none => ⟨0, 0, 0, 0⟩

/-- The trees of a node's FANLIGHTS records. -/
def Image.treesOf (g : Image) (node : Nat) : List Nat := (g.fans.filter (fun r => r.node == node)).map (·.tree)

/-- The load-time check of one command (R163): the header checks, then the operand checks (R433, R434). -/
def Image.commandBad (g : Image) (node : Nat) (c : Cmd) : Bool :=
  headerCheck c != 0 ||
  match opOf (hEngine c) (hOpcode c) with
  | some op => operandCheck ⟨g.nodes, g.treesOf node⟩ op c != 0
  | none => true

/-- The first failing command of a stream. -/
def Image.streamCode (g : Image) (r : ImgStream) : LoadRes :=
  match (g.cmds r).findIdx? (g.commandBad r.node) with
  | some i => ⟨ldCOMMAND, r.node, r.core, i⟩
  | none => ⟨0, 0, 0, 0⟩

/-- Put a record before the first with a larger key. -/
def insKey {α : Type} (key : α → Nat) (x : α) : List α → List α
  | [] => [x]
  | y :: t => if key x ≤ key y then x :: y :: t else y :: insKey key x t

/-- A list by ascending key. -/
def byKey {α : Type} (key : α → Nat) : List α → List α
  | [] => []
  | x :: t => insKey key x (byKey key t)

/-- Streams by node index and logical core. -/
def Image.ordered (g : Image) : List ImgStream := byKey (fun r => r.node * 256 + r.core) g.streams

/-- Check 9. -/
def Image.check9 (g : Image) : LoadRes := (g.ordered.map g.streamCode |>.find? (fun r => r.code != 0)).getD ⟨0, 0, 0, 0⟩

/-- Checks 1 to 9 of R436 for a load into partition `p` of an image of `len` bytes. -/
def State.imageChecks (s : State) (p len : Nat) (g : Image) : LoadRes :=
  if s.getF F.SEC_PCTL_STATE p ≠ 1 then plainRes ldPARTITION
  else if 1 < g.h 0 1 ∨ g.h 1 3 ≠ 0x49504E then plainRes ldVERSION
  else if 1 < g.h 4 1 then plainRes ldFEATURE
  else if g.check4 len ≠ 0 then plainRes (g.check4 len)
  else if ¬ s.sigGood p g then plainRes ldSIG_BAD
  else if s.check6 g ≠ 0 then plainRes (s.check6 g)
  else if g.check7.code ≠ 0 then g.check7
  else if g.check8.code ≠ 0 then g.check8
  else g.check9

end Sys2Proof.Machine
end

