-- ==== Sys2Proof/Machine/PlanLoad.lean ====
section
/-! DEFINITION. Binding, placement, eviction and restore of plans (R155 to R159, R165 to R167), and the plan configuration
digest (R297). -/

namespace Sys2Proof.Machine

/-! ## Binding to cores (R156) -/

/-- Panes all of whose 8 cores are eligible. -/
def wholePanes (el : List Nat) : List Nat := (List.range 32).filter (fun q => (List.range 8).all (fun k => el.contains (8 * q + k)))

/-- The binding of `n` logical cores, when enough are eligible. -/
def bindCores (el : List Nat) (n : Nat) (align : Bool) : Option (List Nat) :=
  if align then
    let ps := wholePanes el
    if ps.length < (n + 7) / 8 then none
    else some ((List.range n).map (fun i => 8 * ps.getD (i / 8) 0 + i % 8))
  else if el.length < n then none else some (el.take n)

/-! ## What a plan takes (R157, R165) -/

/-- The resources of a node that eviction can free. -/
structure Need where
  n : Nat
  align : Bool
  tctx : List Nat
  sctx : List Nat
  trees : List Nat
  words : List (Bool × Nat)
deriving DecidableEq, Repr

/-- What a resident plan needs to be bound. -/
def Plan.need (q : Plan) : Need :=
  { n := q.n, align := q.paneAlign
    tctx := (q.thresholds.filter (fun t => !t.sys)).map (·.ctx)
    sctx := (q.thresholds.filter (·.sys)).map (·.ctx)
    trees := q.fans.map (·.tree)
    words := q.routes.map (fun r => (r.1, r.2.2)) }

/-- Plans of a list that are bound. -/
def State.bound' (s : State) (ks : List Nat) : List Plan := (ks.map s.plan).filter (fun q => !q.evicted)

/-- Eligible cores once the plans `ev` are evicted. -/
def State.eligibleAfter (s : State) (p : Nat) (ev : List Nat) : List Nat :=
  (s.partCores p).filter (fun n => !(s.boundCores p).contains n || (s.bound' ev).any (fun q => q.cores.contains n))

def State.tctxFree (s : State) (ev : List Nat) (c : Nat) : Bool :=
  !s.flag F.LATCH_TCTX_EN c || (s.bound' ev).any (fun q => q.need.tctx.contains c)

def State.sctxFree (s : State) (ev : List Nat) (c : Nat) : Bool :=
  !s.flag F.LATCH_SCTX_EN c || (s.bound' ev).any (fun q => q.need.sctx.contains c)

def State.treeFree (s : State) (ev : List Nat) (t : Nat) : Bool :=
  !s.flag F.FAN_CFG_VALID t || (s.bound' ev).any (fun q => q.need.trees.contains t)

/-- Free entries of a routing table. -/
def State.entriesFree (s : State) (ev : List Nat) (mbr : Bool) : Nat :=
  (if mbr then 128 else 4096) - ((s.table mbr).filter (fun e => eValid e.2.toNat)).length +
    ((s.bound' ev).flatMap (fun q => q.routes.filter (fun r => r.1 == mbr))).length

def State.routesFit (s : State) (ev : List Nat) (w : Need) : Bool :=
  decide ((w.words.filter (·.1)).length ≤ s.entriesFree ev true) &&
  decide ((w.words.filter (fun x => !x.1)).length ≤ s.entriesFree ev false)

/-- Everything a plan needs is free once `ev` is evicted: 0, or TOO_SMALL or RESOURCE. -/
def State.shortfall (s : State) (p : Nat) (ev : List Nat) (w : Need) : Nat :=
  if bindCores (s.eligibleAfter p ev) w.n w.align = none then ldTOO_SMALL
  else if ¬ (w.tctx.all (s.tctxFree ev) ∧ w.sctx.all (s.sctxFree ev) ∧ w.trees.all (s.treeFree ev) ∧ s.routesFit ev w) then
    ldRESOURCE
  else 0

/-- The entries of a routing table are too few for a need. -/
def State.routesLack (s : State) (mbr : Bool) (w : Need) : Bool :=
  decide (s.entriesFree [] mbr < (w.words.filter (fun x => x.1 == mbr)).length)

/-- A resident plan holds a freeable resource that is lacking (R165). -/
def State.holdsLacked (s : State) (p : Nat) (w : Need) (k : Nat) : Bool :=
  let q := s.plan k
  !q.evicted &&
  ((bindCores (s.eligible p) w.n w.align == none && q.cores != []) ||
   q.need.tctx.any (fun c => w.tctx.contains c) || q.need.sctx.any (fun c => w.sctx.contains c) ||
   q.need.trees.any (fun t => w.trees.contains t) ||
   [true, false].any (fun m => s.routesLack m w && q.routes.any (fun r => r.1 == m)))

/-- The shortest prefix of a list after whose eviction the need is met. -/
def State.evictSet (s : State) (p : Nat) (w : Need) (ks : List Nat) : Option (List Nat) :=
  (List.range (ks.length + 1)).findSome? (fun n => if s.shortfall p (ks.take n) w = 0 then some (ks.take n) else none)

/-! ## Places in memory (R158, Table 8-1) -/

/-- Bytes of a context area of a plan (R166). -/
def Plan.areaSize (q : Plan) : Nat := q.cores.length * (spadSize + 4096)

/-- The places a resident plan holds in HBM and cellar. -/
def Plan.places (q : Plan) : List (Nat × Nat) :=
  q.regions.map (fun r => (r.base, r.size)) ++ q.streams.map (fun x => (x.1, roundUp (64 * x.2) 4096)) ++
  q.pages.map (fun a => (a, 512)) ++ (if q.evicted then [(q.ctxBase, q.areaSize)] else [])

/-- The places all resident plans of a partition hold. -/
def State.placesOf (s : State) (p : Nat) : List (Nat × Nat) := (s.plansOf p).flatMap (fun k => (s.plan k).places)

/-- Two places share a byte. -/
def clash (a b : Nat × Nat) : Bool := decide (a.1 < b.1 + b.2) && decide (b.1 < a.1 + a.2)

/-- No place of a list meets an earlier one or a taken one. -/
def allApart (taken : List (Nat × Nat)) : List (Nat × Nat) → Bool
  | [] => true
  | x :: t => !taken.any (clash x) && allApart (x :: taken) t

/-- A place lies in the partition's HBM without its ring slice. -/
def State.inHbm (s : State) (p : Nat) (x : Nat × Nat) : Bool :=
  match s.hbmBlock p with
  | some (b, n) => decide (b ≤ x.1) && decide (x.1 + x.2 ≤ b + n - (s.slice p).2)
  | none => false

/-- A place lies in the partition's cellar. -/
def State.inCellar (s : State) (p : Nat) (x : Nat × Nat) : Bool :=
  match s.cellarBlock p with
  | some (b, n) => decide (b ≤ x.1) && decide (x.1 + x.2 ≤ b + n)
  | none => false

/-! ## Finding places (R157, R158) -/

/-- The lowest multiple of `align` in a block at which `size` bytes meet no taken place. -/
def firstFit (taken : List (Nat × Nat)) (lo hi align size : Nat) : Option Nat :=
  (((lo :: taken.map (fun t => t.1 + t.2)).map (fun a => roundUp a align)).filter (fun a =>
    decide (lo ≤ a) && decide (a + size ≤ hi) && !taken.any (clash (a, size)))).min?

/-- The block of a tier that plans may take: HBM without the ring slice (0), or cellar (1). -/
def State.blockOf (s : State) (p tier : Nat) : Nat × Nat :=
  if tier = 0 then match s.hbmBlock p with
    | some (b, n) => (b, b + n - (s.slice p).2)
    | none => (0, 0)
  else match s.cellarBlock p with
    | some (b, n) => (b, b + n)
    | none => (0, 0)

/-- An item to place: its number, tier, alignment and size. -/
structure Item where
  idx : Nat
  tier : Nat
  align : Nat
  size : Nat
deriving DecidableEq, Repr

/-- Places for the items left, at most `n` of them: each stands at the first place that fits it, in the first order of the items in
which every one finds room. Where any arrangement holds them all, its order by address is such an order. -/
def State.pack (s : State) (p : Nat) : Nat → List (Nat × Nat) → List Item → Option (List (Nat × Nat))
  | _, _, [] => some []
  | 0, _, _ => none
  | n + 1, taken, xs => xs.findSome? fun x =>
    let b := s.blockOf p x.tier
    match firstFit taken b.1 b.2 x.align x.size with
    | none => none
    | some a => (s.pack p n ((a, x.size) :: taken) (xs.erase x)).map ((x.idx, a) :: ·)

/-- Places for items (tier, alignment, size), in their order; `none` where no arrangement holds them all. -/
def State.fitAll (s : State) (p : Nat) (taken : List (Nat × Nat)) (xs : List (Nat × Nat × Nat)) : Option (List Nat) :=
  let is := xs.zipIdx.map (fun x => (⟨x.2, x.1.1, x.1.2.1, x.1.2.2⟩ : Item))
  (s.pack p is.length taken is).map (fun l => (List.range xs.length).map (fun i => ((l.find? (fun y => y.1 == i)).map (·.2)).getD 0))

/-- The first `n` free numbers below `m`. -/
def lowestFree (m n : Nat) (free : Nat → Bool) : List Nat := ((List.range m).filter free).take n

/-- Entries for route words, the lowest free of each table (R268). -/
def State.assignEntries (s : State) (ev : List Nat) (ws : List (Bool × Nat)) : List Nat :=
  let free := fun (m : Bool) (i : Nat) => !eValid (s.rdReg (if m then .RTE_MBR else .RTE_GRP) i) ||
    (s.bound' ev).any (fun q => q.routes.any (fun r => r.1 == m && r.2.1 == i))
  let ms := lowestFree 128 ws.length (free true)
  let gs := lowestFree 4096 ws.length (free false)
  (ws.foldl (fun (x : List Nat × List Nat × List Nat) w =>
    if w.1 then (x.1 ++ [x.2.1.headD 128], x.2.1.drop 1, x.2.2) else (x.1 ++ [x.2.2.headD 4096], x.2.1, x.2.2.drop 1)) ([], ms, gs)).1

/-! ## Writing a binding -/

/-- Word `j` of a core mask. -/
def maskWord (ns : List Nat) (j : Nat) : Nat := ((ns.filter (fun n => n / 64 == j)).dedup.map (fun n => 2 ^ (n % 64))).sum

/-- Write a four-word core mask of entry `c` of a register. -/
def State.setMask (s : State) (r : Reg) (c : Nat) (ns : List Nat) : State :=
  (List.range 4).foldl (fun s j => s.wrReg r (c * 4 + j) (maskWord ns j)) s

/-- Physical cores of logical ones. -/
def Plan.phys (q : Plan) (ls : List Nat) : List Nat := ls.filterMap (fun l => q.cores[l]?)

/-- Registers of the bound cores (R156 steps 1 and 2, R161). -/
def State.bindRegs (s : State) (q : Plan) : State :=
  q.cores.zipIdx.foldl (fun s x =>
    let st := q.streams.getD x.2 (0, 0)
    s.setFs x.1 [(F.DISP_STREAM_BASE_BASE, st.1 / 4096), (F.DISP_STREAM_LEN_COMMANDS, st.2), (F.CORE_ID_LOGICAL, x.2),
      (F.CORE_ID_BOUND, 1), (F.DISP_PARAM_BASE, q.pages.getD x.2 0 / 512), (F.DISP_PARAM_PAGE, 0)]) s

/-- Contexts of the plan (R139). -/
def State.bindCtxs (s : State) (q : Plan) : State :=
  q.thresholds.foldl (fun s t =>
    if t.sys then
      (s.setFs t.ctx [(F.LATCH_SCTX_OWNER, q.part), (F.LATCH_SCTX_TREE, t.tree), (F.LATCH_SCTX_START, 0), (F.LATCH_SCTX_GEN, 0),
        (F.LATCH_SCTX_EN, 1)]).setMask .LATCH_SMASK t.ctx (q.phys t.cores)
    else
      (s.setFs t.ctx [(F.LATCH_TCTX_OWNER, q.part), (F.LATCH_TCTX_GEN, 0), (F.LATCH_TCTX_EN, 1)]).setMask .LATCH_TMASK t.ctx
        (q.phys t.cores)) s

/-- Fanlight entries (R278, R284) and plan route entries (R268) of the plan. -/
def State.bindFabric (s : State) (q : Plan) : State :=
  let s := q.fans.foldl (fun s f =>
    let s := (s.writeFan f.tree 0 f.cfg).writeFan f.tree 1 f.dl
    (List.range 4).foldl (fun s j => s.writeFan f.tree (2 + j) (maskWord (q.phys f.cores) j)) s) s
  q.routes.foldl (fun s r => s.writeEntry r.1 r.2.1 r.2.2) s

/-- Bind a plan to the cores of its record and store it. -/
def State.bindPlan (s : State) (k : Nat) (q : Plan) : State :=
  (((s.bindRegs q).bindCtxs q).bindFabric q).setPlan k q

/-- Unbind a plan's cores and clear its contexts, trees and routes (R166). -/
def State.unbind (s : State) (q : Plan) : State :=
  let s := q.cores.foldl (fun s n => s.setFs n [(F.CORE_ID_LOGICAL, 0), (F.CORE_ID_BOUND, 0)]) s
  let s := q.thresholds.foldl (fun s t =>
    if t.sys then ((s.setFs t.ctx [(F.LATCH_SCTX_EN, 0), (F.LATCH_SCTX_START, 0)]).setSctx t.ctx Ctx.init).setMask .LATCH_SMASK t.ctx []
    else ((s.setF F.LATCH_TCTX_EN t.ctx 0).setTctx t.ctx Ctx.init).setMask .LATCH_TMASK t.ctx []) s
  let s := q.fans.foldl (fun s f => ((s.wrReg .FAN_CFG f.tree 0).wrReg .FAN_DL f.tree 0).setMask .FAN_CMASK f.tree []) s
  q.routes.foldl (fun s r => s.wrReg (if r.1 then .RTE_MBR else .RTE_GRP) r.2.1 0) s

/-! ## The plan configuration digest (R297) -/

/-- The rename map as 16-bit pairs, ascending by original ID: trees, then system contexts. -/
def Plan.renameBytes (q : Plan) : List Byte :=
  (byKey (·.1) q.trees ++ byKey (·.1) q.ctxs).flatMap (fun x => leBytes 2 x.1 ++ leBytes 2 x.2)

/-- PCDp. -/
def State.pcd (s : State) (q : Plan) : Nat :=
  leNat ((sha384 (leBytes 1 1 ++ leBytes 1 2 ++ leBytes 6 0 ++ leBytes 8 (s.getF F.CTL_CDIG_DIGEST 0) ++ leBytes 48 q.digest ++
    sha384 q.renameBytes)).take 8)

/-! ## Eviction (R166) -/

/-- The 48 latches of a core. -/
def State.latches (s : State) (n : Nat) : List Nat := (List.range 48).map (s.latch n)

/-- Bytes of the context record of a core beyond its scratchpad: the latches and both parameter pages. The order is the
model's. -/
def latchBytes (ls : List Nat) : List Byte := ls.flatMap (leBytes 2)

/-- The context record of core `n`: its scratchpad, latches, parameter pages `pg` and selected page. -/
def State.coreRecord (s : State) (n : Nat) (pg : List Byte) : List Byte :=
  padTo (spadSize + 4096) (s.spad n 0 spadSize ++ latchBytes (s.latches n) ++ pg ++ leBytes 1 (s.getF F.DISP_PARAM_PAGE n))

/-- Where the record of logical core `i` stands in the context area at `a`. -/
def recordAt (a i : Nat) : Nat := a + i * (spadSize + 4096)

/-- Whether a write went through. -/
def writeDone (p : State × MemRes) : State × Bool :=
  match p with
  | (s, .refused _) => (s, false)
  | (s, .ok _) => (s, true)

/-- Write the context record of core `n`, logical core `i`; false when the write is refused. -/
def State.saveRecord (s : State) (a n i : Nat) (pg : List Byte) : State × Bool :=
  writeDone (s.write (recordAt a i) [] (s.coreRecord n pg))

/-- Save one bound core, physical number and logical index, to the area; false when its page read or the write is refused. -/
def State.saveCore (s : State) (q : Plan) (a : Nat) (sym : Syms) (x : Nat × Nat) : State × Bool :=
  match s.read (q.pages.getD x.2 0) 512 sym with
  | (s, .refused _) => (s, false)
  | (s, .ok pg) => s.saveRecord a x.1 x.2 pg

/-- Save each bound core in turn; the first failure ends it. -/
def State.saveCores (s : State) (q : Plan) (a : Nat) (sym : Syms) (l : List (Nat × Nat)) : State × Bool :=
  l.foldl (fun r x => if r.2 then r.1.saveCore q a sym x else r) (s, true)

/-- A step of plan `k` that waits for its input digest waits for the restore of its plan instead (R167). -/
def State.unready (s : State) (k : Nat) : State :=
  let p := (s.plan k).part
  let x := s.part p
  if x.waitDigest ∧ x.plan = k then
    { s.modPart p (fun x => { x with waitDigest := false }) with
      steps := ⟨p, k, x.tag, x.payload, x.attempt, decide (0 < x.attempt), x.cq⟩ :: s.steps }
  else s

/-- Evict plan `k` into the context area at `a`; `sym` are the symbol errors its reads meet; false when the save fails and the plan
stays (R166). -/
def State.evict (s : State) (k a : Nat) (sym : Syms) : State × Bool :=
  let q := s.plan k
  match s.saveCores q a sym q.cores.zipIdx with
  | (s, false) => (s, false)
  | (s, true) =>
    let q := { q with evicted := true, ctxBase := a, savedLatch := q.cores.map s.latches,
                      savedPage := q.cores.map (s.getF F.DISP_PARAM_PAGE) }
    (((s.unbind q).setPlan k q).unready k, true)

/-- Evict the plans of a set one after another into the given areas. -/
def State.evictAll (s : State) (sym : Syms) : List Nat → List Nat → State × Bool
  | [], _ => (s, true)
  | _ :: _, [] => (s, false)
  | k :: t, a :: as =>
    match s.evict k a sym with
    | (s, false) => (s, false)
    | (s, true) => s.evictAll sym t as

/-- The context areas given for a set lie in free HBM, `more` counted as taken. -/
def State.areasOk (s : State) (p : Nat) (ks areas : List Nat) (more : List (Nat × Nat)) : Bool :=
  let xs := (ks.zip areas).map (fun x => (x.2, (s.plan x.1).areaSize))
  decide (ks.length ≤ areas.length) && xs.all (s.inHbm p) && xs.all (fun x => x.1 % 64 == 0) && allApart (s.placesOf p ++ more) xs

/-- Context areas for a set: those given when they serve, else the first that fit. -/
def State.areasFor (s : State) (p : Nat) (ks areas : List Nat) (more : List (Nat × Nat)) : Option (List Nat) :=
  if s.areasOk p ks areas more then some areas
  else s.fitAll p (s.placesOf p ++ more) (ks.map (fun k => (0, 64, (s.plan k).areaSize)))

/-- Make room for a need (R165): the code that refuses it, or the set to evict and its context areas. -/
def State.roomFor (s : State) (p : Nat) (w : Need) (areas : List Nat) (more : List (Nat × Nat)) : Nat × List Nat × List Nat :=
  let cand := (s.plansOf p).filter (s.holdsLacked p w)
  let all := s.shortfall p (s.plansOf p) w
  if all ≠ 0 then (all, [], [])
  else match s.evictSet p w cand with
    | none => (ldNO_ROOM, [], [])
    | some ev =>
      match s.areasFor p ev areas more with
      | some as => if ev.all (fun k => (s.plan k).swappable && (s.plan k).nodes == 1) then (0, ev, as) else (ldNO_ROOM, [], [])
      | none => (ldNO_ROOM, [], [])

/-! ## Restore (R167) -/

/-- Write a core's saved state back. Where the read of the context area is refused the core stays as it is, and the restore goes on
(DESIGN CHOICE, log entry 76: R167 gives no outcome). -/
def State.restoreCore (s : State) (q : Plan) (sym : Syms) (x : Nat × Nat) : State :=
  match s.read (recordAt q.ctxBase x.2) (spadSize + 608) sym with
  | (s, .refused _) => s
  | (s, .ok bs) =>
    let s := s.setSpad x.1 0 (bs.take spadSize)
    let s := (List.range 48).foldl (fun s l => s.setLatch x.1 l (leAt bs (spadSize + 2 * l) 2)) s
    let s := s.writeQ (q.pages.getD x.2 0) (Sys2Proof.Machine.slice bs (spadSize + 96) 512)
    s.setF F.DISP_PARAM_PAGE x.1 (q.savedPage.getD x.2 0)

/-- Every core of a plan is written back. -/
def State.restoreCores (s : State) (q : Plan) (sym : Syms) (l : List (Nat × Nat)) : State :=
  l.foldl (fun s x => s.restoreCore q sym x) s

/-- The route words of a plan at entries that are free now (R165, R167). -/
def State.rerouted (s : State) (q : Plan) : List (Bool × Nat × Nat) :=
  (q.routes.zip (s.assignEntries [] q.need.words)).map (fun x => (x.1.1, x.2, x.1.2.2))

/-- Restore plan `k` of partition `p`, whose reads meet the symbol errors `sym`: 0, or the code of Table 7-5 that names the
shortfall. -/
def State.restore (s : State) (p k : Nat) (areas : List Nat) (sym : Syms) : State × Nat :=
  let q := s.plan k
  match s.roomFor p q.need areas [] with
  | (0, ev, as) =>
    match s.evictAll sym ev as with
    | (_, false) => (s, ldNO_ROOM)
    | (s, true) =>
      match bindCores (s.eligible p) q.n q.paneAlign with
      | none => (s, ldTOO_SMALL)
      | some cs =>
        let q := { q with cores := cs, evicted := false, routes := s.rerouted q }
        ((s.bindPlan k q).restoreCores q sym cs.zipIdx, 0)
  | (c, _, _) => (s, c)

/-! ## Building the plan of a node -/

/-- A rename. -/
def renamed (m : List (Nat × Nat)) (i : Nat) : Option Nat := (m.find? (fun x => x.1 == i)).map (·.2)

/-- System contexts present on a node: those whose tree passes through it or that have members there. -/
def Image.hasThr (g : Image) (node : Nat) (t : ImgThr) : Bool :=
  t.members.any (fun m => m.1 == node) || (t.kind == 1 && (g.treesOf node).contains t.tree) || t.start

/-- The threshold records of a node under the rename map. A context whose tree has no rename, on a node that the tree does not
enter, names tree 0 (DESIGN CHOICE, log entry 76: nothing there uses it). -/
def Image.thrRecs (g : Image) (x : Placing) : List ThrRec :=
  (g.thresholds.filter (g.hasThr x.node)).map (fun t =>
    ⟨t.kind == 1, if t.kind = 1 then (renamed x.ctxs t.num).getD 0 else t.num,
     (t.members.filter (fun m => m.1 == x.node)).map (·.2), (renamed x.trees t.tree).getD 0⟩)

/-- The fanlight entries of a node under the rename map. -/
def Image.fanRecs (g : Image) (p : Nat) (x : Placing) : List FanRec :=
  (g.fans.filter (fun f => f.node == x.node)).map (fun f =>
    ⟨(renamed x.trees f.tree).getD 0, 2 ^ 63 + p * 2 ^ 59 + f.parent * 2 ^ 53 + f.levels * 2 ^ 49 + f.ports, f.dl, f.cores⟩)

/-- The plan entries of a node: table and word (R268). -/
def Image.routeWords (g : Image) (s : State) (p : Nat) (x : Placing) : List (Bool × Nat) :=
  ((g.routes.filter (fun r => r.node == x.node)).map (fun r =>
    let (mbr, key) := s.tableOf (x.nodeMap.getD r.dest 0)
    (mbr, 2 ^ 63 + p * 2 ^ 59 + x.set * 2 ^ 55 + key * 2 ^ 42 + r.port * 2 ^ 36 + bit r.dateline * 2 ^ 35))).dedup

/-- A rename map is one (R157): distinct IDs to distinct IDs below `m`, and for a plan of one node the lowest free ones. -/
def mapOk (m nodes : Nat) (free : Nat → Bool) (r : List (Nat × Nat)) : Bool :=
  decide (r.map (·.1)).Nodup && decide (r.map (·.2)).Nodup && r.all (fun x => decide (x.2 < m)) &&
  (nodes != 1 || (List.range m).all (fun i => !free i || (r.map (·.2)).contains i || r.all (fun x => decide (x.2 < i))))

/-- Every tree and system context the node uses has a rename, and the maps are good. -/
def Image.renamesOk (g : Image) (s : State) (x : Placing) : Bool :=
  mapOk 4096 g.nodes (s.treeFree []) x.trees && mapOk 32 g.nodes (s.sctxFree []) x.ctxs &&
  g.fans.all (fun f => (renamed x.trees f.tree).isSome) &&
  g.thresholds.all (fun t => t.kind == 0 || (renamed x.ctxs t.num).isSome)

/-- Regions of a node at their places. -/
def Image.regionRecs (g : Image) (x : Placing) : List Region :=
  ((g.regions.filter (fun r => r.node == x.node)).zipIdx).map (fun r => ⟨r.1.idx, r.1.tier, x.regions.getD r.2 0, r.1.size⟩)

/-- One relocation applied to a command (R158). -/
def patchCmd (x : Placing) (rs : List Region) (c : Cmd) (r : ImgReloc) : Cmd :=
  let w := c.toNat
  let o := if hFormat c = 6 then 8 * 50 else 8 * 16
  BitVec.ofNat 512 (match r.kind with
    | 1 => setBits w 192 48 (bitsOf w 192 48 + ((rs.find? (fun q => q.idx == r.region)).map (·.base)).getD 0)
    | 2 => setBits w (o + 24) 12 ((renamed x.trees (bitsOf w (o + 24) 12)).getD 0)
    | _ => setBits w 128 5 ((renamed x.ctxs (bitsOf w 128 5)).getD 0))

/-- The ID or context number that a TREE or CTX record finds in its command. -/
def ImgReloc.named (r : ImgReloc) (c : Cmd) : Nat :=
  if r.kind = 2 then dbTree (if hFormat c = 6 then cbytes c 50 8 else cbytes c 16 8) else cbits c 128 5

/-- Record `r` after the records `before` of its command renames what the map does not hold (R158). -/
def Image.unmapped (g : Image) (x : Placing) (before : List ImgReloc) (r : ImgReloc) : Bool :=
  let mine := before.filter (fun y => y.node == r.node && y.core == r.core && y.cmd == r.cmd)
  let c := mine.foldl (patchCmd x []) ((g.stream r.node r.core).getD r.cmd 0)
  (r.kind == 2 || r.kind == 3) && (renamed (if r.kind = 2 then x.trees else x.ctxs) (r.named c)).isNone

/-- The first TREE or CTX record that finds no rename: RESOURCE, with its command (R155, R158). -/
def Image.renameRes (g : Image) (x : Placing) : LoadRes :=
  match g.relocs.zipIdx.find? (fun r => g.unmapped x (g.relocs.take r.2) r.1) with
  | some r => ⟨ldRESOURCE, r.1.node, r.1.core, r.1.cmd⟩
  | none => plainRes 0

/-- The patched stream of a logical core. -/
def Image.patched (g : Image) (x : Placing) (rs : List Region) (core : Nat) : List Cmd :=
  ((g.stream x.node core).zipIdx).map (fun c =>
    (g.relocs.filter (fun r => r.node == x.node && r.core == core && r.cmd == c.2)).foldl (patchCmd x rs) c.1)

/-- Check 16: the first MEMBASE record whose command, with every record of it applied, has a BASE outside the record's region. -/
def Image.relocsLand (g : Image) (x : Placing) (rs : List Region) : LoadRes :=
  g.relocRes (fun r => r.node == x.node && r.kind == 1 &&
    (match rs.find? (fun q => q.idx == r.region) with
     | some q =>
       let a := cmdBase ((g.patched x rs r.core).getD r.cmd 0)
       !(decide (q.base ≤ a) && decide (a < q.base + q.size))
     | none => true))

/-- The slot codes of a logical core. -/
def Image.codes (g : Image) (node core : Nat) : List Nat :=
  ((g.params.find? (fun r => r.node == node && r.core == core)).map (·.codes)).getD []

/-- The OUTPUTS, SHARD and adapter-area records of a node. -/
def Image.outBufs (g : Image) (node : Nat) : List OutBuf :=
  (g.outputs.filter (fun r => r.node == node)).map (fun r => ⟨r.role, r.region, r.off, r.len⟩)

def wrecInit (i : Nat) (r : ImgWeight) : WRec :=
  { index := i, shard := r.shard, region := r.region, off := r.off, len := r.len, expect := r.expect, state := 0, code := 0, kind := 0,
    jamb := 0, start := 0, pred := 0, succ := 0, succAddr := 0, qp0 := 0, qp1 := 0, rkey0 := 0, rkey1 := 0, raddr0 := 0, raddr1 := 0,
    alt := false, present := 0, fwd := 0, ann := 0, acks := [], sentAt := [], digs := [], rose := 0, broke := none, lost := false,
    src := 0, redo := [] }

def Image.wrecs (g : Image) (node : Nat) : List WRec :=
  ((g.weights.filter (fun r => r.node == node)).zipIdx.filter (fun r => r.1.kind == 1)).map (fun r => wrecInit r.2 r.1)

def Image.adapterArea (g : Image) (node : Nat) : Option AArea :=
  (g.weights.find? (fun r => r.node == node && r.kind == 2)).map (fun r => ⟨r.region, r.off, r.shard, r.slotBytes⟩)

/-- The plan record of a node, bound to `cores`. Without SHARD records the weights need no load. -/
def Image.planOf (g : Image) (s : State) (p : Nat) (x : Placing) (cores : List Nat) : Plan :=
  let rs := g.regionRecs x
  { Plan.init with
    part := p, digest := g.digest, canonical := g.canonical, swappable := g.swappable, paneAlign := g.paneAlign, n := g.n
    nodes := g.nodes, node := x.node, seed := g.h 16 8, wdog := g.h 24 4, margin := g.h 28 4
    startCtx := ((g.thresholds.find? (·.start)).bind (fun t => renamed x.ctxs t.num)).getD 0
    routeSet := x.set, nodeMap := x.nodeMap, cores := cores
    streams := (List.range g.n).map (fun i => (x.streams.getD i 0, (g.stream x.node i).length))
    slots := (List.range g.n).map (g.codes x.node)
    pages := x.pages, regions := rs, outputs := g.outBufs x.node, trees := x.trees, ctxs := x.ctxs, rings := x.rings
    thresholds := g.thrRecs x, fans := g.fanRecs p x
    routes := ((g.routeWords s p x).zipIdx).map (fun w => (w.1.1, x.routes.getD w.2 0, w.1.2))
    nextStep := x.firstStep, weights := g.wrecs x.node, area := g.adapterArea x.node
    weightState := if g.wrecs x.node = [] then 2 else 0 }

/-! ## Checks 10 to 16 of R436 -/

/-- Check 10. -/
def Image.nodeMapOk (g : Image) (s : State) (x : Placing) : Bool :=
  x.nodeMap.length == g.nodes && x.nodeMap.all (fun n => decide (n < 131072)) && decide x.nodeMap.Nodup &&
  decide (x.node < g.nodes) && x.nodeMap[x.node]? == some s.node

/-- Check 11. A FANLIGHTS record whose PARENT or dateline ports are none of its own is refused here too (DESIGN CHOICE, log entry
76). -/
def Image.portsOk (g : Image) (s : State) (p : Nat) (x : Placing) : Bool :=
  (g.fans.filter (fun f => f.node == x.node)).all (fun f =>
    (onesOf f.ports 36).all (s.ownsPort p) && (onesOf f.dl 36).all (bitAt f.ports) && (f.parent == 63 || bitAt f.ports f.parent)) &&
  (g.routes.filter (fun r => r.node == x.node)).all (fun r => s.ownsPort p r.port)

/-- Rings of the node, and the numbers assigned to them (R157). -/
def Image.ringRecs (g : Image) (node : Nat) : List ImgRing := g.rings.filter (fun r => r.node == node)

def Image.ringsFree (g : Image) (s : State) (p : Nat) (x : Placing) : Bool :=
  decide ((g.ringRecs x.node).length = x.rings.length) && decide x.rings.Nodup &&
  x.rings.all (fun k => s.ringRange (p + 1) k && s.ring k == Ring.init)

/-- The route entries assigned are distinct; each is free or freed by eviction. -/
def routesPlaced (s : State) (ev : List Nat) (ws : List (Bool × Nat)) (is : List Nat) : Bool :=
  decide (ws.length ≤ is.length) && decide ((ws.zip is).map (fun x => (x.1.1, x.2))).Nodup &&
  (ws.zip is).all (fun x => decide (x.2 < if x.1.1 then 128 else 4096) &&
    (!eValid (s.rdReg (if x.1.1 then .RTE_MBR else .RTE_GRP) x.2) ||
     (s.bound' ev).any (fun q => q.routes.any (fun r => r.1 == x.1.1 && r.2.1 == x.2))))

/-- The places given for a plan: aligned, inside the partition's memory and apart (R158, R159; check 14). -/
def Plan.placed (q : Plan) (s : State) (p : Nat) : Bool :=
  q.regions.all (fun r => r.base % 65536 == 0 &&
    (if r.tier = 0 then s.inHbm p (r.base, r.size) else s.inCellar p (r.base, r.size))) &&
  q.streams.all (fun x => x.1 % 4096 == 0 && s.inHbm p (x.1, roundUp (64 * x.2) 4096)) &&
  decide (q.n ≤ q.pages.length) && q.pages.all (fun a => a % 512 == 0 && s.inHbm p (a, 512)) &&
  allApart (s.placesOf p) q.places

/-- The plan's route set is one no other plan of the partition has (R268). -/
def State.setFree (s : State) (p set : Nat) : Bool :=
  decide (1 ≤ set) && decide (set ≤ 15) && (s.plansOf p).all (fun k => (s.plan k).routeSet != set)

/-- The places Ranuat gives: those of the operand when they serve, else the first that fit (R158, R159); where nothing fits they stay
as they are, and check 14 refuses. -/
def State.mendPlaces (s : State) (p : Nat) (g : Image) (x : Placing) : Placing :=
  if (g.planOf s p x []).placed s p then x
  else
    let rs := (g.regions.filter (fun r => r.node == x.node)).map (fun r => (r.tier, 65536, r.size))
    let ss := (List.range g.n).map (fun i => (0, 4096, roundUp (64 * (g.stream x.node i).length) 4096))
    let ps := (List.range g.n).map (fun _ => (0, 512, 512))
    match s.fitAll p (s.placesOf p) (rs ++ ss ++ ps) with
    | none => x
    | some l => { x with regions := l.take rs.length, streams := (l.drop rs.length).take g.n, pages := l.drop (rs.length + g.n) }

/-- The ring numbers and the route set Ranuat assigns: those of the operand when they serve, else the lowest free (R157, R268). -/
def State.mendRings (s : State) (p : Nat) (g : Image) (x : Placing) : Placing :=
  let rings := if g.ringsFree s p x then x.rings
    else lowestFree (s.getF F.SEC_PRING_BASE p + s.getF F.SEC_PRING_COUNT p) (g.ringRecs x.node).length
      (fun k => s.ringRange (p + 1) k && s.ring k == Ring.init)
  let set := if s.setFree p x.set then x.set else (lowestFree 16 1 (s.setFree p)).headD 0
  { x with rings := rings, set := set }

/-- The route entries Ranuat assigns after an eviction. -/
def State.mendRoutes (s : State) (p : Nat) (g : Image) (ev : List Nat) (x : Placing) : Placing :=
  let ws := g.routeWords s p x
  if routesPlaced s ev ws x.routes then x else { x with routes := s.assignEntries ev ws }

/-- Checks 10 to 16 in order: the result, the placing that holds, and the plans to evict. -/
def State.placeChecks (s : State) (p : Nat) (g : Image) (x : Placing) : LoadRes × Placing × List Nat :=
  let x := s.mendPlaces p g (s.mendRings p g x)
  let q := g.planOf s p x []
  let no := fun (c : Nat) => (plainRes c, x, ([] : List Nat))
  if ¬ g.nodeMapOk s x then no ldNODE_MAP
  else if ¬ g.portsOk s p x then no ldPARTITION
  else if s.shortfall p (s.plansOf p) q.need = ldTOO_SMALL then no ldTOO_SMALL
  else if ¬ g.renamesOk s x ∨ ¬ g.ringsFree s p x ∨ ¬ s.setFree p x.set ∨ s.shortfall p (s.plansOf p) q.need ≠ 0 then no ldRESOURCE
  else if (g.renameRes x).code ≠ 0 then (g.renameRes x, x, [])
  else if ¬ q.placed s p then no ldMEMORY
  else match s.roomFor p q.need x.areas q.places with
    | (0, ev, as) =>
      let x := s.mendRoutes p g ev { x with areas := as }
      if ¬ routesPlaced s ev (g.routeWords s p x) x.routes then no ldRESOURCE
      else
        let r := g.relocsLand x q.regions
        if r.code ≠ 0 then (r, x, []) else (plainRes 0, x, ev)
    | (c, _, _) => no c

/-! ## Making a plan resident -/

/-- The value of a constant slot (Table 7-7); STEP slots are 0. -/
def Plan.slotValue (q : Plan) (core code : Nat) : Nat :=
  match code with
  | 0 => 0
  | 1 => core
  | 2 => q.n
  | 3 => q.node
  | 4 => q.nodes
  | _ => q.regionBase (code - 0x40) / 2 ^ 15

/-- A parameter page with its STEP slots from `vals` (four bytes a slot, in ascending slot number). -/
def pageBytes (f : Nat → Nat) : List Nat → List Byte → List Byte
  | [], _ => []
  | 0 :: t, vals => padTo 4 (vals.take 4) ++ pageBytes f t (vals.drop 4)
  | c :: t, vals => leBytes 4 (f c) ++ pageBytes f t vals

/-- Write streams, pages and region contents of the node. -/
def State.fillPlan (s : State) (g : Image) (x : Placing) (q : Plan) : State :=
  let s := (List.range q.n).foldl (fun s i =>
    let a := q.pages.getD i 0
    let pg := pageBytes (q.slotValue i) (q.slots.getD i []) []
    ((s.writeQ (q.streams.getD i (0, 0)).1 ((g.patched x q.regions i).flatMap (fun c => leBytes 64 c.toNat))).writeQ a pg).writeQ
      (a + 256) pg) s
  ((g.regions.filter (fun r => r.node == x.node)).zipIdx).foldl (fun s r =>
    s.writeQ (x.regions.getD r.2 0) (match r.1.init with
      | some o => padTo r.1.size (Sys2Proof.Machine.slice g.signed o r.1.size)
      | none => List.replicate r.1.size 0)) s

/-- Assign the plan's rings (R157, R366). -/
def State.assignRings (s : State) (g : Image) (p k : Nat) (x : Placing) (q : Plan) : State :=
  ((g.ringRecs x.node).zip x.rings).foldl (fun s r =>
    s.setRing r.2 ⟨r.1.role, p + 1, q.regionBase r.1.region + r.1.off, r.1.log2n, 0, 64 * r.1.ent64, 0, 0, k, 0, 0⟩) s

/-- Make the plan of an image resident as plan `k`. -/
def State.resident (s : State) (g : Image) (p k : Nat) (x : Placing) (cores : List Nat) : State :=
  let q := g.planOf s p x cores
  let s := (s.bindPlan k q).fillPlan g x q
  let s := s.assignRings g p k x q
  s.setF F.CTL_PCDIG_DIGEST p (s.pcd q)

/-- The plan part of LOAD_PLAN after the image checks: evict, bind, place; a failed save refuses with NO_ROOM. -/
def State.loadPlan (s : State) (p : Nat) (g : Image) (x : Placing) : State × LoadRes :=
  match s.placeChecks p g x with
  | (r, x, ev) =>
    if r.code ≠ 0 then (s, r)
    else if x.others ≠ 0 then (s, plainRes x.others)
    else match s.evictAll x.sym ev x.areas with
      | (_, false) => (s, plainRes ldNO_ROOM)
      | (s, true) =>
        match bindCores (s.eligible p) g.n g.paneAlign with
        | none => (s, plainRes ldTOO_SMALL)
        | some cores =>
          let k := s.nextPlan
          ({ s with nextPlan := k + 1 }.resident g p k x cores, plainRes 0)

/-- The partition is in a step: it has arrived, runs, or its abort is not over. -/
def State.inStep (s : State) (p : Nat) : Bool := (s.part p).started || (s.part p).running || (s.part p).quieting

/-- The ARGS of a load's reply: code, node, logical core and command index. -/
def LoadRes.args (r : LoadRes) : List Byte := leBytes 4 r.code ++ leBytes 4 r.node ++ leBytes 4 r.core ++ leBytes 4 r.cmd

/-- The region bases that a successful load returns for the node (R306), written to ADDR: 8 bytes a region, its index and its base.
Their form and place are the model's (log entry 26). -/
def Plan.baseRecord (q : Plan) : List Byte := q.regions.flatMap (fun r => leBytes 1 r.idx ++ leBytes 6 r.base ++ leBytes 1 0)

/-- A partition's waiting load is taken up, or no longer waits. -/
def State.loadTaken (s : State) (p : Nat) : State := s.modPart p (fun y => { y with loadWait := false })

/-- A load waits for the step boundary (R155): the partition is in a step, and nothing stops the message before it acts. -/
def State.loadWaits (s : State) (h : Ctl) : Bool :=
  h.fn != 0 && decide (h.fn ≤ 16) && s.flag F.CTL_STATUS_READY 0 && s.controlStop 1 h .vf true false == 0 && s.inStep h.part

/-- LOAD_PLAN (R155, R436, R156 to R159, R165): the checks in order, then the plan resident or nothing changed. A load that
comes during a step waits for the boundary: it withholds the next arrival until the message is taken up again. -/
def execLoadPlan (h : Ctl) (g : Image) (x : Placing) (s : State) : Out :=
  if s.loadWaits h then .next (s.modPart h.part (fun y => { y with loadWait := true }))
  else
    (if s.flag F.CTL_STATUS_READY 0 ∧ h.fn ≠ 0 ∧ h.fn ≤ 16 then s.loadTaken h.part else s).control 1 h .vf true false fun s =>
      let p := h.part
      let r := s.imageChecks p h.len g
      if r.code ≠ 0 then (s, some ⟨resFAILED, 0, r.args⟩)
      else
        let k := s.nextPlan
        match s.loadPlan p g x with
        | (s, r) =>
          if r.code ≠ 0 then (s, some ⟨resFAILED, 0, r.args⟩)
          else
            let s : State := { s with psec := tmod PSec.init s.psec p (fun y => { y with loaded := true }) }
            let s := (s.putRecord h (s.plan k).baseRecord).1
            (s, some ⟨resOK, k, r.args⟩)

/-- The serving of a plan ends with it: its requests leave the table and its registers close. -/
def State.closeServing (s : State) (p k : Nat) : State :=
  let v := tget Serve.init s.serves p
  let open' := v.cfg ≠ [] ∧ leAt v.cfg 4 4 = k
  let wait := v.newCfg.any (fun c => leAt c 4 4 == k)
  if ¬ open' ∧ ¬ wait then s
  else
    let b := s.getF F.RQT_PART_ENT_BASE p
    let s : State :=
      { s with
        reqs := s.reqs.filter (fun e => !(decide (b ≤ e.1) && decide (e.1 < b + s.getF F.RQT_PART_ENT_COUNT p)))
        serves := tset Serve.init s.serves p { v with cfg := [], newCfg := none, newSmp := none, rows := [], outs := [], badRead := false, failed := false, heads := [] } }
    s.setFs p [(F.RQT_SERVE_OPEN, 0), (F.RQT_SERVE_COMPOSER, 0), (F.SMP_PCAND_VALID, 0), (F.RQT_PSTAT_QUEUED, 0), (F.RQT_PSTAT_ACTIVE, 0),
      (F.RQT_PSTAT_PAUSED, 0), (F.RQT_PSTAT_SPILLED, 0), (F.RQT_PAGES_HBM_FREE, 0), (F.RQT_PAGES_CEL_FREE, 0)]

/-- Records and adapter loads in progress on a jamb, one less. -/
def State.wlLess (s : State) (jamb : Nat) : State := s.setF F.DMA_WLSTAT_ACTIVE jamb (s.getF F.DMA_WLSTAT_ACTIVE jamb - 1)

/-- A record is in progress: it loads, or it forwards (R314). -/
def WRec.busy (w : WRec) : Bool := w.state == 1 || w.kind == 3

def State.qp (s : State) (i : Nat) : Qp := tget Qp.init s.qps i
def State.setQp (s : State) (i : Nat) (x : Qp) : State := { s with qps := tset Qp.init s.qps i x }

/-- The outstanding reads that a test picks are awaited no longer. -/
def State.dropReads (s : State) (f : RRead → Bool) : State :=
  s.qps.foldl (fun s e => s.setQp e.1 { e.2 with reads := e.2.reads.filter (fun r => !f r) }) s

/-- The outstanding writes of a record's forwarding, and reads of it from its predecessor, are awaited no longer. -/
def State.dropWrites (s : State) (f : Nat → Nat → Bool) : State :=
  { s with tags := s.tags.filter (fun t => match t.2 with
      | .wl k r _ => !f k r
      | .wr k r _ => !f k r
      | _ => true) }

/-- The loads of a plan end with it: ACTIVE counts them no longer, their reads and writes await nothing, and each request that waits
for its completion is answered OP_FAILED. -/
def State.dropLoads (s : State) (k : Nat) : State :=
  let q := s.plan k
  let s := (q.weights.filter WRec.busy).foldl (fun s w => s.wlLess w.jamb) s
  let loads := q.aloads.filter (fun a => a.state == 0)
  let s := loads.foldl (fun s a => s.wlLess a.jamb) s
  let s := (s.dropReads (fun r => r.plan == k)).dropWrites (fun j _ => j == k)
  let s := (q.wlCtl.toList ++ q.wlWait.map (·.1)).foldl (fun s h => s.answer 0x0A h (h.answer resFAILED)) s
  loads.foldl (fun s a => s.answer 0x0B a.ctl (a.ctl.answer resFAILED)) s

/-- Unload a plan: its cores unbound, its contexts, trees, routes and rings freed (R157, R368); PCDp of what stays, or 0, unless a
step of another plan has set it (R297). -/
def State.unload (s : State) (k : Nat) : State :=
  let s := s.dropLoads k
  let q := s.plan k
  let p := q.part
  let s := if q.evicted then s else s.unbind q
  let s := q.rings.foldl (fun s r => s.setRing r Ring.init) s
  let s := s.setPlan k Plan.init
  let s : State := { s with steps := s.steps.filter (fun r => r.plan != k) }
  let s := s.closeServing p k
  if s.inStep p then s
  else s.setF F.CTL_PCDIG_DIGEST p (match (s.plansOf p).head? with
    | some j => s.pcd (s.plan j)
    | none => 0)

/-- UNLOAD_PLAN (Table 19-4): refused with BUSY while a step of the plan runs or awaits its input digest. -/
def execUnloadPlan (h : Ctl) (s : State) : Out :=
  s.control 2 h .vf true false fun s =>
    match s.handlePlan h with
    | none => (s, some (h.answer resRANGE))
    | some _ =>
      if (s.inStep h.part ∨ (s.part h.part).waitDigest) ∧ (s.part h.part).plan = h.handle then (s, some (h.answer resBUSY))
      else (s.unload h.handle, some (h.answer resOK))

end Sys2Proof.Machine
end

