-- ==== Sys2Proof/Machine/Weights.lean ====
section
/-! DEFINITION. Loading weights: source maps, the RDMA read engine, chains and adapters (R300 to R314). -/

namespace Sys2Proof.Machine

/-! ## Records and segments (R302, R303) -/

def segBytes : Nat := 2 ^ 20

/-- Segments of a record of `len` bytes. -/
def segsOf (len : Nat) : Nat := (len + segBytes - 1) / segBytes

/-- Bytes of segment `j`. -/
def segLen (len j : Nat) : Nat := min segBytes (len - j * segBytes)

/-- The first byte of a record, and its chain word. -/
def Plan.recAddr (q : Plan) (w : WRec) : Nat := q.regionBase w.region + w.off
def Plan.chainAddr (q : Plan) (w : WRec) : Nat := q.regionBase w.region + roundUp (w.off + w.len) 64

/-- shard_digest from the segment digests (R303). -/
def shardDigest (len : Nat) (digs : List Nat) : Nat := leNat (sha384 (leBytes 8 len ++ digs.flatMap (leBytes 48)))

/-- weight_digest of a node: 48 zero bytes without a SHARD record. -/
def Plan.weightDig (q : Plan) : Nat :=
  if q.weights = [] then 0
  else leNat (sha384 (q.weights.flatMap (fun w => leBytes 4 w.shard ++ leBytes 48 (shardDigest w.len w.digs))))

def State.setRec (s : State) (k r : Nat) (w : WRec) : State :=
  let q := s.plan k
  s.setPlan k { q with weights := q.weights.set r w }

/-- No successor. -/
def noSucc : Nat := 0xFFFFF

/-- A chain word (Table 15-5). -/
def chainWord (st segs node : Nat) : List Byte :=
  padTo 64 (leBytes 1 1 ++ leBytes 1 st ++ leBytes 2 0 ++ leBytes 4 segs ++ leBytes 3 node)

/-! ## The end of records and loads (R304, R305) -/

def wlSOURCE : Nat := 1
def wlDIGEST : Nat := 2
def wlCHAIN : Nat := 3
def wlMEMORY : Nat := 4
def wlMAP : Nat := 5
def wlFULL : Nat := 6

/-- A record is held: every segment is hashed, and its digest is the one the plan expects (R304, R305). -/
def WRec.held (w : WRec) : Bool :=
  w.digs.length == segsOf w.len && (w.expect == 0 || shardDigest w.len w.digs == w.expect)

/-- Post the completion of a weight load: a code for each SHARD record, in ARGS, or at ADDR when they are more than 36 (R305,
R367). -/
def State.wlAnswer (s : State) (h : Ctl) (result : Nat) (codes : List Byte) : State :=
  let s := if codes.length ≤ 36 then s else (s.putRecord h codes).1
  s.answer 0x0A h ⟨result, h.handle, codes.take 36⟩

/-- The load of plan `k` ends when no record of it is in progress: its state, its weight digest, which every record must be loaded
for (R304), and the completion. -/
def State.wlFinish (s : State) (k : Nat) : State :=
  let q := s.plan k
  match q.wlCtl with
  | none => s
  | some h =>
    if q.weights.any WRec.busy then s
    else
      let good := q.weights.all (fun w => w.state == 2)
      let q := { q with weightState := if good then 2 else 3, weightDigest := if good then q.weightDig else 0, wlCtl := none }
      (s.setPlan k q).wlAnswer h (if good then resOK else resFAILED) (q.weights.map (fun w => BitVec.ofNat 8 w.code))

/-- A record fails with a code: the weight state is FAILED, and its reads and writes are awaited no longer. The bytes of a record
that failed with MEMORY are no longer taken as held. -/
def State.wlFail (s : State) (k r code : Nat) : State :=
  match (s.plan k).weights[r]? with
  | none => s
  | some w =>
    let s := if w.busy then s.wlLess w.jamb else s
    let s := if code = wlDIGEST then s.addF F.DMA_WLSTAT_DIGEST_FAILS w.jamb 1 else s
    let s := (s.dropReads (fun x => x.plan == k && x.item == r && !x.adapter)).dropWrites (fun j i => j == k && i == r)
    let s := s.setRec k r { w with state := 3, code := code, kind := 0, acks := [], redo := [], digs := if code = wlMEMORY then [] else w.digs }
    let q := s.plan k
    (s.setPlan k { q with weightState := 3, weightDigest := 0 }).wlFinish k

/-- Every segment of a record is hashed, and announced where it has a successor: the record is compared with EXPECT and ends
(R304, R308). -/
def State.wlEnd (s : State) (k r : Nat) : State :=
  match (s.plan k).weights[r]? with
  | none => s
  | some w =>
    let n := segsOf w.len
    if w.kind = 0 ∨ (w.succ ≠ noSucc ∧ ¬ w.lost ∧ w.ann < n) then s
    else if w.kind = 3 then ((s.setRec k r { w with kind := 0 }).wlLess w.jamb).wlFinish k
    else if w.digs.length < n then s
    else if ¬ w.held then s.wlFail k r wlDIGEST
    else ((s.setRec k r { w with state := 2, code := 0, kind := 0 }).wlLess w.jamb).wlFinish k

/-! ## Hashing and forwarding (R308) -/

/-- What the hash engine read for the next segment of record `r`. -/
def State.wlHashed (k r : Nat) (w : WRec) (p : State × MemRes) : State :=
  match p with
  | (s, .refused _) => s.wlFail k r wlMEMORY
  | (s, .ok bs) => s.setRec k r { w with digs := w.digs ++ [sha384n bs] }

/-- Read one present segment back through the hash engine, if one waits. -/
def State.wlHashStep (k r : Nat) (sym : Syms) (s : State) : State :=
  match (s.plan k).weights[r]? with
  | none => s
  | some w =>
    let j := w.digs.length
    let a := (s.plan k).recAddr w + j * segBytes
    if w.state ≠ 1 ∨ w.present ≤ j then s
    else State.wlHashed k r w ((s.markAt a).read a (segLen w.len j) sym)

/-- Read present segments back through the hash engine, at most `n`. -/
def State.wlHash (s : State) (k r n : Nat) (sym : Syms) : State := (List.range n).foldl (fun s _ => s.wlHashStep k r sym) s

/-- Send bytes to an address of another node with MEM_WR packets of at most 4,032 bytes on VC3, each awaited under `who`. -/
def State.sendBytes (s : State) (p node a : Nat) (who : Requester) (bs : List Byte) : Nat → State
  | 0 => s
  | fuel + 1 =>
    match bs with
    | [] => s
    | _ :: _ =>
      let piece := bs.take 4032
      let (s, tag) := s.newTag who
      let s := s.inject (s.mkPacket ptMEM_WR 3 node 0 0
        (reqBlock a p 0 (tag % 65536) 0 ++ padTo (roundUp piece.length 64) piece) .unit p)
      s.sendBytes p node (a + 4032) who (bs.drop 4032) fuel

/-- Packets that `sendBytes` makes of `n` bytes. -/
def packetsOf (n : Nat) : Nat := (n + 4031) / 4032

/-- What was read of the segment to forward. -/
def State.wlSend (k r : Nat) (w : WRec) (n : Nat) (p : State × MemRes) : State :=
  match p with
  | (s, .refused _) => s.wlFail k r wlMEMORY
  | (s, .ok bs) =>
    let s := s.setRec k r
      { w with
        fwd := w.fwd + 1, acks := tset 0 w.acks (w.fwd + 1) (packetsOf n), sentAt := tset 0 w.sentAt (w.fwd + 1) s.now }
    s.sendBytes (s.plan k).part w.succ (w.succAddr + w.fwd * segBytes) (.wl k r (w.fwd + 1)) bs (packetsOf n)

/-- Segments a record can forward: while it loads those hashed, else, forward only, those it holds. -/
def WRec.ready (w : WRec) : Nat := if w.state = 1 then w.digs.length else w.present

/-- Forward one ready segment, if one waits and fewer than 4 are forwarded and not announced. -/
def State.wlForwardStep (k r : Nat) (sym : Syms) (s : State) : State :=
  match (s.plan k).weights[r]? with
  | none => s
  | some w =>
    let a := (s.plan k).recAddr w + w.fwd * segBytes
    if w.kind = 0 ∨ w.succ = noSucc ∨ w.lost ∨ w.ready ≤ w.fwd ∨ w.ann + 4 ≤ w.fwd then s
    else
      let n := segLen w.len w.fwd
      State.wlSend k r w n ((s.markAt a).read a n sym)

/-- Forward ready segments, at most `n`. -/
def State.wlForward (s : State) (k r n : Nat) (sym : Syms) : State := (List.range n).foldl (fun s _ => s.wlForwardStep k r sym) s

/-- What a record can do now: hash, forward, end. `sym`: the symbol errors its reads meet. -/
def State.wlRun (s : State) (k r : Nat) (sym : Syms) : State :=
  match (s.plan k).weights[r]? with
  | none => s
  | some w => ((s.wlHash k r (segsOf w.len) sym).wlForward k r 4 sym).wlEnd k r

/-! ## RDMA READ requests (R307) -/

/-- The queue pair a record or an adapter load reads over. -/
def WRec.qp (w : WRec) : Nat := if w.alt then w.qp1 else w.qp0
def ALoad.qp (a : ALoad) : Nat := if a.alt then a.qp1 else a.qp0

/-- The read of segment `j` of a record, and of an adapter load, over the source in use. -/
def WRec.read (w : WRec) (k r j : Nat) : RRead :=
  ⟨k, r, false, j, if w.alt then w.rkey1 else w.rkey0, (if w.alt then w.raddr1 else w.raddr0) + j * segBytes, segLen w.len j, 0⟩
def ALoad.read (a : ALoad) (k j : Nat) : RRead :=
  ⟨k, a.slot, true, j, if a.alt then a.rkey1 else a.rkey0, (if a.alt then a.raddr1 else a.raddr0) + j * segBytes, segLen a.len j, 0⟩

/-- Reads outstanding for an item among those of its queue pair. -/
def awaited (l : List RRead) (k i : Nat) (adapter : Bool) : Nat :=
  (l.filter (fun r => r.plan == k && r.item == i && r.adapter == adapter)).length

/-- The segments a record still reads: while it loads from storage, those not present; once loaded, those to read again. -/
def WRec.unread (w : WRec) : List Nat :=
  if w.state = 1 ∧ w.kind = 1 then (List.range (segsOf w.len)).drop w.present else if w.state = 2 ∧ w.src = 1 then w.redo else []

/-- The next read that each record of plan `k`, and each adapter load, has for a queue pair. -/
def Plan.wanted (q : Plan) (k jamb qp : Nat) (l : List RRead) : List RRead :=
  q.weights.zipIdx.filterMap (fun x =>
    if x.1.jamb = jamb ∧ x.1.qp = qp then ((x.1.unread.drop (awaited l k x.2 false)).head?).map (x.1.read k x.2) else none) ++
  q.aloads.filterMap (fun a =>
    let j := a.present + awaited l k a.slot true
    if a.state = 0 ∧ a.jamb = jamb ∧ a.qp = qp ∧ j < segsOf a.len then some (a.read k j) else none)

/-- Issue one read on queue pair `i` when it is connected, has fewer than 16 outstanding, and a record or adapter load has one: the
first of the lowest plan (log entry 73). -/
def State.issueRead (i : Nat) (s : State) : State :=
  let x := s.qp i
  if ¬ x.conn ∨ 16 ≤ x.reads.length then s
  else match (s.plans.flatMap (fun e => e.2.wanted e.1 (i / 256) (i % 256) x.reads)).head? with
    | none => s
    | some r => s.setQp i { x with reads := x.reads ++ [r] }

/-- Every queue pair issues the reads it has room for. -/
def State.issueReads (s : State) : State :=
  s.qps.foldl (fun s e => (List.range 16).foldl (fun s _ => s.issueRead e.1) s) s

/-! ## Source maps (R306, Table 15-3) -/

def smKind (e : List Byte) : Nat := leAt e 1 1
def smJamb (e : List Byte) : Nat := leAt e 2 1
def smRecord (e : List Byte) : Nat := leAt e 4 4
def smStart (e : List Byte) : Nat := leAt e 8 4
def smPred (e : List Byte) : Nat := leAt e 12 3
def smSucc (e : List Byte) : Nat := leAt e 16 3
def smSuccAddr (e : List Byte) : Nat := leAt e 20 6
def smQp0 (e : List Byte) : Nat := leAt e 28 2
def smQp1 (e : List Byte) : Nat := leAt e 30 2

/-- The partition owns a queue pair of a jamb. -/
def State.ownsQp (s : State) (p jamb qp : Nat) : Bool := decide (qp < 256) && (s.qp (jamb * 256 + qp)).owner == p + 1

/-- An entry's own bits pass R306: version, kind, no reserved bit, and SUCC_ADDR. -/
def smFieldsOk (e : List Byte) : Bool :=
  e.length == 64 && leAt e 0 1 == 1 && decide (1 ≤ smKind e) && decide (smKind e ≤ 3) && decide (smJamb e < 2) && leAt e 3 1 == 0 &&
  leAt e 15 1 == 0 && leAt e 19 1 == 0 && leAt e 26 2 == 0 && leAt e 56 8 == 0 && decide (smPred e < 2 ^ 20) &&
  decide (smSucc e < 2 ^ 20) && smSuccAddr e % 64 == 0 && decide (smQp0 e < 256) && (smQp1 e == 0xFFFF || decide (smQp1 e < 256))

/-- The partition owns the queue pairs that a STORAGE entry names. -/
def State.smQpsOk (s : State) (p : Nat) (e : List Byte) : Bool :=
  s.ownsQp p (smJamb e) (smQp0 e) && (smQp1 e == 0xFFFF || s.ownsQp p (smJamb e) (smQp1 e))

/-- The SHARD record an entry names, by its place among the plan's SHARD records: RECORD counts every WEIGHTS record of the node. -/
def Plan.named (q : Plan) (e : List Byte) : Option Nat := q.weights.findIdx? (fun w => w.index == smRecord e)

/-- An entry passes R306 for a plan of partition `p`. A FORWARD entry asks for a record that is held or loads (log entry 73). -/
def State.mapOk (s : State) (p : Nat) (q : Plan) (e : List Byte) : Bool :=
  smFieldsOk e && (smKind e != 1 || s.smQpsOk p e) &&
  (match (q.named e).bind (q.weights[·]?) with
   | some w => decide (smStart e < segsOf w.len) && (smKind e != 3 || w.state == 1 || w.held)
   | none => false)

/-- Forwarding from an entry: it starts at START_SEG, but goes on where it was to the same successor. -/
def WRec.forward (w : WRec) (e : List Byte) : WRec :=
  if w.busy ∧ ¬ w.lost ∧ w.succ = smSucc e ∧ w.succAddr = smSuccAddr e ∧ smKind e ≠ 3 then w
  else { w with succ := smSucc e, succAddr := smSuccAddr e, fwd := smStart e, ann := smStart e, acks := [], sentAt := [], lost := false }

/-- Loading from an entry. A record that loads keeps its written segments and digests up to START_SEG (R310); one that starts to
load keeps its bytes and hashes them all. -/
def WRec.load (w : WRec) (e : List Byte) (now : Nat) : WRec :=
  let n := if w.state = 1 then min w.present (smStart e) else smStart e
  { w with
    kind := smKind e, jamb := smJamb e, start := smStart e, pred := smPred e, qp0 := smQp0 e, qp1 := smQp1 e
    rkey0 := leAt e 32 4, rkey1 := leAt e 36 4, raddr0 := leAt e 40 8, raddr1 := leAt e 48 8
    alt := false, rose := now, broke := none, state := 1, code := 0, src := smKind e, redo := [], present := n, digs := if w.state = 1 then w.digs.take n else [] }

/-- A FORWARD entry: a record that loads goes on loading; one that is held forwards only. -/
def WRec.forwardOnly (w : WRec) (e : List Byte) : WRec :=
  if w.state = 1 then w else { w with kind := 3, jamb := smJamb e, state := 2, code := 0, present := segsOf w.len }

/-- A record that starts on a chain writes its own chain word; a refused write fails it. -/
def State.ownWord (s : State) (k r : Nat) (e : List Byte) : State :=
  match (s.plan k).weights[r]? with
  | none => s
  | some w =>
    let a := (s.plan k).chainAddr w
    match (s.markAt a).write a [] (chainWord 1 0 (smPred e)) with
    | (s, .refused _) => s.wlFail k r wlMEMORY
    | (s, .ok _) => s

/-- Start, repair or forward record `r` by its valid entry (R305, R308, R310). -/
def State.mapStart (s : State) (k : Nat) (e : List Byte) (sym : Syms) : State :=
  match (s.plan k).named e with
  | none => s
  | some r =>
    match (s.plan k).weights[r]? with
    | none => s
    | some w =>
      let fresh := smKind e == 2 && !(w.state == 1 && w.kind == 2)
      let w' := if smKind e = 3 then (w.forward e).forwardOnly e else (w.forward e).load e s.now
      let s := if w'.acks = [] then s.dropWrites (fun j i => j == k && i == r) else s
      let s := if smKind e = 3 then s else s.dropReads (fun x => x.plan == k && x.item == r && !x.adapter)
      let s := if w.busy then s.wlLess w.jamb else s
      let s := (s.setRec k r w').addF F.DMA_WLSTAT_ACTIVE w'.jamb 1
      let s := if fresh then s.ownWord k r e else s
      (s.wlRun k r sym).issueReads

/-- The entries of a payload. -/
def mapEntries (bs : List Byte) : List (List Byte) := (List.range (bs.length / 64)).map (fun i => slice bs (64 * i) 64)

/-- An entry is alone in its message in naming its record. -/
def alone (es : List (List Byte)) (e : List Byte) : Bool := (es.filter (fun x => smRecord x == smRecord e)).length == 1

/-- A record of a new load without exactly one valid entry fails with MAP. -/
def State.mapFail (s : State) (k : Nat) (good : List (List Byte)) : State :=
  (List.range (s.plan k).weights.length).foldl (fun s r =>
    if good.any (fun e => (s.plan k).named e == some r) then s else s.wlFail k r wlMAP) s

/-- An entry of a message that starts no load: a FORWARD entry, or the repair of a record that loads. An entry that is not valid
fails its record with MAP; a valid one that asks a record which does not load to load is only answered (log entry 73). -/
def State.mapRepair (s : State) (k : Nat) (sym : Syms) (es : List (List Byte)) (e : List Byte) : State :=
  let q := s.plan k
  let loads := ((q.named e).bind (q.weights[·]?)).any (fun w => w.state == 1)
  if s.mapOk q.part q e && alone es e && (smKind e == 3 || loads) then s.mapStart k e sym
  else match q.named e with
    | some r => if s.mapOk q.part q e && alone es e then s else s.wlFail k r wlMAP
    | none => s

/-- The code that a repair or FORWARD entry is answered with. -/
def State.repairCode (s : State) (k : Nat) (es : List (List Byte)) (e : List Byte) : Nat :=
  let q := s.plan k
  let loads := ((q.named e).bind (q.weights[·]?)).any (fun w => w.state == 1)
  if s.mapOk q.part q e && alone es e && (smKind e == 3 || loads) then 0 else wlMAP

/-- A message starts no load: one is in progress, or every entry only forwards. -/
def Plan.repairs (q : Plan) (es : List (List Byte)) : Bool := q.wlCtl.isSome || es.all (fun e => smKind e == 3)

/-- Act on the entries of a message: repairs and FORWARD entries, answered at once with a code each, or a new load, answered by its
completion (R305, R306, R310). -/
def State.mapApply (s : State) (h : Ctl) (k : Nat) (es : List (List Byte)) (sym : Syms) : State :=
  let q := s.plan k
  if q.repairs es then
    let codes := es.map (s.repairCode k es)
    let s := s.wlAnswer h (if codes.all (· == 0) then resOK else resFAILED) (codes.map (BitVec.ofNat 8))
    es.foldl (fun s e => s.mapRepair k sym es e) s
  else
    let s := s.setPlan k { q with weightState := 1, weightDigest := 0, wlCtl := some h,
                                  weights := q.weights.map (fun w => { w with state := if w.held then w.state else 0, code := 0 }) }
    let good := es.filter (fun e => s.mapOk q.part (s.plan k) e && alone es e)
    let s := good.foldl (fun s e => s.mapStart k e sym) s
    (s.mapFail k good).wlFinish k

/-- The step of plan `k` has ended: each weight load requested in it begins (R305). -/
def State.startLoads (s : State) (k : Nat) : State :=
  let q := s.plan k
  q.wlWait.foldl (fun s x => s.mapApply x.1 k (mapEntries x.2) []) (s.setPlan k { q with wlWait := [] })

/-- The waiting loads of a partition's plans begin. -/
def State.stepEnded (s : State) (p : Nat) : State :=
  if s.inStep p then s else (s.plansOf p).foldl (fun s k => if (s.plan k).wlWait = [] then s else s.startLoads k) s

/-- WEIGHT_LOAD (R305, R306): source-map entries at ADDR. A load requested during a step of the plan begins when the step ends. -/
def execWeightLoad (h : Ctl) (sym : Syms) (s : State) : Out :=
  s.control 0x0A h .vf true false fun s =>
    match s.handlePlan h with
    | none => (s, some (h.answer resRANGE))
    | some _ =>
      if h.len % 64 ≠ 0 ∨ h.len = 0 then (s, some (h.answer resRANGE))
      else match s.payload h with
        | (s, none) => (s, some (h.answer resRANGE))
        | (s, some bs) =>
          let q := s.plan h.handle
          if s.inStep h.part ∧ (s.part h.part).plan = h.handle ∧ ¬ q.repairs (mapEntries bs) then
            (s.setPlan h.handle { q with wlWait := q.wlWait ++ [(h, bs)] }, none)
          else (s.mapApply h h.handle (mapEntries bs) sym, none)

/-! ## The RDMA read engine (R305, R307) -/

/-- QP_CONNECT (R305): the connection manager exchange of one queue pair of the partition; `ok`: the peer accepted. -/
def execQpConnect (h : Ctl) (jamb qp : Nat) (ok : Bool) (s : State) : Out :=
  s.control 0x0C h .vf true false fun s =>
    if ¬ (jamb < 2 ∧ s.ownsQp h.part jamb qp) then (s, some (h.answer resRANGE))
    else if ok then
      ((s.setQp (jamb * 256 + qp) { s.qp (jamb * 256 + qp) with conn := true }).issueReads, some (h.answer resOK))
    else (s, some (h.answer resFAILED))

/-- The base address of an adapter slot, and of its directory entry (R311). -/
def Plan.slotAt (q : Plan) (a : AArea) (i : Nat) : Nat := q.regionBase a.region + a.off + 65536 + i * a.size
def Plan.dirAt (q : Plan) (a : AArea) (i : Nat) : Nat := q.regionBase a.region + a.off + 64 * i

/-- A directory entry (Table 15-6). -/
def dirEntry (st rank id len dig : Nat) : List Byte :=
  leBytes 1 1 ++ leBytes 1 st ++ leBytes 2 rank ++ leBytes 4 id ++ leBytes 8 len ++ leBytes 48 dig

/-- Write the directory entry of slot `i`. -/
def State.setDir (s : State) (k i st rank id len dig : Nat) : State :=
  let q := s.plan k
  match q.area with
  | none => s
  | some a => s.writeQ (q.dirAt a i) (dirEntry st rank id len dig)

/-- Fields of the directory entry of slot `i`: STATE, RANK, ADAPTER, LENGTH; a poisoned entry is neither FREE nor RESIDENT (DESIGN
CHOICE, log entry 73: the spec does not say what Ranuat makes of one). -/
def State.dir (s : State) (k i : Nat) : Nat × Nat × Nat × Nat :=
  let q := s.plan k
  match q.area with
  | none => (0, 0, 0, 0)
  | some a =>
    let bs := s.bytes (q.dirAt a i) 64
    if (s.gran' (q.dirAt a i / 64)).poison then (255, 0, 0, 0) else (leAt bs 1 1, leAt bs 2 2, leAt bs 4 4, leAt bs 8 8)

/-- Ranuat reads the directory of a plan: its granules meet the checks of any read (R178, R184, R185). -/
def State.readDirs (s : State) (k : Nat) : State :=
  match (s.plan k).area with
  | none => s
  | some a => (List.range a.slots).foldl (fun (s : State) i => (s.readR ((s.plan k).dirAt a i) 64 []).1) s

/-- The directory entry of an adapter load as it stands: LOADING, RESIDENT, or FREE after a failure (Table 15-6). -/
def State.setLoadDir (s : State) (k : Nat) (a : ALoad) : State :=
  if a.state = 2 then s.setDir k a.slot 0 0 0 0 0 else s.setDir k a.slot (1 + a.state) a.rank a.id a.len a.expect

/-- Directory changes, made between steps of the plan only: the slot of a load reads LOADING, so that what it held is evicted; a
loaded adapter becomes RESIDENT, and is the slot used last; the slot of a failed load becomes FREE (R311, R312). -/
def State.applyAdapters (s : State) (k : Nat) : State :=
  let s := (s.plan k).aloads.foldl (fun s a => s.setLoadDir k a) s
  let q := s.plan k
  let used := (q.aloads.filter (fun a => a.state == 1)).foldl (fun u a => tset 0 u a.slot s.now) q.used
  s.setPlan k { q with aloads := q.aloads.filter (fun a => a.state == 0), used := used }

/-- Directory changes now, unless a step of the plan runs. -/
def State.adaptersNow (s : State) (k : Nat) : State :=
  if s.inStep (s.plan k).part ∧ (s.part (s.plan k).part).plan = k then s else s.applyAdapters k

/-- The place of the load of a slot among a plan's adapter loads. -/
def Plan.loadAt (q : Plan) (slot : Nat) : Option Nat := q.aloads.findIdx? (fun a => a.slot == slot && a.state == 0)

/-- An adapter load ends with a code. -/
def State.adapterEnd (s : State) (k i code : Nat) : State :=
  match (s.plan k).aloads[i]? with
  | none => s
  | some a =>
    let s := (s.wlLess a.jamb).dropReads (fun x => x.plan == k && x.item == a.slot && x.adapter)
    let s := if code = wlDIGEST then s.addF F.DMA_WLSTAT_DIGEST_FAILS a.jamb 1 else s
    let q := s.plan k
    let s := (s.setPlan k { q with aloads := q.aloads.set i { a with state := if code = 0 then 1 else 2 } }).adaptersNow k
    s.answer 0x0B a.ctl ⟨if code = 0 then resOK else resFAILED, a.ctl.handle, leBytes 1 code⟩

/-- What the hash engine read of the next present segment of an adapter; the last one decides the load (R312). -/
def State.adapterHashed (k i : Nat) (a : ALoad) (p : State × MemRes) : State :=
  match p with
  | (s, .refused _) => s.adapterEnd k i wlMEMORY
  | (s, .ok bs) =>
    let a := { a with digs := a.digs ++ [sha384n bs] }
    let q := s.plan k
    let s := s.setPlan k { q with aloads := q.aloads.set i a }
    if a.digs.length < segsOf a.len then s
    else s.adapterEnd k i (if shardDigest a.len a.digs = a.expect then 0 else wlDIGEST)

/-- Read the next present segment of an adapter back through the hash engine, if one waits. -/
def State.adapterHashStep (k i : Nat) (sym : Syms) (s : State) : State :=
  let q := s.plan k
  match q.aloads[i]?, q.area with
  | some a, some ar =>
    let j := a.digs.length
    let t := q.slotAt ar a.slot + j * segBytes
    if a.state ≠ 0 ∨ a.present ≤ j then s
    else State.adapterHashed k i a ((s.markAt t).read t (segLen a.len j) sym)
  | _, _ => s

/-- Where the bytes of a read go: the record's, or the slot's (R307, R311). -/
def State.readTarget (s : State) (r : RRead) : Option Nat :=
  let q := s.plan r.plan
  if r.adapter then q.area.map (fun a => q.slotAt a r.item + r.seg * segBytes)
  else (q.weights[r.item]?).map (fun w => q.recAddr w + r.seg * segBytes)

/-- A read is wholly written: its segment is present. -/
def State.readDone (s : State) (r : RRead) (sym : Syms) : State :=
  let q := s.plan r.plan
  if r.adapter then
    match q.loadAt r.item with
    | none => s
    | some i =>
      let s := s.setPlan r.plan { q with aloads := q.aloads.modify i (fun a => { a with present := r.seg + 1 }) }
      (List.range (r.seg + 1)).foldl (fun s _ => s.adapterHashStep r.plan i sym) s
  else
    match q.weights[r.item]? with
    | none => s
    | some w =>
      if w.state = 2 then s.setRec r.plan r.item { w with redo := w.redo.filter (· != r.seg) }
      else (s.setRec r.plan r.item { w with present := r.seg + 1 }).wlRun r.plan r.item sym

/-- What a read is for fails with a code. -/
def State.readFail (s : State) (r : RRead) (code : Nat) : State :=
  if r.adapter then
    match (s.plan r.plan).loadAt r.item with
    | some i => s.adapterEnd r.plan i code
    | none => s
  else s.wlFail r.plan r.item code

/-- The bytes of a response to the oldest read `r` of queue pair `i` are written: they are counted, and the read goes on or is
done. -/
def State.readGot (i : Nat) (r : RRead) (n : Nat) (sym : Syms) (p : State × MemRes) : State :=
  match p with
  | (s, .refused _) => s.readFail r wlMEMORY
  | (s, .ok _) =>
    let x := s.qp i
    let s := s.addF F.DMA_WLBYTES_BYTES (i / 256) n
    if r.got + n < r.len then s.setQp i { x with reads := { r with got := r.got + n } :: x.reads.drop 1 }
    else (s.setQp i { x with reads := x.reads.drop 1 }).readDone r sym

/-- RDMA_READ_RESPONSE (R307): the next response on a queue pair of a jamb, for its oldest outstanding read, is written straight to
memory under the key of its partition (R178), and counts under R290. `ecn`: it is marked, and a congestion notification goes. A
packet on a queue pair that is not connected is dropped and counted; one that no read awaits writes nothing. -/
def execRdmaReadResponse (jamb qp : Nat) (ecn : Bool) (data : List Byte) (sym : Syms) (s : State) : Out :=
  if ¬ jamb < 2 then .fault .noSuchUnit
  else
    let i := jamb * 256 + qp
    if s.dark ∨ s.getF F.PWR_STATUS_STATE 0 = 2 then .next s
    else if ¬ (qp < 256 ∧ (s.qp i).conn) then .next (s.addF F.DMA_WLNET_DROPPED jamb 1)
    else
      let s := if ecn then s.addF F.DMA_WLNET_CNP_SENT jamb 1 else s
      match (s.qp i).reads.head? with
      | none => .next s
      | some r =>
        match s.readTarget r with
        | none => .next s
        | some a =>
          let bs := data.take (r.len - r.got)
          .next (State.readGot i r bs.length sym ((s.markAt (a + r.got)).write (a + r.got) [] bs)).issueReads

/-- A record that reads over a failed queue pair moves to QP1 or fails. -/
def State.recExhausted (s : State) (jamb qp : Nat) (x : Nat × Nat) : State :=
  match (s.plan x.1).weights[x.2]? with
  | none => s
  | some w =>
    if w.unread = [] ∨ w.jamb ≠ jamb ∨ w.qp ≠ qp then s
    else if w.alt ∨ w.qp1 = 0xFFFF then s.wlFail x.1 x.2 wlSOURCE
    else s.setRec x.1 x.2 { w with alt := true }

/-- The same of an adapter load. -/
def State.loadExhausted (s : State) (jamb qp : Nat) (x : Nat × Nat) : State :=
  let q := s.plan x.1
  match q.aloads[x.2]? with
  | none => s
  | some a =>
    if a.state ≠ 0 ∨ a.jamb ≠ jamb ∨ a.qp ≠ qp then s
    else if a.alt ∨ a.qp1 = 0xFFFF then s.adapterEnd x.1 x.2 wlSOURCE
    else s.setPlan x.1 { q with aloads := q.aloads.set x.2 { a with alt := true } }

/-- RDMA_RETRY_EXHAUSTED (R307): a queue pair exhausts its retries; its records and adapter loads move to QP1, where they read on
from the first segment not wholly written, or fail with SOURCE. -/
def execRdmaRetryExhausted (jamb qp : Nat) (s : State) : Out :=
  if ¬ (jamb < 2 ∧ qp < 256) then .fault .noSuchUnit
  else if ¬ (s.qp (jamb * 256 + qp)).conn then .next s
  else
    let s := s.addF F.DMA_WLSTAT_QP_ERRS jamb 1
    let s := s.setQp (jamb * 256 + qp) { s.qp (jamb * 256 + qp) with conn := false, reads := [] }
    let recs := s.plans.flatMap (fun e => (List.range e.2.weights.length).map (fun r => (e.1, r)))
    let loads := s.plans.flatMap (fun e => (List.range e.2.aloads.length).reverse.map (fun r => (e.1, r)))
    .next (loads.foldl (fun s x => s.loadExhausted jamb qp x) (recs.foldl (fun s x => s.recExhausted jamb qp x) s)).issueReads

/-- INBOUND_PACKET (R307, Table 15-4): a packet that is neither a read response nor PTP. `kind` 0 connection manager on queue
pair 1, 1 ARP, 2 IPv6 neighbour discovery: passed to Ranuat; anything else is dropped and counted. An Ethernet port that is held in reset (R388) or unpowered (R424)
receives nothing. -/
def execInboundPacket (jamb kind : Nat) (s : State) : Out :=
  if ¬ jamb < 2 then .fault .noSuchUnit
  else if s.dark ∨ s.getF F.PWR_STATUS_STATE 0 = 2 ∨ kind ≤ 2 then .next s
  else .next (s.addF F.DMA_WLNET_DROPPED jamb 1)

/-! ## Chains (R308 to R310) -/

/-- CHAIN_POLL (R308): the receiving engine reads its own chain word; a word of its predecessor whose SEGS has risen makes
segments present. A word of another VERSION is not acted upon (R10). -/
def execChainPoll (k r : Nat) (sym : Syms) (s : State) : Out :=
  match (s.plan k).weights[r]? with
  | none => .next s
  | some w =>
    let a := (s.plan k).chainAddr w
    if w.state ≠ 1 ∨ w.kind ≠ 2 then .next s
    else match (s.markAt a).read a 64 sym with
      | (s, .refused _) => .next s
      | (s, .ok bs) =>
        let segs := min (leAt bs 4 4) (segsOf w.len)
        if leAt bs 0 1 ≠ 1 ∨ leAt bs 8 3 % 2 ^ 20 ≠ w.pred ∨ segs ≤ w.present then .next s
        else .next ((s.setRec k r { w with present := segs, rose := s.now, broke := none }).wlRun k r sym)

/-- CHAIN_WORD_WRITE (R308): once every write of the oldest forwarded segment and every earlier chain word is acknowledged,
the successor's chain word is written. -/
def execChainWordWrite (k r : Nat) (sym : Syms) (s : State) : Out :=
  match (s.plan k).weights[r]? with
  | none => .next s
  | some w =>
    if w.kind = 0 ∨ w.lost ∨ w.fwd ≤ w.ann ∨ tget 0 w.acks (w.ann + 1) ≠ 0 ∨ tget 0 w.acks 0 ≠ 0 then .next s
    else
      let st := if w.ann + 1 = segsOf w.len then 2 else 1
      let s := s.setRec k r { w with ann := w.ann + 1, acks := tset 0 w.acks 0 1, sentAt := tset 0 w.sentAt 0 s.now }
      let s := s.sendBytes (s.plan k).part w.succ (w.succAddr + roundUp w.len 64) (.wl k r 0) (chainWord st (w.ann + 1) s.node) 1
      .next (s.wlRun k r sym)

/-- CHAIN_BREAK (R310): SEGS has not risen for STALL_US. -/
def execChainBreak (k r : Nat) (s : State) : Out :=
  match (s.plan k).weights[r]? with
  | none => .next s
  | some w =>
    if w.state ≠ 1 ∨ w.kind ≠ 2 ∨ w.broke.isSome ∨ segsOf w.len ≤ w.present ∨
      s.now < w.rose + 1000 * s.getF F.DMA_WLCTRL_STALL_US w.jamb then .next s
    else
      let s := s.setRec k r { w with broke := some s.now }
      .next ((s.addF F.DMA_WLSTAT_BREAKS w.jamb 1).logEvent 2 0x0109 (s.plan k).part [w.index, w.present])

/-- A record's successor is lost: it is reported, and the record ends without it (R310). -/
def State.succGone (s : State) (k r : Nat) : State :=
  match (s.plan k).weights[r]? with
  | none => s
  | some w =>
    if w.lost then s
    else
      let s := (s.setRec k r { w with lost := true, acks := [] }).dropWrites (fun j i => j == k && i == r)
      (s.logEvent 2 0x0109 (s.plan k).part [w.index, w.ann]).wlEnd k r

/-- A write to the successor has waited TIMEOUT_US for its response. -/
def State.overdue (s : State) (w : WRec) : Bool :=
  w.acks.any (fun e => e.2 != 0 && decide (tget 0 w.sentAt e.1 + 1000 * s.getF F.DMA_CTRL_TIMEOUT_US w.jamb ≤ s.now))

/-- SUCC_LOST (R310): a NODE-space write to the successor, the last chain word included, gets no response within TIMEOUT_US. -/
def execSuccLost (k r : Nat) (s : State) : Out :=
  match (s.plan k).weights[r]? with
  | none => .next s
  | some w => if s.overdue w then .next (s.succGone k r) else .next s

/-- CHAIN_REPAIR_TIMEOUT (R310): no repair within REPAIR_MS fails the record with CHAIN. -/
def execChainRepairTimeout (k r : Nat) (s : State) : Out :=
  match (s.plan k).weights[r]? with
  | none => .next s
  | some w =>
    match w.broke with
    | none => .next s
    | some t =>
      if w.state ≠ 1 ∨ s.now < t + 1000000 * s.getF F.DMA_WLCTRL_REPAIR_MS w.jamb then .next s
      else .next (s.wlFail k r wlCHAIN)

/-! ## Adapters (R312) -/

/-- Requests of a partition: entries ENT_BASE to ENT_BASE + ENT_COUNT - 1. -/
def State.reqIds (s : State) (p : Nat) : List Nat :=
  (s.reqs.filter (fun e => decide (s.getF F.RQT_PART_ENT_BASE p ≤ e.1) &&
    decide (e.1 < s.getF F.RQT_PART_ENT_BASE p + s.getF F.RQT_PART_ENT_COUNT p) && e.2.state != 0)).map (·.1)

def State.req (s : State) (i : Nat) : Req := tget Req.init s.reqs i
def State.setReq (s : State) (i : Nat) (x : Req) : State := { s with reqs := tset Req.init s.reqs i x }

/-- An admitted request names an adapter. -/
def State.named (s : State) (p id : Nat) : Bool := (s.reqIds p).any (fun i => (s.req i).adapter == id)

/-- The slot of a resident adapter: RESIDENT, and no load has taken the slot. -/
def State.adapterSlot (s : State) (k id : Nat) : Option Nat :=
  match (s.plan k).area with
  | none => none
  | some a =>
    (List.range a.slots).find? (fun i =>
      (s.dir k i).1 == 2 && (s.dir k i).2.2.1 == id && (s.plan k).aloads.all (fun l => l.slot != i))

/-- A request of the step being composed uses the slot of a resident adapter (R312). -/
def State.useAdapter (s : State) (k id : Nat) : State :=
  match s.adapterSlot k id with
  | none => s
  | some i => s.setPlan k { s.plan k with used := tset 0 (s.plan k).used i s.now }

/-- The slot a load takes: the lowest FREE one, else the least recently used RESIDENT one that no admitted request names. -/
def State.chooseSlot (s : State) (p k : Nat) (a : AArea) : Option Nat :=
  let q := s.plan k
  let idle := (List.range a.slots).filter (fun i => q.aloads.all (fun l => l.slot != i))
  match idle.find? (fun i => (s.dir k i).1 == 0) with
  | some i => some i
  | none => (byKey (tget 0 q.used) (idle.filter (fun i => (s.dir k i).1 == 2 && !s.named p (s.dir k i).2.2.1))).head?

/-- ADAPTER_LOAD (R312): an adapter ID with its rank, length, expected digest and source, a STORAGE entry `e` of Table 15-3, whose
RECORD, PRED and SUCC name nothing here. A load of an adapter that is loading already is answered BUSY (log entry 73). -/
def execAdapterLoad (h : Ctl) (id rank len expect : Nat) (e : List Byte) (s : State) : Out :=
  s.control 0x0B h .vf true false fun s =>
    let s := s.readDirs h.handle
    match s.handlePlan h, (s.plan h.handle).area with
    | some q, some a =>
      if id = 0 ∨ 2 ^ 32 ≤ id ∨ rank = 0 ∨ 256 < rank ∨ len = 0 ∨ a.size < len ∨ expect = 0 then (s, some (h.answer resRANGE))
      else if (s.adapterSlot h.handle id).isSome then (s, some (h.answer resOK))
      else if q.aloads.any (fun l => l.id == id && l.state != 2) then (s, some (h.answer resBUSY))
      else if ¬ (smFieldsOk e ∧ smKind e = 1 ∧ s.smQpsOk h.part e ∧ smStart e < segsOf len) then
        (s, some ⟨resFAILED, h.handle, leBytes 1 wlMAP⟩)
      else match s.chooseSlot h.part h.handle a with
        | none => (s, some ⟨resFAILED, h.handle, leBytes 1 wlFULL⟩)
        | some i =>
          let l : ALoad := ⟨id, rank, len, expect, smJamb e, smQp0 e, smQp1 e, leAt e 32 4, leAt e 36 4, leAt e 40 8, leAt e 48 8,
            false, i, smStart e, [], 0, h⟩
          let s := (s.setPlan h.handle { q with aloads := q.aloads ++ [l] }).addF F.DMA_WLSTAT_ACTIVE (smJamb e) 1
          ((s.adaptersNow h.handle).issueReads, none)
    | _, _ => (s, some (h.answer resRANGE))

/-! ## Serving writes (R316) -/

def State.serve (s : State) (p : Nat) : Serve := tget Serve.init s.serves p
def State.modServe (s : State) (p : Nat) (f : Serve → Serve) : State :=
  { s with serves := tset Serve.init s.serves p (f (s.serve p)) }

/-- A composer writes bytes to another node; the answer is awaited. -/
def State.serveSend (s : State) (p node a : Nat) (bs : List Byte) : State :=
  (s.modServe p (fun v => { v with acks := v.acks + packetsOf bs.length })).sendBytes p node a (.serve p) bs (packetsOf bs.length)

/-- The batch headers go once every earlier write is answered. -/
def State.sendHeads (s : State) (p : Nat) : State :=
  if (s.serve p).acks ≠ 0 then s
  else (s.serve p).heads.foldl (fun s h => s.serveSend p h.1 h.2.1 h.2.2) (s.modServe p (fun v => { v with heads := [] }))

/-- A write of the composer is answered, whatever the answer (DESIGN CHOICE, log entry 46: the spec gives a refused one no effect). -/
def State.serveAck (s : State) (p : Nat) : State := (s.modServe p (fun v => { v with acks := v.acks - 1 })).sendHeads p

/-! ## Reading a record again (R392) -/

/-- The place among a record's counts of the pieces of segment `j` that are read again. -/
def redoKey (j : Nat) : Nat := 2 ^ 32 + j

/-- A piece of a bad segment has come from the predecessor: it is written in place, and the segment's last one ends the reading. A
refused read or write fails the record (log entry 73). -/
def State.redoRespond (s : State) (k r off status : Nat) (data : List Byte) : State :=
  match (s.plan k).weights[r]? with
  | none => s
  | some w =>
    if status ≠ 0 then s.wlFail k r wlSOURCE
    else match (s.markAt ((s.plan k).recAddr w + off)).write ((s.plan k).recAddr w + off) [] (data.take (w.len - off)) with
      | (s, .refused _) => s.wlFail k r wlMEMORY
      | (s, .ok _) =>
        let j := off / segBytes
        let n := tget 0 w.acks (redoKey j) - 1
        s.setRec k r { w with acks := tset 0 w.acks (redoKey j) n, redo := if n = 0 then w.redo.filter (· != j) else w.redo }

/-! ## Responses (R248) -/

/-- A response to a write of a forwarded segment (R308): one acknowledgement less. A write that the successor refuses loses it, as
one without a response does (log entry 73). -/
def State.wlRespond (s : State) (k r seg status : Nat) : State :=
  match (s.plan k).weights[r]? with
  | none => s
  | some w =>
    if status = 0 then s.setRec k r { w with acks := tmod 0 w.acks seg (· - 1) } else s.succGone k r

/-- Act on a response for its requester. -/
def State.respond (s : State) (r : Requester) (status : Nat) (data : List Byte) : State :=
  match r with
  | .load n seq i =>
    match (s.core n).pieceOf seq i with
    | none => s
    | some (e, p) =>
      if ¬ p.remote ∨ ¬ (s.core n).live seq then s
      else if status = 0 then s.arrivePiece n e i p (padTo p.len data)
      else s.coreFault n seq 0 (if status = 1 then fcMEM_RANGE else fcMEM_UNCORR)
  | .store n seq =>
    match (s.core n).store.find? (fun e => e.seq == seq) with
    | none => s
    | some e =>
      if ¬ (s.core n).live seq then s
      else if status = 0 then s.putEntry n 3 { e with acks := e.acks - 1 }
      else s.coreFault n seq 3 (if status = 1 then fcMEM_RANGE else fcMEM_UNCORR)
  | .dma j c slot => s.dmaRespond (j * 32 + c) slot status data
  | .rs j p sh => s.rsRespond (j * 16 + p) sh status data
  | .wl k r g => s.wlRespond k r g status
  | .wr k r off => s.redoRespond k r off status data
  | .serve p => s.serveAck p
  | .nobody => s

/-- The outstanding request a TAG names. -/
def State.tagged (s : State) (tag : Nat) : Option (Nat × Requester) := s.tags.find? (fun t => t.1 % 65536 == tag)

/-- The response is for a pane that is stopped, and waits in the leaf network (R212, R213): for a core there, or the data of a
channel for its window. -/
def State.rspHeld (s : State) (k : Packet) : Bool :=
  match s.tagged (leAt k.body 8 2) with
  | some (_, .load n _ _) => !s.paneUp n
  | some (_, .store n _) => !s.paneUp n
  | some (_, .dma j c slot) =>
    (s.chan (j * 32 + c)).flight.any (fun d => d.slot == slot && d.phase == 1 && !s.sideUp d.bytes true d.at')
  | _ => false

/-- MEM_RESPONSE (R248): the first waiting MEM_RSP that is not held returns to the requester its TAG names; one that names none is
dropped. -/
def execMemResponse (s : State) : Out :=
  match takeFirst (fun k => k.ptype == ptMEM_RSP && !s.rspHeld k) s.inbox with
  | none => .next s
  | some (k, rest) =>
    let s := { s with inbox := rest }
    match s.tagged (leAt k.body 8 2) with
    | none => .next s
    | some (t, r) => .next ({ s with tags := s.tags.filter (fun x => x.1 != t) }.respond r (leAt k.body 7 1) (k.body.drop 16))

end Sys2Proof.Machine
end

