-- ==== Sys2Proof/Machine/Ends.lean ====
section
/-! DEFINITION. How a step ends (R67, R143, R399, R400), and the weight loads that begin there (R305). -/

namespace Sys2Proof.Machine

/-- STEP_COMPLETE (R67, R143, R295, R305, R369): the final beat closes and the step ends; the weight loads requested in it begin. -/
def execStepComplete (p refWait : Nat) (losses : List (Nat × Nat)) (s : State) : Out :=
  if ¬ p < 16 then .fault .noSuchUnit
  else if ¬ s.stepOver p then .next s
  else .next ((s.completeStep p refWait losses).stepEnded p)

/-- The segments of a loaded record that hold a poisoned granule (Table 21-1). -/
def State.badSegs (s : State) (q : Plan) (w : WRec) : List Nat :=
  let a := q.recAddr w
  if w.state = 2 then
    ((s.gran.filter (fun e => e.2.poison && decide (a < 64 * e.1 + 64) && decide (64 * e.1 < a + w.len))).map
      (fun e => (64 * e.1 - a) / segBytes)).eraseDups
  else []

/-- This package's own uncorrectable read of a loaded weight record aborted the step: the item is replay class, and is restored here
(R392). -/
def State.weightLost (s : State) (p : Nat) : Bool :=
  let q := s.plan (s.part p).plan
  s.getF F.CTL_ABORT_NODE p == s.node && s.getF F.CTL_ABORT_CAUSE p == 1 && s.getF F.CTL_ABORT_DETAIL p == fcMEM_UNCORR &&
  q.weights.any (fun w => s.badSegs q w != [])

/-- The requests that read segment `j` of a record again from its predecessor: pieces of 4,032 bytes, by offset and length. -/
def redoPieces (len j : Nat) : List (Nat × Nat) :=
  (List.range (packetsOf (segLen len j))).map (fun i => (j * segBytes + 4032 * i, min 4032 (segLen len j - 4032 * i)))

/-- A chained record reads its bad segments again from its predecessor, with MEM_RD packets. The address of the record there is a free
value: the spec gives a successor none (DESIGN CHOICE, log entry 73). -/
def State.redoChain (s : State) (p k r : Nat) (w : WRec) : State :=
  if w.src ≠ 2 ∨ w.redo = [] then s
  else
    let (s, v) := s.takeFree
    let ps := w.redo.flatMap (redoPieces w.len)
    let s := s.setRec k r { w with acks := w.redo.foldl (fun t j => tset 0 t (redoKey j) (redoPieces w.len j).length) w.acks }
    ps.foldl (fun (s : State) x =>
      let (s, tag) := s.newTag (.wr k r x.1)
      s.inject (s.mkPacket ptMEM_RD 3 w.pred 0 0
        (reqBlock (64 * (v % 2 ^ 42) + x.1) p 0 (tag % 65536) (roundUp x.2 64)) .unit p)) s

/-- Read the bad segments of the plan's records again, in place (Table 21-1). -/
def State.rereads (s : State) (p : Nat) : State :=
  let k := (s.part p).plan
  let q := s.plan k
  let ws := q.weights.map (fun w => { w with redo := s.badSegs q w })
  ws.zipIdx.foldl (fun s x => s.redoChain p k x.2 x.1) (s.setPlan k { q with weights := ws }).issueReads

/-- QUIET_END (R305, R392, R399, R400): the quiet period of partition `p` ends, and the aborted attempt with it; the weight loads
requested in the step begin. `replay`: this node restores a replay-class item (R394); it does where a weight record of its own was
found bad, whose segments it reads again. -/
def execQuietEnd (p : Nat) (replay : Bool) (s : State) : Out :=
  if ¬ p < 16 then .fault .noSuchUnit
  else if ¬ s.quietOver p then .next s
  else
    let t := s.endQuiet p (replay || s.weightLost p)
    .next (if ¬ (s.part p).aborted then t else (if (t.part p).replaying then t.rereads p else t).stepEnded p)

end Sys2Proof.Machine
end

