-- ==== Sys2Proof/Machine/Steps.lean ====
section
/-! DEFINITION. Submitting and starting a step (R156, R159, R160, R167, R293, R369). -/

namespace Sys2Proof.Machine

/-! ## When Ranuat arrives -/

/-- The first CTRL_CQ of a partition has room, and no reply of it waits (R369). -/
def State.cqRoom (s : State) (p : Nat) : Bool :=
  s.replies.all (fun r => r.fn != p + 1) &&
  (match (s.ringsOf (p + 1) 2).head? with
   | some k => decide (0 < (s.ring k).room)
   | none => true)

/-- No pane of the partition waits for a frequency change or is stopped for one, and no crossing of its traffic has drifted
since it was calibrated (R210, R211). -/
def State.panesReady (s : State) (p : Nat) : Bool :=
  (onesOf (s.getF F.SEC_PPANE_PANES p) 32).all (fun q => !s.flag F.PANE_FREQ_PENDING q && s.getF F.PANE_FREQ_STATE q != 1) &&
  s.drifted.all (fun x => !(s.usersOf x.1 x.2).contains p)

/-- The weights of a plan are loaded and no load of them waits (R305). -/
def Plan.weightsIn (q : Plan) : Bool := q.weightState == 2 && q.wlWait == []

/-- Ranuat may arrive for a step of plan `k` of partition `p`: no step, abort, replay or load is in the way, the partition
is ACTIVE and not tampered, the pair runs and no update drains, its reply ring has room, its panes are ready, the timebase
is aligned, its weights are loaded, and the package is in RUN (R155, R165, R305, R360, R369, R374, R389, R406, R426). -/
def State.mayArrive (s : State) (p k : Nat) : Bool :=
  let x := s.part p
  !s.inStep p && !x.waitDigest && !x.replaying && !x.loadWait && s.getF F.SEC_PCTL_STATE p == 1 &&
  !s.flag F.SEC_STATUS_TAMPERED 0 && !s.pairStopped && !s.flag F.CTL_STATUS_UPDATING 0 && s.cqRoom p && s.panesReady p &&
  s.getF F.PWR_STATUS_STATE 0 == 0 && s.flag F.CTL_STATUS_READY 0 && !s.boot.quiet &&
  !s.flag F.TIME_STATUS_LEFT 0 && (s.plan k).weightsIn

/-! ## STEP slots (R159) -/

/-- STEP slots of a logical core. -/
def stepSlots (codes : List Nat) : List Nat := (List.range codes.length).filter (fun k => codes.getD k 1 == 0)

/-- STEP slots of a plan, by logical core and slot. -/
def Plan.stepCount (q : Plan) : Nat := (q.slots.map (fun c => (stepSlots c).length)).sum

/-- Write the STEP slots of one core's page from its values. -/
def State.writeSlots (s : State) (page : Nat) : List Nat → List Byte → State
  | [], _ => s
  | k :: t, vals => (s.writeQ (page + 4 * k) (padTo 4 (vals.take 4))).writeSlots page t (vals.drop 4)

/-- Write the values of every core into its page not in use, and flip PAGE (R160). -/
def State.writeParams (s : State) (q : Plan) : List (Nat × Nat) → List Byte → State
  | [], _ => s
  | (n, i) :: t, vals =>
    let pg := 1 - s.getF F.DISP_PARAM_PAGE n
    let ks := stepSlots (q.slots.getD i [])
    let s := s.writeSlots (q.pages.getD i 0 + 256 * pg) ks vals
    (s.setF F.DISP_PARAM_PAGE n pg).writeParams q t (vals.drop (4 * ks.length))

/-- The settings of a plan before each of its steps (R156 step 5): watchdog, margin, start context, route set, PCDp. -/
def State.planSettings (s : State) (p : Nat) (q : Plan) : State :=
  let s := s.setF F.BEAT_WDOG_LIMIT_US p q.wdog
  let s := s.setF F.LATCH_START_MARGIN_NS p q.margin
  let s := (List.range 32).foldl (fun s c => if s.ownsS p c then s.setF F.LATCH_SCTX_START c (bit (c == q.startCtx)) else s) s
  let s := s.setF F.RTE_PSET_SET p q.routeSet
  s.setF F.CTL_PCDIG_DIGEST p (s.pcd q)

/-! ## Input digest (R293) -/

/-- The INPUT buffers of the node in order; false when a read is refused. -/
def State.readInputs (s : State) (q : Plan) (sym : Syms) : List OutBuf → State × List Byte × Bool
  | [] => (s, [], true)
  | b :: t =>
    match s.read (q.regionBase b.region + b.offset) b.length sym with
    | (s, .refused _) => (s, [], false)
    | (s, .ok bs) =>
      let (s, more, ok) := s.readInputs q sym t
      (s, leBytes 8 b.length ++ bs ++ more, ok)

def Plan.inputs (q : Plan) : List OutBuf := q.outputs.filter (fun b => b.role == 1)

/-- Compute the input digest of the prepared step; a refused read marks its provenance invalid, and the step still runs. -/
def State.digest (s : State) (p : Nat) (sym : Syms) : State :=
  let s := (s.runPlan p).inputs.foldl (fun s b => s.markAt ((s.runPlan p).regionBase b.region + b.offset)) s
  let k := (s.part p).plan
  let q := s.plan k
  let (s, msg, ok) := s.readInputs q sym q.inputs
  let q := s.plan k
  s.setPlan k { q with inputDigest := if ok then leNat (sha384 (msg ++ (s.part p).payload)) else 0, provInvalid := !ok }

/-! ## Preparing a step -/

/-- Ready a step of a bound plan: it holds the STEP values, waits for its digest, and arrives at once when the node reads
no input. A step issued again after its STATUS 0 has no kept values: its pages still hold them (R394, R398; DEDUCED, log entry 43). -/
def State.readyStep (s : State) (p : Nat) (sym : Syms) (r : StepReq) : State :=
  let s : State := { s with serves := tmod Serve.init s.serves p (fun v => { v with failed := false }) }
  let s := s.modPart p (fun x =>
    { x with plan := r.plan, tag := r.tag, attempt := r.attempt, payload := r.vals, waitDigest := true, cq := r.cq })
  let s := s.applyAdapters r.plan
  let q := s.plan r.plan
  let s := if r.again ∧ r.vals = [] then s else s.writeParams q q.cores.zipIdx r.vals
  let s := s.planSettings p q
  if q.inputs = [] then (s.digest p sym).arrive p sym else s

/-- The first waiting step of a partition. -/
def State.nextStepOf (s : State) (p : Nat) : Option StepReq := s.steps.find? (fun r => r.part == p)

/-- A submitted step runs no attempt: its reply is OP_FAILED with the code of a restore that cannot be made (R167), or 0 when the
weights of its plan have FAILED (R305). -/
def State.refuseStep (s : State) (p : Nat) (r : StepReq) (c : Nat) : State :=
  let s := (s.modPart p (fun x => { x with lastFailed := true, endAt := s.now })).reply (p + 1) r.cq
    ((⟨p + 1, 0, 1, 3, r.plan, r.tag, 0, 0, []⟩ : Ctl).replyBytes 3 ⟨resFAILED, r.plan, leBytes 1 c⟩)
  { s with steps := s.steps.erase r }

/-- A step waits for the serving boundary: a step of the host for that of a composed step (R327), and a composed step that is issued
again for that of its failed attempt (R328, R394). -/
def State.rowsHold (s : State) (p : Nat) (r : StepReq) : Bool :=
  let v := tget Serve.init s.serves p
  v.rows != [] && (r.cq.isSome || (r.again && !v.failed))

/-- Take the first waiting step of partition `p` when it may start; an evicted plan is restored first, and a restore that
cannot be made answers the STEP with OP_FAILED (R167). -/
def State.prepare (s : State) (p : Nat) (sym : Syms) (areas : List Nat) : State :=
  match s.nextStepOf p with
  | none => s
  | some r =>
    if (s.plan r.plan).weightState = 3 then s.refuseStep p r 0
    else if ¬ s.mayArrive p r.plan ∨ s.rowsHold p r then s
    else
      let s : State := { s with steps := s.steps.erase r }
      if ¬ (s.plan r.plan).evicted then s.readyStep p sym r
      else match s.restore p r.plan areas sym with
        | (s, 0) => s.readyStep p sym r
        | (s, c) => s.refuseStep p r c

/-- STEP (R369): the host submits a step's STEP-slot values; Ranuat writes them and arrives when the partition may start.
Steps of a plan whose weights FAILED are refused (R305). `areas` are context areas for a restore, `sym` the symbol errors that its
reads meet. -/
def execStep (h : Ctl) (areas : List Nat) (sym : Syms) (s : State) : Out :=
  s.control 3 h .vf true false fun s =>
    match s.handlePlan h with
    | none => (s, some (h.answer resRANGE))
    | some q =>
      if q.weightState = 3 then (s, some (h.answer resFAILED))
      else if h.len ≠ 4 * q.stepCount then (s, some (h.answer resRANGE))
      else match s.payload h with
        | (s, none) => (s, some (h.answer resRANGE))
        | (s, some vals) =>
          let s : State := { s with steps := s.steps ++ [⟨h.part, h.handle, h.tag, vals, 0, false, some (s.ring h.sq).pair⟩] }
          (s.prepare h.part sym areas, none)

/-- Ranuat makes no arrival now: the pair is stopped, an update drains, the device is tampered, holds after PWRFAIL_N, or is not in
RUN (R360, R374, R389, R406, R426). -/
def State.arrivalsHeld (s : State) : Bool :=
  s.pairStopped || s.flag F.CTL_STATUS_UPDATING 0 || s.flag F.SEC_STATUS_TAMPERED 0 || s.boot.quiet || s.getF F.PWR_STATUS_STATE 0 != 0

/-- The step that waits for its input digest is refused: the weights of its plan have FAILED meanwhile (R305). -/
def State.refuseReady (s : State) (p : Nat) : State :=
  let x := s.part p
  (s.refuseStep p ⟨p, x.plan, x.tag, x.payload, x.attempt, false, x.cq⟩ 0).modPart p (fun x => { x with waitDigest := false })

/-- INPUT_DIGEST (R293): the hash engine has read the node's inputs, and Ranuat arrives at the start context under the settings
of the step's plan (R156), once the partition's panes and crossings are ready (R210, R211) and its weights are loaded (R305). -/
def execInputDigest (p : Nat) (sym : Syms) (s : State) : Out :=
  if ¬ p < 16 then .fault .noSuchUnit
  else if ¬ (s.part p).waitDigest ∨ s.arrivalsHeld ∨ (s.part p).quieting ∨ ¬ s.panesReady p then .next s
  else if (s.runPlan p).weightState = 3 then .next (s.refuseReady p)
  else if ¬ (s.runPlan p).weightsIn then .next s
  else
    let s := s.planSettings p (s.runPlan p)
    .next ((s.digest p sym).arrive p sym)

/-- The plan of a partition's last step is resident and bound. -/
def State.planBound (s : State) (p : Nat) : Bool := (s.plansOf p).contains (s.part p).plan && !(s.runPlan p).evicted

/-- The bare write of LATCH_START.ARRIVE, of no submitted step: it is a first attempt (R435). It is ignored while WAITING is 1 or
the partition runs a step (R146), and Ranuat withholds it in the quiet period, while a load waits (R155) and while the weights of
the plan are not loaded (R305); the plan's settings, PCDp among them, are written before it (R156, R297). -/
def State.bareArrive (s : State) (p : Nat) (sym : Syms) : State :=
  if s.flag F.LATCH_START_WAITING p || (s.part p).running || (s.part p).quieting || (s.part p).loadWait ||
    (s.planBound p && !(s.runPlan p).weightsIn) then s
  else
    let s := if s.planBound p then s.planSettings p (s.runPlan p) else s
    (s.modPart p (fun x => { x with attempt := 0, tag := 0 })).arrive p sym

/-- START_ARRIVE (R146, R160): Ranuat calibrates the drifted crossings of partition `p` (`cals`: kind, number and what they
measure; R210) and arrives at its start context: for the first waiting step when one waits, else as the bare write of
LATCH_START.ARRIVE. Nothing arrives while a digest is awaited, while the pair is stopped, or while a pane or a crossing is not
ready (R211, R293, R406). In STANDBY it returns the package to RUN first (R426). -/
def execStartArrive (p : Nat) (sym : Syms) (areas : List Nat) (cals : List (Nat × Nat × Cal × Cal)) (s : State) : Out :=
  if ¬ p < 16 then .fault .noSuchUnit
  else if (s.part p).waitDigest ∨ s.arrivalsHeld then .next (if s.getF F.PWR_STATUS_STATE 0 = 1 then s.stir else s)
  else
    let s := if s.inStep p then s else s.recalibrate p cals
    if (s.nextStepOf p).isSome then .next (s.prepare p sym areas)
    else if ¬ s.panesReady p then .next s
    else .next (s.bareArrive p sym)

end Sys2Proof.Machine
end

