-- ==== Sys2Proof/Machine/Serving.lean ====
section
/-! DEFINITION. Serving requests (16): configurations, requests and customers, completion entries, admission, and the control
operations that set them. -/

namespace Sys2Proof.Machine

/-! ## The serving configuration (Table 16-1) -/

def scLanes (c : List Byte) : Nat := leAt c 2 2
def scPlan (c : List Byte) : Nat := leAt c 4 4
def scBatch (c : List Byte) : Nat := leAt c 8 6
def scShift (c : List Byte) : Nat := leAt c 14 1
def scKv (c : List Byte) : Nat := leAt c 16 6
def scHbm (c : List Byte) : Nat := leAt c 24 4
def scCelFirst (c : List Byte) : Nat := leAt c 28 4
def scCel (c : List Byte) : Nat := leAt c 32 4
def scPt (c : List Byte) : Nat := leAt c 36 6
def scMaxPages (c : List Byte) : Nat := leAt c 44 4
def scPchunks (c : List Byte) : Nat := leAt c 48 2
def scChunkMax (c : List Byte) : Nat := leAt c 52 4
def scC0 (c : List Byte) : Nat := leAt c 56 4
def scCdec (c : List Byte) : Nat := leAt c 60 2
def scCpre (c : List Byte) : Nat := leAt c 62 2
def scCctx (c : List Byte) : Nat := leAt c 64 2
def scCcctx (c : List Byte) : Nat := leAt c 66 2
def scSbatch (c : List Byte) : Nat := leAt c 68 1
def scSdcount (c : List Byte) : Nat := leAt c 69 1
def scSptokens (c : List Byte) : Nat := leAt c 70 1
def scPred (c : List Byte) : Nat := leAt c 71 1
def scSpillMs (c : List Byte) : Nat := leAt c 72 4
def scLowWater (c : List Byte) : Nat := leAt c 76 4
def scNodeTab (c : List Byte) : Nat := leAt c 80 6
def scNodes (c : List Byte) : Nat := leAt c 88 4

/-- PT_STRIDE. -/
def scStride (c : List Byte) : Nat := roundUp (4 * scMaxPages c) 64

/-- Address of a page's frame. -/
def scFrame (c : List Byte) (page : Nat) : Nat := scKv c + page * 2 ^ scShift c

/-- Every byte of a list is 0. -/
def zeros (bs : List Byte) : Bool := bs.all (· == 0)

/-- Every field of a serving configuration is in its range and no reserved bit is set. -/
def scRange (c : List Byte) : Bool :=
  decide (leAt c 1 1 < 2) && decide (1 ≤ scLanes c) && decide (scLanes c ≤ 4096) && scBatch c % 65536 == 0 &&
  decide (12 ≤ scShift c) && decide (scShift c ≤ 30) && leAt c 15 1 == 0 && scKv c % 2 ^ scShift c == 0 && leAt c 22 2 == 0 &&
  (if scCel c = 0 then scCelFirst c == 0 else decide (scHbm c ≤ scCelFirst c)) && scPt c % 64 == 0 && leAt c 42 2 == 0 &&
  decide (1 ≤ scMaxPages c) && decide (scMaxPages c ≤ 131072) && decide (scPchunks c ≤ 64) && leAt c 50 2 == 0 &&
  decide (scChunkMax c ≤ 65536) && bitsOf (scPred c) 4 3 == 0 && leAt c 86 2 == 0 && decide (1 ≤ scNodes c) &&
  decide (scNodes c ≤ 131072) && zeros (slice c 92 36)

/-- Every byte of a range lies in one of some regions; `fuel` bounds the regions it runs through. -/
def covered (rs : List Region) (a n : Nat) : Nat → Bool
  | 0 => n == 0
  | fuel + 1 =>
    n == 0 ||
    (match rs.find? (fun r => decide (r.base ≤ a) && decide (a < r.base + r.size)) with
     | some r => covered rs (r.base + r.size) (n - (r.base + r.size - a)) fuel
     | none => false)

/-- A range lies in the regions of a tier (0 HBM, 1 cellar) of the plans of the partition. -/
def State.inRegion (s : State) (p tier a n : Nat) : Bool :=
  let rs := (s.plansOf p).flatMap (fun k => (s.plan k).regions.filter (fun r => r.tier == tier))
  covered rs a n rs.length

/-- The areas of a serving configuration lie in the partition's regions. -/
def State.scAreas (s : State) (p : Nat) (c : List Byte) : Bool :=
  s.inRegion p 0 (scBatch c) 524288 && s.inRegion p 0 (scPt c) (scLanes c * scStride c) &&
  s.inRegion p 0 (scKv c) (scHbm c * 2 ^ scShift c) && s.inRegion p 1 (scFrame c (scCelFirst c)) (scCel c * 2 ^ scShift c)

/-- The slots a configuration names are STEP slots on every core of a plan. -/
def scSlots (q : Plan) (c : List Byte) : Bool :=
  let ks := [scSbatch c, scSdcount c, scSptokens c] ++ (if bitAt (scPred c) 7 then [63] else [])
  q.slots.all (fun codes => ks.all (fun k => codes.getD k 1 == 0))

/-- The bytes a new configuration of a serving partition may not change: all but C0 to C_CCTX, SPILL_MS and LOW_WATER. -/
def scFixed (c : List Byte) : List Byte := slice c 0 56 ++ slice c 68 4 ++ slice c 80 48

/-- The configuration in effect or waiting. -/
def Serve.latest (x : Serve) : List Byte := x.newCfg.getD x.cfg

/-- Code of Table 16-1's refusals; 0: accepted (R315). -/
def State.scCheck (s : State) (p : Nat) (c : List Byte) : Nat :=
  let k := scPlan c
  let cur := (s.serve p).latest
  if leAt c 0 1 ≠ 1 then 1
  else if ¬ scRange c ∨ ((s.plan k).nodes = 1 ∧ scNodeTab c ≠ 0) then 2
  else if cur ≠ [] ∧ scPlan cur = k ∧ scFixed c ≠ scFixed cur then 2
  else if ¬ s.scAreas p c then 3
  else if ¬ scSlots (s.plan k) c then 4
  else if k = 0 ∨ ¬ (s.plansOf p).contains k ∨ (cur ≠ [] ∧ scPlan cur ≠ k) then 5
  else if 2 ^ 24 < scCelFirst c + scCel c then 6
  else 0

/-- SERVE_CONFIG (R315): the configuration waits for the next step boundary, or its refusal is recorded. -/
def execServeConfig (h : Ctl) (s : State) : Out :=
  s.control 5 h .vf true false fun s =>
    if h.len ≠ 128 then (s, some (h.answer resRANGE))
    else match s.payload h with
      | (s, none) => (s, some (h.answer resRANGE))
      | (s, some c) =>
        let code := s.scCheck h.part c
        if code ≠ 0 then (s.setF F.RQT_SERVE_CFG_ERR h.part code, some ⟨resFAILED, h.handle, leBytes 1 code⟩)
        else (s.modServe h.part (fun x => { x with newCfg := some c }), some (h.answer resOK))

/-! ## The sampler configuration (Table 17-1) -/

/-- Fields in range, no reserved bit set. -/
def smpRange (c : List Byte) : Bool :=
  leAt c 1 3 == 0 && decide (1 ≤ leAt c 4 2) && decide (leAt c 4 2 ≤ 1024) && decide (8 ≤ leAt c 6 2) &&
  decide (leAt c 6 2 ≤ 1024) && leAt c 6 2 % 8 == 0 && decide (1 ≤ leAt c 8 2) && decide (leAt c 8 2 ≤ 1024) &&
  leAt c 10 2 == 0 && decide (1 ≤ leAt c 12 4) && decide (leAt c 12 4 ≤ 1048576) && leAt c 16 6 % 64 == 0 &&
  leAt c 22 6 % 64 == 0 && decide (1 ≤ leAt c 28 2) && decide (leAt c 28 2 ≤ 4096) && leAt c 30 6 % 16384 == 0 &&
  zeros (slice c 36 28)

/-- The code that refuses a sampler configuration; 0: accepted (R330). -/
def State.smpCheck (s : State) (p : Nat) (c : List Byte) : Nat :=
  let lanes := scLanes (s.serve p).cfg
  if leAt c 0 1 ≠ 1 then 1
  else if ¬ smpRange c then 2
  else if ¬ (s.inRegion p 0 (leAt c 16 6) (lanes * leAt c 4 2 * leAt c 6 2 * 8) ∧
      s.inRegion p 0 (leAt c 30 6) (lanes * 16384) ∧ s.inRegion p 0 (leAt c 22 6) (64 * leAt c 28 2)) then 3
  else if ¬ (s.flag F.RQT_SERVE_OPEN p ∧ s.flag F.RQT_SERVE_COMPOSER p) then 9
  else 0

/-- SAMPLER_CONFIG (R330): the configuration waits for the next step boundary, or is refused. -/
def execSamplerConfig (h : Ctl) (s : State) : Out :=
  s.control 6 h .vf true false fun s =>
    if h.len ≠ 64 then (s, some (h.answer resRANGE))
    else match s.payload h with
      | (s, none) => (s, some (h.answer resRANGE))
      | (s, some c) =>
        let code := s.smpCheck h.part c
        if code ≠ 0 then (s, some ⟨resFAILED, h.handle, leBytes 1 code⟩)
        else (s.modServe h.part (fun x => { x with newSmp := some (true, c) }), some (h.answer resOK))

/-- A sampler configuration takes effect: the SMP_ registers of the partition (R330, R340). -/
def State.applySmp (s : State) (p : Nat) (valid : Bool) (c : List Byte) : State :=
  s.setFs p [(F.SMP_PCAND_VALID, bit valid), (F.SMP_PCAND_BASE, leAt c 16 6 / 64), (F.SMP_PSHAPE_VOCAB, leAt c 12 4),
    (F.SMP_PSHAPE_SHARDS, leAt c 4 2), (F.SMP_PSHAPE_KM, leAt c 8 2), (F.SMP_PSHAPE_K, leAt c 6 2),
    (F.SMP_PSET_COUNT, leAt c 28 2), (F.SMP_PSET_BASE, leAt c 22 6 / 64), (F.SMP_PHIST_BASE, leAt c 30 6 / 16384)]

/-! ## Customers and targets (R317 to R319) -/

def State.cust (s : State) (i : Nat) : Cust := tget Cust.init s.custs i
def State.setCust (s : State) (i : Nat) (x : Cust) : State := { s with custs := tset Cust.init s.custs i x }

/-- The customer entry of a customer ID of a partition. -/
def State.custAt (s : State) (p id : Nat) : Nat := s.getF F.RQT_PART_CUST_BASE p + id

/-- CUSTOMER_SET (R317, Table 16-2): a customer entry waits for the next step boundary. -/
def execCustomerSet (h : Ctl) (id : Nat) (s : State) : Out :=
  s.control 7 h .vf true false fun s =>
    if h.len ≠ 64 ∨ s.getF F.RQT_PART_CUST_COUNT h.part ≤ id then (s, some (h.answer resRANGE))
    else match s.payload h with
      | (s, none) => (s, some (h.answer resRANGE))
      | (s, some c) =>
        if leAt c 0 1 ≠ 1 ∨ 2 ≤ leAt c 1 1 ∨ 3 < leAt c 2 1 ∨ leAt c 3 1 ≠ 0 ∨ 2 ^ 24 ≤ leAt c 4 4 ∨ leAt c 8 4 = 0 ∨
            2 ^ 24 ≤ leAt c 8 4 ∨ ¬ zeros (slice c 36 28) then (s, some (h.answer resRANGE))
        else (s.modServe h.part (fun x => { x with custs := x.custs ++ [(id, c)] }), some (h.answer resOK))

/-- A customer entry takes effect: enabling sets the level to the burst and starts the refill (R318); otherwise level,
remainder and time of the last refill stay. -/
def State.applyCust (s : State) (p : Nat) (x : Nat × List Byte) : State :=
  let i := s.custAt p x.1
  let old := s.cust i
  let c := x.2
  let en := bitAt (leAt c 1 1) 0
  let new : Cust := { old with en := en, maxprio := leAt c 2 1, rate := leAt c 4 4, burst := leAt c 8 4, adpLo := leAt c 16 4, adpHi := leAt c 20 4 }
  s.setCust i (if en ∧ ¬ old.en then { new with level := leAt c 8 4 * 256, rem := 0, lastTb := s.now } else new)

/-- PRIO_SET (R319): the four targets wait for the next step boundary. -/
def execPrioSet (h : Ctl) (s : State) : Out :=
  s.control 8 h .vf true false fun s =>
    if h.len ≠ 16 then (s, some (h.answer resRANGE))
    else match s.payload h with
      | (s, none) => (s, some (h.answer resRANGE))
      | (s, some c) =>
        let ts := (List.range 4).map (fun k => leAt c (4 * k) 4)
        if ts.any (fun t => decide (2 ^ 24 ≤ t)) then (s, some (h.answer resRANGE))
        else (s.modServe h.part (fun x => { x with prios := some ts }), some (h.answer resOK))

/-! ## Requests -/

/-- Live requests with a tag. -/
def State.byTag (s : State) (p tag : Nat) : Option Nat := (s.reqIds p).find? (fun i => (s.req i).tag == tag)

/-- A request holds a page in the cellar (FLAGS.SPILLED). -/
def Req.spilled (r : Req) (c : List Byte) : Bool := r.pages.any (fun g => decide (scHbm c ≤ g))

/-- A request-table entry's bytes (Table 16-6). -/
def Req.bytes (r : Req) (c : List Byte) : List Byte :=
  padTo 64 (leBytes 1 1 ++ leBytes 1 r.state ++ leBytes 1 r.prio ++ leBytes 1 (bit (r.spilled c)) ++ leBytes 2 r.customer ++
    leBytes 2 r.lane ++ leBytes 8 r.tag ++ leBytes 4 r.adapter ++ leBytes 4 r.promptLen ++ leBytes 4 r.genLimit ++
    leBytes 4 r.pos ++ leBytes 4 r.generated ++ leBytes 4 r.pages.length ++ leBytes 6 r.prompt ++ leBytes 2 r.cring ++
    leBytes 8 r.seed ++ leBytes 8 r.lastTb)

/-- REQ_QUERY (R322): the request-table entry of a tag is written to ADDR. -/
def execReqQuery (h : Ctl) (tag : Nat) (s : State) : Out :=
  s.control 9 h .vf false false fun s =>
    match s.byTag h.part tag with
    | none => (s, some (h.answer resRANGE))
    | some i =>
      match s.putRecord h ((s.req i).bytes (s.serve h.part).cfg) with
      | (s, true) => (s, some (h.answer resOK))
      | (s, false) => (s, some (h.answer resRANGE))

/-- Pages in use of a partition: those of its requests and those page moves go to. -/
def State.usedPages (s : State) (p : Nat) : List Nat :=
  (s.reqIds p).flatMap (fun i => (s.req i).pages ++ (s.req i).spill.map (·.2))

/-- Free HBM pages, and free cellar pages. -/
def hbmFree (c : List Byte) (used : List Nat) : Nat := scHbm c - (used.filter (fun g => decide (g < scHbm c))).length
def celFree (c : List Byte) (used : List Nat) : Nat := scCel c - (used.filter (fun g => decide (scHbm c ≤ g))).length

/-- The counts of RQT_PSTATp and RQT_PAGESp. -/
def State.refreshRqt (s : State) (p : Nat) : State :=
  let c := (s.serve p).cfg
  let rs := (s.reqIds p).map s.req
  let used := s.usedPages p
  s.setFs p [(F.RQT_PSTAT_QUEUED, min 65535 (rs.filter (fun r => r.state == 1)).length),
    (F.RQT_PSTAT_ACTIVE, (rs.filter (fun r => r.state == 2 || r.state == 3)).length),
    (F.RQT_PSTAT_PAUSED, (rs.filter (fun r => r.state == 4)).length),
    (F.RQT_PSTAT_SPILLED, (rs.filter (fun r => r.spilled c)).length),
    (F.RQT_PAGES_HBM_FREE, hbmFree c used), (F.RQT_PAGES_CEL_FREE, celFree c used)]

/-- A request leaves the table: its entry, lane and pages are free, and its row and output are discarded. -/
def State.dropReq (s : State) (p i : Nat) : State :=
  (s.setReq i Req.init).modServe p (fun x =>
    { x with rows := x.rows.filter (fun r => r.ent != i), outs := x.outs.filter (fun o => o.ent != i) })

/-! ## Completion entries (R321, Table 16-5) -/

def cplTOKEN : Nat := 1
def cplDONE : Nat := 2
def cplCANCELLED : Nat := 3
def cplREFUSED : Nat := 4
def cplCANCEL_MISS : Nat := 5

/-- A completion entry's bytes. -/
def cplBytes (kind reason token tag logprob pos tb : Nat) : List Byte :=
  leBytes 1 1 ++ leBytes 1 kind ++ leBytes 1 reason ++ leBytes 1 0 ++ leBytes 4 token ++ leBytes 8 tag ++ leBytes 4 logprob ++
  leBytes 4 pos ++ leBytes 8 tb

/-- Ring `k` is a completion ring of the partition. -/
def State.isCq (s : State) (p k : Nat) : Bool := (s.ring k).role == 4 && (s.ring k).fn == p + 1

/-- Post waiting entries in order; one whose ring has no room, and later ones of that ring, wait on. -/
def State.postCpl (s : State) (p : Nat) : List (Nat × List Byte) → State
  | [] => s
  | e :: t =>
    if s.isCq p e.1 ∧ 0 < (s.ring e.1).room ∧ ¬ s.pairStopped ∧ (s.serve p).cpl.all (fun w => w.1 != e.1) then
      (s.ringPut e.1 e.2).postCpl p t
    else (s.modServe p (fun x => { x with cpl := x.cpl ++ [e] })).postCpl p t

/-- Post a completion entry after those that wait. -/
def State.complete (s : State) (p k : Nat) (bs : List Byte) : State :=
  let l := (s.serve p).cpl ++ [(k, bs)]
  (s.modServe p (fun x => { x with cpl := [] })).postCpl p l

/-- Post whatever waits and now has room. -/
def State.recomplete (s : State) (p : Nat) : State :=
  let l := (s.serve p).cpl
  (s.modServe p (fun x => { x with cpl := [] })).postCpl p l

/-- The ring of an entry without a request: the ring it names, or the partition's first. -/
def State.replyRing (s : State) (p k : Nat) : Nat := if s.isCq p k then k else (s.ringsOf (p + 1) 4).headD k

/-! ## Submissions (R320, Tables 16-3 and 16-4) -/

/-- A reserved bit or value of a SUBMIT. -/
def subRsv (e : List Byte) : Bool :=
  leAt e 0 1 != 1 || leAt e 1 1 != 1 || decide (4 ≤ leAt e 2 1) || leAt e 3 1 != 0 || decide (4096 ≤ leAt e 4 2) ||
  leAt e 34 2 != 0 || !zeros (slice e 48 16)

/-- The refusal of a SUBMIT, in the order of Table 16-4; 0: admitted. While the device is TAMPERED it is refused with code TAMPERED
(R360), a value Table 16-4 gives another meaning (log entry 74). -/
def State.admitCheck (s : State) (p : Nat) (e : List Byte) : Nat :=
  let c := (s.serve p).cfg
  let id := leAt e 4 2
  let cu := s.cust (s.custAt p id)
  let adp := leAt e 16 4
  let plen := leAt e 20 4
  let len := plen + leAt e 24 4
  let pages := (len + 127) / 128
  let isOpen := s.flag F.RQT_SERVE_OPEN p
  if s.flag F.SEC_STATUS_TAMPERED 0 then resTAMPERED
  else if subRsv e ∨ plen = 0 ∨ leAt e 24 4 = 0 ∨ ¬ s.inRegion p 0 (leAt e 28 6) (4 * plen) then 1
  else if isOpen ∧ ¬ s.flag F.RQT_SERVE_COMPOSER p then 2
  else if s.getF F.RQT_PART_CUST_COUNT p ≤ id ∨ ¬ cu.en then 3
  else if leAt e 2 1 < cu.maxprio then 4
  else if adp ≠ 0 ∧ ¬ (cu.adpLo ≤ adp ∧ adp ≤ cu.adpHi) then 5
  else if 16777216 < len ∨ (isOpen ∧ (scMaxPages c < pages ∨ scHbm c + scCel c < pages)) then 6
  else if (s.byTag p (leAt e 8 8)).isSome then 7
  else if s.getF F.RQT_PART_ENT_COUNT p ≤ (s.reqIds p).length then 8
  else if ¬ (isOpen ∧ s.flag F.SMP_PCAND_VALID p) then 9
  else 0

/-- The lowest free request entry of a partition. -/
def State.freeEnt (s : State) (p : Nat) : Nat :=
  let b := s.getF F.RQT_PART_ENT_BASE p
  b + ((List.range (s.getF F.RQT_PART_ENT_COUNT p)).find? (fun i => (s.req (b + i)).state == 0)).getD 0

/-- A SUBMIT is admitted as QUEUED or refused. -/
def State.submitEntry (s : State) (p : Nat) (e : List Byte) : State :=
  let r := s.admitCheck p e
  if r ≠ 0 then
    s.complete p (s.replyRing p (leAt e 6 2)) (cplBytes cplREFUSED r 0 (leAt e 8 8) 0 0 s.now)
  else
    let q : Req :=
      { Req.init with
        state := 1, prio := leAt e 2 1, customer := leAt e 4 2, cring := leAt e 6 2, tag := leAt e 8 8
        adapter := leAt e 16 4, promptLen := leAt e 20 4, genLimit := leAt e 24 4, prompt := leAt e 28 6
        sparam := leAt e 36 4, seed := leAt e 40 8, lastTb := s.now, order := (s.serve p).order }
    (s.setReq (s.freeEnt p) q).modServe p (fun x => { x with order := x.order + 1 })

/-- A CANCEL ends a live request with its tag, at timebase `tb`, or misses. -/
def State.cancelEntry (s : State) (p tb : Nat) (e : List Byte) : State :=
  let tag := leAt e 8 8
  if leAt e 0 1 ≠ 1 ∨ ¬ zeros (Sys2Proof.Machine.slice e 2 6 ++ Sys2Proof.Machine.slice e 16 48) then
    s.complete p (s.replyRing p (leAt e 6 2)) (cplBytes cplREFUSED 1 0 tag 0 0 s.now)
  else match s.byTag p tag with
    | none => s.complete p (s.replyRing p (leAt e 6 2)) (cplBytes cplCANCEL_MISS 0 0 tag 0 0 s.now)
    | some i =>
      let r := s.req i
      ((s.dropReq p i).addF F.RQT_COUNT_CANCELLED p 1).complete p r.cring (cplBytes cplCANCELLED 0 0 tag 0 r.generated tb)

/-- The next entry of a submission ring; none when it is empty or its read is refused. -/
def State.peekSub (s : State) (k : Nat) : State × Option (List Byte) :=
  let r := s.ring k
  if r.head = r.tail then (s, none)
  else match s.readR (s.ringBase r + 64 + r.head % 2 ^ r.log2n * r.ent) 64 [] with
    | (s, .ok e) => (s, some e)
    | (s, .refused _) => (s, none)

/-- HEAD of a submission ring moves past an entry. -/
def State.popSub (s : State) (k : Nat) : State :=
  let r := s.ring k
  let hd := (r.head + 1) % 2 ^ 32
  (s.setRing k { r with head := hd }).ringWrite r 0 (leBytes 4 hd)

/-- One entry is handled; `tb`: the step end whose boundary takes it, or now. -/
def State.takeSub (s : State) (p k tb : Nat) (e : List Byte) : State :=
  let s := s.popSub k
  if leAt e 1 1 = 2 then s.cancelEntry p tb e else s.submitEntry p e

/-- Every entry present on a ring. -/
def State.takeRing (s : State) (p k tb : Nat) : Nat → State
  | 0 => s
  | fuel + 1 =>
    match s.peekSub k with
    | (s, none) => s
    | (s, some e) => (s.takeSub p k tb e).takeRing p k tb fuel

/-- Every entry present on the submission rings of a partition, ring by ring (R320). -/
def State.takeRings (s : State) (p tb : Nat) : State :=
  (s.ringsOf (p + 1) 3).foldl (fun s k => s.takeRing p k tb (2 ^ (s.ring k).log2n)) s

/-- Ring `k` is a submission ring; its partition runs no step and has no step's boundary to come, Ranuat may act on it, and no ring of
a lower number holds an entry (R320). -/
def State.subDue (s : State) (k : Nat) : Bool :=
  let p := (s.ring k).fn - 1
  (s.ring k).role == 3 && (s.ring k).fn != 0 && !s.inStep p && (s.serve p).rows == [] && !s.pairStopped && s.flag F.CTL_STATUS_READY 0 &&
  (s.ringsOf (p + 1) 3).all (fun j => decide (k ≤ j) || (s.ring j).head == (s.ring j).tail)

/-- The head entry of ring `k` is handled when `want` holds of its KIND. -/
def State.subHead (s : State) (k : Nat) (want : Nat → Bool) : State :=
  if ¬ s.subDue k then s
  else match s.peekSub k with
    | (s, none) => s
    | (s, some e) =>
      if want (leAt e 1 1) then
        let p := (s.ring k).fn - 1
        (s.takeSub p k s.now e).refreshRqt p
      else s

/-- SUBMIT (R320, R327): while the partition runs no step, the submission at the head of ring `k` is admitted as QUEUED or
refused. A KIND that is neither SUBMIT nor CANCEL is refused as FORMAT. -/
def execSubmit (k : Nat) (s : State) : Out := .next (s.subHead k (fun kind => kind != 2))

/-- CANCEL (R327): while the partition runs no step, the cancel at the head of ring `k` frees a matching live request and
posts CANCELLED, or posts CANCEL_MISS. -/
def execCancel (k : Nat) (s : State) : Out := .next (s.subHead k (fun kind => kind == 2))

end Sys2Proof.Machine
end

