-- ==== Sys2Proof/Machine/Compose.lean ====
section
/-! DEFINITION. Composing a step (R318, R323 to R326): pages, the cost model, the choice of rows, and what Ranuat writes. -/

namespace Sys2Proof.Machine

/-! ## Refill (R318) -/

/-- One customer's bucket at timebase `t`. -/
def Cust.refill (x : Cust) (t : Nat) : Cust :=
  if ¬ x.en then x
  else
    let a := x.rate * 256 * (t - x.lastTb) + x.rem
    let lvl := x.level + a / 10 ^ 9
    if x.burst * 256 ≤ lvl then { x with level := x.burst * 256, rem := 0, lastTb := t }
    else { x with level := lvl, rem := a % 10 ^ 9, lastTb := t }

/-- Every enabled customer of a partition. -/
def State.refillAll (s : State) (p : Nat) : State :=
  (List.range (s.getF F.RQT_PART_CUST_COUNT p)).foldl (fun s i =>
    s.setCust (s.custAt p i) ((s.cust (s.custAt p i)).refill s.now)) s

/-! ## Pages (R323, R324) -/

/-- The page an allocation takes, given the pages in use. -/
def findPage (c : List Byte) (used : List Nat) : Option Nat :=
  if scLowWater c < hbmFree c used then (List.range (scHbm c)).find? (fun g => !used.contains g)
  else ((List.range (scCel c)).find? (fun g => !used.contains (scCelFirst c + g))).map (scCelFirst c + ·)

/-- Up to `n` pages, one after another. -/
def findPages (c : List Byte) (used : List Nat) : Nat → List Nat
  | 0 => []
  | n + 1 =>
    match findPage c used with
    | none => []
    | some g => g :: findPages c (g :: used) n

/-- Pages that positions 0 to `n - 1` take. -/
def pagesFor (n : Nat) : Nat := (n + 127) / 128

/-! ## The cost model (R325) -/

/-- Positions below `n` in HBM and in cellar pages; a page not named counts as HBM. -/
def ctxSplit (c : List Byte) (pages : List Nat) (n : Nat) : Nat × Nat :=
  let cel := ((List.range (pagesFor n)).map (fun i =>
    if scHbm c ≤ pages.getD i 0 ∧ i < pages.length then min 128 (n - 128 * i) else 0)).sum
  (n - cel, cel)

/-- What a set of rows costs: decode rows, prefill tokens, HBM and cellar context. -/
structure Cost where
  dec : Nat
  pre : Nat
  hbm : Nat
  cel : Nat
deriving DecidableEq, Repr

def Cost.add (a b : Cost) : Cost := ⟨a.dec + b.dec, a.pre + b.pre, a.hbm + b.hbm, a.cel + b.cel⟩

/-- predict(). -/
def predict (c : List Byte) (x : Cost) : Nat :=
  scC0 c + scCdec c * x.dec + scCpre c * x.pre + scCctx c * ((x.hbm + 1023) / 1024) + scCcctx c * ((x.cel + 1023) / 1024)

/-- A row chosen so far: its request entry, the row, the pages it needs beyond those held, and its cost. -/
structure Pick where
  ent : Nat
  prio : Nat
  row : Row
  new : List Nat
  cost : Cost
deriving DecidableEq, Repr

def costOf (l : List Pick) : Cost := (l.map (·.cost)).foldl Cost.add ⟨0, 0, 0, 0⟩

/-- Rows chosen, rows passed over for budget, ring room or pages, prefill tokens so far, and the lowest paused level. -/
structure Comp where
  dec : List Pick
  pre : List Pick
  bucket : Nat
  ring : Nat
  wantPages : Bool
  paused : List Nat
  level : Option Nat
deriving DecidableEq, Repr

def Comp.picks (x : Comp) : List Pick := x.dec ++ x.pre

/-- The level of a request's customer net of the rows chosen (DEDUCED: the charge comes at the end of R325). -/
def State.levelOf (s : State) (p : Nat) (x : Comp) (r : Req) : Nat :=
  let a := s.custAt p r.customer
  (s.cust a).level -
    256 * ((x.picks.filter (fun k => k.row.charged && s.custAt p (s.req k.ent).customer == a)).map (·.row.tokens)).sum

/-- Room on a request's completion ring beyond the rows chosen and the entries that wait. -/
def State.roomFor' (s : State) (p : Nat) (x : Comp) (r : Req) : Bool :=
  s.isCq p r.cring &&
  decide (((s.serve p).cpl.filter (fun w => w.1 == r.cring)).length +
    (x.picks.filter (fun k => k.row.sample && (s.req k.ent).cring == r.cring)).length < (s.ring r.cring).room)

/-- A request's adapter is resident in the plan, or it has none. -/
def State.adapterReady (s : State) (k : Nat) (r : Req) : Bool := r.adapter == 0 || (s.adapterSlot k r.adapter).isSome

/-- Pages in use once the rows chosen have theirs. -/
def State.usedWith (s : State) (p : Nat) (x : Comp) : List Nat := s.usedPages p ++ x.picks.flatMap (·.new)

/-- One DECODE or PAUSED request: a decode row when the lanes, its adapter, its budget, a page and its ring allow it. -/
def State.tryDecode (s : State) (p : Nat) (c : List Byte) (x : Comp) (i : Nat) : Comp :=
  let r := s.req i
  let need := pagesFor (r.pos + 1) - r.pages.length
  let new := findPages c (s.usedWith p x) need
  if scLanes c ≤ x.dec.length ∨ ¬ s.adapterReady (scPlan c) r then x
  else if s.levelOf p x r < 256 then { x with bucket := x.bucket + 1 }
  else if new.length < need then { x with wantPages := true }
  else if ¬ s.roomFor' p x r then { x with ring := x.ring + 1 }
  else
    let sp := ctxSplit c (r.pages ++ new) (r.pos + 1)
    { x with dec := x.dec ++ [⟨i, r.prio, ⟨i, r.lane, 1, r.pos, 1, true, true⟩, new, ⟨1, 0, sp.1, sp.2⟩⟩] }

/-- The least TARGET_US of the priorities of the decode rows, in ns; none: unbounded. -/
def State.targetOf (s : State) (p : Nat) (l : List Pick) : Option Nat :=
  (l.filterMap (fun k => let t := s.getF F.RQT_PRIO_TARGET_US (p * 4 + k.prio); if t = 0 then none else some (1000 * t))).min?

/-- A cost exceeds the target. -/
def overTarget (c : List Byte) (target : Option Nat) (x : Cost) : Bool :=
  match target with
  | none => false
  | some t => decide (t < predict c x)

/-- The row that pauses next: the highest PRIO number, among equal the largest context. -/
def worst : List Pick → Option Pick
  | [] => none
  | k :: t =>
    match worst t with
    | none => some k
    | some b => if k.prio < b.prio ∨ (k.prio = b.prio ∧ k.row.pos < b.row.pos) then some b else some k

/-- Pause rows while the target is exceeded and two or more priorities remain. -/
def State.pause (s : State) (p : Nat) (c : List Byte) (x : Comp) : Nat → Comp
  | 0 => x
  | fuel + 1 =>
    if overTarget c (s.targetOf p x.dec) (costOf x.dec) ∧ (x.dec.any (fun a => x.dec.any (fun b => a.prio != b.prio))) then
      match worst x.dec with
      | none => x
      | some k => s.pause p c { x with dec := x.dec.erase k, paused := k.ent :: x.paused, level := some k.prio } fuel
    else x

/-- The lowest free lane. -/
def State.freeLane (s : State) (p : Nat) (c : List Byte) (x : Comp) : Option Nat :=
  let held := (s.reqIds p).map (fun i => (s.req i).lane) ++ x.pre.map (·.row.lane)
  (List.range (scLanes c)).find? (fun l => !held.contains l)

/-- The cost of a chunk of `n` tokens. -/
def chunkCost (c : List Byte) (r : Req) (new : List Nat) (n : Nat) : Cost :=
  let sp := ctxSplit c (r.pages ++ new) (r.pos + n)
  ⟨0, n, sp.1, sp.2⟩

/-- Shrink a chunk until it fits the target. -/
def shrink (c : List Byte) (r : Req) (used : List Nat) (target : Option Nat) (x : Comp) (n : Nat) : Nat → Nat
  | 0 => n
  | fuel + 1 =>
    if n = 0 then 0
    else if overTarget c target (Cost.add (costOf x.picks) (chunkCost c r (findPages c used (pagesFor (r.pos + n) - r.pages.length)) n)) then
      shrink c r used target x (n - 128) fuel
    else n

/-- The positions a prefill of a request still covers: to PROMPT_LEN, or (R395) to the position it had reached, a row not
crossing PROMPT_LEN. -/
def Req.prefillEnd (r : Req) : Nat :=
  if r.redo = 0 then r.promptLen else if r.pos < r.promptLen then min r.promptLen r.redo else r.redo

/-- Prefill rows, in the order given, until one stops the loop. -/
def State.tryPrefill (s : State) (p : Nat) (c : List Byte) (target : Option Nat) : List Nat → Comp → Comp
  | [], x => x
  | i :: t, x =>
    let r := s.req i
    let lane := if r.lane ≠ 0xFFFF then some r.lane else s.freeLane p c x
    if scPchunks c ≤ x.pre.length then x
    else if x.level.any (fun l => decide (l ≤ r.prio)) ∨ ¬ s.adapterReady (scPlan c) r then s.tryPrefill p c target t x
    else match lane with
      | none => s.tryPrefill p c target t x
      | some lane =>
        let used := s.usedWith p x
        let left := r.prefillEnd - r.pos
        let budget := if r.redo = 0 then s.levelOf p x r / 256 else left
        let n := min left (min (scChunkMax c - (x.pre.map (·.row.tokens)).sum) budget)
        let n := if n < left then n / 128 * 128 else n
        let n := shrink c r used target x n (n / 128 + 1)
        let need := pagesFor (r.pos + n) - r.pages.length
        let new := findPages c used need
        let sample := r.redo == 0 && r.pos + n == r.promptLen
        let x := if budget < left ∧ budget < 128 then { x with bucket := x.bucket + 1 } else x
        if n = 0 then x
        else if new.length < need then { x with wantPages := true }
        else if sample ∧ ¬ s.roomFor' p x r then s.tryPrefill p c target t { x with ring := x.ring + 1 }
        else s.tryPrefill p c target t
          { x with pre := x.pre ++ [⟨i, r.prio, ⟨i, lane, 2, r.pos, n, sample, r.redo == 0⟩, new, chunkCost c r new n⟩] }

/-- Requests of states, by a key. -/
def State.reqsIn (s : State) (p : Nat) (states : List Nat) (key : Req → Nat) : List Nat :=
  byKey (fun i => key (s.req i)) ((s.reqIds p).filter (fun i => states.contains (s.req i).state))

/-- The rows of the next step (R325). -/
def State.choose (s : State) (p : Nat) (c : List Byte) : Comp :=
  let dec := s.reqsIn p [3, 4] (fun r => r.prio * 2 ^ 64 + r.lastTb)
  let x := dec.foldl (s.tryDecode p c) (⟨[], [], 0, 0, false, [], none⟩ : Comp)
  let x := s.pause p c x x.dec.length
  let key := fun (r : Req) => r.prio * 2 ^ 64 + r.order
  s.tryPrefill p c (s.targetOf p x.dec) (s.reqsIn p [2] key ++ s.reqsIn p [1] key) x

/-! ## Taking the choice up -/

/-- A chosen row takes its pages and lane, and its customer is charged (R318). -/
def State.takePick (s : State) (p : Nat) (k : Pick) : State :=
  let r := s.req k.ent
  let s := s.setReq k.ent
    { r with state := if k.row.kind = 1 then 3 else 2, lane := k.row.lane, pages := r.pages ++ k.new, lastRun := s.now }
  let s := s.useAdapter (scPlan (s.serve p).cfg) r.adapter
  if k.row.charged then
    let a := s.custAt p r.customer
    s.setCust a { s.cust a with level := (s.cust a).level - 256 * k.row.tokens }
  else s

/-- Copy a page's frame. -/
def State.copyPage (s : State) (c : List Byte) (src dst : Nat) : State :=
  match s.readR (scFrame c src) (2 ^ scShift c) [] with
  | (s, .ok bs) => s.writeQ (scFrame c dst) bs
  | (s, .refused _) => s

/-- Move cellar pages of a scheduled sequence back to HBM while the free HBM pages exceed LOW_WATER plus the pages moved
(R324). -/
def State.unspill (s : State) (p : Nat) (c : List Byte) (i free moved : Nat) : List Nat → List Nat → State
  | [], done => s.setReq i { s.req i with pages := done }
  | g :: t, done =>
    if scHbm c ≤ g ∧ scLowWater c + moved < free then
      match (List.range (scHbm c)).find? (fun h => !(s.usedPages p ++ done).contains h) with
      | some h => (s.copyPage c g h).unspill p c i free (moved + 1) t (done ++ [h])
      | none => s.unspill p c i free moved t (done ++ [g])
    else s.unspill p c i free moved t (done ++ [g])

def State.unspillReq (s : State) (p : Nat) (c : List Byte) (i : Nat) : State :=
  if (s.req i).spilled c then s.unspill p c i (hbmFree c (s.usedPages p)) 0 (s.req i).pages [] else s

/-! ## What Ranuat writes (R323, R326) -/

/-- A lane table (R111, R323). -/
def laneTable (c : List Byte) (pages : List Nat) : List Byte :=
  padTo (scStride c) (pages.flatMap (fun g => leBytes 4 (g % 2 ^ 24 + 2 ^ 31)))

/-- The pages of the request that holds a lane. -/
def State.lanePages (s : State) (p lane : Nat) : List Nat :=
  match (s.reqIds p).find? (fun i => (s.req i).lane == lane) with
  | some i => (s.req i).pages
  | none => []

/-- The other nodes of the plan, from the node table: node, BATCH and PT_BASE (R316); none when the table cannot be read. -/
def State.otherNodes (s : State) (c : List Byte) : State × List (Nat × Nat × Nat) :=
  if scNodeTab c = 0 then (s, [])
  else match s.readR (scNodeTab c) (16 * scNodes c) [] with
    | (s, .refused _) => (s, [])
    | (s, .ok bs) =>
      (s, ((List.range (scNodes c)).map (fun i =>
        (leAt bs (16 * i) 3 % 2 ^ 20, leAt bs (16 * i + 4) 6, leAt bs (16 * i + 10) 6))).filter (fun x => x.1 != s.node))

/-- Write bytes here and on every other node of the plan, at `off` from an area's base. -/
def State.writeAll (s : State) (p : Nat) (base : Nat) (others : List (Nat × Nat)) (off : Nat) (bs : List Byte) : State :=
  others.foldl (fun s x => s.serveSend p x.1 (x.2 + off) bs) (s.writeQ (base + off) bs)

/-- The batch header here and on every other node, there after every earlier write is answered (R316). -/
def State.writeHead (s : State) (p : Nat) (base : Nat) (others : List (Nat × Nat)) (off : Nat) (bs : List Byte) : State :=
  ((s.writeQ (base + off) bs).modServe p (fun v => { v with heads := v.heads ++ others.map (fun x => (x.1, x.2 + off, bs)) })).sendHeads p

/-- Rewrite every lane table whose contents changed. -/
def State.writeTables (s : State) (p : Nat) (c : List Byte) (others : List (Nat × Nat × Nat)) : State :=
  (List.range (scLanes c)).foldl (fun s l =>
    let t := laneTable c (s.lanePages p l)
    if s.bytes (scPt c + l * scStride c) (scStride c) = t then s
    else s.writeAll p (scPt c) (others.map (fun x => (x.1, x.2.2))) (l * scStride c) t) s

/-- A lane record (Table 16-9). -/
def State.laneRecord (s : State) (p : Nat) (c : List Byte) (rows : List Row) (lane : Nat) : List Byte :=
  match rows.find? (fun r => r.lane == lane) with
  | none => List.replicate 32 0
  | some r =>
    let q := s.req r.ent
    let hist := s.getF F.SMP_PHIST_BASE p * 16384 + lane * 16384
    let prompt := if r.kind ≠ 2 then 0 else if r.pos < q.promptLen then q.prompt + 4 * r.pos
      else hist + 4 * ((r.pos - q.promptLen) % 4096)
    padTo 32 (leBytes 2 (r.ent - s.getF F.RQT_PART_ENT_BASE p) ++ leBytes 1 r.kind ++ leBytes 1 (bit r.sample + 2 * q.prio) ++
      leBytes 4 r.pos ++ leBytes 4 r.tokens ++
      leBytes 2 (if q.adapter = 0 then 0xFFFF else (s.adapterSlot (scPlan c) q.adapter).getD 0xFFFF) ++ leBytes 2 0 ++
      leBytes 4 (if r.kind = 1 then q.lastTok else 0) ++ leBytes 6 prompt)

/-- The batch header (Table 16-8). -/
def batchHeader (dcount ptokens prows no : Nat) : List Byte :=
  padTo 64 (leBytes 1 1 ++ leBytes 3 0 ++ leBytes 4 dcount ++ leBytes 4 ptokens ++ leBytes 4 prows ++ leBytes 8 no)

/-- The step parameters of a composed step (R326), by core and STEP slot. -/
def stepValues (q : Plan) (c : List Byte) (no dcount ptokens : Nat) : List Byte :=
  q.slots.flatMap (fun codes => (stepSlots codes).flatMap (fun k =>
    leBytes 4 (if k = scSbatch c then no % 2 else if k = scSdcount c then dcount else if k = scSptokens c then ptokens
      else if k = 63 ∧ bitAt (scPred c) 7 ∧ 0 < ptokens then 2 ^ (scPred c % 16) else 0)))

/-- Write the lane tables, the batch half with its header last, and submit the step with TAG 0. -/
def State.launch (s : State) (p : Nat) (c : List Byte) (x : Comp) (areas : List Nat) (others : List (Nat × Nat × Nat)) : State :=
  let k := scPlan c
  let no := (s.plan k).nextStep
  let rows := x.picks.map (·.row)
  let dcount := x.dec.length
  let ptokens := (x.pre.map (·.row.tokens)).sum
  let half := no % 2 * 262144
  let s := s.writeTables p c others
  let recs := (List.range (scLanes c)).flatMap (s.laneRecord p c rows)
  let bs := others.map (fun n => (n.1, n.2.1))
  let s := s.writeAll p (scBatch c) bs (half + 64) recs
  let s := s.writeHead p (scBatch c) bs half (batchHeader dcount ptokens x.pre.length no)
  let s := s.setFs p [(F.RQT_SERVE_STEP, no % 2 ^ 32), (F.RQT_STEP_PRED_NS, min (2 ^ 32 - 1) (predict c (costOf x.picks)))]
  let s := s.modServe p (fun v => { v with rows := rows, outs := [], badRead := false, failed := false })
  let s : State := { s with steps := s.steps ++ [⟨p, k, 0, stepValues (s.plan k) c no dcount ptokens, 0, false, none⟩] }
  s.prepare p [] areas

/-- The request that ends next for want of pages: the lowest priority, the newest LAST_TB, among those that hold pages. -/
def State.evictNext (s : State) (p : Nat) : Option Nat :=
  ((s.reqIds p).filter (fun i => (s.req i).pages != [])).foldl (fun b i =>
    match b with
    | none => some i
    | some j =>
      if (s.req j).prio < (s.req i).prio ∨ ((s.req j).prio = (s.req i).prio ∧ (s.req j).lastTb < (s.req i).lastTb) then some i
      else some j) none

/-- A request ends EVICTED. -/
def State.evictReq (s : State) (p i t : Nat) : State :=
  let r := s.req i
  ((s.dropReq p i).addF F.RQT_COUNT_EVICTED p 1).complete p r.cring (cplBytes cplDONE 3 0 r.tag 0 r.generated t)

/-- Compose the next step (R325); when no row can be scheduled for want of pages, requests end EVICTED until one can
(R324). -/
def State.compose (s : State) (p t : Nat) (areas : List Nat) (others : List (Nat × Nat × Nat)) : Nat → State
  | 0 => s
  | fuel + 1 =>
    let c := (s.serve p).cfg
    let x := s.choose p c
    if x.picks = [] ∧ x.wantPages then
      match s.evictNext p with
      | none => s
      | some i => (s.evictReq p i t).compose p t areas others fuel
    else
      let s := (s.addF F.RQT_COUNT_BUCKET_DEFER p x.bucket).addF F.RQT_COUNT_RING_DEFER p x.ring
      let s := x.paused.foldl (fun s i => s.setReq i { s.req i with state := 4 }) s
      if x.picks = [] then s
      else
        let s := x.picks.foldl (fun s k => s.takePick p k) s
        let s := x.picks.foldl (fun s k => s.unspillReq p c k.ent) s
        s.launch p c x areas others

end Sys2Proof.Machine
end

