-- ==== Sys2Proof/Machine/Bounded.lean ====
section
/-! DEFINITION. The VECTOR functions with an accuracy bound (R99, Table 4-10, R125): a reference value computed far
beyond FP32 precision, and a free choice of the result inside the bound around it. -/

namespace Sys2Proof.Machine

/-- Fixed point with 200 fraction bits. -/
def fx : Nat := 200
/-- ln 2, the square root of 2/pi, and 0.044715, with 200 fraction bits. -/
def fxLn2 : Int := 0xb17217f7d1cf79abc9e3b39803f2f6af40f343267298b62d8a
def fxGeluC : Int := 0xcc42299ea1b284687e59e2805d5c717fa7053e60a24e0db180
def fxGeluK : Int := 0xb727136a400fba8826aa8eb463497b7414a4d2b2bfdb4cc25

/-- The Taylor series of exp from term `k` on, `t` the last term. -/
def expTaylor (r : Int) : Nat → Nat → Int → Int
  | 0, _, _ => 0
  | n + 1, k, t => t + expTaylor r n (k + 1) (t * r / 2 ^ fx / (k + 1 : Nat))

/-- exp of a fixed-point number: a mantissa with 200 fraction bits and a binary exponent. -/
def fxExp (x : Int) : Nat × Int :=
  let n := (x + fxLn2 / 2) / fxLn2
  let r := x - n * fxLn2
  ((expTaylor r 48 0 (2 ^ fx)).toNat, n)

/-- exp as one fixed-point number (arguments below 2^10). -/
def fxExpN (x : Int) : Nat :=
  let (m, n) := fxExp x
  shl m n

/-- The odd terms of the series of atanh. -/
def atanhTaylor (z2 : Int) : Nat → Nat → Int → Int
  | 0, _, _ => 0
  | n + 1, k, t => t / (2 * k + 1 : Nat) + atanhTaylor z2 n (k + 1) (t * z2 / 2 ^ fx)

/-- The natural logarithm of `m * 2^e`. -/
def fxLog (m : Nat) (e : Int) : Int :=
  let l := log2 m
  let u : Int := ((m * 2 ^ fx : Nat) : Int) / (2 ^ l : Nat)
  let z := (u - 2 ^ fx) * 2 ^ fx / (u + 2 ^ fx)
  2 * atanhTaylor (z * z / 2 ^ fx) 80 0 z + (e + l) * fxLn2

/-- A finite value as a fixed-point number, cut at 2^12 in magnitude. -/
def fxOf (neg : Bool) (m : Nat) (e : Int) : Int :=
  let v := min (shl m (e + fx)) (2 ^ (fx + 12))
  if neg then -(v : Int) else v

/-- The magnitude of the logistic function of a fixed-point number, kept below 1. -/
def fxSigmoid (x : Int) : Nat :=
  if 0 ≤ x then
    let (m, n) := fxExp (-x)
    min (2 ^ fx - 1) (2 ^ (2 * fx) / (2 ^ fx + shl m n))
  else
    let (m, n) := fxExp x
    let E := shl m n
    E * 2 ^ fx / (2 ^ fx + E)

/-- A reference value of a function: the sign, the magnitude `m * 2^e` cut short, and whether nothing was cut. -/
structure RefVal where
  neg : Bool
  m : Nat
  e : Int
  exact : Bool
deriving DecidableEq, Repr

/-- The reference value of each function of a finite argument that Table 5-5 does not list: only RSQRT and RECIP of some
powers of two are exact. -/
def refValue (vop : Nat) (neg : Bool) (m : Nat) (e : Int) : RefVal :=
  let x := fxOf neg m e
  match vop with
  | 4 => let (a, n) := fxExp x; ⟨false, a, n - fx, false⟩
  | 5 => let y := fxLog m e; ⟨decide (y < 0), y.natAbs, -fx, false⟩
  | 7 =>
    let (m', e') := if e % 2 = 0 then (m, e) else (2 * m, e - 1)
    let r := isqrt (2 ^ 124 / m')
    ⟨neg, r, -62 - e' / 2, r * r * m' == 2 ^ 124⟩
  | 8 => ⟨neg, 2 ^ 80 / m, -80 - e, 2 ^ 80 % m == 0⟩
  | 9 =>
    let E := fxExpN (min (2 * x.natAbs) (2 ^ (fx + 6)))
    ⟨neg, (E - 2 ^ fx) * 2 ^ fx / (E + 2 ^ fx), -fx, false⟩
  | 10 => ⟨false, fxSigmoid x, -fx, false⟩
  | 11 => ⟨neg, m * fxSigmoid x, e - fx, false⟩
  | _ =>
    let x3 := x * x / 2 ^ fx * x / 2 ^ fx
    let u := fxGeluC * (x + fxGeluK * x3 / 2 ^ fx) / 2 ^ fx
    ⟨neg, m * fxSigmoid (max (-(2 ^ (fx + 12) : Nat) : Int) (min (2 ^ (fx + 12) : Nat) (2 * u))), e - fx, false⟩

/-- The accuracy bound of a function in units of the last place (Table 4-10). -/
def ulpBound (vop : Nat) : Nat :=
  match vop with
  | 7 => 1
  | 8 => 1
  | 4 => 2
  | 5 => 2
  | _ => 4

/-- The exponent of the unit in the last place of a reference value in FP32. -/
def RefVal.ulp (r : RefVal) : Int := if r.m = 0 then -149 else max ((log2 r.m : Int) + r.e) (-126) - 23

/-- The code of a magnitude rounded down, and whether the magnitude lies above it. -/
def floorCode (m : Nat) (e : Int) (sticky : Bool) : Nat × Bool :=
  if m = 0 then (0, sticky)
  else let r := fp32.roundFin false m e sticky .rtz true; (r.val, r.fl != 0)

/-- The lowest and the highest code, counted from the zero of the reference's sign and negative below it, that lies within
`B` units in the last place of the exact value. -/
def RefVal.within (r : RefVal) (B : Nat) : Int × Int :=
  let q := r.ulp
  let e := min r.e q
  let m := r.m * 2 ^ (r.e - e).toNat
  let d := B * 2 ^ (q - e).toNat
  let hi := (floorCode (m + d) e false).1
  if d ≤ m then
    let (c, above) := floorCode (m - d) e (!r.exact)
    (c + bit above, hi)
  else (-(((d - m - bit (!r.exact)) / 2 ^ (q - e).toNat : Nat) : Int), hi)

/-- The result of a bounded function on a finite argument that Table 5-5 does not list: a free choice among the codes
within the bound of Table 4-10, in units in the last place of the exact value; a magnitude that rounds above the largest finite
value is infinite with OF (Table 5-6); NX is raised (R125), and UF when a non-zero exact result below the smallest normal is not
delivered as it is (Table 5-6). -/
def boundedResult (vop : Nat) (code : Nat) (neg : Bool) (m : Nat) (e : Int) : Flagged :=
  let r := refValue vop neg m e
  if r.m ≠ 0 ∧ (fp32.roundFin false r.m r.e true .rne false).val = fp32.infCode then
    ⟨fp32.sign r.neg + fp32.infCode, orf flagOF flagNX⟩
  else
    let (lo, hi) := r.within (ulpBound vop)
    let z := lo + ((Config.ulpChoice vop (BitVec.ofNat 32 code)) % (hi - lo + 1).toNat : Nat)
    let tiny := decide (r.m = 0 ∨ (log2 r.m : Int) + r.e < -126)
    let same := r.exact && !decide (z < 0) && floorCode r.m r.e false == (z.toNat, false)
    ⟨fp32.sign (r.neg != decide (z < 0)) + z.natAbs, if tiny && !same then orf flagUF flagNX else flagNX⟩

/-- EXP, LOG, RSQRT, RECIP, TANH, SIGMOID, SILU and GELU of an FP32 code (Table 5-5, R125). -/
def boundedFn (vop : Nat) (a : Nat) : Flagged :=
  let one := 0x3F800000
  match fp32.decode a with
  | .nan => ⟨fp32.nanCode, 0⟩
  | .inf n =>
    match vop with
    | 4 => ⟨if n then 0 else fp32.infCode, 0⟩
    | 5 => if n then ⟨fp32.nanCode, flagNV⟩ else ⟨fp32.infCode, 0⟩
    | 7 => if n then ⟨fp32.nanCode, flagNV⟩ else ⟨0, 0⟩
    | 8 => ⟨fp32.sign n, 0⟩
    | 9 => ⟨fp32.sign n + one, 0⟩
    | 10 => ⟨if n then 0 else one, 0⟩
    | _ => ⟨if n then fp32.sign true else fp32.infCode, 0⟩
  | .fin n m e =>
    if m = 0 then
      match vop with
      | 4 => ⟨one, 0⟩
      | 5 => ⟨fp32.sign true + fp32.infCode, flagDZ⟩
      | 7 => ⟨fp32.sign n + fp32.infCode, flagDZ⟩
      | 8 => ⟨fp32.sign n + fp32.infCode, flagDZ⟩
      | 10 => ⟨0x3F000000, 0⟩
      | _ => ⟨fp32.sign n, 0⟩
    else if vop = 5 ∧ n = true then ⟨fp32.nanCode, flagNV⟩
    else if vop = 7 ∧ n = true then ⟨fp32.nanCode, flagNV⟩
    else if vop = 5 ∧ a = one then ⟨0, 0⟩
    else if vop = 4 ∧ n = false ∧ 0x42B17218 ≤ a then ⟨fp32.infCode, orf flagOF flagNX⟩
    else boundedResult vop a n m e

end Sys2Proof.Machine
end

