-- ==== Sys2Proof/Machine/Matrix.lean ====
section
/-! DEFINITION. The MATRIX engine (R86 to R96): MM_WLOAD, MM_STREAM and MM_DRAIN. -/

namespace Sys2Proof.Machine

/-- Raise flags of MATRIX (bits 5:0) or VECTOR (bits 13:8) of CORE_AFLAGS (R129). -/
def State.raiseM (s : State) (n fl : Nat) : State := s.wrReg .CORE_AFLAGS n (s.rdReg .CORE_AFLAGS n ||| fl)
def State.raiseV (s : State) (n fl : Nat) : State := s.wrReg .CORE_AFLAGS n (s.rdReg .CORE_AFLAGS n ||| 2 ^ 8 * fl)

/-- The element codes of one row of a scratchpad operand. -/
def State.rowCodes (s : State) (n : Nat) (f addr d0 : Nat) : List Nat :=
  let bs := s.spad n addr (fmtLen f d0)
  (List.range d0).map (elemAt f bs)

/-- The E8M0 scale bytes of one row (R83). -/
def State.rowScales (s : State) (n addr d0 : Nat) : List Nat := (s.spad n addr (d0 / 32)).map (·.toNat)

/-- MM_WLOAD (R89): the tile becomes the pending tile, replacing one already pending. -/
def execMmWload (core : Nat) (s : State) : Out :=
  if ¬ unitOk core 1 then .fault .noSuchUnit
  else s.runHead core 1 .mmWload fun s e =>
    let c := e.cmd
    let sh := shapeOf c
    let f := mmFmt c
    let a := spadDesc c 24
    let b := spadDesc c 37
    let tile : Tile :=
      { fmt := f, k := sh.d0, n := sh.d1, scale := if isPerTensor f then cbytes c 50 4 else 0
        rows := sh.rows.map (fun r => s.rowCodes core f (a.row a.base r).toNat sh.d0)
        scales := if isMx f then sh.rows.map (fun r => s.rowScales core (b.row b.base r).toNat sh.d0) else [] }
    .next ((s.modCore core (fun k => { k with shadow := some tile })).markStarted core 1 e)

/-- One element with its block scale byte: 0xFF makes it NaN (R113, R117). -/
def scaledElem (f code scale : Nat) : Num := if isMx f && scale == 0xFF then .nan else decodeElem f code

/-- The exact value of an E8M0 byte, and of a per-tensor scale. -/
def e8m0 (b : Nat) : Exact := ⟨1, (b : Int) - 127⟩
def scaleExact (c : Nat) : Exact := (fp32.decode c).exact

/-- The segment result of segment `g` of an activation row against a weight row (R90, R115 to R118). -/
def segResult (wf af : Nat) (w a wsc asc : List Nat) (wScale aScale g : Nat) : Flagged :=
  let wb := wsc.getD g 0
  let ab := asc.getD g 0
  let ws := ((w.drop (32 * g)).take 32).map (fun x => scaledElem wf x wb)
  let as := ((a.drop (32 * g)).take 32).map (fun x => scaledElem af x ab)
  let scale : Exact :=
    if isMx wf then (e8m0 wb).mul (e8m0 ab)
    else if isPerTensor wf then (scaleExact wScale).mul (scaleExact aScale) else ⟨1, 0⟩
  segment (products ws as) scale (wf == 1 || wf == 2)

/-- The recurrence of R90 over the segments of one row and column. -/
def accumulate (start : Option Nat) (rs : List Flagged) : Flagged :=
  match start, rs with
  | none, [] => ⟨0, 0⟩
  | none, r :: t => t.foldl (fun a x => let y := fadd a.val x.val; ⟨y.val, orf a.fl (orf x.fl y.fl)⟩) r
  | some v, rs => rs.foldl (fun a x => let y := fadd a.val x.val; ⟨y.val, orf a.fl (orf x.fl y.fl)⟩) ⟨v, 0⟩

/-- An accumulator entry; every row reads +0.0 at step start (R95). -/
def Core.accAt (k : Core) (row col : Nat) : Nat := tget 0 (tget [] k.acc row) col
def Core.setAcc (k : Core) (row col v : Nat) : Core :=
  { k with acc := tset [] k.acc row (tset 0 (tget [] k.acc row) col v) }

/-- One activation row against the tile: columns below the tile's N are written. -/
def Core.streamRow (k : Core) (t : Tile) (af aScale : Nat) (cont : Bool) (row : Nat) (a asc : List Nat) : Core × Nat :=
  (List.range t.n).foldl (fun (p : Core × Nat) col =>
    let rs := (List.range (t.k / 32)).map
      (segResult t.fmt af (t.rows.getD col []) a (t.scales.getD col []) asc t.scale aScale)
    let r := accumulate (if cont then some (p.1.accAt row col) else none) rs
    (p.1.setAcc row col r.val, orf p.2 r.fl)) (k, 0)

/-- The tile checks of MM_STREAM (R90, R434): 0, or the failing code. -/
def tileCheck (t : Option Tile) (c : Cmd) : Nat :=
  match t with
  | none => fcNO_WEIGHTS
  | some t => if ¬ pairOk t.fmt (mmFmt c) then fcFMT_PAIR else if t.k ≠ (shapeOf c).d0 then fcK_MISMATCH else 0

/-- The tile an MM_STREAM uses: the pending one, or the active one. -/
def Core.tile (k : Core) : Option Tile := if k.shadow.isSome then k.shadow else k.active

/-- MM_STREAM (R90): a pending tile becomes ACTIVE, and each activation row is accumulated in walk order. -/
def execMmStream (core : Nat) (s : State) : Out :=
  if ¬ unitOk core 1 then .fault .noSuchUnit
  else s.runHead core 1 .mmStream fun s e =>
    let c := e.cmd
    let k := s.core core
    let f := tileCheck k.tile c
    match k.tile with
    | none => .next (s.coreFault core e.seq 1 f)
    | some t =>
      if f ≠ 0 then .next (s.coreFault core e.seq 1 f)
      else
        let sh := shapeOf c
        let a := spadDesc c 24
        let b := spadDesc c 37
        let k := { k with active := some t, shadow := none }
        let (k, fl) := (sh.rows.zipIdx).foldl (fun (p : Core × Nat) (r : (Nat × Nat × Nat) × Nat) =>
          let codes := s.rowCodes core (mmFmt c) (a.row a.base r.1).toNat sh.d0
          let sc := if isMx (mmFmt c) then s.rowScales core (b.row b.base r.1).toNat sh.d0 else []
          let (k, fl) := p.1.streamRow t (mmFmt c) (cbytes c 54 4) (contOf c) (accRow c + r.2) codes sc
          (k, orf p.2 fl)) (k, 0)
        .next (((s.setCore core k).raiseM core fl).markStarted core 1 e)

/-- The rounding of an output element: RND with the draw of its key (R121, R126, R127). -/
def rndOf (code seed tid idx : Nat) : Rnd :=
  match code with
  | 0 => .rne
  | 1 => .rtz
  | _ => .stoch (srg seed tid (idx % 2 ^ 32))

/-- The largest magnitude of a block, as an exact number (0 when every value is zero). -/
def blockMax (xs : List Num) : Exact :=
  xs.foldl (fun m x => match x with
    | .fin _ k e => if k = 0 then m else if m.z = 0 ∨ m.msb < (log2 k : Int) + e then ⟨k, e⟩ else m
    | _ => m) ⟨0, 0⟩

/-- One MX block: its scale byte and element codes with flags (R123). `rs` holds the rounding of each element. -/
def mxBlock (f : Nat) (xs : List Num) (rs : List Rnd) : Nat × List Flagged × Nat :=
  let nan := xs.any (· == .nan)
  let inf := xs.any (fun x => match x with | .inf _ => true | _ => false)
  if nan || inf then
    (0xFF, xs.map (fun _ => ⟨0, 0⟩), orf (if nan then flagNV else 0) (if inf then flagOF else 0))
  else
    let m := blockMax xs
    let e : Int := if m.z = 0 then 0 else max (-127) (min 127 (m.msb - emaxOf f))
    let F := outFmt f
    (if m.z = 0 then 0x7F else (e + 127).toNat,
     (xs.zip rs).map (fun p => match p.1 with
       | .fin neg k x =>
         if k = 0 then ⟨F.sign neg, 0⟩
         else if F.above k (x - e) then ⟨F.sign neg + F.maxCode, orf flagSA flagNX⟩
         else F.roundFin neg k (x - e) false p.2 true
       | _ => ⟨0, 0⟩), 0)

/-- The blocks of one drained row: scale bytes, element codes and flags. -/
def mxRow (f : Nat) : Nat → List Num → List Rnd → List Nat × List Nat × Nat
  | 0, _, _ => ([], [], 0)
  | n + 1, xs, rs =>
    let (sc, els, fl) := mxBlock f (xs.take 32) (rs.take 32)
    let (scs, codes, fl') := mxRow f n (xs.drop 32) (rs.drop 32)
    (sc :: scs, els.map (·.val) ++ codes, orf (els.foldl (fun a x => orf a x.fl) fl) fl')

/-- MM_DRAIN (R92): accumulator rows are scaled, converted and written; the accumulator keeps its contents. With an MX format each
row's elements are written before its scales, which shows where A and B overlap (DESIGN CHOICE, log entry 76). -/
def execMmDrain (core : Nat) (s : State) : Out :=
  if ¬ unitOk core 1 then .fault .noSuchUnit
  else s.runHead core 1 .mmDrain fun s e =>
    let c := e.cmd
    let sh := shapeOf c
    let f := mmFmt c
    let a := spadDesc c 24
    let b := spadDesc c 37
    let seed := (s.planOfCore core).seed
    let k := s.core core
    let (s, fl) := (sh.rows.zipIdx).foldl (fun (p : State × Nat) (r : (Nat × Nat × Nat) × Nat) =>
      let vals := (List.range sh.d0).map (fun col => fmul (k.accAt (accRow c + r.2) col) (cbytes c 52 4))
      let rs := (List.range sh.d0).map (fun col =>
        rndOf (mmRnd c) seed (cbytes c 56 2) (cbytes c 58 4 + r.2 * sh.d0 + col))
      let fl := vals.foldl (fun x v => orf x v.fl) p.2
      let xs := vals.map (fun v => fp32.decode v.val)
      if isMx f then
        let (scs, codes, fl') := mxRow f (sh.d0 / 32) xs rs
        let s := p.1.setSpad core (a.row a.base r.1).toNat (packRow f codes)
        (s.setSpad core (b.row b.base r.1).toNat (scs.map (BitVec.ofNat 8)), orf fl fl')
      else
        let os := (xs.zip rs).map (fun q => (outFmt f).convert q.1 q.2 (mmSat c))
        (p.1.setSpad core (a.row a.base r.1).toNat (packRow f (os.map (·.val))), os.foldl (fun x v => orf x v.fl) fl))
      (s, 0)
    .next ((s.raiseM core fl).markStarted core 1 e)

end Sys2Proof.Machine
end

