-- ==== Sys2Proof/Machine/Vector.lean ====
section
/-! DEFINITION. The VECTOR engine (R97 to R109): the elementwise, reducing, comparing, selecting and moving commands. -/

namespace Sys2Proof.Machine

/-- The walk of a shape: element index in its row, and row (R51). -/
def Shape.walk (sh : Shape) : List (Nat × (Nat × Nat × Nat)) :=
  sh.rows.flatMap fun r => (List.range sh.d0).map fun i => (i, r)

/-- Bytes of one VECTOR element. -/
def vecBytes (f : Nat) : Nat := fmtBits f / 8

/-- Groups of `g` items in order. -/
def groupsOf {α : Type} (g : Nat) : Nat → List α → List (List α)
  | 0, _ => []
  | n + 1, l => if l.isEmpty then [] else l.take g :: groupsOf g n (l.drop g)

/-- The 1 KiB groups of a walk of elements of `e` bytes (R100). -/
def walkGroups {α : Type} (e : Nat) (l : List α) : List (List α) := groupsOf (1024 / e) (l.length + 1) l

/-- A source element as it stands. -/
def State.rawElem (s : State) (n f : Nat) (d : Desc) (x : Nat × (Nat × Nat × Nat)) : Nat :=
  leNat (s.spad n ((d.row d.base x.2).toNat + x.1 * vecBytes f) (vecBytes f))

/-- A source element converted to FP32 (R99 stage 1; inexact only from INT32, R124). -/
def State.srcElem (s : State) (n f : Nat) (d : Desc) (x : Nat × (Nat × Nat × Nat)) : Flagged :=
  toFp32 (decodeElem f (s.rawElem n f d x))

/-- Write one element. -/
def State.putElem (s : State) (n f : Nat) (d : Desc) (x : Nat × (Nat × Nat × Nat)) (code : Nat) : State :=
  s.setSpad n ((d.row d.base x.2).toNat + x.1 * vecBytes f) (leBytes (vecBytes f) code)

/-- The output conversion of an FP32 result (R99 stage 3, R121 to R124). -/
def vecOut (f : Nat) (rnd : Rnd) (sat : Bool) (r : Flagged) : Flagged :=
  let o := if f = 12 then toInt32 (fp32.decode r.val) rnd else (outFmt f).convert (fp32.decode r.val) rnd sat
  ⟨o.val, orf r.fl o.fl⟩

/-- Elementwise work group by group: every source of a group is read, then its results are written (R100). `f` gives the
result of the k-th element of the walk. -/
def State.elementwise (s : State) (n e : Nat) (walk : List (Nat × (Nat × Nat × Nat)))
    (f : State → Nat → (Nat × (Nat × Nat × Nat)) → Flagged) (put : State → (Nat × (Nat × Nat × Nat)) → Nat → State) : State :=
  let (s, fl) := (walkGroups e walk.zipIdx).foldl (fun (p : State × Nat) g =>
    let rs := g.map (fun x => (x.1, f p.1 x.2 x.1))
    (rs.foldl (fun s r => put s r.1 r.2.val) p.1, rs.foldl (fun a r => orf a r.2.fl) p.2)) (s, 0)
  s.raiseV n fl

/-- The second source of a binary or comparing command: a tensor, one element per row with BCAST0 (R101). -/
def State.secondElem (s : State) (n : Nat) (c : Cmd) (d : Desc) (x : Nat × (Nat × Nat × Nat)) : Flagged :=
  s.srcElem n (veIfmt c) d (if veBcast c then (0, x.2) else x)

/-- The operations of VE_BINARY (Table 4-10). -/
def binaryOp (vop a b : Nat) : Flagged :=
  match vop with
  | 0 => fadd a b
  | 1 => fsub a b
  | 2 => fmul a b
  | 3 => fdiv a b
  | 4 => ⟨fmax a b, 0⟩
  | _ => ⟨fmin a b, 0⟩

/-- VE_BINARY (R101). -/
def execVeBinary (core : Nat) (s : State) : Out :=
  if ¬ unitOk core 2 then .fault .noSuchUnit
  else s.runHead core 2 .veBinary fun s e =>
    let c := e.cmd
    let a := spadDesc c 24
    let tensor := hFormat c == 3
    let b := spadDesc c 37
    let d := if tensor then spadDesc c 50 else b
    let rnd := rndOf (veRnd c) 0 0 0
    .next ((s.elementwise core (vecBytes (veOfmt c)) (shapeOf c).walk
      (fun s _ x =>
        let p := s.srcElem core (veIfmt c) a x
        let q := if tensor then s.secondElem core c b x else ⟨cbytes c 50 4, 0⟩
        let r := binaryOp (veVop c) p.val q.val
        vecOut (veOfmt c) rnd (veSat c) r)
      (fun s x v => s.putElem core (veOfmt c) d x v)).markStarted core 2 e)

/-- The functions of VE_UNARY of an FP32 code that is not NaN (Table 4-10). -/
def unaryOp (vop a : Nat) : Flagged :=
  if isNan a then ⟨fp32.nanCode, 0⟩
  else match vop with
  | 0 => ⟨a, 0⟩
  | 1 => ⟨a ^^^ 0x80000000, 0⟩
  | 2 => ⟨bitsOf a 0 31, 0⟩
  | 3 => ⟨if bitAt a 31 then 0 else a, 0⟩
  | 6 => fsqrt a
  | _ => boundedFn vop a

/-- VE_UNARY (R102, R124, R125): OFMT(f(IMM × A)); COPY of INT32 to INT32 with IMM 1.0 copies bits. The product IMM × A raises the
flags of Table 5-6 as every FP32 product does, whatever f then gives (DEDUCED, log entry 76). -/
def execVeUnary (core : Nat) (s : State) : Out :=
  if ¬ unitOk core 2 then .fault .noSuchUnit
  else s.runHead core 2 .veUnary fun s e =>
    let c := e.cmd
    let a := spadDesc c 24
    let b := spadDesc c 37
    let imm := cbytes c 50 4
    let copy := veIfmt c == 12 && veOfmt c == 12 && imm == 0x3F800000
    let seed := (s.planOfCore core).seed
    .next ((s.elementwise core (vecBytes (veOfmt c)) (shapeOf c).walk
      (fun s k x =>
        if copy then ⟨s.rawElem core 12 a x, 0⟩
        else
          let p := s.srcElem core (veIfmt c) a x
          let m := fmul imm p.val
          let r := unaryOp (veVop c) m.val
          vecOut (veOfmt c) (rndOf (veRnd c) seed (cbytes c 54 2) (cbytes c 56 4 + k)) (veSat c)
            ⟨r.val, orf p.fl (orf m.fl r.fl)⟩)
      (fun s x v => s.putElem core (veOfmt c) b x v)).markStarted core 2 e)

/-- One level of the canonical tree over a list of nodes (R105). -/
def pairUp (f : Nat → Nat → Flagged) : List Nat → List Nat × Nat
  | a :: b :: t =>
    let r := f a b
    let (rs, fl) := pairUp f t
    (r.val :: rs, orf r.fl fl)
  | l => (l, 0)

/-- The root of the canonical tree over leaves. -/
def treeRoot (f : Nat → Nat → Flagged) : Nat → List Nat → Flagged
  | 0, l => ⟨l.headD 0, 0⟩
  | n + 1, l =>
    if l.length ≤ 1 then ⟨l.headD 0, 0⟩
    else
      let (l', fl) := pairUp f l
      let r := treeRoot f n l'
      ⟨r.val, orf fl r.fl⟩

/-- The first index of an element with a property. -/
def firstIdx (p : Nat → Bool) (l : List Nat) : Nat := (l.findIdx? p).getD 0

/-- The reductions of a row (R104): FP32 result, or the INT32 index of ARGMAX. -/
def reduceRow (vop : Nat) (xs : List Nat) : Flagged :=
  match vop with
  | 0 => treeRoot fadd xs.length xs
  | 3 =>
    let sq := xs.map (fun x => fmul x x)
    let r := treeRoot fadd xs.length (sq.map (·.val))
    ⟨r.val, sq.foldl (fun a x => orf a x.fl) r.fl⟩
  | 1 => ⟨xs.tail.foldl fmax (if isNan (xs.headD 0) then fp32.nanCode else xs.headD 0), 0⟩
  | 2 => ⟨xs.tail.foldl fmin (if isNan (xs.headD 0) then fp32.nanCode else xs.headD 0), 0⟩
  | _ =>
    if xs.any isNan then ⟨firstIdx isNan xs, 0⟩
    else ⟨firstIdx (· == xs.tail.foldl fmax (xs.headD 0)) xs, 0⟩

/-- Row-wise work group by group: the elements of a 1 KiB group are read, then the rows they end are written (R100).
`rd` reads an element, `emit` writes row `r` from its elements. -/
def State.rowwise (s : State) (n e d0 : Nat) (rows : List (Nat × Nat × Nat)) (walk : List (Nat × (Nat × Nat × Nat)))
    (rd : State → (Nat × (Nat × Nat × Nat)) → Flagged)
    (emit : State → (Nat × Nat × Nat) → List Nat → State × Nat) : State :=
  let r := (walkGroups e walk).foldl
    (fun (p : State × Nat × List (Nat × Nat × Nat) × List Nat) g =>
      let (s, fl, rows, buf) := p
      let rs := g.map (rd s)
      let fl := rs.foldl (fun a x => orf a x.fl) fl
      let buf := buf ++ rs.map (·.val)
      let m := buf.length / d0
      let (s, fl) := ((rows.take m).zipIdx).foldl (fun (q : State × Nat) r =>
        let (s, f) := emit q.1 r.1 ((buf.drop (r.2 * d0)).take d0)
        (s, orf q.2 f)) (s, fl)
      (s, fl, rows.drop m, buf.drop (m * d0)))
    (s, 0, rows, [])
  r.1.raiseV n r.2.1

/-- VE_RREDUCE (R104). -/
def execVeRreduce (core : Nat) (s : State) : Out :=
  if ¬ unitOk core 2 then .fault .noSuchUnit
  else s.runHead core 2 .veRreduce fun s e =>
    let c := e.cmd
    let sh := shapeOf c
    let a := spadDesc c 24
    let b := spadDesc c 37
    .next ((s.rowwise core (vecBytes (veIfmt c)) sh.d0 sh.rows sh.walk
      (fun s x => s.srcElem core (veIfmt c) a x)
      (fun s r xs =>
        let v := reduceRow (veVop c) xs
        let o := if veVop c = 4 then v else vecOut (veOfmt c) (rndOf (veRnd c) 0 0 0) (veSat c) v
        (s.putElem core (veOfmt c) b (0, r) o.val, o.fl))).markStarted core 2 e)

/-- A tagged input of VE_OREDUCE: level, index, and its FP32 vector. -/
structure Tagged where
  level : Nat
  index : Nat
  vec : List Nat
deriving DecidableEq, Repr

/-- What the evaluation of a node gives; a missing leaf leaves the flags of the additions made before it (R128). -/
inductive NodeRes where
  | empty
  | missing (fl : Nat)
  | val (v : List Flagged)
deriving DecidableEq, Repr

/-- The node (l, j) of the canonical tree over `S` leaves (R105). -/
def evalNode (S : Nat) (f : Nat → Nat → Flagged) (ins : List Tagged) : Nat → Nat → NodeRes
  | l, j =>
    if S ≤ j * 2 ^ l then .empty
    else match ins.find? (fun t => t.level == l && t.index == j) with
    | some t => .val (t.vec.map (fun x => ⟨x, 0⟩))
    | none =>
      match l with
      | 0 => .missing 0
      | l + 1 =>
        match evalNode S f ins l (2 * j) with
        | .missing fl => .missing fl
        | .empty => .empty
        | .val a =>
          match evalNode S f ins l (2 * j + 1) with
          | .missing fl => .missing (a.foldl (fun x r => orf x r.fl) fl)
          | .empty => .val a
          | .val b => .val ((a.zip b).map (fun p => let r := f p.1.val p.2.val; ⟨r.val, orf p.1.fl (orf p.2.fl r.fl)⟩))

/-- The tags of VE_OREDUCE break R106. -/
def tagsBad (S : Nat) (tags : List Nat) : Bool :=
  tags.any (fun t => bitsOf t 29 3 != 0 || nodeBad S (bitsOf t 24 5) (bitsOf t 0 24)) ||
  !decide (tags.Nodup)

/-- One element of the node from a column: the element of each tagged input (R105). -/
def nodeElem (S : Nat) (f : Nat → Nat → Flagged) (tags : List Nat) (l j : Nat) (col : List Nat) : NodeRes :=
  evalNode S f ((tags.zip col).map (fun t => ⟨bitsOf t.1 24 5, bitsOf t.1 0 24, [t.2]⟩)) l j

/-- VE_OREDUCE group by group: the elements of a 1 KiB group of the source walk are read, then the results that they complete
(those of the last input's elements) are written (R100; log entry 17). -/
def State.oreduce (s : State) (n : Nat) (sh : Shape) (a b : Desc) (res : List Nat → NodeRes) : State :=
  let r := (walkGroups 4 sh.walk).foldl (fun (p : State × Nat × List Nat) g =>
    let buf := p.2.2 ++ g.map (fun x => (p.1.srcElem n 0 a x).val)
    let os := (g.filter (fun x => x.2.1 + 1 == sh.d1)).map (fun x =>
      match res ((List.range sh.d1).map (fun v => buf.getD (v * sh.d0 + x.1) 0)) with
      | .val (o :: _) => (x.1, vecOut 0 .rne false o)
      | _ => (x.1, ⟨0, 0⟩))
    (os.foldl (fun s o => s.setSpad n (b.base + 4 * o.1) (leBytes 4 o.2.val)) p.1, os.foldl (fun x o => orf x o.2.fl) p.2.1, buf))
    (s, 0, [])
  r.1.raiseV n r.2.1

/-- VE_OREDUCE (R105, R106). -/
def execVeOreduce (core : Nat) (s : State) : Out :=
  if ¬ unitOk core 2 then .fault .noSuchUnit
  else s.runHead core 2 .veOreduce fun s e =>
    let c := e.cmd
    let sh := shapeOf c
    let a := spadDesc c 24
    let b := spadDesc c 37
    let tags := (List.range sh.d1).map (fun i => leNat (s.spad core (orTags c + 4 * i) 4))
    if tagsBad (orS c) tags then .next (s.coreFault core e.seq 2 fcORED_TAG)
    else
      let ins := tags.zipIdx.map (fun t => (⟨bitsOf t.1 24 5, bitsOf t.1 0 24,
        (List.range sh.d0).map (fun i => (s.srcElem core 0 a (i, t.2, 0, 0)).val)⟩ : Tagged))
      let f := fun x y => if veVop c = 0 then fadd x y else ⟨fmax x y, 0⟩
      match evalNode (orS c) f ins (orLevel c) (orIndex c) with
      | .val _ => .next ((s.oreduce core sh a b (nodeElem (orS c) f tags (orLevel c) (orIndex c))).markStarted core 2 e)
      | .missing fl => .next ((s.raiseV core fl).coreFault core e.seq 2 fcORED_MISSING)
      | .empty => .next (s.coreFault core e.seq 2 fcORED_MISSING)

/-- The comparisons of VE_CMP (Table 4-10): false on a NaN, but for NE. -/
def cmpOp (vop a b : Nat) : Bool :=
  match vop with
  | 0 => feq a b
  | 1 => !feq a b
  | 2 => flt a b
  | 3 => flt a b || feq a b
  | 4 => flt b a
  | _ => flt b a || feq a b

/-- VE_CMP (R107): the predicate bit is written when the command completes. -/
def execVeCmp (core : Nat) (s : State) : Out :=
  if ¬ unitOk core 2 then .fault .noSuchUnit
  else s.runHead core 2 .veCmp fun s e =>
    let c := e.cmd
    let tensor := hFormat c == 2
    let a := spadDesc c 24
    let b := spadDesc c 37
    let ctl := if tensor then cbytes c 50 1 else cbytes c 41 1
    let hit := fun x =>
      let q := if tensor then s.secondElem core c b x else ⟨cbytes c 37 4, 0⟩
      cmpOp (veVop c) (s.srcElem core (veIfmt c) a x).val q.val
    let w := (shapeOf c).walk
    let r := if bitAt ctl 4 then w.all hit else w.any hit
    .next (s.putEntry core 2 { e with started := true, pred := some (bitsOf ctl 0 4, r) })

/-- The rank of an FP32 code in VE_TOPK: NaN lowest, both zeros equal (R108). -/
def topKey (a : Nat) : Int := if isNan a then -(2 ^ 40) else if bitsOf a 0 31 = 0 then 0 else fkey a

/-- Insertion into a list in descending order, after equal keys. -/
def insTop (x : Nat × Nat) : List (Nat × Nat) → List (Nat × Nat)
  | [] => [x]
  | y :: t => if topKey y.1 < topKey x.1 then x :: y :: t else y :: insTop x t

/-- The entries of one row in rank order, as (value, index). -/
def rankRow (xs : List Nat) : List (Nat × Nat) := xs.zipIdx.foldl (fun l x => insTop x l) []

/-- VE_TOPK (R108). -/
def execVeTopk (core : Nat) (s : State) : Out :=
  if ¬ unitOk core 2 then .fault .noSuchUnit
  else s.runHead core 2 .veTopk fun s e =>
    let c := e.cmd
    let sh := shapeOf c
    let a := spadDesc c 24
    let b := spadDesc c 37
    .next ((s.rowwise core (vecBytes (veIfmt c)) sh.d0 sh.rows sh.walk
      (fun s x => s.srcElem core (veIfmt c) a x)
      (fun s r xs =>
        let es := (rankRow xs).take (tkK c)
        (s.setSpad core (b.row b.base r).toNat
          (es.flatMap (fun x => leBytes 4 x.1 ++ leBytes 4 ((cbytes c 52 4 + x.2) % 2 ^ 32))), 0))).markStarted core 2 e)

/-- VE_TRANSPOSE (R109): dimensions 0 and 1 are exchanged, the bits unchanged. -/
def execVeTranspose (core : Nat) (s : State) : Out :=
  if ¬ unitOk core 2 then .fault .noSuchUnit
  else s.runHead core 2 .veTranspose fun s e =>
    let c := e.cmd
    let f := veIfmt c
    let a := spadDesc c 24
    let b := spadDesc c 37
    .next ((s.elementwise core (vecBytes f) (shapeOf c).walk
      (fun s _ x => ⟨s.rawElem core f a x, 0⟩)
      (fun s x v => s.putElem core f b (x.2.1, (x.1, x.2.2)) v)).markStarted core 2 e)

end Sys2Proof.Machine
end

