-- ==== Sys2Proof/Machine/Sampler.lean ====
section
/-! DEFINITION. The sampler (17): candidates, parameter sets, history, the draw, stop sequences and SAMPLE_ROW. -/

namespace Sys2Proof.Machine

/-! ## Reads that can fail (R339) -/

/-- Read bytes for the sampler; none when the read is uncorrectable or refused. -/
def State.readOpt (s : State) (a n : Nat) (sym : Syms) : State × Option (List Byte) :=
  match s.read a n sym with
  | (s, .ok bs) => (s, some bs)
  | (s, .refused _) => (s, none)

/-- Several reads, as (address, bytes); none when one fails. -/
def State.readList (s : State) (sym : Syms) : List (Nat × Nat) → State × Option (List (List Byte))
  | [] => (s, some [])
  | x :: t =>
    match s.readOpt x.1 x.2 sym with
    | (s, none) => (s, none)
    | (s, some bs) =>
      match s.readList sym t with
      | (s, none) => (s, none)
      | (s, some l) => (s, some (bs :: l))

/-! ## Candidates (R331, R332) -/

/-- A candidate: token ID and FP32 value. -/
abbrev Cand := Nat × Nat

/-- Rank order: value descending, ties by ascending index, NaN below −∞. -/
def candBefore (a b : Cand) : Bool := decide (topKey b.2 < topKey a.2) || (topKey a.2 == topKey b.2 && decide (a.1 < b.1))

def insCand (x : Cand) : List Cand → List Cand
  | [] => [x]
  | y :: t => if candBefore x y then x :: y :: t else y :: insCand x t

/-- A list in rank order. -/
def rankCands (l : List Cand) : List Cand := l.foldl (fun t x => insCand x t) []

/-- The entries of a list's bytes, as VE_TOPK writes them (R108). -/
def candsOf : Nat → List Byte → List Cand
  | 0, _ => []
  | n + 1, bs => (leAt bs 4 4, leAt bs 0 4) :: candsOf n (bs.drop 8)

/-- Drop entries of index `vocab` or above and repeats of an earlier index, counting them. -/
def dropCands (vocab : Nat) : List Cand → List Nat → List Cand × Nat
  | [], _ => ([], 0)
  | x :: t, seen =>
    if vocab ≤ x.1 ∨ seen.contains x.1 then
      let r := dropCands vocab t seen
      (r.1, r.2 + 1)
    else
      let r := dropCands vocab t (x.1 :: seen)
      (x :: r.1, r.2)

/-! ## Parameter sets (R333, R334, Table 17-2) -/

/-- A bias entry and a stop record. -/
structure PSet where
  penPrompt : Bool
  topK : Nat
  temp : Nat
  topP : Nat
  minP : Nat
  rep : Nat
  freq : Nat
  pres : Nat
  window : Nat
  bias : List (Nat × Nat)
  stops : List (List Nat)
deriving DecidableEq, Repr

def f32one : Nat := 0x3F800000

/-- What an invalid set draws with: greedily, no bias, no penalty, no stop sequence. -/
def PSet.none : PSet := ⟨false, 0, 0, f32one, 0, f32one, 0, 0, 0, [], []⟩

/-- An FP32 code is finite; is positive and finite. -/
def fin32 (a : Nat) : Bool := decide (bitsOf a 23 8 ≠ 255)
def pos32 (a : Nat) : Bool := fin32 a && !bitAt a 31 && bitsOf a 0 31 != 0
/-- 0, or positive finite. -/
def nonneg32 (a : Nat) : Bool := bitsOf a 0 31 == 0 || pos32 a

/-- The fields of a set keep Table 17-2. -/
def setOk (b : List Byte) : Bool :=
  leAt b 0 1 == 1 && decide (leAt b 1 1 < 2) && decide (leAt b 2 2 ≤ 1024) && nonneg32 (leAt b 4 4) && pos32 (leAt b 8 4) &&
  !flt f32one (leAt b 8 4) && nonneg32 (leAt b 12 4) && flt (leAt b 12 4) f32one && pos32 (leAt b 16 4) && fin32 (leAt b 20 4) &&
  fin32 (leAt b 24 4) && decide (leAt b 28 2 ≤ 4096) && decide (leAt b 30 2 ≤ 256) && decide (leAt b 32 1 ≤ 8) &&
  zeros (slice b 33 7) && leAt b 40 6 % 8 == 0 && leAt b 46 2 == 0 && leAt b 48 6 % 8 == 0 && zeros (slice b 54 10)

/-- A stop record: its tokens, when its length is 1 to 16 and its reserved bytes are 0. -/
def stopOf (b : List Byte) : Option (List Nat) :=
  let n := leAt b 0 1
  if n = 0 ∨ 16 < n ∨ ¬ zeros (slice b 1 7) then none else some ((List.range n).map (fun k => leAt b (8 + 4 * k) 4))

/-- The parameter set a request names: `(some set, true)` valid, `(some .none, false)` invalid, `(none, _)` a read failed. -/
def State.readSet (s : State) (p i : Nat) (sym : Syms) : State × Option PSet × Bool :=
  if s.getF F.SMP_PSET_COUNT p ≤ i then (s, some PSet.none, false)
  else match s.readOpt (s.getF F.SMP_PSET_BASE p * 64 + 64 * i) 64 sym with
    | (s, none) => (s, none, false)
    | (s, some b) =>
      let nb := leAt b 30 2
      let ns := leAt b 32 1
      if ¬ setOk b ∨ ¬ s.inRegion p 0 (leAt b 40 6) (8 * nb) ∨ ¬ s.inRegion p 0 (leAt b 48 6) (72 * ns) then (s, some PSet.none, false)
      else match s.readList sym ((List.range nb).map (fun k => (leAt b 40 6 + 8 * k, 8)) ++ (List.range ns).map (fun k => (leAt b 48 6 + 72 * k, 72))) with
        | (s, none) => (s, none, false)
        | (s, some l) =>
          let stops := (l.drop nb).map stopOf
          if stops.any (·.isNone) then (s, some PSet.none, false)
          else (s, some ⟨bitAt (leAt b 1 1) 0, leAt b 2 2, leAt b 4 4, leAt b 8 4, leAt b 12 4, leAt b 16 4, leAt b 20 4,
            leAt b 24 4, leAt b 28 2, (l.take nb).map (fun e => (leAt e 0 4, leAt e 4 4)), stops.filterMap id⟩, true)

/-! ## History (R335) -/

/-- Where the token of position `q` of a request stands: its prompt, or its lane's history. -/
def State.tokenAddr (s : State) (p : Nat) (r : Req) (q : Nat) : Nat :=
  if q < r.promptLen then r.prompt + 4 * q
  else s.getF F.SMP_PHIST_BASE p * 16384 + r.lane * 16384 + 4 * ((q - r.promptLen) % 4096)

/-- The tokens of positions `lo` to `hi - 1`. -/
def State.readTokens (s : State) (p : Nat) (r : Req) (lo hi : Nat) (sym : Syms) : State × Option (List Nat) :=
  match s.readList sym ((List.range (hi - lo)).map (fun k => (s.tokenAddr p r (lo + k), 4))) with
  | (s, some l) => (s, some (l.map leNat))
  | (s, none) => (s, none)

/-! ## The draw (R336) -/

/-- A count as FP32. -/
def f32nat (n : Nat) : Nat := (toFp32 (.fin false n 0)).val

/-- The value of a candidate after bias and penalties. -/
def adjust (g : PSet) (win : List Nat) (x : Cand) : Cand :=
  let l := g.bias.foldl (fun l b => if b.1 = x.1 then (fadd l b.2).val else l) x.2
  let n := (win.filter (· == x.1)).length
  let c := f32nat n
  let l := if n = 0 then l else if flt 0 l then (fdiv l g.rep).val else (fmul l g.rep).val
  let l := (fsub l (fmul g.freq c).val).val
  (x.1, if n = 0 then l else (fsub l g.pres).val)

/-- Running sums in rank order. -/
def sums (acc : Nat) : List Nat → List Nat
  | [] => []
  | w :: t =>
    let a := (fadd acc w).val
    a :: sums a t

/-- The last of a list's running sums. -/
def total (ws : List Nat) : Nat := (sums 0 ws).getLastD 0

/-- How many candidates top-p keeps. -/
def topPKeep (g : PSet) (ws : List Nat) : Nat :=
  if g.topP = f32one then ws.length
  else
    let lim := (fmul g.topP (total ws)).val
    match (sums 0 ws).findIdx? (fun a => flt lim a || feq lim a) with
    | some j => j + 1
    | none => ws.length

/-- Token, LOGPROB and the DEGENERATE flag of a draw over ranked candidates. -/
def draw (g : PSet) (seed n : Nat) (l : List Cand) : Nat × Nat × Bool :=
  match l with
  | [] => (0, 0, false)
  | x0 :: _ =>
    if isNan x0.2 ∨ bitsOf x0.2 0 31 = 0x7F800000 then (x0.1, 0x7FC00000, true)
    else if bitsOf g.temp 0 31 = 0 then (x0.1, 0, false)
    else
      let z := l.map (fun x => (x.1, (fdiv x.2 g.temp).val))
      let m := (z.headD (0, 0)).2
      let z := if g.topK = 0 then z else z.take g.topK
      let w := z.map (fun x => (x.1, x.2, (boundedFn 4 (fsub x.2 m).val).val))
      let w := w.take (topPKeep g (w.map (·.2.2)))
      let w0 := (w.headD (0, 0, 0)).2.2
      let w := (w.take 1) ++ (w.drop 1).filter (fun x => !flt x.2.2 (fmul g.minP w0).val)
      let ws := w.map (·.2.2)
      let s' := total ws
      let u := (toFp32 (.fin false (srg seed 0 n) (-24))).val
      let lim := (fmul u s').val
      let k := ((sums 0 ws).findIdx? (fun a => flt lim a)).getD (w.length - 1)
      let c := w.getD k (0, 0, 0)
      (c.1, (fsub (fsub c.2.1 m).val (boundedFn 5 s').val).val, false)

/-! ## Stop sequences (R337) -/

/-- A stop sequence equals the last tokens of a list, oldest first. -/
def stopHit (toks rec' : List Nat) : Bool := decide (rec'.length ≤ toks.length) && toks.drop (toks.length - rec'.length) == rec'

/-! ## SAMPLE_ROW -/

/-- The composed step of a partition ended well, and its samples are wanted. -/
def State.samplesDue (s : State) (p : Nat) : Bool :=
  let x := s.part p
  let v := s.serve p
  s.flag F.RQT_SERVE_COMPOSER p && v.rows != [] && !s.inStep p && !x.waitDigest && !x.lastFailed && !v.badRead &&
  x.plan == scPlan v.cfg && x.prevNo.map (· % 2 ^ 32) == some (s.getF F.RQT_SERVE_STEP p)

/-- Rows of a sampler not yet sampled, in lane order. -/
def State.rowsLeft (s : State) (p k : Nat) : List Row :=
  let v := s.serve p
  if ¬ s.samplesDue p then []
  else byKey (·.lane) (v.rows.filter (fun r => r.sample && r.lane % 2 == k && v.outs.all (fun o => o.lane != r.lane)))

/-- Another partition's rows come first on the sampler: its step ended earlier (R338). -/
def State.rowsAhead (s : State) (p k : Nat) : Bool :=
  (List.range 16).any (fun q => q != p && (s.rowsLeft q k) != [] && decide ((s.part q).endSeq < (s.part p).endSeq))

/-- Time of a row, ns (R338). -/
def State.rowTime (s : State) (p window : Nat) : Nat :=
  400 + s.getF F.SMP_PSHAPE_SHARDS p * s.getF F.SMP_PSHAPE_K p / 8 + 4 * s.getF F.SMP_PSHAPE_KM p + (window + 15) / 16

/-- A sampler is busy while any partition has rows for it. -/
def State.setBusy (s : State) : State :=
  let busy := fun (k : Nat) => bit ((List.range 16).any (fun q => s.rowsLeft q k != []))
  s.setFs 0 [(F.SMP_STATUS_BUSY0, busy 0), (F.SMP_STATUS_BUSY1, busy 1)]

/-- A read failed: the step is treated as failed (R339), and neither sampler has rows of it any more. -/
def State.sampleFailed (s : State) (p : Nat) : State :=
  ((s.addF F.SMP_ERR_READ 0 1).modServe p (fun v => { v with badRead := true })).setBusy

/-- A row's output: counts, the sampler's time and busy bit, the output itself (R338, R339). -/
def State.sampleOut (s : State) (p k : Nat) (r : Row) (g : PSet) (ok : Bool) (bad : Nat) (d : Nat × Nat × Bool) (stop : Option Nat) : State :=
  let v := s.serve p
  let tf := if k = 0 then F.SMP_TIME_LAST0_NS else F.SMP_TIME_LAST1_NS
  let before := if v.outs.any (fun o => o.lane % 2 == k) then s.getF tf 0 else 0
  let s := s.setF tf 0 (min (2 ^ 32 - 1) (before + s.rowTime p g.window))
  let s := (s.addF F.SMP_STATUS_ROWS 0 1).addF F.SMP_ERR_BAD_CAND 0 bad
  let s := s.addF F.SMP_ERR_BAD_SET 0 (bit (!ok))
  let s := s.addF F.SMP_ERR_DEGENERATE 0 (bit d.2.2)
  (s.modServe p (fun v => { v with outs := v.outs ++ [⟨r.lane, r.ent, d.1, d.2.1, stop, d.2.2, !ok⟩] })).setBusy

/-- One row: read, merge, draw, match. An empty candidate list leaves token and log-probability free. -/
def State.sampleRow (s : State) (p : Nat) (sym : Syms) (r : Row) : State :=
  let k := r.lane % 2
  let q := s.req r.ent
  let shards := s.getF F.SMP_PSHAPE_SHARDS p
  let K := s.getF F.SMP_PSHAPE_K p
  let n := r.pos + r.tokens
  match s.readOpt (s.getF F.SMP_PCAND_BASE p * 64 + r.lane * shards * K * 8) (shards * K * 8) sym with
  | (s, none) => s.sampleFailed p
  | (s, some bs) =>
    match s.readSet p q.sparam sym with
    | (s, none, _) => s.sampleFailed p
    | (s, some g, ok) =>
      let b := if g.penPrompt then 0 else q.promptLen
      match s.readTokens p q (max (n - g.window) b) n sym with
      | (s, none) => s.sampleFailed p
      | (s, some win) =>
        match s.readTokens p q (max (n - 15) q.promptLen) n sym with
        | (s, none) => s.sampleFailed p
        | (s, some last) =>
          let l := dropCands (s.getF F.SMP_PSHAPE_VOCAB p) (rankCands (candsOf (shards * K) bs)) []
          let cands := rankCands ((l.1.take (s.getF F.SMP_PSHAPE_KM p)).map (adjust g win))
          let d := draw g q.seed n cands
          let (s, f) := if cands = [] then s.takeFree else (s, 0)
          let d := if cands = [] then (f % 2 ^ 32, f / 2 ^ 32, false) else d
          s.sampleOut p k r g ok l.2 d (g.stops.findIdx? (stopHit (last ++ [d.1])))

/-- SAMPLE_ROW (R331 to R339): after a good step end, the sampler of `lane`'s parity draws the token of its next row, in
ascending lane order. `sym`: the symbol errors that its reads meet. -/
def execSampleRow (p lane : Nat) (sym : Syms) (s : State) : Out :=
  if ¬ p < 16 then .fault .noSuchUnit
  else match s.rowsLeft p (lane % 2) with
    | [] => .next s
    | r :: _ => if r.lane ≠ lane ∨ s.rowsAhead p (lane % 2) then .next s else .next (s.sampleRow p sym r)

end Sys2Proof.Machine
end

