-- ==== Sys2Proof/Machine/Boundary.lean ====
section
/-! DEFINITION. The step boundary of a serving partition (R327, R328, R395) and the spilling of paused sequences (R324). -/

namespace Sys2Proof.Machine

/-! ## Delivery -/

/-- A charge is given back (R328). -/
def State.refundRow (s : State) (p : Nat) (r : Row) : State :=
  if r.charged then
    let a := s.custAt p (s.req r.ent).customer
    s.setCust a { s.cust a with level := (s.cust a).level + 256 * r.tokens }
  else s

/-- The positions a row wrote count: a finished prefill decodes, a finished re-prefill goes on where it was. -/
def Req.advance (q : Req) (r : Row) : Req :=
  let q := { q with pos := r.pos + r.tokens }
  if q.redo ≠ 0 then
    if q.pos < q.redo then q else { q with redo := 0, state := if q.pos < q.promptLen then 2 else 3 }
  else if q.pos < q.promptLen then q else { q with state := 3 }

/-- A token reaches its request: history, completion entry, MISSES, and the end of the request (R319, R321, R335, R337). -/
def State.deliverToken (s : State) (p t : Nat) (r : Row) (o : SOut) : State :=
  let q := s.req r.ent
  let n := r.pos + r.tokens
  let s := s.writeQ (s.tokenAddr p q n) (leBytes 4 o.token)
  let target := s.getF F.RQT_PRIO_TARGET_US (p * 4 + q.prio)
  let s := if 0 < q.generated ∧ 0 < target ∧ 1000 * target < t - q.lastTb then s.addF F.RQT_PRIO_MISSES (p * 4 + q.prio) 1 else s
  let q := { q with generated := q.generated + 1, lastTok := o.token, lastTb := t }
  let s := s.setReq r.ent q
  let done := o.stop.isSome || decide (q.genLimit ≤ q.generated)
  let lp := if o.token = 0 then 0 else o.logprob
  if done then (s.dropReq p r.ent).complete p q.cring (cplBytes cplDONE (if o.stop.isSome then 1 else 2) o.token q.tag lp n t)
  else s.complete p q.cring (cplBytes cplTOKEN 0 o.token q.tag lp n t)

/-- One row of a good step. -/
def State.finishRow (s : State) (p t : Nat) (r : Row) : State :=
  let s := s.setReq r.ent ((s.req r.ent).advance r)
  match (s.serve p).outs.find? (fun o => o.lane == r.lane && o.ent == r.ent) with
  | some o => s.deliverToken p t r o
  | none => s

/-! ## Changes that waited -/

/-- A serving configuration takes effect (R315, R316). -/
def State.applyCfg (s : State) (p : Nat) : State :=
  match (s.serve p).newCfg with
  | none => s
  | some c =>
    let comp := bitAt (leAt c 1 1) 0 || (s.plan (scPlan c)).nodes == 1
    (s.modServe p (fun v => { v with cfg := c, newCfg := none })).setFs p [(F.RQT_SERVE_OPEN, 1), (F.RQT_SERVE_COMPOSER, bit comp)]

/-- A sampler configuration takes effect. -/
def State.applyNewSmp (s : State) (p : Nat) : State :=
  match (s.serve p).newSmp with
  | none => s
  | some c => (s.applySmp p c.1 c.2).modServe p (fun v => { v with newSmp := none })

/-- Customers and targets. -/
def State.applyCusts (s : State) (p : Nat) : State :=
  let s := (s.serve p).custs.foldl (fun s x => s.applyCust p x) s
  let s := match (s.serve p).prios with
    | none => s
    | some ts => ts.zipIdx.foldl (fun (s : State) (x : Nat × Nat) => s.setF F.RQT_PRIO_TARGET_US (p * 4 + x.2) x.1) s
  s.modServe p (fun v => { v with custs := [], prios := none })

/-- Page moves of spilled sequences: the lane's pages change, and the HBM pages are free (R324). -/
def State.applyMoves (s : State) (p : Nat) : State :=
  (s.reqIds p).foldl (fun s i =>
    let r := s.req i
    s.setReq i { r with pages := r.pages.map (fun g => ((r.spill.find? (fun m => m.1 == g)).map (·.2)).getD g), spill := [] }) s

/-- After a spare is bound into the plan, each live sequence is prefilled again up to where it was, or ends EVICTED (R395). -/
def State.rePrefill (s : State) (p t : Nat) : State :=
  (s.reqIds p).foldl (fun s i =>
    let r := s.req i
    if r.pos = 0 ∧ r.redo = 0 then s
    else if 4096 < r.generated then s.evictReq p i t
    else s.setReq i { r with redo := max r.redo r.pos, pos := 0, state := 2 }) s

/-! ## SERVING_BOUNDARY -/

/-- No step of the partition runs or ends, and no composed one waits for its first attempt. -/
def State.boundaryFree (s : State) (p : Nat) : Bool :=
  let x := s.part p
  !s.inStep p && !x.waitDigest && s.steps.all (fun r => r.part != p || r.cq.isSome || r.again) && !s.pairStopped && s.flag F.CTL_STATUS_READY 0 &&
  s.getF F.SEC_PCTL_STATE p == 1 && !s.flag F.SEC_STATUS_TAMPERED 0

/-- The composed step failed: it was aborted, never ran, or a sampler read failed. -/
def State.stepBad (s : State) (p : Nat) : Bool := (s.serve p).rows != [] && !s.samplesDue p

/-- The end of the composed step is taken up: outputs, submissions, deliveries or refunds (R327 steps 1 to 3, R328). -/
def State.endStep (s : State) (p t : Nat) : State :=
  let x := s.part p
  let v := s.serve p
  let bad := s.stepBad p
  let s := if v.rows = [] ∨ x.lastFailed then s else s.setF F.RQT_STEP_ACTUAL_NS p (min (2 ^ 32 - 1) (x.endAt - x.beat0))
  let s := if bad then v.rows.foldl (fun s r => s.refundRow p r) s else s
  let s := if bad then s.modServe p (fun v => { v with outs := [] }) else s
  let s := s.takeRings p t
  let s := if bad then s else (byKey (·.lane) (s.serve p).rows).foldl (fun s r => s.finishRow p x.endAt r) s
  s.modServe p (fun v => { v with rows := [], outs := [], badRead := false, failed := false })

/-- The boundary of the composer, and of a partition not yet serving. Lane tables follow the page moves (R324), and a step is composed
unless one of the host waits. -/
def State.composerBoundary (s : State) (p : Nat) (redo : Bool) (areas : List Nat) : State :=
  let t := if (s.serve p).rows = [] then s.now else (s.part p).endAt
  let s := (s.recomplete p).endStep p t
  let s := (((s.applyCfg p).applyNewSmp p).applyCusts p).applyMoves p
  let s := (s.readDirs (scPlan (s.serve p).cfg)).applyAdapters (scPlan (s.serve p).cfg)
  let s := if redo then s.rePrefill p t else s
  let s := (s.refillAll p).refreshRqt p
  let s := if s.flag F.RQT_SERVE_OPEN p ∧ s.flag F.RQT_SERVE_COMPOSER p then
      let (s, others) := s.otherNodes (s.serve p).cfg
      let s := s.writeTables p (s.serve p).cfg others
      if (s.nextStepOf p).isSome then s else s.compose p t areas others ((s.reqIds p).length + 1)
    else s
  s.refreshRqt p

/-- A failed composed step is replayed (R394). -/
def State.replayDue (s : State) (p : Nat) : Bool := (s.part p).replaying || s.steps.any (fun r => r.part == p && r.again)

/-- The customer of a row is charged for it again. -/
def State.rechargeRow (s : State) (p : Nat) (r : Row) : State :=
  if r.charged then
    let a := s.custAt p (s.req r.ent).customer
    s.setCust a { s.cust a with level := (s.cust a).level - 256 * r.tokens }
  else s

/-- The boundary of a failed step that is replayed (R328, R394): charges are refunded, submissions taken and waiting changes made, and
the rows that the new attempt still carries are charged again. -/
def State.replayBoundary (s : State) (p : Nat) : State :=
  let s := (s.serve p).rows.foldl (fun s r => s.refundRow p r) (s.recomplete p)
  let s := (s.modServe p (fun v => { v with outs := [], badRead := false, failed := true })).takeRings p (s.part p).endAt
  let s := ((((s.applyCfg p).applyNewSmp p).applyCusts p).applyMoves p).refillAll p
  let (s, others) := s.otherNodes (s.serve p).cfg
  let s := s.writeTables p (s.serve p).cfg others
  ((s.serve p).rows.foldl (fun s r => s.rechargeRow p r) s).refreshRqt p

/-- A node that is not the composer: it submits its step once its batch header holds the number of the step it awaits
(R316). -/
def State.otherBoundary (s : State) (p : Nat) (areas : List Nat) : State :=
  let s := ((s.applyCfg p).applyNewSmp p).applyCusts p
  let c := (s.serve p).cfg
  let k := scPlan c
  let no := (s.plan k).nextStep
  if (s.nextStepOf p).isSome then s
  else match s.readR (scBatch c + no % 2 * 262144) 64 [] with
  | (s, .refused _) => s
  | (s, .ok h) =>
    if leAt h 0 1 ≠ 1 ∨ leAt h 16 8 ≠ no then s
    else
      let s := s.setF F.RQT_SERVE_STEP p (no % 2 ^ 32)
      let s : State := { s with steps := s.steps ++ [⟨p, k, 0, stepValues (s.plan k) c no (leAt h 4 4) (leAt h 8 4), 0, false, none⟩] }
      s.prepare p [] areas

/-- SERVING_BOUNDARY (R327, R328): the boundary of partition `p`, due once its step has ended and every row is sampled. `redo`:
the host has bound a spare into the plan since the last boundary (R395); `areas` are context areas for a restore (R167). -/
def execServingBoundary (p : Nat) (redo : Bool) (areas : List Nat) (s : State) : Out :=
  if ¬ p < 16 then .fault .noSuchUnit
  else if ¬ s.boundaryFree p ∨ s.rowsLeft p 0 ≠ [] ∨ s.rowsLeft p 1 ≠ [] then .next s
  else if s.replayDue p then .next (if (s.serve p).rows ≠ [] ∧ ¬ (s.serve p).failed then s.replayBoundary p else s)
  else if s.flag F.RQT_SERVE_OPEN p ∧ ¬ s.flag F.RQT_SERVE_COMPOSER p then .next ((s.takeRings p s.now).otherBoundary p areas)
  else .next (s.composerBoundary p redo areas)

/-! ## SPILL (R324) -/

/-- SPILL (R324): the HBM pages of the PAUSED sequence of request entry `ent`, not scheduled for SPILL_MS, are copied to free
cellar pages; its lane table follows at the next boundary. -/
def execSpill (p ent : Nat) (s : State) : Out :=
  if ¬ p < 16 then .fault .noSuchUnit
  else
    let c := (s.serve p).cfg
    let r := s.req ent
    if s.pairStopped ∨ ¬ (s.reqIds p).contains ent ∨ r.state ≠ 4 ∨ scSpillMs c = 0 ∨ r.spill ≠ [] ∨ s.now < r.lastRun + 1000000 * scSpillMs c then
      .next s
    else
      let used := s.usedPages p
      let free := ((List.range (scCel c)).map (scCelFirst c + ·)).filter (fun g => !used.contains g)
      let moves := (r.pages.filter (fun g => decide (g < scHbm c))).zip free
      let s := moves.foldl (fun s m => s.copyPage c m.1 m.2) s
      .next ((s.setReq ent { s.req ent with spill := moves }).refreshRqt p)

end Sys2Proof.Machine
end

