-- ==== Sys2Proof/Machine/Firmware.lean ====
section
/-! DEFINITION. Loading Ranuat (R370), live update (R374), and the reset of the control complex (R407). -/

namespace Sys2Proof.Machine

/-! ## The configuration digest (R296) -/

/-- CD of the package under an interface version. -/
def State.cdOf (s : State) (iface : Nat) : Nat :=
  leNat ((sha384 (leBytes 1 1 ++ leBytes 1 1 ++ leBytes 6 0 ++ leBytes 48 s.boot.sysHash ++ leBytes 4 iface)).take 8)

/-! ## Images (R370) -/

/-- Bytes of the firmware window. -/
def State.fwBytes (s : State) (a : Nat) : Nat → List Byte
  | 0 => []
  | n + 1 => tget 0 s.fwin a :: s.fwBytes (a + 1) n

def fiSvn (b : List Byte) : Nat := leAt b 4 4
def fiIface (b : List Byte) : Nat := leAt b 8 4
def fiLength (b : List Byte) : Nat := leAt b 12 4

def fwOK : Nat := 1
def fwFORMAT : Nat := 2
def fwLENGTH : Nat := 3
def fwSIG : Nat := 4
def fwSVN : Nat := 5
def fwHANDOVER : Nat := 6
def fwTIMEOUT : Nat := 7

/-- The signature record at the end of `len` bytes has the form of Table 18-2 and names the fused key. -/
def State.fwSigner (s : State) (len : Nat) : Bool :=
  let r := s.fwBytes (len - 200) 200
  leAt r 0 1 == 1 && leAt r 1 1 == 1 && zeros (Sys2Proof.Machine.slice r 2 6) && s.boot.fwKey != 0 && leNat (sha384 (Sys2Proof.Machine.slice r 8 96)) == s.boot.fwKey

/-- The result of verifying the image of `len` bytes in the window; `sigOk`: its signature verifies. -/
def State.fwCheck (s : State) (len : Nat) (sigOk : Bool) : Nat :=
  let b := s.fwBytes 0 64
  if leAt b 0 1 ≠ 1 ∨ leAt b 1 3 ≠ 0x544E52 then fwFORMAT
  else if fiLength b ≠ len ∨ 1048576 < fiLength b ∨ fiLength b < 264 then fwLENGTH
  else if ¬ (s.fwSigner len ∧ sigOk) then fwSIG
  else if fiSvn b < s.getF F.CTL_FWSTAT_MIN_SVN 0 then fwSVN
  else fwOK

/-- An image is refused. -/
def State.fwRefuse (s : State) (code : Nat) : State := (s.setF F.CTL_FWSTAT_RESULT 0 code).addF F.CTL_FWSTAT_REFUSED 0 1

/-- CDI_1 of an image (Table 18-3): under CDI_0 of the locked slot, over its SHA-384 and its SVN. -/
def State.cdi1 (s : State) (svn digest : Nat) : List Byte := hmac s.boot.cdi0 (leBytes 48 digest ++ leBytes 4 svn)

/-- The measured image with its alias key, certified by the DeviceID key; the DeviceID certificate ends the chain (R351). -/
def State.fwOf (s : State) (svn iface digest : Nat) : Fw :=
  let key := hkdf (s.cdi1 svn digest) (Config.keyLabel 1) 48
  let cert := Config.certify (hkdf s.boot.cdi0 (Config.keyLabel 0) 48) (Config.p384Pub key ++ leBytes 48 digest ++ leBytes 4 svn)
  ⟨iface, digest, key, cert ++ s.boot.cert⟩

/-- The image in the firmware window runs: measured, with its key and SVN, and CD follows its interface version. The window's slot
becomes the running one, and the other slot the window's (R370, R374). -/
def State.fwStart (s : State) (svn iface digest slot : Nat) : State :=
  let s : State := { s with fw := s.fwOf svn iface digest, fwrun := s.fwin, fwin := s.fwrun }
  let s := s.setFs 0 [(F.CTL_STATUS_SVN, svn), (F.CTL_STATUS_SLOT, slot), (F.CTL_STATUS_READY, 1), (F.CTL_FWSTAT_RESULT, fwOK)]
  s.setF F.CTL_CDIG_DIGEST 0 (s.cdOf iface)

/-- An image may be loaded: the boot ROM waits for one, or the package is in vestibule mode (R387, R388). -/
def State.fwWaits (s : State) : Bool :=
  !s.boot.held && !s.boot.quiet && !s.flag F.CTL_STATUS_READY 0 &&
  (s.flag F.BOOT_STATUS_VESTIBULE 0 || (s.getF F.BOOT_STATUS_STAGE 0 == 8 && !s.flag F.BOOT_STATUS_FAILED 0))

/-- Ranuat reports the reason of vestibule mode with severity 3 (R388); the spec gives the event no code. -/
def State.logReason (s : State) : State :=
  let (s, c) := s.takeFree
  s.logEvent 3 (c % 65536) 255 [s.getF F.BOOT_STATUS_REASON 0]

/-- FWLOAD (R370, R387): a write of CTL_FWLOAD. With GO and no image running, the image in the window is verified (`sigOk`:
its signature verifies) and started from slot A, or refused. -/
def execFwload (v : Word64) (sigOk : Bool) (s : State) : Out :=
  let s := s.setF F.CTL_FWLOAD_LEN 0 (bitsOf v.toNat 32 21)
  if ¬ bitAt v.toNat 0 ∨ ¬ s.fwWaits then .next s
  else
    let len := s.getF F.CTL_FWLOAD_LEN 0
    let code := s.fwCheck len sigOk
    if code ≠ fwOK then .next (s.fwRefuse code)
    else
      let b := s.fwBytes 0 64
      let s := s.fwStart (fiSvn b) (fiIface b) (sha384n (s.fwBytes 0 len)) 0
      if s.flag F.BOOT_STATUS_VESTIBULE 0 then .next s.logReason
      else .next (s.setFs 0 [(F.BOOT_STATUS_STAGE, 9), (F.BOOT_READY_TB_TB, s.now)])

/-! ## Live update (R374) -/

/-- A pane is changing its frequency. -/
def State.paneMoving (s : State) : Bool := (List.range 32).any (fun q => s.getF F.PANE_FREQ_STATE q == 1)

/-- The old image runs on: READY, arrivals resume, the lock is free. -/
def State.oldSlot (s : State) : State :=
  ({ s.setFs 0 [(F.CTL_STATUS_UPDATING, 0), (F.CTL_STATUS_READY, 1)] with upd := none }).dropLocks 3 [0]

/-- A live update is abandoned with OP_FAILED; arrivals resume under the old image (R374, R407, R409). -/
def State.abandonUpdate (s : State) : State :=
  match s.upd with
  | none => s
  | some u => s.oldSlot.answer 0x12 u.ctl (u.ctl.answer resFAILED)

/-- A plan of more than one node is resident. -/
def State.multiResident (s : State) : Bool := s.plans.any (fun e => e.2.part < 16 && decide (1 < e.2.nodes))

/-- The handover block holds: its VERSION and the digest of its body. -/
def handOk (b : List Byte) : Bool := leAt b 0 1 == 1 && leAt b 8 4 == (b.drop 64).length && Sys2Proof.Machine.slice b 16 48 == sha384 (b.drop 64)

/-- The next stage of an update: the handover block is written once no partition is in a step, then takeover; `good`: the new image
knows the handover VERSION. -/
def State.updateStage (s : State) (u : Upd) (good : Bool) : State :=
  if ¬ s.idleSteps then s
  else if ¬ u.taken then
    { s.setF F.CTL_STATUS_READY 0 0 with hand := s.handBlock, upd := some { u with taken := true, since := s.now } }
  else if ¬ (good ∧ handOk s.hand) then (s.oldSlot.setF F.CTL_FWSTAT_RESULT 0 fwHANDOVER).answer 0x12 u.ctl (u.ctl.answer resFAILED)
  else
    let s := s.oldSlot.fwStart u.svn u.iface u.digest (1 - s.getF F.CTL_STATUS_SLOT 0)
    s.answer 0x12 u.ctl (u.ctl.answer resOK)

/-- FW_UPDATE (R374): the request is refused, or the update drains; the same row again carries an update on to handover and
to takeover (Table 19-7). A pane frequency change in progress, an emergency one too, refuses it (R409). `sigOk`: the image's signature
verifies; `good`: the new image knows the VERSION of the handover block. -/
def execFwUpdate (h : Ctl) (sigOk good : Bool) (s : State) : Out :=
  if ¬ h.fn ≤ 16 then .fault .noSuchUnit
  else match s.upd with
  | some u => if u.ctl = h then .next (s.updateStage u good) else
    s.control 0x12 h .pf false false fun s => (s.addF F.CTL_MLOCK_BUSY 0 1, some (h.answer resBUSY))
  | none =>
    s.control 0x12 h .pf false false fun s =>
      let b := s.fwBytes 0 64
      let code := s.fwCheck h.len sigOk
      let code := if code = fwOK ∧ fiSvn b < s.getF F.CTL_STATUS_SVN 0 then fwSVN else code
      if code ≠ fwOK then (s.fwRefuse code, some (h.answer resRANGE))
      else if s.lockBlocked 3 0 s.lockQ ∨ s.paneMoving then (s.addF F.CTL_MLOCK_BUSY 0 1, some (h.answer resBUSY))
      else if fiIface b ≠ s.fw.iface ∧ s.multiResident ∧ ¬ bitAt (leAt h.args 0 1) 0 then (s, some (h.answer resRESIDENT))
      else
        let u : Upd := ⟨h, fiSvn b, fiIface b, sha384n (s.fwBytes 0 h.len), s.now, false⟩
        let s : State := { (s.setF F.CTL_STATUS_UPDATING 0 1).takeLocks 3 [0] with upd := some u }
        (s.updateStage u good, none)

/-- UPDATE_DRAIN_TIMEOUT (R374): the drain has lasted 100 ms; the update is abandoned and arrivals resume. -/
def execUpdateDrainTimeout (s : State) : Out :=
  match s.upd with
  | none => .next s
  | some u => if u.taken ∨ s.now < u.since + 100000000 then .next s else .next s.abandonUpdate

/-- HANDOVER_TIMEOUT (R374): the new image has not set READY within 300 µs; the old slot resumes. -/
def execHandoverTimeout (s : State) : Out :=
  match s.upd with
  | none => .next s
  | some u =>
    if ¬ u.taken ∨ s.now < u.since + 300000 then .next s
    else .next (s.abandonUpdate.setF F.CTL_FWSTAT_RESULT 0 fwTIMEOUT)

/-! ## The reset of the control complex (R407) -/

/-- Ranuat reads its boundary checkpoint (R407): without a good one its loops begin anew (DESIGN CHOICE, log entry 43). -/
def State.readCkpt (s : State) : State := if handOk s.ckpt then s else { s with overPeriods := 0 }

/-- CONTROL_COMPLEX_RESET (R407, R408): due while the pair is stopped and no partition is in a step; a live update is abandoned, and
behind pane changes the reset waits for the lock. The pair restarts from its boundary checkpoint, and the boundary work it held,
replies and completions, is done again. -/
def execControlComplexReset (s : State) : Out :=
  if ¬ s.pairStopped ∨ ¬ s.idleSteps then .next s
  else
    let s := if s.flag F.CTL_STATUS_UPDATING 0 then s.abandonUpdate else s
    if ¬ s.mayLock 4 0 then .next (s.askLock 4 0)
    else
      let s : State := { (s.grantLock 4 0).addF F.CTL_LOCKSTEP_RESETS 0 1 with pairDown := false }
      let s := (s.setFs 0 [(F.CTL_LOCKSTEP_UNVERIFIED, 0), (F.CTL_LSTEST_COMP_FAIL, 0)]).readCkpt.repost
      .next (((List.range 16).foldl State.recomplete s).dropLocks 4 [0])

end Sys2Proof.Machine
end

