-- ==== Sys2Proof/Machine/BootConfig.lean ====
section
/-! DEFINITION. Configuration copies (R379 to R385): their checks, the selection, and what the boot ROM applies. -/

namespace Sys2Proof.Machine

/-! ## The system section (Table 20-3): its fields stand in the table's order without gaps -/

def ssNodes (b : List Byte) : Nat := leAt b 1 4
def ssMaster (b : List Byte) : Nat := leAt b 5 4
def ssSalt (b : List Byte) : Nat := leAt b 9 4
def ssPtpDomain (b : List Byte) : Nat := leAt b 13 1
def ssLoadS (b : List Byte) : Nat := leAt b 15 2
def ssDebugKey (b : List Byte) : Nat := leAt b 17 48
def ssWheels (b : List Byte) : List (List Nat) :=
  (List.range 64).map (fun r => (slice b (65 + 20 * r) 20).map BitVec.toNat)
def ssRoot (b : List Byte) : Nat := leAt b 1601 48
def ssSize : Nat := 1649

/-- The POLICY record of partition `p`; its layout is the model's: pane mask 4 bytes, port mask 5, then OPKEYS and EN in
bits 0 and 1 of byte 9. -/
def ssPolicy (b : List Byte) (p : Nat) : Policy :=
  let r := slice b (1345 + 16 * p) 16
  ⟨leAt r 0 4, leAt r 4 5 % 2 ^ 36, bitAt (leAt r 9 1) 0, bitAt (leAt r 9 1) 1⟩

def ssPolicies (b : List Byte) : List Policy := (List.range 16).map (ssPolicy b)

/-- A reserved bit of the system section is set, or it has not its size or VERSION. -/
def ssBad (b : List Byte) : Bool :=
  b.length != ssSize || leAt b 0 1 != 1 || decide (ssNodes b < 1) || decide (131072 < ssNodes b) || decide (ssLoadS b < 10) ||
  decide (600 < ssLoadS b) ||
  (List.range 16).any (fun p =>
    let r := slice b (1345 + 16 * p) 16
    decide (16 ≤ leAt r 8 1) || decide (4 ≤ leAt r 9 1) || !zeros (slice r 10 6))

/-! ## Leaf proof (R383) -/

/-- The root from a leaf hash, its index and its siblings. -/
def proofRoot : Nat → Nat → List Nat → Nat
  | h, _, [] => h
  | h, i, x :: t =>
    let (l, r) := if i % 2 = 0 then (h, x) else (x, h)
    proofRoot (leNat (sha384 (leBytes 1 1 ++ leBytes 48 l ++ leBytes 48 r))) (i / 2) t

def NorCopy.proofOk (c : NorCopy) : Bool :=
  c.proof.length == clog2 (ssNodes c.sys) && decide (c.index < ssNodes c.sys) &&
  proofRoot (sha384n (leBytes 1 0 ++ c.node.bytes)) c.index c.proof == ssRoot c.sys

/-! ## Ports (R230, R231, R256) -/

/-- The longest round trip of an optical port, ns. -/
def PortRec.trip (r : PortRec) : Nat := (if r.medium = 2 then 230 else 710) + 10 * r.lengthM

/-- Headroom H in KiB. -/
def PortRec.hKib (r : PortRec) : Nat :=
  match r.cls with
  | 0 => 0
  | 1 => 64
  | 2 => 96
  | _ => min 2560 (max 128 (64 * ((r.trip * 21165 + 6553599) / 6553600)))

/-- Class, medium and length keep Table 11-2. -/
def PortRec.reachOk (r : PortRec) : Bool :=
  match r.cls with
  | 0 => decide (r.medium ≤ 3)
  | 1 => r.medium == 0
  | 2 => decide (r.medium ≤ 1)
  | 3 => (r.medium == 2 || r.medium == 3) && decide (1 ≤ r.lengthM) && decide (r.lengthM ≤ 2000)
  | _ => false

/-- The allotment in 64ths of a KiB (R256). -/
def PortRec.allot (r : PortRec) : Nat :=
  if r.cls = 0 then 0 else 64 * r.hKib + 64 * 64 + (4 * r.hKib + 1024) + (r.hKib + 1024) + 64 * r.commonKib

/-- Allotments of a configuration hold. -/
def allotsOk (ports : List PortRec) : Bool :=
  ports.all (fun r => r.cls == 0 || decide (2 * r.hKib + 96 ≤ r.commonKib)) &&
  [0, 1].all (fun j => decide ((((ports.drop (18 * j)).take 18).map PortRec.allot).sum ≤ 64 * 23552))

/-! ## Hinge wheels (R384) -/

/-- The crossing of a wheel record. -/
def wheelCrossing (r : Nat) : Nat :=
  if r < 16 then 0 else if r < 32 then 1 else if r < 40 then 2 else if r < 48 then 3 else if r < 56 then 4 else 5

/-- An owner code may hold a slot of a crossing: it sits on the sending side. -/
def ownerSends (h code : Nat) : Bool :=
  let fromLeaf := fun (l : Nat) =>
    (decide (0x10 + 16 * l ≤ code) && decide (code < 0x20 + 16 * l)) || (decide (0x30 + 4 * l ≤ code) && decide (code < 0x34 + 4 * l)) ||
    code == 0x45 || code == 0x46
  let fromJamb := decide (0x40 ≤ code) && decide (code ≤ 0x44)
  code == 0x01 ||
  (match h with
   | 0 => fromLeaf 0
   | 1 => fromLeaf 1
   | 2 => fromLeaf 0
   | 3 => fromJamb || code == 0x45
   | 4 => fromLeaf 1
   | _ => fromJamb)

def wheelsOk (w : List (List Nat)) : Bool :=
  w.length == 64 && w.zipIdx.all (fun x => x.1.headD 1 == 0 && (x.1.drop 1).all (ownerSends (wheelCrossing x.2)))

/-! ## Base entries (R268, Table 13-1) -/

/-- The candidate ports of an entry. -/
def baseCands (w : Nat) : List Nat := (List.range (bitsOf w 32 3)).map (fun i => bitsOf w (8 + 6 * i) 6)

/-- A base entry keeps Table 13-1, names a group of nodes below 131,072 (R20), and names ports and a partition that POLICY permits. -/
def baseOk (pol : List Policy) (e : Bool × Nat × Nat) : Bool :=
  let w := e.2.2
  let n := bitsOf w 32 3
  let p := pol.getD (bitsOf w 59 4) ⟨0, 0, false, false⟩
  decide (e.2.1 < if e.1 then 128 else 4096) && bitAt w 63 && bitsOf w 55 4 == 0 && bitsOf w 36 6 == 63 && !bitAt w 35 &&
  decide (1 ≤ n) && decide (n ≤ 4) && bitsOf w 0 8 == 0 && (if e.1 then bitsOf w 49 6 == 0 else decide (bitsOf w 42 13 < 1024)) &&
  (List.range 4).all (fun i => decide (i < n) || bitsOf w (8 + 6 * i) 6 == 0) && p.en && (baseCands w).all (fun q => bitAt p.ports q && decide (q < 36))

/-- No two base entries share OWNER and KEY in a table. -/
def baseApart : List (Bool × Nat × Nat) → Bool
  | [] => true
  | e :: t =>
    t.all (fun f => f.1 != e.1 || (f.2.1 != e.2.1 && (bitsOf f.2.2 59 4, bitsOf f.2.2 42 13) != (bitsOf e.2.2 59 4, bitsOf e.2.2 42 13))) &&
    baseApart t

/-- Policies of two partitions overlap in no pane. -/
def policyApart : List Policy → Bool
  | [] => true
  | p :: t => t.all (fun q => p.panes &&& q.panes == 0) && policyApart t

/-! ## The checks of a copy (R380, R385) -/

/-- A node ID in the copy is 131,072 or above; 0xF_FFFF stands for any partner. -/
def NorCopy.nodesOk (c : NorCopy) : Bool :=
  decide (ssMaster c.sys < 131072) && decide (c.node.node < 131072) && (c.node.slots.filterMap id).all (fun n => decide (n < 131072)) &&
  c.node.ports.all (fun r => decide (r.expNode < 131072) || r.expNode == 0xFFFFF)

/-- UPPORT or BKPORT is none, or a port of a class other than 0. -/
def NodeSect.upOk (n : NodeSect) (q : Nat) : Bool := q == 63 || (decide (q < 36) && (n.ports.getD q ⟨0, 0, 0, 0, 0, 0⟩).cls != 0)

/-- Every check of R385. -/
def NorCopy.contentOk (c : NorCopy) : Bool :=
  let n := c.node
  let master := n.node == ssMaster c.sys
  !ssBad c.sys && !n.rsv && zeros (slice c.head 36 28) && n.slots.length == 16 && n.ports.length == 36 && decide (n.slot < 16) &&
  c.nodesOk && c.proofOk && decide (n.depth ≤ 8) && ((n.depth == 0) == master) && n.upOk n.upport && n.upOk n.bkport &&
  n.ports.all PortRec.reachOk && allotsOk n.ports && wheelsOk (ssWheels c.sys) &&
  n.base.all (baseOk (ssPolicies c.sys)) && baseApart n.base && policyApart (ssPolicies c.sys)

/-- VERSION, MAGIC, LENGTH and the places of the sections. -/
def NorCopy.formatOk (c : NorCopy) : Bool :=
  let h := c.head
  let len := leAt h 4 4
  let within := fun (o n : Nat) => decide (64 ≤ o) && decide (o + n ≤ len - 200)
  h.length == 64 && leAt h 0 1 == 1 && leAt h 1 3 == 0x474643 && decide (464 ≤ len) && decide (len ≤ 16777216) &&
  within (leAt h 16 4) (leAt h 20 4) && within (leAt h 24 4) (leAt h 28 4) && leAt h 20 4 == c.sys.length &&
  leAt h 28 4 == c.node.bytes.length && within (leAt h 32 4) (4 + 48 * c.proof.length)

def NorCopy.seq (c : NorCopy) : Nat := leAt c.head 8 8

/-- The outcome of a copy (Table 20-11): 0 passed, 1 read error, 2 format, 3 SIG, 4 content. -/
def NorCopy.result (c : NorCopy) (key : Nat) : Nat :=
  if c.readErr then 1
  else if ¬ c.formatOk then 2
  else if key = 0 ∨ c.signer ≠ key ∨ ¬ c.sigOk then 3
  else if ¬ c.contentOk then 4
  else 0

/-- The selection (R381): the copy used (true: B), when one passes. -/
def selectCopy (a b : NorCopy) (key : Nat) : Option Bool :=
  match a.result key, b.result key with
  | 0, 0 => some (decide (a.seq < b.seq))
  | 0, _ => some false
  | _, 0 => some true
  | _, _ => none

/-! ## What stage 5 applies (R387) -/

/-- A port's registers. -/
def State.applyPort (s : State) (q : Nat) (r : PortRec) : State :=
  let h := r.hKib
  let s := s.setFs q [(F.PORT_CFG_EXP_NODE, r.expNode), (F.PORT_CFG_EXP_PORT, r.expPort), (F.PORT_CFG_LENGTH_M, r.lengthM),
    (F.PORT_CFG_H_64K, (h + 63) / 64), (F.PORT_CFG_MEDIUM, r.medium), (F.PORT_CFG_CLASS, r.cls)]
  if r.cls = 0 then s.setF F.PORT_STATUS_STATE q 0
  else
    let cap := r.commonKib - h
    s.setFs q [(F.VCB_ALLOC_TOTAL_KIB, (r.allot + 63) / 64), (F.VCB_ALLOC_COMMON_KIB, r.commonKib), (F.VCB_CAP_CAP0_KIB, cap),
      (F.VCB_CAP_CAP1_KIB, cap), (F.VCB_CAP_CAP3_KIB, cap), (F.VCB_CAP_CAP4_KIB, cap)]

/-- A cellar population and capacity that R173 allows. -/
def cellarOk (ch gib : Nat) : Bool := ch == 0 || ((ch == 8 || ch == 16) && (gib == 16 || gib == 32 || gib == 64))

/-- The cellar (R173). -/
def State.applyCellar (s : State) (ch gib : Nat) : State :=
  if cellarOk ch gib then
    s.setFs 0 [(F.MEM_STATUS_CELLAR_MAP, ch / 8), (F.CTL_FEAT3_CELLAR_CH, ch), (F.CTL_FEAT4_CELLAR_GIB, ch * gib)]
  else s.setF F.BOOT_STATUS_CELLAR_POP 0 1

/-- The power limit, clamped (R420). -/
def State.applyLimit (s : State) (w : Nat) : State :=
  let v := min 1600 (max 400 w)
  s.setFs 0 [(F.PWR_LIMIT_LIMIT_W, v), (F.PWR_STATUS_LIMIT_CLAMPED, bit (v != w))]

/-- Node, board slots, routes and beacon tree. -/
def State.applyNode (s : State) (n : NodeSect) (sys : List Byte) : State :=
  let s := s.setFs 0 [(F.RTE_SELF_NODE, n.node), (F.RTE_SELF_SLOT, n.slot)]
  let s := n.slots.zipIdx.foldl (fun s x =>
    match x.1 with
    | some m => s.setFs x.2 [(F.RTE_SLOT_VALID, 1), (F.RTE_SLOT_NODE, m)]
    | none => s) s
  let s := n.ports.zipIdx.foldl (fun s x => s.applyPort x.2 x.1) s
  let s := [0, 1].foldl (fun s j => s.setF F.VCB_POOL_ALLOC_KIB j
    ((((((n.ports.drop (18 * j)).take 18).map PortRec.allot).sum + 63) / 64) + 1024)) s
  let s := n.base.foldl (fun s e => s.wrReg (if e.1 then .RTE_MBR else .RTE_GRP) e.2.1 e.2.2) s
  s.setFs 0 [(F.TIME_CTRL_PTP_DOMAIN, ssPtpDomain sys), (F.TIME_CTRL_BKPORT, n.bkport), (F.TIME_CTRL_UPPORT, n.upport),
    (F.TIME_CTRL_PTP_EN, bit n.ptpEn), (F.TIME_CTRL_MASTER, bit (n.node == ssMaster sys)), (F.TIME_STATUS_DEPTH, n.depth)]

/-- Everything stage 5 writes from the selected copy; CD is computed with no interface version yet. -/
def State.applyConfig (s : State) (c : NorCopy) : State :=
  let n := c.node
  let pol := ssPolicies c.sys
  let s : State :=
    { s with
      boot := { s.boot with policy := pol, wheels := ssWheels c.sys, master := ssMaster c.sys, loadS := ssLoadS c.sys,
                            debugKey := ssDebugKey c.sys, mgmt := n.mgmt, base := n.base, eth := n.eth, dscp := leAt c.sys 14 1, sysHash := sha384n c.sys } }
  let s := s.setF F.MEM_SALT_SALT 0 (ssSalt c.sys)
  let s := (List.range 16).foldl (fun s p => s.setF F.SEC_PCTL_OPKEYS p (bit (ssPolicy c.sys p).opkeys)) s
  let s := ((s.applyNode n c.sys).applyCellar n.cellarCh n.cellarGib).applyLimit n.limitW
  s.setF F.CTL_CDIG_DIGEST 0 (s.cdOf 0)

end Sys2Proof.Machine
end

