-- ==== Sys2Proof/Machine/Boot.lean ====
section
/-! DEFINITION. Start-up, reset and power failure (R386 to R390, R418). -/

namespace Sys2Proof.Machine

/-! ## What a reset keeps (R387, R418) -/

/-- The package as a reset leaves it: the always-on domain is kept unless its rail was lost (the timebase, the tamper
record), the counter sectors of the NOR are kept, the key store is empty and every partition FREE. The bytes of HBM,
cellar and scratchpad stay where they stand when main power stayed, under keys that are gone. -/
def State.afterReset (s : State) (cold aoLoss : Bool) : State :=
  let r : State :=
    { State.reset with
      pending := s.pending
      free := s.free
      mem := if cold then [] else (State.reset.rekey s).mem
      gran := if cold then [] else (State.reset.rekey s).gran
      flaws := if cold then [] else (State.reset.rekey s).flaws
      nextSess := s.nextSess
      boot := { Boot.init with ctr0 := s.boot.ctr0, ctr1 := s.boot.ctr1, held := false, low := s.boot.low } }
  if aoLoss then r.setF F.SEC_STATUS_AO_LOSS 0 1
  else
    let r : State := { r with time := { r.time with frac := s.time.frac }, tamp := ⟨s.tamp.cycled || cold, if cold then [] else s.tamp.reports⟩ }
    let r := (r.setF F.TIME_NOW_NS 0 s.now).wrReg .SEC_TAMPER 0 (s.rdReg .SEC_TAMPER 0)
    (r.wrReg .SEC_TTIME 0 (s.rdReg .SEC_TTIME 0)).setF F.SEC_STATUS_TAMPERED 0 (s.getF F.SEC_STATUS_TAMPERED 0)

/-! ## Failures of a start (R388) -/

/-- Every port is held in reset and unpowered: it is in DOWN, or, of class 0, in DISABLED, and holds nothing. -/
def State.holdPorts (s : State) : State :=
  (List.range 36).foldl (fun (s : State) (q : Nat) =>
    (s.wrReg .PORT_STATUS q (Reg.reset .PORT_STATUS q).toNat).setF F.PORT_STATUS_STATE q (if s.getF F.PORT_CFG_CLASS q = 0 then 0 else 1))
    (({ s with ports := [], rq := [], locks := s.locks.filter (fun l => l.1 != 6) } : State).setLockQ (s.lockQ.filter (fun l => l.1 != 6))).lockBits

/-- Going-away flits with a reason go, in place of all other flits, on every port in UP or MGMT_ONLY, now or later (R263). -/
def State.goAway (s : State) (reason : Nat) : State :=
  (List.range 36).foldl (fun s q => s.modPort q (fun x => { x with going := reason })) s

/-- The ports are held in reset: at once, or, when one is in UP or MGMT_ONLY, after 2 µs of going-away flits (R263). -/
def State.downPorts (s : State) : State :=
  if (List.range 36).any (fun q => s.pstate q == 8 || s.pstate q == 9) then
    { s.goAway 2 with boot := { s.boot with holdIn := some 1000 } }
  else s.holdPorts

/-- The start enters vestibule mode at a stage, with every port held in reset. -/
def State.vestibule (s : State) (reason : Nat) : State :=
  s.downPorts.setFs 0 [(F.BOOT_STATUS_REASON, reason), (F.BOOT_STATUS_VESTIBULE, 1)]

/-- The start fails and stops at its stage, with what vestibule mode holds in reset held (R388). -/
def State.failStart (s : State) (reason : Nat) : State :=
  s.downPorts.setFs 0 [(F.BOOT_STATUS_REASON, reason), (F.BOOT_STATUS_FAILED, 1)]

def State.stage (s : State) (n : Nat) : State := s.setF F.BOOT_STATUS_STAGE 0 n

def rsFUSE : Nat := 1
def rsTAMPER : Nat := 2
def rsNOR : Nat := 3
def rsCONFIG_NONE : Nat := 4
def rsCONFIG_INVALID : Nat := 5
def rsREPEATED_FAIL : Nat := 6
def rsCROSS_CAL : Nat := 7
def rsMEMORY : Nat := 8
def rsRANUAT_TIMEOUT : Nat := 9
def rsPWRFAIL : Nat := 10

/-! ## Stages 1 to 8 (Table 20-6) -/

/-- The fused panes make one of the grades of Table 0-1: none, or four, two on each leaf (R2, R3). -/
def Fuses.gradeOk (f : Fuses) : Bool :=
  f.fused == 0 || (decide (f.fused < 2 ^ 32) && (onesOf (f.fused % 65536) 16).length == 2 && (onesOf (f.fused / 65536) 16).length == 2)

/-- The fused and hard values (R154, R387 stage 1). REV reads B0 on every package (R1). The UDS is read once, for CDI_0, and then locked
(R351). -/
def State.applyFuses (s : State) (f : Fuses) : State :=
  let s : State := { s with boot := { s.boot with
    fwKey := f.fwKey, cfgKey := f.cfgKey, cert := f.cert, udsLocked := true, cdi0 := hmac f.uds (leBytes 48 Config.bootRom) } }
  let fused := onesOf f.fused 32
  let s := s.setFs 0 [(F.CTL_FEAT0_GRADE, if f.fused = 0 then 1 else 2), (F.CTL_FEAT0_CORES, 256 - 8 * fused.length),
    (F.CTL_FEAT3_PANE_FUSED, f.fused), (F.CTL_FWSTAT_MIN_SVN, f.minSvn), (F.SEC_DEVID_DIGEST, f.devid)]
  fused.foldl (fun s q =>
    let s := s.setF F.PANE_FREQ_STATE q 2
    (List.range 8).foldl (fun s k => s.setF F.CORE_ID_FUSED (8 * q + k) 1) s) s

/-- Stage 6: the crossings calibrate to their targets (R208, Table 10-2); false when one fails. -/
def State.calList (s : State) (fin fout : Fld × Fld × Fld × Fld) (tin tout : Nat → Nat) (skip : Nat → Bool) :
    List ((Cal × Cal) × Nat) → State × Bool
  | [] => (s, true)
  | (c, i) :: t =>
    if skip i then s.calList fin fout tin tout skip t
    else
      let useIn := tin i != 0
      let s := if useIn then s.calibrate i fin c.1 (tin i) else s
      let s := s.calibrate i fout c.2 (tout i)
      let ok := (!useIn || calOk c.1 (tin i)) && calOk c.2 (tout i)
      let (s, more) := s.calList fin fout tin tout skip t
      (s, ok && more)

/-- What `n` crossings measure; one that is not named finds no calibration. -/
def calsOf (l : List (Cal × Cal)) (n : Nat) : List ((Cal × Cal) × Nat) :=
  (List.range n).map (fun i => (l.getD i (⟨0, 0, 0⟩, ⟨0, 0, 0⟩), i))

/-- Every crossing of stage 6. The leaf hinge registers (0 and 1) use only the OUT half. -/
def State.calAll (s : State) (x : StartIn) : State × Bool :=
  let (s, a) := s.calList fPaneIn fPaneOut (fun _ => 6) (fun _ => 6) (fun q => s.getF F.PANE_FREQ_STATE q == 2) (calsOf x.paneCals 32)
  let (s, b) := s.calList fHingeIn fHingeOut (fun h => if h < 2 then 0 else 24) (fun h => if h < 2 then 24 else 20)
    (fun _ => false) (calsOf x.hingeCals 6)
  let (s, c) := s.calList fStackIn fStackOut (fun _ => 8) (fun _ => 8) (fun _ => false) (calsOf x.stackCals 8)
  (s, a && b && c)

/-- PWRFAIL_N acts in a stage of the start. -/
def StartIn.cutIn (x : StartIn) (n : Nat) : Bool := x.cut.any (fun c => c.1 == n)

/-- PWRFAIL_N ends the start (R389): no step, channel or port works yet, and the package holds until reset. -/
def State.cutShort (s : State) : State :=
  ({ s with boot := { s.boot with quiet := true } } : State).setFs 0 [(F.BOOT_STATUS_PWRFAIL, 1), (F.BOOT_STATUS_REASON, rsPWRFAIL)]

/-- Stage 7: every port of class 1 to 3 trains; then the package waits for an image. -/
def State.stage7 (s : State) (x : StartIn) : State :=
  let s := s.stage 7
  if x.cutIn 7 then s.cutShort
  else ((List.range 36).foldl (fun s q => if s.getF F.PORT_CFG_CLASS q = 0 then s else s.train q 0) s).stage 8

/-- Stage 6: crossings and memories. -/
def State.stage6 (s : State) (x : StartIn) : State :=
  let s := s.stage 6
  if x.cutIn 6 then s.cutShort
  else match s.calAll x with
  | (s, false) => s.failStart rsCROSS_CAL
  | (s, true) => if ¬ x.memOk then s.failStart rsMEMORY else s.stage7 x

/-- Stage 5: the configuration is applied. -/
def State.stage5 (s : State) (x : StartIn) (c : NorCopy) : State :=
  let s := s.stage 5
  if x.cutIn 5 then s.cutShort else (s.applyConfig c).stage6 x

/-- Stage 4: the attempt is counted. A counter write that PWRFAIL_N cuts short has been made or has not (R389). -/
def State.stage4 (s : State) (x : StartIn) (c : NorCopy) : State :=
  let s := s.stage 4
  let att := match s.boot.counting with
    | some (r, _) => if leAt r 8 8 = c.seq then leAt r 1 1 else 0
    | none => 0
  let s : State := { s with boot := { s.boot with cfgSeq := c.seq } }
  let s := s.setF F.BOOT_ATTEMPT_ATTEMPTS 0 att
  if x.cut = some (4, false) then s.cutShort
  else if 3 ≤ att then s.vestibule rsREPEATED_FAIL
  else
    let s := s.writeCtr (att + 1)
    if x.cutIn 4 then s.cutShort else s.stage5 x c

/-- Stage 2: both counter records are read (R386). -/
def State.stage2 (s : State) : State :=
  match s.boot.counting with
  | some (r, _) => s.setF F.BOOT_ATTEMPT_REC_SEQ 0 (leAt r 4 4)
  | none => s.setF F.BOOT_STATUS_CTR_RESET 0 1

/-- Stage 3: a copy is verified and selected (R381). -/
def State.stage3 (s : State) (x : StartIn) : State :=
  let s := s.stage 3
  if x.cutIn 3 then s.cutShort
  else
  let key := x.fuses.cfgKey
  let ra := x.copyA.result key
  let rb := x.copyB.result key
  let s := s.setFs 0 [(F.BOOT_CFGSEL_A_RESULT, ra), (F.BOOT_CFGSEL_B_RESULT, rb)]
  match selectCopy x.copyA x.copyB key with
  | none => s.vestibule (if ra = 4 ∨ rb = 4 then rsCONFIG_INVALID else rsCONFIG_NONE)
  | some isB =>
    let c := if isB then x.copyB else x.copyA
    let other := if isB then ra else rb
    let s := s.setFs 0 [(F.BOOT_CFGSEL_SEQ, c.seq % 2 ^ 48), (F.BOOT_CFGSEL_COPY, bit isB), (F.BOOT_STATUS_FALLBACK, bit (other == 4))]
    s.stage4 x c

/-- RESET (R387, R418, R428): RESET_N rises, and the boot ROM runs stages 1 to 8 of Table 20-6; it then waits for a Ranuat image, or
it stops in vestibule mode or as a failed start. Due while the package is held in reset and no rail holds it there (after a cycle of
main power none does); RESET_N is low for at least 10 µs, so a reset that was still due has taken effect. While a die is below 0 °C the
boot ROM waits in stage 1: the package stays held, and the row again carries the start on. -/
def execReset (x : StartIn) (s : State) : Out :=
  if ¬ (s.boot.held ∨ s.boot.resetIn.isSome) ∨ (s.boot.low ≠ [] ∧ ¬ x.cold) then .next s
  else
    let s : State := { s with boot := { s.boot with low := if x.cold then [] else s.boot.low } }
    let s := (s.afterReset x.cold x.aoLoss).stage 1
    if x.cutIn 1 then .next s.cutShort
    else if x.dieC < 0 then .next { s with boot := { s.boot with held := true } }
    else if ¬ (x.fuseOk ∧ x.fuses.gradeOk) then .next (s.vestibule rsFUSE)
    else
      let s := s.applyFuses x.fuses
      if s.flag F.SEC_STATUS_TAMPERED 0 then .next (s.vestibule rsTAMPER)
      else
        let s := s.stage 2
        if x.cutIn 2 then .next s.cutShort
        else if ¬ x.norOk then .next (s.vestibule rsNOR)
        else .next (s.stage2.stage3 x)

/-- RANUAT_TIMEOUT (R387): no image has verified within LOAD_S of stage 8; the start fails. -/
def execRanuatTimeout (s : State) : Out :=
  if s.boot.held ∨ s.boot.quiet ∨ s.getF F.BOOT_STATUS_STAGE 0 ≠ 8 ∨ s.flag F.CTL_STATUS_READY 0 ∨ s.flag F.BOOT_STATUS_FAILED 0 ∨
    s.flag F.BOOT_STATUS_VESTIBULE 0 then .next s
  else .next (s.failStart rsRANUAT_TIMEOUT)

/-! ## Going away (R263, R389, R418) -/

/-- A reset takes effect after `n` ticks of going-away flits with REASON 0x02, or sooner where one is due sooner (R263, R418). -/
def State.resetSoon (s : State) (n : Nat) : State :=
  { s.goAway 2 with boot := { s.boot with resetIn := some (min n (s.boot.resetIn.getD n)) } }

/-- RESET_ASSERT (R418): RESET_N falls while the package runs: the reset takes effect 3 µs later. -/
def execResetAssert (s : State) : Out :=
  if s.boot.held then .next s else .next (s.resetSoon 1500)

/-- The reset takes effect: everything but the always-on domain and what stands in memories is reset, and the package is held. -/
def State.takeReset (s : State) : State :=
  let r := s.afterReset false false
  { r with boot := { r.boot with held := true } }

/-- What a tick brings nearer: a hold of the ports (R388), and a reset (R418). -/
def State.dueHold (s : State) : State :=
  match s.boot.holdIn with
  | none => s
  | some n =>
    if n ≤ 1 then { s.holdPorts with boot := { s.boot with holdIn := none } }
    else { s with boot := { s.boot with holdIn := some (n - 1) } }
def State.dueReset (s : State) : State :=
  match s.boot.resetIn with
  | none => s
  | some n => if n ≤ 1 then s.takeReset else { s with boot := { s.boot with resetIn := some (n - 1) } }

/-- One tick of the 500 MHz clock: the timebase, and what becomes due. -/
def State.tick (s : State) : State := s.timeTick.runPorts.dueHold.dueReset

/-- The actions of Table 20-8: every step aborts, DMA channels stop, going-away flits with REASON 0x01, the log is copied,
and the package is quiet. -/
def State.powerFail (s : State) : State :=
  let s : State := { s with boot := { s.boot with quiet := true } }
  let s := s.abortAll 0x0C (List.range 16)
  let s := (List.range 64).foldl State.stopChan s
  let s := (s.goAway 1).logCopy
  s.setFs 0 [(F.BOOT_STATUS_PWRFAIL, 1), (F.BOOT_STATUS_REASON, rsPWRFAIL)]

/-- PWRFAIL (R389): PWRFAIL_N has been low for 1 µs. An assertion during start-up ends the start with reason PWRFAIL. -/
def execPwrfail (s : State) : Out :=
  if s.boot.held ∨ s.boot.quiet then .next s
  else .next s.powerFail

end Sys2Proof.Machine
end

