-- ==== Sys2Proof/Machine/Security.lean ====
section
/-! DEFINITION. Security (18): partitions, keys, teardown, SPDM, debug unlock and tamper. -/

namespace Sys2Proof.Machine

/-! ## Partitions -/

/-- Table 18-16. -/
def pcFREE : Nat := 0
def pcACTIVE : Nat := 1
def pcREVOKED : Nat := 2
def pcCLEARING : Nat := 3

/-- A partition that is not FREE. -/
def State.exists' (s : State) (p : Nat) : Bool := s.getF F.SEC_PCTL_STATE p != pcFREE

/-- SEC_STATUS.ACTIVE follows the partitions. -/
def State.countParts (s : State) : State := s.setF F.SEC_STATUS_ACTIVE 0 ((List.range 16).filter s.exists').length

def State.psecOf (s : State) (p : Nat) : PSec := tget PSec.init s.psec p
def State.modPsec (s : State) (p : Nat) (f : PSec → PSec) : State := { s with psec := tmod PSec.init s.psec p f }

/-- Registers of a name go back to their reset value. -/
def State.resetRegs (s : State) (r : Reg) (l : List Nat) : State := l.foldl (fun s i => s.wrReg r i (r.reset i).toNat) s

/-- The written registers of a name, by index. -/
def State.written (s : State) (r : Reg) : List (Nat × Word64) := tget [] s.regs r.code

/-! ## CREATE (R343, R346) -/

/-- Two ranges have an element in common. -/
def shares (f1 n1 f2 n2 : Nat) : Bool := n1 != 0 && n2 != 0 && overlap f1 n1 f2 n2

/-- A pane, port or ring of `p` is another partition's. -/
def State.clashPart (s : State) (p q : Nat) : Bool :=
  q != p && s.exists' q &&
  (s.getF F.SEC_PPANE_PANES p &&& s.getF F.SEC_PPANE_PANES q != 0 || s.getF F.SEC_PPORT_PORTS p &&& s.getF F.SEC_PPORT_PORTS q != 0 ||
   shares (s.getF F.SEC_PRING_BASE p) (s.getF F.SEC_PRING_COUNT p) (s.getF F.SEC_PRING_BASE q) (s.getF F.SEC_PRING_COUNT q))

/-- The policy of a partition permits its panes and ports. -/
def State.permits (s : State) (p : Nat) : Bool :=
  let y := s.boot.policy.getD p ⟨0, 0, false, false⟩
  y.en && s.getF F.SEC_PPANE_PANES p &&& y.panes == s.getF F.SEC_PPANE_PANES p &&
  s.getF F.SEC_PPORT_PORTS p &&& y.ports == s.getF F.SEC_PPORT_PORTS p

/-- The first refusal of a CREATE in the order of R343; 0: accepted. -/
def State.createErr (s : State) (p : Nat) : Nat :=
  if s.getF F.SEC_PPANE_PANES p = 0 ∨ s.getF F.SEC_PPANE_PANES p &&& s.getF F.CTL_FEAT3_PANE_FUSED 0 ≠ 0 then 0x07
  else if (List.range 16).any (s.clashPart p) then 0x01
  else if ¬ s.flag F.MEM_PHBM_EN p then 0x03
  else if ¬ s.permits p then 0x02
  else if s.flag F.SEC_STATUS_DRBG_FAIL 0 then 0x06
  else if s.flag F.SEC_STATUS_TAMPERED 0 then 0x05
  else 0

/-- The cores of a partition's panes. -/
def State.coresOf (s : State) (p : Nat) : List Nat :=
  (List.range 256).filter (fun n => bitAt (s.getF F.SEC_PPANE_PANES p) (n / 8))

/-- Base entries of a partition that a teardown cleared are written again from Ranuat's copy, as any entry write (R268). -/
def State.restoreBase (s : State) (p : Nat) : State :=
  (s.boot.base.filter (fun e => eOwner e.2.2 == p)).foldl (fun (s : State) (e : Bool × Nat × Nat) =>
    let r : Reg := if e.1 then .RTE_MBR else .RTE_GRP
    if eValid (s.rdReg r e.2.1) then s else s.writeEntry e.1 e.2.1 e.2.2) s

/-- A write of CREATE: the memory key is drawn and the partition is ACTIVE, or ERR says why not. The key's value stands as
its number, one no key had before. -/
def State.create (s : State) (p : Nat) : State :=
  if s.exists' p then s
  else
    let e := s.createErr p
    if e ≠ 0 then s.setF F.SEC_PCTL_ERR p e
    else
      let (s, _) := s.takeFree
      let s : State := { s with keys := tset MemKey.init s.keys p ⟨s.free, false⟩ }
      let s := (s.coresOf p).foldl (fun s n => s.setF F.CORE_ID_PARTITION n p) s
      (s.setF F.SEC_PCTL_STATE p pcACTIVE).countParts.restoreBase p

/-- CREATE (R343): Ranuat writes SEC_PCTL.CREATE of partition `p`; the lockstep pair makes no change of a partition while it is
stopped (R370, R406). -/
def execCreate (p : Nat) (s : State) : Out :=
  if ¬ p < 16 then .fault .noSuchUnit else if s.pairStopped then .next s else .next (s.create p)

/-- A write of RQT_PART (R329). -/
def State.writeRqt (s : State) (p v : Nat) : State :=
  let e := bitsOf v 0 16
  let en := bitsOf v 16 17
  let c := bitsOf v 33 12
  let cn := bitsOf v 45 13
  let clash := (List.range 16).any (fun q => q != p &&
    (shares e en (s.getF F.RQT_PART_ENT_BASE q) (s.getF F.RQT_PART_ENT_COUNT q) ||
     shares c cn (s.getF F.RQT_PART_CUST_BASE q) (s.getF F.RQT_PART_CUST_COUNT q)))
  if s.flag F.RQT_SERVE_OPEN p ∨ 65536 < e + en ∨ 4096 < c + cn ∨ clash then s
  else s.setFs p [(F.RQT_PART_ENT_BASE, e), (F.RQT_PART_ENT_COUNT, en), (F.RQT_PART_CUST_BASE, c), (F.RQT_PART_CUST_COUNT, cn)]

/-- The owners of a partition are written (R343 step 1); a busy channel keeps its owner (R189), and a queue pair that of another
partition (R341). -/
def State.setOwners (s : State) (p : Nat) (o : Owners) : State :=
  let s := s.setFs p [(F.SEC_PPANE_PANES, o.panes), (F.SEC_PPORT_PORTS, o.ports), (F.SEC_PRING_BASE, o.ringBase),
    (F.SEC_PRING_COUNT, o.ringCount)]
  let s := if 1024 < o.poolMib then s else s.setF F.SEC_PRING_POOL_MIB p o.poolMib
  let s := ((s.writePhbm p o.hbm).writePcel p o.cel).writeRqt p o.rqt
  let s := o.chans.foldl (fun s i => if s.flag F.DMA_CHSTAT_BUSY i then s else s.setF F.DMA_CHCFG_OWNER i p) s
  o.qps.foldl (fun (s : State) (x : Nat × Nat) =>
    let i := x.1 * 256 + x.2
    if (s.qp i).owner = 0 ∨ (s.qp i).owner = p + 1 ∨ ¬ s.exists' ((s.qp i).owner - 1) then s.setQp i ⟨p + 1, false, []⟩ else s) s

/-- The owners name units of the package. -/
def Owners.ok (o : Owners) : Bool :=
  decide (o.panes < 2 ^ 32) && decide (o.ports < 2 ^ 36) && decide (o.ringBase < 65536) && decide (o.ringCount ≤ 65536) &&
  o.chans.all (fun i => decide (i < 64)) && o.qps.all (fun x => decide (x.1 < 2) && decide (x.2 < 256))

/-- PART_CREATE (R343, Table 19-4): the PF has Ranuat write the owners of a FREE partition and CREATE it. -/
def execPartCreate (h : Ctl) (p : Nat) (o : Owners) (s : State) : Out :=
  s.control 0x10 h .pf true false fun s =>
    if ¬ (p < 16 ∧ o.ok) then (s, some (h.answer resRANGE))
    else if s.exists' p then (s, some ⟨resFAILED, h.handle, leBytes 1 0⟩)
    else
      let s := (s.setOwners p o).create p
      if s.exists' p then (s, some (h.answer resOK))
      else (s, some ⟨resFAILED, h.handle, leBytes 1 (s.getF F.SEC_PCTL_ERR p)⟩)

/-! ## Sessions -/

/-- Sessions of a requester end. -/
def State.endSessions (s : State) (who : Nat) : State := { s with sessions := s.sessions.filter (fun x => x.who != who) }

/-- KEYOP follows the handshakes that are not finished. -/
def State.keyOp (s : State) : State := s.setF F.SEC_STATUS_KEYOP 0 (bit (s.sessions.any (fun x => !x.est)))

/-- The session of a partition ends, with the bounce keys derived from it. -/
def State.unbindSession (s : State) (p : Nat) : State :=
  let s := (s.endSessions (p + 1)).setBounce p { s.bounceOf p with keyIn := [], keyOut := [] }
  ((s.modPsec p (fun x => { x with session := none })).setF F.SEC_PCTL_SESSION p 0).keyOp

/-! ## Revocation and teardown (R347, R348) -/

/-- The key of a partition is revoked: every controller refuses it and its step aborts. -/
def State.revoke (s : State) (p : Nat) : State :=
  let s := (s.setF F.SEC_PCTL_STATE p pcREVOKED)
  let s : State := { s with keys := tmod MemKey.init s.keys p (fun k => { k with revoked := true }) }
  s.abortStep p 0x0B 0

/-- The DMA channels of a partition. -/
def State.chansOf (s : State) (p : Nat) : List Nat := (List.range 64).filter (fun i => s.chanOwner i == p)

/-- Stage 3: scratchpads, engines, tiles, latches and flags of the partition's cores are cleared. -/
def State.clearCores (s : State) (ns : List Nat) : State :=
  let inside := fun (a : Nat) => ns.any (fun n => decide (spadAddr n 0 ≤ a) && decide (a < spadAddr n spadSize))
  let s : State :=
    { s with
      mem := s.mem.filter (fun c => !inside c.1)
      cores := s.cores.filter (fun c => !ns.contains c.1) }
  let s := s.resetRegs .LATCH_VALUE (ns.flatMap (fun n => (List.range 12).map (fun k => n * 12 + k)))
  (s.resetRegs .LATCH_OVF ns).resetRegs .CORE_AFLAGS ns

/-- A peephole enable word without a partition's bits. -/
def peepWithout (v p : Nat) : Nat := (List.range 4).foldl (fun v k => setBits v (16 * k + p) 1 0) v

/-- Stage 4: contexts, routing and fanlight entries, requests with their counts, customers, sampler registers, queue pairs and memory
blocks, whose bytes stay where they stand (R174); the partition's bit leaves every peephole mask (R372). -/
def State.clearTables (s : State) (p : Nat) : State :=
  let ts := (List.range 8).filter (s.ownsT p)
  let ss := (List.range 32).filter (s.ownsS p)
  let s := s.clearThresholds p
  let s := (s.resetRegs .LATCH_TCTX ts).resetRegs .LATCH_TMASK (ts.flatMap (fun c => (List.range 4).map (fun j => 4 * c + j)))
  let s := (s.resetRegs .LATCH_SCTX ss).resetRegs .LATCH_SMASK (ss.flatMap (fun c => (List.range 4).map (fun j => 4 * c + j)))
  let mine := fun (r : Reg) => ((s.written r).filter (fun e => eOwner e.2.toNat == p)).map (·.1)
  let fans := mine .FAN_CFG
  let s := ((s.resetRegs .RTE_MBR (mine .RTE_MBR)).resetRegs .RTE_GRP (mine .RTE_GRP)).resetRegs .FAN_CFG fans
  let s := (s.resetRegs .FAN_DL fans).resetRegs .FAN_CMASK (fans.flatMap (fun t => (List.range 4).map (fun j => 4 * t + j)))
  let b := s.getF F.RQT_PART_ENT_BASE p
  let c := s.getF F.RQT_PART_CUST_BASE p
  let s : State :=
    { s with
      reqs := s.reqs.filter (fun e => !(decide (b ≤ e.1) && decide (e.1 < b + s.getF F.RQT_PART_ENT_COUNT p)))
      custs := s.custs.filter (fun e => !(decide (c ≤ e.1) && decide (e.1 < c + s.getF F.RQT_PART_CUST_COUNT p)))
      serves := tset Serve.init s.serves p Serve.init
      qps := s.qps.filter (fun e => e.2.owner != p + 1) }
  let s := [Reg.RQT_PART, .RQT_SERVE, .RQT_PSTAT, .RQT_PAGES, .SMP_PCAND, .SMP_PSHAPE, .SMP_PSET, .SMP_PHIST].foldl (fun s r => s.resetRegs r [p]) s
  let s := (s.written .CTL_PEEPEN).foldl (fun (s : State) (e : Nat × Word64) => s.wrReg .CTL_PEEPEN e.1 (peepWithout e.2.toNat p)) s
  ((s.setF F.MEM_PHBM_EN p 0).setF F.MEM_PCEL_EN p 0).rekey s

/-- What Ranuat keeps of a partition goes: step state, waiting steps, RS jobs, rings and replies of its function, keys and
sessions. -/
def State.forget (s : State) (p : Nat) : State :=
  let s : State :=
    { s with
      parts := tset Part.init s.parts p Part.init
      steps := s.steps.filter (fun r => r.part != p)
      rs := s.rs.filter (fun j => j.1 % 16 != p)
      rings := s.rings.filter (fun r => r.2.fn != p + 1)
      replies := s.replies.filter (fun r => r.fn != p + 1)
      bounce := tset Bounce.init s.bounce p Bounce.init
      keys := tset MemKey.init s.keys p MemKey.init
      psec := tset PSec.init s.psec p PSec.init }
  let s := s.setFs p [(F.SEC_PKEYID_KEYID, 0), (F.SEC_PCTL_HMODE, 0), (F.CTL_ABORT_QUIET, 0), (F.CTL_PCDIG_DIGEST, 0)]
  let s := s.setLockQ (s.lockQ.filter (fun l => !(l.1 == 2 && l.2 % 16 == p)))
  (s.coresOf p).foldl (fun s n => s.setF F.CORE_ID_PARTITION n 0) s

/-- Debug level 2 opens once every partition is FREE (Table 18-6). -/
def State.openDebug (s : State) : State :=
  if s.debugWant ∧ ¬ (List.range 16).any s.exists' then { s.setF F.SEC_DEBUG_LEVEL 0 2 with debugWant := false } else s

/-- Stages 2 to 5 once every channel of the partition has stopped. -/
def State.tearDown (s : State) (p : Nat) : State :=
  let ctl := (s.psecOf p).tearCtl
  let s := ((s.unbindSession p).revoke p).setF F.SEC_PCTL_STATE p pcCLEARING
  let s := ((s.clearCores (s.coresOf p)).clearTables p).forget p
  let s := ((s.setF F.SEC_PCTL_STATE p pcFREE).countParts.dropLocks 5 [p]).runPorts
  let s := match ctl with
    | some h => s.answer 0x11 h (h.answer resOK)
    | none => s
  s.openDebug

/-- Carry a teardown on: take the lock once nothing holds the resources, stop the channels, and clear when they have
stopped; a failed write-back has stopped its channel already (R193). -/
def State.tearOn (s : State) (p : Nat) : State :=
  if ¬ (s.psecOf p).tear then s
  else
    let s := if s.locked 5 p then s
      else if s.mayLock 5 p then (s.chansOf p).foldl State.stopChan (s.grantLock 5 p)
      else s.askLock 5 p
    if s.locked 5 p ∧ (s.chansOf p).all (fun i => (s.chan i).flight == [] || (s.chan i).halt == 2) then s.tearDown p else s

/-- A teardown is asked for; it is queued while another activity holds a resource, or asked for one before. -/
def State.tearAsk (s : State) (p : Nat) (ctl : Option Ctl) : State :=
  (s.modPsec p (fun x => { x with tear := true, tearCtl := ctl })).tearOn p

/-- TEARDOWN (R348): Ranuat writes SEC_PCTL.TEARDOWN; refused with ERR RESIDENT while a plan of `p` is resident. The row
again carries a waiting teardown on. -/
def execTeardown (p : Nat) (s : State) : Out :=
  if ¬ p < 16 then .fault .noSuchUnit
  else if s.pairStopped then .next s
  else if (s.psecOf p).tear then .next (s.tearOn p)
  else if ¬ s.exists' p then .next s
  else if s.plansOf p ≠ [] then .next (s.setF F.SEC_PCTL_ERR p 0x04)
  else .next (s.tearAsk p none)

/-- PART_TEARDOWN (R348, Table 19-4): the PF asks for a teardown; the reply follows its end. -/
def execPartTeardown (h : Ctl) (p : Nat) (s : State) : Out :=
  s.control 0x11 h .pf false false fun s =>
    if ¬ (p < 16 ∧ s.exists' p) then (s, some (h.answer resRANGE))
    else if (s.psecOf p).tear then (s, some (h.answer resBUSY))
    else if s.plansOf p ≠ [] then (s.setF F.SEC_PCTL_ERR p 0x04, some (h.answer resRESIDENT))
    else (s.tearAsk p (some h), none)

/-! ## SPDM (R352, R353). `who` is the requester: 0 the PF, p + 1 the VF of partition p, 17 MCTP. The spec does not lay the
messages out: a response stands as its SPDM 1.3 code and the content the spec gives it. -/

/-- `n` free bytes: what the spec leaves open (signatures, public keys, certificates, nonces). -/
def State.freeBytes (s : State) (n : Nat) : State × List Byte := ({ s with free := s.free + (n + 63) / 64 }, garbage s.free n)

/-- A response goes to its requester. -/
def State.spdmSend (s : State) (who code : Nat) (data : List Byte) : State := { s with spdm := s.spdm ++ [⟨who, code, data⟩] }

def spERROR : Nat := 0x7F
def spBUSY : Nat := 3
def spUNEXPECTED : Nat := 4

/-- An error response. -/
def State.spdmErr (s : State) (who code : Nat) : State := s.spdmSend who spERROR (leBytes 1 code)

/-- A request meets the responder, which runs from READY on; `f` answers it. -/
def State.spdmDo (s : State) (who : Nat) (f : State → State) : Out :=
  if ¬ who ≤ 17 then .fault .noSuchUnit
  else if ¬ s.flag F.CTL_STATUS_READY 0 ∨ s.boot.quiet ∨ s.boot.held then .next s
  else .next (f s)

/-- A session of the requester, established (`est`) or in its handshake. -/
def State.holds (s : State) (who id : Nat) (est : Bool) : Bool := s.sessions.any (fun x => x.id == id && x.who == who && x.est == est)
def State.session (s : State) (who id : Nat) : Bool := s.holds who id true

/-- A signature by Ranuat's key, and its bytes. -/
def State.sign (s : State) : State × List Byte := s.freeBytes 96

/-- GET_VERSION (R352): SPDM 1.3; the requester starts over. -/
def execGetVersion (who : Nat) (s : State) : Out :=
  s.spdmDo who fun s => { s with algs := s.algs.filter (· != who) }.spdmSend who 0x04 (leBytes 1 0x13)

/-- GET_CAPABILITIES (R352). -/
def execGetCapabilities (who : Nat) (s : State) : Out := s.spdmDo who fun s => s.spdmSend who 0x61 []

/-- NEGOTIATE_ALGORITHMS (R352): `offer` says which of ECDSA P-384, SHA-384, ECDHE on secp384r1 and AES-256-GCM the
requester offers, in bits 0 to 3; one that offers none fails. -/
def execNegotiateAlgorithms (who offer : Nat) (s : State) : Out :=
  s.spdmDo who fun s =>
    if offer % 16 = 0 then s.spdmErr who 1
    else { s with algs := who :: s.algs.filter (· != who) }.spdmSend who 0x63 (leBytes 1 (offer % 16))

/-- GET_DIGESTS (R352): the digest of the certificate chain. -/
def execGetDigests (who : Nat) (s : State) : Out :=
  s.spdmDo who fun s => s.spdmSend who 0x01 (sha384 s.fw.chain)

/-- GET_CERTIFICATE (R352): the first `n` bytes of the certificate chain. -/
def execGetCertificate (who n : Nat) (s : State) : Out :=
  s.spdmDo who fun s => s.spdmSend who 0x02 (s.fw.chain.take n)

/-- CHALLENGE (R352): a signature by Ranuat's key. -/
def execChallenge (who : Nat) (s : State) : Out :=
  s.spdmDo who fun s =>
    if ¬ s.algs.contains who then s.spdmErr who spUNEXPECTED
    else
      let (s, g) := s.sign
      s.spdmSend who 0x03 g

/-- A measurement block (Table 18-4). -/
def State.block (s : State) (i : Nat) : List Byte :=
  if i = 1 then leBytes 48 Config.bootRom
  else if i = 2 then leBytes 48 s.fw.digest
  else if i = 3 then leBytes 4 (s.getF F.CTL_STATUS_SVN 0) ++ leBytes 4 s.fw.iface
  else if i = 4 then leBytes 8 (s.getF F.CTL_CDIG_DIGEST 0)
  else if i = 5 then
    leBytes 8 (s.rdReg .SEC_STATUS 0) ++ leBytes 8 (s.rdReg .SEC_TAMPER 0) ++ leBytes 8 (s.rdReg .SEC_TTIME 0) ++
    leBytes 8 (s.rdReg .SEC_DEBUG 0) ++ leBytes 1 (s.getF F.CTL_FEAT0_REV 0) ++ leBytes 1 (s.getF F.CTL_FEAT0_GRADE 0)
  else if 16 ≤ i ∧ i < 32 then
    (s.plansOf (i - 16)).flatMap (fun k => leBytes 48 (s.plan k).digest) ++ leBytes 8 (s.getF F.CTL_PCDIG_DIGEST (i - 16))
  else []

/-- A requester may read a block: the operator 1 to 5, a session bound to p also 16 + p (R353). -/
def mayMeasure (who i : Nat) (bound : Bool) : Bool :=
  (decide (1 ≤ i) && decide (i ≤ 5)) || (bound && decide (1 ≤ who) && decide (who ≤ 16) && i == 15 + who)

/-- GET_MEASUREMENTS (R353): the block of an index (255: every block) with the requester's nonce prefix, signed; the block
of another index is empty. `sess` is the session the request came in (0: none). A report to the PF is what R361 asks for. -/
def execGetMeasurements (who sess index nonce : Nat) (s : State) : Out :=
  s.spdmDo who fun s =>
    if sess ≠ 0 ∧ ¬ s.session who sess then s.spdmErr who spUNEXPECTED
    else
      let ids := if index = 255 then [1, 2, 3, 4, 5] ++ (List.range 16).map (· + 16) else [index]
      let body := ids.flatMap (fun i => leBytes 1 i ++ (if mayMeasure who i (sess != 0) then
        leBytes 2 (s.block i).length ++ s.block i else leBytes 2 0))
      let (s, g) := s.sign
      let s : State := if who = 0 then { s with tamp := { s.tamp with reports := nonce % 2 ^ 64 :: s.tamp.reports } } else s
      s.spdmSend who 0x60 (body ++ leBytes 8 nonce ++ g)

/-- The answer to a message of Ranuat's own: a code of Table 19-3 in a vendor-defined response. -/
def State.vendor (s : State) (who code : Nat) : State := s.spdmSend who 0x7E (leBytes 1 code)

/-- KEY_EXCHANGE (R352): a session opens and waits for FINISH, unless 32 are held. A partition has one session, and none
while the device is TAMPERED: the refusal has that code (R360). -/
def execKeyExchange (who : Nat) (s : State) : Out :=
  s.spdmDo who fun s =>
    let vf := decide (1 ≤ who) && decide (who ≤ 16)
    if ¬ s.algs.contains who then s.spdmErr who spUNEXPECTED
    else if vf ∧ s.flag F.SEC_STATUS_TAMPERED 0 then s.vendor who resTAMPERED
    else if 32 ≤ s.sessions.length ∨ (vf ∧ s.sessions.any (fun x => x.who == who)) then s.spdmErr who spBUSY
    else
      let id := s.nextSess
      let s : State := { s with sessions := s.sessions ++ [⟨id, who, false, []⟩], nextSess := id + 1 }
      let s := s.keyOp
      let (s, g) := s.sign
      s.spdmSend who 0x64 (leBytes 4 id ++ g)

/-- A session with an export master secret. The spec does not lay out the key schedule of SPDM: the secret is a free value, new at
FINISH and at each KEY_UPDATE (log entry 25). -/
def State.newSecret (s : State) (who id : Nat) : State × List Byte :=
  let (s, e) := s.freeBytes 48
  ({ s with sessions := s.sessions.filter (fun x => x.id != id) ++ [⟨id, who, true, e⟩] }, e)

/-- The bounce keys of a partition are derived from the export master secret of its session, and its counters start at 0 (R356). -/
def State.freshBounce (s : State) (who : Nat) (ems : List Byte) : State :=
  if 1 ≤ who ∧ who ≤ 16 then
    s.setBounce (who - 1)
      { Bounce.init with keyIn := hkdfExpand ems (ascii "w1 bounce h2d") 32, keyOut := hkdfExpand ems (ascii "w1 bounce d2h") 32 }
  else s

/-- FINISH (R352): the handshake of session `id` ends; `ok`: it verifies. A session of VF p + 1 is bound to p. -/
def execFinish (who id : Nat) (ok : Bool) (s : State) : Out :=
  s.spdmDo who fun s =>
    if ¬ s.holds who id false then s.spdmErr who spUNEXPECTED
    else if ¬ ok then { s with sessions := s.sessions.filter (fun x => x.id != id) }.keyOp.spdmErr who 6
    else
        let (s, e) := s.newSecret who id
        let s := s.keyOp.freshBounce who e
        let s := if 1 ≤ who ∧ who ≤ 16 then
            (s.modPsec (who - 1) (fun x => { x with session := some id })).setF F.SEC_PCTL_SESSION (who - 1) 1
          else s
        s.spdmSend who 0x65 []

/-- A request inside an established session. -/
def State.inSession (s : State) (who id : Nat) (f : State → State) : Out :=
  s.spdmDo who fun s => if s.session who id then f s else s.spdmErr who spUNEXPECTED

/-- KEY_UPDATE (R356): new keys; the bounce keys are derived again and both counters restart at 0. -/
def execKeyUpdate (who id : Nat) (s : State) : Out :=
  s.inSession who id fun s =>
    let (s, e) := s.newSecret who id
    (s.freshBounce who e).spdmSend who 0x69 []

/-- HEARTBEAT (R352). -/
def execHeartbeat (who id : Nat) (s : State) : Out := s.inSession who id fun s => s.spdmSend who 0x68 []

/-- END_SESSION (R352). -/
def execEndSession (who id : Nat) (s : State) : Out :=
  s.inSession who id fun s =>
    let s := if 1 ≤ who ∧ who ≤ 16 then s.unbindSession (who - 1)
      else { s with sessions := s.sessions.filter (fun x => x.id != id) }
    s.spdmSend who 0x6C []

/-! ## Messages of the bound session (R350, R354) -/

/-- SET_PLAN_KEY (R350): the digest of a plan key is installed or replaced, by the tenant's bound session or, with OPKEYS, by
the PF; the stopped lockstep pair takes none (R406). -/
def execSetPlanKey (who p digest : Nat) (s : State) : Out :=
  if ¬ p < 16 then .fault .noSuchUnit
  else s.spdmDo who fun s =>
    if s.pairStopped then s
    else if ¬ ((who = p + 1 ∧ (s.psecOf p).session.isSome) ∨ (who = 0 ∧ s.flag F.SEC_PCTL_OPKEYS p)) then s.vendor who resFAILED
    else if s.flag F.SEC_STATUS_TAMPERED 0 then s.vendor who resTAMPERED
    else if s.plansOf p ≠ [] then s.vendor who resRESIDENT
    else
      let d := digest % 2 ^ 384
      ((s.modPsec p (fun x => { x with planKey := some d })).setF F.SEC_PKEYID_KEYID p (d % 2 ^ 64)).vendor who resOK

/-- SET_HOST_MODE (R354): the bound session of `p` sets NONE, IDE or BOUNCE before the first plan load; a mode once set, NONE
included, changes only through teardown. -/
def execSetHostMode (p mode : Nat) (s : State) : Out :=
  if ¬ p < 16 then .fault .noSuchUnit
  else s.spdmDo (p + 1) fun s =>
    let x := s.psecOf p
    if x.session.isNone ∨ x.loaded ∨ x.modeSet ∨ 2 < mode then s.vendor (p + 1) resFAILED
    else ((s.modPsec p (fun x => { x with modeSet := true })).setF F.SEC_PCTL_HMODE p mode).vendor (p + 1) resOK

/-- IDE_KM (R354): the bound session of `p` sets the IDE keys of its selective stream. -/
def execIdeKm (p : Nat) (s : State) : Out :=
  if ¬ p < 16 then .fault .noSuchUnit
  else s.spdmDo (p + 1) fun s =>
    if (s.psecOf p).session.isNone ∨ s.getF F.SEC_PCTL_HMODE p ≠ 1 then s.vendor (p + 1) resFAILED
    else (s.modPsec p (fun x => { x with ide := true })).vendor (p + 1) resOK

/-! ## Debug (R357, R358) -/

/-- DEBUG_NONCE (R357): Ranuat issues a 32-byte nonce; it goes out as requester 18. -/
def execDebugNonce (s : State) : Out :=
  s.spdmDo 0 fun s =>
    let (s, b) := s.freeBytes 32
    { s with nonces := s.nonces ++ [leNat b] }.spdmSend 18 0x7E b

/-- The effects of level 2 before it opens: every step aborts, every key is revoked, every plan is unloaded, every
partition is torn down. -/
def State.debugTwo (s : State) : State :=
  let ps := (List.range 16).filter s.exists'
  let s := ps.foldl State.revoke s
  let s := (s.plans.map (·.1)).foldl State.unload s
  let s := ps.foldl (fun s p => if (s.psecOf p).tear then s else s.tearAsk p none) { s with debugWant := true }
  s.openDebug

/-- The SHA-384 of the DeviceID public key (Table 18-3). -/
def State.devDigest (s : State) : List Byte := sha384 (Config.p384Pub (hkdf s.boot.cdi0 (Config.keyLabel 0) 48))

/-- The message of a debug challenge (R357): the nonce, the DeviceID digest and the level, in one byte (DESIGN CHOICE, log entry 57). -/
def State.debugMsg (s : State) (nonce level : Nat) : List Byte := leBytes 32 nonce ++ s.devDigest ++ leBytes 1 level

/-- A debug key (R357): the Terostor key, or the operator key whose digest the configuration holds (all zero: none). -/
def State.debugSigner (s : State) (pub : List Byte) : Bool :=
  let d := sha384n pub
  d == Config.debugKey || (s.boot.debugKey != 0 && d == s.boot.debugKey)

/-- The signature verifies under a debug key over this challenge. -/
def State.debugOk (s : State) (nonce level : Nat) (g : DebugSig) : Bool :=
  s.debugSigner g.pub && g.msg == s.debugMsg nonce level && g.ok

/-- DEBUG_UNLOCK (R357, R358): a response to a nonce asks for a level, with its signature. -/
def execDebugUnlock (nonce level : Nat) (g : DebugSig) (s : State) : Out :=
  s.spdmDo 0 fun s =>
    let known := s.nonces.contains nonce
    let s : State := { s with nonces := s.nonces.erase nonce }
    if ¬ known ∨ ¬ s.debugOk nonce level g ∨ 2 < level then s.addF F.SEC_DEBUG_FAILS 0 1
    else if level = 2 then s.debugTwo
    else s.setF F.SEC_DEBUG_LEVEL 0 (max level (s.getF F.SEC_DEBUG_LEVEL 0))

/-! ## Tamper (R359 to R362) and the entropy source -/

/-- The phase an alarm falls in (Table 18-8). -/
def State.phase (s : State) : Nat :=
  if ¬ s.flag F.CTL_STATUS_READY 0 ∧ s.upd = none then 0
  else if s.getF F.PWR_STATUS_STATE 0 = 2 then 3
  else if s.flag F.SEC_STATUS_KEYOP 0 then 2
  else 1

/-- Every session ends, handshakes included. -/
def State.endAll (s : State) : State :=
  let s := (List.range 16).foldl State.unbindSession s
  { s with sessions := [] }.keyOp

/-- The key store is zeroised (R359, Table 18-1): memory keys, plan keys and IDE keys. -/
def State.zeroise (s : State) : State :=
  (List.range 16).foldl (fun (s : State) p =>
      (s.modPsec p (fun x => { x with planKey := none, ide := false })).setF F.SEC_PKEYID_KEYID p 0)
    { s with keys := s.keys.map (fun e => (e.1, { e.2 with revoked := true })) }

/-- TAMPER_ALARM (R359 to R362): a sensor trips. The first alarm is recorded, the key store is zeroised, every partition key is
revoked, or start-up ends in vestibule mode without CDI_0, and a debug unlock that waits is refused; a further one only counts. -/
def execTamperAlarm (cause sensor : Nat) (s : State) : Out :=
  if ¬ (1 ≤ cause ∧ cause ≤ 4 ∧ sensor < 256) then .fault .noSuchUnit
  else
    let first := ¬ s.flag F.SEC_STATUS_TAMPERED 0
    let s := s.addF F.SEC_TAMPER_COUNT 0 1
    if ¬ first then .next s
    else
      let ph := s.phase
      let s := s.setFs 0 [(F.SEC_TAMPER_CAUSE, cause), (F.SEC_TAMPER_SENSOR, sensor), (F.SEC_TAMPER_PHASE, ph),
        (F.SEC_TTIME_TB, s.now), (F.SEC_STATUS_TAMPERED, 1)]
      let s : State := { s with tamp := ⟨false, []⟩, debugWant := false, nonces := [] }
      let s := s.zeroise
      if ph = 0 then
        let s : State := { s with boot := { s.boot with cdi0 := [] } }
        .next (if s.boot.held ∨ s.boot.quiet then s else s.vestibule rsTAMPER)
      else .next ((((List.range 16).filter s.exists').foldl State.revoke s).endAll)

/-- TAMPER_CLEAR (R361): a write of SEC_TCLR with the nonce prefix of any report since the power-up; `trip`: a sensor trips. -/
def execTamperClear (v : Word64) (trip : Bool) (s : State) : Out :=
  if s.flag F.SEC_STATUS_TAMPERED 0 ∧ s.tamp.cycled ∧ s.tamp.reports.contains v.toNat ∧ ¬ trip then
    .next (s.setF F.SEC_STATUS_TAMPERED 0 0)
  else .next s

/-- ENTROPY_FAIL (R343, Table 18-10): the entropy source fails its health test. -/
def execEntropyFail (s : State) : Out := .next (s.setF F.SEC_STATUS_DRBG_FAIL 0 1)

end Sys2Proof.Machine
end

