-- ==== Sys2Proof/Machine/Scrub.lean ====
section
/-! DEFINITION. The patrol scrub (R186) and its maintenance lock (Table 21-7, code 1). -/

namespace Sys2Proof.Machine

/-- A slice of the scrub ends: at another channel, after 1 ms, or when the scrub stops. -/
def State.endSlice (s : State) (c : Option Nat) : State :=
  if (s.locks.any fun l => l.1 == 1) ∧ ¬ c.any s.sliceOn then
    { s with locks := s.locks.filter (fun l => l.1 != 1) }.lockBits
  else s

/-- Another activity holds the channel, or is queued for it when the scrub holds no slice of it. -/
def State.scrubHeld (s : State) (c : Nat) : Bool :=
  if s.locked 1 c then s.locks.any (fun l => l.1 != 1 && (s.lockRes l).contains (100 + c)) else s.lockBlocked 1 c s.lockQ

/-- The scrub read of granule `g` of partition `p`, to which `sym` symbol errors have come: corrected and written back, or poisoned. -/
def State.scrubRead (s : State) (p g sym : Nat) : State :=
  let a := 64 * g
  let s := (s.markUnplanned p).serve1 p a
  if (s.gran' g).poison then s.memErr causePOISON_READ a
  else if 4 ≤ s.errors g sym then s.poisonAs causeSCRUB_UNCORR g
  else (s.countCorr p g (s.errors g sym)).setFlaw g 0

/-- PATROL_SCRUB (R186): the next granule of the enabled blocks is read under the lock of its channel, which the scrub holds in
slices: while it stays on the channel, and at most 1 ms. It pauses with HELD while another activity holds or waits for the
channel, and waits while the channel refreshes. A scrub that is stopped or has no block is not held. Memory in self-refresh or in reset is not
read (R388, R424). -/
def execPatrolScrub (sym : Nat) (s : State) : Out :=
  if s.dark ∨ s.getF F.PWR_STATUS_STATE 0 ≠ 0 then .next (s.endSlice none)
  else if s.getF F.MEM_CTRL_SCRUB_H 0 = 0 then .next ((s.endSlice none).setF F.MEM_SCRUB_HELD 0 0)
  else
    match scrubGran s.blocks s.scrubPos with
    | none => .next (({ s.endSlice none with scrubPos := 0 } : State).setF F.MEM_SCRUB_HELD 0 0)
    | some g =>
      let p := (s.ownerOf (64 * g)).getD 0
      let (ch, tier) := s.chanOf p (64 * g)
      let c := ch + 256 * tier
      let s := s.endSlice (some c)
      if s.scrubHeld c then
        .next ((if s.flag F.MEM_SCRUB_HELD 0 then s else s.addF F.CTL_MLOCK_BUSY 0 1).setF F.MEM_SCRUB_HELD 0 1)
      else if s.now < tget 0 s.unavail c then .next s
      else
        let s := if s.locked 1 c then s else { s.takeLocks 1 [c] with scrubSince := s.now }
        .next (((s.setF F.MEM_SCRUB_HELD 0 0).scrubRead p g sym).scrubOn)

end Sys2Proof.Machine
end

