-- ==== Sys2Proof/Machine/Power.lean ====
section
/-! DEFINITION. Power, thermal and rails (22), and the loops of R371. -/

namespace Sys2Proof.Machine

/-! ## Emergency triggers (R421, R422, R409) -/

/-- A trigger fires: counted, logged, and every active pane it names changes to 0.75 GHz; a live update is abandoned when a
pane changes. In SLEEP it is ignored (R422), and while the panes are held in reset (R388). -/
def State.trigger (s : State) (f : Fld) (code : Nat) (args panes : List Nat) : State :=
  if s.dark ∨ s.getF F.PWR_STATUS_STATE 0 = 2 then s
  else
    let moves := s.getF F.PWR_STATUS_STATE 0 == 0 && panes.any (fun q => s.getF F.PANE_FREQ_STATE q == 0 && s.getF F.PANE_FREQ_CUR q != 3)
    let s := (s.addF f 0 1).logEvent 1 code 255 args
    let s := panes.foldl State.emergPane s
    if moves then s.abandonUpdate else s

/-- The panes of a leaf. -/
def leafPanes (leaf : Nat) : List Nat := (List.range 16).map (· + 16 * leaf)

/-- DROOP (R421): the supply of pane `q` is below 93 % for 1 µs. -/
def execDroop (q : Nat) (s : State) : Out :=
  if ¬ q < 32 then .fault .noSuchUnit else .next (s.trigger F.PWR_EMERG_DROOP 0x0012 [q] [q])

/-- OVERCURRENT (R421): the rail of a leaf is above 850 A for 100 µs. -/
def execOvercurrent (leaf : Nat) (s : State) : Out :=
  if ¬ leaf < 2 then .fault .noSuchUnit else .next (s.trigger F.PWR_EMERG_OVERCURRENT 0x0013 [leaf] (leafPanes leaf))

/-- THERMAL (R421): a die is at 105 °C or above. -/
def execThermal (s : State) : Out := .next (s.trigger F.PWR_EMERG_THERMAL 0x0014 [] (List.range 32))

/-- PROCHOT (R421, R432): PROCHOT_N is low for 1 µs, and triggers, or it rises; PWR_STATUS holds its level. -/
def execProchot (low : Bool) (s : State) : Out :=
  let s := s.setF F.PWR_STATUS_PROCHOT 0 (bit low)
  .next (if low then s.trigger F.PWR_EMERG_PROCHOT 0x0015 [] (List.range 32) else s)

/-- EMERG_CLEAR (R421): every trigger that named pane `q` has been absent for 10 ms, which none is while PROCHOT_N is low. A pinned pane
returns to its frequency in one change, another rises by one value, at the next boundary. -/
def execEmergClear (q : Nat) (s : State) : Out :=
  if ¬ q < 32 then .fault .noSuchUnit
  else if ¬ s.flag F.PANE_FREQ_EMERG q ∨ s.flag F.PWR_STATUS_PROCHOT 0 then .next s
  else
    let s := s.setF F.PANE_FREQ_EMERG q 0
    let cur := s.getF F.PANE_FREQ_CUR q
    let s := if s.panePinned q ∨ cur ≤ s.getF F.PANE_FREQ_REQ q then s else s.setF F.PANE_FREQ_REQ q (cur - 1)
    .next (if s.getF F.PANE_FREQ_STATE q = 3 then s else s.pendPane q)

/-- THERMAL_TRIP (R423): a die at 120 °C, or a stack at 105 °C or above for 1 ms. The actions of PWRFAIL_N run, once. -/
def execThermalTrip (s : State) : Out :=
  if s.boot.held ∨ s.boot.thermtrip then .next s
  else
    let s := if s.boot.quiet then s else s.powerFail
    let s := (s.setFs 0 [(F.BOOT_STATUS_REASON, rsPWRFAIL), (F.PWR_STATUS_THERMTRIP, 1)]).logEvent 3 0x0016 255 []
    .next { s with boot := { s.boot with thermtrip := true } }

/-! ## The loops (R371) -/

/-- Panes of a partition that a loop may move: with a clock to change and no emergency. -/
def State.loopPanes (s : State) (p : Nat) : List Nat :=
  (onesOf (s.getF F.SEC_PPANE_PANES p) 32).filter (fun q => decide (s.getF F.PANE_FREQ_STATE q < 2) && !s.flag F.PANE_FREQ_EMERG q)

/-- Partitions a loop may move: not FREE, not pinned. -/
def State.loose (s : State) : List Nat := (List.range 16).filter (fun p => s.exists' p && !s.pinned p)

/-- Request one value lower, or higher, for a pane. -/
def State.lowerPane (s : State) (q : Nat) : State := s.requestPane q (min 3 (s.getF F.PANE_FREQ_CUR q + 1))
def State.raisePane (s : State) (q : Nat) : State := s.requestPane q (s.getF F.PANE_FREQ_CUR q - 1)

/-- The pinned partition with the most panes, lowest number first. -/
def State.mostPinned (s : State) : Option Nat :=
  let ps := (List.range 16).filter (fun p => s.exists' p && s.pinned p)
  let n := fun (p : Nat) => (onesOf (s.getF F.SEC_PPANE_PANES p) 32).length
  ps.find? (fun p => ps.all (fun r => decide (n r ≤ n p)))

/-- Only pinned panes are left to lower. -/
def State.onlyPinned (s : State) : Bool :=
  s.loose.all (fun p => (s.loopPanes p).all (fun q => s.getF F.PANE_FREQ_CUR q == 3)) && s.mostPinned.isSome

/-- The power loop clears pinned mode on one partition. -/
def State.losePin (s : State) : State :=
  match s.mostPinned with
  | none => s
  | some p =>
    let s := s.setFs 0 [(F.CTL_PIN_PINNED, setBits (s.getF F.CTL_PIN_PINNED 0) p 1 0), (F.CTL_PIN_LOST, setBits (s.getF F.CTL_PIN_LOST 0) p 1 1)]
    s.logEvent 1 0x010B p [s.getF F.CTL_PIN_LOST 0]

/-- What the monitors read of the rails stands in PWR_RAIL: voltage (mV) and current (0.1 A) of rail k at place k. -/
def State.readRails (s : State) (rails : List (Nat × Nat)) : State :=
  (rails.take 13).zipIdx.foldl (fun (s : State) (x : (Nat × Nat) × Nat) =>
    s.setFs x.2 [(F.PWR_RAIL_VOLT_MV, x.1.1 % 65536), (F.PWR_RAIL_CURR_DA, x.1.2 % 65536)]) s

/-- POWER_LOOP (R371, R420, R432): one period; `avg` is its 100 µs average in mW and `rails` what the monitors read of the rails (which
period reads them is the model's choice, log entry 60). Above the limit the loop lowers, otherwise it raises, the panes of the unpinned
partitions among `ps`, which Ranuat picks. -/
def execPowerLoop (avg : Nat) (ps : List Nat) (rails : List (Nat × Nat)) (s : State) : Out :=
  if ¬ (avg < 2 ^ 32 ∧ ps.all (fun p => decide (p < 16))) then .fault .noSuchUnit
  else if ¬ s.flag F.CTL_STATUS_READY 0 then .next s
  else
    let s := s.readRails rails
    let s := s.setFs 0 [(F.PWR_MEAS_PEAK_MW, max avg (s.getF F.PWR_MEAS_PEAK_MW 0)), (F.PWR_MEAS_AVG_MW, avg)]
    let high := decide (1000 * s.getF F.PWR_LIMIT_LIMIT_W 0 < avg)
    let panes := (ps.filter (s.loose.contains ·)).flatMap s.loopPanes
    let n := if high && s.onlyPinned then s.overPeriods + 1 else 0
    let s := if high then panes.foldl State.lowerPane s else panes.foldl State.raisePane s
    if 100 ≤ n then .next { s.losePin with overPeriods := 0 } else .next { s with overPeriods := n }

/-- THERMAL_LOOP (R371, R183): one period; `dies` are the hottest sensors of leaf A, leaf B, jamb E and jamb W (sixteenths of
a degree, as 16-bit two's complement), `hbm` the stacks in °C. Unpinned panes of a leaf above 95 °C, of every leaf for a
jamb above it, and of a leaf with a hot stack go one value lower; with none of these, Ranuat may raise those of `ps`. -/
def execThermalLoop (dies hbm : List Nat) (ps : List Nat) (s : State) : Out :=
  if ¬ (dies.length = 4 ∧ hbm.length = 8 ∧ ps.all (fun p => decide (p < 16))) then .fault .noSuchUnit
  else if ¬ s.flag F.CTL_STATUS_READY 0 then .next s
  else
    let d := fun (i : Nat) => dies.getD i 0 % 65536
    let s := s.setFs 0 [(F.PWR_TEMP0_LEAF_A, d 0), (F.PWR_TEMP0_LEAF_B, d 1), (F.PWR_TEMP0_JAMB_E, d 2), (F.PWR_TEMP0_JAMB_W, d 3),
      (F.PWR_TEMP1_STACK, leNat (hbm.map (BitVec.ofNat 8)))]
    let hot := fun (i : Nat) => decide (1520 < signed 16 (d i))
    let jamb := hot 2 || hot 3
    let stack := fun (l : Nat) => decide (bitsOf (s.getF F.MEM_STATUS_HOT 0) (4 * l) 4 ≠ 0)
    let down := fun (q : Nat) => jamb || hot (q / 16) || stack (q / 16)
    let any := down 0 || down 16
    let panes := (s.loose.flatMap s.loopPanes).filter down
    if any then .next (panes.foldl State.lowerPane s)
    else .next (((ps.filter (s.loose.contains ·)).flatMap s.loopPanes).foldl State.raisePane s)

/-! ## Power states (R424 to R427) -/

/-- The conditions of R425 hold now. -/
def State.quietNow (s : State) : Bool :=
  (List.range 16).all (fun p => !s.inStep p) && (List.range 64).all (fun i => !s.flag F.DMA_CHSTAT_BUSY i) && s.rs == [] &&
  s.plans.all (fun e => e.2.wlCtl == none && !e.2.weights.any WRec.busy && e.2.wlWait == [] && e.2.aloads == []) && s.locks.all (fun l => l.1 == 1 && !s.sliceOn l.2)

/-- An entry is refused. -/
def State.refuseEntry (s : State) (code : Nat) : State :=
  ((s.setF F.PWR_STATUS_REFUSE 0 code).addF F.PWR_STATUS_REFUSALS 0 1).logEvent 1 0x0010 255 [code]

/-- STANDBY_ENTRY (R425): the conditions have held for `idle` µs; `drained`: the posted writes were accepted in time (R45). -/
def execStandbyEntry (idle : Nat) (drained : Bool) (s : State) : Out :=
  if ¬ s.flag F.CTL_STATUS_READY 0 ∨ s.boot.quiet ∨ s.getF F.PWR_STATUS_STATE 0 ≠ 0 ∨ ¬ s.flag F.PWR_CTRL_STBY_EN 0 ∨
    idle < s.getF F.PWR_CTRL_IDLE_US 0 then .next s
  else if ¬ s.quietNow then .next (s.refuseEntry 2)
  else if ¬ drained then .next (s.refuseEntry 1)
  else .next (s.setF F.PWR_STATUS_STATE 0 1)

/-- SLEEP_ENTRY (R425, R426): the PF is in D3hot. On entry every port in UP asks for sleep. -/
def execSleepEntry (drained : Bool) (s : State) : Out :=
  if ¬ s.flag F.CTL_STATUS_READY 0 ∨ s.boot.quiet ∨ s.getF F.PWR_STATUS_STATE 0 = 2 then .next s
  else if (List.range 16).any (fun p => decide (s.plansOf p ≠ [])) then .next (s.refuseEntry 3)
  else if ¬ s.quietNow then .next (s.refuseEntry 2)
  else if ¬ drained then .next (s.refuseEntry 1)
  else
    let s := (List.range 36).foldl (fun s q => if s.pstate q = 8 then s.portAsk q 2 else s) s
    .next (s.setF F.PWR_STATUS_STATE 0 2)

/-- The crossings of a restarted pane calibrate to the same targets (R208, R426). -/
def State.restartPane (s : State) (q : Nat) (c : Cal × Cal) : State :=
  if s.getF F.PANE_FREQ_STATE q ≠ 0 then s
  else
    let t := paneInTarget (s.getF F.PANE_FREQ_CUR q)
    let s := (s.calibrate q fPaneIn c.1 t).calibrate q fPaneOut c.2 6
    if calOk c.1 t ∧ calOk c.2 6 then s
    else ((s.setF F.PANE_FREQ_STATE q 3).unpend q).logFree ((s.paneOwner q).getD 255) [q]

/-- The package returns to RUN; from SLEEP every scratchpad and latch is written zero. `cals`: what the crossings of each pane
measure; one that is not named finds no calibration. -/
def State.wake (s : State) (cals : List (Cal × Cal)) : State :=
  let s := if s.getF F.PWR_STATUS_STATE 0 = 2 then s.clearCores (List.range 256) else s
  let s : State := { s with waking := false }
  (List.range 32).foldl (fun (s : State) (q : Nat) => s.restartPane q (cals.getD q (⟨0, 0, 0⟩, ⟨0, 0, 0⟩))) (s.setF F.PWR_STATUS_STATE 0 0)

/-- RUN_RETURN (R424, R426): the package returns from STANDBY or SLEEP to RUN, when the PF returns to D0 (`d0`) or an event of R426
has come before. -/
def execRunReturn (d0 : Bool) (cals : List (Cal × Cal)) (s : State) : Out :=
  if ¬ cals.length ≤ 32 then .fault .noSuchUnit
  else .next (if s.asleep ∧ (d0 ∨ s.waking) then s.wake cals else s)

/-! ## ALERT_N (R430) -/

/-- Entry `i` of the PF's LOG ring `k`, which the host has not read yet, has severity 2 or 3. -/
def State.alertEntry (s : State) (k i : Nat) : Bool :=
  let r := s.ring k
  decide (2 ≤ leAt (s.sramBytes (r.off + 64 + (r.head + i) % 2 ^ 32 % 2 ^ r.log2n * r.ent) 2) 1 1)

/-- The output ALERT_N: low while any log entry of severity 2 or 3 waits to be read on the LOG ring. -/
def State.alertN (s : State) : Bool :=
  !(s.ringsOf 0 5).any (fun k => (List.range (2 ^ (s.ring k).log2n - (s.ring k).room)).any (s.alertEntry k))

/-! ## Rails (R416, R418) -/

/-- Nominal voltage of rail k in mV (Table 22-1). -/
def railNominal (k : Nat) : Nat := [800, 800, 1050, 400, 1800, 750, 1200, 750, 750, 500, 1800, 800, 1800].getD k 0

/-- RAIL_OUT5 (R416, R418): rail `k` left ±5 %; its voltage (mV) and current (0.1 A) stand in PWR_RAIL. From 90 % of nominal on the rail
holds the package in reset no longer. -/
def execRailOut5 (k mv da : Nat) (s : State) : Out :=
  if ¬ (k < 13 ∧ mv < 65536 ∧ da < 65536) then .fault .noSuchUnit
  else
    let s : State := { s with boot := { s.boot with low := if 9 * railNominal k ≤ 10 * mv then s.boot.low.filter (· != k) else s.boot.low } }
    .next (s.setFs k [(F.PWR_RAIL_OUT5, 1), (F.PWR_RAIL_VOLT_MV, mv), (F.PWR_RAIL_CURR_DA, da)])

/-- RAIL_UNDERVOLT (R263, R418): a rail of groups 2 to 5 is below 90 %: the monitors hold the package in reset until the rail is back,
after 2 µs of going-away flits. Rails 11 and 12 are of group 1. -/
def execRailUndervolt (k : Nat) (s : State) : Out :=
  if ¬ k < 13 then .fault .noSuchUnit
  else if 11 ≤ k then .next s
  else
    let s : State := { s with boot := { s.boot with low := s.boot.low.filter (· != k) ++ [k] } }
    .next (if s.boot.held then s else s.resetSoon 1000)

end Sys2Proof.Machine
end

