-- ==== Sys2Proof/Machine/ReadBack.lean ====
section
/-! DEFINITION. What a register read returns (R7): the stored value, the fields that follow other state, and 0 for write-only
and reserved fields. -/

namespace Sys2Proof.Machine

/-- The stored value without its write-only fields. -/
def Reg.visible (r : Reg) (v : Nat) : Nat :=
  r.fields.foldl (fun a f => if f.acc = .WO then a else setBits a f.lo f.w (bitsOf v f.lo f.w)) 0

/-- A value with a field replaced. -/
def put (v : Nat) (f : Fld) (x : Nat) : Nat := setBits v f.lo f.w x

def puts (v : Nat) (l : List (Fld × Nat)) : Nat := l.foldl (fun v p => put v p.1 p.2) v

/-- A number with bit `i` set for each `i < n` that has a property. -/
def maskOf (n : Nat) (f : Nat → Bool) : Nat := (List.range n).foldl (fun v i => setBits v i 1 (bit (f i))) 0

/-- The beat an engine may start commands of: LOAD two ahead, the others the current one (R27). -/
def beatLimit (eng cur : Nat) : Nat := if eng = 0 then cur + 2 else cur

/-- Engine `eng` is idle-gated: its queue is empty or its head belongs to a beat not yet open to it (R31). -/
def State.engIdle (s : State) (n eng : Nat) : Bool :=
  match (s.core n).queue eng with
  | [] => true
  | e :: _ => decide (beatLimit eng (s.part (s.partOf n)).beat < e.beat)

/-- Engine `eng` is in shutter: the head command that it may start has a WAIT clause not met (R29). A head command of a beat not
yet open, whose WAIT clause is unmet too, counts as idle-gated (R31) and not as shuttered (DESIGN CHOICE, log entry 76). -/
def State.engShut (s : State) (n eng : Nat) : Bool :=
  match (s.core n).queue eng with
  | [] => false
  | e :: _ => !s.engIdle n eng && !e.started && !s.waitsMet n e.cmd

/-- The dispatcher is in shutter: a held command has a WAIT clause not met. -/
def State.dispShut (s : State) (n : Nat) : Bool :=
  match (s.core n).next with
  | .cmd c => (s.core n).held && !s.waitsMet n c
  | _ => false

/-- Commands in the stream buffer from the next one on: every slot of a fetched block counts, also past the stream's end, and a
command of a kept block that is dispatched does not (DEDUCED, log entry 68). -/
def Core.buffered (k : Core) : Nat :=
  ((k.blocks.filter (fun b => decide (k.seq / 64 ≤ b.idx))).map (fun b => b.cmds.length)).sum -
    (if k.blocks.any (fun b => b.idx == k.seq / 64 && !b.failed) then k.seq % 64 else 0)

/-- Members of a context that have arrived for its oldest open generation. -/
def arrivedAt (counts : Tbl Nat) (gen : Nat) : Nat := (counts.filter (fun e => decide (gen < e.2))).length

/-- What a read of register `i` of a name returns. DISP_STATUS.AHEAD reads 2 while the dispatcher stands at the first command of
beat b + 3 (DEDUCED from its range 0 to 2, log entry 68). CORE_STATUS.IDLE reads its reset value while the package is held in
reset (DEDUCED, log entry 68). -/
def State.readReg (s : State) (r : Reg) (i : Nat) : Nat :=
  let v := r.visible (s.rdReg r i)
  let p := s.partOf i
  let k := s.core i
  match r with
  | .CORE_STATUS =>
    puts v [(F.CORE_STATUS_BEAT, (s.part p).beat), (F.CORE_STATUS_RUNNING, bit (s.coreIn i)),
      (F.CORE_STATUS_HOLD, bit (s.part p).holdSince.isSome), (F.CORE_STATUS_IDLE, if s.boot.held then 0 else maskOf 5 (s.engIdle i)),
      (F.CORE_STATUS_DISP_SHUT, bit (s.dispShut i)), (F.CORE_STATUS_SHUTTERED, maskOf 5 (s.engShut i))]
  | .CORE_STBUF => put v F.CORE_STBUF_OCC k.sb.length
  | .DISP_STATUS =>
    let full := match k.next with
      | .cmd c => decide (hEngine c < 5) && decide (64 ≤ (k.queue (hEngine c)).length)
      | _ => false
    puts v [(F.DISP_STATUS_FETCH_STALL, bit (s.mayDispatch i && k.next == .absent)),
      (F.DISP_STATUS_FULL_STALL, bit (s.mayDispatch i && full)), (F.DISP_STATUS_AHEAD, min 2 (k.beat - (s.part p).beat)),
      (F.DISP_STATUS_BUF, k.buffered), (F.DISP_STATUS_SEQ, k.seq)]
  | .DISP_QOCC =>
    puts v [(F.DISP_QOCC_LOAD, k.load.length), (F.DISP_QOCC_MATRIX, k.matrix.length), (F.DISP_QOCC_VECTOR, k.vector.length),
      (F.DISP_QOCC_STORE, k.store.length), (F.DISP_QOCC_SEND, k.send.length)]
  | .BEAT_STATUS =>
    let x := s.part i
    puts v [(F.BEAT_STATUS_BEAT, x.beat), (F.BEAT_STATUS_FINAL_WAIT, bit (x.running && s.finalBeat i && !s.varOpen i x.beat && s.openGen i)),
      (F.BEAT_STATUS_HOLD, bit x.holdSince.isSome), (F.BEAT_STATUS_RUNNING, bit x.running)]
  | .BEAT_HOLD =>
    match (s.part i).holdSince with
    | some t => put v F.BEAT_HOLD_HOLD_NS (satAdd 48 (s.getF F.BEAT_HOLD_HOLD_NS i) (s.now - t))
    | none => v
  | .LATCH_SCTX =>
    let t := s.getF F.LATCH_SCTX_TREE i
    puts v [(F.LATCH_SCTX_ROOT, bit (s.isRoot t)), (F.LATCH_SCTX_LEVELS, s.getF F.FAN_CFG_LEVELS t)]
  | .LATCH_TSTAT => put v F.LATCH_TSTAT_ARRIVED (arrivedAt (s.tctxOf i).counts (s.getF F.LATCH_TCTX_GEN i))
  | .LATCH_SSTAT => put v F.LATCH_SSTAT_ARRIVED (arrivedAt (s.sctxOf i).counts (s.getF F.LATCH_SCTX_GEN i))
  | .TIME_STATUS => put v F.TIME_STATUS_LOCKED (bit (s.flag F.TIME_STATUS_LOCKED 0 || s.flag F.TIME_CTRL_MASTER 0))
  | .CTL_PCDIG => if s.plansOf i = [] then 0 else v
  | .VCB_OCC0 =>
    puts v [(F.VCB_OCC0_VC0_KIB, s.vcKib i 0), (F.VCB_OCC0_VC1_KIB, s.vcKib i 1), (F.VCB_OCC0_VC2_KIB, s.vcKib i 2),
      (F.VCB_OCC0_VC3_KIB, s.vcKib i 3)]
  | .VCB_OCC1 =>
    puts v [(F.VCB_OCC1_VC4_KIB, s.vcKib i 4), (F.VCB_OCC1_VC5_KIB, s.vcKib i 5), (F.VCB_OCC1_REPLAY_KIB, s.storeKib i)]
  | .VCB_POOL => puts v [(F.VCB_POOL_USED_KIB, s.poolUsed i), (F.VCB_POOL_HIGH_KIB, max (s.getF F.VCB_POOL_HIGH_KIB i) (s.poolUsed i))]
  | .CTL_UARTSTAT => puts v [(F.CTL_UARTSTAT_RXLEVEL, s.uartRx.length), (F.CTL_UARTSTAT_TXLEVEL, s.uartTx.length)]
  | _ => v

/-- The register is one of SEC_ or MEM_. -/
def Reg.secret (r : Reg) : Bool :=
  (decide (Reg.MEM_SALT.code ≤ r.code) && decide (r.code ≤ Reg.MEM_REFSTALL.code)) ||
  (decide (Reg.SEC_STATUS.code ≤ r.code) && decide (r.code ≤ Reg.SEC_PBBSTAT.code))

/-- What a read of a register by JTAG gives: at debug level 1 or above, and outside SEC_ and MEM_ (Table 18-6). -/
def State.jtagRead (s : State) (r : Reg) (i : Nat) : Option Nat :=
  if s.getF F.SEC_DEBUG_LEVEL 0 = 0 ∨ r.secret then none else some (s.readReg r i)

/-- The byte at offset `a` of the register space. -/
def State.regByte (s : State) (a : Nat) : Byte :=
  match regAt (regBase + a / 8 * 8) with
  | some (r, i) => BitVec.ofNat 8 (s.readReg r i / 256 ^ (a % 8))
  | none => 0

/-- `n` bytes of the register space from offset `a`. -/
def State.regBytes (s : State) (a : Nat) : Nat → List Byte
  | 0 => []
  | n + 1 => s.regByte a :: s.regBytes (a + 1) n

end Sys2Proof.Machine
end

