-- ==== Sys2Proof/Machine/Host.lean ====
section
/-! DEFINITION. The host side (R364 to R366, R372, R373, R375 to R377): doorbells, windows, peepholes, management, UART. -/

namespace Sys2Proof.Machine

/-! ## Doorbells (R366, Table 19-9) -/

/-- Roles whose entries the host, or the device or plan, produces (Table 19-2). -/
def hostMade (role : Nat) : Bool := role == 1 || role == 3 || role == 7
def deviceMade (role : Nat) : Bool := role == 2 || role == 4 || role == 5 || role == 6 || role == 8

/-- HEAD and TAIL of a ring: a plan moves HEAD of its PLAN_IN and TAIL of its PLAN_OUT in the header itself, which Ranuat reads as
any granule; a read that is refused gives none. -/
def State.counters (s : State) (r : Ring) : State × Option (Nat × Nat) :=
  if r.role = 7 ∨ r.role = 8 then
    match s.readR r.off 64 [] with
    | (s, .ok bs) => (s, some (if r.role = 7 then (leAt bs 0 4, r.tail) else (r.head, leAt bs 4 4)))
    | (s, .refused _) => (s, none)
  else (s, some (r.head, r.tail))

/-- `b - a` of two free-running counters. -/
def ahead (a b : Nat) : Nat := (b + 2 ^ 32 - a) % 2 ^ 32

/-- A doorbell does not fit its ring: not the function's, or the wrong CQ. -/
def State.doorbellOff (s : State) (fn k : Nat) (cq : Bool) : Bool :=
  let r := s.ring k
  !s.ringRange fn k || r.fn != fn || !(if cq then deviceMade r.role else hostMade r.role)

/-- A doorbell value does not fit HEAD and TAIL: a backward move, or more entries than the ring holds. -/
def valueBad (log2n head tail x : Nat) (cq : Bool) : Bool :=
  decide (2 ^ 31 ≤ ahead (if cq then head else tail) x) || decide (2 ^ log2n < if cq then ahead x tail else ahead head x)

/-- The plaintext of `n` bytes of records, cut as R355 cuts them; none when a record fails or they do not make `n`. -/
def State.takeRecs (s : State) (p n : Nat) : List HostData → State × Option (List Byte)
  | [] => (s, if n = 0 then some [] else none)
  | h :: t =>
    match s.bounceIn p (min 65536 n) h with
    | (s, none) => (s, none)
    | (s, some bs) =>
      match s.takeRecs p (n - 65536) t with
      | (s, none) => (s, none)
      | (s, some more) => (s, some (bs ++ more))

/-- Write entries of a ring from counter `k` on. -/
def State.putEntries (s : State) (r : Ring) (k : Nat) : Nat → List Byte → State
  | 0, _ => s
  | n + 1, bs =>
    (s.ringWrite r (64 + k % 2 ^ r.log2n * r.ent) (bs.take r.ent)).putEntries r (k + 1) n (bs.drop r.ent)

/-- The header of a ring: HEAD, TAIL, the rest reserved (R365). A doorbell of a plan's ring is forwarded as one whole-granule write
of it (R366). -/
def ringHeader (head tail : Nat) : List Byte := padTo 64 (leBytes 4 head ++ leBytes 4 tail)

/-- A new TAIL of a host-produced ring whose HEAD is `head`. In BOUNCE mode the new entries arrive as records first, and without
them the doorbell takes nothing (R354). -/
def State.newTail (s : State) (k x head : Nat) (recs : List HostData) : State :=
  let r := s.ring k
  let p := r.fn - 1
  let n := ahead r.tail x
  let (s, ok) :=
    if r.fn = 0 ∨ ¬ s.bounced p then (s, true)
    else match s.takeRecs p (n * r.ent) recs with
      | (s, some bs) => (s.putEntries r r.tail n bs, true)
      | (s, none) => (s, false)
  if ¬ ok then s
  else
    let s := s.setRing k { s.ring k with tail := x }
    if r.role = 7 then s.writeQ r.off (ringHeader head x) else s

/-- Entries of a PLAN_OUT ring leave as records, `n` from counter `k` on, read as any granule (R354, R366). -/
def State.planOut (s : State) (k : Nat) : Nat → State
  | 0 => s
  | n + 1 =>
    let r := s.ring k
    match s.readR (r.off + 64 + r.tail % 2 ^ r.log2n * r.ent) r.ent [] with
    | (s, .refused _) => s
    | (s, .ok bs) =>
      let s := s.ringBounce k bs
      (s.setRing k { s.ring k with tail := (r.tail + 1) % 2 ^ 32 }).planOut k n

/-- A new HEAD of a device-produced ring whose TAIL is `tail`; what waited for room goes out. In BOUNCE mode the entries that a plan
has produced since leave as records at the doorbell of its PLAN_OUT ring (DESIGN CHOICE, log entry 36). -/
def State.newHead (s : State) (k x tail at' : Nat) : State :=
  let r := s.ring k
  let s := s.setRing k { r with head := x, bat := at' }
  if r.role = 8 then
    let s := s.writeQ r.off (ringHeader x tail)
    if s.bounced (r.fn - 1) then s.planOut k (ahead r.tail tail) else s
  else if r.role = 2 then s.repost
  else if r.role = 4 then s.recomplete (r.fn - 1)
  else s

/-- A doorbell of a function. One whose ring header cannot be read is ignored and counted too (DESIGN CHOICE, log entry 62). -/
def State.doorbell (s : State) (fn v at' : Nat) (recs : List HostData) : State :=
  let cq := bitAt v 63
  let k := bitsOf v 32 16
  let x := bitsOf v 0 32
  if s.doorbellOff fn k cq then s.addF F.CTL_STATUS_DB_IGNORED 0 1
  else match s.counters (s.ring k) with
    | (s, none) => s.addF F.CTL_STATUS_DB_IGNORED 0 1
    | (s, some (head, tail)) =>
      if valueBad (s.ring k).log2n head tail x cq then s.addF F.CTL_STATUS_DB_IGNORED 0 1
      else if cq then s.newHead k x tail at' else s.newTail k x head recs

/-- CTL_DOORBELL (R366): function `fn` (0 the PF, p + 1 the VF of partition p) writes `v`; in BOUNCE mode it also names where
records of device entries go (`at'`) and the records of the new host entries (`recs`). It returns the package to RUN (R426). -/
def execCtlDoorbell (fn : Nat) (v : Word64) (at' : Nat) (recs : List HostData) (s : State) : Out :=
  if ¬ fn ≤ 16 then .fault .noSuchUnit else .next (s.stir.doorbell fn v.toNat at' recs)

/-! ## Peepholes and the log (R372, R373) -/

/-- A peephole record's bytes (Table 19-5): SOURCE is 1 with core 0xFFFF. -/
def PeepRec.bytes (r : PeepRec) (p drops : Nat) : List Byte :=
  leBytes 1 1 ++ leBytes 1 (bit (r.core == 0xFFFF)) ++ leBytes 2 r.id ++ leBytes 2 r.core ++ leBytes 1 p ++ leBytes 1 0 ++ leBytes 4 r.seq ++
  leBytes 4 r.beat ++ leBytes 8 r.tb ++ leBytes 16 r.payload ++ leBytes 4 drops

/-- A record goes to the first PEEP ring of a function, or is dropped and counted when there is none or it is full. -/
def State.peepPut (s : State) (fn : Nat) (bs : List Byte) : State :=
  match (s.ringsOf fn 6).head? with
  | none => s.addF F.CTL_PEEPDROP_RING 0 1
  | some i => if (s.ring i).room = 0 then s.addF F.CTL_PEEPDROP_RING 0 1 else s.ringPut i bs

/-- Ranuat emits a record of its own, when bit 0 of its ID's mask enables it. What it tells is a free value, and the ring is the PF's
(DESIGN CHOICE, log entry 76: the spec gives neither). -/
def State.ranuatPeep (s : State) : State :=
  let (s, v) := s.takeFree
  let id := 768 + v % 256
  if ¬ bitAt (s.getF (peepFld id) (id / 4)) 0 then s
  else s.peepPut 0 ((⟨id, 0xFFFF, 0, 0, s.now, v⟩ : PeepRec).bytes 0 0)

/-- PEEPHOLE_DELIVER (R372): the oldest record of a core's queue, or with 0xFFFF one of Ranuat's own, goes to its PEEP ring; none while
the lockstep pair is stopped (R406). -/
def execPeepholeDeliver (core : Nat) (s : State) : Out :=
  if ¬ (core < 256 ∨ core = 0xFFFF) then .fault .noSuchUnit
  else if s.pairStopped then .next s
  else if core = 0xFFFF then .next s.ranuatPeep
  else
    let k := s.core core
    match k.peep with
    | [] => .next s
    | r :: t =>
      let p := s.partOf core
      let s := s.setCore core { k with peep := t }
      match (s.ringsOf (p + 1) 6).head? with
      | none => .next (s.addF F.CTL_PEEPDROP_RING 0 1)
      | some i =>
        if (s.ring i).room = 0 then .next (s.addF F.CTL_PEEPDROP_RING 0 1)
        else .next ((s.modCore core (fun k => { k with peepDrops := 0 })).ringPut i (r.bytes p k.peepDrops))

/-- LOG_COPY (R373): the log buffer is copied to the LOG ring. -/
def execLogCopy (s : State) : Out := .next s.logCopy

/-! ## Management (R375) -/

/-- A packet for endpoint `eid` goes out on its management route with `hops` made, or is dropped and logged; the spec gives
the event no code. -/
def State.mctpSend (s : State) (eid hops : Nat) (body : List Byte) : State :=
  match s.boot.mgmt.find? (fun r => r.1 == eid) with
  | none => s.logFree 255 [eid]
  | some r =>
    if 8 < hops then s.logFree 255 [eid]
    else s.portPut r.2 (s.mkPacket ptMGMT 5 0 0 hops body .unit 0)

/-- MGMT_PACKET (R375): the first MGMT packet delivered on the package is for the local endpoint, or goes one hop on. The
destination is byte 1 of the MCTP packet. -/
def execMgmtPacket (s : State) : Out :=
  match takeFirst (fun k => k.ptype == ptMGMT) s.inbox with
  | none => .next s
  | some (k, rest) =>
    let s : State := { s with inbox := rest }
    let eid := leAt k.body 1 1
    if eid = s.eid then .next { s with mctpIn := s.mctpIn ++ [k.body] }
    else .next (s.mctpSend eid (k.arg % 16 + 1) k.body)

/-- A sensor value (R375) in the model's numbering. -/
def State.sensor (s : State) (k : Nat) : Option (List Byte) :=
  if k = 0 then some (leBytes 4 (s.getF F.PWR_MEAS_AVG_MW 0))
  else if k ≤ 4 then some (leBytes 2 (bitsOf (s.rdReg .PWR_TEMP0 0) (16 * (k - 1)) 16))
  else if k ≤ 12 then some (leBytes 1 (bitsOf (s.rdReg .PWR_TEMP1 0) (8 * (k - 5)) 8))
  else if k ≤ 25 then some (leBytes 2 (s.getF F.PWR_RAIL_VOLT_MV (k - 13)))
  else if k ≤ 57 then some (leBytes 1 (s.getF F.PANE_FREQ_CUR (k - 26)))
  else if k = 58 then some (leBytes 1 (s.getF F.SEC_STATUS_TAMPERED 0))
  else none

/-- What Ranuat answers; the first byte is 0 for success and 1 for what it does not support. -/
def State.mgmtAnswer (s : State) (r : MgmtReq) : List Byte :=
  match r with
  | .setEid e => [0, BitVec.ofNat 8 e]
  | .getEid => [0, BitVec.ofNat 8 s.eid]
  | .discovery => [0, 0, 2]
  | .sensor k => match s.sensor k with
    | some bs => 0 :: bs
    | none => [1]
  | .otherType => [1]
  | .packet _ _ => []

/-- PLDM_REQUEST (R375, R426): a message on I3C or SMBus wakes the package and is answered; a packet for another endpoint is
put on its port with one hop made. `cals`: what the crossings of each pane measure in the return to RUN. -/
def execPldmRequest (r : MgmtReq) (cals : List (Cal × Cal)) (s : State) : Out :=
  if ¬ cals.length ≤ 32 then .fault .noSuchUnit
  else if ¬ s.flag F.CTL_STATUS_READY 0 ∨ s.boot.quiet ∨ s.boot.held then .next s
  else
    let s := if s.asleep then s.wake cals else s
    match r with
    | .packet e body => .next (if e = s.eid then { s with mctpIn := s.mctpIn ++ [body] } else s.mctpSend e 1 body)
    | .setEid e => .next { s with eid := e % 256, mctpOut := s.mctpOut ++ [s.mgmtAnswer r] }
    | _ => .next { s with mctpOut := s.mctpOut ++ [s.mgmtAnswer r] }

/-! ## UART (R376, R377) -/

/-- Sample `k` (1 to 16) of bit `b` of a character (the start bit is 0, the stop bit 9); a line with no sample rests high. -/
def uaSample (v : List Bool) (b k : Nat) : Bool := v.getD (16 * b + k - 1) true

/-- The majority of samples 7, 8 and 9 of a bit. -/
def uaBit (v : List Bool) (b : Nat) : Bool :=
  decide (2 ≤ bit (uaSample v b 7) + bit (uaSample v b 8) + bit (uaSample v b 9))

/-- The first sample of the stop bit at which the line falls. -/
def uaFall (v : List Bool) : Option Nat :=
  ((List.range 16).map (· + 1)).find? (fun k => !uaSample v 9 k && (if k = 1 then uaSample v 8 16 else uaSample v 9 (k - 1)))

/-- The character whose start bit begins the samples, when that is no noise: its value and its framing-error flag. -/
def uaChar (v : List Bool) : Option UChar :=
  if uaBit v 0 then none
  else some ⟨((List.range 8).map (fun i => 2 ^ i * bit (uaBit v (i + 1)))).sum, !uaBit v 9 || (uaFall v).any (fun k => decide (k < 9))⟩

/-- The samples of the character: those up to the fall of its stop bit, which begins the next character; of noise, its start bit. -/
def uaUsed (v : List Bool) : Nat :=
  if uaBit v 0 then 16
  else match uaFall v with
    | some k => 143 + k
    | none => 160

/-- A character is delivered, or dropped and counted when the receive FIFO is full. -/
def State.uartTake (s : State) (c : UChar) : State :=
  if 64 ≤ s.uartRx.length then s.addF F.CTL_UARTSTAT_OVERRUN 0 1
  else { (if c.ferr then s.addF F.CTL_UARTSTAT_FRAMING 0 1 else s) with uartRx := s.uartRx ++ [c] }

/-- The receiver uses the samples it has, at most `n` times: a start bit begins at the first low sample, and a character takes ten
bits. -/
def State.uartRun (s : State) : Nat → State
  | 0 => s
  | n + 1 =>
    let v := s.uartLine.dropWhile id
    if v.length < 160 then { s with uartLine := v }
    else
      let s : State := { s with uartLine := v.drop (uaUsed v) }
      (match uaChar v with
        | some c => s.uartTake c
        | none => s).uartRun n

/-- The console (the boot ROM's or Ranuat's) takes characters and writes others, and the transmitter sends what waits. How many and
which are free values, at most what the FIFOs hold; no input changes device state (R376; log entry 64). -/
def State.console (s : State) : State :=
  let (s, v) := s.takeFree
  let sent := if s.flag F.CTL_UART_TX_EN 0 then s.uartTx else []
  let left := if s.flag F.CTL_UART_TX_EN 0 then [] else s.uartTx
  { s with
    uartRx := s.uartRx.drop (v % 65)
    uartOut := s.uartOut ++ sent
    uartTx := (left ++ (List.range (v / 65 % 65)).map (fun i => (Config.freeByte (v + i)).toNat)).take 64 }

/-- UART_RX_CHAR (R376, R377): the receiver has taken 160 more samples of the line, ten bit times, oldest in bit 0. A receiver that is
not enabled takes none. -/
def execUartRxChar (v : BitVec 160) (s : State) : Out :=
  if ¬ s.flag F.CTL_UART_RX_EN 0 then .next { s.console with uartLine := [] }
  else
    let s := s.console
    .next (({ s with uartLine := s.uartLine ++ (List.range 160).map (bitAt v.toNat) } : State).uartRun 21)

/-! ## Function windows (R364, Table 19-1) -/

/-- The bytes an access moves. -/
def Tlp.size (t : Tlp) : Nat :=
  match t.data with
  | some bs => bs.length
  | none => t.len

/-- The access lies in `lo` to `hi - 1` of its window. -/
def Tlp.within (t : Tlp) (lo hi : Nat) : Bool := decide (lo ≤ t.off) && decide (t.off + t.size ≤ hi)

/-- A read completes with bytes. -/
def State.tlpData (s : State) (t : Tlp) (bs : List Byte) : State := { s with tlpOut := s.tlpOut ++ [⟨t.fn, some bs, false, false⟩] }

/-- An access outside what is populated: Unsupported Request on a read; a write is dropped. -/
def State.tlpRefuse (s : State) (t : Tlp) (abort : Bool) : State :=
  if t.data.isSome then s else { s with tlpOut := s.tlpOut ++ [⟨t.fn, none, abort, false⟩] }

/-- What a refused read of memory gives the host: a poisoned completion for data lost to an error (R185), else Completer Abort
(R169). -/
def State.tlpMemErr (s : State) (t : Tlp) (c : Nat) : State :=
  if c = causeUNCORR_READ ∨ c = causePOISON_READ then { s with tlpOut := s.tlpOut ++ [⟨t.fn, none, false, true⟩] }
  else s.tlpRefuse t true

/-- The block offset of a byte of the four PWR_ registers of BAR0 (R432). -/
def pwrByte (o : Nat) : Nat := 0x0B000000 + (match o / 8 with
  | 0 => 0x008
  | 1 => 0x018
  | 2 => 0x028
  | _ => 0x030) + o % 8

/-- A byte of BAR0 as a function reads it. -/
def State.bar0Byte (s : State) (fn a : Nat) : Byte :=
  if 0x1000 ≤ a ∧ a < 0x2000 then
    if fn = 0 ∨ (0x1100 ≤ a ∧ a < 0x1128) then s.regByte (a - 0x1000) else 0
  else if fn = 0 ∧ 0x2000 ≤ a ∧ a < 0x2020 then s.regByte (pwrByte (a - 0x2000))
  else 0

/-- An access of BAR0. -/
def State.tlpBar0 (s : State) (t : Tlp) (at' : Nat) (recs : List HostData) (sigOk : Bool) : Out :=
  match t.data with
  | some bs =>
    if t.off = 0 ∧ bs.length = 8 then .next (s.stir.doorbell t.fn (leNat bs) at' recs)
    else if t.fn = 0 ∧ t.off = 0x1008 ∧ bs.length = 8 then execFwload (BitVec.ofNat 64 (leNat bs)) sigOk s
    else if t.fn = 0 ∧ t.within 0x100000 0x200000 then
      .next { s with fwin := bs.zipIdx.foldl (fun m x => tset 0 m (t.off - 0x100000 + x.2) x.1) s.fwin }
    else .next s
  | none =>
    if t.within 0 8 ∨ t.within 0x1000 0x2000 ∨ (t.fn = 0 ∧ (t.within 0x2000 0x2020 ∨ t.within 0x100000 0x200000)) then
      .next (s.tlpData t ((List.range t.len).map (fun i => s.bar0Byte t.fn (t.off + i))))
    else .next (s.tlpRefuse t false)

/-- The page of DMA channel `i`, as an offset in the register space (R204). -/
def chanPage (i : Nat) : Nat := 0x04000000 + 0x100000 * (i / 32) + 0x1000 * (i % 32 + 1)

/-- The pages of BAR2 of a function: for VF p + 1 the channels of p, when it exists, then its RS rings; for the PF the channels
whose OWNER is FREE (R345; which pages are mapped is the model's, log entry 75). At most 64. -/
def State.bar2Pages (s : State) (fn : Nat) : List Nat :=
  if fn = 0 then ((List.range 64).filter (fun i => !s.exists' (s.chanOwner i))).map chanPage
  else if ¬ s.exists' (fn - 1) then []
  else (((s.chansOf (fn - 1)).map chanPage) ++ [0, 1].map (fun j => 0x04021000 + 0x100000 * j + 0x1000 * (fn - 1))).take 64

/-- A register with the W1C bits of a write cleared. -/
def State.clearW1c (s : State) (r : Reg) (i v : Nat) : State :=
  s.wrReg r i (r.fields.foldl (fun a f =>
    if f.acc = .W1C then setBits a f.lo f.w (bitsOf a f.lo f.w &&& (2 ^ f.w - 1 - bitsOf v f.lo f.w)) else a) (s.rdReg r i))

/-- A write of a channel's doorbell, its control register, the W1C bits of its status or an RS doorbell; other registers take no host
write (R189). -/
def State.bar2Write (s : State) (a : Nat) (v : Word64) : Out :=
  match regAt (regBase + a) with
  | some (.DMA_TAIL, i) => execDmaDoorbell (i / 32) (i % 32) v s
  | some (.DMA_CHCTRL, i) => if v.toNat % 4 = 1 then execDmaStop (i / 32) (i % 32) v s else execDmaResume (i / 32) (i % 32) v s
  | some (.DMA_CHSTAT, i) => .next (s.clearW1c .DMA_CHSTAT i v.toNat)
  | some (.DMA_RSTAIL, i) => execRsDoorbell (i / 16) (i % 16) v s
  | _ => .next s

/-- An access of BAR2. -/
def State.tlpBar2 (s : State) (t : Tlp) : Out :=
  match (s.bar2Pages t.fn)[t.off / 4096]? with
  | none => .next (s.tlpRefuse t false)
  | some base =>
    if ¬ t.off % 4096 + t.size ≤ 4096 then .next (s.tlpRefuse t false)
    else match t.data with
      | some bs => if bs.length = 8 ∧ t.off % 8 = 0 then s.bar2Write (base + t.off % 4096) (BitVec.ofNat 64 (leNat bs)) else .next s
      | none => .next (s.tlpData t (s.regBytes (base + t.off % 4096) t.len))

/-- An access of BAR4: the ring slice of the partition in modes NONE and IDE; outside RUN it waits (R426). `sym`: the symbol errors
that its read, or the merge of its write, meets. -/
def State.tlpBar4 (s : State) (t : Tlp) (sym : Syms) : Out :=
  let p := t.fn - 1
  let sl := s.slice p
  if t.fn = 0 ∨ ¬ s.exists' p ∨ s.bounced p ∨ ¬ t.off + t.size ≤ sl.2 then .next (s.tlpRefuse t false)
  else if s.asleep then .next s.stir
  else
    let s := s.markUnplanned p
    match t.data with
    | some bs => .next (s.write (sl.1 + t.off) sym bs).1
    | none =>
      match s.read (sl.1 + t.off) t.len sym with
      | (s, .ok bs) => .next (s.tlpData t bs)
      | (s, .refused c) => .next (s.tlpMemErr t c)

/-- INBOUND_TLP (R364, R354): an access of the host to a function's window. A TLP for a VF in IDE mode off its selective
stream is refused and counted; in vestibule mode no VF is present (R388). `at'` and `recs` go with a doorbell, `sigOk` with a write
of CTL_FWLOAD, `sym` with BAR4. -/
def execInboundTlp (t : Tlp) (at' : Nat) (recs : List HostData) (sigOk : Bool) (sym : Syms) (s : State) : Out :=
  if ¬ (t.fn ≤ 16 ∧ (t.bar = 0 ∨ t.bar = 2 ∨ t.bar = 4) ∧ 1 ≤ t.size ∧ t.size ≤ 4096) then .fault .noSuchUnit
  else if s.boot.held ∨ s.boot.quiet then .next s
  else if t.fn ≠ 0 ∧ s.portsOff then .next (s.tlpRefuse t false)
  else if t.fn ≠ 0 ∧ s.getF F.SEC_PCTL_HMODE (t.fn - 1) = 1 ∧ ¬ (t.ide ∧ (s.psecOf (t.fn - 1)).ide) then
    .next ((s.addF F.SEC_PBBSTAT_SEQ_FAIL (t.fn - 1) 1).tlpRefuse t false)
  else if t.bar = 0 then s.tlpBar0 t at' recs sigOk
  else if t.bar = 2 then s.tlpBar2 t
  else s.tlpBar4 t sym

end Sys2Proof.Machine
end

