-- ==== Sys2Proof/Machine/RegWrite.lean ====
section
/-! DEFINITION. A write of a register by its address (R7, R8): the access codes, the ranges that make a write ignored, and
the registers whose write is an action of its own. -/

namespace Sys2Proof.Machine

/-- A field is changed only by a value in its range and in a state that allows it; `x` is the value written to field `f` of
register `i`. -/
def State.fieldOk (s : State) (i : Nat) (f : Fld) (x : Nat) : Bool :=
  let range := fun (lo hi : Nat) => decide (lo ≤ x) && decide (x ≤ hi)
  let cap := range (s.heff i / 1024) (s.getF F.VCB_ALLOC_COMMON_KIB i - s.heff i / 1024)
  if f = F.MEM_CTRL_SCRUB_H then decide (x ≤ 168)
  else if f = F.MEM_CTRL_SKEW_RATIO then range 2 64
  else if f = F.BEAT_WDOG_LIMIT_US then range 10 1000000 && !(s.part i).running
  else if f = F.LATCH_START_MARGIN_NS then range 500 1000000
  else if f = F.DISP_STREAM_BASE_BASE ∨ f = F.DISP_STREAM_LEN_COMMANDS ∨ f = F.DISP_PARAM_BASE then !s.coreIn i
  else if f = F.DMA_CTRL_TIMEOUT_US then range 10 1000000
  else if f = F.DMA_POOL_FLOOR_KIB then range 4 96 && s.getF F.DMA_ACTIVE_BUSY i == 0
  else if f = F.DMA_CHCFG_POOL_MAX_KIB then range (s.getF F.DMA_POOL_FLOOR_KIB (i / 32)) 4096
  else if f = F.DMA_CHCFG_WEIGHT then decide (x ≠ 0)
  else if f = F.DMA_CHCFG_OWNER then !s.flag F.DMA_CHSTAT_BUSY i
  else if f = F.DMA_CHCFG_EN ∨ f = F.DMA_CHCFG_HOST_EN ∨ f = F.DMA_CHCFG_BOARD_EN ∨ f = F.DMA_CHCFG_NODE_EN then
    !s.flag F.DMA_CHSTAT_BUSY i && !(x != 0 && s.flag F.SEC_STATUS_TAMPERED 0)
  else if f = F.DMA_WLCTRL_REPAIR_MS then range 1 60000
  else if f = F.DMA_WLCTRL_STALL_US then range 100 1000000
  else if f = F.VCB_CAP_CAP0_KIB ∨ f = F.VCB_CAP_CAP1_KIB ∨ f = F.VCB_CAP_CAP3_KIB ∨ f = F.VCB_CAP_CAP4_KIB then cap
  else if f = F.VCB_HOLD_HOLD_US then range 50 500
  else if f = F.SMP_PSHAPE_VOCAB then range 1 1048576
  else if f = F.SMP_PSHAPE_SHARDS ∨ f = F.SMP_PSHAPE_KM then range 1 1024
  else if f = F.SMP_PSHAPE_K then range 8 1024 && x % 8 == 0
  else if f = F.SMP_PSET_COUNT then range 1 4096
  else if f = F.SEC_PPANE_PANES ∨ f = F.SEC_PPORT_PORTS ∨ f = F.SEC_PRING_COUNT ∨ f = F.SEC_PRING_BASE then !s.exists' i
  else if f = F.SEC_PRING_POOL_MIB then !s.exists' i && decide (x ≤ 1024)
  else if f = F.CTL_UART_DIV then range 5333 1666667
  else if f = F.CTL_ABORTCFG_LINK_LIMIT_US then range 320 600
  else if f = F.CTL_ABORTCFG_QUIET_US then range 10 1000
  else if f = F.PWR_CTRL_IDLE_US then range 10 1000000
  else if f = F.TIME_RATE_PPB then s.flag F.TIME_CTRL_MASTER 0
  else true

/-- The value a field takes: PPB is clamped (R215), and masks have no bit of a fused-off core (Table 6-17). -/
def State.fieldVal (s : State) (i : Nat) (f : Fld) (x : Nat) : Nat :=
  if f = F.TIME_RATE_PPB then unsigned 32 (max (-200000) (min 200000 (signed 32 x)))
  else if f = F.LATCH_TMASK_MASK ∨ f = F.LATCH_SMASK_MASK then
    (List.range 64).foldl (fun v k => if s.fusedOff (64 * (i % 4) + k) then setBits v k 1 0 else v) x
  else x

/-- A register after a write of `v`: each field by its access code (Table 0-5). -/
def State.written' (s : State) (r : Reg) (i v : Nat) : Nat :=
  r.fields.foldl (fun a f =>
    let x := bitsOf v f.lo f.w
    let old := bitsOf a f.lo f.w
    match f.acc with
    | .RW => if s.fieldOk i f x then setBits a f.lo f.w (s.fieldVal i f x) else a
    | .W1C => setBits a f.lo f.w (old &&& (2 ^ f.w - 1 - x))
    | .W1S => setBits a f.lo f.w (old ||| x)
    | _ => a) (s.rdReg r i)

/-- Records whose valid bit takes the fields above with it when it is cleared. -/
def recordFields (r : Reg) : List Fld :=
  match r with
  | .CORE_FAULT => [F.CORE_FAULT_SEQ, F.CORE_FAULT_ENGINE, F.CORE_FAULT_CODE]
  | .MEM_SKEW => [F.MEM_SKEW_WINDOWS, F.MEM_SKEW_CHANNEL, F.MEM_SKEW_PARTITION, F.MEM_SKEW_TIER, F.MEM_SKEW_RATIO_X16]
  | _ => []

/-- The bit that clears a record. -/
def recordBit (r : Reg) : Nat := if r = .CORE_FAULT then 16 else 0

/-- A ring register breaks its alignment or range, or its engine is busy (R189, R192, R410). -/
def State.ringRegBad (s : State) (r : Reg) (i v : Nat) : Bool :=
  let n := bitsOf v 0 5
  match r with
  | .DMA_RING => s.flag F.DMA_CHSTAT_BUSY i || decide (n < 4) || decide (16 < n) || bitsOf v 10 38 * 1024 % (64 * 2 ^ n) != 0
  | .DMA_RSCFG => s.flag F.DMA_RSSTAT_BUSY i || decide (n < 4) || decide (12 < n) || bitsOf v 10 38 * 1024 % (64 * 2 ^ n) != 0
  | _ => false

/-- A write would set START on a second system context of an owner (R156). -/
def State.secondStart (s : State) (i v : Nat) : Bool :=
  bitAt v 1 && (List.range 32).any (fun c => c != i && s.flag F.LATCH_SCTX_START c && s.getF F.LATCH_SCTX_OWNER c == bitsOf v 16 4)

/-- A register takes no write now: a context's while its owning partition runs a step (R139), a latch's while its core runs
(R150), the caps of a port in UP or MGMT_ONLY (R265). -/
def State.regBusy (s : State) (r : Reg) (i : Nat) : Bool :=
  match r with
  | .LATCH_VALUE => s.coreIn (i / 12)
  | .LATCH_TCTX => (s.part (s.getF F.LATCH_TCTX_OWNER i)).running
  | .LATCH_TSTAT => (s.part (s.getF F.LATCH_TCTX_OWNER i)).running
  | .LATCH_TMASK => (s.part (s.getF F.LATCH_TCTX_OWNER (i / 4))).running
  | .LATCH_SCTX => (s.part (s.getF F.LATCH_SCTX_OWNER i)).running
  | .LATCH_SSTAT => (s.part (s.getF F.LATCH_SCTX_OWNER i)).running
  | .LATCH_SMASK => (s.part (s.getF F.LATCH_SCTX_OWNER (i / 4))).running
  | .VCB_CAP => s.pstate i == 8 || s.pstate i == 9
  | _ => false

/-- A write of a sampler register breaks a range of Table 17-1 (R340). -/
def State.smpBad (s : State) (r : Reg) (i v : Nat) : Bool :=
  (r == .SMP_PSHAPE || r == .SMP_PSET) && r.fields.any (fun f => decide (f.acc = .RW) && !s.fieldOk i f (bitsOf v f.lo f.w))

/-- Store a write of `v` in register `i` of a name. -/
def State.storeReg (s : State) (r : Reg) (i v : Nat) : State :=
  if s.regBusy r i || s.smpBad r i v || s.ringRegBad r i v || (r == .LATCH_SCTX && s.secondStart i v) then s
  else
    let s := s.wrReg r i (s.written' r i v)
    if bitAt v (recordBit r) then
      let s := s.setFs i ((recordFields r).map (fun f => (f, 0)))
      if r = .CORE_FAULT then s.setF F.CORE_STATUS_FAULTED i 0 else s
    else s

/-! ## Sampler registers (R340): during a step, and up to its serving boundary, a write waits -/

/-- The sampler configuration as its registers hold it, in the layout of Table 17-1. -/
def State.smpBytes (s : State) (p : Nat) : List Byte :=
  padTo 64 (leBytes 4 1 ++ leBytes 2 (s.getF F.SMP_PSHAPE_SHARDS p) ++ leBytes 2 (s.getF F.SMP_PSHAPE_K p) ++
    leBytes 2 (s.getF F.SMP_PSHAPE_KM p) ++ leBytes 2 0 ++ leBytes 4 (s.getF F.SMP_PSHAPE_VOCAB p) ++
    leBytes 6 (64 * s.getF F.SMP_PCAND_BASE p) ++ leBytes 6 (64 * s.getF F.SMP_PSET_BASE p) ++
    leBytes 2 (s.getF F.SMP_PSET_COUNT p) ++ leBytes 6 (16384 * s.getF F.SMP_PHIST_BASE p))

/-- A write of a sampler register of partition `p`. -/
def State.writeSmp (s : State) (r : Reg) (p v : Nat) : State :=
  if ¬ s.inStep p ∧ (s.serve p).rows = [] then s.storeReg r p v
  else
    let base := match (s.serve p).newSmp with
      | some c => s.applySmp p c.1 c.2
      | none => s
    let t := base.storeReg r p v
    s.modServe p (fun x => { x with newSmp := some (t.flag F.SMP_PCAND_VALID p, t.smpBytes p) })

/-! ## The row -/

/-- The write of a register that is an action: it does what the action's own row does, with the outcome `ok` of what the action
checks outside (an image signature, R370; that no sensor trips, R361). A write of SEC_PCTL with both CREATE and TEARDOWN does
CREATE (DESIGN CHOICE, log entry 68: the spec is silent on it). CTL_FWLOAD takes no such write: the PF alone writes it, through BAR0
(R378). -/
def State.actReg (s : State) (r : Reg) (i : Nat) (v : Word64) (ok : Bool) : Option Out :=
  match r with
  | .MEM_PHBM => some (execMemPhbmWrite i v s)
  | .MEM_PCEL => some (execMemPcelWrite i v s)
  | .PANE_FREQ => some (execPaneFreqRequest i v s)
  | .TIME_STEP => some (execTimeStep v s)
  | .PORT_CTRL =>
    some (if v.toNat % 16 = 1 then execRetrain i v s else if v.toNat % 16 = 2 then execWake i v s
      else if v.toNat % 16 = 4 then execSleep i v s else execOff i v s)
  | .DMA_TAIL => some (execDmaDoorbell (i / 32) (i % 32) v s)
  | .DMA_CHCTRL => some (if v.toNat % 4 = 1 then execDmaStop (i / 32) (i % 32) v s else execDmaResume (i / 32) (i % 32) v s)
  | .DMA_RSTAIL => some (execRsDoorbell (i / 16) (i % 16) v s)
  | .RTE_GRP => some (execRteEntryWrite false i v s)
  | .RTE_MBR => some (execRteEntryWrite true i v s)
  | .RTE_PSET => some (execRtePsetWrite i v s)
  | .FAN_CFG => some (execFanEntryWrite i 0 v s)
  | .FAN_DL => some (execFanEntryWrite i 1 v s)
  | .FAN_CMASK => some (execFanEntryWrite (i / 4) (i % 4 + 2) v s)
  | .RQT_PART => some (.next (s.writeRqt i v.toNat))
  | .SMP_PCAND => some (.next (s.writeSmp r i v.toNat))
  | .SMP_PSHAPE => some (.next (s.writeSmp r i v.toNat))
  | .SMP_PSET => some (.next (s.writeSmp r i v.toNat))
  | .SMP_PHIST => some (.next (s.writeSmp r i v.toNat))
  | .SEC_PCTL => if bitAt v.toNat 2 then some (execCreate i s) else if bitAt v.toNat 3 then some (execTeardown i s) else some (.next s)
  | .LATCH_START =>
    let s := s.storeReg .LATCH_START i v.toNat
    some (if bitAt v.toNat 0 then execStartArrive i [] [] [] s else .next s)
  | .CTL_FWLOAD => some (.next s)
  | .SEC_TCLR => some (execTamperClear v (!ok) s)
  | .LATCH_VALUE => some (.next ((s.storeReg .LATCH_VALUE i v.toNat).updateHold (s.partOf (i / 12))))
  | _ => none

/-- REGISTER_WRITE (R7, R8): a write of `v` to the register at address `a`; none is made while the package is held in reset. -/
def execRegisterWrite (a : Nat) (v : Word64) (ok : Bool) (s : State) : Out :=
  match regAt a with
  | none => .fault .noSuchUnit
  | some (r, i) =>
    if s.boot.held then .next s
    else match s.actReg r i v ok with
    | some o => o
    | none => .next (s.storeReg r i v.toNat)

end Sys2Proof.Machine
end

