-- ==== Sys2Proof/Machine/Dispatch.lean ====
section
/-! DEFINITION. The effect of each command, by constructor. -/

namespace Sys2Proof.Machine

def exec (i : Instr) (s : State) : Host.Outcome State Fault Refusal :=
  match i with
  | .nop core eng => Sys2Proof.Machine.execNop core eng s
  | .ldCopy core => Sys2Proof.Machine.execLdCopy core s
  | .ldPgather core => Sys2Proof.Machine.execLdPgather core s
  | .stCopy core => Sys2Proof.Machine.execStCopy core s
  | .sdData core => Sys2Proof.Machine.execSdData core s
  | .sdLatch core => Sys2Proof.Machine.execSdLatch core s
  | .sdArrive core => Sys2Proof.Machine.execSdArrive core s
  | .beatEnd core => Sys2Proof.Machine.execBeatEnd core s
  | .stepEnd core => Sys2Proof.Machine.execStepEnd core s
  | .latchReset core => Sys2Proof.Machine.execLatchReset core s
  | .peepEmit core => Sys2Proof.Machine.execPeepEmit core s
  | .mmWload core => Sys2Proof.Machine.execMmWload core s
  | .mmStream core => Sys2Proof.Machine.execMmStream core s
  | .mmDrain core => Sys2Proof.Machine.execMmDrain core s
  | .veBinary core => Sys2Proof.Machine.execVeBinary core s
  | .veUnary core => Sys2Proof.Machine.execVeUnary core s
  | .veRreduce core => Sys2Proof.Machine.execVeRreduce core s
  | .veOreduce core => Sys2Proof.Machine.execVeOreduce core s
  | .veCmp core => Sys2Proof.Machine.execVeCmp core s
  | .veTopk core => Sys2Proof.Machine.execVeTopk core s
  | .veTranspose core => Sys2Proof.Machine.execVeTranspose core s
  | .dispatchCommand core => Sys2Proof.Machine.execDispatchCommand core s
  | .streamBlockFetch core sym => Sys2Proof.Machine.execStreamBlockFetch core sym s
  | .commandComplete core eng lost => Sys2Proof.Machine.execCommandComplete core eng lost s
  | .loadPieceArrive core seq piece sym => Sys2Proof.Machine.execLoadPieceArrive core seq piece sym s
  | .storeAck core seq => Sys2Proof.Machine.execStoreAck core seq s
  | .granuleTaken core => Sys2Proof.Machine.execGranuleTaken core s
  | .beatOpen p refWait losses => Sys2Proof.Machine.execBeatOpen p refWait losses s
  | .holdTimeout p => Sys2Proof.Machine.execHoldTimeout p s
  | .stepComplete p refWait losses => Sys2Proof.Machine.execStepComplete p refWait losses s
  | .storeDrainLost core => Sys2Proof.Machine.execStoreDrainLost core s
  | .dataArrive losses => Sys2Proof.Machine.execDataArrive losses s
  | .latchWriteArrive => Sys2Proof.Machine.execLatchWriteArrive s
  | .thresholdArrive => Sys2Proof.Machine.execThresholdArrive s
  | .arriveToken => Sys2Proof.Machine.execArriveToken s
  | .completeToken => Sys2Proof.Machine.execCompleteToken s
  | .startArrive p sym areas cals => Sys2Proof.Machine.execStartArrive p sym areas cals s
  | .stepStart p => Sys2Proof.Machine.execStepStart p s
  | .loadPlan h g x => Sys2Proof.Machine.execLoadPlan h g x s
  | .unloadPlan h => Sys2Proof.Machine.execUnloadPlan h s
  | .step h areas sym => Sys2Proof.Machine.execStep h areas sym s
  | .partitionInfo h => Sys2Proof.Machine.execPartitionInfo h s
  | .peepEnable h id mask on => Sys2Proof.Machine.execPeepEnable h id mask on s
  | .ringSetup h xs => Sys2Proof.Machine.execRingSetup h xs s
  | .pin h part on => Sys2Proof.Machine.execPin h part on s
  | .logFlush h => Sys2Proof.Machine.execLogFlush h s
  | .fwUpdate h sigOk good => Sys2Proof.Machine.execFwUpdate h sigOk good s
  | .updateDrainTimeout => Sys2Proof.Machine.execUpdateDrainTimeout s
  | .handoverTimeout => Sys2Proof.Machine.execHandoverTimeout s
  | .memAccess g wr off data sym => Sys2Proof.Machine.execMemAccess g wr off data sym s
  | .hbmRefresh h => Sys2Proof.Machine.execHbmRefresh h s
  | .cellarRefresh c => Sys2Proof.Machine.execCellarRefresh c s
  | .patrolScrub sym => Sys2Proof.Machine.execPatrolScrub sym s
  | .skewWindow => Sys2Proof.Machine.execSkewWindow s
  | .hbmTempReport stack temp => Sys2Proof.Machine.execHbmTempReport stack temp s
  | .memPhbmWrite p v => Sys2Proof.Machine.execMemPhbmWrite p v s
  | .memPcelWrite p v => Sys2Proof.Machine.execMemPcelWrite p v s
  | .memRequest sym => Sys2Proof.Machine.execMemRequest sym s
  | .memResponse => Sys2Proof.Machine.execMemResponse s
  | .dmaDoorbell jamb c v => Sys2Proof.Machine.execDmaDoorbell jamb c v s
  | .descriptorFetch jamb c sym => Sys2Proof.Machine.execDescriptorFetch jamb c sym s
  | .dmaPiece jamb c j sym host => Sys2Proof.Machine.execDmaPiece jamb c j sym host s
  | .descriptorComplete jamb c sym hostOk => Sys2Proof.Machine.execDescriptorComplete jamb c sym hostOk s
  | .dmaTimeout jamb c j => Sys2Proof.Machine.execDmaTimeout jamb c j s
  | .dmaStop jamb c v => Sys2Proof.Machine.execDmaStop jamb c v s
  | .dmaResume jamb c v => Sys2Proof.Machine.execDmaResume jamb c v s
  | .paneFreqRequest q v => Sys2Proof.Machine.execPaneFreqRequest q v s
  | .paneFreqChange q => Sys2Proof.Machine.execPaneFreqChange q s
  | .crossingDrift kind x inbound => Sys2Proof.Machine.execCrossingDrift kind x inbound s
  | .refclkLoss => Sys2Proof.Machine.execRefclkLoss s
  | .timeStep v => Sys2Proof.Machine.execTimeStep v s
  | .beaconSyncSend q => Sys2Proof.Machine.execBeaconSyncSend q s
  | .sync q => Sys2Proof.Machine.execSync q s
  | .delayReq q => Sys2Proof.Machine.execDelayReq q s
  | .delayResp q => Sys2Proof.Machine.execDelayResp q s
  | .beaconExchangeFail => Sys2Proof.Machine.execBeaconExchangeFail s
  | .timebaseStep => Sys2Proof.Machine.execTimebaseStep s
  | .ptpMessage m => Sys2Proof.Machine.execPtpMessage m s
  | .retrain q v => Sys2Proof.Machine.execRetrain q v s
  | .sleep q v => Sys2Proof.Machine.execSleep q v s
  | .wake q v => Sys2Proof.Machine.execWake q v s
  | .off q v => Sys2Proof.Machine.execOff q v s
  | .partnerSignal q silence powered => Sys2Proof.Machine.execPartnerSignal q silence powered s
  | .equalise q l => Sys2Proof.Machine.execEqualise q l s
  | .alignDone q cin cout => Sys2Proof.Machine.execAlignDone q cin cout s
  | .trainingStageTimeout q => Sys2Proof.Machine.execTrainingStageTimeout q s
  | .trainingFrame q seq ack b => Sys2Proof.Machine.execTrainingFrame q seq ack b s
  | .laneFail q lost hits => Sys2Proof.Machine.execLaneFail q lost hits s
  | .sleepTimeout q => Sys2Proof.Machine.execSleepTimeout q s
  | .partnerWake q => Sys2Proof.Machine.execPartnerWake q s
  | .relock q ok => Sys2Proof.Machine.execRelock q ok s
  | .flitReceive q corr uncorr bad phase f => Sys2Proof.Machine.execFlitReceive q corr uncorr bad phase f s
  | .goingAway q body => Sys2Proof.Machine.execGoingAway q body s
  | .ackTimeout q => Sys2Proof.Machine.execAckTimeout q s
  | .nakTimeout q => Sys2Proof.Machine.execNakTimeout q s
  | .bsfSend q => Sys2Proof.Machine.execBsfSend q s
  | .creditTimeout q => Sys2Proof.Machine.execCreditTimeout q s
  | .holdTimeExpiry q => Sys2Proof.Machine.execHoldTimeExpiry q s
  | .linkLost p => Sys2Proof.Machine.execLinkLost p s
  | .routeLookup ties => Sys2Proof.Machine.execRouteLookup ties s
  | .rteEntryWrite mbr x v => Sys2Proof.Machine.execRteEntryWrite mbr x v s
  | .fanEntryWrite t w v => Sys2Proof.Machine.execFanEntryWrite t w v s
  | .rtePsetWrite p v => Sys2Proof.Machine.execRtePsetWrite p v s
  | .inputDigest p sym => Sys2Proof.Machine.execInputDigest p sym s
  | .weightLoad h sym => Sys2Proof.Machine.execWeightLoad h sym s
  | .adapterLoad h id rank len expect e => Sys2Proof.Machine.execAdapterLoad h id rank len expect e s
  | .qpConnect h jamb qp ok => Sys2Proof.Machine.execQpConnect h jamb qp ok s
  | .rdmaReadResponse jamb qp ecn data sym => Sys2Proof.Machine.execRdmaReadResponse jamb qp ecn data sym s
  | .rdmaRetryExhausted jamb qp => Sys2Proof.Machine.execRdmaRetryExhausted jamb qp s
  | .chainPoll k r sym => Sys2Proof.Machine.execChainPoll k r sym s
  | .chainWordWrite k r sym => Sys2Proof.Machine.execChainWordWrite k r sym s
  | .chainBreak k r => Sys2Proof.Machine.execChainBreak k r s
  | .succLost k r => Sys2Proof.Machine.execSuccLost k r s
  | .chainRepairTimeout k r => Sys2Proof.Machine.execChainRepairTimeout k r s
  | .serveConfig h => Sys2Proof.Machine.execServeConfig h s
  | .samplerConfig h => Sys2Proof.Machine.execSamplerConfig h s
  | .customerSet h id => Sys2Proof.Machine.execCustomerSet h id s
  | .prioSet h => Sys2Proof.Machine.execPrioSet h s
  | .reqQuery h tag => Sys2Proof.Machine.execReqQuery h tag s
  | .submit k => Sys2Proof.Machine.execSubmit k s
  | .cancel k => Sys2Proof.Machine.execCancel k s
  | .servingBoundary p redo areas => Sys2Proof.Machine.execServingBoundary p redo areas s
  | .spill p ent => Sys2Proof.Machine.execSpill p ent s
  | .sampleRow p lane sym => Sys2Proof.Machine.execSampleRow p lane sym s
  | .partCreate h p o => Sys2Proof.Machine.execPartCreate h p o s
  | .create p => Sys2Proof.Machine.execCreate p s
  | .partTeardown h p => Sys2Proof.Machine.execPartTeardown h p s
  | .teardown p => Sys2Proof.Machine.execTeardown p s
  | .setPlanKey who p digest => Sys2Proof.Machine.execSetPlanKey who p digest s
  | .setHostMode p mode => Sys2Proof.Machine.execSetHostMode p mode s
  | .ideKm p => Sys2Proof.Machine.execIdeKm p s
  | .getVersion who => Sys2Proof.Machine.execGetVersion who s
  | .getCapabilities who => Sys2Proof.Machine.execGetCapabilities who s
  | .negotiateAlgorithms who offer => Sys2Proof.Machine.execNegotiateAlgorithms who offer s
  | .getDigests who => Sys2Proof.Machine.execGetDigests who s
  | .getCertificate who n => Sys2Proof.Machine.execGetCertificate who n s
  | .challenge who => Sys2Proof.Machine.execChallenge who s
  | .getMeasurements who sess index nonce => Sys2Proof.Machine.execGetMeasurements who sess index nonce s
  | .keyExchange who => Sys2Proof.Machine.execKeyExchange who s
  | .finish who id ok => Sys2Proof.Machine.execFinish who id ok s
  | .keyUpdate who id => Sys2Proof.Machine.execKeyUpdate who id s
  | .heartbeat who id => Sys2Proof.Machine.execHeartbeat who id s
  | .endSession who id => Sys2Proof.Machine.execEndSession who id s
  | .debugNonce => Sys2Proof.Machine.execDebugNonce s
  | .debugUnlock nonce level ok => Sys2Proof.Machine.execDebugUnlock nonce level ok s
  | .tamperAlarm cause sensor => Sys2Proof.Machine.execTamperAlarm cause sensor s
  | .tamperClear v trip => Sys2Proof.Machine.execTamperClear v trip s
  | .ctlDoorbell fn v at' recs => Sys2Proof.Machine.execCtlDoorbell fn v at' recs s
  | .fwload v sigOk => Sys2Proof.Machine.execFwload v sigOk s
  | .powerLoop avg ps rails => Sys2Proof.Machine.execPowerLoop avg ps rails s
  | .thermalLoop dies hbm ps => Sys2Proof.Machine.execThermalLoop dies hbm ps s
  | .peepholeDeliver core => Sys2Proof.Machine.execPeepholeDeliver core s
  | .logCopy => Sys2Proof.Machine.execLogCopy s
  | .mgmtPacket => Sys2Proof.Machine.execMgmtPacket s
  | .uartRxChar v => Sys2Proof.Machine.execUartRxChar v s
  | .reset x => Sys2Proof.Machine.execReset x s
  | .ranuatTimeout => Sys2Proof.Machine.execRanuatTimeout s
  | .resetAssert => Sys2Proof.Machine.execResetAssert s
  | .pwrfail => Sys2Proof.Machine.execPwrfail s
  | .abortReceive => Sys2Proof.Machine.execAbortReceive s
  | .quietEnd p replay => Sys2Proof.Machine.execQuietEnd p replay s
  | .stepReplay p => Sys2Proof.Machine.execStepReplay p s
  | .lockstepTest ok => Sys2Proof.Machine.execLockstepTest ok s
  | .lockstepMismatch parity => Sys2Proof.Machine.execLockstepMismatch parity s
  | .controlComplexReset => Sys2Proof.Machine.execControlComplexReset s
  | .rsDoorbell jamb p v => Sys2Proof.Machine.execRsDoorbell jamb p v s
  | .encode jamb p sym => Sys2Proof.Machine.execEncode jamb p sym s
  | .rebuild jamb p sym => Sys2Proof.Machine.execRebuild jamb p sym s
  | .rsJobComplete jamb p => Sys2Proof.Machine.execRsJobComplete jamb p s
  | .droop q => Sys2Proof.Machine.execDroop q s
  | .overcurrent leaf => Sys2Proof.Machine.execOvercurrent leaf s
  | .thermal => Sys2Proof.Machine.execThermal s
  | .prochot low => Sys2Proof.Machine.execProchot low s
  | .emergClear q => Sys2Proof.Machine.execEmergClear q s
  | .thermalTrip => Sys2Proof.Machine.execThermalTrip s
  | .standbyEntry idle drained => Sys2Proof.Machine.execStandbyEntry idle drained s
  | .sleepEntry drained => Sys2Proof.Machine.execSleepEntry drained s
  | .runReturn d0 cals => Sys2Proof.Machine.execRunReturn d0 cals s
  | .railOut5 k mv da => Sys2Proof.Machine.execRailOut5 k mv da s
  | .railUndervolt k => Sys2Proof.Machine.execRailUndervolt k s
  | .registerWrite a v ok => Sys2Proof.Machine.execRegisterWrite a v ok s
  | .paneRestart q ns cin cout => Sys2Proof.Machine.execPaneRestart q ns cin cout s
  | .degradeRealign q => Sys2Proof.Machine.execDegradeRealign q s
  | .flitSlot q phase => Sys2Proof.Machine.execFlitSlot q phase s
  | .inboundTlp t at' recs sigOk sym => Sys2Proof.Machine.execInboundTlp t at' recs sigOk sym s
  | .inboundPacket jamb kind => Sys2Proof.Machine.execInboundPacket jamb kind s
  | .pldmRequest r cals => Sys2Proof.Machine.execPldmRequest r cals s
  | .ptpLost => Sys2Proof.Machine.execPtpLost s
  | .entropyFail => Sys2Proof.Machine.execEntropyFail s

end Sys2Proof.Machine
end

