-- ==== Sys2Proof/WellFormed.lean ====
section
/-! DEFINITION. Which commands are well formed: every unit that an operand names exists in the package (Table 0-1, Table 1-1).
A command that is not well formed ends in Fault.noSuchUnit. -/

namespace Sys2Proof

open Sys2Proof.Machine

/-- Every unit that the command names exists. -/
def Instr.wf (i : Instr) : Prop :=
  match i with
  | .nop core eng => unitOk core eng
  | .ldCopy core => unitOk core 0
  | .ldPgather core => unitOk core 0
  | .stCopy core => unitOk core 3
  | .sdData core => unitOk core 4
  | .sdLatch core => unitOk core 4
  | .sdArrive core => unitOk core 4
  | .beatEnd core => unitOk core 5
  | .stepEnd core => unitOk core 5
  | .latchReset core => unitOk core 5
  | .peepEmit core => unitOk core 5
  | .mmWload core => unitOk core 1
  | .mmStream core => unitOk core 1
  | .mmDrain core => unitOk core 1
  | .veBinary core => unitOk core 2
  | .veUnary core => unitOk core 2
  | .veRreduce core => unitOk core 2
  | .veOreduce core => unitOk core 2
  | .veCmp core => unitOk core 2
  | .veTopk core => unitOk core 2
  | .veTranspose core => unitOk core 2
  | .dispatchCommand core => unitOk core 5
  | .streamBlockFetch core _ => unitOk core 5
  | .commandComplete core eng _ => unitOk core eng ∧ eng ≠ 5
  | .loadPieceArrive core _ _ _ => unitOk core 0
  | .storeAck core _ => unitOk core 3
  | .granuleTaken core => unitOk core 3
  | .beatOpen p _ _ => p < 16
  | .holdTimeout p => p < 16
  | .stepComplete p _ _ => p < 16
  | .storeDrainLost core => unitOk core 3
  | .dataArrive _ => True
  | .latchWriteArrive => True
  | .thresholdArrive => True
  | .arriveToken => True
  | .completeToken => True
  | .startArrive p _ _ _ => p < 16
  | .stepStart p => p < 16
  | .loadPlan h _ _ => h.fn ≤ 16
  | .unloadPlan h => h.fn ≤ 16
  | .step h _ _ => h.fn ≤ 16
  | .partitionInfo h => h.fn ≤ 16
  | .peepEnable h _ _ _ => h.fn ≤ 16
  | .ringSetup h _ => h.fn ≤ 16
  | .pin h _ _ => h.fn ≤ 16
  | .logFlush h => h.fn ≤ 16
  | .fwUpdate h _ _ => h.fn ≤ 16
  | .updateDrainTimeout => True
  | .handoverTimeout => True
  | .memAccess g _ o data _ => g < 2 ^ 42 ∧ o + data.length ≤ 64
  | .hbmRefresh h => h < 256
  | .cellarRefresh c => c < 16
  | .patrolScrub _ => True
  | .skewWindow => True
  | .hbmTempReport stack temp => stack < 8 ∧ temp < 256
  | .memPhbmWrite p _ => p < 16
  | .memPcelWrite p _ => p < 16
  | .memRequest _ => True
  | .memResponse => True
  | .dmaDoorbell jamb c _ => jamb < 2 ∧ c < 32
  | .descriptorFetch jamb c _ => jamb < 2 ∧ c < 32
  | .dmaPiece jamb c _ _ _ => jamb < 2 ∧ c < 32
  | .descriptorComplete jamb c _ _ => jamb < 2 ∧ c < 32
  | .dmaTimeout jamb c _ => jamb < 2 ∧ c < 32
  | .dmaStop jamb c _ => jamb < 2 ∧ c < 32
  | .dmaResume jamb c _ => jamb < 2 ∧ c < 32
  | .paneFreqRequest q _ => q < 32
  | .paneFreqChange q => q < 32
  | .crossingDrift kind i inbound => i < crossings kind ∧ hasHalf kind i inbound = true
  | .refclkLoss => True
  | .timeStep _ => True
  | .beaconSyncSend q => q < 36
  | .sync q => q < 36
  | .delayReq q => q < 36
  | .delayResp q => q < 36
  | .beaconExchangeFail => True
  | .timebaseStep => True
  | .ptpMessage _ => True
  | .retrain q _ => q < 36
  | .sleep q _ => q < 36
  | .wake q _ => q < 36
  | .off q _ => q < 36
  | .partnerSignal q _ _ => q < 36
  | .equalise q _ => q < 36
  | .alignDone q _ _ => q < 36
  | .trainingStageTimeout q => q < 36
  | .trainingFrame q seq ack _ => q < 36 ∧ seq < 2 ^ 24 ∧ ack < 2 ^ 24
  | .laneFail q _ _ => q < 36
  | .sleepTimeout q => q < 36
  | .partnerWake q => q < 36
  | .relock q _ => q < 36
  | .flitReceive q _ _ _ _ _ => q < 36
  | .goingAway q _ => q < 36
  | .ackTimeout q => q < 36
  | .nakTimeout q => q < 36
  | .bsfSend q => q < 36
  | .creditTimeout q => q < 36
  | .holdTimeExpiry q => q < 36
  | .linkLost p => p < 16
  | .routeLookup _ => True
  | .rteEntryWrite mbr i _ => i < (if mbr then 128 else 4096)
  | .fanEntryWrite t w _ => t < 4096 ∧ w < 6
  | .rtePsetWrite p _ => p < 16
  | .inputDigest p _ => p < 16
  | .weightLoad h _ => h.fn ≤ 16
  | .adapterLoad h _ _ _ _ _ => h.fn ≤ 16
  | .qpConnect h _ _ _ => h.fn ≤ 16
  | .rdmaReadResponse jamb _ _ _ _ => jamb < 2
  | .rdmaRetryExhausted jamb qp => jamb < 2 ∧ qp < 256
  | .chainPoll _ _ _ => True
  | .chainWordWrite _ _ _ => True
  | .chainBreak _ _ => True
  | .succLost _ _ => True
  | .chainRepairTimeout _ _ => True
  | .serveConfig h => h.fn ≤ 16
  | .samplerConfig h => h.fn ≤ 16
  | .customerSet h _ => h.fn ≤ 16
  | .prioSet h => h.fn ≤ 16
  | .reqQuery h _ => h.fn ≤ 16
  | .submit _ => True
  | .cancel _ => True
  | .servingBoundary p _ _ => p < 16
  | .spill p _ => p < 16
  | .sampleRow p _ _ => p < 16
  | .partCreate h _ _ => h.fn ≤ 16
  | .create p => p < 16
  | .partTeardown h _ => h.fn ≤ 16
  | .teardown p => p < 16
  | .setPlanKey who p _ => p < 16 ∧ who ≤ 17
  | .setHostMode p _ => p < 16
  | .ideKm p => p < 16
  | .getVersion who => who ≤ 17
  | .getCapabilities who => who ≤ 17
  | .negotiateAlgorithms who _ => who ≤ 17
  | .getDigests who => who ≤ 17
  | .getCertificate who _ => who ≤ 17
  | .challenge who => who ≤ 17
  | .getMeasurements who _ _ _ => who ≤ 17
  | .keyExchange who => who ≤ 17
  | .finish who _ _ => who ≤ 17
  | .keyUpdate who _ => who ≤ 17
  | .heartbeat who _ => who ≤ 17
  | .endSession who _ => who ≤ 17
  | .debugNonce => True
  | .debugUnlock _ _ _ => True
  | .tamperAlarm cause sensor => 1 ≤ cause ∧ cause ≤ 4 ∧ sensor < 256
  | .tamperClear _ _ => True
  | .ctlDoorbell fn _ _ _ => fn ≤ 16
  | .fwload _ _ => True
  | .powerLoop avg ps _ => avg < 2 ^ 32 ∧ ps.all (fun p => decide (p < 16))
  | .thermalLoop dies hbm ps => dies.length = 4 ∧ hbm.length = 8 ∧ ps.all (fun p => decide (p < 16))
  | .peepholeDeliver core => core < 256 ∨ core = 0xFFFF
  | .logCopy => True
  | .mgmtPacket => True
  | .uartRxChar _ => True
  | .reset _ => True
  | .ranuatTimeout => True
  | .resetAssert => True
  | .pwrfail => True
  | .abortReceive => True
  | .quietEnd p _ => p < 16
  | .stepReplay p => p < 16
  | .lockstepTest _ => True
  | .lockstepMismatch _ => True
  | .controlComplexReset => True
  | .rsDoorbell jamb p _ => jamb < 2 ∧ p < 16
  | .encode jamb p _ => jamb < 2 ∧ p < 16
  | .rebuild jamb p _ => jamb < 2 ∧ p < 16
  | .rsJobComplete jamb p => jamb < 2 ∧ p < 16
  | .droop q => q < 32
  | .overcurrent leaf => leaf < 2
  | .thermal => True
  | .prochot _ => True
  | .emergClear q => q < 32
  | .thermalTrip => True
  | .standbyEntry _ _ => True
  | .sleepEntry _ => True
  | .runReturn _ cals => cals.length ≤ 32
  | .railOut5 k mv da => k < 13 ∧ mv < 65536 ∧ da < 65536
  | .railUndervolt k => k < 13
  | .registerWrite a _ _ => (regAt a).isSome
  | .paneRestart q _ _ _ => q < 32
  | .degradeRealign q => q < 36
  | .flitSlot q _ => q < 36
  | .inboundTlp t _ _ _ _ => t.fn ≤ 16 ∧ (t.bar = 0 ∨ t.bar = 2 ∨ t.bar = 4) ∧ 1 ≤ t.size ∧ t.size ≤ 4096
  | .inboundPacket jamb _ => jamb < 2
  | .pldmRequest _ cals => cals.length ≤ 32
  | .ptpLost => True
  | .entropyFail => True

end Sys2Proof
end

