-- ==== Sys2Proof/Safety.lean ====
section
/-! DEFINITION. What a safe run is, in the terms the statements use: the block completes its command, its tables stand in their
canonical form, and no buffer holds more than the spec gives it. -/

namespace Sys2Proof.Machine

/-- A command completes in a state: it answers a next state. -/
def Completes (i : Instr) (s : State) : Prop := ∃ t, exec i s = .next t

/-- Every table of the state stands in its canonical form, so that equal contents are equal data. -/
structure State.Canonical (s : State) : Prop where
  mem : Memory.wf s.mem = true
  regs : Canon (fun _ => []) s.regs
  reg : ∀ r : Reg, Canon r.reset (tget [] s.regs r.code)
  gran : Canon (fun _ => Gran.init) s.gran
  flaws : Canon (fun _ => 0) s.flaws
  keys : Canon (fun _ => MemKey.init) s.keys
  served : Canon (fun _ => 0) s.served
  cores : Canon (fun _ => Core.init) s.cores
  parts : Canon (fun _ => Part.init) s.parts
  tctx : Canon (fun _ => Ctx.init) s.tctx
  sctx : Canon (fun _ => Ctx.init) s.sctx
  plans : Canon (fun _ => Plan.init) s.plans
  rings : Canon (fun _ => Ring.init) s.rings
  sram : Canon (fun _ => 0) s.sram
  unavail : Canon (fun _ => 0) s.unavail
  dma : Canon (fun _ => Chan.init) s.dma
  rs : Canon (fun _ => rsNone) s.rs
  bounce : Canon (fun _ => Bounce.init) s.bounce
  ports : Canon (fun _ => Port.init) s.ports
  panes : Canon (fun _ => PaneS.init) s.panes
  psec : Canon (fun _ => PSec.init) s.psec
  qps : Canon (fun _ => Qp.init) s.qps
  serves : Canon (fun _ => Serve.init) s.serves
  reqs : Canon (fun _ => Req.init) s.reqs
  custs : Canon (fun _ => Cust.init) s.custs
  fwin : Canon (fun _ => 0) s.fwin
  fwrun : Canon (fun _ => 0) s.fwrun

/-- A core holds no more than its buffers take: 16 stream blocks, 64 commands a queue, 128 granules of the store buffer and
8 peephole records. -/
structure Core.Fits (k : Core) : Prop where
  blocks : k.blocks.length ≤ 16
  load : k.load.length ≤ 64
  matrix : k.matrix.length ≤ 64
  vector : k.vector.length ≤ 64
  store : k.store.length ≤ 64
  send : k.send.length ≤ 64
  sb : k.sb.length ≤ 128
  peep : k.peep.length ≤ 8

/-- No buffer of the package holds more than the spec gives it: the cores' buffers, 64 characters of the UART each way and 32 SPDM
sessions. -/
structure State.Fits (s : State) : Prop where
  cores : ∀ n, (s.core n).Fits
  uart : s.uartRx.length ≤ 64
  uartTx : s.uartTx.length ≤ 64
  sessions : s.sessions.length ≤ 32

/-! ## Frames -/

/-- Bit `b` of register `i` of a name belongs to one of the listed fields. -/
def inFields (l : List (Fld × Nat)) (r : Reg) (i b : Nat) : Bool :=
  l.any (fun p => p.1.reg == r && p.2 == i && decide (p.1.lo ≤ b) && decide (b < p.1.lo + p.1.w))

/-- Every bit of every register outside the listed fields is unchanged. -/
def State.RegsBut (s t : State) (l : List (Fld × Nat)) : Prop :=
  ∀ r i b, inFields l r i b = false → bitAt (t.rdReg r i) b = bitAt (s.rdReg r i) b

/-- Nothing but registers changed, and of them only the listed fields. -/
def State.Only (s t : State) (l : List (Fld × Nat)) : Prop := t = { s with regs := t.regs } ∧ s.RegsBut t l

/-- Every byte of local memory outside `n` bytes from `a` is unchanged. -/
def State.BytesBut (s t : State) (a n : Nat) : Prop := ∀ b, (b < a ∨ a + n ≤ b) → t.byte b = s.byte b

/-- The byte range of `n` bytes from `b` does not hold `a`. -/
def outside (a b n : Nat) : Prop := a < b ∨ b + n ≤ a

/-- `m` bytes from `a` and `n` bytes from `b` have none in common. -/
def apart (a m b n : Nat) : Prop := a + m ≤ b ∨ b + n ≤ a

/-- The address of element `x` of a VECTOR operand of format `f`: index in its row, and row. -/
def elemAddr (core f : Nat) (d : Desc) (x : Nat × (Nat × Nat × Nat)) : Nat :=
  spadAddr core ((d.row d.base x.2).toNat + x.1 * vecBytes f)

/-! ## Conditions under which a command has its own effect -/

/-- The head command of an engine starts now and runs: it is the named operation, it may start, its predicate does not skip
it, and its operands pass the checks of R434. -/
def State.Starts (s : State) (core eng : Nat) (op : Op) (e : QEntry) : Prop :=
  s.startableOp core eng op = some e ∧ (s.core core).skips e.cmd = false ∧ operandCheck (s.checkEnv core e.cmd) op e.cmd = 0

/-- The held command of the dispatcher is handled now and runs. -/
def State.Handles (s : State) (core : Nat) (op : Op) (c : Cmd) : Prop :=
  s.heldOp core op = some c ∧ (s.core core).skips c = false ∧ operandCheck (s.checkEnv core c) op c = 0

/-- What a teardown of partition `p` leaves (R348, stages 2 to 5): the partition is FREE, with no key, session, ring, request, lock or
step state; its cores hold nothing, their latches are 0, and they and its memory blocks are nobody's. -/
structure State.TornDown (s t : State) (p : Nat) : Prop where
  free : t.getF F.SEC_PCTL_STATE p = 0
  key : t.key p = MemKey.init
  part : t.part p = Part.init
  psec : t.psecOf p = PSec.init
  serve : t.serve p = Serve.init
  cores : ∀ n ∈ s.coresOf p, t.core n = Core.init ∧ (∀ l < 48, t.latch n l = 0) ∧ t.getF F.CORE_ID_PARTITION n = 0
  rings : ∀ k, (t.ring k).fn ≠ p + 1
  sessions : ∀ x ∈ t.sessions, x.who ≠ p + 1
  requests : ∀ i < s.getF F.RQT_PART_ENT_COUNT p, t.req (s.getF F.RQT_PART_ENT_BASE p + i) = Req.init
  contexts : ∀ c < 8, s.getF F.LATCH_TCTX_OWNER c = p → t.tctxOf c = Ctx.init ∧ t.flag F.LATCH_TCTX_EN c = false
  blocks : t.flag F.MEM_PHBM_EN p = false ∧ t.flag F.MEM_PCEL_EN p = false
  lock : t.locked 5 p = false

/-- Ranuat takes a control message and lets operation `op` act (R367, R368). -/
def State.Admits (s : State) (op : Nat) (h : Ctl) (fns : Fns) (tenant vestibule : Bool) : Prop :=
  h.fn ≤ 16 ∧ s.flag F.CTL_STATUS_READY 0 = true ∧ (s.takeEntry h).controlStop op h fns tenant vestibule = 0

end Sys2Proof.Machine
end

