-- ==== Sys2Proof/Certificates/Slice0/Obligations.lean ====
section
/-! DEFINITION. What is stated of the model, for the provers: the command queue and the whole block, then every family of commands. -/

open Sys2Proof Sys2Proof.Machine

/-! ## The queue of commands and the whole block -/

/-- A step takes the command at the front of the queue and answers what exec answers on the state with the rest of the queue, and
a step that answers a next state leaves exactly the rest of the queue (log entries 1 and 8). -/
def Obligations.QueueIsFifo : Prop :=
  (∀ (s : State) (c : Instr) (rest : List Instr), s.pending = c :: rest → step s = exec c { s with pending := rest }) ∧
  ∀ s t : State, step s = .next t → t.pending = s.pending.tail

/-- On an empty queue one tick of 500 MHz passes (the model's own choice, log entry 3): the fraction takes 2 × (1 + RATE) ns in
units of 2^-32 ns, whole nanoseconds go to TIME_NOW, and, where no port request waits, no hold or reset is due and no offset is slewed
away, nothing else changes. While a partition is in a step and the offset of a wake is still owed, RATE stands at 200 ppm against that
offset, the tick takes what that rate adds beyond the rate kept for later, and the rest of the offset is owed; once it is gone or no
step runs, RATE takes the kept rate again (log entry 72). A hold of the ports and a reset of the package come one tick nearer, and the
tick that brings one to its time does it: a hold leaves no port state, a reset holds the package with no core, no key and
every partition FREE. (From R215, R223, R263 and R418, in part.) -/
def Obligations.IdleStepTicks : Prop :=
  (∀ s : State, s.pending = [] → s.lockQ = [] → s.boot.holdIn = none → s.boot.resetIn = none → s.time.slew = none →
    s.time.adj = 0 ∨ s.idleSteps = true → ∃ t, step s = .next t ∧
    (let acc := s.time.frac + (2 * (1000000000 + s.ratePpb) * 2 ^ 32 / 1000000000).toNat
     t.now = (s.now + acc / 2 ^ 32) % 2 ^ 64 ∧ t.time = { s.time with frac := acc % 2 ^ 32 }) ∧
    t = { s with regs := t.regs, time := t.time } ∧ s.RegsBut t [(F.TIME_NOW_NS, 0)]) ∧
  (∀ s : State, s.pending = [] → s.lockQ = [] → s.boot.holdIn = none → s.boot.resetIn = none → s.time.adj ≠ 0 → s.idleSteps = false →
    ∃ t, step s = .next t ∧
    (let rate : Int := if 0 < s.time.adj then -200000 else 200000
     let r := s.time.slew.getD s.ratePpb
     let d : Int := (tickOf rate : Int) - tickOf r
     t.getF F.TIME_RATE_PPB 0 = unsigned 32 rate ∧ t.time.slew = some r ∧
     t.time.adj = (if s.time.adj.natAbs ≤ d.natAbs then 0 else s.time.adj + d) ∧
     t.now = (s.now + (s.time.frac + tickOf rate) / 2 ^ 32) % 2 ^ 64 ∧ t.time.frac = (s.time.frac + tickOf rate) % 2 ^ 32) ∧
    t = { s with regs := t.regs, time := t.time } ∧ s.RegsBut t [(F.TIME_NOW_NS, 0), (F.TIME_RATE_PPB, 0)]) ∧
  (∀ (s : State) (r : Int), s.pending = [] → s.lockQ = [] → s.boot.holdIn = none → s.boot.resetIn = none → s.time.slew = some r →
    -200000 ≤ r ∧ r ≤ 200000 → s.time.adj = 0 ∨ s.idleSteps = true → ∃ t, step s = .next t ∧
    t.getF F.TIME_RATE_PPB 0 = unsigned 32 r ∧ t.time = { s.time with slew := none, frac := (s.time.frac + tickOf r) % 2 ^ 32 } ∧
    t.now = (s.now + (s.time.frac + tickOf r) / 2 ^ 32) % 2 ^ 64 ∧
    t = { s with regs := t.regs, time := t.time } ∧ s.RegsBut t [(F.TIME_NOW_NS, 0), (F.TIME_RATE_PPB, 0)]) ∧
  (∀ (s : State) (n : Nat), s.pending = [] → s.lockQ = [] → s.boot.resetIn = none → s.boot.holdIn = some n → ∃ t, step s = .next t ∧
    (n ≤ 1 → t.boot.holdIn = none ∧ t.ports = [] ∧ t.rq = [] ∧ (∀ q < 36, t.pstate q = if s.getF F.PORT_CFG_CLASS q = 0 then 0 else 1)) ∧
    (1 < n → t.boot = { s.boot with holdIn := some (n - 1) } ∧ t.ports = s.ports)) ∧
  (∀ (s : State) (n : Nat), s.pending = [] → s.boot.resetIn = some n → n ≤ 1 → ∃ t, step s = .next t ∧
    t.boot.held = true ∧ t.boot.resetIn = none ∧ t.cores = [] ∧ t.keys = [] ∧ t.parts = [] ∧ t.plans = [] ∧ t.dma = [] ∧ t.ports = [] ∧
    ∀ p < 16, t.getF F.SEC_PCTL_STATE p = 0) ∧
  (∀ (s : State) (n : Nat), s.pending = [] → s.lockQ = [] → s.boot.holdIn = none → s.boot.resetIn = some n → 1 < n →
    ∃ t, step s = .next t ∧ t.boot = { s.boot with resetIn := some (n - 1) })

/-- The state after reset has an empty queue, canonical tables and buffers within their capacity, and every register reads its
reset value. -/
def Obligations.ResetIsSound : Prop :=
  State.reset.pending = [] ∧ State.reset.Canonical ∧ State.reset.Fits ∧
  ∀ (r : Reg) (i : Nat), State.reset.rdReg r i = (r.reset i).toNat

/-- Every step that answers a next state keeps every table in its canonical form and every buffer within its capacity. -/
def Obligations.StepKeepsForm : Prop :=
  ∀ s t : State, s.Canonical ∧ s.Fits → step s = .next t → t.Canonical ∧ t.Fits

/-- A command whose operands name units that the package has answers a next state in every state; one that names a unit the
package does not have stops under that name. The clauses after the first say the same of each command by its name, with the
condition on its operands written out. -/
def Obligations.CompletesIfWellFormed : Prop :=
  (∀ (i : Instr) (s : State), (i.wf → ∃ t, exec i s = .next t) ∧ (¬ i.wf → exec i s = .fault .noSuchUnit)) ∧
  (∀ (s : State) (core eng : Nat), unitOk core eng → ∃ t, exec (.nop core eng) s = .next t) ∧
  (∀ (s : State) (core : Nat), unitOk core 0 → ∃ t, exec (.ldCopy core) s = .next t) ∧
  (∀ (s : State) (core : Nat), unitOk core 0 → ∃ t, exec (.ldPgather core) s = .next t) ∧
  (∀ (s : State) (core : Nat), unitOk core 3 → ∃ t, exec (.stCopy core) s = .next t) ∧
  (∀ (s : State) (core : Nat), unitOk core 4 → ∃ t, exec (.sdData core) s = .next t) ∧
  (∀ (s : State) (core : Nat), unitOk core 4 → ∃ t, exec (.sdLatch core) s = .next t) ∧
  (∀ (s : State) (core : Nat), unitOk core 4 → ∃ t, exec (.sdArrive core) s = .next t) ∧
  (∀ (s : State) (core : Nat), unitOk core 5 → ∃ t, exec (.beatEnd core) s = .next t) ∧
  (∀ (s : State) (core : Nat), unitOk core 5 → ∃ t, exec (.stepEnd core) s = .next t) ∧
  (∀ (s : State) (core : Nat), unitOk core 5 → ∃ t, exec (.latchReset core) s = .next t) ∧
  (∀ (s : State) (core : Nat), unitOk core 5 → ∃ t, exec (.peepEmit core) s = .next t) ∧
  (∀ (s : State) (core : Nat), unitOk core 1 → ∃ t, exec (.mmWload core) s = .next t) ∧
  (∀ (s : State) (core : Nat), unitOk core 1 → ∃ t, exec (.mmStream core) s = .next t) ∧
  (∀ (s : State) (core : Nat), unitOk core 1 → ∃ t, exec (.mmDrain core) s = .next t) ∧
  (∀ (s : State) (core : Nat), unitOk core 2 → ∃ t, exec (.veBinary core) s = .next t) ∧
  (∀ (s : State) (core : Nat), unitOk core 2 → ∃ t, exec (.veUnary core) s = .next t) ∧
  (∀ (s : State) (core : Nat), unitOk core 2 → ∃ t, exec (.veRreduce core) s = .next t) ∧
  (∀ (s : State) (core : Nat), unitOk core 2 → ∃ t, exec (.veOreduce core) s = .next t) ∧
  (∀ (s : State) (core : Nat), unitOk core 2 → ∃ t, exec (.veCmp core) s = .next t) ∧
  (∀ (s : State) (core : Nat), unitOk core 2 → ∃ t, exec (.veTopk core) s = .next t) ∧
  (∀ (s : State) (core : Nat), unitOk core 2 → ∃ t, exec (.veTranspose core) s = .next t) ∧
  (∀ (s : State) (core : Nat), unitOk core 5 → ∃ t, exec (.dispatchCommand core) s = .next t) ∧
  (∀ (s : State) (core : Nat) (sym : Syms), unitOk core 5 → ∃ t, exec (.streamBlockFetch core sym) s = .next t) ∧
  (∀ (s : State) (core eng lost : Nat), unitOk core eng ∧ eng ≠ 5 → ∃ t, exec (.commandComplete core eng lost) s = .next t) ∧
  (∀ (s : State) (core seq piece : Nat) (sym : Syms), unitOk core 0 → ∃ t, exec (.loadPieceArrive core seq piece sym) s = .next t) ∧
  (∀ (s : State) (core seq : Nat), unitOk core 3 → ∃ t, exec (.storeAck core seq) s = .next t) ∧
  (∀ (s : State) (core : Nat), unitOk core 3 → ∃ t, exec (.granuleTaken core) s = .next t) ∧
  (∀ (s : State) (p refWait : Nat) (losses : List (Nat × Nat)), p < 16 → ∃ t, exec (.beatOpen p refWait losses) s = .next t) ∧
  (∀ (s : State) (p : Nat), p < 16 → ∃ t, exec (.holdTimeout p) s = .next t) ∧
  (∀ (s : State) (p refWait : Nat) (losses : List (Nat × Nat)), p < 16 → ∃ t, exec (.stepComplete p refWait losses) s = .next t) ∧
  (∀ (s : State) (core : Nat), unitOk core 3 → ∃ t, exec (.storeDrainLost core) s = .next t) ∧
  (∀ (s : State) (losses : List (Nat × Nat)), ∃ t, exec (.dataArrive losses) s = .next t) ∧
  (∀ (s : State), ∃ t, exec .latchWriteArrive s = .next t) ∧
  (∀ (s : State), ∃ t, exec .thresholdArrive s = .next t) ∧
  (∀ (s : State), ∃ t, exec .arriveToken s = .next t) ∧
  (∀ (s : State), ∃ t, exec .completeToken s = .next t) ∧
  (∀ (s : State) (p : Nat) (sym : Syms) (areas : List Nat) (cals : List (Nat × Nat × Cal × Cal)), p < 16 →
    ∃ t, exec (.startArrive p sym areas cals) s = .next t) ∧
  (∀ (s : State) (p : Nat), p < 16 → ∃ t, exec (.stepStart p) s = .next t) ∧
  (∀ (s : State) (h : Ctl) (g : Image) (x : Placing), h.fn ≤ 16 → ∃ t, exec (.loadPlan h g x) s = .next t) ∧
  (∀ (s : State) (h : Ctl), h.fn ≤ 16 → ∃ t, exec (.unloadPlan h) s = .next t) ∧
  (∀ (s : State) (h : Ctl) (areas : List Nat) (sym : Syms), h.fn ≤ 16 → ∃ t, exec (.step h areas sym) s = .next t) ∧
  (∀ (s : State) (h : Ctl), h.fn ≤ 16 → ∃ t, exec (.partitionInfo h) s = .next t) ∧
  (∀ (s : State) (h : Ctl) (id mask : Nat) (on : Bool), h.fn ≤ 16 → ∃ t, exec (.peepEnable h id mask on) s = .next t) ∧
  (∀ (s : State) (h : Ctl) (xs : List RingSpec), h.fn ≤ 16 → ∃ t, exec (.ringSetup h xs) s = .next t) ∧
  (∀ (s : State) (h : Ctl) (part : Nat) (on : Bool), h.fn ≤ 16 → ∃ t, exec (.pin h part on) s = .next t) ∧
  (∀ (s : State) (h : Ctl), h.fn ≤ 16 → ∃ t, exec (.logFlush h) s = .next t) ∧
  (∀ (s : State) (h : Ctl) (sigOk good : Bool), h.fn ≤ 16 → ∃ t, exec (.fwUpdate h sigOk good) s = .next t) ∧
  (∀ (s : State), ∃ t, exec .updateDrainTimeout s = .next t) ∧
  (∀ (s : State), ∃ t, exec .handoverTimeout s = .next t) ∧
  (∀ (s : State) (g : Nat) (wr : Bool) (off : Nat) (data : List Byte) (sym : Nat), g < 2 ^ 42 ∧ off + data.length ≤ 64 →
    ∃ t, exec (.memAccess g wr off data sym) s = .next t) ∧
  (∀ (s : State) (h : Nat), h < 256 → ∃ t, exec (.hbmRefresh h) s = .next t) ∧
  (∀ (s : State) (c : Nat), c < 16 → ∃ t, exec (.cellarRefresh c) s = .next t) ∧
  (∀ (s : State) (sym : Nat), ∃ t, exec (.patrolScrub sym) s = .next t) ∧
  (∀ (s : State), ∃ t, exec .skewWindow s = .next t) ∧
  (∀ (s : State) (stack temp : Nat), stack < 8 ∧ temp < 256 → ∃ t, exec (.hbmTempReport stack temp) s = .next t) ∧
  (∀ (s : State) (p : Nat) (v : Word64), p < 16 → ∃ t, exec (.memPhbmWrite p v) s = .next t) ∧
  (∀ (s : State) (p : Nat) (v : Word64), p < 16 → ∃ t, exec (.memPcelWrite p v) s = .next t) ∧
  (∀ (s : State) (sym : Syms), ∃ t, exec (.memRequest sym) s = .next t) ∧
  (∀ (s : State), ∃ t, exec .memResponse s = .next t) ∧
  (∀ (s : State) (jamb c : Nat) (v : Word64), jamb < 2 ∧ c < 32 → ∃ t, exec (.dmaDoorbell jamb c v) s = .next t) ∧
  (∀ (s : State) (jamb c : Nat) (sym : Syms), jamb < 2 ∧ c < 32 → ∃ t, exec (.descriptorFetch jamb c sym) s = .next t) ∧
  (∀ (s : State) (jamb c j : Nat) (sym : Syms) (host : HostData), jamb < 2 ∧ c < 32 →
    ∃ t, exec (.dmaPiece jamb c j sym host) s = .next t) ∧
  (∀ (s : State) (jamb c : Nat) (sym : Syms) (hostOk : Bool), jamb < 2 ∧ c < 32 →
    ∃ t, exec (.descriptorComplete jamb c sym hostOk) s = .next t) ∧
  (∀ (s : State) (jamb c j : Nat), jamb < 2 ∧ c < 32 → ∃ t, exec (.dmaTimeout jamb c j) s = .next t) ∧
  (∀ (s : State) (jamb c : Nat) (v : Word64), jamb < 2 ∧ c < 32 → ∃ t, exec (.dmaStop jamb c v) s = .next t) ∧
  (∀ (s : State) (jamb c : Nat) (v : Word64), jamb < 2 ∧ c < 32 → ∃ t, exec (.dmaResume jamb c v) s = .next t) ∧
  (∀ (s : State) (q : Nat) (v : Word64), q < 32 → ∃ t, exec (.paneFreqRequest q v) s = .next t) ∧
  (∀ (s : State) (q : Nat), q < 32 → ∃ t, exec (.paneFreqChange q) s = .next t) ∧
  (∀ (s : State) (kind i : Nat) (inbound : Bool), i < crossings kind ∧ hasHalf kind i inbound = true →
    ∃ t, exec (.crossingDrift kind i inbound) s = .next t) ∧
  (∀ (s : State), ∃ t, exec .refclkLoss s = .next t) ∧
  (∀ (s : State) (v : Word64), ∃ t, exec (.timeStep v) s = .next t) ∧
  (∀ (s : State) (q : Nat), q < 36 → ∃ t, exec (.beaconSyncSend q) s = .next t) ∧
  (∀ (s : State) (q : Nat), q < 36 → ∃ t, exec (.sync q) s = .next t) ∧
  (∀ (s : State) (q : Nat), q < 36 → ∃ t, exec (.delayReq q) s = .next t) ∧
  (∀ (s : State) (q : Nat), q < 36 → ∃ t, exec (.delayResp q) s = .next t) ∧
  (∀ (s : State), ∃ t, exec .beaconExchangeFail s = .next t) ∧
  (∀ (s : State), ∃ t, exec .timebaseStep s = .next t) ∧
  (∀ (s : State) (m : PtpMsg), ∃ t, exec (.ptpMessage m) s = .next t) ∧
  (∀ (s : State) (q : Nat) (v : Word64), q < 36 → ∃ t, exec (.retrain q v) s = .next t) ∧
  (∀ (s : State) (q : Nat) (v : Word64), q < 36 → ∃ t, exec (.sleep q v) s = .next t) ∧
  (∀ (s : State) (q : Nat) (v : Word64), q < 36 → ∃ t, exec (.wake q v) s = .next t) ∧
  (∀ (s : State) (q : Nat) (v : Word64), q < 36 → ∃ t, exec (.off q v) s = .next t) ∧
  (∀ (s : State) (q silence : Nat) (powered : Bool), q < 36 → ∃ t, exec (.partnerSignal q silence powered) s = .next t) ∧
  (∀ (s : State) (q : Nat) (l : Lanes), q < 36 → ∃ t, exec (.equalise q l) s = .next t) ∧
  (∀ (s : State) (q : Nat) (cin cout : Cal), q < 36 → ∃ t, exec (.alignDone q cin cout) s = .next t) ∧
  (∀ (s : State) (q : Nat), q < 36 → ∃ t, exec (.trainingStageTimeout q) s = .next t) ∧
  (∀ (s : State) (q seq ack : Nat) (b : List Byte), q < 36 ∧ seq < 2 ^ 24 ∧ ack < 2 ^ 24 →
    ∃ t, exec (.trainingFrame q seq ack b) s = .next t) ∧
  (∀ (s : State) (q lost : Nat) (hits : Tbl Nat), q < 36 → ∃ t, exec (.laneFail q lost hits) s = .next t) ∧
  (∀ (s : State) (q : Nat), q < 36 → ∃ t, exec (.sleepTimeout q) s = .next t) ∧
  (∀ (s : State) (q : Nat), q < 36 → ∃ t, exec (.partnerWake q) s = .next t) ∧
  (∀ (s : State) (q : Nat) (ok : Bool), q < 36 → ∃ t, exec (.relock q ok) s = .next t) ∧
  (∀ (s : State) (q corr uncorr : Nat) (bad : Bool) (phase : Nat) (f : Flit), q < 36 →
    ∃ t, exec (.flitReceive q corr uncorr bad phase f) s = .next t) ∧
  (∀ (s : State) (q : Nat) (body : List Byte), q < 36 → ∃ t, exec (.goingAway q body) s = .next t) ∧
  (∀ (s : State) (q : Nat), q < 36 → ∃ t, exec (.ackTimeout q) s = .next t) ∧
  (∀ (s : State) (q : Nat), q < 36 → ∃ t, exec (.nakTimeout q) s = .next t) ∧
  (∀ (s : State) (q : Nat), q < 36 → ∃ t, exec (.bsfSend q) s = .next t) ∧
  (∀ (s : State) (q : Nat), q < 36 → ∃ t, exec (.creditTimeout q) s = .next t) ∧
  (∀ (s : State) (q : Nat), q < 36 → ∃ t, exec (.holdTimeExpiry q) s = .next t) ∧
  (∀ (s : State) (p : Nat), p < 16 → ∃ t, exec (.linkLost p) s = .next t) ∧
  (∀ (s : State) (ties : Nat), ∃ t, exec (.routeLookup ties) s = .next t) ∧
  (∀ (s : State) (mbr : Bool) (i : Nat) (v : Word64), i < (if mbr then 128 else 4096) → ∃ t, exec (.rteEntryWrite mbr i v) s = .next t) ∧
  (∀ (s : State) (t' w : Nat) (v : Word64), t' < 4096 ∧ w < 6 → ∃ t, exec (.fanEntryWrite t' w v) s = .next t) ∧
  (∀ (s : State) (p : Nat) (v : Word64), p < 16 → ∃ t, exec (.rtePsetWrite p v) s = .next t) ∧
  (∀ (s : State) (p : Nat) (sym : Syms), p < 16 → ∃ t, exec (.inputDigest p sym) s = .next t) ∧
  (∀ (s : State) (h : Ctl) (sym : Syms), h.fn ≤ 16 → ∃ t, exec (.weightLoad h sym) s = .next t) ∧
  (∀ (s : State) (h : Ctl) (id rank len expect : Nat) (e : List Byte), h.fn ≤ 16 →
    ∃ t, exec (.adapterLoad h id rank len expect e) s = .next t) ∧
  (∀ (s : State) (h : Ctl) (jamb qp : Nat) (ok : Bool), h.fn ≤ 16 → ∃ t, exec (.qpConnect h jamb qp ok) s = .next t) ∧
  (∀ (s : State) (jamb qp : Nat) (ecn : Bool) (data : List Byte) (sym : Syms), jamb < 2 →
    ∃ t, exec (.rdmaReadResponse jamb qp ecn data sym) s = .next t) ∧
  (∀ (s : State) (jamb qp : Nat), jamb < 2 ∧ qp < 256 → ∃ t, exec (.rdmaRetryExhausted jamb qp) s = .next t) ∧
  (∀ (s : State) (k r : Nat) (sym : Syms), ∃ t, exec (.chainPoll k r sym) s = .next t) ∧
  (∀ (s : State) (k r : Nat) (sym : Syms), ∃ t, exec (.chainWordWrite k r sym) s = .next t) ∧
  (∀ (s : State) (k r : Nat), ∃ t, exec (.chainBreak k r) s = .next t) ∧
  (∀ (s : State) (k r : Nat), ∃ t, exec (.succLost k r) s = .next t) ∧
  (∀ (s : State) (k r : Nat), ∃ t, exec (.chainRepairTimeout k r) s = .next t) ∧
  (∀ (s : State) (h : Ctl), h.fn ≤ 16 → ∃ t, exec (.serveConfig h) s = .next t) ∧
  (∀ (s : State) (h : Ctl), h.fn ≤ 16 → ∃ t, exec (.samplerConfig h) s = .next t) ∧
  (∀ (s : State) (h : Ctl) (id : Nat), h.fn ≤ 16 → ∃ t, exec (.customerSet h id) s = .next t) ∧
  (∀ (s : State) (h : Ctl), h.fn ≤ 16 → ∃ t, exec (.prioSet h) s = .next t) ∧
  (∀ (s : State) (h : Ctl) (tag : Nat), h.fn ≤ 16 → ∃ t, exec (.reqQuery h tag) s = .next t) ∧
  (∀ (s : State) (k : Nat), ∃ t, exec (.submit k) s = .next t) ∧
  (∀ (s : State) (k : Nat), ∃ t, exec (.cancel k) s = .next t) ∧
  (∀ (s : State) (p : Nat) (redo : Bool) (areas : List Nat), p < 16 → ∃ t, exec (.servingBoundary p redo areas) s = .next t) ∧
  (∀ (s : State) (p ent : Nat), p < 16 → ∃ t, exec (.spill p ent) s = .next t) ∧
  (∀ (s : State) (p lane : Nat) (sym : Syms), p < 16 → ∃ t, exec (.sampleRow p lane sym) s = .next t) ∧
  (∀ (s : State) (h : Ctl) (p : Nat) (o : Owners), h.fn ≤ 16 → ∃ t, exec (.partCreate h p o) s = .next t) ∧
  (∀ (s : State) (p : Nat), p < 16 → ∃ t, exec (.create p) s = .next t) ∧
  (∀ (s : State) (h : Ctl) (p : Nat), h.fn ≤ 16 → ∃ t, exec (.partTeardown h p) s = .next t) ∧
  (∀ (s : State) (p : Nat), p < 16 → ∃ t, exec (.teardown p) s = .next t) ∧
  (∀ (s : State) (who p digest : Nat), p < 16 ∧ who ≤ 17 → ∃ t, exec (.setPlanKey who p digest) s = .next t) ∧
  (∀ (s : State) (p mode : Nat), p < 16 → ∃ t, exec (.setHostMode p mode) s = .next t) ∧
  (∀ (s : State) (p : Nat), p < 16 → ∃ t, exec (.ideKm p) s = .next t) ∧
  (∀ (s : State) (who : Nat), who ≤ 17 → ∃ t, exec (.getVersion who) s = .next t) ∧
  (∀ (s : State) (who : Nat), who ≤ 17 → ∃ t, exec (.getCapabilities who) s = .next t) ∧
  (∀ (s : State) (who offer : Nat), who ≤ 17 → ∃ t, exec (.negotiateAlgorithms who offer) s = .next t) ∧
  (∀ (s : State) (who : Nat), who ≤ 17 → ∃ t, exec (.getDigests who) s = .next t) ∧
  (∀ (s : State) (who n : Nat), who ≤ 17 → ∃ t, exec (.getCertificate who n) s = .next t) ∧
  (∀ (s : State) (who : Nat), who ≤ 17 → ∃ t, exec (.challenge who) s = .next t) ∧
  (∀ (s : State) (who sess index nonce : Nat), who ≤ 17 → ∃ t, exec (.getMeasurements who sess index nonce) s = .next t) ∧
  (∀ (s : State) (who : Nat), who ≤ 17 → ∃ t, exec (.keyExchange who) s = .next t) ∧
  (∀ (s : State) (who id : Nat) (ok : Bool), who ≤ 17 → ∃ t, exec (.finish who id ok) s = .next t) ∧
  (∀ (s : State) (who id : Nat), who ≤ 17 → ∃ t, exec (.keyUpdate who id) s = .next t) ∧
  (∀ (s : State) (who id : Nat), who ≤ 17 → ∃ t, exec (.heartbeat who id) s = .next t) ∧
  (∀ (s : State) (who id : Nat), who ≤ 17 → ∃ t, exec (.endSession who id) s = .next t) ∧
  (∀ (s : State), ∃ t, exec .debugNonce s = .next t) ∧
  (∀ (s : State) (nonce level : Nat) (g : DebugSig), ∃ t, exec (.debugUnlock nonce level g) s = .next t) ∧
  (∀ (s : State) (cause sensor : Nat), 1 ≤ cause ∧ cause ≤ 4 ∧ sensor < 256 → ∃ t, exec (.tamperAlarm cause sensor) s = .next t) ∧
  (∀ (s : State) (v : Word64) (trip : Bool), ∃ t, exec (.tamperClear v trip) s = .next t) ∧
  (∀ (s : State) (fn : Nat) (v : Word64) (at' : Nat) (recs : List HostData), fn ≤ 16 →
    ∃ t, exec (.ctlDoorbell fn v at' recs) s = .next t) ∧
  (∀ (s : State) (v : Word64) (sigOk : Bool), ∃ t, exec (.fwload v sigOk) s = .next t) ∧
  (∀ (s : State) (avg : Nat) (ps : List Nat) (rails : List (Nat × Nat)), avg < 2 ^ 32 ∧ ps.all (fun p => decide (p < 16)) →
    ∃ t, exec (.powerLoop avg ps rails) s = .next t) ∧
  (∀ (s : State) (dies hbm : List Nat) (ps : List Nat), dies.length = 4 ∧ hbm.length = 8 ∧ ps.all (fun p => decide (p < 16)) →
    ∃ t, exec (.thermalLoop dies hbm ps) s = .next t) ∧
  (∀ (s : State) (core : Nat), core < 256 ∨ core = 0xFFFF → ∃ t, exec (.peepholeDeliver core) s = .next t) ∧
  (∀ (s : State), ∃ t, exec .logCopy s = .next t) ∧
  (∀ (s : State), ∃ t, exec .mgmtPacket s = .next t) ∧
  (∀ (s : State) (v : BitVec 160), ∃ t, exec (.uartRxChar v) s = .next t) ∧
  (∀ (s : State) (x : StartIn), ∃ t, exec (.reset x) s = .next t) ∧
  (∀ (s : State), ∃ t, exec .ranuatTimeout s = .next t) ∧
  (∀ (s : State), ∃ t, exec .resetAssert s = .next t) ∧
  (∀ (s : State), ∃ t, exec .pwrfail s = .next t) ∧
  (∀ (s : State), ∃ t, exec .abortReceive s = .next t) ∧
  (∀ (s : State) (p : Nat) (replay : Bool), p < 16 → ∃ t, exec (.quietEnd p replay) s = .next t) ∧
  (∀ (s : State) (p : Nat), p < 16 → ∃ t, exec (.stepReplay p) s = .next t) ∧
  (∀ (s : State) (ok : Bool), ∃ t, exec (.lockstepTest ok) s = .next t) ∧
  (∀ (s : State) (parity : Bool), ∃ t, exec (.lockstepMismatch parity) s = .next t) ∧
  (∀ (s : State), ∃ t, exec .controlComplexReset s = .next t) ∧
  (∀ (s : State) (jamb p : Nat) (v : Word64), jamb < 2 ∧ p < 16 → ∃ t, exec (.rsDoorbell jamb p v) s = .next t) ∧
  (∀ (s : State) (jamb p : Nat) (sym : Syms), jamb < 2 ∧ p < 16 → ∃ t, exec (.encode jamb p sym) s = .next t) ∧
  (∀ (s : State) (jamb p : Nat) (sym : Syms), jamb < 2 ∧ p < 16 → ∃ t, exec (.rebuild jamb p sym) s = .next t) ∧
  (∀ (s : State) (jamb p : Nat), jamb < 2 ∧ p < 16 → ∃ t, exec (.rsJobComplete jamb p) s = .next t) ∧
  (∀ (s : State) (q : Nat), q < 32 → ∃ t, exec (.droop q) s = .next t) ∧
  (∀ (s : State) (leaf : Nat), leaf < 2 → ∃ t, exec (.overcurrent leaf) s = .next t) ∧
  (∀ (s : State), ∃ t, exec .thermal s = .next t) ∧
  (∀ (s : State) (low : Bool), ∃ t, exec (.prochot low) s = .next t) ∧
  (∀ (s : State) (q : Nat), q < 32 → ∃ t, exec (.emergClear q) s = .next t) ∧
  (∀ (s : State), ∃ t, exec .thermalTrip s = .next t) ∧
  (∀ (s : State) (idle : Nat) (drained : Bool), ∃ t, exec (.standbyEntry idle drained) s = .next t) ∧
  (∀ (s : State) (drained : Bool), ∃ t, exec (.sleepEntry drained) s = .next t) ∧
  (∀ (s : State) (d0 : Bool) (cals : List (Cal × Cal)), cals.length ≤ 32 → ∃ t, exec (.runReturn d0 cals) s = .next t) ∧
  (∀ (s : State) (k mv da : Nat), k < 13 ∧ mv < 65536 ∧ da < 65536 → ∃ t, exec (.railOut5 k mv da) s = .next t) ∧
  (∀ (s : State) (k : Nat), k < 13 → ∃ t, exec (.railUndervolt k) s = .next t) ∧
  (∀ (s : State) (a : Nat) (v : Word64) (ok : Bool), (regAt a).isSome → ∃ t, exec (.registerWrite a v ok) s = .next t) ∧
  (∀ (s : State) (q ns : Nat) (cin cout : Cal), q < 32 → ∃ t, exec (.paneRestart q ns cin cout) s = .next t) ∧
  (∀ (s : State) (q : Nat), q < 36 → ∃ t, exec (.degradeRealign q) s = .next t) ∧
  (∀ (s : State) (q phase : Nat), q < 36 → ∃ t, exec (.flitSlot q phase) s = .next t) ∧
  (∀ (s : State) (t' : Tlp) (at' : Nat) (recs : List HostData) (sigOk : Bool) (sym : Syms), t'.fn ≤ 16 ∧ (t'.bar = 0 ∨ t'.bar = 2 ∨
    t'.bar = 4) ∧ 1 ≤ t'.size ∧ t'.size ≤ 4096 →
    ∃ t, exec (.inboundTlp t' at' recs sigOk sym) s = .next t) ∧
  (∀ (s : State) (jamb kind : Nat), jamb < 2 → ∃ t, exec (.inboundPacket jamb kind) s = .next t) ∧
  (∀ (s : State) (r : MgmtReq) (cals : List (Cal × Cal)), cals.length ≤ 32 → ∃ t, exec (.pldmRequest r cals) s = .next t) ∧
  (∀ (s : State), ∃ t, exec .ptpLost s = .next t) ∧
  (∀ (s : State), ∃ t, exec .entropyFail s = .next t)

/-! ## LOAD, STORE and SEND (R71 to R78, R110) -/

/-- An LD_COPY whose memory operand passes its run-time checks answers a next state: the command stands started, with pieces of at
most one 256-byte line of scratchpad each, which together carry every byte of every row from its place in memory to its place in
scratchpad; where the operand is another package's, one read request a piece is sent. An LD_PGATHER whose page checks pass
zero-fills the rows from TOKENS on and asks in the same way for every byte of every other row, from its page frame. An ST_COPY
whose memory operand passes places, in walk order, one granule per 64 bytes of every row, with its source, its address and whether it
is acknowledged. (From R71, R72, R110, in part.) -/
def Obligations.CopiesStart : Prop :=
  (∀ (s : State) (core : Nat) (e : QEntry), core < 256 → s.Starts core 0 .ldCopy e →
    (let eff := (s.core core).effective e.cmd (memDesc e.cmd 24).base
     let x := (memDesc e.cmd 24).extent eff (shapeOf e.cmd) (shapeOf e.cmd).d0
     s.memCheck core e.cmd eff x.1 x.2 = 0 →
     ∃ ps, exec (.ldCopy core) s =
        .next (match s.remoteSlot e.cmd with
          | none => s.putEntry core 0 { e with started := true, pieces := ps }
          | some slot => (s.putEntry core 0 { e with started := true, pieces := ps }).requestPieces core e.seq slot ps 0) ∧
      (∀ p ∈ ps, p.arrived = false ∧ p.remote = (s.remoteSlot e.cmd).isSome ∧ 0 < p.len ∧ p.dst % 256 + p.len ≤ 256) ∧
      (∀ r ∈ (shapeOf e.cmd).rows, ∀ j < (shapeOf e.cmd).d0, ∃ p ∈ ps,
        (let d := ((spadDesc e.cmd 39).row (spadDesc e.cmd 39).base r).toNat + j
         p.dst ≤ d ∧ d < p.dst + p.len ∧ p.src + (d - p.dst) = ((memDesc e.cmd 24).row eff r).toNat + j)) ∧
      (ps.map (·.len)).sum = (shapeOf e.cmd).rows.length * (shapeOf e.cmd).d0)) ∧
  (∀ (s : State) (core : Nat) (e : QEntry), core < 256 → s.Starts core 0 .ldPgather e →
    (let eff := (s.core core).effective e.cmd (memDesc e.cmd 24).base
     let sh := shapeOf e.cmd
     ¬ (mPadd e.cmd ∧ eff % 64 ≠ 0) → eff < 2 ^ 48 → (s.pageCheck core e.cmd eff).1 = 0 →
     ∃ ps, exec (.ldPgather core) s = .next ((s.zeroRows core ps).putEntry core 0 { e with started := true, pieces := ps }) ∧
      (∀ p ∈ ps, p.remote = false ∧ 0 < p.len ∧ p.dst % 256 + p.len ≤ 256) ∧
      (∀ r ∈ sh.rows, ∀ j < sh.d0, ∃ p ∈ ps,
        (let d := ((spadDesc e.cmd 39).row (spadDesc e.cmd 39).base r).toNat + j
         p.dst ≤ d ∧ d < p.dst + p.len ∧ (p.arrived = true ↔ pgTokens e.cmd ≤ r.2.1 * sh.d1 + r.1) ∧
         (p.arrived = false →
          p.src + (d - p.dst) = ((s.frame core e.cmd eff r.2.1 : Int) + r.1 * (memDesc e.cmd 24).s1).toNat + j))) ∧
      (ps.map (·.len)).sum = sh.rows.length * sh.d0)) ∧
  (∀ (s : State) (core : Nat) (e : QEntry), core < 256 → s.Starts core 3 .stCopy e →
    (let eff := (s.core core).effective e.cmd (memDesc e.cmd 24).base
     let x := (memDesc e.cmd 24).extent eff (shapeOf e.cmd) (shapeOf e.cmd).d0
     s.memCheck core e.cmd eff x.1 x.2 = 0 →
     exec (.stCopy core) s = .next ((s.putEntry core 3 { e with started := true, todo := (
      (shapeOf e.cmd).rows.flatMap (fun r => (List.range ((shapeOf e.cmd).d0 / 64)).map (fun i =>
        (⟨.store (((memDesc e.cmd 24).row eff r).toNat + 64 * i) (s.remoteSlot e.cmd) (hAck e.cmd == 1 || mBoard e.cmd),
          ((spadDesc e.cmd 39).row (spadDesc e.cmd 39).base r).toNat + 64 * i, 64⟩ : Todo)))) }).refill core)))

/-- SD_DATA places one data granule per 64 bytes of every row, in walk order, with its source and its address at the destination, and
after them one latch write per remote SIGNAL clause; SD_LATCH places the latch writes alone. SD_ARRIVE, with fewer than four of its
core's arrivals outstanding at the context, sends the arrival that its operand names. A NOP of an engine starts with nothing to do,
and a command that has started with nothing outstanding has finished (R48). A skipped SD_LATCH places the same latch writes (R64). -/
def Obligations.SendsStart : Prop :=
  (∀ (s : State) (core : Nat) (e : QEntry), core < 256 → s.Starts core 4 .sdData e →
    exec (.sdData core) s = .next ((s.putEntry core 4 { e with started := true, todo := (
      (shapeOf e.cmd).rows.flatMap (fun r => (List.range ((shapeOf e.cmd).d0 / 64)).map (fun i =>
        (⟨.data (cbytes e.cmd 50 8) (((spadDesc e.cmd 37).row (spadDesc e.cmd 37).base r).toNat + 64 * i),
          ((spadDesc e.cmd 24).row (spadDesc e.cmd 24).base r).toNat + 64 * i, 64⟩ : Todo))) ++
      (remoteSignals e.cmd).map (fun w => (⟨.latch (cbytes e.cmd 50 8) w.1 w.2, 0, 0⟩ : Todo))) }).refill core)) ∧
  (∀ (s : State) (core : Nat) (e : QEntry), core < 256 → s.Starts core 4 .sdLatch e →
    exec (.sdLatch core) s = .next ((s.putEntry core 4 { e with started := true, todo := (
      (remoteSignals e.cmd).map (fun w => (⟨.latch (cbytes e.cmd 16 8) w.1 w.2, 0, 0⟩ : Todo))) }).refill core)) ∧
  (∀ (s : State) (core : Nat) (e : QEntry), core < 256 → s.Starts core 4 .sdArrive e →
    (let w := cbytes e.cmd 16 8
     let a : Arrival := ⟨core, bitAt w 5, bitsOf w 0 5, bitsOf w 8 6, bitsOf w 16 8⟩
     s.outstanding a < 4 →
     exec (.sdArrive core) s = .next { s.putEntry core 4 { e with started := true } with arrivals := s.arrivals ++ [a] })) ∧
  (∀ (s : State) (core eng : Nat) (e : QEntry), core < 256 → eng < 5 → s.Starts core eng .nop e →
    exec (.nop core eng) s = .next (s.putEntry core eng { e with started := true })) ∧
  (∀ (k : Core) (e : QEntry), e.started = true → e.pieces = [] → e.todo = [] → e.acks = 0 → (∀ g ∈ k.sb, g.seq ≠ e.seq) →
    k.finished e = true) ∧
  (∀ (s : State) (core : Nat) (e : QEntry), core < 256 → s.startableOp core 4 .sdLatch = some e → (s.core core).skips e.cmd = true →
    exec (.sdLatch core) s = .next ((s.putEntry core 4 { e with started := true, skipped := true, todo := (
      (remoteSignals e.cmd).map (fun w => (⟨.latch (cbytes e.cmd 16 8) w.1 w.2, 0, 0⟩ : Todo))) }).refill core))

/-- The bytes of an outstanding local piece of a LOAD, on a core whose pane is not stopped, land at the piece's place in scratchpad,
but those that a later piece of the command has already written; the piece counts as arrived, and no other byte changes. A read that
memory refuses faults the command: MEM_RANGE where nothing is mapped, MEM_UNCORR otherwise. Nothing arrives at a stopped pane. (From R54,
R71, R185 and R213, in part.) -/
def Obligations.PieceLands : Prop :=
  (∀ (s u : State) (core seq i : Nat) (sym : Syms) (e : QEntry) (p : Piece) (bs : List Byte),
    core < 256 → (s.core core).pieceOf seq i = some (e, p) → p.remote = false → (s.core core).live seq = true →
    s.paneUp core = true → s.read p.src p.len sym = (u, .ok bs) →
    ∃ t, exec (.loadPieceArrive core seq i sym) s = .next t ∧
      t = { u with mem := t.mem, cores := t.cores } ∧
      t.core core = (u.core core).putEntry 0 { e with pieces := e.pieces.set i { p with arrived := true } } ∧
      (∀ n, n ≠ core → t.core n = u.core n) ∧
      (∀ j b, bs[j]? = some b →
        (∀ q ∈ e.pieces.drop (i + 1), q.arrived = true → ¬ (q.dst ≤ p.dst + j ∧ p.dst + j < q.dst + q.len)) →
        t.byte (spadAddr core (p.dst + j)) = b) ∧
      u.BytesBut t (spadAddr core p.dst) bs.length) ∧
  (∀ (s u : State) (core seq i : Nat) (sym : Syms) (e : QEntry) (p : Piece) (c : Nat),
    core < 256 → (s.core core).pieceOf seq i = some (e, p) → p.remote = false → (s.core core).live seq = true →
    s.paneUp core = true → s.read p.src p.len sym = (u, .refused c) →
    exec (.loadPieceArrive core seq i sym) s =
      .next (u.coreFault core seq 0 (if c = causeUNMAPPED then fcMEM_RANGE else fcMEM_UNCORR))) ∧
  (∀ (s : State) (core seq i : Nat) (sym : Syms), core < 256 → s.paneUp core = false →
    exec (.loadPieceArrive core seq i sym) s = .next s)

/-- While the pane runs, the pane port takes the oldest granule of the store buffer: it goes where its kind says, its sequence number
counts for LAST_SEQ when it is memory's and the core has not stopped, a stopped core counts it in DRAINED, and the freed room
takes the next granule that waits. An acknowledgement of a local store lowers by one what the command awaits. From 5 µs after an
emergency change of the pane of a core in a step (which state that is, the model chooses: log entry 68), the rest of the store buffer is
discarded, DISCARDED counts it, the core stops at its oldest granule, CORE_FAULT is valid, and the step of its partition aborts.
(From R42 to R44, R72 and R212, in part.) -/
def Obligations.StoreBufferDrains : Prop :=
  (∀ (s : State) (core : Nat) (g : SbEntry) (rest : List SbEntry), core < 256 → s.paneUp core = true → (s.core core).sb = g :: rest →
    (s.core core).stop = none →
    exec (.granuleTaken core) s = .next ((((s.setCore core
      { s.core core with sb := rest, lastTaken := if g.toMem then max (s.core core).lastTaken g.seq else (s.core core).lastTaken }).takeGranule
        core g).refill core).tryStepEnd core)) ∧
  (∀ (s : State) (core n : Nat) (g : SbEntry) (rest : List SbEntry), core < 256 → s.paneUp core = true → (s.core core).sb = g :: rest →
    (s.core core).stop = some n →
    exec (.granuleTaken core) s = .next (((((s.setCore core { s.core core with sb := rest }).addF F.CORE_DRAIN_DRAINED core 1).takeGranule
        core g).refill core).tryStepEnd core)) ∧
  (∀ (s : State) (core seq : Nat) (e : QEntry), core < 256 → (s.core core).store.find? (fun e => e.seq == seq) = some e →
    0 < e.acks → s.paneUp core = true → s.remoteSlot e.cmd = none →
    exec (.storeAck core seq) s = .next (s.putEntry core 3 { e with acks := e.acks - 1 })) ∧
  (∀ (s : State) (core : Nat) (g : SbEntry) (rest : List SbEntry), core < 256 → (s.core core).sb = g :: rest →
    s.coreIn core = true → s.flag F.PANE_FREQ_EMERG (core / 8) = true → (s.pane (core / 8)).stopAt + 5000 ≤ s.now →
    ∃ u : State, exec (.storeDrainLost core) s = .next (u.abortStep (s.partOf core) 1 fcSTORE_DRAIN_LOST) ∧
      u.core core = { s.core core with stop := some g.seq, sb := [] } ∧
      u.getF F.CORE_DRAIN_DISCARDED core = (rest.length + 1) % 2 ^ F.CORE_DRAIN_DISCARDED.w ∧
      u.flag F.CORE_FAULT_VALID core = true ∧
      (s.flag F.CORE_FAULT_VALID core = false → u.flag F.CORE_STATUS_FAULTED core = true ∧
        u.getF F.CORE_FAULT_CODE core = fcSTORE_DRAIN_LOST) ∧
      u = { s with regs := u.regs, cores := u.cores })

/-! ## MATRIX and VECTOR (R86 to R109) -/

/-- MM_WLOAD makes its tile the pending one: the rows' element codes, their block scales for an MX format, and the per-tensor scale for a
format that takes one. MM_STREAM makes a pending tile active and leaves in the accumulator entry of each of its rows and each of the
tile's columns the sum of R90 over the segments, from the entry as it stood where it continues; it changes no other
entry, and raises the flags of every sum. MM_DRAIN writes, where no destination of its rows meets another's, each row as its accumulator
entries scaled, rounded and packed in its format, for an MX format with the block scales at their place; it raises the flags of every
product and conversion and changes no other byte. All of it stands at the start of the command (log entry 13). (From R89, R90 and R92, in
part.) -/
def Obligations.MatrixStarts : Prop :=
  (∀ (s : State) (core : Nat) (e : QEntry), core < 256 → s.Starts core 1 .mmWload e →
    ∃ w : Tile, exec (.mmWload core) s =
        .next ((s.modCore core (fun k => { k with shadow := some w })).putEntry core 1 { e with started := true }) ∧
      w.fmt = mmFmt e.cmd ∧ w.k = (shapeOf e.cmd).d0 ∧ w.n = (shapeOf e.cmd).d1 ∧
      w.rows = (shapeOf e.cmd).rows.map (fun r =>
        s.rowCodes core (mmFmt e.cmd) ((spadDesc e.cmd 24).row (spadDesc e.cmd 24).base r).toNat (shapeOf e.cmd).d0) ∧
      w.scale = (if isPerTensor (mmFmt e.cmd) then cbytes e.cmd 50 4 else 0) ∧
      w.scales = (if isMx (mmFmt e.cmd) then (shapeOf e.cmd).rows.map (fun r =>
        s.rowScales core ((spadDesc e.cmd 37).row (spadDesc e.cmd 37).base r).toNat (shapeOf e.cmd).d0) else [])) ∧
  (∀ (s : State) (core : Nat) (e : QEntry) (w : Tile), core < 256 → s.Starts core 1 .mmStream e →
    (s.core core).tile = some w → tileCheck (some w) e.cmd = 0 →
    (let c := e.cmd
     let sh := shapeOf c
     let codes := fun r => s.rowCodes core (mmFmt c) ((spadDesc c 24).row (spadDesc c 24).base r).toNat sh.d0
     let scales := fun r => if isMx (mmFmt c) then s.rowScales core ((spadDesc c 37).row (spadDesc c 37).base r).toNat sh.d0 else []
     let sum := fun (r : (Nat × Nat × Nat) × Nat) col =>
       accumulate (if contOf c then some ((s.core core).accAt (accRow c + r.2) col) else none) ((List.range (w.k / 32)).map
         (segResult w.fmt (mmFmt c) (w.rows.getD col []) (codes r.1) (w.scales.getD col []) (scales r.1) w.scale (cbytes c 54 4)))
     ∃ k fl, exec (.mmStream core) s = .next (((s.setCore core k).raiseM core fl).putEntry core 1 { e with started := true }) ∧
      k = { s.core core with acc := k.acc, active := some w, shadow := none } ∧
      (∀ r ∈ sh.rows.zipIdx, ∀ col < w.n, k.accAt (accRow c + r.2) col = (sum r col).val) ∧
      (∀ row col, (row < accRow c ∨ accRow c + sh.rows.length ≤ row ∨ w.n ≤ col) → k.accAt row col = (s.core core).accAt row col) ∧
      fl = sh.rows.zipIdx.foldl (fun x r => orf x ((List.range w.n).foldl (fun y col => orf y (sum r col).fl) 0)) 0)) ∧
  (∀ (s : State) (core : Nat) (e : QEntry), core < 256 → s.Starts core 1 .mmDrain e →
    (let c := e.cmd
     let sh := shapeOf c
     let f := mmFmt c
     let at' := fun r => spadAddr core ((spadDesc c 24).row (spadDesc c 24).base r).toNat
     let scAt := fun r => spadAddr core ((spadDesc c 37).row (spadDesc c 37).base r).toNat
     let vals := fun i => (List.range sh.d0).map (fun col => fmul ((s.core core).accAt (accRow c + i) col) (cbytes c 52 4))
     let rnd := fun i => (List.range sh.d0).map (fun col =>
       rndOf (mmRnd c) (s.planOfCore core).seed (cbytes c 56 2) (cbytes c 58 4 + i * sh.d0 + col))
     let xs := fun i => (vals i).map (fun v => fp32.decode v.val)
     let mx := fun i => mxRow f (sh.d0 / 32) (xs i) (rnd i)
     let os := fun i => ((xs i).zip (rnd i)).map (fun q => (outFmt f).convert q.1 q.2 (mmSat c))
     ∃ t fl, exec (.mmDrain core) s = .next ((State.raiseM t core fl).putEntry core 1 { e with started := true }) ∧
      t = { s with mem := t.mem } ∧
      (∀ a, (∀ r ∈ sh.rows, outside a (at' r) (fmtLen f sh.d0) ∧ (isMx f → outside a (scAt r) (sh.d0 / 32))) → t.byte a = s.byte a) ∧
      fl = sh.rows.zipIdx.foldl (fun x r =>
        let y := (vals r.2).foldl (fun x v => orf x v.fl) x
        if isMx f then orf y (mx r.2).2.2 else (os r.2).foldl (fun x v => orf x v.fl) y) 0 ∧
      ((∀ r ∈ sh.rows, ∀ q ∈ sh.rows, (r ≠ q → apart (at' r) (fmtLen f sh.d0) (at' q) (fmtLen f sh.d0)) ∧
          (isMx f → apart (at' r) (fmtLen f sh.d0) (scAt q) (sh.d0 / 32) ∧
            (r ≠ q → apart (scAt r) (sh.d0 / 32) (scAt q) (sh.d0 / 32)))) →
        ∀ r ∈ sh.rows.zipIdx,
          t.bytes (at' r.1) (fmtLen f sh.d0) = packRow f (if isMx f then (mx r.2).2.1 else (os r.2).map (·.val)) ∧
          (isMx f → t.bytes (scAt r.1) (sh.d0 / 32) = (mx r.2).1.map (BitVec.ofNat 8)))))

/-- A VECTOR command runs at its start, and stays in its queue, started. Where no element's (or row's) destination meets another's
destination or another's source, VE_BINARY and VE_UNARY write at every element of the walk the result of their operation on the elements
as they stood, in the output format, and raise the flags of those results; VE_RREDUCE writes one result a row, VE_TOPK the first K entries
of the row's ranking as value and index, VE_TRANSPOSE the element's bytes with dimensions 0 and 1 exchanged. In every case no byte
outside the destination elements changes. VE_CMP writes no byte and keeps for its completion the AND or OR of its comparisons
over the whole walk. The bounded functions are free within their bound (log entry 16). (From R99 to R109, in part.) -/
def Obligations.VectorStarts : Prop :=
  (∀ (s : State) (core : Nat) (e : QEntry), core < 256 → s.Starts core 2 .veBinary e →
    (let c := e.cmd
     let a := spadDesc c 24
     let d := if hFormat c = 3 then spadDesc c 50 else spadDesc c 37
     let res := fun x => vecOut (veOfmt c) (rndOf (veRnd c) 0 0 0) (veSat c) (binaryOp (veVop c) (s.srcElem core (veIfmt c) a x).val
      (if hFormat c = 3 then s.secondElem core c (spadDesc c 37) x else ⟨cbytes c 50 4, 0⟩).val)
     let at' := fun x => elemAddr core (veOfmt c) d x
     ∃ t fl, exec (.veBinary core) s = .next ((State.raiseV t core fl).putEntry core 2 { e with started := true }) ∧
      t = { s with mem := t.mem } ∧
      (∀ b, (∀ x ∈ (shapeOf c).walk, outside b (at' x) (vecBytes (veOfmt c))) → t.byte b = s.byte b) ∧
      ((∀ x ∈ (shapeOf c).walk, ∀ y ∈ (shapeOf c).walk, x ≠ y →
          apart (at' x) (vecBytes (veOfmt c)) (at' y) (vecBytes (veOfmt c)) ∧
          apart (at' x) (vecBytes (veOfmt c)) (elemAddr core (veIfmt c) a y) (vecBytes (veIfmt c)) ∧
          (hFormat c = 3 → apart (at' x) (vecBytes (veOfmt c))
            (elemAddr core (veIfmt c) (spadDesc c 37) (if veBcast c then (0, y.2) else y)) (vecBytes (veIfmt c)))) →
        fl = (shapeOf c).walk.foldl (fun f x => orf f (res x).fl) 0 ∧
        ∀ x ∈ (shapeOf c).walk, t.bytes (at' x) (vecBytes (veOfmt c)) = leBytes (vecBytes (veOfmt c)) (res x).val))) ∧
  (∀ (s : State) (core : Nat) (e : QEntry), core < 256 → s.Starts core 2 .veUnary e →
    (let c := e.cmd
     let a := spadDesc c 24
     let d := spadDesc c 37
     let copy := veIfmt c = 12 ∧ veOfmt c = 12 ∧ cbytes c 50 4 = 0x3F800000
     let res := fun (k : Nat) x => (
      let p := s.srcElem core (veIfmt c) a x
      let m := fmul (cbytes c 50 4) p.val
      let r := unaryOp (veVop c) m.val
      if copy then (⟨s.rawElem core 12 a x, 0⟩ : Flagged)
      else vecOut (veOfmt c) (rndOf (veRnd c) (s.planOfCore core).seed (cbytes c 54 2) (cbytes c 56 4 + k)) (veSat c)
        ⟨r.val, orf p.fl (orf m.fl r.fl)⟩)
     let at' := fun x => elemAddr core (veOfmt c) d x
     ∃ t fl, exec (.veUnary core) s = .next ((State.raiseV t core fl).putEntry core 2 { e with started := true }) ∧
      t = { s with mem := t.mem } ∧
      (∀ b, (∀ x ∈ (shapeOf c).walk, outside b (at' x) (vecBytes (veOfmt c))) → t.byte b = s.byte b) ∧
      ((∀ x ∈ (shapeOf c).walk, ∀ y ∈ (shapeOf c).walk, x ≠ y →
          apart (at' x) (vecBytes (veOfmt c)) (at' y) (vecBytes (veOfmt c)) ∧
          apart (at' x) (vecBytes (veOfmt c)) (elemAddr core (veIfmt c) a y) (vecBytes (veIfmt c))) →
        fl = (shapeOf c).walk.zipIdx.foldl (fun f x => orf f (res x.2 x.1).fl) 0 ∧
        ∀ x ∈ (shapeOf c).walk.zipIdx,
          t.bytes (at' x.1) (vecBytes (veOfmt c)) = leBytes (vecBytes (veOfmt c)) (res x.2 x.1).val))) ∧
  (∀ (s : State) (core : Nat) (e : QEntry), core < 256 → s.Starts core 2 .veRreduce e →
    (let c := e.cmd
     let a := spadDesc c 24
     let res := fun r => (
      let v := reduceRow (veVop c) ((List.range (shapeOf c).d0).map (fun i => (s.srcElem core (veIfmt c) a (i, r)).val))
      if veVop c = 4 then v else vecOut (veOfmt c) (rndOf (veRnd c) 0 0 0) (veSat c) v)
     let at' := fun r => elemAddr core (veOfmt c) (spadDesc c 37) (0, r)
     ∃ t fl, exec (.veRreduce core) s = .next ((State.raiseV t core fl).putEntry core 2 { e with started := true }) ∧
      t = { s with mem := t.mem } ∧
      (∀ b, (∀ r ∈ (shapeOf c).rows, outside b (at' r) (vecBytes (veOfmt c))) → t.byte b = s.byte b) ∧
      ((∀ r ∈ (shapeOf c).rows,
          (∀ q ∈ (shapeOf c).rows, r ≠ q → apart (at' r) (vecBytes (veOfmt c)) (at' q) (vecBytes (veOfmt c))) ∧
          ∀ y ∈ (shapeOf c).walk, y.2 ≠ r → apart (at' r) (vecBytes (veOfmt c)) (elemAddr core (veIfmt c) a y) (vecBytes (veIfmt c))) →
        ∀ r ∈ (shapeOf c).rows, t.bytes (at' r) (vecBytes (veOfmt c)) = leBytes (vecBytes (veOfmt c)) (res r).val))) ∧
  (∀ (s : State) (core : Nat) (e : QEntry), core < 256 → s.Starts core 2 .veTopk e →
    (let c := e.cmd
     let a := spadDesc c 24
     let res := fun r => (rankRow ((List.range (shapeOf c).d0).map (fun i => (s.srcElem core (veIfmt c) a (i, r)).val))).take (tkK c)
     let at' := fun r => elemAddr core 0 (spadDesc c 37) (0, r)
     ∃ t fl, exec (.veTopk core) s = .next ((State.raiseV t core fl).putEntry core 2 { e with started := true }) ∧
      t = { s with mem := t.mem } ∧
      (∀ b, (∀ r ∈ (shapeOf c).rows, outside b (at' r) (8 * tkK c)) → t.byte b = s.byte b) ∧
      ((∀ r ∈ (shapeOf c).rows,
          (∀ q ∈ (shapeOf c).rows, r ≠ q → apart (at' r) (8 * tkK c) (at' q) (8 * tkK c)) ∧
          ∀ y ∈ (shapeOf c).walk, y.2 ≠ r → apart (at' r) (8 * tkK c) (elemAddr core (veIfmt c) a y) (vecBytes (veIfmt c))) →
        ∀ r ∈ (shapeOf c).rows, t.bytes (at' r) (8 * (res r).length) =
          (res r).flatMap (fun x => leBytes 4 x.1 ++ leBytes 4 ((cbytes c 52 4 + x.2) % 2 ^ 32))))) ∧
  (∀ (s : State) (core : Nat) (e : QEntry), core < 256 → s.Starts core 2 .veTranspose e →
    (let c := e.cmd
     let a := spadDesc c 24
     let n := vecBytes (veIfmt c)
     let at' := fun (x : Nat × (Nat × Nat × Nat)) => elemAddr core (veIfmt c) (spadDesc c 37) (x.2.1, (x.1, x.2.2))
     ∃ t, exec (.veTranspose core) s = .next ((State.raiseV t core 0).putEntry core 2 { e with started := true }) ∧
      t = { s with mem := t.mem } ∧
      (∀ b, (∀ x ∈ (shapeOf c).walk, outside b (at' x) n) → t.byte b = s.byte b) ∧
      ((∀ x ∈ (shapeOf c).walk, ∀ y ∈ (shapeOf c).walk, x ≠ y → apart (at' x) n (at' y) n ∧
          apart (at' x) n (elemAddr core (veIfmt c) a y) n) →
        ∀ x ∈ (shapeOf c).walk, t.bytes (at' x) n = s.bytes (elemAddr core (veIfmt c) a x) n))) ∧
  (∀ (s : State) (core : Nat) (e : QEntry), core < 256 → s.Starts core 2 .veCmp e →
    (let c := e.cmd
     let ctl := if hFormat c = 2 then cbytes c 50 1 else cbytes c 41 1
     let hit := fun x => cmpOp (veVop c) (s.srcElem core (veIfmt c) (spadDesc c 24) x).val
      (if hFormat c = 2 then s.secondElem core c (spadDesc c 37) x else ⟨cbytes c 37 4, 0⟩).val
     exec (.veCmp core) s = .next (s.putEntry core 2 { e with
      started := true
      pred := some (bitsOf ctl 0 4, if bitAt ctl 4 then (shapeOf c).walk.all hit else (shapeOf c).walk.any hit) })))

/-- VE_OREDUCE whose tags pass and whose partials are all there completes its start: where the source and destination lie apart it
writes, for each element, the node of the fixed tree over the tagged partials as they stood, with the flags of those results;
overlapping or not, no byte outside its D0 FP32 results changes. (From R103, R105 and R106, in part; the grouping under an overlap is
log entry 17's.) -/
def Obligations.OrderedReduceStarts : Prop :=
  ∀ (s : State) (core : Nat) (e : QEntry), core < 256 → s.Starts core 2 .veOreduce e →
    (let c := e.cmd
     let d0 := (shapeOf c).d0
     let tags := (List.range (shapeOf c).d1).map (fun i => leNat (s.spad core (orTags c + 4 * i) 4))
     let ins := tags.zipIdx.map (fun t => (⟨bitsOf t.1 24 5, bitsOf t.1 0 24,
        (List.range d0).map (fun i => (s.srcElem core 0 (spadDesc c 24) (i, t.2, 0, 0)).val)⟩ : Tagged))
     let f := fun x y => if veVop c = 0 then fadd x y else ⟨fmax x y, 0⟩
     let dst := spadAddr core (spadDesc c 37).base
     ∀ v, tagsBad (orS c) tags = false → evalNode (orS c) f ins (orLevel c) (orIndex c) = .val v →
      ∃ t fl, exec (.veOreduce core) s = .next ((State.raiseV t core fl).putEntry core 2 { e with started := true }) ∧
        t = { s with mem := t.mem } ∧ s.BytesBut t dst (4 * d0) ∧
        ((∀ y ∈ (shapeOf c).walk, apart dst (4 * d0) (elemAddr core 0 (spadDesc c 24) y) 4) →
          t.bytes dst (4 * d0) = v.flatMap (fun r => leBytes 4 (vecOut 0 .rne false r).val) ∧
          fl = v.foldl (fun x r => orf x (vecOut 0 .rne false r).fl) 0))

/-! ## The dispatcher (R22 to R25, R60, R79 to R81) -/

/-- While a core may fetch, its stream buffer holds fewer than 16 blocks and its stream has more: the next 4 KiB block joins the
stream buffer as its 64 commands; one that lies outside the partition joins it marked as failed, and the refusal is recorded.
(From R22, in part.) -/
def Obligations.StreamIsRead : Prop :=
  (∀ (s u : State) (core : Nat) (sym : Syms) (bs : List Byte), core < 256 → s.mayFetch core = true → (s.core core).blocks.length < 16 →
    64 * (s.core core).nextBlock < s.getF F.DISP_STREAM_LEN_COMMANDS core →
    (let a := s.getF F.DISP_STREAM_BASE_BASE core * 4096 + 4096 * (s.core core).nextBlock
     s.ownsRange (s.partOf core) a (a + 4095) = true → s.read a 4096 sym = (u, .ok bs) →
     exec (.streamBlockFetch core sym) s = .next (u.setCore core { s.core core with
      blocks := (s.core core).blocks ++ [⟨(s.core core).nextBlock, false, parseBlock bs 64⟩]
      nextBlock := (s.core core).nextBlock + 1 }))) ∧
  (∀ (s : State) (core : Nat) (sym : Syms), core < 256 → s.mayFetch core = true → (s.core core).blocks.length < 16 →
    64 * (s.core core).nextBlock < s.getF F.DISP_STREAM_LEN_COMMANDS core →
    (let a := s.getF F.DISP_STREAM_BASE_BASE core * 4096 + 4096 * (s.core core).nextBlock
     s.ownsRange (s.partOf core) a (a + 4095) = false →
     exec (.streamBlockFetch core sym) s = .next ((s.rangeRefused a (a + 4095)).setCore core { s.core core with
      blocks := (s.core core).blocks ++ [⟨(s.core core).nextBlock, true, []⟩]
      nextBlock := (s.core core).nextBlock + 1 })))

/-- A held command of the dispatcher that may be handled has its effect, its SIGNAL clauses land, and the dispatcher goes on:
NOP and BEAT_END have none of their own, LATCH_RESET clears the latches of its mask, PEEP_EMIT queues one record of an enabled
peephole; STEP_END ends the stream; after a LATCH_RESET without SIGNAL clauses every latch of MASK is 0 and every other one
of the core is unchanged. (From R70, R79 to R81, in part.) -/
def Obligations.DispatcherHandles : Prop :=
  (∀ (s : State) (core : Nat) (c : Cmd), core < 256 → s.Handles core .nop c →
    exec (.nop core 5) s = .next (((s.signal core c).modCore core (·.advance c)).updateHold ((s.signal core c).partOf core))) ∧
  (∀ (s : State) (core : Nat) (c : Cmd), core < 256 → s.Handles core .beatEnd c →
    exec (.beatEnd core) s = .next (((s.signal core c).modCore core (·.advance c)).updateHold ((s.signal core c).partOf core))) ∧
  (∀ (s : State) (core : Nat) (c : Cmd), core < 256 → s.Handles core .latchReset c →
    ∃ u, u = (s.clearLatches core (cbits c 128 48)).signal core c ∧
      exec (.latchReset core) s = .next ((u.modCore core (·.advance c)).updateHold (u.partOf core))) ∧
  (∀ (s : State) (core : Nat) (c : Cmd), core < 256 → s.Handles core .peepEmit c →
    s.peepOn (cbits c 128 10) (s.partOf core) = true → (s.core core).peep.length < 8 →
    ∃ u, u = (s.setCore core { s.core core with peep := (s.core core).peep ++
        [⟨cbits c 128 10, core, (s.core core).seq, (s.part (s.partOf core)).beat, s.now, cbytes c 24 16⟩] }).signal core c ∧
      exec (.peepEmit core) s = .next ((u.modCore core (·.advance c)).updateHold (u.partOf core))) ∧
  (∀ (s : State) (core : Nat) (c : Cmd), core < 256 → s.heldOp core .stepEnd = some c → operandCheck (s.checkEnv core c) .stepEnd c = 0 →
    ∃ u, u = (s.modCore core (fun k => { k with held := false, ending := true, seq := k.seq + 1, beat := k.beat + 1 })).tryStepEnd core ∧
      exec (.stepEnd core) s = .next (u.updateHold (s.partOf core))) ∧
  (∀ (s : State) (core : Nat) (c : Cmd) (l : Nat), core < 256 → s.Handles core .latchReset c → localSignals c = [] → l < 48 →
    ∃ t, exec (.latchReset core) s = .next t ∧ t.latch core l = if bitAt (cbits c 128 48) l then 0 else s.latch core l)

/-- The oldest command of an engine, once it has finished on a running core that has not stopped before it, completes: its entry leaves
the queue, no other queue changes, a VE_CMP
writes its predicate bit, and no byte of memory changes.
(From R23, R25 and R107, in part.) -/
def Obligations.CommandCompletes : Prop :=
  ∀ (s : State) (core eng lost : Nat) (e : QEntry) (rest : List QEntry), core < 256 → eng < 5 → (s.core core).queue eng = e :: rest →
    (s.core core).finished e = true → (s.core core).live e.seq = true → s.coreRuns core = true →
    ∃ t, exec (.commandComplete core eng lost) s = .next t ∧ (t.core core).queue eng = rest ∧
      (∀ j, j < 5 → j ≠ eng → (t.core core).queue j = (s.core core).queue j) ∧
      (t.core core).preds = (match e.pred with
        | some (i, b) => setPred (s.core core).preds i b
        | none => (s.core core).preds) ∧
      (∀ n, n ≠ core → t.core n = s.core n) ∧ ∀ a, t.byte a = s.byte a

/-! ## Steps and beats (R36 to R40, R67, R146 to R148, R210, R396 to R399) -/

/-- When the timebase has reached the start time and no pane of the partition is stopped, beat 0 opens: the step
runs, its beat is 0, and OPENED holds the time; LATE is set when the start time came late or inside a pane stop, and UNLOCKED when the
package is neither master nor locked; every participating core starts with an empty accumulator, no tile and its predicates from step
parameter 63. A LATCH_RESET that is the first command of a core's stream is handled with it, and clears the latches of its mask before
anything of the step can land. No byte of memory changes. When every marker of a beat that is not the final one is dispatched and
no variable command of it is open, the next beat opens, at the time the timebase shows; no byte of memory changes, and the other
partitions keep their beats. (From R37, R67, R135, R147 and R148, in part.) -/
def Obligations.StepsRunBeats : Prop :=
  (∀ (s : State) (p T : Nat), p < 16 → (s.part p).startT = some T → T ≤ s.now → s.paneStopped p = false →
    ∃ u : State, exec (.stepStart p) s = .next ((s.members p).foldl State.openReset u) ∧
      (u.part p).running = true ∧ (u.part p).beat = 0 ∧ (u.part p).startT = none ∧
      u.getF F.BEAT_OPENED_TB p = s.now % 2 ^ F.BEAT_OPENED_TB.w ∧
      u.flag F.LATCH_START_LATE p = ((s.part p).lateT || s.flag F.LATCH_START_LATE p) ∧
      (s.flag F.TIME_STATUS_LOCKED 0 = false → s.flag F.TIME_CTRL_MASTER 0 = false → u.flag F.LATCH_START_UNLOCKED p = true) ∧
      (∀ n ∈ s.members p, (u.core n).acc = [] ∧ (u.core n).active = none ∧ (u.core n).preds = (s.core n).param 63 % 2 ^ 16) ∧
      (∀ a, ((s.members p).foldl State.openReset u).byte a = s.byte a) ∧
      ((∀ n ∈ s.members p, ∀ c, (s.core n).next = .cmd c → (s.core n).seq = 0 → opOf (hEngine c) (hOpcode c) ≠ some .latchReset) →
        (s.members p).foldl State.openReset u = u)) ∧
  (∀ (s : State) (n l : Nat) (c : Cmd), s.mayDispatch n = true → (s.core n).next = .cmd c → (s.core n).seq = 0 →
    1 < s.getF F.DISP_STREAM_LEN_COMMANDS n → opOf (hEngine c) (hOpcode c) = some .latchReset → headerCheck c = 0 → hEngine c = 5 →
    (s.core n).skips c = false → operandCheck (s.checkEnv n c) .latchReset c = 0 → waits c = [] →
    localSignals c = [] → (s.core n).beat = (s.part (s.partOf n)).beat → l < 48 →
    (s.openReset n).latch n l = (if bitAt (cbits c 128 48) l then 0 else s.latch n l) ∧ ((s.openReset n).core n).seq = 1) ∧
  (∀ (s : State) (p w : Nat) (losses : List (Nat × Nat)), p < 16 → (s.part p).running = true → s.markersIn p (s.part p).beat = true →
    s.varOpen p (s.part p).beat = false → s.finalBeat p = false →
    ∃ t, exec (.beatOpen p w losses) s = .next t ∧ (t.part p).beat = ((s.part p).beat + 1) % 2 ^ 32 ∧ (t.part p).running = true ∧
      (t.part p).unplanned = false ∧ t.getF F.BEAT_OPENED_TB p = s.now % 2 ^ F.BEAT_OPENED_TB.w ∧
      (∀ q, q ≠ p → t.part q = s.part q) ∧ ∀ a, t.byte a = s.byte a)

/-- When every marker of the final beat is dispatched, no variable command of it is open, every core has ended and no generation is
open, the step ends well: the partition runs no step, its next step is a first attempt, and it keeps the number of the one that
ended. Then the weight loads requested in the step begin; with none, nothing more changes. (From R67, R305 and R435, in part.) -/
def Obligations.StepEnds : Prop :=
  ∀ (s : State) (p w : Nat) (losses : List (Nat × Nat)), p < 16 → (s.part p).running = true → s.markersIn p (s.part p).beat = true →
    s.varOpen p (s.part p).beat = false → s.finalBeat p = true → (s.members p).all (fun n => (s.core n).ended) = true →
    s.openGen p = false →
    ∃ u : State, exec (.stepComplete p w losses) s = .next (u.stepEnded p) ∧ (u.part p).running = false ∧ (u.part p).started = false ∧
      (u.part p).lastFailed = false ∧ (u.part p).attempt = 0 ∧ (u.part p).prevNo = some (s.part p).stepNo ∧
      ((∀ k ∈ u.plansOf p, (u.plan k).wlWait = []) → u.stepEnded p = u)

/-- The watchdog of an open beat, a planned packet that has waited past the link limit at a port that is not in UP, the loss of the
reference clock and a drifted crossing abort the step of each partition they concern, with causes 2, 5, 0x0A and 9; a drift is shown in
its crossing's record, and the crossing stays drifted until it is calibrated again. The watchdog sets WDOG_FIRED, CTL_ABORT holds this
node, cause 2 and detail 0, the step has stopped and its quiet period begins; no byte of memory changes. (From R40, R205, R210, R396 and
R397, in part.) -/
def Obligations.FailuresAbort : Prop :=
  (∀ (s : State) (p : Nat), p < 16 → (s.part p).running = true →
    s.getF F.BEAT_OPENED_TB p + 1000 * s.getF F.BEAT_WDOG_LIMIT_US p < s.now →
    exec (.holdTimeout p) s = .next ((s.setF F.BEAT_STATUS_WDOG_FIRED p 1).abortStep p 2 0)) ∧
  (∀ (s : State) (p q w : Nat), p < 16 → q < 36 → s.plannedWait p q = some w → 1000 * s.getF F.CTL_ABORTCFG_LINK_LIMIT_US 0 < w →
    exec (.linkLost p) s = .next (s.abortStep p 5 0)) ∧
  (∀ s : State, exec .refclkLoss s = .next (s.abortAll 0x0A (List.range 16))) ∧
  (∀ (s : State) (kind i : Nat) (inb : Bool), i < crossings kind → hasHalf kind i inb = true →
    ∃ u : State, exec (.crossingDrift kind i inb) s = .next (u.abortAll 9 (s.usersOf kind i)) ∧
      u = { s with regs := u.regs, drifted := u.drifted } ∧ (kind, i) ∈ u.drifted ∧ u.flag (driftFld kind inb) i = true ∧
      s.RegsBut u [(driftFld kind inb, i)]) ∧
  (∀ (s : State) (p : Nat), p < 16 → (s.part p).running = true → s.stepActive p = true →
    s.getF F.BEAT_OPENED_TB p + 1000 * s.getF F.BEAT_WDOG_LIMIT_US p < s.now →
    ∃ t, exec (.holdTimeout p) s = .next t ∧ t.flag F.BEAT_STATUS_WDOG_FIRED p = true ∧ (t.part p).running = false ∧
      (t.part p).aborted = true ∧ (t.part p).quietAt = s.now ∧ t.flag F.CTL_ABORT_VALID p = true ∧
      t.getF F.CTL_ABORT_CAUSE p = 2 ∧ t.getF F.CTL_ABORT_DETAIL p = 0 ∧ t.getF F.CTL_ABORT_NODE p = s.node ∧
      t.flag F.CTL_ABORT_QUIET p = true ∧ ∀ a, t.byte a = s.byte a)

/-- The first ABORT packet of the inbox, when it passes the checks and names the current step of a partition that is not aborted,
aborts that step: recorded with the node, cause and detail it carries, stages 1 and 2 done and what waits of the partition discarded;
no byte of memory changes. One that names the step that ended last, where that was not aborted, sets LATE, begins the quiet period and
discards what waits, and stops no step; an ABORT of an aborted step changes nothing but the count; one with cause REPLAY puts the aborted
step at the front of the queue with the attempt it carries. One that passes no check is only counted. (From R394, R398 and R399, in part.) -/
def Obligations.AbortIsReceived : Prop :=
  (∀ (s : State) (k : Packet) (rest : List Packet) (p : Nat), takeFirst (fun k => k.ptype == ptABORT) s.inbox = some (k, rest) →
    ({ s with inbox := rest } : State).abortFor k = some p → leAt k.body 1 1 ≠ 0x0E → (s.part p).aborted = false →
    s.namesCurrent p (leAt k.body 28 4) = true →
    ∃ t, exec .abortReceive s = .next t ∧ t.inbox = rest.filter (fun k => !(k.part == p && k.quiet)) ∧ (t.part p).running = false ∧
    (t.part p).aborted = true ∧
      t.getF F.CTL_ABORT_NODE p = leAt k.body 24 3 % 2 ^ 20 ∧ t.getF F.CTL_ABORT_CAUSE p = leAt k.body 1 1 % 2 ^ F.CTL_ABORT_CAUSE.w ∧
      t.getF F.CTL_ABORT_DETAIL p = leAt k.body 2 1 % 2 ^ F.CTL_ABORT_DETAIL.w ∧ t.flag F.CTL_ABORT_VALID p = true ∧
      ∀ a, t.byte a = s.byte a) ∧
  (∀ (s : State) (k : Packet) (rest : List Packet), takeFirst (fun k => k.ptype == ptABORT) s.inbox = some (k, rest) →
    ({ s with inbox := rest } : State).abortFor k = none →
    exec .abortReceive s = .next (({ s with inbox := rest } : State).addF F.CTL_ABORT_COUNT
      ((({ s with inbox := rest } : State).abortTarget k.body).getD k.part) 1)) ∧
  (∀ (s : State) (k : Packet) (rest : List Packet) (p : Nat), takeFirst (fun k => k.ptype == ptABORT) s.inbox = some (k, rest) →
    ({ s with inbox := rest } : State).abortFor k = some p → leAt k.body 1 1 ≠ 0x0E → s.namesCurrent p (leAt k.body 28 4) = false →
    (s.part p).prevAborted = false →
    ∃ t, exec .abortReceive s = .next t ∧ t.inbox = rest.filter (fun k => !(k.part == p && k.quiet)) ∧
      t.flag F.CTL_ABORT_LATE p = true ∧ t.flag F.CTL_ABORT_QUIET p = true ∧ (t.part p).prevAborted = true ∧ (t.part p).quietAt = s.now ∧
      (t.part p).running = (s.part p).running ∧ (t.part p).stepNo = (s.part p).stepNo ∧ (∀ w ∈ t.rq, w.purged p = true → w.outs = []) ∧
      ∀ a, t.byte a = s.byte a) ∧
  (∀ (s : State) (k : Packet) (rest : List Packet) (p : Nat), takeFirst (fun k => k.ptype == ptABORT) s.inbox = some (k, rest) →
    ({ s with inbox := rest } : State).abortFor k = some p → leAt k.body 1 1 ≠ 0x0E →
    (s.namesCurrent p (leAt k.body 28 4) = true ∧ (s.part p).aborted = true ∨
      s.namesCurrent p (leAt k.body 28 4) = false ∧ (s.part p).prevAborted = true) →
    exec .abortReceive s = .next (({ s with inbox := rest } : State).addF F.CTL_ABORT_COUNT p 1)) ∧
  (∀ (s : State) (k : Packet) (rest : List Packet) (p : Nat), takeFirst (fun k => k.ptype == ptABORT) s.inbox = some (k, rest) →
    ({ s with inbox := rest } : State).abortFor k = some p → leAt k.body 1 1 = 0x0E → (s.part p).aborted = true →
    ∃ t, exec .abortReceive s = .next t ∧ t.steps = ⟨p, (s.part p).plan, (s.part p).tag, (s.part p).payload, leAt k.body 2 1 % 4, true,
      (s.part p).cq⟩ :: s.steps ∧ t.part p = s.part p)

/-- The quiet period of an aborted partition that is over ends: the partition is no longer aborted, QUIET clears, every latch of its cores is
0, and a replay waits exactly when this node asks for one (by the command, or for its own lost weights), a STEP_DONE is due and fewer than
three attempts were made. The quiet period of a step that had ended before clears the latches and leaves the next one alone. A replay with
nothing left to restore sends ABORT with cause 0x0E and the next attempt and puts the step at the front of the queue again. A self-test is
counted, and a failed one leaves the pair unverified; a mismatch stops the pair. (From R392, R394, R399, R405 and R406, in part.) -/
def Obligations.RecoveryRuns : Prop :=
  (∀ (s : State) (p : Nat) (replay : Bool), p < 16 → s.quietOver p = true → (s.part p).aborted = true →
    ∃ u : State, exec (.quietEnd p replay) s = .next ((if (u.part p).replaying then u.rereads p else u).stepEnded p) ∧
      (u.part p).aborted = false ∧ (u.part p).running = false ∧ (u.part p).started = false ∧ (u.part p).lastFailed = true ∧
      u.flag F.CTL_ABORT_QUIET p = false ∧ (∀ n ∈ s.members p, ∀ l < 48, u.latch n l = 0) ∧
      ((u.part p).replaying = true ↔
        (replay = true ∨ s.weightLost p = true) ∧ (s.part p).pendDone = true ∧ (s.part p).attempt < 3)) ∧
  (∀ (s : State) (p : Nat) (replay : Bool), p < 16 → s.quietOver p = true → (s.part p).aborted = false →
    ∃ t, exec (.quietEnd p replay) s = .next t ∧ t.part p = { s.part p with late := false } ∧ t.flag F.CTL_ABORT_QUIET p = false ∧
      (∀ n ∈ s.members p, ∀ l < 48, t.latch n l = 0) ∧ t.replies = s.replies) ∧
  (∀ (s : State) (p : Nat), p < 16 → (s.part p).replaying = true → (s.part p).quieting = false →
    (∀ w ∈ (s.plan (s.part p).plan).weights, w.redo = []) →
    ∃ t, exec (.stepReplay p) s = .next t ∧ (t.part p).replaying = false ∧
      t.steps = ⟨p, (s.part p).plan, (s.part p).tag, (s.part p).payload, (s.part p).attempt + 1, true, (s.part p).cq⟩ :: s.steps ∧
      t.rq = (s.sendAbort p 0x0E ((s.part p).attempt + 1)).rq) ∧
  (∀ s : State, ∃ t, exec (.lockstepTest true) s = .next t ∧ s.Only t [(F.CTL_LSTEST_TESTS, 0)] ∧
    t.getF F.CTL_LSTEST_TESTS 0 = satAdd F.CTL_LSTEST_TESTS.w (s.getF F.CTL_LSTEST_TESTS 0) 1) ∧
  (∀ s : State, exec (.lockstepTest false) s = .next (((s.addF F.CTL_LSTEST_TESTS 0 1).setF F.CTL_LSTEST_COMP_FAIL 0 1).unverify)) ∧
  (∀ s : State, ∃ t, exec (.lockstepMismatch false) s = .next t ∧ t.pairDown = true ∧ t.flag F.CTL_LOCKSTEP_MISMATCH 0 = true) ∧
  (∀ s : State, exec (.lockstepMismatch true) s = .next ((s.setF F.CTL_LOCKSTEP_DELAY_PARITY 0 1).unverify))

/-! ## Arrivals (R74, R131 to R148, R293) -/

/-- The packet that lands next is one of its type that no earlier packet for one of its cores precedes (R76), unless its partition is in
the quiet period. A latch write that lands raises its latch at each destination core, holding 65,535 when the sum is above it, and changes no
other latch of that number and nothing but registers; a data packet writes its payload at its address in the scratchpad of each
destination core, as far as the scratchpad reaches, and counts the bank cycles lost there; with one destination no other byte changes.
The packet is consumed. (From R74, R76, R133 and R134, in part.) -/
def Obligations.PacketsLand : Prop :=
  (∀ (s : State) (ptype : Nat) (l rest : List Packet) (k : Packet), s.takeLand ptype [] l = some (k, rest) →
    ∃ pre post, l = pre ++ k :: post ∧ rest = pre ++ post ∧ k.ptype = ptype ∧
      ((s.part k.part).quieting = false → ∀ j ∈ pre, j.lands = true → (s.part j.part).quieting = false → ∀ n ∈ j.dest, n ∉ k.dest)) ∧
  (∀ (s : State) (k : Packet) (rest : List Packet), s.takeLand ptLATCH [] s.inbox = some (k, rest) →
    (s.part k.part).quieting = false → k.dest.Nodup → bitsOf k.arg 0 6 < 48 →
    ∃ t, exec .latchWriteArrive s = .next t ∧ t = { s with inbox := rest, regs := t.regs } ∧
      ∀ n, t.latch n (bitsOf k.arg 0 6) =
        if n ∈ k.dest then min 65535 (s.latch n (bitsOf k.arg 0 6) + bitsOf k.arg 6 8) else s.latch n (bitsOf k.arg 0 6)) ∧
  (∀ (s : State) (k : Packet) (rest : List Packet) (n : Nat), s.takeLand ptDATA [] s.inbox = some (k, rest) →
    (s.part k.part).quieting = false → k.dest = [n] →
    (let a := k.arg % 2 ^ 23
     ∃ t, exec (.dataArrive []) s = .next t ∧ t = { s with inbox := rest, mem := t.mem } ∧
      s.BytesBut t (spadAddr n a) (k.body.take (spadSize - a)).length ∧
      ∀ j b, (k.body.take (spadSize - a))[j]? = some b → t.byte (spadAddr n a + j) = b)) ∧
  (∀ (s : State) (k : Packet) (rest : List Packet) (losses : List (Nat × Nat)), s.takeLand ptDATA [] s.inbox = some (k, rest) →
    (s.part k.part).quieting = false →
    exec (.dataArrive losses) s = .next ((k.dest.foldl (fun (s : State) n => s.setSpad n (k.arg % 2 ^ 23) (k.body.take (spadSize - k.arg % 2 ^ 23)))
      { s with inbox := rest }).countLosses (losses.filter (fun x => k.dest.contains x.1))))

/-- An arrival that passes the checks of R142 counts at its context, which completes its oldest generation when
every member has arrived (an on-chip context) or aggregates (a system context); one that fails a check is recorded at its context and
aborts the step with cause 3. A child's token that passes counts for the port it came on and, at a start context, names the
generation it carries; a completion token that passes completes its generation. (From R140, R142 to R146, in part.) -/
def Obligations.ArrivalsCount : Prop :=
  (∀ (s : State) (a : Arrival) (rest : List Arrival), s.arrivals = a :: rest →
    ({ s with arrivals := rest } : State).arrivalCheck a = 0 → a.sys = false →
    exec .thresholdArrive s = .next ((({ s with arrivals := rest } : State).setTctx a.ctx ((s.tctxOf a.ctx).count a)).completeT a.ctx)) ∧
  (∀ (s : State) (a : Arrival) (rest : List Arrival), s.arrivals = a :: rest →
    ({ s with arrivals := rest } : State).arrivalCheck a = 0 → a.sys = true →
    (let g := tget 0 (s.sctxOf a.ctx).counts a.core
     exec .thresholdArrive s = .next ((({ s with arrivals := rest } : State).setSctx a.ctx { (s.sctxOf a.ctx).count a with
      latest := tset 0 (s.sctxOf a.ctx).latest g (max s.now (tget 0 (s.sctxOf a.ctx).latest g)) }).aggregate a.ctx))) ∧
  (∀ (s : State) (a : Arrival) (rest : List Arrival) (f : Nat), s.arrivals = a :: rest → f ≠ 0 →
    ({ s with arrivals := rest } : State).arrivalCheck a = f →
    (let u : State := { s with arrivals := rest }
     exec .thresholdArrive s = .next ((if a.sys then u.recordS a.ctx f s.node else u.recordT a.ctx f a.core).abortStep
      (s.partOf a.core) 3 f))) ∧
  (∀ (s : State) (k : Packet) (rest : List Packet), takeFirst (isToken 1) s.inbox = some (k, rest) → (s.part k.part).quieting = false →
    ({ s with inbox := rest } : State).tokenCheck k true = 0 → tkKind k.body = 1 → s.isStart (tkCtx k.body) = false →
    ∃ x : Ctx, exec .arriveToken s = .next ((({ s with inbox := rest } : State).setSctx (tkCtx k.body) x).aggregate (tkCtx k.body)) ∧
      tget 0 x.kids k.port = tget 0 (s.sctxOf (tkCtx k.body)).kids k.port + 1 ∧ x.counts = (s.sctxOf (tkCtx k.body)).counts) ∧
  (∀ (s : State) (k : Packet) (rest : List Packet), takeFirst (isToken 1) s.inbox = some (k, rest) → (s.part k.part).quieting = false →
    ({ s with inbox := rest } : State).tokenCheck k true = 0 → tkKind k.body = 1 → s.isStart (tkCtx k.body) = true →
    ∃ x : Ctx, exec .arriveToken s = .next ((({ s with inbox := rest } : State).setSctx (tkCtx k.body) x).aggregate (tkCtx k.body)) ∧
      tget 0 x.kids k.port = tkGen k.body + 1 ∧ tget 0 x.latest 0 = max (tkTb k.body) (tget 0 (s.sctxOf (tkCtx k.body)).latest 0)) ∧
  (∀ (s : State) (k : Packet) (rest : List Packet), takeFirst (isToken 2) s.inbox = some (k, rest) → (s.part k.part).quieting = false →
    ({ s with inbox := rest } : State).tokenCheck k false = 0 →
    exec .completeToken s = .next (({ s with inbox := rest } : State).applyS (tkCtx k.body) (tkTb k.body)))

/-- START_ARRIVE, outside a digest wait, a stopped pair, an update, an alarm, a power-down and a lower power state: drifted crossings
of a partition in no step are calibrated; then the first waiting step of the partition is made ready when Ranuat may arrive for its plan,
no serving boundary comes first and the plan is bound; without a waiting step, and with panes and crossings ready, the arrival is the
bare write of ARRIVE, a first attempt under the settings of the bound plan; it is withheld in the quiet period, while a load waits and
while the plan's weights are not loaded; with no start context it sets NO_CTX and the step fails. An awaited input digest is computed,
under the settings of the plan, before the arrival; where the plan's weights have failed meanwhile the step is refused instead. (From
R146, R155, R156, R160, R210, R211, R293, R305 and R435, in part.) -/
def Obligations.StepsArrive : Prop :=
  (∀ (s : State) (p : Nat) (sym : Syms) (areas : List Nat) (cals : List (Nat × Nat × Cal × Cal)), p < 16 →
    (s.part p).waitDigest = false → s.pairStopped = false → s.flag F.CTL_STATUS_UPDATING 0 = false →
    s.flag F.SEC_STATUS_TAMPERED 0 = false → s.boot.quiet = false → s.getF F.PWR_STATUS_STATE 0 = 0 →
    (let u := if s.inStep p then s else s.recalibrate p cals
     let v := if u.planBound p then u.planSettings p (u.runPlan p) else u
     let free := u.nextStepOf p = none ∧ u.panesReady p = true ∧ u.flag F.LATCH_START_WAITING p = false ∧ (u.part p).running = false
     let held := (u.part p).quieting = true ∨ (u.part p).loadWait = true ∨ (u.planBound p = true ∧ (u.runPlan p).weightsIn = false)
     (∀ r : StepReq, u.nextStepOf p = some r → u.mayArrive p r.plan = true → u.rowsHold p r = false → (u.plan r.plan).evicted = false →
      exec (.startArrive p sym areas cals) s = .next (({ u with steps := u.steps.erase r } : State).readyStep p sym r)) ∧
     (∀ r : StepReq, u.nextStepOf p = some r → (u.plan r.plan).weightState ≠ 3 → (u.mayArrive p r.plan = false ∨ u.rowsHold p r = true) →
      exec (.startArrive p sym areas cals) s = .next u) ∧
     (free → ¬ held → exec (.startArrive p sym areas cals) s =
        .next ((v.modPart p (fun x => { x with attempt := 0, tag := 0 })).arrive p sym)) ∧
     (free → held → exec (.startArrive p sym areas cals) s = .next u) ∧
     (free → ¬ held → v.startCtx p = none → ∃ t, exec (.startArrive p sym areas cals) s = .next t ∧ t.flag F.LATCH_START_NO_CTX p = true ∧
        (t.part p).lastFailed = true ∧ (t.part p).running = false))) ∧
  (∀ (s : State) (p : Nat) (sym : Syms), p < 16 → (s.part p).waitDigest = true → s.pairStopped = false →
    s.flag F.CTL_STATUS_UPDATING 0 = false → s.flag F.SEC_STATUS_TAMPERED 0 = false → s.boot.quiet = false →
    s.getF F.PWR_STATUS_STATE 0 = 0 → s.panesReady p = true → (s.part p).quieting = false →
    ((s.runPlan p).weightsIn = true →
      exec (.inputDigest p sym) s = .next (((s.planSettings p (s.runPlan p)).digest p sym).arrive p sym)) ∧
    ((s.runPlan p).weightState = 3 → ∃ t, exec (.inputDigest p sym) s = .next t ∧ (t.part p).waitDigest = false ∧
      (t.part p).lastFailed = true ∧ (t.part p).started = (s.part p).started ∧ (t.part p).running = (s.part p).running))

/-! ## Control messages (R155, R305, R312, R315 to R322, R330, R343, R344, R348, R365 to R374) -/

/-- A query that Ranuat takes, whose record it can write to ADDR, writes it and answers OK: PARTITION_INFO the share of the
partition (its layout is the model's), REQ_QUERY the request of the TAG. LOG_FLUSH copies the log buffer and answers OK. (From R322, R344,
R367 and R373, in part.) -/
def Obligations.QueriesAnswer : Prop :=
  (∀ (s v : State) (h : Ctl), s.Admits 4 h .both false true →
    (let u := s.takeEntry h
     u.putRecord h (u.shareRecord (if h.fn = 0 then leAt h.args 0 1 % 16 else h.part)) = (v, true)) →
    exec (.partitionInfo h) s = .next (v.answer 4 h (h.answer resOK))) ∧
  (∀ (s v : State) (h : Ctl) (tag i : Nat), s.Admits 9 h .vf false false →
    (let u := s.takeEntry h
     u.byTag h.part tag = some i ∧ u.putRecord h ((u.req i).bytes (u.serve h.part).cfg) = (v, true)) →
    exec (.reqQuery h tag) s = .next (v.answer 9 h (h.answer resOK))) ∧
  (∀ (s : State) (h : Ctl), s.Admits 0x13 h .pf false true →
    exec (.logFlush h) s = .next ((s.takeEntry h).logCopy.answer 0x13 h (h.answer resOK)))

/-- A setting that Ranuat takes, within the ranges named, is made and answered OK: the mask bits of a peephole; a ring of the
function that fits, with HEAD and TAIL 0 and, for a CTRL_SQ, its CTRL_CQ, and several rings in one message only when each of them
fits; the pinned mode of a partition, whose panes then keep the frequencies they hold; a queue pair connected, on which the waiting reads
then go. (From R305, R365, R367, R371 and R372, in part.) -/
def Obligations.SettingsTakeHold : Prop :=
  (∀ (s : State) (h : Ctl) (id mask : Nat) (on : Bool), s.Admits 0x0D h .both true false → id < 1024 → mask < 65536 →
    (if h.fn = 0 then 1 ≤ (s.takeEntry h).getF F.SEC_DEBUG_LEVEL 0 else mask = 2 ^ h.part ∧ id < 768) →
    (let u := s.takeEntry h
     let old := u.getF (peepFld id) (id / 4)
     exec (.peepEnable h id mask on) s = .next ((u.setF (peepFld id) (id / 4)
      (if on then old ||| mask else old &&& (65535 - mask))).answer 0x0D h (h.answer resOK)))) ∧
  (∀ (s : State) (h : Ctl) (x : RingSpec), s.Admits 0x0E h .both true true →
    (let u := s.takeEntry h
     let r : Ring := ⟨x.role, h.fn, x.off, x.log2n, x.vector, if x.role = 4 then 32 else 64, 0, 0, 0, 0, x.pair⟩
     u.ringRange h.fn x.k = true → (u.ring x.k).plan = 0 → u.ringFits h.fn x.k r = true →
     exec (.ringSetup h [x]) s =
      .next (((u.setRing x.k r).ringWrite r 0 (List.replicate 64 0)).answer 0x0E h (h.answer resOK)))) ∧
  (∀ (s t : State) (h : Ctl) (xs : List RingSpec), s.Admits 0x0E h .both true true →
    ((s.takeEntry h).setRings h.fn xs = (t, true) → exec (.ringSetup h xs) s = .next (t.answer 0x0E h (h.answer resOK))) ∧
    ((s.takeEntry h).setRings h.fn xs = (t, false) → exec (.ringSetup h xs) s = .next ((s.takeEntry h).answer 0x0E h (h.answer resRANGE)))) ∧
  (∀ (s : State) (h : Ctl) (part : Nat) (on : Bool), s.Admits 0x0F h .both true false →
    (let u := s.takeEntry h
     let p := if h.fn = 0 then part else h.part
     p < 16 → exec (.pin h part on) s =
      .next (((if on then u.keepPanes p else u).setF F.CTL_PIN_PINNED 0 (setBits (u.getF F.CTL_PIN_PINNED 0) p 1 (bit on))).answer 0x0F h (h.answer resOK)))) ∧
  (∀ (s : State) (h : Ctl) (jamb qp : Nat), s.Admits 0x0C h .vf true false →
    (let u := s.takeEntry h
     jamb < 2 → u.ownsQp h.part jamb qp = true → exec (.qpConnect h jamb qp true) s =
      .next ((u.setQp (jamb * 256 + qp) { u.qp (jamb * 256 + qp) with conn := true }).issueReads.answer 0x0C h (h.answer resOK))))

/-- A serving or sampler configuration that passes its checks, a customer entry and PRIO targets within
their ranges wait for the next boundary of the partition, and are answered OK; nothing else of the serving state changes yet. (From R315,
R317, R319 and R330, in part.) -/
def Obligations.ServingIsConfigured : Prop :=
  (∀ (s u : State) (h : Ctl) (c : List Byte), s.Admits 5 h .vf true false → h.len = 128 →
    (s.takeEntry h).payload h = (u, some c) → u.scCheck h.part c = 0 →
    exec (.serveConfig h) s = .next ((u.modServe h.part (fun x => { x with newCfg := some c })).answer 5 h (h.answer resOK))) ∧
  (∀ (s u : State) (h : Ctl) (c : List Byte), s.Admits 6 h .vf true false → h.len = 64 →
    (s.takeEntry h).payload h = (u, some c) → u.smpCheck h.part c = 0 →
    exec (.samplerConfig h) s = .next ((u.modServe h.part (fun x => { x with newSmp := some (true, c) })).answer 6 h (h.answer resOK))) ∧
  (∀ (s u : State) (h : Ctl) (id : Nat) (c : List Byte), s.Admits 7 h .vf true false → h.len = 64 →
    id < (s.takeEntry h).getF F.RQT_PART_CUST_COUNT h.part → (s.takeEntry h).payload h = (u, some c) →
    leAt c 0 1 = 1 → leAt c 1 1 < 2 → leAt c 2 1 ≤ 3 → leAt c 3 1 = 0 → leAt c 4 4 < 2 ^ 24 → leAt c 8 4 ≠ 0 → leAt c 8 4 < 2 ^ 24 →
    zeros (slice c 36 28) = true →
    exec (.customerSet h id) s = .next ((u.modServe h.part (fun x => { x with custs := x.custs ++ [(id, c)] })).answer 7 h (h.answer resOK))) ∧
  (∀ (s u : State) (h : Ctl) (c : List Byte), s.Admits 8 h .vf true false → h.len = 16 →
    (s.takeEntry h).payload h = (u, some c) → (∀ k < 4, leAt c (4 * k) 4 < 2 ^ 24) →
    exec (.prioSet h) s = .next ((u.modServe h.part (fun x =>
      { x with prios := some [leAt c 0 4, leAt c 4 4, leAt c 8 4, leAt c 12 4] })).answer 8 h (h.answer resOK)))

/-- A LOAD_PLAN that Ranuat takes at a partition in no step: an image that passes every check of the image, the placement and the
binding, after the evictions it needs, becomes resident under the next plan number on the cores bound for it, the region bases go to ADDR
(where and how is the model's: log entry 26), and the reply carries the number as HANDLE; an image that fails a check of the image is
answered OP_FAILED with what the first failing check reports, and nothing is loaded. In a step, the load waits. (From R155 to R159, R306
and R436, in part.) -/
def Obligations.PlanIsLoaded : Prop :=
  (∀ (s w : State) (h : Ctl) (g : Image) (x x' : Placing) (r : LoadRes) (ev cores : List Nat), s.Admits 1 h .vf true false →
    s.inStep h.part = false →
    (let u := (s.loadTaken h.part).takeEntry h
     (u.imageChecks h.part h.len g).code = 0 → u.placeChecks h.part g x = (r, x', ev) → r.code = 0 → x'.others = 0 →
     u.evictAll x'.sym ev x'.areas = (w, true) → bindCores (w.eligible h.part) g.n g.paneAlign = some cores →
     ∃ t v : State, t = ({ w with nextPlan := w.nextPlan + 1 } : State).resident g h.part w.nextPlan x' cores ∧
      v = { t with psec := tmod PSec.init t.psec h.part (fun y => { y with loaded := true }) } ∧
      exec (.loadPlan h g x) s = .next ((v.putRecord h (v.plan u.nextPlan).baseRecord).1.answer 1 h
        ⟨resOK, u.nextPlan, (plainRes 0).args⟩))) ∧
  (∀ (s : State) (h : Ctl) (g : Image) (x : Placing), s.Admits 1 h .vf true false → s.inStep h.part = false →
    (let u := (s.loadTaken h.part).takeEntry h
     let r := u.imageChecks h.part h.len g
     r.code ≠ 0 → exec (.loadPlan h g x) s = .next (u.answer 1 h ⟨resFAILED, 0, r.args⟩))) ∧
  (∀ (s : State) (h : Ctl) (g : Image) (x : Placing), s.loadWaits h = true →
    exec (.loadPlan h g x) s = .next (s.modPart h.part (fun y => { y with loadWait := true })))

/-- A resident plan of the function's partition is unloaded unless its step runs or awaits its input digest; a STEP with a value for each STEP
slot joins the queue of steps and is prepared; a weight load applies the entries of its source map, or waits for the end of the plan's
step when it is no repair; a load of an adapter that is neither resident nor loading and finds a slot joins the plan's adapter loads.
(From R157, R305, R306, R312, R368 and R369, in part.) -/
def Obligations.PlansAreUsed : Prop :=
  (∀ (s : State) (h : Ctl) (q : Plan), s.Admits 2 h .vf true false → (s.takeEntry h).handlePlan h = some q →
    ¬ (((s.takeEntry h).inStep h.part = true ∨ ((s.takeEntry h).part h.part).waitDigest = true) ∧ ((s.takeEntry h).part h.part).plan = h.handle) →
    exec (.unloadPlan h) s = .next (((s.takeEntry h).unload h.handle).answer 2 h (h.answer resOK))) ∧
  (∀ (s u : State) (h : Ctl) (q : Plan) (areas : List Nat) (sym : Syms) (vals : List Byte), s.Admits 3 h .vf true false →
    (s.takeEntry h).handlePlan h = some q → q.weightState ≠ 3 → h.len = 4 * q.stepCount →
    (s.takeEntry h).payload h = (u, some vals) →
    exec (.step h areas sym) s =
      .next (({ u with steps := u.steps ++ [⟨h.part, h.handle, h.tag, vals, 0, false, some (u.ring h.sq).pair⟩] } : State).prepare h.part sym areas)) ∧
  (∀ (s u : State) (h : Ctl) (sym : Syms) (q : Plan) (bs : List Byte), s.Admits 0x0A h .vf true false →
    (s.takeEntry h).handlePlan h = some q → h.len % 64 = 0 → h.len ≠ 0 → (s.takeEntry h).payload h = (u, some bs) →
    (let waits := u.inStep h.part ∧ (u.part h.part).plan = h.handle ∧ (u.plan h.handle).repairs (mapEntries bs) = false
     (¬ waits → exec (.weightLoad h sym) s = .next (u.mapApply h h.handle (mapEntries bs) sym)) ∧
     (waits → exec (.weightLoad h sym) s = .next (u.setPlan h.handle { u.plan h.handle with
      wlWait := (u.plan h.handle).wlWait ++ [(h, bs)] })))) ∧
  (∀ (s : State) (h : Ctl) (q : Plan) (a : AArea) (id rank len expect i : Nat) (e : List Byte), s.Admits 0x0B h .vf true false →
    (let u := (s.takeEntry h).readDirs h.handle
     u.handlePlan h = some q → (u.plan h.handle).area = some a →
     ¬ (id = 0 ∨ 2 ^ 32 ≤ id ∨ rank = 0 ∨ 256 < rank ∨ len = 0 ∨ a.size < len ∨ expect = 0) →
     u.adapterSlot h.handle id = none → q.aloads.any (fun l => l.id == id && l.state != 2) = false →
     smFieldsOk e = true → smKind e = 1 → u.smQpsOk h.part e = true → smStart e < segsOf len →
     u.chooseSlot h.part h.handle a = some i →
     ∃ v, v = (u.setPlan h.handle { q with
        aloads := q.aloads ++ [⟨id, rank, len, expect, smJamb e, smQp0 e, smQp1 e, leAt e 32 4, leAt e 36 4, leAt e 40 8, leAt e 48 8,
          false, i, smStart e, [], 0, h⟩] }).addF F.DMA_WLSTAT_ACTIVE (smJamb e) 1 ∧
      exec (.adapterLoad h id rank len expect e) s = .next (v.adaptersNow h.handle).issueReads))

/-- A CREATE of a FREE partition that R343 refuses for no reason draws a memory key that is not revoked, gives the partition's cores to it
and makes it ACTIVE; one that is refused only shows the first reason; the PF's message first writes the owners. A teardown of a
partition without resident plans, by the operator's register or by the PF's message, with no lock in its way and no descriptor in flight,
leaves what stages 2 to 5 leave: the partition FREE, its key, sessions, rings and step state gone, its cores, latches and tables
cleared; the scratchpad bytes of cleared cores read 0; the message is then answered OK. While a lock stands in its way the request
waits in the lock's queue, and with resident plans it only shows RESIDENT. (From R343, R346, R348 and R408, in part.) -/
def Obligations.PartitionsComeAndGo : Prop :=
  (∀ (s : State) (p : Nat), p < 16 → s.pairStopped = false → s.exists' p = false → s.createErr p = 0 →
    ∃ t, exec (.create p) s = .next t ∧ t.getF F.SEC_PCTL_STATE p = 1 ∧ t.key p = ⟨s.free + 1, false⟩ ∧
      (∀ n ∈ s.coresOf p, t.getF F.CORE_ID_PARTITION n = p) ∧ t.mem = s.mem ∧
      t.parts = s.parts ∧ ∀ q, q ≠ p → t.key q = s.key q) ∧
  (∀ (s : State) (p : Nat), p < 16 → s.pairStopped = false → s.exists' p = false → s.createErr p ≠ 0 →
    exec (.create p) s = .next (s.setF F.SEC_PCTL_ERR p (s.createErr p))) ∧
  (∀ (s : State) (h : Ctl) (p : Nat) (o : Owners), s.Admits 0x10 h .pf true false → p < 16 → o.ok = true →
    (let u := s.takeEntry h
     u.exists' p = false →
     ((u.setOwners p o).createErr p = 0 →
      ∃ t : State, exec (.partCreate h p o) s = .next (t.answer 0x10 h (h.answer resOK)) ∧ t.getF F.SEC_PCTL_STATE p = 1 ∧
        t.key p = ⟨u.free + 1, false⟩ ∧ t.getF F.SEC_PPANE_PANES p = o.panes ∧ t.getF F.SEC_PPORT_PORTS p = o.ports ∧
        t.getF F.SEC_PRING_BASE p = o.ringBase ∧ t.getF F.SEC_PRING_COUNT p = o.ringCount ∧
        ∀ n < 256, bitAt o.panes (n / 8) = true → t.getF F.CORE_ID_PARTITION n = p) ∧
     ((u.setOwners p o).createErr p ≠ 0 → exec (.partCreate h p o) s =
        .next (((u.setOwners p o).setF F.SEC_PCTL_ERR p ((u.setOwners p o).createErr p)).answer 0x10 h
          ⟨resFAILED, h.handle, leBytes 1 ((u.setOwners p o).createErr p)⟩)))) ∧
  (∀ (s : State) (p : Nat), p < 16 → s.pairStopped = false → (s.psecOf p).tear = false → s.exists' p = true → s.plansOf p = [] →
    s.locks = [] → s.lockQ = [] → s.debugWant = false → (∀ i ∈ s.chansOf p, (s.chan i).flight = []) →
    ∃ t, exec (.teardown p) s = .next t ∧ s.TornDown t p) ∧
  (∀ (s : State) (p : Nat), p < 16 → s.pairStopped = false → (s.psecOf p).tear = false → s.exists' p = true → s.plansOf p = [] →
    s.mayLock 5 p = false → s.locked 5 p = false → exec (.teardown p) s =
      .next ((s.modPsec p (fun x => { x with tear := true, tearCtl := none })).askLock 5 p)) ∧
  (∀ (s : State) (p : Nat), p < 16 → s.pairStopped = false → (s.psecOf p).tear = false → s.exists' p = true → s.plansOf p ≠ [] →
    exec (.teardown p) s = .next (s.setF F.SEC_PCTL_ERR p 4)) ∧
  (∀ (s : State) (h : Ctl) (p : Nat), s.Admits 0x11 h .pf false false → p < 16 →
    (let u := s.takeEntry h
     u.exists' p = true → (u.psecOf p).tear = false → u.plansOf p = [] → u.locks = [] → u.lockQ = [] → u.debugWant = false →
     (∀ i ∈ u.chansOf p, (u.chan i).flight = []) →
     ∃ v : State, exec (.partTeardown h p) s = .next (v.answer 0x11 h (h.answer resOK)) ∧ u.TornDown v p)) ∧
  (∀ (s : State) (ns : List Nat) (n a : Nat), n ∈ ns → a < spadSize → (s.clearCores ns).byte (spadAddr n a) = 0)

/-- A write of CTL_FWLOAD with GO, while an image may be loaded outside vestibule mode, starts the image of the window that passes every
check, and the start is over; a live update that passes its checks, with no lock, no waiting request and no pane change in its way, takes
the lock and goes to its first stage; once no partition is in a step, that stage writes the handover block and takes READY away; a new
image that knows the block's VERSION, with a block that holds, then runs from the other slot and the request is answered OK. An image
that starts runs from the window, whose slot becomes the running one. An update is abandoned when
its drain has lasted 100 ms or its handover 300 µs, the handover with RESULT TIMEOUT. (From R370, R374, R408 and R409, in part.) -/
def Obligations.FirmwareStarts : Prop :=
  (∀ (s : State) (v : Word64), bitAt v.toNat 0 = true →
    (let u := s.setF F.CTL_FWLOAD_LEN 0 (bitsOf v.toNat 32 21)
     let len := u.getF F.CTL_FWLOAD_LEN 0
     let w := u.fwStart (fiSvn (u.fwBytes 0 64)) (fiIface (u.fwBytes 0 64)) (sha384n (u.fwBytes 0 len)) 0
     u.fwWaits = true → u.fwCheck len true = fwOK → w.flag F.BOOT_STATUS_VESTIBULE 0 = false →
     exec (.fwload v true) s = .next (w.setFs 0 [(F.BOOT_STATUS_STAGE, 9), (F.BOOT_READY_TB_TB, w.now)]))) ∧
  (∀ (s : State) (h : Ctl) (good : Bool), s.Admits 0x12 h .pf false false → s.upd = none →
    (let u := s.takeEntry h
     let b := u.fwBytes 0 64
     u.fwCheck h.len true = fwOK → u.getF F.CTL_STATUS_SVN 0 ≤ fiSvn b → u.lockBlocked 3 0 u.lockQ = false → u.paneMoving = false →
     fiIface b = u.fw.iface →
     ∃ x : Upd, x = ⟨h, fiSvn b, fiIface b, sha384n (u.fwBytes 0 h.len), u.now, false⟩ ∧
      exec (.fwUpdate h true good) s =
        .next (({ (u.setF F.CTL_STATUS_UPDATING 0 1).takeLocks 3 [0] with upd := some x } : State).updateStage x good))) ∧
  (∀ (s : State) (x : Upd), s.upd = some x → x.taken = false → x.since + 100000000 ≤ s.now →
    exec .updateDrainTimeout s = .next s.abandonUpdate) ∧
  (∀ (s : State) (x : Upd), s.upd = some x → x.taken = true → x.since + 300000 ≤ s.now →
    ∃ t, exec .handoverTimeout s = .next t ∧ t.getF F.CTL_FWSTAT_RESULT 0 = fwTIMEOUT ∧ t.RegsBut s.abandonUpdate [(F.CTL_FWSTAT_RESULT, 0)]) ∧
  (∀ (s : State) (x : Upd) (sigOk good : Bool), s.upd = some x → x.ctl.fn ≤ 16 → s.idleSteps = true → x.taken = false →
    ∃ t, exec (.fwUpdate x.ctl sigOk good) s = .next t ∧ t.flag F.CTL_STATUS_READY 0 = false ∧ t.hand = s.handBlock ∧
      t.upd = some { x with taken := true, since := s.now } ∧ s.RegsBut t [(F.CTL_STATUS_READY, 0)]) ∧
  (∀ (s : State) (x : Upd) (sigOk : Bool), s.upd = some x → x.ctl.fn ≤ 16 → s.idleSteps = true → x.taken = true → handOk s.hand = true →
    exec (.fwUpdate x.ctl sigOk true) s =
      .next ((s.oldSlot.fwStart x.svn x.iface x.digest (1 - s.getF F.CTL_STATUS_SLOT 0)).answer 0x12 x.ctl (x.ctl.answer resOK))) ∧
  (∀ (s : State) (svn iface digest slot : Nat), svn < 2 ^ F.CTL_STATUS_SVN.w → slot < 2 →
    (let t := s.fwStart svn iface digest slot
     t.fwrun = s.fwin ∧ t.fwin = s.fwrun ∧ t.fw.iface = iface ∧ t.fw.digest = digest ∧ t.flag F.CTL_STATUS_READY 0 = true ∧
     t.getF F.CTL_STATUS_SVN 0 = svn ∧ t.getF F.CTL_STATUS_SLOT 0 = slot ∧ t.getF F.CTL_FWSTAT_RESULT 0 = 1 ∧
     s.RegsBut t [(F.CTL_STATUS_SVN, 0), (F.CTL_STATUS_SLOT, 0), (F.CTL_STATUS_READY, 0), (F.CTL_FWSTAT_RESULT, 0),
       (F.CTL_CDIG_DIGEST, 0)]))

/-! ## Memory (R171 to R187, R248) -/

/-- In RUN, while the channel serves: under a key that is not revoked a write of a whole granule of HBM or cellar stores its 64 bytes
under the owner's key, clears the poison and the symbols in error, and changes no other byte and no register; a write of less than a granule
replaces its own bytes and keeps every other byte, under the owner's key, where the granule is not poisoned, has at most three symbols in
error and was written under the key of its partition; where it is poisoned or has more, it writes nothing, poisons the granule and records
PARTIAL_POISON when MEM_ERR is free. A write under a revoked key is discarded. A write of Ranuat to the scratchpad window of a core that runs
no step stores its bytes there and nowhere else. (From R170, R179, R180, R185 and R347, in part.) -/
def Obligations.GranuleIsWritten : Prop :=
  (∀ (s : State) (g p sym : Nat) (data : List Byte), g < 2 ^ 42 → data.length = 64 →
    (s.place (64 * g) = .hbm ∨ s.place (64 * g) = .cellar) → s.ownerOf (64 * g) = some p →
    s.dark = false → s.getF F.PWR_STATUS_STATE 0 = 0 →
    tget 0 s.unavail ((s.chanOf p (64 * g)).1 + 256 * (s.chanOf p (64 * g)).2) ≤ s.now → (s.key p).revoked = false →
    ∃ t, exec (.memAccess g true 0 data sym) s = .next t ∧ t.bytes (64 * g) 64 = data ∧ s.BytesBut t (64 * g) 64 ∧
      t.gran' g = ⟨(s.key p).id, false⟩ ∧ t.flaw g = 0 ∧ (∀ h, h ≠ g → t.gran' h = s.gran' h ∧ t.flaw h = s.flaw h) ∧
      t.regs = s.regs) ∧
  (∀ (s : State) (g p off sym : Nat) (data : List Byte), g < 2 ^ 42 → off + data.length ≤ 64 → ¬ (off = 0 ∧ data.length = 64) →
    (s.place (64 * g) = .hbm ∨ s.place (64 * g) = .cellar) → s.ownerOf (64 * g) = some p →
    s.dark = false → s.getF F.PWR_STATUS_STATE 0 = 0 →
    tget 0 s.unavail ((s.chanOf p (64 * g)).1 + 256 * (s.chanOf p (64 * g)).2) ≤ s.now → (s.key p).revoked = false →
    (s.gran' g).poison = false → s.errors g sym < 4 → ((s.gran' g).key = 0 ∨ (s.gran' g).key = (s.key p).id) →
    ∃ t, exec (.memAccess g true off data sym) s = .next t ∧ t.bytes (64 * g + off) data.length = data ∧
      s.BytesBut t (64 * g + off) data.length ∧ t.gran' g = ⟨(s.key p).id, false⟩ ∧ t.flaw g = 0) ∧
  (∀ (s : State) (g p off sym : Nat) (data : List Byte), g < 2 ^ 42 → off + data.length ≤ 64 → ¬ (off = 0 ∧ data.length = 64) →
    (s.place (64 * g) = .hbm ∨ s.place (64 * g) = .cellar) → s.ownerOf (64 * g) = some p →
    s.dark = false → s.getF F.PWR_STATUS_STATE 0 = 0 →
    tget 0 s.unavail ((s.chanOf p (64 * g)).1 + 256 * (s.chanOf p (64 * g)).2) ≤ s.now → (s.key p).revoked = false →
    ((s.gran' g).poison = true ∨ 4 ≤ s.errors g sym) → s.flag F.MEM_ERR_VALID 0 = false →
    ∃ t, exec (.memAccess g true off data sym) s = .next t ∧ t.mem = s.mem ∧ t.gran' g = { s.gran' g with poison := true } ∧
      (∀ h, h ≠ g → t.gran' h = s.gran' h) ∧ t.flag F.MEM_ERR_VALID 0 = true ∧
      t.getF F.MEM_ERR_CAUSE 0 = causePARTIAL_POISON ∧ t.getF F.MEM_ERR_ADDR_ADDR 0 = 64 * g) ∧
  (∀ (s : State) (g p off sym : Nat) (data : List Byte), g < 2 ^ 42 → off + data.length ≤ 64 →
    (s.place (64 * g) = .hbm ∨ s.place (64 * g) = .cellar) → s.ownerOf (64 * g) = some p →
    s.dark = false → s.getF F.PWR_STATUS_STATE 0 = 0 →
    tget 0 s.unavail ((s.chanOf p (64 * g)).1 + 256 * (s.chanOf p (64 * g)).2) ≤ s.now → (s.key p).revoked = true →
    ∃ t, exec (.memAccess g true off data sym) s = .next t ∧ t.mem = s.mem ∧ t.gran = s.gran ∧ t.flaws = s.flaws ∧
      t.regs = s.regs) ∧
  (∀ (s : State) (g n o off sym : Nat) (data : List Byte), g < 2 ^ 42 → off + data.length ≤ 64 → s.place (64 * g) = .window n o →
    s.refreshing (64 * g) = false → s.dark = false → s.getF F.PWR_STATUS_STATE 0 = 0 → s.coreIn n = false →
    ∃ t, exec (.memAccess g true off data sym) s = .next t ∧ t = { s with mem := t.mem } ∧
      t.bytes (64 * g + off) data.length = data ∧ s.BytesBut t (64 * g + off) data.length)

/-- In RUN, while the channel serves, a read of a granule: under a revoked key it is refused with KEY; of a poisoned granule it is
refused with POISON_READ; with one to three symbols in error, kept or new, it is corrected and counted by tier; with four or more the
granule is poisoned and the cause is UNCORR_READ. MEM_ERR, when it is free, records the address, the partition and the cause. A read
changes no byte. A read of an address where nothing is mapped takes a bus error and records UNMAPPED. (From R169, R178, R184, R185, R187 and
R347, in part.) -/
def Obligations.ReadsAreChecked : Prop :=
  (∀ (s : State) (g p sym : Nat), g < 2 ^ 42 → (s.place (64 * g) = .hbm ∨ s.place (64 * g) = .cellar) → s.ownerOf (64 * g) = some p →
    s.dark = false → s.getF F.PWR_STATUS_STATE 0 = 0 →
    tget 0 s.unavail ((s.chanOf p (64 * g)).1 + 256 * (s.chanOf p (64 * g)).2) ≤ s.now → (s.key p).revoked = false →
    (s.gran' g).poison = false → 1 ≤ s.errors g sym → s.errors g sym < 4 →
    ∃ t f, exec (.memAccess g false 0 [] sym) s = .next t ∧
      f = (if (s.chanOf p (64 * g)).2 = 0 then F.MEM_ECC_HBM_CE else F.MEM_ECC_CEL_CE) ∧
      t.getF f 0 = satAdd f.w (s.getF f 0) 1 ∧ s.RegsBut t [(f, 0)] ∧ t.mem = s.mem ∧ t.gran = s.gran ∧
      t.flaw g = s.errors g sym) ∧
  (∀ (s : State) (g p sym : Nat), g < 2 ^ 42 → (s.place (64 * g) = .hbm ∨ s.place (64 * g) = .cellar) → s.ownerOf (64 * g) = some p →
    s.dark = false → s.getF F.PWR_STATUS_STATE 0 = 0 →
    tget 0 s.unavail ((s.chanOf p (64 * g)).1 + 256 * (s.chanOf p (64 * g)).2) ≤ s.now → (s.key p).revoked = false →
    (s.gran' g).poison = false → 4 ≤ s.errors g sym → s.flag F.MEM_ERR_VALID 0 = false →
    ∃ t, exec (.memAccess g false 0 [] sym) s = .next t ∧ t.mem = s.mem ∧ (t.gran' g).poison = true ∧
      t.flag F.MEM_ERR_VALID 0 = true ∧ t.getF F.MEM_ERR_CAUSE 0 = 1 ∧ t.getF F.MEM_ERR_ADDR_ADDR 0 = 64 * g ∧
      t.getF F.MEM_ERR_PARTITION 0 = p % 2 ^ F.MEM_ERR_PARTITION.w ∧ (∀ h, h ≠ g → t.gran' h = s.gran' h)) ∧
  (∀ (s : State) (g p sym : Nat), g < 2 ^ 42 → (s.place (64 * g) = .hbm ∨ s.place (64 * g) = .cellar) → s.ownerOf (64 * g) = some p →
    s.dark = false → s.getF F.PWR_STATUS_STATE 0 = 0 →
    tget 0 s.unavail ((s.chanOf p (64 * g)).1 + 256 * (s.chanOf p (64 * g)).2) ≤ s.now → (s.key p).revoked = true → s.flag F.MEM_ERR_VALID 0 = false →
    (s.readGran g sym).2 = .refused causeKEY ∧
    ∃ t, exec (.memAccess g false 0 [] sym) s = .next t ∧ t.mem = s.mem ∧ t.gran = s.gran ∧ t.flaws = s.flaws ∧
      t.flag F.MEM_ERR_VALID 0 = true ∧ t.getF F.MEM_ERR_CAUSE 0 = causeKEY ∧ t.getF F.MEM_ERR_ADDR_ADDR 0 = 64 * g ∧
      t.getF F.MEM_ERR_PARTITION 0 = p % 2 ^ F.MEM_ERR_PARTITION.w) ∧
  (∀ (s : State) (g p sym : Nat), g < 2 ^ 42 → (s.place (64 * g) = .hbm ∨ s.place (64 * g) = .cellar) → s.ownerOf (64 * g) = some p →
    s.dark = false → s.getF F.PWR_STATUS_STATE 0 = 0 →
    tget 0 s.unavail ((s.chanOf p (64 * g)).1 + 256 * (s.chanOf p (64 * g)).2) ≤ s.now → (s.key p).revoked = false →
    (s.gran' g).poison = true → s.flag F.MEM_ERR_VALID 0 = false →
    (s.readGran g sym).2 = .refused causePOISON_READ ∧
    ∃ t, exec (.memAccess g false 0 [] sym) s = .next t ∧ t.mem = s.mem ∧ t.gran = s.gran ∧ t.flaws = s.flaws ∧
      t.flag F.MEM_ERR_VALID 0 = true ∧ t.getF F.MEM_ERR_CAUSE 0 = causePOISON_READ ∧ t.getF F.MEM_ERR_ADDR_ADDR 0 = 64 * g ∧
      t.getF F.MEM_ERR_PARTITION 0 = p % 2 ^ F.MEM_ERR_PARTITION.w) ∧
  (∀ (s : State) (g sym : Nat), g < 2 ^ 42 → s.place (64 * g) = .unmapped → s.ownerOf (64 * g) = none →
    s.dark = false → s.getF F.PWR_STATUS_STATE 0 = 0 → s.flag F.MEM_ERR_VALID 0 = false →
    ∃ t, exec (.memAccess g false 0 [] sym) s = .next t ∧ t.mem = s.mem ∧ t.busErrs = s.busErrs + 1 ∧
      t.flag F.MEM_ERR_VALID 0 = true ∧ t.getF F.MEM_ERR_CAUSE 0 = 6 ∧ t.getF F.MEM_ERR_ADDR_ADDR 0 = 64 * g)

/-- HBM channel h refreshes at every timebase value t with (t − 14h) mod 3,900 = 0 (1,950 for a hot stack) and is unavailable
for 137 ns; a populated cellar channel c at every t with (t − 180c) mod 3,000 = 0, for 180 ns. Nothing else changes, the variance
counter included, and at another instant nothing happens. (From R181 and R183, in part.) -/
def Obligations.RefreshRuns : Prop :=
  (∀ (s : State) (h : Nat), h < 256 → s.dark = false →
    ((s.now : Int) - 14 * h) % (if s.hot h then 1950 else 3900) = 0 →
    ∃ t, exec (.hbmRefresh h) s = .next t ∧ t = { s with unavail := t.unavail } ∧ tget 0 t.unavail h = s.now + 137 ∧
      ∀ c, c ≠ h → tget 0 t.unavail c = tget 0 s.unavail c) ∧
  (∀ (s : State) (h : Nat), h < 256 →
    (s.dark = true ∨ ((s.now : Int) - 14 * h) % (if s.hot h then 1950 else 3900) ≠ 0) →
    exec (.hbmRefresh h) s = .next s) ∧
  (∀ (s : State) (c : Nat), c < 16 → s.dark = false → c < s.cellarChans → ((s.now : Int) - 180 * c) % 3000 = 0 →
    ∃ t, exec (.cellarRefresh c) s = .next t ∧ t = { s with unavail := t.unavail } ∧ tget 0 t.unavail (256 + c) = s.now + 180 ∧
      ∀ d, d ≠ 256 + c → tget 0 t.unavail d = tget 0 s.unavail d) ∧
  (∀ (s : State) (c : Nat), c < 16 → ¬ (s.dark = false ∧ c < s.cellarChans ∧ ((s.now : Int) - 180 * c) % 3000 = 0) →
    exec (.cellarRefresh c) s = .next s)

/-- In RUN the scrub, when it is on, no other activity has its next granule's channel and the channel serves, takes the channel's
lock, reads the granule and goes on: a corrected granule keeps its contents and has no symbol in error left, an uncorrectable one is poisoned
and recorded; no byte changes. While another activity has the channel it pauses with HELD and stays where it is; a scrub that is off holds no
channel and is not HELD. The end of a 10 ms window clears the counts of what was served; the first block above the ratio stands in MEM_SKEW
when no advisory does, and every such block counts; within a window nothing happens. A stack that reports above 85 °C is hot until it reports
80 °C or below. (From R176, R183 and R186, in part.) -/
def Obligations.PatrolAndMonitor : Prop :=
  (∀ (s : State) (g sym : Nat), s.dark = false → s.getF F.PWR_STATUS_STATE 0 = 0 → s.getF F.MEM_CTRL_SCRUB_H 0 ≠ 0 →
    scrubGran s.blocks s.scrubPos = some g →
    (let p := (s.ownerOf (64 * g)).getD 0
     let c := (s.chanOf p (64 * g)).1 + 256 * (s.chanOf p (64 * g)).2
     let u := s.endSlice (some c)
     (u.scrubHeld c = false → tget 0 s.unavail c ≤ s.now → (s.gran' g).poison = false → 4 ≤ s.errors g sym →
      ∃ t, exec (.patrolScrub sym) s = .next t ∧ t.mem = s.mem ∧ (t.gran' g).poison = true ∧ t.flag F.MEM_ERR_VALID 0 = true ∧
        t.locked 1 c = true ∧ t.flag F.MEM_SCRUB_HELD 0 = false) ∧
     (u.scrubHeld c = false → tget 0 s.unavail c ≤ s.now → (s.gran' g).poison = false → s.errors g sym < 4 →
      ∃ t, exec (.patrolScrub sym) s = .next t ∧ t.mem = s.mem ∧ t.gran = s.gran ∧ t.flaw g = 0 ∧
        (t.scrubPos = s.scrubPos + 1 ∨ t.scrubPos = 0) ∧ t.locked 1 c = true) ∧
     (u.scrubHeld c = true → ∃ t, exec (.patrolScrub sym) s = .next t ∧ t.mem = s.mem ∧ t.gran = s.gran ∧
        t.scrubPos = s.scrubPos ∧ t.flag F.MEM_SCRUB_HELD 0 = true))) ∧
  (∀ (s : State) (sym : Nat), s.dark = false → s.getF F.PWR_STATUS_STATE 0 = 0 → s.getF F.MEM_CTRL_SCRUB_H 0 = 0 →
    ∃ t, exec (.patrolScrub sym) s = .next t ∧ t.mem = s.mem ∧ t.gran = s.gran ∧ t.flaws = s.flaws ∧ t.scrubPos = s.scrubPos ∧
      t.flag F.MEM_SCRUB_HELD 0 = false ∧ ∀ c, t.locked 1 c = false) ∧
  (∀ s : State, s.windowNo ≠ s.skewWin →
    ∃ t, exec .skewWindow s = .next t ∧ t.served = [] ∧ t.skewWin = s.windowNo ∧ t.mem = s.mem ∧ t.gran = s.gran ∧
      t.getF F.MEM_SKEW_WINDOWS 0 = satAdd F.MEM_SKEW_WINDOWS.w (s.getF F.MEM_SKEW_WINDOWS 0)
        ((List.range 32).filter (fun b => (s.skewed (b % 16) (b / 16)).isSome)).length) ∧
  (∀ s : State, s.windowNo = s.skewWin → exec .skewWindow s = .next s) ∧
  (∀ (s : State) (p ch r : Nat), s.windowNo ≠ s.skewWin → s.skewed p 0 = some (ch, r) → p < 16 → (∀ q < p, s.skewed q 0 = none) →
    s.flag F.MEM_CTRL_SKEW_EN 0 = true → s.flag F.MEM_SKEW_ADVISORY 0 = false →
    ∃ t, exec .skewWindow s = .next t ∧ t.flag F.MEM_SKEW_ADVISORY 0 = true ∧ t.getF F.MEM_SKEW_PARTITION 0 = p ∧
      t.getF F.MEM_SKEW_TIER 0 = 0 ∧ t.getF F.MEM_SKEW_CHANNEL 0 = ch % 2 ^ F.MEM_SKEW_CHANNEL.w) ∧
  (∀ (s : State) (stack temp : Nat), stack < 8 → temp < 256 →
    ∃ t, exec (.hbmTempReport stack temp) s = .next t ∧ s.Only t [(F.MEM_STATUS_HOT, 0), (F.PWR_TEMP1_STACK, 0)] ∧
      (85 < temp → bitAt (t.getF F.MEM_STATUS_HOT 0) stack = true) ∧ (temp ≤ 80 → bitAt (t.getF F.MEM_STATUS_HOT 0) stack = false) ∧
      (80 < temp → temp ≤ 85 → bitAt (t.getF F.MEM_STATUS_HOT 0) stack = bitAt (s.getF F.MEM_STATUS_HOT 0) stack) ∧
      bitsOf (t.getF F.PWR_TEMP1_STACK 0) (8 * stack) 8 = temp ∧
      ∀ k, k < 8 → k ≠ stack → bitAt (t.getF F.MEM_STATUS_HOT 0) k = bitAt (s.getF F.MEM_STATUS_HOT 0) k)

/-- A write of a channel block of a partition without plans, of a size and place the rule allows and without a clash, takes the block,
and what memory holds, keys and poison marks included, is found again at the addresses that now reach the same channel and offset; every other
write changes nothing. (From R172 to R174, in part.) -/
def Obligations.BlocksAreSet : Prop :=
  (∀ (s : State) (p : Nat) (v : Word64), p < 16 →
    (let first := bitsOf v.toNat 0 8
     let k := bitsOf v.toNat 8 4
     let bad := s.plansOf p ≠ [] ∨ k < 3 ∨ 8 < k ∨ first % 2 ^ k ≠ 0 ∨ s.clashes p 0 first (2 ^ k) = true
     ∃ t, exec (.memPhbmWrite p v) s = .next t ∧
     t = { s with regs := t.regs, mem := t.mem, gran := t.gran, flaws := t.flaws, scrubPos := t.scrubPos } ∧
      s.RegsBut t [(F.MEM_PHBM_FIRST, p), (F.MEM_PHBM_LOG2C, p), (F.MEM_PHBM_EN, p)] ∧ (bad → t = s) ∧
      (¬ bad → t.getF F.MEM_PHBM_FIRST p = first ∧ t.getF F.MEM_PHBM_LOG2C p = k ∧ t.getF F.MEM_PHBM_EN p = bitsOf v.toNat 16 1 ∧
        t.mem = s.mem.foldl (fun m e => tset memDefault m (t.addressOf (s.locate e.1)) e.2) [] ∧
        t.gran = s.gran.foldl (fun m e => tset Gran.init m (t.addressOf (s.locate (64 * e.1)) / 64) e.2) []))) ∧
  (∀ (s : State) (p : Nat) (v : Word64), p < 16 →
    (let first := bitsOf v.toNat 0 4
     let k := bitsOf v.toNat 8 3
     let bad := s.plansOf p ≠ [] ∨ 4 < k ∨ first % 2 ^ k ≠ 0 ∨ s.clashes p 1 first (2 ^ k) = true
     ∃ t, exec (.memPcelWrite p v) s = .next t ∧
     t = { s with regs := t.regs, mem := t.mem, gran := t.gran, flaws := t.flaws, scrubPos := t.scrubPos } ∧
      s.RegsBut t [(F.MEM_PCEL_FIRST, p), (F.MEM_PCEL_LOG2C, p), (F.MEM_PCEL_EN, p)] ∧ (bad → t = s) ∧
      (¬ bad → t.getF F.MEM_PCEL_FIRST p = first ∧ t.getF F.MEM_PCEL_LOG2C p = k ∧ t.getF F.MEM_PCEL_EN p = bitsOf v.toNat 16 1 ∧
        t.mem = s.mem.foldl (fun m e => tset memDefault m (t.addressOf (s.locate e.1)) e.2) [] ∧
        t.gran = s.gran.foldl (fun m e => tset Gran.init m (t.addressOf (s.locate (64 * e.1)) / 64) e.2) [])))

/-- In RUN the first waiting request of another package is served and answered once, on VC4 when it came on VC3 or later and on VC0 when it
was planned, to the node that sent it, with its address, partition and TAG; a request that is not aligned, of a length outside 64 to
4,064, or outside its partition, is answered RANGE and moves nothing. A response returns to the requester its TAG names, which is then no
longer outstanding; one for a stopped pane waits. (From R212, R213 and R248, in part; the answer to a length outside the bounds is the
model's, log entry 69.) -/
def Obligations.RemoteMemoryAnswers : Prop :=
  (∀ (s u : State) (k : Packet) (rest : List Packet) (sym : Syms) (st : Nat) (data : List Byte), s.getF F.PWR_STATUS_STATE 0 = 0 →
    takeFirst (fun k => k.ptype == ptMEM_RD || k.ptype == ptMEM_WR) s.inbox = some (k, rest) →
    ({ s with inbox := rest } : State).serveReq k sym = (u, st, data) →
    ∃ a, exec (.memRequest sym) s = .next (u.inject a) ∧ a.ptype = ptMEM_RSP ∧ a.dnode = k.snode ∧
      a.vc = (if 3 ≤ k.vc then 4 else 0) ∧ a.body =
        reqBlock (leAt k.body 0 6) (leAt k.body 6 1 % 16) st (leAt k.body 8 2) 0 ++ data) ∧
  (∀ (s : State) (k : Packet) (sym : Syms),
    (let a := leAt k.body 0 6
     let n := if k.ptype = ptMEM_RD then leAt k.body 10 2 else k.body.length - 16
     a % 64 ≠ 0 ∨ n = 0 ∨ n % 64 ≠ 0 ∨ 4064 < n ∨ s.ownsRange (leAt k.body 6 1 % 16) a (a + n - 1) = false →
     ∃ u, s.serveReq k sym = (u, 1, []) ∧ u.mem = s.mem ∧ u.gran = s.gran)) ∧
  (∀ (s : State) (k : Packet) (rest : List Packet) (tag : Nat) (r : Requester),
    takeFirst (fun k => k.ptype == ptMEM_RSP && !s.rspHeld k) s.inbox = some (k, rest) → s.tagged (leAt k.body 8 2) = some (tag, r) →
    exec .memResponse s = .next (({ s with inbox := rest, tags := s.tags.filter (fun x => x.1 != tag) } : State).respond r
      (leAt k.body 7 1) (k.body.drop 16))) ∧
  (∀ s : State, (∀ k ∈ s.inbox, k.ptype = ptMEM_RSP → s.rspHeld k = true) → exec .memResponse s = .next s)

/-! ## DMA and Reed–Solomon (R189 to R203, R410 to R412) -/

/-- A DMA doorbell below the ring size becomes TAIL, BUSY follows, and a package that sleeps is to wake; one at or above it changes
nothing. STOP of a channel with nothing in flight sets STOPPED; with descriptors in flight the channel issues nothing more, and they end in
their order. RESUME clears the stops and the error bits, and retries a failed write-back. A doorbell of a Reed–Solomon ring below its size
becomes its tail. (From R192, R193, R203, R410 and R426, in part.) -/
def Obligations.RingsAreDriven : Prop :=
  (∀ (s : State) (jamb c : Nat) (v : Word64), jamb < 2 → c < 32 →
    (let i := jamb * 32 + c
     bitsOf v.toNat 0 16 < 2 ^ s.getF F.DMA_RING_LOG2N i →
     ∃ t, exec (.dmaDoorbell jamb c v) s = .next t ∧ t.getF F.DMA_TAIL_TAIL i = bitsOf v.toNat 0 16 ∧
      t = { s with regs := t.regs, waking := s.waking || s.asleep } ∧
      s.RegsBut t [(F.DMA_TAIL_TAIL, i), (F.DMA_CHSTAT_BUSY, i), (F.DMA_ACTIVE_BUSY, jamb), (F.DMA_POOL_USED_KIB, jamb)] ∧
      (t.flag F.DMA_CHSTAT_BUSY i = true ↔ (s.chan i).flight ≠ [] ∨ s.getF F.DMA_HEAD_HEAD i ≠ bitsOf v.toNat 0 16))) ∧
  (∀ (s : State) (jamb c : Nat) (v : Word64), jamb < 2 → c < 32 →
    2 ^ s.getF F.DMA_RING_LOG2N (jamb * 32 + c) ≤ bitsOf v.toNat 0 16 → exec (.dmaDoorbell jamb c v) s = .next s) ∧
  (∀ (s : State) (jamb c : Nat) (v : Word64), jamb < 2 → c < 32 → v.toNat % 4 = 1 → (s.chan (jamb * 32 + c)).flight = [] →
    ∃ t, exec (.dmaStop jamb c v) s = .next t ∧ t.flag F.DMA_CHSTAT_STOPPED (jamb * 32 + c) = true ∧
      (t.chan (jamb * 32 + c)).flight = [] ∧ t.mem = s.mem) ∧
  (∀ (s : State) (jamb c : Nat) (v : Word64), jamb < 2 → c < 32 → v.toNat % 4 = 1 → (s.chan (jamb * 32 + c)).flight ≠ [] →
    ∃ t, exec (.dmaStop jamb c v) s = .next t ∧ (t.chan (jamb * 32 + c)).stopping = true ∧
      (t.chan (jamb * 32 + c)).flight = (s.chan (jamb * 32 + c)).flight.map DmaDesc.stopped ∧ t.mem = s.mem ∧
      ∀ j d, t.mayMove (jamb * 32 + c) j d = false) ∧
  (∀ (s : State) (jamb c : Nat) (v : Word64), jamb < 2 → c < 32 → v.toNat % 4 = 2 →
    s.boot.quiet = false → (s.chan (jamb * 32 + c)).halt ≠ 2 →
    ∃ t, exec (.dmaResume jamb c v) s = .next t ∧ t.flag F.DMA_CHSTAT_STOPPED (jamb * 32 + c) = false ∧
      t.flag F.DMA_CHSTAT_FETCH_ERR (jamb * 32 + c) = false ∧ t.flag F.DMA_CHSTAT_WB_ERR (jamb * 32 + c) = false ∧
      t.chanStopped (jamb * 32 + c) = false ∧ t.mem = s.mem) ∧
  (∀ (s : State) (jamb c : Nat) (v : Word64) (d : DmaDesc) (rest : List DmaDesc), jamb < 2 → c < 32 → v.toNat % 4 = 2 →
    (let i := jamb * 32 + c
     s.boot.quiet = false → (s.chan i).halt = 2 → (s.chan i).flight = d :: rest →
     exec (.dmaResume jamb c v) s = .next
      (((s.setFs i [(F.DMA_CHSTAT_STOPPED, 0), (F.DMA_CHSTAT_FETCH_ERR, 0), (F.DMA_CHSTAT_WB_ERR, 0)]).setChan i
        { s.chan i with stopping := false, halt := 0 }).writeBack i d))) ∧
  (∀ (s : State) (jamb p : Nat) (v : Word64), jamb < 2 → p < 16 →
    (let i := jamb * 16 + p
     bitsOf v.toNat 0 16 < 2 ^ s.getF F.DMA_RSCFG_LOG2N i →
     ∃ t, exec (.rsDoorbell jamb p v) s = .next t ∧ t.getF F.DMA_RSTAIL_INDEX i = bitsOf v.toNat 0 16 ∧
      t = { s with regs := t.regs, waking := s.waking || s.asleep } ∧
      s.RegsBut t [(F.DMA_RSTAIL_INDEX, i), (F.DMA_RSSTAT_BUSY, i)]))

/-- In RUN, a channel that may fetch reads its next descriptor, checks it and keeps it in flight. A descriptor that may move, and is
not bounced, reads its next piece (from memory, from the host, or by a request to another package) and gives it to its write. One that is
bounced moves a whole record: an incoming record is refused, with TAG_FAIL for a header other than the descriptor's or a tag that does not
verify and SEQ_FAIL for a SEQ neither above the highest accepted nor new among the 64 below it, and ends the descriptor with 0x20; an
accepted one counts, and its SEQ is not accepted again; an outgoing one is the header, the ciphertext and the tag, numbered in order. No
record moves after 2^40. The oldest descriptor, once it has a final status, is written back with it and leaves the ring; a refused
write-back stops the channel with WB_ERR. A descriptor whose awaited response does not come ends with status 0x22, and 0x24 in a stop. (From
R193, R197, R199, R201, R203, R355 and R356, in part; which counter a wrong header counts in is the model's, log entry 36.) -/
def Obligations.DescriptorsMove : Prop :=
  (∀ (s u : State) (jamb c : Nat) (sym : Syms) (b : List Byte), jamb < 2 → c < 32 →
    (let i := jamb * 32 + c
     let a := s.slotAddr i (s.chan i).next
     s.getF F.PWR_STATUS_STATE 0 = 0 → s.flag F.DMA_CHCFG_EN i = true → s.chanStopped i = false →
     (s.chan i).next ≠ s.getF F.DMA_TAIL_TAIL i → (s.markAt a).read a 64 sym = (u, .ok b) →
     exec (.descriptorFetch jamb c sym) s = .next (((u.descRefused i b).setChan i { s.chan i with
        flight := (s.chan i).flight ++ [⟨(s.chan i).next, b, u.descCheck i b, 0, 0, 0, 0, []⟩]
        next := ((s.chan i).next + 1) % 2 ^ u.getF F.DMA_RING_LOG2N i }).dmaBusy i) ∧
     (u.descCheck i b ≠ 0x15 → u.descRefused i b = u))) ∧
  (∀ (s u : State) (jamb c j a : Nat) (sym : Syms) (host : HostData) (d : DmaDesc) (bs : List Byte), jamb < 2 → c < 32 →
    (let i := jamb * 32 + c
     (s.chan i).flight[j]? = some d → s.mayMove i j d = true → s.byRecord i d = false →
     s.side d.bytes false d.at' = .here a → s.dmaRead (s.chanOwner i) a (pieceLen d.bytes d.at') sym = (u, .ok bs) →
     exec (.dmaPiece jamb c j sym host) s = .next (u.putPiece i j d sym bs host.ok))) ∧
  (∀ (s : State) (jamb c j a : Nat) (sym : Syms) (host : HostData) (d : DmaDesc), jamb < 2 → c < 32 →
    (let i := jamb * 32 + c
     (s.chan i).flight[j]? = some d → s.mayMove i j d = true → s.byRecord i d = false →
     s.side d.bytes false d.at' = .host a → host.ok = true →
     exec (.dmaPiece jamb c j sym host) s =
      .next (s.putPiece i j d sym (padTo (pieceLen d.bytes d.at') host.bytes) true))) ∧
  (∀ (s : State) (jamb c j node a : Nat) (sym : Syms) (host : HostData) (d : DmaDesc), jamb < 2 → c < 32 →
    (let i := jamb * 32 + c
     (s.chan i).flight[j]? = some d → s.mayMove i j d = true → s.byRecord i d = false →
     s.side d.bytes false d.at' = .there node a →
     exec (.dmaPiece jamb c j sym host) s =
      .next ((s.setDesc i j { d with phase := 1 }).dmaSend i d.slot ptMEM_RD node (a / 64 * 64) (pieceSpan d.bytes d.at') []))) ∧
  (∀ (s : State) (jamb c j : Nat) (sym : Syms) (host : HostData) (d : DmaDesc), jamb < 2 → c < 32 →
    (let i := jamb * 32 + c
     (s.chan i).flight[j]? = some d → s.mayMove i j d = true → s.byRecord i d = true →
     (∀ u, dSrcSpace d.bytes = 3 → s.bounceIn (s.chanOwner i) (recordLen d.bytes d.at') host = (u, none) →
      exec (.dmaPiece jamb c j sym host) s = .next (u.failDesc i j d 0x20)) ∧
     (∀ u bs, dSrcSpace d.bytes = 3 → s.bounceIn (s.chanOwner i) (recordLen d.bytes d.at') host = (u, some bs) →
      exec (.dmaPiece jamb c j sym host) s = .next (u.putPiece i j d sym bs host.ok)) ∧
     (∀ a u v bs r, dSrcSpace d.bytes ≠ 3 → s.side d.bytes false d.at' = .here a → host.ok = true →
      s.dmaRead (s.chanOwner i) a (recordLen d.bytes d.at') sym = (u, .ok bs) → u.bounceOut (s.chanOwner i) bs = (v, some r) →
      exec (.dmaPiece jamb c j sym host) s =
       .next (({ v with hostOut := v.hostOut ++ [(recordAddr (dDst d.bytes) d.at', r)] } : State).moved i j d
         (recordLen d.bytes d.at'))))) ∧
  (∀ (s : State) (p len : Nat) (h : HostData), p < 16 →
    (let b := s.bounceOf p
     let seq := leAt h.bytes 8 8
     let good := h.bytes.take 32 = bounceHeader 0 p len seq
     (h.ok = false ∨ 2 ^ 40 ≤ b.h2d → s.bounceIn p len h = (s, none)) ∧
     (h.ok = true → b.h2d < 2 ^ 40 → (¬ good ∨ bounceOpen b.keyIn len h.bytes = none) →
      s.bounceIn p len h = (s.addF F.SEC_PBBSTAT_TAG_FAIL p 1, none)) ∧
     (∀ bs, h.ok = true → b.h2d < 2 ^ 40 → good → bounceOpen b.keyIn len h.bytes = some bs →
      (b.high ≤ seq ∨ (b.high ≤ seq + 65 ∧ seq + 1 < b.high ∧ seq ∉ b.seen) →
       ∃ u, s.bounceIn p len h = (u, some bs) ∧ s.RegsBut u [(F.SEC_PBBSTAT_RECORDS, p)] ∧
        u.getF F.SEC_PBBSTAT_RECORDS p = satAdd F.SEC_PBBSTAT_RECORDS.w (s.getF F.SEC_PBBSTAT_RECORDS p) 1 ∧
        (u.bounceOf p).high = max b.high (seq + 1) ∧ (u.bounceOf p).h2d = b.h2d + 1 ∧ (u.bounceOf p).fresh seq = false ∧
        ∀ q, q ≠ p → u.bounceOf q = s.bounceOf q) ∧
      (¬ (b.high ≤ seq ∨ (b.high ≤ seq + 65 ∧ seq + 1 < b.high ∧ seq ∉ b.seen)) →
       s.bounceIn p len h = (s.addF F.SEC_PBBSTAT_SEQ_FAIL p 1, none))))) ∧
  (∀ (s : State) (p : Nat) (bs : List Byte), p < 16 →
    (let b := s.bounceOf p
     let hd := bounceHeader 1 p bs.length b.d2h
     (2 ^ 40 ≤ b.d2h ∨ b.keyOut = [] → s.bounceOut p bs = (s, none)) ∧
     (b.d2h < 2 ^ 40 → b.keyOut ≠ [] →
      ∃ u, s.bounceOut p bs = (u, some (hd ++ gcmSeal b.keyOut (slice hd 2 2 ++ [0, 0] ++ slice hd 8 8) hd bs)) ∧
       u.bounceOf p = { b with d2h := b.d2h + 1 } ∧ s.RegsBut u [(F.SEC_PBBSTAT_RECORDS, p)] ∧ (∀ q, q ≠ p → u.bounceOf q = s.bounceOf q)))) ∧
  (∀ (s u v : State) (jamb c : Nat) (sym : Syms) (ok : Bool) (d d' : DmaDesc) (rest : List DmaDesc) (r : MemRes), jamb < 2 → c < 32 →
    (let i := jamb * 32 + c
     (s.chan i).flight = d :: rest → (s.chan i).halt ≠ 2 → (s.addFlaws sym).finalStatus i d sym ok = (u, some d') →
     u.writeSlot (u.slotAddr i d'.slot) (d'.image d'.status) = (v, r) →
     (∀ bs, r = .ok bs → exec (.descriptorComplete jamb c sym ok) s = .next (v.retire i d')) ∧
     (∀ code, r = .refused code → ∃ t, exec (.descriptorComplete jamb c sym ok) s = .next t ∧ t.flag F.DMA_CHSTAT_WB_ERR i = true ∧
       (t.chan i).halt = 2 ∧ t.getF F.DMA_HEAD_HEAD i = v.getF F.DMA_HEAD_HEAD i))) ∧
  (∀ (s : State) (jamb c j : Nat) (d : DmaDesc), jamb < 2 → c < 32 →
    (let i := jamb * 32 + c
     (s.chan i).flight[j]? = some d → s.awaits d = true →
     ∃ t, exec (.dmaTimeout jamb c j) s = .next t ∧
      (t.chan i).flight[j]? = some { d with
        status := if (s.chan i).stopping = true ∧ d.at' < dTotal d.bytes then 0x24 else 0x22
        fail := if dTotal d.bytes ≤ d.at' then d.last else d.at', phase := 0, buf := [] } ∧ t.mem = s.mem))

/-- A command of the ring's kind runs the ring's job, fetched where none is at hand, by at most one column; a job whose responses do not come
in DMA_CTRL.TIMEOUT_US ends with status 0x22 and no longer awaits them; a finished ENCODE job without latch write and notification is
written back with its status and leaves the ring, which advances by one and counts it in DONE. (From R198 and R411, in part.) -/
def Obligations.JobsRun : Prop :=
  (∀ (s : State) (jamb p : Nat) (sym : Syms), jamb < 2 → p < 16 →
    jKind ((s.fetchJob (jamb * 16 + p) 1 sym).rsJob (jamb * 16 + p)).bytes = 1 →
    exec (.encode jamb p sym) s = .next ((s.fetchJob (jamb * 16 + p) 1 sym).rsRun (jamb * 16 + p) sym)) ∧
  (∀ (s : State) (jamb p : Nat) (sym : Syms), jamb < 2 → p < 16 →
    jKind ((s.fetchJob (jamb * 16 + p) 2 sym).rsJob (jamb * 16 + p)).bytes = 2 →
    exec (.rebuild jamb p sym) s = .next ((s.fetchJob (jamb * 16 + p) 2 sym).rsRun (jamb * 16 + p) sym)) ∧
  (∀ (s : State) (jamb p : Nat) (sym : Syms), jamb < 2 → p < 16 →
    (let i := jamb * 16 + p
     let j := s.rsJob i
     j.status = 0 → 0 < j.wait → j.since + 1000 * s.getF F.DMA_CTRL_TIMEOUT_US 0 < s.now → (jKind j.bytes = 1 ∨ jKind j.bytes = 2) →
     ∃ t, exec (if jKind j.bytes = 1 then .encode jamb p sym else .rebuild jamb p sym) s = .next t ∧ (t.rsJob i).status = 0x22 ∧
      (t.rsJob i).wait = 0 ∧ t.mem = s.mem ∧ ∀ x ∈ t.tags, x ∈ s.tags ∧ x.2.ofRs jamb p = false)) ∧
  (∀ (s u : State) (jamb p : Nat) (r : List Byte), jamb < 2 → p < 16 →
    (let i := jamb * 16 + p
     let j := s.rsJob i
     j ≠ rsNone → j.status = 0 → j.phase = 4 → jKind j.bytes = 1 → s.flag F.DMA_RSSTAT_FETCH_ERR i = false →
     jLatchEn j.bytes = false → jNotify j.bytes = false →
     (s.markAt (s.jobSlot i)).write (s.jobSlot i) []
      (j.bytes.take 4 ++ leBytes 1 1 ++ slice j.bytes 5 27 ++ leBytes 5 j.fail ++ j.bytes.drop 37) = (u, .ok r) →
     ∃ t, exec (.rsJobComplete jamb p) s = .next t ∧ t.rsJob i = rsNone ∧ t.mem = u.mem ∧
      u.RegsBut t [(F.DMA_RSHEAD_INDEX, i), (F.DMA_RSSTAT_DONE, i), (F.DMA_RSSTAT_BUSY, i)] ∧
      t.getF F.DMA_RSHEAD_INDEX i = (u.getF F.DMA_RSHEAD_INDEX i + 1) % 2 ^ u.getF F.DMA_RSCFG_LOG2N i % 2 ^ F.DMA_RSHEAD_INDEX.w ∧
      t.getF F.DMA_RSSTAT_DONE i = satAdd F.DMA_RSSTAT_DONE.w (u.getF F.DMA_RSSTAT_DONE i) 1))

/-- P over the data bytes of a column recovers any one missing byte. (From R411 and R412, in part.) -/
def Obligations.ParityRecovers : Prop :=
  ∀ (d : List Nat) (i : Nat) (q : Option Nat), i < d.length → rsSolve (d.set i 0) [i] (some (rsP d)) q = d

/-! ## Pane clocks (R211 to R214, R421) -/

/-- A frequency request of a pane that is not fused off stands in REQ and waits as PENDING unless the pane has it or is held by an
emergency; a pane of a pinned partition keeps its frequency. A pending pane that runs, of a partition in no step, takes the pane lock and
stops for the change; while it may not take the lock it waits in the queue. A stopped pane of no partition whose two crossings calibrate runs
at its new frequency, and one whose inbound crossing fails stays stopped with CALFAIL and ends its partition's step; EMERG_CLEAR lets a pinned
pane return in one change and another rise by one value, but not while PROCHOT_N is low. (From R208, R209, R211, R212, R371, R408 and R421, in
part.) -/
def Obligations.PanesChange : Prop :=
  (∀ (s : State) (q : Nat) (v : Word64), q < 32 → s.getF F.PANE_FREQ_STATE q ≠ 2 → s.dark = false →
    s.panePinned q = false →
    (let f := bitsOf v.toNat 4 2
     ∃ t, exec (.paneFreqRequest q v) s = .next t ∧ t = { s with regs := t.regs, lockQ := t.lockQ } ∧
      s.RegsBut t [(F.PANE_FREQ_REQ, q), (F.PANE_FREQ_PENDING, q), (F.CTL_MLOCK_QUEUED, 0)] ∧
      t.getF F.PANE_FREQ_REQ q = f ∧
      (t.flag F.PANE_FREQ_PENDING q = true ↔ f ≠ s.getF F.PANE_FREQ_CUR q ∧ s.flag F.PANE_FREQ_EMERG q = false))) ∧
  (∀ (s : State) (q : Nat) (v : Word64), q < 32 → s.dark = true ∨ s.panePinned q = true → exec (.paneFreqRequest q v) s = .next s) ∧
  (∀ (s : State) (q : Nat), q < 32 → s.getF F.PANE_FREQ_STATE q = 0 → s.flag F.PANE_FREQ_PENDING q = true → s.paneInStep q = false →
    s.dark = false → s.mayLock 0 q = true →
    ∃ t, exec (.paneFreqChange q) s = .next t ∧ t.getF F.PANE_FREQ_STATE q = 1 ∧ t.flag F.PANE_FREQ_PENDING q = false ∧
      (t.pane q).target = s.getF F.PANE_FREQ_REQ q ∧ (t.pane q).stopAt = s.now ∧ t.locked 0 q = true ∧ t.mem = s.mem) ∧
  (∀ (s : State) (q : Nat), q < 32 → s.getF F.PANE_FREQ_STATE q = 0 → s.flag F.PANE_FREQ_PENDING q = true → s.paneInStep q = false →
    s.dark = false → s.mayLock 0 q = false →
    ∃ t, exec (.paneFreqChange q) s = .next t ∧ (0, q) ∈ t.lockQ ∧ t.flag F.PANE_FREQ_PENDING q = true ∧
      t.getF F.PANE_FREQ_STATE q = 0 ∧ t = { s with regs := t.regs, lockQ := t.lockQ }) ∧
  (∀ (s : State) (q ns : Nat) (cin cout : Cal), q < 32 → s.getF F.PANE_FREQ_STATE q = 1 → (s.pane q).follow = false →
    (s.pane q).target < 4 → calOk cin (paneInTarget (s.pane q).target) = true → calOk cout 6 = true → s.paneOwner q = none →
    ∃ t, exec (.paneRestart q ns cin cout) s = .next t ∧ t.getF F.PANE_FREQ_STATE q = 0 ∧
      t.getF F.PANE_FREQ_CUR q = (s.pane q).target ∧ t.getF F.PANE_STOP_LAST_NS q = min (2 ^ 32 - 1) ns ∧
      t.flag F.PANE_XLAT_IN_CALFAIL q = false ∧ t.flag F.PANE_XLAT_OUT_CALFAIL q = false ∧ t.mem = s.mem) ∧
  (∀ (s : State) (q p ns : Nat) (cin cout : Cal), q < 32 → s.getF F.PANE_FREQ_STATE q = 1 → calOk cin (paneInTarget (s.pane q).target) = false →
    s.paneOwner q = some p → s.stepActive p = true → p < 16 →
    ∃ t, exec (.paneRestart q ns cin cout) s = .next t ∧ t.getF F.PANE_FREQ_STATE q = 3 ∧ t.flag F.PANE_XLAT_IN_CALFAIL q = true ∧
      (t.part p).running = false) ∧
  (∀ (s : State) (q : Nat), q < 32 → s.flag F.PANE_FREQ_EMERG q = true → s.getF F.PANE_FREQ_STATE q ≠ 3 →
    s.flag F.PWR_STATUS_PROCHOT 0 = false →
    (let cur := s.getF F.PANE_FREQ_CUR q
     ∃ t, exec (.emergClear q) s = .next t ∧ t.flag F.PANE_FREQ_EMERG q = false ∧
      t.getF F.PANE_FREQ_REQ q = (if s.panePinned q = true ∨ cur ≤ s.getF F.PANE_FREQ_REQ q then s.getF F.PANE_FREQ_REQ q else cur - 1) ∧
      (t.flag F.PANE_FREQ_PENDING q = true ↔ t.getF F.PANE_FREQ_REQ q ≠ cur) ∧
      t = { s with regs := t.regs, lockQ := t.lockQ } ∧
      s.RegsBut t [(F.PANE_FREQ_EMERG, q), (F.PANE_FREQ_REQ, q), (F.PANE_FREQ_PENDING, q), (F.CTL_MLOCK_QUEUED, 0)])) ∧
  (∀ (s : State) (q : Nat), q < 32 → s.flag F.PANE_FREQ_EMERG q = false ∨ s.flag F.PWR_STATUS_PROCHOT 0 = true →
    exec (.emergClear q) s = .next s)

/-- In RUN and STANDBY each trigger counts in PWR_EMERG and acts on the panes it names: pane q for a droop, a leaf's panes for an
overcurrent, every pane for a hot die or PROCHOT_N low. In RUN it is logged, and each named pane that runs at another frequency stops for 0.75
GHz with EMERG set and is counted; one at 0.75 GHz or stopped by a failed calibration only shows EMERG; one in a change follows with an
emergency change; every other pane is unchanged. In STANDBY the named panes stand at 0.75 GHz. In SLEEP, and while the panes are held in
reset, nothing changes but the level of PROCHOT_N, which PWR_STATUS shows at all times. (From R213, R421, R422 and R432, in part.) -/
def Obligations.TriggersFire : Prop :=
  (∀ (s : State) (i : Instr) (f : Fld) (code : Nat) (args panes : List Nat),
    (∃ q, q < 32 ∧ i = .droop q ∧ f = F.PWR_EMERG_DROOP ∧ code = 0x0012 ∧ args = [q] ∧ panes = [q]) ∨
    (∃ l, l < 2 ∧ i = .overcurrent l ∧ f = F.PWR_EMERG_OVERCURRENT ∧ code = 0x0013 ∧ args = [l] ∧ panes = leafPanes l) ∨
    (i = .thermal ∧ f = F.PWR_EMERG_THERMAL ∧ code = 0x0014 ∧ args = [] ∧ panes = List.range 32) ∨
    (i = .prochot true ∧ f = F.PWR_EMERG_PROCHOT ∧ code = 0x0015 ∧ args = [] ∧ panes = List.range 32) →
    (s.dark = false → s.getF F.PWR_STATUS_STATE 0 = 0 → s.upd = none →
     ∃ t, exec i s = .next t ∧ t.getF f 0 = satAdd f.w (s.getF f 0) 1 ∧ t.mem = s.mem ∧
      t.pldm = s.pldm ++ [⟨1, code, 255, s.now, args⟩] ∧
      (∀ q ∈ panes, s.getF F.PANE_FREQ_STATE q = 0 → s.getF F.PANE_FREQ_CUR q ≠ 3 →
       t.getF F.PANE_FREQ_STATE q = 1 ∧ (t.pane q).target = 3 ∧ (t.pane q).stopAt = s.now ∧ (t.pane q).emerg = true ∧
       t.flag F.PANE_FREQ_EMERG q = true ∧ t.flag F.PANE_FREQ_PENDING q = false ∧
       t.getF F.PANE_FREQ_EMERGS q = satAdd F.PANE_FREQ_EMERGS.w (s.getF F.PANE_FREQ_EMERGS q) 1) ∧
      (∀ q ∈ panes, (s.getF F.PANE_FREQ_STATE q = 0 ∧ s.getF F.PANE_FREQ_CUR q = 3) ∨ s.getF F.PANE_FREQ_STATE q = 3 →
       t.getF F.PANE_FREQ_STATE q = s.getF F.PANE_FREQ_STATE q ∧ t.flag F.PANE_FREQ_EMERG q = true ∧
       t.flag F.PANE_FREQ_PENDING q = false) ∧
      (∀ q ∈ panes, s.getF F.PANE_FREQ_STATE q = 1 → t.pane q = { s.pane q with follow := true }) ∧
      (∀ q, q < 32 → q ∉ panes ∨ s.getF F.PANE_FREQ_STATE q = 2 → t.pane q = s.pane q ∧ t.rdReg .PANE_FREQ q = s.rdReg .PANE_FREQ q)) ∧
    (s.dark = false → s.getF F.PWR_STATUS_STATE 0 = 1 →
     ∃ t, exec i s = .next t ∧ t.getF f 0 = satAdd f.w (s.getF f 0) 1 ∧ t.mem = s.mem ∧
      ∀ q ∈ panes, s.getF F.PANE_FREQ_STATE q ≠ 2 →
       t.getF F.PANE_FREQ_CUR q = 3 ∧ t.flag F.PANE_FREQ_EMERG q = true ∧ t.flag F.PANE_FREQ_PENDING q = false) ∧
    (s.dark = true ∨ s.getF F.PWR_STATUS_STATE 0 = 2 →
     ∃ t, exec i s = .next t ∧ s.Only t (if i = .prochot true then [(F.PWR_STATUS_PROCHOT, 0)] else []))) ∧
  (∀ s : State, ∃ t, exec (.prochot true) s = .next t ∧ t.flag F.PWR_STATUS_PROCHOT 0 = true) ∧
  (∀ s : State, ∃ t, exec (.prochot false) s = .next t ∧ t.flag F.PWR_STATUS_PROCHOT 0 = false ∧ s.Only t [(F.PWR_STATUS_PROCHOT, 0)])

/-! ## Time (R218 to R223) -/

/-- A master with no partition in a step steps its timebase by the written offset and shows STEPPED; in any other package TIME_STEP
does nothing. A package that is no master steps once by a measured offset above 64 ns, and by the offset of a wake that it owes. The
master takes PTP messages of its domain: Sync and Follow_Up give t1 and t2, and a Delay_Req goes; the answer to that request gives the
offset, kept in TIME_PTP, and PTP_LOCKED shows whether it is within 1,000 ns. PTP's loss clears PTP_LOCKED. A failed exchange counts
in MISSED; the third in a row moves to the backup port or, where there is none, gives HOLDOVER. (From R220 to R222, in part.) -/
def Obligations.TimebaseSteps : Prop :=
  (∀ (s : State) (v : Word64), s.flag F.TIME_CTRL_MASTER 0 = true → s.idleSteps = true →
    ∃ t, exec (.timeStep v) s = .next t ∧ (t.now : Int) = ((s.now : Int) + v.toInt) % 2 ^ 64 ∧ t.flag F.TIME_STATUS_STEPPED 0 = true ∧
      s.Only t [(F.TIME_NOW_NS, 0), (F.TIME_STATUS_STEPPED, 0)]) ∧
  (∀ (s : State) (v : Word64), s.flag F.TIME_CTRL_MASTER 0 = false ∨ s.idleSteps = false → exec (.timeStep v) s = .next s) ∧
  (∀ s : State, s.flag F.TIME_CTRL_MASTER 0 = false → s.idleSteps = true → 64 * 256 < (signed 64 (s.getF F.TIME_OFFSET_OFF 0)).natAbs →
    s.time.stepped = false → s.time.adj = 0 →
    ∃ t, exec .timebaseStep s = .next t ∧ (t.now : Int) = ((s.now : Int) - signed 64 (s.getF F.TIME_OFFSET_OFF 0) / 256) % 2 ^ 64 ∧
      t.time.stepped = true ∧ t.flag F.TIME_STATUS_STEPPED 0 = true ∧ t = { s with regs := t.regs, time := t.time } ∧
      s.RegsBut t [(F.TIME_NOW_NS, 0), (F.TIME_STATUS_STEPPED, 0)]) ∧
  (∀ s : State, s.flag F.TIME_CTRL_MASTER 0 = false → s.idleSteps = true → s.time.adj ≠ 0 →
    ∃ t, exec .timebaseStep s = .next t ∧ (t.now : Int) = ((s.now : Int) - s.time.adj / 2 ^ 32) % 2 ^ 64 ∧ t.time.adj = 0 ∧
      t.flag F.TIME_STATUS_STEPPED 0 = true ∧ s.RegsBut t [(F.TIME_NOW_NS, 0), (F.TIME_STATUS_STEPPED, 0)]) ∧
  (∀ (s : State) (m : PtpMsg), s.flag F.TIME_CTRL_MASTER 0 = true → s.flag F.TIME_CTRL_PTP_EN 0 = true →
    s.dark = false → s.getF F.PWR_STATUS_STATE 0 ≠ 2 → m.domain = s.getF F.TIME_CTRL_PTP_DOMAIN 0 → m.port < 2 → m.transport < 3 →
    (let t0 := s.stampAt m.phase
     (m.kind = .sync → m.twoStep = true →
      exec (.ptpMessage m) s = .next { s with time := { s.time with ptpSync := some (m.seq, none, t0) } }) ∧
     (m.kind = .sync → m.twoStep = false →
      ∃ t, exec (.ptpMessage m) s = .next t ∧ t.time = { s.time with ptpSync := none, ptpReq := some (m.seq, m.ts, t0, t0) } ∧
        t.ptpOut = s.ptpOut ++ [(m.port, m.transport, m.seq, t0)] ∧ t = { s with time := t.time, ptpOut := t.ptpOut }) ∧
     (∀ t2, m.kind = .followUp → s.time.ptpSync = some (m.seq, none, t2) →
      ∃ t, exec (.ptpMessage m) s = .next t ∧ t.time = { s.time with ptpSync := none, ptpReq := some (m.seq, m.ts, t2, t0) } ∧
        t.ptpOut = s.ptpOut ++ [(m.port, m.transport, m.seq, t0)] ∧ t = { s with time := t.time, ptpOut := t.ptpOut }) ∧
     (∀ t1 t2 t3 : Nat, m.kind = .delayResp → s.time.ptpReq = some (m.seq, t1, t2, t3) →
      (let off : Int := (((t2 : Int) - t1) - ((m.ts : Int) - t3)) / 2 / 256
       ∃ t, exec (.ptpMessage m) s = .next t ∧ t.getF F.TIME_PTP_OFFSET_NS 0 = unsigned 64 off ∧ t.time.ptpReq = none ∧
        (t.flag F.TIME_STATUS_PTP_LOCKED 0 = true ↔ off.natAbs ≤ 1000) ∧ (s.time.ptpOnce = true → t.now = s.now) ∧
        s.RegsBut t [(F.TIME_PTP_OFFSET_NS, 0), (F.TIME_STATUS_PTP_LOCKED, 0), (F.TIME_RATE_PPB, 0), (F.TIME_NOW_NS, 0),
          (F.TIME_STATUS_STEPPED, 0)])))) ∧
  (∀ s : State, s.flag F.TIME_CTRL_MASTER 0 = true →
    ∃ t, exec .ptpLost s = .next t ∧ t.flag F.TIME_STATUS_PTP_LOCKED 0 = false ∧ s.Only t [(F.TIME_STATUS_PTP_LOCKED, 0)]) ∧
  (∀ s : State, s.flag F.TIME_CTRL_MASTER 0 = false → s.getF F.TIME_STATUS_MISSED 0 < 2 →
    ∃ t, exec .beaconExchangeFail s = .next t ∧ t.getF F.TIME_STATUS_MISSED 0 = s.getF F.TIME_STATUS_MISSED 0 + 1 ∧
      s.RegsBut t [(F.TIME_STATUS_MISSED, 0)]) ∧
  (∀ s : State, s.flag F.TIME_CTRL_MASTER 0 = false → s.getF F.TIME_STATUS_MISSED 0 = 2 → s.flag F.TIME_STATUS_ON_BACKUP 0 = false →
    s.getF F.TIME_CTRL_BKPORT 0 ≠ 63 →
    ∃ t, exec .beaconExchangeFail s = .next t ∧ t.flag F.TIME_STATUS_ON_BACKUP 0 = true ∧ t.getF F.TIME_STATUS_MISSED 0 = 0 ∧
      s.RegsBut t [(F.TIME_STATUS_MISSED, 0), (F.TIME_STATUS_ON_BACKUP, 0)]) ∧
  (∀ s : State, s.flag F.TIME_CTRL_MASTER 0 = false → s.getF F.TIME_STATUS_MISSED 0 = 2 →
    s.flag F.TIME_STATUS_ON_BACKUP 0 = true ∨ s.getF F.TIME_CTRL_BKPORT 0 = 63 →
    ∃ t, exec .beaconExchangeFail s = .next t ∧ t.flag F.TIME_STATUS_HOLDOVER 0 = true ∧ t.getF F.TIME_STATUS_MISSED 0 = 3 ∧
      s.RegsBut t [(F.TIME_STATUS_MISSED, 0), (F.TIME_STATUS_HOLDOVER, 0)])

/-- On a port that passes beacons and leads to no parent, SYNC goes with the next number. The child keeps t1 of the body and t2 of the
packet and sends DELAY_REQ; a parent whose DEPTH is not one less is a failed exchange. The parent returns t4, the receipt time, in
DELAY_RESP. The child of the upstream edge records the offset it computes from the four times, and the exchange is over. In the
time-alignment stage the acting package with an offset up to 64 ns admits traffic, up to 4 µs starts a burst of 16 exchanges, and
beyond leaves its plans, with VC0 to VC2 held. (From R218 and R223, in part.) -/
def Obligations.BeaconsExchange : Prop :=
  (∀ (s : State) (q : Nat), q < 36 → s.beaconOpen q = true → s.parentPort q = false →
    (let n := (s.time.seq + 1) % 65536
     exec (.beaconSyncSend q) s =
      .next (State.sendBeacon { s with time := { s.time with seq := n } } q (s.beaconBody 0 (s.bursting q) n 0)))) ∧
  (∀ (s : State) (q : Nat) (k : Packet) (rest : List Packet), q < 36 → takeFirst (isBeacon q 0) s.inbox = some (k, rest) →
    bkBad k.body = false → s.parentPort q = true → bkDepth k.body + 1 = s.getF F.TIME_STATUS_DEPTH 0 →
    (let u : State := { s with inbox := rest }
     exec (.sync q) s = .next ((u.modPort q (fun x => { x with exch := some (bkSeq k.body, bkTs k.body, k.stamp, 0) })).sendBeacon q
      (u.beaconBody 1 (u.bursting q) (bkSeq k.body) 0)))) ∧
  (∀ (s : State) (q : Nat) (k : Packet) (rest : List Packet), q < 36 → takeFirst (isBeacon q 0) s.inbox = some (k, rest) →
    bkBad k.body = false → s.parentPort q = true → bkDepth k.body + 1 ≠ s.getF F.TIME_STATUS_DEPTH 0 → s.beaconPort = q →
    exec (.sync q) s = .next (State.missBeacon { s with inbox := rest })) ∧
  (∀ (s : State) (q : Nat) (k : Packet) (rest : List Packet), q < 36 → takeFirst (isBeacon q 1) s.inbox = some (k, rest) →
    bkBad k.body = false →
    (let u : State := { s with inbox := rest }
     let v := u.sendBeacon q (u.beaconBody 2 false (bkSeq k.body) k.stamp)
     exec (.delayReq q) s = .next (if v.pstate q = 7 then v.openVcs q else v))) ∧
  (∀ (s : State) (q t1 t2 t3 : Nat) (k : Packet) (rest : List Packet), q < 36 → takeFirst (isBeacon q 2) s.inbox = some (k, rest) →
    bkBad k.body = false → (s.port q).exch = some (bkSeq k.body, t1, t2, t3) → s.getF F.TIME_CTRL_UPPORT 0 = q →
    s.flag F.TIME_CTRL_MASTER 0 = false → s.pstate q = 8 →
    ∃ t, exec (.delayResp q) s = .next t ∧
      t.getF F.TIME_OFFSET_OFF 0 = unsigned 64 ((((t2 : Int) - t1) - ((bkRx k.body : Int) - t3)) / 2) ∧
      t.getF F.TIME_STATUS_MISSED 0 = 0 ∧ t.flag F.TIME_STATUS_ON_BACKUP 0 = false ∧ t.inbox = rest ∧
      (s.flag F.TIME_STATUS_LEFT 0 = false → (t.port q).exch = none)) ∧
  (∀ (s : State) (q t1 t2 t3 : Nat) (k : Packet) (rest : List Packet), q < 36 → takeFirst (isBeacon q 2) s.inbox = some (k, rest) →
    bkBad k.body = false → (s.port q).exch = some (bkSeq k.body, t1, t2, t3) → s.parentPort q = false → s.pstate q = 7 →
    (s.port q).burst = 0 → (s.port q).acked ≠ 7 →
    (let off : Int := (((t2 : Int) - t1) - ((bkRx k.body : Int) - t3)) / 2
     ∃ t, exec (.delayResp q) s = .next t ∧
      (off.natAbs ≤ 64 * 256 → (t.port q).acked = 7 ∧ (t.port q).hold3 = false) ∧
      (64 * 256 < off.natAbs → t.flag F.TIME_STATUS_LOCKED 0 = false) ∧
      (64 * 256 < off.natAbs → off.natAbs ≤ 4000 * 256 → (t.port q).burst = 16 ∧ t.time.adj = off * 2 ^ 24) ∧
      (4000 * 256 < off.natAbs → t.flag F.TIME_STATUS_LEFT 0 = true ∧ (t.port q).hold3 = true)))

/-! ## Ports (R233 to R244) -/

/-- In a package that holds its ports out of reset: RETRAIN of a port in DOWN, UP or MGMT_ONLY trains it under the port's lock, or
waits for it in the queue; a partner's signal starts training of a port in DOWN (after a going-away frame only behind 10 µs of silence) and
ends DETECT. Lanes in an order that fits, with a clean half of what the port may use, choose the width and go to alignment; crossings that
calibrate go to VERSION, and one that does not takes the port DOWN. A stage past its bound of Table 11-4, and only then, fails the attempt. A
bad training body is counted and changes nothing else; a good one trains a port in UP or MGMT_ONLY; a VERSION body that offers major 1 sets
the version and the common width and, acknowledged, goes to CONFIG. A waking port that relocks goes to CONFIG, else to DETECT. (From R234 to
R238, R240, R242, R262 and R408, in part.) -/
def Obligations.PortsTrain : Prop :=
  (∀ (s : State) (q : Nat) (v : Word64), q < 36 → v.toNat % 16 = 1 → s.mayLock 6 q = true →
    (s.pstate q = 1 ∨ s.pstate q = 8 ∨ s.pstate q = 9) → (s.port q).gone = false →
    exec (.retrain q v) s = .next ((s.train q 0x0B).takeLocks 6 [q])) ∧
  (∀ (s : State) (q : Nat) (v : Word64), q < 36 → v.toNat % 16 = 1 → s.mayLock 6 q = false →
    (s.pstate q = 1 ∨ s.pstate q = 8 ∨ s.pstate q = 9) → (s.port q).gone = false →
    ∃ t, exec (.retrain q v) s = .next t ∧ (6, q) ∈ t.lockQ ∧ t = { s with regs := t.regs, lockQ := t.lockQ } ∧
      s.RegsBut t [(F.CTL_MLOCK_BUSY, 0), (F.CTL_MLOCK_QUEUED, 0)]) ∧
  (∀ (s : State) (q : Nat) (v : Word64), q < 36 → v.toNat % 16 = 1 → s.mayLock 6 q = true → s.portsOff = false → s.pstate q = 8 →
    (s.port q).gone = false → ∃ t, exec (.retrain q v) s = .next t ∧ t.pstate q = 2 ∧ t.getF F.PORT_STATUS_CAUSE q = 0x0B) ∧
  (∀ (s : State) (q silence : Nat), q < 36 → s.pstate q = 1 → s.portsOff = false → ((s.port q).gone = false ∨ 10000 ≤ silence) →
    ∃ t, exec (.partnerSignal q silence true) s = .next t ∧ t.pstate q = 2 ∧ (t.port q).gone = false ∧
      t.getF F.PORT_TRAIN_TRAINS q = satAdd F.PORT_TRAIN_TRAINS.w (s.getF F.PORT_TRAIN_TRAINS q) 1 ∧ t.mem = s.mem) ∧
  (∀ (s : State) (q silence : Nat), q < 36 → s.pstate q = 1 → (s.port q).gone = true → silence < 10000 →
    exec (.partnerSignal q silence true) s = .next s) ∧
  (∀ (s : State) (q silence : Nat), q < 36 → s.pstate q = 2 →
    ∃ t, exec (.partnerSignal q silence true) s = .next t ∧ t.pstate q = 3 ∧ t.port q = { s.port q with stageAt := s.now } ∧
      t = { s with regs := t.regs, ports := t.ports } ∧ s.RegsBut t [(F.PORT_STATUS_STATE, q)]) ∧
  (∀ (s : State) (q : Nat) (l : Lanes), q < 36 → s.pstate q = 3 → l.orderOk = true →
    (let w := widthOf (l.clean &&& l.locked &&& (if (s.port q).keep = 0 then 0xFF else (s.port q).keep))
     w ≠ 0 →
     ∃ t, exec (.equalise q l) s = .next t ∧ t.pstate q = 4 ∧ (t.port q).width = w ∧
      s.RegsBut t [(F.PORT_STATUS_STATE, q), (F.PORT_LANES_REVERSED, q), (F.PORT_LANES_INVERTED, q), (F.PORT_LANES_LOCKED, q),
        (F.PORT_LANES_PRECODE, q)])) ∧
  (∀ (s : State) (q : Nat) (cin cout : Cal), q < 36 → s.pstate q = 4 → calOk cin 8 = true → calOk cout 8 = true →
    ∃ t, exec (.alignDone q cin cout) s = .next t ∧ t.pstate q = 5 ∧ t.flag F.PORT_XLAT_IN_CALFAIL q = false ∧
      t.flag F.PORT_XLAT_OUT_CALFAIL q = false ∧ (t.port q).got = 0 ∧ (t.port q).acked = 0) ∧
  (∀ (s : State) (q : Nat) (cin cout : Cal), q < 36 → s.pstate q = 4 → calOk cin 8 = false →
    ∃ t, exec (.alignDone q cin cout) s = .next t ∧ t.pstate q = 1 ∧ t.getF F.PORT_STATUS_CAUSE q = 0x0D) ∧
  (∀ (s : State) (q : Nat), q < 36 → 2 ≤ s.pstate q → s.pstate q ≤ 7 →
    (let st := s.pstate q
     let bound := if st = 2 then 5000 else if st = 3 then 170000 else if st = 4 then 10000 else s.rtt q + 1000
     (s.now ≤ (s.port q).stageAt + bound → exec (.trainingStageTimeout q) s = .next s) ∧
     ((s.port q).stageAt + bound < s.now →
      exec (.trainingStageTimeout q) s = .next (s.failAttempt q (if st ≤ 4 then 2 else 0x0C)) ∧
      ∃ t, exec (.trainingStageTimeout q) s = .next t ∧ t.pstate q = (if 3 ≤ (s.port q).fails + 1 then 1 else 2)))) ∧
  (∀ (s : State) (q seq ack : Nat) (b : List Byte), q < 36 → seq < 2 ^ 24 → ack < 2 ^ 24 → 5 ≤ s.pstate q → s.pstate q ≤ 9 →
    tbBad b = true →
    ∃ t, exec (.trainingFrame q seq ack b) s = .next t ∧ t = { s with regs := t.regs, ports := t.ports } ∧
      t.port q = { s.port q with rseq := seq, rack := ack } ∧ s.RegsBut t [(F.PORT_TRAIN_BAD_FRAMES, q)] ∧
      t.getF F.PORT_TRAIN_BAD_FRAMES q = satAdd F.PORT_TRAIN_BAD_FRAMES.w (s.getF F.PORT_TRAIN_BAD_FRAMES q) 1) ∧
  (∀ (s : State) (q seq ack : Nat) (b : List Byte), q < 36 → seq < 2 ^ 24 → ack < 2 ^ 24 → s.pstate q = 8 ∨ s.pstate q = 9 →
    s.portsOff = false → tbBad b = false →
    ∃ t, exec (.trainingFrame q seq ack b) s = .next t ∧ t.pstate q = 2 ∧ (t.port q).rseq = seq ∧ (t.port q).rack = ack) ∧
  (∀ (s : State) (q seq ack : Nat) (b : List Byte), q < 36 → seq < 2 ^ 24 → ack < 2 ^ 24 → s.pstate q = 5 → tbBad b = false →
    tbStage b = 1 → bitAt (tbMask b) 1 = true → widthOf ((s.port q).clean &&& tbClean b) ≠ 0 →
    ∃ t, exec (.trainingFrame q seq ack b) s = .next t ∧ t.pstate q = (if tbAck b then 6 else 5) ∧
      (t.port q).width = widthOf ((s.port q).clean &&& tbClean b) ∧ t.getF F.PORT_STATUS_VMAJOR q = 1 ∧
      t.getF F.PORT_STATUS_VMINOR q = 0) ∧
  (∀ (s : State) (q : Nat) (ok : Bool), q < 36 → s.pstate q = 12 →
    ∃ t, exec (.relock q ok) s = .next t ∧ t.pstate q = if ok then 6 else 2)

/-- Lanes of an 8-lane port in UP that fail narrow it to the other half, when that is clean, with the failure to be told; otherwise a
failed lane trains the port. After the realignment the port is UP at that half and goes on from its oldest flit. SLEEP and OFF of a
port in UP take the port's lock and ask the partner, or
wait for the lock; OFF of a port in SLEEP, and a partner whose lanes lose power, lead to OFF. WAKE leaves SLEEP or OFF and
withdraws a request, the partner's wake leaves SLEEP or OFF, and a request unanswered for 10 µs is withdrawn with SLEEP_REFUSED.
(From R239 to R243, R408 and R426, in part.) -/
def Obligations.PortsNarrowAndSleep : Prop :=
  (∀ (s : State) (q lost : Nat) (hits : Tbl Nat), q < 36 → s.pstate q = 8 → (s.port q).width = 0xFF →
    s.getF F.PORT_LANES_FAILED q = 0 →
    (let bad := (lanesOf 0xFF).filter (laneFails 0xFF lost hits)
     bad ≠ [] → ((∀ l ∈ bad, l < 4) ∨ ∀ l ∈ bad, 4 ≤ l) →
     ∃ t, exec (.laneFail q lost hits) s = .next t ∧ t.pstate q = 10 ∧ (t.port q).half = true ∧
      (t.port q).width = (if ∀ l ∈ bad, 4 ≤ l then 0x0F else 0xF0) ∧
      (∀ l, l < 8 → (bitAt (t.getF F.PORT_LANES_FAILED q) l = true ↔ l ∈ bad)) ∧
      t.getF F.PORT_TRAIN_DEGRADES q = satAdd F.PORT_TRAIN_DEGRADES.w (s.getF F.PORT_TRAIN_DEGRADES q) 1)) ∧
  (∀ (s : State) (q lost : Nat) (hits : Tbl Nat), q < 36 → s.pstate q = 8 → s.portsOff = false → (s.port q).width ≠ 0xFF →
    (lanesOf (s.port q).width).filter (laneFails (s.port q).width lost hits) ≠ [] →
    ∃ t, exec (.laneFail q lost hits) s = .next t ∧ t.pstate q = 2 ∧
      t.getF F.PORT_STATUS_CAUSE q = (if (lanesOf (s.port q).width).all (bitAt lost) then 1 else 0x0E)) ∧
  (∀ (s : State) (q lost : Nat) (hits : Tbl Nat), q < 36 →
    (lanesOf (s.port q).width).filter (laneFails (s.port q).width lost hits) = [] → exec (.laneFail q lost hits) s = .next s) ∧
  (∀ (s : State) (q : Nat), q < 36 → s.pstate q = 10 → (s.port q).width < 256 →
    ∃ t, exec (.degradeRealign q) s = .next t ∧ t.pstate q = 8 ∧ t.getF F.PORT_STATUS_WIDTH q = (s.port q).width ∧
      (t.port q).half = false ∧ (t.port q).bsfIn = s.now ∧ (t.port q).store = (s.port q).store ∧
      (∀ f l, (s.port q).store = f :: l → (t.port q).replay = some f.seq) ∧ t.mem = s.mem) ∧
  (∀ (s : State) (q : Nat) (v : Word64), q < 36 → v.toNat % 16 = 4 → s.mayLock 6 (q + 128) = true → s.pstate q = 8 → (s.port q).ask = 0 →
    exec (.sleep q v) s = .next ((s.modPort q (fun x => { x with ask := 1, asked := false })).takeLocks 6 [q])) ∧
  (∀ (s : State) (q : Nat) (v : Word64), q < 36 → v.toNat % 16 = 8 → s.mayLock 6 (q + 192) = true → s.pstate q = 8 → (s.port q).ask = 0 →
    exec (.off q v) s = .next ((s.modPort q (fun x => { x with ask := 2, asked := false })).takeLocks 6 [q])) ∧
  (∀ (s : State) (q : Nat) (v : Word64), q < 36 → v.toNat % 16 = 8 → s.mayLock 6 (q + 192) = true → s.pstate q = 11 →
    ∃ t, exec (.off q v) s = .next t ∧ t.pstate q = 13 ∧ t.mem = s.mem) ∧
  (∀ (s : State) (q : Nat) (v : Word64) (k : Nat) (i : Instr), q < 36 → (k = 2 ∧ i = .sleep q v) ∨ (k = 3 ∧ i = .off q v) →
    v.toNat % 16 = 2 ^ k → s.pstate q = 8 → (s.port q).ask = 0 → s.mayLock 6 (q + 64 * k) = false →
    ∃ t, exec i s = .next t ∧ (6, q + 64 * k) ∈ t.lockQ ∧ t = { s with regs := t.regs, lockQ := t.lockQ } ∧
      s.RegsBut t [(F.CTL_MLOCK_BUSY, 0), (F.CTL_MLOCK_QUEUED, 0)]) ∧
  (∀ (s : State) (q silence : Nat), q < 36 → s.pstate q = 11 →
    ∃ t, exec (.partnerSignal q silence false) s = .next t ∧ t.pstate q = 13 ∧ t.mem = s.mem) ∧
  (∀ (s : State) (q : Nat) (v : Word64), q < 36 → v.toNat % 16 = 2 → s.pstate q = 11 →
    ∃ t, exec (.wake q v) s = .next t ∧ t.pstate q = 12 ∧ (t.port q).wake = true ∧
      t.waking = (s.waking || s.asleep) ∧ t.mem = s.mem) ∧
  (∀ (s : State) (q : Nat) (v : Word64), q < 36 → v.toNat % 16 = 2 → s.pstate q = 13 → s.portsOff = false →
    ∃ t, exec (.wake q v) s = .next t ∧ t.pstate q = 2 ∧ t.mem = s.mem) ∧
  (∀ (s : State) (q : Nat) (v : Word64), q < 36 → v.toNat % 16 = 2 → s.pstate q = 8 →
    ∃ t, exec (.wake q v) s = .next t ∧ t.pstate q = 8 ∧ (t.port q).ask = 0 ∧ (t.port q).grant = false ∧ t.mem = s.mem) ∧
  (∀ (s : State) (q : Nat), q < 36 → s.pstate q = 11 →
    ∃ t, exec (.partnerWake q) s = .next t ∧ t.pstate q = 12 ∧ t.mem = s.mem) ∧
  (∀ (s : State) (q : Nat), q < 36 → s.pstate q = 13 → s.portsOff = false →
    ∃ t, exec (.partnerWake q) s = .next t ∧ t.pstate q = 2 ∧ t.mem = s.mem) ∧
  (∀ (s : State) (q : Nat), q < 36 → s.pstate q = 8 → (s.port q).asked = true → (s.port q).askAt + 10000 ≤ s.now →
    ∃ t, exec (.sleepTimeout q) s = .next t ∧ t.flag F.PORT_STATUS_SLEEP_REFUSED q = true ∧ (t.port q).ask = 0 ∧
      (t.port q).asked = false ∧ t.pstate q = 8)

/-! ## The link (R245 to R263) -/

/-- A flit with a byte of an uncorrectable codeword or a failed CRC counts in CRC_BAD, and the port asks for its repeat. Of the correct flits,
the DATA flit that a port in UP or MGMT_ONLY expects moves NEXT_EXP on, and one ahead of it asks for the repeat; a good training flit
retrains a port in UP, with the partner's numbers and OFF bits kept, and a bad one is counted. A correct going-away body takes its port
DOWN with cause GONE; a body of another VERSION changes nothing. (From R238, R245, R251, R262 and R263, in part.) -/
def Obligations.FlitsAreChecked : Prop :=
  (∀ (s : State) (q corr uncorr phase : Nat) (bad : Bool) (f : Flit), q < 36 → 5 ≤ s.pstate q → s.pstate q ≤ 10 →
    (bad = true ∨ 0 < uncorr ∨ leAt (flitBytes f) 10 4 ≠ flitCrc (flitBytes f)) →
    ∃ t, exec (.flitReceive q corr uncorr bad phase f) s = .next t ∧
      t.getF F.VCB_ERR_CRC_BAD q = satAdd F.VCB_ERR_CRC_BAD.w (s.getF F.VCB_ERR_CRC_BAD q) 1 ∧
      t.getF F.PORT_FEC_CORRECTED q = satAdd F.PORT_FEC_CORRECTED.w (s.getF F.PORT_FEC_CORRECTED q) corr ∧
      t.getF F.PORT_FEC_UNCORR q = satAdd F.PORT_FEC_UNCORR.w (s.getF F.PORT_FEC_UNCORR q) uncorr ∧
      (t.port q).naking = true ∧ ((s.port q).naking = false → (t.port q).nakDue = true ∧ (t.port q).nakAt = s.now) ∧
      s.RegsBut t [(F.VCB_ERR_CRC_BAD, q), (F.PORT_FEC_CORRECTED, q), (F.PORT_FEC_UNCORR, q)] ∧ t.mem = s.mem) ∧
  (∀ (s : State) (q corr phase : Nat) (f : Flit), q < 36 → s.pstate q = 8 ∨ s.pstate q = 9 → flitBad (flitBytes f) false = false →
    fType (flitBytes f) = 1 → fNak (flitBytes f) = false →
    (let next := s.getF F.VCB_RXSEQ_NEXT_EXP q
     (fSeq (flitBytes f) = next →
      ∃ t, exec (.flitReceive q corr 0 false phase f) s = .next t ∧ t.getF F.VCB_RXSEQ_NEXT_EXP q = (next + 1) % 2 ^ 24) ∧
     (fSeq (flitBytes f) ≠ next → seqGe 24 (fSeq (flitBytes f)) next = true →
      ∃ t, exec (.flitReceive q corr 0 false phase f) s = .next t ∧ t.getF F.VCB_RXSEQ_NEXT_EXP q = next ∧ (t.port q).naking = true))) ∧
  (∀ (s : State) (q corr phase : Nat) (f : Flit), q < 36 → s.pstate q = 8 → s.portsOff = false → flitBad (flitBytes f) false = false →
    fType (flitBytes f) = 2 → tbBad ((flitBytes f).drop 14) = false →
    ∃ t, exec (.flitReceive q corr 0 false phase f) s = .next t ∧ t.pstate q = 2 ∧ (t.port q).rseq = fSeq (flitBytes f) ∧
      (t.port q).rack = fAck (flitBytes f) ∧ t.getF F.VCB_FLOW_RX_OFF q = fOff (flitBytes f)) ∧
  (∀ (s : State) (q corr phase : Nat) (f : Flit), q < 36 → s.pstate q = 8 → flitBad (flitBytes f) false = false →
    fType (flitBytes f) = 2 → fNak (flitBytes f) = false → tbBad ((flitBytes f).drop 14) = true →
    ∃ t, exec (.flitReceive q corr 0 false phase f) s = .next t ∧ t.pstate q = 8 ∧
      t.getF F.PORT_TRAIN_BAD_FRAMES q = satAdd F.PORT_TRAIN_BAD_FRAMES.w (s.getF F.PORT_TRAIN_BAD_FRAMES q) 1) ∧
  (∀ (s : State) (q : Nat) (body : List Byte), q < 36 →
    (let b := padTo 242 body
     leAt b 0 1 = 1 → (leAt b 1 1 = 1 ∨ leAt b 1 1 = 2) → leAt b 2 3 = s.getF F.PORT_NEIGH_NODE q → s.pstate q ≠ 0 →
     (b.drop 5).any (fun x => x != 0) = false → ¬ (s.pstate q = 1 ∧ (s.port q).gone = true) →
     exec (.goingAway q body) s = .next (s.goDown q 0x0A))) ∧
  (∀ (s : State) (q : Nat) (body : List Byte), q < 36 → leAt (padTo 242 body) 0 1 ≠ 1 → exec (.goingAway q body) s = .next s)

/-- In a slot of a port in UP or MGMT_ONLY that is not going away, grants no sleep and asks for none: with no replay the picked flit
goes with the number NEXT_SEND, which moves on, and stays in the replay store; in a replay its flit goes with its own number; with
nothing to send an idle flit goes. A going-away port sends its going-away body. A port that asks for sleep sends the request once its
store is empty; a granting port enters SLEEP behind its flit. In VERSION and CONFIG a training flit carries OLDEST; a port
whose one READY body has gone sends idle flits; and in DEGRADE
the side that found the failure marks it. (From R238, R240, R241, R249, R250 and R259, in part.) -/
def Obligations.FlitsAreSent : Prop :=
  (∀ (s : State) (q phase : Nat) (f : TxFlit), q < 36 → (s.pstate q = 8 ∨ s.pstate q = 9) → (s.port q).going = 0 →
    (s.port q).grant = false → (s.port q).ask = 0 → (s.port q).replay = none → s.pickFlit q = some f →
    (let n := s.getF F.VCB_TXSEQ_NEXT_SEND q
     let x := s.port q
     let b := if f.first && f.ptype == ptBEACON then stampBody 18 (s.stampAt phase) f.body else f.body
     ∃ t, exec (.flitSlot q phase) s = .next t ∧ t.getF F.VCB_TXSEQ_NEXT_SEND q = (n + 1) % 2 ^ 24 ∧
      (t.port q).sent = makeFlit 1 f.vc n (s.getF F.VCB_RXSEQ_NEXT_EXP q) x.bsfDue x.nakDue (s.getF F.VCB_FLOW_TX_OFF q) x.flags
        f.first f.last b ∧
      (t.port q).store = (x.store ++ [{ f with seq := n, body := b }]).map (fun (g : TxFlit) => if g.seq = n then { g with since := s.now } else g) ∧
      t.mem = s.mem)) ∧
  (∀ (s : State) (q phase : Nat), q < 36 → (s.pstate q = 8 ∨ s.pstate q = 9) → (s.port q).going = 0 → (s.port q).grant = false →
    (s.port q).ask = 0 → (s.port q).replay = none → s.pickFlit q = none →
    exec (.flitSlot q phase) s = .next (s.idleSlot q)) ∧
  (∀ (s : State) (q phase n : Nat) (f : TxFlit), q < 36 → (s.pstate q = 8 ∨ s.pstate q = 9) → (s.port q).going = 0 →
    (s.port q).grant = false → (s.port q).ask = 0 → (s.port q).replay = some n →
    (s.port q).store.find? (fun g => g.seq == n) = some f →
    (let x := s.port q
     ∃ t, exec (.flitSlot q phase) s = .next t ∧
      (t.port q).sent = makeFlit 1 f.vc n (s.getF F.VCB_RXSEQ_NEXT_EXP q) x.bsfDue x.nakDue (s.getF F.VCB_FLOW_TX_OFF q) x.flags
        f.first f.last f.body ∧
      (t.port q).replay = (if (n + 1) % 2 ^ 24 = s.getF F.VCB_TXSEQ_NEXT_SEND q then none else some ((n + 1) % 2 ^ 24)))) ∧
  (∀ (s : State) (q phase : Nat), q < 36 → (s.pstate q = 8 ∨ s.pstate q = 9) → (s.port q).going ≠ 0 →
    exec (.flitSlot q phase) s = .next (s.emit q 3 0 0 false false (s.goneBody (s.port q).going))) ∧
  (∀ (s : State) (q phase : Nat), q < 36 → (s.pstate q = 8 ∨ s.pstate q = 9) → (s.port q).going = 0 → (s.port q).grant = false →
    (s.port q).ask ≠ 0 → (s.port q).asked = false → (s.port q).store = [] →
    ∃ t, exec (.flitSlot q phase) s = .next t ∧ (t.port q).asked = true ∧ (t.port q).askAt = s.now ∧
      bitAt (fFlags (flitBytes (t.port q).sent)) 0 = true) ∧
  (∀ (s : State) (q phase : Nat), q < 36 → (s.pstate q = 8 ∨ s.pstate q = 9) → (s.port q).going = 0 → (s.port q).grant = true →
    exec (.flitSlot q phase) s = .next ((s.idleSlot q).enterSleep q 11)) ∧
  (∀ (s : State) (q phase : Nat), q < 36 → s.pstate q = 5 ∨ s.pstate q = 6 →
    exec (.flitSlot q phase) s = .next (s.emit q 2 0 (s.getF F.VCB_TXSEQ_OLDEST q) false false (s.trainBody q))) ∧
  (∀ (s : State) (q phase : Nat), q < 36 → s.pstate q = 7 → (s.port q).tbeacon = [] → (s.port q).acked = 7 →
    (s.port q).saidReady = true → exec (.flitSlot q phase) s = .next (s.emit q 0 0 0 false false [])) ∧
  (∀ (s : State) (q phase : Nat), q < 36 → s.pstate q = 10 → (s.port q).half = true →
    ∃ t, exec (.flitSlot q phase) s = .next t ∧ bitAt (fFlags (flitBytes (t.port q).sent)) 3 = true ∧
      bitAt (fFlags (flitBytes (t.port q).sent)) 4 = (s.port q).high)

/-- The oldest flit, once it has waited the acknowledgement timeout since it was last sent, in a replay since that one sent
it, starts a replay from OLDEST, and at the
limit of 16 retrains the port with
cause REPLAY_LIMIT; a NAK unanswered for as long goes again; a due buffer-state frame is marked; 16 µs without one retrain the port with
cause CREDIT_TIMEOUT; past the hold time a DOWN port discards its traffic. (From R251, R252, R253, R255 and R261, in part.) -/
def Obligations.LinkTimersFire : Prop :=
  (∀ (s : State) (q : Nat) (f : TxFlit) (l : List TxFlit), q < 36 → (s.pstate q = 8 ∨ s.pstate q = 9) → (s.port q).store = f :: l →
    (s.port q).replay.any (seqGe 24 f.seq) = false → f.since + s.ackTimeout q ≤ s.now → s.getF F.VCB_REPLAY_RUN q < 16 →
    ∃ t, exec (.ackTimeout q) s = .next t ∧ (t.port q).replay = some f.seq ∧ (t.port q).replayAt = s.now ∧
      t.getF F.VCB_REPLAY_RUN q = s.getF F.VCB_REPLAY_RUN q + 1 ∧ (t.port q).store = (s.port q).store) ∧
  (∀ (s : State) (q : Nat) (f : TxFlit) (l : List TxFlit), q < 36 → (s.pstate q = 8 ∨ s.pstate q = 9) → s.portsOff = false →
    (s.port q).store = f :: l → (s.port q).replay.any (seqGe 24 f.seq) = false →
    f.since + s.ackTimeout q ≤ s.now → s.getF F.VCB_REPLAY_RUN q = 16 →
    ∃ t, exec (.ackTimeout q) s = .next t ∧ t.pstate q = 2 ∧ t.getF F.PORT_STATUS_CAUSE q = 9) ∧
  (∀ (s : State) (q : Nat), q < 36 → (s.pstate q = 8 ∨ s.pstate q = 9) → (s.port q).naking = true →
    (s.port q).nakAt + s.ackTimeout q ≤ s.now →
    exec (.nakTimeout q) s = .next (s.setPort q { s.port q with nakDue := true, nakAt := s.now })) ∧
  (∀ (s : State) (q : Nat), q < 36 → s.pstate q ≠ 0 → s.pstate q ≠ 11 → s.pstate q ≠ 13 →
    exec (.bsfSend q) s = .next (s.setPort q { s.port q with bsfDue := true })) ∧
  (∀ (s : State) (q : Nat), q < 36 → (s.pstate q = 8 ∨ s.pstate q = 9) → s.portsOff = false → (s.port q).bsfIn + 16000 ≤ s.now →
    ∃ t, exec (.creditTimeout q) s = .next t ∧ t.pstate q = 2 ∧ t.getF F.PORT_STATUS_CAUSE q = 8 ∧ t.mem = s.mem) ∧
  (∀ (s : State) (q : Nat), q < 36 → s.flag F.VCB_HOLD_HOLDING q = true → s.pstate q = 1 →
    (s.port q).downAt + 1000 * s.getF F.VCB_HOLD_HOLD_US q ≤ s.now →
    exec (.holdTimeExpiry q) s = .next (s.discardPort q))

/-! ## Routing (R266 to R284) -/

/-- ROUTE_LOOKUP looks up the oldest head flit not yet looked up with those that came with it, counts their ties and passes their
packets on. A whole packet for this node that is neither data nor a latch write is delivered; a planned packet whose entry names a port of
its partition that does not discard stands at that port, on VC1 past a dateline, and when it came by a port of the other jamb it has crossed
the hinge; a planned packet without an entry that names a port of its partition (for the owner's part the model's choice, log entry 70)
counts in MISSES, goes nowhere, and an active step of its partition is aborted. A write of a route entry is rejected, or changes that entry
alone and keeps PTR; a write of a fanlight entry changes that entry or sets FAN_REJECT; the active set of a partition in no step is the value
written. (From R266 to R270, R282 and R284, in part.) -/
def Obligations.PacketsAreRouted : Prop :=
  (∀ (s : State) (ties : Nat) (w : Worm) (t : List Worm), sameCycle s.rq (ties + 1) [] = w :: t →
    exec (.routeLookup ties) s = .next (((w :: t).foldl (fun s h => s.lookup w.cycle h) s).countTies w.cycle).passOn) ∧
  (∀ (s : State) (ties : Nat), sameCycle s.rq (ties + 1) [] = [] → exec (.routeLookup ties) s = .next s) ∧
  (∀ (s : State) (ties : Nat) (w : Worm), s.rq = [w] → w.seen = false → w.pkt.fan = false → w.pkt.dnode = s.node →
    w.pkt.lands = false → ¬ ((s.part w.pkt.part).quieting = true ∧ w.pkt.quiet = true) → w.complete = true → w.pkt.flits ≤ 17 →
    w.pkt.vc < 6 → w.jamb < 2 →
    ∃ t, exec (.routeLookup ties) s = .next t ∧ t.inbox = s.inbox ++ [w.pkt] ∧ t.rq = [] ∧ t.mem = s.mem) ∧
  (∀ (s : State) (ties i e : Nat) (w : Worm), s.rq = [w] → w.seen = false → w.pkt.fan = false → w.pkt.dnode ≠ s.node →
    w.pkt.vc ≤ 2 → ¬ ((s.part w.pkt.part).quieting = true ∧ w.pkt.quiet = true) → 0 < w.pkt.flits →
    s.getF F.RTE_PSET_SET w.pkt.part ≠ 0 →
    s.findEntry (s.tableOf w.pkt.dnode).1 w.pkt.part (s.getF F.RTE_PSET_SET w.pkt.part) (s.tableOf w.pkt.dnode).2 = some (i, e) →
    s.ownsPort w.pkt.part (ePlanned e) = true → (s.port (ePlanned e)).drop = false →
    (w.input = 0 ∨ w.jamb = ePlanned e / 18) →
    ∃ t, exec (.routeLookup ties) s = .next t ∧ t.inbox = s.inbox ∧ t.mem = s.mem ∧
      t.rq = [{ w with
        seen := true, here := false, since := s.now, jamb := ePlanned e / 18
        outs := [⟨ePlanned e, if w.pkt.vc = 0 ∧ eDateline e = true then 1 else w.pkt.vc, 0, 0⟩] }]) ∧
  (∀ (s : State) (ties i e : Nat) (w : Worm), s.rq = [w] → w.seen = false → w.pkt.fan = false → w.pkt.dnode ≠ s.node →
    w.pkt.vc ≤ 2 → ¬ ((s.part w.pkt.part).quieting = true ∧ w.pkt.quiet = true) → 0 < w.pkt.flits → w.complete = true → w.freed = 0 →
    w.pkt.flits ≤ 17 → s.getF F.RTE_PSET_SET w.pkt.part ≠ 0 →
    s.findEntry (s.tableOf w.pkt.dnode).1 w.pkt.part (s.getF F.RTE_PSET_SET w.pkt.part) (s.tableOf w.pkt.dnode).2 = some (i, e) →
    s.ownsPort w.pkt.part (ePlanned e) = true → (s.port (ePlanned e)).drop = false →
    w.input ≠ 0 → w.jamb < 2 → w.jamb ≠ ePlanned e / 18 →
    ∃ t u, exec (.routeLookup ties) s = .next t ∧ t.inbox = s.inbox ∧ t.mem = s.mem ∧ t.rq = [u] ∧ u.pkt = w.pkt ∧
      u.flits = w.flits ∧ u.jamb = ePlanned e / 18 ∧ u.hinge = true ∧ u.here = false ∧
      u.outs = [⟨ePlanned e, if w.pkt.vc = 0 ∧ eDateline e = true then 1 else w.pkt.vc, 0, 0⟩]) ∧
  (∀ (s : State) (ties : Nat) (w : Worm), s.rq = [w] → w.seen = false → w.pkt.fan = false → w.pkt.dnode ≠ s.node →
    w.pkt.vc ≤ 2 → ¬ ((s.part w.pkt.part).quieting = true ∧ w.pkt.quiet = true) →
    (s.getF F.RTE_PSET_SET w.pkt.part = 0 ∨
      ∀ i e, s.findEntry (s.tableOf w.pkt.dnode).1 w.pkt.part (s.getF F.RTE_PSET_SET w.pkt.part) (s.tableOf w.pkt.dnode).2 = some (i, e) →
        s.ownsPort w.pkt.part (ePlanned e) = false) →
    ∃ t, exec (.routeLookup ties) s = .next t ∧ (∀ k ∈ t.inbox, k ∈ s.inbox) ∧ t.mem = s.mem ∧
      t.getF F.RTE_STATUS_MISSES 0 = satAdd F.RTE_STATUS_MISSES.w (s.getF F.RTE_STATUS_MISSES 0) 1 ∧
      (s.stepActive w.pkt.part = true → (t.part w.pkt.part).aborted = true ∧ (t.part w.pkt.part).running = false)) ∧
  (∀ (s : State) (mbr : Bool) (i : Nat) (v : Word64), i < (if mbr then 128 else 4096) →
    (let r : Reg := if mbr then .RTE_MBR else .RTE_GRP
     let w := setBits v.toNat 0 8 (s.rdReg r i % 4)
     let bad := s.entryOk mbr i w = false ∨ s.entryLive (s.rdReg r i) = true ∨ s.entryLive w = true
     ∃ t, exec (.rteEntryWrite mbr i v) s = .next t ∧
      (bad → s.Only t [(F.RTE_STATUS_REJECT, 0)] ∧ t.flag F.RTE_STATUS_REJECT 0 = true) ∧
      (¬ bad → t = { s with regs := t.regs } ∧ t.rdReg r i = w ∧ ∀ r' j, r' ≠ r ∨ j ≠ i → t.rdReg r' j = s.rdReg r' j))) ∧
  (∀ (s : State) (t' w : Nat) (v : Word64), t' < 4096 → w < 6 →
    ∃ t, exec (.fanEntryWrite t' w v) s = .next t ∧ t = { s with regs := t.regs } ∧
      ∀ r j, (r, j) ∉ [(Reg.RTE_STATUS, 0), (.FAN_CFG, t'), (.FAN_DL, t'), (.FAN_CMASK, t' * 4 + (w - 2))] → t.rdReg r j = s.rdReg r j) ∧
  (∀ (s : State) (t' : Nat) (v : Word64), t' < 4096 → s.treeInUse (bitsOf (s.rdReg .FAN_CFG t') 59 4) t' = false →
    s.fanEntryOk (setBits v.toNat 36 13 0) (s.rdReg .FAN_DL t') = true →
    ∃ t, exec (.fanEntryWrite t' 0 v) s = .next t ∧ t.rdReg .FAN_CFG t' = setBits v.toNat 36 13 0) ∧
  (∀ (s : State) (t' w : Nat) (v : Word64), t' < 4096 → w < 6 → s.treeInUse (bitsOf (s.rdReg .FAN_CFG t') 59 4) t' = true →
    ∃ t, exec (.fanEntryWrite t' w v) s = .next t ∧ t.flag F.RTE_STATUS_FAN_REJECT 0 = true ∧ s.Only t [(F.RTE_STATUS_FAN_REJECT, 0)]) ∧
  (∀ (s : State) (p : Nat) (v : Word64), p < 16 → (s.part p).running = false →
    ∃ t, exec (.rtePsetWrite p v) s = .next t ∧ t.getF F.RTE_PSET_SET p = bitsOf v.toNat 0 4 ∧ s.Only t [(F.RTE_PSET_SET, p)])

/-! ## Weights (R300 to R314) -/

/-- A response on a connected queue pair is written where its oldest read's item holds the segment: its bytes count in WLBYTES, and the read
goes on, or is done and off the queue pair; it makes its segment present, or, in a loaded record, read again. An Ethernet port in reset or
in SLEEP receives nothing. One on a queue pair that is not connected is dropped and counted, and so is a packet that is no connection, ARP
or neighbour message. A queue pair that exhausts its retries is disconnected with no reads; its record moves to QP1 where it has one. A
chain word of version 1 of the predecessor whose SEGS has risen makes segments present. The next announced segment is written into the
successor's chain word once everything before it is acknowledged. A stalled chain breaks once, an overdue successor is left out, and a
break that nobody repairs fails the record with CHAIN. (From R307, R308, R310, R388, R392 and R424, in part.) -/
def Obligations.WeightsArrive : Prop :=
  (∀ (s u : State) (jamb qp a : Nat) (ecn : Bool) (data bs : List Byte) (sym : Syms) (r : RRead) (l : List RRead), jamb < 2 → qp < 256 →
    s.dark = false → s.getF F.PWR_STATUS_STATE 0 ≠ 2 → (s.qp (jamb * 256 + qp)).conn = true →
    (s.qp (jamb * 256 + qp)).reads = r :: l → s.readTarget r = some a →
    (let i := jamb * 256 + qp
     let d := data.take (r.len - r.got)
     let s1 := if ecn then s.addF F.DMA_WLNET_CNP_SENT jamb 1 else s
     (s1.markAt (a + r.got)).write (a + r.got) [] d = (u, .ok bs) →
     (r.got + d.length < r.len →
      exec (.rdmaReadResponse jamb qp ecn data sym) s = .next ((u.addF F.DMA_WLBYTES_BYTES jamb d.length).setQp i
        { u.qp i with reads := { r with got := r.got + d.length } :: (u.qp i).reads.drop 1 }).issueReads) ∧
     (r.len ≤ r.got + d.length →
      exec (.rdmaReadResponse jamb qp ecn data sym) s = .next (((u.addF F.DMA_WLBYTES_BYTES jamb d.length).setQp i
        { u.qp i with reads := (u.qp i).reads.drop 1 }).readDone r sym).issueReads))) ∧
  (∀ (s : State) (r : RRead) (sym : Syms) (w : WRec), r.adapter = false → (s.plan r.plan).weights[r.item]? = some w → w.state = 1 →
    s.readDone r sym = (s.setRec r.plan r.item { w with present := r.seg + 1 }).wlRun r.plan r.item sym) ∧
  (∀ (s : State) (r : RRead) (sym : Syms) (w : WRec), r.adapter = false → (s.plan r.plan).weights[r.item]? = some w → w.state = 2 →
    s.readDone r sym = s.setRec r.plan r.item { w with redo := w.redo.filter (· != r.seg) }) ∧
  (∀ (s : State) (jamb qp : Nat) (ecn : Bool) (data : List Byte) (sym : Syms), jamb < 2 →
    s.dark = false → s.getF F.PWR_STATUS_STATE 0 ≠ 2 → ¬ (qp < 256 ∧ (s.qp (jamb * 256 + qp)).conn = true) →
    ∃ t, exec (.rdmaReadResponse jamb qp ecn data sym) s = .next t ∧ s.Only t [(F.DMA_WLNET_DROPPED, jamb)] ∧
      t.getF F.DMA_WLNET_DROPPED jamb = satAdd F.DMA_WLNET_DROPPED.w (s.getF F.DMA_WLNET_DROPPED jamb) 1) ∧
  (∀ (s : State) (jamb qp : Nat), jamb < 2 → qp < 256 → (s.qp (jamb * 256 + qp)).conn = true → s.plans = [] →
    ∃ t, exec (.rdmaRetryExhausted jamb qp) s = .next t ∧ (t.qp (jamb * 256 + qp)).conn = false ∧ (t.qp (jamb * 256 + qp)).reads = [] ∧
      t.getF F.DMA_WLSTAT_QP_ERRS jamb = satAdd F.DMA_WLSTAT_QP_ERRS.w (s.getF F.DMA_WLSTAT_QP_ERRS jamb) 1 ∧
      s.RegsBut t [(F.DMA_WLSTAT_QP_ERRS, jamb)]) ∧
  (∀ (s : State) (jamb qp k : Nat) (q : Plan) (w : WRec), jamb < 2 → qp < 256 → (s.qp (jamb * 256 + qp)).conn = true →
    s.plans = [(k, q)] → q.weights = [w] → q.aloads = [] → w.unread ≠ [] → w.jamb = jamb → w.qp = qp → w.alt = false → w.qp1 ≠ 0xFFFF →
    ∃ t, exec (.rdmaRetryExhausted jamb qp) s = .next t ∧ (t.plan k).weights = [{ w with alt := true }]) ∧
  (∀ (s : State) (jamb qp kind : Nat) (ecn : Bool) (data : List Byte) (sym : Syms), jamb < 2 →
    s.dark = true ∨ s.getF F.PWR_STATUS_STATE 0 = 2 →
    exec (.inboundPacket jamb kind) s = .next s ∧ exec (.rdmaReadResponse jamb qp ecn data sym) s = .next s) ∧
  (∀ (s : State) (jamb kind : Nat), jamb < 2 → s.dark = false → s.getF F.PWR_STATUS_STATE 0 ≠ 2 →
    ∃ t, exec (.inboundPacket jamb kind) s = .next t ∧ s.Only t [(F.DMA_WLNET_DROPPED, jamb)] ∧
      t.getF F.DMA_WLNET_DROPPED jamb =
        if kind ≤ 2 then s.getF F.DMA_WLNET_DROPPED jamb else satAdd F.DMA_WLNET_DROPPED.w (s.getF F.DMA_WLNET_DROPPED jamb) 1) ∧
  (∀ (s u : State) (k r : Nat) (sym : Syms) (bs : List Byte) (w : WRec), (s.plan k).weights[r]? = some w → w.state = 1 → w.kind = 2 →
    (s.markAt ((s.plan k).chainAddr w)).read ((s.plan k).chainAddr w) 64 sym = (u, .ok bs) →
    (leAt bs 0 1 = 1 → leAt bs 8 3 % 2 ^ 20 = w.pred → w.present < min (leAt bs 4 4) (segsOf w.len) →
     exec (.chainPoll k r sym) s = .next ((u.setRec k r
      { w with present := min (leAt bs 4 4) (segsOf w.len), rose := u.now, broke := none }).wlRun k r sym)) ∧
    (leAt bs 0 1 ≠ 1 → exec (.chainPoll k r sym) s = .next u)) ∧
  (∀ (s : State) (k r : Nat) (sym : Syms) (w : WRec), (s.plan k).weights[r]? = some w → w.kind ≠ 0 → w.lost = false → w.ann < w.fwd →
    tget 0 w.acks (w.ann + 1) = 0 → tget 0 w.acks 0 = 0 →
    ∃ u, u = s.setRec k r { w with ann := w.ann + 1, acks := tset 0 w.acks 0 1, sentAt := tset 0 w.sentAt 0 s.now } ∧
      exec (.chainWordWrite k r sym) s = .next ((u.sendBytes (u.plan k).part w.succ (w.succAddr + roundUp w.len 64) (.wl k r 0)
        (chainWord (if w.ann + 1 = segsOf w.len then 2 else 1) (w.ann + 1) u.node) 1).wlRun k r sym)) ∧
  (∀ (s : State) (k r : Nat) (w : WRec), (s.plan k).weights[r]? = some w → w.state = 1 → w.kind = 2 → w.broke = none →
    w.present < segsOf w.len → w.rose + 1000 * s.getF F.DMA_WLCTRL_STALL_US w.jamb ≤ s.now →
    ∃ t, exec (.chainBreak k r) s = .next t ∧ t.plan k = { s.plan k with weights := (s.plan k).weights.set r { w with broke := some s.now } } ∧
      t.getF F.DMA_WLSTAT_BREAKS w.jamb = satAdd F.DMA_WLSTAT_BREAKS.w (s.getF F.DMA_WLSTAT_BREAKS w.jamb) 1 ∧
      t.mem = s.mem) ∧
  (∀ (s : State) (k r : Nat) (w : WRec), (s.plan k).weights[r]? = some w → w.lost = false → s.overdue w = true →
    ∃ t w', exec (.succLost k r) s = .next t ∧ (t.plan k).weights[r]? = some w' ∧ w'.lost = true ∧ w'.acks = []) ∧
  (∀ (s : State) (k r : Nat) (w : WRec), (s.plan k).weights[r]? = some w → s.overdue w = false → exec (.succLost k r) s = .next s) ∧
  (∀ (s : State) (k r t0 : Nat) (w : WRec), (s.plan k).weights[r]? = some w → w.state = 1 → w.broke = some t0 →
    t0 + 1000000 * s.getF F.DMA_WLCTRL_REPAIR_MS w.jamb ≤ s.now →
    ∃ t w', exec (.chainRepairTimeout k r) s = .next t ∧ (t.plan k).weights[r]? = some w' ∧ w'.state = 3 ∧ w'.code = wlCHAIN ∧
      (t.plan k).weightState = 3)

/-! ## Serving (R320 to R339) -/

/-- While its partition runs no step, SUBMIT handles the entry at the head of a submission ring: one that passes the checks takes the lowest
free entry as QUEUED with its fields, and one that fails them takes none. CANCEL likewise frees the live request of its tag and counts it.
The rows that a composer chooses are of distinct requests of the partition, in their states: at most one a lane and PCHUNKS prefills of
CHUNK_MAX positions in all, each with the pages it needs, distinct and free, with its adapter resident; no customer is charged above its
level; with a target, prefill rows keep the predicted time within it, and decode rows do so or are of one priority. A chosen row takes its
pages and lane and charges its customer, and a refund gives the charge back. A refill keeps the level to the burst and accrues exactly
below it. The request that ends EVICTED is of the highest PRIO number and then the newest. At a due boundary of the composer what waited
takes effect, levels are refilled and page moves made, before a step is composed; a replayed step has its own boundary; another node
submits its step when its batch header holds the number it awaits. A due sample row ranks its candidates, drops those outside the
vocabulary and repeats, and its token is one of those kept (without any, token and log-probability are free: log entry 48); a failed read
ends the sampling. A delivered token advances its request or ends it. A paused sequence past SPILL_MS has its HBM pages copied to free
cellar pages. (From R316, R318, R320, R321, R324, R325, R327, R328, R331, R332, R336 and R339, in part.) -/
def Obligations.RequestsAreServed : Prop :=
  (∀ (s u : State) (k : Nat) (e : List Byte), s.subDue k = true → s.peekSub k = (u, some e) → leAt e 1 1 ≠ 2 →
    (let p := (u.ring k).fn - 1
     exec (.submit k) s = .next (((u.popSub k).submitEntry p e).refreshRqt p))) ∧
  (∀ (s u : State) (k : Nat) (e : List Byte), s.subDue k = true → s.peekSub k = (u, some e) → leAt e 1 1 = 2 →
    (let p := (u.ring k).fn - 1
     exec (.cancel k) s = .next (((u.popSub k).cancelEntry p u.now e).refreshRqt p))) ∧
  (∀ (s : State) (p : Nat) (e : List Byte), s.admitCheck p e = 0 →
    (let q := (s.submitEntry p e).req (s.freeEnt p)
     q.state = 1 ∧ q.prio = leAt e 2 1 ∧ q.customer = leAt e 4 2 ∧ q.tag = leAt e 8 8 ∧ q.adapter = leAt e 16 4 ∧
     q.promptLen = leAt e 20 4 ∧ q.genLimit = leAt e 24 4 ∧ q.prompt = leAt e 28 6 ∧ q.seed = leAt e 40 8 ∧ q.pages = [])) ∧
  (∀ (s : State) (p : Nat) (e : List Byte), s.admitCheck p e ≠ 0 → (s.submitEntry p e).reqs = s.reqs) ∧
  (∀ (s : State) (p i tb : Nat) (e : List Byte), leAt e 0 1 = 1 → zeros (slice e 2 6 ++ slice e 16 48) = true → s.byTag p (leAt e 8 8) = some i →
    (s.cancelEntry p tb e).req i = Req.init ∧
    (s.cancelEntry p tb e).getF F.RQT_COUNT_CANCELLED p = satAdd F.RQT_COUNT_CANCELLED.w (s.getF F.RQT_COUNT_CANCELLED p) 1) ∧
  (∀ (s : State) (p : Nat) (c : List Byte), (s.reqs.map (·.1)).Nodup →
    (let x := s.choose p c
     (x.picks.map (·.ent)).Nodup ∧ x.dec.length ≤ scLanes c ∧ x.pre.length ≤ scPchunks c ∧
     (x.pre.map (·.row.tokens)).sum ≤ scChunkMax c ∧
     (∀ k ∈ x.dec, k.ent ∈ s.reqIds p ∧ ((s.req k.ent).state = 3 ∨ (s.req k.ent).state = 4) ∧
       k.row = ⟨k.ent, (s.req k.ent).lane, 1, (s.req k.ent).pos, 1, true, true⟩) ∧
     (∀ k ∈ x.pre, k.ent ∈ s.reqIds p ∧ ((s.req k.ent).state = 1 ∨ (s.req k.ent).state = 2) ∧ k.row.ent = k.ent ∧ k.row.kind = 2 ∧
       k.row.pos = (s.req k.ent).pos ∧ 0 < k.row.tokens ∧ k.row.pos + k.row.tokens ≤ (s.req k.ent).prefillEnd ∧
       k.row.charged = decide ((s.req k.ent).redo = 0) ∧
       (k.row.sample = true ↔ (s.req k.ent).redo = 0 ∧ k.row.pos + k.row.tokens = (s.req k.ent).promptLen)) ∧
     (∀ k ∈ x.picks, (k.row.sample = true → s.isCq p (s.req k.ent).cring = true) ∧
       ((s.req k.ent).adapter ≠ 0 → (s.adapterSlot (scPlan c) (s.req k.ent).adapter).isSome = true) ∧
       k.new.length = pagesFor (k.row.pos + k.row.tokens) - (s.req k.ent).pages.length) ∧
     (x.picks.flatMap (·.new)).Nodup ∧
     (∀ g ∈ x.picks.flatMap (·.new), g ∉ s.usedPages p ∧ (g < scHbm c ∨ scCelFirst c ≤ g ∧ g < scCelFirst c + scCel c)) ∧
     (∀ a, 256 * ((x.picks.filter (fun k => k.row.charged && s.custAt p (s.req k.ent).customer == a)).map (·.row.tokens)).sum
       ≤ (s.cust a).level) ∧
     (∀ t, s.targetOf p x.dec = some t → x.pre ≠ [] → predict c (costOf x.picks) ≤ t) ∧
     (∀ t, s.targetOf p x.dec = some t → predict c (costOf x.dec) ≤ t ∨ ∀ a ∈ x.dec, ∀ b ∈ x.dec, a.prio = b.prio))) ∧
  (∀ (s : State) (p : Nat) (k : Pick), k.row.ent = k.ent → k.row.charged = true →
    (let r := s.req k.ent
     let a := s.custAt p r.customer
     let t := s.takePick p k
     (t.req k.ent).pages = r.pages ++ k.new ∧ (t.req k.ent).lane = k.row.lane ∧ (t.req k.ent).state = (if k.row.kind = 1 then 3 else 2) ∧
     (t.cust a).level = (s.cust a).level - 256 * k.row.tokens ∧
     (256 * k.row.tokens ≤ (s.cust a).level → ((t.refundRow p k.row).cust a).level = (s.cust a).level))) ∧
  (∀ (x : Cust) (t : Nat), x.en = true → (x.refill t).level ≤ x.burst * 256 ∧
    ((x.refill t).level < x.burst * 256 →
      (x.refill t).level * 10 ^ 9 + (x.refill t).rem = x.level * 10 ^ 9 + x.rate * 256 * (t - x.lastTb) + x.rem)) ∧
  (∀ (s : State) (p i : Nat), s.evictNext p = some i → i ∈ s.reqIds p ∧ (s.req i).pages ≠ [] ∧
    ∀ j ∈ s.reqIds p, (s.req j).pages ≠ [] →
      (s.req j).prio < (s.req i).prio ∨ ((s.req j).prio = (s.req i).prio ∧ (s.req j).lastTb ≤ (s.req i).lastTb)) ∧
  (∀ (s : State) (p : Nat) (redo : Bool) (areas : List Nat), p < 16 → s.boundaryFree p = true → s.rowsLeft p 0 = [] → s.rowsLeft p 1 = [] →
    s.replayDue p = false → ¬ (s.flag F.RQT_SERVE_OPEN p = true ∧ s.flag F.RQT_SERVE_COMPOSER p = false) →
    (let t := if (s.serve p).rows = [] then s.now else (s.part p).endAt
     ∃ u : State,
      (let o := u.otherNodes (u.serve p).cfg
       let v := o.1.writeTables p (o.1.serve p).cfg o.2
       exec (.servingBoundary p redo areas) s = .next (State.refreshRqt
         (if u.flag F.RQT_SERVE_OPEN p = true ∧ u.flag F.RQT_SERVE_COMPOSER p = true then
            (if (v.nextStepOf p).isSome = true then v else v.compose p t areas o.2 ((v.reqIds p).length + 1))
          else u) p)) ∧
      (u.serve p).newCfg = none ∧ (u.serve p).newSmp = none ∧ (u.serve p).custs = [] ∧ (u.serve p).prios = none ∧
      (u.serve p).rows = [] ∧ (u.serve p).outs = [] ∧
      (∀ c, (s.serve p).newCfg = some c → (u.serve p).cfg = c ∧ u.flag F.RQT_SERVE_OPEN p = true) ∧
      (∀ i, i < u.getF F.RQT_PART_CUST_COUNT p → (u.cust (u.custAt p i)).en = true →
        (u.cust (u.custAt p i)).level ≤ (u.cust (u.custAt p i)).burst * 256) ∧
      ∀ i ∈ u.reqIds p, (u.req i).spill = [])) ∧
  (∀ (s : State) (p : Nat) (redo : Bool) (areas : List Nat), p < 16 → s.boundaryFree p = true → s.rowsLeft p 0 = [] → s.rowsLeft p 1 = [] →
    s.replayDue p = true →
    exec (.servingBoundary p redo areas) s =
      .next (if (s.serve p).rows ≠ [] ∧ (s.serve p).failed = false then s.replayBoundary p else s)) ∧
  (∀ (s : State) (p : Nat) (redo : Bool) (areas : List Nat), p < 16 → s.boundaryFree p = true → s.rowsLeft p 0 = [] → s.rowsLeft p 1 = [] →
    s.replayDue p = false → s.flag F.RQT_SERVE_OPEN p = true → s.flag F.RQT_SERVE_COMPOSER p = false →
    exec (.servingBoundary p redo areas) s = .next ((s.takeRings p s.now).otherBoundary p areas)) ∧
  (∀ (s v : State) (p : Nat) (areas : List Nat) (h : List Byte),
    (let u := ((s.applyCfg p).applyNewSmp p).applyCusts p
     let c := (u.serve p).cfg
     let no := (u.plan (scPlan c)).nextStep
     u.nextStepOf p = none → u.readR (scBatch c + no % 2 * 262144) 64 [] = (v, .ok h) →
     (leAt h 0 1 ≠ 1 ∨ leAt h 16 8 ≠ no → s.otherBoundary p areas = v) ∧
     (leAt h 0 1 = 1 → leAt h 16 8 = no →
      ∃ w : State, s.otherBoundary p areas = w.prepare p [] areas ∧ w = { v with regs := w.regs, steps := w.steps } ∧
       (∃ r, w.steps = v.steps ++ [r] ∧ r.part = p ∧ r.plan = scPlan c ∧ r.tag = 0) ∧
       v.RegsBut w [(F.RQT_SERVE_STEP, p)] ∧ w.getF F.RQT_SERVE_STEP p = no % 2 ^ 32))) ∧
  (∀ (s : State) (p ent : Nat), p < 16 → s.pairStopped = false → ent ∈ s.reqIds p → (s.req ent).state = 4 → scSpillMs (s.serve p).cfg ≠ 0 →
    (s.req ent).spill = [] →
    (s.req ent).lastRun + 1000000 * scSpillMs (s.serve p).cfg ≤ s.now →
    (let c := (s.serve p).cfg
     let free := ((List.range (scCel c)).map (scCelFirst c + ·)).filter (fun g => !(s.usedPages p).contains g)
     let moves := ((s.req ent).pages.filter (fun g => decide (g < scHbm c))).zip free
     ∃ t, exec (.spill p ent) s = .next t ∧ (t.req ent).spill = moves ∧ (t.req ent).pages = (s.req ent).pages ∧
      (t.req ent).state = 4)) ∧
  (∀ (s u1 u2 u3 u4 : State) (p lane : Nat) (sym : Syms) (r : Row) (rest : List Row) (bs : List Byte) (g : Machine.PSet) (ok : Bool)
    (win last : List Nat), p < 16 → s.rowsLeft p (lane % 2) = r :: rest → r.lane = lane → s.rowsAhead p (lane % 2) = false →
    (let q := s.req r.ent
     let m := s.getF F.SMP_PSHAPE_SHARDS p * s.getF F.SMP_PSHAPE_K p
     let n := r.pos + r.tokens
     s.readOpt (s.getF F.SMP_PCAND_BASE p * 64 + r.lane * s.getF F.SMP_PSHAPE_SHARDS p * s.getF F.SMP_PSHAPE_K p * 8) (m * 8) sym =
       (u1, some bs) →
     u1.readSet p q.sparam sym = (u2, some g, ok) →
     u2.readTokens p q (max (n - g.window) (if g.penPrompt = true then 0 else q.promptLen)) n sym = (u3, some win) →
     u3.readTokens p q (max (n - 15) q.promptLen) n sym = (u4, some last) →
     (let l := (dropCands (u4.getF F.SMP_PSHAPE_VOCAB p) (rankCands (candsOf m bs)) []).1
      let cands := rankCands ((l.take (u4.getF F.SMP_PSHAPE_KM p)).map (adjust g win))
      let d := draw g q.seed n cands
      ∃ t o, exec (.sampleRow p lane sym) s = .next t ∧ (t.serve p).outs = (u4.serve p).outs ++ [o] ∧ o.lane = r.lane ∧ o.ent = r.ent ∧
       o.badSet = !ok ∧ t.mem = u4.mem ∧ t.reqs = u4.reqs ∧ o.stop = g.stops.findIdx? (stopHit (last ++ [o.token])) ∧
       t.getF F.SMP_STATUS_ROWS 0 = satAdd F.SMP_STATUS_ROWS.w (u4.getF F.SMP_STATUS_ROWS 0) 1 ∧
       (cands ≠ [] → o.token = d.1 ∧ o.logprob = d.2.1 ∧ o.degenerate = d.2.2 ∧ o.token ∈ l.map (·.1) ∧
         o.token < u4.getF F.SMP_PSHAPE_VOCAB p)))) ∧
  (∀ (s u : State) (p lane : Nat) (sym : Syms) (r : Row) (rest : List Row), p < 16 → s.rowsLeft p (lane % 2) = r :: rest →
    r.lane = lane → s.rowsAhead p (lane % 2) = false →
    s.readOpt (s.getF F.SMP_PCAND_BASE p * 64 + r.lane * s.getF F.SMP_PSHAPE_SHARDS p * s.getF F.SMP_PSHAPE_K p * 8)
      (s.getF F.SMP_PSHAPE_SHARDS p * s.getF F.SMP_PSHAPE_K p * 8) sym = (u, none) →
    ∃ t, exec (.sampleRow p lane sym) s = .next t ∧ (t.serve p).badRead = true ∧ (t.serve p).outs = (u.serve p).outs ∧
      t.getF F.SMP_ERR_READ 0 = satAdd F.SMP_ERR_READ.w (u.getF F.SMP_ERR_READ 0) 1 ∧ t.rowsLeft p 0 = [] ∧ t.rowsLeft p 1 = []) ∧
  (∀ l : List Cand, (rankCands l).Perm l ∧ (rankCands l).Pairwise (fun a b => candBefore b a = false)) ∧
  (∀ (vocab : Nat) (l : List Cand),
    (let r := dropCands vocab l []
     r.1.Sublist l ∧ (r.1.map (·.1)).Nodup ∧ (∀ x ∈ r.1, x.1 < vocab) ∧ r.1.length + r.2 = l.length ∧
     ∀ x ∈ l, x.1 < vocab → x.1 ∈ r.1.map (·.1))) ∧
  (∀ (g : Machine.PSet) (seed n : Nat) (x : Cand) (l : List Cand), isNan x.2 = false → bitsOf x.2 0 31 ≠ 0x7F800000 → bitsOf g.temp 0 31 = 0 →
    draw g seed n (x :: l) = (x.1, 0, false)) ∧
  (∀ (s : State) (p t : Nat) (r : Row) (o : SOut),
    (let q := s.req r.ent
     let u := s.deliverToken p t r o
     (o.stop = none → q.generated + 1 < q.genLimit →
      u.req r.ent = { q with generated := q.generated + 1, lastTok := o.token, lastTb := t }) ∧
     (o.stop.isSome = true ∨ q.genLimit ≤ q.generated + 1 → u.req r.ent = Req.init) ∧ ∀ i, i ≠ r.ent → u.req i = s.req i))

/-! ## Security (R343 to R361) -/

/-- From READY on each SPDM request gets its response: the version, capabilities, chosen algorithms, the certificate chain that the
package holds and its SHA-384, and, once algorithms are chosen, a challenge signed; a measurement report gives each block that the requester
may read and its nonce. An exchange with algorithms chosen opens a session while fewer than 32 are held; a partition has one, and none while
TAMPERED, with that code. FINISH establishes it and binds that of a VF, whose bounce keys are expanded from the session's export master secret
(a free value: log entry 25); a key update does so anew. Inside an established session a heartbeat, a key update and the end are answered, and
the end takes the bounce keys away. (From R352, R353, R356 and R360, in part.) -/
def Obligations.SessionsRun : Prop :=
  (∀ (s : State) (who : Nat), who ≤ 17 → s.flag F.CTL_STATUS_READY 0 = true → s.boot.quiet = false → s.boot.held = false →
    (∃ t, exec (.getVersion who) s = .next t ∧ t.spdm = s.spdm ++ [⟨who, 0x04, leBytes 1 0x13⟩] ∧ who ∉ t.algs ∧
      t = { s with spdm := t.spdm, algs := t.algs }) ∧
    exec (.getCapabilities who) s = .next { s with spdm := s.spdm ++ [⟨who, 0x61, []⟩] } ∧
    (∀ offer, offer % 16 ≠ 0 → exec (.negotiateAlgorithms who offer) s =
      .next { s with algs := who :: s.algs.filter (· != who), spdm := s.spdm ++ [⟨who, 0x63, leBytes 1 (offer % 16)⟩] }) ∧
    exec (.getDigests who) s = .next { s with spdm := s.spdm ++ [⟨who, 0x01, sha384 s.fw.chain⟩] } ∧
    (∀ n, n < 65536 → exec (.getCertificate who n) s = .next { s with spdm := s.spdm ++ [⟨who, 0x02, s.fw.chain.take n⟩] }) ∧
    (who ∈ s.algs → ∃ g t, exec (.challenge who) s = .next t ∧ t = { s with free := t.free, spdm := s.spdm ++ [⟨who, 0x03, g⟩] }) ∧
    (who ∉ s.algs → exec (.challenge who) s = .next (s.spdmErr who spUNEXPECTED)) ∧
    (∀ sess index nonce, sess = 0 ∨ s.session who sess = true → ∃ g t, exec (.getMeasurements who sess index nonce) s = .next t ∧
      t = { s with free := t.free, tamp := t.tamp, spdm := s.spdm ++ [⟨who, 0x60,
        (if index = 255 then [1, 2, 3, 4, 5] ++ (List.range 16).map (· + 16) else [index]).flatMap (fun i => leBytes 1 i ++
          (if mayMeasure who i (sess != 0) then leBytes 2 (s.block i).length ++ s.block i else leBytes 2 0)) ++ leBytes 8 nonce ++ g⟩] } ∧
      t.tamp = if who = 0 then { s.tamp with reports := nonce % 2 ^ 64 :: s.tamp.reports } else s.tamp) ∧
    (who ∈ s.algs → s.sessions.length < 32 → (1 ≤ who ∧ who ≤ 16 →
        s.flag F.SEC_STATUS_TAMPERED 0 = false ∧ s.sessions.any (fun x => x.who == who) = false) →
      ∃ t, exec (.keyExchange who) s = .next t ∧ t.sessions = s.sessions ++ [⟨s.nextSess, who, false, []⟩] ∧ t.nextSess = s.nextSess + 1 ∧
        t.flag F.SEC_STATUS_KEYOP 0 = true ∧ s.RegsBut t [(F.SEC_STATUS_KEYOP, 0)]) ∧
    (who ∈ s.algs → 1 ≤ who → who ≤ 16 → s.flag F.SEC_STATUS_TAMPERED 0 = true →
      exec (.keyExchange who) s = .next { s with spdm := s.spdm ++ [⟨who, 0x7E, leBytes 1 resTAMPERED⟩] }) ∧
    (who ∈ s.algs → ¬ (1 ≤ who ∧ who ≤ 16 ∧ s.flag F.SEC_STATUS_TAMPERED 0 = true) →
      (32 ≤ s.sessions.length ∨ (1 ≤ who ∧ who ≤ 16 ∧ s.sessions.any (fun x => x.who == who) = true)) →
      exec (.keyExchange who) s = .next (s.spdmErr who spBUSY)) ∧
    (∀ id, s.holds who id false = true →
      ∃ e t, e.length = 48 ∧ exec (.finish who id true) s = .next t ∧ ⟨id, who, true, e⟩ ∈ t.sessions ∧
      (1 ≤ who → who ≤ 16 → (t.psecOf (who - 1)).session = some id ∧ t.flag F.SEC_PCTL_SESSION (who - 1) = true ∧
        t.bounceOf (who - 1) =
          { Bounce.init with keyIn := hkdfExpand e (ascii "w1 bounce h2d") 32, keyOut := hkdfExpand e (ascii "w1 bounce d2h") 32 })) ∧
    (∀ id, s.session who id = true →
      exec (.heartbeat who id) s = .next { s with spdm := s.spdm ++ [⟨who, 0x68, []⟩] } ∧
      (∃ e t, e.length = 48 ∧ exec (.keyUpdate who id) s = .next t ∧ ⟨id, who, true, e⟩ ∈ t.sessions ∧
        t.spdm = s.spdm ++ [⟨who, 0x69, []⟩] ∧
        (1 ≤ who → who ≤ 16 → t.bounceOf (who - 1) =
          { Bounce.init with keyIn := hkdfExpand e (ascii "w1 bounce h2d") 32, keyOut := hkdfExpand e (ascii "w1 bounce d2h") 32 })) ∧
      (∃ t, exec (.endSession who id) s = .next t ∧ t.session who id = false ∧ t.spdm = s.spdm ++ [⟨who, 0x6C, []⟩] ∧
        (1 ≤ who → who ≤ 16 → (t.bounceOf (who - 1)).keyIn = [] ∧ (t.bounceOf (who - 1)).keyOut = [])) ∧
      (∀ id', s.session who id' = false →
        exec (.heartbeat who id') s = .next (s.spdmErr who spUNEXPECTED) ∧ exec (.keyUpdate who id') s = .next (s.spdmErr who spUNEXPECTED) ∧
        exec (.endSession who id') s = .next (s.spdmErr who spUNEXPECTED))))

/-- A bound session, or the PF where it may, installs a partition's plan key; a bound session sets the host mode once, NONE included,
and in mode IDE its keys. A debug nonce is kept until it is answered; a known nonce with a good signature of a debug key, over the nonce, the
DeviceID digest and the level (laid out as log entry 57 says), opens level 0 or 1, or starts what level 2 asks for, and any other answer
counts in FAILS. The first tamper alarm of a package past start-up is recorded, ends every session, takes the plan keys, the nonces and a
waiting unlock away and revokes every partition's key; one during start-up ends in vestibule mode without CDI_0; a further one only counts.
TAMPERED clears only after a power cycle, with the nonce of one of the PF's reports since and no sensor tripped. A failed entropy source is
shown. (From R350, R351, R354, R357 to R362, in part.) -/
def Obligations.SecretsAreGuarded : Prop :=
  (∀ (s : State) (who p digest : Nat), p < 16 → s.flag F.CTL_STATUS_READY 0 = true → s.boot.quiet = false → s.boot.held = false →
    (who = p + 1 ∧ (s.psecOf p).session.isSome = true ∨ who = 0 ∧ s.flag F.SEC_PCTL_OPKEYS p = true) →
    s.pairStopped = false → s.flag F.SEC_STATUS_TAMPERED 0 = false → s.plansOf p = [] →
    ∃ t, exec (.setPlanKey who p digest) s = .next t ∧ (t.psecOf p).planKey = some (digest % 2 ^ 384) ∧
      t.getF F.SEC_PKEYID_KEYID p = digest % 2 ^ 384 % 2 ^ 64 ∧ t.spdm = s.spdm ++ [⟨who, 0x7E, leBytes 1 resOK⟩] ∧
      s.RegsBut t [(F.SEC_PKEYID_KEYID, p)]) ∧
  (∀ (s : State) (p mode id : Nat), p < 16 → s.flag F.CTL_STATUS_READY 0 = true → s.boot.quiet = false → s.boot.held = false →
    (s.psecOf p).session = some id → (s.psecOf p).loaded = false → (s.psecOf p).modeSet = false → mode ≤ 2 →
    ∃ t, exec (.setHostMode p mode) s = .next t ∧ t.getF F.SEC_PCTL_HMODE p = mode ∧ s.RegsBut t [(F.SEC_PCTL_HMODE, p)] ∧
      (t.psecOf p).modeSet = true ∧ t.spdm = s.spdm ++ [⟨p + 1, 0x7E, leBytes 1 resOK⟩]) ∧
  (∀ (s : State) (p mode : Nat), p < 16 → s.flag F.CTL_STATUS_READY 0 = true → s.boot.quiet = false → s.boot.held = false →
    (s.psecOf p).session = none ∨ (s.psecOf p).loaded = true ∨ (s.psecOf p).modeSet = true →
    exec (.setHostMode p mode) s = .next { s with spdm := s.spdm ++ [⟨p + 1, 0x7E, leBytes 1 resFAILED⟩] }) ∧
  (∀ (s : State) (p id : Nat), p < 16 → s.flag F.CTL_STATUS_READY 0 = true → s.boot.quiet = false → s.boot.held = false →
    (s.psecOf p).session = some id → s.getF F.SEC_PCTL_HMODE p = 1 →
    ∃ t, exec (.ideKm p) s = .next t ∧ (t.psecOf p).ide = true ∧ t.regs = s.regs) ∧
  (∀ s : State, s.flag F.CTL_STATUS_READY 0 = true → s.boot.quiet = false → s.boot.held = false →
    ∃ b t, exec .debugNonce s = .next t ∧ b.length = 32 ∧ t.nonces = s.nonces ++ [leNat b] ∧ t.spdm = s.spdm ++ [⟨18, 0x7E, b⟩]) ∧
  (∀ (s : State) (nonce level : Nat) (g : DebugSig), s.flag F.CTL_STATUS_READY 0 = true → s.boot.quiet = false → s.boot.held = false →
    (let good := (sha384n g.pub = Config.debugKey ∨ (s.boot.debugKey ≠ 0 ∧ sha384n g.pub = s.boot.debugKey)) ∧
       g.msg = leBytes 32 nonce ++ s.devDigest ++ leBytes 1 level ∧ g.ok = true
     (nonce ∈ s.nonces → good → level ≤ 1 →
      ∃ t, exec (.debugUnlock nonce level g) s = .next t ∧ t.nonces = s.nonces.erase nonce ∧
       t.getF F.SEC_DEBUG_LEVEL 0 = max level (s.getF F.SEC_DEBUG_LEVEL 0) ∧ s.RegsBut t [(F.SEC_DEBUG_LEVEL, 0)]) ∧
     (nonce ∈ s.nonces → good → level = 2 →
      exec (.debugUnlock nonce level g) s = .next (State.debugTwo { s with nonces := s.nonces.erase nonce })) ∧
     (nonce ∉ s.nonces ∨ ¬ good ∨ 2 < level →
      ∃ t, exec (.debugUnlock nonce level g) s = .next t ∧ t.nonces = s.nonces.erase nonce ∧
       t.getF F.SEC_DEBUG_FAILS 0 = satAdd F.SEC_DEBUG_FAILS.w (s.getF F.SEC_DEBUG_FAILS 0) 1 ∧ s.RegsBut t [(F.SEC_DEBUG_FAILS, 0)]))) ∧
  (∀ (s : State) (cause sensor : Nat), 1 ≤ cause → cause ≤ 4 → sensor < 256 → s.flag F.SEC_STATUS_TAMPERED 0 = false → s.phase ≠ 0 →
    ∃ t, exec (.tamperAlarm cause sensor) s = .next t ∧ t.flag F.SEC_STATUS_TAMPERED 0 = true ∧ t.getF F.SEC_TAMPER_CAUSE 0 = cause ∧
      t.getF F.SEC_TAMPER_SENSOR 0 = sensor ∧ t.getF F.SEC_TTIME_TB 0 = s.now ∧ t.sessions = [] ∧
      t.nonces = [] ∧ t.debugWant = false ∧ t.tamp = ⟨false, []⟩ ∧
      ∀ p < 16, (t.psecOf p).planKey = none ∧ (t.psecOf p).ide = false ∧ t.getF F.SEC_PKEYID_KEYID p = 0 ∧
        (s.exists' p = true → (t.key p).revoked = true)) ∧
  (∀ (s : State) (cause sensor : Nat), 1 ≤ cause → cause ≤ 4 → sensor < 256 → s.flag F.SEC_STATUS_TAMPERED 0 = false → s.phase = 0 →
    s.boot.held = false → s.boot.quiet = false →
    ∃ t, exec (.tamperAlarm cause sensor) s = .next t ∧ t.flag F.SEC_STATUS_TAMPERED 0 = true ∧ t.getF F.SEC_TAMPER_PHASE 0 = 0 ∧
      t.flag F.BOOT_STATUS_VESTIBULE 0 = true ∧ t.getF F.BOOT_STATUS_REASON 0 = 2 ∧ t.boot.cdi0 = [] ∧ t.debugWant = false) ∧
  (∀ (s : State) (cause sensor : Nat), 1 ≤ cause → cause ≤ 4 → sensor < 256 → s.flag F.SEC_STATUS_TAMPERED 0 = true →
    ∃ t, exec (.tamperAlarm cause sensor) s = .next t ∧ s.Only t [(F.SEC_TAMPER_COUNT, 0)] ∧
      t.getF F.SEC_TAMPER_COUNT 0 = satAdd F.SEC_TAMPER_COUNT.w (s.getF F.SEC_TAMPER_COUNT 0) 1) ∧
  (∀ (s : State) (v : Word64) (trip : Bool), s.flag F.SEC_STATUS_TAMPERED 0 = true →
    ∃ t, exec (.tamperClear v trip) s = .next t ∧ s.Only t [(F.SEC_STATUS_TAMPERED, 0)] ∧
      (t.flag F.SEC_STATUS_TAMPERED 0 = false ↔ s.tamp.cycled = true ∧ v.toNat ∈ s.tamp.reports ∧ trip = false)) ∧
  (∀ s : State, ∃ t, exec .entropyFail s = .next t ∧ t.flag F.SEC_STATUS_DRBG_FAIL 0 = true ∧ s.Only t [(F.SEC_STATUS_DRBG_FAIL, 0)])

/-! ## Header checks (R21, R43, R433) -/

/-- Of a command the dispatcher decodes, the first of the header checks that fails, in the order of R433, faults its core
with that check's code: engine 6 or 7, an unlisted opcode, a format its opcode does not accept, a reserved bit (or a predicate bit
where R65 reserves them), a used clause that names latch 48 or above, a remote SIGNAL clause where none is allowed. The core stops at
that command and its partition's step aborts. A command of codes 0 to 4 that passes waits in its engine's queue; one of code 5 is
held by the dispatcher itself. The operand checks of a command that an engine starts or the
dispatcher handles are the list of R434, in its order, and the first that fails faults the core with its code, its engine and its sequence
number. A command that its predicate skips meets no operand check: it starts with nothing of its own to do, but for the remote latch
writes of an SD_DATA or SD_LATCH, and a skipped command of the dispatcher only signals. (R433; from R64 and R434, in part.) -/
def Obligations.HeaderIsChecked : Prop :=
  (∀ c : Cmd, headerCheck c =
    (let op := opOf (hEngine c) (hOpcode c)
     let checks : List (Bool × Nat) := [(decide (6 ≤ hEngine c), 0x01), (op.isNone, 0x02),
        (!(op.elim [] Op.formats).contains (hFormat c), fcFORMAT),
        (decide (cbits c 107 5 ≠ 0 ∨ cbits c 94 2 ≠ 0 ∨ cbits c 78 2 ≠ 0 ∨ cbits c 54 2 ≠ 0 ∨ cbits c 30 2 ≠ 0 ∨
          (op ∈ [some Op.sdArrive, some Op.latchReset, some Op.beatEnd, some Op.stepEnd] ∧ cbits c 16 6 ≠ 0)), 0x03),
        ((waits c ++ localSignals c ++ remoteSignals c).any (fun w => decide (48 ≤ w.1)), fcLATCH_RANGE),
        (remoteSignals c != [] && decide (op ≠ some Op.sdData ∧ op ≠ some Op.sdLatch), fcSIG_REMOTE)]
     ((checks.find? (·.1)).map (·.2)).getD 0)) ∧
  (∀ (s : State) (core : Nat) (c : Cmd), core < 256 → s.mayDispatch core = true → (s.core core).next = .cmd c →
    ((s.core core).seq + 1 = s.getF F.DISP_STREAM_LEN_COMMANDS core → opOf (hEngine c) (hOpcode c) = some .stepEnd) →
    headerCheck c ≠ 0 → s.flag F.CORE_FAULT_VALID core = false →
    ∃ t, exec (.dispatchCommand core) s = .next t ∧ t.getF F.CORE_FAULT_CODE core = headerCheck c ∧
      t.flag F.CORE_FAULT_VALID core = true ∧ t.getF F.CORE_FAULT_SEQ core = (s.core core).seq % 2 ^ F.CORE_FAULT_SEQ.w ∧
      (t.core core).stop = some (s.core core).seq ∧
      (s.stepActive (s.partOf core) = true → (t.part (s.partOf core)).running = false) ∧ t.mem = s.mem) ∧
  (∀ (s : State) (core : Nat) (c : Cmd), core < 256 → s.mayDispatch core = true → (s.core core).next = .cmd c →
    ((s.core core).seq + 1 = s.getF F.DISP_STREAM_LEN_COMMANDS core → opOf (hEngine c) (hOpcode c) = some .stepEnd) →
    headerCheck c = 0 → hEngine c < 5 → ((s.core core).queue (hEngine c)).length < 64 →
    ∃ t, exec (.dispatchCommand core) s = .next t ∧ (t.core core).queue (hEngine c) = (s.core core).queue (hEngine c) ++
        [⟨c, (s.core core).seq, (s.core core).beat, false, false, [], [], 0, none⟩] ∧ (t.core core).seq = (s.core core).seq + 1 ∧
      t.mem = s.mem) ∧
  (∀ (s : State) (core : Nat) (c : Cmd), core < 256 → s.mayDispatch core = true → (s.core core).next = .cmd c →
    ((s.core core).seq + 1 = s.getF F.DISP_STREAM_LEN_COMMANDS core → opOf (hEngine c) (hOpcode c) = some .stepEnd) →
    headerCheck c = 0 → hEngine c = 5 →
    exec (.dispatchCommand core) s = .next (s.setCore core { s.core core with held := true })) ∧
  (∀ (env : CheckEnv) (op : Op) (c : Cmd), operandCheck env op c =
    (let sh := shapeOf c
     let block := if op = .sdData then cbytes c 50 8 else cbytes c 16 8
     let sends := op == .sdData || op == .sdLatch
     let checks : List (Bool × Nat) := [(rsvBit op c, 0x03),
        (op.shaped c && (sh.d0 == 0 || sh.d1 == 0 || sh.d2 == 0 || sh.d3 == 0), 0x21), (fmtBad op c, 0x40), (vopBad op c, 0x47),
        (blockBad op c, 0x41), (limitBad op c, 0x46),
        (op == .veTopk && (tkK c == 0 || decide (1024 < tkK c) || decide (sh.d0 < tkK c)), 0x4A), (alignBad op c, 0x22),
        (rangeBad op c, 0x20), ((op == .mmStream || op == .mmDrain) && decide (4096 < accRow c + sh.d1 * sh.d2 * sh.d3), 0x44),
        (op == .mmStream && decide (4096 < segOf c + sh.d0 / 32), 0x45),
        (op == .veOreduce && nodeBad (orS c) (orLevel c) (orIndex c), 0x48),
        (op == .sdArrive && !(cbits c 133 1 == 1) && decide (7 < cbits c 128 5), 0x28),
        (op == .sdArrive && cbits c 144 8 != 0 && decide (48 ≤ cbits c 136 6), 0x24),
        (sends && dbFan block && !env.trees.contains (dbTree block), 0x27),
        (sends && !dbFan block && decide (env.nodes ≤ dbNode block), 0x26)]
     ((checks.find? (·.1)).map (·.2)).getD 0)) ∧
  (∀ (s : State) (core : Nat) (e : QEntry) (x : Instr × Nat × Op), core < 256 → x ∈ [(.nop core 0, 0, .nop), (.nop core 1, 1, .nop),
      (.nop core 2, 2, .nop), (.nop core 3, 3, .nop), (.nop core 4, 4, .nop), (.ldCopy core, 0, .ldCopy), (.ldPgather core, 0, .ldPgather),
      (.mmWload core, 1, .mmWload), (.mmStream core, 1, .mmStream), (.mmDrain core, 1, .mmDrain), (.veBinary core, 2, .veBinary),
      (.veUnary core, 2, .veUnary), (.veRreduce core, 2, .veRreduce), (.veOreduce core, 2, .veOreduce), (.veCmp core, 2, .veCmp),
      (.veTopk core, 2, .veTopk), (.veTranspose core, 2, .veTranspose), (.stCopy core, 3, .stCopy), (.sdData core, 4, .sdData),
      (.sdLatch core, 4, .sdLatch), (.sdArrive core, 4, .sdArrive)] → s.startableOp core x.2.1 x.2.2 = some e →
    ((s.core core).skips e.cmd = true → exec x.1 s = .next ((s.putEntry core x.2.1 { e with
      started := true, skipped := true
      todo := if x.2.2 = .sdData ∨ x.2.2 = .sdLatch then (remoteSignals e.cmd).map (fun w =>
        (⟨.latch (if x.2.2 = .sdData then cbytes e.cmd 50 8 else cbytes e.cmd 16 8) w.1 w.2, 0, 0⟩ : Todo)) else [] }).refill core)) ∧
    ((s.core core).skips e.cmd = false → operandCheck (s.checkEnv core e.cmd) x.2.2 e.cmd ≠ 0 → s.flag F.CORE_FAULT_VALID core = false →
      ∃ t, exec x.1 s = .next t ∧ t.getF F.CORE_FAULT_CODE core = operandCheck (s.checkEnv core e.cmd) x.2.2 e.cmd ∧
        t.getF F.CORE_FAULT_ENGINE core = x.2.1 ∧ t.getF F.CORE_FAULT_SEQ core = e.seq % 2 ^ F.CORE_FAULT_SEQ.w ∧
        t.flag F.CORE_FAULT_VALID core = true ∧ (t.core core).stop = some e.seq ∧
        (s.stepActive (s.partOf core) = true → (t.part (s.partOf core)).running = false) ∧ t.mem = s.mem)) ∧
  (∀ (s : State) (core : Nat) (c : Cmd) (x : Instr × Op), core < 256 → x ∈ [(.nop core 5, .nop), (.beatEnd core, .beatEnd),
      (.stepEnd core, .stepEnd), (.latchReset core, .latchReset), (.peepEmit core, .peepEmit)] → s.heldOp core x.2 = some c →
    ((s.core core).skips c = true → x.2 ≠ .stepEnd →
      exec x.1 s = .next (((s.signal core c).modCore core (·.advance c)).updateHold ((s.signal core c).partOf core))) ∧
    ((s.core core).skips c = false → operandCheck (s.checkEnv core c) x.2 c ≠ 0 → s.flag F.CORE_FAULT_VALID core = false →
      ∃ t, exec x.1 s = .next t ∧ t.getF F.CORE_FAULT_CODE core = operandCheck (s.checkEnv core c) x.2 c ∧
        t.getF F.CORE_FAULT_ENGINE core = 5 ∧ t.flag F.CORE_FAULT_VALID core = true ∧ (t.core core).stop = some (s.core core).seq ∧
        (s.stepActive (s.partOf core) = true → (t.part (s.partOf core)).running = false) ∧ t.mem = s.mem))

/-! ## Packets that follow no plan (R275, R276) -/

/-- An unplanned packet without a base entry is discarded and recorded in RTE_MISS: no step aborts, and nothing is sent or delivered; the
requester's access then times out. A correct DATA flit on VC5 that is a whole packet is delivered to the package and never forwarded;
what the package sends on a port goes one hop; Ranuat forwards a management message for another endpoint on its management route, at
most 8 hops, and takes one for its own. (R275 and R276.) -/
def Obligations.UnplannedPackets : Prop :=
  (∀ (s : State) (ties : Nat) (w : Worm), s.rq = [w] → w.seen = false → w.pkt.fan = false → w.pkt.dnode ≠ s.node →
    3 ≤ w.pkt.vc → w.pkt.vc < 5 → s.findEntry (s.tableOf w.pkt.dnode).1 w.pkt.part 0 (s.tableOf w.pkt.dnode).2 = none →
    ∃ t, exec (.routeLookup ties) s = .next t ∧ (∀ u ∈ t.rq, u.pkt = w.pkt ∧ u.outs = [] ∧ u.here = false) ∧ t.inbox = s.inbox ∧
      t.parts = s.parts ∧ t.ports = s.ports ∧
      t.getF F.RTE_STATUS_MISSES 0 = satAdd F.RTE_STATUS_MISSES.w (s.getF F.RTE_STATUS_MISSES 0) 1 ∧ t.flag F.RTE_MISS_VALID 0 = true ∧
      (s.flag F.RTE_MISS_VALID 0 = false → t.getF F.RTE_MISS_NODE 0 = w.pkt.dnode % 2 ^ F.RTE_MISS_NODE.w ∧
        t.getF F.RTE_MISS_PARTITION 0 = w.pkt.part % 2 ^ F.RTE_MISS_PARTITION.w ∧ t.getF F.RTE_MISS_VC 0 = w.pkt.vc) ∧
      (s.flag F.RTE_MISS_VALID 0 = true → t.flag F.RTE_MISS_OVERFLOW 0 = true ∧ t.getF F.RTE_MISS_NODE 0 = s.getF F.RTE_MISS_NODE 0)) ∧
  (∀ (s : State) (jamb c j : Nat) (d : DmaDesc), jamb < 2 → c < 32 → (s.chan (jamb * 32 + c)).flight[j]? = some d → s.awaits d = true →
    (s.chan (jamb * 32 + c)).stopping = false →
    ∃ t e, exec (.dmaTimeout jamb c j) s = .next t ∧ (t.chan (jamb * 32 + c)).flight[j]? = some e ∧ e.status = 0x22) ∧
  (∀ (s : State) (q corr phase : Nat) (f : Flit) (k : Packet), q < 36 → s.pstate q = 8 ∨ s.pstate q = 9 →
    flitBad (flitBytes f) false = false → fType (flitBytes f) = 1 → fNak (flitBytes f) = false → fVc (flitBytes f) = 5 →
    fSeq (flitBytes f) = s.getF F.VCB_RXSEQ_NEXT_EXP q → fFirst (flitBytes f) = true → fLast (flitBytes f) = true → s.rq = [] →
    parseHead ((flitBytes f).drop 14) 5 (.port q) (s.portPart q) (s.stampAt phase) = some k → k.flits = 1 →
    ∃ t, exec (.flitReceive q corr 0 false phase f) s = .next t ∧ t.inbox = s.inbox ++ [k] ∧ t.rq = []) ∧
  (∀ (s : State) (q : Nat) (k : Packet), (s.port q).drop = false → s.rq = [] → 0 < k.flits →
    ∃ w, (s.portPut q k).rq = [w] ∧ w.pkt = k ∧ w.here = false ∧ w.outs.map (fun b => (b.port, b.vc, b.sent)) = [(q, k.vc, 0)]) ∧
  (∀ (s : State) (k : Packet) (rest : List Packet), takeFirst (fun k => k.ptype == ptMGMT) s.inbox = some (k, rest) →
    leAt k.body 1 1 = s.eid →
    exec .mgmtPacket s = .next { s with inbox := rest, mctpIn := s.mctpIn ++ [k.body] }) ∧
  (∀ (s : State) (k : Packet) (rest : List Packet) (r : Nat × Nat), takeFirst (fun k => k.ptype == ptMGMT) s.inbox = some (k, rest) →
    leAt k.body 1 1 ≠ s.eid → s.boot.mgmt.find? (fun r => r.1 == leAt k.body 1 1) = some r → k.arg % 16 + 1 ≤ 8 →
    (let u : State := { s with inbox := rest }
     exec .mgmtPacket s = .next (u.portPut r.2 (u.mkPacket ptMGMT 5 0 0 (k.arg % 16 + 1) k.body .unit 0)))) ∧
  (∀ (s : State) (k : Packet) (rest : List Packet), takeFirst (fun k => k.ptype == ptMGMT) s.inbox = some (k, rest) →
    leAt k.body 1 1 ≠ s.eid → 8 < k.arg % 16 + 1 →
    ∃ t, exec .mgmtPacket s = .next t ∧ t.inbox = rest ∧ t.ports = s.ports ∧ t.mctpIn = s.mctpIn)

/-! ## Register writes (R7, R8) -/

/-- A write to a register whose write is no action of its own, and that is no record, changes that register alone, field by field: a RW
field takes the value where its range and the state allow it, a 1 clears a W1C bit and sets a W1S bit, and RO, WO and reserved bits keep
their value. Clearing VALID of CORE_FAULT clears its record and FAULTED. A write to a register that takes none now, one to CTL_FWLOAD
from the fabric, one of SMP_PSHAPE or SMP_PSET whose VOCAB or COUNT is out of range, and any write while the package is held in reset
change nothing. A write to a register of an action named below does what its command does. (From R7, R8, R46, R340, R378 and R418, in
part.) -/
def Obligations.RegistersAreWritten : Prop :=
  (∀ (s : State) (a i : Nat) (v : Word64) (ok : Bool) (r : Reg), s.boot.held = false → regAt a = some (r, i) → (s.actReg r i v ok).isNone = true →
    s.regBusy r i = false →
    s.ringRegBad r i v.toNat = false → ¬ (r = .LATCH_SCTX ∧ s.secondStart i v.toNat = true) → recordFields r = [] →
    ∃ t, exec (.registerWrite a v ok) s = .next t ∧ t = { s with regs := t.regs } ∧
      (∀ r' j, r' ≠ r ∨ j ≠ i → t.rdReg r' j = s.rdReg r' j) ∧
      (∀ f ∈ r.fields,
        let x := bitsOf v.toNat f.lo f.w
        t.getF f i = match f.acc with
          | .RW => if s.fieldOk i f x then s.fieldVal i f x else s.getF f i
          | .W1C => s.getF f i &&& (2 ^ f.w - 1 - x)
          | .W1S => s.getF f i ||| x
          | _ => s.getF f i) ∧
      ∀ b, (∀ f ∈ r.fields, b < f.lo ∨ f.lo + f.w ≤ b) → bitAt (t.rdReg r i) b = bitAt (s.rdReg r i) b) ∧
  (∀ (s : State) (a i : Nat) (v : Word64) (ok : Bool) (r : Reg), regAt a = some (r, i) → (s.actReg r i v ok).isNone = true → s.regBusy r i = true →
    exec (.registerWrite a v ok) s = .next s) ∧
  (∀ (s : State) (a i : Nat) (v : Word64) (ok : Bool), s.boot.held = false → regAt a = some (.CORE_FAULT, i) → bitAt v.toNat 16 = true →
    ∃ t, exec (.registerWrite a v ok) s = .next t ∧ t.flag F.CORE_FAULT_VALID i = false ∧ t.getF F.CORE_FAULT_CODE i = 0 ∧
      t.getF F.CORE_FAULT_ENGINE i = 0 ∧ t.getF F.CORE_FAULT_SEQ i = 0 ∧ t.flag F.CORE_STATUS_FAULTED i = false) ∧
  (∀ (s : State) (p : Nat) (v : Word64) (ok : Bool), s.boot.held = false → p < 16 →
    exec (.registerWrite (0xFF0003000100 + 16 * p) v ok) s = exec (.memPhbmWrite p v) s ∧
    exec (.registerWrite (0xFF0003000108 + 16 * p) v ok) s = exec (.memPcelWrite p v) s) ∧
  (∀ (s : State) (q : Nat) (v : Word64) (ok : Bool), s.boot.held = false → q < 36 → v.toNat % 16 = 1 →
    exec (.registerWrite (0xFF0005000008 + 0x1000 * q) v ok) s = exec (.retrain q v) s) ∧
  (∀ (s : State) (q : Nat) (v : Word64) (ok : Bool), s.boot.held = false → q < 32 →
    exec (.registerWrite (0xFF0002000000 + 0x40 * q) v ok) s = exec (.paneFreqRequest q v) s) ∧
  (∀ (s : State) (p : Nat) (v : Word64) (ok : Bool), s.boot.held = false → p < 16 →
    exec (.registerWrite (0xFF0007000100 + 8 * p) v ok) s = exec (.rtePsetWrite p v) s) ∧
  (∀ (s : State) (v : Word64) (ok : Bool), s.boot.held = false → exec (.registerWrite 0xFF0002800028 v ok) s = exec (.timeStep v) s) ∧
  (∀ (s : State) (a i : Nat) (v : Word64) (ok : Bool) (r : Reg), regAt a = some (r, i) → s.boot.held = true →
    exec (.registerWrite a v ok) s = .next s) ∧
  (∀ (s : State) (a i : Nat) (v : Word64) (ok : Bool), regAt a = some (.CTL_FWLOAD, i) → exec (.registerWrite a v ok) s = .next s) ∧
  (∀ (s : State) (a i : Nat) (v : Word64) (ok : Bool) (r : Reg), regAt a = some (r, i) → s.inStep i = false → (s.serve i).rows = [] →
    ((r = .SMP_PSHAPE ∧ ¬ (1 ≤ bitsOf v.toNat 39 21 ∧ bitsOf v.toNat 39 21 ≤ 1048576)) ∨
      r = .SMP_PSET ∧ ¬ (1 ≤ bitsOf v.toNat 51 13 ∧ bitsOf v.toNat 51 13 ≤ 4096)) →
    exec (.registerWrite a v ok) s = .next s)

/-! ## The host side (R364 to R366, R372, R373, R375, R377) -/

/-- A doorbell that breaks a rule of R366 only counts in DB_IGNORED; another moves TAIL of a host-produced or HEAD of a device-produced
ring, and of a plan's ring also the header in memory; of a VF in BOUNCE mode it takes the new entries from records, or nothing, and an
entry of such a ring leaves as a record. A peephole record goes to the PEEP ring of its partition or is dropped and counted; the log
buffer is copied, oldest first, as far as the LOG ring has room; neither happens while the lockstep pair is stopped. The PF reads the power
registers of BAR0; in mode IDE a TLP off the stream is refused and counted; a VF reads and writes its ring slice in BAR4. A management
request is answered, and wakes a package in STANDBY or SLEEP; a received character joins the FIFO, or is lost and counted when that is
full; its value is the majority of its samples. What Ranuat's own records tell (log entry 76) and how many characters the console takes
and writes (log entry 64) are free values; which records come with a doorbell is the model's (log entry 36). (From R354, R364, R366,
R372, R373, R375, R377, R406 and R426, in part.) -/
def Obligations.HostIsServed : Prop :=
  (∀ (s : State) (fn at' : Nat) (v : Word64) (recs : List HostData), fn ≤ 16 →
    (let z := s.stir
     let cq := bitAt v.toNat 63
     let k := bitsOf v.toNat 32 16
     let x := bitsOf v.toNat 0 32
     let c := z.counters (z.ring k)
     (z.doorbellOff fn k cq = true →
      ∃ t, exec (.ctlDoorbell fn v at' recs) s = .next t ∧ z.Only t [(F.CTL_STATUS_DB_IGNORED, 0)] ∧
        t.getF F.CTL_STATUS_DB_IGNORED 0 = satAdd F.CTL_STATUS_DB_IGNORED.w (s.getF F.CTL_STATUS_DB_IGNORED 0) 1) ∧
     (z.doorbellOff fn k cq = false →
      (c.2 = none ∨ ∃ head tail, c.2 = some (head, tail) ∧ valueBad (c.1.ring k).log2n head tail x cq = true) →
      ∃ t, exec (.ctlDoorbell fn v at' recs) s = .next t ∧ c.1.Only t [(F.CTL_STATUS_DB_IGNORED, 0)] ∧
        t.getF F.CTL_STATUS_DB_IGNORED 0 = satAdd F.CTL_STATUS_DB_IGNORED.w (c.1.getF F.CTL_STATUS_DB_IGNORED 0) 1) ∧
     (z.doorbellOff fn k cq = false → ∀ head tail, c.2 = some (head, tail) → valueBad (c.1.ring k).log2n head tail x cq = false →
      exec (.ctlDoorbell fn v at' recs) s = .next (if cq then c.1.newHead k x tail at' else c.1.newTail k x head recs)))) ∧
  (∀ (s : State) (k : Nat), (s.ring k).role ≠ 7 → (s.ring k).role ≠ 8 → s.counters (s.ring k) = (s, some ((s.ring k).head, (s.ring k).tail))) ∧
  (∀ (s u : State) (k : Nat) (bs : List Byte), s.readR (s.ring k).off 64 [] = (u, .ok bs) →
    ((s.ring k).role = 7 → s.counters (s.ring k) = (u, some (leAt bs 0 4, (s.ring k).tail))) ∧
    ((s.ring k).role = 8 → s.counters (s.ring k) = (u, some ((s.ring k).head, leAt bs 4 4)))) ∧
  (∀ (s : State) (k x head : Nat) (recs : List HostData),
    (let r := s.ring k
     ((s.ring k).fn = 0 ∨ s.bounced ((s.ring k).fn - 1) = false →
      ((s.ring k).role ≠ 7 → s.newTail k x head recs = s.setRing k { r with tail := x }) ∧
      ((s.ring k).role = 7 →
       s.newTail k x head recs = (s.setRing k { r with tail := x }).writeQ r.off (padTo 64 (leBytes 4 head ++ leBytes 4 x)))) ∧
     (r.fn ≠ 0 → s.bounced (r.fn - 1) = true →
      (∀ u, s.takeRecs (r.fn - 1) (ahead r.tail x * r.ent) recs = (u, none) → s.newTail k x head recs = u) ∧
      (∀ u bs, s.takeRecs (r.fn - 1) (ahead r.tail x * r.ent) recs = (u, some bs) → r.role ≠ 7 →
       (let w := u.putEntries r r.tail (ahead r.tail x) bs
        s.newTail k x head recs = w.setRing k { w.ring k with tail := x }))))) ∧
  (∀ (s : State) (k x tail at' : Nat),
    (let r := s.ring k
     let u := s.setRing k { r with head := x, bat := at' }
     (r.role = 5 ∨ r.role = 6 → s.newHead k x tail at' = u) ∧ (r.role = 2 → s.newHead k x tail at' = u.repost) ∧
     (r.role = 8 → s.bounced (r.fn - 1) = false →
      s.newHead k x tail at' = u.writeQ r.off (padTo 64 (leBytes 4 x ++ leBytes 4 tail))))) ∧
  (∀ (s u v : State) (k : Nat) (bs : List Byte) (r' : List Byte), (s.ring k).fn ≠ 0 → s.bounced ((s.ring k).fn - 1) = true →
    s.bounceOut ((s.ring k).fn - 1) (padTo (s.ring k).ent bs) = (u, some r') → s.ringBounce k bs = v →
    v.hostOut = u.hostOut ++ [((s.ring k).bat, r')] ∧ (v.ring k).bat = (s.ring k).bat + roundUp (48 + (s.ring k).ent) 64 ∧
      v.mem = u.mem ∧ v.regs = u.regs) ∧
  (∀ (s : State) (core i : Nat) (r : PeepRec) (rest : List PeepRec), core < 256 → s.pairStopped = false → (s.core core).peep = r :: rest →
    (s.ringsOf (s.partOf core + 1) 6).head? = some i → (s.ring i).room ≠ 0 →
    exec (.peepholeDeliver core) s = .next (((s.setCore core { s.core core with peep := rest }).modCore core
      (fun k => { k with peepDrops := 0 })).ringPut i (r.bytes (s.partOf core) (s.core core).peepDrops))) ∧
  (∀ (s : State) (core : Nat) (r : PeepRec) (rest : List PeepRec), core < 256 → s.pairStopped = false → (s.core core).peep = r :: rest →
    (∀ i, (s.ringsOf (s.partOf core + 1) 6).head? = some i → (s.ring i).room = 0) →
    ∃ t, exec (.peepholeDeliver core) s = .next t ∧ (t.core core).peep = rest ∧
      t.getF F.CTL_PEEPDROP_RING 0 = satAdd F.CTL_PEEPDROP_RING.w (s.getF F.CTL_PEEPDROP_RING 0) 1 ∧ t.mem = s.mem) ∧
  (∀ (s : State) (core : Nat), core < 256 ∨ core = 0xFFFF → s.pairStopped = true → exec (.peepholeDeliver core) s = .next s) ∧
  (∀ s : State, s.pairStopped = false →
    exec (.peepholeDeliver 0xFFFF) s = .next s.ranuatPeep ∧
    (let u := s.takeFree.1
     let id := 768 + (Config.freeWord s.free).toNat % 256
     (bitAt (s.getF (peepFld id) (id / 4)) 0 = false → s.ranuatPeep = u) ∧
     (bitAt (s.getF (peepFld id) (id / 4)) 0 = true → (u.ringsOf 0 6).head? = none → s.ranuatPeep = u.addF F.CTL_PEEPDROP_RING 0 1) ∧
     (∀ i, bitAt (s.getF (peepFld id) (id / 4)) 0 = true → (u.ringsOf 0 6).head? = some i → (u.ring i).room ≠ 0 →
      ∃ v : Nat, s.ranuatPeep = u.ringPut i ((⟨id, 0xFFFF, 0, 0, s.now, v⟩ : PeepRec).bytes 0 0)))) ∧
  (∀ s : State, exec .logCopy s = .next s.logCopy ∧ (s.pairStopped = true → s.logCopy = s) ∧ (s.ringsOf 0 5 = [] → s.logCopy = s) ∧
    (∀ k, (s.ringsOf 0 5).head? = some k → s.pairStopped = false → (s.ring k).fn = 0 → (s.ring k).tail < 2 ^ 32 →
      s.logCopy.log = s.log.drop (s.ring k).room ∧
      (s.logCopy.ring k).tail = ((s.ring k).tail + min (s.ring k).room s.log.length) % 2 ^ 32 ∧ s.logCopy.mem = s.mem)) ∧
  (∀ (s : State) (t : Tlp) (at' : Nat) (recs : List HostData) (sigOk : Bool) (sym : Syms), s.boot.held = false → s.boot.quiet = false → t.fn = 0 →
    t.bar = 0 → t.data = none → 1 ≤ t.len → t.len ≤ 4096 → 0x2000 ≤ t.off → t.off + t.len ≤ 0x2020 →
    ∃ u, exec (.inboundTlp t at' recs sigOk sym) s = .next u ∧ u = { s with tlpOut := u.tlpOut } ∧
      u.tlpOut = s.tlpOut ++ [⟨0, some ((List.range t.len).map (fun i => s.regByte (pwrByte (t.off + i - 0x2000)))), false, false⟩]) ∧
  (∀ (s : State) (t : Tlp) (at' : Nat) (recs : List HostData) (sigOk : Bool) (sym : Syms), s.boot.held = false → s.boot.quiet = false → 1 ≤ t.fn →
    t.fn ≤ 16 → s.portsOff = false → (t.bar = 0 ∨ t.bar = 2 ∨ t.bar = 4) → 1 ≤ t.size → t.size ≤ 4096 →
    s.getF F.SEC_PCTL_HMODE (t.fn - 1) = 1 → t.ide = false →
    ∃ u, exec (.inboundTlp t at' recs sigOk sym) s = .next u ∧
      u.getF F.SEC_PBBSTAT_SEQ_FAIL (t.fn - 1) = satAdd F.SEC_PBBSTAT_SEQ_FAIL.w (s.getF F.SEC_PBBSTAT_SEQ_FAIL (t.fn - 1)) 1 ∧
      s.RegsBut u [(F.SEC_PBBSTAT_SEQ_FAIL, t.fn - 1)] ∧ u.mem = s.mem ∧
      u.tlpOut = s.tlpOut ++ (if t.data.isSome then [] else [⟨t.fn, none, false, false⟩])) ∧
  (∀ (s : State) (t : Tlp) (at' : Nat) (recs : List HostData) (sigOk : Bool) (sym : Syms), s.boot.held = false → s.boot.quiet = false →
    1 ≤ t.fn → t.fn ≤ 16 → t.bar = 4 → 1 ≤ t.size → t.size ≤ 4096 → s.portsOff = false →
    (s.getF F.SEC_PCTL_HMODE (t.fn - 1) = 0 ∨ s.getF F.SEC_PCTL_HMODE (t.fn - 1) = 1 ∧ t.ide = true ∧ (s.psecOf (t.fn - 1)).ide = true) →
    s.exists' (t.fn - 1) = true → t.off + t.size ≤ (s.slice (t.fn - 1)).2 → s.getF F.PWR_STATUS_STATE 0 = 0 →
    (let u := s.markUnplanned (t.fn - 1)
     let a := (s.slice (t.fn - 1)).1 + t.off
     (∀ bs, t.data = some bs → exec (.inboundTlp t at' recs sigOk sym) s = .next (u.write a sym bs).1) ∧
     (∀ v bs, t.data = none → u.read a t.len sym = (v, .ok bs) →
      exec (.inboundTlp t at' recs sigOk sym) s = .next { v with tlpOut := v.tlpOut ++ [⟨t.fn, some bs, false, false⟩] }))) ∧
  (∀ (s : State) (r : MgmtReq) (cals : List (Cal × Cal)), cals.length ≤ 32 → s.flag F.CTL_STATUS_READY 0 = true → s.boot.quiet = false →
    s.boot.held = false → s.getF F.PWR_STATUS_STATE 0 ≠ 0 →
    ∃ t, exec (.pldmRequest r cals) s = .next t ∧ t.getF F.PWR_STATUS_STATE 0 = 0) ∧
  (∀ (s : State) (r : MgmtReq) (cals : List (Cal × Cal)), cals.length ≤ 32 → s.flag F.CTL_STATUS_READY 0 = true → s.boot.quiet = false →
    s.boot.held = false →
    s.getF F.PWR_STATUS_STATE 0 = 0 → (∀ e b, r ≠ .packet e b) →
    ∃ t, exec (.pldmRequest r cals) s = .next t ∧ t.mctpOut = s.mctpOut ++ [s.mgmtAnswer r] ∧ t.regs = s.regs ∧ t.mem = s.mem ∧
      t.eid = (match r with
        | .setEid e => e % 256
        | _ => s.eid)) ∧
  (∀ (s : State) (t : Tlp) (at' : Nat) (recs : List HostData) (sigOk : Bool) (sym : Syms), s.boot.held = false → s.boot.quiet = false →
    1 ≤ t.fn → t.fn ≤ 16 → t.bar = 4 → 1 ≤ t.size → t.size ≤ 4096 → s.portsOff = false → s.getF F.SEC_PCTL_HMODE (t.fn - 1) = 0 →
    s.exists' (t.fn - 1) = true → t.off + t.size ≤ (s.slice (t.fn - 1)).2 → s.getF F.PWR_STATUS_STATE 0 ≠ 0 →
    exec (.inboundTlp t at' recs sigOk sym) s = .next { s with waking := true }) ∧
  (∀ (s : State) (v : BitVec 160), s.flag F.CTL_UART_RX_EN 0 = false → exec (.uartRxChar v) s = .next { s.console with uartLine := [] }) ∧
  (∀ (s : State) (v : BitVec 160) (c : UChar), s.flag F.CTL_UART_RX_EN 0 = true → s.uartLine = [] → bitAt v.toNat 0 = false →
    uaChar ((List.range 160).map (bitAt v.toNat)) = some c →
    ∃ t, exec (.uartRxChar v) s = .next t ∧
      (s.console.uartRx.length < 64 → t.uartRx = s.console.uartRx ++ [c] ∧ s.RegsBut t [(F.CTL_UARTSTAT_FRAMING, 0)] ∧
        t.getF F.CTL_UARTSTAT_FRAMING 0 = satAdd F.CTL_UARTSTAT_FRAMING.w (s.getF F.CTL_UARTSTAT_FRAMING 0) (bit c.ferr)) ∧
      (64 ≤ s.console.uartRx.length → t.uartRx = s.console.uartRx ∧ s.RegsBut t [(F.CTL_UARTSTAT_OVERRUN, 0)] ∧
        t.getF F.CTL_UARTSTAT_OVERRUN 0 = satAdd F.CTL_UARTSTAT_OVERRUN.w (s.getF F.CTL_UARTSTAT_OVERRUN 0) 1)) ∧
  (∀ (s : State) (v : BitVec 160), s.flag F.CTL_UART_RX_EN 0 = true → s.uartLine = [] → bitAt v.toNat 0 = false →
    uaChar ((List.range 160).map (bitAt v.toNat)) = none →
    ∃ t, exec (.uartRxChar v) s = .next t ∧ t.uartRx = s.console.uartRx ∧ t.regs = s.regs) ∧
  (∀ (line : List Bool) (c : UChar), uaChar line = some c →
    bit (line.getD 6 true) + bit (line.getD 7 true) + bit (line.getD 8 true) < 2) ∧
  (∀ (line : List Bool) (c : UChar) (i : Nat), uaChar line = some c → i < 8 →
    (bitAt c.val i = true ↔
      2 ≤ bit (line.getD (16 * i + 22) true) + bit (line.getD (16 * i + 23) true) + bit (line.getD (16 * i + 24) true))) ∧
  (∀ (line : List Bool) (c : UChar), uaChar line = some c →
    bit (line.getD 150 true) + bit (line.getD 151 true) + bit (line.getD 152 true) < 2 → c.ferr = true) ∧
  (∀ s : State, s.console = { s with free := s.console.free, uartRx := s.console.uartRx, uartTx := s.console.uartTx, uartOut := s.console.uartOut } ∧
    (∃ k, s.console.uartRx = s.uartRx.drop k) ∧ s.console.uartTx.length ≤ 64 ∧
    s.console.uartOut = s.uartOut ++ (if s.flag F.CTL_UART_TX_EN 0 then s.uartTx else []))

/-! ## Power, start and reset (R371, R387, R389, R416, R418, R423 to R426) -/

/-- STANDBY and SLEEP are entered when their conditions hold and refused with a code when they do not; a wake event returns to RUN, from
SLEEP with every latch 0, and a pane that ran is stopped for good when a crossing of it does not calibrate. A rail outside ±5 % is
recorded, and one below 90 % of groups 2 to 5 holds the package in reset after 2 µs of going-away flits. The power loop records its
average and the rails and moves the panes of the unpinned partitions it names, down above the limit; after 100 periods above it with only
pinned panes left, one partition loses its pin. The thermal loop records the dies. Which partitions a loop picks and what it reads of the
rails are the model's (log entry 60). (From R263, R371, R416, R418, R424 to R426 and R432, in part.) -/
def Obligations.PowerStatesChange : Prop :=
  (∀ (s : State) (idle : Nat), s.flag F.CTL_STATUS_READY 0 = true → s.boot.quiet = false → s.getF F.PWR_STATUS_STATE 0 = 0 →
    s.flag F.PWR_CTRL_STBY_EN 0 = true → s.getF F.PWR_CTRL_IDLE_US 0 ≤ idle → s.quietNow = true →
    ∃ t, exec (.standbyEntry idle true) s = .next t ∧ t.getF F.PWR_STATUS_STATE 0 = 1 ∧ s.Only t [(F.PWR_STATUS_STATE, 0)]) ∧
  (∀ (s : State) (idle : Nat) (drained : Bool), s.flag F.CTL_STATUS_READY 0 = true → s.boot.quiet = false →
    s.getF F.PWR_STATUS_STATE 0 = 0 → s.flag F.PWR_CTRL_STBY_EN 0 = true → s.getF F.PWR_CTRL_IDLE_US 0 ≤ idle →
    (s.quietNow = false ∨ drained = false) →
    ∃ t, exec (.standbyEntry idle drained) s = .next t ∧ t.getF F.PWR_STATUS_STATE 0 = 0 ∧
      t.getF F.PWR_STATUS_REFUSE 0 = (if s.quietNow then 1 else 2) ∧
      t.getF F.PWR_STATUS_REFUSALS 0 = satAdd F.PWR_STATUS_REFUSALS.w (s.getF F.PWR_STATUS_REFUSALS 0) 1) ∧
  (∀ s : State, s.flag F.CTL_STATUS_READY 0 = true → s.boot.quiet = false → s.getF F.PWR_STATUS_STATE 0 ≠ 2 →
    (∀ p < 16, s.plansOf p = []) → s.quietNow = true →
    ∃ t, exec (.sleepEntry true) s = .next t ∧ t.getF F.PWR_STATUS_STATE 0 = 2 ∧ t.mem = s.mem) ∧
  (∀ (s : State) (drained : Bool) (p : Nat), s.flag F.CTL_STATUS_READY 0 = true → s.boot.quiet = false → s.getF F.PWR_STATUS_STATE 0 ≠ 2 →
    p < 16 → s.plansOf p ≠ [] →
    ∃ t, exec (.sleepEntry drained) s = .next t ∧ t.getF F.PWR_STATUS_REFUSE 0 = 3 ∧
      t.getF F.PWR_STATUS_STATE 0 = s.getF F.PWR_STATUS_STATE 0) ∧
  (∀ (s : State) (d0 : Bool) (cals : List (Cal × Cal)), cals.length ≤ 32 → s.getF F.PWR_STATUS_STATE 0 ≠ 0 → s.boot.quiet = false →
    d0 = true ∨ s.waking = true → (∀ k ∈ s.ringsOf 0 5, (s.ring k).fn = 0) →
    ∃ t, exec (.runReturn d0 cals) s = .next t ∧ t.getF F.PWR_STATUS_STATE 0 = 0 ∧ t.waking = false ∧
      (s.getF F.PWR_STATUS_STATE 0 = 1 → t.mem = s.mem ∧ t.cores = s.cores) ∧
      (∀ q < 32, s.getF F.PANE_FREQ_STATE q = 0 → t.getF F.PANE_FREQ_STATE q =
        (let c := cals.getD q (⟨0, 0, 0⟩, ⟨0, 0, 0⟩)
         if calOk c.1 (paneInTarget (s.getF F.PANE_FREQ_CUR q)) ∧ calOk c.2 6 then 0 else 3)) ∧
      (s.getF F.PWR_STATUS_STATE 0 = 2 → ∀ n l, n < 256 → l < 48 → t.latch n l = 0)) ∧
  (∀ (s : State) (d0 : Bool) (cals : List (Cal × Cal)), cals.length ≤ 32 →
    s.getF F.PWR_STATUS_STATE 0 = 0 ∨ s.boot.quiet = true ∨ d0 = false ∧ s.waking = false →
    exec (.runReturn d0 cals) s = .next s) ∧
  (∀ (s : State) (k mv da : Nat), k < 13 → mv < 65536 → da < 65536 →
    ∃ t, exec (.railOut5 k mv da) s = .next t ∧ s.RegsBut t [(F.PWR_RAIL_OUT5, k), (F.PWR_RAIL_VOLT_MV, k), (F.PWR_RAIL_CURR_DA, k)] ∧
      t = { s with
        regs := t.regs
        boot := { s.boot with low := if 9 * railNominal k ≤ 10 * mv then s.boot.low.filter (· != k) else s.boot.low } } ∧
      t.flag F.PWR_RAIL_OUT5 k = true ∧ t.getF F.PWR_RAIL_VOLT_MV k = mv ∧ t.getF F.PWR_RAIL_CURR_DA k = da) ∧
  (∀ (s : State) (k : Nat), k < 11 →
    (let u : State := { s with boot := { s.boot with low := s.boot.low.filter (· != k) ++ [k] } }
     (s.boot.held = true → exec (.railUndervolt k) s = .next u) ∧
     (s.boot.held = false →
      ∃ t, exec (.railUndervolt k) s = .next t ∧ t = { u with ports := t.ports, boot := t.boot } ∧
        t.boot = { u.boot with resetIn := some (min 1000 (s.boot.resetIn.getD 1000)) } ∧ ∀ q < 36, (t.port q).going = 2))) ∧
  (∀ (s : State) (k : Nat), 11 ≤ k → k < 13 → exec (.railUndervolt k) s = .next s) ∧
  (∀ (s : State) (avg : Nat) (ps : List Nat) (rails : List (Nat × Nat)), avg < 2 ^ 32 → (∀ p ∈ ps, p < 16) → s.flag F.CTL_STATUS_READY 0 = true →
    (let high := decide (1000 * s.getF F.PWR_LIMIT_LIMIT_W 0 < avg)
     ∃ t, exec (.powerLoop avg ps rails) s = .next t ∧ t.getF F.PWR_MEAS_AVG_MW 0 = avg ∧
      t.getF F.PWR_MEAS_PEAK_MW 0 = max avg (s.getF F.PWR_MEAS_PEAK_MW 0) ∧ t.mem = s.mem ∧
      (∀ k < 13, k < rails.length → t.getF F.PWR_RAIL_VOLT_MV k = (rails.getD k (0, 0)).1 % 65536 ∧
        t.getF F.PWR_RAIL_CURR_DA k = (rails.getD k (0, 0)).2 % 65536) ∧
      (∀ k, rails.length ≤ k → t.getF F.PWR_RAIL_VOLT_MV k = s.getF F.PWR_RAIL_VOLT_MV k ∧
        t.getF F.PWR_RAIL_CURR_DA k = s.getF F.PWR_RAIL_CURR_DA k) ∧
      (∀ q, (∀ p ∈ ps, bitAt (s.getF F.SEC_PPANE_PANES p) q = false) → t.getF F.PANE_FREQ_REQ q = s.getF F.PANE_FREQ_REQ q) ∧
      (∀ q < 32, (∃ p ∈ ps, s.exists' p = true ∧ s.pinned p = false ∧ bitAt (s.getF F.SEC_PPANE_PANES p) q = true) →
        s.getF F.PANE_FREQ_STATE q < 2 → s.flag F.PANE_FREQ_EMERG q = false →
        t.getF F.PANE_FREQ_REQ q = (if high then min 3 (s.getF F.PANE_FREQ_CUR q + 1) else s.getF F.PANE_FREQ_CUR q - 1) ∧
        t.getF F.PANE_FREQ_CUR q = s.getF F.PANE_FREQ_CUR q) ∧
      (high = false ∨ s.onlyPinned = false → t.overPeriods = 0) ∧
      (high = true → s.onlyPinned = true → s.overPeriods + 1 < 100 → t.overPeriods = s.overPeriods + 1 ∧
        t.getF F.CTL_PIN_PINNED 0 = s.getF F.CTL_PIN_PINNED 0) ∧
      (∀ p, high = true → s.onlyPinned = true → 100 ≤ s.overPeriods + 1 → s.mostPinned = some p →
        t.overPeriods = 0 ∧ t.pinned p = false ∧ bitAt (t.getF F.CTL_PIN_LOST 0) p = true ∧
        ∀ r < 16, r ≠ p → t.pinned r = s.pinned r))) ∧
  (∀ (s : State) (dies hbm ps : List Nat), dies.length = 4 → hbm.length = 8 → (∀ p ∈ ps, p < 16) → s.flag F.CTL_STATUS_READY 0 = true →
    ∃ t, exec (.thermalLoop dies hbm ps) s = .next t ∧ t.mem = s.mem ∧ t.getF F.PWR_TEMP0_LEAF_A 0 = dies.getD 0 0 % 65536 ∧
      t.getF F.PWR_TEMP0_LEAF_B 0 = dies.getD 1 0 % 65536 ∧ t.getF F.PWR_TEMP0_JAMB_E 0 = dies.getD 2 0 % 65536 ∧
      t.getF F.PWR_TEMP0_JAMB_W 0 = dies.getD 3 0 % 65536)

/-- While the package is held and no rail holds it, a start begins and every partition is FREE: fuses that cannot be read or make no
grade, a recorded alarm or an unreadable NOR end it in vestibule mode with its reason, a die below 0 °C keeps it in stage 1, a power
failure ends it there, and any other start goes to stage 3, which asks for a valid copy, and stage 4 for fewer than three attempts.
Without an image in time the start fails and every port is held, after 2 µs of going-away flits where one is up. A falling RESET_N resets
the package 3 µs later; a power failure and a thermal trip abort every active step, stop every DMA channel and announce themselves on
every port; the control complex restarts a stopped pair under lock 4, from its checkpoint (log entry 43), or waits for it. A row that is
not due changes nothing (log entry 2). (From R263, R386 to R389, R407, R408, R418, R423 and R428, in part.) -/
def Obligations.StartsAndEnds : Prop :=
  (∀ (s : State) (x : StartIn), s.boot.held = true ∨ s.boot.resetIn.isSome = true → s.boot.low = [] ∨ x.cold = true → x.cutIn 1 = false → 0 ≤ x.dieC →
    ¬ (x.fuseOk = true ∧ x.fuses.gradeOk = true) →
    ∃ t, exec (.reset x) s = .next t ∧ t.flag F.BOOT_STATUS_VESTIBULE 0 = true ∧ t.getF F.BOOT_STATUS_REASON 0 = 1 ∧
      t.getF F.BOOT_STATUS_STAGE 0 = 1 ∧ t.plans = [] ∧ t.cores = [] ∧ t.keys = [] ∧ t.boot.held = false ∧
      (x.aoLoss = false → t.now = s.now) ∧ ∀ p, t.exists' p = false) ∧
  (∀ (s : State) (x : StartIn), s.boot.held = true ∨ s.boot.resetIn.isSome = true → s.boot.low = [] ∨ x.cold = true → x.cutIn 1 = false →
    0 ≤ x.dieC → x.fuseOk = true → x.fuses.gradeOk = true →
    x.aoLoss = false → s.flag F.SEC_STATUS_TAMPERED 0 = true →
    ∃ t, exec (.reset x) s = .next t ∧ t.flag F.BOOT_STATUS_VESTIBULE 0 = true ∧ t.getF F.BOOT_STATUS_REASON 0 = 2 ∧
      ∀ p, t.exists' p = false) ∧
  (∀ (s : State) (x : StartIn), s.boot.held = true ∨ s.boot.resetIn.isSome = true → s.boot.low = [] ∨ x.cold = true → x.cutIn 1 = false →
    x.cutIn 2 = false → 0 ≤ x.dieC → x.fuseOk = true →
    x.fuses.gradeOk = true → s.flag F.SEC_STATUS_TAMPERED 0 = false → x.norOk = false →
    ∃ t, exec (.reset x) s = .next t ∧ t.flag F.BOOT_STATUS_VESTIBULE 0 = true ∧ t.getF F.BOOT_STATUS_REASON 0 = 3 ∧
      t.getF F.BOOT_STATUS_STAGE 0 = 2 ∧ t.getF F.CTL_FEAT0_GRADE 0 = (if x.fuses.fused = 0 then 1 else 2)) ∧
  (∀ (s : State) (x : StartIn), s.boot.held = true ∨ s.boot.resetIn.isSome = true → s.boot.low = [] ∨ x.cold = true → x.cutIn 1 = false →
    x.cutIn 2 = false → 0 ≤ x.dieC → x.fuseOk = true →
    x.fuses.gradeOk = true → s.flag F.SEC_STATUS_TAMPERED 0 = false → x.norOk = true →
    (let u : State := { s with boot := { s.boot with low := [] } }
     exec (.reset x) s = .next (((((u.afterReset x.cold x.aoLoss).stage 1).applyFuses x.fuses).stage 2).stage2.stage3 x))) ∧
  (∀ (s : State) (x : StartIn), s.boot.held = true ∨ s.boot.resetIn.isSome = true → s.boot.low = [] ∨ x.cold = true → x.cutIn 1 = false → x.dieC < 0 →
    ∃ t, exec (.reset x) s = .next t ∧ t.boot.held = true ∧ t.getF F.BOOT_STATUS_STAGE 0 = 1 ∧ t.flag F.BOOT_STATUS_VESTIBULE 0 = false) ∧
  (∀ (s : State) (x : StartIn), s.boot.held = true ∨ s.boot.resetIn.isSome = true → s.boot.low = [] ∨ x.cold = true → x.cutIn 1 = true →
    ∃ t, exec (.reset x) s = .next t ∧ t.boot.quiet = true ∧ t.flag F.BOOT_STATUS_PWRFAIL 0 = true ∧ t.getF F.BOOT_STATUS_REASON 0 = 10 ∧
      t.getF F.BOOT_STATUS_STAGE 0 = 1) ∧
  (∀ (s : State) (x : StartIn), (s.boot.held = false ∧ s.boot.resetIn = none) ∨ (s.boot.low ≠ [] ∧ x.cold = false) →
    exec (.reset x) s = .next s) ∧
  (∀ (s : State) (x : StartIn), x.cutIn 3 = false → selectCopy x.copyA x.copyB x.fuses.cfgKey = none →
    (s.stage3 x).flag F.BOOT_STATUS_VESTIBULE 0 = true ∧ (s.stage3 x).getF F.BOOT_STATUS_STAGE 0 = 3 ∧
    (s.stage3 x).getF F.BOOT_STATUS_REASON 0 =
      (if x.copyA.result x.fuses.cfgKey = 4 ∨ x.copyB.result x.fuses.cfgKey = 4 then 5 else 4)) ∧
  (∀ (s : State) (x : StartIn) (c : NorCopy) (r : List Byte) (b : Bool), s.boot.counting = some (r, b) → leAt r 8 8 = c.seq →
    3 ≤ leAt r 1 1 → x.cut ≠ some (4, false) →
    (s.stage4 x c).flag F.BOOT_STATUS_VESTIBULE 0 = true ∧ (s.stage4 x c).getF F.BOOT_STATUS_STAGE 0 = 4 ∧
    (s.stage4 x c).getF F.BOOT_STATUS_REASON 0 = 6) ∧
  (∀ s : State, s.boot.held = false → s.boot.quiet = false → s.getF F.BOOT_STATUS_STAGE 0 = 8 → s.flag F.CTL_STATUS_READY 0 = false →
    s.flag F.BOOT_STATUS_FAILED 0 = false → s.flag F.BOOT_STATUS_VESTIBULE 0 = false →
    ∃ t, exec .ranuatTimeout s = .next t ∧ t.flag F.BOOT_STATUS_FAILED 0 = true ∧ t.getF F.BOOT_STATUS_REASON 0 = 9 ∧ t.mem = s.mem ∧
      ((∀ q < 36, s.pstate q ≠ 8 ∧ s.pstate q ≠ 9) → t.ports = [] ∧ t.rq = []) ∧
      (∀ q < 36, (s.pstate q = 8 ∨ s.pstate q = 9) → t.boot.holdIn = some 1000 ∧ (t.port q).going = 2)) ∧
  (∀ s : State, s.boot.held = false →
    ∃ t, exec .resetAssert s = .next t ∧ t = { s with ports := t.ports, boot := t.boot } ∧
      t.boot = { s.boot with resetIn := some (min 1500 (s.boot.resetIn.getD 1500)) } ∧ ∀ q < 36, (t.port q).going = 2) ∧
  (∀ s : State, s.boot.held = true → exec .resetAssert s = .next s) ∧
  (∀ (s : State) (n : Nat), s.boot.resetIn = some n →
    (1 < n → s.dueReset = { s with boot := { s.boot with resetIn := some (n - 1) } }) ∧
    (n ≤ 1 → s.dueReset.boot.held = true ∧ s.dueReset.plans = [] ∧ s.dueReset.keys = [] ∧ s.dueReset.cores = [] ∧
      s.dueReset.pending = s.pending ∧ s.dueReset.now = s.now ∧ ∀ p, s.dueReset.exists' p = false)) ∧
  (∀ s : State, s.boot.held = false → s.boot.quiet = false →
    ∃ t, exec .pwrfail s = .next t ∧ t.boot.quiet = true ∧ t.flag F.BOOT_STATUS_PWRFAIL 0 = true ∧ t.getF F.BOOT_STATUS_REASON 0 = 10 ∧
      (∀ p < 16, s.stepActive p = true → (t.part p).running = false) ∧
      (∀ i < 64, (t.chan i).stopping = true ∨ t.flag F.DMA_CHSTAT_STOPPED i = true) ∧ ∀ q < 36, (t.port q).going = 1) ∧
  (∀ s : State, s.boot.held = true ∨ s.boot.quiet = true → exec .pwrfail s = .next s) ∧
  (∀ s : State, s.boot.held = false → s.boot.thermtrip = false →
    ∃ t, exec .thermalTrip s = .next t ∧ t.boot.thermtrip = true ∧ t.boot.quiet = true ∧ t.flag F.PWR_STATUS_THERMTRIP 0 = true ∧
      t.getF F.BOOT_STATUS_REASON 0 = 10 ∧
      (s.boot.quiet = false → t.flag F.BOOT_STATUS_PWRFAIL 0 = true ∧
        (∀ p < 16, s.stepActive p = true → (t.part p).running = false) ∧
        (∀ i < 64, (t.chan i).stopping = true ∨ t.flag F.DMA_CHSTAT_STOPPED i = true) ∧ ∀ q < 36, (t.port q).going = 1)) ∧
  (∀ s : State, s.boot.held = true ∨ s.boot.thermtrip = true → exec .thermalTrip s = .next s) ∧
  (∀ s : State, s.pairStopped = true → s.idleSteps = true → s.flag F.CTL_STATUS_UPDATING 0 = false → s.mayLock 4 0 = true →
    ∃ u : State, u = ({ (s.grantLock 4 0).addF F.CTL_LOCKSTEP_RESETS 0 1 with pairDown := false } : State).setFs 0
        [(F.CTL_LOCKSTEP_UNVERIFIED, 0), (F.CTL_LSTEST_COMP_FAIL, 0)] ∧
      exec .controlComplexReset s = .next (((List.range 16).foldl State.recomplete u.readCkpt.repost).dropLocks 4 [0])) ∧
  (∀ s : State, s.pairStopped = true → s.idleSteps = true → s.flag F.CTL_STATUS_UPDATING 0 = false → s.mayLock 4 0 = false →
    exec .controlComplexReset s = .next (s.askLock 4 0)) ∧
  (∀ s : State, s.pairStopped = false ∨ s.idleSteps = false → exec .controlComplexReset s = .next s)
end

