-- ==== Sys2Proof/Laws/Tbl.lean ====
section
/-! SUPPORT. The laws of sparse tables: what a read after a write gives, and that every table operation keeps the canonical
form. `Canon d t` is the form of `twf` for a default that may depend on the key. -/

namespace Sys2Proof.Machine

variable {α : Type}

/-! ## Reading after writing -/

theorem tget_terase_same (d : α) (t : Tbl α) (k : Nat) : tget d (terase t k) k = d := by
  induction t with
  | nil => rfl
  | cons e t ih =>
    obtain ⟨i, v⟩ := e
    by_cases h : i = k <;> simp [terase, tget, h, ih]

theorem tget_terase_ne (d : α) (t : Tbl α) {k j : Nat} (h : j ≠ k) : tget d (terase t k) j = tget d t j := by
  induction t with
  | nil => rfl
  | cons e t ih =>
    obtain ⟨i, v⟩ := e
    by_cases hk : i = k
    · have : k ≠ j := fun e => h e.symm
      simp [terase, tget, hk, ih, this]
    · simp only [terase, if_neg hk, tget, ih]

theorem tget_tins_ne (d : α) (t : Tbl α) {k j : Nat} (v : α) (h : j ≠ k) : tget d (tins t k v) j = tget d t j := by
  have h' : k ≠ j := fun e => h e.symm
  induction t with
  | nil => simp [tins, tget, h']
  | cons e t ih =>
    obtain ⟨i, w⟩ := e
    by_cases hk : k < i
    · simp [tins, tget, hk, h']
    · simp only [tins, if_neg hk, tget, ih]

theorem tget_tins_erased (d : α) (t : Tbl α) (k : Nat) (v : α) : tget d (tins (terase t k) k v) k = v := by
  induction t with
  | nil => simp [terase, tins, tget]
  | cons e t ih =>
    obtain ⟨i, w⟩ := e
    by_cases hi : i = k
    · simp [terase, hi, ih]
    · by_cases hk : k < i <;> simp [terase, tins, tget, hi, hk, ih]

variable [DecidableEq α]

@[simp] theorem tget_tset_same (d : α) (t : Tbl α) (k : Nat) (v : α) : tget d (tset d t k v) k = v := by
  unfold tset
  split
  · next h => rw [tget_terase_same, h]
  · exact tget_tins_erased d t k v

/-- A write with another default than the one read by is seen too, unless it removes the entry. -/
theorem tget_tset_ne (d : α) (t : Tbl α) {k j : Nat} (v : α) (h : j ≠ k) : tget d (tset d t k v) j = tget d t j := by
  unfold tset
  split
  · exact tget_terase_ne d t h
  · rw [tget_tins_ne d _ v h, tget_terase_ne d t h]

/-! ## The canonical form -/

omit [DecidableEq α] in
@[simp] theorem canon_nil (d : Nat → α) : Canon d [] := by simp [Canon]

omit [DecidableEq α] in
/-- What is left of a canonical table is canonical. -/
theorem canon_sublist {d : Nat → α} {t u : Tbl α} (h : Canon d t) (hs : u.Sublist t) : Canon d u :=
  ⟨h.1.sublist hs, fun e he => h.2 e (hs.subset he)⟩

omit [DecidableEq α] in
theorem canon_filter {d : Nat → α} {t : Tbl α} (p : Nat × α → Bool) (h : Canon d t) : Canon d (t.filter p) :=
  canon_sublist h List.filter_sublist

omit [DecidableEq α] in
theorem terase_eq_filter (t : Tbl α) (k : Nat) : terase t k = t.filter (fun e => e.1 != k) := by
  induction t with
  | nil => rfl
  | cons e t ih =>
    obtain ⟨i, v⟩ := e
    by_cases h : i = k <;> simp [terase, h, ih]

omit [DecidableEq α] in
theorem mem_tins {t : Tbl α} {k : Nat} {v : α} {e : Nat × α} (h : e ∈ tins t k v) : e = (k, v) ∨ e ∈ t := by
  induction t with
  | nil => simpa [tins] using h
  | cons a t ih =>
    by_cases hk : k < a.1
    · simpa [tins, hk] using h
    · simp only [tins, if_neg hk, List.mem_cons] at h
      rcases h with h | h
      · exact .inr (by simp [h])
      · rcases ih h with h | h
        · exact .inl h
        · exact .inr (by simp [h])

omit [DecidableEq α] in
theorem canon_tins {d : Nat → α} {t : Tbl α} {k : Nat} {v : α} (h : Canon d t) (hk : ∀ e ∈ t, e.1 ≠ k) (hv : v ≠ d k) :
    Canon d (tins t k v) := by
  refine ⟨?_, fun e he => ?_⟩
  · obtain ⟨hp, -⟩ := h
    induction t with
    | nil => simp [tins]
    | cons a t ih =>
      rw [List.pairwise_cons] at hp
      by_cases hka : k < a.1
      · simp only [tins, if_pos hka, List.pairwise_cons]
        refine ⟨fun b hb => ?_, hp.1, hp.2⟩
        rcases List.mem_cons.1 hb with rfl | hb
        · exact hka
        · exact lt_trans hka (hp.1 b hb)
      · simp only [tins, if_neg hka, List.pairwise_cons]
        refine ⟨fun b hb => ?_, ih (fun e he => hk e (by simp [he])) hp.2⟩
        rcases mem_tins hb with rfl | hb
        · have := hk a (by simp)
          show a.1 < k
          omega
        · exact hp.1 b hb
  · rcases mem_tins he with rfl | he
    · exact hv
    · exact h.2 e he

/-- A write by its own default keeps the form. -/
theorem canon_tset {d : Nat → α} {t : Tbl α} {k : Nat} {v : α} (h : Canon d t) : Canon d (tset (d k) t k v) := by
  have he : Canon d (terase t k) := terase_eq_filter t k ▸ canon_filter _ h
  unfold tset
  split
  · exact he
  · next hv => exact canon_tins he (by simp [terase_eq_filter]) hv

/-- The form for one default is what `twf` decides. -/
theorem twf_iff (d : α) (t : Tbl α) : twf d t = true ↔ Canon (fun _ => d) t := by
  induction t with
  | nil => simp [twf]
  | cons a t ih =>
    cases t with
    | nil => simp [twf, Canon]
    | cons b t =>
      have ht : ((b :: t).Pairwise fun x y => x.1 < y.1) → (∀ e ∈ t, b.1 < e.1) := fun h => (List.pairwise_cons.1 h).1
      simp only [twf, Bool.and_eq_true, decide_eq_true_eq, ih, Canon, List.pairwise_cons, List.mem_cons, forall_eq_or_imp]
      constructor
      · rintro ⟨⟨h1, h2⟩, ⟨h3, h4⟩, h5⟩
        exact ⟨⟨⟨h2, fun e he => lt_trans h2 (h3 e he)⟩, h3, h4⟩, h1, h5⟩
      · rintro ⟨⟨⟨h1, -⟩, h3, h4⟩, h5, h6⟩
        exact ⟨⟨h5, h1⟩, ⟨h3, h4⟩, h6⟩

theorem twf_tset {d : α} {t : Tbl α} (k : Nat) (v : α) (h : twf d t = true) : twf d (tset d t k v) = true :=
  (twf_iff d _).2 (canon_tset (d := fun _ => d) ((twf_iff d t).1 h))

theorem twf_filter {d : α} {t : Tbl α} (p : Nat × α → Bool) (h : twf d t = true) : twf d (t.filter p) = true :=
  (twf_iff d _).2 (canon_filter p ((twf_iff d t).1 h))

omit [DecidableEq α] in
/-- Canonical tables that read alike are the same table. -/
theorem canon_ext {d : Nat → α} {t u : Tbl α} (ht : Canon d t) (hu : Canon d u) (h : ∀ k, tget (d k) t k = tget (d k) u k) :
    t = u := by
  have low : ∀ {t : Tbl α} {k : Nat}, (∀ e ∈ t, k < e.1) → tget (d k) t k = d k := by
    intro t k
    induction t with
    | nil => simp [tget]
    | cons a t ih =>
      intro hl
      have := hl a (by simp)
      simp only [tget, if_neg (Nat.ne_of_gt this)]
      exact ih fun e he => hl e (by simp [he])
  induction t generalizing u with
  | nil =>
    cases u with
    | nil => rfl
    | cons b u =>
      have := h b.1
      simp only [tget, if_pos] at this
      exact absurd this.symm (hu.2 b (by simp))
  | cons a t ih =>
    have ha := List.pairwise_cons.1 ht.1
    cases u with
    | nil =>
      have := h a.1
      simp only [tget, if_pos] at this
      exact absurd this (ht.2 a (by simp))
    | cons b u =>
      have hb := List.pairwise_cons.1 hu.1
      rcases Nat.lt_trichotomy a.1 b.1 with hlt | heq | hgt
      · have e := h a.1
        rw [low (t := b :: u) (by simp only [List.mem_cons, forall_eq_or_imp]; exact ⟨hlt, fun e he => lt_trans hlt (hb.1 e he)⟩)] at e
        simp only [tget, if_pos] at e
        exact absurd e (ht.2 a (by simp))
      · have e := h a.1
        simp only [tget, if_pos, heq] at e
        have hab : a = b := Prod.ext heq e
        subst hab
        have := ih (canon_sublist ht (List.sublist_cons_self _ _)) (u := u) (canon_sublist hu (List.sublist_cons_self _ _)) fun k => by
          by_cases hk : a.1 = k
          · subst hk
            rw [low ha.1, low hb.1]
          · simpa [tget, hk] using h k
        rw [this]
      · have e := h b.1
        rw [low (t := a :: t) (by simp only [List.mem_cons, forall_eq_or_imp]; exact ⟨hgt, fun e he => lt_trans hgt (ha.1 e he)⟩)] at e
        simp only [tget, if_pos] at e
        exact absurd e.symm (hu.2 b (by simp))

end Sys2Proof.Machine
end

