-- ==== Sys2Proof/Laws/Regs.lean ====
section
/-! SUPPORT. The laws of registers and their fields: what a read gives after a write of the same field, of another field and of
another register, and the frames `State.RegsBut` and `State.Only`. -/

namespace Sys2Proof.Machine

variable {s t u : State}

/-! ## Bits -/

theorem bitAt_eq_testBit (v i : Nat) : bitAt v i = v.testBit i := by
  rw [bitAt, Nat.testBit_eq_decide_div_mod_eq]
  exact (Bool.beq_eq_decide_eq _ _)

theorem bitsOf_setBits_same (v lo w x : Nat) : bitsOf (setBits v lo w x) lo w = x % 2 ^ w := by
  unfold bitsOf setBits
  rw [Nat.add_mul_div_left _ _ (by positivity), Nat.div_eq_of_lt (Nat.mod_lt _ (by positivity)), Nat.zero_add,
    Nat.add_mul_mod_self_left, Nat.mod_mod]

theorem testBit_setBits (v lo w x b : Nat) :
    (setBits v lo w x).testBit b = if lo ≤ b ∧ b < lo + w then x.testBit (b - lo) else v.testBit b := by
  unfold setBits
  rw [Nat.add_comm, Nat.testBit_two_pow_mul_add _ (Nat.mod_lt _ (by positivity))]
  split
  · next h => rw [Nat.testBit_mod_two_pow, if_neg (by omega)]; simp [h]
  · next h =>
    rw [Nat.add_comm, Nat.testBit_two_pow_mul_add _ (Nat.mod_lt _ (by positivity))]
    split
    · next h' => rw [if_pos (by omega), Nat.testBit_mod_two_pow]; simp [h']
    · next h' =>
      rw [if_neg (by omega), Nat.testBit_div_two_pow]
      congr 1
      omega

theorem setBits_lt {v lo w x : Nat} (hv : v < 2 ^ 64) (h : lo + w ≤ 64) : setBits v lo w x < 2 ^ 64 := by
  refine Nat.lt_pow_two_of_testBit _ fun i hi => ?_
  rw [testBit_setBits, if_neg (by omega)]
  exact Nat.testBit_lt_two_pow (lt_of_lt_of_le hv (Nat.pow_le_pow_right (by decide) hi))

theorem bitsOf_setBits_ne {v lo w x lo' w' : Nat} (h : lo + w ≤ lo' ∨ lo' + w' ≤ lo) :
    bitsOf (setBits v lo w x) lo' w' = bitsOf v lo' w' := by
  refine Nat.eq_of_testBit_eq fun i => ?_
  unfold bitsOf
  rw [Nat.testBit_mod_two_pow, Nat.testBit_mod_two_pow, Nat.testBit_div_two_pow, Nat.testBit_div_two_pow, testBit_setBits]
  by_cases hi : i < w'
  · rw [if_neg (by omega)]
  · simp [hi]

/-! ## Registers -/

theorem Reg.ofCode_code (r : Reg) : Reg.ofCode r.code = r := by cases r <;> rfl

theorem Reg.code_inj {r r' : Reg} (h : r.code = r'.code) : r = r' := by
  rw [← r.ofCode_code, ← r'.ofCode_code, h]

theorem rdReg_lt (s : State) (r : Reg) (i : Nat) : s.rdReg r i < 2 ^ 64 := BitVec.isLt _

theorem rdReg_wrReg_same (s : State) (r : Reg) (i v : Nat) : (s.wrReg r i v).rdReg r i = v % 2 ^ 64 := by
  simp [State.rdReg, State.wrReg]

/-- A write of one key does not change what another reads, whatever default it is read by. -/
theorem tget_tset_other {α : Type} [DecidableEq α] (d d' : α) (l : Tbl α) {k j : Nat} (v : α) (h : j ≠ k) :
    tget d (tset d' l k v) j = tget d l j := by
  unfold tset
  split
  · exact tget_terase_ne d l h
  · rw [tget_tins_ne d _ v h, tget_terase_ne d l h]

theorem rdReg_wrReg_ne (s : State) {r r' : Reg} {i j : Nat} (v : Nat) (h : r' ≠ r ∨ j ≠ i) :
    (s.wrReg r i v).rdReg r' j = s.rdReg r' j := by
  unfold State.rdReg State.wrReg
  by_cases hr : r' = r
  · subst hr
    rw [tget_tset_same, tget_tset_other _ _ _ _ (by simpa using h)]
  · rw [tget_tset_ne _ _ _ (fun e => hr (Reg.code_inj e))]

theorem rdReg_setF_ne (s : State) {f : Fld} {i : Nat} {r : Reg} {j : Nat} (x : Nat) (h : r ≠ f.reg ∨ j ≠ i) :
    (s.setF f i x).rdReg r j = s.rdReg r j := rdReg_wrReg_ne s _ h

theorem rdReg_setF_same (s : State) {f : Fld} {i x : Nat} (hf : f.lo + f.w ≤ 64) :
    (s.setF f i x).rdReg f.reg i = setBits (s.rdReg f.reg i) f.lo f.w x := by
  unfold State.setF
  rw [rdReg_wrReg_same, Nat.mod_eq_of_lt (setBits_lt (rdReg_lt s _ _) hf)]

/-- A field reads as written, cut to its width. -/
theorem getF_setF_same (s : State) {f : Fld} {i x : Nat} (hf : f.lo + f.w ≤ 64) : (s.setF f i x).getF f i = x % 2 ^ f.w := by
  unfold State.getF
  rw [rdReg_setF_same s hf, bitsOf_setBits_same]

/-- A field of another register, of another index or of other bits is unchanged. -/
theorem getF_setF_ne (s : State) {f g : Fld} {i j x : Nat} (hf : f.lo + f.w ≤ 64)
    (h : g.reg ≠ f.reg ∨ j ≠ i ∨ f.lo + f.w ≤ g.lo ∨ g.lo + g.w ≤ f.lo) : (s.setF f i x).getF g j = s.getF g j := by
  unfold State.getF
  by_cases hr : g.reg = f.reg
  · by_cases hj : j = i
    · subst hj
      rw [hr, rdReg_setF_same s hf]
      refine bitsOf_setBits_ne ?_
      rcases h with h | h | h
      · exact absurd hr h
      · exact absurd rfl h
      · exact h
    · rw [rdReg_setF_ne s x (.inr hj)]
  · rw [rdReg_setF_ne s x (.inl hr)]

/-! ## Frames -/

theorem regsBut_refl (s : State) (l : List (Fld × Nat)) : s.RegsBut s l := fun _ _ _ _ => rfl

theorem regsBut_mono {l l' : List (Fld × Nat)} (h : s.RegsBut t l) (hl : ∀ p ∈ l, p ∈ l') : s.RegsBut t l' := by
  intro r i b hb
  refine h r i b (Bool.eq_false_iff.2 fun ht => ?_)
  obtain ⟨p, hp, e⟩ := List.any_eq_true.1 ht
  rw [inFields, List.any_eq_false] at hb
  exact hb p (hl p hp) e

theorem regsBut_trans {l l' : List (Fld × Nat)} (h : s.RegsBut t l) (h' : t.RegsBut u l') : s.RegsBut u (l ++ l') := by
  intro r i b hb
  rw [inFields, List.any_append, Bool.or_eq_false_iff] at hb
  exact (h' r i b hb.2).trans (h r i b hb.1)

/-- A field write changes that field's bits alone. -/
theorem regsBut_setF (s : State) {f : Fld} {i x : Nat} (hf : f.lo + f.w ≤ 64) : s.RegsBut (s.setF f i x) [(f, i)] := by
  intro r j b hb
  by_cases h : r = f.reg ∧ j = i
  · obtain ⟨rfl, rfl⟩ := h
    rw [rdReg_setF_same s hf, bitAt_eq_testBit, bitAt_eq_testBit, testBit_setBits, if_neg]
    simpa [inFields] using hb
  · rw [rdReg_setF_ne s x (by tauto)]

theorem only_refl (s : State) (l : List (Fld × Nat)) : s.Only s l := ⟨rfl, regsBut_refl s l⟩

theorem only_setF (s : State) {f : Fld} {i x : Nat} (hf : f.lo + f.w ≤ 64) : s.Only (s.setF f i x) [(f, i)] :=
  ⟨rfl, regsBut_setF s hf⟩

theorem only_trans {l l' : List (Fld × Nat)} (h : s.Only t l) (h' : t.Only u l') : s.Only u (l ++ l') := by
  refine ⟨?_, regsBut_trans h.2 h'.2⟩
  rw [h'.1, h.1]

theorem only_mono {l l' : List (Fld × Nat)} (h : s.Only t l) (hl : ∀ p ∈ l, p ∈ l') : s.Only t l' := ⟨h.1, regsBut_mono h.2 hl⟩

end Sys2Proof.Machine
end

