-- ==== Sys2Proof/Laws/Inv.lean ====
section
/-! SUPPORT. What every operation of the block keeps: the queue, the canonical form of every table and the capacity of every buffer; first for the shared operations. -/

namespace Sys2Proof.Machine

section

/-- What every operation keeps: the queue of the commands waiting, and, where `K`, the canonical form of every table and the
capacity of every buffer. -/
structure State.Inv (K : Prop) (W : List Instr) (s : State) : Prop where
  queue : s.pending = W
  canonical : K → s.Canonical
  fits : K → s.Fits

/-- The same of the state in a pair. -/
def Inv1 {α : Type} (K : Prop) (W : List Instr) (p : State × α) : Prop := p.1.Inv K W

/-- A command completes and keeps what operations keep. -/
def Good (K : Prop) (W : List Instr) (o : Out) : Prop := ∃ t, o = .next t ∧ t.Inv K W

variable {K : Prop} {W : List Instr} {s : State} {α : Type}

/-- Fields outside the tables and buffers do not matter. -/
theorem inv_mk {a7 a8 a14 a15 a16 a17 a18 a20 a21 a24 a25 a26 a27 a28 a29 a30 a31 a33 a34 a38 a40 a43 a48 a51 a52 a53 a55 a56 a57 a58 a59 a60 a63 a64
    a65 a66 a67 a68 a69 a70 a71 a72} :
    State.Inv K W ⟨s.pending, s.regs, s.mem, s.gran, s.flaws, s.keys, a7, a8, s.served, s.cores, s.parts, s.tctx, s.sctx, a14, a15, a16, a17, a18,
      s.plans, a20, a21, s.rings, s.sram, a24, a25, a26, a27, a28, a29, a30, a31, s.unavail, a33, a34, s.dma, s.rs, s.bounce, a38,
      s.ports, a40, s.panes, s.psec, a43, s.qps, s.serves, s.reqs, s.custs, a48, s.fwin, s.fwrun, a51, a52, a53, s.sessions, a55, a56,
      a57, a58, a59, a60, s.uartRx, s.uartTx, a63, a64, a65, a66, a67, a68, a69, a70, a71, a72⟩ ↔ s.Inv K W :=
  ⟨fun h => ⟨h.1, fun k => let c := h.2 k; ⟨c.1, c.2, c.3, c.4, c.5, c.6, c.7, c.8, c.9, c.10, c.11, c.12, c.13, c.14, c.15, c.16, c.17, c.18,
      c.19, c.20, c.21, c.22, c.23, c.24, c.25, c.26, c.27⟩, fun k => ⟨(h.3 k).1, (h.3 k).2, (h.3 k).3, (h.3 k).4⟩⟩,
   fun h => ⟨h.1, fun k => let c := h.2 k; ⟨c.1, c.2, c.3, c.4, c.5, c.6, c.7, c.8, c.9, c.10, c.11, c.12, c.13, c.14, c.15, c.16, c.17, c.18,
      c.19, c.20, c.21, c.22, c.23, c.24, c.25, c.26, c.27⟩, fun k => ⟨(h.3 k).1, (h.3 k).2, (h.3 k).3, (h.3 k).4⟩⟩⟩

theorem inv_ite {c : Prop} [Decidable c] {a b : State} : State.Inv K W (if c then a else b) ↔ if c then a.Inv K W else b.Inv K W := by
  split <;> rfl

theorem good_next : Good K W (.next s) ↔ s.Inv K W := by
  constructor
  · rintro ⟨t, h, ht⟩
    cases h
    exact ht
  · exact fun h => ⟨s, rfl, h⟩

theorem good_ite {c : Prop} [Decidable c] {a b : Out} : Good K W (if c then a else b) ↔ if c then Good K W a else Good K W b := by
  split <;> rfl

theorem inv_fst {p : State × α} : p.1.Inv K W ↔ Inv1 K W p := Iff.rfl

theorem inv1_mk {a : α} : Inv1 K W (s, a) ↔ s.Inv K W := Iff.rfl

theorem inv1_ite {c : Prop} [Decidable c] {a b : State × α} : Inv1 K W (if c then a else b) ↔ if c then Inv1 K W a else Inv1 K W b := by
  split <;> rfl

theorem inv_foldl {f : State → α → State} {l : List α} (hf : ∀ s x, s.Inv K W → (f s x).Inv K W) (hs : s.Inv K W) :
    (l.foldl f s).Inv K W := by
  induction l generalizing s with
  | nil => exact hs
  | cons a l ih => exact ih (hf s a hs)

theorem inv1_foldl {β : Type} {f : State × α → β → State × α} {p : State × α} {l : List β}
    (hf : ∀ p x, Inv1 K W p → Inv1 K W (f p x)) (hs : Inv1 K W p) : Inv1 K W (l.foldl f p) := by
  induction l generalizing p with
  | nil => exact hs
  | cons a l ih => exact ih (hf p a hs)

theorem Core.fits_init : Core.init.Fits := by constructor <;> decide

/-- Fields outside the buffers do not matter. -/
theorem fits_mk {k : Core} {a1 a2 a3 a4 a5 a6 a7 a14 a15 a17 a18 a19 a20 a21} :
    Core.Fits ⟨k.blocks, a1, a2, a3, a4, a5, a6, a7, k.load, k.matrix, k.vector, k.store, k.send, k.sb, a14, a15, k.peep, a17, a18,
      a19, a20, a21⟩ ↔ k.Fits :=
  ⟨fun h => ⟨h.1, h.2, h.3, h.4, h.5, h.6, h.7, h.8⟩, fun h => ⟨h.1, h.2, h.3, h.4, h.5, h.6, h.7, h.8⟩⟩

theorem State.Inv.core (hs : s.Inv K W) (n : Nat) (hk : K) : (s.core n).Fits := (hs.fits hk).cores n

end

variable {K : Prop} {W : List Instr}

variable {K : Prop} {W : List Instr}

/-! ## Ops -/

theorem State.wrReg_inv {s : State} {r : Reg} {i : Nat} {v : Nat} (hs : s.Inv K W) :
    (State.wrReg s r i v).Inv K W := by
  refine ⟨hs.queue, fun k => { hs.canonical k with regs := canon_tset (d := fun _ => _) (hs.canonical k).regs, reg := fun r' => ?_ },
    fun k => ⟨(hs.fits k).1, (hs.fits k).2, (hs.fits k).3, (hs.fits k).4⟩⟩
  show Canon _ (tget _ (tset _ _ _ _) _)
  by_cases e : r'.code = r.code
  · cases Reg.code_inj e
    rw [tget_tset_same]
    exact canon_tset ((hs.canonical k).reg _)
  · rw [tget_tset_ne _ _ _ e]
    exact (hs.canonical k).reg _

theorem State.setF_inv {s : State} {f : Fld} {i x : Nat} (hs : s.Inv K W) :
    (State.setF s f i x).Inv K W := by
  unfold State.setF
  simp only [hs, State.wrReg_inv]

theorem State.stir_inv {s : State} (hs : s.Inv K W) :
    (State.stir s).Inv K W := by
  unfold State.stir
  simp only [inv_mk, inv_ite, ite_self, hs]

theorem State.addF_inv {s : State} {f : Fld} {i n : Nat} (hs : s.Inv K W) :
    (State.addF s f i n).Inv K W := by
  unfold State.addF
  simp only [hs, State.setF_inv]

theorem State.setFs_inv {s : State} {i : Nat} {l : List (Fld × Nat)} (hs : s.Inv K W) :
    (State.setFs s i l).Inv K W := by
  unfold State.setFs
  repeat' first
    | (simp only [*, State.setF_inv])
    | with_reducible refine inv_foldl (fun _ _ _ => ?_) ?_

theorem State.takeFree_inv1 {s : State} (hs : s.Inv K W) :
    Inv1 K W (State.takeFree s) := by
  unfold State.takeFree
  simp only [inv_mk, inv1_mk, hs]

theorem State.takeFree_inv {s : State} (hs : s.Inv K W) :
    (State.takeFree s).1.Inv K W := State.takeFree_inv1 hs

theorem State.setCore_inv {s : State} {n : Nat} {c : Core} (hs : s.Inv K W) (hc : K → c.Fits) :
    (State.setCore s n c).Inv K W := by
  refine ⟨hs.queue, fun k => { hs.canonical k with cores := canon_tset (d := fun _ => _) (hs.canonical k).cores },
    fun k => ⟨fun m => ?_, (hs.fits k).2, (hs.fits k).3, (hs.fits k).4⟩⟩
  show Core.Fits (tget _ (tset _ _ _ _) _)
  by_cases e : m = n
  · subst e
    rw [tget_tset_same]
    exact hc k
  · rw [tget_tset_ne _ _ _ e]
    exact (hs.fits k).cores m

theorem State.modCore_inv {s : State} {n : Nat} {f : Core → Core} (hs : s.Inv K W) (hf : ∀ k : Core, k.Fits → (f k).Fits) :
    (State.modCore s n f).Inv K W := by
  exact State.setCore_inv hs fun k => hf _ (hs.core n k)

theorem State.setLatch_inv {s : State} {n l v : Nat} (hs : s.Inv K W) :
    (State.setLatch s n l v).Inv K W := by
  unfold State.setLatch
  simp only [hs, State.setF_inv]

theorem State.addLatch_inv {s : State} {n l inc : Nat} (hs : s.Inv K W) :
    (State.addLatch s n l inc).Inv K W := by
  unfold State.addLatch
  simp only [inv_ite, ite_self, hs, State.setF_inv, State.setLatch_inv]

theorem State.clearLatches_inv {s : State} {n mask : Nat} (hs : s.Inv K W) :
    (State.clearLatches s n mask).Inv K W := by
  unfold State.clearLatches
  repeat' first
    | (simp only [*, State.setLatch_inv])
    | with_reducible refine inv_foldl (fun _ _ _ => ?_) ?_

theorem State.setPart_inv {s : State} {p : Nat} {x : Part} (hs : s.Inv K W) :
    (State.setPart s p x).Inv K W := by
  exact ⟨hs.queue, fun k => { hs.canonical k with parts := canon_tset (d := fun _ => _) (hs.canonical k).parts },
    fun k => ⟨(hs.fits k).1, (hs.fits k).2, (hs.fits k).3, (hs.fits k).4⟩⟩

theorem State.modPart_inv {s : State} {p : Nat} {f : Part → Part} (hs : s.Inv K W) :
    (State.modPart s p f).Inv K W := by
  unfold State.modPart
  simp only [hs, State.setPart_inv]

theorem State.setPlan_inv {s : State} {k : Nat} {x : Plan} (hs : s.Inv K W) :
    (State.setPlan s k x).Inv K W := by
  exact ⟨hs.queue, fun k => { hs.canonical k with plans := canon_tset (d := fun _ => _) (hs.canonical k).plans },
    fun k => ⟨(hs.fits k).1, (hs.fits k).2, (hs.fits k).3, (hs.fits k).4⟩⟩

theorem State.setTctx_inv {s : State} {c : Nat} {x : Ctx} (hs : s.Inv K W) :
    (State.setTctx s c x).Inv K W := by
  exact ⟨hs.queue, fun k => { hs.canonical k with tctx := canon_tset (d := fun _ => _) (hs.canonical k).tctx },
    fun k => ⟨(hs.fits k).1, (hs.fits k).2, (hs.fits k).3, (hs.fits k).4⟩⟩

theorem State.setSctx_inv {s : State} {c : Nat} {x : Ctx} (hs : s.Inv K W) :
    (State.setSctx s c x).Inv K W := by
  exact ⟨hs.queue, fun k => { hs.canonical k with sctx := canon_tset (d := fun _ => _) (hs.canonical k).sctx },
    fun k => ⟨(hs.fits k).1, (hs.fits k).2, (hs.fits k).3, (hs.fits k).4⟩⟩

theorem State.vary_inv {s : State} {cause p : Nat} (hs : s.Inv K W) :
    (State.vary s cause p).Inv K W := by
  unfold State.vary
  simp (maxDischargeDepth := 100) +contextual only [hs, State.addF_inv, State.modPart_inv]

theorem State.markUnplanned_inv {s : State} {p : Nat} (hs : s.Inv K W) :
    (State.markUnplanned s p).Inv K W := by
  unfold State.markUnplanned
  simp only [inv_ite, ite_self, hs, State.modPart_inv]

theorem State.logPush_inv {s : State} {e : LogEntry} (hs : s.Inv K W) :
    (State.logPush s e).Inv K W := by
  unfold State.logPush
  simp only [inv_mk, inv_ite, ite_self, hs, State.addF_inv]

theorem State.logNote_inv {s : State} {sev code part : Nat} {args : List Nat} (hs : s.Inv K W) :
    (State.logNote s sev code part args).Inv K W := by
  unfold State.logNote
  simp only [inv_mk, hs, State.logPush_inv]

/-! ## Memory -/

/-- A table filled entry by entry stands in its form. -/
theorem canon_fold {α β : Type} [DecidableEq β] {d : β} (f : Tbl β → α → Nat) (g : Tbl β → α → β) (l : List α) {m : Tbl β}
    (hm : Canon (fun _ => d) m) : Canon (fun _ => d) (l.foldl (fun m e => tset d m (f m e) (g m e)) m) := by
  induction l generalizing m with
  | nil => exact hm
  | cons x l ih => exact ih (canon_tset (d := fun _ => d) hm)

/-- A memory filled byte by byte stands in its form. -/
theorem wf_fold (f : Nat → Nat) (l : List Host.Cell) {m : List Host.Cell} (hm : Memory.wf m = true) :
    Memory.wf (l.foldl (fun m e => tset memDefault m (f e.1) e.2) m) = true := by
  induction l generalizing m with
  | nil => exact hm
  | cons x l ih => exact ih (twf_tset _ _ hm)

theorem State.setByte_inv {s : State} {a : Nat} {b : Byte} (hs : s.Inv K W) :
    (State.setByte s a b).Inv K W := by
  exact ⟨hs.queue, fun k => { hs.canonical k with mem := twf_tset _ _ (hs.canonical k).mem },
    fun k => ⟨(hs.fits k).1, (hs.fits k).2, (hs.fits k).3, (hs.fits k).4⟩⟩

theorem State.setBytes_inv {s : State} {a : Nat} {z0 : List Byte} (hs : s.Inv K W) :
    (State.setBytes s a z0).Inv K W := by
  induction z0 generalizing s a with
  | nil =>
    unfold State.setBytes
    repeat' first
      | assumption
  | cons a_ l_ ih =>
    unfold State.setBytes
    simp only [hs, State.setByte_inv, ih]

theorem State.rekey_inv {s old : State} (hs : s.Inv K W) :
    (State.rekey s old).Inv K W := by
  refine ⟨hs.queue, fun k => ?_, fun k => ⟨(hs.fits k).1, (hs.fits k).2, (hs.fits k).3, (hs.fits k).4⟩⟩
  have c := hs.canonical k
  constructor
  case mem => exact wf_fold (fun a => s.addressOf (old.locate a)) old.mem rfl
  case gran => exact canon_fold (fun _ (e : Nat × Gran) => s.addressOf (old.locate (64 * e.1)) / 64) (fun _ e => e.2) old.gran (canon_nil _)
  case flaws => exact canon_fold (fun _ (e : Nat × Nat) => s.addressOf (old.locate (64 * e.1)) / 64) (fun _ e => e.2) old.flaws (canon_nil _)
  all_goals (cases c; assumption)

theorem State.memErrRec_inv {s : State} {cause a : Nat} (hs : s.Inv K W) :
    (State.memErrRec s cause a).Inv K W := by
  unfold State.memErrRec
  simp only [inv_ite, ite_self, hs, State.setF_inv, State.setFs_inv]

theorem State.memErr_inv {s : State} {cause a : Nat} (hs : s.Inv K W) :
    (State.memErr s cause a).Inv K W := by
  unfold State.memErr
  simp only [inv_ite, ite_self, hs, State.logNote_inv, State.memErrRec_inv]

theorem State.setGran_inv {s : State} {g : Nat} {x : Gran} (hs : s.Inv K W) :
    (State.setGran s g x).Inv K W := by
  exact ⟨hs.queue, fun k => { hs.canonical k with gran := canon_tset (d := fun _ => _) (hs.canonical k).gran },
    fun k => ⟨(hs.fits k).1, (hs.fits k).2, (hs.fits k).3, (hs.fits k).4⟩⟩

theorem State.setFlaw_inv {s : State} {g k : Nat} (hs : s.Inv K W) :
    (State.setFlaw s g k).Inv K W := by
  exact ⟨hs.queue, fun k => { hs.canonical k with flaws := canon_tset (d := fun _ => _) (hs.canonical k).flaws },
    fun k => ⟨(hs.fits k).1, (hs.fits k).2, (hs.fits k).3, (hs.fits k).4⟩⟩

theorem State.addFlaws_inv {s : State} {sym : Syms} (hs : s.Inv K W) :
    (State.addFlaws s sym).Inv K W := by
  refine ⟨hs.queue, fun k => { hs.canonical k with flaws := ?_ }, fun k => ⟨(hs.fits k).1, (hs.fits k).2, (hs.fits k).3, (hs.fits k).4⟩⟩
  exact canon_fold (fun _ (e : Nat × Nat) => e.1) (fun m e => max e.2 (tget 0 m e.1)) sym (hs.canonical k).flaws

theorem State.serve1_inv {s : State} {p a : Nat} (hs : s.Inv K W) :
    (State.serve1 s p a).Inv K W := by
  unfold State.serve1
  split
  refine ⟨hs.queue, fun k => { hs.canonical k with served := ?_ }, fun k => ⟨(hs.fits k).1, (hs.fits k).2, (hs.fits k).3, (hs.fits k).4⟩⟩
  dsimp only [tmod]
  exact canon_tset (d := fun _ => 0) (hs.canonical k).served

theorem State.plain_inv1 {s : State} {p g : Nat} (hs : s.Inv K W) :
    Inv1 K W (State.plain s p g) := by
  unfold State.plain
  simp only [inv_mk, inv1_mk, inv1_ite, ite_self, hs]

theorem State.plain_inv {s : State} {p g : Nat} (hs : s.Inv K W) :
    (State.plain s p g).1.Inv K W := State.plain_inv1 hs

theorem State.poisonAs_inv {s : State} {cause g : Nat} (hs : s.Inv K W) :
    (State.poisonAs s cause g).Inv K W := by
  unfold State.poisonAs
  simp (maxDischargeDepth := 100) +contextual only [hs, State.memErr_inv, State.setGran_inv, State.setFlaw_inv]

theorem State.countCorr_inv {s : State} {p g k : Nat} (hs : s.Inv K W) :
    (State.countCorr s p g k).Inv K W := by
  unfold State.countCorr
  simp only [inv_ite, ite_self, hs, State.addF_inv]

theorem State.readGran_inv1 {s : State} {g sym : Nat} (hs : s.Inv K W) :
    Inv1 K W (State.readGran s g sym) := by
  unfold State.readGran
  repeat' first
    | split
    | simp (maxDischargeDepth := 100) +contextual only [inv_fst, inv1_mk, hs, State.memErr_inv, State.setFlaw_inv, State.serve1_inv, State.poisonAs_inv, State.countCorr_inv, State.plain_inv1]

theorem State.readGran_inv {s : State} {g sym : Nat} (hs : s.Inv K W) :
    (State.readGran s g sym).1.Inv K W := State.readGran_inv1 hs

theorem State.writeGran_inv1 {s : State} {g : Nat} {bs : List Byte} (hs : s.Inv K W) :
    Inv1 K W (State.writeGran s g bs) := by
  unfold State.writeGran
  repeat' first
    | split
    | simp (maxDischargeDepth := 100) +contextual only [inv1_mk, hs, State.setBytes_inv, State.memErr_inv, State.setGran_inv, State.setFlaw_inv, State.serve1_inv]

theorem State.writeGran_inv {s : State} {g : Nat} {bs : List Byte} (hs : s.Inv K W) :
    (State.writeGran s g bs).1.Inv K W := State.writeGran_inv1 hs

theorem State.writePart_inv1 {s : State} {g off sym : Nat} {new : List Byte} (hs : s.Inv K W) :
    Inv1 K W (State.writePart s g off sym new) := by
  unfold State.writePart
  repeat' first
    | split
    | simp (maxDischargeDepth := 100) +contextual only [inv_fst, inv1_mk, hs, State.memErr_inv, State.serve1_inv, State.poisonAs_inv, State.countCorr_inv, State.plain_inv1, State.writeGran_inv1]

theorem State.writePart_inv {s : State} {g off sym : Nat} {new : List Byte} (hs : s.Inv K W) :
    (State.writePart s g off sym new).1.Inv K W := State.writePart_inv1 hs

theorem State.readMem_inv1 {s : State} {a n : Nat} {sym : Syms} {z0 : Nat} (hs : s.Inv K W) :
    Inv1 K W (State.readMem s a n sym z0) := by
  induction z0 generalizing s a n sym with
  | zero =>
    unfold State.readMem
    repeat' first
      | assumption
  | succ n_ ih =>
    unfold State.readMem
    repeat' first
      | (rename_i heq; replace heq := congrArg Prod.fst heq; dsimp only at heq; subst heq)
      | split
      | simp only [inv_fst, inv1_mk, hs, State.readGran_inv1, ih]

theorem State.readMem_inv {s : State} {a n : Nat} {sym : Syms} {z0 : Nat} (hs : s.Inv K W) :
    (State.readMem s a n sym z0).1.Inv K W := State.readMem_inv1 hs

theorem State.writeMem_inv1 {s : State} {a : Nat} {sym : Syms} {bs : List Byte} {z0 : Nat} (hs : s.Inv K W) :
    Inv1 K W (State.writeMem s a sym bs z0) := by
  induction z0 generalizing s a sym bs with
  | zero =>
    unfold State.writeMem
    repeat' first
      | assumption
  | succ n_ ih =>
    unfold State.writeMem
    repeat' first
      | (rename_i heq; replace heq := congrArg Prod.fst heq; dsimp only at heq; subst heq)
      | split
      | simp only [inv_fst, inv1_mk, hs, State.writePart_inv1, ih]

theorem State.writeMem_inv {s : State} {a : Nat} {sym : Syms} {bs : List Byte} {z0 : Nat} (hs : s.Inv K W) :
    (State.writeMem s a sym bs z0).1.Inv K W := State.writeMem_inv1 hs

theorem State.read_inv1 {s : State} {a n : Nat} {sym : Syms} (hs : s.Inv K W) :
    Inv1 K W (State.read s a n sym) := by
  unfold State.read
  simp only [hs, State.addFlaws_inv, State.readMem_inv1]

theorem State.read_inv {s : State} {a n : Nat} {sym : Syms} (hs : s.Inv K W) :
    (State.read s a n sym).1.Inv K W := State.read_inv1 hs

theorem State.write_inv1 {s : State} {a : Nat} {sym : Syms} {bs : List Byte} (hs : s.Inv K W) :
    Inv1 K W (State.write s a sym bs) := by
  unfold State.write
  simp only [hs, State.addFlaws_inv, State.writeMem_inv1]

theorem State.write_inv {s : State} {a : Nat} {sym : Syms} {bs : List Byte} (hs : s.Inv K W) :
    (State.write s a sym bs).1.Inv K W := State.write_inv1 hs

theorem State.busError_inv {s : State} {r : MemRes} (hs : s.Inv K W) :
    (State.busError s r).Inv K W := by
  unfold State.busError
  repeat' first
    | (simp only [inv_mk, inv_ite, ite_self, hs])
    | split

theorem State.markAt_inv {s : State} {a : Nat} (hs : s.Inv K W) :
    (State.markAt s a).Inv K W := by
  unfold State.markAt
  repeat' first
    | (simp only [hs, State.markUnplanned_inv])
    | split

theorem State.writeQ_inv {s : State} {a : Nat} {bs : List Byte} (hs : s.Inv K W) :
    (State.writeQ s a bs).Inv K W := by
  unfold State.writeQ
  simp (maxDischargeDepth := 100) +contextual only [inv_fst, hs, State.busError_inv, State.markAt_inv, State.write_inv1]

theorem State.readR_inv1 {s : State} {a n : Nat} {sym : Syms} (hs : s.Inv K W) :
    Inv1 K W (State.readR s a n sym) := by
  unfold State.readR
  simp (maxDischargeDepth := 100) +contextual only [inv_fst, inv1_mk, hs, State.busError_inv, State.markAt_inv, State.read_inv1]

theorem State.readR_inv {s : State} {a n : Nat} {sym : Syms} (hs : s.Inv K W) :
    (State.readR s a n sym).1.Inv K W := State.readR_inv1 hs

theorem State.setSpad_inv {s : State} {n a : Nat} {bs : List Byte} (hs : s.Inv K W) :
    (State.setSpad s n a bs).Inv K W := by
  unfold State.setSpad
  simp only [hs, State.setBytes_inv]

/-! ## Bounce -/

theorem State.setBounce_inv {s : State} {p : Nat} {b : Bounce} (hs : s.Inv K W) :
    (State.setBounce s p b).Inv K W := by
  exact ⟨hs.queue, fun k => { hs.canonical k with bounce := canon_tset (d := fun _ => _) (hs.canonical k).bounce },
    fun k => ⟨(hs.fits k).1, (hs.fits k).2, (hs.fits k).3, (hs.fits k).4⟩⟩

theorem State.bounceIn_inv1 {s : State} {p len : Nat} {h : HostData} (hs : s.Inv K W) :
    Inv1 K W (State.bounceIn s p len h) := by
  unfold State.bounceIn
  repeat' first
    | split
    | simp only [inv1_mk, inv1_ite, hs, State.addF_inv, State.setBounce_inv]

theorem State.bounceIn_inv {s : State} {p len : Nat} {h : HostData} (hs : s.Inv K W) :
    (State.bounceIn s p len h).1.Inv K W := State.bounceIn_inv1 hs

theorem State.bounceOut_inv1 {s : State} {p : Nat} {bs : List Byte} (hs : s.Inv K W) :
    Inv1 K W (State.bounceOut s p bs) := by
  unfold State.bounceOut
  simp only [inv1_mk, inv1_ite, ite_self, hs, State.addF_inv, State.setBounce_inv]

theorem State.bounceOut_inv {s : State} {p : Nat} {bs : List Byte} (hs : s.Inv K W) :
    (State.bounceOut s p bs).1.Inv K W := State.bounceOut_inv1 hs

/-! ## Rings -/

theorem inv_sram {s : State} {a} {b} (hs : s.Inv K W) : State.Inv K W { s with sram := tset 0 s.sram a b } := by
  refine ⟨hs.queue, fun k => { hs.canonical k with sram := ?_ }, fun k => ⟨(hs.fits k).1, (hs.fits k).2, (hs.fits k).3, (hs.fits k).4⟩⟩
  dsimp only [tmod]
  exact canon_tset (d := fun _ => 0) (hs.canonical k).sram

theorem State.setRing_inv {s : State} {k : Nat} {x : Ring} (hs : s.Inv K W) :
    (State.setRing s k x).Inv K W := by
  exact ⟨hs.queue, fun k => { hs.canonical k with rings := canon_tset (d := fun _ => _) (hs.canonical k).rings },
    fun k => ⟨(hs.fits k).1, (hs.fits k).2, (hs.fits k).3, (hs.fits k).4⟩⟩

theorem State.setSram_inv {s : State} {a : Nat} {z0 : List Byte} (hs : s.Inv K W) :
    (State.setSram s a z0).Inv K W := by
  induction z0 generalizing s a with
  | nil =>
    unfold State.setSram
    repeat' first
      | assumption
  | cons a_ l_ ih =>
    unfold State.setSram
    simp only [hs, inv_sram, ih]

theorem State.ringWrite_inv {s : State} {r : Ring} {off : Nat} {bs : List Byte} (hs : s.Inv K W) :
    (State.ringWrite s r off bs).Inv K W := by
  unfold State.ringWrite
  simp only [inv_ite, ite_self, hs, State.writeQ_inv, State.setSram_inv]

theorem State.ringBounce_inv {s : State} {k : Nat} {bs : List Byte} (hs : s.Inv K W) :
    (State.ringBounce s k bs).Inv K W := by
  unfold State.ringBounce
  repeat' first
    | (rename_i heq; replace heq := congrArg Prod.fst heq; dsimp only at heq; subst heq)
    | split
    | simp only [inv_mk, inv_fst, inv_ite, hs, State.setRing_inv, State.bounceOut_inv1]

theorem State.ringPut_inv {s : State} {k : Nat} {bs : List Byte} (hs : s.Inv K W) :
    (State.ringPut s k bs).Inv K W := by
  unfold State.ringPut
  simp (maxDischargeDepth := 100) +contextual only [inv_mk, hs, State.setRing_inv, State.ringWrite_inv, State.ringBounce_inv]

theorem State.flushReplies_inv {s : State} {z0 : List Reply} (hs : s.Inv K W) :
    (State.flushReplies s z0).Inv K W := by
  induction z0 generalizing s with
  | nil =>
    unfold State.flushReplies
    repeat' first
      | assumption
  | cons a_ l_ ih =>
    unfold State.flushReplies
    repeat' first
      | (simp only [inv_mk, inv_ite, ite_self, hs, State.ringPut_inv, ih])
      | split

theorem State.reply_inv {s : State} {fn : Nat} {cq : Option Nat} {bs : List Byte} (hs : s.Inv K W) :
    (State.reply s fn cq bs).Inv K W := by
  unfold State.reply
  simp only [inv_mk, hs, State.flushReplies_inv]

theorem State.repost_inv {s : State} (hs : s.Inv K W) :
    (State.repost s).Inv K W := by
  unfold State.repost
  simp only [inv_mk, hs, State.flushReplies_inv]

theorem State.logPut_inv {s : State} {k : Nat} {z0 : List LogEntry} (hs : s.Inv K W) :
    (State.logPut s k z0).Inv K W := by
  induction z0 generalizing s k with
  | nil =>
    unfold State.logPut
    repeat' first
      | assumption
  | cons a_ l_ ih =>
    unfold State.logPut
    simp (maxDischargeDepth := 100) +contextual only [hs, State.addF_inv, State.ringPut_inv, ih]

theorem State.logCopy_inv {s : State} (hs : s.Inv K W) :
    (State.logCopy s).Inv K W := by
  unfold State.logCopy
  repeat' first
    | (simp only [inv_mk, hs, State.logPut_inv]; done)
    | split

theorem State.logEvent_inv {s : State} {sev code part : Nat} {args : List Nat} (hs : s.Inv K W) :
    (State.logEvent s sev code part args).Inv K W := by
  unfold State.logEvent
  simp only [inv_ite, ite_self, hs, State.logNote_inv, State.logCopy_inv]

theorem State.commit_inv {s : State} (hs : s.Inv K W) :
    (State.commit s).Inv K W := by
  unfold State.commit
  simp only [inv_mk, inv_ite, ite_self, hs]

theorem State.logFree_inv {s : State} {part : Nat} {args : List Nat} (hs : s.Inv K W) :
    (State.logFree s part args).Inv K W := by
  unfold State.logFree
  simp only [inv_fst, hs, State.logEvent_inv, State.takeFree_inv1]

/-! ## Abort -/

theorem Core.drop_fits {k : Core} (h : k.Fits) : k.drop.Fits :=
  ⟨by simp [Core.drop], by simp [Core.drop], by simp [Core.drop], by simp [Core.drop], by simp [Core.drop], by simp [Core.drop], h.sb, h.peep⟩

theorem Core.fits_sb {k : Core} {l a b} (h : k.Fits) (hl : l.length ≤ 128) : Core.Fits { k with stop := a, sb := l, lastTaken := b } :=
  ⟨h.1, h.2, h.3, h.4, h.5, h.6, hl, h.8⟩

theorem State.inject_inv {s : State} {k : Packet} (hs : s.Inv K W) :
    (State.inject s k).Inv K W := by
  unfold State.inject
  simp only [inv_mk, hs]

theorem State.recordFault_inv {s : State} {n seq eng code : Nat} (hs : s.Inv K W) :
    (State.recordFault s n seq eng code).Inv K W := by
  unfold State.recordFault
  simp only [inv_ite, ite_self, hs, State.setF_inv, State.setFs_inv]

theorem State.abortCore_inv {s : State} {n : Nat} (hs : s.Inv K W) :
    (State.abortCore s n).Inv K W := by
  dsimp only [State.abortCore]
  split
  · exact State.setCore_inv hs fun k => Core.drop_fits (hs.core n k)
  · exact State.setCore_inv (State.setFs_inv (State.recordFault_inv hs)) fun k => Core.fits_sb (Core.drop_fits (hs.core n k)) (by simp)

theorem State.clearThresholds_inv {s : State} {p : Nat} (hs : s.Inv K W) :
    (State.clearThresholds s p).Inv K W := by
  unfold State.clearThresholds
  repeat' first
    | (simp only [*, inv_mk, inv_ite, ite_self, State.setTctx_inv, State.setSctx_inv]; done)
    | with_reducible refine inv_foldl (fun _ _ _ => ?_) ?_
    | simp only [inv_mk]

theorem State.endHold_inv {s : State} {p : Nat} (hs : s.Inv K W) :
    (State.endHold s p).Inv K W := by
  unfold State.endHold
  repeat' first
    | (simp only [hs, State.setF_inv, State.modPart_inv])
    | split

theorem State.countLost_inv {s : State} {n lost : Nat} (hs : s.Inv K W) :
    (State.countLost s n lost).Inv K W := by
  unfold State.countLost
  simp only [hs, State.addF_inv]

theorem State.countLosses_inv {s : State} {l : List (Nat × Nat)} (hs : s.Inv K W) :
    (State.countLosses s l).Inv K W := by
  unfold State.countLosses
  repeat' first
    | (simp only [*, inv_ite, ite_self, State.countLost_inv])
    | with_reducible refine inv_foldl (fun _ _ _ => ?_) ?_

theorem State.loseOpen_inv {s : State} {n : Nat} (hs : s.Inv K W) :
    (State.loseOpen s n).Inv K W := by
  unfold State.loseOpen
  simp only [inv_fst, inv_ite, ite_self, hs, State.countLost_inv, State.takeFree_inv1]

theorem State.purge_inv {s : State} {p : Nat} (hs : s.Inv K W) :
    (State.purge s p).Inv K W := by
  unfold State.purge
  simp only [inv_mk, hs]

theorem State.abortApply_inv {s : State} {p status : Nat} (hs : s.Inv K W) :
    (State.abortApply s p status).Inv K W := by
  unfold State.abortApply
  repeat' first
    | (simp only [*, State.abortCore_inv, State.endHold_inv, State.loseOpen_inv]; done)
    | with_reducible refine inv_foldl (fun _ _ _ => ?_) ?_
    | with_reducible apply State.setFs_inv
    | with_reducible apply State.modPart_inv
    | with_reducible apply State.clearThresholds_inv
    | with_reducible apply State.purge_inv

theorem State.lateAbort_inv {s : State} {p : Nat} (hs : s.Inv K W) :
    (State.lateAbort s p).Inv K W := by
  unfold State.lateAbort
  simp (maxDischargeDepth := 100) +contextual only [hs, State.setFs_inv, State.modPart_inv, State.purge_inv]

theorem State.recordAbort_inv {s : State} {p node cause detail : Nat} (hs : s.Inv K W) :
    (State.recordAbort s p node cause detail).Inv K W := by
  unfold State.recordAbort
  simp only [hs, State.setFs_inv]

theorem State.sendAbort_inv {s : State} {p cause detail : Nat} (hs : s.Inv K W) :
    (State.sendAbort s p cause detail).Inv K W := by
  unfold State.sendAbort
  repeat' first
    | (simp only [hs, State.inject_inv])
    | split

theorem State.abortStep_inv {s : State} {p cause detail : Nat} (hs : s.Inv K W) :
    (State.abortStep s p cause detail).Inv K W := by
  unfold State.abortStep
  simp (maxDischargeDepth := 100) +contextual only [inv_ite, ite_self, hs, State.addF_inv, State.logEvent_inv, State.abortApply_inv, State.lateAbort_inv, State.recordAbort_inv, State.sendAbort_inv]

theorem State.coreFault_inv {s : State} {n seq eng code : Nat} (hs : s.Inv K W) :
    (State.coreFault s n seq eng code).Inv K W := by
  unfold State.coreFault
  refine State.abortStep_inv (State.setCore_inv (State.setFs_inv (State.recordFault_inv hs)) fun k => ?_)
  exact Core.fits_sb (hs.core n k) (le_trans (List.length_filter_le _ _) (hs.core n k).sb)

end Sys2Proof.Machine
end

