-- ==== Sys2Proof/Laws/InvCores.lean ====
section
/-! SUPPORT. The commands of the cores keep the form of the state. -/

namespace Sys2Proof.Machine

variable {K : Prop} {W : List Instr}

/-! ## Engine -/

theorem Core.setQueue_fits {k : Core} {eng q} (h : k.Fits) (hq : q.length ≤ 64) : (k.setQueue eng q).Fits := by
  unfold Core.setQueue
  split
  · exact ⟨h.1, hq, h.3, h.4, h.5, h.6, h.7, h.8⟩
  · exact ⟨h.1, h.2, hq, h.4, h.5, h.6, h.7, h.8⟩
  · exact ⟨h.1, h.2, h.3, hq, h.5, h.6, h.7, h.8⟩
  · exact ⟨h.1, h.2, h.3, h.4, hq, h.6, h.7, h.8⟩
  · exact ⟨h.1, h.2, h.3, h.4, h.5, hq, h.7, h.8⟩

theorem Core.queue_fits {k : Core} (h : k.Fits) (eng : Nat) : (k.queue eng).length ≤ 64 := by
  unfold Core.queue
  split
  · exact h.load
  · exact h.matrix
  · exact h.vector
  · exact h.store
  · exact h.send

theorem Core.putEntry_fits {k : Core} {eng e} (h : k.Fits) : (k.putEntry eng e).Fits :=
  Core.setQueue_fits h (by simpa using Core.queue_fits h eng)

theorem fillSb_fits {s : State} {n seq : Nat} {ts : List Todo} {sb : List SbEntry} (h : sb.length ≤ 128) :
    (fillSb s n seq ts sb).1.length ≤ 128 := by
  induction ts generalizing sb with
  | nil => exact h
  | cons t ts ih =>
    unfold fillSb
    split
    · exact ih (by simp; omega)
    · exact h

theorem State.signal_inv {s : State} {n : Nat} {c : Cmd} (hs : s.Inv K W) :
    (State.signal s n c).Inv K W := by
  unfold State.signal
  repeat' first
    | (simp only [*, State.addLatch_inv])
    | with_reducible refine inv_foldl (fun _ _ _ => ?_) ?_

theorem State.putEntry_inv {s : State} {n eng : Nat} {e : QEntry} (hs : s.Inv K W) :
    (State.putEntry s n eng e).Inv K W := by
  exact State.modCore_inv hs fun k h => Core.putEntry_fits h

theorem State.fillEntry_inv {s : State} {n eng : Nat} {e : QEntry} (hs : s.Inv K W) :
    (State.fillEntry s n eng e).Inv K W := by
  refine State.setCore_inv hs fun k => Core.putEntry_fits ?_
  have h := hs.core n k
  exact ⟨h.1, h.2, h.3, h.4, h.5, h.6, fillSb_fits h.sb, h.8⟩

theorem State.refill_inv {s : State} {n : Nat} (hs : s.Inv K W) :
    (State.refill s n).Inv K W := by
  unfold State.refill
  repeat' first
    | (simp only [*, State.fillEntry_inv]; done)
    | with_reducible refine inv_foldl (fun _ _ _ => ?_) ?_

theorem State.startSkipped_inv {s : State} {n eng : Nat} {e : QEntry} (hs : s.Inv K W) :
    (State.startSkipped s n eng e).Inv K W := by
  unfold State.startSkipped
  simp only [hs, State.putEntry_inv, State.refill_inv]

theorem State.runHead_inv {s : State} {n eng : Nat} {op : Op} {body : State → QEntry → Out} (hs : s.Inv K W) (hf : ∀ s e, s.Inv K W → Good K W (body s e)) :
    Good K W (State.runHead s n eng op body) := by
  unfold State.runHead
  repeat' first
    | (simp only [good_next, good_ite, ite_self, hs, State.coreFault_inv, State.startSkipped_inv, hf]; done)
    | split

theorem State.markStarted_inv {s : State} {n eng : Nat} {e : QEntry} (hs : s.Inv K W) :
    (State.markStarted s n eng e).Inv K W := by
  unfold State.markStarted
  simp only [hs, State.putEntry_inv]

theorem State.updateHold_inv {s : State} {p : Nat} (hs : s.Inv K W) :
    (State.updateHold s p).Inv K W := by
  unfold State.updateHold
  repeat' first
    | split
    | simp only [hs, State.addF_inv, State.modPart_inv, State.endHold_inv]

theorem State.tryStepEnd_inv {s : State} {n : Nat} (hs : s.Inv K W) :
    (State.tryStepEnd s n).Inv K W := by
  unfold State.tryStepEnd
  repeat' first
    | exact State.Inv.core (by assumption) _ (by assumption)
    | intro _
    | split
    | with_reducible apply State.setCore_inv
    | with_reducible apply State.signal_inv
    | simp only [inv_ite, fits_mk, hs]

/-! ## Load -/

theorem State.rangeRefused_inv {s : State} {lo hi : Int} (hs : s.Inv K W) :
    (State.rangeRefused s lo hi).Inv K W := by
  unfold State.rangeRefused
  dsimp only
  split
  · exact hs
  · exact State.memErr_inv hs

theorem State.newTag_inv1 {s : State} {r : Requester} (hs : s.Inv K W) :
    Inv1 K W (State.newTag s r) := by
  unfold State.newTag
  simp only [inv_mk, inv1_mk, hs]

theorem State.newTag_inv {s : State} {r : Requester} (hs : s.Inv K W) :
    (State.newTag s r).1.Inv K W := State.newTag_inv1 hs

theorem State.requestPieces_inv {s : State} {n seq slot : Nat} {z0 : List Piece} {z1 : Nat} (hs : s.Inv K W) :
    (State.requestPieces s n seq slot z0 z1).Inv K W := by
  induction z0 generalizing s n seq slot z1 with
  | nil =>
    unfold State.requestPieces
    repeat' first
      | assumption
  | cons a_ l_ ih =>
    unfold State.requestPieces
    simp (maxDischargeDepth := 100) +contextual only [inv_fst, hs, State.inject_inv, State.newTag_inv1, ih]

theorem execLdCopy_inv {core : Nat} {s : State} (hs : s.Inv K W) (hw : unitOk core 0 = true) :
    Good K W (execLdCopy core s) := by
  unfold execLdCopy
  repeat' first
    | intro _
    | (simp only [*, good_next, good_ite, inv_ite, ite_self, State.coreFault_inv, State.putEntry_inv, State.rangeRefused_inv, State.requestPieces_inv]; done)
    | contradiction
    | split
    | with_reducible apply State.runHead_inv
    | simp only [good_next, good_ite]

theorem State.zeroRows_inv {s : State} {n : Nat} {ps : List Piece} (hs : s.Inv K W) :
    (State.zeroRows s n ps).Inv K W := by
  unfold State.zeroRows
  repeat' first
    | (simp only [*, State.setSpad_inv])
    | with_reducible refine inv_foldl (fun _ _ _ => ?_) ?_

theorem execLdPgather_inv {core : Nat} {s : State} (hs : s.Inv K W) (hw : unitOk core 0 = true) :
    Good K W (execLdPgather core s) := by
  unfold execLdPgather
  repeat' first
    | intro _
    | (simp only [*, good_next, good_ite, State.coreFault_inv, State.putEntry_inv, State.rangeRefused_inv, State.zeroRows_inv]; done)
    | contradiction
    | split
    | with_reducible apply State.runHead_inv
    | simp only [good_next, good_ite]

theorem State.landPiece_inv {s : State} {n : Nat} {ps : List Piece} {i dst : Nat} {z0 : List Byte} (hs : s.Inv K W) :
    (State.landPiece s n ps i dst z0).Inv K W := by
  induction z0 generalizing s n ps i dst with
  | nil =>
    unfold State.landPiece
    repeat' first
      | assumption
  | cons a_ l_ ih =>
    unfold State.landPiece
    simp only [inv_ite, ite_self, hs, State.setByte_inv, ih]

theorem State.arrivePiece_inv {s : State} {n : Nat} {e : QEntry} {i : Nat} {p : Piece} {bs : List Byte} (hs : s.Inv K W) :
    (State.arrivePiece s n e i p bs).Inv K W := by
  unfold State.arrivePiece
  simp only [hs, State.putEntry_inv, State.landPiece_inv]

theorem execLoadPieceArrive_inv {core seq piece : Nat} {sym : Syms} {s : State} (hs : s.Inv K W) (hw : unitOk core 0 = true) :
    Good K W (execLoadPieceArrive core seq piece sym s) := by
  unfold execLoadPieceArrive
  repeat' first
    | (simp only [inv_fst, good_next, good_ite, hs, State.coreFault_inv, State.arrivePiece_inv, State.read_inv1, hw]; done)
    | contradiction
    | (rename_i heq; replace heq := congrArg Prod.fst heq; dsimp only at heq; subst heq)
    | split

/-! ## StoreSend -/

theorem execStCopy_inv {core : Nat} {s : State} (hs : s.Inv K W) (hw : unitOk core 3 = true) :
    Good K W (execStCopy core s) := by
  unfold execStCopy
  repeat' first
    | (simp (maxDischargeDepth := 100) +contextual only [good_next, good_ite, inv_ite, ite_self, implies_true, hs, State.coreFault_inv, State.putEntry_inv, State.refill_inv, State.runHead_inv, State.rangeRefused_inv, hw]; done)
    | contradiction
    | split

theorem execSdData_inv {core : Nat} {s : State} (hs : s.Inv K W) (hw : unitOk core 4 = true) :
    Good K W (execSdData core s) := by
  unfold execSdData
  repeat' first
    | (simp (maxDischargeDepth := 100) +contextual only [good_next, good_ite, implies_true, hs, State.putEntry_inv, State.refill_inv, State.runHead_inv, hw]; done)
    | contradiction
    | split

theorem execSdLatch_inv {core : Nat} {s : State} (hs : s.Inv K W) (hw : unitOk core 4 = true) :
    Good K W (execSdLatch core s) := by
  unfold execSdLatch
  repeat' first
    | (simp (maxDischargeDepth := 100) +contextual only [good_next, good_ite, implies_true, hs, State.putEntry_inv, State.refill_inv, State.runHead_inv, hw]; done)
    | contradiction
    | split

theorem execSdArrive_inv {core : Nat} {s : State} (hs : s.Inv K W) (hw : unitOk core 4 = true) :
    Good K W (execSdArrive core s) := by
  unfold execSdArrive
  repeat' first
    | (simp +contextual only [inv_mk, good_next, good_ite, ite_self, implies_true, hs, State.runHead_inv, State.markStarted_inv, hw]; done)
    | contradiction
    | split

theorem State.awaitAck_inv {s : State} {n seq : Nat} (hs : s.Inv K W) :
    (State.awaitAck s n seq).Inv K W := by
  exact State.modCore_inv hs fun k h => ⟨h.1, h.2, h.3, h.4, by simpa using h.5, h.6, h.7, h.8⟩

theorem State.takeGranule_inv {s : State} {n : Nat} {g : SbEntry} (hs : s.Inv K W) :
    (State.takeGranule s n g).Inv K W := by
  unfold State.takeGranule
  repeat' first
    | (simp (maxDischargeDepth := 100) +contextual only [inv_fst, inv_ite, ite_self, hs, State.inject_inv, State.awaitAck_inv, State.write_inv1, State.newTag_inv1]; done)
    | split

theorem execGranuleTaken_inv {core : Nat} {s : State} (hs : s.Inv K W) (hw : unitOk core 3 = true) :
    Good K W (execGranuleTaken core s) := by
  unfold execGranuleTaken
  repeat' first
    | intro _
    | contradiction
    | split
    | with_reducible apply State.addF_inv
    | with_reducible apply State.setCore_inv
    | with_reducible apply State.refill_inv
    | with_reducible apply State.tryStepEnd_inv
    | with_reducible apply State.takeGranule_inv
    | simp only [good_next, hs]
  all_goals
    have h := hs.core core (by assumption)
    refine ⟨h.1, h.2, h.3, h.4, h.5, h.6, ?_, h.8⟩
    have := h.sb
    simp_all [Nat.le_of_succ_le]

theorem execStoreAck_inv {core seq : Nat} {s : State} (hs : s.Inv K W) (hw : unitOk core 3 = true) :
    Good K W (execStoreAck core seq s) := by
  unfold execStoreAck
  repeat' first
    | (simp only [good_next, good_ite, ite_self, hs, State.putEntry_inv, hw]; done)
    | contradiction
    | split

theorem execStoreDrainLost_inv {core : Nat} {s : State} (hs : s.Inv K W) (hw : unitOk core 3 = true) :
    Good K W (execStoreDrainLost core s) := by
  unfold execStoreDrainLost
  repeat' first
    | intro _
    | contradiction
    | split
    | with_reducible apply State.setCore_inv
    | with_reducible apply State.abortStep_inv
    | simp only [good_next, good_ite, hs, State.setFs_inv, State.recordFault_inv]
  all_goals exact Core.fits_sb (hs.core core (by assumption)) (by simp)

/-! ## Dispatcher -/

theorem State.fetchBlock_inv {s : State} {core : Nat} {sym : Syms} (hs : s.Inv K W) :
    (State.fetchBlock s core sym).Inv K W := by
  unfold State.fetchBlock
  extract_lets k a add
  split
  · exact hs
  rename_i h
  have ha : ∀ (t : State) (b : Block), t.Inv K W → (add t b).Inv K W := fun t b ht =>
    State.setCore_inv ht fun hk => by
      have c := hs.core core hk
      exact ⟨by simp [k] at h ⊢; omega, c.2, c.3, c.4, c.5, c.6, c.7, c.8⟩
  clear_value add
  have hr := State.read_inv1 (a := a) (n := 4096) (sym := sym) hs
  split
  · exact ha _ _ (State.rangeRefused_inv hs)
  split
  all_goals
    next heq =>
      rw [heq] at hr
      exact ha _ _ hr

theorem Core.advance_fits {k : Core} {c : Cmd} (h : k.Fits) : (k.advance c).Fits := by
  unfold Core.advance
  exact ⟨le_trans (List.length_filter_le _ _) h.blocks, h.2, h.3, h.4, h.5, h.6, h.7, h.8⟩

theorem execStreamBlockFetch_inv {core : Nat} {sym : Syms} {s : State} (hs : s.Inv K W) (hw : unitOk core 5 = true) :
    Good K W (execStreamBlockFetch core sym s) := by
  unfold execStreamBlockFetch
  repeat' first
    | (simp only [good_next, good_ite, hs, State.fetchBlock_inv, hw]; done)
    | contradiction
    | split

theorem State.dispatch_inv {s : State} {core : Nat} (hs : s.Inv K W) :
    (State.dispatch s core).Inv K W := by
  unfold State.dispatch
  dsimp only
  split
  · exact hs
  split
  · exact hs
  · exact State.coreFault_inv hs
  split
  · exact State.coreFault_inv hs
  split
  · exact State.coreFault_inv hs
  split
  · exact State.setCore_inv hs fun k => fits_mk.2 (hs.core core k)
  split
  · exact hs
  next h =>
    refine State.updateHold_inv (State.setCore_inv hs fun k => Core.advance_fits (Core.setQueue_fits (hs.core core k) ?_))
    simp
    omega

theorem execDispatchCommand_inv {core : Nat} {s : State} (hs : s.Inv K W) (hw : unitOk core 5 = true) :
    Good K W (execDispatchCommand core s) := by
  unfold execDispatchCommand
  repeat' first
    | (simp only [good_next, good_ite, hs, State.dispatch_inv, hw]; done)
    | contradiction
    | split

theorem State.handle_inv {s : State} {n : Nat} {op : Op} {sig : Bool} {f : State → Cmd → State} (hs : s.Inv K W) (hf : ∀ s c, s.Inv K W → (f s c).Inv K W) :
    (State.handle s n op sig f).Inv K W := by
  unfold State.handle
  repeat' first
    | intro _
    | split
    | with_reducible apply State.modCore_inv
    | with_reducible apply State.updateHold_inv
    | simp only [hs, State.coreFault_inv, State.signal_inv, hf]
  all_goals exact Core.advance_fits (by assumption)

theorem execNop_inv {core eng : Nat} {s : State} (hs : s.Inv K W) (hw : unitOk core eng = true) :
    Good K W (execNop core eng s) := by
  unfold execNop
  repeat' first
    | (simp +contextual only [good_next, good_ite, ite_self, implies_true, hs, State.runHead_inv, State.markStarted_inv, State.handle_inv, hw]; done)
    | contradiction
    | split

theorem execBeatEnd_inv {core : Nat} {s : State} (hs : s.Inv K W) (hw : unitOk core 5 = true) :
    Good K W (execBeatEnd core s) := by
  unfold execBeatEnd
  repeat' first
    | (simp +contextual only [good_next, good_ite, implies_true, hs, State.handle_inv, hw]; done)
    | contradiction
    | split

theorem execStepEnd_inv {core : Nat} {s : State} (hs : s.Inv K W) (hw : unitOk core 5 = true) :
    Good K W (execStepEnd core s) := by
  unfold execStepEnd
  repeat' first
    | (simp (maxDischargeDepth := 100) +contextual only [good_next, good_ite, fits_mk, ite_self, implies_true, hs, State.modCore_inv, State.coreFault_inv, State.updateHold_inv, State.tryStepEnd_inv, hw]; done)
    | contradiction
    | split

theorem State.resetLatches_inv {s : State} {core : Nat} (hs : s.Inv K W) :
    (State.resetLatches s core).Inv K W := by
  unfold State.resetLatches
  simp +contextual only [implies_true, hs, State.clearLatches_inv, State.handle_inv]

theorem execLatchReset_inv {core : Nat} {s : State} (hs : s.Inv K W) (hw : unitOk core 5 = true) :
    Good K W (execLatchReset core s) := by
  unfold execLatchReset
  repeat' first
    | (simp only [good_next, good_ite, hs, State.resetLatches_inv, hw]; done)
    | contradiction
    | split

theorem State.openReset_inv {s : State} {n : Nat} (hs : s.Inv K W) :
    (State.openReset s n).Inv K W := by
  unfold State.openReset
  repeat' first
    | (simp only [inv_ite, ite_self, hs, State.dispatch_inv, State.resetLatches_inv])
    | split

theorem execPeepEmit_inv {core : Nat} {s : State} (hs : s.Inv K W) (hw : unitOk core 5 = true) :
    Good K W (execPeepEmit core s) := by
  unfold execPeepEmit
  repeat' first
    | intro _
    | (simp +contextual only [*, good_next, good_ite, inv_ite, fits_mk, implies_true, State.addF_inv, State.modCore_inv]; done)
    | contradiction
    | split
    | with_reducible apply State.setCore_inv
    | with_reducible apply State.handle_inv
    | simp +contextual only [good_next]
  all_goals
    rename_i h _ _ k
    have h := State.Inv.core h core k
    exact ⟨h.1, h.2, h.3, h.4, h.5, h.6, h.7, by simp; omega⟩

theorem execCommandComplete_inv {core eng lost : Nat} {s : State} (hs : s.Inv K W) (hw : unitOk core eng = true ∧ eng ≠ 5) :
    Good K W (execCommandComplete core eng lost s) := by
  unfold execCommandComplete
  repeat' first
    | intro _
    | split
    | with_reducible apply State.setCore_inv
    | with_reducible apply State.signal_inv
    | with_reducible apply State.updateHold_inv
    | with_reducible apply State.tryStepEnd_inv
    | with_reducible apply State.countLost_inv
    | (exfalso; simp_all; done)
    | simp only [good_next, fits_mk, hs]
  all_goals
    have h := Core.queue_fits (hs.core core (by assumption)) eng
    refine Core.setQueue_fits (hs.core core (by assumption)) ?_
    simp_all [Nat.le_of_succ_le]

/-! ## Start -/

theorem State.writeCtr_inv {s : State} {attempts : Nat} (hs : s.Inv K W) :
    (State.writeCtr s attempts).Inv K W := by
  unfold State.writeCtr
  simp only [inv_mk, hs, State.setFs_inv]

theorem State.firstStep_inv {s : State} (hs : s.Inv K W) :
    (State.firstStep s).Inv K W := by
  unfold State.firstStep
  simp only [inv_ite, ite_self, hs, State.setF_inv, State.writeCtr_inv]

theorem State.stepDone_inv {s : State} {p status : Nat} {replaying : Bool} (hs : s.Inv K W) :
    (State.stepDone s p status replaying).Inv K W := by
  unfold State.stepDone
  simp only [hs, State.reply_inv, State.commit_inv]

theorem State.recordT_inv {s : State} {c code core : Nat} (hs : s.Inv K W) :
    (State.recordT s c code core).Inv K W := by
  unfold State.recordT
  simp only [inv_ite, ite_self, hs, State.setF_inv, State.setFs_inv]

theorem State.recordS_inv {s : State} {c code node : Nat} (hs : s.Inv K W) :
    (State.recordS s c code node).Inv K W := by
  unfold State.recordS
  simp only [inv_ite, ite_self, hs, State.setF_inv, State.setFs_inv, State.logEvent_inv]

theorem State.openBeat_inv {s : State} {p b : Nat} (hs : s.Inv K W) :
    (State.openBeat s p b).Inv K W := by
  unfold State.openBeat
  repeat' first
    | (simp only [*, State.setF_inv]; done)
    | with_reducible refine inv_foldl (fun _ _ _ => ?_) ?_
    | with_reducible apply State.modPart_inv
    | with_reducible apply State.updateHold_inv

theorem State.startCore_inv {s : State} {n : Nat} (hs : s.Inv K W) :
    (State.startCore s n).Inv K W := by
  unfold State.startCore
  simp (maxDischargeDepth := 100) +contextual only [fits_mk, implies_true, hs, State.wrReg_inv, State.setF_inv, State.modCore_inv]

theorem State.openBeat0_inv {s : State} {p : Nat} {late : Bool} (hs : s.Inv K W) :
    (State.openBeat0 s p late).Inv K W := by
  unfold State.openBeat0
  repeat' first
    | (simp only [*, inv_ite, ite_self, State.setF_inv, State.vary_inv, State.openReset_inv, State.startCore_inv]; done)
    | with_reducible refine inv_foldl (fun _ _ _ => ?_) ?_
    | with_reducible apply State.wrReg_inv
    | with_reducible apply State.modPart_inv
    | with_reducible apply State.openBeat_inv

theorem execStepStart_inv {p : Nat} {s : State} (hs : s.Inv K W) (hw : p < 16) :
    Good K W (execStepStart p s) := by
  unfold execStepStart
  repeat' first
    | (simp only [good_next, good_ite, ite_self, hs, State.openBeat0_inv, hw]; done)
    | contradiction
    | split

theorem State.sendToken_inv {s : State} {kind c gen tb : Nat} (hs : s.Inv K W) :
    (State.sendToken s kind c gen tb).Inv K W := by
  unfold State.sendToken
  simp only [hs, State.inject_inv]

theorem State.latchWrite_inv {s : State} {n l inc : Nat} (hs : s.Inv K W) :
    (State.latchWrite s n l inc).Inv K W := by
  unfold State.latchWrite
  simp only [inv_mk, inv_ite, ite_self, hs, State.addLatch_inv]

theorem State.raiseMembers_inv1 {s : State} {x : Ctx} {ms : List Nat} (hs : s.Inv K W) :
    Inv1 K W (State.raiseMembers s x ms) := by
  unfold State.raiseMembers
  repeat' first
    | (simp only [*, inv_fst, inv1_mk, State.latchWrite_inv]; done)
    | split
    | with_reducible refine inv1_foldl (fun _ _ _ => ?_) ?_

theorem State.raiseMembers_inv {s : State} {x : Ctx} {ms : List Nat} (hs : s.Inv K W) :
    (State.raiseMembers s x ms).1.Inv K W := State.raiseMembers_inv1 hs

theorem State.deliverT_inv {s : State} {p t : Nat} (hs : s.Inv K W) :
    (State.deliverT s p t).Inv K W := by
  unfold State.deliverT
  simp (maxDischargeDepth := 100) +contextual only [inv_ite, ite_self, hs, State.setFs_inv, State.modPart_inv, State.openBeat0_inv]

theorem State.applyS_inv {s : State} {c tb : Nat} (hs : s.Inv K W) :
    (State.applyS s c tb).Inv K W := by
  unfold State.applyS
  simp (maxDischargeDepth := 100) +contextual only [inv_fst, inv_ite, ite_self, hs, State.setF_inv, State.setSctx_inv, State.deliverT_inv, State.raiseMembers_inv1]

theorem State.aggregate_inv {s : State} {c : Nat} (hs : s.Inv K W) :
    (State.aggregate s c).Inv K W := by
  unfold State.aggregate
  simp only [inv_ite, ite_self, hs, State.setSctx_inv, State.sendToken_inv, State.applyS_inv]

theorem State.readPages_inv1 {s : State} {sym : Syms} {z0 : List Nat} (hs : s.Inv K W) :
    Inv1 K W (State.readPages s sym z0) := by
  induction z0 generalizing s sym with
  | nil =>
    unfold State.readPages
    simp only [inv1_mk, hs]
  | cons a_ l_ ih =>
    unfold State.readPages
    repeat' first
      | (simp only [inv_fst, inv1_mk, hs, State.read_inv1]; done)
      | with_reducible apply ih
      | intro _
      | (rename_i heq; replace heq := congrArg Prod.fst heq; dsimp only at heq; subst heq)
      | split
      | with_reducible apply State.setCore_inv
    all_goals
      have h := Core.fits_init
      refine ⟨h.1, h.2, h.3, h.4, h.5, h.6, h.7, ?_⟩
      exact (State.Inv.core (State.read_inv hs) a_ (by assumption)).peep

theorem State.readPages_inv {s : State} {sym : Syms} {z0 : List Nat} (hs : s.Inv K W) :
    (State.readPages s sym z0).1.Inv K W := State.readPages_inv1 hs

theorem State.resetContexts_inv {s : State} {p start : Nat} (hs : s.Inv K W) :
    (State.resetContexts s p start).Inv K W := by
  unfold State.resetContexts
  repeat' first
    | (simp only [*, inv_ite, ite_self, State.setF_inv, State.setTctx_inv, State.setSctx_inv]; done)
    | with_reducible refine inv_foldl (fun _ _ _ => ?_) ?_
    | with_reducible apply State.setF_inv

theorem State.takeNumber_inv {s : State} {p : Nat} (hs : s.Inv K W) :
    (State.takeNumber s p).Inv K W := by
  unfold State.takeNumber
  simp only [inv_ite, ite_self, hs, State.modPart_inv, State.setPlan_inv]

theorem State.noStart_inv {s : State} {p : Nat} (hs : s.Inv K W) :
    (State.noStart s p).Inv K W := by
  unfold State.noStart
  simp (maxDischargeDepth := 100) +contextual only [hs, State.modPart_inv, State.stepDone_inv, State.takeNumber_inv]

theorem State.arrive_inv {s : State} {p : Nat} {sym : Syms} (hs : s.Inv K W) :
    (State.arrive s p sym).Inv K W := by
  unfold State.arrive
  split
  · exact hs
  split
  · exact State.noStart_inv (State.setF_inv hs)
  split
  · exact State.noStart_inv (State.recordS_inv hs)
  extract_lets s1 s2 s3
  have h3 : s3.Inv K W := State.resetContexts_inv (State.modPart_inv (State.takeNumber_inv hs))
  clear_value s3
  have hr := State.readPages_inv1 (sym := sym) (z0 := s3.members p) h3
  split
  · next heq =>
    rw [heq] at hr
    exact State.abortStep_inv hr
  · next s4 heq =>
    rw [heq] at hr
    extract_lets s5 s6 x no s7
    have h6 : s6.Inv K W := State.setF_inv (inv_foldl (fun _ _ h => State.fetchBlock_inv h) hr)
    split
    · exact State.abortStep_inv (State.recordS_inv h6)
    · exact State.aggregate_inv (State.setSctx_inv h6)

/-! ## Threshold -/

theorem State.land_inv {s : State} {k : Packet} {f : State → Nat → State} (hs : s.Inv K W) (hf : ∀ s c, s.Inv K W → (f s c).Inv K W) :
    (State.land s k f).Inv K W := by
  unfold State.land
  repeat' first
    | (simp only [*, inv_ite]; done)
    | split
    | with_reducible refine inv_foldl (fun _ _ _ => ?_) ?_

theorem execDataArrive_inv {losses : List (Nat × Nat)} {s : State} (hs : s.Inv K W) :
    Good K W (execDataArrive losses s) := by
  unfold execDataArrive
  repeat' first
    | (simp (maxDischargeDepth := 100) +contextual only [inv_mk, good_next, implies_true, hs, State.setSpad_inv, State.countLosses_inv, State.land_inv]; done)
    | split

theorem execLatchWriteArrive_inv {s : State} (hs : s.Inv K W) :
    Good K W (execLatchWriteArrive s) := by
  unfold execLatchWriteArrive
  repeat' first
    | (simp +contextual only [inv_mk, good_next, inv_ite, ite_self, implies_true, hs, State.addLatch_inv, State.land_inv]; done)
    | split

theorem State.completeT_inv {s : State} {c : Nat} (hs : s.Inv K W) :
    (State.completeT s c).Inv K W := by
  unfold State.completeT
  simp (maxDischargeDepth := 100) +contextual only [inv_fst, inv_ite, ite_self, hs, State.setF_inv, State.setTctx_inv, State.raiseMembers_inv1]

theorem execThresholdArrive_inv {s : State} (hs : s.Inv K W) :
    Good K W (execThresholdArrive s) := by
  unfold execThresholdArrive
  repeat' first
    | (simp only [inv_mk, good_next, good_ite, inv_ite, ite_self, hs, State.setTctx_inv, State.setSctx_inv, State.abortStep_inv, State.recordT_inv, State.recordS_inv, State.aggregate_inv, State.completeT_inv]; done)
    | split

theorem State.onToken_inv {s : State} {kind : Nat} {child : Bool} {f : State → Packet → State} (hs : s.Inv K W) (hf : ∀ s c, s.Inv K W → (f s c).Inv K W) :
    Good K W (State.onToken s kind child f) := by
  unfold State.onToken
  repeat' first
    | (simp only [inv_mk, good_next, good_ite, ite_self, hs, State.abortStep_inv, State.recordS_inv, hf]; done)
    | split

theorem execArriveToken_inv {s : State} (hs : s.Inv K W) :
    Good K W (execArriveToken s) := by
  unfold execArriveToken
  simp (maxDischargeDepth := 100) +contextual only [inv_ite, ite_self, implies_true, hs, State.setSctx_inv, State.aggregate_inv, State.onToken_inv]

theorem execCompleteToken_inv {s : State} (hs : s.Inv K W) :
    Good K W (execCompleteToken s) := by
  unfold execCompleteToken
  simp +contextual only [implies_true, hs, State.applyS_inv, State.onToken_inv]

/-! ## Beat -/

theorem State.closeBeat_inv {s : State} {p refWait : Nat} {losses : List (Nat × Nat)} (hs : s.Inv K W) :
    (State.closeBeat s p refWait losses).Inv K W := by
  unfold State.closeBeat
  simp (maxDischargeDepth := 100) +contextual only [inv_ite, ite_self, hs, State.addF_inv, State.vary_inv, State.countLosses_inv]

theorem execBeatOpen_inv {p refWait : Nat} {losses : List (Nat × Nat)} {s : State} (hs : s.Inv K W) (hw : p < 16) :
    Good K W (execBeatOpen p refWait losses s) := by
  unfold execBeatOpen
  repeat' first
    | (simp (maxDischargeDepth := 100) +contextual only [good_next, good_ite, ite_self, hs, State.endHold_inv, State.openBeat_inv, State.closeBeat_inv, hw]; done)
    | contradiction
    | split

theorem execHoldTimeout_inv {p : Nat} {s : State} (hs : s.Inv K W) (hw : p < 16) :
    Good K W (execHoldTimeout p s) := by
  unfold execHoldTimeout
  repeat' first
    | (simp only [good_next, good_ite, ite_self, hs, State.setF_inv, State.abortStep_inv, hw]; done)
    | contradiction
    | split

theorem State.writeProv_inv {s : State} {p : Nat} {q : Plan} (hs : s.Inv K W) :
    (State.writeProv s p q).Inv K W := by
  unfold State.writeProv
  repeat' first
    | (simp only [*, inv_ite, ite_self, State.writeQ_inv])
    | with_reducible refine inv_foldl (fun _ _ _ => ?_) ?_

theorem State.reportOvf_inv {s : State} {p : Nat} (hs : s.Inv K W) :
    (State.reportOvf s p).Inv K W := by
  unfold State.reportOvf
  repeat' first
    | (simp only [*, inv_ite, ite_self, State.logFree_inv])
    | with_reducible refine inv_foldl (fun _ _ _ => ?_) ?_

theorem State.completeStep_inv {s : State} {p refWait : Nat} {losses : List (Nat × Nat)} (hs : s.Inv K W) :
    (State.completeStep s p refWait losses).Inv K W := by
  unfold State.completeStep
  simp (maxDischargeDepth := 100) +contextual only [hs, State.modPart_inv, State.endHold_inv, State.firstStep_inv, State.stepDone_inv, State.closeBeat_inv, State.writeProv_inv, State.reportOvf_inv]

end Sys2Proof.Machine
end

