-- ==== Sys2Proof/Laws/InvMemory.lean ====
section
/-! SUPPORT. The commands of memory, DMA and Reed–Solomon keep the form of the state. -/

namespace Sys2Proof.Machine

variable {K : Prop} {W : List Instr}

/-! ## MemEvents -/

theorem State.windowAccess_inv {s : State} {n a off : Nat} {wr : Bool} {data : List Byte} (hs : s.Inv K W) :
    (State.windowAccess s n a off wr data).Inv K W := by
  unfold State.windowAccess
  simp only [inv_ite, ite_self, hs, State.memErr_inv, State.busError_inv, State.setSpad_inv]

theorem inv_unavail {s : State} {a} {b} (hs : s.Inv K W) : State.Inv K W { s with unavail := tset 0 s.unavail a b } := by
  refine ⟨hs.queue, fun k => { hs.canonical k with unavail := ?_ }, fun k => ⟨(hs.fits k).1, (hs.fits k).2, (hs.fits k).3, (hs.fits k).4⟩⟩
  dsimp only [tmod]
  exact canon_tset (d := fun _ => 0) (hs.canonical k).unavail

theorem inv_served {s : State} {n : Nat} (hs : s.Inv K W) : State.Inv K W { s with served := [], skewWin := n } :=
  ⟨hs.queue, fun k => { hs.canonical k with served := canon_nil _ }, fun k => ⟨(hs.fits k).1, (hs.fits k).2, (hs.fits k).3, (hs.fits k).4⟩⟩

theorem execMemAccess_inv {g : Nat} {wr : Bool} {off : Nat} {data : List Byte} {sym : Nat} {s : State} (hs : s.Inv K W) (hw : g < 2 ^ 42 ∧ off + data.length ≤ 64) :
    Good K W (execMemAccess g wr off data sym s) := by
  unfold execMemAccess
  repeat' first
    | contradiction
    | split
    | simp (maxDischargeDepth := 100) +contextual only [inv_fst, good_next, good_ite, hs, State.stir_inv, State.busError_inv, State.markAt_inv, State.windowAccess_inv, State.readGran_inv1, State.writePart_inv1]

theorem execHbmRefresh_inv {h : Nat} {s : State} (hs : s.Inv K W) (hw : h < 256) :
    Good K W (execHbmRefresh h s) := by
  unfold execHbmRefresh
  repeat' first
    | (simp only [good_next, good_ite, ite_self, hs, inv_unavail, hw]; done)
    | contradiction
    | split

theorem execCellarRefresh_inv {c : Nat} {s : State} (hs : s.Inv K W) (hw : c < 16) :
    Good K W (execCellarRefresh c s) := by
  unfold execCellarRefresh
  repeat' first
    | (simp only [good_next, good_ite, ite_self, hs, inv_unavail, hw]; done)
    | contradiction
    | split

theorem execHbmTempReport_inv {stack temp : Nat} {s : State} (hs : s.Inv K W) (hw : stack < 8 ∧ temp < 256) :
    Good K W (execHbmTempReport stack temp s) := by
  unfold execHbmTempReport
  repeat' first
    | (simp only [good_next, good_ite, and_self, hs, State.setF_inv, hw]; done)
    | contradiction
    | split

theorem State.scrubOn_inv {s : State} (hs : s.Inv K W) :
    (State.scrubOn s).Inv K W := by
  unfold State.scrubOn
  simp only [inv_mk, inv_ite, ite_self, hs, State.setF_inv]

theorem State.skewHit_inv {s : State} {first : Bool} {p tier ch ratio : Nat} (hs : s.Inv K W) :
    (State.skewHit s first p tier ch ratio).Inv K W := by
  unfold State.skewHit
  simp only [inv_ite, ite_self, hs, State.addF_inv, State.setFs_inv, State.logEvent_inv]

theorem execSkewWindow_inv {s : State} (hs : s.Inv K W) :
    Good K W (execSkewWindow s) := by
  unfold execSkewWindow
  split
  · exact good_next.2 hs
  · exact good_next.2 (inv_foldl (fun _ _ h => State.skewHit_inv h) (inv_served hs))

theorem State.writePhbm_inv {s : State} {p v : Nat} (hs : s.Inv K W) :
    (State.writePhbm s p v).Inv K W := by
  unfold State.writePhbm
  simp only [inv_ite, ite_self, hs, State.setFs_inv, State.rekey_inv]

theorem State.writePcel_inv {s : State} {p v : Nat} (hs : s.Inv K W) :
    (State.writePcel s p v).Inv K W := by
  unfold State.writePcel
  simp only [inv_ite, ite_self, hs, State.setFs_inv, State.rekey_inv]

theorem execMemPhbmWrite_inv {p : Nat} {v : Word64} {s : State} (hs : s.Inv K W) (hw : p < 16) :
    Good K W (execMemPhbmWrite p v s) := by
  unfold execMemPhbmWrite
  repeat' first
    | (simp only [good_next, good_ite, hs, State.writePhbm_inv, hw]; done)
    | contradiction
    | split

theorem execMemPcelWrite_inv {p : Nat} {v : Word64} {s : State} (hs : s.Inv K W) (hw : p < 16) :
    Good K W (execMemPcelWrite p v s) := by
  unfold execMemPcelWrite
  repeat' first
    | (simp only [good_next, good_ite, hs, State.writePcel_inv, hw]; done)
    | contradiction
    | split

theorem State.serveReq_inv1 {s : State} {k : Packet} {sym : Syms} (hs : s.Inv K W) :
    Inv1 K W (State.serveReq s k sym) := by
  unfold State.serveReq
  repeat' first
    | (rename_i heq; replace heq := congrArg Prod.fst heq; dsimp only at heq; subst heq)
    | split
    | simp only [inv_fst, inv1_mk, inv1_ite, hs, State.markUnplanned_inv, State.rangeRefused_inv, State.read_inv1, State.write_inv1]

theorem State.serveReq_inv {s : State} {k : Packet} {sym : Syms} (hs : s.Inv K W) :
    (State.serveReq s k sym).1.Inv K W := State.serveReq_inv1 hs

theorem execMemRequest_inv {sym : Syms} {s : State} (hs : s.Inv K W) :
    Good K W (execMemRequest sym s) := by
  unfold execMemRequest
  repeat' first
    | (simp only [inv_mk, inv_fst, good_next, good_ite, ite_self, hs, State.stir_inv, State.inject_inv, State.serveReq_inv1]; done)
    | split

/-! ## Dma -/

theorem State.setChan_inv {s : State} {i : Nat} {c : Chan} (hs : s.Inv K W) :
    (State.setChan s i c).Inv K W := by
  exact ⟨hs.queue, fun k => { hs.canonical k with dma := canon_tset (d := fun _ => _) (hs.canonical k).dma },
    fun k => ⟨(hs.fits k).1, (hs.fits k).2, (hs.fits k).3, (hs.fits k).4⟩⟩

theorem State.dmaBusy_inv {s : State} {i : Nat} (hs : s.Inv K W) :
    (State.dmaBusy s i).Inv K W := by
  unfold State.dmaBusy
  simp (maxDischargeDepth := 100) +contextual only [hs, State.setF_inv]

theorem State.dmaRead_inv1 {s : State} {p a n : Nat} {sym : Syms} (hs : s.Inv K W) :
    Inv1 K W (State.dmaRead s p a n sym) := by
  unfold State.dmaRead
  repeat' first
    | (simp only [inv_ite, inv1_mk, inv1_ite, ite_self, hs, State.markUnplanned_inv, State.rangeRefused_inv, State.read_inv1])
    | split

theorem State.dmaRead_inv {s : State} {p a n : Nat} {sym : Syms} (hs : s.Inv K W) :
    (State.dmaRead s p a n sym).1.Inv K W := State.dmaRead_inv1 hs

theorem State.dmaWrite_inv1 {s : State} {p a : Nat} {sym : Syms} {bs : List Byte} (hs : s.Inv K W) :
    Inv1 K W (State.dmaWrite s p a sym bs) := by
  unfold State.dmaWrite
  repeat' first
    | (simp only [inv_ite, inv1_mk, inv1_ite, ite_self, hs, State.markUnplanned_inv, State.rangeRefused_inv, State.setSpad_inv, State.write_inv1])
    | split

theorem State.dmaWrite_inv {s : State} {p a : Nat} {sym : Syms} {bs : List Byte} (hs : s.Inv K W) :
    (State.dmaWrite s p a sym bs).1.Inv K W := State.dmaWrite_inv1 hs

theorem State.descRefused_inv {s : State} {i : Nat} {b : List Byte} (hs : s.Inv K W) :
    (State.descRefused s i b).Inv K W := by
  unfold State.descRefused
  simp only [inv_ite, ite_self, hs, State.rangeRefused_inv]

theorem execDmaDoorbell_inv {jamb c : Nat} {v : Word64} {s : State} (hs : s.Inv K W) (hw : jamb < 2 ∧ c < 32) :
    Good K W (execDmaDoorbell jamb c v s) := by
  unfold execDmaDoorbell
  repeat' first
    | (simp (maxDischargeDepth := 100) +contextual only [good_next, good_ite, ite_self, and_self, hs, State.setF_inv, State.stir_inv, State.dmaBusy_inv, hw]; done)
    | contradiction
    | split

theorem execDescriptorFetch_inv {jamb c : Nat} {sym : Syms} {s : State} (hs : s.Inv K W) (hw : jamb < 2 ∧ c < 32) :
    Good K W (execDescriptorFetch jamb c sym s) := by
  unfold execDescriptorFetch
  repeat' first
    | contradiction
    | (rename_i heq; replace heq := congrArg Prod.fst heq; dsimp only at heq; subst heq)
    | split
    | simp (maxDischargeDepth := 100) +contextual only [inv_fst, good_next, good_ite, hs, State.setF_inv, State.markAt_inv, State.logFree_inv, State.setChan_inv, State.dmaBusy_inv, State.descRefused_inv, State.read_inv1]

theorem State.setDesc_inv {s : State} {i j : Nat} {d : DmaDesc} (hs : s.Inv K W) :
    (State.setDesc s i j d).Inv K W := by
  unfold State.setDesc
  simp only [hs, State.setChan_inv, State.dmaBusy_inv]

theorem State.dmaSend_inv {s : State} {i slot ptype node a rlen : Nat} {body : List Byte} (hs : s.Inv K W) :
    (State.dmaSend s i slot ptype node a rlen body).Inv K W := by
  unfold State.dmaSend
  simp only [inv_fst, hs, State.inject_inv, State.newTag_inv1]

theorem State.moved_inv {s : State} {i j : Nat} {d : DmaDesc} {n : Nat} (hs : s.Inv K W) :
    (State.moved s i j d n).Inv K W := by
  unfold State.moved
  repeat' first
    | split
    | simp only [inv_ite, hs, State.setDesc_inv, State.dmaSend_inv]

theorem State.failDesc_inv {s : State} {i j : Nat} {d : DmaDesc} {status : Nat} (hs : s.Inv K W) :
    (State.failDesc s i j d status).Inv K W := by
  unfold State.failDesc
  simp only [hs, State.setDesc_inv]

theorem State.putPiece_inv {s : State} {i j : Nat} {d : DmaDesc} {sym : Syms} {bs : List Byte} {hostOk : Bool} (hs : s.Inv K W) :
    (State.putPiece s i j d sym bs hostOk).Inv K W := by
  unfold State.putPiece
  repeat' first
    | (simp only [inv_mk, inv_fst, inv_ite, ite_self, hs, State.setDesc_inv, State.dmaSend_inv, State.rangeRefused_inv, State.moved_inv, State.failDesc_inv, State.dmaWrite_inv1])
    | (rename_i heq; replace heq := congrArg Prod.fst heq; dsimp only at heq; subst heq)
    | split

theorem State.bouncePiece_inv {s : State} {i j : Nat} {d : DmaDesc} {sym : Syms} {h : HostData} (hs : s.Inv K W) :
    (State.bouncePiece s i j d sym h).Inv K W := by
  unfold State.bouncePiece
  repeat' first
    | (rename_i heq; replace heq := congrArg Prod.fst heq; dsimp only at heq; subst heq)
    | split
    | simp (maxDischargeDepth := 100) +contextual only [inv_mk, inv_fst, hs, State.moved_inv, State.failDesc_inv, State.putPiece_inv, State.bounceIn_inv1, State.bounceOut_inv1, State.dmaRead_inv1]

theorem execDmaPiece_inv {jamb c j : Nat} {sym : Syms} {host : HostData} {s : State} (hs : s.Inv K W) (hw : jamb < 2 ∧ c < 32) :
    Good K W (execDmaPiece jamb c j sym host s) := by
  unfold execDmaPiece
  repeat' first
    | contradiction
    | (rename_i heq; replace heq := congrArg Prod.fst heq; dsimp only at heq; subst heq)
    | split
    | simp only [inv_fst, good_next, hs, State.setDesc_inv, State.dmaSend_inv, State.rangeRefused_inv, State.failDesc_inv, State.putPiece_inv, State.bouncePiece_inv, State.dmaRead_inv1]

theorem State.settle_inv {s : State} {i : Nat} (hs : s.Inv K W) :
    (State.settle s i).Inv K W := by
  unfold State.settle
  simp only [inv_ite, ite_self, hs, State.setChan_inv, State.dmaBusy_inv]

theorem State.dmaAnswer_inv {s : State} {i slot status : Nat} {data : List Byte} (hs : s.Inv K W) :
    (State.dmaAnswer s i slot status data).Inv K W := by
  unfold State.dmaAnswer
  repeat' first
    | (simp only [inv_ite, ite_self, hs, State.setDesc_inv, State.dmaSend_inv, State.moved_inv, State.failDesc_inv, State.putPiece_inv]; done)
    | split

theorem State.dmaRespond_inv {s : State} {i slot status : Nat} {data : List Byte} (hs : s.Inv K W) :
    (State.dmaRespond s i slot status data).Inv K W := by
  unfold State.dmaRespond
  simp only [hs, State.settle_inv, State.dmaAnswer_inv]

theorem State.readBack_inv1 {s : State} {i : Nat} {d : DmaDesc} {sym : Syms} {hostOk : Bool} (hs : s.Inv K W) :
    Inv1 K W (State.readBack s i d sym hostOk) := by
  unfold State.readBack
  repeat' first
    | (simp only [inv_fst, inv1_mk, hs, State.dmaRead_inv1]; done)
    | (rename_i heq; replace heq := congrArg Prod.fst heq; dsimp only at heq; subst heq)
    | split

theorem State.readBack_inv {s : State} {i : Nat} {d : DmaDesc} {sym : Syms} {hostOk : Bool} (hs : s.Inv K W) :
    (State.readBack s i d sym hostOk).1.Inv K W := State.readBack_inv1 hs

theorem State.finalStatus_inv1 {s : State} {i : Nat} {d : DmaDesc} {sym : Syms} {hostOk : Bool} (hs : s.Inv K W) :
    Inv1 K W (State.finalStatus s i d sym hostOk) := by
  unfold State.finalStatus
  repeat' first
    | (simp only [inv_fst, inv1_mk, inv1_ite, hs, State.readBack_inv1]; done)
    | (rename_i heq; replace heq := congrArg Prod.fst heq; dsimp only at heq; subst heq)
    | split

theorem State.finalStatus_inv {s : State} {i : Nat} {d : DmaDesc} {sym : Syms} {hostOk : Bool} (hs : s.Inv K W) :
    (State.finalStatus s i d sym hostOk).1.Inv K W := State.finalStatus_inv1 hs

theorem State.notify_inv {s : State} {p : Nat} (hs : s.Inv K W) :
    (State.notify s p).Inv K W := by
  unfold State.notify
  simp only [inv_mk, inv_fst, hs, State.takeFree_inv1]

theorem State.retire_inv {s : State} {i : Nat} {d : DmaDesc} (hs : s.Inv K W) :
    (State.retire s i d).Inv K W := by
  unfold State.retire
  simp (maxDischargeDepth := 100) +contextual only [inv_ite, and_true, ite_self, and_self, hs, State.setF_inv, State.addF_inv, State.latchWrite_inv, State.setChan_inv, State.dmaBusy_inv, State.notify_inv]

theorem State.writeSlot_inv1 {s : State} {a : Nat} {bs : List Byte} (hs : s.Inv K W) :
    Inv1 K W (State.writeSlot s a bs) := by
  unfold State.writeSlot
  simp only [inv1_mk, inv1_ite, ite_self, hs, State.poisonAs_inv, State.markAt_inv, State.write_inv1]

theorem State.writeSlot_inv {s : State} {a : Nat} {bs : List Byte} (hs : s.Inv K W) :
    (State.writeSlot s a bs).1.Inv K W := State.writeSlot_inv1 hs

theorem State.writeBack_inv {s : State} {i : Nat} {d : DmaDesc} (hs : s.Inv K W) :
    (State.writeBack s i d).Inv K W := by
  unfold State.writeBack
  repeat' first
    | (simp (maxDischargeDepth := 100) +contextual only [inv_fst, hs, State.setF_inv, State.logFree_inv, State.setChan_inv, State.setDesc_inv, State.retire_inv, State.writeSlot_inv1]; done)
    | (rename_i heq; replace heq := congrArg Prod.fst heq; dsimp only at heq; subst heq)
    | split

theorem execDescriptorComplete_inv {jamb c : Nat} {sym : Syms} {hostOk : Bool} {s : State} (hs : s.Inv K W) (hw : jamb < 2 ∧ c < 32) :
    Good K W (execDescriptorComplete jamb c sym hostOk s) := by
  unfold execDescriptorComplete
  repeat' first
    | contradiction
    | (rename_i heq; replace heq := congrArg Prod.fst heq; dsimp only at heq; subst heq)
    | split
    | simp (maxDischargeDepth := 100) +contextual only [inv_fst, good_next, hs, State.addFlaws_inv, State.writeBack_inv, State.finalStatus_inv1]

theorem State.dropTags_inv {s : State} {i slot : Nat} (hs : s.Inv K W) :
    (State.dropTags s i slot).Inv K W := by
  unfold State.dropTags
  simp only [inv_mk, hs]

theorem execDmaTimeout_inv {jamb c j : Nat} {s : State} (hs : s.Inv K W) (hw : jamb < 2 ∧ c < 32) :
    Good K W (execDmaTimeout jamb c j s) := by
  unfold execDmaTimeout
  repeat' first
    | contradiction
    | split
    | simp only [good_next, hs, State.setDesc_inv, State.dropTags_inv]

theorem State.stopChan_inv {s : State} {i : Nat} (hs : s.Inv K W) :
    (State.stopChan s i).Inv K W := by
  unfold State.stopChan
  simp (maxDischargeDepth := 100) +contextual only [inv_ite, ite_self, hs, State.setF_inv, State.setChan_inv, State.dmaBusy_inv, State.settle_inv]

theorem execDmaStop_inv {jamb c : Nat} {v : Word64} {s : State} (hs : s.Inv K W) (hw : jamb < 2 ∧ c < 32) :
    Good K W (execDmaStop jamb c v s) := by
  unfold execDmaStop
  repeat' first
    | (simp only [good_next, good_ite, ite_self, and_self, hs, State.stopChan_inv, hw]; done)
    | contradiction
    | split

theorem State.resumeChan_inv {s : State} {i : Nat} (hs : s.Inv K W) :
    (State.resumeChan s i).Inv K W := by
  unfold State.resumeChan
  repeat' first
    | split
    | simp (maxDischargeDepth := 100) only [hs, State.setFs_inv, State.setChan_inv, State.writeBack_inv]

theorem execDmaResume_inv {jamb c : Nat} {v : Word64} {s : State} (hs : s.Inv K W) (hw : jamb < 2 ∧ c < 32) :
    Good K W (execDmaResume jamb c v s) := by
  unfold execDmaResume
  repeat' first
    | (simp only [good_next, good_ite, ite_self, and_self, hs, State.resumeChan_inv, hw]; done)
    | contradiction
    | split

/-! ## Rs -/

theorem State.lockBits_inv {s : State} (hs : s.Inv K W) :
    (State.lockBits s).Inv K W := by
  unfold State.lockBits
  simp only [hs, State.setF_inv]

theorem State.takeLocks_inv {s : State} {code : Nat} {rs : List Nat} (hs : s.Inv K W) :
    (State.takeLocks s code rs).Inv K W := by
  unfold State.takeLocks
  simp only [inv_mk, hs, State.lockBits_inv]

theorem State.dropLocks_inv {s : State} {code : Nat} {rs : List Nat} (hs : s.Inv K W) :
    (State.dropLocks s code rs).Inv K W := by
  unfold State.dropLocks
  simp only [inv_mk, hs, State.lockBits_inv]

theorem State.setJob_inv {s : State} {i : Nat} {j : RsJob} (hs : s.Inv K W) :
    (State.setJob s i j).Inv K W := by
  exact ⟨hs.queue, fun k => { hs.canonical k with rs := canon_tset (d := fun _ => _) (hs.canonical k).rs },
    fun k => ⟨(hs.fits k).1, (hs.fits k).2, (hs.fits k).3, (hs.fits k).4⟩⟩

theorem State.rsBusy_inv {s : State} {i : Nat} (hs : s.Inv K W) :
    (State.rsBusy s i).Inv K W := by
  unfold State.rsBusy
  simp only [hs, State.setF_inv]

theorem execRsDoorbell_inv {jamb p : Nat} {v : Word64} {s : State} (hs : s.Inv K W) (hw : jamb < 2 ∧ p < 16) :
    Good K W (execRsDoorbell jamb p v s) := by
  unfold execRsDoorbell
  repeat' first
    | (simp (maxDischargeDepth := 100) +contextual only [good_next, good_ite, ite_self, and_self, hs, State.setF_inv, State.stir_inv, State.rsBusy_inv, hw]; done)
    | contradiction
    | split

theorem State.setLockQ_inv {s : State} {l : List (Nat × Nat)} (hs : s.Inv K W) :
    (State.setLockQ s l).Inv K W := by
  unfold State.setLockQ
  simp only [inv_mk, hs, State.setF_inv]

theorem State.askLock_inv {s : State} {code x : Nat} (hs : s.Inv K W) :
    (State.askLock s code x).Inv K W := by
  unfold State.askLock
  simp only [inv_ite, ite_self, hs, State.addF_inv, State.setLockQ_inv]

theorem State.leaveQ_inv {s : State} {code x : Nat} (hs : s.Inv K W) :
    (State.leaveQ s code x).Inv K W := by
  unfold State.leaveQ
  simp only [inv_ite, ite_self, hs, State.setLockQ_inv]

theorem State.grantLock_inv {s : State} {code x : Nat} (hs : s.Inv K W) :
    (State.grantLock s code x).Inv K W := by
  unfold State.grantLock
  simp only [hs, State.takeLocks_inv, State.leaveQ_inv]

theorem State.fetchJob_inv {s : State} {i kind : Nat} {sym : Syms} (hs : s.Inv K W) :
    (State.fetchJob s i kind sym).Inv K W := by
  unfold State.fetchJob
  repeat' first
    | (rename_i heq; replace heq := congrArg Prod.fst heq; dsimp only at heq; subst heq)
    | split
    | simp (maxDischargeDepth := 100) +contextual only [inv_fst, hs, State.setF_inv, State.markAt_inv, State.logFree_inv, State.setJob_inv, State.rsBusy_inv, State.askLock_inv, State.grantLock_inv, State.read_inv1, State.dmaRead_inv1]

theorem State.rsSend_inv {s : State} {i shard ptype node a rlen : Nat} {body : List Byte} (hs : s.Inv K W) :
    (State.rsSend s i shard ptype node a rlen body).Inv K W := by
  unfold State.rsSend
  simp (maxDischargeDepth := 100) +contextual only [inv_fst, hs, State.inject_inv, State.setJob_inv, State.newTag_inv1]

theorem State.failJob_inv {s : State} {i status : Nat} (hs : s.Inv K W) :
    (State.failJob s i status).Inv K W := by
  unfold State.failJob
  simp only [hs, State.setJob_inv]

theorem State.rsRead_inv {s : State} {i off : Nat} {sym : Syms} {code : Nat} {z0 : List Nat} (hs : s.Inv K W) :
    (State.rsRead s i off sym code z0).Inv K W := by
  induction z0 generalizing s i off sym code with
  | nil =>
    unfold State.rsRead
    repeat' first
      | assumption
  | cons a_ l_ ih =>
    unfold State.rsRead
    repeat' first
      | (rename_i heq; replace heq := congrArg Prod.fst heq; dsimp only at heq; subst heq)
      | split
      | simp (maxDischargeDepth := 100) +contextual only [inv_fst, inv_ite, hs, State.setJob_inv, State.rsSend_inv, State.failJob_inv, State.dmaRead_inv1, ih]

theorem State.rsWrite_inv {s : State} {i : Nat} {sym : Syms} {z0 : List Nat} (hs : s.Inv K W) :
    (State.rsWrite s i sym z0).Inv K W := by
  induction z0 generalizing s i with
  | nil =>
    unfold State.rsWrite
    repeat' first
      | assumption
  | cons a_ l_ ih =>
    unfold State.rsWrite
    repeat' first
      | (rename_i heq; replace heq := congrArg Prod.fst heq; dsimp only at heq; subst heq)
      | split
      | simp only [inv_fst, inv_ite, hs, State.rsSend_inv, State.failJob_inv, State.dmaWrite_inv1, ih]

theorem State.rsPhase_inv {s : State} {i phase : Nat} (hs : s.Inv K W) :
    (State.rsPhase s i phase).Inv K W := by
  unfold State.rsPhase
  simp only [hs, State.setJob_inv]

theorem State.rsTimeout_inv {s : State} {i : Nat} (hs : s.Inv K W) :
    (State.rsTimeout s i).Inv K W := by
  unfold State.rsTimeout
  simp only [inv_mk, inv_ite, ite_self, hs, State.failJob_inv]

theorem State.rsRun_inv {s : State} {i : Nat} {sym : Syms} (hs : s.Inv K W) :
    (State.rsRun s i sym).Inv K W := by
  unfold State.rsRun
  extract_lets s0 b s1 s2 s3 j s4 s5
  have h0 : State.Inv K W s0 := State.rsTimeout_inv hs
  clear_value s0
  have h1 : State.Inv K W s1 := by
    dsimp only [s1]
    split
    · exact State.rsPhase_inv (State.grantLock_inv h0)
    · exact h0
  clear_value s1
  have h2 : State.Inv K W s2 := by
    dsimp only [s2]
    split
    · exact State.rsRead_inv (State.rsPhase_inv h1)
    · exact h1
  clear_value s2
  have h3 : State.Inv K W s3 := by
    dsimp only [s3]
    split
    · exact State.rsWrite_inv (State.rsPhase_inv h2)
    · exact h2
  clear_value s3
  have h4 : State.Inv K W s4 := State.setJob_inv h3
  clear_value s4
  have h5 : State.Inv K W s5 := by
    dsimp only [s5]
    split
    · split
      · exact State.rsRead_inv h4
      · exact h4
    · exact h3
  clear_value s5
  split
  · exact State.rsPhase_inv h5
  · exact h5

theorem State.rsRespond_inv {s : State} {i sh status : Nat} {data : List Byte} (hs : s.Inv K W) :
    (State.rsRespond s i sh status data).Inv K W := by
  unfold State.rsRespond
  simp only [inv_ite, ite_self, hs, State.setJob_inv, State.failJob_inv]

theorem execEncode_inv {jamb p : Nat} {sym : Syms} {s : State} (hs : s.Inv K W) (hw : jamb < 2 ∧ p < 16) :
    Good K W (execEncode jamb p sym s) := by
  unfold execEncode
  repeat' first
    | (simp only [good_next, good_ite, ite_self, and_self, hs, State.fetchJob_inv, State.rsRun_inv, hw]; done)
    | contradiction
    | split

theorem execRebuild_inv {jamb p : Nat} {sym : Syms} {s : State} (hs : s.Inv K W) (hw : jamb < 2 ∧ p < 16) :
    Good K W (execRebuild jamb p sym s) := by
  unfold execRebuild
  repeat' first
    | (simp only [good_next, good_ite, ite_self, and_self, hs, State.fetchJob_inv, State.rsRun_inv, hw]; done)
    | contradiction
    | split

theorem execRsJobComplete_inv {jamb p : Nat} {s : State} (hs : s.Inv K W) (hw : jamb < 2 ∧ p < 16) :
    Good K W (execRsJobComplete jamb p s) := by
  unfold execRsJobComplete
  split
  · contradiction
  extract_lets i j st img
  split
  · exact good_next.2 hs
  have hwr := State.write_inv1 (a := s.jobSlot i) (sym := []) (bs := img) (State.markAt_inv (a := s.jobSlot i) hs)
  split
  · rename_i s1 _ heq
    rw [heq] at hwr
    exact good_next.2 (State.logFree_inv (State.setF_inv hwr))
  · rename_i s0 _ heq
    rw [heq] at hwr
    extract_lets s1 s2 s3 s4 s5
    have h0 : s0.Inv K W := hwr
    have hs1 : State.Inv K W s1 := by simp only [s1, inv_ite, ite_self, State.latchWrite_inv, h0]
    clear_value s1
    have hs2 : State.Inv K W s2 := by simp only [s2, inv_ite, ite_self, State.notify_inv, hs1]
    clear_value s2
    have hs3 : State.Inv K W s3 := State.setF_inv hs2
    clear_value s3
    have hs4 : State.Inv K W s4 := by simp only [s4, inv_ite, ite_self, State.dropLocks_inv, hs3]
    clear_value s4
    have hs5 : State.Inv K W s5 := by simp only [s5, inv_ite, ite_self, State.addF_inv, State.logEvent_inv, hs4]
    clear_value s5
    simp only [good_next, State.setJob_inv, State.rsBusy_inv, hs5]

end Sys2Proof.Machine
end

