-- ==== Sys2Proof/Laws/InvPorts.lean ====
section
/-! SUPPORT. The commands of panes, time, ports, links, routing and recovery keep the form of the state. -/

namespace Sys2Proof.Machine

variable {K : Prop} {W : List Instr}

/-! ## PortOps -/

theorem State.setPort_inv {s : State} {q : Nat} {x : Port} (hs : s.Inv K W) :
    (State.setPort s q x).Inv K W := by
  exact ⟨hs.queue, fun k => { hs.canonical k with ports := canon_tset (d := fun _ => _) (hs.canonical k).ports },
    fun k => ⟨(hs.fits k).1, (hs.fits k).2, (hs.fits k).3, (hs.fits k).4⟩⟩

theorem State.modPort_inv {s : State} {q : Nat} {f : Port → Port} (hs : s.Inv K W) :
    (State.modPort s q f).Inv K W := by
  unfold State.modPort
  simp only [hs, State.setPort_inv]

theorem State.varyPort_inv {s : State} {cause q : Nat} (hs : s.Inv K W) :
    (State.varyPort s cause q).Inv K W := by
  unfold State.varyPort
  repeat' first
    | (simp only [hs, State.addF_inv, State.vary_inv])
    | split

theorem State.crossHinge_inv {s : State} {j v : Nat} (hs : s.Inv K W) :
    (State.crossHinge s j v).Inv K W := by
  unfold State.crossHinge
  repeat' first
    | (simp only [inv_mk, inv_ite, ite_self, hs]; done)
    | split

theorem State.crossAll_inv {s : State} {z0 : Nat} (hs : s.Inv K W) :
    (State.crossAll s z0).Inv K W := by
  induction z0 generalizing s with
  | zero => exact hs
  | succ n_ ih =>
    unfold State.crossAll
    extract_lets s1 t
    have h1 : s1.Inv K W := inv_mk.2 hs
    clear_value s1
    have ht : t.Inv K W := inv_foldl (fun _ _ h => State.crossHinge_inv h) h1
    clear_value t
    split
    · exact h1
    · exact ih ht

theorem State.moveWorms_inv {s : State} (hs : s.Inv K W) :
    (State.moveWorms s).Inv K W := by
  unfold State.moveWorms
  exact inv_mk.2 (State.addF_inv (State.crossAll_inv hs))

theorem State.refreshPool_inv {s : State} {j : Nat} (hs : s.Inv K W) :
    (State.refreshPool s j).Inv K W := by
  unfold State.refreshPool
  simp only [hs, State.setFs_inv]

theorem State.refreshPort_inv {s : State} {q : Nat} (hs : s.Inv K W) :
    (State.refreshPort s q).Inv K W := by
  unfold State.refreshPort
  simp (maxDischargeDepth := 100) +contextual only [hs, State.addF_inv, State.setFs_inv, State.refreshPool_inv]

theorem State.passOn_inv {s : State} (hs : s.Inv K W) :
    (State.passOn s).Inv K W := by
  unfold State.passOn
  exact State.refreshPool_inv (State.refreshPool_inv (inv_foldl (fun _ _ h => State.refreshPort_inv h) (State.moveWorms_inv hs)))

theorem State.abortDiscard_inv {s : State} {z0 : List Nat} (hs : s.Inv K W) :
    (State.abortDiscard s z0).Inv K W := by
  induction z0 generalizing s with
  | nil =>
    unfold State.abortDiscard
    repeat' first
      | assumption
  | cons a_ l_ ih =>
    unfold State.abortDiscard
    simp only [hs, State.abortStep_inv, ih]

theorem State.countDropped_inv {s : State} {q n : Nat} (hs : s.Inv K W) :
    (State.countDropped s q n).Inv K W := by
  unfold State.countDropped
  simp only [hs, State.addF_inv]

theorem State.discardPort_inv {s : State} {q : Nat} (hs : s.Inv K W) :
    (State.discardPort s q).Inv K W := by
  unfold State.discardPort
  simp (maxDischargeDepth := 100) +contextual only [inv_mk, hs, State.setF_inv, State.setPort_inv, State.refreshPort_inv, State.passOn_inv, State.abortDiscard_inv, State.countDropped_inv]

theorem State.toBackup_inv {s : State} (hs : s.Inv K W) :
    (State.toBackup s).Inv K W := by
  unfold State.toBackup
  simp only [inv_ite, ite_self, hs, State.setF_inv]

theorem State.setPstate_inv {s : State} {q st : Nat} (hs : s.Inv K W) :
    (State.setPstate s q st).Inv K W := by
  unfold State.setPstate
  simp (maxDischargeDepth := 100) +contextual only [inv_ite, ite_self, hs, State.setF_inv, State.dropLocks_inv, State.modPort_inv]

theorem State.wakePort_inv {s : State} {q : Nat} (hs : s.Inv K W) :
    (State.wakePort s q).Inv K W := by
  unfold State.wakePort
  simp (maxDischargeDepth := 100) +contextual only [hs, State.stir_inv, State.modPort_inv, State.setPstate_inv]

theorem State.wakeBy_inv {s : State} {q p vc : Nat} (hs : s.Inv K W) :
    (State.wakeBy s q p vc).Inv K W := by
  unfold State.wakeBy
  simp only [inv_ite, ite_self, hs, State.varyPort_inv, State.wakePort_inv]

theorem State.enterSleep_inv {s : State} {q st : Nat} (hs : s.Inv K W) :
    (State.enterSleep s q st).Inv K W := by
  unfold State.enterSleep
  repeat' first
    | split
    | simp (maxDischargeDepth := 100) +contextual only [hs, State.setFs_inv, State.modPort_inv, State.toBackup_inv, State.setPstate_inv, State.wakeBy_inv]

theorem State.goDown_inv {s : State} {q cause : Nat} (hs : s.Inv K W) :
    (State.goDown s q cause).Inv K W := by
  unfold State.goDown
  simp (maxDischargeDepth := 100) +contextual only [inv_ite, ite_self, hs, State.setF_inv, State.setFs_inv, State.logEvent_inv, State.modPort_inv, State.discardPort_inv, State.setPstate_inv]

theorem State.detect_inv {s : State} {q cause : Nat} (hs : s.Inv K W) :
    (State.detect s q cause).Inv K W := by
  unfold State.detect
  simp (maxDischargeDepth := 100) +contextual only [inv_ite, ite_self, hs, State.setF_inv, State.setFs_inv, State.modPort_inv, State.setPstate_inv]

theorem State.train_inv {s : State} {q cause : Nat} (hs : s.Inv K W) :
    (State.train s q cause).Inv K W := by
  unfold State.train
  simp (maxDischargeDepth := 100) +contextual only [inv_ite, ite_self, hs, State.addF_inv, State.modPort_inv, State.detect_inv]

theorem State.failAttempt_inv {s : State} {q cause : Nat} (hs : s.Inv K W) :
    (State.failAttempt s q cause).Inv K W := by
  unfold State.failAttempt
  simp only [inv_ite, ite_self, hs, State.modPort_inv, State.goDown_inv, State.detect_inv]

theorem State.openBranch_inv1 {s : State} {k : Packet} {q v : Nat} (hs : s.Inv K W) :
    Inv1 K W (State.openBranch s k q v) := by
  unfold State.openBranch
  simp only [inv_ite, inv1_mk, inv1_ite, ite_self, hs, State.abortStep_inv, State.countDropped_inv, State.wakeBy_inv]

theorem State.openBranch_inv {s : State} {k : Packet} {q v : Nat} (hs : s.Inv K W) :
    (State.openBranch s k q v).1.Inv K W := State.openBranch_inv1 hs

theorem State.portPut_inv {s : State} {q : Nat} {k : Packet} (hs : s.Inv K W) :
    (State.portPut s q k).Inv K W := by
  unfold State.portPut
  simp only [inv_mk, inv_fst, inv_ite, ite_self, hs, State.passOn_inv, State.openBranch_inv1]

theorem State.startReplay_inv {s : State} {q n : Nat} (hs : s.Inv K W) :
    (State.startReplay s q n).Inv K W := by
  unfold State.startReplay
  simp (maxDischargeDepth := 100) +contextual only [inv_ite, ite_self, hs, State.setF_inv, State.addF_inv, State.setPort_inv, State.varyPort_inv, State.train_inv]

theorem State.ackTo_inv {s : State} {q a : Nat} (hs : s.Inv K W) :
    (State.ackTo s q a).Inv K W := by
  unfold State.ackTo
  simp (maxDischargeDepth := 100) +contextual only [inv_ite, ite_self, hs, State.setF_inv, State.setPort_inv]

theorem State.resumeReplay_inv {s : State} {q : Nat} (hs : s.Inv K W) :
    (State.resumeReplay s q).Inv K W := by
  unfold State.resumeReplay
  repeat' first
    | split
    | simp (maxDischargeDepth := 100) +contextual only [hs, State.addF_inv, State.setPort_inv, State.varyPort_inv]

theorem State.lastNs_inv {s : State} {q : Nat} (hs : s.Inv K W) :
    (State.lastNs s q).Inv K W := by
  unfold State.lastNs
  simp only [inv_ite, ite_self, hs, State.setF_inv]

theorem State.enterUp_inv {s : State} {q : Nat} (hs : s.Inv K W) :
    (State.enterUp s q).Inv K W := by
  unfold State.enterUp
  simp (maxDischargeDepth := 100) +contextual only [inv_ite, ite_self, hs, State.setF_inv, State.setFs_inv, State.modPort_inv, State.refreshPort_inv, State.discardPort_inv, State.setPstate_inv, State.ackTo_inv, State.resumeReplay_inv, State.lastNs_inv]

theorem State.enterMgmt_inv {s : State} {q cause : Nat} (hs : s.Inv K W) :
    (State.enterMgmt s q cause).Inv K W := by
  unfold State.enterMgmt
  exact State.logEvent_inv (State.discardPort_inv (State.modPort_inv (State.setF_inv (State.setPstate_inv (State.lastNs_inv hs)))))

/-! ## Panes -/

theorem State.setPane_inv {s : State} {q : Nat} {x : PaneS} (hs : s.Inv K W) :
    (State.setPane s q x).Inv K W := by
  exact ⟨hs.queue, fun k => { hs.canonical k with panes := canon_tset (d := fun _ => _) (hs.canonical k).panes },
    fun k => ⟨(hs.fits k).1, (hs.fits k).2, (hs.fits k).3, (hs.fits k).4⟩⟩

theorem State.unpend_inv {s : State} {q : Nat} (hs : s.Inv K W) :
    (State.unpend s q).Inv K W := by
  unfold State.unpend
  simp only [hs, State.setF_inv, State.leaveQ_inv]

theorem State.pendPane_inv {s : State} {q : Nat} (hs : s.Inv K W) :
    (State.pendPane s q).Inv K W := by
  unfold State.pendPane
  simp only [inv_ite, ite_self, hs, State.setF_inv, State.unpend_inv]

theorem State.requestPane_inv {s : State} {q f : Nat} (hs : s.Inv K W) :
    (State.requestPane s q f).Inv K W := by
  unfold State.requestPane
  simp only [inv_ite, ite_self, hs, State.setF_inv, State.pendPane_inv]

theorem execPaneFreqRequest_inv {q : Nat} {v : Word64} {s : State} (hs : s.Inv K W) (hw : q < 32) :
    Good K W (execPaneFreqRequest q v s) := by
  unfold execPaneFreqRequest
  repeat' first
    | (simp only [good_next, good_ite, hs, State.requestPane_inv, hw]; done)
    | contradiction
    | split

theorem State.stopPane_inv {s : State} {q f : Nat} {emerg : Bool} (hs : s.Inv K W) :
    (State.stopPane s q f emerg).Inv K W := by
  unfold State.stopPane
  simp only [hs, State.setF_inv, State.setPane_inv]

theorem execPaneFreqChange_inv {q : Nat} {s : State} (hs : s.Inv K W) (hw : q < 32) :
    Good K W (execPaneFreqChange q s) := by
  unfold execPaneFreqChange
  repeat' first
    | (simp (maxDischargeDepth := 100) +contextual only [good_next, good_ite, ite_self, hs, State.setF_inv, State.askLock_inv, State.grantLock_inv, State.stopPane_inv, hw]; done)
    | contradiction
    | split

theorem State.emergPane_inv {s : State} {q : Nat} (hs : s.Inv K W) :
    (State.emergPane s q).Inv K W := by
  unfold State.emergPane
  repeat' first
    | split
    | simp (maxDischargeDepth := 100) +contextual only [inv_ite, ite_self, hs, State.setF_inv, State.addF_inv, State.setFs_inv, State.vary_inv, State.updateHold_inv, State.setPane_inv, State.unpend_inv, State.stopPane_inv]

theorem State.calibrate_inv {s : State} {i : Nat} {fs : Fld × Fld × Fld × Fld} {c : Cal} {target : Nat} (hs : s.Inv K W) :
    (State.calibrate s i fs c target).Inv K W := by
  unfold State.calibrate
  simp only [inv_ite, ite_self, hs, State.setF_inv, State.setFs_inv]

theorem State.missedStart_inv {s : State} {p : Nat} (hs : s.Inv K W) :
    (State.missedStart s p).Inv K W := by
  unfold State.missedStart
  repeat' first
    | (simp only [inv_ite, ite_self, hs, State.modPart_inv])
    | split

theorem execPaneRestart_inv {q ns : Nat} {cin cout : Cal} {s : State} (hs : s.Inv K W) (hw : q < 32) :
    Good K W (execPaneRestart q ns cin cout s) := by
  unfold execPaneRestart
  repeat' first
    | contradiction
    | split
    | simp (maxDischargeDepth := 100) +contextual only [inv_mk, good_next, good_ite, hs, State.setF_inv, State.addF_inv, State.setFs_inv, State.logFree_inv, State.abortStep_inv, State.updateHold_inv, State.dropLocks_inv, State.setPane_inv, State.unpend_inv, State.pendPane_inv, State.emergPane_inv, State.calibrate_inv, State.missedStart_inv]

theorem State.abortAll_inv {s : State} {cause : Nat} {z0 : List Nat} (hs : s.Inv K W) :
    (State.abortAll s cause z0).Inv K W := by
  induction z0 generalizing s cause with
  | nil =>
    unfold State.abortAll
    repeat' first
      | assumption
  | cons a_ l_ ih =>
    unfold State.abortAll
    simp only [hs, State.abortStep_inv, ih]

theorem execCrossingDrift_inv {kind i : Nat} {inbound : Bool} {s : State} (hs : s.Inv K W) (hw : i < crossings kind ∧ hasHalf kind i inbound = true) :
    Good K W (execCrossingDrift kind i inbound s) := by
  unfold execCrossingDrift
  repeat' first
    | (simp only [inv_mk, good_next, good_ite, and_self, hs, State.setF_inv, State.abortAll_inv, hw]; done)
    | contradiction
    | split

theorem State.calibrateX_inv {s : State} {kind i : Nat} {cin cout : Cal} (hs : s.Inv K W) :
    (State.calibrateX s kind i cin cout).Inv K W := by
  unfold State.calibrateX
  simp (maxDischargeDepth := 100) +contextual only [inv_mk, inv_ite, ite_self, hs, State.setFs_inv, State.calibrate_inv]

theorem State.recalibrate_inv {s : State} {p : Nat} {cals : List (Nat × Nat × Cal × Cal)} (hs : s.Inv K W) :
    (State.recalibrate s p cals).Inv K W := by
  unfold State.recalibrate
  repeat' first
    | (simp only [*, inv_ite, ite_self, State.calibrateX_inv])
    | with_reducible refine inv_foldl (fun _ _ _ => ?_) ?_

theorem execRefclkLoss_inv {s : State} (hs : s.Inv K W) :
    Good K W (execRefclkLoss s) := by
  unfold execRefclkLoss
  simp only [good_next, hs, State.abortAll_inv]

/-! ## Time -/

theorem State.setRate_inv {s : State} {r : Int} (hs : s.Inv K W) :
    (State.setRate s r).Inv K W := by
  unfold State.setRate
  simp only [hs, State.setF_inv]

theorem State.slewRate_inv {s : State} (hs : s.Inv K W) :
    (State.slewRate s).Inv K W := by
  unfold State.slewRate
  repeat' first
    | (simp only [inv_mk, inv_ite, hs, State.setRate_inv]; done)
    | split

theorem State.timeTick_inv {s : State} (hs : s.Inv K W) :
    (State.timeTick s).Inv K W := by
  unfold State.timeTick
  simp only [inv_mk, hs, State.setF_inv, State.slewRate_inv]

theorem State.stepTime_inv {s : State} {d : Int} (hs : s.Inv K W) :
    (State.stepTime s d).Inv K W := by
  unfold State.stepTime
  simp only [hs, State.setF_inv]

theorem execTimeStep_inv {v : Word64} {s : State} (hs : s.Inv K W) :
    Good K W (execTimeStep v s) := by
  unfold execTimeStep
  simp only [good_next, good_ite, ite_self, hs, State.stepTime_inv]

theorem State.sendBeacon_inv {s : State} {q : Nat} {body : List Byte} (hs : s.Inv K W) :
    (State.sendBeacon s q body).Inv K W := by
  unfold State.sendBeacon
  simp only [inv_ite, ite_self, hs, State.modPort_inv, State.portPut_inv]

theorem execBeaconSyncSend_inv {q : Nat} {s : State} (hs : s.Inv K W) (hw : q < 36) :
    Good K W (execBeaconSyncSend q s) := by
  unfold execBeaconSyncSend
  repeat' first
    | (simp only [inv_mk, good_next, good_ite, ite_self, hs, State.sendBeacon_inv, hw]; done)
    | contradiction
    | split

theorem State.missBeacon_inv {s : State} (hs : s.Inv K W) :
    (State.missBeacon s).Inv K W := by
  unfold State.missBeacon
  simp only [inv_mk, inv_ite, ite_self, hs, State.setF_inv, State.toBackup_inv]

theorem execBeaconExchangeFail_inv {s : State} (hs : s.Inv K W) :
    Good K W (execBeaconExchangeFail s) := by
  unfold execBeaconExchangeFail
  simp only [good_next, good_ite, ite_self, hs, State.missBeacon_inv]

theorem State.missOn_inv {s : State} {q : Nat} (hs : s.Inv K W) :
    (State.missOn s q).Inv K W := by
  unfold State.missOn
  simp only [inv_ite, ite_self, hs, State.missBeacon_inv]

theorem State.onBeacon_inv {s : State} {q kind : Nat} {f : State → Packet → State} (hs : s.Inv K W) (hf : ∀ s c, s.Inv K W → (f s c).Inv K W) :
    Good K W (State.onBeacon s q kind f) := by
  unfold State.onBeacon
  repeat' first
    | (simp only [inv_mk, good_next, good_ite, ite_self, hs, State.missOn_inv, hf]; done)
    | split

theorem execSync_inv {q : Nat} {s : State} (hs : s.Inv K W) (hw : q < 36) :
    Good K W (execSync q s) := by
  unfold execSync
  repeat' first
    | (simp (maxDischargeDepth := 100) +contextual only [good_ite, inv_ite, ite_self, implies_true, hs, State.modPort_inv, State.sendBeacon_inv, State.missOn_inv, State.onBeacon_inv, hw]; done)
    | contradiction
    | split

theorem execDelayReq_inv {q : Nat} {s : State} (hs : s.Inv K W) (hw : q < 36) :
    Good K W (execDelayReq q s) := by
  unfold execDelayReq
  repeat' first
    | (simp (maxDischargeDepth := 100) +contextual only [good_ite, inv_ite, ite_self, implies_true, hs, State.modPort_inv, State.sendBeacon_inv, State.onBeacon_inv, hw]; done)
    | contradiction
    | split

theorem State.lockBy_inv {s : State} {parentLocked : Bool} {off : Int} (hs : s.Inv K W) :
    (State.lockBy s parentLocked off).Inv K W := by
  unfold State.lockBy
  simp only [inv_mk, inv_ite, ite_self, hs, State.setF_inv]

theorem State.servo_inv {s : State} (hs : s.Inv K W) :
    (State.servo s).Inv K W := by
  unfold State.servo
  simp only [inv_mk, inv_ite, ite_self, hs, State.setRate_inv]

theorem State.recordWake_inv {s : State} {q outcome : Nat} {ns : Int} (hs : s.Inv K W) :
    (State.recordWake s q outcome ns).Inv K W := by
  unfold State.recordWake
  simp only [hs, State.setFs_inv]

theorem State.owe_inv {s : State} {q : Nat} {off : Int} (hs : s.Inv K W) :
    (State.owe s q off).Inv K W := by
  unfold State.owe
  simp only [inv_mk, inv_ite, ite_self, hs]

theorem State.unlockTime_inv {s : State} (hs : s.Inv K W) :
    (State.unlockTime s).Inv K W := by
  unfold State.unlockTime
  simp only [inv_mk, hs, State.setF_inv]

theorem State.openVcs_inv {s : State} {q : Nat} (hs : s.Inv K W) :
    (State.openVcs s q).Inv K W := by
  unfold State.openVcs
  simp only [hs, State.modPort_inv]

theorem State.align_inv {s : State} {q : Nat} {off : Int} (hs : s.Inv K W) :
    (State.align s q off).Inv K W := by
  unfold State.align
  repeat' first
    | split
    | simp (maxDischargeDepth := 100) +contextual only [hs, State.setF_inv, State.modPort_inv, State.varyPort_inv, State.abortAll_inv, State.recordWake_inv, State.owe_inv, State.unlockTime_inv, State.openVcs_inv]

theorem State.releaseHolds_inv {s : State} (hs : s.Inv K W) :
    (State.releaseHolds s).Inv K W := by
  have hc : ∀ t : Tbl Port, Canon (fun _ => Port.init) t →
      Canon (fun _ => Port.init) ((t.map (fun e => (e.1, { e.2 with hold3 := false }))).filter (fun e => e.2 != Port.init)) := by
    intro t h
    refine ⟨List.Pairwise.filter _ (List.pairwise_map.2 (h.1.imp fun h => h)), fun e he => ?_⟩
    simpa using (List.mem_filter.1 he).2
  exact ⟨hs.queue, fun k => { hs.canonical k with ports := hc _ (hs.canonical k).ports },
    fun k => ⟨(hs.fits k).1, (hs.fits k).2, (hs.fits k).3, (hs.fits k).4⟩⟩

theorem State.burstDone_inv {s : State} {q : Nat} {off : Int} (hs : s.Inv K W) :
    (State.burstDone s q off).Inv K W := by
  unfold State.burstDone
  simp (maxDischargeDepth := 100) +contextual only [inv_ite, ite_self, hs, State.modPort_inv, State.owe_inv, State.openVcs_inv]

theorem State.discipline_inv {s : State} {up : Bool} {b : List Byte} {off : Int} (hs : s.Inv K W) :
    (State.discipline s up b off).Inv K W := by
  unfold State.discipline
  simp (maxDischargeDepth := 100) +contextual only [inv_mk, inv_ite, ite_self, hs, State.setF_inv, State.setFs_inv, State.lockBy_inv, State.servo_inv, State.releaseHolds_inv]

theorem execDelayResp_inv {q : Nat} {s : State} (hs : s.Inv K W) (hw : q < 36) :
    Good K W (execDelayResp q s) := by
  unfold execDelayResp
  repeat' first
    | intro _
    | (simp only [*, inv_ite, ite_self, State.modPort_inv, State.align_inv, State.burstDone_inv, State.discipline_inv]; done)
    | contradiction
    | split
    | with_reducible apply State.onBeacon_inv

theorem execTimebaseStep_inv {s : State} (hs : s.Inv K W) :
    Good K W (execTimebaseStep s) := by
  unfold execTimebaseStep
  simp only [inv_mk, good_next, good_ite, ite_self, hs, State.stepTime_inv]

theorem State.ptpAsk_inv {s : State} {m : PtpMsg} {t1 t2 t3 : Nat} (hs : s.Inv K W) :
    (State.ptpAsk s m t1 t2 t3).Inv K W := by
  unfold State.ptpAsk
  simp only [inv_mk, hs]

theorem State.ptpMeasured_inv {s : State} {off : Int} (hs : s.Inv K W) :
    (State.ptpMeasured s off).Inv K W := by
  unfold State.ptpMeasured
  simp (maxDischargeDepth := 100) +contextual only [inv_mk, inv_ite, ite_self, hs, State.setF_inv, State.stepTime_inv, State.servo_inv]

theorem execPtpMessage_inv {m : PtpMsg} {s : State} (hs : s.Inv K W) :
    Good K W (execPtpMessage m s) := by
  unfold execPtpMessage
  repeat' first
    | (simp only [inv_mk, good_next, good_ite, inv_ite, ite_self, hs, State.ptpAsk_inv, State.ptpMeasured_inv]; done)
    | split

theorem execPtpLost_inv {s : State} (hs : s.Inv K W) :
    Good K W (execPtpLost s) := by
  unfold execPtpLost
  simp only [good_next, good_ite, ite_self, hs, State.setF_inv]

/-! ## Training -/

theorem State.portWork_inv {s : State} {q k : Nat} (hs : s.Inv K W) :
    (State.portWork s q k).Inv K W := by
  unfold State.portWork
  simp only [inv_ite, ite_self, hs, State.takeLocks_inv, State.modPort_inv, State.setPstate_inv, State.train_inv]

theorem State.portAsk_inv {s : State} {q k : Nat} (hs : s.Inv K W) :
    (State.portAsk s q k).Inv K W := by
  unfold State.portAsk
  simp only [inv_ite, ite_self, hs, State.askLock_inv, State.portWork_inv]

theorem State.runPorts_inv {s : State} (hs : s.Inv K W) :
    (State.runPorts s).Inv K W := by
  unfold State.runPorts
  repeat' first
    | (simp only [*, inv_ite, ite_self, State.leaveQ_inv, State.portWork_inv])
    | with_reducible refine inv_foldl (fun _ _ _ => ?_) ?_

theorem execRetrain_inv {q : Nat} {v : Word64} {s : State} (hs : s.Inv K W) (hw : q < 36) :
    Good K W (execRetrain q v s) := by
  unfold execRetrain
  repeat' first
    | (simp only [good_next, good_ite, ite_self, hs, State.portAsk_inv, hw]; done)
    | contradiction
    | split

theorem execSleep_inv {q : Nat} {v : Word64} {s : State} (hs : s.Inv K W) (hw : q < 36) :
    Good K W (execSleep q v s) := by
  unfold execSleep
  repeat' first
    | (simp only [good_next, good_ite, ite_self, hs, State.portAsk_inv, hw]; done)
    | contradiction
    | split

theorem execOff_inv {q : Nat} {v : Word64} {s : State} (hs : s.Inv K W) (hw : q < 36) :
    Good K W (execOff q v s) := by
  unfold execOff
  repeat' first
    | (simp only [good_next, good_ite, ite_self, hs, State.portAsk_inv, hw]; done)
    | contradiction
    | split

theorem execWake_inv {q : Nat} {v : Word64} {s : State} (hs : s.Inv K W) (hw : q < 36) :
    Good K W (execWake q v s) := by
  unfold execWake
  repeat' first
    | (simp only [good_next, good_ite, hs, State.dropLocks_inv, State.modPort_inv, State.train_inv, State.wakePort_inv, hw]; done)
    | contradiction
    | split

theorem execPartnerSignal_inv {q silence : Nat} {powered : Bool} {s : State} (hs : s.Inv K W) (hw : q < 36) :
    Good K W (execPartnerSignal q silence powered s) := by
  unfold execPartnerSignal
  repeat' first
    | (simp only [good_next, good_ite, ite_self, hs, State.modPort_inv, State.setPstate_inv, State.train_inv, hw]; done)
    | contradiction
    | split

theorem execEqualise_inv {q : Nat} {l : Lanes} {s : State} (hs : s.Inv K W) (hw : q < 36) :
    Good K W (execEqualise q l s) := by
  unfold execEqualise
  repeat' first
    | (simp (maxDischargeDepth := 100) +contextual only [good_next, good_ite, ite_self, hs, State.setFs_inv, State.modPort_inv, State.setPstate_inv, State.failAttempt_inv, hw]; done)
    | contradiction
    | split

theorem execAlignDone_inv {q : Nat} {cin cout : Cal} {s : State} (hs : s.Inv K W) (hw : q < 36) :
    Good K W (execAlignDone q cin cout s) := by
  unfold execAlignDone
  repeat' first
    | (simp (maxDischargeDepth := 100) +contextual only [good_next, good_ite, ite_self, hs, State.modPort_inv, State.setPstate_inv, State.goDown_inv, State.calibrate_inv, hw]; done)
    | contradiction
    | split

theorem execTrainingStageTimeout_inv {q : Nat} {s : State} (hs : s.Inv K W) (hw : q < 36) :
    Good K W (execTrainingStageTimeout q s) := by
  unfold execTrainingStageTimeout
  repeat' first
    | (simp only [good_next, good_ite, ite_self, hs, State.failAttempt_inv, hw]; done)
    | contradiction
    | split

theorem State.nextStage_inv {s : State} {q : Nat} (hs : s.Inv K W) :
    (State.nextStage s q).Inv K W := by
  unfold State.nextStage
  repeat' first
    | (simp only [inv_ite, ite_self, hs, State.modPort_inv, State.setPstate_inv, State.enterMgmt_inv]; done)
    | split

theorem State.gotVersion_inv {s : State} {q : Nat} {b : List Byte} (hs : s.Inv K W) :
    (State.gotVersion s q b).Inv K W := by
  unfold State.gotVersion
  simp only [inv_ite, ite_self, hs, State.setFs_inv, State.modPort_inv, State.goDown_inv, State.failAttempt_inv]

theorem State.setHeff_inv {s : State} {q h : Nat} (hs : s.Inv K W) :
    (State.setHeff s q h).Inv K W := by
  unfold State.setHeff
  simp only [hs, State.setFs_inv, State.modPort_inv]

theorem State.gotConfig_inv {s : State} {q : Nat} {b : List Byte} (hs : s.Inv K W) :
    (State.gotConfig s q b).Inv K W := by
  unfold State.gotConfig
  simp (maxDischargeDepth := 100) +contextual only [inv_ite, ite_self, hs, State.setFs_inv, State.modPort_inv, State.discardPort_inv, State.goDown_inv, State.failAttempt_inv, State.setHeff_inv]

theorem State.goUp_inv {s : State} {q : Nat} (hs : s.Inv K W) :
    (State.goUp s q).Inv K W := by
  unfold State.goUp
  simp only [inv_ite, ite_self, hs, State.enterUp_inv]

theorem State.takeBody_inv {s : State} {q : Nat} {b : List Byte} (hs : s.Inv K W) :
    (State.takeBody s q b).Inv K W := by
  unfold State.takeBody
  repeat' first
    | split
    | simp (maxDischargeDepth := 100) +contextual only [inv_ite, hs, State.addF_inv, State.modPort_inv, State.nextStage_inv, State.gotVersion_inv, State.gotConfig_inv, State.goUp_inv]

theorem State.takeFrame_inv {s : State} {q seq ack : Nat} {b : List Byte} (hs : s.Inv K W) :
    (State.takeFrame s q seq ack b).Inv K W := by
  unfold State.takeFrame
  simp only [inv_ite, ite_self, hs, State.addF_inv, State.modPort_inv, State.train_inv, State.takeBody_inv]

theorem execTrainingFrame_inv {q seq ack : Nat} {b : List Byte} {s : State} (hs : s.Inv K W) (hw : q < 36 ∧ seq < 2 ^ 24 ∧ ack < 2 ^ 24) :
    Good K W (execTrainingFrame q seq ack b s) := by
  unfold execTrainingFrame
  repeat' first
    | (simp only [good_next, good_ite, and_self, hs, State.takeFrame_inv, hw]; done)
    | contradiction
    | split

theorem State.degrade_inv {s : State} {q : Nat} {high : Bool} {tell : Bool} (hs : s.Inv K W) :
    (State.degrade s q high tell).Inv K W := by
  unfold State.degrade
  simp (maxDischargeDepth := 100) +contextual only [hs, State.setF_inv, State.addF_inv, State.modPort_inv, State.varyPort_inv, State.setPstate_inv]

theorem execLaneFail_inv {q lost : Nat} {hits : Tbl Nat} {s : State} (hs : s.Inv K W) (hw : q < 36) :
    Good K W (execLaneFail q lost hits s) := by
  unfold execLaneFail
  repeat' first
    | (simp only [good_next, good_ite, ite_self, hs, State.setFs_inv, State.train_inv, State.degrade_inv, hw]; done)
    | contradiction
    | split

theorem execDegradeRealign_inv {q : Nat} {s : State} (hs : s.Inv K W) (hw : q < 36) :
    Good K W (execDegradeRealign q s) := by
  unfold execDegradeRealign
  repeat' first
    | (simp (maxDischargeDepth := 100) +contextual only [good_next, good_ite, ite_self, hs, State.setF_inv, State.setPort_inv, State.setPstate_inv, State.resumeReplay_inv, hw]; done)
    | contradiction
    | split

theorem execSleepTimeout_inv {q : Nat} {s : State} (hs : s.Inv K W) (hw : q < 36) :
    Good K W (execSleepTimeout q s) := by
  unfold execSleepTimeout
  repeat' first
    | (simp (maxDischargeDepth := 100) +contextual only [good_next, good_ite, ite_self, hs, State.setF_inv, State.dropLocks_inv, State.modPort_inv, hw]; done)
    | contradiction
    | split

theorem execPartnerWake_inv {q : Nat} {s : State} (hs : s.Inv K W) (hw : q < 36) :
    Good K W (execPartnerWake q s) := by
  unfold execPartnerWake
  repeat' first
    | (simp only [good_next, good_ite, hs, State.train_inv, State.wakePort_inv, hw]; done)
    | contradiction
    | split

theorem execRelock_inv {q : Nat} {ok : Bool} {s : State} (hs : s.Inv K W) (hw : q < 36) :
    Good K W (execRelock q ok s) := by
  unfold execRelock
  repeat' first
    | (simp (maxDischargeDepth := 100) +contextual only [good_next, good_ite, ite_self, hs, State.setF_inv, State.addF_inv, State.modPort_inv, State.setPstate_inv, State.detect_inv, hw]; done)
    | contradiction
    | split

/-! ## Link -/

theorem State.askNak_inv {s : State} {q : Nat} (hs : s.Inv K W) :
    (State.askNak s q).Inv K W := by
  unfold State.askNak
  simp only [inv_ite, ite_self, hs, State.modPort_inv]

theorem State.takeAck_inv {s : State} {q a : Nat} (hs : s.Inv K W) :
    (State.takeAck s q a).Inv K W := by
  unfold State.takeAck
  simp only [inv_ite, ite_self, hs, State.setF_inv, State.addF_inv, State.ackTo_inv]

theorem State.takeNak_inv {s : State} {q n : Nat} (hs : s.Inv K W) :
    (State.takeNak s q n).Inv K W := by
  unfold State.takeNak
  simp only [inv_ite, ite_self, hs, State.startReplay_inv]

theorem State.takeSleep_inv {s : State} {q flags : Nat} (hs : s.Inv K W) :
    (State.takeSleep s q flags).Inv K W := by
  unfold State.takeSleep
  simp (maxDischargeDepth := 100) +contextual only [inv_ite, ite_self, hs, State.setF_inv, State.dropLocks_inv, State.modPort_inv, State.enterSleep_inv]

theorem State.takeHalf_inv {s : State} {q flags : Nat} (hs : s.Inv K W) :
    (State.takeHalf s q flags).Inv K W := by
  unfold State.takeHalf
  simp only [inv_ite, ite_self, hs, State.degrade_inv]

theorem State.malformed_inv {s : State} {q v : Nat} {last : Bool} (hs : s.Inv K W) :
    (State.malformed s q v last).Inv K W := by
  unfold State.malformed
  simp only [hs, State.addF_inv, State.modPort_inv]

theorem State.headFlit_inv {s : State} {q stamp : Nat} {f : TxFlit} (hs : s.Inv K W) :
    (State.headFlit s q stamp f).Inv K W := by
  unfold State.headFlit
  repeat' first
    | (simp only [inv_mk, inv_ite, ite_self, hs, State.modPort_inv, State.malformed_inv]; done)
    | split

theorem State.joinFlit_inv {s : State} {q stamp : Nat} {f : TxFlit} (hs : s.Inv K W) :
    (State.joinFlit s q stamp f).Inv K W := by
  unfold State.joinFlit
  repeat' first
    | (simp (maxDischargeDepth := 100) +contextual only [inv_mk, inv_ite, ite_self, hs, State.addF_inv, State.modPort_inv, State.passOn_inv, State.malformed_inv, State.headFlit_inv]; done)
    | split

theorem State.takeData_inv {s : State} {q stamp : Nat} {b : List Byte} (hs : s.Inv K W) :
    (State.takeData s q stamp b).Inv K W := by
  unfold State.takeData
  simp only [inv_ite, ite_self, hs, State.setF_inv, State.modPort_inv, State.askNak_inv, State.joinFlit_inv]

theorem State.takeGone_inv {s : State} {q : Nat} {body : List Byte} (hs : s.Inv K W) :
    (State.takeGone s q body).Inv K W := by
  unfold State.takeGone
  simp only [inv_ite, ite_self, hs, State.goDown_inv]

theorem execGoingAway_inv {q : Nat} {body : List Byte} {s : State} (hs : s.Inv K W) (hw : q < 36) :
    Good K W (execGoingAway q body s) := by
  unfold execGoingAway
  repeat' first
    | (simp only [good_next, good_ite, hs, State.takeGone_inv, hw]; done)
    | contradiction
    | split

theorem State.takeTraining_inv {s : State} {q stamp : Nat} {b : List Byte} (hs : s.Inv K W) :
    (State.takeTraining s q stamp b).Inv K W := by
  unfold State.takeTraining
  simp only [inv_mk, inv_ite, ite_self, hs, State.modPort_inv, State.takeFrame_inv]

theorem State.takeFields_inv {s : State} {q : Nat} {b : List Byte} (hs : s.Inv K W) :
    (State.takeFields s q b).Inv K W := by
  unfold State.takeFields
  simp (maxDischargeDepth := 100) +contextual only [inv_ite, ite_self, hs, State.setF_inv, State.modPort_inv, State.takeAck_inv, State.takeNak_inv]

theorem execFlitReceive_inv {q corr uncorr : Nat} {bad : Bool} {phase : Nat} {f : Flit} {s : State} (hs : s.Inv K W) (hw : q < 36) :
    Good K W (execFlitReceive q corr uncorr bad phase f s) := by
  unfold execFlitReceive
  repeat' first
    | (simp (maxDischargeDepth := 100) +contextual only [good_next, good_ite, inv_ite, ite_self, hs, State.addF_inv, State.refreshPort_inv, State.askNak_inv, State.takeSleep_inv, State.takeHalf_inv, State.takeData_inv, State.takeGone_inv, State.takeTraining_inv, State.takeFields_inv, hw]; done)
    | contradiction
    | split

theorem State.emit_inv {s : State} {q type vc seq : Nat} {first last : Bool} {body : List Byte} (hs : s.Inv K W) :
    (State.emit s q type vc seq first last body).Inv K W := by
  unfold State.emit
  simp only [inv_ite, ite_self, hs, State.addF_inv, State.setPort_inv]

theorem State.vary5_inv {s : State} {q : Nat} {f : TxFlit} (hs : s.Inv K W) :
    (State.vary5 s q f).Inv K W := by
  unfold State.vary5
  simp only [inv_ite, ite_self, hs, State.varyPort_inv]

theorem State.sendData_inv {s : State} {q : Nat} {f : TxFlit} (hs : s.Inv K W) :
    (State.sendData s q f).Inv K W := by
  unfold State.sendData
  simp only [hs, State.modPort_inv, State.emit_inv]

theorem State.idleSlot_inv {s : State} {q : Nat} (hs : s.Inv K W) :
    (State.idleSlot s q).Inv K W := by
  unfold State.idleSlot
  simp only [hs, State.modPort_inv, State.emit_inv]

theorem State.markSent_inv {s : State} {q v : Nat} (hs : s.Inv K W) :
    (State.markSent s q v).Inv K W := by
  unfold State.markSent
  repeat' first
    | (simp only [inv_mk, hs]; done)
    | split

theorem State.keepT3_inv {s : State} {q at' ts : Nat} {b : List Byte} (hs : s.Inv K W) :
    (State.keepT3 s q at' ts b).Inv K W := by
  unfold State.keepT3
  simp only [inv_ite, ite_self, hs, State.modPort_inv]

theorem State.sendNew_inv {s : State} {q phase : Nat} {f : TxFlit} (hs : s.Inv K W) :
    (State.sendNew s q phase f).Inv K W := by
  unfold State.sendNew
  simp (maxDischargeDepth := 100) +contextual only [inv_ite, ite_self, hs, State.setF_inv, State.modPort_inv, State.passOn_inv, State.vary5_inv, State.sendData_inv, State.markSent_inv, State.keepT3_inv]

theorem State.sendReplay_inv {s : State} {q n : Nat} (hs : s.Inv K W) :
    (State.sendReplay s q n).Inv K W := by
  unfold State.sendReplay
  repeat' first
    | split
    | simp (maxDischargeDepth := 100) +contextual only [hs, State.setPort_inv, State.modPort_inv, State.vary5_inv, State.sendData_inv, State.idleSlot_inv]

theorem State.sendTraining_inv {s : State} {q phase : Nat} (hs : s.Inv K W) :
    (State.sendTraining s q phase).Inv K W := by
  unfold State.sendTraining
  repeat' first
    | (simp (maxDischargeDepth := 100) +contextual only [inv_ite, ite_self, hs, State.modPort_inv, State.goUp_inv, State.emit_inv, State.keepT3_inv]; done)
    | split

theorem execFlitSlot_inv {q phase : Nat} {s : State} (hs : s.Inv K W) (hw : q < 36) :
    Good K W (execFlitSlot q phase s) := by
  unfold execFlitSlot
  repeat' first
    | contradiction
    | split
    | simp only [good_next, good_ite, hs, State.modPort_inv, State.refreshPort_inv, State.enterSleep_inv, State.emit_inv, State.idleSlot_inv, State.sendNew_inv, State.sendReplay_inv, State.sendTraining_inv]

theorem execAckTimeout_inv {q : Nat} {s : State} (hs : s.Inv K W) (hw : q < 36) :
    Good K W (execAckTimeout q s) := by
  unfold execAckTimeout
  repeat' first
    | (simp only [good_next, good_ite, ite_self, hs, State.startReplay_inv, hw]; done)
    | contradiction
    | split

theorem execNakTimeout_inv {q : Nat} {s : State} (hs : s.Inv K W) (hw : q < 36) :
    Good K W (execNakTimeout q s) := by
  unfold execNakTimeout
  repeat' first
    | (simp only [good_next, good_ite, ite_self, hs, State.setPort_inv, hw]; done)
    | contradiction
    | split

theorem execBsfSend_inv {q : Nat} {s : State} (hs : s.Inv K W) (hw : q < 36) :
    Good K W (execBsfSend q s) := by
  unfold execBsfSend
  repeat' first
    | (simp only [good_next, good_ite, ite_self, hs, State.modPort_inv, hw]; done)
    | contradiction
    | split

theorem execCreditTimeout_inv {q : Nat} {s : State} (hs : s.Inv K W) (hw : q < 36) :
    Good K W (execCreditTimeout q s) := by
  unfold execCreditTimeout
  repeat' first
    | (simp only [good_next, good_ite, ite_self, hs, State.train_inv, hw]; done)
    | contradiction
    | split

theorem execHoldTimeExpiry_inv {q : Nat} {s : State} (hs : s.Inv K W) (hw : q < 36) :
    Good K W (execHoldTimeExpiry q s) := by
  unfold execHoldTimeExpiry
  repeat' first
    | (simp only [good_next, good_ite, ite_self, hs, State.discardPort_inv, hw]; done)
    | contradiction
    | split

theorem execLinkLost_inv {p : Nat} {s : State} (hs : s.Inv K W) (hw : p < 16) :
    Good K W (execLinkLost p s) := by
  unfold execLinkLost
  repeat' first
    | (simp only [good_next, good_ite, ite_self, hs, State.abortStep_inv, hw]; done)
    | contradiction
    | split

/-! ## Route -/

theorem State.missRecord_inv {s : State} {k : Packet} (hs : s.Inv K W) :
    (State.missRecord s k).Inv K W := by
  unfold State.missRecord
  simp only [inv_ite, ite_self, hs, State.setF_inv, State.addF_inv, State.setFs_inv]

theorem State.missPlanned_inv {s : State} {k : Packet} (hs : s.Inv K W) :
    (State.missPlanned s k).Inv K W := by
  unfold State.missPlanned
  simp only [hs, State.abortStep_inv, State.missRecord_inv]

theorem State.local'_inv1 {s : State} {k : Packet} (hs : s.Inv K W) :
    Inv1 K W (State.local' s k) := by
  unfold State.local'
  repeat' first
    | (simp only [inv1_mk, inv1_ite, hs, State.abortStep_inv]; done)
    | split

theorem State.local'_inv {s : State} {k : Packet} (hs : s.Inv K W) :
    (State.local' s k).1.Inv K W := State.local'_inv1 hs

theorem State.oneOut_inv1 {s : State} {k : Packet} {q v : Nat} (hs : s.Inv K W) :
    Inv1 K W (State.oneOut s k q v) := by
  unfold State.oneOut
  simp only [inv_fst, inv1_mk, hs, State.openBranch_inv1]

theorem State.oneOut_inv {s : State} {k : Packet} {q v : Nat} (hs : s.Inv K W) :
    (State.oneOut s k q v).1.Inv K W := State.oneOut_inv1 hs

theorem State.adaptive_inv1 {s : State} {k : Packet} {mbr : Bool} {i w : Nat} (hs : s.Inv K W) :
    Inv1 K W (State.adaptive s k mbr i w) := by
  unfold State.adaptive
  repeat' first
    | split
    | simp (maxDischargeDepth := 100) +contextual only [inv1_mk, hs, State.wrReg_inv, State.addF_inv, State.vary_inv, State.missRecord_inv, State.oneOut_inv1]

theorem State.adaptive_inv {s : State} {k : Packet} {mbr : Bool} {i w : Nat} (hs : s.Inv K W) :
    (State.adaptive s k mbr i w).1.Inv K W := State.adaptive_inv1 hs

theorem State.copyTo_inv1 {s : State} {k : Packet} {q : Nat} (hs : s.Inv K W) :
    Inv1 K W (State.copyTo s k q) := by
  unfold State.copyTo
  simp only [inv1_mk, inv1_ite, ite_self, hs, State.addF_inv, State.openBranch_inv1]

theorem State.copyTo_inv {s : State} {k : Packet} {q : Nat} (hs : s.Inv K W) :
    (State.copyTo s k q).1.Inv K W := State.copyTo_inv1 hs

theorem State.copies_inv1 {s : State} {k : Packet} {z0 : List Nat} (hs : s.Inv K W) :
    Inv1 K W (State.copies s k z0) := by
  induction z0 generalizing s k with
  | nil => exact hs
  | cons q t ih =>
    unfold State.copies
    simp only [inv_fst, inv1_mk, hs, State.copyTo_inv1, ih]

theorem State.copies_inv {s : State} {k : Packet} {z0 : List Nat} (hs : s.Inv K W) :
    (State.copies s k z0).1.Inv K W := State.copies_inv1 hs

theorem State.fanout_inv1 {s : State} {k : Packet} (hs : s.Inv K W) :
    Inv1 K W (State.fanout s k) := by
  unfold State.fanout
  simp only [inv_fst, inv1_mk, inv1_ite, ite_self, hs, State.missPlanned_inv, State.oneOut_inv1, State.copies_inv1]

theorem State.fanout_inv {s : State} {k : Packet} (hs : s.Inv K W) :
    (State.fanout s k).1.Inv K W := State.fanout_inv1 hs

theorem State.route_inv1 {s : State} {k : Packet} (hs : s.Inv K W) :
    Inv1 K W (State.route s k) := by
  unfold State.route
  repeat' first
    | split
    | simp only [inv1_mk, hs, State.missRecord_inv, State.missPlanned_inv, State.local'_inv1, State.oneOut_inv1, State.adaptive_inv1, State.fanout_inv1]

theorem State.route_inv {s : State} {k : Packet} (hs : s.Inv K W) :
    (State.route s k).1.Inv K W := State.route_inv1 hs

theorem State.lookup_inv {s : State} {cycle : Nat} {h : Worm} (hs : s.Inv K W) :
    (State.lookup s cycle h).Inv K W := by
  unfold State.lookup
  simp only [inv_mk, inv_fst, hs, State.route_inv1]

theorem State.countTies_inv {s : State} {cycle : Nat} (hs : s.Inv K W) :
    (State.countTies s cycle).Inv K W := by
  unfold State.countTies
  repeat' first
    | (simp only [*, State.vary_inv]; done)
    | with_reducible refine inv_foldl (fun _ _ _ => ?_) ?_

theorem execRouteLookup_inv {ties : Nat} {s : State} (hs : s.Inv K W) :
    Good K W (execRouteLookup ties s) := by
  unfold execRouteLookup
  repeat' first
    | (simp only [*, good_next, State.lookup_inv]; done)
    | split
    | with_reducible refine inv_foldl (fun _ _ _ => ?_) ?_
    | with_reducible apply State.passOn_inv
    | with_reducible apply State.countTies_inv
    | simp only [good_next]

theorem State.writeEntry_inv {s : State} {mbr : Bool} {i v : Nat} (hs : s.Inv K W) :
    (State.writeEntry s mbr i v).Inv K W := by
  unfold State.writeEntry
  simp only [inv_ite, ite_self, hs, State.wrReg_inv, State.setF_inv]

theorem execRteEntryWrite_inv {mbr : Bool} {i : Nat} {v : Word64} {s : State} (hs : s.Inv K W) (hw : i < (if mbr then 128 else 4096)) :
    Good K W (execRteEntryWrite mbr i v s) := by
  unfold execRteEntryWrite
  repeat' first
    | (simp only [good_next, good_ite, hs, State.writeEntry_inv, hw]; done)
    | split
    | (exfalso; simp_all)

theorem State.writeFan_inv {s : State} {t w v : Nat} (hs : s.Inv K W) :
    (State.writeFan s t w v).Inv K W := by
  unfold State.writeFan
  repeat' first
    | (simp only [inv_ite, ite_self, hs, State.wrReg_inv, State.setF_inv]; done)
    | split

theorem execFanEntryWrite_inv {t w : Nat} {v : Word64} {s : State} (hs : s.Inv K W) (hw : t < 4096 ∧ w < 6) :
    Good K W (execFanEntryWrite t w v s) := by
  unfold execFanEntryWrite
  repeat' first
    | (simp only [good_next, good_ite, and_self, hs, State.writeFan_inv, hw]; done)
    | contradiction
    | split

theorem execRtePsetWrite_inv {p : Nat} {v : Word64} {s : State} (hs : s.Inv K W) (hw : p < 16) :
    Good K W (execRtePsetWrite p v s) := by
  unfold execRtePsetWrite
  repeat' first
    | (simp only [good_next, good_ite, ite_self, hs, State.setF_inv, hw]; done)
    | contradiction
    | split

/-! ## Faults -/

theorem State.issueAgain_inv {s : State} {p attempt : Nat} (hs : s.Inv K W) :
    (State.issueAgain s p attempt).Inv K W := by
  unfold State.issueAgain
  simp only [inv_mk, hs]

theorem execAbortReceive_inv {s : State} (hs : s.Inv K W) :
    Good K W (execAbortReceive s) := by
  unfold execAbortReceive
  repeat' first
    | split
    | simp (maxDischargeDepth := 100) +contextual only [inv_mk, good_next, hs, State.addF_inv, State.logEvent_inv, State.abortApply_inv, State.lateAbort_inv, State.recordAbort_inv, State.issueAgain_inv]

theorem State.wipeLatches_inv {s : State} {ns : List Nat} (hs : s.Inv K W) :
    (State.wipeLatches s ns).Inv K W := by
  exact inv_foldl (fun _ _ h => State.setF_inv (State.clearLatches_inv h)) hs

theorem State.endQuiet_inv {s : State} {p : Nat} {replay : Bool} (hs : s.Inv K W) :
    (State.endQuiet s p replay).Inv K W := by
  unfold State.endQuiet
  simp (maxDischargeDepth := 100) +contextual only [inv_ite, ite_self, hs, State.setF_inv, State.modPart_inv, State.purge_inv, State.stepDone_inv, State.passOn_inv, State.wipeLatches_inv]

theorem execStepReplay_inv {p : Nat} {s : State} (hs : s.Inv K W) (hw : p < 16) :
    Good K W (execStepReplay p s) := by
  unfold execStepReplay
  repeat' first
    | (simp (maxDischargeDepth := 100) +contextual only [good_next, good_ite, ite_self, hs, State.modPart_inv, State.logEvent_inv, State.sendAbort_inv, State.issueAgain_inv, hw]; done)
    | contradiction
    | split

theorem State.unverify_inv {s : State} (hs : s.Inv K W) :
    (State.unverify s).Inv K W := by
  unfold State.unverify
  simp only [inv_mk, hs, State.setF_inv, State.logEvent_inv]

theorem execLockstepTest_inv {ok : Bool} {s : State} (hs : s.Inv K W) :
    Good K W (execLockstepTest ok s) := by
  unfold execLockstepTest
  simp only [good_next, good_ite, ite_self, hs, State.setF_inv, State.addF_inv, State.unverify_inv]

theorem execLockstepMismatch_inv {parity : Bool} {s : State} (hs : s.Inv K W) :
    Good K W (execLockstepMismatch parity s) := by
  unfold execLockstepMismatch
  simp only [inv_mk, good_next, good_ite, ite_self, hs, State.setF_inv, State.logEvent_inv, State.unverify_inv]

end Sys2Proof.Machine
end

