-- ==== Sys2Proof/Laws/InvPlans.lean ====
section
/-! SUPPORT. Control messages, plan loads, weights and steps keep the form of the state. -/

namespace Sys2Proof.Machine

variable {K : Prop} {W : List Instr}

/-! ## Control -/

theorem State.answer_inv {s : State} {op : Nat} {h : Ctl} {a : Answer} (hs : s.Inv K W) :
    (State.answer s op h a).Inv K W := by
  unfold State.answer
  simp only [hs, State.reply_inv]

theorem State.takeEntry_inv {s : State} {h : Ctl} (hs : s.Inv K W) :
    (State.takeEntry s h).Inv K W := by
  unfold State.takeEntry
  simp only [inv_ite, ite_self, hs, State.setRing_inv, State.ringWrite_inv]

theorem State.control_inv {s : State} {op : Nat} {h : Ctl} {fns : Fns} {tenant vestibule : Bool} {f : State → State × Option Answer} (hs : s.Inv K W) (hf : ∀ s, s.Inv K W → Inv1 K W (f s)) (hw : h.fn ≤ 16) :
    Good K W (State.control s op h fns tenant vestibule f) := by
  unfold State.control
  repeat' first
    | contradiction
    | (rename_i heq; replace heq := congrArg Prod.fst heq; dsimp only at heq; subst heq)
    | split
    | simp (maxDischargeDepth := 100) +contextual only [inv_fst, good_next, good_ite, hs, State.answer_inv, State.takeEntry_inv, hf]

theorem State.payload_inv1 {s : State} {h : Ctl} (hs : s.Inv K W) :
    Inv1 K W (State.payload s h) := by
  unfold State.payload
  repeat' first
    | (simp only [inv_fst, inv1_mk, inv1_ite, hs, State.markAt_inv, State.read_inv1]; done)
    | (rename_i heq; replace heq := congrArg Prod.fst heq; dsimp only at heq; subst heq)
    | split

theorem State.payload_inv {s : State} {h : Ctl} (hs : s.Inv K W) :
    (State.payload s h).1.Inv K W := State.payload_inv1 hs

theorem State.putRecord_inv1 {s : State} {h : Ctl} {bs : List Byte} (hs : s.Inv K W) :
    Inv1 K W (State.putRecord s h bs) := by
  unfold State.putRecord
  repeat' first
    | (simp only [inv_fst, inv1_mk, inv1_ite, hs, State.markAt_inv, State.setSram_inv, State.write_inv1]; done)
    | (rename_i heq; replace heq := congrArg Prod.fst heq; dsimp only at heq; subst heq)
    | split

theorem State.putRecord_inv {s : State} {h : Ctl} {bs : List Byte} (hs : s.Inv K W) :
    (State.putRecord s h bs).1.Inv K W := State.putRecord_inv1 hs

theorem execPartitionInfo_inv {h : Ctl} {s : State} (hs : s.Inv K W) (hw : h.fn ≤ 16) :
    Good K W (execPartitionInfo h s) := by
  unfold execPartitionInfo
  repeat' first
    | intro _
    | (simp only [*, inv_fst, inv1_mk, State.putRecord_inv1]; done)
    | (rename_i heq; replace heq := congrArg Prod.fst heq; dsimp only at heq; subst heq)
    | split
    | with_reducible apply State.control_inv
    | simp only [hw]

theorem execPeepEnable_inv {h : Ctl} {id mask : Nat} {on : Bool} {s : State} (hs : s.Inv K W) (hw : h.fn ≤ 16) :
    Good K W (execPeepEnable h id mask on s) := by
  unfold execPeepEnable
  simp +contextual only [inv1_mk, inv1_ite, ite_self, implies_true, hs, State.setF_inv, State.control_inv, hw]

theorem State.setRings_inv1 {s : State} {fn : Nat} {z0 : List RingSpec} (hs : s.Inv K W) :
    Inv1 K W (State.setRings s fn z0) := by
  induction z0 generalizing s with
  | nil => exact hs
  | cons x t ih =>
    unfold State.setRings
    split
    · exact hs
    · exact ih (State.ringWrite_inv (State.setRing_inv hs))

theorem State.setRings_inv {s : State} {fn : Nat} {z0 : List RingSpec} (hs : s.Inv K W) :
    (State.setRings s fn z0).1.Inv K W := State.setRings_inv1 hs

theorem execRingSetup_inv {h : Ctl} {xs : List RingSpec} {s : State} (hs : s.Inv K W) (hw : h.fn ≤ 16) :
    Good K W (execRingSetup h xs s) := by
  unfold execRingSetup
  repeat' first
    | intro _
    | (simp only [*, inv_fst, inv1_mk, State.setRings_inv1]; done)
    | (rename_i heq; replace heq := congrArg Prod.fst heq; dsimp only at heq; subst heq)
    | split
    | with_reducible apply State.control_inv

theorem State.keepPanes_inv {s : State} {p : Nat} (hs : s.Inv K W) :
    (State.keepPanes s p).Inv K W := by
  unfold State.keepPanes
  repeat' first
    | (simp only [*, inv_ite, ite_self, State.setF_inv, State.unpend_inv])
    | with_reducible refine inv_foldl (fun _ _ _ => ?_) ?_

theorem execPin_inv {h : Ctl} {part : Nat} {on : Bool} {s : State} (hs : s.Inv K W) (hw : h.fn ≤ 16) :
    Good K W (execPin h part on s) := by
  unfold execPin
  simp (maxDischargeDepth := 100) +contextual only [inv_ite, inv1_mk, inv1_ite, ite_self, implies_true, hs, State.setF_inv, State.control_inv, State.keepPanes_inv, hw]

theorem execLogFlush_inv {h : Ctl} {s : State} (hs : s.Inv K W) (hw : h.fn ≤ 16) :
    Good K W (execLogFlush h s) := by
  unfold execLogFlush
  simp +contextual only [inv1_mk, implies_true, hs, State.logCopy_inv, State.control_inv, hw]

/-! ## PlanLoad -/

theorem inv_psec {s : State} {a} {b} (hs : s.Inv K W) : State.Inv K W { s with psec := tset PSec.init s.psec a b } := by
  refine ⟨hs.queue, fun k => { hs.canonical k with psec := ?_ }, fun k => ⟨(hs.fits k).1, (hs.fits k).2, (hs.fits k).3, (hs.fits k).4⟩⟩
  dsimp only [tmod]
  exact canon_tset (d := fun _ => PSec.init) (hs.canonical k).psec

theorem written_inv {p : State × MemRes} (h : Inv1 K W p) : Inv1 K W (writeDone p) := by
  obtain ⟨s, r⟩ := p
  cases r <;> exact h

theorem State.setMask_inv {s : State} {r : Reg} {c : Nat} {ns : List Nat} (hs : s.Inv K W) :
    (State.setMask s r c ns).Inv K W := by
  unfold State.setMask
  repeat' first
    | (simp only [*, State.wrReg_inv])
    | with_reducible refine inv_foldl (fun _ _ _ => ?_) ?_

theorem State.bindRegs_inv {s : State} {q : Plan} (hs : s.Inv K W) :
    (State.bindRegs s q).Inv K W := by
  unfold State.bindRegs
  repeat' first
    | (simp only [*, State.setFs_inv]; done)
    | with_reducible refine inv_foldl (fun _ _ _ => ?_) ?_

theorem State.bindCtxs_inv {s : State} {q : Plan} (hs : s.Inv K W) :
    (State.bindCtxs s q).Inv K W := by
  unfold State.bindCtxs
  repeat' first
    | (simp only [*, inv_ite, ite_self, State.setFs_inv, State.setMask_inv])
    | with_reducible refine inv_foldl (fun _ _ _ => ?_) ?_

theorem State.bindFabric_inv {s : State} {q : Plan} (hs : s.Inv K W) :
    (State.bindFabric s q).Inv K W := by
  unfold State.bindFabric
  repeat' first
    | (simp only [*, State.writeEntry_inv, State.writeFan_inv]; done)
    | with_reducible refine inv_foldl (fun _ _ _ => ?_) ?_

theorem State.bindPlan_inv {s : State} {k : Nat} {q : Plan} (hs : s.Inv K W) :
    (State.bindPlan s k q).Inv K W := by
  unfold State.bindPlan
  simp (maxDischargeDepth := 100) +contextual only [hs, State.setPlan_inv, State.bindRegs_inv, State.bindCtxs_inv, State.bindFabric_inv]

theorem State.unbind_inv {s : State} {q : Plan} (hs : s.Inv K W) :
    (State.unbind s q).Inv K W := by
  refine inv_foldl (fun _ _ h => State.wrReg_inv h) (inv_foldl (fun _ _ h =>
    State.setMask_inv (State.wrReg_inv (State.wrReg_inv h))) (inv_foldl (fun _ t h => ?_) (inv_foldl (fun _ _ h => State.setFs_inv h) hs)))
  split
  · exact State.setMask_inv (State.setSctx_inv (State.setFs_inv h))
  · exact State.setMask_inv (State.setTctx_inv (State.setF_inv h))

theorem State.saveRecord_inv1 {s : State} {a n i : Nat} {pg : List Byte} (hs : s.Inv K W) :
    Inv1 K W (State.saveRecord s a n i pg) := by
  exact written_inv (State.write_inv1 hs)

theorem State.saveRecord_inv {s : State} {a n i : Nat} {pg : List Byte} (hs : s.Inv K W) :
    (State.saveRecord s a n i pg).1.Inv K W := State.saveRecord_inv1 hs

theorem State.saveCore_inv1 {s : State} {q : Plan} {a : Nat} {sym : Syms} {x : Nat × Nat} (hs : s.Inv K W) :
    Inv1 K W (State.saveCore s q a sym x) := by
  unfold State.saveCore
  repeat' first
    | (simp only [inv_fst, inv1_mk, hs, State.read_inv1, State.saveRecord_inv1]; done)
    | (rename_i heq; replace heq := congrArg Prod.fst heq; dsimp only at heq; subst heq)
    | split

theorem State.saveCore_inv {s : State} {q : Plan} {a : Nat} {sym : Syms} {x : Nat × Nat} (hs : s.Inv K W) :
    (State.saveCore s q a sym x).1.Inv K W := State.saveCore_inv1 hs

theorem State.saveCores_inv1 {s : State} {q : Plan} {a : Nat} {sym : Syms} {l : List (Nat × Nat)} (hs : s.Inv K W) :
    Inv1 K W (State.saveCores s q a sym l) := by
  refine inv1_foldl (fun p x h => ?_) hs
  split
  · exact State.saveCore_inv1 h
  · exact h

theorem State.saveCores_inv {s : State} {q : Plan} {a : Nat} {sym : Syms} {l : List (Nat × Nat)} (hs : s.Inv K W) :
    (State.saveCores s q a sym l).1.Inv K W := State.saveCores_inv1 hs

theorem State.unready_inv {s : State} {k : Nat} (hs : s.Inv K W) :
    (State.unready s k).Inv K W := by
  unfold State.unready
  simp only [inv_mk, inv_ite, ite_self, hs, State.modPart_inv]

theorem State.evict_inv1 {s : State} {k a : Nat} {sym : Syms} (hs : s.Inv K W) :
    Inv1 K W (State.evict s k a sym) := by
  unfold State.evict
  repeat' first
    | (rename_i heq; replace heq := congrArg Prod.fst heq; dsimp only at heq; subst heq)
    | split
    | simp (maxDischargeDepth := 100) +contextual only [inv_fst, inv1_mk, hs, State.setPlan_inv, State.unbind_inv, State.unready_inv, State.saveCores_inv1]

theorem State.evict_inv {s : State} {k a : Nat} {sym : Syms} (hs : s.Inv K W) :
    (State.evict s k a sym).1.Inv K W := State.evict_inv1 hs

theorem State.evictAll_inv1 {s : State} {sym : Syms} {z0 : List Nat} {z1 : List Nat} (hs : s.Inv K W) :
    Inv1 K W (State.evictAll s sym z0 z1) := by
  induction z0 generalizing s z1 with
  | nil => exact hs
  | cons k t ih =>
    cases z1 with
    | nil => exact hs
    | cons a as =>
      unfold State.evictAll
      have h := State.evict_inv1 (k := k) (a := a) (sym := sym) hs
      split
      · next s1 heq =>
        rw [heq] at h
        exact h
      · next s1 heq =>
        rw [heq] at h
        exact ih h

theorem State.evictAll_inv {s : State} {sym : Syms} {z0 : List Nat} {z1 : List Nat} (hs : s.Inv K W) :
    (State.evictAll s sym z0 z1).1.Inv K W := State.evictAll_inv1 hs

theorem State.restoreCore_inv {s : State} {q : Plan} {sym : Syms} {x : Nat × Nat} (hs : s.Inv K W) :
    (State.restoreCore s q sym x).Inv K W := by
  unfold State.restoreCore
  repeat' first
    | (simp only [*, inv_fst, State.setLatch_inv, State.setSpad_inv, State.read_inv1]; done)
    | (rename_i heq; replace heq := congrArg Prod.fst heq; dsimp only at heq; subst heq)
    | split
    | with_reducible refine inv_foldl (fun _ _ _ => ?_) ?_
    | with_reducible apply State.setF_inv
    | with_reducible apply State.writeQ_inv

theorem State.restoreCores_inv {s : State} {q : Plan} {sym : Syms} {l : List (Nat × Nat)} (hs : s.Inv K W) :
    (State.restoreCores s q sym l).Inv K W := by
  exact inv_foldl (fun _ _ h => State.restoreCore_inv h) hs

theorem State.restore_inv1 {s : State} {p k : Nat} {areas : List Nat} {sym : Syms} (hs : s.Inv K W) :
    Inv1 K W (State.restore s p k areas sym) := by
  unfold State.restore
  repeat' first
    | (rename_i heq; replace heq := congrArg Prod.fst heq; dsimp only at heq; subst heq)
    | split
    | simp (maxDischargeDepth := 100) +contextual only [inv_fst, inv1_mk, hs, State.bindPlan_inv, State.restoreCores_inv, State.evictAll_inv1]

theorem State.restore_inv {s : State} {p k : Nat} {areas : List Nat} {sym : Syms} (hs : s.Inv K W) :
    (State.restore s p k areas sym).1.Inv K W := State.restore_inv1 hs

theorem State.fillPlan_inv {s : State} {g : Image} {x : Placing} {q : Plan} (hs : s.Inv K W) :
    (State.fillPlan s g x q).Inv K W := by
  exact inv_foldl (fun _ _ h => State.writeQ_inv h) (inv_foldl (fun _ _ h =>
    State.writeQ_inv (State.writeQ_inv (State.writeQ_inv h))) hs)

theorem State.assignRings_inv {s : State} {g : Image} {p k : Nat} {x : Placing} {q : Plan} (hs : s.Inv K W) :
    (State.assignRings s g p k x q).Inv K W := by
  exact inv_foldl (fun _ _ h => State.setRing_inv h) hs

theorem State.resident_inv {s : State} {g : Image} {p k : Nat} {x : Placing} {cores : List Nat} (hs : s.Inv K W) :
    (State.resident s g p k x cores).Inv K W := by
  exact State.setF_inv (State.assignRings_inv (State.fillPlan_inv (State.bindPlan_inv hs)))

theorem State.loadPlan_inv1 {s : State} {p : Nat} {g : Image} {x : Placing} (hs : s.Inv K W) :
    Inv1 K W (State.loadPlan s p g x) := by
  unfold State.loadPlan
  repeat' first
    | (simp only [inv_mk, inv_fst, inv1_mk, inv1_ite, hs, State.resident_inv, State.evictAll_inv1]; done)
    | (rename_i heq; replace heq := congrArg Prod.fst heq; dsimp only at heq; subst heq)
    | split

theorem State.loadPlan_inv {s : State} {p : Nat} {g : Image} {x : Placing} (hs : s.Inv K W) :
    (State.loadPlan s p g x).1.Inv K W := State.loadPlan_inv1 hs

theorem State.loadTaken_inv {s : State} {p : Nat} (hs : s.Inv K W) :
    (State.loadTaken s p).Inv K W := by
  unfold State.loadTaken
  simp only [hs, State.modPart_inv]

theorem execLoadPlan_inv {h : Ctl} {g : Image} {x : Placing} {s : State} (hs : s.Inv K W) (hw : h.fn ≤ 16) :
    Good K W (execLoadPlan h g x s) := by
  unfold execLoadPlan
  split
  · exact good_next.2 (State.modPart_inv hs)
  refine State.control_inv (by simp only [inv_ite, ite_self, State.loadTaken_inv, hs]) (fun s hs => ?_) hw
  extract_lets p r k
  split
  · exact hs
  have h := State.loadPlan_inv1 (p := p) (g := g) (x := x) hs
  split
  next s2 r2 heq =>
  rw [heq] at h
  split
  · exact h
  · exact State.putRecord_inv (inv_psec h)

theorem State.closeServing_inv {s : State} {p k : Nat} (hs : s.Inv K W) :
    (State.closeServing s p k).Inv K W := by
  unfold State.closeServing
  dsimp only
  split
  · exact hs
  refine State.setFs_inv ⟨hs.queue, fun k => { hs.canonical k with reqs := canon_filter _ (hs.canonical k).reqs, serves := ?_ },
    fun k => ⟨(hs.fits k).1, (hs.fits k).2, (hs.fits k).3, (hs.fits k).4⟩⟩
  exact canon_tset (d := fun _ => Serve.init) (hs.canonical k).serves

theorem State.wlLess_inv {s : State} {jamb : Nat} (hs : s.Inv K W) :
    (State.wlLess s jamb).Inv K W := by
  unfold State.wlLess
  simp only [hs, State.setF_inv]

theorem State.setQp_inv {s : State} {i : Nat} {x : Qp} (hs : s.Inv K W) :
    (State.setQp s i x).Inv K W := by
  exact ⟨hs.queue, fun k => { hs.canonical k with qps := canon_tset (d := fun _ => _) (hs.canonical k).qps },
    fun k => ⟨(hs.fits k).1, (hs.fits k).2, (hs.fits k).3, (hs.fits k).4⟩⟩

theorem State.dropReads_inv {s : State} {f : RRead → Bool} (hs : s.Inv K W) :
    (State.dropReads s f).Inv K W := by
  unfold State.dropReads
  repeat' first
    | (simp only [*, State.setQp_inv]; done)
    | with_reducible refine inv_foldl (fun _ _ _ => ?_) ?_

theorem State.dropWrites_inv {s : State} {f : Nat → Nat → Bool} (hs : s.Inv K W) :
    (State.dropWrites s f).Inv K W := by
  unfold State.dropWrites
  simp only [inv_mk, hs]

theorem State.dropLoads_inv {s : State} {k : Nat} (hs : s.Inv K W) :
    (State.dropLoads s k).Inv K W := by
  unfold State.dropLoads
  repeat' first
    | (simp only [*, State.answer_inv, State.wlLess_inv]; done)
    | with_reducible refine inv_foldl (fun _ _ _ => ?_) ?_
    | with_reducible apply State.dropReads_inv
    | with_reducible apply State.dropWrites_inv

theorem State.unload_inv {s : State} {k : Nat} (hs : s.Inv K W) :
    (State.unload s k).Inv K W := by
  unfold State.unload
  repeat' first
    | (simp only [*, inv_mk, inv_ite, State.setRing_inv, State.unbind_inv, State.dropLoads_inv]; done)
    | split
    | with_reducible refine inv_foldl (fun _ _ _ => ?_) ?_
    | with_reducible apply State.setF_inv
    | with_reducible apply State.setPlan_inv
    | with_reducible apply State.closeServing_inv
    | simp only [inv_mk, inv_ite]

theorem execUnloadPlan_inv {h : Ctl} {s : State} (hs : s.Inv K W) (hw : h.fn ≤ 16) :
    Good K W (execUnloadPlan h s) := by
  unfold execUnloadPlan
  repeat' first
    | intro _
    | (simp only [*, inv1_mk, inv1_ite, ite_self, State.unload_inv])
    | split
    | with_reducible apply State.control_inv

/-! ## Weights -/

theorem State.setRec_inv {s : State} {k r : Nat} {w : WRec} (hs : s.Inv K W) :
    (State.setRec s k r w).Inv K W := by
  unfold State.setRec
  simp only [hs, State.setPlan_inv]

theorem State.wlAnswer_inv {s : State} {h : Ctl} {result : Nat} {codes : List Byte} (hs : s.Inv K W) :
    (State.wlAnswer s h result codes).Inv K W := by
  unfold State.wlAnswer
  simp only [inv_fst, inv_ite, ite_self, hs, State.answer_inv, State.putRecord_inv1]

theorem State.wlFinish_inv {s : State} {k : Nat} (hs : s.Inv K W) :
    (State.wlFinish s k).Inv K W := by
  unfold State.wlFinish
  repeat' first
    | split
    | simp only [hs, State.setPlan_inv, State.wlAnswer_inv]

theorem State.wlFail_inv {s : State} {k r code : Nat} (hs : s.Inv K W) :
    (State.wlFail s k r code).Inv K W := by
  unfold State.wlFail
  repeat' first
    | (simp (maxDischargeDepth := 100) +contextual only [inv_ite, ite_self, hs, State.addF_inv, State.setPlan_inv, State.wlLess_inv, State.dropReads_inv, State.dropWrites_inv, State.setRec_inv, State.wlFinish_inv]; done)
    | split

theorem State.wlEnd_inv {s : State} {k r : Nat} (hs : s.Inv K W) :
    (State.wlEnd s k r).Inv K W := by
  unfold State.wlEnd
  repeat' first
    | (simp (maxDischargeDepth := 100) +contextual only [inv_ite, ite_self, hs, State.setRec_inv, State.wlLess_inv, State.wlFinish_inv, State.wlFail_inv]; done)
    | split

theorem State.wlHashed_inv {k r : Nat} {x : WRec} {p : State × MemRes} (hs : Inv1 K W p) : (State.wlHashed k r x p).Inv K W := by
  obtain ⟨s, c | bs⟩ := p
  · exact State.setRec_inv hs
  · exact State.wlFail_inv hs

theorem State.wlHashStep_inv {k r : Nat} {sym : Syms} {s : State} (hs : s.Inv K W) :
    (State.wlHashStep k r sym s).Inv K W := by
  unfold State.wlHashStep
  split
  · exact hs
  dsimp only
  split
  · exact hs
  exact State.wlHashed_inv (State.read_inv1 (State.markAt_inv hs))

theorem State.wlHash_inv {s : State} {k r n : Nat} {sym : Syms} (hs : s.Inv K W) :
    (State.wlHash s k r n sym).Inv K W := by
  exact inv_foldl (fun _ _ h => State.wlHashStep_inv h) hs

theorem State.sendBytes_inv {s : State} {p node a : Nat} {who : Requester} {bs : List Byte} {z0 : Nat} (hs : s.Inv K W) :
    (State.sendBytes s p node a who bs z0).Inv K W := by
  induction z0 generalizing s p node a who bs with
  | zero =>
    unfold State.sendBytes
    repeat' first
      | assumption
  | succ n_ ih =>
    unfold State.sendBytes
    repeat' first
      | (simp (maxDischargeDepth := 100) +contextual only [inv_fst, hs, State.inject_inv, State.newTag_inv1, ih]; done)
      | split

theorem State.wlSend_inv {k r n : Nat} {x : WRec} {p : State × MemRes} (hs : Inv1 K W p) : (State.wlSend k r x n p).Inv K W := by
  obtain ⟨s, c | bs⟩ := p
  · exact State.sendBytes_inv (State.setRec_inv hs)
  · exact State.wlFail_inv hs

theorem State.wlForwardStep_inv {k r : Nat} {sym : Syms} {s : State} (hs : s.Inv K W) :
    (State.wlForwardStep k r sym s).Inv K W := by
  unfold State.wlForwardStep
  split
  · exact hs
  dsimp only
  split
  · exact hs
  exact State.wlSend_inv (State.read_inv1 (State.markAt_inv hs))

theorem State.wlForward_inv {s : State} {k r n : Nat} {sym : Syms} (hs : s.Inv K W) :
    (State.wlForward s k r n sym).Inv K W := by
  exact inv_foldl (fun _ _ h => State.wlForwardStep_inv h) hs

theorem State.wlRun_inv {s : State} {k r : Nat} {sym : Syms} (hs : s.Inv K W) :
    (State.wlRun s k r sym).Inv K W := by
  unfold State.wlRun
  repeat' first
    | (simp (maxDischargeDepth := 100) +contextual only [hs, State.wlEnd_inv, State.wlHash_inv, State.wlForward_inv])
    | split

theorem State.issueRead_inv {i : Nat} {s : State} (hs : s.Inv K W) :
    (State.issueRead i s).Inv K W := by
  unfold State.issueRead
  repeat' first
    | split
    | simp only [inv_ite, hs, State.setQp_inv]

theorem State.issueReads_inv {s : State} (hs : s.Inv K W) :
    (State.issueReads s).Inv K W := by
  exact inv_foldl (fun _ _ h => inv_foldl (fun _ _ h => State.issueRead_inv h) h) hs

theorem State.ownWord_inv {s : State} {k r : Nat} {e : List Byte} (hs : s.Inv K W) :
    (State.ownWord s k r e).Inv K W := by
  unfold State.ownWord
  repeat' first
    | (rename_i heq; replace heq := congrArg Prod.fst heq; dsimp only at heq; subst heq)
    | split
    | simp (maxDischargeDepth := 100) +contextual only [inv_fst, hs, State.markAt_inv, State.wlFail_inv, State.write_inv1]

theorem State.mapStart_inv {s : State} {k : Nat} {e : List Byte} {sym : Syms} (hs : s.Inv K W) :
    (State.mapStart s k e sym).Inv K W := by
  unfold State.mapStart
  repeat' first
    | (simp (maxDischargeDepth := 100) +contextual only [inv_ite, ite_self, hs, State.addF_inv, State.wlLess_inv, State.dropReads_inv, State.dropWrites_inv, State.setRec_inv, State.wlRun_inv, State.issueReads_inv, State.ownWord_inv]; done)
    | split

theorem State.mapFail_inv {s : State} {k : Nat} {good : List (List Byte)} (hs : s.Inv K W) :
    (State.mapFail s k good).Inv K W := by
  unfold State.mapFail
  repeat' first
    | (simp only [*, inv_ite, ite_self, State.wlFail_inv])
    | with_reducible refine inv_foldl (fun _ _ _ => ?_) ?_

theorem State.mapRepair_inv {s : State} {k : Nat} {sym : Syms} {es : List (List Byte)} {e : List Byte} (hs : s.Inv K W) :
    (State.mapRepair s k sym es e).Inv K W := by
  unfold State.mapRepair
  repeat' first
    | split
    | simp only [inv_ite, hs, State.wlFail_inv, State.mapStart_inv]

theorem State.mapApply_inv {s : State} {h : Ctl} {k : Nat} {es : List (List Byte)} {sym : Syms} (hs : s.Inv K W) :
    (State.mapApply s h k es sym).Inv K W := by
  unfold State.mapApply
  repeat' first
    | (simp only [*, inv_ite, State.setPlan_inv, State.wlAnswer_inv, State.mapStart_inv, State.mapRepair_inv]; done)
    | split
    | with_reducible refine inv_foldl (fun _ _ _ => ?_) ?_
    | with_reducible apply State.wlFinish_inv
    | with_reducible apply State.mapFail_inv
    | simp only [inv_ite]

theorem State.startLoads_inv {s : State} {k : Nat} (hs : s.Inv K W) :
    (State.startLoads s k).Inv K W := by
  unfold State.startLoads
  repeat' first
    | (simp only [*, State.setPlan_inv, State.mapApply_inv]; done)
    | with_reducible refine inv_foldl (fun _ _ _ => ?_) ?_

theorem State.stepEnded_inv {s : State} {p : Nat} (hs : s.Inv K W) :
    (State.stepEnded s p).Inv K W := by
  unfold State.stepEnded
  repeat' first
    | (simp only [*, inv_ite, ite_self, State.startLoads_inv]; done)
    | split
    | with_reducible refine inv_foldl (fun _ _ _ => ?_) ?_

theorem execWeightLoad_inv {h : Ctl} {sym : Syms} {s : State} (hs : s.Inv K W) (hw : h.fn ≤ 16) :
    Good K W (execWeightLoad h sym s) := by
  unfold execWeightLoad
  repeat' first
    | intro _
    | (simp only [*, inv_fst, inv1_mk, inv1_ite, State.setPlan_inv, State.mapApply_inv, State.payload_inv1]; done)
    | (rename_i heq; replace heq := congrArg Prod.fst heq; dsimp only at heq; subst heq)
    | split
    | with_reducible apply State.control_inv
    | simp only []

theorem execQpConnect_inv {h : Ctl} {jamb qp : Nat} {ok : Bool} {s : State} (hs : s.Inv K W) (hw : h.fn ≤ 16) :
    Good K W (execQpConnect h jamb qp ok s) := by
  unfold execQpConnect
  simp (maxDischargeDepth := 100) +contextual only [inv1_mk, inv1_ite, ite_self, implies_true, hs, State.control_inv, State.setQp_inv, State.issueReads_inv, hw]

theorem State.setDir_inv {s : State} {k i st rank id len dig : Nat} (hs : s.Inv K W) :
    (State.setDir s k i st rank id len dig).Inv K W := by
  unfold State.setDir
  repeat' first
    | split
    | simp only [hs, State.writeQ_inv]

theorem State.readDirs_inv {s : State} {k : Nat} (hs : s.Inv K W) :
    (State.readDirs s k).Inv K W := by
  unfold State.readDirs
  repeat' first
    | (simp only [*, inv_fst, State.readR_inv1])
    | split
    | with_reducible refine inv_foldl (fun _ _ _ => ?_) ?_

theorem State.setLoadDir_inv {s : State} {k : Nat} {a : ALoad} (hs : s.Inv K W) :
    (State.setLoadDir s k a).Inv K W := by
  unfold State.setLoadDir
  simp only [inv_ite, ite_self, hs, State.setDir_inv]

theorem State.applyAdapters_inv {s : State} {k : Nat} (hs : s.Inv K W) :
    (State.applyAdapters s k).Inv K W := by
  unfold State.applyAdapters
  repeat' first
    | (simp only [*, State.setLoadDir_inv]; done)
    | with_reducible refine inv_foldl (fun _ _ _ => ?_) ?_
    | with_reducible apply State.setPlan_inv

theorem State.adaptersNow_inv {s : State} {k : Nat} (hs : s.Inv K W) :
    (State.adaptersNow s k).Inv K W := by
  unfold State.adaptersNow
  simp only [inv_ite, ite_self, hs, State.applyAdapters_inv]

theorem State.adapterEnd_inv {s : State} {k i code : Nat} (hs : s.Inv K W) :
    (State.adapterEnd s k i code).Inv K W := by
  unfold State.adapterEnd
  repeat' first
    | (simp (maxDischargeDepth := 100) +contextual only [inv_ite, ite_self, hs, State.addF_inv, State.setPlan_inv, State.answer_inv, State.wlLess_inv, State.dropReads_inv, State.adaptersNow_inv]; done)
    | split

theorem State.adapterHashed_inv {k i : Nat} {x : ALoad} {p : State × MemRes} (hs : Inv1 K W p) :
    (State.adapterHashed k i x p).Inv K W := by
  obtain ⟨s, c | bs⟩ := p
  · unfold State.adapterHashed
    dsimp only
    split
    · exact State.setPlan_inv hs
    · exact State.adapterEnd_inv (State.setPlan_inv hs)
  · exact State.adapterEnd_inv hs

theorem State.adapterHashStep_inv {k i : Nat} {sym : Syms} {s : State} (hs : s.Inv K W) :
    (State.adapterHashStep k i sym s).Inv K W := by
  unfold State.adapterHashStep
  dsimp only
  split
  · split
    · exact hs
    · exact State.adapterHashed_inv (State.read_inv1 (State.markAt_inv hs))
  · exact hs

theorem State.readDone_inv {s : State} {r : RRead} {sym : Syms} (hs : s.Inv K W) :
    (State.readDone s r sym).Inv K W := by
  unfold State.readDone
  repeat' first
    | (simp only [*, inv_ite, ite_self, State.setPlan_inv, State.setRec_inv, State.wlRun_inv, State.adapterHashStep_inv]; done)
    | split
    | with_reducible refine inv_foldl (fun _ _ _ => ?_) ?_
    | simp only []

theorem State.readFail_inv {s : State} {r : RRead} {code : Nat} (hs : s.Inv K W) :
    (State.readFail s r code).Inv K W := by
  unfold State.readFail
  repeat' first
    | (simp only [inv_ite, hs, State.wlFail_inv, State.adapterEnd_inv]; done)
    | split

theorem State.readGot_inv {i n : Nat} {r : RRead} {sym : Syms} {p : State × MemRes} (hs : Inv1 K W p) :
    (State.readGot i r n sym p).Inv K W := by
  obtain ⟨s, c | bs⟩ := p
  · unfold State.readGot
    dsimp only
    split
    · exact State.setQp_inv (State.addF_inv hs)
    · exact State.readDone_inv (State.setQp_inv (State.addF_inv hs))
  · exact State.readFail_inv hs

theorem execRdmaReadResponse_inv {jamb qp : Nat} {ecn : Bool} {data : List Byte} {sym : Syms} {s : State} (hs : s.Inv K W)
    (hw : jamb < 2) :
    Good K W (execRdmaReadResponse jamb qp ecn data sym s) := by
  unfold execRdmaReadResponse
  split
  · contradiction
  dsimp only
  split
  · exact good_next.2 hs
  split
  · exact good_next.2 (State.addF_inv hs)
  generalize ht : (if ecn = true then s.addF F.DMA_WLNET_CNP_SENT jamb 1 else s) = t
  have h : t.Inv K W := by
    rw [← ht]
    simp only [inv_ite, ite_self, State.addF_inv, hs]
  split
  · exact good_next.2 h
  split
  · exact good_next.2 h
  · exact good_next.2 (State.issueReads_inv (State.readGot_inv (State.write_inv1 (State.markAt_inv h))))

theorem State.recExhausted_inv {s : State} {jamb qp : Nat} {x : Nat × Nat} (hs : s.Inv K W) :
    (State.recExhausted s jamb qp x).Inv K W := by
  unfold State.recExhausted
  repeat' first
    | (simp only [inv_ite, ite_self, hs, State.setRec_inv, State.wlFail_inv])
    | split

theorem State.loadExhausted_inv {s : State} {jamb qp : Nat} {x : Nat × Nat} (hs : s.Inv K W) :
    (State.loadExhausted s jamb qp x).Inv K W := by
  unfold State.loadExhausted
  repeat' first
    | split
    | simp only [hs, State.setPlan_inv, State.adapterEnd_inv]

theorem execRdmaRetryExhausted_inv {jamb qp : Nat} {s : State} (hs : s.Inv K W) (hw : jamb < 2 ∧ qp < 256) :
    Good K W (execRdmaRetryExhausted jamb qp s) := by
  unfold execRdmaRetryExhausted
  repeat' first
    | (simp only [*, good_next, good_ite, and_self, State.addF_inv, State.setQp_inv, State.recExhausted_inv, State.loadExhausted_inv]; done)
    | contradiction
    | split
    | with_reducible refine inv_foldl (fun _ _ _ => ?_) ?_
    | with_reducible apply State.issueReads_inv
    | simp only [good_next]

theorem execInboundPacket_inv {jamb kind : Nat} {s : State} (hs : s.Inv K W) (hw : jamb < 2) :
    Good K W (execInboundPacket jamb kind s) := by
  unfold execInboundPacket
  repeat' first
    | (simp only [good_next, good_ite, ite_self, hs, State.addF_inv, hw]; done)
    | contradiction
    | split

theorem execChainPoll_inv {k r : Nat} {sym : Syms} {s : State} (hs : s.Inv K W) :
    Good K W (execChainPoll k r sym s) := by
  unfold execChainPoll
  repeat' first
    | (rename_i heq; replace heq := congrArg Prod.fst heq; dsimp only at heq; subst heq)
    | split
    | simp (maxDischargeDepth := 100) +contextual only [inv_fst, good_next, hs, State.markAt_inv, State.setRec_inv, State.wlRun_inv, State.read_inv1]

theorem execChainWordWrite_inv {k r : Nat} {sym : Syms} {s : State} (hs : s.Inv K W) :
    Good K W (execChainWordWrite k r sym s) := by
  unfold execChainWordWrite
  repeat' first
    | (simp (maxDischargeDepth := 100) +contextual only [good_next, good_ite, ite_self, hs, State.setRec_inv, State.sendBytes_inv, State.wlRun_inv]; done)
    | split

theorem execChainBreak_inv {k r : Nat} {s : State} (hs : s.Inv K W) :
    Good K W (execChainBreak k r s) := by
  unfold execChainBreak
  repeat' first
    | (simp (maxDischargeDepth := 100) +contextual only [good_next, good_ite, ite_self, hs, State.addF_inv, State.logEvent_inv, State.setRec_inv]; done)
    | split

theorem State.succGone_inv {s : State} {k r : Nat} (hs : s.Inv K W) :
    (State.succGone s k r).Inv K W := by
  unfold State.succGone
  repeat' first
    | (simp (maxDischargeDepth := 100) +contextual only [inv_ite, ite_self, hs, State.logEvent_inv, State.dropWrites_inv, State.setRec_inv, State.wlEnd_inv]; done)
    | split

theorem execSuccLost_inv {k r : Nat} {s : State} (hs : s.Inv K W) :
    Good K W (execSuccLost k r s) := by
  unfold execSuccLost
  repeat' first
    | (simp only [good_next, good_ite, ite_self, hs, State.succGone_inv])
    | split

theorem execChainRepairTimeout_inv {k r : Nat} {s : State} (hs : s.Inv K W) :
    Good K W (execChainRepairTimeout k r s) := by
  unfold execChainRepairTimeout
  repeat' first
    | (simp only [good_next, good_ite, ite_self, hs, State.wlFail_inv])
    | split

theorem State.setReq_inv {s : State} {i : Nat} {x : Req} (hs : s.Inv K W) :
    (State.setReq s i x).Inv K W := by
  exact ⟨hs.queue, fun k => { hs.canonical k with reqs := canon_tset (d := fun _ => _) (hs.canonical k).reqs },
    fun k => ⟨(hs.fits k).1, (hs.fits k).2, (hs.fits k).3, (hs.fits k).4⟩⟩

theorem State.useAdapter_inv {s : State} {k id : Nat} (hs : s.Inv K W) :
    (State.useAdapter s k id).Inv K W := by
  unfold State.useAdapter
  repeat' first
    | (simp only [hs, State.setPlan_inv]; done)
    | split

theorem execAdapterLoad_inv {h : Ctl} {id rank len expect : Nat} {e : List Byte} {s : State} (hs : s.Inv K W) (hw : h.fn ≤ 16) :
    Good K W (execAdapterLoad h id rank len expect e s) := by
  unfold execAdapterLoad
  repeat' first
    | intro _
    | (simp (maxDischargeDepth := 100) +contextual only [*, inv1_mk, inv1_ite, State.addF_inv, State.setPlan_inv, State.issueReads_inv, State.readDirs_inv, State.adaptersNow_inv]; done)
    | split
    | with_reducible apply State.control_inv
    | simp (maxDischargeDepth := 100) +contextual only []

theorem State.modServe_inv {s : State} {p : Nat} {f : Serve → Serve} (hs : s.Inv K W) :
    (State.modServe s p f).Inv K W := by
  exact ⟨hs.queue, fun k => { hs.canonical k with serves := canon_tset (d := fun _ => _) (hs.canonical k).serves },
    fun k => ⟨(hs.fits k).1, (hs.fits k).2, (hs.fits k).3, (hs.fits k).4⟩⟩

theorem State.serveSend_inv {s : State} {p node a : Nat} {bs : List Byte} (hs : s.Inv K W) :
    (State.serveSend s p node a bs).Inv K W := by
  unfold State.serveSend
  simp only [hs, State.sendBytes_inv, State.modServe_inv]

theorem State.sendHeads_inv {s : State} {p : Nat} (hs : s.Inv K W) :
    (State.sendHeads s p).Inv K W := by
  unfold State.sendHeads
  repeat' first
    | (simp only [*, inv_ite, State.modServe_inv, State.serveSend_inv]; done)
    | split
    | with_reducible refine inv_foldl (fun _ _ _ => ?_) ?_

theorem State.serveAck_inv {s : State} {p : Nat} (hs : s.Inv K W) :
    (State.serveAck s p).Inv K W := by
  unfold State.serveAck
  simp only [hs, State.modServe_inv, State.sendHeads_inv]

theorem State.redoRespond_inv {s : State} {k r off status : Nat} {data : List Byte} (hs : s.Inv K W) :
    (State.redoRespond s k r off status data).Inv K W := by
  unfold State.redoRespond
  repeat' first
    | (simp (maxDischargeDepth := 100) +contextual only [inv_fst, inv_ite, hs, State.markAt_inv, State.setRec_inv, State.wlFail_inv, State.write_inv1]; done)
    | (rename_i heq; replace heq := congrArg Prod.fst heq; dsimp only at heq; subst heq)
    | split

theorem State.wlRespond_inv {s : State} {k r seg status : Nat} (hs : s.Inv K W) :
    (State.wlRespond s k r seg status).Inv K W := by
  unfold State.wlRespond
  repeat' first
    | (simp only [inv_ite, ite_self, hs, State.setRec_inv, State.succGone_inv])
    | split

theorem State.respond_inv {s : State} {r : Requester} {status : Nat} {data : List Byte} (hs : s.Inv K W) :
    (State.respond s r status data).Inv K W := by
  unfold State.respond
  repeat' first
    | (simp only [inv_ite, ite_self, hs, State.coreFault_inv, State.putEntry_inv, State.arrivePiece_inv, State.dmaRespond_inv, State.rsRespond_inv, State.serveAck_inv, State.redoRespond_inv, State.wlRespond_inv])
    | split

theorem execMemResponse_inv {s : State} (hs : s.Inv K W) :
    Good K W (execMemResponse s) := by
  unfold execMemResponse
  repeat' first
    | split
    | simp only [inv_mk, good_next, hs, State.respond_inv]

/-! ## Ends -/

theorem execStepComplete_inv {p refWait : Nat} {losses : List (Nat × Nat)} {s : State} (hs : s.Inv K W) (hw : p < 16) :
    Good K W (execStepComplete p refWait losses s) := by
  unfold execStepComplete
  repeat' first
    | (simp only [good_next, good_ite, ite_self, hs, State.completeStep_inv, State.stepEnded_inv, hw]; done)
    | contradiction
    | split

theorem State.redoChain_inv {s : State} {p k r : Nat} {w : WRec} (hs : s.Inv K W) :
    (State.redoChain s p k r w).Inv K W := by
  unfold State.redoChain
  repeat' first
    | (simp only [*, inv_fst, inv_ite, State.inject_inv, State.setRec_inv, State.takeFree_inv1, State.newTag_inv1]; done)
    | (rename_i heq; replace heq := congrArg Prod.fst heq; dsimp only at heq; subst heq)
    | split
    | with_reducible refine inv_foldl (fun _ _ _ => ?_) ?_

theorem State.rereads_inv {s : State} {p : Nat} (hs : s.Inv K W) :
    (State.rereads s p).Inv K W := by
  unfold State.rereads
  repeat' first
    | (simp only [*, State.setPlan_inv, State.issueReads_inv, State.redoChain_inv]; done)
    | with_reducible refine inv_foldl (fun _ _ _ => ?_) ?_

theorem execQuietEnd_inv {p : Nat} {replay : Bool} {s : State} (hs : s.Inv K W) (hw : p < 16) :
    Good K W (execQuietEnd p replay s) := by
  unfold execQuietEnd
  repeat' first
    | (simp only [good_next, good_ite, inv_ite, ite_self, hs, State.endQuiet_inv, State.stepEnded_inv, State.rereads_inv, hw]; done)
    | contradiction
    | split

/-! ## Steps -/

theorem State.writeSlots_inv {s : State} {page : Nat} {z0 : List Nat} {z1 : List Byte} (hs : s.Inv K W) :
    (State.writeSlots s page z0 z1).Inv K W := by
  induction z0 generalizing s page z1 with
  | nil =>
    unfold State.writeSlots
    repeat' first
      | assumption
  | cons a_ l_ ih =>
    unfold State.writeSlots
    simp only [hs, State.writeQ_inv, ih]

theorem State.writeParams_inv {s : State} {q : Plan} {z0 : List (Nat × Nat)} {z1 : List Byte} (hs : s.Inv K W) :
    (State.writeParams s q z0 z1).Inv K W := by
  induction z0 generalizing s q z1 with
  | nil =>
    unfold State.writeParams
    repeat' first
      | assumption
  | cons a_ l_ ih =>
    unfold State.writeParams
    simp (maxDischargeDepth := 100) +contextual only [hs, State.setF_inv, State.writeSlots_inv, ih]

theorem State.planSettings_inv {s : State} {p : Nat} {q : Plan} (hs : s.Inv K W) :
    (State.planSettings s p q).Inv K W := by
  unfold State.planSettings
  repeat' first
    | (simp only [*, inv_ite, ite_self, State.setF_inv]; done)
    | with_reducible refine inv_foldl (fun _ _ _ => ?_) ?_
    | with_reducible apply State.setF_inv

theorem State.readInputs_inv1 {s : State} {q : Plan} {sym : Syms} {z0 : List OutBuf} (hs : s.Inv K W) :
    Inv1 K W (State.readInputs s q sym z0) := by
  induction z0 generalizing s q sym with
  | nil =>
    unfold State.readInputs
    repeat' first
      | assumption
  | cons a_ l_ ih =>
    unfold State.readInputs
    repeat' first
      | (simp only [inv_fst, inv1_mk, hs, State.read_inv1, ih]; done)
      | (rename_i heq; replace heq := congrArg Prod.fst heq; dsimp only at heq; subst heq)
      | split

theorem State.readInputs_inv {s : State} {q : Plan} {sym : Syms} {z0 : List OutBuf} (hs : s.Inv K W) :
    (State.readInputs s q sym z0).1.Inv K W := State.readInputs_inv1 hs

theorem State.digest_inv {s : State} {p : Nat} {sym : Syms} (hs : s.Inv K W) :
    (State.digest s p sym).Inv K W := by
  unfold State.digest
  repeat' first
    | (simp only [*, inv_fst, State.markAt_inv]; done)
    | with_reducible refine inv_foldl (fun _ _ _ => ?_) ?_
    | with_reducible apply State.setPlan_inv
    | with_reducible apply State.readInputs_inv1
    | simp only [inv_fst]

/-- The table of the serving state. -/
theorem inv_serves {s : State} {p : Nat} {f : Serve → Serve} (hs : s.Inv K W) :
    State.Inv K W { s with serves := tmod Serve.init s.serves p f } := by
  refine ⟨hs.queue, fun k => { hs.canonical k with serves := ?_ }, fun k => ⟨(hs.fits k).1, (hs.fits k).2, (hs.fits k).3, (hs.fits k).4⟩⟩
  exact canon_tset (d := fun _ => Serve.init) (hs.canonical k).serves

theorem State.readyStep_inv {s : State} {p : Nat} {sym : Syms} {r : StepReq} (hs : s.Inv K W) :
    (State.readyStep s p sym r).Inv K W := by
  unfold State.readyStep
  extract_lets s1 s2 s3 q s4 s5
  have h1 : s1.Inv K W := inv_serves hs
  have h3 : s3.Inv K W := State.applyAdapters_inv (State.modPart_inv h1)
  clear_value s3
  have h4 : s4.Inv K W := by
    dsimp only [s4]
    split
    · exact h3
    · exact State.writeParams_inv h3
  have h5 : s5.Inv K W := State.planSettings_inv h4
  clear_value s5
  split
  · exact State.arrive_inv (State.digest_inv h5)
  · exact h5

theorem State.refuseStep_inv {s : State} {p : Nat} {r : StepReq} {c : Nat} (hs : s.Inv K W) :
    (State.refuseStep s p r c).Inv K W := by
  unfold State.refuseStep
  simp only [inv_mk, hs, State.modPart_inv, State.reply_inv]

theorem State.prepare_inv {s : State} {p : Nat} {sym : Syms} {areas : List Nat} (hs : s.Inv K W) :
    (State.prepare s p sym areas).Inv K W := by
  unfold State.prepare
  repeat' first
    | (rename_i heq; replace heq := congrArg Prod.fst heq; dsimp only at heq; subst heq)
    | split
    | simp only [inv_mk, inv_fst, inv_ite, hs, State.readyStep_inv, State.refuseStep_inv, State.restore_inv1]

theorem execStep_inv {h : Ctl} {areas : List Nat} {sym : Syms} {s : State} (hs : s.Inv K W) (hw : h.fn ≤ 16) :
    Good K W (execStep h areas sym s) := by
  unfold execStep
  repeat' first
    | intro _
    | (simp only [*, inv_mk, inv_fst, inv1_mk, inv1_ite, State.prepare_inv, State.payload_inv1]; done)
    | (rename_i heq; replace heq := congrArg Prod.fst heq; dsimp only at heq; subst heq)
    | split
    | with_reducible apply State.control_inv

theorem State.refuseReady_inv {s : State} {p : Nat} (hs : s.Inv K W) :
    (State.refuseReady s p).Inv K W := by
  unfold State.refuseReady
  simp only [hs, State.modPart_inv, State.refuseStep_inv]

theorem execInputDigest_inv {p : Nat} {sym : Syms} {s : State} (hs : s.Inv K W) (hw : p < 16) :
    Good K W (execInputDigest p sym s) := by
  unfold execInputDigest
  repeat' first
    | (simp (maxDischargeDepth := 100) +contextual only [good_next, good_ite, ite_self, hs, State.arrive_inv, State.planSettings_inv, State.digest_inv, State.refuseReady_inv, hw]; done)
    | contradiction
    | split

theorem State.bareArrive_inv {s : State} {p : Nat} {sym : Syms} (hs : s.Inv K W) :
    (State.bareArrive s p sym).Inv K W := by
  unfold State.bareArrive
  simp (maxDischargeDepth := 100) +contextual only [inv_ite, ite_self, hs, State.modPart_inv, State.arrive_inv, State.planSettings_inv]

theorem execStartArrive_inv {p : Nat} {sym : Syms} {areas : List Nat} {cals : List (Nat × Nat × Cal × Cal)} {s : State} (hs : s.Inv K W) (hw : p < 16) :
    Good K W (execStartArrive p sym areas cals s) := by
  unfold execStartArrive
  repeat' first
    | (simp only [good_next, good_ite, inv_ite, ite_self, hs, State.stir_inv, State.recalibrate_inv, State.prepare_inv, State.bareArrive_inv, hw]; done)
    | contradiction
    | split

end Sys2Proof.Machine
end

