-- ==== Sys2Proof/Laws/InvServing.lean ====
section
/-! SUPPORT. Serving, MATRIX, VECTOR and the sampler keep the form of the state. -/

namespace Sys2Proof.Machine

variable {K : Prop} {W : List Instr}

/-! ## Serving -/

theorem execServeConfig_inv {h : Ctl} {s : State} (hs : s.Inv K W) (hw : h.fn ≤ 16) :
    Good K W (execServeConfig h s) := by
  unfold execServeConfig
  repeat' first
    | intro _
    | (simp only [*, inv_fst, inv1_mk, inv1_ite, ite_self, State.setF_inv, State.modServe_inv, State.payload_inv1]; done)
    | (rename_i heq; replace heq := congrArg Prod.fst heq; dsimp only at heq; subst heq)
    | split
    | with_reducible apply State.control_inv

theorem execSamplerConfig_inv {h : Ctl} {s : State} (hs : s.Inv K W) (hw : h.fn ≤ 16) :
    Good K W (execSamplerConfig h s) := by
  unfold execSamplerConfig
  repeat' first
    | intro _
    | (simp only [*, inv_fst, inv1_mk, inv1_ite, ite_self, State.modServe_inv, State.payload_inv1]; done)
    | (rename_i heq; replace heq := congrArg Prod.fst heq; dsimp only at heq; subst heq)
    | split
    | with_reducible apply State.control_inv

theorem State.applySmp_inv {s : State} {p : Nat} {valid : Bool} {c : List Byte} (hs : s.Inv K W) :
    (State.applySmp s p valid c).Inv K W := by
  unfold State.applySmp
  simp only [hs, State.setFs_inv]

theorem State.setCust_inv {s : State} {i : Nat} {x : Cust} (hs : s.Inv K W) :
    (State.setCust s i x).Inv K W := by
  exact ⟨hs.queue, fun k => { hs.canonical k with custs := canon_tset (d := fun _ => _) (hs.canonical k).custs },
    fun k => ⟨(hs.fits k).1, (hs.fits k).2, (hs.fits k).3, (hs.fits k).4⟩⟩

theorem execCustomerSet_inv {h : Ctl} {id : Nat} {s : State} (hs : s.Inv K W) (hw : h.fn ≤ 16) :
    Good K W (execCustomerSet h id s) := by
  unfold execCustomerSet
  repeat' first
    | intro _
    | (simp only [*, inv_fst, inv1_mk, inv1_ite, ite_self, State.modServe_inv, State.payload_inv1]; done)
    | (rename_i heq; replace heq := congrArg Prod.fst heq; dsimp only at heq; subst heq)
    | split
    | with_reducible apply State.control_inv

theorem State.applyCust_inv {s : State} {p : Nat} {x : Nat × List Byte} (hs : s.Inv K W) :
    (State.applyCust s p x).Inv K W := by
  unfold State.applyCust
  simp only [hs, State.setCust_inv]

theorem execPrioSet_inv {h : Ctl} {s : State} (hs : s.Inv K W) (hw : h.fn ≤ 16) :
    Good K W (execPrioSet h s) := by
  unfold execPrioSet
  repeat' first
    | intro _
    | (simp only [*, inv_fst, inv1_mk, inv1_ite, ite_self, State.modServe_inv, State.payload_inv1]; done)
    | (rename_i heq; replace heq := congrArg Prod.fst heq; dsimp only at heq; subst heq)
    | split
    | with_reducible apply State.control_inv

theorem execReqQuery_inv {h : Ctl} {tag : Nat} {s : State} (hs : s.Inv K W) (hw : h.fn ≤ 16) :
    Good K W (execReqQuery h tag s) := by
  unfold execReqQuery
  repeat' first
    | intro _
    | (simp only [*, inv_fst, inv1_mk, State.putRecord_inv1]; done)
    | (rename_i heq; replace heq := congrArg Prod.fst heq; dsimp only at heq; subst heq)
    | split
    | with_reducible apply State.control_inv

theorem State.refreshRqt_inv {s : State} {p : Nat} (hs : s.Inv K W) :
    (State.refreshRqt s p).Inv K W := by
  unfold State.refreshRqt
  simp only [hs, State.setFs_inv]

theorem State.dropReq_inv {s : State} {p i : Nat} (hs : s.Inv K W) :
    (State.dropReq s p i).Inv K W := by
  unfold State.dropReq
  simp only [hs, State.setReq_inv, State.modServe_inv]

theorem State.postCpl_inv {s : State} {p : Nat} {z0 : List (Nat × List Byte)} (hs : s.Inv K W) :
    (State.postCpl s p z0).Inv K W := by
  induction z0 generalizing s p with
  | nil =>
    unfold State.postCpl
    repeat' first
      | assumption
  | cons a_ l_ ih =>
    unfold State.postCpl
    simp only [inv_ite, ite_self, hs, State.ringPut_inv, State.modServe_inv, ih]

theorem State.complete_inv {s : State} {p k : Nat} {bs : List Byte} (hs : s.Inv K W) :
    (State.complete s p k bs).Inv K W := by
  unfold State.complete
  simp only [hs, State.modServe_inv, State.postCpl_inv]

theorem State.recomplete_inv {s : State} {p : Nat} (hs : s.Inv K W) :
    (State.recomplete s p).Inv K W := by
  unfold State.recomplete
  simp only [hs, State.modServe_inv, State.postCpl_inv]

theorem State.submitEntry_inv {s : State} {p : Nat} {e : List Byte} (hs : s.Inv K W) :
    (State.submitEntry s p e).Inv K W := by
  unfold State.submitEntry
  simp only [inv_ite, ite_self, hs, State.setReq_inv, State.modServe_inv, State.complete_inv]

theorem State.cancelEntry_inv {s : State} {p tb : Nat} {e : List Byte} (hs : s.Inv K W) :
    (State.cancelEntry s p tb e).Inv K W := by
  unfold State.cancelEntry
  repeat' first
    | split
    | simp (maxDischargeDepth := 100) +contextual only [hs, State.addF_inv, State.dropReq_inv, State.complete_inv]

theorem State.peekSub_inv1 {s : State} {k : Nat} (hs : s.Inv K W) :
    Inv1 K W (State.peekSub s k) := by
  unfold State.peekSub
  repeat' first
    | (rename_i heq; replace heq := congrArg Prod.fst heq; dsimp only at heq; subst heq)
    | split
    | simp only [inv_fst, inv1_mk, inv1_ite, hs, State.readR_inv1]

theorem State.peekSub_inv {s : State} {k : Nat} (hs : s.Inv K W) :
    (State.peekSub s k).1.Inv K W := State.peekSub_inv1 hs

theorem State.popSub_inv {s : State} {k : Nat} (hs : s.Inv K W) :
    (State.popSub s k).Inv K W := by
  unfold State.popSub
  simp only [hs, State.setRing_inv, State.ringWrite_inv]

theorem State.takeSub_inv {s : State} {p k tb : Nat} {e : List Byte} (hs : s.Inv K W) :
    (State.takeSub s p k tb e).Inv K W := by
  unfold State.takeSub
  simp only [inv_ite, ite_self, hs, State.submitEntry_inv, State.cancelEntry_inv, State.popSub_inv]

theorem State.takeRing_inv {s : State} {p k tb : Nat} {z0 : Nat} (hs : s.Inv K W) :
    (State.takeRing s p k tb z0).Inv K W := by
  induction z0 generalizing s p k with
  | zero =>
    unfold State.takeRing
    repeat' first
      | assumption
  | succ n_ ih =>
    unfold State.takeRing
    repeat' first
      | (simp (maxDischargeDepth := 100) +contextual only [inv_fst, hs, State.takeSub_inv, State.peekSub_inv1, ih])
      | (rename_i heq; replace heq := congrArg Prod.fst heq; dsimp only at heq; subst heq)
      | split

theorem State.takeRings_inv {s : State} {p tb : Nat} (hs : s.Inv K W) :
    (State.takeRings s p tb).Inv K W := by
  unfold State.takeRings
  repeat' first
    | (simp only [*, State.takeRing_inv])
    | with_reducible refine inv_foldl (fun _ _ _ => ?_) ?_

theorem State.subHead_inv {s : State} {k : Nat} {want : Nat → Bool} (hs : s.Inv K W) :
    (State.subHead s k want).Inv K W := by
  unfold State.subHead
  repeat' first
    | (simp (maxDischargeDepth := 100) +contextual only [inv_fst, inv_ite, ite_self, hs, State.refreshRqt_inv, State.takeSub_inv, State.peekSub_inv1]; done)
    | (rename_i heq; replace heq := congrArg Prod.fst heq; dsimp only at heq; subst heq)
    | split

theorem execSubmit_inv {k : Nat} {s : State} (hs : s.Inv K W) :
    Good K W (execSubmit k s) := by
  unfold execSubmit
  simp only [good_next, hs, State.subHead_inv]

theorem execCancel_inv {k : Nat} {s : State} (hs : s.Inv K W) :
    Good K W (execCancel k s) := by
  unfold execCancel
  simp only [good_next, hs, State.subHead_inv]

/-! ## Compose -/

theorem State.refillAll_inv {s : State} {p : Nat} (hs : s.Inv K W) :
    (State.refillAll s p).Inv K W := by
  unfold State.refillAll
  repeat' first
    | (simp only [*, State.setCust_inv])
    | with_reducible refine inv_foldl (fun _ _ _ => ?_) ?_

theorem State.takePick_inv {s : State} {p : Nat} {k : Pick} (hs : s.Inv K W) :
    (State.takePick s p k).Inv K W := by
  unfold State.takePick
  simp (maxDischargeDepth := 100) +contextual only [inv_ite, ite_self, hs, State.setReq_inv, State.useAdapter_inv, State.setCust_inv]

theorem State.copyPage_inv {s : State} {c : List Byte} {src dst : Nat} (hs : s.Inv K W) :
    (State.copyPage s c src dst).Inv K W := by
  unfold State.copyPage
  repeat' first
    | (simp only [inv_fst, hs, State.writeQ_inv, State.readR_inv1])
    | (rename_i heq; replace heq := congrArg Prod.fst heq; dsimp only at heq; subst heq)
    | split

theorem State.unspill_inv {s : State} {p : Nat} {c : List Byte} {i free moved : Nat} {z0 : List Nat} {z1 : List Nat} (hs : s.Inv K W) :
    (State.unspill s p c i free moved z0 z1).Inv K W := by
  induction z0 generalizing s p c i free moved z1 with
  | nil =>
    unfold State.unspill
    repeat' first
      | (simp only [hs, State.setReq_inv])
  | cons a_ l_ ih =>
    unfold State.unspill
    repeat' first
      | (simp only [inv_ite, hs, State.copyPage_inv, ih]; done)
      | split

theorem State.unspillReq_inv {s : State} {p : Nat} {c : List Byte} {i : Nat} (hs : s.Inv K W) :
    (State.unspillReq s p c i).Inv K W := by
  unfold State.unspillReq
  simp only [inv_ite, ite_self, hs, State.unspill_inv]

theorem State.otherNodes_inv1 {s : State} {c : List Byte} (hs : s.Inv K W) :
    Inv1 K W (State.otherNodes s c) := by
  unfold State.otherNodes
  repeat' first
    | (simp only [inv_fst, inv1_mk, inv1_ite, hs, State.readR_inv1]; done)
    | (rename_i heq; replace heq := congrArg Prod.fst heq; dsimp only at heq; subst heq)
    | split

theorem State.otherNodes_inv {s : State} {c : List Byte} (hs : s.Inv K W) :
    (State.otherNodes s c).1.Inv K W := State.otherNodes_inv1 hs

theorem State.writeAll_inv {s : State} {p : Nat} {base : Nat} {others : List (Nat × Nat)} {off : Nat} {bs : List Byte} (hs : s.Inv K W) :
    (State.writeAll s p base others off bs).Inv K W := by
  unfold State.writeAll
  repeat' first
    | (simp only [*, State.writeQ_inv, State.serveSend_inv])
    | with_reducible refine inv_foldl (fun _ _ _ => ?_) ?_

theorem State.writeHead_inv {s : State} {p : Nat} {base : Nat} {others : List (Nat × Nat)} {off : Nat} {bs : List Byte} (hs : s.Inv K W) :
    (State.writeHead s p base others off bs).Inv K W := by
  unfold State.writeHead
  simp (maxDischargeDepth := 100) +contextual only [hs, State.writeQ_inv, State.modServe_inv, State.sendHeads_inv]

theorem State.writeTables_inv {s : State} {p : Nat} {c : List Byte} {others : List (Nat × Nat × Nat)} (hs : s.Inv K W) :
    (State.writeTables s p c others).Inv K W := by
  unfold State.writeTables
  repeat' first
    | (simp only [*, inv_ite, ite_self, State.writeAll_inv]; done)
    | with_reducible refine inv_foldl (fun _ _ _ => ?_) ?_

theorem State.launch_inv {s : State} {p : Nat} {c : List Byte} {x : Comp} {areas : List Nat} {others : List (Nat × Nat × Nat)} (hs : s.Inv K W) :
    (State.launch s p c x areas others).Inv K W := by
  unfold State.launch
  simp (maxDischargeDepth := 100) +contextual only [inv_mk, hs, State.setFs_inv, State.modServe_inv, State.prepare_inv, State.writeAll_inv, State.writeHead_inv, State.writeTables_inv]

theorem State.evictReq_inv {s : State} {p i t : Nat} (hs : s.Inv K W) :
    (State.evictReq s p i t).Inv K W := by
  unfold State.evictReq
  simp (maxDischargeDepth := 100) +contextual only [hs, State.addF_inv, State.dropReq_inv, State.complete_inv]

theorem State.compose_inv {s : State} {p t : Nat} {areas : List Nat} {others : List (Nat × Nat × Nat)} {z0 : Nat} (hs : s.Inv K W) :
    (State.compose s p t areas others z0).Inv K W := by
  induction z0 generalizing s p t areas with
  | zero =>
    unfold State.compose
    repeat' first
      | assumption
  | succ n_ ih =>
    unfold State.compose
    repeat' first
      | (simp only [*, inv_ite, State.addF_inv, State.setReq_inv, State.takePick_inv, State.unspillReq_inv, State.evictReq_inv]; done)
      | split
      | with_reducible refine inv_foldl (fun _ _ _ => ?_) ?_
      | with_reducible apply State.launch_inv
      | simp only [inv_ite, hs, State.evictReq_inv, ih]

/-! ## Matrix -/

theorem Core.streamRow_fits {k : Core} {t af as c r a b} (h : k.Fits) : (k.streamRow t af as c r a b).1.Fits := by
  unfold Core.streamRow
  suffices ∀ l : List Nat, ∀ p : Core × Nat, p.1.Fits → (l.foldl _ p).1.Fits from this _ (k, 0) h
  intro l
  induction l with
  | nil => exact fun p h => h
  | cons x l ih => exact fun p h => ih _ ⟨h.1, h.2, h.3, h.4, h.5, h.6, h.7, h.8⟩

theorem fits_foldl {α : Type} {f : Core × Nat → α → Core × Nat} {p : Core × Nat} {l : List α} (hf : ∀ p x, p.1.Fits → (f p x).1.Fits)
    (h : p.1.Fits) : (l.foldl f p).1.Fits := by
  induction l generalizing p with
  | nil => exact h
  | cons x l ih => exact ih (hf p x h)

theorem State.raiseM_inv {s : State} {n fl : Nat} (hs : s.Inv K W) :
    (State.raiseM s n fl).Inv K W := by
  unfold State.raiseM
  simp only [hs, State.wrReg_inv]

theorem State.raiseV_inv {s : State} {n fl : Nat} (hs : s.Inv K W) :
    (State.raiseV s n fl).Inv K W := by
  unfold State.raiseV
  simp only [hs, State.wrReg_inv]

theorem execMmWload_inv {core : Nat} {s : State} (hs : s.Inv K W) (hw : unitOk core 1 = true) :
    Good K W (execMmWload core s) := by
  unfold execMmWload
  repeat' first
    | (simp (maxDischargeDepth := 100) +contextual only [good_next, good_ite, fits_mk, implies_true, hs, State.modCore_inv, State.runHead_inv, State.markStarted_inv, hw]; done)
    | contradiction
    | split

theorem execMmStream_inv {core : Nat} {s : State} (hs : s.Inv K W) (hw : unitOk core 1 = true) :
    Good K W (execMmStream core s) := by
  unfold execMmStream
  split
  · contradiction
  refine State.runHead_inv hs fun s e hs => ?_
  dsimp only
  split
  · exact good_next.2 (State.coreFault_inv hs)
  split
  · exact good_next.2 (State.coreFault_inv hs)
  refine good_next.2 (State.markStarted_inv (State.raiseM_inv (State.setCore_inv hs fun k => ?_)))
  have h := hs.core core k
  exact fits_foldl (fun _ _ h => Core.streamRow_fits h) ⟨h.1, h.2, h.3, h.4, h.5, h.6, h.7, h.8⟩

theorem execMmDrain_inv {core : Nat} {s : State} (hs : s.Inv K W) (hw : unitOk core 1 = true) :
    Good K W (execMmDrain core s) := by
  unfold execMmDrain
  repeat' first
    | intro _
    | (simp only [*, inv_fst, good_next, good_ite, inv1_mk, State.setSpad_inv]; done)
    | contradiction
    | split
    | with_reducible refine inv1_foldl (fun _ _ _ => ?_) ?_
    | with_reducible apply State.runHead_inv
    | with_reducible apply State.markStarted_inv
    | with_reducible apply State.raiseM_inv
    | simp only [inv_fst, good_next]

/-! ## Vector -/

theorem State.putElem_inv {s : State} {n f : Nat} {d : Desc} {x : Nat × (Nat × Nat × Nat)} {code : Nat} (hs : s.Inv K W) :
    (State.putElem s n f d x code).Inv K W := by
  unfold State.putElem
  simp only [hs, State.setSpad_inv]

theorem State.elementwise_inv {s : State} {n e : Nat} {walk : List (Nat × (Nat × Nat × Nat))} {f : State → Nat → (Nat × (Nat × Nat × Nat)) → Flagged} {put : State → (Nat × (Nat × Nat × Nat)) → Nat → State} (hs : s.Inv K W) (hf : ∀ s x n, s.Inv K W → (put s x n).Inv K W) :
    (State.elementwise s n e walk f put).Inv K W := by
  unfold State.elementwise
  repeat' first
    | (simp only [*, inv_fst, inv1_mk]; done)
    | with_reducible refine inv_foldl (fun _ _ _ => ?_) ?_
    | with_reducible refine inv1_foldl (fun _ _ _ => ?_) ?_
    | with_reducible apply State.raiseV_inv
    | simp only [inv_fst, inv1_mk]

theorem execVeBinary_inv {core : Nat} {s : State} (hs : s.Inv K W) (hw : unitOk core 2 = true) :
    Good K W (execVeBinary core s) := by
  unfold execVeBinary
  repeat' first
    | (simp (maxDischargeDepth := 100) +contextual only [good_next, good_ite, implies_true, hs, State.runHead_inv, State.markStarted_inv, State.putElem_inv, State.elementwise_inv, hw]; done)
    | contradiction
    | split

theorem execVeUnary_inv {core : Nat} {s : State} (hs : s.Inv K W) (hw : unitOk core 2 = true) :
    Good K W (execVeUnary core s) := by
  unfold execVeUnary
  repeat' first
    | (simp (maxDischargeDepth := 100) +contextual only [good_next, good_ite, implies_true, hs, State.runHead_inv, State.markStarted_inv, State.putElem_inv, State.elementwise_inv, hw]; done)
    | contradiction
    | split

theorem State.rowwise_inv {s : State} {n e d0 : Nat} {rows : List (Nat × Nat × Nat)} {walk : List (Nat × (Nat × Nat × Nat))} {rd : State → (Nat × (Nat × Nat × Nat)) → Flagged} {emit : State → (Nat × Nat × Nat) → List Nat → State × Nat} (hs : s.Inv K W) (hf : ∀ s x n, s.Inv K W → Inv1 K W (emit s x n)) :
    (State.rowwise s n e d0 rows walk rd emit).Inv K W := by
  unfold State.rowwise
  repeat' first
    | (simp only [*, inv_fst, inv1_mk]; done)
    | with_reducible refine inv1_foldl (fun _ _ _ => ?_) ?_
    | with_reducible apply State.raiseV_inv
    | simp only [inv_fst, inv1_mk]

theorem execVeRreduce_inv {core : Nat} {s : State} (hs : s.Inv K W) (hw : unitOk core 2 = true) :
    Good K W (execVeRreduce core s) := by
  unfold execVeRreduce
  repeat' first
    | (simp (maxDischargeDepth := 100) +contextual only [good_next, good_ite, inv1_mk, implies_true, hs, State.runHead_inv, State.markStarted_inv, State.putElem_inv, State.rowwise_inv, hw]; done)
    | contradiction
    | split

theorem State.oreduce_inv {s : State} {n : Nat} {sh : Shape} {a b : Desc} {res : List Nat → NodeRes} (hs : s.Inv K W) :
    (State.oreduce s n sh a b res).Inv K W := by
  unfold State.oreduce
  repeat' first
    | (simp only [*, inv_fst, inv1_mk, State.setSpad_inv]; done)
    | with_reducible refine inv_foldl (fun _ _ _ => ?_) ?_
    | with_reducible refine inv1_foldl (fun _ _ _ => ?_) ?_
    | with_reducible apply State.raiseV_inv
    | simp only [inv_fst, inv1_mk]

theorem execVeOreduce_inv {core : Nat} {s : State} (hs : s.Inv K W) (hw : unitOk core 2 = true) :
    Good K W (execVeOreduce core s) := by
  unfold execVeOreduce
  repeat' first
    | intro _
    | (simp only [*, good_next, good_ite, State.coreFault_inv, State.markStarted_inv, State.raiseV_inv, State.oreduce_inv]; done)
    | contradiction
    | split
    | with_reducible apply State.runHead_inv
    | simp only [good_next, good_ite]

theorem execVeCmp_inv {core : Nat} {s : State} (hs : s.Inv K W) (hw : unitOk core 2 = true) :
    Good K W (execVeCmp core s) := by
  unfold execVeCmp
  repeat' first
    | (simp +contextual only [good_next, good_ite, implies_true, hs, State.putEntry_inv, State.runHead_inv, hw]; done)
    | contradiction
    | split

theorem execVeTopk_inv {core : Nat} {s : State} (hs : s.Inv K W) (hw : unitOk core 2 = true) :
    Good K W (execVeTopk core s) := by
  unfold execVeTopk
  repeat' first
    | (simp (maxDischargeDepth := 100) +contextual only [good_next, good_ite, inv1_mk, implies_true, hs, State.setSpad_inv, State.runHead_inv, State.markStarted_inv, State.rowwise_inv, hw]; done)
    | contradiction
    | split

theorem execVeTranspose_inv {core : Nat} {s : State} (hs : s.Inv K W) (hw : unitOk core 2 = true) :
    Good K W (execVeTranspose core s) := by
  unfold execVeTranspose
  repeat' first
    | (simp (maxDischargeDepth := 100) +contextual only [good_next, good_ite, implies_true, hs, State.runHead_inv, State.markStarted_inv, State.putElem_inv, State.elementwise_inv, hw]; done)
    | contradiction
    | split

/-! ## Sampler -/

theorem State.readOpt_inv1 {s : State} {a n : Nat} {sym : Syms} (hs : s.Inv K W) :
    Inv1 K W (State.readOpt s a n sym) := by
  unfold State.readOpt
  repeat' first
    | (simp only [inv_fst, inv1_mk, hs, State.read_inv1]; done)
    | (rename_i heq; replace heq := congrArg Prod.fst heq; dsimp only at heq; subst heq)
    | split

theorem State.readOpt_inv {s : State} {a n : Nat} {sym : Syms} (hs : s.Inv K W) :
    (State.readOpt s a n sym).1.Inv K W := State.readOpt_inv1 hs

theorem State.readList_inv1 {s : State} {sym : Syms} {z0 : List (Nat × Nat)} (hs : s.Inv K W) :
    Inv1 K W (State.readList s sym z0) := by
  induction z0 generalizing s with
  | nil =>
    unfold State.readList
    repeat' first
      | assumption
  | cons a_ l_ ih =>
    unfold State.readList
    repeat' first
      | (simp only [inv_fst, inv1_mk, hs, State.readOpt_inv1, ih]; done)
      | (rename_i heq; replace heq := congrArg Prod.fst heq; dsimp only at heq; subst heq)
      | split

theorem State.readList_inv {s : State} {sym : Syms} {z0 : List (Nat × Nat)} (hs : s.Inv K W) :
    (State.readList s sym z0).1.Inv K W := State.readList_inv1 hs

theorem State.readSet_inv1 {s : State} {p i : Nat} {sym : Syms} (hs : s.Inv K W) :
    Inv1 K W (State.readSet s p i sym) := by
  unfold State.readSet
  repeat' first
    | (rename_i heq; replace heq := congrArg Prod.fst heq; dsimp only at heq; subst heq)
    | split
    | simp only [inv_fst, inv1_mk, inv1_ite, hs, State.readOpt_inv1, State.readList_inv1]

theorem State.readSet_inv {s : State} {p i : Nat} {sym : Syms} (hs : s.Inv K W) :
    (State.readSet s p i sym).1.Inv K W := State.readSet_inv1 hs

theorem State.readTokens_inv1 {s : State} {p : Nat} {r : Req} {lo hi : Nat} {sym : Syms} (hs : s.Inv K W) :
    Inv1 K W (State.readTokens s p r lo hi sym) := by
  unfold State.readTokens
  repeat' first
    | (simp only [inv_fst, inv1_mk, hs, State.readList_inv1]; done)
    | (rename_i heq; replace heq := congrArg Prod.fst heq; dsimp only at heq; subst heq)
    | split

theorem State.readTokens_inv {s : State} {p : Nat} {r : Req} {lo hi : Nat} {sym : Syms} (hs : s.Inv K W) :
    (State.readTokens s p r lo hi sym).1.Inv K W := State.readTokens_inv1 hs

theorem State.setBusy_inv {s : State} (hs : s.Inv K W) :
    (State.setBusy s).Inv K W := by
  unfold State.setBusy
  simp only [hs, State.setFs_inv]

theorem State.sampleFailed_inv {s : State} {p : Nat} (hs : s.Inv K W) :
    (State.sampleFailed s p).Inv K W := by
  unfold State.sampleFailed
  simp (maxDischargeDepth := 100) +contextual only [hs, State.addF_inv, State.modServe_inv, State.setBusy_inv]

theorem State.sampleOut_inv {s : State} {p k : Nat} {r : Row} {g : PSet} {ok : Bool} {bad : Nat} {d : Nat × Nat × Bool} {stop : Option Nat} (hs : s.Inv K W) :
    (State.sampleOut s p k r g ok bad d stop).Inv K W := by
  unfold State.sampleOut
  simp (maxDischargeDepth := 100) +contextual only [hs, State.setF_inv, State.addF_inv, State.modServe_inv, State.setBusy_inv]

theorem State.sampleRow_inv {s : State} {p : Nat} {sym : Syms} {r : Row} (hs : s.Inv K W) :
    (State.sampleRow s p sym r).Inv K W := by
  unfold State.sampleRow
  repeat' first
    | (rename_i heq; replace heq := congrArg Prod.fst heq; dsimp only at heq; subst heq)
    | split
    | simp (maxDischargeDepth := 100) +contextual only [inv_fst, hs, State.sampleFailed_inv, State.sampleOut_inv, State.takeFree_inv1, State.readOpt_inv1, State.readSet_inv1, State.readTokens_inv1]

theorem execSampleRow_inv {p lane : Nat} {sym : Syms} {s : State} (hs : s.Inv K W) (hw : p < 16) :
    Good K W (execSampleRow p lane sym s) := by
  unfold execSampleRow
  repeat' first
    | (simp only [good_next, good_ite, ite_self, hs, State.sampleRow_inv, hw]; done)
    | contradiction
    | split

/-! ## Boundary -/

theorem State.refundRow_inv {s : State} {p : Nat} {r : Row} (hs : s.Inv K W) :
    (State.refundRow s p r).Inv K W := by
  unfold State.refundRow
  simp only [inv_ite, ite_self, hs, State.setCust_inv]

theorem State.deliverToken_inv {s : State} {p t : Nat} {r : Row} {o : SOut} (hs : s.Inv K W) :
    (State.deliverToken s p t r o).Inv K W := by
  unfold State.deliverToken
  simp (maxDischargeDepth := 100) +contextual only [inv_ite, ite_self, hs, State.addF_inv, State.writeQ_inv, State.setReq_inv, State.dropReq_inv, State.complete_inv]

theorem State.finishRow_inv {s : State} {p t : Nat} {r : Row} (hs : s.Inv K W) :
    (State.finishRow s p t r).Inv K W := by
  unfold State.finishRow
  repeat' first
    | split
    | simp only [hs, State.setReq_inv, State.deliverToken_inv]

theorem State.applyCfg_inv {s : State} {p : Nat} (hs : s.Inv K W) :
    (State.applyCfg s p).Inv K W := by
  unfold State.applyCfg
  repeat' first
    | (simp only [hs, State.setFs_inv, State.modServe_inv]; done)
    | split

theorem State.applyNewSmp_inv {s : State} {p : Nat} (hs : s.Inv K W) :
    (State.applyNewSmp s p).Inv K W := by
  unfold State.applyNewSmp
  repeat' first
    | (simp only [hs, State.modServe_inv, State.applySmp_inv])
    | split

theorem State.applyCusts_inv {s : State} {p : Nat} (hs : s.Inv K W) :
    (State.applyCusts s p).Inv K W := by
  unfold State.applyCusts
  repeat' first
    | (simp only [*, State.setF_inv, State.applyCust_inv]; done)
    | split
    | with_reducible refine inv_foldl (fun _ _ _ => ?_) ?_
    | with_reducible apply State.modServe_inv

theorem State.applyMoves_inv {s : State} {p : Nat} (hs : s.Inv K W) :
    (State.applyMoves s p).Inv K W := by
  unfold State.applyMoves
  repeat' first
    | (simp only [*, State.setReq_inv]; done)
    | with_reducible refine inv_foldl (fun _ _ _ => ?_) ?_

theorem State.rePrefill_inv {s : State} {p t : Nat} (hs : s.Inv K W) :
    (State.rePrefill s p t).Inv K W := by
  unfold State.rePrefill
  repeat' first
    | (simp only [*, inv_ite, ite_self, State.setReq_inv, State.evictReq_inv]; done)
    | with_reducible refine inv_foldl (fun _ _ _ => ?_) ?_

theorem State.endStep_inv {s : State} {p t : Nat} (hs : s.Inv K W) :
    (State.endStep s p t).Inv K W := by
  unfold State.endStep
  repeat' first
    | (simp only [*, inv_ite, State.setF_inv, State.takeRings_inv, State.refundRow_inv, State.finishRow_inv]; done)
    | split
    | with_reducible refine inv_foldl (fun _ _ _ => ?_) ?_
    | with_reducible apply State.modServe_inv
    | with_reducible apply State.takeRings_inv

theorem State.composerBoundary_inv {s : State} {p : Nat} {redo : Bool} {areas : List Nat} (hs : s.Inv K W) :
    (State.composerBoundary s p redo areas).Inv K W := by
  unfold State.composerBoundary
  simp (maxDischargeDepth := 100) +contextual only [inv_fst, inv_ite, ite_self, hs, State.readDirs_inv, State.applyAdapters_inv, State.refreshRqt_inv, State.recomplete_inv, State.refillAll_inv, State.writeTables_inv, State.compose_inv, State.applyCfg_inv, State.applyNewSmp_inv, State.applyCusts_inv, State.applyMoves_inv, State.rePrefill_inv, State.endStep_inv, State.otherNodes_inv1]

theorem State.rechargeRow_inv {s : State} {p : Nat} {r : Row} (hs : s.Inv K W) :
    (State.rechargeRow s p r).Inv K W := by
  unfold State.rechargeRow
  simp only [inv_ite, ite_self, hs, State.setCust_inv]

theorem State.replayBoundary_inv {s : State} {p : Nat} (hs : s.Inv K W) :
    (State.replayBoundary s p).Inv K W := by
  unfold State.replayBoundary
  extract_lets s1 s2 s3
  have h1 : s1.Inv K W := inv_foldl (fun _ _ h => State.refundRow_inv h) (State.recomplete_inv hs)
  clear_value s1
  have h2 : s2.Inv K W := State.takeRings_inv (State.modServe_inv h1)
  clear_value s2
  have h3 : s3.Inv K W := State.refillAll_inv (State.applyMoves_inv (State.applyCusts_inv (State.applyNewSmp_inv (State.applyCfg_inv h2))))
  clear_value s3
  split
  next s4 others h4 =>
  replace h4 := congrArg Prod.fst h4
  dsimp only at h4
  subst h4
  exact State.refreshRqt_inv (inv_foldl (fun _ _ h => State.rechargeRow_inv h) (State.writeTables_inv (State.otherNodes_inv h3)))

theorem State.otherBoundary_inv {s : State} {p : Nat} {areas : List Nat} (hs : s.Inv K W) :
    (State.otherBoundary s p areas).Inv K W := by
  unfold State.otherBoundary
  repeat' first
    | (rename_i heq; replace heq := congrArg Prod.fst heq; dsimp only at heq; subst heq)
    | split
    | simp (maxDischargeDepth := 100) +contextual only [inv_mk, inv_fst, inv_ite, hs, State.setF_inv, State.prepare_inv, State.applyCfg_inv, State.applyNewSmp_inv, State.applyCusts_inv, State.readR_inv1]

theorem execServingBoundary_inv {p : Nat} {redo : Bool} {areas : List Nat} {s : State} (hs : s.Inv K W) (hw : p < 16) :
    Good K W (execServingBoundary p redo areas s) := by
  unfold execServingBoundary
  repeat' first
    | (simp only [good_next, good_ite, inv_ite, ite_self, hs, State.takeRings_inv, State.composerBoundary_inv, State.replayBoundary_inv, State.otherBoundary_inv, hw]; done)
    | contradiction
    | split

theorem execSpill_inv {p ent : Nat} {s : State} (hs : s.Inv K W) (hw : p < 16) :
    Good K W (execSpill p ent s) := by
  unfold execSpill
  repeat' first
    | (simp only [*, good_next, good_ite, State.copyPage_inv]; done)
    | contradiction
    | split
    | with_reducible refine inv_foldl (fun _ _ _ => ?_) ?_
    | with_reducible apply State.setReq_inv
    | with_reducible apply State.refreshRqt_inv
    | simp only [good_next, good_ite, hs]

end Sys2Proof.Machine
end

