-- ==== Sys2Proof/Laws/InvBoot.lean ====
section
/-! SUPPORT. Firmware, start-up, security and the scrub keep the form of the state. -/

namespace Sys2Proof.Machine

variable {K : Prop} {W : List Instr}

/-! ## Firmware -/

theorem State.fwRefuse_inv {s : State} {code : Nat} (hs : s.Inv K W) :
    (State.fwRefuse s code).Inv K W := by
  unfold State.fwRefuse
  simp only [hs, State.setF_inv, State.addF_inv]

theorem State.fwStart_inv {s : State} {svn iface digest slot : Nat} (hs : s.Inv K W) :
    (State.fwStart s svn iface digest slot).Inv K W := by
  unfold State.fwStart
  refine State.setF_inv (State.setFs_inv ⟨hs.queue, fun k => ?_, fun k => ⟨(hs.fits k).1, (hs.fits k).2, (hs.fits k).3, (hs.fits k).4⟩⟩)
  have c := hs.canonical k
  constructor
  case fwin => exact c.fwrun
  case fwrun => exact c.fwin
  all_goals (cases c; assumption)

theorem State.logReason_inv {s : State} (hs : s.Inv K W) :
    (State.logReason s).Inv K W := by
  unfold State.logReason
  simp only [inv_fst, hs, State.logEvent_inv, State.takeFree_inv1]

theorem execFwload_inv {v : Word64} {sigOk : Bool} {s : State} (hs : s.Inv K W) :
    Good K W (execFwload v sigOk s) := by
  unfold execFwload
  simp only [good_next, good_ite, ite_self, hs, State.setF_inv, State.setFs_inv, State.fwRefuse_inv, State.fwStart_inv, State.logReason_inv]

theorem State.oldSlot_inv {s : State} (hs : s.Inv K W) :
    (State.oldSlot s).Inv K W := by
  unfold State.oldSlot
  simp only [inv_mk, hs, State.setFs_inv, State.dropLocks_inv]

theorem State.abandonUpdate_inv {s : State} (hs : s.Inv K W) :
    (State.abandonUpdate s).Inv K W := by
  unfold State.abandonUpdate
  repeat' first
    | (simp only [hs, State.answer_inv, State.oldSlot_inv])
    | split

theorem State.updateStage_inv {s : State} {u : Upd} {good : Bool} (hs : s.Inv K W) :
    (State.updateStage s u good).Inv K W := by
  unfold State.updateStage
  simp (maxDischargeDepth := 100) +contextual only [inv_mk, inv_ite, ite_self, hs, State.setF_inv, State.answer_inv, State.fwStart_inv, State.oldSlot_inv]

theorem execFwUpdate_inv {h : Ctl} {sigOk good : Bool} {s : State} (hs : s.Inv K W) (hw : h.fn ≤ 16) :
    Good K W (execFwUpdate h sigOk good s) := by
  unfold execFwUpdate
  repeat' first
    | (simp (maxDischargeDepth := 100) +contextual only [inv_mk, good_next, good_ite, inv1_mk, inv1_ite, ite_self, implies_true, hs, State.setF_inv, State.addF_inv, State.takeLocks_inv, State.control_inv, State.fwRefuse_inv, State.updateStage_inv, hw]; done)
    | contradiction
    | split

theorem execUpdateDrainTimeout_inv {s : State} (hs : s.Inv K W) :
    Good K W (execUpdateDrainTimeout s) := by
  unfold execUpdateDrainTimeout
  repeat' first
    | (simp only [good_next, good_ite, ite_self, hs, State.abandonUpdate_inv])
    | split

theorem execHandoverTimeout_inv {s : State} (hs : s.Inv K W) :
    Good K W (execHandoverTimeout s) := by
  unfold execHandoverTimeout
  repeat' first
    | (simp only [good_next, good_ite, ite_self, hs, State.setF_inv, State.abandonUpdate_inv])
    | split

theorem State.readCkpt_inv {s : State} (hs : s.Inv K W) :
    (State.readCkpt s).Inv K W := by
  unfold State.readCkpt
  simp only [inv_mk, inv_ite, ite_self, hs]

theorem execControlComplexReset_inv {s : State} (hs : s.Inv K W) :
    Good K W (execControlComplexReset s) := by
  unfold execControlComplexReset
  split
  · exact good_next.2 hs
  extract_lets s0 src s1 s2
  have h0 : s0.Inv K W := by
    dsimp only [s0]
    split
    · exact State.abandonUpdate_inv hs
    · exact hs
  clear_value s0
  split
  · exact good_next.2 (State.askLock_inv h0)
  have hs' : src.Inv K W := State.addF_inv (State.grantLock_inv h0)
  have h1 : s1.Inv K W := inv_mk.2 hs'
  clear_value s1
  have h2 : s2.Inv K W := State.repost_inv (State.readCkpt_inv (State.setFs_inv h1))
  clear_value s2
  exact good_next.2 (State.dropLocks_inv (inv_foldl (fun _ _ h => State.recomplete_inv h) h2))

/-! ## BootConfig -/

theorem State.applyPort_inv {s : State} {q : Nat} {r : PortRec} (hs : s.Inv K W) :
    (State.applyPort s q r).Inv K W := by
  unfold State.applyPort
  simp only [inv_ite, ite_self, hs, State.setF_inv, State.setFs_inv]

theorem State.applyCellar_inv {s : State} {ch gib : Nat} (hs : s.Inv K W) :
    (State.applyCellar s ch gib).Inv K W := by
  unfold State.applyCellar
  simp only [inv_ite, ite_self, hs, State.setF_inv, State.setFs_inv]

theorem State.applyLimit_inv {s : State} {w : Nat} (hs : s.Inv K W) :
    (State.applyLimit s w).Inv K W := by
  unfold State.applyLimit
  simp only [hs, State.setFs_inv]

theorem State.applyNode_inv {s : State} {n : NodeSect} {sys : List Byte} (hs : s.Inv K W) :
    (State.applyNode s n sys).Inv K W := by
  unfold State.applyNode
  repeat' first
    | (simp only [*, State.wrReg_inv, State.setF_inv, State.setFs_inv, State.applyPort_inv]; done)
    | split
    | with_reducible refine inv_foldl (fun _ _ _ => ?_) ?_
    | with_reducible apply State.setFs_inv

theorem State.applyConfig_inv {s : State} {c : NorCopy} (hs : s.Inv K W) :
    (State.applyConfig s c).Inv K W := by
  exact State.setF_inv (State.applyLimit_inv (State.applyCellar_inv (State.applyNode_inv (inv_foldl (fun _ _ h => State.setF_inv h)
    (State.setF_inv (inv_mk.2 hs))))))

/-! ## Boot -/

theorem reset_canonical : State.reset.Canonical := by
  constructor <;> first | exact canon_nil _ | exact fun _ => canon_nil _ | rfl

theorem reset_fits : State.reset.Fits := ⟨fun _ => Core.fits_init, Nat.zero_le _, Nat.zero_le _, Nat.zero_le _⟩

theorem State.afterReset_inv {s : State} {cold aoLoss : Bool} (hs : s.Inv K W) :
    (State.afterReset s cold aoLoss).Inv K W := by
  unfold State.afterReset
  extract_lets s0 b0 r t0 r1 r2
  have h0 : r.Inv K W := by
    refine ⟨hs.queue, fun k => ?_, fun _ => ⟨reset_fits.1, reset_fits.2, reset_fits.3, reset_fits.4⟩⟩
    have d := ((State.rekey_inv (old := s) (K := True) (W := []) ⟨rfl, fun _ => reset_canonical, fun _ => reset_fits⟩).canonical trivial)
    have c := reset_canonical
    constructor
    case mem => dsimp only [r]; split; exacts [rfl, d.mem]
    case gran => dsimp only [r]; split; exacts [canon_nil _, d.gran]
    case flaws => dsimp only [r]; split; exacts [canon_nil _, d.flaws]
    all_goals (cases c; assumption)
  clear_value r
  split
  · exact State.setF_inv h0
  · exact State.setF_inv (State.wrReg_inv (State.wrReg_inv (State.setF_inv (inv_mk.2 h0))))

theorem State.holdPorts_inv {s : State} (hs : s.Inv K W) :
    (State.holdPorts s).Inv K W := by
  unfold State.holdPorts
  refine inv_foldl (fun _ _ h => State.setF_inv (State.wrReg_inv h)) (State.lockBits_inv (State.setLockQ_inv ⟨hs.queue, fun k => ?_, fun k => ⟨(hs.fits k).1, (hs.fits k).2, (hs.fits k).3, (hs.fits k).4⟩⟩))
  have c := hs.canonical k
  constructor
  case ports => exact canon_nil _
  all_goals (cases c; assumption)

theorem State.goAway_inv {s : State} {reason : Nat} (hs : s.Inv K W) :
    (State.goAway s reason).Inv K W := by
  unfold State.goAway
  repeat' first
    | (simp only [*, State.modPort_inv])
    | with_reducible refine inv_foldl (fun _ _ _ => ?_) ?_

theorem State.downPorts_inv {s : State} (hs : s.Inv K W) :
    (State.downPorts s).Inv K W := by
  unfold State.downPorts
  simp only [inv_mk, inv_ite, ite_self, hs, State.holdPorts_inv, State.goAway_inv]

theorem State.vestibule_inv {s : State} {reason : Nat} (hs : s.Inv K W) :
    (State.vestibule s reason).Inv K W := by
  unfold State.vestibule
  simp only [hs, State.setFs_inv, State.downPorts_inv]

theorem State.failStart_inv {s : State} {reason : Nat} (hs : s.Inv K W) :
    (State.failStart s reason).Inv K W := by
  unfold State.failStart
  simp only [hs, State.setFs_inv, State.downPorts_inv]

theorem State.stage_inv {s : State} {n : Nat} (hs : s.Inv K W) :
    (State.stage s n).Inv K W := by
  unfold State.stage
  simp only [hs, State.setF_inv]

theorem State.applyFuses_inv {s : State} {f : Fuses} (hs : s.Inv K W) :
    (State.applyFuses s f).Inv K W := by
  unfold State.applyFuses
  repeat' first
    | (simp only [*, inv_mk, State.setF_inv, State.setFs_inv]; done)
    | with_reducible refine inv_foldl (fun _ _ _ => ?_) ?_

theorem State.calList_inv1 {s : State} {fin fout : Fld × Fld × Fld × Fld} {tin tout : Nat → Nat} {skip : Nat → Bool} {z0 : List ((Cal × Cal) × Nat)} (hs : s.Inv K W) :
    Inv1 K W (State.calList s fin fout tin tout skip z0) := by
  induction z0 generalizing s fin fout tin tout skip with
  | nil =>
    unfold State.calList
    repeat' first
      | assumption
  | cons a_ l_ ih =>
    unfold State.calList
    simp (maxDischargeDepth := 100) +contextual only [inv_fst, inv_ite, inv1_mk, inv1_ite, ite_self, hs, State.calibrate_inv, ih]

theorem State.calList_inv {s : State} {fin fout : Fld × Fld × Fld × Fld} {tin tout : Nat → Nat} {skip : Nat → Bool} {z0 : List ((Cal × Cal) × Nat)} (hs : s.Inv K W) :
    (State.calList s fin fout tin tout skip z0).1.Inv K W := State.calList_inv1 hs

theorem State.calAll_inv1 {s : State} {x : StartIn} (hs : s.Inv K W) :
    Inv1 K W (State.calAll s x) := by
  unfold State.calAll
  simp (maxDischargeDepth := 100) +contextual only [inv_fst, inv1_mk, hs, State.calList_inv1]

theorem State.calAll_inv {s : State} {x : StartIn} (hs : s.Inv K W) :
    (State.calAll s x).1.Inv K W := State.calAll_inv1 hs

theorem State.cutShort_inv {s : State} (hs : s.Inv K W) :
    (State.cutShort s).Inv K W := by
  unfold State.cutShort
  simp only [inv_mk, hs, State.setFs_inv]

theorem State.stage7_inv {s : State} {x : StartIn} (hs : s.Inv K W) :
    (State.stage7 s x).Inv K W := by
  unfold State.stage7
  repeat' first
    | (simp only [*, inv_ite, ite_self, State.train_inv, State.stage_inv, State.cutShort_inv]; done)
    | split
    | with_reducible refine inv_foldl (fun _ _ _ => ?_) ?_
    | with_reducible apply State.stage_inv

theorem State.stage6_inv {s : State} {x : StartIn} (hs : s.Inv K W) :
    (State.stage6 s x).Inv K W := by
  unfold State.stage6
  repeat' first
    | (rename_i heq; replace heq := congrArg Prod.fst heq; dsimp only at heq; subst heq)
    | split
    | simp (maxDischargeDepth := 100) +contextual only [inv_fst, hs, State.failStart_inv, State.stage_inv, State.cutShort_inv, State.stage7_inv, State.calAll_inv1]

theorem State.stage5_inv {s : State} {x : StartIn} {c : NorCopy} (hs : s.Inv K W) :
    (State.stage5 s x c).Inv K W := by
  unfold State.stage5
  simp (maxDischargeDepth := 100) +contextual only [inv_ite, ite_self, hs, State.applyConfig_inv, State.stage_inv, State.cutShort_inv, State.stage6_inv]

theorem State.stage4_inv {s : State} {x : StartIn} {c : NorCopy} (hs : s.Inv K W) :
    (State.stage4 s x c).Inv K W := by
  unfold State.stage4
  simp (maxDischargeDepth := 100) +contextual only [inv_mk, inv_ite, ite_self, hs, State.setF_inv, State.writeCtr_inv, State.vestibule_inv, State.stage_inv, State.cutShort_inv, State.stage5_inv]

theorem State.stage2_inv {s : State} (hs : s.Inv K W) :
    (State.stage2 s).Inv K W := by
  unfold State.stage2
  repeat' first
    | (simp only [hs, State.setF_inv])
    | split

theorem State.stage3_inv {s : State} {x : StartIn} (hs : s.Inv K W) :
    (State.stage3 s x).Inv K W := by
  unfold State.stage3
  repeat' first
    | split
    | simp (maxDischargeDepth := 100) +contextual only [hs, State.setFs_inv, State.vestibule_inv, State.stage_inv, State.cutShort_inv, State.stage4_inv]

theorem execReset_inv {x : StartIn} {s : State} (hs : s.Inv K W) :
    Good K W (execReset x s) := by
  unfold execReset
  repeat' first
    | (simp (maxDischargeDepth := 100) +contextual only [inv_mk, good_next, good_ite, ite_self, hs, State.afterReset_inv, State.vestibule_inv, State.stage_inv, State.applyFuses_inv, State.cutShort_inv, State.stage2_inv, State.stage3_inv])
    | split

theorem execRanuatTimeout_inv {s : State} (hs : s.Inv K W) :
    Good K W (execRanuatTimeout s) := by
  unfold execRanuatTimeout
  simp only [good_next, good_ite, ite_self, hs, State.failStart_inv]

theorem State.resetSoon_inv {s : State} {n : Nat} (hs : s.Inv K W) :
    (State.resetSoon s n).Inv K W := by
  unfold State.resetSoon
  exact inv_mk.2 (State.goAway_inv hs)

theorem execResetAssert_inv {s : State} (hs : s.Inv K W) :
    Good K W (execResetAssert s) := by
  unfold execResetAssert
  simp only [good_next, good_ite, ite_self, hs, State.resetSoon_inv]

theorem State.takeReset_inv {s : State} (hs : s.Inv K W) :
    (State.takeReset s).Inv K W := by
  unfold State.takeReset
  simp only [inv_mk, hs, State.afterReset_inv]

theorem State.dueHold_inv {s : State} (hs : s.Inv K W) :
    (State.dueHold s).Inv K W := by
  unfold State.dueHold
  repeat' first
    | (simp only [inv_mk, inv_ite, ite_self, hs, State.holdPorts_inv]; done)
    | split

theorem State.dueReset_inv {s : State} (hs : s.Inv K W) :
    (State.dueReset s).Inv K W := by
  unfold State.dueReset
  repeat' first
    | (simp only [inv_mk, inv_ite, ite_self, hs, State.takeReset_inv]; done)
    | split

theorem State.tick_inv {s : State} (hs : s.Inv K W) :
    (State.tick s).Inv K W := by
  unfold State.tick
  simp (maxDischargeDepth := 100) +contextual only [hs, State.timeTick_inv, State.runPorts_inv, State.dueHold_inv, State.dueReset_inv]

theorem State.powerFail_inv {s : State} (hs : s.Inv K W) :
    (State.powerFail s).Inv K W := by
  exact State.setFs_inv (State.logCopy_inv (State.goAway_inv (inv_foldl (fun _ _ h => State.stopChan_inv h)
    (State.abortAll_inv (inv_mk.2 hs)))))

theorem execPwrfail_inv {s : State} (hs : s.Inv K W) :
    Good K W (execPwrfail s) := by
  unfold execPwrfail
  simp only [good_next, good_ite, ite_self, hs, State.powerFail_inv]

/-! ## Security -/

theorem inv_keys {s : State} {a} {b} (hs : s.Inv K W) : State.Inv K W { s with keys := tset MemKey.init s.keys a b } := by
  refine ⟨hs.queue, fun k => { hs.canonical k with keys := ?_ }, fun k => ⟨(hs.fits k).1, (hs.fits k).2, (hs.fits k).3, (hs.fits k).4⟩⟩
  dsimp only [tmod]
  exact canon_tset (d := fun _ => MemKey.init) (hs.canonical k).keys

theorem inv_bounce {s : State} {a} {b} (hs : s.Inv K W) : State.Inv K W { s with bounce := tset Bounce.init s.bounce a b } := by
  refine ⟨hs.queue, fun k => { hs.canonical k with bounce := ?_ }, fun k => ⟨(hs.fits k).1, (hs.fits k).2, (hs.fits k).3, (hs.fits k).4⟩⟩
  dsimp only [tmod]
  exact canon_tset (d := fun _ => Bounce.init) (hs.canonical k).bounce

theorem inv_sessions {s : State} {l : List Sess} (hs : s.Inv K W) (hl : s.sessions.length ≤ 32 → l.length ≤ 32) :
    State.Inv K W { s with sessions := l } :=
  ⟨hs.queue, fun k => let c := hs.canonical k; { c with mem := c.mem }, fun k => ⟨(hs.fits k).1, (hs.fits k).2, (hs.fits k).3, hl (hs.fits k).4⟩⟩

theorem State.countParts_inv {s : State} (hs : s.Inv K W) :
    (State.countParts s).Inv K W := by
  unfold State.countParts
  simp only [hs, State.setF_inv]

theorem State.modPsec_inv {s : State} {p : Nat} {f : PSec → PSec} (hs : s.Inv K W) :
    (State.modPsec s p f).Inv K W := by
  exact ⟨hs.queue, fun k => { hs.canonical k with psec := canon_tset (d := fun _ => _) (hs.canonical k).psec },
    fun k => ⟨(hs.fits k).1, (hs.fits k).2, (hs.fits k).3, (hs.fits k).4⟩⟩

theorem State.resetRegs_inv {s : State} {r : Reg} {l : List Nat} (hs : s.Inv K W) :
    (State.resetRegs s r l).Inv K W := by
  unfold State.resetRegs
  repeat' first
    | (simp only [*, State.wrReg_inv])
    | with_reducible refine inv_foldl (fun _ _ _ => ?_) ?_

theorem State.restoreBase_inv {s : State} {p : Nat} (hs : s.Inv K W) :
    (State.restoreBase s p).Inv K W := by
  unfold State.restoreBase
  repeat' first
    | (simp only [*, inv_ite, ite_self, State.writeEntry_inv]; done)
    | with_reducible refine inv_foldl (fun _ _ _ => ?_) ?_

theorem State.create_inv {s : State} {p : Nat} (hs : s.Inv K W) :
    (State.create s p).Inv K W := by
  unfold State.create
  split
  · exact hs
  dsimp only
  split
  · exact State.setF_inv hs
  · exact State.restoreBase_inv (State.countParts_inv (State.setF_inv (inv_foldl (fun _ _ h => State.setF_inv h) (inv_keys (inv_mk.2 hs)))))

theorem execCreate_inv {p : Nat} {s : State} (hs : s.Inv K W) (hw : p < 16) :
    Good K W (execCreate p s) := by
  unfold execCreate
  repeat' first
    | (simp only [good_next, good_ite, hs, State.create_inv, hw]; done)
    | contradiction
    | split

theorem State.writeRqt_inv {s : State} {p v : Nat} (hs : s.Inv K W) :
    (State.writeRqt s p v).Inv K W := by
  unfold State.writeRqt
  simp only [inv_ite, ite_self, hs, State.setFs_inv]

theorem State.setOwners_inv {s : State} {p : Nat} {o : Owners} (hs : s.Inv K W) :
    (State.setOwners s p o).Inv K W := by
  unfold State.setOwners
  repeat' first
    | (simp (maxDischargeDepth := 100) +contextual only [*, inv_ite, ite_self, State.setF_inv, State.setFs_inv, State.writePhbm_inv, State.writePcel_inv, State.setQp_inv, State.writeRqt_inv]; done)
    | with_reducible refine inv_foldl (fun _ _ _ => ?_) ?_

theorem execPartCreate_inv {h : Ctl} {p : Nat} {o : Owners} {s : State} (hs : s.Inv K W) (hw : h.fn ≤ 16) :
    Good K W (execPartCreate h p o s) := by
  unfold execPartCreate
  simp (maxDischargeDepth := 100) +contextual only [inv1_mk, inv1_ite, ite_self, implies_true, hs, State.control_inv, State.create_inv, State.setOwners_inv, hw]

theorem State.endSessions_inv {s : State} {who : Nat} (hs : s.Inv K W) :
    (State.endSessions s who).Inv K W := by
  exact inv_sessions hs fun h => le_trans (List.length_filter_le _ _) h

theorem State.keyOp_inv {s : State} (hs : s.Inv K W) :
    (State.keyOp s).Inv K W := by
  unfold State.keyOp
  simp only [hs, State.setF_inv]

theorem State.unbindSession_inv {s : State} {p : Nat} (hs : s.Inv K W) :
    (State.unbindSession s p).Inv K W := by
  unfold State.unbindSession
  simp (maxDischargeDepth := 100) +contextual only [hs, State.setF_inv, State.setBounce_inv, State.modPsec_inv, State.endSessions_inv, State.keyOp_inv]

theorem State.revoke_inv {s : State} {p : Nat} (hs : s.Inv K W) :
    (State.revoke s p).Inv K W := by
  exact State.abortStep_inv (inv_keys (State.setF_inv hs))

theorem tget_mem {α : Type} {d : Nat → α} {b : α} {t : Tbl α} (h : Canon d t) {e : Nat × α} (he : e ∈ t) : tget b t e.1 = e.2 := by
  induction t with
  | nil => cases he
  | cons a t ih =>
    have ha := List.pairwise_cons.1 h.1
    rcases List.mem_cons.1 he with rfl | he
    · simp [tget]
    · have := ha.1 e he
      simp only [tget, if_neg (Nat.ne_of_lt this)]
      exact ih (canon_sublist h (List.sublist_cons_self _ _)) he

theorem State.clearCores_inv {s : State} {ns : List Nat} (hs : s.Inv K W) :
    (State.clearCores s ns).Inv K W := by
  refine State.resetRegs_inv (State.resetRegs_inv (State.resetRegs_inv ⟨hs.queue, fun k => { hs.canonical k with
    mem := twf_filter _ (hs.canonical k).mem, cores := canon_filter _ (hs.canonical k).cores }, fun k => ⟨fun n => ?_, (hs.fits k).2, (hs.fits k).3, (hs.fits k).4⟩⟩))
  have hf : ∀ (t : Tbl Core) (p : Nat × Core → Bool), (∀ e ∈ t, e.2.Fits) → (tget Core.init (t.filter p) n).Fits := by
    intro t p h
    induction t with
    | nil => exact Core.fits_init
    | cons e t ih =>
      have ih := ih fun e he => h e (List.mem_cons_of_mem _ he)
      by_cases hp : p e
      · rw [List.filter_cons_of_pos hp]
        unfold tget
        split
        · exact h e List.mem_cons_self
        · exact ih
      · rwa [List.filter_cons_of_neg hp]
  refine hf s.cores _ fun e he => ?_
  have hc := (hs.canonical k).cores
  have := (hs.fits k).cores e.1
  rwa [State.core, tget_mem hc he] at this

theorem inv_service {s : State} {f g h} {p : Nat} (hs : s.Inv K W) : State.Inv K W { s with
      reqs := s.reqs.filter f
      custs := s.custs.filter g
      serves := tset Serve.init s.serves p Serve.init
      qps := s.qps.filter h } := by
  refine ⟨hs.queue, fun k => ?_, fun k => ⟨(hs.fits k).1, (hs.fits k).2, (hs.fits k).3, (hs.fits k).4⟩⟩
  have c := hs.canonical k
  constructor
  case reqs => exact canon_filter _ c.reqs
  case custs => exact canon_filter _ c.custs
  case serves => exact canon_tset (d := fun _ => Serve.init) (k := p) (v := Serve.init) c.serves
  case qps => exact canon_filter _ c.qps
  all_goals (cases c; assumption)

theorem State.clearTables_inv {s : State} {p : Nat} (hs : s.Inv K W) :
    (State.clearTables s p).Inv K W := by
  unfold State.clearTables
  extract_lets ts ss s1 s2 s3 mine fans s4 s5 b c s6 s7 s8
  have h1 : s1.Inv K W := State.clearThresholds_inv hs
  have h2 : s2.Inv K W := State.resetRegs_inv (State.resetRegs_inv h1)
  have h3 : s3.Inv K W := State.resetRegs_inv (State.resetRegs_inv h2)
  have h4 : s4.Inv K W := State.resetRegs_inv (State.resetRegs_inv (State.resetRegs_inv h3))
  have h5 : s5.Inv K W := State.resetRegs_inv (State.resetRegs_inv h4)
  clear_value s5
  have h6 : s6.Inv K W := inv_service h5
  clear_value s6
  have h7 : s7.Inv K W := inv_foldl (fun _ _ h => State.resetRegs_inv h) h6
  clear_value s7
  have h8 : s8.Inv K W := inv_foldl (fun _ _ h => State.wrReg_inv h) h7
  exact State.rekey_inv (State.setF_inv (State.setF_inv h8))

theorem State.forget_inv {s : State} {p : Nat} (hs : s.Inv K W) :
    (State.forget s p).Inv K W := by
  unfold State.forget
  refine inv_foldl (fun _ _ h => State.setF_inv h) (State.setLockQ_inv (State.setFs_inv ⟨hs.queue, fun k => ?_, fun k => ⟨(hs.fits k).1, (hs.fits k).2, (hs.fits k).3, (hs.fits k).4⟩⟩))
  have c := hs.canonical k
  constructor
  case parts => exact canon_tset (d := fun _ => Part.init) (k := p) (v := Part.init) c.parts
  case rs => exact canon_filter _ c.rs
  case rings => exact canon_filter _ c.rings
  case bounce => exact canon_tset (d := fun _ => Bounce.init) (k := p) (v := Bounce.init) c.bounce
  case keys => exact canon_tset (d := fun _ => MemKey.init) (k := p) (v := MemKey.init) c.keys
  case psec => exact canon_tset (d := fun _ => PSec.init) (k := p) (v := PSec.init) c.psec
  all_goals (cases c; assumption)

theorem State.openDebug_inv {s : State} (hs : s.Inv K W) :
    (State.openDebug s).Inv K W := by
  unfold State.openDebug
  simp only [inv_mk, inv_ite, ite_self, hs, State.setF_inv]

theorem State.tearDown_inv {s : State} {p : Nat} (hs : s.Inv K W) :
    (State.tearDown s p).Inv K W := by
  unfold State.tearDown
  repeat' first
    | split
    | simp (maxDischargeDepth := 100) +contextual only [hs, State.setF_inv, State.dropLocks_inv, State.runPorts_inv, State.answer_inv, State.countParts_inv, State.unbindSession_inv, State.revoke_inv, State.clearCores_inv, State.clearTables_inv, State.forget_inv, State.openDebug_inv]

theorem State.tearOn_inv {s : State} {p : Nat} (hs : s.Inv K W) :
    (State.tearOn s p).Inv K W := by
  unfold State.tearOn
  repeat' first
    | (simp only [*, inv_ite, true_and, ite_self, State.stopChan_inv, State.askLock_inv, State.grantLock_inv, State.tearDown_inv]; done)
    | split
    | with_reducible refine inv_foldl (fun _ _ _ => ?_) ?_
    | with_reducible apply State.tearDown_inv
    | simp only [inv_ite]

theorem State.tearAsk_inv {s : State} {p : Nat} {ctl : Option Ctl} (hs : s.Inv K W) :
    (State.tearAsk s p ctl).Inv K W := by
  unfold State.tearAsk
  simp only [hs, State.modPsec_inv, State.tearOn_inv]

theorem execTeardown_inv {p : Nat} {s : State} (hs : s.Inv K W) (hw : p < 16) :
    Good K W (execTeardown p s) := by
  unfold execTeardown
  repeat' first
    | (simp only [good_next, good_ite, ite_self, hs, State.setF_inv, State.tearOn_inv, State.tearAsk_inv, hw]; done)
    | contradiction
    | split

theorem execPartTeardown_inv {h : Ctl} {p : Nat} {s : State} (hs : s.Inv K W) (hw : h.fn ≤ 16) :
    Good K W (execPartTeardown h p s) := by
  unfold execPartTeardown
  simp +contextual only [inv1_mk, inv1_ite, ite_self, implies_true, hs, State.setF_inv, State.control_inv, State.tearAsk_inv, hw]

theorem State.freeBytes_inv1 {s : State} {n : Nat} (hs : s.Inv K W) :
    Inv1 K W (State.freeBytes s n) := by
  unfold State.freeBytes
  simp only [inv_mk, inv1_mk, hs]

theorem State.freeBytes_inv {s : State} {n : Nat} (hs : s.Inv K W) :
    (State.freeBytes s n).1.Inv K W := State.freeBytes_inv1 hs

theorem State.spdmSend_inv {s : State} {who code : Nat} {data : List Byte} (hs : s.Inv K W) :
    (State.spdmSend s who code data).Inv K W := by
  unfold State.spdmSend
  simp only [inv_mk, hs]

theorem State.spdmErr_inv {s : State} {who code : Nat} (hs : s.Inv K W) :
    (State.spdmErr s who code).Inv K W := by
  unfold State.spdmErr
  simp only [hs, State.spdmSend_inv]

theorem State.spdmDo_inv {s : State} {who : Nat} {f : State → State} (hs : s.Inv K W) (hf : ∀ s, s.Inv K W → (f s).Inv K W) (hw : who ≤ 17) :
    Good K W (State.spdmDo s who f) := by
  unfold State.spdmDo
  repeat' first
    | (simp only [good_next, good_ite, ite_self, hs, hf, hw]; done)
    | contradiction
    | split

theorem State.sign_inv1 {s : State} (hs : s.Inv K W) :
    Inv1 K W (State.sign s) := by
  unfold State.sign
  simp only [hs, State.freeBytes_inv1]

theorem State.sign_inv {s : State} (hs : s.Inv K W) :
    (State.sign s).1.Inv K W := State.sign_inv1 hs

theorem execGetVersion_inv {who : Nat} {s : State} (hs : s.Inv K W) (hw : who ≤ 17) :
    Good K W (execGetVersion who s) := by
  unfold execGetVersion
  simp +contextual only [inv_mk, implies_true, hs, State.spdmSend_inv, State.spdmDo_inv, hw]

theorem execGetCapabilities_inv {who : Nat} {s : State} (hs : s.Inv K W) (hw : who ≤ 17) :
    Good K W (execGetCapabilities who s) := by
  unfold execGetCapabilities
  simp +contextual only [implies_true, hs, State.spdmSend_inv, State.spdmDo_inv, hw]

theorem execNegotiateAlgorithms_inv {who offer : Nat} {s : State} (hs : s.Inv K W) (hw : who ≤ 17) :
    Good K W (execNegotiateAlgorithms who offer s) := by
  unfold execNegotiateAlgorithms
  simp +contextual only [inv_mk, inv_ite, ite_self, implies_true, hs, State.spdmSend_inv, State.spdmErr_inv, State.spdmDo_inv, hw]

theorem execGetDigests_inv {who : Nat} {s : State} (hs : s.Inv K W) (hw : who ≤ 17) :
    Good K W (execGetDigests who s) := by
  unfold execGetDigests
  simp +contextual only [implies_true, hs, State.spdmSend_inv, State.spdmDo_inv, hw]

theorem execGetCertificate_inv {who n : Nat} {s : State} (hs : s.Inv K W) (hw : who ≤ 17) :
    Good K W (execGetCertificate who n s) := by
  unfold execGetCertificate
  simp +contextual only [implies_true, hs, State.spdmSend_inv, State.spdmDo_inv, hw]

theorem execChallenge_inv {who : Nat} {s : State} (hs : s.Inv K W) (hw : who ≤ 17) :
    Good K W (execChallenge who s) := by
  unfold execChallenge
  simp (maxDischargeDepth := 100) +contextual only [inv_fst, inv_ite, ite_self, implies_true, hs, State.spdmSend_inv, State.spdmErr_inv, State.spdmDo_inv, State.sign_inv1, hw]

theorem execGetMeasurements_inv {who sess index nonce : Nat} {s : State} (hs : s.Inv K W) (hw : who ≤ 17) :
    Good K W (execGetMeasurements who sess index nonce s) := by
  unfold execGetMeasurements
  simp (maxDischargeDepth := 100) +contextual only [inv_mk, inv_fst, inv_ite, ite_self, implies_true, hs, State.spdmSend_inv, State.spdmErr_inv, State.spdmDo_inv, State.sign_inv1, hw]

theorem State.vendor_inv {s : State} {who code : Nat} (hs : s.Inv K W) :
    (State.vendor s who code).Inv K W := by
  unfold State.vendor
  simp only [hs, State.spdmSend_inv]

theorem execKeyExchange_inv {who : Nat} {s : State} (hs : s.Inv K W) (hw : who ≤ 17) :
    Good K W (execKeyExchange who s) := by
  refine State.spdmDo_inv hs (fun s hs => ?_) hw
  dsimp only
  split
  · exact State.spdmErr_inv hs
  split
  · exact State.vendor_inv hs
  split
  · exact State.spdmErr_inv hs
  · next h =>
    refine State.spdmSend_inv (State.sign_inv (State.keyOp_inv (inv_mk.2 (inv_sessions (l := s.sessions ++ [⟨s.nextSess, who, false, []⟩]) hs fun _ => ?_))))
    simp only [not_or] at h
    simp
    omega

/-- A session the responder holds stands in its list, so dropping its number shortens the list. -/
theorem holds_shortens {s : State} {who id : Nat} {est : Bool} (h : s.holds who id est = true) :
    (s.sessions.filter (fun x => x.id != id)).length < s.sessions.length := by
  obtain ⟨x, hx, he⟩ := List.any_eq_true.1 h
  refine Nat.lt_of_not_le fun hle => ?_
  have := List.length_filter_eq_length_iff.1 (le_antisymm (List.length_filter_le _ _) hle) x hx
  simp_all

theorem State.newSecret_inv1 {s : State} {who id : Nat} (hs : s.Inv K W) {est : Bool} (hh : s.holds who id est = true) :
    Inv1 K W (State.newSecret s who id) := by
  have hl := holds_shortens hh
  refine inv_sessions (State.freeBytes_inv (n := 48) hs) fun h => ?_
  have h : s.sessions.length ≤ 32 := h
  show (s.sessions.filter (fun x => x.id != id) ++ _).length ≤ 32
  simp only [List.length_append, List.length_singleton]
  omega

theorem State.newSecret_inv {s : State} {who id : Nat} (hs : s.Inv K W) {est : Bool} (hh : s.holds who id est = true) :
    (State.newSecret s who id).1.Inv K W := State.newSecret_inv1 hs hh

theorem State.freshBounce_inv {s : State} {who : Nat} {ems : List Byte} (hs : s.Inv K W) :
    (State.freshBounce s who ems).Inv K W := by
  unfold State.freshBounce
  simp only [inv_ite, ite_self, hs, State.setBounce_inv]

theorem execFinish_inv {who id : Nat} {ok : Bool} {s : State} (hs : s.Inv K W) (hw : who ≤ 17) :
    Good K W (execFinish who id ok s) := by
  refine State.spdmDo_inv hs (fun s hs => ?_) hw
  split
  · exact State.spdmErr_inv hs
  next hc =>
  split
  · exact State.spdmErr_inv (State.keyOp_inv (inv_sessions hs fun h => le_trans (List.length_filter_le _ _) h))
  have h1 := State.newSecret_inv (who := who) (id := id) (est := false) hs (by simpa using hc)
  split
  next t e h =>
  rw [h] at h1
  extract_lets s2 s3
  have h2 : s2.Inv K W := State.freshBounce_inv (State.keyOp_inv h1)
  have h3 : s3.Inv K W := by
    dsimp only [s3]
    split
    · exact State.setF_inv (State.modPsec_inv h2)
    · exact h2
  exact State.spdmSend_inv h3

theorem State.inSession_inv {s : State} {who id : Nat} {f : State → State} (hs : s.Inv K W) (hf : ∀ s, s.Inv K W → (f s).Inv K W) (hw : who ≤ 17) :
    Good K W (State.inSession s who id f) := by
  unfold State.inSession
  simp +contextual only [inv_ite, ite_self, implies_true, hs, State.spdmErr_inv, State.spdmDo_inv, hf, hw]

theorem execKeyUpdate_inv {who id : Nat} {s : State} (hs : s.Inv K W) (hw : who ≤ 17) :
    Good K W (execKeyUpdate who id s) := by
  unfold execKeyUpdate State.inSession
  refine State.spdmDo_inv hs (fun s hs => ?_) hw
  dsimp only
  split
  · next hc =>
    have h1 := State.newSecret_inv (who := who) (id := id) (est := true) hs hc
    exact State.spdmSend_inv (State.freshBounce_inv h1)
  · exact State.spdmErr_inv hs

theorem execHeartbeat_inv {who id : Nat} {s : State} (hs : s.Inv K W) (hw : who ≤ 17) :
    Good K W (execHeartbeat who id s) := by
  unfold execHeartbeat
  simp +contextual only [implies_true, hs, State.spdmSend_inv, State.inSession_inv, hw]

theorem execEndSession_inv {who id : Nat} {s : State} (hs : s.Inv K W) (hw : who ≤ 17) :
    Good K W (execEndSession who id s) := by
  refine State.inSession_inv hs (fun s hs => ?_) hw
  dsimp only
  split
  · exact State.spdmSend_inv (State.unbindSession_inv hs)
  · exact State.spdmSend_inv (inv_sessions hs fun h => le_trans (List.length_filter_le _ _) h)

theorem execSetPlanKey_inv {who p digest : Nat} {s : State} (hs : s.Inv K W) (hw : p < 16 ∧ who ≤ 17) :
    Good K W (execSetPlanKey who p digest s) := by
  unfold execSetPlanKey
  repeat' first
    | (simp (maxDischargeDepth := 100) +contextual only [good_ite, inv_ite, ite_self, implies_true, hs, State.setF_inv, State.modPsec_inv, State.spdmDo_inv, State.vendor_inv, hw]; done)
    | split
    | (exfalso; simp_all)

theorem execSetHostMode_inv {p mode : Nat} {s : State} (hs : s.Inv K W) (hw : p < 16) :
    Good K W (execSetHostMode p mode s) := by
  unfold execSetHostMode
  repeat' first
    | (simp (maxDischargeDepth := 100) +contextual only [good_ite, inv_ite, ite_self, implies_true, hs, State.setF_inv, State.modPsec_inv, State.vendor_inv, hw]; done)
    | split
    | with_reducible apply State.spdmDo_inv
  all_goals omega

theorem execIdeKm_inv {p : Nat} {s : State} (hs : s.Inv K W) (hw : p < 16) :
    Good K W (execIdeKm p s) := by
  unfold execIdeKm
  repeat' first
    | (simp +contextual only [good_ite, inv_ite, ite_self, implies_true, hs, State.modPsec_inv, State.vendor_inv, hw]; done)
    | split
    | with_reducible apply State.spdmDo_inv
  all_goals omega

theorem execDebugNonce_inv {s : State} (hs : s.Inv K W) :
    Good K W (execDebugNonce s) := by
  unfold execDebugNonce
  repeat' first
    | (simp +contextual only [inv_mk, inv_fst, implies_true, hs, State.spdmSend_inv, State.freeBytes_inv1]; done)
    | with_reducible apply State.spdmDo_inv
  all_goals omega

theorem State.debugTwo_inv {s : State} (hs : s.Inv K W) :
    (State.debugTwo s).Inv K W := by
  unfold State.debugTwo
  repeat' first
    | (simp only [*, inv_mk, inv_ite, ite_self, State.unload_inv, State.revoke_inv, State.tearAsk_inv]; done)
    | with_reducible refine inv_foldl (fun _ _ _ => ?_) ?_
    | with_reducible apply State.openDebug_inv
    | simp only [inv_mk]

theorem execDebugUnlock_inv {nonce level : Nat} {g : DebugSig} {s : State} (hs : s.Inv K W) :
    Good K W (execDebugUnlock nonce level g s) := by
  unfold execDebugUnlock
  repeat' first
    | (simp +contextual only [inv_mk, inv_ite, ite_self, implies_true, hs, State.setF_inv, State.addF_inv, State.debugTwo_inv]; done)
    | with_reducible apply State.spdmDo_inv
  all_goals omega

theorem State.endAll_inv {s : State} (hs : s.Inv K W) :
    (State.endAll s).Inv K W := by
  exact State.keyOp_inv (inv_sessions (inv_foldl (fun _ _ h => State.unbindSession_inv h) hs) fun _ => Nat.zero_le _)

theorem State.zeroise_inv {s : State} (hs : s.Inv K W) :
    (State.zeroise s).Inv K W := by
  refine inv_foldl (fun _ _ h => State.setF_inv (State.modPsec_inv h)) ⟨hs.queue, fun k => ?_, fun k => ⟨(hs.fits k).1, (hs.fits k).2, (hs.fits k).3, (hs.fits k).4⟩⟩
  have c := hs.canonical k
  constructor
  case keys =>
    refine ⟨List.pairwise_map.2 c.keys.1, fun e he => ?_⟩
    obtain ⟨x, -, rfl⟩ := List.mem_map.1 he
    exact fun h => absurd (congrArg MemKey.revoked h) (by simp [MemKey.init])
  all_goals (cases c; assumption)

theorem execTamperAlarm_inv {cause sensor : Nat} {s : State} (hs : s.Inv K W) (hw : 1 ≤ cause ∧ cause ≤ 4 ∧ sensor < 256) :
    Good K W (execTamperAlarm cause sensor s) := by
  unfold execTamperAlarm
  split
  · contradiction
  extract_lets first s1 ph s2 s3 s4 b0 s5
  have h1 : s1.Inv K W := State.addF_inv hs
  clear_value s1
  split
  · exact good_next.2 h1
  have h2 : s2.Inv K W := State.setFs_inv h1
  clear_value s2
  have h3 : s3.Inv K W := inv_mk.2 h2
  clear_value s3
  have h4 : s4.Inv K W := State.zeroise_inv h3
  clear_value s4
  split
  · have h5 : s5.Inv K W := inv_mk.2 h4
    clear_value s5
    split
    · exact good_next.2 h5
    · exact good_next.2 (State.vestibule_inv h5)
  · exact good_next.2 (State.endAll_inv (inv_foldl (fun _ _ h => State.revoke_inv h) h4))

theorem execTamperClear_inv {v : Word64} {trip : Bool} {s : State} (hs : s.Inv K W) :
    Good K W (execTamperClear v trip s) := by
  unfold execTamperClear
  simp only [good_next, good_ite, ite_self, hs, State.setF_inv]

theorem execEntropyFail_inv {s : State} (hs : s.Inv K W) :
    Good K W (execEntropyFail s) := by
  unfold execEntropyFail
  simp only [good_next, hs, State.setF_inv]

/-! ## Scrub -/

theorem State.endSlice_inv {s : State} {c : Option Nat} (hs : s.Inv K W) :
    (State.endSlice s c).Inv K W := by
  unfold State.endSlice
  simp only [inv_mk, inv_ite, ite_self, hs, State.lockBits_inv]

theorem State.scrubRead_inv {s : State} {p g sym : Nat} (hs : s.Inv K W) :
    (State.scrubRead s p g sym).Inv K W := by
  unfold State.scrubRead
  simp (maxDischargeDepth := 100) +contextual only [inv_ite, ite_self, hs, State.markUnplanned_inv, State.memErr_inv, State.setFlaw_inv, State.serve1_inv, State.poisonAs_inv, State.countCorr_inv]

theorem execPatrolScrub_inv {sym : Nat} {s : State} (hs : s.Inv K W) :
    Good K W (execPatrolScrub sym s) := by
  unfold execPatrolScrub
  repeat' first
    | (simp (maxDischargeDepth := 100) +contextual only [inv_mk, good_next, good_ite, inv_ite, ite_self, hs, State.setF_inv, State.addF_inv, State.scrubOn_inv, State.takeLocks_inv, State.endSlice_inv, State.scrubRead_inv]; done)
    | split

end Sys2Proof.Machine
end

