-- ==== Sys2Proof/Laws/InvHost.lean ====
section
/-! SUPPORT. Power, the host side and register writes keep the form of the state. -/

namespace Sys2Proof.Machine

variable {K : Prop} {W : List Instr}

/-! ## Power -/

theorem State.trigger_inv {s : State} {f : Fld} {code : Nat} {args panes : List Nat} (hs : s.Inv K W) :
    (State.trigger s f code args panes).Inv K W := by
  unfold State.trigger
  repeat' first
    | (simp only [*, inv_ite, State.addF_inv, State.logEvent_inv, State.emergPane_inv]; done)
    | split
    | with_reducible refine inv_foldl (fun _ _ _ => ?_) ?_
    | with_reducible apply State.abandonUpdate_inv
    | simp only [inv_ite]

theorem execDroop_inv {q : Nat} {s : State} (hs : s.Inv K W) (hw : q < 32) :
    Good K W (execDroop q s) := by
  unfold execDroop
  repeat' first
    | (simp only [good_next, good_ite, hs, State.trigger_inv, hw]; done)
    | contradiction
    | split

theorem execOvercurrent_inv {leaf : Nat} {s : State} (hs : s.Inv K W) (hw : leaf < 2) :
    Good K W (execOvercurrent leaf s) := by
  unfold execOvercurrent
  repeat' first
    | (simp only [good_next, good_ite, hs, State.trigger_inv, hw]; done)
    | contradiction
    | split

theorem execThermal_inv {s : State} (hs : s.Inv K W) :
    Good K W (execThermal s) := by
  unfold execThermal
  simp only [good_next, hs, State.trigger_inv]

theorem execProchot_inv {low : Bool} {s : State} (hs : s.Inv K W) :
    Good K W (execProchot low s) := by
  unfold execProchot
  simp only [good_next, inv_ite, ite_self, hs, State.setF_inv, State.trigger_inv]

theorem execEmergClear_inv {q : Nat} {s : State} (hs : s.Inv K W) (hw : q < 32) :
    Good K W (execEmergClear q s) := by
  unfold execEmergClear
  repeat' first
    | (simp only [good_next, good_ite, inv_ite, ite_self, hs, State.setF_inv, State.pendPane_inv, hw]; done)
    | contradiction
    | split

theorem execThermalTrip_inv {s : State} (hs : s.Inv K W) :
    Good K W (execThermalTrip s) := by
  unfold execThermalTrip
  simp (maxDischargeDepth := 100) +contextual only [inv_mk, good_next, good_ite, inv_ite, ite_self, hs, State.setFs_inv, State.logEvent_inv, State.powerFail_inv]

theorem State.lowerPane_inv {s : State} {q : Nat} (hs : s.Inv K W) :
    (State.lowerPane s q).Inv K W := by
  unfold State.lowerPane
  simp only [hs, State.requestPane_inv]

theorem State.raisePane_inv {s : State} {q : Nat} (hs : s.Inv K W) :
    (State.raisePane s q).Inv K W := by
  unfold State.raisePane
  simp only [hs, State.requestPane_inv]

theorem State.losePin_inv {s : State} (hs : s.Inv K W) :
    (State.losePin s).Inv K W := by
  unfold State.losePin
  repeat' first
    | (simp only [hs, State.setFs_inv, State.logEvent_inv]; done)
    | split

theorem State.readRails_inv {s : State} {rails : List (Nat × Nat)} (hs : s.Inv K W) :
    (State.readRails s rails).Inv K W := by
  unfold State.readRails
  repeat' first
    | (simp only [*, State.setFs_inv])
    | with_reducible refine inv_foldl (fun _ _ _ => ?_) ?_

theorem execPowerLoop_inv {avg : Nat} {ps : List Nat} {rails : List (Nat × Nat)} {s : State} (hs : s.Inv K W) (hw : avg < 2 ^ 32 ∧ ps.all (fun p => decide (p < 16))) :
    Good K W (execPowerLoop avg ps rails s) := by
  unfold execPowerLoop
  repeat' first
    | (simp only [*, inv_mk, good_next, good_ite, inv_ite, and_self, State.setFs_inv, State.lowerPane_inv, State.raisePane_inv, State.readRails_inv]; done)
    | contradiction
    | split
    | with_reducible refine inv_foldl (fun _ _ _ => ?_) ?_
    | with_reducible apply State.losePin_inv
    | simp only [inv_mk, good_next, good_ite, inv_ite]

theorem execThermalLoop_inv {dies hbm : List Nat} {ps : List Nat} {s : State} (hs : s.Inv K W) (hw : dies.length = 4 ∧ hbm.length = 8 ∧ ps.all (fun p => decide (p < 16))) :
    Good K W (execThermalLoop dies hbm ps s) := by
  unfold execThermalLoop
  repeat' first
    | (simp only [*, good_next, good_ite, and_self, State.setFs_inv, State.lowerPane_inv, State.raisePane_inv]; done)
    | contradiction
    | split
    | with_reducible refine inv_foldl (fun _ _ _ => ?_) ?_
    | simp only [good_next, good_ite]

theorem State.refuseEntry_inv {s : State} {code : Nat} (hs : s.Inv K W) :
    (State.refuseEntry s code).Inv K W := by
  unfold State.refuseEntry
  simp (maxDischargeDepth := 100) +contextual only [hs, State.setF_inv, State.addF_inv, State.logEvent_inv]

theorem execStandbyEntry_inv {idle : Nat} {drained : Bool} {s : State} (hs : s.Inv K W) :
    Good K W (execStandbyEntry idle drained s) := by
  unfold execStandbyEntry
  simp only [good_next, good_ite, ite_self, hs, State.setF_inv, State.refuseEntry_inv]

theorem execSleepEntry_inv {drained : Bool} {s : State} (hs : s.Inv K W) :
    Good K W (execSleepEntry drained s) := by
  unfold execSleepEntry
  repeat' first
    | (simp only [*, good_next, good_ite, inv_ite, ite_self, State.portAsk_inv, State.refuseEntry_inv]; done)
    | split
    | with_reducible refine inv_foldl (fun _ _ _ => ?_) ?_
    | with_reducible apply State.setF_inv
    | simp only [good_next]

theorem State.restartPane_inv {s : State} {q : Nat} {c : Cal × Cal} (hs : s.Inv K W) :
    (State.restartPane s q c).Inv K W := by
  unfold State.restartPane
  simp (maxDischargeDepth := 100) +contextual only [inv_ite, ite_self, hs, State.setF_inv, State.logFree_inv, State.unpend_inv, State.calibrate_inv]

theorem State.wake_inv {s : State} {cals : List (Cal × Cal)} (hs : s.Inv K W) :
    (State.wake s cals).Inv K W := by
  unfold State.wake
  extract_lets s0 s1
  have h0 : s0.Inv K W := by
    dsimp only [s0]
    split
    · exact State.clearCores_inv hs
    · exact hs
  clear_value s0
  have h1 : s1.Inv K W := inv_mk.2 h0
  clear_value s1
  exact inv_foldl (fun _ _ h => State.restartPane_inv h) (State.setF_inv h1)

theorem execRunReturn_inv {d0 : Bool} {cals : List (Cal × Cal)} {s : State} (hs : s.Inv K W) (hw : cals.length ≤ 32) :
    Good K W (execRunReturn d0 cals s) := by
  unfold execRunReturn
  repeat' first
    | (simp only [good_next, good_ite, inv_ite, ite_self, hs, State.wake_inv, hw]; done)
    | contradiction
    | split

theorem execRailOut5_inv {k mv da : Nat} {s : State} (hs : s.Inv K W) (hw : k < 13 ∧ mv < 65536 ∧ da < 65536) :
    Good K W (execRailOut5 k mv da s) := by
  unfold execRailOut5
  repeat' first
    | (simp only [inv_mk, good_next, good_ite, and_self, hs, State.setFs_inv, hw]; done)
    | contradiction
    | split

theorem execRailUndervolt_inv {k : Nat} {s : State} (hs : s.Inv K W) (hw : k < 13) :
    Good K W (execRailUndervolt k s) := by
  unfold execRailUndervolt
  repeat' first
    | (simp only [inv_mk, good_next, good_ite, inv_ite, ite_self, hs, State.resetSoon_inv, hw]; done)
    | contradiction
    | split

/-! ## Host -/

theorem State.counters_inv1 {s : State} {r : Ring} (hs : s.Inv K W) :
    Inv1 K W (State.counters s r) := by
  unfold State.counters
  repeat' first
    | (simp only [inv_fst, inv1_mk, inv1_ite, hs, State.readR_inv1]; done)
    | (rename_i heq; replace heq := congrArg Prod.fst heq; dsimp only at heq; subst heq)
    | split

theorem State.counters_inv {s : State} {r : Ring} (hs : s.Inv K W) :
    (State.counters s r).1.Inv K W := State.counters_inv1 hs

theorem State.takeRecs_inv1 {s : State} {p n : Nat} {z0 : List HostData} (hs : s.Inv K W) :
    Inv1 K W (State.takeRecs s p n z0) := by
  induction z0 generalizing s p n with
  | nil =>
    unfold State.takeRecs
    repeat' first
      | assumption
  | cons a_ l_ ih =>
    unfold State.takeRecs
    repeat' first
      | (simp only [inv_fst, inv1_mk, hs, State.bounceIn_inv1, ih]; done)
      | (rename_i heq; replace heq := congrArg Prod.fst heq; dsimp only at heq; subst heq)
      | split

theorem State.takeRecs_inv {s : State} {p n : Nat} {z0 : List HostData} (hs : s.Inv K W) :
    (State.takeRecs s p n z0).1.Inv K W := State.takeRecs_inv1 hs

theorem State.putEntries_inv {s : State} {r : Ring} {k : Nat} {z0 : Nat} {z1 : List Byte} (hs : s.Inv K W) :
    (State.putEntries s r k z0 z1).Inv K W := by
  induction z0 generalizing s r k z1 with
  | zero =>
    unfold State.putEntries
    repeat' first
      | assumption
  | succ n_ ih =>
    unfold State.putEntries
    simp only [hs, State.ringWrite_inv, ih]

theorem State.newTail_inv {s : State} {k x head : Nat} {recs : List HostData} (hs : s.Inv K W) :
    (State.newTail s k x head recs).Inv K W := by
  unfold State.newTail
  repeat' first
    | (rename_i heq; replace heq := congrArg Prod.fst heq; dsimp only at heq; subst heq)
    | split
    | simp (maxDischargeDepth := 100) +contextual only [inv_fst, inv_ite, inv1_mk, inv1_ite, hs, State.writeQ_inv, State.setRing_inv, State.putEntries_inv, State.takeRecs_inv1]

theorem State.planOut_inv {s : State} {k : Nat} {z0 : Nat} (hs : s.Inv K W) :
    (State.planOut s k z0).Inv K W := by
  induction z0 generalizing s k with
  | zero => exact hs
  | succ n ih =>
    unfold State.planOut
    dsimp only
    split
    all_goals
      rename_i heq
      replace heq := congrArg Prod.fst heq
      dsimp only at heq
      subst heq
    · exact State.readR_inv hs
    · exact ih (State.setRing_inv (State.ringBounce_inv (State.readR_inv hs)))

theorem State.newHead_inv {s : State} {k x tail at' : Nat} (hs : s.Inv K W) :
    (State.newHead s k x tail at').Inv K W := by
  unfold State.newHead
  simp (maxDischargeDepth := 100) +contextual only [inv_ite, ite_self, hs, State.writeQ_inv, State.setRing_inv, State.repost_inv, State.recomplete_inv, State.planOut_inv]

theorem State.doorbell_inv {s : State} {fn v at' : Nat} {recs : List HostData} (hs : s.Inv K W) :
    (State.doorbell s fn v at' recs).Inv K W := by
  unfold State.doorbell
  repeat' first
    | (rename_i heq; replace heq := congrArg Prod.fst heq; dsimp only at heq; subst heq)
    | split
    | simp only [inv_fst, inv_ite, hs, State.addF_inv, State.newTail_inv, State.newHead_inv, State.counters_inv1]

theorem execCtlDoorbell_inv {fn : Nat} {v : Word64} {at' : Nat} {recs : List HostData} {s : State} (hs : s.Inv K W) (hw : fn ≤ 16) :
    Good K W (execCtlDoorbell fn v at' recs s) := by
  unfold execCtlDoorbell
  repeat' first
    | (simp only [good_next, good_ite, hs, State.stir_inv, State.doorbell_inv, hw]; done)
    | contradiction
    | split

theorem State.peepPut_inv {s : State} {fn : Nat} {bs : List Byte} (hs : s.Inv K W) :
    (State.peepPut s fn bs).Inv K W := by
  unfold State.peepPut
  repeat' first
    | (simp only [inv_ite, ite_self, hs, State.addF_inv, State.ringPut_inv])
    | split

theorem State.ranuatPeep_inv {s : State} (hs : s.Inv K W) :
    (State.ranuatPeep s).Inv K W := by
  unfold State.ranuatPeep
  simp only [inv_fst, inv_ite, ite_self, hs, State.peepPut_inv, State.takeFree_inv1]

theorem execPeepholeDeliver_inv {core : Nat} {s : State} (hs : s.Inv K W) (hw : core < 256 ∨ core = 0xFFFF) :
    Good K W (execPeepholeDeliver core s) := by
  unfold execPeepholeDeliver
  repeat' first
    | assumption
    | intro _
    | contradiction
    | split
    | with_reducible apply State.addF_inv
    | with_reducible apply State.setCore_inv
    | with_reducible apply State.modCore_inv
    | with_reducible apply State.ringPut_inv
    | simp only [good_next, fits_mk, hs, State.ranuatPeep_inv]
  all_goals
    have h := hs.core core (by assumption)
    refine ⟨h.1, h.2, h.3, h.4, h.5, h.6, h.7, ?_⟩
    have := h.peep
    simp_all [Nat.le_of_succ_le]

theorem execLogCopy_inv {s : State} (hs : s.Inv K W) :
    Good K W (execLogCopy s) := by
  unfold execLogCopy
  simp only [good_next, hs, State.logCopy_inv]

theorem State.mctpSend_inv {s : State} {eid hops : Nat} {body : List Byte} (hs : s.Inv K W) :
    (State.mctpSend s eid hops body).Inv K W := by
  unfold State.mctpSend
  repeat' first
    | (simp only [inv_ite, ite_self, hs, State.logFree_inv, State.portPut_inv])
    | split

theorem execMgmtPacket_inv {s : State} (hs : s.Inv K W) :
    Good K W (execMgmtPacket s) := by
  unfold execMgmtPacket
  repeat' first
    | (simp only [inv_mk, good_next, good_ite, ite_self, hs, State.mctpSend_inv]; done)
    | split

theorem execPldmRequest_inv {r : MgmtReq} {cals : List (Cal × Cal)} {s : State} (hs : s.Inv K W) (hw : cals.length ≤ 32) :
    Good K W (execPldmRequest r cals s) := by
  unfold execPldmRequest
  repeat' first
    | (simp only [inv_mk, good_next, good_ite, inv_ite, ite_self, hs, State.wake_inv, State.mctpSend_inv, hw]; done)
    | contradiction
    | split

/-- The characters to be sent. -/
theorem inv_uartTx {s : State} {l : List UChar} {o m : List Nat} (hs : s.Inv K W) (hl : s.uartRx.length ≤ 64 → l.length ≤ 64) (hm : m.length ≤ 64) :
    State.Inv K W { s with uartRx := l, uartTx := m, uartOut := o } :=
  ⟨hs.queue, fun k => let c := hs.canonical k; { c with mem := c.mem }, fun k => ⟨(hs.fits k).1, hl (hs.fits k).2, hm, (hs.fits k).4⟩⟩

/-- The received characters. -/
theorem inv_uart {s : State} {l : List UChar} (hs : s.Inv K W) (hl : s.uartRx.length ≤ 64 → l.length ≤ 64) :
    State.Inv K W { s with uartRx := l } :=
  ⟨hs.queue, fun k => let c := hs.canonical k; { c with mem := c.mem }, fun k => ⟨(hs.fits k).1, hl (hs.fits k).2, (hs.fits k).3, (hs.fits k).4⟩⟩

theorem State.uartTake_inv {s : State} {c : UChar} (hs : s.Inv K W) :
    (State.uartTake s c).Inv K W := by
  unfold State.uartTake
  split
  · exact State.addF_inv hs
  · next h =>
    by_cases hf : c.ferr
    · rw [if_pos hf]
      exact inv_uart (State.addF_inv hs) fun _ => by
        show (s.uartRx ++ [c]).length ≤ 64
        simp
        omega
    · rw [if_neg hf]
      exact inv_uart hs fun _ => by simp; omega

theorem State.uartRun_inv {s : State} {z0 : Nat} (hs : s.Inv K W) :
    (State.uartRun s z0).Inv K W := by
  induction z0 generalizing s with
  | zero => exact hs
  | succ n ih =>
    unfold State.uartRun
    repeat' first
      | exact inv_mk.2 hs
      | exact ih (inv_mk.2 hs)
      | exact ih (inv_mk.2 (State.uartTake_inv hs))
      | exact State.uartTake_inv hs
      | exact ih (State.uartTake_inv hs)
      | simp only [inv_mk, inv_ite, hs, State.uartTake_inv, ih]
      | split

theorem State.console_inv {s : State} (hs : s.Inv K W) :
    (State.console s).Inv K W := by
  unfold State.console
  exact inv_uartTx (State.takeFree_inv hs) (fun h => le_trans (by simp) h) (by simp)

theorem execUartRxChar_inv {v : BitVec 160} {s : State} (hs : s.Inv K W) :
    Good K W (execUartRxChar v s) := by
  unfold execUartRxChar
  simp only [inv_mk, good_next, good_ite, ite_self, hs, State.uartRun_inv, State.console_inv]

theorem State.tlpData_inv {s : State} {t : Tlp} {bs : List Byte} (hs : s.Inv K W) :
    (State.tlpData s t bs).Inv K W := by
  unfold State.tlpData
  simp only [inv_mk, hs]

theorem State.tlpRefuse_inv {s : State} {t : Tlp} {abort : Bool} (hs : s.Inv K W) :
    (State.tlpRefuse s t abort).Inv K W := by
  unfold State.tlpRefuse
  simp only [inv_mk, inv_ite, ite_self, hs]

theorem State.tlpMemErr_inv {s : State} {t : Tlp} {c : Nat} (hs : s.Inv K W) :
    (State.tlpMemErr s t c).Inv K W := by
  unfold State.tlpMemErr
  simp only [inv_mk, inv_ite, ite_self, hs, State.tlpRefuse_inv]

theorem State.tlpBar0_inv {s : State} {t : Tlp} {at' : Nat} {recs : List HostData} {sigOk : Bool} (hs : s.Inv K W) :
    Good K W (State.tlpBar0 s t at' recs sigOk) := by
  unfold State.tlpBar0
  split
  · split
    · exact good_next.2 (State.doorbell_inv (State.stir_inv hs))
    split
    · exact execFwload_inv hs
    split
    · refine good_next.2 ⟨hs.queue, fun k => { hs.canonical k with fwin := ?_ }, fun k => ⟨(hs.fits k).1, (hs.fits k).2, (hs.fits k).3, (hs.fits k).4⟩⟩
      exact canon_fold (fun _ (x : Byte × Nat) => _) (fun _ x => x.1) _ (hs.canonical k).fwin
    · exact good_next.2 hs
  · split
    · exact good_next.2 (State.tlpData_inv hs)
    · exact good_next.2 (State.tlpRefuse_inv hs)

theorem State.clearW1c_inv {s : State} {r : Reg} {i v : Nat} (hs : s.Inv K W) :
    (State.clearW1c s r i v).Inv K W := by
  unfold State.clearW1c
  simp only [hs, State.wrReg_inv]

/-- A register found by its address has an index within its name's count. -/
theorem regAt_place {a : Nat} {r : Reg} {i : Nat} (h : regAt a = some (r, i)) : ∃ p ∈ regMap, p.reg = r ∧ i < p.count * p.inner := by
  obtain ⟨p, hp, e⟩ := List.exists_of_findSome?_eq_some h
  refine ⟨p, hp, ?_⟩
  unfold RegPlace.at? at e
  by_cases ha : a < p.base
  · simp [ha] at e
  rw [if_neg ha] at e
  extract_lets d o r' j at e
  by_cases hc : o < p.count ∧ j < p.inner ∧ r' = j * p.istride
  · rw [if_pos hc] at e
    cases e
    refine ⟨rfl, ?_⟩
    calc _ < _ * p.inner + p.inner := Nat.add_lt_add_left hc.2.1 _
      _ = (_ + 1) * p.inner := by ring
      _ ≤ p.count * p.inner := Nat.mul_le_mul_right _ hc.1
  · rw [if_neg hc] at e
    cases e

/-- A bound on the indices of a name, decided over the register map. -/
theorem regAt_lt {a : Nat} {r : Reg} {i n : Nat} (h : regAt a = some (r, i))
    (hn : regMap.all (fun p => p.reg != r || decide (p.count * p.inner ≤ n)) = true) : i < n := by
  obtain ⟨p, hp, e, hi⟩ := regAt_place h
  have := List.all_eq_true.1 hn p hp
  simp only [e, bne_self_eq_false, Bool.false_or, decide_eq_true_eq] at this
  omega

theorem State.bar2Write_inv {s : State} {a : Nat} {v : Word64} (hs : s.Inv K W) :
    Good K W (State.bar2Write s a v) := by
  unfold State.bar2Write
  split
  · next i h =>
    have : i < 64 := regAt_lt h (by decide)
    exact execDmaDoorbell_inv hs (by omega)
  · next i h =>
    have : i < 64 := regAt_lt h (by decide)
    split
    · exact execDmaStop_inv hs (by omega)
    · exact execDmaResume_inv hs (by omega)
  · exact good_next.2 (State.clearW1c_inv hs)
  · next i h =>
    have : i < 32 := regAt_lt h (by decide)
    exact execRsDoorbell_inv hs (by omega)
  · exact good_next.2 hs

theorem State.tlpBar2_inv {s : State} {t : Tlp} (hs : s.Inv K W) :
    Good K W (State.tlpBar2 s t) := by
  unfold State.tlpBar2
  repeat' first
    | split
    | simp only [good_next, hs, State.tlpData_inv, State.tlpRefuse_inv, State.bar2Write_inv]

theorem State.tlpBar4_inv {s : State} {t : Tlp} {sym : Syms} (hs : s.Inv K W) :
    Good K W (State.tlpBar4 s t sym) := by
  unfold State.tlpBar4
  repeat' first
    | (rename_i heq; replace heq := congrArg Prod.fst heq; dsimp only at heq; subst heq)
    | split
    | simp (maxDischargeDepth := 100) +contextual only [inv_fst, good_next, good_ite, ite_self, hs, State.stir_inv, State.markUnplanned_inv, State.tlpData_inv, State.tlpRefuse_inv, State.tlpMemErr_inv, State.read_inv1, State.write_inv1]

theorem execInboundTlp_inv {t : Tlp} {at' : Nat} {recs : List HostData} {sigOk : Bool} {sym : Syms} {s : State} (hs : s.Inv K W) (hw : t.fn ≤ 16 ∧ (t.bar = 0 ∨ t.bar = 2 ∨ t.bar = 4) ∧ 1 ≤ t.size ∧ t.size ≤ 4096) :
    Good K W (execInboundTlp t at' recs sigOk sym s) := by
  unfold execInboundTlp
  repeat' first
    | (simp only [good_next, good_ite, ite_self, and_self, hs, State.addF_inv, State.tlpRefuse_inv, State.tlpBar0_inv, State.tlpBar2_inv, State.tlpBar4_inv, hw]; done)
    | contradiction
    | split

/-! ## RegWrite -/

theorem State.storeReg_inv {s : State} {r : Reg} {i v : Nat} (hs : s.Inv K W) :
    (State.storeReg s r i v).Inv K W := by
  unfold State.storeReg
  simp (maxDischargeDepth := 100) +contextual only [inv_ite, ite_self, hs, State.wrReg_inv, State.setF_inv, State.setFs_inv]

theorem State.writeSmp_inv {s : State} {r : Reg} {p v : Nat} (hs : s.Inv K W) :
    (State.writeSmp s r p v).Inv K W := by
  unfold State.writeSmp
  simp only [inv_ite, ite_self, hs, State.modServe_inv, State.storeReg_inv]

theorem State.actReg_inv {s : State} {r : Reg} {i a : Nat} {v : Word64} {ok : Bool} (hs : s.Inv K W) (ha : regAt a = some (r, i)) {o : Out}
    (h : s.actReg r i v ok = some o) : Good K W o := by
  unfold State.actReg at h
  split at h
  case h_1 => cases h; exact execMemPhbmWrite_inv hs (regAt_lt ha (by decide))
  case h_2 => cases h; exact execMemPcelWrite_inv hs (regAt_lt ha (by decide))
  case h_3 => cases h; exact execPaneFreqRequest_inv hs (regAt_lt ha (by decide))
  case h_4 => cases h; exact execTimeStep_inv hs
  case h_5 =>
    have b : i < 36 := regAt_lt ha (by decide)
    cases h
    split
    · exact execRetrain_inv hs b
    split
    · exact execWake_inv hs b
    split
    · exact execSleep_inv hs b
    · exact execOff_inv hs b
  case h_6 =>
    have b : i < 64 := regAt_lt ha (by decide)
    cases h
    exact execDmaDoorbell_inv hs (by omega)
  case h_7 =>
    have b : i < 64 := regAt_lt ha (by decide)
    cases h
    split
    · exact execDmaStop_inv hs (by omega)
    · exact execDmaResume_inv hs (by omega)
  case h_8 =>
    have b : i < 32 := regAt_lt ha (by decide)
    cases h
    exact execRsDoorbell_inv hs (by omega)
  case h_9 =>
    have b : i < 4096 := regAt_lt ha (by decide)
    cases h
    exact execRteEntryWrite_inv hs b
  case h_10 =>
    have b : i < 128 := regAt_lt ha (by decide)
    cases h
    exact execRteEntryWrite_inv hs b
  case h_11 => cases h; exact execRtePsetWrite_inv hs (regAt_lt ha (by decide))
  case h_12 =>
    have b : i < 4096 := regAt_lt ha (by decide)
    cases h
    exact execFanEntryWrite_inv hs (by omega)
  case h_13 =>
    have b : i < 4096 := regAt_lt ha (by decide)
    cases h
    exact execFanEntryWrite_inv hs (by omega)
  case h_14 =>
    have b : i < 16384 := regAt_lt ha (by decide)
    cases h
    exact execFanEntryWrite_inv hs (by omega)
  case h_15 => cases h; exact good_next.2 (State.writeRqt_inv hs)
  case h_16 => cases h; exact good_next.2 (State.writeSmp_inv hs)
  case h_17 => cases h; exact good_next.2 (State.writeSmp_inv hs)
  case h_18 => cases h; exact good_next.2 (State.writeSmp_inv hs)
  case h_19 => cases h; exact good_next.2 (State.writeSmp_inv hs)
  case h_20 =>
    have b : i < 16 := regAt_lt ha (by decide)
    split at h
    · cases h; exact execCreate_inv hs b
    split at h
    · cases h; exact execTeardown_inv hs b
    · cases h; exact good_next.2 hs
  case h_21 =>
    have b : i < 16 := regAt_lt ha (by decide)
    cases h
    split
    · exact execStartArrive_inv (State.storeReg_inv hs) b
    · exact good_next.2 (State.storeReg_inv hs)
  case h_22 => cases h; exact good_next.2 hs
  case h_23 => cases h; exact execTamperClear_inv hs
  case h_24 => cases h; exact good_next.2 (State.updateHold_inv (State.storeReg_inv hs))
  case h_25 => cases h

theorem execRegisterWrite_inv {a : Nat} {v : Word64} {ok : Bool} {s : State} (hs : s.Inv K W) (hw : (regAt a).isSome = true) :
    Good K W (execRegisterWrite a v ok s) := by
  unfold execRegisterWrite
  split
  · next h => rw [h] at hw; cases hw
  · next r i h =>
    split
    · exact good_next.2 hs
    split
    · next o ho => exact State.actReg_inv hs h ho
    · exact good_next.2 (State.storeReg_inv hs)

end Sys2Proof.Machine
end

