-- ==== Sys2Proof/Laws/State.lean ====
section
/-! SUPPORT. One lemma per field per update of the state, and the reads of each table after a write of it. -/

namespace Sys2Proof.Machine

/-! ### State.setF: writes regs -/

@[simp] theorem State.setF_pending (s : State) (f : Fld) (i x : Nat) : (s.setF f i x).pending = s.pending := rfl
@[simp] theorem State.setF_mem (s : State) (f : Fld) (i x : Nat) : (s.setF f i x).mem = s.mem := rfl
@[simp] theorem State.setF_gran (s : State) (f : Fld) (i x : Nat) : (s.setF f i x).gran = s.gran := rfl
@[simp] theorem State.setF_flaws (s : State) (f : Fld) (i x : Nat) : (s.setF f i x).flaws = s.flaws := rfl
@[simp] theorem State.setF_keys (s : State) (f : Fld) (i x : Nat) : (s.setF f i x).keys = s.keys := rfl
@[simp] theorem State.setF_busErrs (s : State) (f : Fld) (i x : Nat) : (s.setF f i x).busErrs = s.busErrs := rfl
@[simp] theorem State.setF_skewWin (s : State) (f : Fld) (i x : Nat) : (s.setF f i x).skewWin = s.skewWin := rfl
@[simp] theorem State.setF_served (s : State) (f : Fld) (i x : Nat) : (s.setF f i x).served = s.served := rfl
@[simp] theorem State.setF_cores (s : State) (f : Fld) (i x : Nat) : (s.setF f i x).cores = s.cores := rfl
@[simp] theorem State.setF_parts (s : State) (f : Fld) (i x : Nat) : (s.setF f i x).parts = s.parts := rfl
@[simp] theorem State.setF_tctx (s : State) (f : Fld) (i x : Nat) : (s.setF f i x).tctx = s.tctx := rfl
@[simp] theorem State.setF_sctx (s : State) (f : Fld) (i x : Nat) : (s.setF f i x).sctx = s.sctx := rfl
@[simp] theorem State.setF_arrivals (s : State) (f : Fld) (i x : Nat) : (s.setF f i x).arrivals = s.arrivals := rfl
@[simp] theorem State.setF_rq (s : State) (f : Fld) (i x : Nat) : (s.setF f i x).rq = s.rq := rfl
@[simp] theorem State.setF_inbox (s : State) (f : Fld) (i x : Nat) : (s.setF f i x).inbox = s.inbox := rfl
@[simp] theorem State.setF_tags (s : State) (f : Fld) (i x : Nat) : (s.setF f i x).tags = s.tags := rfl
@[simp] theorem State.setF_nextTag (s : State) (f : Fld) (i x : Nat) : (s.setF f i x).nextTag = s.nextTag := rfl
@[simp] theorem State.setF_plans (s : State) (f : Fld) (i x : Nat) : (s.setF f i x).plans = s.plans := rfl
@[simp] theorem State.setF_nextPlan (s : State) (f : Fld) (i x : Nat) : (s.setF f i x).nextPlan = s.nextPlan := rfl
@[simp] theorem State.setF_free (s : State) (f : Fld) (i x : Nat) : (s.setF f i x).free = s.free := rfl
@[simp] theorem State.setF_rings (s : State) (f : Fld) (i x : Nat) : (s.setF f i x).rings = s.rings := rfl
@[simp] theorem State.setF_sram (s : State) (f : Fld) (i x : Nat) : (s.setF f i x).sram = s.sram := rfl
@[simp] theorem State.setF_replies (s : State) (f : Fld) (i x : Nat) : (s.setF f i x).replies = s.replies := rfl
@[simp] theorem State.setF_msix (s : State) (f : Fld) (i x : Nat) : (s.setF f i x).msix = s.msix := rfl
@[simp] theorem State.setF_log (s : State) (f : Fld) (i x : Nat) : (s.setF f i x).log = s.log := rfl
@[simp] theorem State.setF_pldm (s : State) (f : Fld) (i x : Nat) : (s.setF f i x).pldm = s.pldm := rfl
@[simp] theorem State.setF_steps (s : State) (f : Fld) (i x : Nat) : (s.setF f i x).steps = s.steps := rfl
@[simp] theorem State.setF_boot (s : State) (f : Fld) (i x : Nat) : (s.setF f i x).boot = s.boot := rfl
@[simp] theorem State.setF_scrubPos (s : State) (f : Fld) (i x : Nat) : (s.setF f i x).scrubPos = s.scrubPos := rfl
@[simp] theorem State.setF_scrubSince (s : State) (f : Fld) (i x : Nat) : (s.setF f i x).scrubSince = s.scrubSince := rfl
@[simp] theorem State.setF_unavail (s : State) (f : Fld) (i x : Nat) : (s.setF f i x).unavail = s.unavail := rfl
@[simp] theorem State.setF_drifted (s : State) (f : Fld) (i x : Nat) : (s.setF f i x).drifted = s.drifted := rfl
@[simp] theorem State.setF_locks (s : State) (f : Fld) (i x : Nat) : (s.setF f i x).locks = s.locks := rfl
@[simp] theorem State.setF_dma (s : State) (f : Fld) (i x : Nat) : (s.setF f i x).dma = s.dma := rfl
@[simp] theorem State.setF_rs (s : State) (f : Fld) (i x : Nat) : (s.setF f i x).rs = s.rs := rfl
@[simp] theorem State.setF_bounce (s : State) (f : Fld) (i x : Nat) : (s.setF f i x).bounce = s.bounce := rfl
@[simp] theorem State.setF_hostOut (s : State) (f : Fld) (i x : Nat) : (s.setF f i x).hostOut = s.hostOut := rfl
@[simp] theorem State.setF_ports (s : State) (f : Fld) (i x : Nat) : (s.setF f i x).ports = s.ports := rfl
@[simp] theorem State.setF_time (s : State) (f : Fld) (i x : Nat) : (s.setF f i x).time = s.time := rfl
@[simp] theorem State.setF_panes (s : State) (f : Fld) (i x : Nat) : (s.setF f i x).panes = s.panes := rfl
@[simp] theorem State.setF_psec (s : State) (f : Fld) (i x : Nat) : (s.setF f i x).psec = s.psec := rfl
@[simp] theorem State.setF_pairDown (s : State) (f : Fld) (i x : Nat) : (s.setF f i x).pairDown = s.pairDown := rfl
@[simp] theorem State.setF_qps (s : State) (f : Fld) (i x : Nat) : (s.setF f i x).qps = s.qps := rfl
@[simp] theorem State.setF_serves (s : State) (f : Fld) (i x : Nat) : (s.setF f i x).serves = s.serves := rfl
@[simp] theorem State.setF_reqs (s : State) (f : Fld) (i x : Nat) : (s.setF f i x).reqs = s.reqs := rfl
@[simp] theorem State.setF_custs (s : State) (f : Fld) (i x : Nat) : (s.setF f i x).custs = s.custs := rfl
@[simp] theorem State.setF_fw (s : State) (f : Fld) (i x : Nat) : (s.setF f i x).fw = s.fw := rfl
@[simp] theorem State.setF_fwin (s : State) (f : Fld) (i x : Nat) : (s.setF f i x).fwin = s.fwin := rfl
@[simp] theorem State.setF_fwrun (s : State) (f : Fld) (i x : Nat) : (s.setF f i x).fwrun = s.fwrun := rfl
@[simp] theorem State.setF_hand (s : State) (f : Fld) (i x : Nat) : (s.setF f i x).hand = s.hand := rfl
@[simp] theorem State.setF_ckpt (s : State) (f : Fld) (i x : Nat) : (s.setF f i x).ckpt = s.ckpt := rfl
@[simp] theorem State.setF_upd (s : State) (f : Fld) (i x : Nat) : (s.setF f i x).upd = s.upd := rfl
@[simp] theorem State.setF_sessions (s : State) (f : Fld) (i x : Nat) : (s.setF f i x).sessions = s.sessions := rfl
@[simp] theorem State.setF_nextSess (s : State) (f : Fld) (i x : Nat) : (s.setF f i x).nextSess = s.nextSess := rfl
@[simp] theorem State.setF_algs (s : State) (f : Fld) (i x : Nat) : (s.setF f i x).algs = s.algs := rfl
@[simp] theorem State.setF_spdm (s : State) (f : Fld) (i x : Nat) : (s.setF f i x).spdm = s.spdm := rfl
@[simp] theorem State.setF_nonces (s : State) (f : Fld) (i x : Nat) : (s.setF f i x).nonces = s.nonces := rfl
@[simp] theorem State.setF_debugWant (s : State) (f : Fld) (i x : Nat) : (s.setF f i x).debugWant = s.debugWant := rfl
@[simp] theorem State.setF_tamp (s : State) (f : Fld) (i x : Nat) : (s.setF f i x).tamp = s.tamp := rfl
@[simp] theorem State.setF_uartRx (s : State) (f : Fld) (i x : Nat) : (s.setF f i x).uartRx = s.uartRx := rfl
@[simp] theorem State.setF_uartTx (s : State) (f : Fld) (i x : Nat) : (s.setF f i x).uartTx = s.uartTx := rfl
@[simp] theorem State.setF_uartOut (s : State) (f : Fld) (i x : Nat) : (s.setF f i x).uartOut = s.uartOut := rfl
@[simp] theorem State.setF_uartLine (s : State) (f : Fld) (i x : Nat) : (s.setF f i x).uartLine = s.uartLine := rfl
@[simp] theorem State.setF_tlpOut (s : State) (f : Fld) (i x : Nat) : (s.setF f i x).tlpOut = s.tlpOut := rfl
@[simp] theorem State.setF_mctpIn (s : State) (f : Fld) (i x : Nat) : (s.setF f i x).mctpIn = s.mctpIn := rfl
@[simp] theorem State.setF_mctpOut (s : State) (f : Fld) (i x : Nat) : (s.setF f i x).mctpOut = s.mctpOut := rfl
@[simp] theorem State.setF_overPeriods (s : State) (f : Fld) (i x : Nat) : (s.setF f i x).overPeriods = s.overPeriods := rfl
@[simp] theorem State.setF_lockQ (s : State) (f : Fld) (i x : Nat) : (s.setF f i x).lockQ = s.lockQ := rfl
@[simp] theorem State.setF_eid (s : State) (f : Fld) (i x : Nat) : (s.setF f i x).eid = s.eid := rfl
@[simp] theorem State.setF_ptpOut (s : State) (f : Fld) (i x : Nat) : (s.setF f i x).ptpOut = s.ptpOut := rfl
@[simp] theorem State.setF_waking (s : State) (f : Fld) (i x : Nat) : (s.setF f i x).waking = s.waking := rfl
@[simp] theorem State.setF_core_at (s : State) (f : Fld) (i x : Nat) (j : Nat) : (s.setF f i x).core j = s.core j := rfl
@[simp] theorem State.setF_part_at (s : State) (f : Fld) (i x : Nat) (j : Nat) : (s.setF f i x).part j = s.part j := rfl
@[simp] theorem State.setF_tctxOf_at (s : State) (f : Fld) (i x : Nat) (j : Nat) : (s.setF f i x).tctxOf j = s.tctxOf j := rfl
@[simp] theorem State.setF_sctxOf_at (s : State) (f : Fld) (i x : Nat) (j : Nat) : (s.setF f i x).sctxOf j = s.sctxOf j := rfl
@[simp] theorem State.setF_plan_at (s : State) (f : Fld) (i x : Nat) (j : Nat) : (s.setF f i x).plan j = s.plan j := rfl
@[simp] theorem State.setF_ring_at (s : State) (f : Fld) (i x : Nat) (j : Nat) : (s.setF f i x).ring j = s.ring j := rfl
@[simp] theorem State.setF_chan_at (s : State) (f : Fld) (i x : Nat) (j : Nat) : (s.setF f i x).chan j = s.chan j := rfl
@[simp] theorem State.setF_port_at (s : State) (f : Fld) (i x : Nat) (j : Nat) : (s.setF f i x).port j = s.port j := rfl
@[simp] theorem State.setF_pane_at (s : State) (f : Fld) (i x : Nat) (j : Nat) : (s.setF f i x).pane j = s.pane j := rfl
@[simp] theorem State.setF_qp_at (s : State) (f : Fld) (i x : Nat) (j : Nat) : (s.setF f i x).qp j = s.qp j := rfl
@[simp] theorem State.setF_req_at (s : State) (f : Fld) (i x : Nat) (j : Nat) : (s.setF f i x).req j = s.req j := rfl
@[simp] theorem State.setF_byte_at (s : State) (f : Fld) (i x : Nat) (j : Nat) : (s.setF f i x).byte j = s.byte j := rfl

/-! ### State.wrReg: writes regs -/

@[simp] theorem State.wrReg_pending (s : State) (r : Reg) (i v : Nat) : (s.wrReg r i v).pending = s.pending := rfl
@[simp] theorem State.wrReg_mem (s : State) (r : Reg) (i v : Nat) : (s.wrReg r i v).mem = s.mem := rfl
@[simp] theorem State.wrReg_gran (s : State) (r : Reg) (i v : Nat) : (s.wrReg r i v).gran = s.gran := rfl
@[simp] theorem State.wrReg_flaws (s : State) (r : Reg) (i v : Nat) : (s.wrReg r i v).flaws = s.flaws := rfl
@[simp] theorem State.wrReg_keys (s : State) (r : Reg) (i v : Nat) : (s.wrReg r i v).keys = s.keys := rfl
@[simp] theorem State.wrReg_busErrs (s : State) (r : Reg) (i v : Nat) : (s.wrReg r i v).busErrs = s.busErrs := rfl
@[simp] theorem State.wrReg_skewWin (s : State) (r : Reg) (i v : Nat) : (s.wrReg r i v).skewWin = s.skewWin := rfl
@[simp] theorem State.wrReg_served (s : State) (r : Reg) (i v : Nat) : (s.wrReg r i v).served = s.served := rfl
@[simp] theorem State.wrReg_cores (s : State) (r : Reg) (i v : Nat) : (s.wrReg r i v).cores = s.cores := rfl
@[simp] theorem State.wrReg_parts (s : State) (r : Reg) (i v : Nat) : (s.wrReg r i v).parts = s.parts := rfl
@[simp] theorem State.wrReg_tctx (s : State) (r : Reg) (i v : Nat) : (s.wrReg r i v).tctx = s.tctx := rfl
@[simp] theorem State.wrReg_sctx (s : State) (r : Reg) (i v : Nat) : (s.wrReg r i v).sctx = s.sctx := rfl
@[simp] theorem State.wrReg_arrivals (s : State) (r : Reg) (i v : Nat) : (s.wrReg r i v).arrivals = s.arrivals := rfl
@[simp] theorem State.wrReg_rq (s : State) (r : Reg) (i v : Nat) : (s.wrReg r i v).rq = s.rq := rfl
@[simp] theorem State.wrReg_inbox (s : State) (r : Reg) (i v : Nat) : (s.wrReg r i v).inbox = s.inbox := rfl
@[simp] theorem State.wrReg_tags (s : State) (r : Reg) (i v : Nat) : (s.wrReg r i v).tags = s.tags := rfl
@[simp] theorem State.wrReg_nextTag (s : State) (r : Reg) (i v : Nat) : (s.wrReg r i v).nextTag = s.nextTag := rfl
@[simp] theorem State.wrReg_plans (s : State) (r : Reg) (i v : Nat) : (s.wrReg r i v).plans = s.plans := rfl
@[simp] theorem State.wrReg_nextPlan (s : State) (r : Reg) (i v : Nat) : (s.wrReg r i v).nextPlan = s.nextPlan := rfl
@[simp] theorem State.wrReg_free (s : State) (r : Reg) (i v : Nat) : (s.wrReg r i v).free = s.free := rfl
@[simp] theorem State.wrReg_rings (s : State) (r : Reg) (i v : Nat) : (s.wrReg r i v).rings = s.rings := rfl
@[simp] theorem State.wrReg_sram (s : State) (r : Reg) (i v : Nat) : (s.wrReg r i v).sram = s.sram := rfl
@[simp] theorem State.wrReg_replies (s : State) (r : Reg) (i v : Nat) : (s.wrReg r i v).replies = s.replies := rfl
@[simp] theorem State.wrReg_msix (s : State) (r : Reg) (i v : Nat) : (s.wrReg r i v).msix = s.msix := rfl
@[simp] theorem State.wrReg_log (s : State) (r : Reg) (i v : Nat) : (s.wrReg r i v).log = s.log := rfl
@[simp] theorem State.wrReg_pldm (s : State) (r : Reg) (i v : Nat) : (s.wrReg r i v).pldm = s.pldm := rfl
@[simp] theorem State.wrReg_steps (s : State) (r : Reg) (i v : Nat) : (s.wrReg r i v).steps = s.steps := rfl
@[simp] theorem State.wrReg_boot (s : State) (r : Reg) (i v : Nat) : (s.wrReg r i v).boot = s.boot := rfl
@[simp] theorem State.wrReg_scrubPos (s : State) (r : Reg) (i v : Nat) : (s.wrReg r i v).scrubPos = s.scrubPos := rfl
@[simp] theorem State.wrReg_scrubSince (s : State) (r : Reg) (i v : Nat) : (s.wrReg r i v).scrubSince = s.scrubSince := rfl
@[simp] theorem State.wrReg_unavail (s : State) (r : Reg) (i v : Nat) : (s.wrReg r i v).unavail = s.unavail := rfl
@[simp] theorem State.wrReg_drifted (s : State) (r : Reg) (i v : Nat) : (s.wrReg r i v).drifted = s.drifted := rfl
@[simp] theorem State.wrReg_locks (s : State) (r : Reg) (i v : Nat) : (s.wrReg r i v).locks = s.locks := rfl
@[simp] theorem State.wrReg_dma (s : State) (r : Reg) (i v : Nat) : (s.wrReg r i v).dma = s.dma := rfl
@[simp] theorem State.wrReg_rs (s : State) (r : Reg) (i v : Nat) : (s.wrReg r i v).rs = s.rs := rfl
@[simp] theorem State.wrReg_bounce (s : State) (r : Reg) (i v : Nat) : (s.wrReg r i v).bounce = s.bounce := rfl
@[simp] theorem State.wrReg_hostOut (s : State) (r : Reg) (i v : Nat) : (s.wrReg r i v).hostOut = s.hostOut := rfl
@[simp] theorem State.wrReg_ports (s : State) (r : Reg) (i v : Nat) : (s.wrReg r i v).ports = s.ports := rfl
@[simp] theorem State.wrReg_time (s : State) (r : Reg) (i v : Nat) : (s.wrReg r i v).time = s.time := rfl
@[simp] theorem State.wrReg_panes (s : State) (r : Reg) (i v : Nat) : (s.wrReg r i v).panes = s.panes := rfl
@[simp] theorem State.wrReg_psec (s : State) (r : Reg) (i v : Nat) : (s.wrReg r i v).psec = s.psec := rfl
@[simp] theorem State.wrReg_pairDown (s : State) (r : Reg) (i v : Nat) : (s.wrReg r i v).pairDown = s.pairDown := rfl
@[simp] theorem State.wrReg_qps (s : State) (r : Reg) (i v : Nat) : (s.wrReg r i v).qps = s.qps := rfl
@[simp] theorem State.wrReg_serves (s : State) (r : Reg) (i v : Nat) : (s.wrReg r i v).serves = s.serves := rfl
@[simp] theorem State.wrReg_reqs (s : State) (r : Reg) (i v : Nat) : (s.wrReg r i v).reqs = s.reqs := rfl
@[simp] theorem State.wrReg_custs (s : State) (r : Reg) (i v : Nat) : (s.wrReg r i v).custs = s.custs := rfl
@[simp] theorem State.wrReg_fw (s : State) (r : Reg) (i v : Nat) : (s.wrReg r i v).fw = s.fw := rfl
@[simp] theorem State.wrReg_fwin (s : State) (r : Reg) (i v : Nat) : (s.wrReg r i v).fwin = s.fwin := rfl
@[simp] theorem State.wrReg_fwrun (s : State) (r : Reg) (i v : Nat) : (s.wrReg r i v).fwrun = s.fwrun := rfl
@[simp] theorem State.wrReg_hand (s : State) (r : Reg) (i v : Nat) : (s.wrReg r i v).hand = s.hand := rfl
@[simp] theorem State.wrReg_ckpt (s : State) (r : Reg) (i v : Nat) : (s.wrReg r i v).ckpt = s.ckpt := rfl
@[simp] theorem State.wrReg_upd (s : State) (r : Reg) (i v : Nat) : (s.wrReg r i v).upd = s.upd := rfl
@[simp] theorem State.wrReg_sessions (s : State) (r : Reg) (i v : Nat) : (s.wrReg r i v).sessions = s.sessions := rfl
@[simp] theorem State.wrReg_nextSess (s : State) (r : Reg) (i v : Nat) : (s.wrReg r i v).nextSess = s.nextSess := rfl
@[simp] theorem State.wrReg_algs (s : State) (r : Reg) (i v : Nat) : (s.wrReg r i v).algs = s.algs := rfl
@[simp] theorem State.wrReg_spdm (s : State) (r : Reg) (i v : Nat) : (s.wrReg r i v).spdm = s.spdm := rfl
@[simp] theorem State.wrReg_nonces (s : State) (r : Reg) (i v : Nat) : (s.wrReg r i v).nonces = s.nonces := rfl
@[simp] theorem State.wrReg_debugWant (s : State) (r : Reg) (i v : Nat) : (s.wrReg r i v).debugWant = s.debugWant := rfl
@[simp] theorem State.wrReg_tamp (s : State) (r : Reg) (i v : Nat) : (s.wrReg r i v).tamp = s.tamp := rfl
@[simp] theorem State.wrReg_uartRx (s : State) (r : Reg) (i v : Nat) : (s.wrReg r i v).uartRx = s.uartRx := rfl
@[simp] theorem State.wrReg_uartTx (s : State) (r : Reg) (i v : Nat) : (s.wrReg r i v).uartTx = s.uartTx := rfl
@[simp] theorem State.wrReg_uartOut (s : State) (r : Reg) (i v : Nat) : (s.wrReg r i v).uartOut = s.uartOut := rfl
@[simp] theorem State.wrReg_uartLine (s : State) (r : Reg) (i v : Nat) : (s.wrReg r i v).uartLine = s.uartLine := rfl
@[simp] theorem State.wrReg_tlpOut (s : State) (r : Reg) (i v : Nat) : (s.wrReg r i v).tlpOut = s.tlpOut := rfl
@[simp] theorem State.wrReg_mctpIn (s : State) (r : Reg) (i v : Nat) : (s.wrReg r i v).mctpIn = s.mctpIn := rfl
@[simp] theorem State.wrReg_mctpOut (s : State) (r : Reg) (i v : Nat) : (s.wrReg r i v).mctpOut = s.mctpOut := rfl
@[simp] theorem State.wrReg_overPeriods (s : State) (r : Reg) (i v : Nat) : (s.wrReg r i v).overPeriods = s.overPeriods := rfl
@[simp] theorem State.wrReg_lockQ (s : State) (r : Reg) (i v : Nat) : (s.wrReg r i v).lockQ = s.lockQ := rfl
@[simp] theorem State.wrReg_eid (s : State) (r : Reg) (i v : Nat) : (s.wrReg r i v).eid = s.eid := rfl
@[simp] theorem State.wrReg_ptpOut (s : State) (r : Reg) (i v : Nat) : (s.wrReg r i v).ptpOut = s.ptpOut := rfl
@[simp] theorem State.wrReg_waking (s : State) (r : Reg) (i v : Nat) : (s.wrReg r i v).waking = s.waking := rfl
@[simp] theorem State.wrReg_core_at (s : State) (r : Reg) (i v : Nat) (j : Nat) : (s.wrReg r i v).core j = s.core j := rfl
@[simp] theorem State.wrReg_part_at (s : State) (r : Reg) (i v : Nat) (j : Nat) : (s.wrReg r i v).part j = s.part j := rfl
@[simp] theorem State.wrReg_tctxOf_at (s : State) (r : Reg) (i v : Nat) (j : Nat) : (s.wrReg r i v).tctxOf j = s.tctxOf j := rfl
@[simp] theorem State.wrReg_sctxOf_at (s : State) (r : Reg) (i v : Nat) (j : Nat) : (s.wrReg r i v).sctxOf j = s.sctxOf j := rfl
@[simp] theorem State.wrReg_plan_at (s : State) (r : Reg) (i v : Nat) (j : Nat) : (s.wrReg r i v).plan j = s.plan j := rfl
@[simp] theorem State.wrReg_ring_at (s : State) (r : Reg) (i v : Nat) (j : Nat) : (s.wrReg r i v).ring j = s.ring j := rfl
@[simp] theorem State.wrReg_chan_at (s : State) (r : Reg) (i v : Nat) (j : Nat) : (s.wrReg r i v).chan j = s.chan j := rfl
@[simp] theorem State.wrReg_port_at (s : State) (r : Reg) (i v : Nat) (j : Nat) : (s.wrReg r i v).port j = s.port j := rfl
@[simp] theorem State.wrReg_pane_at (s : State) (r : Reg) (i v : Nat) (j : Nat) : (s.wrReg r i v).pane j = s.pane j := rfl
@[simp] theorem State.wrReg_qp_at (s : State) (r : Reg) (i v : Nat) (j : Nat) : (s.wrReg r i v).qp j = s.qp j := rfl
@[simp] theorem State.wrReg_req_at (s : State) (r : Reg) (i v : Nat) (j : Nat) : (s.wrReg r i v).req j = s.req j := rfl
@[simp] theorem State.wrReg_byte_at (s : State) (r : Reg) (i v : Nat) (j : Nat) : (s.wrReg r i v).byte j = s.byte j := rfl

/-! ### State.setByte: writes mem -/

@[simp] theorem State.setByte_pending (s : State) (a : Nat) (b : Byte) : (s.setByte a b).pending = s.pending := rfl
@[simp] theorem State.setByte_regs (s : State) (a : Nat) (b : Byte) : (s.setByte a b).regs = s.regs := rfl
@[simp] theorem State.setByte_gran (s : State) (a : Nat) (b : Byte) : (s.setByte a b).gran = s.gran := rfl
@[simp] theorem State.setByte_flaws (s : State) (a : Nat) (b : Byte) : (s.setByte a b).flaws = s.flaws := rfl
@[simp] theorem State.setByte_keys (s : State) (a : Nat) (b : Byte) : (s.setByte a b).keys = s.keys := rfl
@[simp] theorem State.setByte_busErrs (s : State) (a : Nat) (b : Byte) : (s.setByte a b).busErrs = s.busErrs := rfl
@[simp] theorem State.setByte_skewWin (s : State) (a : Nat) (b : Byte) : (s.setByte a b).skewWin = s.skewWin := rfl
@[simp] theorem State.setByte_served (s : State) (a : Nat) (b : Byte) : (s.setByte a b).served = s.served := rfl
@[simp] theorem State.setByte_cores (s : State) (a : Nat) (b : Byte) : (s.setByte a b).cores = s.cores := rfl
@[simp] theorem State.setByte_parts (s : State) (a : Nat) (b : Byte) : (s.setByte a b).parts = s.parts := rfl
@[simp] theorem State.setByte_tctx (s : State) (a : Nat) (b : Byte) : (s.setByte a b).tctx = s.tctx := rfl
@[simp] theorem State.setByte_sctx (s : State) (a : Nat) (b : Byte) : (s.setByte a b).sctx = s.sctx := rfl
@[simp] theorem State.setByte_arrivals (s : State) (a : Nat) (b : Byte) : (s.setByte a b).arrivals = s.arrivals := rfl
@[simp] theorem State.setByte_rq (s : State) (a : Nat) (b : Byte) : (s.setByte a b).rq = s.rq := rfl
@[simp] theorem State.setByte_inbox (s : State) (a : Nat) (b : Byte) : (s.setByte a b).inbox = s.inbox := rfl
@[simp] theorem State.setByte_tags (s : State) (a : Nat) (b : Byte) : (s.setByte a b).tags = s.tags := rfl
@[simp] theorem State.setByte_nextTag (s : State) (a : Nat) (b : Byte) : (s.setByte a b).nextTag = s.nextTag := rfl
@[simp] theorem State.setByte_plans (s : State) (a : Nat) (b : Byte) : (s.setByte a b).plans = s.plans := rfl
@[simp] theorem State.setByte_nextPlan (s : State) (a : Nat) (b : Byte) : (s.setByte a b).nextPlan = s.nextPlan := rfl
@[simp] theorem State.setByte_free (s : State) (a : Nat) (b : Byte) : (s.setByte a b).free = s.free := rfl
@[simp] theorem State.setByte_rings (s : State) (a : Nat) (b : Byte) : (s.setByte a b).rings = s.rings := rfl
@[simp] theorem State.setByte_sram (s : State) (a : Nat) (b : Byte) : (s.setByte a b).sram = s.sram := rfl
@[simp] theorem State.setByte_replies (s : State) (a : Nat) (b : Byte) : (s.setByte a b).replies = s.replies := rfl
@[simp] theorem State.setByte_msix (s : State) (a : Nat) (b : Byte) : (s.setByte a b).msix = s.msix := rfl
@[simp] theorem State.setByte_log (s : State) (a : Nat) (b : Byte) : (s.setByte a b).log = s.log := rfl
@[simp] theorem State.setByte_pldm (s : State) (a : Nat) (b : Byte) : (s.setByte a b).pldm = s.pldm := rfl
@[simp] theorem State.setByte_steps (s : State) (a : Nat) (b : Byte) : (s.setByte a b).steps = s.steps := rfl
@[simp] theorem State.setByte_boot (s : State) (a : Nat) (b : Byte) : (s.setByte a b).boot = s.boot := rfl
@[simp] theorem State.setByte_scrubPos (s : State) (a : Nat) (b : Byte) : (s.setByte a b).scrubPos = s.scrubPos := rfl
@[simp] theorem State.setByte_scrubSince (s : State) (a : Nat) (b : Byte) : (s.setByte a b).scrubSince = s.scrubSince := rfl
@[simp] theorem State.setByte_unavail (s : State) (a : Nat) (b : Byte) : (s.setByte a b).unavail = s.unavail := rfl
@[simp] theorem State.setByte_drifted (s : State) (a : Nat) (b : Byte) : (s.setByte a b).drifted = s.drifted := rfl
@[simp] theorem State.setByte_locks (s : State) (a : Nat) (b : Byte) : (s.setByte a b).locks = s.locks := rfl
@[simp] theorem State.setByte_dma (s : State) (a : Nat) (b : Byte) : (s.setByte a b).dma = s.dma := rfl
@[simp] theorem State.setByte_rs (s : State) (a : Nat) (b : Byte) : (s.setByte a b).rs = s.rs := rfl
@[simp] theorem State.setByte_bounce (s : State) (a : Nat) (b : Byte) : (s.setByte a b).bounce = s.bounce := rfl
@[simp] theorem State.setByte_hostOut (s : State) (a : Nat) (b : Byte) : (s.setByte a b).hostOut = s.hostOut := rfl
@[simp] theorem State.setByte_ports (s : State) (a : Nat) (b : Byte) : (s.setByte a b).ports = s.ports := rfl
@[simp] theorem State.setByte_time (s : State) (a : Nat) (b : Byte) : (s.setByte a b).time = s.time := rfl
@[simp] theorem State.setByte_panes (s : State) (a : Nat) (b : Byte) : (s.setByte a b).panes = s.panes := rfl
@[simp] theorem State.setByte_psec (s : State) (a : Nat) (b : Byte) : (s.setByte a b).psec = s.psec := rfl
@[simp] theorem State.setByte_pairDown (s : State) (a : Nat) (b : Byte) : (s.setByte a b).pairDown = s.pairDown := rfl
@[simp] theorem State.setByte_qps (s : State) (a : Nat) (b : Byte) : (s.setByte a b).qps = s.qps := rfl
@[simp] theorem State.setByte_serves (s : State) (a : Nat) (b : Byte) : (s.setByte a b).serves = s.serves := rfl
@[simp] theorem State.setByte_reqs (s : State) (a : Nat) (b : Byte) : (s.setByte a b).reqs = s.reqs := rfl
@[simp] theorem State.setByte_custs (s : State) (a : Nat) (b : Byte) : (s.setByte a b).custs = s.custs := rfl
@[simp] theorem State.setByte_fw (s : State) (a : Nat) (b : Byte) : (s.setByte a b).fw = s.fw := rfl
@[simp] theorem State.setByte_fwin (s : State) (a : Nat) (b : Byte) : (s.setByte a b).fwin = s.fwin := rfl
@[simp] theorem State.setByte_fwrun (s : State) (a : Nat) (b : Byte) : (s.setByte a b).fwrun = s.fwrun := rfl
@[simp] theorem State.setByte_hand (s : State) (a : Nat) (b : Byte) : (s.setByte a b).hand = s.hand := rfl
@[simp] theorem State.setByte_ckpt (s : State) (a : Nat) (b : Byte) : (s.setByte a b).ckpt = s.ckpt := rfl
@[simp] theorem State.setByte_upd (s : State) (a : Nat) (b : Byte) : (s.setByte a b).upd = s.upd := rfl
@[simp] theorem State.setByte_sessions (s : State) (a : Nat) (b : Byte) : (s.setByte a b).sessions = s.sessions := rfl
@[simp] theorem State.setByte_nextSess (s : State) (a : Nat) (b : Byte) : (s.setByte a b).nextSess = s.nextSess := rfl
@[simp] theorem State.setByte_algs (s : State) (a : Nat) (b : Byte) : (s.setByte a b).algs = s.algs := rfl
@[simp] theorem State.setByte_spdm (s : State) (a : Nat) (b : Byte) : (s.setByte a b).spdm = s.spdm := rfl
@[simp] theorem State.setByte_nonces (s : State) (a : Nat) (b : Byte) : (s.setByte a b).nonces = s.nonces := rfl
@[simp] theorem State.setByte_debugWant (s : State) (a : Nat) (b : Byte) : (s.setByte a b).debugWant = s.debugWant := rfl
@[simp] theorem State.setByte_tamp (s : State) (a : Nat) (b : Byte) : (s.setByte a b).tamp = s.tamp := rfl
@[simp] theorem State.setByte_uartRx (s : State) (a : Nat) (b : Byte) : (s.setByte a b).uartRx = s.uartRx := rfl
@[simp] theorem State.setByte_uartTx (s : State) (a : Nat) (b : Byte) : (s.setByte a b).uartTx = s.uartTx := rfl
@[simp] theorem State.setByte_uartOut (s : State) (a : Nat) (b : Byte) : (s.setByte a b).uartOut = s.uartOut := rfl
@[simp] theorem State.setByte_uartLine (s : State) (a : Nat) (b : Byte) : (s.setByte a b).uartLine = s.uartLine := rfl
@[simp] theorem State.setByte_tlpOut (s : State) (a : Nat) (b : Byte) : (s.setByte a b).tlpOut = s.tlpOut := rfl
@[simp] theorem State.setByte_mctpIn (s : State) (a : Nat) (b : Byte) : (s.setByte a b).mctpIn = s.mctpIn := rfl
@[simp] theorem State.setByte_mctpOut (s : State) (a : Nat) (b : Byte) : (s.setByte a b).mctpOut = s.mctpOut := rfl
@[simp] theorem State.setByte_overPeriods (s : State) (a : Nat) (b : Byte) : (s.setByte a b).overPeriods = s.overPeriods := rfl
@[simp] theorem State.setByte_lockQ (s : State) (a : Nat) (b : Byte) : (s.setByte a b).lockQ = s.lockQ := rfl
@[simp] theorem State.setByte_eid (s : State) (a : Nat) (b : Byte) : (s.setByte a b).eid = s.eid := rfl
@[simp] theorem State.setByte_ptpOut (s : State) (a : Nat) (b : Byte) : (s.setByte a b).ptpOut = s.ptpOut := rfl
@[simp] theorem State.setByte_waking (s : State) (a : Nat) (b : Byte) : (s.setByte a b).waking = s.waking := rfl
@[simp] theorem State.setByte_rdReg (s : State) (a : Nat) (b : Byte) (r' : Reg) (j : Nat) : (s.setByte a b).rdReg r' j = s.rdReg r' j := rfl
@[simp] theorem State.setByte_getF (s : State) (a : Nat) (b : Byte) (f' : Fld) (j : Nat) : (s.setByte a b).getF f' j = s.getF f' j := rfl
@[simp] theorem State.setByte_core_at (s : State) (a : Nat) (b : Byte) (j : Nat) : (s.setByte a b).core j = s.core j := rfl
@[simp] theorem State.setByte_part_at (s : State) (a : Nat) (b : Byte) (j : Nat) : (s.setByte a b).part j = s.part j := rfl
@[simp] theorem State.setByte_tctxOf_at (s : State) (a : Nat) (b : Byte) (j : Nat) : (s.setByte a b).tctxOf j = s.tctxOf j := rfl
@[simp] theorem State.setByte_sctxOf_at (s : State) (a : Nat) (b : Byte) (j : Nat) : (s.setByte a b).sctxOf j = s.sctxOf j := rfl
@[simp] theorem State.setByte_plan_at (s : State) (a : Nat) (b : Byte) (j : Nat) : (s.setByte a b).plan j = s.plan j := rfl
@[simp] theorem State.setByte_ring_at (s : State) (a : Nat) (b : Byte) (j : Nat) : (s.setByte a b).ring j = s.ring j := rfl
@[simp] theorem State.setByte_chan_at (s : State) (a : Nat) (b : Byte) (j : Nat) : (s.setByte a b).chan j = s.chan j := rfl
@[simp] theorem State.setByte_port_at (s : State) (a : Nat) (b : Byte) (j : Nat) : (s.setByte a b).port j = s.port j := rfl
@[simp] theorem State.setByte_pane_at (s : State) (a : Nat) (b : Byte) (j : Nat) : (s.setByte a b).pane j = s.pane j := rfl
@[simp] theorem State.setByte_qp_at (s : State) (a : Nat) (b : Byte) (j : Nat) : (s.setByte a b).qp j = s.qp j := rfl
@[simp] theorem State.setByte_req_at (s : State) (a : Nat) (b : Byte) (j : Nat) : (s.setByte a b).req j = s.req j := rfl

/-! ### State.setCore: writes cores -/

@[simp] theorem State.setCore_pending (s : State) (n : Nat) (c : Core) : (s.setCore n c).pending = s.pending := rfl
@[simp] theorem State.setCore_regs (s : State) (n : Nat) (c : Core) : (s.setCore n c).regs = s.regs := rfl
@[simp] theorem State.setCore_mem (s : State) (n : Nat) (c : Core) : (s.setCore n c).mem = s.mem := rfl
@[simp] theorem State.setCore_gran (s : State) (n : Nat) (c : Core) : (s.setCore n c).gran = s.gran := rfl
@[simp] theorem State.setCore_flaws (s : State) (n : Nat) (c : Core) : (s.setCore n c).flaws = s.flaws := rfl
@[simp] theorem State.setCore_keys (s : State) (n : Nat) (c : Core) : (s.setCore n c).keys = s.keys := rfl
@[simp] theorem State.setCore_busErrs (s : State) (n : Nat) (c : Core) : (s.setCore n c).busErrs = s.busErrs := rfl
@[simp] theorem State.setCore_skewWin (s : State) (n : Nat) (c : Core) : (s.setCore n c).skewWin = s.skewWin := rfl
@[simp] theorem State.setCore_served (s : State) (n : Nat) (c : Core) : (s.setCore n c).served = s.served := rfl
@[simp] theorem State.setCore_parts (s : State) (n : Nat) (c : Core) : (s.setCore n c).parts = s.parts := rfl
@[simp] theorem State.setCore_tctx (s : State) (n : Nat) (c : Core) : (s.setCore n c).tctx = s.tctx := rfl
@[simp] theorem State.setCore_sctx (s : State) (n : Nat) (c : Core) : (s.setCore n c).sctx = s.sctx := rfl
@[simp] theorem State.setCore_arrivals (s : State) (n : Nat) (c : Core) : (s.setCore n c).arrivals = s.arrivals := rfl
@[simp] theorem State.setCore_rq (s : State) (n : Nat) (c : Core) : (s.setCore n c).rq = s.rq := rfl
@[simp] theorem State.setCore_inbox (s : State) (n : Nat) (c : Core) : (s.setCore n c).inbox = s.inbox := rfl
@[simp] theorem State.setCore_tags (s : State) (n : Nat) (c : Core) : (s.setCore n c).tags = s.tags := rfl
@[simp] theorem State.setCore_nextTag (s : State) (n : Nat) (c : Core) : (s.setCore n c).nextTag = s.nextTag := rfl
@[simp] theorem State.setCore_plans (s : State) (n : Nat) (c : Core) : (s.setCore n c).plans = s.plans := rfl
@[simp] theorem State.setCore_nextPlan (s : State) (n : Nat) (c : Core) : (s.setCore n c).nextPlan = s.nextPlan := rfl
@[simp] theorem State.setCore_free (s : State) (n : Nat) (c : Core) : (s.setCore n c).free = s.free := rfl
@[simp] theorem State.setCore_rings (s : State) (n : Nat) (c : Core) : (s.setCore n c).rings = s.rings := rfl
@[simp] theorem State.setCore_sram (s : State) (n : Nat) (c : Core) : (s.setCore n c).sram = s.sram := rfl
@[simp] theorem State.setCore_replies (s : State) (n : Nat) (c : Core) : (s.setCore n c).replies = s.replies := rfl
@[simp] theorem State.setCore_msix (s : State) (n : Nat) (c : Core) : (s.setCore n c).msix = s.msix := rfl
@[simp] theorem State.setCore_log (s : State) (n : Nat) (c : Core) : (s.setCore n c).log = s.log := rfl
@[simp] theorem State.setCore_pldm (s : State) (n : Nat) (c : Core) : (s.setCore n c).pldm = s.pldm := rfl
@[simp] theorem State.setCore_steps (s : State) (n : Nat) (c : Core) : (s.setCore n c).steps = s.steps := rfl
@[simp] theorem State.setCore_boot (s : State) (n : Nat) (c : Core) : (s.setCore n c).boot = s.boot := rfl
@[simp] theorem State.setCore_scrubPos (s : State) (n : Nat) (c : Core) : (s.setCore n c).scrubPos = s.scrubPos := rfl
@[simp] theorem State.setCore_scrubSince (s : State) (n : Nat) (c : Core) : (s.setCore n c).scrubSince = s.scrubSince := rfl
@[simp] theorem State.setCore_unavail (s : State) (n : Nat) (c : Core) : (s.setCore n c).unavail = s.unavail := rfl
@[simp] theorem State.setCore_drifted (s : State) (n : Nat) (c : Core) : (s.setCore n c).drifted = s.drifted := rfl
@[simp] theorem State.setCore_locks (s : State) (n : Nat) (c : Core) : (s.setCore n c).locks = s.locks := rfl
@[simp] theorem State.setCore_dma (s : State) (n : Nat) (c : Core) : (s.setCore n c).dma = s.dma := rfl
@[simp] theorem State.setCore_rs (s : State) (n : Nat) (c : Core) : (s.setCore n c).rs = s.rs := rfl
@[simp] theorem State.setCore_bounce (s : State) (n : Nat) (c : Core) : (s.setCore n c).bounce = s.bounce := rfl
@[simp] theorem State.setCore_hostOut (s : State) (n : Nat) (c : Core) : (s.setCore n c).hostOut = s.hostOut := rfl
@[simp] theorem State.setCore_ports (s : State) (n : Nat) (c : Core) : (s.setCore n c).ports = s.ports := rfl
@[simp] theorem State.setCore_time (s : State) (n : Nat) (c : Core) : (s.setCore n c).time = s.time := rfl
@[simp] theorem State.setCore_panes (s : State) (n : Nat) (c : Core) : (s.setCore n c).panes = s.panes := rfl
@[simp] theorem State.setCore_psec (s : State) (n : Nat) (c : Core) : (s.setCore n c).psec = s.psec := rfl
@[simp] theorem State.setCore_pairDown (s : State) (n : Nat) (c : Core) : (s.setCore n c).pairDown = s.pairDown := rfl
@[simp] theorem State.setCore_qps (s : State) (n : Nat) (c : Core) : (s.setCore n c).qps = s.qps := rfl
@[simp] theorem State.setCore_serves (s : State) (n : Nat) (c : Core) : (s.setCore n c).serves = s.serves := rfl
@[simp] theorem State.setCore_reqs (s : State) (n : Nat) (c : Core) : (s.setCore n c).reqs = s.reqs := rfl
@[simp] theorem State.setCore_custs (s : State) (n : Nat) (c : Core) : (s.setCore n c).custs = s.custs := rfl
@[simp] theorem State.setCore_fw (s : State) (n : Nat) (c : Core) : (s.setCore n c).fw = s.fw := rfl
@[simp] theorem State.setCore_fwin (s : State) (n : Nat) (c : Core) : (s.setCore n c).fwin = s.fwin := rfl
@[simp] theorem State.setCore_fwrun (s : State) (n : Nat) (c : Core) : (s.setCore n c).fwrun = s.fwrun := rfl
@[simp] theorem State.setCore_hand (s : State) (n : Nat) (c : Core) : (s.setCore n c).hand = s.hand := rfl
@[simp] theorem State.setCore_ckpt (s : State) (n : Nat) (c : Core) : (s.setCore n c).ckpt = s.ckpt := rfl
@[simp] theorem State.setCore_upd (s : State) (n : Nat) (c : Core) : (s.setCore n c).upd = s.upd := rfl
@[simp] theorem State.setCore_sessions (s : State) (n : Nat) (c : Core) : (s.setCore n c).sessions = s.sessions := rfl
@[simp] theorem State.setCore_nextSess (s : State) (n : Nat) (c : Core) : (s.setCore n c).nextSess = s.nextSess := rfl
@[simp] theorem State.setCore_algs (s : State) (n : Nat) (c : Core) : (s.setCore n c).algs = s.algs := rfl
@[simp] theorem State.setCore_spdm (s : State) (n : Nat) (c : Core) : (s.setCore n c).spdm = s.spdm := rfl
@[simp] theorem State.setCore_nonces (s : State) (n : Nat) (c : Core) : (s.setCore n c).nonces = s.nonces := rfl
@[simp] theorem State.setCore_debugWant (s : State) (n : Nat) (c : Core) : (s.setCore n c).debugWant = s.debugWant := rfl
@[simp] theorem State.setCore_tamp (s : State) (n : Nat) (c : Core) : (s.setCore n c).tamp = s.tamp := rfl
@[simp] theorem State.setCore_uartRx (s : State) (n : Nat) (c : Core) : (s.setCore n c).uartRx = s.uartRx := rfl
@[simp] theorem State.setCore_uartTx (s : State) (n : Nat) (c : Core) : (s.setCore n c).uartTx = s.uartTx := rfl
@[simp] theorem State.setCore_uartOut (s : State) (n : Nat) (c : Core) : (s.setCore n c).uartOut = s.uartOut := rfl
@[simp] theorem State.setCore_uartLine (s : State) (n : Nat) (c : Core) : (s.setCore n c).uartLine = s.uartLine := rfl
@[simp] theorem State.setCore_tlpOut (s : State) (n : Nat) (c : Core) : (s.setCore n c).tlpOut = s.tlpOut := rfl
@[simp] theorem State.setCore_mctpIn (s : State) (n : Nat) (c : Core) : (s.setCore n c).mctpIn = s.mctpIn := rfl
@[simp] theorem State.setCore_mctpOut (s : State) (n : Nat) (c : Core) : (s.setCore n c).mctpOut = s.mctpOut := rfl
@[simp] theorem State.setCore_overPeriods (s : State) (n : Nat) (c : Core) : (s.setCore n c).overPeriods = s.overPeriods := rfl
@[simp] theorem State.setCore_lockQ (s : State) (n : Nat) (c : Core) : (s.setCore n c).lockQ = s.lockQ := rfl
@[simp] theorem State.setCore_eid (s : State) (n : Nat) (c : Core) : (s.setCore n c).eid = s.eid := rfl
@[simp] theorem State.setCore_ptpOut (s : State) (n : Nat) (c : Core) : (s.setCore n c).ptpOut = s.ptpOut := rfl
@[simp] theorem State.setCore_waking (s : State) (n : Nat) (c : Core) : (s.setCore n c).waking = s.waking := rfl
@[simp] theorem State.setCore_rdReg (s : State) (n : Nat) (c : Core) (r' : Reg) (j : Nat) : (s.setCore n c).rdReg r' j = s.rdReg r' j := rfl
@[simp] theorem State.setCore_getF (s : State) (n : Nat) (c : Core) (f' : Fld) (j : Nat) : (s.setCore n c).getF f' j = s.getF f' j := rfl
@[simp] theorem State.setCore_part_at (s : State) (n : Nat) (c : Core) (j : Nat) : (s.setCore n c).part j = s.part j := rfl
@[simp] theorem State.setCore_tctxOf_at (s : State) (n : Nat) (c : Core) (j : Nat) : (s.setCore n c).tctxOf j = s.tctxOf j := rfl
@[simp] theorem State.setCore_sctxOf_at (s : State) (n : Nat) (c : Core) (j : Nat) : (s.setCore n c).sctxOf j = s.sctxOf j := rfl
@[simp] theorem State.setCore_plan_at (s : State) (n : Nat) (c : Core) (j : Nat) : (s.setCore n c).plan j = s.plan j := rfl
@[simp] theorem State.setCore_ring_at (s : State) (n : Nat) (c : Core) (j : Nat) : (s.setCore n c).ring j = s.ring j := rfl
@[simp] theorem State.setCore_chan_at (s : State) (n : Nat) (c : Core) (j : Nat) : (s.setCore n c).chan j = s.chan j := rfl
@[simp] theorem State.setCore_port_at (s : State) (n : Nat) (c : Core) (j : Nat) : (s.setCore n c).port j = s.port j := rfl
@[simp] theorem State.setCore_pane_at (s : State) (n : Nat) (c : Core) (j : Nat) : (s.setCore n c).pane j = s.pane j := rfl
@[simp] theorem State.setCore_qp_at (s : State) (n : Nat) (c : Core) (j : Nat) : (s.setCore n c).qp j = s.qp j := rfl
@[simp] theorem State.setCore_req_at (s : State) (n : Nat) (c : Core) (j : Nat) : (s.setCore n c).req j = s.req j := rfl
@[simp] theorem State.setCore_byte_at (s : State) (n : Nat) (c : Core) (j : Nat) : (s.setCore n c).byte j = s.byte j := rfl

/-! ### State.setPart: writes parts -/

@[simp] theorem State.setPart_pending (s : State) (p : Nat) (x : Part) : (s.setPart p x).pending = s.pending := rfl
@[simp] theorem State.setPart_regs (s : State) (p : Nat) (x : Part) : (s.setPart p x).regs = s.regs := rfl
@[simp] theorem State.setPart_mem (s : State) (p : Nat) (x : Part) : (s.setPart p x).mem = s.mem := rfl
@[simp] theorem State.setPart_gran (s : State) (p : Nat) (x : Part) : (s.setPart p x).gran = s.gran := rfl
@[simp] theorem State.setPart_flaws (s : State) (p : Nat) (x : Part) : (s.setPart p x).flaws = s.flaws := rfl
@[simp] theorem State.setPart_keys (s : State) (p : Nat) (x : Part) : (s.setPart p x).keys = s.keys := rfl
@[simp] theorem State.setPart_busErrs (s : State) (p : Nat) (x : Part) : (s.setPart p x).busErrs = s.busErrs := rfl
@[simp] theorem State.setPart_skewWin (s : State) (p : Nat) (x : Part) : (s.setPart p x).skewWin = s.skewWin := rfl
@[simp] theorem State.setPart_served (s : State) (p : Nat) (x : Part) : (s.setPart p x).served = s.served := rfl
@[simp] theorem State.setPart_cores (s : State) (p : Nat) (x : Part) : (s.setPart p x).cores = s.cores := rfl
@[simp] theorem State.setPart_tctx (s : State) (p : Nat) (x : Part) : (s.setPart p x).tctx = s.tctx := rfl
@[simp] theorem State.setPart_sctx (s : State) (p : Nat) (x : Part) : (s.setPart p x).sctx = s.sctx := rfl
@[simp] theorem State.setPart_arrivals (s : State) (p : Nat) (x : Part) : (s.setPart p x).arrivals = s.arrivals := rfl
@[simp] theorem State.setPart_rq (s : State) (p : Nat) (x : Part) : (s.setPart p x).rq = s.rq := rfl
@[simp] theorem State.setPart_inbox (s : State) (p : Nat) (x : Part) : (s.setPart p x).inbox = s.inbox := rfl
@[simp] theorem State.setPart_tags (s : State) (p : Nat) (x : Part) : (s.setPart p x).tags = s.tags := rfl
@[simp] theorem State.setPart_nextTag (s : State) (p : Nat) (x : Part) : (s.setPart p x).nextTag = s.nextTag := rfl
@[simp] theorem State.setPart_plans (s : State) (p : Nat) (x : Part) : (s.setPart p x).plans = s.plans := rfl
@[simp] theorem State.setPart_nextPlan (s : State) (p : Nat) (x : Part) : (s.setPart p x).nextPlan = s.nextPlan := rfl
@[simp] theorem State.setPart_free (s : State) (p : Nat) (x : Part) : (s.setPart p x).free = s.free := rfl
@[simp] theorem State.setPart_rings (s : State) (p : Nat) (x : Part) : (s.setPart p x).rings = s.rings := rfl
@[simp] theorem State.setPart_sram (s : State) (p : Nat) (x : Part) : (s.setPart p x).sram = s.sram := rfl
@[simp] theorem State.setPart_replies (s : State) (p : Nat) (x : Part) : (s.setPart p x).replies = s.replies := rfl
@[simp] theorem State.setPart_msix (s : State) (p : Nat) (x : Part) : (s.setPart p x).msix = s.msix := rfl
@[simp] theorem State.setPart_log (s : State) (p : Nat) (x : Part) : (s.setPart p x).log = s.log := rfl
@[simp] theorem State.setPart_pldm (s : State) (p : Nat) (x : Part) : (s.setPart p x).pldm = s.pldm := rfl
@[simp] theorem State.setPart_steps (s : State) (p : Nat) (x : Part) : (s.setPart p x).steps = s.steps := rfl
@[simp] theorem State.setPart_boot (s : State) (p : Nat) (x : Part) : (s.setPart p x).boot = s.boot := rfl
@[simp] theorem State.setPart_scrubPos (s : State) (p : Nat) (x : Part) : (s.setPart p x).scrubPos = s.scrubPos := rfl
@[simp] theorem State.setPart_scrubSince (s : State) (p : Nat) (x : Part) : (s.setPart p x).scrubSince = s.scrubSince := rfl
@[simp] theorem State.setPart_unavail (s : State) (p : Nat) (x : Part) : (s.setPart p x).unavail = s.unavail := rfl
@[simp] theorem State.setPart_drifted (s : State) (p : Nat) (x : Part) : (s.setPart p x).drifted = s.drifted := rfl
@[simp] theorem State.setPart_locks (s : State) (p : Nat) (x : Part) : (s.setPart p x).locks = s.locks := rfl
@[simp] theorem State.setPart_dma (s : State) (p : Nat) (x : Part) : (s.setPart p x).dma = s.dma := rfl
@[simp] theorem State.setPart_rs (s : State) (p : Nat) (x : Part) : (s.setPart p x).rs = s.rs := rfl
@[simp] theorem State.setPart_bounce (s : State) (p : Nat) (x : Part) : (s.setPart p x).bounce = s.bounce := rfl
@[simp] theorem State.setPart_hostOut (s : State) (p : Nat) (x : Part) : (s.setPart p x).hostOut = s.hostOut := rfl
@[simp] theorem State.setPart_ports (s : State) (p : Nat) (x : Part) : (s.setPart p x).ports = s.ports := rfl
@[simp] theorem State.setPart_time (s : State) (p : Nat) (x : Part) : (s.setPart p x).time = s.time := rfl
@[simp] theorem State.setPart_panes (s : State) (p : Nat) (x : Part) : (s.setPart p x).panes = s.panes := rfl
@[simp] theorem State.setPart_psec (s : State) (p : Nat) (x : Part) : (s.setPart p x).psec = s.psec := rfl
@[simp] theorem State.setPart_pairDown (s : State) (p : Nat) (x : Part) : (s.setPart p x).pairDown = s.pairDown := rfl
@[simp] theorem State.setPart_qps (s : State) (p : Nat) (x : Part) : (s.setPart p x).qps = s.qps := rfl
@[simp] theorem State.setPart_serves (s : State) (p : Nat) (x : Part) : (s.setPart p x).serves = s.serves := rfl
@[simp] theorem State.setPart_reqs (s : State) (p : Nat) (x : Part) : (s.setPart p x).reqs = s.reqs := rfl
@[simp] theorem State.setPart_custs (s : State) (p : Nat) (x : Part) : (s.setPart p x).custs = s.custs := rfl
@[simp] theorem State.setPart_fw (s : State) (p : Nat) (x : Part) : (s.setPart p x).fw = s.fw := rfl
@[simp] theorem State.setPart_fwin (s : State) (p : Nat) (x : Part) : (s.setPart p x).fwin = s.fwin := rfl
@[simp] theorem State.setPart_fwrun (s : State) (p : Nat) (x : Part) : (s.setPart p x).fwrun = s.fwrun := rfl
@[simp] theorem State.setPart_hand (s : State) (p : Nat) (x : Part) : (s.setPart p x).hand = s.hand := rfl
@[simp] theorem State.setPart_ckpt (s : State) (p : Nat) (x : Part) : (s.setPart p x).ckpt = s.ckpt := rfl
@[simp] theorem State.setPart_upd (s : State) (p : Nat) (x : Part) : (s.setPart p x).upd = s.upd := rfl
@[simp] theorem State.setPart_sessions (s : State) (p : Nat) (x : Part) : (s.setPart p x).sessions = s.sessions := rfl
@[simp] theorem State.setPart_nextSess (s : State) (p : Nat) (x : Part) : (s.setPart p x).nextSess = s.nextSess := rfl
@[simp] theorem State.setPart_algs (s : State) (p : Nat) (x : Part) : (s.setPart p x).algs = s.algs := rfl
@[simp] theorem State.setPart_spdm (s : State) (p : Nat) (x : Part) : (s.setPart p x).spdm = s.spdm := rfl
@[simp] theorem State.setPart_nonces (s : State) (p : Nat) (x : Part) : (s.setPart p x).nonces = s.nonces := rfl
@[simp] theorem State.setPart_debugWant (s : State) (p : Nat) (x : Part) : (s.setPart p x).debugWant = s.debugWant := rfl
@[simp] theorem State.setPart_tamp (s : State) (p : Nat) (x : Part) : (s.setPart p x).tamp = s.tamp := rfl
@[simp] theorem State.setPart_uartRx (s : State) (p : Nat) (x : Part) : (s.setPart p x).uartRx = s.uartRx := rfl
@[simp] theorem State.setPart_uartTx (s : State) (p : Nat) (x : Part) : (s.setPart p x).uartTx = s.uartTx := rfl
@[simp] theorem State.setPart_uartOut (s : State) (p : Nat) (x : Part) : (s.setPart p x).uartOut = s.uartOut := rfl
@[simp] theorem State.setPart_uartLine (s : State) (p : Nat) (x : Part) : (s.setPart p x).uartLine = s.uartLine := rfl
@[simp] theorem State.setPart_tlpOut (s : State) (p : Nat) (x : Part) : (s.setPart p x).tlpOut = s.tlpOut := rfl
@[simp] theorem State.setPart_mctpIn (s : State) (p : Nat) (x : Part) : (s.setPart p x).mctpIn = s.mctpIn := rfl
@[simp] theorem State.setPart_mctpOut (s : State) (p : Nat) (x : Part) : (s.setPart p x).mctpOut = s.mctpOut := rfl
@[simp] theorem State.setPart_overPeriods (s : State) (p : Nat) (x : Part) : (s.setPart p x).overPeriods = s.overPeriods := rfl
@[simp] theorem State.setPart_lockQ (s : State) (p : Nat) (x : Part) : (s.setPart p x).lockQ = s.lockQ := rfl
@[simp] theorem State.setPart_eid (s : State) (p : Nat) (x : Part) : (s.setPart p x).eid = s.eid := rfl
@[simp] theorem State.setPart_ptpOut (s : State) (p : Nat) (x : Part) : (s.setPart p x).ptpOut = s.ptpOut := rfl
@[simp] theorem State.setPart_waking (s : State) (p : Nat) (x : Part) : (s.setPart p x).waking = s.waking := rfl
@[simp] theorem State.setPart_rdReg (s : State) (p : Nat) (x : Part) (r' : Reg) (j : Nat) : (s.setPart p x).rdReg r' j = s.rdReg r' j := rfl
@[simp] theorem State.setPart_getF (s : State) (p : Nat) (x : Part) (f' : Fld) (j : Nat) : (s.setPart p x).getF f' j = s.getF f' j := rfl
@[simp] theorem State.setPart_core_at (s : State) (p : Nat) (x : Part) (j : Nat) : (s.setPart p x).core j = s.core j := rfl
@[simp] theorem State.setPart_tctxOf_at (s : State) (p : Nat) (x : Part) (j : Nat) : (s.setPart p x).tctxOf j = s.tctxOf j := rfl
@[simp] theorem State.setPart_sctxOf_at (s : State) (p : Nat) (x : Part) (j : Nat) : (s.setPart p x).sctxOf j = s.sctxOf j := rfl
@[simp] theorem State.setPart_plan_at (s : State) (p : Nat) (x : Part) (j : Nat) : (s.setPart p x).plan j = s.plan j := rfl
@[simp] theorem State.setPart_ring_at (s : State) (p : Nat) (x : Part) (j : Nat) : (s.setPart p x).ring j = s.ring j := rfl
@[simp] theorem State.setPart_chan_at (s : State) (p : Nat) (x : Part) (j : Nat) : (s.setPart p x).chan j = s.chan j := rfl
@[simp] theorem State.setPart_port_at (s : State) (p : Nat) (x : Part) (j : Nat) : (s.setPart p x).port j = s.port j := rfl
@[simp] theorem State.setPart_pane_at (s : State) (p : Nat) (x : Part) (j : Nat) : (s.setPart p x).pane j = s.pane j := rfl
@[simp] theorem State.setPart_qp_at (s : State) (p : Nat) (x : Part) (j : Nat) : (s.setPart p x).qp j = s.qp j := rfl
@[simp] theorem State.setPart_req_at (s : State) (p : Nat) (x : Part) (j : Nat) : (s.setPart p x).req j = s.req j := rfl
@[simp] theorem State.setPart_byte_at (s : State) (p : Nat) (x : Part) (j : Nat) : (s.setPart p x).byte j = s.byte j := rfl

/-! ### State.setTctx: writes tctx -/

@[simp] theorem State.setTctx_pending (s : State) (c : Nat) (x : Ctx) : (s.setTctx c x).pending = s.pending := rfl
@[simp] theorem State.setTctx_regs (s : State) (c : Nat) (x : Ctx) : (s.setTctx c x).regs = s.regs := rfl
@[simp] theorem State.setTctx_mem (s : State) (c : Nat) (x : Ctx) : (s.setTctx c x).mem = s.mem := rfl
@[simp] theorem State.setTctx_gran (s : State) (c : Nat) (x : Ctx) : (s.setTctx c x).gran = s.gran := rfl
@[simp] theorem State.setTctx_flaws (s : State) (c : Nat) (x : Ctx) : (s.setTctx c x).flaws = s.flaws := rfl
@[simp] theorem State.setTctx_keys (s : State) (c : Nat) (x : Ctx) : (s.setTctx c x).keys = s.keys := rfl
@[simp] theorem State.setTctx_busErrs (s : State) (c : Nat) (x : Ctx) : (s.setTctx c x).busErrs = s.busErrs := rfl
@[simp] theorem State.setTctx_skewWin (s : State) (c : Nat) (x : Ctx) : (s.setTctx c x).skewWin = s.skewWin := rfl
@[simp] theorem State.setTctx_served (s : State) (c : Nat) (x : Ctx) : (s.setTctx c x).served = s.served := rfl
@[simp] theorem State.setTctx_cores (s : State) (c : Nat) (x : Ctx) : (s.setTctx c x).cores = s.cores := rfl
@[simp] theorem State.setTctx_parts (s : State) (c : Nat) (x : Ctx) : (s.setTctx c x).parts = s.parts := rfl
@[simp] theorem State.setTctx_sctx (s : State) (c : Nat) (x : Ctx) : (s.setTctx c x).sctx = s.sctx := rfl
@[simp] theorem State.setTctx_arrivals (s : State) (c : Nat) (x : Ctx) : (s.setTctx c x).arrivals = s.arrivals := rfl
@[simp] theorem State.setTctx_rq (s : State) (c : Nat) (x : Ctx) : (s.setTctx c x).rq = s.rq := rfl
@[simp] theorem State.setTctx_inbox (s : State) (c : Nat) (x : Ctx) : (s.setTctx c x).inbox = s.inbox := rfl
@[simp] theorem State.setTctx_tags (s : State) (c : Nat) (x : Ctx) : (s.setTctx c x).tags = s.tags := rfl
@[simp] theorem State.setTctx_nextTag (s : State) (c : Nat) (x : Ctx) : (s.setTctx c x).nextTag = s.nextTag := rfl
@[simp] theorem State.setTctx_plans (s : State) (c : Nat) (x : Ctx) : (s.setTctx c x).plans = s.plans := rfl
@[simp] theorem State.setTctx_nextPlan (s : State) (c : Nat) (x : Ctx) : (s.setTctx c x).nextPlan = s.nextPlan := rfl
@[simp] theorem State.setTctx_free (s : State) (c : Nat) (x : Ctx) : (s.setTctx c x).free = s.free := rfl
@[simp] theorem State.setTctx_rings (s : State) (c : Nat) (x : Ctx) : (s.setTctx c x).rings = s.rings := rfl
@[simp] theorem State.setTctx_sram (s : State) (c : Nat) (x : Ctx) : (s.setTctx c x).sram = s.sram := rfl
@[simp] theorem State.setTctx_replies (s : State) (c : Nat) (x : Ctx) : (s.setTctx c x).replies = s.replies := rfl
@[simp] theorem State.setTctx_msix (s : State) (c : Nat) (x : Ctx) : (s.setTctx c x).msix = s.msix := rfl
@[simp] theorem State.setTctx_log (s : State) (c : Nat) (x : Ctx) : (s.setTctx c x).log = s.log := rfl
@[simp] theorem State.setTctx_pldm (s : State) (c : Nat) (x : Ctx) : (s.setTctx c x).pldm = s.pldm := rfl
@[simp] theorem State.setTctx_steps (s : State) (c : Nat) (x : Ctx) : (s.setTctx c x).steps = s.steps := rfl
@[simp] theorem State.setTctx_boot (s : State) (c : Nat) (x : Ctx) : (s.setTctx c x).boot = s.boot := rfl
@[simp] theorem State.setTctx_scrubPos (s : State) (c : Nat) (x : Ctx) : (s.setTctx c x).scrubPos = s.scrubPos := rfl
@[simp] theorem State.setTctx_scrubSince (s : State) (c : Nat) (x : Ctx) : (s.setTctx c x).scrubSince = s.scrubSince := rfl
@[simp] theorem State.setTctx_unavail (s : State) (c : Nat) (x : Ctx) : (s.setTctx c x).unavail = s.unavail := rfl
@[simp] theorem State.setTctx_drifted (s : State) (c : Nat) (x : Ctx) : (s.setTctx c x).drifted = s.drifted := rfl
@[simp] theorem State.setTctx_locks (s : State) (c : Nat) (x : Ctx) : (s.setTctx c x).locks = s.locks := rfl
@[simp] theorem State.setTctx_dma (s : State) (c : Nat) (x : Ctx) : (s.setTctx c x).dma = s.dma := rfl
@[simp] theorem State.setTctx_rs (s : State) (c : Nat) (x : Ctx) : (s.setTctx c x).rs = s.rs := rfl
@[simp] theorem State.setTctx_bounce (s : State) (c : Nat) (x : Ctx) : (s.setTctx c x).bounce = s.bounce := rfl
@[simp] theorem State.setTctx_hostOut (s : State) (c : Nat) (x : Ctx) : (s.setTctx c x).hostOut = s.hostOut := rfl
@[simp] theorem State.setTctx_ports (s : State) (c : Nat) (x : Ctx) : (s.setTctx c x).ports = s.ports := rfl
@[simp] theorem State.setTctx_time (s : State) (c : Nat) (x : Ctx) : (s.setTctx c x).time = s.time := rfl
@[simp] theorem State.setTctx_panes (s : State) (c : Nat) (x : Ctx) : (s.setTctx c x).panes = s.panes := rfl
@[simp] theorem State.setTctx_psec (s : State) (c : Nat) (x : Ctx) : (s.setTctx c x).psec = s.psec := rfl
@[simp] theorem State.setTctx_pairDown (s : State) (c : Nat) (x : Ctx) : (s.setTctx c x).pairDown = s.pairDown := rfl
@[simp] theorem State.setTctx_qps (s : State) (c : Nat) (x : Ctx) : (s.setTctx c x).qps = s.qps := rfl
@[simp] theorem State.setTctx_serves (s : State) (c : Nat) (x : Ctx) : (s.setTctx c x).serves = s.serves := rfl
@[simp] theorem State.setTctx_reqs (s : State) (c : Nat) (x : Ctx) : (s.setTctx c x).reqs = s.reqs := rfl
@[simp] theorem State.setTctx_custs (s : State) (c : Nat) (x : Ctx) : (s.setTctx c x).custs = s.custs := rfl
@[simp] theorem State.setTctx_fw (s : State) (c : Nat) (x : Ctx) : (s.setTctx c x).fw = s.fw := rfl
@[simp] theorem State.setTctx_fwin (s : State) (c : Nat) (x : Ctx) : (s.setTctx c x).fwin = s.fwin := rfl
@[simp] theorem State.setTctx_fwrun (s : State) (c : Nat) (x : Ctx) : (s.setTctx c x).fwrun = s.fwrun := rfl
@[simp] theorem State.setTctx_hand (s : State) (c : Nat) (x : Ctx) : (s.setTctx c x).hand = s.hand := rfl
@[simp] theorem State.setTctx_ckpt (s : State) (c : Nat) (x : Ctx) : (s.setTctx c x).ckpt = s.ckpt := rfl
@[simp] theorem State.setTctx_upd (s : State) (c : Nat) (x : Ctx) : (s.setTctx c x).upd = s.upd := rfl
@[simp] theorem State.setTctx_sessions (s : State) (c : Nat) (x : Ctx) : (s.setTctx c x).sessions = s.sessions := rfl
@[simp] theorem State.setTctx_nextSess (s : State) (c : Nat) (x : Ctx) : (s.setTctx c x).nextSess = s.nextSess := rfl
@[simp] theorem State.setTctx_algs (s : State) (c : Nat) (x : Ctx) : (s.setTctx c x).algs = s.algs := rfl
@[simp] theorem State.setTctx_spdm (s : State) (c : Nat) (x : Ctx) : (s.setTctx c x).spdm = s.spdm := rfl
@[simp] theorem State.setTctx_nonces (s : State) (c : Nat) (x : Ctx) : (s.setTctx c x).nonces = s.nonces := rfl
@[simp] theorem State.setTctx_debugWant (s : State) (c : Nat) (x : Ctx) : (s.setTctx c x).debugWant = s.debugWant := rfl
@[simp] theorem State.setTctx_tamp (s : State) (c : Nat) (x : Ctx) : (s.setTctx c x).tamp = s.tamp := rfl
@[simp] theorem State.setTctx_uartRx (s : State) (c : Nat) (x : Ctx) : (s.setTctx c x).uartRx = s.uartRx := rfl
@[simp] theorem State.setTctx_uartTx (s : State) (c : Nat) (x : Ctx) : (s.setTctx c x).uartTx = s.uartTx := rfl
@[simp] theorem State.setTctx_uartOut (s : State) (c : Nat) (x : Ctx) : (s.setTctx c x).uartOut = s.uartOut := rfl
@[simp] theorem State.setTctx_uartLine (s : State) (c : Nat) (x : Ctx) : (s.setTctx c x).uartLine = s.uartLine := rfl
@[simp] theorem State.setTctx_tlpOut (s : State) (c : Nat) (x : Ctx) : (s.setTctx c x).tlpOut = s.tlpOut := rfl
@[simp] theorem State.setTctx_mctpIn (s : State) (c : Nat) (x : Ctx) : (s.setTctx c x).mctpIn = s.mctpIn := rfl
@[simp] theorem State.setTctx_mctpOut (s : State) (c : Nat) (x : Ctx) : (s.setTctx c x).mctpOut = s.mctpOut := rfl
@[simp] theorem State.setTctx_overPeriods (s : State) (c : Nat) (x : Ctx) : (s.setTctx c x).overPeriods = s.overPeriods := rfl
@[simp] theorem State.setTctx_lockQ (s : State) (c : Nat) (x : Ctx) : (s.setTctx c x).lockQ = s.lockQ := rfl
@[simp] theorem State.setTctx_eid (s : State) (c : Nat) (x : Ctx) : (s.setTctx c x).eid = s.eid := rfl
@[simp] theorem State.setTctx_ptpOut (s : State) (c : Nat) (x : Ctx) : (s.setTctx c x).ptpOut = s.ptpOut := rfl
@[simp] theorem State.setTctx_waking (s : State) (c : Nat) (x : Ctx) : (s.setTctx c x).waking = s.waking := rfl
@[simp] theorem State.setTctx_rdReg (s : State) (c : Nat) (x : Ctx) (r' : Reg) (j : Nat) : (s.setTctx c x).rdReg r' j = s.rdReg r' j := rfl
@[simp] theorem State.setTctx_getF (s : State) (c : Nat) (x : Ctx) (f' : Fld) (j : Nat) : (s.setTctx c x).getF f' j = s.getF f' j := rfl
@[simp] theorem State.setTctx_core_at (s : State) (c : Nat) (x : Ctx) (j : Nat) : (s.setTctx c x).core j = s.core j := rfl
@[simp] theorem State.setTctx_part_at (s : State) (c : Nat) (x : Ctx) (j : Nat) : (s.setTctx c x).part j = s.part j := rfl
@[simp] theorem State.setTctx_sctxOf_at (s : State) (c : Nat) (x : Ctx) (j : Nat) : (s.setTctx c x).sctxOf j = s.sctxOf j := rfl
@[simp] theorem State.setTctx_plan_at (s : State) (c : Nat) (x : Ctx) (j : Nat) : (s.setTctx c x).plan j = s.plan j := rfl
@[simp] theorem State.setTctx_ring_at (s : State) (c : Nat) (x : Ctx) (j : Nat) : (s.setTctx c x).ring j = s.ring j := rfl
@[simp] theorem State.setTctx_chan_at (s : State) (c : Nat) (x : Ctx) (j : Nat) : (s.setTctx c x).chan j = s.chan j := rfl
@[simp] theorem State.setTctx_port_at (s : State) (c : Nat) (x : Ctx) (j : Nat) : (s.setTctx c x).port j = s.port j := rfl
@[simp] theorem State.setTctx_pane_at (s : State) (c : Nat) (x : Ctx) (j : Nat) : (s.setTctx c x).pane j = s.pane j := rfl
@[simp] theorem State.setTctx_qp_at (s : State) (c : Nat) (x : Ctx) (j : Nat) : (s.setTctx c x).qp j = s.qp j := rfl
@[simp] theorem State.setTctx_req_at (s : State) (c : Nat) (x : Ctx) (j : Nat) : (s.setTctx c x).req j = s.req j := rfl
@[simp] theorem State.setTctx_byte_at (s : State) (c : Nat) (x : Ctx) (j : Nat) : (s.setTctx c x).byte j = s.byte j := rfl

/-! ### State.setSctx: writes sctx -/

@[simp] theorem State.setSctx_pending (s : State) (c : Nat) (x : Ctx) : (s.setSctx c x).pending = s.pending := rfl
@[simp] theorem State.setSctx_regs (s : State) (c : Nat) (x : Ctx) : (s.setSctx c x).regs = s.regs := rfl
@[simp] theorem State.setSctx_mem (s : State) (c : Nat) (x : Ctx) : (s.setSctx c x).mem = s.mem := rfl
@[simp] theorem State.setSctx_gran (s : State) (c : Nat) (x : Ctx) : (s.setSctx c x).gran = s.gran := rfl
@[simp] theorem State.setSctx_flaws (s : State) (c : Nat) (x : Ctx) : (s.setSctx c x).flaws = s.flaws := rfl
@[simp] theorem State.setSctx_keys (s : State) (c : Nat) (x : Ctx) : (s.setSctx c x).keys = s.keys := rfl
@[simp] theorem State.setSctx_busErrs (s : State) (c : Nat) (x : Ctx) : (s.setSctx c x).busErrs = s.busErrs := rfl
@[simp] theorem State.setSctx_skewWin (s : State) (c : Nat) (x : Ctx) : (s.setSctx c x).skewWin = s.skewWin := rfl
@[simp] theorem State.setSctx_served (s : State) (c : Nat) (x : Ctx) : (s.setSctx c x).served = s.served := rfl
@[simp] theorem State.setSctx_cores (s : State) (c : Nat) (x : Ctx) : (s.setSctx c x).cores = s.cores := rfl
@[simp] theorem State.setSctx_parts (s : State) (c : Nat) (x : Ctx) : (s.setSctx c x).parts = s.parts := rfl
@[simp] theorem State.setSctx_tctx (s : State) (c : Nat) (x : Ctx) : (s.setSctx c x).tctx = s.tctx := rfl
@[simp] theorem State.setSctx_arrivals (s : State) (c : Nat) (x : Ctx) : (s.setSctx c x).arrivals = s.arrivals := rfl
@[simp] theorem State.setSctx_rq (s : State) (c : Nat) (x : Ctx) : (s.setSctx c x).rq = s.rq := rfl
@[simp] theorem State.setSctx_inbox (s : State) (c : Nat) (x : Ctx) : (s.setSctx c x).inbox = s.inbox := rfl
@[simp] theorem State.setSctx_tags (s : State) (c : Nat) (x : Ctx) : (s.setSctx c x).tags = s.tags := rfl
@[simp] theorem State.setSctx_nextTag (s : State) (c : Nat) (x : Ctx) : (s.setSctx c x).nextTag = s.nextTag := rfl
@[simp] theorem State.setSctx_plans (s : State) (c : Nat) (x : Ctx) : (s.setSctx c x).plans = s.plans := rfl
@[simp] theorem State.setSctx_nextPlan (s : State) (c : Nat) (x : Ctx) : (s.setSctx c x).nextPlan = s.nextPlan := rfl
@[simp] theorem State.setSctx_free (s : State) (c : Nat) (x : Ctx) : (s.setSctx c x).free = s.free := rfl
@[simp] theorem State.setSctx_rings (s : State) (c : Nat) (x : Ctx) : (s.setSctx c x).rings = s.rings := rfl
@[simp] theorem State.setSctx_sram (s : State) (c : Nat) (x : Ctx) : (s.setSctx c x).sram = s.sram := rfl
@[simp] theorem State.setSctx_replies (s : State) (c : Nat) (x : Ctx) : (s.setSctx c x).replies = s.replies := rfl
@[simp] theorem State.setSctx_msix (s : State) (c : Nat) (x : Ctx) : (s.setSctx c x).msix = s.msix := rfl
@[simp] theorem State.setSctx_log (s : State) (c : Nat) (x : Ctx) : (s.setSctx c x).log = s.log := rfl
@[simp] theorem State.setSctx_pldm (s : State) (c : Nat) (x : Ctx) : (s.setSctx c x).pldm = s.pldm := rfl
@[simp] theorem State.setSctx_steps (s : State) (c : Nat) (x : Ctx) : (s.setSctx c x).steps = s.steps := rfl
@[simp] theorem State.setSctx_boot (s : State) (c : Nat) (x : Ctx) : (s.setSctx c x).boot = s.boot := rfl
@[simp] theorem State.setSctx_scrubPos (s : State) (c : Nat) (x : Ctx) : (s.setSctx c x).scrubPos = s.scrubPos := rfl
@[simp] theorem State.setSctx_scrubSince (s : State) (c : Nat) (x : Ctx) : (s.setSctx c x).scrubSince = s.scrubSince := rfl
@[simp] theorem State.setSctx_unavail (s : State) (c : Nat) (x : Ctx) : (s.setSctx c x).unavail = s.unavail := rfl
@[simp] theorem State.setSctx_drifted (s : State) (c : Nat) (x : Ctx) : (s.setSctx c x).drifted = s.drifted := rfl
@[simp] theorem State.setSctx_locks (s : State) (c : Nat) (x : Ctx) : (s.setSctx c x).locks = s.locks := rfl
@[simp] theorem State.setSctx_dma (s : State) (c : Nat) (x : Ctx) : (s.setSctx c x).dma = s.dma := rfl
@[simp] theorem State.setSctx_rs (s : State) (c : Nat) (x : Ctx) : (s.setSctx c x).rs = s.rs := rfl
@[simp] theorem State.setSctx_bounce (s : State) (c : Nat) (x : Ctx) : (s.setSctx c x).bounce = s.bounce := rfl
@[simp] theorem State.setSctx_hostOut (s : State) (c : Nat) (x : Ctx) : (s.setSctx c x).hostOut = s.hostOut := rfl
@[simp] theorem State.setSctx_ports (s : State) (c : Nat) (x : Ctx) : (s.setSctx c x).ports = s.ports := rfl
@[simp] theorem State.setSctx_time (s : State) (c : Nat) (x : Ctx) : (s.setSctx c x).time = s.time := rfl
@[simp] theorem State.setSctx_panes (s : State) (c : Nat) (x : Ctx) : (s.setSctx c x).panes = s.panes := rfl
@[simp] theorem State.setSctx_psec (s : State) (c : Nat) (x : Ctx) : (s.setSctx c x).psec = s.psec := rfl
@[simp] theorem State.setSctx_pairDown (s : State) (c : Nat) (x : Ctx) : (s.setSctx c x).pairDown = s.pairDown := rfl
@[simp] theorem State.setSctx_qps (s : State) (c : Nat) (x : Ctx) : (s.setSctx c x).qps = s.qps := rfl
@[simp] theorem State.setSctx_serves (s : State) (c : Nat) (x : Ctx) : (s.setSctx c x).serves = s.serves := rfl
@[simp] theorem State.setSctx_reqs (s : State) (c : Nat) (x : Ctx) : (s.setSctx c x).reqs = s.reqs := rfl
@[simp] theorem State.setSctx_custs (s : State) (c : Nat) (x : Ctx) : (s.setSctx c x).custs = s.custs := rfl
@[simp] theorem State.setSctx_fw (s : State) (c : Nat) (x : Ctx) : (s.setSctx c x).fw = s.fw := rfl
@[simp] theorem State.setSctx_fwin (s : State) (c : Nat) (x : Ctx) : (s.setSctx c x).fwin = s.fwin := rfl
@[simp] theorem State.setSctx_fwrun (s : State) (c : Nat) (x : Ctx) : (s.setSctx c x).fwrun = s.fwrun := rfl
@[simp] theorem State.setSctx_hand (s : State) (c : Nat) (x : Ctx) : (s.setSctx c x).hand = s.hand := rfl
@[simp] theorem State.setSctx_ckpt (s : State) (c : Nat) (x : Ctx) : (s.setSctx c x).ckpt = s.ckpt := rfl
@[simp] theorem State.setSctx_upd (s : State) (c : Nat) (x : Ctx) : (s.setSctx c x).upd = s.upd := rfl
@[simp] theorem State.setSctx_sessions (s : State) (c : Nat) (x : Ctx) : (s.setSctx c x).sessions = s.sessions := rfl
@[simp] theorem State.setSctx_nextSess (s : State) (c : Nat) (x : Ctx) : (s.setSctx c x).nextSess = s.nextSess := rfl
@[simp] theorem State.setSctx_algs (s : State) (c : Nat) (x : Ctx) : (s.setSctx c x).algs = s.algs := rfl
@[simp] theorem State.setSctx_spdm (s : State) (c : Nat) (x : Ctx) : (s.setSctx c x).spdm = s.spdm := rfl
@[simp] theorem State.setSctx_nonces (s : State) (c : Nat) (x : Ctx) : (s.setSctx c x).nonces = s.nonces := rfl
@[simp] theorem State.setSctx_debugWant (s : State) (c : Nat) (x : Ctx) : (s.setSctx c x).debugWant = s.debugWant := rfl
@[simp] theorem State.setSctx_tamp (s : State) (c : Nat) (x : Ctx) : (s.setSctx c x).tamp = s.tamp := rfl
@[simp] theorem State.setSctx_uartRx (s : State) (c : Nat) (x : Ctx) : (s.setSctx c x).uartRx = s.uartRx := rfl
@[simp] theorem State.setSctx_uartTx (s : State) (c : Nat) (x : Ctx) : (s.setSctx c x).uartTx = s.uartTx := rfl
@[simp] theorem State.setSctx_uartOut (s : State) (c : Nat) (x : Ctx) : (s.setSctx c x).uartOut = s.uartOut := rfl
@[simp] theorem State.setSctx_uartLine (s : State) (c : Nat) (x : Ctx) : (s.setSctx c x).uartLine = s.uartLine := rfl
@[simp] theorem State.setSctx_tlpOut (s : State) (c : Nat) (x : Ctx) : (s.setSctx c x).tlpOut = s.tlpOut := rfl
@[simp] theorem State.setSctx_mctpIn (s : State) (c : Nat) (x : Ctx) : (s.setSctx c x).mctpIn = s.mctpIn := rfl
@[simp] theorem State.setSctx_mctpOut (s : State) (c : Nat) (x : Ctx) : (s.setSctx c x).mctpOut = s.mctpOut := rfl
@[simp] theorem State.setSctx_overPeriods (s : State) (c : Nat) (x : Ctx) : (s.setSctx c x).overPeriods = s.overPeriods := rfl
@[simp] theorem State.setSctx_lockQ (s : State) (c : Nat) (x : Ctx) : (s.setSctx c x).lockQ = s.lockQ := rfl
@[simp] theorem State.setSctx_eid (s : State) (c : Nat) (x : Ctx) : (s.setSctx c x).eid = s.eid := rfl
@[simp] theorem State.setSctx_ptpOut (s : State) (c : Nat) (x : Ctx) : (s.setSctx c x).ptpOut = s.ptpOut := rfl
@[simp] theorem State.setSctx_waking (s : State) (c : Nat) (x : Ctx) : (s.setSctx c x).waking = s.waking := rfl
@[simp] theorem State.setSctx_rdReg (s : State) (c : Nat) (x : Ctx) (r' : Reg) (j : Nat) : (s.setSctx c x).rdReg r' j = s.rdReg r' j := rfl
@[simp] theorem State.setSctx_getF (s : State) (c : Nat) (x : Ctx) (f' : Fld) (j : Nat) : (s.setSctx c x).getF f' j = s.getF f' j := rfl
@[simp] theorem State.setSctx_core_at (s : State) (c : Nat) (x : Ctx) (j : Nat) : (s.setSctx c x).core j = s.core j := rfl
@[simp] theorem State.setSctx_part_at (s : State) (c : Nat) (x : Ctx) (j : Nat) : (s.setSctx c x).part j = s.part j := rfl
@[simp] theorem State.setSctx_tctxOf_at (s : State) (c : Nat) (x : Ctx) (j : Nat) : (s.setSctx c x).tctxOf j = s.tctxOf j := rfl
@[simp] theorem State.setSctx_plan_at (s : State) (c : Nat) (x : Ctx) (j : Nat) : (s.setSctx c x).plan j = s.plan j := rfl
@[simp] theorem State.setSctx_ring_at (s : State) (c : Nat) (x : Ctx) (j : Nat) : (s.setSctx c x).ring j = s.ring j := rfl
@[simp] theorem State.setSctx_chan_at (s : State) (c : Nat) (x : Ctx) (j : Nat) : (s.setSctx c x).chan j = s.chan j := rfl
@[simp] theorem State.setSctx_port_at (s : State) (c : Nat) (x : Ctx) (j : Nat) : (s.setSctx c x).port j = s.port j := rfl
@[simp] theorem State.setSctx_pane_at (s : State) (c : Nat) (x : Ctx) (j : Nat) : (s.setSctx c x).pane j = s.pane j := rfl
@[simp] theorem State.setSctx_qp_at (s : State) (c : Nat) (x : Ctx) (j : Nat) : (s.setSctx c x).qp j = s.qp j := rfl
@[simp] theorem State.setSctx_req_at (s : State) (c : Nat) (x : Ctx) (j : Nat) : (s.setSctx c x).req j = s.req j := rfl
@[simp] theorem State.setSctx_byte_at (s : State) (c : Nat) (x : Ctx) (j : Nat) : (s.setSctx c x).byte j = s.byte j := rfl

/-! ### State.setPlan: writes plans -/

@[simp] theorem State.setPlan_pending (s : State) (k : Nat) (x : Plan) : (s.setPlan k x).pending = s.pending := rfl
@[simp] theorem State.setPlan_regs (s : State) (k : Nat) (x : Plan) : (s.setPlan k x).regs = s.regs := rfl
@[simp] theorem State.setPlan_mem (s : State) (k : Nat) (x : Plan) : (s.setPlan k x).mem = s.mem := rfl
@[simp] theorem State.setPlan_gran (s : State) (k : Nat) (x : Plan) : (s.setPlan k x).gran = s.gran := rfl
@[simp] theorem State.setPlan_flaws (s : State) (k : Nat) (x : Plan) : (s.setPlan k x).flaws = s.flaws := rfl
@[simp] theorem State.setPlan_keys (s : State) (k : Nat) (x : Plan) : (s.setPlan k x).keys = s.keys := rfl
@[simp] theorem State.setPlan_busErrs (s : State) (k : Nat) (x : Plan) : (s.setPlan k x).busErrs = s.busErrs := rfl
@[simp] theorem State.setPlan_skewWin (s : State) (k : Nat) (x : Plan) : (s.setPlan k x).skewWin = s.skewWin := rfl
@[simp] theorem State.setPlan_served (s : State) (k : Nat) (x : Plan) : (s.setPlan k x).served = s.served := rfl
@[simp] theorem State.setPlan_cores (s : State) (k : Nat) (x : Plan) : (s.setPlan k x).cores = s.cores := rfl
@[simp] theorem State.setPlan_parts (s : State) (k : Nat) (x : Plan) : (s.setPlan k x).parts = s.parts := rfl
@[simp] theorem State.setPlan_tctx (s : State) (k : Nat) (x : Plan) : (s.setPlan k x).tctx = s.tctx := rfl
@[simp] theorem State.setPlan_sctx (s : State) (k : Nat) (x : Plan) : (s.setPlan k x).sctx = s.sctx := rfl
@[simp] theorem State.setPlan_arrivals (s : State) (k : Nat) (x : Plan) : (s.setPlan k x).arrivals = s.arrivals := rfl
@[simp] theorem State.setPlan_rq (s : State) (k : Nat) (x : Plan) : (s.setPlan k x).rq = s.rq := rfl
@[simp] theorem State.setPlan_inbox (s : State) (k : Nat) (x : Plan) : (s.setPlan k x).inbox = s.inbox := rfl
@[simp] theorem State.setPlan_tags (s : State) (k : Nat) (x : Plan) : (s.setPlan k x).tags = s.tags := rfl
@[simp] theorem State.setPlan_nextTag (s : State) (k : Nat) (x : Plan) : (s.setPlan k x).nextTag = s.nextTag := rfl
@[simp] theorem State.setPlan_nextPlan (s : State) (k : Nat) (x : Plan) : (s.setPlan k x).nextPlan = s.nextPlan := rfl
@[simp] theorem State.setPlan_free (s : State) (k : Nat) (x : Plan) : (s.setPlan k x).free = s.free := rfl
@[simp] theorem State.setPlan_rings (s : State) (k : Nat) (x : Plan) : (s.setPlan k x).rings = s.rings := rfl
@[simp] theorem State.setPlan_sram (s : State) (k : Nat) (x : Plan) : (s.setPlan k x).sram = s.sram := rfl
@[simp] theorem State.setPlan_replies (s : State) (k : Nat) (x : Plan) : (s.setPlan k x).replies = s.replies := rfl
@[simp] theorem State.setPlan_msix (s : State) (k : Nat) (x : Plan) : (s.setPlan k x).msix = s.msix := rfl
@[simp] theorem State.setPlan_log (s : State) (k : Nat) (x : Plan) : (s.setPlan k x).log = s.log := rfl
@[simp] theorem State.setPlan_pldm (s : State) (k : Nat) (x : Plan) : (s.setPlan k x).pldm = s.pldm := rfl
@[simp] theorem State.setPlan_steps (s : State) (k : Nat) (x : Plan) : (s.setPlan k x).steps = s.steps := rfl
@[simp] theorem State.setPlan_boot (s : State) (k : Nat) (x : Plan) : (s.setPlan k x).boot = s.boot := rfl
@[simp] theorem State.setPlan_scrubPos (s : State) (k : Nat) (x : Plan) : (s.setPlan k x).scrubPos = s.scrubPos := rfl
@[simp] theorem State.setPlan_scrubSince (s : State) (k : Nat) (x : Plan) : (s.setPlan k x).scrubSince = s.scrubSince := rfl
@[simp] theorem State.setPlan_unavail (s : State) (k : Nat) (x : Plan) : (s.setPlan k x).unavail = s.unavail := rfl
@[simp] theorem State.setPlan_drifted (s : State) (k : Nat) (x : Plan) : (s.setPlan k x).drifted = s.drifted := rfl
@[simp] theorem State.setPlan_locks (s : State) (k : Nat) (x : Plan) : (s.setPlan k x).locks = s.locks := rfl
@[simp] theorem State.setPlan_dma (s : State) (k : Nat) (x : Plan) : (s.setPlan k x).dma = s.dma := rfl
@[simp] theorem State.setPlan_rs (s : State) (k : Nat) (x : Plan) : (s.setPlan k x).rs = s.rs := rfl
@[simp] theorem State.setPlan_bounce (s : State) (k : Nat) (x : Plan) : (s.setPlan k x).bounce = s.bounce := rfl
@[simp] theorem State.setPlan_hostOut (s : State) (k : Nat) (x : Plan) : (s.setPlan k x).hostOut = s.hostOut := rfl
@[simp] theorem State.setPlan_ports (s : State) (k : Nat) (x : Plan) : (s.setPlan k x).ports = s.ports := rfl
@[simp] theorem State.setPlan_time (s : State) (k : Nat) (x : Plan) : (s.setPlan k x).time = s.time := rfl
@[simp] theorem State.setPlan_panes (s : State) (k : Nat) (x : Plan) : (s.setPlan k x).panes = s.panes := rfl
@[simp] theorem State.setPlan_psec (s : State) (k : Nat) (x : Plan) : (s.setPlan k x).psec = s.psec := rfl
@[simp] theorem State.setPlan_pairDown (s : State) (k : Nat) (x : Plan) : (s.setPlan k x).pairDown = s.pairDown := rfl
@[simp] theorem State.setPlan_qps (s : State) (k : Nat) (x : Plan) : (s.setPlan k x).qps = s.qps := rfl
@[simp] theorem State.setPlan_serves (s : State) (k : Nat) (x : Plan) : (s.setPlan k x).serves = s.serves := rfl
@[simp] theorem State.setPlan_reqs (s : State) (k : Nat) (x : Plan) : (s.setPlan k x).reqs = s.reqs := rfl
@[simp] theorem State.setPlan_custs (s : State) (k : Nat) (x : Plan) : (s.setPlan k x).custs = s.custs := rfl
@[simp] theorem State.setPlan_fw (s : State) (k : Nat) (x : Plan) : (s.setPlan k x).fw = s.fw := rfl
@[simp] theorem State.setPlan_fwin (s : State) (k : Nat) (x : Plan) : (s.setPlan k x).fwin = s.fwin := rfl
@[simp] theorem State.setPlan_fwrun (s : State) (k : Nat) (x : Plan) : (s.setPlan k x).fwrun = s.fwrun := rfl
@[simp] theorem State.setPlan_hand (s : State) (k : Nat) (x : Plan) : (s.setPlan k x).hand = s.hand := rfl
@[simp] theorem State.setPlan_ckpt (s : State) (k : Nat) (x : Plan) : (s.setPlan k x).ckpt = s.ckpt := rfl
@[simp] theorem State.setPlan_upd (s : State) (k : Nat) (x : Plan) : (s.setPlan k x).upd = s.upd := rfl
@[simp] theorem State.setPlan_sessions (s : State) (k : Nat) (x : Plan) : (s.setPlan k x).sessions = s.sessions := rfl
@[simp] theorem State.setPlan_nextSess (s : State) (k : Nat) (x : Plan) : (s.setPlan k x).nextSess = s.nextSess := rfl
@[simp] theorem State.setPlan_algs (s : State) (k : Nat) (x : Plan) : (s.setPlan k x).algs = s.algs := rfl
@[simp] theorem State.setPlan_spdm (s : State) (k : Nat) (x : Plan) : (s.setPlan k x).spdm = s.spdm := rfl
@[simp] theorem State.setPlan_nonces (s : State) (k : Nat) (x : Plan) : (s.setPlan k x).nonces = s.nonces := rfl
@[simp] theorem State.setPlan_debugWant (s : State) (k : Nat) (x : Plan) : (s.setPlan k x).debugWant = s.debugWant := rfl
@[simp] theorem State.setPlan_tamp (s : State) (k : Nat) (x : Plan) : (s.setPlan k x).tamp = s.tamp := rfl
@[simp] theorem State.setPlan_uartRx (s : State) (k : Nat) (x : Plan) : (s.setPlan k x).uartRx = s.uartRx := rfl
@[simp] theorem State.setPlan_uartTx (s : State) (k : Nat) (x : Plan) : (s.setPlan k x).uartTx = s.uartTx := rfl
@[simp] theorem State.setPlan_uartOut (s : State) (k : Nat) (x : Plan) : (s.setPlan k x).uartOut = s.uartOut := rfl
@[simp] theorem State.setPlan_uartLine (s : State) (k : Nat) (x : Plan) : (s.setPlan k x).uartLine = s.uartLine := rfl
@[simp] theorem State.setPlan_tlpOut (s : State) (k : Nat) (x : Plan) : (s.setPlan k x).tlpOut = s.tlpOut := rfl
@[simp] theorem State.setPlan_mctpIn (s : State) (k : Nat) (x : Plan) : (s.setPlan k x).mctpIn = s.mctpIn := rfl
@[simp] theorem State.setPlan_mctpOut (s : State) (k : Nat) (x : Plan) : (s.setPlan k x).mctpOut = s.mctpOut := rfl
@[simp] theorem State.setPlan_overPeriods (s : State) (k : Nat) (x : Plan) : (s.setPlan k x).overPeriods = s.overPeriods := rfl
@[simp] theorem State.setPlan_lockQ (s : State) (k : Nat) (x : Plan) : (s.setPlan k x).lockQ = s.lockQ := rfl
@[simp] theorem State.setPlan_eid (s : State) (k : Nat) (x : Plan) : (s.setPlan k x).eid = s.eid := rfl
@[simp] theorem State.setPlan_ptpOut (s : State) (k : Nat) (x : Plan) : (s.setPlan k x).ptpOut = s.ptpOut := rfl
@[simp] theorem State.setPlan_waking (s : State) (k : Nat) (x : Plan) : (s.setPlan k x).waking = s.waking := rfl
@[simp] theorem State.setPlan_rdReg (s : State) (k : Nat) (x : Plan) (r' : Reg) (j : Nat) : (s.setPlan k x).rdReg r' j = s.rdReg r' j := rfl
@[simp] theorem State.setPlan_getF (s : State) (k : Nat) (x : Plan) (f' : Fld) (j : Nat) : (s.setPlan k x).getF f' j = s.getF f' j := rfl
@[simp] theorem State.setPlan_core_at (s : State) (k : Nat) (x : Plan) (j : Nat) : (s.setPlan k x).core j = s.core j := rfl
@[simp] theorem State.setPlan_part_at (s : State) (k : Nat) (x : Plan) (j : Nat) : (s.setPlan k x).part j = s.part j := rfl
@[simp] theorem State.setPlan_tctxOf_at (s : State) (k : Nat) (x : Plan) (j : Nat) : (s.setPlan k x).tctxOf j = s.tctxOf j := rfl
@[simp] theorem State.setPlan_sctxOf_at (s : State) (k : Nat) (x : Plan) (j : Nat) : (s.setPlan k x).sctxOf j = s.sctxOf j := rfl
@[simp] theorem State.setPlan_ring_at (s : State) (k : Nat) (x : Plan) (j : Nat) : (s.setPlan k x).ring j = s.ring j := rfl
@[simp] theorem State.setPlan_chan_at (s : State) (k : Nat) (x : Plan) (j : Nat) : (s.setPlan k x).chan j = s.chan j := rfl
@[simp] theorem State.setPlan_port_at (s : State) (k : Nat) (x : Plan) (j : Nat) : (s.setPlan k x).port j = s.port j := rfl
@[simp] theorem State.setPlan_pane_at (s : State) (k : Nat) (x : Plan) (j : Nat) : (s.setPlan k x).pane j = s.pane j := rfl
@[simp] theorem State.setPlan_qp_at (s : State) (k : Nat) (x : Plan) (j : Nat) : (s.setPlan k x).qp j = s.qp j := rfl
@[simp] theorem State.setPlan_req_at (s : State) (k : Nat) (x : Plan) (j : Nat) : (s.setPlan k x).req j = s.req j := rfl
@[simp] theorem State.setPlan_byte_at (s : State) (k : Nat) (x : Plan) (j : Nat) : (s.setPlan k x).byte j = s.byte j := rfl

/-! ### State.setRing: writes rings -/

@[simp] theorem State.setRing_pending (s : State) (k : Nat) (x : Ring) : (s.setRing k x).pending = s.pending := rfl
@[simp] theorem State.setRing_regs (s : State) (k : Nat) (x : Ring) : (s.setRing k x).regs = s.regs := rfl
@[simp] theorem State.setRing_mem (s : State) (k : Nat) (x : Ring) : (s.setRing k x).mem = s.mem := rfl
@[simp] theorem State.setRing_gran (s : State) (k : Nat) (x : Ring) : (s.setRing k x).gran = s.gran := rfl
@[simp] theorem State.setRing_flaws (s : State) (k : Nat) (x : Ring) : (s.setRing k x).flaws = s.flaws := rfl
@[simp] theorem State.setRing_keys (s : State) (k : Nat) (x : Ring) : (s.setRing k x).keys = s.keys := rfl
@[simp] theorem State.setRing_busErrs (s : State) (k : Nat) (x : Ring) : (s.setRing k x).busErrs = s.busErrs := rfl
@[simp] theorem State.setRing_skewWin (s : State) (k : Nat) (x : Ring) : (s.setRing k x).skewWin = s.skewWin := rfl
@[simp] theorem State.setRing_served (s : State) (k : Nat) (x : Ring) : (s.setRing k x).served = s.served := rfl
@[simp] theorem State.setRing_cores (s : State) (k : Nat) (x : Ring) : (s.setRing k x).cores = s.cores := rfl
@[simp] theorem State.setRing_parts (s : State) (k : Nat) (x : Ring) : (s.setRing k x).parts = s.parts := rfl
@[simp] theorem State.setRing_tctx (s : State) (k : Nat) (x : Ring) : (s.setRing k x).tctx = s.tctx := rfl
@[simp] theorem State.setRing_sctx (s : State) (k : Nat) (x : Ring) : (s.setRing k x).sctx = s.sctx := rfl
@[simp] theorem State.setRing_arrivals (s : State) (k : Nat) (x : Ring) : (s.setRing k x).arrivals = s.arrivals := rfl
@[simp] theorem State.setRing_rq (s : State) (k : Nat) (x : Ring) : (s.setRing k x).rq = s.rq := rfl
@[simp] theorem State.setRing_inbox (s : State) (k : Nat) (x : Ring) : (s.setRing k x).inbox = s.inbox := rfl
@[simp] theorem State.setRing_tags (s : State) (k : Nat) (x : Ring) : (s.setRing k x).tags = s.tags := rfl
@[simp] theorem State.setRing_nextTag (s : State) (k : Nat) (x : Ring) : (s.setRing k x).nextTag = s.nextTag := rfl
@[simp] theorem State.setRing_plans (s : State) (k : Nat) (x : Ring) : (s.setRing k x).plans = s.plans := rfl
@[simp] theorem State.setRing_nextPlan (s : State) (k : Nat) (x : Ring) : (s.setRing k x).nextPlan = s.nextPlan := rfl
@[simp] theorem State.setRing_free (s : State) (k : Nat) (x : Ring) : (s.setRing k x).free = s.free := rfl
@[simp] theorem State.setRing_sram (s : State) (k : Nat) (x : Ring) : (s.setRing k x).sram = s.sram := rfl
@[simp] theorem State.setRing_replies (s : State) (k : Nat) (x : Ring) : (s.setRing k x).replies = s.replies := rfl
@[simp] theorem State.setRing_msix (s : State) (k : Nat) (x : Ring) : (s.setRing k x).msix = s.msix := rfl
@[simp] theorem State.setRing_log (s : State) (k : Nat) (x : Ring) : (s.setRing k x).log = s.log := rfl
@[simp] theorem State.setRing_pldm (s : State) (k : Nat) (x : Ring) : (s.setRing k x).pldm = s.pldm := rfl
@[simp] theorem State.setRing_steps (s : State) (k : Nat) (x : Ring) : (s.setRing k x).steps = s.steps := rfl
@[simp] theorem State.setRing_boot (s : State) (k : Nat) (x : Ring) : (s.setRing k x).boot = s.boot := rfl
@[simp] theorem State.setRing_scrubPos (s : State) (k : Nat) (x : Ring) : (s.setRing k x).scrubPos = s.scrubPos := rfl
@[simp] theorem State.setRing_scrubSince (s : State) (k : Nat) (x : Ring) : (s.setRing k x).scrubSince = s.scrubSince := rfl
@[simp] theorem State.setRing_unavail (s : State) (k : Nat) (x : Ring) : (s.setRing k x).unavail = s.unavail := rfl
@[simp] theorem State.setRing_drifted (s : State) (k : Nat) (x : Ring) : (s.setRing k x).drifted = s.drifted := rfl
@[simp] theorem State.setRing_locks (s : State) (k : Nat) (x : Ring) : (s.setRing k x).locks = s.locks := rfl
@[simp] theorem State.setRing_dma (s : State) (k : Nat) (x : Ring) : (s.setRing k x).dma = s.dma := rfl
@[simp] theorem State.setRing_rs (s : State) (k : Nat) (x : Ring) : (s.setRing k x).rs = s.rs := rfl
@[simp] theorem State.setRing_bounce (s : State) (k : Nat) (x : Ring) : (s.setRing k x).bounce = s.bounce := rfl
@[simp] theorem State.setRing_hostOut (s : State) (k : Nat) (x : Ring) : (s.setRing k x).hostOut = s.hostOut := rfl
@[simp] theorem State.setRing_ports (s : State) (k : Nat) (x : Ring) : (s.setRing k x).ports = s.ports := rfl
@[simp] theorem State.setRing_time (s : State) (k : Nat) (x : Ring) : (s.setRing k x).time = s.time := rfl
@[simp] theorem State.setRing_panes (s : State) (k : Nat) (x : Ring) : (s.setRing k x).panes = s.panes := rfl
@[simp] theorem State.setRing_psec (s : State) (k : Nat) (x : Ring) : (s.setRing k x).psec = s.psec := rfl
@[simp] theorem State.setRing_pairDown (s : State) (k : Nat) (x : Ring) : (s.setRing k x).pairDown = s.pairDown := rfl
@[simp] theorem State.setRing_qps (s : State) (k : Nat) (x : Ring) : (s.setRing k x).qps = s.qps := rfl
@[simp] theorem State.setRing_serves (s : State) (k : Nat) (x : Ring) : (s.setRing k x).serves = s.serves := rfl
@[simp] theorem State.setRing_reqs (s : State) (k : Nat) (x : Ring) : (s.setRing k x).reqs = s.reqs := rfl
@[simp] theorem State.setRing_custs (s : State) (k : Nat) (x : Ring) : (s.setRing k x).custs = s.custs := rfl
@[simp] theorem State.setRing_fw (s : State) (k : Nat) (x : Ring) : (s.setRing k x).fw = s.fw := rfl
@[simp] theorem State.setRing_fwin (s : State) (k : Nat) (x : Ring) : (s.setRing k x).fwin = s.fwin := rfl
@[simp] theorem State.setRing_fwrun (s : State) (k : Nat) (x : Ring) : (s.setRing k x).fwrun = s.fwrun := rfl
@[simp] theorem State.setRing_hand (s : State) (k : Nat) (x : Ring) : (s.setRing k x).hand = s.hand := rfl
@[simp] theorem State.setRing_ckpt (s : State) (k : Nat) (x : Ring) : (s.setRing k x).ckpt = s.ckpt := rfl
@[simp] theorem State.setRing_upd (s : State) (k : Nat) (x : Ring) : (s.setRing k x).upd = s.upd := rfl
@[simp] theorem State.setRing_sessions (s : State) (k : Nat) (x : Ring) : (s.setRing k x).sessions = s.sessions := rfl
@[simp] theorem State.setRing_nextSess (s : State) (k : Nat) (x : Ring) : (s.setRing k x).nextSess = s.nextSess := rfl
@[simp] theorem State.setRing_algs (s : State) (k : Nat) (x : Ring) : (s.setRing k x).algs = s.algs := rfl
@[simp] theorem State.setRing_spdm (s : State) (k : Nat) (x : Ring) : (s.setRing k x).spdm = s.spdm := rfl
@[simp] theorem State.setRing_nonces (s : State) (k : Nat) (x : Ring) : (s.setRing k x).nonces = s.nonces := rfl
@[simp] theorem State.setRing_debugWant (s : State) (k : Nat) (x : Ring) : (s.setRing k x).debugWant = s.debugWant := rfl
@[simp] theorem State.setRing_tamp (s : State) (k : Nat) (x : Ring) : (s.setRing k x).tamp = s.tamp := rfl
@[simp] theorem State.setRing_uartRx (s : State) (k : Nat) (x : Ring) : (s.setRing k x).uartRx = s.uartRx := rfl
@[simp] theorem State.setRing_uartTx (s : State) (k : Nat) (x : Ring) : (s.setRing k x).uartTx = s.uartTx := rfl
@[simp] theorem State.setRing_uartOut (s : State) (k : Nat) (x : Ring) : (s.setRing k x).uartOut = s.uartOut := rfl
@[simp] theorem State.setRing_uartLine (s : State) (k : Nat) (x : Ring) : (s.setRing k x).uartLine = s.uartLine := rfl
@[simp] theorem State.setRing_tlpOut (s : State) (k : Nat) (x : Ring) : (s.setRing k x).tlpOut = s.tlpOut := rfl
@[simp] theorem State.setRing_mctpIn (s : State) (k : Nat) (x : Ring) : (s.setRing k x).mctpIn = s.mctpIn := rfl
@[simp] theorem State.setRing_mctpOut (s : State) (k : Nat) (x : Ring) : (s.setRing k x).mctpOut = s.mctpOut := rfl
@[simp] theorem State.setRing_overPeriods (s : State) (k : Nat) (x : Ring) : (s.setRing k x).overPeriods = s.overPeriods := rfl
@[simp] theorem State.setRing_lockQ (s : State) (k : Nat) (x : Ring) : (s.setRing k x).lockQ = s.lockQ := rfl
@[simp] theorem State.setRing_eid (s : State) (k : Nat) (x : Ring) : (s.setRing k x).eid = s.eid := rfl
@[simp] theorem State.setRing_ptpOut (s : State) (k : Nat) (x : Ring) : (s.setRing k x).ptpOut = s.ptpOut := rfl
@[simp] theorem State.setRing_waking (s : State) (k : Nat) (x : Ring) : (s.setRing k x).waking = s.waking := rfl
@[simp] theorem State.setRing_rdReg (s : State) (k : Nat) (x : Ring) (r' : Reg) (j : Nat) : (s.setRing k x).rdReg r' j = s.rdReg r' j := rfl
@[simp] theorem State.setRing_getF (s : State) (k : Nat) (x : Ring) (f' : Fld) (j : Nat) : (s.setRing k x).getF f' j = s.getF f' j := rfl
@[simp] theorem State.setRing_core_at (s : State) (k : Nat) (x : Ring) (j : Nat) : (s.setRing k x).core j = s.core j := rfl
@[simp] theorem State.setRing_part_at (s : State) (k : Nat) (x : Ring) (j : Nat) : (s.setRing k x).part j = s.part j := rfl
@[simp] theorem State.setRing_tctxOf_at (s : State) (k : Nat) (x : Ring) (j : Nat) : (s.setRing k x).tctxOf j = s.tctxOf j := rfl
@[simp] theorem State.setRing_sctxOf_at (s : State) (k : Nat) (x : Ring) (j : Nat) : (s.setRing k x).sctxOf j = s.sctxOf j := rfl
@[simp] theorem State.setRing_plan_at (s : State) (k : Nat) (x : Ring) (j : Nat) : (s.setRing k x).plan j = s.plan j := rfl
@[simp] theorem State.setRing_chan_at (s : State) (k : Nat) (x : Ring) (j : Nat) : (s.setRing k x).chan j = s.chan j := rfl
@[simp] theorem State.setRing_port_at (s : State) (k : Nat) (x : Ring) (j : Nat) : (s.setRing k x).port j = s.port j := rfl
@[simp] theorem State.setRing_pane_at (s : State) (k : Nat) (x : Ring) (j : Nat) : (s.setRing k x).pane j = s.pane j := rfl
@[simp] theorem State.setRing_qp_at (s : State) (k : Nat) (x : Ring) (j : Nat) : (s.setRing k x).qp j = s.qp j := rfl
@[simp] theorem State.setRing_req_at (s : State) (k : Nat) (x : Ring) (j : Nat) : (s.setRing k x).req j = s.req j := rfl
@[simp] theorem State.setRing_byte_at (s : State) (k : Nat) (x : Ring) (j : Nat) : (s.setRing k x).byte j = s.byte j := rfl

/-! ### State.setChan: writes dma -/

@[simp] theorem State.setChan_pending (s : State) (i : Nat) (c : Chan) : (s.setChan i c).pending = s.pending := rfl
@[simp] theorem State.setChan_regs (s : State) (i : Nat) (c : Chan) : (s.setChan i c).regs = s.regs := rfl
@[simp] theorem State.setChan_mem (s : State) (i : Nat) (c : Chan) : (s.setChan i c).mem = s.mem := rfl
@[simp] theorem State.setChan_gran (s : State) (i : Nat) (c : Chan) : (s.setChan i c).gran = s.gran := rfl
@[simp] theorem State.setChan_flaws (s : State) (i : Nat) (c : Chan) : (s.setChan i c).flaws = s.flaws := rfl
@[simp] theorem State.setChan_keys (s : State) (i : Nat) (c : Chan) : (s.setChan i c).keys = s.keys := rfl
@[simp] theorem State.setChan_busErrs (s : State) (i : Nat) (c : Chan) : (s.setChan i c).busErrs = s.busErrs := rfl
@[simp] theorem State.setChan_skewWin (s : State) (i : Nat) (c : Chan) : (s.setChan i c).skewWin = s.skewWin := rfl
@[simp] theorem State.setChan_served (s : State) (i : Nat) (c : Chan) : (s.setChan i c).served = s.served := rfl
@[simp] theorem State.setChan_cores (s : State) (i : Nat) (c : Chan) : (s.setChan i c).cores = s.cores := rfl
@[simp] theorem State.setChan_parts (s : State) (i : Nat) (c : Chan) : (s.setChan i c).parts = s.parts := rfl
@[simp] theorem State.setChan_tctx (s : State) (i : Nat) (c : Chan) : (s.setChan i c).tctx = s.tctx := rfl
@[simp] theorem State.setChan_sctx (s : State) (i : Nat) (c : Chan) : (s.setChan i c).sctx = s.sctx := rfl
@[simp] theorem State.setChan_arrivals (s : State) (i : Nat) (c : Chan) : (s.setChan i c).arrivals = s.arrivals := rfl
@[simp] theorem State.setChan_rq (s : State) (i : Nat) (c : Chan) : (s.setChan i c).rq = s.rq := rfl
@[simp] theorem State.setChan_inbox (s : State) (i : Nat) (c : Chan) : (s.setChan i c).inbox = s.inbox := rfl
@[simp] theorem State.setChan_tags (s : State) (i : Nat) (c : Chan) : (s.setChan i c).tags = s.tags := rfl
@[simp] theorem State.setChan_nextTag (s : State) (i : Nat) (c : Chan) : (s.setChan i c).nextTag = s.nextTag := rfl
@[simp] theorem State.setChan_plans (s : State) (i : Nat) (c : Chan) : (s.setChan i c).plans = s.plans := rfl
@[simp] theorem State.setChan_nextPlan (s : State) (i : Nat) (c : Chan) : (s.setChan i c).nextPlan = s.nextPlan := rfl
@[simp] theorem State.setChan_free (s : State) (i : Nat) (c : Chan) : (s.setChan i c).free = s.free := rfl
@[simp] theorem State.setChan_rings (s : State) (i : Nat) (c : Chan) : (s.setChan i c).rings = s.rings := rfl
@[simp] theorem State.setChan_sram (s : State) (i : Nat) (c : Chan) : (s.setChan i c).sram = s.sram := rfl
@[simp] theorem State.setChan_replies (s : State) (i : Nat) (c : Chan) : (s.setChan i c).replies = s.replies := rfl
@[simp] theorem State.setChan_msix (s : State) (i : Nat) (c : Chan) : (s.setChan i c).msix = s.msix := rfl
@[simp] theorem State.setChan_log (s : State) (i : Nat) (c : Chan) : (s.setChan i c).log = s.log := rfl
@[simp] theorem State.setChan_pldm (s : State) (i : Nat) (c : Chan) : (s.setChan i c).pldm = s.pldm := rfl
@[simp] theorem State.setChan_steps (s : State) (i : Nat) (c : Chan) : (s.setChan i c).steps = s.steps := rfl
@[simp] theorem State.setChan_boot (s : State) (i : Nat) (c : Chan) : (s.setChan i c).boot = s.boot := rfl
@[simp] theorem State.setChan_scrubPos (s : State) (i : Nat) (c : Chan) : (s.setChan i c).scrubPos = s.scrubPos := rfl
@[simp] theorem State.setChan_scrubSince (s : State) (i : Nat) (c : Chan) : (s.setChan i c).scrubSince = s.scrubSince := rfl
@[simp] theorem State.setChan_unavail (s : State) (i : Nat) (c : Chan) : (s.setChan i c).unavail = s.unavail := rfl
@[simp] theorem State.setChan_drifted (s : State) (i : Nat) (c : Chan) : (s.setChan i c).drifted = s.drifted := rfl
@[simp] theorem State.setChan_locks (s : State) (i : Nat) (c : Chan) : (s.setChan i c).locks = s.locks := rfl
@[simp] theorem State.setChan_rs (s : State) (i : Nat) (c : Chan) : (s.setChan i c).rs = s.rs := rfl
@[simp] theorem State.setChan_bounce (s : State) (i : Nat) (c : Chan) : (s.setChan i c).bounce = s.bounce := rfl
@[simp] theorem State.setChan_hostOut (s : State) (i : Nat) (c : Chan) : (s.setChan i c).hostOut = s.hostOut := rfl
@[simp] theorem State.setChan_ports (s : State) (i : Nat) (c : Chan) : (s.setChan i c).ports = s.ports := rfl
@[simp] theorem State.setChan_time (s : State) (i : Nat) (c : Chan) : (s.setChan i c).time = s.time := rfl
@[simp] theorem State.setChan_panes (s : State) (i : Nat) (c : Chan) : (s.setChan i c).panes = s.panes := rfl
@[simp] theorem State.setChan_psec (s : State) (i : Nat) (c : Chan) : (s.setChan i c).psec = s.psec := rfl
@[simp] theorem State.setChan_pairDown (s : State) (i : Nat) (c : Chan) : (s.setChan i c).pairDown = s.pairDown := rfl
@[simp] theorem State.setChan_qps (s : State) (i : Nat) (c : Chan) : (s.setChan i c).qps = s.qps := rfl
@[simp] theorem State.setChan_serves (s : State) (i : Nat) (c : Chan) : (s.setChan i c).serves = s.serves := rfl
@[simp] theorem State.setChan_reqs (s : State) (i : Nat) (c : Chan) : (s.setChan i c).reqs = s.reqs := rfl
@[simp] theorem State.setChan_custs (s : State) (i : Nat) (c : Chan) : (s.setChan i c).custs = s.custs := rfl
@[simp] theorem State.setChan_fw (s : State) (i : Nat) (c : Chan) : (s.setChan i c).fw = s.fw := rfl
@[simp] theorem State.setChan_fwin (s : State) (i : Nat) (c : Chan) : (s.setChan i c).fwin = s.fwin := rfl
@[simp] theorem State.setChan_fwrun (s : State) (i : Nat) (c : Chan) : (s.setChan i c).fwrun = s.fwrun := rfl
@[simp] theorem State.setChan_hand (s : State) (i : Nat) (c : Chan) : (s.setChan i c).hand = s.hand := rfl
@[simp] theorem State.setChan_ckpt (s : State) (i : Nat) (c : Chan) : (s.setChan i c).ckpt = s.ckpt := rfl
@[simp] theorem State.setChan_upd (s : State) (i : Nat) (c : Chan) : (s.setChan i c).upd = s.upd := rfl
@[simp] theorem State.setChan_sessions (s : State) (i : Nat) (c : Chan) : (s.setChan i c).sessions = s.sessions := rfl
@[simp] theorem State.setChan_nextSess (s : State) (i : Nat) (c : Chan) : (s.setChan i c).nextSess = s.nextSess := rfl
@[simp] theorem State.setChan_algs (s : State) (i : Nat) (c : Chan) : (s.setChan i c).algs = s.algs := rfl
@[simp] theorem State.setChan_spdm (s : State) (i : Nat) (c : Chan) : (s.setChan i c).spdm = s.spdm := rfl
@[simp] theorem State.setChan_nonces (s : State) (i : Nat) (c : Chan) : (s.setChan i c).nonces = s.nonces := rfl
@[simp] theorem State.setChan_debugWant (s : State) (i : Nat) (c : Chan) : (s.setChan i c).debugWant = s.debugWant := rfl
@[simp] theorem State.setChan_tamp (s : State) (i : Nat) (c : Chan) : (s.setChan i c).tamp = s.tamp := rfl
@[simp] theorem State.setChan_uartRx (s : State) (i : Nat) (c : Chan) : (s.setChan i c).uartRx = s.uartRx := rfl
@[simp] theorem State.setChan_uartTx (s : State) (i : Nat) (c : Chan) : (s.setChan i c).uartTx = s.uartTx := rfl
@[simp] theorem State.setChan_uartOut (s : State) (i : Nat) (c : Chan) : (s.setChan i c).uartOut = s.uartOut := rfl
@[simp] theorem State.setChan_uartLine (s : State) (i : Nat) (c : Chan) : (s.setChan i c).uartLine = s.uartLine := rfl
@[simp] theorem State.setChan_tlpOut (s : State) (i : Nat) (c : Chan) : (s.setChan i c).tlpOut = s.tlpOut := rfl
@[simp] theorem State.setChan_mctpIn (s : State) (i : Nat) (c : Chan) : (s.setChan i c).mctpIn = s.mctpIn := rfl
@[simp] theorem State.setChan_mctpOut (s : State) (i : Nat) (c : Chan) : (s.setChan i c).mctpOut = s.mctpOut := rfl
@[simp] theorem State.setChan_overPeriods (s : State) (i : Nat) (c : Chan) : (s.setChan i c).overPeriods = s.overPeriods := rfl
@[simp] theorem State.setChan_lockQ (s : State) (i : Nat) (c : Chan) : (s.setChan i c).lockQ = s.lockQ := rfl
@[simp] theorem State.setChan_eid (s : State) (i : Nat) (c : Chan) : (s.setChan i c).eid = s.eid := rfl
@[simp] theorem State.setChan_ptpOut (s : State) (i : Nat) (c : Chan) : (s.setChan i c).ptpOut = s.ptpOut := rfl
@[simp] theorem State.setChan_waking (s : State) (i : Nat) (c : Chan) : (s.setChan i c).waking = s.waking := rfl
@[simp] theorem State.setChan_rdReg (s : State) (i : Nat) (c : Chan) (r' : Reg) (j : Nat) : (s.setChan i c).rdReg r' j = s.rdReg r' j := rfl
@[simp] theorem State.setChan_getF (s : State) (i : Nat) (c : Chan) (f' : Fld) (j : Nat) : (s.setChan i c).getF f' j = s.getF f' j := rfl
@[simp] theorem State.setChan_core_at (s : State) (i : Nat) (c : Chan) (j : Nat) : (s.setChan i c).core j = s.core j := rfl
@[simp] theorem State.setChan_part_at (s : State) (i : Nat) (c : Chan) (j : Nat) : (s.setChan i c).part j = s.part j := rfl
@[simp] theorem State.setChan_tctxOf_at (s : State) (i : Nat) (c : Chan) (j : Nat) : (s.setChan i c).tctxOf j = s.tctxOf j := rfl
@[simp] theorem State.setChan_sctxOf_at (s : State) (i : Nat) (c : Chan) (j : Nat) : (s.setChan i c).sctxOf j = s.sctxOf j := rfl
@[simp] theorem State.setChan_plan_at (s : State) (i : Nat) (c : Chan) (j : Nat) : (s.setChan i c).plan j = s.plan j := rfl
@[simp] theorem State.setChan_ring_at (s : State) (i : Nat) (c : Chan) (j : Nat) : (s.setChan i c).ring j = s.ring j := rfl
@[simp] theorem State.setChan_port_at (s : State) (i : Nat) (c : Chan) (j : Nat) : (s.setChan i c).port j = s.port j := rfl
@[simp] theorem State.setChan_pane_at (s : State) (i : Nat) (c : Chan) (j : Nat) : (s.setChan i c).pane j = s.pane j := rfl
@[simp] theorem State.setChan_qp_at (s : State) (i : Nat) (c : Chan) (j : Nat) : (s.setChan i c).qp j = s.qp j := rfl
@[simp] theorem State.setChan_req_at (s : State) (i : Nat) (c : Chan) (j : Nat) : (s.setChan i c).req j = s.req j := rfl
@[simp] theorem State.setChan_byte_at (s : State) (i : Nat) (c : Chan) (j : Nat) : (s.setChan i c).byte j = s.byte j := rfl

/-! ### State.setPort: writes ports -/

@[simp] theorem State.setPort_pending (s : State) (q : Nat) (x : Port) : (s.setPort q x).pending = s.pending := rfl
@[simp] theorem State.setPort_regs (s : State) (q : Nat) (x : Port) : (s.setPort q x).regs = s.regs := rfl
@[simp] theorem State.setPort_mem (s : State) (q : Nat) (x : Port) : (s.setPort q x).mem = s.mem := rfl
@[simp] theorem State.setPort_gran (s : State) (q : Nat) (x : Port) : (s.setPort q x).gran = s.gran := rfl
@[simp] theorem State.setPort_flaws (s : State) (q : Nat) (x : Port) : (s.setPort q x).flaws = s.flaws := rfl
@[simp] theorem State.setPort_keys (s : State) (q : Nat) (x : Port) : (s.setPort q x).keys = s.keys := rfl
@[simp] theorem State.setPort_busErrs (s : State) (q : Nat) (x : Port) : (s.setPort q x).busErrs = s.busErrs := rfl
@[simp] theorem State.setPort_skewWin (s : State) (q : Nat) (x : Port) : (s.setPort q x).skewWin = s.skewWin := rfl
@[simp] theorem State.setPort_served (s : State) (q : Nat) (x : Port) : (s.setPort q x).served = s.served := rfl
@[simp] theorem State.setPort_cores (s : State) (q : Nat) (x : Port) : (s.setPort q x).cores = s.cores := rfl
@[simp] theorem State.setPort_parts (s : State) (q : Nat) (x : Port) : (s.setPort q x).parts = s.parts := rfl
@[simp] theorem State.setPort_tctx (s : State) (q : Nat) (x : Port) : (s.setPort q x).tctx = s.tctx := rfl
@[simp] theorem State.setPort_sctx (s : State) (q : Nat) (x : Port) : (s.setPort q x).sctx = s.sctx := rfl
@[simp] theorem State.setPort_arrivals (s : State) (q : Nat) (x : Port) : (s.setPort q x).arrivals = s.arrivals := rfl
@[simp] theorem State.setPort_rq (s : State) (q : Nat) (x : Port) : (s.setPort q x).rq = s.rq := rfl
@[simp] theorem State.setPort_inbox (s : State) (q : Nat) (x : Port) : (s.setPort q x).inbox = s.inbox := rfl
@[simp] theorem State.setPort_tags (s : State) (q : Nat) (x : Port) : (s.setPort q x).tags = s.tags := rfl
@[simp] theorem State.setPort_nextTag (s : State) (q : Nat) (x : Port) : (s.setPort q x).nextTag = s.nextTag := rfl
@[simp] theorem State.setPort_plans (s : State) (q : Nat) (x : Port) : (s.setPort q x).plans = s.plans := rfl
@[simp] theorem State.setPort_nextPlan (s : State) (q : Nat) (x : Port) : (s.setPort q x).nextPlan = s.nextPlan := rfl
@[simp] theorem State.setPort_free (s : State) (q : Nat) (x : Port) : (s.setPort q x).free = s.free := rfl
@[simp] theorem State.setPort_rings (s : State) (q : Nat) (x : Port) : (s.setPort q x).rings = s.rings := rfl
@[simp] theorem State.setPort_sram (s : State) (q : Nat) (x : Port) : (s.setPort q x).sram = s.sram := rfl
@[simp] theorem State.setPort_replies (s : State) (q : Nat) (x : Port) : (s.setPort q x).replies = s.replies := rfl
@[simp] theorem State.setPort_msix (s : State) (q : Nat) (x : Port) : (s.setPort q x).msix = s.msix := rfl
@[simp] theorem State.setPort_log (s : State) (q : Nat) (x : Port) : (s.setPort q x).log = s.log := rfl
@[simp] theorem State.setPort_pldm (s : State) (q : Nat) (x : Port) : (s.setPort q x).pldm = s.pldm := rfl
@[simp] theorem State.setPort_steps (s : State) (q : Nat) (x : Port) : (s.setPort q x).steps = s.steps := rfl
@[simp] theorem State.setPort_boot (s : State) (q : Nat) (x : Port) : (s.setPort q x).boot = s.boot := rfl
@[simp] theorem State.setPort_scrubPos (s : State) (q : Nat) (x : Port) : (s.setPort q x).scrubPos = s.scrubPos := rfl
@[simp] theorem State.setPort_scrubSince (s : State) (q : Nat) (x : Port) : (s.setPort q x).scrubSince = s.scrubSince := rfl
@[simp] theorem State.setPort_unavail (s : State) (q : Nat) (x : Port) : (s.setPort q x).unavail = s.unavail := rfl
@[simp] theorem State.setPort_drifted (s : State) (q : Nat) (x : Port) : (s.setPort q x).drifted = s.drifted := rfl
@[simp] theorem State.setPort_locks (s : State) (q : Nat) (x : Port) : (s.setPort q x).locks = s.locks := rfl
@[simp] theorem State.setPort_dma (s : State) (q : Nat) (x : Port) : (s.setPort q x).dma = s.dma := rfl
@[simp] theorem State.setPort_rs (s : State) (q : Nat) (x : Port) : (s.setPort q x).rs = s.rs := rfl
@[simp] theorem State.setPort_bounce (s : State) (q : Nat) (x : Port) : (s.setPort q x).bounce = s.bounce := rfl
@[simp] theorem State.setPort_hostOut (s : State) (q : Nat) (x : Port) : (s.setPort q x).hostOut = s.hostOut := rfl
@[simp] theorem State.setPort_time (s : State) (q : Nat) (x : Port) : (s.setPort q x).time = s.time := rfl
@[simp] theorem State.setPort_panes (s : State) (q : Nat) (x : Port) : (s.setPort q x).panes = s.panes := rfl
@[simp] theorem State.setPort_psec (s : State) (q : Nat) (x : Port) : (s.setPort q x).psec = s.psec := rfl
@[simp] theorem State.setPort_pairDown (s : State) (q : Nat) (x : Port) : (s.setPort q x).pairDown = s.pairDown := rfl
@[simp] theorem State.setPort_qps (s : State) (q : Nat) (x : Port) : (s.setPort q x).qps = s.qps := rfl
@[simp] theorem State.setPort_serves (s : State) (q : Nat) (x : Port) : (s.setPort q x).serves = s.serves := rfl
@[simp] theorem State.setPort_reqs (s : State) (q : Nat) (x : Port) : (s.setPort q x).reqs = s.reqs := rfl
@[simp] theorem State.setPort_custs (s : State) (q : Nat) (x : Port) : (s.setPort q x).custs = s.custs := rfl
@[simp] theorem State.setPort_fw (s : State) (q : Nat) (x : Port) : (s.setPort q x).fw = s.fw := rfl
@[simp] theorem State.setPort_fwin (s : State) (q : Nat) (x : Port) : (s.setPort q x).fwin = s.fwin := rfl
@[simp] theorem State.setPort_fwrun (s : State) (q : Nat) (x : Port) : (s.setPort q x).fwrun = s.fwrun := rfl
@[simp] theorem State.setPort_hand (s : State) (q : Nat) (x : Port) : (s.setPort q x).hand = s.hand := rfl
@[simp] theorem State.setPort_ckpt (s : State) (q : Nat) (x : Port) : (s.setPort q x).ckpt = s.ckpt := rfl
@[simp] theorem State.setPort_upd (s : State) (q : Nat) (x : Port) : (s.setPort q x).upd = s.upd := rfl
@[simp] theorem State.setPort_sessions (s : State) (q : Nat) (x : Port) : (s.setPort q x).sessions = s.sessions := rfl
@[simp] theorem State.setPort_nextSess (s : State) (q : Nat) (x : Port) : (s.setPort q x).nextSess = s.nextSess := rfl
@[simp] theorem State.setPort_algs (s : State) (q : Nat) (x : Port) : (s.setPort q x).algs = s.algs := rfl
@[simp] theorem State.setPort_spdm (s : State) (q : Nat) (x : Port) : (s.setPort q x).spdm = s.spdm := rfl
@[simp] theorem State.setPort_nonces (s : State) (q : Nat) (x : Port) : (s.setPort q x).nonces = s.nonces := rfl
@[simp] theorem State.setPort_debugWant (s : State) (q : Nat) (x : Port) : (s.setPort q x).debugWant = s.debugWant := rfl
@[simp] theorem State.setPort_tamp (s : State) (q : Nat) (x : Port) : (s.setPort q x).tamp = s.tamp := rfl
@[simp] theorem State.setPort_uartRx (s : State) (q : Nat) (x : Port) : (s.setPort q x).uartRx = s.uartRx := rfl
@[simp] theorem State.setPort_uartTx (s : State) (q : Nat) (x : Port) : (s.setPort q x).uartTx = s.uartTx := rfl
@[simp] theorem State.setPort_uartOut (s : State) (q : Nat) (x : Port) : (s.setPort q x).uartOut = s.uartOut := rfl
@[simp] theorem State.setPort_uartLine (s : State) (q : Nat) (x : Port) : (s.setPort q x).uartLine = s.uartLine := rfl
@[simp] theorem State.setPort_tlpOut (s : State) (q : Nat) (x : Port) : (s.setPort q x).tlpOut = s.tlpOut := rfl
@[simp] theorem State.setPort_mctpIn (s : State) (q : Nat) (x : Port) : (s.setPort q x).mctpIn = s.mctpIn := rfl
@[simp] theorem State.setPort_mctpOut (s : State) (q : Nat) (x : Port) : (s.setPort q x).mctpOut = s.mctpOut := rfl
@[simp] theorem State.setPort_overPeriods (s : State) (q : Nat) (x : Port) : (s.setPort q x).overPeriods = s.overPeriods := rfl
@[simp] theorem State.setPort_lockQ (s : State) (q : Nat) (x : Port) : (s.setPort q x).lockQ = s.lockQ := rfl
@[simp] theorem State.setPort_eid (s : State) (q : Nat) (x : Port) : (s.setPort q x).eid = s.eid := rfl
@[simp] theorem State.setPort_ptpOut (s : State) (q : Nat) (x : Port) : (s.setPort q x).ptpOut = s.ptpOut := rfl
@[simp] theorem State.setPort_waking (s : State) (q : Nat) (x : Port) : (s.setPort q x).waking = s.waking := rfl
@[simp] theorem State.setPort_rdReg (s : State) (q : Nat) (x : Port) (r' : Reg) (j : Nat) : (s.setPort q x).rdReg r' j = s.rdReg r' j := rfl
@[simp] theorem State.setPort_getF (s : State) (q : Nat) (x : Port) (f' : Fld) (j : Nat) : (s.setPort q x).getF f' j = s.getF f' j := rfl
@[simp] theorem State.setPort_core_at (s : State) (q : Nat) (x : Port) (j : Nat) : (s.setPort q x).core j = s.core j := rfl
@[simp] theorem State.setPort_part_at (s : State) (q : Nat) (x : Port) (j : Nat) : (s.setPort q x).part j = s.part j := rfl
@[simp] theorem State.setPort_tctxOf_at (s : State) (q : Nat) (x : Port) (j : Nat) : (s.setPort q x).tctxOf j = s.tctxOf j := rfl
@[simp] theorem State.setPort_sctxOf_at (s : State) (q : Nat) (x : Port) (j : Nat) : (s.setPort q x).sctxOf j = s.sctxOf j := rfl
@[simp] theorem State.setPort_plan_at (s : State) (q : Nat) (x : Port) (j : Nat) : (s.setPort q x).plan j = s.plan j := rfl
@[simp] theorem State.setPort_ring_at (s : State) (q : Nat) (x : Port) (j : Nat) : (s.setPort q x).ring j = s.ring j := rfl
@[simp] theorem State.setPort_chan_at (s : State) (q : Nat) (x : Port) (j : Nat) : (s.setPort q x).chan j = s.chan j := rfl
@[simp] theorem State.setPort_pane_at (s : State) (q : Nat) (x : Port) (j : Nat) : (s.setPort q x).pane j = s.pane j := rfl
@[simp] theorem State.setPort_qp_at (s : State) (q : Nat) (x : Port) (j : Nat) : (s.setPort q x).qp j = s.qp j := rfl
@[simp] theorem State.setPort_req_at (s : State) (q : Nat) (x : Port) (j : Nat) : (s.setPort q x).req j = s.req j := rfl
@[simp] theorem State.setPort_byte_at (s : State) (q : Nat) (x : Port) (j : Nat) : (s.setPort q x).byte j = s.byte j := rfl

/-! ### State.setPane: writes panes -/

@[simp] theorem State.setPane_pending (s : State) (q : Nat) (x : PaneS) : (s.setPane q x).pending = s.pending := rfl
@[simp] theorem State.setPane_regs (s : State) (q : Nat) (x : PaneS) : (s.setPane q x).regs = s.regs := rfl
@[simp] theorem State.setPane_mem (s : State) (q : Nat) (x : PaneS) : (s.setPane q x).mem = s.mem := rfl
@[simp] theorem State.setPane_gran (s : State) (q : Nat) (x : PaneS) : (s.setPane q x).gran = s.gran := rfl
@[simp] theorem State.setPane_flaws (s : State) (q : Nat) (x : PaneS) : (s.setPane q x).flaws = s.flaws := rfl
@[simp] theorem State.setPane_keys (s : State) (q : Nat) (x : PaneS) : (s.setPane q x).keys = s.keys := rfl
@[simp] theorem State.setPane_busErrs (s : State) (q : Nat) (x : PaneS) : (s.setPane q x).busErrs = s.busErrs := rfl
@[simp] theorem State.setPane_skewWin (s : State) (q : Nat) (x : PaneS) : (s.setPane q x).skewWin = s.skewWin := rfl
@[simp] theorem State.setPane_served (s : State) (q : Nat) (x : PaneS) : (s.setPane q x).served = s.served := rfl
@[simp] theorem State.setPane_cores (s : State) (q : Nat) (x : PaneS) : (s.setPane q x).cores = s.cores := rfl
@[simp] theorem State.setPane_parts (s : State) (q : Nat) (x : PaneS) : (s.setPane q x).parts = s.parts := rfl
@[simp] theorem State.setPane_tctx (s : State) (q : Nat) (x : PaneS) : (s.setPane q x).tctx = s.tctx := rfl
@[simp] theorem State.setPane_sctx (s : State) (q : Nat) (x : PaneS) : (s.setPane q x).sctx = s.sctx := rfl
@[simp] theorem State.setPane_arrivals (s : State) (q : Nat) (x : PaneS) : (s.setPane q x).arrivals = s.arrivals := rfl
@[simp] theorem State.setPane_rq (s : State) (q : Nat) (x : PaneS) : (s.setPane q x).rq = s.rq := rfl
@[simp] theorem State.setPane_inbox (s : State) (q : Nat) (x : PaneS) : (s.setPane q x).inbox = s.inbox := rfl
@[simp] theorem State.setPane_tags (s : State) (q : Nat) (x : PaneS) : (s.setPane q x).tags = s.tags := rfl
@[simp] theorem State.setPane_nextTag (s : State) (q : Nat) (x : PaneS) : (s.setPane q x).nextTag = s.nextTag := rfl
@[simp] theorem State.setPane_plans (s : State) (q : Nat) (x : PaneS) : (s.setPane q x).plans = s.plans := rfl
@[simp] theorem State.setPane_nextPlan (s : State) (q : Nat) (x : PaneS) : (s.setPane q x).nextPlan = s.nextPlan := rfl
@[simp] theorem State.setPane_free (s : State) (q : Nat) (x : PaneS) : (s.setPane q x).free = s.free := rfl
@[simp] theorem State.setPane_rings (s : State) (q : Nat) (x : PaneS) : (s.setPane q x).rings = s.rings := rfl
@[simp] theorem State.setPane_sram (s : State) (q : Nat) (x : PaneS) : (s.setPane q x).sram = s.sram := rfl
@[simp] theorem State.setPane_replies (s : State) (q : Nat) (x : PaneS) : (s.setPane q x).replies = s.replies := rfl
@[simp] theorem State.setPane_msix (s : State) (q : Nat) (x : PaneS) : (s.setPane q x).msix = s.msix := rfl
@[simp] theorem State.setPane_log (s : State) (q : Nat) (x : PaneS) : (s.setPane q x).log = s.log := rfl
@[simp] theorem State.setPane_pldm (s : State) (q : Nat) (x : PaneS) : (s.setPane q x).pldm = s.pldm := rfl
@[simp] theorem State.setPane_steps (s : State) (q : Nat) (x : PaneS) : (s.setPane q x).steps = s.steps := rfl
@[simp] theorem State.setPane_boot (s : State) (q : Nat) (x : PaneS) : (s.setPane q x).boot = s.boot := rfl
@[simp] theorem State.setPane_scrubPos (s : State) (q : Nat) (x : PaneS) : (s.setPane q x).scrubPos = s.scrubPos := rfl
@[simp] theorem State.setPane_scrubSince (s : State) (q : Nat) (x : PaneS) : (s.setPane q x).scrubSince = s.scrubSince := rfl
@[simp] theorem State.setPane_unavail (s : State) (q : Nat) (x : PaneS) : (s.setPane q x).unavail = s.unavail := rfl
@[simp] theorem State.setPane_drifted (s : State) (q : Nat) (x : PaneS) : (s.setPane q x).drifted = s.drifted := rfl
@[simp] theorem State.setPane_locks (s : State) (q : Nat) (x : PaneS) : (s.setPane q x).locks = s.locks := rfl
@[simp] theorem State.setPane_dma (s : State) (q : Nat) (x : PaneS) : (s.setPane q x).dma = s.dma := rfl
@[simp] theorem State.setPane_rs (s : State) (q : Nat) (x : PaneS) : (s.setPane q x).rs = s.rs := rfl
@[simp] theorem State.setPane_bounce (s : State) (q : Nat) (x : PaneS) : (s.setPane q x).bounce = s.bounce := rfl
@[simp] theorem State.setPane_hostOut (s : State) (q : Nat) (x : PaneS) : (s.setPane q x).hostOut = s.hostOut := rfl
@[simp] theorem State.setPane_ports (s : State) (q : Nat) (x : PaneS) : (s.setPane q x).ports = s.ports := rfl
@[simp] theorem State.setPane_time (s : State) (q : Nat) (x : PaneS) : (s.setPane q x).time = s.time := rfl
@[simp] theorem State.setPane_psec (s : State) (q : Nat) (x : PaneS) : (s.setPane q x).psec = s.psec := rfl
@[simp] theorem State.setPane_pairDown (s : State) (q : Nat) (x : PaneS) : (s.setPane q x).pairDown = s.pairDown := rfl
@[simp] theorem State.setPane_qps (s : State) (q : Nat) (x : PaneS) : (s.setPane q x).qps = s.qps := rfl
@[simp] theorem State.setPane_serves (s : State) (q : Nat) (x : PaneS) : (s.setPane q x).serves = s.serves := rfl
@[simp] theorem State.setPane_reqs (s : State) (q : Nat) (x : PaneS) : (s.setPane q x).reqs = s.reqs := rfl
@[simp] theorem State.setPane_custs (s : State) (q : Nat) (x : PaneS) : (s.setPane q x).custs = s.custs := rfl
@[simp] theorem State.setPane_fw (s : State) (q : Nat) (x : PaneS) : (s.setPane q x).fw = s.fw := rfl
@[simp] theorem State.setPane_fwin (s : State) (q : Nat) (x : PaneS) : (s.setPane q x).fwin = s.fwin := rfl
@[simp] theorem State.setPane_fwrun (s : State) (q : Nat) (x : PaneS) : (s.setPane q x).fwrun = s.fwrun := rfl
@[simp] theorem State.setPane_hand (s : State) (q : Nat) (x : PaneS) : (s.setPane q x).hand = s.hand := rfl
@[simp] theorem State.setPane_ckpt (s : State) (q : Nat) (x : PaneS) : (s.setPane q x).ckpt = s.ckpt := rfl
@[simp] theorem State.setPane_upd (s : State) (q : Nat) (x : PaneS) : (s.setPane q x).upd = s.upd := rfl
@[simp] theorem State.setPane_sessions (s : State) (q : Nat) (x : PaneS) : (s.setPane q x).sessions = s.sessions := rfl
@[simp] theorem State.setPane_nextSess (s : State) (q : Nat) (x : PaneS) : (s.setPane q x).nextSess = s.nextSess := rfl
@[simp] theorem State.setPane_algs (s : State) (q : Nat) (x : PaneS) : (s.setPane q x).algs = s.algs := rfl
@[simp] theorem State.setPane_spdm (s : State) (q : Nat) (x : PaneS) : (s.setPane q x).spdm = s.spdm := rfl
@[simp] theorem State.setPane_nonces (s : State) (q : Nat) (x : PaneS) : (s.setPane q x).nonces = s.nonces := rfl
@[simp] theorem State.setPane_debugWant (s : State) (q : Nat) (x : PaneS) : (s.setPane q x).debugWant = s.debugWant := rfl
@[simp] theorem State.setPane_tamp (s : State) (q : Nat) (x : PaneS) : (s.setPane q x).tamp = s.tamp := rfl
@[simp] theorem State.setPane_uartRx (s : State) (q : Nat) (x : PaneS) : (s.setPane q x).uartRx = s.uartRx := rfl
@[simp] theorem State.setPane_uartTx (s : State) (q : Nat) (x : PaneS) : (s.setPane q x).uartTx = s.uartTx := rfl
@[simp] theorem State.setPane_uartOut (s : State) (q : Nat) (x : PaneS) : (s.setPane q x).uartOut = s.uartOut := rfl
@[simp] theorem State.setPane_uartLine (s : State) (q : Nat) (x : PaneS) : (s.setPane q x).uartLine = s.uartLine := rfl
@[simp] theorem State.setPane_tlpOut (s : State) (q : Nat) (x : PaneS) : (s.setPane q x).tlpOut = s.tlpOut := rfl
@[simp] theorem State.setPane_mctpIn (s : State) (q : Nat) (x : PaneS) : (s.setPane q x).mctpIn = s.mctpIn := rfl
@[simp] theorem State.setPane_mctpOut (s : State) (q : Nat) (x : PaneS) : (s.setPane q x).mctpOut = s.mctpOut := rfl
@[simp] theorem State.setPane_overPeriods (s : State) (q : Nat) (x : PaneS) : (s.setPane q x).overPeriods = s.overPeriods := rfl
@[simp] theorem State.setPane_lockQ (s : State) (q : Nat) (x : PaneS) : (s.setPane q x).lockQ = s.lockQ := rfl
@[simp] theorem State.setPane_eid (s : State) (q : Nat) (x : PaneS) : (s.setPane q x).eid = s.eid := rfl
@[simp] theorem State.setPane_ptpOut (s : State) (q : Nat) (x : PaneS) : (s.setPane q x).ptpOut = s.ptpOut := rfl
@[simp] theorem State.setPane_waking (s : State) (q : Nat) (x : PaneS) : (s.setPane q x).waking = s.waking := rfl
@[simp] theorem State.setPane_rdReg (s : State) (q : Nat) (x : PaneS) (r' : Reg) (j : Nat) : (s.setPane q x).rdReg r' j = s.rdReg r' j := rfl
@[simp] theorem State.setPane_getF (s : State) (q : Nat) (x : PaneS) (f' : Fld) (j : Nat) : (s.setPane q x).getF f' j = s.getF f' j := rfl
@[simp] theorem State.setPane_core_at (s : State) (q : Nat) (x : PaneS) (j : Nat) : (s.setPane q x).core j = s.core j := rfl
@[simp] theorem State.setPane_part_at (s : State) (q : Nat) (x : PaneS) (j : Nat) : (s.setPane q x).part j = s.part j := rfl
@[simp] theorem State.setPane_tctxOf_at (s : State) (q : Nat) (x : PaneS) (j : Nat) : (s.setPane q x).tctxOf j = s.tctxOf j := rfl
@[simp] theorem State.setPane_sctxOf_at (s : State) (q : Nat) (x : PaneS) (j : Nat) : (s.setPane q x).sctxOf j = s.sctxOf j := rfl
@[simp] theorem State.setPane_plan_at (s : State) (q : Nat) (x : PaneS) (j : Nat) : (s.setPane q x).plan j = s.plan j := rfl
@[simp] theorem State.setPane_ring_at (s : State) (q : Nat) (x : PaneS) (j : Nat) : (s.setPane q x).ring j = s.ring j := rfl
@[simp] theorem State.setPane_chan_at (s : State) (q : Nat) (x : PaneS) (j : Nat) : (s.setPane q x).chan j = s.chan j := rfl
@[simp] theorem State.setPane_port_at (s : State) (q : Nat) (x : PaneS) (j : Nat) : (s.setPane q x).port j = s.port j := rfl
@[simp] theorem State.setPane_qp_at (s : State) (q : Nat) (x : PaneS) (j : Nat) : (s.setPane q x).qp j = s.qp j := rfl
@[simp] theorem State.setPane_req_at (s : State) (q : Nat) (x : PaneS) (j : Nat) : (s.setPane q x).req j = s.req j := rfl
@[simp] theorem State.setPane_byte_at (s : State) (q : Nat) (x : PaneS) (j : Nat) : (s.setPane q x).byte j = s.byte j := rfl

/-! ### State.setQp: writes qps -/

@[simp] theorem State.setQp_pending (s : State) (i : Nat) (x : Qp) : (s.setQp i x).pending = s.pending := rfl
@[simp] theorem State.setQp_regs (s : State) (i : Nat) (x : Qp) : (s.setQp i x).regs = s.regs := rfl
@[simp] theorem State.setQp_mem (s : State) (i : Nat) (x : Qp) : (s.setQp i x).mem = s.mem := rfl
@[simp] theorem State.setQp_gran (s : State) (i : Nat) (x : Qp) : (s.setQp i x).gran = s.gran := rfl
@[simp] theorem State.setQp_flaws (s : State) (i : Nat) (x : Qp) : (s.setQp i x).flaws = s.flaws := rfl
@[simp] theorem State.setQp_keys (s : State) (i : Nat) (x : Qp) : (s.setQp i x).keys = s.keys := rfl
@[simp] theorem State.setQp_busErrs (s : State) (i : Nat) (x : Qp) : (s.setQp i x).busErrs = s.busErrs := rfl
@[simp] theorem State.setQp_skewWin (s : State) (i : Nat) (x : Qp) : (s.setQp i x).skewWin = s.skewWin := rfl
@[simp] theorem State.setQp_served (s : State) (i : Nat) (x : Qp) : (s.setQp i x).served = s.served := rfl
@[simp] theorem State.setQp_cores (s : State) (i : Nat) (x : Qp) : (s.setQp i x).cores = s.cores := rfl
@[simp] theorem State.setQp_parts (s : State) (i : Nat) (x : Qp) : (s.setQp i x).parts = s.parts := rfl
@[simp] theorem State.setQp_tctx (s : State) (i : Nat) (x : Qp) : (s.setQp i x).tctx = s.tctx := rfl
@[simp] theorem State.setQp_sctx (s : State) (i : Nat) (x : Qp) : (s.setQp i x).sctx = s.sctx := rfl
@[simp] theorem State.setQp_arrivals (s : State) (i : Nat) (x : Qp) : (s.setQp i x).arrivals = s.arrivals := rfl
@[simp] theorem State.setQp_rq (s : State) (i : Nat) (x : Qp) : (s.setQp i x).rq = s.rq := rfl
@[simp] theorem State.setQp_inbox (s : State) (i : Nat) (x : Qp) : (s.setQp i x).inbox = s.inbox := rfl
@[simp] theorem State.setQp_tags (s : State) (i : Nat) (x : Qp) : (s.setQp i x).tags = s.tags := rfl
@[simp] theorem State.setQp_nextTag (s : State) (i : Nat) (x : Qp) : (s.setQp i x).nextTag = s.nextTag := rfl
@[simp] theorem State.setQp_plans (s : State) (i : Nat) (x : Qp) : (s.setQp i x).plans = s.plans := rfl
@[simp] theorem State.setQp_nextPlan (s : State) (i : Nat) (x : Qp) : (s.setQp i x).nextPlan = s.nextPlan := rfl
@[simp] theorem State.setQp_free (s : State) (i : Nat) (x : Qp) : (s.setQp i x).free = s.free := rfl
@[simp] theorem State.setQp_rings (s : State) (i : Nat) (x : Qp) : (s.setQp i x).rings = s.rings := rfl
@[simp] theorem State.setQp_sram (s : State) (i : Nat) (x : Qp) : (s.setQp i x).sram = s.sram := rfl
@[simp] theorem State.setQp_replies (s : State) (i : Nat) (x : Qp) : (s.setQp i x).replies = s.replies := rfl
@[simp] theorem State.setQp_msix (s : State) (i : Nat) (x : Qp) : (s.setQp i x).msix = s.msix := rfl
@[simp] theorem State.setQp_log (s : State) (i : Nat) (x : Qp) : (s.setQp i x).log = s.log := rfl
@[simp] theorem State.setQp_pldm (s : State) (i : Nat) (x : Qp) : (s.setQp i x).pldm = s.pldm := rfl
@[simp] theorem State.setQp_steps (s : State) (i : Nat) (x : Qp) : (s.setQp i x).steps = s.steps := rfl
@[simp] theorem State.setQp_boot (s : State) (i : Nat) (x : Qp) : (s.setQp i x).boot = s.boot := rfl
@[simp] theorem State.setQp_scrubPos (s : State) (i : Nat) (x : Qp) : (s.setQp i x).scrubPos = s.scrubPos := rfl
@[simp] theorem State.setQp_scrubSince (s : State) (i : Nat) (x : Qp) : (s.setQp i x).scrubSince = s.scrubSince := rfl
@[simp] theorem State.setQp_unavail (s : State) (i : Nat) (x : Qp) : (s.setQp i x).unavail = s.unavail := rfl
@[simp] theorem State.setQp_drifted (s : State) (i : Nat) (x : Qp) : (s.setQp i x).drifted = s.drifted := rfl
@[simp] theorem State.setQp_locks (s : State) (i : Nat) (x : Qp) : (s.setQp i x).locks = s.locks := rfl
@[simp] theorem State.setQp_dma (s : State) (i : Nat) (x : Qp) : (s.setQp i x).dma = s.dma := rfl
@[simp] theorem State.setQp_rs (s : State) (i : Nat) (x : Qp) : (s.setQp i x).rs = s.rs := rfl
@[simp] theorem State.setQp_bounce (s : State) (i : Nat) (x : Qp) : (s.setQp i x).bounce = s.bounce := rfl
@[simp] theorem State.setQp_hostOut (s : State) (i : Nat) (x : Qp) : (s.setQp i x).hostOut = s.hostOut := rfl
@[simp] theorem State.setQp_ports (s : State) (i : Nat) (x : Qp) : (s.setQp i x).ports = s.ports := rfl
@[simp] theorem State.setQp_time (s : State) (i : Nat) (x : Qp) : (s.setQp i x).time = s.time := rfl
@[simp] theorem State.setQp_panes (s : State) (i : Nat) (x : Qp) : (s.setQp i x).panes = s.panes := rfl
@[simp] theorem State.setQp_psec (s : State) (i : Nat) (x : Qp) : (s.setQp i x).psec = s.psec := rfl
@[simp] theorem State.setQp_pairDown (s : State) (i : Nat) (x : Qp) : (s.setQp i x).pairDown = s.pairDown := rfl
@[simp] theorem State.setQp_serves (s : State) (i : Nat) (x : Qp) : (s.setQp i x).serves = s.serves := rfl
@[simp] theorem State.setQp_reqs (s : State) (i : Nat) (x : Qp) : (s.setQp i x).reqs = s.reqs := rfl
@[simp] theorem State.setQp_custs (s : State) (i : Nat) (x : Qp) : (s.setQp i x).custs = s.custs := rfl
@[simp] theorem State.setQp_fw (s : State) (i : Nat) (x : Qp) : (s.setQp i x).fw = s.fw := rfl
@[simp] theorem State.setQp_fwin (s : State) (i : Nat) (x : Qp) : (s.setQp i x).fwin = s.fwin := rfl
@[simp] theorem State.setQp_fwrun (s : State) (i : Nat) (x : Qp) : (s.setQp i x).fwrun = s.fwrun := rfl
@[simp] theorem State.setQp_hand (s : State) (i : Nat) (x : Qp) : (s.setQp i x).hand = s.hand := rfl
@[simp] theorem State.setQp_ckpt (s : State) (i : Nat) (x : Qp) : (s.setQp i x).ckpt = s.ckpt := rfl
@[simp] theorem State.setQp_upd (s : State) (i : Nat) (x : Qp) : (s.setQp i x).upd = s.upd := rfl
@[simp] theorem State.setQp_sessions (s : State) (i : Nat) (x : Qp) : (s.setQp i x).sessions = s.sessions := rfl
@[simp] theorem State.setQp_nextSess (s : State) (i : Nat) (x : Qp) : (s.setQp i x).nextSess = s.nextSess := rfl
@[simp] theorem State.setQp_algs (s : State) (i : Nat) (x : Qp) : (s.setQp i x).algs = s.algs := rfl
@[simp] theorem State.setQp_spdm (s : State) (i : Nat) (x : Qp) : (s.setQp i x).spdm = s.spdm := rfl
@[simp] theorem State.setQp_nonces (s : State) (i : Nat) (x : Qp) : (s.setQp i x).nonces = s.nonces := rfl
@[simp] theorem State.setQp_debugWant (s : State) (i : Nat) (x : Qp) : (s.setQp i x).debugWant = s.debugWant := rfl
@[simp] theorem State.setQp_tamp (s : State) (i : Nat) (x : Qp) : (s.setQp i x).tamp = s.tamp := rfl
@[simp] theorem State.setQp_uartRx (s : State) (i : Nat) (x : Qp) : (s.setQp i x).uartRx = s.uartRx := rfl
@[simp] theorem State.setQp_uartTx (s : State) (i : Nat) (x : Qp) : (s.setQp i x).uartTx = s.uartTx := rfl
@[simp] theorem State.setQp_uartOut (s : State) (i : Nat) (x : Qp) : (s.setQp i x).uartOut = s.uartOut := rfl
@[simp] theorem State.setQp_uartLine (s : State) (i : Nat) (x : Qp) : (s.setQp i x).uartLine = s.uartLine := rfl
@[simp] theorem State.setQp_tlpOut (s : State) (i : Nat) (x : Qp) : (s.setQp i x).tlpOut = s.tlpOut := rfl
@[simp] theorem State.setQp_mctpIn (s : State) (i : Nat) (x : Qp) : (s.setQp i x).mctpIn = s.mctpIn := rfl
@[simp] theorem State.setQp_mctpOut (s : State) (i : Nat) (x : Qp) : (s.setQp i x).mctpOut = s.mctpOut := rfl
@[simp] theorem State.setQp_overPeriods (s : State) (i : Nat) (x : Qp) : (s.setQp i x).overPeriods = s.overPeriods := rfl
@[simp] theorem State.setQp_lockQ (s : State) (i : Nat) (x : Qp) : (s.setQp i x).lockQ = s.lockQ := rfl
@[simp] theorem State.setQp_eid (s : State) (i : Nat) (x : Qp) : (s.setQp i x).eid = s.eid := rfl
@[simp] theorem State.setQp_ptpOut (s : State) (i : Nat) (x : Qp) : (s.setQp i x).ptpOut = s.ptpOut := rfl
@[simp] theorem State.setQp_waking (s : State) (i : Nat) (x : Qp) : (s.setQp i x).waking = s.waking := rfl
@[simp] theorem State.setQp_rdReg (s : State) (i : Nat) (x : Qp) (r' : Reg) (j : Nat) : (s.setQp i x).rdReg r' j = s.rdReg r' j := rfl
@[simp] theorem State.setQp_getF (s : State) (i : Nat) (x : Qp) (f' : Fld) (j : Nat) : (s.setQp i x).getF f' j = s.getF f' j := rfl
@[simp] theorem State.setQp_core_at (s : State) (i : Nat) (x : Qp) (j : Nat) : (s.setQp i x).core j = s.core j := rfl
@[simp] theorem State.setQp_part_at (s : State) (i : Nat) (x : Qp) (j : Nat) : (s.setQp i x).part j = s.part j := rfl
@[simp] theorem State.setQp_tctxOf_at (s : State) (i : Nat) (x : Qp) (j : Nat) : (s.setQp i x).tctxOf j = s.tctxOf j := rfl
@[simp] theorem State.setQp_sctxOf_at (s : State) (i : Nat) (x : Qp) (j : Nat) : (s.setQp i x).sctxOf j = s.sctxOf j := rfl
@[simp] theorem State.setQp_plan_at (s : State) (i : Nat) (x : Qp) (j : Nat) : (s.setQp i x).plan j = s.plan j := rfl
@[simp] theorem State.setQp_ring_at (s : State) (i : Nat) (x : Qp) (j : Nat) : (s.setQp i x).ring j = s.ring j := rfl
@[simp] theorem State.setQp_chan_at (s : State) (i : Nat) (x : Qp) (j : Nat) : (s.setQp i x).chan j = s.chan j := rfl
@[simp] theorem State.setQp_port_at (s : State) (i : Nat) (x : Qp) (j : Nat) : (s.setQp i x).port j = s.port j := rfl
@[simp] theorem State.setQp_pane_at (s : State) (i : Nat) (x : Qp) (j : Nat) : (s.setQp i x).pane j = s.pane j := rfl
@[simp] theorem State.setQp_req_at (s : State) (i : Nat) (x : Qp) (j : Nat) : (s.setQp i x).req j = s.req j := rfl
@[simp] theorem State.setQp_byte_at (s : State) (i : Nat) (x : Qp) (j : Nat) : (s.setQp i x).byte j = s.byte j := rfl

/-! ### State.setReq: writes reqs -/

@[simp] theorem State.setReq_pending (s : State) (i : Nat) (x : Req) : (s.setReq i x).pending = s.pending := rfl
@[simp] theorem State.setReq_regs (s : State) (i : Nat) (x : Req) : (s.setReq i x).regs = s.regs := rfl
@[simp] theorem State.setReq_mem (s : State) (i : Nat) (x : Req) : (s.setReq i x).mem = s.mem := rfl
@[simp] theorem State.setReq_gran (s : State) (i : Nat) (x : Req) : (s.setReq i x).gran = s.gran := rfl
@[simp] theorem State.setReq_flaws (s : State) (i : Nat) (x : Req) : (s.setReq i x).flaws = s.flaws := rfl
@[simp] theorem State.setReq_keys (s : State) (i : Nat) (x : Req) : (s.setReq i x).keys = s.keys := rfl
@[simp] theorem State.setReq_busErrs (s : State) (i : Nat) (x : Req) : (s.setReq i x).busErrs = s.busErrs := rfl
@[simp] theorem State.setReq_skewWin (s : State) (i : Nat) (x : Req) : (s.setReq i x).skewWin = s.skewWin := rfl
@[simp] theorem State.setReq_served (s : State) (i : Nat) (x : Req) : (s.setReq i x).served = s.served := rfl
@[simp] theorem State.setReq_cores (s : State) (i : Nat) (x : Req) : (s.setReq i x).cores = s.cores := rfl
@[simp] theorem State.setReq_parts (s : State) (i : Nat) (x : Req) : (s.setReq i x).parts = s.parts := rfl
@[simp] theorem State.setReq_tctx (s : State) (i : Nat) (x : Req) : (s.setReq i x).tctx = s.tctx := rfl
@[simp] theorem State.setReq_sctx (s : State) (i : Nat) (x : Req) : (s.setReq i x).sctx = s.sctx := rfl
@[simp] theorem State.setReq_arrivals (s : State) (i : Nat) (x : Req) : (s.setReq i x).arrivals = s.arrivals := rfl
@[simp] theorem State.setReq_rq (s : State) (i : Nat) (x : Req) : (s.setReq i x).rq = s.rq := rfl
@[simp] theorem State.setReq_inbox (s : State) (i : Nat) (x : Req) : (s.setReq i x).inbox = s.inbox := rfl
@[simp] theorem State.setReq_tags (s : State) (i : Nat) (x : Req) : (s.setReq i x).tags = s.tags := rfl
@[simp] theorem State.setReq_nextTag (s : State) (i : Nat) (x : Req) : (s.setReq i x).nextTag = s.nextTag := rfl
@[simp] theorem State.setReq_plans (s : State) (i : Nat) (x : Req) : (s.setReq i x).plans = s.plans := rfl
@[simp] theorem State.setReq_nextPlan (s : State) (i : Nat) (x : Req) : (s.setReq i x).nextPlan = s.nextPlan := rfl
@[simp] theorem State.setReq_free (s : State) (i : Nat) (x : Req) : (s.setReq i x).free = s.free := rfl
@[simp] theorem State.setReq_rings (s : State) (i : Nat) (x : Req) : (s.setReq i x).rings = s.rings := rfl
@[simp] theorem State.setReq_sram (s : State) (i : Nat) (x : Req) : (s.setReq i x).sram = s.sram := rfl
@[simp] theorem State.setReq_replies (s : State) (i : Nat) (x : Req) : (s.setReq i x).replies = s.replies := rfl
@[simp] theorem State.setReq_msix (s : State) (i : Nat) (x : Req) : (s.setReq i x).msix = s.msix := rfl
@[simp] theorem State.setReq_log (s : State) (i : Nat) (x : Req) : (s.setReq i x).log = s.log := rfl
@[simp] theorem State.setReq_pldm (s : State) (i : Nat) (x : Req) : (s.setReq i x).pldm = s.pldm := rfl
@[simp] theorem State.setReq_steps (s : State) (i : Nat) (x : Req) : (s.setReq i x).steps = s.steps := rfl
@[simp] theorem State.setReq_boot (s : State) (i : Nat) (x : Req) : (s.setReq i x).boot = s.boot := rfl
@[simp] theorem State.setReq_scrubPos (s : State) (i : Nat) (x : Req) : (s.setReq i x).scrubPos = s.scrubPos := rfl
@[simp] theorem State.setReq_scrubSince (s : State) (i : Nat) (x : Req) : (s.setReq i x).scrubSince = s.scrubSince := rfl
@[simp] theorem State.setReq_unavail (s : State) (i : Nat) (x : Req) : (s.setReq i x).unavail = s.unavail := rfl
@[simp] theorem State.setReq_drifted (s : State) (i : Nat) (x : Req) : (s.setReq i x).drifted = s.drifted := rfl
@[simp] theorem State.setReq_locks (s : State) (i : Nat) (x : Req) : (s.setReq i x).locks = s.locks := rfl
@[simp] theorem State.setReq_dma (s : State) (i : Nat) (x : Req) : (s.setReq i x).dma = s.dma := rfl
@[simp] theorem State.setReq_rs (s : State) (i : Nat) (x : Req) : (s.setReq i x).rs = s.rs := rfl
@[simp] theorem State.setReq_bounce (s : State) (i : Nat) (x : Req) : (s.setReq i x).bounce = s.bounce := rfl
@[simp] theorem State.setReq_hostOut (s : State) (i : Nat) (x : Req) : (s.setReq i x).hostOut = s.hostOut := rfl
@[simp] theorem State.setReq_ports (s : State) (i : Nat) (x : Req) : (s.setReq i x).ports = s.ports := rfl
@[simp] theorem State.setReq_time (s : State) (i : Nat) (x : Req) : (s.setReq i x).time = s.time := rfl
@[simp] theorem State.setReq_panes (s : State) (i : Nat) (x : Req) : (s.setReq i x).panes = s.panes := rfl
@[simp] theorem State.setReq_psec (s : State) (i : Nat) (x : Req) : (s.setReq i x).psec = s.psec := rfl
@[simp] theorem State.setReq_pairDown (s : State) (i : Nat) (x : Req) : (s.setReq i x).pairDown = s.pairDown := rfl
@[simp] theorem State.setReq_qps (s : State) (i : Nat) (x : Req) : (s.setReq i x).qps = s.qps := rfl
@[simp] theorem State.setReq_serves (s : State) (i : Nat) (x : Req) : (s.setReq i x).serves = s.serves := rfl
@[simp] theorem State.setReq_custs (s : State) (i : Nat) (x : Req) : (s.setReq i x).custs = s.custs := rfl
@[simp] theorem State.setReq_fw (s : State) (i : Nat) (x : Req) : (s.setReq i x).fw = s.fw := rfl
@[simp] theorem State.setReq_fwin (s : State) (i : Nat) (x : Req) : (s.setReq i x).fwin = s.fwin := rfl
@[simp] theorem State.setReq_fwrun (s : State) (i : Nat) (x : Req) : (s.setReq i x).fwrun = s.fwrun := rfl
@[simp] theorem State.setReq_hand (s : State) (i : Nat) (x : Req) : (s.setReq i x).hand = s.hand := rfl
@[simp] theorem State.setReq_ckpt (s : State) (i : Nat) (x : Req) : (s.setReq i x).ckpt = s.ckpt := rfl
@[simp] theorem State.setReq_upd (s : State) (i : Nat) (x : Req) : (s.setReq i x).upd = s.upd := rfl
@[simp] theorem State.setReq_sessions (s : State) (i : Nat) (x : Req) : (s.setReq i x).sessions = s.sessions := rfl
@[simp] theorem State.setReq_nextSess (s : State) (i : Nat) (x : Req) : (s.setReq i x).nextSess = s.nextSess := rfl
@[simp] theorem State.setReq_algs (s : State) (i : Nat) (x : Req) : (s.setReq i x).algs = s.algs := rfl
@[simp] theorem State.setReq_spdm (s : State) (i : Nat) (x : Req) : (s.setReq i x).spdm = s.spdm := rfl
@[simp] theorem State.setReq_nonces (s : State) (i : Nat) (x : Req) : (s.setReq i x).nonces = s.nonces := rfl
@[simp] theorem State.setReq_debugWant (s : State) (i : Nat) (x : Req) : (s.setReq i x).debugWant = s.debugWant := rfl
@[simp] theorem State.setReq_tamp (s : State) (i : Nat) (x : Req) : (s.setReq i x).tamp = s.tamp := rfl
@[simp] theorem State.setReq_uartRx (s : State) (i : Nat) (x : Req) : (s.setReq i x).uartRx = s.uartRx := rfl
@[simp] theorem State.setReq_uartTx (s : State) (i : Nat) (x : Req) : (s.setReq i x).uartTx = s.uartTx := rfl
@[simp] theorem State.setReq_uartOut (s : State) (i : Nat) (x : Req) : (s.setReq i x).uartOut = s.uartOut := rfl
@[simp] theorem State.setReq_uartLine (s : State) (i : Nat) (x : Req) : (s.setReq i x).uartLine = s.uartLine := rfl
@[simp] theorem State.setReq_tlpOut (s : State) (i : Nat) (x : Req) : (s.setReq i x).tlpOut = s.tlpOut := rfl
@[simp] theorem State.setReq_mctpIn (s : State) (i : Nat) (x : Req) : (s.setReq i x).mctpIn = s.mctpIn := rfl
@[simp] theorem State.setReq_mctpOut (s : State) (i : Nat) (x : Req) : (s.setReq i x).mctpOut = s.mctpOut := rfl
@[simp] theorem State.setReq_overPeriods (s : State) (i : Nat) (x : Req) : (s.setReq i x).overPeriods = s.overPeriods := rfl
@[simp] theorem State.setReq_lockQ (s : State) (i : Nat) (x : Req) : (s.setReq i x).lockQ = s.lockQ := rfl
@[simp] theorem State.setReq_eid (s : State) (i : Nat) (x : Req) : (s.setReq i x).eid = s.eid := rfl
@[simp] theorem State.setReq_ptpOut (s : State) (i : Nat) (x : Req) : (s.setReq i x).ptpOut = s.ptpOut := rfl
@[simp] theorem State.setReq_waking (s : State) (i : Nat) (x : Req) : (s.setReq i x).waking = s.waking := rfl
@[simp] theorem State.setReq_rdReg (s : State) (i : Nat) (x : Req) (r' : Reg) (j : Nat) : (s.setReq i x).rdReg r' j = s.rdReg r' j := rfl
@[simp] theorem State.setReq_getF (s : State) (i : Nat) (x : Req) (f' : Fld) (j : Nat) : (s.setReq i x).getF f' j = s.getF f' j := rfl
@[simp] theorem State.setReq_core_at (s : State) (i : Nat) (x : Req) (j : Nat) : (s.setReq i x).core j = s.core j := rfl
@[simp] theorem State.setReq_part_at (s : State) (i : Nat) (x : Req) (j : Nat) : (s.setReq i x).part j = s.part j := rfl
@[simp] theorem State.setReq_tctxOf_at (s : State) (i : Nat) (x : Req) (j : Nat) : (s.setReq i x).tctxOf j = s.tctxOf j := rfl
@[simp] theorem State.setReq_sctxOf_at (s : State) (i : Nat) (x : Req) (j : Nat) : (s.setReq i x).sctxOf j = s.sctxOf j := rfl
@[simp] theorem State.setReq_plan_at (s : State) (i : Nat) (x : Req) (j : Nat) : (s.setReq i x).plan j = s.plan j := rfl
@[simp] theorem State.setReq_ring_at (s : State) (i : Nat) (x : Req) (j : Nat) : (s.setReq i x).ring j = s.ring j := rfl
@[simp] theorem State.setReq_chan_at (s : State) (i : Nat) (x : Req) (j : Nat) : (s.setReq i x).chan j = s.chan j := rfl
@[simp] theorem State.setReq_port_at (s : State) (i : Nat) (x : Req) (j : Nat) : (s.setReq i x).port j = s.port j := rfl
@[simp] theorem State.setReq_pane_at (s : State) (i : Nat) (x : Req) (j : Nat) : (s.setReq i x).pane j = s.pane j := rfl
@[simp] theorem State.setReq_qp_at (s : State) (i : Nat) (x : Req) (j : Nat) : (s.setReq i x).qp j = s.qp j := rfl
@[simp] theorem State.setReq_byte_at (s : State) (i : Nat) (x : Req) (j : Nat) : (s.setReq i x).byte j = s.byte j := rfl

/-! ### The table an update writes -/

@[simp] theorem State.setCore_core_same (s : State) (n : Nat) (c : Core) : (s.setCore n c).core n = c := tget_tset_same _ _ _ _
theorem State.setCore_core_ne (s : State) (n : Nat) (c : Core) {j : Nat} (h : j ≠ n) : (s.setCore n c).core j = s.core j := tget_tset_ne _ _ _ h
@[simp] theorem State.setPart_part_same (s : State) (p : Nat) (x : Part) : (s.setPart p x).part p = x := tget_tset_same _ _ _ _
theorem State.setPart_part_ne (s : State) (p : Nat) (x : Part) {j : Nat} (h : j ≠ p) : (s.setPart p x).part j = s.part j := tget_tset_ne _ _ _ h
@[simp] theorem State.setTctx_tctxOf_same (s : State) (c : Nat) (x : Ctx) : (s.setTctx c x).tctxOf c = x := tget_tset_same _ _ _ _
theorem State.setTctx_tctxOf_ne (s : State) (c : Nat) (x : Ctx) {j : Nat} (h : j ≠ c) : (s.setTctx c x).tctxOf j = s.tctxOf j := tget_tset_ne _ _ _ h
@[simp] theorem State.setSctx_sctxOf_same (s : State) (c : Nat) (x : Ctx) : (s.setSctx c x).sctxOf c = x := tget_tset_same _ _ _ _
theorem State.setSctx_sctxOf_ne (s : State) (c : Nat) (x : Ctx) {j : Nat} (h : j ≠ c) : (s.setSctx c x).sctxOf j = s.sctxOf j := tget_tset_ne _ _ _ h
@[simp] theorem State.setPlan_plan_same (s : State) (k : Nat) (x : Plan) : (s.setPlan k x).plan k = x := tget_tset_same _ _ _ _
theorem State.setPlan_plan_ne (s : State) (k : Nat) (x : Plan) {j : Nat} (h : j ≠ k) : (s.setPlan k x).plan j = s.plan j := tget_tset_ne _ _ _ h
@[simp] theorem State.setRing_ring_same (s : State) (k : Nat) (x : Ring) : (s.setRing k x).ring k = x := tget_tset_same _ _ _ _
theorem State.setRing_ring_ne (s : State) (k : Nat) (x : Ring) {j : Nat} (h : j ≠ k) : (s.setRing k x).ring j = s.ring j := tget_tset_ne _ _ _ h
@[simp] theorem State.setChan_chan_same (s : State) (i : Nat) (c : Chan) : (s.setChan i c).chan i = c := tget_tset_same _ _ _ _
theorem State.setChan_chan_ne (s : State) (i : Nat) (c : Chan) {j : Nat} (h : j ≠ i) : (s.setChan i c).chan j = s.chan j := tget_tset_ne _ _ _ h
@[simp] theorem State.setPort_port_same (s : State) (q : Nat) (x : Port) : (s.setPort q x).port q = x := tget_tset_same _ _ _ _
theorem State.setPort_port_ne (s : State) (q : Nat) (x : Port) {j : Nat} (h : j ≠ q) : (s.setPort q x).port j = s.port j := tget_tset_ne _ _ _ h
@[simp] theorem State.setPane_pane_same (s : State) (q : Nat) (x : PaneS) : (s.setPane q x).pane q = x := tget_tset_same _ _ _ _
theorem State.setPane_pane_ne (s : State) (q : Nat) (x : PaneS) {j : Nat} (h : j ≠ q) : (s.setPane q x).pane j = s.pane j := tget_tset_ne _ _ _ h
@[simp] theorem State.setQp_qp_same (s : State) (i : Nat) (x : Qp) : (s.setQp i x).qp i = x := tget_tset_same _ _ _ _
theorem State.setQp_qp_ne (s : State) (i : Nat) (x : Qp) {j : Nat} (h : j ≠ i) : (s.setQp i x).qp j = s.qp j := tget_tset_ne _ _ _ h
@[simp] theorem State.setReq_req_same (s : State) (i : Nat) (x : Req) : (s.setReq i x).req i = x := tget_tset_same _ _ _ _
theorem State.setReq_req_ne (s : State) (i : Nat) (x : Req) {j : Nat} (h : j ≠ i) : (s.setReq i x).req j = s.req j := tget_tset_ne _ _ _ h
@[simp] theorem State.setByte_byte_same (s : State) (a : Nat) (b : Byte) : (s.setByte a b).byte a = b := tget_tset_same _ _ _ _
theorem State.setByte_byte_ne (s : State) (a : Nat) (b : Byte) {j : Nat} (h : j ≠ a) : (s.setByte a b).byte j = s.byte j := tget_tset_ne _ _ _ h

end Sys2Proof.Machine
end

