-- ==== Sys2Proof/Laws/Memory.lean ====
section
/-! SUPPORT. The laws of memory: what a byte reads after a write, that every memory operation keeps the canonical form, that a
read changes no byte, and that a write changes no byte outside the granules it touches. -/

namespace Sys2Proof.Machine

variable {s : State}

/-! ## Bytes -/

/-- A byte after a write of bytes from `a` upward: the written one inside the range, the old one outside. -/
theorem byte_setBytes (s : State) (a x : Nat) (bs : List Byte) :
    (s.setBytes a bs).byte x = if a ≤ x ∧ x < a + bs.length then bs.getD (x - a) 0 else s.byte x := by
  induction bs generalizing s a with
  | nil => rw [if_neg (by simp)]; rfl
  | cons b t ih =>
    rw [State.setBytes, ih]
    by_cases hx : x = a
    · subst hx
      simp
    · rw [State.setByte_byte_ne s a b hx]
      by_cases h : a + 1 ≤ x ∧ x < a + 1 + t.length
      · rw [if_pos h, if_pos (by simp; omega), show x - a = x - (a + 1) + 1 by omega, List.getD_cons_succ]
      · rw [if_neg h, if_neg (by simp; omega)]

@[simp] theorem bytes_length (s : State) (a n : Nat) : (s.bytes a n).length = n := by
  induction n generalizing a with
  | zero => rfl
  | succ n ih => simp [State.bytes, ih]

/-- What was written is read back. -/
theorem bytes_setBytes_same (s : State) (a : Nat) (bs : List Byte) : (s.setBytes a bs).bytes a bs.length = bs := by
  have h : ∀ (t : State) (n a : Nat) (l : List Byte), n = l.length → (∀ i (hi : i < l.length), t.byte (a + i) = l[i]) → t.bytes a n = l := by
    intro t n
    induction n with
    | zero =>
      intro a l hn _
      simp [State.bytes, List.eq_nil_of_length_eq_zero hn.symm]
    | succ n ih =>
      intro a l hn hl
      match l, hn with
      | b :: l, hn =>
        rw [State.bytes, ih (a + 1) l (by simpa using hn) fun i hi => by
          have := hl (i + 1) (by simpa using hi)
          rw [show a + 1 + i = a + (i + 1) by omega, this]
          rfl]
        exact congrArg (· :: l) (hl 0 (by simp))
  refine h _ _ _ _ rfl fun i hi => ?_
  rw [byte_setBytes, if_pos (by omega), Nat.add_sub_cancel_left, List.getD_eq_getElem _ _ hi]

/-! ## The canonical form -/

theorem setByte_wf {a : Nat} {b : Byte} (h : Memory.wf s.mem = true) : Memory.wf (s.setByte a b).mem = true := twf_tset _ _ h

theorem setBytes_wf {a : Nat} {bs : List Byte} (h : Memory.wf s.mem = true) : Memory.wf (s.setBytes a bs).mem = true := by
  induction bs generalizing s a with
  | nil => exact h
  | cons b t ih => exact ih (setByte_wf h)

theorem setSpad_wf {n a : Nat} {bs : List Byte} (h : Memory.wf s.mem = true) : Memory.wf (s.setSpad n a bs).mem = true := setBytes_wf h

/-! ## Reads -/

@[simp] theorem logPush_mem (s : State) (e : LogEntry) : (s.logPush e).mem = s.mem := by
  unfold State.logPush
  split <;> rfl

@[simp] theorem logNote_mem (s : State) (sev code p : Nat) (args : List Nat) : (s.logNote sev code p args).mem = s.mem :=
  logPush_mem s _

@[simp] theorem memErrRec_mem (s : State) (cause a : Nat) : (s.memErrRec cause a).mem = s.mem := by
  unfold State.memErrRec
  simp only [State.setFs]
  split <;> rfl

@[simp] theorem memErr_mem (s : State) (cause a : Nat) : (s.memErr cause a).mem = s.mem := by
  unfold State.memErr
  dsimp only
  split <;> simp

@[simp] theorem setGran_mem (s : State) (g : Nat) (x : Gran) : (s.setGran g x).mem = s.mem := rfl
@[simp] theorem setFlaw_mem (s : State) (g k : Nat) : (s.setFlaw g k).mem = s.mem := rfl
@[simp] theorem addFlaws_mem (s : State) (sym : Syms) : (s.addFlaws sym).mem = s.mem := rfl

/-- Poisoning a granule writes its check pattern, not its bytes. -/
@[simp] theorem poisonAs_mem (s : State) (cause g : Nat) : (s.poisonAs cause g).mem = s.mem := by simp [State.poisonAs]

@[simp] theorem countCorr_mem (s : State) (p g k : Nat) : (s.countCorr p g k).mem = s.mem := by
  unfold State.countCorr
  repeat' split
  all_goals rfl

@[simp] theorem serve1_mem (s : State) (p a : Nat) : (s.serve1 p a).mem = s.mem := rfl
@[simp] theorem plain_mem (s : State) (p g : Nat) : (s.plain p g).1.mem = s.mem := by
  unfold State.plain
  dsimp only
  split <;> rfl

/-- A controller read changes no byte. -/
@[simp] theorem readGran_mem (s : State) (g sym : Nat) : (s.readGran g sym).1.mem = s.mem := by
  unfold State.readGran
  dsimp only
  split
  · simp
  · repeat' split
    all_goals simp

@[simp] theorem readMem_mem (s : State) (a n : Nat) (sym : Syms) (fuel : Nat) : (s.readMem a n sym fuel).1.mem = s.mem := by
  induction fuel generalizing s a n with
  | zero => rfl
  | succ f ih =>
    unfold State.readMem
    split
    · rfl
    · dsimp only
      have h := readGran_mem s (a / 64) (tget 0 sym (a / 64))
      split
      · next e => rwa [e] at h
      · next u bs e =>
        rw [e] at h
        have h' := ih u (a + min n (64 - a % 64)) (n - min n (64 - a % 64))
        split
        · next e' => rw [e'] at h'; exact h'.trans h
        · next e' => rw [e'] at h'; exact h'.trans h

@[simp] theorem read_mem (s : State) (a n : Nat) (sym : Syms) : (s.read a n sym).1.mem = s.mem :=
  readMem_mem (s.addFlaws sym) ..

/-! ## Writes -/

/-- A whole-granule write changes no byte outside its granule, and keeps the canonical form. -/
theorem writeGran_bytes (s : State) (g x : Nat) (bs : List Byte) (h : x < g * 64 ∨ g * 64 + 64 ≤ x) :
    (s.writeGran g bs).1.byte x = s.byte x := by
  unfold State.writeGran
  dsimp only
  split
  · simp [State.byte]
  · split
    · simp [State.byte]
    · next p _ _ =>
      show ((s.serve1 p (g * 64)).setBytes (g * 64) (padTo 64 bs)).byte x = s.byte x
      have hl : (padTo 64 bs).length = 64 := by simp [padTo]; omega
      rw [byte_setBytes, if_neg (by omega)]
      rfl

theorem writePart_bytes (s : State) (g off sym x : Nat) (bs : List Byte) (h : x < g * 64 ∨ g * 64 + 64 ≤ x) :
    (s.writePart g off sym bs).1.byte x = s.byte x := by
  unfold State.writePart
  dsimp only
  split
  · exact writeGran_bytes s g x bs h
  · split
    · simp [State.byte]
    · repeat' split
      all_goals first
        | (rw [writeGran_bytes _ _ _ _ h]; simp [State.byte])
        | simp [State.byte]

/-- A write changes no byte outside the granules it touches. -/
theorem writeMem_bytes (s : State) (a : Nat) (sym : Syms) (fuel x : Nat) (bs : List Byte) (h : x < a / 64 * 64 ∨ roundUp (a + bs.length) 64 ≤ x) :
    (s.writeMem a sym bs fuel).1.byte x = s.byte x := by
  induction fuel generalizing s a bs with
  | zero => rfl
  | succ f ih =>
    unfold State.writeMem
    split
    · rfl
    · next b t =>
      dsimp only
      have hl : (b :: t).length = t.length + 1 := rfl
      generalize hk : min (b :: t).length (64 - a % 64) = k
      have hx : x < a / 64 * 64 ∨ a / 64 * 64 + 64 ≤ x := by
        unfold roundUp at h
        omega
      have h1 := writePart_bytes s (a / 64) (a % 64) (tget 0 sym (a / 64)) x ((b :: t).take k) hx
      split
      · next e => rwa [e] at h1
      · next u _ e =>
        rw [e] at h1
        refine (ih u (a + k) ((b :: t).drop k) ?_).trans h1
        rw [List.length_drop]
        unfold roundUp at h ⊢
        omega

theorem write_bytes (s : State) (a : Nat) (sym : Syms) (x : Nat) (bs : List Byte) (h : x < a / 64 * 64 ∨ roundUp (a + bs.length) 64 ≤ x) :
    (s.write a sym bs).1.byte x = s.byte x :=
  writeMem_bytes (s.addFlaws sym) a sym _ x bs h

end Sys2Proof.Machine
end

