-- ==== Sys2Proof/Laws/Ops.lean ====
section
/-! SUPPORT. What the shared wrappers of the commands do: the start of an engine command, the handling of a held command, a control
message, a token, a beacon and an SPDM request. Statements about one command cite these and unfold no wrapper. -/

namespace Sys2Proof.Machine

variable {s : State}

/-! ## Engine commands -/

/-- A head command that starts runs its own effect. -/
theorem runHead_starts {n eng : Nat} {op : Op} {e : QEntry} {body : State → QEntry → Out} (h : s.Starts n eng op e) :
    s.runHead n eng op body = body s e := by
  obtain ⟨h1, h2, h3⟩ := h
  unfold State.runHead
  simp [h1, h2, h3]

/-- All that the start of an engine command can do. -/
theorem runHead_cases (s : State) (n eng : Nat) (op : Op) (body : State → QEntry → Out) :
    s.runHead n eng op body = .next s ∨
    ∃ e, s.startableOp n eng op = some e ∧
      ((s.core n).skips e.cmd = true ∧ s.runHead n eng op body = .next (s.startSkipped n eng e) ∨
       (s.core n).skips e.cmd = false ∧ operandCheck (s.checkEnv n e.cmd) op e.cmd ≠ 0 ∧
        s.runHead n eng op body = .next (s.coreFault n e.seq eng (operandCheck (s.checkEnv n e.cmd) op e.cmd)) ∨
       s.Starts n eng op e ∧ s.runHead n eng op body = body s e) := by
  cases h : s.startableOp n eng op with
  | none => exact .inl (by simp [State.runHead, h])
  | some e =>
    refine .inr ⟨e, rfl, ?_⟩
    cases hk : (s.core n).skips e.cmd with
    | true => exact .inl ⟨rfl, by simp [State.runHead, h, hk]⟩
    | false =>
      by_cases ho : operandCheck (s.checkEnv n e.cmd) op e.cmd = 0
      · exact .inr (.inr ⟨⟨h, hk, ho⟩, runHead_starts ⟨h, hk, ho⟩⟩)
      · exact .inr (.inl ⟨rfl, ho, by simp [State.runHead, h, hk, ho]⟩)

/-- A held command that runs has its effect, its signals, and passes to the next command. -/
theorem handle_handles {n : Nat} {op : Op} {c : Cmd} {sig : Bool} {f : State → Cmd → State} (h : s.Handles n op c) :
    s.handle n op sig f = ((if sig then (f s c).signal n c else f s c).modCore n (·.advance c)).updateHold
      ((if sig then (f s c).signal n c else f s c).partOf n) := by
  obtain ⟨h1, h2, h3⟩ := h
  unfold State.handle
  simp [h1, h2, h3]

/-! ## Control messages -/

/-- A message that is admitted is answered by its operation. -/
theorem control_admits {op : Nat} {h : Ctl} {fns : Fns} {a b : Bool} {f : State → State × Option Answer} (ha : s.Admits op h fns a b) :
    s.control op h fns a b f = (match f (s.takeEntry h) with
      | (t, some x) => .next (t.answer op h x)
      | (t, none) => .next t) := by
  obtain ⟨h1, h2, h3⟩ := ha
  unfold State.control
  rcases hx : f (s.takeEntry h) with ⟨t, _ | x⟩ <;> simp [h1, h2, h3, hx]

/-- A message that is stopped is answered with the stop, and changes nothing else. -/
theorem control_stopped {op : Nat} {h : Ctl} {fns : Fns} {a b : Bool} {f : State → State × Option Answer} (hf : h.fn ≤ 16)
    (hr : s.flag F.CTL_STATUS_READY 0 = true) (hc : (s.takeEntry h).controlStop op h fns a b ≠ 0) :
    s.control op h fns a b f =
      .next ((s.takeEntry h).answer h.op h (h.answer ((s.takeEntry h).controlStop op h fns a b))) := by
  unfold State.control
  simp [hf, hr, hc]

/-! ## Tokens, beacons and SPDM -/

/-- A token that passes its checks counts. -/
theorem onToken_counts {kind : Nat} {child : Bool} {f : State → Packet → State} {k : Packet} {rest : List Packet}
    (h : takeFirst (isToken kind) s.inbox = some (k, rest)) (ha : (s.part k.part).quieting = false)
    (he : ({ s with inbox := rest } : State).tokenCheck k child = 0) :
    s.onToken kind child f = .next (f { s with inbox := rest } k) := by
  unfold State.onToken
  simp only [h]
  have ha' : (({ s with inbox := rest } : State).part k.part).quieting = false := ha
  simp [ha', he]

/-- A good beacon acts. -/
theorem onBeacon_acts {q kind : Nat} {f : State → Packet → State} {k : Packet} {rest : List Packet}
    (h : takeFirst (isBeacon q kind) s.inbox = some (k, rest)) (hb : bkBad k.body = false) :
    s.onBeacon q kind f = .next (f { s with inbox := rest } k) := by
  unfold State.onBeacon
  simp [h, hb]

/-- From READY on the responder answers. -/
theorem spdmDo_answers {who : Nat} {f : State → State} (hw : who ≤ 17) (hr : s.flag F.CTL_STATUS_READY 0 = true)
    (hq : s.boot.quiet = false) (hh : s.boot.held = false) : s.spdmDo who f = .next (f s) := by
  unfold State.spdmDo
  simp [hw, hr, hq, hh]

/-- A request inside an established session is answered. -/
theorem inSession_answers {who id : Nat} {f : State → State} (hw : who ≤ 17) (hr : s.flag F.CTL_STATUS_READY 0 = true)
    (hq : s.boot.quiet = false) (hh : s.boot.held = false) (hs : s.session who id = true) : s.inSession who id f = .next (f s) := by
  unfold State.inSession
  rw [spdmDo_answers hw hr hq hh]
  simp [hs]

end Sys2Proof.Machine
end

