-- ==== Sys2Proof/Laws/PerInstr.lean ====
section
/-! SUPPORT. Statements per command: a well-formed command that names a core names one of the 256 of the package. -/

namespace Sys2Proof.Laws.Wf

open Sys2Proof.Machine

/-- The core that a command names. -/
def coreOf : Instr → Option Nat
  | .nop core _ => some core
  | .ldCopy core => some core
  | .ldPgather core => some core
  | .stCopy core => some core
  | .sdData core => some core
  | .sdLatch core => some core
  | .sdArrive core => some core
  | .beatEnd core => some core
  | .stepEnd core => some core
  | .latchReset core => some core
  | .peepEmit core => some core
  | .mmWload core => some core
  | .mmStream core => some core
  | .mmDrain core => some core
  | .veBinary core => some core
  | .veUnary core => some core
  | .veRreduce core => some core
  | .veOreduce core => some core
  | .veCmp core => some core
  | .veTopk core => some core
  | .veTranspose core => some core
  | .dispatchCommand core => some core
  | .streamBlockFetch core _ => some core
  | .commandComplete core _ _ => some core
  | .loadPieceArrive core _ _ _ => some core
  | .storeAck core _ => some core
  | .granuleTaken core => some core
  | .storeDrainLost core => some core
  | .peepholeDeliver core => if core = 0xFFFF then none else some core
  | _ => none

/-- A well-formed command names a core of the package, where it names one. -/
def Statement (i : Instr) : Prop := i.wf → ∀ n, coreOf i = some n → n < 256

theorem unit_lt {n eng : Nat} (h : unitOk n eng = true) : n < 256 := by
  unfold unitOk at h
  simp_all

theorem nop (core eng : Nat) : Statement (.nop core eng) := fun h _ e => Option.some.inj e ▸ unit_lt h
theorem ldCopy (core : Nat) : Statement (.ldCopy core) := fun h _ e => Option.some.inj e ▸ unit_lt h
theorem ldPgather (core : Nat) : Statement (.ldPgather core) := fun h _ e => Option.some.inj e ▸ unit_lt h
theorem stCopy (core : Nat) : Statement (.stCopy core) := fun h _ e => Option.some.inj e ▸ unit_lt h
theorem sdData (core : Nat) : Statement (.sdData core) := fun h _ e => Option.some.inj e ▸ unit_lt h
theorem sdLatch (core : Nat) : Statement (.sdLatch core) := fun h _ e => Option.some.inj e ▸ unit_lt h
theorem sdArrive (core : Nat) : Statement (.sdArrive core) := fun h _ e => Option.some.inj e ▸ unit_lt h
theorem beatEnd (core : Nat) : Statement (.beatEnd core) := fun h _ e => Option.some.inj e ▸ unit_lt h
theorem stepEnd (core : Nat) : Statement (.stepEnd core) := fun h _ e => Option.some.inj e ▸ unit_lt h
theorem latchReset (core : Nat) : Statement (.latchReset core) := fun h _ e => Option.some.inj e ▸ unit_lt h
theorem peepEmit (core : Nat) : Statement (.peepEmit core) := fun h _ e => Option.some.inj e ▸ unit_lt h
theorem mmWload (core : Nat) : Statement (.mmWload core) := fun h _ e => Option.some.inj e ▸ unit_lt h
theorem mmStream (core : Nat) : Statement (.mmStream core) := fun h _ e => Option.some.inj e ▸ unit_lt h
theorem mmDrain (core : Nat) : Statement (.mmDrain core) := fun h _ e => Option.some.inj e ▸ unit_lt h
theorem veBinary (core : Nat) : Statement (.veBinary core) := fun h _ e => Option.some.inj e ▸ unit_lt h
theorem veUnary (core : Nat) : Statement (.veUnary core) := fun h _ e => Option.some.inj e ▸ unit_lt h
theorem veRreduce (core : Nat) : Statement (.veRreduce core) := fun h _ e => Option.some.inj e ▸ unit_lt h
theorem veOreduce (core : Nat) : Statement (.veOreduce core) := fun h _ e => Option.some.inj e ▸ unit_lt h
theorem veCmp (core : Nat) : Statement (.veCmp core) := fun h _ e => Option.some.inj e ▸ unit_lt h
theorem veTopk (core : Nat) : Statement (.veTopk core) := fun h _ e => Option.some.inj e ▸ unit_lt h
theorem veTranspose (core : Nat) : Statement (.veTranspose core) := fun h _ e => Option.some.inj e ▸ unit_lt h
theorem dispatchCommand (core : Nat) : Statement (.dispatchCommand core) := fun h _ e => Option.some.inj e ▸ unit_lt h
theorem streamBlockFetch (core : Nat) (sym : Syms) : Statement (.streamBlockFetch core sym) := fun h _ e => Option.some.inj e ▸ unit_lt h
theorem commandComplete (core eng lost : Nat) : Statement (.commandComplete core eng lost) := fun h _ e => Option.some.inj e ▸ unit_lt h.1
theorem loadPieceArrive (core seq piece : Nat) (sym : Syms) : Statement (.loadPieceArrive core seq piece sym) := fun h _ e => Option.some.inj e ▸ unit_lt h
theorem storeAck (core seq : Nat) : Statement (.storeAck core seq) := fun h _ e => Option.some.inj e ▸ unit_lt h
theorem granuleTaken (core : Nat) : Statement (.granuleTaken core) := fun h _ e => Option.some.inj e ▸ unit_lt h
theorem beatOpen (p refWait : Nat) (losses : List (Nat × Nat)) : Statement (.beatOpen p refWait losses) := fun _ _ e => nomatch e
theorem holdTimeout (p : Nat) : Statement (.holdTimeout p) := fun _ _ e => nomatch e
theorem stepComplete (p refWait : Nat) (losses : List (Nat × Nat)) : Statement (.stepComplete p refWait losses) := fun _ _ e => nomatch e
theorem storeDrainLost (core : Nat) : Statement (.storeDrainLost core) := fun h _ e => Option.some.inj e ▸ unit_lt h
theorem dataArrive (losses : List (Nat × Nat)) : Statement (.dataArrive losses) := fun _ _ e => nomatch e
theorem latchWriteArrive : Statement (.latchWriteArrive) := fun _ _ e => nomatch e
theorem thresholdArrive : Statement (.thresholdArrive) := fun _ _ e => nomatch e
theorem arriveToken : Statement (.arriveToken) := fun _ _ e => nomatch e
theorem completeToken : Statement (.completeToken) := fun _ _ e => nomatch e
theorem startArrive (p : Nat) (sym : Syms) (areas : List Nat) (cals : List (Nat × Nat × Cal × Cal)) : Statement (.startArrive p sym areas cals) := fun _ _ e => nomatch e
theorem stepStart (p : Nat) : Statement (.stepStart p) := fun _ _ e => nomatch e
theorem loadPlan (h : Ctl) (g : Image) (x : Placing) : Statement (.loadPlan h g x) := fun _ _ e => nomatch e
theorem unloadPlan (h : Ctl) : Statement (.unloadPlan h) := fun _ _ e => nomatch e
theorem step (h : Ctl) (areas : List Nat) (sym : Syms) : Statement (.step h areas sym) := fun _ _ e => nomatch e
theorem partitionInfo (h : Ctl) : Statement (.partitionInfo h) := fun _ _ e => nomatch e
theorem peepEnable (h : Ctl) (id mask : Nat) (on : Bool) : Statement (.peepEnable h id mask on) := fun _ _ e => nomatch e
theorem ringSetup (h : Ctl) (xs : List RingSpec) : Statement (.ringSetup h xs) := fun _ _ e => nomatch e
theorem pin (h : Ctl) (part : Nat) (on : Bool) : Statement (.pin h part on) := fun _ _ e => nomatch e
theorem logFlush (h : Ctl) : Statement (.logFlush h) := fun _ _ e => nomatch e
theorem fwUpdate (h : Ctl) (sigOk good : Bool) : Statement (.fwUpdate h sigOk good) := fun _ _ e => nomatch e
theorem updateDrainTimeout : Statement (.updateDrainTimeout) := fun _ _ e => nomatch e
theorem handoverTimeout : Statement (.handoverTimeout) := fun _ _ e => nomatch e
theorem memAccess (g : Nat) (wr : Bool) (off : Nat) (data : List Byte) (sym : Nat) : Statement (.memAccess g wr off data sym) := fun _ _ e => nomatch e
theorem hbmRefresh (h : Nat) : Statement (.hbmRefresh h) := fun _ _ e => nomatch e
theorem cellarRefresh (c : Nat) : Statement (.cellarRefresh c) := fun _ _ e => nomatch e
theorem patrolScrub (sym : Nat) : Statement (.patrolScrub sym) := fun _ _ e => nomatch e
theorem skewWindow : Statement (.skewWindow) := fun _ _ e => nomatch e
theorem hbmTempReport (stack temp : Nat) : Statement (.hbmTempReport stack temp) := fun _ _ e => nomatch e
theorem memPhbmWrite (p : Nat) (v : Word64) : Statement (.memPhbmWrite p v) := fun _ _ e => nomatch e
theorem memPcelWrite (p : Nat) (v : Word64) : Statement (.memPcelWrite p v) := fun _ _ e => nomatch e
theorem memRequest (sym : Syms) : Statement (.memRequest sym) := fun _ _ e => nomatch e
theorem memResponse : Statement (.memResponse) := fun _ _ e => nomatch e
theorem dmaDoorbell (jamb c : Nat) (v : Word64) : Statement (.dmaDoorbell jamb c v) := fun _ _ e => nomatch e
theorem descriptorFetch (jamb c : Nat) (sym : Syms) : Statement (.descriptorFetch jamb c sym) := fun _ _ e => nomatch e
theorem dmaPiece (jamb c j : Nat) (sym : Syms) (host : HostData) : Statement (.dmaPiece jamb c j sym host) := fun _ _ e => nomatch e
theorem descriptorComplete (jamb c : Nat) (sym : Syms) (hostOk : Bool) : Statement (.descriptorComplete jamb c sym hostOk) := fun _ _ e => nomatch e
theorem dmaTimeout (jamb c j : Nat) : Statement (.dmaTimeout jamb c j) := fun _ _ e => nomatch e
theorem dmaStop (jamb c : Nat) (v : Word64) : Statement (.dmaStop jamb c v) := fun _ _ e => nomatch e
theorem dmaResume (jamb c : Nat) (v : Word64) : Statement (.dmaResume jamb c v) := fun _ _ e => nomatch e
theorem paneFreqRequest (q : Nat) (v : Word64) : Statement (.paneFreqRequest q v) := fun _ _ e => nomatch e
theorem paneFreqChange (q : Nat) : Statement (.paneFreqChange q) := fun _ _ e => nomatch e
theorem crossingDrift (kind i : Nat) (inbound : Bool) : Statement (.crossingDrift kind i inbound) := fun _ _ e => nomatch e
theorem refclkLoss : Statement (.refclkLoss) := fun _ _ e => nomatch e
theorem timeStep (v : Word64) : Statement (.timeStep v) := fun _ _ e => nomatch e
theorem beaconSyncSend (q : Nat) : Statement (.beaconSyncSend q) := fun _ _ e => nomatch e
theorem sync (q : Nat) : Statement (.sync q) := fun _ _ e => nomatch e
theorem delayReq (q : Nat) : Statement (.delayReq q) := fun _ _ e => nomatch e
theorem delayResp (q : Nat) : Statement (.delayResp q) := fun _ _ e => nomatch e
theorem beaconExchangeFail : Statement (.beaconExchangeFail) := fun _ _ e => nomatch e
theorem timebaseStep : Statement (.timebaseStep) := fun _ _ e => nomatch e
theorem ptpMessage (m : PtpMsg) : Statement (.ptpMessage m) := fun _ _ e => nomatch e
theorem retrain (q : Nat) (v : Word64) : Statement (.retrain q v) := fun _ _ e => nomatch e
theorem sleep (q : Nat) (v : Word64) : Statement (.sleep q v) := fun _ _ e => nomatch e
theorem wake (q : Nat) (v : Word64) : Statement (.wake q v) := fun _ _ e => nomatch e
theorem off (q : Nat) (v : Word64) : Statement (.off q v) := fun _ _ e => nomatch e
theorem partnerSignal (q silence : Nat) (powered : Bool) : Statement (.partnerSignal q silence powered) := fun _ _ e => nomatch e
theorem equalise (q : Nat) (l : Lanes) : Statement (.equalise q l) := fun _ _ e => nomatch e
theorem alignDone (q : Nat) (cin cout : Cal) : Statement (.alignDone q cin cout) := fun _ _ e => nomatch e
theorem trainingStageTimeout (q : Nat) : Statement (.trainingStageTimeout q) := fun _ _ e => nomatch e
theorem trainingFrame (q seq ack : Nat) (b : List Byte) : Statement (.trainingFrame q seq ack b) := fun _ _ e => nomatch e
theorem laneFail (q lost : Nat) (hits : Tbl Nat) : Statement (.laneFail q lost hits) := fun _ _ e => nomatch e
theorem sleepTimeout (q : Nat) : Statement (.sleepTimeout q) := fun _ _ e => nomatch e
theorem partnerWake (q : Nat) : Statement (.partnerWake q) := fun _ _ e => nomatch e
theorem relock (q : Nat) (ok : Bool) : Statement (.relock q ok) := fun _ _ e => nomatch e
theorem flitReceive (q corr uncorr : Nat) (bad : Bool) (phase : Nat) (f : Flit) : Statement (.flitReceive q corr uncorr bad phase f) := fun _ _ e => nomatch e
theorem goingAway (q : Nat) (body : List Byte) : Statement (.goingAway q body) := fun _ _ e => nomatch e
theorem ackTimeout (q : Nat) : Statement (.ackTimeout q) := fun _ _ e => nomatch e
theorem nakTimeout (q : Nat) : Statement (.nakTimeout q) := fun _ _ e => nomatch e
theorem bsfSend (q : Nat) : Statement (.bsfSend q) := fun _ _ e => nomatch e
theorem creditTimeout (q : Nat) : Statement (.creditTimeout q) := fun _ _ e => nomatch e
theorem holdTimeExpiry (q : Nat) : Statement (.holdTimeExpiry q) := fun _ _ e => nomatch e
theorem linkLost (p : Nat) : Statement (.linkLost p) := fun _ _ e => nomatch e
theorem routeLookup (ties : Nat) : Statement (.routeLookup ties) := fun _ _ e => nomatch e
theorem rteEntryWrite (mbr : Bool) (i : Nat) (v : Word64) : Statement (.rteEntryWrite mbr i v) := fun _ _ e => nomatch e
theorem fanEntryWrite (t w : Nat) (v : Word64) : Statement (.fanEntryWrite t w v) := fun _ _ e => nomatch e
theorem rtePsetWrite (p : Nat) (v : Word64) : Statement (.rtePsetWrite p v) := fun _ _ e => nomatch e
theorem inputDigest (p : Nat) (sym : Syms) : Statement (.inputDigest p sym) := fun _ _ e => nomatch e
theorem weightLoad (h : Ctl) (sym : Syms) : Statement (.weightLoad h sym) := fun _ _ e => nomatch e
theorem adapterLoad (h : Ctl) (id rank len expect : Nat) (e : List Byte) : Statement (.adapterLoad h id rank len expect e) := fun _ _ e => nomatch e
theorem qpConnect (h : Ctl) (jamb qp : Nat) (ok : Bool) : Statement (.qpConnect h jamb qp ok) := fun _ _ e => nomatch e
theorem rdmaReadResponse (jamb qp : Nat) (ecn : Bool) (data : List Byte) (sym : Syms) : Statement (.rdmaReadResponse jamb qp ecn data sym) := fun _ _ e => nomatch e
theorem rdmaRetryExhausted (jamb qp : Nat) : Statement (.rdmaRetryExhausted jamb qp) := fun _ _ e => nomatch e
theorem chainPoll (k r : Nat) (sym : Syms) : Statement (.chainPoll k r sym) := fun _ _ e => nomatch e
theorem chainWordWrite (k r : Nat) (sym : Syms) : Statement (.chainWordWrite k r sym) := fun _ _ e => nomatch e
theorem chainBreak (k r : Nat) : Statement (.chainBreak k r) := fun _ _ e => nomatch e
theorem succLost (k r : Nat) : Statement (.succLost k r) := fun _ _ e => nomatch e
theorem chainRepairTimeout (k r : Nat) : Statement (.chainRepairTimeout k r) := fun _ _ e => nomatch e
theorem serveConfig (h : Ctl) : Statement (.serveConfig h) := fun _ _ e => nomatch e
theorem samplerConfig (h : Ctl) : Statement (.samplerConfig h) := fun _ _ e => nomatch e
theorem customerSet (h : Ctl) (id : Nat) : Statement (.customerSet h id) := fun _ _ e => nomatch e
theorem prioSet (h : Ctl) : Statement (.prioSet h) := fun _ _ e => nomatch e
theorem reqQuery (h : Ctl) (tag : Nat) : Statement (.reqQuery h tag) := fun _ _ e => nomatch e
theorem submit (k : Nat) : Statement (.submit k) := fun _ _ e => nomatch e
theorem cancel (k : Nat) : Statement (.cancel k) := fun _ _ e => nomatch e
theorem servingBoundary (p : Nat) (redo : Bool) (areas : List Nat) : Statement (.servingBoundary p redo areas) := fun _ _ e => nomatch e
theorem spill (p ent : Nat) : Statement (.spill p ent) := fun _ _ e => nomatch e
theorem sampleRow (p lane : Nat) (sym : Syms) : Statement (.sampleRow p lane sym) := fun _ _ e => nomatch e
theorem partCreate (h : Ctl) (p : Nat) (o : Owners) : Statement (.partCreate h p o) := fun _ _ e => nomatch e
theorem create (p : Nat) : Statement (.create p) := fun _ _ e => nomatch e
theorem partTeardown (h : Ctl) (p : Nat) : Statement (.partTeardown h p) := fun _ _ e => nomatch e
theorem teardown (p : Nat) : Statement (.teardown p) := fun _ _ e => nomatch e
theorem setPlanKey (who p digest : Nat) : Statement (.setPlanKey who p digest) := fun _ _ e => nomatch e
theorem setHostMode (p mode : Nat) : Statement (.setHostMode p mode) := fun _ _ e => nomatch e
theorem ideKm (p : Nat) : Statement (.ideKm p) := fun _ _ e => nomatch e
theorem getVersion (who : Nat) : Statement (.getVersion who) := fun _ _ e => nomatch e
theorem getCapabilities (who : Nat) : Statement (.getCapabilities who) := fun _ _ e => nomatch e
theorem negotiateAlgorithms (who offer : Nat) : Statement (.negotiateAlgorithms who offer) := fun _ _ e => nomatch e
theorem getDigests (who : Nat) : Statement (.getDigests who) := fun _ _ e => nomatch e
theorem getCertificate (who n : Nat) : Statement (.getCertificate who n) := fun _ _ e => nomatch e
theorem challenge (who : Nat) : Statement (.challenge who) := fun _ _ e => nomatch e
theorem getMeasurements (who sess index nonce : Nat) : Statement (.getMeasurements who sess index nonce) := fun _ _ e => nomatch e
theorem keyExchange (who : Nat) : Statement (.keyExchange who) := fun _ _ e => nomatch e
theorem finish (who id : Nat) (ok : Bool) : Statement (.finish who id ok) := fun _ _ e => nomatch e
theorem keyUpdate (who id : Nat) : Statement (.keyUpdate who id) := fun _ _ e => nomatch e
theorem heartbeat (who id : Nat) : Statement (.heartbeat who id) := fun _ _ e => nomatch e
theorem endSession (who id : Nat) : Statement (.endSession who id) := fun _ _ e => nomatch e
theorem debugNonce : Statement (.debugNonce) := fun _ _ e => nomatch e
theorem debugUnlock (nonce level : Nat) (g : DebugSig) : Statement (.debugUnlock nonce level g) := fun _ _ e => nomatch e
theorem tamperAlarm (cause sensor : Nat) : Statement (.tamperAlarm cause sensor) := fun _ _ e => nomatch e
theorem tamperClear (v : Word64) (trip : Bool) : Statement (.tamperClear v trip) := fun _ _ e => nomatch e
theorem ctlDoorbell (fn : Nat) (v : Word64) (at' : Nat) (recs : List HostData) : Statement (.ctlDoorbell fn v at' recs) := fun _ _ e => nomatch e
theorem fwload (v : Word64) (sigOk : Bool) : Statement (.fwload v sigOk) := fun _ _ e => nomatch e
theorem powerLoop (avg : Nat) (ps : List Nat) (rails : List (Nat × Nat)) : Statement (.powerLoop avg ps rails) := fun _ _ e => nomatch e
theorem thermalLoop (dies hbm : List Nat) (ps : List Nat) : Statement (.thermalLoop dies hbm ps) := fun _ _ e => nomatch e
theorem peepholeDeliver (core : Nat) : Statement (.peepholeDeliver core) := fun h n e => by
  have e : (if core = 0xFFFF then none else some core) = some n := e
  split at e
  · cases e
  · cases e; exact h.resolve_right ‹_›
theorem logCopy : Statement (.logCopy) := fun _ _ e => nomatch e
theorem mgmtPacket : Statement (.mgmtPacket) := fun _ _ e => nomatch e
theorem uartRxChar (v : BitVec 160) : Statement (.uartRxChar v) := fun _ _ e => nomatch e
theorem reset (x : StartIn) : Statement (.reset x) := fun _ _ e => nomatch e
theorem ranuatTimeout : Statement (.ranuatTimeout) := fun _ _ e => nomatch e
theorem resetAssert : Statement (.resetAssert) := fun _ _ e => nomatch e
theorem pwrfail : Statement (.pwrfail) := fun _ _ e => nomatch e
theorem abortReceive : Statement (.abortReceive) := fun _ _ e => nomatch e
theorem quietEnd (p : Nat) (replay : Bool) : Statement (.quietEnd p replay) := fun _ _ e => nomatch e
theorem stepReplay (p : Nat) : Statement (.stepReplay p) := fun _ _ e => nomatch e
theorem lockstepTest (ok : Bool) : Statement (.lockstepTest ok) := fun _ _ e => nomatch e
theorem lockstepMismatch (parity : Bool) : Statement (.lockstepMismatch parity) := fun _ _ e => nomatch e
theorem controlComplexReset : Statement (.controlComplexReset) := fun _ _ e => nomatch e
theorem rsDoorbell (jamb p : Nat) (v : Word64) : Statement (.rsDoorbell jamb p v) := fun _ _ e => nomatch e
theorem encode (jamb p : Nat) (sym : Syms) : Statement (.encode jamb p sym) := fun _ _ e => nomatch e
theorem rebuild (jamb p : Nat) (sym : Syms) : Statement (.rebuild jamb p sym) := fun _ _ e => nomatch e
theorem rsJobComplete (jamb p : Nat) : Statement (.rsJobComplete jamb p) := fun _ _ e => nomatch e
theorem droop (q : Nat) : Statement (.droop q) := fun _ _ e => nomatch e
theorem overcurrent (leaf : Nat) : Statement (.overcurrent leaf) := fun _ _ e => nomatch e
theorem thermal : Statement (.thermal) := fun _ _ e => nomatch e
theorem prochot (low : Bool) : Statement (.prochot low) := fun _ _ e => nomatch e
theorem emergClear (q : Nat) : Statement (.emergClear q) := fun _ _ e => nomatch e
theorem thermalTrip : Statement (.thermalTrip) := fun _ _ e => nomatch e
theorem standbyEntry (idle : Nat) (drained : Bool) : Statement (.standbyEntry idle drained) := fun _ _ e => nomatch e
theorem sleepEntry (drained : Bool) : Statement (.sleepEntry drained) := fun _ _ e => nomatch e
theorem runReturn (d0 : Bool) (cals : List (Cal × Cal)) : Statement (.runReturn d0 cals) := fun _ _ e => nomatch e
theorem railOut5 (k mv da : Nat) : Statement (.railOut5 k mv da) := fun _ _ e => nomatch e
theorem railUndervolt (k : Nat) : Statement (.railUndervolt k) := fun _ _ e => nomatch e
theorem registerWrite (a : Nat) (v : Word64) (ok : Bool) : Statement (.registerWrite a v ok) := fun _ _ e => nomatch e
theorem paneRestart (q ns : Nat) (cin cout : Cal) : Statement (.paneRestart q ns cin cout) := fun _ _ e => nomatch e
theorem degradeRealign (q : Nat) : Statement (.degradeRealign q) := fun _ _ e => nomatch e
theorem flitSlot (q phase : Nat) : Statement (.flitSlot q phase) := fun _ _ e => nomatch e
theorem inboundTlp (t : Tlp) (at' : Nat) (recs : List HostData) (sigOk : Bool) (sym : Syms) : Statement (.inboundTlp t at' recs sigOk sym) := fun _ _ e => nomatch e
theorem inboundPacket (jamb kind : Nat) : Statement (.inboundPacket jamb kind) := fun _ _ e => nomatch e
theorem pldmRequest (r : MgmtReq) (cals : List (Cal × Cal)) : Statement (.pldmRequest r cals) := fun _ _ e => nomatch e
theorem ptpLost : Statement (.ptpLost) := fun _ _ e => nomatch e
theorem entropyFail : Statement (.entropyFail) := fun _ _ e => nomatch e

end Sys2Proof.Laws.Wf
end

