-- ==== Sys2Proof/Tests/Slice0.lean ====
section
/-! SUPPORT. The model's own tests: ill-formed operands are refused; every statement for the provers has a state and operands that
meet its hypotheses (a witness for each clause), and what one step does there. -/

namespace Sys2Proof.Tests

set_option Elab.async false

open Sys2Proof Sys2Proof.Machine

/-- The reset state with some register fields set, as (field, index, value). -/
def st (l : List (Fld × Nat × Nat)) : State := l.foldl (fun s x => s.setF x.1 x.2.1 x.2.2) State.reset

/-- A command word, as (lowest bit, value). -/
def cmd (l : List (Nat × Nat)) : Cmd := BitVec.ofNat 512 (l.map (fun x => x.2 * 2 ^ x.1)).sum

/-- A package that is not held in reset. -/
def live (s : State) : State := { s with boot := { s.boot with held := false } }

/-- A queued command of the first beat. -/
def ent (c : Cmd) (seq : Nat) : QEntry := ⟨c, seq, 0, false, false, [], [], 0, none⟩

/-- Partition 0 runs a step of plan 1 on core 0, which owns HBM channels 0 to 7. -/
def run : State :=
  { st [(F.MEM_PHBM_EN, 0, 1), (F.MEM_PHBM_LOG2C, 0, 3), (F.CTL_STATUS_READY, 0, 1)] with
    parts := [(0, { Part.init with running := true, started := true, plan := 1 })]
    plans := [(1, { Plan.init with cores := [0], nodeMap := [0] })] }

/-- The same with no core bound, so that an abort counts no lost cycles, which are free values. -/
def runE : State := run.setPlan 1 { Plan.init with nodeMap := [0] }

/-- The same as `run` with core 0 as given. -/
def runC (k : Core) : State := run.setCore 0 k

/-- The command answers a next state, which satisfies a check. -/
def gives (i : Instr) (s : State) (f : State → Bool) : Bool :=
  match exec i s with
  | .next t => f t
  | _ => false

/-- The command stops, and names a unit that is not there. -/
def stops (i : Instr) (s : State) : Bool :=
  match exec i s with
  | .fault .noSuchUnit => true
  | _ => false

/-- The step answers a next state, which satisfies a check. -/
def steps (s : State) (f : State → Bool) : Bool :=
  match step s with
  | .next t => f t
  | _ => false

/-- A message of a function for plan 1, with its OP. -/
def ctl (op fn len : Nat) : Ctl := ⟨fn, 16, 1, op, 1, 7, 0, len, List.replicate 36 0⟩

/-! ## Ill-formed commands -/

theorem test_wf_refuses_cores :
    ¬ (Instr.ldCopy 256).wf ∧ ¬ (Instr.nop 0 6).wf ∧ ¬ (Instr.commandComplete 0 5 0).wf ∧ ¬ (Instr.peepholeDeliver 256).wf ∧
    ¬ (Instr.beatOpen 16 0 []).wf ∧ ¬ (Instr.hbmRefresh 256).wf ∧ ¬ (Instr.cellarRefresh 16).wf ∧ ¬ (Instr.hbmTempReport 8 0).wf ∧
    ¬ (Instr.hbmTempReport 0 256).wf ∧ ¬ (Instr.memAccess (2 ^ 42) false 0 [] 0).wf ∧ ¬ (Instr.memAccess 0 true 63 [1, 2] 0).wf ∧
    ¬ (Instr.dmaStop 2 0 0).wf ∧ ¬ (Instr.dmaStop 0 32 0).wf ∧ ¬ (Instr.rsDoorbell 2 0 0).wf ∧ ¬ (Instr.rsDoorbell 0 16 0).wf := by
  unfold Instr.wf; decide +kernel

theorem test_wf_refuses_units :
    ¬ (Instr.paneFreqChange 32).wf ∧ ¬ (Instr.overcurrent 2).wf ∧ ¬ (Instr.crossingDrift 1 (crossings 1) false).wf ∧ ¬ (Instr.crossingDrift 1 0 true).wf ∧ ¬ (Instr.flitSlot 36 0).wf ∧
    ¬ (Instr.laneFail 36 0 []).wf ∧ ¬ (Instr.rteEntryWrite true 128 0).wf ∧ ¬ (Instr.rteEntryWrite false 4096 0).wf ∧
    ¬ (Instr.fanEntryWrite 4096 0 0).wf ∧ ¬ (Instr.fanEntryWrite 0 6 0).wf ∧ ¬ (Instr.rdmaRetryExhausted 0 256).wf ∧
    ¬ (Instr.inboundPacket 2 0).wf ∧ ¬ (Instr.railOut5 13 0 0).wf ∧ ¬ (Instr.railOut5 0 65536 0).wf ∧ ¬ (Instr.railUndervolt 13).wf ∧
    ¬ (Instr.runReturn true (List.replicate 33 (⟨0, 0, 0⟩, ⟨0, 0, 0⟩))).wf ∧
    ¬ (Instr.pldmRequest .getEid (List.replicate 33 (⟨0, 0, 0⟩, ⟨0, 0, 0⟩))).wf ∧ ¬ (Instr.registerWrite 0 0 true).wf := by
  unfold Instr.wf; decide +kernel

theorem test_wf_refuses_hosts :
    ¬ (Instr.pin (ctl 0x0F 17 0) 0 true).wf ∧ ¬ (Instr.getVersion 18).wf ∧ ¬ (Instr.setPlanKey 18 0 0).wf ∧ ¬ (Instr.setPlanKey 0 16 0).wf ∧
    ¬ (Instr.tamperAlarm 0 0).wf ∧ ¬ (Instr.tamperAlarm 5 0).wf ∧ ¬ (Instr.tamperAlarm 1 256).wf ∧ ¬ (Instr.ctlDoorbell 17 0 0 []).wf ∧
    ¬ (Instr.powerLoop (2 ^ 32) [] []).wf ∧ ¬ (Instr.powerLoop 0 [16] []).wf ∧ ¬ (Instr.thermalLoop [] [] []).wf ∧
    ¬ (Instr.thermalLoop [0, 0, 0, 0] (List.replicate 8 0) [16]).wf ∧ ¬ (Instr.inboundTlp ⟨17, 0, 0, none, 1, false⟩ 0 [] false []).wf ∧
    ¬ (Instr.inboundTlp ⟨0, 1, 0, none, 1, false⟩ 0 [] false []).wf ∧ ¬ (Instr.inboundTlp ⟨0, 0, 0, none, 0, false⟩ 0 [] false []).wf ∧
    ¬ (Instr.inboundTlp ⟨0, 0, 0, none, 4097, false⟩ 0 [] false []).wf := by
  unfold Instr.wf; decide +kernel

theorem test_ill_formed_stops :
    stops (.ldCopy 256) State.reset = true ∧ stops (.registerWrite 0 0 true) State.reset = true ∧ stops (.commandComplete 0 5 0) State.reset = true ∧
    stops (.railOut5 13 0 0) State.reset = true ∧ stops (.pin (ctl 0x0F 17 0) 0 true) State.reset = true := by decide +kernel

/-! ## The queue -/

theorem test_queue_is_fifo :
    steps { State.reset with pending := [.ptpLost, .skewWindow] } (fun t => t.pending == [.skewWindow]) = true ∧
    steps { State.reset with pending := [.ptpLost] } (fun t => t == State.reset) = true := by decide +kernel

theorem test_idle_ticks :
    steps State.reset (fun t => t.now == 2 && t.time.frac == 0 && decide (t = { State.reset with regs := t.regs })) = true := by
  decide +kernel

theorem test_idle_fraction :
    steps { st [(F.TIME_RATE_PPB, 0, 500)] with time := { TimeS.init with frac := 2 ^ 32 - 1 } }
      (fun t => t.now == 3 && t.time.frac == 1000 * 2 ^ 32 / 1000000000 - 1) = true := by decide +kernel

theorem test_completes_if_well_formed :
    (Instr.laneFail 35 7 []).wf ∧ gives (.laneFail 35 7 []) State.reset (fun t => t == State.reset) = true ∧
    ¬ (Instr.laneFail 36 7 []).wf ∧ stops (.laneFail 36 7 []) State.reset = true := by
  unfold Instr.wf; decide +kernel

/-! ## LOAD, STORE and SEND -/

def cLd : Cmd := cmd [(0, 1), (8, 0), (11, 4), (128, 320), (144, 1), (160, 1), (176, 1), (192, 0x1000), (312, 0x40)]
def cLdBoard : Cmd := cmd [(0, 1), (8, 0), (11, 4), (112, 0x8800), (128, 64), (144, 1), (160, 1), (176, 1), (192, 0x1000), (312, 0x40)]
def kLd (c : Cmd) : Core := { Core.init with load := [ent c 0] }

theorem test_ld_copy_starts :
    (runC (kLd cLd)).startableOp 0 0 .ldCopy = some (ent cLd 0) ∧ (kLd cLd).skips cLd = false ∧
    operandCheck ((runC (kLd cLd)).checkEnv 0 cLd) .ldCopy cLd = 0 ∧
    (runC (kLd cLd)).memCheck 0 cLd 0x1000 0x1000 0x113F = 0 ∧
    gives (.ldCopy 0) (runC (kLd cLd)) (fun t => ((t.core 0).load.map (fun e => e.pieces.map (·.len))) == [[192, 128]]) = true := by
  decide +kernel

theorem test_ld_copy_board_starts :
    (runC (kLd cLdBoard)).startableOp 0 0 .ldCopy = some (ent cLdBoard 0) ∧
    operandCheck ((runC (kLd cLdBoard)).checkEnv 0 cLdBoard) .ldCopy cLdBoard = 0 ∧
    (runC (kLd cLdBoard)).remoteSlot cLdBoard = some 1 ∧
    (runC (kLd cLdBoard)).memCheck 0 cLdBoard 0x1000 0x1000 0x103F = 0 ∧
    gives (.ldCopy 0) (runC (kLd cLdBoard)) (fun t => t.tags == [(0, .load 0 0 0)] && t.rq.map (·.pkt.ptype) == [ptMEM_RD]) = true := by
  decide +kernel

def cPg : Cmd := cmd [(0, 2), (8, 0), (11, 5), (128, 64), (144, 2), (160, 1), (176, 1), (192, 0), (240, 64), (312, 0), (344, 64),
  (416, 0x1000), (448, 12), (464, 1)]
def sPg : State := (runC (kLd cPg)).setSpad 0 0x1000 (leBytes 4 0x80000000)

theorem test_ld_pgather_starts :
    sPg.startableOp 0 0 .ldPgather = some (ent cPg 0) ∧ (kLd cPg).skips cPg = false ∧
    operandCheck (sPg.checkEnv 0 cPg) .ldPgather cPg = 0 ∧ (sPg.pageCheck 0 cPg 0).1 = 0 ∧ ¬ mPadd cPg ∧
    gives (.ldPgather 0) sPg (fun t => ((t.core 0).load.map (fun e => e.pieces.map (fun p => (p.dst, p.len, p.arrived)))) ==
      [[(0, 64, false), (64, 64, true)]]) = true := by decide +kernel

def cSt : Cmd := cmd [(0, 1), (8, 3), (11, 4), (106, 1), (128, 128), (144, 1), (160, 1), (176, 1), (192, 0x2000), (312, 0x40)]
def kSt (c : Cmd) : Core := { Core.init with store := [ent c 0] }

theorem test_st_copy_starts :
    (runC (kSt cSt)).startableOp 0 3 .stCopy = some (ent cSt 0) ∧ (kSt cSt).skips cSt = false ∧
    operandCheck ((runC (kSt cSt)).checkEnv 0 cSt) .stCopy cSt = 0 ∧ (runC (kSt cSt)).memCheck 0 cSt 0x2000 0x2000 0x207F = 0 ∧
    gives (.stCopy 0) (runC (kSt cSt)) (fun t => ((t.core 0).sb.map (·.kind)) ==
      [.store 0x2000 none true, .store 0x2040 none true]) = true := by decide +kernel

def cSd : Cmd := cmd [(0, 1), (8, 4), (11, 6), (72, 5), (80, 3), (104, 1), (128, 64), (144, 1), (160, 1), (176, 1), (192, 0), (296, 0x80),
  (440, 9)]
def cSl : Cmd := cmd [(0, 2), (8, 4), (11, 7), (72, 47), (80, 3), (104, 1), (168, 9)]
def cSa : Cmd := cmd [(0, 3), (8, 4), (11, 0), (128, 0x21), (136, 4), (144, 2)]
def kSd (c : Cmd) : Core := { Core.init with send := [ent c 0] }

theorem test_sd_data_starts :
    (runC (kSd cSd)).startableOp 0 4 .sdData = some (ent cSd 0) ∧ (kSd cSd).skips cSd = false ∧
    operandCheck ((runC (kSd cSd)).checkEnv 0 cSd) .sdData cSd = 0 ∧
    gives (.sdData 0) (runC (kSd cSd)) (fun t => ((t.core 0).sb.map (·.kind)) ==
      [.data (9 * 2 ^ 40) 0x80, .latch (9 * 2 ^ 40) 5 3]) = true := by decide +kernel

theorem test_sd_latch_starts :
    (runC (kSd cSl)).startableOp 0 4 .sdLatch = some (ent cSl 0) ∧ (kSd cSl).skips cSl = false ∧
    operandCheck ((runC (kSd cSl)).checkEnv 0 cSl) .sdLatch cSl = 0 ∧
    gives (.sdLatch 0) (runC (kSd cSl)) (fun t => ((t.core 0).sb.map (·.kind)) == [.latch (9 * 2 ^ 40) 47 3]) = true := by
  decide +kernel

theorem test_sd_arrive_starts :
    (runC (kSd cSa)).startableOp 0 4 .sdArrive = some (ent cSa 0) ∧ (kSd cSa).skips cSa = false ∧
    operandCheck ((runC (kSd cSa)).checkEnv 0 cSa) .sdArrive cSa = 0 ∧ (runC (kSd cSa)).outstanding (arrivalOf 0 cSa) < 4 ∧
    gives (.sdArrive 0) (runC (kSd cSa)) (fun t => t.arrivals == [⟨0, true, 1, 4, 2⟩]) = true := by decide +kernel

def cNop : Cmd := cmd [(8, 2)]

theorem test_nop_starts :
    (runC { Core.init with vector := [ent cNop 0] }).startableOp 0 2 .nop = some (ent cNop 0) ∧
    operandCheck ((runC { Core.init with vector := [ent cNop 0] }).checkEnv 0 cNop) .nop cNop = 0 ∧
    gives (.nop 0 2) (runC { Core.init with vector := [ent cNop 0] }) (fun t => ((t.core 0).vector.map (·.started)) == [true]) = true := by
  decide +kernel

def kPiece : Core := { Core.init with load := [{ ent cLd 0 with started := true, pieces := [⟨0x1000, 0x40, 192, false, false⟩, ⟨0x10C0, 0x100, 128, false, true⟩] }] }

theorem test_piece_lands :
    ((kPiece.pieceOf 0 0).map (fun x => x.2)) = some ⟨0x1000, 0x40, 192, false, false⟩ ∧ kPiece.live 0 = true ∧
    (match ((runC kPiece).write 0x1000 [] (leBytes 64 77)).1.read 0x1000 192 [] with
     | (_, .ok bs) => bs.length == 192
     | _ => false) = true ∧
    gives (.loadPieceArrive 0 0 0 []) ((runC kPiece).write 0x1000 [] (leBytes 64 77)).1 (fun t =>
      t.spad 0 0x40 2 == [77, 0] && ((t.core 0).load.map (fun e => e.pieces.map (·.arrived))) == [[true, true]]) = true := by
  decide +kernel

def gr : SbEntry := ⟨3, .store 0x2000 none true, List.replicate 64 5⟩

theorem test_granule_taken :
    gives (.granuleTaken 0) (runC { kSt cSt with sb := [gr] }) (fun t => (t.core 0).sb == [] && (t.core 0).lastTaken == 3 &&
      t.byte 0x203F == 5) = true ∧
    gives (.granuleTaken 0) (runC { kSt cSt with sb := [gr], stop := some 2 }) (fun t => (t.core 0).lastTaken == 0 &&
      t.getF F.CORE_DRAIN_DRAINED 0 == 1 && t.byte 0x203F == 5) = true := by decide +kernel

def eAck : QEntry := { ent cSt 3 with started := true, acks := 1 }

theorem test_store_ack :
    (runC { Core.init with store := [eAck] }).core 0 = { Core.init with store := [eAck] } ∧
    (runC { Core.init with store := [eAck] }).remoteSlot cSt = none ∧
    gives (.storeAck 0 3) (runC { Core.init with store := [eAck] }) (fun t => ((t.core 0).store.map (·.acks)) == [0]) = true := by
  decide +kernel

def sLost : State := ((runC { Core.init with sb := [gr, gr] }).setF F.PANE_FREQ_EMERG 0 1).setF F.TIME_NOW_NS 0 5000

theorem test_store_drain_lost :
    sLost.coreIn 0 = true ∧ sLost.flag F.PANE_FREQ_EMERG 0 = true ∧ (sLost.pane 0).stopAt + 5000 ≤ sLost.now ∧ (sLost.core 0).sb = [gr, gr] ∧
    (sLost.stepActive 0) = true ∧ sLost.flag F.CORE_FAULT_VALID 0 = false := by decide +kernel

/-! ## MATRIX and VECTOR -/

def shape (a b c d : Nat) : List (Nat × Nat) := [(128, a), (144, b), (160, c), (176, d)]
def one32 : Nat := 0x3F800000
def kM (c : Cmd) : Core := { Core.init with matrix := [ent c 0] }
def kV (c : Cmd) : Core := { Core.init with vector := [ent c 0] }

def cMw : Cmd := cmd (shape 32 2 1 1 ++ [(0, 1), (8, 1), (11, 2), (112, 5), (192, 0), (224, 32), (400, one32)])
/-- Scratchpad bytes 0 to 63 hold 1 and 2. -/
def sMw : State := (runC (kM cMw)).setSpad 0 0 (List.replicate 32 1 ++ List.replicate 32 2)

theorem test_mm_wload_starts :
    sMw.startableOp 0 1 .mmWload = some (ent cMw 0) ∧ operandCheck (sMw.checkEnv 0 cMw) .mmWload cMw = 0 ∧
    gives (.mmWload 0) sMw (fun t => (t.core 0).shadow == some ⟨5, 32, 2, one32, [List.replicate 32 1, List.replicate 32 2], []⟩) = true := by
  decide +kernel

def tile1 : Tile := ⟨5, 32, 2, one32, [List.replicate 32 1, List.replicate 32 2], []⟩
def cMs : Cmd := cmd (shape 32 1 1 1 ++ [(0, 2), (8, 1), (11, 2), (112, 5), (192, 0), (400, 4095), (432, one32)])
def sMs : State := (runC { kM cMs with shadow := some tile1 }).setSpad 0 0 (List.replicate 32 1)

theorem test_mm_stream_starts :
    sMs.startableOp 0 1 .mmStream = some (ent cMs 0) ∧ operandCheck (sMs.checkEnv 0 cMs) .mmStream cMs = 0 ∧
    (sMs.core 0).tile = some tile1 ∧ tileCheck (some tile1) cMs = 0 ∧
    gives (.mmStream 0) sMs (fun t => (t.core 0).accAt 4095 0 == 0x42000000 && (t.core 0).accAt 4095 1 == 0x42800000 &&
      (t.core 0).active == some tile1 && (t.core 0).shadow == none) = true := by decide +kernel

def cMd : Cmd := cmd (shape 2 1 1 1 ++ [(0, 3), (8, 1), (11, 2), (112, 0), (192, 0x5FFFF0), (400, 4095), (416, one32)])
def sMd : State := runC { kM cMd with acc := [(4095, [(0, 0x42000000), (1, 0x42800000)])] }

theorem test_mm_drain_starts :
    sMd.startableOp 0 1 .mmDrain = some (ent cMd 0) ∧ operandCheck (sMd.checkEnv 0 cMd) .mmDrain cMd = 0 ∧
    gives (.mmDrain 0) sMd (fun t => t.spad 0 0x5FFFF0 8 == leBytes 4 0x42000000 ++ leBytes 4 0x42800000) = true := by decide +kernel

/-- Scratchpad bytes 0 to 7 hold 1.0 and 2.0. -/
def sV (c : Cmd) : State := (runC (kV c)).setSpad 0 0 (leBytes 4 one32 ++ leBytes 4 0x40000000)

def cVb : Cmd := cmd (shape 2 1 1 1 ++ [(0, 1), (8, 2), (11, 3), (112, 0), (192, 0), (296, 0), (400, 64)])
def cVb2 : Cmd := cmd (shape 2 1 1 1 ++ [(0, 1), (8, 2), (11, 2), (112, 0), (192, 0), (296, 64), (400, one32)])

theorem test_ve_binary_starts :
    (sV cVb).startableOp 0 2 .veBinary = some (ent cVb 0) ∧ operandCheck ((sV cVb).checkEnv 0 cVb) .veBinary cVb = 0 ∧
    gives (.veBinary 0) (sV cVb) (fun t => t.spad 0 64 8 == leBytes 4 0x40000000 ++ leBytes 4 0x40800000) = true ∧
    operandCheck ((sV cVb2).checkEnv 0 cVb2) .veBinary cVb2 = 0 ∧
    gives (.veBinary 0) (sV cVb2) (fun t => t.spad 0 64 8 == leBytes 4 0x40000000 ++ leBytes 4 0x40400000) = true := by decide +kernel

def cVu : Cmd := cmd (shape 2 1 1 1 ++ [(0, 2), (8, 2), (11, 2), (112, 1), (192, 0), (296, 64), (400, one32)])

theorem test_ve_unary_starts :
    (sV cVu).startableOp 0 2 .veUnary = some (ent cVu 0) ∧ operandCheck ((sV cVu).checkEnv 0 cVu) .veUnary cVu = 0 := by
  decide +kernel

def cVr : Cmd := cmd (shape 2 1 1 1 ++ [(0, 3), (8, 2), (11, 2), (112, 0), (192, 0), (296, 64)])

theorem test_ve_rreduce_starts :
    (sV cVr).startableOp 0 2 .veRreduce = some (ent cVr 0) ∧ operandCheck ((sV cVr).checkEnv 0 cVr) .veRreduce cVr = 0 ∧
    gives (.veRreduce 0) (sV cVr) (fun t => t.spad 0 64 4 == leBytes 4 0x40400000) = true := by decide +kernel

def cVk : Cmd := cmd (shape 2 1 1 1 ++ [(0, 6), (8, 2), (11, 2), (112, 0), (192, 0), (296, 64), (400, 1)])

theorem test_ve_topk_starts :
    (sV cVk).startableOp 0 2 .veTopk = some (ent cVk 0) ∧ operandCheck ((sV cVk).checkEnv 0 cVk) .veTopk cVk = 0 ∧
    gives (.veTopk 0) (sV cVk) (fun t => t.spad 0 64 8 == leBytes 4 0x40000000 ++ leBytes 4 1) = true := by decide +kernel

def cVt : Cmd := cmd (shape 2 1 1 1 ++ [(0, 7), (8, 2), (11, 2), (112, 0), (192, 0), (296, 64), (328, 8)])

theorem test_ve_transpose_starts :
    (sV cVt).startableOp 0 2 .veTranspose = some (ent cVt 0) ∧ operandCheck ((sV cVt).checkEnv 0 cVt) .veTranspose cVt = 0 ∧
    gives (.veTranspose 0) (sV cVt) (fun t => t.spad 0 64 4 == leBytes 4 one32 && t.spad 0 72 4 == leBytes 4 0x40000000) = true := by
  decide +kernel

def cVc : Cmd := cmd (shape 2 1 1 1 ++ [(0, 5), (8, 2), (11, 1), (112, 0), (192, 0), (328, 15), (296, one32)])

theorem test_ve_cmp_starts :
    (sV cVc).startableOp 0 2 .veCmp = some (ent cVc 0) ∧ operandCheck ((sV cVc).checkEnv 0 cVc) .veCmp cVc = 0 ∧
    gives (.veCmp 0) (sV cVc) (fun t => ((t.core 0).vector.map (fun e => (e.pred.map (·.1), e.started))) == [(some 15, true)] &&
      t.mem == (sV cVc).mem) = true := by decide +kernel

/-- Two leaves of a canonical tree over two leaves; the node is its root. -/
def cVo : Cmd := cmd (shape 1 2 1 1 ++ [(0, 4), (8, 2), (11, 2), (112, 0), (192, 0), (224, 4), (296, 64), (400, 32), (432, 2), (456, 1)])
def sVo : State := (sV cVo).setSpad 0 32 (leBytes 4 0 ++ leBytes 4 1)

theorem test_ve_oreduce_starts :
    sVo.startableOp 0 2 .veOreduce = some (ent cVo 0) ∧ operandCheck (sVo.checkEnv 0 cVo) .veOreduce cVo = 0 ∧
    tagsBad 2 [0, 1] = false ∧
    (match evalNode 2 (fun x y => fadd x y) [⟨0, 0, [one32]⟩, ⟨0, 1, [0x40000000]⟩] 1 0 with
     | .val v => v.map (·.val) == [0x40400000]
     | _ => false) = true ∧
    gives (.veOreduce 0) sVo (fun t => t.spad 0 64 4 == leBytes 4 0x40400000) = true := by decide +kernel

/-! ## The dispatcher -/

def kF : Core := Core.init
def sF : State := runC kF |>.setF F.DISP_STREAM_LEN_COMMANDS 0 65

theorem test_stream_is_read :
    sF.mayFetch 0 = true ∧ sF.ownsRange 0 0 4095 = true ∧
    gives (.streamBlockFetch 0 []) sF (fun t => ((t.core 0).blocks.map (fun b => (b.idx, b.failed, b.cmds.length))) == [(0, false, 64)]) = true ∧
    (sF.setF F.DISP_STREAM_BASE_BASE 0 (2 ^ 36 - 1)).ownsRange 0 ((2 ^ 36 - 1) * 4096) ((2 ^ 36 - 1) * 4096 + 4095) = false ∧
    gives (.streamBlockFetch 0 []) (sF.setF F.DISP_STREAM_BASE_BASE 0 (2 ^ 36 - 1)) (fun t =>
      (t.core 0).blocks == [⟨0, true, []⟩]) = true := by decide +kernel

/-- The dispatcher holds a command at sequence number 0 of 64. -/
def held (c : Cmd) : State :=
  (runC { Core.init with blocks := [⟨0, false, [c]⟩], held := true }).setF F.DISP_STREAM_LEN_COMMANDS 0 64

def dNop : Cmd := cmd [(8, 5)]
def dBe : Cmd := cmd [(0, 1), (8, 5)]
def dSe : Cmd := cmd [(0, 2), (8, 5)]
def dLr : Cmd := cmd [(0, 3), (8, 5), (128, 2 ^ 47 + 1)]
def dPe : Cmd := cmd [(0, 4), (8, 5), (128, 1023), (192, 5)]

theorem test_dispatcher_handles :
    (held dNop).heldOp 0 .nop = some dNop ∧ operandCheck ((held dNop).checkEnv 0 dNop) .nop dNop = 0 ∧
    gives (.nop 0 5) (held dNop) (fun t => (t.core 0).seq == 1 && !(t.core 0).held) = true ∧
    (held dBe).heldOp 0 .beatEnd = some dBe ∧ operandCheck ((held dBe).checkEnv 0 dBe) .beatEnd dBe = 0 ∧
    gives (.beatEnd 0) (held dBe) (fun t => (t.core 0).beat == 1) = true ∧
    (held dSe).heldOp 0 .stepEnd = some dSe ∧ operandCheck ((held dSe).checkEnv 0 dSe) .stepEnd dSe = 0 ∧
    gives (.stepEnd 0) (held dSe) (fun t => (t.core 0).ended && (t.core 0).ending) = true := by decide +kernel

def sLr : State := (held dLr).setLatch 0 47 9 |>.setLatch 0 1 8

theorem test_latch_reset :
    sLr.heldOp 0 .latchReset = some dLr ∧ operandCheck (sLr.checkEnv 0 dLr) .latchReset dLr = 0 ∧ localSignals dLr = [] ∧
    gives (.latchReset 0) sLr (fun t => t.latch 0 47 == 0 && t.latch 0 1 == 8) = true := by decide +kernel

def sPe : State := (held dPe).setF F.CTL_PEEPEN_EN3 255 1

theorem test_peep_emit :
    sPe.heldOp 0 .peepEmit = some dPe ∧ operandCheck (sPe.checkEnv 0 dPe) .peepEmit dPe = 0 ∧ sPe.peepOn 1023 0 = true ∧
    gives (.peepEmit 0) sPe (fun t => (t.core 0).peep == [⟨1023, 0, 0, 0, 0, 5⟩]) = true := by decide +kernel

def kCmp : Core := { Core.init with vector := [{ ent cVc 0 with started := true, pred := some (15, true) }] }

theorem test_command_completes :
    kCmp.finished { ent cVc 0 with started := true, pred := some (15, true) } = true ∧ (runC kCmp).coreRuns 0 = true ∧
    gives (.commandComplete 0 2 0) (runC kCmp) (fun t => (t.core 0).vector == [] && (t.core 0).preds == 0x8000) = true := by
  decide +kernel

/-! ## Header checks -/

/-- The dispatcher is about to decode a command. -/
def front (c : Cmd) : State :=
  (runC { Core.init with blocks := [⟨0, false, [c]⟩] }).setF F.DISP_STREAM_LEN_COMMANDS 0 64

theorem test_header_check :
    headerCheck (cmd [(8, 6)]) = 0x01 ∧ headerCheck (cmd [(8, 7), (0, 9)]) = 0x01 ∧ headerCheck (cmd [(8, 5), (0, 5)]) = 0x02 ∧
    headerCheck (cmd [(8, 0), (0, 1)]) = 0x23 ∧ headerCheck (cmd [(107, 1)]) = 0x03 ∧ headerCheck (cmd [(8, 5), (0, 1), (16, 1)]) = 0x03 ∧
    headerCheck (cmd [(24, 48), (32, 1)]) = 0x24 ∧ headerCheck (cmd [(72, 47), (80, 1), (104, 1)]) = 0x25 ∧
    headerCheck (cmd [(72, 47), (80, 1)]) = 0 := by decide +kernel

theorem test_header_is_checked :
    (front (cmd [(8, 6)])).mayDispatch 0 = true ∧ ((front (cmd [(8, 6)])).core 0).next = .cmd (cmd [(8, 6)]) ∧
    (front (cmd [(8, 6)])).flag F.CORE_FAULT_VALID 0 = false ∧
    gives (.dispatchCommand 0) (front cVc) (fun t => (t.core 0).vector == [ent cVc 0] && (t.core 0).seq == 1) = true ∧
    gives (.dispatchCommand 0) (front dBe) (fun t => (t.core 0).held && (t.core 0).seq == 0) = true := by decide +kernel

/-! ## Steps and beats -/

def sStart : State := (st [(F.TIME_NOW_NS, 0, 100)]).modPart 15 (fun x => { x with startT := some 100 })

theorem test_step_starts :
    (sStart.part 15).startT = some 100 ∧ sStart.now = 100 ∧ sStart.paneStopped 15 = false ∧
    sStart.flag F.TIME_STATUS_LOCKED 0 = false ∧ (sStart.setF F.TIME_CTRL_MASTER 0 0).flag F.TIME_CTRL_MASTER 0 = false ∧
    gives (.stepStart 15) (sStart.setF F.TIME_CTRL_MASTER 0 0) (fun t => (t.part 15).running && t.getF F.BEAT_OPENED_TB 15 == 100 &&
      !t.flag F.LATCH_START_LATE 15 && t.flag F.LATCH_START_UNLOCKED 15) = true ∧
    gives (.stepStart 15) (sStart.modPart 15 (fun x => { x with lateT := true })) (fun t => t.flag F.LATCH_START_LATE 15) = true := by
  decide +kernel

def sBeat : State := runC { Core.init with beat := 1 } |>.setF F.TIME_NOW_NS 0 77

theorem test_beat_opens :
    sBeat.markersIn 0 0 = true ∧ sBeat.varOpen 0 0 = false ∧ sBeat.finalBeat 0 = false ∧
    gives (.beatOpen 0 0 []) sBeat (fun t => (t.part 0).beat == 1 && (t.part 0).running && t.getF F.BEAT_OPENED_TB 0 == 77) = true := by
  decide +kernel

def sFinal : State := runC { Core.init with beat := 1, ending := true, ended := true }

theorem test_step_ends :
    sFinal.markersIn 0 0 = true ∧ sFinal.varOpen 0 0 = false ∧ sFinal.finalBeat 0 = true ∧ sFinal.openGen 0 = false ∧
    (sFinal.members 0).all (fun n => (sFinal.core n).ended) = true ∧
    gives (.stepComplete 0 0 []) sFinal (fun t => !(t.part 0).running && !(t.part 0).started && (t.part 0).prevNo == some 0) = true := by
  decide +kernel

def sDog : State := runE.setF F.TIME_NOW_NS 0 (1000 * 2 ^ 32)

theorem test_hold_timeout :
    sDog.stepActive 0 = true ∧ sDog.getF F.BEAT_OPENED_TB 0 + 1000 * sDog.getF F.BEAT_WDOG_LIMIT_US 0 < sDog.now ∧
    gives (.holdTimeout 0) sDog (fun t => t.flag F.BEAT_STATUS_WDOG_FIRED 0 && (t.part 0).aborted && t.getF F.CTL_ABORT_CAUSE 0 == 2 &&
      t.flag F.CTL_ABORT_VALID 0 && t.flag F.CTL_ABORT_QUIET 0) = true := by decide +kernel
/-! ## Failures and recovery -/

def pk (ptype vc : Nat) (body : List Byte) (src : Origin) : Packet := ⟨1, ptype, 1, vc, false, 0, 7, 0, 0, 0, 0, body, src, 0, [], 0⟩
/-- A packet of one flit that has just come. -/
def worm (k : Packet) : Worm := ⟨k, k.vc, [⟨0, k.vc, true, true, [], k.part, k.ptype, 0⟩], 0, false, [], false, 0, 0, 0, 0, false, none⟩
def sLink : State :=
  { st [(F.TIME_NOW_NS, 0, 10 ^ 15)] with rq := [{ worm { pk ptDATA 0 [] .unit with part := 3 } with seen := true, outs := [⟨35, 0, 0, 0⟩] }] }

theorem test_failures_abort :
    sLink.plannedWait 3 35 = some (10 ^ 15) ∧ 1000 * sLink.getF F.CTL_ABORTCFG_LINK_LIMIT_US 0 < 10 ^ 15 ∧
    gives (.linkLost 3) sLink (fun t => t.getF F.CTL_ABORT_COUNT 3 == 1) = true ∧
    gives .refclkLoss runE (fun t => t.getF F.CTL_ABORT_CAUSE 0 == 0x0A && t.getF F.CTL_ABORT_COUNT 15 == 1) = true ∧
    31 < crossings 0 ∧ gives (.crossingDrift 0 31 false) runE (fun t => t.flag (driftFld 0 false) 31 && t.drifted.contains (0, 31)) = true ∧
    hasHalf 1 5 true = true ∧ hasHalf 1 0 true = false ∧ hasHalf 1 0 false = true := by decide +kernel

/-- Partition 0 owns system context 5, its start context, on tree 9. -/
def sCtx : State :=
  run |>.setFs 5 [(F.LATCH_SCTX_EN, 1), (F.LATCH_SCTX_START, 1), (F.LATCH_SCTX_TREE, 9)] |>.setF F.FAN_CFG_PARENT 9 63
def abortB : List Byte := leBytes 1 1 ++ leBytes 1 3 ++ leBytes 1 2 ++ leBytes 1 0 ++ leBytes 2 9 ++ leBytes 1 5 ++ List.replicate 17 0 ++
  leBytes 3 0xFFFFF ++ leBytes 5 0
def sAb : State := { sCtx.setPlan 1 { Plan.init with nodeMap := [0] } with inbox := [pk ptABORT 2 abortB .unit] }

theorem test_abort_is_received :
    (takeFirst (fun k => k.ptype == ptABORT) sAb.inbox) = some (pk ptABORT 2 abortB .unit, []) ∧
    ({ sAb with inbox := [] } : State).abortFor (pk ptABORT 2 abortB .unit) = some 0 ∧ sAb.namesCurrent 0 0 = true ∧
    gives .abortReceive sAb (fun t => t.getF F.CTL_ABORT_NODE 0 == 0xFFFFF && t.getF F.CTL_ABORT_CAUSE 0 == 3 &&
      t.getF F.CTL_ABORT_DETAIL 0 == 2 && (t.part 0).aborted && !(t.part 0).running && t.inbox == []) = true := by decide +kernel

def sQuiet : State := (run.setF F.TIME_NOW_NS 0 (10 ^ 12)).modPart 0 (fun x => { x with aborted := true, running := false, pendDone := true, attempt := 2 })

theorem test_recovery_runs :
    sQuiet.quietOver 0 = true ∧ sQuiet.weightLost 0 = false ∧
    gives (.quietEnd 0 true) sQuiet (fun t => (t.part 0).replaying && !(t.part 0).aborted && (t.part 0).lastFailed) = true ∧
    gives (.quietEnd 0 true) (sQuiet.modPart 0 (fun x => { x with attempt := 3 })) (fun t => !(t.part 0).replaying) = true ∧
    ((run.plan 1).weights.all (fun w => w.redo == [])) = true ∧
    gives (.stepReplay 0) (run.modPart 0 (fun x => { x with replaying := true, attempt := 2 })) (fun t =>
      t.steps == [⟨0, 1, 0, [], 3, true, none⟩] && !(t.part 0).replaying) = true ∧
    gives (.lockstepTest true) State.reset (fun t => t.getF F.CTL_LSTEST_TESTS 0 == 1) = true ∧
    gives (.lockstepTest false) State.reset (fun t => t.pairDown && t.flag F.CTL_LSTEST_COMP_FAIL 0) = true ∧
    gives (.lockstepMismatch false) State.reset (·.pairDown) = true ∧
    gives (.lockstepMismatch true) State.reset (fun t => t.flag F.CTL_LOCKSTEP_DELAY_PARITY 0 && t.pairDown) = true := by decide +kernel

/-! ## Arrivals -/

def kLatch : Packet := { pk ptLATCH 0 [] .unit with arg := 47 + 64 * 255, dest := [0] }
def kData : Packet := { pk ptDATA 0 [1, 2, 3, 4] .unit with arg := 0x5FFFFE, dest := [0] }
def sLat : State := { run.setLatch 0 47 65300 with inbox := [kLatch] }
def sDat : State := { run with inbox := [kData] }

theorem test_packets_land :
    sLat.takeLand ptLATCH [] sLat.inbox = some (kLatch, []) ∧ (sLat.part 0).aborted = false ∧ kLatch.dest.Nodup ∧ bitsOf kLatch.arg 0 6 < 48 ∧
    gives .latchWriteArrive sLat (fun t => t.latch 0 47 == 65535 && t.inbox == []) = true ∧
    sDat.takeLand ptDATA [] sDat.inbox = some (kData, []) ∧
    gives (.dataArrive []) sDat (fun t => t.spad 0 0x5FFFFE 2 == [1, 2] && t.mem.length == 2 && t.inbox == []) = true ∧
    sLat.takeLand ptLATCH [] [kData, kLatch] = none ∧
    sLat.takeLand ptLATCH [] [{ kData with dest := [1] }, kLatch] = some (kLatch, [{ kData with dest := [1] }]) := by decide +kernel

def sT : State := { (run.setFs 7 [(F.LATCH_TCTX_EN, 1)]).setF F.LATCH_TMASK_MASK 28 1 with arrivals := [⟨0, false, 7, 47, 3⟩] }
def sS : State :=
  { ((run.setFs 31 [(F.LATCH_SCTX_EN, 1)]).setF F.LATCH_SMASK_MASK 124 1).setFs 0 [(F.FAN_CFG_PARENT, 63)] with arrivals := [⟨0, true, 31, 0, 0⟩] }

theorem test_arrivals_count :
    ({ sT with arrivals := [] } : State).arrivalCheck ⟨0, false, 7, 47, 3⟩ = 0 ∧
    gives .thresholdArrive sT (fun t => t.getF F.LATCH_TCTX_GEN 7 == 1 && t.latch 0 47 == 3) = true ∧
    ({ sS with arrivals := [] } : State).arrivalCheck ⟨0, true, 31, 0, 0⟩ = 0 ∧
    gives .thresholdArrive sS (fun t => t.getF F.LATCH_SCTX_GEN 31 == 1) = true := by decide +kernel

def token (kind gen tb : Nat) : List Byte := leBytes 1 1 ++ leBytes 1 kind ++ leBytes 1 5 ++ leBytes 1 0 ++ leBytes 2 gen ++ leBytes 2 9 ++
  leBytes 8 0 ++ leBytes 8 tb ++ leBytes 8 0
def kTok (kind gen tb : Nat) : Packet := { pk ptTOKEN 2 (token kind gen tb) (.port 35) with fan := true, tree := 9 }
/-- Context 5 with port 35 a child. -/
def sKid (start : Nat) : State := { sCtx.setFs 5 [(F.LATCH_SCTX_START, start)] |>.setF F.FAN_CFG_PORTS 9 (2 ^ 35) with inbox := [kTok 1 0 40] }
def sPar : State := { (sCtx.setFs 5 [(F.LATCH_SCTX_START, 0)]).setFs 9 [(F.FAN_CFG_PORTS, 2 ^ 35), (F.FAN_CFG_PARENT, 35)] with inbox := [kTok 2 0 40] }

theorem test_tokens_count :
    takeFirst (isToken 1) (sKid 0).inbox = some (kTok 1 0 40, []) ∧ ({ sKid 0 with inbox := [] } : State).tokenCheck (kTok 1 0 40) true = 0 ∧
    (sKid 0).isStart (tkCtx (kTok 1 0 40).body) = false ∧ tkKind (kTok 1 0 40).body = 1 ∧
    gives .arriveToken (sKid 0) (fun t => tget 0 (t.sctxOf 5).kids 35 == 1) = true ∧
    ({ sKid 1 with inbox := [] } : State).tokenCheck (kTok 1 0 40) true = 0 ∧ (sKid 1).isStart 5 = true ∧
    gives .arriveToken (sKid 1) (fun t => tget 0 (t.sctxOf 5).kids 35 == 1 && tget 0 (t.sctxOf 5).latest 0 == 40) = true ∧
    takeFirst (isToken 2) sPar.inbox = some (kTok 2 0 40, []) ∧ ({ sPar with inbox := [] } : State).tokenCheck (kTok 2 0 40) false = 0 ∧
    gives .completeToken sPar (fun t => t.getF F.LATCH_SCTX_GEN 5 == 1) = true := by decide +kernel

/-- Partition 0 has a step of plan 1 waiting and may arrive for it. -/
def sArr : State :=
  { sCtx.setFs 0 [(F.SEC_PCTL_STATE, 1), (F.TIME_STATUS_LEFT, 0)] with
    parts := [], plans := [(1, { Plan.init with cores := [], weightState := 2, startCtx := 5 })], steps := [⟨0, 1, 7, [], 0, false, none⟩] }

theorem test_steps_arrive :
    ({ sArr with steps := [] } : State).nextStepOf 0 = none ∧ sArr.getF F.PWR_STATUS_STATE 0 = 0 ∧ sArr.boot.quiet = false ∧
    gives (.startArrive 0 [] [] []) { sArr with steps := [] } (fun t => (t.part 0).started) = true ∧
    sArr.nextStepOf 0 = some ⟨0, 1, 7, [], 0, false, none⟩ ∧ sArr.mayArrive 0 1 = true ∧ (sArr.plan 1).evicted = false ∧
    ((sArr.modPart 0 (fun x => { x with waitDigest := true })).part 0).waitDigest = true := by decide +kernel

/-! ## Control messages -/

/-- Ranuat is ready, partition 0 has plan 1 and HBM, and its slice of 1 MiB ends the block. -/
def cs : State :=
  { st [(F.CTL_STATUS_READY, 0, 1), (F.MEM_PHBM_EN, 0, 1), (F.MEM_PHBM_LOG2C, 0, 3), (F.SEC_PRING_POOL_MIB, 0, 1),
      (F.SEC_PRING_BASE, 0, 16), (F.SEC_PRING_COUNT, 0, 4), (F.RQT_PART_CUST_COUNT, 0, 8), (F.RQT_PART_ENT_COUNT, 0, 4),
      (F.SEC_PPANE_PANES, 0, 1), (F.SEC_PCTL_STATE, 0, 1), (F.CTL_FEAT0_CORES, 0, 256)] with
    boot := { Boot.init with policy := List.replicate 16 ⟨2 ^ 32 - 1, 2 ^ 36 - 1, true, true⟩, held := false }
    plans := [(1, { Plan.init with
      regions := [⟨0, 0, 65536, 2 ^ 30⟩]
      area := some ⟨0, 0, 2, 65536⟩
      slots := [List.replicate 64 0]
      weights := [] })] }

/-- The message is taken and may act. -/
def admits (s : State) (h : Ctl) (f : Fns) (a b : Bool) : Bool :=
  decide (h.fn ≤ 16) && s.flag F.CTL_STATUS_READY 0 && (s.takeEntry h).controlStop h.op h f a b == 0

theorem test_admits_is_admits (s : State) (h : Ctl) (f : Fns) (a b : Bool) (e : admits s h f a b = true) : s.Admits h.op h f a b := by
  simpa [admits, State.Admits, and_assoc] using e

/-- The result of the reply that waits. -/
def result (t : State) : List Byte := (t.replies.map (fun r => r.bytes.getD 2 0))

def vf (op len addr : Nat) : Ctl := { ctl op 1 len with addr := addr }
def cQ : State := cs.setReq 3 { Req.init with state := 1, tag := 99 }

theorem test_queries_answer :
    admits cs (ctl 4 0 0) .both false true = true ∧ (cs.putRecord (ctl 4 0 0) (cs.shareRecord 0)).2 = true ∧
    gives (.partitionInfo (ctl 4 0 0)) cs (fun t => result t == [0]) = true ∧
    admits cQ (vf 9 0 65536) .vf false false = true ∧ cQ.byTag 0 99 = some 3 ∧
    (cQ.putRecord (vf 9 0 65536) ((cQ.req 3).bytes (cQ.serve 0).cfg)).2 = true ∧
    gives (.reqQuery (vf 9 0 65536) 99) cQ (fun t => result t == [0] && t.byte 65537 == 1) = true ∧
    admits cs (ctl 0x13 0 0) .pf false true = true ∧ gives (.logFlush (ctl 0x13 0 0)) cs (fun t => result t == [0]) = true := by decide +kernel

def cPin : State := cs.setQp 511 ⟨1, false, []⟩

theorem test_settings_take_hold :
    admits cs (ctl 0x0D 1 0) .both true false = true ∧ gives (.peepEnable (ctl 0x0D 1 0) 767 1 true) cs (fun t => t.peepOn 767 0 && result t == [0]) = true ∧
    admits (cs.setF F.SEC_DEBUG_LEVEL 0 1) (ctl 0x0D 0 0) .both true false = true ∧
    gives (.peepEnable (ctl 0x0D 0 0) 1023 65535 true) (cs.setF F.SEC_DEBUG_LEVEL 0 1) (fun t => t.peepOn 1023 0) = true ∧
    cs.ringRange 1 19 = true ∧ cs.ringRange 1 20 = false ∧ cs.ringFits 1 19 ⟨4, 1, 4096, 4, 2047, 32, 0, 0, 0, 0, 0⟩ = true ∧
    admits cs (ctl 0x0E 1 0) .both true true = true ∧ gives (.ringSetup (ctl 0x0E 1 0) [⟨19, 4, 4, 4096, 2047, 0⟩]) cs (fun t => (t.ring 19).role == 4) = true ∧
    gives (.pin (ctl 0x0F 0 0) 15 true) cs (fun t => t.getF F.CTL_PIN_PINNED 0 == 32768) = true ∧
    admits cPin (ctl 0x0C 1 0) .vf true false = true ∧ cPin.ownsQp 0 1 255 = true ∧
    gives (.qpConnect (ctl 0x0C 1 0) 1 255 true) cPin (fun t => (t.qp 511).conn && result t == [0]) = true := by decide +kernel

/-- A serving configuration of plan 1: two lanes, one HBM page of 4 KiB frames, one node. -/
def scB : List Byte := leBytes 1 1 ++ leBytes 1 1 ++ leBytes 2 2 ++ leBytes 4 1 ++ leBytes 6 65536 ++ leBytes 1 12 ++ leBytes 1 0 ++
  leBytes 6 0x100000 ++ leBytes 2 0 ++ leBytes 4 1 ++ leBytes 4 0 ++ leBytes 4 0 ++ leBytes 6 0x200000 ++ leBytes 2 0 ++ leBytes 4 1 ++
  List.replicate 40 0 ++ leBytes 4 1 ++ List.replicate 36 0
def smB : List Byte := leBytes 1 1 ++ leBytes 3 0 ++ leBytes 2 1 ++ leBytes 2 8 ++ leBytes 2 8 ++ leBytes 2 0 ++ leBytes 4 100 ++
  leBytes 6 0x300000 ++ leBytes 6 0x300000 ++ leBytes 2 1 ++ leBytes 6 0x400000 ++ List.replicate 28 0
def cuB : List Byte := leBytes 1 1 ++ leBytes 1 1 ++ leBytes 1 3 ++ leBytes 1 0 ++ leBytes 4 (2 ^ 24 - 1) ++ leBytes 4 1 ++ List.replicate 52 0

/-- The bytes stand at address 65536. -/
def withB (s : State) (bs : List Byte) : State := (s.write 65536 [] bs).1
def cSmp : State := withB (cs.setFs 0 [(F.RQT_SERVE_OPEN, 1), (F.RQT_SERVE_COMPOSER, 1)]) smB

theorem test_serving_is_configured :
    scB.length = 128 ∧ admits (withB cs scB) (vf 5 128 65536) .vf true false = true ∧ ((withB cs scB).payload (vf 5 128 65536)).2 = some scB ∧
    ((withB cs scB).payload (vf 5 128 65536)).1.scCheck 0 scB = 0 ∧
    gives (.serveConfig (vf 5 128 65536)) (withB cs scB) (fun t => (t.serve 0).newCfg == some scB && result t == [0]) = true ∧
    smB.length = 64 ∧ (cSmp.payload (vf 6 64 65536)).2 = some smB ∧ (cSmp.payload (vf 6 64 65536)).1.smpCheck 0 smB = 0 ∧
    gives (.samplerConfig (vf 6 64 65536)) cSmp (fun t => (t.serve 0).newSmp == some (true, smB) && result t == [0]) = true ∧
    cuB.length = 64 ∧ ((withB cs cuB).payload (vf 7 64 65536)).2 = some cuB ∧
    gives (.customerSet (vf 7 64 65536) 7) (withB cs cuB) (fun t => (t.serve 0).custs == [(7, cuB)] && result t == [0]) = true ∧
    gives (.prioSet (ctl 8 1 16)) cs (fun t => (t.serve 0).prios == some [0, 0, 0, 0] && result t == [0]) = true := by decide +kernel

/-- An entry of the section table. -/
def sect (typ off : Nat) : List Byte := leBytes 1 1 ++ leBytes 1 typ ++ leBytes 2 0 ++ leBytes 4 1 ++ leBytes 8 off
/-- A plan image: one node, one core whose stream is one STEP_END, no slot constants, the start context 0 without tree. -/
def img : Image :=
  { signed := padTo 4096 (leBytes 1 1 ++ leBytes 3 0x49504E ++ leBytes 1 1 ++ leBytes 1 0 ++ leBytes 2 4 ++ leBytes 4 1 ++ leBytes 4 1 ++
      leBytes 8 0 ++ leBytes 4 10 ++ leBytes 4 500 ++ leBytes 8 4360 ++ leBytes 2 0 ++ leBytes 1 1 ++ List.replicate 213 0 ++
      sect 1 320 ++ sect 4 400 ++ sect 5 500 ++ sect 0x7F 4160) ++ leBytes 64 dSe.toNat
    sizes := [64, 64, 64, 0]
    streams := [⟨0, 0, 4096, 1⟩]
    regions := []
    params := [⟨0, 0, List.replicate 64 0⟩]
    thresholds := [⟨1, 0, true, [], 0⟩]
    fans := []
    routes := []
    rings := []
    sig := leBytes 1 1 ++ leBytes 1 1 ++ List.replicate 198 0
    sigOk := true }
def pl : Placing := ⟨0, [0], [(0, 0)], [(0, 0)], 0, [0x60000000], [0x50000000], [], [], [], 1, [], 0, []⟩
def cPlan : State := cs.modPsec 0 (fun x => { x with planKey := some img.signer })

theorem test_plan_image_passes :
    img.signed.length = 4160 ∧ admits cPlan (ctl 1 1 4360) .vf true false = true ∧ cPlan.inStep 0 = false ∧
    (cPlan.imageChecks 0 4360 img).code = 0 ∧ (cPlan.imageChecks 0 4361 img).code = ldSECTION ∧
    (cPlan.modPart 0 (fun x => { x with running := true })).loadWaits (ctl 1 1 4360) = true := by decide +kernel

theorem test_plan_is_placed :
    (cPlan.placeChecks 0 img pl).1.code = 0 ∧ (cPlan.placeChecks 0 img pl).2.1.others = 0 ∧ (cPlan.placeChecks 0 img pl).2.2 = [] ∧
    cPlan.evictAll [] [] [] = (cPlan, true) ∧
    bindCores (cPlan.eligible 0) img.n img.paneAlign = some [0] := by decide +kernel

def q1 : Plan := { (cs.plan 1) with weightState := 2 }
def cStep : State := cs.setPlan 1 q1
/-- A record of the plan, and a source-map entry of a kind for it: its storage at the queue pairs 0 and 1. -/
def wrec (len : Nat) : WRec := wrecInit 0 ⟨1, 1, 0, 0, 0, 0, len, 0, 0, 0⟩
def smE (kind : Nat) : List Byte := leBytes 1 1 ++ leBytes 1 kind ++ leBytes 2 0 ++ leBytes 4 0 ++ leBytes 4 0 ++ leBytes 16 0 ++ leBytes 2 0 ++ leBytes 2 1 ++
  leBytes 4 3 ++ leBytes 4 4 ++ leBytes 8 64 ++ leBytes 8 128 ++ List.replicate 8 0
def cMap (es : List Byte) : State :=
  ((withB (cs.setPlan 1 { q1 with weights := [wrec 4096], weightState := 0 }) es).setQp 0 ⟨1, true, []⟩).setQp 1 ⟨1, true, []⟩

theorem test_plans_are_used :
    cs.handlePlan (ctl 2 1 0) = some (cs.plan 1) ∧ gives (.unloadPlan (ctl 2 1 0)) cs (fun t => t.plans == [] && result t == [0]) = true ∧
    (cStep.plan 1).stepCount = 64 ∧ (cStep.payload (vf 3 256 65536)).2 = some (List.replicate 256 0) ∧
    gives (.step (vf 3 256 65536) [] []) cStep (fun t => t.steps == [] && (t.part 0).payload.length == 256) = true := by
  decide +kernel

theorem test_weight_load :
    ((cMap (smE 1)).payload (vf 0x0A 64 65536)).2 = some (smE 1) ∧
    gives (.weightLoad (vf 0x0A 64 65536) []) (cMap (smE 1)) (fun t => (t.plan 1).weightState == 1 &&
      (t.qp 0).reads == [⟨1, 0, false, 0, 3, 64, 4096, 0⟩]) = true ∧
    gives (.weightLoad (vf 0x0A 64 65536) []) (cMap []) (fun t => (t.plan 1).weightState == 3) = true ∧
    ((cMap (smE 1)).plan 1).repairs [smE 1] = false ∧
    gives (.weightLoad (vf 0x0A 64 65536) []) ((cMap (smE 1)).modPart 0 (fun x => { x with running := true, plan := 1 })) (fun t =>
      (t.plan 1).wlWait == [(vf 0x0A 64 65536, smE 1)]) = true := by decide +kernel

def cAda : State := (cs.setQp 0 ⟨1, true, []⟩).setQp 1 ⟨1, true, []⟩

theorem test_adapter_loads :
    cAda.adapterSlot 1 5 = none ∧ smFieldsOk (smE 1) = true ∧ smKind (smE 1) = 1 ∧ cAda.smQpsOk 0 (smE 1) = true ∧ smStart (smE 1) < segsOf 65536 ∧
    cAda.chooseSlot 0 1 ⟨0, 0, 2, 65536⟩ = some 0 ∧
    gives (.adapterLoad (ctl 0x0B 1 0) 5 256 65536 1 (smE 1)) cAda (fun t => ((t.plan 1).aloads.map (fun l => (l.id, l.slot))) == [(5, 0)] &&
      (t.dir 1 0).1 == 1 && (t.qp 0).reads.length == 1) = true := by decide +kernel

def own : Owners := ⟨2 ^ 31, 0, 20, 4, 1, 8 + 3 * 256 + 65536, 0, [63], 0, []⟩

theorem test_partitions_come_and_go :
    cs.exists' 15 = false ∧ (((cs.setOwners 15 own).create 15).exists' 15) = true ∧ own.ok = true ∧
    (cs.setOwners 15 own).createErr 15 = 0 ∧ cs.createErr 15 ≠ 0 ∧ gives (.create 15) cs (fun t => !t.exists' 15 && t.getF F.SEC_PCTL_ERR 15 ≠ 0) = true ∧
    cs.plansOf 0 ≠ [] ∧ gives (.teardown 0) cs (fun t => t.getF F.SEC_PCTL_ERR 0 == 4) = true ∧
    gives (.create 15) (cs.setOwners 15 own) (fun t => t.exists' 15 && t.getF F.CORE_ID_PARTITION 255 == 15) = true ∧
    admits cs (ctl 0x10 0 0) .pf true false = true ∧ gives (.partCreate (ctl 0x10 0 0) 15 own) cs (fun t => t.exists' 15 && result t == [0]) = true ∧
    ({ cs with plans := [] } : State).plansOf 0 = [] ∧ (cs.psecOf 0).tear = false ∧ cs.exists' 0 = true ∧
    admits cs (ctl 0x11 0 0) .pf false false = true ∧
    gives (.teardown 0) { cs with plans := [] } (fun t => !t.exists' 0) = true ∧
    gives (.partTeardown (ctl 0x11 0 0) 0) { cs with plans := [] } (fun t => !t.exists' 0 && result t == [0]) = true := by decide +kernel

/-- An image of 264 bytes in the firmware window. -/
def fwB : List Byte := leBytes 1 1 ++ leBytes 3 0x544E52 ++ leBytes 4 9 ++ leBytes 4 0 ++ leBytes 4 264 ++ List.replicate 48 0 ++
  leBytes 1 1 ++ leBytes 1 1 ++ List.replicate 198 0
def fwS : State :=
  { st [(F.BOOT_STATUS_STAGE, 0, 8)] with
    fwin := ((fwB.zipIdx.filter (fun x => x.1 != 0)).map (fun x => (x.2, x.1)))
    boot := { Boot.init with held := false, fwKey := leNat (sha384 (List.replicate 96 0)) } }
def fwGo : State := fwS.setF F.CTL_FWLOAD_LEN 0 264

theorem test_firmware_starts :
    bitsOf (1 + 264 * 2 ^ 32) 32 21 = 264 ∧ fwGo.fwWaits = true ∧ fwGo.fwCheck 264 true = fwOK ∧
    (fwGo.fwStart 9 0 0 0).flag F.BOOT_STATUS_VESTIBULE 0 = false := by decide +kernel

def fwR : State := fwS.setF F.CTL_STATUS_READY 0 1
def updH : Ctl := ctl 0x12 0 264
def upd0 (taken : Bool) : State := { fwR.setF F.TIME_NOW_NS 0 (100000000) with upd := some ⟨updH, 9, 0, 0, 0, taken⟩ }

theorem test_firmware_updates :
    admits fwR updH .pf false false = true ∧ fwR.fwCheck updH.len true = fwOK ∧ fwR.locks.any (fun l => l.1 == 0 || l.1 == 3 || l.1 == 4) = false ∧
    fwR.getF F.CTL_STATUS_SVN 0 ≤ fiSvn (fwR.fwBytes 0 64) ∧ fiIface (fwR.fwBytes 0 64) = fwR.fw.iface ∧
    gives .updateDrainTimeout (upd0 false) (fun t => t.upd == none && result t == [7]) = true ∧
    gives .handoverTimeout (upd0 true) (fun t => t.upd == none && t.getF F.CTL_FWSTAT_RESULT 0 == fwTIMEOUT) = true := by decide +kernel
/-! ## Memory -/

/-- Partition 15 owns HBM channels 8 to 15. -/
def ms : State :=
  { st [(F.MEM_PHBM_EN, 15, 1), (F.MEM_PHBM_LOG2C, 15, 3), (F.MEM_PHBM_FIRST, 15, 8)] with boot := { Boot.init with held := false } }
/-- The first and the last granule of its block. -/
def g0 : Nat := 8 * 1500000000 / 64
def g1 : Nat := 16 * 1500000000 / 64 - 1
/-- The last granule of the scratchpad window of core 255, and one where nothing is mapped. -/
def gWin : Nat := (windowBase + 255 * windowStride + spadSize - 64) / 64
def gNone : Nat := hbmSize / 64

theorem test_granule_is_written :
    ms.ownerOf (64 * g0) = some 15 ∧ ms.ownerOf (64 * g1) = some 15 ∧ ms.ownerOf (64 * g1 + 64) = none ∧
    tget 0 ms.unavail (ms.chanOf 15 (64 * g1)).1 ≤ ms.now ∧ (ms.chanOf 15 (64 * g1)).2 = 0 ∧ (ms.key 15).revoked = false ∧
    gives (.memAccess g1 true 0 (List.replicate 64 7) 0) ms (fun t => t.bytes (64 * g1) 64 == List.replicate 64 7 && t.mem.length == 64 &&
      t.regs == ms.regs) = true ∧
    gives (.memAccess g0 true 63 [9] 3) (ms.setGran g0 ⟨0, false⟩) (fun t => t.byte (64 * g0 + 63) == 9 && t.mem.length == 1) = true ∧
    gives (.memAccess g0 true 0 [9] 3) { ms with keys := [(15, ⟨4, false⟩)] } (fun t => t.gran' g0 == ⟨4, false⟩) = true ∧
    ms.place (64 * gWin) = .window 255 (6 * 2 ^ 20 - 64) ∧ ms.refreshing (64 * gWin) = false ∧ ms.coreIn 255 = false ∧
    gives (.memAccess gWin true 63 [9] 0) ms (fun t => t.byte (64 * gWin + 63) == 9 && t.regs == ms.regs) = true := by decide +kernel

/-- The memory key of partition 15 is revoked. -/
def msK : State := { ms with keys := [(15, ⟨4, true⟩)] }
def msP : State := ms.setGran g0 ⟨0, true⟩

theorem test_refused_memory :
    (msK.key 15).revoked = true ∧ msK.ownerOf (64 * g0) = some 15 ∧ msK.dark = false ∧ msK.getF F.PWR_STATUS_STATE 0 = 0 ∧
    gives (.memAccess g0 false 0 [] 0) msK (fun t => t.getF F.MEM_ERR_CAUSE 0 == causeKEY && t.mem == []) = true ∧
    gives (.memAccess g0 true 0 (List.replicate 64 7) 0) msK (fun t => t.mem == [] && t.gran == msK.gran) = true ∧
    (msP.gran' g0).poison = true ∧
    gives (.memAccess g0 false 0 [] 0) msP (fun t => t.getF F.MEM_ERR_CAUSE 0 == causePOISON_READ) = true ∧
    gives (.memAccess g0 true 63 [9] 0) msP (fun t => t.getF F.MEM_ERR_CAUSE 0 == causePARTIAL_POISON && t.mem == []) = true ∧
    gives (.memAccess g0 true 63 [9] 4) ms (fun t => (t.gran' g0).poison && t.mem == []) = true := by decide +kernel

theorem test_reads_are_checked :
    gives (.memAccess g0 false 0 [] 3) ms (fun t => t.getF F.MEM_ECC_HBM_CE 0 == 1 && t.gran == []) = true ∧
    ms.flag F.MEM_ERR_VALID 0 = false ∧
    gives (.memAccess g0 false 0 [] 4) ms (fun t => (t.gran' g0).poison && t.getF F.MEM_ERR_CAUSE 0 == 1 &&
      t.getF F.MEM_ERR_ADDR_ADDR 0 == 64 * g0 && t.getF F.MEM_ERR_PARTITION 0 == 15) = true ∧
    ms.place (64 * gNone) = .unmapped ∧ ms.ownerOf (64 * gNone) = none ∧
    gives (.memAccess gNone false 0 [] 0) ms (fun t => t.busErrs == 1 && t.getF F.MEM_ERR_CAUSE 0 == 6) = true := by decide +kernel

theorem test_refresh_runs :
    gives (.hbmRefresh 255) (live <| st [(F.TIME_NOW_NS, 0, 14 * 255)]) (fun t => t.unavail == [(255, 14 * 255 + 137)]) = true ∧
    gives (.hbmRefresh 255) (live <| st [(F.TIME_NOW_NS, 0, 14 * 255 + 1950)]) (fun t => t.unavail == []) = true ∧
    gives (.hbmRefresh 255) (live <| st [(F.TIME_NOW_NS, 0, 14 * 255 + 1950), (F.MEM_STATUS_HOT, 0, 128)]) (fun t => t.unavail.length == 1) = true ∧
    gives (.cellarRefresh 7) (live <| st [(F.TIME_NOW_NS, 0, 1260), (F.MEM_STATUS_CELLAR_MAP, 0, 1)]) (fun t => t.unavail == [(263, 1440)]) = true ∧
    gives (.cellarRefresh 8) (live <| st [(F.TIME_NOW_NS, 0, 1440), (F.MEM_STATUS_CELLAR_MAP, 0, 1)]) (fun t => t.unavail == []) = true := by
  decide +kernel

def sScrub : State := ms.setF F.MEM_CTRL_SCRUB_H 0 24

theorem test_patrol_scrub :
    scrubGran sScrub.blocks 0 = some g0 ∧ ((sScrub.endSlice (some 8)).scrubHeld 8) = false ∧ (sScrub.gran' g0).poison = false ∧
    gives (.patrolScrub 4) sScrub (fun t => (t.gran' g0).poison && t.flag F.MEM_ERR_VALID 0 && t.mem == [] && t.locked 1 8) = true ∧
    gives (.patrolScrub 3) sScrub (fun t => t.scrubPos == 1 && t.gran == []) = true ∧
    (({ sScrub with locks := [(2, 8)] } : State).endSlice (some 8)).scrubHeld 8 = true ∧
    gives (.patrolScrub 4) { sScrub with locks := [(2, 8)] } (fun t => t.flag F.MEM_SCRUB_HELD 0 && t.scrubPos == 0) = true := by decide +kernel

def sSkew : State := { ms.setFs 0 [(F.MEM_CTRL_SKEW_EN, 1), (F.TIME_NOW_NS, 10000000)] with served := [(8, 8000000)] }

theorem test_monitor_window :
    sSkew.skewed 15 0 = some (8, 128) ∧ (List.range 15).all (fun q => sSkew.skewed q 0 == none) = true ∧
    gives .skewWindow sSkew (fun t => t.served == [] && t.flag F.MEM_SKEW_ADVISORY 0 && t.getF F.MEM_SKEW_PARTITION 0 == 15 &&
      t.getF F.MEM_SKEW_CHANNEL 0 == 8 && t.getF F.MEM_SKEW_WINDOWS 0 == 1) = true ∧
    sSkew.windowNo ≠ sSkew.skewWin ∧ ms.windowNo = ms.skewWin ∧ gives .skewWindow ms (fun t => t == ms) = true ∧
    gives (.hbmTempReport 7 86) ms (fun t => t.getF F.MEM_STATUS_HOT 0 == 128) = true ∧
    gives (.hbmTempReport 7 81) (ms.setF F.MEM_STATUS_HOT 0 128) (fun t => t.getF F.MEM_STATUS_HOT 0 == 128) = true ∧
    gives (.hbmTempReport 7 80) (ms.setF F.MEM_STATUS_HOT 0 128) (fun t => t.getF F.MEM_STATUS_HOT 0 == 0) = true := by decide +kernel

theorem test_blocks_are_set :
    gives (.memPhbmWrite 14 (0x10300 + 16)) ms (fun t => t.getF F.MEM_PHBM_FIRST 14 == 16 && t.flag F.MEM_PHBM_EN 14) = true ∧
    gives (.memPhbmWrite 14 (0x10300 + 8)) ms (fun t => t == ms) = true ∧ gives (.memPhbmWrite 14 0x10200) ms (fun t => t == ms) = true ∧
    gives (.memPcelWrite 0 0x10400) ms (fun t => t.getF F.MEM_PCEL_LOG2C 0 == 4) = true ∧
    gives (.memPcelWrite 0 0x10501) ms (fun t => t == ms) = true := by decide +kernel

def reqK (vc : Nat) : Packet :=
  { pk ptMEM_RD vc (leBytes 6 (64 * g0) ++ leBytes 1 15 ++ leBytes 1 0 ++ leBytes 2 5 ++ leBytes 2 64 ++ leBytes 4 0) (.port 0) with part := 15 }
def rspK : Packet := pk ptMEM_RSP 4 (leBytes 8 0 ++ leBytes 2 65535 ++ leBytes 6 0 ++ List.replicate 64 1) (.port 0)

theorem test_remote_memory_answers :
    gives (.memRequest []) { ms with inbox := [reqK 3] } (fun t =>
      t.rq.map (fun k => (k.pkt.ptype, k.pkt.vc, k.pkt.dnode, k.pkt.body.length)) == [(7, 4, 7, 80)]) = true ∧
    gives (.memRequest []) { ms with inbox := [reqK 1] } (fun t => t.rq.map (·.pkt.vc) == [0]) = true ∧
    ({ ms with tags := [(65535, .nobody)] } : State).tagged 65535 = some (65535, .nobody) ∧
    gives .memResponse { ms with inbox := [rspK], tags := [(65535, .nobody)] } (fun t => t.tags == [] && t.inbox == []) = true := by
  decide +kernel

/-! ## DMA and Reed–Solomon -/

/-- A descriptor: spaces, source, destination and bytes of one run. -/
def descB (sp src dst n : Nat) : List Byte := leBytes 1 1 ++ leBytes 1 0 ++ leBytes 1 sp ++ leBytes 1 0 ++ leBytes 8 src ++ leBytes 8 dst ++
  leBytes 3 n ++ leBytes 1 0 ++ leBytes 2 1 ++ leBytes 2 1 ++ leBytes 2 1 ++ List.replicate 34 0
/-- Channel 31 of jamb 1 serves partition 15; its ring of 16 slots stands at the block's start. -/
def ds : State := ms.setFs 63 [(F.DMA_CHCFG_EN, 1), (F.DMA_CHCFG_OWNER, 15), (F.DMA_CHCFG_NODE_EN, 1), (F.DMA_CHCFG_HOST_EN, 1), (F.DMA_RING_LOG2N, 4), (F.DMA_RING_BASE, g0 / 16)]
def flying (b : List Byte) (at' phase : Nat) : State := ds.setChan 63 ⟨[⟨0, b, 0, 0, at', 0, phase, []⟩], 1, false, false, 0⟩
def dLocal : List Byte := descB 0 (64 * g0 + 128) (64 * g0 + 1024) 100
def dPull : List Byte := descB 3 (2 ^ 60) (64 * g0 + 1024) 100
def dFar : List Byte := descB 2 128 (64 * g0 + 1024) 64

theorem test_rings_are_driven :
    gives (.dmaDoorbell 1 31 15) ds (fun t => t.getF F.DMA_TAIL_TAIL 63 == 15 && t.flag F.DMA_CHSTAT_BUSY 63) = true ∧
    gives (.dmaDoorbell 1 31 16) ds (fun t => t == ds) = true ∧
    gives (.dmaStop 1 31 1) ds (fun t => t.flag F.DMA_CHSTAT_STOPPED 63 && t.mem == []) = true ∧
    gives (.dmaStop 1 31 1) (flying dFar 0 1) (fun t => (t.chan 63).stopping && (t.chan 63).flight.length == 1) = true ∧
    gives (.dmaResume 1 31 2) (ds.setFs 63 [(F.DMA_CHSTAT_STOPPED, 1), (F.DMA_CHSTAT_FETCH_ERR, 1)]) (fun t =>
      !t.flag F.DMA_CHSTAT_STOPPED 63 && !t.flag F.DMA_CHSTAT_FETCH_ERR 63 && !t.chanStopped 63) = true ∧
    gives (.rsDoorbell 1 15 1) (ms.setF F.DMA_RSCFG_LOG2N 31 4) (fun t => t.getF F.DMA_RSTAIL_INDEX 31 == 1 && t.flag F.DMA_RSSTAT_BUSY 31) = true := by
  decide +kernel

theorem test_descriptor_fetch :
    ds.chanStopped 63 = false ∧ (match (ds.setF F.DMA_TAIL_TAIL 63 1).read (ds.slotAddr 63 0) 64 [] with
      | (_, .ok b) => b.length == 64
      | _ => false) = true ∧
    gives (.descriptorFetch 1 31 []) ((ds.setF F.DMA_TAIL_TAIL 63 1).write (64 * g0) [] dLocal).1 (fun t =>
      (t.chan 63).flight == [⟨0, dLocal, 0, 0, 0, 0, 0, []⟩] && (t.chan 63).next == 1) = true := by decide +kernel

theorem test_descriptor_moves :
    (flying dLocal 64 0).mayMove 63 0 ⟨0, dLocal, 0, 0, 64, 0, 0, []⟩ = true ∧ (flying dLocal 64 0).byRecord 63 ⟨0, dLocal, 0, 0, 64, 0, 0, []⟩ = false ∧
    (flying dLocal 64 0).side dLocal false 64 = .here (64 * g0 + 192) ∧
    gives (.dmaPiece 1 31 0 [] ⟨true, []⟩) (flying dLocal 64 0) (fun t => (t.chan 63).flight.map (·.at') == [100]) = true ∧
    (flying dPull 0 0).side dPull false 0 = .host (2 ^ 60) ∧ (flying dPull 0 0).bounced 15 = false ∧
    gives (.dmaPiece 1 31 0 [] ⟨true, [5]⟩) (flying dPull 0 0) (fun t => t.byte (64 * g0 + 1024) == 5 && (t.chan 63).flight.map (·.at') == [64]) = true ∧
    (flying dFar 0 0).side dFar false 0 = .there 0 128 ∧
    gives (.dmaPiece 1 31 0 [] ⟨true, []⟩) (flying dFar 0 0) (fun t => (t.chan 63).flight.map (·.phase) == [1] && t.rq.length == 1) = true ∧
    gives (.dmaTimeout 1 31 0) (flying dFar 0 1) (fun t => (t.chan 63).flight.map (·.status) == [0x22]) = true ∧
    gives (.dmaTimeout 1 31 0) ((flying dFar 0 1).setChan 63 { (flying dFar 0 1).chan 63 with stopping := true }) (fun t =>
      (t.chan 63).flight.map (·.status) == [0x24]) = true := by decide +kernel

theorem test_descriptor_completes :
    ((flying dLocal 100 0).finalStatus 63 ⟨0, dLocal, 0, 0, 100, 0, 0, []⟩ [] true).2 = some ⟨0, dLocal, 1, 0, 100, 0, 0, []⟩ ∧
    gives (.descriptorComplete 1 31 [] true) (flying dLocal 100 0) (fun t => t.getF F.DMA_HEAD_HEAD 63 == 1 && (t.chan 63).flight == [] &&
      t.getF F.DMA_CHSTAT_DONE 63 == 1 && t.byte (64 * g0 + 3) == 1) = true := by decide +kernel

def jobB (kind erased : Nat) : List Byte := leBytes 1 1 ++ leBytes 1 kind ++ leBytes 1 2 ++ leBytes 1 1 ++ leBytes 4 0 ++ leBytes 4 erased ++ leBytes 4 0 ++
  leBytes 8 64 ++ leBytes 6 (64 * g0 + 4096) ++ List.replicate 34 0
/-- The operand list: two data shards and one parity shard here. -/
def listB : List Byte := (List.range 3).flatMap (fun i => leBytes 4 0xFFFFF ++ leBytes 6 (64 * g0 + 8192 + 64 * i) ++ leBytes 6 0)
def js (kind erased : Nat) : State :=
  ((((ms.setFs 31 [(F.DMA_RSCFG_EN, 1), (F.DMA_RSCFG_LOG2N, 4), (F.DMA_RSCFG_BASE, g0 / 16), (F.DMA_RSTAIL_INDEX, 1)]).write (64 * g0) [] (jobB kind erased)).1.write
    (64 * g0 + 4096) [] listB).1.write (64 * g0 + 8192) [] (List.replicate 64 3 ++ List.replicate 64 5 ++ List.replicate 64 6)).1

theorem test_jobs_run :
    jKind (((js 1 0).fetchJob 31 1 []).rsJob 31).bytes = 1 ∧
    gives (.encode 1 15 []) (js 1 0) (fun t => t.byte (64 * g0 + 8192 + 128) == 6 && (t.rsJob 31).phase == 4) = true ∧
    jKind (((js 2 1).fetchJob 31 2 []).rsJob 31).bytes = 2 ∧
    gives (.rebuild 1 15 []) (js 2 1) (fun t => t.byte (64 * g0 + 8192) == 3 && (t.rsJob 31).phase == 4) = true := by decide +kernel

def jDone : State := (js 1 0).setJob 31 ⟨jobB 1 0, [], 0, 0, 64, 4, 0, [], 0⟩

/-- The job awaits a response from 0 on, longer than TIMEOUT_US. -/
def jWait : State := ((js 1 0).setF F.TIME_NOW_NS 0 (10 ^ 10)).setJob 31 ⟨jobB 1 0, [], 0, 0, 0, 1, 1, [], 0⟩

theorem test_job_times_out :
    (jWait.rsJob 31).since + 1000 * jWait.getF F.DMA_CTRL_TIMEOUT_US 0 < jWait.now ∧
    gives (.encode 1 15 []) jWait (fun t => (t.rsJob 31).status == 0x22 && (t.rsJob 31).wait == 0) = true := by decide +kernel

theorem test_job_completes :
    jLatchEn (jobB 1 0) = false ∧ jNotify (jobB 1 0) = false ∧
    gives (.rsJobComplete 1 15) jDone (fun t => t.rsJob 31 == rsNone && t.getF F.DMA_RSHEAD_INDEX 31 == 1 && t.getF F.DMA_RSSTAT_DONE 31 == 1 &&
      t.byte (64 * g0 + 4) == 1) = true := by decide +kernel

theorem test_parity_recovers :
    rsSolve ([10, 200, 30].set 2 0) [2] (some (rsP [10, 200, 30])) none = [10, 200, 30] ∧
    gfMul 0x80 2 = 0x1D ∧ rsQ [1, 1, 1] = 7 := by decide +kernel

/-! ## Pane clocks -/

def good (n : Nat) : Cal := ⟨0, 4, n⟩
def sPane (x : PaneS) (l : List (Fld × Nat)) : State := ((live State.reset).setPane 31 x).setFs 31 l

theorem test_panes_change :
    gives (.paneFreqRequest 31 0x30) (live State.reset) (fun t => t.getF F.PANE_FREQ_REQ 31 == 3 && t.flag F.PANE_FREQ_PENDING 31) = true ∧
    (sPane PaneS.init [(F.PANE_FREQ_PENDING, 1)]).paneInStep 31 = false ∧ (sPane PaneS.init [(F.PANE_FREQ_PENDING, 1)]).mayLock 0 31 = true ∧ (sPane PaneS.init []).dark = false ∧
    (sPane PaneS.init []).panePinned 31 = false ∧ gives (.paneFreqRequest 31 0x30) State.reset (fun t => t == State.reset) = true ∧
    gives (.paneFreqChange 31) { sPane PaneS.init [(F.PANE_FREQ_PENDING, 1)] with locks := [(4, 0)] } (fun t => t.lockQ == [(0, 31)]) = true ∧
    gives (.paneFreqChange 31) (sPane PaneS.init [(F.PANE_FREQ_PENDING, 1), (F.PANE_FREQ_REQ, 2)]) (fun t =>
      t.getF F.PANE_FREQ_STATE 31 == 1 && (t.pane 31).target == 2 && !t.flag F.PANE_FREQ_PENDING 31) = true := by decide +kernel

theorem test_pane_restarts :
    calOk (good 3) (paneInTarget 3) = true ∧ calOk (good 6) 6 = true ∧ (sPane ⟨3, false, 0, false⟩ [(F.PANE_FREQ_STATE, 1)]).paneOwner 31 = none ∧
    gives (.paneRestart 31 900 (good 3) (good 6)) (sPane ⟨3, false, 0, false⟩ [(F.PANE_FREQ_STATE, 1)]) (fun t =>
      t.getF F.PANE_FREQ_STATE 31 == 0 && t.getF F.PANE_FREQ_CUR 31 == 3 && t.getF F.PANE_STOP_LAST_NS 31 == 900) = true := by decide +kernel

def sFail : State := (run.setFs 0 [(F.SEC_PPANE_PANES, 1), (F.SEC_PCTL_STATE, 1), (F.PANE_FREQ_STATE, 1)])

theorem test_pane_fails :
    calOk ⟨0, 0, 99⟩ (paneInTarget (sFail.pane 0).target) = false ∧ sFail.paneOwner 0 = some 0 ∧ sFail.stepActive 0 = true ∧
    gives (.emergClear 31) (sPane PaneS.init [(F.PANE_FREQ_EMERG, 1), (F.PANE_FREQ_CUR, 3)]) (fun t => !t.flag F.PANE_FREQ_EMERG 31 &&
      t.getF F.PANE_FREQ_REQ 31 == 2 && t.flag F.PANE_FREQ_PENDING 31) = true := by decide +kernel

theorem test_triggers_fire :
    gives (.droop 31) (live State.reset) (fun t => t.getF F.PANE_FREQ_STATE 31 == 1 && (t.pane 31).target == 3 && t.flag F.PANE_FREQ_EMERG 31) = true ∧
    gives (.droop 31) (live <| st [(F.PWR_STATUS_STATE, 0, 2)]) (fun t => t.getF F.PWR_EMERG_DROOP 0 == 0) = true ∧
    gives (.overcurrent 1) (live State.reset) (fun t => t.flag F.PANE_FREQ_EMERG 31 && !t.flag F.PANE_FREQ_EMERG 0) = true ∧
    gives .thermal (live State.reset) (fun t => t.flag F.PANE_FREQ_EMERG 31 && t.flag F.PANE_FREQ_EMERG 0) = true ∧
    gives (.prochot true) (live State.reset) (fun t => t.flag F.PWR_STATUS_PROCHOT 0 && t.flag F.PANE_FREQ_EMERG 16) = true := by decide +kernel

theorem test_triggers_in_other_states :
    gives (.droop 31) (live <| st [(F.PWR_STATUS_STATE, 0, 1)]) (fun t => t.getF F.PANE_FREQ_CUR 31 == 3 && t.flag F.PANE_FREQ_EMERG 31) = true ∧
    State.reset.dark = true ∧ gives (.droop 31) State.reset (fun t => t == State.reset) = true ∧
    gives (.droop 31) ((live State.reset).setF F.PANE_FREQ_STATE 31 1) (fun t => (t.pane 31).follow) = true ∧
    gives (.prochot false) (st [(F.PWR_STATUS_PROCHOT, 0, 1)]) (fun t => !t.flag F.PWR_STATUS_PROCHOT 0) = true ∧
    gives (.emergClear 31) (live <| st [(F.PANE_FREQ_EMERG, 31, 1), (F.PWR_STATUS_PROCHOT, 0, 1)]) (fun t => t.flag F.PANE_FREQ_EMERG 31) = true := by
  decide +kernel

/-! ## Time -/

theorem test_timebase_steps :
    (st [(F.TIME_CTRL_MASTER, 0, 1)]).idleSteps = true ∧
    gives (.timeStep (BitVec.ofInt 64 (-5))) (st [(F.TIME_CTRL_MASTER, 0, 1), (F.TIME_NOW_NS, 0, 3)]) (fun t => t.now == 2 ^ 64 - 2 && t.flag F.TIME_STATUS_STEPPED 0) = true ∧
    gives (.timeStep 5) (st [(F.TIME_CTRL_MASTER, 0, 0)]) (fun t => t == st [(F.TIME_CTRL_MASTER, 0, 0)]) = true ∧
    gives .timebaseStep (st [(F.TIME_CTRL_MASTER, 0, 0), (F.TIME_OFFSET_OFF, 0, 65 * 256), (F.TIME_NOW_NS, 0, 100)]) (fun t =>
      t.now == 35 && t.time.stepped) = true ∧
    gives .timebaseStep { st [(F.TIME_CTRL_MASTER, 0, 0), (F.TIME_NOW_NS, 0, 100)] with time := { TimeS.init with adj := -(5 * 2 ^ 32) } } (fun t =>
      t.now == 105 && t.time.adj == 0) = true ∧
    gives .ptpLost (st [(F.TIME_CTRL_MASTER, 0, 1), (F.TIME_STATUS_PTP_LOCKED, 0, 1)]) (fun t => !t.flag F.TIME_STATUS_PTP_LOCKED 0) = true ∧
    gives .beaconExchangeFail (st [(F.TIME_CTRL_MASTER, 0, 0), (F.TIME_STATUS_MISSED, 0, 1)]) (fun t => t.getF F.TIME_STATUS_MISSED 0 == 2) = true ∧
    gives .beaconExchangeFail (st [(F.TIME_CTRL_MASTER, 0, 0), (F.TIME_STATUS_MISSED, 0, 2), (F.TIME_CTRL_BKPORT, 0, 35)]) (fun t =>
      t.flag F.TIME_STATUS_ON_BACKUP 0 && t.getF F.TIME_STATUS_MISSED 0 == 0) = true ∧
    gives .beaconExchangeFail (st [(F.TIME_CTRL_MASTER, 0, 0), (F.TIME_STATUS_MISSED, 0, 2), (F.TIME_CTRL_BKPORT, 0, 63)]) (fun t =>
      t.flag F.TIME_STATUS_HOLDOVER 0 && t.getF F.TIME_STATUS_MISSED 0 == 3) = true := by decide +kernel

/-- The master takes PTP of domain 5 at 100 ns. -/
def sPtp : State := live <| st [(F.TIME_CTRL_MASTER, 0, 1), (F.TIME_CTRL_PTP_EN, 0, 1), (F.TIME_CTRL_PTP_DOMAIN, 0, 5), (F.TIME_NOW_NS, 0, 100)]
def ptp (kind : PtpKind) (two : Bool) : PtpMsg := ⟨1, 2, 5, kind, two, 9, 77, 3⟩

theorem test_ptp_measures :
    sPtp.stampAt 3 = 25603 ∧
    gives (.ptpMessage (ptp .sync true)) sPtp (fun t => t.time.ptpSync == some (9, none, 25603) && t.ptpOut == []) = true ∧
    gives (.ptpMessage (ptp .sync false)) sPtp (fun t => t.time.ptpReq == some (9, 77, 25603, 25603) && t.ptpOut == [(1, 2, 9, 25603)]) = true ∧
    gives (.ptpMessage (ptp .followUp false)) { sPtp with time := { sPtp.time with ptpSync := some (9, none, 4) } } (fun t =>
      t.time.ptpReq == some (9, 77, 4, 25603)) = true ∧
    sPtp.flag F.TIME_CTRL_MASTER 0 = true ∧ ((ptp .delayResp false).domain, (ptp .delayResp false).seq) = (5, 9) := by decide +kernel

/-! ## Beacons, ports and flits -/

/-- Port 35 in a state, with more fields of it. -/
def sq (st' : Nat) (l : List (Fld × Nat)) : State := (st [(F.PORT_STATUS_STATE, 35, st')]).setFs 35 l
/-- A beacon body from a package at depth 0, with number 65535 and receipt time 300 ns, received at 400 ns. -/
def bk (kind : Nat) : Packet := { pk ptBEACON 5 (State.reset.beaconBody kind true 65535 (300 * 256)) (.port 35) with stamp := 400 * 256 }
def sBk (st' kind : Nat) : State := { sq st' [] with inbox := [bk kind] }
/-- Port 35 leads to the parent; the package stands at a depth. -/
def child (d : Nat) (s : State) : State := s.setFs 0 [(F.TIME_CTRL_UPPORT, 35), (F.TIME_CTRL_MASTER, 0), (F.TIME_STATUS_DEPTH, d)]
/-- An exchange of port 35 with t1 0 waits for its response. -/
def sEx (st' t2 t3 : Nat) : State := (sBk st' 2).modPort 35 (fun x => { x with exch := some (65535, 0, t2, t3) })

theorem test_beacons_exchange :
    (sq 9 []).beaconOpen 35 = true ∧ (sq 9 []).parentPort 35 = false ∧
    gives (.beaconSyncSend 35) (sq 9 []) (fun t => t.time.seq == 1 && t.rq.map (·.pkt.vc) == [5]) = true ∧
    takeFirst (isBeacon 35 0) (sBk 8 0).inbox = some (bk 0, []) ∧ bkBad (bk 0).body = false ∧ (child 1 (sBk 8 0)).parentPort 35 = true ∧
    bkDepth (bk 0).body + 1 = (child 1 (sBk 8 0)).getF F.TIME_STATUS_DEPTH 0 ∧
    gives (.sync 35) (child 1 (sBk 8 0)) (fun t => (t.port 35).exch == some (65535, 0, 400 * 256, 0) && t.rq.length == 1) = true ∧
    bkDepth (bk 0).body + 1 ≠ (child 2 (sBk 8 0)).getF F.TIME_STATUS_DEPTH 0 ∧ (child 2 (sBk 8 0)).beaconPort = 35 ∧
    gives (.sync 35) (child 2 (sBk 8 0)) (fun t => t.getF F.TIME_STATUS_MISSED 0 == 1 && t.inbox == []) = true ∧
    takeFirst (isBeacon 35 1) (sBk 7 1).inbox = some (bk 1, []) ∧ bkBad (bk 1).body = false ∧
    gives (.delayReq 35) (sBk 7 1) (fun t => (t.port 35).acked == 7 && (t.port 35).tbeacon.map bkRx == [400 * 256]) = true := by decide +kernel

theorem test_offsets_are_measured :
    takeFirst (isBeacon 35 2) (sBk 8 2).inbox = some (bk 2, []) ∧ bkBad (bk 2).body = false ∧ bkSeq (bk 2).body = 65535 ∧
    (child 1 (sEx 8 512 (100 * 256))).pstate 35 = 8 ∧ (child 1 (sEx 8 512 (100 * 256))).getF F.TIME_CTRL_UPPORT 0 = 35 ∧
    unsigned 64 (((512 - 0 : Int) - ((bkRx (bk 2).body : Int) - 100 * 256)) / 2) = 2 ^ 64 - 25344 ∧
    (sEx 7 0 0).parentPort 35 = false ∧ (((sEx 7 0 0).port 35).burst, ((sEx 7 0 0).port 35).acked) = (0, 0) ∧
    gives (.delayResp 35) (sEx 7 (128 * 256) (300 * 256)) (fun t => (t.port 35).acked == 7) = true ∧
    gives (.delayResp 35) (sEx 7 (128 * 256 + 2) (300 * 256)) (fun t => (t.port 35).burst == 16 && t.time.adj == (64 * 256 + 1) * 2 ^ 24) = true ∧
    gives (.delayResp 35) (sEx 7 (8000 * 256) (300 * 256)) (fun t => (t.port 35).burst == 16) = true ∧
    gives (.delayResp 35) (sEx 7 (8000 * 256 + 2) (300 * 256)) (fun t => (t.port 35).hold3 && t.flag F.TIME_STATUS_LEFT 0) = true := by
  decide +kernel

def lane (locked clean : Nat) : Lanes := ⟨true, false, locked, 0, 0, clean⟩
/-- A training body of stage 1. -/
def tb (ack clean : Nat) : List Byte := leBytes 1 1 ++ leBytes 1 (1 + 8 * ack) ++ leBytes 2 0 ++ leBytes 1 2 ++ leBytes 1 3 ++ leBytes 1 clean ++
  List.replicate 25 0

theorem test_ports_start_training :
    (sq 9 []).mayLock 6 35 = true ∧ (sq 9 []).portsOff = false ∧ gives (.retrain 35 1) (sq 9 []) (fun t => t.pstate 35 == 2) = true ∧
    gives (.retrain 35 1) (sq 8 []) (fun t => t.pstate 35 == 2 && t.getF F.PORT_STATUS_CAUSE 35 == 0x0B) = true ∧
    gives (.partnerSignal 35 10000 true) ((sq 1 []).modPort 35 (fun x => { x with gone := true })) (fun t => t.pstate 35 == 2) = true ∧
    gives (.partnerSignal 35 9999 true) ((sq 1 []).modPort 35 (fun x => { x with gone := true })) (fun t => t.pstate 35 == 1) = true ∧
    gives (.partnerSignal 35 0 true) (sq 2 []) (fun t => t.pstate 35 == 3) = true ∧
    widthOf ((lane 0xFF 0xF0).clean &&& 0xFF) = 0xF0 ∧
    gives (.equalise 35 (lane 0xFF 0xF0)) (sq 3 []) (fun t => t.pstate 35 == 4 && (t.port 35).width == 0xF0) = true ∧
    calOk (good 8) 8 = true ∧ gives (.alignDone 35 (good 8) (good 8)) (sq 4 []) (fun t => t.pstate 35 == 5) = true ∧
    calOk ⟨0, 0, 8⟩ 8 = false ∧ gives (.alignDone 35 ⟨0, 0, 8⟩ (good 8)) (sq 4 []) (fun t => t.pstate 35 == 1) = true ∧
    gives (.trainingStageTimeout 35) (sq 4 [(F.TIME_NOW_NS, 0)]) (fun t => t.pstate 35 == 4) = true ∧
    gives (.trainingStageTimeout 35) ((sq 4 []).setF F.TIME_NOW_NS 0 10001) (fun t => t.pstate 35 == 2) = true ∧
    gives (.trainingStageTimeout 35) (((sq 7 []).setF F.TIME_NOW_NS 0 (10 ^ 9)).modPort 35 (fun x => { x with fails := 2 })) (fun t => t.pstate 35 == 1) = true := by decide +kernel

theorem test_ports_exchange_bodies :
    tbBad [] = true ∧ gives (.trainingFrame 35 0 0 []) (sq 7 []) (fun t => t.getF F.PORT_TRAIN_BAD_FRAMES 35 == 1) = true ∧
    tbBad (tb 1 0x0F) = false ∧ tbStage (tb 1 0x0F) = 1 ∧ bitAt (tbMask (tb 1 0x0F)) 1 = true ∧ tbAck (tb 1 0x0F) = true ∧
    gives (.trainingFrame 35 9 8 (tb 1 0x0F)) (sq 8 []) (fun t => t.pstate 35 == 2 && (t.port 35).rseq == 9 && (t.port 35).rack == 8) = true ∧
    gives (.trainingFrame 35 0 0 (tb 1 0x0F)) ((sq 5 []).modPort 35 (fun x => { x with clean := 0xFF })) (fun t =>
      t.pstate 35 == 6 && (t.port 35).width == 0x0F && t.getF F.PORT_STATUS_VMAJOR 35 == 1) = true ∧
    gives (.relock 35 true) (sq 12 []) (fun t => t.pstate 35 == 6) = true ∧
    gives (.relock 35 false) (sq 12 []) (fun t => t.pstate 35 == 2) = true := by decide +kernel

/-- Port 35 in UP at a width. -/
def up (w : Nat) : State := (sq 8 [(F.PORT_STATUS_WIDTH, w)]).modPort 35 (fun x => { x with width := w })

theorem test_ports_narrow :
    (lanesOf 0xFF).filter (laneFails 0xFF 0x80 []) = [7] ∧
    gives (.laneFail 35 0x80 []) (up 0xFF) (fun t => t.pstate 35 == 10 && (t.port 35).width == 0x0F && (t.port 35).half) = true ∧
    gives (.laneFail 35 0 [(3, 4097)]) (up 0xFF) (fun t => (t.port 35).width == 0xF0 && t.getF F.PORT_LANES_FAILED 35 == 8) = true ∧
    gives (.laneFail 35 0x10 []) (up 0xF0) (fun t => t.pstate 35 == 2 && t.getF F.PORT_STATUS_CAUSE 35 == 0x0E) = true ∧
    gives (.laneFail 35 0xF0 []) (up 0xF0) (fun t => t.getF F.PORT_STATUS_CAUSE 35 == 1) = true ∧
    (lanesOf 0xFF).filter (laneFails 0xFF 0 [(3, 4096)]) = [] ∧ gives (.laneFail 35 0 [(3, 4096)]) (up 0xFF) (fun t => t == up 0xFF) = true ∧
    gives (.degradeRealign 35) ((sq 10 []).modPort 35 (fun x => { x with width := 0xF0 })) (fun t =>
      t.pstate 35 == 8 && t.getF F.PORT_STATUS_WIDTH 35 == 0xF0) = true := by decide +kernel

theorem test_ports_sleep :
    (sq 8 []).mayLock 6 (35 + 128) = true ∧ (sq 8 []).mayLock 6 (35 + 192) = true ∧ gives (.sleep 35 4) (sq 8 []) (fun t => (t.port 35).ask == 1) = true ∧
    gives (.off 35 8) (sq 8 []) (fun t => (t.port 35).ask == 2) = true ∧ gives (.off 35 8) (sq 11 []) (fun t => t.pstate 35 == 13) = true ∧
    gives (.partnerSignal 35 0 false) (sq 11 []) (fun t => t.pstate 35 == 13) = true ∧
    gives (.wake 35 2) (sq 11 []) (fun t => t.pstate 35 == 12) = true ∧ gives (.wake 35 2) (sq 13 []) (fun t => t.pstate 35 == 2) = true ∧
    gives (.wake 35 2) ((sq 8 []).modPort 35 (fun x => { x with ask := 2 })) (fun t => t.pstate 35 == 8 && (t.port 35).ask == 0) = true ∧
    gives (.partnerWake 35) (sq 11 []) (fun t => t.pstate 35 == 12) = true ∧ gives (.partnerWake 35) (sq 13 []) (fun t => t.pstate 35 == 2) = true ∧
    gives (.sleepTimeout 35) (((sq 8 []).setF F.TIME_NOW_NS 0 10000).modPort 35 (fun x => { x with ask := 1, asked := true })) (fun t =>
      t.flag F.PORT_STATUS_SLEEP_REFUSED 35 && (t.port 35).ask == 0) = true := by decide +kernel

def fTrain : Flit := makeFlit 2 0 9 8 false false 7 0 false false (tb 1 0x0F)
def gone (reason node : Nat) : List Byte := leBytes 1 1 ++ leBytes 1 reason ++ leBytes 3 node

/-- A data flit with a number. -/
def fData (seq : Nat) : Flit := makeFlit 1 3 seq 0 false false 0 0 false false []

theorem test_flits_are_checked :
    leAt (flitBytes 0) 10 4 ≠ flitCrc (flitBytes 0) ∧
    gives (.flitReceive 35 0 0 false 0 0) (sq 5 []) (fun t => t.getF F.VCB_ERR_CRC_BAD 35 == 1 && (t.port 35).nakDue) = true ∧
    gives (.flitReceive 35 3 2 false 0 fTrain) (sq 10 []) (fun t => t.getF F.PORT_FEC_UNCORR 35 == 2 && t.getF F.PORT_FEC_CORRECTED 35 == 3) = true ∧
    flitBad (flitBytes (fData 0)) false = false ∧ (fType (flitBytes (fData 0)), fNak (flitBytes (fData 0))) = (1, false) ∧
    gives (.flitReceive 35 0 0 false 0 (fData 0)) (sq 9 []) (fun t => t.getF F.VCB_RXSEQ_NEXT_EXP 35 == 1) = true ∧
    seqGe 24 1 0 = true ∧ gives (.flitReceive 35 0 0 false 0 (fData 1)) (sq 8 []) (fun t => t.getF F.VCB_RXSEQ_NEXT_EXP 35 == 0 && (t.port 35).naking) = true ∧
    flitBad (flitBytes fTrain) false = false ∧ fType (flitBytes fTrain) = 2 ∧
    gives (.flitReceive 35 0 0 false 0 fTrain) (sq 8 []) (fun t => t.pstate 35 == 2 && (t.port 35).rseq == 9 && (t.port 35).rack == 8) = true := by
  decide +kernel

theorem test_going_away :
    (let b := padTo 242 (gone 2 0xFFFFF)
     leAt b 0 1 = 1 ∧ leAt b 1 1 = 2 ∧ leAt b 2 3 = (sq 8 [(F.PORT_NEIGH_NODE, 0xFFFFF)]).getF F.PORT_NEIGH_NODE 35 ∧
     (b.drop 5).any (fun x => x != 0) = false) ∧
    gives (.goingAway 35 (gone 2 0xFFFFF)) (sq 8 [(F.PORT_NEIGH_NODE, 0xFFFFF)]) (fun t => t.pstate 35 == 1 && t.getF F.PORT_STATUS_CAUSE 35 == 0x0A) = true ∧
    leAt (padTo 242 []) 0 1 ≠ 1 ∧ gives (.goingAway 35 []) (sq 8 []) (fun t => t == sq 8 []) = true := by decide +kernel

def fl (seq vc : Nat) : TxFlit := ⟨seq, vc, true, true, [], 0, ptDATA, 0⟩
/-- One packet of VC3 waits for port 35, which is about to use its last number. -/
def sTx : State := { ((sq 8 [(F.VCB_TXSEQ_NEXT_SEND, 2 ^ 24 - 1), (F.PORT_CFG_H_64K, 2)]).modPort 35 (fun x => { x with heff := 65536 })) with
  rq := [{ worm (pk ptMEM_RD 3 [] .unit) with seen := true, outs := [⟨35, 3, 0, 0⟩] }] }
def sRe (n : Nat) : State := (sq 9 [(F.VCB_TXSEQ_NEXT_SEND, 6)]).modPort 35 (fun x => { x with store := [fl 4 5, fl 5 5], replay := some n })

theorem test_flits_are_sent :
    sTx.pickFlit 35 = some ⟨0, 3, true, true, leBytes 1 3, 0, ptMEM_RD, 0⟩ ∧
    gives (.flitSlot 35 0) sTx (fun t => t.getF F.VCB_TXSEQ_NEXT_SEND 35 == 0 && t.rq == [] && (t.port 35).store.map (·.seq) == [2 ^ 24 - 1]) = true ∧
    (sq 9 []).pickFlit 35 = none ∧ gives (.flitSlot 35 0) (sq 9 []) (fun t => fType (flitBytes (t.port 35).sent) == 0) = true ∧
    ((sRe 5).port 35).store.find? (fun g => g.seq == 5) = some (fl 5 5) ∧
    gives (.flitSlot 35 0) (sRe 5) (fun t => (t.port 35).replay == none && fSeq (flitBytes (t.port 35).sent) == 5) = true ∧
    gives (.flitSlot 35 0) (sRe 4) (fun t => (t.port 35).replay == some 5) = true := by decide +kernel

theorem test_flits_of_the_link :
    gives (.flitSlot 35 0) ((sq 9 []).modPort 35 (fun x => { x with going := 1 })) (fun t => fType (flitBytes (t.port 35).sent) == 3) = true ∧
    gives (.flitSlot 35 0) ((sq 8 []).modPort 35 (fun x => { x with ask := 1 })) (fun t => (t.port 35).asked && fFlags (flitBytes (t.port 35).sent) == 1) = true ∧
    gives (.flitSlot 35 0) ((sq 8 []).modPort 35 (fun x => { x with grant := true })) (fun t => t.pstate 35 == 11 && fFlags (flitBytes (t.port 35).sent) == 2) = true ∧
    gives (.flitSlot 35 0) (sq 6 []) (fun t => fType (flitBytes (t.port 35).sent) == 2 && tbStage ((flitBytes (t.port 35).sent).drop 14) == 2) = true ∧
    gives (.flitSlot 35 0) ((sq 10 []).modPort 35 (fun x => { x with half := true, high := true })) (fun t =>
      fFlags (flitBytes (t.port 35).sent) == 24) = true := by decide +kernel

def sOld : State := ((sq 8 [(F.VCB_TXSEQ_NEXT_SEND, 6), (F.VCB_TXSEQ_OLDEST, 5)]).setF F.TIME_NOW_NS 0 (10 ^ 9)).modPort 35 (fun x =>
  { x with store := [{ fl 5 3 with since := 10 ^ 9 - 2000 }], naking := true })
def sHold : State := sOld.setFs 35 [(F.VCB_HOLD_HOLDING, 1), (F.PORT_STATUS_STATE, 1)]

theorem test_link_timers_fire :
    10 ^ 9 - 2000 + sOld.ackTimeout 35 ≤ sOld.now ∧ sOld.getF F.VCB_REPLAY_RUN 35 < 16 ∧
    gives (.ackTimeout 35) sOld (fun t => (t.port 35).replay == some 5 && t.getF F.VCB_REPLAY_RUN 35 == 1) = true ∧
    gives (.ackTimeout 35) (sOld.setF F.VCB_REPLAY_RUN 35 16) (fun t => t.pstate 35 == 2 && t.getF F.PORT_STATUS_CAUSE 35 == 9) = true ∧
    (sOld.port 35).nakAt + sOld.ackTimeout 35 ≤ sOld.now ∧ gives (.nakTimeout 35) sOld (fun t => (t.port 35).nakDue) = true ∧
    gives (.bsfSend 35) (sq 5 []) (fun t => (t.port 35).bsfDue) = true ∧ (sOld.port 35).bsfIn + 16000 ≤ sOld.now ∧
    gives (.creditTimeout 35) sOld (fun t => t.pstate 35 == 2 && t.getF F.PORT_STATUS_CAUSE 35 == 8) = true ∧
    (sHold.port 35).downAt + 1000 * sHold.getF F.VCB_HOLD_HOLD_US 35 ≤ sHold.now ∧
    gives (.holdTimeExpiry 35) sHold (fun t => !t.flag F.VCB_HOLD_HOLDING 35 && (t.port 35).store == []) = true := by decide +kernel

/-! ## Routing -/

def eW (set key planned dl : Nat) : Nat := 2 ^ 63 + set * 2 ^ 55 + key * 2 ^ 42 + planned * 2 ^ 36 + dl * 2 ^ 35
def kR (vc dnode : Nat) : Packet := { pk ptDATA vc [] .unit with dnode := dnode }
/-- Partition 0 owns port 35 and uses set 1; the group of node 256 leaves there. -/
def sRt : State := (sq 8 [] |>.setFs 0 [(F.SEC_PPORT_PORTS, 2 ^ 35), (F.RTE_PSET_SET, 1)]).wrReg .RTE_GRP 4095 (eW 1 2 35 1)

def sIn (k : Packet) (s : State) : State := { s with rq := [worm k] }
def kHere : Packet := { pk ptMEM_RD 3 [] .unit with dnode := 0 }
def sRun : State := { sRt with parts := [(0, { Part.init with running := true, started := true })] }

theorem test_packets_are_routed :
    sameCycle (sIn kHere State.reset).rq 4 [] = [worm kHere] ∧ kHere.lands = false ∧ (worm kHere).complete = true ∧ (State.reset).node = 0 ∧
    gives (.routeLookup 3) (sIn kHere State.reset) (fun t => t.inbox == [kHere] && t.rq == []) = true ∧ gives (.routeLookup 0) sRt (fun t => t == sRt) = true ∧
    sRt.findEntry (sRt.tableOf 256).1 0 1 (sRt.tableOf 256).2 = some (4095, eW 1 2 35 1) ∧ sRt.ownsPort 0 35 = true ∧ (sRt.port 35).drop = false ∧
    gives (.routeLookup 0) (sIn (kR 0 256) sRt) (fun t => t.rq.map (fun w => (w.seen, w.outs)) == [(true, [⟨35, 1, 0, 0⟩])] && t.inbox == []) = true ∧
    sRt.findEntry (sRt.tableOf 127).1 0 1 (sRt.tableOf 127).2 = none ∧ sRun.stepActive 0 = true ∧
    gives (.routeLookup 0) (sIn (kR 1 127) sRun) (fun t => t.flag F.RTE_MISS_VALID 0 && (t.part 0).aborted && !(t.part 0).running) = true := by
  decide +kernel

/-- Tree 4095 is in use by a running step of partition 0. -/
def sTree : State := { run with plans := [(1, { Plan.init with cores := [0], trees := [(0, 4095)] })] }

theorem test_route_entries :
    sRt.entryOk true 127 (eW 1 127 35 0) = true ∧ sRt.entryLive (sRt.rdReg .RTE_MBR 127) = false ∧ sRt.entryLive (eW 1 127 35 0) = false ∧
    gives (.rteEntryWrite true 127 (BitVec.ofNat 64 (eW 1 127 35 0))) sRt (fun t => t.rdReg .RTE_MBR 127 == eW 1 127 35 0) = true ∧
    sRt.entryOk true 0 (eW 1 128 35 0) = false ∧
    gives (.rteEntryWrite true 0 (BitVec.ofNat 64 (eW 1 128 35 0))) sRt (fun t => t.flag F.RTE_STATUS_REJECT 0) = true ∧
    sRt.fanEntryOk (setBits (2 ^ 63 + 63 * 2 ^ 53 + 2 ^ 49 + 2 ^ 35) 36 13 0) (sRt.rdReg .FAN_DL 4095) = true ∧
    gives (.fanEntryWrite 4095 0 (2 ^ 63 + 63 * 2 ^ 53 + 2 ^ 49 + 2 ^ 35)) sRt (fun t => t.flag F.FAN_CFG_VALID 4095) = true ∧
    gives (.fanEntryWrite 0 5 0) sRt (fun t => t.rdReg .FAN_CMASK 3 == 0) = true ∧
    gives (.rtePsetWrite 15 15) sRt (fun t => t.getF F.RTE_PSET_SET 15 == 15) = true ∧
    sRt.treeInUse 0 4095 = false ∧ sTree.treeInUse (bitsOf (sTree.rdReg .FAN_CFG 4095) 59 4) 4095 = true ∧
    gives (.fanEntryWrite 4095 5 0) sTree (fun t => t.flag F.RTE_STATUS_FAN_REJECT 0) = true := by decide +kernel

def kMg (eid hops : Nat) : Packet := { pk ptMGMT 5 (leBytes 1 1 ++ leBytes 1 eid ++ List.replicate 62 0) (.port 35) with arg := hops }
/-- A head flit of a management packet of 64 bytes from port 35. -/
def fMg : Flit := makeFlit 1 5 0 0 false false 0 0 true true (((({ kMg 9 1 with len := 64 } : Packet).cut.map (·.body))).headD [])
def sMg (eid hops : Nat) : State := { sq 8 [] with inbox := [kMg eid hops], eid := 9, boot := { Boot.init with mgmt := [(10, 35)] } }

theorem test_unplanned_packets :
    sRt.findEntry (sRt.tableOf 256).1 0 0 (sRt.tableOf 256).2 = none ∧
    gives (.routeLookup 0) (sIn (kR 4 256) sRt) (fun t => t.rq == [] && t.getF F.RTE_MISS_NODE 0 == 256 && t.getF F.RTE_MISS_VC 0 == 4 &&
      t.getF F.CTL_ABORT_COUNT 0 == 0) = true ∧
    gives (.routeLookup 0) (sIn (kR 3 256) (sRt.setFs 0 [(F.RTE_MISS_VALID, 1), (F.RTE_MISS_NODE, 3)])) (fun t =>
      t.flag F.RTE_MISS_OVERFLOW 0 && t.getF F.RTE_MISS_NODE 0 == 3) = true ∧
    (flitBad (flitBytes fMg) false, fType (flitBytes fMg), fVc (flitBytes fMg), fFirst (flitBytes fMg), fLast (flitBytes fMg)) = (false, 1, 5, true, true) ∧
    (parseHead ((flitBytes fMg).drop 14) 5 (.port 35) 0 0).map (·.flits) = some 1 ∧
    gives (.flitReceive 35 0 0 false 0 fMg) (sq 8 []) (fun t => t.inbox.map (·.ptype) == [ptMGMT] && t.rq == []) = true ∧
    takeFirst (fun k => k.ptype == ptMGMT) (sMg 9 0).inbox = some (kMg 9 0, []) ∧ gives .mgmtPacket (sMg 9 0) (fun t => t.mctpIn.length == 1) = true ∧
    (sMg 10 7).boot.mgmt.find? (fun r => r.1 == leAt (kMg 10 7).body 1 1) = some (10, 35) ∧
    gives .mgmtPacket (sMg 10 7) (fun t => t.rq.map (·.outs) == [[⟨35, 5, 0, 0⟩]] && t.inbox == []) = true ∧
    takeFirst (fun k => k.ptype == ptMGMT) (sMg 10 8).inbox = some (kMg 10 8, []) ∧ leAt (kMg 10 8).body 1 1 ≠ (sMg 10 8).eid ∧
    8 < (kMg 10 8).arg % 16 + 1 := by decide +kernel

/-! ## Weights and serving -/

/-- Plan 1 with one record of a segment and a byte, loading in region 0. -/
def wr (f : WRec → WRec) : WRec := f { wrec (2 ^ 20 + 1) with state := 1, kind := 2 }
def wS (f : WRec → WRec) : State := cs.setPlan 1 { cs.plan 1 with weightState := 1, weights := [wr f] }
/-- Storage of its last byte is due on queue pair 0, with queue pair 1 behind it; the read takes 4 bytes. -/
def wGot : State := (wS (fun w => { w with kind := 1, present := 1, qp1 := 1 })).setQp 0 ⟨1, true, [⟨1, 0, false, 1, 0, 0, 4, 0⟩]⟩
def wAt : Nat := (wGot.plan 1).recAddr (wr id) + segBytes
def wChain (version : Nat) : State := { wS (fun w => { w with pred := 7, succ := noSucc }) with
  mem := (withB cs (leBytes 1 version ++ leBytes 3 0 ++ leBytes 4 2 ++ leBytes 3 7)).mem.map (fun c => (c.1 - 65536 + (cs.plan 1).chainAddr (wr id), c.2)) }
/-- No plan; queue pair 511 is connected. -/
def wQp : State := { cs.setQp 511 ⟨1, true, []⟩ with plans := [] }

theorem test_weights_arrive :
    wGot.readTarget ⟨1, 0, false, 1, 0, 0, 4, 0⟩ = some wAt ∧ (wGot.qp 0).conn = true ∧
    (match (wGot.markAt wAt).write wAt [] [9] with
      | (_, .ok _) => true
      | _ => false) = true ∧
    gives (.rdmaReadResponse 0 0 false [9] []) wGot (fun t => t.byte wAt == 9 && (t.qp 0).reads == [⟨1, 0, false, 1, 0, 0, 4, 1⟩] &&
      t.getF F.DMA_WLBYTES_BYTES 0 == 1) = true ∧
    gives (.rdmaReadResponse 1 0 false [1] []) cs (fun t => t.getF F.DMA_WLNET_DROPPED 1 == 1) = true ∧
    gives (.rdmaRetryExhausted 1 255) wQp (fun t => !(t.qp 511).conn && t.getF F.DMA_WLSTAT_QP_ERRS 1 == 1) = true ∧
    (wr (fun w => { w with kind := 1, present := 1 })).unread = [1] ∧ wGot.plans.length = 1 ∧
    gives (.rdmaRetryExhausted 0 0) wGot (fun t => (t.plan 1).weights.map (·.alt) == [true]) = true ∧
    gives (.inboundPacket 1 2) cs (fun t => t == cs) = true ∧ gives (.inboundPacket 1 3) cs (fun t => t.getF F.DMA_WLNET_DROPPED 1 == 1) = true := by
  decide +kernel

def chainRead (version : Nat) : List Byte :=
  match ((wChain version).markAt ((cs.plan 1).chainAddr (wr id))).read ((cs.plan 1).chainAddr (wr id)) 64 [] with
  | (_, .ok b) => b
  | _ => []

theorem test_chain_word_read :
    ((wChain 1).plan 1).weights[0]? = some (wr (fun w => { w with pred := 7, succ := noSucc })) ∧
    leAt (chainRead 1) 0 1 = 1 ∧ leAt (chainRead 1) 8 3 % 2 ^ 20 = 7 ∧ 0 < min (leAt (chainRead 1) 4 4) (segsOf (2 ^ 20 + 1)) ∧
    leAt (chainRead 2) 0 1 = 2 ∧ gives (.chainPoll 1 0 []) (wChain 2) (fun t => (t.plan 1).weights.map (·.present) == [0]) = true := by
  decide +kernel

def wAnn : WRec := wr (fun w => { w with fwd := 2, ann := 1, present := 0, succ := 9, succAddr := 64 })
def wBrk : State := { wS (fun w => { w with rose := 0 }) with regs := (wS id |>.setF F.TIME_NOW_NS 0 (10 ^ 15)).regs }
def wLost : State := { wS (fun _ => { wAnn with acks := [(2, 1)] }) with regs := wBrk.regs }
def wRep : State := { wS (fun w => { w with broke := some 0 }) with regs := wBrk.regs }

theorem test_chains_go_on :
    tget 0 wAnn.acks (wAnn.ann + 1) = 0 ∧ tget 0 wAnn.acks 0 = 0 ∧
    gives (.chainWordWrite 1 0 []) (wS (fun _ => wAnn)) (fun t => (t.plan 1).weights.map (·.ann) == [2] && t.rq.length == 1) = true ∧
    (wr id).rose + 1000 * wBrk.getF F.DMA_WLCTRL_STALL_US 0 ≤ wBrk.now ∧
    gives (.chainBreak 1 0) wBrk (fun t => (t.plan 1).weights.map (·.broke) == [some (10 ^ 15)] && t.getF F.DMA_WLSTAT_BREAKS 0 == 1) = true ∧
    wLost.overdue { wAnn with acks := [(2, 1)] } = true ∧ gives (.succLost 1 0) wLost (fun t => (t.plan 1).weights.map (·.lost) == [true]) = true ∧
    (wS id).overdue (wr id) = false ∧ gives (.succLost 1 0) (wS id) (fun t => t == wS id) = true ∧
    1000000 * wRep.getF F.DMA_WLCTRL_REPAIR_MS 0 ≤ wRep.now ∧
    gives (.chainRepairTimeout 1 0) wRep (fun t => (t.plan 1).weights.map (·.state) == [3] && (t.plan 1).weights.map (·.code) == [wlCHAIN]) = true := by
  decide +kernel

/-- A SUBMIT, or another KIND, with a tag, 1 prompt token and 1 to generate. -/
def subB (kind tag : Nat) : List Byte := leBytes 1 1 ++ leBytes 1 kind ++ leBytes 2 0 ++ leBytes 4 0 ++ leBytes 8 tag ++ leBytes 4 0 ++
  leBytes 4 1 ++ leBytes 4 1 ++ leBytes 6 65536 ++ List.replicate 30 0
/-- Partition 0 serves, with a submission ring of 2 entries and a completion ring. -/
def sv : State :=
  { ((cs.setFs 0 [(F.RQT_SERVE_OPEN, 1), (F.RQT_SERVE_COMPOSER, 1), (F.SMP_PCAND_VALID, 1)]).setCust 0 { Cust.init with en := true }).modServe 0
      (fun v => { v with cfg := scB }) with
    rings := [(16, { Ring.init with role := 3, fn := 1, off := 4096, log2n := 1, ent := 64, tail := 1 }),
      (17, { Ring.init with role := 4, fn := 1, off := 8192, log2n := 1, ent := 32 })] }
def svB (kind : Nat) : State := (sv.write (sv.ringBase (sv.ring 16) + 64) [] (subB kind 5)).1

/-- A CANCEL of tag 5, which a queued request has. -/
def canB : List Byte := leBytes 1 1 ++ leBytes 1 2 ++ leBytes 6 0 ++ leBytes 8 5 ++ List.replicate 48 0
def svLive : State := { sv with reqs := [(0, { Req.init with state := 1, tag := 5 })] }

theorem test_requests_are_admitted :
    (svB 1).subDue 16 = true ∧ ((svB 1).peekSub 16).2 = some (subB 1 5) ∧ sv.admitCheck 0 (subB 1 5) = 0 ∧
    gives (.submit 16) (svB 1) (fun t => (t.reqs.map (fun r => (r.1, r.2.state, r.2.tag))) == [(0, 1, 5)] && (t.ring 16).head == 1) = true ∧
    sv.admitCheck 0 [] ≠ 0 ∧ ((svB 2).peekSub 16).2 = some (subB 2 5) ∧ leAt (subB 2 5) 1 1 = 2 ∧
    zeros (slice canB 2 6 ++ slice canB 16 48) = true ∧ svLive.byTag 0 (leAt canB 8 8) = some 0 ∧
    (svLive.cancelEntry 0 9 canB).reqs = [] ∧ (svLive.cancelEntry 0 9 canB).getF F.RQT_COUNT_CANCELLED 0 = 1 := by decide +kernel

def svOther : State := sv.setF F.RQT_SERVE_COMPOSER 0 0
def svNone : State := { cs with plans := [], serves := [] }
/-- A row of lane 1 is to be sampled: the step ended. -/
def svRow : State :=
  { (sv.modServe 0 (fun v => { v with rows := [⟨0, 1, 0, 0, 1, true, false⟩] })).modPart 0 (fun x => { x with plan := 1, prevNo := some 0 }) with
    reqs := [(0, { Req.init with state := 2, promptLen := 1, genLimit := 1 })] }

theorem test_boundaries_are_due :
    svNone.boundaryFree 0 = true ∧ svNone.rowsLeft 0 0 = [] ∧ svNone.rowsLeft 0 1 = [] ∧
    gives (.servingBoundary 0 true []) svNone (fun t => t.steps == [] && t.reqs == []) = true ∧
    svOther.boundaryFree 0 = true ∧ svOther.rowsLeft 0 0 = [] ∧ svOther.rowsLeft 0 1 = [] ∧ svOther.flag F.RQT_SERVE_COMPOSER 0 = false ∧
    svRow.rowsLeft 0 1 = [⟨0, 1, 0, 0, 1, true, false⟩] ∧ svRow.rowsAhead 0 1 = false := by
  decide +kernel

/-- SPILL_MS 1, HBM page 0 and the cellar page 1. -/
def scC : List Byte := (scB.take 28) ++ leBytes 4 1 ++ leBytes 4 1 ++ (slice scB 36 36) ++ leBytes 4 1 ++ scB.drop 76
def svSpill : State :=
  { (sv.modServe 0 (fun v => { v with cfg := scC })).setF F.TIME_NOW_NS 0 (10 ^ 9) with reqs := [(0, { Req.init with state := 4, pages := [0] })] }

theorem test_sequences_spill :
    svSpill.reqIds 0 = [0] ∧ scSpillMs scC = 1 ∧ scCel scC = 1 ∧
    gives (.spill 0 0) svSpill (fun t => (t.req 0).spill == [(0, 1)] && (t.req 0).pages == [0]) = true := by decide +kernel

/-! ## Sessions and secrets -/

def sess (est : Bool) : State :=
  { (cs.modPsec 0 (fun x => { x with session := some 5 })) with sessions := [⟨5, 1, est, []⟩], algs := [1], plans := [], nonces := [77] }

theorem test_sessions_run :
    cs.flag F.CTL_STATUS_READY 0 = true ∧ cs.boot.quiet = false ∧ cs.boot.held = false ∧
    gives (.getVersion 17) (sess false) (fun t => t.spdm == [⟨17, 4, [0x13]⟩]) = true ∧
    gives (.negotiateAlgorithms 17 15) cs (fun t => t.algs == [17]) = true ∧
    gives (.challenge 0) cs (fun t => t.spdm == [⟨0, 0x7F, [4]⟩]) = true ∧
    gives (.keyExchange 1) { cs with algs := [1] } (fun t => t.sessions == [⟨1, 1, false, []⟩] && t.flag F.SEC_STATUS_KEYOP 0) = true ∧
    gives (.finish 1 5 true) (sess false) (fun t => t.sessions.map (fun x => (x.id, x.who, x.est)) == [(5, 1, true)] && t.flag F.SEC_PCTL_SESSION 0) = true ∧
    (sess true).session 1 5 = true ∧ gives (.heartbeat 1 5) (sess true) (fun t => t.spdm.length == 1) = true ∧
    gives (.endSession 1 5) (sess true) (fun t => t.sessions == [] && (t.psecOf 0).session == none) = true := by decide +kernel

/-- A package with an operator debug key, and an answer to challenge 77 for a level under a key. -/
def dKey : List Byte := [1, 2, 3]
def sDb : State := { sess true with boot := { (sess true).boot with debugKey := sha384n dKey } }
def sig (level : Nat) : DebugSig := ⟨dKey, sDb.debugMsg 77 level, true⟩

theorem test_secrets_are_guarded :
    ((sess true).psecOf 0).session = some 5 ∧ (sess true).plansOf 0 = [] ∧ ((sess true).psecOf 0).loaded = false ∧
    gives (.setPlanKey 1 0 (2 ^ 384 + 9)) (sess true) (fun t => (t.psecOf 0).planKey == some 9 && t.getF F.SEC_PKEYID_KEYID 0 == 9) = true ∧
    gives (.setHostMode 0 2) (sess true) (fun t => t.getF F.SEC_PCTL_HMODE 0 == 2) = true ∧
    gives (.ideKm 0) ((sess true).setF F.SEC_PCTL_HMODE 0 1) (fun t => (t.psecOf 0).ide) = true ∧
    gives (.debugUnlock 78 1 (sig 1)) sDb (fun t => t.getF F.SEC_DEBUG_FAILS 0 == 1 && t.nonces == [77]) = true := by decide +kernel

/-- A good answer to the challenge. The digest in it is of a free value, so this is no evaluation. -/
theorem test_debug_is_unlocked (level : Nat) : sDb.nonces.contains 77 = true ∧ sDb.debugOk 77 level (sig level) = true :=
  ⟨by decide +kernel, by
    have h : (sDb.boot.debugKey != 0 && sha384n dKey == sDb.boot.debugKey) = true := by decide +kernel
    simp [State.debugOk, State.debugSigner, sig, h]⟩

def tam : State := { cs.setF F.SEC_STATUS_TAMPERED 0 1 with tamp := ⟨true, [8, 9]⟩ }

theorem test_tamper_alarms :
    cs.phase ≠ 0 ∧
    gives (.tamperAlarm 4 255) cs (fun t => t.flag F.SEC_STATUS_TAMPERED 0 && t.getF F.SEC_TAMPER_SENSOR 0 == 255 && (t.key 0).revoked) = true ∧
    State.reset.phase = 0 ∧ gives (.tamperAlarm 4 255) { State.reset with boot := { Boot.init with held := false } } (fun t =>
      t.flag F.BOOT_STATUS_VESTIBULE 0 && t.getF F.BOOT_STATUS_REASON 0 == 2 && t.getF F.SEC_TAMPER_PHASE 0 == 0) = true ∧
    gives (.tamperAlarm 1 0) tam (fun t => t.getF F.SEC_TAMPER_COUNT 0 == 1) = true ∧
    gives (.tamperClear 9 false) tam (fun t => !t.flag F.SEC_STATUS_TAMPERED 0) = true ∧
    gives (.tamperClear 9 true) tam (fun t => t.flag F.SEC_STATUS_TAMPERED 0) = true ∧
    gives .entropyFail cs (fun t => t.flag F.SEC_STATUS_DRBG_FAIL 0) = true := by decide +kernel

/-! ## Registers and the host -/

theorem test_registers_are_written :
    regAt 0xFF0003000008 = some (.MEM_CTRL, 0) ∧ (cs.actReg .MEM_CTRL 0 (169 * 65536) true).isNone = true ∧ cs.regBusy .MEM_CTRL 0 = false ∧
    recordFields .MEM_CTRL = [] ∧
    gives (.registerWrite 0xFF0003000008 (168 * 65536) true) cs (fun t => t.getF F.MEM_CTRL_SCRUB_H 0 == 168) = true ∧
    gives (.registerWrite 0xFF0003000008 (169 * 65536) true) cs (fun t => t.getF F.MEM_CTRL_SCRUB_H 0 == cs.getF F.MEM_CTRL_SCRUB_H 0) = true ∧
    (sq 9 []).regBusy .VCB_CAP 35 = true ∧ ((sq 9 []).actReg .VCB_CAP 35 0 true).isNone = true ∧
    regAt (0xFF0006000008 + 0x1000 * 35) = some (.VCB_CAP, 35) ∧
    regAt (0xFF0001000010) = some (.CORE_FAULT, 0) ∧
    gives (.registerWrite 0xFF0001000010 65536 true) (cs.recordFault 0 9 1 7) (fun t => !t.flag F.CORE_FAULT_VALID 0 &&
      t.getF F.CORE_FAULT_CODE 0 == 0 && !t.flag F.CORE_STATUS_FAULTED 0) = true ∧
    gives (.registerWrite (0xFF0003000100 + 16 * 15) 0 true) cs (fun t => !t.flag F.MEM_PHBM_EN 15) = true ∧
    gives (.registerWrite 0xFF0002800028 5 true) (cs.setF F.TIME_CTRL_MASTER 0 1) (fun t => t.now == 5) = true := by decide +kernel

def hR (role : Nat) : State := { cs with rings := [(19, { Ring.init with role := role, fn := 1, off := 4096, log2n := 1, ent := 64 })] }
def dbV (cq k x : Nat) : Word64 := BitVec.ofNat 64 (cq * 2 ^ 63 + k * 2 ^ 32 + x)
def pRec : PeepRec := ⟨7, 3, 4, 5, 6, 8⟩

theorem test_doorbells :
    (hR 3).doorbellOff 1 19 false = false ∧ valueBad 1 0 0 3 false = true ∧ ((hR 3).counters ((hR 3).ring 19)).2 = some (0, 0) ∧
    gives (.ctlDoorbell 1 (dbV 0 19 3) 0 []) (hR 3) (fun t => t.getF F.CTL_STATUS_DB_IGNORED 0 == 1 && t.rings == (hR 3).rings) = true ∧
    valueBad 1 0 0 2 false = false ∧ (hR 3).bounced 0 = false ∧
    gives (.ctlDoorbell 1 (dbV 0 19 2) 0 []) (hR 3) (fun t => (t.ring 19).tail == 2) = true ∧
    (hR 6).doorbellOff 1 19 true = false ∧ gives (.ctlDoorbell 1 (dbV 1 19 0) 9 []) (hR 6) (fun t => (t.ring 19).bat == 9) = true ∧
    (hR 6).doorbellOff 2 19 true = true ∧ gives (.ctlDoorbell 2 (dbV 1 19 0) 9 []) (hR 6) (fun t => t.getF F.CTL_STATUS_DB_IGNORED 0 == 1) = true := by
  decide +kernel

/-- Every pane crossing calibrates. -/
def cals32 : List (Cal × Cal) := List.replicate 32 (good (paneInTarget 0), good 6)
def peepS (s : State) : State := (s.setF F.CORE_ID_PARTITION 3 0).setCore 3 { Core.init with peep := [pRec] }

theorem test_peepholes_and_windows :
    ((peepS (hR 6)).ringsOf ((peepS (hR 6)).partOf 3 + 1) 6).head? = some 19 ∧ ((peepS (hR 6)).ring 19).room ≠ 0 ∧
    gives (.peepholeDeliver 3) (peepS (hR 6)) (fun t => (t.core 3).peep == [] && (t.ring 19).tail == 1) = true ∧
    ((peepS cs).ringsOf ((peepS cs).partOf 3 + 1) 6).head? = none ∧
    gives (.peepholeDeliver 3) (peepS cs) (fun t => t.getF F.CTL_PEEPDROP_RING 0 == 1) = true ∧
    gives (.inboundTlp ⟨0, 0, 0x201F, none, 1, false⟩ 0 [] false []) cs (fun t => t.tlpOut.map (fun r => (r.data.getD []).length) == [1]) = true ∧
    gives (.inboundTlp ⟨16, 4, 0, none, 4, false⟩ 0 [] false []) (cs.setF F.SEC_PCTL_HMODE 15 1) (fun t =>
      t.getF F.SEC_PBBSTAT_SEQ_FAIL 15 == 1 && t.tlpOut == [⟨16, none, false, false⟩]) = true ∧
    gives .logCopy cs (fun t => t == cs) = true ∧ cs.getF F.PWR_STATUS_STATE 0 = 0 ∧
    gives (.pldmRequest (.setEid 257) []) cs (fun t => t.eid == 1 && t.mctpOut.length == 1) = true ∧
    gives (.pldmRequest (.setEid 1) cals32) (cs.setF F.PWR_STATUS_STATE 0 1) (fun t => t.getF F.PWR_STATUS_STATE 0 == 0) = true ∧
    4 ≤ (cs.slice 0).2 ∧ gives (.inboundTlp ⟨1, 4, 0, some [9], 0, false⟩ 0 [] false []) cs (fun t => t.byte (cs.slice 0).1 == 9) = true ∧
    gives (.inboundTlp ⟨1, 4, 0, none, 2, false⟩ 0 [] false []) cs (fun t => t.tlpOut == [⟨1, some [0, 0], false, false⟩]) = true := by decide +kernel

/-- The 160 samples of a character: start bit, 0x55 least significant bit first, stop bit. -/
def uaV (stop : Nat) : List Bool := (List.range 160).map (fun k =>
  let b := k / 16
  if b = 9 then stop == 1 else b % 2 == 1)
def uaS : State := { cs with uartLine := true :: uaV 1 }

theorem test_uart_receives :
    uaChar (uaV 1) = some ⟨0x55, false⟩ ∧ uaChar (uaV 0) = some ⟨0x55, true⟩ ∧ uaChar (List.replicate 160 true) = none ∧
    ({ uaS with uartLine := uaV 0 }.uartRun 1).uartRx = [⟨0x55, true⟩] ∧ ({ uaS with uartLine := uaV 0 }.uartRun 1).getF F.CTL_UARTSTAT_FRAMING 0 = 1 ∧
    (uaS.uartRun 1).uartRx = [⟨0x55, false⟩] ∧
    ({ uaS with uartRx := List.replicate 64 ⟨0, false⟩ }.uartRun 1).uartRx.length = 64 ∧
    ({ uaS with uartRx := List.replicate 64 ⟨0, false⟩ }.uartRun 1).getF F.CTL_UARTSTAT_OVERRUN 0 = 1 := by decide +kernel

/-! ## Power and start -/

def pw : State := { (cs.setFs 0 [(F.PWR_CTRL_STBY_EN, 1), (F.PWR_CTRL_IDLE_US, 10)]) with plans := [] }

theorem test_power_states_change :
    pw.quietNow = true ∧ gives (.standbyEntry 10 true) pw (fun t => t.getF F.PWR_STATUS_STATE 0 == 1) = true ∧
    gives (.standbyEntry 10 false) pw (fun t => t.getF F.PWR_STATUS_REFUSE 0 == 1 && t.getF F.PWR_STATUS_REFUSALS 0 == 1) = true ∧
    gives (.sleepEntry true) pw (fun t => t.getF F.PWR_STATUS_STATE 0 == 2) = true ∧
    cs.plansOf 0 ≠ [] ∧ gives (.sleepEntry true) cs (fun t => t.getF F.PWR_STATUS_REFUSE 0 == 3) = true ∧
    (pw.setF F.PWR_STATUS_STATE 0 2).getF F.PWR_STATUS_STATE 0 ≠ 0 ∧
    gives (.runReturn true cals32) ((pw.setLatch 255 47 9).setF F.PWR_STATUS_STATE 0 1) (fun t => t.latch 255 47 == 9) = true := by decide +kernel

theorem test_rails_and_loops :
    gives (.railOut5 12 700 65535) pw (fun t => t.flag F.PWR_RAIL_OUT5 12 && t.getF F.PWR_RAIL_VOLT_MV 12 == 700) = true ∧
    gives (.railUndervolt 10) pw (fun t => t.boot.low == [10] && t.boot.resetIn == some 1000 && !t.boot.held) = true ∧ gives (.railUndervolt 11) pw (fun t => t == pw) = true ∧
    gives (.powerLoop (2 ^ 32 - 1) [0] [(700, 3), (0, 0)]) pw (fun t => t.getF F.PWR_MEAS_PEAK_MW 0 == 2 ^ 32 - 1 && t.getF F.PANE_FREQ_REQ 0 == 1 &&
      t.getF F.PANE_FREQ_REQ 1 == 0) = true ∧
    gives (.thermalLoop [1521, 0, 0, 65535] (List.replicate 8 50) [0]) pw (fun t => t.getF F.PWR_TEMP0_LEAF_A 0 == 1521 &&
      t.getF F.PWR_TEMP0_JAMB_W 0 == 65535 && t.getF F.PANE_FREQ_REQ 0 == 1) = true := by decide +kernel

def nor0 : NorCopy := ⟨true, [], [], ⟨[], false, 0, 0, [], [], 0, 0, 0, false, [], [], 0, 0, 0, []⟩, 0, [], 0, false⟩
def inX (fuseOk norOk : Bool) : StartIn := ⟨true, false, fuseOk, norOk, ⟨0xC0003, 0, 0, 0, 0, [5], [6]⟩, nor0, nor0, [], [], [], true, 25, none⟩
def sHeld : State := { cs with boot := { cs.boot with held := true } }

theorem test_starts_begin :
    gives (.reset (inX false true)) sHeld (fun t => t.flag F.BOOT_STATUS_VESTIBULE 0 && t.getF F.BOOT_STATUS_REASON 0 == 1 && !t.exists' 0 && t.plans == []) = true ∧
    (sHeld.setF F.SEC_STATUS_TAMPERED 0 1).boot.held = true ∧ (inX true true).fuses.gradeOk = true ∧ (⟨1, 0, 0, 0, 0, [], []⟩ : Fuses).gradeOk = false ∧
    gives (.reset (inX true true)) (sHeld.setF F.SEC_STATUS_TAMPERED 0 1) (fun t => t.getF F.BOOT_STATUS_REASON 0 == 2) = true ∧
    gives (.reset (inX true false)) sHeld (fun t => t.getF F.BOOT_STATUS_REASON 0 == 3 && t.getF F.BOOT_STATUS_STAGE 0 == 2 &&
      t.getF F.CTL_FEAT0_GRADE 0 == 2) = true ∧
    sHeld.flag F.SEC_STATUS_TAMPERED 0 = false := by decide +kernel

def wait8 : State := { fwS with boot := { Boot.init with held := false } }

theorem test_resets_and_ends :
    gives .ranuatTimeout wait8 (fun t => t.flag F.BOOT_STATUS_FAILED 0 && t.getF F.BOOT_STATUS_REASON 0 == 9) = true ∧
    gives .resetAssert { sq 9 [] with boot := { Boot.init with held := false } } (fun t => t.boot.resetIn == some 1500 && (t.port 35).going == 2) = true ∧
    gives .pwrfail { runE with boot := { Boot.init with held := false } } (fun t => t.boot.quiet && t.getF F.BOOT_STATUS_REASON 0 == 10 &&
      !(t.part 0).running) = true ∧
    gives .thermalTrip cs (fun t => t.boot.thermtrip && t.flag F.PWR_STATUS_THERMTRIP 0) = true ∧
    (({ cs with pairDown := true } : State).pairStopped) = true ∧ cs.idleSteps = true ∧ cs.locks = [] ∧
    gives .controlComplexReset { cs with pairDown := true } (fun t => !t.pairDown && t.getF F.CTL_LOCKSTEP_RESETS 0 == 1) = true := by
  decide +kernel

/-! ## Further clauses -/

def kPieceS : State := runC kPiece

theorem test_piece_is_refused :
    (match ({ kPieceS with keys := [(0, ⟨4, true⟩)] } : State).read 0x1000 192 [] with
     | (_, .refused c) => c == causeKEY
     | _ => false) = true ∧ kPieceS.paneUp 0 = true ∧
    gives (.loadPieceArrive 0 0 0 []) { kPieceS with keys := [(0, ⟨4, true⟩)], parts := [] } (fun t => t.getF F.CORE_FAULT_CODE 0 == fcMEM_UNCORR) = true ∧
    (kPieceS.setF F.PANE_FREQ_STATE 0 1).paneUp 0 = false ∧
    gives (.loadPieceArrive 0 0 0 []) (kPieceS.setF F.PANE_FREQ_STATE 0 1) (fun t => t == kPieceS.setF F.PANE_FREQ_STATE 0 1) = true := by
  decide +kernel

/-- The same latch writes, under a predicate that does not hold. -/
def cSkip : Cmd := cmd [(0, 2), (8, 4), (11, 7), (20, 1), (21, 1), (72, 47), (80, 3), (104, 1), (168, 9)]

theorem test_skipped_latch :
    (runC (kSd cSkip)).startableOp 0 4 .sdLatch = some (ent cSkip 0) ∧ (kSd cSkip).skips cSkip = true ∧
    gives (.sdLatch 0) (runC (kSd cSkip)) (fun t => ((t.core 0).sb.map (·.kind)) == [.latch (9 * 2 ^ 40) 47 3]) = true ∧
    (kSd cSa).finished { ent cSa 0 with started := true } = true := by decide +kernel

/-- The first command of core 0 clears latches 0 and 47. -/
def sOpen : State := (front dLr).setLatch 0 47 9 |>.setLatch 0 1 8

theorem test_first_reset :
    sOpen.mayDispatch 0 = true ∧ (sOpen.core 0).next = .cmd dLr ∧ opOf (hEngine dLr) (hOpcode dLr) = some .latchReset ∧ headerCheck dLr = 0 ∧
    hEngine dLr = 5 ∧ (sOpen.core 0).skips dLr = false ∧ operandCheck (sOpen.checkEnv 0 dLr) .latchReset dLr = 0 ∧ waits dLr = [] ∧ localSignals dLr = [] ∧
    (sOpen.core 0).beat = (sOpen.part 0).beat ∧ (sOpen.openReset 0).latch 0 47 = 0 ∧ (sOpen.openReset 0).latch 0 1 = 8 := by decide +kernel

/-- An ABORT body with a version, a cause and a detail. -/
def abB (ver cause det : Nat) : List Byte := leBytes 1 ver ++ leBytes 1 cause ++ leBytes 1 det ++ abortB.drop 3
def sAb' (ver cause det : Nat) (f : Part → Part) : State :=
  { sAb with inbox := [pk ptABORT 2 (abB ver cause det) .unit] }.modPart 0 f
def nextStep : Part → Part := fun x => { x with stepNo := 1, prevNo := some 0 }

theorem test_other_aborts :
    ({ sAb with inbox := [] } : State).abortFor (pk ptABORT 2 (abB 2 3 2) .unit) = none ∧
    gives .abortReceive (sAb' 2 3 2 id) (fun t => t.getF F.CTL_ABORT_COUNT 0 == 1 && (t.part 0).running) = true ∧
    ({ sAb' 1 3 2 nextStep with inbox := [] } : State).abortFor (pk ptABORT 2 (abB 1 3 2) .unit) = some 0 ∧
    (sAb' 1 3 2 nextStep).namesCurrent 0 0 = false ∧
    gives .abortReceive (sAb' 1 3 2 nextStep) (fun t => t.flag F.CTL_ABORT_LATE 0 && (t.part 0).running && (t.part 0).prevAborted) = true ∧
    gives .abortReceive (sAb' 1 3 2 (fun x => { nextStep x with prevAborted := true })) (fun t => !t.flag F.CTL_ABORT_LATE 0 &&
      t.getF F.CTL_ABORT_COUNT 0 == 1) = true ∧
    ({ sAb' 1 14 2 (fun x => { x with aborted := true }) with inbox := [] } : State).abortFor (pk ptABORT 2 (abB 1 14 2) .unit) = some 0 ∧
    gives .abortReceive (sAb' 1 14 2 (fun x => { x with aborted := true })) (fun t => t.steps.map (·.attempt) == [2]) = true := by decide +kernel

def sLate : State := ((run.setF F.TIME_NOW_NS 0 (10 ^ 12)).setLatch 0 47 5).modPart 0 (fun x => { x with late := true })

theorem test_late_quiet_ends :
    sLate.quietOver 0 = true ∧ (sLate.part 0).aborted = false ∧
    gives (.quietEnd 0 true) sLate (fun t => t.latch 0 47 == 0 && (t.part 0).running && !(t.part 0).late) = true := by decide +kernel

def sUnset : State := { runE with arrivals := [⟨0, false, 7, 47, 3⟩] }

theorem test_arrival_fails :
    ({ sUnset with arrivals := [] } : State).arrivalCheck ⟨0, false, 7, 47, 3⟩ = errCTX_UNSET ∧
    gives .thresholdArrive sUnset (fun t => t.getF F.CTL_ABORT_CAUSE 0 == 3 && t.getF F.CTL_ABORT_DETAIL 0 == errCTX_UNSET) = true := by decide +kernel

/-- No step waits, and the plan of the last step is bound. -/
def sBare : State := { sArr with steps := [] }.modPart 0 (fun x => { x with plan := 1 })
def sNoCtx : State := { sBare.setF F.LATCH_SCTX_START 5 0 with plans := [] }
def sRowsHold : State := (sArr.modServe 0 (fun v => { v with rows := [⟨0, 1, 0, 0, 1, true, false⟩] }))

theorem test_arrivals_wait :
    sBare.nextStepOf 0 = none ∧ sBare.panesReady 0 = true ∧ sBare.flag F.LATCH_START_WAITING 0 = false ∧ sBare.planBound 0 = true ∧
    (sBare.runPlan 0).weightsIn = true ∧ gives (.startArrive 0 [] [] []) sBare (fun t => (t.part 0).started) = true ∧
    gives (.startArrive 0 [] [] []) (sBare.modPart 0 (fun x => { x with loadWait := true })) (fun t => !(t.part 0).started) = true ∧
    sNoCtx.planBound 0 = false ∧ sNoCtx.startCtx 0 = none ∧
    gives (.startArrive 0 [] [] []) sNoCtx (fun t => t.flag F.LATCH_START_NO_CTX 0 && (t.part 0).lastFailed) = true ∧
    (sArr.modPart 0 (fun x => { x with loadWait := true })).mayArrive 0 1 = false ∧
    gives (.startArrive 0 [] [] []) (sArr.modPart 0 (fun x => { x with loadWait := true })) (fun t => t.steps.length == 1) = true ∧
    sRowsHold.rowsHold 0 ⟨0, 1, 7, [], 0, true, none⟩ = true ∧ sArr.rowsHold 0 ⟨0, 1, 7, [], 0, false, none⟩ = false ∧
    ((sBare.modPart 0 (fun x => { x with waitDigest := true })).part 0).waitDigest = true ∧
    gives (.inputDigest 0 []) ((sBare.setPlan 1 { sBare.plan 1 with weightState := 3 }).modPart 0 (fun x => { x with waitDigest := true })) (fun t =>
      (t.part 0).lastFailed && !(t.part 0).waitDigest && !(t.part 0).started) = true := by decide +kernel

def rg (k role off pair : Nat) : RingSpec := ⟨k, role, 4, off, 2047, pair⟩

theorem test_rings_in_one_message :
    (((cs.takeEntry (ctl 0x0E 1 0)).setRings 1 [rg 19 4 4096 0, rg 18 3 8192 0]).2) = true ∧
    (((cs.takeEntry (ctl 0x0E 1 0)).setRings 1 [rg 19 4 4096 0, rg 20 3 8192 0]).2) = false ∧
    gives (.ringSetup (ctl 0x0E 1 0) [rg 19 4 4096 0, rg 18 3 8192 0]) cs (fun t => (t.ring 19).role == 4 && (t.ring 18).role == 3) = true ∧
    gives (.ringSetup (ctl 0x0E 1 0) [rg 19 4 4096 0, rg 20 3 8192 0]) cs (fun t => t.rings == cs.rings && result t == [3]) = true := by decide +kernel

def cDown : State := { cs with plans := [], locks := [(0, 0)] }

theorem test_teardown_waits :
    cDown.mayLock 5 0 = false ∧ cDown.locked 5 0 = false ∧
    gives (.teardown 0) cDown (fun t => t.lockQ == [(5, 0)] && (t.psecOf 0).tear && t.exists' 0) = true ∧
    cDown.lockQ = [] ∧ cDown.debugWant = false ∧ (cDown.chansOf 0).all (fun i => (cDown.chan i).flight == []) = true ∧
    gives (.partCreate (ctl 0x10 0 0) 15 { own with panes := 1 }) cs (fun t => !t.exists' 15 && result t == [7]) = true := by decide +kernel

/-- A handover block without a body. -/
def handB : List Byte := leBytes 4 1 ++ leBytes 4 0 ++ leBytes 4 0 ++ leBytes 4 0 ++ sha384 []

theorem test_update_stages :
    (upd0 false).idleSteps = true ∧ (upd0 false).upd = some ⟨updH, 9, 0, 0, 0, false⟩ ∧ fwR.lockBlocked 3 0 fwR.lockQ = false ∧ fwR.paneMoving = false ∧
    gives (.fwUpdate updH true true) (upd0 false) (fun t => !t.flag F.CTL_STATUS_READY 0 && t.upd.map (·.taken) == some true) = true ∧
    handOk handB = true ∧ ({ upd0 true with hand := handB } : State).idleSteps = true ∧
    (fwR.fwStart 9 3 5 1).getF F.CTL_STATUS_SLOT 0 = 1 ∧ (fwR.fwStart 9 3 5 1).fwrun = fwR.fwin := by decide +kernel

theorem test_scrub_off :
    gives (.patrolScrub 4) (({ ms with locks := [(1, 8)] } : State).setFs 0 [(F.MEM_CTRL_SCRUB_H, 0), (F.MEM_SCRUB_HELD, 1)]) (fun t =>
      t.locks == [] && !t.flag F.MEM_SCRUB_HELD 0 && t.gran == []) = true := by decide +kernel

def msB : State := (ms.write (64 * g0) [] (List.replicate 64 7)).1

theorem test_blocks_move_bytes :
    msB.plansOf 15 = [] ∧ msB.clashes 15 0 8 8 = false ∧ msB.byte (64 * g0) = 7 ∧
    gives (.memPhbmWrite 15 (0x10300 + 8)) msB (fun t => t.mem == msB.mem) = true ∧
    gives (.memPhbmWrite 15 0x00308) msB (fun t => t.mem.length == 64 && !t.flag F.MEM_PHBM_EN 15) = true := by decide +kernel

/-- A request of no length. -/
def reqZ : Packet := { reqK 3 with body := leBytes 6 (64 * g0) ++ leBytes 1 15 ++ leBytes 1 0 ++ leBytes 2 5 ++ leBytes 2 0 ++ leBytes 4 0 }
def msHeld : State := { ms.setF F.PANE_FREQ_STATE 0 1 with inbox := [rspK], tags := [(65535, .load 0 0 0)] }

theorem test_requests_out_of_range :
    ((ms.serveReq reqZ []).2.1, (ms.serveReq reqZ []).2.2) = (1, []) ∧ (ms.serveReq (reqK 3) []).2.1 = 0 ∧
    gives (.memRequest []) { ms with inbox := [reqZ] } (fun t => t.rq.map (fun w => bitsOf (leAt w.pkt.body 7 1) 0 8) == [1]) = true ∧
    msHeld.rspHeld rspK = true ∧ gives .memResponse msHeld (fun t => t == msHeld) = true := by decide +kernel

/-- The write-back of the oldest descriptor failed. -/
def sWb : State := (flying dLocal 100 1).setChan 63 { (flying dLocal 100 1).chan 63 with halt := 2, stopping := false }

theorem test_write_back_again :
    sWb.boot.quiet = false ∧ gives (.dmaResume 1 31 2) sWb (fun t => (t.chan 63).flight == [] && t.getF F.DMA_HEAD_HEAD 63 == 1) = true ∧
    (match (({ flying dLocal 100 0 with keys := [(15, ⟨4, true⟩)] } : State).finalStatus 63 ⟨0, dLocal, 0, 0, 100, 0, 0, []⟩ [] true) with
      | (u, some d) => d.status == 0x23 && decide ((u.writeSlot (u.slotAddr 63 d.slot) (d.image d.status)).2 = .refused causeKEY)
      | _ => false) = true := by decide +kernel

/-- Partition 15 moves HOST data as records under its keys; SEQ 99 is the highest accepted. -/
def bKey : List Byte := List.replicate 32 1
def bS : State := (flying dPull 0 0).setF F.SEC_PCTL_HMODE 15 2 |>.setBounce 15 ⟨100, [98], 2, 5, bKey, bKey⟩
def bRec (seq len : Nat) : HostData := ⟨true, bounceHeader 0 15 len seq ++ gcmSeal bKey (bounceIv (bounceHeader 0 15 len seq)) (bounceHeader 0 15 len seq) (List.replicate len 9)⟩
/-- A descriptor that sends 4 bytes to the host. -/
def dPush : List Byte := descB 48 (64 * g0) (2 ^ 60) 4
def bOut : State := (flying dPush 0 0).setF F.SEC_PCTL_HMODE 15 2 |>.setBounce 15 ⟨0, [], 0, 5, bKey, bKey⟩

theorem test_records_move :
    bS.byRecord 63 ⟨0, dPull, 0, 0, 0, 0, 0, []⟩ = true ∧ bS.mayMove 63 0 ⟨0, dPull, 0, 0, 0, 0, 0, []⟩ = true ∧ dSrcSpace dPull = 3 ∧
    (bS.bounceIn 15 4 (bRec 100 4)).2 = some (List.replicate 4 9) ∧ ((bS.bounceIn 15 4 (bRec 100 4)).1.bounceOf 15).high = 101 ∧
    (bS.bounceIn 15 4 (bRec 97 4)).2.isSome = true ∧ (bS.bounceIn 15 4 (bRec 98 4)).1.getF F.SEC_PBBSTAT_SEQ_FAIL 15 = 1 ∧
    (bS.bounceIn 15 4 (bRec 34 4)).1.getF F.SEC_PBBSTAT_SEQ_FAIL 15 = 1 ∧ (bS.bounceIn 15 4 (bRec 35 4)).2.isSome = true ∧
    (bS.bounceIn 15 4 ⟨true, (bRec 100 4).bytes.set 50 0⟩).1.getF F.SEC_PBBSTAT_TAG_FAIL 15 = 1 ∧
    (bS.bounceIn 15 5 (bRec 100 4)).1.getF F.SEC_PBBSTAT_TAG_FAIL 15 = 1 ∧ bS.bounceIn 15 4 ⟨false, []⟩ = (bS, none) ∧
    gives (.dmaPiece 1 31 0 [] ⟨false, []⟩) bS (fun t => (t.chan 63).flight.map (·.status) == [0x20]) = true ∧
    bOut.side dPush false 0 = .here (64 * g0) ∧ bOut.byRecord 63 ⟨0, dPush, 0, 0, 0, 0, 0, []⟩ = true ∧
    gives (.dmaPiece 1 31 0 [] ⟨true, []⟩) bOut (fun t => t.hostOut.map (fun r => r.2.length) == [52] && (t.bounceOf 15).d2h == 6) = true := by
  decide +kernel

/-- Another request holds the lock of port 35. -/
def sqL (st : Nat) : State := { sq st [] with locks := [(6, 35)] }
def fBadT : Flit := makeFlit 2 0 9 8 false false 7 0 false false []

theorem test_ports_wait :
    (sqL 9).mayLock 6 35 = false ∧ gives (.retrain 35 1) (sqL 9) (fun t => t.lockQ == [(6, 35)] && t.pstate 35 == 9) = true ∧
    (sqL 8).mayLock 6 (35 + 128) = false ∧ gives (.sleep 35 4) (sqL 8) (fun t => t.lockQ == [(6, 35 + 128)] && (t.port 35).ask == 0) = true ∧
    (sqL 8).mayLock 6 (35 + 192) = false ∧ gives (.off 35 8) (sqL 8) (fun t => t.lockQ == [(6, 35 + 192)]) = true ∧
    tbBad ((flitBytes fBadT).drop 14) = true ∧ fNak (flitBytes fBadT) = false ∧ flitBad (flitBytes fBadT) false = false ∧
    gives (.flitReceive 35 0 0 false 0 fBadT) (sq 8 []) (fun t => t.pstate 35 == 8 && t.getF F.PORT_TRAIN_BAD_FRAMES 35 == 1) = true ∧
    gives (.flitSlot 35 0) ((sq 7 []).modPort 35 (fun x => { x with acked := 7, saidReady := true })) (fun t =>
      fType (flitBytes (t.port 35).sent) == 0) = true := by decide +kernel

/-- A packet that came by a port of jamb 0, for a port of jamb 1. -/
def wFar : Worm := worm { kR 0 256 with src := .port 0 }

theorem test_packets_cross :
    wFar.complete = true ∧ wFar.freed = 0 ∧ wFar.jamb = 0 ∧ wFar.pkt.flits ≤ 17 ∧
    gives (.routeLookup 0) { sRt with rq := [wFar] } (fun t => t.rq.map (fun w => (w.hinge, w.jamb, w.here, w.outs)) == [(true, 1, false, [⟨35, 1, 0, 0⟩])]) = true := by
  decide +kernel

/-- The same read of a record that is loaded. -/
def wAgain : State := (wS (fun w => { w with kind := 1, state := 2, redo := [1] })).setQp 0 ⟨1, true, [⟨1, 0, false, 1, 0, 0, 4, 0⟩]⟩

theorem test_reads_end :
    gives (.rdmaReadResponse 0 0 false [1, 2, 3, 9] []) wAgain (fun t => (t.qp 0).reads == [] && (t.plan 1).weights.map (·.redo) == [[]]) = true ∧
    (((wS (fun w => { w with state := 2, redo := [0, 1] })).readDone ⟨1, 0, false, 1, 0, 0, 4, 4⟩ []).plan 1).weights.map (·.redo) = [[0]] ∧
    gives (.inboundPacket 1 3) (cs.setF F.PWR_STATUS_STATE 0 2) (fun t => t == cs.setF F.PWR_STATUS_STATE 0 2) = true ∧
    gives (.rdmaReadResponse 1 0 false [1] []) (cs.setF F.PWR_STATUS_STATE 0 2) (fun t => t == cs.setF F.PWR_STATUS_STATE 0 2) = true := by
  decide +kernel

/-- One prefill chunk of at most 128, four HBM pages. -/
def scD : List Byte := (scB.take 24) ++ leBytes 4 4 ++ slice scB 28 20 ++ leBytes 2 1 ++ leBytes 2 0 ++ leBytes 4 128 ++ scB.drop 56
/-- Request 0 decodes on lane 0; request 1 is queued with 3 prompt tokens. -/
def svTwo : State :=
  { (sv.modServe 0 (fun v => { v with cfg := scD })).setCust 0 { Cust.init with en := true, level := 2560, burst := 100, rate := 1 } with
    reqs := [(0, { Req.init with state := 3, lane := 0, promptLen := 4, pos := 5, generated := 1, genLimit := 9, pages := [0], cring := 17 }),
      (1, { Req.init with state := 1, promptLen := 3, genLimit := 9, cring := 17, lastTb := 4, prio := 1 })] }

theorem test_rows_are_chosen :
    (svTwo.reqs.map (·.1)).Nodup ∧ (svTwo.choose 0 scD).picks.map (fun k => (k.ent, k.row.kind, k.row.tokens, k.row.sample, k.new)) =
      [(0, 1, 1, true, []), (1, 2, 3, true, [1])] ∧
    ((svTwo.takePick 0 ⟨1, 1, ⟨1, 1, 2, 0, 3, true, true⟩, [1], ⟨0, 1, 0, 0⟩⟩).cust 0).level = 2560 - 768 ∧
    (({ Cust.init with en := true, level := 5, burst := 100, rate := 1 } : Cust).refill 1000000000).level = 261 ∧
    svTwo.evictNext 0 = some 0 := by decide +kernel

def svRep : State := (svRow.modPart 0 (fun x => { x with replaying := true, lastFailed := true })).modServe 0 (fun v => { v with failed := false })
def svHead (v no : Nat) : State := (svOther.write (scBatch scB) [] (leBytes 1 v ++ leBytes 15 0 ++ leBytes 8 no)).1

theorem test_boundaries_act :
    svRep.replayDue 0 = true ∧ svRep.boundaryFree 0 = true ∧ svRep.rowsLeft 0 0 = [] ∧ svRep.rowsLeft 0 1 = [] ∧ (svRep.serve 0).rows ≠ [] ∧
    svOther.flag F.RQT_SERVE_OPEN 0 = true ∧ svOther.replayDue 0 = false ∧ scBatch scB = 65536 ∧
    gives (.servingBoundary 0 true []) (svHead 2 0) (fun t => t.steps == []) = true ∧
    ((svHead 1 0).plan (scPlan scB)).nextStep = 0 ∧
    (match (svHead 1 0).readR 65536 64 [] with
      | (_, .ok h) => leAt h 0 1 == 1 && leAt h 16 8 == 0
      | _ => false) = true := by decide +kernel

/-- One shard of one candidate, token 7 with value 1.0; a vocabulary of 100. -/
def svSmp : State :=
  ((svRow.setFs 0 [(F.SMP_PSHAPE_SHARDS, 1), (F.SMP_PSHAPE_K, 1), (F.SMP_PSHAPE_KM, 1), (F.SMP_PSHAPE_VOCAB, 100), (F.SMP_PCAND_BASE, 4096)]).write
    (4096 * 64 + 8) [] (leBytes 4 one32 ++ leBytes 4 7)).1

theorem test_rows_are_sampled :
    svSmp.rowsLeft 0 1 = [⟨0, 1, 0, 0, 1, true, false⟩] ∧ svSmp.rowsAhead 0 1 = false ∧
    (svSmp.readOpt (4096 * 64 + 8) 8 []).2 = some (leBytes 4 one32 ++ leBytes 4 7) ∧
    ((svSmp.readSet 0 0 []).2.1.map (fun g => (g.window, g.penPrompt, g.temp)), (svSmp.readSet 0 0 []).2.2) = (some (PSet.none.window, PSet.none.penPrompt, PSet.none.temp), false) ∧
    (svSmp.readTokens 0 (svSmp.req 0) 1 1 []).2 = some [] ∧
    candsOf 1 (leBytes 4 one32 ++ leBytes 4 7) = [(7, one32)] ∧ dropCands 100 [(7, one32), (7, 0), (100, 0)] [] = ([(7, one32)], 2) ∧
    (({ svSmp with keys := [(0, ⟨4, true⟩)] } : State).readOpt (4096 * 64 + 8) 8 []).2 = none ∧
    gives (.sampleRow 0 1 []) { svSmp with keys := [(0, ⟨4, true⟩)] } (fun t => (t.serve 0).badRead && t.getF F.SMP_ERR_READ 0 == 1) = true ∧
    isNan one32 = false ∧ ((svTwo.deliverToken 0 9 ⟨0, 0, 1, 5, 1, true, true⟩ ⟨0, 0, 7, 0, none, false, false⟩).req 0).generated = 2 ∧
    ((svTwo.deliverToken 0 9 ⟨0, 0, 1, 5, 1, true, true⟩ ⟨0, 0, 7, 0, some 0, false, false⟩).req 0) = Req.init := by decide +kernel

def cAlg : State := { cs with algs := [1] }
def cTamp : State := cAlg.setF F.SEC_STATUS_TAMPERED 0 1

theorem test_other_requests :
    gives (.getCapabilities 17) cs (fun t => t.spdm == [⟨17, 0x61, []⟩]) = true ∧
    gives (.keyExchange 1) cTamp (fun t => t.spdm == [⟨1, 0x7E, [5]⟩] && t.sessions == []) = true ∧
    gives (.keyExchange 1) { cAlg with sessions := List.replicate 32 ⟨9, 0, true, []⟩ } (fun t => t.spdm == [⟨1, 0x7F, [3]⟩]) = true ∧
    gives (.keyExchange 1) { cAlg with sessions := [⟨9, 1, true, []⟩] } (fun t => t.spdm == [⟨1, 0x7F, [3]⟩]) = true ∧
    (sess false).holds 1 5 false = true ∧ (sess true).session 1 6 = false ∧
    gives (.heartbeat 1 6) (sess true) (fun t => t.spdm == [⟨1, 0x7F, [4]⟩]) = true ∧
    (sess false).flag F.SEC_PCTL_OPKEYS 0 = false ∧ gives (.setPlanKey 0 0 9) ((sess false).setF F.SEC_PCTL_OPKEYS 0 1) (fun t =>
      (t.psecOf 0).planKey == some 9) = true ∧
    gives (.setHostMode 0 2) ((sess true).modPsec 0 (fun x => { x with modeSet := true })) (fun t => t.spdm == [⟨1, 0x7E, [7]⟩]) = true := by
  decide +kernel

/-! The operand checks and skipped commands of an engine and of the dispatcher. -/

def cLd0 : Cmd := cmd [(0, 1), (8, 0), (11, 4), (144, 1), (160, 1), (176, 1), (192, 0x1000), (312, 0x40)]
def dSkip : Cmd := cmd [(8, 5), (20, 1), (21, 1)]
def dBad : Cmd := cmd [(0, 3), (8, 5), (128, 2 ^ 48)]
theorem test_operands_are_checked :
    (runC (kLd cLd0)).startableOp 0 0 .ldCopy = some (ent cLd0 0) ∧ (kLd cLd0).skips cLd0 = false ∧
    operandCheck ((runC (kLd cLd0)).checkEnv 0 cLd0) .ldCopy cLd0 = 0x21 ∧ (runC (kLd cLd0)).flag F.CORE_FAULT_VALID 0 = false ∧
    (held dSkip).heldOp 0 .nop = some dSkip ∧ ((held dSkip).core 0).skips dSkip = true ∧
    (held dBad).heldOp 0 .latchReset = some dBad ∧ ((held dBad).core 0).skips dBad = false ∧
    operandCheck ((held dBad).checkEnv 0 dBad) .latchReset dBad = 0x03 := by decide +kernel

theorem test_writes_are_refused :
    gives (.registerWrite 0xFF0003000008 (168 * 65536) true) { cs with boot := { cs.boot with held := true } } (fun t =>
      t == { cs with boot := { cs.boot with held := true } }) = true ∧
    regAt 0xFF0000000008 = some (.CTL_FWLOAD, 0) ∧ gives (.registerWrite 0xFF0000000008 1 true) cs (fun t => t == cs) = true ∧
    ((regAt 0xFF0009000000).isSome = true) ∧ cs.inStep 3 = false ∧ (cs.serve 3).rows = [] := by decide +kernel

/-- A ring of a plan, whose header stands in memory. -/
def hPlan (role : Nat) : State := { cs with rings := [(19, { Ring.init with role := role, fn := 1, off := 65536, log2n := 1, ent := 64, plan := 1 })] }
def hBn : State := (hR 3).setF F.SEC_PCTL_HMODE 0 2 |>.setBounce 0 ⟨0, [], 0, 5, bKey, bKey⟩
def bRec0 (len : Nat) : HostData := ⟨true, bounceHeader 0 0 len 0 ++ gcmSeal bKey (bounceIv (bounceHeader 0 0 len 0)) (bounceHeader 0 0 len 0) (List.replicate len 9)⟩

theorem test_plan_rings :
    ((hPlan 7).counters ((hPlan 7).ring 19)).2 = some (0, 0) ∧
    gives (.ctlDoorbell 1 (dbV 0 19 2) 0 []) (hPlan 7) (fun t => (t.ring 19).tail == 2 && t.byte 65540 == 2) = true ∧
    gives (.ctlDoorbell 1 (dbV 1 19 0) 0 []) (hPlan 8) (fun t => (t.ring 19).head == 0) = true ∧
    (({ hPlan 7 with keys := [(0, ⟨4, true⟩)] } : State).counters ((hPlan 7).ring 19)).2 = none ∧
    hBn.bounced 0 = true ∧ (hBn.takeRecs 0 64 [bRec0 64]).2 = some (List.replicate 64 9) ∧ (hBn.takeRecs 0 64 []).2 = none ∧
    ((hBn.newTail 19 1 0 [bRec0 64]).ring 19).tail = 1 ∧ ((hBn.newTail 19 1 0 []).ring 19).tail = 0 ∧
    ((hBn.ringBounce 19 (List.replicate 64 3)).hostOut.map (fun r => r.2.length)) = [112] := by decide +kernel

def hLog : State := { cs with
  rings := [(3, { Ring.init with role := 5, fn := 0, off := 4096, log2n := 2, ent := 64 })], log := [⟨1, 2, 255, 3, []⟩, ⟨1, 4, 255, 5, []⟩] }

theorem test_host_rests :
    (hLog.ringsOf 0 5).head? = some 3 ∧ gives .logCopy hLog (fun t => t.log == [] && (t.ring 3).tail == 2) = true ∧
    ({ hLog with pairDown := true } : State).pairStopped = true ∧ gives .logCopy { hLog with pairDown := true } (fun t => t == { hLog with pairDown := true }) = true ∧
    gives (.peepholeDeliver 3) { peepS (hR 6) with pairDown := true } (fun t => t == { peepS (hR 6) with pairDown := true }) = true ∧
    gives (.inboundTlp ⟨1, 4, 0, some [9], 0, false⟩ 0 [] false []) (cs.setF F.PWR_STATUS_STATE 0 1) (fun t => t.waking && t.byte (cs.slice 0).1 == 0) = true := by
  decide +kernel

def pwPin : State := (pw.setFs 0 [(F.CTL_PIN_PINNED, 1), (F.CTL_PIN_LOST, 0)])

theorem test_power_in_other_states :
    gives (.runReturn false cals32) { pw.setF F.PWR_STATUS_STATE 0 1 with waking := true } (fun t => t.getF F.PWR_STATUS_STATE 0 == 0 && !t.waking &&
      t.getF F.PANE_FREQ_STATE 0 == 0) = true ∧
    calOk ⟨0, 0, 0⟩ (paneInTarget 0) = false ∧
    gives (.runReturn false cals32) (pw.setF F.PWR_STATUS_STATE 0 2) (fun t => t == pw.setF F.PWR_STATUS_STATE 0 2) = true ∧
    gives (.railUndervolt 10) sHeld (fun t => t.boot.low == [10] && t.boot.resetIn == none) = true ∧
    pwPin.onlyPinned = true ∧ pwPin.mostPinned = some 0 ∧
    gives (.powerLoop (2 ^ 32 - 1) [0] []) { pwPin with overPeriods := 98 } (fun t => t.overPeriods == 99 && t.pinned 0) = true ∧
    gives (.powerLoop (2 ^ 32 - 1) [0] []) { pwPin with overPeriods := 99 } (fun t => t.overPeriods == 0 && !t.pinned 0 &&
      t.getF F.CTL_PIN_LOST 0 == 1) = true := by decide +kernel

def selNone : Option Bool := selectCopy (inX true true).copyA (inX true true).copyB (inX true true).fuses.cfgKey
def sDueR (n : Nat) : State := { pw with boot := { pw.boot with resetIn := some n } }
def sDown : State := { cs with pairDown := true }

/-- Three starts with the configuration of copy A have failed in a row. -/
def sThird : State := { sHeld with boot := { sHeld.boot with ctr0 := ctrRecord 3 1 nor0.seq 0 } }

theorem test_starts_in_other_states :
    (sThird.boot.counting.map (fun r => (leAt r.1 8 8, leAt r.1 1 1, r.2))) = some (nor0.seq, 3, false) ∧
    (sThird.stage4 (inX true true) nor0).getF F.BOOT_STATUS_REASON 0 = 6 ∧
    gives (.reset { inX true true with dieC := -1 }) sHeld (fun t => t.boot.held && t.getF F.BOOT_STATUS_STAGE 0 == 1) = true ∧
    ({ inX true true with cut := some (1, false) } : StartIn).cutIn 1 = true ∧ (inX true true).cutIn 1 = false ∧
    gives (.reset { inX true true with cut := some (1, false) }) sHeld (fun t => t.boot.quiet && t.getF F.BOOT_STATUS_REASON 0 == 10) = true ∧
    gives (.reset { inX true true with cold := false }) { sHeld with boot := { sHeld.boot with low := [3] } } (fun t => t.boot.low == [3] && t.boot.held) = true ∧
    selNone = none ∧ gives (.reset (inX true true)) sHeld (fun t => t.flag F.BOOT_STATUS_VESTIBULE 0 && t.getF F.BOOT_STATUS_STAGE 0 == 3) = true ∧
    (sDueR 2).dueReset.boot.resetIn = some 1 ∧ (sDueR 1).dueReset.boot.held = true ∧
    sDown.pairStopped = true ∧ ({ sDown with locks := [(0, 3)] } : State).mayLock 4 0 = false ∧
    gives .controlComplexReset { sDown with locks := [(0, 3)] } (fun t => t.lockQ == [(4, 0)] && t.pairDown) = true ∧
    gives .pwrfail sHeld (fun t => t == sHeld) = true ∧ gives .resetAssert sHeld (fun t => t == sHeld) = true := by decide +kernel

/-! ## The form of the state -/

/-- What StepKeepsForm assumes holds of reset, whose tables are empty. -/
theorem test_reset_has_the_form : State.reset.Canonical ∧ State.reset.Fits := by
  constructor
  · constructor <;> first | rfl | exact canon_nil _ | (intro r; exact canon_nil _)
  · constructor
    · intro n; constructor <;> exact Nat.zero_le _
    · exact Nat.zero_le _
    · exact Nat.zero_le _
    · exact Nat.zero_le _

/-- One step from it: the table of ports gains one canonical entry. -/
theorem test_form_is_kept : steps { State.reset with pending := [.bsfSend 35] } (fun t => t.ports.length == 1 && t.regs == []) = true := by
  decide +kernel

end Sys2Proof.Tests
end

section
/-! SUPPORT. The checks of a command (R433, R434): the lists of checks in their order, the fault that the first failing one
raises (R43), and what a skipped command does instead (R64). -/

namespace Sys2Proof.Machine

/-! ## The first failing check of a list -/

/-- The code of the first check that fails, or 0. -/
def firstFailing (checks : List (Bool × Nat)) : Nat := ((checks.find? (·.1)).map (·.2)).getD 0

@[simp] theorem firstFailing_nil : firstFailing [] = 0 := rfl

@[simp] theorem firstFailing_cons (b : Bool) (code : Nat) (l : List (Bool × Nat)) :
    firstFailing ((b, code) :: l) = if b then code else firstFailing l := by
  cases b <;> rfl

/-- A first list whose codes are not 0 decides before a second one. -/
theorem firstFailing_append {l r : List (Bool × Nat)} (h : ∀ x ∈ l, x.2 ≠ 0) :
    firstFailing (l ++ r) = if firstFailing l ≠ 0 then firstFailing l else firstFailing r := by
  induction l with
  | nil => rfl
  | cons x l ih =>
    obtain ⟨b, code⟩ := x
    obtain ⟨hx, hl⟩ := List.forall_mem_cons.1 h
    cases b with
    | true => simp [hx]
    | false => simpa using ih hl

/-- The code of a list of checks is one of its codes, or 0. -/
theorem firstFailing_lt {l : List (Bool × Nat)} {n : Nat} (hn : 0 < n) (h : ∀ x ∈ l, x.2 < n) : firstFailing l < n := by
  induction l with
  | nil => exact hn
  | cons x l ih =>
    obtain ⟨hx, hl⟩ := List.forall_mem_cons.1 h
    rw [firstFailing_cons]
    split
    · exact hx
    · exact ih hl

/-! ## Header checks (R433) -/

/-- The header checks of a command with their codes, in the order of R433. -/
def headerChecks (c : Cmd) : List (Bool × Nat) :=
  let op := opOf (hEngine c) (hOpcode c)
  [(decide (6 ≤ hEngine c), 0x01), (op.isNone, 0x02), (!(op.elim [] Op.formats).contains (hFormat c), fcFORMAT),
    (decide (cbits c 107 5 ≠ 0 ∨ cbits c 94 2 ≠ 0 ∨ cbits c 78 2 ≠ 0 ∨ cbits c 54 2 ≠ 0 ∨ cbits c 30 2 ≠ 0 ∨
      (op ∈ [some Op.sdArrive, some Op.latchReset, some Op.beatEnd, some Op.stepEnd] ∧ cbits c 16 6 ≠ 0)), 0x03),
    ((waits c ++ localSignals c ++ remoteSignals c).any (fun w => decide (48 ≤ w.1)), fcLATCH_RANGE),
    (remoteSignals c != [] && decide (op ≠ some Op.sdData ∧ op ≠ some Op.sdLatch), fcSIG_REMOTE)]

theorem headerCheck_eq_firstFailing (c : Cmd) : headerCheck c = firstFailing (headerChecks c) := by
  unfold headerCheck headerChecks
  cases h : opOf (hEngine c) (hOpcode c) with
  | none => simp [fcRSV_ENGINE, fcRSV_OPCODE]
  | some op =>
    simp only [firstFailing_cons, firstFailing_nil, ← ite_or, fcRSV_ENGINE, fcRSV_BIT]
    simp [or_assoc]

theorem headerCheck_lt (c : Cmd) : headerCheck c < 256 := by
  rw [headerCheck_eq_firstFailing]
  exact firstFailing_lt (by decide) (by simp [headerChecks, fcFORMAT, fcLATCH_RANGE, fcSIG_REMOTE])

/-! ## Fields within fields -/

/-- A field of a field is a field of the whole. -/
theorem bitsOf_bitsOf {v lo w lo' w' : Nat} (h : lo' + w' ≤ w) : bitsOf (bitsOf v lo w) lo' w' = bitsOf v (lo + lo') w' := by
  refine Nat.eq_of_testBit_eq fun i => ?_
  unfold bitsOf
  simp only [Nat.testBit_mod_two_pow, Nat.testBit_div_two_pow]
  by_cases hi : i < w'
  · simp [hi, show i + lo' < w by omega, show i + lo' + lo = i + (lo + lo') by omega]
  · simp [hi]

/-- A bit is a field of width 1. -/
theorem bitAt_eq_bitsOf (v i : Nat) : bitAt v i = (bitsOf v i 1 == 1) := by
  rw [bitAt, bitsOf, pow_one]

/-- A field of some bytes of a command is a field of the command. -/
theorem bitsOf_cbytes (c : Cmd) {k n lo w : Nat} (h : lo + w ≤ 8 * n) : bitsOf (cbytes c k n) lo w = cbits c (8 * k + lo) w :=
  bitsOf_bitsOf h

theorem bitAt_cbytes (c : Cmd) {k n i : Nat} (h : i + 1 ≤ 8 * n) : bitAt (cbytes c k n) i = (cbits c (8 * k + i) 1 == 1) := by
  rw [bitAt_eq_bitsOf, bitsOf_cbytes c h]

/-! ## Operand checks (R434) -/

/-- Items 1 to 8 of R434. -/
def operandChecksFront (op : Op) (c : Cmd) : List (Bool × Nat) :=
  let sh := shapeOf c
  [(rsvBit op c, 0x03), (op.shaped c && (sh.d0 == 0 || sh.d1 == 0 || sh.d2 == 0 || sh.d3 == 0), 0x21), (fmtBad op c, 0x40),
    (vopBad op c, 0x47), (blockBad op c, 0x41), (limitBad op c, 0x46),
    (op == .veTopk && (tkK c == 0 || decide (1024 < tkK c) || decide (sh.d0 < tkK c)), 0x4A), (alignBad op c, 0x22),
    (rangeBad op c, 0x20)]

/-- Item 9 of R434: the accumulator rows and the segments. -/
def accChecks (op : Op) (c : Cmd) : List (Bool × Nat) :=
  let sh := shapeOf c
  [((op == .mmStream || op == .mmDrain) && decide (4096 < accRow c + sh.d1 * sh.d2 * sh.d3), 0x44),
    (op == .mmStream && decide (4096 < segOf c + sh.d0 / 32), 0x45)]

/-- The context and the latch of an SD_ARRIVE, and the destination of an SD_DATA or SD_LATCH (items 11 and 12 of R434). -/
def destinationChecks (env : CheckEnv) (op : Op) (c : Cmd) : List (Bool × Nat) :=
  let block := if op = .sdData then cbytes c 50 8 else cbytes c 16 8
  let sends := op == .sdData || op == .sdLatch
  [(op == .sdArrive && !(cbits c 133 1 == 1) && decide (7 < cbits c 128 5), 0x28),
    (op == .sdArrive && cbits c 144 8 != 0 && decide (48 ≤ cbits c 136 6), 0x24),
    (sends && dbFan block && !env.trees.contains (dbTree block), 0x27),
    (sends && !dbFan block && decide (env.nodes ≤ dbNode block), 0x26)]

/-- The operand checks with their codes, in the order of R434. -/
def operandChecks (env : CheckEnv) (op : Op) (c : Cmd) : List (Bool × Nat) :=
  operandChecksFront op c ++ (accChecks op c ++
    ((op == .veOreduce && nodeBad (orS c) (orLevel c) (orIndex c), 0x48) :: destinationChecks env op c))

theorem accCheck_eq_firstFailing (op : Op) (c : Cmd) : accCheck op c = firstFailing (accChecks op c) := by
  unfold accCheck accChecks
  cases op with
  | mmStream => simp [fcACC_RANGE, fcSPAN_LIMIT]
  | mmDrain => simp [fcACC_RANGE]
  | _ => rfl

/-- The destination of an SD_DATA or SD_LATCH, decided by its destination block. -/
def blockCheck (env : CheckEnv) (b : Nat) : Nat :=
  if dbFan b then (if env.trees.contains (dbTree b) then 0 else fcTREE_UNSET) else if env.nodes ≤ dbNode b then fcNODE_RANGE else 0

theorem blockCheck_eq_firstFailing (env : CheckEnv) (b : Nat) :
    blockCheck env b = firstFailing [(dbFan b && !env.trees.contains (dbTree b), 0x27), (!dbFan b && decide (env.nodes ≤ dbNode b), 0x26)] := by
  unfold blockCheck
  cases hf : dbFan b with
  | true => cases env.trees.contains (dbTree b) <;> rfl
  | false => simp [fcNODE_RANGE]

theorem destinationChecks_sdArrive (env : CheckEnv) (c : Cmd) :
    firstFailing (destinationChecks env .sdArrive c) =
      (let w := cbytes c 16 8
       if !bitAt w 5 && decide (7 < bitsOf w 0 5) then fcCTX_RANGE
       else if bitsOf w 16 8 ≠ 0 ∧ 48 ≤ bitsOf w 8 6 then fcLATCH_RANGE else 0) := by
  simp [destinationChecks, bitAt_cbytes, bitsOf_cbytes, fcCTX_RANGE, fcLATCH_RANGE]

theorem destinationChecks_sdData (env : CheckEnv) (c : Cmd) :
    firstFailing (destinationChecks env .sdData c) = blockCheck env (cbytes c 50 8) := (blockCheck_eq_firstFailing _ _).symm

theorem destinationChecks_sdLatch (env : CheckEnv) (c : Cmd) :
    firstFailing (destinationChecks env .sdLatch c) = blockCheck env (cbytes c 16 8) := (blockCheck_eq_firstFailing _ _).symm

theorem operandCheck_eq_firstFailing (env : CheckEnv) (op : Op) (c : Cmd) :
    operandCheck env op c = firstFailing (operandChecks env op c) := by
  have hacc : ∀ x ∈ accChecks op c, x.2 ≠ 0 := by simp [accChecks]
  unfold operandCheck operandChecks operandChecksFront
  simp only [List.cons_append, List.nil_append, firstFailing_cons, firstFailing_append hacc, ← accCheck_eq_firstFailing]
  cases op with
  | sdArrive => rw [destinationChecks_sdArrive]; rfl
  | sdData => rw [destinationChecks_sdData]; rfl
  | sdLatch => rw [destinationChecks_sdLatch]; rfl
  | _ => rfl

theorem operandCheck_lt (env : CheckEnv) (op : Op) (c : Cmd) : operandCheck env op c < 256 := by
  rw [operandCheck_eq_firstFailing]
  exact firstFailing_lt (by decide) (by simp [operandChecks, operandChecksFront, accChecks, destinationChecks])

/-! ## Field writes that leave another register alone -/

theorem rdReg_setFs_ne (s : State) {l : List (Fld × Nat)} {r : Reg} {i j : Nat} (h : ∀ x ∈ l, r ≠ x.1.reg ∨ j ≠ i) :
    (s.setFs i l).rdReg r j = s.rdReg r j :=
  List.foldlRecOn (motive := fun t : State => t.rdReg r j = s.rdReg r j) l _ rfl fun _ ht x hx =>
    (rdReg_setF_ne _ x.2 (h x hx)).trans ht

theorem getF_setFs_ne (s : State) {l : List (Fld × Nat)} {g : Fld} {i j : Nat} (h : ∀ x ∈ l, g.reg ≠ x.1.reg ∨ j ≠ i) :
    (s.setFs i l).getF g j = s.getF g j := by
  rw [State.getF, State.getF, rdReg_setFs_ne s h]

/-- Two fields have no bit in common. -/
def Fld.Apart (f g : Fld) : Prop := g.reg ≠ f.reg ∨ f.lo + f.w ≤ g.lo ∨ g.lo + g.w ≤ f.lo

theorem getF_setFs_apart (s : State) {l : List (Fld × Nat)} {g : Fld} (i : Nat) (hw : ∀ x ∈ l, x.1.lo + x.1.w ≤ 64)
    (ha : ∀ x ∈ l, x.1.Apart g) : (s.setFs i l).getF g i = s.getF g i :=
  List.foldlRecOn (motive := fun t : State => t.getF g i = s.getF g i) l _ rfl fun _ ht x hx =>
    (getF_setF_ne _ (hw x hx) ((ha x hx).imp_right .inr)).trans ht

/-- Of several writes of fields apart from each other, each field reads as written. -/
theorem getF_setFs_of_mem (s : State) {l : List (Fld × Nat)} {x : Fld × Nat} (i : Nat) (hw : ∀ y ∈ l, y.1.lo + y.1.w ≤ 64)
    (ha : l.Pairwise fun y z => z.1.Apart y.1) (hx : x ∈ l) : (s.setFs i l).getF x.1 i = x.2 % 2 ^ x.1.w := by
  induction l generalizing s with
  | nil => simp at hx
  | cons y l ih =>
    obtain ⟨hy, hl⟩ := List.forall_mem_cons.1 hw
    obtain ⟨hya, hla⟩ := List.pairwise_cons.1 ha
    rcases List.mem_cons.1 hx with rfl | hx
    · exact (getF_setFs_apart (s.setF x.1 i x.2) i hl hya).trans (getF_setF_same s hy)
    · exact ih (s.setF y.1 i y.2) hl hla hx

@[simp] theorem setFs_mem (s : State) (i : Nat) (l : List (Fld × Nat)) : (s.setFs i l).mem = s.mem :=
  List.foldlRecOn (motive := fun t : State => t.mem = s.mem) l _ rfl fun _ h _ _ => h

@[simp] theorem setFs_core_at (s : State) (i : Nat) (l : List (Fld × Nat)) (n : Nat) : (s.setFs i l).core n = s.core n :=
  List.foldlRecOn (motive := fun t : State => t.core n = s.core n) l _ rfl fun _ h _ _ => h

@[simp] theorem setFs_part_at (s : State) (i : Nat) (l : List (Fld × Nat)) (p : Nat) : (s.setFs i l).part p = s.part p :=
  List.foldlRecOn (motive := fun t : State => t.part p = s.part p) l _ rfl fun _ h _ _ => h

/-! ## A core stopped by its fault -/

/-- Core `n` has stopped at command `q` with `v` in its CORE_FAULT, and memory is `m`. -/
structure State.StoppedAt (s : State) (n q v : Nat) (m : List Host.Cell) : Prop where
  mem : s.mem = m
  stop : (s.core n).stop = some q
  fault : s.rdReg .CORE_FAULT n = v

namespace State.StoppedAt

variable {s : State} {n q v : Nat} {m : List Host.Cell}

/-- What changes neither memory nor registers nor cores keeps the stop. -/
theorem congr {t : State} (h : s.StoppedAt n q v m) (hm : t.mem = s.mem) (hc : t.cores = s.cores) (hr : t.regs = s.regs) :
    t.StoppedAt n q v m := by
  obtain ⟨h1, h2, h3⟩ := h
  refine ⟨hm.trans h1, ?_, ?_⟩
  · rwa [State.core, hc]
  · rwa [State.rdReg, hr]

theorem foldl {α : Type} {l : List α} {f : State → α → State} (h : s.StoppedAt n q v m)
    (hf : ∀ t x, x ∈ l → t.StoppedAt n q v m → (f t x).StoppedAt n q v m) : (l.foldl f s).StoppedAt n q v m :=
  List.foldlRecOn l f h fun t ht x hx => hf t x hx ht

theorem setF {f : Fld} {i : Nat} (h : s.StoppedAt n q v m) (x : Nat) (hf : Reg.CORE_FAULT ≠ f.reg ∨ n ≠ i) :
    (s.setF f i x).StoppedAt n q v m :=
  ⟨h.mem, h.stop, (rdReg_setF_ne s x hf).trans h.fault⟩

theorem addF {f : Fld} {i : Nat} (h : s.StoppedAt n q v m) (x : Nat) (hf : Reg.CORE_FAULT ≠ f.reg ∨ n ≠ i) :
    (s.addF f i x).StoppedAt n q v m := h.setF _ hf

theorem setFs {i : Nat} {l : List (Fld × Nat)} (h : s.StoppedAt n q v m) (hl : ∀ x ∈ l, Reg.CORE_FAULT ≠ x.1.reg ∨ n ≠ i) :
    (s.setFs i l).StoppedAt n q v m :=
  h.foldl fun _ x hx ht => ht.setF x.2 (hl x hx)

theorem setCore {i : Nat} {c : Core} (h : s.StoppedAt n q v m) (hc : i = n → c.stop = some q) : (s.setCore i c).StoppedAt n q v m := by
  refine ⟨h.mem, ?_, h.fault⟩
  by_cases hi : n = i
  · subst hi
    rw [setCore_core_same, hc rfl]
  · rw [setCore_core_ne s i c hi, h.stop]

theorem of_ite {c : Prop} [Decidable c] {t u : State} (ht : t.StoppedAt n q v m) (hu : u.StoppedAt n q v m) :
    (if c then t else u).StoppedAt n q v m := by
  split
  · exact ht
  · exact hu

theorem modPart {p : Nat} {f : Part → Part} (h : s.StoppedAt n q v m) : (s.modPart p f).StoppedAt n q v m := h.congr rfl rfl rfl

theorem recordFault {i seq eng code : Nat} (h : s.StoppedAt n q v m) (hi : n ≠ i) :
    (s.recordFault i seq eng code).StoppedAt n q v m := by
  unfold State.recordFault
  exact of_ite (h.setF _ (.inr hi)) (h.setFs fun _ _ => .inr hi)

/-- A core that has stopped by itself keeps its stop and its record when the step is aborted, on it or on another core. -/
theorem abortCore {i : Nat} (h : s.StoppedAt n q v m) : (s.abortCore i).StoppedAt n q v m := by
  unfold State.abortCore
  dsimp only
  split
  · next k hk => exact h.setCore fun e => by subst e; exact h.stop
  · next hk =>
    have hi : n ≠ i := by
      rintro rfl
      simp [h.stop] at hk
    exact ((h.recordFault hi).setFs fun _ _ => .inr hi).setCore fun e => absurd e.symm hi

theorem endHold {p : Nat} (h : s.StoppedAt n q v m) : (s.endHold p).StoppedAt n q v m := by
  unfold State.endHold
  split
  · exact h
  · exact (h.setF _ (.inl (by decide))).modPart

theorem loseOpen {i : Nat} (h : s.StoppedAt n q v m) : (s.loseOpen i).StoppedAt n q v m := by
  unfold State.loseOpen
  split
  · have ht : s.takeFree.1.StoppedAt n q v m := h.congr rfl rfl rfl
    exact (ht.addF _ (.inl (by decide))).addF _ (.inl (by decide))
  · exact h

theorem clearThresholds {p : Nat} (h : s.StoppedAt n q v m) : (s.clearThresholds p).StoppedAt n q v m := by
  have hlocal := h.foldl (l := List.range 8) (f := fun s c => if s.ownsT p c then s.setTctx c Ctx.init else s)
    fun t c _ ht => of_ite (ht.congr rfl rfl rfl) ht
  have hsys := hlocal.foldl (l := List.range 32) (f := fun s c => if s.ownsS p c then s.setSctx c Ctx.init else s)
    fun t c _ ht => of_ite (ht.congr rfl rfl rfl) ht
  exact hsys.congr rfl rfl rfl

theorem abortApply {p status : Nat} (h : s.StoppedAt n q v m) : (s.abortApply p status).StoppedAt n q v m := by
  have hlost := (h.endHold (p := p)).foldl (l := (s.endHold p).members p) (f := State.loseOpen) fun _ _ _ ht => ht.loseOpen
  have hdropped := hlost.foldl (l := (((s.endHold p).members p).foldl State.loseOpen (s.endHold p)).members p)
    (f := State.abortCore) fun _ _ _ ht => ht.abortCore
  have hquiet := (hdropped.clearThresholds (p := p)).setFs (i := p) (l := [(F.CTL_ABORT_QUIET, 1), (F.LATCH_START_WAITING, 0)])
    (by simp [F.CTL_ABORT_QUIET, F.LATCH_START_WAITING])
  exact hquiet.congr rfl rfl rfl

theorem lateAbort {p : Nat} (h : s.StoppedAt n q v m) : (s.lateAbort p).StoppedAt n q v m := by
  have hquiet := h.setFs (i := p) (l := [(F.CTL_ABORT_LATE, 1), (F.CTL_ABORT_QUIET, 1)])
    (by simp [F.CTL_ABORT_LATE, F.CTL_ABORT_QUIET])
  exact hquiet.congr rfl rfl rfl

theorem recordAbort {p node cause detail : Nat} (h : s.StoppedAt n q v m) : (s.recordAbort p node cause detail).StoppedAt n q v m :=
  h.setFs (by simp [F.CTL_ABORT_NODE, F.CTL_ABORT_CAUSE, F.CTL_ABORT_DETAIL, F.CTL_ABORT_VALID])

theorem sendAbort {p cause detail : Nat} (h : s.StoppedAt n q v m) : (s.sendAbort p cause detail).StoppedAt n q v m := by
  unfold State.sendAbort
  split
  · exact h
  · exact h.congr rfl rfl rfl

theorem logNote {sev code p : Nat} {args : List Nat} (h : s.StoppedAt n q v m) : (s.logNote sev code p args).StoppedAt n q v m := by
  have hfull := h.addF (f := F.CTL_LOG_DROPPED) (i := 0) 1 (.inl (by simp [F.CTL_LOG_DROPPED]))
  have hpush : (s.logPush ⟨sev, code, p, s.now, args⟩).StoppedAt n q v m := by
    unfold State.logPush
    exact of_ite (h.congr rfl rfl rfl) (hfull.congr rfl rfl rfl)
  exact hpush.congr rfl rfl rfl

/-- The abort that a fault raises leaves the faulting core as it stopped. -/
theorem abortStep {p cause detail : Nat} (h : s.StoppedAt n q v m) : (s.abortStep p cause detail).StoppedAt n q v m := by
  have hcount := h.addF (f := F.CTL_ABORT_COUNT) (i := p) 1 (.inl (by simp [F.CTL_ABORT_COUNT]))
  unfold State.abortStep
  exact of_ite hcount.recordAbort.sendAbort.abortApply.logNote (of_ite hcount.recordAbort.sendAbort.lateAbort.logNote hcount)

end State.StoppedAt

/-! ## The fault of a command (R43) -/

@[simp] theorem logNote_part_at (s : State) (sev code p : Nat) (args : List Nat) (j : Nat) :
    (s.logNote sev code p args).part j = s.part j := by
  unfold State.logNote State.logPush
  split <;> rfl

/-- An aborted step does not run. -/
theorem abortApply_running (s : State) (p status : Nat) : ((s.abortApply p status).part p).running = false := by
  have h : ∀ (t : State) (f : Part → Part), ((t.modPart p f).purge p).part p = f (t.part p) :=
    fun t f => tget_tset_same _ _ _ _
  unfold State.abortApply
  rw [h]

/-- An abort of a partition with an active step ends it. -/
theorem abortStep_running {s : State} {p : Nat} (h : s.stepActive p = true) (cause detail : Nat) :
    ((s.abortStep p cause detail).part p).running = false := by
  have hcount : (s.addF F.CTL_ABORT_COUNT p 1).stepActive p = true := h
  unfold State.abortStep
  simp only [hcount, if_true]
  exact (congrArg Part.running (logNote_part_at _ _ _ _ _ _)).trans (abortApply_running _ _ _)

/-- The core as its own fault leaves it, before the abort: the record is made, and the store buffer keeps what is older. -/
def State.faulted (s : State) (n seq eng code : Nat) : State :=
  let keep := (s.core n).sb.filter (fun e => e.seq < seq)
  ((s.recordFault n seq eng code).setFs n [(F.CORE_DRAIN_LAST_SEQ, (s.core n).lastTaken),
    (F.CORE_DRAIN_DISCARDED, (s.core n).sb.length - keep.length), (F.CORE_DRAIN_DRAINED, 0)]).setCore n
      { s.core n with stop := some seq, sb := keep }

theorem coreFault_eq (s : State) (n seq eng code : Nat) :
    s.coreFault n seq eng code = (s.faulted n seq eng code).abortStep ((s.faulted n seq eng code).partOf n) 1 code := rfl

section

variable {s : State} {n seq eng code : Nat}

@[simp] theorem recordFault_mem : (s.recordFault n seq eng code).mem = s.mem := by
  unfold State.recordFault
  split <;> simp

@[simp] theorem recordFault_part_at (p : Nat) : (s.recordFault n seq eng code).part p = s.part p := by
  unfold State.recordFault
  split <;> simp

/-- The record of a fault is made in CORE_FAULT and CORE_STATUS. -/
theorem getF_recordFault_ne {g : Fld} {j : Nat} (hf : g.reg ≠ .CORE_FAULT) (hs : g.reg ≠ .CORE_STATUS) :
    (s.recordFault n seq eng code).getF g j = s.getF g j := by
  unfold State.recordFault
  split
  · exact getF_setF_ne _ (by decide) (.inl hf)
  · refine getF_setFs_ne s ?_
    simp [F.CORE_FAULT_SEQ, F.CORE_FAULT_ENGINE, F.CORE_FAULT_CODE, F.CORE_FAULT_VALID, F.CORE_STATUS_FAULTED, hf, hs]

theorem faulted_partOf : (s.faulted n seq eng code).partOf n = s.partOf n := by
  refine (getF_setFs_ne _ ?_).trans (getF_recordFault_ne (by decide) (by decide))
  simp [F.CORE_ID_PARTITION, F.CORE_DRAIN_LAST_SEQ, F.CORE_DRAIN_DISCARDED, F.CORE_DRAIN_DRAINED]

theorem faulted_stepActive (p : Nat) : (s.faulted n seq eng code).stepActive p = s.stepActive p := by
  simp [State.faulted, State.stepActive]

/-- CORE_FAULT after a fault is what its record made of it. -/
theorem coreFault_stoppedAt :
    (s.coreFault n seq eng code).StoppedAt n seq ((s.recordFault n seq eng code).rdReg .CORE_FAULT n) s.mem := by
  have h : (s.faulted n seq eng code).StoppedAt n seq ((s.recordFault n seq eng code).rdReg .CORE_FAULT n) s.mem := by
    refine ⟨by simp [State.faulted], by simp [State.faulted], rdReg_setFs_ne _ ?_⟩
    simp [F.CORE_DRAIN_LAST_SEQ, F.CORE_DRAIN_DISCARDED, F.CORE_DRAIN_DRAINED]
  exact h.abortStep

theorem getF_coreFault {g : Fld} (hg : g.reg = .CORE_FAULT) :
    (s.coreFault n seq eng code).getF g n = (s.recordFault n seq eng code).getF g n := by
  simp only [State.getF, hg, coreFault_stoppedAt.fault]

/-- What the record of a fault writes. -/
def faultFields (seq eng code : Nat) : List (Fld × Nat) :=
  [(F.CORE_FAULT_SEQ, seq), (F.CORE_FAULT_ENGINE, eng), (F.CORE_FAULT_CODE, code), (F.CORE_FAULT_VALID, 1), (F.CORE_STATUS_FAULTED, 1)]

/-- On a core without a record of a fault, the fields of CORE_FAULT read as its own fault writes them. -/
theorem getF_coreFault_of_mem {x : Fld × Nat} (hv : s.flag F.CORE_FAULT_VALID n = false) (hx : x ∈ faultFields seq eng code)
    (hr : x.1.reg = .CORE_FAULT) : (s.coreFault n seq eng code).getF x.1 n = x.2 % 2 ^ x.1.w := by
  have hrec : s.recordFault n seq eng code = s.setFs n (faultFields seq eng code) := by
    simp [State.recordFault, faultFields, hv]
  rw [getF_coreFault hr, hrec]
  refine getF_setFs_of_mem s n ?_ ?_ hx <;>
    simp [faultFields, Fld.Apart, F.CORE_FAULT_SEQ, F.CORE_FAULT_ENGINE, F.CORE_FAULT_CODE, F.CORE_FAULT_VALID, F.CORE_STATUS_FAULTED]

end

/-- Between `s` and `t` core `n` has faulted at command `seq` of engine `eng` with `code` (R43): the record is made, the core stops
there, an active step of its partition ends, and memory is as before. -/
structure State.Faults (s t : State) (n seq eng code : Nat) : Prop where
  hasCode : t.getF F.CORE_FAULT_CODE n = code
  hasEngine : t.getF F.CORE_FAULT_ENGINE n = eng
  hasSeq : t.getF F.CORE_FAULT_SEQ n = seq % 2 ^ F.CORE_FAULT_SEQ.w
  valid : t.flag F.CORE_FAULT_VALID n = true
  stop : (t.core n).stop = some seq
  ends : s.stepActive (s.partOf n) = true → (t.part (s.partOf n)).running = false
  mem : t.mem = s.mem

/-- A command fault on a core without a record of one. -/
theorem coreFault_faults {s : State} {n seq eng code : Nat} (hv : s.flag F.CORE_FAULT_VALID n = false) (he : eng < 8)
    (hc : code < 256) : s.Faults (s.coreFault n seq eng code) n seq eng code where
  hasCode := (getF_coreFault_of_mem (x := (F.CORE_FAULT_CODE, code)) hv (by simp [faultFields]) rfl).trans (Nat.mod_eq_of_lt hc)
  hasEngine := (getF_coreFault_of_mem (x := (F.CORE_FAULT_ENGINE, eng)) hv (by simp [faultFields]) rfl).trans (Nat.mod_eq_of_lt he)
  hasSeq := getF_coreFault_of_mem (x := (F.CORE_FAULT_SEQ, seq)) hv (by simp [faultFields]) rfl
  valid := by rw [State.flag, getF_coreFault_of_mem (x := (F.CORE_FAULT_VALID, 1)) hv (by simp [faultFields]) rfl]; rfl
  stop := coreFault_stoppedAt.stop
  ends h := by
    rw [coreFault_eq, faulted_partOf]
    exact abortStep_running ((faulted_stepActive _).trans h) _ _
  mem := coreFault_stoppedAt.mem

/-! ## The dispatcher takes a command (R22, R23, R27) -/

@[simp] theorem endHold_core_at (s : State) (p n : Nat) : (s.endHold p).core n = s.core n := by
  unfold State.endHold
  split <;> rfl

@[simp] theorem endHold_mem (s : State) (p : Nat) : (s.endHold p).mem = s.mem := by
  unfold State.endHold
  split <;> rfl

@[simp] theorem updateHold_core_at (s : State) (p n : Nat) : (s.updateHold p).core n = s.core n := by
  unfold State.updateHold
  dsimp only
  split
  · split <;> rfl
  · exact endHold_core_at s p n

@[simp] theorem updateHold_mem (s : State) (p : Nat) : (s.updateHold p).mem = s.mem := by
  unfold State.updateHold
  dsimp only
  split
  · split <;> rfl
  · exact endHold_mem s p

@[simp] theorem queue_setQueue_same (k : Core) (eng : Nat) (l : List QEntry) : (k.setQueue eng l).queue eng = l := by
  match eng with
  | 0 | 1 | 2 | 3 | _ + 4 => rfl

@[simp] theorem setQueue_seq (k : Core) (eng : Nat) (l : List QEntry) : (k.setQueue eng l).seq = k.seq := by
  match eng with
  | 0 | 1 | 2 | 3 | _ + 4 => rfl

@[simp] theorem advance_queue (k : Core) (c : Cmd) (eng : Nat) : (k.advance c).queue eng = k.queue eng := by
  match eng with
  | 0 | 1 | 2 | 3 | _ + 4 => rfl

@[simp] theorem advance_seq (k : Core) (c : Cmd) : (k.advance c).seq = k.seq + 1 := rfl

/-- Core `core` may dispatch, its next command is `c`, and its stream does not end there without a STEP_END. -/
structure State.Takes (s : State) (core : Nat) (c : Cmd) : Prop where
  may : s.mayDispatch core = true
  next : (s.core core).next = .cmd c
  notEnd : (s.core core).seq + 1 = s.getF F.DISP_STREAM_LEN_COMMANDS core → opOf (hEngine c) (hOpcode c) = some .stepEnd

/-- A queue entry of a command as the dispatcher places it. -/
def Core.placed (k : Core) (c : Cmd) : QEntry := ⟨c, k.seq, k.beat, false, false, [], [], 0, none⟩

section

variable {s : State} {core : Nat} {c : Cmd}

theorem exec_dispatchCommand (h : core < 256) : exec (.dispatchCommand core) s = .next (s.dispatch core) :=
  if_neg (by simp [unitOk, h])

/-- What the dispatcher does with a command it takes. -/
theorem dispatch_takes (h : s.Takes core c) :
    s.dispatch core =
      if headerCheck c ≠ 0 then s.coreFault core (s.core core).seq 5 (headerCheck c)
      else if hEngine c = 5 then s.setCore core { s.core core with held := true }
      else if 64 ≤ ((s.core core).queue (hEngine c)).length then s
      else (s.setCore core (((s.core core).setQueue (hEngine c)
        ((s.core core).queue (hEngine c) ++ [(s.core core).placed c])).advance c)).updateHold (s.partOf core) := by
  obtain ⟨hmay, hnext, hend⟩ := h
  have hgo : ¬ ((s.core core).seq + 1 = s.getF F.DISP_STREAM_LEN_COMMANDS core ∧ opOf (hEngine c) (hOpcode c) ≠ some .stepEnd) :=
    fun ⟨h1, h2⟩ => h2 (hend h1)
  unfold State.dispatch
  simp only [hmay, hnext, if_neg hgo, not_true_eq_false, if_false]
  rfl

/-- A header check that fails faults the core. -/
theorem dispatch_faults (hc : core < 256) (h : s.Takes core c) (hbad : headerCheck c ≠ 0)
    (hv : s.flag F.CORE_FAULT_VALID core = false) :
    ∃ t, exec (.dispatchCommand core) s = .next t ∧ s.Faults t core (s.core core).seq 5 (headerCheck c) := by
  refine ⟨_, exec_dispatchCommand hc, ?_⟩
  rw [dispatch_takes h, if_pos hbad]
  exact coreFault_faults hv (by decide) (headerCheck_lt c)

/-- A command of an engine with a good header waits in the engine's queue. -/
theorem dispatch_queues (hc : core < 256) (h : s.Takes core c) (hgood : headerCheck c = 0) (he : hEngine c < 5)
    (hroom : ((s.core core).queue (hEngine c)).length < 64) :
    ∃ t, exec (.dispatchCommand core) s = .next t ∧
      (t.core core).queue (hEngine c) = (s.core core).queue (hEngine c) ++ [(s.core core).placed c] ∧
      (t.core core).seq = (s.core core).seq + 1 ∧ t.mem = s.mem := by
  refine ⟨_, exec_dispatchCommand hc, ?_⟩
  rw [dispatch_takes h, if_neg (not_not.2 hgood), if_neg (Nat.ne_of_lt he), if_neg (Nat.not_le.2 hroom)]
  simp

/-- A command of the dispatcher with a good header is held. -/
theorem dispatch_holds (hc : core < 256) (h : s.Takes core c) (hgood : headerCheck c = 0) (he : hEngine c = 5) :
    exec (.dispatchCommand core) s = .next (s.setCore core { s.core core with held := true }) := by
  rw [exec_dispatchCommand hc, dispatch_takes h, if_neg (not_not.2 hgood), if_pos he]

end

/-! ## The commands of the engines -/

/-- The commands that an engine starts: the command, its engine and its operation. -/
def engineCommands (core : Nat) : List (Instr × Nat × Op) :=
  [(.nop core 0, 0, .nop), (.nop core 1, 1, .nop),
    (.nop core 2, 2, .nop), (.nop core 3, 3, .nop), (.nop core 4, 4, .nop), (.ldCopy core, 0, .ldCopy), (.ldPgather core, 0, .ldPgather),
    (.mmWload core, 1, .mmWload), (.mmStream core, 1, .mmStream), (.mmDrain core, 1, .mmDrain), (.veBinary core, 2, .veBinary),
    (.veUnary core, 2, .veUnary), (.veRreduce core, 2, .veRreduce), (.veOreduce core, 2, .veOreduce), (.veCmp core, 2, .veCmp),
    (.veTopk core, 2, .veTopk), (.veTranspose core, 2, .veTranspose), (.stCopy core, 3, .stCopy), (.sdData core, 4, .sdData),
    (.sdLatch core, 4, .sdLatch), (.sdArrive core, 4, .sdArrive)]

/-- The commands that the dispatcher handles itself. -/
def heldCommands (core : Nat) : List (Instr × Op) :=
  [(.nop core 5, .nop), (.beatEnd core, .beatEnd), (.stepEnd core, .stepEnd), (.latchReset core, .latchReset), (.peepEmit core, .peepEmit)]

section

variable {s : State} {core : Nat}

theorem unitOk_of_lt {eng : Nat} (h : core < 256) (he : eng ≤ 5) : ¬¬unitOk core eng = true := by
  simp [unitOk, h, he]

theorem exec_nop_engine {eng : Nat} (h : core < 256) (he : eng < 5) :
    exec (.nop core eng) s = s.runHead core eng .nop fun s e => .next (s.markStarted core eng e) :=
  (if_neg (unitOk_of_lt h he.le)).trans (if_neg he.ne)

/-- Every command of an engine starts by the rules that engines share. -/
theorem exec_runHead (h : core < 256) (s : State) :
    ∀ x ∈ engineCommands core, ∃ body, exec x.1 s = s.runHead core x.2.1 x.2.2 body := by
  have load : ¬¬unitOk core 0 = true := unitOk_of_lt h (by decide)
  have matrix : ¬¬unitOk core 1 = true := unitOk_of_lt h (by decide)
  have vector : ¬¬unitOk core 2 = true := unitOk_of_lt h (by decide)
  have store : ¬¬unitOk core 3 = true := unitOk_of_lt h (by decide)
  have send : ¬¬unitOk core 4 = true := unitOk_of_lt h (by decide)
  simp only [engineCommands, List.forall_mem_cons]
  exact ⟨⟨_, exec_nop_engine h (by decide)⟩, ⟨_, exec_nop_engine h (by decide)⟩, ⟨_, exec_nop_engine h (by decide)⟩,
    ⟨_, exec_nop_engine h (by decide)⟩, ⟨_, exec_nop_engine h (by decide)⟩, ⟨_, if_neg load⟩, ⟨_, if_neg load⟩,
    ⟨_, if_neg matrix⟩, ⟨_, if_neg matrix⟩, ⟨_, if_neg matrix⟩, ⟨_, if_neg vector⟩, ⟨_, if_neg vector⟩,
    ⟨_, if_neg vector⟩, ⟨_, if_neg vector⟩, ⟨_, if_neg vector⟩, ⟨_, if_neg vector⟩, ⟨_, if_neg vector⟩,
    ⟨_, if_neg store⟩, ⟨_, if_neg send⟩, ⟨_, if_neg send⟩, ⟨_, if_neg send⟩, by simp⟩

variable {eng : Nat} {op : Op} {e : QEntry}

/-- The operation of the command that may start is the named one. -/
theorem opOf_startableOp (h : s.startableOp core eng op = some e) : opOf (hEngine e.cmd) (hOpcode e.cmd) = some op := by
  unfold State.startableOp at h
  split at h
  · split at h
    · next hop => exact Option.some.inj h ▸ hop
    · exact absurd h (by simp)
  · exact absurd h (by simp)

/-- A skipped command has nothing to do but the remote latch writes of an SD_DATA or SD_LATCH (R64). -/
theorem startSkipped_eq (h : s.startableOp core eng op = some e) :
    s.startSkipped core eng e = (s.putEntry core eng { e with
      started := true, skipped := true
      todo := if op = .sdData ∨ op = .sdLatch then (remoteSignals e.cmd).map (fun w =>
        (⟨.latch (if op = .sdData then cbytes e.cmd 50 8 else cbytes e.cmd 16 8) w.1 w.2, 0, 0⟩ : Todo)) else [] }).refill core := by
  simp only [State.startSkipped, latchTodos, opOf_startableOp h, Option.some.injEq]

theorem runHead_skips {body : State → QEntry → Out} (h : s.startableOp core eng op = some e) (hk : (s.core core).skips e.cmd = true) :
    s.runHead core eng op body = .next (s.startSkipped core eng e) := by
  simp [State.runHead, h, hk]

/-- The first operand check that fails faults the core, with the engine and the number of its command. -/
theorem runHead_faults {body : State → QEntry → Out} (he : eng < 8) (h : s.startableOp core eng op = some e)
    (hk : (s.core core).skips e.cmd = false) (hbad : operandCheck (s.checkEnv core e.cmd) op e.cmd ≠ 0)
    (hv : s.flag F.CORE_FAULT_VALID core = false) :
    ∃ t, s.runHead core eng op body = .next t ∧ s.Faults t core e.seq eng (operandCheck (s.checkEnv core e.cmd) op e.cmd) :=
  ⟨_, by simp [State.runHead, h, hk, hbad], coreFault_faults hv he (operandCheck_lt _ _ _)⟩

theorem engineCommands_engine_lt : ∀ x ∈ engineCommands core, x.2.1 < 8 := by
  simp [engineCommands]

/-! ## The commands of the dispatcher -/

theorem exec_nop_dispatcher (h : core < 256) : exec (.nop core 5) s = .next (s.handle core .nop true fun s _ => s) :=
  (if_neg (unitOk_of_lt h (le_refl 5))).trans (if_pos rfl)

/-- Every command of the dispatcher but STEP_END is handled by the rules that they share. -/
theorem exec_handle (h : core < 256) (s : State) :
    ∀ x ∈ heldCommands core, x.2 ≠ .stepEnd → ∃ f, exec x.1 s = .next (s.handle core x.2 true f) := by
  have hu : ¬¬unitOk core 5 = true := unitOk_of_lt h (le_refl 5)
  simp only [heldCommands, List.forall_mem_cons]
  exact ⟨fun _ => ⟨_, exec_nop_dispatcher h⟩, fun _ => ⟨_, if_neg hu⟩, fun hne => absurd rfl hne, fun _ => ⟨_, if_neg hu⟩,
    fun _ => ⟨_, if_neg hu⟩, by simp⟩

variable {c : Cmd}

/-- A skipped command of the dispatcher only signals. -/
theorem handle_skips {f : State → Cmd → State} (h : s.heldOp core op = some c) (hk : (s.core core).skips c = true) :
    s.handle core op true f = ((s.signal core c).modCore core (·.advance c)).updateHold ((s.signal core c).partOf core) := by
  simp [State.handle, h, hk]

theorem handle_faults {f : State → Cmd → State} {sig : Bool} (h : s.heldOp core op = some c) (hk : (s.core core).skips c = false)
    (hbad : operandCheck (s.checkEnv core c) op c ≠ 0) :
    s.handle core op sig f = s.coreFault core (s.core core).seq 5 (operandCheck (s.checkEnv core c) op c) := by
  simp [State.handle, h, hk, hbad]

theorem exec_stepEnd_faults (hc : core < 256) (h : s.heldOp core .stepEnd = some c)
    (hbad : operandCheck (s.checkEnv core c) .stepEnd c ≠ 0) :
    exec (.stepEnd core) s = .next (s.coreFault core (s.core core).seq 5 (operandCheck (s.checkEnv core c) .stepEnd c)) := by
  refine (if_neg (unitOk_of_lt hc (le_refl 5))).trans ?_
  simp [h, hbad]

/-- The first operand check that fails on a held command faults its core. -/
theorem held_faults (hc : core < 256) {x : Instr × Op} (hx : x ∈ heldCommands core) (h : s.heldOp core x.2 = some c)
    (hk : (s.core core).skips c = false) (hbad : operandCheck (s.checkEnv core c) x.2 c ≠ 0)
    (hv : s.flag F.CORE_FAULT_VALID core = false) :
    ∃ t, exec x.1 s = .next t ∧ s.Faults t core (s.core core).seq 5 (operandCheck (s.checkEnv core c) x.2 c) := by
  refine ⟨_, ?_, coreFault_faults hv (by decide) (operandCheck_lt _ _ _)⟩
  by_cases hend : x.2 = .stepEnd
  · obtain rfl : x = (.stepEnd core, .stepEnd) := by
      simpa [heldCommands, Prod.ext_iff, hend] using hx
    exact exec_stepEnd_faults hc h hbad
  · obtain ⟨f, hf⟩ := exec_handle hc s x hx hend
    rw [hf, handle_faults h hk hbad]

end

/-! ## The obligation -/

/-- Settles O55: the checks are the lists above in their order, a failing one is a fault of the core, and a skipped command starts or
is handled without them. -/
theorem headerIsChecked : Obligations.HeaderIsChecked := by
  unfold Obligations.HeaderIsChecked
  refine ⟨headerCheck_eq_firstFailing, ?_, ?_, ?_, operandCheck_eq_firstFailing, ?_, ?_⟩
  · intro s core c hc hmay hnext hend hbad hv
    obtain ⟨t, ht, hf⟩ := dispatch_faults hc ⟨hmay, hnext, hend⟩ hbad hv
    exact ⟨t, ht, hf.hasCode, hf.valid, hf.hasSeq, hf.stop, hf.ends, hf.mem⟩
  · intro s core c hc hmay hnext hend hgood he hroom
    exact dispatch_queues hc ⟨hmay, hnext, hend⟩ hgood he hroom
  · intro s core c hc hmay hnext hend hgood he
    exact dispatch_holds hc ⟨hmay, hnext, hend⟩ hgood he
  · intro s core e x hc hx hstart
    obtain ⟨body, hrun⟩ := exec_runHead hc s x hx
    refine ⟨fun hk => ?_, fun hk hbad hv => ?_⟩
    · rw [hrun, runHead_skips hstart hk, startSkipped_eq hstart]
    · obtain ⟨t, ht, hf⟩ := runHead_faults (body := body) (engineCommands_engine_lt x hx) hstart hk hbad hv
      exact ⟨t, hrun.trans ht, hf.hasCode, hf.hasEngine, hf.hasSeq, hf.valid, hf.stop, hf.ends, hf.mem⟩
  · intro s core c x hc hx hheld
    refine ⟨fun hk hne => ?_, fun hk hbad hv => ?_⟩
    · obtain ⟨f, hf⟩ := exec_handle hc s x hx hne
      rw [hf, handle_skips hheld hk]
    · obtain ⟨t, ht, hf⟩ := held_faults hc hx hheld hk hbad hv
      exact ⟨t, ht, hf.hasCode, hf.hasEngine, hf.valid, hf.stop, hf.ends, hf.mem⟩

end Sys2Proof.Machine
end

section
/-! SUPPORT. Packets that follow no plan (R276): what the package sends on one of its 36 ports waits there for its one hop; what it
puts on the number of a hinge does not, since the hinge takes it at once. -/

namespace Sys2Proof.Machine

/-! ## What moving flits leaves of a packet at the routers -/

/-- Where the outputs of a packet lead, and how many flits each has sent. -/
def Worm.hops (w : Worm) : List (Nat × Nat × Nat) := w.outs.map (fun b => (b.port, b.vc, b.sent))

/-- `u` is `w` later, with nothing delivered or sent in between: only the counts of flits taken and freed have moved. -/
structure Worm.Waits (w u : Worm) : Prop where
  pkt : u.pkt = w.pkt
  here : u.here = w.here
  hops : u.hops = w.hops

theorem Worm.Waits.refl (w : Worm) : w.Waits w := ⟨rfl, rfl, rfl⟩

theorem Worm.Waits.trans {w u x : Worm} (h : w.Waits u) (h' : u.Waits x) : w.Waits x :=
  ⟨h'.pkt.trans h.pkt, h'.here.trans h.here, h'.hops.trans h.hops⟩

theorem Branch.take_hop (b : Branch) (fan : Bool) (i n : Nat) :
    ((b.take fan i n).port, (b.take fan i n).vc, (b.take fan i n).sent) = (b.port, b.vc, b.sent) := by
  unfold Branch.take
  split_ifs <;> rfl

theorem Worm.waits_advance (w : Worm) (fuel : Nat) : w.Waits (w.advance fuel) := by
  induction fuel generalizing w with
  | zero => exact .refl w
  | succ fuel ih =>
    have htake : w.Waits { w with outs := w.outs.map (fun b => b.take w.pkt.fan w.freed w.flits.length) } :=
      ⟨rfl, rfl, by simp [Worm.hops, Branch.take_hop]⟩
    rw [Worm.advance]
    split
    · exact ⟨(ih _).pkt, (ih _).here, (ih _).hops.trans htake.hops⟩
    · exact htake

/-- Every output of the packet is one of the package's 36 ports: it crosses no hinge. -/
def Worm.staysInJamb (w : Worm) : Prop := ∀ x ∈ w.hops, x.1 < 36

theorem Worm.Waits.staysInJamb {w u : Worm} (h : w.Waits u) (hw : w.staysInJamb) : u.staysInJamb := by
  rwa [Worm.staysInJamb, h.hops]

/-- The hinges move nothing of a packet that crosses none. -/
theorem crossHinge_of_staysInJamb {s : State} {w : Worm} (h : s.rq = [w]) (hw : w.staysInJamb) (j v : Nat) :
    s.crossHinge j v = s := by
  have hport : ∀ b ∈ w.outs, b.port ≠ 36 + j := fun b hb => by
    have := hw _ (List.mem_map_of_mem hb)
    omega
  have hidle : w.wants (36 + j) v = false := by
    simp +contextual [Worm.wants, hport]
  simp [State.crossHinge, State.holder, h, hidle]

theorem crossAll_waits {s : State} {w : Worm} (h : s.rq = [w]) (hw : w.staysInJamb) (fuel : Nat) :
    ∃ u, (s.crossAll fuel).rq = [u] ∧ w.Waits u := by
  induction fuel generalizing s w with
  | zero => exact ⟨w, h, .refl w⟩
  | succ fuel ih =>
    have hadv := w.waits_advance 18
    have hcross : ∀ l : List (Nat × Nat), l.foldl (fun s x => s.crossHinge x.1 x.2) { s with rq := [w.advance 18] } =
        { s with rq := [w.advance 18] } := fun l =>
      List.foldlRecOn (motive := fun t => t = ({ s with rq := [w.advance 18] } : State)) l _ rfl
        fun t ht x _ => by rw [ht]; exact crossHinge_of_staysInJamb rfl (hadv.staysInJamb hw) x.1 x.2
    simp only [State.crossAll, h, List.map_cons, List.map_nil, hcross, if_true]
    exact ⟨_, rfl, hadv⟩

/-- A packet that crosses no hinge, is not delivered and has flits to send at an output stays at the routers. -/
theorem moveWorms_waits {s : State} {w : Worm} (h : s.rq = [w]) (hw : w.staysInJamb) (hhere : w.here = false)
    (hsend : ∃ x ∈ w.hops, x.2.2 < w.pkt.flits) : ∃ u, s.moveWorms.rq = [u] ∧ w.Waits u := by
  obtain ⟨u, hu, hwu⟩ := crossAll_waits h hw (6 * (s.rq.length + 1))
  have hopen : ∃ b ∈ u.outs, b.sent < u.pkt.flits := by
    rw [← hwu.hops, ← hwu.pkt] at hsend
    simpa [Worm.hops] using hsend
  refine ⟨{ u with stalled := if u.stalls then u.freed + 1 else u.stalled, here := false }, ?_, hwu.pkt, hhere.symm, hwu.hops⟩
  have hkeep : Worm.over { u with stalled := if u.stalls then u.freed + 1 else u.stalled, here := false } = false := by
    obtain ⟨b, hb, hlt⟩ := hopen
    simp only [Worm.over, Bool.and_eq_false_iff, List.all_eq_false]
    exact .inr ⟨b, hb, by simpa using hlt⟩
  simp [State.moveWorms, hu, hwu.here.trans hhere, hkeep]

/-! ## Putting a packet on a port -/

theorem setFs_rq (s : State) (i : Nat) (l : List (Fld × Nat)) : (s.setFs i l).rq = s.rq :=
  List.foldlRecOn (motive := fun t : State => t.rq = s.rq) l _ rfl fun _ h _ _ => h

theorem refreshPool_rq (s : State) (j : Nat) : (s.refreshPool j).rq = s.rq := setFs_rq s j _

theorem addF_rq (s : State) (f : Fld) (i n : Nat) : (s.addF f i n).rq = s.rq := rfl

theorem refreshPort_rq (s : State) (q : Nat) : (s.refreshPort q).rq = s.rq :=
  (refreshPool_rq _ _).trans ((addF_rq _ _ _ _).trans (setFs_rq s q _))

theorem passOn_rq (s : State) : s.passOn.rq = s.moveWorms.rq := by
  rw [State.passOn, refreshPool_rq, refreshPool_rq]
  exact List.foldlRecOn (motive := fun t : State => t.rq = s.moveWorms.rq) _ _ rfl
    fun t ht q _ => (refreshPort_rq t q).trans ht

theorem varyPort_rq (s : State) (cause q : Nat) : (s.varyPort cause q).rq = s.rq := by
  unfold State.varyPort
  split <;> rfl

theorem stir_rq (s : State) : s.stir.rq = s.rq := by
  unfold State.stir
  split <;> rfl

theorem setPstate_rq (s : State) (q st : Nat) : (s.setPstate q st).rq = s.rq := by
  unfold State.setPstate
  split_ifs <;> rfl

theorem wakePort_rq (s : State) (q : Nat) : (s.wakePort q).rq = s.rq :=
  (setPstate_rq s.stir q 12).trans (stir_rq s)

theorem wakeBy_rq (s : State) (q p v : Nat) : (s.wakeBy q p v).rq = s.rq := by
  unfold State.wakeBy
  split
  · rw [wakePort_rq]
    split
    · exact varyPort_rq s 7 q
    · rfl
  · rfl

/-- The packet that the package puts on port `q`, whole, as it joins the routers. -/
def State.outgoing (s : State) (q : Nat) (k : Packet) : Worm :=
  ⟨k, k.vc, k.cut, 0, true, [⟨q, k.vc, 0, 0⟩], false, s.now, s.nextCycle, 0, q / 18, true, none⟩

/-- A port that discards nothing wakes for the packet, which joins the routers. -/
theorem portPut_of_not_drop {s : State} {q : Nat} {k : Packet} (hdrop : (s.port q).drop = false) :
    s.portPut q k =
      let t := s.wakeBy q k.part k.vc
      ({ t with rq := s.rq ++ [t.outgoing q k] } : State).passOn := by
  simp [State.portPut, State.openBranch, hdrop, State.outgoing, wakeBy_rq]

/-- R276 on the package's ports: a packet put on one of the 36 that discards nothing is the one packet at the routers, and waits there
to make its one hop. -/
theorem portPut_oneHop {s : State} {q : Nat} {k : Packet} (hq : q < 36) (hdrop : (s.port q).drop = false) (h : s.rq = [])
    (hk : 0 < k.flits) : ∃ w, (s.portPut q k).rq = [w] ∧ w.pkt = k ∧ w.here = false ∧ w.hops = [(q, k.vc, 0)] := by
  let t := s.wakeBy q k.part k.vc
  obtain ⟨u, hu, hwu⟩ := moveWorms_waits (s := { t with rq := [t.outgoing q k] }) rfl (List.forall_mem_singleton.2 hq) rfl
    ⟨_, List.mem_singleton_self _, hk⟩
  refine ⟨u, ?_, hwu.pkt, hwu.here, hwu.hops⟩
  rw [portPut_of_not_drop hdrop, passOn_rq, h]
  exact hu

/-! ## The obligation -/

/-- A management packet of one flit, as the package makes it. -/
def oneFlitPacket : Packet := State.reset.mkPacket ptMGMT 5 0 0 1 [] .unit 0

/-- The model numbers the hinge outputs 36 and 37: what is put there crosses at once and is gone from the routers. A management route
may name such a number, since no check of a configuration (R385) bounds its port. -/
theorem portPut_hinge : (State.reset.portPut 36 oneFlitPacket).rq = [] := by decide +kernel

/-- Refutes O56: its clause on what the package sends does not bound the port, and fails at 36, the hinge of jamb 0. On the ports of
the package, 0 to 35, the same clause holds (`portPut_oneHop`). -/
theorem not_unplannedPackets : ¬ Obligations.UnplannedPackets := by
  unfold Obligations.UnplannedPackets
  rintro ⟨-, -, -, hop, -⟩
  obtain ⟨w, hw, -⟩ := hop State.reset 36 oneFlitPacket (by decide +kernel) rfl (by decide)
  simp [portPut_hinge] at hw

end Sys2Proof.Machine
end

section
/-! SUPPORT. One tick of the 500 MHz clock (R215, R223, R263, R418): the timebase, the rate that slews an offset away, and what
becomes due. -/

namespace Sys2Proof.Machine

variable {s : State}

/-! ## A fold that visits an index -/

/-- What a fold leaves where one of its steps writes: `g` reads `v` once `a` is visited, and no other index changes it. -/
theorem foldl_read {σ α β : Type} {f : σ → α → σ} {g : σ → β} {P : σ → Prop} {a : α} {v : β} {l : List α} (ha : a ∈ l)
    (hP : ∀ s x, P s → P (f s x)) (hset : ∀ s, P s → g (f s a) = v) (hkeep : ∀ s x, x ≠ a → g (f s x) = g s) {s : σ} (hs : P s) :
    g (l.foldl f s) = v := by
  have hstay : ∀ (l : List α) (s : σ), P s → g s = v → g (l.foldl f s) = v := by
    intro l
    induction l with
    | nil => exact fun _ _ h => h
    | cons x l ih =>
      intro s hs hg
      refine ih _ (hP s x hs) ?_
      by_cases hx : x = a
      · rw [hx, hset s hs]
      · rw [hkeep s x hx, hg]
  induction l generalizing s with
  | nil => cases ha
  | cons x l ih =>
    by_cases hx : x = a
    · exact hstay l _ (hP s x hs) (by rw [hx, hset s hs])
    · exact ih ((List.mem_cons.1 ha).resolve_left (Ne.symm hx)) (hP s x hs)

/-- What every step of a fold leaves alone, the fold leaves alone. -/
theorem foldl_keep {σ α β : Type} {f : σ → α → σ} {g : σ → β} {l : List α} (h : ∀ s, ∀ x ∈ l, g (f s x) = g s) (s : σ) :
    g (l.foldl f s) = g s := by
  induction l generalizing s with
  | nil => rfl
  | cons x l ih => rw [List.foldl_cons, ih fun s x hx => h s x (List.mem_cons_of_mem _ hx), h s x List.mem_cons_self]

/-! ## The rate -/

theorem now_setRate (r : Int) : (s.setRate r).now = s.now := getF_setF_ne s (by decide) (.inl (by decide))

theorem getF_setRate (r : Int) : (s.setRate r).getF F.TIME_RATE_PPB 0 = unsigned 32 r := by
  rw [State.setRate, getF_setF_same s (by decide), Nat.mod_eq_of_lt]
  show ((r % (2 ^ 32 : Int)).toNat) < 2 ^ 32
  omega

/-- A signed 32-bit value is read back from its encoding. -/
theorem signed_unsigned {r : Int} (h : -2 ^ 31 ≤ r) (h' : r < 2 ^ 31) : signed 32 (unsigned 32 r) = r := by
  have hb : bitAt (unsigned 32 r) 31 = decide (r < 0) := by
    unfold bitAt unsigned
    rw [Bool.eq_iff_iff, beq_iff_eq, decide_eq_true_iff]
    omega
  unfold signed
  rw [show (32 - 1 : Nat) = 31 from rfl, hb]
  unfold unsigned
  split
  · next h0 => have := of_decide_eq_true h0; omega
  · next h0 => have : ¬ r < 0 := fun h => h0 (decide_eq_true h); omega

/-- A rate within the limit of 200 ppm is the rate of the timebase once it is written. -/
theorem ratePpb_setRate {r : Int} (h : -200000 ≤ r) (h' : r ≤ 200000) : (s.setRate r).ratePpb = r := by
  rw [State.ratePpb, getF_setRate, signed_unsigned (by omega) (by omega)]
  omega

theorem only_setRate (r : Int) : s.Only (s.setRate r) [(F.TIME_RATE_PPB, 0)] := only_setF s (by decide)

/-! ## The timebase -/

/-- The rate that slews an offset away. -/
def slewTo (a : Int) : Int := if 0 < a then -200000 else 200000

theorem slewTo_bounds (a : Int) : -200000 ≤ slewTo a ∧ slewTo a ≤ 200000 := by
  unfold slewTo
  split <;> decide

theorem slewRate_plain (h : s.time.adj = 0 ∨ s.idleSteps = true) (hs : s.time.slew = none) : s.slewRate = s := by
  unfold State.slewRate
  rw [if_neg (by rcases h with h | h <;> simp [h]), hs]

theorem slewRate_slews (h : s.time.adj ≠ 0) (hi : s.idleSteps = false) :
    s.slewRate = { s.setRate (slewTo s.time.adj) with time := { s.time with slew := some (s.time.slew.getD s.ratePpb) } } := by
  unfold State.slewRate
  rw [if_pos ⟨h, by simp [hi]⟩]
  rfl

theorem slewRate_ends {r : Int} (h : s.time.adj = 0 ∨ s.idleSteps = true) (hs : s.time.slew = some r) :
    s.slewRate = { s.setRate r with time := { s.time with slew := none } } := by
  unfold State.slewRate
  rw [if_neg (by rcases h with h | h <;> simp [h]), hs]

/-- The timebase after a tick: the nanoseconds that the rate gives. -/
theorem timeTick_now : s.timeTick.now = (s.slewRate.now + (s.slewRate.time.frac + tickOf s.slewRate.ratePpb) / 2 ^ 32) % 2 ^ 64 := by
  show (s.slewRate.setF F.TIME_NOW_NS 0 _).getF F.TIME_NOW_NS 0 = _
  rw [getF_setF_same _ (by decide)]
  exact Nat.mod_mod _ _

theorem timeTick_time : s.timeTick.time = { s.slewRate.time with
    frac := (s.slewRate.time.frac + tickOf s.slewRate.ratePpb) % 2 ^ 32
    adj := (match s.slewRate.time.slew with
      | some r => offsetLeft s.slewRate.time.adj ((tickOf s.slewRate.ratePpb : Int) - tickOf r)
      | none => s.slewRate.time.adj) } := rfl

/-- A tick of the timebase changes time and registers alone. -/
theorem timeTick_eq : s.timeTick = { s with regs := s.timeTick.regs, time := s.timeTick.time } := by
  have h : s.slewRate = { s with regs := s.slewRate.regs, time := s.slewRate.time } := by
    unfold State.slewRate
    split
    · rfl
    · split <;> rfl
  rw [State.timeTick, h]
  rfl

theorem timeTick_getF {f : Fld} {i : Nat} (hf : f.reg ≠ .TIME_NOW) : s.timeTick.getF f i = s.slewRate.getF f i :=
  getF_setF_ne s.slewRate (f := F.TIME_NOW_NS) (by decide) (.inl hf)

/-- A tick of the timebase changes time and registers alone, and of the registers TIME_NOW. -/
theorem timeTick_frame {l : List (Fld × Nat)} (h : s.RegsBut s.slewRate l) : s.RegsBut s.timeTick ((F.TIME_NOW_NS, 0) :: l) :=
  regsBut_mono (regsBut_trans h (regsBut_setF s.slewRate (f := F.TIME_NOW_NS) (by decide))) fun p hp => by
    simp only [List.mem_append, List.mem_cons, List.not_mem_nil, or_false] at hp ⊢
    tauto

/-! ## What becomes due -/

theorem runPorts_idle (h : s.lockQ = []) : s.runPorts = s := by rw [State.runPorts, h]; rfl

theorem timeTick_lockQ : s.timeTick.lockQ = s.lockQ := by rw [timeTick_eq]

theorem timeTick_boot : s.timeTick.boot = s.boot := by rw [timeTick_eq]

theorem timeTick_ports : s.timeTick.ports = s.ports := by rw [timeTick_eq]

/-- With no port request waiting, a tick is the timebase's and what becomes due. -/
theorem tick_of_noRequest (h : s.lockQ = []) : s.tick = s.timeTick.dueHold.dueReset := by
  rw [State.tick, runPorts_idle (timeTick_lockQ.trans h)]

theorem dueHold_none (h : s.boot.holdIn = none) : s.dueHold = s := by rw [State.dueHold, h]
theorem dueReset_none (h : s.boot.resetIn = none) : s.dueReset = s := by rw [State.dueReset, h]

/-- With nothing due a tick is the timebase's. -/
theorem tick_of_nothingDue (hq : s.lockQ = []) (hh : s.boot.holdIn = none) (hr : s.boot.resetIn = none) : s.tick = s.timeTick := by
  rw [tick_of_noRequest hq, dueHold_none (by rw [timeTick_boot, hh]), dueReset_none (by rw [timeTick_boot, hr])]

theorem dueHold_due {n : Nat} (h : s.boot.holdIn = some n) (hn : n ≤ 1) :
    s.dueHold = { s.holdPorts with boot := { s.boot with holdIn := none } } := by
  simp only [State.dueHold, h, if_pos hn]

theorem dueHold_waits {n : Nat} (h : s.boot.holdIn = some n) (hn : 1 < n) :
    s.dueHold = { s with boot := { s.boot with holdIn := some (n - 1) } } := by
  simp only [State.dueHold, h, if_neg (show ¬ n ≤ 1 by omega)]

theorem dueReset_due {n : Nat} (h : s.boot.resetIn = some n) (hn : n ≤ 1) : s.dueReset = s.takeReset := by
  simp only [State.dueReset, h, if_pos hn]

theorem dueReset_waits {n : Nat} (h : s.boot.resetIn = some n) (hn : 1 < n) :
    s.dueReset = { s with boot := { s.boot with resetIn := some (n - 1) } } := by
  simp only [State.dueReset, h, if_neg (show ¬ n ≤ 1 by omega)]

/-- The hold leaves the count to a reset alone. -/
theorem dueHold_resetIn : s.dueHold.boot.resetIn = s.boot.resetIn := by
  cases h : s.boot.holdIn with
  | none => rw [dueHold_none h]
  | some n =>
    by_cases hn : n ≤ 1
    · rw [dueHold_due h hn]
    · rw [dueHold_waits h (by omega)]

@[simp] theorem setFs_boot (i : Nat) (l : List (Fld × Nat)) : (s.setFs i l).boot = s.boot := by
  unfold State.setFs
  exact foldl_keep (fun t x _ => by rfl) s

@[simp] theorem modPort_boot (q : Nat) (f : Port → Port) : (s.modPort q f).boot = s.boot := rfl

@[simp] theorem addF_boot (f : Fld) (i n : Nat) : (s.addF f i n).boot = s.boot := rfl

@[simp] theorem takeLocks_boot (code : Nat) (rs : List Nat) : (s.takeLocks code rs).boot = s.boot := rfl

@[simp] theorem dropLocks_boot (code : Nat) (rs : List Nat) : (s.dropLocks code rs).boot = s.boot := rfl

@[simp] theorem setPstate_boot (q st : Nat) : (s.setPstate q st).boot = s.boot := by
  simp only [State.setPstate]
  split <;> split <;> simp

@[simp] theorem detect_boot (q cause : Nat) : (s.detect q cause).boot = s.boot := by
  simp only [State.detect]
  split <;> simp

@[simp] theorem train_boot (q cause : Nat) : (s.train q cause).boot = s.boot := by
  simp only [State.train]
  split <;> simp

@[simp] theorem portWork_boot (q k : Nat) : (s.portWork q k).boot = s.boot := by
  simp only [State.portWork]
  repeat' split
  all_goals simp

theorem leaveQ_boot (code x : Nat) : (s.leaveQ code x).boot = s.boot := by
  unfold State.leaveQ
  split <;> rfl

theorem runPorts_boot : s.runPorts.boot = s.boot := by
  refine foldl_keep (g := State.boot) (fun t x _ => ?_) s
  split
  · rw [portWork_boot, leaveQ_boot]
  · rfl

theorem step_of_idle (h : s.pending = []) : step s = .next s.tick := by unfold step; rw [h]

/-! ## The hold of the ports (R263) -/

/-- What a hold makes of one port. -/
def State.holdPort (s : State) (q : Nat) : State :=
  (s.wrReg .PORT_STATUS q (Reg.reset .PORT_STATUS q).toNat).setF F.PORT_STATUS_STATE q (if s.getF F.PORT_CFG_CLASS q = 0 then 0 else 1)

theorem holdPort_class (q i : Nat) : (s.holdPort q).getF F.PORT_CFG_CLASS i = s.getF F.PORT_CFG_CLASS i := by
  rw [State.holdPort, getF_setF_ne _ (by decide) (.inl (by decide))]
  show bitsOf _ _ _ = bitsOf _ _ _
  rw [rdReg_wrReg_ne _ _ (.inl (by decide))]

theorem holdPort_pstate_same (q : Nat) : (s.holdPort q).pstate q = if s.getF F.PORT_CFG_CLASS q = 0 then 0 else 1 := by
  rw [State.holdPort, State.pstate, getF_setF_same _ (by decide)]
  split <;> rfl

theorem holdPort_pstate_ne {q i : Nat} (h : q ≠ i) : (s.holdPort q).pstate i = s.pstate i := by
  rw [State.holdPort, State.pstate, getF_setF_ne _ (by decide) (.inr (.inl h.symm))]
  show bitsOf _ _ _ = bitsOf _ _ _
  rw [rdReg_wrReg_ne _ _ (.inr h.symm)]

/-- What stands before the ports are held one by one: nothing of them in the tables and the lock queue. -/
def State.unlockPorts (s : State) : State :=
  (({ s with ports := [], rq := [], locks := s.locks.filter (fun l => l.1 != 6) } : State).setLockQ (s.lockQ.filter (fun l => l.1 != 6))).lockBits

theorem holdPorts_eq : s.holdPorts = (List.range 36).foldl State.holdPort s.unlockPorts := rfl

theorem unlockPorts_class (q : Nat) : s.unlockPorts.getF F.PORT_CFG_CLASS q = s.getF F.PORT_CFG_CLASS q := by
  rw [State.unlockPorts, State.lockBits, getF_setF_ne _ (by decide) (.inl (by decide)), State.setLockQ,
    getF_setF_ne _ (by decide) (.inl (by decide))]
  rfl

theorem holdPorts_pstate {q : Nat} (hq : q < 36) : s.holdPorts.pstate q = if s.getF F.PORT_CFG_CLASS q = 0 then 0 else 1 := by
  rw [holdPorts_eq]
  refine foldl_read (g := fun t : State => t.pstate q) (P := fun t => t.getF F.PORT_CFG_CLASS q = s.getF F.PORT_CFG_CLASS q)
    (List.mem_range.2 hq) (fun t x ht => (holdPort_class x q).trans ht) (fun t ht => ?_) (fun t x hx => holdPort_pstate_ne hx)
    (unlockPorts_class q)
  rw [holdPort_pstate_same, ht]

theorem pstate_withBoot (s : State) (b : Boot) (q : Nat) : ({ s with boot := b } : State).pstate q = s.pstate q := rfl

theorem holdPorts_ports (s : State) : s.holdPorts.ports = [] := by
  rw [holdPorts_eq, foldl_keep (g := State.ports)]
  · rfl
  · intros
    rfl

theorem holdPorts_rq (s : State) : s.holdPorts.rq = [] := by
  rw [holdPorts_eq, foldl_keep (g := State.rq)]
  · rfl
  · intros
    rfl

theorem timeTick_class (q : Nat) : s.timeTick.getF F.PORT_CFG_CLASS q = s.getF F.PORT_CFG_CLASS q := by
  rw [timeTick_getF (by decide)]
  unfold State.slewRate
  split
  · exact getF_setF_ne s (f := F.TIME_RATE_PPB) (by decide) (.inl (by decide))
  · split
    · exact getF_setF_ne s (f := F.TIME_RATE_PPB) (by decide) (.inl (by decide))
    · rfl

/-! ## The reset of the package (R418) -/

theorem takeReset_state_free (p : Nat) : s.takeReset.getF F.SEC_PCTL_STATE p = 0 := by
  show (s.afterReset false false).getF F.SEC_PCTL_STATE p = 0
  unfold State.afterReset
  simp only [Bool.false_eq_true, if_false]
  rw [getF_setF_ne _ (by decide) (.inl (by decide))]
  show bitsOf _ _ _ = 0
  rw [rdReg_wrReg_ne _ _ (.inl (by decide)), rdReg_wrReg_ne _ _ (.inl (by decide)), rdReg_setF_ne _ _ (.inl (by decide))]
  change bitsOf (BitVec.toNat (BitVec.ofNat 64 _)) 0 2 = 0
  decide

/-! ## The obligation -/

/-- Settles O2: a tick is the timebase's (`timeTick_now`, by the cases of `State.slewRate`), then what is due. -/
theorem idleStepTicks : Obligations.IdleStepTicks := by
  unfold Obligations.IdleStepTicks
  refine ⟨?plain, ?slews, ?ends, ?hold, ?reset, ?wait⟩
  case plain =>
    intro s hp hq hh hr hsl ha
    have hrate : s.slewRate = s := slewRate_plain ha hsl
    refine ⟨s.timeTick, by rw [step_of_idle hp, tick_of_nothingDue hq hh hr], ⟨?_, ?_⟩, timeTick_eq, ?_⟩
    · rw [timeTick_now, hrate]
      rfl
    · rw [timeTick_time, hrate, hsl]
      rfl
    · exact timeTick_frame (by rw [hrate]; exact regsBut_refl s [])
  case slews =>
    intro s hp hq hh hr ha hi
    obtain ⟨hlo, hhi⟩ := slewTo_bounds s.time.adj
    have hrate := slewRate_slews ha hi
    have hppb : s.slewRate.ratePpb = slewTo s.time.adj := by rw [hrate]; exact ratePpb_setRate (s := s) hlo hhi
    refine ⟨s.timeTick, by rw [step_of_idle hp, tick_of_nothingDue hq hh hr], ⟨?_, ?_, ?_, ?_, ?_⟩, timeTick_eq, ?_⟩
    · rw [timeTick_getF (by decide), hrate]
      exact getF_setRate (s := s) _
    · rw [timeTick_time, hrate]
    · rw [timeTick_time, hppb, hrate]
      rfl
    · rw [timeTick_now, hppb, hrate, ← now_setRate (s := s) (slewTo s.time.adj)]
      rfl
    · rw [timeTick_time, hppb, hrate]
      rfl
    · exact timeTick_frame (by rw [hrate]; exact (only_setRate (s := s) _).2)
  case ends =>
    intro s r hp hq hh hr hsl ⟨hlo, hhi⟩ ha
    have hrate := slewRate_ends ha hsl
    have hppb : s.slewRate.ratePpb = r := by rw [hrate]; exact ratePpb_setRate (s := s) hlo hhi
    refine ⟨s.timeTick, by rw [step_of_idle hp, tick_of_nothingDue hq hh hr], ?_, ?_, ?_, timeTick_eq, ?_⟩
    · rw [timeTick_getF (by decide), hrate]
      exact getF_setRate (s := s) _
    · rw [timeTick_time, hppb, hrate]
    · rw [timeTick_now, hppb, hrate, ← now_setRate (s := s) r]
      rfl
    · exact timeTick_frame (by rw [hrate]; exact (only_setRate (s := s) _).2)
  case hold =>
    intro s n hp hq hr hh
    have hh' : s.timeTick.boot.holdIn = some n := by rw [timeTick_boot, hh]
    refine ⟨s.timeTick.dueHold, ?_, fun hn => ?_, fun hn => ?_⟩
    · rw [step_of_idle hp, tick_of_noRequest hq, dueReset_none (by rw [dueHold_resetIn, timeTick_boot, hr])]
    · rw [dueHold_due hh' hn]
      refine ⟨rfl, ?_, ?_, fun q hq => ?_⟩
      · dsimp only
        exact holdPorts_ports s.timeTick
      · dsimp only
        exact holdPorts_rq s.timeTick
      · rw [pstate_withBoot, holdPorts_pstate hq, timeTick_class]
    · rw [dueHold_waits hh' hn, timeTick_boot]
      exact ⟨rfl, timeTick_ports⟩
  case reset =>
    intro s n hp hr hn
    have hdue : s.tick = s.timeTick.runPorts.dueHold.takeReset :=
      dueReset_due (by rw [dueHold_resetIn, runPorts_boot, timeTick_boot, hr]) hn
    refine ⟨s.tick, step_of_idle hp, ?_⟩
    rw [hdue]
    exact ⟨rfl, rfl, rfl, rfl, rfl, rfl, rfl, rfl, fun p _ => takeReset_state_free p⟩
  case wait =>
    intro s n hp hq hh hr hn
    have hr' : s.timeTick.boot.resetIn = some n := by rw [timeTick_boot, hr]
    refine ⟨s.timeTick.dueReset, ?_, ?_⟩
    · rw [step_of_idle hp, tick_of_noRequest hq, dueHold_none (by rw [timeTick_boot, hh])]
    · rw [dueReset_waits hr' hn, timeTick_boot]

end Sys2Proof.Machine
end

section
/-! SUPPORT. The whole block: the queue of commands, the tick of an empty queue, the state after reset, the form that every step
keeps, and that every command completes exactly when its operands name units of the package. -/

namespace Sys2Proof.Machine

/-! ## What a command does to the form of the state -/

/-- A well-formed command completes and keeps what every operation keeps. -/
theorem exec_inv {K : Prop} {W : List Instr} {s : State} : ∀ {i : Instr}, i.wf → s.Inv K W → Good K W (exec i s)
  | .nop .., hw, hs => execNop_inv hs hw
  | .ldCopy .., hw, hs => execLdCopy_inv hs hw
  | .ldPgather .., hw, hs => execLdPgather_inv hs hw
  | .stCopy .., hw, hs => execStCopy_inv hs hw
  | .sdData .., hw, hs => execSdData_inv hs hw
  | .sdLatch .., hw, hs => execSdLatch_inv hs hw
  | .sdArrive .., hw, hs => execSdArrive_inv hs hw
  | .beatEnd .., hw, hs => execBeatEnd_inv hs hw
  | .stepEnd .., hw, hs => execStepEnd_inv hs hw
  | .latchReset .., hw, hs => execLatchReset_inv hs hw
  | .peepEmit .., hw, hs => execPeepEmit_inv hs hw
  | .mmWload .., hw, hs => execMmWload_inv hs hw
  | .mmStream .., hw, hs => execMmStream_inv hs hw
  | .mmDrain .., hw, hs => execMmDrain_inv hs hw
  | .veBinary .., hw, hs => execVeBinary_inv hs hw
  | .veUnary .., hw, hs => execVeUnary_inv hs hw
  | .veRreduce .., hw, hs => execVeRreduce_inv hs hw
  | .veOreduce .., hw, hs => execVeOreduce_inv hs hw
  | .veCmp .., hw, hs => execVeCmp_inv hs hw
  | .veTopk .., hw, hs => execVeTopk_inv hs hw
  | .veTranspose .., hw, hs => execVeTranspose_inv hs hw
  | .dispatchCommand .., hw, hs => execDispatchCommand_inv hs hw
  | .streamBlockFetch .., hw, hs => execStreamBlockFetch_inv hs hw
  | .commandComplete .., hw, hs => execCommandComplete_inv hs hw
  | .loadPieceArrive .., hw, hs => execLoadPieceArrive_inv hs hw
  | .storeAck .., hw, hs => execStoreAck_inv hs hw
  | .granuleTaken .., hw, hs => execGranuleTaken_inv hs hw
  | .beatOpen .., hw, hs => execBeatOpen_inv hs hw
  | .holdTimeout .., hw, hs => execHoldTimeout_inv hs hw
  | .stepComplete .., hw, hs => execStepComplete_inv hs hw
  | .storeDrainLost .., hw, hs => execStoreDrainLost_inv hs hw
  | .dataArrive .., _, hs => execDataArrive_inv hs
  | .latchWriteArrive, _, hs => execLatchWriteArrive_inv hs
  | .thresholdArrive, _, hs => execThresholdArrive_inv hs
  | .arriveToken, _, hs => execArriveToken_inv hs
  | .completeToken, _, hs => execCompleteToken_inv hs
  | .startArrive .., hw, hs => execStartArrive_inv hs hw
  | .stepStart .., hw, hs => execStepStart_inv hs hw
  | .loadPlan .., hw, hs => execLoadPlan_inv hs hw
  | .unloadPlan .., hw, hs => execUnloadPlan_inv hs hw
  | .step .., hw, hs => execStep_inv hs hw
  | .partitionInfo .., hw, hs => execPartitionInfo_inv hs hw
  | .peepEnable .., hw, hs => execPeepEnable_inv hs hw
  | .ringSetup .., hw, hs => execRingSetup_inv hs hw
  | .pin .., hw, hs => execPin_inv hs hw
  | .logFlush .., hw, hs => execLogFlush_inv hs hw
  | .fwUpdate .., hw, hs => execFwUpdate_inv hs hw
  | .updateDrainTimeout, _, hs => execUpdateDrainTimeout_inv hs
  | .handoverTimeout, _, hs => execHandoverTimeout_inv hs
  | .memAccess .., hw, hs => execMemAccess_inv hs hw
  | .hbmRefresh .., hw, hs => execHbmRefresh_inv hs hw
  | .cellarRefresh .., hw, hs => execCellarRefresh_inv hs hw
  | .patrolScrub .., _, hs => execPatrolScrub_inv hs
  | .skewWindow, _, hs => execSkewWindow_inv hs
  | .hbmTempReport .., hw, hs => execHbmTempReport_inv hs hw
  | .memPhbmWrite .., hw, hs => execMemPhbmWrite_inv hs hw
  | .memPcelWrite .., hw, hs => execMemPcelWrite_inv hs hw
  | .memRequest .., _, hs => execMemRequest_inv hs
  | .memResponse, _, hs => execMemResponse_inv hs
  | .dmaDoorbell .., hw, hs => execDmaDoorbell_inv hs hw
  | .descriptorFetch .., hw, hs => execDescriptorFetch_inv hs hw
  | .dmaPiece .., hw, hs => execDmaPiece_inv hs hw
  | .descriptorComplete .., hw, hs => execDescriptorComplete_inv hs hw
  | .dmaTimeout .., hw, hs => execDmaTimeout_inv hs hw
  | .dmaStop .., hw, hs => execDmaStop_inv hs hw
  | .dmaResume .., hw, hs => execDmaResume_inv hs hw
  | .paneFreqRequest .., hw, hs => execPaneFreqRequest_inv hs hw
  | .paneFreqChange .., hw, hs => execPaneFreqChange_inv hs hw
  | .crossingDrift .., hw, hs => execCrossingDrift_inv hs hw
  | .refclkLoss, _, hs => execRefclkLoss_inv hs
  | .timeStep .., _, hs => execTimeStep_inv hs
  | .beaconSyncSend .., hw, hs => execBeaconSyncSend_inv hs hw
  | .sync .., hw, hs => execSync_inv hs hw
  | .delayReq .., hw, hs => execDelayReq_inv hs hw
  | .delayResp .., hw, hs => execDelayResp_inv hs hw
  | .beaconExchangeFail, _, hs => execBeaconExchangeFail_inv hs
  | .timebaseStep, _, hs => execTimebaseStep_inv hs
  | .ptpMessage .., _, hs => execPtpMessage_inv hs
  | .retrain .., hw, hs => execRetrain_inv hs hw
  | .sleep .., hw, hs => execSleep_inv hs hw
  | .wake .., hw, hs => execWake_inv hs hw
  | .off .., hw, hs => execOff_inv hs hw
  | .partnerSignal .., hw, hs => execPartnerSignal_inv hs hw
  | .equalise .., hw, hs => execEqualise_inv hs hw
  | .alignDone .., hw, hs => execAlignDone_inv hs hw
  | .trainingStageTimeout .., hw, hs => execTrainingStageTimeout_inv hs hw
  | .trainingFrame .., hw, hs => execTrainingFrame_inv hs hw
  | .laneFail .., hw, hs => execLaneFail_inv hs hw
  | .sleepTimeout .., hw, hs => execSleepTimeout_inv hs hw
  | .partnerWake .., hw, hs => execPartnerWake_inv hs hw
  | .relock .., hw, hs => execRelock_inv hs hw
  | .flitReceive .., hw, hs => execFlitReceive_inv hs hw
  | .goingAway .., hw, hs => execGoingAway_inv hs hw
  | .ackTimeout .., hw, hs => execAckTimeout_inv hs hw
  | .nakTimeout .., hw, hs => execNakTimeout_inv hs hw
  | .bsfSend .., hw, hs => execBsfSend_inv hs hw
  | .creditTimeout .., hw, hs => execCreditTimeout_inv hs hw
  | .holdTimeExpiry .., hw, hs => execHoldTimeExpiry_inv hs hw
  | .linkLost .., hw, hs => execLinkLost_inv hs hw
  | .routeLookup .., _, hs => execRouteLookup_inv hs
  | .rteEntryWrite .., hw, hs => execRteEntryWrite_inv hs hw
  | .fanEntryWrite .., hw, hs => execFanEntryWrite_inv hs hw
  | .rtePsetWrite .., hw, hs => execRtePsetWrite_inv hs hw
  | .inputDigest .., hw, hs => execInputDigest_inv hs hw
  | .weightLoad .., hw, hs => execWeightLoad_inv hs hw
  | .adapterLoad .., hw, hs => execAdapterLoad_inv hs hw
  | .qpConnect .., hw, hs => execQpConnect_inv hs hw
  | .rdmaReadResponse .., hw, hs => execRdmaReadResponse_inv hs hw
  | .rdmaRetryExhausted .., hw, hs => execRdmaRetryExhausted_inv hs hw
  | .chainPoll .., _, hs => execChainPoll_inv hs
  | .chainWordWrite .., _, hs => execChainWordWrite_inv hs
  | .chainBreak .., _, hs => execChainBreak_inv hs
  | .succLost .., _, hs => execSuccLost_inv hs
  | .chainRepairTimeout .., _, hs => execChainRepairTimeout_inv hs
  | .serveConfig .., hw, hs => execServeConfig_inv hs hw
  | .samplerConfig .., hw, hs => execSamplerConfig_inv hs hw
  | .customerSet .., hw, hs => execCustomerSet_inv hs hw
  | .prioSet .., hw, hs => execPrioSet_inv hs hw
  | .reqQuery .., hw, hs => execReqQuery_inv hs hw
  | .submit .., _, hs => execSubmit_inv hs
  | .cancel .., _, hs => execCancel_inv hs
  | .servingBoundary .., hw, hs => execServingBoundary_inv hs hw
  | .spill .., hw, hs => execSpill_inv hs hw
  | .sampleRow .., hw, hs => execSampleRow_inv hs hw
  | .partCreate .., hw, hs => execPartCreate_inv hs hw
  | .create .., hw, hs => execCreate_inv hs hw
  | .partTeardown .., hw, hs => execPartTeardown_inv hs hw
  | .teardown .., hw, hs => execTeardown_inv hs hw
  | .setPlanKey .., hw, hs => execSetPlanKey_inv hs hw
  | .setHostMode .., hw, hs => execSetHostMode_inv hs hw
  | .ideKm .., hw, hs => execIdeKm_inv hs hw
  | .getVersion .., hw, hs => execGetVersion_inv hs hw
  | .getCapabilities .., hw, hs => execGetCapabilities_inv hs hw
  | .negotiateAlgorithms .., hw, hs => execNegotiateAlgorithms_inv hs hw
  | .getDigests .., hw, hs => execGetDigests_inv hs hw
  | .getCertificate .., hw, hs => execGetCertificate_inv hs hw
  | .challenge .., hw, hs => execChallenge_inv hs hw
  | .getMeasurements .., hw, hs => execGetMeasurements_inv hs hw
  | .keyExchange .., hw, hs => execKeyExchange_inv hs hw
  | .finish .., hw, hs => execFinish_inv hs hw
  | .keyUpdate .., hw, hs => execKeyUpdate_inv hs hw
  | .heartbeat .., hw, hs => execHeartbeat_inv hs hw
  | .endSession .., hw, hs => execEndSession_inv hs hw
  | .debugNonce, _, hs => execDebugNonce_inv hs
  | .debugUnlock .., _, hs => execDebugUnlock_inv hs
  | .tamperAlarm .., hw, hs => execTamperAlarm_inv hs hw
  | .tamperClear .., _, hs => execTamperClear_inv hs
  | .ctlDoorbell .., hw, hs => execCtlDoorbell_inv hs hw
  | .fwload .., _, hs => execFwload_inv hs
  | .powerLoop .., hw, hs => execPowerLoop_inv hs hw
  | .thermalLoop .., hw, hs => execThermalLoop_inv hs hw
  | .peepholeDeliver .., hw, hs => execPeepholeDeliver_inv hs hw
  | .logCopy, _, hs => execLogCopy_inv hs
  | .mgmtPacket, _, hs => execMgmtPacket_inv hs
  | .uartRxChar .., _, hs => execUartRxChar_inv hs
  | .reset .., _, hs => execReset_inv hs
  | .ranuatTimeout, _, hs => execRanuatTimeout_inv hs
  | .resetAssert, _, hs => execResetAssert_inv hs
  | .pwrfail, _, hs => execPwrfail_inv hs
  | .abortReceive, _, hs => execAbortReceive_inv hs
  | .quietEnd .., hw, hs => execQuietEnd_inv hs hw
  | .stepReplay .., hw, hs => execStepReplay_inv hs hw
  | .lockstepTest .., _, hs => execLockstepTest_inv hs
  | .lockstepMismatch .., _, hs => execLockstepMismatch_inv hs
  | .controlComplexReset, _, hs => execControlComplexReset_inv hs
  | .rsDoorbell .., hw, hs => execRsDoorbell_inv hs hw
  | .encode .., hw, hs => execEncode_inv hs hw
  | .rebuild .., hw, hs => execRebuild_inv hs hw
  | .rsJobComplete .., hw, hs => execRsJobComplete_inv hs hw
  | .droop .., hw, hs => execDroop_inv hs hw
  | .overcurrent .., hw, hs => execOvercurrent_inv hs hw
  | .thermal, _, hs => execThermal_inv hs
  | .prochot .., _, hs => execProchot_inv hs
  | .emergClear .., hw, hs => execEmergClear_inv hs hw
  | .thermalTrip, _, hs => execThermalTrip_inv hs
  | .standbyEntry .., _, hs => execStandbyEntry_inv hs
  | .sleepEntry .., _, hs => execSleepEntry_inv hs
  | .runReturn .., hw, hs => execRunReturn_inv hs hw
  | .railOut5 .., hw, hs => execRailOut5_inv hs hw
  | .railUndervolt .., hw, hs => execRailUndervolt_inv hs hw
  | .registerWrite .., hw, hs => execRegisterWrite_inv hs hw
  | .paneRestart .., hw, hs => execPaneRestart_inv hs hw
  | .degradeRealign .., hw, hs => execDegradeRealign_inv hs hw
  | .flitSlot .., hw, hs => execFlitSlot_inv hs hw
  | .inboundTlp .., hw, hs => execInboundTlp_inv hs hw
  | .inboundPacket .., hw, hs => execInboundPacket_inv hs hw
  | .pldmRequest .., hw, hs => execPldmRequest_inv hs hw
  | .ptpLost, _, hs => execPtpLost_inv hs
  | .entropyFail, _, hs => execEntropyFail_inv hs

theorem exec_commandComplete_of_not_wf (s : State) {core eng lost : Nat} (h : ¬ (Instr.commandComplete core eng lost).wf) :
    exec (.commandComplete core eng lost) s = .fault .noSuchUnit :=
  if_pos (not_and_or.1 h |>.imp_right not_not.1)

/-- No load waits for a function that the package does not have. -/
theorem exec_loadPlan_of_not_wf (s : State) {h : Ctl} {g : Image} {x : Placing} (hw : ¬ (Instr.loadPlan h g x).wf) :
    exec (.loadPlan h g x) s = .fault .noSuchUnit := by
  have hfn : ¬ h.fn ≤ 16 := hw
  show execLoadPlan h g x s = _
  simp [execLoadPlan, State.loadWaits, State.control, hfn]

theorem exec_setPlanKey_of_not_wf (s : State) {who p digest : Nat} (hw : ¬ (Instr.setPlanKey who p digest).wf) :
    exec (.setPlanKey who p digest) s = .fault .noSuchUnit := by
  show execSetPlanKey who p digest s = _
  by_cases hp : p < 16
  · have hwho : ¬ who ≤ 17 := fun h => hw ⟨hp, h⟩
    simp [execSetPlanKey, State.spdmDo, hp, hwho]
  · simp [execSetPlanKey, hp]

theorem exec_registerWrite_of_not_wf (s : State) {a : Nat} {v : Word64} {ok : Bool} (hw : ¬ (Instr.registerWrite a v ok).wf) :
    exec (.registerWrite a v ok) s = .fault .noSuchUnit := by
  have hr : regAt a = none := Option.not_isSome_iff_eq_none.1 hw
  show execRegisterWrite a v ok s = _
  simp [execRegisterWrite, hr]

/-- A command that names a unit the package does not have stops. -/
theorem exec_of_not_wf (s : State) : ∀ {i : Instr}, ¬ i.wf → exec i s = .fault .noSuchUnit
  | .nop .., h => if_pos h
  | .ldCopy .., h => if_pos h
  | .ldPgather .., h => if_pos h
  | .stCopy .., h => if_pos h
  | .sdData .., h => if_pos h
  | .sdLatch .., h => if_pos h
  | .sdArrive .., h => if_pos h
  | .beatEnd .., h => if_pos h
  | .stepEnd .., h => if_pos h
  | .latchReset .., h => if_pos h
  | .peepEmit .., h => if_pos h
  | .mmWload .., h => if_pos h
  | .mmStream .., h => if_pos h
  | .mmDrain .., h => if_pos h
  | .veBinary .., h => if_pos h
  | .veUnary .., h => if_pos h
  | .veRreduce .., h => if_pos h
  | .veOreduce .., h => if_pos h
  | .veCmp .., h => if_pos h
  | .veTopk .., h => if_pos h
  | .veTranspose .., h => if_pos h
  | .dispatchCommand .., h => if_pos h
  | .streamBlockFetch .., h => if_pos h
  | .commandComplete .., h => exec_commandComplete_of_not_wf s h
  | .loadPieceArrive .., h => if_pos h
  | .storeAck .., h => if_pos h
  | .granuleTaken .., h => if_pos h
  | .beatOpen .., h => if_pos h
  | .holdTimeout .., h => if_pos h
  | .stepComplete .., h => if_pos h
  | .storeDrainLost .., h => if_pos h
  | .dataArrive .., h => (h trivial).elim
  | .latchWriteArrive, h => (h trivial).elim
  | .thresholdArrive, h => (h trivial).elim
  | .arriveToken, h => (h trivial).elim
  | .completeToken, h => (h trivial).elim
  | .startArrive .., h => if_pos h
  | .stepStart .., h => if_pos h
  | .loadPlan .., h => exec_loadPlan_of_not_wf s h
  | .unloadPlan .., h => if_pos h
  | .step .., h => if_pos h
  | .partitionInfo .., h => if_pos h
  | .peepEnable .., h => if_pos h
  | .ringSetup .., h => if_pos h
  | .pin .., h => if_pos h
  | .logFlush .., h => if_pos h
  | .fwUpdate .., h => if_pos h
  | .updateDrainTimeout, h => (h trivial).elim
  | .handoverTimeout, h => (h trivial).elim
  | .memAccess .., h => if_pos h
  | .hbmRefresh .., h => if_pos h
  | .cellarRefresh .., h => if_pos h
  | .patrolScrub .., h => (h trivial).elim
  | .skewWindow, h => (h trivial).elim
  | .hbmTempReport .., h => if_pos h
  | .memPhbmWrite .., h => if_pos h
  | .memPcelWrite .., h => if_pos h
  | .memRequest .., h => (h trivial).elim
  | .memResponse, h => (h trivial).elim
  | .dmaDoorbell .., h => if_pos h
  | .descriptorFetch .., h => if_pos h
  | .dmaPiece .., h => if_pos h
  | .descriptorComplete .., h => if_pos h
  | .dmaTimeout .., h => if_pos h
  | .dmaStop .., h => if_pos h
  | .dmaResume .., h => if_pos h
  | .paneFreqRequest .., h => if_pos h
  | .paneFreqChange .., h => if_pos h
  | .crossingDrift .., h => if_pos h
  | .refclkLoss, h => (h trivial).elim
  | .timeStep .., h => (h trivial).elim
  | .beaconSyncSend .., h => if_pos h
  | .sync .., h => if_pos h
  | .delayReq .., h => if_pos h
  | .delayResp .., h => if_pos h
  | .beaconExchangeFail, h => (h trivial).elim
  | .timebaseStep, h => (h trivial).elim
  | .ptpMessage .., h => (h trivial).elim
  | .retrain .., h => if_pos h
  | .sleep .., h => if_pos h
  | .wake .., h => if_pos h
  | .off .., h => if_pos h
  | .partnerSignal .., h => if_pos h
  | .equalise .., h => if_pos h
  | .alignDone .., h => if_pos h
  | .trainingStageTimeout .., h => if_pos h
  | .trainingFrame .., h => if_pos h
  | .laneFail .., h => if_pos h
  | .sleepTimeout .., h => if_pos h
  | .partnerWake .., h => if_pos h
  | .relock .., h => if_pos h
  | .flitReceive .., h => if_pos h
  | .goingAway .., h => if_pos h
  | .ackTimeout .., h => if_pos h
  | .nakTimeout .., h => if_pos h
  | .bsfSend .., h => if_pos h
  | .creditTimeout .., h => if_pos h
  | .holdTimeExpiry .., h => if_pos h
  | .linkLost .., h => if_pos h
  | .routeLookup .., h => (h trivial).elim
  | .rteEntryWrite .., h => if_pos h
  | .fanEntryWrite .., h => if_pos h
  | .rtePsetWrite .., h => if_pos h
  | .inputDigest .., h => if_pos h
  | .weightLoad .., h => if_pos h
  | .adapterLoad .., h => if_pos h
  | .qpConnect .., h => if_pos h
  | .rdmaReadResponse .., h => if_pos h
  | .rdmaRetryExhausted .., h => if_pos h
  | .chainPoll .., h => (h trivial).elim
  | .chainWordWrite .., h => (h trivial).elim
  | .chainBreak .., h => (h trivial).elim
  | .succLost .., h => (h trivial).elim
  | .chainRepairTimeout .., h => (h trivial).elim
  | .serveConfig .., h => if_pos h
  | .samplerConfig .., h => if_pos h
  | .customerSet .., h => if_pos h
  | .prioSet .., h => if_pos h
  | .reqQuery .., h => if_pos h
  | .submit .., h => (h trivial).elim
  | .cancel .., h => (h trivial).elim
  | .servingBoundary .., h => if_pos h
  | .spill .., h => if_pos h
  | .sampleRow .., h => if_pos h
  | .partCreate .., h => if_pos h
  | .create .., h => if_pos h
  | .partTeardown .., h => if_pos h
  | .teardown .., h => if_pos h
  | .setPlanKey .., h => exec_setPlanKey_of_not_wf s h
  | .setHostMode .., h => if_pos h
  | .ideKm .., h => if_pos h
  | .getVersion .., h => if_pos h
  | .getCapabilities .., h => if_pos h
  | .negotiateAlgorithms .., h => if_pos h
  | .getDigests .., h => if_pos h
  | .getCertificate .., h => if_pos h
  | .challenge .., h => if_pos h
  | .getMeasurements .., h => if_pos h
  | .keyExchange .., h => if_pos h
  | .finish .., h => if_pos h
  | .keyUpdate .., h => if_pos h
  | .heartbeat .., h => if_pos h
  | .endSession .., h => if_pos h
  | .debugNonce, h => (h trivial).elim
  | .debugUnlock .., h => (h trivial).elim
  | .tamperAlarm .., h => if_pos h
  | .tamperClear .., h => (h trivial).elim
  | .ctlDoorbell .., h => if_pos h
  | .fwload .., h => (h trivial).elim
  | .powerLoop .., h => if_pos h
  | .thermalLoop .., h => if_pos h
  | .peepholeDeliver .., h => if_pos h
  | .logCopy, h => (h trivial).elim
  | .mgmtPacket, h => (h trivial).elim
  | .uartRxChar .., h => (h trivial).elim
  | .reset .., h => (h trivial).elim
  | .ranuatTimeout, h => (h trivial).elim
  | .resetAssert, h => (h trivial).elim
  | .pwrfail, h => (h trivial).elim
  | .abortReceive, h => (h trivial).elim
  | .quietEnd .., h => if_pos h
  | .stepReplay .., h => if_pos h
  | .lockstepTest .., h => (h trivial).elim
  | .lockstepMismatch .., h => (h trivial).elim
  | .controlComplexReset, h => (h trivial).elim
  | .rsDoorbell .., h => if_pos h
  | .encode .., h => if_pos h
  | .rebuild .., h => if_pos h
  | .rsJobComplete .., h => if_pos h
  | .droop .., h => if_pos h
  | .overcurrent .., h => if_pos h
  | .thermal, h => (h trivial).elim
  | .prochot .., h => (h trivial).elim
  | .emergClear .., h => if_pos h
  | .thermalTrip, h => (h trivial).elim
  | .standbyEntry .., h => (h trivial).elim
  | .sleepEntry .., h => (h trivial).elim
  | .runReturn .., h => if_pos h
  | .railOut5 .., h => if_pos h
  | .railUndervolt .., h => if_pos h
  | .registerWrite .., h => exec_registerWrite_of_not_wf s h
  | .paneRestart .., h => if_pos h
  | .degradeRealign .., h => if_pos h
  | .flitSlot .., h => if_pos h
  | .inboundTlp .., h => if_pos h
  | .inboundPacket .., h => if_pos h
  | .pldmRequest .., h => if_pos h
  | .ptpLost, h => (h trivial).elim
  | .entropyFail, h => (h trivial).elim

/-- A well-formed command completes in every state. -/
theorem exec_completes (s : State) {i : Instr} (hw : i.wf) : Completes i s := by
  obtain ⟨t, ht, -⟩ := exec_inv (K := False) hw ⟨rfl, False.elim, False.elim⟩
  exact ⟨t, ht⟩

/-- A command that answers a next state is well formed. -/
theorem wf_of_exec {i : Instr} {s t : State} (h : exec i s = .next t) : i.wf := by
  by_contra hw
  rw [exec_of_not_wf s hw] at h
  cases h

/-- A step that answers a next state leaves the rest of the queue, and the form where it stood. -/
theorem step_inv {K : Prop} {s t : State} (hs : s.Inv K s.pending) (h : step s = .next t) : t.Inv K s.pending.tail := by
  unfold step at h
  split at h
  · next hq =>
    cases h
    rw [hq] at hs ⊢
    exact State.tick_inv hs
  · next c rest hq =>
    have hr : ({ s with pending := rest } : State).Inv K rest := ⟨rfl, fun k => by
      cases hs.canonical k; constructor <;> assumption, fun k => by cases hs.fits k; constructor <;> assumption⟩
    obtain ⟨u, hu, hi⟩ := exec_inv (wf_of_exec h) hr
    rw [h] at hu
    cases hu
    rw [hq]
    exact hi

/-! ## The obligations on the block -/

/-- Settles O4: every operation keeps the form (`exec_inv`, `State.tick_inv`), so a step does. -/
theorem stepKeepsForm : Obligations.StepKeepsForm := by
  unfold Obligations.StepKeepsForm
  rintro s t ⟨hc, hf⟩ h
  have hi := step_inv (K := True) ⟨rfl, fun _ => hc, fun _ => hf⟩ h
  exact ⟨hi.canonical trivial, hi.fits trivial⟩

/-- Settles O5: each command completes when it is well formed (`exec_completes`) and stops when it is not (`exec_of_not_wf`). -/
theorem completesIfWellFormed : Obligations.CompletesIfWellFormed := by
  unfold Obligations.CompletesIfWellFormed
  refine ⟨fun i s => ⟨exec_completes s, exec_of_not_wf s⟩, ?_⟩
  and_intros
  all_goals
    intros
    refine exec_completes _ ?_
    trivial

/-- Settles O1: the command at the front is the one that runs, and no command touches the queue. -/
theorem queueIsFifo : Obligations.QueueIsFifo := by
  unfold Obligations.QueueIsFifo
  refine ⟨fun s c rest hq => ?_, fun s t h => ?_⟩
  · unfold step
    rw [hq]
  · exact (step_inv (K := False) ⟨rfl, False.elim, False.elim⟩ h).queue

/-- Settles O3: the state after reset holds nothing. -/
theorem resetIsSound : Obligations.ResetIsSound := by
  unfold Obligations.ResetIsSound
  refine ⟨rfl, ?_, ⟨fun _ => Core.fits_init, Nat.zero_le _, Nat.zero_le _, Nat.zero_le _⟩, fun _ _ => rfl⟩
  constructor
  case mem => rfl
  all_goals
    intros
    exact canon_nil _

end Sys2Proof.Machine
end

section
/-! SUPPORT. Reads of a register or field after the updates of the state: a field of another register or of other bits is as before, and
the tables keep no registers. With the side conditions decided (`simp (disch := decide)`) these evaluate the reads of a run of writes. -/

namespace Sys2Proof.Machine

/-! ## Fields -/

/-- A field with no bit in common reads as before, whatever the index. -/
theorem getF_setF_apart (s : State) {f g : Fld} {i j x : Nat} (hf : f.lo + f.w ≤ 64)
    (h : g.reg ≠ f.reg ∨ f.lo + f.w ≤ g.lo ∨ g.lo + g.w ≤ f.lo) : (s.setF f i x).getF g j = s.getF g j :=
  getF_setF_ne s hf (h.imp_right .inr)

/-- The same field of another index reads as before. -/
theorem getF_setF_index (s : State) {f g : Fld} {i j : Nat} (x : Nat) (h : j ≠ i) : (s.setF f i x).getF g j = s.getF g j := by
  unfold State.getF
  rw [rdReg_setF_ne s x (.inr h)]

theorem getF_addF_apart (s : State) {f g : Fld} {i j n : Nat} (hf : f.lo + f.w ≤ 64)
    (h : g.reg ≠ f.reg ∨ f.lo + f.w ≤ g.lo ∨ g.lo + g.w ≤ f.lo) : (s.addF f i n).getF g j = s.getF g j :=
  getF_setF_apart s hf h

theorem rdReg_setF_reg (s : State) {f : Fld} {r : Reg} {i j x : Nat} (h : r ≠ f.reg) : (s.setF f i x).rdReg r j = s.rdReg r j :=
  rdReg_setF_ne s x (.inl h)

theorem getF_wrReg_reg (s : State) {r : Reg} {g : Fld} {i j v : Nat} (h : g.reg ≠ r) : (s.wrReg r i v).getF g j = s.getF g j := by
  unfold State.getF
  rw [rdReg_wrReg_ne s v (.inl h)]

theorem setFs_nil (s : State) (i : Nat) : s.setFs i [] = s := rfl

theorem setFs_cons (s : State) (i x : Nat) (f : Fld) (l : List (Fld × Nat)) : s.setFs i ((f, x) :: l) = (s.setF f i x).setFs i l := rfl

/-- Several field writes change registers alone. -/
theorem setFs_regs (s : State) (i : Nat) (l : List (Fld × Nat)) : s.setFs i l = { s with regs := (s.setFs i l).regs } := by
  induction l generalizing s with
  | nil => rfl
  | cons x l ih =>
    rw [show s.setFs i (x :: l) = (s.setF x.1 i x.2).setFs i l from rfl, ih]
    rfl

/-! ## Tables hold no registers -/

section

variable (s : State) (r : Reg) (f' : Fld) (j : Nat)

@[simp] theorem getF_setCore (n : Nat) (c : Core) : (s.setCore n c).getF f' j = s.getF f' j := rfl
@[simp] theorem rdReg_setCore (n : Nat) (c : Core) : (s.setCore n c).rdReg r j = s.rdReg r j := rfl
@[simp] theorem getF_modCore (n : Nat) (f : Core → Core) : (s.modCore n f).getF f' j = s.getF f' j := rfl
@[simp] theorem rdReg_modCore (n : Nat) (f : Core → Core) : (s.modCore n f).rdReg r j = s.rdReg r j := rfl
@[simp] theorem getF_setPart (p : Nat) (x : Part) : (s.setPart p x).getF f' j = s.getF f' j := rfl
@[simp] theorem rdReg_setPart (p : Nat) (x : Part) : (s.setPart p x).rdReg r j = s.rdReg r j := rfl
@[simp] theorem getF_modPart (p : Nat) (f : Part → Part) : (s.modPart p f).getF f' j = s.getF f' j := rfl
@[simp] theorem rdReg_modPart (p : Nat) (f : Part → Part) : (s.modPart p f).rdReg r j = s.rdReg r j := rfl
@[simp] theorem getF_setPlan (k : Nat) (x : Plan) : (s.setPlan k x).getF f' j = s.getF f' j := rfl
@[simp] theorem rdReg_setPlan (k : Nat) (x : Plan) : (s.setPlan k x).rdReg r j = s.rdReg r j := rfl
@[simp] theorem getF_setTctx (c : Nat) (x : Ctx) : (s.setTctx c x).getF f' j = s.getF f' j := rfl
@[simp] theorem rdReg_setTctx (c : Nat) (x : Ctx) : (s.setTctx c x).rdReg r j = s.rdReg r j := rfl
@[simp] theorem getF_setSctx (c : Nat) (x : Ctx) : (s.setSctx c x).getF f' j = s.getF f' j := rfl
@[simp] theorem rdReg_setSctx (c : Nat) (x : Ctx) : (s.setSctx c x).rdReg r j = s.rdReg r j := rfl
@[simp] theorem getF_setByte (a : Nat) (b : Byte) : (s.setByte a b).getF f' j = s.getF f' j := rfl
@[simp] theorem rdReg_setByte (a : Nat) (b : Byte) : (s.setByte a b).rdReg r j = s.rdReg r j := rfl
@[simp] theorem getF_setGran (g : Nat) (x : Gran) : (s.setGran g x).getF f' j = s.getF f' j := rfl
@[simp] theorem rdReg_setGran (g : Nat) (x : Gran) : (s.setGran g x).rdReg r j = s.rdReg r j := rfl
@[simp] theorem getF_setFlaw (g k : Nat) : (s.setFlaw g k).getF f' j = s.getF f' j := rfl
@[simp] theorem rdReg_setFlaw (g k : Nat) : (s.setFlaw g k).rdReg r j = s.rdReg r j := rfl
@[simp] theorem getF_setBounce (p : Nat) (b : Bounce) : (s.setBounce p b).getF f' j = s.getF f' j := rfl
@[simp] theorem rdReg_setBounce (p : Nat) (b : Bounce) : (s.setBounce p b).rdReg r j = s.rdReg r j := rfl
@[simp] theorem getF_setRing (k : Nat) (x : Ring) : (s.setRing k x).getF f' j = s.getF f' j := rfl
@[simp] theorem rdReg_setRing (k : Nat) (x : Ring) : (s.setRing k x).rdReg r j = s.rdReg r j := rfl
@[simp] theorem getF_setChan (i : Nat) (c : Chan) : (s.setChan i c).getF f' j = s.getF f' j := rfl
@[simp] theorem rdReg_setChan (i : Nat) (c : Chan) : (s.setChan i c).rdReg r j = s.rdReg r j := rfl
@[simp] theorem getF_setPort (q : Nat) (x : Port) : (s.setPort q x).getF f' j = s.getF f' j := rfl
@[simp] theorem rdReg_setPort (q : Nat) (x : Port) : (s.setPort q x).rdReg r j = s.rdReg r j := rfl
@[simp] theorem getF_modPort (q : Nat) (f : Port → Port) : (s.modPort q f).getF f' j = s.getF f' j := rfl
@[simp] theorem rdReg_modPort (q : Nat) (f : Port → Port) : (s.modPort q f).rdReg r j = s.rdReg r j := rfl
@[simp] theorem getF_setPane (q : Nat) (x : PaneS) : (s.setPane q x).getF f' j = s.getF f' j := rfl
@[simp] theorem rdReg_setPane (q : Nat) (x : PaneS) : (s.setPane q x).rdReg r j = s.rdReg r j := rfl
@[simp] theorem getF_setQp (i : Nat) (x : Qp) : (s.setQp i x).getF f' j = s.getF f' j := rfl
@[simp] theorem rdReg_setQp (i : Nat) (x : Qp) : (s.setQp i x).rdReg r j = s.rdReg r j := rfl
@[simp] theorem getF_setReq (i : Nat) (x : Req) : (s.setReq i x).getF f' j = s.getF f' j := rfl
@[simp] theorem rdReg_setReq (i : Nat) (x : Req) : (s.setReq i x).rdReg r j = s.rdReg r j := rfl
@[simp] theorem getF_modServe (p : Nat) (f : Serve → Serve) : (s.modServe p f).getF f' j = s.getF f' j := rfl
@[simp] theorem rdReg_modServe (p : Nat) (f : Serve → Serve) : (s.modServe p f).rdReg r j = s.rdReg r j := rfl
@[simp] theorem getF_modPsec (p : Nat) (f : PSec → PSec) : (s.modPsec p f).getF f' j = s.getF f' j := rfl
@[simp] theorem rdReg_modPsec (p : Nat) (f : PSec → PSec) : (s.modPsec p f).rdReg r j = s.rdReg r j := rfl

@[simp] theorem getF_setBytes (a : Nat) (bs : List Byte) : (s.setBytes a bs).getF f' j = s.getF f' j := by
  induction bs generalizing s a with
  | nil => rfl
  | cons b bs ih => exact ih _ _

end

end Sys2Proof.Machine
end

section
/-! SUPPORT. The LOAD, STORE and SEND engines (R42 to R44, R48, R54, R64, R71 to R78, R110): the pieces of a run, what the start of a
command places, how a piece lands, and how the store buffer drains. -/

namespace Sys2Proof.Machine

variable {s : State} {core : Nat} {e : QEntry}

/-! ## The pieces of a run (R71) -/

/-- Every piece of a run is outstanding and lies in one 256-byte line. -/
theorem mem_cutRun {remote : Bool} {p : Piece} : ∀ {fuel src dst len : Nat}, p ∈ cutRun src dst len remote fuel →
    p.arrived = false ∧ p.remote = remote ∧ 0 < p.len ∧ p.dst % 256 + p.len ≤ 256
  | 0, _, _, _, h => absurd h (by simp [cutRun])
  | fuel + 1, src, dst, len, h => by
    unfold cutRun at h
    split at h
    · exact absurd h (by simp)
    · rcases List.mem_cons.1 h with rfl | h
      · refine ⟨rfl, rfl, ?_, ?_⟩
        · show 0 < min len (256 - dst % 256)
          omega
        · show dst % 256 + min len (256 - dst % 256) ≤ 256
          omega
      · exact mem_cutRun h

/-- With fuel for every line it meets, the pieces of a run carry each of its bytes. -/
theorem cutRun_covers {remote : Bool} : ∀ {fuel src dst len : Nat}, len + dst % 256 ≤ 256 * fuel ∨ len = 0 → ∀ {j : Nat}, j < len →
    ∃ p ∈ cutRun src dst len remote fuel, p.dst ≤ dst + j ∧ dst + j < p.dst + p.len ∧ p.src + (dst + j - p.dst) = src + j
  | 0, _, _, _, h, j, hj => by omega
  | fuel + 1, src, dst, len, h, j, hj => by
    unfold cutRun
    rw [if_neg (by omega)]
    by_cases hk : j < min len (256 - dst % 256)
    · refine ⟨⟨src, dst, min len (256 - dst % 256), remote, false⟩, List.mem_cons_self, ?_, ?_, ?_⟩ <;> dsimp only <;> omega
    · obtain ⟨p, hp, h1, h2, h3⟩ := cutRun_covers (remote := remote) (fuel := fuel) (src := src + min len (256 - dst % 256))
        (dst := dst + min len (256 - dst % 256)) (len := len - min len (256 - dst % 256)) (by omega)
        (j := j - min len (256 - dst % 256)) (by omega)
      exact ⟨p, List.mem_cons_of_mem _ hp, by omega, by omega, by omega⟩

theorem cutRun_len_sum {remote : Bool} : ∀ {fuel src dst len : Nat}, len + dst % 256 ≤ 256 * fuel ∨ len = 0 →
    ((cutRun src dst len remote fuel).map (·.len)).sum = len
  | 0, _, _, _, h => by simp [cutRun]; omega
  | fuel + 1, src, dst, len, h => by
    unfold cutRun
    split
    · simp_all
    · rw [List.map_cons, List.sum_cons, cutRun_len_sum (by omega)]
      dsimp only
      omega

theorem runPieces_fuel (dst len : Nat) : len + dst % 256 ≤ 256 * (len / 256 + 2) ∨ len = 0 := by omega

/-- The pieces of the rows of a shape carry as many bytes as the rows hold. -/
theorem len_sum_flatMap {α : Type} {f : α → List Piece} {n : Nat} {l : List α} (h : ∀ r ∈ l, ((f r).map (·.len)).sum = n) :
    ((l.flatMap f).map (·.len)).sum = l.length * n := by
  induction l with
  | nil => simp
  | cons r l ih =>
    rw [List.flatMap_cons, List.map_append, List.sum_append, h r List.mem_cons_self, ih fun r hr => h r (List.mem_cons_of_mem _ hr),
      List.length_cons]
    ring

/-! ## LD_COPY, LD_PGATHER and ST_COPY -/

theorem exec_ldCopy_starts (hc : core < 256) (hst : s.Starts core 0 .ldCopy e) :
    let eff := (s.core core).effective e.cmd (memDesc e.cmd 24).base
    let x := (memDesc e.cmd 24).extent eff (shapeOf e.cmd) (shapeOf e.cmd).d0
    let ps := (shapeOf e.cmd).rows.flatMap fun r => runPieces ((memDesc e.cmd 24).row eff r).toNat
      ((spadDesc e.cmd 39).row (spadDesc e.cmd 39).base r).toNat (shapeOf e.cmd).d0 (s.remoteSlot e.cmd).isSome
    s.memCheck core e.cmd eff x.1 x.2 = 0 →
    exec (.ldCopy core) s = .next (match s.remoteSlot e.cmd with
      | none => s.putEntry core 0 { e with started := true, pieces := ps }
      | some slot => (s.putEntry core 0 { e with started := true, pieces := ps }).requestPieces core e.seq slot ps 0) := by
  intro eff x ps hm
  refine ((if_neg (unitOk_of_lt hc (by decide))).trans (runHead_starts hst)).trans ?_
  show (if s.memCheck core e.cmd eff x.1 x.2 ≠ 0 then _ else _) = _
  rw [if_neg (not_not.2 hm)]
  simp only [ps]
  cases s.remoteSlot e.cmd <;> rfl

theorem exec_ldPgather_starts (hc : core < 256) (hst : s.Starts core 0 .ldPgather e) :
    let eff := (s.core core).effective e.cmd (memDesc e.cmd 24).base
    let sh := shapeOf e.cmd
    let ps := sh.rows.flatMap fun r =>
      if r.2.1 * sh.d1 + r.1 < pgTokens e.cmd then
        runPieces ((s.frame core e.cmd eff r.2.1 : Int) + r.1 * (memDesc e.cmd 24).s1).toNat
          ((spadDesc e.cmd 39).row (spadDesc e.cmd 39).base r).toNat sh.d0 false
      else (runPieces 0 ((spadDesc e.cmd 39).row (spadDesc e.cmd 39).base r).toNat sh.d0 false).map (fun p => { p with arrived := true })
    ¬ (mPadd e.cmd ∧ eff % 64 ≠ 0) → eff < 2 ^ 48 → (s.pageCheck core e.cmd eff).1 = 0 →
    exec (.ldPgather core) s = .next ((s.zeroRows core ps).putEntry core 0 { e with started := true, pieces := ps }) := by
  intro eff sh ps ha hlt hp
  refine ((if_neg (unitOk_of_lt hc (by decide))).trans (runHead_starts hst)).trans ?_
  have hpage : s.pageCheck core e.cmd eff = (0, (s.pageCheck core e.cmd eff).2) := Prod.ext hp rfl
  simp only [eff] at ha hlt hpage
  dsimp only
  rw [if_neg ha, if_neg (Nat.not_le.2 hlt), hpage]
  rfl

/-- Settles O6: the pieces are those of the rows' runs (`cutRun_covers`), a granule stands for every 64 bytes. -/
theorem copiesStart : Obligations.CopiesStart := by
  unfold Obligations.CopiesStart
  refine ⟨?ldCopy, ?ldPgather, ?stCopy⟩
  case ldCopy =>
    intro s core e hc hst eff x hm
    refine ⟨_, exec_ldCopy_starts hc hst hm, fun p hp => ?_, fun r hr j hj => ?_, ?_⟩
    · obtain ⟨r, -, hp⟩ := List.mem_flatMap.1 hp
      exact mem_cutRun hp
    · obtain ⟨p, hp, h1, h2, h3⟩ := cutRun_covers (remote := (s.remoteSlot e.cmd).isSome) (src := ((memDesc e.cmd 24).row eff r).toNat)
        (runPieces_fuel ((spadDesc e.cmd 39).row (spadDesc e.cmd 39).base r).toNat (shapeOf e.cmd).d0) hj
      exact ⟨p, List.mem_flatMap.2 ⟨r, hr, hp⟩, h1, h2, h3⟩
    · exact len_sum_flatMap fun r _ => cutRun_len_sum (runPieces_fuel _ _)
  case ldPgather =>
    intro s core e hc hst eff sh ha hlt hp
    refine ⟨_, exec_ldPgather_starts hc hst ha hlt hp, fun p hp => ?_, fun r hr j hj => ?_, ?_⟩
    · obtain ⟨r, -, hp⟩ := List.mem_flatMap.1 hp
      split at hp
      · exact (mem_cutRun hp).2
      · obtain ⟨p', hp', rfl⟩ := List.mem_map.1 hp
        exact (mem_cutRun hp').2
    · by_cases ht : r.2.1 * sh.d1 + r.1 < pgTokens e.cmd
      · obtain ⟨p, hp, h1, h2, h3⟩ := cutRun_covers (remote := false)
          (src := ((s.frame core e.cmd eff r.2.1 : Int) + r.1 * (memDesc e.cmd 24).s1).toNat)
          (runPieces_fuel ((spadDesc e.cmd 39).row (spadDesc e.cmd 39).base r).toNat sh.d0) hj
        refine ⟨p, List.mem_flatMap.2 ⟨r, hr, ?_⟩, h1, h2, ?_, fun _ => h3⟩
        · rw [if_pos ht]
          exact hp
        · rw [(mem_cutRun hp).1]
          exact iff_of_false Bool.false_ne_true (Nat.not_le.2 ht)
      · obtain ⟨p, hp, h1, h2, -⟩ := cutRun_covers (remote := false) (src := 0)
          (runPieces_fuel ((spadDesc e.cmd 39).row (spadDesc e.cmd 39).base r).toNat sh.d0) hj
        refine ⟨{ p with arrived := true }, List.mem_flatMap.2 ⟨r, hr, ?_⟩, h1, h2, iff_of_true rfl (Nat.not_lt.1 ht), fun h => ?_⟩
        · rw [if_neg ht]
          exact List.mem_map.2 ⟨p, hp, rfl⟩
        · cases h
    · refine len_sum_flatMap fun r _ => ?_
      split
      · exact cutRun_len_sum (runPieces_fuel _ _)
      · rw [List.map_map]
        exact cutRun_len_sum (runPieces_fuel _ _)
  case stCopy =>
    intro s core e hc hst eff x hm
    refine ((if_neg (unitOk_of_lt hc (by decide))).trans (runHead_starts hst)).trans ?_
    show (if s.memCheck core e.cmd eff x.1 x.2 ≠ 0 then _ else _) = _
    rw [if_neg (not_not.2 hm)]
    rfl

/-! ## The SEND engine -/

/-- Settles O7: each start places the work of its operands; what is started with nothing outstanding has finished. -/
theorem sendsStart : Obligations.SendsStart := by
  unfold Obligations.SendsStart
  refine ⟨?data, ?latch, ?arrive, ?nop, ?finished, ?skipped⟩
  case data =>
    intro s core e hc hst
    exact (if_neg (unitOk_of_lt hc (by decide))).trans (runHead_starts hst)
  case latch =>
    intro s core e hc hst
    exact (if_neg (unitOk_of_lt hc (by decide))).trans (runHead_starts hst)
  case arrive =>
    intro s core e hc hst w a ha
    refine ((if_neg (unitOk_of_lt hc (by decide))).trans (runHead_starts hst)).trans ?_
    exact if_neg (Nat.not_le.2 ha)
  case nop =>
    intro s core eng e hc he hst
    exact (exec_nop_engine hc he).trans (runHead_starts hst)
  case finished =>
    intro k e h1 h2 h3 h4 h5
    simpa [Core.finished, h1, h2, h3, h4] using h5
  case skipped =>
    intro s core e hc h hk
    refine ((if_neg (unitOk_of_lt hc (by decide))).trans (runHead_skips h hk)).trans ?_
    rw [startSkipped_eq h]
    rfl

/-! ## How a piece lands (R54, R71) -/

/-- A byte that a later piece of the command has written. -/
def coveredAfter (ps : List Piece) (i d : Nat) : Bool :=
  (ps.drop (i + 1)).any (fun q => q.arrived && decide (q.dst ≤ d) && decide (d < q.dst + q.len))

theorem landPiece_cons (n : Nat) (ps : List Piece) (i d : Nat) (b : Byte) (bs : List Byte) :
    s.landPiece n ps i d (b :: bs) = (if coveredAfter ps i d then s else s.setByte (spadAddr n d) b).landPiece n ps i (d + 1) bs := rfl

theorem spadAddr_add (n a j : Nat) : spadAddr n (a + j) = spadAddr n a + j := by
  unfold spadAddr
  omega

/-- Landing changes memory alone. -/
theorem landPiece_frame (n : Nat) (ps : List Piece) (i d : Nat) (bs : List Byte) :
    s.landPiece n ps i d bs = { s with mem := (s.landPiece n ps i d bs).mem } := by
  induction bs generalizing s d with
  | nil => rfl
  | cons b bs ih =>
    rw [landPiece_cons, ih]
    split <;> rfl

theorem landPiece_outside {n : Nat} {ps : List Piece} {i d x : Nat} {bs : List Byte}
    (h : x < spadAddr n d ∨ spadAddr n d + bs.length ≤ x) : (s.landPiece n ps i d bs).byte x = s.byte x := by
  induction bs generalizing s d with
  | nil => rfl
  | cons b bs ih =>
    rw [List.length_cons] at h
    rw [landPiece_cons, ih (by rw [spadAddr_add]; omega)]
    split
    · rfl
    · exact State.setByte_byte_ne s _ b (by omega)

/-- A byte that no later piece has written lands. -/
theorem landPiece_lands {n : Nat} {ps : List Piece} {i d j : Nat} {b : Byte} {bs : List Byte} (hj : bs[j]? = some b)
    (hc : coveredAfter ps i (d + j) = false) : (s.landPiece n ps i d bs).byte (spadAddr n (d + j)) = b := by
  induction bs generalizing s d j with
  | nil => simp at hj
  | cons a bs ih =>
    rw [landPiece_cons]
    cases j with
    | zero =>
      obtain rfl : a = b := by simpa using hj
      rw [landPiece_outside (by rw [spadAddr_add, spadAddr_add]; omega), if_neg (by simpa using hc)]
      exact State.setByte_byte_same s _ a
    | succ j =>
      rw [show d + (j + 1) = d + 1 + j by omega] at hc ⊢
      exact ih (by simpa using hj) hc

theorem exec_loadPieceArrive {seq i : Nat} {sym : Syms} {p : Piece} (hc : core < 256)
    (hp : (s.core core).pieceOf seq i = some (e, p)) (hr : p.remote = false) (hl : (s.core core).live seq = true)
    (hu : s.paneUp core = true) : exec (.loadPieceArrive core seq i sym) s =
      (match s.read p.src p.len sym with
        | (s, .ok bs) => .next (s.arrivePiece core e i p bs)
        | (s, .refused c) => .next (s.coreFault core seq 0 (if c = causeUNMAPPED then fcMEM_RANGE else fcMEM_UNCORR))) := by
  refine (if_neg (unitOk_of_lt hc (by decide))).trans ?_
  simp only [hp, hr, hl, hu]
  rfl

/-- Settles O8: an outstanding local piece lands byte by byte (`landPiece_lands`). -/
theorem pieceLands : Obligations.PieceLands := by
  unfold Obligations.PieceLands
  refine ⟨?lands, ?refused, ?stopped⟩
  case lands =>
    intro s u core seq i sym e p bs hc hp hr hl hu hread
    refine ⟨u.arrivePiece core e i p bs, by rw [exec_loadPieceArrive hc hp hr hl hu, hread], ?_, ?_, fun n hn => ?_,
      fun j b hj hq => ?_, fun x hx => ?_⟩
    · rw [State.arrivePiece, landPiece_frame]
      rfl
    · rw [State.arrivePiece, landPiece_frame]
      exact State.setCore_core_same _ _ _
    · rw [State.arrivePiece, landPiece_frame]
      exact State.setCore_core_ne _ _ _ hn
    · refine landPiece_lands (s := u) hj (List.any_eq_false.2 fun q hm => ?_)
      have := hq q hm
      simpa [and_assoc] using this
    · exact landPiece_outside (s := u) hx
  case refused =>
    intro s u core seq i sym e p c hc hp hr hl hu hread
    rw [exec_loadPieceArrive hc hp hr hl hu, hread]
  case stopped =>
    intro s core seq i sym hc hu
    refine (if_neg (unitOk_of_lt hc (by decide))).trans ?_
    split
    · rfl
    · exact if_pos (by simp [hu])

/-! ## The store buffer (R42 to R44, R72) -/

/-- A core that loses its store buffer: the fault recorded, the granules counted, the core stopped at its oldest granule. -/
def State.drainLost (s : State) (n : Nat) (g : SbEntry) (rest : List SbEntry) : State :=
  ((s.recordFault n g.seq 3 fcSTORE_DRAIN_LOST).setFs n [(F.CORE_DRAIN_LAST_SEQ, (s.core n).lastTaken),
    (F.CORE_DRAIN_DISCARDED, (g :: rest).length), (F.CORE_DRAIN_DRAINED, 0)]).setCore n { s.core n with stop := some g.seq, sb := [] }

theorem recordFault_regs (n seq eng code : Nat) :
    s.recordFault n seq eng code = { s with regs := (s.recordFault n seq eng code).regs } := by
  unfold State.recordFault
  split
  · rfl
  · rw [setFs_regs]

theorem drainLost_partOf {n : Nat} {g : SbEntry} {rest : List SbEntry} : (s.drainLost n g rest).partOf n = s.partOf n := by
  simp (disch := decide) only [State.drainLost, State.partOf, setFs_cons, setFs_nil, getF_setCore, getF_setF_apart]
  exact getF_recordFault_ne (by decide) (by decide)

theorem drainLost_discarded {n : Nat} {g : SbEntry} {rest : List SbEntry} :
    (s.drainLost n g rest).getF F.CORE_DRAIN_DISCARDED n = (rest.length + 1) % 2 ^ F.CORE_DRAIN_DISCARDED.w := by
  simp (disch := decide) only [State.drainLost, setFs_cons, setFs_nil, getF_setCore, getF_setF_apart, getF_setF_same, List.length_cons]

theorem drainLost_valid {n : Nat} {g : SbEntry} {rest : List SbEntry} : (s.drainLost n g rest).flag F.CORE_FAULT_VALID n = true := by
  simp (disch := decide) only [State.drainLost, State.flag, setFs_cons, setFs_nil, getF_setCore, getF_setF_apart]
  unfold State.recordFault
  split
  · next h => rwa [getF_setF_apart s (by decide) (by decide)]
  · simp (disch := decide) only [setFs_cons, setFs_nil, getF_setF_apart, getF_setF_same]
    decide

theorem drainLost_record {n : Nat} {g : SbEntry} {rest : List SbEntry} (hv : s.flag F.CORE_FAULT_VALID n = false) :
    (s.drainLost n g rest).flag F.CORE_STATUS_FAULTED n = true ∧
      (s.drainLost n g rest).getF F.CORE_FAULT_CODE n = fcSTORE_DRAIN_LOST := by
  simp (disch := decide) only [State.drainLost, State.flag, setFs_cons, setFs_nil, getF_setCore, getF_setF_apart]
  rw [State.recordFault, if_neg (by simp [hv])]
  simp (disch := decide) only [setFs_cons, setFs_nil, getF_setF_apart, getF_setF_same]
  decide

theorem exec_storeDrainLost {g : SbEntry} {rest : List SbEntry} (hc : core < 256) (hsb : (s.core core).sb = g :: rest)
    (hin : s.coreIn core = true) (hem : s.flag F.PANE_FREQ_EMERG (core / 8) = true) (ht : (s.pane (core / 8)).stopAt + 5000 ≤ s.now) :
    exec (.storeDrainLost core) s =
      .next ((s.drainLost core g rest).abortStep ((s.drainLost core g rest).partOf core) 1 fcSTORE_DRAIN_LOST) := by
  refine (if_neg (unitOk_of_lt hc (by decide))).trans ((if_neg ?_).trans ?_)
  · rw [hsb]
    have ht' : ¬ s.now < (tget PaneS.init s.panes (core / 8)).stopAt + 5000 := Nat.not_lt.2 ht
    simp [hin, hem, ht']
  · simp only [hsb, List.head?_cons, Option.map_some, Option.getD_some]
    rfl

/-- Settles O9. -/
theorem storeBufferDrains : Obligations.StoreBufferDrains := by
  unfold Obligations.StoreBufferDrains
  refine ⟨?runs, ?stopped, ?ack, ?lost⟩
  case runs =>
    intro s core g rest hc hu hsb hstop
    refine (if_neg (unitOk_of_lt hc (by decide))).trans ?_
    simp only [hsb, hu, hstop]
    simp
  case stopped =>
    intro s core n g rest hc hu hsb hstop
    refine (if_neg (unitOk_of_lt hc (by decide))).trans ?_
    simp only [hsb, hu, hstop]
    simp
  case ack =>
    intro s core seq e hc he ha hu hr
    refine (if_neg (unitOk_of_lt hc (by decide))).trans ?_
    simp only [he]
    rw [if_neg]
    simp [hu, hr]
    omega
  case lost =>
    intro s core g rest hc hsb hin hem ht
    refine ⟨s.drainLost core g rest, ?_, State.setCore_core_same _ _ _, drainLost_discarded, drainLost_valid, drainLost_record, ?_⟩
    · rw [exec_storeDrainLost hc hsb hin hem ht, drainLost_partOf]
    · rw [State.drainLost, setFs_regs, recordFault_regs]
      rfl

end Sys2Proof.Machine
end

section
/-! SUPPORT. VECTOR commands (R97 to R109). A queue may hold a command whose FORMAT names no shape: its operand checks do not ask for
sizes above 0 (R434 item 2), and a row of no elements is never written. -/

namespace Sys2Proof.Machine

/-- Partition 0 runs a step of plan 1 on core 0, which stands as given. -/
def State.stepping (k : Core) : State :=
  { State.reset with
    parts := [(0, { Part.init with running := true, started := true, plan := 1 })]
    plans := [(1, { Plan.init with cores := [0], nodeMap := [0] })]
    cores := [(0, k)] }

/-- VE_RREDUCE of one row of no elements, with FORMAT 0: a sum of FP32 to the place 0 of scratchpad. -/
def emptyRowSum : QEntry := ⟨BitVec.ofNat 512 (3 + 2 * 2 ^ 8 + 2 ^ 144 + 2 ^ 160 + 2 ^ 176), 0, 0, false, false, [], [], 0, none⟩

/-- It stands at the head of the queue, and the scratchpad begins with a byte 1. -/
def emptyRowState : State := (State.stepping { Core.init with vector := [emptyRowSum] }).setSpad 0 0 [1]

theorem emptyRow_starts : emptyRowState.Starts 0 2 .veRreduce emptyRowSum := by
  refine ⟨?_, ?_, ?_⟩ <;> decide +kernel

/-- Byte `a` after a command that answers a next state. -/
def byteAfter (i : Instr) (s : State) (a : Nat) : Option Byte :=
  match exec i s with
  | .next t => some (t.byte a)
  | _ => none

theorem byteAfter_of_exec {i : Instr} {s t : State} {a : Nat} (h : exec i s = .next t) : byteAfter i s a = some (t.byte a) := by
  rw [byteAfter, h]

/-- The command leaves the byte at the place of its result as it was. -/
theorem emptyRow_leaves : byteAfter (.veRreduce 0) emptyRowState (spadAddr 0 0) = some 1 := by decide +kernel

theorem emptyRow_rows : (shapeOf emptyRowSum.cmd).rows = [(0, 0, 0)] := by decide +kernel

theorem emptyRow_walk : (shapeOf emptyRowSum.cmd).walk = [] := by decide +kernel

theorem emptyRow_place : elemAddr 0 (veOfmt emptyRowSum.cmd) (spadDesc emptyRowSum.cmd 37) (0, (0, 0, 0)) = spadAddr 0 0 := by
  decide +kernel

theorem emptyRow_bytes : vecBytes (veOfmt emptyRowSum.cmd) = 4 := by decide +kernel

/-- Refutes O11: its clause on VE_RREDUCE says that every row gets its result, and fails for a row of no elements: nothing is
written, and the byte 1 is no byte of the sum 0. -/
theorem not_vectorStarts : ¬ Obligations.VectorStarts := by
  unfold Obligations.VectorStarts
  rintro ⟨-, -, reduce, -⟩
  obtain ⟨t, fl, hex, -, -, hrow⟩ := reduce emptyRowState 0 emptyRowSum (by decide) emptyRow_starts
  have hone : t.byte (spadAddr 0 0) = 1 := Option.some.inj ((byteAfter_of_exec hex).symm.trans emptyRow_leaves)
  rw [emptyRow_rows, emptyRow_walk] at hrow
  have hsum := hrow (by simp) (0, 0, 0) (by simp)
  dsimp only at hsum
  rw [emptyRow_place, emptyRow_bytes] at hsum
  have hbytes : t.bytes (spadAddr 0 0) 4 = [0, 0, 0, 0] := hsum.trans (by decide +kernel)
  have hzero : t.byte (spadAddr 0 0) = 0 := congrArg (·.headD 0) hbytes
  rw [hone] at hzero
  exact absurd hzero (by decide)

end Sys2Proof.Machine
end

section
/-! SUPPORT. The MATRIX engine (R89, R90, R92): the accumulator as MM_STREAM leaves it, the bytes that a run of writes leaves, and what
MM_DRAIN writes of a row. -/

namespace Sys2Proof.Machine

variable {s : State} {core : Nat} {e : QEntry}

/-! ## Byte strings -/

@[simp] theorem leBytes_length (n v : Nat) : (leBytes n v).length = n := by
  induction n generalizing v with
  | zero => rfl
  | succ n ih => rw [leBytes, List.length_cons, ih]

@[simp] theorem packRow_length (f : Nat) (codes : List Nat) : (packRow f codes).length = fmtLen f codes.length := leBytes_length _ _

/-- Bytes read as they stand at each address. -/
theorem bytes_congr {t u : State} {a n : Nat} (h : ∀ x, a ≤ x → x < a + n → t.byte x = u.byte x) : t.bytes a n = u.bytes a n := by
  induction n generalizing a with
  | zero => rfl
  | succ n ih =>
    rw [State.bytes, State.bytes, h a (Nat.le_refl _) (by omega), ih fun x h1 h2 => h x (by omega) (by omega)]

theorem setBytes_frame (a : Nat) (bs : List Byte) : s.setBytes a bs = { s with mem := (s.setBytes a bs).mem } := by
  induction bs generalizing s a with
  | nil => rfl
  | cons b bs ih =>
    rw [State.setBytes, ih]
    rfl

/-! ## A run of writes -/

/-- Several writes of bytes in order. -/
def State.writes (s : State) (l : List (Nat × List Byte)) : State := l.foldl (fun s w => s.setBytes w.1 w.2) s

theorem writes_cons (w : Nat × List Byte) (l : List (Nat × List Byte)) : s.writes (w :: l) = (s.setBytes w.1 w.2).writes l := rfl

theorem writes_append (l l' : List (Nat × List Byte)) : s.writes (l ++ l') = (s.writes l).writes l' := List.foldl_append

theorem writes_frame (l : List (Nat × List Byte)) : s.writes l = { s with mem := (s.writes l).mem } := by
  induction l generalizing s with
  | nil => rfl
  | cons w l ih =>
    rw [writes_cons, ih, setBytes_frame]

theorem writes_outside {l : List (Nat × List Byte)} {x : Nat} (h : ∀ w ∈ l, outside x w.1 w.2.length) : (s.writes l).byte x = s.byte x := by
  induction l generalizing s with
  | nil => rfl
  | cons w l ih =>
    obtain ⟨hw, hl⟩ := List.forall_mem_cons.1 h
    rw [writes_cons, ih hl, byte_setBytes, if_neg]
    rcases hw with hw | hw <;> omega

/-- Of writes apart from each other, each is read back. -/
theorem writes_bytes {l : List (Nat × List Byte)} (hl : l.Pairwise fun v w => apart v.1 v.2.length w.1 w.2.length)
    {w : Nat × List Byte} (hw : w ∈ l) : (s.writes l).bytes w.1 w.2.length = w.2 := by
  induction l generalizing s with
  | nil => cases hw
  | cons v l ih =>
    obtain ⟨hv, hl⟩ := List.pairwise_cons.1 hl
    rcases List.mem_cons.1 hw with rfl | hw
    · rw [writes_cons]
      refine (bytes_congr fun x h1 h2 => writes_outside fun u hu => ?_).trans (bytes_setBytes_same s w.1 w.2)
      rcases hv u hu with h | h
      · exact .inl (by omega)
      · exact .inr (by omega)
    · exact ih hl hw

/-- A fold that carries a state and a tally apart from each other. -/
theorem foldl_pair {σ τ α : Type} (f : σ → α → σ) (g : τ → α → τ) (l : List α) (s : σ) (t : τ) :
    l.foldl (fun p x => (f p.1 x, g p.2 x)) (s, t) = (l.foldl f s, l.foldl g t) := by
  induction l generalizing s t with
  | nil => rfl
  | cons x l ih => exact ih _ _

/-! ## The rows of a shape -/

theorem rows_nodup (sh : Shape) : sh.rows.Nodup := by
  unfold Shape.rows
  simp only [List.nodup_flatMap]
  refine ⟨fun i3 _ => ⟨fun i2 _ => List.nodup_range.map fun a b h => (Prod.mk.inj h).1, ?_⟩, ?_⟩
  · refine List.nodup_range.imp_of_mem fun {a b} _ _ hab r ha hb => hab ?_
    simp only [List.mem_map] at ha hb
    obtain ⟨_, -, rfl⟩ := ha
    obtain ⟨_, -, h⟩ := hb
    simp_all
  · refine List.nodup_range.imp_of_mem fun {a b} _ _ hab r ha hb => hab ?_
    simp only [List.mem_flatMap, List.mem_map] at ha hb
    obtain ⟨_, -, _, -, rfl⟩ := ha
    obtain ⟨_, -, _, -, h⟩ := hb
    simp_all

/-- Numbered in order, the items of a list without repetition differ as items and as numbers. -/
theorem zipIdx_pairwise {α : Type} {l : List α} (h : l.Nodup) (n : Nat) : (l.zipIdx n).Pairwise fun r q => r.1 ≠ q.1 ∧ r.2 ≠ q.2 := by
  refine List.Pairwise.and ?_ ?_
  · rw [← List.pairwise_map (f := Prod.fst) (R := (· ≠ ·)), List.zipIdx_map_fst]
    exact h
  · rw [← List.pairwise_map (f := Prod.snd) (R := (· ≠ ·)), List.zipIdx_map_snd]
    exact List.nodup_range'

/-! ## The accumulator (R90, R95) -/

theorem accAt_setAcc (k : Core) (row col v row' col' : Nat) :
    (k.setAcc row col v).accAt row' col' = if row' = row ∧ col' = col then v else k.accAt row' col' := by
  unfold Core.accAt Core.setAcc
  by_cases hr : row' = row
  · subst hr
    by_cases hc : col' = col
    · subst hc
      simp
    · rw [if_neg (by tauto), tget_tset_same, tget_tset_ne _ _ _ hc]
  · rw [if_neg (by tauto)]
    rw [tget_tset_ne _ _ _ hr]

/-- Nothing but the accumulator changed. -/
def Core.AccOnly (k k' : Core) : Prop := k' = { k with acc := k'.acc }

theorem Core.AccOnly.trans {k k' k'' : Core} (h : k.AccOnly k') (h' : k'.AccOnly k'') : k.AccOnly k'' := by
  unfold Core.AccOnly at h h' ⊢
  rw [h', h]

/-- What one entry receives of a row of codes and scales. -/
def Core.entrySum (k : Core) (t : Tile) (af aScale : Nat) (cont : Bool) (row : Nat) (a asc : List Nat) (col : Nat) : Flagged :=
  accumulate (if cont then some (k.accAt row col) else none) ((List.range (t.k / 32)).map
    (segResult t.fmt af (t.rows.getD col []) a (t.scales.getD col []) asc t.scale aScale))

/-- A step of `Core.streamRow`. -/
def Core.streamCol (t : Tile) (af aScale : Nat) (cont : Bool) (row : Nat) (a asc : List Nat) (p : Core × Nat) (col : Nat) : Core × Nat :=
  (p.1.setAcc row col (p.1.entrySum t af aScale cont row a asc col).val, orf p.2 (p.1.entrySum t af aScale cont row a asc col).fl)

theorem streamRow_eq (k : Core) (t : Tile) (af aScale : Nat) (cont : Bool) (row : Nat) (a asc : List Nat) :
    k.streamRow t af aScale cont row a asc = (List.range t.n).foldl (Core.streamCol t af aScale cont row a asc) (k, 0) := rfl

/-- What the first `n` columns of a row leave. -/
theorem streamCols_spec (k : Core) (t : Tile) (af aScale : Nat) (cont : Bool) (row : Nat) (a asc : List Nat) (n : Nat) :
    let p := (List.range n).foldl (Core.streamCol t af aScale cont row a asc) (k, 0)
    k.AccOnly p.1 ∧
    (∀ row' col', p.1.accAt row' col' =
      if row' = row ∧ col' < n then (k.entrySum t af aScale cont row a asc col').val else k.accAt row' col') ∧
    p.2 = (List.range n).foldl (fun y col => orf y (k.entrySum t af aScale cont row a asc col).fl) 0 := by
  induction n with
  | zero => exact ⟨rfl, fun row' col' => by rw [if_neg (by omega)]; rfl, rfl⟩
  | succ n ih =>
    obtain ⟨hk, hacc, hfl⟩ := ih
    rw [List.range_succ, List.foldl_append, List.foldl_append]
    generalize (List.range n).foldl (Core.streamCol t af aScale cont row a asc) (k, 0) = p at hk hacc hfl ⊢
    have hsum : p.1.entrySum t af aScale cont row a asc n = k.entrySum t af aScale cont row a asc n := by
      have hn : p.1.accAt row n = k.accAt row n := by rw [hacc, if_neg (fun h => Nat.lt_irrefl n h.2)]
      rw [Core.entrySum, Core.entrySum, hn]
    refine ⟨?_, fun row' col' => ?_, ?_⟩
    · exact hk.trans rfl
    · show (p.1.setAcc _ _ _).accAt _ _ = _
      rw [accAt_setAcc, hsum, hacc]
      by_cases h : row' = row ∧ col' = n
      · rw [if_pos h, if_pos ⟨h.1, by omega⟩, h.2]
      · rw [if_neg h]
        by_cases h' : row' = row ∧ col' < n
        · rw [if_pos h', if_pos ⟨h'.1, by omega⟩]
        · rw [if_neg h', if_neg (by omega)]
    · show orf p.2 _ = orf _ _
      rw [hsum, hfl]

/-- The stream of the numbered rows of a shape: `a` and `asc` give the codes and scales of a row. -/
def streamRows (t : Tile) (af aScale : Nat) (cont : Bool) (base : Nat) (a asc : Nat × Nat × Nat → List Nat) (p : Core × Nat)
    (r : (Nat × Nat × Nat) × Nat) : Core × Nat :=
  ((p.1.streamRow t af aScale cont (base + r.2) (a r.1) (asc r.1)).1,
    orf p.2 (p.1.streamRow t af aScale cont (base + r.2) (a r.1) (asc r.1)).2)

/-- What a stream leaves: every entry of its rows and columns holds its sum from the entry as it stood, and no other changes. -/
theorem streamRows_spec (t : Tile) (af aScale : Nat) (cont : Bool) (base : Nat) (a asc : Nat × Nat × Nat → List Nat)
    {l : List ((Nat × Nat × Nat) × Nat)} (hl : l.Pairwise fun r q => r.2 ≠ q.2) (k : Core) (x : Nat) :
    let sum := fun (r : (Nat × Nat × Nat) × Nat) col => k.entrySum t af aScale cont (base + r.2) (a r.1) (asc r.1) col
    let p := l.foldl (streamRows t af aScale cont base a asc) (k, x)
    k.AccOnly p.1 ∧
    (∀ r ∈ l, ∀ col < t.n, p.1.accAt (base + r.2) col = (sum r col).val) ∧
    (∀ row col, (∀ r ∈ l, row ≠ base + r.2) ∨ t.n ≤ col → p.1.accAt row col = k.accAt row col) ∧
    p.2 = l.foldl (fun x r => orf x ((List.range t.n).foldl (fun y col => orf y (sum r col).fl) 0)) x := by
  induction l generalizing k x with
  | nil => exact ⟨rfl, fun _ h => absurd h (by simp), fun _ _ _ => rfl, rfl⟩
  | cons q l ih =>
    obtain ⟨hq, hl⟩ := List.pairwise_cons.1 hl
    obtain ⟨hk1, hacc1, hfl1⟩ := streamCols_spec k t af aScale cont (base + q.2) (a q.1) (asc q.1) t.n
    rw [← streamRow_eq] at hk1 hacc1 hfl1
    intro sum
    rw [List.foldl_cons, List.foldl_cons]
    obtain ⟨hk2, hrow2, hother2, hfl2⟩ := ih hl (streamRows t af aScale cont base a asc (k, x) q).1
      (streamRows t af aScale cont base a asc (k, x) q).2
    have hkeep : ∀ r ∈ l, ∀ col, (streamRows t af aScale cont base a asc (k, x) q).1.entrySum t af aScale cont (base + r.2) (a r.1)
        (asc r.1) col = sum r col := by
      intro r hr col
      have hne := hq r hr
      have hcol : (streamRows t af aScale cont base a asc (k, x) q).1.accAt (base + r.2) col = k.accAt (base + r.2) col :=
        (hacc1 _ _).trans (if_neg fun h => hne (Nat.add_left_cancel h.1).symm)
      rw [Core.entrySum, hcol]
      rfl
    refine ⟨?_, fun r hr col hcol => ?_, fun row col h => ?_, ?_⟩
    · exact hk1.trans hk2
    · rcases List.mem_cons.1 hr with rfl | hr
      · rw [hother2 _ _ (.inl fun r' hr' => by have := hq r' hr'; omega)]
        show (k.streamRow _ _ _ _ _ _ _).1.accAt _ _ = _
        rw [hacc1, if_pos ⟨rfl, hcol⟩]
      · exact (hrow2 r hr col hcol).trans (congrArg Flagged.val (hkeep r hr col))
    · rw [hother2 row col (h.imp_left fun h r hr => h r (List.mem_cons_of_mem _ hr))]
      show (k.streamRow _ _ _ _ _ _ _).1.accAt _ _ = _
      rw [hacc1, if_neg]
      rcases h with h | h
      · exact fun h' => h q List.mem_cons_self h'.1
      · omega
    · rw [hfl2]
      refine (List.foldl_ext _ _ _ fun y r hr => ?_).trans (congrArg (fun z => l.foldl _ z) ?_)
      · simp only [hkeep r hr]
      · exact congrArg (orf x) hfl1

/-! ## The rows that MM_DRAIN writes (R92, R123) -/

theorem mxBlock_length {f : Nat} {xs : List Num} {rs : List Rnd} (h : xs.length = rs.length) :
    (mxBlock f xs rs).2.1.length = xs.length := by
  unfold mxBlock
  dsimp only
  split <;> simp [h]

theorem mxRow_length {f : Nat} : ∀ {n : Nat} {xs : List Num} {rs : List Rnd}, xs.length = 32 * n → rs.length = 32 * n →
    (mxRow f n xs rs).1.length = n ∧ (mxRow f n xs rs).2.1.length = 32 * n
  | 0, _, _, _, _ => ⟨rfl, rfl⟩
  | n + 1, xs, rs, hx, hr => by
    obtain ⟨h1, h2⟩ := mxRow_length (f := f) (n := n) (xs := xs.drop 32) (rs := rs.drop 32) (by simp; omega) (by simp; omega)
    have hb := mxBlock_length (f := f) (xs := xs.take 32) (rs := rs.take 32) (by simp; omega)
    simp only [mxRow, List.length_cons, List.length_append, List.length_map, h1, h2, hb, List.length_take]
    exact ⟨trivial, by omega⟩

/-- The accumulator entries of row `i` of an MM_DRAIN, scaled. -/
def drainVals (k : Core) (c : Cmd) (i : Nat) : List Flagged :=
  (List.range (shapeOf c).d0).map (fun col => fmul (k.accAt (accRow c + i) col) (cbytes c 52 4))

/-- The rounding of each element of row `i`. -/
def drainRnds (seed : Nat) (c : Cmd) (i : Nat) : List Rnd :=
  (List.range (shapeOf c).d0).map (fun col => rndOf (mmRnd c) seed (cbytes c 56 2) (cbytes c 58 4 + i * (shapeOf c).d0 + col))

/-- Row `i` as an MX row, and as converted elements. -/
def drainMx (k : Core) (seed : Nat) (c : Cmd) (i : Nat) : List Nat × List Nat × Nat :=
  mxRow (mmFmt c) ((shapeOf c).d0 / 32) ((drainVals k c i).map (fun v => fp32.decode v.val)) (drainRnds seed c i)

def drainOut (k : Core) (seed : Nat) (c : Cmd) (i : Nat) : List Flagged :=
  (((drainVals k c i).map (fun v => fp32.decode v.val)).zip (drainRnds seed c i)).map
    (fun q => (outFmt (mmFmt c)).convert q.1 q.2 (mmSat c))

/-- Where a row of elements and its scales go. -/
def drainAt (core : Nat) (c : Cmd) (r : Nat × Nat × Nat) : Nat := spadAddr core ((spadDesc c 24).row (spadDesc c 24).base r).toNat
def drainScaleAt (core : Nat) (c : Cmd) (r : Nat × Nat × Nat) : Nat := spadAddr core ((spadDesc c 37).row (spadDesc c 37).base r).toNat

/-- The writes of one row: for an MX format its elements and then its scales. -/
def drainRow (core : Nat) (k : Core) (seed : Nat) (c : Cmd) (r : (Nat × Nat × Nat) × Nat) : List (Nat × List Byte) :=
  if isMx (mmFmt c) then
    [(drainAt core c r.1, packRow (mmFmt c) (drainMx k seed c r.2).2.1),
      (drainScaleAt core c r.1, (drainMx k seed c r.2).1.map (BitVec.ofNat 8))]
  else [(drainAt core c r.1, packRow (mmFmt c) ((drainOut k seed c r.2).map (·.val)))]

theorem drainRow_mx {core : Nat} {k : Core} {seed : Nat} {c : Cmd} {r : (Nat × Nat × Nat) × Nat} (hm : isMx (mmFmt c) = true) :
    drainRow core k seed c r = [(drainAt core c r.1, packRow (mmFmt c) (drainMx k seed c r.2).2.1),
      (drainScaleAt core c r.1, (drainMx k seed c r.2).1.map (BitVec.ofNat 8))] := if_pos hm

theorem drainRow_plain {core : Nat} {k : Core} {seed : Nat} {c : Cmd} {r : (Nat × Nat × Nat) × Nat} (hm : ¬ isMx (mmFmt c) = true) :
    drainRow core k seed c r = [(drainAt core c r.1, packRow (mmFmt c) ((drainOut k seed c r.2).map (·.val)))] := if_neg hm

/-- The flags of one row, added to those before it. -/
def drainFlags (k : Core) (seed : Nat) (c : Cmd) (x : Nat) (r : (Nat × Nat × Nat) × Nat) : Nat :=
  if isMx (mmFmt c) then orf ((drainVals k c r.2).foldl (fun x v => orf x v.fl) x) (drainMx k seed c r.2).2.2
  else (drainOut k seed c r.2).foldl (fun x v => orf x v.fl) ((drainVals k c r.2).foldl (fun x v => orf x v.fl) x)

theorem foldl_writes {α : Type} (f : α → List (Nat × List Byte)) (l : List α) (s : State) :
    l.foldl (fun s r => s.writes (f r)) s = s.writes (l.flatMap f) := by
  induction l generalizing s with
  | nil => rfl
  | cons r l ih => rw [List.foldl_cons, ih, List.flatMap_cons, writes_append]

/-- One row of an MM_DRAIN as the command does it. -/
def drainStep (core : Nat) (k : Core) (seed : Nat) (c : Cmd) (p : State × Nat) (r : (Nat × Nat × Nat) × Nat) : State × Nat :=
  if isMx (mmFmt c) then
    ((p.1.setSpad core ((spadDesc c 24).row (spadDesc c 24).base r.1).toNat (packRow (mmFmt c) (drainMx k seed c r.2).2.1)).setSpad core
        ((spadDesc c 37).row (spadDesc c 37).base r.1).toNat ((drainMx k seed c r.2).1.map (BitVec.ofNat 8)),
      orf ((drainVals k c r.2).foldl (fun x v => orf x v.fl) p.2) (drainMx k seed c r.2).2.2)
  else
    (p.1.setSpad core ((spadDesc c 24).row (spadDesc c 24).base r.1).toNat (packRow (mmFmt c) ((drainOut k seed c r.2).map (·.val))),
      (drainOut k seed c r.2).foldl (fun x v => orf x v.fl) ((drainVals k c r.2).foldl (fun x v => orf x v.fl) p.2))

theorem drainStep_eq (k : Core) (seed : Nat) (c : Cmd) (p : State × Nat) (r : (Nat × Nat × Nat) × Nat) :
    drainStep core k seed c p r = (p.1.writes (drainRow core k seed c r), drainFlags k seed c p.2 r) := by
  unfold drainStep drainRow drainFlags
  split <;> rfl

theorem foldl_drainStep (k : Core) (seed : Nat) (c : Cmd) (l : List ((Nat × Nat × Nat) × Nat)) :
    l.foldl (drainStep core k seed c) (s, 0) =
      (s.writes (l.flatMap (drainRow core k seed c)), l.foldl (drainFlags k seed c) 0) := by
  rw [← foldl_writes, ← foldl_pair]
  exact List.foldl_ext _ _ _ fun p r _ => drainStep_eq k seed c p r

/-- MM_DRAIN is the writes of its rows, with the flags they raise. -/
theorem exec_mmDrain_starts (hc : core < 256) (hst : s.Starts core 1 .mmDrain e) :
    exec (.mmDrain core) s = .next (((s.writes ((shapeOf e.cmd).rows.zipIdx.flatMap
      (drainRow core (s.core core) (s.planOfCore core).seed e.cmd))).raiseM core ((shapeOf e.cmd).rows.zipIdx.foldl
        (drainFlags (s.core core) (s.planOfCore core).seed e.cmd) 0)).putEntry core 1 { e with started := true }) := by
  have h : exec (.mmDrain core) s = .next
      ((((shapeOf e.cmd).rows.zipIdx.foldl (drainStep core (s.core core) (s.planOfCore core).seed e.cmd) (s, 0)).1.raiseM core
        ((shapeOf e.cmd).rows.zipIdx.foldl (drainStep core (s.core core) (s.planOfCore core).seed e.cmd) (s, 0)).2).putEntry core 1
          { e with started := true }) :=
    (if_neg (unitOk_of_lt hc (by decide))).trans (runHead_starts hst)
  rw [h, foldl_drainStep]

/-! ## What the checks of MM_DRAIN leave (R434) -/

/-- Where every code is other than 0 and the code of the list is 0, no check fails. -/
theorem not_failing {l : List (Bool × Nat)} (hc : ∀ x ∈ l, x.2 ≠ 0) (h : firstFailing l = 0) {x : Bool × Nat} (hx : x ∈ l) :
    x.1 = false := by
  induction l with
  | nil => cases hx
  | cons y l ih =>
    obtain ⟨hy, hl⟩ := List.forall_mem_cons.1 hc
    rw [firstFailing_cons] at h
    split at h
    · exact absurd h hy
    · next hb =>
      rcases List.mem_cons.1 hx with rfl | hx
      · exact Bool.eq_false_iff.2 hb
      · exact ih hl h hx

/-- A command that passes its checks passes each of the first nine. -/
theorem check_of_operandCheck {env : CheckEnv} {op : Op} {c : Cmd} (h : operandCheck env op c = 0) {x : Bool × Nat}
    (hx : x ∈ operandChecksFront op c) : x.1 = false := by
  have hcodes : ∀ y ∈ operandChecksFront op c, y.2 ≠ 0 := by simp [operandChecksFront]
  rw [operandCheck_eq_firstFailing, operandChecks, firstFailing_append hcodes] at h
  split at h
  · next h' => exact absurd h h'
  · next h' => exact not_failing hcodes (not_not.1 h') hx

theorem drain_block (hst : s.Starts core 1 .mmDrain e) (hm : isMx (mmFmt e.cmd) = true) : (shapeOf e.cmd).d0 = 32 * ((shapeOf e.cmd).d0 / 32) := by
  have h : blockBad .mmDrain e.cmd = false := check_of_operandCheck hst.2.2 (x := (blockBad .mmDrain e.cmd, 0x41)) (by simp only [operandChecksFront, List.mem_cons, true_or, or_true])
  simp [blockBad, hm] at h
  omega

theorem drainOut_length (k : Core) (seed : Nat) (c : Cmd) (i : Nat) : (drainOut k seed c i).length = (shapeOf c).d0 := by
  simp [drainOut, drainVals, drainRnds]

theorem drainMx_length (k : Core) (seed : Nat) {c : Cmd} (i : Nat) (h : (shapeOf c).d0 = 32 * ((shapeOf c).d0 / 32)) :
    (drainMx k seed c i).1.length = (shapeOf c).d0 / 32 ∧ (drainMx k seed c i).2.1.length = (shapeOf c).d0 := by
  obtain ⟨h1, h2⟩ := mxRow_length (f := mmFmt c) (n := (shapeOf c).d0 / 32) (xs := (drainVals k c i).map (fun v => fp32.decode v.val))
    (rs := drainRnds seed c i) (by simpa [drainVals] using h) (by simpa [drainRnds] using h)
  exact ⟨h1, h2.trans h.symm⟩

/-- The writes of a row, by place and length. -/
theorem mem_drainRow {k : Core} {seed : Nat} {c : Cmd} {r : (Nat × Nat × Nat) × Nat} {w : Nat × List Byte}
    (hb : isMx (mmFmt c) = true → (shapeOf c).d0 = 32 * ((shapeOf c).d0 / 32)) (hw : w ∈ drainRow core k seed c r) :
    (w.1 = drainAt core c r.1 ∧ w.2.length = fmtLen (mmFmt c) (shapeOf c).d0) ∨
    (isMx (mmFmt c) = true ∧ w.1 = drainScaleAt core c r.1 ∧ w.2.length = (shapeOf c).d0 / 32) := by
  unfold drainRow at hw
  split at hw
  · next hm =>
    obtain ⟨h1, h2⟩ := drainMx_length k seed r.2 (hb hm)
    rcases List.mem_cons.1 hw with rfl | hw
    · exact .inl ⟨rfl, by simp [h2]⟩
    · obtain rfl := List.mem_singleton.1 hw
      exact .inr ⟨hm, rfl, by simp [h1]⟩
  · obtain rfl := List.mem_singleton.1 hw
    exact .inl ⟨rfl, by simp [drainOut_length]⟩

/-- The rows of an MM_DRAIN meet each other nowhere. -/
def DrainApart (core : Nat) (c : Cmd) : Prop :=
  ∀ r ∈ (shapeOf c).rows, ∀ q ∈ (shapeOf c).rows,
    (r ≠ q → apart (drainAt core c r) (fmtLen (mmFmt c) (shapeOf c).d0) (drainAt core c q) (fmtLen (mmFmt c) (shapeOf c).d0)) ∧
    (isMx (mmFmt c) = true → apart (drainAt core c r) (fmtLen (mmFmt c) (shapeOf c).d0) (drainScaleAt core c q) ((shapeOf c).d0 / 32) ∧
      (r ≠ q → apart (drainScaleAt core c r) ((shapeOf c).d0 / 32) (drainScaleAt core c q) ((shapeOf c).d0 / 32)))

theorem apart_symm {a m b n : Nat} (h : apart a m b n) : apart b n a m := h.symm

/-- Then no write of theirs meets another. -/
theorem drainRows_pairwise {k : Core} {seed : Nat} {c : Cmd}
    (hb : isMx (mmFmt c) = true → (shapeOf c).d0 = 32 * ((shapeOf c).d0 / 32)) (ha : DrainApart core c) :
    ((shapeOf c).rows.zipIdx.flatMap (drainRow core k seed c)).Pairwise fun v w => apart v.1 v.2.length w.1 w.2.length := by
  refine List.pairwise_flatMap.2 ⟨fun r hr => ?_, ?_⟩
  · have hrow : r.1 ∈ (shapeOf c).rows := List.fst_mem_of_mem_zipIdx hr
    unfold drainRow
    split
    · next hm =>
      obtain ⟨h1, h2⟩ := drainMx_length k seed r.2 (hb hm)
      refine List.pairwise_pair.2 ?_
      simpa [h1, h2] using ((ha r.1 hrow r.1 hrow).2 hm).1
    · exact List.pairwise_singleton _ _
  · refine (zipIdx_pairwise (rows_nodup _) 0).imp_of_mem fun {r q} hr hq hne v hv w hw => ?_
    have hr' := List.fst_mem_of_mem_zipIdx hr
    have hq' := List.fst_mem_of_mem_zipIdx hq
    rcases mem_drainRow hb hv with ⟨hv1, hv2⟩ | ⟨hm, hv1, hv2⟩ <;> rcases mem_drainRow hb hw with ⟨hw1, hw2⟩ | ⟨hm', hw1, hw2⟩ <;>
      rw [hv1, hv2, hw1, hw2]
    · exact (ha _ hr' _ hq').1 hne.1
    · exact ((ha _ hr' _ hq').2 hm').1
    · exact apart_symm ((ha _ hq' _ hr').2 hm).1
    · exact ((ha _ hr' _ hq').2 hm).2 hne.1

/-! ## The obligation -/

/-- Settles O10: MM_WLOAD by its definition, MM_STREAM by `streamRows_spec`, MM_DRAIN by its writes (`writes_bytes`). -/
theorem matrixStarts : Obligations.MatrixStarts := by
  unfold Obligations.MatrixStarts
  refine ⟨?wload, ?stream, ?drain⟩
  case wload =>
    intro s core e hc hst
    exact ⟨_, (if_neg (unitOk_of_lt hc (by decide))).trans (runHead_starts hst), rfl, rfl, rfl, rfl, rfl, rfl⟩
  case stream =>
    intro s core e w hc hst htile hcheck c sh codes scales sum
    have hex : exec (.mmStream core) s = .next ((((s.setCore core (sh.rows.zipIdx.foldl
        (streamRows w (mmFmt c) (cbytes c 54 4) (contOf c) (accRow c) codes scales)
          ({ s.core core with active := some w, shadow := none }, 0)).1).raiseM core (sh.rows.zipIdx.foldl
        (streamRows w (mmFmt c) (cbytes c 54 4) (contOf c) (accRow c) codes scales)
          ({ s.core core with active := some w, shadow := none }, 0)).2).putEntry core 1 { e with started := true })) := by
      refine ((if_neg (unitOk_of_lt hc (by decide))).trans (runHead_starts hst)).trans ?_
      dsimp only
      simp only [htile, hcheck]
      rfl
    obtain ⟨hk, hrow, hother, hfl⟩ := streamRows_spec w (mmFmt c) (cbytes c 54 4) (contOf c) (accRow c) codes scales
      ((zipIdx_pairwise (rows_nodup sh) 0).imp And.right) { s.core core with active := some w, shadow := none } 0
    refine ⟨_, _, hex, hk, hrow, fun row col h => hother row col (h.elim (fun h => .inl fun r hr => ?_) fun h => h.elim (fun h => .inl fun r hr => ?_) .inr),
      hfl⟩
    · omega
    · have := List.snd_lt_of_mem_zipIdx hr
      omega
  case drain =>
    intro s core e hc hst c sh f at' scAt vals rnd xs mx os
    refine ⟨_, _, exec_mmDrain_starts hc hst, writes_frame _, fun a ha => writes_outside fun w hw => ?_, ?_, fun ha r hr => ?_⟩
    · obtain ⟨r, hr, hw⟩ := List.mem_flatMap.1 hw
      obtain ⟨h1, h2⟩ := ha r.1 (List.fst_mem_of_mem_zipIdx hr)
      rcases mem_drainRow (drain_block hst) hw with ⟨hw1, hw2⟩ | ⟨hm, hw1, hw2⟩ <;> rw [hw1, hw2]
      · exact h1
      · exact h2 hm
    · rfl
    · have hpair := drainRows_pairwise (k := s.core core) (seed := (s.planOfCore core).seed) (drain_block hst) ha
      have hread := fun w (hw : w ∈ drainRow core (s.core core) (s.planOfCore core).seed c r) =>
        writes_bytes (s := s) hpair (List.mem_flatMap.2 ⟨r, hr, hw⟩)
      by_cases hm : isMx (mmFmt c) = true
      · obtain ⟨h1, h2⟩ := drainMx_length (s.core core) (s.planOfCore core).seed r.2 (drain_block hst hm)
        have hel := hread _ (drainRow_mx hm ▸ List.mem_cons_self)
        have hsc := hread _ (drainRow_mx hm ▸ List.mem_cons_of_mem _ List.mem_cons_self)
        rw [packRow_length, h2] at hel
        rw [List.length_map, h1] at hsc
        exact ⟨hel.trans (congrArg (packRow f) (if_pos hm).symm), fun _ => hsc⟩
      · have hel := hread _ (drainRow_plain hm ▸ List.mem_cons_self)
        rw [packRow_length, List.length_map, drainOut_length] at hel
        exact ⟨hel.trans (congrArg (packRow f) (if_neg hm).symm), fun h => absurd h hm⟩

end Sys2Proof.Machine
end

section
/-! SUPPORT. O13, O24 and O26: the stream buffer, the queries, and the settings that wait for a boundary. -/

namespace Sys2Proof.Machine

/-- Settles O13: both cases are branches of the fetch. -/
theorem streamIsRead : Obligations.StreamIsRead := by
  unfold Obligations.StreamIsRead
  refine ⟨fun s u core sym bs hc hf hb hl howns hread => ?_, fun s core sym hc hf hb hl howns => ?_⟩
  · refine (if_neg (unitOk_of_lt hc (by decide))).trans ?_
    unfold State.fetchBlock
    simp [hf, hb, hl, howns, hread]
  · refine (if_neg (unitOk_of_lt hc (by decide))).trans ?_
    unfold State.fetchBlock
    simp [hf, hb, hl, howns]

/-- Settles O24: each query is admitted, and its record can be written. -/
theorem queriesAnswer : Obligations.QueriesAnswer := by
  unfold Obligations.QueriesAnswer
  refine ⟨fun s v h ha hp => ?_, fun s v h tag i ha ⟨ht, hp⟩ => ?_, fun s h ha => ?_⟩
  · change execPartitionInfo h s = _
    rw [execPartitionInfo, control_admits ha]
    simp only [hp]
  · change execReqQuery h tag s = _
    rw [execReqQuery, control_admits ha]
    simp only [ht, hp]
  · change execLogFlush h s = _
    rw [execLogFlush, control_admits ha]

/-- Settles O26: each setting passes its checks. -/
theorem servingIsConfigured : Obligations.ServingIsConfigured := by
  unfold Obligations.ServingIsConfigured
  refine ⟨fun s u h c ha hl hp hc => ?_, fun s u h c ha hl hp hc => ?_,
    fun s u h id c ha hl hid hp h0 h1 h2 h3 h4 h5 h6 hz => ?_, fun s u h c ha hl hp hc => ?_⟩
  · change execServeConfig h s = _
    rw [execServeConfig, control_admits ha]
    simp [hl, hp, hc]
  · change execSamplerConfig h s = _
    rw [execSamplerConfig, control_admits ha]
    simp [hl, hp, hc]
  · change execCustomerSet h id s = _
    rw [execCustomerSet, control_admits ha]
    have hrange : ¬ (leAt c 0 1 ≠ 1 ∨ 2 ≤ leAt c 1 1 ∨ 3 < leAt c 2 1 ∨ leAt c 3 1 ≠ 0 ∨ 2 ^ 24 ≤ leAt c 4 4 ∨ leAt c 8 4 = 0 ∨
        2 ^ 24 ≤ leAt c 8 4 ∨ ¬ zeros (slice c 36 28) = true) := by
      simp only [hz, not_true, or_false]
      omega
    have hlen : ¬ (h.len ≠ 64 ∨ (s.takeEntry h).getF F.RQT_PART_CUST_COUNT h.part ≤ id) := by omega
    simp only [if_neg hlen, hp, if_neg hrange]
  · have hts : ((List.range 4).map (fun k => leAt c (4 * k) 4)).any (fun t => decide (2 ^ 24 ≤ t)) = false := by
      simpa [List.any_eq_false] using hc
    change execPrioSet h s = _
    rw [execPrioSet, control_admits ha]
    simp only [hl, hp, hts]
    rfl

end Sys2Proof.Machine
end

section
/-! SUPPORT. VE_OREDUCE (R105, R106): one column of the fixed tree is the tree over one column, and what the groups of the walk write
is what the whole walk gives, where the destination lies apart from the sources. -/

namespace Sys2Proof.Machine

variable {s : State} {core : Nat}

/-! ## Columns of the fixed tree -/

/-- One column of a tagged input. -/
def Tagged.column (i : Nat) (t : Tagged) : Tagged := { t with vec := [t.vec.getD i 0] }

/-- A node that has a value has an input, and is as wide as the inputs. -/
theorem evalNode_val {S : Nat} {f : Nat → Nat → Flagged} {ins : List Tagged} {d : Nat} (hd : ∀ t ∈ ins, t.vec.length = d) {l j : Nat}
    {v : List Flagged} (h : evalNode S f ins l j = .val v) : ins ≠ [] ∧ v.length = d := by
  have hfound : ∀ {t : Tagged} {p : Tagged → Bool}, ins.find? p = some t → ins ≠ [] ∧ (t.vec.map (fun x => (⟨x, 0⟩ : Flagged))).length = d :=
    fun ht => ⟨List.ne_nil_of_mem (List.mem_of_find?_eq_some ht), by simp [hd _ (List.mem_of_find?_eq_some ht)]⟩
  induction l generalizing j v with
  | zero =>
    unfold evalNode at h
    split at h
    · cases h
    · split at h
      · next t ht => exact NodeRes.val.inj h ▸ hfound ht
      · cases h
  | succ l ih =>
    unfold evalNode at h
    split at h
    · cases h
    · split at h
      · next t ht => exact NodeRes.val.inj h ▸ hfound ht
      · cases ha : evalNode S f ins l (2 * j) with
        | missing fl => simp [ha] at h
        | empty => simp [ha] at h
        | val x =>
          obtain ⟨hne, hx⟩ := ih ha
          cases hb : evalNode S f ins l (2 * j + 1) with
          | missing fl => simp [ha, hb] at h
          | empty =>
            simp only [ha, hb] at h
            exact NodeRes.val.inj h ▸ ⟨hne, hx⟩
          | val y =>
            simp only [ha, hb] at h
            exact NodeRes.val.inj h ▸ ⟨hne, by simp [hx, (ih hb).2]⟩

/-- What the tree over all columns says of the tree over column `i`. -/
def NodeRes.Projects (i : Nat) : NodeRes → NodeRes → Prop
  | .val v, r => r = .val [v.getD i ⟨0, 0⟩]
  | .empty, r => r = .empty
  | .missing _, _ => True

theorem find?_column (i : Nat) (p : Nat → Nat → Bool) (ins : List Tagged) :
    (ins.map (Tagged.column i)).find? (fun t => p t.level t.index) = (ins.find? (fun t => p t.level t.index)).map (Tagged.column i) :=
  List.find?_map

theorem evalNode_column {S : Nat} {f : Nat → Nat → Flagged} {ins : List Tagged} {d i : Nat} (hi : i < d) (hd : ∀ t ∈ ins, t.vec.length = d)
    (l j : Nat) : (evalNode S f ins l j).Projects i (evalNode S f (ins.map (Tagged.column i)) l j) := by
  induction l generalizing j with
  | zero =>
    unfold evalNode
    rw [find?_column i (fun a b => a == 0 && b == j)]
    split
    · rfl
    · split
      · next t ht =>
        have hl := hd t (List.mem_of_find?_eq_some ht)
        simp [NodeRes.Projects, ht, Tagged.column, hl, hi]
      · trivial
  | succ l ih =>
    unfold evalNode
    rw [find?_column i (fun a b => a == l + 1 && b == j)]
    split
    · rfl
    · split
      · next t ht =>
        have hl := hd t (List.mem_of_find?_eq_some ht)
        simp [NodeRes.Projects, ht, Tagged.column, hl, hi]
      · next hnone =>
        have h1 := ih (2 * j)
        have h2 := ih (2 * j + 1)
        simp only [hnone, Option.map_none]
        cases ha : evalNode S f ins l (2 * j) with
        | missing fl => trivial
        | empty =>
          rw [ha] at h1
          simp only [NodeRes.Projects] at h1
          rw [h1]
          rfl
        | val x =>
          rw [ha] at h1
          simp only [NodeRes.Projects] at h1
          rw [h1]
          have hx := (evalNode_val hd ha).2
          cases hb : evalNode S f ins l (2 * j + 1) with
          | missing fl => trivial
          | empty =>
            rw [hb] at h2
            simp only [NodeRes.Projects] at h2
            rw [h2]
            rfl
          | val y =>
            rw [hb] at h2
            simp only [NodeRes.Projects] at h2
            rw [h2]
            have hy := (evalNode_val hd hb).2
            simp [NodeRes.Projects, hx, hy, hi]

/-! ## The walk and its groups -/

theorem groupsOf_flatten {α : Type} {g : Nat} (hg : 0 < g) : ∀ (n : Nat) (l : List α), l.length < n → (groupsOf g n l).flatten = l
  | 0, _, h => absurd h (by omega)
  | n + 1, l, h => by
    unfold groupsOf
    split
    · next he => simp [List.isEmpty_iff.1 he]
    · next he =>
      have hl : 0 < l.length := List.length_pos_iff.2 (fun h => he (by simp [h]))
      rw [List.flatten_cons, groupsOf_flatten hg n _ (by rw [List.length_drop]; omega), List.take_append_drop]

theorem walkGroups_flatten {α : Type} {e : Nat} (he : 0 < 1024 / e) (l : List α) : (walkGroups e l).flatten = l :=
  groupsOf_flatten he _ _ (Nat.lt_succ_self _)

/-- The walk of a shape of two dimensions. -/
def plane (d0 d1 : Nat) : List (Nat × (Nat × Nat × Nat)) :=
  (List.range d1).flatMap fun v => (List.range d0).map fun i => (i, (v, 0, 0))

theorem walk_plane {sh : Shape} (h2 : sh.d2 = 1) (h3 : sh.d3 = 1) : sh.walk = plane sh.d0 sh.d1 := by
  simp [Shape.walk, Shape.rows, plane, h2, h3, List.flatMap_map]

theorem mem_plane {d0 d1 : Nat} {x : Nat × (Nat × Nat × Nat)} (h : x ∈ plane d0 d1) : x.1 < d0 ∧ x.2.1 < d1 ∧ x = (x.1, (x.2.1, 0, 0)) := by
  obtain ⟨v, hv, h⟩ := List.mem_flatMap.1 h
  obtain ⟨i, hi, rfl⟩ := List.mem_map.1 h
  exact ⟨List.mem_range.1 hi, List.mem_range.1 hv, rfl⟩

theorem plane_succ (d0 d1 : Nat) : plane d0 (d1 + 1) = plane d0 d1 ++ (List.range d0).map fun i => (i, (d1, 0, 0)) := by
  simp [plane, List.range_succ]

theorem plane_length (d0 d1 : Nat) : (plane d0 d1).length = d1 * d0 := by
  induction d1 with
  | zero => simp [plane]
  | succ n ih => rw [plane_succ, List.length_append, ih, List.length_map, List.length_range, Nat.succ_mul]

theorem plane_getElem? {d0 d1 v i : Nat} (hv : v < d1) (hi : i < d0) : (plane d0 d1)[v * d0 + i]? = some (i, (v, 0, 0)) := by
  induction d1 with
  | zero => omega
  | succ n ih =>
    rw [plane_succ]
    rcases Nat.lt_succ_iff_lt_or_eq.1 hv with h | rfl
    · have hle : (v + 1) * d0 ≤ n * d0 := Nat.mul_le_mul_right _ h
      rw [List.getElem?_append_left (by rw [plane_length]; rw [Nat.succ_mul] at hle; omega), ih h]
    · rw [List.getElem?_append_right (by rw [plane_length]; omega), plane_length, Nat.add_sub_cancel_left]
      simp [hi]

/-- The position of an element that the first part of the walk holds. -/
theorem plane_prefix {d0 d1 : Nat} {P Q : List (Nat × (Nat × Nat × Nat))} (hP : P ++ Q = plane d0 d1) {x : Nat × (Nat × Nat × Nat)} (hx : x ∈ P) :
    x.2.1 * d0 + x.1 < P.length := by
  obtain ⟨h1, h2, h3⟩ := mem_plane (hP ▸ List.mem_append_left Q hx : x ∈ plane d0 d1)
  obtain ⟨k, hk, hkx⟩ := List.getElem_of_mem hx
  have hk' : (plane d0 d1)[k]? = some x := by rw [← hP, List.getElem?_append_left hk, List.getElem?_eq_getElem hk, hkx]
  have hlen := plane_length d0 d1
  have hklt : k < (plane d0 d1).length := by rw [← hP, List.length_append]; omega
  have hd0 : 0 < d0 := by omega
  have hq : k / d0 < d1 := Nat.div_lt_of_lt_mul (by rw [Nat.mul_comm]; omega)
  have hkk : k / d0 * d0 + k % d0 = k := by rw [Nat.mul_comm]; exact Nat.div_add_mod k d0
  have h := plane_getElem? hq (Nat.mod_lt k hd0)
  rw [hkk, hk'] at h
  have hx1 : x = (k % d0, (k / d0, 0, 0)) := Option.some.inj h
  rw [hx1]
  dsimp only
  omega

/-! ## The groups -/

/-- The results that a group completes. -/
def oredOuts (sh : Shape) (res : List Nat → NodeRes) (buf : List Nat) (g : List (Nat × (Nat × Nat × Nat))) : List (Nat × Flagged) :=
  (g.filter (fun x => x.2.1 + 1 == sh.d1)).map (fun x =>
    match res ((List.range sh.d1).map (fun v => buf.getD (v * sh.d0 + x.1) 0)) with
    | .val (o :: _) => (x.1, vecOut 0 .rne false o)
    | _ => (x.1, ⟨0, 0⟩))

/-- The write of a result. -/
def oredWrite (core : Nat) (b : Desc) (o : Nat × Flagged) : Nat × List Byte := (spadAddr core (b.base + 4 * o.1), leBytes 4 o.2.val)

/-- The values that a group reads, after those before it. -/
def oredBuf (core : Nat) (a : Desc) (p : State × Nat × List Nat) (g : List (Nat × (Nat × Nat × Nat))) : List Nat :=
  p.2.2 ++ g.map (fun x => (p.1.srcElem core 0 a x).val)

/-- One group. -/
def oredStep (core : Nat) (sh : Shape) (a b : Desc) (res : List Nat → NodeRes) (p : State × Nat × List Nat) (g : List (Nat × (Nat × Nat × Nat))) :
    State × Nat × List Nat :=
  (p.1.writes ((oredOuts sh res (oredBuf core a p g) g).map (oredWrite core b)),
    (oredOuts sh res (oredBuf core a p g) g).foldl (fun x o => orf x o.2.fl) p.2.1, oredBuf core a p g)

theorem oreduce_eq (sh : Shape) (a b : Desc) (res : List Nat → NodeRes) :
    s.oreduce core sh a b res =
      ((walkGroups 4 sh.walk).foldl (oredStep core sh a b res) (s, 0, [])).1.raiseV core
        ((walkGroups 4 sh.walk).foldl (oredStep core sh a b res) (s, 0, [])).2.1 := by
  have h : oredStep core sh a b res = fun (p : State × Nat × List Nat) g =>
      let buf := p.2.2 ++ g.map (fun x => (p.1.srcElem core 0 a x).val)
      let os := oredOuts sh res buf g
      (os.foldl (fun s o => s.setSpad core (b.base + 4 * o.1) (leBytes 4 o.2.val)) p.1, os.foldl (fun x o => orf x o.2.fl) p.2.1, buf) := by
    funext p g
    simp only [oredStep, State.writes, List.foldl_map]
    rfl
  rw [h]
  rfl

theorem oredOuts_fst (sh : Shape) (res : List Nat → NodeRes) (buf : List Nat) {g : List (Nat × (Nat × Nat × Nat))} {o : Nat × Flagged}
    (h : o ∈ oredOuts sh res buf g) : ∃ x ∈ g, o.1 = x.1 := by
  obtain ⟨x, hx, rfl⟩ := List.mem_map.1 h
  refine ⟨x, (List.mem_filter.1 hx).1, ?_⟩
  split <;> rfl

/-- Whatever overlaps, the groups write results at their places and nothing else. -/
theorem foldl_oredStep_writes {sh : Shape} {a b : Desc} {res : List Nat → NodeRes} (gs : List (List (Nat × (Nat × Nat × Nat)))) {d : Nat}
    (hd : ∀ g ∈ gs, ∀ x ∈ g, x.1 < d) (p : State × Nat × List Nat) :
    ∃ l : List (Nat × Flagged), (gs.foldl (oredStep core sh a b res) p).1 = p.1.writes (l.map (oredWrite core b)) ∧ ∀ o ∈ l, o.1 < d := by
  induction gs generalizing p with
  | nil => exact ⟨[], rfl, by simp⟩
  | cons g gs ih =>
    obtain ⟨hg, hgs⟩ := List.forall_mem_cons.1 hd
    obtain ⟨l, hl, hld⟩ := ih hgs (oredStep core sh a b res p g)
    refine ⟨oredOuts sh res (oredBuf core a p g) g ++ l, ?_, fun o ho => ?_⟩
    · rw [List.foldl_cons, hl, List.map_append, writes_append]
      rfl
    · rcases List.mem_append.1 ho with ho | ho
      · obtain ⟨x, hx, he⟩ := oredOuts_fst sh res _ ho
        exact he ▸ hg x hx
      · exact hld o ho

/-- The results of a part of the walk, from the sources as they stood. -/
def oredRes (sh : Shape) (r : Nat → Flagged) (P : List (Nat × (Nat × Nat × Nat))) : List (Nat × Flagged) :=
  (P.filter (fun x => x.2.1 + 1 == sh.d1)).map (fun x => (x.1, r x.1))

theorem srcElem_writes {a : Desc} {x : Nat × (Nat × Nat × Nat)} {l : List (Nat × List Byte)}
    (h : ∀ w ∈ l, apart w.1 w.2.length (elemAddr core 0 a x) 4) : (s.writes l).srcElem core 0 a x = s.srcElem core 0 a x := by
  have hb : (s.writes l).bytes (elemAddr core 0 a x) 4 = s.bytes (elemAddr core 0 a x) 4 :=
    bytes_congr fun y h1 h2 => writes_outside fun w hw => by
      rcases h w hw with h | h
      · exact .inr (by omega)
      · exact .inl (by omega)
  exact congrArg (fun bs => toFp32 (decodeElem 0 (leNat bs))) hb

/-- Where the results lie apart from the sources, the groups give what the whole walk gives. -/
theorem foldl_oredStep_apart {sh : Shape} {a b : Desc} {res : List Nat → NodeRes} {r : Nat → Flagged}
    (hr : ∀ i < sh.d0, ∃ o l, res ((List.range sh.d1).map (fun v => (s.srcElem core 0 a (i, (v, 0, 0))).val)) = .val (o :: l) ∧ r i = vecOut 0 .rne false o)
    (ha : ∀ y ∈ plane sh.d0 sh.d1, ∀ i < sh.d0, apart (spadAddr core (b.base + 4 * i)) 4 (elemAddr core 0 a y) 4)
    (gs : List (List (Nat × (Nat × Nat × Nat)))) (P : List (Nat × (Nat × Nat × Nat))) (hP : P ++ gs.flatten = plane sh.d0 sh.d1) :
    gs.foldl (oredStep core sh a b res) (s.writes ((oredRes sh r P).map (oredWrite core b)),
      (oredRes sh r P).foldl (fun x o => orf x o.2.fl) 0, P.map (fun x => (s.srcElem core 0 a x).val)) =
    (s.writes ((oredRes sh r (plane sh.d0 sh.d1)).map (oredWrite core b)),
      (oredRes sh r (plane sh.d0 sh.d1)).foldl (fun x o => orf x o.2.fl) 0, (plane sh.d0 sh.d1).map (fun x => (s.srcElem core 0 a x).val)) := by
  induction gs generalizing P with
  | nil =>
    have h : P = plane sh.d0 sh.d1 := by simpa using hP
    rw [List.foldl_nil, h]
  | cons g gs ih =>
    have hP' : (P ++ g) ++ gs.flatten = plane sh.d0 sh.d1 := by rw [← hP, List.flatten_cons, List.append_assoc]
    have hmem : ∀ x ∈ P ++ g, x ∈ plane sh.d0 sh.d1 := fun x hx => hP' ▸ List.mem_append_left _ hx
    have hbuf : oredBuf core a (s.writes ((oredRes sh r P).map (oredWrite core b)), (oredRes sh r P).foldl (fun x o => orf x o.2.fl) 0,
        P.map (fun x => (s.srcElem core 0 a x).val)) g = (P ++ g).map (fun x => (s.srcElem core 0 a x).val) := by
      rw [oredBuf, List.map_append]
      refine congrArg _ (List.map_congr_left fun x hx => congrArg Flagged.val (srcElem_writes fun w hw => ?_))
      obtain ⟨o, ho, rfl⟩ := List.mem_map.1 hw
      obtain ⟨y, hy, rfl⟩ := List.mem_map.1 ho
      have hy' := (mem_plane (hmem y (List.mem_append_left g (List.mem_filter.1 hy).1))).1
      simpa [oredWrite] using ha x (hmem x (List.mem_append_right P hx)) y.1 hy'
    have houts : oredOuts sh res ((P ++ g).map (fun x => (s.srcElem core 0 a x).val)) g = oredRes sh r g := by
      refine List.map_congr_left fun x hx => ?_
      obtain ⟨hxg, hlast⟩ := List.mem_filter.1 hx
      have hlast : x.2.1 + 1 = sh.d1 := by simpa using hlast
      obtain ⟨hx0, hx1, -⟩ := mem_plane (hmem x (List.mem_append_right P hxg))
      have hpos := plane_prefix hP' (List.mem_append_right P hxg)
      have hcol : (List.range sh.d1).map (fun v => ((P ++ g).map (fun x => (s.srcElem core 0 a x).val)).getD (v * sh.d0 + x.1) 0) =
          (List.range sh.d1).map (fun v => (s.srcElem core 0 a (x.1, (v, 0, 0))).val) := by
        refine List.map_congr_left fun v hv => ?_
        have hv := List.mem_range.1 hv
        have hle : v * sh.d0 ≤ x.2.1 * sh.d0 := Nat.mul_le_mul_right _ (by omega)
        have hget : (P ++ g)[v * sh.d0 + x.1]? = some (x.1, (v, 0, 0)) := by
          rw [← plane_getElem? hv hx0, ← hP', List.getElem?_append_left (l₁ := P ++ g) (by omega)]
        rw [List.getD_eq_getElem?_getD, List.getElem?_map, hget]
        rfl
      obtain ⟨o, l, hres, hro⟩ := hr x.1 hx0
      rw [hcol, hres, hro]
    have hsplit : oredRes sh r (P ++ g) = oredRes sh r P ++ oredRes sh r g := by simp [oredRes]
    have hstep : oredStep core sh a b res (s.writes ((oredRes sh r P).map (oredWrite core b)),
        (oredRes sh r P).foldl (fun x o => orf x o.2.fl) 0, P.map (fun x => (s.srcElem core 0 a x).val)) g =
        (s.writes ((oredRes sh r (P ++ g)).map (oredWrite core b)), (oredRes sh r (P ++ g)).foldl (fun x o => orf x o.2.fl) 0,
          (P ++ g).map (fun x => (s.srcElem core 0 a x).val)) := by
      rw [oredStep, hbuf, houts, hsplit]
      dsimp only
      rw [List.map_append (f := oredWrite core b), writes_append, List.foldl_append]
    rw [List.foldl_cons, hstep]
    exact ih _ hP'

theorem oredRes_plane {sh : Shape} (r : Nat → Flagged) (h : sh.d1 ≠ 0) :
    oredRes sh r (plane sh.d0 sh.d1) = (List.range sh.d0).map (fun i => (i, r i)) := by
  obtain ⟨n, hn⟩ := Nat.exists_eq_succ_of_ne_zero h
  have h1 : (plane sh.d0 n).filter (fun x => x.2.1 + 1 == sh.d1) = [] := by
    refine List.filter_eq_nil_iff.2 fun x hx => ?_
    have := (mem_plane hx).2.1
    simp
    omega
  rw [oredRes, hn, Nat.succ_eq_add_one, plane_succ, ← Nat.succ_eq_add_one, ← hn, List.filter_append, h1, List.nil_append, List.filter_eq_self.2]
  · simp
  · simp [hn]

theorem bytes_add (s : State) (a m n : Nat) : s.bytes a (m + n) = s.bytes a m ++ s.bytes (a + m) n := by
  induction m generalizing a with
  | zero => simp [State.bytes]
  | succ m ih => rw [Nat.succ_add, State.bytes, State.bytes, ih, List.cons_append, Nat.add_assoc, Nat.add_comm 1 m]

/-- A run of writes of four bytes each is read back whole. -/
theorem writes_run {a : Nat} {f : Nat → List Byte} (hf : ∀ i, (f i).length = 4) (n : Nat) :
    (s.writes ((List.range n).map fun i => (a + 4 * i, f i))).bytes a (4 * n) = (List.range n).flatMap f := by
  induction n with
  | zero => simp [State.bytes]
  | succ n ih =>
    rw [List.range_succ, List.map_append, writes_append, List.flatMap_append, Nat.mul_succ, bytes_add]
    refine congrArg₂ _ ((bytes_congr fun x _ hx => writes_outside fun w hw => ?_).trans ih) ?_
    · obtain rfl : w = (a + 4 * n, f n) := by simpa using hw
      exact .inl hx
    · have h := bytes_setBytes_same (s.writes ((List.range n).map fun i => (a + 4 * i, f i))) (a + 4 * n) (f n)
      rw [hf] at h
      simpa [State.writes] using h

/-! ## The obligation -/

theorem oreduce_shape {e : QEntry} (hst : s.Starts core 2 .veOreduce e) : (shapeOf e.cmd).d2 = 1 ∧ (shapeOf e.cmd).d3 = 1 := by
  have h := check_of_operandCheck hst.2.2 (x := (limitBad .veOreduce e.cmd, 0x46))
    (by simp only [operandChecksFront, List.mem_cons, true_or, or_true])
  simp [limitBad] at h
  exact h.1

/-- Settles O12: the groups of the walk (`foldl_oredStep_apart`) and the columns of the tree (`evalNode_column`). -/
theorem orderedReduceStarts : Obligations.OrderedReduceStarts := by
  unfold Obligations.OrderedReduceStarts
  intro s core e hc hst c d0 tags ins f dst v htags hv
  obtain ⟨h2, h3⟩ := oreduce_shape hst
  have hw : (walkGroups 4 (shapeOf c).walk).flatten = plane d0 (shapeOf c).d1 := by
    rw [walkGroups_flatten (by decide), walk_plane h2 h3]
  have hex : exec (.veOreduce core) s = .next ((s.oreduce core (shapeOf c) (spadDesc c 24) (spadDesc c 37)
      (nodeElem (orS c) f tags (orLevel c) (orIndex c))).putEntry core 2 { e with started := true }) := by
    refine ((if_neg (unitOk_of_lt hc (by decide))).trans (runHead_starts hst)).trans ?_
    refine (if_neg (Bool.eq_false_iff.1 htags)).trans ?_
    dsimp only
    rw [hv]
    rfl
  have hins : ∀ t ∈ ins, t.vec.length = d0 := fun t ht => by
    obtain ⟨u, -, rfl⟩ := List.mem_map.1 ht
    simp
  obtain ⟨hne, hlen⟩ := evalNode_val hins hv
  have hd1 : (shapeOf c).d1 ≠ 0 := fun h => hne (by simp [ins, tags, h])
  have hcol : ∀ i < d0, nodeElem (orS c) f tags (orLevel c) (orIndex c)
      ((List.range (shapeOf c).d1).map (fun k => (s.srcElem core 0 (spadDesc c 24) (i, (k, 0, 0))).val)) = .val [v.getD i ⟨0, 0⟩] := by
    intro i hi
    have hproj := evalNode_column (S := orS c) (f := f) hi hins (orLevel c) (orIndex c)
    rw [hv] at hproj
    rw [← show _ = NodeRes.val [v.getD i ⟨0, 0⟩] from hproj]
    refine congrArg (fun ins => evalNode (orS c) f ins (orLevel c) (orIndex c)) ?_
    have hzip : tags.zipIdx = tags.zip (List.range (shapeOf c).d1) := by
      rw [List.zipIdx_eq_zip_range']
      simp [tags, List.range_eq_range']
    simp only [ins, hzip, List.zip_map_right, List.map_map]
    refine List.map_congr_left fun t _ => ?_
    simp [Tagged.column, hi]
  obtain ⟨l, hl, hld⟩ := foldl_oredStep_writes (core := core) (sh := shapeOf c) (a := spadDesc c 24) (b := spadDesc c 37)
    (res := nodeElem (orS c) f tags (orLevel c) (orIndex c)) (walkGroups 4 (shapeOf c).walk) (d := d0)
    (fun g hg x hx => (mem_plane (hw ▸ List.mem_flatten.2 ⟨g, hg, hx⟩)).1) (s, 0, [])
  refine ⟨_, _, hex.trans (by rw [oreduce_eq]), ?_, ?_, fun ha => ?_⟩
  · rw [hl]
    exact writes_frame _
  · rw [hl]
    refine fun x hx => writes_outside fun w hw => ?_
    obtain ⟨o, ho, rfl⟩ := List.mem_map.1 hw
    have ho := hld o ho
    rw [oredWrite, leBytes_length]
    unfold spadAddr
    unfold dst spadAddr at hx
    exact hx.imp (by omega) (by omega)
  · have hpart := foldl_oredStep_apart (s := s) (core := core) (sh := shapeOf c) (a := spadDesc c 24) (b := spadDesc c 37)
      (res := nodeElem (orS c) f tags (orLevel c) (orIndex c)) (r := fun i => vecOut 0 .rne false (v.getD i ⟨0, 0⟩))
      (fun i hi => ⟨_, _, hcol i hi, rfl⟩)
      (fun y hy i hi => (ha y (by rwa [walk_plane h2 h3])).imp (by unfold dst spadAddr; omega) (by unfold dst spadAddr; omega))
      (walkGroups 4 (shapeOf c).walk) [] hw
    have hvr : (List.range d0).map (fun i => v.getD i ⟨0, 0⟩) = v :=
      List.ext_getElem (by simp [hlen]) fun i h1 h2 => by simp [h2]
    rw [oredRes_plane _ hd1] at hpart
    rw [show (walkGroups 4 (shapeOf c).walk).foldl _ (s, 0, []) = _ from hpart]
    dsimp only
    rw [List.map_map, List.foldl_map]
    constructor
    · have hat : oredWrite core (spadDesc c 37) ∘ (fun i => (i, vecOut 0 .rne false (v.getD i ⟨0, 0⟩))) =
          fun i => (dst + 4 * i, leBytes 4 (vecOut 0 .rne false (v.getD i ⟨0, 0⟩)).val) := by
        funext i
        simp [oredWrite, dst, spadAddr, Nat.add_assoc]
      rw [hat]
      refine (writes_run (a := dst) (fun i => leBytes_length 4 _) d0).trans ?_
      conv_rhs => rw [← hvr, List.flatMap_map]
    · conv_rhs => rw [← hvr, List.foldl_map]

end Sys2Proof.Machine
end

section
/-! SUPPORT. The dispatcher (R70, R79 to R81) and the completion of a command (R23, R25): what signals, a step's end and the HOLD count
leave unchanged. -/

namespace Sys2Proof.Machine

variable {s : State} {core : Nat} {c : Cmd}

/-! ## Latches and signals -/

theorem latchFld_bounds (l : Nat) : (latchFld l).lo + (latchFld l).w ≤ 64 := by
  unfold latchFld
  split <;> decide

theorem latchFld_reg (l : Nat) : (latchFld l).reg = .LATCH_VALUE := by
  unfold latchFld
  split <;> rfl

theorem latchFld_mod (l : Nat) : latchFld (l % 4) = latchFld l := by rw [latchFld, Nat.mod_mod, ← latchFld]

theorem latchFld_apart : ∀ a < 4, ∀ b < 4, b ≠ a →
    (latchFld a).lo + (latchFld a).w ≤ (latchFld b).lo ∨ (latchFld b).lo + (latchFld b).w ≤ (latchFld a).lo := by decide

@[simp] theorem latch_modPart (p : Nat) (f : Part → Part) (n l : Nat) : (s.modPart p f).latch n l = s.latch n l := rfl
@[simp] theorem latch_modCore (m : Nat) (f : Core → Core) (n l : Nat) : (s.modCore m f).latch n l = s.latch n l := rfl

theorem latch_setF {f : Fld} {i x n l : Nat} (h : f.reg ≠ .LATCH_VALUE) : (s.setF f i x).latch n l = s.latch n l := by
  unfold State.latch State.getF
  rw [rdReg_setF_reg s (by rw [latchFld_reg]; exact h.symm)]

theorem latch_setLatch_same (n l : Nat) {v : Nat} (h : v < 2 ^ 16) : (s.setLatch n l v).latch n l = v := by
  unfold State.latch State.setLatch
  rw [getF_setF_same s (latchFld_bounds l)]
  refine Nat.mod_eq_of_lt ?_
  unfold latchFld
  split <;> exact h

theorem latch_addF {f : Fld} {i x n l : Nat} (h : f.reg ≠ .LATCH_VALUE) : (s.addF f i x).latch n l = s.latch n l := latch_setF h

/-- Another latch of the core keeps its value. -/
theorem latch_setLatch_ne (n v : Nat) {l m : Nat} (h : m ≠ l) : (s.setLatch n l v).latch n m = s.latch n m := by
  unfold State.latch State.setLatch
  refine getF_setF_ne s (latchFld_bounds l) ?_
  by_cases hq : m / 4 = l / 4
  · refine .inr (.inr ?_)
    rw [← latchFld_mod l, ← latchFld_mod m]
    exact latchFld_apart _ (Nat.mod_lt _ (by decide)) _ (Nat.mod_lt _ (by decide)) (by omega)
  · exact .inr (.inl (by omega))

theorem mem_onesOf {v n l : Nat} : l ∈ onesOf v n ↔ l < n ∧ bitAt v l = true := by
  simp [onesOf, List.mem_filter]

/-- LATCH_RESET clears the latches of its mask and keeps the others. -/
theorem latch_clearLatches (n mask : Nat) {l : Nat} (hl : l < 48) :
    (s.clearLatches n mask).latch n l = if bitAt mask l then 0 else s.latch n l := by
  unfold State.clearLatches
  split
  · next h =>
    exact foldl_read (f := fun s l => State.setLatch s n l 0) (g := fun s => s.latch n l) (P := fun _ => True) (mem_onesOf.2 ⟨hl, h⟩)
      (fun _ _ _ => trivial) (fun s _ => latch_setLatch_same n l (by decide)) (fun s x hx => latch_setLatch_ne n 0 (Ne.symm hx)) trivial
  · next h =>
    exact foldl_keep (f := fun s l => State.setLatch s n l 0) (g := fun s => s.latch n l)
      (fun s x hx => latch_setLatch_ne n 0 fun he => h (he ▸ (mem_onesOf.1 hx).2)) s

theorem signal_none (h : localSignals c = []) : s.signal core c = s := by
  unfold State.signal
  rw [h]
  rfl

theorem addLatch_regs (n l inc : Nat) : s.addLatch n l inc = { s with regs := (s.addLatch n l inc).regs } := by
  unfold State.addLatch
  dsimp only
  split <;> rfl

theorem signal_regs (n : Nat) (c : Cmd) : s.signal n c = { s with regs := (s.signal n c).regs } := by
  unfold State.signal
  induction localSignals c generalizing s with
  | nil => rfl
  | cons w l ih =>
    rw [List.foldl_cons, ih, addLatch_regs]

@[simp] theorem signal_core (n m : Nat) (c : Cmd) : (s.signal n c).core m = s.core m := by rw [signal_regs]; rfl
@[simp] theorem signal_mem (n : Nat) (c : Cmd) : (s.signal n c).mem = s.mem := by rw [signal_regs]

/-! ## The HOLD count and the end of a core's step -/

theorem latch_endHold (p n l : Nat) : (s.endHold p).latch n l = s.latch n l := by
  unfold State.endHold
  split
  · rfl
  · rw [latch_modPart, latch_setF (by decide)]

theorem latch_updateHold (p n l : Nat) : (s.updateHold p).latch n l = s.latch n l := by
  unfold State.updateHold
  dsimp only
  split
  · split
    · rfl
    · rw [latch_modPart, latch_addF (by decide)]
  · rw [latch_modPart, latch_endHold]

/-- What `tryStepEnd` does to cores: it may end its own. -/
theorem tryStepEnd_core (n m : Nat) :
    (s.tryStepEnd n).core m = s.core m ∨ m = n ∧ (s.tryStepEnd n).core m = { s.core n with ended := true } := by
  unfold State.tryStepEnd
  dsimp only
  split
  · by_cases hm : m = n
    · subst hm
      refine .inr ⟨rfl, ?_⟩
      split
      · rw [signal_core, State.setCore_core_same]
      · rw [State.setCore_core_same]
    · refine .inl ?_
      split
      · rw [signal_core, State.setCore_core_ne _ _ _ hm]
      · rw [State.setCore_core_ne _ _ _ hm]
  · exact .inl rfl

@[simp] theorem tryStepEnd_mem (n : Nat) : (s.tryStepEnd n).mem = s.mem := by
  unfold State.tryStepEnd
  dsimp only
  split
  · split
    · rw [signal_mem]
      rfl
    · rfl
  · rfl

/-! ## The obligations -/

/-- Settles O14: each held command is handled (`handle_handles`). -/
theorem dispatcherHandles : Obligations.DispatcherHandles := by
  unfold Obligations.DispatcherHandles
  refine ⟨fun s core c hc h => ?_, fun s core c hc h => ?_, fun s core c hc h => ⟨_, rfl, ?_⟩, fun s core c hc h hon hroom => ⟨_, rfl, ?_⟩,
    fun s core c hc h hk => ⟨_, rfl, ?_⟩, fun s core c l hc h hsig hl => ?_⟩
  · exact (exec_nop_dispatcher hc).trans (congrArg _ (handle_handles h))
  · exact (if_neg (unitOk_of_lt hc (by decide))).trans (congrArg _ (handle_handles h))
  · exact (if_neg (unitOk_of_lt hc (by decide))).trans (congrArg _ (handle_handles h))
  · refine (if_neg (unitOk_of_lt hc (by decide))).trans (congrArg _ ((handle_handles h).trans ?_))
    simp only [hon, not_true, if_false, if_neg (Nat.not_le.2 hroom), if_true]
  · refine (if_neg (unitOk_of_lt hc (by decide))).trans ?_
    simp only [h, hk]
    rfl
  · refine ⟨_, (if_neg (unitOk_of_lt hc (by decide))).trans (congrArg _ (handle_handles h)), ?_⟩
    rw [if_pos rfl, signal_none hsig, latch_updateHold, latch_modCore, latch_clearLatches core _ hl]

theorem queue_setQueue_ne (k : Core) {i j : Nat} (l : List QEntry) (hi : i < 5) (hj : j < 5) (h : j ≠ i) :
    (k.setQueue i l).queue j = k.queue j := by
  match i, j, hi, hj with
  | 0, 0, _, _ | 1, 1, _, _ | 2, 2, _, _ | 3, 3, _, _ | 4, 4, _, _ => exact absurd rfl h
  | 0, 1, _, _ | 0, 2, _, _ | 0, 3, _, _ | 0, 4, _, _ | 1, 0, _, _ | 1, 2, _, _ | 1, 3, _, _ | 1, 4, _, _ | 2, 0, _, _ | 2, 1, _, _
  | 2, 3, _, _ | 2, 4, _, _ | 3, 0, _, _ | 3, 1, _, _ | 3, 2, _, _ | 3, 4, _, _ | 4, 0, _, _ | 4, 1, _, _ | 4, 2, _, _ | 4, 3, _, _ => rfl

/-- The core after the entry has left its queue and its predicate bit is written. -/
def Core.completed (k : Core) (eng : Nat) (e : QEntry) (rest : List QEntry) : Core :=
  match e.pred with
  | some (i, b) => { k.setQueue eng rest with preds := setPred (k.setQueue eng rest).preds i b }
  | none => k.setQueue eng rest

theorem setQueue_preds (k : Core) (i : Nat) (l : List QEntry) : (k.setQueue i l).preds = k.preds := by
  unfold Core.setQueue
  split <;> rfl

theorem completed_queue (k : Core) (eng : Nat) (e : QEntry) (rest : List QEntry) (b : Bool) (j : Nat) :
    ({ k.completed eng e rest with ended := b } : Core).queue j = (k.setQueue eng rest).queue j := by
  unfold Core.completed Core.queue
  split <;> split <;> rfl

theorem completed_preds (k : Core) (eng : Nat) (e : QEntry) (rest : List QEntry) :
    (k.completed eng e rest).preds = (match e.pred with
      | some (i, b) => setPred k.preds i b
      | none => k.preds) := by
  unfold Core.completed
  split <;> simp only [setQueue_preds]

theorem exec_commandComplete {eng : Nat} (lost : Nat) {e : QEntry} {rest : List QEntry} (hc : core < 256) (he : eng < 5)
    (hq : (s.core core).queue eng = e :: rest) (hfin : (s.core core).finished e = true) (hlive : (s.core core).live e.seq = true)
    (hrun : s.coreRuns core = true) :
    ∃ p, exec (.commandComplete core eng lost) s = .next (((((s.setCore core ((s.core core).completed eng e rest)).countLost core
      lost).signal core e.cmd).tryStepEnd core).updateHold p) := by
  refine ⟨(((s.setCore core ((s.core core).completed eng e rest)).countLost core lost).signal core e.cmd).partOf core, (if_neg (not_or.2 ⟨unitOk_of_lt hc (by omega), by omega⟩)).trans ?_⟩
  simp only [hq, hfin, hlive, hrun]
  rfl

/-- Settles O15: what is left of the queue, the predicates, and everything else as it was. -/
theorem commandCompletes : Obligations.CommandCompletes := by
  unfold Obligations.CommandCompletes
  intro s core eng lost e rest hc he hq hfin hlive hrun
  obtain ⟨p, hex⟩ := exec_commandComplete lost hc he hq hfin hlive hrun
  refine ⟨_, hex, ?_⟩
  generalize hu : ((s.setCore core ((s.core core).completed eng e rest)).countLost core lost).signal core e.cmd = u
  have hcore : u.core core = (s.core core).completed eng e rest := by
    rw [← hu, signal_core]
    exact State.setCore_core_same _ _ _
  have hother : ∀ n, n ≠ core → u.core n = s.core n := fun n hn => by
    rw [← hu, signal_core]
    exact State.setCore_core_ne _ _ _ hn
  have hend : ∃ b, (u.tryStepEnd core).core core = { (s.core core).completed eng e rest with ended := b } := by
    rcases tryStepEnd_core (s := u) core core with h | ⟨-, h⟩
    · exact ⟨_, h.trans hcore⟩
    · exact ⟨true, h.trans (by rw [hcore])⟩
  obtain ⟨b, hb⟩ := hend
  simp only [updateHold_core_at, hb]
  refine ⟨(completed_queue ..).trans (queue_setQueue_same ..), fun j hj hne => (completed_queue ..).trans (queue_setQueue_ne _ _ he hj hne),
    completed_preds .., fun n hn => ?_, fun a => ?_⟩
  · rcases tryStepEnd_core (s := u) core n with h | ⟨h, -⟩
    · exact h.trans (hother n hn)
    · exact absurd h hn
  · unfold State.byte
    rw [updateHold_mem, tryStepEnd_mem, ← hu, signal_mem]
    rfl

end Sys2Proof.Machine
end

section
/-! SUPPORT. The start of a step and the beats of a step (R37, R67, R135, R147, R148): what each stage of a start writes, and what the close
and the opening of a beat leave unchanged. -/

namespace Sys2Proof.Machine

variable {s : State} {p q n j : Nat} {g : Fld}

/-! ## Partitions -/

@[simp] theorem modPart_part_same (f : Part → Part) : (s.modPart p f).part p = f (s.part p) := tget_tset_same _ _ _ _
theorem modPart_part_ne (f : Part → Part) (h : q ≠ p) : (s.modPart p f).part q = s.part q := tget_tset_ne _ _ _ h

theorem foldl_fixed_of_mem {σ α : Type} {f : σ → α → σ} {s : σ} {l : List α} (h : ∀ x ∈ l, f s x = s) : l.foldl f s = s := by
  induction l with
  | nil => rfl
  | cons x l ih =>
    obtain ⟨hx, hl⟩ := List.forall_mem_cons.1 h
    rw [List.foldl_cons, hx, ih hl]

theorem members_congr {t : State} (h1 : (t.part p).plan = (s.part p).plan) (h2 : t.plans = s.plans) : t.members p = s.members p := by
  unfold State.members State.runPlan State.plan
  rw [h1, h2]

/-! ## A variance event -/

theorem vary_eq (cause : Nat) : s.vary cause p = { s with regs := (s.vary cause p).regs, parts := (s.vary cause p).parts } := rfl

theorem getF_vary {cause : Nat} (h1 : g.reg ≠ .CTL_VAR) (h2 : g.reg ≠ .CTL_VARC) (h3 : g.reg ≠ .CTL_VARP) :
    (s.vary cause p).getF g j = s.getF g j := by
  unfold State.vary
  rw [getF_modPart, getF_addF_apart _ (by decide) (.inl h3), getF_addF_apart _ (by decide) (.inl h2), getF_addF_apart _ (by decide) (.inl h1)]

theorem vary_part_same (cause : Nat) : (s.vary cause p).part p = { s.part p with causes := tmod 0 (s.part p).causes cause (· + 1) } := by
  unfold State.vary
  rw [modPart_part_same]
  rfl

theorem vary_part_ne (cause : Nat) (h : q ≠ p) : (s.vary cause p).part q = s.part q := by
  unfold State.vary
  rw [modPart_part_ne _ h]
  rfl

/-! ## The HOLD count -/

theorem getF_endHold (h : g.reg ≠ .BEAT_HOLD) : (s.endHold p).getF g j = s.getF g j := by
  unfold State.endHold
  split
  · rfl
  · rw [getF_modPart, getF_setF_apart _ (by decide) (.inl h)]

theorem getF_updateHold (h : g.reg ≠ .BEAT_HOLD) : (s.updateHold p).getF g j = s.getF g j := by
  unfold State.updateHold
  dsimp only
  split
  · split
    · rfl
    · rw [getF_modPart, getF_addF_apart _ (by decide) (.inl h)]
  · rw [getF_modPart, getF_endHold h]

theorem endHold_part_same : ∃ t, (s.endHold p).part p = { s.part p with holdSince := t } := by
  unfold State.endHold
  split
  · exact ⟨_, rfl⟩
  · exact ⟨_, modPart_part_same _⟩

theorem endHold_part_ne (h : q ≠ p) : (s.endHold p).part q = s.part q := by
  unfold State.endHold
  split
  · rfl
  · rw [modPart_part_ne _ h]
    rfl

theorem updateHold_part_same : ∃ t b, (s.updateHold p).part p = { s.part p with holdSince := t, varLast := b } := by
  unfold State.updateHold
  dsimp only
  split
  · split
    · exact ⟨_, _, rfl⟩
    · exact ⟨_, _, modPart_part_same _⟩
  · obtain ⟨t, ht⟩ := endHold_part_same (s := s) (p := p)
    exact ⟨t, _, by rw [modPart_part_same, ht]⟩

theorem updateHold_part_ne (h : q ≠ p) : (s.updateHold p).part q = s.part q := by
  unfold State.updateHold
  dsimp only
  split
  · split
    · rfl
    · rw [modPart_part_ne _ h]
      rfl
  · rw [modPart_part_ne _ h, endHold_part_ne h]

theorem endHold_plans : (s.endHold p).plans = s.plans := by
  unfold State.endHold
  split <;> rfl

theorem updateHold_plans : (s.updateHold p).plans = s.plans := by
  unfold State.updateHold
  dsimp only
  split
  · split <;> rfl
  · exact endHold_plans

/-! ## The opening of a beat -/

/-- The beat's registers: its opening time, and no bank cycle lost yet. -/
def State.beatRegs (s : State) (p : Nat) : State :=
  ((s.setF F.BEAT_OPENED_TB p s.now).members p).foldl (fun s n => s.setF F.CORE_CONFLICT_LOST_BEAT n 0) (s.setF F.BEAT_OPENED_TB p s.now)

theorem openBeat_eq (b : Nat) :
    s.openBeat p b = ((s.beatRegs p).modPart p (fun x => { x with beat := b, unplanned := false, varLast := false })).updateHold p := rfl

theorem beatRegs_regs : s.beatRegs p = { s with regs := (s.beatRegs p).regs } := by
  unfold State.beatRegs
  generalize ((s.setF F.BEAT_OPENED_TB p s.now).members p) = l
  have h : ∀ (l : List Nat) (t : State), l.foldl (fun s n => State.setF s F.CORE_CONFLICT_LOST_BEAT n 0) t =
      { t with regs := (l.foldl (fun s n => State.setF s F.CORE_CONFLICT_LOST_BEAT n 0) t).regs } := by
    intro l
    induction l with
    | nil => exact fun _ => rfl
    | cons x l ih =>
      intro t
      rw [List.foldl_cons, ih]
      rfl
  rw [h l]
  rfl

theorem getF_beatRegs (h1 : g.reg ≠ .CORE_CONFLICT) (h2 : g.reg ≠ .BEAT_OPENED) : (s.beatRegs p).getF g j = s.getF g j := by
  unfold State.beatRegs
  rw [foldl_keep (g := fun t => State.getF t g j) (fun t n _ => getF_setF_apart t (by decide) (.inl h1)), getF_setF_apart _ (by decide) (.inl h2)]

theorem beatRegs_opened : (s.beatRegs p).getF F.BEAT_OPENED_TB p = s.now % 2 ^ F.BEAT_OPENED_TB.w := by
  unfold State.beatRegs
  rw [foldl_keep (g := fun t => State.getF t F.BEAT_OPENED_TB p) (fun t n _ => getF_setF_apart t (by decide) (.inl (by decide))),
    getF_setF_same _ (by decide)]

theorem openBeat_part_same (b : Nat) :
    ∃ t v, (s.openBeat p b).part p = { s.part p with beat := b, unplanned := false, holdSince := t, varLast := v } := by
  obtain ⟨t, v, h⟩ := updateHold_part_same (s := (s.beatRegs p).modPart p (fun x => { x with beat := b, unplanned := false, varLast := false }))
    (p := p)
  refine ⟨t, v, ?_⟩
  rw [openBeat_eq, h, modPart_part_same, beatRegs_regs]
  rfl

theorem openBeat_part_ne (b : Nat) (h : q ≠ p) : (s.openBeat p b).part q = s.part q := by
  rw [openBeat_eq, updateHold_part_ne h, modPart_part_ne _ h, beatRegs_regs]
  rfl

theorem openBeat_core (b : Nat) : (s.openBeat p b).core n = s.core n := by
  rw [openBeat_eq, updateHold_core_at, beatRegs_regs]
  rfl

theorem openBeat_mem (b : Nat) : (s.openBeat p b).mem = s.mem := by
  rw [openBeat_eq, updateHold_mem, beatRegs_regs]
  rfl

theorem getF_openBeat (b : Nat) (h1 : g.reg ≠ .CORE_CONFLICT) (h2 : g.reg ≠ .BEAT_OPENED) (h3 : g.reg ≠ .BEAT_HOLD) :
    (s.openBeat p b).getF g j = s.getF g j := by
  rw [openBeat_eq, getF_updateHold h3, getF_modPart, getF_beatRegs h1 h2]

theorem openBeat_opened (b : Nat) : (s.openBeat p b).getF F.BEAT_OPENED_TB p = s.now % 2 ^ F.BEAT_OPENED_TB.w := by
  rw [openBeat_eq, getF_updateHold (by decide), getF_modPart, beatRegs_opened]

/-! ## The start of the cores -/

theorem startCore_frame : s.startCore n = { s with regs := (s.startCore n).regs, cores := (s.startCore n).cores } := rfl

theorem startCore_core_same : (s.startCore n).core n =
    { s.core n with preds := (s.core n).param 63 % 2 ^ 16, acc := [], active := none, shadow := none } := tget_tset_same _ _ _ _

theorem startCore_core_ne {m : Nat} (h : m ≠ n) : (s.startCore n).core m = s.core m := tget_tset_ne _ _ _ h

theorem getF_startCore (h1 : g.reg ≠ .CORE_AFLAGS) (h2 : g.reg ≠ .CORE_CONFLICT) (h3 : g.reg ≠ .CORE_STATUS) :
    (s.startCore n).getF g j = s.getF g j := by
  unfold State.startCore
  rw [getF_modCore, getF_setF_apart _ (by decide) (.inl h3), getF_wrReg_reg _ h2, getF_wrReg_reg _ h1]

/-- The cores of the list, as they start. -/
def State.startCores (s : State) (l : List Nat) : State := l.foldl State.startCore s

theorem startCores_frame (l : List Nat) : s.startCores l = { s with regs := (s.startCores l).regs, cores := (s.startCores l).cores } := by
  unfold State.startCores
  induction l generalizing s with
  | nil => rfl
  | cons n l ih =>
    rw [List.foldl_cons, ih, startCore_frame]

theorem getF_startCores (l : List Nat) (h1 : g.reg ≠ .CORE_AFLAGS) (h2 : g.reg ≠ .CORE_CONFLICT) (h3 : g.reg ≠ .CORE_STATUS) :
    (s.startCores l).getF g j = s.getF g j :=
  foldl_keep (g := fun t => State.getF t g j) (fun _ _ _ => getF_startCore h1 h2 h3) s

/-- A start leaves the stream where it is. -/
theorem startCores_stream (l : List Nat) (m : Nat) :
    ((s.startCores l).core m).next = (s.core m).next ∧ ((s.startCores l).core m).seq = (s.core m).seq := by
  have h : ∀ (t : State) (n : Nat), ((t.startCore n).core m).next = (t.core m).next ∧ ((t.startCore n).core m).seq = (t.core m).seq := by
    intro t n
    by_cases hn : m = n
    · subst hn
      rw [startCore_core_same]
      exact ⟨rfl, rfl⟩
    · rw [startCore_core_ne hn]
      exact ⟨rfl, rfl⟩
  have hf := foldl_keep (f := State.startCore) (g := fun t => ((t.core m).next, (t.core m).seq)) (l := l)
    (fun t n _ => Prod.ext (h t n).1 (h t n).2) s
  exact ⟨congrArg Prod.fst hf, congrArg Prod.snd hf⟩

/-- A core that starts has an empty accumulator, no tile, and its predicates from step parameter 63. -/
theorem startCores_core {l : List Nat} {m : Nat} (h : m ∈ l) :
    ((s.startCores l).core m).acc = [] ∧ ((s.startCores l).core m).active = none ∧
      ((s.startCores l).core m).preds = (s.core m).param 63 % 2 ^ 16 := by
  have hf := foldl_read (f := State.startCore) (g := fun t => ((t.core m).acc, (t.core m).active, (t.core m).preds))
    (P := fun t => (t.core m).params = (s.core m).params) (v := ([], none, (s.core m).param 63 % 2 ^ 16)) h
    (fun t n ht => by
      by_cases hn : m = n
      · subst hn
        rw [startCore_core_same]
        exact ht
      · rw [startCore_core_ne hn]
        exact ht)
    (fun t ht => by
      rw [startCore_core_same]
      simp only [Core.param, ht])
    (fun t n hn => by rw [startCore_core_ne (Ne.symm hn)]) (s := s) rfl
  exact ⟨congrArg Prod.fst hf, congrArg (fun x => x.2.1) hf, congrArg (fun x => x.2.2) hf⟩

end Sys2Proof.Machine
end

section
/-! SUPPORT. O16: a step starts with beat 0, and the next beat opens when the last closes. -/

namespace Sys2Proof.Machine

variable {s : State} {p q n j : Nat} {g : Fld}

/-! ## The start of a step -/

/-- LATCH_START of a step that starts late, or unlocked. -/
def State.noteLate (s : State) (p : Nat) (late : Bool) : State := if late then (s.setF F.LATCH_START_LATE p 1).vary 2 p else s
def State.noteUnlocked (s : State) (p : Nat) : State :=
  if s.flag F.TIME_STATUS_LOCKED 0 || s.flag F.TIME_CTRL_MASTER 0 then s else (s.setF F.LATCH_START_UNLOCKED p 1).vary 3 p

/-- The state of a step that starts, before its beat 0 opens. -/
def State.begun (s : State) (p : Nat) : State :=
  (((s.startCores (s.members p)).wrReg .BEAT_HOLD p 0).wrReg .MEM_REFSTALL p 0).modPart p
    (fun x => { x with running := true, startT := none, holdSince := none
                       beat0 := (((s.startCores (s.members p)).wrReg .BEAT_HOLD p 0).wrReg .MEM_REFSTALL p 0).now })

/-- The state with beat 0 open, before the LATCH_RESETs that open a stream. -/
def State.opened (s : State) (p : Nat) (late : Bool) : State := (((s.noteLate p late).noteUnlocked p).begun p).openBeat p 0

theorem openBeat0_eq (late : Bool) :
    s.openBeat0 p late = ((((s.noteLate p late).noteUnlocked p).begun p).members p).foldl State.openReset (s.opened p late) := rfl

theorem noteLate_frame (late : Bool) :
    s.noteLate p late = { s with regs := (s.noteLate p late).regs, parts := (s.noteLate p late).parts } := by
  unfold State.noteLate
  split <;> rfl

theorem noteUnlocked_frame : s.noteUnlocked p = { s with regs := (s.noteUnlocked p).regs, parts := (s.noteUnlocked p).parts } := by
  unfold State.noteUnlocked
  split <;> rfl

theorem begun_frame : s.begun p = { s with regs := (s.begun p).regs, parts := (s.begun p).parts, cores := (s.begun p).cores } := by
  unfold State.begun
  rw [startCores_frame]
  rfl

/-- The fields of a step that no variance event writes. -/
theorem noted_part (late : Bool) : ∃ c, ((s.noteLate p late).noteUnlocked p).part p = { s.part p with causes := c } := by
  have h1 : ∃ c, (s.noteLate p late).part p = { s.part p with causes := c } := by
    unfold State.noteLate
    split
    · exact ⟨_, vary_part_same 2⟩
    · exact ⟨_, rfl⟩
  obtain ⟨c, hc⟩ := h1
  unfold State.noteUnlocked
  split
  · exact ⟨c, hc⟩
  · exact ⟨_, (vary_part_same 3).trans (by rw [State.setF_part_at, hc])⟩

theorem begun_part : (s.begun p).part p = { s.part p with
    running := true, startT := none, holdSince := none, beat0 := (((s.startCores (s.members p)).wrReg .BEAT_HOLD p 0).wrReg .MEM_REFSTALL p 0).now } := by
  unfold State.begun
  rw [modPart_part_same]
  have h : (((s.startCores (s.members p)).wrReg .BEAT_HOLD p 0).wrReg .MEM_REFSTALL p 0).part p = s.part p := by
    rw [State.wrReg_part_at, State.wrReg_part_at, startCores_frame]
    rfl
  rw [h]

theorem begun_members : (s.begun p).members p = s.members p :=
  members_congr (by rw [begun_part]) (by rw [begun_frame])

theorem noted_members (late : Bool) : ((s.noteLate p late).noteUnlocked p).members p = s.members p := by
  obtain ⟨c, hc⟩ := noted_part (s := s) (p := p) late
  exact members_congr (by rw [hc]) (by rw [noteUnlocked_frame, noteLate_frame])

theorem getF_begun (h1 : g.reg ≠ .CORE_AFLAGS) (h2 : g.reg ≠ .CORE_CONFLICT) (h3 : g.reg ≠ .CORE_STATUS) (h4 : g.reg ≠ .BEAT_HOLD)
    (h5 : g.reg ≠ .MEM_REFSTALL) : (s.begun p).getF g j = s.getF g j := by
  unfold State.begun
  rw [getF_modPart, getF_wrReg_reg _ h5, getF_wrReg_reg _ h4, getF_startCores _ h1 h2 h3]

theorem noted_late (late : Bool) :
    ((s.noteLate p late).noteUnlocked p).flag F.LATCH_START_LATE p = (late || s.flag F.LATCH_START_LATE p) := by
  have h1 : (s.noteLate p late).flag F.LATCH_START_LATE p = (late || s.flag F.LATCH_START_LATE p) := by
    unfold State.noteLate
    cases late with
    | true =>
      rw [if_pos rfl, State.flag, getF_vary (by decide) (by decide) (by decide), getF_setF_same _ (by decide)]
      rfl
    | false => rfl
  rw [← h1]
  unfold State.noteUnlocked
  split
  · rfl
  · rw [State.flag, getF_vary (by decide) (by decide) (by decide), getF_setF_apart _ (by decide) (.inr (by decide)), State.flag]

theorem noted_unlocked (late : Bool) (h1 : s.flag F.TIME_STATUS_LOCKED 0 = false) (h2 : s.flag F.TIME_CTRL_MASTER 0 = false) :
    ((s.noteLate p late).noteUnlocked p).flag F.LATCH_START_UNLOCKED p = true := by
  have hkeep : ∀ g : Fld, g.reg ≠ .CTL_VAR → g.reg ≠ .CTL_VARC → g.reg ≠ .CTL_VARP → g.reg ≠ .LATCH_START →
      (s.noteLate p late).flag g 0 = s.flag g 0 := by
    intro g a b c d
    unfold State.noteLate
    split
    · rw [State.flag, getF_vary a b c, getF_setF_apart _ (by decide) (.inl d), State.flag]
    · rfl
  unfold State.noteUnlocked
  rw [hkeep _ (by decide) (by decide) (by decide) (by decide), hkeep _ (by decide) (by decide) (by decide) (by decide), h1, h2]
  rw [if_neg (by decide), State.flag, getF_vary (by decide) (by decide) (by decide), getF_setF_same _ (by decide)]
  rfl

theorem now_noted (late : Bool) : ((s.noteLate p late).noteUnlocked p).now = s.now := by
  have h1 : (s.noteLate p late).now = s.now := by
    unfold State.noteLate
    split
    · unfold State.now
      rw [getF_vary (by decide) (by decide) (by decide), getF_setF_apart _ (by decide) (.inl (by decide))]
    · rfl
  rw [← h1]
  unfold State.noteUnlocked
  split
  · rfl
  · unfold State.now
    rw [getF_vary (by decide) (by decide) (by decide), getF_setF_apart _ (by decide) (.inl (by decide))]

theorem noted_core (late : Bool) (n : Nat) : ((s.noteLate p late).noteUnlocked p).core n = s.core n := by
  rw [noteUnlocked_frame, noteLate_frame]
  rfl

theorem opened_core (late : Bool) (n : Nat) :
    (s.opened p late).core n = (((s.noteLate p late).noteUnlocked p).startCores (s.members p)).core n := by
  unfold State.opened State.begun
  rw [openBeat_core, noted_members]
  rfl

theorem opened_stream (late : Bool) (n : Nat) :
    ((s.opened p late).core n).next = (s.core n).next ∧ ((s.opened p late).core n).seq = (s.core n).seq := by
  have h := startCores_stream (s := (s.noteLate p late).noteUnlocked p) (s.members p) n
  rw [noted_core] at h
  rwa [opened_core]

theorem opened_mem (late : Bool) : (s.opened p late).mem = s.mem := by
  unfold State.opened
  rw [openBeat_mem, begun_frame, noteUnlocked_frame, noteLate_frame]

/-! ## The LATCH_RESETs that open a stream -/

theorem clearLatches_mem (n mask : Nat) : (s.clearLatches n mask).mem = s.mem := by
  unfold State.clearLatches
  exact foldl_keep (f := fun s l => State.setLatch s n l 0) (g := State.mem) (fun _ _ _ => rfl) s

theorem clearLatches_core (n mask m : Nat) : (s.clearLatches n mask).core m = s.core m := by
  unfold State.clearLatches
  exact foldl_keep (f := fun s l => State.setLatch s n l 0) (g := fun t => State.core t m) (fun _ _ _ => rfl) s

theorem handle_mem {op : Op} {f : State → Cmd → State} (hf : ∀ t c, (f t c).mem = t.mem) : (s.handle n op true f).mem = s.mem := by
  cases h : s.heldOp n op with
  | none =>
    unfold State.handle
    rw [h]
  | some c =>
    cases hk : (s.core n).skips c with
    | true => rw [handle_skips h hk, updateHold_mem]; exact signal_mem _ _
    | false =>
      by_cases he : operandCheck (s.checkEnv n c) op c = 0
      · rw [handle_handles ⟨h, hk, he⟩, updateHold_mem, if_pos rfl]
        exact (signal_mem _ _).trans (hf s c)
      · rw [handle_faults h hk he]
        exact coreFault_stoppedAt.mem

theorem dispatch_mem (n : Nat) : (s.dispatch n).mem = s.mem := by
  unfold State.dispatch
  dsimp only
  repeat' split
  all_goals first
    | rfl
    | exact coreFault_stoppedAt.mem
    | exact updateHold_mem _ _

theorem openReset_mem (n : Nat) : (s.openReset n).mem = s.mem := by
  unfold State.openReset
  split
  · split
    · exact (handle_mem fun t c => clearLatches_mem n _).trans (dispatch_mem n)
    · rfl
  · rfl

/-- Without a LATCH_RESET at the head of its stream a core is left alone. -/
theorem openReset_none (h : ∀ c, (s.core n).next = .cmd c → (s.core n).seq = 0 → opOf (hEngine c) (hOpcode c) ≠ some .latchReset) :
    s.openReset n = s := by
  unfold State.openReset
  split
  · next c hc => exact if_neg fun ⟨h0, ho⟩ => h c hc h0 ho
  · rfl

theorem exec_stepStart {T : Nat} (hp : p < 16) (ht : (s.part p).startT = some T) (hT : T ≤ s.now) (hstop : s.paneStopped p = false) :
    exec (.stepStart p) s = .next ((s.members p).foldl State.openReset (s.opened p (s.part p).lateT)) := by
  refine (if_neg (not_not.2 hp)).trans ?_
  simp only [ht, hstop]
  rw [if_neg (by simp; omega), openBeat0_eq, begun_members, noted_members]

/-- A LATCH_RESET at the head of a stream is held, and then handled. -/
theorem openReset_handles {c : Cmd} (hmay : s.mayDispatch n = true) (hnext : (s.core n).next = .cmd c) (hseq : (s.core n).seq = 0)
    (hlen : 1 < s.getF F.DISP_STREAM_LEN_COMMANDS n) (hop : opOf (hEngine c) (hOpcode c) = some .latchReset) (hgood : headerCheck c = 0)
    (heng : hEngine c = 5) (hskip : (s.core n).skips c = false) (hcheck : operandCheck (s.checkEnv n c) .latchReset c = 0)
    (hwait : waits c = []) (hbeat : (s.core n).beat = (s.part (s.partOf n)).beat) :
    s.openReset n = (s.setCore n { s.core n with held := true }).handle n .latchReset true (fun s c => s.clearLatches n (cbits c 128 48)) ∧
      (s.setCore n { s.core n with held := true }).Handles n .latchReset c := by
  have hdisp : s.dispatch n = s.setCore n { s.core n with held := true } := by
    rw [dispatch_takes ⟨hmay, hnext, fun h => by omega⟩, if_neg (not_not.2 hgood), if_pos heng]
  refine ⟨?_, ?_, ?_, hcheck⟩
  · unfold State.openReset
    simp only [hnext]
    rw [if_pos ⟨hseq, hop⟩, hdisp]
    rfl
  · unfold State.mayDispatch at hmay
    simp only [Bool.and_eq_true] at hmay
    obtain ⟨⟨⟨⟨⟨hrun, hstop⟩, -⟩, -⟩, -⟩, -⟩ := hmay
    have hrun' : (s.setCore n { s.core n with held := true }).coreRuns n = true := hrun
    have hwaits : (s.setCore n { s.core n with held := true }).waitsMet n c = true := by simp [State.waitsMet, hwait]
    have hbeat' : (({ s.core n with held := true } : Core).beat ==
      ((s.setCore n { s.core n with held := true }).part ((s.setCore n { s.core n with held := true }).partOf n)).beat) = true :=
      beq_iff_eq.2 hbeat
    have hnext' : ({ s.core n with held := true } : Core).next = .cmd c := hnext
    unfold State.heldOp
    simp only [State.setCore_core_same, hnext', hrun', hstop, hop, hwaits, hbeat']
    rfl
  · rw [State.setCore_core_same]
    exact hskip

/-! ## The next beat -/

theorem countLosses_regs (l : List (Nat × Nat)) : s.countLosses l = { s with regs := (s.countLosses l).regs } := by
  unfold State.countLosses
  induction l generalizing s with
  | nil => rfl
  | cons x l ih =>
    rw [List.foldl_cons, ih]
    split <;> rfl

theorem getF_countLosses (l : List (Nat × Nat)) (h : g.reg ≠ .CORE_CONFLICT) : (s.countLosses l).getF g j = s.getF g j := by
  unfold State.countLosses
  refine foldl_keep (g := fun t => State.getF t g j) (fun t x _ => ?_) s
  split
  · unfold State.countLost
    rw [getF_addF_apart _ (by decide) (.inl h), getF_addF_apart _ (by decide) (.inl h)]
  · rfl

/-- What the close of a beat keeps: it counts in registers and in the variances of its partition. -/
structure State.Closes (s t : State) (p : Nat) : Prop where
  frame : t = { s with regs := t.regs, parts := t.parts }
  part : ∃ c, t.part p = { s.part p with causes := c }
  others : ∀ q, q ≠ p → t.part q = s.part q
  now : t.now = s.now

theorem State.Closes.trans {t u : State} (h : s.Closes t p) (h' : t.Closes u p) : s.Closes u p := by
  obtain ⟨c, hc⟩ := h.part
  obtain ⟨d, hd⟩ := h'.part
  refine ⟨h'.frame.trans ?_, ⟨d, by rw [hd, hc]⟩, fun q hq => (h'.others q hq).trans (h.others q hq), h'.now.trans h.now⟩
  rw [h.frame]

theorem State.Closes.refl : s.Closes s p := ⟨rfl, ⟨_, rfl⟩, fun _ _ => rfl, rfl⟩

theorem State.Closes.vary (cause : Nat) : s.Closes (s.vary cause p) p :=
  ⟨rfl, ⟨_, vary_part_same cause⟩, fun _ hq => vary_part_ne cause hq, getF_vary (by decide) (by decide) (by decide)⟩

theorem State.Closes.of_ite {c : Prop} [Decidable c] {t : State} (h : s.Closes t p) : s.Closes (if c then t else s) p := by
  split
  · exact h
  · exact .refl

theorem closeBeat_closes (w : Nat) (losses : List (Nat × Nat)) : s.Closes (s.closeBeat p w losses) p := by
  have hlost : s.Closes (s.countLosses losses) p := by
    refine ⟨by rw [countLosses_regs], ⟨(s.part p).causes, ?_⟩, fun q _ => ?_, getF_countLosses losses (by decide)⟩
    · rw [countLosses_regs]
      rfl
    · rw [countLosses_regs]
      rfl
  have hstall : ∀ t : State, t.Closes (t.addF F.MEM_REFSTALL_NS p w) p := fun t =>
    ⟨rfl, ⟨_, rfl⟩, fun _ _ => rfl, getF_addF_apart _ (by decide) (.inl (by decide))⟩
  unfold State.closeBeat
  exact hlost.trans (.trans (.of_ite (.vary 1)) (.trans (.of_ite (.vary 0x0C)) (.of_ite (hstall _))))

theorem exec_beatOpen {w : Nat} {losses : List (Nat × Nat)} (hp : p < 16) (hrun : (s.part p).running = true)
    (hmark : s.markersIn p (s.part p).beat = true) (hvar : s.varOpen p (s.part p).beat = false) (hfin : s.finalBeat p = false) :
    exec (.beatOpen p w losses) s = .next (((s.endHold p).closeBeat p w losses).openBeat p (((s.part p).beat + 1) % 2 ^ 32)) := by
  refine (if_neg (not_not.2 hp)).trans ?_
  simp only [hrun, hmark, hvar, hfin]
  rfl

/-- Settles O16: the stages of a start, its LATCH_RESETs, and the next beat. -/
theorem stepsRunBeats : Obligations.StepsRunBeats := by
  unfold Obligations.StepsRunBeats
  refine ⟨fun s p T hp ht hT hstop => ⟨s.opened p (s.part p).lateT, exec_stepStart hp ht hT hstop, ?_⟩,
    fun s n l c hmay hnext hseq hlen hop hgood heng hskip hcheck hwait hsig hbeat hl => ?_,
    fun s p w losses hp hrun hmark hvar hfin => ⟨_, exec_beatOpen hp hrun hmark hvar hfin, ?_⟩⟩
  · obtain ⟨c, hc⟩ := noted_part (s := s) (p := p) (s.part p).lateT
    obtain ⟨t, v, hpart⟩ := openBeat_part_same (s := ((s.noteLate p (s.part p).lateT).noteUnlocked p).begun p) (p := p) 0
    rw [begun_part, hc] at hpart
    have hpart' : (s.opened p (s.part p).lateT).part p = _ := hpart
    rw [hpart']
    refine ⟨rfl, rfl, rfl, ?_, ?_, fun h1 h2 => ?_, fun n hn => ?_, fun a => ?_, fun h => foldl_fixed_of_mem fun n hn => openReset_none ?_⟩
    · unfold State.opened
      rw [openBeat_opened, State.now, getF_begun (by decide) (by decide) (by decide) (by decide) (by decide)]
      exact congrArg (· % _) (now_noted _)
    · unfold State.opened State.flag
      rw [getF_openBeat _ (by decide) (by decide) (by decide), getF_begun (by decide) (by decide) (by decide) (by decide) (by decide)]
      exact noted_late _
    · unfold State.opened State.flag
      rw [getF_openBeat _ (by decide) (by decide) (by decide), getF_begun (by decide) (by decide) (by decide) (by decide) (by decide)]
      exact noted_unlocked _ h1 h2
    · rw [opened_core, ← noted_core (s := s) (p := p) (s.part p).lateT n]
      exact startCores_core hn
    · unfold State.byte
      rw [foldl_keep (f := State.openReset) (g := State.mem) (fun t n _ => openReset_mem n), opened_mem]
    · obtain ⟨h1, h2⟩ := opened_stream (s := s) (p := p) (s.part p).lateT n
      rw [h1, h2]
      exact h n hn
  · obtain ⟨h1, h2⟩ := openReset_handles hmay hnext hseq hlen hop hgood heng hskip hcheck hwait hbeat
    rw [h1, handle_handles h2, if_pos rfl, signal_none hsig]
    constructor
    · rw [latch_updateHold, latch_modCore, latch_clearLatches n _ hl]
      rfl
    · rw [updateHold_core_at, State.modCore, State.setCore_core_same, advance_seq, clearLatches_core, State.setCore_core_same]
      exact congrArg (· + 1) hseq
  · obtain ⟨t, ht⟩ := endHold_part_same (s := s) (p := p)
    have hcl := closeBeat_closes (s := s.endHold p) (p := p) w losses
    obtain ⟨c, hc⟩ := hcl.part
    obtain ⟨t', v, hpart⟩ := openBeat_part_same (s := (s.endHold p).closeBeat p w losses) (p := p) (((s.part p).beat + 1) % 2 ^ 32)
    rw [hc, ht] at hpart
    rw [hpart]
    refine ⟨rfl, hrun, rfl, ?_, fun q hq => ?_, fun a => ?_⟩
    · rw [openBeat_opened, hcl.now, State.now, getF_endHold (by decide)]
      rfl
    · rw [openBeat_part_ne _ hq, hcl.others q hq, endHold_part_ne hq]
    · unfold State.byte
      rw [openBeat_mem, hcl.frame, endHold_mem]

end Sys2Proof.Machine
end

section
/-! SUPPORT. What memory, the rings and the log change: an access to memory (`MemOp`) and a write to a ring (`RingOp`) keep the cores, the
steps, the packets and every register but those of errors, of the log and of bounce records. -/

namespace Sys2Proof.Machine

variable {s t u : State}

/-! ## Memory -/

/-- The registers that an access to memory may write. -/
def memRegs : List Reg := [.MEM_ERR, .MEM_ERR_ADDR, .MEM_ECC, .CTL_LOG]

/-- `t` differs from `s` as an access to memory may change it. -/
structure State.MemOp (s t : State) : Prop where
  frame : t = { s with regs := t.regs, mem := t.mem, gran := t.gran, flaws := t.flaws, served := t.served, log := t.log, pldm := t.pldm
                       free := t.free }
  regs : ∀ (g : Fld) (j : Nat), g.reg ∉ memRegs → t.getF g j = s.getF g j

namespace State.MemOp

theorem refl : s.MemOp s := ⟨rfl, fun _ _ _ => rfl⟩

theorem trans (h : s.MemOp t) (h' : t.MemOp u) : s.MemOp u :=
  ⟨h'.frame.trans (by rw [h.frame]), fun g j hg => (h'.regs g j hg).trans (h.regs g j hg)⟩

/-- The state of an answer that is a pair. -/
theorem of_eq {β : Type} {x : State × β} {r : β} (h : s.MemOp x.1) (e : x = (t, r)) : s.MemOp t := by rwa [e] at h

theorem setF {f : Fld} (i x : Nat) (hf : f.reg ∈ memRegs) (hw : f.lo + f.w ≤ 64) : s.MemOp (s.setF f i x) :=
  ⟨rfl, fun _ _ hg => getF_setF_apart s hw (.inl fun h => hg (h ▸ hf))⟩

theorem setFs {l : List (Fld × Nat)} (i : Nat) (hl : ∀ x ∈ l, x.1.reg ∈ memRegs ∧ x.1.lo + x.1.w ≤ 64) : s.MemOp (s.setFs i l) := by
  induction l generalizing s with
  | nil => exact refl
  | cons x l ih =>
    obtain ⟨hx, hl⟩ := List.forall_mem_cons.1 hl
    exact (setF i x.2 hx.1 hx.2).trans (ih hl)

theorem logNote (sev code part : Nat) (args : List Nat) : s.MemOp (s.logNote sev code part args) := by
  unfold State.logNote State.logPush
  dsimp only
  split
  · exact ⟨rfl, fun _ _ _ => rfl⟩
  · exact ⟨rfl, fun g j hg => getF_setF_apart s (by decide) (.inl fun h => hg (h ▸ by decide))⟩

theorem memErrRec (cause a : Nat) : s.MemOp (s.memErrRec cause a) := by
  unfold State.memErrRec
  split
  · exact setF _ _ (by decide) (by decide)
  · dsimp only
    exact (setFs 0 (by simp [memRegs, F.MEM_ERR_CHANNEL, F.MEM_ERR_PARTITION, F.MEM_ERR_TIER, F.MEM_ERR_CAUSE, F.MEM_ERR_VALID])).trans
      (setF _ _ (by decide) (by decide))

theorem memErr (cause a : Nat) : s.MemOp (s.memErr cause a) := by
  unfold State.memErr
  dsimp only
  split
  · exact memErrRec cause a
  · exact (memErrRec cause a).trans (logNote _ _ _ _)

theorem poisonAs (cause g : Nat) : s.MemOp (s.poisonAs cause g) := (memErr cause (g * 64)).trans ⟨rfl, fun _ _ _ => rfl⟩

theorem countCorr (p g k : Nat) : s.MemOp (s.countCorr p g k) := by
  unfold State.countCorr
  split
  · exact refl
  · split
    · exact setF _ _ (by decide) (by decide)
    · exact setF _ _ (by decide) (by decide)

theorem plain (p g : Nat) : s.MemOp (s.plain p g).1 := by
  unfold State.plain
  dsimp only
  split
  · exact refl
  · exact ⟨rfl, fun _ _ _ => rfl⟩

theorem serve1 (p a : Nat) : s.MemOp (s.serve1 p a) := ⟨rfl, fun _ _ _ => rfl⟩
theorem setFlaw (g k : Nat) : s.MemOp (s.setFlaw g k) := ⟨rfl, fun _ _ _ => rfl⟩
theorem setGran (g : Nat) (x : Gran) : s.MemOp (s.setGran g x) := ⟨rfl, fun _ _ _ => rfl⟩
theorem addFlaws (sym : Syms) : s.MemOp (s.addFlaws sym) := ⟨rfl, fun _ _ _ => rfl⟩

theorem setBytes (a : Nat) (bs : List Byte) : s.MemOp (s.setBytes a bs) :=
  ⟨by rw [setBytes_frame], fun _ _ _ => getF_setBytes ..⟩

theorem writeGran (g : Nat) (bs : List Byte) : s.MemOp (s.writeGran g bs).1 := by
  unfold State.writeGran
  dsimp only
  split
  · exact memErr _ _
  · split
    · exact serve1 _ _
    · exact (serve1 _ _).trans ((setBytes _ _).trans ((setGran _ _).trans (setFlaw _ _)))

theorem writePart (g off sym : Nat) (bs : List Byte) : s.MemOp (s.writePart g off sym bs).1 := by
  unfold State.writePart
  split
  · exact writeGran g bs
  · dsimp only
    split
    · exact memErr _ _
    · next p _ =>
      split
      · exact serve1 _ _
      · split
        · exact (serve1 _ _).trans (poisonAs _ _)
        · exact (serve1 _ _).trans ((countCorr _ _ _).trans ((plain _ _).trans (writeGran _ _)))

theorem writeMem (a : Nat) (sym : Syms) (bs : List Byte) (fuel : Nat) : s.MemOp (s.writeMem a sym bs fuel).1 := by
  induction fuel generalizing s a bs with
  | zero => exact refl
  | succ f ih =>
    unfold State.writeMem
    split
    · exact refl
    · dsimp only
      have h := fun off k bs => writePart (s := s) (a / 64) off k bs
      split
      · next b bs _ v c e => exact (h _ _ _).of_eq e
      · next b bs _ v c e => exact ((h _ _ _).of_eq e).trans (ih _ _)

theorem write (a : Nat) (sym : Syms) (bs : List Byte) : s.MemOp (s.write a sym bs).1 := (addFlaws sym).trans (writeMem _ _ _ _)

theorem readGran (g sym : Nat) : s.MemOp (s.readGran g sym).1 := by
  unfold State.readGran
  dsimp only
  split
  · exact memErr _ _
  · split
    · exact (serve1 _ _).trans (memErr _ _)
    · split
      · exact (serve1 _ _).trans (memErr _ _)
      · split
        · exact (serve1 _ _).trans (poisonAs _ _)
        · exact (serve1 _ _).trans ((countCorr _ _ _).trans ((setFlaw _ _).trans (plain _ _)))

theorem readMem (a n : Nat) (sym : Syms) (fuel : Nat) : s.MemOp (s.readMem a n sym fuel).1 := by
  induction fuel generalizing s a n with
  | zero => exact refl
  | succ f ih =>
    unfold State.readMem
    split
    · exact refl
    · dsimp only
      have h := readGran (s := s) (a / 64) (tget 0 sym (a / 64))
      split
      · next e => exact h.of_eq e
      · next u bs e =>
        have h' := ih (s := u) (a + min n (64 - a % 64)) (n - min n (64 - a % 64))
        have h : s.MemOp u := h.of_eq e
        split
        · next e' => exact h.trans (h'.of_eq e')
        · next e' => exact h.trans (h'.of_eq e')

theorem read (a n : Nat) (sym : Syms) : s.MemOp (s.read a n sym).1 := (addFlaws sym).trans (readMem _ _ _ _)

theorem rangeRefused (lo hi : Int) : s.MemOp (s.rangeRefused lo hi) := by
  unfold State.rangeRefused
  dsimp only
  split
  · exact refl
  · exact memErr _ _

end State.MemOp

/-! ## Rings and the log -/

/-- The registers that a write to a ring, or an entry of the log, may write. -/
def ringRegs : List Reg := .SEC_PBBSTAT :: memRegs

/-- `t` differs from `s` as accesses to memory, writes to rings and entries of the log may change it. -/
structure State.RingOp (s t : State) : Prop where
  frame : t = { s with regs := t.regs, mem := t.mem, gran := t.gran, flaws := t.flaws, served := t.served, log := t.log, pldm := t.pldm
                       free := t.free, busErrs := t.busErrs, parts := t.parts, rings := t.rings, sram := t.sram, msix := t.msix
                       bounce := t.bounce, hostOut := t.hostOut, replies := t.replies, ckpt := t.ckpt }
  part : ∀ p, ∃ b, t.part p = { s.part p with unplanned := b }
  regs : ∀ (g : Fld) (j : Nat), g.reg ∉ ringRegs → t.getF g j = s.getF g j

theorem State.MemOp.ringOp (h : s.MemOp t) : s.RingOp t :=
  ⟨h.frame.trans (by rw [h.frame]), fun p => ⟨(s.part p).unplanned, by rw [h.frame]; rfl⟩,
    fun g j hg => h.regs g j fun h' => hg (List.mem_cons_of_mem _ h')⟩

namespace State.RingOp

theorem refl : s.RingOp s := ⟨rfl, fun _ => ⟨_, rfl⟩, fun _ _ _ => rfl⟩

theorem trans (h : s.RingOp t) (h' : t.RingOp u) : s.RingOp u :=
  ⟨h'.frame.trans (by rw [h.frame]), fun p => by
    obtain ⟨b, hb⟩ := h.part p
    obtain ⟨c, hc⟩ := h'.part p
    exact ⟨c, by rw [hc, hb]⟩, fun g j hg => (h'.regs g j hg).trans (h.regs g j hg)⟩

/-- The state of an answer that is a pair. -/
theorem of_eq {β : Type} {x : State × β} {r : β} (h : s.RingOp x.1) (e : x = (t, r)) : s.RingOp t := by rwa [e] at h

theorem setLog (l : List LogEntry) : s.RingOp { s with log := l } := ⟨rfl, fun _ => ⟨_, rfl⟩, fun _ _ _ => rfl⟩
theorem setReplies (l : List Reply) : s.RingOp { s with replies := l } := ⟨rfl, fun _ => ⟨_, rfl⟩, fun _ _ _ => rfl⟩
theorem setFree (n : Nat) : s.RingOp { s with free := n } := ⟨rfl, fun _ => ⟨_, rfl⟩, fun _ _ _ => rfl⟩
theorem setSramT (m : Tbl Byte) : s.RingOp { s with sram := m } := ⟨rfl, fun _ => ⟨_, rfl⟩, fun _ _ _ => rfl⟩

theorem setRingMsix (k : Nat) (r : Ring) (m : List (Nat × Nat)) : s.RingOp { s.setRing k r with msix := m } :=
  ⟨rfl, fun _ => ⟨_, rfl⟩, fun _ _ _ => rfl⟩

theorem setRingOut (k : Nat) (r : Ring) (l : List (Nat × List Byte)) : s.RingOp (({ s with hostOut := l } : State).setRing k r) :=
  ⟨rfl, fun _ => ⟨_, rfl⟩, fun _ _ _ => rfl⟩

theorem foldl {α : Type} {f : State → α → State} (h : ∀ s x, State.RingOp s (f s x)) (l : List α) : s.RingOp (l.foldl f s) := by
  induction l generalizing s with
  | nil => exact refl
  | cons x l ih => exact (h s x).trans ih

theorem markUnplanned (p : Nat) : s.RingOp (s.markUnplanned p) := by
  unfold State.markUnplanned
  split
  · refine ⟨rfl, fun q => ?_, fun _ _ _ => rfl⟩
    by_cases hq : q = p
    · subst hq
      exact ⟨true, modPart_part_same _⟩
    · exact ⟨(s.part q).unplanned, modPart_part_ne _ hq⟩
  · exact refl

theorem markAt (a : Nat) : s.RingOp (s.markAt a) := by
  unfold State.markAt
  split
  · exact markUnplanned _
  · exact refl

theorem busError (r : MemRes) : s.RingOp (s.busError r) := by
  unfold State.busError
  split
  · split
    · exact ⟨rfl, fun _ => ⟨_, rfl⟩, fun _ _ _ => rfl⟩
    · exact refl
  · exact refl

theorem writeQ (a : Nat) (bs : List Byte) : s.RingOp (s.writeQ a bs) :=
  (markAt a).trans ((State.MemOp.write a [] bs).ringOp.trans (busError _))

theorem setSram (a : Nat) (bs : List Byte) : s.RingOp (s.setSram a bs) := by
  induction bs generalizing s a with
  | nil => exact refl
  | cons b t ih => exact (setSramT _).trans (ih (a + 1))

theorem ringWrite (r : Ring) (off : Nat) (bs : List Byte) : s.RingOp (s.ringWrite r off bs) := by
  unfold State.ringWrite
  split
  · exact setSram _ _
  · exact writeQ _ _

theorem setRing (k : Nat) (r : Ring) : s.RingOp (s.setRing k r) := ⟨rfl, fun _ => ⟨_, rfl⟩, fun _ _ _ => rfl⟩

theorem setF {f : Fld} (i x : Nat) (hf : f.reg ∈ ringRegs) (hw : f.lo + f.w ≤ 64) : s.RingOp (s.setF f i x) :=
  ⟨rfl, fun _ => ⟨_, rfl⟩, fun _ _ hg => getF_setF_apart s hw (.inl fun h => hg (h ▸ hf))⟩

theorem bounceOut (p : Nat) (bs : List Byte) : s.RingOp (s.bounceOut p bs).1 := by
  unfold State.bounceOut
  dsimp only
  split
  · exact refl
  · exact ⟨rfl, fun _ => ⟨_, rfl⟩, fun _ _ hg => getF_setF_apart s (by decide) (.inl fun h => hg (h ▸ by decide))⟩

theorem ringBounce (k : Nat) (bs : List Byte) : s.RingOp (s.ringBounce k bs) := by
  unfold State.ringBounce
  dsimp only
  have h := bounceOut (s := s) ((s.ring k).fn - 1) (padTo (s.ring k).ent bs)
  split
  · exact refl
  · split
    · next e => exact h.of_eq e
    · next u rec' e =>
      exact (h.of_eq e).trans (setRingOut _ _ _)

theorem ringPut (k : Nat) (bs : List Byte) : s.RingOp (s.ringPut k bs) := by
  unfold State.ringPut
  exact (ringBounce k bs).trans ((ringWrite _ _ _).trans ((ringWrite _ _ _).trans (setRingMsix _ _ _)))

theorem flushReplies (l : List Reply) : s.RingOp (s.flushReplies l) := by
  induction l generalizing s with
  | nil => exact refl
  | cons r t ih =>
    have hkeep := setReplies (s := s) (s.replies ++ [r])
    unfold State.flushReplies
    split
    · split
      · exact (ringPut _ _).trans ih
      · exact hkeep.trans ih
    · exact hkeep.trans ih

theorem reply (fn : Nat) (cq : Option Nat) (bs : List Byte) : s.RingOp (s.reply fn cq bs) :=
  (setReplies []).trans (flushReplies _)

theorem logPut (k : Nat) (l : List LogEntry) : s.RingOp (s.logPut k l) := by
  induction l generalizing s with
  | nil => exact refl
  | cons e t ih => exact (ringPut _ _).trans ((setF _ _ (by decide) (by decide)).trans ih)

theorem logCopy : s.RingOp s.logCopy := by
  unfold State.logCopy
  split
  · split
    · exact refl
    · exact (setLog _).trans (logPut _ _)
  · exact refl

theorem logEvent (sev code part : Nat) (args : List Nat) : s.RingOp (s.logEvent sev code part args) := by
  unfold State.logEvent
  dsimp only
  split
  · exact (State.MemOp.logNote _ _ _ _).ringOp.trans logCopy
  · exact (State.MemOp.logNote _ _ _ _).ringOp

theorem logFree (part : Nat) (args : List Nat) : s.RingOp (s.logFree part args) :=
  (setFree _).trans (logEvent _ _ _ _)

theorem commit : s.RingOp s.commit := by
  unfold State.commit
  split
  · exact refl
  · exact ⟨rfl, fun _ => ⟨_, rfl⟩, fun _ _ _ => rfl⟩

end State.RingOp

end Sys2Proof.Machine
end

section
/-! SUPPORT. O17: a step ends well, and the weight loads that waited begin. -/

namespace Sys2Proof.Machine

variable {s : State} {p : Nat}

theorem writeProv_ringOp (q : Plan) : s.RingOp (s.writeProv p q) := by
  unfold State.writeProv
  refine .foldl (fun t o => ?_) _
  split
  · exact .writeQ _ _
  · exact .refl

theorem firstStep_part (q : Nat) : s.firstStep.part q = s.part q := by
  unfold State.firstStep
  split
  · rfl
  · unfold State.writeCtr
    dsimp only
    rw [State.setF_part_at, setFs_part_at]
    rfl

theorem stepDone_ringOp (status : Nat) (r : Bool) : s.RingOp (s.stepDone p status r) := State.RingOp.commit.trans (.reply _ _ _)

theorem reportOvf_ringOp : s.RingOp (s.reportOvf p) := by
  unfold State.reportOvf
  refine .foldl (fun t n => ?_) _
  split
  · exact .refl
  · exact .logFree _ _

/-- The step of the partition that completes keeps its number until the end. -/
theorem completeStep_part (w : Nat) (losses : List (Nat × Nat)) :
    ∃ x : Part, x.stepNo = (s.part p).stepNo ∧ ∃ a b, (s.completeStep p w losses).part p = { x with
      running := false, started := false, lastFailed := false, payload := [], attempt := 0, prevNo := some x.stepNo, endAt := a
      endSeq := b, prevAborted := false } := by
  obtain ⟨t, ht⟩ := endHold_part_same (s := s) (p := p)
  obtain ⟨c, hc⟩ := (closeBeat_closes (s := s.endHold p) (p := p) w losses).part
  unfold State.completeStep
  dsimp only
  generalize (s.endHold p).closeBeat p w losses = s1 at hc ⊢
  obtain ⟨b1, h1⟩ := (writeProv_ringOp (s := s1) (p := p) (s1.runPlan p)).part p
  generalize s1.writeProv p (s1.runPlan p) = s2 at h1 ⊢
  obtain ⟨b2, h2⟩ := ((stepDone_ringOp (s := s2.firstStep) (p := p) 0 false).trans (reportOvf_ringOp (p := p))).part p
  generalize (s2.firstStep.stepDone p 0 false).reportOvf p = s3 at h2 ⊢
  exact ⟨s3.part p, by rw [h2, firstStep_part, h1, hc, ht], _, _, modPart_part_same _⟩

/-- Settles O17: the step's end by `completeStep_part`; without waiting loads no plan starts one. -/
theorem stepEnds : Obligations.StepEnds := by
  unfold Obligations.StepEnds
  intro s p w losses hp hrun hmark hvar hfin hended hgen
  have hex : exec (.stepComplete p w losses) s = .next ((s.completeStep p w losses).stepEnded p) := by
    have hover : s.stepOver p = true := by
      unfold State.stepOver
      simp only [hrun, hmark, hvar, hfin, hended, hgen]
      rfl
    exact (if_neg (not_not.2 hp)).trans (if_neg (not_not.2 hover))
  obtain ⟨x, hx, a, b, hpart⟩ := completeStep_part (s := s) (p := p) w losses
  refine ⟨_, hex, ?_⟩
  rw [hpart]
  refine ⟨rfl, rfl, rfl, rfl, congrArg some hx, fun h => ?_⟩
  unfold State.stepEnded
  split
  · rfl
  · exact foldl_fixed_of_mem fun k hk => if_pos (h k hk)

end Sys2Proof.Machine
end

section
/-! SUPPORT. The aborts of a step (R394, R396 to R399): what stages 1 and 2 discard and what they leave, the quiet period and the replay. -/

namespace Sys2Proof.Machine

variable {s t u : State} {p n j : Nat} {g : Fld}

/-! ## What an abort discards -/

/-- The registers that the discarding of a step's work may write. -/
def dropRegs : List Reg := [.BEAT_HOLD, .CORE_CONFLICT, .CORE_FAULT, .CORE_STATUS, .CORE_DRAIN]

/-- `t` is `s` with work of partition `p` discarded. -/
structure State.Drops (s t : State) (p : Nat) : Prop where
  frame : t = { s with regs := t.regs, free := t.free, cores := t.cores, tctx := t.tctx, sctx := t.sctx, arrivals := t.arrivals
                       parts := t.parts }
  part : ∃ h, t.part p = { s.part p with holdSince := h }
  others : ∀ q, q ≠ p → t.part q = s.part q
  regs : ∀ (g : Fld) (j : Nat), g.reg ∉ dropRegs → t.getF g j = s.getF g j

namespace State.Drops

theorem refl : s.Drops s p := ⟨rfl, ⟨_, rfl⟩, fun _ _ => rfl, fun _ _ _ => rfl⟩

theorem trans (h : s.Drops t p) (h' : t.Drops u p) : s.Drops u p := by
  obtain ⟨a, ha⟩ := h.part
  obtain ⟨b, hb⟩ := h'.part
  exact ⟨h'.frame.trans (by rw [h.frame]), ⟨b, by rw [hb, ha]⟩, fun q hq => (h'.others q hq).trans (h.others q hq),
    fun g j hg => (h'.regs g j hg).trans (h.regs g j hg)⟩

theorem foldl {α : Type} {f : State → α → State} (h : ∀ s x, State.Drops s (f s x) p) (l : List α) : s.Drops (l.foldl f s) p := by
  induction l generalizing s with
  | nil => exact refl
  | cons x l ih => exact (h s x).trans ih

theorem setF {f : Fld} (i x : Nat) (hf : f.reg ∈ dropRegs) (hw : f.lo + f.w ≤ 64) : s.Drops (s.setF f i x) p :=
  ⟨rfl, ⟨_, rfl⟩, fun _ _ => rfl, fun _ _ hg => getF_setF_apart s hw (.inl fun h => hg (h ▸ hf))⟩

theorem setFs {l : List (Fld × Nat)} (i : Nat) (hl : ∀ x ∈ l, x.1.reg ∈ dropRegs ∧ x.1.lo + x.1.w ≤ 64) : s.Drops (s.setFs i l) p := by
  induction l generalizing s with
  | nil => exact refl
  | cons x l ih =>
    obtain ⟨hx, hl⟩ := List.forall_mem_cons.1 hl
    exact (setF i x.2 hx.1 hx.2).trans (ih hl)

theorem setCore (n : Nat) (k : Core) : s.Drops (s.setCore n k) p := ⟨rfl, ⟨_, rfl⟩, fun _ _ => rfl, fun _ _ _ => rfl⟩
theorem setTctx (c : Nat) (x : Ctx) : s.Drops (s.setTctx c x) p := ⟨rfl, ⟨_, rfl⟩, fun _ _ => rfl, fun _ _ _ => rfl⟩
theorem setSctx (c : Nat) (x : Ctx) : s.Drops (s.setSctx c x) p := ⟨rfl, ⟨_, rfl⟩, fun _ _ => rfl, fun _ _ _ => rfl⟩
theorem setFree (n : Nat) : s.Drops { s with free := n } p := ⟨rfl, ⟨_, rfl⟩, fun _ _ => rfl, fun _ _ _ => rfl⟩
theorem setArrivals (l : List Arrival) : s.Drops { s with arrivals := l } p := ⟨rfl, ⟨_, rfl⟩, fun _ _ => rfl, fun _ _ _ => rfl⟩

theorem endHold : s.Drops (s.endHold p) p := by
  refine ⟨?_, endHold_part_same, fun q hq => endHold_part_ne hq, fun g j hg => getF_endHold fun h => hg (h ▸ by decide)⟩
  unfold State.endHold
  split <;> rfl

theorem recordFault (n seq eng code : Nat) : s.Drops (s.recordFault n seq eng code) p := by
  unfold State.recordFault
  split
  · exact setF _ _ (by decide) (by decide)
  · exact setFs _ (by simp [dropRegs, F.CORE_FAULT_SEQ, F.CORE_FAULT_ENGINE, F.CORE_FAULT_CODE, F.CORE_FAULT_VALID, F.CORE_STATUS_FAULTED])

theorem loseOpen (n : Nat) : s.Drops (s.loseOpen n) p := by
  unfold State.loseOpen
  split
  · exact (setFree _).trans ((setF _ _ (by decide) (by decide)).trans (setF _ _ (by decide) (by decide)))
  · exact refl

theorem abortCore (n : Nat) : s.Drops (s.abortCore n) p := by
  unfold State.abortCore
  dsimp only
  split
  · exact setCore _ _
  · exact (recordFault _ _ _ _).trans ((setFs _ (by simp [dropRegs, F.CORE_DRAIN_LAST_SEQ, F.CORE_DRAIN_DISCARDED,
      F.CORE_DRAIN_DRAINED])).trans (setCore _ _))

theorem clearThresholds : s.Drops (s.clearThresholds p) p := by
  unfold State.clearThresholds
  refine .trans (foldl (fun t c => ?_) _) (.trans (foldl (fun t c => ?_) _) (setArrivals _))
  · split
    · exact setTctx _ _
    · exact refl
  · split
    · exact setSctx _ _
    · exact refl

end State.Drops

/-- The state of partition `p` with the work of its step discarded. -/
def State.dropped (s : State) (p : Nat) : State :=
  let s := s.endHold p
  let s := (s.members p).foldl State.loseOpen s
  ((s.members p).foldl State.abortCore s).clearThresholds p

theorem dropped_drops : s.Drops (s.dropped p) p := by
  unfold State.dropped
  exact .trans .endHold (.trans (.foldl (fun _ n => .loseOpen n) _) (.trans (.foldl (fun _ n => .abortCore n) _) .clearThresholds))

theorem abortCore_mem (n : Nat) : (s.abortCore n).mem = s.mem := by
  unfold State.abortCore
  dsimp only
  split
  · rfl
  · show (State.setFs _ _ _).mem = s.mem
    rw [setFs_mem, recordFault_mem]

theorem dropped_mem : (s.dropped p).mem = s.mem := by rw [dropped_drops.frame]

theorem purge_eq : s.purge p = { s with rq := (s.purge p).rq, inbox := s.inbox.filter (fun k => !(k.part == p && k.quiet)) } := rfl

@[simp] theorem purge_part (q : Nat) : (s.purge p).part q = s.part q := rfl

/-- What is left of a partition's worms after the purge has no way out. -/
theorem purge_outs {w : Worm} (h : w ∈ (s.purge p).rq) (hp : w.purged p = true) : w.outs = [] := by
  obtain ⟨v, -, rfl⟩ := List.mem_map.1 h
  by_cases hv : v.purged p = true
  · rw [if_pos hv]
  · rw [if_neg hv] at hp
    exact absurd hp hv

theorem sendAbort_rq (cause detail : Nat) : s.sendAbort p cause detail = { s with rq := (s.sendAbort p cause detail).rq } := by
  unfold State.sendAbort
  split <;> rfl

theorem logNote_rq (sev code part : Nat) (args : List Nat) : (s.logNote sev code part args).rq = s.rq := by
  rw [(State.MemOp.logNote (s := s) sev code part args).frame]

theorem logNote_inbox (sev code part : Nat) (args : List Nat) : (s.logNote sev code part args).inbox = s.inbox := by
  rw [(State.MemOp.logNote (s := s) sev code part args).frame]

theorem logEvent_quiet {sev : Nat} (h : sev ≠ 3) (code part : Nat) (args : List Nat) :
    s.logEvent sev code part args = s.logNote sev code part args := if_neg h

/-! ## An aborted step -/

/-- The partition of a step as an abort leaves it. -/
def Part.cutOff (x : Part) (now status : Nat) (hold : Option Nat) : Part :=
  { x with running := false, startT := none, aborted := true, late := false, quietAt := now, pendDone := true, status := status
           holdSince := hold }

theorem abortApply_eq (st : Nat) :
    s.abortApply p st = (((s.dropped p).setFs p [(F.CTL_ABORT_QUIET, 1), (F.LATCH_START_WAITING, 0)]).modPart p
      (fun x => x.cutOff ((s.dropped p).setFs p [(F.CTL_ABORT_QUIET, 1), (F.LATCH_START_WAITING, 0)]).now st x.holdSince)).purge p := rfl

/-- The registers that the abort of a step may write. -/
def abortRegs : List Reg := .CTL_ABORT :: .LATCH_START :: dropRegs ++ memRegs

/-- `t` is `s` with its step of partition `p` aborted and recorded. -/
structure State.AbortedAs (s t : State) (p node cause detail : Nat) : Prop where
  part : ∃ st h, t.part p = (s.part p).cutOff s.now st h
  node : t.getF F.CTL_ABORT_NODE p = node % 2 ^ F.CTL_ABORT_NODE.w
  cause : t.getF F.CTL_ABORT_CAUSE p = cause % 2 ^ F.CTL_ABORT_CAUSE.w
  detail : t.getF F.CTL_ABORT_DETAIL p = detail % 2 ^ F.CTL_ABORT_DETAIL.w
  valid : t.flag F.CTL_ABORT_VALID p = true
  quiet : t.flag F.CTL_ABORT_QUIET p = true
  mem : t.mem = s.mem
  inbox : t.inbox = s.inbox.filter (fun k => !(k.part == p && k.quiet))
  regs : ∀ (g : Fld) (j : Nat), g.reg ∉ abortRegs → t.getF g j = s.getF g j

/-- The record of an abort, whatever packets it sends, and the discarding of the step. -/
theorem recordAbort_aborts (node cause detail st : Nat) {v : State} (hv : v = { s.recordAbort p node cause detail with rq := v.rq })
    (code part : Nat) (args : List Nat) :
    s.AbortedAs ((v.abortApply p st).logNote 2 code part args) p node cause detail := by
  have hd := dropped_drops (s := v) (p := p)
  rw [abortApply_eq]
  generalize State.dropped _ p = u at hd ⊢
  have hmem : ∀ g : Fld, ∀ j, g.reg ∉ memRegs → ∀ f, (State.logNote (State.purge (State.modPart (u.setFs p [(F.CTL_ABORT_QUIET, 1),
      (F.LATCH_START_WAITING, 0)]) p f) p) 2 code part args).getF g j = (u.setFs p [(F.CTL_ABORT_QUIET, 1), (F.LATCH_START_WAITING, 0)]).getF g j :=
    fun g j hg f => (State.MemOp.logNote 2 code part args).regs g j hg
  have hrec : ∀ g : Fld, ∀ j, g.reg ∉ dropRegs → F.CTL_ABORT_QUIET.Apart g → F.LATCH_START_WAITING.Apart g →
      (u.setFs p [(F.CTL_ABORT_QUIET, 1), (F.LATCH_START_WAITING, 0)]).getF g j = (s.recordAbort p node cause detail).getF g j :=
    fun g j hg h1 h2 => by
      rw [setFs_cons, setFs_cons, setFs_nil, getF_setF_apart _ (by decide) h2, getF_setF_apart _ (by decide) h1, hd.regs g j hg, hv]
      rfl
  have hrest : ∀ g : Fld, ∀ j, g.reg ∉ abortRegs → (u.setFs p [(F.CTL_ABORT_QUIET, 1), (F.LATCH_START_WAITING, 0)]).getF g j = s.getF g j := by
    intro g j hg
    obtain ⟨h1, h2, h3⟩ : g.reg ≠ .CTL_ABORT ∧ g.reg ≠ .LATCH_START ∧ g.reg ∉ dropRegs := by
      simp only [abortRegs, List.cons_append, List.mem_cons, List.mem_append, not_or] at hg
      exact ⟨hg.1, hg.2.1, hg.2.2.1⟩
    rw [hrec g j h3 (.inl h1) (.inl h2)]
    unfold State.recordAbort
    rw [setFs_cons, setFs_cons, setFs_cons, setFs_cons, setFs_nil, getF_setF_apart _ (by decide) (.inl h1),
      getF_setF_apart _ (by decide) (.inl h1), getF_setF_apart _ (by decide) (.inl h1), getF_setF_apart _ (by decide) (.inl h1)]
  have hfield : ∀ x ∈ [(F.CTL_ABORT_NODE, node), (F.CTL_ABORT_CAUSE, cause), (F.CTL_ABORT_DETAIL, detail), (F.CTL_ABORT_VALID, 1)],
      (s.recordAbort p node cause detail).getF x.1 p = x.2 % 2 ^ x.1.w := fun x hx =>
    getF_setFs_of_mem s p (by simp [F.CTL_ABORT_NODE, F.CTL_ABORT_CAUSE, F.CTL_ABORT_DETAIL, F.CTL_ABORT_VALID])
      (by simp [Fld.Apart, F.CTL_ABORT_NODE, F.CTL_ABORT_CAUSE, F.CTL_ABORT_DETAIL, F.CTL_ABORT_VALID]) hx
  have hrecorded : ∀ x ∈ [(F.CTL_ABORT_NODE, node), (F.CTL_ABORT_CAUSE, cause), (F.CTL_ABORT_DETAIL, detail), (F.CTL_ABORT_VALID, 1)],
      ∀ f, (State.logNote (State.purge (State.modPart (u.setFs p [(F.CTL_ABORT_QUIET, 1), (F.LATCH_START_WAITING, 0)]) p f) p) 2 code part
        args).getF x.1 p = x.2 % 2 ^ x.1.w := by
    intro x hx f
    have h : x.1.reg ∉ memRegs ∧ x.1.reg ∉ dropRegs ∧ F.CTL_ABORT_QUIET.Apart x.1 ∧ F.LATCH_START_WAITING.Apart x.1 := by
      simp only [List.mem_cons, List.not_mem_nil, or_false] at hx
      rcases hx with rfl | rfl | rfl | rfl <;> simp only [Fld.Apart] <;> decide
    rw [hmem _ _ h.1, hrec _ _ h.2.1 h.2.2.1 h.2.2.2, hfield x hx]
  refine ⟨?_, hrecorded (F.CTL_ABORT_NODE, node) (by simp) _, hrecorded (F.CTL_ABORT_CAUSE, cause) (by simp) _,
    hrecorded (F.CTL_ABORT_DETAIL, detail) (by simp) _, ?_, ?_, ?_, ?_, ?_⟩
  · obtain ⟨h, hh⟩ := hd.part
    refine ⟨st, h, ?_⟩
    rw [logNote_part_at, purge_part, modPart_part_same, setFs_part_at, hh, show (u.setFs p _).now = s.now from hrest F.TIME_NOW_NS 0 (by decide)]
    have hp : v.part p = s.part p := by
      rw [hv]
      exact setFs_part_at ..
    rw [hp]
    rfl
  · exact congrArg (· != 0) (hrecorded (F.CTL_ABORT_VALID, 1) (by simp) _)
  · unfold State.flag
    rw [hmem _ _ (by decide), setFs_cons, setFs_cons, setFs_nil, getF_setF_apart _ (by decide) (.inl (by decide)), getF_setF_same _ (by decide)]
    rfl
  · rw [logNote_mem]
    show (State.setFs _ _ _).mem = s.mem
    rw [setFs_mem, hd.frame, hv]
    exact setFs_mem ..
  · rw [logNote_inbox]
    show List.filter _ (State.setFs _ _ _).inbox = _
    rw [setFs_regs, hd.frame, hv]
    show List.filter _ (State.setFs _ _ _).inbox = _
    rw [setFs_regs]
  · intro g j hg
    refine (hmem g j (fun h => hg ?_) _).trans (hrest g j hg)
    simp [abortRegs, h]

end Sys2Proof.Machine
end

section
/-! SUPPORT. O18 to O20: the failures that abort a step, the ABORT packet, and the recovery. -/

namespace Sys2Proof.Machine

variable {s t : State} {p n : Nat}

/-! ## Failures (R40, R205, R210, R396, R397) -/

theorem abortStep_aborts (h : s.stepActive p = true) (cause detail : Nat) :
    (s.addF F.CTL_ABORT_COUNT p 1).AbortedAs (s.abortStep p cause detail) p s.node cause detail := by
  have hact : (s.addF F.CTL_ABORT_COUNT p 1).stepActive p = true := h
  have hnode : (s.addF F.CTL_ABORT_COUNT p 1).node = s.node := getF_addF_apart s (by decide) (.inl (by decide))
  unfold State.abortStep
  dsimp only
  rw [if_pos hact, hnode, logEvent_quiet (by decide)]
  exact recordAbort_aborts _ _ _ _ (sendAbort_rq _ _) _ _ _

theorem driftFld_bounds (kind : Nat) (inb : Bool) : (driftFld kind inb).lo + (driftFld kind inb).w ≤ 64 := by
  unfold driftFld
  split <;> decide

theorem driftFld_w (kind : Nat) (inb : Bool) : (driftFld kind inb).w = 1 := by
  unfold driftFld
  split <;> rfl

/-- Settles O18: each failure aborts by `abortStep`, which `abortStep_aborts` describes. -/
theorem failuresAbort : Obligations.FailuresAbort := by
  unfold Obligations.FailuresAbort
  refine ⟨fun s p hp hrun hw => ?_, fun s p q w hp hq hwait hlim => ?_, fun s => rfl, fun s kind i inb hi hh => ?_, fun s p hp hrun hact hw => ?_⟩
  · exact (if_neg (not_not.2 hp)).trans (if_pos ⟨hrun, hw⟩)
  · refine (if_neg (not_not.2 hp)).trans (if_pos (List.any_eq_true.2 ⟨q, List.mem_range.2 hq, ?_⟩))
    rw [hwait]
    exact decide_eq_true hlim
  · refine ⟨({ s with drifted := s.drifted.filter (fun x => x != (kind, i)) ++ [(kind, i)] } : State).setF (driftFld kind inb) i 1,
      if_neg (not_not.2 ⟨hi, hh⟩), rfl, ?_, ?_, ?_⟩
    · simp
    · unfold State.flag
      rw [getF_setF_same _ (driftFld_bounds kind inb), driftFld_w]
      rfl
    · exact regsBut_setF ({ s with drifted := _ } : State) (driftFld_bounds kind inb)
  · have hab := abortStep_aborts (s := s.setF F.BEAT_STATUS_WDOG_FIRED p 1) (p := p) hact 2 0
    obtain ⟨st, h, hpart⟩ := hab.part
    refine ⟨_, (if_neg (not_not.2 hp)).trans (if_pos ⟨hrun, hw⟩), ?_, by rw [hpart]; rfl, by rw [hpart]; rfl, ?_, hab.valid, hab.cause, hab.detail,
      ?_, hab.quiet, fun a => ?_⟩
    · unfold State.flag
      rw [hab.regs _ _ (by decide), getF_addF_apart _ (by decide) (.inl (by decide)), getF_setF_same _ (by decide)]
      rfl
    · rw [hpart]
      exact (getF_addF_apart _ (by decide) (.inl (by decide))).trans (getF_setF_apart _ (by decide) (.inl (by decide)))
    · rw [hab.node]
      refine (Nat.mod_eq_of_lt ?_).trans (getF_setF_apart s (by decide) (.inl (by decide)))
      exact Nat.mod_lt _ (by decide)
    · unfold State.byte
      rw [hab.mem]
      rfl

/-! ## The ABORT packet (R394, R398, R399) -/

/-- The state once the packet has left the inbox. -/
def State.withInbox (s : State) (l : List Packet) : State := { s with inbox := l }

/-- The step that the body of an ABORT names, recorded and aborted. -/
def State.abortBy (s : State) (p : Nat) (b : List Byte) : State :=
  (s.recordAbort p (leAt b 24 3 % 2 ^ 20) (leAt b 1 1) (leAt b 2 1)).abortApply p (leAt b 1 1 * 256 + leAt b 2 1)

theorem abortBy_aborts (b : List Byte) (code part : Nat) (args : List Nat) :
    s.AbortedAs ((s.abortBy p b).logNote 2 code part args) p (leAt b 24 3 % 2 ^ 20) (leAt b 1 1) (leAt b 2 1) :=
  recordAbort_aborts _ _ _ _ rfl _ _ _

section

variable {k : Packet} {rest : List Packet}

theorem lateAbort_eq : s.lateAbort p = ((s.setFs p [(F.CTL_ABORT_LATE, 1), (F.CTL_ABORT_QUIET, 1)]).modPart p (fun x =>
    { x with prevAborted := true, quietAt := (s.setFs p [(F.CTL_ABORT_LATE, 1), (F.CTL_ABORT_QUIET, 1)]).now, late := x.late || x.started
             aborted := x.aborted || !x.started, pendDone := x.pendDone && x.started })).purge p := rfl

theorem exec_abortReceive (hk : takeFirst (fun k => k.ptype == ptABORT) s.inbox = some (k, rest))
    (hf : (s.withInbox rest).abortFor k = some p) : exec .abortReceive s = .next (
      if leAt k.body 1 1 = 0x0E then
        if (s.part p).aborted = true ∨ (¬ (s.part p).started = true ∧ (s.part p).prevAborted = true) then
          ((s.withInbox rest).addF F.CTL_ABORT_COUNT p 1).issueAgain p (leAt k.body 2 1 % 4)
        else (s.withInbox rest).addF F.CTL_ABORT_COUNT p 1
      else if s.namesCurrent p (leAt k.body 28 4) = true then
        if (s.part p).aborted = true then (s.withInbox rest).addF F.CTL_ABORT_COUNT p 1
        else
          (((s.withInbox rest).addF F.CTL_ABORT_COUNT p 1).abortBy p k.body).logNote 2 0x0100 p
            [(((s.withInbox rest).addF F.CTL_ABORT_COUNT p 1).abortBy p k.body).rdReg .CTL_ABORT p, (s.part p).stepNo]
      else if (s.part p).prevAborted = true then (s.withInbox rest).addF F.CTL_ABORT_COUNT p 1
      else ((s.withInbox rest).addF F.CTL_ABORT_COUNT p 1).lateAbort p) := by
  have hf' : ({ s with inbox := rest } : State).abortFor k = some p := hf
  change execAbortReceive s = _
  unfold execAbortReceive
  simp only [hk, hf']
  have hx : (({ s with inbox := rest } : State).addF F.CTL_ABORT_COUNT p 1).part p = s.part p := rfl
  have hn : (({ s with inbox := rest } : State).addF F.CTL_ABORT_COUNT p 1).namesCurrent p (leAt k.body 28 4) = s.namesCurrent p (leAt k.body 28 4) :=
    rfl
  rw [hx, hn]
  split
  · split <;> rfl
  · split
    · split
      · rfl
      · rw [logEvent_quiet (by decide)]
        rfl
    · split <;> rfl

end

/-- Settles O19: each branch of the packet's handling. -/
theorem abortIsReceived : Obligations.AbortIsReceived := by
  unfold Obligations.AbortIsReceived
  refine ⟨fun s k rest p hk hf hc ha hn => ?_, fun s k rest hk hf => ?_, fun s k rest p hk hf hc hn hprev => ?_, fun s k rest p hk hf hc h => ?_,
    fun s k rest p hk hf hc ha => ?_⟩
  · have hab := abortBy_aborts (s := (s.withInbox rest).addF F.CTL_ABORT_COUNT p 1) (p := p) k.body 0x0100 p
      [(((s.withInbox rest).addF F.CTL_ABORT_COUNT p 1).abortBy p k.body).rdReg .CTL_ABORT p, (s.part p).stepNo]
    have hex := exec_abortReceive hk hf
    rw [if_neg hc, if_pos hn, if_neg (Bool.eq_false_iff.1 ha)] at hex
    obtain ⟨st, h, hpart⟩ := hab.part
    refine ⟨_, hex, hab.inbox, by rw [hpart]; rfl, by rw [hpart]; rfl, ?_, hab.cause, hab.detail, hab.valid, fun a => ?_⟩
    · rw [hab.node]
      exact Nat.mod_mod _ _
    · unfold State.byte
      rw [hab.mem]
      rfl
  · change execAbortReceive s = _
    unfold execAbortReceive
    simp only [hk, hf]
  · refine ⟨_, (exec_abortReceive hk hf).trans (congrArg _ ((if_neg hc).trans ((if_neg (Bool.eq_false_iff.1 hn)).trans
      ((if_neg (Bool.eq_false_iff.1 hprev)).trans lateAbort_eq)))), ?_⟩
    generalize hu : (s.withInbox rest).addF F.CTL_ABORT_COUNT p 1 = u
    have hpart : u.part p = s.part p := by rw [← hu]; rfl
    have hinbox : u.inbox = rest := by rw [← hu]; rfl
    have hnow : (u.setFs p [(F.CTL_ABORT_LATE, 1), (F.CTL_ABORT_QUIET, 1)]).now = s.now := by
      unfold State.now
      rw [setFs_cons, setFs_cons, setFs_nil, getF_setF_apart _ (by decide) (.inl (by decide)), getF_setF_apart _ (by decide) (.inl (by decide)), ← hu]
      exact getF_addF_apart _ (by decide) (.inl (by decide))
    have hfl : ∀ g : Fld, ∀ f, (((u.setFs p [(F.CTL_ABORT_LATE, 1), (F.CTL_ABORT_QUIET, 1)]).modPart p f).purge p).flag g p =
        (u.setFs p [(F.CTL_ABORT_LATE, 1), (F.CTL_ABORT_QUIET, 1)]).flag g p := fun _ _ => rfl
    refine ⟨?_, ?_, ?_, ?_, ?_, ?_, ?_, fun w hw hp => purge_outs hw hp, fun a => ?_⟩
    · show List.filter _ (State.setFs _ _ _).inbox = _
      rw [setFs_regs]
      exact congrArg _ hinbox
    · rw [hfl, State.flag, setFs_cons, setFs_cons, setFs_nil, getF_setF_apart _ (by decide) (.inr (by decide)), getF_setF_same _ (by decide)]
      rfl
    · rw [hfl, State.flag, setFs_cons, setFs_cons, setFs_nil, getF_setF_same _ (by decide)]
      rfl
    · rw [purge_part, modPart_part_same]
    · rw [purge_part, modPart_part_same]
      exact hnow
    · rw [purge_part, modPart_part_same, setFs_part_at, hpart]
    · rw [purge_part, modPart_part_same, setFs_part_at, hpart]
    · show (State.setFs _ _ _).byte a = s.byte a
      unfold State.byte
      rw [setFs_mem, ← hu]
      rfl
  · refine (exec_abortReceive hk hf).trans (congrArg _ ((if_neg hc).trans ?_))
    rcases h with ⟨hn, ha⟩ | ⟨hn, hp⟩
    · exact (if_pos hn).trans (if_pos ha)
    · exact (if_neg (Bool.eq_false_iff.1 hn)).trans (if_pos hp)
  · exact ⟨_, (exec_abortReceive hk hf).trans (congrArg _ ((if_pos hc).trans (if_pos (.inl ha)))), rfl, rfl⟩

end Sys2Proof.Machine
end

section
/-! SUPPORT. O20: the end of the quiet period, the replay and the lockstep pair (R392, R394, R399, R405, R406). -/

namespace Sys2Proof.Machine

variable {s t : State} {p n l j : Nat} {g : Fld}

/-! ## What the worms' movement keeps -/

theorem withRq_ite {c : Prop} [Decidable c] (r : List Worm) :
    (if c then s else { s with rq := r }) = { s with rq := (if c then s else { s with rq := r }).rq } := by
  split <;> rfl

theorem crossAll_rq (fuel : Nat) : s.crossAll fuel = { s with rq := (s.crossAll fuel).rq } := by
  have hinge : ∀ (t : State) (j v : Nat), t.crossHinge j v = { t with rq := (t.crossHinge j v).rq } := by
    intro t j v
    unfold State.crossHinge
    split
    · rfl
    · split
      · rfl
      · exact withRq_ite _
  have hfold : ∀ (l : List (Nat × Nat)) (t : State), l.foldl (fun s x => s.crossHinge x.1 x.2) t =
      { t with rq := (l.foldl (fun s x => s.crossHinge x.1 x.2) t).rq } := by
    intro l
    induction l with
    | nil => exact fun _ => rfl
    | cons x l ih =>
      intro t
      rw [List.foldl_cons, ih, hinge]
  induction fuel generalizing s with
  | zero => rfl
  | succ f ih =>
    unfold State.crossAll
    dsimp only
    rw [hfold]
    split
    · rfl
    · rw [ih]

/-- The registers of the port buffers. -/
def bufRegs : List Reg := [.VCB_OCC0, .VCB_OCC1, .VCB_FLOW, .VCB_POOL, .FAN_STATUS]

/-- `t` is `s` with its packets moved on. -/
structure State.Moves (s t : State) : Prop where
  frame : t = { s with regs := t.regs, rq := t.rq, inbox := t.inbox }
  regs : ∀ (g : Fld) (j : Nat), g.reg ∉ bufRegs → t.getF g j = s.getF g j

namespace State.Moves

theorem refl : s.Moves s := ⟨rfl, fun _ _ _ => rfl⟩

theorem trans {u : State} (h : s.Moves t) (h' : t.Moves u) : s.Moves u :=
  ⟨h'.frame.trans (by rw [h.frame]), fun g j hg => (h'.regs g j hg).trans (h.regs g j hg)⟩

theorem setF {f : Fld} (i x : Nat) (hf : f.reg ∈ bufRegs) (hw : f.lo + f.w ≤ 64) : s.Moves (s.setF f i x) :=
  ⟨rfl, fun _ _ hg => getF_setF_apart s hw (.inl fun h => hg (h ▸ hf))⟩

theorem setFs {l : List (Fld × Nat)} (i : Nat) (hl : ∀ x ∈ l, x.1.reg ∈ bufRegs ∧ x.1.lo + x.1.w ≤ 64) : s.Moves (s.setFs i l) := by
  induction l generalizing s with
  | nil => exact refl
  | cons x l ih =>
    obtain ⟨hx, hl⟩ := List.forall_mem_cons.1 hl
    exact (setF i x.2 hx.1 hx.2).trans (ih hl)

theorem refreshPool (j : Nat) : s.Moves (s.refreshPool j) := setFs j (by simp [bufRegs, F.VCB_POOL_USED_KIB, F.VCB_POOL_HIGH_KIB])

theorem refreshPort (q : Nat) : s.Moves (s.refreshPort q) := by
  unfold State.refreshPort
  exact (setFs q (by simp [bufRegs, F.VCB_OCC0_VC0_KIB, F.VCB_OCC0_VC1_KIB, F.VCB_OCC0_VC2_KIB, F.VCB_OCC0_VC3_KIB, F.VCB_OCC1_VC4_KIB,
    F.VCB_OCC1_VC5_KIB, F.VCB_OCC1_REPLAY_KIB, F.VCB_FLOW_TX_OFF])).trans ((setF _ _ (by decide) (by decide)).trans (refreshPool _))

theorem crossAll (fuel : Nat) : s.Moves (s.crossAll fuel) := by
  generalize h : s.crossAll fuel = u
  have hu : u = { s with rq := u.rq } := h ▸ crossAll_rq fuel
  rw [hu]
  exact ⟨rfl, fun _ _ _ => rfl⟩

theorem moveWorms : s.Moves s.moveWorms := by
  unfold State.moveWorms
  refine (crossAll (6 * (s.rq.length + 1))).trans ?_
  generalize s.crossAll (6 * (s.rq.length + 1)) = u
  exact ⟨rfl, fun g j hg => getF_addF_apart u (by decide) (.inl fun h => hg (h ▸ by decide))⟩

theorem passOn : s.Moves s.passOn := by
  unfold State.passOn
  dsimp only
  refine .trans (.trans moveWorms ?_) (.trans (refreshPool 0) (refreshPool 1))
  generalize s.moveWorms = u
  induction ((s.rq.filter (fun w => w.input != 0)).map (fun w => w.input - 1)).dedup generalizing u with
  | nil => exact refl
  | cons q l ih => exact (refreshPort q).trans (ih _)

end State.Moves

/-! ## The latches of a partition -/

theorem latch_setLatch_core {m k : Nat} (v : Nat) (hn : n ≠ m) (hl : l < 48) (hk : k < 48) : (s.setLatch m k v).latch n l = s.latch n l := by
  unfold State.latch State.setLatch
  exact getF_setF_ne s (latchFld_bounds k) (.inr (.inl (by omega)))

theorem latch_clearLatches_core {m : Nat} (mask : Nat) (hn : n ≠ m) (hl : l < 48) : (s.clearLatches m mask).latch n l = s.latch n l :=
  foldl_keep (f := fun s l => State.setLatch s m l 0) (g := fun s => s.latch n l)
    (fun _ _ hk => latch_setLatch_core 0 hn hl (mem_onesOf.1 hk).1) s

theorem wipeLatches_regs (ns : List Nat) : s.wipeLatches ns = { s with regs := (s.wipeLatches ns).regs } := by
  have hclear : ∀ (t : State) (n m : Nat), t.clearLatches n m = { t with regs := (t.clearLatches n m).regs } := by
    intro t n m
    unfold State.clearLatches
    induction onesOf m 48 generalizing t with
    | nil => rfl
    | cons x l ih =>
      rw [List.foldl_cons, ih]
      rfl
  unfold State.wipeLatches
  induction ns generalizing s with
  | nil => rfl
  | cons x l ih =>
    rw [List.foldl_cons, ih, hclear]
    rfl

theorem wipeLatches_latch {ns : List Nat} (hn : n ∈ ns) (hl : l < 48) : (s.wipeLatches ns).latch n l = 0 := by
  have hbit : ∀ l < 48, bitAt (2 ^ 48 - 1) l = true := by decide
  exact foldl_read (f := fun s n => (State.clearLatches s n (2 ^ 48 - 1)).setF F.LATCH_OVF_OVF n 0) (g := fun s => s.latch n l)
    (P := fun _ => True) hn (fun _ _ _ => trivial)
    (fun s _ => by rw [latch_setF (by decide), latch_clearLatches n _ hl, if_pos (hbit l hl)])
    (fun s x hx => by rw [latch_setF (by decide), latch_clearLatches_core _ (Ne.symm hx) hl]) trivial

theorem latch_ringOp (h : s.RingOp t) : t.latch n l = s.latch n l := h.regs _ _ (by rw [latchFld_reg]; decide)

/-! ## The quiet period -/

/-- The state of a partition whose quiet period is over. -/
def State.quieted (s : State) (p : Nat) : State := (((s.purge p).passOn).wipeLatches (s.members p)).setF F.CTL_ABORT_QUIET p 0

theorem quieted_frame : s.quieted p = { s with regs := (s.quieted p).regs, rq := (s.quieted p).rq, inbox := (s.quieted p).inbox } := by
  unfold State.quieted
  rw [wipeLatches_regs, (State.Moves.passOn (s := s.purge p)).frame]
  rfl

@[simp] theorem quieted_part (q : Nat) : (s.quieted p).part q = s.part q := by
  rw [quieted_frame]
  rfl

theorem quieted_quiet : (s.quieted p).flag F.CTL_ABORT_QUIET p = false := by
  unfold State.quieted State.flag
  rw [getF_setF_same _ (by decide)]
  rfl

theorem quieted_latch (hn : n ∈ s.members p) (hl : l < 48) : (s.quieted p).latch n l = 0 := by
  unfold State.quieted
  rw [latch_setF (by decide), wipeLatches_latch hn hl]

theorem endQuiet_late {r : Bool} (ha : (s.part p).aborted = false) :
    s.endQuiet p r = (s.quieted p).modPart p (fun x => { x with late := false }) := by
  unfold State.endQuiet
  dsimp only
  rw [if_pos (by simp [ha])]
  rfl

/-- A replay waits when it is asked for, a STEP_DONE is due and fewer than three attempts were made. -/
def State.replays (s : State) (p : Nat) (r : Bool) : Bool := r && (s.part p).pendDone && decide ((s.part p).attempt < 3)

theorem endQuiet_aborted {r : Bool} (ha : (s.part p).aborted = true) :
    ∃ y : State, (s.quieted p).RingOp y ∧ ∃ f : Part → Part, s.endQuiet p r = y.modPart p f ∧
      ∀ x, (f x).aborted = false ∧ (f x).running = false ∧ (f x).started = false ∧ (f x).lastFailed = true ∧ (f x).replaying = s.replays p r := by
  unfold State.endQuiet
  dsimp only
  rw [if_neg (by simp [ha])]
  refine ⟨_, ?_, _, rfl, fun x => ⟨rfl, rfl, rfl, rfl, rfl⟩⟩
  show (s.quieted p).RingOp (if (s.part p).pendDone = true then (s.quieted p).stepDone p (s.part p).status (s.replays p r) else s.quieted p)
  split
  · exact stepDone_ringOp _ _
  · exact .refl

theorem exec_quietEnd {r : Bool} (hp : p < 16) (hq : s.quietOver p = true) :
    exec (.quietEnd p r) s = .next (if ¬ (s.part p).aborted = true then s.endQuiet p (r || s.weightLost p)
      else (if ((s.endQuiet p (r || s.weightLost p)).part p).replaying then (s.endQuiet p (r || s.weightLost p)).rereads p
        else s.endQuiet p (r || s.weightLost p)).stepEnded p) :=
  (if_neg (not_not.2 hp)).trans (if_neg (not_not.2 hq))

/-- Settles O20: the end of the quiet period by `quieted`, the replay, and the lockstep pair. -/
theorem recoveryRuns : Obligations.RecoveryRuns := by
  unfold Obligations.RecoveryRuns
  refine ⟨fun s p r hp hq ha => ⟨s.endQuiet p (r || s.weightLost p), (exec_quietEnd hp hq).trans (congrArg _ (if_neg (not_not.2 ha))), ?_⟩,
    fun s p r hp hq ha => ⟨_, (exec_quietEnd hp hq).trans (congrArg _ ((if_pos (by simp [ha])).trans (endQuiet_late ha))), ?_⟩,
    fun s p hp hr hq hw => ?_, fun s => ⟨_, rfl, only_setF s (by decide), ?_⟩, fun s => rfl, fun s => ⟨_, rfl, ?_, ?_⟩, fun s => rfl⟩
  · obtain ⟨y, hy, f, hf, hx⟩ := endQuiet_aborted (s := s) (p := p) (r := r || s.weightLost p) ha
    obtain ⟨h1, h2, h3, h4, h5⟩ := hx (y.part p)
    rw [hf, modPart_part_same]
    refine ⟨h1, h2, h3, h4, ?_, fun n hn l hl => ?_, ?_⟩
    · exact (congrArg (· != 0) ((getF_modPart ..).trans (hy.regs F.CTL_ABORT_QUIET p (by decide)))).trans quieted_quiet
    · rw [latch_modPart, latch_ringOp hy, quieted_latch hn hl]
    · rw [h5, State.replays]
      simp [and_assoc]
  · refine ⟨?_, quieted_quiet, fun n hn l hl => quieted_latch hn hl, ?_⟩
    · rw [modPart_part_same, quieted_part]
    · show (s.quieted p).replies = s.replies
      rw [quieted_frame]
  · have hex : exec (.stepReplay p) s = .next ((((s.sendAbort p 0x0E ((s.part p).attempt + 1)).logEvent 1 0x0101 p
        [(s.part p).stepNo, (s.part p).attempt + 1]).issueAgain p ((s.part p).attempt + 1)).modPart p (fun x => { x with replaying := false })) := by
      have hred : ((s.plan (s.part p).plan).weights.any fun w => w.redo != []) = false := by
        simpa [List.any_eq_false] using hw
      refine (if_neg (not_not.2 hp)).trans (if_neg ?_)
      rw [hr, hq, hred]
      decide
    refine ⟨_, hex, ?_⟩
    rw [logEvent_quiet (by decide)]
    have hrq := logNote_rq (s := s.sendAbort p 0x0E ((s.part p).attempt + 1)) 1 0x0101 p [(s.part p).stepNo, (s.part p).attempt + 1]
    have hframe := (State.MemOp.logNote (s := s.sendAbort p 0x0E ((s.part p).attempt + 1)) 1 0x0101 p
      [(s.part p).stepNo, (s.part p).attempt + 1]).frame
    have hpart := logNote_part_at (s.sendAbort p 0x0E ((s.part p).attempt + 1)) 1 0x0101 p [(s.part p).stepNo, (s.part p).attempt + 1] p
    generalize (s.sendAbort p 0x0E ((s.part p).attempt + 1)).logNote 1 0x0101 p [(s.part p).stepNo, (s.part p).attempt + 1] = v at hrq hframe hpart ⊢
    have hp : v.part p = s.part p := hpart.trans (by rw [sendAbort_rq]; rfl)
    have hsteps : v.steps = s.steps := by rw [hframe, sendAbort_rq]
    refine ⟨by rw [modPart_part_same], ?_, hrq⟩
    show _ :: v.steps = _
    rw [hp, hsteps]
  · rw [State.addF, getF_setF_same _ (by decide)]
    exact Nat.mod_eq_of_lt (Nat.lt_of_le_of_lt (Nat.min_le_left _ _) (by decide))
  · rw [(State.RingOp.logEvent ..).frame]
    rfl
  · exact (congrArg (· != 0) (((State.RingOp.logEvent ..).regs _ _ (by decide)).trans (getF_setF_same _ (by decide))))

end Sys2Proof.Machine
end

section
/-! SUPPORT. O21 and O22: packets that land (R74, R76, R133, R134), arrivals and tokens (R140, R142 to R146). -/

namespace Sys2Proof.Machine

variable {s : State}

/-! ## The packet that lands next (R76) -/

theorem takeLand_spec {ptype : Nat} {busy : List Nat} {l rest : List Packet} {k : Packet} (h : s.takeLand ptype busy l = some (k, rest)) :
    ∃ pre post, l = pre ++ k :: post ∧ rest = pre ++ post ∧ k.ptype = ptype ∧
      ((s.part k.part).quieting = false → (∀ n ∈ k.dest, n ∉ busy) ∧
        ∀ j ∈ pre, j.lands = true → (s.part j.part).quieting = false → ∀ n ∈ j.dest, n ∉ k.dest) := by
  induction l generalizing busy rest with
  | nil => cases h
  | cons x l ih =>
    unfold State.takeLand at h
    dsimp only at h
    split at h
    · next hx =>
      obtain ⟨rfl, rfl⟩ := Prod.mk.inj (Option.some.inj h)
      simp only [Bool.and_eq_true, beq_iff_eq, Bool.or_eq_true, List.all_eq_true, Bool.not_eq_true', List.contains_eq_mem,
        decide_eq_false_iff_not] at hx
      refine ⟨[], l, rfl, rfl, hx.1, fun hq => ⟨fun n hn => ((hx.2.resolve_left (by simp [hq])) n hn).2, fun j hj => by cases hj⟩⟩
    · obtain ⟨⟨y, r⟩, hy, he⟩ := Option.map_eq_some_iff.1 h
      obtain ⟨rfl, rfl⟩ := Prod.mk.inj he
      obtain ⟨pre, post, rfl, rfl, hp, hbusy⟩ := ih hy
      refine ⟨x :: pre, post, rfl, rfl, hp, fun hq => ?_⟩
      obtain ⟨h1, h2⟩ := hbusy hq
      by_cases hx : (x.lands && !(s.part x.part).quieting) = true
      · rw [if_pos hx] at h1
        refine ⟨fun n hn hb => h1 n hn (List.mem_append_left _ hb), fun j hj hl hjq => ?_⟩
        rcases List.mem_cons.1 hj with rfl | hj
        · exact fun n hn hk => h1 n hk (List.mem_append_right _ hn)
        · exact h2 j hj hl hjq
      · rw [if_neg hx] at h1
        refine ⟨h1, fun j hj hl hjq => ?_⟩
        rcases List.mem_cons.1 hj with rfl | hj
        · exact absurd (by simp [hl, hjq]) hx
        · exact h2 j hj hl hjq

/-! ## Latch writes (R133, R134) -/

theorem latch_lt (s : State) (n l : Nat) : s.latch n l < 2 ^ 16 := by
  have hw : (latchFld l).w = 16 := by
    unfold latchFld
    split <;> rfl
  unfold State.latch State.getF
  rw [hw]
  exact Nat.mod_lt _ (by decide)

/-- A latch saturates. -/
theorem latch_addLatch_same (n l inc : Nat) : (s.addLatch n l inc).latch n l = min 65535 (s.latch n l + inc) := by
  unfold State.addLatch
  dsimp only
  split
  · next h => rw [latch_setF (by decide), latch_setLatch_same n l (by decide), Nat.min_eq_left (Nat.le_of_lt h)]
  · next h =>
    rw [latch_setLatch_same n l (by omega), Nat.min_eq_right (by omega)]

theorem latch_addLatch_core {n m l k : Nat} (inc : Nat) (hn : n ≠ m) (hl : l < 48) (hk : k < 48) :
    (s.addLatch m k inc).latch n l = s.latch n l := by
  unfold State.addLatch
  dsimp only
  split
  · rw [latch_setF (by decide), latch_setLatch_core _ hn hl hk]
  · rw [latch_setLatch_core _ hn hl hk]

theorem foldl_addLatch_regs (l inc : Nat) (ns : List Nat) :
    ns.foldl (fun s n => State.addLatch s n l inc) s = { s with regs := (ns.foldl (fun s n => State.addLatch s n l inc) s).regs } := by
  induction ns generalizing s with
  | nil => rfl
  | cons n ns ih =>
    rw [List.foldl_cons, ih, addLatch_regs]

/-- A latch write raises its latch once at each destination. -/
theorem latch_foldl_addLatch {l inc : Nat} (hl : l < 48) {ns : List Nat} (hd : ns.Nodup) (n : Nat) :
    (ns.foldl (fun s n => State.addLatch s n l inc) s).latch n l = if n ∈ ns then min 65535 (s.latch n l + inc) else s.latch n l := by
  induction ns generalizing s with
  | nil => rfl
  | cons m ns ih =>
    obtain ⟨hm, hd⟩ := List.nodup_cons.1 hd
    rw [List.foldl_cons, ih hd]
    by_cases hn : n = m
    · subst hn
      rw [if_neg hm, if_pos List.mem_cons_self, latch_addLatch_same]
    · rw [latch_addLatch_core inc hn hl hl]
      simp [hn]

/-! ## The obligations -/

theorem exec_dataArrive {k : Packet} {rest : List Packet} (losses : List (Nat × Nat)) (hk : s.takeLand ptDATA [] s.inbox = some (k, rest))
    (hq : (s.part k.part).quieting = false) :
    exec (.dataArrive losses) s = .next ((k.dest.foldl (fun (s : State) n => s.setSpad n (k.arg % 2 ^ 23) (k.body.take (spadSize - k.arg % 2 ^ 23)))
      { s with inbox := rest }).countLosses (losses.filter (fun x => k.dest.contains x.1))) := by
  change execDataArrive losses s = _
  unfold execDataArrive
  simp only [hk]
  unfold State.land
  rw [if_neg (show ¬ ((({ s with inbox := rest } : State).part k.part).quieting = true) from Bool.eq_false_iff.1 hq)]

/-- Settles O21: the order by `takeLand_spec`, the latches by `latch_foldl_addLatch`, the data by its bytes. -/
theorem packetsLand : Obligations.PacketsLand := by
  unfold Obligations.PacketsLand
  refine ⟨fun s ptype l rest k h => ?_, fun s k rest hk hq hd hl => ?_, fun s k rest n hk hq hdest => ?_, fun s k rest losses hk hq =>
    exec_dataArrive losses hk hq⟩
  · obtain ⟨pre, post, h1, h2, h3, h4⟩ := takeLand_spec h
    exact ⟨pre, post, h1, h2, h3, fun hq => (h4 hq).2⟩
  · have hex : exec .latchWriteArrive s = .next (k.dest.foldl (fun s n => State.addLatch s n (bitsOf k.arg 0 6) (bitsOf k.arg 6 8))
        { s with inbox := rest }) := by
      change execLatchWriteArrive s = _
      unfold execLatchWriteArrive
      simp only [hk]
      unfold State.land
      rw [if_neg (show ¬ ((({ s with inbox := rest } : State).part k.part).quieting = true) from Bool.eq_false_iff.1 hq)]
      simp only [if_pos hl]
    refine ⟨_, hex, ?_, fun n => latch_foldl_addLatch hl hd n⟩
    rw [foldl_addLatch_regs]
  · intro a
    have hex := exec_dataArrive [] hk hq
    rw [hdest] at hex
    refine ⟨_, hex, ?_, fun x hx => ?_, fun j b hb => ?_⟩
    · show (State.setBytes { s with inbox := rest } _ _) = _
      rw [setBytes_frame]
      rfl
    · show (State.setBytes { s with inbox := rest } (spadAddr n a) (k.body.take (spadSize - a))).byte x = s.byte x
      rw [byte_setBytes, if_neg (by omega)]
      rfl
    · show (State.setBytes { s with inbox := rest } (spadAddr n a) (k.body.take (spadSize - a))).byte (spadAddr n a + j) = b
      have hj := (List.getElem?_eq_some_iff.1 hb).1
      rw [byte_setBytes, if_pos (by omega), Nat.add_sub_cancel_left, List.getD_eq_getElem?_getD, hb]
      rfl

/-- A system context after a child's token. -/
def State.tokenCtx (s : State) (k : Packet) : Ctx :=
  let c := tkCtx k.body
  let x := s.sctxOf c
  let g := if s.isStart c then 0 else tget 0 x.kids k.port
  { x with kids := tset 0 x.kids k.port (if s.isStart c then tkGen k.body + 1 else g + 1)
           latest := tset 0 x.latest g (max (tkTb k.body) (tget 0 x.latest g)) }

theorem exec_arriveToken {k : Packet} {rest : List Packet} (hk : takeFirst (isToken 1) s.inbox = some (k, rest))
    (hq : (s.part k.part).quieting = false) (hc : ({ s with inbox := rest } : State).tokenCheck k true = 0) (hkind : tkKind k.body = 1) :
    exec .arriveToken s = .next ((({ s with inbox := rest } : State).setSctx (tkCtx k.body) (s.tokenCtx k)).aggregate (tkCtx k.body)) := by
  change execArriveToken s = _
  rw [execArriveToken, onToken_counts hk hq hc]
  dsimp only
  rw [if_neg (not_not.2 hkind)]
  rfl

/-- Settles O22: each branch of an arrival and of a token. -/
theorem arrivalsCount : Obligations.ArrivalsCount := by
  unfold Obligations.ArrivalsCount
  refine ⟨fun s a rest ha hc hs => ?_, fun s a rest ha hc hs => ?_, fun s a rest f ha hf hc => ?_, fun s k rest hk hq hc hkind hst => ?_,
    fun s k rest hk hq hc hkind hst => ?_, fun s k rest hk hq hc => ?_⟩
  · change execThresholdArrive s = _
    unfold execThresholdArrive
    simp only [ha, hc, hs]
    rfl
  · change execThresholdArrive s = _
    unfold execThresholdArrive
    simp only [ha, hc, hs]
    rfl
  · change execThresholdArrive s = _
    unfold execThresholdArrive
    simp only [ha, hc, if_pos hf]
    rfl
  · refine ⟨_, exec_arriveToken hk hq hc hkind, ?_, rfl⟩
    rw [State.tokenCtx, tget_tset_same, hst]
    rfl
  · refine ⟨_, exec_arriveToken hk hq hc hkind, ?_, ?_⟩
    · rw [State.tokenCtx, tget_tset_same, hst]
      rfl
    · rw [State.tokenCtx, hst]
      exact tget_tset_same _ _ _ _
  · change execCompleteToken s = _
    rw [execCompleteToken, onToken_counts hk hq hc]

end Sys2Proof.Machine
end

section
/-! SUPPORT. O23: a start arrival, and the input digest (R146, R155, R156, R293, R305, R435). -/

namespace Sys2Proof.Machine

variable {s : State} {p : Nat}

/-- Nothing holds back an arrival. -/
theorem arrivalsHeld_false (h1 : s.pairStopped = false) (h2 : s.flag F.CTL_STATUS_UPDATING 0 = false)
    (h3 : s.flag F.SEC_STATUS_TAMPERED 0 = false) (h4 : s.boot.quiet = false) (h5 : s.getF F.PWR_STATUS_STATE 0 = 0) : s.arrivalsHeld = false := by
  unfold State.arrivalsHeld
  simp [h1, h2, h3, h4, h5]

theorem exec_startArrive {sym : Syms} {areas : List Nat} {cals : List (Nat × Nat × Cal × Cal)} (hp : p < 16)
    (hw : (s.part p).waitDigest = false) (hh : s.arrivalsHeld = false) :
    exec (.startArrive p sym areas cals) s = .next (
      let u := if s.inStep p then s else s.recalibrate p cals
      if (u.nextStepOf p).isSome then u.prepare p sym areas
      else if ¬ u.panesReady p then u else u.bareArrive p sym) := by
  refine (if_neg (not_not.2 hp)).trans ((if_neg (by simp [hw, hh])).trans ?_)
  dsimp only
  generalize (if s.inStep p then s else s.recalibrate p cals) = u
  split
  · rfl
  · split <;> rfl

theorem prepare_ready {sym : Syms} {areas : List Nat} {r : StepReq} (hr : s.nextStepOf p = some r) (hm : s.mayArrive p r.plan = true)
    (hrow : s.rowsHold p r = false) (he : (s.plan r.plan).evicted = false) :
    s.prepare p sym areas = ({ s with steps := s.steps.erase r } : State).readyStep p sym r := by
  have hw : (s.plan r.plan).weightState ≠ 3 := by
    intro h
    unfold State.mayArrive Plan.weightsIn at hm
    simp [h] at hm
  have he' : ¬ ¬ ¬ (({ s with steps := s.steps.erase r } : State).plan r.plan).evicted = true := by
    rw [show (({ s with steps := s.steps.erase r } : State).plan r.plan).evicted = false from he]
    decide
  unfold State.prepare
  simp only [hr]
  rw [if_neg hw, if_neg (by simp [hm, hrow]), if_pos (not_not.1 he')]

theorem prepare_waits {sym : Syms} {areas : List Nat} {r : StepReq} (hr : s.nextStepOf p = some r) (hw : (s.plan r.plan).weightState ≠ 3)
    (h : s.mayArrive p r.plan = false ∨ s.rowsHold p r = true) : s.prepare p sym areas = s := by
  unfold State.prepare
  simp only [hr]
  rw [if_neg hw, if_pos (h.imp (fun h => by simp [h]) id)]

/-- The partition takes a bare arrival at once. -/
def State.FreeToArrive (s : State) (p : Nat) : Prop :=
  s.nextStepOf p = none ∧ s.panesReady p = true ∧ s.flag F.LATCH_START_WAITING p = false ∧ (s.part p).running = false

theorem bareArrive_of_free {sym : Syms} (hf : s.FreeToArrive p)
    (hh : ¬ ((s.part p).quieting = true ∨ (s.part p).loadWait = true ∨ (s.planBound p = true ∧ (s.runPlan p).weightsIn = false))) :
    s.bareArrive p sym = ((if s.planBound p then s.planSettings p (s.runPlan p) else s).modPart p
      (fun x => { x with attempt := 0, tag := 0 })).arrive p sym := by
  obtain ⟨-, -, h3, h4⟩ := hf
  unfold State.bareArrive
  refine if_neg ?_
  simpa [h3, h4, and_assoc] using hh

theorem bareArrive_of_held {sym : Syms}
    (hh : (s.part p).quieting = true ∨ (s.part p).loadWait = true ∨ (s.planBound p = true ∧ (s.runPlan p).weightsIn = false)) :
    s.bareArrive p sym = s := by
  unfold State.bareArrive
  refine if_pos ?_
  rcases hh with h | h | ⟨h1, h2⟩
  · simp [h]
  · simp [h]
  · simp [h1, h2]

/-! ## The settings of a plan -/

theorem planSettings_regs (q : Plan) : s.planSettings p q = { s with regs := (s.planSettings p q).regs } := by
  have hfold : ∀ (l : List Nat) (t : State),
      l.foldl (fun s c => if State.ownsS s p c then s.setF F.LATCH_SCTX_START c (bit (c == q.startCtx)) else s) t =
      { t with regs := (l.foldl (fun s c => if State.ownsS s p c then s.setF F.LATCH_SCTX_START c (bit (c == q.startCtx)) else s) t).regs } := by
    intro l
    induction l with
    | nil => exact fun _ => rfl
    | cons c l ih =>
      intro t
      rw [List.foldl_cons, ih]
      split <;> rfl
  unfold State.planSettings
  dsimp only
  rw [hfold]
  rfl

theorem planSettings_waiting (q : Plan) : (s.planSettings p q).flag F.LATCH_START_WAITING p = s.flag F.LATCH_START_WAITING p := by
  unfold State.planSettings State.flag
  dsimp only
  rw [getF_setF_apart _ (by decide) (.inl (by decide)), getF_setF_apart _ (by decide) (.inl (by decide)),
    foldl_keep (g := fun t => State.getF t F.LATCH_START_WAITING p) (fun t c _ => by
      split
      · exact getF_setF_apart t (by decide) (.inl (by decide))
      · rfl),
    getF_setF_apart _ (by decide) (by decide), getF_setF_apart _ (by decide) (.inl (by decide))]

/-- Without a start context the step fails. -/
theorem arrive_without_ctx {sym : Syms} (hw : s.flag F.LATCH_START_WAITING p = false) (hr : (s.part p).running = false)
    (hc : s.startCtx p = none) : s.arrive p sym = (s.setF F.LATCH_START_NO_CTX p 1).noStart p := by
  unfold State.arrive
  rw [if_neg (by simp [hw, hr])]
  simp only [hc]

theorem takeNumber_part_running : ((s.takeNumber p).part p).running = (s.part p).running := by
  unfold State.takeNumber
  dsimp only
  split
  · rfl
  · rw [modPart_part_same]
    rfl

theorem getF_takeNumber (g : Fld) (j : Nat) : (s.takeNumber p).getF g j = s.getF g j := by
  unfold State.takeNumber
  dsimp only
  split <;> rfl

theorem noStart_facts : (s.noStart p).flag F.LATCH_START_NO_CTX p = s.flag F.LATCH_START_NO_CTX p ∧
    ((s.noStart p).part p).lastFailed = true ∧ ((s.noStart p).part p).running = (s.part p).running := by
  unfold State.noStart
  dsimp only
  have hop := stepDone_ringOp (s := (s.takeNumber p).modPart p (·.counting (s.getF F.CTL_VARP_COUNT p))) (p := p) (0x03 * 256 + errCTX_UNSET) false
  obtain ⟨b, hb⟩ := hop.part p
  rw [modPart_part_same]
  refine ⟨?_, rfl, ?_⟩
  · unfold State.flag
    rw [getF_modPart, hop.regs _ _ (by decide), getF_modPart, getF_takeNumber]
  · rw [hb, modPart_part_same]
    exact takeNumber_part_running

theorem refuseStep_part (r : StepReq) (c : Nat) :
    ∃ b, (s.refuseStep p r c).part p = { s.part p with lastFailed := true, endAt := s.now, unplanned := b } := by
  have hop := State.RingOp.reply (s := s.modPart p (fun x => { x with lastFailed := true, endAt := s.now })) (p + 1) r.cq
    ((⟨p + 1, 0, 1, 3, r.plan, r.tag, 0, 0, []⟩ : Ctl).replyBytes 3 ⟨resFAILED, r.plan, leBytes 1 c⟩)
  obtain ⟨b, hb⟩ := hop.part p
  exact ⟨b, hb.trans (by rw [modPart_part_same])⟩

/-- Settles O23: each branch of a start arrival and of the input digest. -/
theorem stepsArrive : Obligations.StepsArrive := by
  unfold Obligations.StepsArrive
  refine ⟨fun s p sym areas cals hp hw h1 h2 h3 h4 h5 => ?_, fun s p sym hp hw h1 h2 h3 h4 h5 hpanes hq => ?_⟩
  · intro u v free held
    have hex := exec_startArrive (sym := sym) (areas := areas) (cals := cals) hp hw (arrivalsHeld_false h1 h2 h3 h4 h5)
    have hbare : free → ¬ held → exec (.startArrive p sym areas cals) s = .next ((v.modPart p (fun x => { x with attempt := 0, tag := 0 })).arrive p sym) := by
      intro hf hh
      obtain ⟨hn, hpanes, -, -⟩ := id hf
      refine hex.trans (congrArg _ ((if_neg (Option.not_isSome_iff_eq_none.2 hn)).trans
        ((if_neg (not_not.2 hpanes)).trans (bareArrive_of_free hf hh))))
    refine ⟨fun r hr hm hrow he => ?_, fun r hr hwt h => ?_, hbare, fun hf hh => ?_, fun hf hh hc => ⟨_, hbare hf hh, ?_⟩⟩
    · exact hex.trans (congrArg _ ((if_pos (Option.isSome_iff_exists.2 ⟨r, hr⟩)).trans (prepare_ready hr hm hrow he)))
    · exact hex.trans (congrArg _ ((if_pos (Option.isSome_iff_exists.2 ⟨r, hr⟩)).trans (prepare_waits hr hwt h)))
    · obtain ⟨hn, hpanes, -, -⟩ := hf
      refine hex.trans (congrArg _ ((if_neg (Option.not_isSome_iff_eq_none.2 hn)).trans
        ((if_neg (not_not.2 hpanes)).trans (bareArrive_of_held hh))))
    · obtain ⟨-, -, hwait, hrun⟩ := hf
      have hv : v.flag F.LATCH_START_WAITING p = false ∧ (v.part p).running = false := by
        by_cases hb : u.planBound p = true
        · rw [show v = u.planSettings p (u.runPlan p) from if_pos hb, planSettings_waiting, planSettings_regs]
          exact ⟨hwait, hrun⟩
        · rw [show v = u from if_neg hb]
          exact ⟨hwait, hrun⟩
      rw [arrive_without_ctx (s := v.modPart p (fun x => { x with attempt := 0, tag := 0 })) hv.1 (by rw [modPart_part_same]; exact hv.2) hc]
      obtain ⟨h1, h2, h3⟩ := noStart_facts (s := (v.modPart p (fun x => { x with attempt := 0, tag := 0 })).setF F.LATCH_START_NO_CTX p 1) (p := p)
      refine ⟨?_, h2, ?_⟩
      · rw [h1, State.flag, getF_setF_same _ (by decide)]
        rfl
      · rw [h3, State.setF_part_at, modPart_part_same]
        exact hv.2
  · have hheld := arrivalsHeld_false h1 h2 h3 h4 h5
    have hgo : ¬ (¬ (s.part p).waitDigest = true ∨ s.arrivalsHeld = true ∨ (s.part p).quieting = true ∨ ¬ s.panesReady p = true) := by
      simp [hw, hheld, hq, hpanes]
    refine ⟨fun hin => ?_, fun h3 => ⟨_, (if_neg (not_not.2 hp)).trans ((if_neg hgo).trans (if_pos h3)), ?_⟩⟩
    · have hne : (s.runPlan p).weightState ≠ 3 := by
        intro h
        unfold Plan.weightsIn at hin
        simp [h] at hin
      exact (if_neg (not_not.2 hp)).trans ((if_neg hgo).trans ((if_neg hne).trans (if_neg (not_not.2 hin))))
    · obtain ⟨b, hb⟩ := (refuseStep_part (s := s) (p := p) ⟨p, (s.part p).plan, (s.part p).tag, (s.part p).payload, (s.part p).attempt, false,
        (s.part p).cq⟩ 0)
      unfold State.refuseReady
      dsimp only
      rw [modPart_part_same, hb]
      exact ⟨rfl, rfl, rfl, rfl⟩

end Sys2Proof.Machine
end

section
/-! SUPPORT. O25, O27 and O28: the settings, the loading and the use of a plan, through the messages that Ranuat admits. -/

namespace Sys2Proof.Machine

variable {s t : State}

/-- Settles O25: each setting is admitted and made. -/
theorem settingsTakeHold : Obligations.SettingsTakeHold := by
  unfold Obligations.SettingsTakeHold
  refine ⟨fun s h id mask on ha hid hmask hok => ?_, fun s h x ha => ?_, fun s t h xs ha => ⟨fun hx => ?_, fun hx => ?_⟩,
    fun s h part on ha => ?_, fun s h jamb qp ha => ?_⟩
  · intro u old
    change execPeepEnable h id mask on s = _
    rw [execPeepEnable, control_admits ha]
    have hok' : (if h.fn = 0 then decide (1 ≤ (s.takeEntry h).getF F.SEC_DEBUG_LEVEL 0) else mask == 2 ^ h.part && decide (id < 768)) = true := by
      by_cases h0 : h.fn = 0
      · rw [if_pos h0] at hok ⊢
        exact decide_eq_true hok
      · rw [if_neg h0] at hok ⊢
        simp [hok.1, hok.2]
    simp only [hok', hid, hmask]
    rfl
  · intro u r hrange hplan hfits
    change execRingSetup h [x] s = _
    rw [execRingSetup, control_admits ha]
    have hset : (s.takeEntry h).setRings h.fn [x] = ((u.setRing x.k r).ringWrite r 0 (List.replicate 64 0), true) := by
      unfold State.setRings
      exact if_neg (not_not.2 ⟨hrange, hplan, hfits⟩)
    simp only [hset]
  · change execRingSetup h xs s = _
    rw [execRingSetup, control_admits ha]
    simp only [hx]
  · change execRingSetup h xs s = _
    rw [execRingSetup, control_admits ha]
    simp only [hx]
  · intro u p hp
    change execPin h part on s = _
    rw [execPin, control_admits ha]
    dsimp only
    rw [if_neg (not_not.2 hp)]
  · intro u hj hq
    change execQpConnect h jamb qp true s = _
    rw [execQpConnect, control_admits ha]
    dsimp only
    rw [if_neg (not_not.2 ⟨hj, hq⟩), if_pos rfl]

/-! ## The load of a plan -/

theorem takeEntry_ringOp (h : Ctl) : s.RingOp (s.takeEntry h) := by
  unfold State.takeEntry
  dsimp only
  split
  · exact .refl
  · exact (State.RingOp.setRing _ _).trans (.ringWrite _ _ _)

/-- What stops a message does not look at memory, rings or steps. -/
theorem controlStop_congr {op : Nat} {h : Ctl} {fns : Fns} {a b : Bool} (hp : t.pairDown = s.pairDown)
    (h1 : t.flag F.BOOT_STATUS_VESTIBULE 0 = s.flag F.BOOT_STATUS_VESTIBULE 0)
    (h2 : t.flag F.SEC_STATUS_TAMPERED 0 = s.flag F.SEC_STATUS_TAMPERED 0) : t.controlStop op h fns a b = s.controlStop op h fns a b := by
  unfold State.controlStop State.pairStopped
  rw [hp, h1, h2]

theorem controlStop_ringOp {op : Nat} {h : Ctl} {fns : Fns} {a b : Bool} (hop : s.RingOp t) :
    t.controlStop op h fns a b = s.controlStop op h fns a b :=
  controlStop_congr (by rw [hop.frame]) (congrArg (· != 0) (hop.regs _ _ (by decide))) (congrArg (· != 0) (hop.regs _ _ (by decide)))

theorem loadTaken_admits {h : Ctl} (ha : s.Admits 1 h .vf true false) : (s.loadTaken h.part).Admits 1 h .vf true false := by
  obtain ⟨h1, h2, h3⟩ := ha
  refine ⟨h1, h2, ?_⟩
  rw [controlStop_ringOp (takeEntry_ringOp h)]
  rw [controlStop_ringOp (takeEntry_ringOp h)] at h3
  exact (controlStop_congr rfl rfl rfl).trans h3

theorem fn_ne_zero_of_admits {op : Nat} {h : Ctl} {a b : Bool} (ha : s.Admits op h .vf a b) : h.fn ≠ 0 := by
  intro h0
  obtain ⟨-, -, h3⟩ := ha
  unfold State.controlStop at h3
  split at h3
  · cases h3
  · split at h3
    · cases h3
    · rw [if_pos (.inr (by simp [Fns.allows, h0]))] at h3
      cases h3

/-- Outside a step the message is handled once its wait is taken away. -/
theorem exec_loadPlan {h : Ctl} {g : Image} {x : Placing} (ha : s.Admits 1 h .vf true false) (hi : s.inStep h.part = false) :
    exec (.loadPlan h g x) s = (match (let u := (s.loadTaken h.part).takeEntry h
        let r := u.imageChecks h.part h.len g
        if r.code ≠ 0 then (u, some (⟨resFAILED, 0, r.args⟩ : Answer))
        else
          match u.loadPlan h.part g x with
          | (v, r) =>
            if r.code ≠ 0 then (v, some ⟨resFAILED, 0, r.args⟩)
            else ((({ v with psec := tmod PSec.init v.psec h.part (fun y => { y with loaded := true }) } : State).putRecord h
              (({ v with psec := tmod PSec.init v.psec h.part (fun y => { y with loaded := true }) } : State).plan u.nextPlan).baseRecord).1,
              some ⟨resOK, u.nextPlan, r.args⟩)) with
      | (t, some a) => .next (t.answer 1 h a)
      | (t, none) => .next t) := by
  change execLoadPlan h g x s = _
  have hw : ¬ s.loadWaits h = true := by
    unfold State.loadWaits
    simp [hi]
  unfold execLoadPlan
  rw [if_neg hw, if_pos ⟨ha.2.1, fn_ne_zero_of_admits ha, ha.1⟩, control_admits (loadTaken_admits ha)] <;> rfl

/-- Settles O27: the branches of a load. -/
theorem planIsLoaded : Obligations.PlanIsLoaded := by
  unfold Obligations.PlanIsLoaded
  refine ⟨fun s w h g x x' r ev cores ha hi => ?_, fun s h g x ha hi => ?_, fun s h g x hw => if_pos hw⟩
  · intro u himg hplace hr hoth hev hbind
    refine ⟨_, _, rfl, rfl, (exec_loadPlan ha hi).trans ?_⟩
    have hload : ((s.loadTaken h.part).takeEntry h).loadPlan h.part g x =
        (({ w with nextPlan := w.nextPlan + 1 } : State).resident g h.part w.nextPlan x' cores, plainRes 0) := by
      unfold State.loadPlan
      simp only [show ((s.loadTaken h.part).takeEntry h).placeChecks h.part g x = (r, x', ev) from hplace]
      rw [if_neg (not_not.2 hr), if_neg (not_not.2 hoth)]
      simp only [show ((s.loadTaken h.part).takeEntry h).evictAll x'.sym ev x'.areas = (w, true) from hev, hbind]
    dsimp only
    rw [if_neg (not_not.2 himg), hload]
    rfl
  · intro u r hr
    refine (exec_loadPlan ha hi).trans ?_
    dsimp only
    rw [if_pos hr]

/-- Settles O28: the branches of an unload, a step, a weight load and an adapter load. -/
theorem plansAreUsed : Obligations.PlansAreUsed := by
  unfold Obligations.PlansAreUsed
  refine ⟨fun s h q ha hq hfree => ?_, fun s u h q areas sym vals ha hq hw hl hp => ?_, fun s u h sym q bs ha hq hl hn hp => ?_,
    fun s h q a id rank len expect i e ha => ?_⟩
  · change execUnloadPlan h s = _
    rw [execUnloadPlan, control_admits ha]
    simp only [hq]
    rw [if_neg hfree]
  · change execStep h areas sym s = _
    rw [execStep, control_admits ha]
    simp only [hq]
    rw [if_neg hw, if_neg (not_not.2 hl), hp]
  · have hlen : ¬ (h.len % 64 ≠ 0 ∨ h.len = 0) := by omega
    refine ⟨fun hf => ?_, fun hf => ?_⟩
    · change execWeightLoad h sym s = _
      rw [execWeightLoad, control_admits ha]
      simp only [hq]
      rw [if_neg hlen, hp]
      dsimp only
      rw [if_neg (by simpa using hf)]
    · change execWeightLoad h sym s = _
      rw [execWeightLoad, control_admits ha]
      simp only [hq]
      rw [if_neg hlen, hp]
      dsimp only
      rw [if_pos (by simpa using hf)]
  · intro u hq harea hrange hslot hload hok hkind hqps hstart hi
    refine ⟨_, rfl, ?_⟩
    change execAdapterLoad h id rank len expect e s = _
    rw [execAdapterLoad, control_admits ha]
    simp only [show ((s.takeEntry h).readDirs h.handle).handlePlan h = some q from hq,
      show (((s.takeEntry h).readDirs h.handle).plan h.handle).area = some a from harea]
    rw [if_neg hrange, if_neg (by rw [show ((s.takeEntry h).readDirs h.handle).adapterSlot h.handle id = none from hslot]; decide),
      if_neg (Bool.eq_false_iff.1 hload), if_neg (not_not.2 ⟨hok, hkind, hqps, hstart⟩)]
    simp only [show ((s.takeEntry h).readDirs h.handle).chooseSlot h.part h.handle a = some i from hi]
    rfl

end Sys2Proof.Machine
end

section
/-! SUPPORT. O30: the start of Ranuat and its live update (R370, R374, R408, R409). -/

namespace Sys2Proof.Machine

variable {s : State}

/-- A live update that waits goes on with its own message. -/
theorem exec_fwUpdate_own {x : Upd} (sigOk good : Bool) (hu : s.upd = some x) (hfn : x.ctl.fn ≤ 16) :
    exec (.fwUpdate x.ctl sigOk good) s = .next (s.updateStage x good) := by
  change execFwUpdate x.ctl sigOk good s = _
  unfold execFwUpdate
  rw [if_neg (not_not.2 hfn)]
  simp only [hu, if_true]

theorem regsBut_setFs {l : List (Fld × Nat)} (i : Nat) (hl : ∀ x ∈ l, x.1.lo + x.1.w ≤ 64) :
    s.RegsBut (s.setFs i l) (l.map fun x => (x.1, i)) := by
  induction l generalizing s with
  | nil => exact regsBut_refl s _
  | cons x l ih =>
    obtain ⟨hx, hl⟩ := List.forall_mem_cons.1 hl
    exact regsBut_trans (regsBut_setF s hx) (ih hl)

/-- Settles O30: the start, the stages of an update, and its ends. -/
theorem firmwareStarts : Obligations.FirmwareStarts := by
  unfold Obligations.FirmwareStarts
  refine ⟨fun s v hgo => ?_, fun s h good ha hu => ?_, fun s x hx ht hs => ?_, fun s x hx ht hs => ?_, fun s x sigOk good hx hfn hi ht => ?_,
    fun s x sigOk hx hfn hi ht hok => ?_, fun s svn iface digest slot hsvn hslot => ?_⟩
  · intro u len w hwait hcheck hves
    change execFwload v true s = _
    unfold execFwload
    dsimp only
    rw [if_neg (not_or.2 ⟨not_not.2 hgo, not_not.2 hwait⟩), if_neg (not_not.2 hcheck), if_neg (Bool.eq_false_iff.1 hves)]
  · intro u b hcheck hsvn hlock hpane hiface
    refine ⟨_, rfl, ?_⟩
    change execFwUpdate h true good s = _
    unfold execFwUpdate
    rw [if_neg (not_not.2 ha.1)]
    simp only [hu]
    rw [control_admits ha]
    have hc : (s.takeEntry h).fwCheck h.len true = fwOK := hcheck
    have hno : ¬ ((s.takeEntry h).fwCheck h.len true = fwOK ∧ fiSvn ((s.takeEntry h).fwBytes 0 64) < (s.takeEntry h).getF F.CTL_STATUS_SVN 0) :=
      fun h' => absurd h'.2 (Nat.not_lt.2 hsvn)
    have hfree : ¬ ((s.takeEntry h).lockBlocked 3 0 (s.takeEntry h).lockQ = true ∨ (s.takeEntry h).paneMoving = true) :=
      not_or.2 ⟨Bool.eq_false_iff.1 hlock, Bool.eq_false_iff.1 hpane⟩
    rw [if_neg hno, if_neg (not_not.2 hc), if_neg hfree, if_neg fun h' => h'.1 hiface]
  · change execUpdateDrainTimeout s = _
    unfold execUpdateDrainTimeout
    simp only [hx]
    exact if_neg (not_or.2 ⟨Bool.eq_false_iff.1 ht, Nat.not_lt.2 hs⟩)
  · have hex : exec .handoverTimeout s = .next (s.abandonUpdate.setF F.CTL_FWSTAT_RESULT 0 fwTIMEOUT) := by
      change execHandoverTimeout s = _
      unfold execHandoverTimeout
      simp only [hx]
      exact if_neg (not_or.2 ⟨not_not.2 ht, Nat.not_lt.2 hs⟩)
    refine ⟨_, hex, ?_, fun r i b hb => (regsBut_setF _ (by decide) r i b hb).symm⟩
    rw [getF_setF_same _ (by decide)]
    rfl
  · have hex := exec_fwUpdate_own sigOk good hx hfn
    unfold State.updateStage at hex
    rw [if_neg (not_not.2 hi), if_pos (Bool.eq_false_iff.1 ht)] at hex
    refine ⟨_, hex, ?_, rfl, rfl, regsBut_setF s (by decide)⟩
    show (s.setF F.CTL_STATUS_READY 0 0).flag F.CTL_STATUS_READY 0 = false
    rw [State.flag, getF_setF_same _ (by decide)]
    rfl
  · have hex := exec_fwUpdate_own sigOk true hx hfn
    unfold State.updateStage at hex
    rwa [if_neg (not_not.2 hi), if_neg (not_not.2 ht), if_neg (not_not.2 ⟨rfl, hok⟩)] at hex
  · intro t
    have hfields : ∀ x ∈ [(F.CTL_STATUS_SVN, svn), (F.CTL_STATUS_SLOT, slot), (F.CTL_STATUS_READY, 1), (F.CTL_FWSTAT_RESULT, fwOK)],
        t.getF x.1 0 = x.2 % 2 ^ x.1.w := by
      intro x hx
      have hr : x.1.reg ≠ .CTL_CDIG := by
        simp only [List.mem_cons, List.not_mem_nil, or_false] at hx
        rcases hx with rfl | rfl | rfl | rfl <;> exact nofun
      refine (getF_setF_apart _ (by decide) (.inl hr)).trans (getF_setFs_of_mem _ 0 ?_ ?_ hx)
      · simp [F.CTL_STATUS_SVN, F.CTL_STATUS_SLOT, F.CTL_STATUS_READY, F.CTL_FWSTAT_RESULT]
      · simp [Fld.Apart, F.CTL_STATUS_SVN, F.CTL_STATUS_SLOT, F.CTL_STATUS_READY, F.CTL_FWSTAT_RESULT]
    have hframe : t = { s with fw := s.fwOf svn iface digest, fwrun := s.fwin, fwin := s.fwrun, regs := t.regs } := by
      show (State.setF (State.setFs _ 0 _) _ _ _) = _
      rw [setFs_regs]
      rfl
    refine ⟨by rw [hframe], by rw [hframe], by rw [hframe]; rfl, by rw [hframe]; rfl, ?_, ?_, ?_, ?_, ?_⟩
    · exact congrArg (· != 0) (hfields (F.CTL_STATUS_READY, 1) (by simp))
    · exact (hfields (F.CTL_STATUS_SVN, svn) (by simp)).trans (Nat.mod_eq_of_lt hsvn)
    · exact (hfields (F.CTL_STATUS_SLOT, slot) (by simp)).trans (Nat.mod_eq_of_lt hslot)
    · exact hfields (F.CTL_FWSTAT_RESULT, fwOK) (by simp)
    · have h0 : s.RegsBut ({ s with fw := s.fwOf svn iface digest, fwrun := s.fwin, fwin := s.fwrun } : State) [] := fun _ _ _ _ => rfl
      refine regsBut_mono (regsBut_trans h0 (regsBut_trans (regsBut_setFs (l := [(F.CTL_STATUS_SVN, svn), (F.CTL_STATUS_SLOT, slot),
        (F.CTL_STATUS_READY, 1), (F.CTL_FWSTAT_RESULT, fwOK)]) 0 ?_) (regsBut_setF _ (f := F.CTL_CDIG_DIGEST) (by decide)))) ?_
      · simp [F.CTL_STATUS_SVN, F.CTL_STATUS_SLOT, F.CTL_STATUS_READY, F.CTL_FWSTAT_RESULT]
      · simp

end Sys2Proof.Machine
end

section
/-! SUPPORT. An access to memory in RUN through a channel that serves: what the granule operations write, poison, count and record. -/

namespace Sys2Proof.Machine

variable {s t : State} {a g p sym off : Nat} {bs data : List Byte}

/-! ## What the granule operations keep -/

theorem tget_tmod_same {α : Type} [DecidableEq α] (d : α) (l : Tbl α) (k : Nat) (f : α → α) :
    tget d (tmod d l k f) k = f (tget d l k) := tget_tset_same _ _ _ _

/-- The state with other partitions' step records. -/
def State.withParts (s : State) (ps : Tbl Part) : State := { s with parts := ps }

theorem markAt_eq (s : State) (a : Nat) : s.markAt a = s.withParts (s.markAt a).parts := by
  unfold State.markAt State.markUnplanned
  split
  · split <;> rfl
  · rfl

theorem memErrRec_eq (s : State) (cause a : Nat) : s.memErrRec cause a = { s with regs := (s.memErrRec cause a).regs } := by
  unfold State.memErrRec
  split <;> rfl

theorem memErr_eq (s : State) (cause a : Nat) : s.memErr cause a =
    { s with regs := (s.memErr cause a).regs, log := (s.memErr cause a).log, pldm := (s.memErr cause a).pldm } := by
  unfold State.memErr
  dsimp only
  split
  · rw [memErrRec_eq]
  · rw [memErrRec_eq, State.logNote, State.logPush]
    split <;> rfl

/-- The first free error record: the address, the partition and the cause. -/
structure State.Recorded (t : State) (cause a p : Nat) : Prop where
  valid : t.flag F.MEM_ERR_VALID 0 = true
  cause : t.getF F.MEM_ERR_CAUSE 0 = cause
  addr : t.getF F.MEM_ERR_ADDR_ADDR 0 = a
  partition : t.getF F.MEM_ERR_PARTITION 0 = p % 2 ^ F.MEM_ERR_PARTITION.w

theorem State.Recorded.of_regs {u : State} {cause : Nat} (h : t.Recorded cause a p) (e : u.regs = t.regs) : u.Recorded cause a p := by
  have hg : ∀ f i, u.getF f i = t.getF f i := fun f i => by unfold State.getF State.rdReg; rw [e]
  exact ⟨by rw [State.flag, hg]; exact h.valid, by rw [hg, h.cause], by rw [hg, h.addr], by rw [hg, h.partition]⟩

theorem getF_logNote {f : Fld} (h : f.reg ≠ .CTL_LOG) (sev code part : Nat) (args : List Nat) (i : Nat) :
    (s.logNote sev code part args).getF f i = s.getF f i := by
  unfold State.logNote State.logPush
  dsimp only
  split
  · rfl
  · exact getF_setF_apart s (by decide) (.inl h)

theorem memErr_records {cause : Nat} (hv : s.flag F.MEM_ERR_VALID 0 = false) (hc : cause < 256) (hg : g < 2 ^ 42) :
    (s.memErr cause (g * 64)).Recorded cause (64 * g) ((s.ownerOf (g * 64)).getD 0) := by
  have hr : ∀ (f : Fld) (x : Nat), f.reg = .MEM_ERR ∨ f.reg = .MEM_ERR_ADDR →
      (s.memErrRec cause (g * 64)).getF f 0 = x → (s.memErr cause (g * 64)).getF f 0 = x := by
    intro f x hf h
    rw [State.memErr, if_neg (by simp [hv]), getF_logNote (by rcases hf with e | e <;> rw [e] <;> decide), h]
  have hrec : ∀ x ∈ [(F.MEM_ERR_PARTITION, (s.ownerOf (g * 64)).getD 0), (F.MEM_ERR_CAUSE, cause), (F.MEM_ERR_VALID, 1)],
      (s.memErrRec cause (g * 64)).getF x.1 0 = x.2 % 2 ^ x.1.w := by
    intro x hx
    have hreg : x.1.reg = .MEM_ERR := by
      simp only [List.mem_cons, List.not_mem_nil, or_false] at hx
      rcases hx with rfl | rfl | rfl <;> rfl
    rw [State.memErrRec, if_neg (by simp [hv]), getF_setF_apart _ (by decide) (.inl (by rw [hreg]; decide))]
    refine getF_setFs_of_mem s 0 ?_ ?_ ?_
    · simp [F.MEM_ERR_CHANNEL, F.MEM_ERR_PARTITION, F.MEM_ERR_TIER, F.MEM_ERR_CAUSE, F.MEM_ERR_VALID]
    · simp [F.MEM_ERR_CHANNEL, F.MEM_ERR_PARTITION, F.MEM_ERR_TIER, F.MEM_ERR_CAUSE, F.MEM_ERR_VALID, Fld.Apart]
    · generalize (s.ownerOf (g * 64)).getD 0 = q at hx ⊢
      simp only [List.mem_cons, List.not_mem_nil, or_false] at hx ⊢
      rcases hx with rfl | rfl | rfl
      · exact .inr (.inl rfl)
      · exact .inr (.inr (.inr (.inl rfl)))
      · exact .inr (.inr (.inr (.inr rfl)))
  refine ⟨?_, ?_, ?_, ?_⟩
  · rw [State.flag, hr _ 1 (.inl rfl) (hrec (F.MEM_ERR_VALID, 1) (by simp))]
    rfl
  · exact hr _ _ (.inl rfl) ((hrec (F.MEM_ERR_CAUSE, cause) (by simp)).trans (Nat.mod_eq_of_lt hc))
  · refine hr _ _ (.inr rfl) ?_
    rw [State.memErrRec, if_neg (by simp [hv])]
    refine (getF_setF_same _ (by decide)).trans ?_
    rw [Nat.mul_div_cancel _ (by decide), Nat.mul_comm]
    exact Nat.mod_eq_of_lt (show 64 * g < 2 ^ 48 by omega)
  · exact hr _ _ (.inl rfl) (hrec (F.MEM_ERR_PARTITION, _) (List.mem_cons_self ..))

theorem gran'_setGran_same (x : Gran) : (s.setGran g x).gran' g = x := tget_tset_same _ _ _ _

theorem gran'_setGran_ne (x : Gran) {h : Nat} (hh : h ≠ g) : (s.setGran g x).gran' h = s.gran' h := tget_tset_ne _ _ _ hh

theorem flaw_setFlaw_same (k : Nat) : (s.setFlaw g k).flaw g = k := tget_tset_same _ _ _ _

theorem flaw_setFlaw_ne (k : Nat) {h : Nat} (hh : h ≠ g) : (s.setFlaw g k).flaw h = s.flaw h := tget_tset_ne _ _ _ hh

theorem poisonAs_gran_same (cause : Nat) : (s.poisonAs cause g).gran' g = { s.gran' g with poison := true } := gran'_setGran_same _

theorem poisonAs_gran_ne (cause : Nat) {h : Nat} (hh : h ≠ g) : (s.poisonAs cause g).gran' h = s.gran' h := by
  refine (gran'_setGran_ne _ hh).trans ?_
  rw [memErr_eq]
  rfl

/-! ## The access -/

/-- In RUN with the channel of the granule serving, the access is the granule's own. -/
theorem memAccess_exec (wr : Bool) (hg : g < 2 ^ 42) (hn : off + data.length ≤ 64)
    (hp : s.place (64 * g) = .hbm ∨ s.place (64 * g) = .cellar ∨ s.place (64 * g) = .unmapped) (hr : s.refreshing (64 * g) = false)
    (hd : s.dark = false) (hw : s.getF F.PWR_STATUS_STATE 0 = 0) :
    exec (.memAccess g wr off data sym) s =
      .next (((if wr then (s.markAt (64 * g)).writePart g off sym data else (s.markAt (64 * g)).readGran g sym).1).busError
        (if wr then (s.markAt (64 * g)).writePart g off sym data else (s.markAt (64 * g)).readGran g sym).2) := by
  change execMemAccess g wr off data sym s = _
  unfold execMemAccess
  rw [if_neg (not_not.2 ⟨hg, hn⟩)]
  simp only [hd, hr, hw]
  rcases hp with e | e | e <;> rw [e] <;> rfl

theorem not_refreshing (ho : s.ownerOf (64 * g) = some p)
    (hc : tget 0 s.unavail ((s.chanOf p (64 * g)).1 + 256 * (s.chanOf p (64 * g)).2) ≤ s.now) : s.refreshing (64 * g) = false := by
  unfold State.refreshing
  rw [ho]
  exact decide_eq_false (Nat.not_lt.2 hc)

theorem windowAccess_exec {n o : Nat} (wr : Bool) (hg : g < 2 ^ 42) (hn : off + data.length ≤ 64) (hp : s.place (64 * g) = .window n o)
    (hr : s.refreshing (64 * g) = false) (hd : s.dark = false) (hw : s.getF F.PWR_STATUS_STATE 0 = 0) :
    exec (.memAccess g wr off data sym) s = .next (s.windowAccess n (64 * g) off wr data) := by
  change execMemAccess g wr off data sym s = _
  unfold execMemAccess
  rw [if_neg (not_not.2 ⟨hg, hn⟩)]
  simp only [hd, hr, hw, hp]
  rfl

/-! ## Writes -/

theorem writeGran_ok (ho : s.ownerOf (g * 64) = some p) (hk : (s.key p).revoked = false) (hl : bs.length = 64) :
    s.writeGran g bs = ((((s.serve1 p (g * 64)).setBytes (g * 64) bs).setGran g ⟨(s.key p).id, false⟩).setFlaw g 0, .ok []) := by
  unfold State.writeGran
  simp only [ho]
  rw [if_neg (show ¬ ((s.serve1 p (g * 64)).key p).revoked = true by rw [show (s.serve1 p (g * 64)).key p = s.key p from rfl, hk]; decide)]
  rw [padTo, ← hl, List.take_length, Nat.sub_self, List.replicate_zero, List.append_nil]
  rfl

theorem writePart_whole (hl : bs.length = 64) : s.writePart g 0 sym bs = s.writeGran g bs := if_pos ⟨rfl, hl⟩

theorem writePart_revoked (ho : s.ownerOf (g * 64) = some p) (hk : (s.key p).revoked = true) :
    s.writePart g off sym bs = (s.serve1 p (g * 64), .refused causeKEY) := by
  unfold State.writePart State.writeGran
  simp only [ho]
  have hk' : ((s.serve1 p (g * 64)).key p).revoked = true := hk
  by_cases hf : off = 0 ∧ bs.length = 64
  · rw [if_pos hf, if_pos hk']
  · rw [if_neg hf, if_pos hk']

theorem writePart_poisons (hf : ¬ (off = 0 ∧ bs.length = 64)) (ho : s.ownerOf (g * 64) = some p) (hk : (s.key p).revoked = false)
    (hb : (s.gran' g).poison = true ∨ 4 ≤ s.errors g sym) :
    s.writePart g off sym bs = ((s.serve1 p (g * 64)).poisonAs causePARTIAL_POISON g, .refused causePARTIAL_POISON) := by
  unfold State.writePart
  rw [if_neg hf]
  simp only [ho]
  rw [if_neg (show ¬ ((s.serve1 p (g * 64)).key p).revoked = true by rw [show (s.serve1 p (g * 64)).key p = s.key p from rfl, hk]; decide)]
  exact if_pos hb

theorem plain_owned (hx : (s.gran' g).key = 0 ∨ (s.gran' g).key = (s.key p).id) : s.plain p g = (s, s.bytes (g * 64) 64) := if_pos hx

theorem countCorr_eq (s : State) (p g k : Nat) : s.countCorr p g k = { s with regs := (s.countCorr p g k).regs } := by
  unfold State.countCorr
  split
  · rfl
  · split <;> rfl

theorem length_patch (h : off + data.length ≤ bs.length) : (patch bs off data).length = bs.length := by
  simp only [patch, List.length_append, List.length_take, List.length_drop]
  omega

/-- An access moves no block of memory. -/
theorem State.MemOp.ownerOf (h : s.MemOp t) (a : Nat) : t.ownerOf a = s.ownerOf a := by
  unfold State.ownerOf State.owns State.hbmBlock State.cellarBlock State.cellarCap State.cellarChans State.flag
  simp only [h.regs F.MEM_PHBM_EN _ (by decide), h.regs F.MEM_PHBM_FIRST _ (by decide), h.regs F.MEM_PHBM_LOG2C _ (by decide),
    h.regs F.MEM_PCEL_EN _ (by decide), h.regs F.MEM_PCEL_FIRST _ (by decide), h.regs F.MEM_PCEL_LOG2C _ (by decide),
    h.regs F.MEM_STATUS_CELLAR_MAP _ (by decide), h.regs F.CTL_FEAT4_CELLAR_GIB _ (by decide)]

theorem writePart_patches (hf : ¬ (off = 0 ∧ bs.length = 64)) (hn : off + bs.length ≤ 64) (ho : s.ownerOf (g * 64) = some p)
    (hk : (s.key p).revoked = false) (hb : (s.gran' g).poison = false) (he : s.errors g sym < 4)
    (hx : (s.gran' g).key = 0 ∨ (s.gran' g).key = (s.key p).id) : ∃ u : State, u = { s with regs := u.regs, served := u.served } ∧
      s.writePart g off sym bs = (((u.setBytes (g * 64) (patch (s.bytes (g * 64) 64) off bs)).setGran g ⟨(s.key p).id, false⟩).setFlaw g 0, .ok []) := by
  have hs : s.writePart g off sym bs = ((s.serve1 p (g * 64)).countCorr p g (s.errors g sym)).writeGran g
      (patch (s.bytes (g * 64) 64) off bs) := by
    unfold State.writePart
    rw [if_neg hf]
    simp only [ho]
    rw [if_neg (show ¬ ((s.serve1 p (g * 64)).key p).revoked = true by rw [show (s.serve1 p (g * 64)).key p = s.key p from rfl, hk]; decide)]
    rw [if_neg (show ¬ (((s.serve1 p (g * 64)).gran' g).poison = true ∨ 4 ≤ (s.serve1 p (g * 64)).errors g sym) from fun h =>
      h.elim (fun h => by rw [show (s.serve1 p (g * 64)).gran' g = s.gran' g from rfl, hb] at h; exact absurd h (by decide)) (Nat.not_le.2 he))]
    rw [show (s.serve1 p (g * 64)).errors g sym = s.errors g sym from rfl,
      plain_owned (by rw [countCorr_eq]; exact hx), show ((s.serve1 p (g * 64)).countCorr p g (s.errors g sym)).bytes (g * 64) 64 =
        s.bytes (g * 64) 64 from bytes_congr fun x _ _ => by rw [countCorr_eq]; rfl]
  rw [hs, writeGran_ok (p := p) (((State.MemOp.serve1 p _).trans (State.MemOp.countCorr p g _)).ownerOf _ |>.trans ho) (by rw [countCorr_eq]; exact hk) (by
    rw [length_patch (by rw [bytes_length]; exact hn), bytes_length])]
  refine ⟨((s.serve1 p (g * 64)).countCorr p g (s.errors g sym)).serve1 p (g * 64), ?_, ?_⟩
  · rw [countCorr_eq]; rfl
  · rw [show ((s.serve1 p (g * 64)).countCorr p g (s.errors g sym)).key p = s.key p by rw [countCorr_eq]; rfl]

theorem busError_kept {c : Nat} (h : c ≠ causeUNMAPPED) : s.busError (.refused c) = s := if_neg h

/-- The conditions of an access to a granule of HBM or cellar. -/
structure State.Serves (s : State) (g p : Nat) : Prop where
  granule : g < 2 ^ 42
  place : s.place (64 * g) = .hbm ∨ s.place (64 * g) = .cellar
  owner : s.ownerOf (64 * g) = some p
  light : s.dark = false
  run : s.getF F.PWR_STATUS_STATE 0 = 0
  serving : tget 0 s.unavail ((s.chanOf p (64 * g)).1 + 256 * (s.chanOf p (64 * g)).2) ≤ s.now

theorem write_exec (h : s.Serves g p) (hn : off + data.length ≤ 64) : ∃ ps, exec (.memAccess g true off data sym) s =
    .next (((s.withParts ps).writePart g off sym data).1.busError
      ((s.withParts ps).writePart g off sym data).2) := by
  refine ⟨(s.markAt (64 * g)).parts, ?_⟩
  rw [← markAt_eq]
  exact memAccess_exec true h.granule hn (h.place.imp_right .inl) (not_refreshing h.owner h.serving) h.light h.run

theorem read_exec (h : s.Serves g p) : ∃ ps, exec (.memAccess g false 0 [] sym) s =
    .next (((s.withParts ps).readGran g sym).1.busError ((s.withParts ps).readGran g sym).2) := by
  refine ⟨(s.markAt (64 * g)).parts, ?_⟩
  rw [← markAt_eq]
  exact memAccess_exec false h.granule (by simp) (h.place.imp_right .inl) (not_refreshing h.owner h.serving) h.light h.run

theorem State.Serves.owner' (h : s.Serves g p) : s.ownerOf (g * 64) = some p := by rw [Nat.mul_comm]; exact h.owner

theorem write_whole (h : s.Serves g p) (hl : data.length = 64) (hk : (s.key p).revoked = false) :
    ∃ t, exec (.memAccess g true 0 data sym) s = .next t ∧ t.bytes (64 * g) 64 = data ∧ s.BytesBut t (64 * g) 64 ∧
      t.gran' g = ⟨(s.key p).id, false⟩ ∧ t.flaw g = 0 ∧ (∀ h, h ≠ g → t.gran' h = s.gran' h ∧ t.flaw h = s.flaw h) ∧
      t.regs = s.regs := by
  obtain ⟨ps, he⟩ := write_exec (sym := sym) h (show 0 + data.length ≤ 64 by omega)
  rw [writePart_whole hl, writeGran_ok (s := s.withParts ps) (p := p) h.owner' hk hl] at he
  refine ⟨_, he, ?_, fun b hb => ?_, ?_, flaw_setFlaw_same 0, fun x hx => ⟨?_, ?_⟩, ?_⟩
  · have := bytes_setBytes_same ((s.withParts ps).serve1 p (g * 64)) (g * 64) data
    rw [hl] at this
    rw [Nat.mul_comm 64]
    exact this
  · refine (byte_setBytes _ _ b data).trans (if_neg (by omega))
  · exact gran'_setGran_same _
  · refine (gran'_setGran_ne _ hx).trans ?_
    rw [setBytes_frame]
    rfl
  · refine (flaw_setFlaw_ne _ hx).trans ?_
    rw [setBytes_frame]
    rfl
  · rw [setBytes_frame]
    rfl

theorem getD_patch {i : Nat} (h : off + data.length ≤ bs.length) (hi : i < off ∨ off + data.length ≤ i) :
    (patch bs off data).getD i 0 = bs.getD i 0 := by
  rcases hi with hi | hi
  · rw [patch, List.append_assoc, List.getD_append _ _ _ _ (by simp; omega), List.getD_eq_getElem?_getD, List.getD_eq_getElem?_getD,
      List.getElem?_take_of_lt hi]
  · rw [patch, List.getD_append_right _ _ _ _ (by simp; omega), List.getD_eq_getElem?_getD, List.getD_eq_getElem?_getD, List.getElem?_drop]
    congr 2
    simp
    omega

theorem getD_patch_new {i : Nat} (h : off + data.length ≤ bs.length) (hi : i < data.length) :
    (patch bs off data).getD (off + i) 0 = data.getD i 0 := by
  have ht : (bs.take off).length = off := by simp; omega
  rw [patch, List.append_assoc, List.getD_append_right _ _ _ _ (by omega), ht, Nat.add_sub_cancel_left, List.getD_append _ _ _ _ hi]

theorem getD_bytes {n i : Nat} (hi : i < n) : (s.bytes a n).getD i 0 = s.byte (a + i) := by
  induction n generalizing a i with
  | zero => omega
  | succ n ih =>
    cases i with
    | zero => rfl
    | succ i =>
      rw [State.bytes, List.getD_cons_succ, ih (by omega)]
      congr 1
      omega

theorem write_patches (h : s.Serves g p) (hn : off + data.length ≤ 64) (hf : ¬ (off = 0 ∧ data.length = 64))
    (hk : (s.key p).revoked = false) (hb : (s.gran' g).poison = false) (he : s.errors g sym < 4)
    (hx : (s.gran' g).key = 0 ∨ (s.gran' g).key = (s.key p).id) :
    ∃ t, exec (.memAccess g true off data sym) s = .next t ∧ t.bytes (64 * g + off) data.length = data ∧
      s.BytesBut t (64 * g + off) data.length ∧ t.gran' g = ⟨(s.key p).id, false⟩ ∧ t.flaw g = 0 := by
  obtain ⟨ps, hexec⟩ := write_exec (sym := sym) h hn
  obtain ⟨u, hu, hw⟩ := writePart_patches (s := s.withParts ps) hf hn h.owner' hk hb he hx
  rw [hw] at hexec
  have hlen : off + data.length ≤ (s.bytes (g * 64) 64).length := by rw [bytes_length]; exact hn
  have hbyte : ∀ b, (u.setBytes (g * 64) (patch (s.bytes (g * 64) 64) off data)).byte b =
      if g * 64 + off ≤ b ∧ b < g * 64 + off + data.length then data.getD (b - (g * 64 + off)) 0 else s.byte b := by
    intro b
    have hub : u.byte b = s.byte b := by rw [hu]; rfl
    rw [byte_setBytes, length_patch hlen, bytes_length, hub]
    by_cases hin : g * 64 + off ≤ b ∧ b < g * 64 + off + data.length
    · rw [if_pos (by omega), if_pos hin, show b - g * 64 = off + (b - (g * 64 + off)) by omega, getD_patch_new hlen (by omega)]
    · rw [if_neg hin]
      by_cases hg : g * 64 ≤ b ∧ b < g * 64 + 64
      · rw [if_pos hg, getD_patch hlen (by omega), getD_bytes (by omega)]
        congr 1
        omega
      · rw [if_neg hg]
  refine ⟨_, hexec, ?_, fun b hb => ?_, gran'_setGran_same _, flaw_setFlaw_same 0⟩
  · refine Eq.trans ?_ (bytes_setBytes_same s (64 * g + off) data)
    refine bytes_congr fun x h1 h2 => ?_
    refine (hbyte x).trans ?_
    rw [byte_setBytes, Nat.mul_comm g]
  · exact (hbyte b).trans (if_neg (by omega))

theorem write_poisons (h : s.Serves g p) (hn : off + data.length ≤ 64) (hf : ¬ (off = 0 ∧ data.length = 64))
    (hk : (s.key p).revoked = false) (hb : (s.gran' g).poison = true ∨ 4 ≤ s.errors g sym) (hv : s.flag F.MEM_ERR_VALID 0 = false) :
    ∃ t, exec (.memAccess g true off data sym) s = .next t ∧ t.mem = s.mem ∧ t.gran' g = { s.gran' g with poison := true } ∧
      (∀ h, h ≠ g → t.gran' h = s.gran' h) ∧ t.flag F.MEM_ERR_VALID 0 = true ∧
      t.getF F.MEM_ERR_CAUSE 0 = causePARTIAL_POISON ∧ t.getF F.MEM_ERR_ADDR_ADDR 0 = 64 * g := by
  obtain ⟨ps, he⟩ := write_exec (sym := sym) h hn
  rw [writePart_poisons (s := s.withParts ps) hf h.owner' hk hb, busError_kept (by decide)] at he
  have hr : (((s.withParts ps).serve1 p (g * 64)).poisonAs causePARTIAL_POISON g).Recorded causePARTIAL_POISON (64 * g) _ :=
    (memErr_records (s := (s.withParts ps).serve1 p (g * 64)) hv (by decide) h.granule).of_regs rfl
  exact ⟨_, he, poisonAs_mem _ _ _, poisonAs_gran_same _, fun x hx => poisonAs_gran_ne _ hx, hr.valid, hr.cause, hr.addr⟩

theorem write_revoked (h : s.Serves g p) (hn : off + data.length ≤ 64) (hk : (s.key p).revoked = true) :
    ∃ t, exec (.memAccess g true off data sym) s = .next t ∧ t.mem = s.mem ∧ t.gran = s.gran ∧ t.flaws = s.flaws ∧ t.regs = s.regs := by
  obtain ⟨ps, he⟩ := write_exec (sym := sym) h hn
  rw [writePart_revoked (s := s.withParts ps) h.owner' hk, busError_kept (by decide)] at he
  exact ⟨_, he, rfl, rfl, rfl, rfl⟩

theorem spadAddr_of_window {n o : Nat} (h : s.place a = .window n o) : spadAddr n ((a - windowBase) % windowStride) = a := by
  unfold State.place at h
  split at h
  · simp at h
  · split at h
    · simp at h
    · split at h
      · next hw =>
        dsimp only at h
        split at h
        · obtain ⟨rfl, rfl⟩ := Place.window.inj h
          rw [spadAddr]
          have := Nat.div_add_mod' (a - windowBase) windowStride
          omega
        · simp at h
      · split at h <;> simp at h

theorem window_writes {n o : Nat} (hg : g < 2 ^ 42) (hn : off + data.length ≤ 64) (hp : s.place (64 * g) = .window n o)
    (hr : s.refreshing (64 * g) = false) (hd : s.dark = false) (hw : s.getF F.PWR_STATUS_STATE 0 = 0) (hc : s.coreIn n = false) :
    ∃ t, exec (.memAccess g true off data sym) s = .next t ∧ t = { s with mem := t.mem } ∧
      t.bytes (64 * g + off) data.length = data ∧ s.BytesBut t (64 * g + off) data.length := by
  have he := windowAccess_exec (sym := sym) true hg hn hp hr hd hw
  rw [State.windowAccess, hc, if_neg (by decide), if_pos rfl, State.setSpad,
    show spadAddr n ((64 * g - windowBase) % windowStride + off) = 64 * g + off from
      (Nat.add_assoc ..).symm.trans (congrArg (· + off) (spadAddr_of_window hp))] at he
  exact ⟨_, he, setBytes_frame _ _, bytes_setBytes_same _ _ _, fun b hb => (byte_setBytes _ _ b data).trans (if_neg (by omega))⟩

/-! ## Reads -/

/-- A read corrects and counts up to three symbols. -/
theorem read_corrects (h : s.Serves g p) (hk : (s.key p).revoked = false) (hb : (s.gran' g).poison = false) (h1 : 1 ≤ s.errors g sym)
    (h4 : s.errors g sym < 4) :
    ∃ t f, exec (.memAccess g false 0 [] sym) s = .next t ∧
      f = (if (s.chanOf p (64 * g)).2 = 0 then F.MEM_ECC_HBM_CE else F.MEM_ECC_CEL_CE) ∧
      t.getF f 0 = satAdd f.w (s.getF f 0) 1 ∧ s.RegsBut t [(f, 0)] ∧ t.mem = s.mem ∧ t.gran = s.gran ∧
      t.flaw g = s.errors g sym := by
  obtain ⟨ps, he⟩ := read_exec (sym := sym) h
  set f := if (s.chanOf p (64 * g)).2 = 0 then F.MEM_ECC_HBM_CE else F.MEM_ECC_CEL_CE with hf
  have hfw : f.lo + f.w ≤ 64 ∧ 0 < f.w := by rw [hf]; split <;> decide
  set v := (s.withParts ps).serve1 p (g * 64) with hv
  have hcount : v.countCorr p g (s.errors g sym) = v.addF f 0 1 := by
    rw [State.countCorr, if_neg (by omega), hf, Nat.mul_comm 64]
    change (if (s.chanOf p (g * 64)).2 = 0 then _ else _) = _
    split <;> rfl
  have hread : (s.withParts ps).readGran g sym = ((((v.addF f 0 1).setFlaw g (s.errors g sym)).plain p g).1,
      .ok (((v.addF f 0 1).setFlaw g (s.errors g sym)).plain p g).2) := by
    unfold State.readGran
    simp only [show (s.withParts ps).ownerOf (g * 64) = some p from h.owner']
    rw [← hv, show v.key p = s.key p from rfl, show v.gran' g = s.gran' g from rfl, show v.errors g sym = s.errors g sym from rfl,
      if_neg (by rw [hk]; decide), if_neg (by rw [hb]; decide), if_neg (by omega), hcount]
  rw [hread] at he
  have hplain : ∀ w : State, (w.plain p g).1 = { w with free := (w.plain p g).1.free } := fun w => by unfold State.plain; dsimp only; split <;> rfl
  refine ⟨_, f, he, rfl, ?_, ?_, ?_, ?_, ?_⟩
  · rw [hplain]
    exact (getF_setF_same v hfw.1).trans (Nat.mod_eq_of_lt (by
      have := Nat.two_pow_pos f.w
      unfold satAdd; omega))
  · rw [hplain]
    exact fun r i b hb => regsBut_setF v hfw.1 r i b hb
  · rw [hplain]; rfl
  · rw [hplain]; rfl
  · rw [hplain]; exact flaw_setFlaw_same _

/-- What a read that is refused and recorded leaves. -/
structure State.ReadRecorded (s t : State) (cause a p : Nat) : Prop where
  mem : t.mem = s.mem
  gran : t.gran = s.gran
  flaws : t.flaws = s.flaws
  recorded : t.Recorded cause a p

theorem memErr_readRecorded (h : s.Serves g p) {cause : Nat} {u : State} (hc : cause < 256)
    (hu : ∃ ps, u = (s.withParts ps).serve1 p (g * 64)) (hv : s.flag F.MEM_ERR_VALID 0 = false) :
    s.ReadRecorded (u.memErr cause (g * 64)) cause (64 * g) p := by
  obtain ⟨ps, rfl⟩ := hu
  have hr := memErr_records (s := (s.withParts ps).serve1 p (g * 64)) hv hc h.granule
  rw [show ((s.withParts ps).serve1 p (g * 64)).ownerOf (g * 64) = some p from h.owner'] at hr
  refine ⟨?_, ?_, ?_, hr⟩ <;> rw [memErr_eq] <;> rfl

theorem readGran_revoked (ho : s.ownerOf (g * 64) = some p) (hk : (s.key p).revoked = true) :
    s.readGran g sym = ((s.serve1 p (g * 64)).memErr causeKEY (g * 64), .refused causeKEY) := by
  unfold State.readGran
  simp only [ho]
  exact if_pos hk

theorem readGran_poisoned (ho : s.ownerOf (g * 64) = some p) (hk : (s.key p).revoked = false) (hb : (s.gran' g).poison = true) :
    s.readGran g sym = ((s.serve1 p (g * 64)).memErr causePOISON_READ (g * 64), .refused causePOISON_READ) := by
  unfold State.readGran
  simp only [ho]
  rw [if_neg (show ¬ ((s.serve1 p (g * 64)).key p).revoked = true by rw [show (s.serve1 p (g * 64)).key p = s.key p from rfl, hk]; decide)]
  exact if_pos hb

theorem readGran_poisons (ho : s.ownerOf (g * 64) = some p) (hk : (s.key p).revoked = false) (hb : (s.gran' g).poison = false)
    (h4 : 4 ≤ s.errors g sym) :
    s.readGran g sym = ((s.serve1 p (g * 64)).poisonAs causeUNCORR_READ g, .refused causeUNCORR_READ) := by
  unfold State.readGran
  simp only [ho]
  rw [if_neg (show ¬ ((s.serve1 p (g * 64)).key p).revoked = true by rw [show (s.serve1 p (g * 64)).key p = s.key p from rfl, hk]; decide),
    if_neg (show ¬ ((s.serve1 p (g * 64)).gran' g).poison = true by
      rw [show (s.serve1 p (g * 64)).gran' g = s.gran' g from rfl, hb]; decide)]
  exact if_pos h4

theorem read_poisons (h : s.Serves g p) (hk : (s.key p).revoked = false) (hb : (s.gran' g).poison = false) (h4 : 4 ≤ s.errors g sym)
    (hv : s.flag F.MEM_ERR_VALID 0 = false) :
    ∃ t, exec (.memAccess g false 0 [] sym) s = .next t ∧ t.mem = s.mem ∧ (t.gran' g).poison = true ∧
      t.flag F.MEM_ERR_VALID 0 = true ∧ t.getF F.MEM_ERR_CAUSE 0 = 1 ∧ t.getF F.MEM_ERR_ADDR_ADDR 0 = 64 * g ∧
      t.getF F.MEM_ERR_PARTITION 0 = p % 2 ^ F.MEM_ERR_PARTITION.w ∧ (∀ h, h ≠ g → t.gran' h = s.gran' h) := by
  obtain ⟨ps, he⟩ := read_exec (sym := sym) h
  rw [readGran_poisons (s := s.withParts ps) h.owner' hk hb h4, busError_kept (by decide)] at he
  have hr : (((s.withParts ps).serve1 p (g * 64)).poisonAs causeUNCORR_READ g).Recorded causeUNCORR_READ (64 * g) p :=
    (memErr_readRecorded h (by decide) ⟨ps, rfl⟩ hv).recorded.of_regs rfl
  refine ⟨_, he, poisonAs_mem _ _ _, ?_, hr.valid, hr.cause, hr.addr, hr.partition, fun x hx => poisonAs_gran_ne _ hx⟩
  exact congrArg Gran.poison (poisonAs_gran_same (s := (s.withParts ps).serve1 p (g * 64)) (g := g) causeUNCORR_READ)

theorem read_unmapped (hg : g < 2 ^ 42) (hp : s.place (64 * g) = .unmapped) (ho : s.ownerOf (64 * g) = none) (hd : s.dark = false)
    (hw : s.getF F.PWR_STATUS_STATE 0 = 0) (hv : s.flag F.MEM_ERR_VALID 0 = false) :
    ∃ t, exec (.memAccess g false 0 [] sym) s = .next t ∧ t.mem = s.mem ∧ t.busErrs = s.busErrs + 1 ∧
      t.flag F.MEM_ERR_VALID 0 = true ∧ t.getF F.MEM_ERR_CAUSE 0 = 6 ∧ t.getF F.MEM_ERR_ADDR_ADDR 0 = 64 * g := by
  have he := memAccess_exec (data := []) (off := 0) (sym := sym) false hg (by simp) (.inr (.inr hp)) (by rw [State.refreshing, ho]) hd hw
  rw [show s.markAt (64 * g) = s by rw [State.markAt, ho]] at he
  rw [show s.readGran g sym = (s.memErr causeUNMAPPED (g * 64), .refused causeUNMAPPED) by
    unfold State.readGran; simp only [Nat.mul_comm g, ho]] at he
  have hr : ((s.memErr causeUNMAPPED (g * 64)).busError (.refused causeUNMAPPED)).Recorded causeUNMAPPED (64 * g) _ :=
    (memErr_records hv (by decide) hg).of_regs rfl
  exact ⟨_, he, memErr_mem s _ _, by rw [memErr_eq]; rfl, hr.valid, hr.cause, hr.addr⟩

/-- Settles O31: each granule operation writes, patches, poisons or discards as its equation says. -/
theorem granuleIsWritten : Obligations.GranuleIsWritten := by
  unfold Obligations.GranuleIsWritten
  exact ⟨fun s g p sym data hg hl hp ho hd hw hc hk => write_whole ⟨hg, hp, ho, hd, hw, hc⟩ hl hk,
    fun s g p off sym data hg hn hf hp ho hd hw hc hk hb he hx => write_patches ⟨hg, hp, ho, hd, hw, hc⟩ hn hf hk hb he hx,
    fun s g p off sym data hg hn hf hp ho hd hw hc hk hb hv => write_poisons ⟨hg, hp, ho, hd, hw, hc⟩ hn hf hk hb hv,
    fun s g p off sym data hg hn hp ho hd hw hc hk => write_revoked ⟨hg, hp, ho, hd, hw, hc⟩ hn hk,
    fun s g n o off sym data hg hn hp hr hd hw hc => window_writes hg hn hp hr hd hw hc⟩

/-- Settles O32: a read corrects, poisons or refuses by the granule's state, and records the first error. -/
theorem readsAreChecked : Obligations.ReadsAreChecked := by
  unfold Obligations.ReadsAreChecked
  refine ⟨fun s g p sym hg hp ho hd hw hc hk hb h1 h4 => read_corrects ⟨hg, hp, ho, hd, hw, hc⟩ hk hb h1 h4,
    fun s g p sym hg hp ho hd hw hc hk hb h4 hv => read_poisons ⟨hg, hp, ho, hd, hw, hc⟩ hk hb h4 hv, ?_, ?_,
    fun s g sym hg hp ho hd hw hv => read_unmapped hg hp ho hd hw hv⟩
  · intro s g p sym hg hp ho hd hw hc hk hv
    have h : s.Serves g p := ⟨hg, hp, ho, hd, hw, hc⟩
    obtain ⟨ps, he⟩ := read_exec (sym := sym) h
    rw [readGran_revoked (s := s.withParts ps) h.owner' hk, busError_kept (by decide)] at he
    have hr := memErr_readRecorded h (show causeKEY < 256 by decide) ⟨ps, rfl⟩ hv
    exact ⟨by rw [readGran_revoked h.owner' hk], _, he, hr.mem, hr.gran, hr.flaws, hr.recorded.valid, hr.recorded.cause, hr.recorded.addr,
      hr.recorded.partition⟩
  · intro s g p sym hg hp ho hd hw hc hk hb hv
    have h : s.Serves g p := ⟨hg, hp, ho, hd, hw, hc⟩
    obtain ⟨ps, he⟩ := read_exec (sym := sym) h
    rw [readGran_poisoned (s := s.withParts ps) h.owner' hk hb, busError_kept (by decide)] at he
    have hr := memErr_readRecorded h (show causePOISON_READ < 256 by decide) ⟨ps, rfl⟩ hv
    exact ⟨by rw [readGran_poisoned h.owner' hk hb], _, he, hr.mem, hr.gran, hr.flaws, hr.recorded.valid, hr.recorded.cause,
      hr.recorded.addr, hr.recorded.partition⟩

/-! ## Refresh -/

/-- `t` has channel `k` unavailable until `e` and is `s` otherwise. -/
def State.Refreshes (s t : State) (k e : Nat) : Prop :=
  t = { s with unavail := t.unavail } ∧ tget 0 t.unavail k = e ∧ ∀ c, c ≠ k → tget 0 t.unavail c = tget 0 s.unavail c

theorem refreshes_tset (s : State) (k e : Nat) : s.Refreshes { s with unavail := tset 0 s.unavail k e } k e :=
  ⟨rfl, tget_tset_same _ _ _ _, fun _ hc => tget_tset_ne _ _ _ hc⟩

/-- Settles O33: a refresh is one write of the table of channels. -/
theorem refreshRuns : Obligations.RefreshRuns := by
  unfold Obligations.RefreshRuns
  refine ⟨fun s h hh hd ht => ⟨_, ?_, refreshes_tset s h (s.now + 137)⟩, fun s h hh ht => ?_,
    fun s c hc hd hch ht => ⟨_, ?_, refreshes_tset s (256 + c) (s.now + 180)⟩, fun s c hc ht => ?_⟩
  · exact (if_neg (not_not.2 hh)).trans (if_neg fun h => h.elim (by simp [hd]) (not_not.2 ht))
  · exact (if_neg (not_not.2 hh)).trans (if_pos ht)
  · exact (if_neg (not_not.2 hc)).trans (if_neg fun h => by
      rcases h with h | h | h
      · simp [hd] at h
      · omega
      · exact h ht)
  · refine (if_neg (not_not.2 hc)).trans (if_pos ?_)
    by_contra hn
    push Not at hn
    exact ht ⟨by simpa using hn.1, hn.2.1, hn.2.2⟩

end Sys2Proof.Machine

end

section
/-! SUPPORT. The patrol scrub, the skew monitor, the temperature report, the channel blocks and the parity of a column. -/

namespace Sys2Proof.Machine

variable {s t : State} {c g p sym : Nat}

/-! ## Parity -/

theorem foldl_xor (d : List Nat) (a : Nat) : d.foldl (· ^^^ ·) a = a ^^^ rsP d := by
  induction d generalizing a with
  | nil => simp [rsP]
  | cons x d ih =>
    rw [rsP, List.foldl_cons, List.foldl_cons, ih, ih (0 ^^^ x), Nat.zero_xor, Nat.xor_assoc]

theorem rsP_cons (x : Nat) (d : List Nat) : rsP (x :: d) = x ^^^ rsP d := by
  rw [rsP, List.foldl_cons, foldl_xor, Nat.zero_xor]

/-- P differs from the P of the column without one byte by that byte. -/
theorem rsP_set_zero {d : List Nat} {i : Nat} (h : i < d.length) : rsP d ^^^ rsP (d.set i 0) = d[i] := by
  induction d generalizing i with
  | nil => simp at h
  | cons x d ih =>
    cases i with
    | zero =>
      rw [List.set_cons_zero, rsP_cons, rsP_cons, Nat.zero_xor, Nat.xor_assoc, Nat.xor_self, Nat.xor_zero]
      rfl
    | succ i =>
      rw [List.set_cons_succ, rsP_cons, rsP_cons, Nat.xor_comm x, Nat.xor_assoc, ← Nat.xor_assoc x, Nat.xor_self, Nat.zero_xor]
      exact ih (by simpa using h)

/-- Settles O40: xor of P and the P of the column without the byte is the byte. -/
theorem parityRecovers : Obligations.ParityRecovers := by
  unfold Obligations.ParityRecovers
  intro d i q h
  change putAt (d.set i 0) i (rsP d ^^^ rsP (d.set i 0)) = d
  rw [rsP_set_zero h, putAt, List.set_set, List.set_getElem_self]

/-! ## Channel blocks -/

/-- What a block write does: nothing where it breaks a rule, or the three fields with memory moved along. -/
theorem blockSet {s u : State} {l : List (Fld × Nat)} {bad : Prop} [Decidable bad]
    (hl : ∀ x ∈ l, x.1.lo + x.1.w ≤ 64) (ha : l.Pairwise fun y z => z.1.Apart y.1) (hw : ∀ x ∈ l, x.2 < 2 ^ x.1.w)
    (hu : u = if bad then s else (s.setFs p l).rekey s) :
    u = { s with regs := u.regs, mem := u.mem, gran := u.gran, flaws := u.flaws, scrubPos := u.scrubPos } ∧
      s.RegsBut u (l.map fun x => (x.1, p)) ∧ (bad → u = s) ∧ (¬ bad → (∀ x ∈ l, u.getF x.1 p = x.2) ∧
        u.mem = s.mem.foldl (fun m e => tset memDefault m (u.addressOf (s.locate e.1)) e.2) [] ∧
        u.gran = s.gran.foldl (fun m e => tset Gran.init m (u.addressOf (s.locate (64 * e.1)) / 64) e.2) []) := by
  by_cases hb : bad
  · rw [if_pos hb] at hu
    subst hu
    exact ⟨rfl, regsBut_refl u _, fun _ => rfl, fun h => absurd hb h⟩
  · rw [if_neg hb] at hu
    have hfr : s.setFs p l = { s with regs := (s.setFs p l).regs } :=
      List.foldlRecOn (motive := fun t : State => t = { s with regs := t.regs }) l _ rfl fun t ht x _ => by rw [ht]; rfl
    subst hu
    refine ⟨?_, ?_, fun h => absurd h hb, fun _ => ⟨fun x hx => ?_, rfl, rfl⟩⟩
    · rw [State.rekey, hfr]
    · exact fun r i b h => regsBut_setFs p hl r i b h
    · exact (getF_setFs_of_mem s p hl ha hx).trans (Nat.mod_eq_of_lt (hw x hx))

theorem bitsOf_lt (v lo w : Nat) : bitsOf v lo w < 2 ^ w := Nat.mod_lt _ (Nat.two_pow_pos w)

/-- Settles O35: both block registers are one use of `blockSet`. -/
theorem blocksAreSet : Obligations.BlocksAreSet := by
  unfold Obligations.BlocksAreSet
  constructor
  · intro s p v hp first k bad
    obtain ⟨h1, h2, h3, h4⟩ := blockSet (p := p) (s := s) (u := s.writePhbm p v.toNat) (bad := bad)
      (l := [(F.MEM_PHBM_FIRST, first), (F.MEM_PHBM_LOG2C, k), (F.MEM_PHBM_EN, bitsOf v.toNat 16 1)])
      (by simp [F.MEM_PHBM_FIRST, F.MEM_PHBM_LOG2C, F.MEM_PHBM_EN])
      (by simp [F.MEM_PHBM_FIRST, F.MEM_PHBM_LOG2C, F.MEM_PHBM_EN, Fld.Apart])
      (List.forall_mem_cons.2 ⟨bitsOf_lt _ _ _, List.forall_mem_cons.2 ⟨bitsOf_lt _ _ _, List.forall_mem_singleton.2 (bitsOf_lt _ _ _)⟩⟩)
      (by rfl)
    refine ⟨_, if_neg (not_not.2 hp), h1, h2, h3, fun hb => ?_⟩
    obtain ⟨hf, hm, hg⟩ := h4 hb
    obtain ⟨f1, hf⟩ := List.forall_mem_cons.1 hf
    obtain ⟨f2, hf⟩ := List.forall_mem_cons.1 hf
    exact ⟨f1, f2, hf _ (List.mem_singleton_self _), hm, hg⟩
  · intro s p v hp first k bad
    obtain ⟨h1, h2, h3, h4⟩ := blockSet (p := p) (s := s) (u := s.writePcel p v.toNat) (bad := bad)
      (l := [(F.MEM_PCEL_FIRST, first), (F.MEM_PCEL_LOG2C, k), (F.MEM_PCEL_EN, bitsOf v.toNat 16 1)])
      (by simp [F.MEM_PCEL_FIRST, F.MEM_PCEL_LOG2C, F.MEM_PCEL_EN])
      (by simp [F.MEM_PCEL_FIRST, F.MEM_PCEL_LOG2C, F.MEM_PCEL_EN, Fld.Apart])
      (List.forall_mem_cons.2 ⟨bitsOf_lt _ _ _, List.forall_mem_cons.2 ⟨bitsOf_lt _ _ _, List.forall_mem_singleton.2 (bitsOf_lt _ _ _)⟩⟩)
      (by rfl)
    refine ⟨_, if_neg (not_not.2 hp), h1, h2, h3, fun hb => ?_⟩
    obtain ⟨hf, hm, hg⟩ := h4 hb
    obtain ⟨f1, hf⟩ := List.forall_mem_cons.1 hf
    obtain ⟨f2, hf⟩ := List.forall_mem_cons.1 hf
    exact ⟨f1, f2, hf _ (List.mem_singleton_self _), hm, hg⟩

/-! ## The patrol scrub -/

theorem lockBits_eq (s : State) : s.lockBits = { s with regs := s.lockBits.regs } := rfl

theorem endSlice_eq (s : State) (c : Option Nat) : s.endSlice c = { s with regs := (s.endSlice c).regs, locks := (s.endSlice c).locks } := by
  unfold State.endSlice
  split <;> rfl

theorem endSlice_none_locked (c : Nat) : (s.endSlice none).locked 1 c = false := by
  unfold State.endSlice
  by_cases h : (s.locks.any fun l => l.1 == 1) = true
  · rw [if_pos ⟨h, by simp⟩]
    change (s.locks.filter (fun l => l.1 != 1)).contains (1, c) = false
    simp
  · rw [if_neg fun h' => h h'.1]
    simp only [Bool.not_eq_true, List.any_eq_false] at h
    rw [State.locked, List.contains_eq_mem, decide_eq_false]
    exact fun hm => absurd (h _ hm) (by simp)

theorem takeLocks_locked (s : State) (code c : Nat) : (s.takeLocks code [c]).locked code c = true := by
  rw [State.locked, List.contains_eq_mem, decide_eq_true]
  exact List.mem_append_right _ (List.mem_singleton_self _)

theorem memErr_valid (s : State) (cause a : Nat) : (s.memErr cause a).flag F.MEM_ERR_VALID 0 = true := by
  cases hv : s.flag F.MEM_ERR_VALID 0 with
  | true =>
    rw [State.memErr, if_pos hv, State.memErrRec, if_pos hv, State.flag, getF_setF_apart s (by decide) (.inr (by decide))]
    exact hv
  | false =>
    rw [State.memErr, if_neg (by simp [hv]), State.flag, getF_logNote (by decide), State.memErrRec, if_neg (by simp [hv]),
      getF_setF_apart _ (by decide) (.inl (by decide)),
      getF_setFs_of_mem (x := (F.MEM_ERR_VALID, 1)) s 0 (by simp [F.MEM_ERR_CHANNEL, F.MEM_ERR_PARTITION, F.MEM_ERR_TIER, F.MEM_ERR_CAUSE, F.MEM_ERR_VALID])
        (by simp [F.MEM_ERR_CHANNEL, F.MEM_ERR_PARTITION, F.MEM_ERR_TIER, F.MEM_ERR_CAUSE, F.MEM_ERR_VALID, Fld.Apart])
        (.tail _ (.tail _ (.tail _ (.tail _ (.head _)))))]
    rfl

/-- What the scrub's read of a granule keeps. -/
theorem scrubRead_ringOp : s.RingOp (s.scrubRead p g sym) := by
  unfold State.scrubRead
  have h := (State.RingOp.markUnplanned (s := s) p).trans (State.MemOp.serve1 p (64 * g)).ringOp
  dsimp only
  split
  · exact h.trans (State.MemOp.memErr _ _).ringOp
  · split
    · exact h.trans (State.MemOp.poisonAs _ _).ringOp
    · exact h.trans ((State.MemOp.countCorr p g _).trans (.setFlaw g 0)).ringOp

theorem markUnplanned_eq (s : State) (p : Nat) : s.markUnplanned p = s.withParts (s.markUnplanned p).parts := by
  unfold State.markUnplanned
  split <;> rfl

theorem scrubRead_poisons (hb : (s.gran' g).poison = false) (h4 : 4 ≤ s.errors g sym) :
    s.scrubRead p g sym = ((s.markUnplanned p).serve1 p (64 * g)).poisonAs causeSCRUB_UNCORR g := by
  unfold State.scrubRead
  rw [markUnplanned_eq]
  exact (if_neg fun h => absurd (hb.symm.trans h) (by decide)).trans (if_pos h4)

theorem scrubRead_corrects (hb : (s.gran' g).poison = false) (h4 : s.errors g sym < 4) :
    s.scrubRead p g sym = (((s.markUnplanned p).serve1 p (64 * g)).countCorr p g (s.errors g sym)).setFlaw g 0 := by
  unfold State.scrubRead
  rw [markUnplanned_eq]
  exact (if_neg fun h => absurd (hb.symm.trans h) (by decide)).trans (if_neg (Nat.not_le.2 h4))

theorem scrubOn_eq (s : State) : s.scrubOn = { s with regs := s.scrubOn.regs, scrubPos := s.scrubOn.scrubPos } := by
  unfold State.scrubOn
  dsimp only
  split <;> rfl

theorem scrubOn_pos (s : State) : s.scrubOn.scrubPos = s.scrubPos + 1 ∨ s.scrubOn.scrubPos = 0 := by
  unfold State.scrubOn
  dsimp only
  split
  · exact .inr rfl
  · exact .inl rfl

theorem getF_scrubOn {f : Fld} (h : f.reg ≠ .MEM_SCRUB ∨ f = F.MEM_SCRUB_HELD) (i : Nat) : s.scrubOn.getF f i = s.getF f i := by
  unfold State.scrubOn
  dsimp only
  split
  · exact getF_setF_apart _ (by decide) (h.elim .inl fun e => .inr (by rw [e]; decide))
  · rfl

/-- The scrub's granule under lock: HELD is clear, and the read counts on. -/
def State.scrubbed (u : State) (c p g sym : Nat) : State :=
  (((if u.locked 1 c then u else { u.takeLocks 1 [c] with scrubSince := u.now }).setF F.MEM_SCRUB_HELD 0 0).scrubRead p g sym).scrubOn

theorem patrol_exec (hd : s.dark = false) (hw : s.getF F.PWR_STATUS_STATE 0 = 0) (hs : s.getF F.MEM_CTRL_SCRUB_H 0 ≠ 0)
    (hg : scrubGran s.blocks s.scrubPos = some g) (hp : p = (s.ownerOf (64 * g)).getD 0)
    (hc : c = (s.chanOf p (64 * g)).1 + 256 * (s.chanOf p (64 * g)).2) :
    exec (.patrolScrub sym) s = .next (if (s.endSlice (some c)).scrubHeld c then
        (if (s.endSlice (some c)).flag F.MEM_SCRUB_HELD 0 then s.endSlice (some c)
          else (s.endSlice (some c)).addF F.CTL_MLOCK_BUSY 0 1).setF F.MEM_SCRUB_HELD 0 1
      else if (s.endSlice (some c)).now < tget 0 (s.endSlice (some c)).unavail c then s.endSlice (some c)
      else (s.endSlice (some c)).scrubbed c p g sym) := by
  change execPatrolScrub sym s = _
  unfold execPatrolScrub
  rw [if_neg (by simp [hd, hw]), if_neg hs, hg]
  subst hp hc
  dsimp only
  split
  · rfl
  · split <;> rfl

/-- The state in which the scrub reads its granule. -/
def State.scrubLock (u : State) (c : Nat) : State :=
  (if u.locked 1 c then u else { u.takeLocks 1 [c] with scrubSince := u.now }).setF F.MEM_SCRUB_HELD 0 0

theorem scrubLock_eq (u : State) (c : Nat) : u.scrubLock c =
    { u with regs := (u.scrubLock c).regs, locks := (u.scrubLock c).locks, scrubSince := (u.scrubLock c).scrubSince } := by
  unfold State.scrubLock
  split <;> rfl

theorem scrubLock_locked (u : State) (c : Nat) : (u.scrubLock c).locked 1 c = true := by
  unfold State.scrubLock
  split
  · assumption
  · exact takeLocks_locked u 1 c

theorem scrubLock_held (u : State) (c : Nat) : (u.scrubLock c).flag F.MEM_SCRUB_HELD 0 = false := by
  rw [State.flag, State.scrubLock, getF_setF_same _ (by decide)]
  rfl

theorem scrubbed_locked (u : State) : (u.scrubbed c p g sym).locked 1 c = true := by
  rw [State.locked, State.scrubbed, scrubOn_eq]
  change ((u.scrubLock c).scrubRead p g sym).locks.contains (1, c) = true
  rw [scrubRead_ringOp.frame]
  exact scrubLock_locked u c

theorem scrubbed_held (u : State) : (u.scrubbed c p g sym).flag F.MEM_SCRUB_HELD 0 = false := by
  rw [State.flag, State.scrubbed, getF_scrubOn (.inr rfl), scrubRead_ringOp.regs _ _ (by decide)]
  exact scrubLock_held u c

theorem scrubbed_poisons {u : State} (hb : (u.gran' g).poison = false) (h4 : 4 ≤ u.errors g sym) :
    (u.scrubbed c p g sym).mem = u.mem ∧ ((u.scrubbed c p g sym).gran' g).poison = true ∧
      (u.scrubbed c p g sym).flag F.MEM_ERR_VALID 0 = true := by
  have hg : (u.scrubLock c).gran' g = u.gran' g := by rw [scrubLock_eq]; rfl
  have he : (u.scrubLock c).errors g sym = u.errors g sym := by rw [scrubLock_eq]; rfl
  have hr := scrubRead_poisons (p := p) (by rw [hg]; exact hb) (by rw [he]; exact h4)
  have hm : ((u.scrubLock c).scrubRead p g sym).mem = u.mem := by
    rw [hr, poisonAs_mem, markUnplanned_eq, scrubLock_eq]
    rfl
  refine ⟨?_, ?_, ?_⟩
  · rw [State.scrubbed, scrubOn_eq]
    exact hm
  · rw [State.gran', State.scrubbed, scrubOn_eq]
    change (((u.scrubLock c).scrubRead p g sym).gran' g).poison = true
    rw [hr, poisonAs_gran_same]
  · rw [State.flag, State.scrubbed, getF_scrubOn (.inl (by decide))]
    change ((u.scrubLock c).scrubRead p g sym).flag F.MEM_ERR_VALID 0 = true
    rw [hr]
    exact memErr_valid ((((u.scrubLock c).markUnplanned p)).serve1 p (64 * g)) causeSCRUB_UNCORR (g * 64)

theorem scrubbed_corrects {u : State} (hb : (u.gran' g).poison = false) (h4 : u.errors g sym < 4) :
    (u.scrubbed c p g sym).mem = u.mem ∧ (u.scrubbed c p g sym).gran = u.gran ∧ (u.scrubbed c p g sym).flaw g = 0 ∧
      ((u.scrubbed c p g sym).scrubPos = u.scrubPos + 1 ∨ (u.scrubbed c p g sym).scrubPos = 0) := by
  have hg : (u.scrubLock c).gran' g = u.gran' g := by rw [scrubLock_eq]; rfl
  have he : (u.scrubLock c).errors g sym = u.errors g sym := by rw [scrubLock_eq]; rfl
  have hr := scrubRead_corrects (p := p) (by rw [hg]; exact hb) (by rw [he]; exact h4)
  rw [markUnplanned_eq] at hr
  refine ⟨?_, ?_, ?_, ?_⟩
  · rw [State.scrubbed, scrubOn_eq]
    change ((u.scrubLock c).scrubRead p g sym).mem = u.mem
    rw [hr, countCorr_eq, scrubLock_eq]
    rfl
  · rw [State.scrubbed, scrubOn_eq]
    change ((u.scrubLock c).scrubRead p g sym).gran = u.gran
    rw [hr, countCorr_eq, scrubLock_eq]
    rfl
  · rw [State.flaw, State.scrubbed, scrubOn_eq]
    change ((u.scrubLock c).scrubRead p g sym).flaw g = 0
    rw [hr]
    exact flaw_setFlaw_same 0
  · have hpos : ((u.scrubLock c).scrubRead p g sym).scrubPos = u.scrubPos := by
      rw [scrubRead_ringOp.frame, scrubLock_eq]
    rw [← hpos]
    exact scrubOn_pos _

/-! ## The skew monitor -/

/-- What the skew monitor writes of the state: the fields of MEM_SKEW and of the log, and the log itself. -/
structure State.Skews (s t : State) : Prop where
  frame : t = { s with regs := t.regs, log := t.log, pldm := t.pldm }
  regs : ∀ (f : Fld) (i : Nat), f.reg ≠ .MEM_SKEW → f.reg ≠ .CTL_LOG → t.getF f i = s.getF f i

namespace State.Skews

variable {u : State}

theorem refl : s.Skews s := ⟨rfl, fun _ _ _ _ => rfl⟩

theorem trans (h : s.Skews t) (h' : t.Skews u) : s.Skews u :=
  ⟨h'.frame.trans (by rw [h.frame]), fun f i h1 h2 => (h'.regs f i h1 h2).trans (h.regs f i h1 h2)⟩

theorem setF {f : Fld} (x : Nat) (hf : f.reg = .MEM_SKEW) (hw : f.lo + f.w ≤ 64) : s.Skews (s.setF f 0 x) :=
  ⟨rfl, fun _ _ h _ => getF_setF_apart s hw (.inl (by rw [hf]; exact h))⟩

theorem setFs {l : List (Fld × Nat)} (hl : ∀ x ∈ l, x.1.reg = .MEM_SKEW ∧ x.1.lo + x.1.w ≤ 64) : s.Skews (s.setFs 0 l) := by
  induction l generalizing s with
  | nil => exact refl
  | cons x l ih =>
    obtain ⟨hx, hl⟩ := List.forall_mem_cons.1 hl
    exact (setF x.2 hx.1 hx.2).trans (ih hl)

theorem logNote (sev code part : Nat) (args : List Nat) : s.Skews (s.logNote sev code part args) := by
  unfold State.logNote State.logPush
  dsimp only
  split
  · exact ⟨rfl, fun _ _ _ _ => rfl⟩
  · exact ⟨rfl, fun g j _ hg => getF_setF_apart s (by decide) (.inl hg)⟩

theorem keeps (h : s.Skews t) : t.served = s.served ∧ t.skewWin = s.skewWin ∧ t.mem = s.mem ∧ t.gran = s.gran := by
  rw [h.frame]
  exact ⟨rfl, rfl, rfl, rfl⟩

end State.Skews

/-- The fields of a first hit. -/
def skewFields (p tier ch ratio : Nat) : List (Fld × Nat) :=
  [(F.MEM_SKEW_CHANNEL, ch), (F.MEM_SKEW_PARTITION, p), (F.MEM_SKEW_TIER, tier), (F.MEM_SKEW_RATIO_X16, min 65535 ratio), (F.MEM_SKEW_ADVISORY, 1)]

variable {tier ch ratio : Nat} {first : Bool}

theorem skewFields_reg : ∀ x ∈ skewFields p tier ch ratio, x.1.reg = .MEM_SKEW ∧ x.1.lo + x.1.w ≤ 64 := by
  simp [skewFields, F.MEM_SKEW_CHANNEL, F.MEM_SKEW_PARTITION, F.MEM_SKEW_TIER, F.MEM_SKEW_RATIO_X16, F.MEM_SKEW_ADVISORY]

theorem skewFields_apart : (skewFields p tier ch ratio).Pairwise fun y z => z.1.Apart y.1 := by
  simp [skewFields, F.MEM_SKEW_CHANNEL, F.MEM_SKEW_PARTITION, F.MEM_SKEW_TIER, F.MEM_SKEW_RATIO_X16, F.MEM_SKEW_ADVISORY, Fld.Apart]

theorem skewFields_windows : ∀ x ∈ skewFields p tier ch ratio, x.1.Apart F.MEM_SKEW_WINDOWS := by
  simp [skewFields, F.MEM_SKEW_CHANNEL, F.MEM_SKEW_PARTITION, F.MEM_SKEW_TIER, F.MEM_SKEW_RATIO_X16, F.MEM_SKEW_ADVISORY, F.MEM_SKEW_WINDOWS,
    Fld.Apart]

/-- A hit counts; it is logged where SKEW_EN says so, after the fields of the first. -/
theorem skewHit_cases (s : State) (first : Bool) (p tier ch ratio : Nat) :
    ((¬ first ∨ ¬ s.flag F.MEM_CTRL_SKEW_EN 0) ∧ s.skewHit first p tier ch ratio = s.addF F.MEM_SKEW_WINDOWS 0 1) ∨
    ((first ∧ s.flag F.MEM_CTRL_SKEW_EN 0) ∧ s.flag F.MEM_SKEW_ADVISORY 0 = true ∧
      ∃ a, s.skewHit first p tier ch ratio = (s.addF F.MEM_SKEW_WINDOWS 0 1).logNote 1 0x0104 p a) ∨
    ((first ∧ s.flag F.MEM_CTRL_SKEW_EN 0) ∧ s.flag F.MEM_SKEW_ADVISORY 0 = false ∧
      ∃ a, s.skewHit first p tier ch ratio = ((s.addF F.MEM_SKEW_WINDOWS 0 1).setFs 0 (skewFields p tier ch ratio)).logNote 1 0x0104 p a) := by
  have he : (s.addF F.MEM_SKEW_WINDOWS 0 1).flag F.MEM_CTRL_SKEW_EN 0 = s.flag F.MEM_CTRL_SKEW_EN 0 := by
    rw [State.flag, State.flag, getF_addF_apart s (by decide) (by decide)]
  have ha : (s.addF F.MEM_SKEW_WINDOWS 0 1).flag F.MEM_SKEW_ADVISORY 0 = s.flag F.MEM_SKEW_ADVISORY 0 := by
    rw [State.flag, State.flag, getF_addF_apart s (by decide) (by decide)]
  unfold State.skewHit
  dsimp only
  rw [he, ha]
  by_cases h : ¬ first = true ∨ ¬ s.flag F.MEM_CTRL_SKEW_EN 0 = true
  · exact .inl ⟨h, if_pos h⟩
  · rw [if_neg h]
    push Not at h
    cases s.flag F.MEM_SKEW_ADVISORY 0 with
    | true => exact .inr (.inl ⟨h, rfl, _, rfl⟩)
    | false => exact .inr (.inr ⟨h, rfl, _, rfl⟩)

theorem skewHit_skews : s.Skews (s.skewHit first p tier ch ratio) := by
  have h : s.Skews (s.addF F.MEM_SKEW_WINDOWS 0 1) := State.Skews.setF _ rfl (by decide)
  rcases skewHit_cases s first p tier ch ratio with ⟨_, e⟩ | ⟨_, _, a, e⟩ | ⟨_, _, a, e⟩ <;> rw [e]
  · exact h
  · exact h.trans (.logNote _ _ _ _)
  · exact (h.trans (.setFs skewFields_reg)).trans (.logNote _ _ _ _)

theorem getF_lt (s : State) (f : Fld) (i : Nat) : s.getF f i < 2 ^ f.w := Nat.mod_lt _ (Nat.two_pow_pos _)

theorem getF_addF_same {f : Fld} (hw : f.lo + f.w ≤ 64) (i n : Nat) : (s.addF f i n).getF f i = satAdd f.w (s.getF f i) n :=
  (getF_setF_same s hw).trans (Nat.mod_eq_of_lt (by have := Nat.two_pow_pos f.w; unfold satAdd; omega))

theorem skewHit_windows : (s.skewHit first p tier ch ratio).getF F.MEM_SKEW_WINDOWS 0 = satAdd 16 (s.getF F.MEM_SKEW_WINDOWS 0) 1 := by
  have h : (s.addF F.MEM_SKEW_WINDOWS 0 1).getF F.MEM_SKEW_WINDOWS 0 = satAdd 16 (s.getF F.MEM_SKEW_WINDOWS 0) 1 := getF_addF_same (by decide) 0 1
  rcases skewHit_cases s first p tier ch ratio with ⟨_, e⟩ | ⟨_, _, a, e⟩ | ⟨_, _, a, e⟩ <;> rw [e]
  · exact h
  · rw [getF_logNote (by decide), h]
  · rw [getF_logNote (by decide), getF_setFs_apart _ 0 (fun x hx => (skewFields_reg x hx).2) skewFields_windows, h]

/-- A hit after the first advisory keeps every field of it but WINDOWS. -/
theorem skewHit_after {f : Fld} (ha : s.flag F.MEM_SKEW_ADVISORY 0 = true) (hf : F.MEM_SKEW_WINDOWS.Apart f) (hl : f.reg ≠ .CTL_LOG) :
    (s.skewHit first p tier ch ratio).getF f 0 = s.getF f 0 := by
  rcases skewHit_cases s first p tier ch ratio with ⟨_, e⟩ | ⟨_, _, a, e⟩ | ⟨_, h, _⟩
  · rw [e]
    exact getF_addF_apart s (by decide) hf
  · rw [e, getF_logNote hl]
    exact getF_addF_apart s (by decide) hf
  · rw [ha] at h
    cases h

theorem skewHit_first (he : s.flag F.MEM_CTRL_SKEW_EN 0 = true) (ha : s.flag F.MEM_SKEW_ADVISORY 0 = false) {x : Fld × Nat}
    (hx : x ∈ skewFields p tier ch ratio) : (s.skewHit true p tier ch ratio).getF x.1 0 = x.2 % 2 ^ x.1.w := by
  rcases skewHit_cases s true p tier ch ratio with ⟨h, _⟩ | ⟨_, h, _⟩ | ⟨_, _, a, e⟩
  · exact absurd he (h.elim (fun h => absurd rfl h) id)
  · rw [ha] at h
    cases h
  · rw [e, getF_logNote (by rw [(skewFields_reg x hx).1]; decide)]
    exact getF_setFs_of_mem _ 0 (fun y hy => (skewFields_reg y hy).2) skewFields_apart hx

/-- The hits of a window, in the order of the blocks. -/
def State.skewHits (s : State) : List (Nat × Nat × Nat × Nat) :=
  (List.range 32).filterMap (fun b => (s.skewed (b % 16) (b / 16)).map (fun h => (b % 16, b / 16, h.1, h.2)))

def State.skewAll (s : State) (first : Bool) (l : List (Nat × Nat × Nat × Nat)) : State :=
  l.foldl (fun s h => s.skewHit first h.1 h.2.1 h.2.2.1 h.2.2.2) s

theorem skewWindow_exec (h : s.windowNo ≠ s.skewWin) : exec .skewWindow s =
    .next (({ s with served := [], skewWin := s.windowNo } : State).skewAll (!s.flag F.MEM_SKEW_ADVISORY 0) s.skewHits) := if_neg h

theorem skewAll_skews (l : List (Nat × Nat × Nat × Nat)) : s.Skews (s.skewAll first l) := by
  induction l generalizing s with
  | nil => exact .refl
  | cons h l ih => exact skewHit_skews.trans ih

theorem satAdd_satAdd (w a b c : Nat) : satAdd w (satAdd w a b) c = satAdd w a (b + c) := by
  have := Nat.two_pow_pos w
  unfold satAdd
  omega

theorem satAdd_zero {w a : Nat} (h : a < 2 ^ w) : satAdd w a 0 = a := by unfold satAdd; omega

theorem skewAll_windows (l : List (Nat × Nat × Nat × Nat)) :
    (s.skewAll first l).getF F.MEM_SKEW_WINDOWS 0 = satAdd 16 (s.getF F.MEM_SKEW_WINDOWS 0) l.length := by
  induction l generalizing s with
  | nil => exact (satAdd_zero (getF_lt s F.MEM_SKEW_WINDOWS 0)).symm
  | cons h l ih =>
    refine ih.trans ?_
    rw [skewHit_windows, satAdd_satAdd, List.length_cons, Nat.add_comm 1]

theorem skewHits_length (s : State) :
    s.skewHits.length = ((List.range 32).filter (fun b => (s.skewed (b % 16) (b / 16)).isSome)).length := by
  unfold State.skewHits
  induction List.range 32 with
  | nil => rfl
  | cons b l ih =>
    cases h : s.skewed (b % 16) (b / 16) <;> simp [h, ih]

theorem skewAll_after {f : Fld} (hf : F.MEM_SKEW_WINDOWS.Apart f) (hl : f.reg ≠ .CTL_LOG) (l : List (Nat × Nat × Nat × Nat))
    (ha : s.flag F.MEM_SKEW_ADVISORY 0 = true) : (s.skewAll first l).getF f 0 = s.getF f 0 := by
  induction l generalizing s with
  | nil => rfl
  | cons h l ih =>
    refine (ih ?_).trans (skewHit_after ha hf hl)
    rw [State.flag, skewHit_after ha (.inr (by decide)) (by decide)]
    exact ha

/-- The first hit is that of the first block. -/
theorem skewHits_first {r : Nat} (hp : p < 16) (hs : s.skewed p 0 = some (ch, r)) (hq : ∀ q < p, s.skewed q 0 = none) :
    ∃ l, s.skewHits = (p, 0, ch, r) :: l := by
  obtain ⟨rest, hsplit⟩ : ∃ rest, List.range 32 = List.range p ++ p :: rest := by
    rw [show 32 = p + (31 - p + 1) by omega, List.range_add, List.range_succ_eq_map, List.map_cons, Nat.add_zero]
    exact ⟨_, rfl⟩
  unfold State.skewHits
  rw [hsplit, List.filterMap_append, List.filterMap_cons]
  rw [show (List.range p).filterMap (fun b => (s.skewed (b % 16) (b / 16)).map (fun h => (b % 16, b / 16, h.1, h.2))) = [] by
    rw [List.filterMap_eq_nil_iff]
    intro b hb
    have hb := List.mem_range.1 hb
    rw [Nat.mod_eq_of_lt (by omega), Nat.div_eq_of_lt (by omega), hq b hb]
    rfl]
  rw [Nat.mod_eq_of_lt hp, Nat.div_eq_of_lt hp, hs]
  exact ⟨_, rfl⟩

/-! ## The temperature report -/

theorem bitAt_setBits_same (v k x : Nat) : bitAt (setBits v k 1 x) k = (x % 2 == 1) := by
  rw [bitAt_eq_bitsOf, bitsOf_setBits_same, pow_one]

theorem bitAt_setBits_ne {v k j x : Nat} (h : j ≠ k) : bitAt (setBits v k 1 x) j = bitAt v j := by
  rw [bitAt_eq_bitsOf, bitsOf_setBits_ne (by omega), ← bitAt_eq_bitsOf]

theorem setBits_lt_pow {v lo w x n : Nat} (hv : v < 2 ^ n) (h : lo + w ≤ n) : setBits v lo w x < 2 ^ n := by
  refine Nat.lt_pow_two_of_testBit _ fun b hb => ?_
  rw [testBit_setBits, if_neg (by omega)]
  exact Nat.testBit_lt_two_pow (lt_of_lt_of_le hv (Nat.pow_le_pow_right (by decide) hb))

/-- HOT after a report. -/
def hotAfter (h stack temp : Nat) : Nat := if 85 < temp then setBits h stack 1 1 else if temp ≤ 80 then setBits h stack 1 0 else h

theorem hotAfter_lt {h stack temp : Nat} (hh : h < 2 ^ 8) (hs : stack < 8) : hotAfter h stack temp < 2 ^ 8 := by
  unfold hotAfter
  split
  · exact setBits_lt_pow hh (by omega)
  · split
    · exact setBits_lt_pow hh (by omega)
    · exact hh

theorem bitAt_hotAfter_ne {h stack temp k : Nat} (hk : k ≠ stack) : bitAt (hotAfter h stack temp) k = bitAt h k := by
  unfold hotAfter
  split
  · exact bitAt_setBits_ne hk
  · split
    · exact bitAt_setBits_ne hk
    · rfl

theorem tempReport_reports (s : State) {stack temp : Nat} (hs : stack < 8) (ht : temp < 256) :
    ∃ t, exec (.hbmTempReport stack temp) s = .next t ∧ s.Only t [(F.MEM_STATUS_HOT, 0), (F.PWR_TEMP1_STACK, 0)] ∧
      t.getF F.MEM_STATUS_HOT 0 = hotAfter (s.getF F.MEM_STATUS_HOT 0) stack temp ∧
      bitsOf (t.getF F.PWR_TEMP1_STACK 0) (8 * stack) 8 = temp := by
  refine ⟨_, if_neg (not_not.2 ⟨hs, ht⟩), only_trans (only_setF s (by decide)) (only_setF _ (by decide)), ?_, ?_⟩
  · rw [getF_setF_apart _ (by decide) (.inl (by decide)), getF_setF_same _ (by decide)]
    exact Nat.mod_eq_of_lt (hotAfter_lt (getF_lt s F.MEM_STATUS_HOT 0) hs)
  · rw [getF_setF_same _ (by decide), Nat.mod_eq_of_lt (setBits_lt_pow (getF_lt s F.PWR_TEMP1_STACK 0) (show _ ≤ 64 by omega)),
      bitsOf_setBits_same]
    exact Nat.mod_eq_of_lt ht

/-! ## The statement -/

theorem getF_endSlice {f : Fld} (h : f.reg ≠ .CTL_MLOCK) (c : Option Nat) (i : Nat) : (s.endSlice c).getF f i = s.getF f i := by
  unfold State.endSlice
  split
  · exact getF_setF_apart _ (by decide) (.inl h)
  · rfl

/-- What the end of a slice keeps of what the scrub reads. -/
theorem endSlice_keeps (s : State) (c : Option Nat) : (s.endSlice c).mem = s.mem ∧ (s.endSlice c).gran = s.gran ∧
    (s.endSlice c).flaws = s.flaws ∧ (s.endSlice c).scrubPos = s.scrubPos ∧ (s.endSlice c).unavail = s.unavail := by
  rw [endSlice_eq]
  exact ⟨rfl, rfl, rfl, rfl, rfl⟩

theorem endSlice_now (s : State) (c : Option Nat) : (s.endSlice c).now = s.now := getF_endSlice (f := F.TIME_NOW_NS) (by decide) c 0

/-- The scrub, with the lock to be had and the channel serving. -/
theorem patrol_scrubs (hd : s.dark = false) (hw : s.getF F.PWR_STATUS_STATE 0 = 0) (hs : s.getF F.MEM_CTRL_SCRUB_H 0 ≠ 0)
    (hg : scrubGran s.blocks s.scrubPos = some g) (hp : p = (s.ownerOf (64 * g)).getD 0)
    (hc : c = (s.chanOf p (64 * g)).1 + 256 * (s.chanOf p (64 * g)).2) (hf : (s.endSlice (some c)).scrubHeld c = false)
    (hu : tget 0 s.unavail c ≤ s.now) : exec (.patrolScrub sym) s = .next ((s.endSlice (some c)).scrubbed c p g sym) := by
  obtain ⟨_, _, _, _, hun⟩ := endSlice_keeps s (some c)
  rw [patrol_exec hd hw hs hg hp hc, if_neg (by rw [hf]; decide), if_neg (by rw [endSlice_now, hun]; omega)]

/-- The scrub that has to wait for its channel. -/
theorem patrol_waits (hd : s.dark = false) (hw : s.getF F.PWR_STATUS_STATE 0 = 0) (hs : s.getF F.MEM_CTRL_SCRUB_H 0 ≠ 0)
    (hg : scrubGran s.blocks s.scrubPos = some g) (hp : p = (s.ownerOf (64 * g)).getD 0)
    (hc : c = (s.chanOf p (64 * g)).1 + 256 * (s.chanOf p (64 * g)).2) (hf : (s.endSlice (some c)).scrubHeld c = true) :
    ∃ t, exec (.patrolScrub sym) s = .next t ∧ t.mem = s.mem ∧ t.gran = s.gran ∧ t.scrubPos = s.scrubPos ∧
      t.flag F.MEM_SCRUB_HELD 0 = true := by
  have he := patrol_exec (sym := sym) hd hw hs hg hp hc
  obtain ⟨hmem, hgran, _, hpos, _⟩ := endSlice_keeps s (some c)
  have hv : ∀ u : State, ∃ r, (if u.flag F.MEM_SCRUB_HELD 0 then u else u.addF F.CTL_MLOCK_BUSY 0 1) = { u with regs := r } := fun u => by
    split <;> exact ⟨_, rfl⟩
  obtain ⟨r, hr⟩ := hv (s.endSlice (some c))
  rw [if_pos hf, hr] at he
  refine ⟨_, he, hmem, hgran, hpos, ?_⟩
  rw [State.flag, getF_setF_same _ (by decide)]
  rfl

theorem patrol_off (hd : s.dark = false) (hw : s.getF F.PWR_STATUS_STATE 0 = 0) (hs : s.getF F.MEM_CTRL_SCRUB_H 0 = 0) :
    ∃ t, exec (.patrolScrub sym) s = .next t ∧ t.mem = s.mem ∧ t.gran = s.gran ∧ t.flaws = s.flaws ∧ t.scrubPos = s.scrubPos ∧
      t.flag F.MEM_SCRUB_HELD 0 = false ∧ ∀ c, t.locked 1 c = false := by
  have he : exec (.patrolScrub sym) s = .next ((s.endSlice none).setF F.MEM_SCRUB_HELD 0 0) :=
    (if_neg (by simp [hd, hw])).trans (if_pos hs)
  obtain ⟨hmem, hgran, hflaws, hpos, _⟩ := endSlice_keeps s none
  refine ⟨_, he, hmem, hgran, hflaws, hpos, ?_, fun c => endSlice_none_locked c⟩
  rw [State.flag, getF_setF_same _ (by decide)]
  rfl

/-- The state in which the hits of the window count. -/
def State.nextWindow (s : State) : State := { s with served := [], skewWin := s.windowNo }

theorem skewWindow_counts (h : s.windowNo ≠ s.skewWin) :
    ∃ t, exec .skewWindow s = .next t ∧ t.served = [] ∧ t.skewWin = s.windowNo ∧ t.mem = s.mem ∧ t.gran = s.gran ∧
      t.getF F.MEM_SKEW_WINDOWS 0 = satAdd F.MEM_SKEW_WINDOWS.w (s.getF F.MEM_SKEW_WINDOWS 0)
        ((List.range 32).filter (fun b => (s.skewed (b % 16) (b / 16)).isSome)).length := by
  obtain ⟨h1, h2, h3, h4⟩ := (skewAll_skews (s := s.nextWindow) (first := !s.flag F.MEM_SKEW_ADVISORY 0) s.skewHits).keeps
  have hw := skewAll_windows (s := s.nextWindow) (first := !s.flag F.MEM_SKEW_ADVISORY 0) s.skewHits
  rw [skewHits_length] at hw
  exact ⟨_, skewWindow_exec h, h1, h2, h3, h4, hw⟩

theorem skewWindow_advises {r : Nat} (h : s.windowNo ≠ s.skewWin) (hs : s.skewed p 0 = some (ch, r)) (hp : p < 16)
    (hq : ∀ q < p, s.skewed q 0 = none) (hen : s.flag F.MEM_CTRL_SKEW_EN 0 = true) (hadv : s.flag F.MEM_SKEW_ADVISORY 0 = false) :
    ∃ t, exec .skewWindow s = .next t ∧ t.flag F.MEM_SKEW_ADVISORY 0 = true ∧ t.getF F.MEM_SKEW_PARTITION 0 = p ∧
      t.getF F.MEM_SKEW_TIER 0 = 0 ∧ t.getF F.MEM_SKEW_CHANNEL 0 = ch % 2 ^ F.MEM_SKEW_CHANNEL.w := by
  obtain ⟨l, hl⟩ := skewHits_first hp hs hq
  have hfirst : ∀ x ∈ skewFields p 0 ch r, (s.nextWindow.skewHit true p 0 ch r).getF x.1 0 = x.2 % 2 ^ x.1.w :=
    fun x hx => skewHit_first (s := s.nextWindow) hen hadv hx
  have hon : (s.nextWindow.skewHit true p 0 ch r).flag F.MEM_SKEW_ADVISORY 0 = true := by
    rw [State.flag, hfirst (F.MEM_SKEW_ADVISORY, 1) (by simp [skewFields])]
    rfl
  have hlast : ∀ x ∈ skewFields p 0 ch r, ((s.nextWindow.skewHit true p 0 ch r).skewAll true l).getF x.1 0 = x.2 % 2 ^ x.1.w := fun x hx =>
    (skewAll_after ((skewFields_windows x hx).imp Ne.symm Or.symm) (by rw [(skewFields_reg x hx).1]; decide) l hon).trans (hfirst x hx)
  have he := skewWindow_exec h
  rw [hadv, hl] at he
  refine ⟨_, he, ?_, ?_, ?_, ?_⟩
  · exact (congrArg (· != 0) (hlast (F.MEM_SKEW_ADVISORY, 1) (by simp [skewFields]))).trans rfl
  · exact (hlast (F.MEM_SKEW_PARTITION, p) (by simp [skewFields])).trans (Nat.mod_eq_of_lt hp)
  · exact hlast (F.MEM_SKEW_TIER, 0) (by simp [skewFields])
  · exact hlast (F.MEM_SKEW_CHANNEL, ch) (by simp [skewFields])

/-- Settles O34: the slice of the scrub, its lock and its read; the fold of a window's hits; and one report. -/
theorem patrolAndMonitor : Obligations.PatrolAndMonitor := by
  unfold Obligations.PatrolAndMonitor
  refine ⟨fun s g sym hd hw hs hg => ?_, fun s sym hd hw hs => patrol_off hd hw hs, fun s h => skewWindow_counts h, fun s h => if_pos h,
    fun s p ch r h hs hp hq hen hadv => skewWindow_advises h hs hp hq hen hadv, fun s stack temp hs ht => ?_⟩
  · intro p c u
    obtain ⟨hmem, hgran, hflaws, hpos, _⟩ := endSlice_keeps s (some c)
    have hug : u.gran' g = s.gran' g := congrArg (fun x => tget Gran.init x g) hgran
    have hue : u.errors g sym = s.errors g sym := congrArg (fun x => max sym (tget 0 x g)) hflaws
    refine ⟨fun hf hu hb h4 => ?_, fun hf hu hb h4 => ?_, fun hh => patrol_waits hd hw hs hg rfl rfl hh⟩
    · obtain ⟨h1, h2, h3⟩ := scrubbed_poisons (c := c) (p := p) (u := u) (hug ▸ hb) (hue ▸ h4)
      exact ⟨_, patrol_scrubs hd hw hs hg rfl rfl hf hu, h1.trans hmem, h2, h3, scrubbed_locked u, scrubbed_held u⟩
    · obtain ⟨h1, h2, h3, h5⟩ := scrubbed_corrects (c := c) (p := p) (u := u) (hug ▸ hb) (hue ▸ h4)
      exact ⟨_, patrol_scrubs hd hw hs hg rfl rfl hf hu, h1.trans hmem, h2.trans hgran, h3, hpos ▸ h5, scrubbed_locked u⟩
  · obtain ⟨t, he, ho, hh, hst⟩ := tempReport_reports s hs ht
    refine ⟨t, he, ho, fun h => ?_, fun h => ?_, fun h1 h2 => ?_, hst, fun k _ hk => ?_⟩
    · rw [hh, hotAfter, if_pos h, bitAt_setBits_same]
      rfl
    · rw [hh, hotAfter, if_neg (by omega), if_pos h, bitAt_setBits_same]
      rfl
    · rw [hh, hotAfter, if_neg (by omega), if_neg (by omega)]
    · rw [hh, bitAt_hotAfter_ne hk]

end Sys2Proof.Machine

end

section
/-! SUPPORT. The two ends of a request to another package's memory. -/

namespace Sys2Proof.Machine

variable {s : State}

theorem takeFirst_none_of {f : Packet → Bool} {l : List Packet} (h : ∀ k ∈ l, f k = false) : takeFirst f l = none := by
  induction l with
  | nil => rfl
  | cons k l ih =>
    obtain ⟨hk, hl⟩ := List.forall_mem_cons.1 h
    rw [takeFirst, hk, if_neg (by decide), ih hl]
    rfl

/-- Settles O36: one answer of `serveReq`, and one `respond` of a tagged response. -/
theorem remoteMemoryAnswers : Obligations.RemoteMemoryAnswers := by
  unfold Obligations.RemoteMemoryAnswers
  refine ⟨fun s u k rest sym st data hw hk hs => ?_, fun s k sym => ?_, fun s k rest tag r hk ht => ?_, fun s h => ?_⟩
  · refine ⟨u.mkPacket ptMEM_RSP (if 3 ≤ k.vc then 4 else 0) k.snode 0 0
      (reqBlock (leAt k.body 0 6) (leAt k.body 6 1 % 16) st (leAt k.body 8 2) 0 ++ data) .unit k.part, ?_, rfl, rfl, rfl, rfl⟩
    change execMemRequest sym s = _
    unfold execMemRequest
    rw [hk]
    dsimp only
    rw [if_neg (not_not.2 hw), hs]
  · intro a n h
    have hm := State.MemOp.rangeRefused (s := s) a (a + n - 1)
    refine ⟨s.rangeRefused a (a + n - 1), ?_, ?_, ?_⟩
    · refine if_pos ?_
      rcases h with h | h | h | h | h
      · exact .inl h
      · exact .inr (.inl h)
      · exact .inr (.inr (.inl h))
      · exact .inr (.inr (.inr (.inl h)))
      · exact .inr (.inr (.inr (.inr (by rw [h]; decide))))
    · unfold State.rangeRefused
      dsimp only
      split
      · rfl
      · exact memErr_mem s _ _
    · unfold State.rangeRefused
      dsimp only
      split
      · rfl
      · rw [memErr_eq]
  · change execMemResponse s = _
    unfold execMemResponse
    rw [hk]
    dsimp only
    rw [show ({ s with inbox := rest } : State).tagged (leAt k.body 8 2) = some (tag, r) from ht]
  · change execMemResponse s = _
    unfold execMemResponse
    rw [takeFirst_none_of fun k hk => ?_]
    cases ht : k.ptype == ptMEM_RSP with
    | false => rfl
    | true => rw [h k hk (by simpa using ht)]; rfl

end Sys2Proof.Machine

end

section
/-! SUPPORT. The doorbells and controls of the DMA channels and of the Reed–Solomon rings. -/

namespace Sys2Proof.Machine

variable {s t : State} {i jamb c : Nat}

/-- The channel may move or fetch: its BUSY. -/
def State.chanBusy (s : State) (i : Nat) : Bool := (s.chan i).flight != [] || s.getF F.DMA_HEAD_HEAD i != s.getF F.DMA_TAIL_TAIL i

theorem flag_setF_bit {f : Fld} (hf : f.lo + f.w ≤ 64) (hw : f.w = 1) (b : Bool) : (s.setF f i (bit b)).flag f i = b := by
  rw [State.flag, getF_setF_same _ hf, hw]
  cases b <;> rfl

theorem flag_setF_apart {f g : Fld} {j x : Nat} (hf : f.lo + f.w ≤ 64) (h : f.Apart g) : (s.setF f i x).flag g j = s.flag g j := by
  rw [State.flag, getF_setF_apart _ hf h, State.flag]

theorem dmaBusy_eq (s : State) (i : Nat) : s.dmaBusy i = { s with regs := (s.dmaBusy i).regs } := rfl

theorem getF_dmaBusy {g : Fld} (h1 : F.DMA_CHSTAT_BUSY.Apart g) (h2 : g.reg ≠ .DMA_ACTIVE) (h3 : g.reg ≠ .DMA_POOL) (j : Nat) :
    (s.dmaBusy i).getF g j = s.getF g j := by
  unfold State.dmaBusy
  dsimp only
  rw [getF_setF_apart _ (by decide) (.inl h3), getF_setF_apart _ (by decide) (.inl h2), getF_setF_apart _ (by decide) h1]

theorem dmaBusy_flag (s : State) (i : Nat) : (s.dmaBusy i).flag F.DMA_CHSTAT_BUSY i = s.chanBusy i := by
  unfold State.dmaBusy
  dsimp only
  rw [flag_setF_apart (by decide) (.inl (by decide)), flag_setF_apart (by decide) (.inl (by decide)), flag_setF_bit (by decide) (by decide)]
  rfl

theorem regsBut_dmaBusy (s : State) (i : Nat) :
    s.RegsBut (s.dmaBusy i) [(F.DMA_CHSTAT_BUSY, i), (F.DMA_ACTIVE_BUSY, i / 32), (F.DMA_POOL_USED_KIB, i / 32)] :=
  regsBut_trans (regsBut_setF s (by decide)) (regsBut_trans (regsBut_setF _ (by decide)) (regsBut_setF _ (by decide)))

theorem stir_eq (s : State) : s.stir = { s with waking := s.waking || s.asleep } := by
  unfold State.stir
  cases s.asleep with
  | true =>
    rw [if_pos rfl, Bool.or_true]
  | false =>
    rw [if_neg (by decide), Bool.or_false]

theorem jamb_of_lt (hc : c < 32) : (jamb * 32 + c) / 32 = jamb := by omega

theorem dmaDoorbell_moves (s : State) (v : Word64) (hj : jamb < 2) (hc : c < 32)
    (ht : bitsOf v.toNat 0 16 < 2 ^ s.getF F.DMA_RING_LOG2N (jamb * 32 + c)) :
    exec (.dmaDoorbell jamb c v) s =
      .next ((s.stir.setF F.DMA_TAIL_TAIL (jamb * 32 + c) (bitsOf v.toNat 0 16)).dmaBusy (jamb * 32 + c)) :=
  (if_neg (not_not.2 ⟨hj, hc⟩)).trans (if_neg (Nat.not_le.2 ht))

theorem dmaStop_exec {v : Word64} (hj : jamb < 2) (hc : c < 32) (hv : v.toNat % 4 = 1) :
    exec (.dmaStop jamb c v) s = .next (s.stopChan (jamb * 32 + c)) :=
  (if_neg (not_not.2 ⟨hj, hc⟩)).trans (if_neg (not_not.2 hv))

theorem dmaResume_exec {v : Word64} (hj : jamb < 2) (hc : c < 32) (hv : v.toNat % 4 = 2) (hq : s.boot.quiet = false) :
    exec (.dmaResume jamb c v) s = .next (s.resumeChan (jamb * 32 + c)) :=
  (if_neg (not_not.2 ⟨hj, hc⟩)).trans (if_neg fun h => h.elim (not_not.2 hv) (by simp [hq]))

/-- The bits that RESUME clears. -/
def resumed : List (Fld × Nat) := [(F.DMA_CHSTAT_STOPPED, 0), (F.DMA_CHSTAT_FETCH_ERR, 0), (F.DMA_CHSTAT_WB_ERR, 0)]

theorem resumed_flag {f : Fld} (hf : (f, 0) ∈ resumed) : (s.setFs i resumed).flag f i = false := by
  rw [State.flag, getF_setFs_of_mem (x := (f, 0)) s i
    (by simp [resumed, F.DMA_CHSTAT_STOPPED, F.DMA_CHSTAT_FETCH_ERR, F.DMA_CHSTAT_WB_ERR])
    (by simp [resumed, F.DMA_CHSTAT_STOPPED, F.DMA_CHSTAT_FETCH_ERR, F.DMA_CHSTAT_WB_ERR, Fld.Apart]) hf, Nat.zero_mod]
  rfl

theorem setFs_eq (s : State) (i : Nat) (l : List (Fld × Nat)) : s.setFs i l = { s with regs := (s.setFs i l).regs } :=
  List.foldlRecOn (motive := fun t : State => t = { s with regs := t.regs }) l _ rfl fun t ht x _ => by rw [ht]; rfl

/-- RESUME without a write-back to retry sets the channel going. -/
theorem resumeChan_runs (h : (s.chan i).halt ≠ 2) :
    ∃ k, k.stopping = false ∧ k.halt = 0 ∧ s.resumeChan i = (s.setFs i resumed).setChan i k := by
  have hk : (s.setFs i [(F.DMA_CHSTAT_STOPPED, 0), (F.DMA_CHSTAT_FETCH_ERR, 0), (F.DMA_CHSTAT_WB_ERR, 0)]).chan i = s.chan i := by
    rw [setFs_eq]; rfl
  unfold State.resumeChan
  dsimp only
  rw [hk]
  split
  · exact ⟨_, rfl, rfl, rfl⟩
  · rw [if_neg h]
    exact ⟨_, rfl, rfl, rfl⟩

/-- After RESUME without a write-back to retry, nothing stops the channel. -/
theorem resumeChan_clears (h : (s.chan i).halt ≠ 2) : (s.resumeChan i).flag F.DMA_CHSTAT_STOPPED i = false ∧
    (s.resumeChan i).flag F.DMA_CHSTAT_FETCH_ERR i = false ∧ (s.resumeChan i).flag F.DMA_CHSTAT_WB_ERR i = false ∧
    (s.resumeChan i).chanStopped i = false ∧ (s.resumeChan i).mem = s.mem := by
  obtain ⟨k, hs, hk, hr⟩ := resumeChan_runs h
  have hf : ∀ f : Fld, (f, 0) ∈ resumed → ((s.setFs i resumed).setChan i k).flag f i = false := fun f hf => by
    rw [State.flag, getF_setChan]
    exact resumed_flag hf
  have hstop := hf F.DMA_CHSTAT_STOPPED (by simp [resumed])
  rw [hr]
  refine ⟨hstop, hf _ (by simp [resumed]), hf _ (by simp [resumed]), ?_, setFs_mem s i resumed⟩
  rw [State.chanStopped, State.setChan_chan_same, hs, hk, hstop]
  rfl

theorem resumeChan_retries {d : DmaDesc} {rest : List DmaDesc} (hh : (s.chan i).halt = 2) (hf : (s.chan i).flight = d :: rest) :
    s.resumeChan i = ((s.setFs i resumed).setChan i { s.chan i with stopping := false, halt := 0 }).writeBack i d := by
  have hk : (s.setFs i [(F.DMA_CHSTAT_STOPPED, 0), (F.DMA_CHSTAT_FETCH_ERR, 0), (F.DMA_CHSTAT_WB_ERR, 0)]).chan i = s.chan i := by
    rw [setFs_eq]; rfl
  unfold State.resumeChan
  dsimp only
  rw [hk, hf]
  exact if_pos hh

theorem stopChan_empty (hf : (s.chan i).flight = []) : s.stopChan i =
    ((s.setChan i { s.chan i with stopping := false, next := s.getF F.DMA_HEAD_HEAD i }).setF F.DMA_CHSTAT_STOPPED i 1).dmaBusy i := if_pos hf

theorem stopChan_waits (hf : (s.chan i).flight ≠ []) : ∃ u : State, u.mem = s.mem ∧ s.stopChan i =
    (u.setChan i { s.chan i with stopping := true, flight := (s.chan i).flight.map DmaDesc.stopped }).dmaBusy i := by
  refine ⟨s.setChan i { s.chan i with stopping := true }, rfl, ?_⟩
  refine (if_neg hf).trans ?_
  unfold State.settle
  rw [State.setChan_chan_same]
  rfl

theorem dmaBusy_setChan_chan (s : State) (i : Nat) (k : Chan) : ((s.setChan i k).dmaBusy i).chan i = k := by
  rw [dmaBusy_eq]
  exact State.setChan_chan_same s i k

/-- Settles O37: each doorbell and control is its one write of the channel. -/
theorem ringsAreDriven : Obligations.RingsAreDriven := by
  unfold Obligations.RingsAreDriven
  refine ⟨fun s jamb c v hj hc => ?_, fun s jamb c v hj hc ht => ?_, fun s jamb c v hj hc hv hf => ?_, fun s jamb c v hj hc hv hf => ?_,
    fun s jamb c v hj hc hv hq hh => ?_, fun s jamb c v d rest hj hc hv => ?_, fun s jamb p v hj hp => ?_⟩
  · intro i ht
    refine ⟨_, dmaDoorbell_moves s v hj hc ht, ?_, ?_, ?_, ?_⟩
    · rw [getF_dmaBusy (.inl (by decide)) (by decide) (by decide), getF_setF_same _ (by decide)]
      exact Nat.mod_eq_of_lt (bitsOf_lt _ _ _)
    · rw [dmaBusy_eq, stir_eq]
      rfl
    · have h := regsBut_trans (regsBut_setF s.stir (f := F.DMA_TAIL_TAIL) (i := i) (x := bitsOf v.toNat 0 16) (by decide)) (regsBut_dmaBusy _ i)
      rw [show i / 32 = jamb from jamb_of_lt hc, stir_eq] at h
      rw [stir_eq]
      exact h
    · rw [dmaBusy_flag, State.chanBusy, getF_setF_same _ (by decide), getF_setF_apart _ (by decide) (.inl (by decide)),
        show bitsOf v.toNat 0 16 % 2 ^ F.DMA_TAIL_TAIL.w = bitsOf v.toNat 0 16 from Nat.mod_eq_of_lt (bitsOf_lt _ _ _), stir_eq]
      simp only [Bool.or_eq_true, bne_iff_ne]
      rfl
  · exact (if_neg (not_not.2 ⟨hj, hc⟩)).trans (if_pos ht)
  · refine ⟨_, (dmaStop_exec hj hc hv).trans (congrArg _ (stopChan_empty hf)), ?_, ?_, rfl⟩
    · rw [State.flag, getF_dmaBusy (.inr (by decide)) (by decide) (by decide), getF_setF_same _ (by decide)]
      rfl
    · rw [dmaBusy_eq]
      exact (congrArg Chan.flight (State.setChan_chan_same s _ _)).trans hf
  · obtain ⟨u, hu, hs⟩ := stopChan_waits hf
    refine ⟨_, (dmaStop_exec hj hc hv).trans (congrArg _ hs), ?_, ?_, hu, fun j d => ?_⟩
    · rw [dmaBusy_setChan_chan]
    · rw [dmaBusy_setChan_chan]
    · rw [State.mayMove, dmaBusy_setChan_chan]
      simp
  · exact ⟨_, dmaResume_exec hj hc hv hq, resumeChan_clears hh⟩
  · intro i hq hh hf
    rw [dmaResume_exec hj hc hv hq, resumeChan_retries hh hf]
    rfl
  · intro i ht
    refine ⟨(s.stir.setF F.DMA_RSTAIL_INDEX i (bitsOf v.toNat 0 16)).rsBusy i, ?_, ?_, ?_, ?_⟩
    · exact (if_neg (not_not.2 ⟨hj, hp⟩)).trans (if_neg (Nat.not_le.2 ht))
    · rw [State.rsBusy, getF_setF_apart _ (by decide) (.inl (by decide)), getF_setF_same _ (by decide)]
      exact Nat.mod_eq_of_lt (bitsOf_lt _ _ _)
    · rw [State.rsBusy, stir_eq]
      rfl
    · rw [stir_eq]
      exact regsBut_trans (regsBut_setF s (f := F.DMA_RSTAIL_INDEX) (i := i) (x := bitsOf v.toNat 0 16) (by decide)) (regsBut_setF _ (by decide))

end Sys2Proof.Machine

end

section
/-! SUPPORT. The steps of a DMA descriptor: its fetch, its pieces and records, its write-back and its time-out. -/

namespace Sys2Proof.Machine

variable {s t u : State} {i jamb c j p : Nat} {d : DmaDesc} {sym : Syms} {host : HostData}

/-! ## Bounce records -/

theorem bounceOf_setBounce_same (b : Bounce) : (s.setBounce p b).bounceOf p = b := tget_tset_same _ _ _ _

theorem bounceOf_setBounce_ne (b : Bounce) {q : Nat} (h : q ≠ p) : (s.setBounce p b).bounceOf q = s.bounceOf q := tget_tset_ne _ _ _ h

/-- A SEQ once accepted is not accepted again. -/
theorem accept_not_fresh (b : Bounce) (seq : Nat) : (b.accept seq).fresh seq = false := by
  have hh : seq + 1 ≤ (b.accept seq).high := Nat.le_max_right _ _
  have hs : (b.accept seq).high ≤ seq + 65 → (b.accept seq).seen.contains seq = true := fun h => by
    rw [List.contains_eq_mem, decide_eq_true]
    exact List.mem_filter.2 ⟨List.mem_cons_self .., decide_eq_true h⟩
  rw [Bounce.fresh, decide_eq_false (show ¬ (b.accept seq).high ≤ seq by omega), Bool.false_or]
  by_cases h : (b.accept seq).high ≤ seq + 65
  · rw [hs h, Bool.not_true, Bool.and_false]
  · rw [decide_eq_false h, Bool.false_and, Bool.false_and]

theorem fresh_iff (b : Bounce) (seq : Nat) : b.fresh seq = true ↔ b.high ≤ seq ∨ (b.high ≤ seq + 65 ∧ seq + 1 < b.high ∧ seq ∉ b.seen) := by
  simp [Bounce.fresh, and_assoc]

theorem bounceIn_refuses {len : Nat} {h : HostData} (hb : h.ok = false ∨ 2 ^ 40 ≤ (s.bounceOf p).h2d) : s.bounceIn p len h = (s, none) :=
  if_pos (hb.imp_left fun e => by simp [e])

/-- What the key opens of a record with the header expected. -/
def State.recordText (s : State) (p len : Nat) (h : HostData) : Option (List Byte) :=
  if h.bytes.take 32 = bounceHeader 0 p len (leAt h.bytes 8 8) then bounceOpen (s.bounceOf p).keyIn len h.bytes else none

theorem bounceIn_tagFails {len : Nat} {h : HostData} (ho : h.ok = true) (hb : (s.bounceOf p).h2d < 2 ^ 40) (hr : s.recordText p len h = none) :
    s.bounceIn p len h = (s.addF F.SEC_PBBSTAT_TAG_FAIL p 1, none) := by
  unfold State.recordText at hr
  unfold State.bounceIn
  dsimp only
  rw [if_neg fun h => h.elim (by simp [ho]) (Nat.not_le.2 hb), hr]

theorem bounceIn_opens {len : Nat} {h : HostData} {bs : List Byte} (ho : h.ok = true) (hb : (s.bounceOf p).h2d < 2 ^ 40)
    (hr : s.recordText p len h = some bs) :
    s.bounceIn p len h = if ¬ (s.bounceOf p).fresh (leAt h.bytes 8 8) then (s.addF F.SEC_PBBSTAT_SEQ_FAIL p 1, none)
        else ((s.setBounce p ((s.bounceOf p).accept (leAt h.bytes 8 8))).addF F.SEC_PBBSTAT_RECORDS p 1, some bs) := by
  unfold State.recordText at hr
  unfold State.bounceIn
  dsimp only
  rw [if_neg fun h => h.elim (by simp [ho]) (Nat.not_le.2 hb), hr]

theorem bounceIn_spec (s : State) (p len : Nat) (h : HostData) :
    let b := s.bounceOf p
    let seq := leAt h.bytes 8 8
    let good := h.bytes.take 32 = bounceHeader 0 p len seq
    (h.ok = false ∨ 2 ^ 40 ≤ b.h2d → s.bounceIn p len h = (s, none)) ∧
    (h.ok = true → b.h2d < 2 ^ 40 → (¬ good ∨ bounceOpen b.keyIn len h.bytes = none) →
     s.bounceIn p len h = (s.addF F.SEC_PBBSTAT_TAG_FAIL p 1, none)) ∧
    (∀ bs, h.ok = true → b.h2d < 2 ^ 40 → good → bounceOpen b.keyIn len h.bytes = some bs →
     (b.high ≤ seq ∨ (b.high ≤ seq + 65 ∧ seq + 1 < b.high ∧ seq ∉ b.seen) →
      ∃ u, s.bounceIn p len h = (u, some bs) ∧ s.RegsBut u [(F.SEC_PBBSTAT_RECORDS, p)] ∧
       u.getF F.SEC_PBBSTAT_RECORDS p = satAdd F.SEC_PBBSTAT_RECORDS.w (s.getF F.SEC_PBBSTAT_RECORDS p) 1 ∧
       (u.bounceOf p).high = max b.high (seq + 1) ∧ (u.bounceOf p).h2d = b.h2d + 1 ∧ (u.bounceOf p).fresh seq = false ∧
       ∀ q, q ≠ p → u.bounceOf q = s.bounceOf q) ∧
     (¬ (b.high ≤ seq ∨ (b.high ≤ seq + 65 ∧ seq + 1 < b.high ∧ seq ∉ b.seen)) →
      s.bounceIn p len h = (s.addF F.SEC_PBBSTAT_SEQ_FAIL p 1, none))) := by
  intro b seq good
  refine ⟨bounceIn_refuses, fun ho hb hn => ?_, fun bs ho hb hg hopen => ⟨fun hf => ?_, fun hf => ?_⟩⟩
  · refine bounceIn_tagFails ho hb ?_
    rcases hn with hn | hn
    · exact if_neg hn
    · rw [State.recordText, hn, ite_self]
  · have he := bounceIn_opens ho hb ((if_pos hg).trans hopen)
    rw [if_neg (not_not.2 ((fresh_iff b seq).2 hf))] at he
    have hsame : ((s.setBounce p (b.accept seq)).addF F.SEC_PBBSTAT_RECORDS p 1).bounceOf p = b.accept seq := bounceOf_setBounce_same _
    refine ⟨_, he, regsBut_setF (s.setBounce p (b.accept seq)) (by decide), getF_addF_same (by decide) p 1, ?_, ?_, ?_,
      fun q hq => bounceOf_setBounce_ne _ hq⟩
    · rw [hsame]; rfl
    · rw [hsame]; rfl
    · rw [hsame]
      exact accept_not_fresh b seq
  · have he := bounceIn_opens ho hb ((if_pos hg).trans hopen)
    rw [if_pos (show ¬ b.fresh seq = true from fun h => hf ((fresh_iff b seq).1 h))] at he
    exact he

theorem bounceOut_spec (s : State) (p : Nat) (bs : List Byte) :
    let b := s.bounceOf p
    let hd := bounceHeader 1 p bs.length b.d2h
    (2 ^ 40 ≤ b.d2h ∨ b.keyOut = [] → s.bounceOut p bs = (s, none)) ∧
    (b.d2h < 2 ^ 40 → b.keyOut ≠ [] →
     ∃ u, s.bounceOut p bs = (u, some (hd ++ gcmSeal b.keyOut (slice hd 2 2 ++ [0, 0] ++ slice hd 8 8) hd bs)) ∧
      u.bounceOf p = { b with d2h := b.d2h + 1 } ∧ s.RegsBut u [(F.SEC_PBBSTAT_RECORDS, p)] ∧ (∀ q, q ≠ p → u.bounceOf q = s.bounceOf q)) := by
  intro b hd
  refine ⟨fun h => if_pos h, fun hb hk => ?_⟩
  exact ⟨_, if_neg fun h => h.elim (Nat.not_le.2 hb) hk, bounceOf_setBounce_same _,
    regsBut_setF (s.setBounce p { b with d2h := b.d2h + 1 }) (by decide), fun q hq => bounceOf_setBounce_ne _ hq⟩

/-! ## Pieces -/

theorem dmaPiece_exec (hj : jamb < 2) (hc : c < 32) (hd : (s.chan (jamb * 32 + c)).flight[j]? = some d)
    (hm : s.mayMove (jamb * 32 + c) j d = true) (hr : s.byRecord (jamb * 32 + c) d = true) :
    exec (.dmaPiece jamb c j sym host) s = .next (s.bouncePiece (jamb * 32 + c) j d sym host) := by
  change execDmaPiece jamb c j sym host s = _
  unfold execDmaPiece
  rw [if_neg (not_not.2 ⟨hj, hc⟩)]
  dsimp only
  rw [hd]
  exact (if_neg (not_not.2 hm)).trans (if_pos hr)

/-- A piece that is no record, by the side its source is at. -/
def State.plainPiece (s : State) (i j : Nat) (d : DmaDesc) (sym : Syms) (host : HostData) : Out :=
  match s.side d.bytes false d.at' with
  | .here a =>
    match s.dmaRead (s.chanOwner i) a (pieceLen d.bytes d.at') sym with
    | (s, .ok bs) => .next (s.putPiece i j d sym bs host.ok)
    | (s, .refused _) => .next (s.failDesc i j d 0x20)
  | .host _ => if host.ok then .next (s.putPiece i j d sym (padTo (pieceLen d.bytes d.at') host.bytes) true) else .next (s.failDesc i j d 0x20)
  | .none a => .next ((s.rangeRefused a (a + pieceLen d.bytes d.at' - 1)).failDesc i j d 0x20)
  | .there node a =>
    .next ((s.setDesc i j { d with phase := 1 }).dmaSend i d.slot ptMEM_RD node (a / 64 * 64) (pieceSpan d.bytes d.at') [])

theorem dmaPiece_plain (hj : jamb < 2) (hc : c < 32) (hd : (s.chan (jamb * 32 + c)).flight[j]? = some d)
    (hm : s.mayMove (jamb * 32 + c) j d = true) (hr : s.byRecord (jamb * 32 + c) d = false) :
    exec (.dmaPiece jamb c j sym host) s = s.plainPiece (jamb * 32 + c) j d sym host := by
  change execDmaPiece jamb c j sym host s = _
  unfold execDmaPiece
  rw [if_neg (not_not.2 ⟨hj, hc⟩)]
  dsimp only
  rw [hd]
  exact (if_neg (not_not.2 hm)).trans (if_neg (by rw [hr]; decide))

/-! ## Fetch, write-back, time-out -/

theorem descriptorFetch_reads {b : List Byte} (hj : jamb < 2) (hc : c < 32) (hw : s.getF F.PWR_STATUS_STATE 0 = 0)
    (hen : s.flag F.DMA_CHCFG_EN (jamb * 32 + c) = true) (hs : s.chanStopped (jamb * 32 + c) = false)
    (hn : (s.chan (jamb * 32 + c)).next ≠ s.getF F.DMA_TAIL_TAIL (jamb * 32 + c))
    (hr : (s.markAt (s.slotAddr (jamb * 32 + c) (s.chan (jamb * 32 + c)).next)).read
      (s.slotAddr (jamb * 32 + c) (s.chan (jamb * 32 + c)).next) 64 sym = (u, .ok b)) :
    exec (.descriptorFetch jamb c sym) s = .next (((u.descRefused (jamb * 32 + c) b).setChan (jamb * 32 + c) { s.chan (jamb * 32 + c) with
        flight := (s.chan (jamb * 32 + c)).flight ++ [⟨(s.chan (jamb * 32 + c)).next, b, u.descCheck (jamb * 32 + c) b, 0, 0, 0, 0, []⟩]
        next := ((s.chan (jamb * 32 + c)).next + 1) % 2 ^ u.getF F.DMA_RING_LOG2N (jamb * 32 + c) }).dmaBusy (jamb * 32 + c)) := by
  change execDescriptorFetch jamb c sym s = _
  unfold execDescriptorFetch
  rw [if_neg (not_not.2 ⟨hj, hc⟩)]
  dsimp only
  rw [if_neg (by
    rintro (h | h | h | h)
    · exact h hw
    · exact h hen
    · simp [hs] at h
    · exact hn h), hr]

theorem descriptorComplete_exec {d' : DmaDesc} {rest : List DmaDesc} {ok : Bool} (hj : jamb < 2) (hc : c < 32)
    (hf : (s.chan (jamb * 32 + c)).flight = d :: rest) (hh : (s.chan (jamb * 32 + c)).halt ≠ 2)
    (hs : (s.addFlaws sym).finalStatus (jamb * 32 + c) d sym ok = (u, some d')) :
    exec (.descriptorComplete jamb c sym ok) s = .next (u.writeBack (jamb * 32 + c) d') := by
  change execDescriptorComplete jamb c sym ok s = _
  unfold execDescriptorComplete
  rw [if_neg (not_not.2 ⟨hj, hc⟩)]
  dsimp only
  rw [hf]
  dsimp only
  rw [if_neg hh, hs]

theorem writeBack_ok {v : State} {bs : List Byte} (hw : u.writeSlot (u.slotAddr i d.slot) (d.image d.status) = (v, .ok bs)) :
    u.writeBack i d = v.retire i d := by
  unfold State.writeBack
  rw [hw]

theorem setDesc_eq (s : State) (i j : Nat) (d : DmaDesc) :
    s.setDesc i j d = { s with regs := (s.setDesc i j d).regs, dma := (s.setDesc i j d).dma } := rfl

theorem getF_setDesc {g : Fld} (h1 : F.DMA_CHSTAT_BUSY.Apart g) (h2 : g.reg ≠ .DMA_ACTIVE) (h3 : g.reg ≠ .DMA_POOL) (k : Nat) :
    (s.setDesc i j d).getF g k = s.getF g k := by
  rw [State.setDesc, getF_dmaBusy h1 h2 h3, getF_setChan]

theorem setDesc_chan (s : State) (i j : Nat) (d : DmaDesc) : (s.setDesc i j d).chan i = { s.chan i with flight := (s.chan i).flight.set j d } :=
  dmaBusy_setChan_chan s i _

theorem State.RingOp.chan (h : s.RingOp t) (i : Nat) : t.chan i = s.chan i := by rw [h.frame]; rfl

theorem writeBack_refused {v : State} {code : Nat} (hw : u.writeSlot (u.slotAddr i d.slot) (d.image d.status) = (v, .refused code)) :
    (u.writeBack i d).flag F.DMA_CHSTAT_WB_ERR i = true ∧ ((u.writeBack i d).chan i).halt = 2 ∧
      (u.writeBack i d).getF F.DMA_HEAD_HEAD i = v.getF F.DMA_HEAD_HEAD i := by
  have he : u.writeBack i d = ((((v.setDesc i 0 d).setChan i { (v.setDesc i 0 d).chan i with halt := 2 }).setF F.DMA_CHSTAT_WB_ERR i 1).logFree
      ((v.setDesc i 0 d).chanOwner i) [i]) := by
    unfold State.writeBack
    rw [hw]
  rw [he]
  have hhead : (v.setDesc i 0 d).getF F.DMA_HEAD_HEAD i = v.getF F.DMA_HEAD_HEAD i :=
    getF_setDesc (.inl (by decide)) (by decide) (by decide) i
  rw [← hhead]
  generalize v.setDesc i 0 d = w
  have hr := State.RingOp.logFree (s := (w.setChan i { w.chan i with halt := 2 }).setF F.DMA_CHSTAT_WB_ERR i 1) (w.chanOwner i) [i]
  refine ⟨?_, ?_, ?_⟩
  · rw [State.flag, hr.regs _ _ (by decide), getF_setF_same _ (by decide)]
    rfl
  · rw [hr.chan]
    exact congrArg Chan.halt (State.setChan_chan_same w i _)
  · rw [hr.regs _ _ (by decide), getF_setF_apart _ (by decide) (.inl (by decide)), getF_setChan]

theorem setDesc_flight {k : Nat} (h : j < (s.chan i).flight.length) : (((s.setDesc i j d).dropTags i k).chan i).flight[j]? = some d := by
  change ((s.setDesc i j d).chan i).flight[j]? = some d
  rw [setDesc_chan]
  exact List.getElem?_set_self h

theorem dmaTimeout_ends (hj : jamb < 2) (hc : c < 32) (hd : (s.chan (jamb * 32 + c)).flight[j]? = some d) (ha : s.awaits d = true) :
    exec (.dmaTimeout jamb c j) s = .next ((s.setDesc (jamb * 32 + c) j { d with
        status := if (s.chan (jamb * 32 + c)).stopping = true ∧ d.at' < dTotal d.bytes then 0x24 else 0x22
        fail := if dTotal d.bytes ≤ d.at' then d.last else d.at', phase := 0, buf := [] }).dropTags (jamb * 32 + c) d.slot) := by
  change execDmaTimeout jamb c j s = _
  unfold execDmaTimeout
  rw [if_neg (not_not.2 ⟨hj, hc⟩)]
  dsimp only
  rw [hd]
  dsimp only
  rw [if_neg (not_not.2 ha)]
  simp only [Nat.not_le]

/-- Settles O38: each step of a descriptor is the branch of its function that the conditions name. -/
theorem descriptorsMove : Obligations.DescriptorsMove := by
  unfold Obligations.DescriptorsMove
  refine ⟨fun s u jamb c sym b hj hc => ?_, fun s u jamb c j a sym host d bs hj hc => ?_, fun s jamb c j a sym host d hj hc => ?_,
    fun s jamb c j node a sym host d hj hc => ?_, fun s jamb c j sym host d hj hc => ?_, fun s p len h _ => bounceIn_spec s p len h,
    fun s p bs _ => bounceOut_spec s p bs, fun s u v jamb c sym ok d d' rest r hj hc => ?_, fun s jamb c j d hj hc => ?_⟩
  · intro i a hw hen hs hn hr
    exact ⟨descriptorFetch_reads hj hc hw hen hs hn hr, fun h => if_pos h⟩
  · intro i hd hm hr hs hread
    refine (dmaPiece_plain hj hc hd hm hr).trans ?_
    unfold State.plainPiece
    rw [hs]
    dsimp only
    rw [hread]
  · intro i hd hm hr hs hok
    refine (dmaPiece_plain hj hc hd hm hr).trans ?_
    unfold State.plainPiece
    rw [hs]
    exact if_pos hok
  · intro i hd hm hr hs
    refine (dmaPiece_plain hj hc hd hm hr).trans ?_
    unfold State.plainPiece
    rw [hs]
  · intro i hd hm hr
    refine ⟨fun u h3 hb => ?_, fun u bs h3 hb => ?_, fun a u v bs r h3 hs hok hread hb => ?_⟩ <;>
      refine (dmaPiece_exec hj hc hd hm hr).trans (congrArg _ ?_) <;> unfold State.bouncePiece <;> dsimp only
    · rw [if_pos h3, hb]
    · rw [if_pos h3, hb]
    · rw [if_neg h3, hs]
      dsimp only
      rw [hread]
      dsimp only
      rw [if_neg (not_not.2 hok), hb]
  · intro i hf hh hs hw
    have he := descriptorComplete_exec hj hc hf hh hs
    refine ⟨fun bs hr => ?_, fun code hr => ?_⟩ <;> subst hr
    · exact he.trans (congrArg _ (writeBack_ok hw))
    · exact ⟨_, he, writeBack_refused hw⟩
  · intro i hd ha
    exact ⟨_, dmaTimeout_ends hj hc hd ha, setDesc_flight (List.getElem?_eq_some_iff.1 hd).1, rfl⟩

end Sys2Proof.Machine

end

section
/-! SUPPORT. The jobs of a Reed–Solomon ring: their run, their time-out and their completion. -/

namespace Sys2Proof.Machine

variable {s t u : State} {i jamb p : Nat} {sym : Syms}

theorem encode_runs (hj : jamb < 2) (hp : p < 16) (hk : jKind ((s.fetchJob (jamb * 16 + p) 1 sym).rsJob (jamb * 16 + p)).bytes = 1) :
    exec (.encode jamb p sym) s = .next ((s.fetchJob (jamb * 16 + p) 1 sym).rsRun (jamb * 16 + p) sym) :=
  (if_neg (not_not.2 ⟨hj, hp⟩)).trans (if_pos hk)

theorem rebuild_runs (hj : jamb < 2) (hp : p < 16) (hk : jKind ((s.fetchJob (jamb * 16 + p) 2 sym).rsJob (jamb * 16 + p)).bytes = 2) :
    exec (.rebuild jamb p sym) s = .next ((s.fetchJob (jamb * 16 + p) 2 sym).rsRun (jamb * 16 + p) sym) :=
  (if_neg (not_not.2 ⟨hj, hp⟩)).trans (if_pos hk)

/-- A job at hand is not fetched again. -/
theorem fetchJob_held (kind : Nat) (h : s.rsJob i ≠ rsNone) : s.fetchJob i kind sym = s := if_pos (.inr (.inl h))

theorem setJob_rsJob (s : State) (i : Nat) (j : RsJob) : (s.setJob i j).rsJob i = j := tget_tset_same _ _ _ _

/-- A job with a status runs no column. -/
theorem rsIn_ended (phase : Nat) (h : (s.rsJob i).status ≠ 0) : s.rsIn i phase = false := by
  simp [State.rsIn, h]

theorem rsRun_ended (h : ((s.rsTimeout i).rsJob i).status ≠ 0) : s.rsRun i sym = s.rsTimeout i := by
  unfold State.rsRun
  simp [rsIn_ended _ h]

/-- The state in which the awaited responses of a job are given up. -/
def State.giveUp (s : State) (i : Nat) : State :=
  ({ s with tags := s.tags.filter (fun t => !t.2.ofRs (i / 16) (i % 16)) } : State).failJob i 0x22

theorem rsTimeout_late (h0 : (s.rsJob i).status = 0) (hw : 0 < (s.rsJob i).wait)
    (hl : (s.rsJob i).since + 1000 * s.getF F.DMA_CTRL_TIMEOUT_US 0 < s.now) : s.rsTimeout i = s.giveUp i := if_pos ⟨h0, hw, hl⟩

theorem giveUp_job (s : State) (i : Nat) : ((s.giveUp i).rsJob i).status = 0x22 ∧ ((s.giveUp i).rsJob i).wait = 0 := by
  unfold State.giveUp State.failJob
  rw [setJob_rsJob]
  exact ⟨rfl, rfl⟩

theorem late_runs (h0 : (s.rsJob i).status = 0) (hw : 0 < (s.rsJob i).wait)
    (hl : (s.rsJob i).since + 1000 * s.getF F.DMA_CTRL_TIMEOUT_US 0 < s.now) (kind : Nat) :
    (s.fetchJob i kind sym).rsJob i = s.rsJob i ∧ (s.fetchJob i kind sym).rsRun i sym = s.giveUp i := by
  have hn : s.rsJob i ≠ rsNone := fun h => by rw [h] at hw; exact absurd hw (by decide)
  rw [fetchJob_held kind hn]
  have ht := rsTimeout_late h0 hw hl
  refine ⟨rfl, (rsRun_ended ?_).trans ht⟩
  rw [ht, (giveUp_job s i).1]
  decide

theorem rsJobComplete_done {r : List Byte} (hj : jamb < 2) (hp : p < 16) (hn : s.rsJob (jamb * 16 + p) ≠ rsNone)
    (h0 : (s.rsJob (jamb * 16 + p)).status = 0) (h4 : (s.rsJob (jamb * 16 + p)).phase = 4) (hk : jKind (s.rsJob (jamb * 16 + p)).bytes = 1)
    (hf : s.flag F.DMA_RSSTAT_FETCH_ERR (jamb * 16 + p) = false) (hl : jLatchEn (s.rsJob (jamb * 16 + p)).bytes = false)
    (hno : jNotify (s.rsJob (jamb * 16 + p)).bytes = false)
    (hw : (s.markAt (s.jobSlot (jamb * 16 + p))).write (s.jobSlot (jamb * 16 + p)) [] ((s.rsJob (jamb * 16 + p)).bytes.take 4 ++ leBytes 1 1 ++
      slice (s.rsJob (jamb * 16 + p)).bytes 5 27 ++ leBytes 5 (s.rsJob (jamb * 16 + p)).fail ++ (s.rsJob (jamb * 16 + p)).bytes.drop 37) = (u, .ok r)) :
    exec (.rsJobComplete jamb p) s = .next ((((u.setF F.DMA_RSHEAD_INDEX (jamb * 16 + p) ((u.getF F.DMA_RSHEAD_INDEX (jamb * 16 + p) + 1) %
      2 ^ u.getF F.DMA_RSCFG_LOG2N (jamb * 16 + p))).addF F.DMA_RSSTAT_DONE (jamb * 16 + p) 1).setJob (jamb * 16 + p) rsNone).rsBusy (jamb * 16 + p)) := by
  change execRsJobComplete jamb p s = _
  unfold execRsJobComplete
  rw [if_neg (not_not.2 ⟨hj, hp⟩)]
  dsimp only
  rw [if_neg (by
    rintro (h | h | h)
    · exact hn h
    · exact h.2 h4
    · simp [hf] at h)]
  simp only [h0, hk, hl, hno, ne_eq, not_true_eq_false, if_false, Bool.false_eq_true, false_and, hw]
  rfl

theorem getF_rsBusy {g : Fld} {k : Nat} (h : F.DMA_RSSTAT_BUSY.Apart g) : (s.rsBusy i).getF g k = s.getF g k :=
  getF_setF_apart s (by decide) h

theorem getF_setJob (g : Fld) (k : Nat) (j : RsJob) : (s.setJob i j).getF g k = s.getF g k := rfl

/-- The ring after the completion of its job. -/
def State.completed (u : State) (i x : Nat) : State :=
  (((u.setF F.DMA_RSHEAD_INDEX i x).addF F.DMA_RSSTAT_DONE i 1).setJob i rsNone).rsBusy i

theorem completed_ring (u : State) (i x : Nat) :
    (u.completed i x).rsJob i = rsNone ∧ (u.completed i x).mem = u.mem ∧
      u.RegsBut (u.completed i x) [(F.DMA_RSHEAD_INDEX, i), (F.DMA_RSSTAT_DONE, i), (F.DMA_RSSTAT_BUSY, i)] ∧
      (u.completed i x).getF F.DMA_RSHEAD_INDEX i = x % 2 ^ F.DMA_RSHEAD_INDEX.w ∧
      (u.completed i x).getF F.DMA_RSSTAT_DONE i = satAdd F.DMA_RSSTAT_DONE.w (u.getF F.DMA_RSSTAT_DONE i) 1 := by
  unfold State.completed
  refine ⟨setJob_rsJob _ i rsNone, rfl, ?_, ?_, ?_⟩
  · exact regsBut_trans (regsBut_setF u (f := F.DMA_RSHEAD_INDEX) (i := i) (x := x) (by decide)) (regsBut_trans (regsBut_setF _ (f := F.DMA_RSSTAT_DONE) (by decide))
      (regsBut_setF _ (f := F.DMA_RSSTAT_BUSY) (by decide)))
  · rw [getF_rsBusy (.inl (by decide)), getF_setJob, getF_addF_apart _ (by decide) (.inl (by decide)), getF_setF_same _ (by decide)]
  · rw [getF_rsBusy (.inr (by decide)), getF_setJob, getF_addF_same (by decide), getF_setF_apart _ (by decide) (.inl (by decide))]

/-- Settles O39: the job of the ring runs, is given up, or leaves the ring. -/
theorem jobsRun : Obligations.JobsRun := by
  unfold Obligations.JobsRun
  refine ⟨fun s jamb p sym hj hp hk => encode_runs hj hp hk, fun s jamb p sym hj hp hk => rebuild_runs hj hp hk, fun s jamb p sym hj hp => ?_,
    fun s u jamb p r hj hp => ?_⟩
  · intro i j h0 hw hl hk
    have hrun := fun kind => late_runs (sym := sym) h0 hw hl kind
    have htags : ∀ x ∈ (s.giveUp i).tags, x ∈ s.tags ∧ x.2.ofRs jamb p = false := by
      intro x hx
      obtain ⟨h1, h2⟩ := List.mem_filter.1 (show x ∈ s.tags.filter (fun t => !t.2.ofRs (i / 16) (i % 16)) from hx)
      rw [show i / 16 = jamb by omega, show i % 16 = p by omega] at h2
      exact ⟨h1, by simpa using h2⟩
    refine ⟨s.giveUp i, ?_, (giveUp_job s i).1, (giveUp_job s i).2, rfl, htags⟩
    rcases hk with hk | hk
    · rw [if_pos hk, encode_runs hj hp ((congrArg (fun j : RsJob => jKind j.bytes) (hrun 1).1).trans hk)]
      exact congrArg _ (hrun 1).2
    · rw [if_neg (by rw [hk]; decide), rebuild_runs hj hp ((congrArg (fun j : RsJob => jKind j.bytes) (hrun 2).1).trans hk)]
      exact congrArg _ (hrun 2).2
  · intro i j hn h0 h4 hk hf hl hno hw
    obtain ⟨h1, h2, h3, h5, h6⟩ := completed_ring u i ((u.getF F.DMA_RSHEAD_INDEX i + 1) % 2 ^ u.getF F.DMA_RSCFG_LOG2N i)
    exact ⟨_, rsJobComplete_done hj hp hn h0 h4 hk hf hl hno hw, h1, h2, h3, h5, h6⟩

end Sys2Proof.Machine

end

section
/-! SUPPORT. The frequency of a pane: its request, its change, its restart and its return after an emergency. -/

namespace Sys2Proof.Machine

variable {s t : State} {q p code x : Nat} {g : Fld}

/-! ## The queue of the locks -/

theorem leaveQ_eq (s : State) (code x : Nat) : s.leaveQ code x = { s with regs := (s.leaveQ code x).regs, lockQ := (s.leaveQ code x).lockQ } := by
  unfold State.leaveQ
  split <;> rfl

theorem getF_leaveQ (h : g.reg ≠ .CTL_MLOCK) (j : Nat) : (s.leaveQ code x).getF g j = s.getF g j := by
  unfold State.leaveQ
  split
  · exact getF_setF_apart _ (by decide) (.inl h)
  · rfl

theorem regsBut_leaveQ (s : State) (code x : Nat) : s.RegsBut (s.leaveQ code x) [(F.CTL_MLOCK_QUEUED, 0)] := by
  unfold State.leaveQ
  split
  · exact regsBut_setF ({ s with lockQ := _ } : State) (by decide)
  · exact regsBut_refl s _

theorem getF_takeLocks (h : g.reg ≠ .CTL_MLOCK) (rs : List Nat) (j : Nat) : (s.takeLocks code rs).getF g j = s.getF g j :=
  getF_setF_apart _ (by decide) (.inl h)

theorem getF_dropLocks (h : g.reg ≠ .CTL_MLOCK) (rs : List Nat) (j : Nat) : (s.dropLocks code rs).getF g j = s.getF g j :=
  getF_setF_apart _ (by decide) (.inl h)

theorem getF_grantLock (h : g.reg ≠ .CTL_MLOCK) (j : Nat) : (s.grantLock code x).getF g j = s.getF g j := by
  rw [State.grantLock, getF_takeLocks h, getF_leaveQ h]

theorem grantLock_locked (hc : code ≠ 2) : (s.grantLock code x).locked code x = true := by
  rw [State.grantLock, if_neg hc]
  exact takeLocks_locked _ code x

theorem grantLock_mem (s : State) (code x : Nat) : (s.grantLock code x).mem = s.mem := by
  rw [State.grantLock, leaveQ_eq]
  rfl

theorem grantLock_pane (s : State) (code x q : Nat) : (s.grantLock code x).pane q = s.pane q := by
  rw [State.grantLock, leaveQ_eq]
  rfl

theorem askLock_eq (s : State) (code x : Nat) : s.askLock code x = { s with regs := (s.askLock code x).regs, lockQ := (s.askLock code x).lockQ } := by
  unfold State.askLock
  split <;> rfl

theorem askLock_waits (s : State) (code x : Nat) : (code, x) ∈ (s.askLock code x).lockQ := by
  unfold State.askLock
  split
  · next h => simpa using h
  · exact List.mem_append_right _ (List.mem_singleton_self _)

theorem getF_askLock (h : g.reg ≠ .CTL_MLOCK) (j : Nat) : (s.askLock code x).getF g j = s.getF g j := by
  unfold State.askLock
  split
  · rfl
  · exact (getF_setF_apart _ (by decide) (.inl h)).trans (getF_addF_apart s (by decide) (.inl h))

/-! ## PENDING -/

theorem unpend_eq (s : State) (q : Nat) : s.unpend q = { s with regs := (s.unpend q).regs, lockQ := (s.unpend q).lockQ } := by
  rw [State.unpend, leaveQ_eq]
  rfl

theorem getF_unpend (h : g.reg ≠ .CTL_MLOCK) (hp : F.PANE_FREQ_PENDING.Apart g) (j : Nat) : (s.unpend q).getF g j = s.getF g j := by
  rw [State.unpend, getF_leaveQ h, getF_setF_apart _ (by decide) hp]

theorem unpend_pending (s : State) (q : Nat) : (s.unpend q).flag F.PANE_FREQ_PENDING q = false := by
  rw [State.flag, State.unpend, getF_leaveQ (by decide), getF_setF_same _ (by decide)]
  rfl

theorem regsBut_unpend (s : State) (q : Nat) : s.RegsBut (s.unpend q) [(F.PANE_FREQ_PENDING, q), (F.CTL_MLOCK_QUEUED, 0)] :=
  regsBut_trans (regsBut_setF s (by decide)) (regsBut_leaveQ _ _ _)

theorem pendPane_eq (s : State) (q : Nat) : s.pendPane q = { s with regs := (s.pendPane q).regs, lockQ := (s.pendPane q).lockQ } := by
  unfold State.pendPane
  split
  · rfl
  · exact unpend_eq s q

theorem getF_pendPane (h : g.reg ≠ .CTL_MLOCK) (hp : F.PANE_FREQ_PENDING.Apart g) (j : Nat) : (s.pendPane q).getF g j = s.getF g j := by
  unfold State.pendPane
  split
  · exact getF_setF_apart _ (by decide) hp
  · exact getF_unpend h hp j

theorem pendPane_pending (s : State) (q : Nat) : (s.pendPane q).flag F.PANE_FREQ_PENDING q = true ↔
    s.getF F.PANE_FREQ_REQ q ≠ s.getF F.PANE_FREQ_CUR q ∧ s.flag F.PANE_FREQ_EMERG q = false := by
  unfold State.pendPane
  split
  · next h => exact ⟨fun _ => ⟨h.1, by simpa using h.2⟩, fun _ => by rw [State.flag, getF_setF_same _ (by decide)]; rfl⟩
  · next h =>
    rw [unpend_pending]
    exact ⟨fun h => absurd h (by decide), fun h' => absurd ⟨h'.1, by simp [h'.2]⟩ h⟩

theorem regsBut_pendPane (s : State) (q : Nat) : s.RegsBut (s.pendPane q) [(F.PANE_FREQ_PENDING, q), (F.CTL_MLOCK_QUEUED, 0)] := by
  unfold State.pendPane
  split
  · exact regsBut_mono (regsBut_setF s (by decide)) (by simp)
  · exact regsBut_unpend s q

/-! ## The commands -/

theorem paneFreqRequest_sets {v : Word64} (hq : q < 32) (hst : s.getF F.PANE_FREQ_STATE q ≠ 2) (hd : s.dark = false) (hp : s.panePinned q = false) :
    exec (.paneFreqRequest q v) s = .next ((s.setF F.PANE_FREQ_REQ q (bitsOf v.toNat 4 2)).pendPane q) :=
  (if_neg (not_not.2 hq)).trans ((if_neg (by simp [hd, hp])).trans (congrArg _ (if_neg hst)))

theorem paneFreqChange_exec (hq : q < 32) (hst : s.getF F.PANE_FREQ_STATE q = 0) (hpe : s.flag F.PANE_FREQ_PENDING q = true)
    (hstep : s.paneInStep q = false) (hd : s.dark = false) : exec (.paneFreqChange q) s =
      if ¬ s.mayLock 0 q then .next (s.askLock 0 q)
      else .next (((s.stopPane q (s.getF F.PANE_FREQ_REQ q) false).setF F.PANE_FREQ_PENDING q 0).grantLock 0 q) :=
  (if_neg (not_not.2 hq)).trans (if_neg (by simp [hd, hst, hpe, hstep]))

/-- The state of a pane restarted, before the outcome of its crossings. -/
def State.recalibrated (s : State) (q ns : Nat) (cin cout : Cal) : State :=
  ((s.setFs q [(F.PANE_STOP_LAST_NS, min (2 ^ 32 - 1) ns),
    (F.PANE_STOP_MAX_NS, max (s.getF F.PANE_STOP_MAX_NS q) (min (2 ^ 32 - 1) ns))]).calibrate q fPaneIn cin
      (paneInTarget (s.pane q).target)).calibrate q fPaneOut cout 6

/-- The pane's crossing counts as drifted no longer. -/
def State.undrift (s : State) (q : Nat) : State := { s with drifted := s.drifted.filter (fun x => x != (0, q)) }

theorem getF_undrift (s : State) (q : Nat) (g : Fld) (j : Nat) : (s.undrift q).getF g j = s.getF g j := rfl

/-- The same once the lock is given back and the drift forgotten. -/
def State.restarted (s : State) (q ns : Nat) (cin cout : Cal) : State :=
  let u := ((s.recalibrated q ns cin cout).addF F.PANE_FREQ_CHANGES q 1).setF F.PANE_FREQ_CUR q (s.pane q).target
  (if (s.pane q).emerg then u else u.dropLocks 0 [q]).undrift q

theorem paneRestart_runs {ns : Nat} {cin cout : Cal} (hq : q < 32) (hst : s.getF F.PANE_FREQ_STATE q = 1) (hfo : (s.pane q).follow = false)
    (hin : calOk cin (paneInTarget (s.pane q).target) = true) (hout : calOk cout 6 = true)
    (ho : ((((s.restarted q ns cin cout).setF F.PANE_FREQ_STATE q 0).setPane q { s.pane q with emerg := false, follow := false }).pendPane q).paneOwner q
      = none) :
    exec (.paneRestart q ns cin cout) s =
      .next ((((s.restarted q ns cin cout).setF F.PANE_FREQ_STATE q 0).setPane q { s.pane q with emerg := false, follow := false }).pendPane q) := by
  change execPaneRestart q ns cin cout s = _
  unfold execPaneRestart
  rw [if_neg (not_not.2 hq), if_neg (not_not.2 hst)]
  dsimp only
  rw [if_pos ⟨hin, hout⟩, hfo, if_neg (by decide)]
  change (match ((((s.restarted q ns cin cout).setF F.PANE_FREQ_STATE q 0).setPane q { s.pane q with emerg := false, follow := false }).pendPane q).paneOwner q
    with | some p => Host.Outcome.next _ | none => Host.Outcome.next _) = _
  rw [ho]
  rfl

theorem paneRestart_fails {ns : Nat} {cin cout : Cal} (hq : q < 32) (hst : s.getF F.PANE_FREQ_STATE q = 1)
    (hin : calOk cin (paneInTarget (s.pane q).target) = false) {u : State}
    (hu : u = ((s.restarted q ns cin cout).setF F.PANE_FREQ_STATE q 3).unpend q) {p a : Nat} (ha : a = (u.paneOwner q).getD 255)
    (ho : (u.logFree a [q]).paneOwner q = some p) :
    exec (.paneRestart q ns cin cout) s = .next ((u.logFree a [q]).abortStep p 9 0) := by
  change execPaneRestart q ns cin cout s = _
  unfold execPaneRestart
  rw [if_neg (not_not.2 hq), if_neg (not_not.2 hst)]
  dsimp only
  rw [if_neg fun h => absurd (hin.symm.trans h.1) (by decide)]
  subst ha hu
  change (match (((((s.restarted q ns cin cout).setF F.PANE_FREQ_STATE q 3).unpend q)).logFree
      (((((s.restarted q ns cin cout).setF F.PANE_FREQ_STATE q 3).unpend q).paneOwner q).getD 255) [q]).paneOwner q with | some p => Host.Outcome.next _ | none => Host.Outcome.next _) = _
  rw [ho]
  rfl

/-! ## The calibration of a crossing -/

/-- The fields of a crossing, within the register and apart. -/
structure Crossing (fs : Fld × Fld × Fld × Fld) : Prop where
  bounds : ∀ f ∈ [fs.1, fs.2.1, fs.2.2.1, fs.2.2.2], f.reg = .PANE_XLAT ∧ f.lo + f.w ≤ 64
  apart : ∀ f ∈ [fs.2.1, fs.2.2.1, fs.2.2.2], f.Apart fs.1
  bit : fs.1.w = 1

theorem crossing_in : Crossing fPaneIn := by
  refine ⟨?_, ?_, rfl⟩ <;> simp [fPaneIn, F.PANE_XLAT_IN_CALFAIL, F.PANE_XLAT_IN_PHASE, F.PANE_XLAT_IN_MARGIN, F.PANE_XLAT_IN_LAT, Fld.Apart]

theorem crossing_out : Crossing fPaneOut := by
  refine ⟨?_, ?_, rfl⟩ <;> simp [fPaneOut, F.PANE_XLAT_OUT_CALFAIL, F.PANE_XLAT_OUT_PHASE, F.PANE_XLAT_OUT_MARGIN, F.PANE_XLAT_OUT_LAT, Fld.Apart]

variable {fs : Fld × Fld × Fld × Fld} {cal : Cal} {target i : Nat}

theorem calibrate_eq (s : State) (i : Nat) (fs : Fld × Fld × Fld × Fld) (cal : Cal) (target : Nat) :
    s.calibrate i fs cal target = { s with regs := (s.calibrate i fs cal target).regs } := by
  unfold State.calibrate
  split <;> rfl

theorem getF_calibrate (h : Crossing fs) (hg : ∀ f ∈ [fs.1, fs.2.1, fs.2.2.1, fs.2.2.2], f.Apart g) (j : Nat) :
    (s.calibrate i fs cal target).getF g j = s.getF g j := by
  obtain ⟨b1, b2, b3, b4⟩ : (fs.1.lo + fs.1.w ≤ 64) ∧ (fs.2.1.lo + fs.2.1.w ≤ 64) ∧ (fs.2.2.1.lo + fs.2.2.1.w ≤ 64) ∧
      (fs.2.2.2.lo + fs.2.2.2.w ≤ 64) := ⟨(h.bounds _ (by simp)).2, (h.bounds _ (by simp)).2, (h.bounds _ (by simp)).2, (h.bounds _ (by simp)).2⟩
  unfold State.calibrate
  split
  · rw [setFs_cons, setFs_cons, setFs_cons, setFs_cons, setFs_nil, getF_setF_apart _ b4 (hg _ (by simp)), getF_setF_apart _ b3 (hg _ (by simp)),
      getF_setF_apart _ b2 (hg _ (by simp)), getF_setF_apart _ b1 (hg _ (by simp))]
  · exact getF_setF_apart _ b1 (hg _ (by simp))

/-- CALFAIL after a calibration. -/
theorem calibrate_calfail (h : Crossing fs) : (s.calibrate i fs cal target).flag fs.1 i = !calOk cal target := by
  obtain ⟨b1, b2, b3, b4⟩ : (fs.1.lo + fs.1.w ≤ 64) ∧ (fs.2.1.lo + fs.2.1.w ≤ 64) ∧ (fs.2.2.1.lo + fs.2.2.1.w ≤ 64) ∧
      (fs.2.2.2.lo + fs.2.2.2.w ≤ 64) := ⟨(h.bounds _ (by simp)).2, (h.bounds _ (by simp)).2, (h.bounds _ (by simp)).2, (h.bounds _ (by simp)).2⟩
  rw [State.flag, State.calibrate]
  cases calOk cal target with
  | true =>
    rw [if_pos rfl, setFs_cons, setFs_cons, setFs_cons, setFs_cons, setFs_nil, getF_setF_apart _ b4 (h.apart _ (by simp)),
      getF_setF_apart _ b3 (h.apart _ (by simp)), getF_setF_apart _ b2 (h.apart _ (by simp)), getF_setF_same _ b1, Nat.zero_mod]
    rfl
  | false =>
    rw [if_neg (by decide), getF_setF_same _ b1, h.bit]
    rfl

theorem out_apart_in : ∀ f ∈ [fPaneOut.1, fPaneOut.2.1, fPaneOut.2.2.1, fPaneOut.2.2.2], f.Apart fPaneIn.1 := by
  simp [fPaneOut, fPaneIn, F.PANE_XLAT_OUT_CALFAIL, F.PANE_XLAT_OUT_PHASE, F.PANE_XLAT_OUT_MARGIN, F.PANE_XLAT_OUT_LAT, F.PANE_XLAT_IN_CALFAIL, Fld.Apart]

theorem Crossing.apart_reg (h : Crossing fs) (hg : g.reg ≠ .PANE_XLAT) : ∀ f ∈ [fs.1, fs.2.1, fs.2.2.1, fs.2.2.2], f.Apart g :=
  fun f hf => .inl (by rw [(h.bounds f hf).1]; exact hg)

/-! ## The restart -/

variable {ns : Nat} {cin cout : Cal}

theorem recalibrated_eq (s : State) (q ns : Nat) (cin cout : Cal) :
    s.recalibrated q ns cin cout = { s with regs := (s.recalibrated q ns cin cout).regs } := by
  rw [State.recalibrated, calibrate_eq, calibrate_eq]
  rfl

theorem restarted_eq (s : State) (q ns : Nat) (cin cout : Cal) : s.restarted q ns cin cout =
    { s with regs := (s.restarted q ns cin cout).regs, locks := (s.restarted q ns cin cout).locks, drifted := (s.restarted q ns cin cout).drifted } := by
  unfold State.restarted
  dsimp only
  split <;> rw [recalibrated_eq] <;> rfl

theorem getF_restarted (h1 : g.reg ≠ .CTL_MLOCK) (h2 : F.PANE_FREQ_CHANGES.Apart g) (h3 : F.PANE_FREQ_CUR.Apart g) (j : Nat) :
    (s.restarted q ns cin cout).getF g j = (s.recalibrated q ns cin cout).getF g j := by
  have hu : (((s.recalibrated q ns cin cout).addF F.PANE_FREQ_CHANGES q 1).setF F.PANE_FREQ_CUR q (s.pane q).target).getF g j =
      (s.recalibrated q ns cin cout).getF g j := (getF_setF_apart _ (by decide) h3).trans (getF_addF_apart _ (by decide) h2)
  unfold State.restarted
  dsimp only
  rw [getF_undrift]
  split
  · exact hu
  · exact (getF_dropLocks h1 [q] j).trans hu

theorem restarted_cur (ht : (s.pane q).target < 4) : (s.restarted q ns cin cout).getF F.PANE_FREQ_CUR q = (s.pane q).target := by
  have hu : (((s.recalibrated q ns cin cout).addF F.PANE_FREQ_CHANGES q 1).setF F.PANE_FREQ_CUR q (s.pane q).target).getF F.PANE_FREQ_CUR q =
      (s.pane q).target := (getF_setF_same _ (by decide)).trans (Nat.mod_eq_of_lt ht)
  unfold State.restarted
  dsimp only
  rw [getF_undrift]
  split
  · exact hu
  · exact (getF_dropLocks (by decide) [q] q).trans hu

/-- A register of neither the stop nor the crossings is as before the restart. -/
theorem getF_recalibrated (h1 : g.reg ≠ .PANE_XLAT) (h2 : g.reg ≠ .PANE_STOP) (j : Nat) : (s.recalibrated q ns cin cout).getF g j = s.getF g j := by
  rw [State.recalibrated, getF_calibrate crossing_out (crossing_out.apart_reg h1), getF_calibrate crossing_in (crossing_in.apart_reg h1)]
  exact getF_setFs_ne s fun x hx => .inl (by
    simp only [List.mem_cons, List.not_mem_nil, or_false] at hx
    rcases hx with rfl | rfl <;> exact h2)

theorem recalibrated_last : (s.recalibrated q ns cin cout).getF F.PANE_STOP_LAST_NS q = min (2 ^ 32 - 1) ns := by
  rw [State.recalibrated, getF_calibrate crossing_out (crossing_out.apart_reg (by decide)),
    getF_calibrate crossing_in (crossing_in.apart_reg (by decide)), setFs_cons, setFs_cons, setFs_nil,
    getF_setF_apart _ (by decide) (.inr (by decide)), getF_setF_same _ (by decide)]
  exact Nat.mod_eq_of_lt (lt_of_le_of_lt (Nat.min_le_left _ _) (by decide))

theorem recalibrated_out : (s.recalibrated q ns cin cout).flag F.PANE_XLAT_OUT_CALFAIL q = !calOk cout 6 :=
  calibrate_calfail (fs := fPaneOut) crossing_out

theorem recalibrated_in : (s.recalibrated q ns cin cout).flag F.PANE_XLAT_IN_CALFAIL q = !calOk cin (paneInTarget (s.pane q).target) := by
  rw [State.flag, State.recalibrated, getF_calibrate crossing_out (g := F.PANE_XLAT_IN_CALFAIL) out_apart_in]
  exact calibrate_calfail (fs := fPaneIn) crossing_in

/-- The owner of a pane is a fact of the partitions' registers. -/
theorem paneOwner_congr (h1 : ∀ p, t.getF F.SEC_PCTL_STATE p = s.getF F.SEC_PCTL_STATE p)
    (h2 : ∀ p, t.getF F.SEC_PPANE_PANES p = s.getF F.SEC_PPANE_PANES p) (q : Nat) : t.paneOwner q = s.paneOwner q := by
  unfold State.paneOwner
  simp only [h1, h2]

theorem stopPane_pane (f : Nat) (e : Bool) :
    (s.stopPane q f e).pane q = { s.pane q with target := f, stopAt := s.now, emerg := e, follow := false } := State.setPane_pane_same _ _ _

theorem setF_pane (s : State) (f : Fld) (i v q : Nat) : (s.setF f i v).pane q = s.pane q := rfl

theorem getF_stopPane (hg : F.PANE_FREQ_STATE.Apart g) (f : Nat) (e : Bool) (j : Nat) : (s.stopPane q f e).getF g j = s.getF g j :=
  getF_setF_apart s (by decide) hg

theorem stopPane_state (f : Nat) (e : Bool) : (s.stopPane q f e).getF F.PANE_FREQ_STATE q = 1 := getF_setF_same s (by decide)

theorem paneFreqRequest_spec {v : Word64} (hq : q < 32) (hst : s.getF F.PANE_FREQ_STATE q ≠ 2) (hd : s.dark = false) (hp : s.panePinned q = false) :
    ∃ t, exec (.paneFreqRequest q v) s = .next t ∧ t = { s with regs := t.regs, lockQ := t.lockQ } ∧
      s.RegsBut t [(F.PANE_FREQ_REQ, q), (F.PANE_FREQ_PENDING, q), (F.CTL_MLOCK_QUEUED, 0)] ∧
      t.getF F.PANE_FREQ_REQ q = bitsOf v.toNat 4 2 ∧
      (t.flag F.PANE_FREQ_PENDING q = true ↔ bitsOf v.toNat 4 2 ≠ s.getF F.PANE_FREQ_CUR q ∧ s.flag F.PANE_FREQ_EMERG q = false) := by
  have hreq : (s.setF F.PANE_FREQ_REQ q (bitsOf v.toNat 4 2)).getF F.PANE_FREQ_REQ q = bitsOf v.toNat 4 2 :=
    (getF_setF_same s (by decide)).trans (Nat.mod_eq_of_lt (bitsOf_lt _ _ _))
  refine ⟨_, paneFreqRequest_sets hq hst hd hp, ?_, ?_, ?_, ?_⟩
  · rw [pendPane_eq]
    rfl
  · exact regsBut_trans (regsBut_setF s (f := F.PANE_FREQ_REQ) (by decide)) (regsBut_pendPane _ q)
  · rw [getF_pendPane (by decide) (.inr (by decide)), hreq]
  · rw [pendPane_pending, hreq, getF_setF_apart _ (by decide) (.inr (by decide)), flag_setF_apart (by decide) (.inr (by decide))]

theorem paneFreqChange_stops (hq : q < 32) (hst : s.getF F.PANE_FREQ_STATE q = 0) (hpe : s.flag F.PANE_FREQ_PENDING q = true)
    (hstep : s.paneInStep q = false) (hd : s.dark = false) (hm : s.mayLock 0 q = true) :
    ∃ t, exec (.paneFreqChange q) s = .next t ∧ t.getF F.PANE_FREQ_STATE q = 1 ∧ t.flag F.PANE_FREQ_PENDING q = false ∧
      (t.pane q).target = s.getF F.PANE_FREQ_REQ q ∧ (t.pane q).stopAt = s.now ∧ t.locked 0 q = true ∧ t.mem = s.mem := by
  have he := paneFreqChange_exec hq hst hpe hstep hd
  rw [if_neg (not_not.2 hm)] at he
  refine ⟨_, he, ?_, ?_, ?_, ?_, grantLock_locked (by decide), ?_⟩
  · rw [getF_grantLock (by decide), getF_setF_apart _ (by decide) (.inr (by decide)), stopPane_state]
  · rw [State.flag, getF_grantLock (by decide), getF_setF_same _ (by decide)]
    rfl
  · rw [grantLock_pane, setF_pane, stopPane_pane]
  · rw [grantLock_pane, setF_pane, stopPane_pane]
  · rw [grantLock_mem]
    rfl

theorem paneFreqChange_waits (hq : q < 32) (hst : s.getF F.PANE_FREQ_STATE q = 0) (hpe : s.flag F.PANE_FREQ_PENDING q = true)
    (hstep : s.paneInStep q = false) (hd : s.dark = false) (hm : s.mayLock 0 q = false) :
    ∃ t, exec (.paneFreqChange q) s = .next t ∧ (0, q) ∈ t.lockQ ∧ t.flag F.PANE_FREQ_PENDING q = true ∧
      t.getF F.PANE_FREQ_STATE q = 0 ∧ t = { s with regs := t.regs, lockQ := t.lockQ } := by
  have he := paneFreqChange_exec hq hst hpe hstep hd
  rw [if_pos (by simp [hm])] at he
  refine ⟨_, he, askLock_waits s 0 q, ?_, ?_, askLock_eq s 0 q⟩
  · rw [State.flag, getF_askLock (by decide)]
    exact hpe
  · rw [getF_askLock (by decide)]
    exact hst

/-- The pane that runs again. -/
def State.goesOn (s : State) (q ns : Nat) (cin cout : Cal) : State :=
  (((s.restarted q ns cin cout).setF F.PANE_FREQ_STATE q 0).setPane q { s.pane q with emerg := false, follow := false }).pendPane q

theorem getF_goesOn (h1 : g.reg ≠ .CTL_MLOCK) (h2 : F.PANE_FREQ_PENDING.Apart g) (h3 : F.PANE_FREQ_STATE.Apart g) (j : Nat) :
    (s.goesOn q ns cin cout).getF g j = (s.restarted q ns cin cout).getF g j := by
  rw [State.goesOn, getF_pendPane h1 h2, getF_setPane, getF_setF_apart _ (by decide) h3]

theorem goesOn_owner : (s.goesOn q ns cin cout).paneOwner q = s.paneOwner q :=
  paneOwner_congr (fun p => by rw [getF_goesOn (by decide) (.inl (by decide)) (.inl (by decide)), getF_restarted (by decide) (.inl (by decide)) (.inl (by decide)),
      getF_recalibrated (by decide) (by decide)])
    (fun p => by rw [getF_goesOn (by decide) (.inl (by decide)) (.inl (by decide)), getF_restarted (by decide) (.inl (by decide)) (.inl (by decide)),
      getF_recalibrated (by decide) (by decide)]) q

theorem paneRestart_good (hq : q < 32) (hst : s.getF F.PANE_FREQ_STATE q = 1) (hfo : (s.pane q).follow = false) (ht : (s.pane q).target < 4)
    (hin : calOk cin (paneInTarget (s.pane q).target) = true) (hout : calOk cout 6 = true) (ho : s.paneOwner q = none) :
    ∃ t, exec (.paneRestart q ns cin cout) s = .next t ∧ t.getF F.PANE_FREQ_STATE q = 0 ∧
      t.getF F.PANE_FREQ_CUR q = (s.pane q).target ∧ t.getF F.PANE_STOP_LAST_NS q = min (2 ^ 32 - 1) ns ∧
      t.flag F.PANE_XLAT_IN_CALFAIL q = false ∧ t.flag F.PANE_XLAT_OUT_CALFAIL q = false ∧ t.mem = s.mem := by
  refine ⟨s.goesOn q ns cin cout, paneRestart_runs hq hst hfo hin hout (goesOn_owner.trans ho), ?_, ?_, ?_, ?_, ?_, ?_⟩
  · rw [State.goesOn, getF_pendPane (by decide) (.inr (by decide)), getF_setPane, getF_setF_same _ (by decide)]
    rfl
  · rw [getF_goesOn (by decide) (.inr (by decide)) (.inr (by decide)), restarted_cur ht]
  · rw [getF_goesOn (by decide) (.inl (by decide)) (.inl (by decide)), getF_restarted (by decide) (.inl (by decide)) (.inl (by decide)), recalibrated_last]
  · have h := recalibrated_in (s := s) (q := q) (ns := ns) (cin := cin) (cout := cout)
    rw [State.flag, getF_goesOn (by decide) (.inl (by decide)) (.inl (by decide)), getF_restarted (by decide) (.inl (by decide)) (.inl (by decide))]
    rw [hin] at h
    exact h
  · have h := recalibrated_out (s := s) (q := q) (ns := ns) (cin := cin) (cout := cout)
    rw [State.flag, getF_goesOn (by decide) (.inl (by decide)) (.inl (by decide)), getF_restarted (by decide) (.inl (by decide)) (.inl (by decide))]
    rw [hout] at h
    exact h
  · rw [State.goesOn, pendPane_eq, restarted_eq]
    rfl

/-- The pane that stays stopped for a failed calibration. -/
def State.staysStopped (s : State) (q ns : Nat) (cin cout : Cal) : State := ((s.restarted q ns cin cout).setF F.PANE_FREQ_STATE q 3).unpend q

theorem getF_staysStopped (h1 : g.reg ≠ .CTL_MLOCK) (h2 : F.PANE_FREQ_PENDING.Apart g) (h3 : F.PANE_FREQ_STATE.Apart g) (j : Nat) :
    (s.staysStopped q ns cin cout).getF g j = (s.restarted q ns cin cout).getF g j := by
  rw [State.staysStopped, getF_unpend h1 h2, getF_setF_apart _ (by decide) h3]

theorem paneRestart_bad (hq : q < 32) (hst : s.getF F.PANE_FREQ_STATE q = 1) (hin : calOk cin (paneInTarget (s.pane q).target) = false)
    (ho : s.paneOwner q = some p) (hact : s.stepActive p = true) :
    ∃ t, exec (.paneRestart q ns cin cout) s = .next t ∧ t.getF F.PANE_FREQ_STATE q = 3 ∧ t.flag F.PANE_XLAT_IN_CALFAIL q = true ∧
      (t.part p).running = false := by
  set u := s.staysStopped q ns cin cout with hu
  have hsec : ∀ g : Fld, g.reg ∉ ringRegs → g.reg ≠ .CTL_MLOCK → g.reg ≠ .PANE_FREQ → g.reg ≠ .PANE_XLAT → g.reg ≠ .PANE_STOP → ∀ j a,
      (u.logFree a [q]).getF g j = s.getF g j := fun g h0 h1 h2 h3 h4 j a => by
    rw [(State.RingOp.logFree a [q]).regs g j h0, hu, getF_staysStopped h1 (.inl h2) (.inl h2), getF_restarted h1 (.inl h2) (.inl h2),
      getF_recalibrated h3 h4]
  have hown : ∀ a, (u.logFree a [q]).paneOwner q = some p := fun a =>
    (paneOwner_congr (fun p => hsec _ (by decide) (by decide) (by decide) (by decide) (by decide) p a)
      (fun p => hsec _ (by decide) (by decide) (by decide) (by decide) (by decide) p a) q).trans ho
  have hupart : u.part p = s.part p := by
    rw [hu, State.staysStopped, unpend_eq, restarted_eq]
    rfl
  have hact' : ∀ a, (u.logFree a [q]).stepActive p = true := fun a => by
    obtain ⟨b, hb⟩ := (State.RingOp.logFree (s := u) a [q]).part p
    rw [State.stepActive, hb, hupart]
    exact hact
  refine ⟨_, paneRestart_fails hq hst hin (hu.trans rfl) rfl (hown _), ?_, ?_, abortStep_running (hact' _) 9 0⟩
  · rw [(abortStep_aborts (hact' _) 9 0).regs _ _ (by decide), getF_addF_apart _ (by decide) (.inl (by decide)),
      (State.RingOp.logFree _ [q]).regs _ _ (by decide), hu, State.staysStopped, getF_unpend (by decide) (.inr (by decide)),
      getF_setF_same _ (by decide)]
    rfl
  · rw [State.flag, (abortStep_aborts (hact' _) 9 0).regs _ _ (by decide), getF_addF_apart _ (by decide) (.inl (by decide)),
      (State.RingOp.logFree _ [q]).regs _ _ (by decide), hu, getF_staysStopped (by decide) (.inl (by decide)) (.inl (by decide)),
      getF_restarted (by decide) (.inl (by decide)) (.inl (by decide))]
    have h := recalibrated_in (s := s) (q := q) (ns := ns) (cin := cin) (cout := cout)
    rw [hin] at h
    exact h

theorem panePinned_congr (h1 : ∀ p, t.getF F.SEC_PCTL_STATE p = s.getF F.SEC_PCTL_STATE p)
    (h2 : ∀ p, t.getF F.SEC_PPANE_PANES p = s.getF F.SEC_PPANE_PANES p) (h3 : ∀ p, t.pinned p = s.pinned p) (q : Nat) :
    t.panePinned q = s.panePinned q := by
  unfold State.panePinned
  rw [paneOwner_congr h1 h2]
  simp only [h3]

/-- The pane after EMERG_CLEAR, before PENDING is set. -/
def State.cleared (s : State) (q : Nat) : State :=
  if s.panePinned q = true ∨ s.getF F.PANE_FREQ_CUR q ≤ s.getF F.PANE_FREQ_REQ q then s.setF F.PANE_FREQ_EMERG q 0
  else (s.setF F.PANE_FREQ_EMERG q 0).setF F.PANE_FREQ_REQ q (s.getF F.PANE_FREQ_CUR q - 1)

theorem emergClear_exec (hq : q < 32) (he : s.flag F.PANE_FREQ_EMERG q = true) (hst : s.getF F.PANE_FREQ_STATE q ≠ 3)
    (hp : s.flag F.PWR_STATUS_PROCHOT 0 = false) : exec (.emergClear q) s = .next ((s.cleared q).pendPane q) := by
  have hcur : (s.setF F.PANE_FREQ_EMERG q 0).getF F.PANE_FREQ_CUR q = s.getF F.PANE_FREQ_CUR q := getF_setF_apart s (by decide) (.inr (by decide))
  have hreq : (s.setF F.PANE_FREQ_EMERG q 0).getF F.PANE_FREQ_REQ q = s.getF F.PANE_FREQ_REQ q := getF_setF_apart s (by decide) (.inr (by decide))
  have hstate : (s.cleared q).getF F.PANE_FREQ_STATE q = s.getF F.PANE_FREQ_STATE q := by
    unfold State.cleared
    split
    · exact getF_setF_apart s (by decide) (.inr (by decide))
    · exact (getF_setF_apart _ (by decide) (.inr (by decide))).trans (getF_setF_apart s (by decide) (.inr (by decide)))
  have hpin : (s.setF F.PANE_FREQ_EMERG q 0).panePinned q = s.panePinned q :=
    panePinned_congr (fun p => getF_setF_apart s (by decide) (.inl (by decide))) (fun p => getF_setF_apart s (by decide) (.inl (by decide)))
      (fun p => by unfold State.pinned; rw [getF_setF_apart s (by decide) (.inl (by decide))]) q
  change execEmergClear q s = _
  unfold execEmergClear
  rw [if_neg (not_not.2 hq), if_neg (by simp [he, hp])]
  dsimp only
  rw [hcur, hreq, hpin]
  change (Host.Outcome.next (if (s.cleared q).getF F.PANE_FREQ_STATE q = 3 then s.cleared q else (s.cleared q).pendPane q) : Out) = _
  rw [hstate, if_neg hst]

theorem cleared_eq (s : State) (q : Nat) : s.cleared q = { s with regs := (s.cleared q).regs } := by
  unfold State.cleared
  split <;> rfl

theorem regsBut_cleared (s : State) (q : Nat) : s.RegsBut (s.cleared q) [(F.PANE_FREQ_EMERG, q), (F.PANE_FREQ_REQ, q)] := by
  unfold State.cleared
  split
  · exact regsBut_mono (regsBut_setF s (by decide)) (by simp)
  · exact regsBut_trans (regsBut_setF s (by decide)) (regsBut_setF _ (by decide))

theorem cleared_emerg (s : State) (q : Nat) : (s.cleared q).flag F.PANE_FREQ_EMERG q = false := by
  have h : (s.setF F.PANE_FREQ_EMERG q 0).flag F.PANE_FREQ_EMERG q = false := by
    rw [State.flag, getF_setF_same _ (by decide)]
    rfl
  unfold State.cleared
  split
  · exact h
  · rw [flag_setF_apart (by decide) (.inr (by decide)), h]

theorem cleared_cur (s : State) (q : Nat) : (s.cleared q).getF F.PANE_FREQ_CUR q = s.getF F.PANE_FREQ_CUR q := by
  unfold State.cleared
  split
  · exact getF_setF_apart s (by decide) (.inr (by decide))
  · exact (getF_setF_apart _ (by decide) (.inr (by decide))).trans (getF_setF_apart s (by decide) (.inr (by decide)))

theorem cleared_req (s : State) (q : Nat) : (s.cleared q).getF F.PANE_FREQ_REQ q =
    if s.panePinned q = true ∨ s.getF F.PANE_FREQ_CUR q ≤ s.getF F.PANE_FREQ_REQ q then s.getF F.PANE_FREQ_REQ q
    else s.getF F.PANE_FREQ_CUR q - 1 := by
  have hlt : s.getF F.PANE_FREQ_CUR q < 4 := getF_lt s F.PANE_FREQ_CUR q
  unfold State.cleared
  split
  · exact getF_setF_apart s (by decide) (.inr (by decide))
  · exact (getF_setF_same _ (by decide)).trans (Nat.mod_eq_of_lt (show _ < 4 by omega))

/-- Settles O41: a request, a change, a restart and a return are each a run of field writes of the pane. -/
theorem panesChange : Obligations.PanesChange := by
  unfold Obligations.PanesChange
  refine ⟨fun s q v hq hst hd hp => paneFreqRequest_spec hq hst hd hp, fun s q v hq h => (if_neg (not_not.2 hq)).trans (if_pos h),
    fun s q hq hst hpe hstep hd hm => paneFreqChange_stops hq hst hpe hstep hd hm,
    fun s q hq hst hpe hstep hd hm => paneFreqChange_waits hq hst hpe hstep hd hm,
    fun s q ns cin cout hq hst hfo ht hin hout ho => paneRestart_good hq hst hfo ht hin hout ho,
    fun s q p ns cin cout hq hst hin ho hact _ => paneRestart_bad hq hst hin ho hact, fun s q hq he hst hp => ?_,
    fun s q hq h => (if_neg (not_not.2 hq)).trans (if_pos (h.imp_left fun h => by simp [h]))⟩
  intro cur
  have hreq : ((s.cleared q).pendPane q).getF F.PANE_FREQ_REQ q = (s.cleared q).getF F.PANE_FREQ_REQ q := getF_pendPane (by decide) (.inr (by decide)) q
  refine ⟨_, emergClear_exec hq he hst hp, ?_, ?_, ?_, ?_, ?_⟩
  · rw [State.flag, getF_pendPane (by decide) (.inr (by decide))]
    exact cleared_emerg s q
  · rw [hreq, cleared_req]
  · rw [pendPane_pending, hreq, cleared_cur]
    exact ⟨fun h => h.1, fun h => ⟨h, cleared_emerg s q⟩⟩
  · rw [pendPane_eq, cleared_eq]
  · exact regsBut_trans (regsBut_cleared s q) (regsBut_pendPane _ q)

end Sys2Proof.Machine

end

section
/-! SUPPORT. The emergency triggers: what one of them does to a pane, and that it leaves the other panes and registers alone. -/

namespace Sys2Proof.Machine

variable {s t u : State} {q p : Nat} {g : Fld} {l : List Nat}

/-! ## The variance of a step -/

theorem endHold_eq (s : State) (p : Nat) : s.endHold p = { s with regs := (s.endHold p).regs, parts := (s.endHold p).parts } := by
  unfold State.endHold
  split <;> rfl

theorem updateHold_eq (s : State) (p : Nat) : s.updateHold p = { s with regs := (s.updateHold p).regs, parts := (s.updateHold p).parts } := by
  unfold State.updateHold
  dsimp only
  split
  · split <;> rfl
  · rw [endHold_eq]
    rfl

/-! ## One pane -/

/-- The registers that an emergency may write. -/
def emergRegs : List Reg := [.PANE_FREQ, .CTL_MLOCK, .CTL_VAR, .CTL_VARC, .CTL_VARP, .BEAT_HOLD]

/-- `t` differs from `s` as an emergency of the panes of `l` may change it. -/
structure State.Emerges (s t : State) (l : List Nat) : Prop where
  frame : t = { s with regs := t.regs, panes := t.panes, parts := t.parts, lockQ := t.lockQ }
  regs : ∀ (g : Fld) (j : Nat), g.reg ∉ emergRegs ∨ (g.reg = .PANE_FREQ ∧ j ∉ l) → t.getF g j = s.getF g j
  pane : ∀ j, j ∉ l → t.pane j = s.pane j

namespace State.Emerges

theorem refl : s.Emerges s l := ⟨rfl, fun _ _ _ => rfl, fun _ _ => rfl⟩

theorem trans (h : s.Emerges t l) (h' : t.Emerges u l) : s.Emerges u l :=
  ⟨h'.frame.trans (by rw [h.frame]), fun g j hg => (h'.regs g j hg).trans (h.regs g j hg), fun j hj => (h'.pane j hj).trans (h.pane j hj)⟩

theorem mono {m : List Nat} (h : s.Emerges t l) (hl : ∀ x ∈ l, x ∈ m) : s.Emerges t m :=
  ⟨h.frame, fun g j hg => h.regs g j (hg.imp_right fun h => ⟨h.1, fun hj => h.2 (hl j hj)⟩), fun j hj => h.pane j fun h => hj (hl j h)⟩

theorem setF {f : Fld} {i : Nat} (x : Nat) (hf : f.reg ∈ emergRegs) (hi : f.reg = .PANE_FREQ → i ∈ l) (hw : f.lo + f.w ≤ 64) :
    s.Emerges (s.setF f i x) l := by
  refine ⟨rfl, fun g j hg => ?_, fun _ _ => rfl⟩
  by_cases hr : g.reg = f.reg
  · rcases hg with hg | ⟨hg, hj⟩
    · exact absurd (hr ▸ hf) hg
    · exact getF_setF_index s x fun h => hj (h ▸ hi (hr ▸ hg))
  · exact getF_setF_apart s hw (.inl hr)

theorem setPane (x : PaneS) : s.Emerges (s.setPane q x) [q] :=
  ⟨rfl, fun _ _ _ => rfl, fun _ hj => State.setPane_pane_ne s q x (by simpa using hj)⟩

theorem unpend : s.Emerges (s.unpend q) [q] := by
  refine ⟨by rw [unpend_eq], fun g j hg => ?_, fun j _ => by rw [unpend_eq]; rfl⟩
  rcases hg with hg | ⟨hg, hj⟩
  · exact getF_unpend (fun h => hg (h ▸ by decide)) (.inl fun h => hg (h ▸ by decide)) j
  · rw [State.unpend, getF_leaveQ (by rw [hg]; decide), getF_setF_index _ _ (by simpa using hj)]

theorem vary (cause p : Nat) : s.Emerges (s.vary cause p) l :=
  ⟨rfl, fun _ _ hg => getF_vary (fun h => by rw [h] at hg; exact absurd hg (by simp [emergRegs])) (fun h => by rw [h] at hg; exact absurd hg (by simp [emergRegs]))
    (fun h => by rw [h] at hg; exact absurd hg (by simp [emergRegs])), fun _ _ => rfl⟩

theorem updateHold (p : Nat) : s.Emerges (s.updateHold p) l :=
  ⟨by rw [updateHold_eq], fun _ _ hg => getF_updateHold (fun h => by rw [h] at hg; exact absurd hg (by simp [emergRegs])),
    fun j _ => by rw [updateHold_eq]; rfl⟩

end State.Emerges

/-- The pane that stops for 0.75 GHz, before its step counts a variance. -/
def State.stopsFor (s : State) (q : Nat) : State := (((s.stopPane q 3 true).setF F.PANE_FREQ_EMERG q 1).unpend q).addF F.PANE_FREQ_EMERGS q 1

theorem stopsFor_emerges : s.Emerges (s.stopsFor q) [q] :=
  ((((State.Emerges.setF 1 (by decide) (fun _ => by simp) (by decide)).trans (.setPane _)).trans
    (.setF 1 (by decide) (fun _ => by simp) (by decide))).trans .unpend).trans (.setF _ (by decide) (fun _ => by simp) (by decide))

theorem emergPane_fused (h : s.getF F.PANE_FREQ_STATE q = 2) : s.emergPane q = s := if_pos h

theorem emergPane_standby (h : s.getF F.PANE_FREQ_STATE q ≠ 2) (hw : s.getF F.PWR_STATUS_STATE 0 = 1) :
    s.emergPane q = (s.setFs q [(F.PANE_FREQ_CUR, 3), (F.PANE_FREQ_EMERG, 1)]).unpend q := (if_neg h).trans (if_pos hw)

theorem emergPane_follows (h : s.getF F.PANE_FREQ_STATE q = 1) (hw : s.getF F.PWR_STATUS_STATE 0 ≠ 1) :
    s.emergPane q = s.setPane q { s.pane q with follow := true } :=
  (if_neg (by rw [h]; decide)).trans ((if_neg hw).trans (if_pos h))

theorem emergPane_shows (h : (s.getF F.PANE_FREQ_STATE q = 0 ∧ s.getF F.PANE_FREQ_CUR q = 3) ∨ s.getF F.PANE_FREQ_STATE q = 3)
    (hw : s.getF F.PWR_STATUS_STATE 0 ≠ 1) : s.emergPane q = (s.setF F.PANE_FREQ_EMERG q 1).unpend q :=
  (if_neg (by omega)).trans ((if_neg hw).trans ((if_neg (by omega)).trans (if_pos (by omega))))

theorem emergPane_stops (h : s.getF F.PANE_FREQ_STATE q = 0) (hc : s.getF F.PANE_FREQ_CUR q ≠ 3) (hw : s.getF F.PWR_STATUS_STATE 0 ≠ 1) :
    s.emergPane q = s.stopsFor q ∨ ∃ p, s.emergPane q = ((s.stopsFor q).vary 4 p).updateHold p := by
  have he : s.emergPane q = match (s.stopsFor q).paneOwner q with
      | some p => if ((s.stopsFor q).part p).running then ((s.stopsFor q).vary 4 p).updateHold p else s.stopsFor q
      | none => s.stopsFor q := (if_neg (by omega)).trans ((if_neg hw).trans ((if_neg (by omega)).trans (if_neg (by omega))))
  rw [he]
  split
  · split
    · exact .inr ⟨_, rfl⟩
    · exact .inl rfl
  · exact .inl rfl

theorem emergPane_emerges : s.Emerges (s.emergPane q) [q] := by
  have hst : s.getF F.PANE_FREQ_STATE q < 4 := getF_lt s F.PANE_FREQ_STATE q
  by_cases h2 : s.getF F.PANE_FREQ_STATE q = 2
  · rw [emergPane_fused h2]
    exact .refl
  by_cases hw : s.getF F.PWR_STATUS_STATE 0 = 1
  · rw [emergPane_standby h2 hw]
    exact ((State.Emerges.setF 3 (by decide) (fun _ => by simp) (by decide)).trans (.setF 1 (by decide) (fun _ => by simp) (by decide))).trans .unpend
  by_cases h1 : s.getF F.PANE_FREQ_STATE q = 1
  · rw [emergPane_follows h1 hw]
    exact .setPane _
  by_cases h3 : (s.getF F.PANE_FREQ_STATE q = 0 ∧ s.getF F.PANE_FREQ_CUR q = 3) ∨ s.getF F.PANE_FREQ_STATE q = 3
  · rw [emergPane_shows h3 hw]
    exact (State.Emerges.setF 1 (by decide) (fun _ => by simp) (by decide)).trans .unpend
  · rcases emergPane_stops (show s.getF F.PANE_FREQ_STATE q = 0 by omega) (by omega) hw with h | ⟨p, h⟩ <;> rw [h]
    · exact stopsFor_emerges
    · exact (stopsFor_emerges.trans (.vary 4 p)).trans (.updateHold p)

/-! ## What a pane shows after it -/

theorem emergPane_stopped (h : s.getF F.PANE_FREQ_STATE q = 0) (hc : s.getF F.PANE_FREQ_CUR q ≠ 3) (hw : s.getF F.PWR_STATUS_STATE 0 ≠ 1) :
    (s.emergPane q).getF F.PANE_FREQ_STATE q = 1 ∧ ((s.emergPane q).pane q).target = 3 ∧ ((s.emergPane q).pane q).stopAt = s.now ∧
      ((s.emergPane q).pane q).emerg = true ∧ (s.emergPane q).flag F.PANE_FREQ_EMERG q = true ∧
      (s.emergPane q).flag F.PANE_FREQ_PENDING q = false ∧
      (s.emergPane q).getF F.PANE_FREQ_EMERGS q = satAdd F.PANE_FREQ_EMERGS.w (s.getF F.PANE_FREQ_EMERGS q) 1 := by
  have hvar : (∀ g : Fld, g.reg = .PANE_FREQ → (s.emergPane q).getF g q = (s.stopsFor q).getF g q) ∧
      (s.emergPane q).pane q = (s.stopsFor q).pane q := by
    rcases emergPane_stops h hc hw with h | ⟨p, h⟩ <;> rw [h]
    · exact ⟨fun _ _ => rfl, rfl⟩
    · have he : (s.stopsFor q).Emerges (((s.stopsFor q).vary 4 p).updateHold p) [] := (State.Emerges.vary 4 p).trans (.updateHold p)
      exact ⟨fun g hg => he.regs g q (.inr ⟨hg, by simp⟩), he.pane q (by simp)⟩
  obtain ⟨hreg, hpane⟩ := hvar
  have hp : (s.stopsFor q).pane q = { s.pane q with target := 3, stopAt := s.now, emerg := true, follow := false } := by
    rw [State.stopsFor, State.addF, setF_pane, unpend_eq]
    exact stopPane_pane 3 true
  have hun : ∀ g : Fld, F.PANE_FREQ_EMERGS.Apart g → F.PANE_FREQ_PENDING.Apart g → g.reg = .PANE_FREQ →
      (s.stopsFor q).getF g q = ((s.stopPane q 3 true).setF F.PANE_FREQ_EMERG q 1).getF g q := fun g h1 h2 hr => by
    rw [State.stopsFor, getF_addF_apart _ (by decide) h1, getF_unpend (by rw [hr]; decide) h2]
  rw [hpane, hp]
  refine ⟨?_, rfl, rfl, rfl, ?_, ?_, ?_⟩
  · rw [hreg _ rfl, hun _ (.inr (by decide)) (.inr (by decide)) rfl, getF_setF_apart _ (by decide) (.inr (by decide)), stopPane_state]
  · rw [State.flag, hreg _ rfl, hun _ (.inr (by decide)) (.inr (by decide)) rfl, getF_setF_same _ (by decide)]
    rfl
  · rw [State.flag, hreg _ rfl, State.stopsFor, getF_addF_apart _ (by decide) (.inr (by decide))]
    exact unpend_pending _ q
  · rw [hreg _ rfl, State.stopsFor, getF_addF_same (by decide), getF_unpend (by decide) (.inr (by decide)),
      getF_setF_apart _ (by decide) (.inr (by decide)), getF_stopPane (.inr (by decide))]

theorem emergPane_shown (h : (s.getF F.PANE_FREQ_STATE q = 0 ∧ s.getF F.PANE_FREQ_CUR q = 3) ∨ s.getF F.PANE_FREQ_STATE q = 3)
    (hw : s.getF F.PWR_STATUS_STATE 0 ≠ 1) : (s.emergPane q).getF F.PANE_FREQ_STATE q = s.getF F.PANE_FREQ_STATE q ∧
      (s.emergPane q).flag F.PANE_FREQ_EMERG q = true ∧ (s.emergPane q).flag F.PANE_FREQ_PENDING q = false := by
  rw [emergPane_shows h hw]
  refine ⟨?_, ?_, unpend_pending _ q⟩
  · rw [getF_unpend (by decide) (.inr (by decide)), getF_setF_apart _ (by decide) (.inr (by decide))]
  · rw [State.flag, getF_unpend (by decide) (.inr (by decide)), getF_setF_same _ (by decide)]
    rfl

theorem emergPane_slow (h : s.getF F.PANE_FREQ_STATE q ≠ 2) (hw : s.getF F.PWR_STATUS_STATE 0 = 1) :
    (s.emergPane q).getF F.PANE_FREQ_CUR q = 3 ∧ (s.emergPane q).flag F.PANE_FREQ_EMERG q = true ∧
      (s.emergPane q).flag F.PANE_FREQ_PENDING q = false := by
  rw [emergPane_standby h hw]
  refine ⟨?_, ?_, unpend_pending _ q⟩
  · rw [getF_unpend (by decide) (.inr (by decide)), setFs_cons, setFs_cons, setFs_nil, getF_setF_apart _ (by decide) (.inr (by decide)),
      getF_setF_same _ (by decide)]
    rfl
  · rw [State.flag, getF_unpend (by decide) (.inr (by decide)), setFs_cons, setFs_cons, setFs_nil, getF_setF_same _ (by decide)]
    rfl

/-! ## All panes of a trigger -/

theorem emergAll_emerges (l : List Nat) : s.Emerges (l.foldl State.emergPane s) l := by
  induction l generalizing s with
  | nil => exact .refl
  | cons q l ih => exact (emergPane_emerges.mono (by simp)).trans (ih.mono (by simp +contextual))

/-- A full register is its widest field. -/
def wholeReg (r : Reg) : Fld := ⟨r, 0, 64, .RO, 0⟩

theorem getF_wholeReg (s : State) (r : Reg) (i : Nat) : s.getF (wholeReg r) i = s.rdReg r i := by
  have h := rdReg_lt s r i
  change s.rdReg r i / 2 ^ 0 % 2 ^ 64 = _
  rw [pow_zero, Nat.div_one, Nat.mod_eq_of_lt h]

/-- `t` shows of pane `q` what `s` does. -/
structure State.SamePane (s t : State) (q : Nat) : Prop where
  fields : ∀ g : Fld, g.reg = .PANE_FREQ → t.getF g q = s.getF g q
  pane : t.pane q = s.pane q

/-- Each pane of the fold is met once, as it was before, and left as it then is. -/
theorem emergAll_at (hq : q ∈ l) (hl : l.Nodup) : ∃ v : State, s.SamePane v q ∧
    (∀ (g : Fld) (j : Nat), g.reg ∉ emergRegs → v.getF g j = s.getF g j) ∧ (v.emergPane q).SamePane (l.foldl State.emergPane s) q := by
  obtain ⟨a, b, rfl⟩ := List.append_of_mem hq
  obtain ⟨_, hb, hab⟩ := List.nodup_append.1 hl
  have ha : q ∉ a := fun h => hab q h q (List.mem_cons_self ..) rfl
  have hqb : q ∉ b := (List.nodup_cons.1 hb).1
  have h1 := emergAll_emerges (s := s) a
  have h2 := emergAll_emerges (s := (a.foldl State.emergPane s).emergPane q) b
  rw [List.foldl_append, List.foldl_cons]
  exact ⟨_, ⟨fun g hg => h1.regs g q (.inr ⟨hg, ha⟩), h1.pane q ha⟩, fun g j hg => h1.regs g j (.inl hg),
    ⟨fun g hg => h2.regs g q (.inr ⟨hg, hqb⟩), h2.pane q hqb⟩⟩

theorem State.SamePane.flag {f : Fld} (h : s.SamePane t q) (hf : f.reg = .PANE_FREQ) : t.flag f q = s.flag f q := by
  rw [State.flag, h.fields f hf, State.flag]

/-! ## The trigger -/

/-- The trigger's count and its entry in the log. -/
def State.triggered (s : State) (f : Fld) (code : Nat) (args : List Nat) : State := (s.addF f 0 1).logNote 1 code 255 args

variable {f : Fld} {code : Nat} {args : List Nat}

theorem trigger_off (h : s.dark = true ∨ s.getF F.PWR_STATUS_STATE 0 = 2) : s.trigger f code args l = s := if_pos h

theorem trigger_acts (hd : s.dark = false) (hw : s.getF F.PWR_STATUS_STATE 0 ≠ 2) :
    s.trigger f code args l = l.foldl State.emergPane (s.triggered f code args) ∨
    (s.getF F.PWR_STATUS_STATE 0 = 0 ∧ s.trigger f code args l = (l.foldl State.emergPane (s.triggered f code args)).abandonUpdate) := by
  unfold State.trigger
  rw [if_neg (by simp [hd, hw])]
  dsimp only
  split
  · next h => exact .inr ⟨by simpa using (Bool.and_eq_true_iff.1 h).1, rfl⟩
  · exact .inl rfl

theorem triggered_frame : s.triggered f code args = { s with regs := (s.triggered f code args).regs, log := (s.triggered f code args).log
                                                             pldm := s.pldm ++ [⟨1, code, 255, (s.addF f 0 1).now, args⟩] } := by
  unfold State.triggered State.logNote State.logPush
  dsimp only
  split <;> rfl

theorem getF_triggered (hw : f.lo + f.w ≤ 64) (hf : g.reg ≠ f.reg) (hl : g.reg ≠ .CTL_LOG) (j : Nat) :
    (s.triggered f code args).getF g j = s.getF g j := by
  rw [State.triggered, getF_logNote hl, getF_addF_apart s hw (.inl hf)]

theorem triggered_count (hw : f.lo + f.w ≤ 64) (hl : f.reg ≠ .CTL_LOG) :
    (s.triggered f code args).getF f 0 = satAdd f.w (s.getF f 0) 1 := by
  rw [State.triggered, getF_logNote hl, getF_addF_same hw]

theorem getF_abandonUpdate (h1 : g.reg ≠ .CTL_STATUS) (h2 : g.reg ≠ .CTL_MLOCK) (h3 : g.reg ∉ ringRegs) (j : Nat) :
    s.abandonUpdate.getF g j = s.getF g j := by
  unfold State.abandonUpdate
  split
  · rfl
  · rw [State.answer, (State.RingOp.reply _ _ _).regs g j h3, State.oldSlot, getF_dropLocks h2]
    exact getF_setFs_ne s fun x hx => .inl (by
      simp only [List.mem_cons, List.not_mem_nil, or_false] at hx
      rcases hx with rfl | rfl <;> exact h1)

theorem abandonUpdate_none (h : s.upd = none) : s.abandonUpdate = s := by rw [State.abandonUpdate, h]

/-- A trigger counts in PWR_EMERG, and its panes are without repetition. -/
structure Triggers (i : Instr) (f : Fld) (code : Nat) (args panes : List Nat) : Prop where
  reg : f.reg = .PWR_EMERG
  bounds : f.lo + f.w ≤ 64
  nodup : panes.Nodup
  exec : ∀ s, exec i s = .next ((if i = .prochot true then s.setF F.PWR_STATUS_PROCHOT 0 1 else s).trigger f code args panes)

theorem triggers_of {i : Instr} {panes : List Nat}
    (h : (∃ q, q < 32 ∧ i = .droop q ∧ f = F.PWR_EMERG_DROOP ∧ code = 0x0012 ∧ args = [q] ∧ panes = [q]) ∨
      (∃ l, l < 2 ∧ i = .overcurrent l ∧ f = F.PWR_EMERG_OVERCURRENT ∧ code = 0x0013 ∧ args = [l] ∧ panes = leafPanes l) ∨
      (i = .thermal ∧ f = F.PWR_EMERG_THERMAL ∧ code = 0x0014 ∧ args = [] ∧ panes = List.range 32) ∨
      (i = .prochot true ∧ f = F.PWR_EMERG_PROCHOT ∧ code = 0x0015 ∧ args = [] ∧ panes = List.range 32)) : Triggers i f code args panes := by
  rcases h with ⟨q, hq, rfl, rfl, rfl, rfl, rfl⟩ | ⟨l, hl, rfl, rfl, rfl, rfl, rfl⟩ | ⟨rfl, rfl, rfl, rfl, rfl⟩ | ⟨rfl, rfl, rfl, rfl, rfl⟩
  · exact ⟨rfl, by decide, List.nodup_singleton q, fun s => by rw [if_neg (by nofun)]; exact if_neg (not_not.2 hq)⟩
  · exact ⟨rfl, by decide, List.nodup_range.map fun a b h => Nat.add_right_cancel h, fun s => by
      rw [if_neg (by nofun)]; exact if_neg (not_not.2 hl)⟩
  · exact ⟨rfl, by decide, List.nodup_range, fun s => by rw [if_neg (by nofun)]; rfl⟩
  · exact ⟨rfl, by decide, List.nodup_range, fun s => by rw [if_pos rfl]; rfl⟩

/-- The level of PROCHOT_N is shown before its trigger. -/
def State.levelled (s : State) (i : Instr) : State := if i = .prochot true then s.setF F.PWR_STATUS_PROCHOT 0 1 else s

variable {i : Instr} {panes : List Nat}

theorem levelled_eq (s : State) (i : Instr) : s.levelled i = { s with regs := (s.levelled i).regs } := by
  unfold State.levelled
  split <;> rfl

theorem getF_levelled (h : F.PWR_STATUS_PROCHOT.Apart g) (j : Nat) : (s.levelled i).getF g j = s.getF g j := by
  unfold State.levelled
  split
  · exact getF_setF_apart s (by decide) h
  · rfl

theorem levelled_dark : (s.levelled i).dark = s.dark := by
  have hb : (s.levelled i).boot = s.boot := by rw [levelled_eq]
  unfold State.dark State.portsOff State.flag
  rw [hb, getF_levelled (.inl (by decide)), getF_levelled (.inl (by decide))]

/-- The state in which the panes of a trigger are met. -/
def State.met (s : State) (i : Instr) (f : Fld) (code : Nat) (args : List Nat) : State := (s.levelled i).triggered f code args

theorem getF_met (h : Triggers i f code args panes) (h1 : F.PWR_STATUS_PROCHOT.Apart g) (h2 : g.reg ≠ .PWR_EMERG) (h3 : g.reg ≠ .CTL_LOG) (j : Nat) :
    (s.met i f code args).getF g j = s.getF g j := by
  rw [State.met, getF_triggered h.bounds (by rw [h.reg]; exact h2) h3, getF_levelled h1]

theorem met_count (h : Triggers i f code args panes) : (s.met i f code args).getF f 0 = satAdd f.w (s.getF f 0) 1 := by
  rw [State.met, triggered_count h.bounds (by rw [h.reg]; decide), getF_levelled (.inl (by rw [h.reg]; decide))]

theorem met_now (h : Triggers i f code args panes) : (s.met i f code args).now = s.now :=
  getF_met (g := F.TIME_NOW_NS) h (.inl (by decide)) (by decide) (by decide) 0

theorem met_frame (h : Triggers i f code args panes) : s.met i f code args = { s with
    regs := (s.met i f code args).regs, log := (s.met i f code args).log, pldm := s.pldm ++ [⟨1, code, 255, s.now, args⟩] } := by
  have hn : ((s.levelled i).addF f 0 1).now = s.now :=
    (getF_addF_apart (g := F.TIME_NOW_NS) _ h.bounds (.inl (by rw [h.reg]; decide))).trans (getF_levelled (.inl (by decide)) 0)
  rw [State.met, triggered_frame, hn, levelled_eq]

theorem met_pane (h : Triggers i f code args panes) (q : Nat) : (s.met i f code args).pane q = s.pane q := by
  rw [met_frame h]
  rfl

theorem emerged_frame (h : Triggers i f code args panes) :
    let t := panes.foldl State.emergPane (s.met i f code args)
    t.mem = s.mem ∧ t.pldm = s.pldm ++ [⟨1, code, 255, s.now, args⟩] ∧ t.upd = s.upd ∧ t.getF f 0 = satAdd f.w (s.getF f 0) 1 := by
  intro t
  have he : (s.met i f code args).Emerges t panes := emergAll_emerges panes
  refine ⟨?_, ?_, ?_, (he.regs f 0 (.inl (by rw [h.reg]; decide))).trans (met_count h)⟩ <;> rw [he.frame, met_frame h]

theorem trigger_runs (h : Triggers i f code args panes) (hd : s.dark = false) (hw : s.getF F.PWR_STATUS_STATE 0 ≠ 2)
    (hu : s.getF F.PWR_STATUS_STATE 0 = 0 → s.upd = none) : exec i s = .next (panes.foldl State.emergPane (s.met i f code args)) := by
  have hw' : (s.levelled i).getF F.PWR_STATUS_STATE 0 = s.getF F.PWR_STATUS_STATE 0 := getF_levelled (.inr (by decide)) 0
  rw [h.exec]
  rcases trigger_acts (l := panes) (f := f) (code := code) (args := args) (levelled_dark.trans hd) (fun h => hw (hw'.symm.trans h)) with e | ⟨h0, e⟩
  · exact congrArg _ e
  · refine congrArg _ (e.trans (abandonUpdate_none ?_))
    exact (emerged_frame h).2.2.1.trans (hu (hw'.symm.trans h0))

/-- Pane `q` is met as it stands in `s`. -/
theorem emerged_at (h : Triggers i f code args panes) (hq : q ∈ panes) : ∃ v : State, (∀ g : Fld, g.reg = .PANE_FREQ → v.getF g q = s.getF g q) ∧
    v.pane q = s.pane q ∧ v.getF F.PWR_STATUS_STATE 0 = s.getF F.PWR_STATUS_STATE 0 ∧ v.now = s.now ∧
    (v.emergPane q).SamePane (panes.foldl State.emergPane (s.met i f code args)) q := by
  obtain ⟨v, hv, hreg, hlast⟩ := emergAll_at (s := s.met i f code args) hq h.nodup
  refine ⟨v, fun g hg => ?_, hv.pane.trans (met_pane h q), ?_, ?_, hlast⟩
  · rw [hv.fields g hg, getF_met h (.inl (by rw [hg]; decide)) (by rw [hg]; decide) (by rw [hg]; decide)]
  · rw [hreg _ _ (by decide), getF_met h (.inr (by decide)) (by decide) (by decide)]
  · exact (hreg F.TIME_NOW_NS 0 (by decide)).trans (met_now h)

theorem trigger_off_only (h : Triggers i f code args panes) (ho : s.dark = true ∨ s.getF F.PWR_STATUS_STATE 0 = 2) :
    exec i s = .next (s.levelled i) := by
  rw [h.exec]
  refine congrArg _ (trigger_off (ho.imp (levelled_dark.trans ·) ?_))
  exact ((getF_levelled (i := i) (g := F.PWR_STATUS_STATE) (.inr (by decide)) 0).trans ·)

/-- Settles O42: the fold of `emergPane` meets each pane once. -/
theorem triggersFire : Obligations.TriggersFire := by
  unfold Obligations.TriggersFire
  refine ⟨fun s i f code args panes h => ?_, fun s => ?_, fun s => ?_⟩
  · have h := triggers_of h
    refine ⟨fun hd hw hu => ?_, fun hd hw => ?_, fun ho => ?_⟩
    · obtain ⟨hmem, hpldm, _, hcount⟩ := emerged_frame (s := s) h
      have he := emergAll_emerges (s := s.met i f code args) panes
      refine ⟨_, trigger_runs h hd (by rw [hw]; decide) (fun _ => hu), hcount, hmem, hpldm, fun q hq h0 hc => ?_, fun q hq h3 => ?_,
        fun q hq h1 => ?_, fun q _ hq => ?_⟩
      · obtain ⟨v, hv, hp, hvw, hn, hlast⟩ := emerged_at (s := s) h hq
        obtain ⟨e1, e2, e3, e4, e5, e6, e7⟩ := emergPane_stopped (s := v) (by rw [hv _ rfl, h0]) (by rw [hv _ rfl]; exact hc) (by rw [hvw, hw]; decide)
        rw [hlast.fields _ rfl, hlast.pane, hlast.flag rfl, hlast.flag rfl, hlast.fields _ rfl, ← hv F.PANE_FREQ_EMERGS rfl, ← hn]
        exact ⟨e1, e2, e3, e4, e5, e6, e7⟩
      · obtain ⟨v, hv, hp, hvw, hn, hlast⟩ := emerged_at (s := s) h hq
        obtain ⟨e1, e2, e3⟩ := emergPane_shown (s := v) (q := q) (by rw [hv _ rfl, hv _ rfl]; exact h3) (by rw [hvw, hw]; decide)
        rw [hlast.fields _ rfl, hlast.flag rfl, hlast.flag rfl, ← hv F.PANE_FREQ_STATE rfl]
        exact ⟨e1, e2, e3⟩
      · obtain ⟨v, hv, hp, hvw, hn, hlast⟩ := emerged_at (s := s) h hq
        rw [hlast.pane, emergPane_follows (by rw [hv _ rfl, h1]) (by rw [hvw, hw]; decide), State.setPane_pane_same, hp]
      · by_cases hm : q ∈ panes
        · have h2 := hq.resolve_left (not_not.2 hm)
          obtain ⟨v, hv, hp, hvw, hn, hlast⟩ := emerged_at (s := s) h hm
          have hf := emergPane_fused (s := v) (q := q) (by rw [hv _ rfl, h2])
          rw [hf] at hlast
          exact ⟨hlast.pane.trans hp, by rw [← getF_wholeReg, ← getF_wholeReg, hlast.fields _ rfl, hv _ rfl]⟩
        · refine ⟨(he.pane q hm).trans (met_pane h q), ?_⟩
          rw [← getF_wholeReg, ← getF_wholeReg, he.regs _ _ (.inr ⟨rfl, hm⟩),
            getF_met (g := wholeReg .PANE_FREQ) h (.inl (show Reg.PANE_FREQ ≠ _ by decide)) (show Reg.PANE_FREQ ≠ _ by decide)
              (show Reg.PANE_FREQ ≠ _ by decide)]
    · obtain ⟨hmem, _, _, hcount⟩ := emerged_frame (s := s) h
      refine ⟨_, trigger_runs h hd (by rw [hw]; decide) (fun h0 => absurd (hw.symm.trans h0) (by decide)), hcount, hmem, fun q hq h2 => ?_⟩
      obtain ⟨v, hv, hp, hvw, hn, hlast⟩ := emerged_at (s := s) h hq
      obtain ⟨e1, e2, e3⟩ := emergPane_slow (s := v) (q := q) (by rw [hv _ rfl]; exact h2) (by rw [hvw, hw])
      rw [hlast.fields _ rfl, hlast.flag rfl, hlast.flag rfl]
      exact ⟨e1, e2, e3⟩
    · refine ⟨_, trigger_off_only h ho, ?_⟩
      unfold State.levelled
      split
      · exact only_setF s (by decide)
      · exact only_refl s []
  · have h : Triggers (.prochot true) F.PWR_EMERG_PROCHOT 0x0015 [] (List.range 32) := triggers_of (.inr (.inr (.inr ⟨rfl, rfl, rfl, rfl, rfl⟩)))
    have hset : (s.levelled (.prochot true)).flag F.PWR_STATUS_PROCHOT 0 = true := by
      rw [State.levelled, if_pos rfl, State.flag, getF_setF_same _ (by decide)]
      rfl
    refine ⟨_, h.exec s, ?_⟩
    change ((s.levelled (.prochot true)).trigger F.PWR_EMERG_PROCHOT 0x0015 [] (List.range 32)).flag F.PWR_STATUS_PROCHOT 0 = true
    by_cases ho : (s.levelled (.prochot true)).dark = true ∨ (s.levelled (.prochot true)).getF F.PWR_STATUS_STATE 0 = 2
    · rw [trigger_off ho, hset]
    · rw [not_or] at ho
      have hfold : ((List.range 32).foldl State.emergPane ((s.levelled (.prochot true)).triggered F.PWR_EMERG_PROCHOT 0x0015 [])).flag
          F.PWR_STATUS_PROCHOT 0 = true := by
        rw [State.flag, (emergAll_emerges _).regs _ _ (.inl (by decide)), getF_triggered (by decide) (by decide) (by decide)]
        exact hset
      rcases trigger_acts (l := List.range 32) (f := F.PWR_EMERG_PROCHOT) (code := 0x0015) (args := []) (by simpa using ho.1) ho.2 with e | ⟨_, e⟩ <;> rw [e]
      · exact hfold
      · rw [State.flag, getF_abandonUpdate (by decide) (by decide) (by decide)]
        exact hfold
  · refine ⟨_, rfl, ?_, only_setF s (by decide)⟩
    exact flag_setF_bit (by decide) rfl false

end Sys2Proof.Machine

end

section
/-! SUPPORT. The timebase: its steps, its PTP exchange and its missed beacons. -/

namespace Sys2Proof.Machine

variable {s t : State} {g : Fld}

theorem toNat_mod (z : Int) : (((z % (2 ^ 64 : Int)).toNat : Nat) : Int) = z % 2 ^ 64 := Int.toNat_of_nonneg (Int.emod_nonneg _ (by decide))

theorem stepTime_now (s : State) (d : Int) : ((s.stepTime d).now : Int) = ((s.now : Int) + d) % 2 ^ 64 := by
  have hlt : ((((s.now : Int) + d) % (2 ^ 64 : Int)).toNat) < 2 ^ 64 := by
    have h := Int.emod_lt_of_pos ((s.now : Int) + d) (show (0 : Int) < 2 ^ 64 by decide)
    omega
  have h : (s.stepTime d).now = (((s.now : Int) + d) % (2 ^ 64 : Int)).toNat := by
    rw [State.now, State.stepTime, getF_setF_apart _ (by decide) (.inl (by decide)), getF_setF_same _ (by decide)]
    exact Nat.mod_eq_of_lt hlt
  rw [h, toNat_mod]

theorem stepTime_stepped (s : State) (d : Int) : (s.stepTime d).flag F.TIME_STATUS_STEPPED 0 = true := by
  rw [State.flag, State.stepTime, getF_setF_same _ (by decide)]
  rfl

theorem stepTime_only (s : State) (d : Int) : s.Only (s.stepTime d) [(F.TIME_NOW_NS, 0), (F.TIME_STATUS_STEPPED, 0)] :=
  only_trans (only_setF s (by decide)) (only_setF _ (by decide))

/-- The state with another time record. -/
def State.withTime (s : State) (x : TimeS) : State := { s with time := x }

theorem timeStep_steps {v : Word64} (hm : s.flag F.TIME_CTRL_MASTER 0 = true) (hi : s.idleSteps = true) :
    exec (.timeStep v) s = .next (s.stepTime v.toInt) := if_pos ⟨hm, hi⟩

theorem timebaseStep_owed (hm : s.flag F.TIME_CTRL_MASTER 0 = false) (hi : s.idleSteps = true) (ha : s.time.adj ≠ 0) :
    exec .timebaseStep s = .next ((s.withTime { s.time with adj := 0 }).stepTime (-(s.time.adj / 2 ^ 32))) :=
  (if_neg (by simp [hm, hi])).trans (if_pos ha)

theorem timebaseStep_measured (hm : s.flag F.TIME_CTRL_MASTER 0 = false) (hi : s.idleSteps = true) (ha : s.time.adj = 0)
    (ho : 64 * 256 < (signed 64 (s.getF F.TIME_OFFSET_OFF 0)).natAbs) (hs : s.time.stepped = false) :
    exec .timebaseStep s = .next ((s.withTime { s.time with stepped := true }).stepTime (-(signed 64 (s.getF F.TIME_OFFSET_OFF 0) / 256))) :=
  (if_neg (by simp [hm, hi])).trans ((if_neg (not_not.2 ha)).trans (if_neg fun h => h.elim (Nat.not_le.2 ho) (by simp [hs])))

/-! ## PTP -/

/-- The master takes a message of its domain. -/
structure State.TakesPtp (s : State) (m : PtpMsg) : Prop where
  master : s.flag F.TIME_CTRL_MASTER 0 = true
  enabled : s.flag F.TIME_CTRL_PTP_EN 0 = true
  light : s.dark = false
  awake : s.getF F.PWR_STATUS_STATE 0 ≠ 2
  domain : m.domain = s.getF F.TIME_CTRL_PTP_DOMAIN 0
  port : m.port < 2
  transport : m.transport < 3

theorem ptpMessage_exec {m : PtpMsg} (h : s.TakesPtp m) : exec (.ptpMessage m) s = match m.kind with
    | .sync =>
      if m.twoStep then .next { s with time := { s.time with ptpSync := some (m.seq, none, s.stampAt m.phase) } }
      else .next (s.ptpAsk m m.ts (s.stampAt m.phase) (s.stampAt m.phase))
    | .followUp =>
      match s.time.ptpSync with
      | some (n, none, t2) => .next (if n = m.seq then s.ptpAsk m m.ts t2 (s.stampAt m.phase) else s)
      | _ => .next s
    | .delayResp =>
      match s.time.ptpReq with
      | some (n, t1, t2, t3) =>
        if n ≠ m.seq then .next s
        else .next (s.ptpMeasured ((((t2 : Int) - t1) - ((m.ts : Int) - t3)) / 2 / 256))
      | none => .next s := by
  refine (if_neg ?_).trans ?_
  · have h1 := h.port
    have h2 := h.transport
    rintro (hx | hx | hx | hx | hx | hx | hx)
    · simp [h.light] at hx
    · exact h.awake hx
    · exact hx h.master
    · exact hx h.enabled
    · exact hx h.domain
    · omega
    · omega
  · rfl

/-- What the servo may change. -/
theorem servo_eq (s : State) : s.servo = { s with regs := s.servo.regs, time := s.servo.time, free := s.servo.free } := by
  unfold State.servo
  dsimp only
  split <;> rfl

theorem servo_time (s : State) : ∃ x, s.servo.time = { s.time with slew := x } := by
  unfold State.servo
  dsimp only
  split
  · exact ⟨_, rfl⟩
  · exact ⟨_, rfl⟩

theorem getF_servo (h : g.reg ≠ .TIME_RATE) (j : Nat) : s.servo.getF g j = s.getF g j := by
  unfold State.servo
  dsimp only
  split
  · rfl
  · exact getF_setF_apart _ (by decide) (.inl h)

theorem regsBut_servo (s : State) : s.RegsBut s.servo [(F.TIME_RATE_PPB, 0)] := by
  unfold State.servo
  dsimp only
  split
  · exact regsBut_refl s _
  · exact regsBut_setF ({ s with free := s.free + 1 } : State) (by decide)

/-- The offset of PTP kept, and the first one stepped away. -/
def State.ptpKept (s : State) (off : Int) : State :=
  let u := (s.setF F.TIME_PTP_OFFSET_NS 0 (unsigned 64 off)).withTime { s.time with ptpReq := none }
  if !s.time.ptpOnce && u.idleSteps then (u.withTime { u.time with ptpOnce := true }).stepTime (-off) else u

theorem ptpMeasured_eq (s : State) (off : Int) :
    s.ptpMeasured off = (s.ptpKept off).servo.setF F.TIME_STATUS_PTP_LOCKED 0 (bit (decide (off.natAbs ≤ 1000))) := rfl

theorem unsigned_lt (w : Nat) (z : Int) : unsigned w z < 2 ^ w := by
  have h := Int.emod_lt_of_pos z (show (0 : Int) < 2 ^ w by positivity)
  have h0 := Int.emod_nonneg z (show (2 : Int) ^ w ≠ 0 by positivity)
  unfold unsigned
  have hp : (((2 ^ w : Nat)) : Int) = 2 ^ w := by push_cast; rfl
  omega

theorem ptpKept_offset (off : Int) : (s.ptpKept off).getF F.TIME_PTP_OFFSET_NS 0 = unsigned 64 off := by
  have h : (s.setF F.TIME_PTP_OFFSET_NS 0 (unsigned 64 off)).getF F.TIME_PTP_OFFSET_NS 0 = unsigned 64 off :=
    (getF_setF_same s (by decide)).trans (Nat.mod_eq_of_lt (unsigned_lt 64 off))
  unfold State.ptpKept
  dsimp only
  split
  · refine Eq.trans ?_ h
    exact (getF_setF_apart _ (by decide) (.inl (by decide))).trans (getF_setF_apart _ (by decide) (.inl (by decide)))
  · exact h

theorem ptpKept_req (off : Int) : (s.ptpKept off).time.ptpReq = none := by
  unfold State.ptpKept
  dsimp only
  split <;> rfl

theorem ptpKept_now (off : Int) (h : s.time.ptpOnce = true) : (s.ptpKept off).now = s.now := by
  unfold State.ptpKept
  dsimp only
  rw [h]
  exact getF_setF_apart (g := F.TIME_NOW_NS) s (by decide) (.inl (by decide))

theorem regsBut_ptpKept (off : Int) : s.RegsBut (s.ptpKept off) [(F.TIME_PTP_OFFSET_NS, 0), (F.TIME_NOW_NS, 0), (F.TIME_STATUS_STEPPED, 0)] := by
  unfold State.ptpKept
  dsimp only
  split
  · exact regsBut_trans (regsBut_setF s (f := F.TIME_PTP_OFFSET_NS) (by decide)) (stepTime_only _ _).2
  · exact regsBut_mono (regsBut_setF s (f := F.TIME_PTP_OFFSET_NS) (by decide)) (by simp)

theorem ptpMeasured_spec (s : State) (off : Int) : (s.ptpMeasured off).getF F.TIME_PTP_OFFSET_NS 0 = unsigned 64 off ∧
    (s.ptpMeasured off).time.ptpReq = none ∧ ((s.ptpMeasured off).flag F.TIME_STATUS_PTP_LOCKED 0 = true ↔ off.natAbs ≤ 1000) ∧
    (s.time.ptpOnce = true → (s.ptpMeasured off).now = s.now) ∧
    s.RegsBut (s.ptpMeasured off) [(F.TIME_PTP_OFFSET_NS, 0), (F.TIME_STATUS_PTP_LOCKED, 0), (F.TIME_RATE_PPB, 0), (F.TIME_NOW_NS, 0),
      (F.TIME_STATUS_STEPPED, 0)] := by
  rw [ptpMeasured_eq]
  refine ⟨?_, ?_, ?_, fun h => ?_, ?_⟩
  · rw [getF_setF_apart _ (by decide) (.inl (by decide)), getF_servo (by decide), ptpKept_offset]
  · obtain ⟨x, hx⟩ := servo_time (s.ptpKept off)
    change (s.ptpKept off).servo.time.ptpReq = none
    rw [hx]
    exact ptpKept_req off
  · rw [flag_setF_bit (by decide) rfl, decide_eq_true_iff]
  · exact (getF_setF_apart (g := F.TIME_NOW_NS) _ (by decide) (.inl (by decide))).trans ((getF_servo (by decide) 0).trans (ptpKept_now off h))
  · exact regsBut_mono (regsBut_trans (regsBut_ptpKept off) (regsBut_trans (regsBut_servo _) (regsBut_setF _ (f := F.TIME_STATUS_PTP_LOCKED) (by decide))))
      (by simp)

/-! ## Missed beacons -/

/-- The state in which one more exchange has failed. -/
def State.counted (s : State) (n : Nat) : State := (s.setF F.TIME_STATUS_MISSED 0 n).withTime { s.time with missed := s.time.missed + 1 }

theorem missBeacon_eq {n : Nat} (h : n = min 65535 (s.getF F.TIME_STATUS_MISSED 0 + 1)) : s.missBeacon =
    if n < 3 then s.counted n
    else if ¬ (s.counted n).flag F.TIME_STATUS_ON_BACKUP 0 ∧ (s.counted n).getF F.TIME_CTRL_BKPORT 0 ≠ 63 then (s.counted n).toBackup
    else if 4 ≤ n then (((s.counted n).setF F.TIME_STATUS_HOLDOVER 0 1).setF F.TIME_STATUS_LOCKED 0 0).withTime
        { (s.counted n).time with good := 0 }
    else (s.counted n).setF F.TIME_STATUS_HOLDOVER 0 1 := by
  subst h
  rfl

theorem counted_missed {n : Nat} (h : n < 65536) : (s.counted n).getF F.TIME_STATUS_MISSED 0 = n :=
  (getF_setF_same s (by decide)).trans (Nat.mod_eq_of_lt h)

theorem getF_counted {n : Nat} (h : F.TIME_STATUS_MISSED.Apart g) (j : Nat) : (s.counted n).getF g j = s.getF g j :=
  getF_setF_apart s (by decide) h

theorem regsBut_counted (s : State) (n : Nat) : s.RegsBut (s.counted n) [(F.TIME_STATUS_MISSED, 0)] := regsBut_setF s (by decide)

theorem beaconExchangeFail_exec (h : s.flag F.TIME_CTRL_MASTER 0 = false) : exec .beaconExchangeFail s = .next s.missBeacon := if_neg (by simp [h])

/-- Settles O43: the steps are `stepTime`, and the outcomes of PTP and of a missed exchange are runs of field writes. -/
theorem timebaseSteps : Obligations.TimebaseSteps := by
  unfold Obligations.TimebaseSteps
  refine ⟨fun s v hm hi => ⟨_, timeStep_steps hm hi, stepTime_now s _, stepTime_stepped s _, stepTime_only s _⟩, fun s v h => if_neg fun hn => h.elim (by simp [hn.1]) (by simp [hn.2]),
    fun s hm hi ho hs ha => ?_, fun s hm hi ha => ?_, fun s m hm hen hd hw hdom hport htr => ?_,
    fun s hm => ⟨_, if_pos hm, flag_setF_bit (by decide) rfl false, only_setF s (by decide)⟩, fun s hm h => ?_, fun s hm h hb hbk => ?_,
    fun s hm h hb => ?_⟩
  · refine ⟨_, timebaseStep_measured hm hi ha ho hs, ?_, rfl, stepTime_stepped _ _, ?_, ?_⟩
    · rw [stepTime_now, ← sub_eq_add_neg]
      rfl
    · exact (stepTime_only _ _).1
    · exact (stepTime_only (s.withTime { s.time with stepped := true }) _).2
  · refine ⟨_, timebaseStep_owed hm hi ha, ?_, rfl, stepTime_stepped _ _, (stepTime_only (s.withTime { s.time with adj := 0 }) _).2⟩
    rw [stepTime_now, ← sub_eq_add_neg]
    rfl
  · intro t0
    have he := ptpMessage_exec (s := s) (m := m) ⟨hm, hen, hd, hw, hdom, hport, htr⟩
    refine ⟨fun hk h2 => ?_, fun hk h2 => ?_, fun t2 hk hs => ?_, fun t1 t2 t3 hk hr => ?_⟩
    · rw [he, hk]
      exact if_pos h2
    · refine ⟨s.ptpAsk m m.ts t0 t0, ?_, rfl, rfl, rfl⟩
      rw [he, hk]
      exact if_neg (by simp [h2])
    · refine ⟨s.ptpAsk m m.ts t2 t0, ?_, rfl, rfl, rfl⟩
      rw [he, hk]
      dsimp only
      rw [hs]
      exact congrArg _ (if_pos rfl)
    · intro off
      refine ⟨s.ptpMeasured off, ?_, ptpMeasured_spec s off⟩
      rw [he, hk]
      dsimp only
      rw [hr]
      exact if_neg (not_not.2 rfl)
  · refine ⟨_, beaconExchangeFail_exec hm, ?_, ?_⟩ <;> rw [missBeacon_eq (n := s.getF F.TIME_STATUS_MISSED 0 + 1) (by omega), if_pos (by omega)]
    · exact counted_missed (by omega)
    · exact regsBut_counted s _
  · have hne : ¬ (3 < 3) := by decide
    have hback : (s.counted 3).flag F.TIME_STATUS_ON_BACKUP 0 = false := by rw [State.flag, getF_counted (.inr (by decide))]; exact hb
    have hport : (s.counted 3).getF F.TIME_CTRL_BKPORT 0 ≠ 63 := by rw [getF_counted (.inl (by decide))]; exact hbk
    have hmiss : s.missBeacon = ((s.counted 3).setF F.TIME_STATUS_ON_BACKUP 0 1).setF F.TIME_STATUS_MISSED 0 0 := by
      rw [missBeacon_eq (n := 3) (by omega), if_neg hne, if_pos ⟨by simp [hback], hport⟩, State.toBackup, if_neg hport]
    refine ⟨_, beaconExchangeFail_exec hm, ?_, ?_, ?_⟩ <;> rw [hmiss]
    · rw [flag_setF_apart (by decide) (.inr (by decide)), State.flag, getF_setF_same _ (by decide)]
      rfl
    · rw [getF_setF_same _ (by decide)]
      rfl
    · exact regsBut_mono (regsBut_trans (regsBut_counted s 3) (regsBut_trans (regsBut_setF _ (f := F.TIME_STATUS_ON_BACKUP) (by decide))
        (regsBut_setF _ (f := F.TIME_STATUS_MISSED) (by decide)))) (by simp)
  · have hbad : ¬ (¬ (s.counted 3).flag F.TIME_STATUS_ON_BACKUP 0 = true ∧ (s.counted 3).getF F.TIME_CTRL_BKPORT 0 ≠ 63) := by
      rw [State.flag, getF_counted (.inr (by decide)), getF_counted (.inl (by decide))]
      exact fun h => hb.elim h.1 h.2
    have hmiss : s.missBeacon = (s.counted 3).setF F.TIME_STATUS_HOLDOVER 0 1 := by
      rw [missBeacon_eq (n := 3) (by omega), if_neg (by decide), if_neg hbad, if_neg (by decide)]
    refine ⟨_, beaconExchangeFail_exec hm, ?_, ?_, ?_⟩ <;> rw [hmiss]
    · rw [State.flag, getF_setF_same _ (by decide)]
      rfl
    · rw [getF_setF_apart _ (by decide) (.inr (by decide)), counted_missed (by decide)]
    · exact regsBut_trans (regsBut_counted s 3) (regsBut_setF _ (f := F.TIME_STATUS_HOLDOVER) (by decide))

end Sys2Proof.Machine

end

section
/-! SUPPORT. What an abort keeps, whether it stops a step, comes late or only counts. -/

namespace Sys2Proof.Machine

variable {s t u : State} {p : Nat} {g : Fld}

/-- `t` differs from `s` as aborts of steps may change it. -/
structure State.AbortOp (s t : State) : Prop where
  frame : t = { s with regs := t.regs, free := t.free, cores := t.cores, tctx := t.tctx, sctx := t.sctx, arrivals := t.arrivals
                       parts := t.parts, rq := t.rq, inbox := t.inbox, log := t.log, pldm := t.pldm }
  regs : ∀ (g : Fld) (j : Nat), g.reg ∉ abortRegs → t.getF g j = s.getF g j
  stopped : ∀ q, (s.part q).running = false → (t.part q).running = false

namespace State.AbortOp

theorem refl : s.AbortOp s := ⟨rfl, fun _ _ _ => rfl, fun _ h => h⟩

theorem trans (h : s.AbortOp t) (h' : t.AbortOp u) : s.AbortOp u :=
  ⟨h'.frame.trans (by rw [h.frame]), fun g j hg => (h'.regs g j hg).trans (h.regs g j hg),
    fun q hq => h'.stopped q (h.stopped q hq)⟩

theorem setF {f : Fld} (i x : Nat) (hf : f.reg ∈ abortRegs) (hw : f.lo + f.w ≤ 64) : s.AbortOp (s.setF f i x) :=
  ⟨rfl, fun _ _ hg => getF_setF_apart s hw (.inl fun h => hg (h ▸ hf)), fun _ h => h⟩

theorem setFs {l : List (Fld × Nat)} (i : Nat) (hl : ∀ x ∈ l, x.1.reg ∈ abortRegs ∧ x.1.lo + x.1.w ≤ 64) : s.AbortOp (s.setFs i l) := by
  induction l generalizing s with
  | nil => exact refl
  | cons x l ih =>
    obtain ⟨hx, hl⟩ := List.forall_mem_cons.1 hl
    exact (setF i x.2 hx.1 hx.2).trans (ih hl)

theorem modPart (p : Nat) {f : Part → Part} (hf : ∀ x, x.running = false → (f x).running = false) : s.AbortOp (s.modPart p f) := by
  refine ⟨rfl, fun _ _ _ => rfl, fun q hq => ?_⟩
  by_cases h : q = p
  · subst h
    rw [modPart_part_same]
    exact hf _ hq
  · rw [modPart_part_ne _ h]
    exact hq

theorem purge (p : Nat) : s.AbortOp (s.purge p) := ⟨rfl, fun _ _ _ => rfl, fun _ h => h⟩

theorem dropped (p : Nat) : s.AbortOp (s.dropped p) := by
  have h := dropped_drops (s := s) (p := p)
  generalize s.dropped p = u at h
  refine ⟨by rw [h.frame], fun g j hg => h.regs g j fun h => hg ?_, fun q hq => ?_⟩
  · simp only [abortRegs, List.cons_append, List.mem_cons, List.mem_append]
    exact .inr (.inr (.inl h))
  · by_cases hqp : q = p
    · obtain ⟨x, hx⟩ := h.part
      rw [hqp, hx]
      exact hqp ▸ hq
    · rw [h.others q hqp]
      exact hq

theorem logNote (sev code part : Nat) (args : List Nat) : s.AbortOp (s.logNote sev code part args) := by
  unfold State.logNote State.logPush
  dsimp only
  split
  · exact ⟨rfl, fun _ _ _ => rfl, fun _ h => h⟩
  · exact ⟨rfl, fun g j hg => getF_setF_apart s (by decide) (.inl fun h => hg (h ▸ by decide)), fun _ h => h⟩

theorem sendAbort (p cause detail : Nat) : s.AbortOp (s.sendAbort p cause detail) := by
  unfold State.sendAbort
  split
  · exact refl
  · exact ⟨rfl, fun _ _ _ => rfl, fun _ h => h⟩

theorem recordAbort (p node cause detail : Nat) : s.AbortOp (s.recordAbort p node cause detail) :=
  setFs p (by simp [abortRegs, F.CTL_ABORT_NODE, F.CTL_ABORT_CAUSE, F.CTL_ABORT_DETAIL, F.CTL_ABORT_VALID])

theorem abortApply (p st : Nat) : s.AbortOp (s.abortApply p st) := by
  rw [abortApply_eq]
  exact (((dropped p).trans (setFs p (by simp [abortRegs, F.CTL_ABORT_QUIET, F.LATCH_START_WAITING]))).trans (modPart p fun _ _ => rfl)).trans (purge p)

theorem lateAbort (p : Nat) : s.AbortOp (s.lateAbort p) := by
  rw [lateAbort_eq]
  refine (State.AbortOp.trans (setFs (l := [(F.CTL_ABORT_LATE, 1), (F.CTL_ABORT_QUIET, 1)]) p (by
    simp [abortRegs, F.CTL_ABORT_LATE, F.CTL_ABORT_QUIET])) (modPart p ?_)).trans (purge p)
  exact fun _ h => h

theorem abortStep (p cause detail : Nat) : s.AbortOp (s.abortStep p cause detail) := by
  unfold State.abortStep
  dsimp only
  refine .trans (t := s.addF F.CTL_ABORT_COUNT p 1) (setF p _ (by decide) (by decide)) ?_
  split
  · rw [logEvent_quiet (by decide)]
    exact (((recordAbort _ _ _ _).trans (sendAbort _ _ _)).trans (abortApply _ _)).trans (logNote _ _ _ _)
  · split
    · rw [logEvent_quiet (by decide)]
      exact (((recordAbort _ _ _ _).trans (sendAbort _ _ _)).trans (lateAbort _)).trans (logNote _ _ _ _)
    · exact refl

theorem abortAll (cause : Nat) (l : List Nat) : s.AbortOp (s.abortAll cause l) := by
  induction l generalizing s with
  | nil => exact refl
  | cons p l ih => exact (abortStep p cause 0).trans ih

end State.AbortOp

theorem State.AbortOp.port (h : s.AbortOp t) (q : Nat) : t.port q = s.port q := by rw [h.frame]; rfl

theorem State.AbortOp.mem (h : s.AbortOp t) : t.mem = s.mem := by rw [h.frame]

theorem State.AbortOp.time (h : s.AbortOp t) : t.time = s.time := by rw [h.frame]

end Sys2Proof.Machine

end

section
/-! SUPPORT. The exchange of beacons: what each packet of it sends, what its end records, and the time alignment. -/

namespace Sys2Proof.Machine

variable {s t : State} {q t1 t2 t3 : Nat} {k : Packet} {rest : List Packet} {g : Fld}

theorem modPort_port_same (s : State) (q : Nat) (f : Port → Port) : (s.modPort q f).port q = f (s.port q) := State.setPort_port_same _ _ _

theorem sync_acts (hq : q < 36) (hk : takeFirst (isBeacon q 0) s.inbox = some (k, rest)) (hb : bkBad k.body = false) :
    exec (.sync q) s = .next (
      let u := s.withInbox rest
      if u.parentPort q ∧ bkDepth k.body + 1 ≠ u.getF F.TIME_STATUS_DEPTH 0 then u.missOn q
      else if u.parentPort q ∨ u.pstate q = 7 ∧ u.acts q k.body then
        (u.modPort q (fun x => { x with exch := some (bkSeq k.body, bkTs k.body, k.stamp, 0) })).sendBeacon q
          (u.beaconBody 1 (u.bursting q) (bkSeq k.body) 0)
      else u) :=
  (if_neg (not_not.2 hq)).trans (onBeacon_acts hk hb)

theorem delayReq_acts (hq : q < 36) (hk : takeFirst (isBeacon q 1) s.inbox = some (k, rest)) (hb : bkBad k.body = false) :
    exec (.delayReq q) s = .next (
      let v := (s.withInbox rest).sendBeacon q ((s.withInbox rest).beaconBody 2 false (bkSeq k.body) k.stamp)
      if v.pstate q = 7 then v.openVcs q else v) :=
  (if_neg (not_not.2 hq)).trans (onBeacon_acts hk hb)

/-- The offset of a finished exchange. -/
def exchOff (t1 t2 t3 rx : Nat) : Int := (((t2 : Int) - t1) - ((rx : Int) - t3)) / 2

/-- The state once the exchange is over and its packet taken. -/
def State.exchOver (s : State) (q : Nat) (rest : List Packet) : State := (s.withInbox rest).modPort q (fun x => { x with exch := none })

/-- The offset disciplines the timebase where the port is the one followed. -/
def State.disciplined (u : State) (q : Nat) (b : List Byte) (off : Int) : State :=
  if u.parentPort q ∧ ((u.getF F.TIME_CTRL_UPPORT 0 == q) = true ∨ u.beaconPort = q) then u.discipline (u.getF F.TIME_CTRL_UPPORT 0 == q) b off
  else u

theorem delayResp_acts (hq : q < 36) (hk : takeFirst (isBeacon q 2) s.inbox = some (k, rest)) (hb : bkBad k.body = false)
    (he : (s.port q).exch = some (bkSeq k.body, t1, t2, t3)) : exec (.delayResp q) s = .next (
      let v := (s.exchOver q rest).disciplined q k.body (exchOff t1 t2 t3 (bkRx k.body))
      if v.pstate q ≠ 7 then v
      else if v.bursting q then v.burstDone q (exchOff t1 t2 t3 (bkRx k.body))
      else if (v.port q).acked = 7 then v
      else v.align q (exchOff t1 t2 t3 (bkRx k.body))) := by
  refine (if_neg (not_not.2 hq)).trans ((onBeacon_acts hk hb).trans (congrArg _ ?_))
  change (match (s.port q).exch with | none => _ | some (n, t1, t2, t3) => _) = _
  rw [he]
  exact if_neg (not_not.2 rfl)

theorem getF_withInbox (s : State) (l : List Packet) (g : Fld) (j : Nat) : (s.withInbox l).getF g j = s.getF g j := rfl

theorem getF_exchOver (g : Fld) (j : Nat) : (s.exchOver q rest).getF g j = s.getF g j := by rw [State.exchOver, getF_modPort, getF_withInbox]

/-! ## The upstream edge -/

/-- What the discipline of the timebase may change. -/
structure State.Disciplines (s t : State) : Prop where
  frame : t = { s with regs := t.regs, time := t.time, free := t.free, ports := t.ports }
  regs : ∀ (g : Fld) (j : Nat), g.reg ≠ .TIME_RATE → F.TIME_STATUS_LOCKED.Apart g → F.TIME_STATUS_LEFT.Apart g → t.getF g j = s.getF g j

theorem getF_withTime (s : State) (x : TimeS) (g : Fld) (j : Nat) : (s.withTime x).getF g j = s.getF g j := rfl

theorem lockBy_cases (s : State) (b : Bool) (off : Int) : ∃ x, s.lockBy b off = (s.withTime x).setF F.TIME_STATUS_LOCKED 0 0 ∨
    s.lockBy b off = ((s.withTime x).setF F.TIME_STATUS_LOCKED 0 1).setF F.TIME_STATUS_LEFT 0 0 ∨ s.lockBy b off = s.withTime x := by
  let good := if -128 ≤ off ∧ off ≤ 128 then s.time.good + 1 else 0
  let bad := if -128 ≤ off ∧ off ≤ 128 then 0 else s.time.bad + 1
  refine ⟨{ s.time with good := good, bad := bad }, ?_⟩
  by_cases h : ¬ b ∨ 2 ≤ bad
  · exact .inl (if_pos h)
  · by_cases h' : 8 ≤ good
    · exact .inr (.inl ((if_neg h).trans (if_pos h')))
    · exact .inr (.inr ((if_neg h).trans (if_neg h')))

theorem lockBy_disciplines (b : Bool) (off : Int) : s.Disciplines (s.lockBy b off) ∧ (s.lockBy b off).ports = s.ports := by
  obtain ⟨x, h | h | h⟩ := lockBy_cases s b off <;> rw [h]
  · exact ⟨⟨rfl, fun g j _ h _ => by rw [getF_setF_apart _ (by decide) h, getF_withTime]⟩, rfl⟩
  · exact ⟨⟨rfl, fun g j _ h h' => by rw [getF_setF_apart _ (by decide) h', getF_setF_apart _ (by decide) h, getF_withTime]⟩, rfl⟩
  · exact ⟨⟨rfl, fun _ _ _ _ _ => rfl⟩, rfl⟩

theorem servo_disciplines (s : State) : s.Disciplines s.servo := ⟨by rw [servo_eq], fun _ j h _ _ => getF_servo h j⟩

theorem State.Disciplines.trans {u : State} (h : s.Disciplines t) (h' : t.Disciplines u) : s.Disciplines u :=
  ⟨h'.frame.trans (by rw [h.frame]), fun g j h1 h2 h3 => (h'.regs g j h1 h2 h3).trans (h.regs g j h1 h2 h3)⟩

/-- The offset and the recovery kept in the registers, before LOCKED follows. -/
def State.offsetKept (s : State) (up : Bool) (off : Int) : State :=
  let u := s.setF F.TIME_OFFSET_OFF 0 (unsigned 64 off)
  let v := if up then u.setF F.TIME_STATUS_ON_BACKUP 0 0 else u
  (v.setFs 0 [(F.TIME_STATUS_MISSED, 0), (F.TIME_STATUS_HOLDOVER, 0)]).withTime { v.time with missed := 0, stepped := false }

theorem discipline_disciplines (up : Bool) (b : List Byte) (off : Int) : (s.offsetKept up off).Disciplines (s.discipline up b off) := by
  have h := (lockBy_disciplines (s := s.offsetKept up off) (bkLocked b) off).1.trans (servo_disciplines _)
  have he : s.discipline up b off = if (s.offsetKept up off).flag F.TIME_STATUS_LEFT 0 ∧
      ¬ (((s.offsetKept up off).lockBy (bkLocked b) off).servo).flag F.TIME_STATUS_LEFT 0 then
        (((s.offsetKept up off).lockBy (bkLocked b) off).servo).releaseHolds else ((s.offsetKept up off).lockBy (bkLocked b) off).servo := rfl
  rw [he]
  split
  · exact h.trans ⟨rfl, fun _ _ _ _ _ => rfl⟩
  · exact h

theorem discipline_ports (up : Bool) (b : List Byte) (off : Int) (hl : (s.offsetKept up off).flag F.TIME_STATUS_LEFT 0 = false) :
    (s.discipline up b off).ports = (s.offsetKept up off).ports := by
  have he : s.discipline up b off = if (s.offsetKept up off).flag F.TIME_STATUS_LEFT 0 ∧
      ¬ (((s.offsetKept up off).lockBy (bkLocked b) off).servo).flag F.TIME_STATUS_LEFT 0 then
        (((s.offsetKept up off).lockBy (bkLocked b) off).servo).releaseHolds else ((s.offsetKept up off).lockBy (bkLocked b) off).servo := rfl
  rw [he, if_neg (by simp [hl]), servo_eq]
  exact (lockBy_disciplines (bkLocked b) off).2

theorem offsetKept_up (off : Int) : (s.offsetKept true off).getF F.TIME_OFFSET_OFF 0 = unsigned 64 off ∧
    (s.offsetKept true off).getF F.TIME_STATUS_MISSED 0 = 0 ∧ (s.offsetKept true off).flag F.TIME_STATUS_ON_BACKUP 0 = false := by
  have he : ∀ g j, (s.offsetKept true off).getF g j = ((((s.setF F.TIME_OFFSET_OFF 0 (unsigned 64 off)).setF F.TIME_STATUS_ON_BACKUP 0 0).setF
      F.TIME_STATUS_MISSED 0 0).setF F.TIME_STATUS_HOLDOVER 0 0).getF g j := fun _ _ => rfl
  refine ⟨?_, ?_, ?_⟩
  · rw [he, getF_setF_apart _ (by decide) (.inl (by decide)), getF_setF_apart _ (by decide) (.inl (by decide)),
      getF_setF_apart _ (by decide) (.inl (by decide)), getF_setF_same _ (by decide)]
    exact Nat.mod_eq_of_lt (unsigned_lt 64 off)
  · rw [he, getF_setF_apart _ (by decide) (.inr (by decide)), getF_setF_same _ (by decide)]
    rfl
  · rw [State.flag, he, getF_setF_apart _ (by decide) (.inr (by decide)), getF_setF_apart _ (by decide) (.inr (by decide)),
      getF_setF_same _ (by decide)]
    rfl

theorem getF_offsetKept (up : Bool) (off : Int) (h1 : g.reg ≠ .TIME_OFFSET) (h2 : F.TIME_STATUS_ON_BACKUP.Apart g)
    (h3 : F.TIME_STATUS_MISSED.Apart g) (h4 : F.TIME_STATUS_HOLDOVER.Apart g) (j : Nat) : (s.offsetKept up off).getF g j = s.getF g j := by
  have he : ∀ v : State, ∀ x, ((v.setFs 0 [(F.TIME_STATUS_MISSED, 0), (F.TIME_STATUS_HOLDOVER, 0)]).withTime x).getF g j = v.getF g j := fun v x => by
    rw [getF_withTime, setFs_cons, setFs_cons, setFs_nil, getF_setF_apart _ (by decide) h4, getF_setF_apart v (by decide) h3]
  unfold State.offsetKept
  dsimp only
  rw [he]
  split
  · exact (getF_setF_apart _ (by decide) h2).trans (getF_setF_apart s (by decide) (.inl h1))
  · exact getF_setF_apart s (by decide) (.inl h1)

theorem offsetKept_eq (up : Bool) (off : Int) :
    s.offsetKept up off = { s with regs := (s.offsetKept up off).regs, time := (s.offsetKept up off).time } := by
  unfold State.offsetKept
  dsimp only
  split <;> rfl

/-! ## The time-alignment stage -/

/-- The state with a wake recorded, where the port owes one. -/
def State.wakeNoted (s : State) (q outcome : Nat) (ns : Int) : State :=
  if (s.port q).wake then (if outcome = 0 then s.recordWake q outcome ns else (s.recordWake q outcome ns).varyPort 5 q) else s

theorem varyPort_eq (s : State) (cause q : Nat) : s.varyPort cause q = { s with regs := (s.varyPort cause q).regs, parts := (s.varyPort cause q).parts } := by
  unfold State.varyPort
  split <;> rfl

theorem getF_varyPort {cause : Nat} (h1 : g.reg ≠ .CTL_VAR) (h2 : g.reg ≠ .CTL_VARC) (h3 : g.reg ≠ .CTL_VARP) (j : Nat) :
    (s.varyPort cause q).getF g j = s.getF g j := by
  unfold State.varyPort
  split
  · exact getF_vary h1 h2 h3
  · exact (getF_addF_apart _ (by decide) (.inl h2)).trans (getF_addF_apart s (by decide) (.inl h1))

theorem wakeNoted_eq (outcome : Nat) (ns : Int) : s.wakeNoted q outcome ns =
    { s with regs := (s.wakeNoted q outcome ns).regs, parts := (s.wakeNoted q outcome ns).parts } := by
  unfold State.wakeNoted
  split
  · split
    · rfl
    · rw [varyPort_eq]
      rfl
  · rfl

theorem getF_wakeNoted (h0 : g.reg ≠ .TIME_WAKE) (h1 : g.reg ≠ .CTL_VAR) (h2 : g.reg ≠ .CTL_VARC) (h3 : g.reg ≠ .CTL_VARP) (outcome : Nat) (ns : Int)
    (j : Nat) : (s.wakeNoted q outcome ns).getF g j = s.getF g j := by
  have hr : (s.recordWake q outcome ns).getF g j = s.getF g j := getF_setFs_ne s fun x hx => .inl (by
    simp only [List.mem_cons, List.not_mem_nil, or_false] at hx
    rcases hx with rfl | rfl | rfl | rfl <;> exact h0)
  unfold State.wakeNoted
  split
  · split
    · exact hr
    · exact (getF_varyPort h1 h2 h3 j).trans hr
  · rfl

theorem parentPort_wakeNoted (outcome : Nat) (ns : Int) : (s.wakeNoted q outcome ns).parentPort q = s.parentPort q := by
  unfold State.parentPort State.flag
  simp only [getF_wakeNoted (g := F.TIME_CTRL_MASTER) (by decide) (by decide) (by decide) (by decide),
    getF_wakeNoted (g := F.TIME_CTRL_UPPORT) (by decide) (by decide) (by decide) (by decide),
    getF_wakeNoted (g := F.TIME_CTRL_BKPORT) (by decide) (by decide) (by decide) (by decide)]

theorem align_admits {off : Int} (h : off.natAbs ≤ 64 * 256) :
    s.align q off = ((s.wakeNoted q 0 (off / 256)).modPort q (fun x => { x with hold3 := false })).openVcs q := by
  unfold State.align
  dsimp only
  rw [if_pos h]
  rfl

theorem align_bursts {off : Int} (h : 64 * 256 < off.natAbs) (h' : off.natAbs ≤ 4000 * 256) : s.align q off =
    ((s.wakeNoted q 1 (off / 256)).unlockTime.owe q off).modPort q (fun x => { x with burst := 16, stageAt := x.stageAt + 20000 }) := by
  unfold State.align
  dsimp only
  rw [if_neg (by omega), if_pos h']
  rfl

theorem align_leaves {off : Int} (h : 4000 * 256 < off.natAbs) : ∃ l, s.align q off =
    (((((s.wakeNoted q 2 (off / 256)).unlockTime.owe q off).setF F.TIME_STATUS_LEFT 0 1).modPort q (fun x => { x with hold3 := true })).openVcs q).abortAll
      8 l := by
  unfold State.align
  dsimp only
  rw [if_neg (by omega), if_neg (by omega)]
  exact ⟨_, rfl⟩

theorem owe_other (h : s.parentPort q = false) (off : Int) : s.owe q off = s.withTime { s.time with adj := off * 2 ^ 24 } :=
  if_neg (by simp [h])

/-- The end of an exchange on the upstream edge. -/
theorem delayResp_upstream (hq : q < 36) (hk : takeFirst (isBeacon q 2) s.inbox = some (k, rest)) (hb : bkBad k.body = false)
    (he : (s.port q).exch = some (bkSeq k.body, t1, t2, t3)) (hup : s.getF F.TIME_CTRL_UPPORT 0 = q) (hm : s.flag F.TIME_CTRL_MASTER 0 = false)
    (hst : s.pstate q = 8) :
    exec (.delayResp q) s = .next ((s.exchOver q rest).discipline true k.body (exchOff t1 t2 t3 (bkRx k.body))) := by
  rw [delayResp_acts hq hk hb he]
  generalize exchOff t1 t2 t3 (bkRx k.body) = off
  have hup' : ((s.exchOver q rest).getF F.TIME_CTRL_UPPORT 0 == q) = true := by rw [getF_exchOver, hup]; exact beq_self_eq_true q
  have hpar : (s.exchOver q rest).parentPort q = true := by
    rw [State.parentPort, State.flag, getF_exchOver, getF_exchOver, hup]
    rw [State.flag] at hm
    simp [hm]
  have hv : (s.exchOver q rest).disciplined q k.body off = (s.exchOver q rest).discipline true k.body off := by
    rw [State.disciplined, hup', if_pos ⟨hpar, .inl rfl⟩]
  dsimp only
  rw [hv]
  refine congrArg _ (if_pos ?_)
  have hp : ((s.exchOver q rest).discipline true k.body off).getF F.PORT_STATUS_STATE q = s.getF F.PORT_STATUS_STATE q := by
    rw [(discipline_disciplines true k.body off).regs _ _ (by decide) (.inl (by decide)) (.inl (by decide)),
      getF_offsetKept _ _ (by decide) (.inl (by decide)) (.inl (by decide)) (.inl (by decide)), getF_exchOver]
  rw [State.pstate] at hst ⊢
  rw [hp, hst]
  decide

/-- The end of an exchange in the time-alignment stage of an edge that leads to no parent. -/
theorem delayResp_aligns (hq : q < 36) (hk : takeFirst (isBeacon q 2) s.inbox = some (k, rest)) (hb : bkBad k.body = false)
    (he : (s.port q).exch = some (bkSeq k.body, t1, t2, t3)) (hp : s.parentPort q = false) (hst : s.pstate q = 7) (hbu : (s.port q).burst = 0)
    (hac : (s.port q).acked ≠ 7) :
    exec (.delayResp q) s = .next ((s.exchOver q rest).align q (exchOff t1 t2 t3 (bkRx k.body))) := by
  rw [delayResp_acts hq hk hb he]
  generalize exchOff t1 t2 t3 (bkRx k.body) = off
  have hpar : (s.exchOver q rest).parentPort q = false := by
    unfold State.parentPort State.flag at hp ⊢
    simp only [getF_exchOver]
    exact hp
  have hport : (s.exchOver q rest).port q = { s.port q with exch := none } := modPort_port_same _ _ _
  have hpst : (s.exchOver q rest).pstate q = 7 := (getF_exchOver _ _).trans hst
  have hv : (s.exchOver q rest).disciplined q k.body off = s.exchOver q rest := if_neg (by simp [hpar])
  dsimp only
  rw [hv, if_neg (not_not.2 hpst), if_neg (by simp [State.bursting, hport, hbu]), if_neg (by rw [hport]; exact hac)]

theorem exchOver_parentPort (hp : s.parentPort q = false) : (s.exchOver q rest).parentPort q = false := by
  unfold State.parentPort State.flag at hp ⊢
  simp only [getF_exchOver]
  exact hp

theorem unlockTime_flag : s.unlockTime.flag F.TIME_STATUS_LOCKED 0 = false := flag_setF_bit (b := false) (s := s) (by decide) rfl

/-- The three outcomes of Table 10-6 on an edge that leads to no parent. -/
theorem align_spec (hp : s.parentPort q = false) (off : Int) :
    (off.natAbs ≤ 64 * 256 → ((s.align q off).port q).acked = 7 ∧ ((s.align q off).port q).hold3 = false) ∧
    (64 * 256 < off.natAbs → (s.align q off).flag F.TIME_STATUS_LOCKED 0 = false) ∧
    (64 * 256 < off.natAbs → off.natAbs ≤ 4000 * 256 → ((s.align q off).port q).burst = 16 ∧ (s.align q off).time.adj = off * 2 ^ 24) ∧
    (4000 * 256 < off.natAbs → (s.align q off).flag F.TIME_STATUS_LEFT 0 = true ∧ ((s.align q off).port q).hold3 = true) := by
  have howe : ∀ o, ((s.wakeNoted q o (off / 256)).unlockTime.owe q off) =
      (s.wakeNoted q o (off / 256)).unlockTime.withTime { (s.wakeNoted q o (off / 256)).unlockTime.time with adj := off * 2 ^ 24 } := fun o => by
    refine owe_other ?_ off
    have h := (parentPort_wakeNoted (s := s) (q := q) o (off / 256)).trans hp
    generalize s.wakeNoted q o (off / 256) = w at h
    have hg : ∀ g : Fld, g.reg ≠ .TIME_STATUS → ∀ j, w.unlockTime.getF g j = w.getF g j := fun g hg j => getF_setF_apart w (by decide) (.inl hg)
    unfold State.parentPort State.flag at h ⊢
    rw [hg _ (by decide), hg _ (by decide), hg _ (by decide)]
    exact h
  refine ⟨fun h => ?_, fun h => ?_, fun h h' => ?_, fun h => ?_⟩
  · rw [align_admits h, State.openVcs, modPort_port_same, modPort_port_same]
    exact ⟨rfl, rfl⟩
  · by_cases h' : off.natAbs ≤ 4000 * 256
    · rw [align_bursts h h', howe]
      generalize s.wakeNoted q 1 (off / 256) = w
      rw [State.flag, getF_modPort, getF_withTime]
      exact unlockTime_flag
    · obtain ⟨l, hl⟩ := align_leaves (s := s) (q := q) (show 4000 * 256 < off.natAbs by omega)
      rw [hl, howe]
      generalize s.wakeNoted q 2 (off / 256) = w
      rw [State.flag, (State.AbortOp.abortAll 8 l).regs _ _ (by decide), State.openVcs, getF_modPort, getF_modPort,
        getF_setF_apart _ (by decide) (.inr (by decide)), getF_withTime]
      exact unlockTime_flag
  · rw [align_bursts h h', howe, modPort_port_same]
    exact ⟨rfl, rfl⟩
  · obtain ⟨l, hl⟩ := align_leaves (s := s) (q := q) h
    rw [hl, howe]
    generalize s.wakeNoted q 2 (off / 256) = w
    constructor
    · rw [State.flag, (State.AbortOp.abortAll 8 l).regs _ _ (by decide), State.openVcs, getF_modPort, getF_modPort, getF_setF_same _ (by decide)]
      rfl
    · rw [(State.AbortOp.abortAll 8 l).port, State.openVcs, modPort_port_same, modPort_port_same]

/-- Settles O44: each packet of the exchange by its equation, and its end by the discipline or the alignment. -/
theorem beaconsExchange : Obligations.BeaconsExchange := by
  unfold Obligations.BeaconsExchange
  refine ⟨fun s q hq ho hp => ?_, fun s q k rest hq hk hb hp hd => ?_, fun s q k rest hq hk hb hp hd hbp => ?_, fun s q k rest hq hk hb => delayReq_acts hq hk hb,
    fun s q t1 t2 t3 k rest hq hk hb he hup hm hst => ?_, fun s q t1 t2 t3 k rest hq hk hb he hp hst hbu hac => ?_⟩
  · exact (if_neg (not_not.2 hq)).trans (if_neg (by simp [ho, hp]))
  · intro u
    rw [sync_acts hq hk hb]
    refine congrArg _ ((if_neg fun h => h.2 hd).trans (if_pos (.inl hp)))
  · rw [sync_acts hq hk hb]
    have hm : s.flag F.TIME_CTRL_MASTER 0 = false := by
      cases h : s.flag F.TIME_CTRL_MASTER 0 with
      | false => rfl
      | true => simp [State.parentPort, h] at hp
    exact congrArg _ ((if_pos ⟨hp, hd⟩).trans (if_pos ⟨hbp, by rw [show (s.withInbox rest).flag F.TIME_CTRL_MASTER 0 = false from hm]; decide⟩))
  · obtain ⟨h1, h2, h3⟩ := offsetKept_up (s := s.exchOver q rest) (exchOff t1 t2 t3 (bkRx k.body))
    have hd := discipline_disciplines (s := s.exchOver q rest) true k.body (exchOff t1 t2 t3 (bkRx k.body))
    refine ⟨_, delayResp_upstream hq hk hb he hup hm hst, ?_, ?_, ?_, ?_, fun hl => ?_⟩
    · exact (hd.regs _ _ (by decide) (.inl (by decide)) (.inl (by decide))).trans h1
    · exact (hd.regs _ _ (by decide) (.inr (by decide)) (.inr (by decide))).trans h2
    · rw [State.flag, hd.regs _ _ (by decide) (.inr (by decide)) (.inr (by decide))]
      exact h3
    · rw [hd.frame, offsetKept_eq]
      rfl
    · have hp := discipline_ports (s := s.exchOver q rest) true k.body (exchOff t1 t2 t3 (bkRx k.body)) (by
        rw [State.flag, getF_offsetKept _ _ (by decide) (.inr (by decide)) (.inr (by decide)) (.inr (by decide)), getF_exchOver]
        exact hl)
      rw [offsetKept_eq] at hp
      have hport : ∀ v : State, v.ports = (s.exchOver q rest).ports → (v.port q).exch = none := fun v h => by
        rw [State.port, h]
        exact congrArg Port.exch (modPort_port_same (s.withInbox rest) q _)
      exact hport _ hp
  · intro off
    exact ⟨_, delayResp_aligns hq hk hb he hp hst hbu hac, align_spec (exchOver_parentPort hp) off⟩

end Sys2Proof.Machine

end

section
/-! SUPPORT. The state of a port: how it changes, how an attempt starts and fails, and how a port goes down. -/

namespace Sys2Proof.Machine

variable {s t : State} {q st cause : Nat} {g : Fld} {x : Port}

/-! ## The state of a port -/

theorem pstate_modPort (s : State) (i : Nat) (f : Port → Port) (q : Nat) : (s.modPort i f).pstate q = s.pstate q := rfl

theorem now_modPort (s : State) (i : Nat) (f : Port → Port) : (s.modPort i f).now = s.now := rfl

theorem dropLocks_eq (s : State) (code : Nat) (rs : List Nat) :
    s.dropLocks code rs = { s with regs := (s.dropLocks code rs).regs, locks := (s.dropLocks code rs).locks } := rfl

theorem takeLocks_eq (s : State) (code : Nat) (rs : List Nat) :
    s.takeLocks code rs = { s with regs := (s.takeLocks code rs).regs, locks := (s.takeLocks code rs).locks } := rfl

/-- The port as a change of state to `st` leaves it. -/
def State.restaged (s : State) (q st : Nat) : Port :=
  { s.port q with stageAt := s.now, leftUp := if s.pstate q = 8 ∧ st ≠ 8 then s.now else (s.port q).leftUp }

/-- Work that holds the lock of a port ends with a change of its state to `st`. -/
abbrev endsWork (st : Nat) : Prop := st = 1 ∨ 8 ≤ st ∧ st ≠ 12

/-- The time of leaving UP is kept. -/
def State.leaving (s : State) (q st : Nat) : State :=
  if s.pstate q = 8 ∧ st ≠ 8 then s.modPort q (fun x => { x with leftUp := s.now }) else s

/-- So is the time of the change. -/
def State.staged (s : State) (q st : Nat) : State :=
  (s.leaving q st).modPort q (fun x => { x with stageAt := (s.leaving q st).now })

theorem setPstate_def (s : State) (q st : Nat) : s.setPstate q st =
    (if endsWork st then (s.staged q st).dropLocks 6 [q] else s.staged q st).setF F.PORT_STATUS_STATE q st := rfl

theorem leaving_eq (s : State) (q st : Nat) : s.leaving q st = { s with ports := (s.leaving q st).ports } := by
  unfold State.leaving
  split <;> rfl

theorem staged_eq (s : State) (q st : Nat) : s.staged q st = { s with ports := (s.staged q st).ports } := by
  rw [State.staged, leaving_eq]
  rfl

theorem getF_staged (s : State) (q st : Nat) (g : Fld) (j : Nat) : (s.staged q st).getF g j = s.getF g j := by
  rw [staged_eq]
  rfl

theorem leaving_now (s : State) (q st : Nat) : (s.leaving q st).now = s.now := by
  rw [leaving_eq]
  rfl

theorem leaving_port (s : State) (q st : Nat) : (s.leaving q st).port q =
    { s.port q with leftUp := if s.pstate q = 8 ∧ st ≠ 8 then s.now else (s.port q).leftUp } := by
  unfold State.leaving
  by_cases h : s.pstate q = 8 ∧ st ≠ 8
  · rw [if_pos h, if_pos h, modPort_port_same]
  · rw [if_neg h, if_neg h]

theorem staged_port (s : State) (q st : Nat) : (s.staged q st).port q = s.restaged q st := by
  rw [State.staged, modPort_port_same, leaving_port, leaving_now]
  rfl

theorem setPstate_eq (s : State) (q st : Nat) :
    s.setPstate q st = { s with regs := (s.setPstate q st).regs, ports := (s.setPstate q st).ports, locks := (s.setPstate q st).locks } := by
  rw [setPstate_def, staged_eq]
  split <;> rfl

theorem setPstate_port (s : State) (q st : Nat) : (s.setPstate q st).port q = s.restaged q st := by
  rw [← staged_port, setPstate_def]
  split <;> rfl

theorem getF_setPstate (h1 : g.reg ≠ .CTL_MLOCK) (h2 : F.PORT_STATUS_STATE.Apart g) (s : State) (q st j : Nat) :
    (s.setPstate q st).getF g j = s.getF g j := by
  rw [setPstate_def, getF_setF_apart _ (by decide) h2]
  split
  · rw [getF_dropLocks h1, getF_staged]
  · rw [getF_staged]

theorem setPstate_pstate (s : State) (q : Nat) (h : st < 16) : (s.setPstate q st).pstate q = st :=
  (getF_setF_same _ (by decide)).trans (Nat.mod_eq_of_lt h)

/-- A change of state that ends no work keeps the locks. -/
theorem setPstate_only (h : ¬ endsWork st) (s : State) (q : Nat) : s.setPstate q st = (s.staged q st).setF F.PORT_STATUS_STATE q st := by
  rw [setPstate_def, if_neg h]

theorem regsBut_setPstate (h : ¬ endsWork st) (s : State) (q : Nat) : s.RegsBut (s.setPstate q st) [(F.PORT_STATUS_STATE, q)] := by
  rw [setPstate_only h, staged_eq]
  exact regsBut_setF ({ s with ports := _ } : State) (by decide)

/-! ## An attempt -/

/-- The fields that an attempt clears at its start. -/
def attemptFields : List (Fld × Nat) :=
  [(F.PORT_STATUS_WIDTH, 0), (F.PORT_STATUS_NEIGH_BAD, 0), (F.PORT_STATUS_CDIGEST_BAD, 0), (F.PORT_LANES_FAILED, 0), (F.PORT_LANES_LOCKED, 0)]

/-- The port as the start of an attempt leaves it. -/
def Port.attempted (x : Port) (now : Nat) : Port :=
  { x with got := 0, acked := 0, saidReady := false, tbeacon := [], exch := none, burst := 0, ask := 0, asked := false, grant := false,
           refuse := false, half := false, trainAt := if x.wake then now else x.trainAt, wake := false }

/-- The start of an attempt before the port's fields follow. -/
def State.redetect (s : State) (q cause : Nat) : State :=
  if cause = 0 then (s.setPstate q 2).setFs q attemptFields else ((s.setPstate q 2).setFs q attemptFields).setF F.PORT_STATUS_CAUSE q cause

theorem detect_def (s : State) (q cause : Nat) :
    s.detect q cause = (s.redetect q cause).modPort q (fun x => x.attempted (s.redetect q cause).now) := rfl

theorem redetect_eq (s : State) (q cause : Nat) : s.redetect q cause =
    { s with regs := (s.redetect q cause).regs, ports := (s.setPstate q 2).ports } := by
  unfold State.redetect
  rw [setPstate_only (st := 2) (by decide), setFs_eq, staged_eq]
  split <;> rfl

theorem redetect_port (s : State) (q cause : Nat) : (s.redetect q cause).port q = s.restaged q 2 := by
  rw [← setPstate_port, redetect_eq]
  rfl

theorem detect_eq (s : State) (q cause : Nat) : s.detect q cause =
    { s with regs := (s.redetect q cause).regs, ports := (s.detect q cause).ports } := by
  rw [detect_def, redetect_eq]
  rfl

theorem detect_port (s : State) (q cause : Nat) : (s.detect q cause).port q = (s.restaged q 2).attempted (s.redetect q cause).now := by
  rw [detect_def, modPort_port_same, redetect_port]

theorem getF_redetect (h1 : g.reg ≠ .CTL_MLOCK) (h2 : g.reg ≠ .PORT_STATUS) (h3 : g.reg ≠ .PORT_LANES) (s : State) (q cause j : Nat) :
    (s.redetect q cause).getF g j = s.getF g j := by
  have e : ((s.setPstate q 2).setFs q attemptFields).getF g j = s.getF g j := by
    rw [getF_setFs_ne _ (by
      unfold attemptFields
      simp only [List.forall_mem_cons]
      exact ⟨.inl h2, .inl h2, .inl h2, .inl h3, .inl h3, by simp⟩), getF_setPstate h1 (.inl h2)]
  unfold State.redetect
  split
  · exact e
  · rw [getF_setF_apart _ (by decide) (.inl h2), e]

theorem getF_detect (h1 : g.reg ≠ .CTL_MLOCK) (h2 : g.reg ≠ .PORT_STATUS) (h3 : g.reg ≠ .PORT_LANES) (s : State) (q cause j : Nat) :
    (s.detect q cause).getF g j = s.getF g j := by
  rw [detect_def, getF_modPort, getF_redetect h1 h2 h3]

theorem detect_pstate (s : State) (q cause : Nat) : (s.detect q cause).pstate q = 2 := by
  have e : ((s.setPstate q 2).setFs q attemptFields).pstate q = 2 := by
    rw [State.pstate, getF_setFs_apart _ q (by decide) (by
      unfold attemptFields
      simp only [List.forall_mem_cons]
      exact ⟨.inr (by decide), .inr (by decide), .inr (by decide), .inl (by decide), .inl (by decide), by simp⟩)]
    exact setPstate_pstate s q (by decide)
  rw [detect_def, pstate_modPort, State.redetect]
  split
  · exact e
  · rw [State.pstate, getF_setF_apart _ (by decide) (.inr (by decide))]
    exact e

theorem detect_cause (s : State) (q : Nat) (h0 : cause ≠ 0) (h : cause < 256) : (s.detect q cause).getF F.PORT_STATUS_CAUSE q = cause := by
  rw [detect_def, getF_modPort, State.redetect, if_neg h0, getF_setF_same _ (by decide)]
  exact Nat.mod_eq_of_lt h

/-! ## Training -/

/-- The port and the count of trainings as a training finds them before its first attempt. -/
def State.toTrain (s : State) (q cause : Nat) : State :=
  (s.addF F.PORT_TRAIN_TRAINS q 1).modPort q (fun x =>
    { x with fails := 0, wake := false, trainAt := (s.addF F.PORT_TRAIN_TRAINS q 1).now,
             keep := if cause == 0x0B || (cause == 0 && (s.pstate q == 8 || s.pstate q == 9)) then 0 else x.keep })

theorem train_def (h : s.portsOff = false) (q cause : Nat) : s.train q cause = (s.toTrain q cause).detect q cause :=
  if_neg (by simp [h])

theorem toTrain_eq (s : State) (q cause : Nat) :
    s.toTrain q cause = { s with regs := (s.toTrain q cause).regs, ports := (s.toTrain q cause).ports } := rfl

theorem toTrain_trains (s : State) (q cause : Nat) :
    (s.toTrain q cause).getF F.PORT_TRAIN_TRAINS q = satAdd F.PORT_TRAIN_TRAINS.w (s.getF F.PORT_TRAIN_TRAINS q) 1 := by
  rw [State.toTrain, getF_modPort, getF_addF_same (by decide)]

theorem getF_toTrain (h : F.PORT_TRAIN_TRAINS.Apart g) (s : State) (q cause j : Nat) : (s.toTrain q cause).getF g j = s.getF g j := by
  rw [State.toTrain, getF_modPort, getF_addF_apart s (by decide) h]

theorem train_eq (h : s.portsOff = false) (q cause : Nat) :
    s.train q cause = { s with regs := (s.train q cause).regs, ports := (s.train q cause).ports } := by
  rw [train_def h, detect_eq, toTrain_eq]

theorem train_pstate (h : s.portsOff = false) (q cause : Nat) : (s.train q cause).pstate q = 2 := by
  rw [train_def h, detect_pstate]

theorem train_cause (h : s.portsOff = false) (q : Nat) (h0 : cause ≠ 0) (hc : cause < 256) :
    (s.train q cause).getF F.PORT_STATUS_CAUSE q = cause := by
  rw [train_def h, detect_cause _ _ h0 hc]

theorem train_trains (h : s.portsOff = false) (q cause : Nat) :
    (s.train q cause).getF F.PORT_TRAIN_TRAINS q = satAdd F.PORT_TRAIN_TRAINS.w (s.getF F.PORT_TRAIN_TRAINS q) 1 := by
  rw [train_def h, getF_detect (by decide) (by decide) (by decide), toTrain_trains]

theorem toTrain_port (s : State) (q cause : Nat) : ((s.toTrain q cause).port q).gone = (s.port q).gone ∧
    ((s.toTrain q cause).port q).rseq = (s.port q).rseq ∧ ((s.toTrain q cause).port q).rack = (s.port q).rack := by
  rw [State.toTrain, modPort_port_same]
  exact ⟨rfl, rfl, rfl⟩

/-- Training keeps what a going-away frame and the partner's numbers told. -/
theorem train_port (h : s.portsOff = false) (q cause : Nat) : ((s.train q cause).port q).gone = (s.port q).gone ∧
    ((s.train q cause).port q).rseq = (s.port q).rseq ∧ ((s.train q cause).port q).rack = (s.port q).rack := by
  rw [train_def h, detect_port, ← (toTrain_port s q cause).1, ← (toTrain_port s q cause).2.1, ← (toTrain_port s q cause).2.2]
  exact ⟨rfl, rfl, rfl⟩

/-! ## Down -/

/-- A port that goes down before the event is noted. -/
def State.fallen (s : State) (q cause : Nat) : State :=
  ((s.setPstate q 1).setFs q [(F.PORT_STATUS_CAUSE, cause), (F.PORT_STATUS_WIDTH, 0), (F.PORT_LANES_LOCKED, 0)]).modPort q
    (fun x => { x with fails := 0, ask := 0, asked := false, grant := false, refuse := false })

/-- The same once the event is noted. -/
def State.noteDown (s : State) (q cause : Nat) : State :=
  (s.fallen q cause).logEvent 2 0x0106 (((s.fallen q cause).portOwner q).getD 255) [q, cause]

theorem goDown_def (s : State) (q cause : Nat) : s.goDown q cause =
    if cause = 0x0A then ((s.noteDown q cause).modPort q (fun x => { x with gone := true })).discardPort q
    else ((s.noteDown q cause).setF F.VCB_HOLD_HOLDING q 1).modPort q (fun x =>
      { x with downAt := (s.noteDown q cause).now }) := rfl

theorem goDown_holds (h : cause ≠ 0x0A) (s : State) (q : Nat) : s.goDown q cause =
    ((s.noteDown q cause).setF F.VCB_HOLD_HOLDING q 1).modPort q (fun x =>
      { x with downAt := (s.noteDown q cause).now }) := by
  rw [goDown_def, if_neg h]

theorem fallen_pstate (s : State) (q cause : Nat) : (s.fallen q cause).pstate q = 1 := by
  rw [State.fallen, pstate_modPort, State.pstate, getF_setFs_apart _ q (by
      simp only [List.forall_mem_cons]
      exact ⟨by decide, by decide, by decide, by simp⟩) (by
      simp only [List.forall_mem_cons]
      exact ⟨.inr (by decide), .inr (by decide), .inl (by decide), by simp⟩)]
  exact setPstate_pstate s q (by decide)

theorem fallen_cause (s : State) (q : Nat) (h : cause < 256) : (s.fallen q cause).getF F.PORT_STATUS_CAUSE q = cause := by
  rw [State.fallen, getF_modPort, setFs_cons, setFs_cons, setFs_cons, setFs_nil, getF_setF_apart _ (by decide) (.inl (by decide)),
    getF_setF_apart _ (by decide) (.inr (by decide)), getF_setF_same _ (by decide)]
  exact Nat.mod_eq_of_lt h

theorem getF_goDown (h : cause ≠ 0x0A) (h1 : g.reg ≠ .CTL_LOG) (h2 : g.reg ≠ .VCB_HOLD) (s : State) (q j : Nat) :
    (s.goDown q cause).getF g j = (s.fallen q cause).getF g j := by
  rw [goDown_holds h, getF_modPort, getF_setF_apart _ (by decide) (.inl h2), State.noteDown, logEvent_quiet (by decide), getF_logNote h1]

theorem goDown_pstate (h : cause ≠ 0x0A) (s : State) (q : Nat) : (s.goDown q cause).pstate q = 1 := by
  rw [State.pstate, getF_goDown h (by decide) (by decide)]
  exact fallen_pstate s q cause

theorem goDown_cause (h : cause ≠ 0x0A) (hc : cause < 256) (s : State) (q : Nat) : (s.goDown q cause).getF F.PORT_STATUS_CAUSE q = cause := by
  rw [getF_goDown h (by decide) (by decide), fallen_cause s q hc]

theorem failAttempt_pstate (h : cause ≠ 0x0A) (s : State) (q : Nat) :
    (s.failAttempt q cause).pstate q = if 3 ≤ (s.port q).fails + 1 then 1 else 2 := by
  unfold State.failAttempt
  dsimp only
  split
  · exact goDown_pstate h s q
  · exact detect_pstate _ q cause

/-! ## The crossings of a port -/

theorem getF_calibratePort {fs : Fld × Fld × Fld × Fld} (hf : fs = fPortIn ∨ fs = fPortOut) (h : g.reg ≠ .PORT_XLAT) (s : State) (i : Nat)
    (c : Cal) (target j : Nat) : (s.calibrate i fs c target).getF g j = s.getF g j := by
  unfold State.calibrate
  rcases hf with rfl | rfl
  all_goals
    split
    · refine getF_setFs_ne _ ?_
      simp only [List.forall_mem_cons]
      exact ⟨.inl h, .inl h, .inl h, .inl h, by simp⟩
    · exact getF_setF_apart _ (by decide) (.inl h)

theorem calibrateOut_keepsIn (s : State) (i : Nat) (c : Cal) (target : Nat) :
    (s.calibrate i fPortOut c target).flag F.PORT_XLAT_IN_CALFAIL i = s.flag F.PORT_XLAT_IN_CALFAIL i := by
  rw [State.flag, State.flag, State.calibrate]
  split
  · rw [getF_setFs_apart _ i (by
      simp only [List.forall_mem_cons]
      exact ⟨by decide, by decide, by decide, by decide, by simp⟩) (by
      simp only [List.forall_mem_cons]
      exact ⟨.inr (by decide), .inr (by decide), .inr (by decide), .inr (by decide), by simp⟩)]
  · rw [getF_setF_apart _ (by decide) (.inr (by decide))]

theorem calibrateIn_works {c : Cal} {target : Nat} (h : calOk c target = true) (s : State) (i : Nat) :
    (s.calibrate i fPortIn c target).flag F.PORT_XLAT_IN_CALFAIL i = false := by
  rw [State.flag, State.calibrate, if_pos h]
  rw [fPortIn, setFs_cons, setFs_cons, setFs_cons, setFs_cons, setFs_nil, getF_setF_apart _ (by decide) (.inr (by decide)),
    getF_setF_apart _ (by decide) (.inr (by decide)), getF_setF_apart _ (by decide) (.inr (by decide)), getF_setF_same _ (by decide)]
  rfl

theorem calibrateOut_works {c : Cal} {target : Nat} (h : calOk c target = true) (s : State) (i : Nat) :
    (s.calibrate i fPortOut c target).flag F.PORT_XLAT_OUT_CALFAIL i = false := by
  rw [State.flag, State.calibrate, if_pos h]
  rw [fPortOut, setFs_cons, setFs_cons, setFs_cons, setFs_cons, setFs_nil, getF_setF_apart _ (by decide) (.inr (by decide)),
    getF_setF_apart _ (by decide) (.inr (by decide)), getF_setF_apart _ (by decide) (.inr (by decide)), getF_setF_same _ (by decide)]
  rfl

end Sys2Proof.Machine
end

section
/-! SUPPORT. Port training: what starts it, its stages, their bounds and the bodies they take. -/

namespace Sys2Proof.Machine

variable {s t : State} {q : Nat} {v : Word64} {b : List Byte}

/-! ## RETRAIN -/

/-- The port state that RETRAIN needs. -/
def State.retrains (s : State) (q : Nat) : Prop := (s.pstate q = 1 ∨ s.pstate q = 8 ∨ s.pstate q = 9) ∧ (s.port q).gone = false

theorem portDoes_retrain (h : s.retrains q) : s.portDoes q 0 = true := by
  obtain ⟨h, hg⟩ := h
  unfold State.portDoes
  rcases h with h | h | h <;> simp [h, hg]

theorem retrain_asks (hq : q < 36) (hv : v.toNat % 16 = 1) : exec (.retrain q v) s = .next (s.portAsk q 0) :=
  (if_neg (not_not.2 hq)).trans (if_pos (by simp [ctrlIs, hv]))

theorem retrain_trains (hq : q < 36) (hv : v.toNat % 16 = 1) (hl : s.mayLock 6 q = true) (h : s.retrains q) :
    exec (.retrain q v) s = .next ((s.train q 0x0B).takeLocks 6 [q]) := by
  have hw : s.portWork q 0 = (s.train q 0x0B).takeLocks 6 [q] := by
    unfold State.portWork
    rw [if_pos rfl]
    exact if_pos ⟨h.1, by simp [h.2]⟩
  rw [retrain_asks hq hv, State.portAsk, if_neg (by simp [hl]), hw]

theorem askLock_only (s : State) (code x : Nat) : s.RegsBut (s.askLock code x) [(F.CTL_MLOCK_BUSY, 0), (F.CTL_MLOCK_QUEUED, 0)] := by
  unfold State.askLock
  split
  · exact regsBut_refl s _
  · exact regsBut_trans (regsBut_setF s (by decide)) (regsBut_setF ({ s.addF F.CTL_MLOCK_BUSY 0 1 with lockQ := _ } : State) (by decide))

/-- A port request that may not begin waits in the queue of the locks, and nothing else changes. -/
theorem portAsk_waits {k : Nat} (hd : s.portDoes q k = true) (hl : s.mayLock 6 (q + 64 * k) = false) :
    (6, q + 64 * k) ∈ (s.portAsk q k).lockQ ∧ s.portAsk q k = { s with regs := (s.portAsk q k).regs, lockQ := (s.portAsk q k).lockQ } ∧
      s.RegsBut (s.portAsk q k) [(F.CTL_MLOCK_BUSY, 0), (F.CTL_MLOCK_QUEUED, 0)] := by
  rw [State.portAsk, if_pos (by simp [hd, hl])]
  exact ⟨askLock_waits s 6 _, askLock_eq s 6 _, askLock_only s 6 _⟩

/-! ## The partner's signal -/

theorem signal_trains {silence : Nat} (hq : q < 36) (hst : s.pstate q = 1) (hg : ¬ ((s.port q).gone = true ∧ silence < 10000)) :
    exec (.partnerSignal q silence true) s = .next ((s.modPort q (fun x => { x with gone := false })).train q 0) := by
  change execPartnerSignal q silence true s = _
  unfold execPartnerSignal
  rw [if_neg (not_not.2 hq), if_neg (by simp), hst]
  exact if_neg hg

theorem portsOff_modPort (s : State) (q : Nat) (f : Port → Port) : (s.modPort q f).portsOff = s.portsOff := rfl

theorem signal_ends {silence : Nat} (hq : q < 36) (hst : s.pstate q = 2) : exec (.partnerSignal q silence true) s = .next (s.setPstate q 3) := by
  change execPartnerSignal q silence true s = _
  unfold execPartnerSignal
  rw [if_neg (not_not.2 hq), if_neg (by simp), hst]
  rfl

theorem setPstate_keepsRest {st : Nat} (h : ¬ endsWork st) (s : State) (q : Nat) :
    s.setPstate q st = { s with regs := (s.setPstate q st).regs, ports := (s.setPstate q st).ports } := by
  rw [setPstate_only h, staged_eq]
  rfl

theorem setPstate_port_inside {st : Nat} (h : s.pstate q ≠ 8) : (s.setPstate q st).port q = { s.port q with stageAt := s.now } := by
  rw [setPstate_port, State.restaged, if_neg (fun h' => h h'.1)]

/-! ## The end of equalisation and of the alignment -/

/-- What equalisation tells of the lanes. -/
def State.lanesTold (s : State) (q : Nat) (l : Lanes) : State :=
  s.setFs q [(F.PORT_LANES_REVERSED, bit l.reversed), (F.PORT_LANES_INVERTED, l.inverted % 256),
    (F.PORT_LANES_LOCKED, l.locked % 256), (F.PORT_LANES_PRECODE, l.precode % 256)]

theorem lanesTold_port (s : State) (q : Nat) (l : Lanes) : (s.lanesTold q l).port q = s.port q := by
  rw [State.lanesTold, setFs_eq]
  rfl

theorem equalise_aligns {l : Lanes} (hq : q < 36) (hst : s.pstate q = 3) (ho : l.orderOk = true)
    (hw : widthOf (l.clean &&& l.locked &&& (if (s.port q).keep = 0 then 0xFF else (s.port q).keep)) ≠ 0) :
    exec (.equalise q l) s = .next (((s.lanesTold q l).modPort q (fun x =>
      { x with clean := (l.clean &&& l.locked &&& (if (s.port q).keep = 0 then 0xFF else (s.port q).keep)) % 256
               width := widthOf (l.clean &&& l.locked &&& (if (s.port q).keep = 0 then 0xFF else (s.port q).keep)) })).setPstate q 4) := by
  change execEqualise q l s = _
  unfold execEqualise
  rw [if_neg (not_not.2 hq), if_neg (not_not.2 hst), if_neg (by simp [ho])]
  have e : (s.setFs q [(F.PORT_LANES_REVERSED, bit l.reversed), (F.PORT_LANES_INVERTED, l.inverted % 256),
    (F.PORT_LANES_LOCKED, l.locked % 256), (F.PORT_LANES_PRECODE, l.precode % 256)]).port q = s.port q := lanesTold_port s q l
  dsimp only
  rw [e, if_neg hw]
  rfl

theorem lanesTold_regs (s : State) (q : Nat) (l : Lanes) : s.RegsBut (s.lanesTold q l)
    [(F.PORT_LANES_REVERSED, q), (F.PORT_LANES_INVERTED, q), (F.PORT_LANES_LOCKED, q), (F.PORT_LANES_PRECODE, q)] := by
  refine regsBut_setFs (s := s) q ?_
  simp only [List.forall_mem_cons]
  exact ⟨by decide, by decide, by decide, by decide, by simp⟩

theorem regsBut_modPort (s : State) (q : Nat) (f : Port → Port) (l : List (Fld × Nat)) : s.RegsBut (s.modPort q f) l := regsBut_refl s l

/-- Both crossings of the port after a calibration. -/
def State.crossed (s : State) (q : Nat) (cin cout : Cal) : State := (s.calibrate q fPortIn cin 8).calibrate q fPortOut cout 8

theorem crossed_eq (s : State) (q : Nat) (cin cout : Cal) : s.crossed q cin cout = { s with regs := (s.crossed q cin cout).regs } := by
  rw [State.crossed, calibrate_eq, calibrate_eq]

theorem crossed_fails {cin cout : Cal} (hi : calOk cin 8 = true) (ho : calOk cout 8 = true) (s : State) (q : Nat) :
    (s.crossed q cin cout).flag F.PORT_XLAT_IN_CALFAIL q = false ∧ (s.crossed q cin cout).flag F.PORT_XLAT_OUT_CALFAIL q = false := by
  unfold State.crossed
  exact ⟨(calibrateOut_keepsIn _ q cout 8).trans (calibrateIn_works hi s q), calibrateOut_works ho _ q⟩

theorem alignDone_versions {cin cout : Cal} (hq : q < 36) (hst : s.pstate q = 4) (hi : calOk cin 8 = true) (ho : calOk cout 8 = true) :
    exec (.alignDone q cin cout) s = .next (((s.crossed q cin cout).modPort q (fun x =>
      { x with got := 0, acked := 0, saidReady := false })).setPstate q 5) := by
  change execAlignDone q cin cout s = _
  unfold execAlignDone
  rw [if_neg (not_not.2 hq), if_neg (not_not.2 hst)]
  exact if_pos ⟨hi, ho⟩

theorem alignDone_fails {cin cout : Cal} (hq : q < 36) (hst : s.pstate q = 4) (hi : calOk cin 8 = false) :
    exec (.alignDone q cin cout) s = .next ((s.crossed q cin cout).goDown q 0x0D) := by
  change execAlignDone q cin cout s = _
  unfold execAlignDone
  rw [if_neg (not_not.2 hq), if_neg (not_not.2 hst)]
  exact if_neg (by simp [hi])

/-! ## The bounds of the stages -/

theorem stageBound_eq (h2 : 2 ≤ s.pstate q) : s.stageBound q =
    if s.pstate q = 2 then 5000 else if s.pstate q = 3 then 170000 else if s.pstate q = 4 then 10000 else s.rtt q + 1000 := by
  unfold State.stageBound
  generalize s.pstate q = n at h2
  match n with
  | 2 | 3 | 4 | _ + 5 => rfl

theorem stageTimeout_within (hq : q < 36) (h : s.now ≤ (s.port q).stageAt + s.stageBound q) :
    exec (.trainingStageTimeout q) s = .next s :=
  (if_neg (not_not.2 hq)).trans (if_pos h)

theorem stageTimeout_fails (hq : q < 36) (h2 : 2 ≤ s.pstate q) (h7 : s.pstate q ≤ 7) (h : (s.port q).stageAt + s.stageBound q < s.now) :
    exec (.trainingStageTimeout q) s = .next (s.failAttempt q (if s.pstate q ≤ 4 then 2 else 0x0C)) := by
  change execTrainingStageTimeout q s = _
  unfold execTrainingStageTimeout
  rw [if_neg (not_not.2 hq)]
  dsimp only
  rw [if_neg (by omega)]
  by_cases h4 : s.pstate q ≤ 4
  · rw [if_pos ⟨h2, h4⟩, if_pos h4]
  · rw [if_neg (fun h => h4 h.2), if_pos ⟨by omega, h7⟩, if_neg h4]

/-! ## Training bodies -/

/-- The numbers of a training frame are kept. -/
def State.heard (s : State) (q seq ack : Nat) : State := s.modPort q (fun x => { x with rseq := seq, rack := ack })

theorem frame_exec {seq ack : Nat} (hq : q < 36) (hs : seq < 2 ^ 24) (ha : ack < 2 ^ 24) :
    exec (.trainingFrame q seq ack b) s = .next (s.takeFrame q seq ack b) :=
  if_neg (not_not.2 ⟨hq, hs, ha⟩)

theorem takeFrame_def (s : State) (q seq ack : Nat) (b : List Byte) : s.takeFrame q seq ack b =
    if s.pstate q = 8 ∨ s.pstate q = 9 then
      if tbBad b then (s.heard q seq ack).addF F.PORT_TRAIN_BAD_FRAMES q 1 else (s.heard q seq ack).train q 0
    else if 5 ≤ s.pstate q ∧ s.pstate q ≤ 7 then (s.heard q seq ack).takeBody q b
    else s.heard q seq ack := rfl

theorem takeFrame_bad {seq ack : Nat} (h5 : 5 ≤ s.pstate q) (h9 : s.pstate q ≤ 9) (hb : tbBad b = true) :
    s.takeFrame q seq ack b = (s.heard q seq ack).addF F.PORT_TRAIN_BAD_FRAMES q 1 := by
  rw [takeFrame_def]
  by_cases h : s.pstate q = 8 ∨ s.pstate q = 9
  · rw [if_pos h, if_pos hb]
  · rw [if_neg h, if_pos (by omega), State.takeBody, if_pos hb]

theorem nextStage_version (h : s.pstate q = 5) : s.nextStage q = (s.modPort q Port.fresh).setPstate q 6 := by
  rw [State.nextStage, h]
  rfl

/-- The state with the partner's VERSION body. -/
def State.versioned (s : State) (q : Nat) (b : List Byte) : State :=
  (s.setFs q [(F.PORT_STATUS_VMAJOR, 1), (F.PORT_STATUS_VMINOR, 0)]).modPort q (fun x =>
    { x with got := 1, pclean := tbClean b, width := widthOf ((s.port q).clean &&& tbClean b) })

theorem gotVersion_agrees (hm : bitAt (tbMask b) 1 = true) (hw : widthOf ((s.port q).clean &&& tbClean b) ≠ 0) :
    s.gotVersion q b = s.versioned q b :=
  (if_neg (by simp [hm])).trans (if_neg hw)

theorem getF_versioned_state (s : State) (q : Nat) (b : List Byte) : (s.versioned q b).pstate q = s.pstate q := by
  rw [State.pstate, State.versioned, getF_modPort, getF_setFs_apart _ q (by
    simp only [List.forall_mem_cons]
    exact ⟨by decide, by decide, by simp⟩) (by
    simp only [List.forall_mem_cons]
    exact ⟨.inr (by decide), .inr (by decide), by simp⟩), State.pstate]

theorem versioned_version (s : State) (q : Nat) (b : List Byte) :
    (s.versioned q b).getF F.PORT_STATUS_VMAJOR q = 1 ∧ (s.versioned q b).getF F.PORT_STATUS_VMINOR q = 0 := by
  unfold State.versioned
  rw [getF_modPort, getF_modPort, setFs_cons, setFs_cons, setFs_nil, getF_setF_apart _ (by decide) (.inr (by decide)),
    getF_setF_same _ (by decide), getF_setF_same _ (by decide)]
  exact ⟨rfl, rfl⟩

theorem versioned_port (s : State) (q : Nat) (b : List Byte) : ((s.versioned q b).port q).got = 1 ∧
    ((s.versioned q b).port q).width = widthOf ((s.port q).clean &&& tbClean b) := by
  rw [State.versioned, modPort_port_same]
  exact ⟨rfl, rfl⟩

/-- A body of the stage at hand acts by its stage. -/
def State.bodyDoes (s : State) (q : Nat) (b : List Byte) : Nat → State
  | 1 => s.gotVersion q b
  | 2 => s.gotConfig q b
  | _ => (s.modPort q (fun x => { x with got := 3 })).goUp q

/-- What a good body does once the stage is known. -/
def State.bodyAt (s : State) (q : Nat) (b : List Byte) (st : Nat) : State :=
  if tbStage b ≠ st ∨ ¬ (5 ≤ s.pstate q ∧ s.pstate q ≤ 7) then s
  else if (s.bodyDoes q b st).pstate q - 4 ≠ st ∨ st = 3 then s.bodyDoes q b st
  else if tbAck b ∧ ((s.bodyDoes q b st).port q).got = st then (s.bodyDoes q b st).nextStage q
  else s.bodyDoes q b st

/-- The stage moves on first where the body tells that the partner has this side's. -/
def State.bodyFirst (s : State) (q : Nat) (b : List Byte) : State :=
  if s.pstate q < 7 ∧ tbStage b = s.pstate q - 3 ∧ (s.port q).got = s.pstate q - 4 then s.nextStage q else s

theorem takeBody_good (hb : tbBad b = false) : s.takeBody q b = (s.bodyFirst q b).bodyAt q b ((s.bodyFirst q b).pstate q - 4) := by
  unfold State.takeBody
  rw [if_neg (by simp [hb])]
  rfl

/-- A good VERSION body in the VERSION stage. -/
theorem takeBody_version (hst : s.pstate q = 5) (hb : tbBad b = false) (h1 : tbStage b = 1) (hm : bitAt (tbMask b) 1 = true)
    (hw : widthOf ((s.port q).clean &&& tbClean b) ≠ 0) :
    s.takeBody q b = if tbAck b then (s.versioned q b).nextStage q else s.versioned q b := by
  have hf : s.bodyFirst q b = s := if_neg (by simp [hst, h1])
  have hd : s.bodyDoes q b 1 = s.versioned q b := gotVersion_agrees hm hw
  rw [takeBody_good hb, hf, hst, State.bodyAt, if_neg (by simp [hst, h1]), hd, getF_versioned_state, hst, if_neg (by simp),
    (versioned_port s q b).1]
  simp

theorem takeBody_version_spec (hst : s.pstate q = 5) (hb : tbBad b = false) (h1 : tbStage b = 1) (hm : bitAt (tbMask b) 1 = true)
    (hw : widthOf ((s.port q).clean &&& tbClean b) ≠ 0) :
    (s.takeBody q b).pstate q = (if tbAck b then 6 else 5) ∧
      ((s.takeBody q b).port q).width = widthOf ((s.port q).clean &&& tbClean b) ∧
      (s.takeBody q b).getF F.PORT_STATUS_VMAJOR q = 1 ∧ (s.takeBody q b).getF F.PORT_STATUS_VMINOR q = 0 := by
  have hv : (s.versioned q b).pstate q = 5 := (getF_versioned_state s q b).trans hst
  obtain ⟨hg, hp⟩ := versioned_port s q b
  obtain ⟨v1, v2⟩ := versioned_version s q b
  rw [takeBody_version hst hb h1 hm hw]
  cases tbAck b with
  | false => exact ⟨hv, hp, v1, v2⟩
  | true =>
    rw [if_pos rfl, if_pos rfl, nextStage_version hv]
    refine ⟨setPstate_pstate _ q (by decide), ?_, ?_, ?_⟩
    · rw [setPstate_port, ← hp, State.restaged, modPort_port_same]
      rfl
    · rw [getF_setPstate (by decide) (.inr (by decide)), getF_modPort, v1]
    · rw [getF_setPstate (by decide) (.inr (by decide)), getF_modPort, v2]

theorem relock_exec (hq : q < 36) (hst : s.pstate q = 12) (ok : Bool) : exec (.relock q ok) s = .next (if ok then
    ((s.modPort q Port.fresh).setF F.PORT_LANES_LOCKED q (s.port q).width).setPstate q 6 else (s.addF F.PORT_TRAIN_TRAINS q 1).detect q 0) := by
  refine (if_neg (not_not.2 hq)).trans ((if_neg (not_not.2 hst)).trans ?_)
  cases ok <;> rfl

/-- Settles O45, clause by clause over the commands. -/
theorem portsTrain : Obligations.PortsTrain := by
  unfold Obligations.PortsTrain
  refine ⟨?_, ?_, ?_, ?_, ?_, ?_, ?_, ?_, ?_, ?_, ?_, ?_, ?_, ?_⟩
  · intro s q v hq hv hl hst hg
    exact retrain_trains hq hv hl ⟨hst, hg⟩
  · intro s q v hq hv hl hst hg
    exact ⟨_, retrain_asks hq hv, portAsk_waits (k := 0) (portDoes_retrain ⟨hst, hg⟩) hl⟩
  · intro s q v hq hv hl hoff hst hg
    refine ⟨_, retrain_trains hq hv hl ⟨.inr (.inl hst), hg⟩, ?_, ?_⟩
    · rw [State.pstate, getF_takeLocks (by decide)]
      exact train_pstate hoff q _
    · rw [getF_takeLocks (by decide), train_cause hoff q (by decide) (by decide)]
  · intro s q silence hq hst hoff hg
    have hoff' : (s.modPort q (fun x => { x with gone := false })).portsOff = false := (portsOff_modPort ..).trans hoff
    refine ⟨_, signal_trains hq hst ?_, train_pstate hoff' q 0, ?_, ?_, ?_⟩
    · rintro ⟨h1, h2⟩
      rcases hg with h | h
      · simp [h] at h1
      · omega
    · rw [(train_port hoff' q 0).1, modPort_port_same]
    · rw [train_trains hoff', getF_modPort]
    · rw [train_eq hoff']
      rfl
  · intro s q silence hq hst hg hsil
    change execPartnerSignal q silence true s = _
    unfold execPartnerSignal
    rw [if_neg (not_not.2 hq), if_neg (by simp), hst]
    exact if_pos ⟨hg, hsil⟩
  · intro s q silence hq hst
    exact ⟨_, signal_ends hq hst, setPstate_pstate s q (by decide), setPstate_port_inside (by omega), setPstate_keepsRest (by decide) s q,
      regsBut_setPstate (by decide) s q⟩
  · intro s q l hq hst ho w hw
    refine ⟨_, equalise_aligns hq hst ho hw, setPstate_pstate _ q (by decide), ?_, ?_⟩
    · rw [setPstate_port, State.restaged, modPort_port_same]
    · refine regsBut_mono (regsBut_trans (lanesTold_regs s q l) (regsBut_trans (regsBut_modPort _ q _ []) (regsBut_setPstate (by decide) _ q))) ?_
      simp
  · intro s q cin cout hq hst hi ho
    obtain ⟨f1, f2⟩ := crossed_fails hi ho s q
    refine ⟨_, alignDone_versions hq hst hi ho, setPstate_pstate _ q (by decide), ?_, ?_, ?_⟩
    · rw [State.flag, getF_setPstate (by decide) (.inl (by decide)), getF_modPort]
      exact f1
    · rw [State.flag, getF_setPstate (by decide) (.inl (by decide)), getF_modPort]
      exact f2
    · rw [setPstate_port, State.restaged, modPort_port_same]
      exact ⟨rfl, rfl⟩
  · intro s q cin cout hq hst hi
    exact ⟨_, alignDone_fails hq hst hi, goDown_pstate (by decide) _ q, goDown_cause (by decide) (by decide) _ q⟩
  · intro s q hq h2 h7 st bound
    have hb : s.stageBound q = bound := stageBound_eq h2
    refine ⟨fun h => stageTimeout_within hq (hb ▸ h), fun h => ?_⟩
    have e := stageTimeout_fails hq h2 h7 (hb ▸ h)
    exact ⟨e, _, e, failAttempt_pstate (by split <;> decide) s q⟩
  · intro s q seq ack b hq hs ha h5 h9 hb
    refine ⟨_, (frame_exec hq hs ha).trans (congrArg _ (takeFrame_bad h5 h9 hb)), rfl, ?_, ?_, ?_⟩
    · exact (show ∀ u : State, (u.addF F.PORT_TRAIN_BAD_FRAMES q 1).port q = u.port q from fun _ => rfl) _ |>.trans
        (modPort_port_same s q (fun x => { x with rseq := seq, rack := ack }))
    · exact regsBut_trans (regsBut_modPort s q _ []) (regsBut_setF (s.heard q seq ack) (by decide))
    · rw [getF_addF_same (by decide), State.heard, getF_modPort]
  · intro s q seq ack b hq hs ha hst hoff hb
    have hoff' : (s.heard q seq ack).portsOff = false := hoff
    have e : s.takeFrame q seq ack b = (s.heard q seq ack).train q 0 := by rw [takeFrame_def, if_pos hst, if_neg (by simp [hb])]
    refine ⟨_, (frame_exec hq hs ha).trans (congrArg _ e), train_pstate hoff' q 0, ?_, ?_⟩
    · rw [(train_port hoff' q 0).2.1, State.heard, modPort_port_same]
    · rw [(train_port hoff' q 0).2.2, State.heard, modPort_port_same]
  · intro s q seq ack b hq hs ha hst hb h1 hm hw
    have e : s.takeFrame q seq ack b = (s.heard q seq ack).takeBody q b := by
      rw [takeFrame_def, if_neg (by omega), if_pos (by omega)]
    have hc : ((s.heard q seq ack).port q).clean = (s.port q).clean := by rw [State.heard, modPort_port_same]
    have hst' : (s.heard q seq ack).pstate q = 5 := hst
    refine ⟨_, (frame_exec hq hs ha).trans (congrArg _ e), ?_⟩
    rw [← hc]
    exact takeBody_version_spec hst' hb h1 hm (hc ▸ hw)
  · intro s q ok hq hst
    refine ⟨_, relock_exec hq hst ok, ?_⟩
    cases ok with
    | false => exact detect_pstate _ q 0
    | true => exact setPstate_pstate _ q (by decide)

end Sys2Proof.Machine
end

section
/-! SUPPORT. Ports that narrow to half their lanes, and ports that sleep and wake. -/

namespace Sys2Proof.Machine

variable {s t : State} {q lost : Nat} {v : Word64} {hits : Tbl Nat} {g : Fld}

/-! ## Failed lanes -/

/-- The lanes of a list marked in a mask. -/
def markLanes (bad : List Nat) (a : Nat) : Nat := bad.foldl (fun a l => setBits a l 1 1) a

theorem bitAt_markLanes (bad : List Nat) (a l : Nat) : bitAt (markLanes bad a) l = true ↔ l ∈ bad ∨ bitAt a l = true := by
  induction bad generalizing a with
  | nil => simp [markLanes]
  | cons b bad ih =>
    refine (ih (setBits a b 1 1)).trans ?_
    by_cases h : l = b
    · subst h
      simp [bitAt_setBits_same]
    · rw [bitAt_setBits_ne h]
      simp [h]

theorem markLanes_lt {bad : List Nat} (h : ∀ l ∈ bad, l < 8) {a : Nat} (ha : a < 2 ^ 8) : markLanes bad a < 2 ^ 8 := by
  induction bad generalizing a with
  | nil => exact ha
  | cons b bad ih =>
    obtain ⟨hb, hr⟩ := List.forall_mem_cons.1 h
    exact ih hr (setBits_lt_pow ha (by omega))

theorem mem_failed_iff (bad : List Nat) (l : Nat) : (markLanes bad 0).testBit l = true ↔ l ∈ bad := by
  rw [← bitAt_eq_testBit, bitAt_markLanes]
  simp [bitAt]

theorem markLanes_high_iff (bad : List Nat) : markLanes bad 0 % 16 = 0 ↔ ∀ l ∈ bad, 4 ≤ l := by
  constructor
  · intro h l hl
    by_contra h4
    have ht : (markLanes bad 0 % 2 ^ 4).testBit l = true := by
      rw [Nat.testBit_mod_two_pow, (mem_failed_iff bad l).2 hl]
      simpa using h4
    rw [show (2 : Nat) ^ 4 = 16 from rfl, h, Nat.zero_testBit] at ht
    exact Bool.false_ne_true ht
  · intro h
    refine Nat.eq_of_testBit_eq fun i => ?_
    rw [show (16 : Nat) = 2 ^ 4 from rfl, Nat.testBit_mod_two_pow, Nat.zero_testBit, Bool.and_eq_false_iff]
    by_cases hi : i < 4
    · exact .inr (Bool.eq_false_iff.2 fun ht => absurd (h i ((mem_failed_iff bad i).1 ht)) (by omega))
    · exact .inl (by simpa using hi)

theorem markLanes_low_iff (bad : List Nat) : markLanes bad 0 / 16 = 0 ↔ ∀ l ∈ bad, l < 4 := by
  constructor
  · intro h l hl
    by_contra h4
    have ht : (markLanes bad 0 / 2 ^ 4).testBit (l - 4) = true := by
      rw [Nat.testBit_div_two_pow, show l - 4 + 4 = l by omega]
      exact (mem_failed_iff bad l).2 hl
    rw [show (2 : Nat) ^ 4 = 16 from rfl, h, Nat.zero_testBit] at ht
    exact Bool.false_ne_true ht
  · intro h
    refine Nat.eq_of_testBit_eq fun i => ?_
    rw [show (16 : Nat) = 2 ^ 4 from rfl, Nat.testBit_div_two_pow, Nat.zero_testBit]
    exact Bool.eq_false_iff.2 fun ht => absurd (h _ ((mem_failed_iff bad _).1 ht)) (by omega)

/-- The failed lanes of a width. -/
def failedLanes (w lost : Nat) (hits : Tbl Nat) : List Nat := (lanesOf w).filter (laneFails w lost hits)

theorem failedLanes_lt {w : Nat} : ∀ l ∈ failedLanes w lost hits, l < 8 := by
  intro l hl
  have h := (List.mem_filter.1 (List.mem_filter.1 hl).1).1
  simpa using h

/-- The failed lanes of a port are shown. -/
def State.lanesLost (s : State) (q lost : Nat) (bad : List Nat) : State :=
  s.setFs q [(F.PORT_LANES_FAILED, markLanes bad (s.getF F.PORT_LANES_FAILED q)),
    (F.PORT_LANES_LOCKED, (onesOf lost 8).foldl (fun a l => setBits a l 1 0) (s.getF F.PORT_LANES_LOCKED q))]

theorem getF_lanesLost (h : g.reg ≠ .PORT_LANES) (bad : List Nat) (j : Nat) : (s.lanesLost q lost bad).getF g j = s.getF g j := by
  refine getF_setFs_ne _ ?_
  simp only [List.forall_mem_cons]
  exact ⟨.inl h, .inl h, by simp⟩

theorem lanesLost_eq (s : State) (q lost : Nat) (bad : List Nat) : s.lanesLost q lost bad = { s with regs := (s.lanesLost q lost bad).regs } :=
  setFs_eq s q _

theorem lanesLost_failed {bad : List Nat} (h : ∀ l ∈ bad, l < 8) (h0 : s.getF F.PORT_LANES_FAILED q = 0) :
    (s.lanesLost q lost bad).getF F.PORT_LANES_FAILED q = markLanes bad 0 := by
  rw [State.lanesLost, h0, setFs_cons, setFs_cons, setFs_nil, getF_setF_apart _ (by decide) (.inr (by decide)), getF_setF_same _ (by decide)]
  exact Nat.mod_eq_of_lt (markLanes_lt h (by decide))

theorem laneFail_none (hq : q < 36) (h : failedLanes (s.port q).width lost hits = []) : exec (.laneFail q lost hits) s = .next s := by
  change execLaneFail q lost hits s = _
  unfold execLaneFail
  rw [if_neg (not_not.2 hq)]
  split
  · rfl
  · exact if_pos h

theorem laneFail_acts (hq : q < 36) (hst : s.pstate q = 8) (h : failedLanes (s.port q).width lost hits ≠ []) :
    exec (.laneFail q lost hits) s =
      (let bad := failedLanes (s.port q).width lost hits
       let f := markLanes bad (s.getF F.PORT_LANES_FAILED q)
       let u := s.lanesLost q lost bad
       if u.pstate q = 8 ∧ (s.port q).width = 0xFF ∧ f % 16 = 0 then .next (u.degrade q true true)
       else if u.pstate q = 8 ∧ (s.port q).width = 0xFF ∧ f / 16 = 0 then .next (u.degrade q false true)
       else .next (u.train q (if (lanesOf (s.port q).width).all (bitAt lost) then 1 else 0x0E))) := by
  change execLaneFail q lost hits s = _
  unfold execLaneFail
  rw [if_neg (not_not.2 hq), if_neg (fun h => h.1 hst)]
  exact if_neg h

/-! ## A narrowed port -/

/-- A port that narrows, before its fields follow. -/
def State.narrowing (s : State) (q : Nat) : State := ((s.setPstate q 10).addF F.PORT_TRAIN_DEGRADES q 1).setF F.PORT_STATUS_WIDTH q 0

theorem degrade_def (s : State) (q : Nat) (high tell : Bool) : s.degrade q high tell =
    ((s.narrowing q).modPort q (fun x => { x with width := if high then 0x0F else 0xF0, half := tell, high := high })).varyPort 6 q := rfl

theorem varyPort_port (s : State) (cause q j : Nat) : (s.varyPort cause q).port j = s.port j := by
  rw [varyPort_eq]
  rfl

theorem degrade_port (s : State) (q : Nat) (high tell : Bool) : ((s.degrade q high tell).port q).half = tell ∧
    ((s.degrade q high tell).port q).width = if high then 0x0F else 0xF0 := by
  rw [degrade_def, varyPort_port, modPort_port_same]
  exact ⟨rfl, rfl⟩

theorem getF_degrade (h1 : g.reg ≠ .CTL_VAR) (h2 : g.reg ≠ .CTL_VARC) (h3 : g.reg ≠ .CTL_VARP) (q : Nat) (high tell : Bool) (j : Nat) :
    (s.degrade q high tell).getF g j = (s.narrowing q).getF g j := by
  rw [degrade_def, getF_varyPort h1 h2 h3, getF_modPort]

theorem degrade_pstate (s : State) (q : Nat) (high tell : Bool) : (s.degrade q high tell).pstate q = 10 := by
  rw [State.pstate, getF_degrade (by decide) (by decide) (by decide), State.narrowing, getF_setF_apart _ (by decide) (.inr (by decide)),
    getF_addF_apart _ (by decide) (.inl (by decide))]
  exact setPstate_pstate s q (by decide)

theorem degrade_count (s : State) (q : Nat) (high tell : Bool) : (s.degrade q high tell).getF F.PORT_TRAIN_DEGRADES q =
    satAdd F.PORT_TRAIN_DEGRADES.w (s.getF F.PORT_TRAIN_DEGRADES q) 1 := by
  rw [getF_degrade (by decide) (by decide) (by decide), State.narrowing, getF_setF_apart _ (by decide) (.inl (by decide)),
    getF_addF_same (by decide), getF_setPstate (by decide) (.inl (by decide))]

theorem degrade_failed (s : State) (q : Nat) (high tell : Bool) :
    (s.degrade q high tell).getF F.PORT_LANES_FAILED q = s.getF F.PORT_LANES_FAILED q := by
  rw [getF_degrade (by decide) (by decide) (by decide), State.narrowing, getF_setF_apart _ (by decide) (.inl (by decide)),
    getF_addF_apart _ (by decide) (.inl (by decide)), getF_setPstate (by decide) (.inl (by decide))]

/-- Failed lanes of one half of an 8-lane port narrow it to the other half. -/
theorem laneFail_narrows (hq : q < 36) (hst : s.pstate q = 8) (hw : (s.port q).width = 0xFF) (h0 : s.getF F.PORT_LANES_FAILED q = 0)
    (hb : failedLanes 0xFF lost hits ≠ []) (hh : (∀ l ∈ failedLanes 0xFF lost hits, l < 4) ∨ ∀ l ∈ failedLanes 0xFF lost hits, 4 ≤ l) :
    exec (.laneFail q lost hits) s = .next ((s.lanesLost q lost (failedLanes 0xFF lost hits)).degrade q
      (decide (∀ l ∈ failedLanes 0xFF lost hits, 4 ≤ l)) true) := by
  have hs : (s.lanesLost q lost (failedLanes 0xFF lost hits)).pstate q = 8 := (getF_lanesLost (by decide) _ q).trans hst
  rw [laneFail_acts hq hst (by rw [hw]; exact hb), hw, h0]
  dsimp only
  by_cases h4 : ∀ l ∈ failedLanes 0xFF lost hits, 4 ≤ l
  · rw [if_pos ⟨hs, rfl, (markLanes_high_iff _).2 h4⟩, decide_eq_true h4]
  · rw [if_neg (fun h => h4 ((markLanes_high_iff _).1 h.2.2)), if_pos ⟨hs, rfl, (markLanes_low_iff _).2 (hh.resolve_right h4)⟩,
      decide_eq_false h4]

theorem portsOff_lanesLost (s : State) (q lost : Nat) (bad : List Nat) : (s.lanesLost q lost bad).portsOff = s.portsOff := by
  unfold State.portsOff State.flag
  rw [getF_lanesLost (by decide), getF_lanesLost (by decide)]

theorem laneFail_trains (hq : q < 36) (hst : s.pstate q = 8) (hw : (s.port q).width ≠ 0xFF)
    (hb : failedLanes (s.port q).width lost hits ≠ []) :
    exec (.laneFail q lost hits) s = .next ((s.lanesLost q lost (failedLanes (s.port q).width lost hits)).train q
      (if (lanesOf (s.port q).width).all (bitAt lost) then 1 else 0x0E)) := by
  rw [laneFail_acts hq hst hb]
  dsimp only
  rw [if_neg (fun h => hw h.2.1), if_neg (fun h => hw h.2.1)]

/-! ## The realignment -/

/-- The port realigned, before its fields follow. -/
def State.rewidened (s : State) (q : Nat) : State := (s.setPstate q 8).setF F.PORT_STATUS_WIDTH q (s.port q).width

/-- A realigned port before its replay. -/
def State.realigned (s : State) (q : Nat) : State :=
  (s.rewidened q).setPort q { s.port q with half := false, bsfIn := (s.rewidened q).now }

theorem realign_exec (hq : q < 36) (hst : s.pstate q = 10) : exec (.degradeRealign q) s = .next ((s.realigned q).resumeReplay q) := by
  change execDegradeRealign q s = _
  unfold execDegradeRealign
  rw [if_neg (not_not.2 hq), if_neg (not_not.2 hst)]
  rfl

theorem rewidened_now (s : State) (q : Nat) : (s.rewidened q).now = s.now := by
  unfold State.now
  rw [State.rewidened, getF_setF_apart _ (by decide) (.inl (by decide)), getF_setPstate (by decide) (.inl (by decide))]

theorem realigned_port (s : State) (q : Nat) : (s.realigned q).port q = { s.port q with half := false, bsfIn := s.now } := by
  rw [State.realigned, State.setPort_port_same, rewidened_now]

/-- What resuming leaves of a port and around it. -/
theorem resumeReplay_frame (s : State) (q : Nat) :
    s.resumeReplay q = { s with regs := (s.resumeReplay q).regs, ports := (s.resumeReplay q).ports, parts := (s.resumeReplay q).parts } := by
  unfold State.resumeReplay
  dsimp only
  split
  · rfl
  · split
    · rw [varyPort_eq]
      rfl
    · rfl

/-- A port that goes on from flit `f`. -/
def State.resumed (s : State) (q : Nat) (f : TxFlit) : State :=
  (s.addF F.VCB_REPLAY_REPLAYS q 1).setPort q
    { s.port q with replay := some f.seq, mark := s.getF F.VCB_TXSEQ_NEXT_SEND q, replayAt := s.now, replaySeq := f.seq }

theorem resumeReplay_empty (h : (s.port q).store = []) : s.resumeReplay q = s := by
  unfold State.resumeReplay
  dsimp only
  rw [h]

theorem resumeReplay_cons {f : TxFlit} {l : List TxFlit} (h : (s.port q).store = f :: l) : s.resumeReplay q =
    if (f :: l).any (fun f => decide (f.vc ≤ 2)) then (s.resumed q f).varyPort 8 q else s.resumed q f := by
  unfold State.resumeReplay
  dsimp only
  rw [h]
  simp only [State.resumed, h]

theorem resumeReplay_port (s : State) (q : Nat) : ((s.resumeReplay q).port q).half = (s.port q).half ∧
    ((s.resumeReplay q).port q).bsfIn = (s.port q).bsfIn ∧ ((s.resumeReplay q).port q).store = (s.port q).store ∧
    ∀ f l, (s.port q).store = f :: l → ((s.resumeReplay q).port q).replay = some f.seq := by
  cases h : (s.port q).store with
  | nil =>
    rw [resumeReplay_empty h]
    exact ⟨rfl, rfl, h, fun f l e => by simp at e⟩
  | cons f l =>
    have e : (s.resumeReplay q).port q = (s.resumed q f).port q := by
      rw [resumeReplay_cons h]
      split
      · exact varyPort_port _ 8 q q
      · rfl
    rw [e, State.resumed, State.setPort_port_same]
    exact ⟨rfl, rfl, h, fun f' l' e => by rw [(List.cons.inj e).1]⟩

theorem getF_resumeReplay (h : g.reg = .PORT_STATUS) (s : State) (q j : Nat) : (s.resumeReplay q).getF g j = s.getF g j := by
  unfold State.resumeReplay
  dsimp only
  split
  · rfl
  · split
    · rw [getF_varyPort (by simp [h]) (by simp [h]) (by simp [h])]
      exact getF_addF_apart s (by decide) (.inl (by simp [h, F.VCB_REPLAY_REPLAYS]))
    · exact getF_addF_apart s (by decide) (.inl (by simp [h, F.VCB_REPLAY_REPLAYS]))

theorem realigned_pstate (s : State) (q : Nat) : (s.realigned q).pstate q = 8 := by
  have e : ∀ (u : State) (x : Port), (u.setPort q x).pstate q = u.pstate q := fun _ _ => rfl
  rw [State.realigned, e, State.pstate, State.rewidened, getF_setF_apart _ (by decide) (.inr (by decide))]
  exact setPstate_pstate s q (by decide)

theorem realigned_width (h : (s.port q).width < 256) : (s.realigned q).getF F.PORT_STATUS_WIDTH q = (s.port q).width := by
  have e : ∀ (u : State) (x : Port), (u.setPort q x).getF F.PORT_STATUS_WIDTH q = u.getF F.PORT_STATUS_WIDTH q := fun _ _ => rfl
  rw [State.realigned, e, State.rewidened, getF_setF_same _ (by decide)]
  exact Nat.mod_eq_of_lt h

theorem realigned_mem (s : State) (q : Nat) : (s.realigned q).mem = s.mem := by
  rw [State.realigned, State.rewidened, setPstate_eq]
  rfl

/-! ## SLEEP and OFF -/

theorem portDoes_up {k : Nat} (hk : k ≠ 0) (hst : s.pstate q = 8) (ha : (s.port q).ask = 0) : s.portDoes q k = true := by
  unfold State.portDoes
  simp [hk, hst, ha]

theorem sleep_asks (hq : q < 36) (hv : v.toNat % 16 = 4) : exec (.sleep q v) s = .next (s.portAsk q 2) :=
  (if_neg (not_not.2 hq)).trans (if_pos (by simp [ctrlIs, hv]))

theorem off_asks (hq : q < 36) (hv : v.toNat % 16 = 8) : exec (.off q v) s = .next (s.portAsk q 3) :=
  (if_neg (not_not.2 hq)).trans (if_pos (by simp [ctrlIs, hv]))

theorem portAsk_up {k : Nat} (hk : k ≠ 0) (hl : s.mayLock 6 (q + 64 * k) = true) (hst : s.pstate q = 8) (ha : (s.port q).ask = 0) :
    s.portAsk q k = (s.modPort q (fun x => { x with ask := if k = 2 then 1 else 2, asked := false })).takeLocks 6 [q] := by
  rw [State.portAsk, if_neg (by simp [hl])]
  unfold State.portWork
  rw [if_neg hk]
  exact if_pos ⟨hst, ha⟩

theorem portAsk_asleep (hl : s.mayLock 6 (q + 64 * 3) = true) (hst : s.pstate q = 11) : s.portAsk q 3 = s.setPstate q 13 := by
  rw [State.portAsk, if_neg (by simp [hl])]
  unfold State.portWork
  rw [if_neg (by decide), hst]
  exact (if_neg (by simp)).trans (if_pos ⟨rfl, rfl⟩)

theorem setPstate_mem (s : State) (q st : Nat) : (s.setPstate q st).mem = s.mem := by rw [setPstate_eq]

theorem dropLocks_port (s : State) (code : Nat) (rs : List Nat) (q : Nat) : (s.dropLocks code rs).port q = s.port q := rfl

theorem setF_port (s : State) (f : Fld) (i v q : Nat) : (s.setF f i v).port q = s.port q := rfl

/-! ## Waking -/

theorem pstate_stir (s : State) (q : Nat) : s.stir.pstate q = s.pstate q := by
  rw [stir_eq]
  rfl

theorem wakePort_spec (s : State) (q : Nat) : (s.wakePort q).pstate q = 12 ∧ ((s.wakePort q).port q).wake = true ∧
    (s.wakePort q).waking = (s.waking || s.asleep) ∧ (s.wakePort q).mem = s.mem := by
  unfold State.wakePort
  refine ⟨setPstate_pstate s.stir q (by decide), ?_, ?_, ?_⟩
  · rw [modPort_port_same]
  · rw [setPstate_eq, stir_eq]
    rfl
  · rw [setPstate_eq, stir_eq]
    rfl

theorem wake_asleep (hq : q < 36) (hv : v.toNat % 16 = 2) (hst : s.pstate q = 11) : exec (.wake q v) s = .next (s.wakePort q) := by
  change execWake q v s = _
  unfold execWake
  rw [if_neg (not_not.2 hq), if_neg (by simp [ctrlIs, hv]), hst]
  rfl

theorem wake_off (hq : q < 36) (hv : v.toNat % 16 = 2) (hst : s.pstate q = 13) : exec (.wake q v) s = .next (s.train q 0) := by
  change execWake q v s = _
  unfold execWake
  rw [if_neg (not_not.2 hq), if_neg (by simp [ctrlIs, hv]), hst]
  rfl

theorem wake_up (hq : q < 36) (hv : v.toNat % 16 = 2) (hst : s.pstate q = 8) : exec (.wake q v) s =
    .next ((s.modPort q (fun x => { x with ask := 0, asked := false, grant := false, refuse := false })).dropLocks 6 [q]) := by
  change execWake q v s = _
  unfold execWake
  rw [if_neg (not_not.2 hq), if_neg (by simp [ctrlIs, hv]), hst]
  rfl

theorem partnerWake_asleep (hq : q < 36) (hst : s.pstate q = 11) : exec (.partnerWake q) s = .next (s.wakePort q) := by
  change execPartnerWake q s = _
  unfold execPartnerWake
  rw [if_neg (not_not.2 hq), hst]
  rfl

theorem partnerWake_off (hq : q < 36) (hst : s.pstate q = 13) : exec (.partnerWake q) s = .next (s.train q 0) := by
  change execPartnerWake q s = _
  unfold execPartnerWake
  rw [if_neg (not_not.2 hq), hst]
  rfl

theorem train_mem (h : s.portsOff = false) (cause : Nat) : (s.train q cause).mem = s.mem := by rw [train_eq h]

/-- Settles O46, clause by clause over the commands. -/
theorem portsNarrowAndSleep : Obligations.PortsNarrowAndSleep := by
  unfold Obligations.PortsNarrowAndSleep
  refine ⟨?_, ?_, ?_, ?_, ?_, ?_, ?_, ?_, ?_, ?_, ?_, ?_, ?_, ?_, ?_⟩
  · intro s q lost hits hq hst hw h0 bad hb hh
    obtain ⟨p1, p2⟩ := degrade_port (s.lanesLost q lost bad) q (decide (∀ l ∈ bad, 4 ≤ l)) true
    refine ⟨_, laneFail_narrows hq hst hw h0 hb hh, degrade_pstate _ q _ _, p1, p2.trans ?_, ?_, ?_⟩
    · simp only [decide_eq_true_eq]
    · intro l _
      rw [degrade_failed]
      change bitAt ((s.lanesLost q lost bad).getF F.PORT_LANES_FAILED q) l = true ↔ _
      rw [lanesLost_failed (bad := bad) failedLanes_lt h0, bitAt_eq_testBit, mem_failed_iff]
    · rw [degrade_count, getF_lanesLost (by decide)]
  · intro s q lost hits hq hst hoff hw hb
    refine ⟨_, laneFail_trains hq hst hw hb, train_pstate ((portsOff_lanesLost ..).trans hoff) q _, ?_⟩
    exact train_cause ((portsOff_lanesLost ..).trans hoff) q (by split <;> decide) (by split <;> decide)
  · intro s q lost hits hq hb
    exact laneFail_none hq hb
  · intro s q hq hst hw
    obtain ⟨p1, p2, p3, p4⟩ := resumeReplay_port (s.realigned q) q
    rw [realigned_port] at p1 p2 p3 p4
    refine ⟨_, realign_exec hq hst, (getF_resumeReplay rfl _ q q).trans (realigned_pstate s q), ?_, p1, p2, p3, p4, ?_⟩
    · rw [getF_resumeReplay rfl, realigned_width hw]
    · rw [resumeReplay_frame]
      exact realigned_mem s q
  · intro s q v hq hv hl hst ha
    exact (sleep_asks hq hv).trans (congrArg _ (portAsk_up (k := 2) (by decide) hl hst ha))
  · intro s q v hq hv hl hst ha
    exact (off_asks hq hv).trans (congrArg _ (portAsk_up (k := 3) (by decide) hl hst ha))
  · intro s q v hq hv hl hst
    exact ⟨_, (off_asks hq hv).trans (congrArg _ (portAsk_asleep hl hst)), setPstate_pstate s q (by decide), setPstate_mem s q 13⟩
  · intro s q v k i hq hi hv hst ha hl
    rcases hi with ⟨rfl, rfl⟩ | ⟨rfl, rfl⟩
    · exact ⟨_, sleep_asks hq hv, portAsk_waits (portDoes_up (by decide) hst ha) hl⟩
    · exact ⟨_, off_asks hq hv, portAsk_waits (portDoes_up (by decide) hst ha) hl⟩
  · intro s q silence hq hst
    refine ⟨_, (if_neg (not_not.2 hq)).trans ((if_pos (by simp)).trans (congrArg _ (if_pos hst))), setPstate_pstate s q (by decide),
      setPstate_mem s q 13⟩
  · intro s q v hq hv hst
    obtain ⟨w1, w2, w3, w4⟩ := wakePort_spec s q
    exact ⟨_, wake_asleep hq hv hst, w1, w2, w3, w4⟩
  · intro s q v hq hv hst hoff
    exact ⟨_, wake_off hq hv hst, train_pstate hoff q 0, train_mem hoff 0⟩
  · intro s q v hq hv hst
    refine ⟨_, wake_up hq hv hst, ?_, ?_, ?_, rfl⟩
    · rw [State.pstate, getF_dropLocks (by decide)]
      exact hst
    · rw [dropLocks_port, modPort_port_same]
    · rw [dropLocks_port, modPort_port_same]
  · intro s q hq hst
    obtain ⟨w1, _, _, w4⟩ := wakePort_spec s q
    exact ⟨_, partnerWake_asleep hq hst, w1, w4⟩
  · intro s q hq hst hoff
    exact ⟨_, partnerWake_off hq hst, train_pstate hoff q 0, train_mem hoff 0⟩
  · intro s q hq hst hasked hnow
    refine ⟨_, (if_neg (not_not.2 hq)).trans (if_neg ?_), ?_, ?_, ?_, ?_⟩
    · simp only [not_or, not_not, not_lt]
      exact ⟨hst, hasked, hnow⟩
    · rw [State.flag, getF_dropLocks (by decide), getF_setF_same _ (by decide)]
      rfl
    · rw [dropLocks_port, setF_port, modPort_port_same]
    · rw [dropLocks_port, setF_port, modPort_port_same]
    · rw [State.pstate, getF_dropLocks (by decide), getF_setF_apart _ (by decide) (.inr (by decide)), getF_modPort]
      exact hst

end Sys2Proof.Machine
end

section
/-! SUPPORT. The link: the flits a port receives, what it replays, and its timers. -/

namespace Sys2Proof.Machine

variable {s t : State} {q : Nat} {g : Fld} {b : List Byte}

/-! ## What the link changes of the registers -/

/-- The registers that a port's link, its training and its sleep write, but for those of the flits it receives. -/
def linkRegs : List Reg :=
  [.CTL_MLOCK, .PORT_STATUS, .PORT_LANES, .PORT_TRAIN, .TIME_STATUS, .CTL_VAR, .CTL_VARC, .CTL_VARP, .VCB_REPLAY, .VCB_TXSEQ, .VCB_ERR,
    .VCB_OCC0, .VCB_OCC1, .VCB_FLOW, .VCB_POOL, .FAN_STATUS]

/-- Registers outside `rs` read in `t` as in `s`. -/
def State.KeepsRegs (s t : State) (rs : List Reg) : Prop := ∀ (g : Fld) (j : Nat), g.reg ∉ rs → t.getF g j = s.getF g j

namespace State.KeepsRegs

variable {rs rs' : List Reg}

theorem refl (s : State) (rs : List Reg) : s.KeepsRegs s rs := fun _ _ _ => rfl

theorem trans {u : State} (h : s.KeepsRegs t rs) (h' : t.KeepsRegs u rs) : s.KeepsRegs u rs :=
  fun g j hg => (h' g j hg).trans (h g j hg)

theorem mono (h : s.KeepsRegs t rs) (hr : ∀ r ∈ rs, r ∈ rs') : s.KeepsRegs t rs' := fun g j hg => h g j fun h => hg (hr _ h)

theorem of_regs (h : t.regs = s.regs) (rs : List Reg) : s.KeepsRegs t rs := fun g j _ => by
  rw [State.getF, State.getF, State.rdReg, State.rdReg, h]

theorem setF (s : State) {f : Fld} (i x : Nat) (hf : f.reg ∈ rs) (hw : f.lo + f.w ≤ 64) : s.KeepsRegs (s.setF f i x) rs :=
  fun _ _ hg => getF_setF_apart s hw (.inl fun h => hg (h ▸ hf))

theorem setFs (s : State) {l : List (Fld × Nat)} (i : Nat) (hl : ∀ x ∈ l, x.1.reg ∈ rs ∧ x.1.lo + x.1.w ≤ 64) :
    s.KeepsRegs (s.setFs i l) rs := by
  induction l generalizing s with
  | nil => exact refl s rs
  | cons x l ih =>
    obtain ⟨hx, hl⟩ := List.forall_mem_cons.1 hl
    exact (setF s i x.2 hx.1 hx.2).trans (ih _ hl)

theorem modPort (s : State) (q : Nat) (f : Port → Port) (rs : List Reg) : s.KeepsRegs (s.modPort q f) rs := of_regs rfl rs

theorem ite {p : Prop} [Decidable p] {u : State} (h : s.KeepsRegs t rs) (h' : s.KeepsRegs u rs) : s.KeepsRegs (if p then t else u) rs := by
  split
  · exact h
  · exact h'

/-- The registers of the variance counters. -/
theorem varyPort (s : State) (cause q : Nat) : s.KeepsRegs (s.varyPort cause q) [.CTL_VAR, .CTL_VARC, .CTL_VARP] := fun g j hg => by
  simp only [List.mem_cons, List.not_mem_nil, or_false, not_or] at hg
  exact getF_varyPort hg.1 hg.2.1 hg.2.2 j

theorem setPstate (s : State) (q st : Nat) : s.KeepsRegs (s.setPstate q st) [.CTL_MLOCK, .PORT_STATUS] := fun g j hg => by
  simp only [List.mem_cons, List.not_mem_nil, or_false, not_or] at hg
  exact getF_setPstate hg.1 (.inl hg.2) s q st j

theorem detect (s : State) (q cause : Nat) : s.KeepsRegs (s.detect q cause) [.CTL_MLOCK, .PORT_STATUS, .PORT_LANES] := fun g j hg => by
  simp only [List.mem_cons, List.not_mem_nil, or_false, not_or] at hg
  exact getF_detect hg.1 hg.2.1 hg.2.2 s q cause j

/-- The registers of a training. -/
theorem train (s : State) (q cause : Nat) : s.KeepsRegs (s.train q cause) [.CTL_MLOCK, .PORT_STATUS, .PORT_LANES, .PORT_TRAIN] := by
  cases h : s.portsOff with
  | true =>
    rw [State.train, if_pos h]
    exact refl s _
  | false =>
    rw [train_def h]
    refine trans (t := s.toTrain q cause) (fun g j hg => ?_) ((detect _ q cause).mono (by simp))
    exact getF_toTrain (.inl fun h => hg (by simp [h, F.PORT_TRAIN_TRAINS])) s q cause j

/-- The registers of a replay. -/
theorem startReplay (s : State) (q n : Nat) : s.KeepsRegs (s.startReplay q n)
    [.VCB_REPLAY, .CTL_MLOCK, .PORT_STATUS, .PORT_LANES, .PORT_TRAIN, .CTL_VAR, .CTL_VARC, .CTL_VARP] := by
  unfold State.startReplay
  refine ite (ite ((train s q 9).mono (by simp)) (refl s _)) ?_
  have h : s.KeepsRegs ((s.setF F.VCB_REPLAY_RUN q (s.getF F.VCB_REPLAY_RUN q + 1)).addF F.VCB_REPLAY_REPLAYS q 1)
      [.VCB_REPLAY, .CTL_MLOCK, .PORT_STATUS, .PORT_LANES, .PORT_TRAIN, .CTL_VAR, .CTL_VARC, .CTL_VARP] :=
    (setF s q _ (by decide) (by decide)).trans (setF _ q _ (by decide) (by decide))
  exact ite ((h.trans (of_regs rfl _)).trans ((varyPort _ 8 q).mono (by simp))) (h.trans (of_regs rfl _))

/-- The registers of an acknowledgement. -/
theorem ackTo (s : State) (q a : Nat) : s.KeepsRegs (s.ackTo q a) [.VCB_TXSEQ, .VCB_REPLAY] := by
  unfold State.ackTo
  refine ite (refl s _) ?_
  have h : s.KeepsRegs (s.setF F.VCB_TXSEQ_OLDEST q a) [.VCB_TXSEQ, .VCB_REPLAY] := setF s q a (by decide) (by decide)
  exact ite ((h.trans (of_regs rfl _)).trans (setF _ q 0 (by decide) (by decide))) (h.trans (of_regs rfl _))

theorem degrade (s : State) (q : Nat) (high tell : Bool) : s.KeepsRegs (s.degrade q high tell) linkRegs := by
  rw [degrade_def, State.narrowing]
  refine .trans ?_ ((varyPort _ 6 q).mono (by decide))
  exact (((setPstate s q 10).mono (by decide)).trans (setF _ q _ (by decide) (by decide))).trans
    ((setF _ q 0 (by decide) (by decide)).trans (modPort _ q _ _))

theorem wakePort (s : State) (q : Nat) : s.KeepsRegs (s.wakePort q) linkRegs := by
  unfold State.wakePort
  have h : s.KeepsRegs s.stir linkRegs := by
    rw [stir_eq]
    exact of_regs rfl _
  exact (h.trans ((setPstate _ q 12).mono (by decide))).trans (modPort _ q _ _)

theorem wakeBy (s : State) (q p vc : Nat) : s.KeepsRegs (s.wakeBy q p vc) linkRegs := by
  unfold State.wakeBy
  exact ite (.trans (ite ((varyPort s 7 q).mono (by decide)) (refl s _)) (wakePort _ q)) (refl s _)

theorem enterSleep (s : State) (q st : Nat) : s.KeepsRegs (s.enterSleep q st) linkRegs := by
  unfold State.enterSleep
  dsimp only
  have h : s.KeepsRegs (((s.setPstate q st).setFs q [(F.PORT_STATUS_WIDTH, 0), (F.PORT_LANES_LOCKED, 0)]).modPort q (fun x =>
      { x with ask := 0, asked := false, grant := false, refuse := false })) linkRegs :=
    (((setPstate s q st).mono (by decide)).trans (setFs _ q (by decide))).trans (modPort _ q _ _)
  generalize ((s.setPstate q st).setFs q [(F.PORT_STATUS_WIDTH, 0), (F.PORT_LANES_LOCKED, 0)]).modPort q (fun x =>
      { x with ask := 0, asked := false, grant := false, refuse := false }) = u at h ⊢
  have hb : u.KeepsRegs u.toBackup linkRegs := by
    unfold State.toBackup
    exact ite (refl u _) ((setF u 0 1 (by decide) (by decide)).trans (setF _ 0 0 (by decide) (by decide)))
  have h' : s.KeepsRegs (if u.beaconPort = q ∧ ¬ u.flag F.TIME_STATUS_ON_BACKUP 0 then u.toBackup else u) linkRegs :=
    h.trans (ite hb (refl u _))
  generalize (if u.beaconPort = q ∧ ¬ u.flag F.TIME_STATUS_ON_BACKUP 0 then u.toBackup else u) = w at h' ⊢
  split
  · exact h'.trans (wakeBy _ q _ _)
  · exact h'

theorem takeHalf (s : State) (q flags : Nat) : s.KeepsRegs (s.takeHalf q flags) linkRegs := by
  unfold State.takeHalf
  exact ite (degrade s q _ false) (refl s _)

theorem refuseSleep (s : State) (q : Nat) (f : Port → Port) :
    s.KeepsRegs (((s.modPort q f).setF F.PORT_STATUS_SLEEP_REFUSED q 1).dropLocks 6 [q]) linkRegs :=
  ((modPort s q f _).trans (setF _ q 1 (by decide) (by decide))).trans fun _ j hg => getF_dropLocks (fun h => hg (by rw [h]; decide)) [q] j

theorem takeSleep (s : State) (q flags : Nat) : s.KeepsRegs (s.takeSleep q flags) linkRegs := by
  unfold State.takeSleep
  dsimp only
  exact ite (enterSleep s q _) (ite (refuseSleep s q _) (ite (ite (modPort s q _ _) (modPort s q _ _)) (refl s _)))

theorem passOn (s : State) : s.KeepsRegs s.passOn linkRegs := fun g j hg =>
  (State.Moves.passOn (s := s)).regs g j fun h => hg ((show bufRegs ⊆ linkRegs by decide) h)

theorem refreshPort (s : State) (q : Nat) : s.KeepsRegs (s.refreshPort q) linkRegs := fun g j hg =>
  (State.Moves.refreshPort (s := s) q).regs g j fun h => hg ((show bufRegs ⊆ linkRegs by decide) h)

theorem malformed (s : State) (q v : Nat) (last : Bool) : s.KeepsRegs (s.malformed q v last) linkRegs := by
  unfold State.malformed
  exact (setF s q _ (by decide) (by decide)).trans (modPort _ q _ _)

theorem headFlit (s : State) (q stamp : Nat) (f : TxFlit) : s.KeepsRegs (s.headFlit q stamp f) linkRegs := by
  unfold State.headFlit
  dsimp only
  split
  · refine .trans ?_ (malformed _ q _ _)
    exact modPort s q _ _
  · refine ite (.trans ?_ (malformed _ q _ _)) (.of_regs rfl _)
    exact modPort s q _ _

theorem joinFlit (s : State) (q stamp : Nat) (f : TxFlit) : s.KeepsRegs (s.joinFlit q stamp f) linkRegs := by
  unfold State.joinFlit
  refine .trans ?_ (passOn _)
  split
  · exact (trans (t := State.addF _ F.VCB_ERR_MALFORMED q 1) (setF ({ s with rq := _ } : State) q _ (by decide) (by decide)) (headFlit _ q _ _))
  · exact headFlit s q _ _
  · exact ite (modPort s q _ _) (refl s _)
  · exact malformed s q _ _
  · exact ite (malformed ({ s with rq := _ } : State) q _ _) (of_regs rfl _)

end State.KeepsRegs

/-! ## The fields of a correct flit -/

/-- The registers of the ACK of a flit. -/
theorem takeAck_keeps (s : State) (q a : Nat) : s.KeepsRegs (s.takeAck q a) [.VCB_RXSEQ, .VCB_TXSEQ, .VCB_REPLAY, .VCB_ERR] := by
  unfold State.takeAck
  refine .trans (.setF s q a (by decide) (by decide)) (.ite ((State.KeepsRegs.ackTo _ q a).mono (by simp)) ?_)
  exact .setF _ q _ (by decide) (by decide)

theorem takeAck_next (s : State) (q a : Nat) : (s.takeAck q a).getF F.VCB_RXSEQ_NEXT_EXP q = s.getF F.VCB_RXSEQ_NEXT_EXP q := by
  unfold State.takeAck
  have h : (s.setF F.VCB_RXSEQ_LAST_ACK q a).getF F.VCB_RXSEQ_NEXT_EXP q = s.getF F.VCB_RXSEQ_NEXT_EXP q :=
    getF_setF_apart s (by decide) (.inr (by decide))
  dsimp only
  split
  · rw [State.KeepsRegs.ackTo _ q a _ q (by decide), h]
  · rw [getF_addF_apart _ (by decide) (.inl (by decide)), h]

/-- The OFF bits and the time of a buffer-state frame, before ACK and NAK. -/
def State.offTaken (s : State) (q : Nat) (b : List Byte) : State :=
  if fBsf b then (s.setF F.VCB_FLOW_RX_OFF q (fOff b)).modPort q (fun x => { x with bsfIn := (s.setF F.VCB_FLOW_RX_OFF q (fOff b)).now })
  else s.setF F.VCB_FLOW_RX_OFF q (fOff b)

theorem takeFields_def (s : State) (q : Nat) (b : List Byte) : s.takeFields q b =
    if fNak b then ((s.offTaken q b).takeAck q (fAck b)).takeNak q (fAck b) else (s.offTaken q b).takeAck q (fAck b) := rfl

theorem getF_offTaken (s : State) (q : Nat) (b : List Byte) (g : Fld) (j : Nat) :
    (s.offTaken q b).getF g j = (s.setF F.VCB_FLOW_RX_OFF q (fOff b)).getF g j := by
  unfold State.offTaken
  split
  · exact getF_modPort ..
  · rfl

theorem takeAcked_keeps (s : State) (q : Nat) (b : List Byte) : s.KeepsRegs ((s.offTaken q b).takeAck q (fAck b))
    [.VCB_FLOW, .VCB_RXSEQ, .VCB_TXSEQ, .VCB_REPLAY, .VCB_ERR] := by
  refine .trans (t := s.offTaken q b) (fun g j hg => ?_) ((takeAck_keeps _ q _).mono (by simp))
  rw [getF_offTaken, getF_setF_apart s (by decide) (.inl fun h => hg (by rw [h]; decide))]

theorem takeAcked_next (s : State) (q : Nat) (b : List Byte) :
    ((s.offTaken q b).takeAck q (fAck b)).getF F.VCB_RXSEQ_NEXT_EXP q = s.getF F.VCB_RXSEQ_NEXT_EXP q := by
  rw [takeAck_next, getF_offTaken, getF_setF_apart s (by decide) (.inl (by decide))]

theorem takeAcked_off (s : State) (q : Nat) (b : List Byte) :
    ((s.offTaken q b).takeAck q (fAck b)).getF F.VCB_FLOW_RX_OFF q = fOff b := by
  rw [takeAck_keeps _ q _ _ q (by decide), getF_offTaken, getF_setF_same s (by decide)]
  exact Nat.mod_eq_of_lt (Nat.mod_lt _ (by decide))

theorem takeNak_cases (s : State) (q n : Nat) : s.takeNak q n = s ∨ s.takeNak q n = s.startReplay q n := by
  unfold State.takeNak
  dsimp only
  split
  · exact .inl rfl
  · exact .inr rfl

theorem startReplay_pstate (s : State) (q n : Nat) : (s.startReplay q n).pstate q = s.pstate q ∨ (s.startReplay q n).pstate q = 2 := by
  unfold State.startReplay
  by_cases h : s.getF F.VCB_REPLAY_RUN q = 16
  · rw [if_pos h]
    split
    · cases ho : s.portsOff with
      | true =>
        rw [State.train, if_pos ho]
        exact .inl rfl
      | false => exact .inr (train_pstate ho q 9)
    · exact .inl rfl
  · rw [if_neg h]
    have e : ∀ (u : State) (x : Port), (u.setPort q x).pstate q = u.pstate q := fun _ _ => rfl
    have h1 : (((s.setF F.VCB_REPLAY_RUN q (s.getF F.VCB_REPLAY_RUN q + 1)).addF F.VCB_REPLAY_REPLAYS q 1)).pstate q = s.pstate q := by
      rw [State.pstate, getF_addF_apart _ (by decide) (.inl (by decide)), getF_setF_apart _ (by decide) (.inl (by decide))]
      rfl
    dsimp only
    split
    · rw [State.pstate, getF_varyPort (by decide) (by decide) (by decide)]
      exact .inl ((e _ _).trans h1)
    · exact .inl ((e _ _).trans h1)

/-! ## A flit received -/

/-- The counts of the code words of a flit. -/
def State.coded (s : State) (q corr uncorr : Nat) : State := (s.addF F.PORT_FEC_CORRECTED q corr).addF F.PORT_FEC_UNCORR q uncorr

theorem coded_keeps (s : State) (q corr uncorr : Nat) : s.KeepsRegs (s.coded q corr uncorr) [.PORT_FEC] :=
  (State.KeepsRegs.setF s q _ (by decide) (by decide)).trans (.setF _ q _ (by decide) (by decide))

theorem flitReceive_bad {corr uncorr phase : Nat} {bad : Bool} {f : Flit} (hq : q < 36) (h5 : 5 ≤ s.pstate q) (h10 : s.pstate q ≤ 10)
    (hb : flitBad (flitBytes f) (bad || decide (0 < uncorr)) = true) :
    exec (.flitReceive q corr uncorr bad phase f) s = .next (((s.coded q corr uncorr).addF F.VCB_ERR_CRC_BAD q 1).askNak q) :=
  (if_neg (not_not.2 hq)).trans ((if_neg (not_not.2 ⟨h5, h10⟩)).trans (if_pos hb))

/-- A correct flit once its fields are taken. -/
def State.fielded (s : State) (q corr : Nat) (b : List Byte) : State := (s.coded q corr 0).takeFields q b

theorem flitReceive_good {corr phase : Nat} {f : Flit} (hq : q < 36) (hst : s.pstate q = 8 ∨ s.pstate q = 9)
    (hb : flitBad (flitBytes f) false = false) :
    exec (.flitReceive q corr 0 false phase f) s =
      (let b := flitBytes f
       let u := s.fielded q corr b
       if fType b = 2 then .next (u.takeTraining q (u.stampAt phase) b)
       else if fType b = 3 then .next (u.takeGone q (b.drop 14))
       else if ¬ (8 ≤ u.pstate q ∧ u.pstate q ≤ 10) then .next u
       else
         let w := (u.takeHalf q (fFlags b)).takeSleep q (fFlags b)
         .next ((if fType b = 1 then w.takeData q (w.stampAt phase) b else w).refreshPort q)) :=
  (if_neg (not_not.2 hq)).trans ((if_neg (not_not.2 ⟨by omega, by omega⟩)).trans (if_neg (by
    rw [show (false || decide (0 < 0)) = false from rfl, hb]
    exact Bool.false_ne_true)))

theorem takeFields_acks (h : fNak b = false) (s : State) (q : Nat) : s.takeFields q b = (s.offTaken q b).takeAck q (fAck b) := by
  rw [takeFields_def, if_neg (by simp [h])]

/-- A correct flit without NAK leaves the state of its port and the number it expects. -/
theorem fielded_keeps (h : fNak b = false) (s : State) (q corr : Nat) :
    (s.fielded q corr b).getF F.VCB_RXSEQ_NEXT_EXP q = s.getF F.VCB_RXSEQ_NEXT_EXP q ∧ (s.fielded q corr b).pstate q = s.pstate q ∧
      (s.fielded q corr b).getF F.PORT_TRAIN_BAD_FRAMES q = s.getF F.PORT_TRAIN_BAD_FRAMES q := by
  unfold State.fielded State.pstate
  rw [takeFields_acks h, takeAcked_next, coded_keeps s q corr 0 _ q (by decide), takeAcked_keeps _ q b _ q (by decide),
    coded_keeps s q corr 0 _ q (by decide), takeAcked_keeps _ q b _ q (by decide), coded_keeps s q corr 0 _ q (by decide)]
  exact ⟨rfl, rfl, rfl⟩

theorem data_exec {corr phase : Nat} {f : Flit} (hq : q < 36) (hst : s.pstate q = 8 ∨ s.pstate q = 9)
    (hb : flitBad (flitBytes f) false = false) (ht : fType (flitBytes f) = 1) (hn : fNak (flitBytes f) = false) :
    ∃ (w : State) (stamp : Nat), exec (.flitReceive q corr 0 false phase f) s = .next ((w.takeData q stamp (flitBytes f)).refreshPort q) ∧
      w.getF F.VCB_RXSEQ_NEXT_EXP q = s.getF F.VCB_RXSEQ_NEXT_EXP q := by
  obtain ⟨h1, h2, _⟩ := fielded_keeps hn s q corr
  refine ⟨((s.fielded q corr (flitBytes f)).takeHalf q (fFlags (flitBytes f))).takeSleep q (fFlags (flitBytes f)),
    (((s.fielded q corr (flitBytes f)).takeHalf q (fFlags (flitBytes f))).takeSleep q (fFlags (flitBytes f))).stampAt phase, ?_, ?_⟩
  · rw [flitReceive_good hq hst hb]
    dsimp only
    rw [if_neg (by simp [ht]), if_neg (by simp [ht]), if_neg (by rw [h2]; omega), if_pos ht]
  · rw [State.KeepsRegs.takeSleep _ q _ _ q (by decide), State.KeepsRegs.takeHalf _ q _ _ q (by decide), h1]

theorem takeData_expected {stamp : Nat} (h : fSeq b = s.getF F.VCB_RXSEQ_NEXT_EXP q) :
    (s.takeData q stamp b).getF F.VCB_RXSEQ_NEXT_EXP q = (s.getF F.VCB_RXSEQ_NEXT_EXP q + 1) % 2 ^ 24 := by
  have e : ((s.setF F.VCB_RXSEQ_NEXT_EXP q ((s.getF F.VCB_RXSEQ_NEXT_EXP q + 1) % 2 ^ 24)).modPort q (fun x =>
      { x with naking := false, nakDue := false })).getF F.VCB_RXSEQ_NEXT_EXP q = (s.getF F.VCB_RXSEQ_NEXT_EXP q + 1) % 2 ^ 24 := by
    rw [getF_modPort, getF_setF_same s (by decide)]
    exact Nat.mod_mod _ _
  unfold State.takeData
  dsimp only
  rw [if_pos h]
  split
  · exact e
  · rw [State.KeepsRegs.joinFlit _ q _ _ _ q (by decide), e]

theorem askNak_naking (s : State) (q : Nat) : ((s.askNak q).port q).naking = true := by
  unfold State.askNak
  split
  · next h => exact h
  · rw [modPort_port_same]

theorem askNak_begins (h : (s.port q).naking = false) : ((s.askNak q).port q).nakDue = true ∧ ((s.askNak q).port q).nakAt = s.now := by
  rw [State.askNak, if_neg (by simp [h]), modPort_port_same]
  exact ⟨rfl, rfl⟩

theorem askNak_eq (s : State) (q : Nat) : s.askNak q = { s with ports := (s.askNak q).ports } := by
  unfold State.askNak
  split <;> rfl

theorem takeData_ahead {stamp : Nat} (h : fSeq b ≠ s.getF F.VCB_RXSEQ_NEXT_EXP q) (hs : seqGe 24 (fSeq b) (s.getF F.VCB_RXSEQ_NEXT_EXP q) = true) :
    s.takeData q stamp b = s.askNak q :=
  (if_neg h).trans (if_pos hs)

theorem State.Moves.port (h : s.Moves t) (j : Nat) : t.port j = s.port j := by
  rw [h.frame]
  rfl

theorem refreshPort_port (s : State) (q j : Nat) : (s.refreshPort q).port j = s.port j := (State.Moves.refreshPort q).port j

theorem portsOff_keeps {rs : List Reg} (h : s.KeepsRegs t rs) (hr : Reg.BOOT_STATUS ∉ rs) : t.portsOff = s.portsOff := by
  unfold State.portsOff State.flag
  rw [h _ 0 hr, h _ 0 hr]

/-- A NAK leaves a port in UP in UP, or in a training that it began. -/
theorem takeNak_up (h : s.pstate q = 8) (n : Nat) : ((s.takeNak q n).pstate q = 8 ∨ (s.takeNak q n).pstate q = 2) ∧
    (s.takeNak q n).portsOff = s.portsOff ∧ (s.takeNak q n).getF F.VCB_FLOW_RX_OFF q = s.getF F.VCB_FLOW_RX_OFF q := by
  rcases takeNak_cases s q n with e | e
  · rw [e]
    exact ⟨.inl h, rfl, rfl⟩
  · have k := State.KeepsRegs.startReplay s q n
    rw [e]
    exact ⟨(startReplay_pstate s q n).imp_left (·.trans h), portsOff_keeps k (by decide), k _ q (by decide)⟩

/-- A correct flit leaves a port in UP in UP, or in a training that its NAK began; its OFF bits are kept. -/
theorem fielded_up (h : s.pstate q = 8) (hoff : s.portsOff = false) (corr : Nat) :
    ((s.fielded q corr b).pstate q = 8 ∨ (s.fielded q corr b).pstate q = 2) ∧ (s.fielded q corr b).portsOff = false ∧
      (s.fielded q corr b).getF F.VCB_FLOW_RX_OFF q = fOff b := by
  have k1 := coded_keeps s q corr 0
  have k2 := takeAcked_keeps (s.coded q corr 0) q b
  have hp : (((s.coded q corr 0).offTaken q b).takeAck q (fAck b)).pstate q = 8 :=
    (k2 F.PORT_STATUS_STATE q (by decide)).trans ((k1 F.PORT_STATUS_STATE q (by decide)).trans h)
  have hf : (((s.coded q corr 0).offTaken q b).takeAck q (fAck b)).portsOff = false :=
    (portsOff_keeps k2 (by decide)).trans ((portsOff_keeps k1 (by decide)).trans hoff)
  have ho := takeAcked_off (s.coded q corr 0) q b
  rw [State.fielded, takeFields_def]
  split
  · obtain ⟨n1, n2, n3⟩ := takeNak_up hp (fAck b)
    exact ⟨n1, n2.trans hf, n3.trans ho⟩
  · exact ⟨.inl hp, hf, ho⟩

theorem takeTraining_frame {stamp : Nat} (h : ¬ (5 ≤ s.pstate q ∧ s.pstate q ≤ 7)) :
    s.takeTraining q stamp b = s.takeFrame q (fSeq b) (fAck b) (b.drop 14) :=
  if_neg fun h' => h ⟨h'.1, h'.2.1⟩

/-- A good training frame of a port in UP, or in DETECT. -/
theorem takeFrame_up {seq ack : Nat} {body : List Byte} (h : s.pstate q = 8 ∨ s.pstate q = 2) (hoff : s.portsOff = false)
    (hb : tbBad body = false) : (s.takeFrame q seq ack body).pstate q = 2 ∧ ((s.takeFrame q seq ack body).port q).rseq = seq ∧
      ((s.takeFrame q seq ack body).port q).rack = ack ∧
      (s.takeFrame q seq ack body).getF F.VCB_FLOW_RX_OFF q = s.getF F.VCB_FLOW_RX_OFF q := by
  have hoff' : (s.heard q seq ack).portsOff = false := hoff
  have hp : ((s.heard q seq ack).port q).rseq = seq ∧ ((s.heard q seq ack).port q).rack = ack := by
    rw [State.heard, modPort_port_same]
    exact ⟨rfl, rfl⟩
  rw [takeFrame_def]
  rcases h with h | h
  · rw [if_pos (.inl h), if_neg (by simp [hb])]
    refine ⟨train_pstate hoff' q 0, (train_port hoff' q 0).2.1.trans hp.1, (train_port hoff' q 0).2.2.trans hp.2, ?_⟩
    rw [State.KeepsRegs.train _ q 0 _ q (by decide), State.heard, getF_modPort]
  · rw [if_neg (by omega), if_neg (by omega)]
    exact ⟨h, hp.1, hp.2, rfl⟩

/-- Settles O47, clause by clause over the flits. -/
theorem flitsAreChecked : Obligations.FlitsAreChecked := by
  unfold Obligations.FlitsAreChecked
  refine ⟨?_, ?_, ?_, ?_, ?_, ?_⟩
  · intro s q corr uncorr phase bad f hq h5 h10 hbad
    have hb : flitBad (flitBytes f) (bad || decide (0 < uncorr)) = true := by
      unfold flitBad
      rcases hbad with h | h | h <;> simp [h]
    have hn : ((s.coded q corr uncorr).addF F.VCB_ERR_CRC_BAD q 1).port q = s.port q := rfl
    refine ⟨_, flitReceive_bad hq h5 h10 hb, ?_, ?_, ?_, askNak_naking _ q, fun h => ?_, ?_, ?_⟩
    · rw [askNak_eq]
      change ((s.coded q corr uncorr).addF F.VCB_ERR_CRC_BAD q 1).getF F.VCB_ERR_CRC_BAD q = _
      rw [getF_addF_same (by decide), coded_keeps s q corr uncorr _ q (by decide)]
    · rw [askNak_eq]
      change ((s.coded q corr uncorr).addF F.VCB_ERR_CRC_BAD q 1).getF F.PORT_FEC_CORRECTED q = _
      rw [getF_addF_apart _ (by decide) (.inl (by decide)), State.coded, getF_addF_apart _ (by decide) (.inr (by decide)),
        getF_addF_same (by decide)]
    · rw [askNak_eq]
      change ((s.coded q corr uncorr).addF F.VCB_ERR_CRC_BAD q 1).getF F.PORT_FEC_UNCORR q = _
      rw [getF_addF_apart _ (by decide) (.inl (by decide)), State.coded, getF_addF_same (by decide),
        getF_addF_apart _ (by decide) (.inr (by decide))]
    · have hnow : ((s.coded q corr uncorr).addF F.VCB_ERR_CRC_BAD q 1).now = s.now := by
        unfold State.now
        rw [getF_addF_apart _ (by decide) (.inl (by decide)), coded_keeps s q corr uncorr _ 0 (by decide)]
      rw [← hnow]
      exact askNak_begins (hn ▸ h)
    · have hr : s.RegsBut ((s.coded q corr uncorr).addF F.VCB_ERR_CRC_BAD q 1)
          ([(F.PORT_FEC_CORRECTED, q)] ++ ([(F.PORT_FEC_UNCORR, q)] ++ [(F.VCB_ERR_CRC_BAD, q)])) :=
        regsBut_trans (regsBut_setF s (by decide)) (regsBut_trans (regsBut_setF _ (by decide)) (regsBut_setF _ (by decide)))
      rw [askNak_eq]
      exact regsBut_mono hr (by simp)
    · rw [askNak_eq]
      rfl
  · intro s q corr phase f hq hst hb ht hn next
    obtain ⟨w, stamp, e, hw⟩ := data_exec (corr := corr) (phase := phase) hq hst hb ht hn
    refine ⟨fun h => ⟨_, e, ?_⟩, fun h h' => ⟨_, e, ?_, ?_⟩⟩
    · rw [State.KeepsRegs.refreshPort _ q F.VCB_RXSEQ_NEXT_EXP q (by decide), takeData_expected (h.trans hw.symm), hw]
    · rw [State.KeepsRegs.refreshPort _ q F.VCB_RXSEQ_NEXT_EXP q (by decide), takeData_ahead (hw ▸ h) (hw ▸ h'), askNak_eq]
      exact hw
    · rw [refreshPort_port, takeData_ahead (hw ▸ h) (hw ▸ h')]
      exact askNak_naking w q
  · intro s q corr phase f hq hst hoff hb ht htb
    obtain ⟨h1, h2, h3⟩ := fielded_up (b := flitBytes f) hst hoff corr
    obtain ⟨f1, f2, f3, f4⟩ := takeFrame_up (seq := fSeq (flitBytes f)) (ack := fAck (flitBytes f)) h1 h2 htb
    refine ⟨_, (flitReceive_good hq (.inl hst) hb).trans ((if_pos ht).trans (congrArg _ (takeTraining_frame ?_))), f1, f2, f3, f4.trans h3⟩
    omega
  · intro s q corr phase f hq hst hb ht hn htb
    obtain ⟨_, h2, h3⟩ := fielded_keeps hn s q corr
    have h8 := h2.trans hst
    refine ⟨_, (flitReceive_good hq (.inl hst) hb).trans ((if_pos ht).trans (congrArg _ ((takeTraining_frame (by omega)).trans
      (takeFrame_bad (by omega) (by omega) htb)))), ?_, ?_⟩
    · rw [State.pstate, getF_addF_apart _ (by decide) (.inl (by decide)), State.heard, getF_modPort]
      exact h8
    · rw [getF_addF_same (by decide), State.heard, getF_modPort, h3]
  · intro s q body hq b h1 h2 h3 h4 h5 h6
    refine (if_neg (not_not.2 hq)).trans (congrArg _ ((if_neg ?_).trans (if_neg h6)))
    simp only [not_or, not_not, not_lt]
    exact ⟨h1, by rcases h2 with h | h <;> simp [b, h], by rcases h2 with h | h <;> simp [b, h], h3, h4, Bool.eq_false_iff.1 h5⟩
  · intro s q body hq h
    exact (if_neg (not_not.2 hq)).trans (congrArg _ (if_pos (.inl h)))

end Sys2Proof.Machine
end

section
/-! SUPPORT. What a port sends in a slot, and the timers of its link. -/

namespace Sys2Proof.Machine

variable {s t : State} {q phase : Nat} {g : Fld}

theorem State.Moves.mem (h : s.Moves t) : t.mem = s.mem := by rw [h.frame]

/-! ## The bytes of a flit sent -/

theorem leNat_lt (l : List Byte) : leNat l < 256 ^ l.length := by
  induction l with
  | nil => exact Nat.one_pos
  | cons b l ih =>
    have := b.isLt
    rw [leNat, List.length_cons, Nat.pow_succ]
    omega

theorem leBytes_leNat (l : List Byte) : leBytes l.length (leNat l) = l := by
  induction l with
  | nil => rfl
  | cons b l ih =>
    have hb := b.isLt
    rw [List.length_cons, leBytes, leNat, show (b.toNat + 256 * leNat l) / 256 = leNat l by omega, ih]
    congr 1
    apply BitVec.eq_of_toNat_eq
    rw [BitVec.toNat_ofNat]
    omega

/-- A flit of 256 bytes reads as those bytes. -/
theorem flitBytes_ofNat {l : List Byte} (h : l.length = 256) : flitBytes (BitVec.ofNat 2048 (leNat l)) = l := by
  have hlt : leNat l < 2 ^ 2048 := by
    have := leNat_lt l
    rwa [h, show (256 : Nat) = 2 ^ 8 from rfl, ← Nat.pow_mul] at this
  rw [flitBytes, BitVec.toNat_ofNat, Nat.mod_eq_of_lt hlt, ← h, leBytes_leNat]

theorem padTo_length (n : Nat) (l : List Byte) : (padTo n l).length = n := by
  rw [padTo, List.length_append, List.length_take, List.length_replicate]
  omega

/-- The flags of a flit sent. -/
theorem fFlags_makeFlit (type vc seq ack : Nat) (bsf nak : Bool) (off flags : Nat) (first last : Bool) (body : List Byte) :
    fFlags (flitBytes (makeFlit type vc seq ack bsf nak off flags first last body)) = flags % 256 := by
  unfold makeFlit
  dsimp only
  rw [flitBytes_ofNat (by simp [padTo_length])]
  exact (Nat.add_zero _).trans (BitVec.toNat_ofNat _ _)

theorem flags_lt (x : Port) : x.flags < 256 := by
  have hb : ∀ b : Bool, bit b < 2 := fun b => by cases b <;> decide
  have h1 := hb x.asked
  have h2 := hb x.grant
  have h3 := hb x.refuse
  have h4 := hb x.half
  have h5 := hb (x.half && x.high)
  unfold Port.flags
  omega

theorem flags_bits (x : Port) : bitAt x.flags 0 = x.asked ∧ bitAt x.flags 3 = x.half ∧ bitAt x.flags 4 = (x.half && x.high) := by
  unfold Port.flags bitAt
  cases x.asked <;> cases x.grant <;> cases x.refuse <;> cases x.half <;> cases x.high <;> decide

/-! ## A flit put on the lanes -/

/-- The flit that a port puts on its lanes. -/
def State.flitOut (s : State) (q type vc seq : Nat) (first last : Bool) (body : List Byte) : Flit :=
  makeFlit type vc seq (s.getF F.VCB_RXSEQ_NEXT_EXP q) (s.port q).bsfDue (s.port q).nakDue (s.getF F.VCB_FLOW_TX_OFF q) (s.port q).flags
    first last body

variable {type vc seq : Nat} {first last : Bool} {body : List Byte}

theorem emit_port (s : State) (q type vc seq : Nat) (first last : Bool) (body : List Byte) :
    (s.emit q type vc seq first last body).port q =
      { s.port q with sent := s.flitOut q type vc seq first last body, bsfDue := false, nakDue := false, refuse := false } := by
  unfold State.emit
  dsimp only
  rw [State.setPort_port_same]
  rfl

theorem emit_eq (s : State) (q type vc seq : Nat) (first last : Bool) (body : List Byte) : s.emit q type vc seq first last body =
    { s with regs := (s.emit q type vc seq first last body).regs, ports := (s.emit q type vc seq first last body).ports } := by
  unfold State.emit
  dsimp only
  split <;> rfl

theorem getF_emit (h : g.reg ≠ .VCB_REPLAY) (s : State) (q type vc seq : Nat) (first last : Bool) (body : List Byte) (j : Nat) :
    (s.emit q type vc seq first last body).getF g j = s.getF g j := by
  have e : ∀ (u : State) (x : Port), (u.setPort q x).getF g j = u.getF g j := fun _ _ => rfl
  unfold State.emit
  dsimp only
  rw [e]
  split
  · exact getF_addF_apart s (by decide) (.inl h)
  · rfl

/-- The port after a slot without a DATA flit. -/
theorem idleSlot_port (s : State) (q : Nat) : ((s.idleSlot q).port q).sent = s.flitOut q 0 0 0 false false [] ∧
    ((s.idleSlot q).port q).asked = (s.port q).asked ∧ ((s.idleSlot q).port q).askAt = (s.port q).askAt := by
  rw [State.idleSlot, modPort_port_same, emit_port]
  exact ⟨rfl, rfl, rfl⟩

theorem idleSlot_flags (s : State) (q : Nat) : fFlags (flitBytes ((s.idleSlot q).port q).sent) = (s.port q).flags := by
  rw [(idleSlot_port s q).1, State.flitOut, fFlags_makeFlit]
  exact Nat.mod_eq_of_lt (flags_lt _)

/-! ## A DATA flit -/

theorem sendData_port (s : State) (q : Nat) (f : TxFlit) :
    ((s.sendData q f).port q).sent = s.flitOut q 1 f.vc f.seq f.first f.last f.body ∧
    ((s.sendData q f).port q).store = (s.port q).store.map (fun g => if g.seq = f.seq then { g with since := s.now } else g) ∧
    ((s.sendData q f).port q).replay = (s.port q).replay := by
  have hn : (s.emit q 1 f.vc f.seq f.first f.last f.body).now = s.now := getF_emit (by decide) s q _ _ _ _ _ _ 0
  unfold State.sendData
  dsimp only
  rw [modPort_port_same, emit_port, hn]
  exact ⟨rfl, rfl, rfl⟩

theorem sendData_mem (s : State) (q : Nat) (f : TxFlit) : (s.sendData q f).mem = s.mem := by
  unfold State.sendData
  dsimp only
  rw [emit_eq]
  rfl

theorem getF_sendData (h : g.reg ≠ .VCB_REPLAY) (s : State) (q : Nat) (f : TxFlit) (j : Nat) : (s.sendData q f).getF g j = s.getF g j := by
  unfold State.sendData
  dsimp only
  rw [getF_modPort, getF_emit h]

/-- What a flit sent leaves of a state before its number: the registers but the variance counters, memory, and the port but the times
of a beacon's exchange. -/
structure State.SentFrom (s t : State) (q : Nat) : Prop where
  regs : s.KeepsRegs t [.CTL_VAR, .CTL_VARC, .CTL_VARP]
  mem : t.mem = s.mem
  port : ∃ e, t.port q = { s.port q with exch := e }

theorem SentFrom_vary5 (s : State) (q : Nat) (f : TxFlit) : s.SentFrom (s.vary5 q f) q := by
  unfold State.vary5
  split
  · exact ⟨.varyPort s 9 q, by rw [varyPort_eq], (s.port q).exch, varyPort_port s 9 q q⟩
  · exact ⟨.refl s _, rfl, (s.port q).exch, rfl⟩

theorem SentFrom_keepT3 (h : s.SentFrom t q) (n ts : Nat) (b : List Byte) : s.SentFrom (t.keepT3 q n ts b) q := by
  unfold State.keepT3
  split
  · obtain ⟨e, he⟩ := h.port
    refine ⟨h.regs.trans (.modPort t q _ _), h.mem, (t.port q).exch.map (fun e => (e.1, e.2.1, e.2.2.1, ts)), ?_⟩
    rw [modPort_port_same, he]
  · exact h

theorem SentFrom_markSent (h : s.SentFrom t q) (v : Nat) : s.SentFrom (t.markSent q v) q := by
  unfold State.markSent
  split
  · exact h
  · exact ⟨h.regs.trans (.of_regs rfl _), h.mem, h.port⟩

/-- A new flit with the number and the body it goes with. -/
def State.numbered (s : State) (q phase : Nat) (f : TxFlit) : TxFlit :=
  { f with seq := s.getF F.VCB_TXSEQ_NEXT_SEND q
           body := if f.first && f.ptype == ptBEACON then stampBody 18 (s.stampAt phase) f.body else f.body }

/-- The state that a new flit leaves behind before it is stored. -/
def State.unsent (s : State) (q phase : Nat) (f : TxFlit) : State :=
  (if f.first && f.ptype == ptBEACON then (s.vary5 q f).keepT3 q 18 (s.stampAt phase) f.body else s.vary5 q f).markSent q f.vc

theorem sendNew_def (s : State) (q phase : Nat) (f : TxFlit) : s.sendNew q phase f =
    ((((s.unsent q phase f).modPort q (fun x => { x with store := x.store ++ [s.numbered q phase f] })).setF F.VCB_TXSEQ_NEXT_SEND q
      ((s.getF F.VCB_TXSEQ_NEXT_SEND q + 1) % 2 ^ 24)).sendData q (s.numbered q phase f)).passOn := rfl

theorem unsent_from (s : State) (q phase : Nat) (f : TxFlit) : s.SentFrom (s.unsent q phase f) q := by
  unfold State.unsent
  refine SentFrom_markSent ?_ _
  split
  · exact SentFrom_keepT3 (SentFrom_vary5 s q f) _ _ _
  · exact SentFrom_vary5 s q f

/-- A new flit: its number, what goes on the lanes, and the replay store. -/
theorem sendNew_spec (s : State) (q phase : Nat) (f : TxFlit) :
    (s.sendNew q phase f).getF F.VCB_TXSEQ_NEXT_SEND q = (s.getF F.VCB_TXSEQ_NEXT_SEND q + 1) % 2 ^ 24 ∧
    ((s.sendNew q phase f).port q).sent =
      s.flitOut q 1 f.vc (s.getF F.VCB_TXSEQ_NEXT_SEND q) f.first f.last (s.numbered q phase f).body ∧
    ((s.sendNew q phase f).port q).store = ((s.port q).store ++ [s.numbered q phase f]).map
      (fun g => if g.seq = s.getF F.VCB_TXSEQ_NEXT_SEND q then { g with since := s.now } else g) ∧
    (s.sendNew q phase f).mem = s.mem := by
  obtain ⟨hr, hm, e, hp⟩ := unsent_from s q phase f
  rw [sendNew_def]
  generalize s.unsent q phase f = u at hr hm hp ⊢
  have hs : (s.numbered q phase f).seq = s.getF F.VCB_TXSEQ_NEXT_SEND q := rfl
  generalize hg : s.numbered q phase f = k at hs
  have hk : k.vc = f.vc ∧ k.first = f.first ∧ k.last = f.last := by
    subst hg
    exact ⟨rfl, rfl, rfl⟩
  have hw : ∀ g : Fld, g.reg ∉ [Reg.CTL_VAR, .CTL_VARC, .CTL_VARP] → F.VCB_TXSEQ_NEXT_SEND.Apart g → ∀ j,
      ((u.modPort q (fun x => { x with store := x.store ++ [k] })).setF F.VCB_TXSEQ_NEXT_SEND q
        ((s.getF F.VCB_TXSEQ_NEXT_SEND q + 1) % 2 ^ 24)).getF g j = s.getF g j := fun g hv ha j => by
    rw [getF_setF_apart _ (by decide) ha, getF_modPort, hr g j hv]
  have hn : ((u.modPort q (fun x => { x with store := x.store ++ [k] })).setF F.VCB_TXSEQ_NEXT_SEND q
      ((s.getF F.VCB_TXSEQ_NEXT_SEND q + 1) % 2 ^ 24)).getF F.VCB_TXSEQ_NEXT_SEND q = (s.getF F.VCB_TXSEQ_NEXT_SEND q + 1) % 2 ^ 24 := by
    rw [getF_setF_same _ (by decide)]
    exact Nat.mod_mod _ _
  have hpw : ((u.modPort q (fun x => { x with store := x.store ++ [k] })).setF F.VCB_TXSEQ_NEXT_SEND q
      ((s.getF F.VCB_TXSEQ_NEXT_SEND q + 1) % 2 ^ 24)).port q = { s.port q with exch := e, store := (s.port q).store ++ [k] } := by
    rw [setF_port, modPort_port_same, hp]
  have hmw : ((u.modPort q (fun x => { x with store := x.store ++ [k] })).setF F.VCB_TXSEQ_NEXT_SEND q
      ((s.getF F.VCB_TXSEQ_NEXT_SEND q + 1) % 2 ^ 24)).mem = s.mem := hm
  generalize (u.modPort q (fun x => { x with store := x.store ++ [k] })).setF F.VCB_TXSEQ_NEXT_SEND q
      ((s.getF F.VCB_TXSEQ_NEXT_SEND q + 1) % 2 ^ 24) = w at hw hn hpw hmw ⊢
  obtain ⟨d1, d2, _⟩ := sendData_port w q k
  refine ⟨?_, ?_, ?_, ?_⟩
  · rw [State.Moves.passOn.regs F.VCB_TXSEQ_NEXT_SEND q (by decide), getF_sendData (by decide), hn]
  · rw [State.Moves.passOn.port, d1, State.flitOut, State.flitOut, hw _ (by decide) (.inl (by decide)), hw _ (by decide) (.inl (by decide)), hpw,
      hs, hk.1, hk.2.1, hk.2.2]
    rfl
  · have hnow : w.now = s.now := hw _ (by decide) (.inl (by decide)) 0
    rw [State.Moves.passOn.port, d2, hpw, hs, hnow]
  · exact State.Moves.passOn.mem.trans ((sendData_mem w q k).trans hmw)

/-! ## A replay -/

/-- Where a replay goes on after flit `n`. -/
def State.replayAfter (s : State) (q n : Nat) : Option Nat :=
  if (n + 1) % 2 ^ 24 = s.getF F.VCB_TXSEQ_NEXT_SEND q then none else some ((n + 1) % 2 ^ 24)

theorem sendReplay_sends {n : Nat} {f : TxFlit} (h : (s.port q).store.find? (fun g => g.seq == n) = some f) : s.sendReplay q n =
    ((s.vary5 q f).modPort q (fun x => { x with replay := (s.vary5 q f).replayAfter q n })).sendData q f := by
  unfold State.sendReplay
  dsimp only
  rw [h]
  rfl

theorem sendReplay_spec {n : Nat} {f : TxFlit} (h : (s.port q).store.find? (fun g => g.seq == n) = some f) :
    ((s.sendReplay q n).port q).sent = s.flitOut q 1 f.vc n f.first f.last f.body ∧
    ((s.sendReplay q n).port q).replay = s.replayAfter q n := by
  have hf : f.seq = n := by simpa using List.find?_some h
  obtain ⟨hr, _, e, hp⟩ := SentFrom_vary5 s q f
  rw [sendReplay_sends h]
  generalize s.vary5 q f = u at hr hp ⊢
  rw [show u.replayAfter q n = s.replayAfter q n by rw [State.replayAfter, State.replayAfter, hr F.VCB_TXSEQ_NEXT_SEND q (by decide)]]
  generalize s.replayAfter q n = m
  obtain ⟨d1, _, d3⟩ := sendData_port (u.modPort q (fun x => { x with replay := m })) q f
  refine ⟨d1.trans ?_, d3.trans ?_⟩
  · rw [State.flitOut, State.flitOut, getF_modPort, getF_modPort, hr _ q (by decide), hr _ q (by decide), modPort_port_same, hp, hf]
    rfl
  · rw [modPort_port_same]

/-! ## The slot -/

/-- A port that sends DATA flits in its slots: in UP or MGMT_ONLY and not going away. -/
def State.sends (s : State) (q : Nat) : Prop := (s.pstate q = 8 ∨ s.pstate q = 9) ∧ (s.port q).going = 0

/-- What the slot of such a port does. -/
def State.slot (s : State) (q phase : Nat) : State :=
  if (s.port q).grant then (s.idleSlot q).enterSleep q 11
  else if (s.port q).ask ≠ 0 ∧ ¬ (s.port q).asked ∧ (s.port q).store = [] then
    (s.modPort q (fun x => { x with asked := true, askAt := s.now })).idleSlot q
  else
    match (s.port q).replay, s.pickFlit q with
    | some n, _ => (s.sendReplay q n).refreshPort q
    | none, some f => (s.sendNew q phase f).refreshPort q
    | none, none => s.idleSlot q

theorem flitSlot_sends (hq : q < 36) (h : s.sends q) : exec (.flitSlot q phase) s = .next (s.slot q phase) := by
  obtain ⟨hst, hg⟩ := h
  change execFlitSlot q phase s = _
  unfold execFlitSlot State.slot
  rw [if_neg (not_not.2 hq)]
  dsimp only
  rw [if_neg (by simp [hg]), if_neg (by omega), if_neg (fun h => by omega), if_neg (by omega)]
  split
  · rfl
  · split
    · rfl
    · cases (s.port q).replay with
      | some n => rfl
      | none => cases s.pickFlit q <;> rfl

/-- With no sleep granted or asked for, the slot goes on to a flit. -/
theorem slot_data (hgr : (s.port q).grant = false) (ha : (s.port q).ask = 0) : s.slot q phase =
    match (s.port q).replay, s.pickFlit q with
    | some n, _ => (s.sendReplay q n).refreshPort q
    | none, some f => (s.sendNew q phase f).refreshPort q
    | none, none => s.idleSlot q := by
  unfold State.slot
  rw [if_neg (by simp [hgr]), if_neg (by simp [ha])]

theorem flitSlot_trains (hq : q < 36) (h5 : 5 ≤ s.pstate q) (h7 : s.pstate q ≤ 7) : exec (.flitSlot q phase) s = .next (s.sendTraining q phase) := by
  change execFlitSlot q phase s = _
  unfold execFlitSlot
  rw [if_neg (not_not.2 hq)]
  dsimp only
  rw [if_neg (fun h => by omega), if_pos ⟨h5, h7⟩]

theorem flitSlot_goes (hq : q < 36) (h : s.pstate q = 8 ∨ s.pstate q = 9) (hg : (s.port q).going ≠ 0) :
    exec (.flitSlot q phase) s = .next (s.emit q 3 0 0 false false (s.goneBody (s.port q).going)) :=
  (if_neg (not_not.2 hq)).trans (if_pos ⟨h, hg⟩)

/-- A training flit before TIME carries the body of its stage. -/
theorem sendTraining_body (h : s.pstate q = 5 ∨ s.pstate q = 6) :
    s.sendTraining q phase = s.emit q 2 0 (s.getF F.VCB_TXSEQ_OLDEST q) false false (s.trainBody q) := by
  have hs : (s.sendStage q == 3) = false := by
    unfold State.sendStage
    rcases h with h | h <;> simp [h]
  unfold State.sendTraining
  rcases h with h | h <;> rw [h] <;> dsimp only <;> rw [hs] <;> rfl

theorem sendTraining_ready (h : s.pstate q = 7) (hb : (s.port q).tbeacon = []) (ha : (s.port q).acked = 7) (hr : (s.port q).saidReady = true) :
    s.sendTraining q phase = s.emit q 0 0 0 false false [] := by
  have hs : (s.sendStage q == 3) = true := by
    unfold State.sendStage
    rw [if_pos h, if_pos ha]
    rfl
  unfold State.sendTraining
  rw [h, hb]
  dsimp only
  rw [hs, hr]
  rfl

theorem flitSlot_half (hq : q < 36) (hst : s.pstate q = 10) (hh : (s.port q).half = true) :
    exec (.flitSlot q phase) s = .next (s.idleSlot q) := by
  change execFlitSlot q phase s = _
  unfold execFlitSlot
  rw [if_neg (not_not.2 hq)]
  dsimp only
  rw [if_neg (fun h => by omega), if_neg (by omega), if_pos ⟨hst, hh⟩]

/-- Settles O48, clause by clause over the states of the port. -/
theorem flitsAreSent : Obligations.FlitsAreSent := by
  unfold Obligations.FlitsAreSent
  refine ⟨?_, ?_, ?_, ?_, ?_, ?_, ?_, ?_, ?_⟩
  · intro s q phase f hq hst hg hgr ha hrep hf n x b
    have e : s.slot q phase = (s.sendNew q phase f).refreshPort q := by rw [slot_data hgr ha, hrep, hf]
    obtain ⟨n1, n2, n3, n4⟩ := sendNew_spec s q phase f
    refine ⟨_, (flitSlot_sends hq ⟨hst, hg⟩).trans (congrArg _ e), ?_, ?_, ?_, ?_⟩
    · rw [(State.Moves.refreshPort q).regs F.VCB_TXSEQ_NEXT_SEND q (by decide), n1]
    · rw [refreshPort_port, n2]
      rfl
    · rw [refreshPort_port, n3]
      rfl
    · exact (State.Moves.refreshPort q).mem.trans n4
  · intro s q phase hq hst hg hgr ha hrep hf
    exact (flitSlot_sends hq ⟨hst, hg⟩).trans (congrArg _ (by rw [slot_data hgr ha, hrep, hf]))
  · intro s q phase n f hq hst hg hgr ha hrep hf x
    have e : s.slot q phase = (s.sendReplay q n).refreshPort q := by rw [slot_data hgr ha, hrep]
    obtain ⟨r1, r2⟩ := sendReplay_spec hf
    refine ⟨_, (flitSlot_sends hq ⟨hst, hg⟩).trans (congrArg _ e), ?_, ?_⟩
    · rw [refreshPort_port, r1]
      rfl
    · rw [refreshPort_port, r2]
      rfl
  · intro s q phase hq hst hg
    exact flitSlot_goes hq hst hg
  · intro s q phase hq hst hg hgr ha hasked hstore
    have e : s.slot q phase = (s.modPort q (fun x => { x with asked := true, askAt := s.now })).idleSlot q := by
      unfold State.slot
      rw [if_neg (by simp [hgr]), if_pos ⟨ha, by simp [hasked], hstore⟩]
    obtain ⟨_, i2, i3⟩ := idleSlot_port (s.modPort q (fun x => { x with asked := true, askAt := s.now })) q
    have hp : (s.modPort q (fun x => { x with asked := true, askAt := s.now })).port q = { s.port q with asked := true, askAt := s.now } :=
      modPort_port_same ..
    refine ⟨_, (flitSlot_sends hq ⟨hst, hg⟩).trans (congrArg _ e), i2.trans (by rw [hp]), i3.trans (by rw [hp]), ?_⟩
    rw [idleSlot_flags, (flags_bits _).1, hp]
  · intro s q phase hq hst hg hgr
    exact (flitSlot_sends hq ⟨hst, hg⟩).trans (congrArg _ (if_pos hgr))
  · intro s q phase hq hst
    exact (flitSlot_trains hq (by omega) (by omega)).trans (congrArg _ (sendTraining_body hst))
  · intro s q phase hq hst hb ha hr
    exact (flitSlot_trains hq (by omega) (by omega)).trans (congrArg _ (sendTraining_ready hst hb ha hr))
  · intro s q phase hq hst hh
    refine ⟨_, flitSlot_half hq hst hh, ?_, ?_⟩
    · rw [idleSlot_flags, (flags_bits _).2.1, hh]
    · rw [idleSlot_flags, (flags_bits _).2.2, hh, Bool.true_and]

/-! ## The timers -/

theorem ackTimeout_replays {f : TxFlit} {l : List TxFlit} (hq : q < 36) (hst : s.pstate q = 8 ∨ s.pstate q = 9) (h : (s.port q).store = f :: l)
    (hr : (s.port q).replay.any (seqGe 24 f.seq) = false) (ht : f.since + s.ackTimeout q ≤ s.now) :
    exec (.ackTimeout q) s = .next (s.startReplay q f.seq) := by
  change execAckTimeout q s = _
  unfold execAckTimeout
  rw [if_neg (not_not.2 hq), if_neg (by omega), h]
  exact if_neg (by simp [hr, ht])

/-- A replay starts where none has reached the limit. -/
theorem startReplay_starts (h : s.getF F.VCB_REPLAY_RUN q < 16) (n : Nat) : ((s.startReplay q n).port q).replay = some n ∧
    ((s.startReplay q n).port q).replayAt = s.now ∧ (s.startReplay q n).getF F.VCB_REPLAY_RUN q = s.getF F.VCB_REPLAY_RUN q + 1 ∧
    ((s.startReplay q n).port q).store = (s.port q).store := by
  have hn : ((s.setF F.VCB_REPLAY_RUN q (s.getF F.VCB_REPLAY_RUN q + 1)).addF F.VCB_REPLAY_REPLAYS q 1).now = s.now := by
    unfold State.now
    rw [getF_addF_apart _ (by decide) (.inl (by decide)), getF_setF_apart _ (by decide) (.inl (by decide))]
  have hrun : ((s.setF F.VCB_REPLAY_RUN q (s.getF F.VCB_REPLAY_RUN q + 1)).addF F.VCB_REPLAY_REPLAYS q 1).getF F.VCB_REPLAY_RUN q =
      s.getF F.VCB_REPLAY_RUN q + 1 := by
    rw [getF_addF_apart _ (by decide) (.inr (by decide)), getF_setF_same _ (by decide)]
    exact Nat.mod_eq_of_lt (lt_of_le_of_lt (Nat.succ_le_of_lt h) (by decide))
  have hp : ((s.setF F.VCB_REPLAY_RUN q (s.getF F.VCB_REPLAY_RUN q + 1)).addF F.VCB_REPLAY_REPLAYS q 1).port q = s.port q := rfl
  unfold State.startReplay
  rw [if_neg (by omega)]
  generalize (s.setF F.VCB_REPLAY_RUN q (s.getF F.VCB_REPLAY_RUN q + 1)).addF F.VCB_REPLAY_REPLAYS q 1 = u at hn hrun hp ⊢
  have e : ∀ (u : State) (x : Port), (u.setPort q x).getF F.VCB_REPLAY_RUN q = u.getF F.VCB_REPLAY_RUN q := fun _ _ => rfl
  dsimp only
  split
  · rw [varyPort_port, State.setPort_port_same, getF_varyPort (by decide) (by decide) (by decide), e, hn, hrun, hp]
    exact ⟨rfl, rfl, rfl, rfl⟩
  · rw [State.setPort_port_same, e, hn, hrun, hp]
    exact ⟨rfl, rfl, rfl, rfl⟩

theorem startReplay_limit (h : s.getF F.VCB_REPLAY_RUN q = 16) (hst : s.pstate q = 8 ∨ s.pstate q = 9) (n : Nat) :
    s.startReplay q n = s.train q 9 :=
  (if_pos h).trans (if_pos hst)

/-- Settles O49, clause by clause over the timers. -/
theorem linkTimersFire : Obligations.LinkTimersFire := by
  unfold Obligations.LinkTimersFire
  refine ⟨?_, ?_, ?_, ?_, ?_, ?_⟩
  · intro s q f l hq hst h hr ht hrun
    exact ⟨_, ackTimeout_replays hq hst h hr ht, startReplay_starts hrun f.seq⟩
  · intro s q f l hq hst hoff h hr ht hrun
    refine ⟨_, (ackTimeout_replays hq hst h hr ht).trans (congrArg _ (startReplay_limit hrun hst f.seq)), train_pstate hoff q 9, ?_⟩
    exact train_cause hoff q (by decide) (by decide)
  · intro s q hq hst hn ht
    refine (if_neg (not_not.2 hq)).trans (if_neg ?_)
    simp only [not_or, not_not, not_lt, not_and]
    exact ⟨hn, by omega, ht⟩
  · intro s q hq h0 h11 h13
    exact (if_neg (not_not.2 hq)).trans (if_neg (by omega))
  · intro s q hq hst hoff ht
    refine ⟨_, (if_neg (not_not.2 hq)).trans (if_neg (by omega)), train_pstate hoff q 8, train_cause hoff q (by decide) (by decide), train_mem hoff 8⟩
  · intro s q hq hh hst ht
    refine (if_neg (not_not.2 hq)).trans (if_neg ?_)
    simp only [not_or, not_not, not_lt]
    exact ⟨hh, hst, ht⟩

end Sys2Proof.Machine
end

section
/-! SUPPORT. Packets that cross the hinge, and those that stand still at the routers. -/

namespace Sys2Proof.Machine

variable {s t : State} {w u : Worm} {q v j : Nat}

/-! ## A packet that advances -/

/-- What advancing leaves of a packet: all but the flits its branches have taken and freed. -/
structure Worm.Advanced (w u : Worm) : Prop where
  pkt : u.pkt = w.pkt
  flits : u.flits = w.flits
  seen : u.seen = w.seen
  here : u.here = w.here
  cycle : u.cycle = w.cycle
  jamb : u.jamb = w.jamb
  hinge : u.hinge = w.hinge
  feed : u.feed = w.feed
  outs : u.outs.map (fun b => (b.port, b.vc, b.sent)) = w.outs.map (fun b => (b.port, b.vc, b.sent))

theorem take_spec (b : Branch) (fan : Bool) (i n : Nat) :
    ((b.take fan i n).port, (b.take fan i n).vc, (b.take fan i n).sent) = (b.port, b.vc, b.sent) := by
  unfold Branch.take
  split
  · split <;> rfl
  · rfl

theorem Worm.Advanced.trans {x : Worm} (h : w.Advanced u) (h' : u.Advanced x) : w.Advanced x :=
  ⟨h'.pkt.trans h.pkt, h'.flits.trans h.flits, h'.seen.trans h.seen, h'.here.trans h.here, h'.cycle.trans h.cycle, h'.jamb.trans h.jamb,
    h'.hinge.trans h.hinge, h'.feed.trans h.feed, h'.outs.trans h.outs⟩

theorem taken_advanced (w : Worm) (i n : Nat) : w.Advanced { w with outs := w.outs.map (fun b => b.take w.pkt.fan i n) } := by
  refine ⟨rfl, rfl, rfl, rfl, rfl, rfl, rfl, rfl, ?_⟩
  rw [List.map_map]
  exact List.map_congr_left fun b _ => take_spec b _ _ _

theorem advance_advanced (w : Worm) (fuel : Nat) : w.Advanced (w.advance fuel) := by
  induction fuel generalizing w with
  | zero => exact ⟨rfl, rfl, rfl, rfl, rfl, rfl, rfl, rfl, rfl⟩
  | succ n ih =>
    unfold Worm.advance
    dsimp only
    have h := taken_advanced w w.freed w.flits.length
    split
    · refine h.trans (.trans ?_ (ih _))
      exact ⟨rfl, rfl, rfl, rfl, rfl, rfl, rfl, rfl, rfl⟩
    · exact h

/-- A packet whose only branch has taken nothing does not advance. -/
theorem advance_fresh (hf : w.pkt.fan = false) (ho : w.outs = [⟨q, v, 0, 0⟩]) (n : Nat) : w.advance (n + 1) = w := by
  unfold Worm.advance
  have e : w.outs.map (fun b => b.take w.pkt.fan w.freed w.flits.length) = w.outs := by
    rw [ho, hf]
    rfl
  dsimp only
  rw [e, if_neg]
  rw [ho]
  simp

/-! ## The hinge -/

/-- No packet of a list wants an output of the hinge. -/
def HingeFree (ws : List Worm) : Prop := ∀ w ∈ ws, ∀ b ∈ w.outs, b.port < 36 ∨ w.pkt.flits ≤ b.sent

theorem holder_none (h : ∀ w ∈ s.rq, w.wants q v = false) : s.holder q v = none := by
  unfold State.holder
  rw [List.filter_eq_nil_iff.2 fun w hw => by rw [h w hw]; exact Bool.false_ne_true]
  rfl

theorem crossHinge_none (h : ∀ w ∈ s.rq, w.wants (36 + j) v = false) : s.crossHinge j v = s := by
  unfold State.crossHinge
  rw [holder_none h]

theorem HingeFree.wants {ws : List Worm} (h : HingeFree ws) : ∀ w ∈ ws, ∀ j v, w.wants (36 + j) v = false := by
  intro w hw j v
  unfold Worm.wants
  rw [Bool.and_eq_false_iff, List.any_eq_false]
  refine .inr fun b hb => ?_
  rcases h w hw b hb with h | h <;> simp <;> intros <;> omega

theorem HingeFree.advance {ws : List Worm} (h : HingeFree ws) (n : Nat) : HingeFree (ws.map (fun w => w.advance n)) := by
  intro w hw b hb
  obtain ⟨u, hu, rfl⟩ := List.mem_map.1 hw
  have a := advance_advanced u n
  have hm : (b.port, b.vc, b.sent) ∈ u.outs.map (fun b => (b.port, b.vc, b.sent)) :=
    a.outs ▸ List.mem_map.2 ⟨b, hb, rfl⟩
  obtain ⟨c, hc, e⟩ := List.mem_map.1 hm
  simp only [Prod.mk.injEq] at e
  rw [a.pkt, ← e.1, ← e.2.2]
  exact h u hu c hc

/-- The outputs of both hinges, in the order in which they send. -/
def hingePairs : List (Nat × Nat) := (List.range 2).flatMap (fun j => [2, 0, 1, 5, 3, 4].map (fun v => (j, v)))

theorem mem_hingePairs (hj : j < 2) (hv : v < 6) : (j, v) ∈ hingePairs := by
  have : ∀ j < 2, ∀ v < 6, (j, v) ∈ hingePairs := by decide
  exact this j hj v hv

theorem foldl_fixed {α β : Type} {f : β → α → β} {a : α} {x y : β} [DecidableEq α] (h0 : ∀ c, c ≠ a → f x c = x) (ha : f x a = y)
    (h1 : ∀ c, f y c = y) (l : List α) : l.foldl f x = if a ∈ l then y else x := by
  have hy : ∀ l : List α, l.foldl f y = y := fun l => by
    induction l with
    | nil => rfl
    | cons c l ih => rw [List.foldl_cons, h1, ih]
  induction l with
  | nil => rfl
  | cons c l ih =>
    rw [List.foldl_cons]
    by_cases hc : c = a
    · rw [hc, ha, hy, if_pos (by simp)]
    · rw [h0 c hc, ih]
      simp [Ne.symm hc]

/-- The state with its packets advanced. -/
def State.stirred (s : State) : State := { s with rq := s.rq.map (fun w => w.advance 18) }

theorem crossAll_succ (s : State) (fuel : Nat) : s.crossAll (fuel + 1) =
    if (hingePairs.foldl (fun s x => s.crossHinge x.1 x.2) s.stirred).rq = s.stirred.rq then s.stirred
    else (hingePairs.foldl (fun s x => s.crossHinge x.1 x.2) s.stirred).crossAll fuel := rfl

/-- Nothing crosses a hinge that no packet wants. -/
theorem crossAll_still (h : HingeFree s.rq) (fuel : Nat) : s.crossAll (fuel + 1) = s.stirred := by
  have hf : HingeFree s.stirred.rq := h.advance 18
  have e : hingePairs.foldl (fun s x => s.crossHinge x.1 x.2) s.stirred = s.stirred := by
    induction hingePairs with
    | nil => rfl
    | cons x l ih => rw [List.foldl_cons, crossHinge_none fun w hw => hf.wants w hw _ _, ih]
  rw [crossAll_succ, e, if_pos rfl]

/-- A packet with all its flits come and one output, of the hinge of its jamb, of which it has sent nothing. -/
structure Worm.Crossing (w : Worm) (j v : Nat) : Prop where
  jamb : j < 2
  vc : v < 6
  fan : w.pkt.fan = false
  outs : w.outs = [⟨36 + j, v, 0, 0⟩]
  complete : w.complete = true
  some : 0 < w.pkt.flits

theorem Worm.Crossing.length (h : w.Crossing j v) : w.flits.length = w.pkt.flits := by
  have := h.complete
  simpa [Worm.complete] using this

theorem Worm.Crossing.wants (h : w.Crossing j v) (i x : Nat) : w.wants (36 + i) x = decide ((i, x) = (j, v)) := by
  have hl := h.length
  have h0 := h.some
  have hne : (w.flits != []) = true := by
    have : w.flits ≠ [] := fun e => by rw [e] at hl; simp at hl; omega
    simpa using this
  unfold Worm.wants
  rw [hne, h.outs]
  simp only [List.any_cons, List.any_nil, Bool.or_false, Bool.true_and, Prod.mk.injEq, decide_eq_true h0, Bool.and_true]
  by_cases hi : i = j
  · subst hi
    by_cases hx : v = x
    · subst hx
      simp
    · simp [hx, Ne.symm hx]
  · simp [hi, Ne.symm hi]

/-- The packet once all its flits have crossed the hinge. -/
def Worm.gone (w : Worm) (j v : Nat) : Worm := { w with outs := [⟨36 + j, v, 0, w.pkt.flits⟩] }

/-- The packets once `w`, before the others `rest`, has crossed. -/
def State.overHinge (s : State) (w : Worm) (j v : Nat) (rest : List Worm) : List Worm :=
  w.gone j v :: rest.map (w.cross (36 + j) v w.pkt.flits s.nextCycle w.flits)

theorem crossHinge_crosses (hh : s.holder (36 + j) v = some w) (h : w.Crossing j v) :
    s.crossHinge j v = { s with rq := s.rq.map (w.cross (36 + j) v w.pkt.flits s.nextCycle w.flits) } := by
  have hf : w.outs.find? (fun b => b.port == 36 + j && b.vc == v) = some ⟨36 + j, v, 0, 0⟩ := by
    rw [h.outs]
    simp
  have hl := h.length
  have ht : List.drop 0 (List.take w.pkt.flits w.flits) = w.flits := by
    rw [List.drop_zero, ← hl, List.take_length]
  have h0 := h.some
  unfold State.crossHinge
  rw [hh]
  dsimp only
  rw [hf]
  dsimp only
  simp only [h.fan, Bool.false_eq_true, if_false, hl]
  rw [if_neg (by omega), ht]

/-- The packets after one of two has crossed: the other stands at the far jamb. -/
theorem crossAll_crosses {rest : List Worm} (h : w.Crossing j v) (hs : s.rq = w :: rest) (hfresh : ∀ u ∈ rest, u.advance 18 = u)
    (hr : ∀ u ∈ rest, ∀ i x, u.wants (36 + i) x = false)
    (hafter : HingeFree (s.overHinge w j v rest)) (fuel : Nat) :
    s.crossAll (fuel + 2) = ({ s with rq := s.overHinge w j v rest } : State).stirred := by
  have hl := h.length
  have h0 := h.some
  have hst : s.stirred = s := by
    unfold State.stirred
    rw [hs, List.map_cons, advance_fresh h.fan h.outs, List.map_congr_left hfresh, List.map_id', ← hs]
  have hsame : w.same w = true := by simp [Worm.same]
  have hcross : s.crossHinge j v = { s with rq := s.overHinge w j v rest } := by
    have hhold : s.holder (36 + j) v = some w := by
      unfold State.holder
      rw [hs, List.filter_cons, h.wants, if_pos (by simp), List.filter_eq_nil_iff.2 fun u hu => by rw [hr u hu]; exact Bool.false_ne_true]
      rfl
    have hw : w.cross (36 + j) v w.pkt.flits s.nextCycle w.flits w = w.gone j v := by
      unfold Worm.cross
      rw [if_pos hsame, h.outs]
      simp [Worm.gone]
    rw [crossHinge_crosses hhold h, hs, List.map_cons, hw]
    rfl
  have hfold : hingePairs.foldl (fun s x => s.crossHinge x.1 x.2) s = { s with rq := s.overHinge w j v rest } := by
    rw [foldl_fixed (a := (j, v)) (y := s.crossHinge j v) ?_ rfl ?_, if_pos (mem_hingePairs h.jamb h.vc), hcross]
    · rintro ⟨i, x⟩ hne
      refine crossHinge_none fun u hu => ?_
      rw [hs] at hu
      rcases List.mem_cons.1 hu with rfl | hu
      · rw [h.wants]
        exact decide_eq_false hne
      · exact hr u hu i x
    · rintro ⟨i, x⟩
      rw [hcross]
      exact crossHinge_none fun u hu => hafter.wants u hu i x
  rw [crossAll_succ, hst, hfold, if_neg, crossAll_still hafter]
  rw [hs]
  intro e
  have := congrArg Worm.outs (List.cons.inj e).1
  rw [h.outs, Worm.gone] at this
  simp at this
  omega

end Sys2Proof.Machine
end

section
/-! SUPPORT. Routing: a packet looked up alone at the routers, where it goes, and the writes of the route tables. -/

namespace Sys2Proof.Machine

variable {s t : State} {w u x : Worm} {p q v j : Nat} {r : Routed} {k : Packet}

/-! ## What is passed on -/

/-- The package takes the packet now. -/
def Worm.done (w : Worm) : Bool := w.seen && w.here && w.complete && w.crossed

/-- A packet as passing on leaves it. -/
def Worm.settled (w : Worm) : Worm :=
  { w with stalled := if w.stalls then w.freed + 1 else w.stalled, here := w.here && !w.done }

/-- The packets at the routers after all crossings. -/
def State.crossedAll (s : State) : List Worm := (s.crossAll (6 * (s.rq.length + 1))).rq

theorem moveWorms_def (s : State) : s.moveWorms =
    { (s.crossAll (6 * (s.rq.length + 1))).addF F.FAN_STATUS_BRANCH_STALLS 0 (s.crossedAll.filter Worm.stalls).length with
      rq := (s.crossedAll.map Worm.settled).filter (fun w => !w.over)
      inbox := (s.crossAll (6 * (s.rq.length + 1))).inbox ++ (s.crossedAll.filter Worm.done).map (·.pkt) } := rfl

theorem moveWorms_spec (s : State) : s.moveWorms.rq = (s.crossedAll.map Worm.settled).filter (fun w => !w.over) ∧
    s.moveWorms.inbox = (s.crossAll (6 * (s.rq.length + 1))).inbox ++ (s.crossedAll.filter Worm.done).map (·.pkt) := by
  rw [moveWorms_def]
  exact ⟨by dsimp only, by dsimp only⟩

theorem passOn_queue (s : State) : s.passOn.rq = (s.crossedAll.map Worm.settled).filter (fun w => !w.over) :=
  (passOn_rq s).trans (moveWorms_spec s).1

theorem setFs_inbox (s : State) (i : Nat) (l : List (Fld × Nat)) : (s.setFs i l).inbox = s.inbox := by rw [setFs_eq]

theorem addF_inbox (s : State) (f : Fld) (i n : Nat) : (s.addF f i n).inbox = s.inbox := rfl

theorem refreshPool_inbox (s : State) (j : Nat) : (s.refreshPool j).inbox = s.inbox := setFs_inbox s j _

theorem refreshPort_inbox (s : State) (q : Nat) : (s.refreshPort q).inbox = s.inbox :=
  (refreshPool_inbox _ _).trans ((addF_inbox _ _ _ _).trans (setFs_inbox s q _))

theorem passOn_inbox (s : State) : s.passOn.inbox = s.inbox ++ (s.crossedAll.filter Worm.done).map (·.pkt) := by
  have hc : (s.crossAll (6 * (s.rq.length + 1))).inbox = s.inbox := by rw [crossAll_rq]
  have hf : ∀ (l : List Nat) (t : State), (l.foldl State.refreshPort t).inbox = t.inbox := fun l => by
    induction l with
    | nil => exact fun _ => rfl
    | cons q l ih =>
      intro t
      rw [List.foldl_cons, ih, refreshPort_inbox]
  unfold State.passOn
  dsimp only
  rw [refreshPool_inbox, refreshPool_inbox, hf, (moveWorms_spec s).2, hc]

theorem cross_here (w u : Worm) (q v n c : Nat) (fs : List TxFlit) : (w.cross q v n c fs u).here = u.here := by
  unfold Worm.cross
  split
  · rfl
  · split <;> rfl

theorem crossHinge_here (h : ∀ w ∈ s.rq, w.here = false) (j v : Nat) : ∀ w ∈ (s.crossHinge j v).rq, w.here = false := by
  have hc : ∀ (w : Worm) (n m : Nat) (fs : List TxFlit), ∀ u ∈ s.rq.map (w.cross (36 + j) v n m fs), u.here = false := by
    intro w n m fs u hu
    obtain ⟨y, hy, rfl⟩ := List.mem_map.1 hu
    exact (cross_here w y _ _ _ _ fs).trans (h y hy)
  unfold State.crossHinge
  cases s.holder (36 + j) v with
  | none => exact h
  | some w =>
    dsimp only
    cases w.outs.find? (fun b => b.port == 36 + j && b.vc == v) with
    | none => exact h
    | some b =>
      dsimp only
      by_cases hn : (if w.pkt.fan = true then b.taken else w.flits.length) ≤ b.sent
      · rw [if_pos hn]
        exact h
      · rw [if_neg hn]
        exact hc w _ _ _

theorem crossAll_here (fuel : Nat) (h : ∀ w ∈ s.rq, w.here = false) : ∀ w ∈ (s.crossAll fuel).rq, w.here = false := by
  induction fuel generalizing s with
  | zero => exact h
  | succ n ih =>
    have h1 : ∀ w ∈ s.stirred.rq, w.here = false := fun w hw => by
      obtain ⟨u, hu, rfl⟩ := List.mem_map.1 hw
      exact (advance_advanced u 18).here.trans (h u hu)
    have h2 : ∀ w ∈ (hingePairs.foldl (fun s x => s.crossHinge x.1 x.2) s.stirred).rq, w.here = false :=
      List.foldlRecOn (motive := fun t : State => ∀ w ∈ t.rq, w.here = false) _ _ h1 fun t ht x _ => crossHinge_here ht x.1 x.2
    rw [crossAll_succ]
    split
    · exact h1
    · exact ih h2

/-- Nothing is delivered where no packet is for the package. -/
theorem passOn_inbox_none (h : ∀ w ∈ s.rq, w.here = false) : s.passOn.inbox = s.inbox := by
  rw [passOn_inbox, List.filter_eq_nil_iff.2, List.map_nil, List.append_nil]
  intro w hw
  rw [Worm.done, crossAll_here _ h w hw]
  simp

/-- A packet for the package that has come whole, with all its outputs served, is delivered. -/
theorem passOn_delivers (hx : s.crossedAll = [u]) (ha : x.Advanced u) (hs : x.seen = true) (hh : x.here = true) (hc : x.complete = true)
    (ho : ∀ b ∈ x.outs, x.pkt.flits ≤ b.sent) : s.passOn.rq = [] ∧ s.passOn.inbox = s.inbox ++ [x.pkt] := by
  have hcu : u.complete = true := by
    unfold Worm.complete at hc ⊢
    rw [ha.flits, ha.pkt]
    exact hc
  have hou : ∀ b ∈ u.outs, u.pkt.flits ≤ b.sent := fun b hb => by
    have hm : (b.port, b.vc, b.sent) ∈ x.outs.map (fun b => (b.port, b.vc, b.sent)) := ha.outs ▸ List.mem_map.2 ⟨b, hb, rfl⟩
    obtain ⟨c, hc, e⟩ := List.mem_map.1 hm
    simp only [Prod.mk.injEq] at e
    rw [ha.pkt, ← e.2.2]
    exact ho c hc
  have hd : u.done = true := by
    have : u.crossed = true := List.all_eq_true.2 fun b hb => by simp [hou b hb]
    rw [Worm.done, ha.seen, hs, ha.here, hh, hcu, this]
    rfl
  have hov : u.settled.over = true := by
    have h1 : u.settled.here = false := by rw [Worm.settled, hd]; simp
    have h2 : u.settled.outs.all (fun b => decide (u.settled.pkt.flits ≤ b.sent)) = true :=
      List.all_eq_true.2 fun b hb => decide_eq_true (hou b hb)
    have h3 : u.settled.seen = true := ha.seen.trans hs
    have h4 : u.settled.complete = true := hcu
    rw [Worm.over, h1, h2, h3, h4]
    rfl
  rw [passOn_queue, passOn_inbox, hx, List.map_singleton, List.filter_singleton, List.filter_singleton, hov, hd, ← ha.pkt]
  exact ⟨rfl, rfl⟩

/-- A packet that waits at a port, with nothing sent, stays as it is. -/
theorem settled_waits (hf : w.pkt.fan = false) (hh : w.here = false) (ho : w.outs = [⟨q, v, 0, 0⟩]) (h0 : 0 < w.pkt.flits) :
    w.settled = w ∧ w.over = false ∧ w.done = false := by
  have hst : w.stalls = false := by rw [Worm.stalls, hf]; simp
  have hd : w.done = false := by rw [Worm.done, hh]; simp
  refine ⟨?_, ?_, hd⟩
  · rw [Worm.settled, hst, hd]
    simp
  · rw [Worm.over, ho]
    simp only [List.all_cons, List.all_nil, Bool.and_true]
    rw [decide_eq_false (by omega : ¬ w.pkt.flits ≤ 0), Bool.and_false]

/-! ## The lookup of a packet alone -/

theorem countTies_eq (s : State) (c : Nat) : s.countTies c = { s with regs := (s.countTies c).regs, parts := (s.countTies c).parts } := by
  unfold State.countTies
  dsimp only
  refine List.foldlRecOn (motive := fun t : State => t = { s with regs := t.regs, parts := t.parts }) _ _ rfl fun t ht x _ => ?_
  rw [ht]
  rfl

theorem countTies_keeps (s : State) (c : Nat) : s.KeepsRegs (s.countTies c) [.CTL_VAR, .CTL_VARC, .CTL_VARP] := by
  unfold State.countTies
  dsimp only
  refine List.foldlRecOn (motive := fun t : State => s.KeepsRegs t [.CTL_VAR, .CTL_VARC, .CTL_VARP]) _ _ (.refl s _) fun t ht x _ => ?_
  refine ht.trans fun g j hg => ?_
  simp only [List.mem_cons, List.not_mem_nil, or_false, not_or] at hg
  exact getF_vary hg.1 hg.2.1 hg.2.2

theorem countTies_part (s : State) (c p : Nat) : ((s.countTies c).part p).aborted = (s.part p).aborted ∧
    ((s.countTies c).part p).running = (s.part p).running := by
  unfold State.countTies
  dsimp only
  refine List.foldlRecOn (motive := fun t : State => (t.part p).aborted = (s.part p).aborted ∧ (t.part p).running = (s.part p).running)
    _ _ ⟨rfl, rfl⟩ fun t ht x _ => ?_
  unfold State.vary
  by_cases h : p = x
  · subst h
    rw [modPart_part_same]
    exact ht
  · rw [modPart_part_ne _ h]
    exact ht

theorem sameCycle_one (hs : w.seen = false) (n : Nat) : sameCycle [w] (n + 1) [] = [w] := by
  unfold sameCycle
  rw [if_neg (by simp [hs])]
  cases n <;> rfl

theorem same_self (w : Worm) : w.same w = true := by simp [Worm.same]

theorem lookup_def (s : State) (c : Nat) (h : Worm) : s.lookup c h =
    { (s.route h.pkt).1 with rq := (s.route h.pkt).1.rq.flatMap (fun u =>
        if u.same h ∧ ¬ u.seen then (s.route h.pkt).2.worms u c (s.route h.pkt).1.now else [u]) } := rfl

/-- The state once the only packet at the routers is looked up, before what is due is passed on. -/
def State.lookedUp (s : State) (w : Worm) : State := (s.lookup w.cycle w).countTies w.cycle

theorem routeLookup_one (hrq : s.rq = [w]) (hs : w.seen = false) (ties : Nat) :
    exec (.routeLookup ties) s = .next (s.lookedUp w).passOn := by
  change execRouteLookup ties s = _
  unfold execRouteLookup
  rw [hrq, sameCycle_one hs]
  rfl

theorem lookedUp_spec (hr : s.route w.pkt = (t, r)) (hrq : t.rq = [w]) (hs : w.seen = false) :
    (s.lookedUp w).rq = r.worms w w.cycle t.now ∧ (s.lookedUp w).inbox = t.inbox ∧ (s.lookedUp w).mem = t.mem := by
  have e : s.lookup w.cycle w = { t with rq := r.worms w w.cycle t.now } := by
    rw [lookup_def, hr]
    dsimp only
    rw [hrq]
    simp [same_self, hs]
  unfold State.lookedUp
  rw [countTies_eq, e]
  exact ⟨rfl, rfl, rfl⟩

/-- A packet that the lookup does not discard at once. -/
def State.admitsHead (s : State) (k : Packet) : Prop := ¬ ((s.part k.part).quieting = true ∧ k.quiet = true)

theorem route_local (ha : s.admitsHead k) (hf : k.fan = false) (hd : k.dnode = s.node) (hl : k.lands = false) :
    s.route k = (s, ⟨k, [], true⟩) := by
  unfold State.route
  rw [if_neg (by rw [Bool.and_eq_true]; exact ha), if_neg (by simp [hf]), if_pos hd, State.local', if_neg (by simp [hl])]

/-! ## A packet for the package -/

theorem worms_local (k : Packet) (w : Worm) (c now : Nat) : ∃ x : Worm, (⟨k, [], true⟩ : Routed).worms w c now = [x] ∧ x.pkt = k ∧
    x.flits = w.flits ∧ x.seen = true ∧ x.here = true ∧
    (x.outs = [] ∨ x.outs = [⟨36 + w.jamb, w.pkt.vc, 0, 0⟩]) := by
  unfold Routed.worms Routed.outsAt
  by_cases h : w.input = 0
  · simp [h]
  · simp [h]

theorem crossedAll_still (h : HingeFree s.rq) : s.crossedAll = s.rq.map (fun w => w.advance 18) := by
  unfold State.crossedAll
  rw [show 6 * (s.rq.length + 1) = (6 * s.rq.length + 5) + 1 by ring, crossAll_still h]
  rfl

/-- A whole packet that is for the package is delivered, across the hinge where it must. -/
theorem passOn_local (hrq : s.rq = [x]) (hf : x.pkt.fan = false) (hs : x.seen = true) (hh : x.here = true) (hc : x.complete = true)
    (ho : x.outs = [] ∨ (x.outs = [⟨36 + j, v, 0, 0⟩] ∧ j < 2 ∧ v < 6)) : s.passOn.rq = [] ∧ s.passOn.inbox = s.inbox ++ [x.pkt] := by
  by_cases hfree : ∀ b ∈ x.outs, x.pkt.flits ≤ b.sent
  · have hx : s.crossedAll = [x.advance 18] := by
      rw [crossedAll_still, hrq, List.map_singleton]
      rw [hrq]
      intro y hy b hb
      obtain rfl := List.mem_singleton.1 hy
      exact .inr (hfree b hb)
    exact passOn_delivers hx (advance_advanced x 18) hs hh hc hfree
  · obtain ⟨ho, hj, hv⟩ := ho.resolve_left fun h => hfree (by simp [h])
    have h0 : 0 < x.pkt.flits := by
      by_contra h
      exact hfree fun b _ => by omega
    have hcr : x.Crossing j v := ⟨hj, hv, hf, ho, hc, h0⟩
    have hx : s.crossedAll = [(x.gone j v).advance 18] := by
      unfold State.crossedAll
      rw [hrq, show 6 * ([x].length + 1) = 10 + 2 from rfl, crossAll_crosses (rest := []) hcr hrq (by simp) (by simp)]
      · rfl
      · intro y hy b hb
        obtain rfl := List.mem_singleton.1 hy
        obtain rfl := List.mem_singleton.1 hb
        exact .inr (le_refl _)
    exact passOn_delivers (x := x.gone j v) hx (advance_advanced _ 18) hs hh hc fun b hb => by
      obtain rfl := List.mem_singleton.1 hb
      exact le_refl _

theorem passOn_mem (s : State) : s.passOn.mem = s.mem := State.Moves.passOn.mem

/-! ## A planned packet at its port -/

theorem wakeBy_eq (s : State) (q p v : Nat) : s.wakeBy q p v =
    { s with regs := (s.wakeBy q p v).regs, parts := (s.wakeBy q p v).parts, ports := (s.wakeBy q p v).ports
             locks := (s.wakeBy q p v).locks, waking := (s.wakeBy q p v).waking } := by
  unfold State.wakeBy State.wakePort
  split
  · rw [setPstate_eq, stir_eq]
    split
    · rw [varyPort_eq]
      rfl
    · rfl
  · rfl

/-- The VC on which a planned packet leaves by entry `e`. -/
def plannedVc (k : Packet) (e : Nat) : Nat := if k.vc = 0 ∧ eDateline e = true then 1 else k.vc

theorem route_planned {i e : Nat} (ha : s.admitsHead k) (hf : k.fan = false) (hd : k.dnode ≠ s.node) (hv : k.vc ≤ 2)
    (hset : s.getF F.RTE_PSET_SET k.part ≠ 0)
    (he : s.findEntry (s.tableOf k.dnode).1 k.part (s.getF F.RTE_PSET_SET k.part) (s.tableOf k.dnode).2 = some (i, e))
    (ho : s.ownsPort k.part (ePlanned e) = true) (hdrop : (s.port (ePlanned e)).drop = false) :
    s.route k = (s.wakeBy (ePlanned e) k.part (plannedVc k e), ⟨k, [⟨ePlanned e, plannedVc k e, 0, 0⟩], false⟩) := by
  unfold State.route
  rw [if_neg (by rw [Bool.and_eq_true]; exact ha), if_neg (by simp [hf]), if_neg hd]
  dsimp only
  rw [if_pos hv, if_neg hset, he]
  dsimp only
  rw [if_neg (by simp [ho]), State.oneOut, State.openBranch, if_neg (by simp [hdrop])]
  rfl

theorem ownsPort_lt (h : s.ownsPort p q = true) : q < 36 := by
  unfold State.ownsPort at h
  exact of_decide_eq_true (Bool.and_eq_true _ _ ▸ h).1

/-- A packet at its own jamb's port, or of a core or unit, stands at the port. -/
theorem worms_near (hq : q < 36) (hj : w.input = 0 ∨ w.jamb = q / 18) (v c now : Nat) :
    (⟨w.pkt, [⟨q, v, 0, 0⟩], false⟩ : Routed).worms w c now =
      [{ w with seen := true, here := false, since := now, cycle := c, jamb := q / 18, outs := [⟨q, v, 0, 0⟩] }] := by
  unfold Routed.worms Routed.outsAt
  have h2 : q / 18 = 0 ∨ q / 18 = 1 := by omega
  by_cases h : w.input = 0
  · rcases h2 with h2 | h2 <;> simp [h, h2]
  · have e := hj.resolve_left h
    rcases h2 with h2 | h2 <;> simp [h, e, h2]

/-- The packet at the near jamb on its way to the hinge, and where it will stand at the far one. -/
def Worm.atHinge (w : Worm) (c now : Nat) : Worm :=
  { w with seen := true, here := false, since := now, cycle := c, outs := [⟨36 + w.jamb, w.pkt.vc, 0, 0⟩] }
def Worm.beyond (w : Worm) (q v c now : Nat) : Worm :=
  { w with seen := true, here := false, since := now, cycle := 0, flits := [], freed := 0, outs := [⟨q, v, 0, 0⟩], jamb := q / 18
           hinge := true, feed := some (c, w.input) }

theorem worms_far (hq : q < 36) (hi : w.input ≠ 0) (hj2 : w.jamb < 2) (hj : w.jamb ≠ q / 18) (v c now : Nat) :
    (⟨w.pkt, [⟨q, v, 0, 0⟩], false⟩ : Routed).worms w c now = [w.atHinge c now, w.beyond q v c now] := by
  unfold Routed.worms Routed.outsAt Worm.atHinge Worm.beyond
  have h2 : q / 18 = 0 ∨ q / 18 = 1 := by omega
  have h1 : w.jamb = 0 ∨ w.jamb = 1 := by omega
  rcases h2 with h2 | h2 <;> rcases h1 with h1 | h1 <;> simp [h2, h1] at hj ⊢ <;> simp [*]

theorem passOn_waits (hrq : s.rq = [w]) (hq : q < 36) (hf : w.pkt.fan = false) (hh : w.here = false) (ho : w.outs = [⟨q, v, 0, 0⟩])
    (h0 : 0 < w.pkt.flits) : s.passOn.rq = [w] ∧ s.passOn.inbox = s.inbox := by
  obtain ⟨h1, h2, h3⟩ := settled_waits hf hh ho h0
  have hx : s.crossedAll = [w] := by
    rw [crossedAll_still, hrq, List.map_singleton, advance_fresh hf ho]
    rw [hrq]
    intro y hy b hb
    obtain rfl := List.mem_singleton.1 hy
    rw [ho] at hb
    obtain rfl := List.mem_singleton.1 hb
    exact .inl hq
  rw [passOn_queue, passOn_inbox, hx, List.map_singleton, h1, List.filter_singleton, List.filter_singleton, h2, h3]
  exact ⟨rfl, by simp⟩

theorem input_beyond (w : Worm) (q v c now : Nat) : (w.beyond q v c now).input = 0 := rfl

theorem input_atHinge (w : Worm) (c now : Nat) : (w.atHinge c now).input = w.input := rfl

/-- The packet at the far jamb once its flits have come. -/
theorem cross_beyond (hi : w.input ≠ 0) (a b n c now c' : Nat) (fs : List TxFlit) :
    (w.atHinge c now).cross a b n c' fs (w.beyond q v c now) = { w.beyond q v c now with flits := fs, cycle := c' } := by
  have hne : (w.beyond q v c now).same (w.atHinge c now) = false := by
    unfold Worm.same
    rw [input_beyond, input_atHinge]
    simp [Ne.symm hi]
  unfold Worm.cross
  rw [hne, if_neg (by decide), if_pos (by rw [input_atHinge]; rfl)]
  rfl

/-- A packet that must cross stands at the port of the far jamb. -/
theorem passOn_crosses {c now : Nat} (hrq : s.rq = [w.atHinge c now, w.beyond q v c now]) (hq : q < 36) (hi : w.input ≠ 0) (hj : w.jamb < 2)
    (hv : w.pkt.vc < 6) (hf : w.pkt.fan = false) (hc : w.complete = true) (h0 : 0 < w.pkt.flits) :
    s.passOn.rq = [{ w.beyond q v c now with flits := w.flits, cycle := s.nextCycle }] ∧ s.passOn.inbox = s.inbox := by
  have hcr : (w.atHinge c now).Crossing w.jamb w.pkt.vc := ⟨hj, hv, hf, rfl, hc, h0⟩
  have hbf : ∀ fs c', ({ w.beyond q v c now with flits := fs, cycle := c' } : Worm).advance 18 = { w.beyond q v c now with flits := fs, cycle := c' } :=
    fun fs c' => advance_fresh (w := { w.beyond q v c now with flits := fs, cycle := c' }) (q := q) (v := v) hf rfl 17
  have hfresh : (w.beyond q v c now).advance 18 = w.beyond q v c now := advance_fresh (w := w.beyond q v c now) (q := q) (v := v) hf rfl 17
  have hover : s.overHinge (w.atHinge c now) w.jamb w.pkt.vc [w.beyond q v c now] =
      [(w.atHinge c now).gone w.jamb w.pkt.vc, { w.beyond q v c now with flits := w.flits, cycle := s.nextCycle }] := by
    unfold State.overHinge
    rw [List.map_singleton, cross_beyond hi]
    rfl
  have hx : s.crossedAll = [((w.atHinge c now).gone w.jamb w.pkt.vc).advance 18,
      { w.beyond q v c now with flits := w.flits, cycle := s.nextCycle }] := by
    unfold State.crossedAll
    rw [hrq, show 6 * ([w.atHinge c now, w.beyond q v c now].length + 1) = 16 + 2 from rfl,
      crossAll_crosses (rest := [w.beyond q v c now]) hcr hrq]
    · change (s.overHinge (w.atHinge c now) w.jamb w.pkt.vc [w.beyond q v c now]).map (fun w => w.advance 18) = _
      rw [hover, List.map_cons, List.map_singleton, hbf]
    · intro u hu
      obtain rfl := List.mem_singleton.1 hu
      exact hfresh
    · intro u hu i y
      obtain rfl := List.mem_singleton.1 hu
      rfl
    · rw [hover]
      intro y hy b hb
      rcases List.mem_cons.1 hy with rfl | hy
      · obtain rfl := List.mem_singleton.1 hb
        exact .inr (le_refl _)
      · obtain rfl := List.mem_singleton.1 hy
        obtain rfl := List.mem_singleton.1 hb
        exact .inl hq
  obtain ⟨h1, h2, h3⟩ := settled_waits (w := { w.beyond q v c now with flits := w.flits, cycle := s.nextCycle }) (q := q) (v := v) hf rfl rfl h0
  have ha := advance_advanced ((w.atHinge c now).gone w.jamb w.pkt.vc) 18
  generalize ((w.atHinge c now).gone w.jamb w.pkt.vc).advance 18 = y at hx ha
  have hyh : y.here = false := ha.here
  have hyd : y.done = false := by rw [Worm.done, hyh]; simp
  have hyo : y.settled.over = true := by
    have h1 : y.settled.here = false := by rw [Worm.settled, hyh]; rfl
    have h2 : y.settled.outs.all (fun b => decide (y.settled.pkt.flits ≤ b.sent)) = true := List.all_eq_true.2 fun b hb => by
      have hm : (b.port, b.vc, b.sent) ∈ ((w.atHinge c now).gone w.jamb w.pkt.vc).outs.map (fun b => (b.port, b.vc, b.sent)) :=
        ha.outs ▸ List.mem_map.2 ⟨b, hb, rfl⟩
      have e := List.mem_singleton.1 hm
      simp only [Prod.mk.injEq] at e
      refine decide_eq_true ?_
      change y.pkt.flits ≤ b.sent
      rw [ha.pkt, e.2.2]
      exact le_refl _
    have h3 : y.settled.seen = true := ha.seen
    have h4 : y.settled.complete = true := by
      change (y.flits.length == y.pkt.flits) = true
      rw [ha.flits, ha.pkt]
      exact hc
    rw [Worm.over, h1, h2, h3, h4]
    rfl
  rw [passOn_queue, passOn_inbox, hx, List.map_cons, List.map_singleton, h1]
  simp [h2, h3, hyd, hyo]

end Sys2Proof.Machine
end

section
/-! SUPPORT. A planned packet that misses, the writes of the route tables, and the routing of packets. -/

namespace Sys2Proof.Machine

variable {s t : State} {w u x : Worm} {p q v j : Nat} {r : Routed} {k : Packet}

/-! ## What an abort leaves at the routers -/

/-- Of the packets of `t` each stood in `s` or is not for the package; what waits to land waited in `s`. -/
structure State.Thins (s t : State) : Prop where
  queue : ∀ u ∈ t.rq, u ∈ s.rq ∨ u.here = false
  inbox : ∀ k ∈ t.inbox, k ∈ s.inbox

namespace State.Thins

theorem of_eq (hq : t.rq = s.rq) (hi : t.inbox = s.inbox) : s.Thins t := ⟨fun _ h => .inl (hq ▸ h), fun _ h => hi ▸ h⟩

theorem trans {u : State} (h : s.Thins t) (h' : t.Thins u) : s.Thins u :=
  ⟨fun x hx => (h'.queue x hx).elim (h.queue x) .inr, fun k hk => h.inbox k (h'.inbox k hk)⟩

theorem purge (s : State) (p : Nat) : s.Thins (s.purge p) := by
  refine ⟨fun u hu => ?_, fun k hk => (List.mem_filter.1 hk).1⟩
  obtain ⟨y, hy, rfl⟩ := List.mem_map.1 hu
  split
  · exact .inr rfl
  · exact .inl (List.mem_filter.1 hy).1

theorem setFs (s : State) (i : Nat) (l : List (Fld × Nat)) : s.Thins (s.setFs i l) := of_eq (setFs_rq s i l) (setFs_inbox s i l)

theorem sendAbort (s : State) (p cause detail : Nat) : s.Thins (s.sendAbort p cause detail) := by
  unfold State.sendAbort
  split
  · exact of_eq rfl rfl
  · refine ⟨fun u hu => ?_, fun _ h => h⟩
    rcases List.mem_append.1 hu with h | h
    · exact .inl h
    · obtain rfl := List.mem_singleton.1 h
      exact .inr rfl

theorem abortApply (s : State) (p st : Nat) : s.Thins (s.abortApply p st) := by
  rw [abortApply_eq]
  have hd : s.Thins (s.dropped p) := by
    have h := (dropped_drops (s := s) (p := p)).frame
    generalize s.dropped p = u at h
    rw [h]
    exact of_eq rfl rfl
  refine trans (trans (hd.trans (setFs _ p [(F.CTL_ABORT_QUIET, 1), (F.LATCH_START_WAITING, 0)])) ?_) (purge _ p)
  exact of_eq rfl rfl

theorem lateAbort (s : State) (p : Nat) : s.Thins (s.lateAbort p) := by
  rw [lateAbort_eq]
  refine trans (trans (setFs s p [(F.CTL_ABORT_LATE, 1), (F.CTL_ABORT_QUIET, 1)]) ?_) (purge _ p)
  exact of_eq rfl rfl

theorem logEvent (s : State) {sev : Nat} (h : sev ≠ 3) (code part : Nat) (args : List Nat) : s.Thins (s.logEvent sev code part args) := by
  rw [logEvent_quiet h]
  exact of_eq (logNote_rq ..) (logNote_inbox ..)

theorem abortStep (s : State) (p cause detail : Nat) : s.Thins (s.abortStep p cause detail) := by
  unfold State.abortStep
  dsimp only
  have h0 : s.Thins (s.addF F.CTL_ABORT_COUNT p 1) := of_eq rfl rfl
  generalize s.addF F.CTL_ABORT_COUNT p 1 = u at h0 ⊢
  have hr : s.Thins ((u.recordAbort p u.node cause detail).sendAbort p cause detail) :=
    (h0.trans (setFs u p _)).trans (sendAbort _ p cause detail)
  generalize (u.recordAbort p u.node cause detail).sendAbort p cause detail = y at hr ⊢
  split
  · exact (hr.trans (abortApply y p _)).trans (logEvent _ (by decide) _ _ _)
  · split
    · exact (hr.trans (lateAbort y p)).trans (logEvent _ (by decide) _ _ _)
    · exact h0

theorem missRecord (s : State) (k : Packet) : s.Thins (s.missRecord k) := by
  unfold State.missRecord
  dsimp only
  have h0 : s.Thins (s.addF F.RTE_STATUS_MISSES 0 1) := of_eq rfl rfl
  split
  · exact h0.trans (of_eq rfl rfl)
  · exact h0.trans (setFs _ 0 _)

end State.Thins

/-! ## A miss -/

theorem missRecord_eq (s : State) (k : Packet) : s.missRecord k = { s with regs := (s.missRecord k).regs } := by
  unfold State.missRecord
  dsimp only
  split
  · rfl
  · rw [setFs_eq]
    rfl

theorem missRecord_misses (s : State) (k : Packet) :
    (s.missRecord k).getF F.RTE_STATUS_MISSES 0 = satAdd F.RTE_STATUS_MISSES.w (s.getF F.RTE_STATUS_MISSES 0) 1 := by
  unfold State.missRecord
  dsimp only
  split
  · rw [getF_setF_apart _ (by decide) (.inl (by decide)), getF_addF_same (by decide)]
  · rw [getF_setFs_ne, getF_addF_same (by decide)]
    simp only [List.forall_mem_cons]
    exact ⟨.inl (by decide), .inl (by decide), .inl (by decide), .inl (by decide), .inl (by decide), .inl (by decide), by simp⟩

/-- No entry serves a planned packet of the partition. -/
def State.noRoute (s : State) (k : Packet) : Prop :=
  s.getF F.RTE_PSET_SET k.part = 0 ∨
    ∀ i e, s.findEntry (s.tableOf k.dnode).1 k.part (s.getF F.RTE_PSET_SET k.part) (s.tableOf k.dnode).2 = some (i, e) →
      s.ownsPort k.part (ePlanned e) = false

theorem route_misses (ha : s.admitsHead k) (hf : k.fan = false) (hd : k.dnode ≠ s.node) (hv : k.vc ≤ 2) (hn : s.noRoute k) :
    s.route k = (s.missPlanned k, swallow k) := by
  unfold State.route
  rw [if_neg (by rw [Bool.and_eq_true]; exact ha), if_neg (by simp [hf]), if_neg hd]
  dsimp only
  rw [if_pos hv]
  rcases hn with h0 | hn
  · rw [if_pos h0]
  · split
    · rfl
    · next i e he =>
      by_cases h0 : s.getF F.RTE_PSET_SET k.part = 0
      · rw [if_pos h0] at he
        cases he
      · rw [if_neg h0] at he
        rw [if_pos (by simp [hn i e he])]

theorem worms_swallow (k : Packet) (w : Worm) (c now : Nat) : ∀ u ∈ (swallow k).worms w c now, u.here = false := by
  unfold Routed.worms Routed.outsAt swallow
  by_cases h : w.input = 0
  · simp [h]
  · simp [h]

theorem lookup_misses (hr : s.route w.pkt = (t, swallow w.pkt)) (ht : s.Thins t) (hrq : s.rq = [w]) (hs : w.seen = false) (c : Nat) :
    ∀ u ∈ (s.lookup c w).rq, u.here = false := by
  intro u hu
  rw [lookup_def, hr] at hu
  obtain ⟨y, hy, hu⟩ := List.mem_flatMap.1 hu
  split at hu
  · exact worms_swallow _ _ _ _ u hu
  · next hn =>
    obtain rfl := List.mem_singleton.1 hu
    rcases ht.queue _ hy with h | h
    · rw [hrq] at h
      obtain rfl := List.mem_singleton.1 h
      exact absurd ⟨same_self _, by simp [hs]⟩ hn
    · exact h

theorem passOn_part (s : State) (p : Nat) : s.passOn.part p = s.part p := by
  have h := (State.Moves.passOn (s := s)).frame
  generalize s.passOn = u at h
  rw [h]
  rfl

/-- A planned packet that no entry serves. -/
theorem lookup_miss (hrq : s.rq = [w]) (hs : w.seen = false) (ha : s.admitsHead w.pkt) (hf : w.pkt.fan = false) (hd : w.pkt.dnode ≠ s.node)
    (hv : w.pkt.vc ≤ 2) (hn : s.noRoute w.pkt) :
    (∀ k ∈ (s.lookedUp w).passOn.inbox, k ∈ s.inbox) ∧ (s.lookedUp w).passOn.mem = s.mem ∧
      (s.lookedUp w).passOn.getF F.RTE_STATUS_MISSES 0 = satAdd F.RTE_STATUS_MISSES.w (s.getF F.RTE_STATUS_MISSES 0) 1 ∧
      (s.stepActive w.pkt.part = true → ((s.lookedUp w).passOn.part w.pkt.part).aborted = true ∧
        ((s.lookedUp w).passOn.part w.pkt.part).running = false) := by
  have hr := route_misses ha hf hd hv hn
  have ht : s.Thins (s.missPlanned w.pkt) := (State.Thins.missRecord s w.pkt).trans (.abortStep _ _ 6 0)
  have hop : (s.missRecord w.pkt).AbortOp (s.missPlanned w.pkt) := .abortStep _ 6 0
  have hh := lookup_misses hr ht hrq hs w.cycle
  have hl : ∃ ws, s.lookup w.cycle w = { s.missPlanned w.pkt with rq := ws } := by
    rw [lookup_def, hr]
    exact ⟨_, rfl⟩
  obtain ⟨ws, hl⟩ := hl
  have hq : ∀ u ∈ (s.lookedUp w).rq, u.here = false := by
    unfold State.lookedUp
    rw [countTies_eq]
    exact hh
  have hin : (s.lookedUp w).inbox = (s.missPlanned w.pkt).inbox := by
    unfold State.lookedUp
    rw [countTies_eq, hl]
  have hmem : (s.lookedUp w).mem = s.mem := by
    have h1 : (s.lookedUp w).mem = (s.missPlanned w.pkt).mem := by
      unfold State.lookedUp
      rw [countTies_eq, hl]
    rw [h1, hop.mem, missRecord_eq]
  have hpart : ((s.lookedUp w).part w.pkt.part).aborted = ((s.missPlanned w.pkt).part w.pkt.part).aborted ∧
      ((s.lookedUp w).part w.pkt.part).running = ((s.missPlanned w.pkt).part w.pkt.part).running := by
    have h := countTies_part (s.lookup w.cycle w) w.cycle w.pkt.part
    rw [hl] at h
    unfold State.lookedUp
    rw [hl]
    exact h
  refine ⟨?_, (passOn_mem _).trans hmem, ?_, fun hact => ?_⟩
  · rw [passOn_inbox_none hq, hin]
    exact ht.inbox
  · have hmiss : (s.missPlanned w.pkt).getF F.RTE_STATUS_MISSES 0 = satAdd F.RTE_STATUS_MISSES.w (s.getF F.RTE_STATUS_MISSES 0) 1 :=
      (hop.regs F.RTE_STATUS_MISSES 0 (by decide)).trans (missRecord_misses s w.pkt)
    rw [State.Moves.passOn.regs F.RTE_STATUS_MISSES 0 (by decide), State.lookedUp, countTies_keeps _ _ F.RTE_STATUS_MISSES 0 (by decide), hl]
    exact hmiss
  · have hact' : (s.missRecord w.pkt).stepActive w.pkt.part = true := by
      rw [missRecord_eq]
      exact hact
    obtain ⟨st, h, e⟩ := (abortStep_aborts hact' 6 0).part
    rw [passOn_part, hpart.1, hpart.2, State.missPlanned, e]
    exact ⟨rfl, rfl⟩

/-! ## The tables -/

theorem writeEntry_spec (s : State) (mbr : Bool) (i : Nat) (v : Word64) :
    (let r : Reg := if mbr then .RTE_MBR else .RTE_GRP
     let w := setBits v.toNat 0 8 (s.rdReg r i % 4)
     let bad := s.entryOk mbr i w = false ∨ s.entryLive (s.rdReg r i) = true ∨ s.entryLive w = true
     (bad → s.writeEntry mbr i v.toNat = s.setF F.RTE_STATUS_REJECT 0 1) ∧ (¬ bad → s.writeEntry mbr i v.toNat = s.wrReg r i w)) := by
  intro r w bad
  have hb : (¬ s.entryOk mbr i w ∨ s.entryLive (s.rdReg r i) ∨ s.entryLive w) ↔ bad := by simp [bad]
  exact ⟨fun h => if_pos (hb.2 h), fun h => if_neg fun h' => h (hb.1 h')⟩

theorem reject_only (s : State) : s.Only (s.setF F.RTE_STATUS_REJECT 0 1) [(F.RTE_STATUS_REJECT, 0)] ∧
    (s.setF F.RTE_STATUS_REJECT 0 1).flag F.RTE_STATUS_REJECT 0 = true := by
  refine ⟨⟨rfl, regsBut_setF s (by decide)⟩, ?_⟩
  rw [State.flag, getF_setF_same s (by decide)]
  rfl

theorem setBits_word_lt (v : Word64) {lo k : Nat} (n : Nat) (h : lo + k ≤ 64) : setBits v.toNat lo k n < 2 ^ 64 :=
  setBits_lt_pow v.isLt h

theorem writeFan_cases (s : State) (c m n : Nat) : s.writeFan c m n = s.setF F.RTE_STATUS_FAN_REJECT 0 1 ∨
    (∃ y, s.writeFan c m n = s.wrReg .FAN_CFG c y) ∨ (∃ y, s.writeFan c m n = s.wrReg .FAN_DL c y) ∨
    ∃ y, s.writeFan c m n = s.wrReg .FAN_CMASK (c * 4 + (m - 2)) y := by
  unfold State.writeFan
  dsimp only
  by_cases h : s.treeInUse (bitsOf (s.rdReg .FAN_CFG c) 59 4) c = true ∨
      ¬ s.fanEntryOk (if m = 0 then setBits n 36 13 0 else s.rdReg .FAN_CFG c) (if m = 1 then n % 2 ^ 36 else s.rdReg .FAN_DL c) = true
  · rw [if_pos h]
    exact .inl rfl
  · rw [if_neg h]
    match m with
    | 0 => exact .inr (.inl ⟨_, rfl⟩)
    | 1 => exact .inr (.inr (.inl ⟨_, rfl⟩))
    | _ + 2 => exact .inr (.inr (.inr ⟨_, rfl⟩))

theorem fanReject_only (s : State) : (s.setF F.RTE_STATUS_FAN_REJECT 0 1).flag F.RTE_STATUS_FAN_REJECT 0 = true ∧
    s.Only (s.setF F.RTE_STATUS_FAN_REJECT 0 1) [(F.RTE_STATUS_FAN_REJECT, 0)] := by
  refine ⟨?_, rfl, regsBut_setF s (by decide)⟩
  rw [State.flag, getF_setF_same s (by decide)]
  rfl

theorem wrReg_others (s : State) (r : Reg) (i y : Nat) {l : List (Reg × Nat)} (h : (r, i) ∈ l) : s.wrReg r i y = { s with regs := (s.wrReg r i y).regs } ∧
    ∀ r' j, (r', j) ∉ l → (s.wrReg r i y).rdReg r' j = s.rdReg r' j := by
  refine ⟨rfl, fun r' j hj => rdReg_wrReg_ne s y ?_⟩
  by_contra hc
  rw [not_or, not_not, not_not] at hc
  exact hj (hc.1 ▸ hc.2 ▸ h)

/-- Settles O50, clause by clause over the packet looked up and the tables. -/
theorem packetsAreRouted : Obligations.PacketsAreRouted := by
  unfold Obligations.PacketsAreRouted
  refine ⟨?_, ?_, ?_, ?_, ?_, ?_, ?_, ?_, ?_, ?_, ?_⟩
  · intro s ties w t h
    change execRouteLookup ties s = _
    unfold execRouteLookup
    rw [h]
  · intro s ties h
    change execRouteLookup ties s = _
    unfold execRouteLookup
    rw [h]
  · intro s ties w hrq hs hf hd hl ha hc _ hv hj
    obtain ⟨l1, l2, l3⟩ := lookedUp_spec (route_local ha hf hd hl) hrq hs
    obtain ⟨x, hx, x1, x2, x3, x4, x5⟩ := worms_local w.pkt w w.cycle s.now
    have hcx : x.complete = true := by
      unfold Worm.complete at hc ⊢
      rw [x1, x2]
      exact hc
    obtain ⟨p1, p2⟩ := passOn_local (l1.trans hx) (x1 ▸ hf) x3 x4 hcx (x5.imp_right fun h => ⟨h, hj, hv⟩)
    exact ⟨_, routeLookup_one hrq hs ties, p2.trans (by rw [l2, x1]), p1, (passOn_mem _).trans l3⟩
  · intro s ties i e w hrq hs hf hd hv ha h0 hset he ho hdrop hj
    have hq := ownsPort_lt ho
    have hr := route_planned ha hf hd hv hset he ho hdrop
    obtain ⟨l1, l2, l3⟩ := lookedUp_spec hr ((wakeBy_rq s _ _ _).trans hrq) hs
    have hnow : (s.wakeBy (ePlanned e) w.pkt.part (plannedVc w.pkt e)).now = s.now :=
      State.KeepsRegs.wakeBy s _ _ _ F.TIME_NOW_NS 0 (by decide)
    rw [worms_near hq hj, hnow] at l1
    obtain ⟨p1, p2⟩ := passOn_waits l1 hq hf rfl rfl h0
    refine ⟨_, routeLookup_one hrq hs ties, p2.trans (l2.trans (by rw [wakeBy_eq])), (passOn_mem _).trans (l3.trans (by rw [wakeBy_eq])), p1⟩
  · intro s ties i e w hrq hs hf hd hv ha h0 hc _ _ hset he ho hdrop hi hj2 hj
    have hq := ownsPort_lt ho
    have hr := route_planned ha hf hd hv hset he ho hdrop
    obtain ⟨l1, l2, l3⟩ := lookedUp_spec hr ((wakeBy_rq s _ _ _).trans hrq) hs
    rw [worms_far hq hi hj2 hj] at l1
    obtain ⟨p1, p2⟩ := passOn_crosses l1 hq hi hj2 (by omega) hf hc h0
    exact ⟨_, _, routeLookup_one hrq hs ties, p2.trans (l2.trans (by rw [wakeBy_eq])), (passOn_mem _).trans (l3.trans (by rw [wakeBy_eq])), p1,
      rfl, rfl, rfl, rfl, rfl, rfl⟩
  · intro s ties w hrq hs hf hd hv ha hn
    exact ⟨_, routeLookup_one hrq hs ties, lookup_miss hrq hs ha hf hd hv hn⟩
  · intro s mbr i v hi r w bad
    obtain ⟨h1, h2⟩ := writeEntry_spec s mbr i v
    refine ⟨_, if_neg (not_not.2 hi), fun hb => ?_, fun hb => ?_⟩
    · rw [h1 hb]
      exact reject_only s
    · rw [h2 hb]
      exact ⟨rfl, (rdReg_wrReg_same s r i w).trans (Nat.mod_eq_of_lt (setBits_word_lt v _ (by decide))), fun r' j h => rdReg_wrReg_ne s w h⟩
  · intro s t' w v ht hw
    refine ⟨_, if_neg (not_not.2 ⟨ht, hw⟩), ?_⟩
    rcases writeFan_cases s t' w v.toNat with e | ⟨y, e⟩ | ⟨y, e⟩ | ⟨y, e⟩ <;> rw [e]
    · exact wrReg_others s _ 0 _ (by simp [F.RTE_STATUS_FAN_REJECT])
    · exact wrReg_others s _ t' _ (by simp)
    · exact wrReg_others s _ t' _ (by simp)
    · exact wrReg_others s _ _ _ (by simp)
  · intro s t' v ht hu hok
    refine ⟨_, if_neg (not_not.2 ⟨ht, by decide⟩), ?_⟩
    have e : s.writeFan t' 0 v.toNat = s.wrReg .FAN_CFG t' (setBits v.toNat 36 13 0) :=
      if_neg (by simp only [not_or, not_not]; exact ⟨by simp [hu], hok⟩)
    rw [e, rdReg_wrReg_same]
    exact Nat.mod_eq_of_lt (setBits_word_lt v _ (by decide))
  · intro s t' w v ht hw hu
    have e : s.writeFan t' w v.toNat = s.setF F.RTE_STATUS_FAN_REJECT 0 1 := if_pos (.inl hu)
    exact ⟨_, (if_neg (not_not.2 ⟨ht, hw⟩)).trans (congrArg _ e), fanReject_only s⟩
  · intro s p v hp hr
    refine ⟨_, (if_neg (not_not.2 hp)).trans (if_neg (by simp [hr])), ?_, rfl, regsBut_setF s (by decide)⟩
    rw [getF_setF_same s (by decide)]
    exact Nat.mod_eq_of_lt (bitsOf_lt _ _ _)

end Sys2Proof.Machine
end

section
/-! SUPPORT. Weight records: their reads, their chains, and how they end. -/

namespace Sys2Proof.Machine

variable {s t u : State} {k r jamb qp code : Nat} {w : WRec} {sym : Syms}

/-! ## Records -/

theorem plan_congr (h : t.plans = s.plans) (k : Nat) : t.plan k = s.plan k := by rw [State.plan, State.plan, h]

theorem State.RingOp.plans (h : s.RingOp t) : t.plans = s.plans := by rw [h.frame]

theorem setRec_plan (s : State) (k r : Nat) (w : WRec) :
    (s.setRec k r w).plan k = { s.plan k with weights := (s.plan k).weights.set r w } := State.setPlan_plan_same ..

/-- A record replaced reads as written. -/
theorem weights_set {l : List WRec} (h : l[r]? = some w) (w' : WRec) : (l.set r w')[r]? = some w' := by
  have hr : r < l.length := (List.getElem?_eq_some_iff.1 h).1
  rw [List.getElem?_set_self hr]

theorem dropReads_plans (s : State) (f : RRead → Bool) : (s.dropReads f).plans = s.plans :=
  List.foldlRecOn (motive := fun t : State => t.plans = s.plans) _ _ rfl fun _ h _ _ => h

theorem wlAnswer_plans (s : State) (h : Ctl) (result : Nat) (codes : List Byte) : (s.wlAnswer h result codes).plans = s.plans := by
  have hp : (s.putRecord h codes).1.plans = s.plans := by
    unfold State.putRecord
    split
    · rfl
    · split
      · exact (State.RingOp.setSram h.addr codes).plans
      · have hm : s.RingOp (s.markAt h.addr) := .markAt h.addr
        have hw : (s.markAt h.addr).MemOp ((s.markAt h.addr).write h.addr [] codes).1 := .write ..
        generalize (s.markAt h.addr).write h.addr [] codes = x at hw
        obtain ⟨y, res⟩ := x
        cases res <;> exact (hm.trans hw.ringOp).plans
  unfold State.wlAnswer State.answer
  refine (State.RingOp.reply ..).plans.trans ?_
  split
  · rfl
  · exact hp

/-- The end of a load leaves the records as they are; its state follows them. -/
theorem wlFinish_spec (s : State) (k : Nat) : ((s.wlFinish k).plan k).weights = (s.plan k).weights ∧
    ((s.plan k).weightState = 3 → (s.plan k).weights.all (fun w => w.state == 2) = false → ((s.wlFinish k).plan k).weightState = 3) := by
  unfold State.wlFinish
  dsimp only
  split
  · exact ⟨rfl, fun h _ => h⟩
  · split
    · exact ⟨rfl, fun h _ => h⟩
    · rw [plan_congr (wlAnswer_plans ..), State.setPlan_plan_same]
      refine ⟨rfl, fun _ h => ?_⟩
      rw [h]
      rfl

/-- The record as its failure leaves it. -/
def WRec.failed (w : WRec) (code : Nat) : WRec :=
  { w with state := 3, code := code, kind := 0, acks := [], redo := [], digs := if code = wlMEMORY then [] else w.digs }

/-- The state of a failed record before its counts follow. -/
def State.wlStopped (s : State) (k r code : Nat) (w : WRec) : State :=
  ((if code = wlDIGEST then (if w.busy then s.wlLess w.jamb else s).addF F.DMA_WLSTAT_DIGEST_FAILS w.jamb 1
    else if w.busy then s.wlLess w.jamb else s).dropReads (fun x => x.plan == k && x.item == r && !x.adapter)).dropWrites
      (fun j i => j == k && i == r)

theorem wlFail_def (h : (s.plan k).weights[r]? = some w) (code : Nat) : s.wlFail k r code =
    (let u := (s.wlStopped k r code w).setRec k r (w.failed code)
     (u.setPlan k { u.plan k with weightState := 3, weightDigest := 0 }).wlFinish k) := by
  unfold State.wlFail
  rw [h]
  rfl

theorem wlStopped_plans (s : State) (k r code : Nat) (w : WRec) : (s.wlStopped k r code w).plans = s.plans := by
  have e : ∀ (u : State) f, (u.dropWrites f).plans = u.plans := fun _ _ => rfl
  rw [State.wlStopped, e, dropReads_plans]
  split
  · split <;> rfl
  · split <;> rfl

/-- A record that fails with a code. -/
theorem wlFail_spec (h : (s.plan k).weights[r]? = some w) (code : Nat) :
    ((s.wlFail k r code).plan k).weights[r]? = some (w.failed code) ∧ ((s.wlFail k r code).plan k).weightState = 3 := by
  rw [wlFail_def h]
  dsimp only
  have hp : (s.wlStopped k r code w).plan k = s.plan k := plan_congr (wlStopped_plans ..) k
  rw [setRec_plan, hp]
  have hw : ((s.plan k).weights.set r (w.failed code))[r]? = some (w.failed code) := weights_set h _
  have hv := State.setPlan_plan_same ((s.wlStopped k r code w).setRec k r (w.failed code)) k
    { ({ s.plan k with weights := (s.plan k).weights.set r (w.failed code) } : Plan) with weightState := 3, weightDigest := 0 }
  generalize ((s.wlStopped k r code w).setRec k r (w.failed code)).setPlan k
    { ({ s.plan k with weights := (s.plan k).weights.set r (w.failed code) } : Plan) with weightState := 3, weightDigest := 0 } = v at hv ⊢
  obtain ⟨f1, f2⟩ := wlFinish_spec v k
  rw [hv] at f1 f2
  refine ⟨f1 ▸ hw, f2 rfl (List.all_eq_false.2 ⟨w.failed code, List.mem_of_getElem? hw, ?_⟩)⟩
  exact Bool.false_ne_true

/-- What the end of a record leaves of it. -/
theorem wlEnd_spec (h : (s.plan k).weights[r]? = some w) :
    ∃ w', ((s.wlEnd k r).plan k).weights[r]? = some w' ∧ w'.lost = w.lost ∧ (w.acks = [] → w'.acks = []) := by
  have hend : ∀ w' : WRec, ((((s.setRec k r w').wlLess w.jamb).wlFinish k).plan k).weights[r]? = some w' := fun w' => by
    have e : ((s.setRec k r w').wlLess w.jamb).plan k = (s.setRec k r w').plan k := rfl
    rw [(wlFinish_spec _ k).1, e, setRec_plan]
    exact weights_set h w'
  unfold State.wlEnd
  rw [h]
  dsimp only
  by_cases h1 : w.kind = 0 ∨ (w.succ ≠ noSucc ∧ ¬ w.lost = true ∧ w.ann < segsOf w.len)
  · rw [if_pos h1]
    exact ⟨w, h, rfl, id⟩
  rw [if_neg h1]
  by_cases h2 : w.kind = 3
  · rw [if_pos h2]
    exact ⟨_, hend _, rfl, id⟩
  rw [if_neg h2]
  by_cases h3 : w.digs.length < segsOf w.len
  · rw [if_pos h3]
    exact ⟨w, h, rfl, id⟩
  rw [if_neg h3]
  by_cases h4 : ¬ w.held = true
  · rw [if_pos h4]
    exact ⟨_, (wlFail_spec h wlDIGEST).1, rfl, fun _ => rfl⟩
  · rw [if_neg h4]
    exact ⟨_, hend _, rfl, id⟩

/-! ## Reads -/

theorem issueRead_plans (s : State) (i : Nat) : (s.issueRead i).plans = s.plans := by
  unfold State.issueRead
  dsimp only
  split
  · rfl
  · split <;> rfl

theorem foldl_issueRead_plans (l : List Nat) (i : Nat) (s : State) : (l.foldl (fun s _ => s.issueRead i) s).plans = s.plans :=
  List.foldlRecOn (motive := fun t : State => t.plans = s.plans) _ _ rfl fun t h _ _ => (issueRead_plans t i).trans h

theorem issueReads_plans (s : State) : s.issueReads.plans = s.plans :=
  List.foldlRecOn (motive := fun t : State => t.plans = s.plans) _ _ rfl fun t h e _ => (foldl_issueRead_plans _ e.1 t).trans h

theorem issueRead_idle (h : s.plans = []) (i : Nat) : s.issueRead i = s := by
  unfold State.issueRead
  dsimp only
  rw [h]
  split <;> rfl

/-- With no plan there is nothing to read. -/
theorem issueReads_idle (h : s.plans = []) : s.issueReads = s := by
  have hi : ∀ i (l : List Nat), l.foldl (fun s _ => s.issueRead i) s = s := fun i l => by
    induction l with
    | nil => rfl
    | cons x l ih => rw [List.foldl_cons, issueRead_idle h, ih]
  unfold State.issueReads
  induction s.qps with
  | nil => rfl
  | cons e l ih => rw [List.foldl_cons, hi, ih]

/-- An Ethernet port that receives. -/
def State.receives (s : State) : Prop := s.dark = false ∧ s.getF F.PWR_STATUS_STATE 0 ≠ 2

theorem response_connected {ecn : Bool} {data : List Byte} {rr : RRead} {l : List RRead} {a : Nat} (hj : jamb < 2) (hq : qp < 256)
    (hr : s.receives) (hc : (s.qp (jamb * 256 + qp)).conn = true) (hrd : (s.qp (jamb * 256 + qp)).reads = rr :: l) (ht : s.readTarget rr = some a) :
    exec (.rdmaReadResponse jamb qp ecn data sym) s = .next (State.readGot (jamb * 256 + qp) rr (data.take (rr.len - rr.got)).length sym
      (((if ecn then s.addF F.DMA_WLNET_CNP_SENT jamb 1 else s).markAt (a + rr.got)).write (a + rr.got) [] (data.take (rr.len - rr.got)))).issueReads := by
  obtain ⟨hd, hp⟩ := hr
  change execRdmaReadResponse jamb qp ecn data sym s = _
  unfold execRdmaReadResponse
  rw [if_neg (not_not.2 hj)]
  dsimp only
  rw [if_neg (by simp [hd, hp]), if_neg (not_not.2 ⟨hq, hc⟩)]
  have e1 : (if ecn = true then s.addF F.DMA_WLNET_CNP_SENT jamb 1 else s).qp (jamb * 256 + qp) = s.qp (jamb * 256 + qp) := by split <;> rfl
  have e2 : (if ecn = true then s.addF F.DMA_WLNET_CNP_SENT jamb 1 else s).readTarget rr = s.readTarget rr := by split <;> rfl
  rw [e1, hrd]
  dsimp only [List.head?_cons]
  rw [e2, ht]

theorem response_dropped {ecn : Bool} {data : List Byte} (hj : jamb < 2) (hr : s.receives)
    (hc : ¬ (qp < 256 ∧ (s.qp (jamb * 256 + qp)).conn = true)) :
    exec (.rdmaReadResponse jamb qp ecn data sym) s = .next (s.addF F.DMA_WLNET_DROPPED jamb 1) := by
  obtain ⟨hd, hp⟩ := hr
  exact (if_neg (not_not.2 hj)).trans ((if_neg (by simp [hd, hp])).trans (if_pos hc))

/-- The state with a queue pair disconnected and the failure counted. -/
def State.qpDown (s : State) (jamb qp : Nat) : State :=
  (s.addF F.DMA_WLSTAT_QP_ERRS jamb 1).setQp (jamb * 256 + qp) { s.qp (jamb * 256 + qp) with conn := false, reads := [] }

theorem qpDown_spec (s : State) (jamb qp : Nat) : ((s.qpDown jamb qp).qp (jamb * 256 + qp)).conn = false ∧
    ((s.qpDown jamb qp).qp (jamb * 256 + qp)).reads = [] ∧
    (s.qpDown jamb qp).getF F.DMA_WLSTAT_QP_ERRS jamb = satAdd F.DMA_WLSTAT_QP_ERRS.w (s.getF F.DMA_WLSTAT_QP_ERRS jamb) 1 ∧
    s.RegsBut (s.qpDown jamb qp) [(F.DMA_WLSTAT_QP_ERRS, jamb)] := by
  have hr : s.RegsBut (s.addF F.DMA_WLSTAT_QP_ERRS jamb 1) [(F.DMA_WLSTAT_QP_ERRS, jamb)] := regsBut_setF s (by decide)
  unfold State.qpDown
  rw [State.setQp_qp_same, getF_setQp, getF_addF_same (by decide)]
  exact ⟨rfl, rfl, rfl, hr⟩

theorem response_unpowered {ecn : Bool} {data : List Byte} (hj : jamb < 2) (h : s.dark = true ∨ s.getF F.PWR_STATUS_STATE 0 = 2) :
    exec (.rdmaReadResponse jamb qp ecn data sym) s = .next s := by
  change execRdmaReadResponse jamb qp ecn data sym s = _
  unfold execRdmaReadResponse
  rw [if_neg (not_not.2 hj)]
  exact if_pos h

theorem inbound_ignored {kind : Nat} (hj : jamb < 2) (h : s.dark = true ∨ s.getF F.PWR_STATUS_STATE 0 = 2 ∨ kind ≤ 2) :
    exec (.inboundPacket jamb kind) s = .next s := by
  change execInboundPacket jamb kind s = _
  unfold execInboundPacket
  rw [if_neg (not_not.2 hj)]
  exact if_pos h

theorem exhausted_exec (hj : jamb < 2) (hq : qp < 256) (hc : (s.qp (jamb * 256 + qp)).conn = true) :
    exec (.rdmaRetryExhausted jamb qp) s = .next (((s.plans.flatMap (fun e => (List.range e.2.aloads.length).reverse.map (fun r => (e.1, r)))).foldl
      (fun s x => s.loadExhausted jamb qp x) ((s.plans.flatMap (fun e => (List.range e.2.weights.length).map (fun r => (e.1, r)))).foldl
        (fun s x => s.recExhausted jamb qp x) (s.qpDown jamb qp))).issueReads) :=
  (if_neg (not_not.2 ⟨hj, hq⟩)).trans (if_neg (not_not.2 hc))

theorem only_count (s : State) (jamb : Nat) : s.Only (s.addF F.DMA_WLNET_DROPPED jamb 1) [(F.DMA_WLNET_DROPPED, jamb)] :=
  ⟨rfl, regsBut_setF s (by decide)⟩

/-! ## Chains -/

theorem chainPoll_exec {bs : List Byte} (h : (s.plan k).weights[r]? = some w) (hst : w.state = 1) (hk : w.kind = 2)
    (hr : (s.markAt ((s.plan k).chainAddr w)).read ((s.plan k).chainAddr w) 64 sym = (u, .ok bs)) :
    exec (.chainPoll k r sym) s =
      if leAt bs 0 1 ≠ 1 ∨ leAt bs 8 3 % 2 ^ 20 ≠ w.pred ∨ min (leAt bs 4 4) (segsOf w.len) ≤ w.present then .next u
      else .next ((u.setRec k r { w with present := min (leAt bs 4 4) (segsOf w.len), rose := u.now, broke := none }).wlRun k r sym) := by
  change execChainPoll k r sym s = _
  unfold execChainPoll
  rw [h]
  dsimp only
  rw [if_neg (by omega), hr]

theorem chainBreak_exec (h : (s.plan k).weights[r]? = some w) (hst : w.state = 1) (hk : w.kind = 2) (hb : w.broke = none)
    (hp : w.present < segsOf w.len) (ht : w.rose + 1000 * s.getF F.DMA_WLCTRL_STALL_US w.jamb ≤ s.now) :
    exec (.chainBreak k r) s = .next (((s.setRec k r { w with broke := some s.now }).addF F.DMA_WLSTAT_BREAKS w.jamb 1).logEvent 2 0x0109
      ((s.setRec k r { w with broke := some s.now }).plan k).part [w.index, w.present]) := by
  change execChainBreak k r s = _
  unfold execChainBreak
  rw [h]
  dsimp only
  rw [if_neg]
  simp only [not_or, not_not, not_le, not_lt]
  exact ⟨hst, hk, by simp [hb], hp, ht⟩

/-- The state once the successor of a record is gone, before the record's end. -/
def State.succLeft (s : State) (k r : Nat) (w : WRec) : State :=
  let u := (s.setRec k r { w with lost := true, acks := [] }).dropWrites (fun j i => j == k && i == r)
  u.logEvent 2 0x0109 (u.plan k).part [w.index, w.ann]

theorem succLost_exec (h : (s.plan k).weights[r]? = some w) (hl : w.lost = false) (ho : s.overdue w = true) :
    exec (.succLost k r) s = .next ((s.succLeft k r w).wlEnd k r) := by
  have e : s.succGone k r = (s.succLeft k r w).wlEnd k r := by
    unfold State.succGone
    rw [h]
    dsimp only
    rw [if_neg (by simp [hl])]
    rfl
  change execSuccLost k r s = _
  unfold execSuccLost
  rw [h]
  dsimp only
  rw [if_pos ho, e]

theorem logEvent_plans {sev : Nat} (h : sev ≠ 3) (s : State) (code part : Nat) (args : List Nat) : (s.logEvent sev code part args).plans = s.plans := by
  rw [logEvent_quiet h]
  exact (State.MemOp.logNote (s := s) sev code part args).ringOp.plans

theorem succLeft_rec (h : (s.plan k).weights[r]? = some w) :
    ((s.succLeft k r w).plan k).weights[r]? = some { w with lost := true, acks := [] } := by
  unfold State.succLeft
  dsimp only
  rw [plan_congr (logEvent_plans (by decide) ..)]
  change ((s.setRec k r _).plan k).weights[r]? = _
  rw [setRec_plan]
  exact weights_set h _

/-- Settles O51, clause by clause over the commands. -/
theorem weightsArrive : Obligations.WeightsArrive := by
  unfold Obligations.WeightsArrive
  refine ⟨?_, ?_, ?_, ?_, ?_, ?_, ?_, ?_, ?_, ?_, ?_, ?_, ?_, ?_⟩
  · intro s u jamb qp a ecn data bs sym rr l hj hq hd hp hc hrd ht i d s1 hw
    have hi : (jamb * 256 + qp) / 256 = jamb := by omega
    have e := response_connected (sym := sym) (ecn := ecn) (data := data) hj hq ⟨hd, hp⟩ hc hrd ht
    rw [hw] at e
    refine ⟨fun h => e.trans ?_, fun h => e.trans ?_⟩
    · unfold State.readGot
      dsimp only
      rw [if_pos h, hi]
    · unfold State.readGot
      dsimp only
      rw [if_neg (not_lt.2 h), hi]
  · intro s rr sym w had h hst
    unfold State.readDone
    dsimp only
    rw [if_neg (by simp [had]), h]
    exact if_neg (by omega)
  · intro s rr sym w had h hst
    unfold State.readDone
    dsimp only
    rw [if_neg (by simp [had]), h]
    exact if_pos hst
  · intro s jamb qp ecn data sym hj hd hp hc
    exact ⟨_, response_dropped hj ⟨hd, hp⟩ hc, only_count s jamb, getF_addF_same (by decide) jamb 1⟩
  · intro s jamb qp hj hq hc hpl
    have hpl' : (s.qpDown jamb qp).plans = [] := hpl
    have e : exec (.rdmaRetryExhausted jamb qp) s = .next (s.qpDown jamb qp).issueReads := by
      rw [exhausted_exec hj hq hc, hpl]
      rfl
    exact ⟨s.qpDown jamb qp, e.trans (by rw [issueReads_idle hpl']), qpDown_spec s jamb qp⟩
  · intro s jamb qp k q w hj hq hc hpl hwt hal hun hwj hwq halt hq1
    have hplan : s.plan k = q := by
      rw [State.plan, hpl]
      simp [tget]
    have hrec : (s.qpDown jamb qp).recExhausted jamb qp (k, 0) = (s.qpDown jamb qp).setRec k 0 { w with alt := true } := by
      have hw : ((s.qpDown jamb qp).plan k).weights[0]? = some w := by
        change (s.plan k).weights[0]? = some w
        rw [hplan, hwt]
        rfl
      unfold State.recExhausted
      rw [hw]
      dsimp only
      rw [if_neg (by simp [hun, hwj, hwq]), if_neg (by simp [halt, hq1])]
    refine ⟨_, exhausted_exec hj hq hc, ?_⟩
    rw [plan_congr (issueReads_plans _), hpl]
    simp only [List.flatMap_cons, List.flatMap_nil, hwt, hal, List.length_nil, List.length_singleton, List.range_zero, List.range_one, List.reverse_nil,
      List.map_nil, List.map_cons, List.append_nil, List.foldl_nil, List.foldl_cons]
    rw [hrec, setRec_plan]
    change ((s.plan k).weights.set 0 _) = _
    rw [hplan, hwt]
    rfl
  · intro s jamb qp kind ecn data sym hj h
    exact ⟨inbound_ignored hj (h.imp_right .inl), response_unpowered hj h⟩
  · intro s jamb kind hj hd hp
    by_cases hk : kind ≤ 2
    · refine ⟨s, inbound_ignored hj (.inr (.inr hk)), only_refl s _, ?_⟩
      rw [if_pos hk]
    · refine ⟨_, (if_neg (not_not.2 hj)).trans (if_neg (by simp [hd, hp, hk])), only_count s jamb, ?_⟩
      rw [if_neg hk]
      exact getF_addF_same (by decide) jamb 1
  · intro s u k r sym bs w h hst hk hr
    refine ⟨fun h1 h2 h3 => (chainPoll_exec h hst hk hr).trans (if_neg ?_), fun h1 => (chainPoll_exec h hst hk hr).trans (if_pos (.inl h1))⟩
    simp only [not_or, not_not, not_le]
    exact ⟨h1, h2, h3⟩
  · intro s k r sym w h hk hl ha h1 h0
    refine ⟨_, rfl, ?_⟩
    change execChainWordWrite k r sym s = _
    unfold execChainWordWrite
    rw [h]
    dsimp only
    rw [if_neg]
    simp only [not_or, not_not, not_le]
    exact ⟨hk, by simp [hl], ha, h1, h0⟩
  · intro s k r w h hst hk hb hp ht
    refine ⟨_, chainBreak_exec h hst hk hb hp ht, ?_, ?_, ?_⟩
    · rw [plan_congr (logEvent_plans (by decide) ..)]
      exact setRec_plan s k r _
    · rw [logEvent_quiet (by decide), getF_logNote (by decide), getF_addF_same (by decide)]
      rfl
    · rw [logEvent_quiet (by decide), logNote_mem]
      rfl
  · intro s k r w h hl ho
    obtain ⟨w', h1, h2, h3⟩ := wlEnd_spec (succLeft_rec h)
    exact ⟨_, w', succLost_exec h hl ho, h1, h2, h3 rfl⟩
  · intro s k r w h ho
    change execSuccLost k r s = _
    unfold execSuccLost
    rw [h]
    exact if_neg (by simp [ho])
  · intro s k r t0 w h hst hb ht
    obtain ⟨f1, f2⟩ := wlFail_spec h wlCHAIN
    refine ⟨_, w.failed wlCHAIN, ?_, f1, rfl, rfl, f2⟩
    change execChainRepairTimeout k r s = _
    unfold execChainRepairTimeout
    rw [h]
    dsimp only
    rw [hb]
    exact if_neg (by simp only [not_or, not_not, not_lt]; exact ⟨hst, ht⟩)

end Sys2Proof.Machine
end

section
/-! SUPPORT. SPDM sessions: the requests a responder answers, and the session of a partition. -/

namespace Sys2Proof.Machine

variable {s t : State} {p who id : Nat}

theorem garbage_length (c n : Nat) : (garbage c n).length = n := by
  induction n with
  | zero => rfl
  | succ n ih => rw [garbage, List.length_cons, ih]

@[simp] theorem psecOf_modPsec_same (s : State) (p : Nat) (f : PSec → PSec) : (s.modPsec p f).psecOf p = f (s.psecOf p) := tget_tset_same _ _ _ _

theorem psecOf_modPsec_ne (s : State) (f : PSec → PSec) {q : Nat} (h : q ≠ p) : (s.modPsec p f).psecOf q = s.psecOf q := tget_tset_ne _ _ _ h

@[simp] theorem psecOf_setF (s : State) (f : Fld) (i x q : Nat) : (s.setF f i x).psecOf q = s.psecOf q := rfl

/-! ## The responder -/

/-- The responder runs, and requester `who` is one of the package. -/
structure State.Responds (s : State) (who : Nat) : Prop where
  who : who ≤ 17
  ready : s.flag F.CTL_STATUS_READY 0 = true
  quiet : s.boot.quiet = false
  held : s.boot.held = false

theorem State.Responds.answers (h : s.Responds who) {f : State → State} {o : Out} (ho : o = s.spdmDo who f) : o = .next (f s) :=
  ho.trans (spdmDo_answers h.who h.ready h.quiet h.held)

theorem State.Responds.inside (h : s.Responds who) (hs : s.session who id = true) {f : State → State} {o : Out}
    (ho : o = s.inSession who id f) : o = .next (f s) :=
  ho.trans (inSession_answers h.who h.ready h.quiet h.held hs)

theorem State.Responds.outside (h : s.Responds who) (hs : s.session who id = false) {f : State → State} {o : Out}
    (ho : o = s.inSession who id f) : o = .next (s.spdmErr who spUNEXPECTED) :=
  (h.answers (ho.trans (State.inSession.eq_1 ..))).trans (congrArg _ (if_neg (by simp [hs])))

/-! ## Sessions -/

/-- The requester is the VF of a partition. -/
def isVf (who : Nat) : Bool := decide (1 ≤ who) && decide (who ≤ 16)

theorem isVf_iff : isVf who = true ↔ 1 ≤ who ∧ who ≤ 16 := by simp [isVf]

theorem vf_and_iff {b : Bool} : ((decide (1 ≤ who) && decide (who ≤ 16)) = true ∧ b = true) ↔ 1 ≤ who ∧ who ≤ 16 ∧ b = true := by
  simp [and_assoc]

/-- The bounce keys that a session master secret gives, with counters at 0. -/
def bounceFrom (e : List Byte) : Bounce :=
  { Bounce.init with keyIn := hkdfExpand e (ascii "w1 bounce h2d") 32, keyOut := hkdfExpand e (ascii "w1 bounce d2h") 32 }

theorem freshBounce_vf (e : List Byte) (h1 : 1 ≤ who) (h2 : who ≤ 16) : s.freshBounce who e = s.setBounce (who - 1) (bounceFrom e) := if_pos ⟨h1, h2⟩

theorem freshBounce_sessions (s : State) (who : Nat) (e : List Byte) : (s.freshBounce who e).sessions = s.sessions := by
  unfold State.freshBounce
  split <;> rfl

theorem freshBounce_spdm (s : State) (who : Nat) (e : List Byte) : (s.freshBounce who e).spdm = s.spdm := by
  unfold State.freshBounce
  split <;> rfl

theorem newSecret_has (s : State) (who id : Nat) : ⟨id, who, true, (s.newSecret who id).2⟩ ∈ (s.newSecret who id).1.sessions :=
  List.mem_append_right _ (List.mem_singleton_self _)

theorem newSecret_length (s : State) (who id : Nat) : (s.newSecret who id).2.length = 48 := garbage_length _ _

/-- A handshake that is not finished shows in KEYOP. -/
theorem keyOp_open (h : (s.sessions.any fun x => !x.est) = true) : s.keyOp.flag F.SEC_STATUS_KEYOP 0 = true := by
  rw [State.keyOp, flag_setF_bit (by decide) rfl, h]

/-! ## Requests outside a session -/

theorem getVersion_spec (h : s.Responds who) :
    ∃ t, exec (.getVersion who) s = .next t ∧ t.spdm = s.spdm ++ [⟨who, 0x04, leBytes 1 0x13⟩] ∧ who ∉ t.algs ∧
      t = { s with spdm := t.spdm, algs := t.algs } := by
  refine ⟨_, (h.answers (execGetVersion.eq_1 ..)), rfl, ?_, rfl⟩
  change who ∉ s.algs.filter (· != who)
  simp

theorem negotiate_spec (h : s.Responds who) {offer : Nat} (ho : offer % 16 ≠ 0) :
    exec (.negotiateAlgorithms who offer) s =
      .next { s with algs := who :: s.algs.filter (· != who), spdm := s.spdm ++ [⟨who, 0x63, leBytes 1 (offer % 16)⟩] } :=
  (h.answers (execNegotiateAlgorithms.eq_1 ..)).trans (congrArg _ (if_neg ho))

theorem challenge_spec (h : s.Responds who) (ha : who ∈ s.algs) :
    ∃ g t, exec (.challenge who) s = .next t ∧ t = { s with free := t.free, spdm := s.spdm ++ [⟨who, 0x03, g⟩] } :=
  ⟨_, _, (h.answers (execChallenge.eq_1 ..)).trans (congrArg _ (if_neg (by simp [ha]))), rfl⟩

theorem challenge_early (h : s.Responds who) (ha : who ∉ s.algs) : exec (.challenge who) s = .next (s.spdmErr who spUNEXPECTED) :=
  (h.answers (execChallenge.eq_1 ..)).trans (congrArg _ (if_pos (by simp [ha])))

theorem getMeasurements_spec (h : s.Responds who) {sess : Nat} (index nonce : Nat) (hs : sess = 0 ∨ s.session who sess = true) :
    ∃ g t, exec (.getMeasurements who sess index nonce) s = .next t ∧
      t = { s with free := t.free, tamp := t.tamp, spdm := s.spdm ++ [⟨who, 0x60,
        (if index = 255 then [1, 2, 3, 4, 5] ++ (List.range 16).map (· + 16) else [index]).flatMap (fun i => leBytes 1 i ++
          (if mayMeasure who i (sess != 0) then leBytes 2 (s.block i).length ++ s.block i else leBytes 2 0)) ++ leBytes 8 nonce ++ g⟩] } ∧
      t.tamp = if who = 0 then { s.tamp with reports := nonce % 2 ^ 64 :: s.tamp.reports } else s.tamp := by
  refine ⟨s.sign.2, _, (h.answers (execGetMeasurements.eq_1 ..)).trans (congrArg _ (if_neg ?_)), ?_, ?_⟩
  · rintro ⟨h0, hn⟩
    exact hs.elim h0 hn
  · by_cases h0 : who = 0
    · simp only [if_pos h0]
      rfl
    · simp only [if_neg h0]
      rfl
  · by_cases h0 : who = 0
    · simp only [if_pos h0]
      rfl
    · simp only [if_neg h0]
      rfl

/-! ## A session opens -/

theorem keyExchange_opens (h : s.Responds who) (ha : who ∈ s.algs) (hl : s.sessions.length < 32)
    (hv : 1 ≤ who ∧ who ≤ 16 → s.flag F.SEC_STATUS_TAMPERED 0 = false ∧ s.sessions.any (fun x => x.who == who) = false) :
    ∃ t, exec (.keyExchange who) s = .next t ∧ t.sessions = s.sessions ++ [⟨s.nextSess, who, false, []⟩] ∧ t.nextSess = s.nextSess + 1 ∧
      t.flag F.SEC_STATUS_KEYOP 0 = true ∧ s.RegsBut t [(F.SEC_STATUS_KEYOP, 0)] := by
  refine ⟨_, (h.answers (execKeyExchange.eq_1 ..)).trans (congrArg _ ((if_neg (by simp [ha])).trans ((if_neg ?_).trans (if_neg ?_)))), rfl, rfl, ?_, ?_⟩
  · rw [vf_and_iff]
    rintro ⟨h1, h2, h3⟩
    simp [(hv ⟨h1, h2⟩).1] at h3
  · rw [vf_and_iff]
    rintro (h1 | ⟨h1, h2, h3⟩)
    · omega
    · simp [(hv ⟨h1, h2⟩).2] at h3
  · exact keyOp_open (s := { s with sessions := s.sessions ++ [⟨s.nextSess, who, false, []⟩], nextSess := s.nextSess + 1 }) (by simp)
  · exact regsBut_setF s (by decide)

theorem keyExchange_tampered (h : s.Responds who) (ha : who ∈ s.algs) (h1 : 1 ≤ who) (h2 : who ≤ 16)
    (ht : s.flag F.SEC_STATUS_TAMPERED 0 = true) :
    exec (.keyExchange who) s = .next { s with spdm := s.spdm ++ [⟨who, 0x7E, leBytes 1 resTAMPERED⟩] } :=
  (h.answers (execKeyExchange.eq_1 ..)).trans (congrArg _ ((if_neg (by simp [ha])).trans (if_pos (vf_and_iff.2 ⟨h1, h2, ht⟩))))

theorem keyExchange_busy (h : s.Responds who) (ha : who ∈ s.algs) (ht : ¬ (1 ≤ who ∧ who ≤ 16 ∧ s.flag F.SEC_STATUS_TAMPERED 0 = true))
    (hb : 32 ≤ s.sessions.length ∨ (1 ≤ who ∧ who ≤ 16 ∧ s.sessions.any (fun x => x.who == who) = true)) :
    exec (.keyExchange who) s = .next (s.spdmErr who spBUSY) :=
  (h.answers (execKeyExchange.eq_1 ..)).trans (congrArg _ ((if_neg (by simp [ha])).trans ((if_neg (vf_and_iff.not.2 ht)).trans (if_pos (hb.imp_right vf_and_iff.2)))))

/-! ## FINISH, KEY_UPDATE and END_SESSION -/

/-- The session of a VF is bound to its partition. -/
def State.bindVf (s : State) (who id : Nat) : State :=
  if 1 ≤ who ∧ who ≤ 16 then (s.modPsec (who - 1) (fun x => { x with session := some id })).setF F.SEC_PCTL_SESSION (who - 1) 1 else s

theorem bindVf_sessions (s : State) (who id : Nat) : (s.bindVf who id).sessions = s.sessions := by
  unfold State.bindVf
  split <;> rfl

theorem bindVf_session (s : State) (h1 : 1 ≤ who) (h2 : who ≤ 16) : ((s.bindVf who id).psecOf (who - 1)).session = some id := by
  rw [State.bindVf, if_pos ⟨h1, h2⟩]
  rw [psecOf_setF, psecOf_modPsec_same]

theorem finish_exec (h : s.Responds who) (hh : s.holds who id false = true) :
    exec (.finish who id true) s =
      .next ((((s.newSecret who id).1.keyOp.freshBounce who (s.newSecret who id).2).bindVf who id).spdmSend who 0x65 []) :=
  (h.answers (execFinish.eq_1 ..)).trans (congrArg _ ((if_neg (by simp [hh])).trans (if_neg (by simp))))

theorem finish_spec (h : s.Responds who) (hh : s.holds who id false = true) :
    ∃ e t, e.length = 48 ∧ exec (.finish who id true) s = .next t ∧ ⟨id, who, true, e⟩ ∈ t.sessions ∧
      (1 ≤ who → who ≤ 16 → (t.psecOf (who - 1)).session = some id ∧ t.flag F.SEC_PCTL_SESSION (who - 1) = true ∧
        t.bounceOf (who - 1) = bounceFrom e) := by
  refine ⟨_, _, newSecret_length s who id, finish_exec h hh, ?_, fun h1 h2 => ⟨?_, ?_, ?_⟩⟩
  · change _ ∈ (State.bindVf _ who id).sessions
    rw [bindVf_sessions, freshBounce_sessions]
    exact newSecret_has s who id
  · exact bindVf_session _ h1 h2
  · change (State.bindVf _ who id).flag F.SEC_PCTL_SESSION (who - 1) = true
    rw [State.bindVf, if_pos ⟨h1, h2⟩]
    exact flag_setF_bit (by decide) rfl true
  · change (State.bindVf _ who id).bounceOf (who - 1) = _
    rw [State.bindVf, if_pos ⟨h1, h2⟩, freshBounce_vf _ h1 h2]
    exact bounceOf_setBounce_same _

theorem keyUpdate_spec (h : s.Responds who) (hs : s.session who id = true) :
    ∃ e t, e.length = 48 ∧ exec (.keyUpdate who id) s = .next t ∧ ⟨id, who, true, e⟩ ∈ t.sessions ∧
      t.spdm = s.spdm ++ [⟨who, 0x69, []⟩] ∧ (1 ≤ who → who ≤ 16 → t.bounceOf (who - 1) = bounceFrom e) := by
  refine ⟨_, _, newSecret_length s who id, h.inside hs (execKeyUpdate.eq_1 ..), ?_, ?_, fun h1 h2 => ?_⟩
  · change _ ∈ (State.freshBounce _ who _).sessions
    rw [freshBounce_sessions]
    exact newSecret_has s who id
  · change (State.freshBounce _ who _).spdm ++ _ = _
    rw [freshBounce_spdm]
  · change (State.freshBounce _ who _).bounceOf (who - 1) = _
    rw [freshBounce_vf _ h1 h2]
    exact bounceOf_setBounce_same _

/-- A filter that keeps no session `id` of the requester leaves none. -/
theorem session_filter {f : Sess → Bool} (ht : t.sessions = s.sessions.filter f) (hf : ∀ x : Sess, x.id = id → x.who = who → f x = false) :
    t.session who id = false := by
  simp only [State.session, State.holds, ht, List.any_filter, List.any_eq_false]
  intro x _ hx
  simp only [Bool.and_eq_true, beq_iff_eq] at hx
  obtain ⟨hfx, ⟨hid, hwho⟩, -⟩ := hx
  rw [hf x hid hwho] at hfx
  cases hfx

theorem unbindSession_spec (s : State) (p : Nat) :
    (s.unbindSession p).sessions = s.sessions.filter (fun x => x.who != p + 1) ∧ (s.unbindSession p).spdm = s.spdm ∧
      ((s.unbindSession p).bounceOf p).keyIn = [] ∧ ((s.unbindSession p).bounceOf p).keyOut = [] := by
  have hb : (s.unbindSession p).bounceOf p = { s.bounceOf p with keyIn := [], keyOut := [] } :=
    bounceOf_setBounce_same (s := s.endSessions (p + 1)) _
  rw [hb]
  exact ⟨rfl, rfl, rfl, rfl⟩

theorem endSession_spec (h : s.Responds who) (hs : s.session who id = true) :
    ∃ t, exec (.endSession who id) s = .next t ∧ t.session who id = false ∧ t.spdm = s.spdm ++ [⟨who, 0x6C, []⟩] ∧
      (1 ≤ who → who ≤ 16 → (t.bounceOf (who - 1)).keyIn = [] ∧ (t.bounceOf (who - 1)).keyOut = []) := by
  refine ⟨_, h.inside hs (execEndSession.eq_1 ..), ?_⟩
  by_cases hv : 1 ≤ who ∧ who ≤ 16
  · rw [if_pos hv]
    obtain ⟨h1, h2, h3, h4⟩ := unbindSession_spec s (who - 1)
    refine ⟨session_filter h1 fun x _ hw => ?_, congrArg (· ++ _) h2, fun _ _ => ⟨h3, h4⟩⟩
    rw [bne_eq_false_iff_eq]
    omega
  · rw [if_neg hv]
    exact ⟨session_filter rfl (fun x hx _ => by simp [hx]), rfl, fun h1 h2 => (hv ⟨h1, h2⟩).elim⟩

/-- Settles O53: what the responder answers, request by request. -/
theorem sessionsRun : Obligations.SessionsRun := by
  unfold Obligations.SessionsRun
  intro s who hw hr hq hh
  have h : s.Responds who := ⟨hw, hr, hq, hh⟩
  refine ⟨getVersion_spec h, h.answers (execGetCapabilities.eq_1 ..), fun _ ho => negotiate_spec h ho, h.answers (execGetDigests.eq_1 ..),
    fun _ _ => h.answers (execGetCertificate.eq_1 ..), challenge_spec h, challenge_early h,
    fun _ index nonce hs => getMeasurements_spec h index nonce hs, keyExchange_opens h, keyExchange_tampered h, keyExchange_busy h,
    fun _ hid => finish_spec h hid, fun _ hid => ⟨h.inside hid (execHeartbeat.eq_1 ..), keyUpdate_spec h hid, endSession_spec h hid,
      fun _ hn => ⟨h.outside hn (execHeartbeat.eq_1 ..), h.outside hn (execKeyUpdate.eq_1 ..), h.outside hn (execEndSession.eq_1 ..)⟩⟩⟩

end Sys2Proof.Machine
end

section
/-! SUPPORT. Plan keys, host modes, debug levels and the tamper record. -/

namespace Sys2Proof.Machine

variable {s t u : State} {p who : Nat}

/-! ## Messages of the bound session -/

theorem setPlanKey_exec (hp : p < 16) (h : s.Responds who) (hm : who = p + 1 ∧ (s.psecOf p).session.isSome = true ∨
      who = 0 ∧ s.flag F.SEC_PCTL_OPKEYS p = true) (hd : s.pairStopped = false) (ht : s.flag F.SEC_STATUS_TAMPERED 0 = false)
    (hr : s.plansOf p = []) (digest : Nat) :
    exec (.setPlanKey who p digest) s = .next (((s.modPsec p (fun x => { x with planKey := some (digest % 2 ^ 384) })).setF F.SEC_PKEYID_KEYID p
      (digest % 2 ^ 384 % 2 ^ 64)).vendor who resOK) := by
  change execSetPlanKey who p digest s = _
  rw [execSetPlanKey, if_neg (not_not.2 hp), spdmDo_answers h.who h.ready h.quiet h.held, if_neg (by simp [hd]), if_neg (not_not.2 hm),
    if_neg (by simp [ht]), if_neg (not_not.2 hr)]

theorem setHostMode_exec (hp : p < 16) (h : s.Responds (p + 1)) {mode id : Nat} (hs : (s.psecOf p).session = some id)
    (hl : (s.psecOf p).loaded = false) (hm : (s.psecOf p).modeSet = false) (hmode : mode ≤ 2) :
    exec (.setHostMode p mode) s =
      .next (((s.modPsec p (fun x => { x with modeSet := true })).setF F.SEC_PCTL_HMODE p mode).vendor (p + 1) resOK) := by
  change execSetHostMode p mode s = _
  rw [execSetHostMode, if_neg (not_not.2 hp), spdmDo_answers h.who h.ready h.quiet h.held]
  exact congrArg _ (if_neg (by simp [hs, hl, hm, hmode]))

theorem setHostMode_refused (hp : p < 16) (h : s.Responds (p + 1)) {mode : Nat}
    (hn : (s.psecOf p).session = none ∨ (s.psecOf p).loaded = true ∨ (s.psecOf p).modeSet = true) :
    exec (.setHostMode p mode) s = .next { s with spdm := s.spdm ++ [⟨p + 1, 0x7E, leBytes 1 resFAILED⟩] } := by
  change execSetHostMode p mode s = _
  rw [execSetHostMode, if_neg (not_not.2 hp), spdmDo_answers h.who h.ready h.quiet h.held]
  refine congrArg _ (if_pos ?_)
  rcases hn with hn | hn | hn <;> simp [hn]

theorem ideKm_exec (hp : p < 16) (h : s.Responds (p + 1)) {id : Nat} (hs : (s.psecOf p).session = some id)
    (hm : s.getF F.SEC_PCTL_HMODE p = 1) :
    exec (.ideKm p) s = .next ((s.modPsec p (fun x => { x with ide := true })).vendor (p + 1) resOK) := by
  change execIdeKm p s = _
  rw [execIdeKm, if_neg (not_not.2 hp), spdmDo_answers h.who h.ready h.quiet h.held, if_neg (by simp [hs, hm])]

@[simp] theorem psecOf_vendor (s : State) (who code q : Nat) : (s.vendor who code).psecOf q = s.psecOf q := rfl

theorem planKey_id (s : State) (p d who code : Nat) :
    ((s.setF F.SEC_PKEYID_KEYID p (d % 2 ^ 64)).vendor who code).getF F.SEC_PKEYID_KEYID p = d % 2 ^ 64 :=
  (getF_setF_same s (by decide)).trans (Nat.mod_mod_of_dvd _ (dvd_refl _))

theorem hostMode_holds (s : State) {p mode : Nat} (h : mode ≤ 2) (who code : Nat) :
    ((s.setF F.SEC_PCTL_HMODE p mode).vendor who code).getF F.SEC_PCTL_HMODE p = mode :=
  (getF_setF_same s (by decide)).trans (Nat.mod_eq_of_lt (show mode < 2 ^ 2 by omega))

/-! ## Debug -/

theorem debugSigner_iff (pub : List Byte) :
    s.debugSigner pub = true ↔ sha384n pub = Config.debugKey ∨ (s.boot.debugKey ≠ 0 ∧ sha384n pub = s.boot.debugKey) := by
  simp [State.debugSigner]

theorem debugOk_iff (nonce level : Nat) (g : DebugSig) :
    s.debugOk nonce level g = true ↔ (sha384n g.pub = Config.debugKey ∨ (s.boot.debugKey ≠ 0 ∧ sha384n g.pub = s.boot.debugKey)) ∧
      g.msg = leBytes 32 nonce ++ s.devDigest ++ leBytes 1 level ∧ g.ok = true := by
  rw [State.debugOk, Bool.and_eq_true, Bool.and_eq_true, debugSigner_iff, beq_iff_eq, State.debugMsg, and_assoc]

/-- A response to a debug challenge takes its nonce. -/
def State.useNonce (s : State) (nonce : Nat) : State := { s with nonces := s.nonces.erase nonce }

theorem debugUnlock_exec (h : s.Responds 0) (nonce level : Nat) (g : DebugSig) :
    exec (.debugUnlock nonce level g) s = .next (
      if ¬ nonce ∈ s.nonces ∨ ¬ s.debugOk nonce level g = true ∨ 2 < level then (s.useNonce nonce).addF F.SEC_DEBUG_FAILS 0 1
      else if level = 2 then (s.useNonce nonce).debugTwo
      else (s.useNonce nonce).setF F.SEC_DEBUG_LEVEL 0 (max level (s.getF F.SEC_DEBUG_LEVEL 0))) := by
  refine (h.answers (execDebugUnlock.eq_1 ..)).trans (congrArg _ ?_)
  have hok : State.debugOk { s with nonces := s.nonces.erase nonce } nonce level g = s.debugOk nonce level g := rfl
  simp only [hok, List.contains_iff_mem]
  rfl

/-! ## The alarm -/

/-- Registers that an alarm writes once and that nothing it starts writes again. -/
def tamperRegs : List Reg := [.SEC_TAMPER, .SEC_TTIME, .SEC_PKEYID]

/-- `t` is `s` after revocations and ends of sessions: the alarm's record and the zeroised key store stay. -/
structure State.Keeps (s t : State) : Prop where
  frame : t.nonces = s.nonces ∧ t.debugWant = s.debugWant ∧ t.tamp = s.tamp
  regs : ∀ (g : Fld) (j : Nat), g.reg ∈ tamperRegs → t.getF g j = s.getF g j
  tampered : t.flag F.SEC_STATUS_TAMPERED 0 = s.flag F.SEC_STATUS_TAMPERED 0
  psec : ∀ q, (t.psecOf q).planKey = (s.psecOf q).planKey ∧ (t.psecOf q).ide = (s.psecOf q).ide
  keys : ∀ q, (s.key q).revoked = true → (t.key q).revoked = true

namespace State.Keeps

theorem refl (s : State) : s.Keeps s := ⟨⟨rfl, rfl, rfl⟩, fun _ _ _ => rfl, rfl, fun _ => ⟨rfl, rfl⟩, fun _ h => h⟩

theorem trans (h : s.Keeps t) (h' : t.Keeps u) : s.Keeps u :=
  ⟨⟨h'.frame.1.trans h.frame.1, h'.frame.2.1.trans h.frame.2.1, h'.frame.2.2.trans h.frame.2.2⟩,
    fun g j hg => (h'.regs g j hg).trans (h.regs g j hg), h'.tampered.trans h.tampered,
    fun q => ⟨(h'.psec q).1.trans (h.psec q).1, (h'.psec q).2.trans (h.psec q).2⟩, fun q hq => h'.keys q (h.keys q hq)⟩

theorem foldl {α : Type} {f : State → α → State} (hf : ∀ (s : State) (x : α), s.Keeps (f s x)) (l : List α) (s : State) : s.Keeps (l.foldl f s) := by
  induction l generalizing s with
  | nil => exact refl s
  | cons x l ih => exact (hf s x).trans (ih _)

theorem setF {f : Fld} (s : State) (i x : Nat) (hw : f.lo + f.w ≤ 64) (hr : f.reg ∉ tamperRegs) (ht : f.Apart F.SEC_STATUS_TAMPERED) :
    s.Keeps (s.setF f i x) :=
  ⟨⟨rfl, rfl, rfl⟩, fun _ _ hg => getF_setF_apart s hw (.inl fun h => hr (h ▸ hg)), flag_setF_apart hw ht, fun _ => ⟨rfl, rfl⟩, fun _ h => h⟩

theorem ofAbort (h : s.AbortOp t) : s.Keeps t := by
  refine ⟨?_, fun g j hg => h.regs g j fun ha => ?_, ?_, ?_, ?_⟩
  · rw [h.frame]
    exact ⟨rfl, rfl, rfl⟩
  · revert hg ha
    generalize g.reg = r
    simp only [tamperRegs, List.mem_cons, List.not_mem_nil, or_false]
    rintro (rfl | rfl | rfl) ha <;> exact absurd ha (by decide)
  · rw [State.flag, h.regs _ _ (by decide), State.flag]
  · rw [h.frame]
    exact fun _ => ⟨rfl, rfl⟩
  · rw [h.frame]
    exact fun _ hq => hq

end State.Keeps

/-- The key of `p` is marked revoked. -/
def State.markRevoked (s : State) (p : Nat) : State := { s with keys := tmod MemKey.init s.keys p (fun k => { k with revoked := true }) }

theorem revoke_def (s : State) (p : Nat) : s.revoke p = ((s.setF F.SEC_PCTL_STATE p pcREVOKED).markRevoked p).abortStep p 0x0B 0 := rfl

theorem markRevoked_same (s : State) (p : Nat) : ((s.markRevoked p).key p).revoked = true :=
  congrArg MemKey.revoked (tget_tset_same (d := MemKey.init) s.keys p _)

theorem markRevoked_keys {q : Nat} (h : (s.key q).revoked = true) : ((s.markRevoked p).key q).revoked = true := by
  by_cases hq : q = p
  · rw [hq]
    exact markRevoked_same s p
  · exact (congrArg MemKey.revoked (tget_tset_ne _ _ _ hq)).trans h

theorem revoke_keeps (s : State) (p : Nat) : s.Keeps (s.revoke p) := by
  rw [revoke_def]
  refine (State.Keeps.setF (f := F.SEC_PCTL_STATE) s p pcREVOKED (by decide) (by decide) (.inl (by decide))).trans
    (.trans (t := (s.setF F.SEC_PCTL_STATE p pcREVOKED).markRevoked p) ?_ (.ofAbort (State.AbortOp.abortStep ..)))
  exact ⟨⟨rfl, rfl, rfl⟩, fun _ _ _ => rfl, rfl, fun _ => ⟨rfl, rfl⟩, fun _ h => markRevoked_keys h⟩

theorem revoke_key (s : State) (p : Nat) : ((s.revoke p).key p).revoked = true := by
  rw [revoke_def]
  exact (State.Keeps.ofAbort (State.AbortOp.abortStep ..)).keys p (markRevoked_same _ p)

theorem revokeAll_key {l : List Nat} (h : p ∈ l) (s : State) : ((l.foldl State.revoke s).key p).revoked = true := by
  induction l generalizing s with
  | nil => cases h
  | cons q l ih =>
    rcases List.mem_cons.1 h with rfl | h
    · exact (State.Keeps.foldl revoke_keeps l _).keys p (revoke_key s p)
    · exact ih h _

/-- A change to a partition's secrets that leaves its plan key and its IDE keys. -/
theorem modPsec_keeps (s : State) (p : Nat) {f : PSec → PSec} (hf : ∀ x, (f x).planKey = x.planKey ∧ (f x).ide = x.ide) : s.Keeps (s.modPsec p f) := by
  refine ⟨⟨rfl, rfl, rfl⟩, fun _ _ _ => rfl, rfl, fun q => ?_, fun _ h => h⟩
  by_cases hq : q = p
  · rw [hq, psecOf_modPsec_same]
    exact hf _
  · rw [psecOf_modPsec_ne s f hq]
    exact ⟨rfl, rfl⟩

theorem keyOp_keeps (s : State) : s.Keeps s.keyOp := .setF (f := F.SEC_STATUS_KEYOP) s 0 _ (by decide) (by decide) (.inr (by decide))

/-- The sessions of a partition's requester end, and its bounce keys go. -/
def State.dropSessions (s : State) (p : Nat) : State := (s.endSessions (p + 1)).setBounce p { s.bounceOf p with keyIn := [], keyOut := [] }

theorem unbindSession_def (s : State) (p : Nat) :
    s.unbindSession p = (((s.dropSessions p).modPsec p (fun x => { x with session := none })).setF F.SEC_PCTL_SESSION p 0).keyOp := rfl

theorem dropSessions_keeps (s : State) (p : Nat) : s.Keeps (s.dropSessions p) :=
  ⟨⟨rfl, rfl, rfl⟩, fun _ _ _ => rfl, rfl, fun _ => ⟨rfl, rfl⟩, fun _ h => h⟩

theorem unbindSession_keeps (s : State) (p : Nat) : s.Keeps (s.unbindSession p) := by
  rw [unbindSession_def]
  exact (((dropSessions_keeps s p).trans (modPsec_keeps (f := fun x => { x with session := none }) _ p fun _ => ⟨rfl, rfl⟩)).trans
    (.setF (f := F.SEC_PCTL_SESSION) _ p 0 (by decide) (by decide) (.inl (by decide)))).trans (keyOp_keeps _)

/-- No session is left. -/
def State.noSessions (s : State) : State := { s with sessions := [] }

theorem noSessions_keeps (s : State) : s.Keeps s.noSessions := ⟨⟨rfl, rfl, rfl⟩, fun _ _ _ => rfl, rfl, fun _ => ⟨rfl, rfl⟩, fun _ h => h⟩

theorem endAll_def (s : State) : s.endAll = ((List.range 16).foldl State.unbindSession s).noSessions.keyOp := rfl

theorem endAll_keeps (s : State) : s.Keeps s.endAll := by
  rw [endAll_def]
  exact ((State.Keeps.foldl unbindSession_keeps (List.range 16) s).trans (noSessions_keeps _)).trans (keyOp_keeps _)

theorem endAll_sessions (s : State) : s.endAll.sessions = [] := by
  rw [endAll_def]
  rfl

/-! ### The key store is zeroised -/

/-- The plan and IDE keys of one partition go. -/
def State.clearKeys (s : State) (p : Nat) : State := (s.modPsec p (fun x => { x with planKey := none, ide := false })).setF F.SEC_PKEYID_KEYID p 0

theorem clearKeys_eq (s : State) (p : Nat) : s.clearKeys p = { s with regs := (s.clearKeys p).regs, psec := (s.clearKeys p).psec } := rfl

/-- Every memory key is marked revoked. -/
def State.revokeKeys (s : State) : State := { s with keys := s.keys.map (fun e => (e.1, { e.2 with revoked := true })) }

theorem zeroise_def (s : State) : s.zeroise = (List.range 16).foldl State.clearKeys s.revokeKeys := rfl

theorem clearKeys_all (l : List Nat) (s : State) : ∃ r x, l.foldl State.clearKeys s = { s with regs := r, psec := x } := by
  induction l generalizing s with
  | nil => exact ⟨s.regs, s.psec, rfl⟩
  | cons q l ih =>
    obtain ⟨r, x, h⟩ := ih (s.clearKeys q)
    exact ⟨r, x, h.trans (by rw [clearKeys_eq])⟩

theorem zeroise_eq (s : State) : ∃ r x k, s.zeroise = { s with regs := r, psec := x, keys := k } := by
  obtain ⟨r, x, h⟩ := clearKeys_all (List.range 16) s.revokeKeys
  exact ⟨r, x, s.revokeKeys.keys, (zeroise_def s).trans h⟩

theorem zeroise_getF {g : Fld} (hg : g.reg ≠ .SEC_PKEYID) (j : Nat) (s : State) : s.zeroise.getF g j = s.getF g j := by
  have hk : ∀ (t : State), ∀ x ∈ List.range 16, (t.clearKeys x).getF g j = t.getF g j := fun t x _ => by
    rw [State.clearKeys, getF_setF_apart _ (by decide) (.inl hg), getF_modPsec]
  rw [zeroise_def]
  exact (foldl_keep (g := fun t : State => t.getF g j) hk s.revokeKeys).trans rfl

theorem zeroise_clears (s : State) (hp : p < 16) :
    (s.zeroise.psecOf p).planKey = none ∧ (s.zeroise.psecOf p).ide = false ∧ s.zeroise.getF F.SEC_PKEYID_KEYID p = 0 := by
  have hm := List.mem_range.2 hp
  rw [zeroise_def]
  refine ⟨foldl_read (g := fun t : State => (t.psecOf p).planKey) (P := fun _ => True) hm (fun _ _ _ => trivial) (fun t _ => ?_) (fun t x hx => ?_)
      trivial, foldl_read (g := fun t : State => (t.psecOf p).ide) (P := fun _ => True) hm (fun _ _ _ => trivial) (fun t _ => ?_)
      (fun t x hx => ?_) trivial, foldl_read (g := fun t : State => t.getF F.SEC_PKEYID_KEYID p) (P := fun _ => True) hm (fun _ _ _ => trivial)
      (fun t _ => ?_) (fun t x hx => ?_) trivial⟩
  · rw [State.clearKeys, psecOf_setF, psecOf_modPsec_same]
  · rw [State.clearKeys, psecOf_setF, psecOf_modPsec_ne t _ hx.symm]
  · rw [State.clearKeys, psecOf_setF, psecOf_modPsec_same]
  · rw [State.clearKeys, psecOf_setF, psecOf_modPsec_ne t _ hx.symm]
  · rw [State.clearKeys, getF_setF_same _ (by decide)]
    rfl
  · rw [State.clearKeys, getF_setF_ne _ (by decide) (.inr (.inl hx.symm)), getF_modPsec]

/-! ### Start-up ends in vestibule mode -/

/-- `t` is `s` with its ports taken out of use. -/
structure State.DownOp (s t : State) : Prop where
  frame : t = { s with regs := t.regs, ports := t.ports, rq := t.rq, locks := t.locks, lockQ := t.lockQ,
                       boot := { s.boot with holdIn := t.boot.holdIn } }
  regs : ∀ (g : Fld) (j : Nat), g.reg ∉ [Reg.PORT_STATUS, .CTL_MLOCK] → t.getF g j = s.getF g j

theorem State.DownOp.trans (h : s.DownOp t) (h' : t.DownOp u) : s.DownOp u :=
  ⟨h'.frame.trans (by rw [h.frame]), fun g j hg => (h'.regs g j hg).trans (h.regs g j hg)⟩

theorem State.DownOp.foldl {α : Type} {f : State → α → State} (hf : ∀ (s : State) (x : α), s.DownOp (f s x)) (l : List α) (s : State) :
    s.DownOp (l.foldl f s) := by
  induction l generalizing s with
  | nil => exact ⟨rfl, fun _ _ _ => rfl⟩
  | cons x l ih => exact (hf s x).trans (ih _)

theorem modPort_down (s : State) (q : Nat) (f : Port → Port) : s.DownOp (s.modPort q f) := ⟨rfl, fun _ _ _ => rfl⟩

theorem goAway_down (s : State) (reason : Nat) : s.DownOp (s.goAway reason) := .foldl (fun s q => modPort_down s q _) _ s

theorem holdIn_down (s : State) (n : Option Nat) : s.DownOp { s with boot := { s.boot with holdIn := n } } := ⟨rfl, fun _ _ _ => rfl⟩

theorem holdPort_down (s : State) (q : Nat) : s.DownOp (s.holdPort q) := by
  refine ⟨rfl, fun g j hg => ?_⟩
  have hr : g.reg ≠ .PORT_STATUS := fun h => hg (h ▸ List.mem_cons_self)
  rw [State.holdPort, getF_setF_apart _ (by decide) (.inl hr), getF_wrReg_reg _ hr]

theorem unlockPorts_down (s : State) : s.DownOp s.unlockPorts := by
  refine ⟨rfl, fun g j hg => ?_⟩
  have hr : g.reg ≠ .CTL_MLOCK := fun h => hg (by simp [h])
  rw [State.unlockPorts, State.lockBits, getF_setF_apart _ (by decide) (.inl hr), State.setLockQ, getF_setF_apart _ (by decide) (.inl hr)]
  rfl

theorem holdPorts_down (s : State) : s.DownOp s.holdPorts := by
  rw [holdPorts_eq]
  exact (unlockPorts_down s).trans (.foldl holdPort_down _ _)

theorem downPorts_down (s : State) : s.DownOp s.downPorts := by
  unfold State.downPorts
  split
  · exact (goAway_down s 2).trans (holdIn_down _ _)
  · exact holdPorts_down s

theorem vestibule_def (s : State) (reason : Nat) :
    s.vestibule reason = s.downPorts.setFs 0 [(F.BOOT_STATUS_REASON, reason), (F.BOOT_STATUS_VESTIBULE, 1)] := rfl

theorem vestibule_getF {g : Fld} (hg : g.reg ∉ [Reg.PORT_STATUS, .CTL_MLOCK, .BOOT_STATUS]) (s : State) (reason j : Nat) :
    (s.vestibule reason).getF g j = s.getF g j := by
  simp only [List.mem_cons, List.not_mem_nil, or_false, not_or] at hg
  obtain ⟨h1, h2, h3⟩ := hg
  rw [vestibule_def]
  refine (getF_setFs_ne _ ?_).trans ((downPorts_down s).regs g j (by simp [h1, h2]))
  simp only [List.forall_mem_cons]
  exact ⟨.inl h3, .inl h3, by simp⟩

theorem vestibule_shows (s : State) {reason : Nat} (hr : reason < 256) :
    (s.vestibule reason).flag F.BOOT_STATUS_VESTIBULE 0 = true ∧ (s.vestibule reason).getF F.BOOT_STATUS_REASON 0 = reason := by
  rw [vestibule_def, setFs_cons, setFs_cons, setFs_nil]
  refine ⟨flag_setF_bit (by decide) rfl true, ?_⟩
  rw [getF_setF_apart _ (by decide) (.inr (by decide)), getF_setF_same _ (by decide)]
  exact Nat.mod_eq_of_lt hr

/-! ### TAMPER_ALARM -/

/-- The record of the first alarm. -/
def State.alarmRec (s : State) (cause sensor : Nat) : State :=
  s.setFs 0 [(F.SEC_TAMPER_CAUSE, cause), (F.SEC_TAMPER_SENSOR, sensor), (F.SEC_TAMPER_PHASE, s.phase), (F.SEC_TTIME_TB, s.now),
    (F.SEC_STATUS_TAMPERED, 1)]

/-- The nonces, a waiting unlock and the reports go. -/
def State.dropDebug (s : State) : State := { s with tamp := ⟨false, []⟩, debugWant := false, nonces := [] }

@[simp] theorem getF_dropDebug (s : State) (g : Fld) (j : Nat) : s.dropDebug.getF g j = s.getF g j := rfl

/-- The first alarm is recorded and the key store zeroised. -/
def State.alarmed (s : State) (cause sensor : Nat) : State := ((s.addF F.SEC_TAMPER_COUNT 0 1).alarmRec cause sensor).dropDebug.zeroise

/-- CDI_0 goes. -/
def State.dropCdi (s : State) : State := { s with boot := { s.boot with cdi0 := [] } }

@[simp] theorem getF_dropCdi (s : State) (g : Fld) (j : Nat) : s.dropCdi.getF g j = s.getF g j := rfl

theorem dropCdi_cdi0 (s : State) : s.dropCdi.boot.cdi0 = [] := rfl
theorem dropCdi_debugWant (s : State) : s.dropCdi.debugWant = s.debugWant := rfl
theorem dropCdi_held (s : State) : s.dropCdi.boot.held = s.boot.held := rfl
theorem dropCdi_quiet (s : State) : s.dropCdi.boot.quiet = s.boot.quiet := rfl

theorem addCount_phase (s : State) : (s.addF F.SEC_TAMPER_COUNT 0 1).phase = s.phase := by
  simp only [State.phase, State.addF, flag_setF_apart (f := F.SEC_TAMPER_COUNT) (g := F.CTL_STATUS_READY) (by decide) (.inl (by decide)),
    flag_setF_apart (f := F.SEC_TAMPER_COUNT) (g := F.SEC_STATUS_KEYOP) (by decide) (.inl (by decide)),
    getF_setF_apart (f := F.SEC_TAMPER_COUNT) (g := F.PWR_STATUS_STATE) s (by decide) (.inl (by decide))]
  rfl

theorem alarm_first {cause sensor : Nat} (hc : 1 ≤ cause) (hc' : cause ≤ 4) (hs : sensor < 256) (ht : s.flag F.SEC_STATUS_TAMPERED 0 = false) :
    exec (.tamperAlarm cause sensor) s = .next (
      if s.phase = 0 then
        if (s.alarmed cause sensor).dropCdi.boot.held = true ∨ (s.alarmed cause sensor).dropCdi.boot.quiet = true
          then (s.alarmed cause sensor).dropCdi else (s.alarmed cause sensor).dropCdi.vestibule rsTAMPER
      else (((List.range 16).filter (s.alarmed cause sensor).exists').foldl State.revoke (s.alarmed cause sensor)).endAll) := by
  change execTamperAlarm cause sensor s = _
  unfold execTamperAlarm
  rw [if_neg (not_not.2 ⟨hc, hc', hs⟩)]
  dsimp only
  rw [if_neg (by simp [ht])]
  by_cases hp : s.phase = 0
  · rw [if_pos hp, if_pos ((addCount_phase s).trans hp)]
    rfl
  · rw [if_neg hp, if_neg (mt (addCount_phase s).symm.trans hp)]
    rfl

theorem alarm_again {cause sensor : Nat} (hc : 1 ≤ cause) (hc' : cause ≤ 4) (hs : sensor < 256) (ht : s.flag F.SEC_STATUS_TAMPERED 0 = true) :
    exec (.tamperAlarm cause sensor) s = .next (s.addF F.SEC_TAMPER_COUNT 0 1) := by
  change execTamperAlarm cause sensor s = _
  unfold execTamperAlarm
  rw [if_neg (not_not.2 ⟨hc, hc', hs⟩)]
  dsimp only
  rw [if_pos (by simp [ht])]

theorem alarmRec_holds {cause sensor : Nat} (hc : cause ≤ 4) (hs : sensor < 256) :
    (s.alarmRec cause sensor).flag F.SEC_STATUS_TAMPERED 0 = true ∧ (s.alarmRec cause sensor).getF F.SEC_TAMPER_CAUSE 0 = cause ∧
      (s.alarmRec cause sensor).getF F.SEC_TAMPER_SENSOR 0 = sensor ∧ (s.alarmRec cause sensor).getF F.SEC_TTIME_TB 0 = s.now ∧
      (s.alarmRec cause sensor).getF F.SEC_TAMPER_PHASE 0 = s.phase % 2 ^ 2 := by
  simp only [State.alarmRec, setFs_cons, setFs_nil]
  refine ⟨flag_setF_bit (by decide) rfl true, ?_, ?_, ?_, ?_⟩
  · rw [getF_setF_apart _ (by decide) (.inl (by decide)), getF_setF_apart _ (by decide) (.inl (by decide)),
      getF_setF_apart _ (by decide) (.inr (by decide)), getF_setF_apart _ (by decide) (.inr (by decide)), getF_setF_same _ (by decide)]
    exact Nat.mod_eq_of_lt (show cause < 2 ^ 8 by omega)
  · rw [getF_setF_apart _ (by decide) (.inl (by decide)), getF_setF_apart _ (by decide) (.inl (by decide)),
      getF_setF_apart _ (by decide) (.inr (by decide)), getF_setF_same _ (by decide)]
    exact Nat.mod_eq_of_lt (show sensor < 2 ^ 8 by omega)
  · rw [getF_setF_apart _ (by decide) (.inl (by decide)), getF_setF_same _ (by decide)]
    exact Nat.mod_eq_of_lt (getF_lt s F.TIME_NOW_NS 0)
  · rw [getF_setF_apart _ (by decide) (.inl (by decide)), getF_setF_apart _ (by decide) (.inl (by decide)), getF_setF_same _ (by decide)]
    rfl

/-- What the alarm's record holds. -/
theorem alarmed_record {cause sensor : Nat} (hc : cause ≤ 4) (hs : sensor < 256) :
    (s.alarmed cause sensor).flag F.SEC_STATUS_TAMPERED 0 = true ∧ (s.alarmed cause sensor).getF F.SEC_TAMPER_CAUSE 0 = cause ∧
      (s.alarmed cause sensor).getF F.SEC_TAMPER_SENSOR 0 = sensor ∧ (s.alarmed cause sensor).getF F.SEC_TTIME_TB 0 = s.now ∧
      (s.alarmed cause sensor).getF F.SEC_TAMPER_PHASE 0 = s.phase % 2 ^ 2 := by
  have hnow : (s.addF F.SEC_TAMPER_COUNT 0 1).now = s.now := getF_setF_apart s (by decide) (.inl (by decide))
  have h := alarmRec_holds (s := s.addF F.SEC_TAMPER_COUNT 0 1) hc hs
  rw [hnow, addCount_phase] at h
  have hz : ∀ {g : Fld}, g.reg ≠ .SEC_PKEYID → ∀ j,
      (s.alarmed cause sensor).getF g j = ((s.addF F.SEC_TAMPER_COUNT 0 1).alarmRec cause sensor).getF g j := fun hg j => by
    rw [State.alarmed, zeroise_getF hg, getF_dropDebug]
  rw [State.flag, hz (by decide), hz (by decide), hz (by decide), hz (by decide), hz (by decide)]
  exact h

/-- An alarm takes the nonces, a waiting unlock and the reports. -/
theorem alarmed_clears (s : State) (cause sensor : Nat) :
    (s.alarmed cause sensor).nonces = [] ∧ (s.alarmed cause sensor).debugWant = false ∧ (s.alarmed cause sensor).tamp = ⟨false, []⟩ ∧
      (s.alarmed cause sensor).boot = s.boot := by
  obtain ⟨r, x, k, h⟩ := zeroise_eq ((s.addF F.SEC_TAMPER_COUNT 0 1).alarmRec cause sensor).dropDebug
  rw [State.alarmed, h]
  exact ⟨rfl, rfl, rfl, rfl⟩

theorem alarmed_exists (cause sensor : Nat) : (s.alarmed cause sensor).exists' p = s.exists' p := by
  have h : (s.alarmed cause sensor).getF F.SEC_PCTL_STATE p = s.getF F.SEC_PCTL_STATE p := by
    rw [State.alarmed, zeroise_getF (by decide), getF_dropDebug, State.alarmRec, getF_setFs_ne, State.addF,
      getF_setF_apart _ (by decide) (.inl (by decide))]
    simp only [List.forall_mem_cons]
    exact ⟨.inl (by decide), .inl (by decide), .inl (by decide), .inl (by decide), .inl (by decide), by simp⟩
  rw [State.exists', h, State.exists']

theorem alarm_clears {cause sensor : Nat} (hc : 1 ≤ cause) (hc' : cause ≤ 4) (hs : sensor < 256) (ht : s.flag F.SEC_STATUS_TAMPERED 0 = false)
    (hp : s.phase ≠ 0) :
    ∃ t, exec (.tamperAlarm cause sensor) s = .next t ∧ t.flag F.SEC_STATUS_TAMPERED 0 = true ∧ t.getF F.SEC_TAMPER_CAUSE 0 = cause ∧
      t.getF F.SEC_TAMPER_SENSOR 0 = sensor ∧ t.getF F.SEC_TTIME_TB 0 = s.now ∧ t.sessions = [] ∧
      t.nonces = [] ∧ t.debugWant = false ∧ t.tamp = ⟨false, []⟩ ∧
      ∀ p < 16, (t.psecOf p).planKey = none ∧ (t.psecOf p).ide = false ∧ t.getF F.SEC_PKEYID_KEYID p = 0 ∧
        (s.exists' p = true → (t.key p).revoked = true) := by
  obtain ⟨r1, r2, r3, r4, -⟩ := alarmed_record (s := s) (cause := cause) hc' hs
  obtain ⟨c1, c2, c3, -⟩ := alarmed_clears s cause sensor
  have hz : ∀ p < 16, ((s.alarmed cause sensor).psecOf p).planKey = none ∧ ((s.alarmed cause sensor).psecOf p).ide = false ∧
      (s.alarmed cause sensor).getF F.SEC_PKEYID_KEYID p = 0 := fun p hp => zeroise_clears _ hp
  have hx : ∀ p, (s.alarmed cause sensor).exists' p = s.exists' p := fun p => alarmed_exists cause sensor
  refine ⟨_, (alarm_first hc hc' hs ht).trans (congrArg _ (if_neg hp)), ?_⟩
  generalize s.alarmed cause sensor = u at r1 r2 r3 r4 c1 c2 c3 hz hx
  have hk := (State.Keeps.foldl revoke_keeps ((List.range 16).filter u.exists') u).trans (endAll_keeps _)
  obtain ⟨f1, f2, f3⟩ := hk.frame
  refine ⟨hk.tampered.trans r1, (hk.regs _ _ (by decide)).trans r2, (hk.regs _ _ (by decide)).trans r3, (hk.regs _ _ (by decide)).trans r4,
    endAll_sessions _, f1.trans c1, f2.trans c2, f3.trans c3, fun p hp => ?_⟩
  obtain ⟨z1, z2, z3⟩ := hz p hp
  refine ⟨(hk.psec p).1.trans z1, (hk.psec p).2.trans z2, (hk.regs _ _ (by decide)).trans z3, fun he => (endAll_keeps _).keys p ?_⟩
  exact revokeAll_key (List.mem_filter.2 ⟨List.mem_range.2 hp, (hx p).trans he⟩) u

theorem vestibule_frame (s : State) (reason : Nat) :
    (s.vestibule reason).boot.cdi0 = s.boot.cdi0 ∧ (s.vestibule reason).debugWant = s.debugWant := by
  rw [vestibule_def]
  change s.downPorts.boot.cdi0 = _ ∧ s.downPorts.debugWant = _
  rw [(downPorts_down s).frame]
  exact ⟨rfl, rfl⟩

theorem alarm_atStart {cause sensor : Nat} (hc : 1 ≤ cause) (hc' : cause ≤ 4) (hs : sensor < 256) (ht : s.flag F.SEC_STATUS_TAMPERED 0 = false)
    (hp : s.phase = 0) (hh : s.boot.held = false) (hq : s.boot.quiet = false) :
    ∃ t, exec (.tamperAlarm cause sensor) s = .next t ∧ t.flag F.SEC_STATUS_TAMPERED 0 = true ∧ t.getF F.SEC_TAMPER_PHASE 0 = 0 ∧
      t.flag F.BOOT_STATUS_VESTIBULE 0 = true ∧ t.getF F.BOOT_STATUS_REASON 0 = 2 ∧ t.boot.cdi0 = [] ∧ t.debugWant = false := by
  obtain ⟨r1, -, -, -, r5⟩ := alarmed_record (s := s) (cause := cause) hc' hs
  obtain ⟨-, c2, -, c4⟩ := alarmed_clears s cause sensor
  have hr : ¬ ((s.alarmed cause sensor).dropCdi.boot.held = true ∨ (s.alarmed cause sensor).dropCdi.boot.quiet = true) := by
    rw [dropCdi_held, dropCdi_quiet, c4]
    simp [hh, hq]
  refine ⟨(s.alarmed cause sensor).dropCdi.vestibule rsTAMPER, ?_, ?_⟩
  · rw [alarm_first hc hc' hs ht, if_pos hp, if_neg hr]
  obtain ⟨s1, s2⟩ := vestibule_shows (s.alarmed cause sensor).dropCdi (reason := rsTAMPER) (by decide)
  obtain ⟨v1, v2⟩ := vestibule_frame (s.alarmed cause sensor).dropCdi rsTAMPER
  rw [hp] at r5
  rw [dropCdi_cdi0] at v1
  rw [dropCdi_debugWant] at v2
  refine ⟨?_, ?_, s1, s2, v1, v2.trans c2⟩
  · rw [State.flag, vestibule_getF (by decide), getF_dropCdi]
    exact r1
  · rw [vestibule_getF (by decide), getF_dropCdi]
    exact r5

/-! ### TAMPER_CLEAR -/

theorem tamperClear_spec (ht : s.flag F.SEC_STATUS_TAMPERED 0 = true) (v : Word64) (trip : Bool) :
    ∃ t, exec (.tamperClear v trip) s = .next t ∧ s.Only t [(F.SEC_STATUS_TAMPERED, 0)] ∧
      (t.flag F.SEC_STATUS_TAMPERED 0 = false ↔ s.tamp.cycled = true ∧ v.toNat ∈ s.tamp.reports ∧ trip = false) := by
  by_cases h : s.tamp.cycled = true ∧ v.toNat ∈ s.tamp.reports ∧ trip = false
  · refine ⟨s.setF F.SEC_STATUS_TAMPERED 0 0, if_pos ?_, only_setF s (by decide), iff_of_true (flag_setF_bit (by decide) rfl false) h⟩
    simpa [ht] using h
  · refine ⟨s, if_neg fun hn => h ?_, only_refl s _, iff_of_false (by simp [ht]) h⟩
    simpa [ht] using hn

/-- Settles O54: messages of the bound session, debug challenges, and the tamper record. -/
theorem secretsAreGuarded : Obligations.SecretsAreGuarded := by
  unfold Obligations.SecretsAreGuarded
  refine ⟨?_, ?_, ?_, ?_, ?_, ?_, ?_, ?_, ?_, ?_, ?_⟩
  · intro s who p digest hp hr hq hh hm hd ht hpl
    have hw : who ≤ 17 := by
      rcases hm with ⟨rfl, -⟩ | ⟨rfl, -⟩ <;> omega
    refine ⟨_, setPlanKey_exec hp ⟨hw, hr, hq, hh⟩ hm hd ht hpl digest, ?_, ?_, rfl, regsBut_setF _ (by decide)⟩
    · rw [psecOf_vendor, psecOf_setF, psecOf_modPsec_same]
    · exact planKey_id ..
  · intro s p mode id hp hr hq hh hs hl hm hmode
    refine ⟨_, setHostMode_exec hp ⟨by omega, hr, hq, hh⟩ hs hl hm hmode, ?_, regsBut_setF _ (by decide), ?_, rfl⟩
    · exact hostMode_holds _ hmode ..
    · rw [psecOf_vendor, psecOf_setF, psecOf_modPsec_same]
  · intro s p mode hp hr hq hh hn
    exact setHostMode_refused hp ⟨by omega, hr, hq, hh⟩ hn
  · intro s p id hp hr hq hh hs hm
    exact ⟨_, ideKm_exec hp ⟨by omega, hr, hq, hh⟩ hs hm, by rw [psecOf_vendor, psecOf_modPsec_same], rfl⟩
  · intro s hr hq hh
    have h : s.Responds 0 := ⟨by decide, hr, hq, hh⟩
    exact ⟨(s.freeBytes 32).2, _, h.answers (execDebugNonce.eq_1 ..), garbage_length .., rfl, rfl⟩
  · intro s nonce level g hr hq hh
    have h : s.Responds 0 := ⟨by decide, hr, hq, hh⟩
    dsimp only
    rw [← debugOk_iff]
    refine ⟨fun hn hg hl => ⟨_, (debugUnlock_exec h nonce level g).trans (congrArg _ ((if_neg ?_).trans (if_neg (by omega)))), rfl, ?_,
        regsBut_setF _ (by decide)⟩,
      fun hn hg hl => (debugUnlock_exec h nonce level g).trans (congrArg _ ((if_neg ?_).trans (if_pos hl))),
      fun hn => ⟨_, (debugUnlock_exec h nonce level g).trans (congrArg _ (if_pos hn)), rfl, getF_addF_same (by decide) 0 1,
        regsBut_setF _ (by decide)⟩⟩
    · simp [hn, hg]
      omega
    · have := getF_lt s F.SEC_DEBUG_LEVEL 0
      exact (getF_setF_same _ (by decide)).trans (Nat.mod_eq_of_lt (max_lt (show level < 2 ^ 2 by omega) this))
    · simp [hn, hg]
      omega
  · intro s cause sensor hc hc' hs ht hp
    exact alarm_clears hc hc' hs ht hp
  · intro s cause sensor hc hc' hs ht hp hh hq
    exact alarm_atStart hc hc' hs ht hp hh hq
  · intro s cause sensor hc hc' hs ht
    exact ⟨_, alarm_again hc hc' hs ht, only_setF s (by decide), getF_addF_same (by decide) 0 1⟩
  · intro s v trip ht
    exact tamperClear_spec ht v trip
  · intro s
    exact ⟨_, rfl, flag_setF_bit (by decide) rfl true, only_setF s (by decide)⟩

end Sys2Proof.Machine
end

section
/-! SUPPORT. The writes of registers: field by field, as an action, or not at all. -/

namespace Sys2Proof.Machine

variable {s t : State} {r : Reg} {a i v : Nat}

/-! ## The fields of a register -/

/-- The fields lie within a word and have no bit in common. -/
def fieldsFit : List Fld → Bool
  | [] => true
  | f :: l => decide (f.lo + f.w ≤ 64) && l.all (fun g => decide (f.lo + f.w ≤ g.lo) || decide (g.lo + g.w ≤ f.lo)) && fieldsFit l

theorem fields_fit (r : Reg) : fieldsFit r.fields = true := by cases r <;> rfl

theorem fields_reg (r : Reg) : (r.fields.all fun f => decide (f.reg = r)) = true := by cases r <;> rfl

theorem fieldsFit_cons {f : Fld} {l : List Fld} :
    fieldsFit (f :: l) = true ↔ f.lo + f.w ≤ 64 ∧ (∀ g ∈ l, f.lo + f.w ≤ g.lo ∨ g.lo + g.w ≤ f.lo) ∧ fieldsFit l = true := by
  simp [fieldsFit, and_assoc]

theorem reg_of_field {f : Fld} (h : f ∈ r.fields) : f.reg = r := by simpa using List.all_eq_true.1 (fields_reg r) f h

theorem fieldsFit_mem {f : Fld} {l : List Fld} (h : fieldsFit l = true) (hf : f ∈ l) : f.lo + f.w ≤ 64 := by
  induction l with
  | nil => cases hf
  | cons g l ih =>
    obtain ⟨h1, -, h3⟩ := fieldsFit_cons.1 h
    rcases List.mem_cons.1 hf with rfl | hf
    · exact h1
    · exact ih h3 hf

/-! ### A word rewritten field by field -/

/-- One field of a word takes what `new` makes of what it holds. -/
def putField (new : Fld → Nat → Nat) (a : Nat) (f : Fld) : Nat := setBits a f.lo f.w (new f (bitsOf a f.lo f.w))

theorem putField_other (new : Fld → Nat → Nat) {f : Fld} {lo w : Nat} (h : f.lo + f.w ≤ lo ∨ lo + w ≤ f.lo) :
    bitsOf (putField new a f) lo w = bitsOf a lo w := bitsOf_setBits_ne h

theorem putFields_other (new : Fld → Nat → Nat) {l : List Fld} {lo w : Nat} (h : ∀ f ∈ l, f.lo + f.w ≤ lo ∨ lo + w ≤ f.lo) (a : Nat) :
    bitsOf (l.foldl (putField new) a) lo w = bitsOf a lo w :=
  foldl_keep (g := fun a => bitsOf a lo w) (fun _ f hf => putField_other new (h f hf)) a

/-- Fields without a bit in common are rewritten each on its own. -/
theorem putFields_same (new : Fld → Nat → Nat) {l : List Fld} (hl : fieldsFit l = true) {f : Fld} (hf : f ∈ l) (a : Nat) :
    bitsOf (l.foldl (putField new) a) f.lo f.w = new f (bitsOf a f.lo f.w) % 2 ^ f.w := by
  induction l generalizing a with
  | nil => cases hf
  | cons g l ih =>
    obtain ⟨-, h2, h3⟩ := fieldsFit_cons.1 hl
    rw [List.foldl_cons]
    by_cases hm : f ∈ l
    · rw [ih h3 hm, putField_other new (h2 f hm)]
    · obtain rfl : f = g := (List.mem_cons.1 hf).resolve_right hm
      rw [putFields_other new (fun x hx => (h2 x hx).symm), putField, bitsOf_setBits_same]

theorem setBits_same {f : Fld} : setBits a f.lo f.w (bitsOf a f.lo f.w) = a := by
  refine Nat.eq_of_testBit_eq fun b => ?_
  rw [testBit_setBits]
  split
  · next h =>
    rw [bitsOf, Nat.testBit_mod_two_pow, Nat.testBit_div_two_pow, Nat.sub_add_cancel h.1]
    simp [show b - f.lo < f.w by omega]
  · rfl

/-! ### The value a field takes -/

/-- What a write of `x` makes of a field that holds `old`, by its access code. -/
def State.fieldNew (s : State) (i v : Nat) (f : Fld) (old : Nat) : Nat :=
  match f.acc with
  | .RW => if s.fieldOk i f (bitsOf v f.lo f.w) then s.fieldVal i f (bitsOf v f.lo f.w) else old
  | .W1C => old &&& (2 ^ f.w - 1 - bitsOf v f.lo f.w)
  | .W1S => old ||| bitsOf v f.lo f.w
  | _ => old

theorem written'_def (s : State) (r : Reg) (i v : Nat) : s.written' r i v = r.fields.foldl (putField (s.fieldNew i v)) (s.rdReg r i) := by
  refine congrArg (r.fields.foldl · _) (funext fun a => funext fun f => ?_)
  rw [putField, State.fieldNew]
  rcases hf : f.acc <;> dsimp only
  case RW =>
    split
    · rfl
    · exact setBits_same.symm
  case RO | WO => exact setBits_same.symm

theorem setBits_zero_le (v k : Nat) : setBits v k 1 0 ≤ v := by
  refine Nat.le_of_testBit fun b hb => ?_
  rw [testBit_setBits] at hb
  split at hb
  · simp at hb
  · exact hb

theorem fieldVal_lt {f : Fld} {x : Nat} (hx : x < 2 ^ f.w) (s : State) (i : Nat) : s.fieldVal i f x < 2 ^ f.w := by
  unfold State.fieldVal
  split
  · next h =>
    rw [h]
    exact unsigned_lt 32 _
  · split
    · exact List.foldlRecOn (motive := fun y => y < 2 ^ f.w) _ _ hx fun y hy k _ => by
        split
        · exact lt_of_le_of_lt (setBits_zero_le y k) hy
        · exact hy
    · exact hx

theorem fieldNew_lt {f : Fld} {old : Nat} (h : old < 2 ^ f.w) (s : State) (i v : Nat) : s.fieldNew i v f old < 2 ^ f.w := by
  have hx := bitsOf_lt v f.lo f.w
  unfold State.fieldNew
  split
  · split
    · exact fieldVal_lt hx s i
    · exact h
  · exact lt_of_le_of_lt Nat.and_le_left h
  · exact Nat.or_lt_two_pow h hx
  · exact h

/-- Every field of a register that is written takes its value. -/
theorem written'_field {f : Fld} (hf : f ∈ r.fields) (s : State) (i v : Nat) :
    bitsOf (s.written' r i v) f.lo f.w = s.fieldNew i v f (bitsOf (s.rdReg r i) f.lo f.w) := by
  rw [written'_def, putFields_same _ (fields_fit r) hf]
  exact Nat.mod_eq_of_lt (fieldNew_lt (bitsOf_lt ..) s i v)

/-- A bit of no field stays. -/
theorem written'_gap {b : Nat} (hb : ∀ f ∈ r.fields, b < f.lo ∨ f.lo + f.w ≤ b) (s : State) (i v : Nat) :
    bitAt (s.written' r i v) b = bitAt (s.rdReg r i) b := by
  rw [written'_def, bitAt_eq_bitsOf, putFields_other _ (fun f hf => (hb f hf).symm.imp_right Nat.succ_le_of_lt), ← bitAt_eq_bitsOf]

theorem written'_lt (s : State) (r : Reg) (i v : Nat) : s.written' r i v < 2 ^ 64 := by
  rw [written'_def]
  exact List.foldlRecOn (motive := fun y => y < 2 ^ 64) _ _ (rdReg_lt s r i) fun y hy f hf =>
    setBits_lt_pow hy (fieldsFit_mem (fields_fit r) hf)

/-! ## The write of a register -/

theorem write_at (ha : regAt a = some (r, i)) (hh : s.boot.held = false) (v : Word64) (ok : Bool) :
    exec (.registerWrite a v ok) s = (s.actReg r i v ok).getD (.next (s.storeReg r i v.toNat)) := by
  change execRegisterWrite a v ok s = _
  unfold execRegisterWrite
  rw [ha]
  dsimp only
  rw [if_neg (by simp [hh])]
  cases s.actReg r i v ok <;> rfl

theorem write_held (ha : regAt a = some (r, i)) (hh : s.boot.held = true) (v : Word64) (ok : Bool) : exec (.registerWrite a v ok) s = .next s := by
  change execRegisterWrite a v ok s = _
  unfold execRegisterWrite
  rw [ha]
  dsimp only
  rw [if_pos hh]

/-- What holds of a write outside reset, and of no write, holds of every write. -/
theorem write_still (ha : regAt a = some (r, i)) {v : Word64} {ok : Bool} (h : (s.actReg r i v ok).getD (.next (s.storeReg r i v.toNat)) = .next s) :
    exec (.registerWrite a v ok) s = .next s := by
  rcases hh : s.boot.held
  · exact (write_at ha hh v ok).trans h
  · exact write_held ha hh v ok

theorem storeReg_refused (h : s.regBusy r i = true ∨ s.smpBad r i v = true) : s.storeReg r i v = s :=
  if_pos (by rcases h with h | h <;> simp [h])

/-- A register without a record is written, and nothing else. -/
theorem storeReg_plain (hb : s.regBusy r i = false) (hm : s.smpBad r i v = false) (hr : s.ringRegBad r i v = false)
    (hs : ¬ (r = .LATCH_SCTX ∧ s.secondStart i v = true)) (hf : recordFields r = []) : s.storeReg r i v = s.wrReg r i (s.written' r i v) := by
  have hc : r ≠ .CORE_FAULT := by
    rintro rfl
    cases hf
  have hs' : (r == .LATCH_SCTX && s.secondStart i v) = false := by
    rw [Bool.eq_false_iff, ne_eq, Bool.and_eq_true, beq_iff_eq]
    exact hs
  unfold State.storeReg
  rw [if_neg (by rw [hb, hm, hr, hs']; decide)]
  dsimp only
  rw [hf, if_neg hc]
  split <;> rfl

theorem smpBad_else (h1 : r ≠ .SMP_PSHAPE) (h2 : r ≠ .SMP_PSET) : s.smpBad r i v = false := by
  rw [State.smpBad, beq_false_of_ne h1, beq_false_of_ne h2, Bool.or_false, Bool.false_and]

/-- A sampler register with a VOCAB or COUNT out of range takes no write. -/
theorem smpBad_of (h : (r = .SMP_PSHAPE ∧ ¬ (1 ≤ bitsOf v 39 21 ∧ bitsOf v 39 21 ≤ 1048576)) ∨
      r = .SMP_PSET ∧ ¬ (1 ≤ bitsOf v 51 13 ∧ bitsOf v 51 13 ≤ 4096)) : s.smpBad r i v = true := by
  have hany : ∀ f : Fld, f ∈ r.fields → f.acc = .RW → s.fieldOk i f (bitsOf v f.lo f.w) = false →
      (r == .SMP_PSHAPE || r == .SMP_PSET) = true → s.smpBad r i v = true := fun f hf ha ho hr => by
    rw [State.smpBad, hr, Bool.true_and, List.any_eq_true]
    exact ⟨f, hf, by simp [ha, ho]⟩
  rcases h with ⟨rfl, h⟩ | ⟨rfl, h⟩
  · refine hany F.SMP_PSHAPE_VOCAB (by decide) rfl ?_ rfl
    change (decide _ && decide _) = false
    rw [← Bool.decide_and]
    exact decide_eq_false h
  · refine hany F.SMP_PSET_COUNT (by decide) rfl ?_ rfl
    change (decide _ && decide _) = false
    rw [← Bool.decide_and]
    exact decide_eq_false h

/-! ## Where the registers of actions lie -/

theorem regAt_phbm {p : Nat} (h : p < 16) : regAt (0xFF0003000100 + 16 * p) = some (.MEM_PHBM, p) := by
  interval_cases p <;> rfl

theorem regAt_pcel {p : Nat} (h : p < 16) : regAt (0xFF0003000108 + 16 * p) = some (.MEM_PCEL, p) := by
  interval_cases p <;> rfl

theorem regAt_portCtrl {q : Nat} (h : q < 36) : regAt (0xFF0005000008 + 0x1000 * q) = some (.PORT_CTRL, q) := by
  interval_cases q <;> rfl

theorem regAt_paneFreq {q : Nat} (h : q < 32) : regAt (0xFF0002000000 + 0x40 * q) = some (.PANE_FREQ, q) := by
  interval_cases q <;> rfl

theorem regAt_pset {p : Nat} (h : p < 16) : regAt (0xFF0007000100 + 8 * p) = some (.RTE_PSET, p) := by
  interval_cases p <;> rfl

theorem regAt_timeStep : regAt 0xFF0002800028 = some (.TIME_STEP, 0) := rfl

/-! ## The record of a core's fault -/

/-- The record of a core's fault is cleared, with FAULTED. -/
theorem coreFault_cleared (hb : bitAt v 16 = true) :
    s.storeReg .CORE_FAULT i v = ((s.wrReg .CORE_FAULT i (s.written' .CORE_FAULT i v)).setFs i
      [(F.CORE_FAULT_SEQ, 0), (F.CORE_FAULT_ENGINE, 0), (F.CORE_FAULT_CODE, 0)]).setF F.CORE_STATUS_FAULTED i 0 :=
  (if_neg Bool.false_ne_true).trans ((if_pos hb).trans (if_pos rfl))

/-- A 1 written to VALID clears it. -/
theorem coreFault_valid (hb : bitAt v 16 = true) (u : State) :
    (u.wrReg .CORE_FAULT i (s.written' .CORE_FAULT i v)).getF F.CORE_FAULT_VALID i = 0 := by
  have hx : bitsOf v F.CORE_FAULT_VALID.lo F.CORE_FAULT_VALID.w = 1 := by
    rw [bitAt_eq_bitsOf] at hb
    exact beq_iff_eq.1 hb
  rw [State.getF, show F.CORE_FAULT_VALID.reg = .CORE_FAULT from rfl, rdReg_wrReg_same,
    Nat.mod_eq_of_lt (written'_lt ..), written'_field (by decide)]
  change _ &&& (2 ^ 1 - 1 - bitsOf v F.CORE_FAULT_VALID.lo F.CORE_FAULT_VALID.w) = 0
  rw [hx]
  exact Nat.and_zero _

/-- Settles O57: the store of a register field by field, the actions by their addresses, and the writes that change nothing. -/
theorem registersAreWritten : Obligations.RegistersAreWritten := by
  unfold Obligations.RegistersAreWritten
  refine ⟨?_, ?_, ?_, ?_, ?_, ?_, ?_, ?_, ?_, ?_, ?_⟩
  · intro s a i v ok r hh ha hn hb hr hs hf
    have hm : s.smpBad r i v.toNat = false := smpBad_else (by rintro rfl; cases hn) (by rintro rfl; cases hn)
    have he : exec (.registerWrite a v ok) s = .next (s.wrReg r i (s.written' r i v.toNat)) := by
      rw [write_at ha hh, Option.isNone_iff_eq_none.1 hn, Option.getD_none, storeReg_plain hb hm hr hs hf]
    refine ⟨_, he, rfl, fun r' j h => rdReg_wrReg_ne s _ h, fun f hf => ?_, fun b hgap => ?_⟩
    · have hreg := reg_of_field hf
      have hg : (s.wrReg r i (s.written' r i v.toNat)).getF f i = s.fieldNew i v.toNat f (s.getF f i) := by
        rw [State.getF, State.getF, hreg, rdReg_wrReg_same, Nat.mod_eq_of_lt (written'_lt ..), written'_field hf]
      rw [hg]
      rfl
    · rw [rdReg_wrReg_same, Nat.mod_eq_of_lt (written'_lt ..), written'_gap hgap]
  · intro s a i v ok r ha hn hb
    refine write_still ha ?_
    rw [Option.isNone_iff_eq_none.1 hn, Option.getD_none, storeReg_refused (.inl hb)]
  · intro s a i v ok hh ha hb
    refine ⟨_, (write_at ha hh v ok).trans (congrArg Host.Outcome.next (coreFault_cleared hb)), ?_⟩
    simp only [setFs_cons, setFs_nil]
    refine ⟨?_, ?_, ?_, ?_, flag_setF_bit (by decide) rfl false⟩
    · rw [State.flag, getF_setF_apart _ (by decide) (.inl (by decide)), getF_setF_apart _ (by decide) (.inr (by decide)),
        getF_setF_apart _ (by decide) (.inr (by decide)), getF_setF_apart _ (by decide) (.inr (by decide)), coreFault_valid hb]
      rfl
    · rw [getF_setF_apart _ (by decide) (.inl (by decide)), getF_setF_same _ (by decide), Nat.zero_mod]
    · rw [getF_setF_apart _ (by decide) (.inl (by decide)), getF_setF_apart _ (by decide) (.inr (by decide)), getF_setF_same _ (by decide),
        Nat.zero_mod]
    · rw [getF_setF_apart _ (by decide) (.inl (by decide)), getF_setF_apart _ (by decide) (.inr (by decide)),
        getF_setF_apart _ (by decide) (.inr (by decide)), getF_setF_same _ (by decide), Nat.zero_mod]
  · intro s p v ok hh hp
    exact ⟨write_at (regAt_phbm hp) hh v ok, write_at (regAt_pcel hp) hh v ok⟩
  · intro s q v ok hh hq hv
    exact (write_at (regAt_portCtrl hq) hh v ok).trans (if_pos hv)
  · intro s q v ok hh hq
    exact write_at (regAt_paneFreq hq) hh v ok
  · intro s p v ok hh hp
    exact write_at (regAt_pset hp) hh v ok
  · intro s v ok hh
    exact write_at regAt_timeStep hh v ok
  · intro s a i v ok r ha hh
    exact write_held ha hh v ok
  · intro s a i v ok ha
    exact write_still ha rfl
  · intro s a i v ok r ha hstep hrows hbad
    have hm : s.smpBad r i v.toNat = true := smpBad_of hbad
    refine write_still ha ?_
    have hw : s.writeSmp r i v.toNat = s := (if_pos ⟨by simp [hstep], hrows⟩).trans (storeReg_refused (.inr hm))
    rcases hbad with ⟨rfl, -⟩ | ⟨rfl, -⟩ <;> exact congrArg Host.Outcome.next hw

end Sys2Proof.Machine
end

section
/-! SUPPORT. A start of the package, its reset, and what ends it. -/

namespace Sys2Proof.Machine

variable {s t u : State} {p q i n : Nat} {x : StartIn}

/-! ## What a reset leaves -/

/-- The registers of the always-on domain. -/
def aoRegs : List Reg := [.TIME_NOW, .SEC_TAMPER, .SEC_TTIME, .SEC_STATUS]

/-- The state of the package but for the always-on domain. -/
def State.wiped (s : State) (cold : Bool) : State :=
  { State.reset with
    pending := s.pending
    free := s.free
    mem := if cold then [] else (State.reset.rekey s).mem
    gran := if cold then [] else (State.reset.rekey s).gran
    flaws := if cold then [] else (State.reset.rekey s).flaws
    nextSess := s.nextSess
    boot := { Boot.init with ctr0 := s.boot.ctr0, ctr1 := s.boot.ctr1, held := false, low := s.boot.low } }

/-- The timebase's fraction and what tells of power and reports stay. -/
def State.keepAo (r s : State) (cold : Bool) : State :=
  { r with time := { r.time with frac := s.time.frac }, tamp := ⟨s.tamp.cycled || cold, if cold then [] else s.tamp.reports⟩ }

theorem afterReset_lost (s : State) (cold : Bool) : s.afterReset cold true = (s.wiped cold).setF F.SEC_STATUS_AO_LOSS 0 1 := rfl

theorem afterReset_kept (s : State) (cold : Bool) : s.afterReset cold false =
    ((((((s.wiped cold).keepAo s cold).setF F.TIME_NOW_NS 0 s.now).wrReg .SEC_TAMPER 0 (s.rdReg .SEC_TAMPER 0)).wrReg .SEC_TTIME 0
      (s.rdReg .SEC_TTIME 0)).setF F.SEC_STATUS_TAMPERED 0 (s.getF F.SEC_STATUS_TAMPERED 0)) := rfl

theorem getF_wiped (s : State) (cold : Bool) (g : Fld) (j : Nat) : (s.wiped cold).getF g j = State.reset.getF g j := rfl
theorem getF_keepAo (r s : State) (cold : Bool) (g : Fld) (j : Nat) : (r.keepAo s cold).getF g j = r.getF g j := rfl

theorem afterReset_getF {g : Fld} (hg : g.reg ∉ aoRegs) (s : State) (cold ao : Bool) (j : Nat) :
    (s.afterReset cold ao).getF g j = State.reset.getF g j := by
  simp only [aoRegs, List.mem_cons, List.not_mem_nil, or_false, not_or] at hg
  obtain ⟨h1, h2, h3, h4⟩ := hg
  cases ao
  · rw [afterReset_kept, getF_setF_apart _ (by decide) (.inl h4), getF_wrReg_reg _ h3, getF_wrReg_reg _ h2,
      getF_setF_apart _ (by decide) (.inl h1), getF_keepAo, getF_wiped]
  · rw [afterReset_lost, getF_setF_apart _ (by decide) (.inl h4), getF_wiped]

theorem afterReset_boot (s : State) (cold ao : Bool) :
    (s.afterReset cold ao).boot = { Boot.init with ctr0 := s.boot.ctr0, ctr1 := s.boot.ctr1, held := false, low := s.boot.low } := by
  cases ao
  · rw [afterReset_kept]
    rfl
  · rw [afterReset_lost]
    rfl

/-- Plans, cores and keys are gone; what waits to run is not. -/
theorem afterReset_empty (s : State) (cold ao : Bool) :
    (s.afterReset cold ao).plans = [] ∧ (s.afterReset cold ao).cores = [] ∧ (s.afterReset cold ao).keys = [] ∧
      (s.afterReset cold ao).pending = s.pending := by
  cases ao
  · rw [afterReset_kept]
    exact ⟨rfl, rfl, rfl, rfl⟩
  · rw [afterReset_lost]
    exact ⟨rfl, rfl, rfl, rfl⟩

theorem afterReset_now (s : State) (cold : Bool) : (s.afterReset cold false).now = s.now := by
  rw [afterReset_kept, State.now, getF_setF_apart _ (by decide) (.inl (by decide)), getF_wrReg_reg _ (by decide), getF_wrReg_reg _ (by decide),
    getF_setF_same _ (by decide)]
  exact Nat.mod_eq_of_lt (getF_lt s F.TIME_NOW_NS 0)

theorem afterReset_tampered (s : State) (cold ao : Bool) :
    (s.afterReset cold ao).flag F.SEC_STATUS_TAMPERED 0 = (!ao && s.flag F.SEC_STATUS_TAMPERED 0) := by
  cases ao
  · rw [afterReset_kept, State.flag, getF_setF_same _ (by decide), Nat.mod_eq_of_lt (getF_lt s F.SEC_STATUS_TAMPERED 0)]
    rfl
  · rw [afterReset_lost, flag_setF_apart (by decide) (.inr (by decide)), State.flag, getF_wiped]
    rfl

theorem exists_of_state (h : s.getF F.SEC_PCTL_STATE p = 0) : s.exists' p = false := by
  rw [State.exists', h]
  rfl

theorem reset_free (p : Nat) : State.reset.getF F.SEC_PCTL_STATE p = 0 := by
  change bitsOf (BitVec.toNat (BitVec.ofNat 64 _)) 0 2 = 0
  decide

/-! ## The start -/

/-- Stage 1 of a start. -/
def State.started (s : State) (x : StartIn) : State :=
  (({ s with boot := { s.boot with low := if x.cold then [] else s.boot.low } } : State).afterReset x.cold x.aoLoss).stage 1

theorem stage_getF {g : Fld} (hg : F.BOOT_STATUS_STAGE.Apart g) (s : State) (n j : Nat) : (s.stage n).getF g j = s.getF g j :=
  getF_setF_apart s (by decide) hg

theorem stage_same (s : State) {n : Nat} (h : n < 16) : (s.stage n).getF F.BOOT_STATUS_STAGE 0 = n :=
  (getF_setF_same s (by decide)).trans (Nat.mod_eq_of_lt h)

theorem started_getF {g : Fld} (hg : g.reg ∉ Reg.BOOT_STATUS :: aoRegs) (s : State) (x : StartIn) (j : Nat) :
    (s.started x).getF g j = State.reset.getF g j := by
  rw [List.mem_cons, not_or] at hg
  rw [State.started, stage_getF (.inl hg.1), afterReset_getF hg.2]

/-- A start is due. -/
structure State.StartDue (s : State) (x : StartIn) : Prop where
  reset : s.boot.held = true ∨ s.boot.resetIn.isSome = true
  rails : s.boot.low = [] ∨ x.cold = true

theorem State.StartDue.low (h : s.StartDue x) : (if x.cold then [] else s.boot.low) = [] := by
  rcases h.rails with h | h
  · rw [h, ite_self]
  · rw [if_pos h]

theorem State.StartDue.exec (h : s.StartDue x) : exec (.reset x) s =
    if x.cutIn 1 then .next (s.started x).cutShort
    else if x.dieC < 0 then .next { s.started x with boot := { (s.started x).boot with held := true } }
    else if ¬ (x.fuseOk ∧ x.fuses.gradeOk) then .next ((s.started x).vestibule rsFUSE)
    else if ((s.started x).applyFuses x.fuses).flag F.SEC_STATUS_TAMPERED 0 then .next (((s.started x).applyFuses x.fuses).vestibule rsTAMPER)
    else if x.cutIn 2 then .next (((s.started x).applyFuses x.fuses).stage 2).cutShort
    else if ¬ x.norOk then .next ((((s.started x).applyFuses x.fuses).stage 2).vestibule rsNOR)
    else .next ((((s.started x).applyFuses x.fuses).stage 2).stage2.stage3 x) := by
  have hd : ¬ (¬ (s.boot.held = true ∨ s.boot.resetIn.isSome = true) ∨ (s.boot.low ≠ [] ∧ ¬ x.cold = true)) := by
    rintro (hn | ⟨h1, h2⟩)
    · exact hn h.reset
    · exact h.rails.elim h1 h2
  exact if_neg hd

theorem reset_still (h : (s.boot.held = false ∧ s.boot.resetIn = none) ∨ (s.boot.low ≠ [] ∧ x.cold = false)) :
    exec (.reset x) s = .next s := by
  refine if_pos (h.imp (fun h => ?_) fun h => ⟨h.1, by simp [h.2]⟩)
  simp [h.1, h.2]

/-! ### Fuses -/

/-- What one fused-off pane and its cores show. -/
def State.fuseOff (s : State) (q : Nat) : State :=
  (List.range 8).foldl (fun s k => s.setF F.CORE_ID_FUSED (8 * q + k) 1) (s.setF F.PANE_FREQ_STATE q 2)

/-- The hard values, before any pane is fused off. -/
def State.hardValues (s : State) (f : Fuses) : State :=
  ({ s with boot := { s.boot with
    fwKey := f.fwKey, cfgKey := f.cfgKey, cert := f.cert, udsLocked := true, cdi0 := hmac f.uds (leBytes 48 Config.bootRom) } } : State).setFs 0
    [(F.CTL_FEAT0_GRADE, if f.fused = 0 then 1 else 2), (F.CTL_FEAT0_CORES, 256 - 8 * (onesOf f.fused 32).length),
      (F.CTL_FEAT3_PANE_FUSED, f.fused), (F.CTL_FWSTAT_MIN_SVN, f.minSvn), (F.SEC_DEVID_DIGEST, f.devid)]

theorem applyFuses_def (s : State) (f : Fuses) : s.applyFuses f = (onesOf f.fused 32).foldl State.fuseOff (s.hardValues f) := rfl

theorem fuseOff_getF {g : Fld} (h1 : g.reg ≠ .CORE_ID) (h2 : g.reg ≠ .PANE_FREQ) (s : State) (q j : Nat) : (s.fuseOff q).getF g j = s.getF g j :=
  (foldl_keep (g := fun t : State => t.getF g j) (fun t _ _ => getF_setF_apart t (by decide) (.inl h1)) _).trans
    (getF_setF_apart s (by decide) (.inl h2))

theorem applyFuses_getF {g : Fld} (h1 : g.reg ≠ .CORE_ID) (h2 : g.reg ≠ .PANE_FREQ) (s : State) (f : Fuses) (j : Nat) :
    (s.applyFuses f).getF g j = (s.hardValues f).getF g j := by
  rw [applyFuses_def]
  exact foldl_keep (g := fun t : State => t.getF g j) (fun t q _ => fuseOff_getF h1 h2 t q j) _

theorem applyFuses_other {g : Fld} (hg : g.reg ∉ [Reg.CORE_ID, .PANE_FREQ, .CTL_FEAT0, .CTL_FEAT3, .CTL_FWSTAT, .SEC_DEVID]) (s : State) (f : Fuses)
    (j : Nat) : (s.applyFuses f).getF g j = s.getF g j := by
  simp only [List.mem_cons, List.not_mem_nil, or_false, not_or] at hg
  obtain ⟨h1, h2, h3, h4, h5, h6⟩ := hg
  rw [applyFuses_getF h1 h2, State.hardValues, getF_setFs_ne]
  · rfl
  · simp only [List.forall_mem_cons]
    exact ⟨.inl h3, .inl h3, .inl h4, .inl h5, .inl h6, by simp⟩

theorem applyFuses_grade (s : State) (f : Fuses) : (s.applyFuses f).getF F.CTL_FEAT0_GRADE 0 = if f.fused = 0 then 1 else 2 := by
  rw [applyFuses_getF (by decide) (by decide), State.hardValues, setFs_cons, getF_setFs_apart]
  · rw [getF_setF_same _ (by decide)]
    split <;> rfl
  · simp only [List.forall_mem_cons]
    exact ⟨by decide, by decide, by decide, by decide, by simp⟩
  · simp only [List.forall_mem_cons]
    exact ⟨.inr (by decide), .inl (by decide), .inl (by decide), .inl (by decide), by simp⟩

/-! ### How a start ends -/

theorem vestibule_keeps (s : State) (reason : Nat) :
    (s.vestibule reason).plans = s.plans ∧ (s.vestibule reason).cores = s.cores ∧ (s.vestibule reason).keys = s.keys ∧
      (s.vestibule reason).boot.held = s.boot.held := by
  rw [vestibule_def]
  change s.downPorts.plans = _ ∧ s.downPorts.cores = _ ∧ s.downPorts.keys = _ ∧ s.downPorts.boot.held = _
  rw [(downPorts_down s).frame]
  exact ⟨rfl, rfl, rfl, rfl⟩

theorem vestibule_stage (s : State) (reason : Nat) : (s.vestibule reason).getF F.BOOT_STATUS_STAGE 0 = s.getF F.BOOT_STATUS_STAGE 0 := by
  rw [vestibule_def, getF_setFs_apart]
  · exact (downPorts_down s).regs _ _ (by decide)
  · simp only [List.forall_mem_cons]
    exact ⟨by decide, by decide, by simp⟩
  · simp only [List.forall_mem_cons]
    exact ⟨.inr (by decide), .inr (by decide), by simp⟩

theorem vestibule_exists (h : s.getF F.SEC_PCTL_STATE p = 0) (reason : Nat) : (s.vestibule reason).exists' p = false :=
  exists_of_state ((vestibule_getF (by decide) s reason p).trans h)

theorem cutShort_spec (s : State) : s.cutShort.boot.quiet = true ∧ s.cutShort.flag F.BOOT_STATUS_PWRFAIL 0 = true ∧
    s.cutShort.getF F.BOOT_STATUS_REASON 0 = 10 ∧ s.cutShort.getF F.BOOT_STATUS_STAGE 0 = s.getF F.BOOT_STATUS_STAGE 0 := by
  simp only [State.cutShort, setFs_cons, setFs_nil]
  refine ⟨rfl, ?_, ?_, ?_⟩
  · rw [flag_setF_apart (by decide) (.inr (by decide))]
    exact flag_setF_bit (by decide) rfl true
  · rw [getF_setF_same _ (by decide)]
    rfl
  · rw [getF_setF_apart _ (by decide) (.inr (by decide)), getF_setF_apart _ (by decide) (.inr (by decide))]
    rfl

theorem started_empty (s : State) (x : StartIn) :
    (s.started x).plans = [] ∧ (s.started x).cores = [] ∧ (s.started x).keys = [] ∧ (s.started x).boot.held = false := by
  obtain ⟨h1, h2, h3, -⟩ := afterReset_empty { s with boot := { s.boot with low := if x.cold then [] else s.boot.low } } x.cold x.aoLoss
  refine ⟨h1, h2, h3, ?_⟩
  change (State.afterReset _ x.cold x.aoLoss).boot.held = false
  rw [afterReset_boot]

theorem started_now (s : State) (h : x.aoLoss = false) : (s.started x).getF F.TIME_NOW_NS 0 = s.now := by
  rw [State.started, stage_getF (.inl (by decide)), h]
  exact afterReset_now _ x.cold

theorem started_vestibule (s : State) (x : StartIn) : (s.started x).flag F.BOOT_STATUS_VESTIBULE 0 = false := by
  rw [State.flag, State.started, stage_getF (.inr (by decide)), afterReset_getF (by decide)]
  rfl

theorem fused_tampered (s : State) (x : StartIn) (f : Fuses) :
    ((s.started x).applyFuses f).flag F.SEC_STATUS_TAMPERED 0 = (!x.aoLoss && s.flag F.SEC_STATUS_TAMPERED 0) := by
  rw [State.flag, applyFuses_other (by decide), State.started, stage_getF (.inl (by decide))]
  exact afterReset_tampered _ x.cold x.aoLoss

theorem started_low (h : s.StartDue x) :
    s.started x = (State.afterReset { s with boot := { s.boot with low := [] } } x.cold x.aoLoss).stage 1 := by
  rw [State.started, h.low]

/-- No valid copy of the configuration ends the start in vestibule mode. -/
theorem stage3_none (hc : x.cutIn 3 = false) (hs : selectCopy x.copyA x.copyB x.fuses.cfgKey = none) :
    (s.stage3 x).flag F.BOOT_STATUS_VESTIBULE 0 = true ∧ (s.stage3 x).getF F.BOOT_STATUS_STAGE 0 = 3 ∧
    (s.stage3 x).getF F.BOOT_STATUS_REASON 0 =
      (if x.copyA.result x.fuses.cfgKey = 4 ∨ x.copyB.result x.fuses.cfgKey = 4 then 5 else 4) := by
  have he : s.stage3 x = ((s.stage 3).setFs 0 [(F.BOOT_CFGSEL_A_RESULT, x.copyA.result x.fuses.cfgKey),
      (F.BOOT_CFGSEL_B_RESULT, x.copyB.result x.fuses.cfgKey)]).vestibule
        (if x.copyA.result x.fuses.cfgKey = 4 ∨ x.copyB.result x.fuses.cfgKey = 4 then rsCONFIG_INVALID else rsCONFIG_NONE) := by
    unfold State.stage3
    dsimp only
    rw [hc, if_neg Bool.false_ne_true, hs]
  rw [he]
  obtain ⟨v1, v2⟩ := vestibule_shows ((s.stage 3).setFs 0 [(F.BOOT_CFGSEL_A_RESULT, x.copyA.result x.fuses.cfgKey),
      (F.BOOT_CFGSEL_B_RESULT, x.copyB.result x.fuses.cfgKey)]) (reason :=
        if x.copyA.result x.fuses.cfgKey = 4 ∨ x.copyB.result x.fuses.cfgKey = 4 then rsCONFIG_INVALID else rsCONFIG_NONE)
        (by split <;> decide)
  refine ⟨v1, ?_, v2⟩
  rw [vestibule_stage, getF_setFs_ne]
  · exact stage_same s (by decide)
  · simp only [List.forall_mem_cons]
    exact ⟨.inl (by decide), .inl (by decide), by simp⟩

/-- After three attempts with a copy the start ends in vestibule mode. -/
theorem stage4_repeated {c : NorCopy} {r : List Byte} {b : Bool} (hb : s.boot.counting = some (r, b)) (hr : leAt r 8 8 = c.seq)
    (hn : 3 ≤ leAt r 1 1) (hc : x.cut ≠ some (4, false)) :
    (s.stage4 x c).flag F.BOOT_STATUS_VESTIBULE 0 = true ∧ (s.stage4 x c).getF F.BOOT_STATUS_STAGE 0 = 4 ∧
    (s.stage4 x c).getF F.BOOT_STATUS_REASON 0 = 6 := by
  have he : s.stage4 x c = (State.setF { s.stage 4 with boot := { s.boot with cfgSeq := c.seq } } F.BOOT_ATTEMPT_ATTEMPTS 0
      (leAt r 1 1)).vestibule rsREPEATED_FAIL := by
    have hst : (s.stage 4).boot = s.boot := rfl
    have hatt : (if leAt r 8 8 = c.seq then leAt r 1 1 else 0) = leAt r 1 1 := if_pos hr
    unfold State.stage4
    dsimp only
    rw [hst, hb]
    dsimp only
    simp only [hatt]
    rw [if_neg hc, if_pos hn]
  rw [he]
  obtain ⟨v1, v2⟩ := vestibule_shows (State.setF { s.stage 4 with boot := { s.boot with cfgSeq := c.seq } } F.BOOT_ATTEMPT_ATTEMPTS 0
      (leAt r 1 1)) (reason := rsREPEATED_FAIL) (by decide)
  refine ⟨v1, ?_, v2⟩
  rw [vestibule_stage, getF_setF_apart _ (by decide) (.inl (by decide))]
  exact stage_same s (by decide)

/-! ### Ports that go away -/

theorem goAway_going (s : State) (reason : Nat) (hq : q < 36) : ((s.goAway reason).port q).going = reason :=
  foldl_read (f := fun (t : State) q => t.modPort q fun x => { x with going := reason }) (g := fun t : State => (t.port q).going)
    (P := fun _ => True) (List.mem_range.2 hq) (fun _ _ _ => trivial) (fun t _ => by rw [modPort_port_same])
    (fun t x hx => congrArg Port.going (State.setPort_port_ne t x _ hx.symm)) trivial

theorem goAway_eq (s : State) (reason : Nat) : s.goAway reason = { s with ports := (s.goAway reason).ports } := by
  refine List.foldlRecOn (motive := fun t : State => t = { s with ports := t.ports }) (List.range 36) _ rfl fun t ht x _ => ?_
  rw [ht]
  rfl

theorem downPorts_idle (h : ∀ q < 36, s.pstate q ≠ 8 ∧ s.pstate q ≠ 9) : s.downPorts = s.holdPorts := by
  refine if_neg fun hn => ?_
  obtain ⟨q, hq, hp⟩ := List.any_eq_true.1 hn
  have := h q (List.mem_range.1 hq)
  simp [this.1, this.2] at hp

/-- What boots and resets hold, replaced. -/
def State.withBoot (s : State) (b : Boot) : State := { s with boot := b }

theorem withBoot_port (s : State) (b : Boot) (q : Nat) : (s.withBoot b).port q = s.port q := rfl

theorem downPorts_up (hq : q < 36) (h : s.pstate q = 8 ∨ s.pstate q = 9) :
    s.downPorts = (s.goAway 2).withBoot { s.boot with holdIn := some 1000 } :=
  if_pos (List.any_eq_true.2 ⟨q, List.mem_range.2 hq, by rcases h with h | h <;> simp [h]⟩)

/-! ### A start without an image in time -/

theorem failStart_def (s : State) (reason : Nat) :
    s.failStart reason = (s.downPorts.setF F.BOOT_STATUS_REASON 0 reason).setF F.BOOT_STATUS_FAILED 0 1 := rfl

theorem ranuatTimeout_spec (hh : s.boot.held = false) (hq : s.boot.quiet = false) (h8 : s.getF F.BOOT_STATUS_STAGE 0 = 8)
    (hr : s.flag F.CTL_STATUS_READY 0 = false) (hf : s.flag F.BOOT_STATUS_FAILED 0 = false) (hv : s.flag F.BOOT_STATUS_VESTIBULE 0 = false) :
    ∃ t, exec .ranuatTimeout s = .next t ∧ t.flag F.BOOT_STATUS_FAILED 0 = true ∧ t.getF F.BOOT_STATUS_REASON 0 = 9 ∧ t.mem = s.mem ∧
      ((∀ q < 36, s.pstate q ≠ 8 ∧ s.pstate q ≠ 9) → t.ports = [] ∧ t.rq = []) ∧
      (∀ q < 36, (s.pstate q = 8 ∨ s.pstate q = 9) → t.boot.holdIn = some 1000 ∧ (t.port q).going = 2) := by
  refine ⟨s.failStart rsRANUAT_TIMEOUT, if_neg (by simp [hh, hq, h8, hr, hf, hv]), ?_⟩
  rw [failStart_def]
  refine ⟨flag_setF_bit (by decide) rfl true, ?_, ?_, fun hi => ?_, fun q hq hp => ?_⟩
  · rw [getF_setF_apart _ (by decide) (.inr (by decide)), getF_setF_same _ (by decide)]
    rfl
  · change s.downPorts.mem = s.mem
    rw [(downPorts_down s).frame]
  · change s.downPorts.ports = [] ∧ s.downPorts.rq = []
    rw [downPorts_idle hi]
    exact ⟨holdPorts_ports s, holdPorts_rq s⟩
  · change s.downPorts.boot.holdIn = some 1000 ∧ (s.downPorts.port q).going = 2
    rw [downPorts_up hq hp]
    exact ⟨rfl, by rw [withBoot_port, goAway_going s 2 hq]⟩

/-! ### A reset that is due -/

theorem resetSoon_def (s : State) (n : Nat) : s.resetSoon n = (s.goAway 2).withBoot { s.boot with resetIn := some (min n (s.boot.resetIn.getD n)) } :=
  rfl

theorem resetSoon_spec (s : State) (n : Nat) :
    (∃ ps, s.resetSoon n = { s with boot := { s.boot with resetIn := some (min n (s.boot.resetIn.getD n)) }, ports := ps }) ∧
    ∀ q < 36, ((s.resetSoon n).port q).going = 2 := by
  refine ⟨⟨(s.goAway 2).ports, ?_⟩, fun q hq => ?_⟩
  · rw [resetSoon_def, State.withBoot]
    have h := goAway_eq s 2
    generalize s.goAway 2 = u at h
    rw [h]
  · rw [resetSoon_def, withBoot_port, goAway_going s 2 hq]

/-- The package is held in reset. -/
def State.heldOn (s : State) : State := { s with boot := { s.boot with held := true } }

theorem heldOn_fields (s : State) : s.heldOn.boot.held = true ∧ s.heldOn.plans = s.plans ∧ s.heldOn.keys = s.keys ∧ s.heldOn.cores = s.cores ∧
    s.heldOn.pending = s.pending ∧ s.heldOn.now = s.now := ⟨rfl, rfl, rfl, rfl, rfl, rfl⟩

theorem takeReset_def (s : State) : s.takeReset = (s.afterReset false false).heldOn := rfl

theorem takeReset_spec (s : State) : s.takeReset.boot.held = true ∧ s.takeReset.plans = [] ∧ s.takeReset.keys = [] ∧ s.takeReset.cores = [] ∧
    s.takeReset.pending = s.pending ∧ s.takeReset.now = s.now ∧ ∀ p, s.takeReset.exists' p = false := by
  obtain ⟨h1, h2, h3, h4⟩ := afterReset_empty s false false
  obtain ⟨f1, f2, f3, f4, f5, f6⟩ := heldOn_fields (s.afterReset false false)
  have hx : ∀ p, s.takeReset.exists' p = false := fun p => exists_of_state (takeReset_state_free p)
  rw [takeReset_def] at hx ⊢
  exact ⟨f1, f2.trans h1, f3.trans h3, f4.trans h2, f5.trans h4, f6.trans (afterReset_now s false), hx⟩

/-! ## Power failure and thermal trip -/

theorem abortStep_part_ne {cause detail : Nat} (h : q ≠ p) : (s.abortStep p cause detail).part q = s.part q := by
  have hn : ∀ (t : State) (code part : Nat) (args : List Nat), (t.logEvent 2 code part args).part q = t.part q := fun t code part args => by
    rw [logEvent_quiet (by decide), logNote_part_at]
  have hs : ∀ t : State, ((t.recordAbort p t.node cause detail).sendAbort p cause detail).part q = t.part q := fun t => by
    rw [sendAbort_rq, State.part, State.recordAbort, setFs_eq, State.part]
  unfold State.abortStep
  dsimp only
  split
  · rw [hn, abortApply_eq, purge_part, modPart_part_ne _ h, setFs_eq]
    exact (dropped_drops.others q h).trans (hs _)
  · split
    · rw [hn, lateAbort_eq, purge_part, modPart_part_ne _ h, setFs_eq]
      exact hs _
    · rfl

theorem abortStep_stops (h : s.stepActive p = true) (cause : Nat) : ((s.abortStep p cause 0).part p).running = false := by
  obtain ⟨st, hd, hp⟩ := (abortStep_aborts h cause 0).part
  rw [hp]
  rfl

/-- Every active step of the list stops. -/
theorem abortAll_stops (cause : Nat) {l : List Nat} (hl : p ∈ l) (h : s.stepActive p = true) : ((s.abortAll cause l).part p).running = false := by
  induction l generalizing s with
  | nil => cases hl
  | cons q l ih =>
    by_cases hq : q = p
    · rw [hq]
      exact (State.AbortOp.abortAll cause l).stopped p (abortStep_stops h cause)
    · refine ih ((List.mem_cons.1 hl).resolve_left (Ne.symm hq)) ?_
      rw [State.stepActive, abortStep_part_ne (Ne.symm hq)]
      exact h

/-- A channel has stopped, or stops once its descriptors have ended. -/
def State.stopSet (s : State) (i : Nat) : Bool := (s.chan i).stopping || s.flag F.DMA_CHSTAT_STOPPED i

theorem stopSet_congr {i : Nat} (hc : t.chan i = s.chan i) (hf : t.flag F.DMA_CHSTAT_STOPPED i = s.flag F.DMA_CHSTAT_STOPPED i) :
    t.stopSet i = s.stopSet i := by rw [State.stopSet, State.stopSet, hc, hf]

theorem dmaBusy_stopSet (s : State) (i j : Nat) : (s.dmaBusy i).stopSet j = s.stopSet j := by
  refine stopSet_congr ?_ ?_
  · rw [dmaBusy_eq]
    rfl
  · rw [State.flag, getF_dmaBusy (.inr (by decide)) (by decide) (by decide), State.flag]

/-- What stopping a channel changes before its busy bits. -/
def State.stopMark (s : State) (i : Nat) : State :=
  if (s.chan i).flight = [] then (s.setChan i { s.chan i with stopping := false, next := s.getF F.DMA_HEAD_HEAD i }).setF F.DMA_CHSTAT_STOPPED i 1
  else (s.setChan i { s.chan i with stopping := true }).setChan i { s.chan i with stopping := true, flight := (s.chan i).flight.map DmaDesc.stopped }

theorem stopChan_def (s : State) (i : Nat) : s.stopChan i = (s.stopMark i).dmaBusy i := by
  unfold State.stopChan State.stopMark
  dsimp only
  split
  · rfl
  · rw [State.settle, State.setChan_chan_same]
    rfl

theorem stopMark_same (s : State) (i : Nat) : (s.stopMark i).stopSet i = true := by
  unfold State.stopMark State.stopSet
  split
  · rw [Bool.or_eq_true]
    exact .inr (flag_setF_bit (by decide) rfl true)
  · rw [State.setChan_chan_same]
    rfl

theorem stopMark_ne {j : Nat} (s : State) (h : j ≠ i) : (s.stopMark i).stopSet j = s.stopSet j := by
  unfold State.stopMark
  split
  · refine stopSet_congr (State.setChan_chan_ne s i _ h) ?_
    rw [State.flag, getF_setF_ne _ (by decide) (.inr (.inl h)), getF_setChan, State.flag]
  · exact stopSet_congr ((State.setChan_chan_ne _ i _ h).trans (State.setChan_chan_ne s i _ h)) rfl

theorem stopAll_stopSet (s : State) (hi : i < 64) : ((List.range 64).foldl State.stopChan s).stopSet i = true :=
  foldl_read (g := fun t : State => t.stopSet i) (P := fun _ => True) (List.mem_range.2 hi) (fun _ _ _ => trivial)
    (fun t _ => by rw [stopChan_def, dmaBusy_stopSet, stopMark_same])
    (fun t x hx => by rw [stopChan_def, dmaBusy_stopSet, stopMark_ne t hx.symm]) trivial

theorem stopChan_eq (s : State) (i : Nat) : s.stopChan i = { s with regs := (s.stopChan i).regs, dma := (s.stopChan i).dma } := by
  rw [stopChan_def, dmaBusy_eq, State.stopMark]
  split <;> rfl

theorem stopAll_eq (l : List Nat) (s : State) : ∃ r d, l.foldl State.stopChan s = { s with regs := r, dma := d } := by
  induction l generalizing s with
  | nil => exact ⟨s.regs, s.dma, rfl⟩
  | cons i l ih =>
    obtain ⟨r, d, h⟩ := ih (s.stopChan i)
    exact ⟨r, d, h.trans (by rw [stopChan_eq])⟩

/-- `t` is `s` after the actions of a power failure. -/
structure State.PowerDown (s t : State) : Prop where
  quiet : t.boot.quiet = true
  steps : ∀ p < 16, s.stepActive p = true → (t.part p).running = false
  chans : ∀ i < 64, t.stopSet i = true
  ports : ∀ q < 36, (t.port q).going = 1

theorem State.RingOp.port (h : s.RingOp t) (q : Nat) : t.port q = s.port q := by rw [h.frame]; rfl
theorem State.RingOp.boot (h : s.RingOp t) : t.boot = s.boot := by rw [h.frame]
theorem State.RingOp.running (h : s.RingOp t) (p : Nat) : (t.part p).running = (s.part p).running := by
  obtain ⟨b, hb⟩ := h.part p
  rw [hb]

theorem State.RingOp.stopSet (h : s.RingOp t) (i : Nat) : t.stopSet i = s.stopSet i := by
  refine stopSet_congr (h.chan i) ?_
  rw [State.flag, h.regs _ _ (by decide), State.flag]

namespace State.PowerDown

theorem ringOp (h : s.PowerDown t) (ht : t.RingOp u) : s.PowerDown u :=
  ⟨(congrArg Boot.quiet ht.boot).trans h.quiet, fun p hp ha => (ht.running p).trans (h.steps p hp ha),
    fun i hi => (ht.stopSet i).trans (h.chans i hi), fun q hq => (congrArg Port.going (ht.port q)).trans (h.ports q hq)⟩

theorem congr (h : s.PowerDown t) (hb : u.boot.quiet = t.boot.quiet) (hp : u.parts = t.parts) (hd : u.dma = t.dma) (hq : u.ports = t.ports)
    (hf : ∀ i, u.flag F.DMA_CHSTAT_STOPPED i = t.flag F.DMA_CHSTAT_STOPPED i) : s.PowerDown u := by
  refine ⟨hb.trans h.quiet, fun p hp' ha => ?_, fun i hi => (stopSet_congr ?_ (hf i)).trans (h.chans i hi), fun q hq' => ?_⟩
  · rw [State.part, hp]
    exact h.steps p hp' ha
  · rw [State.chan, hd, State.chan]
  · rw [State.port, hq]
    exact h.ports q hq'

theorem setF {f : Fld} (h : s.PowerDown t) (i x : Nat) (hf : f.lo + f.w ≤ 64) (ha : f.Apart F.DMA_CHSTAT_STOPPED) : s.PowerDown (t.setF f i x) :=
  h.congr rfl rfl rfl rfl fun _ => flag_setF_apart hf ha

theorem withBoot (h : s.PowerDown t) {b : Boot} (hb : b.quiet = true) : s.PowerDown (t.withBoot b) := ⟨hb, h.steps, h.chans, h.ports⟩

end State.PowerDown

/-- A power failure before its log is copied. -/
def State.powerOff (s : State) : State :=
  ((List.range 64).foldl State.stopChan ((s.withBoot { s.boot with quiet := true }).abortAll 0x0C (List.range 16))).goAway 1

theorem powerFail_def (s : State) :
    s.powerFail = (s.powerOff.logCopy.setF F.BOOT_STATUS_PWRFAIL 0 1).setF F.BOOT_STATUS_REASON 0 rsPWRFAIL := rfl

theorem powerOff_down (s : State) : s.PowerDown s.powerOff := by
  have ha := State.AbortOp.abortAll (s := s.withBoot { s.boot with quiet := true }) 0x0C (List.range 16)
  have hs : ∀ p < 16, s.stepActive p = true → (((s.withBoot { s.boot with quiet := true }).abortAll 0x0C (List.range 16)).part p).running = false :=
    fun p hp h => abortAll_stops 0x0C (List.mem_range.2 hp) h
  have hb : ((s.withBoot { s.boot with quiet := true }).abortAll 0x0C (List.range 16)).boot.quiet = true := by
    rw [ha.frame]
    rfl
  rw [State.powerOff]
  generalize (s.withBoot { s.boot with quiet := true }).abortAll 0x0C (List.range 16) = v at hs hb
  have hc : ∀ i < 64, ((List.range 64).foldl State.stopChan v).stopSet i = true := fun i hi => stopAll_stopSet v hi
  obtain ⟨r, d, he⟩ := stopAll_eq (List.range 64) v
  rw [he] at hc ⊢
  generalize hw : ({ v with regs := r, dma := d } : State) = w at hc
  have hwb : w.boot.quiet = true := by
    rw [← hw]
    exact hb
  have hws : ∀ p < 16, s.stepActive p = true → (w.part p).running = false := by
    rw [← hw]
    exact hs
  have hg : ∀ q < 36, ((w.goAway 1).port q).going = 1 := fun q hq => goAway_going w 1 hq
  have hge := goAway_eq w 1
  generalize w.goAway 1 = z at hg hge
  refine ⟨?_, ?_, ?_, hg⟩
  · rw [hge]
    exact hwb
  · rw [hge]
    exact hws
  · rw [hge]
    exact hc

/-- What a power failure shows, and what it has done. -/
theorem powerFail_spec (s : State) : s.PowerDown s.powerFail ∧ s.powerFail.flag F.BOOT_STATUS_PWRFAIL 0 = true ∧
    s.powerFail.getF F.BOOT_STATUS_REASON 0 = 10 := by
  rw [powerFail_def]
  refine ⟨(((powerOff_down s).ringOp .logCopy).setF 0 1 (by decide) (.inl (by decide))).setF 0 rsPWRFAIL (by decide) (.inl (by decide)), ?_, ?_⟩
  · rw [flag_setF_apart (by decide) (.inr (by decide))]
    exact flag_setF_bit (by decide) rfl true
  · rw [getF_setF_same _ (by decide)]
    rfl

/-- The trip is shown and logged. -/
def State.tripped (s : State) : State :=
  ((s.setF F.BOOT_STATUS_REASON 0 rsPWRFAIL).setF F.PWR_STATUS_THERMTRIP 0 1).logEvent 3 0x0016 255 []

theorem thermalTrip_exec (hh : s.boot.held = false) (ht : s.boot.thermtrip = false) :
    exec .thermalTrip s = .next ((if s.boot.quiet then s else s.powerFail).tripped.withBoot
      { (if s.boot.quiet then s else s.powerFail).tripped.boot with thermtrip := true }) :=
  if_neg (by simp [hh, ht])

theorem tripped_keeps {g : Fld} (h1 : g.reg ∉ ringRegs) (h2 : g.reg ≠ .PWR_STATUS) (h3 : F.BOOT_STATUS_REASON.Apart g) (s : State) (j : Nat) :
    s.tripped.getF g j = s.getF g j := by
  rw [State.tripped, (State.RingOp.logEvent ..).regs g j h1, getF_setF_apart _ (by decide) (.inl h2), getF_setF_apart _ (by decide) h3]

theorem tripped_shows (s : State) : s.tripped.flag F.PWR_STATUS_THERMTRIP 0 = true ∧ s.tripped.getF F.BOOT_STATUS_REASON 0 = 10 ∧
    s.tripped.boot = s.boot := by
  have h := State.RingOp.logEvent (s := (s.setF F.BOOT_STATUS_REASON 0 rsPWRFAIL).setF F.PWR_STATUS_THERMTRIP 0 1) 3 0x0016 255 []
  rw [State.tripped]
  refine ⟨?_, ?_, h.boot⟩
  · rw [State.flag, h.regs _ _ (by decide)]
    exact flag_setF_bit (by decide) rfl true
  · rw [h.regs _ _ (by decide), getF_setF_apart _ (by decide) (.inl (by decide)), getF_setF_same _ (by decide)]
    rfl

theorem tripped_down (h : s.PowerDown t) : s.PowerDown t.tripped :=
  ((h.setF 0 rsPWRFAIL (by decide) (.inl (by decide))).setF 0 1 (by decide) (.inl (by decide))).ringOp (.logEvent ..)

theorem thermalTrip_spec (hh : s.boot.held = false) (ht : s.boot.thermtrip = false) :
    ∃ t, exec .thermalTrip s = .next t ∧ t.boot.thermtrip = true ∧ t.boot.quiet = true ∧ t.flag F.PWR_STATUS_THERMTRIP 0 = true ∧
      t.getF F.BOOT_STATUS_REASON 0 = 10 ∧ (s.boot.quiet = false → t.flag F.BOOT_STATUS_PWRFAIL 0 = true ∧ s.PowerDown t) := by
  refine ⟨_, thermalTrip_exec hh ht, rfl, ?_⟩
  by_cases hq : s.boot.quiet = true
  · rw [if_pos hq]
    obtain ⟨h1, h2, h3⟩ := tripped_shows s
    exact ⟨(congrArg Boot.quiet h3).trans hq, h1, h2, fun h => absurd hq (by simp [h])⟩
  · rw [if_neg hq]
    obtain ⟨hd, hf, -⟩ := powerFail_spec s
    generalize s.powerFail = v at hd hf
    obtain ⟨h1, h2, h3⟩ := tripped_shows v
    have hqt : v.tripped.boot.quiet = true := (congrArg Boot.quiet h3).trans hd.quiet
    refine ⟨hqt, h1, h2, fun _ => ⟨?_, (tripped_down hd).withBoot hqt⟩⟩
    exact (congrArg (· != 0) (tripped_keeps (g := F.BOOT_STATUS_PWRFAIL) (by decide) (by decide) (.inr (by decide)) v 0)).trans hf

/-! ## The reset of the control complex -/

theorem complexReset_waits (h1 : s.pairStopped = true) (h2 : s.idleSteps = true) (h3 : s.flag F.CTL_STATUS_UPDATING 0 = false)
    (h4 : s.mayLock 4 0 = false) : exec .controlComplexReset s = .next (s.askLock 4 0) := by
  change execControlComplexReset s = _
  unfold execControlComplexReset
  rw [if_neg (by simp [h1, h2]), h3]
  dsimp only
  rw [if_neg Bool.false_ne_true, if_pos (by simp [h4])]

theorem complexReset_runs (h1 : s.pairStopped = true) (h2 : s.idleSteps = true) (h3 : s.flag F.CTL_STATUS_UPDATING 0 = false)
    (h4 : s.mayLock 4 0 = true) : exec .controlComplexReset s = .next (((List.range 16).foldl State.recomplete
      (({ (s.grantLock 4 0).addF F.CTL_LOCKSTEP_RESETS 0 1 with pairDown := false } : State).setFs 0
        [(F.CTL_LOCKSTEP_UNVERIFIED, 0), (F.CTL_LSTEST_COMP_FAIL, 0)]).readCkpt.repost).dropLocks 4 [0]) := by
  change execControlComplexReset s = _
  unfold execControlComplexReset
  rw [if_neg (by simp [h1, h2]), h3]
  dsimp only
  rw [if_neg Bool.false_ne_true, if_neg (by simp [h4])]

/-! ## The obligation -/

/-- Settles O60: a start by its stages, and what a reset, a power failure and a thermal trip do. -/
theorem startsAndEnds : Obligations.StartsAndEnds := by
  unfold Obligations.StartsAndEnds
  refine ⟨?_, ?_, ?_, ?_, ?_, ?_, ?_, ?_, ?_, ?_, ?_, ?_, ?_, ?_, ?_, ?_, ?_, ?_, ?_, ?_⟩
  · intro s x hs hl hc hd hf
    have h : s.StartDue x := ⟨hs, hl⟩
    obtain ⟨k1, k2, k3, k4⟩ := vestibule_keeps (s.started x) rsFUSE
    obtain ⟨v1, v2⟩ := vestibule_shows (s.started x) (reason := rsFUSE) (by decide)
    obtain ⟨e1, e2, e3, e4⟩ := started_empty s x
    refine ⟨(s.started x).vestibule rsFUSE, ?_, v1, v2, (vestibule_stage _ _).trans (stage_same _ (by decide)), k1.trans e1, k2.trans e2,
      k3.trans e3, k4.trans e4, fun ha => ?_, fun p => vestibule_exists ((started_getF (by decide) s x p).trans (reset_free p)) _⟩
    · rw [h.exec, hc, if_neg Bool.false_ne_true, if_neg (not_lt.2 hd), if_pos hf]
    · rw [State.now, vestibule_getF (by decide)]
      exact started_now s ha
  · intro s x hs hl hc hd hf hg ha ht
    have h : s.StartDue x := ⟨hs, hl⟩
    obtain ⟨v1, v2⟩ := vestibule_shows ((s.started x).applyFuses x.fuses) (reason := rsTAMPER) (by decide)
    refine ⟨((s.started x).applyFuses x.fuses).vestibule rsTAMPER, ?_, v1, v2, fun p => vestibule_exists ?_ _⟩
    · rw [h.exec, hc, if_neg Bool.false_ne_true, if_neg (not_lt.2 hd), if_neg (not_not.2 ⟨hf, hg⟩), if_pos]
      rw [fused_tampered, ha, ht]
      rfl
    · rw [applyFuses_other (by decide), started_getF (by decide)]
      exact reset_free p
  · intro s x hs hl hc hc2 hd hf hg ht hn
    have h : s.StartDue x := ⟨hs, hl⟩
    obtain ⟨v1, v2⟩ := vestibule_shows (((s.started x).applyFuses x.fuses).stage 2) (reason := rsNOR) (by decide)
    refine ⟨(((s.started x).applyFuses x.fuses).stage 2).vestibule rsNOR, ?_, v1, v2, (vestibule_stage _ _).trans (stage_same _ (by decide)), ?_⟩
    · rw [h.exec, hc, if_neg Bool.false_ne_true, if_neg (not_lt.2 hd), if_neg (not_not.2 ⟨hf, hg⟩), if_neg, hc2, if_neg Bool.false_ne_true, if_pos]
      · simp [hn]
      · rw [fused_tampered, ht, Bool.and_false]
        exact Bool.false_ne_true
    · rw [vestibule_getF (by decide), stage_getF (.inl (by decide)), applyFuses_grade]
  · intro s x hs hl hc hc2 hd hf hg ht hn
    have h : s.StartDue x := ⟨hs, hl⟩
    dsimp only
    rw [← started_low h]
    rw [h.exec, hc, if_neg Bool.false_ne_true, if_neg (not_lt.2 hd), if_neg (not_not.2 ⟨hf, hg⟩), if_neg, hc2, if_neg Bool.false_ne_true, if_neg]
    · simp [hn]
    · rw [fused_tampered, ht, Bool.and_false]
      exact Bool.false_ne_true
  · intro s x hs hl hc hd
    have h : s.StartDue x := ⟨hs, hl⟩
    refine ⟨(s.started x).heldOn, ?_, rfl, stage_same _ (by decide), ?_⟩
    · rw [h.exec, hc, if_neg Bool.false_ne_true, if_pos hd]
      rfl
    · exact started_vestibule s x
  · intro s x hs hl hc
    have h : s.StartDue x := ⟨hs, hl⟩
    obtain ⟨c1, c2, c3, c4⟩ := cutShort_spec (s.started x)
    refine ⟨(s.started x).cutShort, ?_, c1, c2, c3, c4.trans (stage_same _ (by decide))⟩
    rw [h.exec, if_pos hc]
  · intro s x h
    exact reset_still h
  · intro s x hc hs
    exact stage3_none hc hs
  · intro s x c r b hb hr hn hc
    exact stage4_repeated hb hr hn hc
  · intro s hh hq h8 hr hf hv
    exact ranuatTimeout_spec hh hq h8 hr hf hv
  · intro s hh
    obtain ⟨⟨ps, h1⟩, h2⟩ := resetSoon_spec s 1500
    refine ⟨s.resetSoon 1500, if_neg (by simp [hh]), ?_, ?_, h2⟩
    · rw [h1]
    · rw [h1]
  · intro s hh
    exact if_pos hh
  · intro s n hn
    refine ⟨fun h => dueReset_waits hn h, fun h => ?_⟩
    rw [dueReset_due hn h]
    exact takeReset_spec s
  · intro s hh hq
    obtain ⟨hd, h1, h2⟩ := powerFail_spec s
    exact ⟨s.powerFail, if_neg (by simp [hh, hq]), hd.quiet, h1, h2, hd.steps, fun i hi => Bool.or_eq_true_iff.1 (hd.chans i hi), hd.ports⟩
  · intro s h
    exact if_pos h
  · intro s hh ht
    obtain ⟨t, h1, h2, h3, h4, h5, h6⟩ := thermalTrip_spec hh ht
    exact ⟨t, h1, h2, h3, h4, h5, fun hq => ⟨(h6 hq).1, (h6 hq).2.steps, fun i hi => Bool.or_eq_true_iff.1 ((h6 hq).2.chans i hi), (h6 hq).2.ports⟩⟩
  · intro s h
    exact if_pos h
  · intro s h1 h2 h3 h4
    exact ⟨_, rfl, complexReset_runs h1 h2 h3 h4⟩
  · intro s h1 h2 h3 h4
    exact complexReset_waits h1 h2 h3 h4
  · intro s h
    exact if_pos (h.imp (by simp [·]) (by simp [·]))

end Sys2Proof.Machine
end

section
/-! SUPPORT. Power states, rails and the loops of Ranuat. -/

namespace Sys2Proof.Machine

variable {s t u : State} {k q n l : Nat}

/-! ## What the log leaves alone -/

/-- The PF's LOG rings stand in the window of the package. -/
def State.PfLog (s : State) : Prop := ∀ k ∈ s.ringsOf 0 5, (s.ring k).fn = 0

theorem mem_terase {α : Type} {t : Tbl α} {k : Nat} {e : Nat × α} (h : e ∈ terase t k) : e ∈ t ∧ e.1 ≠ k := by
  induction t with
  | nil => cases h
  | cons x t ih =>
    obtain ⟨i, v⟩ := x
    rw [terase] at h
    split at h
    · exact ⟨List.mem_cons_of_mem _ (ih h).1, (ih h).2⟩
    · next hi =>
      rcases List.mem_cons.1 h with rfl | h
      · exact ⟨List.mem_cons_self, hi⟩
      · exact ⟨List.mem_cons_of_mem _ (ih h).1, (ih h).2⟩

theorem mem_tset {α : Type} [DecidableEq α] {d : α} {t : Tbl α} {k : Nat} {v : α} {e : Nat × α} (h : e ∈ tset d t k v) :
    e = (k, v) ∨ e ∈ t ∧ e.1 ≠ k := by
  unfold tset at h
  split at h
  · exact .inr (mem_terase h)
  · exact (mem_tins h).imp_right mem_terase

theorem pfLog_setRing {r : Ring} (h : s.PfLog) (hr : r.fn = 0) : (s.setRing k r).PfLog := by
  intro j hj
  obtain ⟨e, he, rfl⟩ := List.mem_map.1 hj
  obtain ⟨hm, hp⟩ := List.mem_filter.1 he
  rcases mem_tset hm with rfl | ⟨hm, hk⟩
  · rw [State.setRing_ring_same]
    exact hr
  · rw [State.setRing_ring_ne s k r hk]
    exact h _ (List.mem_map.2 ⟨e, List.mem_filter.2 ⟨hm, hp⟩, rfl⟩)

theorem setSram_eq (a : Nat) (bs : List Byte) (s : State) : s.setSram a bs = { s with sram := (s.setSram a bs).sram } := by
  induction bs generalizing a s with
  | nil => rfl
  | cons b bs ih =>
    rw [State.setSram, ih]

/-- An entry of a ring of the PF changes the ring's tail and the window. -/
theorem ringPut_pf (hf : (s.ring k).fn = 0) (bs : List Byte) : ∃ m x tl,
    s.ringPut k bs = { s.setRing k { s.ring k with tail := tl } with sram := m, msix := x } := by
  have hb : s.ringBounce k bs = s := if_pos (.inl hf)
  unfold State.ringPut
  rw [hb]
  dsimp only
  rw [State.ringWrite, if_pos hf, State.ringWrite, if_pos hf, setSram_eq, setSram_eq]
  exact ⟨_, _, _, rfl⟩

/-- `t` is `s` with entries copied to the PF's LOG ring. -/
structure State.Logs (s t : State) : Prop where
  mem : t.mem = s.mem
  rings : s.PfLog → t.PfLog

theorem logPut_logs (l : List LogEntry) (hf : (s.ring k).fn = 0) : s.Logs (s.logPut k l) := by
  induction l generalizing s with
  | nil => exact ⟨rfl, id⟩
  | cons e l ih =>
    obtain ⟨m, x, tl, h⟩ := ringPut_pf hf e.bytes
    have hr : ((s.ringPut k e.bytes).addF F.CTL_LOG_WRITTEN 0 1).ring k = { s.ring k with tail := tl } := by
      rw [h]
      exact State.setRing_ring_same s k _
    obtain ⟨h1, h2⟩ := ih (s := (s.ringPut k e.bytes).addF F.CTL_LOG_WRITTEN 0 1) (by rw [hr]; exact hf)
    refine ⟨h1.trans ?_, fun hp => h2 ?_⟩
    · rw [h]
      rfl
    · rw [h]
      exact pfLog_setRing (r := { s.ring k with tail := tl }) hp hf

/-- The log buffer, replaced. -/
def State.withLog (s : State) (l : List LogEntry) : State := { s with log := l }

theorem withLog_logs (s : State) (l : List LogEntry) : s.Logs (s.withLog l) := ⟨rfl, id⟩

theorem withLog_ring (s : State) (l : List LogEntry) (k : Nat) : (s.withLog l).ring k = s.ring k := rfl

theorem logCopy_def (hk : (s.ringsOf 0 5).head? = some k) (hp : s.pairStopped = false) :
    s.logCopy = (s.withLog (s.log.drop (s.ring k).room)).logPut k (s.log.take (s.ring k).room) := by
  have h : ∀ b : Bool, b = s.pairStopped →
      s.logCopy = if b = true then s else (s.withLog (s.log.drop (s.ring k).room)).logPut k (s.log.take (s.ring k).room) := by
    intro b hb
    unfold State.logCopy State.withLog
    rw [hk, hb]
  rw [h false hp.symm, if_neg Bool.false_ne_true]

theorem logCopy_none (hk : (s.ringsOf 0 5).head? = none) : s.logCopy = s := by
  unfold State.logCopy
  rw [hk]

theorem logCopy_stopped (hk : (s.ringsOf 0 5).head? = some k) (hp : s.pairStopped = true) : s.logCopy = s := by
  unfold State.logCopy
  rw [hk]
  dsimp only
  rw [if_pos hp]

theorem State.Logs.refl (s : State) : s.Logs s := ⟨rfl, id⟩

theorem State.Logs.trans (h : s.Logs t) (h' : t.Logs u) : s.Logs u := ⟨h'.mem.trans h.mem, fun hp => h'.rings (h.rings hp)⟩

theorem logCopy_logs (h : s.PfLog) : s.Logs s.logCopy := by
  rcases hk : (s.ringsOf 0 5).head? with _ | k
  · rw [logCopy_none hk]
    exact .refl s
  · rcases hp : s.pairStopped
    · have hf := h k (List.mem_of_mem_head? hk)
      rw [logCopy_def hk hp]
      exact (withLog_logs s _).trans (logPut_logs _ (by rw [withLog_ring]; exact hf))
    · rw [logCopy_stopped hk hp]
      exact .refl s

theorem logNote_rings (s : State) (sev code part : Nat) (args : List Nat) : (s.logNote sev code part args).rings = s.rings := by
  rw [(State.MemOp.logNote (s := s) sev code part args).frame]

theorem pfLog_congr (h : t.rings = s.rings) (hs : s.PfLog) : t.PfLog := by
  intro k hk
  rw [State.ringsOf, h] at hk
  rw [State.ring, h]
  exact hs k hk

theorem logEvent_logs (h : s.PfLog) (sev code part : Nat) (args : List Nat) : s.Logs (s.logEvent sev code part args) := by
  have hn : (s.logNote sev code part args).PfLog := pfLog_congr (logNote_rings ..) h
  unfold State.logEvent
  dsimp only
  split
  · obtain ⟨h1, h2⟩ := logCopy_logs hn
    exact ⟨h1.trans (logNote_mem ..), fun _ => h2 hn⟩
  · exact ⟨logNote_mem .., fun _ => hn⟩

theorem logFree_logs (h : s.PfLog) (part : Nat) (args : List Nat) : s.Logs (s.logFree part args) := by
  have hl := logEvent_logs (s := s.takeFree.1) h (s.takeFree.2 % 4) (s.takeFree.2 / 4 % 65536) part args
  exact ⟨hl.mem, hl.rings⟩

/-! ## Registers put back, and cores cleared -/

theorem resetRegs_eq (s : State) (r : Reg) (l : List Nat) : s.resetRegs r l = { s with regs := (s.resetRegs r l).regs } := by
  refine List.foldlRecOn (motive := fun t : State => t = { s with regs := t.regs }) l _ rfl fun t ht i _ => ?_
  rw [ht]
  rfl

theorem getF_resetRegs {r : Reg} {g : Fld} (h : g.reg ≠ r) (s : State) (l : List Nat) (j : Nat) : (s.resetRegs r l).getF g j = s.getF g j :=
  foldl_keep (g := fun t : State => t.getF g j) (fun t _ _ => getF_wrReg_reg t h) s

theorem rdReg_resetRegs {r : Reg} {i : Nat} {l : List Nat} (h : i ∈ l) (s : State) : (s.resetRegs r l).rdReg r i = (r.reset i).toNat :=
  foldl_read (f := fun (t : State) i => t.wrReg r i (r.reset i).toNat) (g := fun t : State => t.rdReg r i) (P := fun _ => True) h
    (fun _ _ _ => trivial) (fun t _ => (rdReg_wrReg_same t r i _).trans (Nat.mod_eq_of_lt (r.reset i).isLt))
    (fun t _ hx => rdReg_wrReg_ne t _ (.inr hx.symm)) trivial

/-- The bytes and the state of cores go. -/
def State.wipeCores (s : State) (ns : List Nat) : State :=
  { s with
    mem := s.mem.filter (fun c => !ns.any (fun n => decide (spadAddr n 0 ≤ c.1) && decide (c.1 < spadAddr n spadSize)))
    cores := s.cores.filter (fun c => !ns.contains c.1) }

theorem clearCores_def (s : State) (ns : List Nat) : s.clearCores ns =
    (((s.wipeCores ns).resetRegs .LATCH_VALUE (ns.flatMap (fun n => (List.range 12).map (fun k => n * 12 + k)))).resetRegs .LATCH_OVF ns).resetRegs
      .CORE_AFLAGS ns := rfl

theorem clearCores_eq (s : State) (ns : List Nat) : s.clearCores ns =
    { s with regs := (s.clearCores ns).regs, mem := (s.wipeCores ns).mem, cores := (s.wipeCores ns).cores } := by
  rw [clearCores_def, resetRegs_eq, resetRegs_eq, resetRegs_eq]
  rfl

theorem getF_clearCores {g : Fld} (hg : g.reg ∉ [Reg.LATCH_VALUE, .LATCH_OVF, .CORE_AFLAGS]) (s : State) (ns : List Nat) (j : Nat) :
    (s.clearCores ns).getF g j = s.getF g j := by
  simp only [List.mem_cons, List.not_mem_nil, or_false, not_or] at hg
  obtain ⟨h1, h2, h3⟩ := hg
  rw [clearCores_def, getF_resetRegs h3, getF_resetRegs h2, getF_resetRegs h1]
  rfl

theorem clearCores_latch {ns : List Nat} (hn : n ∈ ns) (hl : l < 48) (s : State) : (s.clearCores ns).latch n l = 0 := by
  have hi : n * 12 + l / 4 ∈ ns.flatMap (fun n => (List.range 12).map (fun k => n * 12 + k)) :=
    List.mem_flatMap.2 ⟨n, hn, List.mem_map.2 ⟨l / 4, List.mem_range.2 (by omega), rfl⟩⟩
  have hr := latchFld_reg l
  rw [clearCores_def, State.latch, getF_resetRegs (by rw [hr]; decide), getF_resetRegs (by rw [hr]; decide), State.getF, hr, rdReg_resetRegs hi]
  change bitsOf (BitVec.toNat (BitVec.ofNat 64 0)) _ _ = 0
  simp [bitsOf]

/-! ## A pane restarts with the package -/

/-- Registers that the restart of a pane may write, but PANE_FREQ. -/
def restartRegs : List Reg := .PANE_XLAT :: .CTL_MLOCK :: ringRegs

/-- `t` is `s` with pane `q` restarted. -/
structure State.Restarts (s t : State) (q : Nat) (c : Cal × Cal) : Prop where
  cores : t.cores = s.cores
  waking : t.waking = s.waking
  logs : s.PfLog → s.Logs t
  regs : ∀ (g : Fld) (j : Nat), g.reg ∉ Reg.PANE_FREQ :: restartRegs → t.getF g j = s.getF g j
  others : ∀ j, j ≠ q → t.getF F.PANE_FREQ_STATE j = s.getF F.PANE_FREQ_STATE j
  cur : ∀ j, t.getF F.PANE_FREQ_CUR j = s.getF F.PANE_FREQ_CUR j
  state : s.getF F.PANE_FREQ_STATE q = 0 → t.getF F.PANE_FREQ_STATE q =
    if calOk c.1 (paneInTarget (s.getF F.PANE_FREQ_CUR q)) ∧ calOk c.2 6 then 0 else 3

/-- The crossings of a pane that runs, measured. -/
def State.measured (s : State) (q : Nat) (c : Cal × Cal) : State :=
  (s.calibrate q fPaneIn c.1 (paneInTarget (s.getF F.PANE_FREQ_CUR q))).calibrate q fPaneOut c.2 6

theorem measured_eq (s : State) (q : Nat) (c : Cal × Cal) : s.measured q c = { s with regs := (s.measured q c).regs } := by
  rw [State.measured, calibrate_eq, calibrate_eq]

theorem getF_measured {g : Fld} (hg : g.reg ≠ .PANE_XLAT) (s : State) (q : Nat) (c : Cal × Cal) (j : Nat) :
    (s.measured q c).getF g j = s.getF g j := by
  have ha : ∀ {fs : Fld × Fld × Fld × Fld}, Crossing fs → ∀ f ∈ [fs.1, fs.2.1, fs.2.2.1, fs.2.2.2], f.Apart g := fun h f hf =>
    .inl (by rw [(h.bounds f hf).1]; exact hg)
  rw [State.measured, getF_calibrate crossing_out (ha crossing_out), getF_calibrate crossing_in (ha crossing_in)]

theorem restartPane_fails {c : Cal × Cal} (h0 : s.getF F.PANE_FREQ_STATE q = 0)
    (hc : ¬ (calOk c.1 (paneInTarget (s.getF F.PANE_FREQ_CUR q)) = true ∧ calOk c.2 6 = true)) :
    s.restartPane q c = (((s.measured q c).setF F.PANE_FREQ_STATE q 3).unpend q).logFree (((s.measured q c).paneOwner q).getD 255) [q] :=
  (if_neg (not_not.2 h0)).trans (if_neg hc)

theorem restartPane_restarts (s : State) (q : Nat) (c : Cal × Cal) : s.Restarts (s.restartPane q c) q c := by
  by_cases h0 : s.getF F.PANE_FREQ_STATE q = 0
  · by_cases hc : calOk c.1 (paneInTarget (s.getF F.PANE_FREQ_CUR q)) = true ∧ calOk c.2 6 = true
    · have he : s.restartPane q c = s.measured q c := (if_neg (not_not.2 h0)).trans (if_pos hc)
      rw [he]
      have hm := measured_eq s q c
      have hg : ∀ (g : Fld) (j : Nat), g.reg ≠ .PANE_XLAT → (s.measured q c).getF g j = s.getF g j := fun g j h => getF_measured h s q c j
      generalize s.measured q c = v at hm hg
      refine ⟨?_, ?_, fun hp => ⟨?_, fun _ => ?_⟩, fun g j h => hg g j fun hx => h (by simp [hx, restartRegs]), fun j _ => hg _ j (by decide),
        fun j => hg _ j (by decide), fun _ => ?_⟩
      · rw [hm]
      · rw [hm]
      · rw [hm]
      · rw [hm]
        exact hp
      · rw [hg _ q (by decide), h0, if_pos hc]
    · rw [restartPane_fails h0 hc]
      have hm := measured_eq s q c
      have hg : ∀ (g : Fld) (j : Nat), g.reg ≠ .PANE_XLAT → (s.measured q c).getF g j = s.getF g j := fun g j h => getF_measured h s q c j
      generalize s.measured q c = v at hm hg
      generalize (v.paneOwner q).getD 255 = a
      have hu := unpend_eq (v.setF F.PANE_FREQ_STATE q 3) q
      have hug : ∀ (g : Fld) (j : Nat), g.reg ≠ .CTL_MLOCK → F.PANE_FREQ_PENDING.Apart g →
          ((v.setF F.PANE_FREQ_STATE q 3).unpend q).getF g j = (v.setF F.PANE_FREQ_STATE q 3).getF g j := fun g j h1 h2 => getF_unpend h1 h2 j
      generalize (v.setF F.PANE_FREQ_STATE q 3).unpend q = w at hu hug
      have hl := State.RingOp.logFree (s := w) a [q]
      have hll := fun hp : w.PfLog => logFree_logs hp a [q]
      generalize w.logFree a [q] = z at hl hll
      have hst : ∀ j, z.getF F.PANE_FREQ_STATE j = (v.setF F.PANE_FREQ_STATE q 3).getF F.PANE_FREQ_STATE j := fun j =>
        (hl.regs _ j (by decide)).trans (hug _ j (by decide) (.inr (by decide)))
      refine ⟨?_, ?_, fun hp => ?_, fun g j h => ?_, fun j hj => ?_, fun j => ?_, fun _ => ?_⟩
      · rw [hl.frame, hu, hm]
        rfl
      · rw [hl.frame, hu, hm]
        rfl
      · have hw : w.PfLog := by
          rw [hu, hm]
          exact hp
        refine ⟨(hll hw).mem.trans ?_, fun _ => (hll hw).rings hw⟩
        rw [hu, hm]
        rfl
      · simp only [restartRegs, List.mem_cons, not_or] at h
        obtain ⟨h1, h2, h3, h4⟩ := h
        rw [hl.regs g j h4, hug g j h3 (.inl h1), getF_setF_apart _ (by decide) (.inl h1), hg g j h2]
      · rw [hst, getF_setF_ne _ (by decide) (.inr (.inl hj)), hg _ j (by decide)]
      · rw [hl.regs _ j (by decide), hug _ j (by decide) (.inr (by decide)), getF_setF_apart _ (by decide) (.inr (by decide)), hg _ j (by decide)]
      · rw [hst, getF_setF_same _ (by decide), if_neg hc]
        rfl
  · have he : s.restartPane q c = s := if_pos h0
    rw [he]
    exact ⟨rfl, rfl, fun _ => ⟨rfl, id⟩, fun _ _ _ => rfl, fun _ _ => rfl, fun _ => rfl, fun h => absurd h h0⟩

end Sys2Proof.Machine
end

section
/-! SUPPORT. The return to RUN, and the loops that move panes. -/

namespace Sys2Proof.Machine

variable {s t u : State} {k q n l : Nat}

/-! ## The return to RUN -/

/-- `t` is `s` with panes restarted. -/
structure State.Rouses (s t : State) : Prop where
  cores : t.cores = s.cores
  waking : t.waking = s.waking
  logs : s.PfLog → s.Logs t
  regs : ∀ (g : Fld) (j : Nat), g.reg ∉ Reg.PANE_FREQ :: restartRegs → t.getF g j = s.getF g j

theorem State.Rouses.refl (s : State) : s.Rouses s := ⟨rfl, rfl, fun _ => .refl s, fun _ _ _ => rfl⟩

theorem State.Rouses.trans (h : s.Rouses t) (h' : t.Rouses u) : s.Rouses u :=
  ⟨h'.cores.trans h.cores, h'.waking.trans h.waking, fun hp => (h.logs hp).trans (h'.logs ((h.logs hp).rings hp)),
    fun g j hg => (h'.regs g j hg).trans (h.regs g j hg)⟩

theorem State.Restarts.rouses {c : Cal × Cal} (h : s.Restarts t q c) : s.Rouses t := ⟨h.cores, h.waking, h.logs, h.regs⟩

theorem restartAll_rouses (f : Nat → Cal × Cal) (l : List Nat) (s : State) : s.Rouses (l.foldl (fun s q => s.restartPane q (f q)) s) := by
  induction l generalizing s with
  | nil => exact .refl s
  | cons q l ih => exact (restartPane_restarts s q (f q)).rouses.trans (ih _)

theorem restartPane_idle {c : Cal × Cal} (h : s.getF F.PANE_FREQ_STATE q ≠ 0) : s.restartPane q c = s := if_pos h

/-- A pane that ran runs on, or is stopped for good where a crossing of it does not calibrate. -/
theorem restartAll_state (f : Nat → Cal × Cal) {l : List Nat} (hq : q ∈ l) (h0 : s.getF F.PANE_FREQ_STATE q = 0) :
    (l.foldl (fun s q => s.restartPane q (f q)) s).getF F.PANE_FREQ_STATE q =
      if calOk (f q).1 (paneInTarget (s.getF F.PANE_FREQ_CUR q)) ∧ calOk (f q).2 6 then 0 else 3 := by
  generalize hv : (if calOk (f q).1 (paneInTarget (s.getF F.PANE_FREQ_CUR q)) ∧ calOk (f q).2 6 then 0 else 3) = v
  have hset : ∀ t : State, t.getF F.PANE_FREQ_CUR q = s.getF F.PANE_FREQ_CUR q ∧
      (t.getF F.PANE_FREQ_STATE q = 0 ∨ t.getF F.PANE_FREQ_STATE q = v) → (t.restartPane q (f q)).getF F.PANE_FREQ_STATE q = v := by
    rintro t ⟨hc, ht⟩
    by_cases h : t.getF F.PANE_FREQ_STATE q = 0
    · rw [(restartPane_restarts t q (f q)).state h, hc, hv]
    · rw [restartPane_idle h, ht.resolve_left h]
  refine foldl_read (g := fun t : State => t.getF F.PANE_FREQ_STATE q) (P := fun t => t.getF F.PANE_FREQ_CUR q = s.getF F.PANE_FREQ_CUR q ∧
      (t.getF F.PANE_FREQ_STATE q = 0 ∨ t.getF F.PANE_FREQ_STATE q = v)) hq (fun t x ht => ?_) hset (fun t x hx => ?_) ⟨rfl, .inl h0⟩
  · refine ⟨((restartPane_restarts t x (f x)).cur q).trans ht.1, ?_⟩
    by_cases hx : x = q
    · rw [hx]
      exact .inr (hset t ht)
    · rw [(restartPane_restarts t x (f x)).others q (Ne.symm hx)]
      exact ht.2
  · exact (restartPane_restarts t x (f x)).others q hx.symm

/-- Scratchpads and latches as the return to RUN finds them. -/
def State.wokenCores (s : State) : State := if s.getF F.PWR_STATUS_STATE 0 = 2 then s.clearCores (List.range 256) else s

theorem wokenCores_getF {g : Fld} (hg : g.reg ∉ [Reg.LATCH_VALUE, .LATCH_OVF, .CORE_AFLAGS]) (s : State) (j : Nat) :
    s.wokenCores.getF g j = s.getF g j := by
  unfold State.wokenCores
  generalize List.range 256 = ns
  split
  · exact getF_clearCores hg s ns j
  · rfl

theorem wokenCores_rings (s : State) : s.wokenCores.rings = s.rings := by
  unfold State.wokenCores
  generalize List.range 256 = ns
  split
  · rw [clearCores_eq]
  · rfl

/-- No event of R426 is owed. -/
def State.noWake (s : State) : State := { s with waking := false }

theorem noWake_getF (s : State) (g : Fld) (j : Nat) : s.noWake.getF g j = s.getF g j := rfl

/-- The package awake, before its panes restart. -/
def State.roused (s : State) : State := s.wokenCores.noWake.setF F.PWR_STATUS_STATE 0 0

theorem wake_def (s : State) (cals : List (Cal × Cal)) : s.wake cals =
    (List.range 32).foldl (fun s q => s.restartPane q (cals.getD q (⟨0, 0, 0⟩, ⟨0, 0, 0⟩))) s.roused := rfl

theorem roused_getF {g : Fld} (hg : g.reg ∉ [Reg.LATCH_VALUE, .LATCH_OVF, .CORE_AFLAGS]) (h : g.reg ≠ .PWR_STATUS) (s : State) (j : Nat) :
    s.roused.getF g j = s.getF g j := by
  rw [State.roused, getF_setF_apart _ (by decide) (.inl h), noWake_getF, wokenCores_getF hg]

theorem roused_pfLog (h : s.PfLog) : s.roused.PfLog := pfLog_congr (wokenCores_rings s) h

theorem wake_spec (h : s.PfLog) (cals : List (Cal × Cal)) :
    (s.wake cals).getF F.PWR_STATUS_STATE 0 = 0 ∧ (s.wake cals).waking = false ∧
      (s.getF F.PWR_STATUS_STATE 0 = 1 → (s.wake cals).mem = s.mem ∧ (s.wake cals).cores = s.cores) ∧
      (∀ q < 32, s.getF F.PANE_FREQ_STATE q = 0 → (s.wake cals).getF F.PANE_FREQ_STATE q =
        (let c := cals.getD q (⟨0, 0, 0⟩, ⟨0, 0, 0⟩)
         if calOk c.1 (paneInTarget (s.getF F.PANE_FREQ_CUR q)) ∧ calOk c.2 6 then 0 else 3)) ∧
      (s.getF F.PWR_STATUS_STATE 0 = 2 → ∀ n l, n < 256 → l < 48 → (s.wake cals).latch n l = 0) := by
  have hr := restartAll_rouses (fun q => cals.getD q (⟨0, 0, 0⟩, ⟨0, 0, 0⟩)) (List.range 32) s.roused
  have hst := fun q (hq : q < 32) (h0 : s.roused.getF F.PANE_FREQ_STATE q = 0) =>
    restartAll_state (fun q => cals.getD q (⟨0, 0, 0⟩, ⟨0, 0, 0⟩)) (List.mem_range.2 hq) h0
  rw [← wake_def] at hr hst
  generalize s.wake cals = w at hr hst
  refine ⟨?_, ?_, fun h1 => ?_, fun q hq h0 => ?_, fun h2 n l hn hl => ?_⟩
  · rw [hr.regs _ _ (by decide), State.roused, getF_setF_same _ (by decide)]
    rfl
  · rw [hr.waking]
    rfl
  · have hs : s.wokenCores = s := if_neg (by rw [h1]; decide)
    rw [hr.cores, (hr.logs (roused_pfLog h)).mem, State.roused, hs]
    exact ⟨rfl, rfl⟩
  · rw [hst q hq ((roused_getF (by decide) (by decide) s q).trans h0), roused_getF (by decide) (by decide)]
  · have hl' : w.latch n l = s.roused.latch n l := hr.regs _ _ (by rw [latchFld_reg]; decide)
    have hs : s.wokenCores = s.clearCores (List.range 256) := if_pos h2
    have hc : (s.clearCores (List.range 256)).latch n l = 0 := clearCores_latch (List.mem_range.2 hn) hl s
    rw [← hs] at hc
    rw [hl', State.roused, latch_setF (by decide)]
    exact hc

/-! ## Panes that a loop moves -/

/-- A pane is asked for what a loop makes of its frequency. -/
def State.askPane (f : Nat → Nat) (s : State) (q : Nat) : State := s.requestPane q (f (s.getF F.PANE_FREQ_CUR q))

theorem lowerPane_def : State.lowerPane = State.askPane (fun c => min 3 (c + 1)) := rfl
theorem raisePane_def : State.raisePane = State.askPane (fun c => c - 1) := rfl

/-- `t` is `s` with panes asked for other frequencies. -/
structure State.Asks (s t : State) : Prop where
  frame : t = { s with regs := t.regs, lockQ := t.lockQ }
  regs : ∀ (g : Fld) (j : Nat), g.reg ≠ .CTL_MLOCK → F.PANE_FREQ_PENDING.Apart g → F.PANE_FREQ_REQ.Apart g → t.getF g j = s.getF g j

theorem State.Asks.refl (s : State) : s.Asks s := ⟨rfl, fun _ _ _ _ _ => rfl⟩

theorem State.Asks.trans (h : s.Asks t) (h' : t.Asks u) : s.Asks u :=
  ⟨h'.frame.trans (by rw [h.frame]), fun g j h1 h2 h3 => (h'.regs g j h1 h2 h3).trans (h.regs g j h1 h2 h3)⟩

theorem askPane_asks (f : Nat → Nat) (s : State) (q : Nat) : s.Asks (s.askPane f q) := by
  unfold State.askPane State.requestPane
  split
  · exact .refl s
  · refine ⟨?_, fun g j h1 h2 h3 => (getF_pendPane h1 h2 j).trans (getF_setF_apart s (by decide) h3)⟩
    rw [pendPane_eq]
    rfl

theorem askPane_req_ne (f : Nat → Nat) (s : State) {j : Nat} (h : j ≠ q) : (s.askPane f q).getF F.PANE_FREQ_REQ j = s.getF F.PANE_FREQ_REQ j := by
  unfold State.askPane State.requestPane
  split
  · rfl
  · rw [getF_pendPane (by decide) (.inr (by decide)), getF_setF_ne _ (by decide) (.inr (.inl h))]

theorem askPane_req (f : Nat → Nat) (h : s.getF F.PANE_FREQ_STATE q < 2) :
    (s.askPane f q).getF F.PANE_FREQ_REQ q = f (s.getF F.PANE_FREQ_CUR q) % 4 := by
  unfold State.askPane State.requestPane
  rw [if_neg (by omega), getF_pendPane (by decide) (.inr (by decide)), getF_setF_same _ (by decide)]
  rfl

theorem askAll_asks (f : Nat → Nat) (l : List Nat) (s : State) : s.Asks (l.foldl (State.askPane f) s) := by
  induction l generalizing s with
  | nil => exact .refl s
  | cons q l ih => exact (askPane_asks f s q).trans (ih _)

theorem askAll_req_ne (f : Nat → Nat) {l : List Nat} (h : q ∉ l) (s : State) :
    (l.foldl (State.askPane f) s).getF F.PANE_FREQ_REQ q = s.getF F.PANE_FREQ_REQ q :=
  foldl_keep (g := fun t : State => t.getF F.PANE_FREQ_REQ q) (fun t x hx => askPane_req_ne f t (by rintro rfl; exact h hx)) s

theorem askAll_req (f : Nat → Nat) {l : List Nat} (hq : q ∈ l) (hst : s.getF F.PANE_FREQ_STATE q < 2) :
    (l.foldl (State.askPane f) s).getF F.PANE_FREQ_REQ q = f (s.getF F.PANE_FREQ_CUR q) % 4 := by
  refine foldl_read (g := fun t : State => t.getF F.PANE_FREQ_REQ q) (P := fun t => t.getF F.PANE_FREQ_CUR q = s.getF F.PANE_FREQ_CUR q ∧
    t.getF F.PANE_FREQ_STATE q < 2) hq (fun t x ht => ?_) (fun t ht => ?_) (fun t x hx => askPane_req_ne f t hx.symm) ⟨rfl, hst⟩
  · have h := askPane_asks f t x
    rw [h.regs _ q (by decide) (.inr (by decide)) (.inr (by decide)), h.regs _ q (by decide) (.inr (by decide)) (.inr (by decide))]
    exact ht
  · rw [askPane_req f ht.2, ht.1]

/-! ## What the monitors read -/

/-- One rail as the monitors read it. -/
def State.readRail (s : State) (x : (Nat × Nat) × Nat) : State :=
  s.setFs x.2 [(F.PWR_RAIL_VOLT_MV, x.1.1 % 65536), (F.PWR_RAIL_CURR_DA, x.1.2 % 65536)]

theorem readRails_def (s : State) (rails : List (Nat × Nat)) : s.readRails rails = (rails.take 13).zipIdx.foldl State.readRail s := rfl

theorem readRail_eq (s : State) (x : (Nat × Nat) × Nat) : s.readRail x = { s with regs := (s.readRail x).regs } := rfl

theorem readRail_other {g : Fld} (h : g.reg ≠ .PWR_RAIL) (s : State) (x : (Nat × Nat) × Nat) (j : Nat) : (s.readRail x).getF g j = s.getF g j := by
  refine getF_setFs_ne s ?_
  simp only [List.forall_mem_cons]
  exact ⟨.inl h, .inl h, by simp⟩

theorem readRail_ne {g : Fld} {j : Nat} (s : State) {x : (Nat × Nat) × Nat} (h : j ≠ x.2) : (s.readRail x).getF g j = s.getF g j := by
  refine getF_setFs_ne s ?_
  simp only [List.forall_mem_cons]
  exact ⟨.inr h, .inr h, by simp⟩

theorem readRail_same (s : State) (x : (Nat × Nat) × Nat) :
    (s.readRail x).getF F.PWR_RAIL_VOLT_MV x.2 = x.1.1 % 65536 ∧ (s.readRail x).getF F.PWR_RAIL_CURR_DA x.2 = x.1.2 % 65536 := by
  simp only [State.readRail, setFs_cons, setFs_nil]
  rw [getF_setF_apart _ (by decide) (.inr (by decide)), getF_setF_same _ (by decide), getF_setF_same _ (by decide)]
  exact ⟨Nat.mod_mod _ _, Nat.mod_mod _ _⟩

theorem readRails_eq (s : State) (rails : List (Nat × Nat)) : s.readRails rails = { s with regs := (s.readRails rails).regs } := by
  rw [readRails_def]
  refine List.foldlRecOn (motive := fun t : State => t = { s with regs := t.regs }) _ _ rfl fun t ht x _ => ?_
  rw [readRail_eq, ht]

theorem readRails_other {g : Fld} (h : g.reg ≠ .PWR_RAIL) (s : State) (rails : List (Nat × Nat)) (j : Nat) :
    (s.readRails rails).getF g j = s.getF g j := by
  rw [readRails_def]
  exact foldl_keep (g := fun t : State => t.getF g j) (fun t x _ => readRail_other h t x j) s

/-- Rails from place `n` on: one before them is left alone. -/
theorem railsFrom_before {g : Fld} {j : Nat} (l : List (Nat × Nat)) (h : j < n ∨ n + l.length ≤ j) (s : State) :
    ((l.zipIdx n).foldl State.readRail s).getF g j = s.getF g j := by
  refine foldl_keep (g := fun t : State => t.getF g j) (fun t x hx => readRail_ne t ?_) s
  have h1 := List.le_snd_of_mem_zipIdx hx
  have h2 := List.snd_lt_add_of_mem_zipIdx hx
  omega

theorem railsFrom_at {j : Nat} (l : List (Nat × Nat)) (h1 : n ≤ j) (h2 : j < n + l.length) (s : State) :
    ((l.zipIdx n).foldl State.readRail s).getF F.PWR_RAIL_VOLT_MV j = (l.getD (j - n) (0, 0)).1 % 65536 ∧
      ((l.zipIdx n).foldl State.readRail s).getF F.PWR_RAIL_CURR_DA j = (l.getD (j - n) (0, 0)).2 % 65536 := by
  induction l generalizing n s with
  | nil => simp only [List.length_nil] at h2; omega
  | cons x l ih =>
    rw [List.zipIdx_cons, List.foldl_cons]
    rcases Nat.eq_or_lt_of_le h1 with rfl | hlt
    · rw [railsFrom_before l (.inl (Nat.lt_succ_self _)), railsFrom_before l (.inl (Nat.lt_succ_self _)), Nat.sub_self]
      exact readRail_same s (x, n)
    · have hj : j - n = (j - (n + 1)) + 1 := by omega
      rw [hj]
      exact ih hlt (by simp only [List.length_cons] at h2; omega) _

/-! ## The pins -/

theorem pinned_congr (h : t.getF F.CTL_PIN_PINNED 0 = s.getF F.CTL_PIN_PINNED 0) (p : Nat) : t.pinned p = s.pinned p := by
  rw [State.pinned, h, State.pinned]

theorem exists_congr' (p : Nat) (h : t.getF F.SEC_PCTL_STATE p = s.getF F.SEC_PCTL_STATE p) : t.exists' p = s.exists' p := by
  rw [State.exists', h, State.exists']

/-- What the loops read of partitions and panes. -/
structure State.SameLoop (s t : State) : Prop where
  pins : t.getF F.CTL_PIN_PINNED 0 = s.getF F.CTL_PIN_PINNED 0
  parts : ∀ p, t.getF F.SEC_PCTL_STATE p = s.getF F.SEC_PCTL_STATE p
  panes : ∀ p, t.getF F.SEC_PPANE_PANES p = s.getF F.SEC_PPANE_PANES p

theorem State.SameLoop.loose (h : s.SameLoop t) : t.loose = s.loose := by
  unfold State.loose
  exact List.filter_congr fun p _ => by rw [exists_congr' p (h.parts p), pinned_congr h.pins]

theorem State.SameLoop.mostPinned (h : s.SameLoop t) : t.mostPinned = s.mostPinned := by
  have hp : (fun p => t.exists' p && t.pinned p) = fun p => s.exists' p && s.pinned p := funext fun p => by
    rw [exists_congr' p (h.parts p), pinned_congr h.pins]
  unfold State.mostPinned
  simp only [h.panes, hp]

theorem mostPinned_lt {p : Nat} (h : s.mostPinned = some p) : p < 16 := by
  have hm := List.mem_of_find?_eq_some h
  exact List.mem_range.1 (List.mem_filter.1 hm).1

/-- The pins after one partition has lost its own. -/
def State.unpinned (s : State) (p : Nat) : State :=
  s.setFs 0 [(F.CTL_PIN_PINNED, setBits (s.getF F.CTL_PIN_PINNED 0) p 1 0), (F.CTL_PIN_LOST, setBits (s.getF F.CTL_PIN_LOST 0) p 1 1)]

theorem losePin_some {p : Nat} (h : s.mostPinned = some p) :
    s.losePin = (s.unpinned p).logNote 1 0x010B p [(s.unpinned p).getF F.CTL_PIN_LOST 0] := by
  rw [← logEvent_quiet (sev := 1) (by decide)]
  unfold State.losePin
  rw [h]
  rfl

theorem losePin_mem (s : State) : s.losePin.mem = s.mem := by
  rcases h : s.mostPinned with _ | p
  · unfold State.losePin
    rw [h]
  · rw [losePin_some h, logNote_mem]
    rfl

/-- Only the pins and the log change. -/
theorem losePin_getF {g : Fld} (h1 : g.reg ≠ .CTL_PIN) (h2 : g.reg ≠ .CTL_LOG) (s : State) (j : Nat) : s.losePin.getF g j = s.getF g j := by
  rcases h : s.mostPinned with _ | p
  · unfold State.losePin
    rw [h]
  · rw [losePin_some h, getF_logNote h2, State.unpinned, getF_setFs_ne]
    simp only [List.forall_mem_cons]
    exact ⟨.inl h1, .inl h1, by simp⟩

theorem losePin_spec {p : Nat} (h : s.mostPinned = some p) :
    s.losePin.pinned p = false ∧ bitAt (s.losePin.getF F.CTL_PIN_LOST 0) p = true ∧ ∀ r, r ≠ p → s.losePin.pinned r = s.pinned r := by
  have hp := mostPinned_lt h
  have hpin : s.losePin.getF F.CTL_PIN_PINNED 0 = setBits (s.getF F.CTL_PIN_PINNED 0) p 1 0 := by
    have hlt : setBits (s.getF F.CTL_PIN_PINNED 0) p 1 0 < 2 ^ 16 := setBits_lt_pow (getF_lt s F.CTL_PIN_PINNED 0) (by omega)
    rw [losePin_some h, getF_logNote (by decide), State.unpinned, setFs_cons, setFs_cons, setFs_nil,
      getF_setF_apart _ (by decide) (.inr (by decide)), getF_setF_same _ (by decide)]
    exact Nat.mod_eq_of_lt hlt
  have hlost : s.losePin.getF F.CTL_PIN_LOST 0 = setBits (s.getF F.CTL_PIN_LOST 0) p 1 1 := by
    have hlt : setBits (s.getF F.CTL_PIN_LOST 0) p 1 1 < 2 ^ 16 := setBits_lt_pow (getF_lt s F.CTL_PIN_LOST 0) (by omega)
    rw [losePin_some h, getF_logNote (by decide), State.unpinned, setFs_cons, setFs_cons, setFs_nil, getF_setF_same _ (by decide)]
    exact Nat.mod_eq_of_lt hlt
  refine ⟨?_, ?_, fun r hr => ?_⟩
  · rw [State.pinned, hpin, bitAt_setBits_same]
    rfl
  · rw [hlost, bitAt_setBits_same]
    rfl
  · rw [State.pinned, hpin, bitAt_setBits_ne hr, State.pinned]

/-! ## POWER_LOOP -/

/-- What a period of the power loop has recorded. -/
def State.powerRead (s : State) (avg : Nat) (rails : List (Nat × Nat)) : State :=
  (s.readRails rails).setFs 0 [(F.PWR_MEAS_PEAK_MW, max avg ((s.readRails rails).getF F.PWR_MEAS_PEAK_MW 0)), (F.PWR_MEAS_AVG_MW, avg)]

theorem powerRead_eq (s : State) (avg : Nat) (rails : List (Nat × Nat)) : s.powerRead avg rails = { s with regs := (s.powerRead avg rails).regs } := by
  rw [State.powerRead, setFs_eq]
  have h := readRails_eq s rails
  generalize s.readRails rails = u at h
  rw [h]

theorem powerRead_other {g : Fld} (h1 : g.reg ≠ .PWR_RAIL) (h2 : g.reg ≠ .PWR_MEAS) (s : State) (avg : Nat) (rails : List (Nat × Nat)) (j : Nat) :
    (s.powerRead avg rails).getF g j = s.getF g j := by
  rw [State.powerRead, getF_setFs_ne, readRails_other h1]
  simp only [List.forall_mem_cons]
  exact ⟨.inl h2, .inl h2, by simp⟩

theorem powerRead_same (avg : Nat) (rails : List (Nat × Nat)) : s.SameLoop (s.powerRead avg rails) :=
  ⟨powerRead_other (by decide) (by decide) .., fun _ => powerRead_other (by decide) (by decide) ..,
    fun _ => powerRead_other (by decide) (by decide) ..⟩

theorem powerRead_avg {avg : Nat} (h : avg < 2 ^ 32) (rails : List (Nat × Nat)) :
    (s.powerRead avg rails).getF F.PWR_MEAS_AVG_MW 0 = avg ∧
      (s.powerRead avg rails).getF F.PWR_MEAS_PEAK_MW 0 = max avg (s.getF F.PWR_MEAS_PEAK_MW 0) := by
  have hm : max avg (s.getF F.PWR_MEAS_PEAK_MW 0) < 2 ^ 32 := max_lt h (getF_lt s F.PWR_MEAS_PEAK_MW 0)
  rw [State.powerRead, readRails_other (by decide), setFs_cons, setFs_cons, setFs_nil]
  refine ⟨(getF_setF_same _ (by decide)).trans (Nat.mod_eq_of_lt h), ?_⟩
  rw [getF_setF_apart _ (by decide) (.inr (by decide)), getF_setF_same _ (by decide)]
  exact Nat.mod_eq_of_lt hm

theorem powerRead_rail {g : Fld} (h : g.reg = .PWR_RAIL) (avg : Nat) (rails : List (Nat × Nat)) (j : Nat) :
    (s.powerRead avg rails).getF g j = (s.readRails rails).getF g j := by
  rw [State.powerRead, getF_setFs_ne]
  simp only [List.forall_mem_cons, h]
  exact ⟨.inl (by decide), .inl (by decide), by simp⟩

theorem powerRead_rails (avg : Nat) {rails : List (Nat × Nat)} (hk : k < 13) (hl : k < rails.length) :
    (s.powerRead avg rails).getF F.PWR_RAIL_VOLT_MV k = (rails.getD k (0, 0)).1 % 65536 ∧
      (s.powerRead avg rails).getF F.PWR_RAIL_CURR_DA k = (rails.getD k (0, 0)).2 % 65536 := by
  have hd : (rails.take 13).getD (k - 0) (0, 0) = rails.getD k (0, 0) := by
    rw [Nat.sub_zero, List.getD_eq_getElem?_getD, List.getD_eq_getElem?_getD, List.getElem?_take_of_lt hk]
  rw [powerRead_rail rfl, powerRead_rail rfl, readRails_def, ← hd]
  exact railsFrom_at (rails.take 13) (Nat.zero_le k) (by rw [List.length_take]; omega) s

theorem powerRead_railsBeyond (avg : Nat) {rails : List (Nat × Nat)} (hl : rails.length ≤ k) {g : Fld} (hg : g.reg = .PWR_RAIL) :
    (s.powerRead avg rails).getF g k = s.getF g k := by
  rw [powerRead_rail hg, readRails_def]
  exact railsFrom_before (rails.take 13) (.inr (by rw [List.length_take]; omega)) s

/-- Panes of the unpinned partitions among `ps` that a loop may move. -/
def State.picked (s : State) (ps : List Nat) : List Nat := (ps.filter (s.loose.contains ·)).flatMap s.loopPanes

theorem mem_picked {ps : List Nat} : q ∈ s.picked ps ↔ ∃ p ∈ ps, p < 16 ∧ s.exists' p = true ∧ s.pinned p = false ∧ q < 32 ∧
    bitAt (s.getF F.SEC_PPANE_PANES p) q = true ∧ s.getF F.PANE_FREQ_STATE q < 2 ∧ s.flag F.PANE_FREQ_EMERG q = false := by
  simp only [State.picked, State.loose, State.loopPanes, List.mem_flatMap, List.mem_filter, List.contains_iff_mem, List.mem_range, mem_onesOf,
    Bool.and_eq_true, Bool.not_eq_true', decide_eq_true_eq]
  constructor
  · rintro ⟨p, ⟨h1, h2, h3, h4⟩, ⟨h5, h6⟩, h7, h8⟩
    exact ⟨p, h1, h2, h3, h4, h5, h6, h7, h8⟩
  · rintro ⟨p, h1, h2, h3, h4, h5, h6, h7, h8⟩
    exact ⟨p, ⟨h1, h2, h3, h4⟩, ⟨h5, h6⟩, h7, h8⟩

/-- What a loop asks of a pane. -/
def loopStep (high : Bool) : Nat → Nat := if high then fun c => min 3 (c + 1) else fun c => c - 1

theorem loopStep_lt (high : Bool) {c : Nat} (h : c < 4) : loopStep high c % 4 = if high then min 3 (c + 1) else c - 1 := by
  unfold loopStep
  cases high
  · exact Nat.mod_eq_of_lt (show c - 1 < 4 by omega)
  · exact Nat.mod_eq_of_lt (show min 3 (c + 1) < 4 by omega)

/-- The panes of a period, moved. -/
def State.loopMoved (s : State) (high : Bool) (ps : List Nat) : State := (s.picked ps).foldl (State.askPane (loopStep high)) s

/-- How long the power has been above the limit with only pinned panes left. -/
def State.nextOver (s : State) (high : Bool) : Nat := if high && s.onlyPinned then s.overPeriods + 1 else 0

/-- The count of those periods, replaced. -/
def State.withOver (s : State) (n : Nat) : State := { s with overPeriods := n }

theorem withOver_getF (s : State) (n : Nat) (g : Fld) (j : Nat) : (s.withOver n).getF g j = s.getF g j := rfl

theorem powerLoop_exec {avg : Nat} (ha : avg < 2 ^ 32) {ps : List Nat} (hp : ∀ p ∈ ps, p < 16) (rails : List (Nat × Nat))
    (hr : s.flag F.CTL_STATUS_READY 0 = true) {v : State} (hv : v = s.powerRead avg rails) {high : Bool}
    (hh : high = decide (1000 * v.getF F.PWR_LIMIT_LIMIT_W 0 < avg)) :
    exec (.powerLoop avg ps rails) s = .next (if 100 ≤ v.nextOver high then (v.loopMoved high ps).losePin.withOver 0
      else (v.loopMoved high ps).withOver (v.nextOver high)) := by
  have hall : (ps.all fun p => decide (p < 16)) = true := List.all_eq_true.2 fun p h => decide_eq_true (hp p h)
  have hm : v.loopMoved high ps = if high then (v.picked ps).foldl State.lowerPane v else (v.picked ps).foldl State.raisePane v := by
    rw [lowerPane_def, raisePane_def, State.loopMoved, loopStep]
    cases high <;> rfl
  rw [hm, apply_ite Host.Outcome.next]
  subst hh hv
  exact (if_neg (not_not.2 ⟨ha, hall⟩)).trans (if_neg (by simp [hr]))

/-- What a period of the power loop does, by what it has recorded. -/
theorem loopMoved_asks (s : State) (high : Bool) (ps : List Nat) : s.Asks (s.loopMoved high ps) := askAll_asks _ _ s

theorem loopMoved_same (s : State) (high : Bool) (ps : List Nat) : s.SameLoop (s.loopMoved high ps) := by
  have h := loopMoved_asks s high ps
  exact ⟨h.regs _ _ (by decide) (.inl (by decide)) (.inl (by decide)), fun p => h.regs _ p (by decide) (.inl (by decide)) (.inl (by decide)),
    fun p => h.regs _ p (by decide) (.inl (by decide)) (.inl (by decide))⟩

/-- A period leaves `w`, up to the pin that it may take. -/
structure State.Loops (w t : State) : Prop where
  mem : t.mem = w.mem
  regs : ∀ (g : Fld) (j : Nat), g.reg ≠ .CTL_PIN → g.reg ≠ .CTL_LOG → t.getF g j = w.getF g j

theorem loopEnd_loops (v w : State) (high : Bool) : w.Loops (if 100 ≤ v.nextOver high then w.losePin.withOver 0 else w.withOver (v.nextOver high)) := by
  split
  · exact ⟨losePin_mem w, fun g j h1 h2 => losePin_getF h1 h2 w j⟩
  · exact ⟨rfl, fun _ _ _ _ => rfl⟩

theorem nextOver_zero {high : Bool} (h : high = false ∨ s.onlyPinned = false) : s.nextOver high = 0 := by
  rcases h with h | h <;> simp [State.nextOver, h]

theorem nextOver_succ {high : Bool} (h1 : high = true) (h2 : s.onlyPinned = true) : s.nextOver high = s.overPeriods + 1 := by
  simp [State.nextOver, h1, h2]

/-! ## THERMAL_LOOP -/

/-- The sensors of a period of the thermal loop, recorded. -/
def State.thermalRead (s : State) (dies hbm : List Nat) : State :=
  s.setFs 0 [(F.PWR_TEMP0_LEAF_A, dies.getD 0 0 % 65536), (F.PWR_TEMP0_LEAF_B, dies.getD 1 0 % 65536),
    (F.PWR_TEMP0_JAMB_E, dies.getD 2 0 % 65536), (F.PWR_TEMP0_JAMB_W, dies.getD 3 0 % 65536),
    (F.PWR_TEMP1_STACK, leNat (hbm.map (BitVec.ofNat 8)))]

theorem thermalLoop_exec {dies hbm ps : List Nat} (hd : dies.length = 4) (hh : hbm.length = 8) (hp : ∀ p ∈ ps, p < 16)
    (hr : s.flag F.CTL_STATUS_READY 0 = true) :
    ∃ (high : Bool) (l : List Nat), exec (.thermalLoop dies hbm ps) s = .next (l.foldl (State.askPane (loopStep high)) (s.thermalRead dies hbm)) := by
  have hall : (ps.all fun p => decide (p < 16)) = true := List.all_eq_true.2 fun p h => decide_eq_true (hp p h)
  have he : exec (.thermalLoop dies hbm ps) s = if _ then .next _ else .next _ :=
    (if_neg (not_not.2 ⟨hd, hh, hall⟩)).trans (if_neg (by simp [hr]))
  rw [he]
  split
  · exact ⟨true, _, rfl⟩
  · exact ⟨false, _, rfl⟩

theorem thermalRead_holds (s : State) (dies hbm : List Nat) :
    (s.thermalRead dies hbm).getF F.PWR_TEMP0_LEAF_A 0 = dies.getD 0 0 % 65536 ∧ (s.thermalRead dies hbm).getF F.PWR_TEMP0_LEAF_B 0 = dies.getD 1 0 % 65536 ∧
      (s.thermalRead dies hbm).getF F.PWR_TEMP0_JAMB_E 0 = dies.getD 2 0 % 65536 ∧
      (s.thermalRead dies hbm).getF F.PWR_TEMP0_JAMB_W 0 = dies.getD 3 0 % 65536 := by
  simp only [State.thermalRead, setFs_cons, setFs_nil]
  refine ⟨?_, ?_, ?_, ?_⟩
  · rw [getF_setF_apart _ (by decide) (.inl (by decide)), getF_setF_apart _ (by decide) (.inr (by decide)),
      getF_setF_apart _ (by decide) (.inr (by decide)), getF_setF_apart _ (by decide) (.inr (by decide)), getF_setF_same _ (by decide)]
    exact Nat.mod_mod _ _
  · rw [getF_setF_apart _ (by decide) (.inl (by decide)), getF_setF_apart _ (by decide) (.inr (by decide)),
      getF_setF_apart _ (by decide) (.inr (by decide)), getF_setF_same _ (by decide)]
    exact Nat.mod_mod _ _
  · rw [getF_setF_apart _ (by decide) (.inl (by decide)), getF_setF_apart _ (by decide) (.inr (by decide)), getF_setF_same _ (by decide)]
    exact Nat.mod_mod _ _
  · rw [getF_setF_apart _ (by decide) (.inl (by decide)), getF_setF_same _ (by decide)]
    exact Nat.mod_mod _ _

/-! ## STANDBY and SLEEP -/

theorem refuseEntry_spec (s : State) {code : Nat} (h : code < 256) : (s.refuseEntry code).getF F.PWR_STATUS_REFUSE 0 = code ∧
    (s.refuseEntry code).getF F.PWR_STATUS_STATE 0 = s.getF F.PWR_STATUS_STATE 0 ∧
    (s.refuseEntry code).getF F.PWR_STATUS_REFUSALS 0 = satAdd F.PWR_STATUS_REFUSALS.w (s.getF F.PWR_STATUS_REFUSALS 0) 1 := by
  unfold State.refuseEntry
  rw [logEvent_quiet (by decide), getF_logNote (by decide), getF_logNote (by decide), getF_logNote (by decide)]
  refine ⟨?_, ?_, ?_⟩
  · rw [getF_addF_apart _ (by decide) (.inr (by decide)), getF_setF_same _ (by decide)]
    exact Nat.mod_eq_of_lt h
  · rw [getF_addF_apart _ (by decide) (.inr (by decide)), getF_setF_apart _ (by decide) (.inr (by decide))]
  · rw [getF_addF_same (by decide), getF_setF_apart _ (by decide) (.inr (by decide))]

theorem portAsk_mem (s : State) (q : Nat) : (s.portAsk q 2).mem = s.mem := by
  have hw : (s.portWork q 2).mem = s.mem := by
    unfold State.portWork
    dsimp only
    rw [if_neg (by decide)]
    split
    · rw [takeLocks_eq]
      rfl
    · rw [if_neg (by simp)]
  unfold State.portAsk
  split
  · rw [askLock_eq]
  · exact hw

/-- On entry to SLEEP every port in UP asks for sleep. -/
def State.sleepPorts (s : State) : State := (List.range 36).foldl (fun s q => if s.pstate q = 8 then s.portAsk q 2 else s) s

theorem sleepPorts_mem (s : State) : s.sleepPorts.mem = s.mem :=
  foldl_keep (g := State.mem) (fun t q _ => by
    split
    · exact portAsk_mem t q
    · rfl) s

theorem noPlans_any (h : ∀ p < 16, s.plansOf p = []) : ((List.range 16).any fun p => decide (s.plansOf p ≠ [])) = false := by
  rw [List.any_eq_false]
  intro p hp
  simp [h p (List.mem_range.1 hp)]

theorem sleepEntry_enters (hr : s.flag F.CTL_STATUS_READY 0 = true) (hq : s.boot.quiet = false) (h2 : s.getF F.PWR_STATUS_STATE 0 ≠ 2)
    (hp : ∀ p < 16, s.plansOf p = []) (hn : s.quietNow = true) : exec (.sleepEntry true) s = .next (s.sleepPorts.setF F.PWR_STATUS_STATE 0 2) := by
  have hc : ¬ (¬ s.flag F.CTL_STATUS_READY 0 = true ∨ s.boot.quiet = true ∨ s.getF F.PWR_STATUS_STATE 0 = 2) := by simp [hr, hq, h2]
  exact (if_neg hc).trans ((if_neg (by rw [noPlans_any hp]; decide)).trans ((if_neg (by simp [hn])).trans (if_neg (by simp))))

theorem sleepEntry_resident (hr : s.flag F.CTL_STATUS_READY 0 = true) (hq : s.boot.quiet = false) (h2 : s.getF F.PWR_STATUS_STATE 0 ≠ 2)
    {p : Nat} (hp : p < 16) (hn : s.plansOf p ≠ []) (drained : Bool) : exec (.sleepEntry drained) s = .next (s.refuseEntry 3) := by
  have hc : ¬ (¬ s.flag F.CTL_STATUS_READY 0 = true ∨ s.boot.quiet = true ∨ s.getF F.PWR_STATUS_STATE 0 = 2) := by simp [hr, hq, h2]
  exact (if_neg hc).trans (if_pos (List.any_eq_true.2 ⟨p, List.mem_range.2 hp, decide_eq_true hn⟩))

theorem standbyEntry_due {idle : Nat} (hr : s.flag F.CTL_STATUS_READY 0 = true) (hq : s.boot.quiet = false) (h0 : s.getF F.PWR_STATUS_STATE 0 = 0)
    (he : s.flag F.PWR_CTRL_STBY_EN 0 = true) (hi : s.getF F.PWR_CTRL_IDLE_US 0 ≤ idle) (drained : Bool) :
    exec (.standbyEntry idle drained) s = if ¬ s.quietNow then .next (s.refuseEntry 2) else if ¬ drained then .next (s.refuseEntry 1)
      else .next (s.setF F.PWR_STATUS_STATE 0 1) :=
  if_neg (by simp [hr, hq, h0, he, hi])

/-! ## The obligation -/

/-- Settles O59: entries, the return to RUN, rails, and the two loops by what they record and ask. -/
theorem powerStatesChange : Obligations.PowerStatesChange := by
  unfold Obligations.PowerStatesChange
  refine ⟨?_, ?_, ?_, ?_, ?_, ?_, ?_, ?_, ?_, ?_, ?_⟩
  · intro s idle hr hq h0 he hi hn
    refine ⟨_, (standbyEntry_due hr hq h0 he hi true).trans ((if_neg (by simp [hn])).trans (if_neg (by simp))), ?_, only_setF s (by decide)⟩
    rw [getF_setF_same _ (by decide)]
    rfl
  · intro s idle drained hr hq h0 he hi hn
    by_cases hqn : s.quietNow = true
    · have hd : ¬ drained = true := by
        rcases hn with hn | hn <;> simp_all
      obtain ⟨r1, r2, r3⟩ := refuseEntry_spec s (code := 1) (by decide)
      exact ⟨s.refuseEntry 1, (standbyEntry_due hr hq h0 he hi drained).trans ((if_neg (not_not.2 hqn)).trans (if_pos hd)), r2.trans h0,
        by rw [r1, if_pos hqn], r3⟩
    · obtain ⟨r1, r2, r3⟩ := refuseEntry_spec s (code := 2) (by decide)
      exact ⟨s.refuseEntry 2, (standbyEntry_due hr hq h0 he hi drained).trans (if_pos hqn), r2.trans h0, by rw [r1, if_neg hqn], r3⟩
  · intro s hr hq h2 hp hn
    refine ⟨_, sleepEntry_enters hr hq h2 hp hn, ?_, sleepPorts_mem s⟩
    rw [getF_setF_same _ (by decide)]
    rfl
  · intro s drained p hr hq h2 hp hn
    obtain ⟨r1, r2, -⟩ := refuseEntry_spec s (code := 3) (by decide)
    exact ⟨_, sleepEntry_resident hr hq h2 hp hn drained, r1, r2⟩
  · intro s d0 cals hc h0 hq hw hk
    have hs : s.asleep = true := by
      rw [State.asleep, hq, Bool.not_false, Bool.and_true, bne_iff_ne]
      exact h0
    refine ⟨s.wake cals, (if_neg (not_not.2 hc)).trans ?_, wake_spec hk cals⟩
    exact congrArg Host.Outcome.next (if_pos ⟨hs, hw⟩)
  · intro s d0 cals hc h
    refine (if_neg (not_not.2 hc)).trans (congrArg Host.Outcome.next (if_neg ?_))
    rintro ⟨hs, hw⟩
    rw [State.asleep, Bool.and_eq_true, bne_iff_ne] at hs
    rcases h with h | h | ⟨h1, h2⟩
    · exact hs.1 h
    · simp [h] at hs
    · simp [h1, h2] at hw
  · intro s k mv da hk hm hd
    refine ⟨_, if_neg (not_not.2 ⟨hk, hm, hd⟩), ?_, ?_, ?_, ?_, ?_⟩
    · exact regsBut_setFs (l := [(F.PWR_RAIL_OUT5, 1), (F.PWR_RAIL_VOLT_MV, mv), (F.PWR_RAIL_CURR_DA, da)]) k
        (by simp [F.PWR_RAIL_OUT5, F.PWR_RAIL_VOLT_MV, F.PWR_RAIL_CURR_DA])
    · rfl
    · simp only [setFs_cons, setFs_nil]
      rw [flag_setF_apart (by decide) (.inr (by decide)), flag_setF_apart (by decide) (.inr (by decide))]
      exact flag_setF_bit (by decide) rfl true
    · simp only [setFs_cons, setFs_nil]
      rw [getF_setF_apart _ (by decide) (.inr (by decide)), getF_setF_same _ (by decide)]
      exact Nat.mod_eq_of_lt hm
    · simp only [setFs_cons, setFs_nil]
      rw [getF_setF_same _ (by decide)]
      exact Nat.mod_eq_of_lt hd
  · intro s k hk
    have hx : exec (.railUndervolt k) s = .next (if s.boot.held then { s with boot := { s.boot with low := s.boot.low.filter (· != k) ++ [k] } }
        else State.resetSoon { s with boot := { s.boot with low := s.boot.low.filter (· != k) ++ [k] } } 1000) :=
      (if_neg (by omega)).trans (if_neg (by omega))
    refine ⟨fun hh => hx.trans (congrArg _ (if_pos hh)), fun hh => ?_⟩
    obtain ⟨⟨ps, h1⟩, h2⟩ := resetSoon_spec { s with boot := { s.boot with low := s.boot.low.filter (· != k) ++ [k] } } 1000
    refine ⟨_, hx.trans (congrArg _ (if_neg (by simp [hh]))), ?_, ?_, h2⟩
    · rw [h1]
    · rw [h1]
  · intro s k h1 h2
    exact (if_neg (not_not.2 h2)).trans (if_pos h1)
  · intro s avg ps rails ha hp hr high
    have hv : ∀ (g : Fld) (j : Nat), g.reg ≠ .PWR_RAIL → g.reg ≠ .PWR_MEAS → (s.powerRead avg rails).getF g j = s.getF g j :=
      fun g j h1 h2 => powerRead_other h1 h2 s avg rails j
    have he := powerLoop_exec ha hp rails hr rfl (high := high) (by rw [hv _ _ (by decide) (by decide)])
    have hsame := powerRead_same (s := s) avg rails
    obtain ⟨a1, a2⟩ := powerRead_avg (s := s) ha rails
    have hrail := fun k (h1 : k < 13) (h2 : k < rails.length) => powerRead_rails (s := s) avg h1 h2
    have hbeyond := fun k (h : rails.length ≤ k) (g : Fld) (hg : g.reg = .PWR_RAIL) => powerRead_railsBeyond (s := s) avg h hg
    have hfr := powerRead_eq s avg rails
    generalize s.powerRead avg rails = v at hv he hsame a1 a2 hrail hbeyond hfr
    have hover : v.overPeriods = s.overPeriods := by rw [hfr]
    have honly : v.onlyPinned = s.onlyPinned := by
      unfold State.onlyPinned State.loopPanes
      simp only [hsame.loose, hsame.mostPinned, hsame.panes, State.flag, hv F.PANE_FREQ_STATE _ (by decide) (by decide),
        hv F.PANE_FREQ_EMERG _ (by decide) (by decide), hv F.PANE_FREQ_CUR _ (by decide) (by decide)]
    have hm := loopMoved_asks v high ps
    have hms := loopMoved_same v high ps
    have hl := loopEnd_loops v (v.loopMoved high ps) high
    have hreg : ∀ (g : Fld) (j : Nat), g.reg ≠ .CTL_PIN → g.reg ≠ .CTL_LOG → g.reg ≠ .CTL_MLOCK → F.PANE_FREQ_PENDING.Apart g →
        F.PANE_FREQ_REQ.Apart g →
        (if 100 ≤ v.nextOver high then (v.loopMoved high ps).losePin.withOver 0 else (v.loopMoved high ps).withOver (v.nextOver high)).getF g j =
          v.getF g j := fun g j h1 h2 h3 h4 h5 => (hl.regs g j h1 h2).trans (hm.regs g j h3 h4 h5)
    refine ⟨_, he, ?_, ?_, ?_, fun k h1 h2 => ⟨?_, ?_⟩, fun k h => ⟨?_, ?_⟩, fun q hq => ?_, fun q hq hx hst hem => ⟨?_, ?_⟩, fun h => ?_,
      fun h1 h2 h3 => ?_, fun p h1 h2 h3 h4 => ?_⟩
    · rw [hreg F.PWR_MEAS_AVG_MW 0 (by decide) (by decide) (by decide) (.inl (by decide)) (.inl (by decide)), a1]
    · rw [hreg F.PWR_MEAS_PEAK_MW 0 (by decide) (by decide) (by decide) (.inl (by decide)) (.inl (by decide)), a2]
    · rw [hl.mem, hm.frame, hfr]
    · rw [hreg F.PWR_RAIL_VOLT_MV k (by decide) (by decide) (by decide) (.inl (by decide)) (.inl (by decide)), (hrail k h1 h2).1]
    · rw [hreg F.PWR_RAIL_CURR_DA k (by decide) (by decide) (by decide) (.inl (by decide)) (.inl (by decide)), (hrail k h1 h2).2]
    · rw [hreg F.PWR_RAIL_VOLT_MV k (by decide) (by decide) (by decide) (.inl (by decide)) (.inl (by decide)), hbeyond k h _ rfl]
    · rw [hreg F.PWR_RAIL_CURR_DA k (by decide) (by decide) (by decide) (.inl (by decide)) (.inl (by decide)), hbeyond k h _ rfl]
    · rw [hl.regs F.PANE_FREQ_REQ q (by decide) (by decide), State.loopMoved, askAll_req_ne, hv F.PANE_FREQ_REQ q (by decide) (by decide)]
      intro hin
      obtain ⟨p, hpp, -, -, -, -, hb, -⟩ := mem_picked.1 hin
      rw [hsame.panes, hq p hpp] at hb
      cases hb
    · obtain ⟨p, hpp, hex, hpin, hbit⟩ := hx
      have hin : q ∈ v.picked ps := mem_picked.2 ⟨p, hpp, hp p hpp, (exists_congr' p (hsame.parts p)).trans hex,
        (pinned_congr hsame.pins p).trans hpin, hq, by rw [hsame.panes, hbit], by rw [hv F.PANE_FREQ_STATE q (by decide) (by decide)]; exact hst,
        by rw [State.flag, hv F.PANE_FREQ_EMERG q (by decide) (by decide)]; exact hem⟩
      rw [hl.regs F.PANE_FREQ_REQ q (by decide) (by decide), State.loopMoved,
        askAll_req _ hin (by rw [hv F.PANE_FREQ_STATE q (by decide) (by decide)]; exact hst), hv F.PANE_FREQ_CUR q (by decide) (by decide)]
      exact loopStep_lt high (getF_lt s F.PANE_FREQ_CUR q)
    · rw [hreg F.PANE_FREQ_CUR q (by decide) (by decide) (by decide) (.inr (by decide)) (.inr (by decide)), hv F.PANE_FREQ_CUR q (by decide) (by decide)]
    · have hn : v.nextOver high = 0 := nextOver_zero (h.imp_right fun h => honly.trans h)
      rw [hn, if_neg (by decide)]
      rfl
    · have hn : v.nextOver high = s.overPeriods + 1 := by rw [nextOver_succ h1 (honly.trans h2), hover]
      rw [hn, if_neg (by omega), withOver_getF, hms.pins, hsame.pins]
      exact ⟨rfl, rfl⟩
    · have hn : v.nextOver high = s.overPeriods + 1 := by rw [nextOver_succ h1 (honly.trans h2), hover]
      obtain ⟨p1, p2, p3⟩ := losePin_spec (s := v.loopMoved high ps) (p := p) (hms.mostPinned.trans (hsame.mostPinned.trans h4))
      rw [hn, if_pos h3]
      exact ⟨rfl, p1, p2, fun r _ hr => (p3 r hr).trans ((pinned_congr hms.pins r).trans (pinned_congr hsame.pins r))⟩
  · intro s dies hbm ps hd hh hp hr
    obtain ⟨high, l, he⟩ := thermalLoop_exec (s := s) hd hh hp hr
    have hk := askAll_asks (loopStep high) l (s.thermalRead dies hbm)
    obtain ⟨h1, h2, h3, h4⟩ := thermalRead_holds s dies hbm
    refine ⟨_, he, ?_, ?_, ?_, ?_, ?_⟩
    · rw [hk.frame]
      rfl
    · rw [hk.regs F.PWR_TEMP0_LEAF_A 0 (by decide) (.inl (by decide)) (.inl (by decide)), h1]
    · rw [hk.regs F.PWR_TEMP0_LEAF_B 0 (by decide) (.inl (by decide)) (.inl (by decide)), h2]
    · rw [hk.regs F.PWR_TEMP0_JAMB_E 0 (by decide) (.inl (by decide)) (.inl (by decide)), h3]
    · rw [hk.regs F.PWR_TEMP0_JAMB_W 0 (by decide) (.inl (by decide)) (.inl (by decide)), h4]

end Sys2Proof.Machine
end

section
/-! SUPPORT. The host side: doorbells and their rings, records of bounced rings, peepholes and the log. -/

namespace Sys2Proof.Machine

variable {s t u v : State} {fn k x head tail at' core i : Nat} {recs : List HostData} {bs : List Byte}

/-! ## Doorbells -/

theorem only_addF (s : State) {f : Fld} (hf : f.lo + f.w ≤ 64) (i n : Nat) : s.Only (s.addF f i n) [(f, i)] := only_setF s hf

theorem getF_stir (s : State) (f : Fld) (i : Nat) : s.stir.getF f i = s.getF f i := by
  rw [stir_eq]
  rfl

theorem doorbell_off {w : Nat} (h : s.doorbellOff fn (bitsOf w 32 16) (bitAt w 63) = true) :
    s.doorbell fn w at' recs = s.addF F.CTL_STATUS_DB_IGNORED 0 1 := if_pos h

theorem doorbell_on {w : Nat} (h : s.doorbellOff fn (bitsOf w 32 16) (bitAt w 63) = false) :
    s.doorbell fn w at' recs = match s.counters (s.ring (bitsOf w 32 16)) with
      | (s, none) => s.addF F.CTL_STATUS_DB_IGNORED 0 1
      | (s, some (head, tail)) =>
        if valueBad (s.ring (bitsOf w 32 16)).log2n head tail (bitsOf w 0 32) (bitAt w 63) then s.addF F.CTL_STATUS_DB_IGNORED 0 1
        else if bitAt w 63 then s.newHead (bitsOf w 32 16) (bitsOf w 0 32) tail at'
        else s.newTail (bitsOf w 32 16) (bitsOf w 0 32) head recs :=
  if_neg (by rw [h]; decide)

theorem doorbell_ignored {w : Nat} {c : State × Option (Nat × Nat)} (h : s.doorbellOff fn (bitsOf w 32 16) (bitAt w 63) = false)
    (hc : s.counters (s.ring (bitsOf w 32 16)) = c)
    (hb : c.2 = none ∨ ∃ head tail, c.2 = some (head, tail) ∧
      valueBad (c.1.ring (bitsOf w 32 16)).log2n head tail (bitsOf w 0 32) (bitAt w 63) = true) :
    s.doorbell fn w at' recs = c.1.addF F.CTL_STATUS_DB_IGNORED 0 1 := by
  rw [doorbell_on h, hc]
  obtain ⟨u, o⟩ := c
  rcases hb with hb | ⟨head, tail, hb, hv⟩
  · cases hb
    rfl
  · cases hb
    exact if_pos hv

theorem doorbell_taken {w : Nat} {c : State × Option (Nat × Nat)} (h : s.doorbellOff fn (bitsOf w 32 16) (bitAt w 63) = false)
    (hc : s.counters (s.ring (bitsOf w 32 16)) = c) (hs : c.2 = some (head, tail))
    (hv : valueBad (c.1.ring (bitsOf w 32 16)).log2n head tail (bitsOf w 0 32) (bitAt w 63) = false) :
    s.doorbell fn w at' recs = if bitAt w 63 then c.1.newHead (bitsOf w 32 16) (bitsOf w 0 32) tail at'
      else c.1.newTail (bitsOf w 32 16) (bitsOf w 0 32) head recs := by
  rw [doorbell_on h, hc]
  obtain ⟨u, o⟩ := c
  cases hs
  exact if_neg (by rw [hv]; decide)

theorem ctlDoorbell_exec (hf : fn ≤ 16) (w : Word64) :
    exec (.ctlDoorbell fn w at' recs) s = .next (s.stir.doorbell fn w.toNat at' recs) := if_neg (not_not.2 hf)

theorem counters_kept {r : Ring} (h7 : r.role ≠ 7) (h8 : r.role ≠ 8) : s.counters r = (s, some (r.head, r.tail)) :=
  if_neg fun h => h.elim h7 h8

theorem counters_header {r : Ring} (h : r.role = 7 ∨ r.role = 8) (hr : s.readR r.off 64 [] = (u, .ok bs)) :
    s.counters r = (u, some (if r.role = 7 then (leAt bs 0 4, r.tail) else (r.head, leAt bs 4 4))) := by
  unfold State.counters
  rw [if_pos h, hr]

/-! ## A new TAIL and a new HEAD -/

/-- The rest of a new TAIL, once the entries are there. -/
def State.tailSet (s : State) (k x head : Nat) (r : Ring) : State :=
  if r.role = 7 then (s.setRing k { s.ring k with tail := x }).writeQ r.off (ringHeader head x) else s.setRing k { s.ring k with tail := x }

theorem tailSet_host {r : Ring} (h : r.role ≠ 7) : s.tailSet k x head r = s.setRing k { s.ring k with tail := x } := if_neg h

theorem newTail_plain (h : (s.ring k).fn = 0 ∨ s.bounced ((s.ring k).fn - 1) = false) :
    s.newTail k x head recs = s.tailSet k x head (s.ring k) := by
  unfold State.newTail
  dsimp only
  rw [if_pos (h.imp_right (by simp))]
  exact if_neg (by simp)

theorem not_plain {r : Ring} (h0 : r.fn ≠ 0) (hb : s.bounced (r.fn - 1) = true) : ¬ (r.fn = 0 ∨ ¬ s.bounced (r.fn - 1) = true) :=
  fun h => h.elim h0 fun h => h hb

theorem newTail_refused (h0 : (s.ring k).fn ≠ 0) (hb : s.bounced ((s.ring k).fn - 1) = true)
    (ht : s.takeRecs ((s.ring k).fn - 1) (ahead (s.ring k).tail x * (s.ring k).ent) recs = (u, none)) : s.newTail k x head recs = u := by
  unfold State.newTail
  dsimp only
  rw [if_neg (not_plain h0 hb), ht]
  exact if_pos (by simp)

theorem newTail_records (h0 : (s.ring k).fn ≠ 0) (hb : s.bounced ((s.ring k).fn - 1) = true)
    (ht : s.takeRecs ((s.ring k).fn - 1) (ahead (s.ring k).tail x * (s.ring k).ent) recs = (u, some bs)) :
    s.newTail k x head recs = (u.putEntries (s.ring k) (s.ring k).tail (ahead (s.ring k).tail x) bs).tailSet k x head (s.ring k) := by
  unfold State.newTail
  dsimp only
  rw [if_neg (not_plain h0 hb), ht]
  exact if_neg (by simp)

theorem newHead_simple (h : (s.ring k).role = 5 ∨ (s.ring k).role = 6) :
    s.newHead k x tail at' = s.setRing k { s.ring k with head := x, bat := at' } := by
  have h8 : (s.ring k).role ≠ 8 := by omega
  have h2 : (s.ring k).role ≠ 2 := by omega
  have h4 : (s.ring k).role ≠ 4 := by omega
  exact (if_neg h8).trans ((if_neg h2).trans (if_neg h4))

theorem newHead_control (h : (s.ring k).role = 2) :
    s.newHead k x tail at' = (s.setRing k { s.ring k with head := x, bat := at' }).repost :=
  (if_neg (show (s.ring k).role ≠ 8 by omega)).trans (if_pos h)

theorem newHead_plan (h : (s.ring k).role = 8) (hb : s.bounced ((s.ring k).fn - 1) = false) :
    s.newHead k x tail at' = (s.setRing k { s.ring k with head := x, bat := at' }).writeQ (s.ring k).off (ringHeader x tail) := by
  refine (if_pos h).trans (if_neg ?_)
  have hq : ((s.setRing k { s.ring k with head := x, bat := at' }).writeQ (s.ring k).off (ringHeader x tail)).bounced ((s.ring k).fn - 1) =
      (s.setRing k { s.ring k with head := x, bat := at' }).bounced ((s.ring k).fn - 1) := by
    rw [State.bounced, State.bounced, (State.RingOp.writeQ ..).regs _ _ (by decide)]
  rw [hq, Bool.not_eq_true]
  exact hb

/-! ## Records of a bounced ring -/

theorem ringBounce_def {r' : List Byte} (h0 : (s.ring k).fn ≠ 0) (hb : s.bounced ((s.ring k).fn - 1) = true)
    (ho : s.bounceOut ((s.ring k).fn - 1) (padTo (s.ring k).ent bs) = (u, some r')) : s.ringBounce k bs =
      ({ u with hostOut := u.hostOut ++ [((s.ring k).bat, r')] } : State).setRing k
        { s.ring k with bat := (s.ring k).bat + roundUp (48 + (s.ring k).ent) 64 } := by
  unfold State.ringBounce
  dsimp only
  rw [if_neg (not_plain h0 hb), ho]

theorem ringBounce_spec {r' : List Byte} (h0 : (s.ring k).fn ≠ 0) (hb : s.bounced ((s.ring k).fn - 1) = true)
    (ho : s.bounceOut ((s.ring k).fn - 1) (padTo (s.ring k).ent bs) = (u, some r')) (hv : s.ringBounce k bs = v) :
    v.hostOut = u.hostOut ++ [((s.ring k).bat, r')] ∧ (v.ring k).bat = (s.ring k).bat + roundUp (48 + (s.ring k).ent) 64 ∧
      v.mem = u.mem ∧ v.regs = u.regs := by
  rw [ringBounce_def h0 hb ho] at hv
  subst hv
  exact ⟨rfl, congrArg Ring.bat (State.setRing_ring_same _ k _), rfl, rfl⟩

/-! ## Peepholes -/

/-- A core without its oldest peephole record. -/
def State.peepTaken (s : State) (core : Nat) (rest : List PeepRec) : State := s.setCore core { s.core core with peep := rest }

theorem peepholeDeliver_exec {r : PeepRec} {rest : List PeepRec} (hc : core < 256) (hp : s.pairStopped = false) (hr : (s.core core).peep = r :: rest) :
    exec (.peepholeDeliver core) s = match (s.ringsOf (s.partOf core + 1) 6).head? with
      | none => .next ((s.peepTaken core rest).addF F.CTL_PEEPDROP_RING 0 1)
      | some i =>
        if (s.ring i).room = 0 then .next ((s.peepTaken core rest).addF F.CTL_PEEPDROP_RING 0 1)
        else .next (((s.peepTaken core rest).modCore core (fun k => { k with peepDrops := 0 })).ringPut i (r.bytes (s.partOf core) (s.core core).peepDrops)) := by
  refine (if_neg (not_not.2 (.inl hc))).trans ((if_neg (by simp [hp])).trans ((if_neg (by omega)).trans ?_))
  dsimp only
  rw [hr]
  rfl

theorem peepholeDeliver_drops {r : PeepRec} {rest : List PeepRec} (hc : core < 256) (hp : s.pairStopped = false) (hr : (s.core core).peep = r :: rest)
    (hi : ∀ i, (s.ringsOf (s.partOf core + 1) 6).head? = some i → (s.ring i).room = 0) :
    exec (.peepholeDeliver core) s = .next ((s.peepTaken core rest).addF F.CTL_PEEPDROP_RING 0 1) := by
  rw [peepholeDeliver_exec hc hp hr]
  rcases h : (s.ringsOf (s.partOf core + 1) 6).head? with _ | i
  · rfl
  · exact if_pos (hi i h)

theorem peepholeDeliver_puts {r : PeepRec} {rest : List PeepRec} (hc : core < 256) (hp : s.pairStopped = false) (hr : (s.core core).peep = r :: rest)
    (hi : (s.ringsOf (s.partOf core + 1) 6).head? = some i) (h0 : (s.ring i).room ≠ 0) :
    exec (.peepholeDeliver core) s = .next
      (((s.peepTaken core rest).modCore core (fun k => { k with peepDrops := 0 })).ringPut i (r.bytes (s.partOf core) (s.core core).peepDrops)) := by
  rw [peepholeDeliver_exec hc hp hr, hi]
  exact if_neg h0

theorem peepTaken_peep (s : State) (core : Nat) (rest : List PeepRec) : ((s.peepTaken core rest).core core).peep = rest :=
  congrArg Core.peep (State.setCore_core_same s core _)

theorem ranuatPeep_def (s : State) : s.ranuatPeep =
    if ¬ bitAt (s.getF (peepFld (768 + s.takeFree.2 % 256)) ((768 + s.takeFree.2 % 256) / 4)) 0 then s.takeFree.1
    else s.takeFree.1.peepPut 0 ((⟨768 + s.takeFree.2 % 256, 0xFFFF, 0, 0, s.now, s.takeFree.2⟩ : PeepRec).bytes 0 0) := rfl

theorem peepPut_none (h : (s.ringsOf fn 6).head? = none) : s.peepPut fn bs = s.addF F.CTL_PEEPDROP_RING 0 1 := by
  unfold State.peepPut
  rw [h]

theorem peepPut_some (h : (s.ringsOf fn 6).head? = some i) (h0 : (s.ring i).room ≠ 0) : s.peepPut fn bs = s.ringPut i bs := by
  unfold State.peepPut
  rw [h]
  exact if_neg h0

/-! ## The log buffer -/

/-- An entry of a ring of the PF moves its TAIL by one. -/
theorem ringPut_tail (hf : (s.ring k).fn = 0) (bs : List Byte) : ∃ m y,
    s.ringPut k bs = { s.setRing k { s.ring k with tail := ((s.ring k).tail + 1) % 2 ^ 32 } with sram := m, msix := y } := by
  have hb : s.ringBounce k bs = s := if_pos (.inl hf)
  unfold State.ringPut
  rw [hb]
  dsimp only
  rw [State.ringWrite, if_pos hf, State.ringWrite, if_pos hf, setSram_eq, setSram_eq]
  exact ⟨_, _, rfl⟩

/-- Entries copied to the PF's LOG ring move its TAIL, and leave memory and the buffer alone. -/
theorem logPut_tail (l : List LogEntry) (hf : (s.ring k).fn = 0) (ht : (s.ring k).tail < 2 ^ 32) :
    (s.logPut k l).log = s.log ∧ ((s.logPut k l).ring k).tail = ((s.ring k).tail + l.length) % 2 ^ 32 := by
  induction l generalizing s with
  | nil => exact ⟨rfl, (Nat.mod_eq_of_lt ht).symm⟩
  | cons e l ih =>
    obtain ⟨m, y, h⟩ := ringPut_tail hf e.bytes
    have hr : ((s.ringPut k e.bytes).addF F.CTL_LOG_WRITTEN 0 1).ring k = { s.ring k with tail := ((s.ring k).tail + 1) % 2 ^ 32 } := by
      rw [h]
      exact State.setRing_ring_same s k _
    have hl : ((s.ringPut k e.bytes).addF F.CTL_LOG_WRITTEN 0 1).log = s.log := by
      rw [h]
      rfl
    obtain ⟨h1, h2⟩ := ih (s := (s.ringPut k e.bytes).addF F.CTL_LOG_WRITTEN 0 1) (by rw [hr]; exact hf)
      (by rw [hr]; exact Nat.mod_lt _ (by decide))
    refine ⟨h1.trans hl, h2.trans ?_⟩
    rw [hr, List.length_cons, Nat.mod_add_mod, Nat.add_assoc, Nat.add_comm 1]

theorem withLog_log (s : State) (l : List LogEntry) : (s.withLog l).log = l := rfl

theorem logCopy_spec (hk : (s.ringsOf 0 5).head? = some k) (hp : s.pairStopped = false) (hf : (s.ring k).fn = 0) (ht : (s.ring k).tail < 2 ^ 32) :
    s.logCopy.log = s.log.drop (s.ring k).room ∧
      (s.logCopy.ring k).tail = ((s.ring k).tail + min (s.ring k).room s.log.length) % 2 ^ 32 ∧ s.logCopy.mem = s.mem := by
  rw [logCopy_def hk hp]
  have hw := withLog_ring s (s.log.drop (s.ring k).room) k
  have hl := withLog_log s (s.log.drop (s.ring k).room)
  have hm := (withLog_logs s (s.log.drop (s.ring k).room)).mem
  generalize s.withLog (s.log.drop (s.ring k).room) = w at hw hl hm
  rw [← hw] at hf ht
  obtain ⟨h1, h2⟩ := logPut_tail (s.log.take (s.ring k).room) hf ht
  rw [List.length_take, hw] at h2
  exact ⟨h1.trans hl, h2, (logPut_logs _ hf).mem.trans hm⟩

end Sys2Proof.Machine
end

section
/-! SUPPORT. The host side: the windows of a function, management and the UART. -/

namespace Sys2Proof.Machine

variable {s u v : State} {t : Tlp} {at' : Nat} {recs : List HostData} {sigOk : Bool} {sym : Syms} {r : MgmtReq} {cals : List (Cal × Cal)}

/-! ## Windows -/

theorem asleep_iff (hq : s.boot.quiet = false) : s.asleep = true ↔ s.getF F.PWR_STATUS_STATE 0 ≠ 0 := by
  simp [State.asleep, hq]

theorem awake (h : s.getF F.PWR_STATUS_STATE 0 = 0) : s.asleep = false := by
  simp [State.asleep, h]

/-- An access that the package takes from the host. -/
def Tlp.Ok (t : Tlp) : Prop := t.fn ≤ 16 ∧ (t.bar = 0 ∨ t.bar = 2 ∨ t.bar = 4) ∧ 1 ≤ t.size ∧ t.size ≤ 4096

/-- The access is off the stream that mode IDE asks for. -/
def State.offStream (s : State) (t : Tlp) : Prop :=
  t.fn ≠ 0 ∧ s.getF F.SEC_PCTL_HMODE (t.fn - 1) = 1 ∧ ¬ (t.ide = true ∧ (s.psecOf (t.fn - 1)).ide = true)

section
variable (ht : t.Ok) (hh : s.boot.held = false) (hq : s.boot.quiet = false)
include ht hh hq

theorem inboundTlp_running (hp : t.fn = 0 ∨ s.portsOff = false) : exec (.inboundTlp t at' recs sigOk sym) s =
    if t.fn ≠ 0 ∧ s.getF F.SEC_PCTL_HMODE (t.fn - 1) = 1 ∧ ¬ (t.ide = true ∧ (s.psecOf (t.fn - 1)).ide = true) then
      .next ((s.addF F.SEC_PBBSTAT_SEQ_FAIL (t.fn - 1) 1).tlpRefuse t false)
    else if t.bar = 0 then s.tlpBar0 t at' recs sigOk
    else if t.bar = 2 then s.tlpBar2 t
    else s.tlpBar4 t sym :=
  (if_neg (not_not.2 ht)).trans ((if_neg (by simp [hh, hq])).trans (if_neg fun h => hp.elim h.1 (by simp [h.2])))

theorem inboundTlp_offStream (hp : s.portsOff = false) (h : s.offStream t) : exec (.inboundTlp t at' recs sigOk sym) s =
    .next ((s.addF F.SEC_PBBSTAT_SEQ_FAIL (t.fn - 1) 1).tlpRefuse t false) :=
  (inboundTlp_running ht hh hq (.inr hp)).trans (if_pos h)

theorem inboundTlp_bar0 (h0 : t.fn = 0) (hb : t.bar = 0) : exec (.inboundTlp t at' recs sigOk sym) s = s.tlpBar0 t at' recs sigOk :=
  (inboundTlp_running ht hh hq (.inl h0)).trans ((if_neg fun h => h.1 h0).trans (if_pos hb))

theorem inboundTlp_bar4 (hp : s.portsOff = false) (hb : t.bar = 4) (h : ¬ s.offStream t) :
    exec (.inboundTlp t at' recs sigOk sym) s = s.tlpBar4 t sym :=
  (inboundTlp_running ht hh hq (.inr hp)).trans ((if_neg h).trans ((if_neg (by omega)).trans (if_neg (by omega))))

end

theorem tlpBar0_power (h0 : t.fn = 0) (hd : t.data = none) (hlo : 0x2000 ≤ t.off) (hhi : t.off + t.len ≤ 0x2020) :
    s.tlpBar0 t at' recs sigOk = .next (s.tlpData t ((List.range t.len).map (fun i => s.regByte (pwrByte (t.off + i - 0x2000))))) := by
  have hsz : t.size = t.len := by rw [Tlp.size, hd]
  have hw : t.within 0x2000 0x2020 = true := by simp [Tlp.within, hsz, hlo, hhi]
  have hbytes : ∀ i ∈ List.range t.len, s.bar0Byte t.fn (t.off + i) = s.regByte (pwrByte (t.off + i - 0x2000)) := by
    intro i hi
    have := List.mem_range.1 hi
    exact (if_neg (by omega)).trans (if_pos ⟨h0, by omega, by omega⟩)
  unfold State.tlpBar0
  rw [hd]
  dsimp only
  rw [if_pos (.inr (.inr ⟨h0, .inl hw⟩)), List.map_congr_left hbytes]

/-- The access lies in the ring slice of an existing partition whose records do not bounce. -/
structure State.SliceOk (s : State) (t : Tlp) : Prop where
  fn : t.fn ≠ 0
  some : s.exists' (t.fn - 1) = true
  plain : s.bounced (t.fn - 1) = false
  fits : t.off + t.size ≤ (s.slice (t.fn - 1)).2

theorem SliceOk.taken (h : s.SliceOk t) :
    ¬ (t.fn = 0 ∨ ¬ s.exists' (t.fn - 1) = true ∨ s.bounced (t.fn - 1) = true ∨ ¬ t.off + t.size ≤ (s.slice (t.fn - 1)).2) := by
  simp [h.fn, h.some, h.plain, h.fits]

theorem tlpBar4_asleep (h : s.SliceOk t) (ha : s.asleep = true) : s.tlpBar4 t sym = .next { s with waking := true } := by
  refine (if_neg (SliceOk.taken h)).trans ((if_pos ha).trans ?_)
  rw [stir_eq, ha, Bool.or_true]

theorem tlpBar4_write {bs : List Byte} (h : s.SliceOk t) (ha : s.asleep = false) (hd : t.data = some bs) :
    s.tlpBar4 t sym = .next ((s.markUnplanned (t.fn - 1)).write ((s.slice (t.fn - 1)).1 + t.off) sym bs).1 := by
  refine (if_neg (SliceOk.taken h)).trans ((if_neg (by simp [ha])).trans ?_)
  rw [hd]

theorem tlpBar4_read {bs : List Byte} (h : s.SliceOk t) (ha : s.asleep = false) (hd : t.data = none)
    (hr : (s.markUnplanned (t.fn - 1)).read ((s.slice (t.fn - 1)).1 + t.off) t.len sym = (v, .ok bs)) :
    s.tlpBar4 t sym = .next (v.tlpData t bs) := by
  refine (if_neg (SliceOk.taken h)).trans ((if_neg (by simp [ha])).trans ?_)
  dsimp only
  rw [hd]
  dsimp only
  rw [hr]

theorem tlpRefuse_eq (s : State) (t : Tlp) : s.tlpRefuse t false =
    { s with tlpOut := s.tlpOut ++ (if t.data.isSome then [] else [⟨t.fn, none, false, false⟩]) } := by
  unfold State.tlpRefuse
  split
  · rw [List.append_nil]
  · rfl

/-! ## Management -/

theorem wake_awake (s : State) (cals : List (Cal × Cal)) : (s.wake cals).getF F.PWR_STATUS_STATE 0 = 0 := by
  rw [wake_def, (restartAll_rouses _ _ _).regs _ _ (by decide), State.roused, getF_setF_same _ (by decide)]
  rfl

theorem countDropped_keeps (s : State) (q n : Nat) : s.KeepsRegs (s.countDropped q n) [.VCB_ERR, .VCB_HOLD] :=
  (State.KeepsRegs.setF s q _ (by decide) (by decide)).trans (State.KeepsRegs.setF _ q _ (by decide) (by decide))

/-- The registers that a packet put on a port may change. -/
def putRegs : List Reg := .VCB_HOLD :: linkRegs

theorem openBranch_keeps (s : State) (k : Packet) (q : Nat) : s.KeepsRegs (s.openBranch k q 5).1 putRegs := by
  unfold State.openBranch
  split
  · exact (countDropped_keeps s q 1).mono (by decide)
  · exact (State.KeepsRegs.wakeBy s q k.part 5).mono (by decide)

theorem portPut_keeps (s : State) (q : Nat) {k : Packet} (hk : k.vc = 5) : s.KeepsRegs (s.portPut q k) putRegs := by
  have ho := openBranch_keeps s k q
  unfold State.portPut
  rw [hk]
  generalize s.openBranch k q 5 = o at ho
  obtain ⟨u, bs⟩ := o
  refine .ite ho (State.KeepsRegs.trans ?_ ((State.KeepsRegs.passOn _).mono (by decide)))
  exact ho

theorem mctpSend_state (s : State) (eid hops : Nat) (body : List Byte) :
    (s.mctpSend eid hops body).getF F.PWR_STATUS_STATE 0 = s.getF F.PWR_STATUS_STATE 0 := by
  have hl := (State.RingOp.logFree (s := s) 255 [eid]).regs F.PWR_STATUS_STATE 0 (by decide)
  unfold State.mctpSend
  split
  · exact hl
  · split
    · exact hl
    · exact portPut_keeps s _ rfl F.PWR_STATUS_STATE 0 (by decide)

/-- The answer to a request on a package that is awake. -/
def State.answered (s : State) (r : MgmtReq) : State :=
  match r with
  | .packet e body => if e = s.eid then { s with mctpIn := s.mctpIn ++ [body] } else s.mctpSend e 1 body
  | .setEid e => { s with eid := e % 256, mctpOut := s.mctpOut ++ [s.mgmtAnswer r] }
  | _ => { s with mctpOut := s.mctpOut ++ [s.mgmtAnswer r] }

theorem answered_state (s : State) (r : MgmtReq) : (s.answered r).getF F.PWR_STATUS_STATE 0 = s.getF F.PWR_STATUS_STATE 0 := by
  cases r with
  | packet e body =>
    unfold State.answered
    dsimp only
    split
    · rfl
    · exact mctpSend_state s e 1 body
  | _ => rfl

theorem answered_plain (hr : ∀ e b, r ≠ .packet e b) (s : State) : (s.answered r).mctpOut = s.mctpOut ++ [s.mgmtAnswer r] ∧
    (s.answered r).regs = s.regs ∧ (s.answered r).mem = s.mem ∧
    (s.answered r).eid = (match r with
      | .setEid e => e % 256
      | _ => s.eid) := by
  cases r with
  | packet e b => exact absurd rfl (hr e b)
  | _ => exact ⟨rfl, rfl, rfl, rfl⟩

theorem pldmRequest_exec (hc : cals.length ≤ 32) (hr : s.flag F.CTL_STATUS_READY 0 = true) (hq : s.boot.quiet = false)
    (hh : s.boot.held = false) : exec (.pldmRequest r cals) s = .next ((if s.asleep then s.wake cals else s).answered r) := by
  refine (if_neg (not_not.2 hc)).trans ((if_neg (by simp [hr, hq, hh])).trans ?_)
  generalize (if s.asleep = true then s.wake cals else s) = w
  cases r <;> rfl

/-! ## The UART -/

theorem uaChar_none {l : List Bool} (h : uaChar l = none) : uaBit l 0 = true := by
  unfold uaChar at h
  split at h
  · assumption
  · cases h

theorem uaChar_some {l : List Bool} {c : UChar} (h : uaChar l = some c) : uaBit l 0 = false ∧
    c.val = ((List.range 8).map (fun i => 2 ^ i * bit (uaBit l (i + 1)))).sum ∧
    c.ferr = (!uaBit l 9 || (uaFall l).any (fun k => decide (k < 9))) := by
  unfold uaChar at h
  split at h
  · cases h
  · next hb =>
    cases h
    exact ⟨Bool.not_eq_true _ ▸ hb, rfl, rfl⟩

theorem uaUsed_pos (l : List Bool) : 0 < uaUsed l := by
  unfold uaUsed
  split
  · omega
  · split <;> omega

/-- The majority of the three samples of bit `b`. -/
theorem uaBit_iff (l : List Bool) (b : Nat) : uaBit l b = true ↔
    2 ≤ bit (l.getD (16 * b + 6) true) + bit (l.getD (16 * b + 7) true) + bit (l.getD (16 * b + 8) true) := by
  rw [uaBit, decide_eq_true_iff]
  rfl

theorem uaBit_false (l : List Bool) (b : Nat) : uaBit l b = false ↔
    bit (l.getD (16 * b + 6) true) + bit (l.getD (16 * b + 7) true) + bit (l.getD (16 * b + 8) true) < 2 := by
  rw [← Bool.not_eq_true, uaBit_iff, Nat.not_le]

/-- A bit of the sum of powers of two. -/
theorem bitAt_sum (f : Nat → Bool) {i : Nat} (hi : i < 8) : bitAt ((List.range 8).map (fun i => 2 ^ i * bit (f i))).sum i = f i := by
  have h : ∀ g : Fin 8 → Bool, ∀ i : Fin 8, bitAt ((List.finRange 8).map (fun i => 2 ^ i.val * bit (g i))).sum i.val = g i := by decide +kernel
  have hg := h (fun i => f i.val) ⟨i, hi⟩
  have e : (List.range 8).map (fun i => 2 ^ i * bit (f i)) = (List.finRange 8).map (fun i => 2 ^ i.val * bit (f i.val)) := by
    simp [List.finRange_succ, List.range_succ]
  rw [e]
  exact hg

/-- Samples that fall short of a character wait. -/
theorem uartRun_short (s : State) (n : Nat) (h : s.uartLine.length < 160) :
    (s.uartRun n).uartRx = s.uartRx ∧ (s.uartRun n).regs = s.regs := by
  cases n with
  | zero => exact ⟨rfl, rfl⟩
  | succ n =>
    have hd : (s.uartLine.dropWhile id).length < 160 := lt_of_le_of_lt (List.length_dropWhile_le _ _) h
    rw [State.uartRun, if_pos hd]
    exact ⟨rfl, rfl⟩

/-- The receiver's samples, replaced. -/
def State.withLine (s : State) (l : List Bool) : State := { s with uartLine := l }

/-- The character that the samples of a line give, received. -/
def State.uartGot (s : State) (l : List Bool) : State :=
  match uaChar l with
  | some c => (s.withLine (l.drop (uaUsed l))).uartTake c
  | none => s.withLine (l.drop (uaUsed l))

theorem uartRun_full (s : State) (n : Nat) (hd : s.uartLine.dropWhile id = s.uartLine) (hl : s.uartLine.length = 160) :
    s.uartRun (n + 1) = (s.uartGot s.uartLine).uartRun n := by
  rw [State.uartRun]
  dsimp only
  rw [hd, if_neg (by omega)]
  rfl

theorem uartTake_line (s : State) (c : UChar) : (s.uartTake c).uartLine = s.uartLine := by
  unfold State.uartTake
  split
  · rfl
  · cases c.ferr <;> rfl

theorem uartGot_line (s : State) (l : List Bool) : (s.uartGot l).uartLine = l.drop (uaUsed l) := by
  unfold State.uartGot
  split
  · exact uartTake_line _ _
  · rfl

/-- A character that the FIFO has room for joins it. -/
theorem uartTake_room {c : UChar} (h : s.uartRx.length < 64) : (s.uartTake c).uartRx = s.uartRx ++ [c] ∧
    s.RegsBut (s.uartTake c) [(F.CTL_UARTSTAT_FRAMING, 0)] ∧
    (s.uartTake c).getF F.CTL_UARTSTAT_FRAMING 0 = satAdd F.CTL_UARTSTAT_FRAMING.w (s.getF F.CTL_UARTSTAT_FRAMING 0) (bit c.ferr) := by
  unfold State.uartTake
  rw [if_neg (by omega)]
  cases c.ferr with
  | true =>
    exact ⟨rfl, regsBut_setF s (f := F.CTL_UARTSTAT_FRAMING) (by decide), getF_addF_same (f := F.CTL_UARTSTAT_FRAMING) (by decide) 0 1⟩
  | false => exact ⟨rfl, regsBut_refl s _, (satAdd_zero (getF_lt s F.CTL_UARTSTAT_FRAMING 0)).symm⟩

theorem uartTake_full {c : UChar} (h : 64 ≤ s.uartRx.length) : s.uartTake c = s.addF F.CTL_UARTSTAT_OVERRUN 0 1 := if_pos h

theorem samples_start {w : BitVec 160} (h : bitAt w.toNat 0 = false) :
    ((List.range 160).map (bitAt w.toNat)).dropWhile id = (List.range 160).map (bitAt w.toNat) := by
  rw [List.range_succ_eq_map, List.map_cons, h]
  rfl

/-- Ten bit times of samples, from an idle receiver: what they give is received, and the rest waits. -/
theorem uartRxChar_exec {w : BitVec 160} (he : s.flag F.CTL_UART_RX_EN 0 = true) (hl : s.uartLine = []) (h0 : bitAt w.toNat 0 = false) :
    ∃ t, exec (.uartRxChar w) s = .next t ∧ t.uartRx = (s.console.uartGot ((List.range 160).map (bitAt w.toNat))).uartRx ∧
      t.regs = (s.console.uartGot ((List.range 160).map (bitAt w.toNat))).regs := by
  have hc : s.console.uartLine = [] := hl
  have hx : exec (.uartRxChar w) s = .next ((s.console.withLine (s.console.uartLine ++ (List.range 160).map (bitAt w.toNat))).uartRun 21) :=
    if_neg (by simp [he])
  rw [hc, List.nil_append] at hx
  have hlen : ((List.range 160).map (bitAt w.toNat)).length = 160 := by rw [List.length_map, List.length_range]
  have hdw := samples_start h0
  generalize (List.range 160).map (bitAt w.toNat) = l at hx hlen hdw
  have hgot : (s.console.withLine l).uartGot l = s.console.uartGot l := rfl
  have hr := uartRun_full (s.console.withLine l) 20 hdw hlen
  have hline := uartGot_line s.console l
  rw [show (s.console.withLine l).uartLine = l from rfl, hgot] at hr
  obtain ⟨h1, h2⟩ := uartRun_short (s.console.uartGot l) 20 (by
    rw [hline, List.length_drop]
    have := uaUsed_pos l
    omega)
  exact ⟨_, hx.trans (congrArg Host.Outcome.next hr), h1, h2⟩

theorem uartGot_some {l : List Bool} {c : UChar} (h : uaChar l = some c) (s : State) :
    s.uartGot l = (s.withLine (l.drop (uaUsed l))).uartTake c := by
  unfold State.uartGot
  rw [h]

theorem uartGot_none {l : List Bool} (h : uaChar l = none) (s : State) : s.uartGot l = s.withLine (l.drop (uaUsed l)) := by
  unfold State.uartGot
  rw [h]

theorem console_eq (s : State) :
    s.console = { s with free := s.console.free, uartRx := s.console.uartRx, uartTx := s.console.uartTx, uartOut := s.console.uartOut } := rfl

end Sys2Proof.Machine
end

section
/-! SUPPORT. What the host side does, settled. -/

namespace Sys2Proof.Machine

variable {s u v : State} {t : Tlp} {at' : Nat} {recs : List HostData} {sigOk : Bool} {sym : Syms}

theorem ctlDoorbell_off {fn : Nat} {w : Word64} (hf : fn ≤ 16) (h : s.stir.doorbellOff fn (bitsOf w.toNat 32 16) (bitAt w.toNat 63) = true) :
    ∃ t, exec (.ctlDoorbell fn w at' recs) s = .next t ∧ s.stir.Only t [(F.CTL_STATUS_DB_IGNORED, 0)] ∧
      t.getF F.CTL_STATUS_DB_IGNORED 0 = satAdd F.CTL_STATUS_DB_IGNORED.w (s.getF F.CTL_STATUS_DB_IGNORED 0) 1 := by
  refine ⟨_, (ctlDoorbell_exec hf w).trans (congrArg Host.Outcome.next (doorbell_off h)), only_addF _ (by decide) 0 1, ?_⟩
  rw [getF_addF_same (by decide), getF_stir]

theorem ctlDoorbell_bad {fn : Nat} {w : Word64} {c : State × Option (Nat × Nat)} (hf : fn ≤ 16)
    (h : s.stir.doorbellOff fn (bitsOf w.toNat 32 16) (bitAt w.toNat 63) = false) (hc : s.stir.counters (s.stir.ring (bitsOf w.toNat 32 16)) = c)
    (hb : c.2 = none ∨ ∃ head tail, c.2 = some (head, tail) ∧
      valueBad (c.1.ring (bitsOf w.toNat 32 16)).log2n head tail (bitsOf w.toNat 0 32) (bitAt w.toNat 63) = true) :
    ∃ t, exec (.ctlDoorbell fn w at' recs) s = .next t ∧ c.1.Only t [(F.CTL_STATUS_DB_IGNORED, 0)] ∧
      t.getF F.CTL_STATUS_DB_IGNORED 0 = satAdd F.CTL_STATUS_DB_IGNORED.w (c.1.getF F.CTL_STATUS_DB_IGNORED 0) 1 :=
  ⟨_, (ctlDoorbell_exec hf w).trans (congrArg Host.Outcome.next (doorbell_ignored h hc hb)), only_addF _ (by decide) 0 1,
    getF_addF_same (by decide) 0 1⟩

/-- A mode other than BOUNCE. -/
theorem notBounced {p : Nat} (h : s.getF F.SEC_PCTL_HMODE p = 0 ∨ s.getF F.SEC_PCTL_HMODE p = 1) : s.bounced p = false := by
  rcases h with h | h <;> rw [State.bounced, h] <;> rfl

theorem inboundTlp_ide (ht : t.Ok) (hh : s.boot.held = false) (hq : s.boot.quiet = false) (hp : s.portsOff = false) (h : s.offStream t) :
    ∃ u, exec (.inboundTlp t at' recs sigOk sym) s = .next u ∧
      u.getF F.SEC_PBBSTAT_SEQ_FAIL (t.fn - 1) = satAdd F.SEC_PBBSTAT_SEQ_FAIL.w (s.getF F.SEC_PBBSTAT_SEQ_FAIL (t.fn - 1)) 1 ∧
      s.RegsBut u [(F.SEC_PBBSTAT_SEQ_FAIL, t.fn - 1)] ∧ u.mem = s.mem ∧
      u.tlpOut = s.tlpOut ++ (if t.data.isSome then [] else [⟨t.fn, none, false, false⟩]) := by
  have ha : (s.addF F.SEC_PBBSTAT_SEQ_FAIL (t.fn - 1) 1).getF F.SEC_PBBSTAT_SEQ_FAIL (t.fn - 1) = _ := getF_addF_same (by decide) (t.fn - 1) 1
  refine ⟨_, inboundTlp_offStream ht hh hq hp h, ?_⟩
  rw [tlpRefuse_eq]
  exact ⟨ha, regsBut_setF s (f := F.SEC_PBBSTAT_SEQ_FAIL) (by decide), rfl, rfl⟩

/-- What Ranuat's own record does: nothing when its ID is not enabled, and else it goes to the PF's PEEP ring or is counted. -/
theorem ranuatPeep_spec (s : State) :
    (let u := s.takeFree.1
     let id := 768 + (Config.freeWord s.free).toNat % 256
     (bitAt (s.getF (peepFld id) (id / 4)) 0 = false → s.ranuatPeep = u) ∧
     (bitAt (s.getF (peepFld id) (id / 4)) 0 = true → (u.ringsOf 0 6).head? = none → s.ranuatPeep = u.addF F.CTL_PEEPDROP_RING 0 1) ∧
     (∀ i, bitAt (s.getF (peepFld id) (id / 4)) 0 = true → (u.ringsOf 0 6).head? = some i → (u.ring i).room ≠ 0 →
      ∃ v : Nat, s.ranuatPeep = u.ringPut i ((⟨id, 0xFFFF, 0, 0, s.now, v⟩ : PeepRec).bytes 0 0))) := by
  intro u id
  refine ⟨fun h => ?_, fun h hn => ?_, fun i h hi h0 => ⟨(Config.freeWord s.free).toNat, ?_⟩⟩
  · exact (ranuatPeep_def s).trans (if_pos (by rw [Bool.not_eq_true]; exact h))
  · exact ((ranuatPeep_def s).trans (if_neg (not_not.2 h))).trans (peepPut_none hn)
  · exact ((ranuatPeep_def s).trans (if_neg (not_not.2 h))).trans (peepPut_some hi h0)

theorem regsBut_congr {s' u' : State} {fs : List (Fld × Nat)} (hs : u.regs = s.regs) (hu : s'.regs = u'.regs) (h : u.RegsBut u' fs) :
    s.RegsBut s' fs := fun r i b hb => by
  have e := h r i b hb
  rw [State.rdReg, State.rdReg, hs, ← hu] at e
  exact e

theorem peepholeDeliver_own {core : Nat} (hc : core = 0xFFFF) (hp : s.pairStopped = false) :
    exec (.peepholeDeliver core) s = .next s.ranuatPeep :=
  (if_neg (not_not.2 (.inr hc))).trans ((if_neg (by simp [hp])).trans (if_pos hc))

/-- A received character. -/
theorem uartRxChar_some {w : BitVec 160} {c : UChar} (he : s.flag F.CTL_UART_RX_EN 0 = true) (hl : s.uartLine = []) (h0 : bitAt w.toNat 0 = false)
    (hc : uaChar ((List.range 160).map (bitAt w.toNat)) = some c) :
    ∃ t, exec (.uartRxChar w) s = .next t ∧
      (s.console.uartRx.length < 64 → t.uartRx = s.console.uartRx ++ [c] ∧ s.RegsBut t [(F.CTL_UARTSTAT_FRAMING, 0)] ∧
        t.getF F.CTL_UARTSTAT_FRAMING 0 = satAdd F.CTL_UARTSTAT_FRAMING.w (s.getF F.CTL_UARTSTAT_FRAMING 0) (bit c.ferr)) ∧
      (64 ≤ s.console.uartRx.length → t.uartRx = s.console.uartRx ∧ s.RegsBut t [(F.CTL_UARTSTAT_OVERRUN, 0)] ∧
        t.getF F.CTL_UARTSTAT_OVERRUN 0 = satAdd F.CTL_UARTSTAT_OVERRUN.w (s.getF F.CTL_UARTSTAT_OVERRUN 0) 1) := by
  obtain ⟨t, ht, h1, h2⟩ := uartRxChar_exec he hl h0
  rw [uartGot_some hc] at h1 h2
  generalize ((List.range 160).map (bitAt w.toNat)).drop (uaUsed ((List.range 160).map (bitAt w.toNat))) = l at h1 h2
  have hrx : (s.console.withLine l).uartRx = s.console.uartRx := rfl
  have hregs : (s.console.withLine l).regs = s.regs := rfl
  generalize s.console.withLine l = z at h1 h2 hrx hregs
  rw [← hrx]
  have hx : ∀ (f : Fld) (i : Nat), z.getF f i = s.getF f i := fun f i => State.KeepsRegs.of_regs hregs [] f i (List.not_mem_nil)
  have hbut : ∀ {fs : List (Fld × Nat)}, z.RegsBut (z.uartTake c) fs → s.RegsBut t fs := fun h => regsBut_congr hregs h2 h
  have hget : ∀ (f : Fld) (i : Nat), t.getF f i = (z.uartTake c).getF f i := fun f i => State.KeepsRegs.of_regs h2 [] f i (List.not_mem_nil)
  refine ⟨t, ht, fun hlen => ?_, fun hlen => ?_⟩
  · obtain ⟨e1, e2, e3⟩ := uartTake_room (c := c) hlen
    exact ⟨h1.trans e1, hbut e2, by rw [hget, e3, hx]⟩
  · have e := uartTake_full (c := c) hlen
    refine ⟨h1.trans (by rw [e]; rfl), hbut ?_, ?_⟩
    · rw [e]
      exact regsBut_setF z (f := F.CTL_UARTSTAT_OVERRUN) (by decide)
    · rw [hget, e, getF_addF_same (by decide), hx]

/-- Settles O58, clause by clause: a doorbell, a peephole record and a copy of the log come down to an entry of a ring, an access of a window to
one access of memory or registers, and samples of the line to one character. -/
theorem hostIsServed : Obligations.HostIsServed := by
  unfold Obligations.HostIsServed
  have hsz : ∀ {t : Tlp}, t.data = none → t.size = t.len := fun h => by rw [Tlp.size, h]
  refine ⟨?_, fun s k => counters_kept, ?_, ?_, ?_, ?_, ?_, ?_, ?_, ?_, ?_, ?_, ?_, ?_, ?_, ?_, ?_, ?_, ?_, ?_, ?_, ?_, ?_, ?_⟩
  · intro s fn at' w recs hf
    exact ⟨fun h => ctlDoorbell_off hf h, fun h hb => ctlDoorbell_bad hf h rfl hb,
      fun h head tail hs hv => (ctlDoorbell_exec hf w).trans (congrArg Host.Outcome.next (doorbell_taken h rfl hs hv))⟩
  · intro s u k bs hr
    refine ⟨fun h => ?_, fun h => ?_⟩
    · rw [counters_header (.inl h) hr, if_pos h]
    · rw [counters_header (.inr h) hr, if_neg (by omega)]
  · intro s k x head recs
    refine ⟨fun h => ⟨fun h7 => ?_, fun h7 => ?_⟩, fun h0 hb => ⟨fun u ht => newTail_refused h0 hb ht, fun u bs ht h7 => ?_⟩⟩
    · exact (newTail_plain h).trans (if_neg h7)
    · exact (newTail_plain h).trans (if_pos h7)
    · exact (newTail_records h0 hb ht).trans (if_neg h7)
  · exact fun s k x tail at' => ⟨newHead_simple, newHead_control, newHead_plan⟩
  · exact fun s u v k bs r' h0 hb ho hv => ringBounce_spec h0 hb ho hv
  · exact fun s core i r rest hc hp hr hi h0 => peepholeDeliver_puts hc hp hr hi h0
  · intro s core r rest hc hp hr hi
    exact ⟨_, peepholeDeliver_drops hc hp hr hi, peepTaken_peep s core rest, getF_addF_same (by decide) 0 1, rfl⟩
  · exact fun s core hc hp => (if_neg (not_not.2 hc)).trans (if_pos hp)
  · exact fun s hp => ⟨peepholeDeliver_own rfl hp, ranuatPeep_spec s⟩
  · refine fun s => ⟨rfl, fun hp => ?_, fun h => logCopy_none (by rw [h]; rfl), fun k hk hp hf ht => logCopy_spec hk hp hf ht⟩
    rcases hk : (s.ringsOf 0 5).head? with _ | k
    · exact logCopy_none hk
    · exact logCopy_stopped hk hp
  · intro s t at' recs sigOk sym hh hq h0 hb hd h1 h2 hlo hhi
    have ht : t.Ok := ⟨by omega, .inl hb, by rw [hsz hd]; exact h1, by rw [hsz hd]; exact h2⟩
    refine ⟨_, (inboundTlp_bar0 ht hh hq h0 hb).trans (tlpBar0_power h0 hd hlo hhi), rfl, ?_⟩
    rw [← h0]
    rfl
  · intro s t at' recs sigOk sym hh hq h1 h16 hp hb hs1 hs2 hm hi
    exact inboundTlp_ide ⟨h16, hb, hs1, hs2⟩ hh hq hp ⟨by omega, hm, by simp [hi]⟩
  · intro s t at' recs sigOk sym hh hq h1 h16 hb hs1 hs2 hp hm hx hfit hrun
    have hoff : ¬ s.offStream t := fun h => by
      rcases hm with hm | ⟨_, hi, hj⟩
      · rw [State.offStream, hm] at h
        exact absurd h.2.1 (by decide)
      · exact h.2.2 ⟨hi, hj⟩
    have hok : s.SliceOk t := ⟨by omega, hx, notBounced (hm.imp_right And.left), hfit⟩
    have he := fun r s' => inboundTlp_bar4 (at' := r) (recs := recs) (sigOk := s') (sym := sym) ⟨h16, .inr (.inr hb), hs1, hs2⟩ hh hq hp hb hoff
    exact ⟨fun bs hd => (he at' sigOk).trans (tlpBar4_write hok (awake hrun) hd),
      fun v bs hd hr => (he at' sigOk).trans (tlpBar4_read hok (awake hrun) hd hr)⟩
  · intro s r cals hc hr hq hh hst
    refine ⟨_, pldmRequest_exec hc hr hq hh, ?_⟩
    rw [answered_state, if_pos ((asleep_iff hq).2 hst), wake_awake]
  · intro s r cals hc hr hq hh hst hk
    have he := pldmRequest_exec (r := r) hc hr hq hh
    rw [if_neg (by rw [awake hst]; decide)] at he
    refine ⟨_, he, ?_⟩
    have ha := answered_plain hk s
    cases r <;> exact ha
  · intro s t at' recs sigOk sym hh hq h1 h16 hb hs1 hs2 hp hm hx hfit hst
    have hoff : ¬ s.offStream t := fun h => by
      rw [State.offStream, hm] at h
      exact absurd h.2.1 (by decide)
    exact (inboundTlp_bar4 ⟨h16, .inr (.inr hb), hs1, hs2⟩ hh hq hp hb hoff).trans
      (tlpBar4_asleep ⟨by omega, hx, notBounced (.inl hm), hfit⟩ ((asleep_iff hq).2 hst))
  · exact fun s w he => if_pos (by simp [he])
  · exact fun s w c he hl h0 hc => uartRxChar_some he hl h0 hc
  · intro s w he hl h0 hc
    obtain ⟨t, ht, h1, h2⟩ := uartRxChar_exec he hl h0
    rw [uartGot_none hc] at h1 h2
    exact ⟨t, ht, h1, h2⟩
  · exact fun line c h => (uaBit_false line 0).1 (uaChar_some h).1
  · intro line c i h hi
    rw [(uaChar_some h).2.1, bitAt_sum (fun i => uaBit line (i + 1)) hi, uaBit_iff]
    rw [show 16 * (i + 1) + 6 = 16 * i + 22 by omega, show 16 * (i + 1) + 7 = 16 * i + 23 by omega,
      show 16 * (i + 1) + 8 = 16 * i + 24 by omega]
  · intro line c h h9
    rw [(uaChar_some h).2.2, (uaBit_false line 9).2 h9]
    rfl
  · refine fun s => ⟨console_eq s, ⟨_, rfl⟩, ?_, ?_⟩
    · exact List.length_take_le _ _
    · rfl

end Sys2Proof.Machine
end

section
/-! SUPPORT. The choice of the rows of a step (R325): what each row takes, and what the chosen rows keep together. -/

namespace Sys2Proof.Machine

variable {s : State} {p i n fuel : Nat} {c : List Byte} {x y : Comp} {k : Pick} {l : List Nat} {r : Req} {target : Option Nat}

/-! ## Sorting by a key -/

theorem insKey_perm {α : Type} (key : α → Nat) (a : α) (l : List α) : (insKey key a l).Perm (a :: l) := by
  induction l with
  | nil => exact .refl _
  | cons b l ih =>
    unfold insKey
    split
    · exact .refl _
    · exact (ih.cons b).trans (.swap a b l)

theorem byKey_perm {α : Type} (key : α → Nat) (l : List α) : (byKey key l).Perm l := by
  induction l with
  | nil => exact .refl _
  | cons a l ih => exact (insKey_perm key a _).trans (ih.cons a)

theorem mem_reqsIn {states : List Nat} {key : Req → Nat} :
    i ∈ s.reqsIn p states key ↔ i ∈ s.reqIds p ∧ (s.req i).state ∈ states := by
  rw [State.reqsIn, (byKey_perm _ _).mem_iff, List.mem_filter, List.contains_iff_mem]

theorem reqIds_nodup (h : (s.reqs.map (·.1)).Nodup) : (s.reqIds p).Nodup :=
  h.sublist (List.filter_sublist.map _)

theorem reqsIn_nodup (h : (s.reqs.map (·.1)).Nodup) (states : List Nat) (key : Req → Nat) : (s.reqsIn p states key).Nodup :=
  (byKey_perm _ _).nodup_iff.2 ((reqIds_nodup h).filter _)

/-! ## Pages -/

/-- A page of the pools of a configuration. -/
def InPool (c : List Byte) (g : Nat) : Prop := g < scHbm c ∨ scCelFirst c ≤ g ∧ g < scCelFirst c + scCel c

theorem findPage_spec {used : List Nat} {g : Nat} (h : findPage c used = some g) : g ∉ used ∧ InPool c g := by
  unfold findPage at h
  split at h
  · have hp := List.find?_some h
    have hm := List.mem_range.1 (List.mem_of_find?_eq_some h)
    exact ⟨by simpa using hp, .inl hm⟩
  · obtain ⟨j, hj, rfl⟩ := Option.map_eq_some_iff.1 h
    have hp := List.find?_some hj
    have hm := List.mem_range.1 (List.mem_of_find?_eq_some hj)
    exact ⟨by simpa using hp, .inr ⟨by omega, by omega⟩⟩

theorem findPages_length (c : List Byte) (used : List Nat) (n : Nat) : (findPages c used n).length ≤ n := by
  induction n generalizing used with
  | zero => exact Nat.le_refl 0
  | succ n ih =>
    unfold findPages
    split
    · exact Nat.zero_le _
    · exact Nat.succ_le_succ (ih _)

theorem findPages_spec (c : List Byte) (used : List Nat) (n : Nat) :
    (findPages c used n).Nodup ∧ ∀ g ∈ findPages c used n, g ∉ used ∧ InPool c g := by
  induction n generalizing used with
  | zero => exact ⟨.nil, fun g h => nomatch h⟩
  | succ n ih =>
    unfold findPages
    split
    · exact ⟨.nil, fun g h => nomatch h⟩
    · next g hg =>
      obtain ⟨h1, h2⟩ := ih (g :: used)
      refine ⟨List.nodup_cons.2 ⟨fun h => (h2 g h).1 List.mem_cons_self, h1⟩, fun a ha => ?_⟩
      rcases List.mem_cons.1 ha with rfl | ha
      · exact findPage_spec hg
      · exact ⟨fun h => (h2 a ha).1 (List.mem_cons_of_mem _ h), (h2 a ha).2⟩

/-! ## What chosen rows keep together -/

/-- The pages that rows take are distinct, free and in the pools. -/
structure State.PagesOk (s : State) (p : Nat) (c : List Byte) (l : List Pick) : Prop where
  nodup : (l.flatMap (·.new)).Nodup
  free : ∀ g ∈ l.flatMap (·.new), g ∉ s.usedPages p ∧ InPool c g

/-- What rows charge to a customer entry. -/
def State.charge (s : State) (p : Nat) (l : List Pick) (a : Nat) : Nat :=
  ((l.filter (fun k => k.row.charged && s.custAt p (s.req k.ent).customer == a)).map (·.row.tokens)).sum

theorem PagesOk.perm {l m : List Pick} (h : s.PagesOk p c l) (hm : m.Perm l) : s.PagesOk p c m :=
  ⟨(hm.flatMap_right _).nodup_iff.2 h.nodup, fun g hg => h.free g ((hm.flatMap_right _).mem_iff.1 hg)⟩

theorem flatMap_sublist {α β : Type} {l m : List α} (h : m.Sublist l) (f : α → List β) : (m.flatMap f).Sublist (l.flatMap f) := by
  induction h with
  | slnil => exact .slnil
  | cons a _ ih =>
    rw [List.flatMap_cons]
    exact ih.trans (List.sublist_append_right _ _)
  | cons_cons a _ ih =>
    rw [List.flatMap_cons, List.flatMap_cons]
    exact ih.append_left _

theorem PagesOk.sublist {l m : List Pick} (h : s.PagesOk p c l) (hm : m.Sublist l) : s.PagesOk p c m :=
  ⟨h.nodup.sublist (flatMap_sublist hm _), fun g hg => h.free g ((flatMap_sublist hm _).subset hg)⟩

theorem PagesOk.snoc {l : List Pick} (h : s.PagesOk p c l) (hk : k.new = findPages c (s.usedPages p ++ l.flatMap (·.new)) n) :
    s.PagesOk p c (l ++ [k]) := by
  obtain ⟨h1, h2⟩ := findPages_spec c (s.usedPages p ++ l.flatMap (·.new)) n
  rw [← hk] at h1 h2
  have he : (l ++ [k]).flatMap (·.new) = l.flatMap (·.new) ++ k.new := by simp
  refine ⟨?_, fun g hg => ?_⟩
  · rw [he]
    refine List.nodup_append'.2 ⟨h.nodup, h1, fun g hg hk => (h2 g hk).1 (List.mem_append_right _ hg)⟩
  · rw [he] at hg
    rcases List.mem_append.1 hg with hg | hg
    · exact h.free g hg
    · exact ⟨fun hu => (h2 g hg).1 (List.mem_append_left _ hu), (h2 g hg).2⟩

theorem charge_perm {l m : List Pick} (h : m.Perm l) (a : Nat) : s.charge p m a = s.charge p l a :=
  ((h.filter _).map _).sum_eq

theorem charge_sublist {l m : List Pick} (h : m.Sublist l) (a : Nat) : s.charge p m a ≤ s.charge p l a :=
  ((h.filter _).map _).sum_le_sum (fun _ _ => Nat.zero_le _)

theorem charge_snoc (l : List Pick) (a : Nat) : s.charge p (l ++ [k]) a =
    s.charge p l a + if k.row.charged && s.custAt p (s.req k.ent).customer == a then k.row.tokens else 0 := by
  rw [State.charge, State.charge, List.filter_append, List.map_append, List.sum_append, List.filter_singleton]
  split <;> simp [*]

/-- No customer is charged above its level. -/
def State.LevelOk (s : State) (p : Nat) (l : List Pick) : Prop := ∀ a, 256 * s.charge p l a ≤ (s.cust a).level

theorem levelOf_eq (s : State) (p : Nat) (x : Comp) (r : Req) :
    s.levelOf p x r = (s.cust (s.custAt p r.customer)).level - 256 * s.charge p x.picks (s.custAt p r.customer) := rfl

theorem LevelOk.snoc {l : List Pick} (h : s.LevelOk p l) (hk : k.row.charged = true → 256 * k.row.tokens ≤
    (s.cust (s.custAt p (s.req k.ent).customer)).level - 256 * s.charge p l (s.custAt p (s.req k.ent).customer)) : s.LevelOk p (l ++ [k]) := by
  intro a
  have ha := h a
  rw [charge_snoc]
  split
  · next hc =>
    obtain ⟨hc, he⟩ := Bool.and_eq_true_iff.1 hc
    rw [beq_iff_eq] at he
    have := hk hc
    rw [he] at this
    omega
  · exact ha

/-! ## Decode rows -/

/-- The counters of a composition may differ; its rows agree. -/
def Comp.SamePicks (x y : Comp) : Prop := y.dec = x.dec ∧ y.pre = x.pre

theorem Comp.SamePicks.picks (h : x.SamePicks y) : y.picks = x.picks := by rw [Comp.picks, Comp.picks, h.1, h.2]

/-- A decode row of a request, as Ranuat may choose it beside the rows of `x`. -/
structure State.Decodes (s : State) (p : Nat) (c : List Byte) (x : Comp) (i : Nat) (k : Pick) : Prop where
  lanes : x.dec.length < scLanes c
  adapter : s.adapterReady (scPlan c) (s.req i) = true
  level : 256 ≤ s.levelOf p x (s.req i)
  room : s.roomFor' p x (s.req i) = true
  ent : k.ent = i
  row : k.row = ⟨i, (s.req i).lane, 1, (s.req i).pos, 1, true, true⟩
  pages : k.new = findPages c (s.usedWith p x) (pagesFor ((s.req i).pos + 1) - (s.req i).pages.length)
  count : k.new.length = pagesFor ((s.req i).pos + 1) - (s.req i).pages.length

theorem tryDecode_cases (s : State) (p : Nat) (c : List Byte) (x : Comp) (i : Nat) :
    (x.SamePicks (s.tryDecode p c x i)) ∨ ∃ k, s.Decodes p c x i k ∧ s.tryDecode p c x i = { x with dec := x.dec ++ [k] } := by
  unfold State.tryDecode
  dsimp only
  split
  · exact .inl ⟨rfl, rfl⟩
  next h1 =>
  split
  · exact .inl ⟨rfl, rfl⟩
  next h2 =>
  split
  · exact .inl ⟨rfl, rfl⟩
  next h3 =>
  split
  · exact .inl ⟨rfl, rfl⟩
  next h4 =>
  rw [not_or, not_not, Nat.not_le] at h1
  exact .inr ⟨_, ⟨h1.1, h1.2, Nat.not_lt.1 h2, not_not.1 h4, rfl, rfl, rfl,
    Nat.le_antisymm (findPages_length ..) (Nat.not_lt.1 h3)⟩, rfl⟩

/-! ## Prefill rows -/

/-- The tokens of a chunk before the target is met. -/
def State.chunkSize (s : State) (p : Nat) (c : List Byte) (x : Comp) (r : Req) : Nat :=
  let left := r.prefillEnd - r.pos
  let n := min left (min (scChunkMax c - (x.pre.map (·.row.tokens)).sum) (if r.redo = 0 then s.levelOf p x r / 256 else left))
  if n < left then n / 128 * 128 else n

theorem whole_le (left n : Nat) : (if n < left then n / 128 * 128 else n) ≤ n := by
  split
  · exact Nat.div_mul_le_self n 128
  · exact Nat.le_refl n

theorem chunkSize_le (s : State) (p : Nat) (c : List Byte) (x : Comp) (r : Req) :
    s.chunkSize p c x r ≤ r.prefillEnd - r.pos ∧ s.chunkSize p c x r ≤ scChunkMax c - (x.pre.map (·.row.tokens)).sum ∧
      (r.redo = 0 → s.chunkSize p c x r ≤ s.levelOf p x r / 256) := by
  have h : s.chunkSize p c x r ≤ min (r.prefillEnd - r.pos) (min (scChunkMax c - (x.pre.map (·.row.tokens)).sum)
      (if r.redo = 0 then s.levelOf p x r / 256 else r.prefillEnd - r.pos)) := whole_le ..
  refine ⟨by omega, by omega, fun h0 => ?_⟩
  rw [if_pos h0] at h
  omega

/-- The cost of a chunk on the pages it would take. -/
def chunkOn (c : List Byte) (r : Req) (used : List Nat) (n : Nat) : Cost :=
  chunkCost c r (findPages c used (pagesFor (r.pos + n) - r.pages.length)) n

theorem shrink_le (used : List Nat) (x : Comp) (n fuel : Nat) : shrink c r used target x n fuel ≤ n := by
  induction fuel generalizing n with
  | zero => exact Nat.le_refl n
  | succ fuel ih =>
    unfold shrink
    split
    · exact Nat.zero_le n
    · split
      · exact (ih _).trans (Nat.sub_le n 128)
      · exact Nat.le_refl n

/-- A chunk shrinks to nothing or to one that fits the target. -/
theorem shrink_fits (used : List Nat) (x : Comp) {n fuel : Nat} (hn : n < 128 * fuel) :
    shrink c r used target x n fuel = 0 ∨
      overTarget c target (Cost.add (costOf x.picks) (chunkOn c r used (shrink c r used target x n fuel))) = false := by
  induction fuel generalizing n with
  | zero => omega
  | succ fuel ih =>
    rw [shrink]
    by_cases h0 : n = 0
    · rw [if_pos h0]
      exact .inl rfl
    · rw [if_neg h0]
      split
      · by_cases hl : n < 128
        · have hz : n - 128 = 0 := by omega
          rw [hz]
          exact .inl (Nat.le_zero.1 (shrink_le used x 0 fuel))
        · exact ih (by omega)
      · next h => exact .inr (Bool.not_eq_true _ ▸ h)

/-- A prefill row of a request, as Ranuat may choose it beside the rows of `x`. -/
structure State.Prefills (s : State) (p : Nat) (c : List Byte) (target : Option Nat) (x : Comp) (i : Nat) (k : Pick) : Prop where
  chunks : x.pre.length < scPchunks c
  adapter : s.adapterReady (scPlan c) (s.req i) = true
  ent : k.ent = i
  rowEnt : k.row.ent = i
  kind : k.row.kind = 2
  pos : k.row.pos = (s.req i).pos
  some : 0 < k.row.tokens
  size : k.row.tokens ≤ s.chunkSize p c x (s.req i)
  charged : k.row.charged = decide ((s.req i).redo = 0)
  sample : k.row.sample = true ↔ (s.req i).redo = 0 ∧ k.row.pos + k.row.tokens = (s.req i).promptLen
  room : k.row.sample = true → s.roomFor' p x (s.req i) = true
  pages : k.new = findPages c (s.usedWith p x) (pagesFor (k.row.pos + k.row.tokens) - (s.req i).pages.length)
  count : k.new.length = pagesFor (k.row.pos + k.row.tokens) - (s.req i).pages.length
  fits : overTarget c target (Cost.add (costOf x.picks) k.cost) = false

/-- The row of a chunk of `n` tokens. -/
def State.chunkPick (s : State) (p : Nat) (c : List Byte) (x : Comp) (i lane n : Nat) : Pick :=
  let r := s.req i
  ⟨i, r.prio, ⟨i, lane, 2, r.pos, n, r.redo == 0 && r.pos + n == r.promptLen, r.redo == 0⟩,
    findPages c (s.usedWith p x) (pagesFor (r.pos + n) - r.pages.length), chunkOn c r (s.usedWith p x) n⟩

/-- The lane of a request: the one it holds, or the lowest free one. -/
def State.chunkLane (s : State) (p : Nat) (c : List Byte) (x : Comp) (r : Req) : Option Nat :=
  if r.lane ≠ 0xFFFF then some r.lane else s.freeLane p c x

/-- The tokens of the row that a request is given. -/
def State.chunkTokens (s : State) (p : Nat) (c : List Byte) (target : Option Nat) (x : Comp) (r : Req) : Nat :=
  shrink c r (s.usedWith p x) target x (s.chunkSize p c x r) (s.chunkSize p c x r / 128 + 1)

/-- A request that its customer's level holds back is counted. -/
def State.chunkNote (s : State) (p : Nat) (x : Comp) (r : Req) : Comp :=
  let budget := if r.redo = 0 then s.levelOf p x r / 256 else r.prefillEnd - r.pos
  if budget < r.prefillEnd - r.pos ∧ budget < 128 then { x with bucket := x.bucket + 1 } else x

theorem chunkNote_same (s : State) (p : Nat) (x : Comp) (r : Req) : x.SamePicks (s.chunkNote p x r) := by
  unfold State.chunkNote
  generalize (if r.redo = 0 then s.levelOf p x r / 256 else r.prefillEnd - r.pos) = b
  dsimp only
  split
  · exact ⟨rfl, rfl⟩
  · exact ⟨rfl, rfl⟩

/-- What becomes of a request that has a lane. -/
def State.chunkStep (s : State) (p : Nat) (c : List Byte) (target : Option Nat) (i lane : Nat) (t : List Nat) (x y : Comp) (n : Nat) : Comp :=
  let k := s.chunkPick p c x i lane n
  if n = 0 then y
  else if k.new.length < pagesFor ((s.req i).pos + n) - (s.req i).pages.length then { y with wantPages := true }
  else if k.row.sample = true ∧ ¬ s.roomFor' p y (s.req i) = true then s.tryPrefill p c target t { y with ring := y.ring + 1 }
  else s.tryPrefill p c target t { y with pre := y.pre ++ [k] }

theorem tryPrefill_cons (s : State) (p : Nat) (c : List Byte) (target : Option Nat) (i : Nat) (t : List Nat) (x : Comp) :
    s.tryPrefill p c target (i :: t) x =
      if scPchunks c ≤ x.pre.length then x
      else if x.level.any (fun l => decide (l ≤ (s.req i).prio)) = true ∨ ¬ s.adapterReady (scPlan c) (s.req i) = true then s.tryPrefill p c target t x
      else match s.chunkLane p c x (s.req i) with
        | none => s.tryPrefill p c target t x
        | some lane => s.chunkStep p c target i lane t x (s.chunkNote p x (s.req i)) (s.chunkTokens p c target x (s.req i)) := rfl

theorem chunkPick_prefills {lane : Nat} (h1 : x.pre.length < scPchunks c) (h2 : s.adapterReady (scPlan c) (s.req i) = true)
    (hn : s.chunkTokens p c target x (s.req i) = n) (h0 : n ≠ 0)
    (hl : ¬ (s.chunkPick p c x i lane n).new.length < pagesFor ((s.req i).pos + n) - (s.req i).pages.length)
    (hs : ¬ ((s.chunkPick p c x i lane n).row.sample = true ∧ ¬ s.roomFor' p x (s.req i) = true)) :
    s.Prefills p c target x i (s.chunkPick p c x i lane n) := by
  have hfit := shrink_fits (c := c) (r := s.req i) (target := target) (s.usedWith p x) x
    (n := s.chunkSize p c x (s.req i)) (fuel := s.chunkSize p c x (s.req i) / 128 + 1) (by omega)
  have hle : s.chunkTokens p c target x (s.req i) ≤ s.chunkSize p c x (s.req i) := shrink_le ..
  rw [← State.chunkTokens, hn] at hfit
  rw [hn] at hle
  exact {
    chunks := h1
    adapter := h2
    ent := rfl
    rowEnt := rfl
    kind := rfl
    pos := rfl
    some := Nat.pos_of_ne_zero h0
    size := hle
    charged := rfl
    sample := by simp [State.chunkPick]
    room := fun h => not_not.1 fun hr => hs ⟨h, hr⟩
    pages := rfl
    count := Nat.le_antisymm (findPages_length ..) (Nat.not_lt.1 hl)
    fits := hfit.resolve_left h0 }

/-- A request gets no row and ends the choice, gets none and the choice goes on, or gets one. -/
theorem tryPrefill_cases (s : State) (p : Nat) (c : List Byte) (target : Option Nat) (i : Nat) (t : List Nat) (x : Comp) :
    ∃ y, x.SamePicks y ∧ (s.tryPrefill p c target (i :: t) x = y ∨ s.tryPrefill p c target (i :: t) x = s.tryPrefill p c target t y ∨
      ∃ k, s.Prefills p c target x i k ∧ s.tryPrefill p c target (i :: t) x = s.tryPrefill p c target t { y with pre := y.pre ++ [k] }) := by
  rw [tryPrefill_cons]
  by_cases h1 : scPchunks c ≤ x.pre.length
  · rw [if_pos h1]
    exact ⟨x, ⟨rfl, rfl⟩, .inl rfl⟩
  rw [if_neg h1]
  by_cases h2 : x.level.any (fun l => decide (l ≤ (s.req i).prio)) = true ∨ ¬ s.adapterReady (scPlan c) (s.req i) = true
  · rw [if_pos h2]
    exact ⟨x, ⟨rfl, rfl⟩, .inr (.inl rfl)⟩
  rw [if_neg h2]
  rw [not_or, not_not] at h2
  rcases s.chunkLane p c x (s.req i) with _ | lane
  · exact ⟨x, ⟨rfl, rfl⟩, .inr (.inl rfl)⟩
  dsimp only
  have hxy := chunkNote_same s p x (s.req i)
  generalize s.chunkNote p x (s.req i) = y at hxy
  generalize hn : s.chunkTokens p c target x (s.req i) = n
  have hroom : s.roomFor' p y (s.req i) = s.roomFor' p x (s.req i) := by
    rw [State.roomFor', State.roomFor', hxy.picks]
  unfold State.chunkStep
  dsimp only
  rw [hroom]
  by_cases h3 : n = 0
  · rw [if_pos h3]
    exact ⟨y, hxy, .inl rfl⟩
  rw [if_neg h3]
  by_cases h4 : (s.chunkPick p c x i lane n).new.length < pagesFor ((s.req i).pos + n) - (s.req i).pages.length
  · rw [if_pos h4]
    exact ⟨{ y with wantPages := true }, ⟨hxy.1, hxy.2⟩, .inl rfl⟩
  rw [if_neg h4]
  by_cases h5 : (s.chunkPick p c x i lane n).row.sample = true ∧ ¬ s.roomFor' p x (s.req i) = true
  · rw [if_pos h5]
    exact ⟨{ y with ring := y.ring + 1 }, ⟨hxy.1, hxy.2⟩, .inr (.inl rfl)⟩
  rw [if_neg h5]
  exact ⟨y, hxy, .inr (.inr ⟨_, chunkPick_prefills (Nat.not_le.1 h1) h2.2 hn h3 h4 h5, rfl⟩)⟩

end Sys2Proof.Machine
end

section
/-! SUPPORT. The chosen rows (R325): the invariants of the choice, from its first decode row to its last prefill row. -/

namespace Sys2Proof.Machine

variable {s : State} {p i n fuel : Nat} {c : List Byte} {x y : Comp} {k : Pick} {l t : List Nat} {target : Option Nat}

/-! ## Rows that stand in a composition -/

/-- A row that Ranuat may have chosen: its ring, its adapter and its pages. -/
structure State.RowOk (s : State) (p : Nat) (c : List Byte) (k : Pick) : Prop where
  ring : k.row.sample = true → s.isCq p (s.req k.ent).cring = true
  adapter : (s.req k.ent).adapter ≠ 0 → (s.adapterSlot (scPlan c) (s.req k.ent).adapter).isSome = true
  pages : k.new.length = pagesFor (k.row.pos + k.row.tokens) - (s.req k.ent).pages.length

/-- A decode row. -/
structure State.DecodeOk (s : State) (p : Nat) (c : List Byte) (k : Pick) : Prop where
  ok : s.RowOk p c k
  row : k.row = ⟨k.ent, (s.req k.ent).lane, 1, (s.req k.ent).pos, 1, true, true⟩

/-- A prefill row. -/
structure State.PrefillOk (s : State) (p : Nat) (c : List Byte) (k : Pick) : Prop where
  ok : s.RowOk p c k
  ent : k.row.ent = k.ent
  kind : k.row.kind = 2
  pos : k.row.pos = (s.req k.ent).pos
  some : 0 < k.row.tokens
  fits : k.row.pos + k.row.tokens ≤ (s.req k.ent).prefillEnd
  charged : k.row.charged = decide ((s.req k.ent).redo = 0)
  sample : k.row.sample = true ↔ (s.req k.ent).redo = 0 ∧ k.row.pos + k.row.tokens = (s.req k.ent).promptLen

/-- What holds of a composition at every point of the choice. -/
structure State.CompOk (s : State) (p : Nat) (c : List Byte) (x : Comp) : Prop where
  dec : ∀ k ∈ x.dec, s.DecodeOk p c k
  pre : ∀ k ∈ x.pre, s.PrefillOk p c k
  lanes : x.dec.length ≤ scLanes c
  chunks : x.pre.length ≤ scPchunks c
  tokens : (x.pre.map (·.row.tokens)).sum ≤ scChunkMax c
  pages : s.PagesOk p c x.picks
  level : s.LevelOk p x.picks

theorem roomFor_isCq {r : Req} (h : s.roomFor' p x r = true) : s.isCq p r.cring = true := (Bool.and_eq_true_iff.1 h).1

theorem adapterReady_slot {r : Req} (h : s.adapterReady n r = true) (ha : r.adapter ≠ 0) : (s.adapterSlot n r.adapter).isSome = true := by
  rw [State.adapterReady, Bool.or_eq_true, beq_iff_eq] at h
  exact h.resolve_left ha

theorem Decodes.ok (h : s.Decodes p c x i k) : s.DecodeOk p c k := by
  obtain rfl := h.ent
  refine ⟨⟨fun _ => roomFor_isCq h.room, adapterReady_slot h.adapter, ?_⟩, h.row⟩
  rw [h.count, h.row]

theorem Prefills.ok (h : s.Prefills p c target x i k) : s.PrefillOk p c k := by
  obtain rfl := h.ent
  have hs := (chunkSize_le s p c x (s.req k.ent)).1
  have hp := h.pos
  have h1 := h.size
  have h2 := h.some
  exact {
    ok := ⟨fun hr => roomFor_isCq (h.room hr), adapterReady_slot h.adapter, h.count⟩
    ent := h.rowEnt
    kind := h.kind
    pos := hp
    some := h2
    fits := by omega
    charged := h.charged
    sample := h.sample }

theorem CompOk.same (h : s.CompOk p c x) (hxy : x.SamePicks y) : s.CompOk p c y := by
  obtain ⟨h1, h2⟩ := hxy
  have hp : y.picks = x.picks := by rw [Comp.picks, Comp.picks, h1, h2]
  exact {
    dec := h1 ▸ h.dec
    pre := h2 ▸ h.pre
    lanes := h1 ▸ h.lanes
    chunks := h2 ▸ h.chunks
    tokens := h2 ▸ h.tokens
    pages := hp ▸ h.pages
    level := hp ▸ h.level }

theorem picks_dec_perm (x : Comp) (k : Pick) : ({ x with dec := x.dec ++ [k] } : Comp).picks.Perm (x.picks ++ [k]) := by
  rw [Comp.picks, Comp.picks, List.append_assoc, List.append_assoc]
  exact (List.perm_append_comm).append_left _

theorem CompOk.decode (h : s.CompOk p c x) (hk : s.Decodes p c x i k) : s.CompOk p c { x with dec := x.dec ++ [k] } := by
  have hd := Decodes.ok hk
  have hperm := picks_dec_perm x k
  have hl := hk.level
  rw [levelOf_eq, ← hk.ent] at hl
  refine {
    dec := fun a ha => ?_
    pre := h.pre
    lanes := ?_
    chunks := h.chunks
    tokens := h.tokens
    pages := PagesOk.perm (PagesOk.snoc h.pages hk.pages) hperm
    level := fun a => ?_ }
  · rcases List.mem_append.1 ha with ha | ha
    · exact h.dec a ha
    · rw [List.mem_singleton.1 ha]
      exact hd
  · rw [List.length_append]
    exact hk.lanes
  · rw [charge_perm hperm]
    refine LevelOk.snoc h.level (fun _ => ?_) a
    rw [hk.row]
    exact hl

theorem CompOk.prefill (h : s.CompOk p c x) (hk : s.Prefills p c target x i k) : s.CompOk p c { x with pre := x.pre ++ [k] } := by
  have hd := Prefills.ok hk
  have hpicks : ({ x with pre := x.pre ++ [k] } : Comp).picks = x.picks ++ [k] := (List.append_assoc ..).symm
  have h1 := hk.size
  obtain ⟨-, h2, h3⟩ := chunkSize_le s p c x (s.req i)
  refine {
    dec := h.dec
    pre := fun a ha => ?_
    lanes := h.lanes
    chunks := ?_
    tokens := ?_
    pages := ?_
    level := ?_ }
  · rcases List.mem_append.1 ha with ha | ha
    · exact h.pre a ha
    · rw [List.mem_singleton.1 ha]
      exact hd
  · rw [List.length_append]
    exact hk.chunks
  · have := h.tokens
    rw [List.map_append, List.sum_append, List.map_singleton, List.sum_singleton]
    omega
  · rw [hpicks]
    exact PagesOk.snoc h.pages hk.pages
  · rw [hpicks]
    refine LevelOk.snoc h.level fun hc => ?_
    rw [hk.charged, decide_eq_true_iff] at hc
    have h4 := h3 hc
    rw [levelOf_eq] at h4
    rw [hk.ent]
    omega

theorem CompOk.sub (h : s.CompOk p c x) (hd : y.dec.Sublist x.dec) (hp : y.pre = x.pre) : s.CompOk p c y := by
  have hs : y.picks.Sublist x.picks := by
    rw [Comp.picks, Comp.picks, hp]
    exact hd.append_right _
  exact {
    dec := fun k hk => h.dec k (hd.subset hk)
    pre := hp ▸ h.pre
    lanes := hd.length_le.trans h.lanes
    chunks := hp ▸ h.chunks
    tokens := hp ▸ h.tokens
    pages := PagesOk.sublist h.pages hs
    level := fun a => (Nat.mul_le_mul_left _ (charge_sublist hs a)).trans (h.level a) }

/-! ## The decode rows -/

theorem tryDecodes_ok (l : List Nat) (h : s.CompOk p c x) : s.CompOk p c (l.foldl (s.tryDecode p c) x) := by
  induction l generalizing x with
  | nil => exact h
  | cons i l ih =>
    refine ih ?_
    rcases tryDecode_cases s p c x i with hs | ⟨k, hk, e⟩
    · exact CompOk.same h hs
    · rw [e]
      exact CompOk.decode h hk

theorem tryDecodes_ents (l : List Nat) (x : Comp) : (l.foldl (s.tryDecode p c) x).pre = x.pre ∧
    ((l.foldl (s.tryDecode p c) x).dec.map (·.ent)).Sublist (x.dec.map (·.ent) ++ l) := by
  induction l generalizing x with
  | nil => exact ⟨rfl, by rw [List.append_nil]; exact .refl _⟩
  | cons i l ih =>
    obtain ⟨h1, h2⟩ := ih (s.tryDecode p c x i)
    rcases tryDecode_cases s p c x i with hs | ⟨k, hk, e⟩
    · refine ⟨h1.trans hs.2, h2.trans ?_⟩
      rw [hs.1]
      exact (List.sublist_cons_self i l).append_left _
    · rw [e] at h1 h2
      refine ⟨by rw [List.foldl_cons, e]; exact h1, ?_⟩
      rw [List.foldl_cons, e]
      simpa [hk.ent] using h2

theorem worst_mem {l : List Pick} (h : worst l = some k) : k ∈ l := by
  induction l generalizing k with
  | nil => cases h
  | cons a l ih =>
    rw [worst] at h
    rcases hw : worst l with _ | b
    · rw [hw] at h
      cases h
      exact List.mem_cons_self
    · rw [hw] at h
      dsimp only at h
      split at h
      · cases h
        exact List.mem_cons_of_mem _ (ih hw)
      · cases h
        exact List.mem_cons_self

theorem worst_none {l : List Pick} (h : worst l = none) : l = [] := by
  cases l with
  | nil => rfl
  | cons a l =>
    rw [worst] at h
    rcases hw : worst l with _ | b
    · rw [hw] at h
      cases h
    · rw [hw] at h
      dsimp only at h
      split at h <;> cases h

theorem pause_spec (s : State) (p : Nat) (c : List Byte) (x : Comp) (n : Nat) (hn : x.dec.length ≤ n) :
    (s.pause p c x n).dec.Sublist x.dec ∧ (s.pause p c x n).pre = x.pre ∧
      ¬ (overTarget c (s.targetOf p (s.pause p c x n).dec) (costOf (s.pause p c x n).dec) = true ∧
        (s.pause p c x n).dec.any (fun a => (s.pause p c x n).dec.any (fun b => a.prio != b.prio)) = true) := by
  induction n generalizing x with
  | zero =>
    have h0 : x.dec = [] := List.length_eq_zero_iff.1 (Nat.le_zero.1 hn)
    refine ⟨.refl _, rfl, fun h => ?_⟩
    rw [State.pause, h0] at h
    exact absurd h.2 (by simp)
  | succ n ih =>
    rw [State.pause]
    split
    · rcases hw : worst x.dec with _ | k
      · refine ⟨.refl _, rfl, fun h => ?_⟩
        rw [worst_none hw] at h
        exact absurd h.2 (by simp)
      · have hl := List.length_erase_of_mem (worst_mem hw)
        have hpos := List.length_pos_of_mem (worst_mem hw)
        obtain ⟨h1, h2, h3⟩ := ih { x with dec := x.dec.erase k, paused := k.ent :: x.paused, level := some k.prio } (by
          dsimp only
          omega)
        exact ⟨h1.trans List.erase_sublist, h2, h3⟩
    · next h => exact ⟨.refl _, rfl, h⟩

/-! ## The prefill rows -/

theorem tryPrefill_ok (l : List Nat) (h : s.CompOk p c x) : s.CompOk p c (s.tryPrefill p c target l x) := by
  induction l generalizing x with
  | nil => exact h
  | cons i l ih =>
    obtain ⟨y, hy, e | e | ⟨k, hk, e⟩⟩ := tryPrefill_cases s p c target i l x
    · rw [e]
      exact CompOk.same h hy
    · rw [e]
      exact ih (CompOk.same h hy)
    · rw [e]
      exact ih (CompOk.same (CompOk.prefill h hk) ⟨hy.1, congrArg (· ++ [k]) hy.2⟩)

theorem tryPrefill_ents (l : List Nat) (x : Comp) : (s.tryPrefill p c target l x).dec = x.dec ∧
    ((s.tryPrefill p c target l x).pre.map (·.ent)).Sublist (x.pre.map (·.ent) ++ l) := by
  induction l generalizing x with
  | nil => exact ⟨rfl, by rw [List.append_nil]; exact .refl _⟩
  | cons i l ih =>
    obtain ⟨y, ⟨hd, hp⟩, e | e | ⟨k, hk, e⟩⟩ := tryPrefill_cases s p c target i l x
    · rw [e, hd, hp]
      exact ⟨rfl, List.sublist_append_left _ _⟩
    · obtain ⟨h1, h2⟩ := ih y
      rw [e]
      rw [hp] at h2
      exact ⟨h1.trans hd, h2.trans ((List.sublist_cons_self i l).append_left _)⟩
    · obtain ⟨h1, h2⟩ := ih { y with pre := y.pre ++ [k] }
      rw [e]
      have hl : (y.pre ++ [k]).map (·.ent) ++ l = x.pre.map (·.ent) ++ i :: l := by simp [hp, hk.ent]
      exact ⟨h1.trans hd, hl ▸ h2⟩

theorem costOf_snoc (l : List Pick) (k : Pick) : costOf (l ++ [k]) = Cost.add (costOf l) k.cost := by
  rw [costOf, costOf, List.map_append, List.foldl_append]
  rfl

/-- With a prefill row, what was chosen is within the target. -/
def Within (c : List Byte) (target : Option Nat) (x : Comp) : Prop := x.pre ≠ [] → overTarget c target (costOf x.picks) = false

theorem tryPrefill_within (l : List Nat) (h : Within c target x) : Within c target (s.tryPrefill p c target l x) := by
  have same : ∀ {x y : Comp}, x.SamePicks y → Within c target x → Within c target y := fun hxy h hy => by
    rw [hxy.picks]
    exact h (hxy.2 ▸ hy)
  induction l generalizing x with
  | nil => exact h
  | cons i l ih =>
    obtain ⟨y, hy, e | e | ⟨k, hk, e⟩⟩ := tryPrefill_cases s p c target i l x
    · rw [e]
      exact same hy h
    · rw [e]
      exact ih (same hy h)
    · rw [e]
      refine ih fun _ => ?_
      have hp : ({ y with pre := y.pre ++ [k] } : Comp).picks = y.picks ++ [k] := (List.append_assoc ..).symm
      rw [hp, costOf_snoc, hy.picks]
      exact hk.fits

/-! ## The choice -/

/-- The decode rows of a choice, before it pauses any. -/
def State.decodes (s : State) (p : Nat) (c : List Byte) : Comp :=
  (s.reqsIn p [3, 4] (fun r => r.prio * 2 ^ 64 + r.lastTb)).foldl (s.tryDecode p c) ⟨[], [], 0, 0, false, [], none⟩

/-- The decode rows of a choice. -/
def State.kept (s : State) (p : Nat) (c : List Byte) : Comp :=
  s.pause p c (s.decodes p c) (s.decodes p c).dec.length

/-- The requests that a prefill row may serve, in order. -/
def State.waiting (s : State) (p : Nat) : List Nat :=
  s.reqsIn p [2] (fun r => r.prio * 2 ^ 64 + r.order) ++ s.reqsIn p [1] (fun r => r.prio * 2 ^ 64 + r.order)

theorem choose_def (s : State) (p : Nat) (c : List Byte) :
    s.choose p c = s.tryPrefill p c (s.targetOf p (s.kept p c).dec) (s.waiting p) (s.kept p c) := rfl

theorem compOk_none (s : State) (p : Nat) (c : List Byte) : s.CompOk p c ⟨[], [], 0, 0, false, [], none⟩ where
  dec := fun _ h => nomatch h
  pre := fun _ h => nomatch h
  lanes := Nat.zero_le _
  chunks := Nat.zero_le _
  tokens := Nat.zero_le _
  pages := ⟨.nil, fun _ h => nomatch h⟩
  level := fun _ => Nat.zero_le _

theorem kept_ok (s : State) (p : Nat) (c : List Byte) : s.CompOk p c (s.kept p c) := by
  obtain ⟨h1, h2, -⟩ := pause_spec s p c (s.decodes p c) _ (Nat.le_refl _)
  exact CompOk.sub (tryDecodes_ok _ (compOk_none s p c)) h1 h2

theorem choose_ok (s : State) (p : Nat) (c : List Byte) : s.CompOk p c (s.choose p c) := by
  rw [choose_def]
  exact tryPrefill_ok _ (kept_ok s p c)

theorem kept_pre (s : State) (p : Nat) (c : List Byte) : (s.kept p c).pre = [] :=
  (pause_spec s p c (s.decodes p c) _ (Nat.le_refl _)).2.1.trans (tryDecodes_ents _ _).1

theorem choose_dec (s : State) (p : Nat) (c : List Byte) : (s.choose p c).dec = (s.kept p c).dec := by
  rw [choose_def]
  exact (tryPrefill_ents _ _).1

theorem choose_decEnts (s : State) (p : Nat) (c : List Byte) :
    ((s.choose p c).dec.map (·.ent)).Sublist (s.reqsIn p [3, 4] (fun r => r.prio * 2 ^ 64 + r.lastTb)) := by
  rw [choose_dec]
  exact ((pause_spec s p c (s.decodes p c) _ (Nat.le_refl _)).1.map _).trans (tryDecodes_ents _ _).2

theorem choose_preEnts (s : State) (p : Nat) (c : List Byte) : ((s.choose p c).pre.map (·.ent)).Sublist (s.waiting p) := by
  have h := (tryPrefill_ents (s := s) (p := p) (c := c) (target := s.targetOf p (s.kept p c).dec) (s.waiting p) (s.kept p c)).2
  rw [kept_pre] at h
  exact h

theorem mem_waiting : i ∈ s.waiting p ↔ i ∈ s.reqIds p ∧ ((s.req i).state = 1 ∨ (s.req i).state = 2) := by
  rw [State.waiting, List.mem_append, mem_reqsIn, mem_reqsIn, List.mem_singleton, List.mem_singleton]
  tauto

theorem waiting_nodup (h : (s.reqs.map (·.1)).Nodup) : (s.waiting p).Nodup := by
  refine List.nodup_append'.2 ⟨reqsIn_nodup h _ _, reqsIn_nodup h _ _, fun i h1 h2 => ?_⟩
  rw [mem_reqsIn, List.mem_singleton] at h1 h2
  omega

theorem choose_ents_nodup (h : (s.reqs.map (·.1)).Nodup) (p : Nat) (c : List Byte) : ((s.choose p c).picks.map (·.ent)).Nodup := by
  have hd := choose_decEnts s p c
  have hp := choose_preEnts s p c
  rw [Comp.picks, List.map_append]
  refine List.nodup_append'.2 ⟨(reqsIn_nodup h _ _).sublist hd, (waiting_nodup h).sublist hp, fun i h1 h2 => ?_⟩
  obtain ⟨-, h1⟩ := mem_reqsIn.1 (hd.subset h1)
  obtain ⟨-, h2⟩ := mem_waiting.1 (hp.subset h2)
  simp only [List.mem_cons, List.not_mem_nil, or_false] at h1
  omega

theorem overTarget_false {t : Nat} {x : Cost} (h : overTarget c target x = false) (ht : target = some t) : predict c x ≤ t := by
  rw [ht] at h
  exact Nat.not_lt.1 (of_decide_eq_false h)

theorem choose_within (s : State) (p : Nat) (c : List Byte) {t : Nat} (ht : s.targetOf p (s.choose p c).dec = some t)
    (hp : (s.choose p c).pre ≠ []) : predict c (costOf (s.choose p c).picks) ≤ t := by
  rw [choose_dec] at ht
  exact overTarget_false (tryPrefill_within (s := s) (p := p) _ (fun h => absurd (kept_pre s p c) h) hp) ht

theorem choose_decodes_within (s : State) (p : Nat) (c : List Byte) {t : Nat} (ht : s.targetOf p (s.choose p c).dec = some t) :
    predict c (costOf (s.choose p c).dec) ≤ t ∨ ∀ a ∈ (s.choose p c).dec, ∀ b ∈ (s.choose p c).dec, a.prio = b.prio := by
  have h := (pause_spec s p c (s.decodes p c) _ (Nat.le_refl _)).2.2
  rw [← State.kept, ← choose_dec] at h
  by_cases ho : overTarget c (s.targetOf p (s.choose p c).dec) (costOf (s.choose p c).dec) = true
  · refine .inr fun a ha b hb => ?_
    by_contra hne
    exact h ⟨ho, List.any_eq_true.2 ⟨a, ha, List.any_eq_true.2 ⟨b, hb, by simpa using hne⟩⟩⟩
  · exact .inl (overTarget_false (Bool.not_eq_true _ ▸ ho) ht)

end Sys2Proof.Machine
end

section
/-! SUPPORT. Requests served: completion entries, submissions and cancels, charges and refills, evictions, spills and tokens. -/

namespace Sys2Proof.Machine

variable {s t u : State} {p k i n tb a : Nat} {e bs : List Byte}

/-! ## Completion entries -/

theorem modServe_same (s : State) (p : Nat) (f : Serve → Serve) : (s.modServe p f).serve p = f (s.serve p) := tget_tset_same _ _ _ _

theorem req_modServe (s : State) (p : Nat) (f : Serve → Serve) (i : Nat) : (s.modServe p f).req i = s.req i := rfl

theorem cust_setCust_same (s : State) (i : Nat) (x : Cust) : (s.setCust i x).cust i = x := tget_tset_same _ _ _ _
theorem cust_setCust_ne (s : State) (i : Nat) (x : Cust) {j : Nat} (h : j ≠ i) : (s.setCust i x).cust j = s.cust j := tget_tset_ne _ _ _ h

/-- `t` is `s` with entries posted to rings, or waiting for room in `p`'s list. -/
structure State.PostOp (s t : State) (p : Nat) : Prop where
  reqs : t.reqs = s.reqs
  custs : t.custs = s.custs
  serve : ∃ l, t.serve p = { s.serve p with cpl := l }
  regs : ∀ (g : Fld) (j : Nat), g.reg ∉ ringRegs → t.getF g j = s.getF g j

theorem State.RingOp.posts (h : s.RingOp t) (p : Nat) : s.PostOp t p where
  reqs := by rw [h.frame]
  custs := by rw [h.frame]
  serve := ⟨(s.serve p).cpl, by rw [h.frame]; rfl⟩
  regs := h.regs

namespace State.PostOp

theorem refl (s : State) (p : Nat) : s.PostOp s p := State.RingOp.refl.posts p

theorem trans (h : s.PostOp t p) (h' : t.PostOp u p) : s.PostOp u p where
  reqs := h'.reqs.trans h.reqs
  custs := h'.custs.trans h.custs
  serve := by
    obtain ⟨l, hl⟩ := h.serve
    obtain ⟨m, hm⟩ := h'.serve
    exact ⟨m, by rw [hm, hl]⟩
  regs := fun g j hg => (h'.regs g j hg).trans (h.regs g j hg)

theorem modCpl (s : State) (p : Nat) (f : Serve → List (Nat × List Byte)) : s.PostOp (s.modServe p (fun x => { x with cpl := f x })) p :=
  ⟨rfl, rfl, ⟨_, modServe_same s p _⟩, fun _ _ _ => rfl⟩

theorem postCpl (l : List (Nat × List Byte)) : s.PostOp (s.postCpl p l) p := by
  induction l generalizing s with
  | nil => exact refl s p
  | cons e l ih =>
    rw [State.postCpl]
    split
    · exact ((State.RingOp.ringPut _ _).posts p).trans ih
    · exact (modCpl s p _).trans ih

theorem complete (k : Nat) (bs : List Byte) : s.PostOp (s.complete p k bs) p := (modCpl s p _).trans (postCpl _)

theorem recomplete : s.PostOp (s.recomplete p) p := (modCpl s p _).trans (postCpl _)

theorem req (h : s.PostOp t p) (i : Nat) : t.req i = s.req i := by
  rw [State.req, h.reqs]
  rfl

end State.PostOp

/-! ## Submissions and cancels -/

theorem subHead_takes {want : Nat → Bool} (hd : s.subDue k = true) (hp : s.peekSub k = (u, some e)) (hw : want (leAt e 1 1) = true) :
    s.subHead k want = (u.takeSub ((u.ring k).fn - 1) k u.now e).refreshRqt ((u.ring k).fn - 1) := by
  unfold State.subHead
  rw [if_neg (not_not.2 hd), hp]
  exact if_pos hw

theorem submit_exec (hd : s.subDue k = true) (hp : s.peekSub k = (u, some e)) (hk : leAt e 1 1 ≠ 2) :
    exec (.submit k) s = .next (((u.popSub k).submitEntry ((u.ring k).fn - 1) e).refreshRqt ((u.ring k).fn - 1)) := by
  have ht : u.takeSub ((u.ring k).fn - 1) k u.now e = (u.popSub k).submitEntry ((u.ring k).fn - 1) e := if_neg hk
  rw [← ht]
  exact congrArg Host.Outcome.next (subHead_takes hd hp (by simpa using hk))

theorem cancel_exec (hd : s.subDue k = true) (hp : s.peekSub k = (u, some e)) (hk : leAt e 1 1 = 2) :
    exec (.cancel k) s = .next (((u.popSub k).cancelEntry ((u.ring k).fn - 1) u.now e).refreshRqt ((u.ring k).fn - 1)) := by
  have ht : u.takeSub ((u.ring k).fn - 1) k u.now e = (u.popSub k).cancelEntry ((u.ring k).fn - 1) u.now e := if_pos hk
  rw [← ht]
  exact congrArg Host.Outcome.next (subHead_takes hd hp (by simpa using hk))

/-- The request that a submission makes. -/
def State.submitted (s : State) (p : Nat) (e : List Byte) : Req :=
  { Req.init with
    state := 1, prio := leAt e 2 1, customer := leAt e 4 2, cring := leAt e 6 2, tag := leAt e 8 8
    adapter := leAt e 16 4, promptLen := leAt e 20 4, genLimit := leAt e 24 4, prompt := leAt e 28 6
    sparam := leAt e 36 4, seed := leAt e 40 8, lastTb := s.now, order := (s.serve p).order }

theorem submitEntry_admits (h : s.admitCheck p e = 0) : s.submitEntry p e =
    (s.setReq (s.freeEnt p) (s.submitted p e)).modServe p (fun x => { x with order := x.order + 1 }) := if_neg (not_not.2 h)

theorem submitEntry_refuses (h : s.admitCheck p e ≠ 0) : s.submitEntry p e =
    s.complete p (s.replyRing p (leAt e 6 2)) (cplBytes cplREFUSED (s.admitCheck p e) 0 (leAt e 8 8) 0 0 s.now) := if_pos h

theorem submitEntry_req (h : s.admitCheck p e = 0) : (s.submitEntry p e).req (s.freeEnt p) = s.submitted p e := by
  rw [submitEntry_admits h, req_modServe, State.setReq_req_same]

theorem req_dropReq_same (s : State) (p i : Nat) : (s.dropReq p i).req i = Req.init := by
  rw [State.dropReq, req_modServe, State.setReq_req_same]

theorem req_dropReq_ne (s : State) (p : Nat) {i j : Nat} (h : j ≠ i) : (s.dropReq p i).req j = s.req j := by
  rw [State.dropReq, req_modServe, State.setReq_req_ne s i _ h]

theorem cancelEntry_frees (hv : leAt e 0 1 = 1) (hz : zeros (slice e 2 6 ++ slice e 16 48) = true) (hi : s.byTag p (leAt e 8 8) = some i) :
    s.cancelEntry p tb e = ((s.dropReq p i).addF F.RQT_COUNT_CANCELLED p 1).complete p (s.req i).cring
      (cplBytes cplCANCELLED 0 0 (leAt e 8 8) 0 (s.req i).generated tb) := by
  unfold State.cancelEntry
  dsimp only
  rw [if_neg (by rw [not_or, not_not, not_not]; exact ⟨hv, hz⟩), hi]

theorem cancelEntry_spec (hv : leAt e 0 1 = 1) (hz : zeros (slice e 2 6 ++ slice e 16 48) = true) (hi : s.byTag p (leAt e 8 8) = some i) :
    (s.cancelEntry p tb e).req i = Req.init ∧
    (s.cancelEntry p tb e).getF F.RQT_COUNT_CANCELLED p = satAdd F.RQT_COUNT_CANCELLED.w (s.getF F.RQT_COUNT_CANCELLED p) 1 := by
  have hc := State.PostOp.complete (s := (s.dropReq p i).addF F.RQT_COUNT_CANCELLED p 1) (p := p) (s.req i).cring
    (cplBytes cplCANCELLED 0 0 (leAt e 8 8) 0 (s.req i).generated tb)
  rw [cancelEntry_frees hv hz hi]
  exact ⟨(hc.req i).trans (req_dropReq_same s p i), (hc.regs _ p (by decide)).trans (getF_addF_same (s := s.dropReq p i) (by decide) p 1)⟩

/-! ## Charges, refunds and refills -/

/-- The row's request, running. -/
def State.pickReq (s : State) (k : Pick) : Req :=
  { s.req k.ent with state := if k.row.kind = 1 then 3 else 2, lane := k.row.lane, pages := (s.req k.ent).pages ++ k.new, lastRun := s.now }

/-- `t` is `s` with the resources of plans changed. -/
structure State.PlanOp (s t : State) : Prop where
  reqs : t.reqs = s.reqs
  custs : t.custs = s.custs
  regs : t.regs = s.regs

theorem useAdapter_planOp (s : State) (k id : Nat) : s.PlanOp (s.useAdapter k id) := by
  unfold State.useAdapter
  split <;> exact ⟨rfl, rfl, rfl⟩

theorem takePick_charges {k : Pick} (hc : k.row.charged = true) : ∃ v, (s.setReq k.ent (s.pickReq k)).PlanOp v ∧ s.takePick p k =
    v.setCust (v.custAt p (s.req k.ent).customer)
      { v.cust (v.custAt p (s.req k.ent).customer) with
        level := (v.cust (v.custAt p (s.req k.ent).customer)).level - 256 * k.row.tokens } :=
  ⟨_, useAdapter_planOp _ _ _, if_pos hc⟩

theorem custAt_congr (h : t.regs = s.regs) (p id : Nat) : t.custAt p id = s.custAt p id := by
  rw [State.custAt, State.custAt, State.KeepsRegs.of_regs h [] F.RQT_PART_CUST_BASE p List.not_mem_nil]

theorem refundRow_charged {r : Row} (h : r.charged = true) : s.refundRow p r = s.setCust (s.custAt p (s.req r.ent).customer)
    { s.cust (s.custAt p (s.req r.ent).customer) with level := (s.cust (s.custAt p (s.req r.ent).customer)).level + 256 * r.tokens } := if_pos h

theorem takePick_spec {k : Pick} (he : k.row.ent = k.ent) (hc : k.row.charged = true) :
    (let r := s.req k.ent
     let a := s.custAt p r.customer
     let t := s.takePick p k
     (t.req k.ent).pages = r.pages ++ k.new ∧ (t.req k.ent).lane = k.row.lane ∧ (t.req k.ent).state = (if k.row.kind = 1 then 3 else 2) ∧
     (t.cust a).level = (s.cust a).level - 256 * k.row.tokens ∧
     (256 * k.row.tokens ≤ (s.cust a).level → ((t.refundRow p k.row).cust a).level = (s.cust a).level)) := by
  obtain ⟨v, hv, e⟩ := takePick_charges (s := s) (p := p) hc
  dsimp only
  have ha : v.custAt p (s.req k.ent).customer = s.custAt p (s.req k.ent).customer := custAt_congr hv.regs _ _
  have hcu : v.cust (s.custAt p (s.req k.ent).customer) = s.cust (s.custAt p (s.req k.ent).customer) := by
    rw [State.cust, hv.custs]
    rfl
  rw [ha, hcu] at e
  have hq : (s.takePick p k).req k.ent = s.pickReq k := by
    rw [e]
    exact (congrArg (tget Req.init · k.ent) hv.reqs).trans (State.setReq_req_same s k.ent (s.pickReq k))
  have hregs : (s.takePick p k).regs = s.regs := by
    rw [e]
    exact hv.regs
  have hl : (s.takePick p k).cust (s.custAt p (s.req k.ent).customer) =
      { s.cust (s.custAt p (s.req k.ent).customer) with level := (s.cust (s.custAt p (s.req k.ent).customer)).level - 256 * k.row.tokens } := by
    rw [e, cust_setCust_same]
  have hcust : (s.pickReq k).customer = (s.req k.ent).customer := rfl
  refine ⟨by rw [hq]; rfl, by rw [hq]; rfl, by rw [hq]; rfl, by rw [hl], fun h => ?_⟩
  rw [refundRow_charged hc, he, hq, hcust, custAt_congr hregs, cust_setCust_same, hl]
  exact Nat.sub_add_cancel h

theorem refill_spec {x : Cust} {t : Nat} (h : x.en = true) : (x.refill t).level ≤ x.burst * 256 ∧
    ((x.refill t).level < x.burst * 256 →
      (x.refill t).level * 10 ^ 9 + (x.refill t).rem = x.level * 10 ^ 9 + x.rate * 256 * (t - x.lastTb) + x.rem) := by
  unfold Cust.refill
  rw [if_neg (not_not.2 h)]
  dsimp only
  split
  · exact ⟨Nat.le_refl _, fun h => absurd h (Nat.lt_irrefl _)⟩
  · refine ⟨by dsimp only; omega, fun _ => ?_⟩
    dsimp only
    omega

/-! ## Evictions -/

/-- Request `j` comes after `i` in the order of evictions. -/
def State.yields (s : State) (i j : Nat) : Prop :=
  (s.req j).prio < (s.req i).prio ∨ ((s.req j).prio = (s.req i).prio ∧ (s.req j).lastTb ≤ (s.req i).lastTb)

/-- The request that ends next, of one and the one chosen so far. -/
def State.evictStep (s : State) (b : Option Nat) (i : Nat) : Option Nat :=
  match b with
  | none => some i
  | some j =>
    if (s.req j).prio < (s.req i).prio ∨ ((s.req j).prio = (s.req i).prio ∧ (s.req j).lastTb < (s.req i).lastTb) then some i else some j

theorem evictStep_spec (s : State) (b : Option Nat) (i : Nat) :
    ∃ j, s.evictStep b i = some j ∧ (j = i ∨ b = some j) ∧ s.yields j i ∧ ∀ m, b = some m → s.yields j m := by
  rcases b with _ | m
  · exact ⟨i, rfl, .inl rfl, .inr ⟨rfl, Nat.le_refl _⟩, fun m h => nomatch h⟩
  · unfold State.evictStep
    dsimp only
    split
    · next h =>
      refine ⟨i, rfl, .inl rfl, .inr ⟨rfl, Nat.le_refl _⟩, fun m hm => ?_⟩
      cases hm
      unfold State.yields
      omega
    · next h =>
      refine ⟨m, rfl, .inr rfl, ?_, fun m hm => ?_⟩
      · unfold State.yields
        omega
      · cases hm
        exact .inr ⟨rfl, Nat.le_refl _⟩

theorem yields_trans {j m : Nat} (h : s.yields i j) (h' : s.yields j m) : s.yields i m := by
  unfold State.yields at *
  omega

theorem evictFold_spec (l : List Nat) (b : Option Nat) (h : l.foldl s.evictStep b = some i) :
    (i ∈ l ∨ b = some i) ∧ (∀ j ∈ l, s.yields i j) ∧ ∀ m, b = some m → s.yields i m := by
  induction l generalizing b with
  | nil =>
    refine ⟨.inr h, fun j hj => absurd hj List.not_mem_nil, fun m hm => ?_⟩
    rw [List.foldl_nil, hm] at h
    cases h
    exact .inr ⟨rfl, Nat.le_refl _⟩
  | cons a l ih =>
    obtain ⟨h1, h2, h3⟩ := ih _ h
    obtain ⟨j, hj, hm, ha, hb⟩ := evictStep_spec s b a
    have hij := h3 j hj
    refine ⟨?_, fun m hm => ?_, fun m hm => yields_trans hij (hb m hm)⟩
    · rcases h1 with h1 | h1
      · exact .inl (List.mem_cons_of_mem _ h1)
      · rw [hj] at h1
        cases h1
        rcases hm with rfl | hm
        · exact .inl List.mem_cons_self
        · exact .inr hm
    · rcases List.mem_cons.1 hm with rfl | hm
      · exact yields_trans hij ha
      · exact h2 m hm

theorem evictNext_spec (h : s.evictNext p = some i) : i ∈ s.reqIds p ∧ (s.req i).pages ≠ [] ∧
    ∀ j ∈ s.reqIds p, (s.req j).pages ≠ [] →
      (s.req j).prio < (s.req i).prio ∨ ((s.req j).prio = (s.req i).prio ∧ (s.req j).lastTb ≤ (s.req i).lastTb) := by
  obtain ⟨h1, h2, -⟩ := evictFold_spec (s := s) ((s.reqIds p).filter (fun i => (s.req i).pages != [])) none h
  obtain ⟨h1, h3⟩ := List.mem_filter.1 (h1.resolve_right nofun)
  exact ⟨h1, by simpa using h3, fun j hj hp => h2 j (List.mem_filter.2 ⟨hj, by simpa using hp⟩)⟩

/-! ## Spills -/

theorem copyPage_ringOp (s : State) (c : List Byte) (src dst : Nat) : s.RingOp (s.copyPage c src dst) := by
  have h : s.RingOp (s.readR (scFrame c src) (2 ^ scShift c) []).1 :=
    (State.RingOp.markAt _).trans ((State.MemOp.read _ _ []).ringOp.trans (State.RingOp.busError _))
  unfold State.copyPage
  split
  · next e => exact (h.of_eq e).trans (.writeQ _ _)
  · next e => exact h.of_eq e

theorem copyPages_ringOp (c : List Byte) (l : List (Nat × Nat)) (s : State) : s.RingOp (l.foldl (fun s m => s.copyPage c m.1 m.2) s) := by
  induction l generalizing s with
  | nil => exact .refl
  | cons m l ih => exact (copyPage_ringOp s c m.1 m.2).trans (ih _)

/-- The moves that a spill makes. -/
def State.spillMoves (s : State) (p ent : Nat) : List (Nat × Nat) :=
  let c := (s.serve p).cfg
  let free := ((List.range (scCel c)).map (scCelFirst c + ·)).filter (fun g => !(s.usedPages p).contains g)
  ((s.req ent).pages.filter (fun g => decide (g < scHbm c))).zip free

theorem spill_exec {ent : Nat} (hp : p < 16) (hs : s.pairStopped = false) (he : ent ∈ s.reqIds p) (h4 : (s.req ent).state = 4)
    (hm : scSpillMs (s.serve p).cfg ≠ 0) (hx : (s.req ent).spill = []) (ht : (s.req ent).lastRun + 1000000 * scSpillMs (s.serve p).cfg ≤ s.now) :
    ∃ v, s.RingOp v ∧ exec (.spill p ent) s = .next ((v.setReq ent { v.req ent with spill := s.spillMoves p ent }).refreshRqt p) := by
  refine ⟨_, copyPages_ringOp (s.serve p).cfg (s.spillMoves p ent) s, (if_neg (not_not.2 hp)).trans (if_neg ?_)⟩
  rintro (h | h | h | h | h | h)
  · rw [hs] at h
    cases h
  · exact h (List.contains_iff_mem.2 he)
  · exact h h4
  · exact hm h
  · exact h hx
  · omega

theorem spill_spec {ent : Nat} (hp : p < 16) (hs : s.pairStopped = false) (he : ent ∈ s.reqIds p) (h4 : (s.req ent).state = 4)
    (hm : scSpillMs (s.serve p).cfg ≠ 0) (hx : (s.req ent).spill = []) (ht : (s.req ent).lastRun + 1000000 * scSpillMs (s.serve p).cfg ≤ s.now) :
    ∃ t, exec (.spill p ent) s = .next t ∧ (t.req ent).spill = s.spillMoves p ent ∧ (t.req ent).pages = (s.req ent).pages ∧
      (t.req ent).state = 4 := by
  obtain ⟨v, hv, e⟩ := spill_exec hp hs he h4 hm hx ht
  have hq : v.req ent = s.req ent := (hv.posts p).req ent
  have hr : ((v.setReq ent { v.req ent with spill := s.spillMoves p ent }).refreshRqt p).req ent = { v.req ent with spill := s.spillMoves p ent } :=
    State.setReq_req_same v ent _
  exact ⟨_, e, by rw [hr], by rw [hr, hq], by rw [hr, hq, h4]⟩

/-! ## Tokens -/

/-- The token's request, advanced. -/
def Req.told (q : Req) (o : SOut) (t : Nat) : Req := { q with generated := q.generated + 1, lastTok := o.token, lastTb := t }

theorem deliverToken_ends (s : State) (p t : Nat) (r : Row) (o : SOut) : ∃ (v : State) (bs bs' : List Byte), v.reqs = s.reqs ∧ v.serves = s.serves ∧
    s.deliverToken p t r o =
      if (o.stop.isSome || decide ((s.req r.ent).genLimit ≤ (s.req r.ent).generated + 1)) = true then
        ((v.setReq r.ent ((s.req r.ent).told o t)).dropReq p r.ent).complete p (s.req r.ent).cring bs
      else (v.setReq r.ent ((s.req r.ent).told o t)).complete p (s.req r.ent).cring bs' := by
  have hw := State.RingOp.writeQ (s := s) (s.tokenAddr p (s.req r.ent) (r.pos + r.tokens)) (leBytes 4 o.token)
  have hws : (s.writeQ (s.tokenAddr p (s.req r.ent) (r.pos + r.tokens)) (leBytes 4 o.token)).serves = s.serves := by rw [hw.frame]
  have hwq : (s.writeQ (s.tokenAddr p (s.req r.ent) (r.pos + r.tokens)) (leBytes 4 o.token)).reqs = s.reqs := by rw [hw.frame]
  unfold State.deliverToken
  dsimp only
  generalize s.writeQ (s.tokenAddr p (s.req r.ent) (r.pos + r.tokens)) (leBytes 4 o.token) = w at hws hwq
  generalize hv : (if 0 < (s.req r.ent).generated ∧ 0 < w.getF F.RQT_PRIO_TARGET_US (p * 4 + (s.req r.ent).prio) ∧
    1000 * w.getF F.RQT_PRIO_TARGET_US (p * 4 + (s.req r.ent).prio) < t - (s.req r.ent).lastTb then
      w.addF F.RQT_PRIO_MISSES (p * 4 + (s.req r.ent).prio) 1 else w) = v
  have hvq : v.reqs = s.reqs ∧ v.serves = s.serves := by
    rw [← hv]
    split <;> exact ⟨hwq, hws⟩
  exact ⟨v, _, _, hvq.1, hvq.2, rfl⟩

theorem deliverToken_spec (s : State) (p t : Nat) (r : Row) (o : SOut) :
    (let q := s.req r.ent
     let u := s.deliverToken p t r o
     (o.stop = none → q.generated + 1 < q.genLimit →
      u.req r.ent = { q with generated := q.generated + 1, lastTok := o.token, lastTb := t }) ∧
     (o.stop.isSome = true ∨ q.genLimit ≤ q.generated + 1 → u.req r.ent = Req.init) ∧ ∀ i, i ≠ r.ent → u.req i = s.req i) := by
  obtain ⟨v, bs, bs', hv, -, e⟩ := deliverToken_ends s p t r o
  dsimp only
  have hvr : ∀ i, v.req i = s.req i := fun i => by
    rw [State.req, hv]
    rfl
  rw [e]
  refine ⟨fun h0 hlt => ?_, fun h => ?_, fun i hi => ?_⟩
  · rw [if_neg (by simp [h0, hlt]), (State.PostOp.complete ..).req]
    exact State.setReq_req_same v _ _
  · rw [if_pos (by simpa using h), (State.PostOp.complete ..).req]
    exact req_dropReq_same _ p r.ent
  · split
    · rw [(State.PostOp.complete ..).req, req_dropReq_ne _ p hi]
      exact (State.setReq_req_ne v _ _ hi).trans (hvr i)
    · rw [(State.PostOp.complete ..).req]
      exact (State.setReq_req_ne v _ _ hi).trans (hvr i)

end Sys2Proof.Machine
end

section
/-! SUPPORT. The sampler: ranked candidates, the draw, and the output of a row. -/

namespace Sys2Proof.Machine

variable {s t u : State} {p k i n lane : Nat} {sym : Syms} {r : Row} {g : PSet} {bs : List Byte}

/-! ## Candidates -/

theorem candBefore_iff (a b : Cand) : candBefore a b = true ↔ topKey b.2 < topKey a.2 ∨ topKey a.2 = topKey b.2 ∧ a.1 < b.1 := by
  simp [candBefore]

theorem candBefore_false (a b : Cand) : candBefore a b = false ↔ ¬ (topKey b.2 < topKey a.2 ∨ topKey a.2 = topKey b.2 ∧ a.1 < b.1) := by
  rw [← candBefore_iff, Bool.not_eq_true]

theorem not_before_of_before {a b : Cand} (h : candBefore a b = true) : candBefore b a = false := by
  rw [candBefore_iff] at h
  rw [candBefore_false]
  omega

theorem not_before_trans {a b c : Cand} (h : candBefore b a = false) (h' : candBefore c b = false) : candBefore c a = false := by
  rw [candBefore_false] at *
  omega

theorem insCand_perm (x : Cand) (l : List Cand) : (insCand x l).Perm (x :: l) := by
  induction l with
  | nil => exact .refl _
  | cons y l ih =>
    unfold insCand
    split
    · exact .refl _
    · exact (ih.cons y).trans (.swap x y l)

theorem insCand_sorted (x : Cand) {l : List Cand} (h : l.Pairwise (fun a b => candBefore b a = false)) :
    (insCand x l).Pairwise (fun a b => candBefore b a = false) := by
  induction l with
  | nil => exact List.pairwise_singleton _ _
  | cons y l ih =>
    obtain ⟨h1, h2⟩ := List.pairwise_cons.1 h
    unfold insCand
    split
    · next hb =>
      refine List.pairwise_cons.2 ⟨fun z hz => ?_, h⟩
      rcases List.mem_cons.1 hz with rfl | hz
      · exact not_before_of_before hb
      · exact not_before_trans (not_before_of_before hb) (h1 z hz)
    · next hb =>
      refine List.pairwise_cons.2 ⟨fun z hz => ?_, ih h2⟩
      rcases List.mem_cons.1 ((insCand_perm x l).subset hz) with rfl | hz
      · exact Bool.not_eq_true _ ▸ hb
      · exact h1 z hz

theorem rankCands_spec (l : List Cand) : (rankCands l).Perm l ∧ (rankCands l).Pairwise (fun a b => candBefore b a = false) := by
  have h : ∀ (l m : List Cand), m.Pairwise (fun a b => candBefore b a = false) →
      (l.foldl (fun t x => insCand x t) m).Perm (l ++ m) ∧ (l.foldl (fun t x => insCand x t) m).Pairwise (fun a b => candBefore b a = false) := by
    intro l
    induction l with
    | nil => exact fun m hm => ⟨.refl m, hm⟩
    | cons x l ih =>
      intro m hm
      obtain ⟨h1, h2⟩ := ih (insCand x m) (insCand_sorted x hm)
      exact ⟨h1.trans (((insCand_perm x m).append_left l).trans List.perm_middle), h2⟩
  obtain ⟨h1, h2⟩ := h l [] .nil
  rw [List.append_nil] at h1
  exact ⟨h1, h2⟩

/-- What stays of candidates: each index below `vocab` once, but those seen already. -/
structure Kept (vocab : Nat) (l : List Cand) (seen : List Nat) (r : List Cand × Nat) : Prop where
  sub : r.1.Sublist l
  nodup : (r.1.map (·.1)).Nodup
  fresh : ∀ x ∈ r.1, x.1 < vocab ∧ x.1 ∉ seen
  count : r.1.length + r.2 = l.length
  all : ∀ x ∈ l, x.1 < vocab → x.1 ∈ r.1.map (·.1) ∨ x.1 ∈ seen

theorem dropCands_kept (vocab : Nat) (l : List Cand) (seen : List Nat) : Kept vocab l seen (dropCands vocab l seen) := by
  induction l generalizing seen with
  | nil => exact ⟨.slnil, .nil, fun _ h => absurd h List.not_mem_nil, rfl, fun _ h => absurd h List.not_mem_nil⟩
  | cons x l ih =>
    rw [dropCands]
    split
    · next hx =>
      have h := ih seen
      refine ⟨h.sub.cons x, h.nodup, h.fresh, ?_, fun y hy hv => ?_⟩
      · rw [List.length_cons, ← h.count]
        rfl
      · rcases List.mem_cons.1 hy with rfl | hy
        · exact .inr (List.contains_iff_mem.1 (hx.resolve_left (Nat.not_le.2 hv)))
        · exact h.all y hy hv
    · next hx =>
      rw [not_or, Nat.not_le, List.contains_iff_mem] at hx
      have h := ih (x.1 :: seen)
      have hns : ∀ y ∈ (dropCands vocab l (x.1 :: seen)).1, y.1 ≠ x.1 := fun y hy he =>
        (h.fresh y hy).2 (he ▸ List.mem_cons_self)
      refine ⟨h.sub.cons_cons x, ?_, fun y hy => ?_, ?_, fun y hy hv => ?_⟩
      · refine List.nodup_cons.2 ⟨fun hm => ?_, h.nodup⟩
        obtain ⟨y, hy, he⟩ := List.mem_map.1 hm
        exact hns y hy he
      · rcases List.mem_cons.1 hy with rfl | hy
        · exact hx
        · exact ⟨(h.fresh y hy).1, fun hs => (h.fresh y hy).2 (List.mem_cons_of_mem _ hs)⟩
      · have := h.count
        simp only [List.length_cons]
        omega
      · rcases List.mem_cons.1 hy with rfl | hy
        · exact .inl List.mem_cons_self
        · rcases h.all y hy hv with hm | hm
          · exact .inl (List.mem_cons_of_mem _ hm)
          · rcases List.mem_cons.1 hm with he | hm
            · exact .inl (List.mem_map.2 ⟨x, List.mem_cons_self, he.symm⟩)
            · exact .inr hm

/-! ## The draw -/

/-- Candidates with their logits and weights, as top-k leaves them. -/
def drawTop (g : PSet) (l : List Cand) : List (Nat × Nat × Nat) :=
  let z := l.map (fun x => (x.1, (fdiv x.2 g.temp).val))
  let m := (z.headD (0, 0)).2
  (if g.topK = 0 then z else z.take g.topK).map (fun x => (x.1, x.2, (boundedFn 4 (fsub x.2 m).val).val))

/-- The candidates that top-p keeps of them. -/
def drawKept (g : PSet) (l : List Cand) : List (Nat × Nat × Nat) := (drawTop g l).take (topPKeep g ((drawTop g l).map (·.2.2)))

/-- The candidates that min-p keeps of them. -/
def drawPool (g : PSet) (l : List Cand) : List (Nat × Nat × Nat) :=
  let w := drawKept g l
  (w.take 1) ++ (w.drop 1).filter (fun x => !flt x.2.2 (fmul g.minP ((w.headD (0, 0, 0)).2.2)).val)

theorem draw_token (g : PSet) (seed n : Nat) (x : Cand) (l : List Cand) : (draw g seed n (x :: l)).1 = x.1 ∨
    ∃ lim : Nat, (draw g seed n (x :: l)).1 = ((drawPool g (x :: l)).getD
      (((sums 0 ((drawPool g (x :: l)).map (·.2.2))).findIdx? (fun a => flt lim a)).getD ((drawPool g (x :: l)).length - 1)) (0, 0, 0)).1 := by
  rw [draw]
  by_cases h1 : isNan x.2 = true ∨ bitsOf x.2 0 31 = 0x7F800000
  · rw [if_pos h1]
    exact .inl rfl
  · rw [if_neg h1]
    by_cases h2 : bitsOf g.temp 0 31 = 0
    · rw [if_pos h2]
      exact .inl rfl
    · rw [if_neg h2]
      exact .inr ⟨_, rfl⟩

theorem draw_greedy {x : Cand} (h1 : isNan x.2 = false) (h2 : bitsOf x.2 0 31 ≠ 0x7F800000) (h3 : bitsOf g.temp 0 31 = 0)
    (seed n : Nat) (l : List Cand) : draw g seed n (x :: l) = (x.1, 0, false) := by
  rw [draw, if_neg (by rw [h1]; simpa using h2), if_pos h3]

theorem drawTop_tokens (g : PSet) (l : List Cand) : ((drawTop g l).map (·.1)).Sublist (l.map (·.1)) := by
  unfold drawTop
  dsimp only
  rw [List.map_map]
  split
  · rw [List.map_map]
    exact .refl _
  · refine ((List.take_sublist _ _).map _).trans ?_
    rw [List.map_map]
    exact .refl _

theorem drawTop_ne_nil (g : PSet) {l : List Cand} (h : l ≠ []) : drawTop g l ≠ [] := by
  unfold drawTop
  dsimp only
  rw [Ne, List.map_eq_nil_iff]
  split
  · rwa [List.map_eq_nil_iff]
  · next hk =>
    rw [List.take_eq_nil_iff, List.map_eq_nil_iff]
    exact fun hn => hn.elim hk h

theorem topPKeep_pos {ws : List Nat} (h : ws ≠ []) : topPKeep g ws ≠ 0 := by
  have hl : ws.length ≠ 0 := mt List.length_eq_zero_iff.1 h
  unfold topPKeep
  split
  · exact hl
  · dsimp only
    split
    · exact Nat.succ_ne_zero _
    · exact hl

theorem drawKept_ne_nil (g : PSet) {l : List Cand} (h : l ≠ []) : drawKept g l ≠ [] := by
  rw [drawKept, Ne, List.take_eq_nil_iff]
  exact fun hn => hn.elim (topPKeep_pos (mt List.map_eq_nil_iff.1 (drawTop_ne_nil g h))) (drawTop_ne_nil g h)

theorem drawPool_sublist (g : PSet) (l : List Cand) : (drawPool g l).Sublist (drawTop g l) := by
  have h : (drawPool g l).Sublist (drawKept g l) := by
    unfold drawPool
    have hs := (List.filter_sublist (p := fun x => !flt x.2.2 (fmul g.minP (((drawKept g l).headD (0, 0, 0)).2.2)).val)
      (l := (drawKept g l).drop 1)).append_left ((drawKept g l).take 1)
    rw [List.take_append_drop] at hs
    exact hs
  exact h.trans (List.take_sublist _ _)

theorem drawPool_ne_nil (g : PSet) {l : List Cand} (h : l ≠ []) : drawPool g l ≠ [] := by
  unfold drawPool
  dsimp only
  intro hn
  have := (List.append_eq_nil_iff.1 hn).1
  rw [List.take_eq_nil_iff] at this
  exact this.elim (by decide) (drawKept_ne_nil g h)

theorem length_sums (acc : Nat) (l : List Nat) : (sums acc l).length = l.length := by
  induction l generalizing acc with
  | nil => rfl
  | cons w l ih => exact congrArg (· + 1) (ih _)

/-- A draw gives the token of a candidate. -/
theorem draw_mem (g : PSet) (seed n : Nat) {l : List Cand} (h : l ≠ []) : (draw g seed n l).1 ∈ l.map (·.1) := by
  obtain ⟨x, l, rfl⟩ := List.exists_cons_of_ne_nil h
  rcases draw_token g seed n x l with e | ⟨lim, e⟩
  · rw [e]
    exact List.mem_cons_self
  · have hpos : 0 < (drawPool g (x :: l)).length := List.length_pos_iff.2 (drawPool_ne_nil g h)
    have hi : ((sums 0 ((drawPool g (x :: l)).map (·.2.2))).findIdx? (fun a => flt lim a)).getD ((drawPool g (x :: l)).length - 1) <
        (drawPool g (x :: l)).length := by
      rcases hf : (sums 0 ((drawPool g (x :: l)).map (·.2.2))).findIdx? (fun a => flt lim a) with _ | j
      · rw [hf]
        exact Nat.sub_lt hpos Nat.one_pos
      · have hj := (List.findIdx?_eq_some_iff_findIdx_eq.1 hf).1
        rw [length_sums, List.length_map] at hj
        rw [hf]
        exact hj
    rw [e, List.getD_eq_getElem _ _ hi]
    exact (drawTop_tokens g _).subset (((drawPool_sublist g _).map _).subset (List.mem_map_of_mem (List.getElem_mem hi)))

end Sys2Proof.Machine
end

section
/-! SUPPORT. SAMPLE_ROW: the reads of a row, and what its output or its failure leaves. -/

namespace Sys2Proof.Machine

variable {s t u : State} {p k i n lane : Nat} {sym : Syms} {r : Row} {g : PSet} {bs : List Byte}

/-! ## A row's output -/

/-- The output of a row. -/
def rowOut (r : Row) (d : Nat × Nat × Bool) (stop : Option Nat) (ok : Bool) : SOut := ⟨r.lane, r.ent, d.1, d.2.1, stop, d.2.2, !ok⟩

/-- The counters of a row's output. -/
def State.rowCounted (s : State) (p k : Nat) (g : PSet) (ok : Bool) (bad : Nat) (deg : Bool) : State :=
  let tf := if k = 0 then F.SMP_TIME_LAST0_NS else F.SMP_TIME_LAST1_NS
  let before := if (s.serve p).outs.any (fun o => o.lane % 2 == k) then s.getF tf 0 else 0
  ((((s.setF tf 0 (min (2 ^ 32 - 1) (before + s.rowTime p g.window))).addF F.SMP_STATUS_ROWS 0 1).addF F.SMP_ERR_BAD_CAND 0 bad).addF
    F.SMP_ERR_BAD_SET 0 (bit (!ok))).addF F.SMP_ERR_DEGENERATE 0 (bit deg)

theorem sampleOut_def (s : State) (p k : Nat) (r : Row) (g : PSet) (ok : Bool) (bad : Nat) (d : Nat × Nat × Bool) (stop : Option Nat) :
    s.sampleOut p k r g ok bad d stop =
      ((s.rowCounted p k g ok bad d.2.2).modServe p (fun v => { v with outs := v.outs ++ [rowOut r d stop ok] })).setBusy := rfl

theorem rowCounted_eq (s : State) (p k : Nat) (g : PSet) (ok : Bool) (bad : Nat) (deg : Bool) :
    s.rowCounted p k g ok bad deg = { s with regs := (s.rowCounted p k g ok bad deg).regs } := rfl

theorem rowCounted_rows (s : State) (p k : Nat) (g : PSet) (ok : Bool) (bad : Nat) (deg : Bool) :
    (s.rowCounted p k g ok bad deg).getF F.SMP_STATUS_ROWS 0 = satAdd F.SMP_STATUS_ROWS.w (s.getF F.SMP_STATUS_ROWS 0) 1 := by
  unfold State.rowCounted
  dsimp only
  rw [getF_addF_apart _ (by decide) (.inl (by decide)), getF_addF_apart _ (by decide) (.inl (by decide)),
    getF_addF_apart _ (by decide) (.inl (by decide)), getF_addF_same (by decide)]
  split
  · rw [getF_setF_apart _ (by decide) (.inl (by decide))]
  · rw [getF_setF_apart _ (by decide) (.inl (by decide))]

theorem setBusy_eq (s : State) : s.setBusy = { s with regs := s.setBusy.regs } := by
  unfold State.setBusy
  dsimp only
  rw [setFs_eq]

theorem setBusy_getF {g : Fld} (h0 : F.SMP_STATUS_BUSY0.Apart g) (h1 : F.SMP_STATUS_BUSY1.Apart g) (s : State) :
    s.setBusy.getF g 0 = s.getF g 0 := by
  unfold State.setBusy
  dsimp only
  refine getF_setFs_apart _ _ ?_ ?_
  · simp only [List.forall_mem_cons]
    exact ⟨by decide, by decide, by simp⟩
  · simp only [List.forall_mem_cons]
    exact ⟨h0, h1, by simp⟩

theorem sampleOut_spec (s : State) (p k : Nat) (r : Row) (g : PSet) (ok : Bool) (bad : Nat) (d : Nat × Nat × Bool) (stop : Option Nat) :
    ((s.sampleOut p k r g ok bad d stop).serve p).outs = (s.serve p).outs ++ [rowOut r d stop ok] ∧
    (s.sampleOut p k r g ok bad d stop).mem = s.mem ∧ (s.sampleOut p k r g ok bad d stop).reqs = s.reqs ∧
    (s.sampleOut p k r g ok bad d stop).getF F.SMP_STATUS_ROWS 0 = satAdd F.SMP_STATUS_ROWS.w (s.getF F.SMP_STATUS_ROWS 0) 1 := by
  have hc := rowCounted_eq s p k g ok bad d.2.2
  have hr := rowCounted_rows s p k g ok bad d.2.2
  rw [sampleOut_def]
  generalize s.rowCounted p k g ok bad d.2.2 = w at hc hr
  have hs : w.serve p = s.serve p := by
    rw [hc]
    rfl
  have hb := setBusy_eq (w.modServe p (fun v => { v with outs := v.outs ++ [rowOut r d stop ok] }))
  have hbg := setBusy_getF (g := F.SMP_STATUS_ROWS) (.inr (by decide)) (.inr (by decide))
    (w.modServe p (fun v => { v with outs := v.outs ++ [rowOut r d stop ok] }))
  have hm := modServe_same w p (fun v => { v with outs := v.outs ++ [rowOut r d stop ok] })
  refine ⟨?_, ?_, ?_, hbg.trans hr⟩
  · rw [hb, ← hs]
    exact congrArg Serve.outs hm
  · rw [hb, hc]
    rfl
  · rw [hb, hc]
    rfl

/-! ## The reads of a row -/

/-- Of a row's candidates, those that stay, in the order of the draw. -/
def rowCands (s : State) (p : Nat) (g : PSet) (win : List Nat) (l : List Cand) : List Cand :=
  rankCands ((l.take (s.getF F.SMP_PSHAPE_KM p)).map (adjust g win))

/-- The token of a row: drawn, or free without any candidate. -/
def State.rowDraw (s : State) (g : PSet) (seed n : Nat) (cands : List Cand) : State × (Nat × Nat × Bool) :=
  if cands = [] then (s.takeFree.1, (s.takeFree.2 % 2 ^ 32, s.takeFree.2 / 2 ^ 32, false)) else (s, draw g seed n cands)

theorem rowDraw_some {cands : List Cand} (h : cands ≠ []) (seed n : Nat) : s.rowDraw g seed n cands = (s, draw g seed n cands) := if_neg h

theorem rowDraw_state (s : State) (g : PSet) (seed n : Nat) (cands : List Cand) :
    (s.rowDraw g seed n cands).1 = s ∨ (s.rowDraw g seed n cands).1 = s.takeFree.1 := by
  unfold State.rowDraw
  split
  · exact .inr rfl
  · exact .inl rfl

/-- A row whose reads are done. -/
def State.rowDone (s : State) (p : Nat) (r : Row) (q : Req) (g : PSet) (ok : Bool) (m : Nat) (bs : List Byte) (win last : List Nat) : State :=
  let l := dropCands (s.getF F.SMP_PSHAPE_VOCAB p) (rankCands (candsOf m bs)) []
  let x := s.rowDraw g q.seed (r.pos + r.tokens) (rowCands s p g win l.1)
  x.1.sampleOut p (r.lane % 2) r g ok l.2 x.2 (g.stops.findIdx? (stopHit (last ++ [x.2.1])))

/-- The reads of a row that succeed. -/
structure State.RowReads (s : State) (p : Nat) (sym : Syms) (r : Row) (bs : List Byte) (g : PSet) (ok : Bool) (win last : List Nat)
    (u1 u2 u3 u4 : State) : Prop where
  cands : s.readOpt (s.getF F.SMP_PCAND_BASE p * 64 + r.lane * s.getF F.SMP_PSHAPE_SHARDS p * s.getF F.SMP_PSHAPE_K p * 8)
    (s.getF F.SMP_PSHAPE_SHARDS p * s.getF F.SMP_PSHAPE_K p * 8) sym = (u1, some bs)
  set : u1.readSet p (s.req r.ent).sparam sym = (u2, some g, ok)
  win : u2.readTokens p (s.req r.ent) (max (r.pos + r.tokens - g.window) (if g.penPrompt = true then 0 else (s.req r.ent).promptLen))
    (r.pos + r.tokens) sym = (u3, some win)
  last : u3.readTokens p (s.req r.ent) (max (r.pos + r.tokens - 15) (s.req r.ent).promptLen) (r.pos + r.tokens) sym = (u4, some last)

theorem sampleRow_reads {ok : Bool} {win last : List Nat} {u1 u2 u3 u4 : State} (h : s.RowReads p sym r bs g ok win last u1 u2 u3 u4) :
    s.sampleRow p sym r = u4.rowDone p r (s.req r.ent) g ok (s.getF F.SMP_PSHAPE_SHARDS p * s.getF F.SMP_PSHAPE_K p) bs win last := by
  obtain ⟨h1, h2, h3, h4⟩ := h
  unfold State.sampleRow
  dsimp only
  rw [h1]
  dsimp only
  rw [h2]
  dsimp only
  rw [h3]
  dsimp only
  rw [h4]
  dsimp only
  unfold State.rowDone State.rowDraw rowCands
  dsimp only
  split
  · rfl
  · rfl

theorem rowDone_spec (s : State) (p : Nat) (r : Row) (q : Req) (g : PSet) (ok : Bool) (m : Nat) (bs : List Byte) (win last : List Nat) :
    (let l := (dropCands (s.getF F.SMP_PSHAPE_VOCAB p) (rankCands (candsOf m bs)) []).1
     let cands := rankCands ((l.take (s.getF F.SMP_PSHAPE_KM p)).map (adjust g win))
     let d := draw g q.seed (r.pos + r.tokens) cands
     let t := s.rowDone p r q g ok m bs win last
     ∃ o, (t.serve p).outs = (s.serve p).outs ++ [o] ∧ o.lane = r.lane ∧ o.ent = r.ent ∧ o.badSet = !ok ∧ t.mem = s.mem ∧ t.reqs = s.reqs ∧
       o.stop = g.stops.findIdx? (stopHit (last ++ [o.token])) ∧
       t.getF F.SMP_STATUS_ROWS 0 = satAdd F.SMP_STATUS_ROWS.w (s.getF F.SMP_STATUS_ROWS 0) 1 ∧
       (cands ≠ [] → o.token = d.1 ∧ o.logprob = d.2.1 ∧ o.degenerate = d.2.2 ∧ o.token ∈ l.map (·.1) ∧
         o.token < s.getF F.SMP_PSHAPE_VOCAB p)) := by
  intro l cands d t
  have hk := dropCands_kept (s.getF F.SMP_PSHAPE_VOCAB p) (rankCands (candsOf m bs)) []
  have hst := rowDraw_state s g q.seed (r.pos + r.tokens) cands
  have hdraw := rowDraw_some (s := s) (g := g) (cands := cands) (seed := q.seed) (n := r.pos + r.tokens)
  have hdone : t = (s.rowDraw g q.seed (r.pos + r.tokens) cands).1.sampleOut p (r.lane % 2) r g ok
      (dropCands (s.getF F.SMP_PSHAPE_VOCAB p) (rankCands (candsOf m bs)) []).2 (s.rowDraw g q.seed (r.pos + r.tokens) cands).2
      (g.stops.findIdx? (stopHit (last ++ [(s.rowDraw g q.seed (r.pos + r.tokens) cands).2.1]))) := rfl
  generalize s.rowDraw g q.seed (r.pos + r.tokens) cands = x at hst hdraw hdone
  obtain ⟨h1, h2, h3, h4⟩ := sampleOut_spec x.1 p (r.lane % 2) r g ok
      (dropCands (s.getF F.SMP_PSHAPE_VOCAB p) (rankCands (candsOf m bs)) []).2 x.2 (g.stops.findIdx? (stopHit (last ++ [x.2.1])))
  rw [← hdone] at h1 h2 h3 h4
  have hx : x.1.serve p = s.serve p ∧ x.1.mem = s.mem ∧ x.1.reqs = s.reqs ∧ x.1.getF F.SMP_STATUS_ROWS 0 = s.getF F.SMP_STATUS_ROWS 0 := by
    rcases hst with e | e <;> rw [e] <;> exact ⟨rfl, rfl, rfl, rfl⟩
  obtain ⟨x1, x2, x3, x4⟩ := hx
  refine ⟨_, h1.trans (by rw [x1]), rfl, rfl, rfl, h2.trans x2, h3.trans x3, rfl, h4.trans (by rw [x4]), fun hc => ?_⟩
  have hd : x.2 = d := congrArg Prod.snd (hdraw hc)
  have hmem : d.1 ∈ l.map (·.1) := by
    have hm := ((rankCands_spec ((l.take (s.getF F.SMP_PSHAPE_KM p)).map (adjust g win))).1.map (·.1)).subset (draw_mem g q.seed (r.pos + r.tokens) hc)
    rw [List.map_map] at hm
    exact ((List.take_sublist _ l).map _).subset hm
  obtain ⟨y, hy, he⟩ := List.mem_map.1 hmem
  refine ⟨by rw [← hd]; rfl, by rw [← hd]; rfl, by rw [← hd]; rfl, ?_, ?_⟩
  · exact hd ▸ hmem
  · have hv := (hk.fresh y hy).1
    rw [he, ← hd] at hv
    exact hv

theorem sampleRow_exec {rest : List Row} (hp : p < 16) (hr : s.rowsLeft p (lane % 2) = r :: rest) (hl : r.lane = lane)
    (ha : s.rowsAhead p (lane % 2) = false) : exec (.sampleRow p lane sym) s = .next (s.sampleRow p sym r) := by
  refine (if_neg (not_not.2 hp)).trans ?_
  rw [hr]
  exact if_neg (by rw [ha]; simpa using hl)

/-! ## A read that fails -/

theorem sampleRow_fails (h : s.readOpt (s.getF F.SMP_PCAND_BASE p * 64 + r.lane * s.getF F.SMP_PSHAPE_SHARDS p * s.getF F.SMP_PSHAPE_K p * 8)
      (s.getF F.SMP_PSHAPE_SHARDS p * s.getF F.SMP_PSHAPE_K p * 8) sym = (u, none)) : s.sampleRow p sym r = u.sampleFailed p := by
  unfold State.sampleRow
  dsimp only
  rw [h]

theorem rowsLeft_badRead (h : (s.serve p).badRead = true) (k : Nat) : s.rowsLeft p k = [] := by
  have hd : s.samplesDue p = false := by simp [State.samplesDue, h]
  exact if_pos (by rw [hd]; decide)

theorem sampleFailed_spec (s : State) (p : Nat) : ((s.sampleFailed p).serve p).badRead = true ∧ ((s.sampleFailed p).serve p).outs = (s.serve p).outs ∧
    (s.sampleFailed p).getF F.SMP_ERR_READ 0 = satAdd F.SMP_ERR_READ.w (s.getF F.SMP_ERR_READ 0) 1 := by
  have hm := modServe_same (s.addF F.SMP_ERR_READ 0 1) p (fun v => { v with badRead := true })
  have hg : ((s.addF F.SMP_ERR_READ 0 1).modServe p (fun v => { v with badRead := true })).getF F.SMP_ERR_READ 0 = _ :=
    getF_addF_same (s := s) (f := F.SMP_ERR_READ) (by decide) 0 1
  unfold State.sampleFailed
  generalize (s.addF F.SMP_ERR_READ 0 1).modServe p (fun v => { v with badRead := true }) = w at hm hg
  have hb : w.setBusy.serve p = w.serve p := by
    rw [setBusy_eq]
    rfl
  refine ⟨by rw [hb, hm], by rw [hb, hm]; rfl, ?_⟩
  rw [setBusy_getF (.inl (by decide)) (.inl (by decide)), hg]

end Sys2Proof.Machine
end

section
/-! SUPPORT. The boundary of a step: what its end leaves of the serving state, and the changes that waited. -/

namespace Sys2Proof.Machine

variable {s t u : State} {p k i tb : Nat} {L : List Nat}

/-! ## The end of the step -/

/-- The configuration that waits is the same. -/
def State.SameNew (s t : State) (p : Nat) : Prop := (t.serve p).newCfg = (s.serve p).newCfg

theorem serve_congr (h : t.serves = s.serves) (p : Nat) : t.serve p = s.serve p := by
  rw [State.serve, h]
  rfl

namespace State.SameNew

theorem refl (s : State) (p : Nat) : s.SameNew s p := rfl

theorem trans (h : s.SameNew t p) (h' : t.SameNew u p) : s.SameNew u p := Eq.trans h' h

theorem of_serves (h : t.serves = s.serves) (p : Nat) : s.SameNew t p := congrArg Serve.newCfg (serve_congr h p)

theorem posts (h : s.PostOp t p) : s.SameNew t p := by
  obtain ⟨l, hl⟩ := h.serve
  rw [State.SameNew, hl]

theorem mod (s : State) (p : Nat) {f : Serve → Serve} (h : ∀ v, (f v).newCfg = v.newCfg) : s.SameNew (s.modServe p f) p := by
  rw [State.SameNew, modServe_same, h]

theorem foldl {α : Type} {f : State → α → State} (h : ∀ s x, State.SameNew s (f s x) p) (l : List α) (s : State) : s.SameNew (l.foldl f s) p := by
  induction l generalizing s with
  | nil => exact refl s p
  | cons x l ih => exact (h s x).trans (ih _)

end State.SameNew

theorem refundRow_serves (s : State) (p : Nat) (r : Row) : (s.refundRow p r).serves = s.serves := by
  unfold State.refundRow
  split <;> rfl

theorem dropReq_new (s : State) (p i : Nat) : s.SameNew (s.dropReq p i) p := State.SameNew.mod (s.setReq i Req.init) p fun _ => rfl

theorem readR_ringOp (a n : Nat) : s.RingOp (s.readR a n []).1 :=
  (State.RingOp.markAt a).trans ((State.MemOp.read _ _ []).ringOp.trans (State.RingOp.busError _))

theorem peekSub_ringOp (s : State) (k : Nat) : s.RingOp (s.peekSub k).1 := by
  unfold State.peekSub
  dsimp only
  split
  · exact .refl
  · have h := readR_ringOp (s := s) (s.ringBase (s.ring k) + 64 + (s.ring k).head % 2 ^ (s.ring k).log2n * (s.ring k).ent) 64
    split
    · next e => exact h.of_eq e
    · next e => exact h.of_eq e

theorem popSub_ringOp (s : State) (k : Nat) : s.RingOp (s.popSub k) := (State.RingOp.setRing _ _).trans (.ringWrite _ _ _)

theorem submitEntry_new (s : State) (p : Nat) (e : List Byte) : s.SameNew (s.submitEntry p e) p := by
  by_cases h : s.admitCheck p e = 0
  · rw [submitEntry_admits h]
    exact .mod (s.setReq _ _) p fun _ => rfl
  · rw [submitEntry_refuses h]
    exact .posts (.complete _ _)

theorem cancelEntry_new (s : State) (p tb : Nat) (e : List Byte) : s.SameNew (s.cancelEntry p tb e) p := by
  unfold State.cancelEntry
  dsimp only
  split
  · exact .posts (.complete _ _)
  · split
    · exact .posts (.complete _ _)
    · next i _ =>
      exact (dropReq_new s p i).trans
        ((State.SameNew.of_serves (t := (s.dropReq p i).addF F.RQT_COUNT_CANCELLED p 1) rfl p).trans (.posts (.complete _ _)))

theorem takeSub_new (s : State) (p k tb : Nat) (e : List Byte) : s.SameNew (s.takeSub p k tb e) p := by
  refine (State.SameNew.posts ((popSub_ringOp s k).posts p)).trans ?_
  unfold State.takeSub
  dsimp only
  split
  · exact cancelEntry_new _ p tb e
  · exact submitEntry_new _ p e

theorem takeRing_new (n : Nat) (s : State) (p k tb : Nat) : s.SameNew (s.takeRing p k tb n) p := by
  induction n generalizing s with
  | zero => exact .refl s p
  | succ n ih =>
    have h := State.SameNew.posts ((peekSub_ringOp s k).posts p)
    unfold State.takeRing
    generalize s.peekSub k = x at h
    obtain ⟨v, o⟩ := x
    rcases o with _ | e
    · exact h
    · exact h.trans ((takeSub_new v p k tb e).trans (ih _))

theorem takeRings_new (s : State) (p tb : Nat) : s.SameNew (s.takeRings p tb) p :=
  State.SameNew.foldl (f := fun s k => s.takeRing p k tb (2 ^ (s.ring k).log2n)) (fun s k => takeRing_new (2 ^ (s.ring k).log2n) s p k tb) _ s

theorem deliverToken_new (s : State) (p t : Nat) (r : Row) (o : SOut) : s.SameNew (s.deliverToken p t r o) p := by
  obtain ⟨v, bs, bs', -, hv, e⟩ := deliverToken_ends s p t r o
  have h1 : s.SameNew (v.setReq r.ent ((s.req r.ent).told o t)) p := .of_serves hv p
  rw [e]
  split
  · exact h1.trans ((dropReq_new _ p _).trans (.posts (.complete _ _)))
  · exact h1.trans (.posts (.complete _ _))

theorem finishRow_new (s : State) (p t : Nat) (r : Row) : s.SameNew (s.finishRow p t r) p := by
  unfold State.finishRow
  dsimp only
  split
  · exact deliverToken_new (s.setReq r.ent ((s.req r.ent).advance r)) p t r _
  · exact .refl s p

theorem State.SameNew.ite {c : Prop} [Decidable c] (h : s.SameNew t p) (h' : s.SameNew u p) : s.SameNew (if c then t else u) p := by
  split
  · exact h
  · exact h'

/-- The step is over: no row of it is left. -/
theorem endStep_spec (s : State) (p t : Nat) : s.SameNew (s.endStep p t) p ∧ ((s.endStep p t).serve p).rows = [] ∧
    ((s.endStep p t).serve p).outs = [] := by
  have hm : ∀ v : State, v.SameNew (v.modServe p (fun v => { v with rows := [], outs := [], badRead := false, failed := false })) p ∧
      ((v.modServe p (fun v => { v with rows := [], outs := [], badRead := false, failed := false })).serve p).rows = [] ∧
      ((v.modServe p (fun v => { v with rows := [], outs := [], badRead := false, failed := false })).serve p).outs = [] := fun v =>
    ⟨.mod v p fun _ => rfl, congrArg Serve.rows (modServe_same v p _), congrArg Serve.outs (modServe_same v p _)⟩
  unfold State.endStep
  dsimp only
  refine ⟨State.SameNew.trans ?_ (hm _).1, (hm _).2⟩
  refine State.SameNew.trans ?_ (.ite (.refl _ p) (.foldl (fun v r => finishRow_new v p _ r) _ _))
  refine State.SameNew.trans ?_ (takeRings_new _ p t)
  refine State.SameNew.trans ?_ (.ite (.mod _ p fun _ => rfl) (.refl _ p))
  refine State.SameNew.trans ?_ (.ite (.foldl (fun v r => .of_serves (refundRow_serves v p r) p) _ _) (.refl _ p))
  exact .ite (.refl s p) (.of_serves rfl p)

/-! ## The changes that waited -/

/-- The changes of configurations, customers and targets made. -/
def State.applied (s : State) (p : Nat) : State := ((s.applyCfg p).applyNewSmp p).applyCusts p

theorem applyCfg_some {c : List Byte} (h : (s.serve p).newCfg = some c) : s.applyCfg p =
    (s.modServe p (fun v => { v with cfg := c, newCfg := none })).setFs p
      [(F.RQT_SERVE_OPEN, 1), (F.RQT_SERVE_COMPOSER, bit (bitAt (leAt c 1 1) 0 || (s.plan (scPlan c)).nodes == 1))] := by
  unfold State.applyCfg
  rw [h]

theorem applyCfg_none (h : (s.serve p).newCfg = none) : s.applyCfg p = s := by
  unfold State.applyCfg
  rw [h]

theorem serve_setFs (s : State) (i : Nat) (l : List (Fld × Nat)) (p : Nat) : (s.setFs i l).serve p = s.serve p := by
  rw [setFs_eq]
  rfl

theorem applyCfg_spec (s : State) (p : Nat) :
    ((s.applyCfg p).serve p).newCfg = none ∧ ((s.applyCfg p).serve p).rows = (s.serve p).rows ∧ ((s.applyCfg p).serve p).outs = (s.serve p).outs ∧
    ∀ c, (s.serve p).newCfg = some c → ((s.applyCfg p).serve p).cfg = c ∧ (s.applyCfg p).flag F.RQT_SERVE_OPEN p = true := by
  rcases h : (s.serve p).newCfg with _ | c
  · rw [applyCfg_none h]
    exact ⟨h, rfl, rfl, fun c hc => nomatch hc⟩
  · have hm := modServe_same s p (fun v => { v with cfg := c, newCfg := none })
    rw [applyCfg_some h, serve_setFs, hm]
    refine ⟨rfl, rfl, rfl, fun c' hc => ?_⟩
    cases hc
    refine ⟨rfl, ?_⟩
    generalize s.modServe p (fun v => { v with cfg := c, newCfg := none }) = w
    rw [setFs_cons, setFs_cons, setFs_nil, flag_setF_apart (by decide) (.inr (by decide))]
    exact flag_setF_bit (f := F.RQT_SERVE_OPEN) (by decide) rfl true

theorem applySmp_eq (s : State) (p : Nat) (v : Bool) (c : List Byte) : s.applySmp p v c = { s with regs := (s.applySmp p v c).regs } := setFs_eq ..

theorem applySmp_open (s : State) (p : Nat) (v : Bool) (c : List Byte) :
    (s.applySmp p v c).flag F.RQT_SERVE_OPEN p = s.flag F.RQT_SERVE_OPEN p := by
  have h : (s.applySmp p v c).getF F.RQT_SERVE_OPEN p = s.getF F.RQT_SERVE_OPEN p := by
    refine getF_setFs_apart _ _ ?_ ?_
    · simp only [List.forall_mem_cons]
      exact ⟨by decide, by decide, by decide, by decide, by decide, by decide, by decide, by decide, by decide, by simp⟩
    · simp only [List.forall_mem_cons]
      exact ⟨.inl (by decide), .inl (by decide), .inl (by decide), .inl (by decide), .inl (by decide), .inl (by decide), .inl (by decide),
        .inl (by decide), .inl (by decide), by simp⟩
  rw [State.flag, State.flag, h]

theorem applyNewSmp_spec (s : State) (p : Nat) :
    ((s.applyNewSmp p).serve p) = { s.serve p with newSmp := none } ∧ (s.applyNewSmp p).flag F.RQT_SERVE_OPEN p = s.flag F.RQT_SERVE_OPEN p := by
  unfold State.applyNewSmp
  rcases h : (s.serve p).newSmp with _ | c
  · refine ⟨?_, rfl⟩
    generalize s.serve p = v at h
    cases v
    cases h
    rfl
  · dsimp only
    have he := applySmp_eq s p c.1 c.2
    have ho := applySmp_open s p c.1 c.2
    generalize s.applySmp p c.1 c.2 = w at he ho
    have hw : w.serve p = s.serve p := by
      rw [he]
      rfl
    exact ⟨(modServe_same w p _).trans (by rw [hw]), ho⟩

theorem applyCusts_fold (l : List (Nat × List Byte)) (s : State) (p : Nat) : (l.foldl (fun s x => s.applyCust p x) s).serves = s.serves ∧
    (l.foldl (fun s x => s.applyCust p x) s).regs = s.regs := by
  induction l generalizing s with
  | nil => exact ⟨rfl, rfl⟩
  | cons x l ih =>
    obtain ⟨h1, h2⟩ := ih (s.applyCust p x)
    exact ⟨h1, h2⟩

/-- The targets of the priorities, written. -/
def State.targetsSet (s : State) (p : Nat) (ts : List Nat) : State :=
  ts.zipIdx.foldl (fun (s : State) (x : Nat × Nat) => s.setF F.RQT_PRIO_TARGET_US (p * 4 + x.2) x.1) s

theorem targetsSet_spec (s : State) (p : Nat) (ts : List Nat) : (s.targetsSet p ts).serves = s.serves ∧
    (s.targetsSet p ts).getF F.RQT_SERVE_OPEN p = s.getF F.RQT_SERVE_OPEN p := by
  unfold State.targetsSet
  generalize ts.zipIdx = l
  induction l generalizing s with
  | nil => exact ⟨rfl, rfl⟩
  | cons x l ih =>
    obtain ⟨h1, h2⟩ := ih (s.setF F.RQT_PRIO_TARGET_US (p * 4 + x.2) x.1)
    exact ⟨h1, h2.trans (getF_setF_apart s (by decide) (.inl (by decide)))⟩

theorem applyCusts_def (s : State) (p : Nat) : ∃ w : State, w.serves = s.serves ∧ w.getF F.RQT_SERVE_OPEN p = s.getF F.RQT_SERVE_OPEN p ∧
    s.applyCusts p = w.modServe p (fun v => { v with custs := [], prios := none }) := by
  obtain ⟨h1, h2⟩ := applyCusts_fold (s.serve p).custs s p
  unfold State.applyCusts
  dsimp only
  generalize (s.serve p).custs.foldl (fun s x => s.applyCust p x) s = w at h1 h2
  have hg : w.getF F.RQT_SERVE_OPEN p = s.getF F.RQT_SERVE_OPEN p := State.KeepsRegs.of_regs h2 [] _ _ List.not_mem_nil
  rcases (w.serve p).prios with _ | ts
  · exact ⟨w, h1, hg, rfl⟩
  · obtain ⟨h3, h4⟩ := targetsSet_spec w p ts
    exact ⟨w.targetsSet p ts, h3.trans h1, h4.trans hg, rfl⟩

theorem applyCusts_spec (s : State) (p : Nat) : (s.applyCusts p).serve p = { s.serve p with custs := [], prios := none } ∧
    (s.applyCusts p).flag F.RQT_SERVE_OPEN p = s.flag F.RQT_SERVE_OPEN p := by
  obtain ⟨w, h1, h2, e⟩ := applyCusts_def s p
  have hm := modServe_same w p (fun v => { v with custs := [], prios := none })
  rw [serve_congr h1] at hm
  rw [e]
  refine ⟨hm, ?_⟩
  rw [State.flag, State.flag, ← h2]
  rfl

theorem applied_spec (s : State) (p : Nat) : (∃ v : Serve, (s.applied p).serve p = { v with newSmp := none, custs := [], prios := none } ∧
      v = (s.applyCfg p).serve p) ∧
    (s.applied p).flag F.RQT_SERVE_OPEN p = (s.applyCfg p).flag F.RQT_SERVE_OPEN p := by
  obtain ⟨h1, h2⟩ := applyNewSmp_spec (s.applyCfg p) p
  obtain ⟨h3, h4⟩ := applyCusts_spec ((s.applyCfg p).applyNewSmp p) p
  refine ⟨⟨_, ?_, rfl⟩, h4.trans h2⟩
  rw [State.applied, h3, h1]

end Sys2Proof.Machine
end

section
/-! SUPPORT. The boundary of the composer: page moves, adapters, prefills again and refills keep what the changes have set. -/

namespace Sys2Proof.Machine

variable {s t u : State} {p k i j tb : Nat} {L : List Nat}

/-! ## What the rest of the boundary keeps -/

/-- Registers that the rest of a boundary may write. -/
def boundaryRegs : List Reg := .RQT_COUNT :: .RQT_PSTAT :: .RQT_PAGES :: ringRegs

/-- `t` is `s` after more of a boundary: its settings stand, no row comes, and no request outside `L` or with a page move. -/
structure State.BoundOp (s t : State) (p : Nat) (L : List Nat) : Prop where
  settings : (t.serve p).cfg = (s.serve p).cfg ∧ (t.serve p).newCfg = (s.serve p).newCfg ∧ (t.serve p).newSmp = (s.serve p).newSmp ∧
    (t.serve p).custs = (s.serve p).custs ∧ (t.serve p).prios = (s.serve p).prios
  rows : (s.serve p).rows = [] → (t.serve p).rows = []
  outs : (s.serve p).outs = [] → (t.serve p).outs = []
  ids : (∀ i ∈ s.reqIds p, i ∈ L) → ∀ i ∈ t.reqIds p, i ∈ L
  spill : ∀ i, (s.req i).spill = [] → (t.req i).spill = []
  regs : ∀ (g : Fld) (j : Nat), g.reg ∉ boundaryRegs → t.getF g j = s.getF g j

theorem mem_reqIds : i ∈ s.reqIds p ↔ (∃ v : Req, (i, v) ∈ s.reqs ∧ v.state ≠ 0) ∧ s.getF F.RQT_PART_ENT_BASE p ≤ i ∧
    i < s.getF F.RQT_PART_ENT_BASE p + s.getF F.RQT_PART_ENT_COUNT p := by
  simp only [State.reqIds, List.mem_map, List.mem_filter, Bool.and_eq_true, decide_eq_true_eq, bne_iff_ne]
  constructor
  · rintro ⟨⟨j, v⟩, ⟨hm, ⟨h1, h2⟩, h3⟩, rfl⟩
    exact ⟨⟨v, hm, h3⟩, h1, h2⟩
  · rintro ⟨⟨v, hm, h3⟩, h1, h2⟩
    exact ⟨(i, v), ⟨hm, ⟨h1, h2⟩, h3⟩, rfl⟩

theorem reqIds_congr (h : t.reqs = s.reqs) (hr : ∀ (g : Fld) (j : Nat), g.reg ∉ boundaryRegs → t.getF g j = s.getF g j) (p : Nat) :
    t.reqIds p = s.reqIds p := by
  rw [State.reqIds, State.reqIds, h, hr _ p (by decide), hr _ p (by decide)]

theorem mem_reqIds_setReq {x : Req} (h : j ∈ (s.setReq i x).reqIds p) : j = i ∨ j ∈ s.reqIds p := by
  obtain ⟨⟨v, hm, hv⟩, hr⟩ := mem_reqIds.1 h
  rcases mem_tset hm with he | ⟨hm, -⟩
  · exact .inl (congrArg Prod.fst he)
  · exact .inr (mem_reqIds.2 ⟨⟨v, hm, hv⟩, hr⟩)

namespace State.BoundOp

theorem refl (s : State) (p : Nat) (L : List Nat) : s.BoundOp s p L :=
  ⟨⟨rfl, rfl, rfl, rfl, rfl⟩, id, id, id, fun _ => id, fun _ _ _ => rfl⟩

theorem trans (h : s.BoundOp t p L) (h' : t.BoundOp u p L) : s.BoundOp u p L := by
  obtain ⟨a1, a2, a3, a4, a5⟩ := h.settings
  obtain ⟨b1, b2, b3, b4, b5⟩ := h'.settings
  exact ⟨⟨b1.trans a1, b2.trans a2, b3.trans a3, b4.trans a4, b5.trans a5⟩, h'.rows ∘ h.rows, h'.outs ∘ h.outs, h'.ids ∘ h.ids,
    fun i => h'.spill i ∘ h.spill i, fun g j hg => (h'.regs g j hg).trans (h.regs g j hg)⟩

/-- An operation that leaves the serving state and the requests alone. -/
theorem frame (hs : t.serves = s.serves) (hq : t.reqs = s.reqs) (hr : ∀ (g : Fld) (j : Nat), g.reg ∉ boundaryRegs → t.getF g j = s.getF g j) :
    s.BoundOp t p L := by
  have hv := serve_congr hs p
  refine ⟨by rw [hv]; exact ⟨rfl, rfl, rfl, rfl, rfl⟩, by rw [hv]; exact id, by rw [hv]; exact id, by rw [reqIds_congr hq hr]; exact id,
    fun i h => ?_, hr⟩
  rw [State.req, hq]
  exact h

theorem ofRing (h : s.RingOp t) : s.BoundOp t p L :=
  frame (by rw [h.frame]) (by rw [h.frame]) fun g j hg => h.regs g j fun h' => hg (by simp only [boundaryRegs, List.mem_cons, h', or_true])

theorem ofPost (h : s.PostOp t p) : s.BoundOp t p L := by
  have hr : ∀ (g : Fld) (j : Nat), g.reg ∉ boundaryRegs → t.getF g j = s.getF g j := fun g j hg => h.regs g j fun h' => hg (by
    simp only [boundaryRegs, List.mem_cons, h', or_true])
  obtain ⟨l, hl⟩ := h.serve
  exact ⟨by rw [hl]; exact ⟨rfl, rfl, rfl, rfl, rfl⟩, by rw [hl]; exact id, by rw [hl]; exact id, by rw [reqIds_congr h.reqs hr]; exact id,
    fun i hi => by rw [h.req]; exact hi, hr⟩

theorem foldl {α : Type} {f : State → α → State} {l : List α} (h : ∀ s, ∀ x ∈ l, State.BoundOp s (f s x) p L) (s : State) :
    s.BoundOp (l.foldl f s) p L := by
  induction l generalizing s with
  | nil => exact refl s p L
  | cons x l ih => exact (h s x List.mem_cons_self).trans (ih (fun s x hx => h s x (List.mem_cons_of_mem _ hx)) _)

theorem setReq {x : Req} (hi : i ∈ L) (hx : (s.req i).spill = [] → x.spill = []) : s.BoundOp (s.setReq i x) p L where
  settings := ⟨rfl, rfl, rfl, rfl, rfl⟩
  rows := id
  outs := id
  ids := fun h j hj => (mem_reqIds_setReq hj).elim (fun e => e ▸ hi) (h j)
  spill := fun j hj => by
    by_cases he : j = i
    · subst he
      rw [State.setReq_req_same]
      exact hx hj
    · rw [State.setReq_req_ne _ _ _ he]
      exact hj
  regs := fun _ _ _ => rfl

theorem dropReq (hi : i ∈ L) : s.BoundOp (s.dropReq p i) p L := by
  have hm := modServe_same (s.setReq i Req.init) p (fun x =>
    { x with rows := x.rows.filter (fun r => r.ent != i), outs := x.outs.filter (fun o => o.ent != i) })
  have h := setReq (s := s) (p := p) (L := L) (x := Req.init) hi fun _ => rfl
  refine ⟨?_, fun h0 => ?_, fun h0 => ?_, h.ids, h.spill, h.regs⟩
  · rw [State.dropReq, hm]
    exact ⟨rfl, rfl, rfl, rfl, rfl⟩
  · rw [State.dropReq, hm]
    exact (congrArg (List.filter _) h0).trans List.filter_nil
  · rw [State.dropReq, hm]
    exact (congrArg (List.filter _) h0).trans List.filter_nil

theorem evictReq (hi : i ∈ L) (tb : Nat) : s.BoundOp (s.evictReq p i tb) p L := by
  have ha : (s.dropReq p i).BoundOp ((s.dropReq p i).addF F.RQT_COUNT_EVICTED p 1) p L := frame rfl rfl fun g j hg =>
    getF_setF_apart _ (by decide) (.inl fun h => hg (by rw [h]; decide))
  exact (dropReq hi).trans (ha.trans (ofPost (.complete _ _)))

end State.BoundOp

/-! ## Page moves -/

/-- The page moves of one request, made. -/
def State.moveReq (s : State) (i : Nat) : State :=
  s.setReq i { s.req i with
    pages := (s.req i).pages.map (fun g => (((s.req i).spill.find? (fun m => m.1 == g)).map (·.2)).getD g), spill := [] }

theorem moveReq_op (hi : i ∈ L) : s.BoundOp (s.moveReq i) p L := .setReq hi fun _ => rfl

theorem applyMoves_def (s : State) (p : Nat) : s.applyMoves p = (s.reqIds p).foldl State.moveReq s := rfl

theorem applyMoves_op (s : State) (p : Nat) : s.BoundOp (s.applyMoves p) p (s.reqIds p) :=
  .foldl (fun _ _ hx => moveReq_op hx) s

theorem moves_spill (l : List Nat) (s : State) (hi : i ∈ l) : ((l.foldl State.moveReq s).req i).spill = [] := by
  induction l generalizing s with
  | nil => cases hi
  | cons x l ih =>
    rcases List.mem_cons.1 hi with rfl | hi
    · have h : ((s.moveReq i).req i).spill = [] := by rw [State.moveReq, State.setReq_req_same]
      exact (State.BoundOp.foldl (p := 0) (L := l) (f := State.moveReq) (fun _ _ hx => moveReq_op hx) (s.moveReq i)).spill i h
    · exact ih _ hi

/-! ## Adapters -/

theorem readDirs_ringOp (s : State) (k : Nat) : s.RingOp (s.readDirs k) := by
  unfold State.readDirs
  split
  · exact .refl
  · exact State.RingOp.foldl (fun t i => readR_ringOp _ _) _

theorem setLoadDir_ringOp (s : State) (k : Nat) (a : ALoad) : s.RingOp (s.setLoadDir k a) := by
  have h : ∀ i st rank id len dig, s.RingOp (s.setDir k i st rank id len dig) := fun i st rank id len dig => by
    unfold State.setDir
    dsimp only
    split
    · exact .refl
    · exact .writeQ _ _
  unfold State.setLoadDir
  split
  · exact h ..
  · exact h ..

theorem applyAdapters_op (s : State) (k : Nat) : s.BoundOp (s.applyAdapters k) p L := by
  have h : s.RingOp ((s.plan k).aloads.foldl (fun s a => s.setLoadDir k a) s) := State.RingOp.foldl (fun t a => setLoadDir_ringOp t k a) _
  exact (State.BoundOp.ofRing h).trans (.frame rfl rfl fun _ _ _ => rfl)

/-! ## Prefills again, refills and counts -/

/-- One request is prefilled again, or ends. -/
def State.redoReq (p t : Nat) (s : State) (i : Nat) : State :=
  if (s.req i).pos = 0 ∧ (s.req i).redo = 0 then s
  else if 4096 < (s.req i).generated then s.evictReq p i t
  else s.setReq i { s.req i with redo := max (s.req i).redo (s.req i).pos, pos := 0, state := 2 }

theorem redoReq_op (hi : i ∈ L) (tb : Nat) : s.BoundOp (s.redoReq p tb i) p L := by
  unfold State.redoReq
  split
  · exact .refl s p L
  · split
    · exact .evictReq hi tb
    · exact .setReq hi id

theorem rePrefill_def (s : State) (p t : Nat) : s.rePrefill p t = (s.reqIds p).foldl (State.redoReq p t) s := rfl

theorem rePrefill_op (h : ∀ i ∈ s.reqIds p, i ∈ L) (tb : Nat) : s.BoundOp (s.rePrefill p tb) p L := by
  rw [rePrefill_def]
  exact .foldl (fun _ x hx => redoReq_op (h x hx) tb) s

/-- One customer of a partition, refilled. -/
def State.refillAt (p : Nat) (s : State) (i : Nat) : State := s.setCust (s.custAt p i) ((s.cust (s.custAt p i)).refill s.now)

theorem refillAll_def (s : State) (p : Nat) :
    s.refillAll p = (List.range (s.getF F.RQT_PART_CUST_COUNT p)).foldl (State.refillAt p) s := rfl

theorem refillAll_eq (s : State) (p : Nat) : s.refillAll p = { s with custs := (s.refillAll p).custs } :=
  List.foldlRecOn (motive := fun t : State => t = { s with custs := t.custs }) _ _ rfl fun t ht i _ => by
    rw [ht]
    rfl

/-- An enabled customer's level does not exceed its burst. -/
def Cust.Ok (x : Cust) : Prop := x.en = true → x.level ≤ x.burst * 256

theorem refill_ok (x : Cust) (t : Nat) : (x.refill t).Ok := by
  intro h
  by_cases he : x.en = true
  · have hb : (x.refill t).burst = x.burst := by
      unfold Cust.refill
      rw [if_neg (not_not.2 he)]
      dsimp only
      split <;> rfl
    rw [hb]
    exact (refill_spec he).1
  · rw [show x.refill t = x from if_pos he] at h
    exact absurd h he

theorem refillAt_ok {a : Nat} (h : (s.cust a).Ok) (i : Nat) : ((s.refillAt p i).cust a).Ok := by
  by_cases he : a = s.custAt p i
  · subst he
    rw [State.refillAt, cust_setCust_same]
    exact refill_ok _ _
  · rw [State.refillAt, cust_setCust_ne _ _ _ he]
    exact h

theorem refills_ok {a : Nat} (l : List Nat) (s : State) (h : (s.cust a).Ok ∨ ∃ i ∈ l, a = s.custAt p i) : ((l.foldl (State.refillAt p) s).cust a).Ok := by
  induction l generalizing s with
  | nil => exact h.elim id fun ⟨i, hi, _⟩ => absurd hi List.not_mem_nil
  | cons x l ih =>
    refine ih _ ?_
    rcases h with h | ⟨i, hi, rfl⟩
    · exact .inl (refillAt_ok h x)
    · rcases List.mem_cons.1 hi with rfl | hi
      · refine .inl ?_
        rw [State.refillAt, cust_setCust_same]
        exact refill_ok _ _
      · exact .inr ⟨i, hi, rfl⟩

theorem refillAll_ok (s : State) (p : Nat) (hi : i < s.getF F.RQT_PART_CUST_COUNT p) : ((s.refillAll p).cust (s.custAt p i)).Ok := by
  rw [refillAll_def]
  exact refills_ok _ s (.inr ⟨i, List.mem_range.2 hi, rfl⟩)

theorem refreshRqt_eq (s : State) (p : Nat) : s.refreshRqt p = { s with regs := (s.refreshRqt p).regs } := setFs_eq ..

theorem getF_refreshRqt {g : Fld} (h : g.reg ∉ [Reg.RQT_PSTAT, .RQT_PAGES]) (s : State) (p j : Nat) : (s.refreshRqt p).getF g j = s.getF g j := by
  simp only [List.mem_cons, List.not_mem_nil, or_false, not_or] at h
  obtain ⟨h1, h2⟩ := h
  unfold State.refreshRqt
  dsimp only
  refine getF_setFs_ne _ ?_
  simp only [List.forall_mem_cons]
  exact ⟨.inl h1, .inl h1, .inl h1, .inl h1, .inl h2, .inl h2, by simp⟩

theorem refreshRqt_op (s : State) (p : Nat) : s.BoundOp (s.refreshRqt p) p L := by
  have he := refreshRqt_eq s p
  have hg := fun (g : Fld) (j : Nat) (h : g.reg ∉ [Reg.RQT_PSTAT, .RQT_PAGES]) => getF_refreshRqt h s p j
  generalize s.refreshRqt p = w at he hg
  refine .frame (by rw [he]) (by rw [he]) fun g j h => hg g j fun h' => h ?_
  simp only [List.mem_cons, List.not_mem_nil, or_false] at h'
  rcases h' with h' | h' <;> rw [h'] <;> decide

theorem refillAll_op (s : State) (p : Nat) : s.BoundOp (s.refillAll p) p L := by
  have he := refillAll_eq s p
  generalize s.refillAll p = w at he
  refine .frame (by rw [he]) (by rw [he]) fun g j _ => ?_
  rw [he]
  rfl

end Sys2Proof.Machine
end

section
/-! SUPPORT. The serving of requests, settled: submissions, the choice of rows, the boundary, spills, samples and tokens. -/

namespace Sys2Proof.Machine

variable {s t u v : State} {p k i tb : Nat} {areas : List Nat} {redo : Bool}

/-! ## The boundary of the composer -/

/-- The composer's boundary with the moves made, before its levels are refilled. -/
def State.movedOn (s : State) (p : Nat) (redo : Bool) (tb : Nat) : State :=
  let s := (((s.recomplete p).endStep p tb).applied p).applyMoves p
  let s := (s.readDirs (scPlan (s.serve p).cfg)).applyAdapters (scPlan (s.serve p).cfg)
  if redo then s.rePrefill p tb else s

/-- The composer's boundary before it composes a step. -/
def State.boundaryReady (s : State) (p : Nat) (redo : Bool) (tb : Nat) : State := ((s.movedOn p redo tb).refillAll p).refreshRqt p

theorem composerBoundary_def (s : State) (p : Nat) (redo : Bool) (areas : List Nat) : s.composerBoundary p redo areas =
    (let t := if (s.serve p).rows = [] then s.now else (s.part p).endAt
     let u := s.boundaryReady p redo t
     let o := u.otherNodes (u.serve p).cfg
     let v := o.1.writeTables p (o.1.serve p).cfg o.2
     State.refreshRqt
       (if u.flag F.RQT_SERVE_OPEN p = true ∧ u.flag F.RQT_SERVE_COMPOSER p = true then
          (if (v.nextStepOf p).isSome = true then v else v.compose p t areas o.2 ((v.reqIds p).length + 1))
        else u) p) := rfl

/-- What stands when a step has ended and the changes that waited are made. -/
structure State.Settled (s t : State) (p : Nat) : Prop where
  newCfg : (t.serve p).newCfg = none
  newSmp : (t.serve p).newSmp = none
  custs : (t.serve p).custs = []
  prios : (t.serve p).prios = none
  rows : (t.serve p).rows = []
  outs : (t.serve p).outs = []
  cfg : ∀ c, (s.serve p).newCfg = some c → (t.serve p).cfg = c ∧ t.flag F.RQT_SERVE_OPEN p = true

theorem applied_settled (s : State) (p tb : Nat) : s.Settled (((s.recomplete p).endStep p tb).applied p) p := by
  obtain ⟨h1, h2, h3⟩ := endStep_spec (s.recomplete p) p tb
  have hn : s.SameNew ((s.recomplete p).endStep p tb) p := (State.SameNew.posts .recomplete).trans h1
  generalize (s.recomplete p).endStep p tb = w at h2 h3 hn
  obtain ⟨a1, a2, a3, a4⟩ := applyCfg_spec w p
  obtain ⟨⟨x, hx, hv⟩, ho⟩ := applied_spec w p
  subst hv
  rw [State.SameNew] at hn
  refine ⟨?_, ?_, ?_, ?_, ?_, ?_, fun c hc => ?_⟩
  · rw [hx]
    exact a1
  · rw [hx]
  · rw [hx]
  · rw [hx]
  · rw [hx]
    exact a2.trans h2
  · rw [hx]
    exact a3.trans h3
  · obtain ⟨b1, b2⟩ := a4 c (hn.trans hc)
    rw [hx, ho]
    exact ⟨b1, b2⟩

theorem Settled.bound {L : List Nat} (h : s.Settled t p) (ht : t.BoundOp u p L) : s.Settled u p := by
  obtain ⟨b1, b2, b3, b4, b5⟩ := ht.settings
  refine ⟨b2.trans h.newCfg, b3.trans h.newSmp, b4.trans h.custs, b5.trans h.prios, ht.rows h.rows, ht.outs h.outs, fun c hc => ?_⟩
  obtain ⟨c1, c2⟩ := h.cfg c hc
  refine ⟨b1.trans c1, ?_⟩
  rw [State.flag, ht.regs _ p (by decide)]
  exact c2

/-- The page moves are made, and what follows them keeps what was settled. -/
theorem movedOn_spec (s : State) (p : Nat) (redo : Bool) (tb : Nat) : s.Settled (s.movedOn p redo tb) p ∧
    ∀ i ∈ (s.movedOn p redo tb).reqIds p, ((s.movedOn p redo tb).req i).spill = [] := by
  have hs := applied_settled s p tb
  unfold State.movedOn
  dsimp only
  generalize ((s.recomplete p).endStep p tb).applied p = w at hs
  have hm := applyMoves_op w p
  have hsp : ∀ i ∈ w.reqIds p, ((w.applyMoves p).req i).spill = [] := fun i hi => moves_spill _ w hi
  generalize w.applyMoves p = m at hm hsp
  have ha : m.BoundOp ((m.readDirs (scPlan (m.serve p).cfg)).applyAdapters (scPlan (m.serve p).cfg)) p (w.reqIds p) :=
    (State.BoundOp.ofRing (readDirs_ringOp m _)).trans (applyAdapters_op _ _)
  have hma := hm.trans ha
  generalize (m.readDirs (scPlan (m.serve p).cfg)).applyAdapters (scPlan (m.serve p).cfg) = a at ha hma
  have har : a.BoundOp (if redo = true then a.rePrefill p tb else a) p (w.reqIds p) := by
    split
    · exact rePrefill_op (hma.ids fun _ h => h) tb
    · exact .refl a p _
  have hall := hma.trans har
  have hmr := ha.trans har
  generalize (if redo = true then a.rePrefill p tb else a) = b at hall hmr
  exact ⟨Settled.bound hs hall, fun i hi => hmr.spill i (hsp i (hall.ids (fun _ h => h) i hi))⟩

theorem boundaryReady_spec (s : State) (p : Nat) (redo : Bool) (tb : Nat) :
    s.Settled (s.boundaryReady p redo tb) p ∧
    (∀ i, i < (s.boundaryReady p redo tb).getF F.RQT_PART_CUST_COUNT p →
      ((s.boundaryReady p redo tb).cust ((s.boundaryReady p redo tb).custAt p i)).Ok) ∧
    ∀ i ∈ (s.boundaryReady p redo tb).reqIds p, ((s.boundaryReady p redo tb).req i).spill = [] := by
  obtain ⟨h1, h2⟩ := movedOn_spec s p redo tb
  unfold State.boundaryReady
  generalize s.movedOn p redo tb = m at h1 h2
  have hop : m.BoundOp ((m.refillAll p).refreshRqt p) p (m.reqIds p) := (refillAll_op m p).trans (refreshRqt_op _ p)
  have hok := fun i => refillAll_ok m p (i := i)
  have hcu : ∀ a, ((m.refillAll p).refreshRqt p).cust a = (m.refillAll p).cust a := fun a => by
    rw [refreshRqt_eq]
    rfl
  generalize (m.refillAll p).refreshRqt p = r at hop hcu
  refine ⟨Settled.bound h1 hop, fun i hi => ?_, fun i hi => hop.spill i (h2 i (hop.ids (fun _ h => h) i hi))⟩
  rw [hop.regs _ p (by decide)] at hi
  rw [State.custAt, hop.regs _ p (by decide), hcu]
  exact hok i hi

/-! ## The boundary, by cases -/

section
variable (hp : p < 16) (hb : s.boundaryFree p = true) (h0 : s.rowsLeft p 0 = []) (h1 : s.rowsLeft p 1 = [])
include hp hb h0 h1

theorem servingBoundary_due : exec (.servingBoundary p redo areas) s =
    if s.replayDue p = true then .next (if (s.serve p).rows ≠ [] ∧ ¬ (s.serve p).failed = true then s.replayBoundary p else s)
    else if s.flag F.RQT_SERVE_OPEN p = true ∧ ¬ s.flag F.RQT_SERVE_COMPOSER p = true then .next ((s.takeRings p s.now).otherBoundary p areas)
    else .next (s.composerBoundary p redo areas) :=
  (if_neg (not_not.2 hp)).trans (if_neg fun h => h.elim (absurd hb) fun h => h.elim (absurd h0) (absurd h1))

theorem servingBoundary_composes (hr : s.replayDue p = false) (hc : ¬ (s.flag F.RQT_SERVE_OPEN p = true ∧ s.flag F.RQT_SERVE_COMPOSER p = false)) :
    exec (.servingBoundary p redo areas) s = .next (s.composerBoundary p redo areas) := by
  rw [servingBoundary_due hp hb h0 h1, if_neg (by rw [hr]; decide), if_neg (by rw [Bool.not_eq_true]; exact hc)]

theorem servingBoundary_replays (hr : s.replayDue p = true) : exec (.servingBoundary p redo areas) s =
    .next (if (s.serve p).rows ≠ [] ∧ (s.serve p).failed = false then s.replayBoundary p else s) := by
  rw [servingBoundary_due hp hb h0 h1, if_pos hr]
  simp only [Bool.not_eq_true]

theorem servingBoundary_follows (hr : s.replayDue p = false) (ho : s.flag F.RQT_SERVE_OPEN p = true) (hc : s.flag F.RQT_SERVE_COMPOSER p = false) :
    exec (.servingBoundary p redo areas) s = .next ((s.takeRings p s.now).otherBoundary p areas) := by
  rw [servingBoundary_due hp hb h0 h1, if_neg (by rw [hr]; decide), if_pos ⟨ho, by rw [hc]; decide⟩]

end

/-! ## A node that is not the composer -/

/-- The step of a batch header, submitted. -/
def State.followStep (s : State) (p : Nat) (c : List Byte) (no : Nat) (h : List Byte) : State :=
  let s := s.setF F.RQT_SERVE_STEP p (no % 2 ^ 32)
  { s with steps := s.steps ++ [⟨p, scPlan c, 0, stepValues (s.plan (scPlan c)) c no (leAt h 4 4) (leAt h 8 4), 0, false, none⟩] }

theorem otherBoundary_reads {h : List Byte}
    (hn : (s.applied p).nextStepOf p = none)
    (hr : (s.applied p).readR (scBatch ((s.applied p).serve p).cfg + ((s.applied p).plan (scPlan ((s.applied p).serve p).cfg)).nextStep % 2 * 262144) 64 [] =
      (v, .ok h)) : s.otherBoundary p areas =
    if leAt h 0 1 ≠ 1 ∨ leAt h 16 8 ≠ ((s.applied p).plan (scPlan ((s.applied p).serve p).cfg)).nextStep then v
    else (v.followStep p ((s.applied p).serve p).cfg ((s.applied p).plan (scPlan ((s.applied p).serve p).cfg)).nextStep h).prepare p [] areas := by
  unfold State.otherBoundary
  rw [← State.applied]
  dsimp only
  rw [hn, hr]
  exact if_neg (by decide)

theorem otherBoundary_spec {h : List Byte} (hn : (s.applied p).nextStepOf p = none)
    (hr : (s.applied p).readR (scBatch ((s.applied p).serve p).cfg + ((s.applied p).plan (scPlan ((s.applied p).serve p).cfg)).nextStep % 2 * 262144) 64 [] =
      (v, .ok h)) :
    (let c := ((s.applied p).serve p).cfg
     let no := ((s.applied p).plan (scPlan c)).nextStep
     (leAt h 0 1 ≠ 1 ∨ leAt h 16 8 ≠ no → s.otherBoundary p areas = v) ∧
     (leAt h 0 1 = 1 → leAt h 16 8 = no →
      ∃ w : State, s.otherBoundary p areas = w.prepare p [] areas ∧ w = { v with regs := w.regs, steps := w.steps } ∧
       (∃ r, w.steps = v.steps ++ [r] ∧ r.part = p ∧ r.plan = scPlan c ∧ r.tag = 0) ∧
       v.RegsBut w [(F.RQT_SERVE_STEP, p)] ∧ w.getF F.RQT_SERVE_STEP p = no % 2 ^ 32)) := by
  intro c no
  have he := otherBoundary_reads (areas := areas) hn hr
  refine ⟨fun hx => he.trans (if_pos hx), fun h1 h2 => ⟨v.followStep p c no h, he.trans (if_neg ?_), rfl, ⟨_, rfl, rfl, rfl, rfl⟩, ?_, ?_⟩⟩
  · exact fun hx => hx.elim (· h1) (· h2)
  · exact regsBut_setF v (f := F.RQT_SERVE_STEP) (by decide)
  · have hg : (v.followStep p c no h).getF F.RQT_SERVE_STEP p = (v.setF F.RQT_SERVE_STEP p (no % 2 ^ 32)).getF F.RQT_SERVE_STEP p := rfl
    rw [hg, getF_setF_same _ (by decide)]
    exact Nat.mod_mod _ _

/-- Settles O52, clause by clause: an entry of a ring, the choice of rows by its invariant, a boundary by what its end and the changes that waited
leave, a page move, a draw and a token. -/
theorem requestsAreServed : Obligations.RequestsAreServed := by
  unfold Obligations.RequestsAreServed
  refine ⟨fun s u k e => submit_exec, fun s u k e => cancel_exec, ?_, ?_, fun s p i tb e => cancelEntry_spec, ?_, fun s p k => takePick_spec,
    fun x t => refill_spec, fun s p i => evictNext_spec, ?_, fun s p redo areas => servingBoundary_replays,
    fun s p redo areas => servingBoundary_follows, fun s v p areas h hn hr => otherBoundary_spec hn hr,
    fun s p ent => spill_spec, ?_, ?_, rankCands_spec, ?_, fun g seed n x l h1 h2 h3 => draw_greedy h1 h2 h3 seed n l, deliverToken_spec⟩
  · intro s p e h
    dsimp only
    rw [submitEntry_req h]
    exact ⟨rfl, rfl, rfl, rfl, rfl, rfl, rfl, rfl, rfl, rfl⟩
  · intro s p e h
    rw [submitEntry_refuses h]
    exact (State.PostOp.complete ..).reqs
  · intro s p c hn
    have hok := choose_ok s p c
    have hdec := fun (k : Pick) (hk : k ∈ (s.choose p c).dec) => mem_reqsIn.1 ((choose_decEnts s p c).subset (List.mem_map_of_mem hk))
    have hpre := fun (k : Pick) (hk : k ∈ (s.choose p c).pre) => mem_waiting.1 ((choose_preEnts s p c).subset (List.mem_map_of_mem hk))
    refine ⟨choose_ents_nodup hn p c, hok.lanes, hok.chunks, hok.tokens, fun k hk => ?_, fun k hk => ?_, fun k hk => ?_, hok.pages.nodup,
      hok.pages.free, hok.level, fun t => choose_within s p c, fun t => choose_decodes_within s p c⟩
    · obtain ⟨h1, h2⟩ := hdec k hk
      exact ⟨h1, by simpa using h2, (hok.dec k hk).row⟩
    · obtain ⟨h1, h2⟩ := hpre k hk
      have h := hok.pre k hk
      exact ⟨h1, h2, h.ent, h.kind, h.pos, h.some, h.fits, h.charged, h.sample⟩
    · have h : s.RowOk p c k := (List.mem_append.1 hk).elim (fun h => (hok.dec k h).ok) fun h => (hok.pre k h).ok
      exact ⟨h.ring, h.adapter, h.pages⟩
  · intro s p redo areas hp hb h0 h1 hr hc
    obtain ⟨h2, h3, h4⟩ := boundaryReady_spec s p redo (if (s.serve p).rows = [] then s.now else (s.part p).endAt)
    have he := servingBoundary_composes (redo := redo) (areas := areas) hp hb h0 h1 hr hc
    rw [composerBoundary_def] at he
    exact ⟨_, he, h2.newCfg, h2.newSmp, h2.custs, h2.prios, h2.rows, h2.outs, h2.cfg, h3, h4⟩
  · intro s u1 u2 u3 u4 p lane sym r rest bs g ok win last hp hr hl ha q m n c1 c2 c3 c4
    obtain ⟨o, h⟩ := rowDone_spec u4 p r q g ok m bs win last
    exact ⟨_, o, (sampleRow_exec hp hr hl ha).trans (congrArg Host.Outcome.next (sampleRow_reads ⟨c1, c2, c3, c4⟩)), h⟩
  · intro s u p lane sym r rest hp hr hl ha hf
    obtain ⟨h1, h2, h3⟩ := sampleFailed_spec u p
    exact ⟨_, (sampleRow_exec hp hr hl ha).trans (congrArg Host.Outcome.next (sampleRow_fails hf)), h1, h2, h3, rowsLeft_badRead h1 0,
      rowsLeft_badRead h1 1⟩
  · intro vocab l
    have h := dropCands_kept vocab l []
    exact ⟨h.sub, h.nodup, fun x hx => (h.fresh x hx).1, h.count, fun x hx hv => (h.all x hx hv).resolve_right List.not_mem_nil⟩

end Sys2Proof.Machine
end

section
/-! SUPPORT. A teardown (R346, R348), stage by stage: what each stage clears, and what it leaves. -/

namespace Sys2Proof.Machine

variable {s t u : State} {p n i c k j : Nat} {g : Fld}

/-! ## Sessions end and the key is revoked -/

/-- What of the control complex the clearing of a partition leaves alone. -/
structure State.TearOp (s t : State) : Prop where
  locks : t.locks = s.locks
  lockQ : t.lockQ = s.lockQ
  debugWant : t.debugWant = s.debugWant

theorem State.TearOp.trans (h : s.TearOp t) (h' : t.TearOp u) : s.TearOp u :=
  ⟨h'.locks.trans h.locks, h'.lockQ.trans h.lockQ, h'.debugWant.trans h.debugWant⟩

/-- `t` is `s` with registers written. -/
def State.OnlyRegs (s t : State) : Prop := t = { s with regs := t.regs }

theorem State.OnlyRegs.trans (h : s.OnlyRegs t) (h' : t.OnlyRegs u) : s.OnlyRegs u := Eq.trans h' (by rw [h])

theorem onlyRegs_resetRegs (s : State) (r : Reg) (l : List Nat) : s.OnlyRegs (s.resetRegs r l) := resetRegs_eq s r l

theorem unbindSession_tear (s : State) (p : Nat) : s.TearOp (s.unbindSession p) := ⟨rfl, rfl, rfl⟩

theorem unbindSession_sessions (s : State) (p : Nat) : (s.unbindSession p).sessions = s.sessions.filter (fun x => x.who != p + 1) :=
  (unbindSession_spec s p).1

theorem getF_unbindSession (hg : g.reg ∉ [Reg.SEC_PCTL, .SEC_STATUS]) (s : State) (p j : Nat) : (s.unbindSession p).getF g j = s.getF g j := by
  simp only [List.mem_cons, List.not_mem_nil, or_false, not_or] at hg
  rw [unbindSession_def, State.keyOp, getF_setF_apart _ (by decide) (.inl hg.2), getF_setF_apart _ (by decide) (.inl hg.1)]
  rfl

/-- The partition shown as revoked, with its key. -/
def State.outlawed (s : State) (p : Nat) : State := (s.setF F.SEC_PCTL_STATE p pcREVOKED).markRevoked p

theorem outlawed_eq (s : State) (p : Nat) :
    s.outlawed p = { s with regs := (s.outlawed p).regs, keys := (s.outlawed p).keys } := rfl

theorem revoke_eq (s : State) (p : Nat) : s.revoke p = { s.outlawed p with
    regs := (s.revoke p).regs, free := (s.revoke p).free, cores := (s.revoke p).cores, tctx := (s.revoke p).tctx, sctx := (s.revoke p).sctx
    arrivals := (s.revoke p).arrivals, parts := (s.revoke p).parts, rq := (s.revoke p).rq, inbox := (s.revoke p).inbox, log := (s.revoke p).log
    pldm := (s.revoke p).pldm } :=
  (State.AbortOp.abortStep (s := s.outlawed p) p 0x0B 0).frame

theorem revoke_tear (s : State) (p : Nat) : s.TearOp (s.revoke p) := by
  rw [revoke_eq]
  exact ⟨rfl, rfl, rfl⟩

theorem revoke_sessions (s : State) (p : Nat) : (s.revoke p).sessions = s.sessions := by rw [revoke_eq]; rfl

theorem getF_revoke (h : g.reg ∉ Reg.SEC_PCTL :: abortRegs) (s : State) (p j : Nat) : (s.revoke p).getF g j = s.getF g j := by
  rw [List.mem_cons, not_or] at h
  have ha := (State.AbortOp.abortStep (s := s.outlawed p) p 0x0B 0).regs g j h.2
  refine Eq.trans ha ?_
  exact getF_setF_apart s (f := F.SEC_PCTL_STATE) (by decide) (.inl h.1)

/-! ## Contexts -/

/-- Registers of threshold contexts. -/
def ctxRegs : List Reg := [.LATCH_TCTX, .LATCH_TMASK, .LATCH_SCTX, .LATCH_SMASK]

theorem clearThresholds_eq (s : State) (p : Nat) : s.clearThresholds p =
    { s with tctx := (s.clearThresholds p).tctx, sctx := (s.clearThresholds p).sctx, arrivals := (s.clearThresholds p).arrivals } := by
  have h1 : ∀ (l : List Nat) (s : State), l.foldl (fun s c => if s.ownsT p c then s.setTctx c Ctx.init else s) s =
      { s with tctx := (l.foldl (fun s c => if s.ownsT p c then s.setTctx c Ctx.init else s) s).tctx } := fun l s =>
    List.foldlRecOn (motive := fun t : State => t = { s with tctx := t.tctx }) l _ rfl fun t ht c _ => by
      split
      · rw [ht]
        rfl
      · exact ht
  have h2 : ∀ (l : List Nat) (s : State), l.foldl (fun s c => if s.ownsS p c then s.setSctx c Ctx.init else s) s =
      { s with sctx := (l.foldl (fun s c => if s.ownsS p c then s.setSctx c Ctx.init else s) s).sctx } := fun l s =>
    List.foldlRecOn (motive := fun t : State => t = { s with sctx := t.sctx }) l _ rfl fun t ht c _ => by
      split
      · rw [ht]
        rfl
      · exact ht
  unfold State.clearThresholds
  dsimp only
  rw [h2, h1]

theorem clearThresholds_tctx (hc : c < 8) (ho : s.getF F.LATCH_TCTX_OWNER c = p) : (s.clearThresholds p).tctxOf c = Ctx.init := by
  have hf : ∀ (l : List Nat) (s : State), (l.foldl (fun s c => if s.ownsS p c then s.setSctx c Ctx.init else s) s).tctx = s.tctx := fun l s =>
    foldl_keep (g := fun t : State => t.tctx) (fun t x _ => by
      split <;> rfl) s
  have hr := foldl_read (f := fun (s : State) c => if s.ownsT p c then s.setTctx c Ctx.init else s) (g := fun t : State => t.tctxOf c)
    (P := fun t : State => t.getF F.LATCH_TCTX_OWNER c = p) (v := Ctx.init) (List.mem_range.2 hc)
    (fun t x h => by
      split
      · exact h
      · exact h)
    (fun t h => by
      rw [if_pos (by rw [State.ownsT, h]; exact beq_self_eq_true p)]
      exact State.setTctx_tctxOf_same t c _)
    (fun t x h => by
      split
      · exact State.setTctx_tctxOf_ne t x _ h.symm
      · rfl) ho
  unfold State.clearThresholds
  dsimp only
  rw [State.tctxOf, hf]
  exact hr

/-- The contexts of a partition, as a teardown clears them. -/
def State.ctxReset (s : State) (p : Nat) : State :=
  let ts := (List.range 8).filter (s.ownsT p)
  let ss := (List.range 32).filter (s.ownsS p)
  ((((s.clearThresholds p).resetRegs .LATCH_TCTX ts).resetRegs .LATCH_TMASK (ts.flatMap (fun c => (List.range 4).map (fun j => 4 * c + j)))).resetRegs
    .LATCH_SCTX ss).resetRegs .LATCH_SMASK (ss.flatMap (fun c => (List.range 4).map (fun j => 4 * c + j)))

theorem ctxReset_regs (s : State) (p : Nat) : (s.clearThresholds p).OnlyRegs (s.ctxReset p) :=
  (((onlyRegs_resetRegs _ _ _).trans (onlyRegs_resetRegs _ _ _)).trans (onlyRegs_resetRegs _ _ _)).trans (onlyRegs_resetRegs _ _ _)

theorem getF_ctxReset (h : g.reg ∉ ctxRegs) (s : State) (p j : Nat) : (s.ctxReset p).getF g j = s.getF g j := by
  simp only [ctxRegs, List.mem_cons, List.not_mem_nil, or_false, not_or] at h
  obtain ⟨h1, h2, h3, h4⟩ := h
  unfold State.ctxReset
  dsimp only
  rw [getF_resetRegs h4, getF_resetRegs h3, getF_resetRegs h2, getF_resetRegs h1, clearThresholds_eq]
  rfl

theorem ctxReset_en (hc : c < 8) (ho : s.getF F.LATCH_TCTX_OWNER c = p) : (s.ctxReset p).getF F.LATCH_TCTX_EN c = 0 := by
  have hm : c ∈ (List.range 8).filter (s.ownsT p) := List.mem_filter.2 ⟨List.mem_range.2 hc, by rw [State.ownsT, ho]; exact beq_self_eq_true p⟩
  unfold State.ctxReset
  dsimp only
  rw [getF_resetRegs (by decide), getF_resetRegs (by decide), getF_resetRegs (by decide), State.getF]
  have hr : ∀ w : State, (w.resetRegs .LATCH_TCTX ((List.range 8).filter (s.ownsT p))).rdReg F.LATCH_TCTX_EN.reg c = (Reg.LATCH_TCTX.reset c).toNat :=
    rdReg_resetRegs hm
  rw [hr]
  change bitsOf (BitVec.toNat (BitVec.ofNat 64 (Reg.LATCH_TCTX.fields.foldl (fun a f => setBits a f.lo f.w f.reset) 0))) 0 1 = 0
  decide

/-! ## Routes, tables of the partition and its serving registers -/

/-- The route and fanlight entries of a partition go. -/
def State.routeReset (s : State) (p : Nat) : State :=
  let mine := fun (r : Reg) => ((s.written r).filter (fun e => eOwner e.2.toNat == p)).map (·.1)
  ((((s.resetRegs .RTE_MBR (mine .RTE_MBR)).resetRegs .RTE_GRP (mine .RTE_GRP)).resetRegs .FAN_CFG (mine .FAN_CFG)).resetRegs .FAN_DL
    (mine .FAN_CFG)).resetRegs .FAN_CMASK ((mine .FAN_CFG).flatMap (fun t => (List.range 4).map (fun j => 4 * t + j)))

theorem routeReset_regs (s : State) (p : Nat) : s.OnlyRegs (s.routeReset p) :=
  ((((onlyRegs_resetRegs _ _ _).trans (onlyRegs_resetRegs _ _ _)).trans (onlyRegs_resetRegs _ _ _)).trans (onlyRegs_resetRegs _ _ _)).trans
    (onlyRegs_resetRegs _ _ _)

theorem getF_routeReset (h : g.reg ∉ [Reg.RTE_MBR, .RTE_GRP, .FAN_CFG, .FAN_DL, .FAN_CMASK]) (s : State) (p j : Nat) :
    (s.routeReset p).getF g j = s.getF g j := by
  simp only [List.mem_cons, List.not_mem_nil, or_false, not_or] at h
  obtain ⟨h1, h2, h3, h4, h5⟩ := h
  unfold State.routeReset
  dsimp only
  rw [getF_resetRegs h5, getF_resetRegs h4, getF_resetRegs h3, getF_resetRegs h2, getF_resetRegs h1]

/-- The requests, customers, serving state and queue pairs of a partition go. -/
def State.entriesGone (s : State) (p : Nat) : State :=
  let b := s.getF F.RQT_PART_ENT_BASE p
  let c := s.getF F.RQT_PART_CUST_BASE p
  { s with
    reqs := s.reqs.filter (fun e => !(decide (b ≤ e.1) && decide (e.1 < b + s.getF F.RQT_PART_ENT_COUNT p)))
    custs := s.custs.filter (fun e => !(decide (c ≤ e.1) && decide (e.1 < c + s.getF F.RQT_PART_CUST_COUNT p)))
    serves := tset Serve.init s.serves p Serve.init
    qps := s.qps.filter (fun e => e.2.owner != p + 1) }

/-- A table without the entries that a test rejects reads the default there. -/
theorem tget_filter_none {α : Type} {d : α} {f : Nat × α → Bool} {i : Nat} (h : ∀ v, f (i, v) = false) (t : Tbl α) : tget d (t.filter f) i = d := by
  induction t with
  | nil => rfl
  | cons e t ih =>
    obtain ⟨j, v⟩ := e
    rw [List.filter_cons]
    split
    · next hf =>
      rw [tget]
      split
      · next hj =>
        subst hj
        rw [h] at hf
        cases hf
      · exact ih
    · exact ih

theorem entriesGone_req (hi : i < s.getF F.RQT_PART_ENT_COUNT p) : (s.entriesGone p).req (s.getF F.RQT_PART_ENT_BASE p + i) = Req.init :=
  tget_filter_none (fun v => by simp [hi]) s.reqs

theorem entriesGone_serve (s : State) (p : Nat) : (s.entriesGone p).serve p = Serve.init := by
  unfold State.entriesGone State.serve
  exact tget_tset_same Serve.init s.serves p Serve.init

/-- Registers of a partition's serving. -/
def servingRegs : List Reg := [.RQT_PART, .RQT_SERVE, .RQT_PSTAT, .RQT_PAGES, .SMP_PCAND, .SMP_PSHAPE, .SMP_PSET, .SMP_PHIST]

/-- The serving registers of a partition, at their reset values. -/
def State.servingReset (s : State) (p : Nat) : State := servingRegs.foldl (fun s r => s.resetRegs r [p]) s

theorem servingReset_regs (s : State) (p : Nat) : s.OnlyRegs (s.servingReset p) :=
  List.foldlRecOn (motive := fun t : State => t = { s with regs := t.regs }) servingRegs _ rfl fun t ht r _ =>
    State.OnlyRegs.trans ht (onlyRegs_resetRegs t r [p])

theorem getF_servingReset (h : g.reg ∉ servingRegs) (s : State) (p j : Nat) : (s.servingReset p).getF g j = s.getF g j :=
  foldl_keep (g := fun t : State => t.getF g j) (fun t r hr => getF_resetRegs (fun he => h (by rw [he]; exact hr)) t [p] j) s

/-- The partition is enabled at no peephole. -/
def State.peepsWithout (s : State) (p : Nat) : State :=
  (s.written .CTL_PEEPEN).foldl (fun (s : State) (e : Nat × Word64) => s.wrReg .CTL_PEEPEN e.1 (peepWithout e.2.toNat p)) s

theorem peepsWithout_regs (s : State) (p : Nat) : s.OnlyRegs (s.peepsWithout p) :=
  List.foldlRecOn (motive := fun t : State => t = { s with regs := t.regs }) (s.written .CTL_PEEPEN) _ rfl fun t ht e _ => by
    rw [ht]
    rfl

theorem getF_peepsWithout (h : g.reg ≠ .CTL_PEEPEN) (s : State) (p j : Nat) : (s.peepsWithout p).getF g j = s.getF g j :=
  foldl_keep (g := fun t : State => t.getF g j) (fun t _ _ => getF_wrReg_reg t h) s

/-- The channel blocks of a partition, given up. -/
def State.blocksOff (s : State) (p : Nat) : State := ((s.setF F.MEM_PHBM_EN p 0).setF F.MEM_PCEL_EN p 0).rekey s

theorem getF_blocksOff (h : g.reg ∉ [Reg.MEM_PHBM, .MEM_PCEL]) (s : State) (p j : Nat) : (s.blocksOff p).getF g j = s.getF g j := by
  simp only [List.mem_cons, List.not_mem_nil, or_false, not_or] at h
  have e : (s.blocksOff p).getF g j = ((s.setF F.MEM_PHBM_EN p 0).setF F.MEM_PCEL_EN p 0).getF g j := rfl
  rw [e, getF_setF_apart _ (by decide) (.inl h.2), getF_setF_apart _ (by decide) (.inl h.1)]

theorem blocksOff_flags (s : State) (p : Nat) : (s.blocksOff p).flag F.MEM_PHBM_EN p = false ∧ (s.blocksOff p).flag F.MEM_PCEL_EN p = false := by
  have e : ∀ f : Fld, (s.blocksOff p).flag f p = ((s.setF F.MEM_PHBM_EN p 0).setF F.MEM_PCEL_EN p 0).flag f p := fun _ => rfl
  rw [e, e]
  refine ⟨?_, flag_setF_bit (f := F.MEM_PCEL_EN) (by decide) rfl false⟩
  rw [flag_setF_apart (by decide) (.inl (by decide))]
  exact flag_setF_bit (f := F.MEM_PHBM_EN) (by decide) rfl false

theorem clearTables_def (s : State) (p : Nat) :
    s.clearTables p = (((((s.ctxReset p).routeReset p).entriesGone p).servingReset p).peepsWithout p).blocksOff p := rfl

end Sys2Proof.Machine
end

section
/-! SUPPORT. A teardown (R346, R348) as a whole: what is left of a partition. -/

namespace Sys2Proof.Machine

variable {s t u : State} {p n i c k j : Nat} {g : Fld} {l : List Nat}

/-! ## The tables of a partition -/

/-- Registers that clearing the tables of a partition may write. -/
def tableRegs : List Reg := .CTL_PEEPEN :: .MEM_PHBM :: .MEM_PCEL :: .RTE_MBR :: .RTE_GRP :: .FAN_CFG :: .FAN_DL :: .FAN_CMASK :: ctxRegs ++ servingRegs

/-- The tables of a partition, cleared up to its requests. -/
def State.routesGone (s : State) (p : Nat) : State := (s.ctxReset p).routeReset p

/-- The rest of the clearing of a partition's tables. -/
def State.restGone (s : State) (p : Nat) : State := ((s.servingReset p).peepsWithout p).blocksOff p

theorem clearTables_parts (s : State) (p : Nat) : s.clearTables p = ((s.routesGone p).entriesGone p).restGone p := rfl

theorem routesGone_regs (s : State) (p : Nat) : (s.clearThresholds p).OnlyRegs (s.routesGone p) := (ctxReset_regs s p).trans (routeReset_regs _ p)

theorem getF_routesGone (h : g.reg ∉ [Reg.RTE_MBR, .RTE_GRP, .FAN_CFG, .FAN_DL, .FAN_CMASK] ++ ctxRegs) (s : State) (p j : Nat) :
    (s.routesGone p).getF g j = s.getF g j := by
  rw [List.mem_append, not_or] at h
  rw [State.routesGone, getF_routeReset h.1, getF_ctxReset h.2]

theorem blocksOff_eq (s : State) (p : Nat) : s.blocksOff p =
    { s with regs := (s.blocksOff p).regs, mem := (s.blocksOff p).mem, gran := (s.blocksOff p).gran, flaws := (s.blocksOff p).flaws
             scrubPos := (s.blocksOff p).scrubPos } := rfl

/-- What the end of the clearing leaves of the state. -/
theorem restGone_eq (s : State) (p : Nat) : s.restGone p =
    { s with regs := (s.restGone p).regs, mem := (s.restGone p).mem, gran := (s.restGone p).gran, flaws := (s.restGone p).flaws
             scrubPos := (s.restGone p).scrubPos } := by
  have h : s.OnlyRegs ((s.servingReset p).peepsWithout p) := (servingReset_regs s p).trans (peepsWithout_regs _ p)
  unfold State.restGone
  generalize (s.servingReset p).peepsWithout p = v at h
  rw [blocksOff_eq, h]

theorem getF_restGone (h : g.reg ∉ .CTL_PEEPEN :: .MEM_PHBM :: .MEM_PCEL :: servingRegs) (s : State) (p j : Nat) :
    (s.restGone p).getF g j = s.getF g j := by
  simp only [List.mem_cons, not_or] at h
  obtain ⟨h1, h2, h3, h4⟩ := h
  rw [State.restGone, getF_blocksOff (by simp [h2, h3]), getF_peepsWithout h1, getF_servingReset h4]

theorem entriesGone_getF (s : State) (p : Nat) (g : Fld) (j : Nat) : (s.entriesGone p).getF g j = s.getF g j := rfl

theorem getF_clearTables (h : g.reg ∉ tableRegs) (s : State) (p j : Nat) : (s.clearTables p).getF g j = s.getF g j := by
  simp only [tableRegs, List.cons_append, List.mem_cons, List.mem_append, not_or] at h
  obtain ⟨h1, h2, h3, h4, h5, h6, h7, h8, h9, h10⟩ := h
  rw [clearTables_parts, getF_restGone (by simp [h1, h2, h3, h10]), entriesGone_getF, getF_routesGone (by simp [h4, h5, h6, h7, h8, h9])]

/-- What clearing the tables of a partition leaves. -/
structure State.TablesGone (s t : State) (p : Nat) : Prop where
  op : s.TearOp t
  sessions : t.sessions = s.sessions
  cores : t.cores = s.cores
  regs : ∀ (g : Fld) (j : Nat), g.reg ∉ tableRegs → t.getF g j = s.getF g j
  contexts : ∀ c < 8, s.getF F.LATCH_TCTX_OWNER c = p → t.tctxOf c = Ctx.init ∧ t.flag F.LATCH_TCTX_EN c = false
  requests : ∀ i < s.getF F.RQT_PART_ENT_COUNT p, t.req (s.getF F.RQT_PART_ENT_BASE p + i) = Req.init
  serve : t.serve p = Serve.init
  blocks : t.flag F.MEM_PHBM_EN p = false ∧ t.flag F.MEM_PCEL_EN p = false

theorem clearTables_gone (s : State) (p : Nat) : s.TablesGone (s.clearTables p) p := by
  have hr := routesGone_regs s p
  rw [clearThresholds_eq] at hr
  have hrest := restGone_eq ((s.routesGone p).entriesGone p) p
  have hb : (s.clearTables p).flag F.MEM_PHBM_EN p = false ∧ (s.clearTables p).flag F.MEM_PCEL_EN p = false := blocksOff_flags _ p
  have hg := fun (g : Fld) (j : Nat) (h : g.reg ∉ tableRegs) => getF_clearTables h s p j
  have hen : ∀ c < 8, s.getF F.LATCH_TCTX_OWNER c = p → (s.clearTables p).getF F.LATCH_TCTX_EN c = 0 := fun c hc ho => by
    rw [clearTables_parts, getF_restGone (by decide), entriesGone_getF, State.routesGone, getF_routeReset (by decide), ctxReset_en hc ho]
  have hctx : ∀ c < 8, s.getF F.LATCH_TCTX_OWNER c = p → (s.routesGone p).tctxOf c = Ctx.init := fun c hc ho => by
    refine Eq.trans ?_ (clearThresholds_tctx hc ho)
    rw [hr]
    rfl
  have hb1 : (s.routesGone p).getF F.RQT_PART_ENT_BASE p = s.getF F.RQT_PART_ENT_BASE p := getF_routesGone (by decide) s p p
  have hc1 : (s.routesGone p).getF F.RQT_PART_ENT_COUNT p = s.getF F.RQT_PART_ENT_COUNT p := getF_routesGone (by decide) s p p
  rw [clearTables_parts] at *
  generalize s.routesGone p = r at *
  have he := entriesGone_serve r p
  have hq := fun i => entriesGone_req (s := r) (p := p) (i := i)
  have hE : r.TearOp (r.entriesGone p) ∧ (r.entriesGone p).sessions = r.sessions ∧ (r.entriesGone p).cores = r.cores ∧ (r.entriesGone p).tctx = r.tctx :=
    ⟨⟨rfl, rfl, rfl⟩, rfl, rfl, rfl⟩
  rw [hb1, hc1] at hq
  obtain ⟨e1, e2, e3, e4⟩ := hE
  generalize r.entriesGone p = e at *
  generalize e.restGone p = w at *
  have hsr : s.TearOp r := by
    rw [hr]
    exact ⟨rfl, rfl, rfl⟩
  have hew : e.TearOp w := by
    rw [hrest]
    exact ⟨rfl, rfl, rfl⟩
  refine ⟨(hsr.trans e1).trans hew, ?_, ?_, hg, fun c hc ho => ⟨?_, ?_⟩, fun i hi => ?_, ?_, hb⟩
  · refine (congrArg State.sessions hrest).trans (e2.trans ?_)
    rw [hr]
  · refine (congrArg State.cores hrest).trans (e3.trans ?_)
    rw [hr]
  · refine (congrArg (fun t : State => tget Ctx.init t.tctx c) hrest).trans ((congrArg (fun t => tget Ctx.init t c) e4).trans ?_)
    exact hctx c hc ho
  · rw [State.flag, hen c hc ho]
    rfl
  · exact (congrArg (fun t : State => tget Req.init t.reqs (s.getF F.RQT_PART_ENT_BASE p + i)) hrest).trans (hq i hi)
  · exact (congrArg (fun t : State => tget Serve.init t.serves p) hrest).trans he

/-! ## What Ranuat keeps of the partition goes -/

/-- The step state, rings, keys and secrets of a partition go. -/
def State.partGone (s : State) (p : Nat) : State :=
  { s with
    parts := tset Part.init s.parts p Part.init
    steps := s.steps.filter (fun r => r.part != p)
    rs := s.rs.filter (fun j => j.1 % 16 != p)
    rings := s.rings.filter (fun r => r.2.fn != p + 1)
    replies := s.replies.filter (fun r => r.fn != p + 1)
    bounce := tset Bounce.init s.bounce p Bounce.init
    keys := tset MemKey.init s.keys p MemKey.init
    psec := tset PSec.init s.psec p PSec.init }

/-- The registers of a partition's secrets, and its waiting jobs' locks. -/
def State.secretsGone (s : State) (p : Nat) : State :=
  let s := s.setFs p [(F.SEC_PKEYID_KEYID, 0), (F.SEC_PCTL_HMODE, 0), (F.CTL_ABORT_QUIET, 0), (F.CTL_PCDIG_DIGEST, 0)]
  s.setLockQ (s.lockQ.filter (fun l => !(l.1 == 2 && l.2 % 16 == p)))

/-- The cores are no partition's. -/
def State.coresFree (s : State) (ns : List Nat) : State := ns.foldl (fun s n => s.setF F.CORE_ID_PARTITION n 0) s

theorem forget_def (s : State) (p : Nat) : s.forget p = ((s.partGone p).secretsGone p).coresFree (((s.partGone p).secretsGone p).coresOf p) := rfl

theorem coresFree_regs (s : State) (ns : List Nat) : s.OnlyRegs (s.coresFree ns) :=
  List.foldlRecOn (motive := fun t : State => t = { s with regs := t.regs }) ns _ rfl fun t ht n _ => by
    rw [ht]
    rfl

theorem getF_coresFree (h : g.reg ≠ .CORE_ID) (s : State) (ns : List Nat) (j : Nat) : (s.coresFree ns).getF g j = s.getF g j :=
  foldl_keep (g := fun t : State => t.getF g j) (fun t _ _ => getF_setF_apart t (by decide) (.inl h)) s

theorem coresFree_part (h : n ∈ l) (s : State) : (s.coresFree l).getF F.CORE_ID_PARTITION n = 0 :=
  foldl_read (f := fun (s : State) n => s.setF F.CORE_ID_PARTITION n 0) (g := fun t : State => t.getF F.CORE_ID_PARTITION n) (P := fun _ => True) h
    (fun _ _ _ => trivial) (fun t _ => getF_setF_same t (by decide)) (fun t x hx => getF_setF_ne t (by decide) (.inr (.inl hx.symm))) trivial

theorem secretsGone_eq (s : State) (p : Nat) : s.secretsGone p =
    { s with regs := (s.secretsGone p).regs, lockQ := s.lockQ.filter (fun l => !(l.1 == 2 && l.2 % 16 == p)) } := by
  unfold State.secretsGone
  dsimp only
  rw [setFs_eq]
  rfl

theorem getF_requeue (h : g.reg ≠ .CTL_MLOCK) (s : State) (l : List (Nat × Nat)) (j : Nat) : (s.setLockQ l).getF g j = s.getF g j :=
  getF_setF_apart ({ s with lockQ := l } : State) (f := F.CTL_MLOCK_QUEUED) (by decide) (.inl h)

theorem getF_secretsGone (h : g.reg ∉ [Reg.SEC_PKEYID, .SEC_PCTL, .CTL_ABORT, .CTL_PCDIG, .CTL_MLOCK]) (s : State) (p j : Nat) :
    (s.secretsGone p).getF g j = s.getF g j := by
  simp only [List.mem_cons, List.not_mem_nil, or_false, not_or] at h
  obtain ⟨h1, h2, h3, h4, h5⟩ := h
  refine (getF_requeue h5 _ _ j).trans (getF_setFs_ne s ?_)
  simp only [List.forall_mem_cons]
  exact ⟨.inl h1, .inl h2, .inl h3, .inl h4, by simp⟩

/-- Registers that forgetting a partition may write. -/
def forgetRegs : List Reg := [.CORE_ID, .SEC_PKEYID, .SEC_PCTL, .CTL_ABORT, .CTL_PCDIG, .CTL_MLOCK]

/-- What forgetting a partition leaves. -/
structure State.Forgotten (s t : State) (p : Nat) : Prop where
  locks : t.locks = s.locks
  lockQ : s.lockQ = [] → t.lockQ = []
  debugWant : t.debugWant = s.debugWant
  sessions : t.sessions = s.sessions
  cores : t.cores = s.cores
  tctx : t.tctx = s.tctx
  reqs : t.reqs = s.reqs
  serves : t.serves = s.serves
  regs : ∀ (g : Fld) (j : Nat), g.reg ∉ forgetRegs → t.getF g j = s.getF g j
  part : t.part p = Part.init
  key : t.key p = MemKey.init
  psec : t.psecOf p = PSec.init
  rings : ∀ k, (t.ring k).fn ≠ p + 1
  owner : ∀ n ∈ s.coresOf p, t.getF F.CORE_ID_PARTITION n = 0

theorem partGone_ring (s : State) (p k : Nat) : ((s.partGone p).ring k).fn ≠ p + 1 := by
  have h : ∀ t : Tbl Ring, (tget Ring.init (t.filter (fun r => r.2.fn != p + 1)) k).fn ≠ p + 1 := by
    intro t
    induction t with
    | nil => exact (Nat.succ_ne_zero p).symm
    | cons e t ih =>
      rw [List.filter_cons]
      split
      · next hf =>
        rw [tget]
        split
        · exact bne_iff_ne.1 hf
        · exact ih
      · exact ih
  exact h s.rings

theorem partGone_part (s : State) (p : Nat) : (s.partGone p).part p = Part.init := by
  unfold State.partGone State.part
  exact tget_tset_same Part.init s.parts p Part.init

theorem partGone_key (s : State) (p : Nat) : (s.partGone p).key p = MemKey.init := by
  unfold State.partGone State.key
  exact tget_tset_same MemKey.init s.keys p MemKey.init

theorem partGone_psec (s : State) (p : Nat) : (s.partGone p).psecOf p = PSec.init := by
  unfold State.partGone State.psecOf
  exact tget_tset_same PSec.init s.psec p PSec.init

theorem coresOf_congr (h : t.getF F.SEC_PPANE_PANES p = s.getF F.SEC_PPANE_PANES p) : t.coresOf p = s.coresOf p := by
  rw [State.coresOf, State.coresOf, h]

theorem secretsGone_forgotten (s : State) (p : Nat) : (∀ (g : Fld) (j : Nat), g.reg ∉ forgetRegs → ((s.partGone p).secretsGone p).getF g j = s.getF g j) ∧
    ((s.partGone p).secretsGone p).coresOf p = s.coresOf p := by
  have h : ∀ (g : Fld) (j : Nat), g.reg ∉ forgetRegs → ((s.partGone p).secretsGone p).getF g j = s.getF g j := fun g j h => by
    simp only [forgetRegs, List.mem_cons, not_or] at h
    rw [getF_secretsGone (by simp only [List.mem_cons, not_or]; exact h.2)]
    rfl
  exact ⟨h, coresOf_congr (h _ p (by decide))⟩

theorem forget_forgotten (s : State) (p : Nat) : s.Forgotten (s.forget p) p := by
  obtain ⟨hg, hc⟩ := secretsGone_forgotten s p
  have he := secretsGone_eq (s.partGone p) p
  have hr := coresFree_regs ((s.partGone p).secretsGone p) (s.coresOf p)
  have hgf := fun (g : Fld) (j : Nat) (h : g.reg ≠ .CORE_ID) => getF_coresFree h ((s.partGone p).secretsGone p) (s.coresOf p) j
  have ho := fun n (hn : n ∈ s.coresOf p) => coresFree_part hn ((s.partGone p).secretsGone p)
  rw [forget_def, hc]
  generalize ((s.partGone p).secretsGone p).coresFree (s.coresOf p) = w at hr hgf ho
  generalize (s.partGone p).secretsGone p = v at hg he hr hgf
  have hw : w = { s.partGone p with regs := w.regs, lockQ := s.lockQ.filter (fun l => !(l.1 == 2 && l.2 % 16 == p)) } := Eq.trans hr (by rw [he]; rfl)
  exact {
    locks := (congrArg State.locks hw).trans rfl
    lockQ := fun h => (congrArg State.lockQ hw).trans ((congrArg (List.filter _) h).trans List.filter_nil)
    debugWant := (congrArg State.debugWant hw).trans rfl
    sessions := (congrArg State.sessions hw).trans rfl
    cores := (congrArg State.cores hw).trans rfl
    tctx := (congrArg State.tctx hw).trans rfl
    reqs := (congrArg State.reqs hw).trans rfl
    serves := (congrArg State.serves hw).trans rfl
    regs := fun g j h => (hgf g j fun hx => h (by rw [hx]; decide)).trans (hg g j h)
    part := (congrArg (fun t : State => tget Part.init t.parts p) hw).trans (partGone_part s p)
    key := (congrArg (fun t : State => tget MemKey.init t.keys p) hw).trans (partGone_key s p)
    psec := (congrArg (fun t : State => tget PSec.init t.psec p) hw).trans (partGone_psec s p)
    rings := fun k => by
      have h : w.ring k = (s.partGone p).ring k := (congrArg (fun t : State => tget Ring.init t.rings k) hw).trans rfl
      rw [h]
      exact partGone_ring s p k
    owner := ho }

end Sys2Proof.Machine
end

section
/-! SUPPORT. Teardown commands (R346, R408): the lock, the sweep, and what is left. -/

namespace Sys2Proof.Machine

variable {s t u : State} {p n i k j : Nat} {g : Fld} {ctl : Option Ctl}

/-! ## The sweep -/

/-- The partition is free, and its lock given back. -/
def State.freed (s : State) (p : Nat) : State := (s.setF F.SEC_PCTL_STATE p pcFREE).countParts.dropLocks 5 [p]

theorem freed_eq (s : State) (p : Nat) : s.freed p =
    { s with regs := (s.freed p).regs, locks := s.locks.filter (fun l => l.1 != 5 || !([p].contains l.2)) } := rfl

/-- The partition counts, with the partition free. -/
def State.uncounted (s : State) (p : Nat) : State := (s.setF F.SEC_PCTL_STATE p pcFREE).countParts

theorem freed_getF (s : State) (p : Nat) (h : g.reg ≠ .CTL_MLOCK) (j : Nat) : (s.freed p).getF g j = (s.uncounted p).getF g j :=
  getF_setF_apart ({ s.uncounted p with locks := s.locks.filter (fun l => l.1 != 5 || !([p].contains l.2)) } : State)
    (f := F.CTL_MLOCK_ACTIVE) (by decide) (.inl h)

theorem getF_freed (h : g.reg ∉ [Reg.SEC_PCTL, .SEC_STATUS, .CTL_MLOCK]) (s : State) (p j : Nat) : (s.freed p).getF g j = s.getF g j := by
  simp only [List.mem_cons, List.not_mem_nil, or_false, not_or] at h
  obtain ⟨h1, h2, h3⟩ := h
  rw [freed_getF s p h3, State.uncounted, State.countParts, getF_setF_apart _ (by decide) (.inl h2), getF_setF_apart _ (by decide) (.inl h1)]

theorem freed_state (s : State) (p : Nat) : (s.freed p).getF F.SEC_PCTL_STATE p = 0 := by
  rw [freed_getF s p (by decide), State.uncounted, State.countParts, getF_setF_apart _ (by decide) (.inl (by decide)), getF_setF_same _ (by decide)]
  rfl

theorem freed_locked (s : State) (p : Nat) : (s.freed p).locked 5 p = false := by
  have h : (s.freed p).locks = s.locks.filter (fun l => l.1 != 5 || !([p].contains l.2)) := rfl
  rw [State.locked, h, Bool.eq_false_iff, Ne, List.contains_iff_mem]
  intro hm
  simpa using (List.mem_filter.1 hm).2

/-- The partition's secrets and work are gone, and it shows so. -/
def State.quelled (s : State) (p : Nat) : State := ((s.unbindSession p).revoke p).setF F.SEC_PCTL_STATE p pcCLEARING

/-- The partition's cores are clear. -/
def State.coresClear (s : State) (p : Nat) : State := s.clearCores (s.coresOf p)

/-- What is left of the package once a partition is swept. -/
def State.swept (s : State) (p : Nat) : State := ((((s.quelled p).coresClear p).clearTables p).forget p).freed p

/-- A teardown, once the partition is swept: port work that waited for the lock, the answer, and an unlock that waited. -/
def State.sweptUp (s : State) (ctl : Option Ctl) : State :=
  let s := s.runPorts
  (match ctl with
    | some h => s.answer 0x11 h (h.answer resOK)
    | none => s).openDebug

theorem tearDown_def (s : State) (p : Nat) : s.tearDown p = (s.swept p).sweptUp (s.psecOf p).tearCtl := rfl

theorem getF_quelled (h : g.reg ∉ Reg.SEC_PCTL :: .SEC_STATUS :: abortRegs) (s : State) (p j : Nat) : (s.quelled p).getF g j = s.getF g j := by
  simp only [List.mem_cons, not_or] at h
  obtain ⟨h1, h2, h3⟩ := h
  rw [State.quelled, getF_setF_apart _ (by decide) (.inl h1), getF_revoke (by simp [h1, h3]), getF_unbindSession (by simp [h1, h2])]

theorem quelled_tear (s : State) (p : Nat) : s.TearOp (s.quelled p) :=
  ((unbindSession_tear s p).trans (revoke_tear _ p)).trans ⟨rfl, rfl, rfl⟩

theorem quelled_sessions (s : State) (p : Nat) : (s.quelled p).sessions = s.sessions.filter (fun x => x.who != p + 1) :=
  (revoke_sessions (s.unbindSession p) p).trans (unbindSession_sessions s p)

theorem coresClear_tear (s : State) (p : Nat) : s.TearOp (s.coresClear p) ∧ (s.coresClear p).sessions = s.sessions := by
  rw [State.coresClear, clearCores_eq]
  exact ⟨⟨rfl, rfl, rfl⟩, rfl⟩

theorem coresClear_core (h : n ∈ s.coresOf p) : (s.coresClear p).core n = Core.init := by
  have hc : (s.coresClear p).cores = s.cores.filter (fun c => !(s.coresOf p).contains c.1) := by
    rw [State.coresClear, clearCores_eq]
    rfl
  rw [State.core, hc]
  exact tget_filter_none (fun v => by simpa using h) s.cores

/-- A teardown leaves of its partition what the obligation names. -/
theorem swept_tornDown (s : State) (p : Nat) : s.TornDown (s.swept p) p ∧ (s.lockQ = [] → (s.swept p).lockQ = []) ∧
    (s.swept p).debugWant = s.debugWant := by
  have q1 := quelled_tear s p
  have q2 := quelled_sessions s p
  have q3 := fun (g : Fld) (j : Nat) (h : g.reg ∉ Reg.SEC_PCTL :: .SEC_STATUS :: abortRegs) => getF_quelled h s p j
  unfold State.swept
  generalize s.quelled p = q at q1 q2 q3
  have hco : q.coresOf p = s.coresOf p := coresOf_congr (q3 _ p (by decide))
  obtain ⟨c1, c2⟩ := coresClear_tear q p
  have c3 := fun n (h : n ∈ s.coresOf p) => coresClear_core (s := q) (p := p) (n := n) (hco ▸ h)
  have c4 := fun n (h : n ∈ s.coresOf p) (l : Nat) (hl : l < 48) => clearCores_latch (n := n) (l := l) (ns := q.coresOf p) (hco ▸ h) hl q
  have c5 := fun (g : Fld) (j : Nat) (h : g.reg ∉ [Reg.LATCH_VALUE, .LATCH_OVF, .CORE_AFLAGS]) => getF_clearCores h q (q.coresOf p) j
  rw [← State.coresClear] at c4 c5
  generalize q.coresClear p = c at c1 c2 c3 c4 c5
  have T := clearTables_gone c p
  generalize c.clearTables p = w at T
  have Fg := forget_forgotten w p
  generalize w.forget p = f at Fg
  have he := freed_eq f p
  have hs := freed_state f p
  have hl := freed_locked f p
  have hg := fun (g : Fld) (j : Nat) (h : g.reg ∉ [Reg.SEC_PCTL, .SEC_STATUS, .CTL_MLOCK]) => getF_freed h f p j
  generalize f.freed p = z at he hs hl hg
  have hcw : w.coresOf p = s.coresOf p := (coresOf_congr ((T.regs _ p (by decide)).trans (c5 _ p (by decide)))).trans hco
  have hown : ∀ c', c.getF F.LATCH_TCTX_OWNER c' = s.getF F.LATCH_TCTX_OWNER c' := fun c' => (c5 _ c' (by decide)).trans (q3 _ c' (by decide))
  have hbase : c.getF F.RQT_PART_ENT_BASE p = s.getF F.RQT_PART_ENT_BASE p := (c5 _ p (by decide)).trans (q3 _ p (by decide))
  have hcount : c.getF F.RQT_PART_ENT_COUNT p = s.getF F.RQT_PART_ENT_COUNT p := (c5 _ p (by decide)).trans (q3 _ p (by decide))
  have hreq := T.requests
  rw [hbase, hcount] at hreq
  refine ⟨{
    free := hs
    key := (congrArg (fun t : State => tget MemKey.init t.keys p) he).trans Fg.key
    part := (congrArg (fun t : State => tget Part.init t.parts p) he).trans Fg.part
    psec := (congrArg (fun t : State => tget PSec.init t.psec p) he).trans Fg.psec
    serve := (congrArg (fun t : State => tget Serve.init t.serves p) he).trans ((congrArg (fun t => tget Serve.init t p) Fg.serves).trans T.serve)
    cores := fun n hn => ⟨?_, fun l hlt => ?_, ?_⟩
    rings := fun k => ?_
    sessions := fun x hx => ?_
    requests := fun i hi => ?_
    contexts := fun c' hc ho => ?_
    blocks := ⟨?_, ?_⟩
    lock := hl }, fun h0 => ?_, ?_⟩
  · refine (congrArg (fun t : State => tget Core.init t.cores n) he).trans ((congrArg (fun t => tget Core.init t n) (Fg.cores.trans T.cores)).trans ?_)
    exact c3 n hn
  · have hr := latchFld_reg l
    rw [State.latch, hg _ _ (by rw [hr]; decide), Fg.regs _ _ (by rw [hr]; decide), T.regs _ _ (by rw [hr]; decide)]
    exact c4 n hn l hlt
  · rw [hg _ _ (by decide)]
    exact Fg.owner n (hcw ▸ hn)
  · have hk : z.ring k = f.ring k := (congrArg (fun t : State => tget Ring.init t.rings k) he).trans rfl
    rw [hk]
    exact Fg.rings k
  · have hx' : x ∈ s.sessions.filter (fun x => x.who != p + 1) := by
      rw [← q2, ← c2, ← T.sessions, ← Fg.sessions]
      exact ((congrArg State.sessions he).trans rfl) ▸ hx
    exact bne_iff_ne.1 (List.mem_filter.1 hx').2
  · refine (congrArg (fun t : State => tget Req.init t.reqs _) he).trans ((congrArg (fun t => tget Req.init t _) Fg.reqs).trans ?_)
    exact hreq i hi
  · obtain ⟨t1, t2⟩ := T.contexts c' hc ((hown c').trans ho)
    refine ⟨?_, ?_⟩
    · exact (congrArg (fun t : State => tget Ctx.init t.tctx c') he).trans ((congrArg (fun t => tget Ctx.init t c') Fg.tctx).trans t1)
    · rw [State.flag, hg _ _ (by decide), Fg.regs _ _ (by decide)]
      exact t2
  · rw [State.flag, hg _ _ (by decide), Fg.regs _ _ (by decide)]
    exact T.blocks.1
  · rw [State.flag, hg _ _ (by decide), Fg.regs _ _ (by decide)]
    exact T.blocks.2
  · refine ((congrArg State.lockQ he).trans rfl).trans (Fg.lockQ ?_)
    rw [T.op.lockQ, c1.lockQ, q1.lockQ, h0]
  · refine ((congrArg State.debugWant he).trans rfl).trans ?_
    rw [Fg.debugWant, T.op.debugWant, c1.debugWant, q1.debugWant]

/-! ## After the sweep -/

theorem openDebug_idle (h : s.debugWant = false) : s.openDebug = s := if_neg fun hx => by rw [h] at hx; exact Bool.false_ne_true hx.1

theorem sweptUp_idle (hq : s.lockQ = []) (hd : s.debugWant = false) : s.sweptUp none = s := by
  unfold State.sweptUp
  rw [runPorts_idle hq]
  exact openDebug_idle hd

theorem sweptUp_answers (hq : s.lockQ = []) (hd : s.debugWant = false) (h : Ctl) : s.sweptUp (some h) = s.answer 0x11 h (h.answer resOK) := by
  unfold State.sweptUp
  rw [runPorts_idle hq]
  have hr := State.RingOp.reply (s := s) h.fn (some (s.ring h.sq).pair) (h.replyBytes 0x11 (h.answer resOK))
  exact openDebug_idle ((congrArg State.debugWant hr.frame).trans hd)

/-- `t` is `s` with a teardown asked for and its lock taken: what the sweep reads of the partition is the same. -/
structure State.Readied (s t : State) (p : Nat) : Prop where
  regs : ∀ g ∈ [F.SEC_PPANE_PANES, F.RQT_PART_ENT_BASE, F.RQT_PART_ENT_COUNT], t.getF g p = s.getF g p
  owners : ∀ c, t.getF F.LATCH_TCTX_OWNER c = s.getF F.LATCH_TCTX_OWNER c
  lockQ : t.lockQ = s.lockQ
  debugWant : t.debugWant = s.debugWant

theorem Readied.tornDown (h : s.Readied t p) (ht : t.TornDown u p) : s.TornDown u p := by
  have hp : t.coresOf p = s.coresOf p := coresOf_congr (h.regs _ (by simp))
  have hb := h.regs F.RQT_PART_ENT_BASE (by simp)
  have hc := h.regs F.RQT_PART_ENT_COUNT (by simp)
  have hr := ht.requests
  rw [hb, hc] at hr
  exact { ht with
    cores := hp ▸ ht.cores
    requests := hr
    contexts := fun c hlt ho => ht.contexts c hlt ((h.owners c).trans ho) }

/-! ## The lock -/

/-- A teardown is asked for. -/
def State.tearing (s : State) (p : Nat) (ctl : Option Ctl) : State := s.modPsec p (fun x => { x with tear := true, tearCtl := ctl })

theorem tearing_psec (s : State) (p : Nat) (ctl : Option Ctl) : ((s.tearing p ctl).psecOf p).tear = true ∧ ((s.tearing p ctl).psecOf p).tearCtl = ctl := by
  rw [State.tearing, psecOf_modPsec_same]
  exact ⟨rfl, rfl⟩

/-- The lock of a teardown, taken, and the partition's channels stopped. -/
def State.locking (s : State) (p : Nat) : State := (s.chansOf p).foldl State.stopChan (s.grantLock 5 p)

theorem grantLock_free (h : s.lockQ = []) : s.grantLock 5 p = s.takeLocks 5 [p] := by
  have hl : s.leaveQ 5 p = s := if_neg (by rw [h]; simp)
  unfold State.grantLock
  rw [hl]
  rfl

theorem stopChan_getF (h : g.reg ∉ [Reg.DMA_CHSTAT, .DMA_ACTIVE, .DMA_POOL]) (s : State) (i j : Nat) : (s.stopChan i).getF g j = s.getF g j := by
  simp only [List.mem_cons, List.not_mem_nil, or_false, not_or] at h
  rw [stopChan_def, getF_dmaBusy (.inl h.1) h.2.1 h.2.2, State.stopMark]
  split
  · rw [getF_setF_apart _ (by decide) (.inl h.1)]
    rfl
  · rfl

theorem stopChan_flight (hf : (s.chan k).flight = []) (i : Nat) : ((s.stopChan i).chan k).flight = [] := by
  rw [stopChan_def]
  have he : ((s.stopMark i).dmaBusy i).chan k = (s.stopMark i).chan k := by
    rw [dmaBusy_eq]
    rfl
  rw [he, State.stopMark]
  by_cases hk : k = i
  · subst hk
    rw [if_pos hf]
    exact (congrArg Chan.flight (State.setChan_chan_same s k _)).trans hf
  · split
    · exact (congrArg Chan.flight (State.setChan_chan_ne s i _ hk)).trans hf
    · exact (congrArg Chan.flight ((State.setChan_chan_ne _ i _ hk).trans (State.setChan_chan_ne s i _ hk))).trans hf

theorem stopAll_flight (l : List Nat) (s : State) (hf : (s.chan k).flight = []) : ((l.foldl State.stopChan s).chan k).flight = [] := by
  induction l generalizing s with
  | nil => exact hf
  | cons i l ih => exact ih _ (stopChan_flight hf i)

theorem takeLocks_locks (s : State) (code : Nat) (rs : List Nat) : (s.takeLocks code rs).locks =
    s.locks.filter (fun (l : Nat × Nat) => l.1 != 1 || s.sliceOn l.2) ++ rs.map (fun r => (code, r)) := rfl

theorem takeLocks_getF (h : g.reg ≠ .CTL_MLOCK) (s : State) (code : Nat) (rs : List Nat) (j : Nat) : (s.takeLocks code rs).getF g j = s.getF g j :=
  getF_takeLocks h rs j

/-- With no lock in the way and nothing in flight, the lock is taken and the partition can be swept. -/
theorem locking_spec (hq : s.lockQ = []) (hf : ∀ i ∈ s.chansOf p, (s.chan i).flight = []) : s.Readied (s.locking p) p ∧
    (s.locking p).locked 5 p = true ∧ (s.locking p).psec = s.psec ∧
    ((s.locking p).chansOf p).all (fun i => ((s.locking p).chan i).flight == [] || ((s.locking p).chan i).halt == 2) = true := by
  have hg : ∀ (g : Fld) (j : Nat), g.reg ∉ [Reg.DMA_CHSTAT, .DMA_ACTIVE, .DMA_POOL] → g.reg ≠ .CTL_MLOCK → (s.locking p).getF g j = s.getF g j :=
    fun g j h h' => by
      rw [State.locking, foldl_keep (f := State.stopChan) (g := fun t : State => t.getF g j) (fun t i _ => stopChan_getF h t i j), grantLock_free hq,
        takeLocks_getF h']
  have hfl : ∀ i ∈ s.chansOf p, ((s.locking p).chan i).flight = [] := fun i hi => by
    refine stopAll_flight _ _ ?_
    rw [grantLock_free hq]
    exact hf i hi
  have hco : (s.locking p).chansOf p = s.chansOf p := by
    refine List.filter_congr fun i _ => ?_
    rw [State.chanOwner, State.chanOwner, hg _ i (by decide) (by decide)]
  obtain ⟨r, d, he⟩ := stopAll_eq (s.chansOf p) (s.grantLock 5 p)
  have htl := takeLocks_locks s 5 [p]
  rw [← State.locking, grantLock_free hq, takeLocks_eq] at he
  generalize s.locking p = w at hg hfl hco he
  refine ⟨⟨fun g h => ?_, fun c => hg _ c (by decide) (by decide), (congrArg State.lockQ he).trans rfl, (congrArg State.debugWant he).trans rfl⟩,
    ?_, (congrArg State.psec he).trans rfl, ?_⟩
  · simp only [List.mem_cons, List.not_mem_nil, or_false] at h
    rcases h with h | h | h <;> rw [h] <;> exact hg _ p (by decide) (by decide)
  · have hl : w.locks = s.locks.filter (fun (l : Nat × Nat) => l.1 != 1 || s.sliceOn l.2) ++ [(5, p)] := ((congrArg State.locks he).trans rfl).trans htl
    rw [State.locked, hl, List.contains_iff_mem]
    exact List.mem_append_right _ List.mem_cons_self
  · rw [hco, List.all_eq_true]
    intro i hi
    rw [hfl i hi]
    rfl

theorem mayLock_free (hl : s.locks = []) (hq : s.lockQ = []) (code x : Nat) : s.mayLock code x = true := by
  unfold State.mayLock State.lockBlocked
  rw [hl, hq]
  rfl

theorem tearOn_locks (ht : (s.psecOf p).tear = true) (h0 : s.locked 5 p = false) (hm : s.mayLock 5 p = true)
    (hl : (s.locking p).locked 5 p = true)
    (hf : ((s.locking p).chansOf p).all (fun i => ((s.locking p).chan i).flight == [] || ((s.locking p).chan i).halt == 2) = true) :
    s.tearOn p = (s.locking p).tearDown p := by
  have hn : ¬ s.locked 5 p = true := by rw [h0]; exact Bool.false_ne_true
  unfold State.tearOn
  dsimp only
  rw [if_neg (not_not.2 ht), if_neg hn, if_pos hm, ← State.locking]
  exact if_pos ⟨hl, hf⟩

/-- With no lock in the way and nothing in flight, a teardown sweeps its partition and, when a message asked for it, answers. -/
theorem tearAsk_sweeps (ctl : Option Ctl) (hl : s.locks = []) (hq : s.lockQ = []) (hd : s.debugWant = false)
    (hf : ∀ i ∈ s.chansOf p, (s.chan i).flight = []) :
    ∃ v, s.TornDown v p ∧ v.lockQ = [] ∧ v.debugWant = false ∧ s.tearAsk p ctl = v.sweptUp ctl := by
  have hr : s.Readied (s.tearing p ctl) p := ⟨fun _ _ => rfl, fun _ => rfl, rfl, rfl⟩
  obtain ⟨ht, hc⟩ := tearing_psec s p ctl
  have hask : s.tearAsk p ctl = (s.tearing p ctl).tearOn p := rfl
  have hl' : (s.tearing p ctl).locks = [] := hl
  have hq' : (s.tearing p ctl).lockQ = [] := hq
  have hf' : ∀ i ∈ (s.tearing p ctl).chansOf p, ((s.tearing p ctl).chan i).flight = [] := hf
  have hd' : (s.tearing p ctl).debugWant = false := hd
  generalize s.tearing p ctl = w at hr ht hc hask hl' hq' hf' hd'
  obtain ⟨r1, r2, r3, r4⟩ := locking_spec hq' hf'
  have hon := tearOn_locks ht (by rw [State.locked, hl']; rfl) (mayLock_free hl' hq' 5 p) r2 r4
  have hps : (w.locking p).psecOf p = w.psecOf p := congrArg (fun t => tget PSec.init t p) r3
  generalize w.locking p = x at r1 hon hps
  obtain ⟨t1, t2, t3⟩ := swept_tornDown x p
  refine ⟨x.swept p, Readied.tornDown hr (Readied.tornDown r1 t1), t2 (r1.lockQ.trans hq'), t3.trans (r1.debugWant.trans hd'), ?_⟩
  rw [hask, hon, tearDown_def, hps, hc]

end Sys2Proof.Machine
end

section
/-! SUPPORT. Partitions created (R343), and the creation and teardown of partitions, settled. -/

namespace Sys2Proof.Machine

variable {s t u : State} {p n i k j : Nat} {g : Fld} {o : Owners} {l : List Nat}

/-! ## Create -/

/-- A memory key is drawn for a partition. -/
def State.keyed (s : State) (p : Nat) : State :=
  { s with free := s.free + 1, keys := tset MemKey.init s.keys p ⟨s.free + 1, false⟩ }

/-- Cores are given to a partition. -/
def State.coresGiven (s : State) (l : List Nat) (p : Nat) : State := l.foldl (fun s n => s.setF F.CORE_ID_PARTITION n p) s

/-- The partition is active, and its base routes stand. -/
def State.activated (s : State) (p : Nat) : State := (s.setF F.SEC_PCTL_STATE p pcACTIVE).countParts.restoreBase p

theorem create_def (hx : s.exists' p = false) (he : s.createErr p = 0) :
    s.create p = ((s.keyed p).coresGiven (s.coresOf p) p).activated p :=
  (if_neg (by rw [hx]; decide)).trans (if_neg (not_not.2 he))

theorem create_refused (hx : s.exists' p = false) (he : s.createErr p ≠ 0) : s.create p = s.setF F.SEC_PCTL_ERR p (s.createErr p) :=
  (if_neg (by rw [hx]; decide)).trans (if_pos he)

theorem coresGiven_regs (s : State) (l : List Nat) (p : Nat) : s.OnlyRegs (s.coresGiven l p) :=
  List.foldlRecOn (motive := fun t : State => t = { s with regs := t.regs }) l _ rfl fun t ht n _ => by
    rw [ht]
    rfl

theorem getF_coresGiven (h : g.reg ≠ .CORE_ID) (s : State) (l : List Nat) (p j : Nat) : (s.coresGiven l p).getF g j = s.getF g j :=
  foldl_keep (g := fun t : State => t.getF g j) (fun t _ _ => getF_setF_apart t (by decide) (.inl h)) s

theorem coresGiven_part (h : n ∈ l) (s : State) (hp : p < 16) : (s.coresGiven l p).getF F.CORE_ID_PARTITION n = p :=
  foldl_read (f := fun (s : State) n => s.setF F.CORE_ID_PARTITION n p) (g := fun t : State => t.getF F.CORE_ID_PARTITION n) (P := fun _ => True) h
    (fun _ _ _ => trivial) (fun t _ => (getF_setF_same t (by decide)).trans (Nat.mod_eq_of_lt hp))
    (fun t x hx => getF_setF_ne t (by decide) (.inr (.inl hx.symm))) trivial

/-- The register of a route table: the members' or the groups'. -/
def entryReg (mbr : Bool) : Reg := if mbr then .RTE_MBR else .RTE_GRP

theorem entryReg_mem (mbr : Bool) : entryReg mbr ∈ [Reg.RTE_MBR, .RTE_GRP] := by
  cases mbr
  · exact List.mem_cons_of_mem _ List.mem_cons_self
  · exact List.mem_cons_self

/-- A write of a route entry is rejected, or writes that entry alone. -/
theorem writeEntry_cases (s : State) (mbr : Bool) (i v : Nat) :
    s.writeEntry mbr i v = s.setF F.RTE_STATUS_REJECT 0 1 ∨ ∃ w, s.writeEntry mbr i v = s.wrReg (entryReg mbr) i w :=
  (ite_eq_or_eq _ _ _).imp id fun h => ⟨_, h⟩

theorem writeEntry_regs (s : State) (mbr : Bool) (i v : Nat) : s.OnlyRegs (s.writeEntry mbr i v) := by
  obtain h | ⟨w, h⟩ := writeEntry_cases s mbr i v
  · rw [h]
    rfl
  · rw [h]
    rfl

theorem getF_writeEntry (h : g.reg ∉ [Reg.RTE_MBR, .RTE_GRP, .RTE_STATUS]) (s : State) (mbr : Bool) (i v j : Nat) :
    (s.writeEntry mbr i v).getF g j = s.getF g j := by
  have hr : g.reg ≠ entryReg mbr := fun he =>
    h (List.Sublist.subset (by decide : [Reg.RTE_MBR, .RTE_GRP].Sublist [Reg.RTE_MBR, .RTE_GRP, .RTE_STATUS]) (he ▸ entryReg_mem mbr))
  have hs : g.reg ≠ .RTE_STATUS := fun he => h (by simp [he])
  obtain hw | ⟨w, hw⟩ := writeEntry_cases s mbr i v
  · rw [hw, getF_setF_apart s (by decide) (.inl hs)]
  · rw [hw, getF_wrReg_reg s hr]

/-- One base route, written back where nothing stands. -/
def State.restoreEntry (s : State) (e : Bool × Nat × Nat) : State :=
  if eValid (s.rdReg (entryReg e.1) e.2.1) then s else s.writeEntry e.1 e.2.1 e.2.2

theorem restoreBase_def (s : State) (p : Nat) :
    s.restoreBase p = (s.boot.base.filter (fun e => eOwner e.2.2 == p)).foldl State.restoreEntry s := rfl

theorem restoreBase_regs (s : State) (p : Nat) : s.OnlyRegs (s.restoreBase p) := by
  rw [restoreBase_def]
  refine List.foldlRecOn (motive := fun t : State => s.OnlyRegs t) _ _ rfl fun t ht e _ => ?_
  unfold State.restoreEntry
  split
  · exact ht
  · exact ht.trans (writeEntry_regs t _ _ _)

theorem getF_restoreBase (h : g.reg ∉ [Reg.RTE_MBR, .RTE_GRP, .RTE_STATUS]) (s : State) (p j : Nat) : (s.restoreBase p).getF g j = s.getF g j := by
  rw [restoreBase_def]
  refine foldl_keep (g := fun t : State => t.getF g j) (fun t e _ => ?_) s
  unfold State.restoreEntry
  split
  · rfl
  · exact getF_writeEntry h t _ _ _ _

theorem activated_regs (s : State) (p : Nat) : s.OnlyRegs (s.activated p) :=
  State.OnlyRegs.trans (t := (s.setF F.SEC_PCTL_STATE p pcACTIVE).countParts) rfl (restoreBase_regs _ p)

theorem getF_activated (h : g.reg ∉ [Reg.SEC_PCTL, .SEC_STATUS, .RTE_MBR, .RTE_GRP, .RTE_STATUS]) (s : State) (p j : Nat) :
    (s.activated p).getF g j = s.getF g j := by
  simp only [List.mem_cons, List.not_mem_nil, or_false, not_or] at h
  obtain ⟨h1, h2, h3, h4, h5⟩ := h
  rw [State.activated, getF_restoreBase (by simp [h3, h4, h5]), State.countParts, getF_setF_apart _ (by decide) (.inl h2),
    getF_setF_apart _ (by decide) (.inl h1)]

theorem activated_state (s : State) (p : Nat) : (s.activated p).getF F.SEC_PCTL_STATE p = 1 := by
  rw [State.activated, getF_restoreBase (by decide), State.countParts, getF_setF_apart _ (by decide) (.inl (by decide)), getF_setF_same _ (by decide)]
  rfl

/-- Registers that a creation may write. -/
def createRegs : List Reg := [.CORE_ID, .SEC_PCTL, .SEC_STATUS, .RTE_MBR, .RTE_GRP, .RTE_STATUS]

/-- What a creation leaves. -/
structure State.Created (s t : State) (p : Nat) : Prop where
  state : t.getF F.SEC_PCTL_STATE p = 1
  key : t.key p = ⟨s.free + 1, false⟩
  keys : ∀ q, q ≠ p → t.key q = s.key q
  cores : ∀ n ∈ s.coresOf p, t.getF F.CORE_ID_PARTITION n = p
  mem : t.mem = s.mem
  parts : t.parts = s.parts
  regs : ∀ (g : Fld) (j : Nat), g.reg ∉ createRegs → t.getF g j = s.getF g j

theorem create_created (hp : p < 16) (hx : s.exists' p = false) (he : s.createErr p = 0) : s.Created (s.create p) p := by
  have h1 : ((s.keyed p).key p) = ⟨s.free + 1, false⟩ := by
    simp only [State.keyed, State.key, tget_tset_same]
  have h2 : ∀ q, q ≠ p → (s.keyed p).key q = s.key q := fun q hq => by
    simp only [State.keyed, State.key, tget_tset_ne _ _ _ hq]
  have h3 : (s.keyed p).mem = s.mem ∧ (s.keyed p).parts = s.parts := ⟨rfl, rfl⟩
  have h4 : ∀ (g : Fld) (j : Nat), (s.keyed p).getF g j = s.getF g j := fun _ _ => rfl
  rw [create_def hx he]
  generalize s.keyed p = w at h1 h2 h3 h4
  have hr := (coresGiven_regs w (s.coresOf p) p).trans (activated_regs (w.coresGiven (s.coresOf p) p) p)
  have hc := fun n (hn : n ∈ s.coresOf p) => coresGiven_part hn w hp
  have hg := fun (g : Fld) (j : Nat) (h : g.reg ≠ .CORE_ID) => getF_coresGiven h w (s.coresOf p) p j
  generalize w.coresGiven (s.coresOf p) p = v at hr hc hg
  have hst := activated_state v p
  have ha := fun (g : Fld) (j : Nat) (h : g.reg ∉ [Reg.SEC_PCTL, .SEC_STATUS, .RTE_MBR, .RTE_GRP, .RTE_STATUS]) => getF_activated h v p j
  generalize v.activated p = z at hr hst ha
  exact {
    state := hst
    key := (congrArg (fun t : State => tget MemKey.init t.keys p) hr).trans h1
    keys := fun q hq => (congrArg (fun t : State => tget MemKey.init t.keys q) hr).trans (h2 q hq)
    cores := fun n hn => (ha _ n (by decide)).trans (hc n hn)
    mem := (congrArg State.mem hr).trans h3.1
    parts := (congrArg State.parts hr).trans h3.2
    regs := fun g j h => by
      simp only [createRegs, List.mem_cons, not_or] at h
      rw [ha g j (by simpa only [List.mem_cons, not_or] using h.2), hg g j h.1, h4] }

/-! ## Owners -/

/-- Registers that the owners of a partition are written to. -/
def ownerRegs : List Reg := [.SEC_PPANE, .SEC_PPORT, .SEC_PRING, .MEM_PHBM, .MEM_PCEL, .RQT_PART, .DMA_CHCFG]

/-- `t` is `s` with some registers of `rs` written, and nothing else that a creation reads. -/
structure State.OwnOp (s t : State) (rs : List Reg) : Prop where
  free : t.free = s.free
  regs : ∀ (g : Fld) (j : Nat), g.reg ∉ rs → t.getF g j = s.getF g j

namespace State.OwnOp

theorem refl (s : State) (rs : List Reg) : s.OwnOp s rs := ⟨rfl, fun _ _ _ => rfl⟩

theorem trans {rs : List Reg} (h : s.OwnOp t rs) (h' : t.OwnOp u rs) : s.OwnOp u rs :=
  ⟨h'.free.trans h.free, fun g j hg => (h'.regs g j hg).trans (h.regs g j hg)⟩

theorem mono {rs rs' : List Reg} (h : s.OwnOp t rs) (hr : ∀ r ∈ rs, r ∈ rs') : s.OwnOp t rs' := ⟨h.free, fun g j hg => h.regs g j fun h => hg (hr _ h)⟩

theorem setFs (s : State) (i : Nat) {l : List (Fld × Nat)} {rs : List Reg} (h : ∀ x ∈ l, x.1.reg ∈ rs) : s.OwnOp (s.setFs i l) rs :=
  ⟨by rw [setFs_eq], fun g j hg => getF_setFs_ne s fun x hx => .inl fun he => hg (he ▸ h x hx)⟩

theorem setF (s : State) {f : Fld} (i x : Nat) {rs : List Reg} (hf : f.reg ∈ rs) (hw : f.lo + f.w ≤ 64) : s.OwnOp (s.setF f i x) rs :=
  ⟨rfl, fun _ _ hg => getF_setF_apart s hw (.inl fun he => hg (he ▸ hf))⟩

theorem foldl {α : Type} {f : State → α → State} {rs : List Reg} (h : ∀ s x, State.OwnOp s (f s x) rs) (l : List α) (s : State) :
    s.OwnOp (l.foldl f s) rs := by
  induction l generalizing s with
  | nil => exact refl s rs
  | cons x l ih => exact (h s x).trans (ih _)

end State.OwnOp

theorem writePhbm_own (s : State) (p v : Nat) : s.OwnOp (s.writePhbm p v) [.MEM_PHBM] := by
  unfold State.writePhbm
  dsimp only
  split
  · exact .refl s _
  · have h := State.OwnOp.setFs s p (l := [(F.MEM_PHBM_FIRST, bitsOf v 0 8), (F.MEM_PHBM_LOG2C, bitsOf v 8 4), (F.MEM_PHBM_EN, bitsOf v 16 1)])
      (rs := [.MEM_PHBM]) (by simp [F.MEM_PHBM_FIRST, F.MEM_PHBM_LOG2C, F.MEM_PHBM_EN])
    exact ⟨h.free, h.regs⟩

theorem writePcel_own (s : State) (p v : Nat) : s.OwnOp (s.writePcel p v) [.MEM_PCEL] := by
  unfold State.writePcel
  dsimp only
  split
  · exact .refl s _
  · have h := State.OwnOp.setFs s p (l := [(F.MEM_PCEL_FIRST, bitsOf v 0 4), (F.MEM_PCEL_LOG2C, bitsOf v 8 3), (F.MEM_PCEL_EN, bitsOf v 16 1)])
      (rs := [.MEM_PCEL]) (by simp [F.MEM_PCEL_FIRST, F.MEM_PCEL_LOG2C, F.MEM_PCEL_EN])
    exact ⟨h.free, h.regs⟩

theorem writeRqt_own (s : State) (p v : Nat) : s.OwnOp (s.writeRqt p v) [.RQT_PART] := by
  unfold State.writeRqt
  dsimp only
  split
  · exact .refl s _
  · exact .setFs s p (by simp [F.RQT_PART_ENT_BASE, F.RQT_PART_ENT_COUNT, F.RQT_PART_CUST_BASE, F.RQT_PART_CUST_COUNT])

/-- The panes, ports and rings of a partition, written. -/
def State.sharesSet (s : State) (p : Nat) (o : Owners) : State :=
  s.setFs p [(F.SEC_PPANE_PANES, o.panes), (F.SEC_PPORT_PORTS, o.ports), (F.SEC_PRING_BASE, o.ringBase), (F.SEC_PRING_COUNT, o.ringCount)]

/-- The ring pool of a partition, written. -/
def State.poolSet (s : State) (p : Nat) (o : Owners) : State := if 1024 < o.poolMib then s else s.setF F.SEC_PRING_POOL_MIB p o.poolMib

/-- The blocks, request entries, channels and queue pairs of a partition, written. -/
def State.restSet (s : State) (p : Nat) (o : Owners) : State :=
  let s := ((s.writePhbm p o.hbm).writePcel p o.cel).writeRqt p o.rqt
  let s := o.chans.foldl (fun s i => if s.flag F.DMA_CHSTAT_BUSY i then s else s.setF F.DMA_CHCFG_OWNER i p) s
  o.qps.foldl (fun (s : State) (x : Nat × Nat) =>
    let i := x.1 * 256 + x.2
    if (s.qp i).owner = 0 ∨ (s.qp i).owner = p + 1 ∨ ¬ s.exists' ((s.qp i).owner - 1) then s.setQp i ⟨p + 1, false, []⟩ else s) s

theorem setOwners_def (s : State) (p : Nat) (o : Owners) : s.setOwners p o = ((s.sharesSet p o).poolSet p o).restSet p o := rfl

theorem restSet_own (s : State) (p : Nat) (o : Owners) : s.OwnOp (s.restSet p o) [.MEM_PHBM, .MEM_PCEL, .RQT_PART, .DMA_CHCFG] := by
  unfold State.restSet
  dsimp only
  refine State.OwnOp.trans ?_ (.foldl (fun s x => ?_) _ _)
  · refine State.OwnOp.trans ?_ (.foldl (fun s i => ?_) _ _)
    · exact ((writePhbm_own s p o.hbm).mono (by simp)).trans (((writePcel_own _ p o.cel).mono (by simp)).trans ((writeRqt_own _ p o.rqt).mono (by simp)))
    · split
      · exact .refl s _
      · exact .setF s i p (by decide) (by decide)
  · split
    · exact ⟨rfl, fun _ _ _ => rfl⟩
    · exact .refl s _

theorem poolSet_free (s : State) (p : Nat) (o : Owners) : (s.poolSet p o).free = s.free := by
  unfold State.poolSet
  split <;> rfl

theorem getF_poolSet (h : F.SEC_PRING_POOL_MIB.Apart g) (s : State) (p : Nat) (o : Owners) (j : Nat) : (s.poolSet p o).getF g j = s.getF g j := by
  unfold State.poolSet
  split
  · rfl
  · exact getF_setF_apart s (by decide) h

theorem Owners.ok_bounds (h : o.ok = true) : o.panes < 2 ^ 32 ∧ o.ports < 2 ^ 36 ∧ o.ringBase < 65536 ∧ o.ringCount ≤ 65536 := by
  simp only [Owners.ok, Bool.and_eq_true, decide_eq_true_eq] at h
  obtain ⟨⟨⟨⟨⟨h1, h2⟩, h3⟩, h4⟩, -⟩, -⟩ := h
  exact ⟨h1, h2, h3, h4⟩

theorem sharesSet_spec (h : o.ok = true) (s : State) (p : Nat) :
    (s.sharesSet p o).getF F.SEC_PPANE_PANES p = o.panes ∧ (s.sharesSet p o).getF F.SEC_PPORT_PORTS p = o.ports ∧
    (s.sharesSet p o).getF F.SEC_PRING_BASE p = o.ringBase ∧ (s.sharesSet p o).getF F.SEC_PRING_COUNT p = o.ringCount := by
  obtain ⟨h1, h2, h3, h4⟩ := Owners.ok_bounds h
  unfold State.sharesSet
  rw [setFs_cons, setFs_cons, setFs_cons, setFs_cons, setFs_nil]
  refine ⟨?_, ?_, ?_, ?_⟩
  · rw [getF_setF_apart _ (by decide) (.inl (by decide)), getF_setF_apart _ (by decide) (.inl (by decide)),
      getF_setF_apart _ (by decide) (.inl (by decide)), getF_setF_same _ (by decide)]
    exact Nat.mod_eq_of_lt h1
  · rw [getF_setF_apart _ (by decide) (.inl (by decide)), getF_setF_apart _ (by decide) (.inl (by decide)), getF_setF_same _ (by decide)]
    exact Nat.mod_eq_of_lt h2
  · rw [getF_setF_apart _ (by decide) (.inr (by decide)), getF_setF_same _ (by decide)]
    exact Nat.mod_eq_of_lt h3
  · rw [getF_setF_same _ (by decide)]
    exact Nat.mod_eq_of_lt (lt_of_le_of_lt h4 (by decide))

/-- What the owners' write leaves. -/
theorem setOwners_spec (h : o.ok = true) (s : State) (p : Nat) : s.OwnOp (s.setOwners p o) ownerRegs ∧
    (s.setOwners p o).getF F.SEC_PPANE_PANES p = o.panes ∧ (s.setOwners p o).getF F.SEC_PPORT_PORTS p = o.ports ∧
    (s.setOwners p o).getF F.SEC_PRING_BASE p = o.ringBase ∧ (s.setOwners p o).getF F.SEC_PRING_COUNT p = o.ringCount := by
  obtain ⟨h1, h2, h3, h4⟩ := sharesSet_spec h s p
  have hs : s.OwnOp (s.sharesSet p o) ownerRegs := .setFs s p (by simp [ownerRegs, F.SEC_PPANE_PANES, F.SEC_PPORT_PORTS, F.SEC_PRING_BASE, F.SEC_PRING_COUNT])
  rw [setOwners_def]
  generalize s.sharesSet p o = a at h1 h2 h3 h4 hs
  have hp : a.OwnOp (a.poolSet p o) ownerRegs := ⟨poolSet_free a p o, fun g j hg => getF_poolSet (.inl fun he => hg (by rw [he]; decide)) a p o j⟩
  have hg := fun (g : Fld) (h : F.SEC_PRING_POOL_MIB.Apart g) => getF_poolSet h a p o p
  generalize a.poolSet p o = b at hp hg
  have hr := restSet_own b p o
  refine ⟨hs.trans (hp.trans (hr.mono (by decide))), ?_, ?_, ?_, ?_⟩
  · rw [hr.regs _ p (by decide), hg _ (.inl (by decide)), h1]
  · rw [hr.regs _ p (by decide), hg _ (.inl (by decide)), h2]
  · rw [hr.regs _ p (by decide), hg _ (.inr (by decide)), h3]
  · rw [hr.regs _ p (by decide), hg _ (.inr (by decide)), h4]

/-! ## The messages -/

theorem createErr_lt (s : State) (p : Nat) : s.createErr p < 8 := by
  unfold State.createErr
  repeat' split
  all_goals decide

theorem exists_state (s : State) (p : Nat) : s.exists' p = (s.getF F.SEC_PCTL_STATE p != 0) := rfl

/-- The answer of PART_CREATE to a partition that is free. -/
theorem partCreate_exec {h : Ctl} (ha : s.Admits 0x10 h .pf true false) (hp : p < 16) (ho : o.ok = true) (hx : (s.takeEntry h).exists' p = false) :
    exec (.partCreate h p o) s = (let w := ((s.takeEntry h).setOwners p o).create p
      .next (w.answer 0x10 h (if w.exists' p then h.answer resOK else ⟨resFAILED, h.handle, leBytes 1 (w.getF F.SEC_PCTL_ERR p)⟩))) := by
  change execPartCreate h p o s = _
  rw [execPartCreate, control_admits ha]
  generalize s.takeEntry h = u at hx
  dsimp only
  rw [if_neg (not_not.2 ⟨hp, ho⟩), if_neg (by rw [hx]; decide)]
  generalize (u.setOwners p o).create p = w
  cases w.exists' p <;> rfl

theorem partTeardown_exec {h : Ctl} (ha : s.Admits 0x11 h .pf false false) (hp : p < 16) (hx : (s.takeEntry h).exists' p = true)
    (ht : ((s.takeEntry h).psecOf p).tear = false) (hn : (s.takeEntry h).plansOf p = []) :
    exec (.partTeardown h p) s = .next ((s.takeEntry h).tearAsk p (some h)) := by
  change execPartTeardown h p s = _
  rw [execPartTeardown, control_admits ha]
  generalize s.takeEntry h = u at hx ht hn
  rw [if_neg (not_not.2 ⟨hp, hx⟩), if_neg (by rw [ht]; decide), if_neg (not_not.2 hn)]

theorem teardown_exec (hp : p < 16) (hs : s.pairStopped = false) (ht : (s.psecOf p).tear = false) (hx : s.exists' p = true) :
    exec (.teardown p) s = if s.plansOf p ≠ [] then .next (s.setF F.SEC_PCTL_ERR p 0x04) else .next (s.tearAsk p none) :=
  (if_neg (not_not.2 hp)).trans ((if_neg (by rw [hs]; decide)).trans ((if_neg (by rw [ht]; decide)).trans (if_neg (by rw [hx]; decide))))

theorem create_exec (hp : p < 16) (hs : s.pairStopped = false) : exec (.create p) s = .next (s.create p) :=
  (if_neg (not_not.2 hp)).trans (if_neg (by rw [hs]; decide))

/-- With a lock in its way a teardown waits. -/
theorem tearAsk_waits (hm : s.mayLock 5 p = false) (hl : s.locked 5 p = false) : s.tearAsk p none = (s.tearing p none).askLock 5 p := by
  obtain ⟨ht, -⟩ := tearing_psec s p none
  have hask : s.tearAsk p none = (s.tearing p none).tearOn p := rfl
  have hm' : (s.tearing p none).mayLock 5 p = false := hm
  have hl' : (s.tearing p none).locked 5 p = false := hl
  generalize s.tearing p none = w at ht hask hm' hl'
  have h1 : ¬ w.locked 5 p = true := by rw [hl']; exact Bool.false_ne_true
  have h2 : ¬ w.mayLock 5 p = true := by rw [hm']; exact Bool.false_ne_true
  have h3 : ¬ (w.askLock 5 p).locked 5 p = true := by
    have he : (w.askLock 5 p).locks = w.locks := by
      unfold State.askLock
      split <;> rfl
    rw [State.locked, he]
    exact h1
  rw [hask]
  unfold State.tearOn
  dsimp only
  rw [if_neg (not_not.2 ht), if_neg h1, if_neg h2]
  exact if_neg fun h => h3 h.1

theorem clearCores_byte {ns : List Nat} {a : Nat} (hn : n ∈ ns) (ha : a < spadSize) (s : State) : (s.clearCores ns).byte (spadAddr n a) = 0 := by
  have hm : (s.clearCores ns).mem = (s.wipeCores ns).mem := by rw [clearCores_eq]
  rw [State.byte, hm]
  refine tget_filter_none (fun v => ?_) s.mem
  rw [Bool.not_eq_false', List.any_eq_true]
  refine ⟨n, hn, ?_⟩
  simp only [Bool.and_eq_true, decide_eq_true_eq]
  unfold spadAddr
  omega

/-- Settles O29: a creation and the owners' write touch registers and keys alone, and a teardown is its sweep once its lock is free. -/
theorem partitionsComeAndGo : Obligations.PartitionsComeAndGo := by
  unfold Obligations.PartitionsComeAndGo
  refine ⟨?_, ?_, ?_, ?_, ?_, ?_, ?_, fun s ns n a hn ha => clearCores_byte hn ha s⟩
  · intro s p hp hs hx he
    have h := create_created hp hx he
    exact ⟨_, create_exec hp hs, h.state, h.key, h.cores, h.mem, h.parts, h.keys⟩
  · intro s p hp hs hx he
    exact (create_exec hp hs).trans (congrArg Host.Outcome.next (create_refused hx he))
  · intro s h p o ha hp ho u hx
    have he := partCreate_exec ha hp ho hx
    obtain ⟨hown, h1, h2, h3, h4⟩ := setOwners_spec ho u p
    have hx' : (u.setOwners p o).exists' p = false := by
      rw [exists_state, hown.regs _ p (by decide)]
      exact hx
    change exec (.partCreate h p o) s = (let w := (u.setOwners p o).create p
      Host.Outcome.next (w.answer 0x10 h (if w.exists' p then h.answer resOK else ⟨resFAILED, h.handle, leBytes 1 (w.getF F.SEC_PCTL_ERR p)⟩))) at he
    generalize u.setOwners p o = v at he hown h1 h2 h3 h4 hx'
    refine ⟨fun h0 => ?_, fun h0 => ?_⟩
    · have hc := create_created hp hx' h0
      have hy : (v.create p).exists' p = true := by
        rw [exists_state, hc.state]
        rfl
      refine ⟨v.create p, ?_, hc.state, ?_, ?_, ?_, ?_, ?_, fun n hn hb => hc.cores n ?_⟩
      · rw [he]
        dsimp only
        rw [if_pos hy]
      · rw [hc.key, hown.free]
      · rw [hc.regs _ p (by decide), h1]
      · rw [hc.regs _ p (by decide), h2]
      · rw [hc.regs _ p (by decide), h3]
      · rw [hc.regs _ p (by decide), h4]
      · exact List.mem_filter.2 ⟨List.mem_range.2 hn, by rw [h1]; exact hb⟩
    · have hlt := createErr_lt v p
      have hcr := create_refused hx' h0
      have hy : (v.setF F.SEC_PCTL_ERR p (v.createErr p)).exists' p = false := by
        rw [exists_state, getF_setF_apart _ (by decide) (.inr (by decide))]
        exact hx'
      have hg : (v.setF F.SEC_PCTL_ERR p (v.createErr p)).getF F.SEC_PCTL_ERR p = v.createErr p :=
        (getF_setF_same v (by decide)).trans (Nat.mod_eq_of_lt (hlt.trans (by decide)))
      rw [he]
      dsimp only
      rw [hcr, hy, hg]
      rfl
  · intro s p hp hs ht hx hn hl hq hd hf
    obtain ⟨v, h1, h2, h3, h4⟩ := tearAsk_sweeps none hl hq hd hf
    refine ⟨v, (teardown_exec hp hs ht hx).trans ((if_neg (not_not.2 hn)).trans ?_), h1⟩
    rw [h4, sweptUp_idle h2 h3]
  · intro s p hp hs ht hx hn hm hl
    exact (teardown_exec hp hs ht hx).trans ((if_neg (not_not.2 hn)).trans (congrArg Host.Outcome.next (tearAsk_waits hm hl)))
  · intro s p hp hs ht hx hn
    exact (teardown_exec hp hs ht hx).trans (if_pos hn)
  · intro s h p ha hp u hx ht hn hl hq hd hf
    obtain ⟨v, h1, h2, h3, h4⟩ := tearAsk_sweeps (some h) hl hq hd hf
    refine ⟨v, (partTeardown_exec ha hp hx ht hn).trans ?_, h1⟩
    rw [h4, sweptUp_answers h2 h3]

end Sys2Proof.Machine
end
